-- ==== Sys2Proof/Word.lean ====
section
/-! DEFINITION. The words and bytes of the DZ640: what the manual reads, writes, shifts or masks as bits. -/
namespace Sys2Proof

/-- A 32-bit register or scalar word (R5, R173). -/
abbrev Word := BitVec 32

/-- A byte of a frame, of a descriptor or of memory. -/
abbrev Byte := BitVec 8

end Sys2Proof
end

