-- ==== Sys2Proof/Syntax.lean ====
section
/-! DEFINITION. The commands that reach the DZ640 from outside, and the events of its own engines: one constructor per row of the
table of operations and events. Operands are what the row's words leave to the sender: an index, an address, bytes, a measured
time. -/
namespace Sys2Proof

/-- Who asks for a sync operation (Table SYN-1): a tile's SYNC, or a SYNC_OP descriptor by SQ and ring position. -/
inductive Requester where
  | tile (k : Fin 1024)
  | desc (q : Fin 16) (pos : Nat)
  deriving DecidableEq, Repr


/-- A word of a configuration memory (Table HRW-4). `unit` is a tile 0–1,023, SUk of plot p as 1,024 + 8p + k, or the switch of tile t
as 2,048 + t. -/
inductive HrwWord where
  /-- IDs 0x01 and 0x02: a tile's, a steering unit's or a switch's bank. -/
  | config (unit : Fin 3072) (word : Nat) (shadow : Bool)
  /-- ID 0x04: a copy of a set-up register on a compute die. -/
  | regCopy (index word : Nat)
  /-- IDs 0x20–0x25, 0x40, 0x10 and 0x30: an entry of a table, the station table as 32 × port + index. -/
  | table (id : Nat) (index word : Nat)
  /-- ID 0x05: a field-map entry of a port. -/
  | fieldMap (port : Fin 8) (entry : Fin 64) (word : Nat)
  /-- ID 0x06: a slot-table entry. -/
  | slot (index : Fin 16) (word : Nat)
  /-- ID 0x07: a register master on the I/O die, all three copies of which disagree. -/
  | master (index word : Nat)
  deriving DecidableEq, Repr

/-- Where the streamer takes a token from (R215, R221, R261): a 64-byte block of the member's input, a word of the plot buffer (with the 64-bit
words of it that SECDED corrects in this read), or the line last delivered to the die. -/
inductive FeedSrc where
  | input (block : Nat)
  | buffer (word : Fin 16384) (corrected : Fin 9)
  | line
  deriving DecidableEq, Repr

/-- A token that the streamer feeds: its network, ITER, the member that it belongs to (none for SHR = 1), and the byte offset of its data in
the source. -/
structure Feed where
  net : Fin 3
  iter : BitVec 8
  member : Option (Fin 32)
  src : FeedSrc
  at64 : Fin 64
  deriving DecidableEq, Repr

/-- An operation of an HBM stack's IEEE 1500 wrapper (R438): connected only, memory built-in self-test, a lane test and its result, a
lane repair that lasts until reset or is fused, a temperature readout. -/
inductive HbmOp where
  | connect
  | selfTest
  | laneTest (result : Nat)
  | softRepair (lane : Nat)
  | hardRepair (lane : Nat)
  | temperature (t : Nat)
  deriving DecidableEq, Repr

/-- The commands of the block: one constructor per row of the table of operations and events. -/
inductive Instr where
  /-- POWER_ON (R309): Rails rise in their groups and the engine takes a cold reset that clears everything. -/
  | powerOn (gen : Fin 16) (rev : Fin 16) (serial : BitVec 64) (fm63 : List Byte) (seed : Fin 16) (smb : Fin 8)
  /-- RAIL_FAULT (R459): A rail stays outside its fault window for 0.5 µs; the engine stops clocks, drives FAULT_N low and holds itself in hard reset. -/
  | railFault
  /-- DEV_RST_ASSERT (R301): DEV_RST_N goes low for at least 10 µs and the engine takes a hard reset, power falling below 20 W within 2 µs. -/
  | devRstAssert (ns : Nat)
  /-- DEV_RST_RELEASE (R311): DEV_RST_N rises; straps are sampled and bring-up starts at phase OTP. -/
  | devRstRelease
  /-- BRINGUP_OTP_DONE (R311): OTP fuses are loaded and checked by CRC, or bring-up fails with FAIL = 1. -/
  | bringupOtpDone (good : Bool)
  /-- BRINGUP_CLOCKS_LOCKED (R311): The root PLL locks, DEV_TIME starts at 0 and compute-die DLLs lock, or bring-up fails with FAIL = 2. -/
  | bringupClocksLocked (pll : Bool) (dlls : Fin 16)
  /-- BRINGUP_LINKS_TRAINED (R311): All die links finish full training with every quad tested. -/
  | bringupLinksTrained (quads : List (Fin 16 × Fin 16))
  /-- BRINGUP_MEMORY_DONE (R311): HBM training, initialisation and zero-fill of every mapped half complete. -/
  | bringupMemoryDone (good : Fin 16)
  /-- STANDBY_REACHED (R311): The engine reaches phase STANDBY, gates plots, measures P_std and applies a held RUN. -/
  | standbyReached (pstd : Nat)
  /-- THERMAL_TRIP (R302): Junction reaches 115 °C; THERMTRIP_N latches and the engine holds itself in hard reset. -/
  | thermalTrip
  /-- PLL_LOSS (R297): REFCLK_ROOT stops or the root PLL loses lock; the engine takes an internal hard reset and waits for relock. -/
  | pllLoss
  /-- PLL_RELOCK (R297): The root PLL locks again and bring-up runs from phase OTP. -/
  | pllRelock
  /-- DLL_LOST (R298): A compute die's CLK_M or CLK_L DLL loses lock; the die is declared fatal. -/
  | dllLost (d : Fin 4) (c : Fin 2)
  /-- STACK_LOSS (R396): A memory controller loses stack training or a stack reads above 105 °C for 1 ms, making its die fatal. -/
  | stackLoss (d : Fin 4)
  /-- RUN_SET (R358): A write of GLB_CTL.RUN = 1 sets RUN (held until STANDBY or a permitted TAP instruction) and locks every RWL field. -/
  | runSet
  /-- SOFT_RST (R303): A write of GLB_CTL.SOFT_RST requests a soft reset, ramped or immediate per SOFT_IMM, or is ignored if not RUNNING. -/
  | softRst (imm : Bool)
  /-- SOFT_RESET_QUIESCE (R303): After the ramp reaches standby (or at once when immediate), admission stops, in-flight messages end INTERNAL and descriptors abort. -/
  | softResetQuiesce
  /-- SOFT_RESET_CLEAR (R303): Quiesce completes; HBM enters self-refresh, the data path clears and slot table entries are verified. -/
  | softResetClear (bad : Fin 65536)
  /-- SOFT_RESET_RESTORE_DONE (R303): Resident areas are refilled, the engine returns to standby and raises RST_DONE, then continues from hold-off. -/
  | softResetRestoreDone
  /-- PERST_ASSERT (R305): PERST_N goes low; the PCIe core and host interface reset, and after RUN either isolation or a ramped soft reset follows. -/
  | perstAssert (ns : Nat)
  /-- FLR (R306): A function-level reset clears ring state and MSI-X and isolates the host interface while the data path runs on. -/
  | flr
  /-- SMB_RST (R429): SMB_RST_N goes low; the two-wire port releases the bus and resets its whole block, resampling straps on the rise. -/
  | smbRst (ns : Nat)
  /-- TDIV_CHANGE_REQUEST (R293): The Yoke requests a new CLK_T divider for a plot. -/
  | tdivChangeRequest (p : Fin 64) (code : Fin 4)
  /-- TDIV_SWITCH (R293): At the first frame boundary at least 20 ns after the request, the plot's CLK_T switches to the new divider without losing state. -/
  | tdivSwitch (p : Fin 64)
  /-- DEV_TIME_LOAD (R295): A write of CLK_TIME_SET_LO before RUN loads DEV_TIME with the 64-bit value. -/
  | devTimeLoad (lo : Word)
  /-- DEV_TIME_LO_READ (R449): A read of CLK_DEV_TIME_LO returns the low half and latches the high half for the next HI read. -/
  | devTimeLoRead
  /-- COUNTER_LO_READ (R8): A BAR0 read of a counter's LO word returns it and latches the HI half into the snapshot. -/
  | counterLoRead (idx : Fin 2048)
  /-- COUNTER_HI_READ (R8): A BAR0 read of a counter's HI word returns the snapshot left by the last LO read. -/
  | counterHiRead (idx : Fin 2048)
  /-- COUNTER_CLEAR (R451): A write of 0 to a counter's LO word clears COUNT and OVF together. -/
  | counterClear (idx : Fin 2048)
  /-- REGISTER_WRITE (R444): A full-dword BAR0 write to a register without its own row updates RW fields, clears RW1C bits and keeps RWL fields after RUN. -/
  | registerWrite (off : BitVec 16) (v : Word) (be : Fin 16)
  /-- PTP_MASTER_ADOPT (R448): A write of BBP_PTP_MASTER2 makes the servo adopt MASTER0–2 together as its master identity. -/
  | ptpMasterAdopt (v : BitVec 16)
  /-- PORT_ENABLE (R45): A write of TRK_CTL.EN = 1 enables a trunk port, cycle 0 starting at the next qualifying frame boundary or after a wind-down. -/
  | portEnable (n : Fin 8)
  /-- PORT_DISABLE (R68): A write of TRK_CTL.EN = 0 winds the port down at once: reception stops, stations are lost and begun replies retract. -/
  | portDisable (n : Fin 8)
  /-- PORT_WIND_DOWN_DONE (R68): The last wind-down RETRACT is sent, the BP goes silent and any pending re-enable takes effect. -/
  | portWindDownDone (n : Fin 8)
  /-- CYCLE_START (R45): A trunk cycle begins with its cycle sync on the BP and the cycle number advances. -/
  | cycleStart (n : Fin 8) (energy : Bool)
  /-- FIELD_MAP_SEED_LOAD (R33): 0.20 µs before a slot the receiver loads the slot owner's field-map entry, or entry 63, as seed. -/
  | fieldMapSeedLoad (n : Fin 8) (slot : Nat) (ahead busy : Bool)
  /-- CODEWORD_DECODE (R29): An interleave block of gather-pair codewords is decoded and its bytes are handed to the Plough 0.15 µs later. -/
  | codewordDecode (n : Fin 8) (symbols : List Int)
  /-- IMPULSE_FIRE (R36): EVM exceeds TRK_IMP_THR for 16 consecutive symbols; all adaptation loops freeze and the burst is marked impulse-hit. -/
  | impulseFire (n : Fin 8)
  /-- IMPULSE_RELEASE (R37): EVM stays under threshold for TRK_IMP_GUARD symbols and the freeze is released. -/
  | impulseRelease (n : Fin 8)
  /-- SLOT_MISSED (R40): No start delimiter is found within 128 symbols of a granted slot's start; the slot counts as missed. -/
  | slotMissed (n : Fin 8)
  /-- BURST_CUT_AT_SLOT_END (R41): No end delimiter arrives by the granted slot's end; the burst ends with its final codeword and header failed. -/
  | burstCutAtSlotEnd (n : Fin 8) (lost : Nat)
  /-- BURST_HEADER (R25): A burst header completes and is checked for CRC, VER, LEN and CYC. -/
  | burstHeader (n : Fin 8) (symbols : List Int) (counted : Nat)
  /-- BURST_END (R34): A gather-pair burst ends and the engine decides write-back, advance, collision, repair and sign-on handling. -/
  | burstEnd (n : Fin 8) (final : List Byte) (offset : Int) (peaks : Bool) (evm : Fin 256) (tEnd : Nat)
  /-- REPAIR_SEARCH_TIMEOUT (R72): No start delimiter is found within TRK_SRCH units of W_START and the repair round fails. -/
  | repairSearchTimeout (n : Fin 8) (t : Nat)
  /-- SIGNON (R58): A qualifying sign-on record is admitted, refused, held, treated as a stranger, or ignored as quarantined. -/
  | signon (n : Fin 8)
  /-- HOLD_EXPIRY (R58): TRK_HOLD_CYC cycles pass with no host decision and a PENDING station returns to ABSENT. -/
  | holdExpiry (n : Fin 8) (idx : Fin 32)
  /-- FCS_VERDICT (R39): A frame's verdict becomes known: good when all codewords are present and the FCS checks, otherwise bad. -/
  | fcsVerdict (fid : Nat)
  /-- PUNT_TOKEN_REFILL (R109): Every 1 µs each punt reason's bucket gains PLG_PUNT_RATE/1,000 tokens up to its burst size. -/
  | puntTokenRefill
  /-- BBP_BYTES_AVAILABLE (R84): Decoded bytes of a backbone frame become available to the Plough within the interface's bound. -/
  | bbpBytesAvailable (l : Fin 8) (data : List Byte) (uncorr : Bool) (ago : Nat)
  /-- BBP_FRAME_END (R80): A backbone frame ends and its FCS verdict is known, or it is dropped at a full ingress buffer. -/
  | bbpFrameEnd (l : Fin 8)
  /-- PAUSE_REFRESH (R83): Half the sent PAUSE quanta elapse while occupancy is above XOFF and PAUSE is sent again. -/
  | pauseRefresh (l : Fin 8) (pri : Option (Fin 8))
  /-- PAUSE_RECEIVED (R82): A received PAUSE or PFC stops frame starts on the interface or priority for the quanta given. -/
  | pauseReceived (l : Fin 8) (pri : Option (Fin 8)) (quanta : BitVec 16)
  /-- BBP_LINK_DOWN (R80): A backbone interface's link goes down; a frame in reception is damaged and BBP_LINK is raised. -/
  | bbpLinkDown (l : Fin 8)
  /-- BBP_LINK_UP (R79): A backbone interface's link comes up and BBP_LINK is raised. -/
  | bbpLinkUp (l : Fin 8)
  /-- ALIGNED_REPLY_START (R85): An aligned reply's computed start time arrives and its preamble begins. -/
  | alignedReplyStart (mid : Nat)
  /-- ALIGNED_CRC_DECISION (R87): Before the first CRC byte the engine sends the correct CRC and commits, or stomps it. -/
  | alignedCrcDecision (l : Fin 8)
  /-- PTP_SYNC_RECEIVED (R89): A valid Sync from the master disciplines DEV_TIME by step, slew or PI trim. -/
  | ptpSyncReceived (l : Fin 8) (domain : BitVec 8) (source : BitVec 80) (t1 : BitVec 64) (t2 : BitVec 64)
  /-- BBP_PTP_LOST (R89): No valid Sync arrives for BBP_PTP_HOLD and the servo holds its last trim. -/
  | bbpPtpLost
  /-- SCHED_FRAME (R90): A site schedule frame is taken before classification and its payload handed to the Yoke. -/
  | schedFrame (fid : Nat)
  /-- PLOUGH_ENQUEUE (R93): An arriving frame joins the least-full parse-engine queue, or is dropped when all four are full. -/
  | ploughEnqueue (fid : Nat)
  /-- PARSE_WALK (R96): A parse engine walks a frame's header through the graph, waiting for bytes, and builds the field vector. -/
  | parseWalk (fid : Nat) (met : List HrwWord)
  /-- LATER_FRAGMENT (R102): A later IP fragment follows its live gleaning entry or waits in the holding buffer. -/
  | laterFragment (fid : Nat)
  /-- FRAG_HOLD_EXPIRY (R102): A held fragment waits PLG_FRAG_HOLD without a first fragment and is punted FRAG_ORPHAN. -/
  | fragHoldExpiry (fid : Nat)
  /-- GLEAN_EXPIRY (R101): A gleaning entry expires, freeing it and giving an incomplete set a bad verdict. -/
  | gleanExpiry (first : Nat)
  /-- ADMIT_MESSAGE (R11): A message is admitted at the later of classification and lead-position availability, taking a sequence number. -/
  | admitMessage (fid : Nat)
  /-- SHEAF_WINDOW_EXPIRY (R131): A forming sheaf's gather window expires and the sheaf closes. -/
  | sheafWindowExpiry (sheaf : Nat)
  /-- PASS_DISPATCH (R135): When its plot group is free the agent starts the first ready pass in class, close and model order. -/
  | passDispatch (gid : Fin 64)
  /-- PASS_COMPLETE (R136): A pass's slice runs to its end, unused credit returns and a gate POST is applied. -/
  | passComplete (gid : Fin 64) (used : Nat) (outs : List (Nat × List Byte)) (spills : List (Fin 1024 × Fin 16384))
  /-- SLICE_OVERRUN (R138): A slice exceeds its scaled bound plus grace; the group is flushed and its messages end SLICE_OVERRUN. -/
  | sliceOverrun (gid : Fin 64) (elapsed : Nat)
  /-- CUMIN_SHED (R141): A Cumin sheaf's uninterrupted credit wait exceeds SOW_SHED_AFTER and every member ends SHED. -/
  | cuminShed (sheaf : Nat)
  /-- ROTATION_CHECK (R142): The Sower evaluates plot temperatures and starts a rotation of an eligible group onto a valid cooler target. -/
  | rotationCheck (readings : List (Fin 64 × List (Fin 1024)))
  /-- HEADLAND_INJECT (R144): A rotating group reaches no headland within SOW_ROT_WAIT and the Sower injects one at a token-free boundary. -/
  | headlandInject (gid : Fin 64)
  /-- SEED_SHADOW_READY (R158): The seed loader completes a unit's part of the next seed and sets its shadow-ready flag. -/
  | seedShadowReady (u : Fin 3072) (cfg : BitVec 16) (mode : Fin 8) (watch : Option (Fin 16)) (words : List Word)
  /-- UNIT_FINISH_OLD_WORK (R161): A unit has seen the headland on every used input with nothing left to fire and forwards the headland. -/
  | unitFinishOldWork (u : Fin 3072)
  /-- UNIT_FLIP (R162): A unit flips its shadow bank to active, adopts GEN, CFG_ID and S, and releases held tokens. -/
  | unitFlip (u : Fin 3072)
  /-- TOKEN_ARRIVAL (R152): A token reaches a tile and enters its matching store, or is discarded as stray or stale. -/
  | tokenArrival (k : Fin 1024) (feed : Option Feed)
  /-- BLOCK_FIRE (R178): The tile chooses a fireable block and tag, delivers operands and starts at ENTRY. -/
  | blockFire (k : Fin 1024)
  /-- SU_FIRE (R156): A steering unit takes its inputs and applies SPLIT, MERGE, GATE or REPEAT. -/
  | suFire (u : Fin 512)
  /-- NOP (R180): The tile executes NOP. -/
  | nop (k : Fin 1024)
  /-- ALU (R181): The tile computes s[rd] = s[ra] op s[rb]. -/
  | alu (k : Fin 1024)
  /-- ADDI (R181): The tile adds a sign-extended immediate. -/
  | addi (k : Fin 1024)
  /-- ANDI (R181): The tile ANDs s[ra] with a zero-extended immediate. -/
  | andi (k : Fin 1024)
  /-- ORI (R181): The tile ORs s[ra] with a zero-extended immediate. -/
  | ori (k : Fin 1024)
  /-- XORI (R181): The tile XORs s[ra] with a zero-extended immediate. -/
  | xori (k : Fin 1024)
  /-- LUI (R181): The tile sets s[rd] = IMM << 16. -/
  | lui (k : Fin 1024)
  /-- SHI (R181): The tile shifts or rotates s[ra] by an immediate. -/
  | shi (k : Fin 1024)
  /-- CMP (R182): The tile sets a predicate from comparing two scalars. -/
  | cmp (k : Fin 1024)
  /-- CMPI (R182): The tile sets a predicate from comparing a scalar with an immediate. -/
  | cmpi (k : Fin 1024)
  /-- PLOG (R182): The tile combines predicates. -/
  | plog (k : Fin 1024)
  /-- MFS (R173): The tile reads a special register into s[rd]. -/
  | mfs (k : Fin 1024)
  /-- MTS (R173): The tile writes a special register, clearing TILE_FLAGS bits written as 1. -/
  | mts (k : Fin 1024)
  /-- LDS (R183): The tile loads a word from tile store. -/
  | lds (k : Fin 1024) (ecc : List (Fin 48 × Bool))
  /-- STS (R183): The tile stores a word to tile store. -/
  | sts (k : Fin 1024)
  /-- VLD (R183): The tile loads 64 bytes into a vector register. -/
  | vld (k : Fin 1024) (ecc : List (Fin 48 × Bool))
  /-- VST (R183): The tile stores a vector register. -/
  | vst (k : Fin 1024)
  /-- ALD (R183): The tile loads an accumulator bank image. -/
  | ald (k : Fin 1024) (ecc : List (Fin 48 × Bool))
  /-- AST (R183): The tile stores an accumulator bank image. -/
  | ast (k : Fin 1024)
  /-- VALU (R184): The tile computes a lane-wise vector operation under an optional mask. -/
  | valu (k : Fin 1024)
  /-- VBCST (R186): The tile broadcasts a scalar into every lane. -/
  | vbcst (k : Fin 1024)
  /-- VEXT (R186): The tile extracts one vector lane into a scalar. -/
  | vext (k : Fin 1024)
  /-- VINS (R186): The tile inserts a scalar into one vector lane. -/
  | vins (k : Fin 1024)
  /-- VCMP (R186): The tile compares vectors lane by lane into a predicate. -/
  | vcmp (k : Fin 1024)
  /-- VMAC (R188): The tile multiplies lane by lane and accumulates. -/
  | vmac (k : Fin 1024)
  /-- VMACB (R188): The tile multiplies weights by one broadcast activation lane and accumulates. -/
  | vmacb (k : Fin 1024)
  /-- AOP_ZERO (R189): AOP ZERO clears an accumulator bank. -/
  | aopZero (k : Fin 1024)
  /-- AOP_COPY (R189): AOP COPY copies one bank to another. -/
  | aopCopy (k : Fin 1024)
  /-- AOP_EXT (R189): AOP EXT extracts 16 lanes as saturated INT32 into a vector. -/
  | aopExt (k : Fin 1024)
  /-- AOP_ADDV (R189): AOP ADDV adds INT32 vector lanes into 16 accumulator lanes. -/
  | aopAddv (k : Fin 1024)
  /-- AOP_EXTF (R189): AOP EXTF extracts 16 lanes as FP32 into a vector. -/
  | aopExtf (k : Fin 1024)
  /-- GRS (R190): The tile folds a partial bank into a wide bank by a power-of-two shift and clears it. -/
  | grs (k : Fin 1024)
  /-- REQ (R191): The tile requantises a wide bank into a 4- or 8-bit vector. -/
  | req (k : Fin 1024)
  /-- CVT (R192): The tile converts vector lanes between formats. -/
  | cvt (k : Fin 1024)
  /-- RCP (R210): The tile writes reciprocal estimates of vector lanes. -/
  | rcp (k : Fin 1024)
  /-- SEND (R193): The tile sends a token with tag OT, waiting for credit. -/
  | send (k : Fin 1024)
  /-- RECV (R194): The tile waits for and consumes a matching store entry. -/
  | recv (k : Fin 1024)
  /-- TAG (R195): The tile reads CT or modifies the outgoing tag OT. -/
  | tag (k : Fin 1024)
  /-- EVENT (R197): The tile raises TIL_EVENT, waiting while a previous event is pending. -/
  | event (k : Fin 1024)
  /-- BR (R182): The tile branches to TARGET under COND. -/
  | br (k : Fin 1024)
  /-- HALT (R179): The tile ends the running block. -/
  | halt (k : Fin 1024)
  /-- SYNC_ADD (R379): A sync ADD from a tile or SYNC_OP is performed at the object's home. -/
  | syncAdd (r : Requester)
  /-- SYNC_SUB (R379): A sync SUB is performed at the object's home. -/
  | syncSub (r : Requester)
  /-- SYNC_SET (R379): A sync SET is performed at the object's home, clearing SAT. -/
  | syncSet (r : Requester)
  /-- SYNC_TRYDEC (R379): A sync TRYDEC decrements if possible and reports success. -/
  | syncTrydec (r : Requester)
  /-- SYNC_WAIT_GE (R383): A WAIT_GE joins the waiter list or is released at once. -/
  | syncWaitGe (r : Requester)
  /-- SYNC_WAIT_EQ (R383): A WAIT_EQ joins the waiter list or is released at once. -/
  | syncWaitEq (r : Requester)
  /-- SYNC_READ (R379): A sync READ returns the object's value. -/
  | syncRead (r : Requester)
  /-- SYNC_OP_TIMEOUT (R385): A waiting SYNC_OP's TIMEOUT expires and it completes with TIMEOUT. -/
  | syncOpTimeout (q : Fin 16)
  /-- SYN_WAIT_TO (R387): A gated pass waits SYN_SOWER_TO and its members end INTERNAL. -/
  | synWaitTo (sheaf : Nat)
  /-- REPLY_BUILD (R229): Once outputs and echoed bytes are available the builder fills the template in 0.05 µs. -/
  | replyBuild (mid : Nat) (met : List HrwWord)
  /-- BP_SLOT_CHOICE (R237): 0.04 µs before each BP slot the engine chooses the codeword by rank. -/
  | bpSlotChoice (n : Fin 8)
  /-- GATE_TIMEOUT (R241): RPL_GATE_MAX passes without a verdict and the verdict becomes bad with DAMAGED_REQ. -/
  | gateTimeout (mid : Nat)
  /-- HBM_READ (R250): A line read is decoded, correcting one byte or reporting a half uncorrectable. -/
  | hbmRead (die : Fin 4) (dpa : BitVec 40) (purpose : Fin 4) (owner : Nat) (e0 : List Byte) (e1 : List Byte)
  /-- HBM_WRITE (R251): A write reaches the home stack; whole halves clear poison. -/
  | hbmWrite (die : Fin 4) (dpa : BitVec 40) (purpose : Fin 3) (owner : Nat) (data : List Byte)
  /-- REFRESH (R249): A pseudo-channel's all-bank refresh blocks it for up to 0.35 µs. -/
  | refresh (stack : Fin 4) (pc : Fin 32) (waits : List Nat)
  /-- SCRUB_READ (R253): Patrol scrub reads a half, correcting or poisoning it. -/
  | scrubRead (stack : Fin 4) (err : List Byte) (raced : Bool)
  /-- COHERENCE_REQUEST (R255): The home serves a remote read, read-for-write or write with recalls and invalidations. -/
  | coherenceRequest (die : Fin 4) (line : BitVec 33) (kind : Fin 5) (owner : Nat) (data : List Byte)
  /-- INVALIDATION_RECEIVED (R257): A remote cache receives an invalidation and drops the line. -/
  | invalidationReceived (die : Fin 4) (line : BitVec 33)
  /-- KV_ROW_ACK (R260): A staged KV row is acknowledged, forwarding outputs once all rows are acknowledged. -/
  | kvRowAck (mid : Nat) (layer : Nat) (t : Fin 2) (n : Nat) (tile : Fin 1024) (full : Bool)
  /-- PLOT_BUFFER_UNCORR (R263): An uncorrectable plot-buffer word is met and handled by area and reader. -/
  | plotBufferUncorr (p : Fin 64) (off : Fin 1048576) (reader : Fin 2)
  /-- RESIDENT_FILL_DONE (R262): The copy engine completes a plot's resident fill and its first pass may start. -/
  | residentFillDone (p : Fin 64) (errs : List (Nat × List Byte))
  /-- BAR2_READ (R264): A BAR2 read returns window data or all ones when disabled. -/
  | bar2Read (x : Fin 67108864) (n : Fin 1024) (errs : List (Nat × List Byte))
  /-- BAR2_WRITE (R264): A BAR2 write is a coherent HOST write when enabled, otherwise discarded. -/
  | bar2Write (x : Fin 268435456) (bytes : List Byte)
  /-- FLIT_RECEIVE (R275): A flit is accepted, discarded as duplicate, or opens a NAK episode. -/
  | flitReceive (l : Fin 10) (d : Fin 2) (offer : List (Fin 8 × Byte × List Byte)) (takes : List (Fin 8)) (err : List (BitVec 272))
  /-- NAK_RENEW (R275): 32 CLK_L cycles pass without acceptance and the NAK episode renews. -/
  | nakRenew (l : Fin 10) (d : Fin 2)
  /-- ACK_TIMEOUT (R276): ACK does not advance for DLK_ACK_TO cycles and the transmitter replays. -/
  | ackTimeout (l : Fin 10) (d : Fin 2)
  /-- PERSIST_WINDOW (R278): A DLK_PERSIST_WIN window of DEV_TIME ends and quad error counts restart. -/
  | persistWindow
  /-- DLK_RETRAIN (R283): A host write of DLK_RETRAINn REQ requests a retrain, FULL retesting dropped quads. -/
  | dlkRetrain (l : Fin 10) (full : Bool)
  /-- RETRAIN_DONE (R279): A retrain sets each direction's width and resumes with replays. -/
  | retrainDone (l : Fin 10) (goodA : Fin 16) (goodB : Fin 16) (pause : Nat)
  /-- LOOPBACK_SET (R286): A write of DLK_LB_CTLn before RUN enters or leaves loopback. -/
  | loopbackSet (l : Fin 10) (v : BitVec 32) (got : List (Fin 1088 × List Bool)) (lock : Fin 16)
  /-- YOKE_EPOCH (R316): Every 10 µs the head computes demand, moves L within slews and divides credit and reserve. -/
  | yokeEpoch (imon : List Nat) (duty : List (Fin 256))
  /-- GRANT_RECEIVED (R318): An agent receives its epoch grant and sets credit, reserve and ballast. -/
  | grantReceived (d : Fin 4)
  /-- GRANT_MISSING (R320): An agent's epoch passes without a grant; it renews its last grant. -/
  | grantMissing (d : Fin 4)
  /-- CPM_MARGIN_LOSS (R325): A CPM reports negative margin and the LDO steps up or the plot slows. -/
  | cpmMarginLoss (p : Fin 64)
  /-- CPM_RETRY (R325): 10 ms after a CPM step the Yoke tries the faster point again. -/
  | cpmRetry (p : Fin 64)
  /-- LDO_TARGET_REACHED (R324): A plot's LDO reaches its target and the divider change follows. -/
  | ldoTargetReached (p : Fin 64) (mv : Nat)
  /-- THERMAL_CAP_CHANGE (R326): A plot sensor crosses a cap level and its divider cap changes. -/
  | thermalCapChange (p : Fin 64) (sensor : Fin 1024)
  /-- CALIBRATION_REFIT (R328): Each millisecond the head refits estimate coefficients against IMON. -/
  | calibrationRefit (est : List Nat) (codes : List Nat)
  /-- HOLDOFF_EXPIRY (R331): The stagger hold-off ends and the ramp to floor begins. -/
  | holdoffExpiry
  /-- SCHED_SLOT_TIME (R332): An accepted frame's slot time arrives and its ramp, drain or ceiling takes effect. -/
  | schedSlotTime
  /-- YOK_SCHED_TIMEOUT (R333): No START frame within YOK_SCHED_WAIT; hash hold-off applies. -/
  | yokSchedTimeout
  /-- NOP_DESCRIPTOR (R350): A NOP descriptor completes at once. -/
  | nopDescriptor (q : Fin 16) (pos : Nat)
  /-- INSTALL_BEGIN (R368): INSTALL_BEGIN makes the bank LOADING after checks. -/
  | installBegin (q : Fin 16) (pos : Nat)
  /-- INSTALL_CHUNK (R369): INSTALL_CHUNK writes bundle bytes into the LOADING bank. -/
  | installChunk (q : Fin 16) (pos : Nat) (data : Option (List Byte))
  /-- INSTALL_COMMIT (R370): INSTALL_COMMIT starts the check of a LOADING bank or places a READY bank. -/
  | installCommit (q : Fin 16) (pos : Nat)
  /-- INSTALL_CHECK_DONE (R370): The bundle CRC check ends, leading to header, placement and slot-table write. -/
  | installCheckDone (slot : Fin 16) (errs : List (Nat × List Byte))
  /-- INSTALL_ABORT (R371): INSTALL_ABORT empties a loading or ready bank or retires the active one. -/
  | installAbort (q : Fin 16) (pos : Nat)
  /-- TABLE_WRITE (R98): TABLE_WRITE writes entries of a table atomically after checks. -/
  | tableWrite (q : Fin 16) (pos : Nat) (data : Option (List Byte))
  /-- STREAM_OPEN (R114): STREAM_OPEN opens a CLOSED stream after checks. -/
  | streamOpen (q : Fin 16) (pos : Nat)
  /-- STREAM_CLOSE (R113): STREAM_CLOSE moves a stream to DRAINING. -/
  | streamClose (q : Fin 16) (pos : Nat)
  /-- STREAM_RESET (R127): STREAM_RESET ends in-flight messages and reopens the stream. -/
  | streamReset (q : Fin 16) (pos : Nat)
  /-- STREAM_UNFENCE_RESUME (R113): STREAM_UNFENCE RESUME reopens a fenced stream and dispatches held messages. -/
  | streamUnfenceResume (q : Fin 16) (pos : Nat)
  /-- STREAM_UNFENCE_DISCARD (R113): STREAM_UNFENCE DISCARD ends held messages in order and reopens. -/
  | streamUnfenceDiscard (q : Fin 16) (pos : Nat)
  /-- KV_READ (R351): KV_READ copies committed positions to host memory. -/
  | kvRead (q : Fin 16) (pos : Nat) (errs : List (Nat × List Byte))
  /-- KV_WRITE (R351): KV_WRITE writes rows into a fenced idle stream and sets its window. -/
  | kvWrite (q : Fin 16) (pos : Nat) (data : Option (List Byte))
  /-- INJECT (R352): INJECT presents a host frame to the Plough on ingress 16. -/
  | inject (q : Fin 16) (pos : Nat) (data : Option (List Byte))
  /-- MEM_READ (R350): MEM_READ copies device memory to host memory. -/
  | memRead (q : Fin 16) (pos : Nat) (errs : List (Nat × List Byte))
  /-- MEM_WRITE (R258): MEM_WRITE writes host data coherently into device memory. -/
  | memWrite (q : Fin 16) (pos : Nat) (data : Option (List Byte))
  /-- FENCE (R349): FENCE waits for earlier descriptors of the SQs in MASK. -/
  | fence (q : Fin 16) (pos : Nat)
  /-- STATS_SNAPSHOT (R350): STATS_SNAPSHOT writes records of a kind to host memory, clearing counters if asked. -/
  | statsSnapshot (q : Fin 16) (pos : Nat)
  /-- YOKE_SET_SET (R330): YOKE_SET SET changes envelope settings, adopted at the next epoch. -/
  | yokeSetSet (q : Fin 16) (pos : Nat)
  /-- YOKE_SET_DRAIN (R334): YOKE_SET DRAIN starts a drain. -/
  | yokeSetDrain (q : Fin 16) (pos : Nat)
  /-- YOKE_SET_RESUME (R335): YOKE_SET RESUME starts a resume, NOW skipping hold-off. -/
  | yokeSetResume (q : Fin 16) (pos : Nat)
  /-- REPLANT (R169): REPLANT flushes named groups, taints owners and reloads their seeds. -/
  | replant (q : Fin 16) (pos : Nat)
  /-- TRUNK_CTL_ADMIT (R58): ADMIT admits a PENDING station or sets PREADMIT. -/
  | trunkCtlAdmit (q : Fin 16) (pos : Nat)
  /-- TRUNK_CTL_REFUSE (R58): REFUSE refuses a PENDING station. -/
  | trunkCtlRefuse (q : Fin 16) (pos : Nat)
  /-- TRUNK_CTL_EXPEL (R60): EXPEL ends a station's admission. -/
  | trunkCtlExpel (q : Fin 16) (pos : Nat)
  /-- TRUNK_CTL_QUARANTINE (R65): QUARANTINE sets an address's quarantine bit. -/
  | trunkCtlQuarantine (q : Fin 16) (pos : Nat)
  /-- TRUNK_CTL_ISOLATE (R67): ISOLATE makes BEACONs carry ISOLATED and the receiver ignore energy. -/
  | trunkCtlIsolate (q : Fin 16) (pos : Nat)
  /-- ISOLATE_COMPLETE (R67): The last scheduled cycle ends and every admitted message has ended; ISOLATE completes. -/
  | isolateComplete (n : Fin 8)
  /-- TRUNK_CTL_RELEASE (R67): RELEASE ends isolation from the next BEACON. -/
  | trunkCtlRelease (q : Fin 16) (pos : Nat)
  /-- TRUNK_CTL_SET_ILV (R44): SET_ILV sets interleave depth on an isolated port. -/
  | trunkCtlSetIlv (q : Fin 16) (pos : Nat)
  /-- TRUNK_CTL_SET_REPAIR (R67): SET_REPAIR sets the repair enable on an isolated port. -/
  | trunkCtlSetRepair (q : Fin 16) (pos : Nat)
  /-- PUNT_RETURN (R353): PUNT_RETURN sends a host frame out of an egress, optionally timestamped. -/
  | puntReturn (q : Fin 16) (pos : Nat) (data : Option (List Byte))
  /-- HIF_ENABLE (R345): A write of HIF_CTL.EN starts or stops doorbell polling. -/
  | hifEnable (en : Bool)
  /-- RING_ENABLE (R339): A write of HIF_RINGr_CTL.EN enables a ring and resets its pointers. -/
  | ringEnable (r : Fin 36) (en : Bool)
  /-- DOORBELL_POLL (R345): The poll interval expires and the engine reads the doorbell page. -/
  | doorbellPoll
  /-- POLL_RESULT (R345): Doorbell data returns; the engine finds work and adjusts the interval. -/
  | pollResult (page : Option (List Byte)) (timedOut : Bool) (bufs : List (BitVec 64))
  /-- DESCRIPTOR_FETCH (R348): Fetched descriptors return and start in SQ order. -/
  | descriptorFetch (q : Fin 16) (data : Option (List Byte)) (timedOut : Bool)
  /-- SHADOW_WRITE (R346): After the hold-off the engine writes the shadow page and MSI-X messages. -/
  | shadowWrite
  /-- MODERATION_TIMER (R354): The oldest pending entry reaches TIME µs and triggers. -/
  | moderationTimer (r : Fin 36)
  /-- MSIX_UNMASK (R354): An unmasked vector with its pending bit sends one message. -/
  | msixUnmask (v : Fin 64)
  /-- TELEMETRY_TICK (R357): Each HIF_TQ_PERIOD a telemetry record is written or dropped. -/
  | telemetryTick (hbm : List (BitVec 8))
  /-- WATCH_SUMMARY (R224): A streamer's pass summary reaches the watch table and is applied or discarded. -/
  | watchSummary
  /-- HARROW_PASS_START (R403): HRW_PERIOD elapses and an instance checks its configuration and starts a pass. -/
  | harrowPassStart (h : Fin 5) (upsets : List (Fin 3 × Fin 4 × Nat))
  /-- HARROW_PASS_DONE (R404): A pass completes after correcting and acting on what it read. -/
  | harrowPassDone (h : Fin 5) (corrected : Nat) (found : List HrwWord)
  /-- HRW_WATCHDOG (R408): A pass exceeds HRW_PASS_MAX and the walk is reset. -/
  | hrwWatchdog (h : Fin 5) (words : Nat)
  /-- PLOT_LDO_FAULT (R393): A plot's LDO fails to hold target for 10 µs, making it plot-fatal. -/
  | plotLdoFault (p : Fin 64)
  /-- PLOT_SENSOR_CHECK (R393): Each millisecond the agent tests plot sensors; failure makes the plot plot-fatal. -/
  | plotSensorCheck (p : Fin 64) (passed : Bool)
  /-- PLACEMENT_RETRY (R394): Every 10 ms the Sower retries placing an unplaced group. -/
  | placementRetry
  /-- IDENT (R419): Two-wire IDENT returns identity bytes. -/
  | ident (a : Fin 128)
  /-- STATUS (R419): Two-wire STATUS returns the status word. -/
  | status (a : Fin 128)
  /-- EVENT_SUMMARY (R419): EVENT_SUMMARY returns latched and pending alert bits. -/
  | eventSummary (a : Fin 128)
  /-- TEMP_CD (R419): TEMP_CD0–3 return a die's hottest plot sensor. -/
  | tempCd (a : Fin 128) (d : Fin 4)
  /-- TEMP_IOD (R419): TEMP_IOD returns the hottest I/O-die sensor. -/
  | tempIod (a : Fin 128) (iod : List (BitVec 16))
  /-- TEMP_HBM (R419): TEMP_HBM returns the hottest stack. -/
  | tempHbm (a : Fin 128) (hbm : List (BitVec 16))
  /-- TEMP_MAX (R419): TEMP_MAX returns the hottest package sensor. -/
  | tempMax (a : Fin 128) (iod : List (BitVec 16)) (hbm : List (BitVec 16))
  /-- THERMAL_STATE (R419): THERMAL_STATE returns cap and overtemp bits. -/
  | thermalState (a : Fin 128)
  /-- PKG_POWER (R419): PKG_POWER returns measured power and L. -/
  | pkgPower (a : Fin 128)
  /-- YOKE_STATE (R419): YOKE_STATE returns state and effective values. -/
  | yokeState (a : Fin 128)
  /-- DRAIN (R421): Two-wire DRAIN write drains, resumes or resumes at once. -/
  | drain (a : Fin 128) (data : List Byte)
  /-- DRAIN_READ (R419): Reading DRAIN returns whether the engine drains. -/
  | drainRead (a : Fin 128)
  /-- CEILING_SET (R421): CEILING_SET sets the board ceiling. -/
  | ceilingSet (a : Fin 128) (data : List Byte)
  /-- CEILING_READ (R419): Reading CEILING_SET returns the board ceiling. -/
  | ceilingRead (a : Fin 128)
  /-- SOFT_RESET (R421): Two-wire SOFT_RESET requests a ramped or immediate soft reset. -/
  | softReset (a : Fin 128) (data : List Byte)
  /-- COUNTER_SNAP (R425): COUNTER_SNAP samples counters into the port buffer, optionally clearing them. -/
  | counterSnap (a : Fin 128) (data : List Byte)
  /-- COUNTER_READ (R425): COUNTER_READ returns the next buffer bytes. -/
  | counterRead (a : Fin 128)
  /-- ADDR_CFG (R417): ADDR_CFG configures secondary or masked addresses. -/
  | addrCfg (a : Fin 128) (data : List Byte)
  /-- ADDR_CFG_READ (R419): Reading ADDR_CFG returns the address configuration. -/
  | addrCfgRead (a : Fin 128)
  /-- PORT_STATUS (R411): Writing PORT_STATUS sets mode, PEC, long-block and alert bits. -/
  | portStatus (a : Fin 128) (data : List Byte)
  /-- PORT_STATUS_READ (R419): Reading PORT_STATUS returns port configuration and flags. -/
  | portStatusRead (a : Fin 128)
  /-- CLEAR_FAULTS (R428): CLEAR_FAULTS clears latched, pending and flag bits. -/
  | clearFaults (a : Fin 128) (data : List Byte)
  /-- ALERT_RESPONSE (R427): A read of 0x0C names the highest pending source. -/
  | alertResponse (won : Bool)
  /-- SMBUS_TIMEOUT (R414): SCL low beyond t_TO releases the bus and discards the transfer. -/
  | smbusTimeout (own : Bool)
  /-- SDA_STUCK (R415): SDA low beyond t_TO sets SDA_LOW and releases SDA. -/
  | sdaStuck (own : Bool)
  /-- JTAG_TRST (R434): JTAG_TRST_N low resets every TAP. -/
  | jtagTrst
  /-- BYPASS (R430): TAP BYPASS selects the bypass register. -/
  | bypass
  /-- IDCODE (R433): TAP IDCODE returns the identity code. -/
  | idcode
  /-- SAMPLE_PRELOAD (R430): TAP SAMPLE/PRELOAD samples or preloads boundary cells. -/
  | samplePreload (pins : List (Nat × Bool)) (cells : List (Nat × Bool))
  /-- EXTEST (R434): TAP EXTEST drives pins from boundary cells before RUN. -/
  | extest (pins : List (Nat × Bool))
  /-- CLAMP (R430): TAP CLAMP holds pins before RUN. -/
  | clamp
  /-- HIGHZ (R430): TAP HIGHZ floats outputs before RUN. -/
  | highz
  /-- EXTEST_PULSE (R432): TAP EXTEST_PULSE tests AC-coupled lanes before RUN. -/
  | extestPulse (seen : BitVec 64)
  /-- EXTEST_TRAIN (R432): TAP EXTEST_TRAIN tests AC-coupled lanes before RUN. -/
  | extestTrain (seen : BitVec 64)
  /-- HBM1500 (R438): TAP HBM1500 connects a stack's IEEE 1500 wrapper. -/
  | hbm1500 (op : HbmOp)
  /-- DIESEL (R435): TAP DIESEL joins selected compute-die TAPs to the chain. -/
  | diesel (sel : Fin 32)
  /-- TSTACC (R436): TAP TSTACC accesses test registers through JTAG. -/
  | tstacc (off : BitVec 16) (v : Word) (write : Bool) (bad : Bool)
  /-- TST_DATA_READ (R436): Reading TST_DATA returns a test-window word and advances TST_OFF. -/
  | tstDataRead (bad : Bool)
  /-- TST_DATA_WRITE (R436): Writing TST_DATA stores a word with check bits and advances TST_OFF. -/
  | tstDataWrite (v : Word)
  /-- POWER_OFF (R309): The rails are brought down in reverse group order and the engine loses all state, including a latched THERMTRIP_N. -/
  | powerOff
  /-- PERST_RELEASE (R312): PERST_N rises, ending the PCIe core's reset so that the host may train the link. -/
  | perstRelease
  /-- SMB_RST_RELEASE (R416): SMB_RST_N rises; the two-wire port samples SMB_ADDR again and takes its new primary address. -/
  | smbRstRelease
  /-- BBP_TX_FRAME_END (R118): The last byte of a frame leaves a backbone interface: a reply's message ends, and its KV commits where the CRC was correct; a PUNT_RETURN completes; the next frame may start. -/
  | bbpTxFrameEnd (l : Fin 8)
  /-- PAUSE_EXPIRY (R82): The pause time given by received PAUSE or PFC quanta runs out, and the interface or priority may start frames again. -/
  | pauseExpiry (l : Fin 8) (pri : Option (Fin 8))
  /-- TEST_LOGIC_RESET (R431): The package TAP enters Test-Logic-Reset through TMS, releasing a RUN write that was held. -/
  | testLogicReset
  /-- RESERVED_OPCODE (R180): A tile executes an opcode not in the opcode map and faults with cause 1. -/
  | reservedOpcode (k : Fin 1024)
  /-- BAD_OPCODE (R350): A descriptor whose opcode is not in Table HIF-6 completes with BAD_OPCODE. -/
  | badOpcode (q : Fin 16) (pos : Nat)
  /-- TWP_UNKNOWN_COMMAND (R419): A command byte on the two-wire port that is not in Table TWP-2, or not yet available, is NACKed and counted in TWP_NACK_CNT. -/
  | twpUnknownCommand (a : Fin 128) (code : Byte) (read : Bool)
  deriving DecidableEq, Repr

end Sys2Proof
end

