-- ==== Sys2Proof/WellFormed.lean ====
section
/-! DEFINITION. Well-formed commands: the list operands have the lengths that the manual gives what they carry. Every other operand
is in range by its type. -/
namespace Sys2Proof

/-- Symbols of a trunk: the four levels of Table TRK-2. -/
def pam4 (l : List Int) : Bool := l.all (fun x => decide (x = -3 ∨ x = -1 ∨ x = 1 ∨ x = 3))

/-- Errors of a read by half: each at most 36 bytes. -/
def halfErrs (l : List (Nat × List Byte)) : Bool := l.all (fun e => decide (e.2.length ≤ 36))

/-- A command whose list operands have their lengths: ten links, six IMON channels, a 64-byte line, a 128-byte flit body, 36 bytes of
a coded half, a 256-byte page, whole descriptors (eight at most in a fetch), whole codewords of PAM4 symbols, an end delimiter and a 12-byte header of a burst, an SMBus block. -/
def Instr.wf (i : Instr) : Bool :=
  match i with
  | .powerOn _ _ _ fm63 _ _ => decide (fm63.length ≤ 32)
  | .railFault => true
  | .devRstAssert _ => true
  | .devRstRelease => true
  | .bringupOtpDone _ => true
  | .bringupClocksLocked _ _ => true
  | .bringupLinksTrained quads => decide (quads.length = 10)
  | .bringupMemoryDone _ => true
  | .standbyReached _ => true
  | .thermalTrip => true
  | .pllLoss => true
  | .pllRelock => true
  | .dllLost _ _ => true
  | .stackLoss _ => true
  | .runSet => true
  | .softRst _ => true
  | .softResetQuiesce => true
  | .softResetClear _ => true
  | .softResetRestoreDone => true
  | .perstAssert _ => true
  | .flr => true
  | .smbRst _ => true
  | .tdivChangeRequest _ _ => true
  | .tdivSwitch _ => true
  | .devTimeLoad _ => true
  | .devTimeLoRead => true
  | .counterLoRead _ => true
  | .counterHiRead _ => true
  | .counterClear _ => true
  | .registerWrite _ _ _ => true
  | .ptpMasterAdopt _ => true
  | .portEnable _ => true
  | .portDisable _ => true
  | .portWindDownDone _ => true
  | .cycleStart _ _ => true
  | .fieldMapSeedLoad _ _ _ _ => true
  | .codewordDecode _ sy => pam4 sy && decide (sy.length % 4 = 0 ∧ 68 ≤ sy.length ∧ sy.length ≤ 7680)
  | .impulseFire _ => true
  | .impulseRelease _ => true
  | .slotMissed _ => true
  | .burstCutAtSlotEnd _ lost => decide (1 ≤ lost ∧ lost ≤ 224)
  | .burstHeader _ sy _ => pam4 sy && decide (sy.length = 56)
  | .burstEnd _ final _ _ _ _ => decide (final.length ≤ 32)
  | .repairSearchTimeout _ _ => true
  | .signon _ => true
  | .holdExpiry _ _ => true
  | .fcsVerdict _ => true
  | .puntTokenRefill => true
  | .bbpBytesAvailable _ data _ _ => decide (0 < data.length)
  | .bbpFrameEnd _ => true
  | .pauseRefresh _ _ => true
  | .pauseReceived _ _ _ => true
  | .bbpLinkDown _ => true
  | .bbpLinkUp _ => true
  | .alignedReplyStart _ => true
  | .alignedCrcDecision _ => true
  | .ptpSyncReceived _ _ _ _ _ => true
  | .bbpPtpLost => true
  | .schedFrame _ => true
  | .ploughEnqueue _ => true
  | .parseWalk _ _ => true
  | .laterFragment _ => true
  | .fragHoldExpiry _ => true
  | .gleanExpiry _ => true
  | .admitMessage _ => true
  | .sheafWindowExpiry _ => true
  | .passDispatch _ => true
  | .passComplete _ _ outs _ => decide (outs.length ≤ 32)
  | .sliceOverrun _ _ => true
  | .cuminShed _ => true
  | .rotationCheck _ => true
  | .headlandInject _ => true
  | .seedShadowReady _ _ _ _ _ => true
  | .unitFinishOldWork _ => true
  | .unitFlip _ => true
  | .tokenArrival _ _ => true
  | .blockFire _ => true
  | .suFire _ => true
  | .nop _ => true
  | .alu _ => true
  | .addi _ => true
  | .andi _ => true
  | .ori _ => true
  | .xori _ => true
  | .lui _ => true
  | .shi _ => true
  | .cmp _ => true
  | .cmpi _ => true
  | .plog _ => true
  | .mfs _ => true
  | .mts _ => true
  | .lds _ _ => true
  | .sts _ => true
  | .vld _ _ => true
  | .vst _ => true
  | .ald _ _ => true
  | .ast _ => true
  | .valu _ => true
  | .vbcst _ => true
  | .vext _ => true
  | .vins _ => true
  | .vcmp _ => true
  | .vmac _ => true
  | .vmacb _ => true
  | .aopZero _ => true
  | .aopCopy _ => true
  | .aopExt _ => true
  | .aopAddv _ => true
  | .aopExtf _ => true
  | .grs _ => true
  | .req _ => true
  | .cvt _ => true
  | .rcp _ => true
  | .send _ => true
  | .recv _ => true
  | .tag _ => true
  | .event _ => true
  | .br _ => true
  | .halt _ => true
  | .syncAdd _ => true
  | .syncSub _ => true
  | .syncSet _ => true
  | .syncTrydec _ => true
  | .syncWaitGe _ => true
  | .syncWaitEq _ => true
  | .syncRead _ => true
  | .syncOpTimeout _ => true
  | .synWaitTo _ => true
  | .replyBuild _ _ => true
  | .bpSlotChoice _ => true
  | .gateTimeout _ => true
  | .hbmRead _ _ _ _ e0 e1 => decide (e0.length ≤ 36 ∧ e1.length ≤ 36)
  | .hbmWrite _ _ _ _ data => decide (data.length = 64)
  | .refresh _ _ _ => true
  | .scrubRead _ err _ => decide (err.length ≤ 36)
  | .coherenceRequest _ _ kind _ data => decide (kind.val = 2 → data.length = 128)
  | .invalidationReceived _ _ => true
  | .kvRowAck _ _ _ _ _ _ => true
  | .plotBufferUncorr _ _ _ => true
  | .residentFillDone _ errs => halfErrs errs
  | .bar2Read _ _ errs => halfErrs errs
  | .bar2Write _ bytes => decide (0 < bytes.length)
  | .flitReceive _ _ offer _ err => decide (err.length ≤ 4 ∧ offer.all (fun o => decide (o.2.2.length = 128)) = true)
  | .nakRenew _ _ => true
  | .ackTimeout _ _ => true
  | .persistWindow => true
  | .dlkRetrain _ _ => true
  | .retrainDone _ _ _ _ => true
  | .loopbackSet _ _ _ _ => true
  | .yokeEpoch imon duty => decide (imon.length = 6 ∧ duty.length = 64)
  | .grantReceived _ => true
  | .grantMissing _ => true
  | .cpmMarginLoss _ => true
  | .cpmRetry _ => true
  | .ldoTargetReached _ _ => true
  | .thermalCapChange _ _ => true
  | .calibrationRefit est codes => decide (est.length = 4 ∧ codes.length = 4)
  | .holdoffExpiry => true
  | .schedSlotTime => true
  | .yokSchedTimeout => true
  | .nopDescriptor _ _ => true
  | .installBegin _ _ => true
  | .installChunk _ _ _ => true
  | .installCommit _ _ => true
  | .installCheckDone _ errs => halfErrs errs
  | .installAbort _ _ => true
  | .tableWrite _ _ _ => true
  | .streamOpen _ _ => true
  | .streamClose _ _ => true
  | .streamReset _ _ => true
  | .streamUnfenceResume _ _ => true
  | .streamUnfenceDiscard _ _ => true
  | .kvRead _ _ errs => halfErrs errs
  | .kvWrite _ _ _ => true
  | .inject _ _ _ => true
  | .memRead _ _ errs => halfErrs errs
  | .memWrite _ _ _ => true
  | .fence _ _ => true
  | .statsSnapshot _ _ => true
  | .yokeSetSet _ _ => true
  | .yokeSetDrain _ _ => true
  | .yokeSetResume _ _ => true
  | .replant _ _ => true
  | .trunkCtlAdmit _ _ => true
  | .trunkCtlRefuse _ _ => true
  | .trunkCtlExpel _ _ => true
  | .trunkCtlQuarantine _ _ => true
  | .trunkCtlIsolate _ _ => true
  | .isolateComplete _ => true
  | .trunkCtlRelease _ _ => true
  | .trunkCtlSetIlv _ _ => true
  | .trunkCtlSetRepair _ _ => true
  | .puntReturn _ _ _ => true
  | .hifEnable _ => true
  | .ringEnable _ _ => true
  | .doorbellPoll => true
  | .pollResult page timedOut _ => (match page with | some p => decide (p.length = 256 ∧ timedOut = false) | none => true)
  | .descriptorFetch _ data timedOut => (match data with | some d => decide (d.length % 64 = 0 ∧ d.length ≤ 512 ∧ timedOut = false) | none => true)
  | .shadowWrite => true
  | .moderationTimer _ => true
  | .msixUnmask _ => true
  | .telemetryTick hbm => decide (hbm.length = 4)
  | .watchSummary => true
  | .harrowPassStart _ _ => true
  | .harrowPassDone _ _ _ => true
  | .hrwWatchdog _ _ => true
  | .plotLdoFault _ => true
  | .plotSensorCheck _ _ => true
  | .placementRetry => true
  | .ident _ => true
  | .status _ => true
  | .eventSummary _ => true
  | .tempCd _ _ => true
  | .tempIod _ _ => true
  | .tempHbm _ _ => true
  | .tempMax _ _ _ => true
  | .thermalState _ => true
  | .pkgPower _ => true
  | .yokeState _ => true
  | .drain _ data => decide (data.length ≤ 255)
  | .drainRead _ => true
  | .ceilingSet _ data => decide (data.length ≤ 255)
  | .ceilingRead _ => true
  | .softReset _ data => decide (data.length ≤ 255)
  | .counterSnap _ data => decide (data.length ≤ 255)
  | .counterRead _ => true
  | .addrCfg _ data => decide (data.length ≤ 255)
  | .addrCfgRead _ => true
  | .portStatus _ data => decide (data.length ≤ 255)
  | .portStatusRead _ => true
  | .clearFaults _ data => decide (data.length ≤ 255)
  | .alertResponse _ => true
  | .smbusTimeout _ => true
  | .sdaStuck _ => true
  | .jtagTrst => true
  | .bypass => true
  | .idcode => true
  | .samplePreload _ _ => true
  | .extest _ => true
  | .clamp => true
  | .highz => true
  | .extestPulse _ => true
  | .extestTrain _ => true
  | .hbm1500 _ => true
  | .diesel _ => true
  | .tstacc _ _ _ _ => true
  | .tstDataRead _ => true
  | .tstDataWrite _ => true
  | .powerOff => true
  | .perstRelease => true
  | .smbRstRelease => true
  | .bbpTxFrameEnd _ => true
  | .pauseExpiry _ _ => true
  | .testLogicReset => true
  | .reservedOpcode _ => true
  | .badOpcode _ _ => true
  | .twpUnknownCommand _ _ _ => true

end Sys2Proof
end

