-- ==== Sys2Proof/Decode.lean ====
section
/-! DEFINITION. The command that a word of the opcode table spells. The table of this block gives bits to no row: commands come
over PCIe, the trunks, the backbone, the two-wire port, JTAG and pins, each in its own form, so no word spells one. -/
namespace Sys2Proof

/-- The rows of the opcode table that give bits: mask, match and the command a matching word spells. There are none. -/
def tableRows : List (Nat × Nat × Nat × (Nat → Instr)) := []

/-- The command of the first row whose bits a word matches. -/
def lookupRow (nbits w : Nat) : List (Nat × Nat × Nat × (Nat → Instr)) → Option Instr
  | [] => none
  | (n, mask, bits, f) :: rest => if n = nbits ∧ w &&& mask = bits then some (f w) else lookupRow nbits w rest

/-- The command that a word spells by the table's bits. -/
def decodeTableWord (nbits w : Nat) : Option Instr := lookupRow nbits w tableRows

end Sys2Proof
end

