-- ==== Sys2Proof/Machine/Bits.lean ====
section
/-! DEFINITION. Bit fields, byte orders and small list operations used by every block.
Table GLB-3: [msb:lsb] with bit 0 least significant; registers, descriptors and ring entries are little-endian;
bytes on a wire go in the order the relevant chapter gives. -/
namespace Sys2Proof.Machine

/-- Bits [lo + len − 1 : lo] of a number. -/
def bitsOf (w lo len : Nat) : Nat := (w >>> lo) % 2 ^ len

/-- Bit k of a number. -/
def bitOf (w k : Nat) : Bool := w.testBit k

/-- 1 for true, 0 for false. -/
def b2n (b : Bool) : Nat := if b then 1 else 0

/-- `w` with bit `k` set to `b`. -/
def setBitTo (w k : Nat) (b : Bool) : Nat :=
  if b then w ||| 2 ^ k else (if w.testBit k then w ^^^ 2 ^ k else w)

/-- The number of ones among the low `n` bits of `w`. -/
def popcount (n w : Nat) : Nat :=
  match n with
  | 0 => 0
  | k + 1 => popcount k w + b2n (w.testBit k)

/-- The bits of `w` that are one, rising, among bits 0 to n − 1. -/
def onesOf (n w : Nat) : List Nat := (List.range n).filter (fun k => w.testBit k)

/-- A number from bytes, lowest byte first. -/
def leNat : List Byte → Nat
  | [] => 0
  | b :: bs => b.toNat + 256 * leNat bs

/-- `n` bytes of a number, lowest byte first. -/
def leBytes (n v : Nat) : List Byte :=
  match n with
  | 0 => []
  | k + 1 => BitVec.ofNat 8 v :: leBytes k (v / 256)

/-- A number from bytes, highest byte first (network order). -/
def beNat (bs : List Byte) : Nat := leNat bs.reverse

/-- `n` bytes of a number, highest byte first. -/
def beBytes (n v : Nat) : List Byte := (leBytes n v).reverse

/-- `len` bytes from offset `off`. -/
def slice (bs : List Byte) (off len : Nat) : List Byte := (bs.drop off).take len

/-- The byte at an offset, as a number; 0 past the end. -/
def byteAt (bs : List Byte) (off : Nat) : Nat := ((bs[off]?).getD 0#8).toNat

/-- A little-endian field of `len` bytes at `off`. -/
def leAt (bs : List Byte) (off len : Nat) : Nat := leNat (slice bs off len)

/-- A big-endian field of `len` bytes at `off`. -/
def beAt (bs : List Byte) (off len : Nat) : Nat := beNat (slice bs off len)

/-- The first `n` bytes, filled up with zeros. -/
def padTo (n : Nat) (bs : List Byte) : List Byte := bs.take n ++ List.replicate (n - bs.length) 0#8

/-- `bs` with `new` written over it from offset `off` (nothing beyond its end). -/
def overlay (bs : List Byte) (off : Nat) (new : List Byte) : List Byte :=
  bs.take off ++ new.take (bs.length - off) ++ bs.drop (off + new.length)

/-- Byte-wise exclusive or. -/
def xorBytes (a b : List Byte) : List Byte := List.zipWith (· ^^^ ·) a b

/-- The bits of a byte, least significant first. -/
def byteBits (b : Byte) : List Bool := (List.range 8).map (fun k => b.getLsbD k)

/-- A number from bits, least significant first. -/
def natOfBits : List Bool → Nat
  | [] => 0
  | b :: bs => b2n b + 2 * natOfBits bs

/-- Cut a list into pieces of `n` (the last may be shorter); `fuel` bounds the number of pieces. -/
def chunksOf {α : Type} (n : Nat) : Nat → List α → List (List α)
  | 0, _ => []
  | _ + 1, [] => []
  | fuel + 1, x :: xs => ((x :: xs).take n) :: chunksOf n fuel ((x :: xs).drop n)

/-- The value of an n-bit two's-complement number. -/
def toSigned (n w : Nat) : Int := if w % 2 ^ n < 2 ^ (n - 1) then (w % 2 ^ n : Nat) else (w % 2 ^ n : Nat) - (2 ^ n : Nat)

/-- The n-bit two's-complement pattern of an integer. -/
def ofSigned (n : Nat) (i : Int) : Nat := (i % (2 ^ n : Nat)).toNat

/-- An integer held within [lo, hi]. -/
def clampInt (lo hi i : Int) : Int := if i < lo then lo else if hi < i then hi else i

/-- A natural number held within [lo, hi]. -/
def clampNat (lo hi n : Nat) : Nat := if n < lo then lo else if hi < n then hi else n

/-- ⌈a / b⌉, 0 for b = 0. -/
def ceilDiv (a b : Nat) : Nat := (a + b - 1) / b

/-- The list with every element that equals `x` removed. -/
def without {α : Type} [DecidableEq α] (x : α) (l : List α) : List α := l.filter (fun y => y ≠ x)

/-- Add an element to a list of names unless it is there. -/
def insertNew {α : Type} [DecidableEq α] (x : α) (l : List α) : List α := if x ∈ l then l else l ++ [x]

/-- Apply `f` at one position of a list. -/
def updAt {α : Type} (l : List α) (k : Nat) (f : α → α) : List α :=
  match l[k]? with
  | none => l
  | some x => l.set k (f x)

/-- The least number below `n` that does not satisfy `used`. -/
def firstFree (n : Nat) (used : Nat → Bool) : Option Nat := (List.range n).find? (fun k => !used k)

/-- The greatest of a list of numbers, 0 for none. -/
def maxOf (l : List Nat) : Nat := l.foldl max 0

/-- The sum of a list of numbers. -/
def sumOf (l : List Nat) : Nat := l.foldl (· + ·) 0

end Sys2Proof.Machine
end

