-- ==== Sys2Proof/Machine/Fp.lean ====
section
/-! DEFINITION. Number formats and arithmetic (R200 to R212): exact values, one rounding, saturation and the sticky flags. -/
namespace Sys2Proof.Machine

/-! ### Flags of one lane's result, as bits of TILE_FLAGS (R209, Table TIL-3) -/

def flIV : Nat := 1
def flDZ : Nat := 2
def flOF : Nat := 4
def flUF : Nat := 8
def flIX : Nat := 16
def flSAT : Nat := 32

/-- The rounding and flush bits of TILE_MODE. -/
structure FpMode where
  rtz : Bool
  ftz : Bool
  sat8 : Bool
  deriving DecidableEq, Repr

/-- Conversions outside a tile (R212). -/
def FpMode.plain : FpMode := { rtz := false, ftz := false, sat8 := false }

/-- A floating-point format: width, fraction bits, exponent bits, bias, and whether it has infinities (Table FMT-1). -/
structure FpFmt where
  width : Nat
  frac : Nat
  expo : Nat
  bias : Nat
  hasInf : Bool
  deriving DecidableEq, Repr

def fmtE4M3 : FpFmt := { width := 8, frac := 3, expo := 4, bias := 7, hasInf := false }
def fmtE5M2 : FpFmt := { width := 8, frac := 2, expo := 5, bias := 15, hasInf := true }
def fmtFP16 : FpFmt := { width := 16, frac := 10, expo := 5, bias := 15, hasInf := true }
def fmtBF16 : FpFmt := { width := 16, frac := 7, expo := 8, bias := 127, hasInf := true }
def fmtFP32 : FpFmt := { width := 32, frac := 23, expo := 8, bias := 127, hasInf := true }

/-- What a format code names (Table FMT-1). -/
inductive Fmt where
  | int (width : Nat) (signed : Bool)
  | fp (f : FpFmt)
  deriving DecidableEq, Repr

/-- The eleven format codes; 0xB to 0xF are reserved. -/
def fmtOf (code : Nat) : Option Fmt :=
  match code with
  | 0 => some (.int 4 true)
  | 1 => some (.int 4 false)
  | 2 => some (.int 8 true)
  | 3 => some (.int 8 false)
  | 4 => some (.int 16 true)
  | 5 => some (.int 32 true)
  | 6 => some (.fp fmtE4M3)
  | 7 => some (.fp fmtE5M2)
  | 8 => some (.fp fmtFP16)
  | 9 => some (.fp fmtBF16)
  | 10 => some (.fp fmtFP32)
  | _ => none

def Fmt.width : Fmt → Nat
  | .int w _ => w
  | .fp f => f.width

/-- The ends of an integer format's range. -/
def intLo (w : Nat) (signed : Bool) : Int := if signed then -(2 ^ (w - 1) : Nat) else 0
def intHi (w : Nat) (signed : Bool) : Int := if signed then (2 ^ (w - 1) : Nat) - 1 else (2 ^ w : Nat) - 1

/-- The value of an integer lane. -/
def intVal (w : Nat) (signed : Bool) (x : Nat) : Int := if signed then toSigned w x else (x % 2 ^ w : Nat)

/-- An integer result held in its format's range, with SAT where it was clamped (R208). -/
def satInt (w : Nat) (signed : Bool) (v : Int) : Nat × Nat :=
  (ofSigned w (clampInt (intLo w signed) (intHi w signed) v),
   if v < intLo w signed ∨ intHi w signed < v then flSAT else 0)

/-- A floating-point value: NaN, an infinity, or (−1)^neg × m × 2^e. -/
inductive FpVal where
  | nan
  | inf (neg : Bool)
  | fin (neg : Bool) (m : Nat) (e : Int)
  deriving DecidableEq, Repr

namespace FpFmt

/-- Significand bits with the hidden bit. -/
def prec (f : FpFmt) : Nat := f.frac + 1

/-- The exponent of the smallest normal. -/
def emin (f : FpFmt) : Int := 1 - (f.bias : Int)

/-- The largest finite value as significand and exponent of its last bit (Table FMT-2). -/
def maxM (f : FpFmt) : Nat := if f.hasInf then 2 ^ f.prec - 1 else 2 ^ f.prec - 2
def maxE (f : FpFmt) : Int := (if f.hasInf then (f.bias : Int) else (f.bias : Int) + 1) - (f.frac : Int)

def signBit (f : FpFmt) (neg : Bool) : Nat := if neg then 2 ^ (f.width - 1) else 0

/-- The canonical NaN (Table FMT-2, R203). -/
def nanBits (f : FpFmt) : Nat :=
  if f.hasInf then (2 ^ f.expo - 1) * 2 ^ f.frac + 2 ^ (f.frac - 1) else 2 ^ (f.width - 1) - 1

/-- ±M. -/
def maxBits (f : FpFmt) (neg : Bool) : Nat :=
  f.signBit neg + (if f.hasInf then (2 ^ f.expo - 1) * 2 ^ f.frac - 1 else 2 ^ (f.width - 1) - 2)

/-- ±Inf; ±M in a format without infinities. -/
def infBits (f : FpFmt) (neg : Bool) : Nat :=
  if f.hasInf then f.signBit neg + (2 ^ f.expo - 1) * 2 ^ f.frac else f.maxBits neg

end FpFmt

/-- The value of an encoding (R201); with FTZ a subnormal operand reads as a zero of its sign (R205). -/
def fpDecode (f : FpFmt) (ftz : Bool) (x : Nat) : FpVal :=
  let neg := x.testBit (f.width - 1)
  let e := bitsOf x f.frac f.expo
  let fr := bitsOf x 0 f.frac
  if f.hasInf && e == 2 ^ f.expo - 1 then (if fr = 0 then .inf neg else .nan)
  else if !f.hasInf && e == 2 ^ f.expo - 1 && fr == 2 ^ f.frac - 1 then .nan
  else if e = 0 then (if ftz then .fin neg 0 0 else .fin neg fr (f.emin - f.frac))
  else .fin neg (fr + 2 ^ f.frac) ((e : Int) - f.bias - f.frac)

/-- m × 2^(−k) rounded to an integer (R204), and whether it was exact. -/
def roundShift (rtz : Bool) (m k : Nat) : Nat × Bool :=
  let q := m / 2 ^ k
  let r := m % 2 ^ k
  if r = 0 then (q, true)
  else if rtz then (q, false)
  else if 2 ^ k < 2 * r ∨ (2 * r = 2 ^ k ∧ q % 2 = 1) then (q + 1, false)
  else (q, false)

/-- m × 2^e rounded to a whole number of 2^u, and whether it was exact. -/
def roundAt (rtz : Bool) (m : Nat) (e u : Int) : Nat × Bool :=
  if u ≤ e then (m * 2 ^ (e - u).toNat, true) else roundShift rtz m (u - e).toNat

/-- Overflow (R207, Table FMT-4). -/
def fpOverflow (f : FpFmt) (md : FpMode) (neg : Bool) : Nat × Nat :=
  if !f.hasInf then (f.maxBits neg, flOF)
  else if f = fmtE5M2 ∧ md.sat8 then (f.maxBits neg, flOF)
  else if md.rtz then (f.maxBits neg, flOF + flIX)
  else (f.infBits neg, flOF + flIX)

/-- The exact nonzero value (−1)^neg × m × 2^e rounded once to a format: its bits and flags (R204 to R207, R209). -/
def fpRound (f : FpFmt) (md : FpMode) (neg : Bool) (m : Nat) (e : Int) : Nat × Nat :=
  if m = 0 then (f.signBit neg, 0)
  else
    let p := f.prec
    let u0 : Int := (m.log2 : Int) + e - (p - 1 : Nat)
    let (r0, ex) := roundAt md.rtz m e u0
    let (r, u) := if r0 = 2 ^ p then (2 ^ (p - 1), u0 + 1) else (r0, u0)
    if f.maxE < u ∨ (f.maxE = u ∧ f.maxM < r) then fpOverflow f md neg
    else if u + (p - 1 : Nat) < f.emin then
      if md.ftz then (f.signBit neg, flUF + flIX)
      else
        let (r2, ex2) := roundAt md.rtz m e (f.emin - (p - 1 : Nat))
        (f.signBit neg + r2, if ex2 then 0 else flUF + flIX)
    else
      (f.signBit neg + ((u + (p - 1 : Nat) + f.bias).toNat) * 2 ^ f.frac + (r - 2 ^ f.frac), if ex then 0 else flIX)

/-- Write a value in a format. A conversion of an infinity to E4M3 overflows (R207); other infinities stay infinite (R210). -/
def fpEncode (f : FpFmt) (md : FpMode) (v : FpVal) : Nat × Nat :=
  match v with
  | .nan => (f.nanBits, 0)
  | .inf neg => if f.hasInf then (f.infBits neg, 0) else (f.maxBits neg, flOF)
  | .fin neg m e => fpRound f md neg m e

/-- The exact sum of two values, with its flags (R204's sign of zero, R210). -/
def fpSum (a b : FpVal) : FpVal × Nat :=
  match a, b with
  | .nan, _ => (.nan, 0)
  | _, .nan => (.nan, 0)
  | .inf s, .inf t => if s = t then (.inf s, 0) else (.nan, flIV)
  | .inf s, _ => (.inf s, 0)
  | _, .inf t => (.inf t, 0)
  | .fin s m e, .fin t n g =>
    if m = 0 ∧ n = 0 then (.fin (s && t) 0 0, 0)
    else
      let u := min e g
      let x : Int := (m * 2 ^ (e - u).toNat : Nat)
      let y : Int := (n * 2 ^ (g - u).toNat : Nat)
      let z := (if s then -x else x) + (if t then -y else y)
      (.fin (decide (z < 0)) z.natAbs u, 0)

/-- The exact product of two values, with its flags. -/
def fpProd (a b : FpVal) : FpVal × Nat :=
  match a, b with
  | .nan, _ => (.nan, 0)
  | _, .nan => (.nan, 0)
  | .inf s, .inf t => (.inf (s != t), 0)
  | .inf s, .fin t n _ => if n = 0 then (.nan, flIV) else (.inf (s != t), 0)
  | .fin s m _, .inf t => if m = 0 then (.nan, flIV) else (.inf (s != t), 0)
  | .fin s m e, .fin t n g => (.fin (s != t) (m * n) (e + g), 0)

def fpNeg : FpVal → FpVal
  | .nan => .nan
  | .inf s => .inf (!s)
  | .fin s m e => .fin (!s) m e

/-- ADD, SUB and MUL of one lane: the exact result rounded once in the lane's format (R204). -/
def fpAdd (f : FpFmt) (md : FpMode) (x y : Nat) : Nat × Nat :=
  let (v, fl) := fpSum (fpDecode f md.ftz x) (fpDecode f md.ftz y)
  let (r, fl') := fpEncode f md v
  (r, fl ||| fl')

def fpSub (f : FpFmt) (md : FpMode) (x y : Nat) : Nat × Nat :=
  let (v, fl) := fpSum (fpDecode f md.ftz x) (fpNeg (fpDecode f md.ftz y))
  let (r, fl') := fpEncode f md v
  (r, fl ||| fl')

def fpMul (f : FpFmt) (md : FpMode) (x y : Nat) : Nat × Nat :=
  let (v, fl) := fpProd (fpDecode f md.ftz x) (fpDecode f md.ftz y)
  let (r, fl') := fpEncode f md v
  (r, fl ||| fl')

/-- The fused multiply-add of VMAC and VMACB: x × y + acc, rounded once into FP32 (R188, R204). -/
def fpMac (fx fy : FpFmt) (md : FpMode) (x y acc : Nat) : Nat × Nat :=
  let (p, fl) := fpProd (fpDecode fx md.ftz x) (fpDecode fy md.ftz y)
  let (v, fl') := fpSum p (fpDecode fmtFP32 md.ftz acc)
  let (r, fl'') := fpEncode fmtFP32 md v
  (r, fl ||| fl' ||| fl'')

/-- a < b on values that are not NaN; zeros of either sign are equal. -/
def fpLt (a b : FpVal) : Bool :=
  match a, b with
  | .nan, _ => false
  | _, .nan => false
  | .inf s, .inf t => s && !t
  | .inf s, .fin .. => s
  | .fin .., .inf t => !t
  | .fin s m e, .fin t n g =>
    let u := min e g
    let x : Int := (m * 2 ^ (e - u).toNat : Nat)
    let y : Int := (n * 2 ^ (g - u).toNat : Nat)
    decide ((if s then -x else x) < (if t then -y else y))

def fpIsNan (v : FpVal) : Bool := decide (v = .nan)

/-- a = b on values that are not NaN. -/
def fpEq (a b : FpVal) : Bool := !fpIsNan a && !fpIsNan b && !fpLt a b && !fpLt b a

/-- MIN and MAX of one lane (Table FMT-6); the operand chosen is written as read (subnormals flushed under FTZ). -/
def fpMinMax (f : FpFmt) (md : FpMode) (isMax : Bool) (x y : Nat) : Nat × Nat :=
  let a := fpDecode f md.ftz x
  let b := fpDecode f md.ftz y
  let signOf := fun (v : FpVal) => match v with | .fin s _ _ => s | .inf s => s | .nan => false
  let pick : FpVal :=
    if fpIsNan a && fpIsNan b then .nan
    else if fpIsNan a then b
    else if fpIsNan b then a
    else if fpLt a b then (if isMax then b else a)
    else if fpLt b a then (if isMax then a else b)
    else if signOf a == isMax then b else a
  ((fpEncode f md pick).1, 0)

/-- RCP of one lane: 1 / t, t the input with its significand truncated to its leading 12 fraction bits, rounded once (R210). -/
def fpRcp (f : FpFmt) (md : FpMode) (x : Nat) : Nat × Nat :=
  match fpDecode f md.ftz x with
  | .nan => (f.nanBits, 0)
  | .inf s => (f.signBit s, 0)
  | .fin s m e =>
    if m = 0 then (f.infBits s, flDZ)
    else
      let k := m.log2 - 12
      let t := m / 2 ^ k
      let q := 2 ^ 64 / t
      let sticky := if 2 ^ 64 % t = 0 then 0 else 1
      fpRound f md s (2 * q + sticky) (-65 - (e + k))

/-- A value converted to an integer format: rounded under R204, then saturated (R208). -/
def fpToInt (md : FpMode) (w : Nat) (signed : Bool) (v : FpVal) : Nat × Nat :=
  match v with
  | .nan => (0, flIV)
  | .inf neg => (ofSigned w (if neg then intLo w signed else intHi w signed), flSAT)
  | .fin neg m e =>
    let (r, ex) := roundAt md.rtz m e 0
    let i : Int := if neg then -(r : Int) else r
    let (bits, sat) := satInt w signed i
    (bits, if sat ≠ 0 then sat else if ex then 0 else flIX)

/-- The value of a lane in a format, scaled by 2^s exactly. -/
def laneVal (fm : Fmt) (ftz : Bool) (x : Nat) (s : Int) : FpVal :=
  match fm with
  | .int w sg => let i := intVal w sg x; .fin (decide (i < 0)) i.natAbs s
  | .fp f =>
    match fpDecode f ftz x with
    | .fin n m e => .fin n m (e + s)
    | v => v

/-- The two cells of Table FMT-8 that R211 has overflow with RTZ = 1 although truncation gives M of the destination (log 111): CVT of the largest
finite FP16 to E5M2, and of the largest finite FP32 to BF16. -/
def largestCell (src : Fmt) (f : FpFmt) (md : FpMode) (x : Nat) : Option Bool :=
  match src with
  | .fp g =>
    if md.rtz ∧ ((g = fmtFP16 ∧ f = fmtE5M2) ∨ (g = fmtFP32 ∧ f = fmtBF16)) ∧ x % 2 ^ (g.width - 1) = g.maxBits false then
      some (x.testBit (g.width - 1))
    else none
  | .int _ _ => none

/-- One lane converted between formats after an exact scaling by 2^s (R192, R208, R231). -/
def convert (src dst : Fmt) (md : FpMode) (s : Int) (x : Nat) : Nat × Nat :=
  match dst with
  | .int w sg => fpToInt md w sg (laneVal src md.ftz x s)
  | .fp f =>
    match largestCell src f md x with
    | some neg => fpOverflow f md neg
    | none =>
      match laneVal src md.ftz x s with
      | .fin n m e => if m = 0 then (f.signBit n, 0) else fpRound f md n m e
      | v => fpEncode f md v

end Sys2Proof.Machine
end

