-- ==== Sys2Proof/Machine/Crc.lean ====
section
/-! DEFINITION. The cyclic redundancy codes the manual names, over bytes in the order they are sent. -/
namespace Sys2Proof.Machine

/-- `n` shifts of a reflected CRC register. -/
def crcReflShift (poly : Nat) : Nat → Nat → Nat
  | 0, r => r
  | n + 1, r => crcReflShift poly n (if r % 2 = 1 then (r / 2) ^^^ poly else r / 2)

/-- A reflected CRC over bytes, least significant bit first. -/
def crcRefl (poly : Nat) : Nat → List Byte → Nat
  | r, [] => r
  | r, b :: bs => crcRefl poly (crcReflShift poly 8 (r ^^^ b.toNat)) bs

/-- `n` shifts of a CRC register of width `w`, most significant bit first. -/
def crcMsbShift (w poly : Nat) : Nat → Nat → Nat
  | 0, r => r
  | n + 1, r =>
    crcMsbShift w poly n (if r.testBit (w - 1) then ((2 * r) % 2 ^ w) ^^^ poly else (2 * r) % 2 ^ w)

/-- A CRC of width `w` ≥ 8 over bytes, most significant bit first. -/
def crcMsb (w poly : Nat) : Nat → List Byte → Nat
  | r, [] => r
  | r, b :: bs => crcMsb w poly (crcMsbShift w poly 8 (r ^^^ (b.toNat * 2 ^ (w - 8)))) bs

/-- The Ethernet frame check sequence: CRC-32, reflected, start and final exclusive or all ones. -/
def crc32 (bs : List Byte) : Nat := crcRefl 0xEDB88320 0xFFFFFFFF bs ^^^ 0xFFFFFFFF

/-- CRC-32C (Castagnoli), reflected, start and final exclusive or all ones (R104). -/
def crc32c (bs : List Byte) : Nat := crcRefl 0x82F63B78 0xFFFFFFFF bs ^^^ 0xFFFFFFFF

/-- The four FCS bytes a frame ends with, in sending order. -/
def fcsBytes (bs : List Byte) : List Byte := leBytes 4 (crc32 bs)

/-- A frame's FCS checks: its last four bytes are the CRC-32 of the rest. -/
def fcsGood (frame : List Byte) : Bool :=
  decide (4 ≤ frame.length ∧ frame.drop (frame.length - 4) = fcsBytes (frame.take (frame.length - 4)))

end Sys2Proof.Machine
end

