-- ==== Sys2Proof/Config.lean ====
section
/-! DEFINITION. What the manual leaves open: free values, constants with no body, so that no proof can see what they are. -/
namespace Sys2Proof

/-- FREE VALUE. The n-th value the manual does not fix (State.freeCtr counts them): the BEACON nonce, a DEV_RST_N pulse too
short to be sure of, the contents of a stack after its built-in self-test, and the others that the assumption log names. -/
opaque Config.free : Nat → BitVec 64

/-- FREE VALUE. What a byte of an HBM stack holds after its n-th built-in self-test, by DPA (R438). -/
opaque Config.afterBist : Nat → Nat → BitVec 8

/-- FREE VALUE. IDCODE[11:1] of every TAP, the manufacturer identity, and [31:28] of a compute die's, its revision (R433): the manual
names the fields and gives no number. -/
opaque Config.manufacturer : BitVec 11
opaque Config.dieRevision : Nat → BitVec 4

end Sys2Proof
end

