-- ==== Sys2Proof/Machine/RegMap.lean ====
section
/-! DEFINITION. The BAR0 registers (Tables GLB-10 to GLB-19): offset, copies, fields, access and reset value of each. -/
namespace Sys2Proof.Machine

/-- Access types (R5), with the conditions some registers put on a write: page bases (R343), ring registers (R339), SQ and
BQ settings (Table HIF-15), field-map data (R35), the test window (R436). `rw1s` can only be set (GLB_CTL.RUN, R358). -/
inductive Acc where
  | ro | rw | rw1c | wo | rwl | rw1s | rwPage | rwRing | rwSq | rwBq | rwField | rwTest
  deriving DecidableEq, Repr

/-- A field: its bits [hi:lo], access and reset value; `byIndex` marks a reset value equal to the copy's number mod 64. -/
structure RegField where
  hi : Nat
  lo : Nat
  acc : Acc
  rst : Nat
  byIndex : Bool
  deriving DecidableEq, Repr

/-- A register: its name, the offset of copy 0, the distance between copies, their number, and its fields. -/
structure RegRow where
  name : String
  off : Nat
  stride : Nat
  n : Nat
  fields : List RegField
  deriving DecidableEq, Repr

/-- Registers, part 1. -/
def regRows1 : List RegRow := [
  ⟨"GLB_ID", 0x0000, 0, 1, [⟨3, 0, .ro, 0, false⟩, ⟨7, 4, .ro, 0, false⟩, ⟨31, 16, .ro, 0x0640, false⟩]⟩,
  ⟨"GLB_CTL", 0x0004, 0, 1, [⟨0, 0, .rw1s, 0, false⟩, ⟨1, 1, .wo, 0, false⟩, ⟨2, 2, .rw, 0, false⟩]⟩,
  ⟨"GLB_STATUS", 0x0008, 0, 1, [⟨3, 0, .ro, 0, false⟩, ⟨7, 4, .ro, 0, false⟩, ⟨11, 8, .ro, 0, false⟩]⟩,
  ⟨"GLB_LOCK_VIOL", 0x000C, 0, 1, [⟨0, 0, .rw1c, 0, false⟩, ⟨15, 2, .ro, 0, false⟩]⟩,
  ⟨"GLB_SERIAL_LO", 0x0010, 0, 1, [⟨31, 0, .ro, 0, false⟩]⟩,
  ⟨"GLB_SERIAL_HI", 0x0014, 0, 1, [⟨31, 0, .ro, 0, false⟩]⟩,
  ⟨"GLB_CNT_PAGE", 0x0018, 0, 1, [⟨0, 0, .rw, 0, false⟩]⟩,
  ⟨"GLB_STRAPS", 0x001C, 0, 1, [⟨3, 0, .ro, 0, false⟩, ⟨6, 4, .ro, 0, false⟩]⟩,
  ⟨"CLK_STATUS", 0x0400, 0, 1, [⟨0, 0, .ro, 0, false⟩, ⟨4, 1, .ro, 0, false⟩, ⟨5, 5, .ro, 0, false⟩]⟩,
  ⟨"CLK_TDIV", 0x0404, 4, 4, [⟨31, 0, .ro, 0, false⟩]⟩,
  ⟨"CLK_TMAX", 0x0414, 0, 1, [⟨1, 0, .rwl, 0, false⟩]⟩,
  ⟨"CLK_DEV_TIME_LO", 0x0418, 0, 1, [⟨31, 0, .ro, 0, false⟩]⟩,
  ⟨"CLK_DEV_TIME_HI", 0x041C, 0, 1, [⟨31, 0, .ro, 0, false⟩]⟩,
  ⟨"CLK_TIME_SET_LO", 0x0420, 0, 1, [⟨31, 0, .rwl, 0, false⟩]⟩,
  ⟨"CLK_TIME_SET_HI", 0x0424, 0, 1, [⟨31, 0, .rwl, 0, false⟩]⟩,
  ⟨"RST_CAUSE", 0x0440, 0, 1, [⟨7, 0, .rw1c, 1, false⟩]⟩,
  ⟨"RST_BACKLOG_LEVEL", 0x0444, 0, 1, [⟨12, 0, .ro, 0, false⟩]⟩,
  ⟨"HIF_CTL", 0x0800, 0, 1, [⟨0, 0, .rw, 0, false⟩]⟩,
  ⟨"HIF_PERST_ISOLATE", 0x0804, 0, 1, [⟨0, 0, .rwl, 1, false⟩]⟩,
  ⟨"HIF_DB_BASE_LO", 0x0808, 0, 1, [⟨31, 0, .rwPage, 0, false⟩]⟩,
  ⟨"HIF_DB_BASE_HI", 0x080C, 0, 1, [⟨31, 0, .rwPage, 0, false⟩]⟩,
  ⟨"HIF_SH_BASE_LO", 0x0810, 0, 1, [⟨31, 0, .rwPage, 0, false⟩]⟩,
  ⟨"HIF_SH_BASE_HI", 0x0814, 0, 1, [⟨31, 0, .rwPage, 0, false⟩]⟩,
  ⟨"HIF_POLL_MIN", 0x0818, 0, 1, [⟨15, 0, .rw, 250, false⟩]⟩]

/-- Registers, part 2. -/
def regRows2 : List RegRow := [
  ⟨"HIF_POLL_MAX", 0x081C, 0, 1, [⟨15, 0, .rw, 100, false⟩]⟩,
  ⟨"HIF_SH_HOLDOFF", 0x0820, 0, 1, [⟨7, 0, .rw, 1, false⟩]⟩,
  ⟨"HIF_BQ_BUFSZ", 0x0824, 0, 1, [⟨7, 0, .rwBq, 8, false⟩]⟩,
  ⟨"HIF_TQ_PERIOD", 0x0828, 0, 1, [⟨15, 0, .rw, 0, false⟩]⟩,
  ⟨"HIF_SQ_CFG", 0x0840, 4, 16, [⟨3, 0, .rwSq, 0, true⟩]⟩,
  ⟨"HIF_MOD", 0x0880, 4, 20, [⟨5, 0, .rw, 0, true⟩, ⟨15, 8, .rw, 1, false⟩, ⟨31, 16, .rw, 0, false⟩]⟩,
  ⟨"HIF_RING_BASE_LO", 0x0900, 16, 36, [⟨31, 0, .rwRing, 0, false⟩]⟩,
  ⟨"HIF_RING_BASE_HI", 0x0904, 16, 36, [⟨31, 0, .rwRing, 0, false⟩]⟩,
  ⟨"HIF_RING_SIZE", 0x0908, 16, 36, [⟨4, 0, .rwRing, 6, false⟩]⟩,
  ⟨"HIF_RING_CTL", 0x090C, 16, 36, [⟨0, 0, .rw, 0, false⟩]⟩,
  ⟨"HIF_RING_STATUS", 0x0B40, 4, 36, [⟨0, 0, .rw1c, 0, false⟩]⟩,
  ⟨"TRK_CTL", 0x1000, 0x200, 8, [⟨0, 0, .rw, 0, false⟩, ⟨2, 1, .rwl, 0, false⟩, ⟨3, 3, .rwl, 0, false⟩]⟩,
  ⟨"TRK_STATUS", 0x1004, 0x200, 8, [⟨0, 0, .ro, 0, false⟩, ⟨1, 1, .ro, 0, false⟩]⟩,
  ⟨"TRK_CYC_LEN", 0x1008, 0x200, 8, [⟨9, 0, .rwl, 250, false⟩]⟩,
  ⟨"TRK_MAXFRAME", 0x100C, 0x200, 8, [⟨13, 0, .rwl, 1522, false⟩]⟩,
  ⟨"TRK_TX_AMP", 0x1010, 0x200, 8, [⟨4, 0, .rw, 8, false⟩]⟩,
  ⟨"TRK_IMP_THR", 0x1014, 0x200, 8, [⟨7, 0, .rw, 0x60, false⟩]⟩,
  ⟨"TRK_IMP_GUARD", 0x1018, 0x200, 8, [⟨15, 0, .rw, 256, false⟩]⟩,
  ⟨"TRK_ED_MARGIN", 0x101C, 0x200, 8, [⟨4, 0, .rw, 12, false⟩]⟩,
  ⟨"TRK_NOISE", 0x1020, 0x200, 8, [⟨7, 0, .ro, 0, false⟩]⟩,
  ⟨"TRK_CONT_N", 0x1024, 0x200, 8, [⟨2, 0, .rw, 2, false⟩]⟩,
  ⟨"TRK_CONT_LEN", 0x1028, 0x200, 8, [⟨11, 0, .rw, 112, false⟩]⟩,
  ⟨"TRK_SRCH", 0x102C, 0x200, 8, [⟨7, 0, .rw, 82, false⟩]⟩,
  ⟨"TRK_REPAIR_EVERY", 0x1030, 0x200, 8, [⟨5, 0, .rw, 8, false⟩]⟩]

/-- Registers, part 3. -/
def regRows3 : List RegRow := [
  ⟨"TRK_REPAIR_RES", 0x1034, 0x200, 8, [⟨11, 0, .rw, 288, false⟩]⟩,
  ⟨"TRK_REPAIR_WAIT", 0x1038, 0x200, 8, [⟨7, 0, .rw, 60, false⟩]⟩,
  ⟨"TRK_MISS_LIMIT", 0x103C, 0x200, 8, [⟨7, 0, .rw, 16, false⟩]⟩,
  ⟨"TRK_HOLD_CYC", 0x1040, 0x200, 8, [⟨15, 0, .rw, 400, false⟩]⟩,
  ⟨"TRK_COL_EVM", 0x1044, 0x200, 8, [⟨7, 0, .rw, 0x80, false⟩]⟩,
  ⟨"TRK_QUAR_AUTO", 0x1048, 0x200, 8, [⟨7, 0, .rw, 0, false⟩]⟩,
  ⟨"TRK_QUAR_LO", 0x104C, 0x200, 8, [⟨31, 0, .rw1c, 0, false⟩]⟩,
  ⟨"TRK_QUAR_HI", 0x1050, 0x200, 8, [⟨31, 0, .rw1c, 0, false⟩]⟩,
  ⟨"TRK_FM_IDX", 0x1054, 0x200, 8, [⟨5, 0, .rw, 0, false⟩]⟩,
  ⟨"TRK_FM_DATA0", 0x1060, 0x200, 8, [⟨31, 0, .rwField, 0, false⟩]⟩,
  ⟨"TRK_FM_DATA1", 0x1064, 0x200, 8, [⟨31, 0, .rwField, 0, false⟩]⟩,
  ⟨"TRK_FM_DATA2", 0x1068, 0x200, 8, [⟨31, 0, .rwField, 0, false⟩]⟩,
  ⟨"TRK_FM_DATA3", 0x106C, 0x200, 8, [⟨31, 0, .rwField, 0, false⟩]⟩,
  ⟨"TRK_FM_DATA4", 0x1070, 0x200, 8, [⟨31, 0, .rwField, 0, false⟩]⟩,
  ⟨"TRK_FM_DATA5", 0x1074, 0x200, 8, [⟨31, 0, .rwField, 0, false⟩]⟩,
  ⟨"TRK_FM_DATA6", 0x1078, 0x200, 8, [⟨31, 0, .rwField, 0, false⟩]⟩,
  ⟨"TRK_FM_DATA7", 0x107C, 0x200, 8, [⟨31, 0, .rwField, 0, false⟩]⟩,
  ⟨"BBP_CTL", 0x2000, 0x200, 2, [⟨0, 0, .rw, 0, false⟩, ⟨3, 1, .rwl, 0, false⟩, ⟨5, 4, .rwl, 0, false⟩]⟩,
  ⟨"BBP_PFC_EN", 0x2004, 0x200, 2, [⟨7, 0, .rwl, 0, false⟩]⟩,
  ⟨"BBP_XOFF", 0x2008, 0x200, 2, [⟨19, 0, .rw, 786432, false⟩]⟩,
  ⟨"BBP_XON", 0x200C, 0x200, 2, [⟨19, 0, .rw, 524288, false⟩]⟩,
  ⟨"BBP_PAUSE_QUANTA", 0x2010, 0x200, 2, [⟨15, 0, .rw, 0xFFFF, false⟩]⟩,
  ⟨"BBP_DEF_PRI", 0x2014, 0x200, 2, [⟨2, 0, .rw, 0, false⟩]⟩,
  ⟨"BBP_GATE_MARGIN", 0x2018, 0x200, 2, [⟨7, 0, .rw, 20, false⟩]⟩]

/-- Registers, part 4. -/
def regRows4 : List RegRow := [
  ⟨"BBP_PTP_CTL", 0x201C, 0, 1, [⟨0, 0, .rw, 0, false⟩, ⟨3, 1, .rw, 0, false⟩, ⟨15, 8, .rw, 0, false⟩]⟩,
  ⟨"BBP_PTP_MASTER0", 0x2020, 0, 1, [⟨31, 0, .rw, 0, false⟩]⟩,
  ⟨"BBP_PTP_MASTER1", 0x2024, 0, 1, [⟨31, 0, .rw, 0, false⟩]⟩,
  ⟨"BBP_PTP_MASTER2", 0x2028, 0, 1, [⟨15, 0, .rw, 0, false⟩]⟩,
  ⟨"BBP_PTP_DELAY", 0x202C, 0, 1, [⟨31, 0, .rw, 0, false⟩]⟩,
  ⟨"BBP_PTP_STEP", 0x2030, 0, 1, [⟨31, 0, .rw, 1000, false⟩]⟩,
  ⟨"BBP_PTP_HOLD", 0x2034, 0, 1, [⟨15, 0, .rw, 3000, false⟩]⟩,
  ⟨"BBP_SCHED_EN", 0x2038, 0, 1, [⟨0, 0, .rw, 0, false⟩]⟩,
  ⟨"BBP_SCHED_PORT", 0x203C, 0, 1, [⟨15, 0, .rw, 0, false⟩]⟩,
  ⟨"BBP_STATUS", 0x2040, 0x200, 2, [⟨3, 0, .ro, 0, false⟩]⟩,
  ⟨"PLG_PORT_CFG_0", 0x2400, 8, 17, [⟨0, 0, .rwl, 1, false⟩, ⟨15, 8, .rw, 0, false⟩, ⟨17, 16, .rw, 0, false⟩, ⟨28, 24, .rw, 0, false⟩]⟩,
  ⟨"PLG_PORT_CFG_1", 0x2404, 8, 17, [⟨2, 0, .rw, 0, false⟩, ⟨24, 16, .rw, 0, false⟩]⟩,
  ⟨"PLG_MAXDEPTH", 0x2490, 0, 1, [⟨4, 0, .rw, 16, false⟩]⟩,
  ⟨"PLG_MAXBYTES", 0x2494, 0, 1, [⟨8, 0, .rw, 384, false⟩]⟩,
  ⟨"PLG_GLEAN_LIFE", 0x2498, 0, 1, [⟨15, 0, .rw, 2000, false⟩]⟩,
  ⟨"PLG_FRAG_HOLD", 0x249C, 0, 1, [⟨7, 0, .rw, 50, false⟩]⟩,
  ⟨"PLG_PROF_LO", 0x24A0, 8, 8, [⟨31, 0, .rw, 0, false⟩]⟩,
  ⟨"PLG_PROF_HI", 0x24A4, 8, 8, [⟨31, 0, .rw, 0, false⟩]⟩,
  ⟨"PLG_PUNT_RATE", 0x2500, 4, 8, [⟨15, 0, .rw, 100, false⟩]⟩,
  ⟨"PLG_PUNT_BURST", 0x2520, 4, 8, [⟨15, 0, .rw, 32, false⟩]⟩,
  ⟨"SOW_GWIN1", 0x2600, 0, 1, [⟨15, 0, .rw, 1000, false⟩]⟩,
  ⟨"SOW_GWIN2", 0x2604, 0, 1, [⟨15, 0, .rw, 5000, false⟩]⟩,
  ⟨"SOW_GWIN3", 0x2608, 0, 1, [⟨15, 0, .rw, 20000, false⟩]⟩,
  ⟨"SOW_SHED_AFTER", 0x260C, 0, 1, [⟨15, 0, .rw, 5000, false⟩]⟩]

/-- Registers, part 5. -/
def regRows5 : List RegRow := [
  ⟨"SOW_SLICE_GRACE", 0x2610, 0, 1, [⟨15, 0, .rw, 2000, false⟩]⟩,
  ⟨"SOW_CTL", 0x2614, 0, 1, [⟨0, 0, .rw, 1, false⟩]⟩,
  ⟨"SOW_ROT_DT", 0x2618, 0, 1, [⟨7, 0, .rw, 32, false⟩]⟩,
  ⟨"SOW_ROT_DWELL", 0x261C, 0, 1, [⟨15, 0, .rw, 50, false⟩]⟩,
  ⟨"SOW_ROT_WAIT", 0x2620, 0, 1, [⟨15, 0, .rw, 10, false⟩]⟩,
  ⟨"SYN_SOWER_TO", 0x2624, 0, 1, [⟨15, 0, .rw, 1000, false⟩]⟩,
  ⟨"RPL_GATE_MAX", 0x2700, 0, 1, [⟨9, 0, .rw, 100, false⟩]⟩,
  ⟨"RPL_DATA_LANES", 0x2704, 0, 1, [⟨2, 0, .rw, 2, false⟩]⟩,
  ⟨"YOK_CEIL", 0x2800, 0, 1, [⟨10, 0, .rwl, 1800, false⟩]⟩,
  ⟨"YOK_FLOOR", 0x2804, 0, 1, [⟨10, 0, .rwl, 720, false⟩]⟩,
  ⟨"YOK_RESERVE", 0x2808, 0, 1, [⟨10, 0, .rwl, 160, false⟩]⟩,
  ⟨"YOK_SLEW_UP", 0x280C, 0, 1, [⟨9, 0, .rwl, 100, false⟩]⟩,
  ⟨"YOK_SLEW_DN", 0x2810, 0, 1, [⟨9, 0, .rwl, 100, false⟩]⟩,
  ⟨"YOK_BAND", 0x2814, 0, 1, [⟨7, 0, .rwl, 20, false⟩]⟩,
  ⟨"YOK_CTL", 0x2818, 0, 1, [⟨0, 0, .rwl, 0, false⟩, ⟨1, 1, .rwl, 0, false⟩]⟩,
  ⟨"YOK_STAGGER_WIN", 0x281C, 0, 1, [⟨15, 0, .rwl, 2000, false⟩]⟩,
  ⟨"YOK_SITE_SEED", 0x2820, 0, 1, [⟨31, 0, .rwl, 0, false⟩]⟩,
  ⟨"YOK_SCHED_WAIT", 0x2824, 0, 1, [⟨7, 0, .rwl, 10, false⟩]⟩,
  ⟨"YOK_CAL_ALARM", 0x2828, 0, 1, [⟨7, 0, .rw, 10, false⟩]⟩,
  ⟨"YOK_IMON_SCALE", 0x2830, 4, 6, [⟨15, 0, .rwl, 0, false⟩]⟩,
  ⟨"YOK_IMON_FIXED", 0x2848, 0, 1, [⟨10, 0, .rwl, 0, false⟩]⟩,
  ⟨"YOK_STATE", 0x2880, 0, 1, [⟨2, 0, .ro, 0, false⟩]⟩,
  ⟨"YOK_PSTD", 0x2884, 0, 1, [⟨31, 0, .ro, 0, false⟩]⟩,
  ⟨"YOK_L", 0x2888, 0, 1, [⟨31, 0, .ro, 0, false⟩]⟩]

/-- Registers, part 6. -/
def regRows6 : List RegRow := [
  ⟨"YOK_PKG_POWER", 0x288C, 0, 1, [⟨31, 0, .ro, 0, false⟩]⟩,
  ⟨"YOK_EFF_CEIL", 0x2890, 0, 1, [⟨31, 0, .ro, 0, false⟩]⟩,
  ⟨"YOK_EFF_FLOOR", 0x2894, 0, 1, [⟨31, 0, .ro, 0, false⟩]⟩,
  ⟨"YOK_EFF_RESERVE", 0x2898, 0, 1, [⟨31, 0, .ro, 0, false⟩]⟩,
  ⟨"YOK_BOARD_CEIL", 0x289C, 0, 1, [⟨31, 0, .ro, 1800, false⟩]⟩,
  ⟨"YOK_SITE_CEIL", 0x28A0, 0, 1, [⟨31, 0, .ro, 1800, false⟩]⟩,
  ⟨"YOK_HOLDOFF_MS", 0x28A4, 0, 1, [⟨31, 0, .ro, 0, false⟩]⟩,
  ⟨"DLK_CRED0", 0x2C00, 0, 1, [⟨7, 0, .rwl, 96, false⟩]⟩,
  ⟨"DLK_CRED1", 0x2C04, 0, 1, [⟨7, 0, .rwl, 32, false⟩]⟩,
  ⟨"DLK_CRED2", 0x2C08, 0, 1, [⟨7, 0, .rwl, 64, false⟩]⟩,
  ⟨"DLK_CRED3", 0x2C0C, 0, 1, [⟨7, 0, .rwl, 16, false⟩]⟩,
  ⟨"DLK_CRED4", 0x2C10, 0, 1, [⟨7, 0, .rwl, 8, false⟩]⟩,
  ⟨"DLK_CRED5", 0x2C14, 0, 1, [⟨7, 0, .rwl, 8, false⟩]⟩,
  ⟨"DLK_CRED6", 0x2C18, 0, 1, [⟨7, 0, .rwl, 24, false⟩]⟩,
  ⟨"DLK_CRED7", 0x2C1C, 0, 1, [⟨7, 0, .rwl, 8, false⟩]⟩,
  ⟨"DLK_GSTAT", 0x2C20, 0, 1, [⟨0, 0, .ro, 0, false⟩]⟩,
  ⟨"DLK_ACK_TO", 0x2C24, 0, 1, [⟨8, 0, .rw, 256, false⟩]⟩,
  ⟨"DLK_PERSIST", 0x2C28, 0, 1, [⟨15, 0, .rw, 32, false⟩]⟩,
  ⟨"DLK_PERSIST_WIN", 0x2C2C, 0, 1, [⟨15, 0, .rw, 1000, false⟩]⟩,
  ⟨"DLK_RETRAIN", 0x2C40, 0x40, 10, [⟨0, 0, .wo, 0, false⟩, ⟨1, 1, .wo, 0, false⟩]⟩,
  ⟨"DLK_STATUS", 0x2C44, 0x40, 10, [⟨2, 0, .ro, 0, false⟩, ⟨4, 4, .ro, 0, false⟩, ⟨11, 8, .ro, 0, false⟩, ⟨15, 12, .ro, 0, false⟩, ⟨17, 16, .ro, 0, false⟩, ⟨19, 18, .ro, 0, false⟩]⟩,
  ⟨"DLK_LB_CTL", 0x2C48, 0x40, 10, [⟨1, 0, .rwl, 0, false⟩, ⟨3, 2, .rwl, 0, false⟩, ⟨7, 4, .rwl, 0, false⟩, ⟨8, 8, .rwl, 0, false⟩]⟩,
  ⟨"DLK_LB_WORD", 0x2C4C, 0x40, 10, [⟨31, 0, .rwl, 0, false⟩]⟩,
  ⟨"DLK_LB_IDX", 0x2C50, 0x40, 10, [⟨10, 0, .rw, 0, false⟩]⟩]

/-- Registers, part 7. -/
def regRows7 : List RegRow := [
  ⟨"DLK_LB_ERR", 0x2C54, 0x40, 10, [⟨15, 0, .ro, 0, false⟩, ⟨19, 16, .ro, 0, false⟩]⟩,
  ⟨"MEM_CTL", 0x3000, 0, 1, [⟨0, 0, .rw, 1, false⟩]⟩,
  ⟨"MEM_SCRUB_HOURS", 0x3004, 0, 1, [⟨7, 0, .rw, 8, false⟩]⟩,
  ⟨"MEM_CORR_THR", 0x3008, 0, 1, [⟨15, 0, .rw, 1000, false⟩]⟩,
  ⟨"MEM_BAR2_CTL", 0x300C, 0, 1, [⟨0, 0, .rw, 0, false⟩, ⟨27, 16, .rw, 0, false⟩]⟩,
  ⟨"MEM_ERR_LOG", 0x3040, 16, 4, [⟨0, 0, .rw1c, 0, false⟩, ⟨1, 1, .rw1c, 0, false⟩, ⟨4, 2, .ro, 0, false⟩, ⟨9, 8, .ro, 0, false⟩, ⟨12, 12, .ro, 0, false⟩]⟩,
  ⟨"MEM_ERR_LOG_DPA_LO", 0x3044, 16, 4, [⟨31, 0, .ro, 0, false⟩]⟩,
  ⟨"MEM_ERR_LOG_DPA_HI", 0x3048, 16, 4, [⟨7, 0, .ro, 0, false⟩]⟩,
  ⟨"HRW_CTL", 0x3400, 0, 1, [⟨0, 0, .rw, 1, false⟩]⟩,
  ⟨"HRW_PERIOD", 0x3404, 0, 1, [⟨7, 0, .rw, 10, false⟩]⟩,
  ⟨"HRW_PASS_MAX", 0x3408, 0, 1, [⟨7, 0, .rw, 8, false⟩]⟩,
  ⟨"HRW_RETIRE_N", 0x340C, 0, 1, [⟨3, 0, .rw, 3, false⟩]⟩,
  ⟨"HRW_STATUS", 0x3410, 0, 1, [⟨3, 0, .ro, 0, false⟩, ⟨4, 4, .ro, 0, false⟩, ⟨12, 8, .ro, 0, false⟩, ⟨18, 16, .ro, 0, false⟩, ⟨30, 24, .ro, 64, false⟩]⟩,
  ⟨"HRW_RETIRED_LO", 0x3414, 0, 1, [⟨31, 0, .ro, 0, false⟩]⟩,
  ⟨"HRW_RETIRED_HI", 0x3418, 0, 1, [⟨31, 0, .ro, 0, false⟩]⟩,
  ⟨"TWP_CFG", 0x3800, 0, 1, [⟨0, 0, .rw, 0, false⟩, ⟨1, 1, .rw, 0, false⟩, ⟨2, 2, .rw, 0, false⟩, ⟨3, 3, .rw, 1, false⟩]⟩,
  ⟨"TWP_ADDR", 0x3804, 0, 1, [⟨6, 0, .ro, 0, false⟩, ⟨9, 8, .ro, 0, false⟩]⟩,
  ⟨"TWP_ADDR1", 0x3808, 0, 1, [⟨6, 0, .ro, 0, false⟩, ⟨7, 7, .ro, 0, false⟩]⟩,
  ⟨"TWP_ADDR2", 0x380C, 0, 1, [⟨6, 0, .ro, 0, false⟩, ⟨7, 7, .ro, 0, false⟩]⟩,
  ⟨"TWP_ADDR3", 0x3810, 0, 1, [⟨6, 0, .ro, 0, false⟩, ⟨7, 7, .ro, 0, false⟩]⟩,
  ⟨"TWP_ALERT_EN", 0x3814, 0, 1, [⟨6, 0, .rw, 0x7F, false⟩]⟩,
  ⟨"TWP_ALERT_MAP", 0x3818, 0, 1, [⟨13, 0, .rw, 0, false⟩]⟩,
  ⟨"TWP_FLAGS", 0x381C, 0, 1, [⟨5, 0, .rw1c, 0, false⟩]⟩,
  ⟨"SYN_VAL", 0x3C00, 8, 128, [⟨31, 0, .ro, 0, false⟩]⟩]

/-- Registers, part 8. -/
def regRows8 : List RegRow := [
  ⟨"SYN_CFG", 0x3C04, 8, 128, [⟨1, 0, .rwl, 0, false⟩, ⟨2, 2, .rw1c, 0, false⟩, ⟨31, 16, .rwl, 0, false⟩]⟩,
  ⟨"TST_SEL", 0x8000, 0, 1, [⟨13, 0, .rw, 0, false⟩]⟩,
  ⟨"TST_OFF", 0x8004, 0, 1, [⟨31, 0, .rw, 0, false⟩]⟩,
  ⟨"TST_DATA", 0x8008, 0, 1, [⟨31, 0, .rwTest, 0, false⟩]⟩,
  ⟨"TST_STATUS", 0x800C, 0, 1, [⟨0, 0, .rw1c, 0, false⟩]⟩,
  ⟨"TST_HBM_SEL", 0x8010, 0, 1, [⟨1, 0, .rw, 0, false⟩]⟩,
  ⟨"TST_TRC_IODEST", 0x8014, 0, 1, [⟨1, 0, .rwl, 0, false⟩]⟩,
  ⟨"TST_TRC_SRC", 0x8100, 0x40, 4, [⟨4, 0, .rwl, 0, false⟩]⟩,
  ⟨"TST_TRC_CTL", 0x8104, 0x40, 4, [⟨0, 0, .rwl, 0, false⟩, ⟨1, 1, .rwl, 0, false⟩, ⟨17, 2, .rwl, 0, false⟩, ⟨25, 18, .rwl, 0, false⟩]⟩,
  ⟨"TST_TRC_STATUS", 0x8108, 0x40, 4, [⟨14, 0, .ro, 0, false⟩, ⟨16, 16, .ro, 0, false⟩, ⟨17, 17, .ro, 0, false⟩, ⟨18, 18, .ro, 0, false⟩]⟩,
  ⟨"TST_PMU_SEL0", 0x8120, 0x40, 4, [⟨4, 0, .rwl, 0, false⟩, ⟨31, 16, .rwl, 0, false⟩]⟩,
  ⟨"TST_PMU_SEL1", 0x8124, 0x40, 4, [⟨4, 0, .rwl, 0, false⟩, ⟨31, 16, .rwl, 0, false⟩]⟩,
  ⟨"TST_PMU_SEL2", 0x8128, 0x40, 4, [⟨4, 0, .rwl, 0, false⟩, ⟨31, 16, .rwl, 0, false⟩]⟩,
  ⟨"TST_PMU_SEL3", 0x812C, 0x40, 4, [⟨4, 0, .rwl, 0, false⟩, ⟨31, 16, .rwl, 0, false⟩]⟩,
  ⟨"TST_PMU_SEL4", 0x8130, 0x40, 4, [⟨4, 0, .rwl, 0, false⟩, ⟨31, 16, .rwl, 0, false⟩]⟩,
  ⟨"TST_PMU_SEL5", 0x8134, 0x40, 4, [⟨4, 0, .rwl, 0, false⟩, ⟨31, 16, .rwl, 0, false⟩]⟩,
  ⟨"TST_PMU_SEL6", 0x8138, 0x40, 4, [⟨4, 0, .rwl, 0, false⟩, ⟨31, 16, .rwl, 0, false⟩]⟩,
  ⟨"TST_PMU_SEL7", 0x813C, 0x40, 4, [⟨4, 0, .rwl, 0, false⟩, ⟨31, 16, .rwl, 0, false⟩]⟩]

/-- The MSI-X table and pending-bit array (Table HIF-1), as the PCI Express specification lays them out. PRESUMED: each vector comes
out of reset masked. -/
def regRows9 : List RegRow := [
  ⟨"MSIX_PBA", 0x0BF0, 4, 2, [⟨31, 0, .ro, 0, false⟩]⟩,
  ⟨"MSIX_ADDR_LO", 0x0C00, 16, 64, [⟨31, 0, .rw, 0, false⟩]⟩,
  ⟨"MSIX_ADDR_HI", 0x0C04, 16, 64, [⟨31, 0, .rw, 0, false⟩]⟩,
  ⟨"MSIX_DATA", 0x0C08, 16, 64, [⟨31, 0, .rw, 0, false⟩]⟩,
  ⟨"MSIX_CTL", 0x0C0C, 16, 64, [⟨0, 0, .rw, 1, false⟩]⟩]

/-- Every register of BAR0 (R446). -/
def regRows : List RegRow :=
  regRows1 ++ regRows2 ++ regRows3 ++ regRows4 ++ regRows5 ++ regRows6 ++ regRows7 ++ regRows8 ++ regRows9

/-- The copy of a row's register that stands at a byte offset, if one does. -/
def RegRow.copyAt (r : RegRow) (off : Nat) : Option Nat :=
  if off < r.off then none
  else if r.stride = 0 then (if off = r.off then some 0 else none)
  else if (off - r.off) % r.stride = 0 && decide ((off - r.off) / r.stride < r.n) then some ((off - r.off) / r.stride)
  else none

/-- The register at a byte offset among some rows, with its copy number. -/
def findReg : List RegRow → Nat → Option (RegRow × Nat)
  | [], _ => none
  | r :: rs, off =>
    match r.copyAt off with
    | some k => some (r, k)
    | none => findReg rs off

/-- The register at a byte offset, with its copy number. Offsets that no table assigns have none (R443). -/
def regAt (off : Nat) : Option (RegRow × Nat) := findReg regRows off

/-- A field's reset value in copy `k`, in place. -/
def RegField.reset (f : RegField) (k : Nat) : Nat := (if f.byIndex then k % 64 else f.rst) * 2 ^ f.lo

/-- The reset value of a register's copy. -/
def fieldsReset (k : Nat) : List RegField → Nat
  | [] => 0
  | f :: fs => f.reset k + fieldsReset k fs

/-- The reset value of the register at an offset; 0 where no register stands. -/
def regReset (off : Nat) : Word :=
  match regAt off with
  | none => 0
  | some (r, k) => BitVec.ofNat 32 (fieldsReset k r.fields)


end Sys2Proof.Machine
end

