-- ==== Sys2Proof/Machine/State.lean ====
section
/-! DEFINITION. The state of the DZ640 as plain data: every register, table, memory, queue, mode and pin that the manual names,
block by block, and the queue of waiting commands. A table is a sparse list of (key, value) pairs (Machine/Table.lean). -/
namespace Sys2Proof.Machine

/-! ### Global state, clocks and reset -/

/-- GLB_STATUS.PHASE (Table RST-8). -/
inductive Phase where
  | reset | otp | clocks | links | memory | standby | holdoff | ramp | running | softReset | failed
  deriving DecidableEq, Repr

/-- The phases of a soft reset (R303); `off` when none runs. -/
inductive SoftPhase where
  | off | ramp | quiesce | clear
  deriving DecidableEq, Repr

/-- Why the host interface is cut off (R306); `on` when it is not. -/
inductive Iso where
  | on | perst | flr
  deriving DecidableEq, Repr

/-- What the OTP fuses hold (R2, R311, R35): read-only data of one part. -/
structure Otp where
  /-- GLB_ID.IOD_GEN, Table GLB-1: 2 on DZ640-S, 3 on DZ640-X. -/
  iodGen : Nat
  /-- GLB_ID.REV and IDCODE[31:28]. -/
  rev : Nat
  /-- GLB_SERIAL_HI and _LO. -/
  serial : Nat
  /-- The default of field-map entry 63, 32 bytes. -/
  fm63 : List Byte
  deriving DecidableEq, Repr

structure Glb where
  /-- The rails are up (R309). -/
  powered : Bool
  /-- A rail stayed outside its fault window (R459): held in hard reset until the rails are cycled. -/
  railFault : Bool
  /-- THERMTRIP_N is latched low (R302). -/
  thermtrip : Bool
  /-- Held in reset until the root PLL locks again (R297). -/
  pllHold : Bool
  /-- DEV_RST_N, PERST_N and SMB_RST_N are low. -/
  devRstLow : Bool
  perstLow : Bool
  smbRstLow : Bool
  /-- The levels on the strap pins, and the straps as last sampled (R310). -/
  pinSeed : Nat
  pinSmb : Nat
  strapSeed : Nat
  strapSmb : Nat
  /-- GLB_CTL.RUN, and a write of RUN = 1 that is held (R312, R431). -/
  run : Bool
  runHeld : Bool
  phase : Phase
  /-- HBM is trained and filled with zeros (R311). -/
  memDone : Bool
  /-- GLB_STATUS.FAIL (R313). -/
  fail : Nat
  /-- GLB_STATUS.DIE_OK, one bit per compute die. -/
  dieOk : Nat
  /-- HRW_STATUS.DIE_FATAL, one bit per compute die (R396), and the causes as declared. -/
  dieFatal : Nat
  /-- HRW_STATUS.DEVICE_FATAL (R399). -/
  deviceFatal : Bool
  soft : SoftPhase
  /-- The running soft reset is of the immediate form (R304), and when it was requested (R303). -/
  softImm : Bool
  softT0 : Nat
  iso : Iso
  isoT0 : Nat
  otp : Otp
  /-- HBM lanes whose repair was fused through the wrapper: (stack, lane), permanent (R438). -/
  hardLanes : List (Nat × Nat)
  deriving DecidableEq, Repr

/-- A compute die's mirror of DEV_TIME (R296): its time, the trim it has adopted with its running fraction, and the nanoseconds that it still
slews by. -/
structure Mirror where
  time : Nat
  trim : Int
  frac : Int
  slew : Int
  deriving DecidableEq, Repr

def Mirror.init : Mirror := { time := 0, trim := 0, frac := 0, slew := 0 }

/-- The clock family (R289 to R298) and DEV_TIME. -/
structure Clk where
  pllLock : Bool
  refOk : Bool
  /-- CLK_STATUS.DLL_LOCK, one bit per compute die. -/
  dllLock : Nat
  /-- DEV_TIME, 64 bits, and the latch its LO read fills (R295, R449). -/
  devTime : BitVec 64
  latchHi : Word
  /-- The latch of the counters' HI halves (R8). -/
  cntLatch : Word
  /-- CLK_N cycles since reset: elapsed nanoseconds, for intervals the manual measures. -/
  now : Nat
  /-- The trim of the PTP servo, in units of 2^−32 ns per ns, and its running fraction (R89). -/
  trim : Int
  frac : Int
  /-- Nanoseconds still to slew in, signed (R89). -/
  slew : Int
  /-- The mirror of DEV_TIME on each compute die (R296). -/
  mirror : List (Nat × Mirror)
  /-- CLK_T dividers, one code per plot: 0 ÷8, 1 ÷10, 2 ÷12, 3 ÷16 (Table RST-8). -/
  tdiv : List (Nat × Nat)
  /-- Divider changes requested and not yet at their frame boundary (R293): code + 1, 0 for none. -/
  tdivReq : List (Nat × Nat)
  deriving DecidableEq, Repr

/-! ### Host interface -/

/-- An event (Table HIF-10). -/
structure Event where
  code : Nat
  src : Nat
  time : Nat
  a0 : Nat
  a1 : Nat
  a2 : Nat
  deriving DecidableEq, Repr

/-- A posted write of the engine to the host, in the order issued (R338). -/
inductive HostWrite where
  | mem (addr : Nat) (data : List Byte)
  | msix (vec : Nat) (addr : Nat) (data : Nat)
  deriving DecidableEq, Repr

/-- A ring (Table HIF-2). Positions count the entries since the ring was enabled: INDEX = position mod size, WRAP = the parity of
position div size (R340). -/
structure Ring where
  en : Bool
  /-- Base and log2 size as read at enable (R447). -/
  base : Nat
  log2 : Nat
  prod : Nat
  cons : Nat
  /-- Stopped on an error until it is enabled again (HIF_RINGr_STATUS.ERR). -/
  stop : Bool
  /-- Entries written since the ring last triggered, and when the oldest was written (R354). -/
  pend : Nat
  oldest : Nat
  deriving DecidableEq, Repr

def Ring.init : Ring := { en := false, base := 0, log2 := 6, prod := 0, cons := 0, stop := false, pend := 0, oldest := 0 }

/-- Where a fetched descriptor stands. -/
inductive DescSt where
  | waiting
  | executing
  | done (status r0 r1 r2 time : Nat)
  deriving DecidableEq, Repr

/-- A descriptor the engine has copied (R348): its position in the SQ, its 64 bytes, and for a FENCE the tails of all
SQs as read in the poll that exposed it (R349). -/
structure Desc where
  pos : Nat
  bytes : List Byte
  st : DescSt
  tails : List Nat
  deriving DecidableEq, Repr

/-- A submission queue: its copied descriptors in order, and the polls that exposed descriptors not yet fetched (the tail
read, and the tails of all SQs in that poll). -/
structure Sq where
  descs : List Desc
  polls : List (Nat × List Nat)
  deriving DecidableEq, Repr

def Sq.init : Sq := { descs := [], polls := [] }

structure Hif where
  /-- HIF_CTL.EN and the page bases as read at enable (R447). -/
  en : Bool
  dbBase : Nat
  shBase : Nat
  /-- A doorbell poll is in flight; the current interval in ns, and when the next poll is due, in CLK_N cycles (R345). -/
  polling : Bool
  interval : Nat
  pollDue : Nat
  /-- The SQ that the fetch of descriptors serves next, if it can (R348). -/
  turn : Nat
  rings : List (Nat × Ring)
  sqs : List (Nat × Sq)
  /-- The shadow page has a change to write, and when its hold-off is over; GEN of the next write; triggers waiting for it (R346, R354). -/
  shDirty : Bool
  shDue : Nat
  shGen : Nat
  trig : List Nat
  /-- MSI-X pending-bit array. -/
  pba : Nat
  /-- Events waiting, oldest first (R306, R355), and how many were dropped since the last RST_BACKLOG_OVF. -/
  backlog : List Event
  dropped : Nat
  /-- The last punt succeeded, so the next drop raises HIF_XQ_DROP (R356). -/
  xqOk : Bool
  /-- When the last telemetry period ended, in CLK_N cycles, and counts carried since (Table HIF-12): messages ended, LATE, RETRACT,
  punts delivered, punts dropped, shed, ballast mJ. -/
  teleT0 : Nat
  tele : List Nat
  /-- Addresses of the free buffers taken from the BQ and not yet used, oldest first (R356). -/
  bufs : List Nat
  /-- Posted writes, oldest first (R338). -/
  posted : List HostWrite
  deriving DecidableEq, Repr

/-! ### Streams, messages and replies -/

inductive StrState where
  | closed | opened | fenced | draining
  deriving DecidableEq, Repr

/-- An echo-buffer entry (R244): the reply's bytes, its sequence number, its port and its end, in CLK_N cycles. -/
structure Echo where
  bytes : List Byte
  seq : Nat
  port : Nat
  time : Nat
  deriving DecidableEq, Repr

/-- A STREAM_RESET that waits for a begun reply to end (R127). -/
structure ResetReq where
  sq : Nat
  pos : Nat
  keepKv : Bool
  seqStart : Nat
  deriving DecidableEq, Repr

/-- A stream context (Table STR-1) with what the engine remembers beside it. -/
structure Stream where
  st : StrState
  cls : Nat
  slot : Nat
  home : Nat
  policy : Nat
  nextIn : Nat
  nextOut : Nat
  kvLen : Nat
  kvCap : Nat
  kvHead : Nat
  pcap : Nat
  kvBase : Nat
  newPos : Nat
  lastStatus : Nat
  lastSeq : Nat
  /-- KV geometry bound at STREAM_OPEN (R120, R374): L, H, E, FMT, KV_SIG. -/
  kvL : Nat
  kvH : Nat
  kvE : Nat
  kvFmt : Nat
  kvSig : Nat
  /-- First STR_BIND_MISMATCH and SOW_SAF_UNBOUND since open or reset already raised (R115, R137). -/
  mismatchSeen : Bool
  unboundSeen : Bool
  /-- A refusal since the last admission already raised STR_OVERRUN (R119). -/
  overrunSeen : Bool
  /-- The STREAM_CLOSE waiting for the stream to drain: SQ and position. -/
  closeWait : Option (Nat × Nat)
  resetWait : Option ResetReq
  echo : Option Echo
  /-- Ingress and station address of the last admitted request (R77). -/
  lastReq : Option (Nat × Nat)
  deriving DecidableEq, Repr

def Stream.init : Stream :=
  { st := .closed, cls := 0, slot := 0, home := 0, policy := 0, nextIn := 0, nextOut := 0, kvLen := 0, kvCap := 0,
    kvHead := 0, pcap := 0, kvBase := 0, newPos := 0, lastStatus := 0, lastSeq := 0, kvL := 0, kvH := 0, kvE := 0,
    kvFmt := 0, kvSig := 0, mismatchSeen := false, unboundSeen := false, overrunSeen := false, closeWait := none,
    resetWait := none, echo := none, lastReq := none }

/-- A built reply and how far it has gone (R229, R238). -/
structure Reply where
  /-- The whole frame, FCS included. -/
  bytes : List Byte
  /-- Destination: 0–7 trunk port, 8–15 backbone interface, 16 the host (DEST 31 of an INJECT). -/
  dest : Nat
  /-- An error reply with no outputs (R230): never gated. -/
  isError : Bool
  /-- Travels as DATA codewords (a reply to INJECT on a trunk, R233). -/
  asData : Bool
  /-- Order of build completion (Table RPL-4 rank 4). -/
  buildNo : Nat
  /-- Codewords sent, and the lane held. -/
  sent : Nat
  lane : Option Nat
  /-- On a backbone interface: the preamble has begun, it was committed, it was stomped (R85 to R87). -/
  begun : Bool
  committed : Bool
  stomped : Bool
  /-- When it began to wait for a lane (R236), plus 1; 0 while it does not wait. -/
  readyAt : Nat
  deriving DecidableEq, Repr

/-- Where an admitted message stands in the Sower. -/
inductive MsgLoc where
  /-- Waiting to gather at its pass (R130, R131). -/
  | gather
  /-- A member of sheaf `sid`. -/
  | sheaf (sid : Nat)
  /-- Detached until its predecessor has ended (R134). -/
  | detached
  /-- Its last pass is complete; outputs have gone to the reply builder. -/
  | output
  /-- Runs nothing more: held, failed, or its stream's slot had no bank. -/
  | idle
  deriving DecidableEq, Repr

/-- A message in flight: admitted and not yet ended. -/
structure Msg where
  mid : Nat
  stream : Nat
  seq : Nat
  slot : Nat
  /-- The bank it is bound to (R372): 0 A, 1 B, 2 none. -/
  bank : Nat
  cls : Nat
  tmpl : Nat
  xmap : Nat
  fid : Nat
  ingress : Nat
  /-- The INJECT descriptor it came from: SQ, position. -/
  origin : Option (Nat × Nat)
  /-- The error status attached, and the CLK_N cycle in which it was (R392). -/
  status : Option Nat
  statusAt : Nat
  /-- A soft reset or STREAM_RESET ends it: it sends nothing whatever the policy. -/
  silent : Bool
  /-- Its end fences nothing (R392: ended by a host action). -/
  noFence : Bool
  /-- Held by a fence (R126). -/
  held : Bool
  /-- The request's FCS verdict as the gate sees it (R241). -/
  verdict : Option Bool
  gateT0 : Nat
  loc : MsgLoc
  /-- Index of its next pass in the pass table. -/
  pass : Nat
  /-- The segments of its extraction map (R98), and the model's input that they take from the request (R107). -/
  segs : List (Nat × Nat × Nat)
  input : List Byte
  outputs : Option (List Byte)
  /-- Staged KV rows not yet acknowledged, row n of layer l and tensor t as (2l + t) × NEW_POS + n (R260); and whether rows are staged. -/
  rowsOut : List Nat
  staged : Bool
  late : Bool
  /-- The reply's build began (R15), at this DEV_TIME. -/
  reply : Option Reply
  deriving DecidableEq, Repr

/-! ### Frames -/

/-- A classification result (Table PLG-8). -/
structure Result where
  raw : List Byte
  action : Nat
  cls : Nat
  stream : Nat
  slot : Nat
  tmpl : Nat
  egress : Nat
  lead : Nat
  leadBase : Bool
  xmap : Nat
  /-- The segments of that extraction map, and whether it was marked bad, as they stood at the lookup (R98, R107, Table HRW-4). -/
  segs : List (Nat × Nat × Nat)
  mapBad : Bool
  deriving DecidableEq, Repr

/-- What a walk saw of a fragment (R99, R101): its set's key (ingress, source, destination, protocol, identification), its
byte offset in the datagram, more-fragments, and where its payload lies in the frame. -/
structure FragInfo where
  key : List Nat
  off : Nat
  more : Bool
  dataOff : Nat
  dataLen : Nat
  deriving DecidableEq, Repr

/-- The tables and settings a walk uses from its start to its end (R98). -/
structure WalkCfg where
  tables : List (Nat × List Byte)
  bad : List Nat
  graph : Bool
  start : Nat
  fixProfile : Nat
  fixPayload : Nat
  maxDepth : Nat
  maxBytes : Nat
  /-- Node visits begun: their words have been read (R96). -/
  visits : Nat
  deriving DecidableEq, Repr

/-- Where a frame stands in the Plough: queued for an engine, being walked, found to be a later fragment, held in the 64 KiB buffer for its
entry, following the entry that it found, decided (R96, R102). -/
inductive Walk where
  | queued | walking | later | holding | following | decided
  deriving DecidableEq, Repr

/-- A frame in reception, or kept while the engine still needs it. Bytes that a failed codeword hides are `none`. -/
structure Frame where
  /-- Frames are numbered in arrival order. -/
  fid : Nat
  /-- Ingress id (R91) and the sending station's address, 0x3F off a trunk. -/
  ingress : Nat
  station : Nat
  /-- The bytes decoded so far, FCS included; and after a first fragment's entry is written, the datagram as far as its fragments have
  passed their FCS, behind that fragment's headers (R103). -/
  bytes : List (Option Byte)
  dgram : List (Option Byte)
  /-- No further byte will arrive. -/
  ended : Bool
  verdict : Option Bool
  giant : Bool
  walk : Walk
  engine : Nat
  cfg : Option WalkCfg
  fields : List Byte
  endNode : Nat
  htype : Nat
  payload : Nat
  /-- L_REQ in full, where IPLEN_VALID (R99). -/
  lreq : Nat
  ipValid : Bool
  frag : Option FragInfo
  /-- A first fragment whose entry stands: its later fragments complete it (R101). -/
  gleaned : Bool
  result : Option Result
  /-- Admission is still to come (R11). -/
  wantAdmit : Bool
  /-- A punt decided: its reason; and whether it has taken its token (R109). -/
  punt : Option Nat
  paid : Bool
  /-- The length at which it was declared a giant. -/
  giantLen : Nat
  /-- The egress to forward a copy to when the verdict is good. -/
  fwd : Option Nat
  /-- The message it became. -/
  mid : Option Nat
  /-- The INJECT descriptor it came from: SQ, position. -/
  origin : Option (Nat × Nat)
  /-- Receive timestamp of a backbone frame (R88) and the priority it arrived with. -/
  stamp : Nat
  hasStamp : Bool
  pri : Nat
  /-- When its last byte came, or the last header symbol of its original burst (R241). -/
  tEnd : Option Nat
  deriving DecidableEq, Repr

/-- A gleaning-table entry (R101): key, stored result (none for a miss), the first fragment's frame, byte ranges received
(start, end), and the datagram's length once its last fragment has come. -/
structure Glean where
  key : List Nat
  result : Option Result
  first : Nat
  ingress : Nat
  ranges : List (Nat × Nat)
  total : Option Nat
  deriving DecidableEq, Repr

/-- What a frame in an egress queue is. -/
inductive EgrKind where
  | bridged
  /-- A PUNT_RETURN of an SQ and position, with its PTP mode, the PTP and UDP offsets, and when it was taken (R88, R353). -/
  | puntReturn (sq pos ptp ptpOff udpOff took : Nat)
  /-- The reply of a message from INJECT that goes to a trunk (R233). -/
  | injectReply (mid : Nat)
  deriving DecidableEq, Repr

/-- A frame waiting for or leaving an egress as ordinary traffic: its bytes with FCS, priority, codewords sent and lane. -/
structure EgrFrame where
  kind : EgrKind
  bytes : List Byte
  pri : Nat
  sent : Nat
  lane : Option Nat
  order : Nat
  deriving DecidableEq, Repr

/-- The Plough beside its frames. -/
structure Plg where
  gleans : List Glean
  /-- Thousandths of a token in each punt reason's bucket, plus 1; 0 for a bucket that is full since the Plough was enabled (R109). -/
  tokens : List (Nat × Nat)
  /-- Reasons of which a punt has succeeded since the last drop: their next drop raises PLG_PUNT_DROPPING (R109). -/
  passed : List Nat
  deriving DecidableEq, Repr

/-! ### Test and two-wire state kept by shared operations -/

/-- A compute die's trace buffer (R439 to R441): 32-byte records by index, and its status. -/
structure Trace where
  recs : List (Nat × List Byte)
  wptr : Nat
  wrapped : Bool
  triggered : Bool
  stopped : Bool
  /-- Records still to write after the trigger. -/
  post : Nat
  deriving DecidableEq, Repr

def Trace.init : Trace := { recs := [], wptr := 0, wrapped := false, triggered := false, stopped := false, post := 0 }

/-- Alert bits of the two-wire port, bit = priority − 1 (R426). -/
structure Alert where
  latched : Nat
  pending : Nat
  deriving DecidableEq, Repr



/-! ### Model slots (R366, R367) -/

/-- Bank states (Table HIF-17). -/
inductive BankSt where
  | empty | loading | ready | active
  deriving DecidableEq, Repr

/-- A bank of a model slot: its state and the header fields the engine uses (Table HIF-16). -/
structure Bank where
  st : BankSt
  poison : Bool
  pin : Bool
  /-- READY and waiting for BOUND to reach 0 (R373). -/
  retiring : Bool
  check : Nat
  total : Nat
  urgent : Bool
  kv : Bool
  ngroup : Nat
  npass : Nat
  leadNs : Nat
  kvL : Nat
  kvH : Nat
  kvE : Nat
  kvFmt : Nat
  newPos : Nat
  kvSig : Nat
  passOff : Nat
  groupOff : Nat
  /-- Logical groups by group index in the bundle. -/
  groups : List Nat
  deriving DecidableEq, Repr

def Bank.init : Bank :=
  { st := .empty, poison := false, pin := false, retiring := false, check := 0, total := 0, urgent := false, kv := false,
    ngroup := 0, npass := 0, leadNs := 0, kvL := 0, kvH := 0, kvE := 0, kvFmt := 0, newPos := 0, kvSig := 0, passOff := 0,
    groupOff := 0, groups := [] }

/-- A slot-table entry (R367). -/
structure Slot where
  a : Bank
  b : Bank
  /-- A running commit check: the INSTALL_COMMIT's SQ and position. -/
  verifying : Option (Nat × Nat)
  loaded : Nat
  commitTime : Nat
  deriving DecidableEq, Repr

def Slot.init : Slot := { a := Bank.init, b := Bank.init, verifying := none, loaded := 0, commitTime := 0 }

/-! ### Sower (R129 to R144) -/

/-- A sheaf: its key (slot, bank, class), the pass it stands at, members in order, forming or closed. -/
structure Sheaf where
  sid : Nat
  slot : Nat
  bank : Nat
  cls : Nat
  pass : Nat
  members : List Nat
  forming : Bool
  /-- The gather window in ns as taken when it opened, and the opening time. -/
  window : Nat
  t0 : Nat
  /-- When it closed, in CLK_N cycles (R135). -/
  closeAt : Nat
  /-- Energy reserved for its next pass, in nJ, when granted (R139); and how much of it came from the Saffron reserve (R140). -/
  granted : Option Nat
  resTaken : Nat
  /-- The die whose agent granted it. -/
  die : Nat
  /-- Credit wait, uninterrupted, began at (R141). -/
  waitT0 : Option Nat
  /-- The gate of its next pass: it waits on the object, it has opened (R386). -/
  gateWait : Bool
  gateOpen : Bool
  deriving DecidableEq, Repr

/-- A running pass of a plot group (R136): its sheaf, pass index, members by index, start time. -/
structure Run where
  sid : Nat
  pass : Nat
  members : List Nat
  t0 : Nat
  energy : Nat
  resTaken : Nat
  /-- Its latency bound in ns. -/
  bound : Nat
  /-- Time, in ns, for which a die link that the group's gateways use was paused since then (R150). -/
  paused : Nat
  deriving DecidableEq, Repr

/-- A rotation in progress (R144): target plots; the seed is loaded; when the load completed. -/
structure Rot where
  target : List Nat
  loaded : Bool
  t0 : Nat
  deriving DecidableEq, Repr

/-- A pass transition in progress (R160): the new generation, CFG_ID and sheaf size; and whether the group's rotation turns with it, its
load having completed before the headland (R144). -/
structure Trans where
  gen : Nat
  cfg : Nat
  size : Nat
  turns : Bool
  deriving DecidableEq, Repr

/-- A logical plot group and its placement. -/
structure Group where
  gid : Nat
  slot : Nat
  bank : Nat
  /-- Its index in the bundle's group table. -/
  idx : Nat
  /-- The plots it holds, in shape order; none while unplaced (R394). -/
  plots : List Nat
  gen : Nat
  cfg : Nat
  size : Nat
  run : Option Run
  trans : Option Trans
  /-- Orphans discarded since the last completed headland: number, first unit, first tag (R168). -/
  orphans : Nat
  firstUnit : Nat
  firstTag : Nat
  /-- Member tables by generation: index in the list is MEMBER (R151). -/
  tables : List (Nat × List Nat)
  rot : Option Rot
  /-- When the placement began to stand (R142). -/
  dwell : Nat
  /-- Plots whose resident fill is still to complete (R262, R375). -/
  unfilled : List Nat
  /-- The seed of the group's first pending pass loads into the active banks (step 4 of R169), until the next pass is announced. -/
  reload : Bool
  /-- Die-edge channels that the group's seeds use, of those loaded so far, as 64 × tile + direction (R143, R149); a seed has loaded. -/
  chans : List Nat
  known : Bool
  deriving DecidableEq, Repr

/-! ### Plots, tiles and steering units -/

inductive PlotSt where
  | free | active | retired
  deriving DecidableEq, Repr

/-- What a streamer counted of a watched tensor in a pass (R224): lanes, lanes clipped, largest magnitude. -/
structure WatchSum where
  lanes : Nat
  clipped : Nat
  largest : Nat
  deriving DecidableEq, Repr

structure Plot where
  st : PlotSt
  group : Option Nat
  /-- Plot buffer, 1 MiB (Table GLB-5), and its words with an uncorrectable error. -/
  buf : List (Nat × Byte)
  bufBad : List Nat
  /-- Uncorrectable errors in the last second, by DEV_TIME (R393). -/
  errs : List Nat
  /-- Sensor, 1 ms average, in 0.25 °C, and the level of Table YOK-3 that caps the divider: 0 none, 1 at 95 °C, 2 at 100 °C (R326). -/
  sensor : Nat
  /-- The Sower's average of that sensor over 1 ms, in 0.25 °C (R142). -/
  avg : Nat
  /-- When a unit of the plot began to wait for its shadow behind a forwarded headland, in CLK_N cycles (R163). -/
  waitT0 : Option Nat
  cap : Nat
  overtemp : Bool
  /-- The ballast duty that the agent set for the epoch, in 1/256 (R322). -/
  duty : Nat
  /-- LDO: voltage in mV, the target of a faster point is reached; the divider code the CPMs limit the plot to; the divider code
wanted (R323 to R325). -/
  mv : Nat
  ldoOk : Bool
  cpmSlow : Nat
  want : Nat
  /-- The streamer's summaries by 16 × GEN + local watch index (R224). -/
  sums : List (Nat × WatchSum)
  deriving DecidableEq, Repr

def Plot.init : Plot :=
  { st := .free, group := none, buf := [], bufBad := [], errs := [], sensor := 0, avg := 0, waitT0 := none, cap := 0, overtemp := false, duty := 0, mv := 850, ldoOk := true,
    cpmSlow := 0, want := 0, sums := [] }

/-- A fabric token: network 0 scalar, 1 vector, 2 control; tag (Table PLT-4); payload; DATA or HEADLAND. -/
structure Token where
  net : Nat
  tag : Nat
  data : BitVec 512
  headland : Bool
  deriving DecidableEq, Repr

/-- A matching-store entry: the token, its port (0 N, 1 E, 2 S, 3 W, 4 X, 5 FEED), its mode and use count (R177), its arrival number. -/
structure MsEntry where
  tok : Token
  port : Nat
  shared : Bool
  uses : Nat
  seqNo : Nat
  deriving DecidableEq, Repr

/-- A tile's configuration bank: 1,024 instructions and 80 words of block headers by word index, TILE_MODE, CFG_ID, and what the seed
gives the drain channel of the tile: a local watch index plus 1, or 0 for none (R223). -/
structure TileBank where
  words : List (Nat × Word)
  mode : Nat
  cfg : Nat
  watch : Nat
  deriving DecidableEq, Repr

def TileBank.init : TileBank := { words := [], mode := 0, cfg := 0, watch := 0 }

/-- What a tile is doing (Table TIL-12). -/
inductive TileRun where
  | idle | running | waitRecv | waitSend | waitSync | waitEvent | fault
  deriving DecidableEq, Repr

structure Tile where
  run : TileRun
  /-- The running block, or the last one; PC; the cause of the last fault, 0 for none. -/
  blk : Nat
  pc : Nat
  cause : Nat
  /-- s0–s31, v0–v7, a0–a3 (64 lanes of 48 bits), p0–p3 (64 lanes). -/
  s : List (Nat × Word)
  v : List (Nat × BitVec 512)
  a : List (Nat × BitVec 3072)
  p : List (Nat × BitVec 64)
  /-- TILE_FLAGS [5:0] and TILE_MODE (Table TIL-3), CT, OT and ZPA (Table TIL-2). -/
  flags : Nat
  mode : Nat
  ct : Nat
  ot : Nat
  zpa : Nat
  /-- GEN, CFG_ID and sheaf size S of the active configuration. -/
  gen : Nat
  cfg : Nat
  size : Nat
  /-- The active bank holds a seed: it was loaded since the unit was last emptied (R158). -/
  seeded : Bool
  /-- Matching store (R152), arrivals so far, and whether it is full with no block fireable (R155). -/
  ms : List MsEntry
  arrivals : Nat
  msStall : Bool
  /-- The input served next in round-robin order, 6 × network + port (R152). -/
  rr : Nat
  /-- The pending event that has not been accepted: its three arguments (R197). -/
  event : Option (Nat × Nat × Nat)
  active : TileBank
  shadow : TileBank
  shadowReady : Bool
  /-- Tile store, 128 KiB, and its words with an uncorrectable error. -/
  ts : List (Nat × Byte)
  tsBad : List Nat
  deriving DecidableEq, Repr

def Tile.init : Tile :=
  { run := .idle, blk := 0, pc := 0, cause := 0, s := [], v := [], a := [], p := [], flags := 0, mode := 0, ct := 0, ot := 0,
    zpa := 0, gen := 0, cfg := 0, size := 1, seeded := false, ms := [], arrivals := 0, msStall := false, rr := 0, event := none,
    active := TileBank.init,
    shadow := TileBank.init, shadowReady := false, ts := [], tsBad := [] }

/-- The switch of a tile: its three words (Table PLT-2), active and shadow, and its generation. -/
structure Switch where
  active : List Nat
  shadow : List Nat
  shadowReady : Bool
  cfg : Nat
  shadowCfg : Nat
  gen : Nat
  size : Nat
  seeded : Bool
  deriving DecidableEq, Repr

def Switch.init : Switch :=
  { active := [0, 0, 0], shadow := [0, 0, 0], shadowReady := false, cfg := 0, shadowCfg := 0, gen := 0, size := 1, seeded := false }

/-- A steering unit: its word (Table PLT-5), generation and sheaf size, its pairing store (the tokens taken at A, B and C in arrival order),
and the tokens that it has still to put on its outputs, 0 A and 1 B. -/
structure Su where
  active : Nat
  shadow : Nat
  shadowReady : Bool
  cfg : Nat
  shadowCfg : Nat
  gen : Nat
  size : Nat
  seeded : Bool
  inA : List Token
  inB : List Token
  inC : List Token
  out : List (Nat × Token)
  deriving DecidableEq, Repr

def Su.init : Su :=
  { active := 0, shadow := 0, shadowReady := false, cfg := 0, shadowCfg := 0, gen := 0, size := 1, seeded := false, inA := [], inB := [],
    inC := [], out := [] }

/-- A token at a switch, and the destinations that have taken their copy: outputs 0 N to 4 X, 5 the tile (R147). -/
structure Queued where
  tok : Token
  took : List Nat
  deriving DecidableEq, Repr

/-- A summary on its way to the watch table (R224): the entry, the bank and the die that it comes from. -/
structure Summary where
  entry : Nat
  bank : Nat
  die : Nat
  sum : WatchSum
  deriving DecidableEq, Repr

structure Fab where
  /-- Input FIFOs of the switches (R146) by 64 × tile + 16 × network + input: 0 N to 4 X; 8 + d, the clock-crossing queue of the tile toward
output d. -/
  fifos : List (Nat × List Queued)
  /-- FEED channels by 4 × tile + network (R148). -/
  feeds : List (Nat × List Token)
  /-- Headlands seen: (unit, input) codes, and units that have finished old work in the running transition. A unit is a
  tile 0–1,023, SUk of plot p as 1,024 + 8p + k, or the switch of tile t as 2,048 + t. -/
  seen : List (Nat × Nat)
  finished : List Nat
  /-- Tokens handed to the streamers' drains, oldest first: the sending tile and its token (R148). -/
  drain : List (Nat × Token)
  /-- Watch summaries on their way to the table, in the order in which they arrive. -/
  summaries : List Summary
  deriving DecidableEq, Repr

def Fab.init : Fab := { fifos := [], feeds := [], seen := [], finished := [], drain := [], summaries := [] }

/-- A waiter of a sync object (R383, R384): the requester id of Table SYN-1, the object, WAIT_EQ or WAIT_GE, its operand, and
the descriptor's position (ring engine) or the sheaf (Sower). -/
structure Waiter where
  req : Nat
  obj : Nat
  eq : Bool
  v : Nat
  key : Nat
  /-- When it began to wait, in CLK_N cycles. -/
  t0 : Nat
  deriving DecidableEq, Repr


/-! ### Yoke (R314 to R335) -/

/-- A grant of the head to a die (R318): work credit and reserve in nJ, draw level in mW. -/
structure Grant where
  credit : Nat
  reserve : Nat
  level : Nat
  deriving DecidableEq, Repr

/-- A compute die's Yoke agent. Energy in nJ, power in mW. -/
structure YokeDie where
  /-- Demand reported in the previous epoch, and the demand of this one summed over its CLK_N cycles, in mW · ns. -/
  demand : Nat
  acc : Nat
  /-- Credit and reserve left in this epoch, and the level its ballast fills to. -/
  credit : Nat
  reserve : Nat
  level : Nat
  /-- The last grant, a grant on its way, and epochs passed without one (R320). -/
  last : Grant
  sent : Option Grant
  silent : Nat
  safe : Bool
  /-- The silent epochs to report when the head next hears from the die. -/
  report : Option Nat
  /-- Milliseconds the estimate has differed from IMON, or agreed, and whether IMON steers (R328). -/
  divMs : Nat
  okMs : Nat
  diverged : Bool
  deriving DecidableEq, Repr

def YokeDie.init : YokeDie :=
  { demand := 0, acc := 0, credit := 0, reserve := 0, level := 0, last := { credit := 0, reserve := 0, level := 0 }, sent := none,
    silent := 0, safe := false, report := none, divMs := 0, okMs := 0, diverged := false }

structure Yoke where
  /-- P_std and L in mW (R314). -/
  pstd : Nat
  level : Nat
  /-- Changes that wait for the next epoch: ceilings by source (0 host, 1 board, 2 site) and YOKE_SET descriptors (R329, R330). -/
  ceils : List (Nat × Nat)
  sets : List (Nat × Nat)
  /-- Drains (1) and resumes (0, 2 with NOW) of the two-wire port that wait for the next epoch, in order (R421). -/
  board : List Nat
  /-- CLK_N cycles of this epoch that `acc` of the agents covers (R316). -/
  span : Nat
  /-- Copies on the I/O die, refreshed every epoch (R413): each compute die's hottest plot sensor, and the word of THERMAL_STATE. -/
  hot : List Nat
  caps : Nat
  /-- Accepted schedule frames not yet in effect, by their time: START, DRAIN, CEILING with its value (R332). -/
  startAt : Option Nat
  drainAt : Option Nat
  ceilAt : Option (Nat × Nat)
  /-- The hold-off: when it began, whether it waits for a START frame, and whether one runs for a resume (R331, R333, R335). -/
  holdT0 : Nat
  holdSched : Bool
  holding : Bool
  /-- A drain recorded in OFF or SOFT_DOWN, and a soft reset of a drained engine (R334, R335). -/
  drainReq : Bool
  /-- Last ADC codes of IMON0–IMON5, epochs out of the band, and when YOK_BAND was last raised (R317). -/
  imon : List Nat
  bandOut : Nat
  bandT0 : Option Nat
  /-- Energy not yet counted in YOK_WORK_MJ and YOK_BALLAST_MJ, in nJ. -/
  workNj : Nat
  ballNj : Nat
  dies : List (Nat × YokeDie)
  deriving DecidableEq, Repr


/-! ### Memory system (R245 to R265) -/

/-- States of a line in a remote cache (R255); a line not listed is I. -/
inductive Mesi where
  | shared | exclusive | modified
  deriving DecidableEq, Repr

/-- A line of a remote line cache: its state, its data (used where it is M), when it was last used, and the halves that came to it poisoned and
that nothing has written since, one bit each. -/
structure CacheLine where
  st : Mesi
  data : List Byte
  used : Nat
  bad : Nat
  deriving DecidableEq, Repr

/-- A 64-byte line as it was delivered to a requester of a compute die, poisoned halves as zeros (R252). -/
structure Delivered where
  dpa : Nat
  purpose : Nat
  owner : Nat
  data : List Byte
  deriving DecidableEq, Repr

def Delivered.init : Delivered := { dpa := 0, purpose := 0, owner := 0, data := [] }

/-- A directory entry: one bit per compute die that holds the line, whether one holds it E or M, when it was last used. -/
structure DirEntry where
  held : Nat
  owned : Bool
  used : Nat
  deriving DecidableEq, Repr

structure Mem where
  /-- HBM by DPA, each byte as its exclusive or with what an unlisted byte of its stack reads as: 0 after zero-fill (R311). -/
  hbm : List (Nat × Byte)
  /-- Poisoned halves, by DPA / 32 (R251). -/
  poison : List (Nat × Bool)
  /-- Remote line caches by 2^33 × die + line number, and the directories by line number (R255). -/
  rlc : List (Nat × CacheLine)
  dir : List (Nat × DirEntry)
  /-- Fills in flight of a remote cache: (die, line), and whether an invalidation met the fill (R257). -/
  fills : List (Nat × Nat × Bool)
  useCtr : Nat
  /-- The line last delivered to each compute die's engine requesters. -/
  lines : List (Nat × Delivered)
  /-- Corrected halves per stack in the running second of DEV_TIME, that second, and whether MEM_CORR_STORM was raised in it. -/
  corrN : List (Nat × Nat)
  corrSec : List (Nat × Nat)
  storm : List (Nat × Nat)
  /-- Halves read by the scrub in its present walk of each stack. -/
  scrubPos : List (Nat × Nat)
  /-- Built-in self-tests of each stack since the last fill, which leave its contents undefined, and the lanes repaired until the next
  hard reset (stack, lane), R438. -/
  bist : List (Nat × Nat)
  softLanes : List (Nat × Nat)
  deriving DecidableEq, Repr

/-- What a host read of BAR0 or BAR2 returned: bytes, and whether the completion was poisoned. -/
structure Answer where
  data : List Byte
  poisoned : Bool
  deriving DecidableEq, Repr

/-! ### Trunk ports (R18 to R78) -/

/-- A schedule entry (Table TRK-14): 0 granted, 1 contention, 2 repair reserve; owner's address and station-table index. -/
structure SchedEnt where
  kind : Nat
  addr : Nat
  idx : Nat
  start : Nat
  len : Nat
  deriving DecidableEq, Repr

/-- A repair window that a REPAIR codeword placed (R71): its cycle and units, and the frame it repairs. -/
structure Window where
  cyc : Nat
  start : Nat
  len : Nat
  fid : Nat
  deriving DecidableEq, Repr

/-- A burst header that was received (Table TRK-4). -/
structure BurstHdr where
  /-- Its CRC is good; it passed every check of R25. -/
  crcOk : Bool
  ok : Bool
  addr : Nat
  burstId : Nat
  len : Nat
  rrq : Bool
  signon : Bool
  resend : Bool
  deriving DecidableEq, Repr

/-- The receiver in a slot: what it was seeded with and what it has received. -/
structure Rx where
  /-- 0 granted slot, 1 contention slot, 2 repair window. -/
  kind : Nat
  /-- Station-table index of the owner; 32 in a contention slot. -/
  idx : Nat
  addr : Nat
  cyc : Nat
  start : Nat
  /-- Field-map entry, its settings as loaded, and the doubled loop steps of an old one (R33). -/
  seed : Nat
  settings : List Byte
  double : Bool
  /-- A slot of an isolated cycle, in which the receiver ignores all energy (R67). -/
  deaf : Bool
  /-- Impulse detector (R36, R37). -/
  hit : Bool
  frozen : Bool
  /-- The descrambler, once payload has begun. -/
  lfsr : Nat
  /-- Data bytes of each codeword received, and whether it decoded. -/
  lens : List Nat
  oks : List Bool
  /-- The record of a contention burst; in a repair window, the bytes that the frame under repair held before it. -/
  record : List (Option Byte)
  /-- The frame in reception, or the frame under repair. -/
  fid : Option Nat
  hdr : Option BurstHdr
  deriving DecidableEq, Repr

/-- A frame under repair (R70 to R73): station, burst id, the data bytes of its codewords, those missing, the round, those named in
it, and the end of the original burst's header (cycle, symbol). -/
structure Repair where
  fid : Nat
  idx : Nat
  addr : Nat
  burstId : Nat
  lens : List Nat
  missing : List Nat
  round : Nat
  named : List Nat
  endCyc : Nat
  endSym : Nat
  deriving DecidableEq, Repr

/-- A sign-on record that qualified under R57, and what was measured with it. -/
structure Signon where
  record : List Byte
  adv : Nat
  nonce : Nat
  /-- Its provisional field-map entry, 63 for none (R59). -/
  prov : Nat
  deriving DecidableEq, Repr

/-- What the engine keeps of a station-table entry beside the words the host writes (Table TRK-17). -/
structure Station where
  /-- 0 ABSENT, 1 PENDING, 2 ADMITTED. -/
  st : Nat
  preadmit : Bool
  adv : Nat
  miss : Nat
  uid : Nat
  /-- CAP of the last accepted sign-on. -/
  cap : Nat
  /-- The sign-on that is held for the host. -/
  held : Option Signon
  deriving DecidableEq, Repr

def Station.init : Station := { st := 0, preadmit := false, adv := 0, miss := 0, uid := 0, cap := 0, held := none }

/-- A pending CONTROL codeword: rank of its kind (0 COLLIDE, 1 REPAIR, 3 HOLD) and its payload from SUB on. -/
structure Ctl where
  rank : Nat
  payload : List Byte
  deriving DecidableEq, Repr

/-- An echo copy on its way (R78). -/
structure EchoCopy where
  bytes : List Byte
  sent : Nat
  lane : Option Nat
  deriving DecidableEq, Repr

structure Port where
  /-- Cycles run; a wind-down runs; a re-enable waits for its end (R68). -/
  running : Bool
  winding : Bool
  reEn : Bool
  cyc : Nat
  /-- The schedule of this cycle and of the next, and the nonces of the BEACONs that published them. -/
  sched : List SchedEnt
  next : List SchedEnt
  nonce : Nat
  nextNonce : Nat
  /-- Interleave depth code that applies to bursts of this cycle and of the next. -/
  ilv : Nat
  nextIlv : Nat
  /-- Isolation: in force, wanted from the next BEACON, and the descriptors that wait for it and for its release (R67). -/
  iso : Bool
  isoWant : Bool
  isoWait : List (Nat × Nat)
  relWait : List (Nat × Nat)
  /-- The receiver, and the seed loaded for the next slot while a burst is still in reception. -/
  rx : Option Rx
  rxNext : Option Rx
  repairs : List Repair
  windows : List Window
  signon : Option Signon
  stations : List (Nat × Station)
  /-- The last stranger's address and how many in a row carried it (R65). -/
  strAddr : Nat
  strRun : Nat
  /-- CONTROL codewords sent, those pending, and pending ACK entries (R53). -/
  ctlSeq : Nat
  ctls : List Ctl
  acks : List (List Byte)
  /-- The BEACON payload that waits for the first slot of the cycle. -/
  beacon : Option (List Byte)
  /-- Codeword slots of this cycle already chosen, the BP scrambler, the codeword last chosen, as sent, and the symbols that the BP carries:
  those of that codeword, or of the cycle sync. -/
  bpSlot : Nat
  lfsr : Nat
  chosen : List Byte
  line : List Int
  echoes : List EchoCopy
  /-- Jammed cycles in a row, and TRK_STATUS.JAMMED (R66). -/
  jamRun : Nat
  jammed : Bool
  deriving DecidableEq, Repr

def Port.init : Port :=
  { running := false, winding := false, reEn := false, cyc := 0, sched := [], next := [], nonce := 0, nextNonce := 0, ilv := 0, nextIlv := 0,
    iso := false, isoWant := false, isoWait := [], relWait := [], rx := none, rxNext := none, repairs := [], windows := [], signon := none,
    stations := [], strAddr := 0, strRun := 0, ctlSeq := 0, ctls := [], acks := [], beacon := none, bpSlot := 0, lfsr := 0x7FFFFF,
    chosen := [], line := [], echoes := [], jamRun := 0, jammed := false }

/-! ### Backbone ports (R79 to R90) -/

/-- A frame on the wire of a backbone interface: a reply of message `mid`, or an ordinary frame of the egress queue by its order. -/
structure BbTx where
  mid : Option Nat
  order : Nat
  /-- An aligned reply (R85), and its CRC: 0 not yet decided, 1 correct, 2 stomped, 3 stomped before the verdict (R87). -/
  aligned : Bool
  crc : Nat
  bytes : List Byte
  /-- DEV_TIME at its message timestamp point (R88). -/
  stamp : Nat
  deriving DecidableEq, Repr

/-- A backbone interface, numbered port × 4 + lane. -/
structure Bb where
  /-- The frame in reception; what arrives is dropped (1 buffer full, 2 soft reset); its length and running CRC
so far; a codeword of it was uncorrectable. -/
  rx : Option Nat
  rxDrop : Nat
  rxLen : Nat
  rxCrc : Nat
  rxBad : Bool
  tx : Option BbTx
  /-- Received pauses that run: bit p for priority p under PFC, bit 8 for PAUSE (R82). -/
  paused : Nat
  /-- Pauses asserted toward the peer, in the same bits, and the flow-control frames sent, oldest first: bit and quanta (R83). -/
  xoff : Nat
  flow : List (Nat × Nat)
  /-- The last frame sent, as it left. -/
  sent : List Byte
  deriving DecidableEq, Repr

def Bb.init : Bb :=
  { rx := none, rxDrop := 0, rxLen := 0, rxCrc := 0xFFFFFFFF, rxBad := false, tx := none, paused := 0, xoff := 0, flow := [], sent := [] }

/-- The PTP servo (R89, R448): the master's source port identity as adopted, and whether the Sync is lost. -/
structure Ptp where
  master : Nat
  lost : Bool
  deriving DecidableEq, Repr

/-! ### Die links (R266 to R288) -/

/-- A DATA flit (R270): its sequence number, class, OP code and 128-byte body. -/
structure LinkFlit where
  seqNo : Nat
  cls : Nat
  op : Nat
  body : List Byte
  deriving DecidableEq, Repr

/-- One direction of a link: its transmitter at one end and its receiver at the other. -/
structure LinkDir where
  /-- Flits the classes offer and that have not been sent, in order. -/
  queue : List LinkFlit
  /-- Transmitter: next SEQ, replay buffer, what is left to resend, last ACK, NAK in the last good word, replays since ACK last
  advanced (R275, R276, R278). -/
  nextSeq : Nat
  replay : List LinkFlit
  resend : List LinkFlit
  acked : Nat
  nakSeen : Bool
  tries : Nat
  /-- Flits sent and freed entries reported by class, modulo 256 (R273); the weighted round robin (R274). -/
  sent : List (Nat × Nat)
  credTotal : List (Nat × Nat)
  rrCls : Nat
  rrLeft : Nat
  /-- Receiver: E, a NAK episode, its renewal is due, quads already counted in it (R275, R280). -/
  expect : Nat
  episode : Bool
  renew : Bool
  epQuads : Nat
  /-- Receive buffer, freed entries by class modulo 256, the class whose total is reported next (R273). -/
  buf : List LinkFlit
  freed : List (Nat × Nat)
  crdTurn : Nat
  /-- Quad errors in the running window, and control words in a row that failed their CRC (R278). -/
  qerr : List (Nat × Nat)
  badRun : Nat
  /-- Good quads, quads in use and dropped quads (R281). -/
  good : Nat
  used : Nat
  dropped : Nat
  deriving DecidableEq, Repr

def LinkDir.init : LinkDir :=
  { queue := [], nextSeq := 0, replay := [], resend := [], acked := 255, nakSeen := false, tries := 0, sent := [], credTotal := [],
    rrCls := 0, rrLeft := 4, expect := 0, episode := false, renew := false, epQuads := 0, buf := [], freed := [], crdTurn := 0,
    qerr := [], badRun := 0, good := 0, used := 0, dropped := 0 }

/-- A retrain in progress (R278): the ends that have stopped sending flits (1 A, 2 B), its cause (Table DLK-7), the quad and direction of
cause 2, whether dropped quads are tested, when it was triggered by DEV_TIME, and a host request that follows it. -/
structure Train where
  ends : Nat
  cause : Nat
  quad : Nat
  dir : Nat
  full : Bool
  time : Nat
  again : Option Bool
  deriving DecidableEq, Repr

structure Link where
  /-- STATE (Table DLK-8): 0 OFF, 1 TRAINING, 2 UP, 3 DOWN, 4 LOOPBACK; RATE. -/
  st : Nat
  rate : Nat
  ab : LinkDir
  ba : LinkDir
  train : Option Train
  /-- DEV_TIME plus 1 of the last persistent-error retrain by 4 × direction + quad (R282). -/
  strikes : List (Nat × Nat)
  /-- Loopback: errors by wire, and forwarded-clock lock (R287). -/
  lbErr : List (Nat × Nat)
  lbLock : Nat
  /-- A soft reset's flush waits for the resume (R288). -/
  flushDue : Bool
  deriving DecidableEq, Repr

def Link.init : Link :=
  { st := 0, rate := 0, ab := LinkDir.init, ba := LinkDir.init, train := none, strikes := [], lbErr := [], lbLock := 0, flushDue := false }

/-! ### The Harrow (R402 to R409) -/

/-- An instance's settings: HRW_CTL.EN, HRW_PERIOD, HRW_PASS_MAX, HRW_RETIRE_N. -/
structure HrwCfg where
  en : Nat
  period : Nat
  passMax : Nat
  retireN : Nat
  deriving DecidableEq, Repr

/-- The OTP defaults (Table HRW-7). -/
def HrwCfg.init : HrwCfg := { en := 1, period := 10, passMax := 8, retireN := 3 }

/-- An instance: the three copies of its settings and what its stored CRC was computed over (R406), a pass that runs, its
UNSCRUBBED bit (R408), and the uncorrectable words reported and not yet rewritten (R405). -/
structure Hrw where
  c0 : HrwCfg
  c1 : HrwCfg
  c2 : HrwCfg
  written : HrwCfg
  running : Bool
  t0 : Nat
  unscrubbed : Bool
  known : List HrwWord
  deriving DecidableEq, Repr

def Hrw.init : Hrw :=
  { c0 := HrwCfg.init, c1 := HrwCfg.init, c2 := HrwCfg.init, written := HrwCfg.init, running := false, t0 := 0,
    unscrubbed := false, known := [] }

/-! ### Two-wire port and test access -/

/-- The two-wire port beside its registers (R416 to R425): ADDR_CFG as written, the bytes of the snapshot buffer not yet read, and
what the port did in the last transfer: the bytes it sent, and whether it ended in a NACK. -/
structure Twp where
  addrCfg : List Byte
  snap : List Byte
  reply : List Byte
  nacked : Bool
  deriving DecidableEq, Repr

def Twp.init : Twp := { addrCfg := [0, 0, 0, 0], snap := [], reply := [], nacked := false }

/-- The instructions of the package TAP (Table TST-1). -/
inductive TapIr where
  | bypass | idcode | sample | extest | clamp | highz | extestPulse | extestTrain | hbm1500 | diesel | tstacc
  deriving DecidableEq, Repr

/-- The package TAP (R432 to R436): instruction, Test-Logic-Reset, the DIESEL register, boundary cells by number, the test result of
AC-coupled lanes, and what the last data register that was read shifted out. -/
structure Tap where
  ir : TapIr
  tlr : Bool
  diesel : Nat
  cells : List (Nat × Bool)
  sampled : List (Nat × Bool)
  pulse : Nat
  tdo : Nat
  deriving DecidableEq, Repr

/-- PRESUMED, IEEE 1149.1: in Test-Logic-Reset the instruction is IDCODE. -/
def Tap.init : Tap :=
  { ir := .idcode, tlr := true, diesel := 1, cells := [], sampled := [], pulse := 0, tdo := 0 }

/-! ### The whole machine -/

/-- The state of the engine. -/
structure State where
  glb : Glb
  /-- BAR0 registers by byte offset, each listed where it differs from its reset value (Tables GLB-10 to GLB-19). -/
  regs : List (Nat × Word)
  /-- The counter snapshot space by index (R450): bits [62:0] COUNT, bit 63 OVF. -/
  cnt : List (Nat × BitVec 64)
  clk : Clk
  hif : Hif
  streams : List (Nat × Stream)
  /-- Messages in flight, in admission order. -/
  msgs : List Msg
  frames : List Frame
  plg : Plg
  /-- The tables of Table HIF-7: entries by 0x10000 × TABLE + index (station table: 32 × port + index), trailing zeros left out. -/
  tables : List (Nat × List Byte)
  /-- Table entries marked bad by an uncorrectable word (Table HRW-4), by the same keys. -/
  tblBad : List Nat
  /-- Frames waiting at each egress 0–15 as ordinary traffic, oldest first. -/
  egress : List (Nat × List EgrFrame)
  slots : List (Nat × Slot)
  sheaves : List Sheaf
  groups : List Group
  plots : List (Nat × Plot)
  tiles : List (Nat × Tile)
  switches : List (Nat × Switch)
  sus : List (Nat × Su)
  fab : Fab
  /-- Waiters on sync objects, in the order they joined. -/
  waits : List Waiter
  yoke : Yoke
  mem : Mem
  /-- The completion of the last host read. -/
  answer : Option Answer
  ports : List (Nat × Port)
  /-- Field maps: entry i of port n at 64n + i, 32 bytes each without trailing zeros (Table TRK-9). -/
  fm : List (Nat × List Byte)
  bbs : List (Nat × Bb)
  ptp : Ptp
  /-- Die links, numbered as in Table DLK-1. -/
  links : List (Nat × Link)
  /-- Harrow instances 0 to 3 by die and 4 on the I/O die. -/
  hrw : List (Nat × Hrw)
  twp : Twp
  tap : Tap
  trc : List (Nat × Trace)
  alert : Alert
  /-- Numbers the engine gives next: messages, frames, builds, sheaves. -/
  nextMid : Nat
  nextFid : Nat
  nextBuild : Nat
  nextSid : Nat
  /-- The model's own: how many free values have been drawn (Config.free). -/
  freeCtr : Nat
  /-- The queue of commands that wait, first in, first out. -/
  pending : List Instr
  deriving DecidableEq, Repr

/-- Why the block stops. -/
inductive Fault where
  /-- Raised by RUN_SET and REGISTER_WRITE when GLB_ID.IOD_GEN is neither 2 nor 3 (R3): the manual covers no such part, so it
  gives no behaviour. Safe: the model stops where the manual says nothing. -/
  | partNotCovered
  deriving DecidableEq, Repr

/-- Why a command is refused. -/
inductive Refusal where
  /-- Raised by Dispatch for a command that has no meaning yet, by its mnemonic. Safe. -/
  | notModelled (mnemonic : String)
  deriving DecidableEq, Repr

/-- The engine right after a cold reset: rails up, DEV_RST_N held low, PHASE 0, every register at its reset value. -/
def State.reset : State :=
  { glb :=
      { powered := true, railFault := false, thermtrip := false, pllHold := false, devRstLow := true, perstLow := true,
        smbRstLow := false, pinSeed := 0, pinSmb := 0, strapSeed := 0, strapSmb := 0, run := false, runHeld := false,
        phase := .reset, memDone := false, fail := 0, dieOk := 0, dieFatal := 0, deviceFatal := false, soft := .off, softImm := false,
        softT0 := 0, iso := .on, isoT0 := 0, otp := { iodGen := 3, rev := 0, serial := 0, fm63 := [] }, hardLanes := [] },
    regs := [],
    cnt := [],
    clk :=
      { pllLock := false, refOk := false, dllLock := 0, devTime := 0, latchHi := 0, cntLatch := 0, now := 0, trim := 0,
        frac := 0, slew := 0, mirror := [], tdiv := [], tdivReq := [] },
    hif :=
      { en := false, dbBase := 0, shBase := 0, polling := false, interval := 0, pollDue := 0, turn := 0, rings := [], sqs := [], shDirty := false,
        shDue := 0, shGen := 0, trig := [], pba := 0, backlog := [], dropped := 0, xqOk := true, teleT0 := 0, tele := [],
        bufs := [], posted := [] },
    streams := [],
    msgs := [],
    frames := [],
    plg := { gleans := [], tokens := [], passed := [] },
    tables := [],
    tblBad := [],
    egress := [],
    slots := [],
    sheaves := [],
    groups := [],
    plots := [],
    tiles := [],
    switches := [],
    sus := [],
    fab := Fab.init,
    waits := [],
    yoke :=
      { pstd := 0, level := 0, ceils := [], sets := [], board := [], span := 0, hot := [], caps := 0, startAt := none, drainAt := none, ceilAt := none, holdT0 := 0,
        holdSched := false, holding := false, drainReq := false, imon := [0, 0, 0, 0, 0, 0], bandOut := 0, bandT0 := none,
        workNj := 0, ballNj := 0, dies := [] },
    mem := { hbm := [], poison := [], rlc := [], dir := [], fills := [], useCtr := 0, lines := [], corrN := [], corrSec := [], storm := [],
             scrubPos := [], bist := [], softLanes := [] },
    answer := none,
    ports := [],
    fm := [],
    bbs := [],
    ptp := { master := 0, lost := false },
    links := [],
    hrw := [],
    twp := Twp.init,
    tap := Tap.init,
    trc := [],
    alert := { latched := 0, pending := 0 },
    nextMid := 0,
    nextFid := 0,
    nextBuild := 0,
    nextSid := 0,
    freeCtr := 0,
    pending := [] }

end Sys2Proof.Machine
end

