-- ==== Sys2Proof/Machine/Table.lean ====
section
/-! DEFINITION. Sparse tables: a list of (key, value) pairs in ONE canonical form, keys strictly rising and no entry equal to
what an unlisted key reads as. Every memory, register file and table of State is held so, and equal tables are equal data. -/
namespace Sys2Proof.Machine

/-- What key `k` reads as: its entry, or `d` where none is listed. -/
def tget {α : Type} (d : α) (k : Nat) : List (Nat × α) → α
  | [] => d
  | (k', v) :: t => if k' = k then v else tget d k t

/-- The entries of every key but `k`. -/
def tdel {α : Type} (k : Nat) (t : List (Nat × α)) : List (Nat × α) := t.filter (fun e => e.1 ≠ k)

/-- Put an entry before the first of a higher key. -/
def tins {α : Type} (k : Nat) (v : α) : List (Nat × α) → List (Nat × α)
  | [] => [(k, v)]
  | e :: t => if k < e.1 then (k, v) :: e :: t else e :: tins k v t

/-- Write `v` at key `k`. Writing the value an unlisted key reads as removes the entry. -/
def tset {α : Type} [DecidableEq α] (d : α) (k : Nat) (v : α) (t : List (Nat × α)) : List (Nat × α) :=
  if v = d then tdel k t else tins k v (tdel k t)

/-- Apply `f` to what key `k` reads as. -/
def tupd {α : Type} [DecidableEq α] (d : α) (k : Nat) (f : α → α) (t : List (Nat × α)) : List (Nat × α) :=
  tset d k (f (tget d k t)) t

/-- Every key from `k` on is above `lo`, keys rise strictly, and no value is the default. -/
def twfFrom {α : Type} [DecidableEq α] (d : Nat → α) : Option Nat → List (Nat × α) → Bool
  | _, [] => true
  | lo, (k, v) :: t =>
    (match lo with | none => true | some l => decide (l < k)) && decide (v ≠ d k) && twfFrom d (some k) t

/-- The canonical form of a table whose key k reads as `d k` when it is not listed. -/
def twf {α : Type} [DecidableEq α] (d : Nat → α) (t : List (Nat × α)) : Bool := twfFrom d none t

/-- The canonical form of an addressed memory, an unlisted address reading as 0: addresses strictly rising, no entry equal to 0. -/
def Memory.wf (m : List (Nat × Byte)) : Bool := twf (fun _ => (0 : Byte)) m

/-- Write consecutive values from key `k`. -/
def tsetList {α : Type} [DecidableEq α] (d : α) (k : Nat) : List α → List (Nat × α) → List (Nat × α)
  | [], t => t
  | v :: vs, t => tsetList d (k + 1) vs (tset d k v t)

/-- Read `n` consecutive values from key `k`. -/
def tgetList {α : Type} (d : α) (k n : Nat) (t : List (Nat × α)) : List α :=
  (List.range n).map (fun i => tget d (k + i) t)

/-- Drop every entry whose key lies in [k, k + n). -/
def tclear {α : Type} (k n : Nat) (t : List (Nat × α)) : List (Nat × α) :=
  t.filter (fun e => e.1 < k || k + n ≤ e.1)

end Sys2Proof.Machine
end

