-- ==== Sys2Proof/Machine/Ops.lean ====
section
/-! DEFINITION. The named operations every block shares: registers, counters, events, trace, host rings and completions. -/
namespace Sys2Proof.Machine

/-- What a command answers. -/
abbrev Out := Host.Outcome State Fault Refusal

/-! ### Free values -/

/-- Draw one value the manual leaves open. -/
def drawFree (s : State) : BitVec 64 × State := (Config.free s.freeCtr, { s with freeCtr := s.freeCtr + 1 })

/-! ### Registers -/

/-- The value held for the register at an offset. -/
def getReg (s : State) (off : Nat) : Nat := (tget (regReset off) off s.regs).toNat

/-- Store a register's value. -/
def setReg (off v : Nat) (s : State) : State :=
  { s with regs := tset (regReset off) off (BitVec.ofNat 32 v) s.regs }

/-- Set bits of a register: what an internal event does to RW1C bits (R9). -/
def orReg (off bits : Nat) (s : State) : State := setReg off (getReg s off ||| bits) s

/-- Store into a copy of a register of the block that ends at `hi`; a copy beyond the block's end is no register. -/
def setRegIn (hi off v : Nat) (s : State) : State := if off < hi then setReg off v s else s

def orRegIn (hi off bits : Nat) (s : State) : State := setRegIn hi off (getReg s off ||| bits) s

/-- Bits [lo + len − 1 : lo] of a register. -/
def regF (s : State) (off lo len : Nat) : Nat := bitsOf (getReg s off) lo len

/-- Offsets in a trunk port's block (Table GLB-13) and a backbone port's block (Table GLB-14). -/
def trkReg (port off : Nat) : Nat := 0x1000 + 0x200 * port + off
def bbpReg (port off : Nat) : Nat := 0x2000 + 0x200 * port + off

/-- A refused write sets GLB_LOCK_VIOL and records its offset (R5, R444). -/
def lockViol (off : Nat) (s : State) : State := setReg 0x000C (1 ||| (off &&& 0xFFFC)) s

/-- DEV_TIME as a number (R295). -/
def devTime (s : State) : Nat := s.clk.devTime.toNat

/-- YOK_STATE (Table YOK-1). -/
def yokState (s : State) : Nat := regF s 0x2880 0 3

/-- Plots are powered: outside OFF, STANDBY, HOLDOFF and DRAINED (R311, R323, R334). A gated plot has CLK_T stopped (R294). -/
def powered (st : Nat) : Bool := decide (st ∈ [3, 4, 5, 7])
def plotsOn (s : State) : Bool := powered (yokState s)

/-! ### Die links (Table DLK-1) -/

def getLink (s : State) (l : Nat) : Link := tget Link.init l s.links
def setLink (l : Nat) (v : Link) (s : State) : State := { s with links := tset Link.init l v s.links }
def updLink (l : Nat) (f : Link → Link) (s : State) : State := setLink l (f (getLink s l)) s

def Link.dir (v : Link) (d : Nat) : LinkDir := if d = 0 then v.ab else v.ba
def Link.setDir (v : Link) (d : Nat) (x : LinkDir) : Link := if d = 0 then { v with ab := x } else { v with ba := x }
def updDir (l d : Nat) (f : LinkDir → LinkDir) (s : State) : State := updLink l (fun v => v.setDir d (f (v.dir d))) s

/-- The dies that a die link joins: 4 is the I/O die. -/
def linkEnds (l : Nat) : Nat × Nat :=
  match l with
  | 4 => (0, 1) | 5 => (1, 2) | 6 => (2, 3) | 7 => (0, 3) | 8 => (0, 2) | 9 => (1, 3)
  | n => (4, n)

/-- The link that joins two dies, and its direction from the first to the second: 0 A→B (R266). -/
def linkBetween (a b : Nat) : Option (Nat × Nat) :=
  (List.range 10).findSome? (fun l => if linkEnds l = (a, b) then some (l, 0) else if linkEnds l = (b, a) then some (l, 1) else none)

/-- A class offers a flit to a direction of a link (R274). -/
def offerFlit (l d cls op : Nat) (body : List Byte) (s : State) : State :=
  updDir l d (fun x => { x with queue := x.queue ++ [{ seqNo := 0, cls := cls, op := op, body := padTo 128 body }] }) s

/-- DLK_CREDc as it acts, and whether the eight sum to more than 256 (Table DLK-4 gives the defaults). -/
def creditSet (s : State) (c : Nat) : Nat := clampNat 2 128 (regF s (0x2C00 + 4 * c) 0 8)
def creditOver (s : State) : Bool := decide (256 < sumOf ((List.range 8).map (creditSet s)))
def credits (s : State) (c : Nat) : Nat :=
  if creditOver s then (([96, 32, 64, 16, 8, 8, 24, 8] : List Nat)[c]?).getD 8 else creditSet s c

/-- Flits of a class that the receiver has not yet freed (R273). -/
def creditsUsed (d : LinkDir) (c : Nat) : Nat := (tget 0 c d.sent + 256 - tget 0 c d.credTotal) % 256

def hasCredits (s : State) (d : LinkDir) (c : Nat) : Bool := decide (creditsUsed d c < credits s c)

/-- Traffic of a class between two dies goes over the link that joins them, while it is in service (R266). -/
def sendFlit (a b cls op : Nat) (body : List Byte) (s : State) : State :=
  match linkBetween a b with
  | some (l, d) => if (getLink s l).st = 1 ∨ (getLink s l).st = 2 then offerFlit l d cls op body s else s
  | none => s

/-! ### Host rings (R339 to R342) -/

def getRing (s : State) (r : Nat) : Ring := tget Ring.init r s.hif.rings

def setRing (r : Nat) (g : Ring) (s : State) : State :=
  { s with hif := { s.hif with rings := tset Ring.init r g s.hif.rings } }

/-- The entries of a ring: 2^log2. -/
def Ring.size (g : Ring) : Nat := 2 ^ g.log2

/-- The pointer word of a position (R340): INDEX [15:0], WRAP [16]. -/
def Ring.word (g : Ring) (pos : Nat) : Nat := pos % g.size + 0x10000 * (pos / g.size % 2)

/-- The position that a pointer word of the host names: the first from `base` on that has its INDEX and WRAP. -/
def Ring.fwd (g : Ring) (base w : Nat) : Nat :=
  base + ((bitsOf w 0 16 + g.size * bitsOf w 16 1) + 2 * g.size - base % (2 * g.size)) % (2 * g.size)

/-- Entries between consumer and producer. -/
def Ring.level (g : Ring) : Nat := g.prod - g.cons

def Ring.full (g : Ring) : Bool := decide (g.size ≤ g.level)

/-- Append a posted write (R338). -/
def post (w : HostWrite) (s : State) : State := { s with hif := { s.hif with posted := s.hif.posted ++ [w] } }

/-- The vector of ring `r` (HIF_MODr), r = 16 to 35. -/
def modReg (r : Nat) : Nat := 0x0880 + 4 * (r - 16)

/-- A ring triggers its vector: its pending count clears and one message waits for the next shadow write (R354). -/
def triggerRing (r : Nat) (s : State) : State :=
  let s := setRing r { getRing s r with pend := 0 } s
  { s with hif := { s.hif with trig := insertNew (regF s (modReg r) 0 6) s.hif.trig, shDirty := true } }

/-- Write one entry of an engine-produced ring: the entry with its PHASE at the highest address (R341), the pointer, the
pending count and its trigger (R354). -/
def writeEntry (r : Nat) (body : List Byte) (s : State) : State :=
  let g := getRing s r
  let phase : Byte := if g.prod / g.size % 2 = 0 then 1#8 else 0#8
  let n := body.length + 1
  let s := post (.mem (g.base + n * (g.prod % g.size)) (body ++ [phase])) s
  let s := setRing r { g with prod := g.prod + 1, pend := g.pend + 1, oldest := if g.pend = 0 then s.clk.now else g.oldest } s
  let s := { s with hif := { s.hif with shDirty := true } }
  let count := regF s (modReg r) 8 8
  if count ≠ 0 ∧ count ≤ g.pend + 1 then triggerRing r s else s

/-- The first 31 bytes of an event entry (Table HIF-10). -/
def eventBody (e : Event) : List Byte :=
  leBytes 2 e.code ++ leBytes 2 e.src ++ leBytes 8 e.time ++ leBytes 4 e.a0 ++ leBytes 4 e.a1 ++ leBytes 4 e.a2 ++ List.replicate 7 0#8

/-- The host interface is not cut off by PERST_N or an FLR (R306). -/
def connected (s : State) : Bool := decide (s.glb.iso = .on)

/-- The host can reach BAR0: the PCIe core is out of reset and has its clock (R311, R312). -/
def barUp (s : State) : Bool := !s.glb.perstLow && s.clk.pllLock

/-- The EVQ can take an entry now. -/
def evqReady (s : State) : Bool := connected s && (getRing s 32).en && !(getRing s 32).full

/-- Counter `idx` counts `n` without raising CNT_OVF: COUNT saturates at 2^63 − 1 and sets OVF (R451). -/
def countQuiet (idx n : Nat) (s : State) : State :=
  let c := (tget 0 idx s.cnt).toNat
  let v := c % 2 ^ 63 + n
  { s with cnt := tset 0 idx (if c.testBit 63 ∨ 2 ^ 63 - 1 ≤ v then BitVec.allOnes 64 else BitVec.ofNat 64 v) s.cnt }

/-- Write waiting events, oldest first, as far as the EVQ has room. -/
def drainEvents : List Event → State → List Event × State
  | [], s => ([], s)
  | e :: es, s => if evqReady s then drainEvents es (writeEntry 32 (eventBody e) s) else (e :: es, s)

/-- Deliver the backlog as room allows (R355). -/
def flushBacklog (s : State) : State :=
  let (rest, s) := drainEvents s.hif.backlog s
  { s with hif := { s.hif with backlog := rest } }

/-- Put an event at the end of the backlog. -/
def appendEvent (e : Event) (s : State) : State := { s with hif := { s.hif with backlog := s.hif.backlog ++ [e] } }

/-! ### Alerts of the two-wire port (R426) -/

/-- The alert source of an event code (Table TWP-4), bit = priority − 1. -/
def alertOf (code : Nat) : Option Nat :=
  if code = 0x1006 ∨ code = 0x1007 then some 0
  else if code = 0x0C04 ∨ code = 0x0C05 then some 1
  else if code = 0x0C02 ∨ code = 0x0C03 ∨ code = 0x0C06 then some 2
  else if code = 0x0A02 ∨ code = 0x0A03 then some 3
  else if code = 0x0901 ∨ code = 0x0902 ∨ code = 0x1002 ∨ code = 0x1003 ∨ code = 0x1004 ∨ code = 0x1005 then some 4
  else if code = 0x0B01 ∨ code = 0x0B02 then some 5
  else if code = 0x1101 then some 6
  else none

/-- Latch an alert source, and its pending bit where TWP_ALERT_EN enables it (R426). -/
def latchAlert (b : Nat) (s : State) : State :=
  { s with alert :=
      { latched := setBitTo s.alert.latched b true,
        pending := if (getReg s 0x3814).testBit b then setBitTo s.alert.pending b true else s.alert.pending } }

/-- RST_BACKLOG_OVF for the events dropped so far, ahead of the next one (R307, R355). -/
def appendOvf (s : State) : State :=
  let n := s.hif.dropped
  if n = 0 then s
  else latchAlert 5 (appendEvent { code := 0x0B02, src := 0, time := devTime s, a0 := min (2 ^ 32 - 1) n, a1 := 0, a2 := 0 }
    { s with hif := { s.hif with dropped := 0 } })

/-- A counter is about to reach its maximum with `n` more, and has not been there since it was cleared (R451). -/
def reachesMax (idx n : Nat) (s : State) : Bool :=
  let c := (tget 0 idx s.cnt).toNat
  !c.testBit 63 && decide (2 ^ 63 - 1 ≤ c % 2 ^ 63 + n)

/-- An event finds the backlog full and is dropped and counted in RST_BACKLOG_DROP. Where that counter reaches its maximum, the CNT_OVF that it
raises (R10) finds the backlog full too. -/
def dropEvent (s : State) : State :=
  countQuiet 64 1 { s with hif := { s.hif with dropped := s.hif.dropped + (if reachesMax 64 1 s then 2 else 1) } }

/-- An event joins the backlog, which reaches the EVQ as far as it can take entries; with 4,096 waiting it is dropped,
and once room returns one RST_BACKLOG_OVF goes ahead of it (R306, R355). -/
def pushEvent (e : Event) (s : State) : State :=
  if s.hif.backlog.length < 4096 then flushBacklog (appendEvent e (appendOvf s)) else dropEvent s

/-- Raise an event: it latches its alert source even while the host is cut off (Table TWP-4), and enters the EVQ or backlog. -/
def raise (code src a0 a1 a2 : Nat) (s : State) : State :=
  let s := match alertOf code with
    | some b => latchAlert b s
    | none => s
  pushEvent { code := code, src := src, time := devTime s, a0 := a0 % 2 ^ 32, a1 := a1 % 2 ^ 32, a2 := a2 % 2 ^ 32 } s

/-- Counter `idx` counts `n` (R10, R451): on reaching its maximum it sets OVF and raises CNT_OVF once. -/
def bump (idx n : Nat) (s : State) : State :=
  let due := reachesMax idx n s
  let s := countQuiet idx n s
  if due then raise 0x00FF idx idx 0 0 s else s

/-- COUNT and OVF of a counter clear together (R451). -/
def clearCounter (idx : Nat) (s : State) : State := { s with cnt := tset 0 idx 0 s.cnt }

/-- Count for the telemetry record (Table HIF-12): 0 messages ended, 1 LATE, 2 RETRACT, 3 punts delivered, 4 punts dropped,
5 shed, 6 ballast mJ. A count holds at the most its four bytes can show (R10). -/
def teleAdd (k n : Nat) (s : State) : State :=
  { s with hif := { s.hif with tele := updAt (padTele s.hif.tele) k (fun x => min (2 ^ 32 - 1) (x + n)) } }
where
  padTele (l : List Nat) : List Nat := l ++ List.replicate (7 - l.length) 0

/-! ### Trace (R439 to R441) -/

def getTrc (s : State) (d : Nat) : Trace := tget Trace.init d s.trc

/-- Write one record into die `d`'s trace buffer while capture is enabled and not stopped: with MODE 0 it stops when the
buffer is full, with MODE 1 it wraps; after a trigger it stops after POST × 1,024 further records (R441). -/
def traceWrite (d : Nat) (rec : List Byte) (trigger : Bool) (s : State) : State :=
  let ctl := getReg s (0x8104 + 0x40 * d)
  let t := getTrc s d
  if !ctl.testBit 0 || t.stopped then s
  else
    let wraps := t.wptr + 1 = 32768
    let starts := trigger && !t.triggered
    let post := if starts then 1024 * bitsOf ctl 18 8 else if t.triggered then t.post - 1 else 0
    let stop := (wraps && !ctl.testBit 1) || ((t.triggered || starts) && post == 0)
    let t' : Trace :=
      { recs := tset [] t.wptr (padTo 32 rec) t.recs, wptr := (t.wptr + 1) % 32768, wrapped := t.wrapped || wraps,
        triggered := t.triggered || starts, stopped := stop, post := post }
    { s with trc := tset Trace.init d t' s.trc }

/-- The DEV_TIME that a compute die's mirror shows (R296). -/
def mirrorTime (s : State) (d : Nat) : Nat := (tget Mirror.init d s.clk.mirror).time

/-- Capture a record of kind `kind` on die `d` where TST_TRC_SRCd enables it. Payload bytes 12–31. -/
def capture (d kind src : Nat) (payload : List Byte) (s : State) : State :=
  if (getReg s (0x8100 + 0x40 * d)).testBit (kind - 1) then
    traceWrite d (leBytes 8 (mirrorTime s d) ++ leBytes 2 src ++ leBytes 2 kind ++ payload) false s
  else s

/-- Class DBG can take a trace record to a die now: the die is not fatal, its link passes flits, and a credit is free beyond those that
waiting records will need (R440). -/
def traceRoom (s : State) (d : Nat) : Bool :=
  let x := (getLink s d).ab
  !s.glb.dieFatal.testBit d && decide ((getLink s d).st = 1 ∨ (getLink s d).st = 2) &&
    decide (creditsUsed x 7 + (x.queue.filter (fun f => f.cls = 7)).length < credits s 7)

/-- A record of the I/O die travels in a TRACE flit of class DBG to the die that TST_TRC_IODEST names (R437, R439); one that finds no credit is
dropped and counted in TST_TRC_DROP (R440). -/
def captureIod (kind : Nat) (payload : List Byte) (s : State) : State :=
  let d := regF s 0x8014 0 2
  if (getReg s (0x8100 + 0x40 * d)).testBit (kind - 1) then
    if traceRoom s d then
      capture d kind 0xFFFF payload (sendFlit 4 d 7 1 (leBytes 8 (mirrorTime s d) ++ leBytes 2 0xFFFF ++ leBytes 2 kind ++ payload) s)
    else bump (177 + d) 1 s
  else s

/-- Raise an event on compute die `d`: beside `raise`, kind 1 (the event entry's bytes 0–3 and 12–23) and the trigger, whose
record is written even where the source is not enabled (R439, R441). It goes to the I/O die in class EVT of the die's IOD link (R266). -/
def raiseOn (d code src a0 a1 a2 : Nat) (s : State) : State :=
  let payload := leBytes 2 code ++ leBytes 2 src ++ leBytes 4 a0 ++ leBytes 4 a1 ++ leBytes 4 a2
  let trig := regF s (0x8104 + 0x40 * d) 2 16
  let isTrig := decide (trig ≠ 0 ∧ trig = code)
  let enabled := (getReg s (0x8100 + 0x40 * d)).testBit 0
  let s := if isTrig || enabled then
      traceWrite d (leBytes 8 (mirrorTime s d) ++ leBytes 2 0xFFFF ++ leBytes 2 1 ++ payload) isTrig s
    else s
  raise code src a0 a1 a2 (sendFlit d 4 3 1 payload s)

/-! ### Performance counters (R442) -/

/-- Counters of die `d` that select an event code, and `plot` in their PLOT_MASK, count `n`. -/
def pmuCount (plot code n : Nat) (s : State) : State :=
  let d := plot / 16
  (List.range 8).foldl (fun s k =>
    let r := getReg s (0x8120 + 0x40 * d + 4 * k)
    if bitsOf r 0 5 = code ∧ (bitsOf r 16 16).testBit (plot % 16) then bump (2368 + 8 * d + k) n s else s) s

/-- Counters of die `d` that select an event of the die itself, whatever plots they name (at least one). -/
def pmuDie (d code n : Nat) (s : State) : State :=
  (List.range 8).foldl (fun s k =>
    let r := getReg s (0x8120 + 0x40 * d + 4 * k)
    if bitsOf r 0 5 = code ∧ bitsOf r 16 16 ≠ 0 then bump (2368 + 8 * d + k) n s else s) s

/-! ### Descriptors and completions (R348, R350) -/

def getSq (s : State) (q : Nat) : Sq := tget Sq.init q s.hif.sqs

def setSq (q : Nat) (v : Sq) (s : State) : State := { s with hif := { s.hif with sqs := tset Sq.init q v s.hif.sqs } }

/-- The CQ ring that SQ `q` completes on (R342): ring 16 + HIF_SQq_CFG.CQ. -/
def cqOf (s : State) (q : Nat) : Nat := 16 + regF s (0x0840 + 4 * q) 0 4

/-- The first 31 bytes of a completion (Table HIF-9). -/
def completionBody (d : Desc) (q idx status r0 r1 r2 time : Nat) : List Byte :=
  slice d.bytes 8 8 ++ leBytes 1 status ++ leBytes 1 q ++ leBytes 2 idx ++ leBytes 4 r0 ++ leBytes 4 r1 ++ leBytes 4 r2 ++
    leBytes 4 time ++ List.replicate 3 0#8

/-- Write the completions of finished descriptors at the head of an SQ, in SQ order, while the CQ has room (R348). -/
def flushDescs (q : Nat) : List Desc → State → List Desc × State
  | [], s => ([], s)
  | d :: ds, s =>
    match d.st with
    | .done status r0 r1 r2 time =>
      let cq := cqOf s q
      let g := getRing s cq
      if connected s && g.en && !g.full then
        let idx := (getRing s q).word d.pos % 0x10000
        let s := writeEntry cq (completionBody d q idx status r0 r1 r2 time) s
        let s := if (d.bytes[1]?).getD 0#8 |>.getLsbD 1 then triggerRing cq s else s
        flushDescs q ds s
      else (d :: ds, s)
    | _ => (d :: ds, s)

def flushSq (q : Nat) (s : State) : State :=
  let v := getSq s q
  let (rest, s) := flushDescs q v.descs s
  setSq q { v with descs := rest } s

def isDone (d : Desc) : Bool := match d.st with | .done .. => true | _ => false

/-- The descriptor at a position is not over. -/
def openAt (pos : Nat) (d : Desc) : Bool := decide (d.pos = pos) && !isDone d

/-- A descriptor ends with one status and its results (R350); HIF_DESC_CNT counts it, and completions go out in SQ order. -/
def complete (q pos status r0 r1 r2 : Nat) (s : State) : State :=
  let v := getSq s q
  if v.descs.any (openAt pos) then
    let st := DescSt.done status (r0 % 2 ^ 32) (r1 % 2 ^ 32) (r2 % 2 ^ 32) (devTime s % 2 ^ 32)
    let s := setSq q { v with descs := v.descs.map (fun d => if d.pos = pos then { d with st := st } else d) } s
    flushSq q (bump 78 1 s)
  else s

/-- The descriptor of SQ `q` at a position, if the engine holds it and it has not finished. -/
def findDesc (s : State) (q pos : Nat) : Option Desc :=
  (getSq s q).descs.find? (openAt pos)

/-- R348: an ordered descriptor starts when every earlier one of its SQ has completed, an UNORDERED one when fetched while
fewer than 32 execute. -/
def mayStart (s : State) (q pos : Nat) : Bool :=
  let ds := (getSq s q).descs
  match ds.find? (fun d => d.pos = pos) with
  | none => false
  | some d =>
    let earlier := ds.takeWhile (fun e => e.pos ≠ pos)
    if (d.bytes[1]?).getD 0#8 |>.getLsbD 0 then
      decide ((ds.filter (fun e => decide (e.st = .executing))).length < 32)
    else earlier.all isDone

/-- Mark a descriptor as executing. -/
def startDesc (q pos : Nat) (s : State) : State :=
  let v := getSq s q
  setSq q { v with descs := v.descs.map (fun d => if d.pos = pos ∧ d.st = .waiting then { d with st := .executing } else d) } s

/-- HBM is in service: phase STANDBY or later, and no soft reset between quiesce and its end (R312, R303). -/
def hbmUp (s : State) : Bool :=
  match s.glb.phase with
  | .standby | .holdoff | .ramp | .running => true
  | .softReset => decide (s.glb.soft = .ramp)
  | _ => false

/-- A soft reset has stopped the data path (phases 2 to 4 of R303). -/
def quiesced (s : State) : Bool := decide (s.glb.soft = .quiesce ∨ s.glb.soft = .clear)

/-- The data path is stopped: by a soft reset, or for good by a device-fatal error (R303, R399). -/
def stopped (s : State) : Bool := quiesced s || s.glb.deviceFatal

/-- A descriptor of this opcode touches the data path, so it waits while a soft reset has stopped it (R303). -/
def dataOp (op : Nat) : Bool := decide (op ≠ 0x00 ∧ op ≠ 0x08 ∧ op ≠ 0x29 ∧ op ≠ 0x30 ∧ op ≠ 0x31)

/-- The bytes of the descriptor that a command runs: it is held, not finished, carries the command's opcode (and
sub-opcode test `sub`), may start under R348, and the host interface is connected. -/
def runnable (s : State) (q pos op : Nat) (sub : List Byte → Bool) : Option (List Byte) :=
  match findDesc s q pos with
  | none => none
  | some d =>
    if connected s && decide (byteAt d.bytes 0 = op) && sub d.bytes && (decide (d.st = .executing) || mayStart s q pos)
        && !s.glb.deviceFatal && !(quiesced s && dataOp op) then some d.bytes
    else none

/-- Posted bytes to a host address. -/
def dmaWrite (addr : Nat) (data : List Byte) (s : State) : State := if data.isEmpty then s else post (.mem addr data) s

/-! ### The Harrow's instances (R402, R406) -/

def getHrw (s : State) (h : Nat) : Hrw := tget Hrw.init h s.hrw
def setHrw (h : Nat) (v : Hrw) (s : State) : State := { s with hrw := tset Hrw.init h v s.hrw }

/-! ### Small state updates -/

def getStream (s : State) (k : Nat) : Stream := tget Stream.init k s.streams

def setStream (k : Nat) (v : Stream) (s : State) : State := { s with streams := tset Stream.init k v s.streams }

def updStream (k : Nat) (f : Stream → Stream) (s : State) : State := setStream k (f (getStream s k)) s

def findMsg (s : State) (mid : Nat) : Option Msg := s.msgs.find? (fun m => m.mid = mid)

def updMsg (mid : Nat) (f : Msg → Msg) (s : State) : State :=
  { s with msgs := s.msgs.map (fun m => if m.mid = mid then f m else m) }

def dropMsg (mid : Nat) (s : State) : State := { s with msgs := s.msgs.filter (fun m => m.mid ≠ mid) }

def findFrame (s : State) (fid : Nat) : Option Frame := s.frames.find? (fun f => f.fid = fid)

def updFrame (fid : Nat) (f : Frame → Frame) (s : State) : State :=
  { s with frames := s.frames.map (fun x => if x.fid = fid then f x else x) }

def dropFrame (fid : Nat) (s : State) : State := { s with frames := s.frames.filter (fun x => x.fid ≠ fid) }

/-- Fold an update over a list. -/
def each {α : Type} (l : List α) (f : α → State → State) (s : State) : State := l.foldl (fun s x => f x s) s

end Sys2Proof.Machine
end

