-- ==== Sys2Proof/Machine/Plough.lean ====
section
/-! DEFINITION. The Plough (R91 to R110): parse walk, classification, punts, gleaning and the frames that wait for verdicts. -/
namespace Sys2Proof.Machine

/-! ### Tables (Table HIF-7) -/

def tblKey (table index : Nat) : Nat := 0x10000 * table + index

/-- Bytes of one entry of a TABLE_WRITE table; 0 for a table that Table HIF-7 does not list. -/
def tblWidth (table : Nat) : Nat :=
  match table with
  | 0x10 => 48 | 0x20 => 32 | 0x21 => 8 | 0x22 => 4 | 0x23 => 64 | 0x24 => 144 | 0x25 => 32 | 0x30 => 32 | 0x40 => 672
  | _ => 0

/-- Entries of a table (per port for the station table). -/
def tblCount (table : Nat) : Nat :=
  match table with
  | 0x10 => 32 | 0x20 => 256 | 0x21 => 4096 | 0x22 => 272 | 0x23 => 4096 | 0x24 => 256 | 0x25 => 64 | 0x30 => 256 | 0x40 => 128
  | _ => 0

/-- The bytes without trailing zeros, the form in which an entry is kept. -/
def trimZeros (bs : List Byte) : List Byte := (bs.reverse.dropWhile (fun b => b == 0#8)).reverse

def tblEntry (s : State) (table index : Nat) : List Byte := tget [] (tblKey table index) s.tables

/-- The entry is marked bad (Table HRW-4). -/
def tblIsBad (s : State) (table index : Nat) : Bool := decide (tblKey table index ∈ s.tblBad)

/-- Store an entry's bytes; a mark on it stays. -/
def putEntry (table index : Nat) (bytes : List Byte) (s : State) : State :=
  { s with tables := tset [] (tblKey table index) (trimZeros bytes) s.tables }

/-- A TABLE_WRITE replaces an entry: any mark on it ends (R402). -/
def setEntry (table index : Nat) (bytes : List Byte) (s : State) : State :=
  { putEntry table index bytes s with tblBad := without (tblKey table index) s.tblBad }

/-! ### Reading a frame's bytes (R92) -/

/-- Byte `i` of a frame: `none` while the walk must wait for it; 0 beyond the frame's end. -/
def rdByte (f : Frame) (i : Nat) : Option Nat :=
  match f.bytes[i]? with
  | some (some b) => some b.toNat
  | some none => none
  | none => if f.ended then some 0 else none

/-- `n` bytes from `i`, highest first, as one number. -/
def rdBe (f : Frame) (i : Nat) : Nat → Option Nat
  | 0 => some 0
  | n + 1 =>
    match rdByte f i, rdBe f (i + 1) n with
    | some b, some r => some (b * 256 ^ n + r)
    | _, _ => none

/-- `n` bytes from `i`. -/
def rdBytes (f : Frame) (i : Nat) : Nat → Option (List Byte)
  | 0 => some []
  | n + 1 =>
    match rdByte f i, rdBytes f (i + 1) n with
    | some b, some r => some (BitVec.ofNat 8 b :: r)
    | _, _ => none

/-! ### The walk (R94 to R100) -/

/-- The outcome of a walk: it waits for a byte, fails with a punt reason, meets a later fragment, or builds the vector. -/
inductive WalkOut where
  | wait
  | fail (reason : Nat)
  | later (frag : FragInfo)
  | done
  deriving DecidableEq, Repr

/-- The running values of a walk. -/
structure WalkSt where
  cursor : Nat
  fv : List Byte
  node : Nat
  htype : Nat
  profile : Nat
  ipValid : Bool
  lreq : Nat
  frag : Option FragInfo
  ip6Cur : Nat
  ip6Len : Nat
  ip6Src : Nat
  ip6Dst : Nat
  visits : Nat
  deriving DecidableEq, Repr

/-- Bytes copied into field-vector bytes 8–63 from `dst` on; the others are not written (R94, R96). -/
def fvCopy (fv : List Byte) (dst : Nat) : List Byte → List Byte
  | [] => fv
  | b :: bs => fvCopy (if 8 ≤ dst ∧ dst < 64 then fv.set dst b else fv) (dst + 1) bs

/-- The four extractions of a node (Table PLG-2), in order; `none` while a byte is awaited. -/
def applyExts (f : Frame) (cursor : Nat) : List Nat → List Byte → Option (List Byte)
  | [], fv => some fv
  | x :: xs, fv =>
    if x.testBit 18 then
      match rdBytes f (cursor + bitsOf x 0 8) (bitsOf x 8 4 + 1) with
      | none => none
      | some bs => applyExts f cursor xs (fvCopy fv (bitsOf x 12 6) bs)
    else applyExts f cursor xs fv

/-- (word(off) AND mask) >> shift; a zero mask reads nothing and gives 0 (R96). -/
def selWord (f : Frame) (cursor off mask shift : Nat) : Option Nat :=
  if mask = 0 then some 0
  else (rdBe f (cursor + off) 4).map (fun w => (w &&& mask) >>> shift)

/-- What IP4, IP6 and FRAG6 handling gives (R99): wait, a later fragment, or the walk goes on. -/
inductive IpOut where
  | wait
  | later (frag : FragInfo)
  | go (w : WalkSt)
  deriving DecidableEq, Repr

/-- The handling of a node (R99). DESIGN CHOICE (log 93): of several of IP4, IP6 and FRAG6 set in one node the first in that order is
handled, and of two first-fragment nodes in one walk the later one's key stands. -/
def ipHandling (f : Frame) (w0 len : Nat) (w : WalkSt) : IpOut :=
  let c := w.cursor
  if w0.testBit 8 then
    match rdBe f (c + 2) 2, rdBe f (c + 4) 2, rdBe f (c + 6) 2, rdByte f (c + 9), rdBe f (c + 12) 4, rdBe f (c + 16) 4 with
    | some tot, some ident, some ff, some proto, some src, some dst =>
      let info : FragInfo :=
        { key := [f.ingress, src, dst, proto, ident], off := 8 * bitsOf ff 0 13, more := ff.testBit 13, dataOff := c + len,
          dataLen := tot - len }
      let w := if w.ipValid then w else { w with ipValid := true, lreq := c + tot + 4 }
      if bitsOf ff 0 13 ≠ 0 then .later info
      else if ff.testBit 13 then .go { w with frag := some info }
      else .go w
    | _, _, _, _, _, _ => .wait
  else if w0.testBit 9 then
    match rdBe f (c + 4) 2, rdBe f (c + 8) 16, rdBe f (c + 24) 16 with
    | some plen, some src, some dst =>
      let w := if w.ipValid then w else { w with ipValid := true, lreq := c + plen + 44 }
      .go { w with ip6Cur := c, ip6Len := plen, ip6Src := src, ip6Dst := dst }
    | _, _, _ => .wait
  else if w0.testBit 10 then
    match rdByte f c, rdBe f (c + 2) 2, rdBe f (c + 4) 4 with
    | some nh, some ff, some ident =>
      let info : FragInfo :=
        { key := [f.ingress, w.ip6Src, w.ip6Dst, nh, ident], off := 8 * bitsOf ff 3 13, more := ff.testBit 0,
          dataOff := c + 8, dataLen := w.ip6Cur + 40 + w.ip6Len - (c + 8) }
      if bitsOf ff 3 13 ≠ 0 then .later info
      else if ff.testBit 0 then .go { w with frag := some info }
      else .go w
    | _, _, _ => .wait
  else .go w

/-- Field-vector bytes 0–7 (Table PLG-4). -/
def fvMeta (f : Frame) (w : WalkSt) (endNode : Nat) : List Byte :=
  let lr := if w.ipValid then min w.lreq 16383 else 0
  [BitVec.ofNat 8 f.ingress, BitVec.ofNat 8 f.station, BitVec.ofNat 8 endNode,
   BitVec.ofNat 8 (w.profile + 8 * b2n w.ipValid + 16 * b2n w.frag.isSome)] ++ leBytes 2 lr ++ leBytes 2 (bitsOf w.cursor 0 9)

/-- A node's words cannot be used: it is marked bad, or one of the transition entries in use is. -/
def nodeBad (bad : List Nat) (node ntrans : Nat) : Bool :=
  decide (tblKey 0x20 node ∈ bad) || (List.range ntrans).any (fun i => decide (tblKey 0x21 (16 * node + i) ∈ bad))

/-- One node after another (R96); the first number bounds the nodes still allowed (PLG_MAXDEPTH, R97). A node's words are read when it is
visited: a mark found later does not fail a visit already begun. -/
def walkGo (c : WalkCfg) (f : Frame) : Nat → Nat → WalkSt → WalkOut × WalkSt
  | 0, _, w => (.fail 0x03, w)
  | depth + 1, node, w =>
    let e := tget [] (tblKey 0x20 node) c.tables
    let w0 := leAt e 0 4
    let w2 := leAt e 8 4
    let w3 := leAt e 12 4
    let w4 := leAt e 16 4
    let exts := leAt e 20 12
    let ntrans := min 16 (bitsOf w4 8 5)
    let w := { w with node := node, htype := bitsOf w0 0 8, visits := w.visits + 1 }
    if decide (c.visits < w.visits) && nodeBad c.bad node ntrans then (.fail 0x02, w)
    else
      match selWord f w.cursor (bitsOf w4 0 8) w3 (bitsOf w2 8 5) with
      | none => (.wait, w)
      | some lf =>
        let len := if w3 = 0 then bitsOf w2 24 8 else lf * bitsOf w2 16 4 + bitsOf w2 24 8
        if len = 0 then (.fail 0x02, w)
        else if c.maxBytes < w.cursor + len then (.fail 0x03, w)
        else if f.bytes.length < w.cursor + len ∧ f.ended then (.fail 0x02, w)
        else
          match rdByte f (w.cursor + len - 1) with
          | none => (.wait, w)
          | some _ =>
            match ipHandling f w0 len w with
            | .wait => (.wait, w)
            | .later info => (.later info, w)
            | .go w =>
              match applyExts f w.cursor ((List.range 4).map (fun k => bitsOf exts (24 * k) 24)) w.fv with
              | none => (.wait, w)
              | some fv =>
                match selWord f w.cursor (bitsOf w0 24 8) (leAt e 4 4) (bitsOf w2 0 5) with
                | none => (.wait, w)
                | some sel =>
                  let entries := (List.range ntrans).map (fun i => tget [] (tblKey 0x21 (16 * node + i)) c.tables)
                  let hit := entries.find? (fun t => bitsOf (leAt t 4 4) 8 2 ≠ 0 ∧ leAt t 0 4 = sel)
                  let (kind, next, prof) := match hit with
                    | some t => (bitsOf (leAt t 4 4) 8 2, bitsOf (leAt t 4 4) 0 8, bitsOf (leAt t 4 4) 10 3)
                    | none => (bitsOf w4 13 2, bitsOf w4 15 8, bitsOf w4 23 3)
                  let adv := bitsOf w0 16 8
                  let cursor := w.cursor + (if adv ≠ 0 then adv else len)
                  let w := { w with fv := fv, cursor := cursor }
                  if c.maxBytes < cursor then (.fail 0x03, w)
                  else if kind = 1 then walkGo c f depth next w
                  else if kind = 2 then (.done, { w with profile := prof })
                  else (.fail 0x02, w)

/-- The walk of fixed-offset mode (R94): 16 FIXMAP entries in order. -/
def fixGo (c : WalkCfg) (f : Frame) : List Nat → List Byte → Option (List Byte)
  | [], fv => some fv
  | i :: is, fv =>
    let key := tblKey 0x22 (16 * f.ingress + i)
    let e := leAt (tget [] key c.tables) 0 4
    if e.testBit 19 && decide (key ∉ c.bad) then
      match rdBytes f (bitsOf e 0 9) (bitsOf e 9 4 + 1) with
      | none => none
      | some bs => fixGo c f is (fvCopy fv (bitsOf e 13 6) bs)
    else fixGo c f is fv

/-- The whole walk of a frame under the settings it started with. -/
def walkFrame (c : WalkCfg) (f : Frame) : WalkOut × WalkSt × Nat :=
  let w : WalkSt :=
    { cursor := 0, fv := List.replicate 64 0#8, node := 0, htype := 0, profile := 0, ipValid := false, lreq := 0, frag := none,
      ip6Cur := 0, ip6Len := 0, ip6Src := 0, ip6Dst := 0, visits := 0 }
  if c.graph then
    let (o, w) := walkGo c f c.maxDepth c.start w
    (o, w, w.node)
  else
    match fixGo c f (List.range 16) w.fv with
    | none => (.wait, w, 0xFF)
    | some fv => (.done, { w with fv := fv, cursor := c.fixPayload, profile := c.fixProfile }, 0xFF)

/-- The settings a walk takes at its start (R94, R97, R98). -/
def walkCfg (s : State) (ingress : Nat) : WalkCfg :=
  let w0 := getReg s (0x2400 + 8 * ingress)
  let w1 := getReg s (0x2404 + 8 * ingress)
  { tables := s.tables, bad := s.tblBad, graph := w0.testBit 0, start := bitsOf w0 8 8, fixProfile := bitsOf w1 0 3,
    fixPayload := bitsOf w1 16 9, maxDepth := clampNat 1 16 (regF s 0x2490 0 5), maxBytes := clampNat 64 384 (regF s 0x2494 0 9),
    visits := 0 }

/-- The settings a walk goes on with: those of its start, with the marks found since (R96, R98). A walk in fixed-offset mode has read its
entries at its start. -/
def resumeCfg (s : State) (f : Frame) : WalkCfg :=
  match f.cfg with
  | none => walkCfg s f.ingress
  | some c => if c.graph then { c with bad := c.bad ++ s.tblBad.filter (fun k => k ∉ c.bad) } else c

/-! ### Classification (R104 to R107) -/

def decodeResult (bs : List Byte) : Result :=
  let w0 := leAt bs 0 4
  let w1 := leAt bs 4 4
  { raw := padTo 8 bs, action := bitsOf w0 0 3, cls := bitsOf w0 4 2, stream := bitsOf w0 8 8, slot := bitsOf w0 16 4,
    tmpl := bitsOf w0 20 7, egress := bitsOf w0 27 5, lead := bitsOf w1 0 14, leadBase := w1.testBit 14, xmap := bitsOf w1 16 6,
    segs := [], mapBad := false }

/-- The 33-byte string of a key profile (R104). -/
def exactKey (s : State) (fv : List Byte) (prof : Nat) : List Byte :=
  let mask := getReg s (0x24A0 + 8 * prof) + 2 ^ 32 * getReg s (0x24A4 + 8 * prof)
  let picked := (onesOf 64 mask).map (fun k => (fv[k]?).getD 0#8)
  BitVec.ofNat 8 prof :: padTo 32 (picked.take 32)

def exactMatch (s : State) (key : List Byte) (index : Nat) : Option Result :=
  let e := tblEntry s 0x23 index
  if (byteAt e 0).testBit 7 && decide (bitsOf (byteAt e 0) 0 3 = byteAt key 0) && decide (padTo 32 (slice e 8 32) = key.drop 1)
      && !tblIsBad s 0x23 index then some (decodeResult (slice e 40 8)) else none

def ternMatch (s : State) (fv : List Byte) (index : Nat) : Option Result :=
  let e := tblEntry s 0x24 index
  let hit := (List.range 64).all (fun k =>
    decide ((byteAt fv k) &&& (byteAt e (64 + k)) = (byteAt e k) &&& (byteAt e (64 + k))))
  if (byteAt e 136).testBit 7 && !tblIsBad s 0x24 index && hit then some (decodeResult (slice e 128 8)) else none

/-- The segments of an extraction map in use: (BASE, OFF, LEN), up to the first of length 0 (R107). -/
def xmapSegs (s : State) (map : Nat) : List (Nat × Nat × Nat) :=
  let e := tblEntry s 0x25 map
  let all := (List.range 8).map (fun k => let w := leAt e (4 * k) 4; (bitsOf w 28 2, bitsOf w 0 14, bitsOf w 14 14))
  all.takeWhile (fun x => x.2.2 ≠ 0)

/-- A result with the extraction map it names, read in the same lookup (R98). -/
def withMap (s : State) (r : Result) : Result := { r with segs := xmapSegs s r.xmap, mapBad := tblIsBad s 0x25 r.xmap }

/-- The result of both lookups, and the counter of the table that hit: PLG_EXACT_HIT or PLG_TERN_HIT (R105). DESIGN CHOICE (log 94): where
an exact and a ternary entry both match, only PLG_EXACT_HIT counts. -/
def lookup (s : State) (fv : List Byte) : Option (Result × Nat) :=
  let key := exactKey s fv (bitsOf (byteAt fv 3) 0 3)
  let b := 4 * (crc32c key % 1024)
  match (List.range 4).findSome? (fun w => exactMatch s key (b + w)) with
  | some r => some (withMap s r, 115)
  | none =>
    match (List.range 256).findSome? (fun i => ternMatch s fv i) with
    | some r => some (withMap s r, 116)
    | none => none

/-- The result starts an inference: INFER or INFER_AND_FORWARD (Table PLG-8). -/
def infers (r : Result) : Bool := decide (r.action = 3 ∨ r.action = 4)

/-- An inference result names an extraction map that is marked bad, which is handled as a walk failure (Table HRW-4). -/
def mapFails (r : Result) : Bool := infers r && r.mapBad

/-- The frame byte a base and offset name. -/
def frameBase (f : Frame) (base off : Nat) : Nat := if base = 1 then f.payload + off else off

/-- The lead position that R11 uses (R107). -/
def leadPos (f : Frame) (r : Result) : Nat :=
  let ends := r.segs.map (fun (b, o, l) => if b = 2 then 0 else frameBase f b o + l - 1)
  max ((if r.leadBase then f.payload else 0) + r.lead) (maxOf ends)

/-- The bytes of a request as its message sees them: its frame's, or the datagram's of its fragments (R103). -/
def reqBytes (f : Frame) : List (Option Byte) := if f.dgram.isEmpty then f.bytes else f.dgram

/-- A request byte, 0 where it does not or will not exist. -/
def frameByte (f : Frame) (i : Nat) : Byte := (((reqBytes f)[i]?).getD none).getD 0#8

/-- The model's input: the segments' bytes in segment order (R107). -/
def modelInput (f : Frame) (segs : List (Nat × Nat × Nat)) : List Byte :=
  segs.flatMap (fun (b, o, l) => (List.range l).map (fun k =>
    if b = 2 then (f.fields[(o + k) % 64]?).getD 0#8 else frameByte f (frameBase f b o + k)))

/-- The input of the message that a frame became follows the frame's bytes: a byte that a repair or a later fragment brings reaches the model
when it becomes available (R11, R103). -/
def syncInput (fid : Nat) (s : State) : State :=
  match findFrame s fid with
  | none => s
  | some f =>
    match f.mid with
    | none => s
    | some mid => updMsg mid (fun m => { m with input := modelInput f m.segs }) s

/-- Nothing more of a frame will arrive. -/
def endFrame (fid : Nat) (s : State) : State := updFrame fid (fun f => { f with ended := true }) s

/-! ### Punts (R108 to R110, R356) -/

def puntReg (reason : Nat) : Nat := reason - 1

/-- Thousandths of a token in a reason's bucket: never more than the burst size (R109). -/
def puntLevel (s : State) (k : Nat) : Nat :=
  let cap := 1000 * regF s (0x2520 + 4 * k) 0 16
  match tget 0 k s.plg.tokens with
  | 0 => cap
  | n + 1 => min cap n

/-- Set a bucket's level. -/
def setPuntLevel (k v : Nat) (s : State) : State := { s with plg := { s.plg with tokens := tset 0 k (v + 1) s.plg.tokens } }

/-- The exception header without its PHASE byte (Table HIF-11). -/
def xqHeader (s : State) (f : Frame) (reason nbuf frameLen dataLen bqFirst : Nat) (endNode htype : Nat) (result : List Byte)
    (trunc : Bool) : List Byte :=
  leBytes 1 reason ++ leBytes 1 f.ingress ++ leBytes 1 f.station ++ leBytes 1 endNode ++ leBytes 1 htype ++
    leBytes 1 (b2n f.hasStamp + 2 * b2n trunc) ++ leBytes 2 nbuf ++ leBytes 4 frameLen ++ leBytes 4 dataLen ++ leBytes 4 bqFirst ++
    leBytes 4 0 ++ leBytes 8 f.stamp ++ leBytes 8 (devTime s) ++ padTo 8 result ++ List.replicate 15 0#8

/-- Write the data into successive buffers (R356). -/
def fillBuffers (size : Nat) : List Nat → List Byte → State → State
  | [], _, s => s
  | a :: as, data, s => fillBuffers size as (data.drop size) (dmaWrite a (data.take size) s)

/-- One exception: buffers from the BQ, the data, then the header; or dropped whole (R356). -/
def writeException (f : Frame) (reason frameLen : Nat) (data : List Byte) (endNode htype : Nat) (result : List Byte) (s : State) : State :=
  let size := 256 * clampNat 1 64 (regF s 0x0824 0 8)
  let nbuf := ceilDiv data.length size
  let xq := getRing s 33
  let bq := getRing s 34
  let dropAs := fun (cause : Nat) (s : State) =>
    let s := teleAdd 4 1 (bump (if cause = 0 then 72 else 73) 1 s)
    let s := if s.hif.xqOk then raise 0x0D02 f.ingress cause 0 0 s else s
    { s with hif := { s.hif with xqOk := false } }
  if !connected s then teleAdd 4 1 (bump 75 1 s)
  else if !xq.en || xq.full then dropAs 0 s
  else if s.hif.bufs.length < nbuf then dropAs 1 s
  else
    let first := bq.word bq.cons
    let hdr := xqHeader s f reason nbuf frameLen data.length first endNode htype result (decide (data.length < frameLen))
    let s := fillBuffers size (s.hif.bufs.take nbuf) data s
    let s := setRing 34 { bq with cons := bq.cons + nbuf } s
    let s := { s with hif := { s.hif with bufs := s.hif.bufs.drop nbuf, xqOk := true, shDirty := true } }
    teleAdd 3 1 (writeEntry 33 hdr s)

/-- A punt is decided: it takes one token of its reason, or is dropped (R109). The answer says whether it goes on. -/
def takePunt (reason : Nat) (s : State) : Bool × State :=
  let k := puntReg reason
  if puntLevel s k < 1000 then
    let s := teleAdd 4 1 (bump (136 + k) 1 s)
    (false, if k ∈ s.plg.passed then raise 0x0301 reason 0 0 0 { s with plg := { s.plg with passed := without k s.plg.passed } } else s)
  else
    let s := setPuntLevel k (puntLevel s k - 1000) s
    (true, bump (128 + k) 1 { s with plg := { s.plg with passed := insertNew k s.plg.passed } })

/-- The bytes of a frame as received. -/
def frameBytes (f : Frame) : List Byte := f.bytes.map (fun b => b.getD 0#8)

/-- Write the punt of a frame: of a giant its first 128 bytes, of any other frame all of it (R108). -/
def puntFrame (f : Frame) (reason : Nat) (s : State) : State :=
  let giant := decide (reason = 0x05)
  writeException f reason (if giant then f.giantLen else f.bytes.length) (if giant then (frameBytes f).take 128 else frameBytes f) f.endNode
    f.htype ((f.result.map Result.raw).getD []) s

/-- The walk of a frame has ended: with its decision, or at a later fragment (R96, R99). -/
def walkEnded (f : Frame) : Bool := decide (f.walk ≠ .queued ∧ f.walk ≠ .walking)

/-! ### Egress queues -/

def egressQ (s : State) (e : Nat) : List EgrFrame := tget [] e s.egress

def setEgressQ (e : Nat) (q : List EgrFrame) (s : State) : State := { s with egress := tset [] e q s.egress }

/-- Put a frame behind the others of an egress. -/
def enqueueEgress (e : Nat) (x : EgrFrame) (s : State) : State :=
  setEgressQ e (egressQ s e ++ [{ x with order := s.nextBuild }]) { s with nextBuild := s.nextBuild + 1 }

/-! ### Frames and their decisions -/

/-- A frame is still to be decided, so that a later punt of its ingress waits for it (R110). A fragment in the holding buffer arrives when it
leaves it. -/
def undecided (f : Frame) : Bool :=
  match f.walk with
  | .decided => (f.wantAdmit && f.verdict != some false) || (f.punt.isSome && f.verdict.isNone)
  | .holding => false
  | .following => f.verdict.isNone
  | _ => true

/-- The engine needs the frame no more. -/
def spentFrame (s : State) (f : Frame) : Bool :=
  decide (f.walk = .decided) && f.verdict.isSome && !f.wantAdmit && f.punt.isNone && f.fwd.isNone && f.ended
    && (match f.mid with | none => true | some m => (findMsg s m).isNone)
    && !(s.plg.gleans.any (fun g => g.first = f.fid))

/-- Drop every frame the engine needs no more. -/
def sweepFrames (s : State) : State := { s with frames := s.frames.filter (fun f => !spentFrame s f) }

/-- The results of a classified frame's action (Tables PLG-7, PLG-8). `reason` is the walk's failure reason. -/
def applyMiss (fid ingress : Nat) (reason : Nat) (s : State) : State :=
  let w0 := getReg s (0x2400 + 8 * ingress)
  let s := bump 117 1 s
  let miss := bitsOf w0 16 2
  if miss = 1 then
    if bitsOf w0 24 5 < 16 then updFrame fid (fun f => { f with fwd := some (bitsOf w0 24 5) }) s else bump 118 1 s
  else if miss = 2 then bump 118 1 s
  else updFrame fid (fun f => { f with punt := some reason }) s

def applyResult (fid : Nat) (r : Result) (s : State) : State :=
  let fwd := fun (s : State) =>
    if r.egress < 16 then updFrame fid (fun f => { f with fwd := some r.egress }) s else s
  match r.action with
  | 0 => bump 119 1 s
  | 1 => fwd s
  | 2 => updFrame fid (fun f => { f with punt := some 0x08 }) s
  | 3 => updFrame fid (fun f => { f with wantAdmit := true }) s
  | 4 => fwd (updFrame fid (fun f => { f with wantAdmit := true }) s)
  | _ => bump 120 1 s

end Sys2Proof.Machine
end

