-- ==== Sys2Proof/Machine/Reply.lean ====
section
/-! DEFINITION. Reply templates and the reply builder (R227 to R234): a template, a message and its request give a frame. -/
namespace Sys2Proof.Machine

/-- A reply slot (Table RPL-2). -/
structure RSlot where
  kind : Nat
  be : Bool
  doff : Nat
  len : Nat
  sfmt : Nat
  dfmt : Nat
  oshift : Int
  src : Nat
  sbase : Nat
  l4off : Nat
  deriving DecidableEq, Repr

def decodeSlot (e : List Byte) (k : Nat) : RSlot :=
  let w := fun i => leAt e (288 + 16 * k + 4 * i) 4
  { kind := bitsOf (w 0) 0 4, be := (w 0).testBit 4, doff := bitsOf (w 0) 16 11, len := bitsOf (w 1) 0 11,
    sfmt := bitsOf (w 1) 12 4, dfmt := bitsOf (w 1) 16 4, oshift := toSigned 6 (bitsOf (w 1) 20 6), src := bitsOf (w 2) 0 14,
    sbase := bitsOf (w 2) 14 2, l4off := bitsOf (w 3) 0 11 }

/-- Template fields (Table RPL-1). -/
def tplValid (e : List Byte) : Bool := (byteAt e 4).testBit 7
def tplRlen (e : List Byte) : Nat := bitsOf (leAt e 0 2) 0 11
def tplHlen (e : List Byte) : Nat := bitsOf (leAt e 2 2) 0 9
def tplDest (e : List Byte) : Nat := bitsOf (byteAt e 4) 0 5
def tplSlots (e : List Byte) : List RSlot := (List.range (min 24 (bitsOf (byteAt e 5) 0 5))).map (decodeSlot e)

/-- The end of the bytes a slot writes; 0 for one that writes nothing. -/
def slotEnd (r : RSlot) : Nat :=
  match r.kind with
  | 1 =>
    match fmtOf r.sfmt, fmtOf r.dfmt with
    | some _, some d => if r.len = 0 then 0 else r.doff + ceilDiv (r.len * d.width) 8
    | _, _ => 0
  | 2 => if r.len = 0 then 0 else r.doff + r.len
  | 3 => r.doff + 2
  | 4 => r.doff + 1
  | 5 => r.doff + 1
  | 6 => r.doff + 8
  | 7 => r.src + 12
  | 8 => r.l4off + 8
  | 9 => r.l4off + 8
  | _ => 0

/-- R228: the checks of a template entry written with VALID = 1. -/
def tplOk (e : List Byte) : Bool :=
  let rlen := tplRlen e
  !tplValid e ||
    (decide (60 ≤ rlen ∧ rlen ≤ 2044 ∧ tplHlen e ≤ 256 ∧ tplHlen e ≤ rlen) && (tplSlots e).all (fun r => decide (slotEnd r ≤ rlen)))

/-- Everything a build reads beside the template. -/
structure BuildIn where
  outputs : List Byte
  /-- An error reply: its OUTPUT slots write nothing (R230). -/
  isError : Bool
  req : Frame
  seq : Nat
  status : Nat
  stream : Nat
  time : Nat
  deriving DecidableEq, Repr

/-- Element `i` of the output vector in a source format (R231). -/
def outElem (outs : List Byte) (src w i : Nat) : Nat :=
  if w = 4 then bitsOf (byteAt outs (src + i / 2)) (4 * (i % 2)) 4 else leAt outs (src + i * (w / 8)) (w / 8)

/-- Pack converted elements into destination bytes; `old` gives the bytes that stand there (the free half of an odd last
nibble keeps its bits). -/
def packElems (w : Nat) (be : Bool) (old : List Byte) (xs : List Nat) : List Byte :=
  if w = 4 then
    (List.range (ceilDiv xs.length 2)).map (fun k =>
      let lo := (xs[2 * k]?).getD 0
      let hi := match xs[2 * k + 1]? with
        | some h => h
        | none => byteAt old k / 16
      BitVec.ofNat 8 (lo % 16 + 16 * (hi % 16)))
  else xs.flatMap (fun x => if be then beBytes (w / 8) x else leBytes (w / 8) x)

def putAt (fr : List Byte) (off : Nat) (bs : List Byte) : List Byte := overlay fr off bs

/-- Multi-byte values in the order of the BE bit. -/
def orderBytes (be : Bool) (n v : Nat) : List Byte := if be then beBytes n v else leBytes n v

/-- One slot of kinds 1 to 6. -/
def applySlot (x : BuildIn) (fr : List Byte) (r : RSlot) : List Byte :=
  match r.kind with
  | 1 =>
    match fmtOf r.sfmt, fmtOf r.dfmt with
    | some sf, some df =>
      if x.isError then fr
      else
        let xs := (List.range r.len).map (fun i =>
          (convert sf df FpMode.plain r.oshift (outElem x.outputs r.src sf.width i)).1)
        putAt fr r.doff (packElems df.width r.be (fr.drop r.doff) xs)
    | _, _ => fr
  | 2 =>
    putAt fr r.doff ((List.range r.len).map (fun i =>
      if r.sbase = 2 then (x.req.fields[(r.src + i) % 64]?).getD 0#8
      else frameByte x.req ((if r.sbase = 1 then x.req.payload else 0) + r.src + i)))
  | 3 => putAt fr r.doff (orderBytes r.be 2 x.seq)
  | 4 => putAt fr r.doff (leBytes 1 x.status)
  | 5 => putAt fr r.doff (leBytes 1 x.stream)
  | 6 => putAt fr r.doff (orderBytes r.be 8 x.time)
  | _ => fr

/-- The one's-complement sum of big-endian 16-bit words. -/
def onesSum (bs : List Byte) : Nat :=
  let s := sumOf ((List.range (ceilDiv bs.length 2)).map (fun k => 256 * byteAt bs (2 * k) + byteAt bs (2 * k + 1)))
  let s1 := s % 65536 + s / 65536
  let s2 := s1 % 65536 + s1 / 65536
  s2 % 65536 + s2 / 65536

/-- `n` bytes from `off`, 0x00 beyond the reply's end. -/
def zeroSlice (fr : List Byte) (off n : Nat) : List Byte := (List.range n).map (fun i => (fr[off + i]?).getD 0#8)

/-- The checksum slots, kinds 7 to 9, written most significant byte first (R229). -/
def applyCsum (fr : List Byte) (r : RSlot) : List Byte :=
  let ip := r.src
  let l4 := r.l4off
  let udp := fun (pseudo : List Byte) =>
    let len := beAt fr (l4 + 4) 2
    let body := (zeroSlice fr l4 len).mapIdx (fun i b => if i = 6 ∨ i = 7 then 0#8 else b)
    let c := 65535 - onesSum (pseudo ++ body)
    putAt fr (l4 + 6) (beBytes 2 (if c = 0 then 65535 else c))
  match r.kind with
  | 7 =>
    let hdr := (zeroSlice fr ip (4 * bitsOf (byteAt fr ip) 0 4)).mapIdx (fun i b => if i = 10 ∨ i = 11 then 0#8 else b)
    putAt fr (ip + 10) (beBytes 2 (65535 - onesSum hdr))
  | 8 => udp (zeroSlice fr (ip + 12) 8 ++ [0#8, 17#8] ++ beBytes 2 (beAt fr (l4 + 4) 2))
  | 9 => udp (zeroSlice fr (ip + 8) 32 ++ beBytes 4 (beAt fr (l4 + 4) 2) ++ [0#8, 0#8, 0#8, 17#8])
  | _ => fr

/-- The whole frame with its FCS, and whether an OUTPUT slot held a reserved format code (R229, R231). -/
def buildFrame (e : List Byte) (x : BuildIn) : List Byte × Bool :=
  let slots := tplSlots e
  let fr0 := padTo (tplRlen e) (slice e 32 (tplHlen e))
  let fr1 := slots.foldl (applySlot x) fr0
  let fr2 := slots.foldl applyCsum fr1
  (fr2 ++ fcsBytes fr2,
   !x.isError && slots.any (fun r => decide (r.kind = 1) && ((fmtOf r.sfmt).isNone || (fmtOf r.dfmt).isNone)))

/-- A missing byte of a frame may still come: by a repair, on a trunk whose REPAIR is set (R70), or with a later fragment (R103). -/
def mayMend (s : State) (f : Frame) : Bool :=
  !f.ended && (!f.dgram.isEmpty || (decide (f.ingress < 8) && (getReg s (trkReg f.ingress 0)).testBit 3))

/-- A request byte is available, or never will be (R229): it stands, it lies beyond the frame's end, or nothing can bring it any more. -/
def byteSettled (s : State) (f : Frame) (i : Nat) : Bool :=
  match (reqBytes f)[i]? with
  | some (some _) => true
  | some none => !mayMend s f
  | none => f.ended

/-- Every request byte an ECHO slot reads is available or never will be (R229). -/
def echoReady (s : State) (e : List Byte) (f : Frame) : Bool :=
  (tplSlots e).all (fun r =>
    if r.kind = 2 ∧ r.sbase ≠ 2 then
      (List.range r.len).all (fun i => byteSettled s f ((if r.sbase = 1 then f.payload else 0) + r.src + i))
    else true)

/-- Where a reply of a message goes: DEST, or the request's own ingress (Table RPL-1). -/
def replyDest (e : List Byte) (ingress : Nat) : Nat := if tplDest e < 16 then tplDest e else ingress

/-- A backbone interface 8 + 4p + l is up: its port is enabled and its link bit set. -/
def bbpUp (s : State) (dest : Nat) : Bool :=
  (getReg s (bbpReg ((dest - 8) / 4) 0)).testBit 0 && (getReg s (bbpReg ((dest - 8) / 4) 0x40)).testBit ((dest - 8) % 4)

/-- R234: the destination trunk port is disabled, or the backbone interface is down. -/
def destDown (s : State) (dest : Nat) : Bool :=
  if dest < 8 then !(getReg s (trkReg dest 0)).testBit 0 else if dest < 16 then !bbpUp s dest else false

/-- A reply of L bytes travels as this many EXPRESS codewords before its FINAL (R238). -/
def expressCount (l : Nat) : Nat := if l ≤ 221 then 0 else ceilDiv (l - 221) 222

end Sys2Proof.Machine
end

