-- ==== Sys2Proof/Machine/Msgs.lean ====
section
/-! DEFINITION. The life of a message after admission: statuses, stream policies, fences, endings, commits and gathering
(R113 to R134, R390 to R392), and the freeing of a model bank (R373). -/
namespace Sys2Proof.Machine

/-! ### Statuses (Table GLB-35, R392, Table STR-4) -/

def stDamaged : Nat := 0x10
def stGiant : Nat := 0x11
def stPoison : Nat := 0x20
def stKvErr : Nat := 0x21
def stTainted : Nat := 0x22
def stOverrun : Nat := 0x23
def stFenced : Nat := 0x30
def stShed : Nat := 0x31
def stInternal : Nat := 0x3F

/-- The status a message keeps when `new` is attached: the first stands, but KV_ERR replaces any other except FENCED. -/
def mergeStatus (old : Option Nat) (new : Nat) : Option Nat :=
  match old with
  | none => some new
  | some o => if new = stKvErr ∧ o ≠ stFenced then some new else some o

/-- The reply of a message has been released by its correct CRC, and its last byte is still to leave (R14, R87). -/
def released (m : Msg) : Bool := match m.reply with | some r => r.committed | none => false

/-- The order of R392 for statuses attached in one cycle: the lowest stands. -/
def statusRank (st : Nat) : Nat := [stFenced, stKvErr, stPoison, stInternal, stOverrun, stTainted, stGiant, stDamaged, stShed].idxOf st

/-- A message with a status attached in a cycle (R392): of several in the same cycle the first in the rule's order stands; otherwise as
`mergeStatus` has it. -/
def withStatus (now st : Nat) (m : Msg) : Msg :=
  match m.status with
  | none => { m with status := some st, statusAt := now }
  | some o =>
    if m.statusAt = now ∧ statusRank st < statusRank o then { m with status := some st }
    else { m with status := mergeStatus (some o) st, statusAt := if mergeStatus (some o) st = some o then m.statusAt else now }

/-- Attach an error status to a message (R392), unless its reply has been released. -/
def attach (mid st : Nat) (s : State) : State := updMsg mid (fun m => if released m then m else withStatus s.clk.now st m) s

/-- An error reply is sent under the stream's policy (Table STR-4). -/
def sendsError (st policy : Nat) : Bool :=
  if st = stFenced then false else if st = stShed then true else decide (policy ≠ 2)

/-- The stream fences under its policy (Table STR-4). -/
def fences (st policy : Nat) : Bool :=
  if st = stKvErr then true
  else if st = stPoison ∨ st = stTainted ∨ st = stOverrun ∨ st = stInternal then decide (policy = 1)
  else false

/-! ### Streams -/

/-- Messages of a stream in flight, in sequence order. -/
def inflight (s : State) (k : Nat) : List Msg := s.msgs.filter (fun m => m.stream = k)

/-- INFLIGHT: (NEXT_IN − NEXT_OUT) mod 65,536 (R117). -/
def inflightCount (st : Stream) : Nat := (st.nextIn + 65536 - st.nextOut) % 65536

/-- The message with sequence NEXT_OUT. -/
def oldest (s : State) (k : Nat) : Option Msg :=
  s.msgs.find? (fun m => decide (m.stream = k ∧ m.seq = (getStream s k).nextOut))

/-- A reply has begun: a codeword of it was sent, or its preamble began (R13). -/
def begun (m : Msg) : Bool :=
  match m.reply with
  | none => false
  | some r => decide (0 < r.sent) || r.begun

/-- A message's predecessor in its stream has ended. -/
def isOldest (s : State) (m : Msg) : Bool := decide (m.seq = (getStream s m.stream).nextOut)

/-! ### Slots and banks -/

def getSlot (s : State) (k : Nat) : Slot := tget Slot.init k s.slots

def setSlot (k : Nat) (v : Slot) (s : State) : State := { s with slots := tset Slot.init k v s.slots }

def Slot.bank (v : Slot) (b : Nat) : Bank := if b = 0 then v.a else if b = 1 then v.b else Bank.init

def Slot.setBank (v : Slot) (b : Nat) (x : Bank) : Slot := if b = 0 then { v with a := x } else if b = 1 then { v with b := x } else v

def getBank (s : State) (slot b : Nat) : Bank := (getSlot s slot).bank b

def setBank (slot b : Nat) (x : Bank) (s : State) : State := setSlot slot ((getSlot s slot).setBank b x) s

/-- The bank of a slot that new admissions bind to. -/
def activeBank (s : State) (slot : Nat) : Option Nat :=
  let v := getSlot s slot
  if v.a.st = .active then some 0 else if v.b.st = .active then some 1 else none

/-- BOUND: messages bound to a bank and not yet ended (Table HIF-18). -/
def boundCount (s : State) (slot b : Nat) : Nat := (s.msgs.filter (fun m => decide (m.slot = slot ∧ m.bank = b))).length

def getPlot (s : State) (p : Nat) : Plot := tget Plot.init p s.plots

def setPlot (p : Nat) (v : Plot) (s : State) : State := { s with plots := tset Plot.init p v s.plots }

def updPlot (p : Nat) (f : Plot → Plot) (s : State) : State := setPlot p (f (getPlot s p)) s

def findGroup (s : State) (g : Nat) : Option Group := s.groups.find? (fun x => x.gid = g)

def updGroup (g : Nat) (f : Group → Group) (s : State) : State :=
  { s with groups := s.groups.map (fun x => if x.gid = g then f x else x) }

/-- A plot leaves its group: FREE unless it is retired. It keeps no resident contents (R262). -/
def freePlot (p : Nat) (s : State) : State :=
  updPlot p (fun v => { v with st := if v.st = .retired then .retired else .free, group := none, buf := [], bufBad := [], sums := [] }) s

/-- The groups of a bank and their plots become free. -/
def dropGroups (slot b : Nat) (s : State) : State :=
  let gs := s.groups.filter (fun g => decide (g.slot = slot ∧ g.bank = b))
  let s := each (gs.flatMap (fun g => g.plots ++ (g.rot.map Rot.target).getD [])) freePlot s
  { s with groups := s.groups.filter (fun g => !decide (g.slot = slot ∧ g.bank = b)) }

/-- A bank becomes EMPTY and its plots free. -/
def emptyBank (slot b : Nat) (s : State) : State := setBank slot b Bank.init (dropGroups slot b s)

/-- R373: a retiring bank whose BOUND is 0 becomes EMPTY, and INS_BANK_FREED is raised. -/
def freeIfUnbound (slot b : Nat) (s : State) : State :=
  let k := getBank s slot b
  if k.retiring && decide (boundCount s slot b = 0) then raise 0x0E02 slot b 0 0 (emptyBank slot b s) else s

/-! ### Gathering (R130 to R132) -/

def updSheaf (sid : Nat) (f : Sheaf → Sheaf) (s : State) : State :=
  { s with sheaves := s.sheaves.map (fun x => if x.sid = sid then f x else x) }

def findSheaf (s : State) (sid : Nat) : Option Sheaf := s.sheaves.find? (fun x => x.sid = sid)

/-- The gather window of a class in ns (Table SOW-1). -/
def gatherWindow (s : State) (cls : Nat) : Nat := if cls = 0 then 0 else regF s (0x2600 + 4 * (cls - 1)) 0 16

/-- The forming sheaf of a key. -/
def formingSheaf (s : State) (m : Msg) : Option Sheaf :=
  s.sheaves.find? (fun x => x.forming && decide (x.slot = m.slot ∧ x.bank = m.bank ∧ x.pass = m.pass ∧ x.cls = m.cls))

/-- A sheaf closes: it counts in SOW_SHEAF_CNT and SOW_SHEAF_MEMBERS of its class. -/
def closeSheaf (sid : Nat) (s : State) : State :=
  match findSheaf s sid with
  | none => s
  | some x =>
    if x.forming then
      let s := updSheaf sid (fun x => { x with forming := false, closeAt := s.clk.now }) s
      bump (7 + x.cls) x.members.length (bump (3 + x.cls) 1 s)
    else s

/-- Open a sheaf with one member; it closes at once for Saffron and for a window of 0. -/
def openSheaf (m : Msg) (s : State) : State :=
  let w := gatherWindow s m.cls
  let sid := s.nextSid
  let x : Sheaf :=
    { sid := sid, slot := m.slot, bank := m.bank, cls := m.cls, pass := m.pass, members := [m.mid], forming := true, window := w,
      t0 := s.clk.now, closeAt := 0, granted := none, resTaken := 0, die := 0, waitT0 := none, gateWait := false, gateOpen := false }
  let s := { s with sheaves := s.sheaves ++ [x], nextSid := sid + 1 }
  let s := updMsg m.mid (fun m => { m with loc := .sheaf sid }) s
  if w = 0 then closeSheaf sid s else s

/-- One message enters gathering at its pass: it opens or joins the forming sheaf of its key (R131). A Saffron message is a sheaf of one
(R132). -/
def gatherMsg (m : Msg) (s : State) : State :=
  if m.cls = 0 then openSheaf m s
  else
    match formingSheaf s m with
    | none => openSheaf m s
    | some x =>
      let s := updSheaf x.sid (fun x => { x with members := x.members ++ [m.mid] }) s
      let s := updMsg m.mid (fun m => { m with loc := .sheaf x.sid }) s
      if x.members.length + 1 = 32 then closeSheaf x.sid s else s

/-- The message waits to gather, and no forming sheaf of its key holds a message of its stream (R131). -/
def mayGather (s : State) (m : Msg) : Bool :=
  decide (m.loc = .gather) && !m.held &&
    (decide (m.cls = 0) || match formingSheaf s m with
      | none => true
      | some x => decide (m.stream ∉ x.members.filterMap (fun i => (findMsg s i).map Msg.stream)))

/-- Up to `n` messages gather, each time the first in admission order that may: a sheaf that closes lets one that it held back open the
next. -/
def gatherSome : Nat → State → State
  | 0, s => s
  | n + 1, s =>
    match s.msgs.find? (mayGather s) with
    | none => s
    | some m => gatherSome n (gatherMsg m s)

/-- Messages waiting to gather enter in admission order. -/
def gatherAll (s : State) : State := gatherSome s.msgs.length s

def getYd (s : State) (d : Nat) : YokeDie := tget YokeDie.init d s.yoke.dies
def setYd (d : Nat) (v : YokeDie) (s : State) : State := { s with yoke := { s.yoke with dies := tset YokeDie.init d v s.yoke.dies } }

/-- Energy returns to a die: first to work credit, up to the work credit taken, the rest to its reserve bucket (R319). -/
def refund (d amount work : Nat) (s : State) : State :=
  let y := getYd s d
  setYd d { y with credit := y.credit + min amount work, reserve := y.reserve + (amount - work) } s

/-- A pass of the sheaf runs. -/
def sheafRuns (s : State) (sid : Nat) : Bool :=
  s.groups.any (fun g => match g.run with | some r => decide (r.sid = sid) | none => false)

/-- Take a message out of its sheaf; a sheaf left empty ends, its reservation returns, and it waits on no gate (R133). -/
def leaveSheaf (mid : Nat) (s : State) : State :=
  let s := { s with sheaves := s.sheaves.map (fun (x : Sheaf) => ({ x with members := without mid x.members } : Sheaf)) }
  let gone := s.sheaves.filter (fun x => x.members.isEmpty && !sheafRuns s x.sid)
  let s := each gone (fun x s => match x.granted with
    | some e => refund x.die e (e - x.resTaken) s
    | none => s) s
  let dead := gone.map Sheaf.sid
  { s with sheaves := s.sheaves.filter (fun x => x.sid ∉ dead),
           waits := s.waits.filter (fun w => !decide (1040 ≤ w.req ∧ w.key ∈ dead)) }

/-! ### Ending a message (R118, R123, R126) -/

/-- KV commit of a released message (R123). -/
def commitKv (m : Msg) (s : State) : State :=
  updStream m.stream (fun st =>
    if st.pcap = 0 then st
    else { st with kvHead := (st.kvHead + st.newPos) % st.pcap, kvLen := min (st.kvLen + st.newPos) st.kvCap }) s

/-- The reply of a message from INJECT leaves the queue of its trunk: it has not begun, and is not to be sent (R233). -/
def dropInject (mid : Nat) (s : State) : State :=
  { s with egress := (s.egress.map (fun (e, q) => (e, q.filter (fun x => x.kind ≠ .injectReply mid)))).filter (fun x => !x.2.isEmpty) }

/-- Hold a message (R126): outputs and staged rows are discarded, its number is kept. -/
def holdMsg (mid : Nat) (s : State) : State :=
  let s := dropInject mid (leaveSheaf mid s)
  bump 2 1 (updMsg mid (fun m => { m with held := true, outputs := none, staged := false, rowsOut := [], reply := none, loc := .idle, late := false }) s)

/-- A stream fences after its failing message has ended (R126). -/
def fenceStream (k st seq : Nat) (s : State) : State :=
  let s := updStream k (fun v => { v with st := .fenced }) s
  let s := raise 0x0401 k st seq 0 s
  each ((inflight s k).filter (fun m => !m.held) |>.map Msg.mid) holdMsg s

/-- A DRAINING stream at INFLIGHT 0 becomes CLOSED: STREAM_CLOSE completes, STR_CLOSED, the echo entry empties (R113). -/
def closeStream (k : Nat) (s : State) : State :=
  let v := getStream s k
  let s := setStream k { v with st := .closed, closeWait := none, echo := none } s
  let s := raise 0x0403 k 0 0 0 s
  match v.closeWait with
  | some (q, pos) => complete q pos 0 0 0 0 s
  | none => s

/-- Steps 2 to 5 of a STREAM_RESET, once every begun reply has ended; a STREAM_CLOSE that came meanwhile completes BAD_STATE (R127). -/
def finishReset (k : Nat) (r : ResetReq) (s : State) : State :=
  let s := match (getStream s k).closeWait with
    | some (q, pos) => complete q pos 0x42 0 0 0 s
    | none => s
  let s := updStream k (fun v =>
    { v with st := .opened, kvLen := if r.keepKv then v.kvLen else 0, kvHead := if r.keepKv then v.kvHead else 0,
             nextIn := r.seqStart, nextOut := r.seqStart, resetWait := none, closeWait := none, mismatchSeen := false,
             unboundSeen := false, overrunSeen := false, echo := none }) s
  complete r.sq r.pos 0 0 0 0 s

/-- What follows when a stream has no message in flight. -/
def idleStream (k : Nat) (s : State) : State :=
  let v := getStream s k
  if inflightCount v = 0 then
    match v.resetWait with
    | some r => finishReset k r s
    | none => if v.st = .draining then closeStream k s else s
  else s

/-- The next message of a stream, detached until its predecessor ended, gathers again at its pass (R134). -/
def wakeDetached (k : Nat) (s : State) : State :=
  match oldest s k with
  | some m => if m.loc = .detached then gatherAll (updMsg m.mid (fun m => { m with loc := .gather }) s) else s
  | none => s

/-- The oldest message of its stream ends with its final status: NEXT_OUT advances, its outcome is recorded, its KV commits
when it was released without error, its INJECT descriptor completes, and its stream may fence (R118, R123, R126). -/
def endOne (mid : Nat) (s : State) : State :=
  match findMsg s mid with
  | none => s
  | some m =>
    let final := match m.status with
      | some e => e
      | none => if m.late then 1 else 0
    let isErr := m.status.isSome
    let s := teleAdd 0 1 (bump (256 + m.stream) 1 s)
    let s := if isErr then bump (512 + m.stream) 1 s else s
    let s := if final = stShed then teleAdd 5 1 s else s
    let s := if isErr || released m then s else commitKv m s
    let s := updStream m.stream (fun v => { v with nextOut := (v.nextOut + 1) % 65536, lastStatus := final, lastSeq := m.seq }) s
    let s := dropMsg mid (leaveSheaf mid s)
    let s := match m.origin with
      | some (q, pos) =>
        let full := match m.reply with
          | some r => if r.dest = 16 then r.bytes.length else 0
          | none => 0
        complete q pos final (m.seq + 65536 * m.stream) full 0 s
      | none => s
    let v := getStream s m.stream
    let s := if isErr && !m.noFence && fences final v.policy && decide (v.st = .opened) then fenceStream m.stream final m.seq s else s
    let s := freeIfUnbound m.slot m.bank s
    let s := idleStream m.stream s
    wakeDetached m.stream s

/-- The build inputs of a message's reply. -/
def buildIn (s : State) (m : Msg) (isError : Bool) : BuildIn :=
  let blank : Frame :=
    { fid := 0, ingress := m.ingress, station := 0x3F, bytes := [], dgram := [], ended := true, verdict := none, giant := false,
      walk := .decided, engine := 0, cfg := none, fields := [], endNode := 0, htype := 0, payload := 0, lreq := 0, ipValid := false,
      frag := none, gleaned := false, result := none, wantAdmit := false, punt := none, paid := false, giantLen := 0, fwd := none, mid := none,
      origin := none, stamp := 0, hasStamp := false, pri := 0, tEnd := none }
  { outputs := m.outputs.getD [], isError := isError, req := (findFrame s m.fid).getD blank, seq := m.seq,
    status := match m.status with | some e => e | none => if m.late then 1 else 0,
    stream := m.stream, time := devTime s }

/-- A built reply frame of a message. -/
def mkReply (s : State) (m : Msg) (bytes : List Byte) (dest : Nat) (isError : Bool) : Reply :=
  { bytes := bytes, dest := dest, isError := isError, asData := m.origin.isSome && decide (dest < 8), buildNo := s.nextBuild,
    sent := 0, lane := none, begun := false, committed := false, stomped := false, readyAt := 0 }

/-- RPLADDR and RPLCAP of the INJECT descriptor a message came from. -/
def injectTarget (s : State) (m : Msg) : Option (Nat × Nat) :=
  match m.origin with
  | none => none
  | some (q, pos) => (findDesc s q pos).map (fun d => (leAt d.bytes 24 8, leAt d.bytes 20 4))

/-- A reply whose destination is the host is written to RPLADDR, up to RPLCAP bytes (R352). -/
def writeHostReply (m : Msg) (bytes : List Byte) (s : State) : State :=
  match injectTarget s m with
  | some (addr, cap) => if connected s then dmaWrite addr (bytes.take cap) s else s
  | none => s

/-- Put a reply in the egress queue of a trunk as DATA (R233). -/
def queueInjectReply (m : Msg) (bytes : List Byte) (dest : Nat) (s : State) : State :=
  enqueueEgress dest { kind := .injectReply m.mid, bytes := bytes, pri := 0, sent := 0, lane := none, order := 0 } s

/-- Build the error reply of the oldest message of a stream, with no outputs (R230); `none` where it sends nothing: the
template is invalid or bad (R232), or the destination is down (R234). -/
def errorReply (m : Msg) (s : State) : Option Reply × State :=
  let e := tblEntry s 0x40 m.tmpl
  if !tplValid e || tblIsBad s 0x40 m.tmpl then
    (none, raise 0x0802 m.tmpl m.stream m.seq 0 (bump 37 1 s))
  else
    let dest := replyDest e m.ingress
    if destDown s dest then (none, bump 38 1 s)
    else (some (mkReply s m (buildFrame e (buildIn s m true)).1 dest true), bump 35 1 { s with nextBuild := s.nextBuild + 1 })

/-- The error reply of a message must still wait for a request byte that an ECHO slot of its template reads (R229). -/
def errorWaits (m : Msg) (s : State) : Bool :=
  let e := tblEntry s 0x40 m.tmpl
  tplValid e && !tblIsBad s 0x40 m.tmpl && !destDown s (replyDest e m.ingress) && !echoReady s e (buildIn s m true).req

/-- A released reply that carries LATE counts (R15). -/
def countLate (m : Msg) (s : State) : State := if m.late then teleAdd 1 1 (bump 34 1 s) else s

/-- Carry a stream forward as far as its oldest messages have failed without a begun reply: each sends its error reply or
nothing under the policy (Table STR-4), and ends in its place (R118, R125); a reply to the host is written in its turn (R233). `fuel` bounds the
messages in flight (R119). DESIGN CHOICE (log 97): an error reply that is built and has not begun is not built again when KV_ERR then
replaces the message's status: its STATUS slot keeps the status it was built with. -/
def settle (k : Nat) : Nat → State → State
  | 0, s => s
  | fuel + 1, s =>
    match oldest s k with
    | none => s
    | some m =>
      let v := getStream s k
      if m.held && decide (v.st = .fenced) && !m.noFence then s
      else
        match m.status with
        | none =>
          match m.reply with
          | some r => if r.dest = 16 then settle k fuel (endOne m.mid (countLate m (writeHostReply m r.bytes s))) else s
          | none => s
        | some st =>
          if begun m then s
          else if m.silent || !sendsError st v.policy then settle k fuel (endOne m.mid s)
          else if (match m.reply with | some r => r.isError | none => false) then s
          else
            let s := dropInject m.mid s
            if errorWaits m s then s
            else match errorReply m s with
            | (none, s) => settle k fuel (endOne m.mid s)
            | (some r, s) =>
              let s := updMsg m.mid (fun m => { m with reply := some r }) s
              if r.dest = 16 then settle k fuel (endOne m.mid (writeHostReply m r.bytes s))
              else if r.asData then queueInjectReply m r.bytes r.dest s
              else s

/-- At most 4 messages are in flight (R119). -/
def settleStream (k : Nat) (s : State) : State := settle k 5 s

/-- Attach a status to a message and carry its stream forward. -/
def failMsg (st mid : Nat) (s : State) : State :=
  match findMsg s mid with
  | none => s
  | some m => settleStream m.stream (attach mid st s)

/-- A message whose reply sends nothing: it ends INTERNAL in stream order (R118, R232, R234). -/
def sendNothing (m : Msg) (s : State) : State :=
  settleStream m.stream (attach m.mid stInternal (updMsg m.mid (fun m => { m with silent := true, outputs := none }) s))

/-- End the oldest message of a stream, then carry the stream forward. -/
def endMsg (mid : Nat) (s : State) : State :=
  match findMsg s mid with
  | none => s
  | some m => settleStream m.stream (endOne mid s)

/-- Mark a message TAINTED for a discarded token of a plot (R167): once, or PLT_LATE_TAINT when it has ended or a correct CRC has released
it. -/
def taintMsg (plot mid : Nat) (s : State) : State :=
  match findMsg s mid with
  | none => bump (960 + 15 * plot + 7) 1 s
  | some m =>
    if released m then bump (960 + 15 * plot + 7) 1 s
    else if m.status = some stTainted then s
    else failMsg stTainted mid (updMsg mid (fun m => { m with outputs := none, staged := false, rowsOut := [] }) s)

/-- The messages that a token's tag names in a group's member tables (R167). -/
def tagOwners (g : Group) (tag : Nat) : List Nat :=
  let tbl := tget [] (bitsOf tag 13 2) g.tables
  if tag.testBit 15 then tbl
  else match tbl[bitsOf tag 8 5]? with
    | some m => [m]
    | none => []

/-- Taint the owners of a discarded token on a plot. -/
def taintOwners (plot tag : Nat) (s : State) : State :=
  match (getPlot s plot).group with
  | none => s
  | some gid =>
    match findGroup s gid with
    | none => s
    | some g => each (tagOwners g tag) (taintMsg plot) s

end Sys2Proof.Machine
end

