-- ==== Sys2Proof/Machine/Backbone.lean ====
section
/-! DEFINITION. The sending side of the backbone ports (R79 to R88): pauses, the start of a frame, the aligned start and the CRC
decision, and the recognition of a site schedule frame (R90). -/
namespace Sys2Proof.Machine

def getBb (s : State) (l : Nat) : Bb := tget Bb.init l s.bbs
def setBb (l : Nat) (b : Bb) (s : State) : State := { s with bbs := tset Bb.init l b s.bbs }
def updBb (l : Nat) (f : Bb → Bb) (s : State) : State := setBb l (f (getBb s l)) s

/-- Count one in backbone counter `k` of the port of interface `l` (Table GLB-20). -/
def bbpCount (l k : Nat) (s : State) : State := bump (928 + 16 * (l / 4) + k) 1 s

/-- MODE and FC of the port of an interface. -/
def bbMode (s : State) (l : Nat) : Nat := regF s (bbpReg (l / 4) 0) 1 3
def bbFc (s : State) (l : Nat) : Nat := regF s (bbpReg (l / 4) 0) 4 2

/-- The interface exists in the port's mode (Table BBP-1). -/
def bbExists (s : State) (l : Nat) : Bool :=
  let m := bbMode s l
  if m ≤ 3 then decide (l % 4 = 0) else decide (m ≤ 5)

/-- Byte time and availability bound in hundredths of a nanosecond (Table BBP-4). -/
def byteTime (s : State) (l : Nat) : Nat := if bbMode s l ≤ 3 then 8 else 32
def availBound (s : State) (l : Nat) : Nat := if bbMode s l ≤ 3 then 16000 else 31000

/-- The priority of a frame: PCP of its outermost VLAN tag, or BBP_DEF_PRI of the port of interface `l` (R82). DESIGN CHOICE (log 98): for a
frame that leaves, that is the port it leaves by, and a reply's tag is read from the frame as it was built. -/
def framePri (s : State) (l : Nat) (bs : List Byte) : Nat :=
  if 15 ≤ bs.length ∧ (beAt bs 12 2 = 0x8100 ∨ beAt bs 12 2 = 0x88A8) then byteAt bs 14 / 32 else regF s (bbpReg (l / 4) 0x14) 0 3

/-- A received pause holds back frames of a priority (R81, R82). -/
def bbPaused (s : State) (l pri : Nat) : Bool :=
  let b := getBb s l
  if bbFc s l = 1 then b.paused.testBit 8
  else if bbFc s l = 2 then (getReg s (bbpReg (l / 4) 4)).testBit pri && b.paused.testBit pri
  else false

/-! ### Flow control toward the peer (R83) -/

/-- Bytes an interface's ingress buffer holds: of the frames the engine still needs; `pri` 8 means all priorities. -/
def bbOcc (s : State) (l pri : Nat) : Nat :=
  sumOf ((s.frames.filter (fun f => decide (f.ingress = 8 + l ∧ (pri = 8 ∨ f.pri = pri)))).map (fun f => f.bytes.length))

/-- One threshold comparison: above BBP_XOFF a pause goes out, below BBP_XON one with quanta 0. -/
def flowOne (l bit : Nat) (s : State) : State :=
  let b := getBb s l
  let occ := bbOcc s l bit
  if !b.xoff.testBit bit && decide (regF s (bbpReg (l / 4) 8) 0 20 < occ) then
    setBb l { b with xoff := setBitTo b.xoff bit true, flow := b.flow ++ [(bit, regF s (bbpReg (l / 4) 0x10) 0 16)] } s
  else if b.xoff.testBit bit && decide (occ < regF s (bbpReg (l / 4) 0xC) 0 20) then
    setBb l { b with xoff := setBitTo b.xoff bit false, flow := b.flow ++ [(bit, 0)] } s
  else s

/-- The pauses that the port's setting allows toward the peer: bit 8 under PAUSE, the enabled priorities under PFC (R81). -/
def flowBits (s : State) (l : Nat) : Nat :=
  if bbFc s l = 1 then 256 else if bbFc s l = 2 then getReg s (bbpReg (l / 4) 4) % 256 else 0

/-- Compare occupancy with the thresholds: of the interface under PAUSE, of each enabled priority under PFC; nothing is sent on an interface that
is down. A pause that the setting no longer allows is forgotten. -/
def flowCheck (l : Nat) (s : State) : State :=
  if (getBb s l).xoff = 0 ∧ (s.frames.any (fun f => f.ingress = 8 + l)) = false then s
  else if (getBb s l).xoff &&& flowBits s l ≠ (getBb s l).xoff then updBb l (fun b => { b with xoff := b.xoff &&& flowBits s l }) s
  else if !bbpUp s (8 + l) then s
  else if bbFc s l = 1 then flowOne l 8 s
  else if bbFc s l = 2 then each (onesOf 8 (getReg s (bbpReg (l / 4) 4))) (flowOne l) s
  else s

/-! ### Starting a frame (R82, R85, R86, R235) -/

/-- R85: the reply takes the aligned form: its request came in on a backbone interface with an IP length that implies at most 9,600
bytes, and it was built before the verdict. -/
def isAligned (s : State) (m : Msg) (r : Reply) : Bool :=
  !r.isError && !r.stomped && !m.late && decide (8 ≤ r.dest ∧ 8 ≤ m.ingress ∧ m.ingress < 16) &&
    (match findFrame s m.fid with
      | some f => f.ipValid && decide (max 64 f.lreq ≤ 9600)
      | none => false)

/-- The predicted verdict V of R85 for a request that arrived from `t0` on; times in hundredths of a nanosecond. -/
def predictedVerdict (t0 byteTime bound lreq : Nat) : Nat := t0 + (8 + max 64 lreq) * byteTime + bound

/-- The third bound of R85: V + BBP_GATE_MARGIN − (8 + L_rpl − 4) byte times, in hundredths of a nanosecond. -/
def alignedStart (v marginNs lrpl byteTime : Nat) : Nat := v + 100 * marginNs - (8 + lrpl - 4) * byteTime

/-- A reply that may start as it stands: not aligned, in its turn, its request's verdict known (R86, R235). -/
def bbReplyReady (s : State) (l : Nat) (m : Msg) : Option Reply :=
  match m.reply with
  | none => none
  | some r =>
    if decide (r.dest = 8 + l) && !r.begun && isOldest s m && !isAligned s m r && !bbPaused s l (framePri s l r.bytes) &&
        (if r.isError then m.verdict.isSome else m.status.isNone && decide (m.verdict = some true)) then some r else none

/-- The ordinary frames of an interface that may start. -/
def bbEgrReady (s : State) (l : Nat) : List EgrFrame :=
  (egressQ s (8 + l)).filter (fun x => x.lane.isNone && !bbPaused s l (framePri s l x.bytes))

/-- R88, one-step: originTimestamp takes the time the engine took the frame, correctionField gains the residence up to the timestamp
point, and the UDP checksum is cleared over IPv4 and adjusted over IPv6. `bs` has its FCS. -/
def oneStep (bs : List Byte) (ptpOff udpOff took stamp : Nat) : List Byte :=
  let body := bs.take (bs.length - 4)
  let origin := beBytes 6 (took / 1000000000) ++ beBytes 4 (took % 1000000000)
  let corr := beBytes 8 (beAt body (ptpOff + 8) 8 + 65536 * (stamp - took))
  let new := overlay (overlay body (ptpOff + 34) origin) (ptpOff + 8) corr
  let et := etherType body 12 16
  let new :=
    if udpOff = 0 then new
    else if et = 0x86DD then
      let c := onesFold (65535 - beAt body (udpOff + 6) 2 + (65535 - onesSum (body.drop udpOff)) + onesSum (new.drop udpOff))
      overlay new (udpOff + 6) (beBytes 2 (if 65535 - c = 0 then 65535 else 65535 - c))
    else overlay new (udpOff + 6) [0#8, 0#8]
  new ++ fcsBytes new
where
  etherType (b : List Byte) (o : Nat) : Nat → Nat
    | 0 => beAt b o 2
    | n + 1 => if beAt b o 2 = 0x8100 ∨ beAt b o 2 = 0x88A8 then etherType b (o + 4) n else beAt b o 2
  onesFold (x : Nat) : Nat :=
    let a := x % 65536 + x / 65536
    a % 65536 + a / 65536

/-- DEV_TIME at the message timestamp point of a frame whose preamble begins now: 8 byte times on, in whole nanoseconds. -/
def txStamp (s : State) (l : Nat) : Nat := devTime s + 8 * byteTime s l / 100

/-- The preamble of a reply begins. -/
def startReply (l : Nat) (m : Msg) (r : Reply) (aligned : Bool) (s : State) : State :=
  updBb l (fun b => { b with tx := some { mid := some m.mid, order := r.buildNo, aligned := aligned, crc := 0, bytes := r.bytes, stamp := txStamp s l } })
    (updMsg m.mid (fun m => { m with reply := some { r with begun := true } }) s)

/-- An ordinary frame begins; it stays at its place in the queue, marked, until its last byte has left. -/
def startEgr (l : Nat) (x : EgrFrame) (s : State) : State :=
  let stamp := txStamp s l
  let bytes := match x.kind with
    | .puntReturn _ _ ptp p u took => if ptp = 1 then oneStep x.bytes p u took stamp else x.bytes
    | _ => x.bytes
  updBb l (fun b => { b with tx := some { mid := none, order := x.order, aligned := false, crc := 1, bytes := bytes, stamp := stamp } })
    (setEgressQ (8 + l) ((egressQ s (8 + l)).map (fun y => if y.order = x.order then { y with lane := some 0 } else y)) s)

/-- The frames of an interface that is down are dropped; a PUNT_RETURN completes with BAD_STATE. -/
def bbDropQueue (l : Nat) (s : State) : State :=
  let q := egressQ s (8 + l)
  each q (fun x s => bbpCount l 5 (match x.kind with | .puntReturn sq pos _ _ _ _ => complete sq pos 0x42 0 0 0 s | _ => s))
    (setEgressQ (8 + l) [] s)

/-- Start the next frame of an interface if it is free: the one queued first among those that may start. -/
def bbKick (l : Nat) (s : State) : State :=
  if (egressQ s (8 + l)).isEmpty && !s.msgs.any (fun m => match m.reply with | some r => decide (r.dest = 8 + l) | none => false) then s
  else if !bbpUp s (8 + l) then (if (egressQ s (8 + l)).isEmpty then s else bbDropQueue l s)
  else if (getBb s l).tx.isSome then s
  else
    let rs := s.msgs.filterMap (fun m => (bbReplyReady s l m).map (fun r => (m, r)))
    let r? := rs.foldl (fun (b : Option (Msg × Reply)) x => match b with
      | some y => if x.2.buildNo < y.2.buildNo then some x else b
      | none => some x) none
    match r?, (bbEgrReady s l).head? with
    | some (m, r), some x => if r.buildNo < x.order then startReply l m r false s else startEgr l x s
    | some (m, r), none => startReply l m r false s
    | none, some x => startEgr l x s
    | none, none => s

/-- Bring the backbone interfaces up to date after frames or replies have moved. -/
def bbSettle (s : State) : State := each (List.range 8) (fun l s => bbKick l (flowCheck l s)) s

/-! ### ALIGNED_REPLY_START, ALIGNED_CRC_DECISION, BBP_TX_FRAME_END (R85 to R88, R118) -/

/-- ALIGNED_REPLY_START, R85: the start time of message `mid`'s aligned reply has come; it begins if its interface is free. -/
def alignedReplyStart (mid : Nat) (s : State) : State :=
  match findMsg s mid with
  | none => s
  | some m =>
    match m.reply with
    | none => s
    | some r =>
      let l := r.dest - 8
      if isAligned s m r && !r.begun && m.status.isNone && isOldest s m && bbpUp s r.dest && (getBb s l).tx.isNone &&
          !bbPaused s l (framePri s l r.bytes) && decide (r.dest < 16) then startReply l m r true s
      else s

def execAlignedReplyStart (mid : Nat) (s : State) : Out := .next (alignedReplyStart mid s)

/-- ALIGNED_CRC_DECISION, R87. -/
def crcDecision (l : Nat) (s : State) : State :=
  match (getBb s l).tx with
  | none => s
  | some x =>
    match x.mid with
    | none => s
    | some mid =>
      match findMsg s mid with
      | none => s
      | some m =>
        if !x.aligned || decide (x.crc ≠ 0) then s
        else
          let put := fun (c : Nat) (s : State) => updBb l (fun b => { b with tx := some { x with crc := c } }) s
          if m.status.isSome ∨ m.verdict = some false then bbpCount l 6 (put 2 s)
          else if m.verdict = some true then
            commitKv m (put 1 (updMsg mid (fun m => { m with reply := m.reply.map (fun r => { r with committed := true }) }) s))
          else raise 0x0205 l m.stream 0 0 (bbpCount l 7 (put 3 s))

def execAlignedCrcDecision (l : Fin 8) (s : State) : Out := .next (crcDecision l s)

/-- The bytes as they leave: a stomped frame carries the inverted CRC (R87). -/
def txBytes (x : BbTx) : List Byte :=
  if x.crc = 2 ∨ x.crc = 3 then x.bytes.take (x.bytes.length - 4) ++ (x.bytes.drop (x.bytes.length - 4)).map (fun b => ~~~b) else x.bytes

/-- The last byte of a reply that releases nothing has left: it was stomped, or its message failed before that byte (R87, R233). The error
frame follows directly, or the message ends. -/
def afterStomp (l mid : Nat) (s : State) : State :=
  match findMsg s mid with
  | none => s
  | some m =>
    let s := settleStream m.stream (updMsg mid (fun m => { m with reply := none }) s)
    match findMsg s mid with
    | none => s
    | some m =>
      match m.reply with
      | some r => if r.dest = 8 + l ∧ bbPaused s l (framePri s l r.bytes) = false then startReply l m r false s else s
      | none => s

/-- The last byte of a reply frame has left (R118). -/
def replySent (l : Nat) (x : BbTx) (mid : Nat) (s : State) : State :=
  match findMsg s mid with
  | none => s
  | some m =>
    if x.crc = 2 then afterStomp l mid s
    else if x.crc = 3 then
      settleStream m.stream (updMsg mid (fun m => { m with reply := m.reply.map (fun r => { r with begun := false, stomped := true }) }) s)
    else
      let isError := match m.reply with | some r => r.isError | none => false
      if isError && !m.silent then endMsg mid s
      else if m.status.isSome then afterStomp l mid s
      else endMsg mid (countLate m s)

/-- BBP_TX_FRAME_END, R118: the last byte of the frame on an interface's wire has left, and the next frame may start. -/
def bbTxEnd (l : Nat) (s : State) : State :=
  let s := crcDecision l s
  match (getBb s l).tx with
  | none => bbSettle s
  | some x =>
    let s := updBb l (fun b => { b with tx := none, sent := txBytes x }) s
    let s := match x.mid with
      | some mid => replySent l x mid s
      | none =>
        match (egressQ s (8 + l)).find? (fun y => y.order = x.order) with
        | none => s
        | some y =>
          let s := setEgressQ (8 + l) ((egressQ s (8 + l)).filter (fun y => y.order ≠ x.order)) s
          match y.kind with
          | .puntReturn sq pos ptp p _ _ =>
            let s := if ptp = 2 then
                raise 0x0201 l x.stamp (x.stamp / 2 ^ 32) (beAt x.bytes (p + 30) 2 + 65536 * (byteAt x.bytes p % 16) + 2 ^ 20 * (l / 4)) s
              else s
            if ptp = 0 then complete sq pos 0 0 0 0 s else complete sq pos 0 x.stamp (x.stamp / 2 ^ 32) 0 s
          | _ => s
    bbSettle s

def execBbpTxFrameEnd (l : Fin 8) (s : State) : Out := .next (bbTxEnd l s)

/-! ### Pauses received and pauses repeated (R82, R83) -/

/-- The bit of a pause: a priority's under PFC, 8 for PAUSE. -/
def pauseBit (pri : Option (Fin 8)) : Nat := match pri with | some p => p.val | none => 8

/-- PAUSE_RECEIVED, R81, R82: PAUSE (no priority) or PFC for one priority, with its quanta; quanta 0 ends a pause. -/
def pauseReceived (l : Nat) (pri : Option (Fin 8)) (quanta : Nat) (s : State) : State :=
  let applies := match pri with
    | none => decide (bbFc s l = 1)
    | some p => decide (bbFc s l = 2) && (getReg s (bbpReg (l / 4) 4)).testBit p.val
  if bbpUp s (8 + l) && applies then
    bbSettle (updBb l (fun b => { b with paused := setBitTo b.paused (pauseBit pri) (decide (quanta ≠ 0)) }) s)
  else s

def execPauseReceived (l : Fin 8) (pri : Option (Fin 8)) (quanta : BitVec 16) (s : State) : Out := .next (pauseReceived l pri quanta.toNat s)

/-- PAUSE_EXPIRY, R82: the time the quanta gave has run out. -/
def execPauseExpiry (l : Fin 8) (pri : Option (Fin 8)) (s : State) : Out :=
  .next (bbSettle (updBb l (fun b => { b with paused := setBitTo b.paused (pauseBit pri) false }) s))

/-- PAUSE_REFRESH, R83: half the sent quanta have elapsed while the pause is asserted. -/
def pauseRefresh (l : Nat) (pri : Option (Fin 8)) (s : State) : State :=
  let b := getBb s l
  if bbpUp s (8 + l) && b.xoff.testBit (pauseBit pri) && (flowBits s l).testBit (pauseBit pri) then
    setBb l { b with flow := b.flow ++ [(pauseBit pri, regF s (bbpReg (l / 4) 0x10) 0 16)] } s
  else s

def execPauseRefresh (l : Fin 8) (pri : Option (Fin 8)) (s : State) : Out := .next (pauseRefresh l pri s)

/-! ### Site schedule frames (R90) -/

/-- The EtherType of a frame behind its VLAN tags and where it stands; `none` while a byte is missing. -/
def etherAt (f : Frame) (o : Nat) : Nat → Option (Nat × Nat)
  | 0 => none
  | n + 1 =>
    match rdBe f o 2 with
    | none => none
    | some t => if t = 0x8100 ∨ t = 0x88A8 then etherAt f (o + 4) n else some (t, o)

/-- The UDP header behind the IPv6 extension headers from `off` on, the first of them of kind `nh`: hop-by-hop and destination options and
routing are (length + 1) × 8 bytes, an authentication header (length + 2) × 4, and a fragment header counts where it leaves the packet whole. -/
def v6Udp (f : Frame) : Nat → Nat → Nat → Option (Option Nat)
  | 0, _, _ => some none
  | n + 1, nh, off =>
    if nh = 17 then some (some off)
    else if nh = 0 ∨ nh = 43 ∨ nh = 60 ∨ nh = 51 then
      match rdByte f off, rdByte f (off + 1) with
      | some next, some len => v6Udp f n next (off + (if nh = 51 then 4 * (len + 2) else 8 * (len + 1)))
      | _, _ => none
    else if nh = 44 then
      match rdByte f off, rdBe f (off + 2) 2 with
      | some next, some ff => if ff / 8 = 0 ∧ ff % 2 = 0 then v6Udp f n next (off + 8) else some none
      | _, _ => none
    else some none

/-- Where the UDP header of a frame stands: `none` while a byte is missing, `some none` when it is no UDP over IPv4 or IPv6 or only a fragment
of one. -/
def udpAt (f : Frame) : Option (Option Nat) :=
  match etherAt f 12 2400 with
  | none => none
  | some (t, o) =>
    let ip := o + 2
    if t = 0x0800 then
      match rdByte f ip, rdBe f (ip + 6) 2, rdByte f (ip + 9) with
      | some vi, some frag, some proto =>
        some (if proto = 17 ∧ 5 ≤ vi % 16 ∧ frag % 16384 = 0 then some (ip + 4 * (vi % 16)) else none)
      | _, _, _ => none
    else if t = 0x86DD then
      match rdByte f (ip + 6) with
      | some nh => v6Udp f 1200 nh (ip + 40)
      | none => none
    else some none

/-- R90: what the bytes so far say about a frame being a site schedule frame, its FCS apart. -/
def schedShape (s : State) (f : Frame) : Option Bool :=
  if !(getReg s (bbpReg 0 0x38)).testBit 0 || decide (f.ingress < 8 ∨ 16 ≤ f.ingress) then some false
  else
    match udpAt f with
    | none => if f.ended then some false else none
    | some none => some false
    | some (some u) =>
      match rdBe f (u + 2) 2 with
      | none => if f.ended then some false else none
      | some port => some (decide (port = regF s (bbpReg 0 0x3C) 0 16 ∧ (f.ended = true → u + 8 ≤ f.bytes.length)))

/-- The UDP payload of a schedule frame. -/
def schedPayload (f : Frame) : List Byte :=
  match udpAt f with
  | some (some u) =>
    let bs := f.bytes.map (fun b => b.getD 0#8)
    slice bs (u + 8) (min (beAt bs (u + 4) 2 - 8) (bs.length - 4 - (u + 8)))
  | _ => []

end Sys2Proof.Machine
end

