-- ==== Sys2Proof/Machine/Aes.lean ====
section
/-! DEFINITION. AES-128 and its CMAC, which the sign-on TAG uses (R56, NIST SP 800-38B). -/
namespace Sys2Proof.Machine

def aesSbox0 : List Nat :=
  [99, 124, 119, 123, 242, 107, 111, 197, 48, 1, 103, 43, 254, 215, 171, 118,
   202, 130, 201, 125, 250, 89, 71, 240, 173, 212, 162, 175, 156, 164, 114, 192]
def aesSbox1 : List Nat :=
  [183, 253, 147, 38, 54, 63, 247, 204, 52, 165, 229, 241, 113, 216, 49, 21,
   4, 199, 35, 195, 24, 150, 5, 154, 7, 18, 128, 226, 235, 39, 178, 117]
def aesSbox2 : List Nat :=
  [9, 131, 44, 26, 27, 110, 90, 160, 82, 59, 214, 179, 41, 227, 47, 132,
   83, 209, 0, 237, 32, 252, 177, 91, 106, 203, 190, 57, 74, 76, 88, 207]
def aesSbox3 : List Nat :=
  [208, 239, 170, 251, 67, 77, 51, 133, 69, 249, 2, 127, 80, 60, 159, 168,
   81, 163, 64, 143, 146, 157, 56, 245, 188, 182, 218, 33, 16, 255, 243, 210]
def aesSbox4 : List Nat :=
  [205, 12, 19, 236, 95, 151, 68, 23, 196, 167, 126, 61, 100, 93, 25, 115,
   96, 129, 79, 220, 34, 42, 144, 136, 70, 238, 184, 20, 222, 94, 11, 219]
def aesSbox5 : List Nat :=
  [224, 50, 58, 10, 73, 6, 36, 92, 194, 211, 172, 98, 145, 149, 228, 121,
   231, 200, 55, 109, 141, 213, 78, 169, 108, 86, 244, 234, 101, 122, 174, 8]
def aesSbox6 : List Nat :=
  [186, 120, 37, 46, 28, 166, 180, 198, 232, 221, 116, 31, 75, 189, 139, 138,
   112, 62, 181, 102, 72, 3, 246, 14, 97, 53, 87, 185, 134, 193, 29, 158]
def aesSbox7 : List Nat :=
  [225, 248, 152, 17, 105, 217, 142, 148, 155, 30, 135, 233, 206, 85, 40, 223,
   140, 161, 137, 13, 191, 230, 66, 104, 65, 153, 45, 15, 176, 84, 187, 22]

/-- The substitution box of AES. -/
def aesSbox : List Nat := aesSbox0 ++ aesSbox1 ++ aesSbox2 ++ aesSbox3 ++ aesSbox4 ++ aesSbox5 ++ aesSbox6 ++ aesSbox7

def aesSub (x : Nat) : Nat := (aesSbox[x]?).getD 0

/-- Multiplication by x in the field of AES. -/
def aesX (a : Nat) : Nat := if a < 128 then 2 * a else (2 * a - 256) ^^^ 0x1B

/-- Bytes of a block, four to a column. -/
def aesAt (s : List Nat) (i : Nat) : Nat := (s[i]?).getD 0

def aesShiftRows (s : List Nat) : List Nat := (List.range 16).map (fun i => aesAt s ((i + 4 * (i % 4)) % 16))

def aesMixColumns (s : List Nat) : List Nat :=
  (List.range 16).map (fun i =>
    let c := i - i % 4
    let a := fun k => aesAt s (c + (i + k) % 4)
    aesX (a 0) ^^^ (aesX (a 1) ^^^ a 1) ^^^ a 2 ^^^ a 3)

def aesXor (a b : List Nat) : List Nat := List.zipWith (· ^^^ ·) a b

/-- The next round key, with its round constant. -/
def aesNextKey (k : List Nat) (rcon : Nat) : List Nat :=
  let t := [aesSub (aesAt k 13) ^^^ rcon, aesSub (aesAt k 14), aesSub (aesAt k 15), aesSub (aesAt k 12)]
  let w0 := aesXor (k.take 4) t
  let w1 := aesXor (slice' k 4) w0
  let w2 := aesXor (slice' k 8) w1
  let w3 := aesXor (slice' k 12) w2
  w0 ++ w1 ++ w2 ++ w3
where
  slice' (k : List Nat) (o : Nat) : List Nat := (k.drop o).take 4

/-- Rounds 1 to 10 from a state and the key of the round before. -/
def aesRounds : List Nat → List Nat → List Nat → List Nat
  | [], _, s => s
  | [r], k, s => aesXor (aesShiftRows (s.map aesSub)) (aesNextKey k r)
  | r :: rs, k, s =>
    let k' := aesNextKey k r
    aesRounds rs k' (aesXor (aesMixColumns (aesShiftRows (s.map aesSub))) k')

/-- One block under a 16-byte key. -/
def aesBlock (key block : List Nat) : List Nat :=
  aesRounds [1, 2, 4, 8, 16, 32, 64, 128, 0x1B, 0x36] key (aesXor block key)

/-- A 128-bit value, most significant byte first, doubled in the field of CMAC. -/
def cmacDouble (b : List Nat) : List Nat :=
  let n := b.foldl (fun a x => 256 * a + x) 0
  let d := (2 * n) % 2 ^ 128
  let d := if 2 ^ 127 ≤ n then d ^^^ 0x87 else d
  (beBytes 16 d).map BitVec.toNat

/-- The CMAC of a message of exactly 16 bytes. -/
def cmac16 (key msg : List Byte) : List Byte :=
  let k := key.map BitVec.toNat
  let k1 := cmacDouble (aesBlock k (List.replicate 16 0))
  (aesBlock k (aesXor (msg.map BitVec.toNat) k1)).map (BitVec.ofNat 8)

end Sys2Proof.Machine
end

