-- ==== Sys2Proof/Machine/Gf.lean ====
section
/-! DEFINITION. The field GF(2^8) of R26 and Reed–Solomon codes over it: RS(240,224) of the trunks (R26) and RS(36,32) of the
memory (R250). -/
namespace Sys2Proof.Machine

/-- Multiply by x modulo x^8 + x^4 + x^3 + x^2 + 1. -/
def gfX (a : Nat) : Nat := if a < 128 then 2 * a else (2 * a) ^^^ 0x11D

/-- The product of two field elements; the first number counts bits of `b` still to use. -/
def gfMulAux : Nat → Nat → Nat → Nat
  | 0, _, _ => 0
  | n + 1, a, b => (if b % 2 = 1 then a else 0) ^^^ gfMulAux n (gfX a) (b / 2)

def gfMul (a b : Nat) : Nat := gfMulAux 8 a b

/-- α^n, α = 0x02. -/
def gfAlpha : Nat → Nat
  | 0 => 1
  | n + 1 => gfX (gfAlpha n)

/-- α^n with the exponent taken modulo 255. -/
def gfExp (n : Nat) : Nat := gfAlpha (n % 255)

def gfPow (a : Nat) : Nat → Nat
  | 0 => 1
  | n + 1 => gfMul a (gfPow a n)

/-- The inverse: a^254. -/
def gfInv (a : Nat) : Nat := gfPow a 254

/-- A polynomial's value; coefficients lowest degree first. -/
def gfEval (x : Nat) : List Nat → Nat
  | [] => 0
  | c :: cs => c ^^^ gfMul x (gfEval x cs)

/-- Coefficient-wise sum, the shorter padded. -/
def gfAdd : List Nat → List Nat → List Nat
  | [], q => q
  | p, [] => p
  | a :: p, b :: q => (a ^^^ b) :: gfAdd p q

def gfScale (k : Nat) (p : List Nat) : List Nat := p.map (gfMul k)

/-- Product of polynomials, lowest degree first. -/
def gfPolyMul : List Nat → List Nat → List Nat
  | [], _ => []
  | a :: p, q => gfAdd (gfScale a q) (0 :: gfPolyMul p q)

/-- The generator (x − α^0) … (x − α^(m−1)), lowest degree first. -/
def rsGen : Nat → List Nat
  | 0 => [1]
  | m + 1 => gfPolyMul [gfExp m, 1] (rsGen m)

/-- One step of the division by a generator: the register holds the remainder, highest degree first. -/
def rsStep (gen reg : List Nat) (d : Nat) : List Nat :=
  match reg with
  | [] => []
  | r :: rs =>
    let f := d ^^^ r
    List.zipWith (fun a g => a ^^^ gfMul f g) (rs ++ [0]) gen

/-- The parity of data bytes, `m` bytes, in the order sent; data byte 0 is the coefficient of the highest degree. -/
def rsParity (m : Nat) (data : List Nat) : List Nat :=
  let gen := ((rsGen m).take m).reverse
  data.foldl (rsStep gen) (List.replicate m 0)

/-- Syndrome i of a word, highest degree first: its value at α^i. -/
def rsSyndrome (word : List Nat) (i : Nat) : Nat := word.foldl (fun acc c => gfMul (gfExp i) acc ^^^ c) 0

def rsSyndromes (m : Nat) (word : List Nat) : List Nat := (List.range m).map (rsSyndrome word)

/-- The state of the Berlekamp–Massey recursion. -/
structure Bm where
  c : List Nat
  b : List Nat
  l : Nat
  m : Nat
  d : Nat
  deriving DecidableEq, Repr

def bmStep (syn : List Nat) (st : Bm) (n : Nat) : Bm :=
  let delta := (List.range (st.l + 1)).foldl (fun acc i => acc ^^^ gfMul ((st.c[i]?).getD 0) (if i ≤ n then (syn[n - i]?).getD 0 else 0)) 0
  if delta = 0 then { st with m := st.m + 1 }
  else
    let c' := gfAdd st.c (List.replicate st.m 0 ++ gfScale (gfMul delta (gfInv st.d)) st.b)
    if 2 * st.l ≤ n then { c := c', b := st.c, l := n + 1 - st.l, m := 1, d := delta }
    else { st with c := c', m := st.m + 1 }

/-- The error locator of some syndromes, and its length. -/
def bmLocator (syn : List Nat) : List Nat × Nat :=
  let st := (List.range syn.length).foldl (bmStep syn) { c := [1], b := [1], l := 0, m := 1, d := 1 }
  (st.c, st.l)

/-- Odd-degree part for the formal derivative: coefficients of Λ', lowest first. -/
def gfDeriv (p : List Nat) : List Nat := (List.range (p.length - 1)).map (fun i => if i % 2 = 0 then (p[i + 1]?).getD 0 else 0)

/-- Decode a word with `m` check bytes, highest degree first: the corrected word and how many bytes were corrected, or none where
more than m / 2 bytes are wrong as far as the code can tell. -/
def rsDecode (m : Nat) (word : List Nat) : Option (List Nat × Nat) :=
  let syn := rsSyndromes m word
  if syn.all (fun x => x = 0) then some (word, 0)
  else
    let (loc, l) := bmLocator syn
    if m / 2 < l then none
    else
      let n := word.length
      let omega := (gfPolyMul syn loc).take m
      let der := gfDeriv loc
      let errs := (List.range n).filterMap (fun j =>
        let e := n - 1 - j
        let xi := gfExp (255 - e % 255)
        if gfEval xi loc = 0 then some (j, gfMul (gfExp e) (gfMul (gfEval xi omega) (gfInv (gfEval xi der)))) else none)
      if errs.length = l ∧ l ≠ 0 then
        let fixed := errs.foldl (fun w (j, v) => updAt w j (fun x => x ^^^ v)) word
        if (rsSyndromes m fixed).all (fun x => x = 0) then some (fixed, l) else none
      else none

def bytesNat (b : List Byte) : List Nat := b.map BitVec.toNat
def natBytes (b : List Nat) : List Byte := b.map (BitVec.ofNat 8)

/-- The four check bytes of a 32-byte half (R250). -/
def eccBytes (half : List Byte) : List Byte := natBytes (rsParity 4 (bytesNat half))

/-- What the controller finds in a half with its check bytes (R250): corrected data and whether a byte was corrected, or none for
any other non-zero syndrome. -/
def eccDecode (word : List Byte) : Option (List Byte × Bool) :=
  match rsDecode 4 (bytesNat word) with
  | some (w, n) => if n ≤ 1 then some (natBytes (w.take 32), decide (n = 1)) else none
  | none => none

end Sys2Proof.Machine
end

