-- ==== Sys2Proof/Machine/Fabric.lean ====
section
/-! DEFINITION. The plot fabric (R145 to R171): geometry, static routing, matching, steering units, headlands, orphans and the
forced replant. -/
namespace Sys2Proof.Machine

/-! ### Geometry (R145, R148, R149) -/

def dieOfPlot (p : Nat) : Nat := p / 16
def plotOfTile (t : Nat) : Nat := t / 16
def dieOfTile (t : Nat) : Nat := t / 256

/-- Die column and row of a tile. -/
def tileCol (t : Nat) : Nat := 4 * (t / 16 % 16 % 4) + t % 16 % 4
def tileRow (t : Nat) : Nat := 4 * (t / 16 % 16 / 4) + t % 16 / 4

/-- The tile of a die at a column and row. -/
def tileAt (die col row : Nat) : Nat := 16 * (16 * die + 4 * (row / 4) + col / 4) + 4 * (row % 4) + col % 4

/-- The tile a token leaving through port 0 N, 1 E, 2 S or 3 W reaches, and the port it arrives on (Table PLT-3). -/
def neighbour (t dir : Nat) : Option (Nat × Nat) :=
  let d := dieOfTile t
  let c := tileCol t
  let r := tileRow t
  match dir with
  | 0 => if r = 0 then some (tileAt ((d + 2) % 4) c 0, 0) else some (tileAt d c (r - 1), 2)
  | 1 => if c = 15 then some (tileAt ((d + 1) % 4) 0 r, 3) else some (tileAt d (c + 1) r, 3)
  | 2 => if r = 15 then none else some (tileAt d c (r + 1), 0)
  | 3 => if c = 0 then some (tileAt ((d + 3) % 4) 15 r, 1) else some (tileAt d (c - 1) r, 1)
  | _ => none

/-! ### Accessors -/

def getTile (s : State) (t : Nat) : Tile := tget Tile.init t s.tiles
def setTile (t : Nat) (v : Tile) (s : State) : State := { s with tiles := tset Tile.init t v s.tiles }
def updTile (t : Nat) (f : Tile → Tile) (s : State) : State := setTile t (f (getTile s t)) s
def getSwitch (s : State) (t : Nat) : Switch := tget Switch.init t s.switches
def setSwitch (t : Nat) (v : Switch) (s : State) : State := { s with switches := tset Switch.init t v s.switches }
def getSu (s : State) (k : Nat) : Su := tget Su.init k s.sus
def setSu (k : Nat) (v : Su) (s : State) : State := { s with sus := tset Su.init k v s.sus }

/-- The group that holds a plot. -/
def groupOfPlot (s : State) (p : Nat) : Option Group :=
  match (getPlot s p).group with
  | some g => findGroup s g
  | none => none

/-! ### Switch words (Table PLT-2) -/

/-- The source of output `o` (0 N … 4 X): 0 none, 1 to 5 the inputs N to X, 6 the tile; naming its own direction acts as 0. -/
def swSrc (w o : Nat) : Nat :=
  let c := bitsOf w (3 * o) 3
  if c = 7 ∨ c = o + 1 then 0 else c

/-- The outputs that name a source. -/
def swOuts (w src : Nat) : List Nat := (List.range 5).filter (fun o => swSrc w o = src)

/-- Tokens on input `i` are also delivered to the tile. -/
def swDlv (w i : Nat) : Bool := w.testBit (16 + i)

/-- The destinations of a token on input `i`: the outputs that name it, and 5, the tile, where DLV delivers it. -/
def swDests (w i : Nat) : List Nat := swOuts w (i + 1) ++ (if swDlv w i then [5] else [])

/-- The word that a switch holds for a network. -/
def swWord (s : State) (t net : Nat) : Nat := ((getSwitch s t).active[net]?).getD 0

/-- GEN of a tag. -/
def tagGen (tag : Nat) : Nat := bitsOf tag 13 2

/-! ### Orphans (R166 to R168) -/

/-- A rotation is cancelled: the target plots become free and the dwell restarts (R144). -/
def cancelRotation (gid : Nat) (s : State) : State :=
  match findGroup s gid with
  | none => s
  | some g =>
    match g.rot with
    | none => s
    | some r =>
      let gone := r.target.filter (fun p => p ∉ g.plots)
      let s := each gone freePlot s
      updGroup gid (fun g => { g with rot := none, dwell := s.clk.now, unfilled := g.unfilled.filter (fun p => p ∉ gone) }) s

/-- Count an orphan for its group's next PLT_ORPHAN; an orphan discard cancels a rotation (R144, R168). -/
def addOrphan (unit plot tag : Nat) (s : State) : State :=
  match (getPlot s plot).group with
  | none => s
  | some gid => cancelRotation gid (updGroup gid (fun g =>
      if g.orphans = 0 then { g with orphans := 1, firstUnit := unit, firstTag := tag } else { g with orphans := g.orphans + 1 }) s)

/-- Discard a token as an orphan of a unit on a plot: PLT_ORPHAN_CNT counts it and its owners are marked TAINTED. -/
def orphan (unit plot tag : Nat) (s : State) : State :=
  taintOwners plot tag (addOrphan unit plot tag (bump (960 + 15 * plot + 1) 1 s))

/-! ### Block headers (R177) and matching (R152, R153) -/

/-- An operand of a firing block (Table TIL-5). -/
structure Operand where
  net : Nat
  port : Nat
  shared : Bool
  uses : Nat
  dst : Nat
  deriving DecidableEq, Repr

def decodeOperand (w : Nat) : Operand :=
  { net := bitsOf w 0 2, port := bitsOf w 2 3, shared := w.testBit 5, uses := min 32 (bitsOf w 6 6), dst := bitsOf w 12 5 }

def bankWord (b : TileBank) (i : Nat) : Nat := (tget 0 i b.words).toNat

/-- ENTRY and the operands of block `k`; none while it is unused (NOPS 0, or a reserved NET or PORT). -/
def blockOf (b : TileBank) (k : Nat) : Option (Nat × List Operand) :=
  let w := bankWord b (1024 + 5 * k)
  let ops := (List.range (min 4 (bitsOf w 10 3))).map (fun i => decodeOperand (bankWord b (1024 + 5 * k + 1 + i)))
  if ops.isEmpty || ops.any (fun o => decide (o.net = 3 ∨ 5 < o.port)) then none else some (bitsOf w 0 10, ops)

/-- The operands of every used block, in block order. -/
def allOperands (b : TileBank) : List Operand :=
  (List.range 16).flatMap (fun k => match blockOf b k with | some (_, ops) => ops | none => [])

/-- The operand that decides an entry's mode and use count (R177): the first that names its network and port. -/
def operandFor (b : TileBank) (net port : Nat) : Option Operand :=
  (allOperands b).find? (fun o => o.net = net ∧ o.port = port)

/-- GEN and ITER of a tag. -/
def tagKey (tag : Nat) : Nat × Nat := (bitsOf tag 13 2, bitsOf tag 0 8)

/-- The entry an operand takes for tag `T`: equal in all 16 bits, or SHR = 1 with GEN and ITER equal. -/
def matchEntry (ms : List MsEntry) (o : Operand) (tag : Nat) : Option MsEntry :=
  ms.find? (fun e => decide (e.tok.net = o.net ∧ e.port = o.port) &&
    (if o.shared then e.tok.tag.testBit 15 && decide (tagKey e.tok.tag = tagKey tag) else decide (e.tok.tag = tag)))

/-- The entries of a block for a tag, when every operand has one. -/
def matchAll (ms : List MsEntry) (ops : List Operand) (tag : Nat) : Option (List MsEntry) := ops.mapM (fun o => matchEntry ms o tag)

/-- Tags on which a block may fire: those of its EXACT operands' entries, or of its SHARED entries when it has none, which then
agree in all 16 bits (R153). -/
def blockTags (ms : List MsEntry) (ops : List Operand) : List Nat :=
  match ops.find? (fun o => !o.shared) with
  | some o => (ms.filter (fun e => decide (e.tok.net = o.net ∧ e.port = o.port))).map (fun e => e.tok.tag)
  | none =>
    match ops with
    | [] => []
    | o :: _ => ((ms.filter (fun e => decide (e.tok.net = o.net ∧ e.port = o.port) && e.tok.tag.testBit 15)).map (fun e => e.tok.tag)).filter
        (fun t => ops.all (fun o => match matchEntry ms o t with | some e => decide (e.tok.tag = t) | none => false))

/-- The best candidate of a block: the tag whose latest-arriving entry arrived first (R154). -/
def bestTag (ms : List MsEntry) (ops : List Operand) : Option (Nat × List MsEntry) :=
  let cands := (blockTags ms ops).filterMap (fun t => (matchAll ms ops t).map (fun es => (t, es)))
  let score := fun (c : Nat × List MsEntry) => maxOf (c.2.map MsEntry.seqNo)
  cands.foldl (fun best c =>
    match best with
    | none => some c
    | some b => if score c < score b then some c else some b) none

/-- The lowest-numbered fireable block, its ENTRY, operands, tag and entries (R154). -/
def fireable (t : Tile) : Option (Nat × Nat × List Operand × Nat × List MsEntry) :=
  (List.range 16).findSome? (fun k =>
    match blockOf t.active k with
    | none => none
    | some (entry, ops) => (bestTag t.ms ops).map (fun (tag, es) => (k, entry, ops, tag, es)))

/-! ### Steering units (Table PLT-5, PLT-6) -/

def suKind (w : Nat) : Nat := bitsOf w 0 2
def suEn (w : Nat) : Bool := w.testBit 2 && decide (bitsOf w 3 2 < 2)
def suNet (w : Nat) : Nat := bitsOf w 3 2

/-- The inputs that a steering unit's kind takes: 0 A, 1 B, 2 C. -/
def suInputs (w : Nat) : List Nat :=
  if !suEn w then []
  else match suKind w with
    | 1 => [0, 1, 2]
    | 3 => if w.testBit 13 then [0, 2] else [0]
    | _ => [0, 2]

/-- The unit takes tokens of a network on an input: control on C, DNET on A and B. -/
def suTakes (w i net : Nat) : Bool := decide (i ∈ suInputs w ∧ net = if i = 2 then 2 else suNet w)

/-- The first token of A that has a partner of the same tag in C. -/
def suPair (u : Su) : Option (Token × Token) :=
  u.inA.findSome? (fun a => (u.inC.find? (fun c => c.tag = a.tag)).map (fun c => (a, c)))

/-- A pair is complete, or a token may pass; a unit that has tokens still to put out acts no further. -/
def suReady (u : Su) : Bool :=
  let w := u.active
  if !suEn w || !u.out.isEmpty then false
  else
    match suKind w with
    | 1 => match u.inC with
      | c :: _ => if c.data.getLsbD 0 then !u.inB.isEmpty else !u.inA.isEmpty
      | [] => false
    | 3 => if w.testBit 13 then (suPair u).isSome else !u.inA.isEmpty
    | _ => (suPair u).isSome

/-- A token enters the pairing store at an input. -/
def suPut (u : Su) (i : Nat) (tok : Token) : Su :=
  match i with
  | 0 => { u with inA := u.inA ++ [tok] }
  | 1 => { u with inB := u.inB ++ [tok] }
  | _ => { u with inC := u.inC ++ [tok] }

/-- The pairing store of 8 entries has room for a token. DESIGN CHOICE (log 99): a full store still takes the token that lets the unit act. -/
def suStoreRoom (u : Su) (i : Nat) (tok : Token) : Bool :=
  decide (u.inA.length + u.inB.length + u.inC.length < 8) || (!suReady u && suReady (suPut u i tok))

/-! ### Units and generations (R160 to R162, R170) -/

/-- The tiles, switches and steering units of a plot, as unit codes. -/
def plotUnits (p : Nat) : List Nat :=
  (List.range 16).map (fun k => 16 * p + k) ++ (List.range 8).map (fun k => 1024 + 8 * p + k) ++ (List.range 16).map (fun k => 2048 + 16 * p + k)

/-- The plot of a unit code. -/
def plotOfUnit (u : Nat) : Nat := if u < 1024 then u / 16 else if u < 2048 then (u - 1024) / 8 else (u - 2048) / 16

/-- Banks of units of plot `p` have been written anew: what the Harrow knew of their words is over (R405). -/
def rewritten (p : Nat) (gone : Nat → Bool → Bool) (s : State) : State :=
  let v := getHrw s (p / 16)
  setHrw (p / 16) { v with known := v.known.filter (fun w => match w with
    | .config u _ b => !gone u.val b
    | .regCopy .. | .table .. | .fieldMap .. | .slot .. | .master .. => true) } s

/-- The plots that take part in a transition: the group's, and the target of a rotation that turns with it (R144). -/
def transPlots (g : Group) : List Nat :=
  g.plots ++ (match g.rot, g.trans with
    | some r, some tr => if tr.turns then r.target.filter (fun p => p ∉ g.plots) else []
    | _, _ => [])

def groupUnits (g : Group) : List Nat := (transPlots g).flatMap plotUnits

def unitGen (s : State) (u : Nat) : Nat :=
  if u < 1024 then (getTile s u).gen else if u < 2048 then (getSu s (u - 1024)).gen else (getSwitch s (u - 2048)).gen

/-- The generation announced on a plot. -/
def newGen (s : State) (p : Nat) : Option Nat :=
  match groupOfPlot s p with
  | some g => if p ∈ transPlots g then g.trans.map Trans.gen else none
  | none => none

/-- How a unit meets a token: as work of its own generation, held until its flip (R161), or stale (R170). -/
inductive Meet where
  | now | hold | stale
  deriving DecidableEq, Repr

def meets (s : State) (p ug tag : Nat) : Meet :=
  if tagGen tag = ug then .now else if newGen s p = some (tagGen tag) then .hold else .stale

/-- A token whose GEN is neither the unit's nor the announced one is discarded: PLT_FLUSH_CNT counts it and nothing is marked (R170). -/
def discardStale (p : Nat) (s : State) : State := bump (960 + 15 * p + 3) 1 s

def markSeen (u input : Nat) (s : State) : State :=
  { s with fab := { s.fab with seen := insertNew (u, input) s.fab.seen } }

/-- A headland reaches a unit on plot `p` (R161): it is seen at `input` where the unit has not flipped yet; behind the flip it means
nothing more; one of no announced generation is stale. -/
def meetHeadland (u p gen input : Nat) (used : Bool) (s : State) : State :=
  if unitGen s u = gen then s
  else if newGen s p = some gen then (if used then markSeen u input s else s)
  else discardStale p s

/-- A headland of a generation on a network (R160): CFG_ID and S, or on the control network GEN alone. -/
def headTok (tr : Trans) (net : Nat) : Token :=
  { net := net, tag := 0x8000 + 0x2000 * tr.gen, data := if net = 2 then 0 else BitVec.ofNat 512 (tr.cfg % 65536 + 65536 * tr.size), headland := true }

/-! ### FIFOs, crossings and the movement of tokens (R146 to R150) -/

def fifoKey (t net i : Nat) : Nat := 64 * t + 16 * net + i

def getFifo (s : State) (k : Nat) : List Queued := tget [] k s.fab.fifos

def setFifo (k : Nat) (v : List Queued) (s : State) : State := { s with fab := { s.fab with fifos := tset [] k v s.fab.fifos } }

def pushFifo (k : Nat) (tok : Token) (s : State) : State := setFifo k (getFifo s k ++ [{ tok := tok, took := [] }]) s

/-- An input FIFO holds 4 tokens (R146). -/
def fifoRoom (s : State) (k : Nat) : Bool := decide ((getFifo s k).length < 4)

def getFeed (s : State) (k : Nat) : List Token := tget [] k s.fab.feeds

def setFeed (k : Nat) (v : List Token) (s : State) : State := { s with fab := { s.fab with feeds := tset [] k v s.fab.feeds } }

/-- The body of a MSG flit. DESIGN CHOICE (log 100): the manual gives no layout. Bytes 0 to 63 payload, 64 and 65 tag, 66 network in [1:0],
sideband in [2], the edge it leaves by in [5:4], 67 the channel. -/
def msgBody (t dir : Nat) (tok : Token) : List Byte :=
  padTo 128 (leBytes 64 tok.data.toNat ++ leBytes 2 tok.tag ++ leBytes 1 (tok.net + 4 * b2n tok.headland + 16 * dir) ++
    leBytes 1 (if dir = 0 then tileCol t else tileRow t))

/-- The network, edge and channel of a MSG flit. -/
def msgChan (f : LinkFlit) : Nat × Nat × Nat := (byteAt f.body 66 % 4, byteAt f.body 66 / 16 % 4, byteAt f.body 67 % 16)

def msgToken (f : LinkFlit) : Token :=
  { net := byteAt f.body 66 % 4, tag := leAt f.body 64 2, data := BitVec.ofNat 512 (leAt f.body 0 64), headland := (byteAt f.body 66).testBit 2 }

/-- The tile of die `a` that a MSG flit leaves. -/
def msgTile (a : Nat) (f : LinkFlit) : Nat :=
  let (_, dir, j) := msgChan f
  if dir = 0 then tileAt a j 0 else if dir = 1 then tileAt a 15 j else tileAt a 0 j

/-- The input that a MSG flit of die `a` comes to. -/
def msgKey (a : Nat) (f : LinkFlit) : Nat :=
  match neighbour (msgTile a f) (msgChan f).2.1 with
  | some (t, i) => fifoKey t (msgChan f).1 i
  | none => 0

/-- A gateway channel of a link's direction has room: DESIGN CHOICE (log 100), 4 tokens a channel and network wait for the link. -/
def msgRoom (s : State) (l d : Nat) (chan : Nat × Nat × Nat) : Bool :=
  let v := getLink s l
  decide ((v.st = 1 ∨ v.st = 2) ∧ ((v.dir d).queue.filter (fun f => decide (f.cls = 2 ∧ msgChan f = chan))).length < 4)

/-- Where a token goes that leaves tile `t`'s switch through output `o`: an input FIFO, a gateway channel, a steering unit's input, or
nowhere (R148, R149). -/
inductive Hop where
  | fifo (key : Nat)
  | link (l d : Nat)
  | su (k input : Nat)
  | off
  deriving DecidableEq, Repr

def hopOf (t net o : Nat) : Hop :=
  if o = 4 then
    let p := t / 16
    let k := t % 16
    if net = 2 then (if k < 8 then .su (8 * p + k) 2 else .off)
    else if k < 8 then .su (8 * p + k) 0 else .su (8 * p + k - 8) 1
  else
    match neighbour t o with
    | none => .off
    | some (t', i) =>
      if dieOfTile t' = dieOfTile t then .fifo (fifoKey t' net i)
      else match linkBetween (dieOfTile t) (dieOfTile t') with
        | some (l, d) => .link l d
        | none => .off

/-- A steering unit takes a token at an input now: its own generation's, on a network that it takes there, while its store has room. A
headland and a stale token it takes always. -/
def suRoom (s : State) (k i : Nat) (tok : Token) : Bool :=
  let u := getSu s k
  if tok.headland then true
  else match meets s (k / 8) u.gen tok.tag with
    | .now => suTakes u.active i tok.net && suStoreRoom u i tok
    | .hold => false
    | .stale => true

def suTake (k i : Nat) (tok : Token) (s : State) : State :=
  let u := getSu s k
  if tok.headland then meetHeadland (1024 + k) (k / 8) (tagGen tok.tag) i (suTakes u.active i tok.net) s
  else match meets s (k / 8) u.gen tok.tag with
    | .stale => discardStale (k / 8) s
    | _ => setSu k (suPut u i tok) s

/-- The place behind an output has accepted the token, or can. -/
def hopRoom (s : State) (t net o : Nat) (tok : Token) : Bool :=
  match hopOf t net o with
  | .fifo k => fifoRoom s k
  | .link l d => msgRoom s l d (net, o, if o = 0 then tileCol t else tileRow t)
  | .su k i => suRoom s k i tok
  | .off => true

/-- A token leaves tile `t`'s switch through output `o`. Off the south edge, or to an X port that has no such network, it is an
undeliverable SEND (R149). -/
def hopPut (t net o : Nat) (tok : Token) (s : State) : State :=
  match hopOf t net o with
  | .fifo k => pushFifo k tok s
  | .link l d => offerFlit l d 2 0 (msgBody t o tok) s
  | .su k i => suTake k i tok s
  | .off => if tok.headland then s else orphan t (plotOfTile t) tok.tag s

/-- The token at the head of an input gives its copies to the outputs that have room (R147). -/
def giveCopies (t net : Nat) (tok : Token) : List Nat → List Nat → State → List Nat × State
  | [], took, s => (took, s)
  | o :: os, took, s =>
    if o ∈ took ∨ o = 5 then giveCopies t net tok os took s
    else if hopRoom s t net o tok then giveCopies t net tok os (took ++ [o]) (hopPut t net o tok s)
    else giveCopies t net tok os took s

/-- The head of an input leaves it once every destination has its copy. -/
def settleHead (key : Nat) (dests took : List Nat) (q : Queued) (rest : List Queued) (s : State) : State :=
  if !dests.isEmpty && dests.all (fun o => decide (o ∈ took)) then setFifo key rest s else setFifo key ({ q with took := took } :: rest) s

/-- The token at the head of a switch's input moves as far as it can: a headland is seen by the switch and by the tile that DLV delivers to
(a faulted tile takes none, R199); a token that a destination cannot take yet waits; one toward an output that does not take the tile is
an undeliverable SEND (R147). -/
def stepFifo (key : Nat) (s : State) : State :=
  let t := key / 64
  let net := key / 16 % 4
  let i := key % 16
  let p := plotOfTile t
  let sw := getSwitch s t
  let w := swWord s t net
  match getFifo s key with
  | [] => s
  | q :: rest =>
    let gen := tagGen q.tok.tag
    if q.tok.headland then
      let dlv := decide (i < 5) && swDlv w i
      if dlv && decide ((getTile s t).run = .fault) then s
      else
        let s := if dlv && decide (newGen s p = some gen) then meetHeadland t p gen (8 * net + i) true s else s
        setFifo key rest (meetHeadland (2048 + t) p gen (16 * net + i) true s)
    else match meets s p sw.gen q.tok.tag with
      | .hold => s
      | .stale => if 8 ≤ i then orphan t p q.tok.tag (setFifo key rest s) else discardStale p (setFifo key rest s)
      | .now =>
        if 8 ≤ i then
          if swSrc w (i - 8) ≠ 6 then orphan t p q.tok.tag (setFifo key rest s)
          else if hopRoom s t net (i - 8) q.tok then hopPut t net (i - 8) q.tok (setFifo key rest s)
          else s
        else
          let dests := swDests w i
          let (took, s) := giveCopies t net q.tok dests q.took s
          settleHead key dests took q rest s

/-- A headland at the head of a FEED channel is taken by its tile. -/
def stepFeed (key : Nat) (s : State) : State :=
  match getFeed s key with
  | [] => s
  | q :: rest =>
    if q.headland && decide ((getTile s (key / 4)).run ≠ .fault) then
      setFeed key rest (meetHeadland (key / 4) (plotOfTile (key / 4)) (tagGen q.tag) (8 * (key % 4) + 5) true s)
    else s

/-- A steering unit puts a token that it has to send into the X input behind its output: A is tile k's, B tile k + 8's (R148). -/
def stepOut (k : Nat) (s : State) : State :=
  let u := getSu s k
  match u.out with
  | [] => s
  | (o, tok) :: rest =>
    let key := fifoKey (16 * (k / 8) + k % 8 + 8 * o) tok.net 4
    if fifoRoom s key then setSu k { u with out := rest } (pushFifo key tok s) else s

/-- Every token that can moves one place. -/
def flowOnce (s : State) : State :=
  let s := each (s.fab.fifos.map Prod.fst) stepFifo s
  let s := each (s.fab.feeds.map Prod.fst) stepFeed s
  each ((s.sus.filter (fun x => !x.2.out.isEmpty)).map Prod.fst) stepOut s

/-- Tokens move until none can, or until each has had `n` moves. -/
def flow : Nat → State → State
  | 0, s => s
  | n + 1, s =>
    let s' := flowOnce s
    if s'.fab = s.fab then s' else flow n s'

/-- The switches carry every token as far as it goes. -/
def flowAll (s : State) : State := flow 256 s

/-! ### SU_FIRE (R156, R157) -/

/-- Copies of a REPEAT: ITER + i for i below n, up to 255. -/
def suCopies (tok : Token) (n : Nat) : List (Nat × Token) :=
  ((List.range n).filter (fun i => decide (bitsOf tok.tag 0 8 + i ≤ 255))).map (fun i => (0, { tok with tag := tok.tag + i }))

/-- One action of a steering unit (R156). -/
def suFire (k : Nat) (s : State) : State :=
  let u := getSu s k
  let w := u.active
  if !suReady u then s
  else
    let takePair := fun (a c : Token) => { u with inA := u.inA.erase a, inC := u.inC.erase c }
    match suKind w with
    | 0 =>
      match suPair u with
      | some (a, c) => flowAll (setSu k { takePair a c with out := [(b2n (c.data.getLsbD 0), a)] } s)
      | none => s
    | 1 =>
      match u.inC with
      | c :: cs =>
        if c.data.getLsbD 0 then
          match u.inB with
          | b :: bs => flowAll (setSu k { u with inB := bs, inC := cs, out := [(0, b)] } s)
          | [] => s
        else
          match u.inA with
          | a :: as => flowAll (setSu k { u with inA := as, inC := cs, out := [(0, a)] } s)
          | [] => s
      | [] => s
    | 2 =>
      match suPair u with
      | some (a, c) => flowAll (setSu k { takePair a c with out := if c.data.getLsbD 0 then [(0, a)] else [] } s)
      | none => s
    | _ =>
      let go := fun (a : Token) (n : Nat) (u : Su) =>
        let s := flowAll (setSu k { u with out := suCopies a n } s)
        if 0 < n ∧ 255 < bitsOf a.tag 0 8 + n - 1 then
          taintOwners (k / 8) a.tag (bump (960 + 15 * (k / 8) + 4) 1 s)
        else s
      if w.testBit 13 then
        match suPair u with
        | some (a, c) => go a (c.data.toNat % 256) (takePair a c)
        | none => s
      else
        match u.inA with
        | a :: as => go a (bitsOf w 5 8) { u with inA := as }
        | [] => s

/-! ### Headlands (R158 to R165) -/

/-- The used inputs of a unit under its old configuration (R161): of a tile 8 × network + port, of a steering unit 0 A, 1 B, 2 C, of a switch
16 × network + input as in Fab.fifos. -/
def usedInputs (s : State) (u : Nat) : List Nat :=
  if u < 1024 then (allOperands (getTile s u).active).map (fun o => 8 * o.net + o.port)
  else if u < 2048 then suInputs (getSu s (u - 1024)).active
  else
    (List.range 3).flatMap (fun net =>
      let w := swWord s (u - 2048) net
      ((List.range 5).filter (fun i => !(swDests w i).isEmpty)).map (fun i => 16 * net + i) ++ (swOuts w 6).map (fun d => 16 * net + 8 + d))

/-- The outputs of a switch that its old configuration names, by network. -/
def swNamed (s : State) (t : Nat) : List (Nat × Nat) :=
  (List.range 3).flatMap (fun net => ((List.range 5).filter (fun o => swSrc (swWord s t net) o ≠ 0)).map (fun o => (net, o)))

/-- There is room behind every output that a switch must put a headland on. -/
def forwardRoom (s : State) (tr : Trans) (u : Nat) : Bool :=
  if u < 2048 then true else (swNamed s (u - 2048)).all (fun x => hopRoom s (u - 2048) x.1 x.2 (headTok tr x.1))

/-- The unit forwards one headland on every output its old configuration uses (R161): a tile on each direction that it may send to and on
FEED, a steering unit and a switch on each output in use. -/
def forwardHeadland (tr : Trans) (u : Nat) (s : State) : State :=
  if u < 1024 then
    let s := each (List.range 3) (fun net s =>
      each (swOuts (swWord s u net) 6) (fun d s => pushFifo (fifoKey u net (8 + d)) (headTok tr net) s) s) s
    { s with fab := { s.fab with drain := s.fab.drain ++ [(u, headTok tr 1)] } }
  else if u < 2048 then
    let v := getSu s (u - 1024)
    if !suEn v.active then s
    else
      let outs := if suKind v.active = 0 then [0, 1] else [0]
      setSu (u - 1024) { v with out := v.out ++ outs.map (fun o => (o, headTok tr (suNet v.active))) } s
  else each (swNamed s (u - 2048)) (fun x s => hopPut (u - 2048) x.1 x.2 (headTok tr x.1) s) s

/-- Nothing of its old work is left to do: for a tile no block runs or may fire, for a steering unit no pair is complete and no token is
still to go out. -/
def quietUnit (s : State) (u : Nat) : Bool :=
  if u < 1024 then
    let t := getTile s u
    decide (t.run = .idle) && (fireable t).isNone
  else if u < 2048 then let v := getSu s (u - 1024); !suReady v && v.out.isEmpty
  else true

/-- The entries left in a unit's stores are orphans (R166). -/
def dropLeftovers (u : Nat) (s : State) : State :=
  let p := plotOfUnit u
  if u < 1024 then
    let tags := (getTile s u).ms.map (fun e => e.tok.tag)
    each tags (orphan u p) (updTile u (fun t => { t with ms := [], msStall := false }) s)
  else if u < 2048 then
    let v := getSu s (u - 1024)
    let tags := (v.inA ++ v.inB ++ v.inC).map Token.tag
    each tags (orphan u p) (setSu (u - 1024) { v with inA := [], inB := [], inC := [] } s)
  else s

/-- CFG_ID of a unit's shadow and active bank, and its shadow-ready flag. -/
def unitCfg (s : State) (u : Nat) : Nat × Nat × Bool :=
  if u < 1024 then let t := getTile s u; (t.shadow.cfg, t.cfg, t.shadowReady)
  else if u < 2048 then let v := getSu s (u - 1024); (v.shadowCfg, v.cfg, v.shadowReady)
  else let v := getSwitch s (u - 2048); (v.shadowCfg, v.cfg, v.shadowReady)

/-- The unit's active bank holds a seed. -/
def unitSeeded (s : State) (u : Nat) : Bool :=
  if u < 1024 then (getTile s u).seeded else if u < 2048 then (getSu s (u - 1024)).seeded else (getSwitch s (u - 2048)).seeded

/-- The active bank of the unit holds the seed of the pass, so that nothing is loaded (R158). -/
def sameSeed (s : State) (cfg u : Nat) : Bool := unitSeeded s u && decide ((unitCfg s u).2.1 = cfg)

/-- The plot is vacated by the rotation that turns with the transition. -/
def vacated (g : Group) (tr : Trans) (p : Nat) : Bool :=
  match g.rot with
  | some r => tr.turns && decide (p ∉ r.target)
  | none => false

/-- The unit counts as shadow-ready for a transition (R158). -/
def unitReady (s : State) (g : Group) (tr : Trans) (u : Nat) : Bool :=
  (unitCfg s u).2.2 || sameSeed s tr.cfg u || vacated g tr (plotOfUnit u)

/-- A unit of the plot has forwarded its headland and its shadow is not ready (R163). -/
def plotWaits (s : State) (p : Nat) : Bool :=
  match groupOfPlot s p with
  | none => false
  | some g =>
    match g.trans with
    | none => false
    | some tr => decide (p ∈ transPlots g) &&
        (plotUnits p).any (fun u => decide (u ∈ s.fab.finished ∧ unitGen s u ≠ tr.gen) && !unitReady s g tr u)

/-- PLT_HEADLAND_WAIT follows a plot's wait, in CLK_F cycles of 4/3 ns (R163): a wait that ends is counted. -/
def noteWait (p : Nat) (s : State) : State :=
  let w := plotWaits s p
  match (getPlot s p).waitT0 with
  | none => if w then updPlot p (fun v => { v with waitT0 := some s.clk.now }) s else s
  | some t0 => if w then s else bump (960 + 15 * p) ((s.clk.now - t0) * 3 / 4) (updPlot p (fun v => { v with waitT0 := none }) s)

/-- R161: a unit finishes old work. DESIGN CHOICE (log 100): a switch does so once there is room for the headlands behind its outputs. -/
def unitFinish (u : Nat) (s : State) : State :=
  match groupOfPlot s (plotOfUnit u) with
  | none => s
  | some g =>
    match g.trans with
    | none => s
    | some tr =>
      if plotOfUnit u ∉ transPlots g ∨ u ∈ s.fab.finished ∨ unitGen s u = tr.gen then s
      else if (usedInputs s u).all (fun i => decide ((u, i) ∈ s.fab.seen)) && quietUnit s u && forwardRoom s tr u then
        let s := { s with fab := { s.fab with finished := s.fab.finished ++ [u] } }
        noteWait (plotOfUnit u) (flowAll (forwardHeadland tr u (dropLeftovers u s)))
      else s

/-! ### Replant and flush (R138, R169, R170) -/

/-- MSG flits of a direction that leave or reach tiles of a plot; `a` is the sending die. -/
def msgOf (a p : Nat) (arriving : Bool) (f : LinkFlit) : Bool :=
  decide (f.cls = 2) && decide ((if arriving then msgKey a f / 64 else msgTile a f) / 16 = p)

/-- The sending die of a link's direction. -/
def sendDie (l d : Nat) : Nat := if d = 0 then (linkEnds l).1 else (linkEnds l).2

/-- The gateway channels of a plot: flits that its tiles wait to send, and those received for it. -/
def gatewayFlits (s : State) (p : Nat) : List LinkFlit :=
  [4, 5, 6, 7, 8, 9].flatMap (fun l => [0, 1].flatMap (fun d =>
    let x := (getLink s l).dir d
    x.queue.filter (msgOf (sendDie l d) p false) ++ x.buf.filter (msgOf (sendDie l d) p true)))

/-- Tokens held on a plot: in input FIFOs, feeds, matching and pairing stores, steering units' outputs, drains and gateway channels. -/
def plotTokens (s : State) (p : Nat) : List Token :=
  (s.fab.fifos.filter (fun x => decide (x.1 / 1024 = p))).flatMap (fun x => x.2.map Queued.tok) ++
    (s.fab.feeds.filter (fun x => decide (x.1 / 64 = p))).flatMap Prod.snd ++
    (List.range 16).flatMap (fun k => (getTile s (16 * p + k)).ms.map MsEntry.tok) ++
    (List.range 8).flatMap (fun k => let v := getSu s (8 * p + k); v.inA ++ v.inB ++ v.inC ++ v.out.map Prod.snd) ++
    (s.fab.drain.filter (fun d => decide (plotOfTile d.1 = p))).map Prod.snd ++ (gatewayFlits s p).map msgToken

/-- The flits of a plot's gateway channels leave the links' queues; a receive buffer's entries are freed (R273). -/
def dropGateway (p : Nat) (s : State) : State :=
  each [4, 5, 6, 7, 8, 9] (fun l s => each [0, 1] (fun d s => updDir l d (fun x =>
    let n := (x.buf.filter (msgOf (sendDie l d) p true)).length
    { x with queue := x.queue.filter (fun f => !msgOf (sendDie l d) p false f), buf := x.buf.filter (fun f => !msgOf (sendDie l d) p true f),
             freed := tset 0 2 ((tget 0 2 x.freed + n) % 256) x.freed }) s) s) s

/-- A tile takes a generation, which OT always shows (R195). -/
def setGen (gen : Nat) (t : Tile) : Tile :=
  { t with gen := gen, ot := bitsOf t.ot 0 13 + 8192 * (gen % 4) + 32768 * bitsOf t.ot 15 1 }

/-- A plot's units return to the empty configuration under a generation, and hold no token. -/
def clearPlot (gen p : Nat) (s : State) : State :=
  let s := rewritten p (fun v _ => decide (plotOfUnit v = p)) s
  let s := each (List.range 16) (fun k s => updTile (16 * p + k) (fun t => setGen gen
    { t with run := .idle, ms := [], msStall := false, active := TileBank.init, shadow := TileBank.init, shadowReady := false,
             seeded := false, event := none, cfg := 0 }) s) s
  let s := each (List.range 16) (fun k s => setSwitch (16 * p + k) { Switch.init with gen := gen } s) s
  let s := each (List.range 8) (fun k s => setSu (8 * p + k) { Su.init with gen := gen } s) s
  let s := updPlot p (fun v => { v with sums := [] }) s
  let s := dropGateway p { s with waits := s.waits.filter (fun w => !decide (w.req < 1024 ∧ plotOfTile w.req = p)) }
  { s with fab :=
      { s.fab with
        fifos := s.fab.fifos.filter (fun x => decide (x.1 / 1024 ≠ p)),
        feeds := s.fab.feeds.filter (fun x => decide (x.1 / 64 ≠ p)),
        seen := s.fab.seen.filter (fun x => plotOfUnit x.1 ≠ p),
        finished := s.fab.finished.filter (fun u => plotOfUnit u ≠ p),
        drain := s.fab.drain.filter (fun d => plotOfTile d.1 ≠ p) } }

/-- The die of a group's first plot. -/
def groupDie (g : Group) : Nat := ((g.plots[0]?).getD 0) / 16

/-- Count pass energy in YOK_WORK_MJ (R322). -/
def countWork (nj : Nat) (s : State) : State :=
  let n := s.yoke.workNj + nj
  bump 97 (n / 1000000) { s with yoke := { s.yoke with workNj := n % 1000000 } }

/-- A pass that used `used` nJ ends: what it did not use returns to its die (R139, R319). -/
def settleRun (g : Group) (r : Run) (used : Nat) (s : State) : State :=
  let used := min used r.energy
  refund (groupDie g) (r.energy - used) (r.energy - r.resTaken) (countWork used s)

/-- The energy that a pass stopped before its end has used. DESIGN CHOICE (log 58): the reservation is charged evenly over its bound. -/
def chargedSoFar (s : State) (r : Run) : Nat := r.energy * min r.bound (s.clk.now - r.t0 - r.paused) / max 1 r.bound

/-- The owners of discarded tokens: every member of the pass that a data token belongs to, with the plot (step 3 of R169). -/
def flushOwners (g : Group) (held : List (Nat × List Token)) : List (Nat × Nat) :=
  held.flatMap (fun x => (x.2.filter (fun t => !t.headland)).flatMap (fun t => (tget [] (tagGen t.tag) g.tables).map (fun m => (x.1, m))))

/-- The messages that owners name, each once, with the plot that named it first. -/
def onceEach (l : List (Nat × Nat)) : List (Nat × Nat) :=
  l.foldl (fun acc x => if acc.any (fun y => decide (y.2 = x.2)) then acc else acc ++ [x]) []

/-- The message has not ended, and no correct CRC has released it. -/
def liveMsg (s : State) (mid : Nat) : Bool := match findMsg s mid with | some m => !released m | none => false

/-- Steps 1 to 4 of R169 for one group, whose owners end with `status`; the tokens flushed and the messages marked. Owners that have ended
count in PLT_LATE_TAINT (R167), and the pass's watch summaries are discarded (R224). -/
def flushGroup (gid status : Nat) (s : State) : State × Nat × Nat :=
  match findGroup s gid with
  | none => (s, 0, 0)
  | some g =>
    let plots := transPlots g
    let held := plots.map (fun p => (p, plotTokens s p))
    let total := sumOf (held.map (fun x => x.2.length))
    let runs := match g.run with | some r => r.members.map (fun m => ((g.plots[0]?).getD 0, m)) | none => []
    let owners := onceEach (flushOwners g held ++ runs)
    let live := (owners.map Prod.snd).filter (liveMsg s)
    let late := owners.filter (fun x => !liveMsg s x.2)
    let gen := (g.gen + 1) % 4
    let s := cancelRotation gid (each held (fun x s => bump (960 + 15 * x.1 + 3) x.2.length s) s)
    let s := each late (fun x s => bump (960 + 15 * x.1 + 7) 1 s) s
    let s := bump 49 (sumOf (plots.map (fun p => (getPlot s p).sums.length))) s
    let s := match g.run with
      | some r => settleRun g r (chargedSoFar s r) s
      | none => s
    let s := each plots (clearPlot gen) s
    let s := updGroup gid (fun g => { g with gen := gen, cfg := 0, run := none, trans := none, orphans := 0, reload := true }) s
    let s := each plots noteWait s
    let s := each live (fun m s => leaveSheaf m (updMsg m (fun m => { m with outputs := none, staged := false, rowsOut := [], loc := .idle }) s)) s
    let s := each live (failMsg status) s
    (s, total, live.length)

/-- R169: a forced replant with its cause; PLT_REPLANT carries the tokens flushed and messages tainted. -/
def replant (cause status gid : Nat) (s : State) : State :=
  match findGroup s gid with
  | none => s
  | some g =>
    let (s, total, n) := flushGroup gid status s
    raiseOn (groupDie g) 0x0603 gid total n cause s

/-! ### Flips (R159, R162, R164) -/

/-- A unit takes its shadow bank, or with the same seed keeps its active one (R158), and adopts GEN, CFG_ID and S (R162); a vacated unit takes
the empty configuration. -/
def flipUnit (tr : Trans) (gone : Bool) (u : Nat) (s : State) : State :=
  let s := rewritten (plotOfUnit u) (fun v _ => decide (v = u)) s
  if u < 1024 then
    updTile u (fun t =>
      let b := if gone then TileBank.init else if t.shadowReady then t.shadow else t.active
      setGen tr.gen
        { t with active := b, shadow := TileBank.init, shadowReady := false, seeded := !gone, a := [], p := [], mode := b.mode, cfg := tr.cfg,
                 size := tr.size }) s
  else if u < 2048 then
    let v := getSu s (u - 1024)
    setSu (u - 1024)
      { v with active := if gone then 0 else if v.shadowReady then v.shadow else v.active, shadow := 0, shadowReady := false,
               seeded := !gone, cfg := tr.cfg, shadowCfg := 0, gen := tr.gen, size := tr.size } s
  else
    let v := getSwitch s (u - 2048)
    setSwitch (u - 2048)
      { v with active := if gone then [0, 0, 0] else if v.shadowReady then v.shadow else v.active, shadow := [0, 0, 0],
               shadowReady := false, seeded := !gone, cfg := tr.cfg, shadowCfg := 0, gen := tr.gen, size := tr.size } s

/-- The streamers send the summaries of the passes before a headland's generation to the watch table, lower dies first (R224). -/
def sendSums (g : Group) (gen : Nat) (s : State) : State :=
  each ((List.range 64).filter (fun p => decide (p ∈ transPlots g))) (fun p s =>
    let old := (getPlot s p).sums.filter (fun x => decide (x.1 / 16 ≠ gen))
    let s := updPlot p (fun v => { v with sums := v.sums.filter (fun x => decide (x.1 / 16 = gen)) }) s
    each old (fun x s =>
      let e := 16 * g.slot + x.1 % 16
      let s := sendFlit (dieOfPlot p) 4 3 2 (leBytes 2 e ++ leBytes 4 x.2.lanes ++ leBytes 4 x.2.clipped ++ leBytes 1 x.2.largest) s
      { s with fab := { s.fab with summaries := s.fab.summaries ++ [{ entry := e, bank := g.bank, die := dieOfPlot p, sum := x.2 }] } }) s) s

/-- Plots that a rotation keeps, at another place of the shape: a pinned model's resident area on them is filled again (log 109). -/
def moved (s : State) (g : Group) (target : List Nat) : List Nat :=
  if (getBank s g.slot g.bank).pin then target.filter (fun p => decide (p ∈ g.plots ∧ g.plots.idxOf p ≠ target.idxOf p)) else []

/-- R164: the headland is complete when every unit of the group has flipped: vacated plots are released, PLT_FLIP_CNT counts
it, and one PLT_ORPHAN reports what was discarded (R168). A rotation that turned with it then stands (R144). -/
def headlandComplete (gid : Nat) (tr : Trans) (s : State) : State :=
  match findGroup s gid with
  | none => s
  | some g =>
    let all := groupUnits g
    if !all.all (fun u => decide (unitGen s u = tr.gen)) then s
    else
      let s := each (transPlots g) (fun p s => bump (960 + 15 * p + 8) 1 s) s
      let s := if 0 < g.orphans then
          raiseOn (groupDie g) 0x0601 gid (min g.orphans (2 ^ 32 - 1)) g.firstUnit g.firstTag s
        else s
      let s := { s with fab := { s.fab with
        seen := s.fab.seen.filter (fun x => x.1 ∉ all), finished := s.fab.finished.filter (fun u => u ∉ all),
        drain := s.fab.drain.filter (fun d => !(d.2.headland && decide (plotOfTile d.1 ∈ transPlots g))) } }
      let s := sendSums g tr.gen (updGroup gid (fun g => { g with gen := tr.gen, cfg := tr.cfg, size := tr.size, trans := none, orphans := 0 }) s)
      match g.rot with
      | some r =>
        if tr.turns then
          let s := each (g.plots.filter (fun p => p ∉ r.target)) freePlot s
          let again := moved s g r.target
          let s := updGroup gid (fun g => { g with plots := r.target, rot := none, dwell := s.clk.now, unfilled := g.unfilled ++ again }) s
          let s := raiseOn (groupDie g) 0x0502 (groupDie g) gid ((g.plots[0]?).getD 0) ((r.target[0]?).getD 0) s
          bump 14 1 s
        else s
      | none => s

/-- R162, R165: a finished unit flips once its shadow is ready, or is found to hold the wrong seed; tokens that it held go on. -/
def unitFlip (u : Nat) (s : State) : State :=
  match groupOfPlot s (plotOfUnit u) with
  | none => s
  | some g =>
    match g.trans with
    | none => s
    | some tr =>
      let (shadow, _, ready) := unitCfg s u
      let gone := vacated g tr (plotOfUnit u)
      if u ∉ s.fab.finished ∨ unitGen s u = tr.gen then s
      else if ready && decide (shadow ≠ tr.cfg) && !gone then
        let s := bump (960 + 15 * plotOfUnit u + 5) 1 s
        let code := if u < 2048 then u else u - 2048
        let s := raiseOn (dieOfPlot (plotOfUnit u)) 0x0602 code shadow tr.cfg 0 s
        replant 1 stTainted g.gid s
      else if unitReady s g tr u then headlandComplete g.gid tr (flowAll (noteWait (plotOfUnit u) (flipUnit tr gone u s)))
      else s

end Sys2Proof.Machine
end

