-- ==== Sys2Proof/Machine/TileOps.lean ====
section
/-! DEFINITION. A tile core's registers, lanes, tile store and the shared steps of its instructions (R172 to R179, R199). -/
namespace Sys2Proof.Machine

/-! ### Registers (Table TIL-1) -/

/-- s0 reads as 0, and writes to it are ignored. -/
def getS (t : Tile) (r : Nat) : Nat := if r = 0 then 0 else (tget 0 r t.s).toNat

def setS (r v : Nat) (t : Tile) : Tile := if r = 0 then t else { t with s := tset 0 r (BitVec.ofNat 32 v) t.s }

/-- v registers take the low 3 bits of a field, accumulators and predicates the low 2. -/
def getV (t : Tile) (r : Nat) : Nat := (tget 0 (r % 8) t.v).toNat
def setV (r v : Nat) (t : Tile) : Tile := { t with v := tset 0 (r % 8) (BitVec.ofNat 512 v) t.v }
def getA (t : Tile) (r : Nat) : Nat := (tget 0 (r % 4) t.a).toNat
def setA (r v : Nat) (t : Tile) : Tile := { t with a := tset 0 (r % 4) (BitVec.ofNat 3072 v) t.a }
def getP (t : Tile) (r : Nat) : Nat := (tget 0 (r % 4) t.p).toNat
def setP (r v : Nat) (t : Tile) : Tile := { t with p := tset 0 (r % 4) (BitVec.ofNat 64 v) t.p }

/-- TILE_FLAGS bits are sticky (R174). -/
def orFlags (f : Nat) (t : Tile) : Tile := { t with flags := t.flags ||| f }

/-- TILE_MODE as the arithmetic uses it (Table TIL-3). -/
def tileFp (t : Tile) : FpMode := { rtz := t.mode.testBit 0, ftz := t.mode.testBit 1, sat8 := t.mode.testBit 2 }

/-! ### Lanes (R184, R200) -/

/-- Lane `i` of width `w`. -/
def laneOf (w v i : Nat) : Nat := bitsOf v (w * i) w

/-- The lanes 0 to n − 1. -/
def lanesOf (w n v : Nat) : List Nat := (List.range n).map (laneOf w v)

/-- A register from its lanes, lane 0 first. -/
def ofLanes (w : Nat) : List Nat → Nat
  | [] => 0
  | x :: xs => x % 2 ^ w + 2 ^ w * ofLanes w xs

/-- Lanes of a vector in a width: 512 / w. -/
def laneCount (w : Nat) : Nat := 512 / w

/-- The lane mask that FN[10:8] selects: PM 4–7 is p0–p3, 0–3 no mask (R185). Lanes past a mask's 64 bits are not written. -/
def maskOf (t : Tile) (pm : Nat) : Nat := if pm < 4 then 2 ^ 128 - 1 else getP t (pm - 4)

/-- Write computed lanes under a mask: lane i takes its value and raises its flags only where bit i of the mask is 1. -/
def writeLanes (w mask old : Nat) (res : List (Nat × Nat)) : Nat × Nat :=
  let merged := (List.range res.length).map (fun i =>
    match res[i]? with
    | some (v, f) => if mask.testBit i then (v, f) else (laneOf w old i, 0)
    | none => (laneOf w old i, 0))
  (ofLanes w (merged.map Prod.fst), merged.foldl (fun acc x => acc ||| x.2) 0)

/-- Accumulator lanes: 64 of 48 bits; signed value, and held within 48 bits with SAT (R189, R190). -/
def accLane (a i : Nat) : Nat := laneOf 48 a i
def accInt (a i : Nat) : Int := toSigned 48 (accLane a i)
def sat48 (x : Int) : Nat × Nat := satInt 48 true x

/-- round_half_even(x / 2^k) of a signed number. -/
def roundHalfEven (x : Int) (k : Nat) : Int :=
  let (r, _) := roundShift false x.natAbs k
  if x < 0 then -(r : Int) else r

/-! ### Tile store (R175, R176) -/

/-- (s[ra] + sign-extended IMM) mod 131,072, aligned down to the access size. -/
def tsAddr (t : Tile) (ra imm size : Nat) : Nat :=
  let a := (getS t ra + ofSigned 17 (toSigned 16 imm)) % 131072
  a - a % size

/-- `n` bytes from an address, wrapping at the end of the store, as a number. -/
def tsRead (t : Tile) (a n : Nat) : Nat := leNat ((List.range n).map (fun i => tget 0 ((a + i) % 131072) t.ts))

/-- Store bytes from an address, wrapping at the end of the store. A 64-bit word written whole is good again. -/
def tsWrite (a n v : Nat) (t : Tile) : Tile :=
  let bytes := leBytes n v
  let ts := (List.range n).foldl (fun m i => tset 0 ((a + i) % 131072) ((bytes[i]?).getD 0) m) t.ts
  { t with ts := ts, tsBad := t.tsBad.filter (fun w => !(List.range 8).all (fun b => decide ((8 * w + b + 131072 - a) % 131072 < n))) }

/-- A load meets a 64-bit word with an uncorrectable error. -/
def tsBadRead (t : Tile) (a n : Nat) : Bool := (List.range n).any (fun i => decide (((a + i) % 131072) / 8 ∈ t.tsBad))

/-! ### Fields of an instruction word (Table TIL-6) -/

def fOp (w : Nat) : Nat := bitsOf w 26 6
def fRd (w : Nat) : Nat := bitsOf w 21 5
def fRa (w : Nat) : Nat := bitsOf w 16 5
def fRb (w : Nat) : Nat := bitsOf w 11 5
def fFn (w : Nat) : Nat := bitsOf w 0 11
def fImm (w : Nat) : Nat := bitsOf w 0 16

/-- IMM sign-extended to 32 bits. -/
def fSimm (w : Nat) : Nat := ofSigned 32 (toSigned 16 (fImm w))

/-- The opcodes of Table TIL-7. -/
def opKnown (op : Nat) : Bool :=
  decide (op ∈ [0x00, 0x01, 0x02, 0x03, 0x04, 0x05, 0x06, 0x07, 0x08, 0x09, 0x0A, 0x0B, 0x0C, 0x0D, 0x0E, 0x10, 0x11, 0x12, 0x13,
    0x18, 0x19, 0x1A, 0x1B, 0x1C, 0x20, 0x21, 0x23, 0x28, 0x29, 0x2A, 0x2B, 0x30, 0x31, 0x34, 0x38, 0x3C, 0x3D, 0x3F])

/-! ### Issue, advance and fault -/

/-- The word at a tile's PC. -/
def tileWord (t : Tile) : Nat := bankWord t.active t.pc

/-- A block of the tile runs, its state lets it execute, and the word at its PC has the opcode. A gated plot's CLK_T is stopped (R294). -/
def canExec (s : State) (k op : Nat) : Bool :=
  let t := getTile s k
  plotsOn s && decide (t.run ≠ .idle ∧ t.run ≠ .fault ∧ fOp (tileWord t) = op)

/-- R199: the tile enters FAULT with a cause; the faulting instruction has no effect. -/
def tileFault (k cause : Nat) (s : State) : State :=
  let t := getTile s k
  let s := setTile k { t with run := .fault, cause := cause } s
  raiseOn (dieOfTile k) 0x0604 k cause t.pc (tileWord t) (bump (960 + 15 * plotOfTile k + 9) 1 s)

/-- The tile after an instruction that is not a taken branch: PC + 1 (R179). -/
def advance (t : Tile) : Tile := { t with run := .running, pc := t.pc + 1 }

/-- An instruction that changes only its own tile: `f` gives the tile after it, or the cause of its fault. An instruction that
would advance PC past 1,023 faults with cause 4. -/
def tileInstr (k op : Nat) (f : Nat → Tile → Except Nat Tile) (s : State) : State :=
  if canExec s k op then
    let t := getTile s k
    match f (tileWord t) t with
    | .error c => tileFault k c s
    | .ok t' => if 1023 ≤ t.pc then tileFault k 4 s else setTile k (advance t') s
  else s

/-- Deliver an entry's value to a register: s[DST], or v[DST[2:0]] for the vector network; a control token zero-extends from 8
bits (R178). -/
def deliverTo (net dst : Nat) (data : BitVec 512) (t : Tile) : Tile :=
  if net = 1 then setV dst data.toNat t
  else if net = 2 then setS dst (data.toNat % 256) t
  else setS dst (data.toNat % 2 ^ 32) t

/-- Consume an entry by its own mode (R177): EXACT frees it, SHARED counts one use and frees it at 0 (R153). -/
def consume (e : MsEntry) (ms : List MsEntry) : List MsEntry :=
  if e.shared && decide (1 < e.uses) then ms.map (fun x => if x.seqNo = e.seqNo then { x with uses := x.uses - 1 } else x)
  else ms.filter (fun x => x.seqNo ≠ e.seqNo)

/-- The entry a RECV takes: EXACT with all 16 bits of CT, or SHARED with its GEN and ITER (R194). -/
def recvEntry (t : Tile) (net port : Nat) (sh : Bool) : Option MsEntry :=
  t.ms.find? (fun e => decide (e.tok.net = net ∧ e.port = port ∧ e.shared = sh) &&
    (if sh then decide (tagKey e.tok.tag = tagKey t.ct) else decide (e.tok.tag = t.ct)))

/-- The tile goes no further of itself: it is idle, or its block waits in a RECV that no entry satisfies. -/
def tileStuck (t : Tile) : Bool :=
  let w := tileWord t
  decide (t.run = .idle) ||
    (decide (t.run = .waitRecv) && (recvEntry t (bitsOf w 19 2) (bitsOf w 16 3) (w.testBit 15)).isNone)

/-- A matching store is full with no block fireable: it stalls, which PLT_MS_FULL counts once per occurrence (R155). -/
def noteStall (k : Nat) (s : State) : State :=
  let t := getTile s k
  let stall := decide (64 ≤ t.ms.length) && tileStuck t && (fireable t).isNone
  let s := setTile k { t with msStall := stall } s
  if stall && !t.msStall then bump (960 + 15 * plotOfTile k + 6) 1 s else s

/-! ### The streamer's tap (R222 to R224) -/

/-- Lanes counted of a watched token (R223): codes in the entry's format. -/
def watchLanes (fmt : Nat) (full : Bool) (tok : Nat) : List Nat :=
  let w := if fmt < 2 then 4 else 8
  (List.range (if fmt < 2 && full then 128 else 64)).map (fun i => bitsOf tok (w * i) w)

/-- A lane's magnitude, and whether its code is clipped. -/
def watchLane (fmt zp code : Nat) : Nat × Bool :=
  let w := if fmt < 2 then 4 else 8
  let signed := decide (fmt % 2 = 0)
  let v := intVal w signed code
  let zp := if signed then 0 else zp
  ((v - zp).natAbs, decide (v = intHi w signed) || (decide (v = intLo w signed) && (signed || decide (zp ≠ 0))))

/-- A summary with a token's lanes, counted by an entry's word 0. -/
def watchAdd (w0 : Nat) (data : BitVec 512) (x : WatchSum) : WatchSum :=
  let rows := (watchLanes (bitsOf w0 2 4) (w0.testBit 6) data.toNat).map (watchLane (bitsOf w0 2 4) (bitsOf w0 24 8))
  { lanes := x.lanes + rows.length, clipped := x.clipped + (rows.filter Prod.snd).length, largest := max x.largest (maxOf (rows.map Prod.fst)) }

def noSum : WatchSum := { lanes := 0, clipped := 0, largest := 0 }

/-- The streamer taps a vector token that tile `k` sends on FEED (R223), where the seed gives its drain channel a watch index. A format other
than the four counts nothing. -/
def tapToken (k : Nat) (tok : Token) (s : State) : State :=
  let p := plotOfTile k
  let ch := (getTile s k).active.watch
  match (getPlot s p).group.bind (findGroup s) with
  | none => s
  | some g =>
    let w0 := leAt (padTo 32 (tblEntry s 0x30 (16 * g.slot + (ch - 1)))) 0 4
    if ch = 0 ∨ tok.net ≠ 1 ∨ 3 < bitsOf w0 2 4 then s
    else
      let key := 16 * tagGen tok.tag + (ch - 1)
      updPlot p (fun v => { v with sums := tset noSum key (watchAdd w0 tok.data (tget noSum key v.sums)) v.sums }) s

/-- The 16-byte tile record of STATS_SNAPSHOT (Table TIL-12). -/
def tileRecord (t : Tile) : List Byte :=
  let st := match t.run with
    | .idle => 0 | .running => 1 | .waitRecv => 2 | .waitSend => 3 | .waitSync => 4 | .waitEvent => 5 | .fault => 6
  leBytes 4 (st + 16 * t.blk + 256 * t.pc) ++ leBytes 4 (t.ct + 65536 * t.ot) ++
    leBytes 4 (t.flags % 64 + 256 * (t.mode % 8) + 4096 * t.cause) ++ leBytes 4 t.ms.length

end Sys2Proof.Machine
end

