-- ==== Sys2Proof/Machine/Sync.lean ====
section
/-! DEFINITION. Sync objects (R377 to R389): types, operations, waiters, timeouts, and the commands that reach them. -/
namespace Sys2Proof.Machine

/-- The descriptor that a command runs: held, unfinished, of the command's opcode, allowed to start; it is marked as executing
and `f` gets its bytes. Otherwise nothing happens. -/
def descRun (q pos op : Nat) (sub : List Byte → Bool) (f : List Byte → State → State) (s : State) : State :=
  match runnable s q pos op sub with
  | none => s
  | some b => f b (startDesc q pos s)

/-! ### Objects (R377, R379) -/

def synVal (s : State) (k : Nat) : Nat := getReg s (0x3C00 + 8 * k)
def synType (s : State) (k : Nat) : Nat := regF s (0x3C04 + 8 * k) 0 2
def synSat (s : State) (k : Nat) : Bool := (getReg s (0x3C04 + 8 * k)).testBit 2

/-- THRESHOLD; 0 acts as 1 (R380). -/
def synThreshold (s : State) (k : Nat) : Nat := max 1 (regF s (0x3C04 + 8 * k) 16 16)

def setSyn (k v : Nat) (s : State) : State := setRegIn 0x8000 (0x3C00 + 8 * k) v s

def setSynSat (k : Nat) (b : Bool) (s : State) : State :=
  setRegIn 0x8000 (0x3C04 + 8 * k) (setBitTo (getReg s (0x3C04 + 8 * k)) 2 b) s

/-- The home die of an object is fatal (R389). -/
def synDead (s : State) (k : Nat) : Bool := s.glb.dieFatal.testBit (k / 32)

/-- The operations (R379, R196). -/
inductive SynOp where
  | add | sub | set | trydec | waitGe | waitEq | read
  deriving DecidableEq, Repr

def SynOp.code : SynOp → Nat
  | .add => 0 | .sub => 1 | .set => 2 | .trydec => 3 | .waitGe => 4 | .waitEq => 5 | .read => 6

/-- ADD on a COUNTER or SEMAPHORE, saturating (R381); `who` is the requester id of Table SYN-1. -/
def synAdd (who k v : Nat) (s : State) : State :=
  let x := synVal s k
  if synType s k = 0 ∧ synSat s k = true then s
  else if 2 ^ 32 ≤ x + v then
    let s' := bump 84 1 (setSynSat k true (setSyn k (2 ^ 32 - 1) s))
    if synSat s k then s' else raiseOn (k / 32) 0x0F01 k who (synType s k) 0 s'
  else setSyn k (x + v) s

/-- ADD of a BARRIER: arrivals and generation (R380). -/
def synArrive (k v : Nat) (s : State) : State :=
  let x := synVal s k
  let t := synThreshold s k
  let a := x % 65536 + v
  setSyn k (65536 * ((x / 65536 + a / t) % 65536) + a % t) s

/-- What an operation that does not wait does to an object (Table SYN-2), and whether a TRYDEC decremented. -/
def synApply (op : SynOp) (who k v : Nat) (s : State) : State × Bool :=
  let x := synVal s k
  let ty := synType s k
  match op with
  | .add =>
    if ty = 2 then (synArrive k v s, false)
    else if ty = 3 then (if v ≠ 0 then setSyn k 1 s else s, false)
    else (synAdd who k v s, false)
  | .sub =>
    if ty = 2 then (setSyn k (x - x % 65536 + (x % 65536 - v)) s, false)
    else if ty = 3 then (setSyn k 0 s, false)
    else if ty = 0 ∧ synSat s k = true then (s, false)
    else (setSyn k (x - v) s, false)
  | .set =>
    if ty = 2 then (setSyn k v s, false)
    else if ty = 3 then (setSyn k (if v ≠ 0 then 1 else 0) s, false)
    else (setSynSat k false (setSyn k v s), false)
  | .trydec =>
    if ty = 2 then (if 1 ≤ x % 65536 then (setSyn k (x - 1) s, true) else (s, false))
    else if ty = 3 then (if x = 1 then (setSyn k 0 s, true) else (s, false))
    else if 1 ≤ x then (setSyn k (x - 1) s, true) else (s, false)
  | _ => (s, false)

/-- The condition of a wait: on a BARRIER the generation is compared, WAIT_GE modulo 2^16. -/
def synCond (s : State) (k : Nat) (eq : Bool) (v : Nat) : Bool :=
  let x := synVal s k
  if synType s k = 2 then
    let g := x / 65536
    if eq then decide (g = v % 65536) else decide ((g + 65536 - v % 65536) % 65536 < 32768)
  else if eq then decide (x = v) else decide (v ≤ x)

/-! ### Waiters (R383, R384) -/

/-- The die of a requester (Table SYN-1); the ring engine is on the I/O die, 4. -/
def reqDie (who : Nat) : Nat := if who < 1024 then who / 256 else if who < 1040 then 4 else who - 1040

/-- A request goes from its requester to the object's home, and what it comes to goes back, in class SYN where they are on different dies (R377). -/
def synFlit (op : SynOp) (who k v : Nat) (s : State) : State :=
  if reqDie who = k / 32 then s else sendFlit (reqDie who) (k / 32) 5 1 (leBytes 1 op.code ++ leBytes 1 k ++ leBytes 2 who ++ leBytes 4 v) s
def synAnswer (who k v : Nat) (s : State) : State :=
  if reqDie who = k / 32 then s else sendFlit (k / 32) (reqDie who) 5 2 (leBytes 1 k ++ leBytes 1 0 ++ leBytes 2 who ++ leBytes 4 v) s

/-- A released waiter resumes: a tile goes on behind its SYNC, a SYNC_OP completes with OK, a gate opens. -/
def resumeWaiter (w : Waiter) (s : State) : State :=
  if w.req < 1024 then updTile w.req (fun t => if t.run = .waitSync then advance t else t) s
  else if w.req < 1040 then complete (w.req - 1024) w.key 0 (synVal s w.obj) 0 0 s
  else updSheaf w.key (fun x => { x with gateWait := false, gateOpen := true }) s

/-- Every waiter of an object whose condition holds is released, and leaves the list first. -/
def releaseWaiters (k : Nat) (s : State) : State :=
  if synDead s k then s
  else
    let ok := fun (w : Waiter) => decide (w.obj = k) && synCond s k w.eq w.v
    let out := s.waits.filter ok
    each out (fun w s => resumeWaiter w (synAnswer w.req k (synVal s k) s)) { s with waits := s.waits.filter (fun w => !ok w) }

/-- SYN_OPS of the home die count an operation. -/
def synCount (k : Nat) (s : State) : State := bump (80 + k / 32) 1 s

/-- An operation at the home: its effect, then the waiters (R382, R383). -/
def synPerform (op : SynOp) (who k v : Nat) (s : State) : State × Bool :=
  let x := synVal s k
  let (s, ok) := synApply op who k v (synCount k (synFlit op who k v s))
  (releaseWaiters k (synAnswer who k x s), ok)

/-- A wait joins the waiter list unless its condition holds on arrival; on an object whose die is fatal it is never released (R389). -/
def joinWait (w : Waiter) (s : State) : State :=
  if synDead s w.obj then { s with waits := s.waits ++ [w] }
  else
    let s := synCount w.obj (synFlit (if w.eq then .waitEq else .waitGe) w.req w.obj w.v s)
    if synCond s w.obj w.eq w.v then resumeWaiter w (synAnswer w.req w.obj (synVal s w.obj) s) else { s with waits := s.waits ++ [w] }

/-! ### Requests (R196, R385, R389) -/

/-- SYNC of a tile: FN[2:0] selects the operation, 7 faults with cause 2; a fatal die answers 0. -/
def syncTile (op : SynOp) (k : Nat) (s : State) : State :=
  let t := getTile s k
  let w := tileWord t
  let fn := bitsOf w 0 3
  if !canExec s k 0x38 || decide (t.run = .waitSync) then s
  else if fn = 7 then tileFault k 2 s
  else if fn ≠ op.code then s
  else if 1023 ≤ t.pc then tileFault k 4 s
  else
    let so := getS t (fRa w) % 128
    let v := getS t (fRb w)
    let x := if synDead s so then 0 else synVal s so
    match op with
    | .waitGe | .waitEq =>
      joinWait { req := k, obj := so, eq := decide (op = .waitEq), v := v, key := 0, t0 := s.clk.now } (setTile k { t with run := .waitSync } s)
    | .trydec =>
      let (s, ok) := if synDead s so then (s, false) else synPerform .trydec k so v s
      updTile k (fun t => advance (setP (fRd w) (if ok then 2 ^ 64 - 1 else 0) t)) s
    | _ =>
      let s := if synDead s so then s else (synPerform op k so v s).1
      updTile k (fun t => advance (setS (fRd w) x t)) s

/-- The descriptor is of this operation, or of one that SYNC_OP does not have. -/
def syncOp (op : SynOp) (b : List Byte) : Bool := decide (byteAt b 17 = op.code ∨ 6 < byteAt b 17)

/-- SYNC_OP of a descriptor: a SO or OP out of range is BAD_PARAM, a fatal die DIE_FATAL. -/
def syncDesc (op : SynOp) (q pos : Nat) (s : State) : State :=
  descRun q pos 0x28 (syncOp op) (fun b s =>
    let so := byteAt b 16
    if 127 < so ∨ 6 < byteAt b 17 then complete q pos 0x41 0 0 0 s
    else if synDead s so then complete q pos 0x4A 0 0 0 s
    else if s.waits.any (fun w => decide (w.req = 1024 + q ∧ w.key = pos)) then s
    else
      let v := leAt b 20 4
      let x := synVal s so
      match op with
      | .waitGe | .waitEq =>
        joinWait { req := 1024 + q, obj := so, eq := decide (op = .waitEq), v := v, key := pos, t0 := s.clk.now } s
      | _ =>
        let (s, ok) := synPerform op (1024 + q) so v s
        complete q pos 0 x (b2n ok) 0 s) s

/-- A request from either requester. -/
def syncRun (op : SynOp) (r : Requester) (s : State) : State :=
  match r with
  | .tile k => syncTile op k s
  | .desc q pos => syncDesc op q pos s

/-- SYNC_ADD, R379. -/
def execSyncAdd (r : Requester) (s : State) : Out := .next (syncRun .add r s)
/-- SYNC_SUB, R379. -/
def execSyncSub (r : Requester) (s : State) : Out := .next (syncRun .sub r s)
/-- SYNC_SET, R379: clears SAT. -/
def execSyncSet (r : Requester) (s : State) : Out := .next (syncRun .set r s)
/-- SYNC_TRYDEC, R379. -/
def execSyncTrydec (r : Requester) (s : State) : Out := .next (syncRun .trydec r s)
/-- SYNC_WAIT_GE, R383. -/
def execSyncWaitGe (r : Requester) (s : State) : Out := .next (syncRun .waitGe r s)
/-- SYNC_WAIT_EQ, R383. -/
def execSyncWaitEq (r : Requester) (s : State) : Out := .next (syncRun .waitEq r s)
/-- SYNC_READ, R379. -/
def execSyncRead (r : Requester) (s : State) : Out := .next (syncRun .read r s)

/-- SYNC_OP_TIMEOUT, R385: the waiting SYNC_OP of an SQ leaves the waiter list and completes with TIMEOUT; a TIMEOUT of 0 waits
without limit. -/
def syncTimeout (q : Nat) (s : State) : State :=
  match s.waits.find? (fun w => w.req = 1024 + q) with
  | none => s
  | some w =>
    match findDesc s q w.key with
    | none => s
    | some d =>
      if leAt d.bytes 24 4 = 0 ∨ s.clk.now < w.t0 + 1000 * leAt d.bytes 24 4 then s
      else bump 85 1 (complete q w.key 0x48 0 0 0 { s with waits := s.waits.filter (fun x => x ≠ w) })

def execSyncOpTimeout (q : Fin 16) (s : State) : Out := .next (syncTimeout q s)

/-- SYN_WAIT_TO, R387: the gate of a sheaf's pass has waited SYN_SOWER_TO: every member ends INTERNAL. The gate word comes from the
pass's seed block. -/
def gateTimeout (sid : Nat) (s : State) : State :=
  match s.waits.find? (fun w => decide (1040 ≤ w.req ∧ w.key = sid)), findSheaf s sid with
  | some w, some x =>
    if s.clk.now < w.t0 + 1000 * max 1 (regF s 0x2624 0 16) then s
    else
      let word := w.obj + 128 + 256 * b2n w.eq + 65536 * (w.v % 65536)
      let s := { s with waits := s.waits.filter (fun y => y ≠ w) }
      let s := raiseOn (w.req - 1040) 0x0F02 w.obj (w.req - 1040) x.slot word s
      each x.members (failMsg stInternal) (each x.members leaveSheaf s)
  | _, _ => s

def execSynWaitTo (sheaf : Nat) (s : State) : Out := .next (gateTimeout sheaf s)

end Sys2Proof.Machine
end

