-- ==== Sys2Proof/Machine/Memory.lean ====
section
/-! DEFINITION. The memory system (R245 to R265): addresses, error protection, poison, remote line caches and directories, plot
buffers and the BAR2 window, with the commands of that family. -/
namespace Sys2Proof.Machine

/-! ### Addresses (R245 to R247) -/

/-- A DPA that lies in mapped memory: the lowest 24 GiB of each stack's 32 GiB window. -/
def mapped (dpa : Nat) : Bool := decide (dpa < 4 * 2 ^ 35 ∧ dpa % 2 ^ 35 < 24 * 2 ^ 30)

/-- The stack of a DPA, MS0 above every window (R246). -/
def stackOf (dpa : Nat) : Nat := if dpa < 4 * 2 ^ 35 then dpa / 2 ^ 35 else 0

/-- The first unmapped DPA of a range, if it has one. -/
def firstHole (dpa len : Nat) : Option Nat :=
  if len = 0 then none
  else if !mapped dpa then some dpa
  else
    let e := dpa / 2 ^ 35 * 2 ^ 35 + 24 * 2 ^ 30
    if e < dpa + len then some e else none

/-- A DPA that can be reached: mapped, and on a die that is not fatal (R397). -/
def reach (s : State) (dpa : Nat) : Bool := mapped dpa && !s.glb.dieFatal.testBit (stackOf dpa)

/-- The first DPA of a range that acts as unmapped (R246, R397). -/
def firstDead (s : State) (dpa len : Nat) : Option Nat :=
  if 0 < len ∧ s.glb.dieFatal.testBit (stackOf dpa) then some dpa else firstHole dpa len

/-- Where a stack's offset lies in the stack (R247). -/
structure Location where
  pc : Nat
  sid : Nat
  bank : Nat
  row : Nat
  col : Nat
  byte : Nat
  deriving DecidableEq, Repr

def locate (dpa : Nat) : Location :=
  let o := dpa % 2 ^ 35
  let k := o / 2 ^ 13
  let kk := k % 2 ^ 20
  { pc := (bitsOf o 8 5) ^^^ (bitsOf o 13 5), sid := k / 2 ^ 20, bank := (bitsOf kk 2 4) ^^^ (bitsOf kk 6 4), row := kk / 64,
    col := kk % 4, byte := o % 256 }

/-- MEM_HOLE_ACC of the stack whose window holds an unmapped DPA (R246). -/
def countHole (dpa : Nat) (s : State) : State := bump (2328 + 10 * stackOf dpa + 9) 1 s

/-! ### Bytes and poison -/

/-- What a byte that nothing has written reads as: 0 after zero-fill (R311), a free value after a built-in self-test of its stack (R438). -/
def memBase (s : State) (dpa : Nat) : Byte :=
  let g := tget 0 (stackOf dpa) s.mem.bist
  if g = 0 then 0 else Config.afterBist g dpa

def getMem (s : State) (dpa : Nat) : Byte := tget 0 dpa s.mem.hbm ^^^ memBase s dpa
def poisoned (s : State) (half : Nat) : Bool := tget false half s.mem.poison
def setPoison (half : Nat) (b : Bool) (s : State) : State := { s with mem := { s.mem with poison := tset false half b s.mem.poison } }
def putMem (dpa : Nat) (bytes : List Byte) (s : State) : State := 
  { s with mem := { s.mem with hbm := tsetList 0 dpa ((List.range bytes.length).zipWith (fun i b => b ^^^ memBase s (dpa + i)) bytes) s.mem.hbm } }
def memBytes (s : State) (dpa n : Nat) : List Byte := (List.range n).map (fun i => getMem s (dpa + i))

/-- The stack whose wrapper HBM1500 holds; its controller issues no request (R438). -/
def hbmHeld (s : State) : Option Nat := if s.tap.ir = .hbm1500 then some (regF s 0x8010 0 2) else none
def issues (s : State) (stack : Nat) : Bool := hbmUp s && decide (hbmHeld s ≠ some stack)

/-- The halves a range of bytes meets. -/
def halvesOf (dpa len : Nat) : List Nat := if len = 0 then [] else (List.range ((dpa + len - 1) / 32 - dpa / 32 + 1)).map (· + dpa / 32)

/-- The 128-byte lines a range of bytes meets. -/
def linesOf (dpa len : Nat) : List Nat := if len = 0 then [] else (List.range ((dpa + len - 1) / 128 - dpa / 128 + 1)).map (· + dpa / 128)

/-! ### Reports (R251 to R254) -/

/-- Record an uncorrectable read in MEM_ERR_LOGn: the first since VALID was cleared; later ones set MORE. -/
def logMem (dpa purpose die : Nat) (scrub : Bool) (s : State) : State :=
  let r := 0x3040 + 16 * stackOf dpa
  if (getReg s r).testBit 0 then orReg r 2 s
  else setReg (r + 8) (dpa / 2 ^ 32) (setReg (r + 4) dpa (setReg r (1 + 4 * purpose + 256 * die + 4096 * b2n scrub + (getReg s r &&& 2)) s))

/-- One uncorrectable half of one read: MEM_UNCORR, its counter and the log. `who` is the stream for KV and the slot for IMAGE. -/
def memUncorr (dpa purpose die who : Nat) (scrub : Bool) (s : State) : State :=
  let d := if purpose = 3 then 0 else die
  let n := stackOf dpa
  let s := logMem dpa purpose d scrub (bump (2328 + 10 * n + (if scrub then 3 else 1)) 1 s)
  raiseOn n 0x0901 n dpa (dpa / 2 ^ 32 % 256 + 256 * purpose + 4096 * d + 65536 * b2n scrub) who s

/-- One corrected half: its counter, and MEM_CORR_STORM once per second of DEV_TIME where the threshold is reached (R254). -/
def memCorr (dpa : Nat) (scrub : Bool) (s : State) : State :=
  let n := stackOf dpa
  let s := bump (2328 + 10 * n + (if scrub then 2 else 0)) 1 s
  let sec := devTime s / 1000000000
  let cnt := (if tget 0 n s.mem.corrSec = sec then tget 0 n s.mem.corrN else 0) + 1
  let s := { s with mem := { s.mem with corrSec := tset 0 n sec s.mem.corrSec, corrN := tset 0 n cnt s.mem.corrN } }
  let thr := regF s 0x3008 0 16
  if thr ≠ 0 ∧ thr ≤ cnt ∧ tget 0 n s.mem.storm ≠ sec + 1 then
    raiseOn n 0x0902 n cnt 0 0 { s with mem := { s.mem with storm := tset 0 n (sec + 1) s.mem.storm } }
  else s

/-! ### Coherence (R255 to R258) -/

def cacheKey (die line : Nat) : Nat := 2 ^ 33 * die + line
/-- What no line is ever put as: a modified line has its data. -/
def noLine : CacheLine := { st := .modified, data := [], used := 0, bad := 0 }
def findLine (s : State) (die line : Nat) : Option CacheLine := (s.mem.rlc.find? (fun x => x.1 = cacheKey die line)).map Prod.snd

/-- Put a line in a die's remote cache. -/
def putLine (die line : Nat) (c : CacheLine) (s : State) : State :=
  { s with mem := { s.mem with rlc := tset noLine (cacheKey die line) c s.mem.rlc } }

def dropLine (die line : Nat) (s : State) : State :=
  { s with mem := { s.mem with rlc := s.mem.rlc.filter (fun x => x.1 ≠ cacheKey die line) } }

def noDir : DirEntry := { held := 0, owned := false, used := 0 }
def getDir (s : State) (line : Nat) : DirEntry := tget noDir line s.mem.dir
def setDir (line : Nat) (d : DirEntry) (s : State) : State := { s with mem := { s.mem with dir := tset noDir line d s.mem.dir } }

/-- The next use number, for least-recently-used choices. -/
def nextUse (s : State) : Nat × State := (s.mem.useCtr + 1, { s with mem := { s.mem with useCtr := s.mem.useCtr + 1 } })

/-- The home die of a line. -/
def lineHome (line : Nat) : Nat := stackOf (128 * line)

/-- A coherence message about a line, in class COH (R255). DESIGN CHOICE (log 106): 1 a read, 2 a read for write, 3 a recall, 4 an invalidation,
5 an acknowledgement, 6 an EVICT or write-back notice; the line's address, and its number as the transaction tag. -/
def cohFlit (a b op line : Nat) (s : State) : State := sendFlit a b 1 op (leBytes 5 (128 * line) ++ leBytes 2 line) s

/-- Memory traffic of a range between two dies, in class MEM, a flit for every 64-byte line (R266). DESIGN CHOICE (log 106): 0 a read, 1 a write
with its data, 2 data read; address, transaction tag, data. -/
def memFlits (a b op dpa n : Nat) (data : List Byte) (s : State) : State :=
  each (if n = 0 then [] else List.range ((dpa + n - 1) / 64 - dpa / 64 + 1)) (fun i s =>
    let line := dpa / 64 + i
    sendFlit a b 0 op (leBytes 5 (64 * line) ++ leBytes 3 (line / 2) ++ slice data (64 * line - dpa) (64 * line + 64 - max dpa (64 * line))) s) s

/-- A modified line comes back from a die: its notice in class COH and its data in class MEM. -/
def noticeFlits (die line : Nat) (data : List Byte) (s : State) : State :=
  memFlits die (lineHome line) 1 (128 * line) 128 data (cohFlit die (lineHome line) 6 line s)

/-- A whole line reaches the home stack: every half that the cache holds good is written and its poison clears; a half that came to the cache
poisoned, and that nothing has written, stays as it is. -/
def writeBack (line : Nat) (c : CacheLine) (s : State) : State :=
  each [0, 1, 2, 3] (fun i s =>
    if c.bad.testBit i then s
    else setPoison (4 * line + i) false (putMem (128 * line + 32 * i) (padTo 32 (slice c.data (32 * i) 32)) s)) s

/-- The home recalls a line held M: the holder writes back and goes to S. -/
def recallLine (line : Nat) (s : State) : State :=
  let d := getDir s line
  let s := each (onesOf 4 d.held) (fun die s =>
    match findLine s die line with
    | some c =>
      let s := if d.owned then cohFlit (lineHome line) die 3 line s else s
      let s := if c.st = .modified then writeBack line c (noticeFlits die line c.data s) else s
      putLine die line { c with st := .shared, data := [], used := c.used } s
    | none => s) s
  if d.owned then setDir line { d with owned := false } s else s

/-- The home invalidates every holder but `keep`, merging M data first, and each acknowledges. A fill in flight for the line is not installed
(R257). -/
def invalidate (line : Nat) (keep : Option Nat) (s : State) : State :=
  let d := getDir s line
  let s := each (onesOf 4 d.held |>.filter (fun die => some die ≠ keep)) (fun die s =>
    let s := cohFlit die (lineHome line) 5 line (cohFlit (lineHome line) die 4 line s)
    match findLine s die line with
    | some c => dropLine die line (if c.st = .modified then writeBack line c (noticeFlits die line c.data s) else s)
    | none => s) s
  let s := { s with mem := { s.mem with fills := s.mem.fills.map (fun f => if f.2.1 = line ∧ some f.1 ≠ keep then (f.1, f.2.1, true) else f) } }
  match keep with
  | some k => setDir line { d with held := if d.held.testBit k then 2 ^ k else 0, owned := d.owned && d.held.testBit k } s
  | none => setDir line noDir s

/-- Allocate a directory entry: a full set evicts its least recently used one by invalidating its holders (MEM_DIR_BACKINV). -/
def allocDir (line : Nat) (s : State) : State :=
  if s.mem.dir.any (fun x => x.1 = line) then s
  else
    let home := stackOf (128 * line)
    let set := s.mem.dir.filter (fun x => decide (x.1 % 32768 = line % 32768 ∧ stackOf (128 * x.1) = home))
    if set.length < 16 then s
    else
      match set.foldl (fun (b : Option (Nat × DirEntry)) x => match b with
          | none => some x
          | some y => if x.2.used < y.2.used then some x else some y) none with
      | some v => bump (2328 + 10 * home + 8) 1 (invalidate v.1 none s)
      | none => s

/-- A die gives up a line: S or E with an EVICT notice, M with a write-back. -/
def evictLine (die line : Nat) (s : State) : State :=
  match findLine s die line with
  | none => s
  | some c =>
    let s := dropLine die line
      (if c.st = .modified then writeBack line c (noticeFlits die line c.data s) else cohFlit die (lineHome line) 6 line s)
    let d := getDir s line
    setDir line { d with held := setBitTo d.held die false, owned := d.owned && decide (c.st = .shared) } s

/-- The poisoned halves of a line at its home, one bit each. -/
def badHalves (s : State) (line : Nat) : Nat := sumOf ((List.range 4).map (fun i => b2n (poisoned s (4 * line + i)) * 2 ^ i))

/-- Install a line in a remote cache: the set's least recently used way leaves where all 16 are taken. -/
def installLine (die line : Nat) (st : Mesi) (s : State) : State :=
  let (u, s) := nextUse s
  let set := s.mem.rlc.filter (fun x => decide (x.1 / 2 ^ 33 = die ∧ x.1 % 8192 = line % 8192 ∧ x.1 ≠ cacheKey die line))
  let s := if set.length < 16 then s
    else
      match set.foldl (fun (b : Option (Nat × CacheLine)) x => match b with
          | none => some x
          | some y => if x.2.used < y.2.used then some x else some y) none with
      | some v => evictLine die (v.1 % 2 ^ 33) s
      | none => s
  putLine die line { st := st, data := memBytes s (128 * line) 128, used := u, bad := badHalves s line } s

/-- The home orders a remote read of a line: a dirty holder is recalled, the reader joins the presence vector, and its fill is in
flight. -/
def serveRead (die line : Nat) (s : State) : State :=
  let s := recallLine line (cohFlit die (lineHome line) 1 line s)
  let s := memFlits (lineHome line) die 2 (128 * line) 128 (memBytes s (128 * line) 128) s
  let (u, s) := nextUse (allocDir line s)
  let d := getDir s line
  let s := setDir line { held := setBitTo d.held die true, owned := false, used := u } s
  { s with mem := { s.mem with fills := s.mem.fills ++ [(die, line, false)] } }

/-- The home grants a line for write: every other holder is invalidated, and the reader holds it E. -/
def serveOwn (die line : Nat) (s : State) : State :=
  let s := invalidate line (some die) (cohFlit die (lineHome line) 2 line s)
  let s := memFlits (lineHome line) die 2 (128 * line) 128 (memBytes s (128 * line) 128) s
  let (u, s) := nextUse (allocDir line s)
  let s := setDir line { held := 2 ^ die, owned := true, used := u } s
  installLine die line .exclusive s

/-- Write bytes at the home from any source, a compute die or 4 for the I/O die: holders are invalidated first; a half covered whole loses its
poison, a poisoned half covered in part stays as it is. Answers whether a poisoned half was met so. -/
def homeWrite (src dpa : Nat) (bytes : List Byte) (s : State) : State × Bool :=
  let n := bytes.length
  let s := each (linesOf dpa n) (fun l => invalidate l none) (memFlits src (stackOf dpa) 1 dpa n bytes s)
  (halvesOf dpa n).foldl (fun (acc : State × Bool) h =>
    let lo := max dpa (32 * h)
    let hi := min (dpa + n) (32 * h + 32)
    let part := slice bytes (lo - dpa) (hi - lo)
    if hi - lo = 32 then (putMem lo part (setPoison h false acc.1), acc.2)
    else if poisoned acc.1 h then (acc.1, true)
    else (putMem lo part acc.1, acc.2)) (s, false)

/-! ### Decoding a read (R250, R251) -/

/-- Decode one half of a read (R250, R251): `err` is what the stack's 36 bytes came out different by. Answers whether the half is
bad. A half that comes out as it was stored has no syndrome. -/
def decodeHalf (half purpose die who : Nat) (scrub raced : Bool) (err : List Byte) (s : State) : State × Bool :=
  if poisoned s half then (memUncorr (32 * half) purpose die who scrub s, true)
  else if err.all (fun b => decide (b = 0)) then (s, false)
  else
    let data := memBytes s (32 * half) 32
    match eccDecode (xorBytes (data ++ eccBytes data) (padTo 36 err)) with
    | some (_, false) => (s, false)
    | some (d, true) => (memCorr (32 * half) scrub (if raced then s else putMem (32 * half) d s), false)
    | none => (memUncorr (32 * half) purpose die who scrub (if raced then s else setPoison half true s), true)

/-- Decode the halves of a read in turn; `errs` lists by half what comes out different. Answers the bad ones. -/
def decodeHalves (purpose die who : Nat) (errs : List (Nat × List Byte)) : List Nat → State → State × List Nat
  | [], s => (s, [])
  | h :: hs, s =>
    let (s, b) := decodeHalf h purpose die who false false (((errs.find? (fun e => e.1 = h)).map Prod.snd).getD []) s
    let (s, bad) := decodeHalves purpose die who errs hs s
    (s, if b then h :: bad else bad)

/-- Read bytes at the home for the HOST purpose: dirty lines are recalled; a poisoned half reads as zeros, and is reported. The I/O die asks the
home die, which answers. -/
def homeRead (dpa n : Nat) (errs : List (Nat × List Byte)) (s : State) : State × List Byte × Bool :=
  let s := each (linesOf dpa n) recallLine (memFlits 4 (stackOf dpa) 0 dpa n [] s)
  let (s, bad) := decodeHalves 3 0 0 errs (halvesOf dpa n) s
  let bytes := (List.range n).map (fun i => if (dpa + i) / 32 ∈ bad then 0 else getMem s (dpa + i))
  (memFlits (stackOf dpa) 4 2 dpa n bytes s, bytes, !bad.isEmpty)

/-! ### The model area (R366) -/

/-- The DPA of a bundle offset of a bank. -/
def bundleDpa (slot b o : Nat) : Nat := o / 2 ^ 29 * 2 ^ 35 + 2 ^ 33 + (2 * slot + b) * 2 ^ 29 + o % 2 ^ 29

/-- A byte of a bundle as an engine requester sees it: zero in a poisoned half (R252). -/
def bundleByte (s : State) (slot b o : Nat) : Byte :=
  let a := bundleDpa slot b o
  if poisoned s (a / 32) then 0 else getMem s a

/-- A field of a bundle as it stands in HBM, little-endian. -/
def bundleNat (s : State) (slot b o n : Nat) : Nat := leNat ((List.range n).map (fun i => bundleByte s slot b (o + i)))

/-- The halves that hold a range of a bundle. -/
def bundleHalves (slot b o n : Nat) : List Nat :=
  if n = 0 then [] else (List.range ((o + n - 1) / 32 - o / 32 + 1)).map (fun i => bundleDpa slot b (32 * (o / 32 + i)) / 32)

/-- The slot and bank whose region holds a DPA of the model area. -/
def regionOf (dpa : Nat) : Option (Nat × Nat) :=
  if mapped dpa ∧ 2 ^ 33 ≤ dpa % 2 ^ 35 then
    let r := (dpa % 2 ^ 35 - 2 ^ 33) / 2 ^ 29
    some (r / 2, r % 2)
  else none

/-- Group and pass records of a bundle (R363, R364). -/
def groupRec (s : State) (slot b i o n : Nat) : Nat := bundleNat s slot b ((getBank s slot b).groupOff + 32 * i + o) n
def passRec (s : State) (slot b i o n : Nat) : Nat := bundleNat s slot b ((getBank s slot b).passOff + 192 * i + o) n
def resBytes (s : State) (g : Group) : Nat := groupRec s g.slot g.bank g.idx 10 4

/-! ### Marking the messages of a failed read (R252, Table MEM-4) -/

/-- A message is marked with a status: its outputs and staged rows go. -/
def markMsg (st mid : Nat) (s : State) : State :=
  failMsg st mid (updMsg mid (fun m => { m with outputs := none, staged := false, rowsOut := [] }) s)

/-- Every member of a group's running pass. -/
def passMembers (s : State) (gid : Nat) : List Nat :=
  match findGroup s gid with
  | some g => (match g.run with | some r => r.members | none => [])
  | none => []

def markPass (st gid : Nat) (s : State) : State := each (passMembers s gid) (markMsg st) s

/-- An uncorrectable IMAGE read: the pass's members end MODEL_POISON, the bank is poisoned, and so are the members of the bank's
other sheaves that have run their first pass. -/
def poisonBank (gid : Nat) (s : State) : State :=
  match findGroup s gid with
  | none => s
  | some g =>
    let s := markPass stPoison gid s
    let s := setBank g.slot g.bank { getBank s g.slot g.bank with poison := true } s
    let others := (s.sheaves.filter (fun x => decide (x.slot = g.slot ∧ x.bank = g.bank ∧ 0 < x.pass))).flatMap Sheaf.members
    each others (markMsg stPoison) s

/-- What a poisoned read does to messages, by purpose; `owner` is the group for IMAGE and WORK, the message for KV. -/
def poisonRead (purpose owner : Nat) (s : State) : State :=
  match purpose with
  | 0 => poisonBank owner s
  | 1 => markMsg stKvErr owner s
  | 2 => markPass stInternal owner s
  | _ => s

/-- Argument 2 of MEM_UNCORR. -/
def uncorrWho (s : State) (purpose owner : Nat) : Nat :=
  match purpose with
  | 0 => (match findGroup s owner with | some g => g.slot | none => 0)
  | 1 => (match findMsg s owner with | some m => m.stream | none => 0)
  | _ => 0

/-- A read that meets bad halves is handled by its purpose; each was reported. -/
def handleBad (purpose owner : Nat) (bad : List Nat) (s : State) : State := if bad.isEmpty then s else poisonRead purpose owner s

/-! ### HBM_READ, HBM_WRITE, REFRESH and SCRUB_READ -/

/-- A 64-byte line goes to a die's requester: zeros in its bad halves (R252). -/
def deliverLine (die dpa purpose owner : Nat) (bad : List Nat) (data : List Byte) (s : State) : State :=
  let half := fun i => if dpa / 32 + i ∈ bad then List.replicate 32 0#8 else padTo 32 (slice data (32 * i) 32)
  { s with mem := { s.mem with lines := tset Delivered.init die { dpa := dpa, purpose := purpose, owner := owner, data := half 0 ++ half 1 } s.mem.lines } }

/-- Halves that a read finds bad in the die's cache are reported as the first uncorrectable read was (R251). -/
def reportHalves (purpose die who : Nat) (bad : List Nat) (s : State) : State :=
  each bad (fun h => memUncorr (32 * h) purpose die who false) s

/-- A read that its die's cache serves: the line was used, and its data as cached is delivered. -/
def cacheHit (die dpa purpose owner : Nat) (c : CacheLine) (s : State) : State :=
  let line := dpa / 128
  let (u, s) := nextUse s
  let s := bump (2328 + 10 * die + 6) 1 (putLine die line { c with used := u } s)
  let bad := [dpa / 32, dpa / 32 + 1].filter (fun h => c.bad.testBit (h % 4))
  let s := reportHalves purpose die (uncorrWho s purpose owner) bad s
  let data := if c.st = .modified then slice c.data (dpa % 128) 64 else memBytes s dpa 64
  handleBad purpose owner bad (deliverLine die dpa purpose owner bad data s)

/-- HBM_READ, R250: die `die` reads the 64-byte line at `dpa` for a purpose. A line in its remote cache is a hit; another
die's line goes through its home; a fill is installed unless an invalidation met it. An unmapped address is read as poisoned data (R246). -/
def hbmRead (die dpa purpose owner : Nat) (e0 e1 : List Byte) (s : State) : State :=
  let dpa := dpa / 64 * 64
  let line := dpa / 128
  let remote := decide (stackOf dpa ≠ die ∧ purpose ≠ 3)
  if !reach s dpa then
    poisonRead purpose owner (deliverLine die dpa purpose owner [dpa / 32, dpa / 32 + 1] [] (countHole dpa s))
  else
    match if remote then findLine s die line else none with
    | some c => cacheHit die dpa purpose owner c s
    | none =>
      let s := if remote then
          (if s.mem.fills.any (fun f => f.1 = die ∧ f.2.1 = line) then s else serveRead die line (pmuDie die 9 1 (bump (2328 + 10 * die + 7) 1 s)))
        else recallLine line s
      let (s, bad) := decodeHalves purpose die (uncorrWho s purpose owner) [(dpa / 32, e0), (dpa / 32 + 1, e1)] [dpa / 32, dpa / 32 + 1] s
      let s := if remote then
          (match s.mem.fills.find? (fun f => f.1 = die ∧ f.2.1 = line) with
           | some f =>
             let s := { s with mem := { s.mem with fills := s.mem.fills.erase f } }
             if f.2.2 then s else installLine die line .shared s
           | none => s)
        else s
      handleBad purpose owner bad (deliverLine die dpa purpose owner bad (memBytes s dpa 64) s)

/-- HBM_READ, R250. -/
def execHbmRead (die : Fin 4) (dpa : BitVec 40) (purpose : Fin 4) (owner : Nat) (e0 e1 : List Byte) (s : State) : Out :=
  .next (if issues s (stackOf dpa.toNat) then hbmRead die dpa.toNat purpose owner e0 e1 s else s)

/-- A die that will write a WORK line of another die reads it for write. Poisoned halves that `cover` does not name, which the coming write does
not replace, are met by that read (log 107). -/
def ownLine (die line owner : Nat) (cover : List Nat) (s : State) : State :=
  let s := serveOwn die line s
  let bad := ((List.range 4).map (· + 4 * line)).filter (fun h => poisoned s h && decide (h ∉ cover))
  handleBad 2 owner bad (reportHalves 2 die 0 bad s)

/-- The die holds the line S, or not at all. -/
def notOwned (s : State) (die line : Nat) : Bool := match findLine s die line with | some c => decide (c.st = .shared) | none => true

/-- HBM_WRITE, R251: an engine requester's 64-byte line reaches its home; a WORK line that the die holds E or M is written in its
cache instead, silently M. At an unmapped address a drain's write is handled as a read of poisoned data of its purpose (R246). -/
def hbmWrite (die dpa purpose owner : Nat) (data : List Byte) (s : State) : State :=
  let dpa := dpa / 64 * 64
  let line := dpa / 128
  if !reach s dpa then poisonRead purpose owner (countHole dpa s)
  else if purpose = 2 ∧ stackOf dpa ≠ die then
    let cover := [dpa / 32, dpa / 32 + 1]
    let s := if notOwned s die line then ownLine die line owner cover s else s
    match findLine s die line with
    | some c =>
      let (u, s) := nextUse s
      let bad := cover.foldl (fun b h => setBitTo b (h % 4) false) c.bad
      putLine die line { st := .modified, data := overlay c.data (dpa % 128) (padTo 64 data), used := u, bad := bad } s
    | none => s
  else (homeWrite die dpa (padTo 64 data) s).1

def execHbmWrite (die : Fin 4) (dpa : BitVec 40) (purpose : Fin 3) (owner : Nat) (data : List Byte) (s : State) : Out :=
  .next (if issues s (stackOf dpa.toNat) then hbmWrite die dpa.toNat purpose owner data s else s)

/-- REFRESH, R249: an all-bank refresh of a pseudo-channel; the requests that waited for it spent `waits` ns, each at most 350. -/
def refresh (stack : Nat) (waits : List Nat) (s : State) : State :=
  bump (2328 + 10 * stack + 5) (sumOf (waits.map (min 350))) s

def execRefresh (stack : Fin 4) (_pc : Fin 32) (waits : List Nat) (s : State) : Out :=
  .next (if issues s stack then refresh stack waits s else s)

/-- Halves of a stack's mapped memory. -/
def halvesPerStack : Nat := 24 * 2 ^ 30 / 32

/-- SCRUB_READ, R253: the next half of the stack's walk; `raced` tells that a write reached the half before the write-back. -/
def scrubRead (stack : Nat) (err : List Byte) (raced : Bool) (s : State) : State :=
  if !(getReg s 0x3000).testBit 0 || s.glb.dieFatal.testBit stack then s
  else
    let k := tget 0 stack s.mem.scrubPos
    let half := stack * 2 ^ 30 + k
    let s := recallLine (half / 4) s
    let (s, _) := decodeHalf half 4 stack 0 true raced err s
    let last := decide (halvesPerStack ≤ k + 1)
    let s := { s with mem := { s.mem with scrubPos := tset 0 stack (if last then 0 else k + 1) s.mem.scrubPos } }
    if last then bump (2328 + 10 * stack + 4) 1 s else s

def execScrubRead (stack : Fin 4) (err : List Byte) (raced : Bool) (s : State) : Out :=
  .next (if issues s stack then scrubRead stack err raced s else s)

/-! ### COHERENCE_REQUEST and INVALIDATION_RECEIVED -/

/-- COHERENCE_REQUEST, R255: 0 a remote read (the fill is then in flight), 1 a read for write of a WORK line of group `owner`, 2 a write with 128
bytes of data, 3 an eviction or write-back by a cache, 4 a read by the home die. -/
def coherence (die line kind owner : Nat) (data : List Byte) (s : State) : State :=
  let home := lineHome line
  if !reach s (128 * line) then (if kind = 1 then poisonRead 2 owner (countHole (128 * line) s) else countHole (128 * line) s)
  else
    match kind with
    | 0 => if home = die then s else serveRead die line s
    | 1 => if home = die then s else ownLine die line owner [] s
    | 2 => (homeWrite die (128 * line) (padTo 128 data) s).1
    | 3 => evictLine die line s
    | _ => recallLine line s

def execCoherenceRequest (die : Fin 4) (line : BitVec 33) (kind : Fin 5) (owner : Nat) (data : List Byte) (s : State) : Out :=
  .next (if issues s (stackOf (128 * line.toNat)) then coherence die line.toNat kind owner data s else s)

/-- INVALIDATION_RECEIVED, R257: the cache drops the line, with its data merged at the home where it is M; a fill in flight serves its
request but is not installed. -/
def invalidationReceived (die line : Nat) (s : State) : State :=
  let s := evictLine die line s
  let s := { s with mem := { s.mem with fills := s.mem.fills.map (fun f => if f.1 = die ∧ f.2.1 = line then (f.1, f.2.1, true) else f) } }
  let d := getDir s line
  setDir line { d with held := setBitTo d.held die false } s

def execInvalidationReceived (die : Fin 4) (line : BitVec 33) (s : State) : Out := .next (invalidationReceived die line.toNat s)

/-! ### KV rows (R120, R122, R260) -/

/-- Bytes of a KV row (R120). -/
def kvRow (v : Stream) : Nat := ceilDiv (ceilDiv (v.kvH * v.kvE * (if v.kvFmt = 0 then 4 else 8)) 8) 64 * 64

/-- The DPA of the row of layer `l`, tensor `t` and ring slot `n`. -/
def kvAddr (v : Stream) (l t n : Nat) : Nat := v.kvBase + ((2 * l + t) * v.pcap + n) * kvRow v

/-- INT4 elements in bytes: element 2i in bits [3:0] of its byte, element 2i + 1 in bits [7:4] (R120). -/
def packInt4 : List Nat → List Byte
  | [] => []
  | [a] => [BitVec.ofNat 8 (a % 16)]
  | a :: b :: rest => BitVec.ofNat 8 (a % 16 + 16 * (b % 16)) :: packInt4 rest

/-- The bytes of a KV row from its elements, head by head and within a head by dimension, padded to ROW (R120). -/
def packRow (v : Stream) (elems : List Nat) : List Byte :=
  let e := elems.take (v.kvH * v.kvE)
  padTo (kvRow v) (if v.kvFmt = 0 then packInt4 e else e.map (BitVec.ofNat 8))

/-- The codes that a drained vector token carries of a KV row: 64 of 8 bits, or of 4 bits 64 in bits [255:0] or, `full`, 128. -/
def rowLanes (fmt : Nat) (full : Bool) (tok : Token) : List Nat :=
  let w := if fmt = 0 then 4 else 8
  (List.range (if decide (fmt = 0) && full then 128 else 64)).map (fun i => bitsOf tok.data.toNat (w * i) w)

/-- A drained token is a message's: a vector DATA token of a tile whose tag names it. -/
def drainedFor (s : State) (mid tile : Nat) (x : Nat × Token) : Bool :=
  decide (x.1 = tile ∧ x.2.net = 1) && !x.2.headland &&
    (match (getPlot s (tile / 16)).group.bind (findGroup s) with
     | some g => decide (tagOwners g x.2.tag = [mid])
     | none => false)

/-- Take the oldest `n` entries that a test names out of a list; none where it has fewer. -/
def takeSome {α : Type} (p : α → Bool) : Nat → List α → Option (List α × List α)
  | 0, l => some ([], l)
  | _ + 1, [] => none
  | n + 1, x :: l =>
    if p x then (takeSome p n l).map (fun r => (x :: r.1, r.2)) else (takeSome p (n + 1) l).map (fun r => (r.1, x :: r.2))

/-- Drained tokens of a message go once no row of it is outstanding. -/
def clearDrain (mid : Nat) (s : State) : State :=
  match findMsg s mid with
  | some m => if m.rowsOut = [] then { s with fab := { s.fab with drain := s.fab.drain.filter (fun x => !drainedFor s mid x.1 x) } } else s
  | none => s

/-- KV_ROW_ACK, R260: the home controller performs the write of a staged row (new position `n` of layer `l`, tensor `t`), which the drain packs
from the tokens of a tile, and acknowledges it; the outputs go on once no row is outstanding. The message's predecessor has ended, so that its
staging slots are the ones behind KV_HEAD (R122, R124). At an unmapped address the drain's write is handled as a poisoned KV read (R246). -/
def kvRowAck (mid l t n tile : Nat) (full : Bool) (s : State) : State :=
  match findMsg s mid with
  | none => s
  | some m =>
    let v := getStream s m.stream
    let code := (2 * l + t) * v.newPos + n
    let per := if decide (v.kvFmt = 0) && full then 128 else 64
    if v.kvL ≤ l ∨ v.newPos ≤ n ∨ code ∉ m.rowsOut ∨ !isOldest s m then s
    else
      match takeSome (drainedFor s mid tile) (ceilDiv (v.kvH * v.kvE) per) s.fab.drain with
      | none => s
      | some (toks, rest) =>
        let a := kvAddr v l t ((v.kvHead + n) % max 1 v.pcap)
        let s := { s with fab := { s.fab with drain := rest } }
        if !reach s a then poisonRead 1 mid (countHole a s)
        else
          let s := (homeWrite (tile / 256) a (packRow v (toks.flatMap (fun x => rowLanes v.kvFmt full x.2))) s).1
          clearDrain mid (updMsg mid (fun m => { m with rowsOut := m.rowsOut.erase code }) s)

def execKvRowAck (mid l : Nat) (t : Fin 2) (n : Nat) (tile : Fin 1024) (full : Bool) (s : State) : Out := .next (kvRowAck mid l t n tile full s)

/-! ### Plot buffers (R261 to R263) -/

/-- Where the image of a plot's resident area lies in the bundle: the plots of a group take consecutive pieces of its resident image, in shape
order. -/
def residentAt (s : State) (g : Group) (p : Nat) : Nat :=
  let i := (g.plots ++ (match g.rot with | some r => r.target | none => [])).idxOf p % max 1 g.plots.length
  groupRec s g.slot g.bank g.idx 18 8 + i * resBytes s g

/-- RESIDENT_FILL_DONE, R262: every word of the plot's resident area is rewritten from the bank's HBM image, which the copy engine reads as
IMAGE data (log 108). -/
def residentFill (p : Nat) (errs : List (Nat × List Byte)) (s : State) : State :=
  match groupOfPlot s p with
  | none => s
  | some g =>
    if p ∉ g.unfilled then s
    else
      let n := resBytes s g
      let o := residentAt s g p
      let (s, bad) := decodeHalves 0 (dieOfPlot p) g.slot errs (bundleHalves g.slot g.bank o n) s
      let img := (List.range n).map (fun k => bundleByte s g.slot g.bank (o + k))
      let s := updPlot p (fun v => { v with buf := tsetList 0 0 img v.buf, bufBad := v.bufBad.filter (fun w => n ≤ 8 * w) }) s
      let s := updGroup g.gid (fun g => { g with unfilled := without p g.unfilled }) s
      if bad.isEmpty then s else poisonBank g.gid s

/-! ### BAR2 (R264) -/

def bar2Dpa (s : State) (x : Nat) : Nat := regF s 0x300C 16 12 * 2 ^ 28 + x

/-- BAR2_READ, R264: `n` dwords at dword `x` of the window. -/
def bar2Read (x n : Nat) (errs : List (Nat × List Byte)) (s : State) : State :=
  let ones := List.replicate (4 * n) (255#8 : Byte)
  let dpa := bar2Dpa s (4 * x)
  if !(getReg s 0x300C).testBit 0 then { s with answer := some { data := ones, poisoned := false } }
  else
    match firstDead s dpa (4 * n) with
    | some h => { countHole h s with answer := some { data := ones, poisoned := false } }
    | none =>
      let (s, bytes, bad) := homeRead dpa (4 * n) errs s
      { s with answer := some { data := if bad then ones else bytes, poisoned := bad } }

def execBar2Read (x : Fin 67108864) (n : Fin 1024) (errs : List (Nat × List Byte)) (s : State) : Out :=
  .next (if barUp s && decide (hbmHeld s ≠ some (stackOf (bar2Dpa s (4 * x)))) then bar2Read x n errs s else s)

/-- BAR2_WRITE, R264: bytes written at an offset of the window. -/
def bar2Write (x : Nat) (bytes : List Byte) (s : State) : State :=
  if !(getReg s 0x300C).testBit 0 then s
  else
    match firstDead s (bar2Dpa s x) bytes.length with
    | some h => countHole h s
    | none => (homeWrite 4 (bar2Dpa s x) bytes s).1

def execBar2Write (x : Fin 268435456) (bytes : List Byte) (s : State) : Out := .next (if barUp s && decide (hbmHeld s ≠ some (stackOf (bar2Dpa s x))) then bar2Write x bytes s else s)

end Sys2Proof.Machine
end

