-- ==== Sys2Proof/Machine/Sower.lean ====
section
/-! DEFINITION. The Sower's passes (R129 to R144): readiness, gates, energy, dispatch, completion, overrun, shedding, placement and
rotation, and the fabric commands of a transition (R158 to R165). -/
namespace Sys2Proof.Machine

/-! ### Pass records (R363) -/

/-- The group of a sheaf's next pass. -/
def sheafGroup (s : State) (x : Sheaf) : Option Group :=
  let idx := passRec s x.slot x.bank x.pass 2 1
  s.groups.find? (fun g => decide (g.slot = x.slot ∧ g.bank = x.bank ∧ g.idx = idx))

def passLayer (s : State) (slot b i : Nat) : Nat := passRec s slot b i 0 2
def passKv (s : State) (slot b i : Nat) : Bool := (passRec s slot b i 3 1).testBit 0
def passCfg (s : State) (slot b i : Nat) : Nat := passRec s slot b i 4 2

/-- E(S) in nJ, and the latency bound in ns. -/
def passEnergy (s : State) (slot b i n : Nat) : Nat := 100 * passRec s slot b i (32 + 2 * (n - 1)) 2
def passBound (s : State) (slot b i n : Nat) : Nat := passRec s slot b i (96 + 2 * (n - 1)) 2

/-- The gate word that opens a pass's seed block (Table SYN-3), where its EN bit is set. -/
def gateWord (s : State) (slot b i : Nat) : Option Nat :=
  let w := bundleNat s slot b (passRec s slot b i 8 8) 4
  if w.testBit 7 then some w else none

/-- The agent of a sheaf's next pass. -/
def sheafDie (s : State) (x : Sheaf) : Nat := match sheafGroup s x with | some g => groupDie g | none => 0

/-! ### Members (R133, R134) -/

/-- Remove from a closed sheaf, before its next pass, the members that have failed or are held; at a pass that reads KV detach those
whose predecessor has not ended. A poisoned bank ends its new messages at their first pass (Table MEM-4), a group without placement
ends them INTERNAL (R394). -/
def trimSheaf (sid : Nat) (s : State) : State :=
  match findSheaf s sid with
  | none => s
  | some x =>
    let bank := getBank s x.slot x.bank
    let s := if bank.poison ∧ x.pass = 0 then each x.members (markMsg stPoison) s else s
    let unplaced := match sheafGroup s x with | some g => g.plots.isEmpty | none => true
    let s := if unplaced then each x.members (failMsg stInternal) s else s
    each x.members (fun mid s =>
      match findMsg s mid with
      | none => leaveSheaf mid s
      | some m =>
        if m.status.isSome || m.held then leaveSheaf mid (updMsg mid (fun m => { m with loc := .idle }) s)
        else if passKv s x.slot x.bank x.pass && !isOldest s m then leaveSheaf mid (updMsg mid (fun m => { m with loc := .detached }) s)
        else s) s

/-- Closed sheaves that stand before a pass, in the order of R135: class, then closing; sheaves that closed in the same cycle go in the order
in which they opened. -/
def sheafLt (a b : Sheaf) : Bool :=
  decide (a.cls < b.cls) || (decide (a.cls = b.cls) &&
    (decide (a.closeAt < b.closeAt) || (decide (a.closeAt = b.closeAt) && decide (a.sid < b.sid))))

def insertSheaf (x : Sheaf) : List Sheaf → List Sheaf
  | [] => [x]
  | y :: ys => if sheafLt x y then x :: y :: ys else y :: insertSheaf x ys

def closedSheaves (s : State) : List Sheaf :=
  (s.sheaves.filter (fun x => !x.forming && !sheafRuns s x.sid)).foldl (fun acc x => insertSheaf x acc) []

/-! ### Placement (R143, R370) -/

/-- The eight rotations and reflections of a cell of a mesh, before translation. -/
def symmetry (k : Nat) (x y : Int) : Int × Int :=
  match k with
  | 0 => (x, y) | 1 => (-x, y) | 2 => (x, -y) | 3 => (-x, -y)
  | 4 => (y, x) | 5 => (-y, x) | 6 => (y, -x) | _ => (-y, -x)

def minOfInt (l : List Int) : Int := match l with | [] => 0 | a :: as => as.foldl min a

/-- Every image of a list of plots, in shape order, under one symmetry and one translation on every die of the list, where each fits its
die's mesh. -/
def shapeImages (shape : List Nat) : List (List Nat) :=
  (List.range 8).flatMap (fun k =>
    let cells := shape.map (fun p => symmetry k (p % 16 % 4 : Nat) (p % 16 / 4 : Nat))
    let x0 := minOfInt (cells.map Prod.fst)
    let y0 := minOfInt (cells.map Prod.snd)
    (List.range 16).filterMap (fun t =>
      let moved := cells.map (fun c => (c.1 - x0 + (t % 4 : Nat), c.2 - y0 + (t / 4 : Nat)))
      if moved.all (fun c => decide (c.1 < 4 ∧ c.2 < 4)) then
        some ((shape.zip moved).map (fun x => 16 * dieOfPlot x.1 + 4 * x.2.2.toNat + x.2.1.toNat))
      else none))

/-- Candidate placements of a shape (R143). Of a group over several dies whose seeds use a die-edge channel, only the shape's own place keeps
each on its edge and channel: every other transform moves it. `free` tells that the seeds are known to use none. -/
def candidates (shape : List Nat) (free : Bool) : List (List Nat) :=
  match shape.foldl (fun acc p => insertNew (dieOfPlot p) acc) [] with
  | [_] => shapeImages shape
  | _ => if free then shapeImages shape else [shape]

/-- The hottest of some plots, by the Sower's averages (R142). -/
def hottest (s : State) (ps : List Nat) : Nat := maxOf (ps.map (fun p => (getPlot s p).avg))

/-- The lowest-numbered plot of a placement. -/
def firstPlot (ps : List Nat) : Nat := ps.foldl min 64

/-- Better target: cooler hottest plot, then lower first plot. -/
def cooler (s : State) (a b : List Nat) : Bool :=
  decide (hottest s a < hottest s b) || (decide (hottest s a = hottest s b) && decide (firstPlot a < firstPlot b))

/-- The Sower's choice among valid targets of a shape for a group: free plots, or its own. -/
def chooseTarget (s : State) (gid : Option Nat) (shape cur : List Nat) : Option (List Nat) :=
  let ok := fun p => decide ((getPlot s p).st ≠ .retired) &&
    (match (getPlot s p).group with | none => true | some h => decide (some h = gid))
  let free := match gid.bind (findGroup s) with
    | some g => g.known && g.chans.isEmpty
    | none => false
  ((candidates shape free).filter (fun c => c.all ok && !c.all (fun p => decide (p ∈ cur)) && !c.any (fun p => s.glb.dieFatal.testBit (dieOfPlot p)))).foldl
    (fun best c => match best with
      | none => some c
      | some b => if cooler s c b then some c else some b) none

/-- Plots become a group's: their units hold the empty configuration under its generation, their buffers read as zero (R262). -/
def takePlots (gid gen : Nat) (ps : List Nat) (s : State) : State :=
  each ps (fun p s => updPlot p (fun v => { v with st := .active, group := some gid, buf := [], bufBad := [], waitT0 := none }) (clearPlot gen p s)) s

/-- The shape of a group in its bundle (R364): the plots of its masks, by die. -/
def groupShape (s : State) (slot b i : Nat) : List Nat :=
  let dies := groupRec s slot b i 0 1
  (List.range 4).flatMap (fun d => if dies.testBit d then (onesOf 16 (groupRec s slot b i (2 + 2 * d) 2)).map (· + 16 * d) else [])

/-- Every group without placement gets one where free plots allow it (R394); a pinned bank's plots are then filled. -/
def placeUnplaced (s : State) : State :=
  each ((s.groups.filter (fun g => g.plots.isEmpty)).map Group.gid) (fun gid s =>
    match findGroup s gid with
    | none => s
    | some g =>
      match chooseTarget s (some gid) (groupShape s g.slot g.bank g.idx) [] with
      | none => s
      | some t =>
        let pin := (getBank s g.slot g.bank).pin
        updGroup gid (fun g => { g with plots := t, unfilled := if pin then t else [], reload := false, dwell := s.clk.now }) (takePlots gid g.gen t s)) s

/-! ### Gates (R386) -/

/-- Every closed sheaf whose next pass is gated waits on the gate's object, or finds it open. -/
def joinGates (s : State) : State :=
  each (closedSheaves s) (fun x s =>
    if x.gateWait || x.gateOpen then s
    else
      match gateWord s x.slot x.bank x.pass with
      | none => s
      | some w =>
        let s := updSheaf x.sid (fun x => { x with gateWait := true }) s
        joinWait { req := 1040 + sheafDie s x, obj := bitsOf w 0 7, eq := w.testBit 8, v := bitsOf w 16 16, key := x.sid, t0 := s.clk.now } s) s

/-! ### Energy (R139, R140, R319) -/

/-- A Saffron pass takes its energy when it dispatches (R319): its group is free, and no other Saffron pass has taken energy for it. -/
def saffronStands (s : State) (x : Sheaf) : Bool :=
  match sheafGroup s x with
  | none => false
  | some g => g.run.isNone && g.trans.isNone && !g.plots.isEmpty && g.unfilled.isEmpty &&
      !s.sheaves.any (fun y => decide (y.cls = 0 ∧ y.sid ≠ x.sid) && y.granted.isSome && decide ((sheafGroup s y).map Group.gid = some g.gid))

/-- Offer a die's credit to one waiting pass. -/
def offerOne (sid : Nat) (s : State) : State :=
  match findSheaf s sid with
  | none => s
  | some x =>
    if x.granted.isSome || x.gateWait || x.members.isEmpty || (decide (x.cls = 0) && !saffronStands s x) then s
    else
      let d := sheafDie s x
      let y := getYd s d
      let e := passEnergy s x.slot x.bank x.pass (if x.cls = 0 then 1 else x.members.length)
      let fromRes := if x.cls = 0 then min e y.reserve else 0
      if e - fromRes ≤ y.credit then
        let s := setYd d { y with credit := y.credit - (e - fromRes), reserve := y.reserve - fromRes } s
        let s := match x.waitT0 with
          | some t => bump 16 (s.clk.now - t) s
          | none => s
        updSheaf sid (fun x => { x with granted := some e, resTaken := fromRes, die := d, waitT0 := none }) s
      else if x.waitT0.isSome then s
      else
        let s := updSheaf sid (fun x => { x with waitT0 := some s.clk.now }) s
        if x.cls = 0 then bump 12 1 s else s

/-- Offer credit to every waiting pass in the order of R135; one that does not fit blocks no later one. -/
def offerCredit (s : State) : State := each ((closedSheaves s).map Sheaf.sid) offerOne s

/-- Bring the closed sheaves up to date: members, gates, energy. -/
def readySheaves (s : State) : State :=
  let s := placeUnplaced s
  offerCredit (joinGates (each ((closedSheaves s).map Sheaf.sid) trimSheaf s))

/-- The Sower runs: the data path is not stopped by a soft reset or a device fatal. -/
def sowerUp (s : State) : Bool := hbmUp s && !stopped s

/-! ### SHEAF_WINDOW_EXPIRY (R131) -/

/-- A forming sheaf's window ends: it closes, and messages that waited for it gather. -/
def windowExpiry (sid : Nat) (s : State) : State :=
  match findSheaf s sid with
  | none => s
  | some x => if x.forming && decide (x.t0 + x.window ≤ s.clk.now) then readySheaves (gatherAll (closeSheaf sid s)) else s

def execSheafWindowExpiry (sheaf : Nat) (s : State) : Out := .next (if sowerUp s then windowExpiry sheaf s else s)

/-! ### PASS_DISPATCH (R133, R135, R160) -/

/-- Announce a new generation to a group and place a headland on every FEED channel its units use (R160). -/
def announce (g : Group) (tr : Trans) (s : State) : State :=
  let s := updGroup g.gid (fun g => { g with trans := some tr, reload := false }) s
  let units := match findGroup s g.gid with | some g => groupUnits g | none => []
  let s := each (units.filter (fun u => u < 1024)) (fun t s =>
    each (((usedInputs s t).filter (fun i => i % 8 = 5)).eraseDups) (fun i s =>
      setFeed (4 * t + i / 8) (getFeed s (4 * t + i / 8) ++ [headTok tr (i / 8)]) s) s) s
  flowAll s

/-- The rotation of a group turns with a transition that begins now: its load has completed (R144). -/
def turnsNow (g : Group) : Bool := match g.rot with | some r => r.loaded | none => false

/-- The agent meets a pass's record, or its gate word, in poisoned halves: they read as zeros, and the pass's members end MODEL_POISON
(R252). -/
def checkRecord (gid : Nat) (x : Sheaf) (s : State) : State :=
  let o := (getBank s x.slot x.bank).passOff + 192 * x.pass
  let bad := (bundleHalves x.slot x.bank o 192 ++ bundleHalves x.slot x.bank (passRec s x.slot x.bank x.pass 8 8) 4).filter (poisoned s)
  handleBad 0 gid bad (reportHalves 0 (sheafDie s x) x.slot bad s)

/-- A pass starts on its group: its member table, the headland of its generation, and for a message's first pass the rows it will
stage (R122, R260). -/
def startPass (gid sid : Nat) (s : State) : State :=
  match findGroup s gid, findSheaf s sid with
  | some g, some x =>
    let e0 := x.granted.getD 0
    let size := x.members.length
    let e := passEnergy s x.slot x.bank x.pass (if x.cls = 0 then 1 else size)
    let s := if e < e0 then refund x.die (e0 - e) (e0 - x.resTaken) s else s
    let bank := getBank s x.slot x.bank
    let gen := (g.gen + 1) % 4
    let run : Run :=
      { sid := sid, pass := x.pass, members := x.members, t0 := s.clk.now, energy := min e e0, resTaken := min x.resTaken (min e e0),
        bound := passBound s x.slot x.bank x.pass size, paused := 0 }
    let s := updGroup gid (fun g => { g with run := some run, tables := tset [] gen x.members g.tables }) s
    let s := updSheaf sid (fun x => { x with granted := none, resTaken := 0, gateOpen := false, gateWait := false }) s
    let s := if x.pass = 0 ∧ bank.kv = true then
        each x.members (fun m => updMsg m (fun m => { m with staged := true, rowsOut := List.range (2 * bank.kvL * bank.newPos) })) s
      else s
    let s := checkRecord gid x s
    let s := capture (groupDie g) 3 (1040 + groupDie g)
      (leBytes 4 x.slot ++ leBytes 4 (passLayer s x.slot x.bank x.pass) ++ leBytes 4 size ++ leBytes 4 gen) s
    match findGroup s gid with
    | some g => announce g { gen := gen, cfg := passCfg s x.slot x.bank x.pass, size := size, turns := turnsNow g } s
    | none => s
  | _, _ => s

/-- PASS_DISPATCH, R135: a free group starts the first ready pass. -/
def passDispatch (gid : Nat) (s : State) : State :=
  let s := readySheaves s
  match findGroup s gid with
  | none => s
  | some g =>
    if g.run.isSome || g.trans.isSome || g.plots.isEmpty || !g.unfilled.isEmpty then s
    else
      match (closedSheaves s).find? (fun x => x.granted.isSome && !x.members.isEmpty &&
          (match sheafGroup s x with | some h => decide (h.gid = gid) | none => false)) with
      | none => s
      | some x => startPass gid x.sid s

def execPassDispatch (gid : Fin 64) (s : State) : Out := .next (if sowerUp s then passDispatch gid s else s)

/-! ### PASS_COMPLETE (R136, R139, R386) -/


/-- The gate word's POST adds 1 to its object when the pass completes. -/
def applyPost (d slot b pass : Nat) (s : State) : State :=
  match gateWord s slot b pass with
  | some w =>
    let so := bitsOf w 0 7
    if w.testBit 9 ∧ synDead s so = false then (synPerform .add (1040 + d) so 1 s).1 else s
  | none => s

/-- The streamer drains the oldest vector token of tile `k` into a word of the plot buffer: of the work area only, which it makes good
(R261, R263). -/
def spill (g : Group) (k w : Nat) (s : State) : State :=
  let p := plotOfTile k
  let res := if (getBank s g.slot g.bank).pin then resBytes s g else 0
  match takeSome (fun x => decide (x.1 = k ∧ x.2.net = 1) && !x.2.headland) 1 s.fab.drain with
  | some ([x], rest) =>
    if p ∉ g.plots ∨ 64 * w < res then s
    else
      updPlot p (fun v => { v with buf := tsetList 0 (64 * w) (leBytes 64 x.2.data.toNat) v.buf, bufBad := v.bufBad.filter (fun b => decide (b / 8 ≠ w)) })
        { s with fab := { s.fab with drain := rest } }
  | _ => s

/-- A drained token of a message that has rows to stage stays until the drain has written them (R260). -/
def stagedToken (s : State) (g : Group) (x : Nat × Token) : Bool :=
  (tagOwners g x.2.tag).any (fun mid => match findMsg s mid with | some m => decide (m.rowsOut ≠ []) | none => false)

/-- PASS_COMPLETE, R136: the slice of a group's pass ends having used `used` nJ; `spills` are drains into the work area. The sheaf goes on to
its next pass, or after the last its members' outputs go to the reply builder; a marked member's outputs are discarded (R167). -/
def passComplete (gid used : Nat) (outs : List (Nat × List Byte)) (spills : List (Nat × Nat)) (s : State) : State :=
  match findGroup s gid with
  | none => s
  | some g =>
    match g.run with
    | none => s
    | some r =>
      if g.trans.isSome then s
      else
        let d := groupDie g
        let s := settleRun g r used s
        let s := updGroup gid (fun g => { g with run := none }) s
        let s := each spills (fun x s => spill g x.1 x.2 s) s
        let s := { s with fab := { s.fab with drain := s.fab.drain.filter (fun x => decide (plotOfTile x.1 ∉ g.plots) || stagedToken s g x) } }
        let s := applyPost d g.slot g.bank r.pass s
        let last := (getBank s g.slot g.bank).npass ≤ r.pass + 1
        let s := match findSheaf s r.sid with
          | none => s
          | some x =>
            if x.members.isEmpty then { s with sheaves := s.sheaves.filter (fun y => y.sid ≠ r.sid) }
            else if last then
              let s := each x.members (fun m s =>
                let out := ((outs.find? (fun o => o.1 = m)).map Prod.snd).getD []
                updMsg m (fun m => { m with loc := .output, pass := r.pass + 1, outputs := if m.status.isNone && !m.held then some out else none }) s) s
              { s with sheaves := s.sheaves.filter (fun y => y.sid ≠ r.sid) }
            else
              let s := each x.members (fun m => updMsg m (fun m => { m with pass := r.pass + 1 })) s
              updSheaf r.sid (fun x => { x with pass := r.pass + 1 }) s
        readySheaves (gatherAll s)

def execPassComplete (gid : Fin 64) (used : Nat) (outs : List (Nat × List Byte)) (spills : List (Fin 1024 × Fin 16384)) (s : State) : Out :=
  .next (if sowerUp s then passComplete gid used outs (spills.map (fun x => (x.1.val, x.2.val))) s else s)

/-! ### SLICE_OVERRUN (R138) -/

/-- CLK_T periods relative to 1.5 GHz, times 8: ÷8, ÷10, ÷12, ÷16. -/
def divEighths (code : Nat) : Nat := match code with | 0 => 8 | 1 => 10 | 2 => 12 | _ => 16

/-- The slice bound of a running pass in ns, scaled by the slowest plot of its group. -/
def sliceBound (s : State) (g : Group) (r : Run) : Nat :=
  let slow := maxOf (g.plots.map (fun p => divEighths (tget 0 p s.clk.tdiv)))
  r.bound * max 8 slow / 8

/-- The die links that a group's gateways use: some edge switch of its plots has an output toward the link in use (R149, R150). -/
def gatewayLinks (s : State) (g : Group) : List Nat :=
  (g.plots.flatMap (fun p => (List.range 16).flatMap (fun k => (swNamed s (16 * p + k)).filterMap (fun x =>
    match hopOf (16 * p + k) x.1 x.2 with
    | .link l _ => some l
    | _ => none)))).eraseDups

/-- One of them is paused for retraining (R150). -/
def gatewayPaused (s : State) (g : Group) : Bool := (gatewayLinks s g).any (fun l => (getLink s l).train.isSome)

/-- A link resumes after a pause of `pause` ns: the agents had stopped timing the slices of the groups that use it (R150). -/
def addPause (l pause : Nat) (s : State) : State :=
  { s with groups := s.groups.map (fun g =>
      match g.run with
      | some r => if l ∈ gatewayLinks s g then { g with run := some { r with paused := r.paused + min pause (s.clk.now - r.t0) } } else g
      | none => g) }

/-- SLICE_OVERRUN: `elapsed` ns after its start, a slice has run past its bound and SOW_SLICE_GRACE; retraining pauses do not count. -/
def sliceOverrun (gid elapsed : Nat) (s : State) : State :=
  match findGroup s gid with
  | none => s
  | some g =>
    match g.run with
    | none => s
    | some r =>
      let ran := elapsed - r.paused
      if decide (ran ≤ sliceBound s g r + regF s 0x2610 0 16) || gatewayPaused s g then s
      else
        let layer := passLayer s g.slot g.bank r.pass
        let s := bump 13 1 (replant 2 stOverrun gid s)
        readySheaves (raiseOn (groupDie g) 0x0503 g.slot g.slot layer ran s)

def execSliceOverrun (gid : Fin 64) (elapsed : Nat) (s : State) : Out := .next (if sowerUp s then sliceOverrun gid elapsed s else s)

/-! ### CUMIN_SHED (R141) -/

/-- SOW_SHED_AFTER in ns: values below 100 µs act as 100. -/
def shedAfter (s : State) : Nat := 1000 * max 100 (regF s 0x260C 0 16)

/-- The sheaf has waited for credit without interruption for longer than SOW_SHED_AFTER. -/
def shedDue (s : State) (x : Sheaf) : Bool :=
  match x.waitT0 with
  | some t0 => decide (shedAfter s < s.clk.now - t0)
  | none => false

/-- Every member of a Cumin sheaf that waits for credit ends SHED, in its stream's order. -/
def cuminShed (sid : Nat) (s : State) : State :=
  match findSheaf s sid with
  | none => s
  | some x =>
    if x.cls ≠ 3 ∨ x.granted.isSome ∨ !shedDue s x then s
    else
      let n := x.members.length
      let die := sheafDie s x
      let layer := passLayer s x.slot x.bank x.pass
      let s := each x.members leaveSheaf s
      let s := each x.members (fun m => updMsg m (fun m => { m with staged := false, rowsOut := [], outputs := none, loc := .idle })) s
      let s := each x.members (failMsg stShed) (bump 11 n s)
      raiseOn die 0x0501 x.slot x.slot n layer s

def execCuminShed (sheaf : Nat) (s : State) : Out := .next (if sowerUp s then cuminShed sheaf s else s)

/-! ### ROTATION_CHECK (R142 to R144) -/

/-- A group's target, where its placement has stood for the dwell and no rotation runs on its dies. -/
def rotTarget (s : State) (g : Group) : Option (List Nat) :=
  let dwell := max 50 (regF s 0x261C 0 16) * 1000000
  let dies := g.plots.map dieOfPlot
  let busy := s.groups.any (fun h => h.rot.isSome && h.plots.any (fun p => decide (dieOfPlot p ∈ dies)))
  if g.plots.isEmpty || g.rot.isSome || busy || decide (s.clk.now < g.dwell + dwell) then none
  else chooseTarget s (some g.gid) g.plots g.plots

/-- The group is eligible: its hottest plot is more than SOW_ROT_DT hotter than the target's. -/
def rotEligible (s : State) (g : Group) : Option (List Nat) :=
  match rotTarget s g with
  | some t => if hottest s t + regF s 0x2618 0 8 < hottest s g.plots then some t else none
  | none => none

/-- A group whose threshold stands met by no placement has no target. -/
def rotNoSpace (s : State) (g : Group) : Bool :=
  let dwell := max 50 (regF s 0x261C 0 16) * 1000000
  !g.plots.isEmpty && g.rot.isNone && decide (g.dwell + dwell ≤ s.clk.now) && (chooseTarget s (some g.gid) g.plots g.plots).isNone

/-- ROTATION_CHECK, R142: the hottest eligible group starts a rotation; every group with no target counts in SOW_ROT_NOSPACE. -/
def rotationCheck (readings : List (Nat × List Nat)) (s : State) : State :=
  let s := each readings (fun x s =>
    if x.2.isEmpty then s else updPlot x.1 (fun v => { v with avg := sumOf x.2 / x.2.length }) s) s
  if !(getReg s 0x2614).testBit 0 then s
  else
    let s := bump 15 (s.groups.filter (rotNoSpace s)).length s
    let best := s.groups.foldl (fun (b : Option Group) g =>
      if (rotEligible s g).isNone then b
      else match b with
        | none => some g
        | some h => if hottest s h.plots < hottest s g.plots then some g else some h) none
    match best with
    | none => s
    | some g =>
      match rotEligible s g with
      | none => s
      | some t =>
        let fresh := t.filter (fun p => p ∉ g.plots)
        let pin := (getBank s g.slot g.bank).pin
        let s := takePlots g.gid g.gen fresh s
        updGroup g.gid (fun g => { g with rot := some { target := t, loaded := false, t0 := s.clk.now }, unfilled := if pin then g.unfilled ++ fresh else g.unfilled }) s

/-- ROTATION_CHECK, R142; `readings` are the plot sensors' readings in the last 1 ms. -/
def execRotationCheck (readings : List (Fin 64 × List (Fin 1024))) (s : State) : Out :=
  .next (if sowerUp s then rotationCheck (readings.map (fun x => (x.1.val, x.2.map Fin.val))) s else s)

/-! ### HEADLAND_INJECT (R144) -/

/-- A rotating group that has reached no headland within SOW_ROT_WAIT after its load completed gets one of the same configuration, at a slice
boundary at which it holds no tokens. -/
def headlandInject (gid : Nat) (s : State) : State :=
  match findGroup s gid with
  | none => s
  | some g =>
    match g.rot with
    | none => s
    | some r =>
      if !r.loaded || decide (s.clk.now < r.t0 + 1000000 * regF s 0x2620 0 16) || g.run.isSome || g.trans.isSome || !(g.plots.all (fun p => (plotTokens s p).isEmpty)) then s
      else announce g { gen := (g.gen + 1) % 4, cfg := g.cfg, size := g.size, turns := true } s

def execHeadlandInject (gid : Fin 64) (s : State) : Out := .next (if sowerUp s then headlandInject gid s else s)

/-! ### SEED_SHADOW_READY, UNIT_FINISH_OLD_WORK and UNIT_FLIP (R158 to R165) -/

/-- A rotation's load is complete when every unit of its target is ready, and for a pinned model every plot of it is filled (R144). -/
def rotLoaded (gid : Nat) (s : State) : State :=
  match findGroup s gid with
  | none => s
  | some g =>
    match g.rot with
    | none => s
    | some r =>
      if !r.loaded && r.target.all (fun p => decide (p ∉ g.unfilled)) && (r.target.flatMap plotUnits).all (fun u => (unitCfg s u).2.2) then
        updGroup gid (fun g => { g with rot := some { r with loaded := true, t0 := s.clk.now } }) s
      else s

/-- CFG_ID of a group's first pending pass. -/
def pendingCfg (s : State) (gid : Nat) : Option Nat :=
  ((closedSheaves s).find? (fun x => decide ((sheafGroup s x).map Group.gid = some gid))).map (fun x => passCfg s x.slot x.bank x.pass)

/-- A tile's bank from the words of its part of a seed: 1,024 instructions and 80 header words; and its drain channel's watch index (R223). -/
def tileBankOf (cfg mode watch : Nat) (words : List Word) : TileBank :=
  { words := tsetList 0 0 (words.take 1104) [], mode := mode % 8, cfg := cfg, watch := watch }

/-- A switch's three words. -/
def switchWords (words : List Word) : List Nat := (List.range 3).map (fun i => ((words[i]?).getD 0).toNat)

/-- A unit's part of the next seed stands in its shadow bank (R158). -/
def loadShadow (u cfg mode watch : Nat) (words : List Word) (s : State) : State :=
  let s := rewritten (plotOfUnit u) (fun v b => decide (v = u) && b) s
  if u < 1024 then updTile u (fun t => { t with shadow := tileBankOf cfg mode watch words, shadowReady := true }) s
  else if u < 2048 then
    setSu (u - 1024) { getSu s (u - 1024) with shadow := ((words[0]?).getD 0).toNat, shadowReady := true, shadowCfg := cfg } s
  else
    setSwitch (u - 2048) { getSwitch s (u - 2048) with shadow := switchWords words, shadowReady := true, shadowCfg := cfg } s

/-- After a flush a unit's part of the first pending pass's seed goes into its active bank (step 4 of R169). -/
def loadActive (u cfg mode watch : Nat) (words : List Word) (s : State) : State :=
  let s := rewritten (plotOfUnit u) (fun v b => decide (v = u) && !b) s
  if u < 1024 then updTile u (fun t => { t with active := tileBankOf cfg mode watch words, mode := mode % 8, cfg := cfg, seeded := true }) s
  else if u < 2048 then
    setSu (u - 1024) { getSu s (u - 1024) with active := ((words[0]?).getD 0).toNat, cfg := cfg, seeded := true } s
  else setSwitch (u - 2048) { getSwitch s (u - 2048) with active := switchWords words, cfg := cfg, seeded := true } s

/-- The die-edge channels that a switch's words use. -/
def edgeChans (t : Nat) (words : List Nat) : List Nat :=
  (List.range 4).filterMap (fun d =>
    match hopOf t 0 d with
    | .link _ _ => if words.any (fun w => decide (swSrc w d ≠ 0)) then some (64 * t + d) else none
    | _ => none)

/-- What the engine learns of the channels that a group's seeds use (R143). -/
def noteChans (gid u : Nat) (words : List Word) (s : State) : State :=
  updGroup gid (fun g =>
    { g with known := true, chans := if u < 2048 then g.chans else (edgeChans (u - 2048) (switchWords words)).foldl (fun l c => insertNew c l) g.chans }) s

/-- SEED_SHADOW_READY, R158: the loader has written a unit's part of the next seed (for a tile 1,024 instructions and 80 header
words, for a switch three words, for a steering unit one). -/
def seedReady (u cfg mode watch : Nat) (words : List Word) (s : State) : State :=
  match groupOfPlot s (plotOfUnit u) with
  | none => s
  | some g =>
    let s := noteChans g.gid u words s
    if g.reload && decide (plotOfUnit u ∈ g.plots ∧ pendingCfg s g.gid = some cfg) then
      let s := loadActive u cfg mode watch words s
      if (g.plots.flatMap plotUnits).all (sameSeed s cfg) then updGroup g.gid (fun g => { g with cfg := cfg }) s else s
    else noteWait (plotOfUnit u) (rotLoaded g.gid (loadShadow u cfg mode watch words s))

/-- SEED_SHADOW_READY, R158; `watch` is what the seed gives a tile's drain channel (R223). -/
def execSeedShadowReady (u : Fin 3072) (cfg : BitVec 16) (mode : Fin 8) (watch : Option (Fin 16)) (words : List Word) (s : State) : Out :=
  .next (if sowerUp s then seedReady u cfg.toNat mode (match watch with | some w => w.val + 1 | none => 0) words s else s)

/-! ### RESIDENT_FILL_DONE (R262) -/

/-- RESIDENT_FILL_DONE, R262: the copy engine has filled a plot; a rotation's load may be complete with it (R144). -/
def residentFillDone (p : Nat) (errs : List (Nat × List Byte)) (s : State) : State :=
  match groupOfPlot s p with
  | none => s
  | some g => rotLoaded g.gid (residentFill p errs s)

/-- RESIDENT_FILL_DONE, R262. -/
def execResidentFillDone (p : Fin 64) (errs : List (Nat × List Byte)) (s : State) : Out := .next (residentFillDone p errs s)

/-- UNIT_FINISH_OLD_WORK, R161. -/
def execUnitFinishOldWork (u : Fin 3072) (s : State) : Out := .next (if sowerUp s then unitFinish u s else s)

/-- UNIT_FLIP, R162. -/
def execUnitFlip (u : Fin 3072) (s : State) : Out := .next (if sowerUp s then unitFlip u s else s)

end Sys2Proof.Machine
end

