-- ==== Sys2Proof/Machine/Frames.lean ====
section
/-! DEFINITION. Frames on their way through the engine (R11, R12, R39, R91 to R110, R115 to R119): the parse-engine queues, the walk
and its decision, verdicts, fragments and the gleaning table, punts in arrival order, and admission. -/
namespace Sys2Proof.Machine

/-! ### Arrival (R91, R93) -/

/-- A frame as it arrives: no byte decided yet. -/
def newFrame (fid ingress station : Nat) (bytes : List (Option Byte)) (ended : Bool) : Frame :=
  { fid := fid, ingress := ingress, station := station, bytes := bytes, dgram := [], ended := ended, verdict := none, giant := false,
    walk := .queued, engine := 4, cfg := none, fields := [], endNode := 0xFF, htype := 0, payload := 0, lreq := 0, ipValid := false,
    frag := none, gleaned := false, result := none, wantAdmit := false, punt := none, paid := false, giantLen := 0, fwd := none, mid := none,
    origin := none, stamp := 0, hasStamp := false, pri := 0, tEnd := none }

/-- Add a frame to those the engine holds; its number is the one before the next. -/
def addFrame (f : Frame) (s : State) : State := { s with frames := s.frames ++ [{ f with fid := s.nextFid }], nextFid := s.nextFid + 1 }

/-- An INJECT descriptor whose frame is not admitted completes with NOT_ADMITTED: the action, and the punt reason (R352). -/
def notAdmitted (f : Frame) (action reason : Nat) (s : State) : State :=
  match f.origin with
  | some (q, pos) => complete q pos 0x47 0 0 (action % 8 + 256 * reason) s
  | none => s

/-- Headers waiting in a parse engine's queue. -/
def queueLen (s : State) (e : Nat) : Nat := (s.frames.filter (fun f => decide (f.walk = .queued ∧ f.engine = e))).length

/-- The least-full of the four queues, the lowest-numbered on a tie. -/
def leastQueue (s : State) : Nat :=
  [1, 2, 3].foldl (fun b e => if queueLen s e < queueLen s b then e else b) 0

/-- PLOUGH_ENQUEUE, R93. A site schedule frame is taken before classification, so a backbone frame that is one, or whose bytes do not
yet tell, does not enter (R90). -/
def ploughEnqueue (fid : Nat) (s : State) : State :=
  match findFrame s fid with
  | none => s
  | some f =>
    if f.walk ≠ .queued ∨ f.engine < 4 ∨ schedShape s f ≠ some false then s
    else
      let e := leastQueue s
      if queueLen s e < 64 then updFrame fid (fun f => { f with engine := e }) s
      else notAdmitted f 0 0 (dropFrame fid (bump 114 1 s))

def execPloughEnqueue (fid : Nat) (s : State) : Out := .next (ploughEnqueue fid s)

/-! ### Punts in arrival order (R108, R110) -/

/-- The punt of a frame is decided: its reason stands, and its FCS has checked good or it is a giant (R108). -/
def puntDue (f : Frame) : Option Nat :=
  match f.punt with
  | none => none
  | some r => if f.verdict = some true ∨ r = 0x05 then some r else none

/-- A decided punt takes its token, or is dropped and leaves no gap (R109, R110). -/
def payPunt (f : Frame) (s : State) : State :=
  match puntDue f with
  | none => s
  | some r =>
    if f.paid then s
    else
      match takePunt r s with
      | (true, s) => updFrame f.fid (fun f => { f with paid := true }) s
      | (false, s) => updFrame f.fid (fun f => { f with punt := none }) s

/-- Write the decided punts of an ingress that have their token, in arrival order, as far as the first frame that is still undecided. -/
def flushPunts (ingress : Nat) : List Frame → State → State
  | [], s => s
  | f :: fs, s =>
    if f.ingress ≠ ingress then flushPunts ingress fs s
    else if undecided f then s
    else
      match puntDue f with
      | some r => flushPunts ingress fs (updFrame f.fid (fun f => { f with punt := none }) (puntFrame f r s))
      | none => flushPunts ingress fs s

/-- Bring an ingress's punts up to date and drop what is done with. -/
def settlePunts (ingress : Nat) (s : State) : State :=
  let s := each (s.frames.filter (fun f => f.ingress = ingress)) payPunt s
  sweepFrames (flushPunts ingress s.frames s)

/-! ### Gleaning table (R101 to R103) -/

def findGlean (s : State) (key : List Nat) : Option Glean := s.plg.gleans.find? (fun g => g.key = key)

def setGleans (gs : List Glean) (s : State) : State := { s with plg := { s.plg with gleans := gs } }

def updGlean (key : List Nat) (f : Glean → Glean) (s : State) : State :=
  setGleans (s.plg.gleans.map (fun g => if g.key = key then f g else g)) s

/-- The end of the bytes that ranges cover from offset `r` on without a gap. -/
def coveredTo (ranges : List (Nat × Nat)) : Nat → Nat → Nat
  | 0, r => r
  | n + 1, r => coveredTo ranges n (maxOf (r :: (ranges.filter (fun x => x.1 ≤ r)).map Prod.snd))

/-- The fragments received cover the datagram. -/
def gleanFull (g : Glean) : Bool :=
  match g.total with
  | none => false
  | some t => decide (t ≤ coveredTo g.ranges g.ranges.length 0)

/-- Put a fragment's bytes into the datagram of its first fragment; a byte that is already there stays. -/
def joinBytes (bs : List (Option Byte)) (at_ : Nat) (data : List Byte) : List (Option Byte) :=
  let base := bs ++ List.replicate (at_ + data.length - bs.length) none
  base.mapIdx (fun i b => if b.isNone ∧ at_ ≤ i then (data[i - at_]?) else b)

/-- The verdict of a message becomes good: its gate may open. -/
def msgGood (f : Frame) (s : State) : State :=
  match f.mid.bind (findMsg s) with
  | some m => if m.verdict.isSome then s else settleStream m.stream (updMsg m.mid (fun m => { m with verdict := some true }) s)
  | none => s

/-- The end of a frame's burst, or its last byte, has come: its message's gate timer may start (R241). -/
def noteEnd (fid : Nat) (s : State) : State := updFrame fid (fun f => { f with tEnd := some (f.tEnd.getD s.clk.now) }) s

/-- A cancelled backbone reply whose frame has been stomped and sent makes room for the error frame that follows (R87). -/
def dropStomped (mid : Nat) (s : State) : State :=
  updMsg mid (fun m => match m.reply with
    | some r => if r.stomped && !r.begun then { m with reply := none } else m
    | none => m) s

/-- The verdict of a request becomes bad: an admitted message fails with a status, a frame not admitted starts nothing (R12). -/
def frameBad (fid st : Nat) (s : State) : State :=
  match findFrame s fid with
  | none => s
  | some f =>
    let s := updFrame fid (fun f => { f with verdict := some false, wantAdmit := false, punt := none, fwd := none }) s
    match f.mid with
    | some m => failMsg st m (dropStomped m (updMsg m (fun m => { m with verdict := some false }) s))
    | none => s

/-- Later fragments of a set that follow its entry and have not been applied. -/
def followers (s : State) (key : List Nat) : List Frame :=
  s.frames.filter (fun f => decide (f.walk = .following) && (f.frag.map FragInfo.key == some key))

/-- An entry whose datagram is complete is freed, and the set's verdict is good. Fragments that still follow it carry nothing new (R102). -/
def freeGlean (g : Glean) (s : State) : State :=
  if gleanFull g then
    let s := setGleans (s.plg.gleans.filter (fun x => x.key ≠ g.key)) s
    let s := each (followers s g.key) (fun f s => notAdmitted f 0 0 (bump 122 1 (updFrame f.fid (fun f => { f with walk := .decided }) s))) s
    match findFrame s g.first with
    | some f => if f.gleaned then msgGood f (updFrame g.first (fun f => { f with ended := true, verdict := some true, gleaned := false }) s) else s
    | none => s
  else s

/-- The set that an entry belongs to has a bad verdict. -/
def gleanBad (g : Glean) (s : State) : State :=
  match findFrame s g.first with
  | some f => if f.gleaned then frameBad g.first stDamaged s else s
  | none => s

/-- Bytes in the 64 KiB holding buffer (R102). -/
def heldBytes (s : State) : Nat := sumOf ((s.frames.filter (fun f => f.walk = .holding)).map (fun f => f.bytes.length))

/-- A frame arrives now, behind the others (R110). -/
def arriveNow (fid : Nat) (s : State) : State :=
  { s with frames := s.frames.filter (fun x => x.fid ≠ fid) ++ s.frames.filter (fun x => x.fid = fid) }

/-- A fragment leaves the holding buffer or never enters it: it is punted as an orphan, arriving now (R102, R110). -/
def orphanFragment (fid : Nat) (s : State) : State :=
  match findFrame s fid with
  | none => s
  | some f =>
    let s := updFrame fid (fun f => { f with walk := .decided, punt := if f.verdict = some false then none else some 0x04 }) (arriveNow fid s)
    settlePunts f.ingress (notAdmitted f 2 0x04 (bump 123 1 s))

/-- A later fragment that finds no live entry waits in the holding buffer, or is punted at once where it does not fit (R102). -/
def holdFragment (fid : Nat) (s : State) : State :=
  let s := updFrame fid (fun f => { f with walk := .holding }) s
  if heldBytes s ≤ 65536 then s else orphanFragment fid s

/-- A held fragment that goes on arriving no longer fits in the buffer (R102). -/
def checkHold (fid : Nat) (s : State) : State :=
  match findFrame s fid with
  | none => s
  | some f => if f.walk = .holding ∧ 65536 < heldBytes s then orphanFragment fid s else s

/-- Bytes of a frame have arrived: they reach its message's input (R107), a held fragment must still fit (R102), and an error reply that
echoes them may be built (R229). -/
def bytesCame (fid : Nat) (s : State) : State :=
  let s := checkHold fid (syncInput fid s)
  match (findFrame s fid).bind (fun f => f.mid.bind (findMsg s)) with
  | some m => if m.status.isSome then settleStream m.stream s else s
  | none => s

/-- A later fragment with a good FCS follows the entry that it found (R102). Where that entry is gone by then, it has found none.
DESIGN CHOICE (log 95): the punt that a stored PUNT decision gives a later fragment carries RESULT 0. -/
def laterApply (fid : Nat) (s : State) : State :=
  match findFrame s fid with
  | none => s
  | some f =>
    match f.frag with
    | none => s
    | some i =>
      match findGlean s i.key with
      | none => holdFragment fid s
      | some g =>
        let lo := i.off
        let hi := i.off + i.dataLen
        let dup := (List.range i.dataLen).any (fun k => g.ranges.any (fun r => decide (r.1 ≤ lo + k ∧ lo + k < r.2)))
        let allDup := (List.range i.dataLen).all (fun k => g.ranges.any (fun r => decide (r.1 ≤ lo + k ∧ lo + k < r.2)))
        let s := if dup then bump 122 1 s else s
        let s := updFrame fid (fun f => { f with walk := .decided }) s
        if allDup && decide (0 < i.dataLen) then notAdmitted f 0 0 s
        else
          let g' : Glean := { g with ranges := g.ranges ++ [(lo, hi)], total := if i.more then g.total else some hi }
          let s := updGlean i.key (fun _ => g') s
          let data := (List.range i.dataLen).map (fun k => frameByte f (i.dataOff + k))
          let s := match g.result with
            | none => applyMiss fid f.ingress 0x01 s
            | some r =>
              if r.action = 3 ∨ r.action = 4 then
                let s := syncInput g.first (updFrame g.first (fun h => match h.frag with
                  | some j => if h.gleaned then { h with dgram := joinBytes h.dgram (j.dataOff + lo) data } else h
                  | none => h) s)
                if r.action = 4 ∧ r.egress < 16 then updFrame fid (fun f => { f with fwd := some r.egress }) s else s
              else applyResult fid r s
          let s := notAdmitted f (match g.result with | some r => r.action | none => 2) 0 s
          freeGlean g' s

/-- Send the copy of a frame that its action names, once its FCS checked good (R106). -/
def forwardCopy (fid : Nat) (s : State) : State :=
  match findFrame s fid with
  | none => s
  | some f =>
    match f.fwd with
    | none => s
    | some e =>
      let x : EgrFrame := { kind := .bridged, bytes := frameBytes f, pri := f.pri, sent := 0, lane := none, order := 0 }
      enqueueEgress e x (updFrame fid (fun f => { f with fwd := none }) s)

/-- A later fragment has found its live entry. -/
def followEntry (fid : Nat) (s : State) : State := updFrame fid (fun f => { f with walk := .following }) s

/-- A fragment follows the stored decision once its FCS has checked good (R102). -/
def applyFollower (fid : Nat) (s : State) : State :=
  match findFrame s fid with
  | none => s
  | some f => if f.walk = .following ∧ f.verdict = some true then forwardCopy fid (laterApply fid s) else s

/-- Held fragments of a set leave the buffer in their arrival order, and arrive as they leave it (R102, R110). -/
def releaseHeld (key : List Nat) (s : State) : State :=
  let ids := (s.frames.filter (fun f => decide (f.walk = .holding) && (f.frag.map FragInfo.key == some key))).map Frame.fid
  each ids applyFollower (each ids (fun fid s => followEntry fid (arriveNow fid s)) s)

/-- A first fragment with a good FCS (R101): its entry is written, it is a duplicate, or the table is full. -/
def gleanWrite (fid : Nat) (s : State) : State :=
  match findFrame s fid with
  | none => s
  | some f =>
    match f.frag with
    | none => s
    | some i =>
      if (findGlean s i.key).isSome then
        notAdmitted f 0 0 (bump 122 1 (updFrame fid (fun f => { f with wantAdmit := false, punt := none, fwd := none }) s))
      else if 1024 ≤ s.plg.gleans.length then
        notAdmitted f 2 0x02 (bump 121 1 (updFrame fid (fun f => { f with wantAdmit := false, fwd := none, punt := some 0x02 }) s))
      else
        let infer := match f.result with | some r => infers r && f.wantAdmit | none => false
        let g : Glean := { key := i.key, result := f.result, first := fid, ingress := f.ingress, ranges := [(0, i.dataLen)], total := none }
        let s := setGleans (s.plg.gleans ++ [g]) s
        let s := if s.plg.gleans.length = 1024 then raise 0x0302 f.ingress 0 0 0 s else s
        let s := forwardCopy fid s
        let s := if infer then
            updFrame fid (fun f => { f with gleaned := true, ended := false, verdict := none, dgram := f.bytes.take (i.dataOff + i.dataLen) }) s
          else s
        releaseHeld i.key s

/-! ### Verdicts (R39, R106, R108) -/

/-- What follows once a frame is both decided and known good. -/
def settleGood (fid : Nat) (s : State) : State :=
  match findFrame s fid with
  | none => s
  | some f =>
    if f.verdict ≠ some true then s
    else
      let s := match f.frag with
        | some i =>
          if f.walk = .following then laterApply fid s
          else if f.walk = .decided ∧ i.off = 0 ∧ f.gleaned = false then gleanWrite fid s
          else s
        | none => if f.walk = .decided then msgGood f s else s
      settlePunts f.ingress (forwardCopy fid s)

/-- FCS_VERDICT, R39: a frame's verdict becomes known. -/
def frameVerdict (fid : Nat) (good : Bool) (s : State) : State :=
  match findFrame s fid with
  | none => s
  | some f =>
    if f.verdict.isSome || f.gleaned then s
    else
      let s := updFrame fid (fun f => { f with ended := true }) s
      if good then
        let s := updFrame fid (fun f => { f with verdict := some true }) s
        let s := if f.frag.isNone then msgGood f s else s
        settleGood fid s
      else
        let s := frameBad fid stDamaged s
        let s := match f.frag with
          | some i => if i.off ≠ 0 then (match findGlean s i.key with | some g => gleanBad g s | none => s) else s
          | none => s
        let s := updFrame fid (fun f => { f with walk := .decided }) s
        settlePunts f.ingress s

/-- A frame is declared a giant (R76, R80): inference stops with GIANT, the walk is abandoned, and its first 128 bytes are
punted at once; `frameLen` is the length at which it was declared. -/
def declareGiant (fid frameLen : Nat) (s : State) : State :=
  match findFrame s fid with
  | none => s
  | some f =>
    if f.giant then s
    else
      let s := frameBad fid stGiant s
      let s := match f.frag with
        | some i => if i.off ≠ 0 then (match findGlean s i.key with | some g => gleanBad g s | none => s) else s
        | none => s
      let s := updFrame fid (fun f =>
        { f with giant := true, ended := true, walk := .decided, punt := some 0x05, paid := false, giantLen := frameLen,
                 endNode := if walkEnded f then f.endNode else 0xFF, htype := if walkEnded f then f.htype else 0 }) s
      settlePunts f.ingress s

/-! ### The walk and its decision (R96, R105, R106) -/

/-- A classified frame takes its action; an INJECT that is no inference completes. -/
def decideFrame (fid : Nat) (r : Option (Result × Nat)) (reason : Nat) (s : State) : State :=
  match findFrame s fid with
  | none => s
  | some f =>
    let s := match r with
      | some (res, cnt) => applyResult fid res (updFrame fid (fun f => { f with result := some res }) (bump cnt 1 s))
      | none => applyMiss fid f.ingress reason s
    match findFrame s fid with
    | none => s
    | some f =>
      let s := if f.wantAdmit then s
        else
          match f.punt with
          | some p => notAdmitted f 2 p s
          | none => notAdmitted f (match r with | some (res, _) => res.action | none => (if f.fwd.isSome then 1 else 0)) 0 s
      settlePunts f.ingress (settleGood fid s)

/-- The outcome of the lookups of a field vector. An inference result whose extraction map is marked bad is a walk failure, so it counts in
PLG_PARSE_FAIL and takes the miss action as PARSE_FAIL (R105, Table HRW-4). -/
def classify (fid : Nat) (fv : List Byte) (s : State) : State :=
  match lookup s fv with
  | none => decideFrame fid none 0x01 s
  | some (r, cnt) => if mapFails r then decideFrame fid none 0x02 (bump 112 1 s) else decideFrame fid (some (r, cnt)) 0x01 s

/-- PARSE_WALK, R96, R105: a walk under the settings of its start, as far as the bytes now available carry it. DESIGN CHOICE (log 96): which
header of its queue an engine takes next is the sender's choice. -/
def parseWalk (fid : Nat) (s : State) : State :=
  match findFrame s fid with
  | none => s
  | some f =>
    if (f.walk = .queued ∧ f.engine < 4) ∨ f.walk = .walking then
      let cfg := resumeCfg s f
      match walkFrame cfg f with
      | (.wait, w, _) => updFrame fid (fun f => { f with walk := .walking, cfg := some { cfg with visits := w.visits } }) s
      | (.later i, w, en) => updFrame fid (fun f => { f with walk := .later, cfg := none, frag := some i, endNode := en, htype := w.htype }) s
      | (.fail r, w, en) =>
        let s := bump (if r = 0x03 then 113 else 112) 1 s
        decideFrame fid none r (updFrame fid (fun f => { f with walk := .decided, cfg := none, endNode := en, htype := w.htype }) s)
      | (.done, w, en) =>
        let fv := fvMeta f w en ++ w.fv.drop 8
        let s := updFrame fid (fun f =>
          { f with walk := .decided, cfg := none, endNode := en, htype := w.htype, fields := fv, payload := w.cursor, lreq := w.lreq,
                   ipValid := w.ipValid, frag := w.frag }) s
        classify fid fv s
    else s

/-- LATER_FRAGMENT, R102: a walked later fragment follows its live entry, or waits in the holding buffer. -/
def laterFragment (fid : Nat) (s : State) : State :=
  match findFrame s fid with
  | none => s
  | some f =>
    match f.frag with
    | none => s
    | some i =>
      if f.walk ≠ .later then s
      else if (findGlean s i.key).isSome then settlePunts f.ingress (applyFollower fid (followEntry fid s))
      else holdFragment fid s

def execLaterFragment (fid : Nat) (s : State) : Out := .next (bbSettle (laterFragment fid s))

/-- FRAG_HOLD_EXPIRY, R102: a held fragment whose entry never came. -/
def fragHoldExpiry (fid : Nat) (s : State) : State :=
  match findFrame s fid with
  | none => s
  | some f =>
    if f.walk = .holding then orphanFragment fid s else s

def execFragHoldExpiry (fid : Nat) (s : State) : Out := .next (bbSettle (fragHoldExpiry fid s))

/-- GLEAN_EXPIRY, R101, R103: the entry of a first fragment's frame expires; an incomplete set has a bad verdict. -/
def gleanExpiry (first : Nat) (s : State) : State :=
  match s.plg.gleans.find? (fun g => g.first = first) with
  | none => s
  | some g =>
    let s := bump 124 1 (setGleans (s.plg.gleans.filter (fun x => x.first ≠ first)) s)
    settlePunts g.ingress (gleanBad g s)

def execGleanExpiry (first : Nat) (s : State) : Out := .next (bbSettle (gleanExpiry first s))

/-- PUNT_TOKEN_REFILL, R109: each bucket gains PLG_PUNT_RATE thousandths, up to its burst. -/
def puntRefill (s : State) : State :=
  each (List.range 8) (fun k s =>
    setPuntLevel k (min (1000 * regF s (0x2520 + 4 * k) 0 16) (puntLevel s k + regF s (0x2500 + 4 * k) 0 16)) s) s

def execPuntTokenRefill (s : State) : Out := .next (puntRefill s)

/-! ### Admission (R11, R115, R117, R119, R130, R137, R372, R374, R397, R482) -/

/-- The bytes of a frame count for a message: a fragment's once it has passed its FCS (R103), a frame's of a port once it is no runt (R76, R80). -/
def bytesCount (f : Frame) : Bool :=
  (f.frag.isNone || f.gleaned || decide (f.verdict = some true)) && (decide (16 ≤ f.ingress) || decide (64 ≤ f.bytes.length))

/-- The lead position has been decoded, or the frame ended before it and its FCS checked good (R11). -/
def leadReached (f : Frame) (r : Result) : Bool :=
  bytesCount f &&
    match (reqBytes f)[leadPos f r]? with
    | some (some _) => true
    | _ => f.ended && decide (f.verdict = some true)

/-- The frame stays undecided no longer without being admitted. A first fragment that waited for its set is a frame like any other
again: its own FCS has checked good. -/
def refuse (fid reason : Nat) (s : State) : State :=
  match findFrame s fid with
  | none => s
  | some f =>
    let s := updFrame fid (fun f =>
      { f with wantAdmit := false, punt := if reason = 0 then none else some reason, gleaned := false,
               verdict := if f.gleaned then some true else f.verdict, ended := f.ended || f.gleaned }) s
    let act := match f.result with | some r => r.action | none => 0
    settlePunts f.ingress (notAdmitted f act reason s)

/-- The stream was bound to another KV geometry than the bank's (R374). -/
def geometryDiffers (v : Stream) (k : Bank) : Bool :=
  if v.pcap = 0 then k.kv
  else !k.kv || decide (¬ (v.kvL = k.kvL ∧ v.kvH = k.kvH ∧ v.kvE = k.kvE ∧ v.kvFmt = k.kvFmt ∧ v.newPos = k.newPos ∧ v.kvSig = k.kvSig))

/-- A message is about to gather for its first pass: with no ACTIVE bank it ends INTERNAL (R115), with another KV geometry or a fatal
home KV_ERR (R374, R397), without running. -/
def launch (mid : Nat) (s : State) : State :=
  match findMsg s mid with
  | none => s
  | some m =>
    let v := getStream s m.stream
    let idle := updMsg mid (fun m => { m with loc := .idle }) s
    if m.bank = 2 then failMsg stInternal mid idle
    else if geometryDiffers v (getBank s m.slot m.bank) || (decide (v.pcap ≠ 0) && s.glb.dieFatal.testBit v.home) then failMsg stKvErr mid idle
    else s

/-- The message that a frame becomes in an OPEN or FENCED stream. -/
def admitNow (f : Frame) (r : Result) (s : State) : State :=
  let k := r.stream
  let v := getStream s k
  let bank := (activeBank s v.slot).getD 2
  let mid := s.nextMid
  let m : Msg :=
    { mid := mid, stream := k, seq := v.nextIn, slot := v.slot, bank := bank, cls := v.cls, tmpl := r.tmpl, xmap := r.xmap, fid := f.fid,
      ingress := f.ingress, origin := f.origin, status := none, statusAt := 0, silent := false, noFence := false, held := false,
      verdict := f.verdict, gateT0 := s.clk.now, loc := .gather, pass := 0, segs := r.segs, input := modelInput f r.segs, outputs := none,
      rowsOut := [], staged := false, late := false, reply := none }
  let s := { s with msgs := s.msgs ++ [m], nextMid := mid + 1 }
  let s := updStream k (fun v => { v with nextIn := (v.nextIn + 1) % 65536, overrunSeen := false, lastReq := some (f.ingress, f.station) }) s
  let s := updFrame f.fid (fun f => { f with wantAdmit := false, mid := some mid }) s
  let s := if r.slot ≠ v.slot ∨ r.cls ≠ v.cls then
      let s := bump 1 1 s
      if v.mismatchSeen then s else raise 0x0404 k r.slot r.cls 0 (updStream k (fun v => { v with mismatchSeen := true }) s)
    else s
  let b := getBank s v.slot bank
  let s := if v.cls = 0 ∧ !(b.urgent && b.pin) ∧ v.unboundSeen = false then
      raise 0x0504 v.slot k v.slot 0 (updStream k (fun v => { v with unboundSeen := true }) s)
    else s
  let s := captureIod 4 (leBytes 4 k ++ leBytes 4 v.nextIn ++ leBytes 4 v.cls) s
  if v.resetWait.isSome then
    settleStream k (attach mid stFenced (updMsg mid (fun m => { m with silent := true, noFence := true, loc := .idle }) s))
  else if v.st = .fenced then bump 2 1 (updMsg mid (fun m => { m with held := true, loc := .idle }) s)
  else readySheaves (gatherAll (launch mid s))

/-- ADMIT_MESSAGE, R11, R115, R119, R482. -/
def admitMessage (fid : Nat) (s : State) : State :=
  match findFrame s fid with
  | none => s
  | some f =>
    match f.result with
    | none => s
    | some r =>
      if !f.wantAdmit || f.giant || decide (f.verdict = some false) || !leadReached f r then s
      else
        let yok := yokState s
        let v := getStream s r.stream
        if yok ≠ 3 ∧ yok ≠ 4 ∧ yok ≠ 7 then refuse fid 0 (bump 104 1 s)
        else if v.st = .closed ∨ v.st = .draining then refuse fid 0x07 s
        else if 4 ≤ inflightCount v then
          let s := bump 0 1 s
          let s := if v.overrunSeen then s
            else raise 0x0402 r.stream v.nextOut 0 0 (updStream r.stream (fun v => { v with overrunSeen := true }) s)
          refuse fid 0 s
        else settlePunts f.ingress (admitNow f r s)

def execAdmitMessage (fid : Nat) (s : State) : Out := .next (admitMessage fid s)

end Sys2Proof.Machine
end

