-- ==== Sys2Proof/Machine/Install.lean ====
section
/-! DEFINITION. Model slots and the install descriptors (R360 to R376). -/
namespace Sys2Proof.Machine

/-- A host address is 4-byte aligned. -/
def haddrOk (b : List Byte) : Bool := decide (leAt b 32 8 % 4 = 0)

/-- The bank of a slot in a state. -/
def bankIn (s : State) (slot : Nat) (st : BankSt) : Option Nat :=
  if (getBank s slot 0).st = st then some 0 else if (getBank s slot 1).st = st then some 1 else none

/-- The READY bank of a slot that is not retiring. -/
def readyBank (s : State) (slot : Nat) : Option Nat :=
  [0, 1].find? (fun b => let k := getBank s slot b; decide (k.st = .ready) && !k.retiring)

/-- Streams not CLOSED whose SLOT is this slot (Table HIF-18). -/
def streamsOn (s : State) (slot : Nat) : Nat := (s.streams.filter (fun x => decide (x.2.st ≠ .closed ∧ x.2.slot = slot))).length

/-- A commit check in progress stops; its commit completes with a status. -/
def stopCheck (slot st : Nat) (s : State) : State :=
  let v := getSlot s slot
  match v.verifying with
  | none => s
  | some (q, pos) => complete q pos st 0 0 0 (setSlot slot { v with verifying := none } s)

/-- INSTALL_BEGIN, R368. -/
def installBegin (b : List Byte) (q pos : Nat) (s : State) : State :=
  let slot := byteAt b 16
  let bank := byteAt b 17
  let total := leAt b 20 8
  if 15 < slot ∨ 1 < bank ∨ total = 0 ∨ 2 ^ 31 < total then complete q pos 0x41 0 0 0 s
  else
    let k := getBank s slot bank
    let other := getBank s slot (1 - bank)
    if k.st = .active ∨ (k.st = .ready ∧ 0 < boundCount s slot bank) ∨ other.st = .loading then complete q pos 0x42 0 0 0 s
    else
      let s := if k.st = .loading then stopCheck slot 0x42 s else s
      let s := emptyBank slot bank s
      let s := setBank slot bank { Bank.init with st := .loading, pin := (byteAt b 18).testBit 0, total := total } s
      complete q pos 0 0 0 0 (setSlot slot { getSlot s slot with loaded := 0 } s)

def execInstallBegin (q : Fin 16) (pos : Nat) (s : State) : Out :=
  .next (descRun q pos 0x01 (fun _ => true) (fun b => installBegin b q pos) s)

/-- A descriptor that waits because the stack it needs issues no requests while HBM1500 is current (R438): MEM_READ and MEM_WRITE name
theirs, any other needs whichever is held. -/
def descHeld (s : State) (op : Nat) (b : List Byte) : Bool :=
  match hbmHeld s with
  | none => false
  | some k => if op = 0x20 ∨ op = 0x21 then decide (stackOf (leAt b 16 5) = k) else true

/-- A descriptor that touches HBM waits for phase STANDBY (R350). -/
def descRunHbm (q pos op : Nat) (f : List Byte → State → State) (s : State) : State :=
  if hbmUp s then descRun q pos op (fun b => !descHeld s op b) f s else s

/-- INSTALL_CHUNK, R369: `data` is what the read of host memory returned, none for an error. -/
def installChunk (b : List Byte) (q pos : Nat) (data : Option (List Byte)) (s : State) : State :=
  let slot := byteAt b 16
  let off := leAt b 20 8
  let len := leAt b 28 4
  if 15 < slot then complete q pos 0x41 0 0 0 s
  else
    match bankIn s slot .loading with
    | none => complete q pos 0x42 0 0 0 s
    | some bank =>
      if (getSlot s slot).verifying.isSome then complete q pos 0x42 0 0 0 s
      else if len < 64 ∨ 2 ^ 24 < len ∨ off % 64 ≠ 0 ∨ len % 64 ≠ 0 ∨ 2 ^ 31 ≤ off ∨ off / 2 ^ 29 ≠ (off + len - 1) / 2 ^ 29 then
        complete q pos 0x41 0 0 0 s
      else if s.glb.dieFatal.testBit (off / 2 ^ 29) then complete q pos 0x4A 0 0 0 s
      else if !haddrOk b then complete q pos 0x43 0 0 0 s
      else
        match data with
        | none => complete q pos 0x46 0 0 0 s
        | some d =>
          let (s, _) := homeWrite 4 (bundleDpa slot bank off) (padTo len d) s
          let v := getSlot s slot
          complete q pos 0 0 0 0 (setSlot slot { v with loaded := min (2 ^ 32 - 1) (v.loaded + len) } s)

def execInstallChunk (q : Fin 16) (pos : Nat) (data : Option (List Byte)) (s : State) : Out :=
  .next (descRunHbm q pos 0x02 (fun b => installChunk b q pos data) s)

/-! ### Commit (R370) -/

/-- Header fields of a LOADING bank as they stand in HBM (Table HIF-16). -/
def hdr (s : State) (slot b off n : Nat) : Nat := bundleNat s slot b off n
def plen (s : State) (slot b n : Nat) : Nat := hdr s slot b (16 + 4 * n) 4

/-- Bytes `n` from a bundle offset, as stored. -/
def bundleBytes (s : State) (slot b o n : Nat) : List Byte := (List.range n).map (fun i => getMem s (bundleDpa slot b (o + i)))

/-- The header's own fields are within Table HIF-16 and R363 to R364. -/
def headerOk (s : State) (slot b total : Nat) (pin : Bool) : Bool :=
  let h := hdr s slot b
  let ng := h 7 1
  let np := h 8 4
  let goff := h 56 8
  let poff := h 48 8
  let grp := fun i o n => bundleNat s slot b (goff + 32 * i + o) n
  let pas := fun i o n => bundleNat s slot b (poff + 192 * i + o) n
  decide (h 0 4 = 0x51445A42 ∧ h 4 2 = 1) &&
  decide (h 248 4 = crc32c (bundleBytes s slot b 0 248)) &&
  decide (sumOf ((List.range 4).map (plen s slot b)) = total) &&
  (List.range 4).all (fun n => decide (plen s slot b n ≤ 2 ^ 29)) &&
  decide (h 6 1 < 4 ∧ 1 ≤ ng ∧ ng ≤ 8 ∧ 1 ≤ np ∧ np ≤ 4096 ∧ h 39 1 ≤ 64 ∧ (h 38 1 = 0 ∨ h 38 1 = 2)) &&
  (List.range ng).all (fun i => decide (grp i 14 4 ≤ 2 ^ 20) && (!pin || decide (grp i 10 4 + grp i 14 4 ≤ 2 ^ 20)) && decide (grp i 0 1 < 16)) &&
  (List.range np).all (fun i => decide (pas i 2 1 < ng) &&
    (h 6 1 % 2 = 0 || (List.range 32).all (fun k => decide (pas i (96 + 2 * k) 2 ≤ 1000))))

/-- A group of the bundle names a fatal die. -/
def namesFatal (s : State) (slot b : Nat) : Bool :=
  (List.range (min 8 (hdr s slot b 7 1))).any (fun i => decide (bundleNat s slot b (hdr s slot b 56 8 + 32 * i) 1 &&& s.glb.dieFatal ≠ 0))

/-- The bank's entry with the header fields the engine uses. -/
def readHeader (s : State) (slot b : Nat) (k : Bank) : Bank :=
  let h := hdr s slot b
  { k with urgent := (h 6 1).testBit 0, kv := (h 6 1).testBit 1, ngroup := h 7 1, npass := h 8 4, leadNs := h 14 2, kvL := h 32 2,
           kvH := h 34 2, kvE := h 36 2, kvFmt := h 38 1, newPos := h 39 1, kvSig := h 40 4, passOff := h 48 8, groupOff := h 56 8 }

/-- Place the groups of a bank from index `i` on, each on plots still free; none where one has no placement. -/
def placeAll (slot b : Nat) : Nat → Nat → State → Except (Nat × Nat) (List Nat × State)
  | 0, _, s => .ok ([], s)
  | n + 1, i, s =>
    let shape := groupShape s slot b i
    match chooseTarget s none shape [] with
    | none => .error (i, shape.length)
    | some t =>
      let gid := (firstFree 64 (fun g => s.groups.any (fun x => x.gid = g))).getD 0
      let pin := (getBank s slot b).pin
      let g : Group :=
        { gid := gid, slot := slot, bank := b, idx := i, plots := t, gen := 0, cfg := 0, size := 1, run := none, trans := none,
          orphans := 0, firstUnit := 0, firstTag := 0, tables := [], rot := none, dwell := s.clk.now,
          unfilled := if pin then t else [], reload := false, chans := [], known := false }
      match placeAll slot b n (i + 1) (takePlots gid 0 t { s with groups := s.groups ++ [g] }) with
      | .ok (gs, s) => .ok (gid :: gs, s)
      | .error e => .error e

/-- Clear words 2 to 7 of a slot's watch entries (R374, R222). -/
def clearWatch (slot : Nat) (s : State) : State :=
  each ((List.range 16).map (· + 16 * slot)) (fun i s => putEntry 0x30 i ((padTo 32 (tblEntry s 0x30 i)).take 8 ++ List.replicate 24 0) s) s

/-- Steps 4 and 5 of R370 for a READY bank: placement, then the slot-table write. -/
def placeBank (slot b q pos : Nat) (s : State) : State :=
  match placeAll slot b (getBank s slot b).ngroup 0 s with
  | .error (i, n) => complete q pos 0x42 0 0 0 (raise 0x0E04 slot i n 0 s)
  | .ok (gs, s) =>
    let old := activeBank s slot
    let k := getBank s slot b
    let s := setBank slot b { k with st := .active, groups := gs } s
    let s := setSlot slot { getSlot s slot with commitTime := devTime s % 2 ^ 32 } s
    let s := match old with
      | some o => freeIfUnbound slot o (setBank slot o { getBank s slot o with st := .ready, retiring := true } s)
      | none => s
    let s := bump 56 1 (clearWatch slot s)
    readySheaves (complete q pos 0 0 0 0 (raise 0x0E01 slot b k.check gs.length s))

/-- INSTALL_COMMIT, R370: starts the check of a LOADING bank, or places a READY one. -/
def installCommit (b : List Byte) (q pos : Nat) (s : State) : State :=
  let slot := byteAt b 16
  if 15 < slot then complete q pos 0x41 0 0 0 s
  else
    match bankIn s slot .loading with
    | some bank =>
      if (getSlot s slot).verifying.isSome then (if (getSlot s slot).verifying = some (q, pos) then s else complete q pos 0x42 0 0 0 s)
      else
        let s := setBank slot bank { getBank s slot bank with check := leAt b 20 4 } s
        setSlot slot { getSlot s slot with verifying := some (q, pos) } s
    | none =>
      match readyBank s slot with
      | some bank => placeBank slot bank q pos s
      | none => complete q pos 0x42 0 0 0 s

def execInstallCommit (q : Fin 16) (pos : Nat) (s : State) : Out :=
  .next (descRunHbm q pos 0x03 (fun b => installCommit b q pos) s)

/-- The four parts of a bundle as the check reads them from HBM, poisoned halves as zeros and reported. -/
def readParts (slot b : Nat) (errs : List (Nat × List Byte)) (s : State) : State × List Byte :=
  (List.range 4).foldl (fun (acc : State × List Byte) n =>
    let (s, bytes, _) := homeRead (bundleDpa slot b (n * 2 ^ 29)) (min (2 ^ 29) (plen acc.1 slot b n)) errs acc.1
    (s, acc.2 ++ bytes)) (s, [])

/-- INSTALL_CHECK_DONE, R370: the check value, the header, READY, placement and the slot-table write, stopping at the first that
fails. -/
def installCheckDone (slot : Nat) (errs : List (Nat × List Byte)) (s : State) : State :=
  match (getSlot s slot).verifying, bankIn s slot .loading with
  | some (q, pos), some bank =>
    let (s, bytes) := readParts slot bank errs s
    let k := getBank s slot bank
    let s := setSlot slot { getSlot s slot with verifying := none } s
    if crc32c bytes ≠ k.check then complete q pos 0x49 0 0 0 (bump 57 1 s)
    else if !headerOk s slot bank k.total k.pin then complete q pos 0x41 0 0 0 s
    else if namesFatal s slot bank then complete q pos 0x4A 0 0 0 s
    else
      let s := setBank slot bank { readHeader s slot bank k with st := .ready } s
      placeBank slot bank q pos s
  | _, _ => s

def execInstallCheckDone (slot : Fin 16) (errs : List (Nat × List Byte)) (s : State) : Out :=
  .next (if hbmUp s then installCheckDone slot errs s else s)

/-- INSTALL_ABORT, R371. -/
def installAbort (b : List Byte) (q pos : Nat) (s : State) : State :=
  let slot := byteAt b 16
  if 15 < slot then complete q pos 0x41 0 0 0 s
  else
    match bankIn s slot .loading with
    | some bank => complete q pos 0 0 0 0 (emptyBank slot bank (stopCheck slot 0x42 s))
    | none =>
      match readyBank s slot with
      | some bank => complete q pos 0 0 0 0 (emptyBank slot bank s)
      | none =>
        match activeBank s slot with
        | some bank =>
          if streamsOn s slot = 0 then
            complete q pos 0 0 0 0 (freeIfUnbound slot bank (setBank slot bank { getBank s slot bank with st := .ready, retiring := true } s))
          else complete q pos 0x42 0 0 0 s
        | none => complete q pos 0x42 0 0 0 s

def execInstallAbort (q : Fin 16) (pos : Nat) (s : State) : Out :=
  .next (descRun q pos 0x04 (fun _ => true) (fun b => installAbort b q pos) s)

/-- What a reset does to installs in progress (Table HIF-19): every LOADING or READY bank that is not retiring ends EMPTY and
INS_ABANDONED names the cause: 1 soft reset, 2 PERST_N, 3 FLR. -/
def abandonInstalls (cause : Nat) (s : State) : State :=
  each (List.range 16) (fun slot s =>
    let s := setSlot slot { getSlot s slot with verifying := none } s
    each [0, 1] (fun b s =>
      let k := getBank s slot b
      if k.st = .loading ∨ (k.st = .ready ∧ k.retiring = false) then
        bump 58 1 (raise 0x0E03 slot b cause 0 (emptyBank slot b s))
      else s) s) s

/-- The slot record (Table HIF-18). -/
def slotRecord (s : State) (slot : Nat) : List Byte :=
  let v := getSlot s slot
  let code := fun (k : Bank) => match k.st with | .empty => 0 | .loading => 1 | .ready => 2 | .active => 3
  let act := match activeBank s slot with | some b => getBank s slot b | none => Bank.init
  let w0 := code v.a + 4 * code v.b + 16 * b2n (decide (v.b.st = .active)) + 32 * b2n v.a.poison + 64 * b2n v.b.poison +
    128 * b2n v.a.pin + 256 * b2n v.b.pin + 512 * b2n v.verifying.isSome + 1024 * b2n act.urgent
  leBytes 4 w0 ++ leBytes 4 (boundCount s slot 0 % 65536 + 65536 * (boundCount s slot 1 % 65536)) ++
    leBytes 4 (act.leadNs % 65536 + 65536 * (streamsOn s slot % 256)) ++ leBytes 4 v.a.check ++ leBytes 4 v.b.check ++
    leBytes 4 v.loaded ++ leBytes 4 v.commitTime ++ leBytes 4 0

end Sys2Proof.Machine
end

