-- ==== Sys2Proof/Machine/Streams.lean ====
section
/-! DEFINITION. The stream descriptors (R111 to R128, R351): open, close, reset, unfence, KV read and write, and the context record. -/
namespace Sys2Proof.Machine

/-- STREAM_OPEN's checks (R114): the status, and the context it writes. -/
def openCheck (b : List Byte) (s : State) : Nat × Stream :=
  let slot := bitsOf (byteAt b 17) 0 4
  let bank := getBank s slot ((activeBank s slot).getD 2)
  let h := bitsOf (byteAt b 18) 0 3
  let firstGroup := s.groups.find? (fun g => decide (g.slot = slot ∧ some g.bank = activeBank s slot))
  let home := if h = 7 then (match firstGroup with | some g => groupDie g | none => 0) else h
  let pol := bitsOf (byteAt b 18) 4 2
  let seq := leAt b 20 2
  let cap := if bank.kv then leAt b 22 2 else 0
  let v : Stream :=
    { Stream.init with
      st := .opened, cls := bitsOf (byteAt b 17) 4 2, slot := slot, home := home, policy := if pol = 3 then 0 else pol,
      nextIn := seq, nextOut := seq, lastStatus := (getStream s (byteAt b 16)).lastStatus, lastSeq := (getStream s (byteAt b 16)).lastSeq,
      kvCap := cap, pcap := if bank.kv then cap + bank.newPos else 0, kvBase := if bank.kv then leAt b 24 5 else 0,
      newPos := if bank.kv then bank.newPos else 0, kvL := bank.kvL, kvH := bank.kvH, kvE := bank.kvE, kvFmt := bank.kvFmt, kvSig := bank.kvSig }
  let region := 2 * v.kvL * v.pcap * kvRow v
  let st :=
    if (getStream s (byteAt b 16)).st ≠ .closed ∨ (activeBank s slot).isNone then 0x42
    else if bank.kv ∧ (firstHole v.kvBase region).isSome then 0x43
    else if (4 ≤ h ∧ h ≤ 6) ∨ (bank.kv = true ∧ (cap = 0 ∨ 4096 < cap ∨ v.kvBase % 4096 ≠ 0 ∨ stackOf v.kvBase ≠ home)) then 0x41
    else if s.glb.dieFatal.testBit home then 0x4A
    else 0
  (st, v)

/-- STREAM_OPEN, R113, R114. -/
def streamOpen (b : List Byte) (q pos : Nat) (s : State) : State :=
  let (st, v) := openCheck b s
  if st = 0 then complete q pos 0 v.home 0 0 (setStream (byteAt b 16) v s) else complete q pos st 0 0 0 s

def execStreamOpen (q : Fin 16) (pos : Nat) (s : State) : Out :=
  .next (descRunHbm q pos 0x10 (fun b => streamOpen b q pos) s)

/-- A held message ends in its place: FENCED, or the status it carries, without fencing the stream (R113). -/
def endHeld (mid : Nat) (s : State) : State :=
  attach mid stFenced (updMsg mid (fun m => { m with held := false, noFence := true, status := m.status }) s)

/-- A held message keeps a status it carries; only one without a status takes FENCED (R392). -/
def endHeldAll (k : Nat) (s : State) : State :=
  let held := (inflight s k).filter (fun m => m.held)
  settleStream k (each held (fun m s =>
    if m.status.isSome then updMsg m.mid (fun m => { m with held := false, noFence := true }) s else endHeld m.mid s) s)

/-- STREAM_CLOSE, R113: DRAINING, and it completes when the stream is CLOSED. -/
def streamClose (b : List Byte) (q pos : Nat) (s : State) : State :=
  let k := byteAt b 16
  let v := getStream s k
  if v.st = .opened ∨ v.st = .fenced then
    let s := setStream k { v with st := .draining, closeWait := some (q, pos) } s
    idleStream k (endHeldAll k s)
  else if v.closeWait = some (q, pos) then s
  else complete q pos 0x42 0 0 0 s

def execStreamClose (q : Fin 16) (pos : Nat) (s : State) : Out :=
  .next (descRun q pos 0x11 (fun _ => true) (fun b => streamClose b q pos) s)

/-- STREAM_RESET, R127: every message ends FENCED or with the status it carries, sending nothing but the RETRACT of a begun reply;
steps 2 to 5 follow once every begun reply has ended. -/
def streamReset (b : List Byte) (q pos : Nat) (s : State) : State :=
  let k := byteAt b 16
  let v := getStream s k
  if v.st = .closed then complete q pos 0x42 0 0 0 s
  else if v.resetWait.isSome then
    (if (match v.resetWait with | some r => decide (r.sq = q ∧ r.pos = pos) | none => false) then s else complete q pos 0x42 0 0 0 s)
  else
    let r : ResetReq := { sq := q, pos := pos, keepKv := (byteAt b 17).testBit 0, seqStart := leAt b 20 2 }
    let s := match v.closeWait with
      | some (cq, cp) => complete cq cp 0x42 0 0 0 s
      | none => s
    let s := updStream k (fun v => { v with resetWait := some r, closeWait := none }) s
    let s := each ((inflight s k).map Msg.mid) (fun mid s =>
      let s := leaveSheaf mid s
      updMsg mid (fun m => { (if released m then m else withStatus s.clk.now stFenced m) with
        silent := true, noFence := true, held := false, staged := false, rowsOut := [], outputs := none, loc := .idle }) s) s
    idleStream k (settleStream k s)

def execStreamReset (q : Fin 16) (pos : Nat) (s : State) : Out :=
  .next (descRun q pos 0x12 (fun _ => true) (fun b => streamReset b q pos) s)

/-- STREAM_UNFENCE with a MODE above 1 is BAD_PARAM, outside FENCED BAD_STATE; otherwise `f` runs. -/
def unfence (b : List Byte) (q pos : Nat) (f : Nat → State → State) (s : State) : State :=
  let k := byteAt b 16
  if 1 < byteAt b 17 then complete q pos 0x41 0 0 0 s
  else if (getStream s k).st ≠ .fenced then complete q pos 0x42 0 0 0 s
  else complete q pos 0 0 0 0 (f k (updStream k (fun v => { v with st := .opened }) s))

/-- Held messages go on in sequence order: each enters gathering at its model's first pass, or ends with the status it carries
(R113, R126, R133). -/
def resumeHeld (k : Nat) (s : State) : State :=
  let held := ((inflight s k).filter (fun m => m.held)).map Msg.mid
  let s := each held (fun mid => updMsg mid (fun m => { m with held := false, loc := if m.status.isNone then .gather else .idle, pass := 0 })) s
  let s := settleStream k s
  let s := each held (fun mid s => match findMsg s mid with
    | some m => if m.status.isNone && !m.held then launch mid s else s
    | none => s) s
  readySheaves (gatherAll s)

/-- STREAM_UNFENCE with MODE RESUME, R113. -/
def execStreamUnfenceResume (q : Fin 16) (pos : Nat) (s : State) : Out :=
  .next (descRun q pos 0x13 (fun b => decide (byteAt b 17 ≠ 1)) (fun b => unfence b q pos resumeHeld) s)

/-- STREAM_UNFENCE with MODE DISCARD, R113. -/
def execStreamUnfenceDiscard (q : Fin 16) (pos : Nat) (s : State) : Out :=
  .next (descRun q pos 0x13 (fun b => decide (byteAt b 17 ≠ 0)) (fun b => unfence b q pos endHeldAll) s)

/-! ### KV rows (R128, R351) -/

/-- Layers and tensors in the order of the host layout. -/
def kvPlanes (v : Stream) : List (Nat × Nat) := (List.range v.kvL).flatMap (fun l => [(l, 0), (l, 1)])

/-- The ring slot of a position of the visible window, 0 the oldest (R122). -/
def windowSlot (v : Stream) (i : Nat) : Nat := (v.kvHead + v.pcap - v.kvLen + i) % max 1 v.pcap

/-- KV_READ, R351. -/
def kvRead (b : List Byte) (q pos : Nat) (errs : List (Nat × List Byte)) (s : State) : State :=
  let v := getStream s (byteAt b 16)
  let first := leAt b 20 4
  let count := leAt b 24 4
  if v.st = .closed ∨ v.pcap = 0 then complete q pos 0x42 0 0 0 s
  else if v.kvLen < first + count then complete q pos 0x41 0 0 0 s
  else if !haddrOk b then complete q pos 0x43 0 0 0 s
  else if s.glb.dieFatal.testBit v.home then complete q pos 0x4A 0 0 0 s
  else
    let rows := (kvPlanes v).flatMap (fun (l, t) => (List.range count).map (fun i => kvAddr v l t (windowSlot v (first + i))))
    let (s, data, bad) := rows.foldl (fun (acc : State × List Byte × Bool) a =>
      let (s, bytes, e) := homeRead a (kvRow v) errs acc.1
      (s, acc.2.1 ++ bytes, acc.2.2 || e)) (s, [], false)
    complete q pos (if bad then 0x44 else 0) 0 0 0 (dmaWrite (leAt b 32 8) data s)

def execKvRead (q : Fin 16) (pos : Nat) (errs : List (Nat × List Byte)) (s : State) : Out :=
  .next (descRunHbm q pos 0x14 (fun b => kvRead b q pos errs) s)

/-- A pass of some message of the stream runs. -/
def streamDispatched (s : State) (k : Nat) : Bool :=
  s.groups.any (fun g => match g.run with
    | some r => r.members.any (fun mid => match findMsg s mid with | some m => decide (m.stream = k) | none => false)
    | none => false)

/-- KV_WRITE, R128, R351: rows into ring slots 0 to COUNT − 1, then the window. -/
def kvWrite (b : List Byte) (q pos : Nat) (data : Option (List Byte)) (s : State) : State :=
  let k := byteAt b 16
  let v := getStream s k
  let count := leAt b 24 4
  if v.st ≠ .fenced ∨ v.pcap = 0 ∨ streamDispatched s k then complete q pos 0x42 0 0 0 s
  else if v.kvCap < count then complete q pos 0x41 0 0 0 s
  else if !haddrOk b then complete q pos 0x43 0 0 0 s
  else if s.glb.dieFatal.testBit v.home then complete q pos 0x4A 0 0 0 s
  else
    match data with
    | none => complete q pos 0x46 0 0 0 s
    | some d =>
      let row := kvRow v
      let d := padTo (2 * v.kvL * count * row) d
      let cells := (kvPlanes v).flatMap (fun (l, t) => (List.range count).map (fun i => (kvAddr v l t i, ((2 * l + t) * count + i) * row)))
      let s := each cells (fun c s => (homeWrite 4 c.1 (slice d c.2 row) s).1) s
      complete q pos 0 0 0 0 (setStream k { v with kvHead := count % v.pcap, kvLen := count } s)

def execKvWrite (q : Fin 16) (pos : Nat) (data : Option (List Byte)) (s : State) : Out :=
  .next (descRunHbm q pos 0x15 (fun b => kvWrite b q pos data) s)

/-- The context record (Table STR-1). -/
def streamRecord (s : State) (k : Nat) : List Byte :=
  let v := getStream s k
  let code := match v.st with | .closed => 0 | .opened => 1 | .fenced => 2 | .draining => 3
  let held := ((inflight s k).filter (fun m => m.held)).length
  leBytes 4 (code + 4 * v.cls + 16 * v.slot + 256 * v.home + 1024 * v.policy + 4096 * inflightCount v + 32768 * held) ++
    leBytes 2 v.nextIn ++ leBytes 2 v.nextOut ++ leBytes 2 v.kvLen ++ leBytes 2 v.kvCap ++ leBytes 2 v.kvHead ++ leBytes 2 v.pcap ++
    leBytes 5 v.kvBase ++ leBytes 1 v.newPos ++ leBytes 2 0 ++ leBytes 2 v.lastStatus ++ leBytes 2 v.lastSeq ++ leBytes 4 0

end Sys2Proof.Machine
end

