-- ==== Sys2Proof/Machine/Symbols.lean ====
section
/-! DEFINITION. PAM4 symbols of a trunk (R21, R23, R32): levels and bit pairs, the preamble and the delimiters of a gather-pair burst, and the
cycle sync of the broadcast pair. A symbol is its level: −3, −1, +1 or +3. -/
namespace Sys2Proof.Machine

/-- The level of a bit pair 2·b1 + b0 (Table TRK-2). -/
def pairLevel (b : Nat) : Int := if b = 0 then -3 else if b = 1 then -1 else if b = 3 then 1 else 3

/-- The bit pair of a level (Table TRK-2). -/
def levelPair (l : Int) : Nat := if l ≤ -2 then 0 else if l ≤ 0 then 1 else if l ≤ 2 then 3 else 2

/-- The four symbols of a byte, lowest bit pair first (R21). -/
def byteSymbols (b : Byte) : List Int := (List.range 4).map (fun k => pairLevel (bitsOf b.toNat (2 * k) 2))

/-- The symbols of bytes, in order of increasing byte number (R21). -/
def bytesSymbols (bs : List Byte) : List Int := bs.flatMap byteSymbols

/-- The bytes that symbols carry; a last group of fewer than four carries none. -/
def symbolsBytes : List Int → List Byte
  | a :: b :: c :: d :: rest => BitVec.ofNat 8 (levelPair a + 4 * levelPair b + 16 * levelPair c + 64 * levelPair d) :: symbolsBytes rest
  | _ => []

/-- Symbols +3, −3 alternating, starting with +3. -/
def alternating (n : Nat) : List Int := (List.range n).map (fun i => if i % 2 = 0 then 3 else -3)

/-- The start delimiter, which also ends a cycle sync (Table TRK-3, R32). -/
def startDelimiter : List Int := [3, 3, -3, -3, 3, -3, -3, 3]

/-- The end delimiter (Table TRK-3). -/
def endDelimiter : List Int := [-3, -3, 3, 3, -3, 3, 3, -3]

/-- The training symbols of a preamble (Table TRK-3): 32 alternating, then six levels four times. -/
def trainingSymbols : List Int := alternating 32 ++ (List.replicate 4 [3, 1, -1, -3, -1, 1]).flatten

/-- What a burst carries around its payload, header excluded: preamble and end delimiter (Table TRK-3). -/
def burstFrame (payload : List Int) : List Int := trainingSymbols ++ startDelimiter ++ payload ++ endDelimiter

/-- A whole burst of payload bytes as they go on the wire and a 12-byte header (Table TRK-3). -/
def gpBurst (payload hdr : List Byte) : List Int := burstFrame (bytesSymbols payload) ++ bytesSymbols hdr

/-- The symbols of a burst beside its payload: 120, a null burst (R50). -/
def burstOverhead : Nat := (burstFrame []).length + 48

/-- A cycle sync of `n` symbols (R32). -/
def cycleSync (n : Nat) : List Int := alternating (n - 8) ++ startDelimiter

end Sys2Proof.Machine
end

