-- ==== Sys2Proof/Machine/TrunkAccess.lean ====
section
/-! DEFINITION. Trunk access (R45 to R69): cycles and schedules, the station table, sign-on, quarantine, isolation, the port's enable
and wind-down, and the TRUNK_CTL descriptors. -/
namespace Sys2Proof.Machine

def getPort (s : State) (n : Nat) : Port := tget Port.init n s.ports
def setPort (n : Nat) (p : Port) (s : State) : State := { s with ports := tset Port.init n p s.ports }
def updPort (n : Nat) (f : Port → Port) (s : State) : State := setPort n (f (getPort s n)) s

/-- Counter k of trunk port n (Table GLB-20). -/
def trkCount (n k : Nat) (s : State) : State := bump (768 + 20 * n + k) 1 s

def trkEn (s : State) (n : Nat) : Bool := (getReg s (trkReg n 0)).testBit 0

/-! ### Field map (Table TRK-9, R33 to R35, R59) -/

def fmEntry (s : State) (n i : Nat) : List Byte := padTo 32 (tget [] (64 * n + i) s.fm)

/-- The bits that an entry has: its reserved bits read 0 (Table TRK-9, R6). -/
def fmMask : List Nat := [0x03FFFFFF, 0x0FFFFFFF, 0x3FFFFFFF, 0x3FFFFFFF, 0x000FFFFF, 0xFFFFFFFF, 0xFFFFFFFF, 0]

def fmClean (e : List Byte) : List Byte := (List.zip fmMask (List.range 8)).flatMap (fun (m, k) => leBytes 4 (leAt e (4 * k) 4 &&& m))

def setFm (n i : Nat) (e : List Byte) (s : State) : State := { s with fm := tset [] (64 * n + i) (trimZeros (fmClean e)) s.fm }
def fmValid (e : List Byte) : Bool := (byteAt e 3).testBit 0
def fmAge (e : List Byte) : Nat := leAt e 4 2

/-- Word 1 of an entry: AGE and the signed arrival. DESIGN CHOICE (log 101): OFFSET keeps an arrival beyond its 12 bits, as a sign-on's is,
modulo 4,096. -/
def fmWord1 (age : Nat) (offset : Int) : List Byte := leBytes 4 (age % 65536 + 65536 * ofSigned 12 offset)

/-- An entry from a receiver's final settings: words 0 and 2 to 6 as measured, VALID and PROV as given, AGE 0. DESIGN CHOICE (log 101): a
provisional entry carries VALID = 1 beside PROV = 1, so it ages as the others do. -/
def fmLearned (final : List Byte) (prov : Bool) (offset : Int) : List Byte :=
  let f := padTo 32 final
  f.take 3 ++ leBytes 1 (1 + 2 * b2n prov) ++ fmWord1 0 offset ++ slice f 8 20 ++ leBytes 4 0

/-- The lowest provisional entry that is free: 32 to 62 with PROV = 0. -/
def freeProv (s : State) (n : Nat) : Option Nat :=
  ((List.range 31).map (· + 32)).find? (fun i => !(byteAt (fmEntry s n i) 3).testBit 1)

def freeFm (n i : Nat) (s : State) : State := if 32 ≤ i ∧ i < 63 then setFm n i [] s else s

/-- Every valid entry grows one cycle older; AGE holds at 0xFFFF. DESIGN CHOICE (log 102): entries with VALID = 0 and entry 63 do not age. -/
def ageFm (n : Nat) (s : State) : State :=
  each (List.range 63) (fun i s =>
    let e := fmEntry s n i
    if fmValid e then setFm n i (overlay e 4 (leBytes 2 (min 0xFFFF (fmAge e + 1)))) s else s) s

/-! ### Station table (Table TRK-17, R54) -/

def staWord (s : State) (n i : Nat) : Nat := leAt (tblEntry s 0x10 (32 * n + i)) 0 4
def staAddr (s : State) (n i : Nat) : Nat := bitsOf (staWord s n i) 0 6
def staValid (s : State) (n i : Nat) : Bool := (staWord s n i).testBit 8
def staAuto (s : State) (n i : Nat) : Bool := (staWord s n i).testBit 9
def staGrant (s : State) (n i : Nat) : Nat := clampNat 10 4095 (bitsOf (staWord s n i) 16 12)
def staKey (s : State) (n i : Nat) : List Byte := padTo 16 (slice (tblEntry s 0x10 (32 * n + i)) 32 16)

def station (s : State) (n i : Nat) : Station := tget Station.init i (getPort s n).stations
def setStation (n i : Nat) (v : Station) (s : State) : State := updPort n (fun p => { p with stations := tset Station.init i v p.stations }) s

/-- The entry that holds an address: the lowest VALID one that is not marked bad. -/
def effEntry (s : State) (n addr : Nat) : Option Nat :=
  (List.range 32).find? (fun i => staValid s n i && decide (staAddr s n i = addr) && !tblIsBad s 0x10 (32 * n + i))

def isAdmitted (s : State) (n i : Nat) : Bool :=
  decide ((station s n i).st = 2) && decide (effEntry s n (staAddr s n i) = some i)

def quarantined (s : State) (n addr : Nat) : Bool :=
  if addr < 32 then (getReg s (trkReg n 0x4C)).testBit addr else (getReg s (trkReg n 0x50)).testBit (addr - 32)

/-! ### Control codewords (R53) -/

def queueCtl (n rank : Nat) (payload : List Byte) (s : State) : State :=
  updPort n (fun p => { p with ctls := p.ctls ++ [{ rank := rank, payload := payload }] }) s

/-- An ACK entry: address, kind (0 BURST_DONE, 1 SIGNON_ACCEPT, 2 SIGNON_REFUSE, 3 ADVANCE), byte 1 and the half-word. -/
def queueAck (n addr kind b1 v : Nat) (s : State) : State :=
  updPort n (fun p => { p with acks := p.acks ++ [leBytes 1 (addr % 64 + 64 * kind) ++ leBytes 1 b1 ++ leBytes 2 v ++ leBytes 2 0] }) s

/-! ### Schedule (R45 to R48) -/

/-- C, the symbols of a cycle, N, its codeword slots, and S, its cycle sync (R32, R45). -/
def cycSymbols (s : State) (n : Nat) : Nat := 750 * clampNat 20 1000 (regF s (trkReg n 8) 0 10)
def cycSlots (s : State) (n : Nat) : Nat := (cycSymbols s n - 64) / 960
def cycSync (s : State) (n : Nat) : Nat := cycSymbols s n - 960 * cycSlots s n

def contLen (s : State) (n : Nat) : Nat := max 112 (regF s (trkReg n 0x28) 0 12)
def contN (s : State) (n : Nat) : Nat := min 4 (regF s (trkReg n 0x24) 0 3)

/-- Granted slots and repair reserves, back to back: `every` slots to a reserve (0 where repair is off), `k` slots since the last. -/
def grantSlots (every res : Nat) : List (Nat × Nat × Nat) → Nat → Nat → List SchedEnt
  | [], k, u => if every ≠ 0 ∧ k ≠ 0 then [{ kind := 2, addr := 0x3F, idx := 32, start := u, len := res }] else []
  | (i, a, l) :: rest, k, u =>
    let g : SchedEnt := { kind := 0, addr := a, idx := i, start := u, len := l }
    if every ≠ 0 ∧ k + 1 = every then
      g :: { kind := 2, addr := 0x3F, idx := 32, start := u + l, len := res } :: grantSlots every res rest 0 (u + l + res)
    else g :: grantSlots every res rest (k + 1) (u + l)

def schedEnd (l : List SchedEnt) : Nat := maxOf (l.map (fun e => e.start + e.len))

/-- The whole schedule of given stations with `nc` contention slots (R47). -/
def scheduleOf (s : State) (n : Nat) (idxs : List Nat) (nc : Nat) : List SchedEnt :=
  let every := if (getReg s (trkReg n 0)).testBit 3 then max 5 (regF s (trkReg n 0x30) 0 6) else 0
  let g := grantSlots every (regF s (trkReg n 0x34) 0 12) (idxs.map (fun i => (i, staAddr s n i, staGrant s n i))) 0 0
  let u := schedEnd g
  g ++ (List.range nc).map (fun k => { kind := 1, addr := 0x3F, idx := 32, start := u + k * contLen s n, len := contLen s n })

def admittedIdxs (s : State) (n : Nat) : List Nat := (List.range 32).filter (isAdmitted s n)

/-- The schedule a BEACON publishes: at most 40 entries, none past the end of its cycle. -/
def buildSchedule (s : State) (n : Nat) : List SchedEnt :=
  let base := scheduleOf s n (admittedIdxs s n) 0
  let all := scheduleOf s n (admittedIdxs s n) (min (contN s n) (40 - base.length))
  (all.take 40).filter (fun e => 16 * (e.start + e.len) ≤ cycSymbols s n)

/-- Admitting entry `i` keeps the schedule within R48. -/
def schedFits (s : State) (n i : Nat) : Bool :=
  let all := scheduleOf s n ((List.range 32).filter (fun j => decide (j = i) || isAdmitted s n j)) (contN s n)
  decide (schedEnd all ≤ cycSymbols s n / 16 ∧ all.length ≤ 40)

/-- The BEACON payload (Tables TRK-13 and TRK-14). -/
def beaconPayload (s : State) (n cyc nonce : Nat) (iso : Bool) (sched : List SchedEnt) : List Byte :=
  let ents := sched.flatMap (fun e => leBytes 1 (e.addr % 64 + 64 * e.kind) ++ leBytes 2 e.start ++ leBytes 2 (e.len % 4096))
  let cfg := regF s (trkReg n 0) 1 2 + 4 * regF s (trkReg n 0) 3 1 + 16 * b2n iso + 32 * n
  leBytes 4 cyc ++ leBytes 8 nonce ++ leBytes 3 (cycSymbols s n) ++ leBytes 1 cfg ++ leBytes 1 sched.length ++ leBytes 1 0 ++
    leBytes 2 (clampNat 64 9216 (regF s (trkReg n 0xC) 0 14)) ++ padTo 200 ents ++ leBytes 2 0

/-- R66: the cycle that ends has an unscheduled interval of at least 64 symbols; `energy` says that energy stood above the detect
level throughout all of them. -/
def judgeJam (n : Nat) (energy : Bool) (s : State) : State :=
  let p := getPort s n
  if cycSymbols s n < 16 * schedEnd p.sched + 64 then s
  else if energy then
    let run := min 3 (p.jamRun + 1)
    let s := updPort n (fun p => { p with jamRun := run, jammed := decide (3 ≤ run) }) s
    if run = 3 ∧ p.jammed = false then raise 0x0104 n 0 0 0 s else s
  else updPort n (fun p => { p with jamRun := 0, jammed := false }) s

/-- CYCLE_START, R45 to R47: the next cycle begins with its cycle sync; its BEACON publishes the schedule of the cycle after. In the first
isolated cycle the schedule that was published for it still stands, and the receiver ignores it (R67). -/
def cycleStart (n : Nat) (energy : Bool) (s : State) : State :=
  let p := getPort s n
  let sync := cycleSync (cycSync s n)
  if p.winding then updPort n (fun p => { p with bpSlot := 0, cyc := (p.cyc + 1) % 2 ^ 32, line := sync }) s
  else if !trkEn s n then s
  else
    let s := if p.running then ageFm n (judgeJam n energy s) else s
    let p := getPort s n
    let cyc := if p.running then (p.cyc + 1) % 2 ^ 32 else 0
    let iso := p.isoWant || stopped s
    let (nonce, s) := drawFree s
    let next := if iso then [] else buildSchedule s n
    let s := setPort n
      { p with
        running := true, cyc := cyc, iso := iso, sched := if p.running then p.next else [], next := next, nonce := p.nextNonce,
        nextNonce := nonce.toNat, ilv := p.nextIlv, nextIlv := regF s (trkReg n 0) 1 2, line := sync,
        windows := p.windows.filter (fun w => decide (w.cyc = cyc ∨ w.cyc = (cyc + 1) % 2 ^ 32)),
        beacon := some (beaconPayload s n cyc nonce.toNat iso next), bpSlot := 0, relWait := if iso then p.relWait else [] } s
    if iso then s else each p.relWait (fun d s => complete d.1 d.2 0 0 0 0 s) s

def execCycleStart (n : Fin 8) (energy : Bool) (s : State) : Out := .next (cycleStart n energy s)

/-! ### Sign-on (R55 to R60, R64, R65) -/

/-- A station loses its admission: ABSENT, and TRK_STATION_LOST names the cause (R60). -/
def loseStation (n i cause : Nat) (s : State) : State :=
  let v := station s n i
  if v.st = 2 then raise 0x0103 n cause (staAddr s n i) i (setStation n i { v with st := 0, miss := 0 } s) else s

/-- The provisional entry of an earlier sign-on that is still held is freed (R59). -/
def dropHeld (n i prov : Nat) (s : State) : State :=
  match (station s n i).held with
  | some h => if h.prov = prov then s else freeFm n h.prov s
  | none => s

/-- The station is admitted with what its sign-on measured (R58 step 2, R59). -/
def admitStation (n i : Nat) (g : Signon) (s : State) : State :=
  let v := station s n i
  let was := decide (v.st = 2)
  let r := g.record
  let s := dropHeld n i g.prov s
  let s := setStation n i { st := 2, preadmit := false, adv := g.adv, miss := 0, uid := leAt r 4 6, cap := byteAt r 2, held := none } s
  let s := if 32 ≤ g.prov ∧ g.prov < 63 then
      let e := fmEntry s n g.prov
      freeFm n g.prov (setFm n i (overlay e 3 (leBytes 1 1)) s)
    else s
  let s := trkCount n 7 (queueAck n (staAddr s n i) 1 i g.adv s)
  if was then s else raise 0x0102 n (staAddr s n i) i 0 s

/-- A sign-on is refused: the ACK, and its provisional entry is freed. -/
def refuseStation (n addr prov retry : Nat) (s : State) : State := freeFm n prov (queueAck n addr 2 0 retry s)

/-- R58 for a listed sign-on of entry `i`. -/
def listedSignon (n i : Nat) (g : Signon) (s : State) : State :=
  let v := station s n i
  let addr := staAddr s n i
  let holdCyc := regF s (trkReg n 0x40) 0 16
  if !schedFits s n i then trkCount n 8 (refuseStation n addr g.prov holdCyc s)
  else if staAuto s n i || v.preadmit || decide (v.st = 2) then admitStation n i g s
  else
    let s := setStation n i { v with st := 1, held := some g } (dropHeld n i g.prov s)
    raise 0x0101 n addr i 0 (queueCtl n 3 (leBytes 1 4 ++ leBytes 1 addr ++ leBytes 2 holdCyc) s)

/-- Set an address's quarantine bit; an admitted station loses its admission (R60, R65). -/
def setQuarantine (n addr : Nat) (auto : Bool) (s : State) : State :=
  let s := if addr < 32 then orRegIn 0x2000 (trkReg n 0x4C) (2 ^ addr) s else orRegIn 0x2000 (trkReg n 0x50) (2 ^ (addr - 32)) s
  let s := if auto then raise 0x0105 n addr 0 0 s else s
  match effEntry s n addr with
  | some i => loseStation n i 3 s
  | none => s

/-- A stranger sign-on (R64, R65): counted, its record punted in the arrival order of its ingress (R110), and quarantined when enough in a
row carry its address. -/
def strangerSignon (n addr : Nat) (g : Signon) (s : State) : State :=
  let s := freeFm n g.prov (trkCount n 10 s)
  let f : Frame := { newFrame s.nextFid n addr (g.record.map some) true with verdict := some true, walk := .decided, punt := some 0x06 }
  let s := settlePunts n (addFrame f s)
  let p := getPort s n
  let run := if p.strAddr = addr then p.strRun + 1 else 1
  let auto := regF s (trkReg n 0x48) 0 8
  let s := updPort n (fun p => { p with strAddr := addr, strRun := run }) s
  if auto ≠ 0 ∧ auto ≤ run ∧ quarantined s n addr = false then setQuarantine n addr true (updPort n (fun p => { p with strRun := 0 }) s) else s

/-- TAG of a sign-on (R56). -/
def signonTag (key : List Byte) (nonce port : Nat) (r : List Byte) : List Byte :=
  (cmac16 key (leBytes 8 nonce ++ slice r 1 1 ++ leBytes 1 port ++ slice r 4 6)).take 8

/-- SIGNON, R58: the record that qualified is admitted, refused, held, a stranger's, or ignored as quarantined. -/
def signon (n : Nat) (s : State) : State :=
  match (getPort s n).signon with
  | none => s
  | some g =>
    let s := updPort n (fun p => { p with signon := none }) s
    let addr := bitsOf (byteAt g.record 1) 0 6
    if quarantined s n addr then freeFm n g.prov (trkCount n 11 s)
    else
      match effEntry s n addr with
      | some i => if slice g.record 12 8 = signonTag (staKey s n i) g.nonce n g.record then listedSignon n i g s else strangerSignon n addr g s
      | none => strangerSignon n addr g s

def execSignon (n : Fin 8) (s : State) : Out := .next (signon n s)

/-- HOLD_EXPIRY, R58, R59: a PENDING station returns to ABSENT and its provisional entry is freed. -/
def holdExpiry (n i : Nat) (s : State) : State :=
  let v := station s n i
  if v.st ≠ 1 then s
  else
    let s := match v.held with
      | some g => freeFm n g.prov s
      | none => s
    setStation n i { v with st := 0, held := none } s

def execHoldExpiry (n : Fin 8) (i : Fin 32) (s : State) : Out := .next (holdExpiry n i s)

/-! ### Port enable and wind-down (R45, R68) -/

/-- A write of TRK_CTL.EN = 1 (R45, R68): cycle 0 is the next cycle start, or follows the wind-down. -/
def portEnable (n : Nat) (s : State) : State :=
  if trkEn s n then s
  else if (getPort s n).winding then updPort n (fun p => { p with reEn := true }) s
  else
    let s := updPort n (fun p =>
      { p with running := false, cyc := 0, sched := [], next := [], ctlSeq := 0, ctls := [], acks := [], beacon := none, bpSlot := 0,
               iso := false, isoWant := false, jamRun := 0, jammed := false, rx := none, rxNext := none, repairs := [], windows := [],
               signon := none }) s
    orRegIn 0x2000 (trkReg n 0) 1 s

def execPortEnable (n : Fin 8) (s : State) : Out := .next (if barUp s then portEnable n s else s)

/-- Messages whose replies go to a destination and have not begun send nothing and end INTERNAL in stream order, each counted in
RPL_DEST_DOWN (R234). -/
def failUnbegun (dest : Nat) (s : State) : State :=
  each (s.msgs.filter (fun m => !begun m && (match m.reply with | some r => decide (r.dest = dest) | none => false)))
    (fun m s => sendNothing m (bump 38 1 (updMsg m.mid (fun m => { m with reply := none }) s))) s

/-- Frames queued at an egress that goes down: copies are dropped and PUNT_RETURN completes with BAD_STATE; the messages of INJECT replies
end under R234. -/
def dropEgress (e : Nat) (s : State) : State :=
  let q := egressQ s e
  let s := setEgressQ e [] s
  each q (fun x s =>
    match x.kind with
    | .bridged => s
    | .puntReturn sq pos _ _ _ _ => complete sq pos 0x42 0 0 0 s
    | .injectReply _ => s) s

/-- Frames of an ingress whose verdict is not known take a bad one (R68, R80). -/
def damageIngress (ingress cnt : Nat) (s : State) : State :=
  let open_ := (s.frames.filter (fun f => decide (f.ingress = ingress ∧ f.verdict = none))).map Frame.fid
  settlePunts ingress (each open_ (fun fid s =>
    let s := bump cnt 1 (frameBad fid stDamaged s)
    updFrame fid (fun f => { f with ended := true, walk := .decided }) s) s)

/-- The last begun reply of a port's BP has ended: the BP goes silent (R68). -/
def windDownDone (n : Nat) (s : State) : State :=
  let p := getPort s n
  let left := s.msgs.any (fun m => begun m && (match m.reply with | some r => decide (r.dest = n) | none => false))
  if !p.winding || left then s
  else
    let s := updPort n (fun p => { p with winding := false, running := false, iso := false, isoWant := false, reEn := false, sched := [], next := [], windows := [], line := [] }) s
    if p.reEn then portEnable n s else s

/-- PORT_DISABLE, R68. -/
def portDisable (n : Nat) (s : State) : State :=
  if !trkEn s n then updPort n (fun p => { p with reEn := false }) s
  else
    let p := getPort s n
    let s := setRegIn 0x2000 (trkReg n 0) (setBitTo (getReg s (trkReg n 0)) 0 false) s
    let s := each p.repairs (fun _ => trkCount n 14) s
    let s := updPort n (fun p => { p with rx := none, rxNext := none, repairs := [], windows := [], signon := none, winding := p.running }) s
    let s := damageIngress n (768 + 20 * n + 19) s
    let s := each (List.range 32) (fun i s => loseStation n i 5 s) s
    let s := each (p.isoWait ++ p.relWait) (fun d s => complete d.1 d.2 0x42 0 0 0 s) s
    let s := updPort n (fun p => { p with ctls := [], acks := [], beacon := none, echoes := [], isoWait := [], relWait := [] }) s
    let held := (s.streams.filter (fun x => match x.2.echo with | some e => decide (e.port = n) | none => false)).map Prod.fst
    let s := each held (fun k => updStream k (fun v => { v with echo := none })) s
    let begunHere := (s.msgs.filter (fun m => begun m && (match m.reply with | some r => decide (r.dest = n) | none => false))).map Msg.mid
    let s := each begunHere (attach · stInternal) s
    failUnbegun n (dropEgress n s)

def execPortDisable (n : Fin 8) (s : State) : Out := .next (if barUp s then bbSettle (portDisable n s) else s)

/-- PORT_WIND_DOWN_DONE, R68. -/
def execPortWindDownDone (n : Fin 8) (s : State) : Out := .next (windDownDone n s)

/-! ### TRUNK_CTL (Table TRK-20) -/

/-- The descriptor is of this SUB, or of one outside Table TRK-20. -/
def ctlSub (sub : Nat) (b : List Byte) : Bool := decide (byteAt b 17 = sub) || decide (byteAt b 17 = 0 ∨ 8 < byteAt b 17)

/-- A TRUNK_CTL descriptor of one sub-operation: its port is below 8, otherwise BAD_PARAM. A SUB outside Table TRK-20 is taken by
any of these commands and completes with BAD_PARAM. -/
def trunkCtl (sub q pos : Nat) (f : Nat → List Byte → State → State) (s : State) : State :=
  descRun q pos 0x33 (ctlSub sub) (fun b s =>
    if 7 < byteAt b 16 ∨ byteAt b 17 = 0 ∨ 8 < byteAt b 17 ∨ (byteAt b 17 ≤ 4 ∧ 62 < byteAt b 18) then complete q pos 0x41 0 0 0 s
    else f (byteAt b 16) b s) s

/-- The entry of the address that a TRUNK_CTL names; an address with none is BAD_STATE. -/
def onEntry (q pos n addr : Nat) (f : Nat → State → State) (s : State) : State :=
  match effEntry s n addr with
  | none => complete q pos 0x42 0 0 0 s
  | some i => f i s

/-- TRUNK_CTL ADMIT: a PENDING address is admitted, any other listed one is marked PREADMIT. -/
def ctlAdmit (q pos n : Nat) (b : List Byte) (s : State) : State :=
  onEntry q pos n (byteAt b 18) (fun i s =>
    let v := station s n i
    let s := match v.st, v.held with
      | 1, some g =>
        if schedFits s n i then admitStation n i g s
        else trkCount n 8 (refuseStation n (byteAt b 18) g.prov (regF s (trkReg n 0x40) 0 16) (setStation n i { v with st := 0, held := none } s))
      | _, _ => setStation n i { v with preadmit := true } s
    complete q pos 0 0 0 0 s) s

def execTrunkCtlAdmit (q : Fin 16) (pos : Nat) (s : State) : Out := .next (trunkCtl 1 q pos (fun n b s => ctlAdmit q pos n b s) s)

/-- TRUNK_CTL REFUSE: of a PENDING address. -/
def ctlRefuse (q pos n : Nat) (b : List Byte) (s : State) : State :=
  onEntry q pos n (byteAt b 18) (fun i s =>
    let v := station s n i
    if v.st ≠ 1 then complete q pos 0x42 0 0 0 s
    else
      let prov := match v.held with | some g => g.prov | none => 63
      complete q pos 0 0 0 0 (refuseStation n (byteAt b 18) prov (leAt b 20 2) (setStation n i { v with st := 0, held := none } s))) s

def execTrunkCtlRefuse (q : Fin 16) (pos : Nat) (s : State) : Out := .next (trunkCtl 2 q pos (fun n b s => ctlRefuse q pos n b s) s)

/-- TRUNK_CTL EXPEL: of an admitted address. -/
def ctlExpel (q pos n : Nat) (b : List Byte) (s : State) : State :=
  onEntry q pos n (byteAt b 18) (fun i s =>
    if (station s n i).st ≠ 2 then complete q pos 0x42 0 0 0 s else complete q pos 0 0 0 0 (loseStation n i 2 s)) s

def execTrunkCtlExpel (q : Fin 16) (pos : Nat) (s : State) : Out := .next (trunkCtl 3 q pos (fun n b s => ctlExpel q pos n b s) s)

/-- TRUNK_CTL QUARANTINE. -/
def execTrunkCtlQuarantine (q : Fin 16) (pos : Nat) (s : State) : Out :=
  .next (trunkCtl 4 q pos (fun n b s => complete q pos 0 0 0 0 (setQuarantine n (byteAt b 18) false s)) s)

/-- TRUNK_CTL ISOLATE, R67: from the next BEACON; it completes with ISOLATE_COMPLETE. -/
def ctlIsolate (q pos n : Nat) (s : State) : State :=
  if !trkEn s n then complete q pos 0x42 0 0 0 s
  else updPort n (fun p => { p with isoWant := true, isoWait := insertNew (q, pos) p.isoWait }) s

def execTrunkCtlIsolate (q : Fin 16) (pos : Nat) (s : State) : Out := .next (trunkCtl 5 q pos (fun n _ s => ctlIsolate q pos n s) s)

/-- ISOLATE_COMPLETE, R67: the port is isolated, no scheduled slot is left, and every message admitted from it has ended. -/
def isolateComplete (n : Nat) (s : State) : State :=
  let p := getPort s n
  if !p.iso || !p.sched.isEmpty || s.msgs.any (fun m => decide (m.ingress = n)) then s
  else each p.isoWait (fun d s => complete d.1 d.2 0 0 0 0 s) (updPort n (fun p => { p with isoWait := [] }) s)

def execIsolateComplete (n : Fin 8) (s : State) : Out := .next (isolateComplete n s)

/-- TRUNK_CTL RELEASE, R67: from the next BEACON, with which it completes. -/
def ctlRelease (q pos n : Nat) (s : State) : State :=
  if !trkEn s n then complete q pos 0x42 0 0 0 s
  else updPort n (fun p => { p with isoWant := false, relWait := insertNew (q, pos) p.relWait }) s

def execTrunkCtlRelease (q : Fin 16) (pos : Nat) (s : State) : Out := .next (trunkCtl 6 q pos (fun n _ s => ctlRelease q pos n s) s)

/-- TRUNK_CTL SET_ILV, R44, R67: only while isolated; otherwise it completes without effect. -/
def ctlSetIlv (q pos n : Nat) (b : List Byte) (s : State) : State :=
  let w := getReg s (trkReg n 0)
  complete q pos 0 0 0 0 (if (getPort s n).iso then setRegIn 0x2000 (trkReg n 0) (w - 2 * bitsOf w 1 2 + 2 * bitsOf (byteAt b 19) 0 2) s else s)

def execTrunkCtlSetIlv (q : Fin 16) (pos : Nat) (s : State) : Out := .next (trunkCtl 7 q pos (fun n b s => ctlSetIlv q pos n b s) s)

/-- TRUNK_CTL SET_REPAIR, R67. -/
def ctlSetRepair (q pos n : Nat) (b : List Byte) (s : State) : State :=
  complete q pos 0 0 0 0
    (if (getPort s n).iso then setRegIn 0x2000 (trkReg n 0) (setBitTo (getReg s (trkReg n 0)) 3 ((byteAt b 19).testBit 0)) s else s)

def execTrunkCtlSetRepair (q : Fin 16) (pos : Nat) (s : State) : Out := .next (trunkCtl 8 q pos (fun n b s => ctlSetRepair q pos n b s) s)

end Sys2Proof.Machine
end

