-- ==== Sys2Proof/Machine/BackboneRx.lean ====
section
/-! DEFINITION. The receiving side of the backbone ports (R80, R83, R84), their links (R79), and the PTP servo (R89, R448). -/
namespace Sys2Proof.Machine

/-! ### BBP_BYTES_AVAILABLE (R80, R83, R84, R88) -/

/-- A frame begins on an interface: it is dropped in a soft reset (R303) or when it finds the 1 MiB buffer full (R83), or a new frame is
held. `ago` is how long before now its timestamp point passed the RX pins. -/
def bbFrameStart (l n ago : Nat) (s : State) : State :=
  if stopped s then
    let s := updBb l (fun b => { b with rxDrop := 2 }) s
    if quiesced s then bump 66 1 s else s
  else if 1048576 < bbOcc s l 8 + n then bbpCount l 4 (updBb l (fun b => { b with rxDrop := 1 }) s)
  else
    let fid := s.nextFid
    let f : Frame := { newFrame fid (8 + l) 0x3F [] false with stamp := devTime s - ago, hasStamp := true, pri := regF s (bbpReg (l / 4) 0x14) 0 3 }
    updBb l (fun b => { b with rx := some fid, rxLen := 0, rxCrc := 0xFFFFFFFF, rxBad := false }) (addFrame f s)

/-- Bytes reach the frame in reception; those past 9,600 are discarded, and byte 9,601 makes it a giant (R80). -/
def bbAppend (l : Nat) (data : List Byte) (uncorr : Bool) (s : State) : State :=
  let b := getBb s l
  match b.rx with
  | none => s
  | some fid =>
    let len := b.rxLen + data.length
    let s := setBb l { b with rxLen := len, rxCrc := crcRefl 0xEDB88320 b.rxCrc data, rxBad := b.rxBad || uncorr } s
    let add := (data.take (9600 - b.rxLen)).map (fun x => if uncorr then none else some x)
    let s := updFrame fid (fun f => if f.giant then f else { f with bytes := f.bytes ++ add }) s
    let s := updFrame fid (fun f => { f with pri := framePri s l (f.bytes.map (fun x => x.getD 0#8)) }) s
    let s := bytesCame fid s
    if 9600 < len ∧ b.rxLen ≤ 9600 then declareGiant fid 9601 (bbpCount l 1 s) else s

/-- BBP_BYTES_AVAILABLE, R84: decoded bytes of the frame on an interface; `uncorr`: their FEC codeword was uncorrectable. -/
def bbBytes (l : Nat) (data : List Byte) (uncorr : Bool) (ago : Nat) (s : State) : State :=
  if !bbpUp s (8 + l) || data.isEmpty then s
  else
    let s := if uncorr then bbpCount l 3 s else s
    let b := getBb s l
    let s := if b.rx.isNone && decide (b.rxDrop = 0) then bbFrameStart l data.length ago s else s
    bbAppend l data uncorr s

def execBbpBytesAvailable (l : Fin 8) (data : List Byte) (uncorr : Bool) (ago : Nat) (s : State) : Out :=
  .next (bbSettle (bbBytes l data uncorr ago s))

/-! ### BBP_FRAME_END (R12, R80, R83) -/

/-- The running CRC of a whole frame with a good FCS. -/
def crcResidue : Nat := 0xDEBB20E3

/-- BBP_FRAME_END, R80: the frame on an interface is complete: a runt, a giant that was already declared, a schedule frame that waits to
be taken (R90), or a frame with its verdict. -/
def bbFrameEnd (l : Nat) (s : State) : State :=
  let b := getBb s l
  let s := setBb l { b with rx := none, rxDrop := 0 } s
  match b.rx with
  | none => s
  | some fid =>
    if b.rxLen ≤ 63 then
      settlePunts (8 + l) (updFrame fid (fun f => { f with walk := .decided, ended := true }) (frameBad fid stDamaged (bbpCount l 0 s)))
    else
      let good := decide (b.rxCrc = crcResidue) && !b.rxBad
      let s := if good then s else bbpCount l 2 s
      let s := noteEnd fid (updFrame fid (fun f => { f with ended := true }) s)
      match findFrame s fid with
      | none => s
      | some f =>
        if f.verdict.isNone && decide (schedShape s f = some true) then
          if good then updFrame fid (fun f => { f with verdict := some true }) s else settlePunts (8 + l) (dropFrame fid s)
        else frameVerdict fid good s

def execBbpFrameEnd (l : Fin 8) (s : State) : Out := .next (bbSettle (bbFrameEnd l s))

/-! ### BBP_LINK_DOWN, BBP_LINK_UP (R79, R80) -/

/-- A link goes down: the frame in reception is damaged, frames to the interface are dropped, and replies to it end INTERNAL. -/
def bbLinkDown (l : Nat) (s : State) : State :=
  let st := bbpReg (l / 4) 0x40
  if !(getReg s st).testBit (l % 4) then s
  else
    let b := getBb s l
    let s := raise 0x0202 l 0 0 0 (setRegIn 0x2400 st (setBitTo (getReg s st) (l % 4) false) s)
    let s := match b.rx with
      | some fid => frameVerdict fid false (bbpCount l 2 (updFrame fid (fun f => { f with ended := true }) s))
      | none => s
    let s := updBb l (fun b => { b with rx := none, rxDrop := 0, tx := none, paused := 0, xoff := 0 }) s
    let s := bbDropQueue l s
    let begunHere := s.msgs.filter (fun m => begun m && (match m.reply with | some r => decide (r.dest = 8 + l) | none => false))
    let s := each begunHere (fun m s =>
      let s := bbpCount l 5 s
      if released m then endMsg m.mid s
      else failMsg stInternal m.mid (updMsg m.mid (fun m => { m with reply := none }) s)) s
    failUnbegun (8 + l) s

def execBbpLinkDown (l : Fin 8) (s : State) : Out := .next (bbSettle (bbLinkDown l s))

/-- BBP_LINK_UP, R79: of an interface that its port's mode has, on an enabled port; in modes 6 and 7 the port stays down. -/
def bbLinkUp (l : Nat) (s : State) : State :=
  let st := bbpReg (l / 4) 0x40
  if (getReg s (bbpReg (l / 4) 0)).testBit 0 && bbExists s l && !(getReg s st).testBit (l % 4) then
    raise 0x0202 l 1 0 0 (setRegIn 0x2400 st (setBitTo (getReg s st) (l % 4) true) s)
  else s

def execBbpLinkUp (l : Fin 8) (s : State) : Out := .next (bbLinkUp l s)

/-! ### The PTP servo (R89, R448) -/

/-- The interface, domain and servo enable of BBP_PTP_CTL. -/
def ptpServo (s : State) : Bool := (getReg s (bbpReg 0 0x1C)).testBit 0

/-- PTP_MASTER_ADOPT, R448: the write of MASTER2 makes the servo adopt the three registers together. -/
def ptpMasterAdopt (v : Nat) (s : State) : State :=
  let s := setRegIn 0x2400 (bbpReg 0 0x28) (v % 65536) s
  { s with ptp := { s.ptp with master := getReg s (bbpReg 0 0x20) + 2 ^ 32 * getReg s (bbpReg 0 0x24) + 2 ^ 64 * (v % 65536) } }

def execPtpMasterAdopt (v : BitVec 16) (s : State) : Out := .next (if barUp s then ptpMasterAdopt v.toNat s else s)

/-- The largest trim of the PI loop, 200 ppm, in units of 2^−32. -/
def trimMax : Int := 858993

/-- PTP_SYNC_RECEIVED, R89: a Sync with its receive timestamp and the master's time of sending, correction included. The PI loop's gains
are not in the manual: its trim is a free value within ±200 ppm. -/
def ptpSync (l domain source : Nat) (t1 t2 : Nat) (s : State) : State :=
  let c := getReg s (bbpReg 0 0x1C)
  if ptpServo s && decide (bitsOf c 1 3 = l ∧ bitsOf c 8 8 = domain ∧ s.ptp.master = source) then
    let s := { s with ptp := { s.ptp with lost := false } }
    let step : Int := getReg s (bbpReg 0 0x30)
    let off : Int := (t2 : Int) - t1 - getReg s (bbpReg 0 0x2C)
    if off < -step then
      raise 0x0203 l (-off).toNat 0 0 { s with clk := { s.clk with devTime := s.clk.devTime + BitVec.ofInt 64 (-off), slew := 0 } }
    else if step < off then { s with clk := { s.clk with slew := off - step } }
    else
      let (v, s) := drawFree s
      { s with clk := { s.clk with trim := clampInt (-trimMax) trimMax v.toInt, slew := 0 } }
  else s

def execPtpSyncReceived (l : Fin 8) (domain : BitVec 8) (source : BitVec 80) (t1 t2 : BitVec 64) (s : State) : Out :=
  .next (ptpSync l domain.toNat source.toNat t1.toNat t2.toNat s)

/-- BBP_PTP_LOST, R89: no valid Sync for BBP_PTP_HOLD; the trim stays. -/
def ptpLost (s : State) : State :=
  if ptpServo s && !s.ptp.lost then raise 0x0204 (regF s (bbpReg 0 0x1C) 1 3) 0 0 0 { s with ptp := { s.ptp with lost := true } } else s

def execBbpPtpLost (s : State) : Out := .next (ptpLost s)

end Sys2Proof.Machine
end

