-- ==== Sys2Proof/Machine/TrunkPhy.lean ====
section
/-! DEFINITION. The trunk receiver (R21 to R41, R52, R62, R70 to R77): slots and seeds, descrambling, interleave and Reed–Solomon
decoding, the impulse detector, burst headers, burst ends, repair rounds and frame verdicts. -/
namespace Sys2Proof.Machine

/-! ### Scrambler (R22) -/

/-- One bit of the scrambler: its output bit and next state. -/
def lfsrStep (st : Nat) : Bool × Nat :=
  let b := st.testBit 22 != st.testBit 17
  (b, 2 * (st % 2 ^ 22) + b2n b)

/-- The next byte of the scrambler, bit 0 first. -/
def lfsrByte : Nat → Nat → Nat → Nat × Nat
  | 0, st, _ => (0, st)
  | n + 1, st, w =>
    let (b, st') := lfsrStep st
    let (v, st'') := lfsrByte n st' (2 * w)
    (b2n b * w + v, st'')

/-- Scramble or descramble bytes from a state. -/
def scramble : Nat → List Byte → Nat × List Byte
  | st, [] => (st, [])
  | st, x :: xs =>
    let (v, st') := lfsrByte 8 st 1
    let (st'', ys) := scramble st' xs
    (st'', (x ^^^ BitVec.ofNat 8 v) :: ys)

/-- The seed of a burst: (1, ADDR, CYC). -/
def burstSeed (addr cyc : Nat) : Nat := 2 ^ 22 + 65536 * (addr % 64) + cyc % 65536

/-! ### Interleave and code (R26 to R29) -/

/-- Wire bytes of each codeword of a block of `len` wire bytes: all 240 but perhaps the last. -/
def blockLens (len : Nat) : List Nat :=
  List.replicate (len / 240) 240 ++ (if len % 240 = 0 then [] else [len % 240])

/-- The order in which a block's bytes are sent: codeword and byte number. -/
def blockOrder (lens : List Nat) : List (Nat × Nat) :=
  (List.range 240).flatMap (fun j => (List.range lens.length).filterMap (fun c => if j < (lens[c]?).getD 0 then some (c, j) else none))

/-- The codewords of a block, put together again. -/
def deinterleave (wire : List Byte) : List (List Byte) :=
  let lens := blockLens wire.length
  let tagged := List.zip (blockOrder lens) wire
  (List.range lens.length).map (fun c => tagged.filterMap (fun x => if x.1.1 = c then some x.2 else none))

/-- Decode one codeword: its data bytes and the bytes corrected, or none (R26). -/
def decodeCw (cw : List Byte) : Option (List Byte × Nat) :=
  if cw.length < 17 then none
  else
    match rsDecode 16 (bytesNat cw) with
    | some (w, n) => if n ≤ 8 then some ((natBytes w).take (cw.length - 16), n) else none
    | none => none

/-- The code's parity for 224 data bytes of a BP codeword. -/
def bpCodeword (data : List Byte) : List Byte := data ++ natBytes (rsParity 16 (bytesNat data))

/-! ### The receiver's slot (R33, R36 to R38) -/

def updRx (n : Nat) (f : Rx → Rx) (s : State) : State := updPort n (fun p => { p with rx := p.rx.map f }) s

/-- The receiver of a slot, seeded from a field-map entry (R33). -/
def openRx (s : State) (n kind idx addr cyc start : Nat) (deaf : Bool) (fid : Option Nat) : Rx :=
  let seed := if idx < 32 ∧ fmValid (fmEntry s n idx) then idx else 63
  { kind := kind, idx := idx, addr := addr, cyc := cyc, start := start, seed := seed, settings := fmEntry s n seed,
    double := decide (4096 ≤ fmAge (fmEntry s n seed)), deaf := deaf, hit := false, frozen := false, lfsr := burstSeed addr cyc, lens := [],
    oks := [], record := match fid.bind (findFrame s) with | some f => f.bytes | none => [], fid := fid, hdr := none }

/-- A burst is in reception: its slot's receiver holds a codeword or a header, or the sender of the command says so. -/
def rxBusy (p : Port) (busy : Bool) : Bool :=
  match p.rx with
  | some r => busy || !r.lens.isEmpty || r.hdr.isSome
  | none => false

/-- The seed of the next slot is loaded, behind a burst that is still in reception. -/
def loadRx (n : Nat) (busy : Bool) (r : Rx) (s : State) : State :=
  updPort n (fun p => if rxBusy p busy then { p with rxNext := some r } else { p with rx := some r, rxNext := none }) s

/-- The burst in reception has ended: the receiver goes on to the slot whose seed has been loaded. -/
def endRx (n : Nat) (s : State) : State := updPort n (fun p => { p with rx := p.rxNext, rxNext := none }) s

/-- FIELD_MAP_SEED_LOAD, R33: the receiver prepares for a slot, 0.20 µs before it: entry `slot` of the schedule, or repair window `slot − 40`
of the cycle; of the cycle that follows where `ahead`. `busy`: a burst of the slot before has been found and is still in reception. In an
isolated cycle no slot is served, and a repair window is one in which nothing is heard (R67). -/
def seedLoad (n slot : Nat) (ahead busy : Bool) (s : State) : State :=
  let p := getPort s n
  let cyc := if ahead then (p.cyc + 1) % 2 ^ 32 else p.cyc
  let iso := if ahead then p.isoWant || stopped s else p.iso
  if !p.running || p.winding then s
  else if slot < 40 then
    match (if ahead then p.next else p.sched)[slot]? with
    | some e => if e.kind = 2 || iso then s else loadRx n busy (openRx s n e.kind (if e.kind = 0 then e.idx else 32) e.addr cyc e.start false none) s
    | none => s
  else
    match (p.windows.filter (fun w => w.cyc = cyc))[slot - 40]? with
    | none => s
    | some w =>
      match p.repairs.find? (fun r => r.fid = w.fid) with
      | none => s
      | some r => loadRx n busy (openRx s n 2 r.idx r.addr cyc w.start iso (some r.fid)) s

def execFieldMapSeedLoad (n : Fin 8) (slot : Nat) (ahead busy : Bool) (s : State) : Out := .next (seedLoad n slot ahead busy s)

/-- IMPULSE_FIRE, R36. -/
def impulseFire (n : Nat) (s : State) : State :=
  match (getPort s n).rx with
  | none => s
  | some _ => trkCount n 0 (updRx n (fun r => { r with hit := true, frozen := true }) s)

def execImpulseFire (n : Fin 8) (s : State) : Out := .next (impulseFire n s)

/-- IMPULSE_RELEASE, R37. -/
def execImpulseRelease (n : Fin 8) (s : State) : Out := .next (updRx n (fun r => { r with frozen := false }) s)

/-! ### CODEWORD_DECODE (R29, R39, R76) -/

def maxFrame (s : State) (n : Nat) : Nat := clampNat 64 9216 (regF s (trkReg n 0xC) 0 14)

/-- A byte from position `i` on has been decoded. -/
def decodedFrom (f : Frame) (i : Nat) : Bool := (f.bytes.drop i).any Option.isSome

/-- A frame that reaches byte TRK_MAXFRAME + 1 is a giant (R76). -/
def checkGiant (n fid : Nat) (s : State) : State :=
  match findFrame s fid with
  | none => s
  | some f =>
    if !f.giant && decodedFrom f (maxFrame s n) then trkCount n 16 (declareGiant fid (maxFrame s n + 1) s) else s

/-- Add the bytes of one codeword to the frame in reception; a giant's further bytes are discarded. -/
def appendFrame (fid : Nat) (data : List (Option Byte)) (s : State) : State :=
  updFrame fid (fun f => if f.giant then f else { f with bytes := f.bytes ++ data }) s

/-- One codeword of a burst of `dl` data bytes: what decoding gave. -/
def addCodeword (n dl : Nat) (dec : Option (List Byte × Nat)) (s : State) : State :=
  match (getPort s n).rx with
  | none => s
  | some r =>
    let (s, data, ok) := match dec with
      | some (d, c) => (bump (768 + 20 * n + 2) c s, d.map some, true)
      | none => (trkCount n 1 s, List.replicate dl none, false)
    let k := r.lens.length
    let s := updRx n (fun r => { r with lens := r.lens ++ [dl], oks := r.oks ++ [ok] }) s
    if r.kind = 1 then updRx n (fun r => { r with record := r.record ++ data }) s
    else if r.kind = 2 then
      match (getPort s n).repairs.find? (fun x => some x.fid = r.fid) with
      | none => s
      | some rep =>
        match rep.named[k]? with
        | none => s
        | some j =>
          if ok && decide ((rep.lens[j]?).getD 0 = dl) then
            let s := updFrame rep.fid (fun f => if f.giant then f else { f with bytes := f.bytes.take (224 * j) ++ data ++ f.bytes.drop (224 * j + dl) }) s
            let s := updPort n (fun p => { p with repairs := p.repairs.map (fun x => if x.fid = rep.fid then { x with missing := without j x.missing } else x) }) s
            checkGiant n rep.fid (bytesCame rep.fid s)
          else s
    else
      let s := match r.fid with
        | some fid => bytesCame fid (appendFrame fid data s)
        | none =>
          let fid := s.nextFid
          updRx n (fun r => { r with fid := some fid }) (addFrame (newFrame fid n r.addr data false) s)
      match ((getPort s n).rx.map Rx.fid).getD none with
      | some fid => checkGiant n fid s
      | none => s

/-- A burst carries a quarantined address: its slot's owner's, or that of its good header (R65). -/
def rxQuarantined (s : State) (n : Nat) (r : Rx) : Bool :=
  decide (r.kind ≠ 1) && (quarantined s n r.addr || (match r.hdr with | some h => h.ok && quarantined s n h.addr | none => false))

/-- The receiver ignores a burst: its address is quarantined (R65), the port is isolated (R67), or the data path is stopped by a soft
reset (R303). -/
def rxIgnored (s : State) (n : Nat) (r : Rx) : Bool := rxQuarantined s n r || r.deaf || stopped s

/-- CODEWORD_DECODE, R29: an interleave block, as its symbols arrived. In a repair window D is 1 (R72). -/
def codewordDecode (n : Nat) (symbols : List Int) (s : State) : State :=
  match (getPort s n).rx with
  | none => s
  | some r =>
    let wire := symbolsBytes symbols
    let d := if r.kind = 2 then 1 else 2 ^ (getPort s n).ilv
    if rxIgnored s n r || decide (240 * d < wire.length) then s
    else
      let (st, plain) := scramble r.lfsr wire
      each (deinterleave plain) (fun cw => addCodeword n (cw.length - 16) (decodeCw cw)) (updRx n (fun r => { r with lfsr := st }) s)

def execCodewordDecode (n : Fin 8) (symbols : List Int) (s : State) : Out := .next (bbSettle (codewordDecode n symbols s))

/-! ### SLOT_MISSED, BURST_CUT_AT_SLOT_END (R40, R41, R60) -/

/-- SLOT_MISSED, R40: no start delimiter in a granted slot; the station's count of misses may end its admission. -/
def slotMissed (n : Nat) (s : State) : State :=
  match (getPort s n).rx with
  | none => s
  | some r =>
    let s := endRx n s
    if r.kind ≠ 0 then s
    else
      let s := trkCount n 4 s
      let v := station s n r.idx
      if v.st ≠ 2 then s
      else
        let miss := min 0xFFFF (v.miss + 1)
        let s := setStation n r.idx { v with miss := miss } s
        if max 1 (regF s (trkReg n 0x3C) 0 8) ≤ miss then loseStation n r.idx 1 s else s

def execSlotMissed (n : Fin 8) (s : State) : Out := .next (slotMissed n s)


/-! ### BURST_HEADER (R24, R25, R77) -/

def parseHdr (h : List Byte) (counted cyc : Nat) : BurstHdr :=
  let crc := decide (crcMsb 16 0x1021 0xFFFF (h.take 10) = beAt h 10 2)
  let len := bitsOf (leAt h 2 2) 0 14
  let fl := byteAt h 4
  { crcOk := crc, ok := crc && decide (bitsOf (byteAt h 0) 6 2 = 1 ∧ len = counted ∧ leAt h 8 2 = cyc % 65536),
    addr := bitsOf (byteAt h 0) 0 6, burstId := byteAt h 1, len := len, rrq := fl.testBit 0, signon := fl.testBit 1, resend := fl.testBit 2 }

/-- A repeat request (R77, R78): an honoured one queues a copy of the echo entry. -/
def repeatRequest (n addr k seq : Nat) (s : State) : State :=
  let v := getStream s k
  match v.echo with
  | some e =>
    if e.seq = seq ∧ e.port = n ∧ s.clk.now < e.time + 100000 ∧ v.lastReq = some (n, addr) then
      bump 39 1 (trkCount n 17 (updPort n (fun p => { p with echoes := p.echoes ++ [{ bytes := e.bytes, sent := 0, lane := none }] }) s))
    else trkCount n 18 s
  | none => trkCount n 18 s

/-- The burst is not its slot owner's, so the engine discards it (R64). -/
def strangeBurst (r : Rx) (h : BurstHdr) : Bool := decide (r.kind ≠ 1) && h.ok && decide (h.addr ≠ r.addr)

/-- The original burst of a request has ended, with its header or without one (R241). -/
def burstClosed (r : Rx) (s : State) : State :=
  match r.fid with
  | some fid => if r.kind = 0 then noteEnd fid s else s
  | none => s

/-- BURST_HEADER, R25: the symbols from the end delimiter on, with which the receiver finds the payload's end (R23), and the frame bytes that
it counted before. DESIGN CHOICE (log 103): a header with a bad CRC makes no repeat request, so it counts none as missed. -/
def burstHeader (n : Nat) (symbols : List Int) (counted : Nat) (s : State) : State :=
  match (getPort s n).rx with
  | none => s
  | some r =>
    if r.hdr.isSome || r.deaf || symbols.take 8 != endDelimiter then s
    else
      let h := padTo 12 (symbolsBytes (symbols.drop 8))
      let x := parseHdr h counted r.cyc
      let s := burstClosed r (updRx n (fun r => { r with hdr := some x }) s)
      let s := if x.ok then s else trkCount n 3 s
      if x.rrq && x.crcOk && !rxIgnored s n { r with hdr := some x } then
        if x.ok && !strangeBurst r x then repeatRequest n x.addr (byteAt h 5) (leAt h 6 2) s else trkCount n 18 s
      else s

def execBurstHeader (n : Fin 8) (symbols : List Int) (counted : Nat) (s : State) : Out := .next (burstHeader n symbols counted s)

/-! ### Repair (R70 to R73) -/

/-- Units of a window that holds the first `k` of some missing codewords. -/
def windowUnits (s : State) (n : Nat) (lens missing : List Nat) (k : Nat) : Nat :=
  let wire := sumOf ((missing.take k).map (fun j => 4 * ((lens[j]?).getD 0 + 16)))
  ceilDiv (16 * regF s (trkReg n 0x2C) 0 8 + burstOverhead + wire + 32) 16

/-- A place for a window in one reserve: start and length in units and how many codewords it holds. `o` is where the reserve's cycle
begins, `after` where the REPAIR codeword ends, `limit` the deadline, all in symbols from the start of the repaired burst's cycle. -/
def fitWindow (s : State) (n : Nat) (lens missing : List Nat) (taken : List Window) (o after limit : Nat) (e : SchedEnt) : Option (Nat × Nat × Nat) :=
  let u := maxOf (e.start :: ceilDiv (after - o) 16 :: (taken.filter (fun w => decide (e.start ≤ w.start ∧ w.start < e.start + e.len))).map (fun w => w.start + w.len))
  let ok := fun k => decide (u + windowUnits s n lens missing k ≤ e.start + e.len ∧ o + 16 * (u + windowUnits s n lens missing k) ≤ limit)
  match ((List.range missing.length).map (missing.length - ·)).find? ok with
  | some k => some (u, windowUnits s n lens missing k, k)
  | none => none

/-- Cycles from one cycle number to another, modulo 2^32. -/
def cycDist (a b : Nat) : Nat := (b + 2 ^ 32 - a) % 2 ^ 32

/-- The end of the REPAIR codeword, in symbols from the start of the present cycle: the first slot that begins at least 0.10 µs after symbol
`t`, has not been chosen, is not a BEACON's, and is not taken by a CONTROL codeword that goes before it (R53, R70). -/
def repairEnd (s : State) (n t : Nat) : Nat :=
  let p := getPort s n
  let slots := cycSlots s n
  let j := max (max p.bpSlot 1 + (p.ctls.filter (fun x => x.rank ≤ 1)).length) (ceilDiv (t + 75 - cycSync s n) 960)
  if j < slots then cycSync s n + 960 * (j + 1) else cycSymbols s n + cycSync s n + 960 * (j - slots + 2)

/-- Open a round for a repair (R70, R71): the REPAIR codeword and its window, or none where no window fits. The header of the burst that
ended did so at symbol `t` of cycle `tc`. -/
def openRound (n tc t : Nat) (rep : Repair) (s : State) : Option (Repair × State) :=
  let p := getPort s n
  let c := cycSymbols s n
  let base := cycDist rep.endCyc p.cyc * c
  let after := base + repairEnd s n (t - cycDist tc p.cyc * c)
  let limit := rep.endSym + 750 * clampNat 10 255 (regF s (trkReg n 0x38) 0 8)
  let now := (p.sched.filter (fun e => e.kind = 2)).map (fun e => (p.cyc, base, e))
  let nxt := (p.next.filter (fun e => e.kind = 2)).map (fun e => ((p.cyc + 1) % 2 ^ 32, base + c, e))
  let place := (now ++ nxt).findSome? (fun (cy, o, e) =>
    (fitWindow s n rep.lens rep.missing (p.windows.filter (fun w => w.cyc = cy)) o after limit e).map (fun x => (cy, x)))
  match place with
  | none => none
  | some (cy, u, l, k) =>
    let named := rep.missing.take k
    let bmp := sumOf (named.map (fun i => 2 ^ i))
    let rep := { rep with round := rep.round + 1, named := named }
    let payload := leBytes 1 2 ++ leBytes 1 rep.addr ++ leBytes 1 rep.burstId ++ leBytes 1 rep.round ++ leBytes 8 bmp ++ leBytes 4 cy ++ leBytes 2 u ++ leBytes 2 l
    some (rep, trkCount n 12 (queueCtl n 1 payload
      (updPort n (fun p => { p with windows := p.windows ++ [{ cyc := cy, start := u, len := l, fid := rep.fid }],
                                    repairs := p.repairs.filter (fun x => x.fid ≠ rep.fid) ++ [rep] }) s)))

/-- The frame of a repair that ends damaged (R73). -/
def repairFails (n fid : Nat) (s : State) : State :=
  trkCount n 14 (updFrame fid (fun f => { f with ended := true }) (updPort n (fun p => { p with repairs := p.repairs.filter (fun x => x.fid ≠ fid) }) s))

/-- The end of a round (R73), at symbol `t` of cycle `tc`: complete, a second round, or damaged. `may` says that R70 allows another. -/
def roundEnd (n tc t : Nat) (may : Bool) (fid : Nat) (s : State) : State :=
  match (getPort s n).repairs.find? (fun x => x.fid = fid) with
  | none => s
  | some rep =>
    let giant := match findFrame s fid with | some f => f.giant | none => true
    if rep.missing.isEmpty then
      let s := updPort n (fun p => { p with repairs := p.repairs.filter (fun x => x.fid ≠ fid) }) s
      trkCount n 13 (queueAck n rep.addr 0 rep.burstId 0 (updFrame fid (fun f => { f with ended := true }) s))
    else if rep.round < 2 ∧ may ∧ giant = false ∧ (getReg s (trkReg n 0)).testBit 3 = true then
      match openRound n tc t rep s with
      | some (_, s) => s
      | none => repairFails n fid s
    else repairFails n fid s

/-- REPAIR_SEARCH_TIMEOUT, R72: no start delimiter in a repair window; `t` is the symbol of the window's cycle at which the search ended. -/
def repairSearchTimeout (n t : Nat) (s : State) : State :=
  match (getPort s n).rx with
  | none => s
  | some r =>
    if r.kind ≠ 2 ∨ r.hdr.isSome then s
    else
      match r.fid with
      | none => s
      | some fid => roundEnd n r.cyc t true fid (endRx n s)

def execRepairSearchTimeout (n : Fin 8) (t : Nat) (s : State) : Out := .next (repairSearchTimeout n t s)

/-! ### BURST_END (R34, R52, R57, R59, R62, R64, R70) -/

/-- The header of a burst that ended without one. -/
def noHeader : BurstHdr :=
  { crcOk := false, ok := false, addr := 0x3F, burstId := 0, len := 0, rrq := false, signon := false, resend := false }

/-- The write-back of R34, or its skip; entry 63 is never written. DESIGN CHOICE (log 104): a burst that the engine discards because its
header carries another address writes nothing into the slot owner's entry. -/
def fmWriteBack (n : Nat) (r : Rx) (h : BurstHdr) (final : List Byte) (offset : Int) (s : State) : State × Bool :=
  if r.oks.all id && h.ok && !r.hit && decide (r.seed ≠ 63) && !strangeBurst r h then
    let old := toSigned 12 (bitsOf (leAt (fmEntry s n r.seed) 4 4) 16 12)
    (setFm n r.seed (fmLearned final false (if r.kind = 0 then offset else old)) s, true)
  else (trkCount n 5 s, false)

/-- A contention-slot burst ends: a collision, a record that qualifies, or nothing (R57, R59, R62). -/
def contentionEnd (n : Nat) (r : Rx) (h : BurstHdr) (final : List Byte) (offset : Int) (peaks : Bool) (evm : Nat) (s : State) : State :=
  if peaks || decide (regF s (trkReg n 0x44) 0 8 < evm) || (r.hdr.isSome && !h.crcOk) then
    trkCount n 9 (queueCtl n 0 (leBytes 1 1 ++ leBytes 1 0 ++ leBytes 4 r.cyc ++ leBytes 2 r.start) s)
  else
    let rec_ := r.record.map (fun b => b.getD 0#8)
    if h.ok && h.signon && !h.rrq && !h.resend && decide (h.addr = 0x3F ∧ h.len = 64 ∧ r.record.length = 64) && r.record.all Option.isSome
        && fcsGood rec_ && decide (byteAt rec_ 0 = 1 ∧ bitsOf (byteAt rec_ 1) 0 6 ≠ 0x3F) then
      let prov := (freeProv s n).getD 63
      let s := if prov < 63 then setFm n prov (fmLearned final true offset) s else s
      updPort n (fun p => { p with signon := some { record := rec_, adv := offset.toNat % 65536, nonce := p.nonce, prov := prov } }) s
    else s

/-- The frame of a burst that the engine discards or ignores: it is damaged, and no command tells its verdict any more. -/
def discardBurst (n : Nat) (r : Rx) (s : State) : State :=
  match r.fid with
  | some fid => settlePunts n (updFrame fid (fun f => { f with ended := true, walk := .decided }) (frameBad fid stDamaged s))
  | none => s

/-- A granted slot's burst ends: `t` is the symbol of its cycle at which its header ended. -/
def grantedEnd (n t : Nat) (r : Rx) (h : BurstHdr) (wrote : Bool) (offset : Int) (s : State) : State :=
  let v := station s n r.idx
  let s := if v.st = 2 then setStation n r.idx { v with miss := 0 } s else s
  if strangeBurst r h then discardBurst n r (trkCount n 10 s)
  else
    let v := station s n r.idx
    let s := if wrote ∧ v.st = 2 ∧ 64 < offset.natAbs then
        let adv := ofSigned 16 ((v.adv : Int) + offset)
        queueAck n r.addr 3 0 adv (setStation n r.idx { v with adv := adv } s)
      else s
    match r.fid with
    | none => s
    | some fid =>
      let missing := (List.range r.oks.length).filter (fun k => (r.oks[k]?).getD true = false)
      let giant := match findFrame s fid with | some f => f.giant | none => true
      let rep : Repair :=
        { fid := fid, idx := r.idx, addr := r.addr, burstId := h.burstId, lens := r.lens, missing := missing, round := 0, named := [],
          endCyc := r.cyc, endSym := t }
      if missing.isEmpty || giant || decide (sumOf r.lens ≤ 63) then updFrame fid (fun f => { f with ended := true }) s
      else if (getReg s (trkReg n 0)).testBit 3 && v.cap.testBit 0 && h.ok then
        match openRound n r.cyc t rep s with
        | some (_, s) => s
        | none => trkCount n 14 (updFrame fid (fun f => { f with ended := true }) s)
      else updFrame fid (fun f => { f with ended := true }) s

/-- The codewords of a frame under repair that its bytes lack. -/
def missingCws (lens : List Nat) (bytes : List (Option Byte)) : List Nat :=
  (List.range lens.length).filter (fun j => ((bytes.drop (224 * j)).take ((lens[j]?).getD 0)).any Option.isNone)

/-- A re-send that the engine discards leaves its frame as it was before the window (R64). -/
def undoResend (n fid : Nat) (r : Rx) (s : State) : State :=
  syncInput fid (updFrame fid (fun f => if f.giant then f else { f with bytes := r.record })
    (updPort n (fun p => { p with repairs := p.repairs.map (fun x =>
      if x.fid = fid then { x with missing := missingCws x.lens r.record } else x) }) s))

/-- A burst that the receiver ignores ends: a quarantined one is counted (R65), as is a request that a soft reset dropped; its frame is
damaged, and a repair round that it was to complete has failed (R73). -/
def ignoredEnd (n t : Nat) (r : Rx) (s : State) : State :=
  let s := if rxQuarantined s n r then trkCount n 11 s else if r.kind = 0 ∧ quiesced s = true then bump 66 1 s else s
  if r.kind = 2 then (match r.fid with | some fid => roundEnd n r.cyc t false fid s | none => s) else discardBurst n r s

/-- A repair window's burst ends (R64, R73). -/
def windowEnd (n t : Nat) (r : Rx) (h : BurstHdr) (s : State) : State :=
  match r.fid with
  | none => s
  | some fid => roundEnd n r.cyc t h.ok fid (if strangeBurst r h then undoResend n fid r (trkCount n 10 s) else s)

/-- A burst ends, with its header or without one. -/
def burstDone (n : Nat) (r : Rx) (h : BurstHdr) (final : List Byte) (offset : Int) (peaks : Bool) (evm t : Nat) (s : State) : State :=
  let s := burstClosed r (endRx n s)
  if rxIgnored s n r then ignoredEnd n t r s
  else
    let w := fmWriteBack n r h (final ++ r.settings.drop final.length) offset s
    if r.kind = 1 then contentionEnd n r h (final ++ r.settings.drop final.length) offset peaks evm w.1
    else if r.kind = 0 then grantedEnd n t r h w.2 offset w.1
    else windowEnd n t r h w.1

/-- BURST_END: the receiver's final settings, the arrival relative to the slot start in 1/16 symbol, what the collision detector saw,
and the symbol of its cycle at which the header ended. Settings that are not given are those of the seed. A burst whose header never came
ends here in a contention slot alone; in other slots with BURST_CUT_AT_SLOT_END. -/
def burstEnd (n : Nat) (final : List Byte) (offset : Int) (peaks : Bool) (evm t : Nat) (s : State) : State :=
  match (getPort s n).rx with
  | none => s
  | some r =>
    match r.hdr with
    | none => if r.kind = 1 then burstDone n r noHeader final offset peaks evm t s else s
    | some h => burstDone n r h final offset peaks evm t s

def execBurstEnd (n : Fin 8) (final : List Byte) (offset : Int) (peaks : Bool) (evm : Fin 256) (tEnd : Nat) (s : State) : Out :=
  .next (bbSettle (burstEnd n final offset peaks evm tEnd s))

/-- BURST_CUT_AT_SLOT_END, R41: no end delimiter came by the end of the slot; the burst ends there, its final codeword, of `lost` data bytes
and at least one, failed, and so did its header. DEDUCED (log 105): the same holds of a re-send whose end delimiter does not come. -/
def burstCut (n lost : Nat) (s : State) : State :=
  match (getPort s n).rx with
  | none => s
  | some r =>
    if r.kind = 1 ∨ r.hdr.isSome then s
    else
      let s := if rxIgnored s n r then s else trkCount n 3 (addCodeword n (clampNat 1 224 lost) none s)
      match (getPort s n).rx with
      | none => s
      | some r => burstDone n r noHeader [] 0 false 0 0 s

def execBurstCutAtSlotEnd (n : Fin 8) (lost : Nat) (s : State) : Out := .next (bbSettle (burstCut n lost s))

/-! ### FCS_VERDICT (R39, R76) -/

/-- FCS_VERDICT, R39: of a trunk frame whose last codeword has been decoded and whose repair, if any, is over. -/
def fcsVerdict (fid : Nat) (s : State) : State :=
  match findFrame s fid with
  | none => s
  | some f =>
    if 8 ≤ f.ingress ∨ f.ended = false ∨ f.verdict.isSome ∨ f.gleaned = true then s
    else if f.bytes.length ≤ 63 ∧ f.giant = false then
      let s := trkCount f.ingress 15 s
      let s := updFrame fid (fun f => { f with walk := .decided }) (frameBad fid stDamaged s)
      settlePunts f.ingress s
    else
      let good := f.bytes.all Option.isSome && fcsGood (frameBytes f)
      frameVerdict fid good (if good then s else trkCount f.ingress 19 s)

def execFcsVerdict (fid : Nat) (s : State) : Out := .next (bbSettle (fcsVerdict fid s))

end Sys2Proof.Machine
end

