-- ==== Sys2Proof/Machine/Egress.lean ====
section
/-! DEFINITION. Replies and the broadcast pair (R13 to R16, R30 to R32, R78, R227 to R244): the build, the choice of each codeword,
release and retraction, the gate timeout. -/
namespace Sys2Proof.Machine

/-! ### REPLY_BUILD (R229, R232 to R235) -/


/-- REPLY_BUILD, R229: outputs have arrived, no staged row is outstanding, and every echoed byte is available or never will be. -/
def replyBuild (mid : Nat) (s : State) : State :=
  match findMsg s mid with
  | none => s
  | some m =>
    let e := tblEntry s 0x40 m.tmpl
    let req := (buildIn s m false).req
    if m.loc ≠ .output ∨ m.outputs.isNone ∨ m.status.isSome ∨ m.held = true ∨ m.rowsOut ≠ [] ∨ m.reply.isSome then s
    else if !tplValid e || tblIsBad s 0x40 m.tmpl then
      sendNothing m (raise 0x0802 m.tmpl m.stream m.seq 0 (bump 37 1 s))
    else if !echoReady s e req then s
    else
      let dest := replyDest e m.ingress
      let m := { m with late := m.verdict.isSome }
      let (bytes, bad) := buildFrame e (buildIn s m false)
      let s := if bad then bump 37 1 s else s
      if destDown s dest then sendNothing m (bump 38 1 s)
      else
        let r := mkReply s m bytes dest false
        let s := updMsg mid (fun _ => { m with reply := some r }) { s with nextBuild := s.nextBuild + 1 }
        if dest = 16 then settleStream m.stream s
        else if r.asData then queueInjectReply m bytes dest s
        else s

/-! ### GATE_TIMEOUT (R241) -/

/-- When a message's gate timer started: the later of its admission and the end of the frame that carries its lead position; none while
that frame still arrives (R241). -/
def gateStart (s : State) (m : Msg) : Option Nat :=
  match findFrame s m.fid with
  | some f => f.tEnd.map (max m.gateT0)
  | none => some m.gateT0

/-- RPL_GATE_MAX in ns (R241). -/
def gateMax (s : State) : Nat := 1000 * clampNat 10 1000 (regF s 0x2700 0 10)

/-- GATE_TIMEOUT, R241: a verdict not known in time becomes bad with DAMAGED_REQ. -/
def gateTimeout241 (mid : Nat) (s : State) : State :=
  match findMsg s mid with
  | none => s
  | some m =>
    if m.verdict.isSome || !((gateStart s m).any (fun t => decide (t + gateMax s ≤ s.clk.now))) then s
    else
      let s := raise 0x0801 m.stream m.seq m.ingress 0 (bump 36 1 s)
      failMsg stDamaged mid (dropStomped mid (updMsg mid (fun m => { m with verdict := some false }) s))

def execGateTimeout (mid : Nat) (s : State) : Out := .next (bbSettle (gateTimeout241 mid s))

/-! ### Codewords (R30, R31, R242) -/

/-- The data bytes of a BP codeword: tag and 222 payload bytes. -/
def bpData (type lane : Nat) (first last : Bool) (seq : Nat) (payload : List Byte) : List Byte :=
  leBytes 2 (type + 8 * lane + 64 * b2n first + 128 * b2n last + 256 * (seq % 256)) ++ padTo 222 payload

/-- The payload of a codeword with LAST = 1: frame bytes, and their number at byte 221. -/
def lastPayload (bs : List Byte) : List Byte := padTo 221 bs ++ leBytes 1 (min 221 bs.length)

/-- The codeword of a frame at position `sent`: its piece and whether it is the last (R31). -/
def pieceOf (bytes : List Byte) (sent : Nat) : List Byte × Bool :=
  if sent < expressCount bytes.length then (slice bytes (222 * sent) 222, false) else (lastPayload (bytes.drop (222 * sent)), true)

/-- Send a codeword in the next slot: coded, then scrambled; a BEACON resets the scrambler first (R22); four symbols to a byte (R21). -/
def sendCw (n : Nat) (reset : Bool) (data : List Byte) (s : State) : State :=
  let p := getPort s n
  let (st, out) := scramble (if reset then 0x7FFFFF else p.lfsr) (bpCodeword data)
  setPort n { p with lfsr := st, chosen := out, line := bytesSymbols out, bpSlot := p.bpSlot + 1 } s

/-- The retraction record (Table RPL-5). -/
def retractRecord (m : Msg) (status ncw : Nat) : List Byte :=
  leBytes 1 1 ++ leBytes 1 status ++ leBytes 1 m.stream ++ leBytes 1 0 ++ leBytes 2 m.seq ++ leBytes 2 ncw ++ leBytes 8 0

/-! ### Lanes (R236) -/

def lanesUsed (s : State) (n : Nat) : List Nat :=
  s.msgs.filterMap (fun m => match m.reply with | some r => if r.dest = n then r.lane else none | none => none) ++
    (egressQ s n).filterMap EgrFrame.lane ++ (getPort s n).echoes.filterMap EchoCopy.lane

def freeLane (s : State) (n : Nat) : Option Nat := firstFree 8 (fun l => decide (l ∈ lanesUsed s n))

/-- Lanes that no frame holds. -/
def freeLanes (s : State) (n : Nat) : Nat := ((List.range 8).filter (fun l => l ∉ lanesUsed s n)).length

/-- The replies that wait for a lane of a port, by class and build (R236). -/
def laneWaiters (s : State) (n : Nat) : List (Nat × Nat) :=
  s.msgs.filterMap (fun m => match m.reply with
    | some r => if r.dest = n ∧ r.asData = false ∧ r.lane = none ∧ r.readyAt ≠ 0 then some (m.cls, r.buildNo) else none
    | none => none)

/-- A waiting reply stands ahead of another in the order of the EXPRESS row (Table RPL-4). -/
def laneAhead (a b : Nat × Nat) : Bool := decide (a.1 < b.1 ∨ (a.1 = b.1 ∧ a.2 < b.2))

/-- A lane for a frame that holds `held`, or the lowest free one where `ahead` waiting replies each find a lane too. -/
def laneFor (s : State) (n : Nat) (held : Option Nat) (ahead : Nat) : Option Nat :=
  match held with
  | some l => some l
  | none => if ahead < freeLanes s n then freeLane s n else none

/-- A lane for a reply: a lane that frees goes to the waiting replies in the order of the EXPRESS row (R236). -/
def replyLane (s : State) (n : Nat) (m : Msg) (r : Reply) : Option Nat :=
  laneFor s n r.lane
    (if r.readyAt = 0 then (laneWaiters s n).length else ((laneWaiters s n).filter (fun w => laneAhead w (m.cls, r.buildNo))).length)

/-- A lane for a frame that is no reply: behind every waiting reply. -/
def otherLane (s : State) (n : Nat) (held : Option Nat) : Option Nat := laneFor s n held (laneWaiters s n).length

/-! ### Candidates (Table RPL-4) -/

/-- The failure of a message that cancels its reply: its error reply goes on, unless a reset ends the message (R127). -/
def replyFailed (m : Msg) (r : Reply) : Bool := m.status.isSome && (!r.isError || m.silent)

/-- The gate of a reply's final codeword is open (R230, R239). -/
def gateOpen (m : Msg) (r : Reply) : Bool := r.isError || decide (m.verdict = some true)

/-- What rank 3 sends for a message, if anything: `true` for RETRACT. -/
def mayEnd (s : State) (n : Nat) (m : Msg) : Option (Reply × Bool) :=
  match m.reply with
  | none => none
  | some r =>
    if r.dest ≠ n ∨ r.asData = true then none
    else if decide (0 < r.sent) && (replyFailed m r || (getPort s n).winding) then some (r, true)
    else if !replyFailed m r && isOldest s m && decide (r.sent = expressCount r.bytes.length) && gateOpen m r
        && (replyLane s n m r).isSome && !(getPort s n).winding then some (r, false)
    else none

/-- A reply with EXPRESS codewords left to send, in its turn. -/
def mayExpress (s : State) (n : Nat) (m : Msg) : Option Reply :=
  match m.reply with
  | none => none
  | some r =>
    if decide (r.dest = n) && !r.asData && !replyFailed m r && isOldest s m && decide (r.sent < expressCount r.bytes.length)
        && (replyLane s n m r).isSome then some r
    else none

/-- The reply that rank 4 takes: higher class first, then the build that completed first. -/
def bestExpress (s : State) (n : Nat) : Option (Msg × Reply) :=
  s.msgs.foldl (fun (b : Option (Msg × Reply)) m =>
    match mayExpress s n m with
    | none => b
    | some r =>
      match b with
      | none => some (m, r)
      | some (m0, r0) => if m.cls < m0.cls ∨ (m.cls = m0.cls ∧ r.buildNo < r0.buildNo) then some (m, r) else b) none

/-- A reply could send its first codeword now, but for a lane. -/
def wantsLane (s : State) (n : Nat) (m : Msg) (r : Reply) : Bool :=
  decide (r.dest = n) && !r.asData && r.lane.isNone && !replyFailed m r && isOldest s m &&
    (decide (r.sent < expressCount r.bytes.length) || gateOpen m r)

/-- The waits for a lane that begin now (RPL_LANE_WAIT_NS). -/
def markLaneWaits (n : Nat) (s : State) : State :=
  if (freeLane s n).isSome then s
  else
    { s with msgs := s.msgs.map (fun m =>
        match m.reply with
        | some r =>
          if wantsLane s n m r && decide (r.readyAt = 0) then { m with reply := some { r with readyAt := s.clk.now + 1 } }
          else m
        | none => m) }

def takeLane (m : Msg) (r : Reply) (s : State) : State :=
  if r.lane.isNone && decide (r.readyAt ≠ 0) then bump 40 (s.clk.now + 1 - r.readyAt) (updMsg m.mid (fun m => { m with reply := some { r with readyAt := 0 } }) s) else s

def finalStatus (m : Msg) : Nat := match m.status with | some e => e | none => if m.late then 1 else 0

/-- From the choice of a codeword to its end on the wire, in ns: 40 ns and a slot of 1.28 µs (R237). -/
def cwEnd : Nat := 1320

/-- The codeword of rank 3 (R239, R240, R242): FINAL releases the reply, RETRACT cancels it. -/
def sendEnd (n : Nat) (m : Msg) (r : Reply) (retract : Bool) (s : State) : State :=
  let lane := (replyLane s n m r).getD 0
  let s := takeLane m r s
  let status := if retract then m.status.getD stInternal else finalStatus m
  let rec5 := leBytes 4 m.stream ++ leBytes 4 m.seq ++ leBytes 4 status
  if retract then
    let s := sendCw n false (bpData 4 lane false true r.sent (lastPayload (retractRecord m status r.sent))) s
    let s := captureIod 5 rec5 (teleAdd 2 1 (bump 33 1 s))
    settleStream m.stream (endOne m.mid (attach m.mid stInternal s))
  else
    let s := sendCw n false (bpData 3 lane (decide (r.sent = 0)) true r.sent (pieceOf r.bytes r.sent).1) s
    let s := captureIod 5 rec5 (bump 32 1 s)
    let s := if m.status.isNone then countLate m s else s
    let s := updStream m.stream (fun v => { v with echo := some { bytes := r.bytes, seq := m.seq, port := n, time := s.clk.now + cwEnd } }) s
    settleStream m.stream (endOne m.mid s)

/-- An EXPRESS codeword. -/
def sendExpress (n : Nat) (m : Msg) (r : Reply) (s : State) : State :=
  let lane := (replyLane s n m r).getD 0
  let s := takeLane m r s
  let s := sendCw n false (bpData 2 lane (decide (r.sent = 0)) false r.sent (pieceOf r.bytes r.sent).1) s
  updMsg m.mid (fun m => { m with reply := some { r with sent := r.sent + 1, lane := some lane, readyAt := 0 } }) s

/-- The next codeword of an echo copy (R78). -/
def sendEcho (n : Nat) (s : State) : Option State :=
  match (getPort s n).echoes with
  | [] => none
  | e :: es =>
    match otherLane s n e.lane with
    | none => none
    | some lane =>
      let (piece, last) := pieceOf e.bytes e.sent
      let s := sendCw n false (bpData (if last then 3 else 2) lane (decide (e.sent = 0)) last e.sent piece) s
      let es := if last then es else { e with sent := e.sent + 1, lane := some lane } :: es
      some (updPort n (fun p => { p with echoes := es }) s)

/-- A queued frame may have the next DATA slot (R233, R236). -/
def mayData (s : State) (n : Nat) (x : EgrFrame) : Bool :=
  x.lane.isSome ||
    (decide (((egressQ s n).filter (fun y => y.lane.isSome)).length < clampNat 1 6 (regF s 0x2704 0 3)) && (otherLane s n none).isSome &&
      (match x.kind with
        | .injectReply mid => (match findMsg s mid with | some m => isOldest s m | none => false)
        | _ => true))

/-- The next DATA codeword: an INJECT reply is released by its first, a PUNT_RETURN completes with its last. -/
def sendData (n : Nat) (x : EgrFrame) (s : State) : State :=
  let lane := (otherLane s n x.lane).getD 0
  let (piece, last) := pieceOf x.bytes x.sent
  let s := sendCw n false (bpData 1 lane (decide (x.sent = 0)) last x.sent piece) s
  let q := if last then (egressQ s n).filter (fun y => y.order ≠ x.order)
    else (egressQ s n).map (fun y => if y.order = x.order then { y with sent := y.sent + 1, lane := some lane } else y)
  let s := setEgressQ n q s
  match x.kind with
  | .bridged => s
  | .puntReturn sq pos _ _ _ _ => if last then complete sq pos 0 0 0 0 s else s
  | .injectReply mid =>
    if x.sent ≠ 0 then s
    else
      match findMsg s mid with
      | some m => settleStream m.stream (endOne mid (if m.status.isNone then countLate m s else s))
      | none => s

/-- The next CONTROL codeword in the order of R53. -/
def nextCtl (p : Port) : Option (List Byte × Port) :=
  let take := fun (r : Nat) => p.ctls.find? (fun c => c.rank = r)
  let drop := fun (c : Ctl) => { p with ctls := p.ctls.erase c }
  match take 0 with
  | some c => some (c.payload, drop c)
  | none =>
    match take 1 with
    | some c => some (c.payload, drop c)
    | none =>
      if !p.acks.isEmpty then
        let k := min 36 p.acks.length
        some (leBytes 1 3 ++ leBytes 1 k ++ (p.acks.take k).flatten, { p with acks := p.acks.drop k })
      else
        match take 3 with
        | some c => some (c.payload, drop c)
        | none => none

/-- The DATA frame of rank 6: the one that has begun, else the first in the queue that may. -/
def nextData (s : State) (n : Nat) : Option EgrFrame :=
  match (egressQ s n).find? (fun x => x.lane.isSome) with
  | some x => some x
  | none => (egressQ s n).find? (mayData s n)

/-- Ranks 3 to 7 of Table RPL-4. -/
def chooseReply (n : Nat) (s : State) : State :=
  let p := getPort s n
  let idle := sendCw n false (bpData 0 0 false false 0 [])
  match s.msgs.findSome? (fun m => (mayEnd s n m).map (fun x => (m, x))) with
  | some (m, r, retract) => sendEnd n m r retract s
  | none =>
    if p.winding then idle s
    else
      match bestExpress s n with
      | some (m, r) => sendExpress n m r s
      | none =>
        match sendEcho n s with
        | some s => s
        | none =>
          match nextData s n with
          | some x => sendData n x s
          | none => idle s

/-- BP_SLOT_CHOICE, R237: the codeword of the next slot of a port's BP. -/
def bpSlotChoice (n : Nat) (s : State) : State :=
  let p := getPort s n
  if !p.running || decide (cycSlots s n ≤ p.bpSlot) then s
  else
    let s := markLaneWaits n s
    let p := getPort s n
    if p.winding then chooseReply n s
    else
      match (if p.bpSlot = 0 then p.beacon else none) with
      | some b => sendCw n true (bpData 5 0 false false 0 b) (setPort n { p with beacon := none } s)
      | none =>
        match nextCtl p with
        | some (payload, p') =>
          sendCw n false (bpData 6 0 false false p.ctlSeq payload) (setPort n { p' with ctlSeq := p.ctlSeq + 1 } s)
        | none => chooseReply n s

def execBpSlotChoice (n : Fin 8) (s : State) : Out := .next (bbSettle (bpSlotChoice n s))

end Sys2Proof.Machine
end

