-- ==== Sys2Proof/Machine/HostRings.lean ====
section
/-! DEFINITION. The ring engine (R337 to R350, R354 to R357): enables, doorbell polls, descriptor fetch, the shadow page, MSI-X and
moderation. -/
namespace Sys2Proof.Machine

/-! ### HIF_ENABLE, RING_ENABLE (R339, R343, R345, R307) -/

/-- A 64-bit base from its LO and HI registers, on its alignment of 4 KiB. -/
def base64 (s : State) (lo : Nat) : Nat := (getReg s lo + 2 ^ 32 * getReg s (lo + 4)) / 4096 * 4096

/-- HIF_POLL_MIN (at least 100 ns) and HIF_POLL_MAX in ns (at least HIF_POLL_MIN). -/
def pollMin (s : State) : Nat := max 100 (regF s 0x0818 0 16)
def pollMax (s : State) : Nat := max (pollMin s) (1000 * regF s 0x081C 0 16)

/-- HIF_ENABLE, R345: a write of HIF_CTL.EN; the page bases stand from the moment it goes to 1 (R343). -/
def hifEnable (en : Bool) (s : State) : State :=
  let s := setReg 0x0800 (b2n en) s
  if en = s.hif.en then s
  else if en then
    { s with hif := { s.hif with
        en := true, dbBase := base64 s 0x0808, shBase := base64 s 0x0810, polling := false, interval := pollMin s, pollDue := s.clk.now } }
  else { s with hif := { s.hif with en := false, polling := false } }

def execHifEnable (en : Bool) (s : State) : Out := .next (if barUp s then hifEnable en s else s)

/-- R307: the event ring is enabled again after an isolation: the backlog in order, RST_BACKLOG_OVF if events were dropped, RST_DONE. -/
def endIsolation (s : State) : State :=
  match s.glb.iso with
  | .on => flushBacklog s
  | .perst | .flr =>
    let arg0 := if s.glb.iso = .perst then 1 else 2
    let us := (s.clk.now - s.glb.isoT0) / 1000
    let s := { s with glb := { s.glb with iso := .on } }
    raise 0x0B01 0 arg0 us 0 (flushBacklog s)

/-- RING_ENABLE, R339: a write of HIF_RINGr_CTL.EN; 1 resets the ring's pointers and takes its base and size. -/
def ringEnable (r : Nat) (en : Bool) (s : State) : State :=
  let g := getRing s r
  let s := setRegIn 0x1000 (0x090C + 16 * r) (b2n en) s
  if en then
    let log2 := clampNat 6 16 (regF s (0x0908 + 16 * r) 0 5)
    let s := setRing r { Ring.init with en := true, base := base64 s (0x0900 + 16 * r), log2 := log2 } s
    let s := if r < 16 then setSq r Sq.init s else s
    let s := if r = 34 then { s with hif := { s.hif with bufs := [] } } else s
    let s := { s with hif := { s.hif with shDirty := true } }
    if r = 32 then endIsolation s else s
  else setRing r { g with en := false } s

def execRingEnable (r : Fin 36) (en : Bool) (s : State) : Out := .next (if barUp s then ringEnable r en s else s)

/-! ### DOORBELL_POLL, POLL_RESULT (R345) -/

/-- DOORBELL_POLL, R345: the interval has run out, and one read of the doorbell page goes out. -/
def doorbellPoll (s : State) : State :=
  if s.hif.en && !s.hif.polling && connected s && decide (s.hif.pollDue ≤ s.clk.now) then bump 76 1 { s with hif := { s.hif with polling := true } } else s

def execDoorbellPoll (s : State) : Out := .next (doorbellPoll s)

/-- A ring stops on an error until it is enabled again: HIF_RINGr_STATUS.ERR, HIF_RING_ERR with the cause and pointer word. -/
def ringError (r cause word : Nat) (s : State) : State :=
  raise 0x0D01 r cause word 0 (orRegIn 0x1000 (0x0B40 + 4 * r) 1 (setRing r { getRing s r with stop := true } s))

/-- A ring that runs. -/
def ringRuns (s : State) (r : Nat) : Bool := (getRing s r).en && !(getRing s r).stop

/-- The tails of all SQs in a doorbell page, as positions: where an SQ does not run, its present one. -/
def pageTails (s : State) (page : List Byte) : List Nat :=
  (List.range 16).map (fun q => if ringRuns s q then (getRing s q).fwd (getRing s q).prod (leAt page (4 * q) 4) else (getRing s q).prod)

/-- One SQ in a poll: a bad tail stops it; a new tail is noted with the tails of all SQs. -/
def pollSq (page : List Byte) (tails : List Nat) (q : Nat) (s : State) : State :=
  let g := getRing s q
  let w := leAt page (4 * q) 4
  if !ringRuns s q then s
  else if g.size ≤ bitsOf w 0 16 then ringError q 2 w s
  else
    let t := g.fwd g.prod w
    if t = g.prod then s
    else setSq q { getSq s q with polls := (getSq s q).polls ++ [(t, tails)] } (setRing q { g with prod := t } s)

/-- Where the doorbell page holds a ring's word. -/
def doorbellOff (r : Nat) : Nat := if r < 32 then 4 * r else 128 + 4 * (r - 32)

/-- The head of an engine-produced ring, as the page gives it. -/
def pollHead (page : List Byte) (r : Nat) (s : State) : State :=
  let g := getRing s r
  if !g.en then s else setRing r { g with cons := min g.prod (g.fwd g.cons (leAt page (doorbellOff r) 4)) } s

/-- A ring on which the engine waits for space: it is full and something waits for it. -/
def awaits (s : State) (r : Nat) : Bool := (getRing s r).en && (getRing s r).full

/-- POLL_RESULT, R345: the page, none for a read that failed; `bufs`: addresses of the BQ entries that a new BQ tail exposes. -/
def pollResult (page : Option (List Byte)) (timedOut : Bool) (bufs : List (BitVec 64)) (s : State) : State :=
  if !s.hif.polling || !connected s then s
  else
    let s := { s with hif := { s.hif with polling := false, pollDue := s.clk.now + s.hif.interval } }
    match page with
    | none => each ((List.range 16).filter (ringRuns s)) (fun q s => ringError q (if timedOut then 3 else 1) ((getRing s q).word (getRing s q).cons) s) s
    | some p =>
      let tails := pageTails s p
      let heads := (List.range 16).map (· + 16) ++ [32, 33, 35]
      let moved := heads.any (fun r => awaits s r && decide ((getRing s r).cons ≠ (getRing s r).fwd (getRing s r).cons (leAt p (doorbellOff r) 4)))
      let noBuf := s.hif.bufs.isEmpty
      let s := each (List.range 16) (pollSq p tails) s
      let s := each heads (pollHead p) s
      let bq := getRing s 34
      let bt := if ringRuns s 34 then bq.fwd bq.prod (leAt p 136 4) else bq.prod
      let s := setRing 34 { bq with prod := bt } s
      let s := { s with hif := { s.hif with bufs := s.hif.bufs ++ (bufs.take (bt - bq.prod)).map (fun a => a.toNat / 64 * 64) } }
      let work := (List.range 16).any (fun q => ringRuns s q && decide ((getRing s q).prod ≠ (getRing s q).cons)) || moved ||
        (noBuf && decide (bt ≠ bq.prod))
      let ns := if work then pollMin s else min (2 * s.hif.interval) (pollMax s)
      let s := { s with hif := { s.hif with interval := ns, pollDue := s.clk.now + ns } }
      let s := if work then s else bump 77 1 s
      flushBacklog (each (List.range 16) flushSq s)

def execPollResult (page : Option (List Byte)) (timedOut : Bool) (bufs : List (BitVec 64)) (s : State) : Out :=
  .next (pollResult page timedOut bufs s)

/-! ### DESCRIPTOR_FETCH (R344, R348, R349) -/

/-- The tails read in the poll that exposed a position. -/
def exposing (polls : List (Nat × List Nat)) (pos : Nat) : List Nat :=
  ((polls.find? (fun x => decide (pos < x.1))).map Prod.snd).getD []

/-- An SQ that a fetch can serve: it runs and has descriptors to fetch, and its CQ is not full (R342). -/
def canFetch (s : State) (q : Nat) : Bool :=
  ringRuns s q && decide ((getRing s q).cons < (getRing s q).prod) && !(getRing s (cqOf s q)).full

/-- The SQ that the fetch serves next: round robin by number from the one after the last served (R348). -/
def fetchNext (s : State) : Option Nat := ((List.range 16).map (fun i => (s.hif.turn + i) % 16)).find? (canFetch s)

/-- DESCRIPTOR_FETCH, R348: up to 8 descriptors of the SQ whose turn it is, none for a read that failed. -/
def descriptorFetch (q : Nat) (data : Option (List Byte)) (timedOut : Bool) (s : State) : State :=
  let g := getRing s q
  let n := min 8 (g.prod - g.cons)
  if !s.hif.en || !connected s || decide (fetchNext s ≠ some q) then s
  else
    let s := { s with hif := { s.hif with turn := (q + 1) % 16 } }
    match data with
    | none => ringError q (if timedOut then 3 else 1) (g.word g.cons) s
    | some bs =>
      let v := getSq s q
      let new := (List.range n).map (fun i =>
        ({ pos := g.cons + i, bytes := padTo 64 (slice bs (64 * i) 64), st := .waiting, tails := exposing v.polls (g.cons + i) } : Desc))
      let s := setSq q { descs := v.descs ++ new, polls := v.polls.filter (fun x => g.cons + n < x.1) } s
      let s := setRing q { g with cons := g.cons + n } s
      { s with hif := { s.hif with shDirty := true } }

def execDescriptorFetch (q : Fin 16) (data : Option (List Byte)) (timedOut : Bool) (s : State) : Out :=
  .next (descriptorFetch q data timedOut s)

/-! ### SHADOW_WRITE, MODERATION_TIMER, MSIX_UNMASK (R346, R354) -/

/-- The 256 bytes of the shadow page (Table HIF-3). -/
def shadowPage (s : State) : List Byte :=
  let w := fun (r : Nat) => leBytes 4 ((getRing s r).word (if r < 16 ∨ r = 34 then (getRing s r).cons else (getRing s r).prod))
  padTo 256 ((List.range 36).flatMap w ++ leBytes 8 (devTime s) ++ leBytes 4 s.hif.shGen)

/-- One vector's message, or its pending bit where the vector is masked. -/
def fireVector (v : Nat) (s : State) : State :=
  if (getReg s (0x0C0C + 16 * v)).testBit 0 then { s with hif := { s.hif with pba := setBitTo s.hif.pba v true } }
  else post (.msix v (getReg s (0x0C00 + 16 * v) + 2 ^ 32 * getReg s (0x0C04 + 16 * v)) (getReg s (0x0C08 + 16 * v))) s

/-- SHADOW_WRITE, R346: the page goes out once its hold-off is over, then one message of each vector that was triggered. -/
def shadowWrite (s : State) : State :=
  if connected s && s.hif.en && s.hif.shDirty && decide (s.hif.shDue ≤ s.clk.now) then
    let s := post (.mem s.hif.shBase (shadowPage s)) s
    let vs := s.hif.trig
    let due := s.clk.now + 1000 * max 1 (regF s 0x0820 0 8)
    each vs fireVector { s with hif := { s.hif with shDirty := false, shDue := due, trig := [], shGen := (s.hif.shGen + 1) % 2 ^ 32 } }
  else s

def execShadowWrite (s : State) : Out := .next (shadowWrite s)

/-- MODERATION_TIMER, R354: a ring's oldest pending entry is TIME µs old. -/
def moderationTimer (r : Nat) (s : State) : State :=
  if decide (16 ≤ r ∧ r < 36 ∧ r ≠ 34 ∧ regF s (modReg r) 16 16 ≠ 0 ∧ 0 < (getRing s r).pend ∧
      (getRing s r).oldest + 1000 * regF s (modReg r) 16 16 ≤ s.clk.now) then triggerRing r s else s

def execModerationTimer (r : Fin 36) (s : State) : Out := .next (moderationTimer r s)

/-- MSIX_UNMASK, R354: a vector's mask is cleared; a pending bit sends one message. -/
def msixUnmask (v : Nat) (s : State) : State :=
  let s := setRegIn 0x1000 (0x0C0C + 16 * v) 0 s
  if s.hif.pba.testBit v && connected s then fireVector v { s with hif := { s.hif with pba := setBitTo s.hif.pba v false } } else s

def execMsixUnmask (v : Fin 64) (s : State) : Out := .next (if barUp s then msixUnmask v s else s)

end Sys2Proof.Machine
end

