-- ==== Sys2Proof/Machine/HostDesc.lean ====
section
/-! DEFINITION. Descriptors of the host (R349 to R353, Table HIF-6) that no other block's file holds. -/
namespace Sys2Proof.Machine

/-! ### NOP, BAD_OPCODE, FENCE -/

def execNopDescriptor (q : Fin 16) (pos : Nat) (s : State) : Out :=
  .next (descRun q pos 0x00 (fun _ => true) (fun _ => complete q pos 0 0 0 0) s)

/-- The opcodes of Table HIF-6. -/
def opcodes : List Nat :=
  [0x00, 0x01, 0x02, 0x03, 0x04, 0x08, 0x10, 0x11, 0x12, 0x13, 0x14, 0x15, 0x18, 0x20, 0x21, 0x28, 0x29, 0x30, 0x31, 0x32, 0x33, 0x34]

/-- BAD_OPCODE, R350: a descriptor whose opcode Table HIF-6 does not have. -/
def badOpcode (q pos : Nat) (s : State) : State :=
  match findDesc s q pos with
  | none => s
  | some d =>
    let op := byteAt d.bytes 0
    if op ∈ opcodes then s else descRun q pos op (fun _ => true) (fun _ => complete q pos 0x40 0 0 0) s

def execBadOpcode (q : Fin 16) (pos : Nat) (s : State) : Out := .next (badOpcode q pos s)

/-- R349: every descriptor of an SQ below a tail has completed. -/
def doneBelow (s : State) (q tail : Nat) : Bool :=
  decide (tail ≤ (getRing s q).cons) && (getSq s q).descs.all (fun d => decide (tail ≤ d.pos) || isDone d)

/-- R349: nothing that the FENCE waits for is left; on its own SQ it waits for the earlier descriptors. -/
def fenceOpen (s : State) (q : Nat) (d : Desc) : Bool :=
  (onesOf 16 (leAt d.bytes 16 2)).all (fun m => if m = q then doneBelow s q d.pos else doneBelow s m ((d.tails[m]?).getD 0))

/-- FENCE, R349: it completes as soon as nothing it waits for is left. -/
def fence (q pos : Nat) (s : State) : State :=
  match findDesc s q pos with
  | none => s
  | some d => descRun q pos 0x29 (fun _ => true) (fun _ s => if fenceOpen s q d then complete q pos 0 0 0 0 s else s) s

def execFence (q : Fin 16) (pos : Nat) (s : State) : Out := .next (fence q pos s)

/-- FENCEs that execute complete as what they waited for completes. -/
def fenceCheck (s : State) : State :=
  each (s.hif.sqs.flatMap (fun x => (x.2.descs.filter (fun d => decide (d.st = .executing ∧ byteAt d.bytes 0 = 0x29))).map (fun d => (x.1, d.pos))))
    (fun x s => fence x.1 x.2 s) s

/-! ### TABLE_WRITE (R54, R98, R222, R228) -/

/-- An entry as TABLE_WRITE stores it: the RO words of the station and watch tables are ignored. -/
def storedEntry (table : Nat) (e : List Byte) : List Byte :=
  if table = 0x10 then e.take 4 ++ List.replicate 28 0 ++ slice e 32 16
  else if table = 0x30 then leBytes 4 (leAt (padTo 8 e) 0 4 &&& 0xFF3F1F7F) ++ slice (padTo 8 e) 4 4 ++ List.replicate 24 0
  else e

/-- Stations whose admission a write of their entries ended (R54). -/
def endedAdmissions (n : Nat) (old : List (Nat × Nat)) (s : State) : State :=
  each old (fun (i, a) s => if staValid s n i && decide (staAddr s n i = a ∧ effEntry s n a = some i) then s
    else raise 0x0103 n 4 a i (setStation n i { station s n i with st := 0, miss := 0 } s)) s

/-- TABLE_WRITE: `data` holds the entries as read from the host. -/
def tableWrite (b : List Byte) (q pos : Nat) (data : Option (List Byte)) (s : State) : State :=
  let t := byteAt b 16
  let n := byteAt b 17
  let idx := leAt b 20 4
  let cnt := leAt b 24 4
  if tblWidth t = 0 ∨ tblCount t < idx + cnt ∨ (t = 0x10 ∧ 7 < n) then complete q pos 0x41 0 0 0 s
  else if !haddrOk b then complete q pos 0x43 0 0 0 s
  else
    match data with
    | none => complete q pos 0x46 0 0 0 s
    | some d =>
      let w := tblWidth t
      let es := (List.range cnt).map (fun k => padTo w (slice d (w * k) w))
      if t = 0x40 ∧ es.all tplOk = false then complete q pos 0x41 0 0 0 s
      else
        let first := if t = 0x10 then 32 * n + idx else idx
        let old := if t = 0x10 then (admittedIdxs s n).map (fun i => (i, staAddr s n i)) else []
        let s := each ((List.range cnt).zip es) (fun (k, e) s => setEntry t (first + k) (storedEntry t e) s) s
        complete q pos 0 0 0 0 (endedAdmissions n old s)

def execTableWrite (q : Fin 16) (pos : Nat) (data : Option (List Byte)) (s : State) : Out :=
  .next (descRun q pos 0x08 (fun _ => true) (fun b => tableWrite b q pos data) s)

/-! ### INJECT (R352) -/

def inject (b : List Byte) (q pos : Nat) (data : Option (List Byte)) (s : State) : State :=
  let len := leAt b 16 2
  if s.frames.any (fun f => f.origin = some (q, pos)) || s.msgs.any (fun m => m.origin = some (q, pos)) then s
  else if len < 60 ∨ 9596 < len then complete q pos 0x41 0 0 0 s
  else if leAt b 24 8 % 4 ≠ 0 ∨ haddrOk b = false then complete q pos 0x43 0 0 0 s
  else
    match data with
    | none => complete q pos 0x46 0 0 0 s
    | some d =>
      let body := padTo len d
      addFrame { newFrame s.nextFid 16 0x3F ((body ++ fcsBytes body).map some) true with
        verdict := some true, origin := some (q, pos), tEnd := some s.clk.now } s

def execInject (q : Fin 16) (pos : Nat) (data : Option (List Byte)) (s : State) : Out :=
  .next (descRun q pos 0x18 (fun _ => true) (fun b => inject b q pos data) s)

/-! ### MEM_READ, MEM_WRITE (R246, R258, R350, R366) -/

/-- DPA and LEN of a descriptor; the checks of Table HIF-6, R246 and R366 that both opcodes share: a status, or 0. -/
def memCheck (b : List Byte) (s : State) : Nat :=
  let len := leAt b 24 4
  if len = 0 ∨ len % 4 ≠ 0 ∨ 2 ^ 24 < len then 0x41
  else if (firstHole (leAt b 16 5) len).isSome ∨ haddrOk b = false then 0x43
  else if s.glb.dieFatal.testBit (stackOf (leAt b 16 5)) then 0x4A
  else 0

/-- A refused range that meets a hole counts there (R246). -/
def countRefused (b : List Byte) (s : State) : State :=
  let len := leAt b 24 4
  if len = 0 ∨ len % 4 ≠ 0 ∨ 2 ^ 24 < len then s
  else match firstDead s (leAt b 16 5) len with
    | some h => countHole h s
    | none => s

def memRead (b : List Byte) (q pos : Nat) (errs : List (Nat × List Byte)) (s : State) : State :=
  let st := memCheck b s
  if st ≠ 0 then complete q pos st 0 0 0 (countRefused b s)
  else
    let (s, bytes, bad) := homeRead (leAt b 16 5) (leAt b 24 4) errs s
    complete q pos (if bad then 0x44 else 0) 0 0 0 (dmaWrite (leAt b 32 8) bytes s)

def execMemRead (q : Fin 16) (pos : Nat) (errs : List (Nat × List Byte)) (s : State) : Out :=
  .next (descRunHbm q pos 0x20 (fun b => memRead b q pos errs) s)

/-- The range meets the region of a bank that is not EMPTY (R366). -/
def inBank (s : State) (dpa len : Nat) : Bool :=
  [dpa, dpa + len - 1].any (fun a => match regionOf a with
    | some (slot, k) => decide ((getBank s slot k).st ≠ .empty)
    | none => false)

def memWrite (b : List Byte) (q pos : Nat) (data : Option (List Byte)) (s : State) : State :=
  let st := memCheck b s
  let dpa := leAt b 16 5
  let len := leAt b 24 4
  if st ≠ 0 then complete q pos st 0 0 0 (countRefused b s)
  else if inBank s dpa len then complete q pos 0x42 0 0 0 s
  else
    match data with
    | none => complete q pos 0x46 0 0 0 s
    | some d =>
      let (s, bad) := homeWrite 4 dpa (padTo len d) s
      complete q pos (if bad then 0x44 else 0) 0 0 0 s

def execMemWrite (q : Fin 16) (pos : Nat) (data : Option (List Byte)) (s : State) : Out :=
  .next (descRunHbm q pos 0x21 (fun b => memWrite b q pos data) s)

/-! ### STATS_SNAPSHOT (Table HIF-8, R7) -/

/-- The plot record (Table PLT-9). -/
def plotRecord (s : State) (p : Nat) : List Byte :=
  let v := getPlot s p
  let us := plotUnits p
  let g := (v.group.bind (findGroup s)).filter (fun _ => v.st = .active)
  let ready := us.all (fun u => (unitCfg s u).2.2 ||
    (match g with | some g => (match g.trans with | some tr => unitReady s g tr u | none => false) | none => false))
  let t0 := unitCfg s (16 * p)
  let stalled := plotWaits s p
  let w0 := (match v.st with | .free => 0 | .active => 1 | .retired => 2) + 4 * ((g.map Group.gid).getD 0) +
    256 * (getTile s (16 * p)).gen + 1024 * b2n ready + 2048 * b2n stalled + 4096 * ((g.map Group.size).getD 0)
  leBytes 4 w0 ++ leBytes 2 t0.2.1 ++ leBytes 2 t0.1 ++ leBytes 8 0

/-- One record of a kind. -/
def statRecord (s : State) (kind i : Nat) : List Byte :=
  match kind with
  | 0 => leBytes 8 (tget 0 i s.cnt).toNat
  | 1 => streamRecord s i
  | 2 => plotRecord s i
  | 3 => tileRecord (getTile s i)
  | 4 => padTo 32 (tblEntry s 0x30 i)
  | _ => slotRecord s i

/-- How many records a kind has. -/
def statCount (kind : Nat) : Nat :=
  match kind with | 0 => 4096 | 1 => 256 | 2 => 64 | 3 => 1024 | 4 => 256 | 5 => 16 | _ => 0

def statsSnapshot (b : List Byte) (q pos : Nat) (s : State) : State :=
  let kind := byteAt b 16
  let first := leAt b 20 4
  let cnt := leAt b 24 4
  let lo := if kind = 0 then first / 8 else first
  if 5 < kind ∨ (kind = 0 ∧ first % 8 ≠ 0) ∨ statCount kind < lo + cnt then complete q pos 0x41 0 0 0 s
  else if !haddrOk b then complete q pos 0x43 0 0 0 s
  else
    let idx := (List.range cnt).map (· + lo)
    let bytes := idx.flatMap (statRecord s kind)
    let s := if kind = 0 ∧ (byteAt b 17).testBit 0 = true then each idx clearCounter s else s
    complete q pos 0 bytes.length 0 0 (dmaWrite (leAt b 32 8) bytes s)

def execStatsSnapshot (q : Fin 16) (pos : Nat) (s : State) : Out :=
  .next (descRun q pos 0x30 (fun _ => true) (fun b => statsSnapshot b q pos) s)

/-! ### REPLANT (R169) -/

def replantDesc (b : List Byte) (q pos : Nat) (s : State) : State :=
  let g := byteAt b 16
  if g = 0xFF then complete q pos 0 0 0 0 (each (s.groups.map Group.gid) (replant 0 stTainted) s)
  else if 63 < g then complete q pos 0x41 0 0 0 s
  else if (findGroup s g).isNone then complete q pos 0x42 0 0 0 s
  else complete q pos 0 0 0 0 (replant 0 stTainted g s)

def execReplant (q : Fin 16) (pos : Nat) (s : State) : Out := .next (descRunHbm q pos 0x32 (fun b => replantDesc b q pos) s)

/-! ### PUNT_RETURN (R88, R353) -/

def puntReturn (b : List Byte) (q pos : Nat) (data : Option (List Byte)) (s : State) : State :=
  let e := byteAt b 16
  let ptp := bitsOf (byteAt b 17) 0 2
  let len := leAt b 18 2
  let po := leAt b 20 2
  let uo := leAt b 22 2
  if s.egress.any (fun x => x.2.any (fun y => match y.kind with | .puntReturn q' p' _ _ _ _ => decide (q' = q ∧ p' = pos) | _ => false)) then s
  else if 15 < e ∨ ptp = 3 ∨ (e < 8 ∧ (ptp ≠ 0 ∨ maxFrame s e < len + 4)) ∨ (8 ≤ e ∧ 9600 < len + 4) ∨ (ptp ≠ 0 ∧ len < po + 44) ∨
      (ptp ≠ 0 ∧ uo ≠ 0 ∧ len < uo + 8) then complete q pos 0x41 0 0 0 s
  else if (if e < 8 then !trkEn s e else !bbpUp s e) then complete q pos 0x42 0 0 0 s
  else if !haddrOk b then complete q pos 0x43 0 0 0 s
  else
    match data with
    | none => complete q pos 0x46 0 0 0 s
    | some d =>
      let body := padTo len d
      enqueueEgress e { kind := .puntReturn q pos ptp po uo (devTime s), bytes := body ++ fcsBytes body, pri := 0, sent := 0, lane := none, order := 0 } s

def execPuntReturn (q : Fin 16) (pos : Nat) (data : Option (List Byte)) (s : State) : Out :=
  .next (bbSettle (descRun q pos 0x34 (fun _ => true) (fun b => puntReturn b q pos data) s))

end Sys2Proof.Machine
end

