-- ==== Sys2Proof/Machine/Yoke.lean ====
section
/-! DEFINITION. The Yoke power governor (R314 to R336): the envelope, credit and grants, the plots' operating points, calibration,
stagger, schedule frames, drain and resume. Power is in mW and energy in nJ, so one epoch of 10 µs at P mW is 10 P nJ. -/
namespace Sys2Proof.Machine

/-! ### Quantities (R314, R315) -/

/-- Good compute dies: brought up and not fatal. -/
def goodDies (s : State) : List Nat := (List.range 4).filter (fun d => s.glb.dieOk.testBit d && !s.glb.dieFatal.testBit d)

def yokReserve (s : State) : Nat := 250 * regF s 0x2808 0 11

/-- CEIL_eff, FLOOR_eff and R_eff (R315). -/
def ceilEff (s : State) : Nat :=
  clampNat (s.yoke.pstd + yokReserve s) 450000 (250 * min (min (min 1800 (regF s 0x2800 0 11)) (getReg s 0x289C)) (getReg s 0x28A0))
def floorEff (s : State) : Nat := clampNat s.yoke.pstd (ceilEff s) (250 * regF s 0x2804 0 11)
def reserveEff (s : State) : Nat := min (yokReserve s) (s.yoke.level - s.yoke.pstd)

/-- The slews in mW per epoch: 0.1 W/ms is 1 mW in 10 µs. -/
def slewUp (s : State) : Nat := clampNat 1 500 (regF s 0x280C 0 10)
def slewDn (s : State) : Nat := clampNat 1 500 (regF s 0x2810 0 10)

/-- A pass's power in mW: its energy over its latency bound. -/
def powerOf (nj ns : Nat) : Nat := 1000 * nj / max 1 ns

/-- Power of the passes of a die that run, and of those that wait for credit. -/
def runPower (s : State) (d : Nat) : Nat :=
  sumOf ((s.groups.filter (fun g => groupDie g = d)).map (fun g => match g.run with
    | some r => powerOf r.energy (passBound s g.slot g.bank r.pass (max 1 r.members.length))
    | none => 0))
def waitPower (s : State) (d : Nat) : Nat :=
  sumOf ((closedSheaves s).map (fun x =>
    if sheafDie s x = d && !x.gateWait && !x.members.isEmpty then
      powerOf (passEnergy s x.slot x.bank x.pass x.members.length) (passBound s x.slot x.bank x.pass x.members.length)
    else 0))
def diePower (s : State) (d : Nat) : Nat := runPower s d + waitPower s d

/-- Measured package power (R327); `none` while every channel is unused. -/
def measured (s : State) (codes : List Nat) : Option Nat :=
  let scale := fun k => regF s (0x2830 + 4 * k) 0 16
  if (List.range 6).all (fun k => scale k = 0) then none
  else some (sumOf ((List.range 6).map (fun k => scale k * (codes[k]?).getD 0)) + 250 * regF s 0x2848 0 11)

/-! ### States (Table YOK-1) -/

/-- The top of a divider's voltage window in mV (Table YOK-2). -/
def windowTop (code : Nat) : Nat := match code with | 0 => 900 | 1 => 850 | 2 => 800 | _ => 750
def windowBottom (code : Nat) : Nat := match code with | 0 => 800 | 1 => 700 | 2 => 640 | _ => 600

/-- The divider code at a plot's thermal cap: 1 is one step slower than CLK_TMAX, 2 is ÷16. -/
def capCode (s : State) (level : Nat) : Nat :=
  match level with | 0 => regF s 0x0414 0 2 | 1 => min 3 (regF s 0x0414 0 2 + 1) | _ => 3

/-- The fastest divider that CLK_TMAX, the thermal cap and the CPM limit all allow. -/
def plotDiv (s : State) (p : Nat) : Nat :=
  let v := getPlot s p
  min 3 (max (regF s 0x0414 0 2) (max (capCode s v.cap) v.cpmSlow))

def getTdiv (s : State) (p : Nat) : Nat := tget 0 p s.clk.tdiv

/-- The divider that a gated plot will start with (R294): the one asked for last, or the one it ran at, no faster than its limits. -/
def startDiv (s : State) (p : Nat) : Nat :=
  let r := tget 0 p s.clk.tdivReq
  max (if r ≠ 0 then r - 1 else getTdiv s p) (plotDiv s p)

/-- CLK_T of a plot starts (R294, R323), with its voltage in the divider's window. -/
def startPlot (p : Nat) (s : State) : State :=
  let c := startDiv s p
  updPlot p (fun v => { v with want := c, mv := clampNat (windowBottom c) (windowTop c) v.mv, ldoOk := true })
    { s with clk := { s.clk with tdiv := tset 0 p c s.clk.tdiv, tdivReq := tset 0 p 0 s.clk.tdivReq } }

/-- Plots in service: those that the Yoke gives an operating point. -/
def livePlots (s : State) : List Nat := (List.range 64).filter (fun p => (getPlot s p).st ≠ .retired)

/-- YOK_STATE changes: the event carries the new and the old state and L. Plots that were gated start where the new state powers them. -/
def setYok (new : Nat) (s : State) : State :=
  let old := yokState s
  if new = old then s
  else
    let s := if new = 6 then latchAlert 2 s else s
    let s := if powered new && !powered old then each (livePlots s) startPlot s else s
    raise 0x0C01 0 new old (s.yoke.level / 250) (setReg 0x2880 new s)

/-- The read-only words that report the envelope. -/
def yokReport (s : State) : State :=
  setReg 0x2898 (reserveEff s / 250) (setReg 0x2894 (floorEff s / 250) (setReg 0x2890 (ceilEff s / 250) (setReg 0x2888 (s.yoke.level / 250)
    (setReg 0x2884 (s.yoke.pstd / 250) s))))

/-- The ramp to the floor begins; GLB_STATUS.PHASE follows at bring-up and after a soft reset. -/
def beginRamp (s : State) : State :=
  let s := { s with yoke := { s.yoke with holding := false, holdSched := false, startAt := none },
                    glb := { s.glb with phase := if s.glb.phase = .standby ∨ s.glb.phase = .holdoff then .ramp else s.glb.phase } }
  setYok 3 s

/-- H of R331: CRC-32C over the serial number and the site seed. -/
def siteHash (s : State) : Nat := crc32c (leBytes 8 s.glb.otp.serial ++ leBytes 4 (getReg s 0x2820))

/-- The hash hold-off in ms; 0 where the window is 0. -/
def hashHoldoff (s : State) : Nat := if regF s 0x281C 0 16 = 0 then 0 else siteHash s % regF s 0x281C 0 16

/-- A hold-off begins, or the wait for a START frame. -/
def beginHold (s : State) : State :=
  let sched := (getReg s 0x2818).testBit 0
  setReg 0x28A4 (hashHoldoff s) { s with yoke := { s.yoke with holdT0 := s.clk.now, holdSched := sched, startAt := none } }

/-- Phase HOLDOFF begins at the later of STANDBY and RUN, and after a soft reset (R331, Table RST-4). -/
def enterHoldoff (s : State) : State := setYok 2 (beginHold { s with glb := { s.glb with phase := .holdoff } })

/-! ### Drain and resume (R334, R335) -/

/-- A drain request, by the Yoke's state. -/
def drainRequest (s : State) : State :=
  match yokState s with
  | 0 | 7 => { s with yoke := { s.yoke with drainReq := true } }
  | 1 | 2 => setYok 6 { s with yoke := { s.yoke with startAt := none, holdSched := false } }
  | 3 | 4 => setYok 5 s
  | _ => s

/-- A resume request; `now` skips the hold-off. -/
def resumeRequest (now : Bool) (s : State) : State :=
  match yokState s with
  | 5 => beginRamp s
  | 6 =>
    if s.yoke.holding || s.yoke.startAt.isSome || !s.glb.run then s
    else if now then beginRamp s
    else beginHold { s with yoke := { s.yoke with holding := true } }
  | _ => s

/-! ### YOKE_EPOCH (R316 to R318, R329, R330) -/

/-- Adopt the ceilings that arrived: the value of each source, then YOK_CEIL_CHANGED in the order host, board, site. -/
def adoptCeils (s : State) : State :=
  let cs := s.yoke.ceils
  let s := { s with yoke := { s.yoke with ceils := [] } }
  let regOf := fun (k : Nat) => if k = 0 then 0x2800 else if k = 1 then 0x289C else 0x28A0
  let new := fun (k : Nat) => ((cs.filter (fun c => c.1 = k)).getLast?).map Prod.snd
  let changed := (List.range 3).filter (fun k => match new k with | some v => decide (v ≠ getReg s (regOf k)) | none => false)
  let s := each changed (fun k s => setReg (regOf k) ((new k).getD 0) s) s
  each changed (fun k s => raise 0x0C07 0 (ceilEff s / 250) k 0 s) s

/-- Adopt the other values of a YOKE_SET by its VALID bits, and complete it. -/
def adoptSet (q pos : Nat) (s : State) : State :=
  match findDesc s q pos with
  | none => s
  | some d =>
    let b := d.bytes
    let v := leAt b 18 2
    let put := fun (bit reg off n len : Nat) (s : State) => if v.testBit bit then setReg reg (leAt b off n % 2 ^ len) s else s
    let s := put 1 0x2804 22 2 11 (put 2 0x2808 24 2 11 (put 3 0x280C 26 2 10 (put 4 0x2810 28 2 10 (put 5 0x2814 30 1 8 s))))
    complete q pos 0 0 0 0 s

/-- The power that admitted messages still need: of every pass that runs or waits. -/
def needPower (s : State) : Nat := sumOf ((List.range 4).map (diePower s))

/-- An agent's demand averaged over the last epoch (R316); over an epoch in which no cycle passed it is the demand now. -/
def demandOf (s : State) (d : Nat) : Nat := if s.yoke.span = 0 then diePower s d else (getYd s d).acc / s.yoke.span

/-- W_dem (R316). -/
def demandPower (s : State) : Nat := sumOf ((List.range 4).map (demandOf s))

/-- Every admitted message that can still run has ended; a held one needs no power (R334). -/
def allEnded (s : State) : Bool := s.msgs.all (fun m => m.held)

/-- D of Table YOK-1; an overheated plot holds it below L until it cools (Table YOK-3). -/
def demandLevel (s : State) : Nat :=
  let d := match yokState s with
    | 3 => floorEff s
    | 4 => clampNat (floorEff s) (ceilEff s) (s.yoke.pstd + demandPower s + yokReserve s)
    | 5 => if allEnded s then s.yoke.pstd else max s.yoke.pstd (s.yoke.pstd + reserveEff s + needPower s)
    | _ => s.yoke.pstd
  if s.plots.any (fun p => p.2.overtemp) then min d (max s.yoke.pstd (s.yoke.level - slewDn s)) else d

/-- L moves toward D within the slews; in a drain it never descends below what is needed, nor rises. -/
def moveLevel (s : State) : State :=
  let l := s.yoke.level
  let d := demandLevel s
  let d := if yokState s = 5 then min d l else d
  let l' := if l < d then l + min (d - l) (slewUp s) else l - min (l - d) (slewDn s)
  { s with yoke := { s.yoke with level := l' } }

/-- State changes that L's movement brings. -/
def levelStates (s : State) : State :=
  match yokState s with
  | 3 =>
    if s.yoke.level = floorEff s then
      setYok 4 { s with glb := { s.glb with phase := if s.glb.phase = .ramp then .running else s.glb.phase } }
    else s
  | 5 => if s.yoke.level = s.yoke.pstd ∧ allEnded s = true then setYok 6 s else s
  | _ => s

/-- One round of a proportional division: `need` is what each die still takes, `w` the weights. Answers what each gets. -/
def shareOut (pool : Nat) (need w : List Nat) : List Nat :=
  let tot := sumOf (List.zipWith (fun n x => if n = 0 then 0 else x) need w)
  List.zipWith (fun n x => if tot = 0 then 0 else min n (pool * x / tot)) need w

/-- Rounds until the pool is spent or no die takes more. -/
def shareRounds (w : List Nat) : Nat → Nat → List Nat → List Nat → Nat × List Nat
  | 0, pool, _, got => (pool, got)
  | k + 1, pool, need, got =>
    let r := shareOut pool need w
    if sumOf r = 0 then (pool, got)
    else shareRounds w k (pool - sumOf r) (List.zipWith (· - ·) need r) (List.zipWith (· + ·) got r)

/-- Work credit by die (R318): by demand within the shares, the rest equally within the shares. -/
def divideCredit (pool cap : Nat) (demand : List Nat) : List Nat :=
  let zero := demand.map (fun _ => 0)
  let (left, got) := shareRounds demand 4 pool (demand.map (min cap)) zero
  (shareRounds (demand.map (fun _ => 1)) 4 left (got.map (cap - ·)) got).2

/-- A fatal die's ballast descends to 0 W at its share of YOK_SLEW_DN (R321). -/
def descendLost (s : State) : State :=
  let step := max 1 (slewDn s / max 1 (goodDies s).length)
  each ((List.range 4).filter (fun d => s.glb.dieFatal.testBit d)) (fun d s => setYd d { getYd s d with level := (getYd s d).level - step } s) s

/-- What the head fills to L on the live dies, beyond their `parts`: in equal parts, each within its share `top` (R318, R320, R321). -/
def fillOut (pool top : Nat) (parts : List Nat) : List Nat :=
  (shareRounds (parts.map (fun _ => 1)) 4 pool (parts.map (top - ·)) (parts.map (fun _ => 0))).2

/-- A grant's body in class PWR: credit, reserve, level, DEV_TIME and trim (R296, R318; log 106). -/
def grantBody (s : State) (g : Grant) : List Byte :=
  leBytes 4 g.credit ++ leBytes 4 g.reserve ++ leBytes 4 g.level ++ leBytes 8 (devTime s) ++ leBytes 8 (ofSigned 64 s.clk.trim)

/-- Grants of this epoch go out to the good dies in class PWR. A die on its safe grant, or fatal, is modelled at its own level, and the others
fill within their shares. -/
def sendGrants (s : State) : State :=
  let ds := goodDies s
  let n := max 1 ds.length
  let r := reserveEff s
  let share := (ceilEff s - s.yoke.pstd) / n
  let credit := divideCredit (10 * (s.yoke.level - s.yoke.pstd - r)) (10 * share) (ds.map (fun d => 10 * (getYd s d).demand))
  let base := (ds.zip credit).map (fun x => (x.1, x.2, s.yoke.pstd / n + x.2 / 10 + r / n))
  let own := (List.range 4).filter (fun d => s.glb.dieFatal.testBit d || (getYd s d).safe)
  let live := base.filter (fun x => x.1 ∉ own)
  let gone := sumOf (own.map (fun d => (getYd s d).level))
  let parts := live.map (fun x => x.2.2)
  let fill := live.map Prod.fst |>.zip (fillOut (s.yoke.level - gone - sumOf parts) (s.yoke.pstd / n + share) parts)
  each base (fun x s =>
    let g : Grant := { credit := x.2.1, reserve := 10 * r / n, level := x.2.2 + ((fill.find? (fun y => y.1 = x.1)).map Prod.snd).getD 0 }
    sendFlit 4 x.1 4 1 (grantBody s g) (setYd x.1 { getYd s x.1 with sent := some g } s)) s

/-- Each agent reports its demand of the epoch that ends, in class PWR (R318). -/
def reportDemand (s : State) : State :=
  let w := (List.range 4).map (demandOf s)
  let s := each (List.range 4) (fun d s => setYd d { getYd s d with demand := (w[d]?).getD 0, acc := 0 } s) s
  each (goodDies s) (fun d s => sendFlit d 4 4 2 (leBytes 4 ((w[d]?).getD 0)) s) { s with yoke := { s.yoke with span := 0 } }

/-- R317: the mean outside L ± YOK_BAND for 10 epochs. -/
def bandCheck (mean : Nat) (s : State) : State :=
  let l := s.yoke.level
  let out := decide (250 * regF s 0x2814 0 8 < (if l < mean then mean - l else l - mean))
  if !out then { s with yoke := { s.yoke with bandOut := 0 } }
  else
    let n := s.yoke.bandOut + 1
    let s := { s with yoke := { s.yoke with bandOut := n } }
    if n ≠ 10 then s
    else
      let s := bump 99 1 s
      let due := match s.yoke.bandT0 with | some t => decide (t + 100000000 ≤ s.clk.now) | none => true
      if due then raise 0x0C02 0 (mean / 250) (l / 250) 0 { s with yoke := { s.yoke with bandT0 := some s.clk.now } } else s

/-- Ballast energy of the epoch in YOK_BALLAST_MJ (R322): what fills L above standby and running passes. -/
def countBallast (s : State) : State :=
  let w := sumOf ((List.range 4).map (runPower s))
  let n := s.yoke.ballNj + 10 * (s.yoke.level - s.yoke.pstd - w)
  let s := { s with yoke := { s.yoke with ballNj := n % 1000000 } }
  if n / 1000000 = 0 then s else teleAdd 6 (n / 1000000) (bump 96 (n / 1000000) s)

/-! ### Operating points (R323 to R326, R293) -/

/-- Ask for a divider (R293). -/
def askTdiv (p code : Nat) (s : State) : State := { s with clk := { s.clk with tdivReq := tset 0 p (code + 1) s.clk.tdivReq } }

/-- Bring a plot toward its divider: slower at once, faster only after the voltage (R324). -/
def steerPlot (p : Nat) (s : State) : State :=
  let c := plotDiv s p
  let cur := getTdiv s p
  let v := getPlot s p
  if cur < c then askTdiv p c (setPlot p { v with want := c, ldoOk := true } s)
  else if c < cur ∧ v.want ≠ c then setPlot p { v with want := c, ldoOk := false } s
  else s

/-- Ballast may run on the plot (R322): it is in service, has power, and its sensor reads below 95 °C. -/
def mayBallast (s : State) (p : Nat) : Bool := plotsOn s && decide ((getPlot s p).st ≠ .retired ∧ (getPlot s p).sensor < 380)

/-- The ballast duties that the agents set for the epoch (R322). -/
def setDuties (duty : List Nat) (s : State) : State :=
  each (List.range 64) (fun p s => updPlot p (fun v => { v with duty := if mayBallast s p then (duty[p]?).getD 0 else 0 }) s) s

/-- THERMAL_STATE: dies with a capped plot, and a plot at 105 °C or more (Table TWP-2). -/
def thermalWord (s : State) : Nat :=
  sumOf ((List.range 4).map (fun d => 2 ^ d * b2n ((List.range 16).any (fun p => decide ((getPlot s (16 * d + p)).cap ≠ 0))))) +
    16 * b2n ((List.range 64).any (fun p => decide (420 ≤ (getPlot s p).sensor)))

/-- The copies on the I/O die of what the compute dies show are refreshed (R413). -/
def refreshCopies (s : State) : State :=
  let hot := (List.range 4).map (fun d => maxOf ((List.range 16).map (fun p => (getPlot s (16 * d + p)).sensor)))
  { s with yoke := { s.yoke with hot := hot, caps := thermalWord s } }

/-- Drains and resumes of the two-wire port act, in the order in which they came, and raise TWP_BOARD_CMD (R421, R422). -/
def adoptBoard (s : State) : State :=
  let vs := s.yoke.board
  each vs (fun v s => raise 0x1102 0 0x30 v 0 (if v = 1 then drainRequest s else resumeRequest (decide (v = 2)) s))
    { s with yoke := { s.yoke with board := [] } }

/-- The Yoke head runs. -/
def yokeUp (s : State) : Bool :=
  s.clk.pllLock && decide (s.glb.phase ≠ .reset ∧ s.glb.phase ≠ .otp ∧ s.glb.phase ≠ .clocks ∧ s.glb.phase ≠ .failed)

/-- YOKE_EPOCH, R316: `imon` are the means of the six channels over 100 µs, `duty` the ballast duties of the 64 plots by the agents' estimates
(R322, R328). -/
def yokeEpoch (imon duty : List Nat) (s : State) : State :=
  if !yokeUp s then s
  else
    let s := refreshCopies { s with yoke := { s.yoke with imon := imon } }
    let s := adoptCeils (adoptBoard s)
    let sets := s.yoke.sets
    let s := each sets (fun x s => adoptSet x.1 x.2 s) { s with yoke := { s.yoke with sets := [] } }
    if yokState s = 0 then s
    else
      let s := levelStates (moveLevel s)
      let s := reportDemand (sendGrants (descendLost s))
      let s := countBallast s
      let s := match measured s imon with
        | some m => bandCheck m (setReg 0x288C (m / 250) s)
        | none => setReg 0x288C (s.yoke.level / 250) { s with yoke := { s.yoke with bandOut := 0 } }
      let s := setDuties duty (if plotsOn s then each (livePlots s) steerPlot s else s)
      yokReport s

def execYokeEpoch (imon : List Nat) (duty : List (Fin 256)) (s : State) : Out := .next (yokeEpoch imon (duty.map Fin.val) s)

/-! ### GRANT_RECEIVED, GRANT_MISSING (R296, R318 to R321) -/

/-- What an epoch message does to a mirror (R296): it adopts the trim and slews toward DEV_TIME, or steps where it lags by more than 4 ns. -/
def Mirror.adopt (m : Mirror) (t : Nat) (trim : Int) : Mirror :=
  if m.time + 4 < t then { m with time := t, trim := trim, slew := 0 } else { m with trim := trim, slew := (t : Int) - m.time }

/-- The mirror of a die follows the epoch message. -/
def syncMirror (d : Nat) (s : State) : State :=
  { s with clk := { s.clk with mirror := tset Mirror.init d ((tget Mirror.init d s.clk.mirror).adopt (devTime s) s.clk.trim) s.clk.mirror } }

/-- GRANT_RECEIVED, R318: an agent uses the grant from the epoch in which it arrives; a Saffron pass that waits takes first (R319). -/
def grantReceived (d : Nat) (s : State) : State :=
  let y := getYd s d
  match y.sent with
  | none => s
  | some g =>
    if s.glb.dieFatal.testBit d then setYd d { y with sent := none } s
    else
      let s := setYd d { y with credit := g.credit, reserve := g.reserve, level := g.level, last := g, sent := none, silent := 0, safe := false, report := none } s
      let s := match y.report with
        | some n => raiseOn d 0x0C03 d n 0 0 s
        | none => s
      let s := syncMirror d s
      if sowerUp s then readySheaves s else s

def execGrantReceived (d : Fin 4) (s : State) : Out := .next (grantReceived d s)

/-- GRANT_MISSING, R320. -/
def grantMissing (d : Nat) (s : State) : State :=
  let y := getYd s d
  let n := max 1 (goodDies s).length
  let y := { y with sent := none, silent := y.silent + 1 }
  if d ∉ goodDies s ∨ yokState s = 0 then s
  else if y.silent < 3 then
    let s := setYd d { y with credit := y.last.credit, reserve := y.last.reserve, level := y.last.level } s
    if sowerUp s then readySheaves s else s
  else
    let s := if y.silent = 3 then bump 98 1 s else s
    let share := (ceilEff s - s.yoke.pstd) / n
    let low := s.yoke.pstd / n + share / 4
    let s := setYd d { y with safe := true, report := some y.silent, credit := 10 * share / 4, reserve := 0,
                              level := if low < y.level then max low (y.level - max 1 (slewDn s / n)) else low } s
    if sowerUp s then readySheaves s else s

def execGrantMissing (d : Fin 4) (s : State) : Out := .next (grantMissing d s)

/-! ### CPM_MARGIN_LOSS, CPM_RETRY, LDO_TARGET_REACHED, THERMAL_CAP_CHANGE (R324 to R326) -/

/-- CPM_MARGIN_LOSS, R325: one LDO step up, or at the top of the window the next slower divider. The LDO of a gated plot is off (R323). -/
def cpmMarginLoss (p : Nat) (s : State) : State :=
  let v := getPlot s p
  let c := getTdiv s p
  if !plotsOn s then s
  else if v.mv + 5 ≤ windowTop c then setPlot p { v with mv := v.mv + 5 } s
  else if c < 3 then bump 100 1 (askTdiv p (c + 1) (setPlot p { v with cpmSlow := c + 1, want := c + 1 } s))
  else s

def execCpmMarginLoss (p : Fin 64) (s : State) : Out := .next (cpmMarginLoss p s)

/-- CPM_RETRY, R325: 10 ms after a CPM step the faster point is tried again. -/
def cpmRetry (p : Nat) (s : State) : State :=
  let v := getPlot s p
  if v.cpmSlow = 0 then s
  else
    let s := setPlot p { v with cpmSlow := 0 } s
    if plotsOn s then steerPlot p s else s

def execCpmRetry (p : Fin 64) (s : State) : Out := .next (cpmRetry p s)

/-- LDO_TARGET_REACHED, R324: the voltage of a faster point stands at `mv`, and its divider is requested. -/
def ldoTargetReached (p mv : Nat) (s : State) : State :=
  let v := getPlot s p
  if !plotsOn s then s
  else
    let s := setPlot p { v with mv := clampNat (windowBottom v.want) (windowTop v.want) mv, ldoOk := true } s
    if !v.ldoOk && decide (v.want < getTdiv s p) then askTdiv p v.want s else s

def execLdoTargetReached (p : Fin 64) (mv : Nat) (s : State) : Out := .next (ldoTargetReached p mv s)

/-- The cap level after a reading, with 3 °C of hysteresis; readings in 0.25 °C. -/
def capLevel (old sensor : Nat) : Nat :=
  if 400 ≤ sensor then 2
  else if old = 2 ∧ 388 < sensor then 2
  else if 380 ≤ sensor then 1
  else if old ≠ 0 ∧ 368 < sensor then 1
  else 0

/-- THERMAL_CAP_CHANGE, R326: a plot sensor's reading meets or leaves a level of Table YOK-3. -/
def thermalCap (p sensor : Nat) (s : State) : State :=
  let v := getPlot s p
  let level := capLevel v.cap sensor
  let hot := if 420 ≤ sensor then true else v.overtemp && decide (408 ≤ sensor)
  let s := setPlot p { v with sensor := sensor, cap := level, overtemp := hot, duty := if sensor < 380 then v.duty else 0 } s
  let s := if capCode s level = capCode s v.cap then s else raiseOn (p / 16) 0x0C04 p (capCode s level) sensor 0 s
  let s := if hot && !v.overtemp then raiseOn (p / 16) 0x0C05 p sensor 0 0 s else s
  if plotsOn s then steerPlot p s else s

def execThermalCapChange (p : Fin 64) (sensor : Fin 1024) (s : State) : Out := .next (thermalCap p sensor s)

/-! ### TDIV_CHANGE_REQUEST, TDIV_SWITCH (R293) -/

/-- TDIV_CHANGE_REQUEST, R293: the Yoke asks for a divider no faster than the plot's limits and its voltage allow (R323, R324); a gated plot
starts with it, its voltage set then (R294). -/
def tdivChangeRequest (p code : Nat) (s : State) : State :=
  let v := getPlot s p
  if code < plotDiv s p ∨ (plotsOn s = true ∧ code < getTdiv s p ∧ v.mv < windowBottom code) then s else askTdiv p code s

def execTdivChangeRequest (p : Fin 64) (code : Fin 4) (s : State) : Out := .next (tdivChangeRequest p code s)

/-- TDIV_SWITCH, R293: the frame boundary comes and the plot's CLK_T takes the divider asked for; the voltage of a slower point is
lowered after it (R324). A gated plot has no CLK_T to switch. -/
def tdivSwitch (p : Nat) (s : State) : State :=
  let r := tget 0 p s.clk.tdivReq
  if r = 0 ∨ plotsOn s = false then s
  else
    let s := { s with clk := { s.clk with tdiv := tset 0 p (r - 1) s.clk.tdiv, tdivReq := tset 0 p 0 s.clk.tdivReq } }
    updPlot p (fun v => { v with mv := min v.mv (windowTop (r - 1)) }) s

def execTdivSwitch (p : Fin 64) (s : State) : Out := .next (tdivSwitch p s)

/-! ### CALIBRATION_REFIT (R328) -/

/-- One die in the millisecond's check: `est` and the IMON code of its channel. -/
def calDie (d est code : Nat) (s : State) : State :=
  let scale := regF s (0x2830 + 4 * d) 0 16
  let y := getYd s d
  if scale = 0 then s
  else
    let im := scale * code
    let differs := decide (regF s 0x2828 0 8 * im < 100 * (if est < im then im - est else est - im))
    if differs then
      let n := y.divMs + 1
      let s := setYd d { y with divMs := n, okMs := 0, diverged := y.diverged || decide (10 ≤ n) } s
      if n = 10 ∧ y.diverged = false then raiseOn d 0x0C06 d (est / 250) (im / 250) 0 (bump 102 1 s) else s
    else
      let n := y.okMs + 1
      setYd d { y with divMs := 0, okMs := n, diverged := y.diverged && decide (n < 10) } s

/-- CALIBRATION_REFIT, R328: the estimates of the dies in mW and the channels' codes. -/
def calibrationRefit (est codes : List Nat) (s : State) : State :=
  each (goodDies s) (fun d s => calDie d ((est[d]?).getD 0) ((codes[d]?).getD 0) s) s

def execCalibrationRefit (est codes : List Nat) (s : State) : Out := .next (if yokeUp s then calibrationRefit est codes s else s)

/-! ### HOLDOFF_EXPIRY, SCHED_FRAME, SCHED_SLOT_TIME, YOK_SCHED_TIMEOUT (R331 to R333) -/

/-- The Yoke waits in a hold-off: in HOLDOFF, or DRAINED with a resume under way. -/
def inHold (s : State) : Bool := decide (yokState s = 2) || (decide (yokState s = 6) && s.yoke.holding)

/-- HOLDOFF_EXPIRY, R331: the hold-off that YOK_HOLDOFF_MS shows has run out. -/
def holdoffExpiry (s : State) : State :=
  if inHold s && !s.yoke.holdSched && decide (s.yoke.holdT0 + 1000000 * getReg s 0x28A4 ≤ s.clk.now) then beginRamp s else s

def execHoldoffExpiry (s : State) : Out := .next (holdoffExpiry s)

/-- SCHED_SLOT_TIME, R332: what an accepted frame set and whose time has come takes effect. -/
def schedSlotTime (s : State) : State :=
  let now := devTime s
  let due := fun (t : Option Nat) => match t with | some x => decide (x ≤ now) | none => false
  let s := if due s.yoke.startAt then
      let s := { s with yoke := { s.yoke with startAt := none } }
      if yokState s = 2 ∨ yokState s = 6 then beginRamp s else s
    else s
  let s := if due s.yoke.drainAt then
      let s := { s with yoke := { s.yoke with drainAt := none } }
      if yokState s = 3 ∨ yokState s = 4 then drainRequest s else s
    else s
  match s.yoke.ceilAt with
  | some (t, v) => if t ≤ now then { s with yoke := { s.yoke with ceilAt := none, ceils := s.yoke.ceils ++ [(2, v)] } } else s
  | none => s

def execSchedSlotTime (s : State) : Out := .next (schedSlotTime s)

/-- A schedule payload (Table YOK-7): rejected and counted, without effect in this state, or accepted. -/
def yokSched (p : List Byte) (s : State) : State :=
  let kind := byteAt p 1
  let nslot := leAt p 2 2
  let t0 := leAt p 8 8
  if p.length < 24 ∨ byteAt p 0 ≠ 1 ∨ leAt p 4 4 ≠ getReg s 0x2820 ∨ ((kind = 1 ∨ kind = 2) ∧ nslot = 0) ∨ kind = 0 ∨ 3 < kind then bump 103 1 s
  else
    let ctl := getReg s 0x2818
    let slot := if kind = 3 then 0 else siteHash s % max 1 nslot
    let us := slot * leAt p 16 4
    let t := t0 + 1000 * us
    let ok := match kind with
      | 1 => ctl.testBit 0 && decide (yokState s = 2 ∨ (yokState s = 6 ∧ s.glb.run = true))
      | 2 => ctl.testBit 1 && decide (yokState s = 3 ∨ yokState s = 4)
      | _ => ctl.testBit 1
    if !ok then s
    else
      let s := match kind with
        | 1 => { s with yoke := { s.yoke with startAt := some t } }
        | 2 => { s with yoke := { s.yoke with drainAt := some t } }
        | _ => { s with yoke := { s.yoke with ceilAt := some (t0, leAt p 20 2) } }
      schedSlotTime (raise 0x0C08 0 kind slot us s)

/-- SCHED_FRAME, R90: a site schedule frame is taken before classification, counted, and its payload handed to the Yoke. -/
def schedFrame (fid : Nat) (s : State) : State :=
  match findFrame s fid with
  | none => s
  | some f =>
    if f.walk = .queued ∧ f.verdict = some true ∧ schedShape s f = some true then
      yokSched (schedPayload f) (settlePunts f.ingress (dropFrame fid (bbpCount (f.ingress - 8) 8 s)))
    else s

def execSchedFrame (fid : Nat) (s : State) : Out := .next (bbSettle (schedFrame fid s))

/-- YOK_SCHED_TIMEOUT, R333: no START frame was accepted in YOK_SCHED_WAIT seconds; the hash hold-off runs from now. -/
def schedTimeout (s : State) : State :=
  if inHold s && s.yoke.holdSched && s.yoke.startAt.isNone &&
      decide (regF s 0x2824 0 8 ≠ 0 ∧ s.yoke.holdT0 + 1000000000 * regF s 0x2824 0 8 ≤ s.clk.now) then
    raise 0x0C09 0 (hashHoldoff s) 0 0 (setReg 0x28A4 (hashHoldoff s) { s with yoke := { s.yoke with holdSched := false, holdT0 := s.clk.now } })
  else s

def execYokSchedTimeout (s : State) : Out := .next (schedTimeout s)

/-! ### YOKE_SET (R330, R334, R335) -/

/-- The descriptor is of this OP, or of one that YOKE_SET does not have. -/
def yokeOp (op : Nat) (b : List Byte) : Bool := decide (byteAt b 16 = op) || decide (2 < byteAt b 16)

/-- A YOKE_SET of one OP; an OP above 2 is taken by any of these commands and completes with BAD_PARAM. -/
def yokeSet (op q pos : Nat) (f : List Byte → State → State) (s : State) : State :=
  descRun q pos 0x31 (yokeOp op) (fun b s =>
    if 2 < byteAt b 16 then complete q pos 0x41 0 0 0 s else f b s) s

/-- YOKE_SET_SET, R330: the head adopts the values at its next epoch, and the descriptor completes then. -/
def execYokeSetSet (q : Fin 16) (pos : Nat) (s : State) : Out :=
  .next (yokeSet 0 q pos (fun b s =>
    if (q.val, pos) ∈ s.yoke.sets then s
    else
      let cs := if (byteAt b 18).testBit 0 then [(0, leAt b 20 2 % 2048)] else []
      { s with yoke := { s.yoke with sets := s.yoke.sets ++ [(q.val, pos)], ceils := s.yoke.ceils ++ cs } }) s)

def execYokeSetDrain (q : Fin 16) (pos : Nat) (s : State) : Out :=
  .next (yokeSet 1 q pos (fun _ s => complete q pos 0 0 0 0 (drainRequest s)) s)

def execYokeSetResume (q : Fin 16) (pos : Nat) (s : State) : Out :=
  .next (yokeSet 2 q pos (fun b s => complete q pos 0 0 0 0 (resumeRequest ((byteAt b 17).testBit 0) s)) s)

/-! ### TELEMETRY_TICK (R357) -/

/-- The telemetry record without its PHASE byte (Table HIF-12). -/
def teleRecord (s : State) (hbm : List (BitVec 8)) : List Byte :=
  let c := fun k => leBytes 4 ((s.hif.tele[k]?).getD 0)
  let hot := fun d => if s.glb.dieFatal.testBit d then 0xFF else maxOf ((List.range 16).map (fun p => (getPlot s (16 * d + p)).sensor)) / 4
  leBytes 8 (devTime s) ++ leBytes 2 (s.yoke.level / 250) ++ leBytes 2 (getReg s 0x288C) ++ (List.range 4).flatMap (fun d => leBytes 1 (hot d)) ++
    padTo 4 hbm ++ leBytes 1 (yokState s) ++ leBytes 1 s.glb.dieOk ++ leBytes 2 0 ++ c 0 ++ c 1 ++ c 2 ++ c 3 ++ c 4 ++ c 5 ++ c 6 ++ List.replicate 11 0

/-- TELEMETRY_TICK, R357: `hbm` are the stack temperatures in °C. A full TQ drops the record and its counts carry over. -/
def telemetryTick (hbm : List (BitVec 8)) (s : State) : State :=
  if regF s 0x0828 0 16 = 0 ∨ connected s = false ∨ (getRing s 35).en = false ∨ s.clk.now < s.hif.teleT0 + 1000 * max 10 (regF s 0x0828 0 16) then s
  else
    let s := { s with hif := { s.hif with teleT0 := s.clk.now } }
    if (getRing s 35).full then bump 74 1 s
    else
      let s := writeEntry 35 (teleRecord s hbm) s
      { s with hif := { s.hif with tele := [] } }

def execTelemetryTick (hbm : List (BitVec 8)) (s : State) : Out := .next (telemetryTick hbm s)

end Sys2Proof.Machine
end

