-- ==== Sys2Proof/Machine/Faults.lean ====
section
/-! DEFINITION. Plot-fatal, die-fatal and device-fatal (R391 to R400): retirement of a plot, loss of a compute die, loss of the engine. -/
namespace Sys2Proof.Machine

/-- FAULT_N is driven low (R391, R313, R459). -/
def faultLow (s : State) : Bool := decide (s.glb.dieFatal ≠ 0) || s.glb.deviceFatal || decide (s.glb.fail ≠ 0) || s.glb.railFault

/-- Plots that are retired, and plots that are neither retired nor on a fatal die (Table HRW-7). -/
def retiredPlots (s : State) : List Nat := (List.range 64).filter (fun p => decide ((getPlot s p).st = .retired))
def plotsInService (s : State) : Nat :=
  ((List.range 64).filter (fun p => decide ((getPlot s p).st ≠ .retired) && !s.glb.dieFatal.testBit (dieOfPlot p))).length

/-! ### Ending every message (R303, R399) -/

/-- A message ends INTERNAL and sends nothing more: a begun reply of it is retracted or stomped. -/
def silence (mid : Nat) (s : State) : State :=
  let s := leaveSheaf mid s
  attach mid stInternal
    (updMsg mid (fun m => { m with silent := true, noFence := true, outputs := none, staged := false, rowsOut := [], loc := .idle }) s)

/-- Every message in flight ends INTERNAL in its stream's order, whatever the policy. -/
def silenceAll (s : State) : State :=
  let s := each (s.msgs.map Msg.mid) silence s
  each (List.range 256) settleStream s

/-- Frames that the data path holds go, and what waits at an egress; what a lane or interface is sending stays. -/
def dropTraffic (s : State) : State :=
  let busy := fun (l : Nat) (x : EgrFrame) => match (getBb s l).tx with | some t => decide (t.mid = none ∧ t.order = x.order) | none => false
  { s with
    frames := [], plg := { s.plg with gleans := [] },
    egress := (s.egress.map (fun (e, q) => (e, q.filter (fun x => decide (8 ≤ e) && busy (e - 8) x)))).filter (fun x => !x.2.isEmpty),
    ports := s.ports.map (fun (n, p) =>
      (n, { p with ctls := [], acks := [], echoes := [], repairs := [], windows := [], rx := p.rx.map (fun r => { r with fid := none }) })),
    bbs := s.bbs.map (fun (l, b) => (l, if b.rx.isSome then { b with rx := none, rxDrop := 2 } else b)) }

/-- Every descriptor that executes completes with a status (R303, R399). -/
def abortDescs (status : Nat) (s : State) : State :=
  each (List.range 16) (fun q s =>
    each (((getSq s q).descs.filter (fun d => decide (d.st = .executing))).map Desc.pos) (fun pos s => complete q pos status 0 0 0 s) s) s

/-! ### Device-fatal (R399) -/

/-- The engine is device-fatal: 1 every die is fatal, 2 ordering state of the I/O die is lost. -/
def deviceLost (cause : Nat) (s : State) : State :=
  if s.glb.deviceFatal then s
  else
    let s := abortDescs stInternal s
    let s := { s with hif := { s.hif with sqs := s.hif.sqs.map (fun (q, v) => (q, { v with descs := v.descs.filter isDone, polls := [] })) } }
    let s := dropTraffic (silenceAll s)
    let s := { s with glb := { s.glb with deviceFatal := true }, waits := [] }
    let s := raise 0x1007 0 cause 0 0 s
    if yokState s ∈ [3, 4] then setYok 5 s
    else if yokState s ∈ [1, 2] then setYok 6 s
    else { s with yoke := { s.yoke with drainReq := true } }

/-! ### Die-fatal (R396, R397) -/

/-- A group of a fatal die stops: its run, its transition and its tokens go, and their owners are answered. What its pass did not use returns to
its die (R139). -/
def stopGroup (gid : Nat) (s : State) : State × List Nat :=
  match findGroup s gid with
  | none => (s, [])
  | some g =>
    let plots := transPlots g
    let owners := (flushOwners g (plots.map (fun p => (p, plotTokens s p)))).map Prod.snd ++ (match g.run with | some r => r.members | none => [])
    let gen := (g.gen + 1) % 4
    let s := match g.run with
      | some r => settleRun g r (chargedSoFar s r) s
      | none => s
    let s := each plots (clearPlot gen) s
    let s := match g.rot with
      | some r => each (r.target.filter (fun p => p ∉ g.plots)) freePlot s
      | none => s
    let s := updGroup gid (fun g => { g with gen := gen, cfg := 0, run := none, trans := none, rot := none, orphans := 0, reload := false }) s
    (s, owners)

/-- The memory of a fatal die is gone: the caches drop its lines, and the directories forget its caches. -/
def forgetDie (d : Nat) (s : State) : State :=
  let keep := fun (x : Nat × CacheLine) => decide (x.1 / 2 ^ 33 ≠ d ∧ stackOf (128 * (x.1 % 2 ^ 33)) ≠ d)
  let strip := fun (e : DirEntry) =>
    let h := setBitTo e.held d false
    ({ e with held := h, owned := e.owned && decide (h ≠ 0) } : DirEntry)
  { s with mem := { s.mem with
      rlc := s.mem.rlc.filter keep,
      fills := s.mem.fills.filter (fun f => f.1 ≠ d),
      dir := (s.mem.dir.filter (fun x => decide (stackOf (128 * x.1) ≠ d))).map (fun x => (x.1, strip x.2)) |>.filter (fun x => decide (x.2.held ≠ 0)) } }

/-- Waits of SYNC_OP on objects of a fatal die complete with DIE_FATAL; the others are never released (R389). -/
def synDie (d : Nat) (s : State) : State :=
  let gone := s.waits.filter (fun w => decide (w.obj / 32 = d ∧ 1024 ≤ w.req ∧ w.req < 1040))
  let s := { s with waits := s.waits.filter (fun w => !decide (w.obj / 32 = d ∧ 1024 ≤ w.req ∧ w.req < 1040)) }
  each gone (fun w s => complete (w.req - 1024) w.key 0x4A 0 0 0 s) s

/-- A compute die is declared fatal with its cause (R396, R397). -/
def declareDie (d cause : Nat) (s : State) : State :=
  if s.glb.dieFatal.testBit d then s
  else
    let s := { s with glb := { s.glb with dieFatal := setBitTo s.glb.dieFatal d true, dieOk := setBitTo s.glb.dieOk d false } }
    let on := (s.groups.filter (fun g => g.plots.any (fun p => decide (dieOfPlot p = d)))).map Group.gid
    let banks := (s.groups.filter (fun g => g.gid ∈ on)).map (fun g => (g.slot, g.bank))
    let kv := (s.msgs.filter (fun m => decide (m.rowsOut ≠ [] ∧ (getStream s m.stream).home = d))).map Msg.mid
    let (s, owners) := on.foldl (fun (a : State × List Nat) g => let r := stopGroup g a.1; (r.1, a.2 ++ r.2)) (s, kv)
    let ended := (owners.foldl (fun acc m => insertNew m acc) []).filter (fun m => (findMsg s m).isSome)
    let s := each banks (fun b s => setBank b.1 b.2 { getBank s b.1 b.2 with poison := true } s) s
    let s := each ended (fun m s => leaveSheaf m (updMsg m (fun m => { m with outputs := none, staged := false, rowsOut := [], loc := .idle }) s)) s
    let s := each ended (failMsg stInternal) s
    let s := synDie d (forgetDie d s)
    let s := setYd d { getYd s d with credit := 0, reserve := 0, sent := none, level := (getYd s d).level - s.yoke.pstd / max 1 ((goodDies s).length + 1) } s
    let fenced := (s.streams.filter (fun x => decide (x.2.st = .opened ∧ x.2.pcap ≠ 0 ∧ x.2.home = d))).length
    let s := raise 0x1006 d cause ended.length fenced s
    if s.glb.dieFatal % 16 = 15 then deviceLost 1 s else s

/-- DLL_LOST, R298: of a die's CLK_M (0) or CLK_L (1) DLL. -/
def dllLost (d c : Nat) (s : State) : State :=
  if !s.clk.dllLock.testBit d then s
  else declareDie d 1 (raise 0x0B04 d c 0 0 { s with clk := { s.clk with dllLock := setBitTo s.clk.dllLock d false } })

def execDllLost (d : Fin 4) (c : Fin 2) (s : State) : Out := .next (bbSettle (dllLost d c s))

/-- STACK_LOSS, R396 cause 5: of a die that was brought up. -/
def execStackLoss (d : Fin 4) (s : State) : Out :=
  .next (if s.glb.dieOk.testBit d then bbSettle (declareDie d 5 s) else s)

/-! ### Plot-fatal (R393 to R395) -/

/-- The group of a retiring plot lets go of its plots and takes a new placement if there is one (R394). -/
def rePlace (p : Nat) (g : Group) (s : State) : State × Nat :=
  let s := replant 4 stTainted g.gid s
  let s := each g.plots freePlot s
  let s := updPlot p (fun v => { v with st := .retired, group := none }) s
  let s := updGroup g.gid (fun g => { g with plots := [], unfilled := [] }) s
  let s := readySheaves (placeUnplaced s)
  let now := match findGroup s g.gid with
    | some g => if g.plots.isEmpty then 0xFFFFFFFE else g.plots.headD 0
    | none => 0xFFFFFFFE
  (s, now)

/-- A plot is retired, or its die is lost when 4 plots are retired already. -/
def plotFatal (p : Nat) (s : State) : State :=
  if (getPlot s p).st = .retired ∨ s.glb.dieFatal.testBit (dieOfPlot p) then s
  else if 4 ≤ (retiredPlots s).length then declareDie (dieOfPlot p) 4 s
  else
    let (s, now) := match groupOfPlot s p with
      | some g => rePlace p g s
      | none => (updPlot p (fun v => { v with st := .retired, group := none }) s, 0xFFFFFFFF)
    raiseOn (dieOfPlot p) 0x1005 p p now (retiredPlots s).length s


/-- The majority of three numbers, bit by bit (R406). -/
def vote3 (a b c : Nat) : Nat := (a &&& b) ||| (a &&& c) ||| (b &&& c)

/-- An instance's voted settings. -/
def Hrw.cfg (v : Hrw) : HrwCfg :=
  { en := vote3 v.c0.en v.c1.en v.c2.en, period := vote3 v.c0.period v.c1.period v.c2.period,
    passMax := vote3 v.c0.passMax v.c1.passMax v.c2.passMax, retireN := vote3 v.c0.retireN v.c1.retireN v.c2.retireN }

/-- One uncorrectable error in a plot's configuration banks, tile stores or buffer (R393): HRW_RETIRE_N within 1 s retire it. -/
def plotError (p : Nat) (s : State) : State :=
  let now := devTime s
  let errs := (getPlot s p).errs.filter (fun t => now < t + 1000000000) ++ [now]
  let s := updPlot p (fun v => { v with errs := errs }) s
  if max 1 (getHrw s (dieOfPlot p)).cfg.retireN ≤ errs.length then plotFatal p s else s

/-- The agents of the compute dies run. -/
def agentsUp (s : State) (p : Nat) : Bool := s.glb.dieOk.testBit (dieOfPlot p) && !s.glb.deviceFatal

/-- PLOT_LDO_FAULT, R393: the LDO has missed its target for 10 µs, on a plot that has power. -/
def execPlotLdoFault (p : Fin 64) (s : State) : Out :=
  .next (if agentsUp s p && plotsOn s then bbSettle (plotFatal p s) else s)

/-- PLOT_SENSOR_CHECK, R393: the millisecond check of a plot's sensor, passed or failed. -/
def execPlotSensorCheck (p : Fin 64) (passed : Bool) (s : State) : Out :=
  .next (if agentsUp s p && !passed then bbSettle (plotFatal p s) else s)

/-- PLACEMENT_RETRY, R394. -/
def execPlacementRetry (s : State) : Out := .next (if sowerUp s then bbSettle (readySheaves (placeUnplaced s)) else s)

/-- PLOT_BUFFER_UNCORR, R263: an uncorrectable word at a local offset is met by the streamer (0) or the seed loader (1). -/
def plotUncorr (p off reader : Nat) (s : State) : State :=
  match groupOfPlot s p with
  | none => s
  | some g =>
    let res := decide (off < resBytes s g) && (getBank s g.slot g.bank).pin
    let s := updPlot p (fun v => { v with bufBad := insertNew (off / 8) v.bufBad }) s
    let s := raiseOn (dieOfPlot p) 0x0903 p off (b2n (!res)) reader (bump (960 + 15 * p + 14) 1 s)
    let s := if res then updGroup g.gid (fun g => { g with unfilled := insertNew p g.unfilled }) s else s
    plotError p (if reader = 0 then markPass stInternal g.gid s else s)

def execPlotBufferUncorr (p : Fin 64) (off : Fin 1048576) (reader : Fin 2) (s : State) : Out :=
  .next (bbSettle (plotUncorr p off reader s))

end Sys2Proof.Machine
end

