-- ==== Sys2Proof/Machine/TileScalar.lean ====
section
/-! DEFINITION. Firing, and the scalar, predicate, special, load/store, port, tag, event and control instructions of a tile
(R173 to R183, R193 to R199), one definition per command. -/
namespace Sys2Proof.Machine

/-- BLOCK_FIRE, R178: an idle tile takes the lowest-numbered fireable block and its tag, consumes the entries, delivers them in
operand order, sets CT = OT = T and PC = ENTRY. -/
def fireState (k : Nat) (s : State) : State :=
  let t := getTile s k
  if t.run ≠ .idle then s
  else
    match fireable t with
    | none => noteStall k s
    | some (b, entry, ops, tag, es) =>
      let pairs := ops.zip es
      let ms := pairs.foldl (fun ms x =>
        match ms.find? (fun e => e.seqNo = x.2.seqNo) with
        | some e => consume e ms
        | none => ms) t.ms
      let t := pairs.foldl (fun t x => deliverTo x.1.net x.1.dst x.2.tok.data t) { t with ms := ms }
      setTile k { t with run := .running, blk := b, pc := entry, ct := tag, ot := tag, msStall := false } s

/-! ### Scalar ALU (R181) -/

/-- 32-bit shifts: 0 SLL, 1 SRL, 2 SRA, 3 rotate right, by an amount below 32. -/
def shift32 (kind a n : Nat) : Nat :=
  match kind with
  | 0 => (a <<< n) % 2 ^ 32
  | 1 => a >>> n
  | 2 => ofSigned 32 (toSigned 32 a / (2 ^ n : Nat))
  | _ => (a >>> n + a <<< (32 - n)) % 2 ^ 32

/-- Result and flags of ALU by FN[3:0]. -/
def aluOp (op a b : Nat) : Nat × Nat :=
  let sa := toSigned 32 a
  let sb := toSigned 32 b
  match op with
  | 0 => ((a + b) % 2 ^ 32, 0)
  | 1 => ((a + 2 ^ 32 - b) % 2 ^ 32, 0)
  | 2 => (a &&& b, 0)
  | 3 => (a ||| b, 0)
  | 4 => (a ^^^ b, 0)
  | 5 => (shift32 0 a (b % 32), 0)
  | 6 => (shift32 1 a (b % 32), 0)
  | 7 => (shift32 2 a (b % 32), 0)
  | 8 => ((a * b) % 2 ^ 32, 0)
  | 9 => (ofSigned 32 (sa * sb / (2 ^ 32 : Nat)), 0)
  | 10 => (a * b / 2 ^ 32, 0)
  | 11 => (if sa ≤ sb then a else b, 0)
  | 12 => (if sa ≤ sb then b else a, 0)
  | 13 => (min a b, 0)
  | 14 => (max a b, 0)
  | _ => satInt 32 true (sa + sb)

def aluTile (w : Nat) (t : Tile) : Tile :=
  let (v, f) := aluOp (bitsOf w 0 4) (getS t (fRa w)) (getS t (fRb w))
  orFlags f (setS (fRd w) v t)

def addiTile (w : Nat) (t : Tile) : Tile := setS (fRd w) ((getS t (fRa w) + fSimm w) % 2 ^ 32) t
def andiTile (w : Nat) (t : Tile) : Tile := setS (fRd w) (getS t (fRa w) &&& fImm w) t
def oriTile (w : Nat) (t : Tile) : Tile := setS (fRd w) (getS t (fRa w) ||| fImm w) t
def xoriTile (w : Nat) (t : Tile) : Tile := setS (fRd w) (getS t (fRa w) ^^^ fImm w) t
def luiTile (w : Nat) (t : Tile) : Tile := setS (fRd w) (fImm w * 65536) t
def shiTile (w : Nat) (t : Tile) : Tile := setS (fRd w) (shift32 (bitsOf w 5 2) (getS t (fRa w)) (bitsOf w 0 5)) t

/-! ### Predicates (R182) -/

/-- A condition of CMP and CMPI; codes 6 and 7 act as EQ. -/
def cmpCond (c a b : Nat) : Bool :=
  match c with
  | 1 => decide (a ≠ b)
  | 2 => decide (toSigned 32 a < toSigned 32 b)
  | 3 => decide (toSigned 32 b ≤ toSigned 32 a)
  | 4 => decide (a < b)
  | 5 => decide (b ≤ a)
  | _ => decide (a = b)

/-- Every bit of a predicate. -/
def allBits (b : Bool) : Nat := if b then 2 ^ 64 - 1 else 0

def cmpTile (w : Nat) (t : Tile) : Tile := setP (fRd w) (allBits (cmpCond (bitsOf w 0 3) (getS t (fRa w)) (getS t (fRb w)))) t
def cmpiTile (w : Nat) (t : Tile) : Tile := setP (bitsOf w 21 2) (allBits (cmpCond (bitsOf w 23 3) (getS t (fRa w)) (fSimm w))) t

def plogTile (w : Nat) (t : Tile) : Tile :=
  let a := getP t (fRa w)
  let b := getP t (fRb w)
  let ones := 2 ^ 64 - 1
  setP (fRd w)
    (match bitsOf w 0 3 with
     | 1 => a ||| b
     | 2 => a ^^^ b
     | 3 => a &&& (ones ^^^ b)
     | 4 => ones ^^^ a
     | 5 => ones
     | 6 => 0
     | _ => a &&& b) t

/-! ### Special registers (R173, Table TIL-2) -/

/-- What MFS reads; `k` is the tile id and `dt` DTIME. -/
def specialReg (k dt sel : Nat) (t : Tile) : Nat :=
  match sel with
  | 0 => t.mode
  | 1 => t.flags
  | 2 => t.ct
  | 3 => t.ot
  | 4 => k
  | 5 => t.size
  | 6 => t.gen
  | 7 => t.cfg
  | 8 => t.zpa
  | 9 => dt % 2 ^ 32
  | _ => 0

def mfsTile (k dt w : Nat) (t : Tile) : Tile := setS (fRd w) (specialReg k dt (bitsOf w 0 4) t) t

/-- OT with every bit but GEN taken from a value; OT.GEN is always the tile's current GEN (R195). -/
def otWrite (v : Nat) (t : Tile) : Tile := setGen t.gen { t with ot := v }

/-- MTS: TILE_MODE keeps its three fields, TILE_FLAGS clears the bits written as 1, RO registers ignore the write. -/
def mtsTile (w : Nat) (t : Tile) : Tile :=
  let v := getS t (fRa w)
  match bitsOf w 0 4 with
  | 0 => { t with mode := v % 8 }
  | 1 => { t with flags := t.flags ^^^ (t.flags &&& v) }
  | 3 => otWrite v t
  | 8 => { t with zpa := v % 256 }
  | _ => t

/-! ### Loads and stores (R183) -/

/-- A load faults with cause 3 on an uncorrectable word (R176). -/
def loadTile (size : Nat) (put : Nat → Nat → Tile → Tile) (align w : Nat) (t : Tile) : Except Nat Tile :=
  let a := tsAddr t (fRa w) (fImm w) align
  if tsBadRead t a size then .error 3 else .ok (put (fRd w) (tsRead t a size) t)

def storeTile (size : Nat) (get : Tile → Nat → Nat) (align w : Nat) (t : Tile) : Tile :=
  tsWrite (tsAddr t (fRa w) (fImm w) align) size (get t (fRd w)) t

/-! ### Port instructions (R193, R194) -/

/-- The output of a SEND has credit: the clock-crossing queue toward it takes 4 tokens, as an input FIFO does (R146). -/
def hasCredit (s : State) (k net dir : Nat) : Bool := decide (5 ≤ dir) || fifoRoom s (fifoKey k net (8 + dir))

/-- SEND, R193: NET 3 faults; no credit waits; FEED hands the token to the streamer's drain; any other direction goes through the
switch or is discarded. -/
def sendState (k : Nat) (s : State) : State :=
  if !canExec s k 0x30 then s
  else
    let t := getTile s k
    let w := tileWord t
    let net := bitsOf w 19 2
    let dir := bitsOf w 16 3
    if net = 3 then tileFault k 2 s
    else if 1023 ≤ t.pc then tileFault k 4 s
    else
      let data := if net = 1 then getV t (fRd w) else if net = 2 then getS t (fRd w) % 256 else getS t (fRd w)
      let tok : Token := { net := net, tag := t.ot, data := BitVec.ofNat 512 data, headland := false }
      if !hasCredit s k net dir then setTile k { t with run := .waitSend } s
      else
        let s := setTile k (advance t) s
        if dir = 5 then tapToken k tok (pmuCount (plotOfTile k) 7 1 { s with fab := { s.fab with drain := s.fab.drain ++ [(k, tok)] } })
        else if 6 ≤ dir then orphan k (plotOfTile k) tok.tag s
        else flowAll (pushFifo (fifoKey k net (8 + dir)) tok s)

/-- RECV, R194: waits until an entry on its network and port matches CT, then consumes it as an operand is delivered. -/
def recvState (k : Nat) (s : State) : State :=
  if !canExec s k 0x31 then s
  else
    let t := getTile s k
    let w := tileWord t
    let net := bitsOf w 19 2
    if 1023 ≤ t.pc then tileFault k 4 s
    else
      match recvEntry t net (bitsOf w 16 3) (w.testBit 15) with
      | none => noteStall k (setTile k { t with run := .waitRecv } s)
      | some e => setTile k (advance (deliverTo net (fRd w) e.tok.data { t with ms := consume e t.ms })) s

/-! ### TAG and EVENT (R195, R197) -/

/-- TAG on the tile, and whether OT.ITER was clipped. -/
def tagTile (w : Nat) (t : Tile) : Tile × Bool :=
  let a := getS t (fRa w)
  let iter := bitsOf t.ot 0 8
  match bitsOf w 0 3 with
  | 0 => (setS (fRd w) t.ct t, false)
  | 1 => (otWrite a t, false)
  | 2 => (otWrite (t.ot - iter + a % 256) t, false)
  | 3 => (otWrite (t.ot - iter + min 255 (iter + a % 256)) t, decide (255 < iter + a % 256))
  | 4 => (otWrite (iter + 256 * (a % 32)) t, false)
  | 5 => (otWrite (iter + 32768) t, false)
  | _ => (otWrite t.ct t, false)

def tagState (k : Nat) (s : State) : State :=
  if !canExec s k 0x34 then s
  else
    let t := getTile s k
    if 1023 ≤ t.pc then tileFault k 4 s
    else
      let (t', clip) := tagTile (tileWord t) t
      let s := setTile k (advance t') s
      if clip then taintOwners (plotOfTile k) t'.ot (bump (960 + 15 * plotOfTile k + 11) 1 s) else s

/-- The I/O die accepts a tile's event while the IOD link of its die carries traffic; a link that retrains holds it (R197, R266). -/
def eventAccepted (s : State) (k : Nat) : Bool := (getLink s (dieOfTile k)).train.isNone

/-- A tile's pending event is accepted and raised. -/
def acceptEvent (k : Nat) (s : State) : State :=
  match (getTile s k).event with
  | some (a0, a1, a2) =>
    if eventAccepted s k then raiseOn (dieOfTile k) 0x0605 k a0 a1 a2 (updTile k (fun t => { t with event := none }) s) else s
  | none => s

/-- The events that wait on a die are accepted, when its link resumes. -/
def acceptEvents (d : Nat) (s : State) : State :=
  each ((s.tiles.filter (fun x => decide (dieOfTile x.1 = d) && x.2.event.isSome)).map Prod.fst) acceptEvent s

/-- EVENT, R197: it waits while the tile's previous event has not been accepted. The trace record is kind 2: the two arguments, and CT,
TILE_FLAGS and FN as arg2 carries them (Table TST-4). -/
def eventState (k : Nat) (s : State) : State :=
  if !canExec s k 0x3C then s
  else
    let t := getTile s k
    let w := tileWord t
    if 1023 ≤ t.pc then tileFault k 4 s
    else if t.event.isSome then setTile k { t with run := .waitEvent } s
    else
      let a2 := t.ct + 65536 * (t.flags % 64) + 16777216 * bitsOf w 0 8
      let a0 := getS t (fRa w)
      let a1 := getS t (fRb w)
      let s := bump (960 + 15 * plotOfTile k + 12) 1 (setTile k { advance t with event := some (a0, a1, a2) } s)
      acceptEvent k (capture (dieOfTile k) 2 k (leBytes 4 a0 ++ leBytes 4 a1 ++ leBytes 4 a2) s)

/-! ### Control (R179, R182) -/

/-- The branch condition of BR. -/
def brTaken (w : Nat) (t : Tile) : Bool :=
  let p := getP t (bitsOf w 22 2)
  match bitsOf w 24 2 with
  | 0 => true
  | 1 => p.testBit 0
  | 2 => !p.testBit 0
  | _ => decide (p ≠ 0)

def brState (k : Nat) (s : State) : State :=
  if !canExec s k 0x3D then s
  else
    let t := getTile s k
    let w := tileWord t
    if brTaken w t then setTile k { t with run := .running, pc := bitsOf w 0 10 } s
    else if 1023 ≤ t.pc then tileFault k 4 s
    else setTile k (advance t) s

/-- HALT ends the running block; PC advances as after any instruction that is not a taken branch (R179). -/
def haltState (k : Nat) (s : State) : State :=
  if !canExec s k 0x3F then s
  else if 1023 ≤ (getTile s k).pc then tileFault k 4 s
  else noteStall k (setTile k { advance (getTile s k) with run := .idle } s)

/-! ### Token arrival (R152, R170) -/

/-- A tile takes a token into its matching store: a token of another GEN is discarded (R170), one on a port that no operand names
is a stray (R152). -/
def takeToken (k port : Nat) (tok : Token) (s : State) : State :=
  let t := getTile s k
  let p := plotOfTile k
  if tagGen tok.tag ≠ t.gen then discardStale p s
  else
    match operandFor t.active tok.net port with
    | none => taintOwners p tok.tag (bump (960 + 15 * p + 2) 1 s)
    | some o =>
      let uses := if o.shared then (if o.uses = 0 then t.size else o.uses) else 1
      let e : MsEntry := { tok := tok, port := port, shared := o.shared, uses := uses, seqNo := t.arrivals }
      noteStall k (setTile k { t with ms := t.ms ++ [e], arrivals := t.arrivals + 1 } s)

/-- The token at the head of a tile's input, where the tile does not hold it until its flip: of a switch's input that DLV delivers, while
the tile has not had its copy, or of FEED. -/
def inputHead (s : State) (k net port : Nat) : Option Token :=
  let t := getTile s k
  let p := plotOfTile k
  let tok := if port = 5 then (getFeed s (4 * k + net)).head?
    else
      match (getFifo s (fifoKey k net port)).head? with
      | some q =>
        if swDlv (swWord s k net) port && decide (5 ∉ q.took ∧ meets s p (getSwitch s k).gen q.tok.tag = .now) then some q.tok else none
      | none => none
  tok.filter (fun x => !x.headland && decide (meets s p t.gen x.tag ≠ .hold))

/-- The tile has had its copy of the head of an input. -/
def takeHead (k net port : Nat) (s : State) : State :=
  if port = 5 then setFeed (4 * k + net) (getFeed s (4 * k + net)).tail s
  else
    let key := fifoKey k net port
    match getFifo s key with
    | q :: rest => settleHead key (swDests (swWord s k net) port) (q.took ++ [5]) q rest s
    | [] => s

/-- The inputs of a tile in round-robin order from the one served next, as 6 × network + port (R152). -/
def servedFrom (rr : Nat) : List Nat := (List.range 18).map (fun i => (rr + i) % 18)

/-- The streamer reads a word of the plot buffer (R261, R263): zeros for an uncorrectable 64-bit word, which each read reports; `corrected` of
them come out corrected. -/
def readBuffer (p w corrected : Nat) (s : State) : State × List Byte :=
  let bad := ((List.range 8).map (· + 8 * w)).filter (fun x => decide (x ∈ (getPlot s p).bufBad))
  let data := (List.range 64).map (fun i => if (64 * w + i) / 8 ∈ bad then 0 else tget 0 (64 * w + i) (getPlot s p).buf)
  (each bad (fun x s => plotUncorr p (8 * x) 0 s) (bump (960 + 15 * p + 13) corrected s), data)

/-- The bytes of a token's source. -/
def feedSource (k gen : Nat) (g : Group) (f : Feed) (s : State) : State × List Byte :=
  match f.src with
  | .input b =>
    (s, match f.member.bind (fun m => (tget [] gen g.tables)[m.val]?) with
        | some mid => (match findMsg s mid with | some m => slice m.input (64 * b) 64 | none => [])
        | none => [])
  | .buffer w c => readBuffer (plotOfTile k) w.val c.val s
  | .line => (s, (tget Delivered.init (dieOfTile k) s.mem.lines).data)

/-- The tag of a fed token (Table PLT-4, R215): the generation announced last; SHR = 1 for what the whole sheaf shares, else its member. -/
def feedTag (gen : Nat) (f : Feed) : Nat :=
  8192 * gen + f.iter.toNat + (match f.member with | some m => 256 * m.val | none => 32768)

/-- The streamer feeds a token to a tile of a group: 4 bytes of its source on the scalar network, 64 on the vector network, 1 on the control
network. It copies a record as it finds it (R215). -/
def feedToken (k : Nat) (f : Feed) (s : State) : State :=
  match groupOfPlot s (plotOfTile k) with
  | none => s
  | some g =>
    let gen := match g.trans with | some tr => tr.gen | none => g.gen
    let (s, bytes) := feedSource k gen g f s
    let n := if f.net = 1 then 64 else if f.net = 2 then 1 else 4
    let tok : Token := { net := f.net.val, tag := feedTag gen f, data := BitVec.ofNat 512 (leNat (slice bytes f.at64.val n)), headland := false }
    setFeed (4 * k + f.net.val) (getFeed s (4 * k + f.net.val) ++ [tok]) s

/-- TOKEN_ARRIVAL, R152: what the streamer feeds joins its FEED channel; then the tile takes one token, of the first input in round-robin order
that has one. A full store, a faulted tile and a tile of a gated plot (R294) take nothing. -/
def arrival (k : Nat) (feed : Option Feed) (s : State) : State :=
  let s := match feed with
    | some f => feedToken k f s
    | none => s
  let t := getTile s k
  if t.run = .fault ∨ plotsOn s = false then s
  else
    match (servedFrom t.rr).find? (fun c => (inputHead s k (c / 6) (c % 6)).isSome) with
    | none => s
    | some c =>
      if 64 ≤ t.ms.length then noteStall k s
      else
        match inputHead s k (c / 6) (c % 6) with
        | none => s
        | some tok =>
          let s := takeHead k (c / 6) (c % 6) (updTile k (fun t => { t with rr := (c + 1) % 18 }) s)
          let s := if c % 6 = 5 then pmuCount (plotOfTile k) 6 1 s else s
          flowAll (takeToken k (c % 6) tok s)

/-! ### The commands -/

/-- TOKEN_ARRIVAL, R152: a token reaches tile `k`; `feed` is one that the streamer writes first. -/
def execTokenArrival (k : Fin 1024) (feed : Option Feed) (s : State) : Out := .next (arrival k feed s)

/-- BLOCK_FIRE, R178. -/
def execBlockFire (k : Fin 1024) (s : State) : Out := .next (fireState k s)

/-- SU_FIRE, R156: a steering unit acts once. -/
def execSuFire (u : Fin 512) (s : State) : Out := .next (suFire u s)

/-- NOP, R180. -/
def execNop (k : Fin 1024) (s : State) : Out := .next (tileInstr k 0x00 (fun _ t => .ok t) s)

/-- ALU, R181. -/
def execAlu (k : Fin 1024) (s : State) : Out := .next (tileInstr k 0x01 (fun w t => .ok (aluTile w t)) s)

/-- ADDI, R181. -/
def execAddi (k : Fin 1024) (s : State) : Out := .next (tileInstr k 0x02 (fun w t => .ok (addiTile w t)) s)

/-- ANDI, R181. -/
def execAndi (k : Fin 1024) (s : State) : Out := .next (tileInstr k 0x03 (fun w t => .ok (andiTile w t)) s)

/-- ORI, R181. -/
def execOri (k : Fin 1024) (s : State) : Out := .next (tileInstr k 0x04 (fun w t => .ok (oriTile w t)) s)

/-- XORI, R181. -/
def execXori (k : Fin 1024) (s : State) : Out := .next (tileInstr k 0x05 (fun w t => .ok (xoriTile w t)) s)

/-- LUI, R181. -/
def execLui (k : Fin 1024) (s : State) : Out := .next (tileInstr k 0x06 (fun w t => .ok (luiTile w t)) s)

/-- SHI, R181. -/
def execShi (k : Fin 1024) (s : State) : Out := .next (tileInstr k 0x07 (fun w t => .ok (shiTile w t)) s)

/-- CMP, R182. -/
def execCmp (k : Fin 1024) (s : State) : Out := .next (tileInstr k 0x08 (fun w t => .ok (cmpTile w t)) s)

/-- CMPI, R182. -/
def execCmpi (k : Fin 1024) (s : State) : Out := .next (tileInstr k 0x09 (fun w t => .ok (cmpiTile w t)) s)

/-- PLOG, R182. -/
def execPlog (k : Fin 1024) (s : State) : Out := .next (tileInstr k 0x0A (fun w t => .ok (plogTile w t)) s)

/-- MFS, R173: DTIME is the die's mirror of DEV_TIME (R296). -/
def execMfs (k : Fin 1024) (s : State) : Out :=
  .next (tileInstr k 0x0B (fun w t => .ok (mfsTile k (mirrorTime s (dieOfTile k)) w t)) s)

/-- MTS, R173. -/
def execMts (k : Fin 1024) (s : State) : Out := .next (tileInstr k 0x0C (fun w t => .ok (mtsTile w t)) s)

/-- A load of `size` bytes. `ecc` is what the store's check bits show of the 64-bit words read, numbered from the first: a corrected error,
which TIL_TS_CORR counts, or (`true`) an uncorrectable word; each of those counts toward the plot's retirement (R176, R393). -/
def loadInstr (k op size : Nat) (put : Nat → Nat → Tile → Tile) (align : Nat) (ecc : List (Nat × Bool)) (s : State) : State :=
  if !canExec s k op then s
  else
    let t := getTile s k
    let w := tileWord t
    let p := plotOfTile k
    let mine := ecc.filter (fun x => decide (8 * x.1 < size))
    let bad := (mine.filter (fun x => x.2)).map (fun x => (tsAddr t (fRa w) (fImm w) align / 8 + x.1) % 16384)
    let s := each (mine.filter (fun x => !x.2)) (fun _ => bump (960 + 15 * p + 10) 1) s
    let s := each bad (fun x => updTile k (fun t => { t with tsBad := insertNew x t.tsBad })) s
    each bad (fun _ s => plotError p s) (tileInstr k op (loadTile size put align) s)

/-- LDS, R183. -/
def execLds (k : Fin 1024) (ecc : List (Fin 48 × Bool)) (s : State) : Out := .next (loadInstr k 0x0D 4 setS 4 (ecc.map (fun x => (x.1.val, x.2))) s)

/-- STS, R183. -/
def execSts (k : Fin 1024) (s : State) : Out := .next (tileInstr k 0x0E (fun w t => .ok ((storeTile 4 getS 4) w t)) s)

/-- VLD, R183. -/
def execVld (k : Fin 1024) (ecc : List (Fin 48 × Bool)) (s : State) : Out :=
  .next (loadInstr k 0x10 64 setV 64 (ecc.map (fun x => (x.1.val, x.2))) s)

/-- VST, R183. -/
def execVst (k : Fin 1024) (s : State) : Out := .next (tileInstr k 0x11 (fun w t => .ok ((storeTile 64 getV 64) w t)) s)

/-- ALD, R183: the 384-byte image of R175, from an address aligned down to 64. -/
def execAld (k : Fin 1024) (ecc : List (Fin 48 × Bool)) (s : State) : Out :=
  .next (loadInstr k 0x12 384 setA 64 (ecc.map (fun x => (x.1.val, x.2))) s)

/-- AST, R183. -/
def execAst (k : Fin 1024) (s : State) : Out := .next (tileInstr k 0x13 (fun w t => .ok ((storeTile 384 getA 64) w t)) s)

/-- SEND, R193. -/
def execSend (k : Fin 1024) (s : State) : Out := .next (sendState k s)

/-- RECV, R194. -/
def execRecv (k : Fin 1024) (s : State) : Out := .next (recvState k s)

/-- TAG, R195. -/
def execTag (k : Fin 1024) (s : State) : Out := .next (tagState k s)

/-- EVENT, R197. -/
def execEvent (k : Fin 1024) (s : State) : Out := .next (eventState k s)

/-- BR, R182. -/
def execBr (k : Fin 1024) (s : State) : Out := .next (brState k s)

/-- HALT, R179. -/
def execHalt (k : Fin 1024) (s : State) : Out := .next (haltState k s)

/-- RESERVED_OPCODE, R180: a word whose opcode is not in Table TIL-7 faults with cause 1. -/
def execReservedOpcode (k : Fin 1024) (s : State) : Out :=
  .next (if plotsOn s && decide ((getTile s k).run = .running) && !opKnown (fOp (tileWord (getTile s k))) then tileFault k 1 s else s)

end Sys2Proof.Machine
end

