-- ==== Sys2Proof/Machine/DieLink.lean ====
section
/-! DEFINITION. Die links (R266 to R288): flits, credits, retry, retraining, reduced width and loopback. One FLIT_RECEIVE is one flit
slot of one direction: what the transmitter chooses to send, what happens to it on the wires, and what the receiver does. -/
namespace Sys2Proof.Machine


/-- A counter of a link's direction (Table GLB-20): 0 CRC_ERR, 1 RETRY, 2 ACK_TO_CNT, 3 DISCARD, 4 DUP, 5 to 8 QERR. -/
def linkCount (l d k : Nat) (s : State) : State := bump (2048 + 28 * l + 9 * d + k) 1 s

/-- Width of a direction by its quads in use: 3 full, 2 half, 1 quarter, 0 down (R281). -/
def widthOf (used : Nat) : Nat := match popcount 4 used with | 4 => 3 | 0 => 0 | 1 => 1 | _ => 2

/-- The quads that a set of good quads puts to use (R281). -/
def useQuads (good : Nat) : Nat :=
  match onesOf 4 good with
  | [] => 0
  | [q] => 2 ^ q
  | q :: r :: [] => 2 ^ q + 2 ^ r
  | q :: r :: _ :: [] => 2 ^ q + 2 ^ r
  | _ => 15

/-! ### The flit (R270 to R272) -/

/-- CRC-16 of a flit: control-word bits [55:16], highest byte first, then the body (R272). -/
def flitCrc (ctl : Nat) (body : List Byte) : Nat := crcMsb 16 0x8005 0xFFFF (beBytes 5 (ctl / 65536) ++ body)

/-- Errors on the wires of the four pieces: bit w of piece i, 0 to 255 data, 256 to 269 control, 270 and 271 quad check. -/
def errPiece (err : List (BitVec 272)) (i : Nat) : Nat := ((err[i]?).getD 0).toNat

def errCtl (err : List (BitVec 272)) : Nat := sumOf ((List.range 4).map (fun i => bitsOf (errPiece err i) 256 14 * 2 ^ (14 * i)))
def errBody (err : List (BitVec 272)) : List Byte := (List.range 4).flatMap (fun i => leBytes 32 (bitsOf (errPiece err i) 0 256))

/-- A quad check of a piece fails: an odd number of errors among its wires (R271). -/
def checkFails (e c : Nat) : Bool :=
  decide ((popcount 128 (bitsOf e (128 * c) 128) + popcount 7 (bitsOf e (256 + 7 * c) 7) + bitsOf e (270 + c) 1) % 2 = 1)

/-- The quads whose check fails in a flit: piece i goes on active quad i mod n (R270). -/
def badQuads (used : Nat) (err : List (BitVec 272)) : Nat :=
  let qs := onesOf 4 used
  (List.range 4).foldl (fun m i =>
    let e := errPiece err i
    if checkFails e 0 || checkFails e 1 then m ||| 2 ^ ((qs[i % max 1 qs.length]?).getD 0) else m) 0

/-! ### Credits (R273) and arbitration (R274) -/


/-- The class has a flit to send and a credit for it. -/
def classReady (s : State) (d : LinkDir) (c : Nat) : Bool := d.queue.any (fun f => decide (f.cls = c)) && hasCredits s d c

/-- Weights of the round robin, by class (Table DLK-4). -/
def rrWeight (c : Nat) : Nat := (([4, 2, 4, 1, 0, 0, 2, 1] : List Nat)[c]?).getD 0

/-- The next class that the weighted round robin serves: the running class while its turn lasts, else the next one that is ready. -/
def rrPick (s : State) (d : LinkDir) : Option Nat :=
  if 0 < d.rrLeft && classReady s d d.rrCls then some d.rrCls
  else ((List.range 8).map (fun i => (d.rrCls + 1 + i) % 8)).find? (fun c => decide (0 < rrWeight c) && classReady s d c)

/-- The class to send from, and the direction with its turn advanced. -/
def pickClass (s : State) (d : LinkDir) : Option (Nat × LinkDir) :=
  if classReady s d 4 then some (4, d)
  else if classReady s d 5 then some (5, d)
  else
    match rrPick s d with
    | none => none
    | some c => some (c, { d with rrCls := c, rrLeft := (if c = d.rrCls ∧ 0 < d.rrLeft then d.rrLeft else rrWeight c) - 1 })

/-- Take the oldest flit of a class out of a list. -/
def takeClass (c : Nat) : List LinkFlit → Option LinkFlit × List LinkFlit
  | [] => (none, [])
  | f :: fs => if f.cls = c then (some f, fs) else ((takeClass c fs).1, f :: (takeClass c fs).2)

/-- What the transmitter puts in the slot: a flit under replay, a new one, or none for IDLE (R274, R275). -/
def chooseFlit (s : State) (d : LinkDir) : Option LinkFlit × LinkDir :=
  match d.resend with
  | f :: fs => (some f, { d with resend := fs })
  | [] =>
    if 64 ≤ d.replay.length then (none, d)
    else
      match pickClass s d with
      | none => (none, d)
      | some (c, d) =>
        match takeClass c d.queue with
        | (none, _) => (none, d)
        | (some f, q) =>
          let f := { f with seqNo := d.nextSeq }
          (some f, { d with queue := q, nextSeq := (d.nextSeq + 1) % 256, replay := d.replay ++ [f], sent := tset 0 c ((tget 0 c d.sent + 1) % 256) d.sent })

/-- The control word (Table DLK-3): of a flit or IDLE, with what the sending end reports of the opposite direction. -/
def controlWord (f : Option LinkFlit) (nextSeq : Nat) (back : LinkDir) (body : List Byte) : Nat :=
  let hi := (match f with | some f => f.seqNo | none => nextSeq) * 2 ^ 16 + (back.expect + 255) % 256 * 2 ^ 24 +
    (match f with | some f => f.cls * 2 ^ 32 + 2 ^ 35 + f.op * 2 ^ 48 | none => 0) +
    b2n (back.episode && !back.renew) * 2 ^ 36 + back.crdTurn * 2 ^ 37 + tget 0 back.crdTurn back.freed * 2 ^ 40
  hi + flitCrc hi body

/-! ### Retraining starts (R278, R283) -/

/-- The bit of an end of a link (0 A, 1 B) in Train.ends. -/
def endBit (e : Nat) : Nat := if e = 0 then 1 else 2

/-- A trigger by an end, which stops sending flits: within a retrain the lowest cause code stands. -/
def startRetrain (l e cause quad dir : Nat) (full : Bool) (s : State) : State :=
  let v := getLink s l
  match v.train with
  | some t =>
    let t := if cause < t.cause then { t with cause := cause, quad := quad, dir := dir } else t
    setLink l { v with train := some { t with ends := t.ends ||| endBit e } } s
  | none =>
    if v.st ≠ 2 then s
    else
      let t : Train := { ends := endBit e, cause := cause, quad := quad, dir := dir, full := full, time := devTime s, again := none }
      setLink l { v with st := 1, train := some t } s

/-- The transmitter of a direction still sends flits: the link is up, or retrains and this end has not joined yet. -/
def stillSends (v : Link) (d : Nat) : Bool :=
  match v.train with
  | some t => !t.ends.testBit d
  | none => decide (v.st = 2)

/-! ### Retry (R275, R276) -/

/-- The transmitter of a direction replays, or retrains in place of a ninth replay without progress. -/
def replayOrTrain (l d : Nat) (timeout : Bool) (s : State) : State :=
  let x := (getLink s l).dir d
  if 8 ≤ x.tries then startRetrain l d 1 0 d false s
  else
    let s := linkCount l d 1 (updDir l d (fun x => { x with resend := x.replay, tries := x.tries + 1 }) s)
    if timeout then linkCount l d 2 s else s

/-- An ACK frees the replay buffer up to its flit. -/
def ackFlits (ack : Nat) (x : LinkDir) : LinkDir :=
  match x.replay with
  | [] => x
  | f :: _ =>
    let k := (ack + 256 - f.seqNo) % 256
    if k < x.replay.length then
      let gone := (x.replay.take (k + 1)).map LinkFlit.seqNo
      { x with replay := x.replay.drop (k + 1), resend := x.resend.filter (fun f => f.seqNo ∉ gone), acked := ack, tries := 0 }
    else x

/-- What a good control word tells the transmitter of the opposite direction `d`: ACK, credits, NAK. -/
def hearWord (l d ctl : Nat) (s : State) : State :=
  let nak := ctl.testBit 36
  let was := ((getLink s l).dir d).nakSeen
  let s := updDir l d (fun x => { ackFlits (bitsOf ctl 24 8) x with
    credTotal := tset 0 (bitsOf ctl 37 3) (bitsOf ctl 40 8) x.credTotal, nakSeen := nak }) s
  if nak && !was then replayOrTrain l d false s else s

/-- A quad-check failure that counts (R280), and the persistent trigger (R278). -/
def quadError (l d q : Nat) (s : State) : State :=
  let n := tget 0 q ((getLink s l).dir d).qerr + 1
  let s := linkCount l d (5 + q) (updDir l d (fun x => { x with qerr := tset 0 q n x.qerr }) s)
  let lim := regF s 0x2C28 0 16
  if lim ≠ 0 ∧ lim ≤ n then startRetrain l (1 - d) 2 q d false s else s

def quadErrors (l d mask : Nat) (s : State) : State := each (onesOf 4 mask) (quadError l d) s

/-- An episode opens unless one is open; it counts once. -/
def openEpisode (l d : Nat) (s : State) : State :=
  if ((getLink s l).dir d).episode then s
  else linkCount l d 0 (updDir l d (fun x => { x with episode := true, renew := false, epQuads := 0 }) s)

/-- A flit met in an episode: it is discarded, and each of its failing quads counts once per episode. -/
def discardFlit (l d bad : Nat) (s : State) : State :=
  let new := bad - (bad &&& ((getLink s l).dir d).epQuads)
  let s := linkCount l d 3 (updDir l d (fun x => { x with epQuads := x.epQuads ||| bad }) s)
  quadErrors l d new s

/-- The flit slots of 64 CLK_L cycles of a direction (R268, R270). -/
def framingSlots (s : State) (l d : Nat) : Nat :=
  let v := getLink s l
  16 * (v.rate + 1) * popcount 4 (v.dir d).used

/-- What the receiver of a direction does with a flit whose CRC passes (R275). -/
def goodFlit (l d ctl bad : Nat) (body : List Byte) (s : State) : State :=
  let s := hearWord l (1 - d) ctl (updDir l d (fun x => { x with badRun := 0 }) s)
  let x := (getLink s l).dir d
  let off := (bitsOf ctl 16 8 + 256 - x.expect) % 256
  if ctl.testBit 35 && decide (off = 0) then
    let f : LinkFlit := { seqNo := bitsOf ctl 16 8, cls := bitsOf ctl 32 3, op := bitsOf ctl 48 8, body := body }
    let s := updDir l d (fun x => { x with expect := (x.expect + 1) % 256, episode := false, renew := false, buf := x.buf ++ [f] }) s
    quadErrors l d bad (bump (2048 + 28 * l + 20 + f.cls) 1 s)
  else if ctl.testBit 35 && decide (128 ≤ off) then
    let s := linkCount l d 4 s
    if x.episode then discardFlit l d bad s else quadErrors l d bad s
  else if ctl.testBit 35 || x.episode then discardFlit l d bad (openEpisode l d s)
  else quadErrors l d bad s

/-- What the receiver does with a flit whose CRC fails. -/
def damagedFlit (l d bad : Nat) (s : State) : State :=
  let n := ((getLink s l).dir d).badRun + 1
  let s := discardFlit l d bad (openEpisode l d (updDir l d (fun x => { x with badRun := n }) s))
  if framingSlots s l d ≤ n then startRetrain l (1 - d) 4 0 d false s else s

/-! ### FLIT_RECEIVE (R270 to R276) -/

/-- The receiving blocks take the oldest flit of a class: of class MSG the gateway takes it into the input FIFO of its channel, where that has
room (R146, R149). What a flit of another class asks for was done as it was offered (log 106). -/
def takeFlit (l d c : Nat) (s : State) : State :=
  let x := (getLink s l).dir d
  match takeClass c x.buf with
  | (none, _) => s
  | (some f, rest) =>
    let key := msgKey (sendDie l d) f
    if c = 2 ∧ !fifoRoom s key then s
    else
      let s := updDir l d (fun x => { x with buf := rest, freed := tset 0 c ((tget 0 c x.freed + 1) % 256) x.freed }) s
      if c = 2 then flowAll (pushFifo key (msgToken f) s) else s

/-- FLIT_RECEIVE: one flit slot of direction `d`. The classes offer flits first; `err` are the wires' errors; the blocks at the
receiving end then take flits of the classes named. While the link trains, no slot carries a flit. -/
def flitReceive (l d : Nat) (offer : List (Nat × Nat × List Byte)) (takes : List Nat) (err : List (BitVec 272)) (s : State) : State :=
  if (getLink s l).st ≠ 2 then s
  else
    let new := offer.map (fun (c, op, body) => ({ seqNo := 0, cls := c, op := op, body := padTo 128 body } : LinkFlit))
    let s := updDir l d (fun x => { x with queue := x.queue ++ new }) s
    let x := (getLink s l).dir d
    let back := (getLink s l).dir (1 - d)
    let (f, x') := chooseFlit s x
    let body := match f with | some f => f.body | none => List.replicate 128 0#8
    let ctl := controlWord f x'.nextSeq back body
    let s := updDir l d (fun _ => x') s
    let s := updDir l (1 - d) (fun y => { y with crdTurn := (y.crdTurn + 1) % 8 }) s
    let s := if back.renew then openEpisode l (1 - d) (updDir l (1 - d) (fun y => { y with episode := false, renew := false }) s) else s
    let gotCtl := ctl ^^^ errCtl err
    let gotBody := xorBytes body (errBody err)
    let bad := badQuads x.used err
    let s := if flitCrc gotCtl gotBody = gotCtl % 65536 then goodFlit l d gotCtl bad gotBody s else damagedFlit l d bad s
    each takes (takeFlit l d) s

def execFlitReceive (l : Fin 10) (d : Fin 2) (offer : List (Fin 8 × Byte × List Byte)) (takes : List (Fin 8)) (err : List (BitVec 272)) (s : State) : Out :=
  .next (flitReceive l d (offer.map (fun (c, op, b) => (c.val, op.toNat, b))) (takes.map Fin.val) err s)

/-! ### NAK_RENEW, ACK_TIMEOUT, PERSIST_WINDOW -/

/-- NAK_RENEW, R275: 32 CLK_L cycles without acceptance. The next control word has NAK = 0, and a new episode follows it. -/
def nakRenew (l d : Nat) (s : State) : State :=
  if decide ((getLink s l).st = 2) && ((getLink s l).dir d).episode then updDir l d (fun x => { x with renew := true }) s else s

def execNakRenew (l : Fin 10) (d : Fin 2) (s : State) : Out := .next (nakRenew l d s)

/-- ACK_TIMEOUT, R276; it may meet a retrain that the other end has started (R278). -/
def ackTimeout (l d : Nat) (s : State) : State :=
  if stillSends (getLink s l) d && decide (((getLink s l).dir d).replay ≠ []) then replayOrTrain l d true s else s

def execAckTimeout (l : Fin 10) (d : Fin 2) (s : State) : Out := .next (ackTimeout l d s)

/-- The cycles without progress after which the transmitter replays. -/
def ackTimeoutCycles (s : State) : Nat := clampNat 64 256 (regF s 0x2C24 0 9)

/-- PERSIST_WINDOW, R278: the counts of every direction restart. -/
def persistWindow (s : State) : State :=
  each (List.range 10) (fun l s => updDir l 0 (fun x => { x with qerr := [] }) (updDir l 1 (fun x => { x with qerr := [] }) s)) s

def execPersistWindow (s : State) : Out := .next (persistWindow s)

/-! ### DLK_RETRAIN, RETRAIN_DONE (R279 to R285) -/

/-- DLK_RETRAIN, R283: a write of REQ = 1, which end A carries out. -/
def hostRetrain (l : Nat) (full : Bool) (s : State) : State :=
  match (getLink s l).train with
  | some t => updLink l (fun v => { v with train := some { t with again := some (full || t.again.getD false) } }) s
  | none => startRetrain l 0 3 0 0 full s

def execDlkRetrain (l : Fin 10) (full : Bool) (s : State) : Out := .next (if barUp s then hostRetrain l full s else s)

/-- A direction takes its width from the quads that tested good (R281). -/
def setWidth (tested : Nat) (x : LinkDir) : LinkDir :=
  let used := useQuads tested
  { x with good := tested, used := used, dropped := 15 - used }

/-- Everything queued, held for replay or received and not taken is gone, and numbers and credits restart (R285, R288). -/
def flushDir (x : LinkDir) : LinkDir := { LinkDir.init with good := x.good, used := x.used, dropped := x.dropped }
def flushLink (v : Link) : Link := { v with ab := flushDir v.ab, ba := flushDir v.ba, flushDue := false }

/-- DLK_DEGRADED of a link, with the quads dropped by this training. -/
def degraded (l dropA dropB : Nat) (s : State) : State :=
  let v := getLink s l
  raise 0x0A02 l (widthOf v.ab.used + 4 * widthOf v.ba.used) (dropA + 16 * dropB) 0 s

/-- The die that a link's loss makes fatal (R285). -/
def lostDie (l : Nat) : Nat := (linkEnds l).2

/-- The quads of a direction that pass: those that tested good, without those already dropped unless all are tested, and without a
quad that met its second strike (R282). -/
def passing (t : Train) (strike : Bool) (d good : Nat) (x : LinkDir) : Nat :=
  let g := if t.full then good else good &&& (15 - x.dropped)
  if strike && decide (t.dir = d) then setBitTo g t.quad false else g

/-- A link resumes after a pause: the agents time their slices again (R150), the events that waited on a die are accepted (R197), and tokens move
on. -/
def resumeLink (l pause : Nat) (s : State) : State :=
  let s := addPause l pause s
  flowAll (if l < 4 then acceptEvents l s else s)

/-- RETRAIN_DONE, R279: the good quads each direction tested, and the pause in ns. -/
def retrainDone (l goodA goodB pause : Nat) (s : State) : State :=
  let v := getLink s l
  match v.train with
  | none => s
  | some t =>
    let key := 4 * t.dir + t.quad
    let last := tget 0 key v.strikes
    let strike := decide (t.cause = 2 ∧ last ≠ 0 ∧ t.time + 1 < last + 1000000000)
    let strikes := if t.cause = 2 then tset 0 key (t.time + 1) v.strikes else v.strikes
    let a := setWidth (passing t strike 0 goodA v.ab) v.ab
    let b := setWidth (passing t strike 1 goodB v.ba) v.ba
    let fell := decide (widthOf a.used < widthOf v.ab.used ∨ widthOf b.used < widthOf v.ba.used)
    let down := decide (a.used = 0 ∨ b.used = 0)
    let resume := fun (x : LinkDir) => ({ x with resend := x.replay, tries := 0, badRun := 0 } : LinkDir)
    let v' := { v with st := if down then 3 else 2, train := none, strikes := strikes, ab := resume a, ba := resume b }
    let s := setLink l (if down || v.flushDue then flushLink v' else v') s
    let s := if fell then degraded l (a.dropped - (a.dropped &&& v.ab.dropped)) (b.dropped - (b.dropped &&& v.ba.dropped)) s else s
    let s := bump (2048 + 28 * l + 19) pause (bump (2048 + 28 * l + 18) 1 s)
    let s := raise 0x0A01 l (t.cause + if t.cause = 2 then 16 * t.quad else 0) (a.good + 16 * b.good) pause s
    let s := resumeLink l pause s
    if down then bbSettle (declareDie (lostDie l) 2 (raise 0x0A03 l (lostDie l) 0 0 s))
    else match t.again with
      | some full => startRetrain l 0 3 0 0 full s
      | none => s

def execRetrainDone (l : Fin 10) (goodA goodB : Fin 16) (pause : Nat) (s : State) : Out := .next (retrainDone l goodA goodB pause s)

/-- The first training of a link at bring-up (R288): every quad is tested; `true` when it trained Down, which DLK_DOWN reports (R285). -/
def firstTraining (l rate goodA goodB : Nat) (s : State) : State × Bool :=
  let a := setWidth goodA LinkDir.init
  let b := setWidth goodB LinkDir.init
  let down := decide (a.used = 0 ∨ b.used = 0)
  let s := setLink l { Link.init with st := if down then 3 else 2, rate := rate, ab := a, ba := b } s
  let s := if widthOf a.used < 3 ∨ widthOf b.used < 3 then degraded l a.dropped b.dropped s else s
  (if down then raise 0x0A03 l (lostDie l) 0 0 s else s, down)

/-- The queues and buffers of every link are flushed; a link that retrains is flushed at its resume (R288). -/
def flushLinks (s : State) : State :=
  each (List.range 10) (fun l s => updLink l (fun v => if v.train.isSome then { v with flushDue := true } else flushLink v) s) s

/-! ### LOOPBACK_SET (R286, R287) -/

/-- The next bit of a pseudo-random sequence of `n` bits of state with a tap at `k`, and its state. PRESUMED (log 110), ITU-T O.150: x^7 + x^6 + 1,
x^15 + x^14 + 1, x^31 + x^28 + 1. -/
def prbsStep (n k x : Nat) : Bool × Nat :=
  let b := xor (x.testBit (n - 1)) (x.testBit (k - 1))
  (b, (2 * x + b2n b) % 2 ^ n)

/-- The first bits of such a sequence. -/
def prbsBits (n k : Nat) : Nat → Nat → List Bool
  | 0, _ => []
  | m + 1, x => (prbsStep n k x).1 :: prbsBits n k m (prbsStep n k x).2

/-- The first `m` bits of the pattern of a wire (R287), seeded with the wire's index: a sequence's state, the word's first bit (log 110). -/
def lbPattern (pat word wire m : Nat) : List Bool :=
  match pat with
  | 0 => prbsBits 7 6 m (wire % 2 ^ 7)
  | 1 => prbsBits 15 14 m (wire % 2 ^ 15)
  | 2 => prbsBits 31 28 m (wire % 2 ^ 31)
  | _ => (List.range m).map (fun i => word.testBit ((wire + i) % 32))

/-- Bits of a wire that differ from its pattern. -/
def lbErrors (s : State) (l v : Nat) (got : List (Nat × List Bool)) : List (Nat × Nat) :=
  got.map (fun x => (x.1, ((x.2.zip (lbPattern (v / 4 % 4) (getReg s (0x2C4C + 0x40 * l)) x.1 x.2.length)).filter (fun y => y.1 != y.2)).length))

/-- LOOPBACK_SET: a write of DLK_LB_CTLn; `errs` and `lock` are what the checking end finds, by wire and by quad. -/
def loopbackSet (l v : Nat) (errs : List (Nat × Nat)) (lock : Nat) (s : State) : State :=
  let off := 0x2C48 + 0x40 * l
  let v := v % 512
  if s.glb.run then (if getReg s off = v then s else lockViol off s)
  else
    let s := setRegIn 0x3000 off v s
    let x := getLink s l
    let mode := v % 4
    if x.st = 3 then s
    else if mode = 1 ∨ mode = 2 then
      let mine := errs.filter (fun e => decide (e.1 < 1088) && (v / 16).testBit (e.1 / 272))
      setLink l { x with st := 4, train := none, lbErr := mine.foldl (fun t e => tset 0 e.1 (min 0xFFFF e.2) t) [], lbLock := lock } s
    else if x.st = 4 then
      setLink l { x with st := 1, train := some { ends := 3, cause := 3, quad := 0, dir := 0, full := true, time := devTime s, again := none } } s
    else s

/-- LOOPBACK_SET, R287: `got` are the bits that the checking end receives, by wire. -/
def execLoopbackSet (l : Fin 10) (v : BitVec 32) (got : List (Fin 1088 × List Bool)) (lock : Fin 16) (s : State) : Out :=
  .next (if barUp s then loopbackSet l v.toNat (lbErrors s l v.toNat (got.map (fun e => (e.1.val, e.2)))) lock s else s)

/-- DLK_STATUSn (Table DLK-8) and DLK_LB_ERRn for the wire that DLK_LB_IDXn selects. -/
def linkStatus (v : Link) : Nat :=
  v.st + 16 * v.rate + 256 * v.ab.good + 4096 * v.ba.good + 65536 * widthOf v.ab.used + 262144 * widthOf v.ba.used
def linkErrs (s : State) (l : Nat) : Nat :=
  let v := getLink s l
  tget 0 (regF s (0x2C50 + 0x40 * l) 0 11) v.lbErr + 65536 * v.lbLock

end Sys2Proof.Machine
end

