-- ==== Sys2Proof/Machine/Harrow.lean ====
section
/-! DEFINITION. The Harrow (R402 to R409): voted settings, passes, the watchdog, and what an uncorrectable configuration word does,
whether a pass or the using logic meets it. -/
namespace Sys2Proof.Machine

/-! ### Uncorrectable words (R402, Table HRW-4) -/

/-- The memory ID, entry index and word offset that HRW_UNCORR names (Table HRW-6). -/
def wordNames : HrwWord → Nat × Nat × Nat
  | .config u w _ => if u.val < 1024 then (0x01, u.val, w) else if u.val < 2048 then (0x02, u.val - 1024, w) else (0x02, u.val - 2048, w)
  | .regCopy i w => (0x04, i, w)
  | .table t i w => (t, i, w)
  | .fieldMap p e w => (0x05, 64 * p.val + e.val, w)
  | .slot k w => (0x06, k.val, w)
  | .master i w => (0x07, i, w)

/-- The instance that covers a word: a compute die's own memories or the I/O die's. -/
def wordCovered (h : Nat) : HrwWord → Bool
  | .config u _ _ => decide (h = plotOfUnit u.val / 16)
  | .regCopy _ _ => decide (h < 4)
  | .table t i _ => decide (h = 4) && (decide (t ∈ [0x20, 0x21, 0x22, 0x23, 0x24, 0x25, 0x40, 0x30] ∧ i < tblCount t) || decide (t = 0x10 ∧ i < 256))
  | _ => decide (h = 4)

/-- A word reported before stands as it was: nothing has rewritten it since (R405). -/
def stillBad (s : State) : HrwWord → Bool
  | .table t i _ => tblIsBad s t i
  | .fieldMap p e _ => decide (e.val < 63) && !fmValid (fmEntry s p.val e.val)
  | .slot k _ => (getBank s k.val 0).poison || (getBank s k.val 1).poison
  | _ => false

/-- Both banks of a slot are poisoned: messages bound to them that have run a pass end MODEL_POISON, the others at their first pass. -/
def poisonSlot (k : Nat) (s : State) : State :=
  let s := each [0, 1] (fun b s =>
    let x := getBank s k b
    if x.st = .empty then s else setBank k b { x with poison := true } s) s
  let ran := (s.sheaves.filter (fun x => decide (x.slot = k ∧ 0 < x.pass))).flatMap Sheaf.members ++
    (s.groups.filter (fun g => g.slot = k)).flatMap (fun g => match g.run with | some r => r.members | none => [])
  each ran (markMsg stPoison) s

/-- The outcome of an uncorrectable word. -/
def wordOutcome (w : HrwWord) (s : State) : State :=
  match w with
  | .config u _ shadow =>
    let p := plotOfUnit u.val
    let s := if shadow then
        (if u.val < 1024 then updTile u.val (fun t => { t with shadowReady := false }) s
         else if u.val < 2048 then setSu (u.val - 1024) { getSu s (u.val - 1024) with shadowReady := false } s
         else setSwitch (u.val - 2048) { getSwitch s (u.val - 2048) with shadowReady := false } s)
      else match groupOfPlot s p with
        | some g => replant 3 stTainted g.gid s
        | none => s
    plotError p s
  | .regCopy _ _ => s
  | .table t i _ =>
    let s := { s with tblBad := insertNew (tblKey t i) s.tblBad }
    if t = 0x10 then loseStation (i / 32) (i % 32) 4 s else s
  | .fieldMap p e _ =>
    if e.val = 63 then setFm p.val 63 s.glb.otp.fm63 s
    else setFm p.val e.val (overlay (fmEntry s p.val e.val) 3 [BitVec.ofNat 8 (setBitTo (byteAt (fmEntry s p.val e.val) 3) 0 false)]) s
  | .slot k _ => poisonSlot k.val s
  | .master _ _ => deviceLost 2 s

/-- An event of an instance: of a compute die's it goes over the die's link. -/
def raiseHrw (h code a0 a1 a2 : Nat) (s : State) : State := if h < 4 then raiseOn h code h a0 a1 a2 s else raise code h a0 a1 a2 s

/-- A copy of a set-up register on a compute die is fetched again from the I/O die in class CFG. -/
def refetch (h : Nat) (w : HrwWord) (s : State) : State :=
  match w with
  | .regCopy i o => sendFlit 4 h 6 1 (leBytes 4 i ++ leBytes 4 o) s
  | .config .. | .table .. | .fieldMap .. | .slot .. | .master .. => s

/-- An uncorrectable word of instance `h` is met: event, count and outcome, once until it is rewritten. -/
def hrwUncorr (h : Nat) (w : HrwWord) (s : State) : State :=
  if !wordCovered h w then s
  else if (getHrw s h).known.contains w && stillBad s w then s
  else
    let (id, i, o) := wordNames w
    let s := setHrw h { getHrw s h with known := insertNew w (getHrw s h).known } s
    wordOutcome w (refetch h w (raiseHrw h 0x1002 id i o (bump (144 + 6 * h + 2) 1 s)))

/-! ### Passes (R403 to R409) -/

/-- An instance is in service. -/
def hrwUp (s : State) (h : Nat) : Bool :=
  if h < 4 then s.glb.dieOk.testBit h && decide (4 ≤ phaseCode s)
  else decide (4 ≤ phaseCode s ∧ phaseCode s ≠ 15)
where
  phaseCode (s : State) : Nat :=
    match s.glb.phase with
    | .reset => 0 | .otp => 1 | .clocks => 2 | .links => 3 | .memory => 4 | .standby => 5 | .holdoff => 6 | .ramp => 7
    | .running => 8 | .softReset => 9 | .failed => 15

/-- An upset of a copy: its field 0 EN, 1 PERIOD, 2 PASS_MAX, 3 RETIRE_N, exclusive or with a mask. -/
def flipCfg (field mask : Nat) (c : HrwCfg) : HrwCfg :=
  match field with
  | 0 => { c with en := (c.en ^^^ mask) % 2 }
  | 1 => { c with period := (c.period ^^^ mask) % 256 }
  | 2 => { c with passMax := (c.passMax ^^^ mask) % 256 }
  | _ => { c with retireN := (c.retireN ^^^ mask) % 16 }

def flipCopy (copy field mask : Nat) (v : Hrw) : Hrw :=
  match copy with
  | 0 => { v with c0 := flipCfg field mask v.c0 }
  | 1 => { v with c1 := flipCfg field mask v.c1 }
  | _ => { v with c2 := flipCfg field mask v.c2 }

/-- A use of the settings: a copy that disagrees with the majority is rewritten and counts in HRW_TMR_FIX. -/
def hrwVote (h : Nat) (s : State) : State :=
  let v := getHrw s h
  let c := v.cfg
  let n := b2n (decide (v.c0 ≠ c)) + b2n (decide (v.c1 ≠ c)) + b2n (decide (v.c2 ≠ c))
  let s := setHrw h { v with c0 := c, c1 := c, c2 := c } s
  if n = 0 then s else bump (144 + 6 * h + 3) n s

/-- Settings written to all three copies of an instance, with its CRC. -/
def hrwStore (h : Nat) (c : HrwCfg) (s : State) : State :=
  setHrw h { getHrw s h with c0 := c, c1 := c, c2 := c, written := c, running := (getHrw s h).running && decide (c.en = 1) } s

/-- The HRW registers take instance 4's settings (R449). -/
def hrwRegs (s : State) : State :=
  let c := (getHrw s 4).cfg
  setReg 0x340C c.retireN (setReg 0x3408 c.passMax (setReg 0x3404 c.period (setReg 0x3400 c.en s)))

/-- R407: the CRC fails over the voted settings; what the two CRCs are is left open. -/
def selfFault (h : Nat) (s : State) : State :=
  let (a, s) := drawFree s
  let (b, s) := drawFree s
  let s := hrwStore h HrwCfg.init s
  let s := if h = 4 then hrwRegs s else s
  raiseHrw h 0x1003 (a.toNat % 65536) (b.toNat % 65536) 0 (bump (144 + 6 * h + 4) 1 s)

/-- HARROW_PASS_START, R403, R406: `upsets` are the upsets of the latches since their last use. -/
def passStart (h : Nat) (upsets : List (Nat × Nat × Nat)) (s : State) : State :=
  if !hrwUp s h || (getHrw s h).running then s
  else
    let s := setHrw h (upsets.foldl (fun v u => flipCopy u.1 u.2.1 u.2.2 v) (getHrw s h)) s
    let s := hrwVote h s
    let v := getHrw s h
    if v.cfg ≠ v.written then selfFault h s
    else if v.cfg.en = 0 then s
    else setHrw h { v with running := true, t0 := s.clk.now } s

def execHarrowPassStart (h : Fin 5) (upsets : List (Fin 3 × Fin 4 × Nat)) (s : State) : Out :=
  .next (passStart h (upsets.map (fun u => (u.1.val, u.2.1.val, u.2.2))) s)

/-- HARROW_PASS_DONE, R404: words corrected in the pass, and the uncorrectable words it found. -/
def passDone (h corrected : Nat) (found : List HrwWord) (s : State) : State :=
  if !(getHrw s h).running || !hrwUp s h then s
  else
    let s := setHrw h { getHrw s h with running := false, unscrubbed := false } s
    let s := bump (144 + 6 * h) 1 s
    let s := if corrected = 0 then s else raiseHrw h 0x1001 corrected 0 0 (bump (144 + 6 * h + 1) corrected s)
    each found (hrwUncorr h) s

def execHarrowPassDone (h : Fin 5) (corrected : Nat) (found : List HrwWord) (s : State) : Out :=
  .next (bbSettle (passDone h corrected found s))

/-- HRW_WATCHDOG, R408: the pass has not completed within HRW_PASS_MAX milliseconds. -/
def hrwWatchdog (h words : Nat) (s : State) : State :=
  if !(getHrw s h).running || !hrwUp s h || decide (s.clk.now < (getHrw s h).t0 + 1000000 * (getHrw s h).cfg.passMax) then s
  else
    let s := setHrw h { getHrw s h with running := false, unscrubbed := true } s
    raiseHrw h 0x1004 words 0 0 (bump (144 + 6 * h + 5) 1 s)

def execHrwWatchdog (h : Fin 5) (words : Nat) (s : State) : Out := .next (hrwWatchdog h words s)

/-- HRW_STATUS (Table HRW-7). -/
def hrwStatus (s : State) : Nat :=
  s.glb.dieFatal % 16 + 16 * b2n s.glb.deviceFatal +
    sumOf ((List.range 5).map (fun h => 2 ^ (8 + h) * b2n (getHrw s h).unscrubbed)) +
    65536 * (retiredPlots s).length + 2 ^ 24 * plotsInService s

/-! ### Uncorrectable words met by the using logic -/

/-- PARSE_WALK, R96, R402: uncorrectable words that the walk or the lookups meet take effect first. -/
def execParseWalk (fid : Nat) (met : List HrwWord) (s : State) : Out := .next (bbSettle (parseWalk fid (each met (hrwUncorr 4) s)))

/-- REPLY_BUILD, R229, R402. -/
def execReplyBuild (mid : Nat) (met : List HrwWord) (s : State) : Out := .next (bbSettle (replyBuild mid (each met (hrwUncorr 4) s)))

end Sys2Proof.Machine
end

