-- ==== Sys2Proof/Machine/Reset.lean ====
section
/-! DEFINITION. Clocks, resets and bring-up (R289 to R313, R358, R459): the six reset classes, the phases of bring-up and of a soft
reset, PERST_N and FLR, and GLB_CTL.RUN. -/
namespace Sys2Proof.Machine

/-! ### Hard and cold resets (R299, R301, R302, R309) -/

/-- A TAP instruction that GLB_CTL.RUN = 1 would refuse (R430, R431). -/
def tapBlocks (i : TapIr) : Bool :=
  match i with
  | .extest | .clamp | .highz | .extestPulse | .extestTrain | .hbm1500 => true
  | .bypass | .idcode | .sample | .diesel | .tstacc => false

/-- What a hard reset leaves of the TAP: an instruction that held the data path ends in BYPASS (R434). -/
def tapAfterHard (t : Tap) : Tap := if tapBlocks t.ir then { t with ir := .bypass } else t

/-- Everything but RST_CAUSE, the pins, the fuses and the TAP at its reset value, held in reset. -/
def hardReset (s : State) : State :=
  let r := State.reset
  let g := s.glb
  let s' := { r with
    pending := s.pending, freeCtr := s.freeCtr, tap := tapAfterHard s.tap,
    clk := { r.clk with devTime := s.clk.devTime },
    glb := { r.glb with
      powered := g.powered, railFault := g.railFault, thermtrip := g.thermtrip, pllHold := g.pllHold, devRstLow := g.devRstLow,
      perstLow := g.perstLow, smbRstLow := g.smbRstLow, pinSeed := g.pinSeed, pinSmb := g.pinSmb, strapSeed := g.strapSeed,
      strapSmb := g.strapSmb, otp := g.otp, hardLanes := g.hardLanes } }
  setReg 0x2820 g.strapSeed (setReg 0x0440 (getReg s 0x0440) s')

/-- The engine is held in reset (R297, R301, R302, R459). -/
def heldInReset (s : State) : Bool := !s.glb.powered || s.glb.devRstLow || s.glb.thermtrip || s.glb.railFault || s.glb.pllHold

/-- Bring-up starts at phase OTP when nothing holds the engine in reset. -/
def startBringup (s : State) : State := if heldInReset s then s else { s with glb := { s.glb with phase := .otp } }

/-- POWER_ON, R309: the rails have risen in their groups. The operands are what the part's fuses hold and the levels on its straps. -/
def powerOn (gen rev serial : Nat) (fm63 : List Byte) (seed smb : Nat) (s : State) : State :=
  if s.glb.powered then s
  else
    { State.reset with
      pending := s.pending, freeCtr := s.freeCtr,
      glb := { State.reset.glb with
        pinSeed := seed, pinSmb := smb, perstLow := s.glb.perstLow, smbRstLow := s.glb.smbRstLow, hardLanes := s.glb.hardLanes,
        otp := { iodGen := gen, rev := rev, serial := serial, fm63 := trimZeros (fm63.take 32) } } }

def execPowerOn (gen rev : Fin 16) (serial : BitVec 64) (fm63 : List Byte) (seed : Fin 16) (smb : Fin 8) (s : State) : Out :=
  .next (powerOn gen rev serial.toNat fm63 seed smb s)

/-- POWER_OFF, R309, R464: all state goes, a latched THERMTRIP_N with it. -/
def powerOff (s : State) : State :=
  { State.reset with
    pending := s.pending, freeCtr := s.freeCtr,
    glb := { State.reset.glb with powered := false, perstLow := s.glb.perstLow, smbRstLow := s.glb.smbRstLow, otp := s.glb.otp, hardLanes := s.glb.hardLanes } }

def execPowerOff (s : State) : Out := .next (powerOff s)

/-- RAIL_FAULT, R459: monitored from the release of DEV_RST_N. -/
def railFault (s : State) : State :=
  if !s.glb.powered || s.glb.devRstLow then s
  else hardReset { s with glb := { s.glb with railFault := true } }

def execRailFault (s : State) : Out := .next (railFault s)

/-- DEV_RST_ASSERT, R301, R465: the pin has been low for `ns`. Below 1 µs it is ignored; from 1 µs to 10 µs it may or may not reset. -/
def devRstAssert (ns : Nat) (s : State) : State :=
  if ns < 1000 then s
  else
    let (w, s) := if ns < 10000 then drawFree s else (1, s)
    if w.getLsbD 0 then
      hardReset { orReg 0x0440 2 s with glb := { s.glb with devRstLow := true } }
    else s

def execDevRstAssert (ns : Nat) (s : State) : Out := .next (devRstAssert ns s)

/-- DEV_RST_RELEASE, R310, R311: the straps are sampled and bring-up starts. -/
def devRstRelease (s : State) : State :=
  if !s.glb.devRstLow then s
  else
    let s := { s with glb := { s.glb with devRstLow := false, strapSeed := s.glb.pinSeed, strapSmb := s.glb.pinSmb } }
    startBringup (setReg 0x2820 s.glb.strapSeed s)

def execDevRstRelease (s : State) : Out := .next (devRstRelease s)

/-- THERMAL_TRIP, R302. -/
def thermalTrip (s : State) : State :=
  if !s.glb.powered then s else hardReset { s with glb := { s.glb with thermtrip := true } }

def execThermalTrip (s : State) : Out := .next (thermalTrip s)

/-- PLL_LOSS, R297. -/
def pllLoss (s : State) : State :=
  if !s.clk.pllLock then s else hardReset { orReg 0x0440 4 s with glb := { s.glb with pllHold := true } }

def execPllLoss (s : State) : Out := .next (pllLoss s)

/-- PLL_RELOCK, R297: bring-up runs from phase OTP. -/
def pllRelock (s : State) : State :=
  if !s.glb.pllHold then s else startBringup { s with glb := { s.glb with pllHold := false } }

def execPllRelock (s : State) : Out := .next (pllRelock s)

/-! ### Bring-up (R311, R313) -/

/-- Bring-up ends in FAILED with its cause. -/
def bringupFail (cause : Nat) (s : State) : State :=
  latchAlert 0 { s with glb := { s.glb with phase := .failed, fail := cause } }

/-- The dies named are held fatal; with none left bring-up fails. -/
def bringupDies (bad : List Nat) (s : State) : State :=
  let s := each bad (fun d s => declareDie d 3 s) s
  if s.glb.dieFatal % 16 = 15 then bringupFail 3 s else s

/-- BRINGUP_OTP_DONE: the fuses are loaded and their CRC holds or fails. -/
def otpDone (good : Bool) (s : State) : State :=
  if s.glb.phase ≠ .otp then s
  else if good then { s with glb := { s.glb with phase := .clocks } }
  else bringupFail 1 s

def execBringupOtpDone (good : Bool) (s : State) : Out := .next (otpDone good s)

/-- BRINGUP_CLOCKS_LOCKED: whether the root PLL locked, and the dies whose DLLs did. -/
def clocksLocked (pll : Bool) (dlls : Nat) (s : State) : State :=
  if s.glb.phase ≠ .clocks then s
  else if !pll then bringupFail 2 s
  else
    let s := { s with
      clk := { s.clk with pllLock := true, refOk := true, dllLock := dlls, devTime := 0, mirror := [], trim := 0, frac := 0, slew := 0 },
      glb := { s.glb with phase := .links, dieOk := 15 } }
    bringupDies ((List.range 4).filter (fun d => !dlls.testBit d)) s

def execBringupClocksLocked (pll : Bool) (dlls : Fin 16) (s : State) : Out := .next (clocksLocked pll dlls s)

/-- RATE of a link: an IOD link takes the I/O die's (Table DLK-2). -/
def linkRate (s : State) (l : Nat) : Nat := if l < 4 ∧ s.glb.otp.iodGen = 2 then 0 else 1

/-- BRINGUP_LINKS_TRAINED, R288: the good quads of each direction of links 0 to 9. -/
def linksTrained (quads : List (Nat × Nat)) (s : State) : State :=
  if s.glb.phase ≠ .links then s
  else
    let (s, lost) := (List.range 10).foldl (fun (a : State × List Nat) l =>
      let q := (quads[l]?).getD (0, 0)
      let (s, down) := firstTraining l (linkRate s l) q.1 q.2 a.1
      (s, if down then insertNew (lostDie l) a.2 else a.2)) (s, [])
    let s := { s with glb := { s.glb with phase := .memory } }
    bringupDies lost s

def execBringupLinksTrained (quads : List (Fin 16 × Fin 16)) (s : State) : Out :=
  .next (linksTrained (quads.map (fun q => (q.1.val, q.2.val))) s)

/-- BRINGUP_MEMORY_DONE: the stacks that trained; every mapped half holds zeros and valid check bytes. -/
def memoryDone (good : Nat) (s : State) : State :=
  if s.glb.phase ≠ .memory ∨ s.glb.memDone = true then s
  else
    let s := { s with glb := { s.glb with memDone := true }, mem := { s.mem with hbm := [], poison := [], bist := [] } }
    bringupDies ((List.range 4).filter (fun d => !good.testBit d)) s

def execBringupMemoryDone (good : Fin 16) (s : State) : Out := .next (memoryDone good s)

/-- RUN is in force and the engine stands in STANDBY: the hold-off begins, or a drain asked for before keeps it drained (R331, R334). -/
def afterStandby (s : State) : State :=
  if s.glb.phase ≠ .standby then s
  else if s.yoke.drainReq then
    let s := { s with yoke := { s.yoke with drainReq := false } }
    setYok 6 s
  else if s.glb.run ∧ yokState s = 1 then enterHoldoff s
  else s

/-- A RUN = 1 that is held takes effect: at STANDBY or later, with no TAP instruction that it would refuse (R312, R431). -/
def applyRun (s : State) : State :=
  let early := match s.glb.phase with
    | .reset | .otp | .clocks | .links | .memory => true
    | _ => false
  if !s.glb.runHeld || early || tapBlocks s.tap.ir then s
  else afterStandby { s with glb := { s.glb with run := true, runHeld := false } }

/-- STANDBY_REACHED, R311, R314: `pstd` is the standby power measured, in mW. -/
def standbyReached (pstd : Nat) (s : State) : State :=
  if s.glb.phase ≠ .memory ∨ s.glb.memDone = false then s
  else
    let s := { s with glb := { s.glb with phase := .standby }, yoke := { s.yoke with pstd := pstd, level := pstd } }
    afterStandby (applyRun (yokReport (setYok 1 s)))

def execStandbyReached (pstd : Nat) (s : State) : Out := .next (standbyReached pstd s)

/-- RUN_SET, R358: a write of GLB_CTL.RUN = 1. -/
def runSet (s : State) : State :=
  if s.glb.run then s else applyRun { s with glb := { s.glb with runHeld := true } }

def execRunSet (s : State) : Out :=
  if barUp s && decide (s.glb.otp.iodGen ≠ 2 ∧ s.glb.otp.iodGen ≠ 3) then .fault .partNotCovered
  else .next (if barUp s then runSet s else s)

/-! ### Soft reset (R303, R304, R308) -/

/-- Power falls to standby at once in the immediate form (R304). -/
def dropLevel (s : State) : State := { s with yoke := { s.yoke with level := s.yoke.pstd } }

/-- A request: `src` is its bit of RST_CAUSE, 3 host, 4 two-wire port, 5 PERST_N. -/
def softRequest (src : Nat) (imm : Bool) (s : State) : State :=
  if s.glb.deviceFatal then bump 65 1 s
  else if s.glb.soft ≠ .off then
    if imm ∧ s.glb.soft = .ramp ∧ s.glb.softImm = false then
      dropLevel (orReg 0x0440 (2 ^ src) { s with glb := { s.glb with softImm := true } })
    else bump 65 1 s
  else if s.glb.phase ≠ .running then bump 65 1 s
  else
    let s := orReg 0x0440 (2 ^ src) s
    let s := { s with glb := { s.glb with phase := .softReset, soft := .ramp, softImm := imm, softT0 := s.clk.now },
                      yoke := { s.yoke with drainReq := s.yoke.drainReq || decide (yokState s = 5), holding := false, holdSched := false, startAt := none } }
    let s := if yokState s = 6 then s else setYok 7 s
    if imm then dropLevel s else s

/-- SOFT_RST, R303: a write of GLB_CTL.SOFT_RST = 1 with the SOFT_IMM of the same write. -/
def execSoftRst (imm : Bool) (s : State) : Out :=
  .next (if barUp s then softRequest 3 imm (setReg 0x0004 (4 * b2n imm) s) else s)

/-- SOFT_RESET_QUIESCE, phase 2: the ramp has reached standby. -/
def softQuiesce (s : State) : State :=
  if s.glb.soft ≠ .ramp ∨ s.yoke.pstd < s.yoke.level then s
  else
    let s := { s with glb := { s.glb with soft := .quiesce } }
    let s := abortDescs 0x45 (if yokState s = 6 then s else setYok 1 s)
    let coming := (s.frames.filter (fun f => !f.ended)).length
    let s := dropTraffic (silenceAll s)
    if coming = 0 then s else bump 66 coming s

def execSoftResetQuiesce (s : State) : Out := .next (bbSettle (softQuiesce s))

/-- The items of Table RST-2 that a soft reset clears. -/
def clearPath (s : State) : State :=
  let s := each ((List.range 128).filter (fun k => decide (synVal s k ≠ 0) || synSat s k)) (fun k s => setSynSat k false (setSyn k 0 s)) s
  { s with
    streams := [], msgs := [], frames := [], egress := [], sheaves := [], waits := [], tiles := [], switches := [], sus := [],
    plg := { s.plg with gleans := [] }, fab := Fab.init,
    groups := s.groups.map (fun g =>
      { g with gen := 0, cfg := 0, size := 1, run := none, trans := none, orphans := 0, firstUnit := 0, firstTag := 0, tables := [],
               rot := none, reload := false, unfilled := if (getBank s g.slot g.bank).pin then g.plots else [] }),
    plots := (s.plots.map (fun (p, v) => (p, { v with buf := [], bufBad := [], waitT0 := none, sums := [] }))).filter (fun x => decide (x.2 ≠ Plot.init)),
    mem := { s.mem with rlc := [], dir := [], fills := [], lines := [] },
    ports := s.ports.map (fun (n, p) =>
      (n, { p with stations := (p.stations.map (fun (i, v) => (i, { v with st := 0, preadmit := false, miss := 0, held := none }))).filter (fun x => decide (x.2 ≠ Station.init)),
                   repairs := [], windows := [], signon := none, ctls := [], acks := [], echoes := [], rx := none, rxNext := none })),
    yoke := { s.yoke with dies := s.yoke.dies.map (fun (d, y) => (d, { y with credit := 0, reserve := 0, demand := 0 })) |>.filter (fun x => decide (x.2 ≠ YokeDie.init)) } }

/-- Plots that a rotation in progress had taken become free. -/
def dropRotations (s : State) : State :=
  each s.groups (fun g s => match g.rot with
    | some r => each (r.target.filter (fun p => p ∉ g.plots)) freePlot s
    | none => s) s

/-- A slot whose entry fails its checksum: both banks EMPTY (R303). -/
def slotBad (k : Nat) (s : State) : State :=
  let v := getSlot s k
  let code := fun (b : Bank) => match b.st with | .empty => 0 | .loading => 1 | .ready => 2 | .active => 3
  emptyBank k 1 (emptyBank k 0 (raise 0x0B03 k (code v.a) (code v.b) 0 s))

/-- SOFT_RESET_CLEAR, phase 3: once every retraction has left and no frame is on a backbone interface. `bad` are the slots whose
entries fail their checksum. -/
def softClear (bad : Nat) (s : State) : State :=
  if s.glb.soft ≠ .quiesce ∨ s.msgs ≠ [] ∨ s.bbs.any (fun b => b.2.tx.isSome) = true then s
  else
    let s := { s with glb := { s.glb with soft := .clear } }
    let s := flushLinks (clearPath (dropRotations (abandonInstalls 1 s)))
    let s := each (List.range 16) clearWatch s
    each (onesOf 16 bad) slotBad s

def execSoftResetClear (bad : Fin 65536) (s : State) : Out := .next (softClear bad s)

/-- SOFT_RESET_RESTORE_DONE, phase 4: resident areas are refilled, RST_DONE, and the hold-off step follows. -/
def softRestore (s : State) : State :=
  if s.glb.soft ≠ .clear then s
  else
    let s := each (s.groups.flatMap Group.unfilled) (fun p s => residentFill p [] s) s
    let us := (s.clk.now - s.glb.softT0) / 1000
    let s := { s with glb := { s.glb with soft := .off, softImm := false, phase := .standby } }
    let s := bump 67 1 (raise 0x0B01 0 0 us 0 s)
    readySheaves (placeUnplaced (afterStandby s))

def execSoftResetRestoreDone (s : State) : Out := .next (bbSettle (softRestore s))

/-! ### PERST_N, FLR (R305 to R307, R312, R359) -/

/-- The MSI-X table returns to its reset values. -/
def clearMsix (s : State) : State :=
  { s with regs := tclear 0x0C00 0x400 s.regs, hif := { s.hif with pba := 0 } }

/-- The host interface resets: every EN reads 0, the engine's copies of descriptors are gone, MSI-X is cleared. -/
def hostReset (s : State) : State :=
  let s := each (List.range 36) (fun r s => setRegIn 0x1000 (0x090C + 16 * r) 0 (setRegIn 0x1000 (0x0B40 + 4 * r) 0 s)) (setReg 0x0800 0 s)
  clearMsix { s with hif := { s.hif with en := false, polling := false, interval := 0, pollDue := 0, turn := 0, rings := [], sqs := [], shDirty := false, trig := [], bufs := [], xqOk := true } }

/-- Messages from INJECT end INTERNAL and send nothing; what executed is abandoned (R306). -/
def cutHost (cause : Nat) (s : State) : State :=
  let mine := (s.msgs.filter (fun m => m.origin.isSome)).map Msg.mid
  let waits := s.waits.filter (fun w => !decide (1024 ≤ w.req ∧ w.req < 1040))
  let s := hostReset { s with waits := waits, streams := s.streams.map (fun (k, v) => (k, { v with closeWait := none })),
                              frames := s.frames.filter (fun f => f.origin.isNone || f.mid.isSome) }
  let s := each mine (fun m s =>
    failMsg stInternal m (leaveSheaf m (updMsg m (fun x => { x with silent := true, outputs := none, staged := false, rowsOut := [], loc := .idle }) s))) s
  abandonInstalls cause s

/-- PERST_ASSERT, R305, R465: the pin has been low for `ns`. -/
def perstAssert (ns : Nat) (s : State) : State :=
  if ns < 1000 ∨ s.glb.perstLow = true ∨ s.glb.powered = false then s
  else
    let s := orReg 0x0440 64 { s with glb := { s.glb with perstLow := true } }
    if !s.glb.run then hostReset s
    else
      let s := latchAlert 5 s
      let s := { s with glb := { s.glb with iso := .perst, isoT0 := s.clk.now } }
      let s := cutHost 2 s
      if (getReg s 0x0804).testBit 0 then s else softRequest 5 false s

def execPerstAssert (ns : Nat) (s : State) : Out := .next (bbSettle (perstAssert ns s))

/-- PERST_RELEASE, R312. -/
def execPerstRelease (s : State) : Out := .next { s with glb := { s.glb with perstLow := false } }

/-- FLR, R306. -/
def flr (s : State) : State :=
  if !barUp s then s
  else
    let s := orReg 0x0440 128 s
    cutHost 3 { s with glb := { s.glb with iso := .flr, isoT0 := s.clk.now } }

def execFlr (s : State) : Out := .next (bbSettle (flr s))

/-! ### SMB_RST_N (R429, R465) -/

/-- The port block at its reset values. -/
def twpReset (s : State) : State :=
  { s with twp := Twp.init, alert := { latched := 0, pending := 0 }, regs := tclear 0x3800 0x20 s.regs }

/-- SMB_RST: the pin has been low for `ns`: below 1 µs ignored, below 10 µs it may or may not reset. -/
def smbRst (ns : Nat) (s : State) : State :=
  if ns < 1000 ∨ s.glb.powered = false then s
  else
    let (w, s) := if ns < 10000 then drawFree s else (1, s)
    if w.getLsbD 0 then twpReset { s with glb := { s.glb with smbRstLow := true } } else s

def execSmbRst (ns : Nat) (s : State) : Out := .next (smbRst ns s)

/-- SMB_RST_RELEASE, R310, R416: SMB_ADDR is sampled again. -/
def execSmbRstRelease (s : State) : Out :=
  .next (if s.glb.smbRstLow then { s with glb := { s.glb with smbRstLow := false, strapSmb := s.glb.pinSmb } } else s)

/-! ### DEV_TIME (R295, R449) -/

/-- DEV_TIME_LOAD: a write of CLK_TIME_SET_LO loads DEV_TIME before RUN; after it the write is refused. -/
def devTimeLoad (lo : Word) (s : State) : State :=
  if s.glb.run then (if getReg s 0x0420 = lo.toNat then s else lockViol 0x0420 s)
  else
    let s := setReg 0x0420 lo.toNat s
    { s with clk := { s.clk with devTime := BitVec.ofNat 64 (getReg s 0x0424 * 2 ^ 32 + lo.toNat) } }

def execDevTimeLoad (lo : Word) (s : State) : Out := .next (if barUp s then devTimeLoad lo s else s)

/-- What a BAR0 read returns to the host. -/
def answerWord (v : Nat) (s : State) : State := { s with answer := some { data := leBytes 4 v, poisoned := false } }

/-- DEV_TIME_LO_READ: the low half goes to the host, the high half into DEV_TIME's latch. -/
def devTimeLoRead (s : State) : State :=
  answerWord (devTime s % 2 ^ 32) { s with clk := { s.clk with latchHi := BitVec.ofNat 32 (devTime s / 2 ^ 32) } }

def execDevTimeLoRead (s : State) : Out := .next (if barUp s then devTimeLoRead s else s)

end Sys2Proof.Machine
end

