-- ==== Sys2Proof/Machine/TwoWire.lean ====
section
/-! DEFINITION. The two-wire management port (R410 to R429). A transfer is one command: its operands are the address byte, and for a
write the bytes between the command byte and the STOP; what the port sends stands in State.twp. -/
namespace Sys2Proof.Machine

/-- CRC-8 of the PEC: x^8 + x^2 + x + 1, from 0x00, most significant bit first (R423). -/
def pec (bs : List Byte) : Nat := crcMsb 8 0x07 0 bs

/-! ### Addresses (R416 to R418) and availability (R410) -/

def twpPrimary (s : State) : Nat := 0x58 + s.glb.strapSmb % 8
def twpMode (s : State) : Nat := regF s 0x3804 8 2

/-- An address that a secondary or masked address never matches. -/
def twpExcluded (s : State) (a : Nat) : Bool := decide (a < 8 ∨ a = 0x0C ∨ 0x78 ≤ a ∨ a = twpPrimary s)

inductive AddrKind where
  | other | full | masked
  deriving DecidableEq, Repr

/-- How the port takes an address: not its own, as primary or secondary, or as a masked address. -/
def addrKind (s : State) (a : Nat) : AddrKind :=
  if a = twpPrimary s then .full
  else if twpExcluded s a then .other
  else if twpMode s = 1 then
    if [0x3808, 0x380C, 0x3810].any (fun r => decide (getReg s r = 128 + a)) then .full else .other
  else if twpMode s = 2 then
    if (a ^^^ regF s 0x3808 0 7) &&& regF s 0x380C 0 7 = 0 then .masked else .other
  else .other

/-- The command codes that the port offers now. -/
def codeOffered (s : State) (code : Nat) : Bool :=
  match s.glb.phase with
  | .reset => false
  | .otp | .clocks | .links | .memory => decide (code = 0x00 ∨ code = 0x01 ∨ code = 0xFE)
  | _ => true

/-- The port answers: it has power and is not held in reset (R410, R429). -/
def twpUp (s : State) : Bool := !heldInReset s && !s.glb.smbRstLow && decide (s.glb.phase ≠ .reset)

/-- Codes of Table TWP-2 that can be read, and that can be written. -/
def readCodes : List Nat := [0x00, 0x01, 0x02, 0x10, 0x11, 0x12, 0x13, 0x14, 0x15, 0x16, 0x17, 0x20, 0x21, 0x30, 0x31, 0x41, 0xF0, 0xFE]
def writeCodes : List Nat := [0x30, 0x31, 0x32, 0x40, 0xF0, 0xFE, 0xFF]
def maskedCodes : List Nat := [0x30, 0x31, 0x32, 0xFF]

/-! ### Transfers (R419, R423, R424) -/

/-- The port NACKs. -/
def twpNack (s : State) : State := bump 89 1 { s with twp := { s.twp with reply := [], nacked := true } }

/-- PEC_ERR or CMD_ERR is set, which latches the PORT source (Table TWP-4). -/
def twpFlag (bit : Nat) (s : State) : State := orReg 0x381C (2 ^ bit) s
def cmdErr (s : State) : State := latchAlert 6 (twpFlag 4 s)

/-- A transfer that the port acknowledged; `bs` are the bytes it sent. -/
def twpDone (bs : List Byte) (s : State) : State := bump 88 1 { s with twp := { s.twp with reply := bs, nacked := false } }

/-- A read: the image taken at the command byte, then its PEC (R420, R423). -/
def twpRead (code a : Nat) (img : State → List Byte) (s : State) : State :=
  if !twpUp s then s
  else match addrKind s a with
    | .other => s
    | .masked => twpNack s
    | .full =>
      if !codeOffered s code then twpNack s
      else
        let bs := img s
        let head : List Byte := [BitVec.ofNat 8 (2 * a), BitVec.ofNat 8 code, BitVec.ofNat 8 (2 * a + 1)]
        twpDone (bs ++ [BitVec.ofNat 8 (pec (head ++ bs))]) s

/-- A write of a form with `n` data bytes: `f` is its effect where the data and any PEC are as they must be. -/
def twpWrite (code n a : Nat) (data : List Byte) (f : List Byte → State → State) (s : State) : State :=
  if !twpUp s then s
  else
    let k := addrKind s a
    if k = .other then s
    else if !codeOffered s code || (decide (k = .masked) && !maskedCodes.contains code) then twpNack s
    else if data.length = n + 1 then
      let good := pec ([BitVec.ofNat 8 (2 * a), BitVec.ofNat 8 code] ++ data.take n) = byteAt data n
      if good then f (data.take n) (twpDone [] s)
      else bump 90 1 (latchAlert 6 (twpFlag 3 (twpNack s)))
    else if data.length = n ∧ (getReg s 0x3800).testBit 1 = false then f data (twpDone [] s)
    else cmdErr (twpDone [] s)

/-- TWP_BOARD_CMD (Table TWP-6) of a command that takes effect at once. -/
def boardCmd (code v : Nat) (s : State) : State := raise 0x1102 0 code v 0 s

/-! ### Identity and status (Table TWP-3) -/

/-- The fuses are loaded and checked. -/
def otpLoaded (s : State) : Bool :=
  match s.glb.phase with
  | .reset | .otp => false
  | .failed => decide (s.glb.fail ≠ 1)
  | _ => true

def identBytes (s : State) : List Byte :=
  let v := otpLoaded s
  leBytes 1 16 ++ leBytes 2 0x0640 ++ leBytes 1 (if v then s.glb.otp.iodGen else 0) ++ leBytes 1 (b2n v) ++
    leBytes 8 (if v then s.glb.otp.serial else 0) ++ leBytes 2 (if v then s.glb.otp.rev else 0) ++
    leBytes 1 (s.glb.strapSmb % 8) ++ leBytes 1 (s.glb.strapSeed % 16)

/-- GLB_STATUS.PHASE (Table RST-8). -/
def phaseNum (p : Phase) : Nat :=
  match p with
  | .reset => 0 | .otp => 1 | .clocks => 2 | .links => 3 | .memory => 4 | .standby => 5 | .holdoff => 6 | .ramp => 7
  | .running => 8 | .softReset => 9 | .failed => 15

/-- SMB_ALERT_N is driven low (R426). -/
def alertLow (s : State) : Bool := (getReg s 0x3800).testBit 3 && decide (s.alert.pending ≠ 0)

def statusWord (s : State) : Nat :=
  phaseNum s.glb.phase + 16 * (s.glb.dieOk % 16) + 256 * b2n (faultLow s) + 512 * b2n s.glb.deviceFatal + 1024 * b2n (alertLow s) +
    2048 * b2n (s.glb.perstLow || !connected s) + 4096 * b2n s.glb.run + 8192 * b2n (decide (yokState s = 6)) +
    16384 * b2n ((getReg s 0x381C).testBit 4) + 32768 * b2n ((getReg s 0x381C).testBit 3)

def summaryBytes (s : State) : List Byte :=
  leBytes 1 8 ++ leBytes 1 s.alert.latched ++ leBytes 1 s.alert.pending ++ leBytes 1 (getReg s 0x381C) ++
    leBytes 1 (retiredPlots s).length ++ leBytes 1 (getReg s 0x0440) ++ leBytes 1 (yokState s) ++ leBytes 2 0

def execIdent (a : Fin 128) (s : State) : Out := .next (twpRead 0x00 a identBytes s)
def execStatus (a : Fin 128) (s : State) : Out := .next (twpRead 0x01 a (fun s => leBytes 2 (statusWord s)) s)
def execEventSummary (a : Fin 128) (s : State) : Out := .next (twpRead 0x02 a summaryBytes s)

/-! ### Temperatures (R419): signed 16 bits in 0.25 °C, 0x8000 without a reading -/

def noTemp : Int := -32768

/-- The hottest plot sensor of a die, by the copy of the last epoch (R413). -/
def dieTemp (s : State) (d : Nat) : Int :=
  if s.glb.dieFatal.testBit d || !s.glb.dieOk.testBit d then noTemp
  else match s.yoke.hot[d]? with
    | some t => t
    | none => noTemp

def hotter (l : List Int) : Int := l.foldl max noTemp
def tempBytes (t : Int) : List Byte := leBytes 2 (ofSigned 16 t)
def readings (l : List (BitVec 16)) : List Int := l.map (fun t => toSigned 16 t.toNat)

def execTempCd (a : Fin 128) (d : Fin 4) (s : State) : Out := .next (twpRead (0x10 + d) a (fun s => tempBytes (dieTemp s d)) s)
/-- TEMP_IOD: `iod` are the four I/O-die sensors. -/
def execTempIod (a : Fin 128) (iod : List (BitVec 16)) (s : State) : Out := .next (twpRead 0x14 a (fun _ => tempBytes (hotter (readings iod))) s)
/-- TEMP_HBM: `hbm` are the stacks. -/
def execTempHbm (a : Fin 128) (hbm : List (BitVec 16)) (s : State) : Out := .next (twpRead 0x15 a (fun _ => tempBytes (hotter (readings hbm))) s)
def execTempMax (a : Fin 128) (iod hbm : List (BitVec 16)) (s : State) : Out :=
  .next (twpRead 0x16 a (fun s => tempBytes (hotter (readings (iod ++ hbm) ++ (List.range 4).map (dieTemp s)))) s)

/-- THERMAL_STATE, by the copy of the last epoch (R413). -/
def execThermalState (a : Fin 128) (s : State) : Out := .next (twpRead 0x17 a (fun s => leBytes 2 s.yoke.caps) s)

/-! ### Power (R419, R421) -/

def execPkgPower (a : Fin 128) (s : State) : Out :=
  .next (twpRead 0x20 a (fun s => leBytes 2 (getReg s 0x288C) ++ leBytes 2 (getReg s 0x2888)) s)

def execYokeState (a : Fin 128) (s : State) : Out :=
  .next (twpRead 0x21 a (fun s => leBytes 1 8 ++ leBytes 1 (yokState s) ++ leBytes 1 0 ++ leBytes 2 (getReg s 0x2890) ++
    leBytes 2 (getReg s 0x2894) ++ leBytes 2 (getReg s 0x2898)) s)

/-- DRAIN: 1 drains, 0 resumes, 2 resumes with NOW, through the Yoke head's next epoch (R421). In phase FAILED it has no effect (R410). -/
def drainWrite (d : List Byte) (s : State) : State :=
  let v := byteAt d 0
  if 2 < v then cmdErr s
  else if s.glb.phase = .failed then s
  else { s with yoke := { s.yoke with board := s.yoke.board ++ [v] } }

def execDrain (a : Fin 128) (data : List Byte) (s : State) : Out := .next (twpWrite 0x30 1 a data drainWrite s)
def execDrainRead (a : Fin 128) (s : State) : Out :=
  .next (twpRead 0x30 a (fun s => leBytes 1 (b2n (decide (yokState s = 5 ∨ yokState s = 6)))) s)

/-- CEILING_SET: the board's ceiling, which the head adopts at its next epoch (R329). -/
def ceilingWrite (d : List Byte) (s : State) : State :=
  let v := leAt d 0 2
  if v < 160 then cmdErr s
  else if s.glb.phase = .failed then s
  else { s with yoke := { s.yoke with ceils := s.yoke.ceils ++ [(1, min 1800 v)] } }

def execCeilingSet (a : Fin 128) (data : List Byte) (s : State) : Out := .next (twpWrite 0x31 2 a data ceilingWrite s)
def execCeilingRead (a : Fin 128) (s : State) : Out := .next (twpRead 0x31 a (fun s => leBytes 2 (getReg s 0x289C)) s)

/-- A soft-reset request is accepted (R303, R308, R400). -/
def softAccepts (imm : Bool) (s : State) : Bool :=
  !s.glb.deviceFatal && (decide (s.glb.soft = .off ∧ s.glb.phase = .running) || (imm && decide (s.glb.soft = .ramp) && !s.glb.softImm))

def softWrite (d : List Byte) (s : State) : State :=
  let v := byteAt d 0
  if v ≠ 0xA5 ∧ v ≠ 0x5A then cmdErr s
  else
    let imm := decide (v = 0x5A)
    let ok := softAccepts imm s
    let s := softRequest 4 imm s
    if ok then boardCmd 0x32 v s else s

def execSoftReset (a : Fin 128) (data : List Byte) (s : State) : Out := .next (twpWrite 0x32 1 a data softWrite s)

/-! ### Counter snapshots (R425) -/

def snapWrite (d : List Byte) (s : State) : State :=
  let w := leAt d 0 4
  let i := bitsOf w 0 16
  let n := bitsOf w 16 8
  if n = 0 ∨ 31 < n ∨ 4096 < i + n ∨ 2 ^ 25 ≤ w then cmdErr s
  else
    let idx := (List.range n).map (· + i)
    let s := { s with twp := { s.twp with snap := idx.flatMap (fun k => leBytes 8 (tget 0 k s.cnt).toNat) } }
    if w.testBit 24 then each idx clearCounter s else s

def execCounterSnap (a : Fin 128) (data : List Byte) (s : State) : Out := .next (twpWrite 0x40 4 a data snapWrite s)

/-- The bytes that the next COUNTER_READ returns. -/
def snapNext (s : State) : List Byte := s.twp.snap.take (if (getReg s 0x3800).testBit 2 then 248 else 32)

/-- COUNTER_READ: the bytes sent leave the buffer. -/
def counterRead (a : Nat) (s : State) : State :=
  let bs := snapNext s
  let t := twpRead 0x41 a (fun s => leBytes 1 (snapNext s).length ++ snapNext s) s
  if twpUp s && decide (addrKind s a = .full) && codeOffered s 0x41 then { t with twp := { t.twp with snap := t.twp.snap.drop bs.length } } else t

def execCounterRead (a : Fin 128) (s : State) : Out := .next (counterRead a s)

/-! ### Configuration (R411, R417) -/

/-- An ADDR_CFG that R417 accepts. -/
def addrCfgOk (s : State) (b : List Byte) : Bool :=
  let mode := byteAt b 0
  let named := ([1, 2, 3] : List Nat).filterMap (fun k => if 128 ≤ byteAt b k then some (byteAt b k % 128) else none)
  if mode = 0 then true
  else if mode = 1 then named.all (fun a => !twpExcluded s a) && decide named.Nodup
  else decide (mode = 2 ∧ byteAt b 1 < 128 ∧ byteAt b 2 < 128 ∧ byteAt b 3 = 0) && !twpExcluded s (byteAt b 1)

/-- ADDR_CFG: a count byte of 4, then the four bytes. -/
def addrCfg (d : List Byte) (s : State) : State :=
  let b := d.drop 1
  if !addrCfgOk s b then cmdErr s
  else
    let mode := byteAt b 0
    let v := fun k => if mode = 0 then 0 else if mode = 1 then (if 128 ≤ byteAt b k then byteAt b k else 0) else if k = 3 then 0 else byteAt b k
    let s := setReg 0x3810 (v 3) (setReg 0x380C (v 2) (setReg 0x3808 (v 1) (setReg 0x3804 (256 * mode) s)))
    boardCmd 0xF0 mode { s with twp := { s.twp with addrCfg := b } }

def execAddrCfg (a : Fin 128) (data : List Byte) (s : State) : Out :=
  .next (if twpUp s && decide (addrKind s a = .full) && codeOffered s 0xF0 && decide (byteAt data 0 ≠ 4) then twpNack s
    else twpWrite 0xF0 5 a data addrCfg s)

def execAddrCfgRead (a : Fin 128) (s : State) : Out := .next (twpRead 0xF0 a (fun s => leBytes 1 4 ++ s.twp.addrCfg) s)

def execPortStatus (a : Fin 128) (data : List Byte) (s : State) : Out :=
  .next (twpWrite 0xFE 2 a data (fun d s => setReg 0x3800 (byteAt d 0 % 16) s) s)

def execPortStatusRead (a : Fin 128) (s : State) : Out :=
  .next (twpRead 0xFE a (fun s => leBytes 2 (getReg s 0x3800 % 16 + 16 * (s.glb.strapSmb % 8) + 256 * (getReg s 0x381C % 256))) s)

/-! ### Alerts (R426 to R428) -/

/-- Sources whose condition holds now, so that CLEAR_FAULTS latches them again. -/
def heldSources (s : State) : Nat :=
  let link := (List.range 10).any (fun l => let v := getLink s l; decide (v.st = 3) || (decide (v.st = 2) && decide (widthOf v.ab.used < 3 ∨ widthOf v.ba.used < 3)))
  b2n (faultLow s) + 2 * b2n (s.plots.any (fun p => decide (p.2.cap ≠ 0))) +
    4 * b2n (decide (yokState s = 6) || s.yoke.dies.any (fun d => d.2.safe || d.2.diverged)) + 8 * b2n link +
    16 * b2n (s.hrw.any (fun h => h.2.unscrubbed)) + 32 * b2n (!connected s)

/-- CLEAR_FAULTS. -/
def clearFaults (s : State) : State := setReg 0x381C 0 { s with alert := { latched := heldSources s, pending := 0 } }

def execClearFaults (a : Fin 128) (data : List Byte) (s : State) : Out := .next (twpWrite 0xFF 0 a data (fun _ s => clearFaults s) s)

/-- The address that TWP_ALERT_MAP gives a source. -/
def alertAddr (s : State) (b : Nat) : Nat :=
  let k := regF s 0x3818 (2 * b) 2
  let w := getReg s (0x3804 + 4 * k)
  if k ≠ 0 ∧ twpMode s = 1 ∧ 128 ≤ w then w % 128 else twpPrimary s

/-- ALERT_RESPONSE: a read of 0x0C, in which the port wins or loses arbitration. -/
def alertResponse (won : Bool) (s : State) : State :=
  if !twpUp s then s
  else match (onesOf 7 s.alert.pending).head? with
    | none => twpNack s
    | some b =>
      let s := twpDone [BitVec.ofNat 8 (2 * alertAddr s b)] s
      if won then bump 92 1 { s with alert := { s.alert with pending := setBitTo s.alert.pending b false } }
      else twpFlag 5 s

def execAlertResponse (won : Bool) (s : State) : Out := .next (alertResponse won s)

/-! ### Bus hang-ups (R414, R415) -/

/-- SMBUS_TIMEOUT: SCL has been low beyond t_TO, held by the port itself or by another device. In I2C mode its own stretch is never
timed out, and its transfer goes on. -/
def smbusTimeout (own : Bool) (s : State) : State :=
  if !twpUp s then s
  else if (getReg s 0x3800).testBit 0 then (if own then s else raise 0x1101 0 2 0 0 (twpFlag 1 s))
  else
    let s := bump 91 1 (twpFlag (if own then 0 else 1) { s with twp := { s.twp with reply := [], nacked := false } })
    raise 0x1101 0 (if own then 1 else 2) 0 0 s

def execSmbusTimeout (own : Bool) (s : State) : Out := .next (smbusTimeout own s)

/-- SDA_STUCK: SDA has been low beyond t_TO with SCL high; the port releases it if it drove it. -/
def sdaStuck (own : Bool) (s : State) : State :=
  if !twpUp s then s
  else raise 0x1101 0 3 0 0 (twpFlag 2 (if own then { s with twp := { s.twp with reply := [], nacked := false } } else s))

def execSdaStuck (own : Bool) (s : State) : Out := .next (sdaStuck own s)

/-! ### TWP_UNKNOWN_COMMAND (R419) -/

/-- A command byte that the port NACKs: not in the table, not offered now, not allowed at a masked address, or in a direction the code
does not have. -/
def unknownCommand (a code : Nat) (read : Bool) (s : State) : State :=
  if !twpUp s then s
  else
    let k := addrKind s a
    let known := if read then readCodes.contains code else writeCodes.contains code
    if k = .other then s
    else if !known || !codeOffered s code || (decide (k = .masked) && (read || !maskedCodes.contains code)) then twpNack s
    else s

def execTwpUnknownCommand (a : Fin 128) (code : Byte) (read : Bool) (s : State) : Out := .next (unknownCommand a code.toNat read s)

end Sys2Proof.Machine
end

