-- ==== Sys2Proof/Machine/Registers.lean ====
section
/-! DEFINITION. BAR0 as the host reaches it (R5 to R9, R35, R358, R436, R443 to R452): what a register reads as, a full-dword write,
the test access window, and the counters. -/
namespace Sys2Proof.Machine

/-! ### Reads (R443, R7) -/

/-- CLK_TDIV m: the divider codes of plots 16m to 16m + 15; of gated ones, the codes they will start with (R294). -/
def tdivWord (s : State) (m : Nat) : Nat :=
  sumOf ((List.range 16).map (fun k => (if plotsOn s then getTdiv s (16 * m + k) else startDiv s (16 * m + k)) % 4 * 4 ^ k))

/-- HRW_RETIRED: one bit per retired plot. -/
def retiredMask (s : State) : Nat := sumOf ((retiredPlots s).map (fun p => 2 ^ p))

/-- TST_TRC_STATUS of die `d` (R441). -/
def trcStatus (s : State) (d : Nat) : Nat :=
  let t := getTrc s d
  t.wptr + 2 ^ 16 * b2n t.wrapped + 2 ^ 17 * b2n t.triggered + 2 ^ 18 * b2n t.stopped

/-- What copy `k` of a register reads as. WO bits are never stored, so they read 0. -/
def regValue (s : State) (name : String) (k off : Nat) : Nat :=
  match name with
  | "GLB_ID" => s.glb.otp.iodGen % 16 + 16 * (s.glb.otp.rev % 16) + 0x06400000
  | "GLB_CTL" => b2n s.glb.run + 4 * regF s 0x0004 2 1
  | "GLB_STATUS" => phaseNum s.glb.phase + 16 * (s.glb.dieOk % 16) + 256 * (s.glb.fail % 16)
  | "GLB_SERIAL_LO" => s.glb.otp.serial % 2 ^ 32
  | "GLB_SERIAL_HI" => s.glb.otp.serial / 2 ^ 32 % 2 ^ 32
  | "GLB_STRAPS" => s.glb.strapSeed % 16 + 16 * (s.glb.strapSmb % 8)
  | "CLK_STATUS" => b2n s.clk.pllLock + 2 * (s.clk.dllLock % 16) + 32 * b2n s.clk.refOk
  | "CLK_TDIV" => tdivWord s k
  | "CLK_DEV_TIME_LO" => devTime s % 2 ^ 32
  | "CLK_DEV_TIME_HI" => s.clk.latchHi.toNat
  | "RST_BACKLOG_LEVEL" => s.hif.backlog.length
  | "TRK_STATUS" => b2n (getPort s k).jammed + 2 * b2n (getPort s k).iso
  | "TRK_TX_AMP" => min 16 (getReg s off)
  | "DLK_GSTAT" => b2n (creditOver s)
  | "DLK_STATUS" => linkStatus (getLink s k)
  | "DLK_LB_ERR" => linkErrs s k
  | "HRW_STATUS" => hrwStatus s
  | "HRW_RETIRED_LO" => retiredMask s % 2 ^ 32
  | "HRW_RETIRED_HI" => retiredMask s / 2 ^ 32
  | "TWP_ADDR" => twpPrimary s + 256 * twpMode s
  | "TST_TRC_STATUS" => trcStatus s k
  | "MSIX_PBA" => s.hif.pba / 2 ^ (32 * k) % 2 ^ 32
  | _ => getReg s off

/-- The counter that BAR0 shows at an offset of 0x4000 to 0x7FFF (R452). -/
def counterAt (s : State) (off : Nat) : Nat := (off - 0x4000) / 8 + 2048 * regF s 0x0018 0 1

/-- COUNT and OVF of a counter: LO in [31:0], HI in [63:32] (R451). -/
def counterValue (s : State) (idx : Nat) : Nat := (tget 0 idx s.cnt).toNat

/-- What a BAR0 read of a dword returns. An offset that no table assigns reads as 0; the test space reads as 0 after RUN (R358). -/
def readReg (s : State) (off : Nat) : Nat :=
  if 0x8000 ≤ off ∧ s.glb.run = true then 0
  else if 0x4000 ≤ off ∧ off < 0x8000 then
    (if off % 8 = 0 then counterValue s (counterAt s off) % 2 ^ 32 else s.clk.cntLatch.toNat)
  else
    match regAt off with
    | none => 0
    | some (r, k) => regValue s r.name k off

/-! ### The test access window (R436, R437) -/

/-- The word that TST_SEL and TST_OFF select: space, unit (tile, or plot, or die) and byte offset, wrapped modulo the space's size. -/
def testWord (s : State) : Nat × Nat × Nat :=
  let sel := getReg s 0x8000
  let space := bitsOf sel 0 4
  let plot := bitsOf sel 4 6
  let tile := 16 * plot + bitsOf sel 10 4
  let off := getReg s 0x8004
  match space with
  | 0 => (0, tile, off % 131072 / 4 * 4)
  | 1 => (1, tile, off % 4416 / 4 * 4)
  | 2 => (2, tile, off % 4416 / 4 * 4)
  | 3 => (3, plot, off % 1048576 / 4 * 4)
  | 4 => (4, plot / 16, off % 1048576 / 4 * 4)
  | n => (n, 0, 0)

/-- The die that holds a space's unit. -/
def testDie (space unit : Nat) : Nat := if space < 3 then unit / 256 else if space = 3 then unit / 16 else unit

/-- Class DBG reaches a die: it is in service and its link passes flits. -/
def testReach (s : State) (d : Nat) : Bool := !s.glb.dieFatal.testBit d && decide ((getLink s d).st = 1 ∨ (getLink s d).st = 2)

/-- TST_OFF advances by 4. -/
def testAdvance (s : State) : State := setReg 0x8004 (getReg s 0x8004 + 4) s

/-- Four bytes of a trace buffer. -/
def traceBytes (t : Trace) (off : Nat) : List Byte := (List.range 4).map (fun i => ((tget [] ((off + i) / 32) t.recs)[(off + i) % 32]?).getD 0)

/-- What a word of a space holds, none where it is uncorrectable. -/
def testGet (s : State) (space unit off : Nat) : Option Nat :=
  let t := getTile s unit
  match space with
  | 0 => if off / 8 ∈ t.tsBad then none else some (tsRead t off 4)
  | 1 => if knownBad unit (off / 4) false s then none else some (bankWord t.active (off / 4))
  | 2 => if knownBad unit (off / 4) true s then none else some (bankWord t.shadow (off / 4))
  | 3 => if off / 8 ∈ (getPlot s unit).bufBad then none else some (leNat (tgetList 0 off 4 (getPlot s unit).buf))
  | 4 => some (leNat (traceBytes (getTrc s unit) off))
  | _ => some 0
where
  knownBad (unit word : Nat) (shadow : Bool) (s : State) : Bool :=
    (getHrw s (unit / 256)).known.any (fun w => match w with
      | .config u k sh => decide (u.val = unit ∧ k = word ∧ sh = shadow)
      | .regCopy .. | .table .. | .fieldMap .. | .slot .. | .master .. => false)

/-- Mark the word as uncorrectable: `bad` says that this read met it so. It does not count toward retirement (R393). -/
def testMark (space unit off : Nat) (s : State) : State :=
  match space with
  | 0 => setTile unit { getTile s unit with tsBad := insertNew (off / 8) (getTile s unit).tsBad } s
  | 3 => updPlot unit (fun v => { v with bufBad := insertNew (off / 8) v.bufBad }) s
  | _ => s

/-- A read of TST_DATA: the word and TST_OFF past it, by a TEST_RD and its TEST_RSP (Table TST-3). A die that class DBG cannot reach answers a free value. -/
def testRead (bad : Bool) (s : State) : Nat × State :=
  let (space, unit, off) := testWord s
  if 4 < space then (0, testAdvance s)
  else if !testReach s (testDie space unit) then
    let (w, s) := drawFree s
    (w.toNat % 2 ^ 32, testAdvance s)
  else
    let d := testDie space unit
    let s := sendFlit 4 d 7 2 (leBytes 4 (getReg s 0x8000) ++ leBytes 4 (getReg s 0x8004)) s
    let s := if bad then testMark space unit off s else s
    match if bad then none else testGet s space unit off with
    | some v => (v, testAdvance (sendFlit d 4 7 4 (leBytes 4 v ++ leBytes 1 0) s))
    | none => (0xFFFFFFFF, testAdvance (orReg 0x800C 1 (sendFlit d 4 7 4 (leBytes 4 0xFFFFFFFF ++ leBytes 1 1) s)))

/-- Store a word with valid check bits: a word that was uncorrectable is good again. -/
def testPut (space unit off v : Nat) (s : State) : State :=
  let t := getTile s unit
  let clear := fun (sh : Bool) (s : State) =>
    setHrw (unit / 256) { getHrw s (unit / 256) with known := (getHrw s (unit / 256)).known.filter (fun w => match w with
      | .config u k b => !decide (u.val = unit ∧ k = off / 4 ∧ b = sh)
      | .regCopy .. | .table .. | .fieldMap .. | .slot .. | .master .. => true) } s
  match space with
  | 0 => setTile unit { tsWrite off 4 v t with tsBad := without (off / 8) t.tsBad } s
  | 1 => clear false (setTile unit { t with active := { t.active with words := tset 0 (off / 4) (BitVec.ofNat 32 v) t.active.words } } s)
  | 2 => clear true (setTile unit { t with shadow := { t.shadow with words := tset 0 (off / 4) (BitVec.ofNat 32 v) t.shadow.words } } s)
  | 3 => updPlot unit (fun p => { p with buf := tsetList 0 off (leBytes 4 v) p.buf, bufBad := without (off / 8) p.bufBad }) s
  | 4 =>
    let t := getTrc s unit
    { s with trc := tset Trace.init unit { t with recs := tupd [] (off / 32) (fun r => overlay (padTo 32 r) (off % 32) (leBytes 4 v)) t.recs } s.trc }
  | _ => s

/-- A write of TST_DATA. Reserved spaces and dies that class DBG cannot reach take nothing. -/
def testWrite (v : Nat) (s : State) : State :=
  let (space, unit, off) := testWord s
  let d := testDie space unit
  testAdvance (if decide (space ≤ 4) && testReach s d then
    testPut space unit off v (sendFlit 4 d 7 3 (leBytes 4 (getReg s 0x8000) ++ leBytes 4 (getReg s 0x8004) ++ leBytes 4 v) s) else s)

/-! ### Writes (R5, R6, R443, R444) -/

/-- A field that does not take a write now, and whether the write of another value is flagged (R5, R339, R343, Table HIF-15). -/
def fieldLocked (s : State) (a : Acc) (off : Nat) : Bool :=
  match a with
  | .ro | .rw1s => true
  | .rwl => s.glb.run
  | .rwPage => (getReg s 0x0800).testBit 0
  | .rwRing => (getReg s (0x090C + (off - 0x0900) / 16 * 16)).testBit 0
  | .rwSq => (getReg s (0x090C + 16 * ((off - 0x0840) / 4))).testBit 0
  | .rwBq => (getReg s (0x090C + 16 * 34)).testBit 0
  | .rw | .rw1c | .wo | .rwField | .rwTest => false

def lockFlags (a : Acc) : Bool :=
  match a with
  | .rwl | .rwPage | .rwRing => true
  | .ro | .rw | .rw1c | .wo | .rw1s | .rwSq | .rwBq | .rwField | .rwTest => false

/-- One field of a write: its new bits in place, and whether the write is a lock violation. -/
def writeField (s : State) (off old v : Nat) (f : RegField) : Nat × Bool :=
  let n := f.hi - f.lo + 1
  let cur := bitsOf old f.lo n
  let new := bitsOf v f.lo n
  if fieldLocked s f.acc off then (cur * 2 ^ f.lo, lockFlags f.acc && decide (new ≠ cur))
  else
    match f.acc with
    | .rw1c => ((cur - (cur &&& new)) * 2 ^ f.lo, false)
    | .wo => (0, false)
    | .ro | .rw | .rwl | .rw1s | .rwPage | .rwRing | .rwSq | .rwBq | .rwField | .rwTest => (new * 2 ^ f.lo, false)

/-- The register's new word and whether the write is flagged. Reserved bits stay 0 (R6). -/
def writeFields (s : State) (off old v : Nat) (fs : List RegField) : Nat × Bool :=
  fs.foldl (fun a f => let x := writeField s off old v f; (a.1 + x.1, a.2 || x.2)) (0, false)

/-- A write by the fields' access types alone. -/
def plainWrite (r : RegRow) (off v : Nat) (s : State) : State :=
  let x := writeFields s off (getReg s off) v r.fields
  let s := setReg off x.1 s
  if x.2 then lockViol off s else s

/-- A port's EN in a write whose other bits went by their access types (R45, R68). -/
def trkCtlWrite (r : RegRow) (n off v : Nat) (s : State) : State :=
  let keep := b2n ((getReg s off).testBit 0)
  let s := plainWrite r off (v / 2 * 2 + keep) s
  if v.testBit 0 then portEnable n s else portDisable n s

/-- BBP_CTL: a port that is disabled, or changes its mode, loses its links (R79). -/
def bbpCtlWrite (r : RegRow) (p off v : Nat) (s : State) : State :=
  let new := (writeFields s off (getReg s off) v r.fields).1
  let down := !new.testBit 0 || decide (bitsOf new 1 3 ≠ bitsOf (getReg s off) 1 3)
  let s := if down then each [4 * p, 4 * p + 1, 4 * p + 2, 4 * p + 3] bbLinkDown s else s
  bbSettle (plainWrite r off v s)

/-- TRK_FM_IDX: the whole entry is copied into TRK_FM_DATA0–7 in one step (R35). -/
def fmIndexWrite (n v : Nat) (s : State) : State :=
  let s := setReg (trkReg n 0x54) (v % 64) s
  let e := fmEntry s n (v % 64)
  each (List.range 8) (fun k => setReg (trkReg n (0x60 + 4 * k)) (leAt e (4 * k) 4)) s

/-- TRK_FM_DATA word `k`: entry 63 at any time, entries 0 to 62 only while the port is disabled; otherwise TRK_FM_WERR (R35). Reserved bits stay 0 (R6). -/
def fmDataWrite (n k v : Nat) (s : State) : State :=
  let i := regF s (trkReg n 0x54) 0 6
  if i ≠ 63 ∧ trkEn s n = true then trkCount n 6 s
  else
    let w := v &&& (fmMask[k]?).getD 0
    setReg (trkReg n (0x60 + 4 * k)) w (setFm n i (overlay (fmEntry s n i) (4 * k) (leBytes 4 w)) s)

/-- A Harrow setting goes to all three copies in every instance (R406, R449). -/
def hrwWrite (f : HrwCfg → HrwCfg) (s : State) : State :=
  hrwRegs (each (List.range 5) (fun h s => hrwStore h (f (getHrw s h).cfg) s) s)

/-- GLB_CTL: RUN is set only, SOFT_RST acts with the SOFT_IMM of the same write (R303, R358). -/
def glbCtlWrite (v : Nat) (s : State) : State :=
  let s := setReg 0x0004 (v / 4 % 2 * 4) s
  let s := if v.testBit 0 then runSet s else if s.glb.run then lockViol 0x0004 s else s
  if v.testBit 1 then softRequest 3 (v.testBit 2) s else s

/-- A loopback whose checking end is not told: its errors and locks are free values (R287). -/
def loopbackFree (l v : Nat) (s : State) : State :=
  let errs := (List.range 1088).map (fun w => (w, (Config.free (s.freeCtr + 1 + w)).toNat % 65536))
  let (k, s) := drawFree s
  loopbackSet l v errs (k.toNat % 16) { s with freeCtr := s.freeCtr + 1088 }

/-- A write of copy `k` of a register, with what it sets off. -/
def regWrite (r : RegRow) (k off v : Nat) (s : State) : State :=
  match r.name with
  | "GLB_CTL" => glbCtlWrite v s
  | "CLK_TIME_SET_LO" => devTimeLoad (BitVec.ofNat 32 v) s
  | "HIF_CTL" => hifEnable (v.testBit 0) s
  | "HIF_RING_CTL" => ringEnable k (v.testBit 0) s
  | "MSIX_CTL" => if v.testBit 0 then setReg off 1 s else msixUnmask k s
  | "TRK_CTL" => trkCtlWrite r k off v s
  | "TRK_FM_IDX" => fmIndexWrite k v s
  | "TRK_FM_DATA0" => fmDataWrite k 0 v s
  | "TRK_FM_DATA1" => fmDataWrite k 1 v s
  | "TRK_FM_DATA2" => fmDataWrite k 2 v s
  | "TRK_FM_DATA3" => fmDataWrite k 3 v s
  | "TRK_FM_DATA4" => fmDataWrite k 4 v s
  | "TRK_FM_DATA5" => fmDataWrite k 5 v s
  | "TRK_FM_DATA6" => fmDataWrite k 6 v s
  | "TRK_FM_DATA7" => fmDataWrite k 7 v s
  | "BBP_CTL" => bbpCtlWrite r k off v s
  | "BBP_PTP_MASTER2" => ptpMasterAdopt v s
  | "DLK_RETRAIN" => if v.testBit 0 then hostRetrain k (v.testBit 1) s else s
  | "DLK_LB_CTL" => loopbackFree k v s
  | "HRW_CTL" => hrwWrite (fun c => { c with en := v % 2 }) s
  | "HRW_PERIOD" => hrwWrite (fun c => { c with period := v % 256 }) s
  | "HRW_PASS_MAX" => hrwWrite (fun c => { c with passMax := v % 256 }) s
  | "HRW_RETIRE_N" => hrwWrite (fun c => { c with retireN := v % 16 }) s
  | "TST_DATA" => testWrite v s
  | _ => plainWrite r off v s

/-- The compute die whose block holds a register: sync objects, and a die's trace and performance settings. -/
def blockDie (off : Nat) : Option Nat :=
  if 0x3C00 ≤ off ∧ off < 0x4000 then some ((off - 0x3C00) / 256)
  else if 0x8100 ≤ off ∧ off < 0x8200 then some ((off - 0x8100) / 64)
  else none

/-- A write to a compute-die block travels in class CFG (Table DLK-4). -/
def cfgFlit (off v : Nat) (s : State) : State :=
  match blockDie off with
  | some d => sendFlit 4 d 6 2 (leBytes 4 off ++ leBytes 4 v) s
  | none => s

/-- A full-dword write at an offset. -/
def writeReg (off v : Nat) (s : State) : State :=
  if 0x8000 ≤ off ∧ s.glb.run = true then lockViol off s
  else if 0x4000 ≤ off ∧ off < 0x8000 then (if off % 8 = 0 ∧ v = 0 then clearCounter (counterAt s off) s else s)
  else if 0x3800 ≤ off ∧ off < 0x3C00 ∧ s.glb.smbRstLow = true then s
  else
    match regAt off with
    | none => s
    | some (r, k) => regWrite r k off v (cfgFlit off v s)

/-- REGISTER_WRITE, R443: any write without all four byte enables is ignored. A register whose write has a row of its own does here
what that row does. -/
def execRegisterWrite (off : BitVec 16) (v : Word) (be : Fin 16) (s : State) : Out :=
  let a := off.toNat / 4 * 4
  if !barUp s || decide (be.val ≠ 15) then .next s
  else if a = 4 ∧ v.getLsbD 0 = true ∧ s.glb.otp.iodGen ≠ 2 ∧ s.glb.otp.iodGen ≠ 3 then .fault .partNotCovered
  else .next (writeReg a v.toNat s)

/-! ### Counters (R8, R451, R452) -/

/-- COUNTER_LO_READ: the LO half of the counter shown at place `i` of the page; HI goes into the one latch. -/
def counterLoRead (i : Nat) (s : State) : State :=
  let v := counterValue s (i + 2048 * regF s 0x0018 0 1)
  answerWord (v % 2 ^ 32) { s with clk := { s.clk with cntLatch := BitVec.ofNat 32 (v / 2 ^ 32) } }

def execCounterLoRead (i : Fin 2048) (s : State) : Out := .next (if barUp s then counterLoRead i s else s)

/-- COUNTER_HI_READ: the latch, whichever counter is named. -/
def execCounterHiRead (_i : Fin 2048) (s : State) : Out := .next (if barUp s then answerWord s.clk.cntLatch.toNat s else s)

/-- COUNTER_CLEAR, R451: a write of 0 to LO. -/
def execCounterClear (i : Fin 2048) (s : State) : Out :=
  .next (if barUp s then clearCounter (i + 2048 * regF s 0x0018 0 1) s else s)

/-! ### TST_DATA (R436, R358) -/

/-- TST_DATA_READ; `bad` says that the word is met with an uncorrectable error. -/
def tstDataRead (bad : Bool) (s : State) : State :=
  if s.glb.run then answerWord 0 s
  else
    let (v, s) := testRead bad s
    answerWord v s

def execTstDataRead (bad : Bool) (s : State) : Out := .next (if barUp s then tstDataRead bad s else s)

/-- TST_DATA_WRITE. -/
def execTstDataWrite (v : Word) (s : State) : Out :=
  .next (if barUp s then (if s.glb.run then lockViol 0x8008 s else testWrite v.toNat s) else s)

end Sys2Proof.Machine
end

