-- ==== Sys2Proof/Machine/Test.lean ====
section
/-! DEFINITION. Test and debug through JTAG (R430 to R438): the package TAP, its instructions before and after RUN, the chain of
compute-die TAPs, the TSTACC register and the HBM wrapper. -/
namespace Sys2Proof.Machine

def setTap (f : Tap → Tap) (s : State) : State := { s with tap := f s.tap }

/-- Every TAP in Test-Logic-Reset; a RUN that was held applies (R431, R434). PRESUMED, IEEE 1149.1: the instruction is IDCODE. -/
def tapReset (s : State) : State :=
  applyRun (setTap (fun t => { t with ir := .idcode, tlr := true, diesel := 1, pulse := 0, tdo := 0 }) s)

/-- JTAG_TRST, R434. -/
def execJtagTrst (s : State) : Out := .next (if s.glb.powered then tapReset s else s)

/-- TEST_LOGIC_RESET, R431: through TMS. -/
def execTestLogicReset (s : State) : Out := .next (if s.glb.powered then tapReset s else s)

/-- The TAP passes Update-IR with an instruction, and `f` is what its data register does. One that RUN refuses loads BYPASS and is
counted; a permitted one lets a held RUN apply (R430, R431). -/
def tapLoad (i : TapIr) (f : State → State) (s : State) : State :=
  if !s.glb.powered then s
  else if s.glb.run && tapBlocks i then bump 176 1 (setTap (fun t => { t with ir := .bypass, tlr := false }) s)
  else f (applyRun (setTap (fun t => { t with ir := i, tlr := false }) s))

/-- BYPASS. -/
def execBypass (s : State) : Out := .next (tapLoad .bypass (fun s => s) s)

/-- The identity codes of the chain's TAPs, the I/O die's lowest (R433, R435). -/
def idcodes (s : State) : Nat :=
  let m := 2 * Config.manufacturer.toNat + 1
  let iod := 2 ^ 28 * (s.glb.otp.rev % 16) + 2 ^ 12 * (if s.glb.otp.iodGen = 2 then 0x6402 else 0x6403) + m
  let dies := (List.range 4).filter (fun d => s.tap.diesel.testBit (d + 1))
  (dies.map (fun d => 2 ^ 28 * (Config.dieRevision d).toNat + 2 ^ 12 * 0x6410 + m)).reverse.foldl (fun acc c => acc * 2 ^ 32 + c) 0 * 2 ^ 32 + iod

/-- IDCODE, R433. -/
def execIdcode (s : State) : Out := .next (tapLoad .idcode (fun s => setTap (fun t => { t with tdo := idcodes s }) s) s)

/-- A table of cells from pairs. -/
def cellTable (l : List (Nat × Bool)) : List (Nat × Bool) := l.foldl (fun t c => tset false c.1 c.2 t) []

/-- SAMPLE/PRELOAD: the pins' levels are captured, and the cells take the values shifted in (R432). -/
def execSamplePreload (pins cells : List (Nat × Bool)) (s : State) : Out :=
  .next (tapLoad .sample (setTap (fun t => { t with sampled := cellTable pins, cells := cellTable cells })) s)

/-- EXTEST: the cells drive the pins; the levels on the pins are captured (R432). -/
def execExtest (pins : List (Nat × Bool)) (s : State) : Out :=
  .next (tapLoad .extest (setTap (fun t => { t with sampled := cellTable pins })) s)

/-- CLAMP: the cells hold the pins, BYPASS stands in the chain. -/
def execClamp (s : State) : Out := .next (tapLoad .clamp (fun s => s) s)

/-- HIGHZ: the outputs float. -/
def execHighz (s : State) : Out := .next (tapLoad .highz (fun s => s) s)

/-- EXTEST_PULSE and EXTEST_TRAIN, IEEE 1149.6: what the test receivers of the AC-coupled lanes saw (R432). -/
def execExtestPulse (seen : BitVec 64) (s : State) : Out := .next (tapLoad .extestPulse (setTap (fun t => { t with pulse := seen.toNat })) s)
def execExtestTrain (seen : BitVec 64) (s : State) : Out := .next (tapLoad .extestTrain (setTap (fun t => { t with pulse := seen.toNat })) s)

/-- What a pin with a boundary cell is driven to: by its cell, not at all, or by its function. -/
inductive PinDrive where
  | cell (v : Bool)
  | floating
  | functional
  deriving DecidableEq, Repr

/-- The drive of the pin of cell `c` under the current instruction (R434). -/
def pinDrive (s : State) (c : Nat) : PinDrive :=
  match s.tap.ir with
  | .extest | .clamp | .extestPulse | .extestTrain => .cell (tget false c s.tap.cells)
  | .highz => .floating
  | .bypass | .idcode | .sample | .hbm1500 | .diesel | .tstacc => .functional

/-- A wrapper operation of JESD238 on the stack that TST_HBM_SEL chooses (R438). -/
def wrapperOp (op : HbmOp) (s : State) : State :=
  let k := regF s 0x8010 0 2
  match op with
  | .connect => s
  | .selfTest =>
    { s with mem := { s.mem with
        bist := tset 0 k (tget 0 k s.mem.bist + 1) s.mem.bist,
        hbm := s.mem.hbm.filter (fun e => stackOf e.1 ≠ k),
        poison := s.mem.poison.filter (fun e => stackOf (32 * e.1) ≠ k) } }
  | .laneTest result => setTap (fun t => { t with tdo := result }) s
  | .softRepair lane => { s with mem := { s.mem with softLanes := insertNew (k, lane) s.mem.softLanes } }
  | .hardRepair lane => { s with glb := { s.glb with hardLanes := insertNew (k, lane) s.glb.hardLanes } }
  | .temperature t => setTap (fun x => { x with tdo := t }) s

/-- HBM1500, R438. -/
def execHbm1500 (op : HbmOp) (s : State) : Out := .next (tapLoad .hbm1500 (wrapperOp op) s)

/-- DIESEL, R435: the register at Update-DR. A die whose DLL has not locked cannot join; the I/O die always stays. -/
def execDiesel (sel : Fin 32) (s : State) : Out :=
  .next (tapLoad .diesel (fun s =>
    let v := 1 + 2 * ((sel.val / 2) &&& (s.clk.dllLock % 16))
    setTap (fun t => { t with diesel := v, tdo := v }) s) s)

/-- TSTACC's access (R430, R436): the registers of the test space by BAR0 offset. After RUN only reads of space 4 and of
TST_TRC_STATUS; anything else returns 0 and is discarded. -/
def tstaccAccess (off v : Nat) (write bad : Bool) (s : State) : Nat × State :=
  if off < 0x8000 ∨ heldInReset s = true then (0, s)
  else if s.glb.run then
    if write then (0, s)
    else if off = 0x8008 ∧ bitsOf (getReg s 0x8000) 0 4 = 4 then testRead bad s
    else
      match regAt off with
      | some (r, k) => if r.name = "TST_TRC_STATUS" then (trcStatus s k, s) else (0, s)
      | none => (0, s)
  else if write then (v, writeReg off v s)
  else if off = 0x8008 then testRead bad s
  else (readReg s off, s)

/-- TSTACC, R436: one access through its 64-bit data register: data, register offset, write. -/
def execTstacc (off : BitVec 16) (v : Word) (write bad : Bool) (s : State) : Out :=
  .next (tapLoad .tstacc (fun s =>
    let x := tstaccAccess (off.toNat / 4 * 4) v.toNat write bad s
    setTap (fun t => { t with tdo := x.1 }) x.2) s)

end Sys2Proof.Machine
end

