-- ==== Sys2Proof/Machine/TileVec.lean ====
section
/-! DEFINITION. The vector, dot, rescale, requantise and convert instructions of a tile (R184 to R192, R204 to R210). -/
namespace Sys2Proof.Machine

/-! ### VALU (R184, R185) -/

/-- One lane of VALU in an integer format of width `w`: shift amounts are whole lanes. -/
def valuInt (w : Nat) (sg : Bool) (op x y : Nat) : Nat × Nat :=
  let a := intVal w sg x
  let b := intVal w sg y
  match op with
  | 0 => satInt w sg (a + b)
  | 1 => satInt w sg (a - b)
  | 2 => satInt w sg (a * b)
  | 3 => (if a ≤ b then x else y, 0)
  | 4 => (if a ≤ b then y else x, 0)
  | 5 => satInt w sg a.natAbs
  | 6 => satInt w sg (-a)
  | 7 => (x &&& y, 0)
  | 8 => (x ||| y, 0)
  | 9 => (x ^^^ y, 0)
  | 10 => (if w ≤ y then 0 else (x <<< y) % 2 ^ w, 0)
  | 11 => (ofSigned w (toSigned w x / (2 ^ min y w : Nat)), 0)
  | 12 => (x >>> y, 0)
  | _ => (x, 0)

/-- One lane of VALU in a floating-point format; ABS, NEG and MOV change or copy bits only (R205). -/
def valuFp (f : FpFmt) (md : FpMode) (op x y : Nat) : Nat × Nat :=
  match op with
  | 0 => fpAdd f md x y
  | 1 => fpSub f md x y
  | 2 => fpMul f md x y
  | 3 => fpMinMax f md false x y
  | 4 => fpMinMax f md true x y
  | 5 => (x % 2 ^ (f.width - 1), 0)
  | 6 => (x ^^^ 2 ^ (f.width - 1), 0)
  | _ => (x, 0)

def valuTile (w : Nat) (t : Tile) : Except Nat Tile :=
  let op := bitsOf w 4 4
  match fmtOf (bitsOf w 0 4) with
  | none => .error 2
  | some fm =>
    if 14 ≤ op then .error 2
    else
      let wd := fm.width
      let n := laneCount wd
      let xs := lanesOf wd n (getV t (fRa w))
      let ys := lanesOf wd n (getV t (fRb w))
      match fm with
      | .fp f =>
        if 7 ≤ op ∧ op ≤ 12 then .error 2
        else
          let (v, fl) := writeLanes wd (maskOf t (bitsOf w 8 3)) (getV t (fRd w)) (List.zipWith (valuFp f (tileFp t) op) xs ys)
          .ok (orFlags fl (setV (fRd w) v t))
      | .int _ sg =>
        let (v, fl) := writeLanes wd (maskOf t (bitsOf w 8 3)) (getV t (fRd w)) (List.zipWith (valuInt wd sg op) xs ys)
        .ok (orFlags fl (setV (fRd w) v t))

/-! ### VBCST, VEXT, VINS and VCMP (R186) -/

def vbcstTile (w : Nat) (t : Tile) : Except Nat Tile :=
  match fmtOf (bitsOf w 0 4) with
  | none => .error 2
  | some fm =>
    let wd := fm.width
    let x := getS t (fRa w) % 2 ^ wd
    let (v, _) := writeLanes wd (maskOf t (bitsOf w 8 3)) (getV t (fRd w)) (List.replicate (laneCount wd) (x, 0))
    .ok (setV (fRd w) v t)

def vextTile (w : Nat) (t : Tile) : Except Nat Tile :=
  match fmtOf (bitsOf w 0 4) with
  | none => .error 2
  | some fm =>
    let wd := fm.width
    let x := laneOf wd (getV t (fRa w)) (getS t (fRb w) % laneCount wd)
    .ok (setS (fRd w) (match fm with | .int k true => ofSigned 32 (toSigned k x) | _ => x) t)

def vinsTile (w : Nat) (t : Tile) : Except Nat Tile :=
  match fmtOf (bitsOf w 0 4) with
  | none => .error 2
  | some fm =>
    let wd := fm.width
    let n := laneCount wd
    let old := getV t (fRd w)
    let i := getS t (fRb w) % n
    let res := (List.range n).map (fun j => (if j = i then getS t (fRa w) else laneOf wd old j, 0))
    let (v, _) := writeLanes wd (maskOf t (bitsOf w 8 3)) old res
    .ok (setV (fRd w) v t)

/-- EQ, NE, LT or GE of two lanes; a comparison with a NaN is true for NE only. -/
def vcmpLane (fm : Fmt) (md : FpMode) (c x y : Nat) : Bool :=
  match fm with
  | .int w sg =>
    let a := intVal w sg x
    let b := intVal w sg y
    match c with
    | 1 => decide (a ≠ b)
    | 2 => decide (a < b)
    | 3 => decide (b ≤ a)
    | _ => decide (a = b)
  | .fp f =>
    let a := fpDecode f md.ftz x
    let b := fpDecode f md.ftz y
    match c with
    | 1 => !fpEq a b
    | 2 => fpLt a b
    | 3 => fpLt b a || fpEq a b
    | _ => fpEq a b

def vcmpTile (w : Nat) (t : Tile) : Except Nat Tile :=
  match fmtOf (bitsOf w 0 4) with
  | none => .error 2
  | some fm =>
    let wd := fm.width
    let n := min 64 (laneCount wd)
    let bits := List.zipWith (vcmpLane fm (tileFp t) (bitsOf w 4 4)) (lanesOf wd n (getV t (fRa w))) (lanesOf wd n (getV t (fRb w)))
    .ok (setP (fRd w) (natOfBits bits) t)

/-! ### VMAC and VMACB (R187, R188) -/

/-- Fields of format M. -/
def mAd (w : Nat) : Nat := bitsOf w 24 2
def mWv (w : Nat) : Nat := bitsOf w 21 3
def mXv (w : Nat) : Nat := bitsOf w 18 3
def mLane (w : Nat) : Nat := bitsOf w 11 7
def mWfmt (w : Nat) : Nat := bitsOf w 7 4
def mXfmt (w : Nat) : Nat := bitsOf w 3 4
def mZp (w : Nat) : Bool := w.testBit 2

/-- Table TIL-8: the operand combinations; a VMAC needs equal lane widths. -/
def macOk (bcast : Bool) (wf xf : Nat) : Bool :=
  let pair : Bool :=
    if wf = 0 ∨ wf = 2 then decide (xf < 4)
    else if wf = 6 ∨ wf = 7 then decide (xf = 6 ∨ xf = 7)
    else if wf = 8 ∨ wf = 9 ∨ wf = 10 then decide (xf = wf)
    else false
  pair && (bcast || (match fmtOf wf, fmtOf xf with | some a, some b => decide (a.width = b.width) | _, _ => false))

/-- The activation of an integer product: an unsigned one less ZPA where ZP = 1. -/
def macX (t : Tile) (zp : Bool) (width : Nat) (sg : Bool) (x : Nat) : Int :=
  intVal width sg x - (if zp && !sg then (t.zpa : Int) else 0)

/-- Lane `j` after an integer multiply-accumulate: the products of its weights, added once and held within INT32 (SAT). -/
def macIntLane (t : Tile) (bcast zp : Bool) (ww xw : Nat) (xsg : Bool) (wv xv lane acc j : Nat) : Nat × Nat :=
  let per := if ww = 4 then 2 else 1
  let prod := fun (m : Nat) =>
    let i := per * j + m
    let k := if bcast then lane + m else i
    intVal ww true (laneOf ww wv i) * macX t zp xw xsg (laneOf xw xv (k % laneCount xw))
  let sum := (List.range per).foldl (fun a m => a + prod m) 0
  let (v, f) := satInt 32 true (accInt acc j + sum)
  (ofSigned 48 (toSigned 32 v), f)

/-- Lane `j` after a floating-point multiply-accumulate. -/
def macFpLane (t : Tile) (bcast : Bool) (fw fx : FpFmt) (wv xv lane acc j : Nat) : Nat × Nat :=
  let k := if bcast then lane else j
  fpMac fw fx (tileFp t) (laneOf fw.width wv j) (laneOf fx.width xv (k % laneCount fx.width)) (bitsOf (accLane acc j) 0 32)

def macTile (bcast : Bool) (w : Nat) (t : Tile) : Except Nat Tile :=
  if !macOk bcast (mWfmt w) (mXfmt w) then .error 2
  else
    let wv := getV t (mWv w)
    let xv := getV t (mXv w)
    let acc := getA t (mAd w)
    match fmtOf (mWfmt w), fmtOf (mXfmt w) with
    | some (.int ww _), some (.int xw xsg) =>
      let res := (List.range 64).map (macIntLane t bcast (mZp w) ww xw xsg wv xv (mLane w) acc)
      .ok (orFlags (res.foldl (fun a x => a ||| x.2) 0) (setA (mAd w) (ofLanes 48 (res.map Prod.fst)) t))
    | some (.fp fw), some (.fp fx) =>
      let n := laneCount fw.width
      let res := (List.range n).map (macFpLane t bcast fw fx wv xv (mLane w) acc)
      let rest := (List.range (64 - n)).map (fun i => accLane acc (n + i))
      .ok (orFlags (res.foldl (fun a x => a ||| x.2) 0) (setA (mAd w) (ofLanes 48 (res.map Prod.fst ++ rest)) t))
    | _, _ => .error 2

/-! ### AOP (R189) -/

def aopZeroTile (w : Nat) (t : Tile) : Tile := setA (fRd w) 0 t
def aopCopyTile (w : Nat) (t : Tile) : Tile := setA (fRd w) (getA t (fRa w)) t

/-- Part p of a bank: lanes 16p to 16p + 15. -/
def aopPart (w : Nat) : List Nat := (List.range 16).map (fun i => 16 * bitsOf w 4 2 + i)

def aopExtTile (w : Nat) (t : Tile) : Tile :=
  let res := (aopPart w).map (fun i => satInt 32 true (accInt (getA t (fRa w)) i))
  orFlags (res.foldl (fun a x => a ||| x.2) 0) (setV (fRd w) (ofLanes 32 (res.map Prod.fst)) t)

def aopAddvTile (w : Nat) (t : Tile) : Tile :=
  let acc := getA t (fRd w)
  let p := bitsOf w 4 2
  let res := (List.range 64).map (fun j =>
    if j / 16 = p then sat48 (accInt acc j + toSigned 32 (laneOf 32 (getV t (fRb w)) (j % 16))) else (accLane acc j, 0))
  orFlags (res.foldl (fun a x => a ||| x.2) 0) (setA (fRd w) (ofLanes 48 (res.map Prod.fst)) t)

def aopExtfTile (w : Nat) (t : Tile) : Tile :=
  setV (fRd w) (ofLanes 32 ((aopPart w).map (fun i => accLane (getA t (fRa w)) i))) t

/-! ### GRS and REQ (R190, R191) -/

def grsTile (w : Nat) (t : Tile) : Tile :=
  let d := toSigned 8 (getS t (fRb w))
  let part := getA t (fRa w)
  let wide := getA t (fRd w)
  let res := (List.range 64).map (fun j =>
    let p := accInt part j
    let x := if 0 ≤ d then p * (2 ^ d.toNat : Nat) else roundHalfEven p (-d).toNat
    sat48 (accInt wide j + x))
  orFlags (res.foldl (fun a x => a ||| x.2) 0) (setA (fRa w) 0 (setA (fRd w) (ofLanes 48 (res.map Prod.fst)) t))

def reqTile (w : Nat) (t : Tile) : Except Nat Tile :=
  match fmtOf (bitsOf w 0 4) with
  | some (.int wd sg) =>
    if 8 < wd then .error 2
    else
      let c := getS t (fRb w)
      let m := toSigned 16 c
      let n := min 47 (bitsOf c 16 6)
      let zpo := intVal 8 sg (bitsOf c 24 8)
      let acc := getA t (fRa w)
      let res := (List.range 64).map (fun j => satInt wd sg (roundHalfEven (accInt acc j * m) n + zpo))
      .ok (orFlags (res.foldl (fun a x => a ||| x.2) 0) (setV (fRd w) (ofLanes wd (res.map Prod.fst)) t))
  | _ => .error 2

/-! ### CVT and RCP (R192, R210) -/

def cvtTile (w : Nat) (t : Tile) : Except Nat Tile :=
  match fmtOf (bitsOf w 0 4), fmtOf (bitsOf w 4 4) with
  | some src, some dst =>
    let ns := laneCount src.width
    let nd := laneCount dst.width
    let n := min ns nd
    let part := bitsOf w 8 3 % (max ns nd / n)
    let so := if nd < ns then part * n else 0
    let dofs := if ns < nd then part * n else 0
    let old := getV t (fRd w)
    let conv := (List.range n).map (fun i => convert src dst (tileFp t) 0 (laneOf src.width (getV t (fRa w)) (so + i)))
    let out := (List.range nd).map (fun j => if dofs ≤ j ∧ j < dofs + n then ((conv[j - dofs]?).map Prod.fst).getD 0 else laneOf dst.width old j)
    .ok (orFlags (conv.foldl (fun a x => a ||| x.2) 0) (setV (fRd w) (ofLanes dst.width out) t))
  | _, _ => .error 2

def rcpTile (w : Nat) (t : Tile) : Except Nat Tile :=
  match fmtOf (bitsOf w 0 4) with
  | some (.fp f) =>
    let res := (lanesOf f.width (laneCount f.width) (getV t (fRa w))).map (fpRcp f (tileFp t))
    let (v, fl) := writeLanes f.width (maskOf t (bitsOf w 8 3)) (getV t (fRd w)) res
    .ok (orFlags fl (setV (fRd w) v t))
  | _ => .error 2

/-! ### The commands -/

/-- VALU, R184. -/
def execValu (k : Fin 1024) (s : State) : Out := .next (tileInstr k 0x18 valuTile s)

/-- VBCST, R186. -/
def execVbcst (k : Fin 1024) (s : State) : Out := .next (tileInstr k 0x19 vbcstTile s)

/-- VEXT, R186. -/
def execVext (k : Fin 1024) (s : State) : Out := .next (tileInstr k 0x1A vextTile s)

/-- VINS, R186. -/
def execVins (k : Fin 1024) (s : State) : Out := .next (tileInstr k 0x1B vinsTile s)

/-- VCMP, R186. -/
def execVcmp (k : Fin 1024) (s : State) : Out := .next (tileInstr k 0x1C vcmpTile s)

/-- The counted event of a MAC instruction and its MACs (R442, Table TIL-8). -/
def macEvent (w : Nat) : Nat × Nat :=
  match fmtOf (mWfmt w) with
  | some (.fp f) => (4, laneCount f.width)
  | some (.int ww _) => if ww = 4 then (3, 128) else (2, 64)
  | none => (0, 0)

/-- A MAC instruction, counted where it issues. -/
def macInstr (k op : Nat) (bcast : Bool) (s : State) : State :=
  let w := tileWord (getTile s k)
  let (code, n) := macEvent w
  let ok := canExec s k op && macOk bcast (mWfmt w) (mXfmt w) && decide ((getTile s k).pc < 1023)
  tileInstr k op (macTile bcast) (if ok then pmuCount (plotOfTile k) code n s else s)

/-- VMAC, R188. -/
def execVmac (k : Fin 1024) (s : State) : Out := .next (macInstr k 0x20 false s)

/-- VMACB, R188. -/
def execVmacb (k : Fin 1024) (s : State) : Out := .next (macInstr k 0x21 true s)

/-- An AOP whose FN[2:0] is `fn`; FN 5 to 7 fault with cause 2 (R189). -/
def aopInstr (k fn : Nat) (f : Nat → Tile → Tile) (s : State) : State :=
  let c := bitsOf (tileWord (getTile s k)) 0 3
  if c = fn then tileInstr k 0x23 (fun w t => .ok (f w t)) s
  else if 5 ≤ c then tileInstr k 0x23 (fun _ _ => .error 2) s
  else s

/-- AOP ZERO, R189. -/
def execAopZero (k : Fin 1024) (s : State) : Out := .next (aopInstr k 0 aopZeroTile s)

/-- AOP COPY, R189. -/
def execAopCopy (k : Fin 1024) (s : State) : Out := .next (aopInstr k 1 aopCopyTile s)

/-- AOP EXT, R189. -/
def execAopExt (k : Fin 1024) (s : State) : Out := .next (aopInstr k 2 aopExtTile s)

/-- AOP ADDV, R189. -/
def execAopAddv (k : Fin 1024) (s : State) : Out := .next (aopInstr k 3 aopAddvTile s)

/-- AOP EXTF, R189. -/
def execAopExtf (k : Fin 1024) (s : State) : Out := .next (aopInstr k 4 aopExtfTile s)

/-- GRS, R190. -/
def execGrs (k : Fin 1024) (s : State) : Out := .next (tileInstr k 0x28 (fun w t => .ok (grsTile w t)) s)

/-- REQ, R191. -/
def execReq (k : Fin 1024) (s : State) : Out := .next (tileInstr k 0x29 reqTile s)

/-- CVT, R192. -/
def execCvt (k : Fin 1024) (s : State) : Out := .next (tileInstr k 0x2A cvtTile s)

/-- RCP, R192 and R210. -/
def execRcp (k : Fin 1024) (s : State) : Out := .next (tileInstr k 0x2B rcpTile s)

end Sys2Proof.Machine
end

