-- ==== Sys2Proof/Machine/Watch.lean ====
section
/-! DEFINITION. The watch table (R222 to R226): what a streamer counts of a drained tensor, and what the table does with a summary. -/
namespace Sys2Proof.Machine


/-- Counts that hold at 2^32 − 1. -/
def addSat32 (a b : Nat) : Nat := min (2 ^ 32 - 1) (a + b)

/-- An entry's words 0 and 1 with new words 2 to 7. -/
def watchEntry (e : List Byte) (total clipped w4 lastTotal lastClipped windows : Nat) : List Byte :=
  e.take 8 ++ leBytes 4 total ++ leBytes 4 clipped ++ leBytes 4 w4 ++ leBytes 4 lastTotal ++ leBytes 4 lastClipped ++ leBytes 4 windows

/-- QNT_DRIFT of an entry (Table QNT-6). -/
def drift (i a0 total mode windows : Nat) (s : State) : State := raise 0x0701 i a0 total (mode + 2 * windows) (bump 51 1 s)

/-- A summary is applied to an entry with EN = 1 (R225). -/
def applySummary (i lanes clip mx : Nat) (s : State) : State :=
  let e := padTo 32 (tblEntry s 0x30 i)
  let w := fun k => leAt e (4 * k) 4
  let mode := bitsOf (w 0) 1 1
  let thr := w 1
  let total := addSat32 (w 2) lanes
  let clipped := addSat32 (w 3) clip
  let big := max (bitsOf (w 4) 0 8) mx
  let fired := (w 4).testBit 16
  let fire := decide (mode = 0 ∧ thr ≠ 0 ∧ thr ≤ clipped) && !fired
  let s := if fire then drift i clipped total mode (w 7) s else s
  if total < 2 ^ clampNat 10 30 (bitsOf (w 0) 8 5) then
    putEntry 0x30 i (watchEntry e total clipped (big + 256 * bitsOf (w 4) 8 8 + 65536 * b2n (fired || fire)) (w 5) (w 6) (w 7)) s
  else
    let s := if mode = 1 ∧ thr ≠ 0 ∧ big < thr then drift i big total mode (w 7) s else s
    putEntry 0x30 i (watchEntry e 0 0 (256 * big) total clipped (addSat32 (w 7) 1)) s

/-- The table takes a summary (R224): from a bank that is no longer the slot's active one it is stale; an entry with EN = 0 counts nothing. -/
def takeSummary (x : Summary) (s : State) : State :=
  let w0 := leAt (padTo 32 (tblEntry s 0x30 x.entry)) 0 4
  if activeBank s (x.entry / 16) ≠ some x.bank then bump 50 1 s
  else if !w0.testBit 0 || decide (3 < bitsOf w0 2 4) || tblIsBad s 0x30 x.entry then s
  else applySummary x.entry x.sum.lanes x.sum.clipped x.sum.largest (bump 48 1 s)

/-- WATCH_SUMMARY, R224: the oldest summary that the streamers sent reaches the table. -/
def watchSummary (s : State) : State :=
  match s.fab.summaries with
  | [] => s
  | x :: rest => takeSummary x { s with fab := { s.fab with summaries := rest } }

def execWatchSummary (s : State) : Out := .next (if sowerUp s then watchSummary s else s)

end Sys2Proof.Machine
end

