-- ==== Sys2Proof/Machine/Dispatch.lean ====
section
/-! DEFINITION. The one dispatch: each command calls its meaning, which does everything but touch the queue. -/
namespace Sys2Proof.Machine

def exec (i : Instr) (s : State) : Host.Outcome State Fault Refusal :=
  match i with
  | .powerOn gen rev serial fm63 seed smb => Sys2Proof.Machine.execPowerOn gen rev serial fm63 seed smb s
  | .railFault => Sys2Proof.Machine.execRailFault s
  | .devRstAssert ns => Sys2Proof.Machine.execDevRstAssert ns s
  | .devRstRelease => Sys2Proof.Machine.execDevRstRelease s
  | .bringupOtpDone good => Sys2Proof.Machine.execBringupOtpDone good s
  | .bringupClocksLocked pll dlls => Sys2Proof.Machine.execBringupClocksLocked pll dlls s
  | .bringupLinksTrained quads => Sys2Proof.Machine.execBringupLinksTrained quads s
  | .bringupMemoryDone good => Sys2Proof.Machine.execBringupMemoryDone good s
  | .standbyReached pstd => Sys2Proof.Machine.execStandbyReached pstd s
  | .thermalTrip => Sys2Proof.Machine.execThermalTrip s
  | .pllLoss => Sys2Proof.Machine.execPllLoss s
  | .pllRelock => Sys2Proof.Machine.execPllRelock s
  | .dllLost d c => Sys2Proof.Machine.execDllLost d c s
  | .stackLoss d => Sys2Proof.Machine.execStackLoss d s
  | .runSet => Sys2Proof.Machine.execRunSet s
  | .softRst imm => Sys2Proof.Machine.execSoftRst imm s
  | .softResetQuiesce => Sys2Proof.Machine.execSoftResetQuiesce s
  | .softResetClear bad => Sys2Proof.Machine.execSoftResetClear bad s
  | .softResetRestoreDone => Sys2Proof.Machine.execSoftResetRestoreDone s
  | .perstAssert ns => Sys2Proof.Machine.execPerstAssert ns s
  | .flr => Sys2Proof.Machine.execFlr s
  | .smbRst ns => Sys2Proof.Machine.execSmbRst ns s
  | .tdivChangeRequest p code => Sys2Proof.Machine.execTdivChangeRequest p code s
  | .tdivSwitch p => Sys2Proof.Machine.execTdivSwitch p s
  | .devTimeLoad lo => Sys2Proof.Machine.execDevTimeLoad lo s
  | .devTimeLoRead => Sys2Proof.Machine.execDevTimeLoRead s
  | .counterLoRead idx => Sys2Proof.Machine.execCounterLoRead idx s
  | .counterHiRead idx => Sys2Proof.Machine.execCounterHiRead idx s
  | .counterClear idx => Sys2Proof.Machine.execCounterClear idx s
  | .registerWrite off v be => Sys2Proof.Machine.execRegisterWrite off v be s
  | .ptpMasterAdopt v => Sys2Proof.Machine.execPtpMasterAdopt v s
  | .portEnable n => Sys2Proof.Machine.execPortEnable n s
  | .portDisable n => Sys2Proof.Machine.execPortDisable n s
  | .portWindDownDone n => Sys2Proof.Machine.execPortWindDownDone n s
  | .cycleStart n energy => Sys2Proof.Machine.execCycleStart n energy s
  | .fieldMapSeedLoad n slot ahead busy => Sys2Proof.Machine.execFieldMapSeedLoad n slot ahead busy s
  | .codewordDecode n symbols => Sys2Proof.Machine.execCodewordDecode n symbols s
  | .impulseFire n => Sys2Proof.Machine.execImpulseFire n s
  | .impulseRelease n => Sys2Proof.Machine.execImpulseRelease n s
  | .slotMissed n => Sys2Proof.Machine.execSlotMissed n s
  | .burstCutAtSlotEnd n lost => Sys2Proof.Machine.execBurstCutAtSlotEnd n lost s
  | .burstHeader n symbols counted => Sys2Proof.Machine.execBurstHeader n symbols counted s
  | .burstEnd n final offset peaks evm tEnd => Sys2Proof.Machine.execBurstEnd n final offset peaks evm tEnd s
  | .repairSearchTimeout n t => Sys2Proof.Machine.execRepairSearchTimeout n t s
  | .signon n => Sys2Proof.Machine.execSignon n s
  | .holdExpiry n idx => Sys2Proof.Machine.execHoldExpiry n idx s
  | .fcsVerdict fid => Sys2Proof.Machine.execFcsVerdict fid s
  | .puntTokenRefill => Sys2Proof.Machine.execPuntTokenRefill s
  | .bbpBytesAvailable l data uncorr ago => Sys2Proof.Machine.execBbpBytesAvailable l data uncorr ago s
  | .bbpFrameEnd l => Sys2Proof.Machine.execBbpFrameEnd l s
  | .pauseRefresh l pri => Sys2Proof.Machine.execPauseRefresh l pri s
  | .pauseReceived l pri quanta => Sys2Proof.Machine.execPauseReceived l pri quanta s
  | .bbpLinkDown l => Sys2Proof.Machine.execBbpLinkDown l s
  | .bbpLinkUp l => Sys2Proof.Machine.execBbpLinkUp l s
  | .alignedReplyStart mid => Sys2Proof.Machine.execAlignedReplyStart mid s
  | .alignedCrcDecision l => Sys2Proof.Machine.execAlignedCrcDecision l s
  | .ptpSyncReceived l domain source t1 t2 => Sys2Proof.Machine.execPtpSyncReceived l domain source t1 t2 s
  | .bbpPtpLost => Sys2Proof.Machine.execBbpPtpLost s
  | .schedFrame fid => Sys2Proof.Machine.execSchedFrame fid s
  | .ploughEnqueue fid => Sys2Proof.Machine.execPloughEnqueue fid s
  | .parseWalk fid met => Sys2Proof.Machine.execParseWalk fid met s
  | .laterFragment fid => Sys2Proof.Machine.execLaterFragment fid s
  | .fragHoldExpiry fid => Sys2Proof.Machine.execFragHoldExpiry fid s
  | .gleanExpiry first => Sys2Proof.Machine.execGleanExpiry first s
  | .admitMessage fid => Sys2Proof.Machine.execAdmitMessage fid s
  | .sheafWindowExpiry sheaf => Sys2Proof.Machine.execSheafWindowExpiry sheaf s
  | .passDispatch gid => Sys2Proof.Machine.execPassDispatch gid s
  | .passComplete gid used outs spills => Sys2Proof.Machine.execPassComplete gid used outs spills s
  | .sliceOverrun gid elapsed => Sys2Proof.Machine.execSliceOverrun gid elapsed s
  | .cuminShed sheaf => Sys2Proof.Machine.execCuminShed sheaf s
  | .rotationCheck readings => Sys2Proof.Machine.execRotationCheck readings s
  | .headlandInject gid => Sys2Proof.Machine.execHeadlandInject gid s
  | .seedShadowReady u cfg mode watch words => Sys2Proof.Machine.execSeedShadowReady u cfg mode watch words s
  | .unitFinishOldWork u => Sys2Proof.Machine.execUnitFinishOldWork u s
  | .unitFlip u => Sys2Proof.Machine.execUnitFlip u s
  | .tokenArrival k feed => Sys2Proof.Machine.execTokenArrival k feed s
  | .blockFire k => Sys2Proof.Machine.execBlockFire k s
  | .suFire u => Sys2Proof.Machine.execSuFire u s
  | .nop k => Sys2Proof.Machine.execNop k s
  | .alu k => Sys2Proof.Machine.execAlu k s
  | .addi k => Sys2Proof.Machine.execAddi k s
  | .andi k => Sys2Proof.Machine.execAndi k s
  | .ori k => Sys2Proof.Machine.execOri k s
  | .xori k => Sys2Proof.Machine.execXori k s
  | .lui k => Sys2Proof.Machine.execLui k s
  | .shi k => Sys2Proof.Machine.execShi k s
  | .cmp k => Sys2Proof.Machine.execCmp k s
  | .cmpi k => Sys2Proof.Machine.execCmpi k s
  | .plog k => Sys2Proof.Machine.execPlog k s
  | .mfs k => Sys2Proof.Machine.execMfs k s
  | .mts k => Sys2Proof.Machine.execMts k s
  | .lds k ecc => Sys2Proof.Machine.execLds k ecc s
  | .sts k => Sys2Proof.Machine.execSts k s
  | .vld k ecc => Sys2Proof.Machine.execVld k ecc s
  | .vst k => Sys2Proof.Machine.execVst k s
  | .ald k ecc => Sys2Proof.Machine.execAld k ecc s
  | .ast k => Sys2Proof.Machine.execAst k s
  | .valu k => Sys2Proof.Machine.execValu k s
  | .vbcst k => Sys2Proof.Machine.execVbcst k s
  | .vext k => Sys2Proof.Machine.execVext k s
  | .vins k => Sys2Proof.Machine.execVins k s
  | .vcmp k => Sys2Proof.Machine.execVcmp k s
  | .vmac k => Sys2Proof.Machine.execVmac k s
  | .vmacb k => Sys2Proof.Machine.execVmacb k s
  | .aopZero k => Sys2Proof.Machine.execAopZero k s
  | .aopCopy k => Sys2Proof.Machine.execAopCopy k s
  | .aopExt k => Sys2Proof.Machine.execAopExt k s
  | .aopAddv k => Sys2Proof.Machine.execAopAddv k s
  | .aopExtf k => Sys2Proof.Machine.execAopExtf k s
  | .grs k => Sys2Proof.Machine.execGrs k s
  | .req k => Sys2Proof.Machine.execReq k s
  | .cvt k => Sys2Proof.Machine.execCvt k s
  | .rcp k => Sys2Proof.Machine.execRcp k s
  | .send k => Sys2Proof.Machine.execSend k s
  | .recv k => Sys2Proof.Machine.execRecv k s
  | .tag k => Sys2Proof.Machine.execTag k s
  | .event k => Sys2Proof.Machine.execEvent k s
  | .br k => Sys2Proof.Machine.execBr k s
  | .halt k => Sys2Proof.Machine.execHalt k s
  | .syncAdd r => Sys2Proof.Machine.execSyncAdd r s
  | .syncSub r => Sys2Proof.Machine.execSyncSub r s
  | .syncSet r => Sys2Proof.Machine.execSyncSet r s
  | .syncTrydec r => Sys2Proof.Machine.execSyncTrydec r s
  | .syncWaitGe r => Sys2Proof.Machine.execSyncWaitGe r s
  | .syncWaitEq r => Sys2Proof.Machine.execSyncWaitEq r s
  | .syncRead r => Sys2Proof.Machine.execSyncRead r s
  | .syncOpTimeout q => Sys2Proof.Machine.execSyncOpTimeout q s
  | .synWaitTo sheaf => Sys2Proof.Machine.execSynWaitTo sheaf s
  | .replyBuild mid met => Sys2Proof.Machine.execReplyBuild mid met s
  | .bpSlotChoice n => Sys2Proof.Machine.execBpSlotChoice n s
  | .gateTimeout mid => Sys2Proof.Machine.execGateTimeout mid s
  | .hbmRead die dpa purpose owner e0 e1 => Sys2Proof.Machine.execHbmRead die dpa purpose owner e0 e1 s
  | .hbmWrite die dpa purpose owner data => Sys2Proof.Machine.execHbmWrite die dpa purpose owner data s
  | .refresh stack pc waits => Sys2Proof.Machine.execRefresh stack pc waits s
  | .scrubRead stack err raced => Sys2Proof.Machine.execScrubRead stack err raced s
  | .coherenceRequest die line kind owner data => Sys2Proof.Machine.execCoherenceRequest die line kind owner data s
  | .invalidationReceived die line => Sys2Proof.Machine.execInvalidationReceived die line s
  | .kvRowAck mid layer t n tile full => Sys2Proof.Machine.execKvRowAck mid layer t n tile full s
  | .plotBufferUncorr p off reader => Sys2Proof.Machine.execPlotBufferUncorr p off reader s
  | .residentFillDone p errs => Sys2Proof.Machine.execResidentFillDone p errs s
  | .bar2Read x n errs => Sys2Proof.Machine.execBar2Read x n errs s
  | .bar2Write x bytes => Sys2Proof.Machine.execBar2Write x bytes s
  | .flitReceive l d offer takes err => Sys2Proof.Machine.execFlitReceive l d offer takes err s
  | .nakRenew l d => Sys2Proof.Machine.execNakRenew l d s
  | .ackTimeout l d => Sys2Proof.Machine.execAckTimeout l d s
  | .persistWindow => Sys2Proof.Machine.execPersistWindow s
  | .dlkRetrain l full => Sys2Proof.Machine.execDlkRetrain l full s
  | .retrainDone l goodA goodB pause => Sys2Proof.Machine.execRetrainDone l goodA goodB pause s
  | .loopbackSet l v got lock => Sys2Proof.Machine.execLoopbackSet l v got lock s
  | .yokeEpoch imon duty => Sys2Proof.Machine.execYokeEpoch imon duty s
  | .grantReceived d => Sys2Proof.Machine.execGrantReceived d s
  | .grantMissing d => Sys2Proof.Machine.execGrantMissing d s
  | .cpmMarginLoss p => Sys2Proof.Machine.execCpmMarginLoss p s
  | .cpmRetry p => Sys2Proof.Machine.execCpmRetry p s
  | .ldoTargetReached p mv => Sys2Proof.Machine.execLdoTargetReached p mv s
  | .thermalCapChange p sensor => Sys2Proof.Machine.execThermalCapChange p sensor s
  | .calibrationRefit est codes => Sys2Proof.Machine.execCalibrationRefit est codes s
  | .holdoffExpiry => Sys2Proof.Machine.execHoldoffExpiry s
  | .schedSlotTime => Sys2Proof.Machine.execSchedSlotTime s
  | .yokSchedTimeout => Sys2Proof.Machine.execYokSchedTimeout s
  | .nopDescriptor q pos => Sys2Proof.Machine.execNopDescriptor q pos s
  | .installBegin q pos => Sys2Proof.Machine.execInstallBegin q pos s
  | .installChunk q pos data => Sys2Proof.Machine.execInstallChunk q pos data s
  | .installCommit q pos => Sys2Proof.Machine.execInstallCommit q pos s
  | .installCheckDone slot errs => Sys2Proof.Machine.execInstallCheckDone slot errs s
  | .installAbort q pos => Sys2Proof.Machine.execInstallAbort q pos s
  | .tableWrite q pos data => Sys2Proof.Machine.execTableWrite q pos data s
  | .streamOpen q pos => Sys2Proof.Machine.execStreamOpen q pos s
  | .streamClose q pos => Sys2Proof.Machine.execStreamClose q pos s
  | .streamReset q pos => Sys2Proof.Machine.execStreamReset q pos s
  | .streamUnfenceResume q pos => Sys2Proof.Machine.execStreamUnfenceResume q pos s
  | .streamUnfenceDiscard q pos => Sys2Proof.Machine.execStreamUnfenceDiscard q pos s
  | .kvRead q pos errs => Sys2Proof.Machine.execKvRead q pos errs s
  | .kvWrite q pos data => Sys2Proof.Machine.execKvWrite q pos data s
  | .inject q pos data => Sys2Proof.Machine.execInject q pos data s
  | .memRead q pos errs => Sys2Proof.Machine.execMemRead q pos errs s
  | .memWrite q pos data => Sys2Proof.Machine.execMemWrite q pos data s
  | .fence q pos => Sys2Proof.Machine.execFence q pos s
  | .statsSnapshot q pos => Sys2Proof.Machine.execStatsSnapshot q pos s
  | .yokeSetSet q pos => Sys2Proof.Machine.execYokeSetSet q pos s
  | .yokeSetDrain q pos => Sys2Proof.Machine.execYokeSetDrain q pos s
  | .yokeSetResume q pos => Sys2Proof.Machine.execYokeSetResume q pos s
  | .replant q pos => Sys2Proof.Machine.execReplant q pos s
  | .trunkCtlAdmit q pos => Sys2Proof.Machine.execTrunkCtlAdmit q pos s
  | .trunkCtlRefuse q pos => Sys2Proof.Machine.execTrunkCtlRefuse q pos s
  | .trunkCtlExpel q pos => Sys2Proof.Machine.execTrunkCtlExpel q pos s
  | .trunkCtlQuarantine q pos => Sys2Proof.Machine.execTrunkCtlQuarantine q pos s
  | .trunkCtlIsolate q pos => Sys2Proof.Machine.execTrunkCtlIsolate q pos s
  | .isolateComplete n => Sys2Proof.Machine.execIsolateComplete n s
  | .trunkCtlRelease q pos => Sys2Proof.Machine.execTrunkCtlRelease q pos s
  | .trunkCtlSetIlv q pos => Sys2Proof.Machine.execTrunkCtlSetIlv q pos s
  | .trunkCtlSetRepair q pos => Sys2Proof.Machine.execTrunkCtlSetRepair q pos s
  | .puntReturn q pos data => Sys2Proof.Machine.execPuntReturn q pos data s
  | .hifEnable en => Sys2Proof.Machine.execHifEnable en s
  | .ringEnable r en => Sys2Proof.Machine.execRingEnable r en s
  | .doorbellPoll => Sys2Proof.Machine.execDoorbellPoll s
  | .pollResult page timedOut bufs => Sys2Proof.Machine.execPollResult page timedOut bufs s
  | .descriptorFetch q data timedOut => Sys2Proof.Machine.execDescriptorFetch q data timedOut s
  | .shadowWrite => Sys2Proof.Machine.execShadowWrite s
  | .moderationTimer r => Sys2Proof.Machine.execModerationTimer r s
  | .msixUnmask v => Sys2Proof.Machine.execMsixUnmask v s
  | .telemetryTick hbm => Sys2Proof.Machine.execTelemetryTick hbm s
  | .watchSummary => Sys2Proof.Machine.execWatchSummary s
  | .harrowPassStart h upsets => Sys2Proof.Machine.execHarrowPassStart h upsets s
  | .harrowPassDone h corrected found => Sys2Proof.Machine.execHarrowPassDone h corrected found s
  | .hrwWatchdog h words => Sys2Proof.Machine.execHrwWatchdog h words s
  | .plotLdoFault p => Sys2Proof.Machine.execPlotLdoFault p s
  | .plotSensorCheck p passed => Sys2Proof.Machine.execPlotSensorCheck p passed s
  | .placementRetry => Sys2Proof.Machine.execPlacementRetry s
  | .ident a => Sys2Proof.Machine.execIdent a s
  | .status a => Sys2Proof.Machine.execStatus a s
  | .eventSummary a => Sys2Proof.Machine.execEventSummary a s
  | .tempCd a d => Sys2Proof.Machine.execTempCd a d s
  | .tempIod a iod => Sys2Proof.Machine.execTempIod a iod s
  | .tempHbm a hbm => Sys2Proof.Machine.execTempHbm a hbm s
  | .tempMax a iod hbm => Sys2Proof.Machine.execTempMax a iod hbm s
  | .thermalState a => Sys2Proof.Machine.execThermalState a s
  | .pkgPower a => Sys2Proof.Machine.execPkgPower a s
  | .yokeState a => Sys2Proof.Machine.execYokeState a s
  | .drain a data => Sys2Proof.Machine.execDrain a data s
  | .drainRead a => Sys2Proof.Machine.execDrainRead a s
  | .ceilingSet a data => Sys2Proof.Machine.execCeilingSet a data s
  | .ceilingRead a => Sys2Proof.Machine.execCeilingRead a s
  | .softReset a data => Sys2Proof.Machine.execSoftReset a data s
  | .counterSnap a data => Sys2Proof.Machine.execCounterSnap a data s
  | .counterRead a => Sys2Proof.Machine.execCounterRead a s
  | .addrCfg a data => Sys2Proof.Machine.execAddrCfg a data s
  | .addrCfgRead a => Sys2Proof.Machine.execAddrCfgRead a s
  | .portStatus a data => Sys2Proof.Machine.execPortStatus a data s
  | .portStatusRead a => Sys2Proof.Machine.execPortStatusRead a s
  | .clearFaults a data => Sys2Proof.Machine.execClearFaults a data s
  | .alertResponse won => Sys2Proof.Machine.execAlertResponse won s
  | .smbusTimeout own => Sys2Proof.Machine.execSmbusTimeout own s
  | .sdaStuck own => Sys2Proof.Machine.execSdaStuck own s
  | .jtagTrst => Sys2Proof.Machine.execJtagTrst s
  | .bypass => Sys2Proof.Machine.execBypass s
  | .idcode => Sys2Proof.Machine.execIdcode s
  | .samplePreload pins cells => Sys2Proof.Machine.execSamplePreload pins cells s
  | .extest pins => Sys2Proof.Machine.execExtest pins s
  | .clamp => Sys2Proof.Machine.execClamp s
  | .highz => Sys2Proof.Machine.execHighz s
  | .extestPulse seen => Sys2Proof.Machine.execExtestPulse seen s
  | .extestTrain seen => Sys2Proof.Machine.execExtestTrain seen s
  | .hbm1500 op => Sys2Proof.Machine.execHbm1500 op s
  | .diesel sel => Sys2Proof.Machine.execDiesel sel s
  | .tstacc off v write bad => Sys2Proof.Machine.execTstacc off v write bad s
  | .tstDataRead bad => Sys2Proof.Machine.execTstDataRead bad s
  | .tstDataWrite v => Sys2Proof.Machine.execTstDataWrite v s
  | .powerOff => Sys2Proof.Machine.execPowerOff s
  | .perstRelease => Sys2Proof.Machine.execPerstRelease s
  | .smbRstRelease => Sys2Proof.Machine.execSmbRstRelease s
  | .bbpTxFrameEnd l => Sys2Proof.Machine.execBbpTxFrameEnd l s
  | .pauseExpiry l pri => Sys2Proof.Machine.execPauseExpiry l pri s
  | .testLogicReset => Sys2Proof.Machine.execTestLogicReset s
  | .reservedOpcode k => Sys2Proof.Machine.execReservedOpcode k s
  | .badOpcode q pos => Sys2Proof.Machine.execBadOpcode q pos s
  | .twpUnknownCommand a code read => Sys2Proof.Machine.execTwpUnknownCommand a code read s

end Sys2Proof.Machine
end

