-- ==== Sys2Proof/Machine/Tick.lean ====
section
/-! DEFINITION. What passes with time when no command waits (DESIGN CHOICE): one CLK_N cycle, a nanosecond of DEV_TIME and its mirrors
(R89, R295, R296), and whatever the engine does of itself as soon as it may. -/
namespace Sys2Proof.Machine

/-- A trim's fraction after one nanosecond, in units of 2^−32 ns, and the whole nanosecond it gives or takes. -/
def trimStep (frac trim : Int) : Int × Int :=
  let f := frac + trim
  if 2 ^ 32 ≤ f then (1, f - 2 ^ 32) else if f ≤ -(2 ^ 32) then (-1, f + 2 ^ 32) else (0, f)

/-- A mirror after one CLK_N cycle in which DEV_TIME went from `t` to `t'` (R296): one nanosecond, adjusted by its trim and by one nanosecond of
what it slews by. It never decreases; one within 4 ns of DEV_TIME stays so. -/
def Mirror.tick (m : Mirror) (t t' : Nat) : Mirror :=
  let (extra, f) := trimStep m.frac m.trim
  let adj : Int := if 0 < m.slew then 1 else if m.slew < 0 then -1 else 0
  let x := min (m.time + (1 + extra + adj).toNat) (max m.time (t' + 4))
  { m with time := if t ≤ m.time + 4 then max x (t' - 4) else x, frac := f, slew := m.slew - adj }

/-- DEV_TIME after one CLK_N cycle: one nanosecond, adjusted by the trim and, while it slews, held back one in a thousand. It
never decreases (R295). DESIGN CHOICE (log 112): the last trim and an unfinished slew keep acting after SERVO is written 0. -/
def tickClock (c : Clk) : Clk :=
  let (extra, f) := trimStep c.frac c.trim
  let slow : Int := if 0 < c.slew ∧ c.now % 1000 = 999 then 1 else 0
  let t := c.devTime + BitVec.ofNat 64 (1 + extra - slow).toNat
  { c with
    devTime := t, frac := f, slew := c.slew - slow,
    mirror := (List.range 4).foldl (fun m d =>
      if c.dllLock.testBit d then tset Mirror.init d ((tget Mirror.init d m).tick c.devTime.toNat t.toNat) m else m) c.mirror }

/-! ### What the dies count by cycles (R316, R326, R442) -/

/-- The demand of the epoch grows by each die's power (R316), and YOK_THROTTLE_NS by a nanosecond while a plot is under a cap (R326). -/
def tickYoke (s : State) : State :=
  let s := if yokState s = 0 then s
    else each (List.range 4) (fun d s => setYd d { getYd s d with acc := (getYd s d).acc + diePower s d } s) { s with yoke := { s.yoke with span := s.yoke.span + 1 } }
  if s.plots.any (fun p => decide (p.2.cap ≠ 0)) then bump 101 1 s else s

/-- CLK_T cycles of a divider code up to a time in ns (Table YOK-2): 3 in 2 ns, 6 in 5, 1 in 1 and 3 in 4. -/
def coreCycles (code t : Nat) : Nat :=
  match code with | 0 => 3 * t / 2 | 1 => 6 * t / 5 | 2 => t | _ => 3 * t / 4

/-- How many of a plot's tiles satisfy a test. -/
def tilesWith (s : State) (p : Nat) (f : Tile → Bool) : Nat := ((List.range 16).filter (fun k => f (getTile s (16 * p + k)))).length

/-- A tile is idle: it has no block running and none fireable (R322). -/
def idleTile (t : Tile) : Bool := decide (t.run = .idle) && (fireable t).isNone

/-- Ballast takes the first `duty` of every 256 CLK_T cycles (R322; log 113). -/
def ballastCycles (duty from_ n : Nat) : Nat := ((List.range n).filter (fun i => decide ((from_ + i) % 256 < duty))).length

/-- The counters of a plot that count CLK_T cycles (R442): 1 with a block running, 5 with a full store, 8 of ballast. -/
def pmuPlot (p : Nat) (s : State) : State :=
  let c := tget 0 p s.clk.tdiv
  let from_ := coreCycles c s.clk.now
  let n := coreCycles c (s.clk.now + 1) - from_
  let s := pmuCount p 1 (n * tilesWith s p (fun t => decide (t.run ≠ .idle ∧ t.run ≠ .fault))) s
  let s := pmuCount p 5 (n * tilesWith s p (fun t => decide (64 ≤ t.ms.length))) s
  pmuCount p 8 (ballastCycles (getPlot s p).duty from_ n * tilesWith s p idleTile) s

/-- A counter of die `d` selects an event that counts cycles. -/
def countsCycles (s : State) (d : Nat) : Bool :=
  (List.range 8).any (fun k => decide (regF s (0x8120 + 0x40 * d + 4 * k) 0 5 ∈ [1, 5, 8]))

/-- One nanosecond of the performance counters; a gated plot has CLK_T stopped (R294). -/
def tickPmu (s : State) : State :=
  if !plotsOn s then s
  else each ((List.range 4).filter (countsCycles s)) (fun d s => each ((List.range 16).map (16 * d + ·)) pmuPlot s) s

/-- One CLK_N cycle. DEV_TIME and its mirrors run while the root PLL is locked (R295). -/
def tick (s : State) : State :=
  if !s.glb.powered then s
  else
    let s := tickPmu (tickYoke s)
    let c := if s.clk.pllLock then tickClock s.clk else s.clk
    bbSettle (fenceCheck { s with clk := { c with now := c.now + 1 } })

end Sys2Proof.Machine
end

