-- ==== Sys2Proof/Laws/Table.lean ====
section
/-! SUPPORT. The laws of sparse tables: what a read after a write gives, and that every update keeps the canonical form. -/
namespace Sys2Proof.Machine

variable {α : Type}

/-- A key that is dropped is not listed. -/
theorem tget_tdel_same {x : α} {k : Nat} : ∀ t : List (Nat × α), tget x k (tdel k t) = x
  | [] => rfl
  | (k', v) :: t => by
    have ih := tget_tdel_same (x := x) (k := k) t
    unfold tdel at ih ⊢
    rw [List.filter_cons]
    split
    · next h => rw [tget, if_neg (by simpa using h), ih]
    · exact ih

theorem tget_tdel_other {x : α} {j k : Nat} (hjk : j ≠ k) : ∀ t : List (Nat × α), tget x j (tdel k t) = tget x j t
  | [] => rfl
  | (k', v) :: t => by
    have ih := tget_tdel_other (x := x) hjk t
    unfold tdel at ih ⊢
    rw [List.filter_cons]
    split
    · rw [tget, tget, ih]
    · next h =>
      have hk : k' = k := by simpa using h
      rw [ih, tget, if_neg (by omega)]

theorem tget_tins_same {x v : α} {k : Nat} : ∀ t : List (Nat × α), (∀ e ∈ t, e.1 ≠ k) → tget x k (tins k v t) = v
  | [], _ => by simp [tins, tget]
  | e :: t, h => by
    simp only [tins]
    split
    · simp [tget]
    · simp [tget, h e (List.mem_cons_self), tget_tins_same t (fun e he => h e (List.mem_cons_of_mem _ he))]

theorem tget_tins_other {x v : α} {j k : Nat} (hjk : j ≠ k) : ∀ t : List (Nat × α), tget x j (tins k v t) = tget x j t
  | [] => by simp [tins, tget, Ne.symm hjk]
  | e :: t => by
    simp only [tins]
    split
    · simp [tget, Ne.symm hjk]
    · simp [tget, tget_tins_other hjk t]

theorem tdel_mem {k : Nat} {t : List (Nat × α)} : ∀ e ∈ tdel k t, e.1 ≠ k := fun e he => by
  simpa using (List.mem_filter.mp he).2

/-- Another key reads as before. -/
theorem tget_tset_other [DecidableEq α] {d x v : α} {j k : Nat} (hjk : j ≠ k) (t : List (Nat × α)) :
    tget x j (tset d k v t) = tget x j t := by
  unfold tset
  split
  · exact tget_tdel_other hjk t
  · rw [tget_tins_other hjk, tget_tdel_other hjk]

/-- The written key reads as what was written. -/
@[simp] theorem tget_tset_same [DecidableEq α] {d : α} {k : Nat} {v : α} (t : List (Nat × α)) : tget d k (tset d k v t) = v := by
  unfold tset
  split
  · next h => rw [tget_tdel_same, h]
  · exact tget_tins_same _ tdel_mem

/-- Both cases of a read after a write. -/
theorem tget_tset [DecidableEq α] {d v : α} {j k : Nat} (t : List (Nat × α)) :
    tget d j (tset d k v t) = if j = k then v else tget d j t := by
  split
  · next h => subst h; exact tget_tset_same t
  · next h => exact tget_tset_other h t

theorem twfFrom_weaken [DecidableEq α] {d : Nat → α} {lo : Option Nat} {l' : Option Nat} {t : List (Nat × α)}
    (h : twfFrom d lo t = true) (hl : ∀ a, l' = some a → ∃ b, lo = some b ∧ a ≤ b) : twfFrom d l' t = true := by
  cases t with
  | nil => rfl
  | cons e t =>
    obtain ⟨k, v⟩ := e
    simp only [twfFrom, Bool.and_eq_true] at h ⊢
    refine ⟨⟨?_, h.1.2⟩, h.2⟩
    cases l' with
    | none => rfl
    | some a =>
      obtain ⟨b, rfl, hab⟩ := hl a rfl
      simp only [decide_eq_true_eq] at h ⊢
      omega

/-- Dropping entries keeps the canonical form. -/
theorem twfFrom_filter [DecidableEq α] {d : Nat → α} {p : Nat × α → Bool} :
    ∀ {t : List (Nat × α)} {lo : Option Nat}, twfFrom d lo t = true → twfFrom d lo (t.filter p) = true
  | [], _, _ => rfl
  | (k, v) :: t, lo, h => by
    simp only [List.filter]
    have h' := h
    simp only [twfFrom, Bool.and_eq_true] at h
    split
    · simp only [twfFrom, Bool.and_eq_true]
      exact ⟨h.1, twfFrom_filter h.2⟩
    · refine twfFrom_filter (twfFrom_weaken h.2 ?_)
      intro a ha
      subst ha
      exact ⟨k, rfl, Nat.le_of_lt (by simpa using h.1.1)⟩

theorem twf_filter [DecidableEq α] {d : Nat → α} {p : Nat × α → Bool} {t : List (Nat × α)} (h : twf d t = true) :
    twf d (t.filter p) = true := twfFrom_filter h

/-- A write keeps the canonical form. -/
theorem twfFrom_tins [DecidableEq α] {d : Nat → α} {k : Nat} {v : α} (hv : v ≠ d k) :
    ∀ {t : List (Nat × α)} {lo : Option Nat}, twfFrom d lo t = true → (∀ e ∈ t, e.1 ≠ k) → (∀ l, lo = some l → l < k) →
      twfFrom d lo (tins k v t) = true
  | [], lo, _, _, hlo => by
    simp only [tins, twfFrom, Bool.and_eq_true, decide_eq_true_eq, Bool.and_true, hv, ne_eq, not_false_eq_true, and_true]
    cases lo with
    | none => rfl
    | some l => simpa using hlo l rfl
  | (k', v') :: t, lo, h, hm, hlo => by
    have hne : k' ≠ k := hm _ (List.mem_cons_self)
    have h0 := h
    simp only [twfFrom, Bool.and_eq_true] at h
    simp only [tins]
    split
    · next hlt =>
      simp only [twfFrom, Bool.and_eq_true, decide_eq_true_eq]
      refine ⟨⟨?_, hv⟩, ⟨hlt, of_decide_eq_true h.1.2⟩, h.2⟩
      cases lo with
      | none => rfl
      | some l => simpa using hlo l rfl
    · simp only [twfFrom, Bool.and_eq_true]
      exact ⟨h.1, twfFrom_tins hv h.2 (fun e he => hm e (List.mem_cons_of_mem _ he)) (fun l hl => by cases hl; omega)⟩

theorem twf_tset [DecidableEq α] {d : Nat → α} {k : Nat} {v : α} {t : List (Nat × α)} (h : twf d t = true) :
    twf d (tset (d k) k v t) = true := by
  unfold tset
  split
  · exact twf_filter h
  · next hv => exact twfFrom_tins hv (twf_filter h) tdel_mem (by simp)

/-- Consecutive writes keep the canonical form. -/
theorem twf_tsetList [DecidableEq α] {d : α} : ∀ (vs : List α) (k : Nat) (t : List (Nat × α)), twf (fun _ => d) t = true →
    twf (fun _ => d) (tsetList d k vs t) = true
  | [], _, _, h => h
  | _ :: vs, k, _, h => twf_tsetList vs (k + 1) _ (twf_tset (d := fun _ => d) h)

theorem twf_tclear [DecidableEq α] {d : Nat → α} {k n : Nat} {t : List (Nat × α)} (h : twf d t = true) :
    twf d (tclear k n t) = true := twf_filter h

/-- Equal reads of canonical tables are equal tables' reads: an unlisted key reads as its default. -/
theorem tget_nil (x : α) (k : Nat) : tget x k [] = x := rfl

/-- A key outside a dropped range reads as before. -/
theorem tget_tclear_other {x : α} {j k n : Nat} (hj : j < k ∨ k + n ≤ j) : ∀ t : List (Nat × α), tget x j (tclear k n t) = tget x j t
  | [] => rfl
  | (k', v) :: t => by
    have ih := tget_tclear_other (x := x) hj t
    simp only [tclear] at ih ⊢
    simp only [List.filter]
    split
    · simp only [tget, ih]
    · next h =>
      have : k' ≠ j := by
        rintro rfl
        simp at h
        omega
      simp only [tget, this, if_false, ih]

end Sys2Proof.Machine
end

