-- ==== Sys2Proof/Safety.lean ====
section
/-! DEFINITION. What counts as a safe state and a safe command, and what it means to change nothing but named parts of the state: the
terms the statements use. -/
namespace Sys2Proof.Machine

/-- The invariant of every state: HBM, its poison, the registers and the counters are in canonical form, and bit 0 of the DIESEL
register, the I/O die's, reads 1 (R435). -/
structure Inv (s : State) : Prop where
  hbm : Memory.wf s.mem.hbm = true
  poison : twf (fun _ => false) s.mem.poison = true
  regs : twf regReset s.regs = true
  cnt : twf (fun _ => (0 : BitVec 64)) s.cnt = true
  diesel : s.tap.diesel.testBit 0 = true

/-- The commands that take a hard or cold reset, or remove the power (R299, R301, R302, R309, R459). -/
def hardResets (c : Instr) : Bool :=
  match c with
  | .powerOn .. | .powerOff | .railFault | .devRstAssert .. | .thermalTrip | .pllLoss => true
  | _ => false

/-- What every hard or cold reset clears (Table RST-1): run, traffic, streams, tables, models, the fabric, the host interface, memory,
counters, ports and links. -/
def Cleared (t : State) : Prop :=
  t.glb.run = false ∧ t.glb.phase = .reset ∧ t.glb.deviceFatal = false ∧ t.hif = State.reset.hif ∧ t.streams = [] ∧ t.msgs = [] ∧ t.frames = [] ∧
    t.tables = [] ∧ t.egress = [] ∧ t.slots = [] ∧ t.sheaves = [] ∧ t.groups = [] ∧ t.plots = [] ∧ t.tiles = [] ∧ t.waits = [] ∧
    t.mem = State.reset.mem ∧ t.cnt = [] ∧ t.ports = [] ∧ t.links = []

/-- The host interface as its reset leaves it (R305, R306): HIF_CTL.EN and every ring's EN read 0, and the MSI-X table is at its reset values. -/
def HostRegsClear (t : State) : Prop :=
  getReg t 0x0800 = 0 ∧ (∀ r, r < 36 → getReg t (0x090C + 16 * r) = 0) ∧ (∀ off, 0x0C00 ≤ off → off < 0x1000 → getReg t off = (regReset off).toNat)

/-! ### Frames -/

/-- The parts of the state: the fields of State, with GLB_CTL.RUN, PHASE, DEVICE_FATAL, the two latched shutdowns, the fuses, DIE_OK and DIE_FATAL and the
bytes of HBM told apart from the structures that hold them, and the registers told apart by the prefix of their names. -/
inductive Piece where
  | run | phase | fatal | trip | rail | fuses | dies | glb
  | regGlb | regClk | regRst | regHif | regTrk | regBbp | regPlg | regSow | regRpl | regYok
  | regDlk | regMem | regHrw | regTwp | regSyn | regTst | cnt | clk | hif | streams | msgs | frames | plg | tables | tblBad | egress
  | slots | sheaves | groups | plots | tiles | switches | sus | fab | waits | yoke | hbm | poison | mem | answer | ports | fm
  | bbs | ptp | links | hrw | twp | tap | trc | alert | nextMid | nextFid | nextBuild | nextSid | freeCtr | pending
  deriving DecidableEq, Repr

/-- The block of a register's offset, by the prefix of the registers there (Tables GLB-10 to GLB-19): GLB, CLK, RST, HIF and MSIX, TRK,
BBP, PLG, SOW and SYN_SOWER_TO, RPL, YOK, DLK, MEM, HRW, TWP, SYN, TST. -/
def regBlock (off : Nat) : Piece :=
  if off < 0x0400 then .regGlb
  else if off < 0x0440 then .regClk
  else if off < 0x0800 then .regRst
  else if off < 0x1000 then .regHif
  else if off < 0x2000 then .regTrk
  else if off < 0x2400 then .regBbp
  else if off < 0x2600 then .regPlg
  else if off < 0x2700 then .regSow
  else if off < 0x2800 then .regRpl
  else if off < 0x2c00 then .regYok
  else if off < 0x3000 then .regDlk
  else if off < 0x3400 then .regMem
  else if off < 0x3800 then .regHrw
  else if off < 0x3c00 then .regTwp
  else if off < 0x8000 then .regSyn
  else .regTst

/-- Every register of a block reads the same. -/
def sameRegs (b : Piece) (s t : State) : Prop := ∀ off, regBlock off = b → getReg t off = getReg s off

/-- `b` with the parts of `a` that Piece tells apart. -/
@[reducible] def restGlb (a b : Glb) : Glb :=
  { b with
    run := a.run
    phase := a.phase
    deviceFatal := a.deviceFatal
    thermtrip := a.thermtrip
    railFault := a.railFault
    otp := a.otp
    hardLanes := a.hardLanes
    dieOk := a.dieOk
    dieFatal := a.dieFatal }

@[reducible] def restMem (a b : Mem) : Mem :=
  { b with
    hbm := a.hbm
    poison := a.poison }

/-- A part is the same in both states. `glb` and `mem` are what is left of those structures beside the parts told apart. -/
def Piece.same (p : Piece) (s t : State) : Prop :=
  match p with
  | .run => t.glb.run = s.glb.run
  | .phase => t.glb.phase = s.glb.phase
  | .fatal => t.glb.deviceFatal = s.glb.deviceFatal
  | .trip => t.glb.thermtrip = s.glb.thermtrip
  | .rail => t.glb.railFault = s.glb.railFault
  | .fuses => t.glb.otp = s.glb.otp ∧ t.glb.hardLanes = s.glb.hardLanes
  | .dies => t.glb.dieOk = s.glb.dieOk ∧ t.glb.dieFatal = s.glb.dieFatal
  | .glb => restGlb s.glb t.glb = s.glb
  | .regGlb => sameRegs .regGlb s t
  | .regClk => sameRegs .regClk s t
  | .regRst => sameRegs .regRst s t
  | .regHif => sameRegs .regHif s t
  | .regTrk => sameRegs .regTrk s t
  | .regBbp => sameRegs .regBbp s t
  | .regPlg => sameRegs .regPlg s t
  | .regSow => sameRegs .regSow s t
  | .regRpl => sameRegs .regRpl s t
  | .regYok => sameRegs .regYok s t
  | .regDlk => sameRegs .regDlk s t
  | .regMem => sameRegs .regMem s t
  | .regHrw => sameRegs .regHrw s t
  | .regTwp => sameRegs .regTwp s t
  | .regSyn => sameRegs .regSyn s t
  | .regTst => sameRegs .regTst s t
  | .cnt => t.cnt = s.cnt
  | .clk => t.clk = s.clk
  | .hif => t.hif = s.hif
  | .streams => t.streams = s.streams
  | .msgs => t.msgs = s.msgs
  | .frames => t.frames = s.frames
  | .plg => t.plg = s.plg
  | .tables => t.tables = s.tables
  | .tblBad => t.tblBad = s.tblBad
  | .egress => t.egress = s.egress
  | .slots => t.slots = s.slots
  | .sheaves => t.sheaves = s.sheaves
  | .groups => t.groups = s.groups
  | .plots => t.plots = s.plots
  | .tiles => t.tiles = s.tiles
  | .switches => t.switches = s.switches
  | .sus => t.sus = s.sus
  | .fab => t.fab = s.fab
  | .waits => t.waits = s.waits
  | .yoke => t.yoke = s.yoke
  | .hbm => t.mem.hbm = s.mem.hbm
  | .poison => t.mem.poison = s.mem.poison
  | .mem => restMem s.mem t.mem = s.mem
  | .answer => t.answer = s.answer
  | .ports => t.ports = s.ports
  | .fm => t.fm = s.fm
  | .bbs => t.bbs = s.bbs
  | .ptp => t.ptp = s.ptp
  | .links => t.links = s.links
  | .hrw => t.hrw = s.hrw
  | .twp => t.twp = s.twp
  | .tap => t.tap = s.tap
  | .trc => t.trc = s.trc
  | .alert => t.alert = s.alert
  | .nextMid => t.nextMid = s.nextMid
  | .nextFid => t.nextFid = s.nextFid
  | .nextBuild => t.nextBuild = s.nextBuild
  | .nextSid => t.nextSid = s.nextSid
  | .freeCtr => t.freeCtr = s.freeCtr
  | .pending => t.pending = s.pending

/-- Nothing but the named parts differs between the two states. -/
def ChangesOnly (ps : List Piece) (s t : State) : Prop := ∀ p, p ∉ ps → p.same s t

/-- The blocks of registers, in the order of their offsets. -/
def regParts : List Piece :=
  [.regGlb, .regClk, .regRst, .regHif, .regTrk, .regBbp, .regPlg, .regSow, .regRpl, .regYok, .regDlk, .regMem, .regHrw, .regTwp, .regSyn,
    .regTst]

/-- The named pieces and every register. -/
def withRegs (ps : List Piece) : List Piece := regParts ++ ps

/-- The named pieces and everything that a hard reset sets. -/
def withReset (ps : List Piece) : List Piece :=
  List.append ps (withRegs (List.append
    [.run, .phase, .fatal, .dies, .glb, .cnt, .clk, .hif, .streams, .msgs, .frames, .plg, .tables, .tblBad, .egress, .slots, .sheaves, .groups, .plots, .tiles,
      .switches, .sus, .fab]
    [.waits, .yoke, .hbm, .poison, .mem, .answer, .ports, .fm, .bbs, .ptp, .links, .hrw, .twp, .tap, .trc, .alert, .nextMid, .nextFid,
      .nextBuild, .nextSid]))

/-- The frame of every command: the pieces of the state that it may change when it goes on. Nothing else differs afterwards. -/
def mayChange (c : Instr) : List Piece :=
  match c with
  | .powerOn .. =>
    withReset [.trip, .rail, .fuses]
  | .railFault =>
    withReset [.rail]
  | .devRstAssert .. =>
    withReset [.freeCtr]
  | .devRstRelease =>
    [.phase, .glb, .regYok]
  | .bringupOtpDone .. =>
    [.phase, .glb, .alert]
  | .bringupClocksLocked .. | .bringupLinksTrained .. =>
    [.phase, .fatal, .dies, .glb, .regYok, .cnt, .clk, .hif, .streams, .msgs, .frames, .plg, .egress, .slots, .sheaves, .groups, .plots,
      .tiles, .switches, .sus, .fab, .waits, .yoke, .mem, .ports, .bbs, .links, .hrw, .alert, .nextBuild, .nextSid]
  | .bringupMemoryDone .. =>
    .phase :: .fatal :: [.dies, .glb, .regYok, .cnt, .clk, .hif, .streams, .msgs, .frames, .plg, .egress, .slots, .sheaves, .groups,
      .plots, .tiles, .switches, .sus, .fab, .waits, .yoke, .hbm, .poison, .mem, .ports, .bbs, .links, .hrw, .alert, .nextBuild, .nextSid]
  | .standbyReached .. | .runSet =>
    [.run, .phase, .glb, .regYok, .cnt, .clk, .hif, .plots, .yoke, .alert]
  | .thermalTrip =>
    withReset [.trip]
  | .pllLoss =>
    withReset []
  | .pllRelock =>
    [.phase, .glb]
  | .dllLost .. | .stackLoss .. =>
    [.fatal, .dies, .regYok, .cnt, .clk, .hif, .streams, .msgs, .frames, .plg, .egress, .slots, .sheaves, .groups, .plots, .tiles,
      .switches, .sus, .fab, .waits, .yoke, .mem, .ports, .bbs, .links, .hrw, .alert, .nextBuild, .nextSid]
  | .softRst .. =>
    [.phase, .glb, .regGlb, .regRst, .regYok, .cnt, .clk, .hif, .plots, .yoke, .alert]
  | .softResetQuiesce =>
    [.glb, .regYok, .cnt, .clk, .hif, .streams, .msgs, .frames, .plg, .egress, .slots, .sheaves, .groups, .plots, .waits, .yoke, .ports,
      .bbs, .alert, .nextBuild, .nextSid]
  | .softResetClear .. =>
    [.glb, .regSyn, .cnt, .hif, .streams, .msgs, .frames, .plg, .tables, .egress, .slots, .sheaves, .groups, .plots, .tiles, .switches,
      .sus, .fab, .waits, .yoke, .mem, .ports, .links, .alert]
  | .softResetRestoreDone =>
    [.phase, .glb, .regYok, .regMem, .cnt, .clk, .hif, .streams, .msgs, .egress, .slots, .sheaves, .groups, .plots, .tiles, .switches,
      .sus, .fab, .waits, .yoke, .hbm, .poison, .mem, .bbs, .links, .hrw, .trc, .alert, .nextBuild, .nextSid]
  | .perstAssert .. =>
    [.phase, .glb, .regRst, .regHif, .regYok, .cnt, .clk, .hif, .streams, .msgs, .frames, .egress, .slots, .sheaves, .groups, .plots,
      .waits, .yoke, .bbs, .alert, .nextBuild, .nextSid]
  | .flr =>
    [.glb, .regRst, .regHif, .cnt, .hif, .streams, .msgs, .frames, .egress, .slots, .sheaves, .groups, .plots, .waits, .yoke, .bbs, .alert,
      .nextBuild, .nextSid]
  | .smbRst .. =>
    [.glb, .regTwp, .twp, .alert, .freeCtr]
  | .tdivChangeRequest .. =>
    [.clk]
  | .tdivSwitch .. | .cpmRetry .. | .ldoTargetReached .. =>
    [.clk, .plots]
  | .devTimeLoad .. =>
    [.regGlb, .regClk, .clk]
  | .devTimeLoRead | .counterLoRead .. =>
    [.clk, .answer]
  | .counterHiRead .. =>
    [.answer]
  | .counterClear .. =>
    [.cnt]
  | .registerWrite .. =>
    withRegs [.run, .phase, .glb, .cnt, .clk, .hif, .streams, .msgs, .frames, .plg, .egress, .slots, .sheaves, .groups, .plots, .tiles,
      .waits, .yoke, .ports, .fm, .bbs, .ptp, .links, .hrw, .trc, .alert, .nextBuild, .nextSid, .freeCtr]
  | .ptpMasterAdopt .. =>
    [.regBbp, .ptp]
  | .portEnable .. | .portWindDownDone .. =>
    [.regTrk, .ports]
  | .portDisable .. =>
    [.regTrk, .cnt, .hif, .streams, .msgs, .frames, .plg, .egress, .slots, .sheaves, .groups, .plots, .waits, .yoke, .ports, .bbs, .alert,
      .nextBuild, .nextSid]
  | .cycleStart .. =>
    [.cnt, .hif, .ports, .fm, .alert, .freeCtr]
  | .fieldMapSeedLoad .. | .impulseRelease .. =>
    [.ports]
  | .codewordDecode .. =>
    [.cnt, .hif, .streams, .msgs, .frames, .plg, .egress, .slots, .sheaves, .groups, .plots, .waits, .yoke, .ports, .bbs, .alert, .nextFid,
      .nextBuild, .nextSid]
  | .impulseFire .. | .slotMissed .. | .trunkCtlExpel .. | .trunkCtlIsolate .. | .isolateComplete .. | .trunkCtlRelease .. =>
    [.cnt, .hif, .ports, .alert]
  | .burstCutAtSlotEnd .. =>
    [.cnt, .hif, .streams, .msgs, .frames, .plg, .egress, .slots, .sheaves, .groups, .plots, .waits, .yoke, .ports, .fm, .bbs, .alert,
      .nextFid, .nextBuild, .nextSid]
  | .burstHeader .. | .repairSearchTimeout .. =>
    [.cnt, .hif, .frames, .ports, .alert]
  | .burstEnd .. =>
    [.cnt, .hif, .streams, .msgs, .frames, .plg, .egress, .slots, .sheaves, .groups, .plots, .waits, .yoke, .ports, .fm, .bbs, .alert,
      .nextBuild, .nextSid]
  | .signon .. =>
    [.regTrk, .cnt, .hif, .frames, .plg, .ports, .fm, .alert, .nextFid]
  | .holdExpiry .. =>
    [.ports, .fm]
  | .fcsVerdict .. | .bbpFrameEnd .. | .laterFragment .. | .gleanExpiry .. =>
    [.cnt, .hif, .streams, .msgs, .frames, .plg, .egress, .slots, .sheaves, .groups, .plots, .waits, .yoke, .bbs, .alert, .nextBuild,
      .nextSid]
  | .puntTokenRefill =>
    [.plg]
  | .bbpBytesAvailable .. =>
    [.cnt, .hif, .streams, .msgs, .frames, .plg, .egress, .slots, .sheaves, .groups, .plots, .waits, .yoke, .bbs, .alert, .nextFid,
      .nextBuild, .nextSid]
  | .pauseRefresh .. =>
    [.bbs]
  | .pauseReceived .. | .pauseExpiry .. =>
    [.cnt, .hif, .msgs, .egress, .bbs, .alert]
  | .bbpLinkDown .. =>
    [.regBbp, .cnt, .hif, .streams, .msgs, .frames, .plg, .egress, .slots, .sheaves, .groups, .plots, .waits, .yoke, .bbs, .alert,
      .nextBuild, .nextSid]
  | .bbpLinkUp .. =>
    [.regBbp, .cnt, .hif, .alert]
  | .alignedReplyStart .. =>
    [.msgs, .bbs]
  | .alignedCrcDecision .. =>
    [.cnt, .hif, .streams, .msgs, .bbs, .alert]
  | .ptpSyncReceived .. =>
    [.cnt, .clk, .hif, .ptp, .alert, .freeCtr]
  | .bbpPtpLost =>
    [.cnt, .hif, .ptp, .alert]
  | .schedFrame .. =>
    [.phase, .regYok, .cnt, .clk, .hif, .msgs, .frames, .plg, .egress, .plots, .yoke, .bbs, .alert]
  | .ploughEnqueue .. =>
    [.cnt, .hif, .frames, .alert]
  | .parseWalk .. | .replyBuild .. | .harrowPassDone .. =>
    .fatal :: [.dies, .regYok, .cnt, .clk, .hif, .streams, .msgs, .frames, .plg, .tblBad, .egress, .slots, .sheaves, .groups, .plots,
      .tiles, .switches, .sus, .fab, .waits, .yoke, .mem, .ports, .fm, .bbs, .links, .hrw, .trc, .alert, .nextBuild, .nextSid]
  | .fragHoldExpiry .. =>
    [.cnt, .hif, .msgs, .frames, .plg, .egress, .bbs, .alert]
  | .admitMessage .. =>
    [.cnt, .hif, .streams, .msgs, .frames, .plg, .egress, .slots, .sheaves, .groups, .plots, .tiles, .switches, .sus, .fab, .waits, .yoke,
      .links, .hrw, .trc, .alert, .nextMid, .nextBuild, .nextSid]
  | .sheafWindowExpiry .. | .grantMissing .. | .streamUnfenceResume .. =>
    [.cnt, .hif, .streams, .msgs, .egress, .slots, .sheaves, .groups, .plots, .tiles, .switches, .sus, .fab, .waits, .yoke, .links, .hrw,
      .alert, .nextBuild, .nextSid]
  | .passDispatch .. =>
    [.regMem, .cnt, .hif, .streams, .msgs, .egress, .slots, .sheaves, .groups, .plots, .tiles, .switches, .sus, .fab, .waits, .yoke,
      .links, .hrw, .trc, .alert, .nextBuild, .nextSid]
  | .passComplete .. =>
    [.regSyn, .cnt, .hif, .streams, .msgs, .egress, .slots, .sheaves, .groups, .plots, .tiles, .switches, .sus, .fab, .waits, .yoke,
      .links, .hrw, .trc, .alert, .nextBuild, .nextSid]
  | .sliceOverrun .. | .unitFlip .. | .replant .. =>
    [.cnt, .hif, .streams, .msgs, .egress, .slots, .sheaves, .groups, .plots, .tiles, .switches, .sus, .fab, .waits, .yoke, .links, .hrw,
      .trc, .alert, .nextBuild, .nextSid]
  | .cuminShed .. | .synWaitTo .. =>
    [.cnt, .hif, .streams, .msgs, .egress, .slots, .sheaves, .groups, .plots, .waits, .yoke, .links, .trc, .alert, .nextBuild, .nextSid]
  | .rotationCheck .. =>
    [.cnt, .hif, .groups, .plots, .tiles, .switches, .sus, .fab, .waits, .links, .hrw, .alert]
  | .headlandInject .. | .suFire .. | .flitReceive .. =>
    [.cnt, .hif, .streams, .msgs, .egress, .slots, .sheaves, .groups, .plots, .sus, .fab, .waits, .yoke, .links, .alert, .nextBuild,
      .nextSid]
  | .seedShadowReady .. =>
    [.cnt, .hif, .groups, .plots, .tiles, .switches, .sus, .hrw, .alert]
  | .unitFinishOldWork .. =>
    [.cnt, .hif, .streams, .msgs, .egress, .slots, .sheaves, .groups, .plots, .tiles, .sus, .fab, .waits, .yoke, .links, .alert,
      .nextBuild, .nextSid]
  | .tokenArrival .. | .lds .. | .vld .. | .ald .. | .plotBufferUncorr .. | .retrainDone .. | .plotLdoFault .. | .plotSensorCheck .. =>
    [.fatal, .dies, .regYok, .cnt, .clk, .hif, .streams, .msgs, .frames, .plg, .egress, .slots, .sheaves, .groups, .plots, .tiles,
      .switches, .sus, .fab, .waits, .yoke, .mem, .ports, .bbs, .links, .hrw, .trc, .alert, .nextBuild, .nextSid]
  | .blockFire .. =>
    [.cnt, .hif, .tiles, .alert]
  | .nop .. | .alu .. | .addi .. | .andi .. | .ori .. | .xori .. | .lui .. | .shi .. | .cmp .. | .cmpi .. | .plog .. | .mfs .. | .mts .. |
  .sts .. | .vst .. | .ast .. | .valu .. | .vbcst .. | .vext .. | .vins .. | .vcmp .. | .vmac .. | .vmacb .. | .aopZero .. | .aopCopy ..
  | .aopExt .. | .aopAddv .. | .aopExtf .. | .grs .. | .req .. | .cvt .. | .rcp .. | .recv .. | .event .. | .br .. | .halt .. |
  .reservedOpcode .. =>
    [.cnt, .hif, .tiles, .links, .trc, .alert]
  | .send .. =>
    [.cnt, .hif, .streams, .msgs, .egress, .slots, .sheaves, .groups, .plots, .tiles, .sus, .fab, .waits, .yoke, .links, .trc, .alert,
      .nextBuild, .nextSid]
  | .tag .. =>
    [.cnt, .hif, .streams, .msgs, .egress, .slots, .sheaves, .groups, .plots, .tiles, .waits, .yoke, .links, .trc, .alert, .nextBuild,
      .nextSid]
  | .syncAdd .. | .syncSub .. | .syncSet .. | .syncTrydec .. | .syncWaitGe .. | .syncWaitEq .. | .syncRead .. =>
    [.regSyn, .cnt, .hif, .sheaves, .tiles, .waits, .links, .trc, .alert]
  | .syncOpTimeout .. =>
    [.cnt, .hif, .waits, .alert]
  | .bpSlotChoice .. =>
    [.cnt, .hif, .streams, .msgs, .egress, .slots, .sheaves, .groups, .plots, .waits, .yoke, .ports, .bbs, .links, .trc, .alert,
      .nextBuild, .nextSid]
  | .gateTimeout .. | .bbpTxFrameEnd .. =>
    [.cnt, .hif, .streams, .msgs, .egress, .slots, .sheaves, .groups, .plots, .waits, .yoke, .bbs, .alert, .nextBuild, .nextSid]
  | .hbmRead .. | .hbmWrite .. | .coherenceRequest .. | .residentFillDone .. =>
    [.regMem, .cnt, .hif, .streams, .msgs, .egress, .slots, .sheaves, .groups, .plots, .waits, .yoke, .hbm, .poison, .mem, .links, .trc,
      .alert, .nextBuild, .nextSid]
  | .refresh .. | .nopDescriptor .. | .fence .. | .statsSnapshot .. | .doorbellPoll | .telemetryTick .. | .badOpcode .. =>
    [.cnt, .hif, .alert]
  | .scrubRead .. | .kvRead .. | .memRead .. =>
    [.regMem, .cnt, .hif, .hbm, .poison, .mem, .links, .trc, .alert]
  | .invalidationReceived .. =>
    [.hbm, .poison, .mem, .links]
  | .kvRowAck .. =>
    [.cnt, .hif, .streams, .msgs, .egress, .slots, .sheaves, .groups, .plots, .fab, .waits, .yoke, .hbm, .poison, .mem, .links, .alert,
      .nextBuild, .nextSid]
  | .bar2Read .. =>
    [.regMem, .cnt, .hif, .hbm, .poison, .mem, .answer, .links, .trc, .alert]
  | .bar2Write .. | .memWrite .. =>
    [.cnt, .hif, .hbm, .poison, .mem, .links, .alert]
  | .nakRenew .. | .persistWindow | .dlkRetrain .. =>
    [.links]
  | .ackTimeout .. =>
    [.cnt, .hif, .links, .alert]
  | .loopbackSet .. =>
    [.regGlb, .regDlk, .links]
  | .yokeEpoch .. =>
    [.phase, .regYok, .cnt, .clk, .hif, .plots, .yoke, .links, .alert]
  | .grantReceived .. =>
    [.cnt, .clk, .hif, .streams, .msgs, .egress, .slots, .sheaves, .groups, .plots, .tiles, .switches, .sus, .fab, .waits, .yoke, .links,
      .hrw, .trc, .alert, .nextBuild, .nextSid]
  | .cpmMarginLoss .. =>
    [.cnt, .clk, .hif, .plots, .alert]
  | .thermalCapChange .. =>
    [.cnt, .clk, .hif, .plots, .links, .trc, .alert]
  | .calibrationRefit .. =>
    [.cnt, .hif, .yoke, .links, .trc, .alert]
  | .holdoffExpiry | .schedSlotTime | .yokeSetResume .. =>
    [.phase, .regYok, .cnt, .clk, .hif, .plots, .yoke, .alert]
  | .yokSchedTimeout =>
    [.regYok, .cnt, .hif, .yoke, .alert]
  | .installBegin .. | .installAbort .. =>
    [.cnt, .hif, .slots, .groups, .plots, .alert]
  | .installChunk .. =>
    [.cnt, .hif, .slots, .hbm, .poison, .mem, .links, .alert]
  | .installCommit .. =>
    [.cnt, .hif, .streams, .msgs, .tables, .egress, .slots, .sheaves, .groups, .plots, .tiles, .switches, .sus, .fab, .waits, .yoke,
      .links, .hrw, .alert, .nextBuild, .nextSid]
  | .installCheckDone .. =>
    [.regMem, .cnt, .hif, .streams, .msgs, .tables, .egress, .slots, .sheaves, .groups, .plots, .tiles, .switches, .sus, .fab, .waits,
      .yoke, .hbm, .poison, .mem, .links, .hrw, .trc, .alert, .nextBuild, .nextSid]
  | .tableWrite .. =>
    [.cnt, .hif, .tables, .tblBad, .ports, .alert]
  | .streamOpen .. =>
    [.cnt, .hif, .streams, .alert]
  | .streamClose .. | .streamReset .. | .streamUnfenceDiscard .. =>
    [.cnt, .hif, .streams, .msgs, .egress, .slots, .sheaves, .groups, .plots, .waits, .yoke, .alert, .nextBuild, .nextSid]
  | .kvWrite .. =>
    [.cnt, .hif, .streams, .hbm, .poison, .mem, .links, .alert]
  | .inject .. =>
    [.cnt, .hif, .frames, .alert, .nextFid]
  | .yokeSetSet .. =>
    [.cnt, .hif, .yoke, .alert]
  | .yokeSetDrain .. =>
    [.regYok, .cnt, .clk, .hif, .plots, .yoke, .alert]
  | .trunkCtlAdmit .. | .trunkCtlRefuse .. =>
    [.cnt, .hif, .ports, .fm, .alert]
  | .trunkCtlQuarantine .. =>
    [.regTrk, .cnt, .hif, .ports, .alert]
  | .trunkCtlSetIlv .. | .trunkCtlSetRepair .. =>
    [.regTrk, .cnt, .hif, .alert]
  | .puntReturn .. =>
    [.cnt, .hif, .msgs, .egress, .bbs, .alert, .nextBuild]
  | .hifEnable .. | .msixUnmask .. =>
    [.regHif, .hif]
  | .ringEnable .. =>
    [.glb, .regHif, .cnt, .hif, .alert]
  | .pollResult .. | .descriptorFetch .. =>
    [.regHif, .cnt, .hif, .alert]
  | .shadowWrite | .moderationTimer .. =>
    [.hif]
  | .watchSummary =>
    [.cnt, .hif, .tables, .fab, .alert]
  | .harrowPassStart .. =>
    [.regHrw, .cnt, .hif, .links, .hrw, .trc, .alert, .freeCtr]
  | .hrwWatchdog .. =>
    [.cnt, .hif, .links, .hrw, .trc, .alert]
  | .placementRetry =>
    [.cnt, .hif, .streams, .msgs, .egress, .slots, .sheaves, .groups, .plots, .tiles, .switches, .sus, .fab, .waits, .yoke, .bbs, .links,
      .hrw, .alert, .nextBuild, .nextSid]
  | .ident .. | .status .. | .eventSummary .. | .tempCd .. | .tempIod .. | .tempHbm .. | .tempMax .. | .thermalState .. | .pkgPower .. |
  .yokeState .. | .drainRead .. | .ceilingRead .. | .counterRead .. | .addrCfgRead .. | .portStatusRead .. | .twpUnknownCommand .. =>
    [.cnt, .hif, .twp, .alert]
  | .drain .. | .ceilingSet .. =>
    [.regTwp, .cnt, .hif, .yoke, .twp, .alert]
  | .softReset .. =>
    [.phase, .glb, .regRst, .regYok, .regTwp, .cnt, .clk, .hif, .plots, .yoke, .twp, .alert]
  | .counterSnap .. | .addrCfg .. | .portStatus .. | .clearFaults .. | .alertResponse .. | .smbusTimeout .. | .sdaStuck .. =>
    [.regTwp, .cnt, .hif, .twp, .alert]
  | .jtagTrst | .bypass | .idcode | .samplePreload .. | .extest .. | .clamp | .highz | .extestPulse .. | .extestTrain .. | .diesel .. |
  .testLogicReset =>
    [.run, .phase, .glb, .regYok, .cnt, .clk, .hif, .plots, .yoke, .tap, .alert]
  | .hbm1500 .. =>
    [.run, .phase, .fuses, .glb, .regYok, .cnt, .clk, .hif, .plots, .yoke, .hbm, .poison, .mem, .tap, .alert]
  | .tstacc .. =>
    withRegs [.run, .phase, .glb, .cnt, .clk, .hif, .streams, .msgs, .frames, .plg, .egress, .slots, .sheaves, .groups, .plots, .tiles,
      .waits, .yoke, .ports, .fm, .bbs, .ptp, .links, .hrw, .tap, .trc, .alert, .nextBuild, .nextSid, .freeCtr]
  | .tstDataRead .. =>
    [.regTst, .plots, .tiles, .answer, .links, .freeCtr]
  | .tstDataWrite .. =>
    [.regGlb, .regTst, .plots, .tiles, .links, .hrw, .trc]
  | .powerOff =>
    withReset [.trip, .rail]
  | .perstRelease | .smbRstRelease =>
    [.glb]

/-! ### What a command leaves behind it -/

/-- Counter `idx` counted `n`, saturating (R10, R451). -/
def Counted (idx n : Nat) (s t : State) : Prop := tget 0 idx t.cnt = tget 0 idx (countQuiet idx n s).cnt

/-- The descriptor at a position of an SQ is over with this status and these results: the engine holds it as done until its CQ takes its
completion in SQ order, or the completion has been written (R348, R350). -/
def Completed (q pos status r0 r1 r2 : Nat) (t : State) : Prop :=
  findDesc t q pos = none ∧
    ((∃ d ∈ (getSq t q).descs, d.pos = pos ∧ ∃ time, d.st = .done status (r0 % 2 ^ 32) (r1 % 2 ^ 32) (r2 % 2 ^ 32) time) ∨
      (∃ d idx addr phase time, d.pos = pos ∧
        HostWrite.mem addr (completionBody d q idx status (r0 % 2 ^ 32) (r1 % 2 ^ 32) (r2 % 2 ^ 32) time ++ [phase]) ∈ t.hif.posted))

/-- The descriptor at a position of an SQ executes: it has started and is not over (R348). -/
def Executes (q pos : Nat) (t : State) : Prop := ∃ d, findDesc t q pos = some d ∧ d.st = .executing

/-! ### Registers -/

/-- Registers whose write does more than their fields' access types say: each has an effect, and for most a row, of its own. -/
def ownEffect : List String :=
  ["GLB_CTL", "CLK_TIME_SET_LO", "HIF_CTL", "HIF_RING_CTL", "MSIX_CTL", "TRK_CTL", "TRK_FM_IDX", "TRK_FM_DATA0", "TRK_FM_DATA1", "TRK_FM_DATA2",
    "TRK_FM_DATA3", "TRK_FM_DATA4", "TRK_FM_DATA5", "TRK_FM_DATA6", "TRK_FM_DATA7", "BBP_CTL", "BBP_PTP_MASTER2", "DLK_RETRAIN", "DLK_LB_CTL",
    "HRW_CTL", "HRW_PERIOD", "HRW_PASS_MAX", "HRW_RETIRE_N", "TST_DATA"]

/-- What a write leaves in a bit of a field, by the access type, from the bit as it was and the bit written (R5, R444). -/
def FieldTakes (s : State) (f : RegField) (off : Nat) (old new now : Bool) : Prop :=
  match f.acc with
  | .ro => now = old
  | .rw => now = new
  | .rw1c => now = (old && !new)
  | .wo => now = false
  | .rwl => now = if s.glb.run then old else new
  | .rw1s | .rwPage | .rwRing | .rwSq | .rwBq | .rwField | .rwTest => now = if fieldLocked s f.acc off then old else new

/-! ### A tile's instructions, as the statements say them -/

/-- The instruction word `w` of an opcode issues on tile `k`, which is not at its last word. -/
def Issues (s : State) (k op w : Nat) : Prop := canExec s k op = true ∧ tileWord (getTile s k) = w ∧ (getTile s k).pc < 1023

/-- A scalar register as a word. -/
def sreg (t : Tile) (r : Nat) : Word := BitVec.ofNat 32 (getS t r)

/-- A predicate register as 64 bits. -/
def preg (t : Tile) (r : Nat) : BitVec 64 := BitVec.ofNat 64 (getP t r)

/-- IMM sign-extended to 32 bits. -/
def simm (w : Nat) : Word := (BitVec.ofNat 16 w).signExtend 32

/-- The operations of R181 on words, FN 0 to 15. -/
def aluSpec (op : Nat) (x y : Word) : Word :=
  match op with
  | 0 => x + y
  | 1 => x - y
  | 2 => x &&& y
  | 3 => x ||| y
  | 4 => x ^^^ y
  | 5 => x <<< (y.toNat % 32)
  | 6 => x >>> (y.toNat % 32)
  | 7 => x.sshiftRight (y.toNat % 32)
  | 8 => x * y
  | 9 => (x.signExtend 64 * y.signExtend 64).extractLsb' 32 32
  | 10 => (x.setWidth 64 * y.setWidth 64).extractLsb' 32 32
  | 11 => if x.sle y then x else y
  | 12 => if x.sle y then y else x
  | 13 => if x.ule y then x else y
  | 14 => if x.ule y then y else x
  | _ => BitVec.ofInt 32 (max (-(2 ^ 31)) (min (2 ^ 31 - 1) (x.toInt + y.toInt)))

/-- ADDS leaves the range of a signed word. -/
def addsOverflows (x y : Word) : Bool := decide (x.toInt + y.toInt < -(2 ^ 31) ∨ 2 ^ 31 ≤ x.toInt + y.toInt)

/-- The shifts of SHI. -/
def shiftSpec (kind : Nat) (x : Word) (n : Nat) : Word :=
  match kind with
  | 0 => x <<< n
  | 1 => x >>> n
  | 2 => x.sshiftRight n
  | _ => x.rotateRight n

/-- The conditions of CMP and CMPI (R182). -/
def cmpSpec (c : Nat) (x y : Word) : Bool :=
  match c with
  | 1 => decide (x ≠ y)
  | 2 => x.slt y
  | 3 => !x.slt y
  | 4 => x.ult y
  | 5 => !x.ult y
  | _ => decide (x = y)

/-- The operations of PLOG (R182). -/
def plogSpec (c : Nat) (x y : BitVec 64) : BitVec 64 :=
  match c with
  | 1 => x ||| y
  | 2 => x ^^^ y
  | 3 => x &&& ~~~y
  | 4 => ~~~x
  | 5 => BitVec.allOnes 64
  | 6 => 0
  | _ => x &&& y

/-- The byte address of a load or store, aligned down (R175, R183). -/
def tsPlace (t : Tile) (w align : Nat) : Nat :=
  (getS t (fRa w) + ((BitVec.ofNat 16 w).signExtend 17).toNat) % 131072 / align * align

/-- The bytes of the tile store from an address, wrapping, as a little-endian number. -/
def tsBytes (t : Tile) (a n : Nat) : Nat := leNat ((List.range n).map (fun i => tget 0 ((a + i) % 131072) t.ts))

/-- The sum of products that an integer multiply-accumulate adds to lane `j` (R188). -/
def macSum (t : Tile) (bcast zp : Bool) (ww xw : Nat) (xsg : Bool) (wv xv lane j : Nat) : Int :=
  let act := fun (i : Nat) => intVal xw xsg (laneOf xw xv (i % laneCount xw)) - (if zp && !xsg then (t.zpa : Int) else 0)
  if ww = 4 then
    toSigned 4 (laneOf 4 wv (2 * j)) * act (if bcast then lane else 2 * j) +
      toSigned 4 (laneOf 4 wv (2 * j + 1)) * act (if bcast then lane + 1 else 2 * j + 1)
  else toSigned ww (laneOf ww wv j) * act (if bcast then lane else j)

/-! ### The two-wire port, as the statements say it -/

/-- The port takes a command code at one of its full addresses (R410, R416, R417). -/
def Accepts (s : State) (a code : Nat) : Prop := twpUp s = true ∧ addrKind s a = .full ∧ codeOffered s code = true

/-- The port has answered a read with these bytes and their PEC (R420, R423). -/
def Answers (s t : State) (a code : Nat) (bs : List Byte) : Prop :=
  t.twp.nacked = false ∧ Counted 88 1 s t ∧
    t.twp.reply = bs ++ [BitVec.ofNat 8 (pec ([BitVec.ofNat 8 (2 * a), BitVec.ofNat 8 code, BitVec.ofNat 8 (2 * a + 1)] ++ bs))]

/-- A write carries these data bytes: with their PEC, or without one where TWP_CTL does not require it (R424). -/
def Carries (s : State) (a code : Nat) (data d : List Byte) : Prop :=
  (data = d ++ [BitVec.ofNat 8 (pec ([BitVec.ofNat 8 (2 * a), BitVec.ofNat 8 code] ++ d))]) ∨ (data = d ∧ (getReg s 0x3800).testBit 1 = false)

end Sys2Proof.Machine
end

