-- ==== Sys2Proof/Laws/Keeps.lean ====
section
/-! SUPPORT. What an operation changes and what it keeps: the relation every operation's lemma states, and how such lemmas compose. -/
namespace Sys2Proof.Machine

set_option Elab.async false

/-- `t` differs from `s` in the named parts alone, and the invariant is kept. -/
structure Keeps (ps : List Piece) (s t : State) : Prop where
  only : ChangesOnly ps s t
  inv : Inv s → Inv t

/-- A list of pieces as a set of bits, and every piece of the first list is in the second: what the kernel evaluates at each use. -/
def pieceBits : List Piece → Nat
  | [] => 0
  | p :: ps => 2 ^ p.ctorIdx ||| pieceBits ps

def subParts (qs ps : List Piece) : Bool := pieceBits qs &&& pieceBits ps == pieceBits qs

theorem Piece.ctorIdx_inj {p q : Piece} (h : p.ctorIdx = q.ctorIdx) : p = q := by
  have key : ∀ r : Piece, Piece.ofNat r.ctorIdx = r := fun r => by cases r <;> rfl
  rw [← key p, ← key q, h]

theorem testBit_pieceBits {p : Piece} : ∀ {ps : List Piece}, (pieceBits ps).testBit p.ctorIdx = true ↔ p ∈ ps
  | [] => by simp [pieceBits]
  | q :: qs => by
    simp only [pieceBits, Nat.testBit_or, Bool.or_eq_true, Nat.testBit_two_pow, decide_eq_true_eq, testBit_pieceBits, List.mem_cons]
    exact or_congr_left ⟨fun h => Piece.ctorIdx_inj h.symm, fun h => h ▸ rfl⟩

theorem subParts_mem {qs ps : List Piece} (h : subParts qs ps = true) {p : Piece} (hp : p ∈ qs) : p ∈ ps := by
  simp only [subParts, beq_iff_eq] at h
  have := testBit_pieceBits.mpr hp
  rw [← h, Nat.testBit_and, Bool.and_eq_true] at this
  exact testBit_pieceBits.mp this.2

theorem subParts_of {qs ps : List Piece} (h : ∀ p ∈ qs, p ∈ ps) : subParts qs ps = true := by
  simp only [subParts, beq_iff_eq]
  induction qs with
  | nil => simp [pieceBits]
  | cons q qs ih =>
    have h1 : 2 ^ q.ctorIdx &&& pieceBits ps = 2 ^ q.ctorIdx := by
      apply Nat.eq_of_testBit_eq
      intro i
      rw [Nat.testBit_and, Nat.testBit_two_pow]
      by_cases hi : q.ctorIdx = i
      · simp [← hi, testBit_pieceBits.mpr (h q (List.mem_cons_self))]
      · simp [hi]
    rw [pieceBits, Nat.and_or_distrib_right, h1, ih (fun p hp => h p (List.mem_cons_of_mem _ hp))]

theorem subParts_single {p : Piece} {ps : List Piece} (h : p ∈ ps) : subParts [p] ps = true :=
  subParts_of (fun q hq => by rw [List.mem_singleton.mp hq]; exact h)

theorem subParts_trans {ps qs rs : List Piece} (h : subParts ps qs = true) (k : subParts qs rs = true) : subParts ps rs = true :=
  subParts_of (fun _ hp => subParts_mem k (subParts_mem h hp))

/-- What a command that goes on changes and keeps. -/
def KeepsOut (ps : List Piece) (s : State) (o : Out) : Prop :=
  match o with
  | .next t => Keeps ps s t
  | .fault _ => True
  | .refused _ => True

variable {ps qs : List Piece} {s t u : State}

@[simp] theorem restGlb_self (g : Glb) : restGlb g g = g := rfl
@[simp] theorem restMem_self (m : Mem) : restMem m m = m := rfl

theorem sameRegs_of_eq {b : Piece} {s t : State} (h : t.regs = s.regs) : sameRegs b s t := fun off _ => by simp only [getReg, h]

theorem Piece.same_refl (p : Piece) (s : State) : p.same s s := by
  cases p <;> first | exact sameRegs_of_eq rfl | simp [Piece.same]

theorem Piece.same_trans {p : Piece} (h : p.same s t) (k : p.same t u) : p.same s u := by
  cases p
  case glb =>
    exact (congrArg (restGlb s.glb) k).trans h
  case mem =>
    exact (congrArg (restMem s.mem) k).trans h
  all_goals first
    | (simp only [Piece.same] at h k ⊢; simp only [h, k, and_self])
    | exact fun off ho => (k off ho).trans (h off ho)

theorem Keeps.refl (s : State) : Keeps ps s s := ⟨fun p _ => p.same_refl s, id⟩

/-- An operation after others: what it changes is among what may change. -/
theorem Keeps.after (h : Keeps ps s t) (k : Keeps qs t u) (hq : subParts qs ps = true) : Keeps ps s u :=
  ⟨fun p hp => Piece.same_trans (h.only p hp) (k.only p (fun hm => hp (subParts_mem hq hm))), fun hi => k.inv (h.inv hi)⟩

theorem Keeps.weaken (k : Keeps qs s t) (hq : subParts qs ps = true) : Keeps ps s t := (Keeps.refl s).after k hq

theorem keeps_ite {c : Prop} [Decidable c] {a b : State} (ha : Keeps ps s a) (hb : Keeps ps s b) :
    Keeps ps s (if c then a else b) := by
  split <;> assumption

theorem keeps_ite_p {α : Type} {p : α → State} {c : Prop} [Decidable c] {a b : α} (ha : Keeps ps s (p a)) (hb : Keeps ps s (p b)) :
    Keeps ps s (p (if c then a else b)) := by
  split <;> assumption

theorem keeps_fst {β : Type} {b : β} (h : Keeps ps s t) : Keeps ps s (t, b).1 := h

theorem keeps_snd {β : Type} {b : β} (h : Keeps ps s t) : Keeps ps s (b, t).2 := h

theorem out_next (h : Keeps ps s t) : KeepsOut ps s (.next t) := h

theorem out_ite {c : Prop} [Decidable c] {a b : Out} (ha : KeepsOut ps s a) (hb : KeepsOut ps s b) :
    KeepsOut ps s (if c then a else b) := by
  split <;> assumption

theorem out_after {o : Out} (h : Keeps ps s t) (k : KeepsOut qs t o) (hq : subParts qs ps = true) : KeepsOut ps s o := by
  cases o with
  | next u => exact h.after k hq
  | fault => trivial
  | refused => trivial

theorem keeps_foldl {α : Type} {f : State → α → State} {l : List α} (h : Keeps ps s t)
    (hf : ∀ u x, Keeps ps s u → Keeps ps s (f u x)) : Keeps ps s (l.foldl f t) := by
  induction l generalizing t with
  | nil => exact h
  | cons x l ih => exact ih (hf t x h)

theorem keeps_foldl_p {α β : Type} {p : β → State} {f : β → α → β} {l : List α} {b : β} (h : Keeps ps s (p b))
    (hf : ∀ u x, Keeps ps s (p u) → Keeps ps s (p (f u x))) : Keeps ps s (p (l.foldl f b)) := by
  induction l generalizing b with
  | nil => exact h
  | cons x l ih => exact ih (hf b x h)

theorem keeps_each {α : Type} {l : List α} {f : α → State → State} (h : Keeps ps s t)
    (hf : ∀ x u, Keeps ps s u → Keeps ps s (f x u)) : Keeps ps s (each l f t) :=
  keeps_foldl h (fun u x hu => hf x u hu)

/-! ### Registers -/

/-- The block of an offset by its bounds. -/
theorem regBlock_eq_regHif {off : Nat} (h : 0x800 ≤ off) (h' : off < 0x1000) : regBlock off = .regHif := by
  unfold regBlock
  repeat rw [if_neg (by omega)]
  exact if_pos h'

theorem regBlock_eq_regTrk {off : Nat} (h : 0x1000 ≤ off) (h' : off < 0x2000) : regBlock off = .regTrk := by
  unfold regBlock
  repeat rw [if_neg (by omega)]
  exact if_pos h'

theorem regBlock_eq_regBbp {off : Nat} (h : 0x2000 ≤ off) (h' : off < 0x2400) : regBlock off = .regBbp := by
  unfold regBlock
  repeat rw [if_neg (by omega)]
  exact if_pos h'

theorem regBlock_eq_regDlk {off : Nat} (h : 0x2c00 ≤ off) (h' : off < 0x3000) : regBlock off = .regDlk := by
  unfold regBlock
  repeat rw [if_neg (by omega)]
  exact if_pos h'

theorem regBlock_eq_regMem {off : Nat} (h : 0x3000 ≤ off) (h' : off < 0x3400) : regBlock off = .regMem := by
  unfold regBlock
  repeat rw [if_neg (by omega)]
  exact if_pos h'

theorem regBlock_eq_regTwp {off : Nat} (h : 0x3800 ≤ off) (h' : off < 0x3c00) : regBlock off = .regTwp := by
  unfold regBlock
  repeat rw [if_neg (by omega)]
  exact if_pos h'

theorem regBlock_eq_regSyn {off : Nat} (h : 0x3c00 ≤ off) (h' : off < 0x8000) : regBlock off = .regSyn := by
  unfold regBlock
  repeat rw [if_neg (by omega)]
  exact if_pos h'

theorem ite_mem_parts {c : Prop} [Decidable c] {a b : Piece} {l : List Piece} (ha : a ∈ l) (hb : b ∈ l) : (if c then a else b) ∈ l := by
  split <;> assumption

/-- Storing one register changes its block alone. -/
theorem setReg_keeps {off v : Nat} {s : State} : Keeps [regBlock off] s (setReg off v s) := by
  refine ⟨fun p hp => ?_, fun h => ⟨h.hbm, h.poison, twf_tset h.regs, h.cnt, h.diesel⟩⟩
  have hne : regBlock off ≠ p := fun he => hp (by simp [he])
  have hr : ∀ o, regBlock o = p → getReg (setReg off v s) o = getReg s o := fun o ho => by
    have : o ≠ off := fun he => hne (he ▸ ho)
    simp only [getReg, setReg, tget_tset_other this]
  cases p <;> first | exact hr | exact ⟨rfl, rfl⟩ | rfl

theorem setReg_in {off v : Nat} {b : Piece} {s : State} (hb : regBlock off = b) : Keeps [b] s (setReg off v s) := hb ▸ setReg_keeps

theorem orReg_in {off v : Nat} {b : Piece} {s : State} (hb : regBlock off = b) : Keeps [b] s (orReg off v s) := setReg_in hb

/-- Dropping the registers of a range that lies in one block changes that block alone. -/
theorem dropRegs_keeps {lo n : Nat} {b : Piece} {s : State} (hb : ∀ o, lo ≤ o → o < lo + n → regBlock o = b) :
    Keeps [b] s { s with regs := tclear lo n s.regs } := by
  refine ⟨fun p hp => ?_, fun h => ⟨h.hbm, h.poison, twf_tclear h.regs, h.cnt, h.diesel⟩⟩
  have hne : b ≠ p := fun he => hp (by simp [he])
  have hr : ∀ o, regBlock o = p → getReg { s with regs := tclear lo n s.regs } o = getReg s o := fun o ho => by
    have : o < lo ∨ lo + n ≤ o := by
      by_cases h1 : lo ≤ o
      · by_cases h2 : o < lo + n
        · exact absurd (hb o h1 h2) (fun he => hne (he ▸ ho))
        · omega
      · omega
    simp only [getReg, tget_tclear_other this]
  cases p <;> first | exact hr | exact ⟨rfl, rfl⟩ | rfl

theorem regBlock_any {off : Nat} : regBlock off ∈ ([.regGlb, .regClk, .regRst, .regHif, .regTrk, .regBbp, .regPlg, .regSow, .regRpl, .regYok, .regDlk, .regMem, .regHrw, .regTwp, .regSyn, .regTst] : List Piece) := by
  unfold regBlock
  repeat' apply ite_mem_parts
  all_goals decide

theorem setReg_from_any {off v s} : Keeps [.regGlb, .regClk, .regRst, .regHif, .regTrk, .regBbp, .regPlg, .regSow, .regRpl, .regYok, .regDlk, .regMem, .regHrw, .regTwp, .regSyn, .regTst] s (setReg off v s) :=
  setReg_keeps.weaken (subParts_single (regBlock_any))

theorem orReg_from_any {off v s} : Keeps [.regGlb, .regClk, .regRst, .regHif, .regTrk, .regBbp, .regPlg, .regSow, .regRpl, .regYok, .regDlk, .regMem, .regHrw, .regTwp, .regSyn, .regTst] s (orReg off v s) := setReg_from_any

theorem regBlock_hif {off : Nat} (ho : 0x800 ≤ off) : regBlock off ∈ ([.regHif, .regTrk, .regBbp, .regPlg, .regSow, .regRpl, .regYok, .regDlk, .regMem, .regHrw, .regTwp, .regSyn, .regTst] : List Piece) := by
  unfold regBlock
  repeat rw [if_neg (by omega)]
  repeat' apply ite_mem_parts
  all_goals decide

theorem setReg_from_hif {off v s} (ho : 0x800 ≤ off) : Keeps [.regHif, .regTrk, .regBbp, .regPlg, .regSow, .regRpl, .regYok, .regDlk, .regMem, .regHrw, .regTwp, .regSyn, .regTst] s (setReg off v s) :=
  setReg_keeps.weaken (subParts_single (regBlock_hif ho))

theorem orReg_from_hif {off v s} (ho : 0x800 ≤ off) : Keeps [.regHif, .regTrk, .regBbp, .regPlg, .regSow, .regRpl, .regYok, .regDlk, .regMem, .regHrw, .regTwp, .regSyn, .regTst] s (orReg off v s) := setReg_from_hif ho

theorem regBlock_trk {off : Nat} (ho : 0x1000 ≤ off) : regBlock off ∈ ([.regTrk, .regBbp, .regPlg, .regSow, .regRpl, .regYok, .regDlk, .regMem, .regHrw, .regTwp, .regSyn, .regTst] : List Piece) := by
  unfold regBlock
  repeat rw [if_neg (by omega)]
  repeat' apply ite_mem_parts
  all_goals decide

theorem setReg_from_trk {off v s} (ho : 0x1000 ≤ off) : Keeps [.regTrk, .regBbp, .regPlg, .regSow, .regRpl, .regYok, .regDlk, .regMem, .regHrw, .regTwp, .regSyn, .regTst] s (setReg off v s) :=
  setReg_keeps.weaken (subParts_single (regBlock_trk ho))

theorem orReg_from_trk {off v s} (ho : 0x1000 ≤ off) : Keeps [.regTrk, .regBbp, .regPlg, .regSow, .regRpl, .regYok, .regDlk, .regMem, .regHrw, .regTwp, .regSyn, .regTst] s (orReg off v s) := setReg_from_trk ho

theorem regBlock_bbp {off : Nat} (ho : 0x2000 ≤ off) : regBlock off ∈ ([.regBbp, .regPlg, .regSow, .regRpl, .regYok, .regDlk, .regMem, .regHrw, .regTwp, .regSyn, .regTst] : List Piece) := by
  unfold regBlock
  repeat rw [if_neg (by omega)]
  repeat' apply ite_mem_parts
  all_goals decide

theorem setReg_from_bbp {off v s} (ho : 0x2000 ≤ off) : Keeps [.regBbp, .regPlg, .regSow, .regRpl, .regYok, .regDlk, .regMem, .regHrw, .regTwp, .regSyn, .regTst] s (setReg off v s) :=
  setReg_keeps.weaken (subParts_single (regBlock_bbp ho))

theorem orReg_from_bbp {off v s} (ho : 0x2000 ≤ off) : Keeps [.regBbp, .regPlg, .regSow, .regRpl, .regYok, .regDlk, .regMem, .regHrw, .regTwp, .regSyn, .regTst] s (orReg off v s) := setReg_from_bbp ho

theorem regBlock_dlk {off : Nat} (ho : 0x2c00 ≤ off) : regBlock off ∈ ([.regDlk, .regMem, .regHrw, .regTwp, .regSyn, .regTst] : List Piece) := by
  unfold regBlock
  repeat rw [if_neg (by omega)]
  repeat' apply ite_mem_parts
  all_goals decide

theorem setReg_from_dlk {off v s} (ho : 0x2c00 ≤ off) : Keeps [.regDlk, .regMem, .regHrw, .regTwp, .regSyn, .regTst] s (setReg off v s) :=
  setReg_keeps.weaken (subParts_single (regBlock_dlk ho))

theorem orReg_from_dlk {off v s} (ho : 0x2c00 ≤ off) : Keeps [.regDlk, .regMem, .regHrw, .regTwp, .regSyn, .regTst] s (orReg off v s) := setReg_from_dlk ho

theorem regBlock_syn {off : Nat} (ho : 0x3c00 ≤ off) : regBlock off ∈ ([.regSyn, .regTst] : List Piece) := by
  unfold regBlock
  repeat rw [if_neg (by omega)]
  repeat' apply ite_mem_parts
  all_goals decide

theorem setReg_from_syn {off v s} (ho : 0x3c00 ≤ off) : Keeps [.regSyn, .regTst] s (setReg off v s) :=
  setReg_keeps.weaken (subParts_single (regBlock_syn ho))

theorem orReg_from_syn {off v s} (ho : 0x3c00 ≤ off) : Keeps [.regSyn, .regTst] s (orReg off v s) := setReg_from_syn ho

theorem setRegIn_regHif {off v s} (ho : 0x800 ≤ off) : Keeps [.regHif] s (setRegIn 0x1000 off v s) := by
  unfold setRegIn
  split
  · exact setReg_in (regBlock_eq_regHif ho (by assumption))
  · exact Keeps.refl s

theorem orRegIn_regHif {off v s} (ho : 0x800 ≤ off) : Keeps [.regHif] s (orRegIn 0x1000 off v s) := setRegIn_regHif ho

theorem setRegIn_regTrk {off v s} (ho : 0x1000 ≤ off) : Keeps [.regTrk] s (setRegIn 0x2000 off v s) := by
  unfold setRegIn
  split
  · exact setReg_in (regBlock_eq_regTrk ho (by assumption))
  · exact Keeps.refl s

theorem orRegIn_regTrk {off v s} (ho : 0x1000 ≤ off) : Keeps [.regTrk] s (orRegIn 0x2000 off v s) := setRegIn_regTrk ho

theorem setRegIn_regBbp {off v s} (ho : 0x2000 ≤ off) : Keeps [.regBbp] s (setRegIn 0x2400 off v s) := by
  unfold setRegIn
  split
  · exact setReg_in (regBlock_eq_regBbp ho (by assumption))
  · exact Keeps.refl s

theorem orRegIn_regBbp {off v s} (ho : 0x2000 ≤ off) : Keeps [.regBbp] s (orRegIn 0x2400 off v s) := setRegIn_regBbp ho

theorem setRegIn_regDlk {off v s} (ho : 0x2c00 ≤ off) : Keeps [.regDlk] s (setRegIn 0x3000 off v s) := by
  unfold setRegIn
  split
  · exact setReg_in (regBlock_eq_regDlk ho (by assumption))
  · exact Keeps.refl s

theorem orRegIn_regDlk {off v s} (ho : 0x2c00 ≤ off) : Keeps [.regDlk] s (orRegIn 0x3000 off v s) := setRegIn_regDlk ho

theorem setRegIn_regSyn {off v s} (ho : 0x3c00 ≤ off) : Keeps [.regSyn] s (setRegIn 0x8000 off v s) := by
  unfold setRegIn
  split
  · exact setReg_in (regBlock_eq_regSyn ho (by assumption))
  · exact Keeps.refl s

theorem orRegIn_regSyn {off v s} (ho : 0x3c00 ≤ off) : Keeps [.regSyn] s (orRegIn 0x8000 off v s) := setRegIn_regSyn ho

/-! ### One update of fields -/

theorem Keeps.upd_alert {x_alert : _} (h : Keeps ps s t) (hq : subParts [.alert] ps = true) :
    Keeps ps s { t with alert := x_alert } := by
  refine h.after (qs := [.alert]) ⟨?_, ?_⟩ hq
  · intro p hp
    cases p <;> first | rfl | exact sameRegs_of_eq rfl | exact ⟨rfl, rfl⟩ | exact absurd (by decide) hp
  · exact fun h => ⟨h.hbm, h.poison, h.regs, h.cnt, h.diesel⟩

theorem Keeps.upd_answer {x_answer : _} (h : Keeps ps s t) (hq : subParts [.answer] ps = true) :
    Keeps ps s { t with answer := x_answer } := by
  refine h.after (qs := [.answer]) ⟨?_, ?_⟩ hq
  · intro p hp
    cases p <;> first | rfl | exact sameRegs_of_eq rfl | exact ⟨rfl, rfl⟩ | exact absurd (by decide) hp
  · exact fun h => ⟨h.hbm, h.poison, h.regs, h.cnt, h.diesel⟩

theorem Keeps.upd_bbs {x_bbs : _} (h : Keeps ps s t) (hq : subParts [.bbs] ps = true) :
    Keeps ps s { t with bbs := x_bbs } := by
  refine h.after (qs := [.bbs]) ⟨?_, ?_⟩ hq
  · intro p hp
    cases p <;> first | rfl | exact sameRegs_of_eq rfl | exact ⟨rfl, rfl⟩ | exact absurd (by decide) hp
  · exact fun h => ⟨h.hbm, h.poison, h.regs, h.cnt, h.diesel⟩

theorem Keeps.upd_clk {x_clk : _} (h : Keeps ps s t) (hq : subParts [.clk] ps = true) :
    Keeps ps s { t with clk := x_clk } := by
  refine h.after (qs := [.clk]) ⟨?_, ?_⟩ hq
  · intro p hp
    cases p <;> first | rfl | exact sameRegs_of_eq rfl | exact ⟨rfl, rfl⟩ | exact absurd (by decide) hp
  · exact fun h => ⟨h.hbm, h.poison, h.regs, h.cnt, h.diesel⟩

theorem Keeps.upd_cnt {x_cnt : _} (h : Keeps ps s t) (w_cnt : twf (fun _ => (0 : BitVec 64)) t.cnt = true → twf (fun _ => (0 : BitVec 64)) x_cnt = true) (hq : subParts [.cnt] ps = true) :
    Keeps ps s { t with cnt := x_cnt } := by
  refine h.after (qs := [.cnt]) ⟨?_, ?_⟩ hq
  · intro p hp
    cases p <;> first | rfl | exact sameRegs_of_eq rfl | exact ⟨rfl, rfl⟩ | exact absurd (by decide) hp
  · exact fun h => ⟨h.hbm, h.poison, h.regs, w_cnt h.cnt, h.diesel⟩

theorem Keeps.upd_dies {x_glb : _} (h : Keeps ps s t) (hq : subParts [.dies] ps = true) (h_run : x_glb.run = t.glb.run := by with_reducible rfl) (h_phase : x_glb.phase = t.glb.phase := by with_reducible rfl) (h_deviceFatal : x_glb.deviceFatal = t.glb.deviceFatal := by with_reducible rfl) (h_thermtrip : x_glb.thermtrip = t.glb.thermtrip := by with_reducible rfl) (h_railFault : x_glb.railFault = t.glb.railFault := by with_reducible rfl) (h_otp : x_glb.otp = t.glb.otp := by with_reducible rfl) (h_hardLanes : x_glb.hardLanes = t.glb.hardLanes := by with_reducible rfl) (h_glb : restGlb t.glb x_glb = t.glb := by with_reducible rfl) :
    Keeps ps s { t with glb := x_glb } := by
  refine h.after (qs := [.dies]) ⟨?_, ?_⟩ hq
  · intro p hp
    cases p <;> first | rfl | exact sameRegs_of_eq rfl | exact ⟨rfl, rfl⟩ | exact absurd (by decide) hp | simp [Piece.same, h_run, h_phase, h_deviceFatal, h_thermtrip, h_railFault, h_otp, h_hardLanes, h_glb]
  · exact fun h => ⟨h.hbm, h.poison, h.regs, h.cnt, h.diesel⟩

theorem Keeps.upd_egress {x_egress : _} (h : Keeps ps s t) (hq : subParts [.egress] ps = true) :
    Keeps ps s { t with egress := x_egress } := by
  refine h.after (qs := [.egress]) ⟨?_, ?_⟩ hq
  · intro p hp
    cases p <;> first | rfl | exact sameRegs_of_eq rfl | exact ⟨rfl, rfl⟩ | exact absurd (by decide) hp
  · exact fun h => ⟨h.hbm, h.poison, h.regs, h.cnt, h.diesel⟩

theorem Keeps.upd_fab {x_fab : _} (h : Keeps ps s t) (hq : subParts [.fab] ps = true) :
    Keeps ps s { t with fab := x_fab } := by
  refine h.after (qs := [.fab]) ⟨?_, ?_⟩ hq
  · intro p hp
    cases p <;> first | rfl | exact sameRegs_of_eq rfl | exact ⟨rfl, rfl⟩ | exact absurd (by decide) hp
  · exact fun h => ⟨h.hbm, h.poison, h.regs, h.cnt, h.diesel⟩

theorem Keeps.upd_fatal_waits {x_glb : _} {x_waits : _} (h : Keeps ps s t) (hq : subParts [.fatal, .waits] ps = true) (h_run : x_glb.run = t.glb.run := by with_reducible rfl) (h_phase : x_glb.phase = t.glb.phase := by with_reducible rfl) (h_thermtrip : x_glb.thermtrip = t.glb.thermtrip := by with_reducible rfl) (h_railFault : x_glb.railFault = t.glb.railFault := by with_reducible rfl) (h_otp : x_glb.otp = t.glb.otp := by with_reducible rfl) (h_hardLanes : x_glb.hardLanes = t.glb.hardLanes := by with_reducible rfl) (h_dieOk : x_glb.dieOk = t.glb.dieOk := by with_reducible rfl) (h_dieFatal : x_glb.dieFatal = t.glb.dieFatal := by with_reducible rfl) (h_glb : restGlb t.glb x_glb = t.glb := by with_reducible rfl) :
    Keeps ps s { t with glb := x_glb, waits := x_waits } := by
  refine h.after (qs := [.fatal, .waits]) ⟨?_, ?_⟩ hq
  · intro p hp
    cases p <;> first | rfl | exact sameRegs_of_eq rfl | exact ⟨rfl, rfl⟩ | exact absurd (by decide) hp | simp [Piece.same, h_run, h_phase, h_thermtrip, h_railFault, h_otp, h_hardLanes, h_dieOk, h_dieFatal, h_glb]
  · exact fun h => ⟨h.hbm, h.poison, h.regs, h.cnt, h.diesel⟩

theorem Keeps.upd_fm {x_fm : _} (h : Keeps ps s t) (hq : subParts [.fm] ps = true) :
    Keeps ps s { t with fm := x_fm } := by
  refine h.after (qs := [.fm]) ⟨?_, ?_⟩ hq
  · intro p hp
    cases p <;> first | rfl | exact sameRegs_of_eq rfl | exact ⟨rfl, rfl⟩ | exact absurd (by decide) hp
  · exact fun h => ⟨h.hbm, h.poison, h.regs, h.cnt, h.diesel⟩

theorem Keeps.upd_frames {x_frames : _} (h : Keeps ps s t) (hq : subParts [.frames] ps = true) :
    Keeps ps s { t with frames := x_frames } := by
  refine h.after (qs := [.frames]) ⟨?_, ?_⟩ hq
  · intro p hp
    cases p <;> first | rfl | exact sameRegs_of_eq rfl | exact ⟨rfl, rfl⟩ | exact absurd (by decide) hp
  · exact fun h => ⟨h.hbm, h.poison, h.regs, h.cnt, h.diesel⟩

theorem Keeps.upd_frames_nextFid {x_frames : _} {x_nextFid : _} (h : Keeps ps s t) (hq : subParts [.frames, .nextFid] ps = true) :
    Keeps ps s { t with frames := x_frames, nextFid := x_nextFid } := by
  refine h.after (qs := [.frames, .nextFid]) ⟨?_, ?_⟩ hq
  · intro p hp
    cases p <;> first | rfl | exact sameRegs_of_eq rfl | exact ⟨rfl, rfl⟩ | exact absurd (by decide) hp
  · exact fun h => ⟨h.hbm, h.poison, h.regs, h.cnt, h.diesel⟩

theorem Keeps.upd_frames_plg_egress_ports_bbs {x_frames : _} {x_plg : _} {x_egress : _} {x_ports : _} {x_bbs : _} (h : Keeps ps s t) (hq : subParts [.frames, .plg, .egress, .ports, .bbs] ps = true) :
    Keeps ps s { t with frames := x_frames, plg := x_plg, egress := x_egress, ports := x_ports, bbs := x_bbs } := by
  refine h.after (qs := [.frames, .plg, .egress, .ports, .bbs]) ⟨?_, ?_⟩ hq
  · intro p hp
    cases p <;> first | rfl | exact sameRegs_of_eq rfl | exact ⟨rfl, rfl⟩ | exact absurd (by decide) hp
  · exact fun h => ⟨h.hbm, h.poison, h.regs, h.cnt, h.diesel⟩

theorem Keeps.upd_freeCtr {x_freeCtr : _} (h : Keeps ps s t) (hq : subParts [.freeCtr] ps = true) :
    Keeps ps s { t with freeCtr := x_freeCtr } := by
  refine h.after (qs := [.freeCtr]) ⟨?_, ?_⟩ hq
  · intro p hp
    cases p <;> first | rfl | exact sameRegs_of_eq rfl | exact ⟨rfl, rfl⟩ | exact absurd (by decide) hp
  · exact fun h => ⟨h.hbm, h.poison, h.regs, h.cnt, h.diesel⟩

theorem Keeps.upd_fuses {x_glb : _} (h : Keeps ps s t) (hq : subParts [.fuses] ps = true) (h_run : x_glb.run = t.glb.run := by with_reducible rfl) (h_phase : x_glb.phase = t.glb.phase := by with_reducible rfl) (h_deviceFatal : x_glb.deviceFatal = t.glb.deviceFatal := by with_reducible rfl) (h_thermtrip : x_glb.thermtrip = t.glb.thermtrip := by with_reducible rfl) (h_railFault : x_glb.railFault = t.glb.railFault := by with_reducible rfl) (h_dieOk : x_glb.dieOk = t.glb.dieOk := by with_reducible rfl) (h_dieFatal : x_glb.dieFatal = t.glb.dieFatal := by with_reducible rfl) (h_glb : restGlb t.glb x_glb = t.glb := by with_reducible rfl) :
    Keeps ps s { t with glb := x_glb } := by
  refine h.after (qs := [.fuses]) ⟨?_, ?_⟩ hq
  · intro p hp
    cases p <;> first | rfl | exact sameRegs_of_eq rfl | exact ⟨rfl, rfl⟩ | exact absurd (by decide) hp | simp [Piece.same, h_run, h_phase, h_deviceFatal, h_thermtrip, h_railFault, h_dieOk, h_dieFatal, h_glb]
  · exact fun h => ⟨h.hbm, h.poison, h.regs, h.cnt, h.diesel⟩

theorem Keeps.upd_glb {x_glb : _} (h : Keeps ps s t) (hq : subParts [.glb] ps = true) (h_run : x_glb.run = t.glb.run := by with_reducible rfl) (h_phase : x_glb.phase = t.glb.phase := by with_reducible rfl) (h_deviceFatal : x_glb.deviceFatal = t.glb.deviceFatal := by with_reducible rfl) (h_thermtrip : x_glb.thermtrip = t.glb.thermtrip := by with_reducible rfl) (h_railFault : x_glb.railFault = t.glb.railFault := by with_reducible rfl) (h_otp : x_glb.otp = t.glb.otp := by with_reducible rfl) (h_hardLanes : x_glb.hardLanes = t.glb.hardLanes := by with_reducible rfl) (h_dieOk : x_glb.dieOk = t.glb.dieOk := by with_reducible rfl) (h_dieFatal : x_glb.dieFatal = t.glb.dieFatal := by with_reducible rfl) :
    Keeps ps s { t with glb := x_glb } := by
  refine h.after (qs := [.glb]) ⟨?_, ?_⟩ hq
  · intro p hp
    cases p <;> first | rfl | exact sameRegs_of_eq rfl | exact ⟨rfl, rfl⟩ | exact absurd (by decide) hp | simp [Piece.same, h_run, h_phase, h_deviceFatal, h_thermtrip, h_railFault, h_otp, h_hardLanes, h_dieOk, h_dieFatal]
  · exact fun h => ⟨h.hbm, h.poison, h.regs, h.cnt, h.diesel⟩

theorem Keeps.upd_glb_hbm_poison_mem {x_glb : _} {x_mem : _} (h : Keeps ps s t) (w_hbm : Memory.wf t.mem.hbm = true → Memory.wf x_mem.hbm = true) (w_poison : twf (fun _ => false) t.mem.poison = true → twf (fun _ => false) x_mem.poison = true) (hq : subParts [.glb, .hbm, .poison, .mem] ps = true) (h_run : x_glb.run = t.glb.run := by with_reducible rfl) (h_phase : x_glb.phase = t.glb.phase := by with_reducible rfl) (h_deviceFatal : x_glb.deviceFatal = t.glb.deviceFatal := by with_reducible rfl) (h_thermtrip : x_glb.thermtrip = t.glb.thermtrip := by with_reducible rfl) (h_railFault : x_glb.railFault = t.glb.railFault := by with_reducible rfl) (h_otp : x_glb.otp = t.glb.otp := by with_reducible rfl) (h_hardLanes : x_glb.hardLanes = t.glb.hardLanes := by with_reducible rfl) (h_dieOk : x_glb.dieOk = t.glb.dieOk := by with_reducible rfl) (h_dieFatal : x_glb.dieFatal = t.glb.dieFatal := by with_reducible rfl) :
    Keeps ps s { t with glb := x_glb, mem := x_mem } := by
  refine h.after (qs := [.glb, .hbm, .poison, .mem]) ⟨?_, ?_⟩ hq
  · intro p hp
    cases p <;> first | rfl | exact sameRegs_of_eq rfl | exact ⟨rfl, rfl⟩ | exact absurd (by decide) hp | simp [Piece.same, h_run, h_phase, h_deviceFatal, h_thermtrip, h_railFault, h_otp, h_hardLanes, h_dieOk, h_dieFatal]
  · exact fun h => ⟨w_hbm h.hbm, w_poison h.poison, h.regs, h.cnt, h.diesel⟩

theorem Keeps.upd_groups {x_groups : _} (h : Keeps ps s t) (hq : subParts [.groups] ps = true) :
    Keeps ps s { t with groups := x_groups } := by
  refine h.after (qs := [.groups]) ⟨?_, ?_⟩ hq
  · intro p hp
    cases p <;> first | rfl | exact sameRegs_of_eq rfl | exact ⟨rfl, rfl⟩ | exact absurd (by decide) hp
  · exact fun h => ⟨h.hbm, h.poison, h.regs, h.cnt, h.diesel⟩

theorem Keeps.upd_hbm {x_mem : _} (h : Keeps ps s t) (w_hbm : Memory.wf t.mem.hbm = true → Memory.wf x_mem.hbm = true) (hq : subParts [.hbm] ps = true) (h_poison : x_mem.poison = t.mem.poison := by with_reducible rfl) (h_mem : restMem t.mem x_mem = t.mem := by with_reducible rfl) :
    Keeps ps s { t with mem := x_mem } := by
  refine h.after (qs := [.hbm]) ⟨?_, ?_⟩ hq
  · intro p hp
    cases p <;> first | rfl | exact sameRegs_of_eq rfl | exact ⟨rfl, rfl⟩ | exact absurd (by decide) hp | simp [Piece.same, h_poison, h_mem]
  · exact fun h => ⟨w_hbm h.hbm, by rw [h_poison]; exact h.poison, h.regs, h.cnt, h.diesel⟩

theorem Keeps.upd_hbm_poison_mem {x_mem : _} (h : Keeps ps s t) (w_hbm : Memory.wf t.mem.hbm = true → Memory.wf x_mem.hbm = true) (w_poison : twf (fun _ => false) t.mem.poison = true → twf (fun _ => false) x_mem.poison = true) (hq : subParts [.hbm, .poison, .mem] ps = true) :
    Keeps ps s { t with mem := x_mem } := by
  refine h.after (qs := [.hbm, .poison, .mem]) ⟨?_, ?_⟩ hq
  · intro p hp
    cases p <;> first | rfl | exact sameRegs_of_eq rfl | exact ⟨rfl, rfl⟩ | exact absurd (by decide) hp
  · exact fun h => ⟨w_hbm h.hbm, w_poison h.poison, h.regs, h.cnt, h.diesel⟩

theorem Keeps.upd_hif {x_hif : _} (h : Keeps ps s t) (hq : subParts [.hif] ps = true) :
    Keeps ps s { t with hif := x_hif } := by
  refine h.after (qs := [.hif]) ⟨?_, ?_⟩ hq
  · intro p hp
    cases p <;> first | rfl | exact sameRegs_of_eq rfl | exact ⟨rfl, rfl⟩ | exact absurd (by decide) hp
  · exact fun h => ⟨h.hbm, h.poison, h.regs, h.cnt, h.diesel⟩

theorem Keeps.upd_hrw {x_hrw : _} (h : Keeps ps s t) (hq : subParts [.hrw] ps = true) :
    Keeps ps s { t with hrw := x_hrw } := by
  refine h.after (qs := [.hrw]) ⟨?_, ?_⟩ hq
  · intro p hp
    cases p <;> first | rfl | exact sameRegs_of_eq rfl | exact ⟨rfl, rfl⟩ | exact absurd (by decide) hp
  · exact fun h => ⟨h.hbm, h.poison, h.regs, h.cnt, h.diesel⟩

theorem Keeps.upd_links {x_links : _} (h : Keeps ps s t) (hq : subParts [.links] ps = true) :
    Keeps ps s { t with links := x_links } := by
  refine h.after (qs := [.links]) ⟨?_, ?_⟩ hq
  · intro p hp
    cases p <;> first | rfl | exact sameRegs_of_eq rfl | exact ⟨rfl, rfl⟩ | exact absurd (by decide) hp
  · exact fun h => ⟨h.hbm, h.poison, h.regs, h.cnt, h.diesel⟩

theorem Keeps.upd_mem {x_mem : _} (h : Keeps ps s t) (hq : subParts [.mem] ps = true) (h_hbm : x_mem.hbm = t.mem.hbm := by with_reducible rfl) (h_poison : x_mem.poison = t.mem.poison := by with_reducible rfl) :
    Keeps ps s { t with mem := x_mem } := by
  refine h.after (qs := [.mem]) ⟨?_, ?_⟩ hq
  · intro p hp
    cases p <;> first | rfl | exact sameRegs_of_eq rfl | exact ⟨rfl, rfl⟩ | exact absurd (by decide) hp | simp [Piece.same, h_hbm, h_poison]
  · exact fun h => ⟨by rw [h_hbm]; exact h.hbm, by rw [h_poison]; exact h.poison, h.regs, h.cnt, h.diesel⟩

theorem Keeps.upd_msgs {x_msgs : _} (h : Keeps ps s t) (hq : subParts [.msgs] ps = true) :
    Keeps ps s { t with msgs := x_msgs } := by
  refine h.after (qs := [.msgs]) ⟨?_, ?_⟩ hq
  · intro p hp
    cases p <;> first | rfl | exact sameRegs_of_eq rfl | exact ⟨rfl, rfl⟩ | exact absurd (by decide) hp
  · exact fun h => ⟨h.hbm, h.poison, h.regs, h.cnt, h.diesel⟩

theorem Keeps.upd_msgs_nextMid {x_msgs : _} {x_nextMid : _} (h : Keeps ps s t) (hq : subParts [.msgs, .nextMid] ps = true) :
    Keeps ps s { t with msgs := x_msgs, nextMid := x_nextMid } := by
  refine h.after (qs := [.msgs, .nextMid]) ⟨?_, ?_⟩ hq
  · intro p hp
    cases p <;> first | rfl | exact sameRegs_of_eq rfl | exact ⟨rfl, rfl⟩ | exact absurd (by decide) hp
  · exact fun h => ⟨h.hbm, h.poison, h.regs, h.cnt, h.diesel⟩

theorem Keeps.upd_nextBuild {x_nextBuild : _} (h : Keeps ps s t) (hq : subParts [.nextBuild] ps = true) :
    Keeps ps s { t with nextBuild := x_nextBuild } := by
  refine h.after (qs := [.nextBuild]) ⟨?_, ?_⟩ hq
  · intro p hp
    cases p <;> first | rfl | exact sameRegs_of_eq rfl | exact ⟨rfl, rfl⟩ | exact absurd (by decide) hp
  · exact fun h => ⟨h.hbm, h.poison, h.regs, h.cnt, h.diesel⟩

theorem Keeps.upd_pending {x_pending : _} (h : Keeps ps s t) (hq : subParts [.pending] ps = true) :
    Keeps ps s { t with pending := x_pending } := by
  refine h.after (qs := [.pending]) ⟨?_, ?_⟩ hq
  · intro p hp
    cases p <;> first | rfl | exact sameRegs_of_eq rfl | exact ⟨rfl, rfl⟩ | exact absurd (by decide) hp
  · exact fun h => ⟨h.hbm, h.poison, h.regs, h.cnt, h.diesel⟩

theorem Keeps.upd_phase {x_glb : _} (h : Keeps ps s t) (hq : subParts [.phase] ps = true) (h_run : x_glb.run = t.glb.run := by with_reducible rfl) (h_deviceFatal : x_glb.deviceFatal = t.glb.deviceFatal := by with_reducible rfl) (h_thermtrip : x_glb.thermtrip = t.glb.thermtrip := by with_reducible rfl) (h_railFault : x_glb.railFault = t.glb.railFault := by with_reducible rfl) (h_otp : x_glb.otp = t.glb.otp := by with_reducible rfl) (h_hardLanes : x_glb.hardLanes = t.glb.hardLanes := by with_reducible rfl) (h_dieOk : x_glb.dieOk = t.glb.dieOk := by with_reducible rfl) (h_dieFatal : x_glb.dieFatal = t.glb.dieFatal := by with_reducible rfl) (h_glb : restGlb t.glb x_glb = t.glb := by with_reducible rfl) :
    Keeps ps s { t with glb := x_glb } := by
  refine h.after (qs := [.phase]) ⟨?_, ?_⟩ hq
  · intro p hp
    cases p <;> first | rfl | exact sameRegs_of_eq rfl | exact ⟨rfl, rfl⟩ | exact absurd (by decide) hp | simp [Piece.same, h_run, h_deviceFatal, h_thermtrip, h_railFault, h_otp, h_hardLanes, h_dieOk, h_dieFatal, h_glb]
  · exact fun h => ⟨h.hbm, h.poison, h.regs, h.cnt, h.diesel⟩

theorem Keeps.upd_phase_dies_clk {x_glb : _} {x_clk : _} (h : Keeps ps s t) (hq : subParts [.phase, .dies, .clk] ps = true) (h_run : x_glb.run = t.glb.run := by with_reducible rfl) (h_deviceFatal : x_glb.deviceFatal = t.glb.deviceFatal := by with_reducible rfl) (h_thermtrip : x_glb.thermtrip = t.glb.thermtrip := by with_reducible rfl) (h_railFault : x_glb.railFault = t.glb.railFault := by with_reducible rfl) (h_otp : x_glb.otp = t.glb.otp := by with_reducible rfl) (h_hardLanes : x_glb.hardLanes = t.glb.hardLanes := by with_reducible rfl) (h_glb : restGlb t.glb x_glb = t.glb := by with_reducible rfl) :
    Keeps ps s { t with glb := x_glb, clk := x_clk } := by
  refine h.after (qs := [.phase, .dies, .clk]) ⟨?_, ?_⟩ hq
  · intro p hp
    cases p <;> first | rfl | exact sameRegs_of_eq rfl | exact ⟨rfl, rfl⟩ | exact absurd (by decide) hp | simp [Piece.same, h_run, h_deviceFatal, h_thermtrip, h_railFault, h_otp, h_hardLanes, h_glb]
  · exact fun h => ⟨h.hbm, h.poison, h.regs, h.cnt, h.diesel⟩

theorem Keeps.upd_phase_glb {x_glb : _} (h : Keeps ps s t) (hq : subParts [.phase, .glb] ps = true) (h_run : x_glb.run = t.glb.run := by with_reducible rfl) (h_deviceFatal : x_glb.deviceFatal = t.glb.deviceFatal := by with_reducible rfl) (h_thermtrip : x_glb.thermtrip = t.glb.thermtrip := by with_reducible rfl) (h_railFault : x_glb.railFault = t.glb.railFault := by with_reducible rfl) (h_otp : x_glb.otp = t.glb.otp := by with_reducible rfl) (h_hardLanes : x_glb.hardLanes = t.glb.hardLanes := by with_reducible rfl) (h_dieOk : x_glb.dieOk = t.glb.dieOk := by with_reducible rfl) (h_dieFatal : x_glb.dieFatal = t.glb.dieFatal := by with_reducible rfl) :
    Keeps ps s { t with glb := x_glb } := by
  refine h.after (qs := [.phase, .glb]) ⟨?_, ?_⟩ hq
  · intro p hp
    cases p <;> first | rfl | exact sameRegs_of_eq rfl | exact ⟨rfl, rfl⟩ | exact absurd (by decide) hp | simp [Piece.same, h_run, h_deviceFatal, h_thermtrip, h_railFault, h_otp, h_hardLanes, h_dieOk, h_dieFatal]
  · exact fun h => ⟨h.hbm, h.poison, h.regs, h.cnt, h.diesel⟩

theorem Keeps.upd_phase_glb_yoke {x_glb : _} {x_yoke : _} (h : Keeps ps s t) (hq : subParts [.phase, .glb, .yoke] ps = true) (h_run : x_glb.run = t.glb.run := by with_reducible rfl) (h_deviceFatal : x_glb.deviceFatal = t.glb.deviceFatal := by with_reducible rfl) (h_thermtrip : x_glb.thermtrip = t.glb.thermtrip := by with_reducible rfl) (h_railFault : x_glb.railFault = t.glb.railFault := by with_reducible rfl) (h_otp : x_glb.otp = t.glb.otp := by with_reducible rfl) (h_hardLanes : x_glb.hardLanes = t.glb.hardLanes := by with_reducible rfl) (h_dieOk : x_glb.dieOk = t.glb.dieOk := by with_reducible rfl) (h_dieFatal : x_glb.dieFatal = t.glb.dieFatal := by with_reducible rfl) :
    Keeps ps s { t with glb := x_glb, yoke := x_yoke } := by
  refine h.after (qs := [.phase, .glb, .yoke]) ⟨?_, ?_⟩ hq
  · intro p hp
    cases p <;> first | rfl | exact sameRegs_of_eq rfl | exact ⟨rfl, rfl⟩ | exact absurd (by decide) hp | simp [Piece.same, h_run, h_deviceFatal, h_thermtrip, h_railFault, h_otp, h_hardLanes, h_dieOk, h_dieFatal]
  · exact fun h => ⟨h.hbm, h.poison, h.regs, h.cnt, h.diesel⟩

theorem Keeps.upd_phase_yoke {x_glb : _} {x_yoke : _} (h : Keeps ps s t) (hq : subParts [.phase, .yoke] ps = true) (h_run : x_glb.run = t.glb.run := by with_reducible rfl) (h_deviceFatal : x_glb.deviceFatal = t.glb.deviceFatal := by with_reducible rfl) (h_thermtrip : x_glb.thermtrip = t.glb.thermtrip := by with_reducible rfl) (h_railFault : x_glb.railFault = t.glb.railFault := by with_reducible rfl) (h_otp : x_glb.otp = t.glb.otp := by with_reducible rfl) (h_hardLanes : x_glb.hardLanes = t.glb.hardLanes := by with_reducible rfl) (h_dieOk : x_glb.dieOk = t.glb.dieOk := by with_reducible rfl) (h_dieFatal : x_glb.dieFatal = t.glb.dieFatal := by with_reducible rfl) (h_glb : restGlb t.glb x_glb = t.glb := by with_reducible rfl) :
    Keeps ps s { t with glb := x_glb, yoke := x_yoke } := by
  refine h.after (qs := [.phase, .yoke]) ⟨?_, ?_⟩ hq
  · intro p hp
    cases p <;> first | rfl | exact sameRegs_of_eq rfl | exact ⟨rfl, rfl⟩ | exact absurd (by decide) hp | simp [Piece.same, h_run, h_deviceFatal, h_thermtrip, h_railFault, h_otp, h_hardLanes, h_dieOk, h_dieFatal, h_glb]
  · exact fun h => ⟨h.hbm, h.poison, h.regs, h.cnt, h.diesel⟩

theorem Keeps.upd_plg {x_plg : _} (h : Keeps ps s t) (hq : subParts [.plg] ps = true) :
    Keeps ps s { t with plg := x_plg } := by
  refine h.after (qs := [.plg]) ⟨?_, ?_⟩ hq
  · intro p hp
    cases p <;> first | rfl | exact sameRegs_of_eq rfl | exact ⟨rfl, rfl⟩ | exact absurd (by decide) hp
  · exact fun h => ⟨h.hbm, h.poison, h.regs, h.cnt, h.diesel⟩

theorem Keeps.upd_plots {x_plots : _} (h : Keeps ps s t) (hq : subParts [.plots] ps = true) :
    Keeps ps s { t with plots := x_plots } := by
  refine h.after (qs := [.plots]) ⟨?_, ?_⟩ hq
  · intro p hp
    cases p <;> first | rfl | exact sameRegs_of_eq rfl | exact ⟨rfl, rfl⟩ | exact absurd (by decide) hp
  · exact fun h => ⟨h.hbm, h.poison, h.regs, h.cnt, h.diesel⟩

theorem Keeps.upd_poison {x_mem : _} (h : Keeps ps s t) (w_poison : twf (fun _ => false) t.mem.poison = true → twf (fun _ => false) x_mem.poison = true) (hq : subParts [.poison] ps = true) (h_hbm : x_mem.hbm = t.mem.hbm := by with_reducible rfl) (h_mem : restMem t.mem x_mem = t.mem := by with_reducible rfl) :
    Keeps ps s { t with mem := x_mem } := by
  refine h.after (qs := [.poison]) ⟨?_, ?_⟩ hq
  · intro p hp
    cases p <;> first | rfl | exact sameRegs_of_eq rfl | exact ⟨rfl, rfl⟩ | exact absurd (by decide) hp | simp [Piece.same, h_hbm, h_mem]
  · exact fun h => ⟨by rw [h_hbm]; exact h.hbm, w_poison h.poison, h.regs, h.cnt, h.diesel⟩

theorem Keeps.upd_ports {x_ports : _} (h : Keeps ps s t) (hq : subParts [.ports] ps = true) :
    Keeps ps s { t with ports := x_ports } := by
  refine h.after (qs := [.ports]) ⟨?_, ?_⟩ hq
  · intro p hp
    cases p <;> first | rfl | exact sameRegs_of_eq rfl | exact ⟨rfl, rfl⟩ | exact absurd (by decide) hp
  · exact fun h => ⟨h.hbm, h.poison, h.regs, h.cnt, h.diesel⟩

theorem Keeps.upd_ptp {x_ptp : _} (h : Keeps ps s t) (hq : subParts [.ptp] ps = true) :
    Keeps ps s { t with ptp := x_ptp } := by
  refine h.after (qs := [.ptp]) ⟨?_, ?_⟩ hq
  · intro p hp
    cases p <;> first | rfl | exact sameRegs_of_eq rfl | exact ⟨rfl, rfl⟩ | exact absurd (by decide) hp
  · exact fun h => ⟨h.hbm, h.poison, h.regs, h.cnt, h.diesel⟩

theorem Keeps.upd_rail {x_glb : _} (h : Keeps ps s t) (hq : subParts [.rail] ps = true) (h_run : x_glb.run = t.glb.run := by with_reducible rfl) (h_phase : x_glb.phase = t.glb.phase := by with_reducible rfl) (h_deviceFatal : x_glb.deviceFatal = t.glb.deviceFatal := by with_reducible rfl) (h_thermtrip : x_glb.thermtrip = t.glb.thermtrip := by with_reducible rfl) (h_otp : x_glb.otp = t.glb.otp := by with_reducible rfl) (h_hardLanes : x_glb.hardLanes = t.glb.hardLanes := by with_reducible rfl) (h_dieOk : x_glb.dieOk = t.glb.dieOk := by with_reducible rfl) (h_dieFatal : x_glb.dieFatal = t.glb.dieFatal := by with_reducible rfl) (h_glb : restGlb t.glb x_glb = t.glb := by with_reducible rfl) :
    Keeps ps s { t with glb := x_glb } := by
  refine h.after (qs := [.rail]) ⟨?_, ?_⟩ hq
  · intro p hp
    cases p <;> first | rfl | exact sameRegs_of_eq rfl | exact ⟨rfl, rfl⟩ | exact absurd (by decide) hp | simp [Piece.same, h_run, h_phase, h_deviceFatal, h_thermtrip, h_otp, h_hardLanes, h_dieOk, h_dieFatal, h_glb]
  · exact fun h => ⟨h.hbm, h.poison, h.regs, h.cnt, h.diesel⟩

theorem Keeps.upd_run_glb {x_glb : _} (h : Keeps ps s t) (hq : subParts [.run, .glb] ps = true) (h_phase : x_glb.phase = t.glb.phase := by with_reducible rfl) (h_deviceFatal : x_glb.deviceFatal = t.glb.deviceFatal := by with_reducible rfl) (h_thermtrip : x_glb.thermtrip = t.glb.thermtrip := by with_reducible rfl) (h_railFault : x_glb.railFault = t.glb.railFault := by with_reducible rfl) (h_otp : x_glb.otp = t.glb.otp := by with_reducible rfl) (h_hardLanes : x_glb.hardLanes = t.glb.hardLanes := by with_reducible rfl) (h_dieOk : x_glb.dieOk = t.glb.dieOk := by with_reducible rfl) (h_dieFatal : x_glb.dieFatal = t.glb.dieFatal := by with_reducible rfl) :
    Keeps ps s { t with glb := x_glb } := by
  refine h.after (qs := [.run, .glb]) ⟨?_, ?_⟩ hq
  · intro p hp
    cases p <;> first | rfl | exact sameRegs_of_eq rfl | exact ⟨rfl, rfl⟩ | exact absurd (by decide) hp | simp [Piece.same, h_phase, h_deviceFatal, h_thermtrip, h_railFault, h_otp, h_hardLanes, h_dieOk, h_dieFatal]
  · exact fun h => ⟨h.hbm, h.poison, h.regs, h.cnt, h.diesel⟩

theorem Keeps.upd_sheaves {x_sheaves : _} (h : Keeps ps s t) (hq : subParts [.sheaves] ps = true) :
    Keeps ps s { t with sheaves := x_sheaves } := by
  refine h.after (qs := [.sheaves]) ⟨?_, ?_⟩ hq
  · intro p hp
    cases p <;> first | rfl | exact sameRegs_of_eq rfl | exact ⟨rfl, rfl⟩ | exact absurd (by decide) hp
  · exact fun h => ⟨h.hbm, h.poison, h.regs, h.cnt, h.diesel⟩

theorem Keeps.upd_sheaves_nextSid {x_sheaves : _} {x_nextSid : _} (h : Keeps ps s t) (hq : subParts [.sheaves, .nextSid] ps = true) :
    Keeps ps s { t with sheaves := x_sheaves, nextSid := x_nextSid } := by
  refine h.after (qs := [.sheaves, .nextSid]) ⟨?_, ?_⟩ hq
  · intro p hp
    cases p <;> first | rfl | exact sameRegs_of_eq rfl | exact ⟨rfl, rfl⟩ | exact absurd (by decide) hp
  · exact fun h => ⟨h.hbm, h.poison, h.regs, h.cnt, h.diesel⟩

theorem Keeps.upd_sheaves_waits {x_sheaves : _} {x_waits : _} (h : Keeps ps s t) (hq : subParts [.sheaves, .waits] ps = true) :
    Keeps ps s { t with sheaves := x_sheaves, waits := x_waits } := by
  refine h.after (qs := [.sheaves, .waits]) ⟨?_, ?_⟩ hq
  · intro p hp
    cases p <;> first | rfl | exact sameRegs_of_eq rfl | exact ⟨rfl, rfl⟩ | exact absurd (by decide) hp
  · exact fun h => ⟨h.hbm, h.poison, h.regs, h.cnt, h.diesel⟩

theorem Keeps.upd_slots {x_slots : _} (h : Keeps ps s t) (hq : subParts [.slots] ps = true) :
    Keeps ps s { t with slots := x_slots } := by
  refine h.after (qs := [.slots]) ⟨?_, ?_⟩ hq
  · intro p hp
    cases p <;> first | rfl | exact sameRegs_of_eq rfl | exact ⟨rfl, rfl⟩ | exact absurd (by decide) hp
  · exact fun h => ⟨h.hbm, h.poison, h.regs, h.cnt, h.diesel⟩

theorem Keeps.upd_streams {x_streams : _} (h : Keeps ps s t) (hq : subParts [.streams] ps = true) :
    Keeps ps s { t with streams := x_streams } := by
  refine h.after (qs := [.streams]) ⟨?_, ?_⟩ hq
  · intro p hp
    cases p <;> first | rfl | exact sameRegs_of_eq rfl | exact ⟨rfl, rfl⟩ | exact absurd (by decide) hp
  · exact fun h => ⟨h.hbm, h.poison, h.regs, h.cnt, h.diesel⟩

theorem Keeps.upd_streams_frames_waits {x_streams : _} {x_frames : _} {x_waits : _} (h : Keeps ps s t) (hq : subParts [.streams, .frames, .waits] ps = true) :
    Keeps ps s { t with streams := x_streams, frames := x_frames, waits := x_waits } := by
  refine h.after (qs := [.streams, .frames, .waits]) ⟨?_, ?_⟩ hq
  · intro p hp
    cases p <;> first | rfl | exact sameRegs_of_eq rfl | exact ⟨rfl, rfl⟩ | exact absurd (by decide) hp
  · exact fun h => ⟨h.hbm, h.poison, h.regs, h.cnt, h.diesel⟩

theorem Keeps.upd_streams_msgs_frames_plg_egress_sheaves_groups_plots_tiles_switches_sus_fab_waits_yoke_mem_ports {x_streams : _} {x_msgs : _} {x_frames : _} {x_plg : _} {x_egress : _} {x_sheaves : _} {x_groups : _} {x_plots : _} {x_tiles : _} {x_switches : _} {x_sus : _} {x_fab : _} {x_waits : _} {x_yoke : _} {x_mem : _} {x_ports : _} (h : Keeps ps s t) (hq : subParts [.streams, .msgs, .frames, .plg, .egress, .sheaves, .groups, .plots, .tiles, .switches, .sus, .fab, .waits, .yoke, .mem, .ports] ps = true) (h_hbm : x_mem.hbm = t.mem.hbm := by with_reducible rfl) (h_poison : x_mem.poison = t.mem.poison := by with_reducible rfl) :
    Keeps ps s { t with streams := x_streams, msgs := x_msgs, frames := x_frames, plg := x_plg, egress := x_egress, sheaves := x_sheaves, groups := x_groups, plots := x_plots, tiles := x_tiles, switches := x_switches, sus := x_sus, fab := x_fab, waits := x_waits, yoke := x_yoke, mem := x_mem, ports := x_ports } := by
  refine h.after (qs := [.streams, .msgs, .frames, .plg, .egress, .sheaves, .groups, .plots, .tiles, .switches, .sus, .fab, .waits, .yoke, .mem, .ports]) ⟨?_, ?_⟩ hq
  · intro p hp
    cases p <;> first | rfl | exact sameRegs_of_eq rfl | exact ⟨rfl, rfl⟩ | exact absurd (by decide) hp | simp [Piece.same, h_hbm, h_poison]
  · exact fun h => ⟨by rw [h_hbm]; exact h.hbm, by rw [h_poison]; exact h.poison, h.regs, h.cnt, h.diesel⟩

theorem Keeps.upd_sus {x_sus : _} (h : Keeps ps s t) (hq : subParts [.sus] ps = true) :
    Keeps ps s { t with sus := x_sus } := by
  refine h.after (qs := [.sus]) ⟨?_, ?_⟩ hq
  · intro p hp
    cases p <;> first | rfl | exact sameRegs_of_eq rfl | exact ⟨rfl, rfl⟩ | exact absurd (by decide) hp
  · exact fun h => ⟨h.hbm, h.poison, h.regs, h.cnt, h.diesel⟩

theorem Keeps.upd_switches {x_switches : _} (h : Keeps ps s t) (hq : subParts [.switches] ps = true) :
    Keeps ps s { t with switches := x_switches } := by
  refine h.after (qs := [.switches]) ⟨?_, ?_⟩ hq
  · intro p hp
    cases p <;> first | rfl | exact sameRegs_of_eq rfl | exact ⟨rfl, rfl⟩ | exact absurd (by decide) hp
  · exact fun h => ⟨h.hbm, h.poison, h.regs, h.cnt, h.diesel⟩

theorem Keeps.upd_tables {x_tables : _} (h : Keeps ps s t) (hq : subParts [.tables] ps = true) :
    Keeps ps s { t with tables := x_tables } := by
  refine h.after (qs := [.tables]) ⟨?_, ?_⟩ hq
  · intro p hp
    cases p <;> first | rfl | exact sameRegs_of_eq rfl | exact ⟨rfl, rfl⟩ | exact absurd (by decide) hp
  · exact fun h => ⟨h.hbm, h.poison, h.regs, h.cnt, h.diesel⟩

theorem Keeps.upd_tap {x_tap : _} (h : Keeps ps s t) (w_tap : t.tap.diesel.testBit 0 = true → x_tap.diesel.testBit 0 = true) (hq : subParts [.tap] ps = true) :
    Keeps ps s { t with tap := x_tap } := by
  refine h.after (qs := [.tap]) ⟨?_, ?_⟩ hq
  · intro p hp
    cases p <;> first | rfl | exact sameRegs_of_eq rfl | exact ⟨rfl, rfl⟩ | exact absurd (by decide) hp
  · exact fun h => ⟨h.hbm, h.poison, h.regs, h.cnt, w_tap h.diesel⟩

theorem Keeps.upd_tblBad {x_tblBad : _} (h : Keeps ps s t) (hq : subParts [.tblBad] ps = true) :
    Keeps ps s { t with tblBad := x_tblBad } := by
  refine h.after (qs := [.tblBad]) ⟨?_, ?_⟩ hq
  · intro p hp
    cases p <;> first | rfl | exact sameRegs_of_eq rfl | exact ⟨rfl, rfl⟩ | exact absurd (by decide) hp
  · exact fun h => ⟨h.hbm, h.poison, h.regs, h.cnt, h.diesel⟩

theorem Keeps.upd_tiles {x_tiles : _} (h : Keeps ps s t) (hq : subParts [.tiles] ps = true) :
    Keeps ps s { t with tiles := x_tiles } := by
  refine h.after (qs := [.tiles]) ⟨?_, ?_⟩ hq
  · intro p hp
    cases p <;> first | rfl | exact sameRegs_of_eq rfl | exact ⟨rfl, rfl⟩ | exact absurd (by decide) hp
  · exact fun h => ⟨h.hbm, h.poison, h.regs, h.cnt, h.diesel⟩

theorem Keeps.upd_trc {x_trc : _} (h : Keeps ps s t) (hq : subParts [.trc] ps = true) :
    Keeps ps s { t with trc := x_trc } := by
  refine h.after (qs := [.trc]) ⟨?_, ?_⟩ hq
  · intro p hp
    cases p <;> first | rfl | exact sameRegs_of_eq rfl | exact ⟨rfl, rfl⟩ | exact absurd (by decide) hp
  · exact fun h => ⟨h.hbm, h.poison, h.regs, h.cnt, h.diesel⟩

theorem Keeps.upd_trip {x_glb : _} (h : Keeps ps s t) (hq : subParts [.trip] ps = true) (h_run : x_glb.run = t.glb.run := by with_reducible rfl) (h_phase : x_glb.phase = t.glb.phase := by with_reducible rfl) (h_deviceFatal : x_glb.deviceFatal = t.glb.deviceFatal := by with_reducible rfl) (h_railFault : x_glb.railFault = t.glb.railFault := by with_reducible rfl) (h_otp : x_glb.otp = t.glb.otp := by with_reducible rfl) (h_hardLanes : x_glb.hardLanes = t.glb.hardLanes := by with_reducible rfl) (h_dieOk : x_glb.dieOk = t.glb.dieOk := by with_reducible rfl) (h_dieFatal : x_glb.dieFatal = t.glb.dieFatal := by with_reducible rfl) (h_glb : restGlb t.glb x_glb = t.glb := by with_reducible rfl) :
    Keeps ps s { t with glb := x_glb } := by
  refine h.after (qs := [.trip]) ⟨?_, ?_⟩ hq
  · intro p hp
    cases p <;> first | rfl | exact sameRegs_of_eq rfl | exact ⟨rfl, rfl⟩ | exact absurd (by decide) hp | simp [Piece.same, h_run, h_phase, h_deviceFatal, h_railFault, h_otp, h_hardLanes, h_dieOk, h_dieFatal, h_glb]
  · exact fun h => ⟨h.hbm, h.poison, h.regs, h.cnt, h.diesel⟩

theorem Keeps.upd_twp {x_twp : _} (h : Keeps ps s t) (hq : subParts [.twp] ps = true) :
    Keeps ps s { t with twp := x_twp } := by
  refine h.after (qs := [.twp]) ⟨?_, ?_⟩ hq
  · intro p hp
    cases p <;> first | rfl | exact sameRegs_of_eq rfl | exact ⟨rfl, rfl⟩ | exact absurd (by decide) hp
  · exact fun h => ⟨h.hbm, h.poison, h.regs, h.cnt, h.diesel⟩

theorem Keeps.upd_waits {x_waits : _} (h : Keeps ps s t) (hq : subParts [.waits] ps = true) :
    Keeps ps s { t with waits := x_waits } := by
  refine h.after (qs := [.waits]) ⟨?_, ?_⟩ hq
  · intro p hp
    cases p <;> first | rfl | exact sameRegs_of_eq rfl | exact ⟨rfl, rfl⟩ | exact absurd (by decide) hp
  · exact fun h => ⟨h.hbm, h.poison, h.regs, h.cnt, h.diesel⟩

theorem Keeps.upd_yoke {x_yoke : _} (h : Keeps ps s t) (hq : subParts [.yoke] ps = true) :
    Keeps ps s { t with yoke := x_yoke } := by
  refine h.after (qs := [.yoke]) ⟨?_, ?_⟩ hq
  · intro p hp
    cases p <;> first | rfl | exact sameRegs_of_eq rfl | exact ⟨rfl, rfl⟩ | exact absurd (by decide) hp
  · exact fun h => ⟨h.hbm, h.poison, h.regs, h.cnt, h.diesel⟩

end Sys2Proof.Machine
end

