-- ==== Sys2Proof/Laws/KeepsOps.lean ====
section
/-! SUPPORT. What each operation and command of Machine/Ops.lean changes, and that it keeps the invariant. -/
namespace Sys2Proof.Machine

set_option Elab.async false

theorem drawFree_keeps {s} : Keeps [.freeCtr] s (drawFree s).2 := by
  delta drawFree
  refine keeps_snd ?_
  refine Keeps.upd_freeCtr ?_ rfl
  exact (Keeps.refl s)

theorem lockViol_keeps {a0 s} : Keeps [.regGlb] s (lockViol a0 s) := by
  delta lockViol
  refine Keeps.after ?_ (setReg_in (b := .regGlb) rfl) rfl
  exact (Keeps.refl s)

theorem setLink_keeps {a0 a1 s} : Keeps [.links] s (setLink a0 a1 s) := by
  delta setLink
  refine Keeps.upd_links ?_ rfl
  exact (Keeps.refl s)

theorem updLink_keeps {a0 a1 s} : Keeps [.links] s (updLink a0 a1 s) := by
  delta updLink
  refine Keeps.after ?_ (setLink_keeps ..) rfl
  exact (Keeps.refl s)

theorem updDir_keeps {a0 a1 a2 s} : Keeps [.links] s (updDir a0 a1 a2 s) := by
  delta updDir
  refine Keeps.after ?_ (updLink_keeps ..) rfl
  exact (Keeps.refl s)

theorem offerFlit_keeps {a0 a1 a2 a3 a4 s} : Keeps [.links] s (offerFlit a0 a1 a2 a3 a4 s) := by
  delta offerFlit
  refine Keeps.after ?_ (updDir_keeps ..) rfl
  exact (Keeps.refl s)

theorem sendFlit_keeps {a0 a1 a2 a3 a4 s} : Keeps [.links] s (sendFlit a0 a1 a2 a3 a4 s) := by
  delta sendFlit
  split
  · refine keeps_ite ?_ ?_
    · refine Keeps.after ?_ (offerFlit_keeps ..) rfl
      exact (Keeps.refl s)
    · exact (Keeps.refl s)
  · exact (Keeps.refl s)

theorem setRing_keeps {a0 a1 s} : Keeps [.hif] s (setRing a0 a1 s) := by
  delta setRing
  refine Keeps.upd_hif ?_ rfl
  exact (Keeps.refl s)

theorem post_keeps {a0 s} : Keeps [.hif] s (post a0 s) := by
  delta post
  refine Keeps.upd_hif ?_ rfl
  exact (Keeps.refl s)

theorem triggerRing_keeps {a0 s} : Keeps [.hif] s (triggerRing a0 s) := by
  delta triggerRing
  extract_lets -merge -underBinder +onlyGivenNames u0
  extract_lets -merge -underBinder +onlyGivenNames u1
  have ku1 : Keeps [.hif] s u1 := by
    refine Keeps.after ?_ (setRing_keeps ..) rfl
    exact (Keeps.refl s)
  refine Keeps.upd_hif ?_ rfl
  exact ku1

theorem writeEntry_keeps {a0 a1 s} : Keeps [.hif] s (writeEntry a0 a1 s) := by
  delta writeEntry
  extract_lets -merge -underBinder +onlyGivenNames x0 x1 x2 u3 u4 u5 x6
  have ku3 : Keeps [.hif] s u3 := by
    refine Keeps.after ?_ (post_keeps ..) rfl
    exact (Keeps.refl s)
  have ku4 : Keeps [.hif] s u4 := by
    refine Keeps.after ?_ (setRing_keeps ..) rfl
    exact ku3
  have kx6 : Keeps [.hif] s x6 := by
    refine Keeps.upd_hif ?_ rfl
    exact ku4
  extract_lets -merge -underBinder +onlyGivenNames x7
  refine keeps_ite ?_ ?_
  · refine Keeps.after ?_ (triggerRing_keeps ..) rfl
    exact kx6
  · exact kx6

theorem countQuiet_keeps {idx n s} : Keeps [.cnt] s (countQuiet idx n s) :=
  Keeps.upd_cnt (Keeps.refl s) (twf_tset (d := fun _ => 0)) rfl

theorem drainEvents_keeps {es s} : Keeps [.hif] s (drainEvents es s).2 := by
  induction es generalizing s with
  | nil => exact Keeps.refl s
  | cons e es ih =>
    simp only [drainEvents]
    split
    · exact writeEntry_keeps.after ih rfl
    · exact Keeps.refl s

theorem flushBacklog_keeps {s} : Keeps [.hif] s (flushBacklog s) := by
  delta flushBacklog
  split
  rename_i x0 x1 u2 hq3
  have ku2 : Keeps [.hif] s u2 := by
    have hp : Keeps [.hif] s (Prod.snd (x1, u2)) := by
      rw [← hq3]
      refine Keeps.after ?_ (drainEvents_keeps ..) rfl
      exact (Keeps.refl s)
    exact hp
  refine Keeps.upd_hif ?_ rfl
  exact ku2

theorem appendEvent_keeps {a0 s} : Keeps [.hif] s (appendEvent a0 s) := by
  delta appendEvent
  refine Keeps.upd_hif ?_ rfl
  exact (Keeps.refl s)

theorem latchAlert_keeps {a0 s} : Keeps [.alert] s (latchAlert a0 s) := by
  delta latchAlert
  refine Keeps.upd_alert ?_ rfl
  exact (Keeps.refl s)

theorem appendOvf_keeps {s} : Keeps [.hif, .alert] s (appendOvf s) := by
  delta appendOvf
  extract_lets -merge -underBinder +onlyGivenNames x0
  refine keeps_ite ?_ ?_
  · exact (Keeps.refl s)
  · refine Keeps.after ?_ (latchAlert_keeps ..) rfl
    refine Keeps.after ?_ (appendEvent_keeps ..) rfl
    refine Keeps.upd_hif ?_ rfl
    exact (Keeps.refl s)

theorem dropEvent_keeps {s} : Keeps [.cnt, .hif] s (dropEvent s) := by
  delta dropEvent
  refine Keeps.after ?_ (countQuiet_keeps ..) rfl
  refine Keeps.upd_hif ?_ rfl
  exact (Keeps.refl s)

theorem pushEvent_keeps {a0 s} : Keeps [.cnt, .hif, .alert] s (pushEvent a0 s) := by
  delta pushEvent
  refine keeps_ite ?_ ?_
  · refine Keeps.after ?_ (flushBacklog_keeps ..) rfl
    refine Keeps.after ?_ (appendEvent_keeps ..) rfl
    refine Keeps.after ?_ (appendOvf_keeps ..) rfl
    exact (Keeps.refl s)
  · refine Keeps.after ?_ (dropEvent_keeps ..) rfl
    exact (Keeps.refl s)

theorem raise_keeps {a0 a1 a2 a3 a4 s} : Keeps [.cnt, .hif, .alert] s (raise a0 a1 a2 a3 a4 s) := by
  delta raise
  extract_lets -merge -underBinder +onlyGivenNames u0
  have ku0 : Keeps [.cnt, .hif, .alert] s u0 := by
    unfold u0
    split
    · refine Keeps.after ?_ (latchAlert_keeps ..) rfl
      exact (Keeps.refl s)
    · exact (Keeps.refl s)
  refine Keeps.after ?_ (pushEvent_keeps ..) rfl
  exact ku0

theorem bump_keeps {a0 a1 s} : Keeps [.cnt, .hif, .alert] s (bump a0 a1 s) := by
  delta bump
  extract_lets -merge -underBinder +onlyGivenNames x0 u1
  have ku1 : Keeps [.cnt, .hif, .alert] s u1 := by
    refine Keeps.after ?_ (countQuiet_keeps ..) rfl
    exact (Keeps.refl s)
  refine keeps_ite ?_ ?_
  · refine Keeps.after ?_ (raise_keeps ..) rfl
    exact ku1
  · exact ku1

theorem clearCounter_keeps {idx s} : Keeps [.cnt] s (clearCounter idx s) :=
  Keeps.upd_cnt (Keeps.refl s) (twf_tset (d := fun _ => 0)) rfl

theorem teleAdd_keeps {a0 a1 s} : Keeps [.hif] s (teleAdd a0 a1 s) := by
  delta teleAdd
  refine Keeps.upd_hif ?_ rfl
  exact (Keeps.refl s)

theorem traceWrite_keeps {a0 a1 a2 s} : Keeps [.trc] s (traceWrite a0 a1 a2 s) := by
  delta traceWrite
  extract_lets -merge -underBinder +onlyGivenNames x0 x1
  refine keeps_ite ?_ ?_
  · exact (Keeps.refl s)
  · extract_lets -merge -underBinder +onlyGivenNames x2 x3 x4 x5 x6
    refine Keeps.upd_trc ?_ rfl
    exact (Keeps.refl s)

theorem capture_keeps {a0 a1 a2 a3 s} : Keeps [.trc] s (capture a0 a1 a2 a3 s) := by
  delta capture
  refine keeps_ite ?_ ?_
  · refine Keeps.after ?_ (traceWrite_keeps ..) rfl
    exact (Keeps.refl s)
  · exact (Keeps.refl s)

theorem captureIod_keeps {a0 a1 s} : Keeps [.cnt, .hif, .links, .trc, .alert] s (captureIod a0 a1 s) := by
  delta captureIod
  extract_lets -merge -underBinder +onlyGivenNames x0
  refine keeps_ite ?_ ?_
  · refine keeps_ite ?_ ?_
    · refine Keeps.after ?_ (capture_keeps ..) rfl
      refine Keeps.after ?_ (sendFlit_keeps ..) rfl
      exact (Keeps.refl s)
    · refine Keeps.after ?_ (bump_keeps ..) rfl
      exact (Keeps.refl s)
  · exact (Keeps.refl s)

theorem raiseOn_keeps {a0 a1 a2 a3 a4 a5 s} : Keeps [.cnt, .hif, .links, .trc, .alert] s (raiseOn a0 a1 a2 a3 a4 a5 s) := by
  delta raiseOn
  extract_lets -merge -underBinder +onlyGivenNames x0 x1 x2 x3 u4
  have ku4 : Keeps [.cnt, .hif, .links, .trc, .alert] s u4 := by
    refine keeps_ite ?_ ?_
    · refine Keeps.after ?_ (traceWrite_keeps ..) rfl
      exact (Keeps.refl s)
    · exact (Keeps.refl s)
  refine Keeps.after ?_ (raise_keeps ..) rfl
  refine Keeps.after ?_ (sendFlit_keeps ..) rfl
  exact ku4

theorem pmuCount_keeps {a0 a1 a2 s} : Keeps [.cnt, .hif, .alert] s (pmuCount a0 a1 a2 s) := by
  delta pmuCount
  extract_lets -merge -underBinder +onlyGivenNames x0
  refine keeps_foldl ?_ (fun u2 x1 ku2 => ?_)
  · exact (Keeps.refl s)
  · extract_lets -merge -underBinder +onlyGivenNames x3
    refine keeps_ite ?_ ?_
    · refine Keeps.after ?_ (bump_keeps ..) rfl
      exact ku2
    · exact ku2

theorem pmuDie_keeps {a0 a1 a2 s} : Keeps [.cnt, .hif, .alert] s (pmuDie a0 a1 a2 s) := by
  delta pmuDie
  refine keeps_foldl ?_ (fun u1 x0 ku1 => ?_)
  · exact (Keeps.refl s)
  · extract_lets -merge -underBinder +onlyGivenNames x2
    refine keeps_ite ?_ ?_
    · refine Keeps.after ?_ (bump_keeps ..) rfl
      exact ku1
    · exact ku1

theorem setSq_keeps {a0 a1 s} : Keeps [.hif] s (setSq a0 a1 s) := by
  delta setSq
  refine Keeps.upd_hif ?_ rfl
  exact (Keeps.refl s)

theorem flushDescs_keeps {q ds s} : Keeps [.hif] s (flushDescs q ds s).2 := by
  induction ds generalizing s with
  | nil => exact Keeps.refl s
  | cons d ds ih =>
    simp only [flushDescs]
    split
    · split
      · exact (keeps_ite (writeEntry_keeps.after triggerRing_keeps rfl) writeEntry_keeps).after ih rfl
      · exact Keeps.refl s
    · exact Keeps.refl s

theorem flushSq_keeps {a0 s} : Keeps [.hif] s (flushSq a0 s) := by
  delta flushSq
  extract_lets -merge -underBinder +onlyGivenNames x0
  split
  rename_i x1 x2 u3 hq4
  have ku3 : Keeps [.hif] s u3 := by
    have hp : Keeps [.hif] s (Prod.snd (x2, u3)) := by
      rw [← hq4]
      refine Keeps.after ?_ (flushDescs_keeps ..) rfl
      exact (Keeps.refl s)
    exact hp
  refine Keeps.after ?_ (setSq_keeps ..) rfl
  exact ku3

theorem complete_keeps {a0 a1 a2 a3 a4 a5 s} : Keeps [.cnt, .hif, .alert] s (complete a0 a1 a2 a3 a4 a5 s) := by
  delta complete
  extract_lets -merge -underBinder +onlyGivenNames x0
  refine keeps_ite ?_ ?_
  · extract_lets -merge -underBinder +onlyGivenNames x1 u2
    have ku2 : Keeps [.cnt, .hif, .alert] s u2 := by
      refine Keeps.after ?_ (setSq_keeps ..) rfl
      exact (Keeps.refl s)
    refine Keeps.after ?_ (flushSq_keeps ..) rfl
    refine Keeps.after ?_ (bump_keeps ..) rfl
    exact ku2
  · exact (Keeps.refl s)

theorem startDesc_keeps {a0 a1 s} : Keeps [.hif] s (startDesc a0 a1 s) := by
  delta startDesc
  extract_lets -merge -underBinder +onlyGivenNames x0
  refine Keeps.after ?_ (setSq_keeps ..) rfl
  exact (Keeps.refl s)

theorem dmaWrite_keeps {a0 a1 s} : Keeps [.hif] s (dmaWrite a0 a1 s) := by
  delta dmaWrite
  refine keeps_ite ?_ ?_
  · exact (Keeps.refl s)
  · refine Keeps.after ?_ (post_keeps ..) rfl
    exact (Keeps.refl s)

theorem setHrw_keeps {a0 a1 s} : Keeps [.hrw] s (setHrw a0 a1 s) := by
  delta setHrw
  refine Keeps.upd_hrw ?_ rfl
  exact (Keeps.refl s)

theorem setStream_keeps {a0 a1 s} : Keeps [.streams] s (setStream a0 a1 s) := by
  delta setStream
  refine Keeps.upd_streams ?_ rfl
  exact (Keeps.refl s)

theorem updStream_keeps {a0 a1 s} : Keeps [.streams] s (updStream a0 a1 s) := by
  delta updStream
  refine Keeps.after ?_ (setStream_keeps ..) rfl
  exact (Keeps.refl s)

theorem updMsg_keeps {a0 a1 s} : Keeps [.msgs] s (updMsg a0 a1 s) := by
  delta updMsg
  refine Keeps.upd_msgs ?_ rfl
  exact (Keeps.refl s)

theorem dropMsg_keeps {a0 s} : Keeps [.msgs] s (dropMsg a0 s) := by
  delta dropMsg
  refine Keeps.upd_msgs ?_ rfl
  exact (Keeps.refl s)

theorem updFrame_keeps {a0 a1 s} : Keeps [.frames] s (updFrame a0 a1 s) := by
  delta updFrame
  refine Keeps.upd_frames ?_ rfl
  exact (Keeps.refl s)

theorem dropFrame_keeps {a0 s} : Keeps [.frames] s (dropFrame a0 s) := by
  delta dropFrame
  refine Keeps.upd_frames ?_ rfl
  exact (Keeps.refl s)

end Sys2Proof.Machine
end

