-- ==== Sys2Proof/Laws/KeepsPlough.lean ====
section
/-! SUPPORT. What each operation and command of Machine/Plough.lean changes, and that it keeps the invariant. -/
namespace Sys2Proof.Machine

set_option Elab.async false

theorem putEntry_keeps {a0 a1 a2 s} : Keeps [.tables] s (putEntry a0 a1 a2 s) := by
  delta putEntry
  refine Keeps.upd_tables ?_ rfl
  exact (Keeps.refl s)

theorem setEntry_keeps {a0 a1 a2 s} : Keeps [.tables, .tblBad] s (setEntry a0 a1 a2 s) := by
  delta setEntry
  extract_lets -merge -underBinder +onlyGivenNames u0
  have ku0 : Keeps [.tables, .tblBad] s u0 := by
    refine Keeps.after ?_ (putEntry_keeps ..) rfl
    exact (Keeps.refl s)
  refine Keeps.upd_tblBad ?_ rfl
  exact ku0

theorem syncInput_keeps {a0 s} : Keeps [.msgs] s (syncInput a0 s) := by
  delta syncInput
  split
  · exact (Keeps.refl s)
  · split
    · exact (Keeps.refl s)
    · refine Keeps.after ?_ (updMsg_keeps ..) rfl
      exact (Keeps.refl s)

theorem endFrame_keeps {a0 s} : Keeps [.frames] s (endFrame a0 s) := by
  delta endFrame
  refine Keeps.after ?_ (updFrame_keeps ..) rfl
  exact (Keeps.refl s)

theorem setPuntLevel_keeps {a0 a1 s} : Keeps [.plg] s (setPuntLevel a0 a1 s) := by
  delta setPuntLevel
  refine Keeps.upd_plg ?_ rfl
  exact (Keeps.refl s)

theorem fillBuffers_keeps {size as data s} : Keeps [.hif] s (fillBuffers size as data s) := by
  induction as generalizing data s with
  | nil => exact Keeps.refl s
  | cons a as ih => exact dmaWrite_keeps.after ih rfl

theorem writeException_keeps {a0 a1 a2 a3 a4 a5 a6 s} : Keeps [.cnt, .hif, .alert] s (writeException a0 a1 a2 a3 a4 a5 a6 s) := by
  delta writeException
  extract_lets -merge -underBinder +onlyGivenNames x0 x1 x2 x3 x4
  refine keeps_ite ?_ ?_
  · refine Keeps.after ?_ (teleAdd_keeps ..) rfl
    refine Keeps.after ?_ (bump_keeps ..) rfl
    exact (Keeps.refl s)
  · refine keeps_ite ?_ ?_
    · unfold x4
      extract_lets -merge -underBinder +onlyGivenNames u5 u6
      have ku5 : Keeps [.cnt, .hif, .alert] s u5 := by
        refine Keeps.after ?_ (teleAdd_keeps ..) rfl
        refine Keeps.after ?_ (bump_keeps ..) rfl
        exact (Keeps.refl s)
      have ku6 : Keeps [.cnt, .hif, .alert] s u6 := by
        refine keeps_ite ?_ ?_
        · refine Keeps.after ?_ (raise_keeps ..) rfl
          exact ku5
        · exact ku5
      refine Keeps.upd_hif ?_ rfl
      exact ku6
    · refine keeps_ite ?_ ?_
      · unfold x4
        extract_lets -merge -underBinder +onlyGivenNames u7 u8
        have ku7 : Keeps [.cnt, .hif, .alert] s u7 := by
          refine Keeps.after ?_ (teleAdd_keeps ..) rfl
          refine Keeps.after ?_ (bump_keeps ..) rfl
          exact (Keeps.refl s)
        have ku8 : Keeps [.cnt, .hif, .alert] s u8 := by
          refine keeps_ite ?_ ?_
          · refine Keeps.after ?_ (raise_keeps ..) rfl
            exact ku7
          · exact ku7
        refine Keeps.upd_hif ?_ rfl
        exact ku8
      · extract_lets -merge -underBinder +onlyGivenNames x9 x10 u11 u12 u13
        have ku11 : Keeps [.cnt, .hif, .alert] s u11 := by
          refine Keeps.after ?_ (fillBuffers_keeps ..) rfl
          exact (Keeps.refl s)
        have ku12 : Keeps [.cnt, .hif, .alert] s u12 := by
          refine Keeps.after ?_ (setRing_keeps ..) rfl
          exact ku11
        extract_lets -merge -underBinder +onlyGivenNames u14
        have ku14 : Keeps [.cnt, .hif, .alert] s u14 := by
          refine Keeps.upd_hif ?_ rfl
          exact ku12
        refine Keeps.after ?_ (teleAdd_keeps ..) rfl
        refine Keeps.after ?_ (writeEntry_keeps ..) rfl
        exact ku14

theorem takePunt_keeps {a0 s} : Keeps [.cnt, .hif, .plg, .alert] s (takePunt a0 s).2 := by
  delta takePunt
  extract_lets -merge -underBinder +onlyGivenNames x0
  refine keeps_ite_p (p := Prod.snd) ?_ ?_
  · extract_lets -merge -underBinder +onlyGivenNames u1
    have ku1 : Keeps [.cnt, .hif, .plg, .alert] s u1 := by
      refine Keeps.after ?_ (teleAdd_keeps ..) rfl
      refine Keeps.after ?_ (bump_keeps ..) rfl
      exact (Keeps.refl s)
    refine keeps_snd ?_
    refine keeps_ite ?_ ?_
    · refine Keeps.after ?_ (raise_keeps ..) rfl
      refine Keeps.upd_plg ?_ rfl
      exact ku1
    · exact ku1
  · extract_lets -merge -underBinder +onlyGivenNames u2
    have ku2 : Keeps [.cnt, .hif, .plg, .alert] s u2 := by
      refine Keeps.after ?_ (setPuntLevel_keeps ..) rfl
      exact (Keeps.refl s)
    refine keeps_snd ?_
    refine Keeps.after ?_ (bump_keeps ..) rfl
    refine Keeps.upd_plg ?_ rfl
    exact ku2

theorem puntFrame_keeps {a0 a1 s} : Keeps [.cnt, .hif, .alert] s (puntFrame a0 a1 s) := by
  delta puntFrame
  extract_lets -merge -underBinder +onlyGivenNames x0
  refine Keeps.after ?_ (writeException_keeps ..) rfl
  exact (Keeps.refl s)

theorem setEgressQ_keeps {a0 a1 s} : Keeps [.egress] s (setEgressQ a0 a1 s) := by
  delta setEgressQ
  refine Keeps.upd_egress ?_ rfl
  exact (Keeps.refl s)

theorem enqueueEgress_keeps {a0 a1 s} : Keeps [.egress, .nextBuild] s (enqueueEgress a0 a1 s) := by
  delta enqueueEgress
  refine Keeps.after ?_ (setEgressQ_keeps ..) rfl
  refine Keeps.upd_nextBuild ?_ rfl
  exact (Keeps.refl s)

theorem sweepFrames_keeps {s} : Keeps [.frames] s (sweepFrames s) := by
  delta sweepFrames
  refine Keeps.upd_frames ?_ rfl
  exact (Keeps.refl s)

theorem applyMiss_keeps {a0 a1 a2 s} : Keeps [.cnt, .hif, .frames, .alert] s (applyMiss a0 a1 a2 s) := by
  delta applyMiss
  extract_lets -merge -underBinder +onlyGivenNames x0 u1 x2
  have ku1 : Keeps [.cnt, .hif, .frames, .alert] s u1 := by
    refine Keeps.after ?_ (bump_keeps ..) rfl
    exact (Keeps.refl s)
  refine keeps_ite ?_ ?_
  · refine keeps_ite ?_ ?_
    · refine Keeps.after ?_ (updFrame_keeps ..) rfl
      exact ku1
    · refine Keeps.after ?_ (bump_keeps ..) rfl
      exact ku1
  · refine keeps_ite ?_ ?_
    · refine Keeps.after ?_ (bump_keeps ..) rfl
      exact ku1
    · refine Keeps.after ?_ (updFrame_keeps ..) rfl
      exact ku1

theorem applyResult_keeps {a0 a1 s} : Keeps [.cnt, .hif, .frames, .alert] s (applyResult a0 a1 s) := by
  delta applyResult
  extract_lets -merge -underBinder +onlyGivenNames x0
  split
  · refine Keeps.after ?_ (bump_keeps ..) rfl
    exact (Keeps.refl s)
  · unfold x0
    refine keeps_ite ?_ ?_
    · refine Keeps.after ?_ (updFrame_keeps ..) rfl
      exact (Keeps.refl s)
    · exact (Keeps.refl s)
  · refine Keeps.after ?_ (updFrame_keeps ..) rfl
    exact (Keeps.refl s)
  · refine Keeps.after ?_ (updFrame_keeps ..) rfl
    exact (Keeps.refl s)
  · unfold x0
    refine keeps_ite ?_ ?_
    · refine Keeps.after ?_ (updFrame_keeps ..) rfl
      refine Keeps.after ?_ (updFrame_keeps ..) rfl
      exact (Keeps.refl s)
    · refine Keeps.after ?_ (updFrame_keeps ..) rfl
      exact (Keeps.refl s)
  · refine Keeps.after ?_ (bump_keeps ..) rfl
    exact (Keeps.refl s)

end Sys2Proof.Machine
end

