-- ==== Sys2Proof/Laws/KeepsMsgs.lean ====
section
/-! SUPPORT. What each operation and command of Machine/Msgs.lean changes, and that it keeps the invariant. -/
namespace Sys2Proof.Machine

set_option Elab.async false

theorem attach_keeps {a0 a1 s} : Keeps [.msgs] s (attach a0 a1 s) := by
  delta attach
  refine Keeps.after ?_ (updMsg_keeps ..) rfl
  exact (Keeps.refl s)

theorem setSlot_keeps {a0 a1 s} : Keeps [.slots] s (setSlot a0 a1 s) := by
  delta setSlot
  refine Keeps.upd_slots ?_ rfl
  exact (Keeps.refl s)

theorem setBank_keeps {a0 a1 a2 s} : Keeps [.slots] s (setBank a0 a1 a2 s) := by
  delta setBank
  refine Keeps.after ?_ (setSlot_keeps ..) rfl
  exact (Keeps.refl s)

theorem setPlot_keeps {a0 a1 s} : Keeps [.plots] s (setPlot a0 a1 s) := by
  delta setPlot
  refine Keeps.upd_plots ?_ rfl
  exact (Keeps.refl s)

theorem updPlot_keeps {a0 a1 s} : Keeps [.plots] s (updPlot a0 a1 s) := by
  delta updPlot
  refine Keeps.after ?_ (setPlot_keeps ..) rfl
  exact (Keeps.refl s)

theorem updGroup_keeps {a0 a1 s} : Keeps [.groups] s (updGroup a0 a1 s) := by
  delta updGroup
  refine Keeps.upd_groups ?_ rfl
  exact (Keeps.refl s)

theorem freePlot_keeps {a0 s} : Keeps [.plots] s (freePlot a0 s) := by
  delta freePlot
  refine Keeps.after ?_ (updPlot_keeps ..) rfl
  exact (Keeps.refl s)

theorem dropGroups_keeps {a0 a1 s} : Keeps [.groups, .plots] s (dropGroups a0 a1 s) := by
  delta dropGroups
  extract_lets -merge -underBinder +onlyGivenNames x0 u1
  have ku1 : Keeps [.groups, .plots] s u1 := by
    refine keeps_each ?_ (fun x2 u3 ku3 => ?_)
    · exact (Keeps.refl s)
    · refine Keeps.after ?_ (freePlot_keeps ..) rfl
      exact ku3
  refine Keeps.upd_groups ?_ rfl
  exact ku1

theorem emptyBank_keeps {a0 a1 s} : Keeps [.slots, .groups, .plots] s (emptyBank a0 a1 s) := by
  delta emptyBank
  refine Keeps.after ?_ (setBank_keeps ..) rfl
  refine Keeps.after ?_ (dropGroups_keeps ..) rfl
  exact (Keeps.refl s)

theorem freeIfUnbound_keeps {a0 a1 s} : Keeps [.cnt, .hif, .slots, .groups, .plots, .alert] s (freeIfUnbound a0 a1 s) := by
  delta freeIfUnbound
  extract_lets -merge -underBinder +onlyGivenNames x0
  refine keeps_ite ?_ ?_
  · refine Keeps.after ?_ (raise_keeps ..) rfl
    refine Keeps.after ?_ (emptyBank_keeps ..) rfl
    exact (Keeps.refl s)
  · exact (Keeps.refl s)

theorem updSheaf_keeps {a0 a1 s} : Keeps [.sheaves] s (updSheaf a0 a1 s) := by
  delta updSheaf
  refine Keeps.upd_sheaves ?_ rfl
  exact (Keeps.refl s)

theorem closeSheaf_keeps {a0 s} : Keeps [.cnt, .hif, .sheaves, .alert] s (closeSheaf a0 s) := by
  delta closeSheaf
  split
  · exact (Keeps.refl s)
  · refine keeps_ite ?_ ?_
    · extract_lets -merge -underBinder +onlyGivenNames u0
      have ku0 : Keeps [.cnt, .hif, .sheaves, .alert] s u0 := by
        refine Keeps.after ?_ (updSheaf_keeps ..) rfl
        exact (Keeps.refl s)
      refine Keeps.after ?_ (bump_keeps ..) rfl
      refine Keeps.after ?_ (bump_keeps ..) rfl
      exact ku0
    · exact (Keeps.refl s)

theorem openSheaf_keeps {a0 s} : Keeps [.cnt, .hif, .msgs, .sheaves, .alert, .nextSid] s (openSheaf a0 s) := by
  delta openSheaf
  extract_lets -merge -underBinder +onlyGivenNames x0 x1 x2 u3 u4
  have ku3 : Keeps [.cnt, .hif, .msgs, .sheaves, .alert, .nextSid] s u3 := by
    refine Keeps.upd_sheaves_nextSid ?_ rfl
    exact (Keeps.refl s)
  have ku4 : Keeps [.cnt, .hif, .msgs, .sheaves, .alert, .nextSid] s u4 := by
    refine Keeps.after ?_ (updMsg_keeps ..) rfl
    exact ku3
  refine keeps_ite ?_ ?_
  · refine Keeps.after ?_ (closeSheaf_keeps ..) rfl
    exact ku4
  · exact ku4

theorem gatherMsg_keeps {a0 s} : Keeps [.cnt, .hif, .msgs, .sheaves, .alert, .nextSid] s (gatherMsg a0 s) := by
  delta gatherMsg
  refine keeps_ite ?_ ?_
  · refine Keeps.after ?_ (openSheaf_keeps ..) rfl
    exact (Keeps.refl s)
  · split
    · refine Keeps.after ?_ (openSheaf_keeps ..) rfl
      exact (Keeps.refl s)
    · extract_lets -merge -underBinder +onlyGivenNames u0 u1
      have ku0 : Keeps [.cnt, .hif, .msgs, .sheaves, .alert, .nextSid] s u0 := by
        refine Keeps.after ?_ (updSheaf_keeps ..) rfl
        exact (Keeps.refl s)
      have ku1 : Keeps [.cnt, .hif, .msgs, .sheaves, .alert, .nextSid] s u1 := by
        refine Keeps.after ?_ (updMsg_keeps ..) rfl
        exact ku0
      refine keeps_ite ?_ ?_
      · refine Keeps.after ?_ (closeSheaf_keeps ..) rfl
        exact ku1
      · exact ku1

theorem gatherSome_keeps {n s} : Keeps [.cnt, .hif, .msgs, .sheaves, .alert, .nextSid] s (gatherSome n s) := by
  induction n generalizing s with
  | zero => exact Keeps.refl s
  | succ n ih =>
    simp only [gatherSome]
    split
    · exact Keeps.refl s
    · exact (gatherMsg_keeps.weaken rfl).after ih rfl

theorem gatherAll_keeps {s} : Keeps [.cnt, .hif, .msgs, .sheaves, .alert, .nextSid] s (gatherAll s) := by
  delta gatherAll
  refine Keeps.after ?_ (gatherSome_keeps ..) rfl
  exact (Keeps.refl s)

theorem setYd_keeps {a0 a1 s} : Keeps [.yoke] s (setYd a0 a1 s) := by
  delta setYd
  refine Keeps.upd_yoke ?_ rfl
  exact (Keeps.refl s)

theorem refund_keeps {a0 a1 a2 s} : Keeps [.yoke] s (refund a0 a1 a2 s) := by
  delta refund
  extract_lets -merge -underBinder +onlyGivenNames x0
  refine Keeps.after ?_ (setYd_keeps ..) rfl
  exact (Keeps.refl s)

theorem leaveSheaf_keeps {a0 s} : Keeps [.sheaves, .waits, .yoke] s (leaveSheaf a0 s) := by
  delta leaveSheaf
  extract_lets -merge -underBinder +onlyGivenNames u0 x1 u2 x3
  have ku0 : Keeps [.sheaves, .waits, .yoke] s u0 := by
    refine Keeps.upd_sheaves ?_ rfl
    exact (Keeps.refl s)
  have ku2 : Keeps [.sheaves, .waits, .yoke] s u2 := by
    refine keeps_each ?_ (fun x4 u5 ku5 => ?_)
    · exact ku0
    · split
      · refine Keeps.after ?_ (refund_keeps ..) rfl
        exact ku5
      · exact ku5
  refine Keeps.upd_sheaves_waits ?_ rfl
  exact ku2

theorem commitKv_keeps {a0 s} : Keeps [.streams] s (commitKv a0 s) := by
  delta commitKv
  refine Keeps.after ?_ (updStream_keeps ..) rfl
  exact (Keeps.refl s)

theorem dropInject_keeps {a0 s} : Keeps [.egress] s (dropInject a0 s) := by
  delta dropInject
  refine Keeps.upd_egress ?_ rfl
  exact (Keeps.refl s)

theorem holdMsg_keeps {a0 s} : Keeps [.cnt, .hif, .msgs, .egress, .sheaves, .waits, .yoke, .alert] s (holdMsg a0 s) := by
  delta holdMsg
  extract_lets -merge -underBinder +onlyGivenNames u0
  have ku0 : Keeps [.cnt, .hif, .msgs, .egress, .sheaves, .waits, .yoke, .alert] s u0 := by
    refine Keeps.after ?_ (dropInject_keeps ..) rfl
    refine Keeps.after ?_ (leaveSheaf_keeps ..) rfl
    exact (Keeps.refl s)
  refine Keeps.after ?_ (bump_keeps ..) rfl
  refine Keeps.after ?_ (updMsg_keeps ..) rfl
  exact ku0

theorem fenceStream_keeps {a0 a1 a2 s} :
    Keeps [.cnt, .hif, .streams, .msgs, .egress, .sheaves, .waits, .yoke, .alert] s (fenceStream a0 a1 a2 s) := by
  delta fenceStream
  extract_lets -merge -underBinder +onlyGivenNames u0 u1
  have ku0 : Keeps [.cnt, .hif, .streams, .msgs, .egress, .sheaves, .waits, .yoke, .alert] s u0 := by
    refine Keeps.after ?_ (updStream_keeps ..) rfl
    exact (Keeps.refl s)
  have ku1 : Keeps [.cnt, .hif, .streams, .msgs, .egress, .sheaves, .waits, .yoke, .alert] s u1 := by
    refine Keeps.after ?_ (raise_keeps ..) rfl
    exact ku0
  refine keeps_each ?_ (fun x2 u3 ku3 => ?_)
  · exact ku1
  · refine Keeps.after ?_ (holdMsg_keeps ..) rfl
    exact ku3

theorem closeStream_keeps {a0 s} : Keeps [.cnt, .hif, .streams, .alert] s (closeStream a0 s) := by
  delta closeStream
  extract_lets -merge -underBinder +onlyGivenNames x0 u1 u2
  have ku1 : Keeps [.cnt, .hif, .streams, .alert] s u1 := by
    refine Keeps.after ?_ (setStream_keeps ..) rfl
    exact (Keeps.refl s)
  have ku2 : Keeps [.cnt, .hif, .streams, .alert] s u2 := by
    refine Keeps.after ?_ (raise_keeps ..) rfl
    exact ku1
  split
  · refine Keeps.after ?_ (complete_keeps ..) rfl
    exact ku2
  · exact ku2

theorem finishReset_keeps {a0 a1 s} : Keeps [.cnt, .hif, .streams, .alert] s (finishReset a0 a1 s) := by
  delta finishReset
  extract_lets -merge -underBinder +onlyGivenNames u0 u1
  have ku0 : Keeps [.cnt, .hif, .streams, .alert] s u0 := by
    unfold u0
    split
    · refine Keeps.after ?_ (complete_keeps ..) rfl
      exact (Keeps.refl s)
    · exact (Keeps.refl s)
  have ku1 : Keeps [.cnt, .hif, .streams, .alert] s u1 := by
    refine Keeps.after ?_ (updStream_keeps ..) rfl
    exact ku0
  refine Keeps.after ?_ (complete_keeps ..) rfl
  exact ku1

theorem idleStream_keeps {a0 s} : Keeps [.cnt, .hif, .streams, .alert] s (idleStream a0 s) := by
  delta idleStream
  extract_lets -merge -underBinder +onlyGivenNames x0
  refine keeps_ite ?_ ?_
  · split
    · refine Keeps.after ?_ (finishReset_keeps ..) rfl
      exact (Keeps.refl s)
    · refine keeps_ite ?_ ?_
      · refine Keeps.after ?_ (closeStream_keeps ..) rfl
        exact (Keeps.refl s)
      · exact (Keeps.refl s)
  · exact (Keeps.refl s)

theorem wakeDetached_keeps {a0 s} : Keeps [.cnt, .hif, .msgs, .sheaves, .alert, .nextSid] s (wakeDetached a0 s) := by
  delta wakeDetached
  split
  · refine keeps_ite ?_ ?_
    · refine Keeps.after ?_ (gatherAll_keeps ..) rfl
      refine Keeps.after ?_ (updMsg_keeps ..) rfl
      exact (Keeps.refl s)
    · exact (Keeps.refl s)
  · exact (Keeps.refl s)

theorem endOne_keeps {a0 s} :
    Keeps [.cnt, .hif, .streams, .msgs, .egress, .slots, .sheaves, .groups, .plots, .waits, .yoke, .alert, .nextSid] s (endOne a0 s) := by
  delta endOne
  split
  · exact (Keeps.refl s)
  · extract_lets -merge -underBinder +onlyGivenNames x0 x1 u2 u3 u4 u5 u6 u7 u8 x9 u10 u11 u12
    have ku2 : Keeps [.cnt, .hif, .streams, .msgs, .egress, .slots, .sheaves, .groups, .plots, .waits, .yoke, .alert, .nextSid] s u2 := by
      refine Keeps.after ?_ (teleAdd_keeps ..) rfl
      refine Keeps.after ?_ (bump_keeps ..) rfl
      exact (Keeps.refl s)
    have ku3 : Keeps [.cnt, .hif, .streams, .msgs, .egress, .slots, .sheaves, .groups, .plots, .waits, .yoke, .alert, .nextSid] s u3 := by
      refine keeps_ite ?_ ?_
      · refine Keeps.after ?_ (bump_keeps ..) rfl
        exact ku2
      · exact ku2
    have ku4 : Keeps [.cnt, .hif, .streams, .msgs, .egress, .slots, .sheaves, .groups, .plots, .waits, .yoke, .alert, .nextSid] s u4 := by
      refine keeps_ite ?_ ?_
      · refine Keeps.after ?_ (teleAdd_keeps ..) rfl
        exact ku3
      · exact ku3
    have ku5 : Keeps [.cnt, .hif, .streams, .msgs, .egress, .slots, .sheaves, .groups, .plots, .waits, .yoke, .alert, .nextSid] s u5 := by
      refine keeps_ite ?_ ?_
      · exact ku4
      · refine Keeps.after ?_ (commitKv_keeps ..) rfl
        exact ku4
    have ku6 : Keeps [.cnt, .hif, .streams, .msgs, .egress, .slots, .sheaves, .groups, .plots, .waits, .yoke, .alert, .nextSid] s u6 := by
      refine Keeps.after ?_ (updStream_keeps ..) rfl
      exact ku5
    have ku7 : Keeps [.cnt, .hif, .streams, .msgs, .egress, .slots, .sheaves, .groups, .plots, .waits, .yoke, .alert, .nextSid] s u7 := by
      refine Keeps.after ?_ (dropMsg_keeps ..) rfl
      refine Keeps.after ?_ (leaveSheaf_keeps ..) rfl
      exact ku6
    have ku8 : Keeps [.cnt, .hif, .streams, .msgs, .egress, .slots, .sheaves, .groups, .plots, .waits, .yoke, .alert, .nextSid] s u8 := by
      unfold u8
      split
      · extract_lets -merge -underBinder +onlyGivenNames x13
        refine Keeps.after ?_ (complete_keeps ..) rfl
        exact ku7
      · exact ku7
    have ku10 : Keeps [.cnt, .hif, .streams, .msgs, .egress, .slots, .sheaves, .groups, .plots, .waits, .yoke, .alert, .nextSid] s u10 := by
      refine keeps_ite ?_ ?_
      · refine Keeps.after ?_ (fenceStream_keeps ..) rfl
        exact ku8
      · exact ku8
    have ku11 : Keeps [.cnt, .hif, .streams, .msgs, .egress, .slots, .sheaves, .groups, .plots, .waits, .yoke, .alert, .nextSid] s u11 := by
      refine Keeps.after ?_ (freeIfUnbound_keeps ..) rfl
      exact ku10
    have ku12 : Keeps [.cnt, .hif, .streams, .msgs, .egress, .slots, .sheaves, .groups, .plots, .waits, .yoke, .alert, .nextSid] s u12 := by
      refine Keeps.after ?_ (idleStream_keeps ..) rfl
      exact ku11
    refine Keeps.after ?_ (wakeDetached_keeps ..) rfl
    exact ku12

theorem writeHostReply_keeps {a0 a1 s} : Keeps [.hif] s (writeHostReply a0 a1 s) := by
  delta writeHostReply
  split
  · refine keeps_ite ?_ ?_
    · refine Keeps.after ?_ (dmaWrite_keeps ..) rfl
      exact (Keeps.refl s)
    · exact (Keeps.refl s)
  · exact (Keeps.refl s)

theorem queueInjectReply_keeps {a0 a1 a2 s} : Keeps [.egress, .nextBuild] s (queueInjectReply a0 a1 a2 s) := by
  delta queueInjectReply
  refine Keeps.after ?_ (enqueueEgress_keeps ..) rfl
  exact (Keeps.refl s)

theorem errorReply_keeps {a0 s} : Keeps [.cnt, .hif, .alert, .nextBuild] s (errorReply a0 s).2 := by
  delta errorReply
  extract_lets -merge -underBinder +onlyGivenNames x0
  refine keeps_ite_p (p := Prod.snd) ?_ ?_
  · refine keeps_snd ?_
    refine Keeps.after ?_ (raise_keeps ..) rfl
    refine Keeps.after ?_ (bump_keeps ..) rfl
    exact (Keeps.refl s)
  · extract_lets -merge -underBinder +onlyGivenNames x1
    refine keeps_ite_p (p := Prod.snd) ?_ ?_
    · refine keeps_snd ?_
      refine Keeps.after ?_ (bump_keeps ..) rfl
      exact (Keeps.refl s)
    · refine keeps_snd ?_
      refine Keeps.after ?_ (bump_keeps ..) rfl
      refine Keeps.upd_nextBuild ?_ rfl
      exact (Keeps.refl s)

theorem countLate_keeps {a0 s} : Keeps [.cnt, .hif, .alert] s (countLate a0 s) := by
  delta countLate
  refine keeps_ite ?_ ?_
  · refine Keeps.after ?_ (teleAdd_keeps ..) rfl
    refine Keeps.after ?_ (bump_keeps ..) rfl
    exact (Keeps.refl s)
  · exact (Keeps.refl s)

theorem settle_keeps {k fuel s} :
    Keeps [.cnt, .hif, .streams, .msgs, .egress, .slots, .sheaves, .groups, .plots, .waits, .yoke, .alert, .nextBuild, .nextSid] s (settle k fuel s) := by
  induction fuel generalizing s with
  | zero => exact Keeps.refl s
  | succ fuel ih =>
    have go : ∀ {u mid}, Keeps [.cnt, .hif, .streams, .msgs, .egress, .slots, .sheaves, .groups, .plots, .waits, .yoke, .alert, .nextBuild, .nextSid] s u → Keeps [.cnt, .hif, .streams, .msgs, .egress, .slots, .sheaves, .groups, .plots, .waits, .yoke, .alert, .nextBuild, .nextSid] s (settle k fuel (endOne mid u)) :=
      fun hu => (hu.after endOne_keeps rfl).after ih rfl
    simp only [settle]
    split
    · exact Keeps.refl s
    · refine keeps_ite (Keeps.refl s) ?_
      split
      · split
        · exact keeps_ite (go ((writeHostReply_keeps.weaken rfl).after countLate_keeps rfl)) (Keeps.refl s)
        · exact Keeps.refl s
      · refine keeps_ite (Keeps.refl s) (keeps_ite (go (Keeps.refl s)) (keeps_ite (Keeps.refl s) ?_))
        refine keeps_ite (dropInject_keeps.weaken rfl) ?_
        split
        · rename_i u hq
          obtain rfl : _ = u := congrArg Prod.snd hq
          exact go ((dropInject_keeps.weaken rfl).after errorReply_keeps rfl)
        · rename_i r u hq
          have hu : Keeps [.cnt, .hif, .streams, .msgs, .egress, .slots, .sheaves, .groups, .plots, .waits, .yoke, .alert, .nextBuild, .nextSid] s u := by
            have e : _ = u := congrArg Prod.snd hq
            rw [← e]
            exact (dropInject_keeps.weaken rfl).after errorReply_keeps rfl
          have hv : ∀ {mid f}, Keeps [.cnt, .hif, .streams, .msgs, .egress, .slots, .sheaves, .groups, .plots, .waits, .yoke, .alert, .nextBuild, .nextSid] s (updMsg mid f u) := fun {_ _} => hu.after updMsg_keeps rfl
          exact keeps_ite (go (hv.after writeHostReply_keeps rfl)) (keeps_ite (hv.after queueInjectReply_keeps rfl) hv)

theorem settleStream_keeps {a0 s} :
    Keeps [.cnt, .hif, .streams, .msgs, .egress, .slots, .sheaves, .groups, .plots, .waits, .yoke, .alert, .nextBuild, .nextSid] s (settleStream a0 s) := by
  delta settleStream
  refine Keeps.after ?_ (settle_keeps ..) rfl
  exact (Keeps.refl s)

theorem failMsg_keeps {a0 a1 s} :
    Keeps [.cnt, .hif, .streams, .msgs, .egress, .slots, .sheaves, .groups, .plots, .waits, .yoke, .alert, .nextBuild, .nextSid] s (failMsg a0 a1 s) := by
  delta failMsg
  split
  · exact (Keeps.refl s)
  · refine Keeps.after ?_ (settleStream_keeps ..) rfl
    refine Keeps.after ?_ (attach_keeps ..) rfl
    exact (Keeps.refl s)

theorem sendNothing_keeps {a0 s} :
    Keeps [.cnt, .hif, .streams, .msgs, .egress, .slots, .sheaves, .groups, .plots, .waits, .yoke, .alert, .nextBuild, .nextSid] s (sendNothing a0 s) := by
  delta sendNothing
  refine Keeps.after ?_ (settleStream_keeps ..) rfl
  refine Keeps.after ?_ (attach_keeps ..) rfl
  refine Keeps.after ?_ (updMsg_keeps ..) rfl
  exact (Keeps.refl s)

theorem endMsg_keeps {a0 s} :
    Keeps [.cnt, .hif, .streams, .msgs, .egress, .slots, .sheaves, .groups, .plots, .waits, .yoke, .alert, .nextBuild, .nextSid] s (endMsg a0 s) := by
  delta endMsg
  split
  · exact (Keeps.refl s)
  · refine Keeps.after ?_ (settleStream_keeps ..) rfl
    refine Keeps.after ?_ (endOne_keeps ..) rfl
    exact (Keeps.refl s)

theorem taintMsg_keeps {a0 a1 s} :
    Keeps [.cnt, .hif, .streams, .msgs, .egress, .slots, .sheaves, .groups, .plots, .waits, .yoke, .alert, .nextBuild, .nextSid] s (taintMsg a0 a1 s) := by
  delta taintMsg
  split
  · refine Keeps.after ?_ (bump_keeps ..) rfl
    exact (Keeps.refl s)
  · refine keeps_ite ?_ ?_
    · refine Keeps.after ?_ (bump_keeps ..) rfl
      exact (Keeps.refl s)
    · refine keeps_ite ?_ ?_
      · exact (Keeps.refl s)
      · refine Keeps.after ?_ (failMsg_keeps ..) rfl
        refine Keeps.after ?_ (updMsg_keeps ..) rfl
        exact (Keeps.refl s)

theorem taintOwners_keeps {a0 a1 s} :
    Keeps [.cnt, .hif, .streams, .msgs, .egress, .slots, .sheaves, .groups, .plots, .waits, .yoke, .alert, .nextBuild, .nextSid] s (taintOwners a0 a1 s) := by
  delta taintOwners
  split
  · exact (Keeps.refl s)
  · split
    · exact (Keeps.refl s)
    · refine keeps_each ?_ (fun x0 u1 ku1 => ?_)
      · exact (Keeps.refl s)
      · refine Keeps.after ?_ (taintMsg_keeps ..) rfl
        exact ku1

end Sys2Proof.Machine
end

