-- ==== Sys2Proof/Laws/KeepsBackbone.lean ====
section
/-! SUPPORT. What each operation and command of Machine/Backbone.lean changes, and that it keeps the invariant. -/
namespace Sys2Proof.Machine

set_option Elab.async false

theorem setBb_keeps {a0 a1 s} : Keeps [.bbs] s (setBb a0 a1 s) := by
  delta setBb
  refine Keeps.upd_bbs ?_ rfl
  exact (Keeps.refl s)

theorem updBb_keeps {a0 a1 s} : Keeps [.bbs] s (updBb a0 a1 s) := by
  delta updBb
  refine Keeps.after ?_ (setBb_keeps ..) rfl
  exact (Keeps.refl s)

theorem bbpCount_keeps {a0 a1 s} : Keeps [.cnt, .hif, .alert] s (bbpCount a0 a1 s) := by
  delta bbpCount
  refine Keeps.after ?_ (bump_keeps ..) rfl
  exact (Keeps.refl s)

theorem flowOne_keeps {a0 a1 s} : Keeps [.bbs] s (flowOne a0 a1 s) := by
  delta flowOne
  extract_lets -merge -underBinder +onlyGivenNames x0 x1
  refine keeps_ite ?_ ?_
  · refine Keeps.after ?_ (setBb_keeps ..) rfl
    exact (Keeps.refl s)
  · refine keeps_ite ?_ ?_
    · refine Keeps.after ?_ (setBb_keeps ..) rfl
      exact (Keeps.refl s)
    · exact (Keeps.refl s)

theorem flowCheck_keeps {a0 s} : Keeps [.bbs] s (flowCheck a0 s) := by
  delta flowCheck
  refine keeps_ite ?_ ?_
  · exact (Keeps.refl s)
  · refine keeps_ite ?_ ?_
    · refine Keeps.after ?_ (updBb_keeps ..) rfl
      exact (Keeps.refl s)
    · refine keeps_ite ?_ ?_
      · exact (Keeps.refl s)
      · refine keeps_ite ?_ ?_
        · refine Keeps.after ?_ (flowOne_keeps ..) rfl
          exact (Keeps.refl s)
        · refine keeps_ite ?_ ?_
          · refine keeps_each ?_ (fun x0 u1 ku1 => ?_)
            · exact (Keeps.refl s)
            · refine Keeps.after ?_ (flowOne_keeps ..) rfl
              exact ku1
          · exact (Keeps.refl s)

theorem startReply_keeps {a0 a1 a2 a3 s} : Keeps [.msgs, .bbs] s (startReply a0 a1 a2 a3 s) := by
  delta startReply
  refine Keeps.after ?_ (updBb_keeps ..) rfl
  refine Keeps.after ?_ (updMsg_keeps ..) rfl
  exact (Keeps.refl s)

theorem startEgr_keeps {a0 a1 s} : Keeps [.egress, .bbs] s (startEgr a0 a1 s) := by
  delta startEgr
  extract_lets -merge -underBinder +onlyGivenNames x0 x1
  refine Keeps.after ?_ (updBb_keeps ..) rfl
  refine Keeps.after ?_ (setEgressQ_keeps ..) rfl
  exact (Keeps.refl s)

theorem bbDropQueue_keeps {a0 s} : Keeps [.cnt, .hif, .egress, .alert] s (bbDropQueue a0 s) := by
  delta bbDropQueue
  extract_lets -merge -underBinder +onlyGivenNames x0
  refine keeps_each ?_ (fun x1 u2 ku2 => ?_)
  · refine Keeps.after ?_ (setEgressQ_keeps ..) rfl
    exact (Keeps.refl s)
  · refine Keeps.after ?_ (bbpCount_keeps ..) rfl
    split
    · refine Keeps.after ?_ (complete_keeps ..) rfl
      exact ku2
    · exact ku2

theorem bbKick_keeps {a0 s} : Keeps [.cnt, .hif, .msgs, .egress, .bbs, .alert] s (bbKick a0 s) := by
  delta bbKick
  refine keeps_ite ?_ ?_
  · exact (Keeps.refl s)
  · refine keeps_ite ?_ ?_
    · refine keeps_ite ?_ ?_
      · exact (Keeps.refl s)
      · refine Keeps.after ?_ (bbDropQueue_keeps ..) rfl
        exact (Keeps.refl s)
    · refine keeps_ite ?_ ?_
      · exact (Keeps.refl s)
      · extract_lets -merge -underBinder +onlyGivenNames x0 x1
        split
        · refine keeps_ite ?_ ?_
          · refine Keeps.after ?_ (startReply_keeps ..) rfl
            exact (Keeps.refl s)
          · refine Keeps.after ?_ (startEgr_keeps ..) rfl
            exact (Keeps.refl s)
        · refine Keeps.after ?_ (startReply_keeps ..) rfl
          exact (Keeps.refl s)
        · refine Keeps.after ?_ (startEgr_keeps ..) rfl
          exact (Keeps.refl s)
        · exact (Keeps.refl s)

theorem bbSettle_keeps {s} : Keeps [.cnt, .hif, .msgs, .egress, .bbs, .alert] s (bbSettle s) := by
  delta bbSettle
  refine keeps_each ?_ (fun x0 u1 ku1 => ?_)
  · exact (Keeps.refl s)
  · refine Keeps.after ?_ (bbKick_keeps ..) rfl
    refine Keeps.after ?_ (flowCheck_keeps ..) rfl
    exact ku1

theorem alignedReplyStart_keeps {a0 s} : Keeps [.msgs, .bbs] s (alignedReplyStart a0 s) := by
  delta alignedReplyStart
  split
  · exact (Keeps.refl s)
  · split
    · exact (Keeps.refl s)
    · extract_lets -merge -underBinder +onlyGivenNames x0
      refine keeps_ite ?_ ?_
      · refine Keeps.after ?_ (startReply_keeps ..) rfl
        exact (Keeps.refl s)
      · exact (Keeps.refl s)

theorem execAlignedReplyStart_keeps {a0 s} : KeepsOut [.msgs, .bbs] s (execAlignedReplyStart a0 s) := by
  delta execAlignedReplyStart
  refine out_next ?_
  refine Keeps.after ?_ (alignedReplyStart_keeps ..) rfl
  exact (Keeps.refl s)

theorem crcDecision_keeps {a0 s} : Keeps [.cnt, .hif, .streams, .msgs, .bbs, .alert] s (crcDecision a0 s) := by
  delta crcDecision
  split
  · exact (Keeps.refl s)
  · split
    · exact (Keeps.refl s)
    · split
      · exact (Keeps.refl s)
      · refine keeps_ite ?_ ?_
        · exact (Keeps.refl s)
        · extract_lets -merge -underBinder +onlyGivenNames x0
          refine keeps_ite ?_ ?_
          · refine Keeps.after ?_ (bbpCount_keeps ..) rfl
            unfold x0
            refine Keeps.after ?_ (updBb_keeps ..) rfl
            exact (Keeps.refl s)
          · refine keeps_ite ?_ ?_
            · refine Keeps.after ?_ (commitKv_keeps ..) rfl
              unfold x0
              refine Keeps.after ?_ (updBb_keeps ..) rfl
              refine Keeps.after ?_ (updMsg_keeps ..) rfl
              exact (Keeps.refl s)
            · refine Keeps.after ?_ (raise_keeps ..) rfl
              refine Keeps.after ?_ (bbpCount_keeps ..) rfl
              unfold x0
              refine Keeps.after ?_ (updBb_keeps ..) rfl
              exact (Keeps.refl s)

theorem execAlignedCrcDecision_keeps {a0 s} : KeepsOut [.cnt, .hif, .streams, .msgs, .bbs, .alert] s (execAlignedCrcDecision a0 s) := by
  delta execAlignedCrcDecision
  refine out_next ?_
  refine Keeps.after ?_ (crcDecision_keeps ..) rfl
  exact (Keeps.refl s)

theorem afterStomp_keeps {a0 a1 s} :
    Keeps [.cnt, .hif, .streams, .msgs, .egress, .slots, .sheaves, .groups, .plots, .waits, .yoke, .bbs, .alert, .nextBuild, .nextSid] s (afterStomp a0 a1 s) := by
  delta afterStomp
  split
  · exact (Keeps.refl s)
  · extract_lets -merge -underBinder +onlyGivenNames u0
    have ku0 : Keeps [.cnt, .hif, .streams, .msgs, .egress, .slots, .sheaves, .groups, .plots, .waits, .yoke, .bbs, .alert, .nextBuild, .nextSid] s u0 := by
      refine Keeps.after ?_ (settleStream_keeps ..) rfl
      refine Keeps.after ?_ (updMsg_keeps ..) rfl
      exact (Keeps.refl s)
    split
    · exact ku0
    · split
      · refine keeps_ite ?_ ?_
        · refine Keeps.after ?_ (startReply_keeps ..) rfl
          exact ku0
        · exact ku0
      · exact ku0

theorem replySent_keeps {a0 a1 a2 s} :
    Keeps [.cnt, .hif, .streams, .msgs, .egress, .slots, .sheaves, .groups, .plots, .waits, .yoke, .bbs, .alert, .nextBuild, .nextSid] s (replySent a0 a1 a2 s) := by
  delta replySent
  split
  · exact (Keeps.refl s)
  · refine keeps_ite ?_ ?_
    · refine Keeps.after ?_ (afterStomp_keeps ..) rfl
      exact (Keeps.refl s)
    · refine keeps_ite ?_ ?_
      · refine Keeps.after ?_ (settleStream_keeps ..) rfl
        refine Keeps.after ?_ (updMsg_keeps ..) rfl
        exact (Keeps.refl s)
      · extract_lets -merge -underBinder +onlyGivenNames x0
        refine keeps_ite ?_ ?_
        · refine Keeps.after ?_ (endMsg_keeps ..) rfl
          exact (Keeps.refl s)
        · refine keeps_ite ?_ ?_
          · refine Keeps.after ?_ (afterStomp_keeps ..) rfl
            exact (Keeps.refl s)
          · refine Keeps.after ?_ (endMsg_keeps ..) rfl
            refine Keeps.after ?_ (countLate_keeps ..) rfl
            exact (Keeps.refl s)

theorem bbTxEnd_keeps {a0 s} :
    Keeps [.cnt, .hif, .streams, .msgs, .egress, .slots, .sheaves, .groups, .plots, .waits, .yoke, .bbs, .alert, .nextBuild, .nextSid] s (bbTxEnd a0 s) := by
  delta bbTxEnd
  extract_lets -merge -underBinder +onlyGivenNames u0
  have ku0 : Keeps [.cnt, .hif, .streams, .msgs, .egress, .slots, .sheaves, .groups, .plots, .waits, .yoke, .bbs, .alert, .nextBuild, .nextSid] s u0 := by
    refine Keeps.after ?_ (crcDecision_keeps ..) rfl
    exact (Keeps.refl s)
  split
  · refine Keeps.after ?_ (bbSettle_keeps ..) rfl
    exact ku0
  · extract_lets -merge -underBinder +onlyGivenNames u1 u2
    have ku1 : Keeps [.cnt, .hif, .streams, .msgs, .egress, .slots, .sheaves, .groups, .plots, .waits, .yoke, .bbs, .alert, .nextBuild, .nextSid] s u1 := by
      refine Keeps.after ?_ (updBb_keeps ..) rfl
      exact ku0
    have ku2 : Keeps [.cnt, .hif, .streams, .msgs, .egress, .slots, .sheaves, .groups, .plots, .waits, .yoke, .bbs, .alert, .nextBuild, .nextSid] s u2 := by
      unfold u2
      split
      · refine Keeps.after ?_ (replySent_keeps ..) rfl
        exact ku1
      · split
        · exact ku1
        · extract_lets -merge -underBinder +onlyGivenNames u3
          have ku3 : Keeps [.cnt, .hif, .streams, .msgs, .egress, .slots, .sheaves, .groups, .plots, .waits, .yoke, .bbs, .alert, .nextBuild, .nextSid] s u3 := by
            refine Keeps.after ?_ (setEgressQ_keeps ..) rfl
            exact ku1
          split
          · extract_lets -merge -underBinder +onlyGivenNames u4
            have ku4 : Keeps [.cnt, .hif, .streams, .msgs, .egress, .slots, .sheaves, .groups, .plots, .waits, .yoke, .bbs, .alert, .nextBuild, .nextSid] s u4 := by
              refine keeps_ite ?_ ?_
              · refine Keeps.after ?_ (raise_keeps ..) rfl
                exact ku3
              · exact ku3
            refine keeps_ite ?_ ?_
            · refine Keeps.after ?_ (complete_keeps ..) rfl
              exact ku4
            · refine Keeps.after ?_ (complete_keeps ..) rfl
              exact ku4
          · exact ku3
    refine Keeps.after ?_ (bbSettle_keeps ..) rfl
    exact ku2

theorem execBbpTxFrameEnd_keeps {a0 s} :
    KeepsOut [.cnt, .hif, .streams, .msgs, .egress, .slots, .sheaves, .groups, .plots, .waits, .yoke, .bbs, .alert, .nextBuild, .nextSid] s (execBbpTxFrameEnd a0 s) := by
  delta execBbpTxFrameEnd
  refine out_next ?_
  refine Keeps.after ?_ (bbTxEnd_keeps ..) rfl
  exact (Keeps.refl s)

theorem pauseReceived_keeps {a0 a1 a2 s} : Keeps [.cnt, .hif, .msgs, .egress, .bbs, .alert] s (pauseReceived a0 a1 a2 s) := by
  delta pauseReceived
  extract_lets -merge -underBinder +onlyGivenNames x0
  refine keeps_ite ?_ ?_
  · refine Keeps.after ?_ (bbSettle_keeps ..) rfl
    refine Keeps.after ?_ (updBb_keeps ..) rfl
    exact (Keeps.refl s)
  · exact (Keeps.refl s)

theorem execPauseReceived_keeps {a0 a1 a2 s} : KeepsOut [.cnt, .hif, .msgs, .egress, .bbs, .alert] s (execPauseReceived a0 a1 a2 s) := by
  delta execPauseReceived
  refine out_next ?_
  refine Keeps.after ?_ (pauseReceived_keeps ..) rfl
  exact (Keeps.refl s)

theorem execPauseExpiry_keeps {a0 a1 s} : KeepsOut [.cnt, .hif, .msgs, .egress, .bbs, .alert] s (execPauseExpiry a0 a1 s) := by
  delta execPauseExpiry
  refine out_next ?_
  refine Keeps.after ?_ (bbSettle_keeps ..) rfl
  refine Keeps.after ?_ (updBb_keeps ..) rfl
  exact (Keeps.refl s)

theorem pauseRefresh_keeps {a0 a1 s} : Keeps [.bbs] s (pauseRefresh a0 a1 s) := by
  delta pauseRefresh
  extract_lets -merge -underBinder +onlyGivenNames x0
  refine keeps_ite ?_ ?_
  · refine Keeps.after ?_ (setBb_keeps ..) rfl
    exact (Keeps.refl s)
  · exact (Keeps.refl s)

theorem execPauseRefresh_keeps {a0 a1 s} : KeepsOut [.bbs] s (execPauseRefresh a0 a1 s) := by
  delta execPauseRefresh
  refine out_next ?_
  refine Keeps.after ?_ (pauseRefresh_keeps ..) rfl
  exact (Keeps.refl s)

end Sys2Proof.Machine
end

