-- ==== Sys2Proof/Laws/KeepsMemory.lean ====
section
/-! SUPPORT. What each operation and command of Machine/Memory.lean changes, and that it keeps the invariant. -/
namespace Sys2Proof.Machine

set_option Elab.async false

theorem countHole_keeps {a0 s} : Keeps [.cnt, .hif, .alert] s (countHole a0 s) := by
  delta countHole
  refine Keeps.after ?_ (bump_keeps ..) rfl
  exact (Keeps.refl s)

theorem setPoison_keeps {half b s} : Keeps [.poison] s (setPoison half b s) :=
  Keeps.upd_poison (Keeps.refl s) (twf_tset (d := fun _ => false)) rfl

theorem putMem_keeps {a bs s} : Keeps [.hbm] s (putMem a bs s) :=
  Keeps.upd_hbm (Keeps.refl s) (twf_tsetList (d := 0) _ _ _) rfl

theorem logMem_keeps {dpa purpose die scrub s} : Keeps [.regMem] s (logMem dpa purpose die scrub s) := by
  have hb : ∀ d, d < 12 → regBlock (0x3040 + 16 * stackOf dpa + d) = .regMem := fun d hd => by
    have : stackOf dpa < 4 := by unfold stackOf; split <;> omega
    exact regBlock_eq_regMem (by omega) (by omega)
  have hs : ∀ {d v u}, d < 12 → Keeps [.regMem] u (setReg (0x3040 + 16 * stackOf dpa + d) v u) := fun hd => hb _ hd ▸ setReg_keeps
  refine keeps_ite (hs (d := 0) (by omega)) ?_
  · exact ((hs (d := 0) (by omega)).after (hs (d := 4) (by omega)) rfl).after (hs (d := 8) (by omega)) rfl

theorem memUncorr_keeps {a0 a1 a2 a3 a4 s} : Keeps [.regMem, .cnt, .hif, .links, .trc, .alert] s (memUncorr a0 a1 a2 a3 a4 s) := by
  delta memUncorr
  extract_lets -merge -underBinder +onlyGivenNames x0 x1 u2
  have ku2 : Keeps [.regMem, .cnt, .hif, .links, .trc, .alert] s u2 := by
    refine Keeps.after ?_ (logMem_keeps ..) rfl
    refine Keeps.after ?_ (bump_keeps ..) rfl
    exact (Keeps.refl s)
  refine Keeps.after ?_ (raiseOn_keeps ..) rfl
  exact ku2

theorem memCorr_keeps {a0 a1 s} : Keeps [.cnt, .hif, .mem, .links, .trc, .alert] s (memCorr a0 a1 s) := by
  delta memCorr
  extract_lets -merge -underBinder +onlyGivenNames x0 u1 x2 x3 u4 x5
  have ku1 : Keeps [.cnt, .hif, .mem, .links, .trc, .alert] s u1 := by
    refine Keeps.after ?_ (bump_keeps ..) rfl
    exact (Keeps.refl s)
  have kx5 : Keeps [.cnt, .hif, .mem, .links, .trc, .alert] s x5 := by
    refine Keeps.upd_mem ?_ rfl
    exact ku1
  extract_lets -merge -underBinder +onlyGivenNames x6
  refine keeps_ite ?_ ?_
  · refine Keeps.after ?_ (raiseOn_keeps ..) rfl
    refine Keeps.upd_mem ?_ rfl
    exact kx5
  · exact kx5

theorem putLine_keeps {a0 a1 a2 s} : Keeps [.mem] s (putLine a0 a1 a2 s) := by
  delta putLine
  refine Keeps.upd_mem ?_ rfl
  exact (Keeps.refl s)

theorem dropLine_keeps {a0 a1 s} : Keeps [.mem] s (dropLine a0 a1 s) := by
  delta dropLine
  refine Keeps.upd_mem ?_ rfl
  exact (Keeps.refl s)

theorem setDir_keeps {a0 a1 s} : Keeps [.mem] s (setDir a0 a1 s) := by
  delta setDir
  refine Keeps.upd_mem ?_ rfl
  exact (Keeps.refl s)

theorem nextUse_keeps {s} : Keeps [.mem] s (nextUse s).2 := by
  delta nextUse
  refine keeps_snd ?_
  refine Keeps.upd_mem ?_ rfl
  exact (Keeps.refl s)

theorem cohFlit_keeps {a0 a1 a2 a3 s} : Keeps [.links] s (cohFlit a0 a1 a2 a3 s) := by
  delta cohFlit
  refine Keeps.after ?_ (sendFlit_keeps ..) rfl
  exact (Keeps.refl s)

theorem memFlits_keeps {a0 a1 a2 a3 a4 a5 s} : Keeps [.links] s (memFlits a0 a1 a2 a3 a4 a5 s) := by
  delta memFlits
  refine keeps_each ?_ (fun x0 u1 ku1 => ?_)
  · exact (Keeps.refl s)
  · extract_lets -merge -underBinder +onlyGivenNames x2
    refine Keeps.after ?_ (sendFlit_keeps ..) rfl
    exact ku1

theorem noticeFlits_keeps {a0 a1 a2 s} : Keeps [.links] s (noticeFlits a0 a1 a2 s) := by
  delta noticeFlits
  refine Keeps.after ?_ (memFlits_keeps ..) rfl
  refine Keeps.after ?_ (cohFlit_keeps ..) rfl
  exact (Keeps.refl s)

theorem writeBack_keeps {a0 a1 s} : Keeps [.hbm, .poison] s (writeBack a0 a1 s) := by
  delta writeBack
  refine keeps_each ?_ (fun x0 u1 ku1 => ?_)
  · exact (Keeps.refl s)
  · refine keeps_ite ?_ ?_
    · exact ku1
    · refine Keeps.after ?_ (setPoison_keeps ..) rfl
      refine Keeps.after ?_ (putMem_keeps ..) rfl
      exact ku1

theorem recallLine_keeps {a0 s} : Keeps [.hbm, .poison, .mem, .links] s (recallLine a0 s) := by
  delta recallLine
  extract_lets -merge -underBinder +onlyGivenNames x0 u1
  have ku1 : Keeps [.hbm, .poison, .mem, .links] s u1 := by
    refine keeps_each ?_ (fun x2 u3 ku3 => ?_)
    · exact (Keeps.refl s)
    · split
      · extract_lets -merge -underBinder +onlyGivenNames u4 u5
        have ku4 : Keeps [.hbm, .poison, .mem, .links] s u4 := by
          refine keeps_ite ?_ ?_
          · refine Keeps.after ?_ (cohFlit_keeps ..) rfl
            exact ku3
          · exact ku3
        have ku5 : Keeps [.hbm, .poison, .mem, .links] s u5 := by
          refine keeps_ite ?_ ?_
          · refine Keeps.after ?_ (writeBack_keeps ..) rfl
            refine Keeps.after ?_ (noticeFlits_keeps ..) rfl
            exact ku4
          · exact ku4
        refine Keeps.after ?_ (putLine_keeps ..) rfl
        exact ku5
      · exact ku3
  refine keeps_ite ?_ ?_
  · refine Keeps.after ?_ (setDir_keeps ..) rfl
    exact ku1
  · exact ku1

theorem invalidate_keeps {a0 a1 s} : Keeps [.hbm, .poison, .mem, .links] s (invalidate a0 a1 s) := by
  delta invalidate
  extract_lets -merge -underBinder +onlyGivenNames x0 u1 u2
  have ku1 : Keeps [.hbm, .poison, .mem, .links] s u1 := by
    refine keeps_each ?_ (fun x3 u4 ku4 => ?_)
    · exact (Keeps.refl s)
    · extract_lets -merge -underBinder +onlyGivenNames u5
      have ku5 : Keeps [.hbm, .poison, .mem, .links] s u5 := by
        refine Keeps.after ?_ (cohFlit_keeps ..) rfl
        refine Keeps.after ?_ (cohFlit_keeps ..) rfl
        exact ku4
      split
      · refine Keeps.after ?_ (dropLine_keeps ..) rfl
        refine keeps_ite ?_ ?_
        · refine Keeps.after ?_ (writeBack_keeps ..) rfl
          refine Keeps.after ?_ (noticeFlits_keeps ..) rfl
          exact ku5
        · exact ku5
      · exact ku5
  extract_lets -merge -underBinder +onlyGivenNames u6
  have ku6 : Keeps [.hbm, .poison, .mem, .links] s u6 := by
    refine Keeps.upd_mem ?_ rfl
    exact ku1
  split
  · refine Keeps.after ?_ (setDir_keeps ..) rfl
    exact ku6
  · refine Keeps.after ?_ (setDir_keeps ..) rfl
    exact ku6

theorem allocDir_keeps {a0 s} : Keeps [.cnt, .hif, .hbm, .poison, .mem, .links, .alert] s (allocDir a0 s) := by
  delta allocDir
  refine keeps_ite ?_ ?_
  · exact (Keeps.refl s)
  · extract_lets -merge -underBinder +onlyGivenNames x0 x1
    refine keeps_ite ?_ ?_
    · exact (Keeps.refl s)
    · split
      · refine Keeps.after ?_ (bump_keeps ..) rfl
        refine Keeps.after ?_ (invalidate_keeps ..) rfl
        exact (Keeps.refl s)
      · exact (Keeps.refl s)

theorem evictLine_keeps {a0 a1 s} : Keeps [.hbm, .poison, .mem, .links] s (evictLine a0 a1 s) := by
  delta evictLine
  split
  · exact (Keeps.refl s)
  · extract_lets -merge -underBinder +onlyGivenNames u0 x1
    have ku0 : Keeps [.hbm, .poison, .mem, .links] s u0 := by
      refine Keeps.after ?_ (dropLine_keeps ..) rfl
      refine keeps_ite ?_ ?_
      · refine Keeps.after ?_ (writeBack_keeps ..) rfl
        refine Keeps.after ?_ (noticeFlits_keeps ..) rfl
        exact (Keeps.refl s)
      · refine Keeps.after ?_ (cohFlit_keeps ..) rfl
        exact (Keeps.refl s)
    refine Keeps.after ?_ (setDir_keeps ..) rfl
    exact ku0

theorem installLine_keeps {a0 a1 a2 s} : Keeps [.hbm, .poison, .mem, .links] s (installLine a0 a1 a2 s) := by
  delta installLine
  split
  rename_i x0 x1 u2 hq3
  have ku2 : Keeps [.hbm, .poison, .mem, .links] s u2 := by
    have hp : Keeps [.hbm, .poison, .mem, .links] s (Prod.snd (x1, u2)) := by
      rw [← hq3]
      refine Keeps.after ?_ (nextUse_keeps ..) rfl
      exact (Keeps.refl s)
    exact hp
  extract_lets -merge -underBinder +onlyGivenNames x4 u5
  have ku5 : Keeps [.hbm, .poison, .mem, .links] s u5 := by
    refine keeps_ite ?_ ?_
    · exact ku2
    · split
      · refine Keeps.after ?_ (evictLine_keeps ..) rfl
        exact ku2
      · exact ku2
  refine Keeps.after ?_ (putLine_keeps ..) rfl
  exact ku5

theorem serveRead_keeps {a0 a1 s} : Keeps [.cnt, .hif, .hbm, .poison, .mem, .links, .alert] s (serveRead a0 a1 s) := by
  delta serveRead
  extract_lets -merge -underBinder +onlyGivenNames u0 u1
  have ku0 : Keeps [.cnt, .hif, .hbm, .poison, .mem, .links, .alert] s u0 := by
    refine Keeps.after ?_ (recallLine_keeps ..) rfl
    refine Keeps.after ?_ (cohFlit_keeps ..) rfl
    exact (Keeps.refl s)
  have ku1 : Keeps [.cnt, .hif, .hbm, .poison, .mem, .links, .alert] s u1 := by
    refine Keeps.after ?_ (memFlits_keeps ..) rfl
    exact ku0
  split
  rename_i x2 x3 u4 hq5
  have ku4 : Keeps [.cnt, .hif, .hbm, .poison, .mem, .links, .alert] s u4 := by
    have hp : Keeps [.cnt, .hif, .hbm, .poison, .mem, .links, .alert] s (Prod.snd (x3, u4)) := by
      rw [← hq5]
      refine Keeps.after ?_ (nextUse_keeps ..) rfl
      refine Keeps.after ?_ (allocDir_keeps ..) rfl
      exact ku1
    exact hp
  extract_lets -merge -underBinder +onlyGivenNames x6 u7
  have ku7 : Keeps [.cnt, .hif, .hbm, .poison, .mem, .links, .alert] s u7 := by
    refine Keeps.after ?_ (setDir_keeps ..) rfl
    exact ku4
  refine Keeps.upd_mem ?_ rfl
  exact ku7

theorem serveOwn_keeps {a0 a1 s} : Keeps [.cnt, .hif, .hbm, .poison, .mem, .links, .alert] s (serveOwn a0 a1 s) := by
  delta serveOwn
  extract_lets -merge -underBinder +onlyGivenNames u0 u1
  have ku0 : Keeps [.cnt, .hif, .hbm, .poison, .mem, .links, .alert] s u0 := by
    refine Keeps.after ?_ (invalidate_keeps ..) rfl
    refine Keeps.after ?_ (cohFlit_keeps ..) rfl
    exact (Keeps.refl s)
  have ku1 : Keeps [.cnt, .hif, .hbm, .poison, .mem, .links, .alert] s u1 := by
    refine Keeps.after ?_ (memFlits_keeps ..) rfl
    exact ku0
  split
  rename_i x2 x3 u4 hq5
  have ku4 : Keeps [.cnt, .hif, .hbm, .poison, .mem, .links, .alert] s u4 := by
    have hp : Keeps [.cnt, .hif, .hbm, .poison, .mem, .links, .alert] s (Prod.snd (x3, u4)) := by
      rw [← hq5]
      refine Keeps.after ?_ (nextUse_keeps ..) rfl
      refine Keeps.after ?_ (allocDir_keeps ..) rfl
      exact ku1
    exact hp
  extract_lets -merge -underBinder +onlyGivenNames u6
  have ku6 : Keeps [.cnt, .hif, .hbm, .poison, .mem, .links, .alert] s u6 := by
    refine Keeps.after ?_ (setDir_keeps ..) rfl
    exact ku4
  refine Keeps.after ?_ (installLine_keeps ..) rfl
  exact ku6

theorem homeWrite_keeps {a0 a1 a2 s} : Keeps [.hbm, .poison, .mem, .links] s (homeWrite a0 a1 a2 s).1 := by
  delta homeWrite
  extract_lets -merge -underBinder +onlyGivenNames x0 u1
  have ku1 : Keeps [.hbm, .poison, .mem, .links] s u1 := by
    refine keeps_each ?_ (fun x2 u3 ku3 => ?_)
    · refine Keeps.after ?_ (memFlits_keeps ..) rfl
      exact (Keeps.refl s)
    · refine Keeps.after ?_ (invalidate_keeps ..) rfl
      exact ku3
  refine keeps_foldl_p (p := Prod.fst) ?_ (fun u5 x4 ku5 => ?_)
  · refine keeps_fst ?_
    exact ku1
  · extract_lets -merge -underBinder +onlyGivenNames x6 x7 x8
    refine keeps_ite_p (p := Prod.fst) ?_ ?_
    · refine keeps_fst ?_
      refine Keeps.after ?_ (putMem_keeps ..) rfl
      refine Keeps.after ?_ (setPoison_keeps ..) rfl
      exact ku5
    · refine keeps_ite_p (p := Prod.fst) ?_ ?_
      · refine keeps_fst ?_
        exact ku5
      · refine keeps_fst ?_
        refine Keeps.after ?_ (putMem_keeps ..) rfl
        exact ku5

theorem decodeHalf_keeps {a0 a1 a2 a3 a4 a5 a6 s} :
    Keeps [.regMem, .cnt, .hif, .hbm, .poison, .mem, .links, .trc, .alert] s (decodeHalf a0 a1 a2 a3 a4 a5 a6 s).1 := by
  delta decodeHalf
  refine keeps_ite_p (p := Prod.fst) ?_ ?_
  · refine keeps_fst ?_
    refine Keeps.after ?_ (memUncorr_keeps ..) rfl
    exact (Keeps.refl s)
  · refine keeps_ite_p (p := Prod.fst) ?_ ?_
    · refine keeps_fst ?_
      exact (Keeps.refl s)
    · extract_lets -merge -underBinder +onlyGivenNames x0
      split
      · refine keeps_fst ?_
        exact (Keeps.refl s)
      · refine keeps_fst ?_
        refine Keeps.after ?_ (memCorr_keeps ..) rfl
        refine keeps_ite ?_ ?_
        · exact (Keeps.refl s)
        · refine Keeps.after ?_ (putMem_keeps ..) rfl
          exact (Keeps.refl s)
      · refine keeps_fst ?_
        refine Keeps.after ?_ (memUncorr_keeps ..) rfl
        refine keeps_ite ?_ ?_
        · exact (Keeps.refl s)
        · refine Keeps.after ?_ (setPoison_keeps ..) rfl
          exact (Keeps.refl s)

theorem decodeHalves_keeps {purpose die who errs hs s} : Keeps [.regMem, .cnt, .hif, .hbm, .poison, .mem, .links, .trc, .alert] s (decodeHalves purpose die who errs hs s).1 := by
  induction hs generalizing s with
  | nil => exact Keeps.refl s
  | cons h hs ih => exact (decodeHalf_keeps.weaken rfl).after ih rfl

theorem homeRead_keeps {a0 a1 a2 s} : Keeps [.regMem, .cnt, .hif, .hbm, .poison, .mem, .links, .trc, .alert] s (homeRead a0 a1 a2 s).1 := by
  delta homeRead
  extract_lets -merge -underBinder +onlyGivenNames u0
  have ku0 : Keeps [.regMem, .cnt, .hif, .hbm, .poison, .mem, .links, .trc, .alert] s u0 := by
    refine keeps_each ?_ (fun x1 u2 ku2 => ?_)
    · refine Keeps.after ?_ (memFlits_keeps ..) rfl
      exact (Keeps.refl s)
    · refine Keeps.after ?_ (recallLine_keeps ..) rfl
      exact ku2
  split
  rename_i x3 u4 x5 hq6
  have ku4 : Keeps [.regMem, .cnt, .hif, .hbm, .poison, .mem, .links, .trc, .alert] s u4 := by
    have hp : Keeps [.regMem, .cnt, .hif, .hbm, .poison, .mem, .links, .trc, .alert] s (Prod.fst (u4, x5)) := by
      rw [← hq6]
      refine Keeps.after ?_ (decodeHalves_keeps ..) rfl
      exact ku0
    exact hp
  extract_lets -merge -underBinder +onlyGivenNames x7
  refine keeps_fst ?_
  refine Keeps.after ?_ (memFlits_keeps ..) rfl
  exact ku4

theorem markMsg_keeps {a0 a1 s} :
    Keeps [.cnt, .hif, .streams, .msgs, .egress, .slots, .sheaves, .groups, .plots, .waits, .yoke, .alert, .nextBuild, .nextSid] s (markMsg a0 a1 s) := by
  delta markMsg
  refine Keeps.after ?_ (failMsg_keeps ..) rfl
  refine Keeps.after ?_ (updMsg_keeps ..) rfl
  exact (Keeps.refl s)

theorem markPass_keeps {a0 a1 s} :
    Keeps [.cnt, .hif, .streams, .msgs, .egress, .slots, .sheaves, .groups, .plots, .waits, .yoke, .alert, .nextBuild, .nextSid] s (markPass a0 a1 s) := by
  delta markPass
  refine keeps_each ?_ (fun x0 u1 ku1 => ?_)
  · exact (Keeps.refl s)
  · refine Keeps.after ?_ (markMsg_keeps ..) rfl
    exact ku1

theorem poisonBank_keeps {a0 s} :
    Keeps [.cnt, .hif, .streams, .msgs, .egress, .slots, .sheaves, .groups, .plots, .waits, .yoke, .alert, .nextBuild, .nextSid] s (poisonBank a0 s) := by
  delta poisonBank
  split
  · exact (Keeps.refl s)
  · extract_lets -merge -underBinder +onlyGivenNames u0 u1 x2
    have ku0 : Keeps [.cnt, .hif, .streams, .msgs, .egress, .slots, .sheaves, .groups, .plots, .waits, .yoke, .alert, .nextBuild, .nextSid] s u0 := by
      refine Keeps.after ?_ (markPass_keeps ..) rfl
      exact (Keeps.refl s)
    have kx2 : Keeps [.cnt, .hif, .streams, .msgs, .egress, .slots, .sheaves, .groups, .plots, .waits, .yoke, .alert, .nextBuild, .nextSid] s x2 := by
      refine Keeps.after ?_ (setBank_keeps ..) rfl
      exact ku0
    extract_lets -merge -underBinder +onlyGivenNames x3
    refine keeps_each ?_ (fun x4 u5 ku5 => ?_)
    · exact kx2
    · refine Keeps.after ?_ (markMsg_keeps ..) rfl
      exact ku5

theorem poisonRead_keeps {a0 a1 s} :
    Keeps [.cnt, .hif, .streams, .msgs, .egress, .slots, .sheaves, .groups, .plots, .waits, .yoke, .alert, .nextBuild, .nextSid] s (poisonRead a0 a1 s) := by
  delta poisonRead
  split
  · refine Keeps.after ?_ (poisonBank_keeps ..) rfl
    exact (Keeps.refl s)
  · refine Keeps.after ?_ (markMsg_keeps ..) rfl
    exact (Keeps.refl s)
  · refine Keeps.after ?_ (markPass_keeps ..) rfl
    exact (Keeps.refl s)
  · exact (Keeps.refl s)

theorem handleBad_keeps {a0 a1 a2 s} :
    Keeps [.cnt, .hif, .streams, .msgs, .egress, .slots, .sheaves, .groups, .plots, .waits, .yoke, .alert, .nextBuild, .nextSid] s (handleBad a0 a1 a2 s) := by
  delta handleBad
  refine keeps_ite ?_ ?_
  · exact (Keeps.refl s)
  · refine Keeps.after ?_ (poisonRead_keeps ..) rfl
    exact (Keeps.refl s)

theorem deliverLine_keeps {a0 a1 a2 a3 a4 a5 s} : Keeps [.mem] s (deliverLine a0 a1 a2 a3 a4 a5 s) := by
  delta deliverLine
  extract_lets -merge -underBinder +onlyGivenNames x0
  refine Keeps.upd_mem ?_ rfl
  exact (Keeps.refl s)

theorem reportHalves_keeps {a0 a1 a2 a3 s} : Keeps [.regMem, .cnt, .hif, .links, .trc, .alert] s (reportHalves a0 a1 a2 a3 s) := by
  delta reportHalves
  refine keeps_each ?_ (fun x0 u1 ku1 => ?_)
  · exact (Keeps.refl s)
  · refine Keeps.after ?_ (memUncorr_keeps ..) rfl
    exact ku1

theorem cacheHit_keeps {a0 a1 a2 a3 a4 s} :
    Keeps [.regMem, .cnt, .hif, .streams, .msgs, .egress, .slots, .sheaves, .groups, .plots, .waits, .yoke, .mem, .links, .trc, .alert, .nextBuild, .nextSid] s (cacheHit a0 a1 a2 a3 a4 s) := by
  delta cacheHit
  extract_lets -merge -underBinder +onlyGivenNames x0
  split
  rename_i x1 x2 u3 hq4
  have ku3 : Keeps [.regMem, .cnt, .hif, .streams, .msgs, .egress, .slots, .sheaves, .groups, .plots, .waits, .yoke, .mem, .links, .trc, .alert, .nextBuild, .nextSid] s u3 := by
    have hp : Keeps [.regMem, .cnt, .hif, .streams, .msgs, .egress, .slots, .sheaves, .groups, .plots, .waits, .yoke, .mem, .links, .trc, .alert, .nextBuild, .nextSid] s (Prod.snd (x2, u3)) := by
      rw [← hq4]
      refine Keeps.after ?_ (nextUse_keeps ..) rfl
      exact (Keeps.refl s)
    exact hp
  extract_lets -merge -underBinder +onlyGivenNames u5 x6 u7 x8
  have ku5 : Keeps [.regMem, .cnt, .hif, .streams, .msgs, .egress, .slots, .sheaves, .groups, .plots, .waits, .yoke, .mem, .links, .trc, .alert, .nextBuild, .nextSid] s u5 := by
    refine Keeps.after ?_ (bump_keeps ..) rfl
    refine Keeps.after ?_ (putLine_keeps ..) rfl
    exact ku3
  have ku7 : Keeps [.regMem, .cnt, .hif, .streams, .msgs, .egress, .slots, .sheaves, .groups, .plots, .waits, .yoke, .mem, .links, .trc, .alert, .nextBuild, .nextSid] s u7 := by
    refine Keeps.after ?_ (reportHalves_keeps ..) rfl
    exact ku5
  refine Keeps.after ?_ (handleBad_keeps ..) rfl
  refine Keeps.after ?_ (deliverLine_keeps ..) rfl
  exact ku7

theorem hbmRead_keeps {a0 a1 a2 a3 a4 a5 s} :
    Keeps [.regMem, .cnt, .hif, .streams, .msgs, .egress, .slots, .sheaves, .groups, .plots, .waits, .yoke, .hbm, .poison, .mem, .links, .trc, .alert, .nextBuild, .nextSid] s (hbmRead a0 a1 a2 a3 a4 a5 s) := by
  delta hbmRead
  extract_lets -merge -underBinder +onlyGivenNames x0 x1 x2
  refine keeps_ite ?_ ?_
  · refine Keeps.after ?_ (poisonRead_keeps ..) rfl
    refine Keeps.after ?_ (deliverLine_keeps ..) rfl
    refine Keeps.after ?_ (countHole_keeps ..) rfl
    exact (Keeps.refl s)
  · split
    · refine Keeps.after ?_ (cacheHit_keeps ..) rfl
      exact (Keeps.refl s)
    · extract_lets -merge -underBinder +onlyGivenNames u3
      have ku3 : Keeps [.regMem, .cnt, .hif, .streams, .msgs, .egress, .slots, .sheaves, .groups, .plots, .waits, .yoke, .hbm, .poison, .mem, .links, .trc, .alert, .nextBuild, .nextSid] s u3 := by
        refine keeps_ite ?_ ?_
        · refine keeps_ite ?_ ?_
          · exact (Keeps.refl s)
          · refine Keeps.after ?_ (serveRead_keeps ..) rfl
            refine Keeps.after ?_ (pmuDie_keeps ..) rfl
            refine Keeps.after ?_ (bump_keeps ..) rfl
            exact (Keeps.refl s)
        · refine Keeps.after ?_ (recallLine_keeps ..) rfl
          exact (Keeps.refl s)
      split
      rename_i x4 u5 x6 hq7
      have ku5 : Keeps [.regMem, .cnt, .hif, .streams, .msgs, .egress, .slots, .sheaves, .groups, .plots, .waits, .yoke, .hbm, .poison, .mem, .links, .trc, .alert, .nextBuild, .nextSid] s u5 := by
        have hp : Keeps [.regMem, .cnt, .hif, .streams, .msgs, .egress, .slots, .sheaves, .groups, .plots, .waits, .yoke, .hbm, .poison, .mem, .links, .trc, .alert, .nextBuild, .nextSid] s (Prod.fst (u5, x6)) := by
          rw [← hq7]
          refine Keeps.after ?_ (decodeHalves_keeps ..) rfl
          exact ku3
        exact hp
      extract_lets -merge -underBinder +onlyGivenNames u8
      have ku8 : Keeps [.regMem, .cnt, .hif, .streams, .msgs, .egress, .slots, .sheaves, .groups, .plots, .waits, .yoke, .hbm, .poison, .mem, .links, .trc, .alert, .nextBuild, .nextSid] s u8 := by
        refine keeps_ite ?_ ?_
        · split
          · extract_lets -merge -underBinder +onlyGivenNames u9
            extract_lets -merge -underBinder +onlyGivenNames u10
            have ku10 : Keeps [.regMem, .cnt, .hif, .streams, .msgs, .egress, .slots, .sheaves, .groups, .plots, .waits, .yoke, .hbm, .poison, .mem, .links, .trc, .alert, .nextBuild, .nextSid] s u10 := by
              refine Keeps.upd_mem ?_ rfl
              exact ku5
            refine keeps_ite ?_ ?_
            · exact ku10
            · refine Keeps.after ?_ (installLine_keeps ..) rfl
              exact ku10
          · exact ku5
        · exact ku5
      refine Keeps.after ?_ (handleBad_keeps ..) rfl
      refine Keeps.after ?_ (deliverLine_keeps ..) rfl
      exact ku8

theorem execHbmRead_keeps {a0 a1 a2 a3 a4 a5 s} :
    KeepsOut [.regMem, .cnt, .hif, .streams, .msgs, .egress, .slots, .sheaves, .groups, .plots, .waits, .yoke, .hbm, .poison, .mem, .links, .trc, .alert, .nextBuild, .nextSid] s (execHbmRead a0 a1 a2 a3 a4 a5 s) := by
  delta execHbmRead
  refine out_next ?_
  refine keeps_ite ?_ ?_
  · refine Keeps.after ?_ (hbmRead_keeps ..) rfl
    exact (Keeps.refl s)
  · exact (Keeps.refl s)

theorem ownLine_keeps {a0 a1 a2 a3 s} :
    Keeps [.regMem, .cnt, .hif, .streams, .msgs, .egress, .slots, .sheaves, .groups, .plots, .waits, .yoke, .hbm, .poison, .mem, .links, .trc, .alert, .nextBuild, .nextSid] s (ownLine a0 a1 a2 a3 s) := by
  delta ownLine
  extract_lets -merge -underBinder +onlyGivenNames u0 x1
  have ku0 : Keeps [.regMem, .cnt, .hif, .streams, .msgs, .egress, .slots, .sheaves, .groups, .plots, .waits, .yoke, .hbm, .poison, .mem, .links, .trc, .alert, .nextBuild, .nextSid] s u0 := by
    refine Keeps.after ?_ (serveOwn_keeps ..) rfl
    exact (Keeps.refl s)
  refine Keeps.after ?_ (handleBad_keeps ..) rfl
  refine Keeps.after ?_ (reportHalves_keeps ..) rfl
  exact ku0

theorem hbmWrite_keeps {a0 a1 a2 a3 a4 s} :
    Keeps [.regMem, .cnt, .hif, .streams, .msgs, .egress, .slots, .sheaves, .groups, .plots, .waits, .yoke, .hbm, .poison, .mem, .links, .trc, .alert, .nextBuild, .nextSid] s (hbmWrite a0 a1 a2 a3 a4 s) := by
  delta hbmWrite
  extract_lets -merge -underBinder +onlyGivenNames x0 x1
  refine keeps_ite ?_ ?_
  · refine Keeps.after ?_ (poisonRead_keeps ..) rfl
    refine Keeps.after ?_ (countHole_keeps ..) rfl
    exact (Keeps.refl s)
  · refine keeps_ite ?_ ?_
    · extract_lets -merge -underBinder +onlyGivenNames x2 u3
      have ku3 : Keeps [.regMem, .cnt, .hif, .streams, .msgs, .egress, .slots, .sheaves, .groups, .plots, .waits, .yoke, .hbm, .poison, .mem, .links, .trc, .alert, .nextBuild, .nextSid] s u3 := by
        refine keeps_ite ?_ ?_
        · refine Keeps.after ?_ (ownLine_keeps ..) rfl
          exact (Keeps.refl s)
        · exact (Keeps.refl s)
      split
      · split
        rename_i x4 x5 u6 hq7
        have ku6 : Keeps [.regMem, .cnt, .hif, .streams, .msgs, .egress, .slots, .sheaves, .groups, .plots, .waits, .yoke, .hbm, .poison, .mem, .links, .trc, .alert, .nextBuild, .nextSid] s u6 := by
          have hp : Keeps [.regMem, .cnt, .hif, .streams, .msgs, .egress, .slots, .sheaves, .groups, .plots, .waits, .yoke, .hbm, .poison, .mem, .links, .trc, .alert, .nextBuild, .nextSid] s (Prod.snd (x5, u6)) := by
            rw [← hq7]
            refine Keeps.after ?_ (nextUse_keeps ..) rfl
            exact ku3
          exact hp
        extract_lets -merge -underBinder +onlyGivenNames x8
        refine Keeps.after ?_ (putLine_keeps ..) rfl
        exact ku6
      · exact ku3
    · refine Keeps.after ?_ (homeWrite_keeps ..) rfl
      exact (Keeps.refl s)

theorem execHbmWrite_keeps {a0 a1 a2 a3 a4 s} :
    KeepsOut [.regMem, .cnt, .hif, .streams, .msgs, .egress, .slots, .sheaves, .groups, .plots, .waits, .yoke, .hbm, .poison, .mem, .links, .trc, .alert, .nextBuild, .nextSid] s (execHbmWrite a0 a1 a2 a3 a4 s) := by
  delta execHbmWrite
  refine out_next ?_
  refine keeps_ite ?_ ?_
  · refine Keeps.after ?_ (hbmWrite_keeps ..) rfl
    exact (Keeps.refl s)
  · exact (Keeps.refl s)

theorem refresh_keeps {a0 a1 s} : Keeps [.cnt, .hif, .alert] s (refresh a0 a1 s) := by
  delta refresh
  refine Keeps.after ?_ (bump_keeps ..) rfl
  exact (Keeps.refl s)

theorem execRefresh_keeps {a0 a1 a2 s} : KeepsOut [.cnt, .hif, .alert] s (execRefresh a0 a1 a2 s) := by
  delta execRefresh
  refine out_next ?_
  refine keeps_ite ?_ ?_
  · refine Keeps.after ?_ (refresh_keeps ..) rfl
    exact (Keeps.refl s)
  · exact (Keeps.refl s)

theorem scrubRead_keeps {a0 a1 a2 s} : Keeps [.regMem, .cnt, .hif, .hbm, .poison, .mem, .links, .trc, .alert] s (scrubRead a0 a1 a2 s) := by
  delta scrubRead
  refine keeps_ite ?_ ?_
  · exact (Keeps.refl s)
  · extract_lets -merge -underBinder +onlyGivenNames x0 x1 u2
    have ku2 : Keeps [.regMem, .cnt, .hif, .hbm, .poison, .mem, .links, .trc, .alert] s u2 := by
      refine Keeps.after ?_ (recallLine_keeps ..) rfl
      exact (Keeps.refl s)
    split
    rename_i x3 u4 x5 hq6
    have ku4 : Keeps [.regMem, .cnt, .hif, .hbm, .poison, .mem, .links, .trc, .alert] s u4 := by
      have hp : Keeps [.regMem, .cnt, .hif, .hbm, .poison, .mem, .links, .trc, .alert] s (Prod.fst (u4, x5)) := by
        rw [← hq6]
        refine Keeps.after ?_ (decodeHalf_keeps ..) rfl
        exact ku2
      exact hp
    extract_lets -merge -underBinder +onlyGivenNames x7 u8
    extract_lets -merge -underBinder +onlyGivenNames u9
    have ku9 : Keeps [.regMem, .cnt, .hif, .hbm, .poison, .mem, .links, .trc, .alert] s u9 := by
      refine Keeps.upd_mem ?_ rfl
      exact ku4
    refine keeps_ite ?_ ?_
    · refine Keeps.after ?_ (bump_keeps ..) rfl
      exact ku9
    · exact ku9

theorem execScrubRead_keeps {a0 a1 a2 s} :
    KeepsOut [.regMem, .cnt, .hif, .hbm, .poison, .mem, .links, .trc, .alert] s (execScrubRead a0 a1 a2 s) := by
  delta execScrubRead
  refine out_next ?_
  refine keeps_ite ?_ ?_
  · refine Keeps.after ?_ (scrubRead_keeps ..) rfl
    exact (Keeps.refl s)
  · exact (Keeps.refl s)

theorem coherence_keeps {a0 a1 a2 a3 a4 s} :
    Keeps [.regMem, .cnt, .hif, .streams, .msgs, .egress, .slots, .sheaves, .groups, .plots, .waits, .yoke, .hbm, .poison, .mem, .links, .trc, .alert, .nextBuild, .nextSid] s (coherence a0 a1 a2 a3 a4 s) := by
  delta coherence
  extract_lets -merge -underBinder +onlyGivenNames x0
  refine keeps_ite ?_ ?_
  · refine keeps_ite ?_ ?_
    · refine Keeps.after ?_ (poisonRead_keeps ..) rfl
      refine Keeps.after ?_ (countHole_keeps ..) rfl
      exact (Keeps.refl s)
    · refine Keeps.after ?_ (countHole_keeps ..) rfl
      exact (Keeps.refl s)
  · split
    · refine keeps_ite ?_ ?_
      · exact (Keeps.refl s)
      · refine Keeps.after ?_ (serveRead_keeps ..) rfl
        exact (Keeps.refl s)
    · refine keeps_ite ?_ ?_
      · exact (Keeps.refl s)
      · refine Keeps.after ?_ (ownLine_keeps ..) rfl
        exact (Keeps.refl s)
    · refine Keeps.after ?_ (homeWrite_keeps ..) rfl
      exact (Keeps.refl s)
    · refine Keeps.after ?_ (evictLine_keeps ..) rfl
      exact (Keeps.refl s)
    · refine Keeps.after ?_ (recallLine_keeps ..) rfl
      exact (Keeps.refl s)

theorem execCoherenceRequest_keeps {a0 a1 a2 a3 a4 s} :
    KeepsOut [.regMem, .cnt, .hif, .streams, .msgs, .egress, .slots, .sheaves, .groups, .plots, .waits, .yoke, .hbm, .poison, .mem, .links, .trc, .alert, .nextBuild, .nextSid] s (execCoherenceRequest a0 a1 a2 a3 a4 s) := by
  delta execCoherenceRequest
  refine out_next ?_
  refine keeps_ite ?_ ?_
  · refine Keeps.after ?_ (coherence_keeps ..) rfl
    exact (Keeps.refl s)
  · exact (Keeps.refl s)

theorem invalidationReceived_keeps {a0 a1 s} : Keeps [.hbm, .poison, .mem, .links] s (invalidationReceived a0 a1 s) := by
  delta invalidationReceived
  extract_lets -merge -underBinder +onlyGivenNames u0 u1 x2
  have ku0 : Keeps [.hbm, .poison, .mem, .links] s u0 := by
    refine Keeps.after ?_ (evictLine_keeps ..) rfl
    exact (Keeps.refl s)
  have kx2 : Keeps [.hbm, .poison, .mem, .links] s x2 := by
    refine Keeps.upd_mem ?_ rfl
    exact ku0
  extract_lets -merge -underBinder +onlyGivenNames x3
  refine Keeps.after ?_ (setDir_keeps ..) rfl
  exact kx2

theorem execInvalidationReceived_keeps {a0 a1 s} : KeepsOut [.hbm, .poison, .mem, .links] s (execInvalidationReceived a0 a1 s) := by
  delta execInvalidationReceived
  refine out_next ?_
  refine Keeps.after ?_ (invalidationReceived_keeps ..) rfl
  exact (Keeps.refl s)

theorem clearDrain_keeps {a0 s} : Keeps [.fab] s (clearDrain a0 s) := by
  delta clearDrain
  split
  · refine keeps_ite ?_ ?_
    · refine Keeps.upd_fab ?_ rfl
      exact (Keeps.refl s)
    · exact (Keeps.refl s)
  · exact (Keeps.refl s)

theorem kvRowAck_keeps {a0 a1 a2 a3 a4 a5 s} :
    Keeps [.cnt, .hif, .streams, .msgs, .egress, .slots, .sheaves, .groups, .plots, .fab, .waits, .yoke, .hbm, .poison, .mem, .links, .alert, .nextBuild, .nextSid] s (kvRowAck a0 a1 a2 a3 a4 a5 s) := by
  delta kvRowAck
  split
  · exact (Keeps.refl s)
  · extract_lets -merge -underBinder +onlyGivenNames x0 x1 x2
    refine keeps_ite ?_ ?_
    · exact (Keeps.refl s)
    · split
      · exact (Keeps.refl s)
      · extract_lets -merge -underBinder +onlyGivenNames x3 u4
        extract_lets -merge -underBinder +onlyGivenNames u5
        have ku5 : Keeps [.cnt, .hif, .streams, .msgs, .egress, .slots, .sheaves, .groups, .plots, .fab, .waits, .yoke, .hbm, .poison, .mem, .links, .alert, .nextBuild, .nextSid] s u5 := by
          refine Keeps.upd_fab ?_ rfl
          exact (Keeps.refl s)
        refine keeps_ite ?_ ?_
        · refine Keeps.after ?_ (poisonRead_keeps ..) rfl
          refine Keeps.after ?_ (countHole_keeps ..) rfl
          exact ku5
        · extract_lets -merge -underBinder +onlyGivenNames u6
          have ku6 : Keeps [.cnt, .hif, .streams, .msgs, .egress, .slots, .sheaves, .groups, .plots, .fab, .waits, .yoke, .hbm, .poison, .mem, .links, .alert, .nextBuild, .nextSid] s u6 := by
            refine Keeps.after ?_ (homeWrite_keeps ..) rfl
            exact ku5
          refine Keeps.after ?_ (clearDrain_keeps ..) rfl
          refine Keeps.after ?_ (updMsg_keeps ..) rfl
          exact ku6

theorem execKvRowAck_keeps {a0 a1 a2 a3 a4 a5 s} :
    KeepsOut [.cnt, .hif, .streams, .msgs, .egress, .slots, .sheaves, .groups, .plots, .fab, .waits, .yoke, .hbm, .poison, .mem, .links, .alert, .nextBuild, .nextSid] s (execKvRowAck a0 a1 a2 a3 a4 a5 s) := by
  delta execKvRowAck
  refine out_next ?_
  refine Keeps.after ?_ (kvRowAck_keeps ..) rfl
  exact (Keeps.refl s)

theorem residentFill_keeps {a0 a1 s} :
    Keeps [.regMem, .cnt, .hif, .streams, .msgs, .egress, .slots, .sheaves, .groups, .plots, .waits, .yoke, .hbm, .poison, .mem, .links, .trc, .alert, .nextBuild, .nextSid] s (residentFill a0 a1 s) := by
  delta residentFill
  split
  · exact (Keeps.refl s)
  · refine keeps_ite ?_ ?_
    · exact (Keeps.refl s)
    · extract_lets -merge -underBinder +onlyGivenNames x0 x1
      split
      rename_i x2 u3 x4 hq5
      have ku3 : Keeps [.regMem, .cnt, .hif, .streams, .msgs, .egress, .slots, .sheaves, .groups, .plots, .waits, .yoke, .hbm, .poison, .mem, .links, .trc, .alert, .nextBuild, .nextSid] s u3 := by
        have hp : Keeps [.regMem, .cnt, .hif, .streams, .msgs, .egress, .slots, .sheaves, .groups, .plots, .waits, .yoke, .hbm, .poison, .mem, .links, .trc, .alert, .nextBuild, .nextSid] s (Prod.fst (u3, x4)) := by
          rw [← hq5]
          refine Keeps.after ?_ (decodeHalves_keeps ..) rfl
          exact (Keeps.refl s)
        exact hp
      extract_lets -merge -underBinder +onlyGivenNames x6 u7 u8
      have ku7 : Keeps [.regMem, .cnt, .hif, .streams, .msgs, .egress, .slots, .sheaves, .groups, .plots, .waits, .yoke, .hbm, .poison, .mem, .links, .trc, .alert, .nextBuild, .nextSid] s u7 := by
        refine Keeps.after ?_ (updPlot_keeps ..) rfl
        exact ku3
      have ku8 : Keeps [.regMem, .cnt, .hif, .streams, .msgs, .egress, .slots, .sheaves, .groups, .plots, .waits, .yoke, .hbm, .poison, .mem, .links, .trc, .alert, .nextBuild, .nextSid] s u8 := by
        refine Keeps.after ?_ (updGroup_keeps ..) rfl
        exact ku7
      refine keeps_ite ?_ ?_
      · exact ku8
      · refine Keeps.after ?_ (poisonBank_keeps ..) rfl
        exact ku8

theorem bar2Read_keeps {a0 a1 a2 s} :
    Keeps [.regMem, .cnt, .hif, .hbm, .poison, .mem, .answer, .links, .trc, .alert] s (bar2Read a0 a1 a2 s) := by
  delta bar2Read
  extract_lets -merge -underBinder +onlyGivenNames x0 x1
  refine keeps_ite ?_ ?_
  · refine Keeps.upd_answer ?_ rfl
    exact (Keeps.refl s)
  · split
    · extract_lets -merge -underBinder +onlyGivenNames u2
      have ku2 : Keeps [.regMem, .cnt, .hif, .hbm, .poison, .mem, .answer, .links, .trc, .alert] s u2 := by
        refine Keeps.after ?_ (countHole_keeps ..) rfl
        exact (Keeps.refl s)
      refine Keeps.upd_answer ?_ rfl
      exact ku2
    · split
      rename_i x3 u4 x5 x6 hq7
      have ku4 : Keeps [.regMem, .cnt, .hif, .hbm, .poison, .mem, .answer, .links, .trc, .alert] s u4 := by
        have hp : Keeps [.regMem, .cnt, .hif, .hbm, .poison, .mem, .answer, .links, .trc, .alert] s (Prod.fst (u4, (x5, x6))) := by
          rw [← hq7]
          refine Keeps.after ?_ (homeRead_keeps ..) rfl
          exact (Keeps.refl s)
        exact hp
      refine Keeps.upd_answer ?_ rfl
      exact ku4

theorem execBar2Read_keeps {a0 a1 a2 s} :
    KeepsOut [.regMem, .cnt, .hif, .hbm, .poison, .mem, .answer, .links, .trc, .alert] s (execBar2Read a0 a1 a2 s) := by
  delta execBar2Read
  refine out_next ?_
  refine keeps_ite ?_ ?_
  · refine Keeps.after ?_ (bar2Read_keeps ..) rfl
    exact (Keeps.refl s)
  · exact (Keeps.refl s)

theorem bar2Write_keeps {a0 a1 s} : Keeps [.cnt, .hif, .hbm, .poison, .mem, .links, .alert] s (bar2Write a0 a1 s) := by
  delta bar2Write
  refine keeps_ite ?_ ?_
  · exact (Keeps.refl s)
  · split
    · refine Keeps.after ?_ (countHole_keeps ..) rfl
      exact (Keeps.refl s)
    · refine Keeps.after ?_ (homeWrite_keeps ..) rfl
      exact (Keeps.refl s)

theorem execBar2Write_keeps {a0 a1 s} : KeepsOut [.cnt, .hif, .hbm, .poison, .mem, .links, .alert] s (execBar2Write a0 a1 s) := by
  delta execBar2Write
  refine out_next ?_
  refine keeps_ite ?_ ?_
  · refine Keeps.after ?_ (bar2Write_keeps ..) rfl
    exact (Keeps.refl s)
  · exact (Keeps.refl s)

end Sys2Proof.Machine
end

