-- ==== Sys2Proof/Laws/KeepsFabric.lean ====
section
/-! SUPPORT. What each operation and command of Machine/Fabric.lean changes, and that it keeps the invariant. -/
namespace Sys2Proof.Machine

set_option Elab.async false

theorem setTile_keeps {a0 a1 s} : Keeps [.tiles] s (setTile a0 a1 s) := by
  delta setTile
  refine Keeps.upd_tiles ?_ rfl
  exact (Keeps.refl s)

theorem updTile_keeps {a0 a1 s} : Keeps [.tiles] s (updTile a0 a1 s) := by
  delta updTile
  refine Keeps.after ?_ (setTile_keeps ..) rfl
  exact (Keeps.refl s)

theorem setSwitch_keeps {a0 a1 s} : Keeps [.switches] s (setSwitch a0 a1 s) := by
  delta setSwitch
  refine Keeps.upd_switches ?_ rfl
  exact (Keeps.refl s)

theorem setSu_keeps {a0 a1 s} : Keeps [.sus] s (setSu a0 a1 s) := by
  delta setSu
  refine Keeps.upd_sus ?_ rfl
  exact (Keeps.refl s)

theorem cancelRotation_keeps {a0 s} : Keeps [.groups, .plots] s (cancelRotation a0 s) := by
  delta cancelRotation
  split
  · exact (Keeps.refl s)
  · split
    · exact (Keeps.refl s)
    · extract_lets -merge -underBinder +onlyGivenNames x0 u1
      have ku1 : Keeps [.groups, .plots] s u1 := by
        refine keeps_each ?_ (fun x2 u3 ku3 => ?_)
        · exact (Keeps.refl s)
        · refine Keeps.after ?_ (freePlot_keeps ..) rfl
          exact ku3
      refine Keeps.after ?_ (updGroup_keeps ..) rfl
      exact ku1

theorem addOrphan_keeps {a0 a1 a2 s} : Keeps [.groups, .plots] s (addOrphan a0 a1 a2 s) := by
  delta addOrphan
  split
  · exact (Keeps.refl s)
  · refine Keeps.after ?_ (cancelRotation_keeps ..) rfl
    refine Keeps.after ?_ (updGroup_keeps ..) rfl
    exact (Keeps.refl s)

theorem orphan_keeps {a0 a1 a2 s} :
    Keeps [.cnt, .hif, .streams, .msgs, .egress, .slots, .sheaves, .groups, .plots, .waits, .yoke, .alert, .nextBuild, .nextSid] s (orphan a0 a1 a2 s) := by
  delta orphan
  refine Keeps.after ?_ (taintOwners_keeps ..) rfl
  refine Keeps.after ?_ (addOrphan_keeps ..) rfl
  refine Keeps.after ?_ (bump_keeps ..) rfl
  exact (Keeps.refl s)

theorem rewritten_keeps {a0 a1 s} : Keeps [.hrw] s (rewritten a0 a1 s) := by
  delta rewritten
  extract_lets -merge -underBinder +onlyGivenNames x0
  refine Keeps.after ?_ (setHrw_keeps ..) rfl
  exact (Keeps.refl s)

theorem discardStale_keeps {a0 s} : Keeps [.cnt, .hif, .alert] s (discardStale a0 s) := by
  delta discardStale
  refine Keeps.after ?_ (bump_keeps ..) rfl
  exact (Keeps.refl s)

theorem markSeen_keeps {a0 a1 s} : Keeps [.fab] s (markSeen a0 a1 s) := by
  delta markSeen
  refine Keeps.upd_fab ?_ rfl
  exact (Keeps.refl s)

theorem meetHeadland_keeps {a0 a1 a2 a3 a4 s} : Keeps [.cnt, .hif, .fab, .alert] s (meetHeadland a0 a1 a2 a3 a4 s) := by
  delta meetHeadland
  refine keeps_ite ?_ ?_
  · exact (Keeps.refl s)
  · refine keeps_ite ?_ ?_
    · refine keeps_ite ?_ ?_
      · refine Keeps.after ?_ (markSeen_keeps ..) rfl
        exact (Keeps.refl s)
      · exact (Keeps.refl s)
    · refine Keeps.after ?_ (discardStale_keeps ..) rfl
      exact (Keeps.refl s)

theorem setFifo_keeps {a0 a1 s} : Keeps [.fab] s (setFifo a0 a1 s) := by
  delta setFifo
  refine Keeps.upd_fab ?_ rfl
  exact (Keeps.refl s)

theorem pushFifo_keeps {a0 a1 s} : Keeps [.fab] s (pushFifo a0 a1 s) := by
  delta pushFifo
  refine Keeps.after ?_ (setFifo_keeps ..) rfl
  exact (Keeps.refl s)

theorem setFeed_keeps {a0 a1 s} : Keeps [.fab] s (setFeed a0 a1 s) := by
  delta setFeed
  refine Keeps.upd_fab ?_ rfl
  exact (Keeps.refl s)

theorem suTake_keeps {a0 a1 a2 s} : Keeps [.cnt, .hif, .sus, .fab, .alert] s (suTake a0 a1 a2 s) := by
  delta suTake
  extract_lets -merge -underBinder +onlyGivenNames x0
  refine keeps_ite ?_ ?_
  · refine Keeps.after ?_ (meetHeadland_keeps ..) rfl
    exact (Keeps.refl s)
  · split
    · refine Keeps.after ?_ (discardStale_keeps ..) rfl
      exact (Keeps.refl s)
    · refine Keeps.after ?_ (setSu_keeps ..) rfl
      exact (Keeps.refl s)

theorem hopPut_keeps {a0 a1 a2 a3 s} :
    Keeps [.cnt, .hif, .streams, .msgs, .egress, .slots, .sheaves, .groups, .plots, .sus, .fab, .waits, .yoke, .links, .alert, .nextBuild, .nextSid] s (hopPut a0 a1 a2 a3 s) := by
  delta hopPut
  split
  · refine Keeps.after ?_ (pushFifo_keeps ..) rfl
    exact (Keeps.refl s)
  · refine Keeps.after ?_ (offerFlit_keeps ..) rfl
    exact (Keeps.refl s)
  · refine Keeps.after ?_ (suTake_keeps ..) rfl
    exact (Keeps.refl s)
  · refine keeps_ite ?_ ?_
    · exact (Keeps.refl s)
    · refine Keeps.after ?_ (orphan_keeps ..) rfl
      exact (Keeps.refl s)

theorem giveCopies_keeps {t net tok os took s} : Keeps [.cnt, .hif, .streams, .msgs, .egress, .slots, .sheaves, .groups, .plots, .sus, .fab, .waits, .yoke, .links, .alert, .nextBuild, .nextSid] s (giveCopies t net tok os took s).2 := by
  induction os generalizing took s with
  | nil => exact Keeps.refl s
  | cons o os ih =>
    simp only [giveCopies]
    exact keeps_ite_p (p := Prod.snd) ih (keeps_ite_p (p := Prod.snd) ((hopPut_keeps.weaken rfl).after ih rfl) ih)

theorem settleHead_keeps {a0 a1 a2 a3 a4 s} : Keeps [.fab] s (settleHead a0 a1 a2 a3 a4 s) := by
  delta settleHead
  refine keeps_ite ?_ ?_
  · refine Keeps.after ?_ (setFifo_keeps ..) rfl
    exact (Keeps.refl s)
  · refine Keeps.after ?_ (setFifo_keeps ..) rfl
    exact (Keeps.refl s)

theorem stepFifo_keeps {a0 s} :
    Keeps [.cnt, .hif, .streams, .msgs, .egress, .slots, .sheaves, .groups, .plots, .sus, .fab, .waits, .yoke, .links, .alert, .nextBuild, .nextSid] s (stepFifo a0 s) := by
  delta stepFifo
  extract_lets -merge -underBinder +onlyGivenNames x0 x1 x2 x3 x4 x5
  split
  · exact (Keeps.refl s)
  · extract_lets -merge -underBinder +onlyGivenNames x6
    refine keeps_ite ?_ ?_
    · extract_lets -merge -underBinder +onlyGivenNames x7
      refine keeps_ite ?_ ?_
      · exact (Keeps.refl s)
      · extract_lets -merge -underBinder +onlyGivenNames u8
        have ku8 : Keeps [.cnt, .hif, .streams, .msgs, .egress, .slots, .sheaves, .groups, .plots, .sus, .fab, .waits, .yoke, .links, .alert, .nextBuild, .nextSid] s u8 := by
          refine keeps_ite ?_ ?_
          · refine Keeps.after ?_ (meetHeadland_keeps ..) rfl
            exact (Keeps.refl s)
          · exact (Keeps.refl s)
        refine Keeps.after ?_ (setFifo_keeps ..) rfl
        refine Keeps.after ?_ (meetHeadland_keeps ..) rfl
        exact ku8
    · split
      · exact (Keeps.refl s)
      · refine keeps_ite ?_ ?_
        · refine Keeps.after ?_ (orphan_keeps ..) rfl
          refine Keeps.after ?_ (setFifo_keeps ..) rfl
          exact (Keeps.refl s)
        · refine Keeps.after ?_ (discardStale_keeps ..) rfl
          refine Keeps.after ?_ (setFifo_keeps ..) rfl
          exact (Keeps.refl s)
      · refine keeps_ite ?_ ?_
        · refine keeps_ite ?_ ?_
          · refine Keeps.after ?_ (orphan_keeps ..) rfl
            refine Keeps.after ?_ (setFifo_keeps ..) rfl
            exact (Keeps.refl s)
          · refine keeps_ite ?_ ?_
            · refine Keeps.after ?_ (hopPut_keeps ..) rfl
              refine Keeps.after ?_ (setFifo_keeps ..) rfl
              exact (Keeps.refl s)
            · exact (Keeps.refl s)
        · extract_lets -merge -underBinder +onlyGivenNames x9
          split
          rename_i x10 x11 u12 hq13
          have ku12 : Keeps [.cnt, .hif, .streams, .msgs, .egress, .slots, .sheaves, .groups, .plots, .sus, .fab, .waits, .yoke, .links, .alert, .nextBuild, .nextSid] s u12 := by
            have hp : Keeps [.cnt, .hif, .streams, .msgs, .egress, .slots, .sheaves, .groups, .plots, .sus, .fab, .waits, .yoke, .links, .alert, .nextBuild, .nextSid] s (Prod.snd (x11, u12)) := by
              rw [← hq13]
              refine Keeps.after ?_ (giveCopies_keeps ..) rfl
              exact (Keeps.refl s)
            exact hp
          refine Keeps.after ?_ (settleHead_keeps ..) rfl
          exact ku12

theorem stepFeed_keeps {a0 s} : Keeps [.cnt, .hif, .fab, .alert] s (stepFeed a0 s) := by
  delta stepFeed
  split
  · exact (Keeps.refl s)
  · refine keeps_ite ?_ ?_
    · refine Keeps.after ?_ (setFeed_keeps ..) rfl
      refine Keeps.after ?_ (meetHeadland_keeps ..) rfl
      exact (Keeps.refl s)
    · exact (Keeps.refl s)

theorem stepOut_keeps {a0 s} : Keeps [.sus, .fab] s (stepOut a0 s) := by
  delta stepOut
  extract_lets -merge -underBinder +onlyGivenNames x0
  split
  · exact (Keeps.refl s)
  · extract_lets -merge -underBinder +onlyGivenNames x1
    refine keeps_ite ?_ ?_
    · refine Keeps.after ?_ (setSu_keeps ..) rfl
      refine Keeps.after ?_ (pushFifo_keeps ..) rfl
      exact (Keeps.refl s)
    · exact (Keeps.refl s)

theorem flowOnce_keeps {s} :
    Keeps [.cnt, .hif, .streams, .msgs, .egress, .slots, .sheaves, .groups, .plots, .sus, .fab, .waits, .yoke, .links, .alert, .nextBuild, .nextSid] s (flowOnce s) := by
  delta flowOnce
  extract_lets -merge -underBinder +onlyGivenNames u0 u1
  have ku0 : Keeps [.cnt, .hif, .streams, .msgs, .egress, .slots, .sheaves, .groups, .plots, .sus, .fab, .waits, .yoke, .links, .alert, .nextBuild, .nextSid] s u0 := by
    refine keeps_each ?_ (fun x2 u3 ku3 => ?_)
    · exact (Keeps.refl s)
    · refine Keeps.after ?_ (stepFifo_keeps ..) rfl
      exact ku3
  have ku1 : Keeps [.cnt, .hif, .streams, .msgs, .egress, .slots, .sheaves, .groups, .plots, .sus, .fab, .waits, .yoke, .links, .alert, .nextBuild, .nextSid] s u1 := by
    refine keeps_each ?_ (fun x4 u5 ku5 => ?_)
    · exact ku0
    · refine Keeps.after ?_ (stepFeed_keeps ..) rfl
      exact ku5
  refine keeps_each ?_ (fun x6 u7 ku7 => ?_)
  · exact ku1
  · refine Keeps.after ?_ (stepOut_keeps ..) rfl
    exact ku7

theorem flow_keeps {n s} : Keeps [.cnt, .hif, .streams, .msgs, .egress, .slots, .sheaves, .groups, .plots, .sus, .fab, .waits, .yoke, .links, .alert, .nextBuild, .nextSid] s (flow n s) := by
  induction n generalizing s with
  | zero => exact Keeps.refl s
  | succ n ih => exact keeps_ite (flowOnce_keeps.weaken rfl) ((flowOnce_keeps.weaken rfl).after ih rfl)

theorem flowAll_keeps {s} :
    Keeps [.cnt, .hif, .streams, .msgs, .egress, .slots, .sheaves, .groups, .plots, .sus, .fab, .waits, .yoke, .links, .alert, .nextBuild, .nextSid] s (flowAll s) := by
  delta flowAll
  refine Keeps.after ?_ (flow_keeps ..) rfl
  exact (Keeps.refl s)

theorem suFire_keeps {a0 s} :
    Keeps [.cnt, .hif, .streams, .msgs, .egress, .slots, .sheaves, .groups, .plots, .sus, .fab, .waits, .yoke, .links, .alert, .nextBuild, .nextSid] s (suFire a0 s) := by
  delta suFire
  extract_lets -merge -underBinder +onlyGivenNames x0 x1
  refine keeps_ite ?_ ?_
  · exact (Keeps.refl s)
  · extract_lets -merge -underBinder +onlyGivenNames x2
    split
    · split
      · refine Keeps.after ?_ (flowAll_keeps ..) rfl
        refine Keeps.after ?_ (setSu_keeps ..) rfl
        exact (Keeps.refl s)
      · exact (Keeps.refl s)
    · split
      · refine keeps_ite ?_ ?_
        · split
          · refine Keeps.after ?_ (flowAll_keeps ..) rfl
            refine Keeps.after ?_ (setSu_keeps ..) rfl
            exact (Keeps.refl s)
          · exact (Keeps.refl s)
        · split
          · refine Keeps.after ?_ (flowAll_keeps ..) rfl
            refine Keeps.after ?_ (setSu_keeps ..) rfl
            exact (Keeps.refl s)
          · exact (Keeps.refl s)
      · exact (Keeps.refl s)
    · split
      · refine Keeps.after ?_ (flowAll_keeps ..) rfl
        refine Keeps.after ?_ (setSu_keeps ..) rfl
        exact (Keeps.refl s)
      · exact (Keeps.refl s)
    · extract_lets -merge -underBinder +onlyGivenNames x3
      refine keeps_ite ?_ ?_
      · split
        · unfold x3
          extract_lets -merge -underBinder +onlyGivenNames u4
          have ku4 : Keeps [.cnt, .hif, .streams, .msgs, .egress, .slots, .sheaves, .groups, .plots, .sus, .fab, .waits, .yoke, .links, .alert, .nextBuild, .nextSid] s u4 := by
            refine Keeps.after ?_ (flowAll_keeps ..) rfl
            refine Keeps.after ?_ (setSu_keeps ..) rfl
            exact (Keeps.refl s)
          refine keeps_ite ?_ ?_
          · refine Keeps.after ?_ (taintOwners_keeps ..) rfl
            refine Keeps.after ?_ (bump_keeps ..) rfl
            exact ku4
          · exact ku4
        · exact (Keeps.refl s)
      · split
        · unfold x3
          extract_lets -merge -underBinder +onlyGivenNames u5
          have ku5 : Keeps [.cnt, .hif, .streams, .msgs, .egress, .slots, .sheaves, .groups, .plots, .sus, .fab, .waits, .yoke, .links, .alert, .nextBuild, .nextSid] s u5 := by
            refine Keeps.after ?_ (flowAll_keeps ..) rfl
            refine Keeps.after ?_ (setSu_keeps ..) rfl
            exact (Keeps.refl s)
          refine keeps_ite ?_ ?_
          · refine Keeps.after ?_ (taintOwners_keeps ..) rfl
            refine Keeps.after ?_ (bump_keeps ..) rfl
            exact ku5
          · exact ku5
        · exact (Keeps.refl s)

theorem forwardHeadland_keeps {a0 a1 s} :
    Keeps [.cnt, .hif, .streams, .msgs, .egress, .slots, .sheaves, .groups, .plots, .sus, .fab, .waits, .yoke, .links, .alert, .nextBuild, .nextSid] s (forwardHeadland a0 a1 s) := by
  delta forwardHeadland
  refine keeps_ite ?_ ?_
  · extract_lets -merge -underBinder +onlyGivenNames u0
    have ku0 : Keeps [.cnt, .hif, .streams, .msgs, .egress, .slots, .sheaves, .groups, .plots, .sus, .fab, .waits, .yoke, .links, .alert, .nextBuild, .nextSid] s u0 := by
      refine keeps_each ?_ (fun x1 u2 ku2 => ?_)
      · exact (Keeps.refl s)
      · refine keeps_each ?_ (fun x3 u4 ku4 => ?_)
        · exact ku2
        · refine Keeps.after ?_ (pushFifo_keeps ..) rfl
          exact ku4
    refine Keeps.upd_fab ?_ rfl
    exact ku0
  · refine keeps_ite ?_ ?_
    · extract_lets -merge -underBinder +onlyGivenNames x5
      refine keeps_ite ?_ ?_
      · exact (Keeps.refl s)
      · extract_lets -merge -underBinder +onlyGivenNames x6
        refine Keeps.after ?_ (setSu_keeps ..) rfl
        exact (Keeps.refl s)
    · refine keeps_each ?_ (fun x7 u8 ku8 => ?_)
      · exact (Keeps.refl s)
      · refine Keeps.after ?_ (hopPut_keeps ..) rfl
        exact ku8

theorem dropLeftovers_keeps {a0 s} :
    Keeps [.cnt, .hif, .streams, .msgs, .egress, .slots, .sheaves, .groups, .plots, .tiles, .sus, .waits, .yoke, .alert, .nextBuild, .nextSid] s (dropLeftovers a0 s) := by
  delta dropLeftovers
  extract_lets -merge -underBinder +onlyGivenNames x0
  refine keeps_ite ?_ ?_
  · extract_lets -merge -underBinder +onlyGivenNames x1
    refine keeps_each ?_ (fun x2 u3 ku3 => ?_)
    · refine Keeps.after ?_ (updTile_keeps ..) rfl
      exact (Keeps.refl s)
    · refine Keeps.after ?_ (orphan_keeps ..) rfl
      exact ku3
  · refine keeps_ite ?_ ?_
    · extract_lets -merge -underBinder +onlyGivenNames x4 x5
      refine keeps_each ?_ (fun x6 u7 ku7 => ?_)
      · refine Keeps.after ?_ (setSu_keeps ..) rfl
        exact (Keeps.refl s)
      · refine Keeps.after ?_ (orphan_keeps ..) rfl
        exact ku7
    · exact (Keeps.refl s)

theorem noteWait_keeps {a0 s} : Keeps [.cnt, .hif, .plots, .alert] s (noteWait a0 s) := by
  delta noteWait
  extract_lets -merge -underBinder +onlyGivenNames x0
  split
  · refine keeps_ite ?_ ?_
    · refine Keeps.after ?_ (updPlot_keeps ..) rfl
      exact (Keeps.refl s)
    · exact (Keeps.refl s)
  · refine keeps_ite ?_ ?_
    · exact (Keeps.refl s)
    · refine Keeps.after ?_ (bump_keeps ..) rfl
      refine Keeps.after ?_ (updPlot_keeps ..) rfl
      exact (Keeps.refl s)

theorem unitFinish_keeps {a0 s} :
    Keeps [.cnt, .hif, .streams, .msgs, .egress, .slots, .sheaves, .groups, .plots, .tiles, .sus, .fab, .waits, .yoke, .links, .alert, .nextBuild, .nextSid] s (unitFinish a0 s) := by
  delta unitFinish
  split
  · exact (Keeps.refl s)
  · split
    · exact (Keeps.refl s)
    · refine keeps_ite ?_ ?_
      · exact (Keeps.refl s)
      · refine keeps_ite ?_ ?_
        · extract_lets -merge -underBinder +onlyGivenNames u0
          extract_lets -merge -underBinder +onlyGivenNames u1
          have ku1 : Keeps [.cnt, .hif, .streams, .msgs, .egress, .slots, .sheaves, .groups, .plots, .tiles, .sus, .fab, .waits, .yoke, .links, .alert, .nextBuild, .nextSid] s u1 := by
            refine Keeps.upd_fab ?_ rfl
            exact (Keeps.refl s)
          refine Keeps.after ?_ (noteWait_keeps ..) rfl
          refine Keeps.after ?_ (flowAll_keeps ..) rfl
          refine Keeps.after ?_ (forwardHeadland_keeps ..) rfl
          refine Keeps.after ?_ (dropLeftovers_keeps ..) rfl
          exact ku1
        · exact (Keeps.refl s)

theorem dropGateway_keeps {a0 s} : Keeps [.links] s (dropGateway a0 s) := by
  delta dropGateway
  refine keeps_each ?_ (fun x0 u1 ku1 => ?_)
  · exact (Keeps.refl s)
  · refine keeps_each ?_ (fun x2 u3 ku3 => ?_)
    · exact ku1
    · refine Keeps.after ?_ (updDir_keeps ..) rfl
      exact ku3

theorem clearPlot_keeps {a0 a1 s} : Keeps [.plots, .tiles, .switches, .sus, .fab, .waits, .links, .hrw] s (clearPlot a0 a1 s) := by
  delta clearPlot
  extract_lets -merge -underBinder +onlyGivenNames u0 u1 u2 u3 u4 u5
  have ku0 : Keeps [.plots, .tiles, .switches, .sus, .fab, .waits, .links, .hrw] s u0 := by
    refine Keeps.after ?_ (rewritten_keeps ..) rfl
    exact (Keeps.refl s)
  have ku1 : Keeps [.plots, .tiles, .switches, .sus, .fab, .waits, .links, .hrw] s u1 := by
    refine keeps_each ?_ (fun x6 u7 ku7 => ?_)
    · exact ku0
    · refine Keeps.after ?_ (updTile_keeps ..) rfl
      exact ku7
  have ku2 : Keeps [.plots, .tiles, .switches, .sus, .fab, .waits, .links, .hrw] s u2 := by
    refine keeps_each ?_ (fun x8 u9 ku9 => ?_)
    · exact ku1
    · refine Keeps.after ?_ (setSwitch_keeps ..) rfl
      exact ku9
  have ku3 : Keeps [.plots, .tiles, .switches, .sus, .fab, .waits, .links, .hrw] s u3 := by
    refine keeps_each ?_ (fun x10 u11 ku11 => ?_)
    · exact ku2
    · refine Keeps.after ?_ (setSu_keeps ..) rfl
      exact ku11
  have ku4 : Keeps [.plots, .tiles, .switches, .sus, .fab, .waits, .links, .hrw] s u4 := by
    refine Keeps.after ?_ (updPlot_keeps ..) rfl
    exact ku3
  have ku5 : Keeps [.plots, .tiles, .switches, .sus, .fab, .waits, .links, .hrw] s u5 := by
    refine Keeps.after ?_ (dropGateway_keeps ..) rfl
    refine Keeps.upd_waits ?_ rfl
    exact ku4
  refine Keeps.upd_fab ?_ rfl
  exact ku5

theorem countWork_keeps {a0 s} : Keeps [.cnt, .hif, .yoke, .alert] s (countWork a0 s) := by
  delta countWork
  extract_lets -merge -underBinder +onlyGivenNames x0
  refine Keeps.after ?_ (bump_keeps ..) rfl
  refine Keeps.upd_yoke ?_ rfl
  exact (Keeps.refl s)

theorem settleRun_keeps {a0 a1 a2 s} : Keeps [.cnt, .hif, .yoke, .alert] s (settleRun a0 a1 a2 s) := by
  delta settleRun
  extract_lets -merge -underBinder +onlyGivenNames x0
  refine Keeps.after ?_ (refund_keeps ..) rfl
  refine Keeps.after ?_ (countWork_keeps ..) rfl
  exact (Keeps.refl s)

theorem flushGroup_keeps {a0 a1 s} :
    Keeps [.cnt, .hif, .streams, .msgs, .egress, .slots, .sheaves, .groups, .plots, .tiles, .switches, .sus, .fab, .waits, .yoke, .links, .hrw, .alert, .nextBuild, .nextSid] s (flushGroup a0 a1 s).1 := by
  delta flushGroup
  split
  · refine keeps_fst ?_
    exact (Keeps.refl s)
  · extract_lets -merge -underBinder +onlyGivenNames x0 x1 x2 x3 x4 x5 x6 x7 u8 u9 u10 u11 u12 u13 u14 u15 u16
    have ku8 : Keeps [.cnt, .hif, .streams, .msgs, .egress, .slots, .sheaves, .groups, .plots, .tiles, .switches, .sus, .fab, .waits, .yoke, .links, .hrw, .alert, .nextBuild, .nextSid] s u8 := by
      refine Keeps.after ?_ (cancelRotation_keeps ..) rfl
      refine keeps_each ?_ (fun x17 u18 ku18 => ?_)
      · exact (Keeps.refl s)
      · refine Keeps.after ?_ (bump_keeps ..) rfl
        exact ku18
    have ku9 : Keeps [.cnt, .hif, .streams, .msgs, .egress, .slots, .sheaves, .groups, .plots, .tiles, .switches, .sus, .fab, .waits, .yoke, .links, .hrw, .alert, .nextBuild, .nextSid] s u9 := by
      refine keeps_each ?_ (fun x19 u20 ku20 => ?_)
      · exact ku8
      · refine Keeps.after ?_ (bump_keeps ..) rfl
        exact ku20
    have ku10 : Keeps [.cnt, .hif, .streams, .msgs, .egress, .slots, .sheaves, .groups, .plots, .tiles, .switches, .sus, .fab, .waits, .yoke, .links, .hrw, .alert, .nextBuild, .nextSid] s u10 := by
      refine Keeps.after ?_ (bump_keeps ..) rfl
      exact ku9
    have ku11 : Keeps [.cnt, .hif, .streams, .msgs, .egress, .slots, .sheaves, .groups, .plots, .tiles, .switches, .sus, .fab, .waits, .yoke, .links, .hrw, .alert, .nextBuild, .nextSid] s u11 := by
      unfold u11
      split
      · refine Keeps.after ?_ (settleRun_keeps ..) rfl
        exact ku10
      · exact ku10
    have ku12 : Keeps [.cnt, .hif, .streams, .msgs, .egress, .slots, .sheaves, .groups, .plots, .tiles, .switches, .sus, .fab, .waits, .yoke, .links, .hrw, .alert, .nextBuild, .nextSid] s u12 := by
      refine keeps_each ?_ (fun x21 u22 ku22 => ?_)
      · exact ku11
      · refine Keeps.after ?_ (clearPlot_keeps ..) rfl
        exact ku22
    have ku13 : Keeps [.cnt, .hif, .streams, .msgs, .egress, .slots, .sheaves, .groups, .plots, .tiles, .switches, .sus, .fab, .waits, .yoke, .links, .hrw, .alert, .nextBuild, .nextSid] s u13 := by
      refine Keeps.after ?_ (updGroup_keeps ..) rfl
      exact ku12
    have ku14 : Keeps [.cnt, .hif, .streams, .msgs, .egress, .slots, .sheaves, .groups, .plots, .tiles, .switches, .sus, .fab, .waits, .yoke, .links, .hrw, .alert, .nextBuild, .nextSid] s u14 := by
      refine keeps_each ?_ (fun x23 u24 ku24 => ?_)
      · exact ku13
      · refine Keeps.after ?_ (noteWait_keeps ..) rfl
        exact ku24
    have ku15 : Keeps [.cnt, .hif, .streams, .msgs, .egress, .slots, .sheaves, .groups, .plots, .tiles, .switches, .sus, .fab, .waits, .yoke, .links, .hrw, .alert, .nextBuild, .nextSid] s u15 := by
      refine keeps_each ?_ (fun x25 u26 ku26 => ?_)
      · exact ku14
      · refine Keeps.after ?_ (leaveSheaf_keeps ..) rfl
        refine Keeps.after ?_ (updMsg_keeps ..) rfl
        exact ku26
    have ku16 : Keeps [.cnt, .hif, .streams, .msgs, .egress, .slots, .sheaves, .groups, .plots, .tiles, .switches, .sus, .fab, .waits, .yoke, .links, .hrw, .alert, .nextBuild, .nextSid] s u16 := by
      refine keeps_each ?_ (fun x27 u28 ku28 => ?_)
      · exact ku15
      · refine Keeps.after ?_ (failMsg_keeps ..) rfl
        exact ku28
    refine keeps_fst ?_
    exact ku16

theorem replant_keeps {a0 a1 a2 s} :
    Keeps [.cnt, .hif, .streams, .msgs, .egress, .slots, .sheaves, .groups, .plots, .tiles, .switches, .sus, .fab, .waits, .yoke, .links, .hrw, .trc, .alert, .nextBuild, .nextSid] s (replant a0 a1 a2 s) := by
  delta replant
  split
  · exact (Keeps.refl s)
  · split
    rename_i x0 u1 x2 x3 hq4
    have ku1 : Keeps [.cnt, .hif, .streams, .msgs, .egress, .slots, .sheaves, .groups, .plots, .tiles, .switches, .sus, .fab, .waits, .yoke, .links, .hrw, .trc, .alert, .nextBuild, .nextSid] s u1 := by
      have hp : Keeps [.cnt, .hif, .streams, .msgs, .egress, .slots, .sheaves, .groups, .plots, .tiles, .switches, .sus, .fab, .waits, .yoke, .links, .hrw, .trc, .alert, .nextBuild, .nextSid] s (Prod.fst (u1, (x2, x3))) := by
        rw [← hq4]
        refine Keeps.after ?_ (flushGroup_keeps ..) rfl
        exact (Keeps.refl s)
      exact hp
    refine Keeps.after ?_ (raiseOn_keeps ..) rfl
    exact ku1

theorem flipUnit_keeps {a0 a1 a2 s} : Keeps [.tiles, .switches, .sus, .hrw] s (flipUnit a0 a1 a2 s) := by
  delta flipUnit
  extract_lets -merge -underBinder +onlyGivenNames u0
  have ku0 : Keeps [.tiles, .switches, .sus, .hrw] s u0 := by
    refine Keeps.after ?_ (rewritten_keeps ..) rfl
    exact (Keeps.refl s)
  refine keeps_ite ?_ ?_
  · refine Keeps.after ?_ (updTile_keeps ..) rfl
    exact ku0
  · refine keeps_ite ?_ ?_
    · extract_lets -merge -underBinder +onlyGivenNames x1
      refine Keeps.after ?_ (setSu_keeps ..) rfl
      exact ku0
    · extract_lets -merge -underBinder +onlyGivenNames x2
      refine Keeps.after ?_ (setSwitch_keeps ..) rfl
      exact ku0

theorem sendSums_keeps {a0 a1 s} : Keeps [.plots, .fab, .links] s (sendSums a0 a1 s) := by
  delta sendSums
  refine keeps_each ?_ (fun x0 u1 ku1 => ?_)
  · exact (Keeps.refl s)
  · extract_lets -merge -underBinder +onlyGivenNames x2 u3
    have ku3 : Keeps [.plots, .fab, .links] s u3 := by
      refine Keeps.after ?_ (updPlot_keeps ..) rfl
      exact ku1
    refine keeps_each ?_ (fun x4 u5 ku5 => ?_)
    · exact ku3
    · extract_lets -merge -underBinder +onlyGivenNames x6 u7
      have ku7 : Keeps [.plots, .fab, .links] s u7 := by
        refine Keeps.after ?_ (sendFlit_keeps ..) rfl
        exact ku5
      refine Keeps.upd_fab ?_ rfl
      exact ku7

theorem headlandComplete_keeps {a0 a1 s} :
    Keeps [.cnt, .hif, .groups, .plots, .fab, .links, .trc, .alert] s (headlandComplete a0 a1 s) := by
  delta headlandComplete
  split
  · exact (Keeps.refl s)
  · extract_lets -merge -underBinder +onlyGivenNames x0
    refine keeps_ite ?_ ?_
    · exact (Keeps.refl s)
    · extract_lets -merge -underBinder +onlyGivenNames u1 u2 u3 u4
      have ku1 : Keeps [.cnt, .hif, .groups, .plots, .fab, .links, .trc, .alert] s u1 := by
        refine keeps_each ?_ (fun x5 u6 ku6 => ?_)
        · exact (Keeps.refl s)
        · refine Keeps.after ?_ (bump_keeps ..) rfl
          exact ku6
      have ku2 : Keeps [.cnt, .hif, .groups, .plots, .fab, .links, .trc, .alert] s u2 := by
        refine keeps_ite ?_ ?_
        · refine Keeps.after ?_ (raiseOn_keeps ..) rfl
          exact ku1
        · exact ku1
      have ku4 : Keeps [.cnt, .hif, .groups, .plots, .fab, .links, .trc, .alert] s u4 := by
        refine Keeps.upd_fab ?_ rfl
        exact ku2
      extract_lets -merge -underBinder +onlyGivenNames u7
      have ku7 : Keeps [.cnt, .hif, .groups, .plots, .fab, .links, .trc, .alert] s u7 := by
        refine Keeps.after ?_ (sendSums_keeps ..) rfl
        refine Keeps.after ?_ (updGroup_keeps ..) rfl
        exact ku4
      split
      · refine keeps_ite ?_ ?_
        · extract_lets -merge -underBinder +onlyGivenNames u8 x9 u10 u11
          have ku8 : Keeps [.cnt, .hif, .groups, .plots, .fab, .links, .trc, .alert] s u8 := by
            refine keeps_each ?_ (fun x12 u13 ku13 => ?_)
            · exact ku7
            · refine Keeps.after ?_ (freePlot_keeps ..) rfl
              exact ku13
          have ku10 : Keeps [.cnt, .hif, .groups, .plots, .fab, .links, .trc, .alert] s u10 := by
            refine Keeps.after ?_ (updGroup_keeps ..) rfl
            exact ku8
          have ku11 : Keeps [.cnt, .hif, .groups, .plots, .fab, .links, .trc, .alert] s u11 := by
            refine Keeps.after ?_ (raiseOn_keeps ..) rfl
            exact ku10
          refine Keeps.after ?_ (bump_keeps ..) rfl
          exact ku11
        · exact ku7
      · exact ku7

theorem unitFlip_keeps {a0 s} :
    Keeps [.cnt, .hif, .streams, .msgs, .egress, .slots, .sheaves, .groups, .plots, .tiles, .switches, .sus, .fab, .waits, .yoke, .links, .hrw, .trc, .alert, .nextBuild, .nextSid] s (unitFlip a0 s) := by
  delta unitFlip
  split
  · exact (Keeps.refl s)
  · split
    · exact (Keeps.refl s)
    · split
      extract_lets -merge -underBinder +onlyGivenNames x0
      refine keeps_ite ?_ ?_
      · exact (Keeps.refl s)
      · refine keeps_ite ?_ ?_
        · extract_lets -merge -underBinder +onlyGivenNames u1 x2 u3
          have ku1 : Keeps [.cnt, .hif, .streams, .msgs, .egress, .slots, .sheaves, .groups, .plots, .tiles, .switches, .sus, .fab, .waits, .yoke, .links, .hrw, .trc, .alert, .nextBuild, .nextSid] s u1 := by
            refine Keeps.after ?_ (bump_keeps ..) rfl
            exact (Keeps.refl s)
          have ku3 : Keeps [.cnt, .hif, .streams, .msgs, .egress, .slots, .sheaves, .groups, .plots, .tiles, .switches, .sus, .fab, .waits, .yoke, .links, .hrw, .trc, .alert, .nextBuild, .nextSid] s u3 := by
            refine Keeps.after ?_ (raiseOn_keeps ..) rfl
            exact ku1
          refine Keeps.after ?_ (replant_keeps ..) rfl
          exact ku3
        · refine keeps_ite ?_ ?_
          · refine Keeps.after ?_ (headlandComplete_keeps ..) rfl
            refine Keeps.after ?_ (flowAll_keeps ..) rfl
            refine Keeps.after ?_ (noteWait_keeps ..) rfl
            refine Keeps.after ?_ (flipUnit_keeps ..) rfl
            exact (Keeps.refl s)
          · exact (Keeps.refl s)

end Sys2Proof.Machine
end

