-- ==== Sys2Proof/Laws/KeepsTileOps.lean ====
section
/-! SUPPORT. What each operation and command of Machine/TileOps.lean changes, and that it keeps the invariant. -/
namespace Sys2Proof.Machine

set_option Elab.async false

theorem tileFault_keeps {a0 a1 s} : Keeps [.cnt, .hif, .tiles, .links, .trc, .alert] s (tileFault a0 a1 s) := by
  delta tileFault
  extract_lets -merge -underBinder +onlyGivenNames x0 u1
  have ku1 : Keeps [.cnt, .hif, .tiles, .links, .trc, .alert] s u1 := by
    refine Keeps.after ?_ (setTile_keeps ..) rfl
    exact (Keeps.refl s)
  refine Keeps.after ?_ (raiseOn_keeps ..) rfl
  refine Keeps.after ?_ (bump_keeps ..) rfl
  exact ku1

theorem tileInstr_keeps {a0 a1 a2 s} : Keeps [.cnt, .hif, .tiles, .links, .trc, .alert] s (tileInstr a0 a1 a2 s) := by
  delta tileInstr
  refine keeps_ite ?_ ?_
  · extract_lets -merge -underBinder +onlyGivenNames x0
    split
    · refine Keeps.after ?_ (tileFault_keeps ..) rfl
      exact (Keeps.refl s)
    · refine keeps_ite ?_ ?_
      · refine Keeps.after ?_ (tileFault_keeps ..) rfl
        exact (Keeps.refl s)
      · refine Keeps.after ?_ (setTile_keeps ..) rfl
        exact (Keeps.refl s)
  · exact (Keeps.refl s)

theorem noteStall_keeps {a0 s} : Keeps [.cnt, .hif, .tiles, .alert] s (noteStall a0 s) := by
  delta noteStall
  extract_lets -merge -underBinder +onlyGivenNames x0 x1 u2
  have ku2 : Keeps [.cnt, .hif, .tiles, .alert] s u2 := by
    refine Keeps.after ?_ (setTile_keeps ..) rfl
    exact (Keeps.refl s)
  refine keeps_ite ?_ ?_
  · refine Keeps.after ?_ (bump_keeps ..) rfl
    exact ku2
  · exact ku2

theorem tapToken_keeps {a0 a1 s} : Keeps [.plots] s (tapToken a0 a1 s) := by
  delta tapToken
  extract_lets -merge -underBinder +onlyGivenNames x0 x1
  split
  · exact (Keeps.refl s)
  · extract_lets -merge -underBinder +onlyGivenNames x2
    refine keeps_ite ?_ ?_
    · exact (Keeps.refl s)
    · extract_lets -merge -underBinder +onlyGivenNames x3
      refine Keeps.after ?_ (updPlot_keeps ..) rfl
      exact (Keeps.refl s)

end Sys2Proof.Machine
end

