-- ==== Sys2Proof/Laws/KeepsSync.lean ====
section
/-! SUPPORT. What each operation and command of Machine/Sync.lean changes, and that it keeps the invariant. -/
namespace Sys2Proof.Machine

set_option Elab.async false

theorem descRun_keeps {ps q pos op sub f s t} (h : Keeps ps s t) (hq : subParts [.hif] ps = true)
    (hf : ∀ b u, Keeps ps s u → Keeps ps s (f b u)) : Keeps ps s (descRun q pos op sub f t) := by
  unfold descRun
  split
  · exact h
  · exact hf _ _ (h.after startDesc_keeps hq)

theorem setSyn_keeps {a0 a1 s} : Keeps [.regSyn] s (setSyn a0 a1 s) := by
  delta setSyn
  refine Keeps.after ?_ (setRegIn_regSyn (by omega)) rfl
  exact (Keeps.refl s)

theorem setSynSat_keeps {a0 a1 s} : Keeps [.regSyn] s (setSynSat a0 a1 s) := by
  delta setSynSat
  refine Keeps.after ?_ (setRegIn_regSyn (by omega)) rfl
  exact (Keeps.refl s)

theorem synAdd_keeps {a0 a1 a2 s} : Keeps [.regSyn, .cnt, .hif, .links, .trc, .alert] s (synAdd a0 a1 a2 s) := by
  delta synAdd
  extract_lets -merge -underBinder +onlyGivenNames x0
  refine keeps_ite ?_ ?_
  · exact (Keeps.refl s)
  · refine keeps_ite ?_ ?_
    · extract_lets -merge -underBinder +onlyGivenNames u1
      have ku1 : Keeps [.regSyn, .cnt, .hif, .links, .trc, .alert] s u1 := by
        refine Keeps.after ?_ (bump_keeps ..) rfl
        refine Keeps.after ?_ (setSynSat_keeps ..) rfl
        refine Keeps.after ?_ (setSyn_keeps ..) rfl
        exact (Keeps.refl s)
      refine keeps_ite ?_ ?_
      · exact ku1
      · refine Keeps.after ?_ (raiseOn_keeps ..) rfl
        exact ku1
    · refine Keeps.after ?_ (setSyn_keeps ..) rfl
      exact (Keeps.refl s)

theorem synArrive_keeps {a0 a1 s} : Keeps [.regSyn] s (synArrive a0 a1 s) := by
  delta synArrive
  extract_lets -merge -underBinder +onlyGivenNames x0 x1 x2
  refine Keeps.after ?_ (setSyn_keeps ..) rfl
  exact (Keeps.refl s)

theorem synApply_keeps {a0 a1 a2 a3 s} : Keeps [.regSyn, .cnt, .hif, .links, .trc, .alert] s (synApply a0 a1 a2 a3 s).1 := by
  delta synApply
  extract_lets -merge -underBinder +onlyGivenNames x0 x1
  split
  · refine keeps_ite_p (p := Prod.fst) ?_ ?_
    · refine keeps_fst ?_
      refine Keeps.after ?_ (synArrive_keeps ..) rfl
      exact (Keeps.refl s)
    · refine keeps_ite_p (p := Prod.fst) ?_ ?_
      · refine keeps_fst ?_
        refine keeps_ite ?_ ?_
        · refine Keeps.after ?_ (setSyn_keeps ..) rfl
          exact (Keeps.refl s)
        · exact (Keeps.refl s)
      · refine keeps_fst ?_
        refine Keeps.after ?_ (synAdd_keeps ..) rfl
        exact (Keeps.refl s)
  · refine keeps_ite_p (p := Prod.fst) ?_ ?_
    · refine keeps_fst ?_
      refine Keeps.after ?_ (setSyn_keeps ..) rfl
      exact (Keeps.refl s)
    · refine keeps_ite_p (p := Prod.fst) ?_ ?_
      · refine keeps_fst ?_
        refine Keeps.after ?_ (setSyn_keeps ..) rfl
        exact (Keeps.refl s)
      · refine keeps_ite_p (p := Prod.fst) ?_ ?_
        · refine keeps_fst ?_
          exact (Keeps.refl s)
        · refine keeps_fst ?_
          refine Keeps.after ?_ (setSyn_keeps ..) rfl
          exact (Keeps.refl s)
  · refine keeps_ite_p (p := Prod.fst) ?_ ?_
    · refine keeps_fst ?_
      refine Keeps.after ?_ (setSyn_keeps ..) rfl
      exact (Keeps.refl s)
    · refine keeps_ite_p (p := Prod.fst) ?_ ?_
      · refine keeps_fst ?_
        refine Keeps.after ?_ (setSyn_keeps ..) rfl
        exact (Keeps.refl s)
      · refine keeps_fst ?_
        refine Keeps.after ?_ (setSynSat_keeps ..) rfl
        refine Keeps.after ?_ (setSyn_keeps ..) rfl
        exact (Keeps.refl s)
  · refine keeps_ite_p (p := Prod.fst) ?_ ?_
    · refine keeps_ite_p (p := Prod.fst) ?_ ?_
      · refine keeps_fst ?_
        refine Keeps.after ?_ (setSyn_keeps ..) rfl
        exact (Keeps.refl s)
      · refine keeps_fst ?_
        exact (Keeps.refl s)
    · refine keeps_ite_p (p := Prod.fst) ?_ ?_
      · refine keeps_ite_p (p := Prod.fst) ?_ ?_
        · refine keeps_fst ?_
          refine Keeps.after ?_ (setSyn_keeps ..) rfl
          exact (Keeps.refl s)
        · refine keeps_fst ?_
          exact (Keeps.refl s)
      · refine keeps_ite_p (p := Prod.fst) ?_ ?_
        · refine keeps_fst ?_
          refine Keeps.after ?_ (setSyn_keeps ..) rfl
          exact (Keeps.refl s)
        · refine keeps_fst ?_
          exact (Keeps.refl s)
  · refine keeps_fst ?_
    exact (Keeps.refl s)

theorem synFlit_keeps {a0 a1 a2 a3 s} : Keeps [.links] s (synFlit a0 a1 a2 a3 s) := by
  delta synFlit
  refine keeps_ite ?_ ?_
  · exact (Keeps.refl s)
  · refine Keeps.after ?_ (sendFlit_keeps ..) rfl
    exact (Keeps.refl s)

theorem synAnswer_keeps {a0 a1 a2 s} : Keeps [.links] s (synAnswer a0 a1 a2 s) := by
  delta synAnswer
  refine keeps_ite ?_ ?_
  · exact (Keeps.refl s)
  · refine Keeps.after ?_ (sendFlit_keeps ..) rfl
    exact (Keeps.refl s)

theorem resumeWaiter_keeps {a0 s} : Keeps [.cnt, .hif, .sheaves, .tiles, .alert] s (resumeWaiter a0 s) := by
  delta resumeWaiter
  refine keeps_ite ?_ ?_
  · refine Keeps.after ?_ (updTile_keeps ..) rfl
    exact (Keeps.refl s)
  · refine keeps_ite ?_ ?_
    · refine Keeps.after ?_ (complete_keeps ..) rfl
      exact (Keeps.refl s)
    · refine Keeps.after ?_ (updSheaf_keeps ..) rfl
      exact (Keeps.refl s)

theorem releaseWaiters_keeps {a0 s} : Keeps [.cnt, .hif, .sheaves, .tiles, .waits, .links, .alert] s (releaseWaiters a0 s) := by
  delta releaseWaiters
  refine keeps_ite ?_ ?_
  · exact (Keeps.refl s)
  · extract_lets -merge -underBinder +onlyGivenNames x0 x1
    refine keeps_each ?_ (fun x2 u3 ku3 => ?_)
    · refine Keeps.upd_waits ?_ rfl
      exact (Keeps.refl s)
    · refine Keeps.after ?_ (resumeWaiter_keeps ..) rfl
      refine Keeps.after ?_ (synAnswer_keeps ..) rfl
      exact ku3

theorem synCount_keeps {a0 s} : Keeps [.cnt, .hif, .alert] s (synCount a0 s) := by
  delta synCount
  refine Keeps.after ?_ (bump_keeps ..) rfl
  exact (Keeps.refl s)

theorem synPerform_keeps {a0 a1 a2 a3 s} :
    Keeps [.regSyn, .cnt, .hif, .sheaves, .tiles, .waits, .links, .trc, .alert] s (synPerform a0 a1 a2 a3 s).1 := by
  delta synPerform
  extract_lets -merge -underBinder +onlyGivenNames x0
  split
  rename_i x1 u2 x3 hq4
  have ku2 : Keeps [.regSyn, .cnt, .hif, .sheaves, .tiles, .waits, .links, .trc, .alert] s u2 := by
    have hp : Keeps [.regSyn, .cnt, .hif, .sheaves, .tiles, .waits, .links, .trc, .alert] s (Prod.fst (u2, x3)) := by
      rw [← hq4]
      refine Keeps.after ?_ (synApply_keeps ..) rfl
      refine Keeps.after ?_ (synCount_keeps ..) rfl
      refine Keeps.after ?_ (synFlit_keeps ..) rfl
      exact (Keeps.refl s)
    exact hp
  refine keeps_fst ?_
  refine Keeps.after ?_ (releaseWaiters_keeps ..) rfl
  refine Keeps.after ?_ (synAnswer_keeps ..) rfl
  exact ku2

theorem joinWait_keeps {a0 s} : Keeps [.cnt, .hif, .sheaves, .tiles, .waits, .links, .alert] s (joinWait a0 s) := by
  delta joinWait
  refine keeps_ite ?_ ?_
  · refine Keeps.upd_waits ?_ rfl
    exact (Keeps.refl s)
  · extract_lets -merge -underBinder +onlyGivenNames u0
    have ku0 : Keeps [.cnt, .hif, .sheaves, .tiles, .waits, .links, .alert] s u0 := by
      refine Keeps.after ?_ (synCount_keeps ..) rfl
      refine Keeps.after ?_ (synFlit_keeps ..) rfl
      exact (Keeps.refl s)
    refine keeps_ite ?_ ?_
    · refine Keeps.after ?_ (resumeWaiter_keeps ..) rfl
      refine Keeps.after ?_ (synAnswer_keeps ..) rfl
      exact ku0
    · refine Keeps.upd_waits ?_ rfl
      exact ku0

theorem syncTile_keeps {a0 a1 s} : Keeps [.regSyn, .cnt, .hif, .sheaves, .tiles, .waits, .links, .trc, .alert] s (syncTile a0 a1 s) := by
  delta syncTile
  extract_lets -merge -underBinder +onlyGivenNames x0 x1 x2
  refine keeps_ite ?_ ?_
  · exact (Keeps.refl s)
  · refine keeps_ite ?_ ?_
    · refine Keeps.after ?_ (tileFault_keeps ..) rfl
      exact (Keeps.refl s)
    · refine keeps_ite ?_ ?_
      · exact (Keeps.refl s)
      · refine keeps_ite ?_ ?_
        · refine Keeps.after ?_ (tileFault_keeps ..) rfl
          exact (Keeps.refl s)
        · extract_lets -merge -underBinder +onlyGivenNames x3 x4 x5
          split
          · refine Keeps.after ?_ (joinWait_keeps ..) rfl
            refine Keeps.after ?_ (setTile_keeps ..) rfl
            exact (Keeps.refl s)
          · refine Keeps.after ?_ (joinWait_keeps ..) rfl
            refine Keeps.after ?_ (setTile_keeps ..) rfl
            exact (Keeps.refl s)
          · split
            rename_i x6 u7 x8 hq9
            have ku7 : Keeps [.regSyn, .cnt, .hif, .sheaves, .tiles, .waits, .links, .trc, .alert] s u7 := by
              have hp : Keeps [.regSyn, .cnt, .hif, .sheaves, .tiles, .waits, .links, .trc, .alert] s (Prod.fst (u7, x8)) := by
                rw [← hq9]
                refine keeps_ite_p (p := Prod.fst) ?_ ?_
                · refine keeps_fst ?_
                  exact (Keeps.refl s)
                · refine Keeps.after ?_ (synPerform_keeps ..) rfl
                  exact (Keeps.refl s)
              exact hp
            refine Keeps.after ?_ (updTile_keeps ..) rfl
            exact ku7
          · extract_lets -merge -underBinder +onlyGivenNames u10
            have ku10 : Keeps [.regSyn, .cnt, .hif, .sheaves, .tiles, .waits, .links, .trc, .alert] s u10 := by
              refine keeps_ite ?_ ?_
              · exact (Keeps.refl s)
              · refine Keeps.after ?_ (synPerform_keeps ..) rfl
                exact (Keeps.refl s)
            refine Keeps.after ?_ (updTile_keeps ..) rfl
            exact ku10

theorem syncDesc_keeps {a0 a1 a2 s} :
    Keeps [.regSyn, .cnt, .hif, .sheaves, .tiles, .waits, .links, .trc, .alert] s (syncDesc a0 a1 a2 s) := by
  delta syncDesc
  refine descRun_keeps ?_ rfl (fun x0 u1 ku1 => ?_)
  · exact (Keeps.refl s)
  · extract_lets -merge -underBinder +onlyGivenNames x2
    refine keeps_ite ?_ ?_
    · refine Keeps.after ?_ (complete_keeps ..) rfl
      exact ku1
    · refine keeps_ite ?_ ?_
      · refine Keeps.after ?_ (complete_keeps ..) rfl
        exact ku1
      · refine keeps_ite ?_ ?_
        · exact ku1
        · extract_lets -merge -underBinder +onlyGivenNames x3 x4
          split
          · refine Keeps.after ?_ (joinWait_keeps ..) rfl
            exact ku1
          · refine Keeps.after ?_ (joinWait_keeps ..) rfl
            exact ku1
          · split
            rename_i x5 u6 x7 hq8
            have ku6 : Keeps [.regSyn, .cnt, .hif, .sheaves, .tiles, .waits, .links, .trc, .alert] s u6 := by
              have hp : Keeps [.regSyn, .cnt, .hif, .sheaves, .tiles, .waits, .links, .trc, .alert] s (Prod.fst (u6, x7)) := by
                rw [← hq8]
                refine Keeps.after ?_ (synPerform_keeps ..) rfl
                exact ku1
              exact hp
            refine Keeps.after ?_ (complete_keeps ..) rfl
            exact ku6

theorem syncRun_keeps {a0 a1 s} : Keeps [.regSyn, .cnt, .hif, .sheaves, .tiles, .waits, .links, .trc, .alert] s (syncRun a0 a1 s) := by
  delta syncRun
  split
  · refine Keeps.after ?_ (syncTile_keeps ..) rfl
    exact (Keeps.refl s)
  · refine Keeps.after ?_ (syncDesc_keeps ..) rfl
    exact (Keeps.refl s)

theorem execSyncAdd_keeps {a0 s} : KeepsOut [.regSyn, .cnt, .hif, .sheaves, .tiles, .waits, .links, .trc, .alert] s (execSyncAdd a0 s) := by
  delta execSyncAdd
  refine out_next ?_
  refine Keeps.after ?_ (syncRun_keeps ..) rfl
  exact (Keeps.refl s)

theorem execSyncSub_keeps {a0 s} : KeepsOut [.regSyn, .cnt, .hif, .sheaves, .tiles, .waits, .links, .trc, .alert] s (execSyncSub a0 s) := by
  delta execSyncSub
  refine out_next ?_
  refine Keeps.after ?_ (syncRun_keeps ..) rfl
  exact (Keeps.refl s)

theorem execSyncSet_keeps {a0 s} : KeepsOut [.regSyn, .cnt, .hif, .sheaves, .tiles, .waits, .links, .trc, .alert] s (execSyncSet a0 s) := by
  delta execSyncSet
  refine out_next ?_
  refine Keeps.after ?_ (syncRun_keeps ..) rfl
  exact (Keeps.refl s)

theorem execSyncTrydec_keeps {a0 s} :
    KeepsOut [.regSyn, .cnt, .hif, .sheaves, .tiles, .waits, .links, .trc, .alert] s (execSyncTrydec a0 s) := by
  delta execSyncTrydec
  refine out_next ?_
  refine Keeps.after ?_ (syncRun_keeps ..) rfl
  exact (Keeps.refl s)

theorem execSyncWaitGe_keeps {a0 s} :
    KeepsOut [.regSyn, .cnt, .hif, .sheaves, .tiles, .waits, .links, .trc, .alert] s (execSyncWaitGe a0 s) := by
  delta execSyncWaitGe
  refine out_next ?_
  refine Keeps.after ?_ (syncRun_keeps ..) rfl
  exact (Keeps.refl s)

theorem execSyncWaitEq_keeps {a0 s} :
    KeepsOut [.regSyn, .cnt, .hif, .sheaves, .tiles, .waits, .links, .trc, .alert] s (execSyncWaitEq a0 s) := by
  delta execSyncWaitEq
  refine out_next ?_
  refine Keeps.after ?_ (syncRun_keeps ..) rfl
  exact (Keeps.refl s)

theorem execSyncRead_keeps {a0 s} :
    KeepsOut [.regSyn, .cnt, .hif, .sheaves, .tiles, .waits, .links, .trc, .alert] s (execSyncRead a0 s) := by
  delta execSyncRead
  refine out_next ?_
  refine Keeps.after ?_ (syncRun_keeps ..) rfl
  exact (Keeps.refl s)

theorem syncTimeout_keeps {a0 s} : Keeps [.cnt, .hif, .waits, .alert] s (syncTimeout a0 s) := by
  delta syncTimeout
  split
  · exact (Keeps.refl s)
  · split
    · exact (Keeps.refl s)
    · refine keeps_ite ?_ ?_
      · exact (Keeps.refl s)
      · refine Keeps.after ?_ (bump_keeps ..) rfl
        refine Keeps.after ?_ (complete_keeps ..) rfl
        refine Keeps.upd_waits ?_ rfl
        exact (Keeps.refl s)

theorem execSyncOpTimeout_keeps {a0 s} : KeepsOut [.cnt, .hif, .waits, .alert] s (execSyncOpTimeout a0 s) := by
  delta execSyncOpTimeout
  refine out_next ?_
  refine Keeps.after ?_ (syncTimeout_keeps ..) rfl
  exact (Keeps.refl s)

theorem gateTimeout_keeps {a0 s} :
    Keeps [.cnt, .hif, .streams, .msgs, .egress, .slots, .sheaves, .groups, .plots, .waits, .yoke, .links, .trc, .alert, .nextBuild, .nextSid] s (gateTimeout a0 s) := by
  delta gateTimeout
  split
  · refine keeps_ite ?_ ?_
    · exact (Keeps.refl s)
    · extract_lets -merge -underBinder +onlyGivenNames x0 u1 u2
      have ku1 : Keeps [.cnt, .hif, .streams, .msgs, .egress, .slots, .sheaves, .groups, .plots, .waits, .yoke, .links, .trc, .alert, .nextBuild, .nextSid] s u1 := by
        refine Keeps.upd_waits ?_ rfl
        exact (Keeps.refl s)
      have ku2 : Keeps [.cnt, .hif, .streams, .msgs, .egress, .slots, .sheaves, .groups, .plots, .waits, .yoke, .links, .trc, .alert, .nextBuild, .nextSid] s u2 := by
        refine Keeps.after ?_ (raiseOn_keeps ..) rfl
        exact ku1
      refine keeps_each ?_ (fun x3 u4 ku4 => ?_)
      · refine keeps_each ?_ (fun x5 u6 ku6 => ?_)
        · exact ku2
        · refine Keeps.after ?_ (leaveSheaf_keeps ..) rfl
          exact ku6
      · refine Keeps.after ?_ (failMsg_keeps ..) rfl
        exact ku4
  · exact (Keeps.refl s)

theorem execSynWaitTo_keeps {a0 s} :
    KeepsOut [.cnt, .hif, .streams, .msgs, .egress, .slots, .sheaves, .groups, .plots, .waits, .yoke, .links, .trc, .alert, .nextBuild, .nextSid] s (execSynWaitTo a0 s) := by
  delta execSynWaitTo
  refine out_next ?_
  refine Keeps.after ?_ (gateTimeout_keeps ..) rfl
  exact (Keeps.refl s)

end Sys2Proof.Machine
end

