-- ==== Sys2Proof/Laws/KeepsSower.lean ====
section
/-! SUPPORT. What each operation and command of Machine/Sower.lean changes, and that it keeps the invariant. -/
namespace Sys2Proof.Machine

set_option Elab.async false

theorem trimSheaf_keeps {a0 s} :
    Keeps [.cnt, .hif, .streams, .msgs, .egress, .slots, .sheaves, .groups, .plots, .waits, .yoke, .alert, .nextBuild, .nextSid] s (trimSheaf a0 s) := by
  delta trimSheaf
  split
  · exact (Keeps.refl s)
  · extract_lets -merge -underBinder +onlyGivenNames x0 u1 x2 u3
    have ku1 : Keeps [.cnt, .hif, .streams, .msgs, .egress, .slots, .sheaves, .groups, .plots, .waits, .yoke, .alert, .nextBuild, .nextSid] s u1 := by
      refine keeps_ite ?_ ?_
      · refine keeps_each ?_ (fun x4 u5 ku5 => ?_)
        · exact (Keeps.refl s)
        · refine Keeps.after ?_ (markMsg_keeps ..) rfl
          exact ku5
      · exact (Keeps.refl s)
    have ku3 : Keeps [.cnt, .hif, .streams, .msgs, .egress, .slots, .sheaves, .groups, .plots, .waits, .yoke, .alert, .nextBuild, .nextSid] s u3 := by
      refine keeps_ite ?_ ?_
      · refine keeps_each ?_ (fun x6 u7 ku7 => ?_)
        · exact ku1
        · refine Keeps.after ?_ (failMsg_keeps ..) rfl
          exact ku7
      · exact ku1
    refine keeps_each ?_ (fun x8 u9 ku9 => ?_)
    · exact ku3
    · split
      · refine Keeps.after ?_ (leaveSheaf_keeps ..) rfl
        exact ku9
      · refine keeps_ite ?_ ?_
        · refine Keeps.after ?_ (leaveSheaf_keeps ..) rfl
          refine Keeps.after ?_ (updMsg_keeps ..) rfl
          exact ku9
        · refine keeps_ite ?_ ?_
          · refine Keeps.after ?_ (leaveSheaf_keeps ..) rfl
            refine Keeps.after ?_ (updMsg_keeps ..) rfl
            exact ku9
          · exact ku9

theorem takePlots_keeps {a0 a1 a2 s} : Keeps [.plots, .tiles, .switches, .sus, .fab, .waits, .links, .hrw] s (takePlots a0 a1 a2 s) := by
  delta takePlots
  refine keeps_each ?_ (fun x0 u1 ku1 => ?_)
  · exact (Keeps.refl s)
  · refine Keeps.after ?_ (updPlot_keeps ..) rfl
    refine Keeps.after ?_ (clearPlot_keeps ..) rfl
    exact ku1

theorem placeUnplaced_keeps {s} : Keeps [.groups, .plots, .tiles, .switches, .sus, .fab, .waits, .links, .hrw] s (placeUnplaced s) := by
  delta placeUnplaced
  refine keeps_each ?_ (fun x0 u1 ku1 => ?_)
  · exact (Keeps.refl s)
  · split
    · exact ku1
    · split
      · exact ku1
      · extract_lets -merge -underBinder +onlyGivenNames x2
        refine Keeps.after ?_ (updGroup_keeps ..) rfl
        refine Keeps.after ?_ (takePlots_keeps ..) rfl
        exact ku1

theorem joinGates_keeps {s} : Keeps [.cnt, .hif, .sheaves, .tiles, .waits, .links, .alert] s (joinGates s) := by
  delta joinGates
  refine keeps_each ?_ (fun x0 u1 ku1 => ?_)
  · exact (Keeps.refl s)
  · refine keeps_ite ?_ ?_
    · exact ku1
    · split
      · exact ku1
      · extract_lets -merge -underBinder +onlyGivenNames u2
        have ku2 : Keeps [.cnt, .hif, .sheaves, .tiles, .waits, .links, .alert] s u2 := by
          refine Keeps.after ?_ (updSheaf_keeps ..) rfl
          exact ku1
        refine Keeps.after ?_ (joinWait_keeps ..) rfl
        exact ku2

theorem offerOne_keeps {a0 s} : Keeps [.cnt, .hif, .sheaves, .yoke, .alert] s (offerOne a0 s) := by
  delta offerOne
  split
  · exact (Keeps.refl s)
  · refine keeps_ite ?_ ?_
    · exact (Keeps.refl s)
    · extract_lets -merge -underBinder +onlyGivenNames x0 x1 x2 x3
      refine keeps_ite ?_ ?_
      · extract_lets -merge -underBinder +onlyGivenNames u4 u5
        have ku4 : Keeps [.cnt, .hif, .sheaves, .yoke, .alert] s u4 := by
          refine Keeps.after ?_ (setYd_keeps ..) rfl
          exact (Keeps.refl s)
        have ku5 : Keeps [.cnt, .hif, .sheaves, .yoke, .alert] s u5 := by
          unfold u5
          split
          · refine Keeps.after ?_ (bump_keeps ..) rfl
            exact ku4
          · exact ku4
        refine Keeps.after ?_ (updSheaf_keeps ..) rfl
        exact ku5
      · refine keeps_ite ?_ ?_
        · exact (Keeps.refl s)
        · extract_lets -merge -underBinder +onlyGivenNames u6
          have ku6 : Keeps [.cnt, .hif, .sheaves, .yoke, .alert] s u6 := by
            refine Keeps.after ?_ (updSheaf_keeps ..) rfl
            exact (Keeps.refl s)
          refine keeps_ite ?_ ?_
          · refine Keeps.after ?_ (bump_keeps ..) rfl
            exact ku6
          · exact ku6

theorem offerCredit_keeps {s} : Keeps [.cnt, .hif, .sheaves, .yoke, .alert] s (offerCredit s) := by
  delta offerCredit
  refine keeps_each ?_ (fun x0 u1 ku1 => ?_)
  · exact (Keeps.refl s)
  · refine Keeps.after ?_ (offerOne_keeps ..) rfl
    exact ku1

theorem readySheaves_keeps {s} :
    Keeps [.cnt, .hif, .streams, .msgs, .egress, .slots, .sheaves, .groups, .plots, .tiles, .switches, .sus, .fab, .waits, .yoke, .links, .hrw, .alert, .nextBuild, .nextSid] s (readySheaves s) := by
  delta readySheaves
  extract_lets -merge -underBinder +onlyGivenNames u0
  have ku0 : Keeps [.cnt, .hif, .streams, .msgs, .egress, .slots, .sheaves, .groups, .plots, .tiles, .switches, .sus, .fab, .waits, .yoke, .links, .hrw, .alert, .nextBuild, .nextSid] s u0 := by
    refine Keeps.after ?_ (placeUnplaced_keeps ..) rfl
    exact (Keeps.refl s)
  refine Keeps.after ?_ (offerCredit_keeps ..) rfl
  refine Keeps.after ?_ (joinGates_keeps ..) rfl
  refine keeps_each ?_ (fun x1 u2 ku2 => ?_)
  · exact ku0
  · refine Keeps.after ?_ (trimSheaf_keeps ..) rfl
    exact ku2

theorem windowExpiry_keeps {a0 s} :
    Keeps [.cnt, .hif, .streams, .msgs, .egress, .slots, .sheaves, .groups, .plots, .tiles, .switches, .sus, .fab, .waits, .yoke, .links, .hrw, .alert, .nextBuild, .nextSid] s (windowExpiry a0 s) := by
  delta windowExpiry
  split
  · exact (Keeps.refl s)
  · refine keeps_ite ?_ ?_
    · refine Keeps.after ?_ (readySheaves_keeps ..) rfl
      refine Keeps.after ?_ (gatherAll_keeps ..) rfl
      refine Keeps.after ?_ (closeSheaf_keeps ..) rfl
      exact (Keeps.refl s)
    · exact (Keeps.refl s)

theorem execSheafWindowExpiry_keeps {a0 s} :
    KeepsOut [.cnt, .hif, .streams, .msgs, .egress, .slots, .sheaves, .groups, .plots, .tiles, .switches, .sus, .fab, .waits, .yoke, .links, .hrw, .alert, .nextBuild, .nextSid] s (execSheafWindowExpiry a0 s) := by
  delta execSheafWindowExpiry
  refine out_next ?_
  refine keeps_ite ?_ ?_
  · refine Keeps.after ?_ (windowExpiry_keeps ..) rfl
    exact (Keeps.refl s)
  · exact (Keeps.refl s)

theorem announce_keeps {a0 a1 s} :
    Keeps [.cnt, .hif, .streams, .msgs, .egress, .slots, .sheaves, .groups, .plots, .sus, .fab, .waits, .yoke, .links, .alert, .nextBuild, .nextSid] s (announce a0 a1 s) := by
  delta announce
  extract_lets -merge -underBinder +onlyGivenNames u0 x1 u2
  have ku0 : Keeps [.cnt, .hif, .streams, .msgs, .egress, .slots, .sheaves, .groups, .plots, .sus, .fab, .waits, .yoke, .links, .alert, .nextBuild, .nextSid] s u0 := by
    refine Keeps.after ?_ (updGroup_keeps ..) rfl
    exact (Keeps.refl s)
  have ku2 : Keeps [.cnt, .hif, .streams, .msgs, .egress, .slots, .sheaves, .groups, .plots, .sus, .fab, .waits, .yoke, .links, .alert, .nextBuild, .nextSid] s u2 := by
    refine keeps_each ?_ (fun x3 u4 ku4 => ?_)
    · exact ku0
    · refine keeps_each ?_ (fun x5 u6 ku6 => ?_)
      · exact ku4
      · refine Keeps.after ?_ (setFeed_keeps ..) rfl
        exact ku6
  refine Keeps.after ?_ (flowAll_keeps ..) rfl
  exact ku2

theorem checkRecord_keeps {a0 a1 s} :
    Keeps [.regMem, .cnt, .hif, .streams, .msgs, .egress, .slots, .sheaves, .groups, .plots, .waits, .yoke, .links, .trc, .alert, .nextBuild, .nextSid] s (checkRecord a0 a1 s) := by
  delta checkRecord
  extract_lets -merge -underBinder +onlyGivenNames x0 x1
  refine Keeps.after ?_ (handleBad_keeps ..) rfl
  refine Keeps.after ?_ (reportHalves_keeps ..) rfl
  exact (Keeps.refl s)

theorem startPass_keeps {a0 a1 s} :
    Keeps [.regMem, .cnt, .hif, .streams, .msgs, .egress, .slots, .sheaves, .groups, .plots, .sus, .fab, .waits, .yoke, .links, .trc, .alert, .nextBuild, .nextSid] s (startPass a0 a1 s) := by
  delta startPass
  split
  · extract_lets -merge -underBinder +onlyGivenNames x0 x1 x2 u3 x4 x5 x6 u7 u8 u9 u10 u11
    have ku3 : Keeps [.regMem, .cnt, .hif, .streams, .msgs, .egress, .slots, .sheaves, .groups, .plots, .sus, .fab, .waits, .yoke, .links, .trc, .alert, .nextBuild, .nextSid] s u3 := by
      refine keeps_ite ?_ ?_
      · refine Keeps.after ?_ (refund_keeps ..) rfl
        exact (Keeps.refl s)
      · exact (Keeps.refl s)
    have ku7 : Keeps [.regMem, .cnt, .hif, .streams, .msgs, .egress, .slots, .sheaves, .groups, .plots, .sus, .fab, .waits, .yoke, .links, .trc, .alert, .nextBuild, .nextSid] s u7 := by
      refine Keeps.after ?_ (updGroup_keeps ..) rfl
      exact ku3
    have ku8 : Keeps [.regMem, .cnt, .hif, .streams, .msgs, .egress, .slots, .sheaves, .groups, .plots, .sus, .fab, .waits, .yoke, .links, .trc, .alert, .nextBuild, .nextSid] s u8 := by
      refine Keeps.after ?_ (updSheaf_keeps ..) rfl
      exact ku7
    have ku9 : Keeps [.regMem, .cnt, .hif, .streams, .msgs, .egress, .slots, .sheaves, .groups, .plots, .sus, .fab, .waits, .yoke, .links, .trc, .alert, .nextBuild, .nextSid] s u9 := by
      refine keeps_ite ?_ ?_
      · refine keeps_each ?_ (fun x12 u13 ku13 => ?_)
        · exact ku8
        · refine Keeps.after ?_ (updMsg_keeps ..) rfl
          exact ku13
      · exact ku8
    have ku10 : Keeps [.regMem, .cnt, .hif, .streams, .msgs, .egress, .slots, .sheaves, .groups, .plots, .sus, .fab, .waits, .yoke, .links, .trc, .alert, .nextBuild, .nextSid] s u10 := by
      refine Keeps.after ?_ (checkRecord_keeps ..) rfl
      exact ku9
    have ku11 : Keeps [.regMem, .cnt, .hif, .streams, .msgs, .egress, .slots, .sheaves, .groups, .plots, .sus, .fab, .waits, .yoke, .links, .trc, .alert, .nextBuild, .nextSid] s u11 := by
      refine Keeps.after ?_ (capture_keeps ..) rfl
      exact ku10
    split
    · refine Keeps.after ?_ (announce_keeps ..) rfl
      exact ku11
    · exact ku11
  · exact (Keeps.refl s)

theorem passDispatch_keeps {a0 s} :
    Keeps [.regMem, .cnt, .hif, .streams, .msgs, .egress, .slots, .sheaves, .groups, .plots, .tiles, .switches, .sus, .fab, .waits, .yoke, .links, .hrw, .trc, .alert, .nextBuild, .nextSid] s (passDispatch a0 s) := by
  delta passDispatch
  extract_lets -merge -underBinder +onlyGivenNames u0
  have ku0 : Keeps [.regMem, .cnt, .hif, .streams, .msgs, .egress, .slots, .sheaves, .groups, .plots, .tiles, .switches, .sus, .fab, .waits, .yoke, .links, .hrw, .trc, .alert, .nextBuild, .nextSid] s u0 := by
    refine Keeps.after ?_ (readySheaves_keeps ..) rfl
    exact (Keeps.refl s)
  split
  · exact ku0
  · refine keeps_ite ?_ ?_
    · exact ku0
    · split
      · exact ku0
      · refine Keeps.after ?_ (startPass_keeps ..) rfl
        exact ku0

theorem execPassDispatch_keeps {a0 s} :
    KeepsOut [.regMem, .cnt, .hif, .streams, .msgs, .egress, .slots, .sheaves, .groups, .plots, .tiles, .switches, .sus, .fab, .waits, .yoke, .links, .hrw, .trc, .alert, .nextBuild, .nextSid] s (execPassDispatch a0 s) := by
  delta execPassDispatch
  refine out_next ?_
  refine keeps_ite ?_ ?_
  · refine Keeps.after ?_ (passDispatch_keeps ..) rfl
    exact (Keeps.refl s)
  · exact (Keeps.refl s)

theorem applyPost_keeps {a0 a1 a2 a3 s} :
    Keeps [.regSyn, .cnt, .hif, .sheaves, .tiles, .waits, .links, .trc, .alert] s (applyPost a0 a1 a2 a3 s) := by
  delta applyPost
  split
  · extract_lets -merge -underBinder +onlyGivenNames x0
    refine keeps_ite ?_ ?_
    · refine Keeps.after ?_ (synPerform_keeps ..) rfl
      exact (Keeps.refl s)
    · exact (Keeps.refl s)
  · exact (Keeps.refl s)

theorem spill_keeps {a0 a1 a2 s} : Keeps [.plots, .fab] s (spill a0 a1 a2 s) := by
  delta spill
  extract_lets -merge -underBinder +onlyGivenNames x0 x1
  split
  · refine keeps_ite ?_ ?_
    · exact (Keeps.refl s)
    · refine Keeps.after ?_ (updPlot_keeps ..) rfl
      refine Keeps.upd_fab ?_ rfl
      exact (Keeps.refl s)
  · exact (Keeps.refl s)

theorem passComplete_keeps {a0 a1 a2 a3 s} :
    Keeps [.regSyn, .cnt, .hif, .streams, .msgs, .egress, .slots, .sheaves, .groups, .plots, .tiles, .switches, .sus, .fab, .waits, .yoke, .links, .hrw, .trc, .alert, .nextBuild, .nextSid] s (passComplete a0 a1 a2 a3 s) := by
  delta passComplete
  split
  · exact (Keeps.refl s)
  · split
    · exact (Keeps.refl s)
    · refine keeps_ite ?_ ?_
      · exact (Keeps.refl s)
      · extract_lets -merge -underBinder +onlyGivenNames x0 u1 u2 u3 u4 u5 x6 u7
        have ku1 : Keeps [.regSyn, .cnt, .hif, .streams, .msgs, .egress, .slots, .sheaves, .groups, .plots, .tiles, .switches, .sus, .fab, .waits, .yoke, .links, .hrw, .trc, .alert, .nextBuild, .nextSid] s u1 := by
          refine Keeps.after ?_ (settleRun_keeps ..) rfl
          exact (Keeps.refl s)
        have ku2 : Keeps [.regSyn, .cnt, .hif, .streams, .msgs, .egress, .slots, .sheaves, .groups, .plots, .tiles, .switches, .sus, .fab, .waits, .yoke, .links, .hrw, .trc, .alert, .nextBuild, .nextSid] s u2 := by
          refine Keeps.after ?_ (updGroup_keeps ..) rfl
          exact ku1
        have ku3 : Keeps [.regSyn, .cnt, .hif, .streams, .msgs, .egress, .slots, .sheaves, .groups, .plots, .tiles, .switches, .sus, .fab, .waits, .yoke, .links, .hrw, .trc, .alert, .nextBuild, .nextSid] s u3 := by
          refine keeps_each ?_ (fun x8 u9 ku9 => ?_)
          · exact ku2
          · refine Keeps.after ?_ (spill_keeps ..) rfl
            exact ku9
        have ku5 : Keeps [.regSyn, .cnt, .hif, .streams, .msgs, .egress, .slots, .sheaves, .groups, .plots, .tiles, .switches, .sus, .fab, .waits, .yoke, .links, .hrw, .trc, .alert, .nextBuild, .nextSid] s u5 := by
          refine Keeps.upd_fab ?_ rfl
          exact ku3
        have kx6 : Keeps [.regSyn, .cnt, .hif, .streams, .msgs, .egress, .slots, .sheaves, .groups, .plots, .tiles, .switches, .sus, .fab, .waits, .yoke, .links, .hrw, .trc, .alert, .nextBuild, .nextSid] s x6 := by
          refine Keeps.after ?_ (applyPost_keeps ..) rfl
          exact ku5
        extract_lets -merge -underBinder +onlyGivenNames u10
        have ku10 : Keeps [.regSyn, .cnt, .hif, .streams, .msgs, .egress, .slots, .sheaves, .groups, .plots, .tiles, .switches, .sus, .fab, .waits, .yoke, .links, .hrw, .trc, .alert, .nextBuild, .nextSid] s u10 := by
          unfold u10
          split
          · exact kx6
          · refine keeps_ite ?_ ?_
            · refine Keeps.upd_sheaves ?_ rfl
              exact kx6
            · refine keeps_ite ?_ ?_
              · extract_lets -merge -underBinder +onlyGivenNames u11
                have ku11 : Keeps [.regSyn, .cnt, .hif, .streams, .msgs, .egress, .slots, .sheaves, .groups, .plots, .tiles, .switches, .sus, .fab, .waits, .yoke, .links, .hrw, .trc, .alert, .nextBuild, .nextSid] s u11 := by
                  refine keeps_each ?_ (fun x12 u13 ku13 => ?_)
                  · exact kx6
                  · extract_lets -merge -underBinder +onlyGivenNames x14
                    refine Keeps.after ?_ (updMsg_keeps ..) rfl
                    exact ku13
                refine Keeps.upd_sheaves ?_ rfl
                exact ku11
              · extract_lets -merge -underBinder +onlyGivenNames u15
                have ku15 : Keeps [.regSyn, .cnt, .hif, .streams, .msgs, .egress, .slots, .sheaves, .groups, .plots, .tiles, .switches, .sus, .fab, .waits, .yoke, .links, .hrw, .trc, .alert, .nextBuild, .nextSid] s u15 := by
                  refine keeps_each ?_ (fun x16 u17 ku17 => ?_)
                  · exact kx6
                  · refine Keeps.after ?_ (updMsg_keeps ..) rfl
                    exact ku17
                refine Keeps.after ?_ (updSheaf_keeps ..) rfl
                exact ku15
        refine Keeps.after ?_ (readySheaves_keeps ..) rfl
        refine Keeps.after ?_ (gatherAll_keeps ..) rfl
        exact ku10

theorem execPassComplete_keeps {a0 a1 a2 a3 s} :
    KeepsOut [.regSyn, .cnt, .hif, .streams, .msgs, .egress, .slots, .sheaves, .groups, .plots, .tiles, .switches, .sus, .fab, .waits, .yoke, .links, .hrw, .trc, .alert, .nextBuild, .nextSid] s (execPassComplete a0 a1 a2 a3 s) := by
  delta execPassComplete
  refine out_next ?_
  refine keeps_ite ?_ ?_
  · refine Keeps.after ?_ (passComplete_keeps ..) rfl
    exact (Keeps.refl s)
  · exact (Keeps.refl s)

theorem addPause_keeps {a0 a1 s} : Keeps [.groups] s (addPause a0 a1 s) := by
  delta addPause
  refine Keeps.upd_groups ?_ rfl
  exact (Keeps.refl s)

theorem sliceOverrun_keeps {a0 a1 s} :
    Keeps [.cnt, .hif, .streams, .msgs, .egress, .slots, .sheaves, .groups, .plots, .tiles, .switches, .sus, .fab, .waits, .yoke, .links, .hrw, .trc, .alert, .nextBuild, .nextSid] s (sliceOverrun a0 a1 s) := by
  delta sliceOverrun
  split
  · exact (Keeps.refl s)
  · split
    · exact (Keeps.refl s)
    · extract_lets -merge -underBinder +onlyGivenNames x0
      refine keeps_ite ?_ ?_
      · exact (Keeps.refl s)
      · extract_lets -merge -underBinder +onlyGivenNames x1 u2
        have ku2 : Keeps [.cnt, .hif, .streams, .msgs, .egress, .slots, .sheaves, .groups, .plots, .tiles, .switches, .sus, .fab, .waits, .yoke, .links, .hrw, .trc, .alert, .nextBuild, .nextSid] s u2 := by
          refine Keeps.after ?_ (bump_keeps ..) rfl
          refine Keeps.after ?_ (replant_keeps ..) rfl
          exact (Keeps.refl s)
        refine Keeps.after ?_ (readySheaves_keeps ..) rfl
        refine Keeps.after ?_ (raiseOn_keeps ..) rfl
        exact ku2

theorem execSliceOverrun_keeps {a0 a1 s} :
    KeepsOut [.cnt, .hif, .streams, .msgs, .egress, .slots, .sheaves, .groups, .plots, .tiles, .switches, .sus, .fab, .waits, .yoke, .links, .hrw, .trc, .alert, .nextBuild, .nextSid] s (execSliceOverrun a0 a1 s) := by
  delta execSliceOverrun
  refine out_next ?_
  refine keeps_ite ?_ ?_
  · refine Keeps.after ?_ (sliceOverrun_keeps ..) rfl
    exact (Keeps.refl s)
  · exact (Keeps.refl s)

theorem cuminShed_keeps {a0 s} :
    Keeps [.cnt, .hif, .streams, .msgs, .egress, .slots, .sheaves, .groups, .plots, .waits, .yoke, .links, .trc, .alert, .nextBuild, .nextSid] s (cuminShed a0 s) := by
  delta cuminShed
  split
  · exact (Keeps.refl s)
  · refine keeps_ite ?_ ?_
    · exact (Keeps.refl s)
    · extract_lets -merge -underBinder +onlyGivenNames x0 x1 x2 u3 u4 u5
      have ku3 : Keeps [.cnt, .hif, .streams, .msgs, .egress, .slots, .sheaves, .groups, .plots, .waits, .yoke, .links, .trc, .alert, .nextBuild, .nextSid] s u3 := by
        refine keeps_each ?_ (fun x6 u7 ku7 => ?_)
        · exact (Keeps.refl s)
        · refine Keeps.after ?_ (leaveSheaf_keeps ..) rfl
          exact ku7
      have ku4 : Keeps [.cnt, .hif, .streams, .msgs, .egress, .slots, .sheaves, .groups, .plots, .waits, .yoke, .links, .trc, .alert, .nextBuild, .nextSid] s u4 := by
        refine keeps_each ?_ (fun x8 u9 ku9 => ?_)
        · exact ku3
        · refine Keeps.after ?_ (updMsg_keeps ..) rfl
          exact ku9
      have ku5 : Keeps [.cnt, .hif, .streams, .msgs, .egress, .slots, .sheaves, .groups, .plots, .waits, .yoke, .links, .trc, .alert, .nextBuild, .nextSid] s u5 := by
        refine keeps_each ?_ (fun x10 u11 ku11 => ?_)
        · refine Keeps.after ?_ (bump_keeps ..) rfl
          exact ku4
        · refine Keeps.after ?_ (failMsg_keeps ..) rfl
          exact ku11
      refine Keeps.after ?_ (raiseOn_keeps ..) rfl
      exact ku5

theorem execCuminShed_keeps {a0 s} :
    KeepsOut [.cnt, .hif, .streams, .msgs, .egress, .slots, .sheaves, .groups, .plots, .waits, .yoke, .links, .trc, .alert, .nextBuild, .nextSid] s (execCuminShed a0 s) := by
  delta execCuminShed
  refine out_next ?_
  refine keeps_ite ?_ ?_
  · refine Keeps.after ?_ (cuminShed_keeps ..) rfl
    exact (Keeps.refl s)
  · exact (Keeps.refl s)

theorem rotationCheck_keeps {a0 s} :
    Keeps [.cnt, .hif, .groups, .plots, .tiles, .switches, .sus, .fab, .waits, .links, .hrw, .alert] s (rotationCheck a0 s) := by
  delta rotationCheck
  extract_lets -merge -underBinder +onlyGivenNames u0
  have ku0 : Keeps [.cnt, .hif, .groups, .plots, .tiles, .switches, .sus, .fab, .waits, .links, .hrw, .alert] s u0 := by
    refine keeps_each ?_ (fun x1 u2 ku2 => ?_)
    · exact (Keeps.refl s)
    · refine keeps_ite ?_ ?_
      · exact ku2
      · refine Keeps.after ?_ (updPlot_keeps ..) rfl
        exact ku2
  refine keeps_ite ?_ ?_
  · exact ku0
  · extract_lets -merge -underBinder +onlyGivenNames u3 x4
    have ku3 : Keeps [.cnt, .hif, .groups, .plots, .tiles, .switches, .sus, .fab, .waits, .links, .hrw, .alert] s u3 := by
      refine Keeps.after ?_ (bump_keeps ..) rfl
      exact ku0
    clear_value x4
    split
    · exact ku3
    · split
      · exact ku3
      · extract_lets -merge -underBinder +onlyGivenNames x5 x6 u7
        have ku7 : Keeps [.cnt, .hif, .groups, .plots, .tiles, .switches, .sus, .fab, .waits, .links, .hrw, .alert] s u7 := by
          refine Keeps.after ?_ (takePlots_keeps ..) rfl
          exact ku3
        refine Keeps.after ?_ (updGroup_keeps ..) rfl
        exact ku7

theorem execRotationCheck_keeps {a0 s} :
    KeepsOut [.cnt, .hif, .groups, .plots, .tiles, .switches, .sus, .fab, .waits, .links, .hrw, .alert] s (execRotationCheck a0 s) := by
  delta execRotationCheck
  refine out_next ?_
  refine keeps_ite ?_ ?_
  · refine Keeps.after ?_ (rotationCheck_keeps ..) rfl
    exact (Keeps.refl s)
  · exact (Keeps.refl s)

theorem headlandInject_keeps {a0 s} :
    Keeps [.cnt, .hif, .streams, .msgs, .egress, .slots, .sheaves, .groups, .plots, .sus, .fab, .waits, .yoke, .links, .alert, .nextBuild, .nextSid] s (headlandInject a0 s) := by
  delta headlandInject
  split
  · exact (Keeps.refl s)
  · split
    · exact (Keeps.refl s)
    · refine keeps_ite ?_ ?_
      · exact (Keeps.refl s)
      · refine Keeps.after ?_ (announce_keeps ..) rfl
        exact (Keeps.refl s)

theorem execHeadlandInject_keeps {a0 s} :
    KeepsOut [.cnt, .hif, .streams, .msgs, .egress, .slots, .sheaves, .groups, .plots, .sus, .fab, .waits, .yoke, .links, .alert, .nextBuild, .nextSid] s (execHeadlandInject a0 s) := by
  delta execHeadlandInject
  refine out_next ?_
  refine keeps_ite ?_ ?_
  · refine Keeps.after ?_ (headlandInject_keeps ..) rfl
    exact (Keeps.refl s)
  · exact (Keeps.refl s)

theorem rotLoaded_keeps {a0 s} : Keeps [.groups] s (rotLoaded a0 s) := by
  delta rotLoaded
  split
  · exact (Keeps.refl s)
  · split
    · exact (Keeps.refl s)
    · refine keeps_ite ?_ ?_
      · refine Keeps.after ?_ (updGroup_keeps ..) rfl
        exact (Keeps.refl s)
      · exact (Keeps.refl s)

theorem loadShadow_keeps {a0 a1 a2 a3 a4 s} : Keeps [.tiles, .switches, .sus, .hrw] s (loadShadow a0 a1 a2 a3 a4 s) := by
  delta loadShadow
  extract_lets -merge -underBinder +onlyGivenNames u0
  have ku0 : Keeps [.tiles, .switches, .sus, .hrw] s u0 := by
    refine Keeps.after ?_ (rewritten_keeps ..) rfl
    exact (Keeps.refl s)
  refine keeps_ite ?_ ?_
  · refine Keeps.after ?_ (updTile_keeps ..) rfl
    exact ku0
  · refine keeps_ite ?_ ?_
    · refine Keeps.after ?_ (setSu_keeps ..) rfl
      exact ku0
    · refine Keeps.after ?_ (setSwitch_keeps ..) rfl
      exact ku0

theorem loadActive_keeps {a0 a1 a2 a3 a4 s} : Keeps [.tiles, .switches, .sus, .hrw] s (loadActive a0 a1 a2 a3 a4 s) := by
  delta loadActive
  extract_lets -merge -underBinder +onlyGivenNames u0
  have ku0 : Keeps [.tiles, .switches, .sus, .hrw] s u0 := by
    refine Keeps.after ?_ (rewritten_keeps ..) rfl
    exact (Keeps.refl s)
  refine keeps_ite ?_ ?_
  · refine Keeps.after ?_ (updTile_keeps ..) rfl
    exact ku0
  · refine keeps_ite ?_ ?_
    · refine Keeps.after ?_ (setSu_keeps ..) rfl
      exact ku0
    · refine Keeps.after ?_ (setSwitch_keeps ..) rfl
      exact ku0

theorem noteChans_keeps {a0 a1 a2 s} : Keeps [.groups] s (noteChans a0 a1 a2 s) := by
  delta noteChans
  refine Keeps.after ?_ (updGroup_keeps ..) rfl
  exact (Keeps.refl s)

theorem seedReady_keeps {a0 a1 a2 a3 a4 s} :
    Keeps [.cnt, .hif, .groups, .plots, .tiles, .switches, .sus, .hrw, .alert] s (seedReady a0 a1 a2 a3 a4 s) := by
  delta seedReady
  split
  · exact (Keeps.refl s)
  · extract_lets -merge -underBinder +onlyGivenNames u0
    have ku0 : Keeps [.cnt, .hif, .groups, .plots, .tiles, .switches, .sus, .hrw, .alert] s u0 := by
      refine Keeps.after ?_ (noteChans_keeps ..) rfl
      exact (Keeps.refl s)
    refine keeps_ite ?_ ?_
    · extract_lets -merge -underBinder +onlyGivenNames u1
      have ku1 : Keeps [.cnt, .hif, .groups, .plots, .tiles, .switches, .sus, .hrw, .alert] s u1 := by
        refine Keeps.after ?_ (loadActive_keeps ..) rfl
        exact ku0
      refine keeps_ite ?_ ?_
      · refine Keeps.after ?_ (updGroup_keeps ..) rfl
        exact ku1
      · exact ku1
    · refine Keeps.after ?_ (noteWait_keeps ..) rfl
      refine Keeps.after ?_ (rotLoaded_keeps ..) rfl
      refine Keeps.after ?_ (loadShadow_keeps ..) rfl
      exact ku0

theorem execSeedShadowReady_keeps {a0 a1 a2 a3 a4 s} :
    KeepsOut [.cnt, .hif, .groups, .plots, .tiles, .switches, .sus, .hrw, .alert] s (execSeedShadowReady a0 a1 a2 a3 a4 s) := by
  delta execSeedShadowReady
  refine out_next ?_
  refine keeps_ite ?_ ?_
  · refine Keeps.after ?_ (seedReady_keeps ..) rfl
    exact (Keeps.refl s)
  · exact (Keeps.refl s)

theorem residentFillDone_keeps {a0 a1 s} :
    Keeps [.regMem, .cnt, .hif, .streams, .msgs, .egress, .slots, .sheaves, .groups, .plots, .waits, .yoke, .hbm, .poison, .mem, .links, .trc, .alert, .nextBuild, .nextSid] s (residentFillDone a0 a1 s) := by
  delta residentFillDone
  split
  · exact (Keeps.refl s)
  · refine Keeps.after ?_ (rotLoaded_keeps ..) rfl
    refine Keeps.after ?_ (residentFill_keeps ..) rfl
    exact (Keeps.refl s)

theorem execResidentFillDone_keeps {a0 a1 s} :
    KeepsOut [.regMem, .cnt, .hif, .streams, .msgs, .egress, .slots, .sheaves, .groups, .plots, .waits, .yoke, .hbm, .poison, .mem, .links, .trc, .alert, .nextBuild, .nextSid] s (execResidentFillDone a0 a1 s) := by
  delta execResidentFillDone
  refine out_next ?_
  refine Keeps.after ?_ (residentFillDone_keeps ..) rfl
  exact (Keeps.refl s)

theorem execUnitFinishOldWork_keeps {a0 s} :
    KeepsOut [.cnt, .hif, .streams, .msgs, .egress, .slots, .sheaves, .groups, .plots, .tiles, .sus, .fab, .waits, .yoke, .links, .alert, .nextBuild, .nextSid] s (execUnitFinishOldWork a0 s) := by
  delta execUnitFinishOldWork
  refine out_next ?_
  refine keeps_ite ?_ ?_
  · refine Keeps.after ?_ (unitFinish_keeps ..) rfl
    exact (Keeps.refl s)
  · exact (Keeps.refl s)

theorem execUnitFlip_keeps {a0 s} :
    KeepsOut [.cnt, .hif, .streams, .msgs, .egress, .slots, .sheaves, .groups, .plots, .tiles, .switches, .sus, .fab, .waits, .yoke, .links, .hrw, .trc, .alert, .nextBuild, .nextSid] s (execUnitFlip a0 s) := by
  delta execUnitFlip
  refine out_next ?_
  refine keeps_ite ?_ ?_
  · refine Keeps.after ?_ (unitFlip_keeps ..) rfl
    exact (Keeps.refl s)
  · exact (Keeps.refl s)

end Sys2Proof.Machine
end

