-- ==== Sys2Proof/Laws/KeepsFrames.lean ====
section
/-! SUPPORT. What each operation and command of Machine/Frames.lean changes, and that it keeps the invariant. -/
namespace Sys2Proof.Machine

set_option Elab.async false

theorem addFrame_keeps {a0 s} : Keeps [.frames, .nextFid] s (addFrame a0 s) := by
  delta addFrame
  refine Keeps.upd_frames_nextFid ?_ rfl
  exact (Keeps.refl s)

theorem notAdmitted_keeps {a0 a1 a2 s} : Keeps [.cnt, .hif, .alert] s (notAdmitted a0 a1 a2 s) := by
  delta notAdmitted
  split
  · refine Keeps.after ?_ (complete_keeps ..) rfl
    exact (Keeps.refl s)
  · exact (Keeps.refl s)

theorem ploughEnqueue_keeps {a0 s} : Keeps [.cnt, .hif, .frames, .alert] s (ploughEnqueue a0 s) := by
  delta ploughEnqueue
  split
  · exact (Keeps.refl s)
  · refine keeps_ite ?_ ?_
    · exact (Keeps.refl s)
    · extract_lets -merge -underBinder +onlyGivenNames x0
      refine keeps_ite ?_ ?_
      · refine Keeps.after ?_ (updFrame_keeps ..) rfl
        exact (Keeps.refl s)
      · refine Keeps.after ?_ (notAdmitted_keeps ..) rfl
        refine Keeps.after ?_ (dropFrame_keeps ..) rfl
        refine Keeps.after ?_ (bump_keeps ..) rfl
        exact (Keeps.refl s)

theorem execPloughEnqueue_keeps {a0 s} : KeepsOut [.cnt, .hif, .frames, .alert] s (execPloughEnqueue a0 s) := by
  delta execPloughEnqueue
  refine out_next ?_
  refine Keeps.after ?_ (ploughEnqueue_keeps ..) rfl
  exact (Keeps.refl s)

theorem payPunt_keeps {a0 s} : Keeps [.cnt, .hif, .frames, .plg, .alert] s (payPunt a0 s) := by
  delta payPunt
  split
  · exact (Keeps.refl s)
  · refine keeps_ite ?_ ?_
    · exact (Keeps.refl s)
    · split
      · rename_i x0 u1 hq2
        have ku1 : Keeps [.cnt, .hif, .frames, .plg, .alert] s u1 := by
          have hp : Keeps [.cnt, .hif, .frames, .plg, .alert] s (Prod.snd (true, u1)) := by
            rw [← hq2]
            refine Keeps.after ?_ (takePunt_keeps ..) rfl
            exact (Keeps.refl s)
          exact hp
        refine Keeps.after ?_ (updFrame_keeps ..) rfl
        exact ku1
      · rename_i x3 u4 hq5
        have ku4 : Keeps [.cnt, .hif, .frames, .plg, .alert] s u4 := by
          have hp : Keeps [.cnt, .hif, .frames, .plg, .alert] s (Prod.snd (false, u4)) := by
            rw [← hq5]
            refine Keeps.after ?_ (takePunt_keeps ..) rfl
            exact (Keeps.refl s)
          exact hp
        refine Keeps.after ?_ (updFrame_keeps ..) rfl
        exact ku4

theorem flushPunts_keeps {ingress fs s} : Keeps [.cnt, .hif, .frames, .alert] s (flushPunts ingress fs s) := by
  induction fs generalizing s with
  | nil => exact Keeps.refl s
  | cons f fs ih =>
    simp only [flushPunts]
    refine keeps_ite ih (keeps_ite (Keeps.refl s) ?_)
    split
    · exact ((puntFrame_keeps.weaken rfl).after updFrame_keeps rfl).after ih rfl
    · exact ih

theorem settlePunts_keeps {a0 s} : Keeps [.cnt, .hif, .frames, .plg, .alert] s (settlePunts a0 s) := by
  delta settlePunts
  extract_lets -merge -underBinder +onlyGivenNames u0
  have ku0 : Keeps [.cnt, .hif, .frames, .plg, .alert] s u0 := by
    refine keeps_each ?_ (fun x1 u2 ku2 => ?_)
    · exact (Keeps.refl s)
    · refine Keeps.after ?_ (payPunt_keeps ..) rfl
      exact ku2
  refine Keeps.after ?_ (sweepFrames_keeps ..) rfl
  refine Keeps.after ?_ (flushPunts_keeps ..) rfl
  exact ku0

theorem setGleans_keeps {a0 s} : Keeps [.plg] s (setGleans a0 s) := by
  delta setGleans
  refine Keeps.upd_plg ?_ rfl
  exact (Keeps.refl s)

theorem updGlean_keeps {a0 a1 s} : Keeps [.plg] s (updGlean a0 a1 s) := by
  delta updGlean
  refine Keeps.after ?_ (setGleans_keeps ..) rfl
  exact (Keeps.refl s)

theorem msgGood_keeps {a0 s} :
    Keeps [.cnt, .hif, .streams, .msgs, .egress, .slots, .sheaves, .groups, .plots, .waits, .yoke, .alert, .nextBuild, .nextSid] s (msgGood a0 s) := by
  delta msgGood
  split
  · refine keeps_ite ?_ ?_
    · exact (Keeps.refl s)
    · refine Keeps.after ?_ (settleStream_keeps ..) rfl
      refine Keeps.after ?_ (updMsg_keeps ..) rfl
      exact (Keeps.refl s)
  · exact (Keeps.refl s)

theorem noteEnd_keeps {a0 s} : Keeps [.frames] s (noteEnd a0 s) := by
  delta noteEnd
  refine Keeps.after ?_ (updFrame_keeps ..) rfl
  exact (Keeps.refl s)

theorem dropStomped_keeps {a0 s} : Keeps [.msgs] s (dropStomped a0 s) := by
  delta dropStomped
  refine Keeps.after ?_ (updMsg_keeps ..) rfl
  exact (Keeps.refl s)

theorem frameBad_keeps {a0 a1 s} :
    Keeps [.cnt, .hif, .streams, .msgs, .frames, .egress, .slots, .sheaves, .groups, .plots, .waits, .yoke, .alert, .nextBuild, .nextSid] s (frameBad a0 a1 s) := by
  delta frameBad
  split
  · exact (Keeps.refl s)
  · extract_lets -merge -underBinder +onlyGivenNames u0
    have ku0 : Keeps [.cnt, .hif, .streams, .msgs, .frames, .egress, .slots, .sheaves, .groups, .plots, .waits, .yoke, .alert, .nextBuild, .nextSid] s u0 := by
      refine Keeps.after ?_ (updFrame_keeps ..) rfl
      exact (Keeps.refl s)
    split
    · refine Keeps.after ?_ (failMsg_keeps ..) rfl
      refine Keeps.after ?_ (dropStomped_keeps ..) rfl
      refine Keeps.after ?_ (updMsg_keeps ..) rfl
      exact ku0
    · exact ku0

theorem freeGlean_keeps {a0 s} :
    Keeps [.cnt, .hif, .streams, .msgs, .frames, .plg, .egress, .slots, .sheaves, .groups, .plots, .waits, .yoke, .alert, .nextBuild, .nextSid] s (freeGlean a0 s) := by
  delta freeGlean
  refine keeps_ite ?_ ?_
  · extract_lets -merge -underBinder +onlyGivenNames u0 u1
    have ku0 : Keeps [.cnt, .hif, .streams, .msgs, .frames, .plg, .egress, .slots, .sheaves, .groups, .plots, .waits, .yoke, .alert, .nextBuild, .nextSid] s u0 := by
      refine Keeps.after ?_ (setGleans_keeps ..) rfl
      exact (Keeps.refl s)
    have ku1 : Keeps [.cnt, .hif, .streams, .msgs, .frames, .plg, .egress, .slots, .sheaves, .groups, .plots, .waits, .yoke, .alert, .nextBuild, .nextSid] s u1 := by
      refine keeps_each ?_ (fun x2 u3 ku3 => ?_)
      · exact ku0
      · refine Keeps.after ?_ (notAdmitted_keeps ..) rfl
        refine Keeps.after ?_ (bump_keeps ..) rfl
        refine Keeps.after ?_ (updFrame_keeps ..) rfl
        exact ku3
    split
    · refine keeps_ite ?_ ?_
      · refine Keeps.after ?_ (msgGood_keeps ..) rfl
        refine Keeps.after ?_ (updFrame_keeps ..) rfl
        exact ku1
      · exact ku1
    · exact ku1
  · exact (Keeps.refl s)

theorem gleanBad_keeps {a0 s} :
    Keeps [.cnt, .hif, .streams, .msgs, .frames, .egress, .slots, .sheaves, .groups, .plots, .waits, .yoke, .alert, .nextBuild, .nextSid] s (gleanBad a0 s) := by
  delta gleanBad
  split
  · refine keeps_ite ?_ ?_
    · refine Keeps.after ?_ (frameBad_keeps ..) rfl
      exact (Keeps.refl s)
    · exact (Keeps.refl s)
  · exact (Keeps.refl s)

theorem arriveNow_keeps {a0 s} : Keeps [.frames] s (arriveNow a0 s) := by
  delta arriveNow
  refine Keeps.upd_frames ?_ rfl
  exact (Keeps.refl s)

theorem orphanFragment_keeps {a0 s} : Keeps [.cnt, .hif, .frames, .plg, .alert] s (orphanFragment a0 s) := by
  delta orphanFragment
  split
  · exact (Keeps.refl s)
  · extract_lets -merge -underBinder +onlyGivenNames u0
    have ku0 : Keeps [.cnt, .hif, .frames, .plg, .alert] s u0 := by
      refine Keeps.after ?_ (updFrame_keeps ..) rfl
      refine Keeps.after ?_ (arriveNow_keeps ..) rfl
      exact (Keeps.refl s)
    refine Keeps.after ?_ (settlePunts_keeps ..) rfl
    refine Keeps.after ?_ (notAdmitted_keeps ..) rfl
    refine Keeps.after ?_ (bump_keeps ..) rfl
    exact ku0

theorem holdFragment_keeps {a0 s} : Keeps [.cnt, .hif, .frames, .plg, .alert] s (holdFragment a0 s) := by
  delta holdFragment
  extract_lets -merge -underBinder +onlyGivenNames u0
  have ku0 : Keeps [.cnt, .hif, .frames, .plg, .alert] s u0 := by
    refine Keeps.after ?_ (updFrame_keeps ..) rfl
    exact (Keeps.refl s)
  refine keeps_ite ?_ ?_
  · exact ku0
  · refine Keeps.after ?_ (orphanFragment_keeps ..) rfl
    exact ku0

theorem checkHold_keeps {a0 s} : Keeps [.cnt, .hif, .frames, .plg, .alert] s (checkHold a0 s) := by
  delta checkHold
  split
  · exact (Keeps.refl s)
  · refine keeps_ite ?_ ?_
    · refine Keeps.after ?_ (orphanFragment_keeps ..) rfl
      exact (Keeps.refl s)
    · exact (Keeps.refl s)

theorem bytesCame_keeps {a0 s} :
    Keeps [.cnt, .hif, .streams, .msgs, .frames, .plg, .egress, .slots, .sheaves, .groups, .plots, .waits, .yoke, .alert, .nextBuild, .nextSid] s (bytesCame a0 s) := by
  delta bytesCame
  extract_lets -merge -underBinder +onlyGivenNames u0
  have ku0 : Keeps [.cnt, .hif, .streams, .msgs, .frames, .plg, .egress, .slots, .sheaves, .groups, .plots, .waits, .yoke, .alert, .nextBuild, .nextSid] s u0 := by
    refine Keeps.after ?_ (checkHold_keeps ..) rfl
    refine Keeps.after ?_ (syncInput_keeps ..) rfl
    exact (Keeps.refl s)
  split
  · refine keeps_ite ?_ ?_
    · refine Keeps.after ?_ (settleStream_keeps ..) rfl
      exact ku0
    · exact ku0
  · exact ku0

theorem laterApply_keeps {a0 s} :
    Keeps [.cnt, .hif, .streams, .msgs, .frames, .plg, .egress, .slots, .sheaves, .groups, .plots, .waits, .yoke, .alert, .nextBuild, .nextSid] s (laterApply a0 s) := by
  delta laterApply
  split
  · exact (Keeps.refl s)
  · split
    · exact (Keeps.refl s)
    · split
      · refine Keeps.after ?_ (holdFragment_keeps ..) rfl
        exact (Keeps.refl s)
      · extract_lets -merge -underBinder +onlyGivenNames x0 x1 x2 x3 u4 u5
        have ku4 : Keeps [.cnt, .hif, .streams, .msgs, .frames, .plg, .egress, .slots, .sheaves, .groups, .plots, .waits, .yoke, .alert, .nextBuild, .nextSid] s u4 := by
          refine keeps_ite ?_ ?_
          · refine Keeps.after ?_ (bump_keeps ..) rfl
            exact (Keeps.refl s)
          · exact (Keeps.refl s)
        have ku5 : Keeps [.cnt, .hif, .streams, .msgs, .frames, .plg, .egress, .slots, .sheaves, .groups, .plots, .waits, .yoke, .alert, .nextBuild, .nextSid] s u5 := by
          refine Keeps.after ?_ (updFrame_keeps ..) rfl
          exact ku4
        refine keeps_ite ?_ ?_
        · refine Keeps.after ?_ (notAdmitted_keeps ..) rfl
          exact ku5
        · extract_lets -merge -underBinder +onlyGivenNames x6 u7 x8 u9 u10
          have ku7 : Keeps [.cnt, .hif, .streams, .msgs, .frames, .plg, .egress, .slots, .sheaves, .groups, .plots, .waits, .yoke, .alert, .nextBuild, .nextSid] s u7 := by
            refine Keeps.after ?_ (updGlean_keeps ..) rfl
            exact ku5
          have ku9 : Keeps [.cnt, .hif, .streams, .msgs, .frames, .plg, .egress, .slots, .sheaves, .groups, .plots, .waits, .yoke, .alert, .nextBuild, .nextSid] s u9 := by
            unfold u9
            split
            · refine Keeps.after ?_ (applyMiss_keeps ..) rfl
              exact ku7
            · refine keeps_ite ?_ ?_
              · extract_lets -merge -underBinder +onlyGivenNames u11
                have ku11 : Keeps [.cnt, .hif, .streams, .msgs, .frames, .plg, .egress, .slots, .sheaves, .groups, .plots, .waits, .yoke, .alert, .nextBuild, .nextSid] s u11 := by
                  refine Keeps.after ?_ (syncInput_keeps ..) rfl
                  refine Keeps.after ?_ (updFrame_keeps ..) rfl
                  exact ku7
                refine keeps_ite ?_ ?_
                · refine Keeps.after ?_ (updFrame_keeps ..) rfl
                  exact ku11
                · exact ku11
              · refine Keeps.after ?_ (applyResult_keeps ..) rfl
                exact ku7
          have ku10 : Keeps [.cnt, .hif, .streams, .msgs, .frames, .plg, .egress, .slots, .sheaves, .groups, .plots, .waits, .yoke, .alert, .nextBuild, .nextSid] s u10 := by
            refine Keeps.after ?_ (notAdmitted_keeps ..) rfl
            exact ku9
          refine Keeps.after ?_ (freeGlean_keeps ..) rfl
          exact ku10

theorem forwardCopy_keeps {a0 s} : Keeps [.frames, .egress, .nextBuild] s (forwardCopy a0 s) := by
  delta forwardCopy
  split
  · exact (Keeps.refl s)
  · split
    · exact (Keeps.refl s)
    · extract_lets -merge -underBinder +onlyGivenNames x0
      refine Keeps.after ?_ (enqueueEgress_keeps ..) rfl
      refine Keeps.after ?_ (updFrame_keeps ..) rfl
      exact (Keeps.refl s)

theorem followEntry_keeps {a0 s} : Keeps [.frames] s (followEntry a0 s) := by
  delta followEntry
  refine Keeps.after ?_ (updFrame_keeps ..) rfl
  exact (Keeps.refl s)

theorem applyFollower_keeps {a0 s} :
    Keeps [.cnt, .hif, .streams, .msgs, .frames, .plg, .egress, .slots, .sheaves, .groups, .plots, .waits, .yoke, .alert, .nextBuild, .nextSid] s (applyFollower a0 s) := by
  delta applyFollower
  split
  · exact (Keeps.refl s)
  · refine keeps_ite ?_ ?_
    · refine Keeps.after ?_ (forwardCopy_keeps ..) rfl
      refine Keeps.after ?_ (laterApply_keeps ..) rfl
      exact (Keeps.refl s)
    · exact (Keeps.refl s)

theorem releaseHeld_keeps {a0 s} :
    Keeps [.cnt, .hif, .streams, .msgs, .frames, .plg, .egress, .slots, .sheaves, .groups, .plots, .waits, .yoke, .alert, .nextBuild, .nextSid] s (releaseHeld a0 s) := by
  delta releaseHeld
  extract_lets -merge -underBinder +onlyGivenNames x0
  refine keeps_each ?_ (fun x1 u2 ku2 => ?_)
  · refine keeps_each ?_ (fun x3 u4 ku4 => ?_)
    · exact (Keeps.refl s)
    · refine Keeps.after ?_ (followEntry_keeps ..) rfl
      refine Keeps.after ?_ (arriveNow_keeps ..) rfl
      exact ku4
  · refine Keeps.after ?_ (applyFollower_keeps ..) rfl
    exact ku2

theorem gleanWrite_keeps {a0 s} :
    Keeps [.cnt, .hif, .streams, .msgs, .frames, .plg, .egress, .slots, .sheaves, .groups, .plots, .waits, .yoke, .alert, .nextBuild, .nextSid] s (gleanWrite a0 s) := by
  delta gleanWrite
  split
  · exact (Keeps.refl s)
  · split
    · exact (Keeps.refl s)
    · refine keeps_ite ?_ ?_
      · refine Keeps.after ?_ (notAdmitted_keeps ..) rfl
        refine Keeps.after ?_ (bump_keeps ..) rfl
        refine Keeps.after ?_ (updFrame_keeps ..) rfl
        exact (Keeps.refl s)
      · refine keeps_ite ?_ ?_
        · refine Keeps.after ?_ (notAdmitted_keeps ..) rfl
          refine Keeps.after ?_ (bump_keeps ..) rfl
          refine Keeps.after ?_ (updFrame_keeps ..) rfl
          exact (Keeps.refl s)
        · extract_lets -merge -underBinder +onlyGivenNames x0 x1 u2 u3 u4 u5
          have ku2 : Keeps [.cnt, .hif, .streams, .msgs, .frames, .plg, .egress, .slots, .sheaves, .groups, .plots, .waits, .yoke, .alert, .nextBuild, .nextSid] s u2 := by
            refine Keeps.after ?_ (setGleans_keeps ..) rfl
            exact (Keeps.refl s)
          have ku3 : Keeps [.cnt, .hif, .streams, .msgs, .frames, .plg, .egress, .slots, .sheaves, .groups, .plots, .waits, .yoke, .alert, .nextBuild, .nextSid] s u3 := by
            refine keeps_ite ?_ ?_
            · refine Keeps.after ?_ (raise_keeps ..) rfl
              exact ku2
            · exact ku2
          have ku4 : Keeps [.cnt, .hif, .streams, .msgs, .frames, .plg, .egress, .slots, .sheaves, .groups, .plots, .waits, .yoke, .alert, .nextBuild, .nextSid] s u4 := by
            refine Keeps.after ?_ (forwardCopy_keeps ..) rfl
            exact ku3
          have ku5 : Keeps [.cnt, .hif, .streams, .msgs, .frames, .plg, .egress, .slots, .sheaves, .groups, .plots, .waits, .yoke, .alert, .nextBuild, .nextSid] s u5 := by
            refine keeps_ite ?_ ?_
            · refine Keeps.after ?_ (updFrame_keeps ..) rfl
              exact ku4
            · exact ku4
          refine Keeps.after ?_ (releaseHeld_keeps ..) rfl
          exact ku5

theorem settleGood_keeps {a0 s} :
    Keeps [.cnt, .hif, .streams, .msgs, .frames, .plg, .egress, .slots, .sheaves, .groups, .plots, .waits, .yoke, .alert, .nextBuild, .nextSid] s (settleGood a0 s) := by
  delta settleGood
  split
  · exact (Keeps.refl s)
  · refine keeps_ite ?_ ?_
    · exact (Keeps.refl s)
    · extract_lets -merge -underBinder +onlyGivenNames u0
      have ku0 : Keeps [.cnt, .hif, .streams, .msgs, .frames, .plg, .egress, .slots, .sheaves, .groups, .plots, .waits, .yoke, .alert, .nextBuild, .nextSid] s u0 := by
        unfold u0
        split
        · refine keeps_ite ?_ ?_
          · refine Keeps.after ?_ (laterApply_keeps ..) rfl
            exact (Keeps.refl s)
          · refine keeps_ite ?_ ?_
            · refine Keeps.after ?_ (gleanWrite_keeps ..) rfl
              exact (Keeps.refl s)
            · exact (Keeps.refl s)
        · refine keeps_ite ?_ ?_
          · refine Keeps.after ?_ (msgGood_keeps ..) rfl
            exact (Keeps.refl s)
          · exact (Keeps.refl s)
      refine Keeps.after ?_ (settlePunts_keeps ..) rfl
      refine Keeps.after ?_ (forwardCopy_keeps ..) rfl
      exact ku0

theorem frameVerdict_keeps {a0 a1 s} :
    Keeps [.cnt, .hif, .streams, .msgs, .frames, .plg, .egress, .slots, .sheaves, .groups, .plots, .waits, .yoke, .alert, .nextBuild, .nextSid] s (frameVerdict a0 a1 s) := by
  delta frameVerdict
  split
  · exact (Keeps.refl s)
  · refine keeps_ite ?_ ?_
    · exact (Keeps.refl s)
    · extract_lets -merge -underBinder +onlyGivenNames u0
      have ku0 : Keeps [.cnt, .hif, .streams, .msgs, .frames, .plg, .egress, .slots, .sheaves, .groups, .plots, .waits, .yoke, .alert, .nextBuild, .nextSid] s u0 := by
        refine Keeps.after ?_ (updFrame_keeps ..) rfl
        exact (Keeps.refl s)
      refine keeps_ite ?_ ?_
      · extract_lets -merge -underBinder +onlyGivenNames u1 u2
        have ku1 : Keeps [.cnt, .hif, .streams, .msgs, .frames, .plg, .egress, .slots, .sheaves, .groups, .plots, .waits, .yoke, .alert, .nextBuild, .nextSid] s u1 := by
          refine Keeps.after ?_ (updFrame_keeps ..) rfl
          exact ku0
        have ku2 : Keeps [.cnt, .hif, .streams, .msgs, .frames, .plg, .egress, .slots, .sheaves, .groups, .plots, .waits, .yoke, .alert, .nextBuild, .nextSid] s u2 := by
          refine keeps_ite ?_ ?_
          · refine Keeps.after ?_ (msgGood_keeps ..) rfl
            exact ku1
          · exact ku1
        refine Keeps.after ?_ (settleGood_keeps ..) rfl
        exact ku2
      · extract_lets -merge -underBinder +onlyGivenNames u3 u4 u5
        have ku3 : Keeps [.cnt, .hif, .streams, .msgs, .frames, .plg, .egress, .slots, .sheaves, .groups, .plots, .waits, .yoke, .alert, .nextBuild, .nextSid] s u3 := by
          refine Keeps.after ?_ (frameBad_keeps ..) rfl
          exact ku0
        have ku4 : Keeps [.cnt, .hif, .streams, .msgs, .frames, .plg, .egress, .slots, .sheaves, .groups, .plots, .waits, .yoke, .alert, .nextBuild, .nextSid] s u4 := by
          unfold u4
          split
          · refine keeps_ite ?_ ?_
            · split
              · refine Keeps.after ?_ (gleanBad_keeps ..) rfl
                exact ku3
              · exact ku3
            · exact ku3
          · exact ku3
        have ku5 : Keeps [.cnt, .hif, .streams, .msgs, .frames, .plg, .egress, .slots, .sheaves, .groups, .plots, .waits, .yoke, .alert, .nextBuild, .nextSid] s u5 := by
          refine Keeps.after ?_ (updFrame_keeps ..) rfl
          exact ku4
        refine Keeps.after ?_ (settlePunts_keeps ..) rfl
        exact ku5

theorem declareGiant_keeps {a0 a1 s} :
    Keeps [.cnt, .hif, .streams, .msgs, .frames, .plg, .egress, .slots, .sheaves, .groups, .plots, .waits, .yoke, .alert, .nextBuild, .nextSid] s (declareGiant a0 a1 s) := by
  delta declareGiant
  split
  · exact (Keeps.refl s)
  · refine keeps_ite ?_ ?_
    · exact (Keeps.refl s)
    · extract_lets -merge -underBinder +onlyGivenNames u0 u1 u2
      have ku0 : Keeps [.cnt, .hif, .streams, .msgs, .frames, .plg, .egress, .slots, .sheaves, .groups, .plots, .waits, .yoke, .alert, .nextBuild, .nextSid] s u0 := by
        refine Keeps.after ?_ (frameBad_keeps ..) rfl
        exact (Keeps.refl s)
      have ku1 : Keeps [.cnt, .hif, .streams, .msgs, .frames, .plg, .egress, .slots, .sheaves, .groups, .plots, .waits, .yoke, .alert, .nextBuild, .nextSid] s u1 := by
        unfold u1
        split
        · refine keeps_ite ?_ ?_
          · split
            · refine Keeps.after ?_ (gleanBad_keeps ..) rfl
              exact ku0
            · exact ku0
          · exact ku0
        · exact ku0
      have ku2 : Keeps [.cnt, .hif, .streams, .msgs, .frames, .plg, .egress, .slots, .sheaves, .groups, .plots, .waits, .yoke, .alert, .nextBuild, .nextSid] s u2 := by
        refine Keeps.after ?_ (updFrame_keeps ..) rfl
        exact ku1
      refine Keeps.after ?_ (settlePunts_keeps ..) rfl
      exact ku2

theorem decideFrame_keeps {a0 a1 a2 s} :
    Keeps [.cnt, .hif, .streams, .msgs, .frames, .plg, .egress, .slots, .sheaves, .groups, .plots, .waits, .yoke, .alert, .nextBuild, .nextSid] s (decideFrame a0 a1 a2 s) := by
  delta decideFrame
  split
  · exact (Keeps.refl s)
  · extract_lets -merge -underBinder +onlyGivenNames u0
    have ku0 : Keeps [.cnt, .hif, .streams, .msgs, .frames, .plg, .egress, .slots, .sheaves, .groups, .plots, .waits, .yoke, .alert, .nextBuild, .nextSid] s u0 := by
      unfold u0
      split
      · refine Keeps.after ?_ (applyResult_keeps ..) rfl
        refine Keeps.after ?_ (updFrame_keeps ..) rfl
        refine Keeps.after ?_ (bump_keeps ..) rfl
        exact (Keeps.refl s)
      · refine Keeps.after ?_ (applyMiss_keeps ..) rfl
        exact (Keeps.refl s)
    split
    · exact ku0
    · extract_lets -merge -underBinder +onlyGivenNames u1
      have ku1 : Keeps [.cnt, .hif, .streams, .msgs, .frames, .plg, .egress, .slots, .sheaves, .groups, .plots, .waits, .yoke, .alert, .nextBuild, .nextSid] s u1 := by
        refine keeps_ite ?_ ?_
        · exact ku0
        · split
          · refine Keeps.after ?_ (notAdmitted_keeps ..) rfl
            exact ku0
          · refine Keeps.after ?_ (notAdmitted_keeps ..) rfl
            exact ku0
      refine Keeps.after ?_ (settlePunts_keeps ..) rfl
      refine Keeps.after ?_ (settleGood_keeps ..) rfl
      exact ku1

theorem classify_keeps {a0 a1 s} :
    Keeps [.cnt, .hif, .streams, .msgs, .frames, .plg, .egress, .slots, .sheaves, .groups, .plots, .waits, .yoke, .alert, .nextBuild, .nextSid] s (classify a0 a1 s) := by
  delta classify
  split
  · refine Keeps.after ?_ (decideFrame_keeps ..) rfl
    exact (Keeps.refl s)
  · refine keeps_ite ?_ ?_
    · refine Keeps.after ?_ (decideFrame_keeps ..) rfl
      refine Keeps.after ?_ (bump_keeps ..) rfl
      exact (Keeps.refl s)
    · refine Keeps.after ?_ (decideFrame_keeps ..) rfl
      exact (Keeps.refl s)

theorem parseWalk_keeps {a0 s} :
    Keeps [.cnt, .hif, .streams, .msgs, .frames, .plg, .egress, .slots, .sheaves, .groups, .plots, .waits, .yoke, .alert, .nextBuild, .nextSid] s (parseWalk a0 s) := by
  delta parseWalk
  split
  · exact (Keeps.refl s)
  · refine keeps_ite ?_ ?_
    · extract_lets -merge -underBinder +onlyGivenNames x0
      split
      · refine Keeps.after ?_ (updFrame_keeps ..) rfl
        exact (Keeps.refl s)
      · refine Keeps.after ?_ (updFrame_keeps ..) rfl
        exact (Keeps.refl s)
      · extract_lets -merge -underBinder +onlyGivenNames u1
        have ku1 : Keeps [.cnt, .hif, .streams, .msgs, .frames, .plg, .egress, .slots, .sheaves, .groups, .plots, .waits, .yoke, .alert, .nextBuild, .nextSid] s u1 := by
          refine Keeps.after ?_ (bump_keeps ..) rfl
          exact (Keeps.refl s)
        refine Keeps.after ?_ (decideFrame_keeps ..) rfl
        refine Keeps.after ?_ (updFrame_keeps ..) rfl
        exact ku1
      · extract_lets -merge -underBinder +onlyGivenNames x2 u3
        have ku3 : Keeps [.cnt, .hif, .streams, .msgs, .frames, .plg, .egress, .slots, .sheaves, .groups, .plots, .waits, .yoke, .alert, .nextBuild, .nextSid] s u3 := by
          refine Keeps.after ?_ (updFrame_keeps ..) rfl
          exact (Keeps.refl s)
        refine Keeps.after ?_ (classify_keeps ..) rfl
        exact ku3
    · exact (Keeps.refl s)

theorem laterFragment_keeps {a0 s} :
    Keeps [.cnt, .hif, .streams, .msgs, .frames, .plg, .egress, .slots, .sheaves, .groups, .plots, .waits, .yoke, .alert, .nextBuild, .nextSid] s (laterFragment a0 s) := by
  delta laterFragment
  split
  · exact (Keeps.refl s)
  · split
    · exact (Keeps.refl s)
    · refine keeps_ite ?_ ?_
      · exact (Keeps.refl s)
      · refine keeps_ite ?_ ?_
        · refine Keeps.after ?_ (settlePunts_keeps ..) rfl
          refine Keeps.after ?_ (applyFollower_keeps ..) rfl
          refine Keeps.after ?_ (followEntry_keeps ..) rfl
          exact (Keeps.refl s)
        · refine Keeps.after ?_ (holdFragment_keeps ..) rfl
          exact (Keeps.refl s)

theorem execLaterFragment_keeps {a0 s} :
    KeepsOut [.cnt, .hif, .streams, .msgs, .frames, .plg, .egress, .slots, .sheaves, .groups, .plots, .waits, .yoke, .bbs, .alert, .nextBuild, .nextSid] s (execLaterFragment a0 s) := by
  delta execLaterFragment
  refine out_next ?_
  refine Keeps.after ?_ (bbSettle_keeps ..) rfl
  refine Keeps.after ?_ (laterFragment_keeps ..) rfl
  exact (Keeps.refl s)

theorem fragHoldExpiry_keeps {a0 s} : Keeps [.cnt, .hif, .frames, .plg, .alert] s (fragHoldExpiry a0 s) := by
  delta fragHoldExpiry
  split
  · exact (Keeps.refl s)
  · refine keeps_ite ?_ ?_
    · refine Keeps.after ?_ (orphanFragment_keeps ..) rfl
      exact (Keeps.refl s)
    · exact (Keeps.refl s)

theorem execFragHoldExpiry_keeps {a0 s} :
    KeepsOut [.cnt, .hif, .msgs, .frames, .plg, .egress, .bbs, .alert] s (execFragHoldExpiry a0 s) := by
  delta execFragHoldExpiry
  refine out_next ?_
  refine Keeps.after ?_ (bbSettle_keeps ..) rfl
  refine Keeps.after ?_ (fragHoldExpiry_keeps ..) rfl
  exact (Keeps.refl s)

theorem gleanExpiry_keeps {a0 s} :
    Keeps [.cnt, .hif, .streams, .msgs, .frames, .plg, .egress, .slots, .sheaves, .groups, .plots, .waits, .yoke, .alert, .nextBuild, .nextSid] s (gleanExpiry a0 s) := by
  delta gleanExpiry
  split
  · exact (Keeps.refl s)
  · extract_lets -merge -underBinder +onlyGivenNames u0
    have ku0 : Keeps [.cnt, .hif, .streams, .msgs, .frames, .plg, .egress, .slots, .sheaves, .groups, .plots, .waits, .yoke, .alert, .nextBuild, .nextSid] s u0 := by
      refine Keeps.after ?_ (bump_keeps ..) rfl
      refine Keeps.after ?_ (setGleans_keeps ..) rfl
      exact (Keeps.refl s)
    refine Keeps.after ?_ (settlePunts_keeps ..) rfl
    refine Keeps.after ?_ (gleanBad_keeps ..) rfl
    exact ku0

theorem execGleanExpiry_keeps {a0 s} :
    KeepsOut [.cnt, .hif, .streams, .msgs, .frames, .plg, .egress, .slots, .sheaves, .groups, .plots, .waits, .yoke, .bbs, .alert, .nextBuild, .nextSid] s (execGleanExpiry a0 s) := by
  delta execGleanExpiry
  refine out_next ?_
  refine Keeps.after ?_ (bbSettle_keeps ..) rfl
  refine Keeps.after ?_ (gleanExpiry_keeps ..) rfl
  exact (Keeps.refl s)

theorem puntRefill_keeps {s} : Keeps [.plg] s (puntRefill s) := by
  delta puntRefill
  refine keeps_each ?_ (fun x0 u1 ku1 => ?_)
  · exact (Keeps.refl s)
  · refine Keeps.after ?_ (setPuntLevel_keeps ..) rfl
    exact ku1

theorem execPuntTokenRefill_keeps {s} : KeepsOut [.plg] s (execPuntTokenRefill s) := by
  delta execPuntTokenRefill
  refine out_next ?_
  refine Keeps.after ?_ (puntRefill_keeps ..) rfl
  exact (Keeps.refl s)

theorem refuse_keeps {a0 a1 s} : Keeps [.cnt, .hif, .frames, .plg, .alert] s (refuse a0 a1 s) := by
  delta refuse
  split
  · exact (Keeps.refl s)
  · extract_lets -merge -underBinder +onlyGivenNames u0 x1
    have ku0 : Keeps [.cnt, .hif, .frames, .plg, .alert] s u0 := by
      refine Keeps.after ?_ (updFrame_keeps ..) rfl
      exact (Keeps.refl s)
    refine Keeps.after ?_ (settlePunts_keeps ..) rfl
    refine Keeps.after ?_ (notAdmitted_keeps ..) rfl
    exact ku0

theorem launch_keeps {a0 s} :
    Keeps [.cnt, .hif, .streams, .msgs, .egress, .slots, .sheaves, .groups, .plots, .waits, .yoke, .alert, .nextBuild, .nextSid] s (launch a0 s) := by
  delta launch
  split
  · exact (Keeps.refl s)
  · extract_lets -merge -underBinder +onlyGivenNames x0 u1
    have ku1 : Keeps [.cnt, .hif, .streams, .msgs, .egress, .slots, .sheaves, .groups, .plots, .waits, .yoke, .alert, .nextBuild, .nextSid] s u1 := by
      refine Keeps.after ?_ (updMsg_keeps ..) rfl
      exact (Keeps.refl s)
    refine keeps_ite ?_ ?_
    · refine Keeps.after ?_ (failMsg_keeps ..) rfl
      exact ku1
    · refine keeps_ite ?_ ?_
      · refine Keeps.after ?_ (failMsg_keeps ..) rfl
        exact ku1
      · exact (Keeps.refl s)

theorem admitNow_keeps {a0 a1 s} :
    Keeps [.cnt, .hif, .streams, .msgs, .frames, .egress, .slots, .sheaves, .groups, .plots, .tiles, .switches, .sus, .fab, .waits, .yoke, .links, .hrw, .trc, .alert, .nextMid, .nextBuild, .nextSid] s (admitNow a0 a1 s) := by
  delta admitNow
  extract_lets -merge -underBinder +onlyGivenNames x0 x1 x2 x3 x4 u5 u6 u7 u8 x9 u10 u11
  have ku5 : Keeps [.cnt, .hif, .streams, .msgs, .frames, .egress, .slots, .sheaves, .groups, .plots, .tiles, .switches, .sus, .fab, .waits, .yoke, .links, .hrw, .trc, .alert, .nextMid, .nextBuild, .nextSid] s u5 := by
    refine Keeps.upd_msgs_nextMid ?_ rfl
    exact (Keeps.refl s)
  have ku6 : Keeps [.cnt, .hif, .streams, .msgs, .frames, .egress, .slots, .sheaves, .groups, .plots, .tiles, .switches, .sus, .fab, .waits, .yoke, .links, .hrw, .trc, .alert, .nextMid, .nextBuild, .nextSid] s u6 := by
    refine Keeps.after ?_ (updStream_keeps ..) rfl
    exact ku5
  have ku7 : Keeps [.cnt, .hif, .streams, .msgs, .frames, .egress, .slots, .sheaves, .groups, .plots, .tiles, .switches, .sus, .fab, .waits, .yoke, .links, .hrw, .trc, .alert, .nextMid, .nextBuild, .nextSid] s u7 := by
    refine Keeps.after ?_ (updFrame_keeps ..) rfl
    exact ku6
  have ku8 : Keeps [.cnt, .hif, .streams, .msgs, .frames, .egress, .slots, .sheaves, .groups, .plots, .tiles, .switches, .sus, .fab, .waits, .yoke, .links, .hrw, .trc, .alert, .nextMid, .nextBuild, .nextSid] s u8 := by
    refine Keeps.after ?_ (bump_keeps ..) rfl
    exact ku7
  have kx9 : Keeps [.cnt, .hif, .streams, .msgs, .frames, .egress, .slots, .sheaves, .groups, .plots, .tiles, .switches, .sus, .fab, .waits, .yoke, .links, .hrw, .trc, .alert, .nextMid, .nextBuild, .nextSid] s x9 := by
    refine keeps_ite ?_ ?_
    · refine keeps_ite ?_ ?_
      · exact ku8
      · refine Keeps.after ?_ (raise_keeps ..) rfl
        refine Keeps.after ?_ (updStream_keeps ..) rfl
        exact ku8
    · exact ku7
  have ku11 : Keeps [.cnt, .hif, .streams, .msgs, .frames, .egress, .slots, .sheaves, .groups, .plots, .tiles, .switches, .sus, .fab, .waits, .yoke, .links, .hrw, .trc, .alert, .nextMid, .nextBuild, .nextSid] s u11 := by
    refine keeps_ite ?_ ?_
    · refine Keeps.after ?_ (raise_keeps ..) rfl
      refine Keeps.after ?_ (updStream_keeps ..) rfl
      exact kx9
    · exact kx9
  extract_lets -merge -underBinder +onlyGivenNames u12
  have ku12 : Keeps [.cnt, .hif, .streams, .msgs, .frames, .egress, .slots, .sheaves, .groups, .plots, .tiles, .switches, .sus, .fab, .waits, .yoke, .links, .hrw, .trc, .alert, .nextMid, .nextBuild, .nextSid] s u12 := by
    refine Keeps.after ?_ (captureIod_keeps ..) rfl
    exact ku11
  refine keeps_ite ?_ ?_
  · refine Keeps.after ?_ (settleStream_keeps ..) rfl
    refine Keeps.after ?_ (attach_keeps ..) rfl
    refine Keeps.after ?_ (updMsg_keeps ..) rfl
    exact ku12
  · refine keeps_ite ?_ ?_
    · refine Keeps.after ?_ (bump_keeps ..) rfl
      refine Keeps.after ?_ (updMsg_keeps ..) rfl
      exact ku12
    · refine Keeps.after ?_ (readySheaves_keeps ..) rfl
      refine Keeps.after ?_ (gatherAll_keeps ..) rfl
      refine Keeps.after ?_ (launch_keeps ..) rfl
      exact ku12

theorem admitMessage_keeps {a0 s} :
    Keeps [.cnt, .hif, .streams, .msgs, .frames, .plg, .egress, .slots, .sheaves, .groups, .plots, .tiles, .switches, .sus, .fab, .waits, .yoke, .links, .hrw, .trc, .alert, .nextMid, .nextBuild, .nextSid] s (admitMessage a0 s) := by
  delta admitMessage
  split
  · exact (Keeps.refl s)
  · split
    · exact (Keeps.refl s)
    · refine keeps_ite ?_ ?_
      · exact (Keeps.refl s)
      · extract_lets -merge -underBinder +onlyGivenNames x0 x1
        refine keeps_ite ?_ ?_
        · refine Keeps.after ?_ (refuse_keeps ..) rfl
          refine Keeps.after ?_ (bump_keeps ..) rfl
          exact (Keeps.refl s)
        · refine keeps_ite ?_ ?_
          · refine Keeps.after ?_ (refuse_keeps ..) rfl
            exact (Keeps.refl s)
          · refine keeps_ite ?_ ?_
            · extract_lets -merge -underBinder +onlyGivenNames u2 u3
              have ku2 : Keeps [.cnt, .hif, .streams, .msgs, .frames, .plg, .egress, .slots, .sheaves, .groups, .plots, .tiles, .switches, .sus, .fab, .waits, .yoke, .links, .hrw, .trc, .alert, .nextMid, .nextBuild, .nextSid] s u2 := by
                refine Keeps.after ?_ (bump_keeps ..) rfl
                exact (Keeps.refl s)
              have ku3 : Keeps [.cnt, .hif, .streams, .msgs, .frames, .plg, .egress, .slots, .sheaves, .groups, .plots, .tiles, .switches, .sus, .fab, .waits, .yoke, .links, .hrw, .trc, .alert, .nextMid, .nextBuild, .nextSid] s u3 := by
                refine keeps_ite ?_ ?_
                · exact ku2
                · refine Keeps.after ?_ (raise_keeps ..) rfl
                  refine Keeps.after ?_ (updStream_keeps ..) rfl
                  exact ku2
              refine Keeps.after ?_ (refuse_keeps ..) rfl
              exact ku3
            · refine Keeps.after ?_ (settlePunts_keeps ..) rfl
              refine Keeps.after ?_ (admitNow_keeps ..) rfl
              exact (Keeps.refl s)

theorem execAdmitMessage_keeps {a0 s} :
    KeepsOut [.cnt, .hif, .streams, .msgs, .frames, .plg, .egress, .slots, .sheaves, .groups, .plots, .tiles, .switches, .sus, .fab, .waits, .yoke, .links, .hrw, .trc, .alert, .nextMid, .nextBuild, .nextSid] s (execAdmitMessage a0 s) := by
  delta execAdmitMessage
  refine out_next ?_
  refine Keeps.after ?_ (admitMessage_keeps ..) rfl
  exact (Keeps.refl s)

end Sys2Proof.Machine
end

