-- ==== Sys2Proof/Laws/KeepsYoke.lean ====
section
/-! SUPPORT. What each operation and command of Machine/Yoke.lean changes, and that it keeps the invariant. -/
namespace Sys2Proof.Machine

set_option Elab.async false

theorem startPlot_keeps {a0 s} : Keeps [.clk, .plots] s (startPlot a0 s) := by
  delta startPlot
  extract_lets -merge -underBinder +onlyGivenNames x0
  refine Keeps.after ?_ (updPlot_keeps ..) rfl
  refine Keeps.upd_clk ?_ rfl
  exact (Keeps.refl s)

theorem setYok_keeps {a0 s} : Keeps [.regYok, .cnt, .clk, .hif, .plots, .alert] s (setYok a0 s) := by
  delta setYok
  extract_lets -merge -underBinder +onlyGivenNames x0
  refine keeps_ite ?_ ?_
  · exact (Keeps.refl s)
  · extract_lets -merge -underBinder +onlyGivenNames u1 u2
    have ku1 : Keeps [.regYok, .cnt, .clk, .hif, .plots, .alert] s u1 := by
      refine keeps_ite ?_ ?_
      · refine Keeps.after ?_ (latchAlert_keeps ..) rfl
        exact (Keeps.refl s)
      · exact (Keeps.refl s)
    have ku2 : Keeps [.regYok, .cnt, .clk, .hif, .plots, .alert] s u2 := by
      refine keeps_ite ?_ ?_
      · refine keeps_each ?_ (fun x3 u4 ku4 => ?_)
        · exact ku1
        · refine Keeps.after ?_ (startPlot_keeps ..) rfl
          exact ku4
      · exact ku1
    refine Keeps.after ?_ (raise_keeps ..) rfl
    refine Keeps.after ?_ (setReg_in (b := .regYok) rfl) rfl
    exact ku2

theorem yokReport_keeps {s} : Keeps [.regYok] s (yokReport s) := by
  delta yokReport
  refine Keeps.after ?_ (setReg_in (b := .regYok) rfl) rfl
  refine Keeps.after ?_ (setReg_in (b := .regYok) rfl) rfl
  refine Keeps.after ?_ (setReg_in (b := .regYok) rfl) rfl
  refine Keeps.after ?_ (setReg_in (b := .regYok) rfl) rfl
  refine Keeps.after ?_ (setReg_in (b := .regYok) rfl) rfl
  exact (Keeps.refl s)

theorem beginRamp_keeps {s} : Keeps [.phase, .regYok, .cnt, .clk, .hif, .plots, .yoke, .alert] s (beginRamp s) := by
  delta beginRamp
  extract_lets -merge -underBinder +onlyGivenNames u0
  extract_lets -merge -underBinder +onlyGivenNames u1
  extract_lets -merge -underBinder +onlyGivenNames u2
  have ku2 : Keeps [.phase, .regYok, .cnt, .clk, .hif, .plots, .yoke, .alert] s u2 := by
    refine Keeps.upd_phase_yoke ?_ rfl
    exact (Keeps.refl s)
  refine Keeps.after ?_ (setYok_keeps ..) rfl
  exact ku2

theorem beginHold_keeps {s} : Keeps [.regYok, .yoke] s (beginHold s) := by
  delta beginHold
  extract_lets -merge -underBinder +onlyGivenNames x0
  refine Keeps.after ?_ (setReg_in (b := .regYok) rfl) rfl
  refine Keeps.upd_yoke ?_ rfl
  exact (Keeps.refl s)

theorem enterHoldoff_keeps {s} : Keeps [.phase, .regYok, .cnt, .clk, .hif, .plots, .yoke, .alert] s (enterHoldoff s) := by
  delta enterHoldoff
  refine Keeps.after ?_ (setYok_keeps ..) rfl
  refine Keeps.after ?_ (beginHold_keeps ..) rfl
  refine Keeps.upd_phase ?_ rfl
  exact (Keeps.refl s)

theorem drainRequest_keeps {s} : Keeps [.regYok, .cnt, .clk, .hif, .plots, .yoke, .alert] s (drainRequest s) := by
  delta drainRequest
  split
  · refine Keeps.upd_yoke ?_ rfl
    exact (Keeps.refl s)
  · refine Keeps.upd_yoke ?_ rfl
    exact (Keeps.refl s)
  · refine Keeps.after ?_ (setYok_keeps ..) rfl
    refine Keeps.upd_yoke ?_ rfl
    exact (Keeps.refl s)
  · refine Keeps.after ?_ (setYok_keeps ..) rfl
    refine Keeps.upd_yoke ?_ rfl
    exact (Keeps.refl s)
  · refine Keeps.after ?_ (setYok_keeps ..) rfl
    exact (Keeps.refl s)
  · refine Keeps.after ?_ (setYok_keeps ..) rfl
    exact (Keeps.refl s)
  · exact (Keeps.refl s)

theorem resumeRequest_keeps {a0 s} : Keeps [.phase, .regYok, .cnt, .clk, .hif, .plots, .yoke, .alert] s (resumeRequest a0 s) := by
  delta resumeRequest
  split
  · refine Keeps.after ?_ (beginRamp_keeps ..) rfl
    exact (Keeps.refl s)
  · refine keeps_ite ?_ ?_
    · exact (Keeps.refl s)
    · refine keeps_ite ?_ ?_
      · refine Keeps.after ?_ (beginRamp_keeps ..) rfl
        exact (Keeps.refl s)
      · refine Keeps.after ?_ (beginHold_keeps ..) rfl
        refine Keeps.upd_yoke ?_ rfl
        exact (Keeps.refl s)
  · exact (Keeps.refl s)

theorem adoptCeils_keeps {s} : Keeps [.regYok, .cnt, .hif, .yoke, .alert] s (adoptCeils s) := by
  unfold adoptCeils
  refine keeps_each (keeps_each (Keeps.upd_yoke (Keeps.refl s) rfl) ?_) (fun _ _ hu => hu.after raise_keeps rfl)
  intro k u hu
  refine hu.after (setReg_in (b := .regYok) ?_) rfl
  beta_reduce
  split
  · rfl
  · split <;> rfl

theorem adoptSet_keeps {a0 a1 s} : Keeps [.regYok, .cnt, .hif, .alert] s (adoptSet a0 a1 s) := by
  delta adoptSet
  split
  · exact (Keeps.refl s)
  · extract_lets -merge -underBinder +onlyGivenNames x0 x1 x2 u3
    have ku3 : Keeps [.regYok, .cnt, .hif, .alert] s u3 := by
      unfold u3
      unfold x2
      refine keeps_ite ?_ ?_
      · refine Keeps.after ?_ (setReg_in (b := .regYok) rfl) rfl
        refine keeps_ite ?_ ?_
        · refine Keeps.after ?_ (setReg_in (b := .regYok) rfl) rfl
          refine keeps_ite ?_ ?_
          · refine Keeps.after ?_ (setReg_in (b := .regYok) rfl) rfl
            refine keeps_ite ?_ ?_
            · refine Keeps.after ?_ (setReg_in (b := .regYok) rfl) rfl
              refine keeps_ite ?_ ?_
              · refine Keeps.after ?_ (setReg_in (b := .regYok) rfl) rfl
                exact (Keeps.refl s)
              · exact (Keeps.refl s)
            · refine keeps_ite ?_ ?_
              · refine Keeps.after ?_ (setReg_in (b := .regYok) rfl) rfl
                exact (Keeps.refl s)
              · exact (Keeps.refl s)
          · refine keeps_ite ?_ ?_
            · refine Keeps.after ?_ (setReg_in (b := .regYok) rfl) rfl
              refine keeps_ite ?_ ?_
              · refine Keeps.after ?_ (setReg_in (b := .regYok) rfl) rfl
                exact (Keeps.refl s)
              · exact (Keeps.refl s)
            · refine keeps_ite ?_ ?_
              · refine Keeps.after ?_ (setReg_in (b := .regYok) rfl) rfl
                exact (Keeps.refl s)
              · exact (Keeps.refl s)
        · refine keeps_ite ?_ ?_
          · refine Keeps.after ?_ (setReg_in (b := .regYok) rfl) rfl
            refine keeps_ite ?_ ?_
            · refine Keeps.after ?_ (setReg_in (b := .regYok) rfl) rfl
              refine keeps_ite ?_ ?_
              · refine Keeps.after ?_ (setReg_in (b := .regYok) rfl) rfl
                exact (Keeps.refl s)
              · exact (Keeps.refl s)
            · refine keeps_ite ?_ ?_
              · refine Keeps.after ?_ (setReg_in (b := .regYok) rfl) rfl
                exact (Keeps.refl s)
              · exact (Keeps.refl s)
          · refine keeps_ite ?_ ?_
            · refine Keeps.after ?_ (setReg_in (b := .regYok) rfl) rfl
              refine keeps_ite ?_ ?_
              · refine Keeps.after ?_ (setReg_in (b := .regYok) rfl) rfl
                exact (Keeps.refl s)
              · exact (Keeps.refl s)
            · refine keeps_ite ?_ ?_
              · refine Keeps.after ?_ (setReg_in (b := .regYok) rfl) rfl
                exact (Keeps.refl s)
              · exact (Keeps.refl s)
      · refine keeps_ite ?_ ?_
        · refine Keeps.after ?_ (setReg_in (b := .regYok) rfl) rfl
          refine keeps_ite ?_ ?_
          · refine Keeps.after ?_ (setReg_in (b := .regYok) rfl) rfl
            refine keeps_ite ?_ ?_
            · refine Keeps.after ?_ (setReg_in (b := .regYok) rfl) rfl
              refine keeps_ite ?_ ?_
              · refine Keeps.after ?_ (setReg_in (b := .regYok) rfl) rfl
                exact (Keeps.refl s)
              · exact (Keeps.refl s)
            · refine keeps_ite ?_ ?_
              · refine Keeps.after ?_ (setReg_in (b := .regYok) rfl) rfl
                exact (Keeps.refl s)
              · exact (Keeps.refl s)
          · refine keeps_ite ?_ ?_
            · refine Keeps.after ?_ (setReg_in (b := .regYok) rfl) rfl
              refine keeps_ite ?_ ?_
              · refine Keeps.after ?_ (setReg_in (b := .regYok) rfl) rfl
                exact (Keeps.refl s)
              · exact (Keeps.refl s)
            · refine keeps_ite ?_ ?_
              · refine Keeps.after ?_ (setReg_in (b := .regYok) rfl) rfl
                exact (Keeps.refl s)
              · exact (Keeps.refl s)
        · refine keeps_ite ?_ ?_
          · refine Keeps.after ?_ (setReg_in (b := .regYok) rfl) rfl
            refine keeps_ite ?_ ?_
            · refine Keeps.after ?_ (setReg_in (b := .regYok) rfl) rfl
              refine keeps_ite ?_ ?_
              · refine Keeps.after ?_ (setReg_in (b := .regYok) rfl) rfl
                exact (Keeps.refl s)
              · exact (Keeps.refl s)
            · refine keeps_ite ?_ ?_
              · refine Keeps.after ?_ (setReg_in (b := .regYok) rfl) rfl
                exact (Keeps.refl s)
              · exact (Keeps.refl s)
          · refine keeps_ite ?_ ?_
            · refine Keeps.after ?_ (setReg_in (b := .regYok) rfl) rfl
              refine keeps_ite ?_ ?_
              · refine Keeps.after ?_ (setReg_in (b := .regYok) rfl) rfl
                exact (Keeps.refl s)
              · exact (Keeps.refl s)
            · refine keeps_ite ?_ ?_
              · refine Keeps.after ?_ (setReg_in (b := .regYok) rfl) rfl
                exact (Keeps.refl s)
              · exact (Keeps.refl s)
    refine Keeps.after ?_ (complete_keeps ..) rfl
    exact ku3

theorem moveLevel_keeps {s} : Keeps [.yoke] s (moveLevel s) := by
  delta moveLevel
  extract_lets -merge -underBinder +onlyGivenNames x0 x1 x2 x3
  refine Keeps.upd_yoke ?_ rfl
  exact (Keeps.refl s)

theorem levelStates_keeps {s} : Keeps [.phase, .regYok, .cnt, .clk, .hif, .plots, .alert] s (levelStates s) := by
  delta levelStates
  split
  · refine keeps_ite ?_ ?_
    · refine Keeps.after ?_ (setYok_keeps ..) rfl
      refine Keeps.upd_phase ?_ rfl
      exact (Keeps.refl s)
    · exact (Keeps.refl s)
  · refine keeps_ite ?_ ?_
    · refine Keeps.after ?_ (setYok_keeps ..) rfl
      exact (Keeps.refl s)
    · exact (Keeps.refl s)
  · exact (Keeps.refl s)

theorem descendLost_keeps {s} : Keeps [.yoke] s (descendLost s) := by
  delta descendLost
  extract_lets -merge -underBinder +onlyGivenNames x0
  refine keeps_each ?_ (fun x1 u2 ku2 => ?_)
  · exact (Keeps.refl s)
  · refine Keeps.after ?_ (setYd_keeps ..) rfl
    exact ku2

theorem sendGrants_keeps {s} : Keeps [.yoke, .links] s (sendGrants s) := by
  delta sendGrants
  extract_lets -merge -underBinder +onlyGivenNames x0 x1 x2 x3 x4 x5 x6 x7 x8 x9 x10
  refine keeps_each ?_ (fun x11 u12 ku12 => ?_)
  · exact (Keeps.refl s)
  · extract_lets -merge -underBinder +onlyGivenNames x13
    refine Keeps.after ?_ (sendFlit_keeps ..) rfl
    refine Keeps.after ?_ (setYd_keeps ..) rfl
    exact ku12

theorem reportDemand_keeps {s} : Keeps [.yoke, .links] s (reportDemand s) := by
  delta reportDemand
  extract_lets -merge -underBinder +onlyGivenNames x0 u1
  have ku1 : Keeps [.yoke, .links] s u1 := by
    refine keeps_each ?_ (fun x2 u3 ku3 => ?_)
    · exact (Keeps.refl s)
    · refine Keeps.after ?_ (setYd_keeps ..) rfl
      exact ku3
  refine keeps_each ?_ (fun x4 u5 ku5 => ?_)
  · refine Keeps.upd_yoke ?_ rfl
    exact ku1
  · refine Keeps.after ?_ (sendFlit_keeps ..) rfl
    exact ku5

theorem bandCheck_keeps {a0 s} : Keeps [.cnt, .hif, .yoke, .alert] s (bandCheck a0 s) := by
  delta bandCheck
  extract_lets -merge -underBinder +onlyGivenNames x0 x1
  refine keeps_ite ?_ ?_
  · refine Keeps.upd_yoke ?_ rfl
    exact (Keeps.refl s)
  · extract_lets -merge -underBinder +onlyGivenNames x2 u3
    extract_lets -merge -underBinder +onlyGivenNames u4
    have ku4 : Keeps [.cnt, .hif, .yoke, .alert] s u4 := by
      refine Keeps.upd_yoke ?_ rfl
      exact (Keeps.refl s)
    refine keeps_ite ?_ ?_
    · exact ku4
    · extract_lets -merge -underBinder +onlyGivenNames u5 x6
      have ku5 : Keeps [.cnt, .hif, .yoke, .alert] s u5 := by
        refine Keeps.after ?_ (bump_keeps ..) rfl
        exact ku4
      refine keeps_ite ?_ ?_
      · refine Keeps.after ?_ (raise_keeps ..) rfl
        refine Keeps.upd_yoke ?_ rfl
        exact ku5
      · exact ku5

theorem countBallast_keeps {s} : Keeps [.cnt, .hif, .yoke, .alert] s (countBallast s) := by
  delta countBallast
  extract_lets -merge -underBinder +onlyGivenNames x0 x1 u2
  extract_lets -merge -underBinder +onlyGivenNames u3
  have ku3 : Keeps [.cnt, .hif, .yoke, .alert] s u3 := by
    refine Keeps.upd_yoke ?_ rfl
    exact (Keeps.refl s)
  refine keeps_ite ?_ ?_
  · exact ku3
  · refine Keeps.after ?_ (teleAdd_keeps ..) rfl
    refine Keeps.after ?_ (bump_keeps ..) rfl
    exact ku3

theorem askTdiv_keeps {a0 a1 s} : Keeps [.clk] s (askTdiv a0 a1 s) := by
  delta askTdiv
  refine Keeps.upd_clk ?_ rfl
  exact (Keeps.refl s)

theorem steerPlot_keeps {a0 s} : Keeps [.clk, .plots] s (steerPlot a0 s) := by
  delta steerPlot
  extract_lets -merge -underBinder +onlyGivenNames x0 x1 x2
  refine keeps_ite ?_ ?_
  · refine Keeps.after ?_ (askTdiv_keeps ..) rfl
    refine Keeps.after ?_ (setPlot_keeps ..) rfl
    exact (Keeps.refl s)
  · refine keeps_ite ?_ ?_
    · refine Keeps.after ?_ (setPlot_keeps ..) rfl
      exact (Keeps.refl s)
    · exact (Keeps.refl s)

theorem setDuties_keeps {a0 s} : Keeps [.plots] s (setDuties a0 s) := by
  delta setDuties
  refine keeps_each ?_ (fun x0 u1 ku1 => ?_)
  · exact (Keeps.refl s)
  · refine Keeps.after ?_ (updPlot_keeps ..) rfl
    exact ku1

theorem refreshCopies_keeps {s} : Keeps [.yoke] s (refreshCopies s) := by
  delta refreshCopies
  extract_lets -merge -underBinder +onlyGivenNames x0
  refine Keeps.upd_yoke ?_ rfl
  exact (Keeps.refl s)

theorem adoptBoard_keeps {s} : Keeps [.phase, .regYok, .cnt, .clk, .hif, .plots, .yoke, .alert] s (adoptBoard s) := by
  delta adoptBoard
  extract_lets -merge -underBinder +onlyGivenNames x0
  refine keeps_each ?_ (fun x1 u2 ku2 => ?_)
  · refine Keeps.upd_yoke ?_ rfl
    exact (Keeps.refl s)
  · refine Keeps.after ?_ (raise_keeps ..) rfl
    refine keeps_ite ?_ ?_
    · refine Keeps.after ?_ (drainRequest_keeps ..) rfl
      exact ku2
    · refine Keeps.after ?_ (resumeRequest_keeps ..) rfl
      exact ku2

theorem yokeEpoch_keeps {a0 a1 s} : Keeps [.phase, .regYok, .cnt, .clk, .hif, .plots, .yoke, .links, .alert] s (yokeEpoch a0 a1 s) := by
  delta yokeEpoch
  refine keeps_ite ?_ ?_
  · exact (Keeps.refl s)
  · extract_lets -merge -underBinder +onlyGivenNames u0 u1 x2 u3
    have ku1 : Keeps [.phase, .regYok, .cnt, .clk, .hif, .plots, .yoke, .links, .alert] s u1 := by
      refine Keeps.after ?_ (refreshCopies_keeps ..) rfl
      refine Keeps.upd_yoke ?_ rfl
      exact (Keeps.refl s)
    have kx2 : Keeps [.phase, .regYok, .cnt, .clk, .hif, .plots, .yoke, .links, .alert] s x2 := by
      refine Keeps.after ?_ (adoptCeils_keeps ..) rfl
      refine Keeps.after ?_ (adoptBoard_keeps ..) rfl
      exact ku1
    extract_lets -merge -underBinder +onlyGivenNames u4
    extract_lets -merge -underBinder +onlyGivenNames u5
    have ku5 : Keeps [.phase, .regYok, .cnt, .clk, .hif, .plots, .yoke, .links, .alert] s u5 := by
      refine keeps_each ?_ (fun x6 u7 ku7 => ?_)
      · refine Keeps.upd_yoke ?_ rfl
        exact kx2
      · refine Keeps.after ?_ (adoptSet_keeps ..) rfl
        exact ku7
    refine keeps_ite ?_ ?_
    · exact ku5
    · extract_lets -merge -underBinder +onlyGivenNames u8 u9 u10 u11 u12
      have ku8 : Keeps [.phase, .regYok, .cnt, .clk, .hif, .plots, .yoke, .links, .alert] s u8 := by
        refine Keeps.after ?_ (levelStates_keeps ..) rfl
        refine Keeps.after ?_ (moveLevel_keeps ..) rfl
        exact ku5
      have ku9 : Keeps [.phase, .regYok, .cnt, .clk, .hif, .plots, .yoke, .links, .alert] s u9 := by
        refine Keeps.after ?_ (reportDemand_keeps ..) rfl
        refine Keeps.after ?_ (sendGrants_keeps ..) rfl
        refine Keeps.after ?_ (descendLost_keeps ..) rfl
        exact ku8
      have ku10 : Keeps [.phase, .regYok, .cnt, .clk, .hif, .plots, .yoke, .links, .alert] s u10 := by
        refine Keeps.after ?_ (countBallast_keeps ..) rfl
        exact ku9
      have ku11 : Keeps [.phase, .regYok, .cnt, .clk, .hif, .plots, .yoke, .links, .alert] s u11 := by
        unfold u11
        split
        · refine Keeps.after ?_ (bandCheck_keeps ..) rfl
          refine Keeps.after ?_ (setReg_in (b := .regYok) rfl) rfl
          exact ku10
        · refine Keeps.after ?_ (setReg_in (b := .regYok) rfl) rfl
          refine Keeps.upd_yoke ?_ rfl
          exact ku10
      have ku12 : Keeps [.phase, .regYok, .cnt, .clk, .hif, .plots, .yoke, .links, .alert] s u12 := by
        refine Keeps.after ?_ (setDuties_keeps ..) rfl
        refine keeps_ite ?_ ?_
        · refine keeps_each ?_ (fun x13 u14 ku14 => ?_)
          · exact ku11
          · refine Keeps.after ?_ (steerPlot_keeps ..) rfl
            exact ku14
        · exact ku11
      refine Keeps.after ?_ (yokReport_keeps ..) rfl
      exact ku12

theorem execYokeEpoch_keeps {a0 a1 s} :
    KeepsOut [.phase, .regYok, .cnt, .clk, .hif, .plots, .yoke, .links, .alert] s (execYokeEpoch a0 a1 s) := by
  delta execYokeEpoch
  refine out_next ?_
  refine Keeps.after ?_ (yokeEpoch_keeps ..) rfl
  exact (Keeps.refl s)

theorem syncMirror_keeps {a0 s} : Keeps [.clk] s (syncMirror a0 s) := by
  delta syncMirror
  refine Keeps.upd_clk ?_ rfl
  exact (Keeps.refl s)

theorem grantReceived_keeps {a0 s} :
    Keeps [.cnt, .clk, .hif, .streams, .msgs, .egress, .slots, .sheaves, .groups, .plots, .tiles, .switches, .sus, .fab, .waits, .yoke, .links, .hrw, .trc, .alert, .nextBuild, .nextSid] s (grantReceived a0 s) := by
  delta grantReceived
  extract_lets -merge -underBinder +onlyGivenNames x0
  split
  · exact (Keeps.refl s)
  · refine keeps_ite ?_ ?_
    · refine Keeps.after ?_ (setYd_keeps ..) rfl
      exact (Keeps.refl s)
    · extract_lets -merge -underBinder +onlyGivenNames u1 u2 u3
      have ku1 : Keeps [.cnt, .clk, .hif, .streams, .msgs, .egress, .slots, .sheaves, .groups, .plots, .tiles, .switches, .sus, .fab, .waits, .yoke, .links, .hrw, .trc, .alert, .nextBuild, .nextSid] s u1 := by
        refine Keeps.after ?_ (setYd_keeps ..) rfl
        exact (Keeps.refl s)
      have ku2 : Keeps [.cnt, .clk, .hif, .streams, .msgs, .egress, .slots, .sheaves, .groups, .plots, .tiles, .switches, .sus, .fab, .waits, .yoke, .links, .hrw, .trc, .alert, .nextBuild, .nextSid] s u2 := by
        unfold u2
        split
        · refine Keeps.after ?_ (raiseOn_keeps ..) rfl
          exact ku1
        · exact ku1
      have ku3 : Keeps [.cnt, .clk, .hif, .streams, .msgs, .egress, .slots, .sheaves, .groups, .plots, .tiles, .switches, .sus, .fab, .waits, .yoke, .links, .hrw, .trc, .alert, .nextBuild, .nextSid] s u3 := by
        refine Keeps.after ?_ (syncMirror_keeps ..) rfl
        exact ku2
      refine keeps_ite ?_ ?_
      · refine Keeps.after ?_ (readySheaves_keeps ..) rfl
        exact ku3
      · exact ku3

theorem execGrantReceived_keeps {a0 s} :
    KeepsOut [.cnt, .clk, .hif, .streams, .msgs, .egress, .slots, .sheaves, .groups, .plots, .tiles, .switches, .sus, .fab, .waits, .yoke, .links, .hrw, .trc, .alert, .nextBuild, .nextSid] s (execGrantReceived a0 s) := by
  delta execGrantReceived
  refine out_next ?_
  refine Keeps.after ?_ (grantReceived_keeps ..) rfl
  exact (Keeps.refl s)

theorem grantMissing_keeps {a0 s} :
    Keeps [.cnt, .hif, .streams, .msgs, .egress, .slots, .sheaves, .groups, .plots, .tiles, .switches, .sus, .fab, .waits, .yoke, .links, .hrw, .alert, .nextBuild, .nextSid] s (grantMissing a0 s) := by
  delta grantMissing
  extract_lets -merge -underBinder +onlyGivenNames x0 x1 x2
  refine keeps_ite ?_ ?_
  · exact (Keeps.refl s)
  · refine keeps_ite ?_ ?_
    · extract_lets -merge -underBinder +onlyGivenNames u3
      have ku3 : Keeps [.cnt, .hif, .streams, .msgs, .egress, .slots, .sheaves, .groups, .plots, .tiles, .switches, .sus, .fab, .waits, .yoke, .links, .hrw, .alert, .nextBuild, .nextSid] s u3 := by
        refine Keeps.after ?_ (setYd_keeps ..) rfl
        exact (Keeps.refl s)
      refine keeps_ite ?_ ?_
      · refine Keeps.after ?_ (readySheaves_keeps ..) rfl
        exact ku3
      · exact ku3
    · extract_lets -merge -underBinder +onlyGivenNames u4 x5 x6 u7
      have ku4 : Keeps [.cnt, .hif, .streams, .msgs, .egress, .slots, .sheaves, .groups, .plots, .tiles, .switches, .sus, .fab, .waits, .yoke, .links, .hrw, .alert, .nextBuild, .nextSid] s u4 := by
        refine keeps_ite ?_ ?_
        · refine Keeps.after ?_ (bump_keeps ..) rfl
          exact (Keeps.refl s)
        · exact (Keeps.refl s)
      have ku7 : Keeps [.cnt, .hif, .streams, .msgs, .egress, .slots, .sheaves, .groups, .plots, .tiles, .switches, .sus, .fab, .waits, .yoke, .links, .hrw, .alert, .nextBuild, .nextSid] s u7 := by
        refine Keeps.after ?_ (setYd_keeps ..) rfl
        exact ku4
      refine keeps_ite ?_ ?_
      · refine Keeps.after ?_ (readySheaves_keeps ..) rfl
        exact ku7
      · exact ku7

theorem execGrantMissing_keeps {a0 s} :
    KeepsOut [.cnt, .hif, .streams, .msgs, .egress, .slots, .sheaves, .groups, .plots, .tiles, .switches, .sus, .fab, .waits, .yoke, .links, .hrw, .alert, .nextBuild, .nextSid] s (execGrantMissing a0 s) := by
  delta execGrantMissing
  refine out_next ?_
  refine Keeps.after ?_ (grantMissing_keeps ..) rfl
  exact (Keeps.refl s)

theorem cpmMarginLoss_keeps {a0 s} : Keeps [.cnt, .clk, .hif, .plots, .alert] s (cpmMarginLoss a0 s) := by
  delta cpmMarginLoss
  extract_lets -merge -underBinder +onlyGivenNames x0 x1
  refine keeps_ite ?_ ?_
  · exact (Keeps.refl s)
  · refine keeps_ite ?_ ?_
    · refine Keeps.after ?_ (setPlot_keeps ..) rfl
      exact (Keeps.refl s)
    · refine keeps_ite ?_ ?_
      · refine Keeps.after ?_ (bump_keeps ..) rfl
        refine Keeps.after ?_ (askTdiv_keeps ..) rfl
        refine Keeps.after ?_ (setPlot_keeps ..) rfl
        exact (Keeps.refl s)
      · exact (Keeps.refl s)

theorem execCpmMarginLoss_keeps {a0 s} : KeepsOut [.cnt, .clk, .hif, .plots, .alert] s (execCpmMarginLoss a0 s) := by
  delta execCpmMarginLoss
  refine out_next ?_
  refine Keeps.after ?_ (cpmMarginLoss_keeps ..) rfl
  exact (Keeps.refl s)

theorem cpmRetry_keeps {a0 s} : Keeps [.clk, .plots] s (cpmRetry a0 s) := by
  delta cpmRetry
  extract_lets -merge -underBinder +onlyGivenNames x0
  refine keeps_ite ?_ ?_
  · exact (Keeps.refl s)
  · extract_lets -merge -underBinder +onlyGivenNames u1
    have ku1 : Keeps [.clk, .plots] s u1 := by
      refine Keeps.after ?_ (setPlot_keeps ..) rfl
      exact (Keeps.refl s)
    refine keeps_ite ?_ ?_
    · refine Keeps.after ?_ (steerPlot_keeps ..) rfl
      exact ku1
    · exact ku1

theorem execCpmRetry_keeps {a0 s} : KeepsOut [.clk, .plots] s (execCpmRetry a0 s) := by
  delta execCpmRetry
  refine out_next ?_
  refine Keeps.after ?_ (cpmRetry_keeps ..) rfl
  exact (Keeps.refl s)

theorem ldoTargetReached_keeps {a0 a1 s} : Keeps [.clk, .plots] s (ldoTargetReached a0 a1 s) := by
  delta ldoTargetReached
  extract_lets -merge -underBinder +onlyGivenNames x0
  refine keeps_ite ?_ ?_
  · exact (Keeps.refl s)
  · extract_lets -merge -underBinder +onlyGivenNames u1
    have ku1 : Keeps [.clk, .plots] s u1 := by
      refine Keeps.after ?_ (setPlot_keeps ..) rfl
      exact (Keeps.refl s)
    refine keeps_ite ?_ ?_
    · refine Keeps.after ?_ (askTdiv_keeps ..) rfl
      exact ku1
    · exact ku1

theorem execLdoTargetReached_keeps {a0 a1 s} : KeepsOut [.clk, .plots] s (execLdoTargetReached a0 a1 s) := by
  delta execLdoTargetReached
  refine out_next ?_
  refine Keeps.after ?_ (ldoTargetReached_keeps ..) rfl
  exact (Keeps.refl s)

theorem thermalCap_keeps {a0 a1 s} : Keeps [.cnt, .clk, .hif, .plots, .links, .trc, .alert] s (thermalCap a0 a1 s) := by
  delta thermalCap
  extract_lets -merge -underBinder +onlyGivenNames x0 x1 x2 u3 u4 u5
  have ku3 : Keeps [.cnt, .clk, .hif, .plots, .links, .trc, .alert] s u3 := by
    refine Keeps.after ?_ (setPlot_keeps ..) rfl
    exact (Keeps.refl s)
  have ku4 : Keeps [.cnt, .clk, .hif, .plots, .links, .trc, .alert] s u4 := by
    refine keeps_ite ?_ ?_
    · exact ku3
    · refine Keeps.after ?_ (raiseOn_keeps ..) rfl
      exact ku3
  have ku5 : Keeps [.cnt, .clk, .hif, .plots, .links, .trc, .alert] s u5 := by
    refine keeps_ite ?_ ?_
    · refine Keeps.after ?_ (raiseOn_keeps ..) rfl
      exact ku4
    · exact ku4
  refine keeps_ite ?_ ?_
  · refine Keeps.after ?_ (steerPlot_keeps ..) rfl
    exact ku5
  · exact ku5

theorem execThermalCapChange_keeps {a0 a1 s} :
    KeepsOut [.cnt, .clk, .hif, .plots, .links, .trc, .alert] s (execThermalCapChange a0 a1 s) := by
  delta execThermalCapChange
  refine out_next ?_
  refine Keeps.after ?_ (thermalCap_keeps ..) rfl
  exact (Keeps.refl s)

theorem tdivChangeRequest_keeps {a0 a1 s} : Keeps [.clk] s (tdivChangeRequest a0 a1 s) := by
  delta tdivChangeRequest
  extract_lets -merge -underBinder +onlyGivenNames x0
  refine keeps_ite ?_ ?_
  · exact (Keeps.refl s)
  · refine Keeps.after ?_ (askTdiv_keeps ..) rfl
    exact (Keeps.refl s)

theorem execTdivChangeRequest_keeps {a0 a1 s} : KeepsOut [.clk] s (execTdivChangeRequest a0 a1 s) := by
  delta execTdivChangeRequest
  refine out_next ?_
  refine Keeps.after ?_ (tdivChangeRequest_keeps ..) rfl
  exact (Keeps.refl s)

theorem tdivSwitch_keeps {a0 s} : Keeps [.clk, .plots] s (tdivSwitch a0 s) := by
  delta tdivSwitch
  extract_lets -merge -underBinder +onlyGivenNames x0
  refine keeps_ite ?_ ?_
  · exact (Keeps.refl s)
  · extract_lets -merge -underBinder +onlyGivenNames u1
    extract_lets -merge -underBinder +onlyGivenNames u2
    have ku2 : Keeps [.clk, .plots] s u2 := by
      refine Keeps.upd_clk ?_ rfl
      exact (Keeps.refl s)
    refine Keeps.after ?_ (updPlot_keeps ..) rfl
    exact ku2

theorem execTdivSwitch_keeps {a0 s} : KeepsOut [.clk, .plots] s (execTdivSwitch a0 s) := by
  delta execTdivSwitch
  refine out_next ?_
  refine Keeps.after ?_ (tdivSwitch_keeps ..) rfl
  exact (Keeps.refl s)

theorem calDie_keeps {a0 a1 a2 s} : Keeps [.cnt, .hif, .yoke, .links, .trc, .alert] s (calDie a0 a1 a2 s) := by
  delta calDie
  extract_lets -merge -underBinder +onlyGivenNames x0 x1
  refine keeps_ite ?_ ?_
  · exact (Keeps.refl s)
  · extract_lets -merge -underBinder +onlyGivenNames x2 x3
    refine keeps_ite ?_ ?_
    · extract_lets -merge -underBinder +onlyGivenNames x4 u5
      have ku5 : Keeps [.cnt, .hif, .yoke, .links, .trc, .alert] s u5 := by
        refine Keeps.after ?_ (setYd_keeps ..) rfl
        exact (Keeps.refl s)
      refine keeps_ite ?_ ?_
      · refine Keeps.after ?_ (raiseOn_keeps ..) rfl
        refine Keeps.after ?_ (bump_keeps ..) rfl
        exact ku5
      · exact ku5
    · extract_lets -merge -underBinder +onlyGivenNames x6
      refine Keeps.after ?_ (setYd_keeps ..) rfl
      exact (Keeps.refl s)

theorem calibrationRefit_keeps {a0 a1 s} : Keeps [.cnt, .hif, .yoke, .links, .trc, .alert] s (calibrationRefit a0 a1 s) := by
  delta calibrationRefit
  refine keeps_each ?_ (fun x0 u1 ku1 => ?_)
  · exact (Keeps.refl s)
  · refine Keeps.after ?_ (calDie_keeps ..) rfl
    exact ku1

theorem execCalibrationRefit_keeps {a0 a1 s} : KeepsOut [.cnt, .hif, .yoke, .links, .trc, .alert] s (execCalibrationRefit a0 a1 s) := by
  delta execCalibrationRefit
  refine out_next ?_
  refine keeps_ite ?_ ?_
  · refine Keeps.after ?_ (calibrationRefit_keeps ..) rfl
    exact (Keeps.refl s)
  · exact (Keeps.refl s)

theorem holdoffExpiry_keeps {s} : Keeps [.phase, .regYok, .cnt, .clk, .hif, .plots, .yoke, .alert] s (holdoffExpiry s) := by
  delta holdoffExpiry
  refine keeps_ite ?_ ?_
  · refine Keeps.after ?_ (beginRamp_keeps ..) rfl
    exact (Keeps.refl s)
  · exact (Keeps.refl s)

theorem execHoldoffExpiry_keeps {s} : KeepsOut [.phase, .regYok, .cnt, .clk, .hif, .plots, .yoke, .alert] s (execHoldoffExpiry s) := by
  delta execHoldoffExpiry
  refine out_next ?_
  refine Keeps.after ?_ (holdoffExpiry_keeps ..) rfl
  exact (Keeps.refl s)

theorem schedSlotTime_keeps {s} : Keeps [.phase, .regYok, .cnt, .clk, .hif, .plots, .yoke, .alert] s (schedSlotTime s) := by
  delta schedSlotTime
  extract_lets -merge -underBinder +onlyGivenNames x0 x1 u2 u3
  have ku3 : Keeps [.phase, .regYok, .cnt, .clk, .hif, .plots, .yoke, .alert] s u3 := by
    refine Keeps.upd_yoke ?_ rfl
    exact (Keeps.refl s)
  extract_lets -merge -underBinder +onlyGivenNames u4 u5
  have ku4 : Keeps [.phase, .regYok, .cnt, .clk, .hif, .plots, .yoke, .alert] s u4 := by
    refine keeps_ite ?_ ?_
    · refine keeps_ite ?_ ?_
      · refine Keeps.after ?_ (beginRamp_keeps ..) rfl
        exact ku3
      · exact ku3
    · exact (Keeps.refl s)
  extract_lets -merge -underBinder +onlyGivenNames u6
  have ku6 : Keeps [.phase, .regYok, .cnt, .clk, .hif, .plots, .yoke, .alert] s u6 := by
    refine Keeps.upd_yoke ?_ rfl
    exact ku4
  extract_lets -merge -underBinder +onlyGivenNames u7
  have ku7 : Keeps [.phase, .regYok, .cnt, .clk, .hif, .plots, .yoke, .alert] s u7 := by
    refine keeps_ite ?_ ?_
    · refine keeps_ite ?_ ?_
      · refine Keeps.after ?_ (drainRequest_keeps ..) rfl
        exact ku6
      · exact ku6
    · exact ku4
  split
  · refine keeps_ite ?_ ?_
    · refine Keeps.upd_yoke ?_ rfl
      exact ku7
    · exact ku7
  · exact ku7

theorem execSchedSlotTime_keeps {s} : KeepsOut [.phase, .regYok, .cnt, .clk, .hif, .plots, .yoke, .alert] s (execSchedSlotTime s) := by
  delta execSchedSlotTime
  refine out_next ?_
  refine Keeps.after ?_ (schedSlotTime_keeps ..) rfl
  exact (Keeps.refl s)

theorem yokSched_keeps {a0 s} : Keeps [.phase, .regYok, .cnt, .clk, .hif, .plots, .yoke, .alert] s (yokSched a0 s) := by
  delta yokSched
  extract_lets -merge -underBinder +onlyGivenNames x0 x1 x2
  refine keeps_ite ?_ ?_
  · refine Keeps.after ?_ (bump_keeps ..) rfl
    exact (Keeps.refl s)
  · extract_lets -merge -underBinder +onlyGivenNames x3 x4 x5 x6 x7
    refine keeps_ite ?_ ?_
    · exact (Keeps.refl s)
    · extract_lets -merge -underBinder +onlyGivenNames u8
      have ku8 : Keeps [.phase, .regYok, .cnt, .clk, .hif, .plots, .yoke, .alert] s u8 := by
        unfold u8
        clear_value x0
        split
        · refine Keeps.upd_yoke ?_ rfl
          exact (Keeps.refl s)
        · refine Keeps.upd_yoke ?_ rfl
          exact (Keeps.refl s)
        · refine Keeps.upd_yoke ?_ rfl
          exact (Keeps.refl s)
      refine Keeps.after ?_ (schedSlotTime_keeps ..) rfl
      refine Keeps.after ?_ (raise_keeps ..) rfl
      exact ku8

theorem schedFrame_keeps {a0 s} : Keeps [.phase, .regYok, .cnt, .clk, .hif, .frames, .plg, .plots, .yoke, .alert] s (schedFrame a0 s) := by
  delta schedFrame
  split
  · exact (Keeps.refl s)
  · refine keeps_ite ?_ ?_
    · refine Keeps.after ?_ (yokSched_keeps ..) rfl
      refine Keeps.after ?_ (settlePunts_keeps ..) rfl
      refine Keeps.after ?_ (dropFrame_keeps ..) rfl
      refine Keeps.after ?_ (bbpCount_keeps ..) rfl
      exact (Keeps.refl s)
    · exact (Keeps.refl s)

theorem execSchedFrame_keeps {a0 s} :
    KeepsOut [.phase, .regYok, .cnt, .clk, .hif, .msgs, .frames, .plg, .egress, .plots, .yoke, .bbs, .alert] s (execSchedFrame a0 s) := by
  delta execSchedFrame
  refine out_next ?_
  refine Keeps.after ?_ (bbSettle_keeps ..) rfl
  refine Keeps.after ?_ (schedFrame_keeps ..) rfl
  exact (Keeps.refl s)

theorem schedTimeout_keeps {s} : Keeps [.regYok, .cnt, .hif, .yoke, .alert] s (schedTimeout s) := by
  delta schedTimeout
  refine keeps_ite ?_ ?_
  · refine Keeps.after ?_ (raise_keeps ..) rfl
    refine Keeps.after ?_ (setReg_in (b := .regYok) rfl) rfl
    refine Keeps.upd_yoke ?_ rfl
    exact (Keeps.refl s)
  · exact (Keeps.refl s)

theorem execYokSchedTimeout_keeps {s} : KeepsOut [.regYok, .cnt, .hif, .yoke, .alert] s (execYokSchedTimeout s) := by
  delta execYokSchedTimeout
  refine out_next ?_
  refine Keeps.after ?_ (schedTimeout_keeps ..) rfl
  exact (Keeps.refl s)

theorem yokeSet_keeps {ps op q pos f s t} (h : Keeps ps s t) (hq : subParts [.cnt, .hif, .alert] ps = true)
    (hf : ∀ b u, Keeps ps s u → Keeps ps s (f b u)) : Keeps ps s (yokeSet op q pos f t) := by
  unfold yokeSet
  refine descRun_keeps h (subParts_trans rfl hq) (fun b u hu => keeps_ite ?_ (hf _ _ hu))
  exact hu.after (complete_keeps.weaken rfl) hq

theorem execYokeSetSet_keeps {a0 a1 s} : KeepsOut [.cnt, .hif, .yoke, .alert] s (execYokeSetSet a0 a1 s) := by
  delta execYokeSetSet
  refine out_next ?_
  refine yokeSet_keeps ?_ rfl (fun x0 u1 ku1 => ?_)
  · exact (Keeps.refl s)
  · refine keeps_ite ?_ ?_
    · exact ku1
    · extract_lets -merge -underBinder +onlyGivenNames x2
      refine Keeps.upd_yoke ?_ rfl
      exact ku1

theorem execYokeSetDrain_keeps {a0 a1 s} : KeepsOut [.regYok, .cnt, .clk, .hif, .plots, .yoke, .alert] s (execYokeSetDrain a0 a1 s) := by
  delta execYokeSetDrain
  refine out_next ?_
  refine yokeSet_keeps ?_ rfl (fun x0 u1 ku1 => ?_)
  · exact (Keeps.refl s)
  · refine Keeps.after ?_ (complete_keeps ..) rfl
    refine Keeps.after ?_ (drainRequest_keeps ..) rfl
    exact ku1

theorem execYokeSetResume_keeps {a0 a1 s} :
    KeepsOut [.phase, .regYok, .cnt, .clk, .hif, .plots, .yoke, .alert] s (execYokeSetResume a0 a1 s) := by
  delta execYokeSetResume
  refine out_next ?_
  refine yokeSet_keeps ?_ rfl (fun x0 u1 ku1 => ?_)
  · exact (Keeps.refl s)
  · refine Keeps.after ?_ (complete_keeps ..) rfl
    refine Keeps.after ?_ (resumeRequest_keeps ..) rfl
    exact ku1

theorem telemetryTick_keeps {a0 s} : Keeps [.cnt, .hif, .alert] s (telemetryTick a0 s) := by
  delta telemetryTick
  refine keeps_ite ?_ ?_
  · exact (Keeps.refl s)
  · extract_lets -merge -underBinder +onlyGivenNames u0
    extract_lets -merge -underBinder +onlyGivenNames u1
    have ku1 : Keeps [.cnt, .hif, .alert] s u1 := by
      refine Keeps.upd_hif ?_ rfl
      exact (Keeps.refl s)
    refine keeps_ite ?_ ?_
    · refine Keeps.after ?_ (bump_keeps ..) rfl
      exact ku1
    · extract_lets -merge -underBinder +onlyGivenNames u2
      have ku2 : Keeps [.cnt, .hif, .alert] s u2 := by
        refine Keeps.after ?_ (writeEntry_keeps ..) rfl
        exact ku1
      refine Keeps.upd_hif ?_ rfl
      exact ku2

theorem execTelemetryTick_keeps {a0 s} : KeepsOut [.cnt, .hif, .alert] s (execTelemetryTick a0 s) := by
  delta execTelemetryTick
  refine out_next ?_
  refine Keeps.after ?_ (telemetryTick_keeps ..) rfl
  exact (Keeps.refl s)

end Sys2Proof.Machine
end

