-- ==== Sys2Proof/Laws/Fields.lean ====
section
/-! SUPPORT. The larger operations, field by field: what each leaves as it was. -/
namespace Sys2Proof.Machine

set_option Elab.async false

variable {ps : List Piece} {s t : State}

/-- A piece that is not among those that may change is the same. -/
theorem Keeps.at (k : Keeps ps s t) (p : Piece) (h : subParts [p] ps = false) : p.same s t :=
  k.only p (fun hp => by rw [subParts_single hp] at h; exact absurd h (by decide))

theorem Keeps.of_apart (k : Keeps ps s t) {qs : List Piece} (h : (pieceBits qs &&& pieceBits ps == 0) = true) {p : Piece} (hp : p ∈ qs) : p.same s t :=
  k.only p (fun hm => by
    have h1 := testBit_pieceBits.mpr hp
    have h2 := testBit_pieceBits.mpr hm
    have h3 : (pieceBits qs &&& pieceBits ps).testBit p.ctorIdx = true := by rw [Nat.testBit_and, h1, h2]; rfl
    rw [beq_iff_eq.mp h, Nat.zero_testBit] at h3
    exact absurd h3 (by decide))

theorem Keeps.glb_eq (k : Keeps ps s t) (h : (pieceBits [.run, .phase, .fatal, .trip, .rail, .fuses, .dies, .glb] &&& pieceBits ps == 0) = true) :
    t.glb = s.glb := by
  have a := fun p hp => k.of_apart h (p := p) hp
  have h1 := a .run (by decide); have h2 := a .phase (by decide); have h3 := a .fatal (by decide); have h4 := a .trip (by decide)
  have h5 := a .rail (by decide); have h6 := a .fuses (by decide); have h7 := a .dies (by decide)
  have h8 := a .glb (by decide)
  simp only [Piece.same] at h1 h2 h3 h4 h5 h6 h7 h8
  rw [← h8]
  simp only [restGlb, ← h1, ← h2, ← h3, ← h4, ← h5, ← h6.1, ← h6.2, ← h7.1, ← h7.2]

theorem Keeps.mem_eq (k : Keeps ps s t) (h : (pieceBits [.hbm, .poison, .mem] &&& pieceBits ps == 0) = true) : t.mem = s.mem := by
  have a := fun p hp => k.of_apart h (p := p) hp
  have h1 := a .hbm (by decide); have h2 := a .poison (by decide); have h3 := a .mem (by decide)
  simp only [Piece.same] at h1 h2 h3
  rw [← h3]
  simp only [restMem, ← h1, ← h2]

theorem regBlock_regParts {off : Nat} : regBlock off ∈ regParts := regBlock_any

theorem Keeps.getReg_eq (k : Keeps ps s t) {off : Nat} (h : (pieceBits regParts &&& pieceBits ps == 0) = true) : getReg t off = getReg s off := by
  have hs := k.of_apart h (p := regBlock off) regBlock_regParts
  have key : ∀ b : Piece, b ∈ regParts → b.same s t → regBlock off = b → getReg t off = getReg s off := by
    intro b hb hsb e
    simp only [regParts, List.mem_cons, List.not_mem_nil, or_false] at hb
    rcases hb with rfl | rfl | rfl | rfl | rfl | rfl | rfl | rfl | rfl | rfl | rfl | rfl | rfl | rfl | rfl | rfl <;> exact hsb off e
  exact key _ regBlock_regParts hs rfl

/-- A register of another block than those that may change reads as before. -/
theorem Keeps.getReg_at (k : Keeps ps s t) {off : Nat} (h : regBlock off ∉ ps) : getReg t off = getReg s off := by
  have hs := k.only _ h
  have key : ∀ b : Piece, b ∈ regParts → b.same s t → regBlock off = b → getReg t off = getReg s off := by
    intro b hb hsb e
    simp only [regParts, List.mem_cons, List.not_mem_nil, or_false] at hb
    rcases hb with rfl | rfl | rfl | rfl | rfl | rfl | rfl | rfl | rfl | rfl | rfl | rfl | rfl | rfl | rfl | rfl <;> exact hsb off e
  exact key _ regBlock_regParts hs rfl

/-! ### Reads of registers -/

theorem getReg_setReg {off j v : Nat} : getReg (setReg off v s) j = if j = off then v % 2 ^ 32 else getReg s j := by
  unfold getReg setReg
  split
  · next h => subst h; simp
  · next h => simp only [tget_tset_other h]

@[simp] theorem getReg_setReg_same {off v : Nat} : getReg (setReg off v s) off = v % 2 ^ 32 := by simp [getReg_setReg]

@[simp] theorem getReg_setReg_other {off j v : Nat} (h : j ≠ off) : getReg (setReg off v s) j = getReg s j := by simp [getReg_setReg, h]

theorem getReg_lt {off : Nat} : getReg s off < 2 ^ 32 := (tget (regReset off) off s.regs).isLt

@[simp] theorem getReg_orReg_same {off v : Nat} : getReg (orReg off v s) off = (getReg s off ||| v) % 2 ^ 32 := by simp [orReg]

@[simp] theorem getReg_orReg_other {off j v : Nat} (h : j ≠ off) : getReg (orReg off v s) j = getReg s j := by simp [orReg, h]

/-! ### Fields -/

@[simp] theorem orReg_glb {off v} : (orReg off v s).glb = s.glb := by rfl
@[simp] theorem orReg_mem {off v} : (orReg off v s).mem = s.mem := by rfl
@[simp] theorem orReg_cnt {off v} : (orReg off v s).cnt = s.cnt := by rfl
@[simp] theorem orReg_clk {off v} : (orReg off v s).clk = s.clk := by rfl
@[simp] theorem orReg_hif {off v} : (orReg off v s).hif = s.hif := by rfl
@[simp] theorem orReg_streams {off v} : (orReg off v s).streams = s.streams := by rfl
@[simp] theorem orReg_msgs {off v} : (orReg off v s).msgs = s.msgs := by rfl
@[simp] theorem orReg_frames {off v} : (orReg off v s).frames = s.frames := by rfl
@[simp] theorem orReg_plg {off v} : (orReg off v s).plg = s.plg := by rfl
@[simp] theorem orReg_tables {off v} : (orReg off v s).tables = s.tables := by rfl
@[simp] theorem orReg_tblBad {off v} : (orReg off v s).tblBad = s.tblBad := by rfl
@[simp] theorem orReg_egress {off v} : (orReg off v s).egress = s.egress := by rfl
@[simp] theorem orReg_slots {off v} : (orReg off v s).slots = s.slots := by rfl
@[simp] theorem orReg_sheaves {off v} : (orReg off v s).sheaves = s.sheaves := by rfl
@[simp] theorem orReg_groups {off v} : (orReg off v s).groups = s.groups := by rfl
@[simp] theorem orReg_plots {off v} : (orReg off v s).plots = s.plots := by rfl
@[simp] theorem orReg_tiles {off v} : (orReg off v s).tiles = s.tiles := by rfl
@[simp] theorem orReg_switches {off v} : (orReg off v s).switches = s.switches := by rfl
@[simp] theorem orReg_sus {off v} : (orReg off v s).sus = s.sus := by rfl
@[simp] theorem orReg_fab {off v} : (orReg off v s).fab = s.fab := by rfl
@[simp] theorem orReg_waits {off v} : (orReg off v s).waits = s.waits := by rfl
@[simp] theorem orReg_yoke {off v} : (orReg off v s).yoke = s.yoke := by rfl
@[simp] theorem orReg_answer {off v} : (orReg off v s).answer = s.answer := by rfl
@[simp] theorem orReg_ports {off v} : (orReg off v s).ports = s.ports := by rfl
@[simp] theorem orReg_fm {off v} : (orReg off v s).fm = s.fm := by rfl
@[simp] theorem orReg_bbs {off v} : (orReg off v s).bbs = s.bbs := by rfl
@[simp] theorem orReg_ptp {off v} : (orReg off v s).ptp = s.ptp := by rfl
@[simp] theorem orReg_links {off v} : (orReg off v s).links = s.links := by rfl
@[simp] theorem orReg_hrw {off v} : (orReg off v s).hrw = s.hrw := by rfl
@[simp] theorem orReg_twp {off v} : (orReg off v s).twp = s.twp := by rfl
@[simp] theorem orReg_tap {off v} : (orReg off v s).tap = s.tap := by rfl
@[simp] theorem orReg_trc {off v} : (orReg off v s).trc = s.trc := by rfl
@[simp] theorem orReg_alert {off v} : (orReg off v s).alert = s.alert := by rfl
@[simp] theorem orReg_nextMid {off v} : (orReg off v s).nextMid = s.nextMid := by rfl
@[simp] theorem orReg_nextFid {off v} : (orReg off v s).nextFid = s.nextFid := by rfl
@[simp] theorem orReg_nextBuild {off v} : (orReg off v s).nextBuild = s.nextBuild := by rfl
@[simp] theorem orReg_nextSid {off v} : (orReg off v s).nextSid = s.nextSid := by rfl
@[simp] theorem orReg_freeCtr {off v} : (orReg off v s).freeCtr = s.freeCtr := by rfl
@[simp] theorem orReg_pending {off v} : (orReg off v s).pending = s.pending := by rfl

@[simp] theorem setRegIn_glb {hi off v} : (setRegIn hi off v s).glb = s.glb := by unfold setRegIn; split <;> rfl
@[simp] theorem setRegIn_mem {hi off v} : (setRegIn hi off v s).mem = s.mem := by unfold setRegIn; split <;> rfl
@[simp] theorem setRegIn_cnt {hi off v} : (setRegIn hi off v s).cnt = s.cnt := by unfold setRegIn; split <;> rfl
@[simp] theorem setRegIn_clk {hi off v} : (setRegIn hi off v s).clk = s.clk := by unfold setRegIn; split <;> rfl
@[simp] theorem setRegIn_hif {hi off v} : (setRegIn hi off v s).hif = s.hif := by unfold setRegIn; split <;> rfl
@[simp] theorem setRegIn_streams {hi off v} : (setRegIn hi off v s).streams = s.streams := by unfold setRegIn; split <;> rfl
@[simp] theorem setRegIn_msgs {hi off v} : (setRegIn hi off v s).msgs = s.msgs := by unfold setRegIn; split <;> rfl
@[simp] theorem setRegIn_frames {hi off v} : (setRegIn hi off v s).frames = s.frames := by unfold setRegIn; split <;> rfl
@[simp] theorem setRegIn_plg {hi off v} : (setRegIn hi off v s).plg = s.plg := by unfold setRegIn; split <;> rfl
@[simp] theorem setRegIn_tables {hi off v} : (setRegIn hi off v s).tables = s.tables := by unfold setRegIn; split <;> rfl
@[simp] theorem setRegIn_tblBad {hi off v} : (setRegIn hi off v s).tblBad = s.tblBad := by unfold setRegIn; split <;> rfl
@[simp] theorem setRegIn_egress {hi off v} : (setRegIn hi off v s).egress = s.egress := by unfold setRegIn; split <;> rfl
@[simp] theorem setRegIn_slots {hi off v} : (setRegIn hi off v s).slots = s.slots := by unfold setRegIn; split <;> rfl
@[simp] theorem setRegIn_sheaves {hi off v} : (setRegIn hi off v s).sheaves = s.sheaves := by unfold setRegIn; split <;> rfl
@[simp] theorem setRegIn_groups {hi off v} : (setRegIn hi off v s).groups = s.groups := by unfold setRegIn; split <;> rfl
@[simp] theorem setRegIn_plots {hi off v} : (setRegIn hi off v s).plots = s.plots := by unfold setRegIn; split <;> rfl
@[simp] theorem setRegIn_tiles {hi off v} : (setRegIn hi off v s).tiles = s.tiles := by unfold setRegIn; split <;> rfl
@[simp] theorem setRegIn_switches {hi off v} : (setRegIn hi off v s).switches = s.switches := by unfold setRegIn; split <;> rfl
@[simp] theorem setRegIn_sus {hi off v} : (setRegIn hi off v s).sus = s.sus := by unfold setRegIn; split <;> rfl
@[simp] theorem setRegIn_fab {hi off v} : (setRegIn hi off v s).fab = s.fab := by unfold setRegIn; split <;> rfl
@[simp] theorem setRegIn_waits {hi off v} : (setRegIn hi off v s).waits = s.waits := by unfold setRegIn; split <;> rfl
@[simp] theorem setRegIn_yoke {hi off v} : (setRegIn hi off v s).yoke = s.yoke := by unfold setRegIn; split <;> rfl
@[simp] theorem setRegIn_answer {hi off v} : (setRegIn hi off v s).answer = s.answer := by unfold setRegIn; split <;> rfl
@[simp] theorem setRegIn_ports {hi off v} : (setRegIn hi off v s).ports = s.ports := by unfold setRegIn; split <;> rfl
@[simp] theorem setRegIn_fm {hi off v} : (setRegIn hi off v s).fm = s.fm := by unfold setRegIn; split <;> rfl
@[simp] theorem setRegIn_bbs {hi off v} : (setRegIn hi off v s).bbs = s.bbs := by unfold setRegIn; split <;> rfl
@[simp] theorem setRegIn_ptp {hi off v} : (setRegIn hi off v s).ptp = s.ptp := by unfold setRegIn; split <;> rfl
@[simp] theorem setRegIn_links {hi off v} : (setRegIn hi off v s).links = s.links := by unfold setRegIn; split <;> rfl
@[simp] theorem setRegIn_hrw {hi off v} : (setRegIn hi off v s).hrw = s.hrw := by unfold setRegIn; split <;> rfl
@[simp] theorem setRegIn_twp {hi off v} : (setRegIn hi off v s).twp = s.twp := by unfold setRegIn; split <;> rfl
@[simp] theorem setRegIn_tap {hi off v} : (setRegIn hi off v s).tap = s.tap := by unfold setRegIn; split <;> rfl
@[simp] theorem setRegIn_trc {hi off v} : (setRegIn hi off v s).trc = s.trc := by unfold setRegIn; split <;> rfl
@[simp] theorem setRegIn_alert {hi off v} : (setRegIn hi off v s).alert = s.alert := by unfold setRegIn; split <;> rfl
@[simp] theorem setRegIn_nextMid {hi off v} : (setRegIn hi off v s).nextMid = s.nextMid := by unfold setRegIn; split <;> rfl
@[simp] theorem setRegIn_nextFid {hi off v} : (setRegIn hi off v s).nextFid = s.nextFid := by unfold setRegIn; split <;> rfl
@[simp] theorem setRegIn_nextBuild {hi off v} : (setRegIn hi off v s).nextBuild = s.nextBuild := by unfold setRegIn; split <;> rfl
@[simp] theorem setRegIn_nextSid {hi off v} : (setRegIn hi off v s).nextSid = s.nextSid := by unfold setRegIn; split <;> rfl
@[simp] theorem setRegIn_freeCtr {hi off v} : (setRegIn hi off v s).freeCtr = s.freeCtr := by unfold setRegIn; split <;> rfl
@[simp] theorem setRegIn_pending {hi off v} : (setRegIn hi off v s).pending = s.pending := by unfold setRegIn; split <;> rfl

@[simp] theorem orRegIn_glb {hi off v} : (orRegIn hi off v s).glb = s.glb := by simp [orRegIn]
@[simp] theorem orRegIn_mem {hi off v} : (orRegIn hi off v s).mem = s.mem := by simp [orRegIn]
@[simp] theorem orRegIn_cnt {hi off v} : (orRegIn hi off v s).cnt = s.cnt := by simp [orRegIn]
@[simp] theorem orRegIn_clk {hi off v} : (orRegIn hi off v s).clk = s.clk := by simp [orRegIn]
@[simp] theorem orRegIn_hif {hi off v} : (orRegIn hi off v s).hif = s.hif := by simp [orRegIn]
@[simp] theorem orRegIn_streams {hi off v} : (orRegIn hi off v s).streams = s.streams := by simp [orRegIn]
@[simp] theorem orRegIn_msgs {hi off v} : (orRegIn hi off v s).msgs = s.msgs := by simp [orRegIn]
@[simp] theorem orRegIn_frames {hi off v} : (orRegIn hi off v s).frames = s.frames := by simp [orRegIn]
@[simp] theorem orRegIn_plg {hi off v} : (orRegIn hi off v s).plg = s.plg := by simp [orRegIn]
@[simp] theorem orRegIn_tables {hi off v} : (orRegIn hi off v s).tables = s.tables := by simp [orRegIn]
@[simp] theorem orRegIn_tblBad {hi off v} : (orRegIn hi off v s).tblBad = s.tblBad := by simp [orRegIn]
@[simp] theorem orRegIn_egress {hi off v} : (orRegIn hi off v s).egress = s.egress := by simp [orRegIn]
@[simp] theorem orRegIn_slots {hi off v} : (orRegIn hi off v s).slots = s.slots := by simp [orRegIn]
@[simp] theorem orRegIn_sheaves {hi off v} : (orRegIn hi off v s).sheaves = s.sheaves := by simp [orRegIn]
@[simp] theorem orRegIn_groups {hi off v} : (orRegIn hi off v s).groups = s.groups := by simp [orRegIn]
@[simp] theorem orRegIn_plots {hi off v} : (orRegIn hi off v s).plots = s.plots := by simp [orRegIn]
@[simp] theorem orRegIn_tiles {hi off v} : (orRegIn hi off v s).tiles = s.tiles := by simp [orRegIn]
@[simp] theorem orRegIn_switches {hi off v} : (orRegIn hi off v s).switches = s.switches := by simp [orRegIn]
@[simp] theorem orRegIn_sus {hi off v} : (orRegIn hi off v s).sus = s.sus := by simp [orRegIn]
@[simp] theorem orRegIn_fab {hi off v} : (orRegIn hi off v s).fab = s.fab := by simp [orRegIn]
@[simp] theorem orRegIn_waits {hi off v} : (orRegIn hi off v s).waits = s.waits := by simp [orRegIn]
@[simp] theorem orRegIn_yoke {hi off v} : (orRegIn hi off v s).yoke = s.yoke := by simp [orRegIn]
@[simp] theorem orRegIn_answer {hi off v} : (orRegIn hi off v s).answer = s.answer := by simp [orRegIn]
@[simp] theorem orRegIn_ports {hi off v} : (orRegIn hi off v s).ports = s.ports := by simp [orRegIn]
@[simp] theorem orRegIn_fm {hi off v} : (orRegIn hi off v s).fm = s.fm := by simp [orRegIn]
@[simp] theorem orRegIn_bbs {hi off v} : (orRegIn hi off v s).bbs = s.bbs := by simp [orRegIn]
@[simp] theorem orRegIn_ptp {hi off v} : (orRegIn hi off v s).ptp = s.ptp := by simp [orRegIn]
@[simp] theorem orRegIn_links {hi off v} : (orRegIn hi off v s).links = s.links := by simp [orRegIn]
@[simp] theorem orRegIn_hrw {hi off v} : (orRegIn hi off v s).hrw = s.hrw := by simp [orRegIn]
@[simp] theorem orRegIn_twp {hi off v} : (orRegIn hi off v s).twp = s.twp := by simp [orRegIn]
@[simp] theorem orRegIn_tap {hi off v} : (orRegIn hi off v s).tap = s.tap := by simp [orRegIn]
@[simp] theorem orRegIn_trc {hi off v} : (orRegIn hi off v s).trc = s.trc := by simp [orRegIn]
@[simp] theorem orRegIn_alert {hi off v} : (orRegIn hi off v s).alert = s.alert := by simp [orRegIn]
@[simp] theorem orRegIn_nextMid {hi off v} : (orRegIn hi off v s).nextMid = s.nextMid := by simp [orRegIn]
@[simp] theorem orRegIn_nextFid {hi off v} : (orRegIn hi off v s).nextFid = s.nextFid := by simp [orRegIn]
@[simp] theorem orRegIn_nextBuild {hi off v} : (orRegIn hi off v s).nextBuild = s.nextBuild := by simp [orRegIn]
@[simp] theorem orRegIn_nextSid {hi off v} : (orRegIn hi off v s).nextSid = s.nextSid := by simp [orRegIn]
@[simp] theorem orRegIn_freeCtr {hi off v} : (orRegIn hi off v s).freeCtr = s.freeCtr := by simp [orRegIn]
@[simp] theorem orRegIn_pending {hi off v} : (orRegIn hi off v s).pending = s.pending := by simp [orRegIn]

@[simp] theorem lockViol_glb {a0 s} : (lockViol a0 s).glb = s.glb := lockViol_keeps.glb_eq rfl
@[simp] theorem lockViol_mem {a0 s} : (lockViol a0 s).mem = s.mem := lockViol_keeps.mem_eq rfl
@[simp] theorem lockViol_cnt {a0 s} : (lockViol a0 s).cnt = s.cnt := lockViol_keeps.at .cnt rfl
@[simp] theorem lockViol_clk {a0 s} : (lockViol a0 s).clk = s.clk := lockViol_keeps.at .clk rfl
@[simp] theorem lockViol_hif {a0 s} : (lockViol a0 s).hif = s.hif := lockViol_keeps.at .hif rfl
@[simp] theorem lockViol_streams {a0 s} : (lockViol a0 s).streams = s.streams := lockViol_keeps.at .streams rfl
@[simp] theorem lockViol_msgs {a0 s} : (lockViol a0 s).msgs = s.msgs := lockViol_keeps.at .msgs rfl
@[simp] theorem lockViol_frames {a0 s} : (lockViol a0 s).frames = s.frames := lockViol_keeps.at .frames rfl
@[simp] theorem lockViol_plg {a0 s} : (lockViol a0 s).plg = s.plg := lockViol_keeps.at .plg rfl
@[simp] theorem lockViol_tables {a0 s} : (lockViol a0 s).tables = s.tables := lockViol_keeps.at .tables rfl
@[simp] theorem lockViol_tblBad {a0 s} : (lockViol a0 s).tblBad = s.tblBad := lockViol_keeps.at .tblBad rfl
@[simp] theorem lockViol_egress {a0 s} : (lockViol a0 s).egress = s.egress := lockViol_keeps.at .egress rfl
@[simp] theorem lockViol_slots {a0 s} : (lockViol a0 s).slots = s.slots := lockViol_keeps.at .slots rfl
@[simp] theorem lockViol_sheaves {a0 s} : (lockViol a0 s).sheaves = s.sheaves := lockViol_keeps.at .sheaves rfl
@[simp] theorem lockViol_groups {a0 s} : (lockViol a0 s).groups = s.groups := lockViol_keeps.at .groups rfl
@[simp] theorem lockViol_plots {a0 s} : (lockViol a0 s).plots = s.plots := lockViol_keeps.at .plots rfl
@[simp] theorem lockViol_tiles {a0 s} : (lockViol a0 s).tiles = s.tiles := lockViol_keeps.at .tiles rfl
@[simp] theorem lockViol_switches {a0 s} : (lockViol a0 s).switches = s.switches := lockViol_keeps.at .switches rfl
@[simp] theorem lockViol_sus {a0 s} : (lockViol a0 s).sus = s.sus := lockViol_keeps.at .sus rfl
@[simp] theorem lockViol_fab {a0 s} : (lockViol a0 s).fab = s.fab := lockViol_keeps.at .fab rfl
@[simp] theorem lockViol_waits {a0 s} : (lockViol a0 s).waits = s.waits := lockViol_keeps.at .waits rfl
@[simp] theorem lockViol_yoke {a0 s} : (lockViol a0 s).yoke = s.yoke := lockViol_keeps.at .yoke rfl
@[simp] theorem lockViol_answer {a0 s} : (lockViol a0 s).answer = s.answer := lockViol_keeps.at .answer rfl
@[simp] theorem lockViol_ports {a0 s} : (lockViol a0 s).ports = s.ports := lockViol_keeps.at .ports rfl
@[simp] theorem lockViol_fm {a0 s} : (lockViol a0 s).fm = s.fm := lockViol_keeps.at .fm rfl
@[simp] theorem lockViol_bbs {a0 s} : (lockViol a0 s).bbs = s.bbs := lockViol_keeps.at .bbs rfl
@[simp] theorem lockViol_ptp {a0 s} : (lockViol a0 s).ptp = s.ptp := lockViol_keeps.at .ptp rfl
@[simp] theorem lockViol_links {a0 s} : (lockViol a0 s).links = s.links := lockViol_keeps.at .links rfl
@[simp] theorem lockViol_hrw {a0 s} : (lockViol a0 s).hrw = s.hrw := lockViol_keeps.at .hrw rfl
@[simp] theorem lockViol_twp {a0 s} : (lockViol a0 s).twp = s.twp := lockViol_keeps.at .twp rfl
@[simp] theorem lockViol_tap {a0 s} : (lockViol a0 s).tap = s.tap := lockViol_keeps.at .tap rfl
@[simp] theorem lockViol_trc {a0 s} : (lockViol a0 s).trc = s.trc := lockViol_keeps.at .trc rfl
@[simp] theorem lockViol_alert {a0 s} : (lockViol a0 s).alert = s.alert := lockViol_keeps.at .alert rfl
@[simp] theorem lockViol_nextMid {a0 s} : (lockViol a0 s).nextMid = s.nextMid := lockViol_keeps.at .nextMid rfl
@[simp] theorem lockViol_nextFid {a0 s} : (lockViol a0 s).nextFid = s.nextFid := lockViol_keeps.at .nextFid rfl
@[simp] theorem lockViol_nextBuild {a0 s} : (lockViol a0 s).nextBuild = s.nextBuild := lockViol_keeps.at .nextBuild rfl
@[simp] theorem lockViol_nextSid {a0 s} : (lockViol a0 s).nextSid = s.nextSid := lockViol_keeps.at .nextSid rfl
@[simp] theorem lockViol_freeCtr {a0 s} : (lockViol a0 s).freeCtr = s.freeCtr := lockViol_keeps.at .freeCtr rfl
@[simp] theorem lockViol_pending {a0 s} : (lockViol a0 s).pending = s.pending := lockViol_keeps.at .pending rfl

@[simp] theorem raise_glb {a0 a1 a2 a3 a4 s} : (raise a0 a1 a2 a3 a4 s).glb = s.glb := raise_keeps.glb_eq rfl
@[simp] theorem raise_mem {a0 a1 a2 a3 a4 s} : (raise a0 a1 a2 a3 a4 s).mem = s.mem := raise_keeps.mem_eq rfl
@[simp] theorem raise_getReg {a0 a1 a2 a3 a4 s} {off} : getReg (raise a0 a1 a2 a3 a4 s) off = getReg s off := raise_keeps.getReg_eq rfl
@[simp] theorem raise_clk {a0 a1 a2 a3 a4 s} : (raise a0 a1 a2 a3 a4 s).clk = s.clk := raise_keeps.at .clk rfl
@[simp] theorem raise_streams {a0 a1 a2 a3 a4 s} : (raise a0 a1 a2 a3 a4 s).streams = s.streams := raise_keeps.at .streams rfl
@[simp] theorem raise_msgs {a0 a1 a2 a3 a4 s} : (raise a0 a1 a2 a3 a4 s).msgs = s.msgs := raise_keeps.at .msgs rfl
@[simp] theorem raise_frames {a0 a1 a2 a3 a4 s} : (raise a0 a1 a2 a3 a4 s).frames = s.frames := raise_keeps.at .frames rfl
@[simp] theorem raise_plg {a0 a1 a2 a3 a4 s} : (raise a0 a1 a2 a3 a4 s).plg = s.plg := raise_keeps.at .plg rfl
@[simp] theorem raise_tables {a0 a1 a2 a3 a4 s} : (raise a0 a1 a2 a3 a4 s).tables = s.tables := raise_keeps.at .tables rfl
@[simp] theorem raise_tblBad {a0 a1 a2 a3 a4 s} : (raise a0 a1 a2 a3 a4 s).tblBad = s.tblBad := raise_keeps.at .tblBad rfl
@[simp] theorem raise_egress {a0 a1 a2 a3 a4 s} : (raise a0 a1 a2 a3 a4 s).egress = s.egress := raise_keeps.at .egress rfl
@[simp] theorem raise_slots {a0 a1 a2 a3 a4 s} : (raise a0 a1 a2 a3 a4 s).slots = s.slots := raise_keeps.at .slots rfl
@[simp] theorem raise_sheaves {a0 a1 a2 a3 a4 s} : (raise a0 a1 a2 a3 a4 s).sheaves = s.sheaves := raise_keeps.at .sheaves rfl
@[simp] theorem raise_groups {a0 a1 a2 a3 a4 s} : (raise a0 a1 a2 a3 a4 s).groups = s.groups := raise_keeps.at .groups rfl
@[simp] theorem raise_plots {a0 a1 a2 a3 a4 s} : (raise a0 a1 a2 a3 a4 s).plots = s.plots := raise_keeps.at .plots rfl
@[simp] theorem raise_tiles {a0 a1 a2 a3 a4 s} : (raise a0 a1 a2 a3 a4 s).tiles = s.tiles := raise_keeps.at .tiles rfl
@[simp] theorem raise_switches {a0 a1 a2 a3 a4 s} : (raise a0 a1 a2 a3 a4 s).switches = s.switches := raise_keeps.at .switches rfl
@[simp] theorem raise_sus {a0 a1 a2 a3 a4 s} : (raise a0 a1 a2 a3 a4 s).sus = s.sus := raise_keeps.at .sus rfl
@[simp] theorem raise_fab {a0 a1 a2 a3 a4 s} : (raise a0 a1 a2 a3 a4 s).fab = s.fab := raise_keeps.at .fab rfl
@[simp] theorem raise_waits {a0 a1 a2 a3 a4 s} : (raise a0 a1 a2 a3 a4 s).waits = s.waits := raise_keeps.at .waits rfl
@[simp] theorem raise_yoke {a0 a1 a2 a3 a4 s} : (raise a0 a1 a2 a3 a4 s).yoke = s.yoke := raise_keeps.at .yoke rfl
@[simp] theorem raise_answer {a0 a1 a2 a3 a4 s} : (raise a0 a1 a2 a3 a4 s).answer = s.answer := raise_keeps.at .answer rfl
@[simp] theorem raise_ports {a0 a1 a2 a3 a4 s} : (raise a0 a1 a2 a3 a4 s).ports = s.ports := raise_keeps.at .ports rfl
@[simp] theorem raise_fm {a0 a1 a2 a3 a4 s} : (raise a0 a1 a2 a3 a4 s).fm = s.fm := raise_keeps.at .fm rfl
@[simp] theorem raise_bbs {a0 a1 a2 a3 a4 s} : (raise a0 a1 a2 a3 a4 s).bbs = s.bbs := raise_keeps.at .bbs rfl
@[simp] theorem raise_ptp {a0 a1 a2 a3 a4 s} : (raise a0 a1 a2 a3 a4 s).ptp = s.ptp := raise_keeps.at .ptp rfl
@[simp] theorem raise_links {a0 a1 a2 a3 a4 s} : (raise a0 a1 a2 a3 a4 s).links = s.links := raise_keeps.at .links rfl
@[simp] theorem raise_hrw {a0 a1 a2 a3 a4 s} : (raise a0 a1 a2 a3 a4 s).hrw = s.hrw := raise_keeps.at .hrw rfl
@[simp] theorem raise_twp {a0 a1 a2 a3 a4 s} : (raise a0 a1 a2 a3 a4 s).twp = s.twp := raise_keeps.at .twp rfl
@[simp] theorem raise_tap {a0 a1 a2 a3 a4 s} : (raise a0 a1 a2 a3 a4 s).tap = s.tap := raise_keeps.at .tap rfl
@[simp] theorem raise_trc {a0 a1 a2 a3 a4 s} : (raise a0 a1 a2 a3 a4 s).trc = s.trc := raise_keeps.at .trc rfl
@[simp] theorem raise_nextMid {a0 a1 a2 a3 a4 s} : (raise a0 a1 a2 a3 a4 s).nextMid = s.nextMid := raise_keeps.at .nextMid rfl
@[simp] theorem raise_nextFid {a0 a1 a2 a3 a4 s} : (raise a0 a1 a2 a3 a4 s).nextFid = s.nextFid := raise_keeps.at .nextFid rfl
@[simp] theorem raise_nextBuild {a0 a1 a2 a3 a4 s} : (raise a0 a1 a2 a3 a4 s).nextBuild = s.nextBuild := raise_keeps.at .nextBuild rfl
@[simp] theorem raise_nextSid {a0 a1 a2 a3 a4 s} : (raise a0 a1 a2 a3 a4 s).nextSid = s.nextSid := raise_keeps.at .nextSid rfl
@[simp] theorem raise_freeCtr {a0 a1 a2 a3 a4 s} : (raise a0 a1 a2 a3 a4 s).freeCtr = s.freeCtr := raise_keeps.at .freeCtr rfl
@[simp] theorem raise_pending {a0 a1 a2 a3 a4 s} : (raise a0 a1 a2 a3 a4 s).pending = s.pending := raise_keeps.at .pending rfl

@[simp] theorem raiseOn_glb {a0 a1 a2 a3 a4 a5 s} : (raiseOn a0 a1 a2 a3 a4 a5 s).glb = s.glb := raiseOn_keeps.glb_eq rfl
@[simp] theorem raiseOn_mem {a0 a1 a2 a3 a4 a5 s} : (raiseOn a0 a1 a2 a3 a4 a5 s).mem = s.mem := raiseOn_keeps.mem_eq rfl
@[simp] theorem raiseOn_getReg {a0 a1 a2 a3 a4 a5 s} {off} : getReg (raiseOn a0 a1 a2 a3 a4 a5 s) off = getReg s off := raiseOn_keeps.getReg_eq rfl
@[simp] theorem raiseOn_clk {a0 a1 a2 a3 a4 a5 s} : (raiseOn a0 a1 a2 a3 a4 a5 s).clk = s.clk := raiseOn_keeps.at .clk rfl
@[simp] theorem raiseOn_streams {a0 a1 a2 a3 a4 a5 s} : (raiseOn a0 a1 a2 a3 a4 a5 s).streams = s.streams := raiseOn_keeps.at .streams rfl
@[simp] theorem raiseOn_msgs {a0 a1 a2 a3 a4 a5 s} : (raiseOn a0 a1 a2 a3 a4 a5 s).msgs = s.msgs := raiseOn_keeps.at .msgs rfl
@[simp] theorem raiseOn_frames {a0 a1 a2 a3 a4 a5 s} : (raiseOn a0 a1 a2 a3 a4 a5 s).frames = s.frames := raiseOn_keeps.at .frames rfl
@[simp] theorem raiseOn_plg {a0 a1 a2 a3 a4 a5 s} : (raiseOn a0 a1 a2 a3 a4 a5 s).plg = s.plg := raiseOn_keeps.at .plg rfl
@[simp] theorem raiseOn_tables {a0 a1 a2 a3 a4 a5 s} : (raiseOn a0 a1 a2 a3 a4 a5 s).tables = s.tables := raiseOn_keeps.at .tables rfl
@[simp] theorem raiseOn_tblBad {a0 a1 a2 a3 a4 a5 s} : (raiseOn a0 a1 a2 a3 a4 a5 s).tblBad = s.tblBad := raiseOn_keeps.at .tblBad rfl
@[simp] theorem raiseOn_egress {a0 a1 a2 a3 a4 a5 s} : (raiseOn a0 a1 a2 a3 a4 a5 s).egress = s.egress := raiseOn_keeps.at .egress rfl
@[simp] theorem raiseOn_slots {a0 a1 a2 a3 a4 a5 s} : (raiseOn a0 a1 a2 a3 a4 a5 s).slots = s.slots := raiseOn_keeps.at .slots rfl
@[simp] theorem raiseOn_sheaves {a0 a1 a2 a3 a4 a5 s} : (raiseOn a0 a1 a2 a3 a4 a5 s).sheaves = s.sheaves := raiseOn_keeps.at .sheaves rfl
@[simp] theorem raiseOn_groups {a0 a1 a2 a3 a4 a5 s} : (raiseOn a0 a1 a2 a3 a4 a5 s).groups = s.groups := raiseOn_keeps.at .groups rfl
@[simp] theorem raiseOn_plots {a0 a1 a2 a3 a4 a5 s} : (raiseOn a0 a1 a2 a3 a4 a5 s).plots = s.plots := raiseOn_keeps.at .plots rfl
@[simp] theorem raiseOn_tiles {a0 a1 a2 a3 a4 a5 s} : (raiseOn a0 a1 a2 a3 a4 a5 s).tiles = s.tiles := raiseOn_keeps.at .tiles rfl
@[simp] theorem raiseOn_switches {a0 a1 a2 a3 a4 a5 s} : (raiseOn a0 a1 a2 a3 a4 a5 s).switches = s.switches := raiseOn_keeps.at .switches rfl
@[simp] theorem raiseOn_sus {a0 a1 a2 a3 a4 a5 s} : (raiseOn a0 a1 a2 a3 a4 a5 s).sus = s.sus := raiseOn_keeps.at .sus rfl
@[simp] theorem raiseOn_fab {a0 a1 a2 a3 a4 a5 s} : (raiseOn a0 a1 a2 a3 a4 a5 s).fab = s.fab := raiseOn_keeps.at .fab rfl
@[simp] theorem raiseOn_waits {a0 a1 a2 a3 a4 a5 s} : (raiseOn a0 a1 a2 a3 a4 a5 s).waits = s.waits := raiseOn_keeps.at .waits rfl
@[simp] theorem raiseOn_yoke {a0 a1 a2 a3 a4 a5 s} : (raiseOn a0 a1 a2 a3 a4 a5 s).yoke = s.yoke := raiseOn_keeps.at .yoke rfl
@[simp] theorem raiseOn_answer {a0 a1 a2 a3 a4 a5 s} : (raiseOn a0 a1 a2 a3 a4 a5 s).answer = s.answer := raiseOn_keeps.at .answer rfl
@[simp] theorem raiseOn_ports {a0 a1 a2 a3 a4 a5 s} : (raiseOn a0 a1 a2 a3 a4 a5 s).ports = s.ports := raiseOn_keeps.at .ports rfl
@[simp] theorem raiseOn_fm {a0 a1 a2 a3 a4 a5 s} : (raiseOn a0 a1 a2 a3 a4 a5 s).fm = s.fm := raiseOn_keeps.at .fm rfl
@[simp] theorem raiseOn_bbs {a0 a1 a2 a3 a4 a5 s} : (raiseOn a0 a1 a2 a3 a4 a5 s).bbs = s.bbs := raiseOn_keeps.at .bbs rfl
@[simp] theorem raiseOn_ptp {a0 a1 a2 a3 a4 a5 s} : (raiseOn a0 a1 a2 a3 a4 a5 s).ptp = s.ptp := raiseOn_keeps.at .ptp rfl
@[simp] theorem raiseOn_hrw {a0 a1 a2 a3 a4 a5 s} : (raiseOn a0 a1 a2 a3 a4 a5 s).hrw = s.hrw := raiseOn_keeps.at .hrw rfl
@[simp] theorem raiseOn_twp {a0 a1 a2 a3 a4 a5 s} : (raiseOn a0 a1 a2 a3 a4 a5 s).twp = s.twp := raiseOn_keeps.at .twp rfl
@[simp] theorem raiseOn_tap {a0 a1 a2 a3 a4 a5 s} : (raiseOn a0 a1 a2 a3 a4 a5 s).tap = s.tap := raiseOn_keeps.at .tap rfl
@[simp] theorem raiseOn_nextMid {a0 a1 a2 a3 a4 a5 s} : (raiseOn a0 a1 a2 a3 a4 a5 s).nextMid = s.nextMid := raiseOn_keeps.at .nextMid rfl
@[simp] theorem raiseOn_nextFid {a0 a1 a2 a3 a4 a5 s} : (raiseOn a0 a1 a2 a3 a4 a5 s).nextFid = s.nextFid := raiseOn_keeps.at .nextFid rfl
@[simp] theorem raiseOn_nextBuild {a0 a1 a2 a3 a4 a5 s} : (raiseOn a0 a1 a2 a3 a4 a5 s).nextBuild = s.nextBuild := raiseOn_keeps.at .nextBuild rfl
@[simp] theorem raiseOn_nextSid {a0 a1 a2 a3 a4 a5 s} : (raiseOn a0 a1 a2 a3 a4 a5 s).nextSid = s.nextSid := raiseOn_keeps.at .nextSid rfl
@[simp] theorem raiseOn_freeCtr {a0 a1 a2 a3 a4 a5 s} : (raiseOn a0 a1 a2 a3 a4 a5 s).freeCtr = s.freeCtr := raiseOn_keeps.at .freeCtr rfl
@[simp] theorem raiseOn_pending {a0 a1 a2 a3 a4 a5 s} : (raiseOn a0 a1 a2 a3 a4 a5 s).pending = s.pending := raiseOn_keeps.at .pending rfl

@[simp] theorem bump_glb {a0 a1 s} : (bump a0 a1 s).glb = s.glb := bump_keeps.glb_eq rfl
@[simp] theorem bump_mem {a0 a1 s} : (bump a0 a1 s).mem = s.mem := bump_keeps.mem_eq rfl
@[simp] theorem bump_getReg {a0 a1 s} {off} : getReg (bump a0 a1 s) off = getReg s off := bump_keeps.getReg_eq rfl
@[simp] theorem bump_clk {a0 a1 s} : (bump a0 a1 s).clk = s.clk := bump_keeps.at .clk rfl
@[simp] theorem bump_streams {a0 a1 s} : (bump a0 a1 s).streams = s.streams := bump_keeps.at .streams rfl
@[simp] theorem bump_msgs {a0 a1 s} : (bump a0 a1 s).msgs = s.msgs := bump_keeps.at .msgs rfl
@[simp] theorem bump_frames {a0 a1 s} : (bump a0 a1 s).frames = s.frames := bump_keeps.at .frames rfl
@[simp] theorem bump_plg {a0 a1 s} : (bump a0 a1 s).plg = s.plg := bump_keeps.at .plg rfl
@[simp] theorem bump_tables {a0 a1 s} : (bump a0 a1 s).tables = s.tables := bump_keeps.at .tables rfl
@[simp] theorem bump_tblBad {a0 a1 s} : (bump a0 a1 s).tblBad = s.tblBad := bump_keeps.at .tblBad rfl
@[simp] theorem bump_egress {a0 a1 s} : (bump a0 a1 s).egress = s.egress := bump_keeps.at .egress rfl
@[simp] theorem bump_slots {a0 a1 s} : (bump a0 a1 s).slots = s.slots := bump_keeps.at .slots rfl
@[simp] theorem bump_sheaves {a0 a1 s} : (bump a0 a1 s).sheaves = s.sheaves := bump_keeps.at .sheaves rfl
@[simp] theorem bump_groups {a0 a1 s} : (bump a0 a1 s).groups = s.groups := bump_keeps.at .groups rfl
@[simp] theorem bump_plots {a0 a1 s} : (bump a0 a1 s).plots = s.plots := bump_keeps.at .plots rfl
@[simp] theorem bump_tiles {a0 a1 s} : (bump a0 a1 s).tiles = s.tiles := bump_keeps.at .tiles rfl
@[simp] theorem bump_switches {a0 a1 s} : (bump a0 a1 s).switches = s.switches := bump_keeps.at .switches rfl
@[simp] theorem bump_sus {a0 a1 s} : (bump a0 a1 s).sus = s.sus := bump_keeps.at .sus rfl
@[simp] theorem bump_fab {a0 a1 s} : (bump a0 a1 s).fab = s.fab := bump_keeps.at .fab rfl
@[simp] theorem bump_waits {a0 a1 s} : (bump a0 a1 s).waits = s.waits := bump_keeps.at .waits rfl
@[simp] theorem bump_yoke {a0 a1 s} : (bump a0 a1 s).yoke = s.yoke := bump_keeps.at .yoke rfl
@[simp] theorem bump_answer {a0 a1 s} : (bump a0 a1 s).answer = s.answer := bump_keeps.at .answer rfl
@[simp] theorem bump_ports {a0 a1 s} : (bump a0 a1 s).ports = s.ports := bump_keeps.at .ports rfl
@[simp] theorem bump_fm {a0 a1 s} : (bump a0 a1 s).fm = s.fm := bump_keeps.at .fm rfl
@[simp] theorem bump_bbs {a0 a1 s} : (bump a0 a1 s).bbs = s.bbs := bump_keeps.at .bbs rfl
@[simp] theorem bump_ptp {a0 a1 s} : (bump a0 a1 s).ptp = s.ptp := bump_keeps.at .ptp rfl
@[simp] theorem bump_links {a0 a1 s} : (bump a0 a1 s).links = s.links := bump_keeps.at .links rfl
@[simp] theorem bump_hrw {a0 a1 s} : (bump a0 a1 s).hrw = s.hrw := bump_keeps.at .hrw rfl
@[simp] theorem bump_twp {a0 a1 s} : (bump a0 a1 s).twp = s.twp := bump_keeps.at .twp rfl
@[simp] theorem bump_tap {a0 a1 s} : (bump a0 a1 s).tap = s.tap := bump_keeps.at .tap rfl
@[simp] theorem bump_trc {a0 a1 s} : (bump a0 a1 s).trc = s.trc := bump_keeps.at .trc rfl
@[simp] theorem bump_nextMid {a0 a1 s} : (bump a0 a1 s).nextMid = s.nextMid := bump_keeps.at .nextMid rfl
@[simp] theorem bump_nextFid {a0 a1 s} : (bump a0 a1 s).nextFid = s.nextFid := bump_keeps.at .nextFid rfl
@[simp] theorem bump_nextBuild {a0 a1 s} : (bump a0 a1 s).nextBuild = s.nextBuild := bump_keeps.at .nextBuild rfl
@[simp] theorem bump_nextSid {a0 a1 s} : (bump a0 a1 s).nextSid = s.nextSid := bump_keeps.at .nextSid rfl
@[simp] theorem bump_freeCtr {a0 a1 s} : (bump a0 a1 s).freeCtr = s.freeCtr := bump_keeps.at .freeCtr rfl
@[simp] theorem bump_pending {a0 a1 s} : (bump a0 a1 s).pending = s.pending := bump_keeps.at .pending rfl

@[simp] theorem writeEntry_glb {a0 a1 s} : (writeEntry a0 a1 s).glb = s.glb := writeEntry_keeps.glb_eq rfl
@[simp] theorem writeEntry_mem {a0 a1 s} : (writeEntry a0 a1 s).mem = s.mem := writeEntry_keeps.mem_eq rfl
@[simp] theorem writeEntry_getReg {a0 a1 s} {off} : getReg (writeEntry a0 a1 s) off = getReg s off := writeEntry_keeps.getReg_eq rfl
@[simp] theorem writeEntry_cnt {a0 a1 s} : (writeEntry a0 a1 s).cnt = s.cnt := writeEntry_keeps.at .cnt rfl
@[simp] theorem writeEntry_clk {a0 a1 s} : (writeEntry a0 a1 s).clk = s.clk := writeEntry_keeps.at .clk rfl
@[simp] theorem writeEntry_streams {a0 a1 s} : (writeEntry a0 a1 s).streams = s.streams := writeEntry_keeps.at .streams rfl
@[simp] theorem writeEntry_msgs {a0 a1 s} : (writeEntry a0 a1 s).msgs = s.msgs := writeEntry_keeps.at .msgs rfl
@[simp] theorem writeEntry_frames {a0 a1 s} : (writeEntry a0 a1 s).frames = s.frames := writeEntry_keeps.at .frames rfl
@[simp] theorem writeEntry_plg {a0 a1 s} : (writeEntry a0 a1 s).plg = s.plg := writeEntry_keeps.at .plg rfl
@[simp] theorem writeEntry_tables {a0 a1 s} : (writeEntry a0 a1 s).tables = s.tables := writeEntry_keeps.at .tables rfl
@[simp] theorem writeEntry_tblBad {a0 a1 s} : (writeEntry a0 a1 s).tblBad = s.tblBad := writeEntry_keeps.at .tblBad rfl
@[simp] theorem writeEntry_egress {a0 a1 s} : (writeEntry a0 a1 s).egress = s.egress := writeEntry_keeps.at .egress rfl
@[simp] theorem writeEntry_slots {a0 a1 s} : (writeEntry a0 a1 s).slots = s.slots := writeEntry_keeps.at .slots rfl
@[simp] theorem writeEntry_sheaves {a0 a1 s} : (writeEntry a0 a1 s).sheaves = s.sheaves := writeEntry_keeps.at .sheaves rfl
@[simp] theorem writeEntry_groups {a0 a1 s} : (writeEntry a0 a1 s).groups = s.groups := writeEntry_keeps.at .groups rfl
@[simp] theorem writeEntry_plots {a0 a1 s} : (writeEntry a0 a1 s).plots = s.plots := writeEntry_keeps.at .plots rfl
@[simp] theorem writeEntry_tiles {a0 a1 s} : (writeEntry a0 a1 s).tiles = s.tiles := writeEntry_keeps.at .tiles rfl
@[simp] theorem writeEntry_switches {a0 a1 s} : (writeEntry a0 a1 s).switches = s.switches := writeEntry_keeps.at .switches rfl
@[simp] theorem writeEntry_sus {a0 a1 s} : (writeEntry a0 a1 s).sus = s.sus := writeEntry_keeps.at .sus rfl
@[simp] theorem writeEntry_fab {a0 a1 s} : (writeEntry a0 a1 s).fab = s.fab := writeEntry_keeps.at .fab rfl
@[simp] theorem writeEntry_waits {a0 a1 s} : (writeEntry a0 a1 s).waits = s.waits := writeEntry_keeps.at .waits rfl
@[simp] theorem writeEntry_yoke {a0 a1 s} : (writeEntry a0 a1 s).yoke = s.yoke := writeEntry_keeps.at .yoke rfl
@[simp] theorem writeEntry_answer {a0 a1 s} : (writeEntry a0 a1 s).answer = s.answer := writeEntry_keeps.at .answer rfl
@[simp] theorem writeEntry_ports {a0 a1 s} : (writeEntry a0 a1 s).ports = s.ports := writeEntry_keeps.at .ports rfl
@[simp] theorem writeEntry_fm {a0 a1 s} : (writeEntry a0 a1 s).fm = s.fm := writeEntry_keeps.at .fm rfl
@[simp] theorem writeEntry_bbs {a0 a1 s} : (writeEntry a0 a1 s).bbs = s.bbs := writeEntry_keeps.at .bbs rfl
@[simp] theorem writeEntry_ptp {a0 a1 s} : (writeEntry a0 a1 s).ptp = s.ptp := writeEntry_keeps.at .ptp rfl
@[simp] theorem writeEntry_links {a0 a1 s} : (writeEntry a0 a1 s).links = s.links := writeEntry_keeps.at .links rfl
@[simp] theorem writeEntry_hrw {a0 a1 s} : (writeEntry a0 a1 s).hrw = s.hrw := writeEntry_keeps.at .hrw rfl
@[simp] theorem writeEntry_twp {a0 a1 s} : (writeEntry a0 a1 s).twp = s.twp := writeEntry_keeps.at .twp rfl
@[simp] theorem writeEntry_tap {a0 a1 s} : (writeEntry a0 a1 s).tap = s.tap := writeEntry_keeps.at .tap rfl
@[simp] theorem writeEntry_trc {a0 a1 s} : (writeEntry a0 a1 s).trc = s.trc := writeEntry_keeps.at .trc rfl
@[simp] theorem writeEntry_alert {a0 a1 s} : (writeEntry a0 a1 s).alert = s.alert := writeEntry_keeps.at .alert rfl
@[simp] theorem writeEntry_nextMid {a0 a1 s} : (writeEntry a0 a1 s).nextMid = s.nextMid := writeEntry_keeps.at .nextMid rfl
@[simp] theorem writeEntry_nextFid {a0 a1 s} : (writeEntry a0 a1 s).nextFid = s.nextFid := writeEntry_keeps.at .nextFid rfl
@[simp] theorem writeEntry_nextBuild {a0 a1 s} : (writeEntry a0 a1 s).nextBuild = s.nextBuild := writeEntry_keeps.at .nextBuild rfl
@[simp] theorem writeEntry_nextSid {a0 a1 s} : (writeEntry a0 a1 s).nextSid = s.nextSid := writeEntry_keeps.at .nextSid rfl
@[simp] theorem writeEntry_freeCtr {a0 a1 s} : (writeEntry a0 a1 s).freeCtr = s.freeCtr := writeEntry_keeps.at .freeCtr rfl
@[simp] theorem writeEntry_pending {a0 a1 s} : (writeEntry a0 a1 s).pending = s.pending := writeEntry_keeps.at .pending rfl

@[simp] theorem triggerRing_glb {a0 s} : (triggerRing a0 s).glb = s.glb := triggerRing_keeps.glb_eq rfl
@[simp] theorem triggerRing_mem {a0 s} : (triggerRing a0 s).mem = s.mem := triggerRing_keeps.mem_eq rfl
@[simp] theorem triggerRing_getReg {a0 s} {off} : getReg (triggerRing a0 s) off = getReg s off := triggerRing_keeps.getReg_eq rfl
@[simp] theorem triggerRing_cnt {a0 s} : (triggerRing a0 s).cnt = s.cnt := triggerRing_keeps.at .cnt rfl
@[simp] theorem triggerRing_clk {a0 s} : (triggerRing a0 s).clk = s.clk := triggerRing_keeps.at .clk rfl
@[simp] theorem triggerRing_streams {a0 s} : (triggerRing a0 s).streams = s.streams := triggerRing_keeps.at .streams rfl
@[simp] theorem triggerRing_msgs {a0 s} : (triggerRing a0 s).msgs = s.msgs := triggerRing_keeps.at .msgs rfl
@[simp] theorem triggerRing_frames {a0 s} : (triggerRing a0 s).frames = s.frames := triggerRing_keeps.at .frames rfl
@[simp] theorem triggerRing_plg {a0 s} : (triggerRing a0 s).plg = s.plg := triggerRing_keeps.at .plg rfl
@[simp] theorem triggerRing_tables {a0 s} : (triggerRing a0 s).tables = s.tables := triggerRing_keeps.at .tables rfl
@[simp] theorem triggerRing_tblBad {a0 s} : (triggerRing a0 s).tblBad = s.tblBad := triggerRing_keeps.at .tblBad rfl
@[simp] theorem triggerRing_egress {a0 s} : (triggerRing a0 s).egress = s.egress := triggerRing_keeps.at .egress rfl
@[simp] theorem triggerRing_slots {a0 s} : (triggerRing a0 s).slots = s.slots := triggerRing_keeps.at .slots rfl
@[simp] theorem triggerRing_sheaves {a0 s} : (triggerRing a0 s).sheaves = s.sheaves := triggerRing_keeps.at .sheaves rfl
@[simp] theorem triggerRing_groups {a0 s} : (triggerRing a0 s).groups = s.groups := triggerRing_keeps.at .groups rfl
@[simp] theorem triggerRing_plots {a0 s} : (triggerRing a0 s).plots = s.plots := triggerRing_keeps.at .plots rfl
@[simp] theorem triggerRing_tiles {a0 s} : (triggerRing a0 s).tiles = s.tiles := triggerRing_keeps.at .tiles rfl
@[simp] theorem triggerRing_switches {a0 s} : (triggerRing a0 s).switches = s.switches := triggerRing_keeps.at .switches rfl
@[simp] theorem triggerRing_sus {a0 s} : (triggerRing a0 s).sus = s.sus := triggerRing_keeps.at .sus rfl
@[simp] theorem triggerRing_fab {a0 s} : (triggerRing a0 s).fab = s.fab := triggerRing_keeps.at .fab rfl
@[simp] theorem triggerRing_waits {a0 s} : (triggerRing a0 s).waits = s.waits := triggerRing_keeps.at .waits rfl
@[simp] theorem triggerRing_yoke {a0 s} : (triggerRing a0 s).yoke = s.yoke := triggerRing_keeps.at .yoke rfl
@[simp] theorem triggerRing_answer {a0 s} : (triggerRing a0 s).answer = s.answer := triggerRing_keeps.at .answer rfl
@[simp] theorem triggerRing_ports {a0 s} : (triggerRing a0 s).ports = s.ports := triggerRing_keeps.at .ports rfl
@[simp] theorem triggerRing_fm {a0 s} : (triggerRing a0 s).fm = s.fm := triggerRing_keeps.at .fm rfl
@[simp] theorem triggerRing_bbs {a0 s} : (triggerRing a0 s).bbs = s.bbs := triggerRing_keeps.at .bbs rfl
@[simp] theorem triggerRing_ptp {a0 s} : (triggerRing a0 s).ptp = s.ptp := triggerRing_keeps.at .ptp rfl
@[simp] theorem triggerRing_links {a0 s} : (triggerRing a0 s).links = s.links := triggerRing_keeps.at .links rfl
@[simp] theorem triggerRing_hrw {a0 s} : (triggerRing a0 s).hrw = s.hrw := triggerRing_keeps.at .hrw rfl
@[simp] theorem triggerRing_twp {a0 s} : (triggerRing a0 s).twp = s.twp := triggerRing_keeps.at .twp rfl
@[simp] theorem triggerRing_tap {a0 s} : (triggerRing a0 s).tap = s.tap := triggerRing_keeps.at .tap rfl
@[simp] theorem triggerRing_trc {a0 s} : (triggerRing a0 s).trc = s.trc := triggerRing_keeps.at .trc rfl
@[simp] theorem triggerRing_alert {a0 s} : (triggerRing a0 s).alert = s.alert := triggerRing_keeps.at .alert rfl
@[simp] theorem triggerRing_nextMid {a0 s} : (triggerRing a0 s).nextMid = s.nextMid := triggerRing_keeps.at .nextMid rfl
@[simp] theorem triggerRing_nextFid {a0 s} : (triggerRing a0 s).nextFid = s.nextFid := triggerRing_keeps.at .nextFid rfl
@[simp] theorem triggerRing_nextBuild {a0 s} : (triggerRing a0 s).nextBuild = s.nextBuild := triggerRing_keeps.at .nextBuild rfl
@[simp] theorem triggerRing_nextSid {a0 s} : (triggerRing a0 s).nextSid = s.nextSid := triggerRing_keeps.at .nextSid rfl
@[simp] theorem triggerRing_freeCtr {a0 s} : (triggerRing a0 s).freeCtr = s.freeCtr := triggerRing_keeps.at .freeCtr rfl
@[simp] theorem triggerRing_pending {a0 s} : (triggerRing a0 s).pending = s.pending := triggerRing_keeps.at .pending rfl

@[simp] theorem traceWrite_glb {a0 a1 a2 s} : (traceWrite a0 a1 a2 s).glb = s.glb := traceWrite_keeps.glb_eq rfl
@[simp] theorem traceWrite_mem {a0 a1 a2 s} : (traceWrite a0 a1 a2 s).mem = s.mem := traceWrite_keeps.mem_eq rfl
@[simp] theorem traceWrite_getReg {a0 a1 a2 s} {off} : getReg (traceWrite a0 a1 a2 s) off = getReg s off := traceWrite_keeps.getReg_eq rfl
@[simp] theorem traceWrite_cnt {a0 a1 a2 s} : (traceWrite a0 a1 a2 s).cnt = s.cnt := traceWrite_keeps.at .cnt rfl
@[simp] theorem traceWrite_clk {a0 a1 a2 s} : (traceWrite a0 a1 a2 s).clk = s.clk := traceWrite_keeps.at .clk rfl
@[simp] theorem traceWrite_hif {a0 a1 a2 s} : (traceWrite a0 a1 a2 s).hif = s.hif := traceWrite_keeps.at .hif rfl
@[simp] theorem traceWrite_streams {a0 a1 a2 s} : (traceWrite a0 a1 a2 s).streams = s.streams := traceWrite_keeps.at .streams rfl
@[simp] theorem traceWrite_msgs {a0 a1 a2 s} : (traceWrite a0 a1 a2 s).msgs = s.msgs := traceWrite_keeps.at .msgs rfl
@[simp] theorem traceWrite_frames {a0 a1 a2 s} : (traceWrite a0 a1 a2 s).frames = s.frames := traceWrite_keeps.at .frames rfl
@[simp] theorem traceWrite_plg {a0 a1 a2 s} : (traceWrite a0 a1 a2 s).plg = s.plg := traceWrite_keeps.at .plg rfl
@[simp] theorem traceWrite_tables {a0 a1 a2 s} : (traceWrite a0 a1 a2 s).tables = s.tables := traceWrite_keeps.at .tables rfl
@[simp] theorem traceWrite_tblBad {a0 a1 a2 s} : (traceWrite a0 a1 a2 s).tblBad = s.tblBad := traceWrite_keeps.at .tblBad rfl
@[simp] theorem traceWrite_egress {a0 a1 a2 s} : (traceWrite a0 a1 a2 s).egress = s.egress := traceWrite_keeps.at .egress rfl
@[simp] theorem traceWrite_slots {a0 a1 a2 s} : (traceWrite a0 a1 a2 s).slots = s.slots := traceWrite_keeps.at .slots rfl
@[simp] theorem traceWrite_sheaves {a0 a1 a2 s} : (traceWrite a0 a1 a2 s).sheaves = s.sheaves := traceWrite_keeps.at .sheaves rfl
@[simp] theorem traceWrite_groups {a0 a1 a2 s} : (traceWrite a0 a1 a2 s).groups = s.groups := traceWrite_keeps.at .groups rfl
@[simp] theorem traceWrite_plots {a0 a1 a2 s} : (traceWrite a0 a1 a2 s).plots = s.plots := traceWrite_keeps.at .plots rfl
@[simp] theorem traceWrite_tiles {a0 a1 a2 s} : (traceWrite a0 a1 a2 s).tiles = s.tiles := traceWrite_keeps.at .tiles rfl
@[simp] theorem traceWrite_switches {a0 a1 a2 s} : (traceWrite a0 a1 a2 s).switches = s.switches := traceWrite_keeps.at .switches rfl
@[simp] theorem traceWrite_sus {a0 a1 a2 s} : (traceWrite a0 a1 a2 s).sus = s.sus := traceWrite_keeps.at .sus rfl
@[simp] theorem traceWrite_fab {a0 a1 a2 s} : (traceWrite a0 a1 a2 s).fab = s.fab := traceWrite_keeps.at .fab rfl
@[simp] theorem traceWrite_waits {a0 a1 a2 s} : (traceWrite a0 a1 a2 s).waits = s.waits := traceWrite_keeps.at .waits rfl
@[simp] theorem traceWrite_yoke {a0 a1 a2 s} : (traceWrite a0 a1 a2 s).yoke = s.yoke := traceWrite_keeps.at .yoke rfl
@[simp] theorem traceWrite_answer {a0 a1 a2 s} : (traceWrite a0 a1 a2 s).answer = s.answer := traceWrite_keeps.at .answer rfl
@[simp] theorem traceWrite_ports {a0 a1 a2 s} : (traceWrite a0 a1 a2 s).ports = s.ports := traceWrite_keeps.at .ports rfl
@[simp] theorem traceWrite_fm {a0 a1 a2 s} : (traceWrite a0 a1 a2 s).fm = s.fm := traceWrite_keeps.at .fm rfl
@[simp] theorem traceWrite_bbs {a0 a1 a2 s} : (traceWrite a0 a1 a2 s).bbs = s.bbs := traceWrite_keeps.at .bbs rfl
@[simp] theorem traceWrite_ptp {a0 a1 a2 s} : (traceWrite a0 a1 a2 s).ptp = s.ptp := traceWrite_keeps.at .ptp rfl
@[simp] theorem traceWrite_links {a0 a1 a2 s} : (traceWrite a0 a1 a2 s).links = s.links := traceWrite_keeps.at .links rfl
@[simp] theorem traceWrite_hrw {a0 a1 a2 s} : (traceWrite a0 a1 a2 s).hrw = s.hrw := traceWrite_keeps.at .hrw rfl
@[simp] theorem traceWrite_twp {a0 a1 a2 s} : (traceWrite a0 a1 a2 s).twp = s.twp := traceWrite_keeps.at .twp rfl
@[simp] theorem traceWrite_tap {a0 a1 a2 s} : (traceWrite a0 a1 a2 s).tap = s.tap := traceWrite_keeps.at .tap rfl
@[simp] theorem traceWrite_alert {a0 a1 a2 s} : (traceWrite a0 a1 a2 s).alert = s.alert := traceWrite_keeps.at .alert rfl
@[simp] theorem traceWrite_nextMid {a0 a1 a2 s} : (traceWrite a0 a1 a2 s).nextMid = s.nextMid := traceWrite_keeps.at .nextMid rfl
@[simp] theorem traceWrite_nextFid {a0 a1 a2 s} : (traceWrite a0 a1 a2 s).nextFid = s.nextFid := traceWrite_keeps.at .nextFid rfl
@[simp] theorem traceWrite_nextBuild {a0 a1 a2 s} : (traceWrite a0 a1 a2 s).nextBuild = s.nextBuild := traceWrite_keeps.at .nextBuild rfl
@[simp] theorem traceWrite_nextSid {a0 a1 a2 s} : (traceWrite a0 a1 a2 s).nextSid = s.nextSid := traceWrite_keeps.at .nextSid rfl
@[simp] theorem traceWrite_freeCtr {a0 a1 a2 s} : (traceWrite a0 a1 a2 s).freeCtr = s.freeCtr := traceWrite_keeps.at .freeCtr rfl
@[simp] theorem traceWrite_pending {a0 a1 a2 s} : (traceWrite a0 a1 a2 s).pending = s.pending := traceWrite_keeps.at .pending rfl

@[simp] theorem capture_glb {a0 a1 a2 a3 s} : (capture a0 a1 a2 a3 s).glb = s.glb := capture_keeps.glb_eq rfl
@[simp] theorem capture_mem {a0 a1 a2 a3 s} : (capture a0 a1 a2 a3 s).mem = s.mem := capture_keeps.mem_eq rfl
@[simp] theorem capture_getReg {a0 a1 a2 a3 s} {off} : getReg (capture a0 a1 a2 a3 s) off = getReg s off := capture_keeps.getReg_eq rfl
@[simp] theorem capture_cnt {a0 a1 a2 a3 s} : (capture a0 a1 a2 a3 s).cnt = s.cnt := capture_keeps.at .cnt rfl
@[simp] theorem capture_clk {a0 a1 a2 a3 s} : (capture a0 a1 a2 a3 s).clk = s.clk := capture_keeps.at .clk rfl
@[simp] theorem capture_hif {a0 a1 a2 a3 s} : (capture a0 a1 a2 a3 s).hif = s.hif := capture_keeps.at .hif rfl
@[simp] theorem capture_streams {a0 a1 a2 a3 s} : (capture a0 a1 a2 a3 s).streams = s.streams := capture_keeps.at .streams rfl
@[simp] theorem capture_msgs {a0 a1 a2 a3 s} : (capture a0 a1 a2 a3 s).msgs = s.msgs := capture_keeps.at .msgs rfl
@[simp] theorem capture_frames {a0 a1 a2 a3 s} : (capture a0 a1 a2 a3 s).frames = s.frames := capture_keeps.at .frames rfl
@[simp] theorem capture_plg {a0 a1 a2 a3 s} : (capture a0 a1 a2 a3 s).plg = s.plg := capture_keeps.at .plg rfl
@[simp] theorem capture_tables {a0 a1 a2 a3 s} : (capture a0 a1 a2 a3 s).tables = s.tables := capture_keeps.at .tables rfl
@[simp] theorem capture_tblBad {a0 a1 a2 a3 s} : (capture a0 a1 a2 a3 s).tblBad = s.tblBad := capture_keeps.at .tblBad rfl
@[simp] theorem capture_egress {a0 a1 a2 a3 s} : (capture a0 a1 a2 a3 s).egress = s.egress := capture_keeps.at .egress rfl
@[simp] theorem capture_slots {a0 a1 a2 a3 s} : (capture a0 a1 a2 a3 s).slots = s.slots := capture_keeps.at .slots rfl
@[simp] theorem capture_sheaves {a0 a1 a2 a3 s} : (capture a0 a1 a2 a3 s).sheaves = s.sheaves := capture_keeps.at .sheaves rfl
@[simp] theorem capture_groups {a0 a1 a2 a3 s} : (capture a0 a1 a2 a3 s).groups = s.groups := capture_keeps.at .groups rfl
@[simp] theorem capture_plots {a0 a1 a2 a3 s} : (capture a0 a1 a2 a3 s).plots = s.plots := capture_keeps.at .plots rfl
@[simp] theorem capture_tiles {a0 a1 a2 a3 s} : (capture a0 a1 a2 a3 s).tiles = s.tiles := capture_keeps.at .tiles rfl
@[simp] theorem capture_switches {a0 a1 a2 a3 s} : (capture a0 a1 a2 a3 s).switches = s.switches := capture_keeps.at .switches rfl
@[simp] theorem capture_sus {a0 a1 a2 a3 s} : (capture a0 a1 a2 a3 s).sus = s.sus := capture_keeps.at .sus rfl
@[simp] theorem capture_fab {a0 a1 a2 a3 s} : (capture a0 a1 a2 a3 s).fab = s.fab := capture_keeps.at .fab rfl
@[simp] theorem capture_waits {a0 a1 a2 a3 s} : (capture a0 a1 a2 a3 s).waits = s.waits := capture_keeps.at .waits rfl
@[simp] theorem capture_yoke {a0 a1 a2 a3 s} : (capture a0 a1 a2 a3 s).yoke = s.yoke := capture_keeps.at .yoke rfl
@[simp] theorem capture_answer {a0 a1 a2 a3 s} : (capture a0 a1 a2 a3 s).answer = s.answer := capture_keeps.at .answer rfl
@[simp] theorem capture_ports {a0 a1 a2 a3 s} : (capture a0 a1 a2 a3 s).ports = s.ports := capture_keeps.at .ports rfl
@[simp] theorem capture_fm {a0 a1 a2 a3 s} : (capture a0 a1 a2 a3 s).fm = s.fm := capture_keeps.at .fm rfl
@[simp] theorem capture_bbs {a0 a1 a2 a3 s} : (capture a0 a1 a2 a3 s).bbs = s.bbs := capture_keeps.at .bbs rfl
@[simp] theorem capture_ptp {a0 a1 a2 a3 s} : (capture a0 a1 a2 a3 s).ptp = s.ptp := capture_keeps.at .ptp rfl
@[simp] theorem capture_links {a0 a1 a2 a3 s} : (capture a0 a1 a2 a3 s).links = s.links := capture_keeps.at .links rfl
@[simp] theorem capture_hrw {a0 a1 a2 a3 s} : (capture a0 a1 a2 a3 s).hrw = s.hrw := capture_keeps.at .hrw rfl
@[simp] theorem capture_twp {a0 a1 a2 a3 s} : (capture a0 a1 a2 a3 s).twp = s.twp := capture_keeps.at .twp rfl
@[simp] theorem capture_tap {a0 a1 a2 a3 s} : (capture a0 a1 a2 a3 s).tap = s.tap := capture_keeps.at .tap rfl
@[simp] theorem capture_alert {a0 a1 a2 a3 s} : (capture a0 a1 a2 a3 s).alert = s.alert := capture_keeps.at .alert rfl
@[simp] theorem capture_nextMid {a0 a1 a2 a3 s} : (capture a0 a1 a2 a3 s).nextMid = s.nextMid := capture_keeps.at .nextMid rfl
@[simp] theorem capture_nextFid {a0 a1 a2 a3 s} : (capture a0 a1 a2 a3 s).nextFid = s.nextFid := capture_keeps.at .nextFid rfl
@[simp] theorem capture_nextBuild {a0 a1 a2 a3 s} : (capture a0 a1 a2 a3 s).nextBuild = s.nextBuild := capture_keeps.at .nextBuild rfl
@[simp] theorem capture_nextSid {a0 a1 a2 a3 s} : (capture a0 a1 a2 a3 s).nextSid = s.nextSid := capture_keeps.at .nextSid rfl
@[simp] theorem capture_freeCtr {a0 a1 a2 a3 s} : (capture a0 a1 a2 a3 s).freeCtr = s.freeCtr := capture_keeps.at .freeCtr rfl
@[simp] theorem capture_pending {a0 a1 a2 a3 s} : (capture a0 a1 a2 a3 s).pending = s.pending := capture_keeps.at .pending rfl

@[simp] theorem startDesc_glb {a0 a1 s} : (startDesc a0 a1 s).glb = s.glb := startDesc_keeps.glb_eq rfl
@[simp] theorem startDesc_mem {a0 a1 s} : (startDesc a0 a1 s).mem = s.mem := startDesc_keeps.mem_eq rfl
@[simp] theorem startDesc_getReg {a0 a1 s} {off} : getReg (startDesc a0 a1 s) off = getReg s off := startDesc_keeps.getReg_eq rfl
@[simp] theorem startDesc_cnt {a0 a1 s} : (startDesc a0 a1 s).cnt = s.cnt := startDesc_keeps.at .cnt rfl
@[simp] theorem startDesc_clk {a0 a1 s} : (startDesc a0 a1 s).clk = s.clk := startDesc_keeps.at .clk rfl
@[simp] theorem startDesc_streams {a0 a1 s} : (startDesc a0 a1 s).streams = s.streams := startDesc_keeps.at .streams rfl
@[simp] theorem startDesc_msgs {a0 a1 s} : (startDesc a0 a1 s).msgs = s.msgs := startDesc_keeps.at .msgs rfl
@[simp] theorem startDesc_frames {a0 a1 s} : (startDesc a0 a1 s).frames = s.frames := startDesc_keeps.at .frames rfl
@[simp] theorem startDesc_plg {a0 a1 s} : (startDesc a0 a1 s).plg = s.plg := startDesc_keeps.at .plg rfl
@[simp] theorem startDesc_tables {a0 a1 s} : (startDesc a0 a1 s).tables = s.tables := startDesc_keeps.at .tables rfl
@[simp] theorem startDesc_tblBad {a0 a1 s} : (startDesc a0 a1 s).tblBad = s.tblBad := startDesc_keeps.at .tblBad rfl
@[simp] theorem startDesc_egress {a0 a1 s} : (startDesc a0 a1 s).egress = s.egress := startDesc_keeps.at .egress rfl
@[simp] theorem startDesc_slots {a0 a1 s} : (startDesc a0 a1 s).slots = s.slots := startDesc_keeps.at .slots rfl
@[simp] theorem startDesc_sheaves {a0 a1 s} : (startDesc a0 a1 s).sheaves = s.sheaves := startDesc_keeps.at .sheaves rfl
@[simp] theorem startDesc_groups {a0 a1 s} : (startDesc a0 a1 s).groups = s.groups := startDesc_keeps.at .groups rfl
@[simp] theorem startDesc_plots {a0 a1 s} : (startDesc a0 a1 s).plots = s.plots := startDesc_keeps.at .plots rfl
@[simp] theorem startDesc_tiles {a0 a1 s} : (startDesc a0 a1 s).tiles = s.tiles := startDesc_keeps.at .tiles rfl
@[simp] theorem startDesc_switches {a0 a1 s} : (startDesc a0 a1 s).switches = s.switches := startDesc_keeps.at .switches rfl
@[simp] theorem startDesc_sus {a0 a1 s} : (startDesc a0 a1 s).sus = s.sus := startDesc_keeps.at .sus rfl
@[simp] theorem startDesc_fab {a0 a1 s} : (startDesc a0 a1 s).fab = s.fab := startDesc_keeps.at .fab rfl
@[simp] theorem startDesc_waits {a0 a1 s} : (startDesc a0 a1 s).waits = s.waits := startDesc_keeps.at .waits rfl
@[simp] theorem startDesc_yoke {a0 a1 s} : (startDesc a0 a1 s).yoke = s.yoke := startDesc_keeps.at .yoke rfl
@[simp] theorem startDesc_answer {a0 a1 s} : (startDesc a0 a1 s).answer = s.answer := startDesc_keeps.at .answer rfl
@[simp] theorem startDesc_ports {a0 a1 s} : (startDesc a0 a1 s).ports = s.ports := startDesc_keeps.at .ports rfl
@[simp] theorem startDesc_fm {a0 a1 s} : (startDesc a0 a1 s).fm = s.fm := startDesc_keeps.at .fm rfl
@[simp] theorem startDesc_bbs {a0 a1 s} : (startDesc a0 a1 s).bbs = s.bbs := startDesc_keeps.at .bbs rfl
@[simp] theorem startDesc_ptp {a0 a1 s} : (startDesc a0 a1 s).ptp = s.ptp := startDesc_keeps.at .ptp rfl
@[simp] theorem startDesc_links {a0 a1 s} : (startDesc a0 a1 s).links = s.links := startDesc_keeps.at .links rfl
@[simp] theorem startDesc_hrw {a0 a1 s} : (startDesc a0 a1 s).hrw = s.hrw := startDesc_keeps.at .hrw rfl
@[simp] theorem startDesc_twp {a0 a1 s} : (startDesc a0 a1 s).twp = s.twp := startDesc_keeps.at .twp rfl
@[simp] theorem startDesc_tap {a0 a1 s} : (startDesc a0 a1 s).tap = s.tap := startDesc_keeps.at .tap rfl
@[simp] theorem startDesc_trc {a0 a1 s} : (startDesc a0 a1 s).trc = s.trc := startDesc_keeps.at .trc rfl
@[simp] theorem startDesc_alert {a0 a1 s} : (startDesc a0 a1 s).alert = s.alert := startDesc_keeps.at .alert rfl
@[simp] theorem startDesc_nextMid {a0 a1 s} : (startDesc a0 a1 s).nextMid = s.nextMid := startDesc_keeps.at .nextMid rfl
@[simp] theorem startDesc_nextFid {a0 a1 s} : (startDesc a0 a1 s).nextFid = s.nextFid := startDesc_keeps.at .nextFid rfl
@[simp] theorem startDesc_nextBuild {a0 a1 s} : (startDesc a0 a1 s).nextBuild = s.nextBuild := startDesc_keeps.at .nextBuild rfl
@[simp] theorem startDesc_nextSid {a0 a1 s} : (startDesc a0 a1 s).nextSid = s.nextSid := startDesc_keeps.at .nextSid rfl
@[simp] theorem startDesc_freeCtr {a0 a1 s} : (startDesc a0 a1 s).freeCtr = s.freeCtr := startDesc_keeps.at .freeCtr rfl
@[simp] theorem startDesc_pending {a0 a1 s} : (startDesc a0 a1 s).pending = s.pending := startDesc_keeps.at .pending rfl

@[simp] theorem complete_glb {a0 a1 a2 a3 a4 a5 s} : (complete a0 a1 a2 a3 a4 a5 s).glb = s.glb := complete_keeps.glb_eq rfl
@[simp] theorem complete_mem {a0 a1 a2 a3 a4 a5 s} : (complete a0 a1 a2 a3 a4 a5 s).mem = s.mem := complete_keeps.mem_eq rfl
@[simp] theorem complete_getReg {a0 a1 a2 a3 a4 a5 s} {off} : getReg (complete a0 a1 a2 a3 a4 a5 s) off = getReg s off := complete_keeps.getReg_eq rfl
@[simp] theorem complete_clk {a0 a1 a2 a3 a4 a5 s} : (complete a0 a1 a2 a3 a4 a5 s).clk = s.clk := complete_keeps.at .clk rfl
@[simp] theorem complete_streams {a0 a1 a2 a3 a4 a5 s} : (complete a0 a1 a2 a3 a4 a5 s).streams = s.streams := complete_keeps.at .streams rfl
@[simp] theorem complete_msgs {a0 a1 a2 a3 a4 a5 s} : (complete a0 a1 a2 a3 a4 a5 s).msgs = s.msgs := complete_keeps.at .msgs rfl
@[simp] theorem complete_frames {a0 a1 a2 a3 a4 a5 s} : (complete a0 a1 a2 a3 a4 a5 s).frames = s.frames := complete_keeps.at .frames rfl
@[simp] theorem complete_plg {a0 a1 a2 a3 a4 a5 s} : (complete a0 a1 a2 a3 a4 a5 s).plg = s.plg := complete_keeps.at .plg rfl
@[simp] theorem complete_tables {a0 a1 a2 a3 a4 a5 s} : (complete a0 a1 a2 a3 a4 a5 s).tables = s.tables := complete_keeps.at .tables rfl
@[simp] theorem complete_tblBad {a0 a1 a2 a3 a4 a5 s} : (complete a0 a1 a2 a3 a4 a5 s).tblBad = s.tblBad := complete_keeps.at .tblBad rfl
@[simp] theorem complete_egress {a0 a1 a2 a3 a4 a5 s} : (complete a0 a1 a2 a3 a4 a5 s).egress = s.egress := complete_keeps.at .egress rfl
@[simp] theorem complete_slots {a0 a1 a2 a3 a4 a5 s} : (complete a0 a1 a2 a3 a4 a5 s).slots = s.slots := complete_keeps.at .slots rfl
@[simp] theorem complete_sheaves {a0 a1 a2 a3 a4 a5 s} : (complete a0 a1 a2 a3 a4 a5 s).sheaves = s.sheaves := complete_keeps.at .sheaves rfl
@[simp] theorem complete_groups {a0 a1 a2 a3 a4 a5 s} : (complete a0 a1 a2 a3 a4 a5 s).groups = s.groups := complete_keeps.at .groups rfl
@[simp] theorem complete_plots {a0 a1 a2 a3 a4 a5 s} : (complete a0 a1 a2 a3 a4 a5 s).plots = s.plots := complete_keeps.at .plots rfl
@[simp] theorem complete_tiles {a0 a1 a2 a3 a4 a5 s} : (complete a0 a1 a2 a3 a4 a5 s).tiles = s.tiles := complete_keeps.at .tiles rfl
@[simp] theorem complete_switches {a0 a1 a2 a3 a4 a5 s} : (complete a0 a1 a2 a3 a4 a5 s).switches = s.switches := complete_keeps.at .switches rfl
@[simp] theorem complete_sus {a0 a1 a2 a3 a4 a5 s} : (complete a0 a1 a2 a3 a4 a5 s).sus = s.sus := complete_keeps.at .sus rfl
@[simp] theorem complete_fab {a0 a1 a2 a3 a4 a5 s} : (complete a0 a1 a2 a3 a4 a5 s).fab = s.fab := complete_keeps.at .fab rfl
@[simp] theorem complete_waits {a0 a1 a2 a3 a4 a5 s} : (complete a0 a1 a2 a3 a4 a5 s).waits = s.waits := complete_keeps.at .waits rfl
@[simp] theorem complete_yoke {a0 a1 a2 a3 a4 a5 s} : (complete a0 a1 a2 a3 a4 a5 s).yoke = s.yoke := complete_keeps.at .yoke rfl
@[simp] theorem complete_answer {a0 a1 a2 a3 a4 a5 s} : (complete a0 a1 a2 a3 a4 a5 s).answer = s.answer := complete_keeps.at .answer rfl
@[simp] theorem complete_ports {a0 a1 a2 a3 a4 a5 s} : (complete a0 a1 a2 a3 a4 a5 s).ports = s.ports := complete_keeps.at .ports rfl
@[simp] theorem complete_fm {a0 a1 a2 a3 a4 a5 s} : (complete a0 a1 a2 a3 a4 a5 s).fm = s.fm := complete_keeps.at .fm rfl
@[simp] theorem complete_bbs {a0 a1 a2 a3 a4 a5 s} : (complete a0 a1 a2 a3 a4 a5 s).bbs = s.bbs := complete_keeps.at .bbs rfl
@[simp] theorem complete_ptp {a0 a1 a2 a3 a4 a5 s} : (complete a0 a1 a2 a3 a4 a5 s).ptp = s.ptp := complete_keeps.at .ptp rfl
@[simp] theorem complete_links {a0 a1 a2 a3 a4 a5 s} : (complete a0 a1 a2 a3 a4 a5 s).links = s.links := complete_keeps.at .links rfl
@[simp] theorem complete_hrw {a0 a1 a2 a3 a4 a5 s} : (complete a0 a1 a2 a3 a4 a5 s).hrw = s.hrw := complete_keeps.at .hrw rfl
@[simp] theorem complete_twp {a0 a1 a2 a3 a4 a5 s} : (complete a0 a1 a2 a3 a4 a5 s).twp = s.twp := complete_keeps.at .twp rfl
@[simp] theorem complete_tap {a0 a1 a2 a3 a4 a5 s} : (complete a0 a1 a2 a3 a4 a5 s).tap = s.tap := complete_keeps.at .tap rfl
@[simp] theorem complete_trc {a0 a1 a2 a3 a4 a5 s} : (complete a0 a1 a2 a3 a4 a5 s).trc = s.trc := complete_keeps.at .trc rfl
@[simp] theorem complete_nextMid {a0 a1 a2 a3 a4 a5 s} : (complete a0 a1 a2 a3 a4 a5 s).nextMid = s.nextMid := complete_keeps.at .nextMid rfl
@[simp] theorem complete_nextFid {a0 a1 a2 a3 a4 a5 s} : (complete a0 a1 a2 a3 a4 a5 s).nextFid = s.nextFid := complete_keeps.at .nextFid rfl
@[simp] theorem complete_nextBuild {a0 a1 a2 a3 a4 a5 s} : (complete a0 a1 a2 a3 a4 a5 s).nextBuild = s.nextBuild := complete_keeps.at .nextBuild rfl
@[simp] theorem complete_nextSid {a0 a1 a2 a3 a4 a5 s} : (complete a0 a1 a2 a3 a4 a5 s).nextSid = s.nextSid := complete_keeps.at .nextSid rfl
@[simp] theorem complete_freeCtr {a0 a1 a2 a3 a4 a5 s} : (complete a0 a1 a2 a3 a4 a5 s).freeCtr = s.freeCtr := complete_keeps.at .freeCtr rfl
@[simp] theorem complete_pending {a0 a1 a2 a3 a4 a5 s} : (complete a0 a1 a2 a3 a4 a5 s).pending = s.pending := complete_keeps.at .pending rfl

@[simp] theorem flushSq_glb {a0 s} : (flushSq a0 s).glb = s.glb := flushSq_keeps.glb_eq rfl
@[simp] theorem flushSq_mem {a0 s} : (flushSq a0 s).mem = s.mem := flushSq_keeps.mem_eq rfl
@[simp] theorem flushSq_getReg {a0 s} {off} : getReg (flushSq a0 s) off = getReg s off := flushSq_keeps.getReg_eq rfl
@[simp] theorem flushSq_cnt {a0 s} : (flushSq a0 s).cnt = s.cnt := flushSq_keeps.at .cnt rfl
@[simp] theorem flushSq_clk {a0 s} : (flushSq a0 s).clk = s.clk := flushSq_keeps.at .clk rfl
@[simp] theorem flushSq_streams {a0 s} : (flushSq a0 s).streams = s.streams := flushSq_keeps.at .streams rfl
@[simp] theorem flushSq_msgs {a0 s} : (flushSq a0 s).msgs = s.msgs := flushSq_keeps.at .msgs rfl
@[simp] theorem flushSq_frames {a0 s} : (flushSq a0 s).frames = s.frames := flushSq_keeps.at .frames rfl
@[simp] theorem flushSq_plg {a0 s} : (flushSq a0 s).plg = s.plg := flushSq_keeps.at .plg rfl
@[simp] theorem flushSq_tables {a0 s} : (flushSq a0 s).tables = s.tables := flushSq_keeps.at .tables rfl
@[simp] theorem flushSq_tblBad {a0 s} : (flushSq a0 s).tblBad = s.tblBad := flushSq_keeps.at .tblBad rfl
@[simp] theorem flushSq_egress {a0 s} : (flushSq a0 s).egress = s.egress := flushSq_keeps.at .egress rfl
@[simp] theorem flushSq_slots {a0 s} : (flushSq a0 s).slots = s.slots := flushSq_keeps.at .slots rfl
@[simp] theorem flushSq_sheaves {a0 s} : (flushSq a0 s).sheaves = s.sheaves := flushSq_keeps.at .sheaves rfl
@[simp] theorem flushSq_groups {a0 s} : (flushSq a0 s).groups = s.groups := flushSq_keeps.at .groups rfl
@[simp] theorem flushSq_plots {a0 s} : (flushSq a0 s).plots = s.plots := flushSq_keeps.at .plots rfl
@[simp] theorem flushSq_tiles {a0 s} : (flushSq a0 s).tiles = s.tiles := flushSq_keeps.at .tiles rfl
@[simp] theorem flushSq_switches {a0 s} : (flushSq a0 s).switches = s.switches := flushSq_keeps.at .switches rfl
@[simp] theorem flushSq_sus {a0 s} : (flushSq a0 s).sus = s.sus := flushSq_keeps.at .sus rfl
@[simp] theorem flushSq_fab {a0 s} : (flushSq a0 s).fab = s.fab := flushSq_keeps.at .fab rfl
@[simp] theorem flushSq_waits {a0 s} : (flushSq a0 s).waits = s.waits := flushSq_keeps.at .waits rfl
@[simp] theorem flushSq_yoke {a0 s} : (flushSq a0 s).yoke = s.yoke := flushSq_keeps.at .yoke rfl
@[simp] theorem flushSq_answer {a0 s} : (flushSq a0 s).answer = s.answer := flushSq_keeps.at .answer rfl
@[simp] theorem flushSq_ports {a0 s} : (flushSq a0 s).ports = s.ports := flushSq_keeps.at .ports rfl
@[simp] theorem flushSq_fm {a0 s} : (flushSq a0 s).fm = s.fm := flushSq_keeps.at .fm rfl
@[simp] theorem flushSq_bbs {a0 s} : (flushSq a0 s).bbs = s.bbs := flushSq_keeps.at .bbs rfl
@[simp] theorem flushSq_ptp {a0 s} : (flushSq a0 s).ptp = s.ptp := flushSq_keeps.at .ptp rfl
@[simp] theorem flushSq_links {a0 s} : (flushSq a0 s).links = s.links := flushSq_keeps.at .links rfl
@[simp] theorem flushSq_hrw {a0 s} : (flushSq a0 s).hrw = s.hrw := flushSq_keeps.at .hrw rfl
@[simp] theorem flushSq_twp {a0 s} : (flushSq a0 s).twp = s.twp := flushSq_keeps.at .twp rfl
@[simp] theorem flushSq_tap {a0 s} : (flushSq a0 s).tap = s.tap := flushSq_keeps.at .tap rfl
@[simp] theorem flushSq_trc {a0 s} : (flushSq a0 s).trc = s.trc := flushSq_keeps.at .trc rfl
@[simp] theorem flushSq_alert {a0 s} : (flushSq a0 s).alert = s.alert := flushSq_keeps.at .alert rfl
@[simp] theorem flushSq_nextMid {a0 s} : (flushSq a0 s).nextMid = s.nextMid := flushSq_keeps.at .nextMid rfl
@[simp] theorem flushSq_nextFid {a0 s} : (flushSq a0 s).nextFid = s.nextFid := flushSq_keeps.at .nextFid rfl
@[simp] theorem flushSq_nextBuild {a0 s} : (flushSq a0 s).nextBuild = s.nextBuild := flushSq_keeps.at .nextBuild rfl
@[simp] theorem flushSq_nextSid {a0 s} : (flushSq a0 s).nextSid = s.nextSid := flushSq_keeps.at .nextSid rfl
@[simp] theorem flushSq_freeCtr {a0 s} : (flushSq a0 s).freeCtr = s.freeCtr := flushSq_keeps.at .freeCtr rfl
@[simp] theorem flushSq_pending {a0 s} : (flushSq a0 s).pending = s.pending := flushSq_keeps.at .pending rfl

@[simp] theorem pmuCount_glb {a0 a1 a2 s} : (pmuCount a0 a1 a2 s).glb = s.glb := pmuCount_keeps.glb_eq rfl
@[simp] theorem pmuCount_mem {a0 a1 a2 s} : (pmuCount a0 a1 a2 s).mem = s.mem := pmuCount_keeps.mem_eq rfl
@[simp] theorem pmuCount_getReg {a0 a1 a2 s} {off} : getReg (pmuCount a0 a1 a2 s) off = getReg s off := pmuCount_keeps.getReg_eq rfl
@[simp] theorem pmuCount_clk {a0 a1 a2 s} : (pmuCount a0 a1 a2 s).clk = s.clk := pmuCount_keeps.at .clk rfl
@[simp] theorem pmuCount_streams {a0 a1 a2 s} : (pmuCount a0 a1 a2 s).streams = s.streams := pmuCount_keeps.at .streams rfl
@[simp] theorem pmuCount_msgs {a0 a1 a2 s} : (pmuCount a0 a1 a2 s).msgs = s.msgs := pmuCount_keeps.at .msgs rfl
@[simp] theorem pmuCount_frames {a0 a1 a2 s} : (pmuCount a0 a1 a2 s).frames = s.frames := pmuCount_keeps.at .frames rfl
@[simp] theorem pmuCount_plg {a0 a1 a2 s} : (pmuCount a0 a1 a2 s).plg = s.plg := pmuCount_keeps.at .plg rfl
@[simp] theorem pmuCount_tables {a0 a1 a2 s} : (pmuCount a0 a1 a2 s).tables = s.tables := pmuCount_keeps.at .tables rfl
@[simp] theorem pmuCount_tblBad {a0 a1 a2 s} : (pmuCount a0 a1 a2 s).tblBad = s.tblBad := pmuCount_keeps.at .tblBad rfl
@[simp] theorem pmuCount_egress {a0 a1 a2 s} : (pmuCount a0 a1 a2 s).egress = s.egress := pmuCount_keeps.at .egress rfl
@[simp] theorem pmuCount_slots {a0 a1 a2 s} : (pmuCount a0 a1 a2 s).slots = s.slots := pmuCount_keeps.at .slots rfl
@[simp] theorem pmuCount_sheaves {a0 a1 a2 s} : (pmuCount a0 a1 a2 s).sheaves = s.sheaves := pmuCount_keeps.at .sheaves rfl
@[simp] theorem pmuCount_groups {a0 a1 a2 s} : (pmuCount a0 a1 a2 s).groups = s.groups := pmuCount_keeps.at .groups rfl
@[simp] theorem pmuCount_plots {a0 a1 a2 s} : (pmuCount a0 a1 a2 s).plots = s.plots := pmuCount_keeps.at .plots rfl
@[simp] theorem pmuCount_tiles {a0 a1 a2 s} : (pmuCount a0 a1 a2 s).tiles = s.tiles := pmuCount_keeps.at .tiles rfl
@[simp] theorem pmuCount_switches {a0 a1 a2 s} : (pmuCount a0 a1 a2 s).switches = s.switches := pmuCount_keeps.at .switches rfl
@[simp] theorem pmuCount_sus {a0 a1 a2 s} : (pmuCount a0 a1 a2 s).sus = s.sus := pmuCount_keeps.at .sus rfl
@[simp] theorem pmuCount_fab {a0 a1 a2 s} : (pmuCount a0 a1 a2 s).fab = s.fab := pmuCount_keeps.at .fab rfl
@[simp] theorem pmuCount_waits {a0 a1 a2 s} : (pmuCount a0 a1 a2 s).waits = s.waits := pmuCount_keeps.at .waits rfl
@[simp] theorem pmuCount_yoke {a0 a1 a2 s} : (pmuCount a0 a1 a2 s).yoke = s.yoke := pmuCount_keeps.at .yoke rfl
@[simp] theorem pmuCount_answer {a0 a1 a2 s} : (pmuCount a0 a1 a2 s).answer = s.answer := pmuCount_keeps.at .answer rfl
@[simp] theorem pmuCount_ports {a0 a1 a2 s} : (pmuCount a0 a1 a2 s).ports = s.ports := pmuCount_keeps.at .ports rfl
@[simp] theorem pmuCount_fm {a0 a1 a2 s} : (pmuCount a0 a1 a2 s).fm = s.fm := pmuCount_keeps.at .fm rfl
@[simp] theorem pmuCount_bbs {a0 a1 a2 s} : (pmuCount a0 a1 a2 s).bbs = s.bbs := pmuCount_keeps.at .bbs rfl
@[simp] theorem pmuCount_ptp {a0 a1 a2 s} : (pmuCount a0 a1 a2 s).ptp = s.ptp := pmuCount_keeps.at .ptp rfl
@[simp] theorem pmuCount_links {a0 a1 a2 s} : (pmuCount a0 a1 a2 s).links = s.links := pmuCount_keeps.at .links rfl
@[simp] theorem pmuCount_hrw {a0 a1 a2 s} : (pmuCount a0 a1 a2 s).hrw = s.hrw := pmuCount_keeps.at .hrw rfl
@[simp] theorem pmuCount_twp {a0 a1 a2 s} : (pmuCount a0 a1 a2 s).twp = s.twp := pmuCount_keeps.at .twp rfl
@[simp] theorem pmuCount_tap {a0 a1 a2 s} : (pmuCount a0 a1 a2 s).tap = s.tap := pmuCount_keeps.at .tap rfl
@[simp] theorem pmuCount_trc {a0 a1 a2 s} : (pmuCount a0 a1 a2 s).trc = s.trc := pmuCount_keeps.at .trc rfl
@[simp] theorem pmuCount_nextMid {a0 a1 a2 s} : (pmuCount a0 a1 a2 s).nextMid = s.nextMid := pmuCount_keeps.at .nextMid rfl
@[simp] theorem pmuCount_nextFid {a0 a1 a2 s} : (pmuCount a0 a1 a2 s).nextFid = s.nextFid := pmuCount_keeps.at .nextFid rfl
@[simp] theorem pmuCount_nextBuild {a0 a1 a2 s} : (pmuCount a0 a1 a2 s).nextBuild = s.nextBuild := pmuCount_keeps.at .nextBuild rfl
@[simp] theorem pmuCount_nextSid {a0 a1 a2 s} : (pmuCount a0 a1 a2 s).nextSid = s.nextSid := pmuCount_keeps.at .nextSid rfl
@[simp] theorem pmuCount_freeCtr {a0 a1 a2 s} : (pmuCount a0 a1 a2 s).freeCtr = s.freeCtr := pmuCount_keeps.at .freeCtr rfl
@[simp] theorem pmuCount_pending {a0 a1 a2 s} : (pmuCount a0 a1 a2 s).pending = s.pending := pmuCount_keeps.at .pending rfl

@[simp] theorem pmuDie_glb {a0 a1 a2 s} : (pmuDie a0 a1 a2 s).glb = s.glb := pmuDie_keeps.glb_eq rfl
@[simp] theorem pmuDie_mem {a0 a1 a2 s} : (pmuDie a0 a1 a2 s).mem = s.mem := pmuDie_keeps.mem_eq rfl
@[simp] theorem pmuDie_getReg {a0 a1 a2 s} {off} : getReg (pmuDie a0 a1 a2 s) off = getReg s off := pmuDie_keeps.getReg_eq rfl
@[simp] theorem pmuDie_clk {a0 a1 a2 s} : (pmuDie a0 a1 a2 s).clk = s.clk := pmuDie_keeps.at .clk rfl
@[simp] theorem pmuDie_streams {a0 a1 a2 s} : (pmuDie a0 a1 a2 s).streams = s.streams := pmuDie_keeps.at .streams rfl
@[simp] theorem pmuDie_msgs {a0 a1 a2 s} : (pmuDie a0 a1 a2 s).msgs = s.msgs := pmuDie_keeps.at .msgs rfl
@[simp] theorem pmuDie_frames {a0 a1 a2 s} : (pmuDie a0 a1 a2 s).frames = s.frames := pmuDie_keeps.at .frames rfl
@[simp] theorem pmuDie_plg {a0 a1 a2 s} : (pmuDie a0 a1 a2 s).plg = s.plg := pmuDie_keeps.at .plg rfl
@[simp] theorem pmuDie_tables {a0 a1 a2 s} : (pmuDie a0 a1 a2 s).tables = s.tables := pmuDie_keeps.at .tables rfl
@[simp] theorem pmuDie_tblBad {a0 a1 a2 s} : (pmuDie a0 a1 a2 s).tblBad = s.tblBad := pmuDie_keeps.at .tblBad rfl
@[simp] theorem pmuDie_egress {a0 a1 a2 s} : (pmuDie a0 a1 a2 s).egress = s.egress := pmuDie_keeps.at .egress rfl
@[simp] theorem pmuDie_slots {a0 a1 a2 s} : (pmuDie a0 a1 a2 s).slots = s.slots := pmuDie_keeps.at .slots rfl
@[simp] theorem pmuDie_sheaves {a0 a1 a2 s} : (pmuDie a0 a1 a2 s).sheaves = s.sheaves := pmuDie_keeps.at .sheaves rfl
@[simp] theorem pmuDie_groups {a0 a1 a2 s} : (pmuDie a0 a1 a2 s).groups = s.groups := pmuDie_keeps.at .groups rfl
@[simp] theorem pmuDie_plots {a0 a1 a2 s} : (pmuDie a0 a1 a2 s).plots = s.plots := pmuDie_keeps.at .plots rfl
@[simp] theorem pmuDie_tiles {a0 a1 a2 s} : (pmuDie a0 a1 a2 s).tiles = s.tiles := pmuDie_keeps.at .tiles rfl
@[simp] theorem pmuDie_switches {a0 a1 a2 s} : (pmuDie a0 a1 a2 s).switches = s.switches := pmuDie_keeps.at .switches rfl
@[simp] theorem pmuDie_sus {a0 a1 a2 s} : (pmuDie a0 a1 a2 s).sus = s.sus := pmuDie_keeps.at .sus rfl
@[simp] theorem pmuDie_fab {a0 a1 a2 s} : (pmuDie a0 a1 a2 s).fab = s.fab := pmuDie_keeps.at .fab rfl
@[simp] theorem pmuDie_waits {a0 a1 a2 s} : (pmuDie a0 a1 a2 s).waits = s.waits := pmuDie_keeps.at .waits rfl
@[simp] theorem pmuDie_yoke {a0 a1 a2 s} : (pmuDie a0 a1 a2 s).yoke = s.yoke := pmuDie_keeps.at .yoke rfl
@[simp] theorem pmuDie_answer {a0 a1 a2 s} : (pmuDie a0 a1 a2 s).answer = s.answer := pmuDie_keeps.at .answer rfl
@[simp] theorem pmuDie_ports {a0 a1 a2 s} : (pmuDie a0 a1 a2 s).ports = s.ports := pmuDie_keeps.at .ports rfl
@[simp] theorem pmuDie_fm {a0 a1 a2 s} : (pmuDie a0 a1 a2 s).fm = s.fm := pmuDie_keeps.at .fm rfl
@[simp] theorem pmuDie_bbs {a0 a1 a2 s} : (pmuDie a0 a1 a2 s).bbs = s.bbs := pmuDie_keeps.at .bbs rfl
@[simp] theorem pmuDie_ptp {a0 a1 a2 s} : (pmuDie a0 a1 a2 s).ptp = s.ptp := pmuDie_keeps.at .ptp rfl
@[simp] theorem pmuDie_links {a0 a1 a2 s} : (pmuDie a0 a1 a2 s).links = s.links := pmuDie_keeps.at .links rfl
@[simp] theorem pmuDie_hrw {a0 a1 a2 s} : (pmuDie a0 a1 a2 s).hrw = s.hrw := pmuDie_keeps.at .hrw rfl
@[simp] theorem pmuDie_twp {a0 a1 a2 s} : (pmuDie a0 a1 a2 s).twp = s.twp := pmuDie_keeps.at .twp rfl
@[simp] theorem pmuDie_tap {a0 a1 a2 s} : (pmuDie a0 a1 a2 s).tap = s.tap := pmuDie_keeps.at .tap rfl
@[simp] theorem pmuDie_trc {a0 a1 a2 s} : (pmuDie a0 a1 a2 s).trc = s.trc := pmuDie_keeps.at .trc rfl
@[simp] theorem pmuDie_nextMid {a0 a1 a2 s} : (pmuDie a0 a1 a2 s).nextMid = s.nextMid := pmuDie_keeps.at .nextMid rfl
@[simp] theorem pmuDie_nextFid {a0 a1 a2 s} : (pmuDie a0 a1 a2 s).nextFid = s.nextFid := pmuDie_keeps.at .nextFid rfl
@[simp] theorem pmuDie_nextBuild {a0 a1 a2 s} : (pmuDie a0 a1 a2 s).nextBuild = s.nextBuild := pmuDie_keeps.at .nextBuild rfl
@[simp] theorem pmuDie_nextSid {a0 a1 a2 s} : (pmuDie a0 a1 a2 s).nextSid = s.nextSid := pmuDie_keeps.at .nextSid rfl
@[simp] theorem pmuDie_freeCtr {a0 a1 a2 s} : (pmuDie a0 a1 a2 s).freeCtr = s.freeCtr := pmuDie_keeps.at .freeCtr rfl
@[simp] theorem pmuDie_pending {a0 a1 a2 s} : (pmuDie a0 a1 a2 s).pending = s.pending := pmuDie_keeps.at .pending rfl

@[simp] theorem bbSettle_glb {s} : (bbSettle s).glb = s.glb := bbSettle_keeps.glb_eq rfl
@[simp] theorem bbSettle_mem {s} : (bbSettle s).mem = s.mem := bbSettle_keeps.mem_eq rfl
@[simp] theorem bbSettle_getReg {s} {off} : getReg (bbSettle s) off = getReg s off := bbSettle_keeps.getReg_eq rfl
@[simp] theorem bbSettle_clk {s} : (bbSettle s).clk = s.clk := bbSettle_keeps.at .clk rfl
@[simp] theorem bbSettle_streams {s} : (bbSettle s).streams = s.streams := bbSettle_keeps.at .streams rfl
@[simp] theorem bbSettle_frames {s} : (bbSettle s).frames = s.frames := bbSettle_keeps.at .frames rfl
@[simp] theorem bbSettle_plg {s} : (bbSettle s).plg = s.plg := bbSettle_keeps.at .plg rfl
@[simp] theorem bbSettle_tables {s} : (bbSettle s).tables = s.tables := bbSettle_keeps.at .tables rfl
@[simp] theorem bbSettle_tblBad {s} : (bbSettle s).tblBad = s.tblBad := bbSettle_keeps.at .tblBad rfl
@[simp] theorem bbSettle_slots {s} : (bbSettle s).slots = s.slots := bbSettle_keeps.at .slots rfl
@[simp] theorem bbSettle_sheaves {s} : (bbSettle s).sheaves = s.sheaves := bbSettle_keeps.at .sheaves rfl
@[simp] theorem bbSettle_groups {s} : (bbSettle s).groups = s.groups := bbSettle_keeps.at .groups rfl
@[simp] theorem bbSettle_plots {s} : (bbSettle s).plots = s.plots := bbSettle_keeps.at .plots rfl
@[simp] theorem bbSettle_tiles {s} : (bbSettle s).tiles = s.tiles := bbSettle_keeps.at .tiles rfl
@[simp] theorem bbSettle_switches {s} : (bbSettle s).switches = s.switches := bbSettle_keeps.at .switches rfl
@[simp] theorem bbSettle_sus {s} : (bbSettle s).sus = s.sus := bbSettle_keeps.at .sus rfl
@[simp] theorem bbSettle_fab {s} : (bbSettle s).fab = s.fab := bbSettle_keeps.at .fab rfl
@[simp] theorem bbSettle_waits {s} : (bbSettle s).waits = s.waits := bbSettle_keeps.at .waits rfl
@[simp] theorem bbSettle_yoke {s} : (bbSettle s).yoke = s.yoke := bbSettle_keeps.at .yoke rfl
@[simp] theorem bbSettle_answer {s} : (bbSettle s).answer = s.answer := bbSettle_keeps.at .answer rfl
@[simp] theorem bbSettle_ports {s} : (bbSettle s).ports = s.ports := bbSettle_keeps.at .ports rfl
@[simp] theorem bbSettle_fm {s} : (bbSettle s).fm = s.fm := bbSettle_keeps.at .fm rfl
@[simp] theorem bbSettle_ptp {s} : (bbSettle s).ptp = s.ptp := bbSettle_keeps.at .ptp rfl
@[simp] theorem bbSettle_links {s} : (bbSettle s).links = s.links := bbSettle_keeps.at .links rfl
@[simp] theorem bbSettle_hrw {s} : (bbSettle s).hrw = s.hrw := bbSettle_keeps.at .hrw rfl
@[simp] theorem bbSettle_twp {s} : (bbSettle s).twp = s.twp := bbSettle_keeps.at .twp rfl
@[simp] theorem bbSettle_tap {s} : (bbSettle s).tap = s.tap := bbSettle_keeps.at .tap rfl
@[simp] theorem bbSettle_trc {s} : (bbSettle s).trc = s.trc := bbSettle_keeps.at .trc rfl
@[simp] theorem bbSettle_nextMid {s} : (bbSettle s).nextMid = s.nextMid := bbSettle_keeps.at .nextMid rfl
@[simp] theorem bbSettle_nextFid {s} : (bbSettle s).nextFid = s.nextFid := bbSettle_keeps.at .nextFid rfl
@[simp] theorem bbSettle_nextBuild {s} : (bbSettle s).nextBuild = s.nextBuild := bbSettle_keeps.at .nextBuild rfl
@[simp] theorem bbSettle_nextSid {s} : (bbSettle s).nextSid = s.nextSid := bbSettle_keeps.at .nextSid rfl
@[simp] theorem bbSettle_freeCtr {s} : (bbSettle s).freeCtr = s.freeCtr := bbSettle_keeps.at .freeCtr rfl
@[simp] theorem bbSettle_pending {s} : (bbSettle s).pending = s.pending := bbSettle_keeps.at .pending rfl

@[simp] theorem dmaWrite_glb {a0 a1 s} : (dmaWrite a0 a1 s).glb = s.glb := dmaWrite_keeps.glb_eq rfl
@[simp] theorem dmaWrite_mem {a0 a1 s} : (dmaWrite a0 a1 s).mem = s.mem := dmaWrite_keeps.mem_eq rfl
@[simp] theorem dmaWrite_getReg {a0 a1 s} {off} : getReg (dmaWrite a0 a1 s) off = getReg s off := dmaWrite_keeps.getReg_eq rfl
@[simp] theorem dmaWrite_cnt {a0 a1 s} : (dmaWrite a0 a1 s).cnt = s.cnt := dmaWrite_keeps.at .cnt rfl
@[simp] theorem dmaWrite_clk {a0 a1 s} : (dmaWrite a0 a1 s).clk = s.clk := dmaWrite_keeps.at .clk rfl
@[simp] theorem dmaWrite_streams {a0 a1 s} : (dmaWrite a0 a1 s).streams = s.streams := dmaWrite_keeps.at .streams rfl
@[simp] theorem dmaWrite_msgs {a0 a1 s} : (dmaWrite a0 a1 s).msgs = s.msgs := dmaWrite_keeps.at .msgs rfl
@[simp] theorem dmaWrite_frames {a0 a1 s} : (dmaWrite a0 a1 s).frames = s.frames := dmaWrite_keeps.at .frames rfl
@[simp] theorem dmaWrite_plg {a0 a1 s} : (dmaWrite a0 a1 s).plg = s.plg := dmaWrite_keeps.at .plg rfl
@[simp] theorem dmaWrite_tables {a0 a1 s} : (dmaWrite a0 a1 s).tables = s.tables := dmaWrite_keeps.at .tables rfl
@[simp] theorem dmaWrite_tblBad {a0 a1 s} : (dmaWrite a0 a1 s).tblBad = s.tblBad := dmaWrite_keeps.at .tblBad rfl
@[simp] theorem dmaWrite_egress {a0 a1 s} : (dmaWrite a0 a1 s).egress = s.egress := dmaWrite_keeps.at .egress rfl
@[simp] theorem dmaWrite_slots {a0 a1 s} : (dmaWrite a0 a1 s).slots = s.slots := dmaWrite_keeps.at .slots rfl
@[simp] theorem dmaWrite_sheaves {a0 a1 s} : (dmaWrite a0 a1 s).sheaves = s.sheaves := dmaWrite_keeps.at .sheaves rfl
@[simp] theorem dmaWrite_groups {a0 a1 s} : (dmaWrite a0 a1 s).groups = s.groups := dmaWrite_keeps.at .groups rfl
@[simp] theorem dmaWrite_plots {a0 a1 s} : (dmaWrite a0 a1 s).plots = s.plots := dmaWrite_keeps.at .plots rfl
@[simp] theorem dmaWrite_tiles {a0 a1 s} : (dmaWrite a0 a1 s).tiles = s.tiles := dmaWrite_keeps.at .tiles rfl
@[simp] theorem dmaWrite_switches {a0 a1 s} : (dmaWrite a0 a1 s).switches = s.switches := dmaWrite_keeps.at .switches rfl
@[simp] theorem dmaWrite_sus {a0 a1 s} : (dmaWrite a0 a1 s).sus = s.sus := dmaWrite_keeps.at .sus rfl
@[simp] theorem dmaWrite_fab {a0 a1 s} : (dmaWrite a0 a1 s).fab = s.fab := dmaWrite_keeps.at .fab rfl
@[simp] theorem dmaWrite_waits {a0 a1 s} : (dmaWrite a0 a1 s).waits = s.waits := dmaWrite_keeps.at .waits rfl
@[simp] theorem dmaWrite_yoke {a0 a1 s} : (dmaWrite a0 a1 s).yoke = s.yoke := dmaWrite_keeps.at .yoke rfl
@[simp] theorem dmaWrite_answer {a0 a1 s} : (dmaWrite a0 a1 s).answer = s.answer := dmaWrite_keeps.at .answer rfl
@[simp] theorem dmaWrite_ports {a0 a1 s} : (dmaWrite a0 a1 s).ports = s.ports := dmaWrite_keeps.at .ports rfl
@[simp] theorem dmaWrite_fm {a0 a1 s} : (dmaWrite a0 a1 s).fm = s.fm := dmaWrite_keeps.at .fm rfl
@[simp] theorem dmaWrite_bbs {a0 a1 s} : (dmaWrite a0 a1 s).bbs = s.bbs := dmaWrite_keeps.at .bbs rfl
@[simp] theorem dmaWrite_ptp {a0 a1 s} : (dmaWrite a0 a1 s).ptp = s.ptp := dmaWrite_keeps.at .ptp rfl
@[simp] theorem dmaWrite_links {a0 a1 s} : (dmaWrite a0 a1 s).links = s.links := dmaWrite_keeps.at .links rfl
@[simp] theorem dmaWrite_hrw {a0 a1 s} : (dmaWrite a0 a1 s).hrw = s.hrw := dmaWrite_keeps.at .hrw rfl
@[simp] theorem dmaWrite_twp {a0 a1 s} : (dmaWrite a0 a1 s).twp = s.twp := dmaWrite_keeps.at .twp rfl
@[simp] theorem dmaWrite_tap {a0 a1 s} : (dmaWrite a0 a1 s).tap = s.tap := dmaWrite_keeps.at .tap rfl
@[simp] theorem dmaWrite_trc {a0 a1 s} : (dmaWrite a0 a1 s).trc = s.trc := dmaWrite_keeps.at .trc rfl
@[simp] theorem dmaWrite_alert {a0 a1 s} : (dmaWrite a0 a1 s).alert = s.alert := dmaWrite_keeps.at .alert rfl
@[simp] theorem dmaWrite_nextMid {a0 a1 s} : (dmaWrite a0 a1 s).nextMid = s.nextMid := dmaWrite_keeps.at .nextMid rfl
@[simp] theorem dmaWrite_nextFid {a0 a1 s} : (dmaWrite a0 a1 s).nextFid = s.nextFid := dmaWrite_keeps.at .nextFid rfl
@[simp] theorem dmaWrite_nextBuild {a0 a1 s} : (dmaWrite a0 a1 s).nextBuild = s.nextBuild := dmaWrite_keeps.at .nextBuild rfl
@[simp] theorem dmaWrite_nextSid {a0 a1 s} : (dmaWrite a0 a1 s).nextSid = s.nextSid := dmaWrite_keeps.at .nextSid rfl
@[simp] theorem dmaWrite_freeCtr {a0 a1 s} : (dmaWrite a0 a1 s).freeCtr = s.freeCtr := dmaWrite_keeps.at .freeCtr rfl
@[simp] theorem dmaWrite_pending {a0 a1 s} : (dmaWrite a0 a1 s).pending = s.pending := dmaWrite_keeps.at .pending rfl

@[simp] theorem setYok_glb {a0 s} : (setYok a0 s).glb = s.glb := setYok_keeps.glb_eq rfl
@[simp] theorem setYok_mem {a0 s} : (setYok a0 s).mem = s.mem := setYok_keeps.mem_eq rfl
@[simp] theorem setYok_streams {a0 s} : (setYok a0 s).streams = s.streams := setYok_keeps.at .streams rfl
@[simp] theorem setYok_msgs {a0 s} : (setYok a0 s).msgs = s.msgs := setYok_keeps.at .msgs rfl
@[simp] theorem setYok_frames {a0 s} : (setYok a0 s).frames = s.frames := setYok_keeps.at .frames rfl
@[simp] theorem setYok_plg {a0 s} : (setYok a0 s).plg = s.plg := setYok_keeps.at .plg rfl
@[simp] theorem setYok_tables {a0 s} : (setYok a0 s).tables = s.tables := setYok_keeps.at .tables rfl
@[simp] theorem setYok_tblBad {a0 s} : (setYok a0 s).tblBad = s.tblBad := setYok_keeps.at .tblBad rfl
@[simp] theorem setYok_egress {a0 s} : (setYok a0 s).egress = s.egress := setYok_keeps.at .egress rfl
@[simp] theorem setYok_slots {a0 s} : (setYok a0 s).slots = s.slots := setYok_keeps.at .slots rfl
@[simp] theorem setYok_sheaves {a0 s} : (setYok a0 s).sheaves = s.sheaves := setYok_keeps.at .sheaves rfl
@[simp] theorem setYok_groups {a0 s} : (setYok a0 s).groups = s.groups := setYok_keeps.at .groups rfl
@[simp] theorem setYok_tiles {a0 s} : (setYok a0 s).tiles = s.tiles := setYok_keeps.at .tiles rfl
@[simp] theorem setYok_switches {a0 s} : (setYok a0 s).switches = s.switches := setYok_keeps.at .switches rfl
@[simp] theorem setYok_sus {a0 s} : (setYok a0 s).sus = s.sus := setYok_keeps.at .sus rfl
@[simp] theorem setYok_fab {a0 s} : (setYok a0 s).fab = s.fab := setYok_keeps.at .fab rfl
@[simp] theorem setYok_waits {a0 s} : (setYok a0 s).waits = s.waits := setYok_keeps.at .waits rfl
@[simp] theorem setYok_yoke {a0 s} : (setYok a0 s).yoke = s.yoke := setYok_keeps.at .yoke rfl
@[simp] theorem setYok_answer {a0 s} : (setYok a0 s).answer = s.answer := setYok_keeps.at .answer rfl
@[simp] theorem setYok_ports {a0 s} : (setYok a0 s).ports = s.ports := setYok_keeps.at .ports rfl
@[simp] theorem setYok_fm {a0 s} : (setYok a0 s).fm = s.fm := setYok_keeps.at .fm rfl
@[simp] theorem setYok_bbs {a0 s} : (setYok a0 s).bbs = s.bbs := setYok_keeps.at .bbs rfl
@[simp] theorem setYok_ptp {a0 s} : (setYok a0 s).ptp = s.ptp := setYok_keeps.at .ptp rfl
@[simp] theorem setYok_links {a0 s} : (setYok a0 s).links = s.links := setYok_keeps.at .links rfl
@[simp] theorem setYok_hrw {a0 s} : (setYok a0 s).hrw = s.hrw := setYok_keeps.at .hrw rfl
@[simp] theorem setYok_twp {a0 s} : (setYok a0 s).twp = s.twp := setYok_keeps.at .twp rfl
@[simp] theorem setYok_tap {a0 s} : (setYok a0 s).tap = s.tap := setYok_keeps.at .tap rfl
@[simp] theorem setYok_trc {a0 s} : (setYok a0 s).trc = s.trc := setYok_keeps.at .trc rfl
@[simp] theorem setYok_nextMid {a0 s} : (setYok a0 s).nextMid = s.nextMid := setYok_keeps.at .nextMid rfl
@[simp] theorem setYok_nextFid {a0 s} : (setYok a0 s).nextFid = s.nextFid := setYok_keeps.at .nextFid rfl
@[simp] theorem setYok_nextBuild {a0 s} : (setYok a0 s).nextBuild = s.nextBuild := setYok_keeps.at .nextBuild rfl
@[simp] theorem setYok_nextSid {a0 s} : (setYok a0 s).nextSid = s.nextSid := setYok_keeps.at .nextSid rfl
@[simp] theorem setYok_freeCtr {a0 s} : (setYok a0 s).freeCtr = s.freeCtr := setYok_keeps.at .freeCtr rfl
@[simp] theorem setYok_pending {a0 s} : (setYok a0 s).pending = s.pending := setYok_keeps.at .pending rfl

@[simp] theorem yokReport_glb {s} : (yokReport s).glb = s.glb := yokReport_keeps.glb_eq rfl
@[simp] theorem yokReport_mem {s} : (yokReport s).mem = s.mem := yokReport_keeps.mem_eq rfl
@[simp] theorem yokReport_cnt {s} : (yokReport s).cnt = s.cnt := yokReport_keeps.at .cnt rfl
@[simp] theorem yokReport_clk {s} : (yokReport s).clk = s.clk := yokReport_keeps.at .clk rfl
@[simp] theorem yokReport_hif {s} : (yokReport s).hif = s.hif := yokReport_keeps.at .hif rfl
@[simp] theorem yokReport_streams {s} : (yokReport s).streams = s.streams := yokReport_keeps.at .streams rfl
@[simp] theorem yokReport_msgs {s} : (yokReport s).msgs = s.msgs := yokReport_keeps.at .msgs rfl
@[simp] theorem yokReport_frames {s} : (yokReport s).frames = s.frames := yokReport_keeps.at .frames rfl
@[simp] theorem yokReport_plg {s} : (yokReport s).plg = s.plg := yokReport_keeps.at .plg rfl
@[simp] theorem yokReport_tables {s} : (yokReport s).tables = s.tables := yokReport_keeps.at .tables rfl
@[simp] theorem yokReport_tblBad {s} : (yokReport s).tblBad = s.tblBad := yokReport_keeps.at .tblBad rfl
@[simp] theorem yokReport_egress {s} : (yokReport s).egress = s.egress := yokReport_keeps.at .egress rfl
@[simp] theorem yokReport_slots {s} : (yokReport s).slots = s.slots := yokReport_keeps.at .slots rfl
@[simp] theorem yokReport_sheaves {s} : (yokReport s).sheaves = s.sheaves := yokReport_keeps.at .sheaves rfl
@[simp] theorem yokReport_groups {s} : (yokReport s).groups = s.groups := yokReport_keeps.at .groups rfl
@[simp] theorem yokReport_plots {s} : (yokReport s).plots = s.plots := yokReport_keeps.at .plots rfl
@[simp] theorem yokReport_tiles {s} : (yokReport s).tiles = s.tiles := yokReport_keeps.at .tiles rfl
@[simp] theorem yokReport_switches {s} : (yokReport s).switches = s.switches := yokReport_keeps.at .switches rfl
@[simp] theorem yokReport_sus {s} : (yokReport s).sus = s.sus := yokReport_keeps.at .sus rfl
@[simp] theorem yokReport_fab {s} : (yokReport s).fab = s.fab := yokReport_keeps.at .fab rfl
@[simp] theorem yokReport_waits {s} : (yokReport s).waits = s.waits := yokReport_keeps.at .waits rfl
@[simp] theorem yokReport_yoke {s} : (yokReport s).yoke = s.yoke := yokReport_keeps.at .yoke rfl
@[simp] theorem yokReport_answer {s} : (yokReport s).answer = s.answer := yokReport_keeps.at .answer rfl
@[simp] theorem yokReport_ports {s} : (yokReport s).ports = s.ports := yokReport_keeps.at .ports rfl
@[simp] theorem yokReport_fm {s} : (yokReport s).fm = s.fm := yokReport_keeps.at .fm rfl
@[simp] theorem yokReport_bbs {s} : (yokReport s).bbs = s.bbs := yokReport_keeps.at .bbs rfl
@[simp] theorem yokReport_ptp {s} : (yokReport s).ptp = s.ptp := yokReport_keeps.at .ptp rfl
@[simp] theorem yokReport_links {s} : (yokReport s).links = s.links := yokReport_keeps.at .links rfl
@[simp] theorem yokReport_hrw {s} : (yokReport s).hrw = s.hrw := yokReport_keeps.at .hrw rfl
@[simp] theorem yokReport_twp {s} : (yokReport s).twp = s.twp := yokReport_keeps.at .twp rfl
@[simp] theorem yokReport_tap {s} : (yokReport s).tap = s.tap := yokReport_keeps.at .tap rfl
@[simp] theorem yokReport_trc {s} : (yokReport s).trc = s.trc := yokReport_keeps.at .trc rfl
@[simp] theorem yokReport_alert {s} : (yokReport s).alert = s.alert := yokReport_keeps.at .alert rfl
@[simp] theorem yokReport_nextMid {s} : (yokReport s).nextMid = s.nextMid := yokReport_keeps.at .nextMid rfl
@[simp] theorem yokReport_nextFid {s} : (yokReport s).nextFid = s.nextFid := yokReport_keeps.at .nextFid rfl
@[simp] theorem yokReport_nextBuild {s} : (yokReport s).nextBuild = s.nextBuild := yokReport_keeps.at .nextBuild rfl
@[simp] theorem yokReport_nextSid {s} : (yokReport s).nextSid = s.nextSid := yokReport_keeps.at .nextSid rfl
@[simp] theorem yokReport_freeCtr {s} : (yokReport s).freeCtr = s.freeCtr := yokReport_keeps.at .freeCtr rfl
@[simp] theorem yokReport_pending {s} : (yokReport s).pending = s.pending := yokReport_keeps.at .pending rfl

@[simp] theorem readySheaves_glb {s} : (readySheaves s).glb = s.glb := readySheaves_keeps.glb_eq rfl
@[simp] theorem readySheaves_mem {s} : (readySheaves s).mem = s.mem := readySheaves_keeps.mem_eq rfl
@[simp] theorem readySheaves_getReg {s} {off} : getReg (readySheaves s) off = getReg s off := readySheaves_keeps.getReg_eq rfl
@[simp] theorem readySheaves_clk {s} : (readySheaves s).clk = s.clk := readySheaves_keeps.at .clk rfl
@[simp] theorem readySheaves_frames {s} : (readySheaves s).frames = s.frames := readySheaves_keeps.at .frames rfl
@[simp] theorem readySheaves_plg {s} : (readySheaves s).plg = s.plg := readySheaves_keeps.at .plg rfl
@[simp] theorem readySheaves_tables {s} : (readySheaves s).tables = s.tables := readySheaves_keeps.at .tables rfl
@[simp] theorem readySheaves_tblBad {s} : (readySheaves s).tblBad = s.tblBad := readySheaves_keeps.at .tblBad rfl
@[simp] theorem readySheaves_answer {s} : (readySheaves s).answer = s.answer := readySheaves_keeps.at .answer rfl
@[simp] theorem readySheaves_ports {s} : (readySheaves s).ports = s.ports := readySheaves_keeps.at .ports rfl
@[simp] theorem readySheaves_fm {s} : (readySheaves s).fm = s.fm := readySheaves_keeps.at .fm rfl
@[simp] theorem readySheaves_bbs {s} : (readySheaves s).bbs = s.bbs := readySheaves_keeps.at .bbs rfl
@[simp] theorem readySheaves_ptp {s} : (readySheaves s).ptp = s.ptp := readySheaves_keeps.at .ptp rfl
@[simp] theorem readySheaves_twp {s} : (readySheaves s).twp = s.twp := readySheaves_keeps.at .twp rfl
@[simp] theorem readySheaves_tap {s} : (readySheaves s).tap = s.tap := readySheaves_keeps.at .tap rfl
@[simp] theorem readySheaves_trc {s} : (readySheaves s).trc = s.trc := readySheaves_keeps.at .trc rfl
@[simp] theorem readySheaves_nextMid {s} : (readySheaves s).nextMid = s.nextMid := readySheaves_keeps.at .nextMid rfl
@[simp] theorem readySheaves_nextFid {s} : (readySheaves s).nextFid = s.nextFid := readySheaves_keeps.at .nextFid rfl
@[simp] theorem readySheaves_freeCtr {s} : (readySheaves s).freeCtr = s.freeCtr := readySheaves_keeps.at .freeCtr rfl
@[simp] theorem readySheaves_pending {s} : (readySheaves s).pending = s.pending := readySheaves_keeps.at .pending rfl

@[simp] theorem placeUnplaced_glb {s} : (placeUnplaced s).glb = s.glb := placeUnplaced_keeps.glb_eq rfl
@[simp] theorem placeUnplaced_mem {s} : (placeUnplaced s).mem = s.mem := placeUnplaced_keeps.mem_eq rfl
@[simp] theorem placeUnplaced_getReg {s} {off} : getReg (placeUnplaced s) off = getReg s off := placeUnplaced_keeps.getReg_eq rfl
@[simp] theorem placeUnplaced_cnt {s} : (placeUnplaced s).cnt = s.cnt := placeUnplaced_keeps.at .cnt rfl
@[simp] theorem placeUnplaced_clk {s} : (placeUnplaced s).clk = s.clk := placeUnplaced_keeps.at .clk rfl
@[simp] theorem placeUnplaced_hif {s} : (placeUnplaced s).hif = s.hif := placeUnplaced_keeps.at .hif rfl
@[simp] theorem placeUnplaced_streams {s} : (placeUnplaced s).streams = s.streams := placeUnplaced_keeps.at .streams rfl
@[simp] theorem placeUnplaced_msgs {s} : (placeUnplaced s).msgs = s.msgs := placeUnplaced_keeps.at .msgs rfl
@[simp] theorem placeUnplaced_frames {s} : (placeUnplaced s).frames = s.frames := placeUnplaced_keeps.at .frames rfl
@[simp] theorem placeUnplaced_plg {s} : (placeUnplaced s).plg = s.plg := placeUnplaced_keeps.at .plg rfl
@[simp] theorem placeUnplaced_tables {s} : (placeUnplaced s).tables = s.tables := placeUnplaced_keeps.at .tables rfl
@[simp] theorem placeUnplaced_tblBad {s} : (placeUnplaced s).tblBad = s.tblBad := placeUnplaced_keeps.at .tblBad rfl
@[simp] theorem placeUnplaced_egress {s} : (placeUnplaced s).egress = s.egress := placeUnplaced_keeps.at .egress rfl
@[simp] theorem placeUnplaced_slots {s} : (placeUnplaced s).slots = s.slots := placeUnplaced_keeps.at .slots rfl
@[simp] theorem placeUnplaced_sheaves {s} : (placeUnplaced s).sheaves = s.sheaves := placeUnplaced_keeps.at .sheaves rfl
@[simp] theorem placeUnplaced_yoke {s} : (placeUnplaced s).yoke = s.yoke := placeUnplaced_keeps.at .yoke rfl
@[simp] theorem placeUnplaced_answer {s} : (placeUnplaced s).answer = s.answer := placeUnplaced_keeps.at .answer rfl
@[simp] theorem placeUnplaced_ports {s} : (placeUnplaced s).ports = s.ports := placeUnplaced_keeps.at .ports rfl
@[simp] theorem placeUnplaced_fm {s} : (placeUnplaced s).fm = s.fm := placeUnplaced_keeps.at .fm rfl
@[simp] theorem placeUnplaced_bbs {s} : (placeUnplaced s).bbs = s.bbs := placeUnplaced_keeps.at .bbs rfl
@[simp] theorem placeUnplaced_ptp {s} : (placeUnplaced s).ptp = s.ptp := placeUnplaced_keeps.at .ptp rfl
@[simp] theorem placeUnplaced_twp {s} : (placeUnplaced s).twp = s.twp := placeUnplaced_keeps.at .twp rfl
@[simp] theorem placeUnplaced_tap {s} : (placeUnplaced s).tap = s.tap := placeUnplaced_keeps.at .tap rfl
@[simp] theorem placeUnplaced_trc {s} : (placeUnplaced s).trc = s.trc := placeUnplaced_keeps.at .trc rfl
@[simp] theorem placeUnplaced_alert {s} : (placeUnplaced s).alert = s.alert := placeUnplaced_keeps.at .alert rfl
@[simp] theorem placeUnplaced_nextMid {s} : (placeUnplaced s).nextMid = s.nextMid := placeUnplaced_keeps.at .nextMid rfl
@[simp] theorem placeUnplaced_nextFid {s} : (placeUnplaced s).nextFid = s.nextFid := placeUnplaced_keeps.at .nextFid rfl
@[simp] theorem placeUnplaced_nextBuild {s} : (placeUnplaced s).nextBuild = s.nextBuild := placeUnplaced_keeps.at .nextBuild rfl
@[simp] theorem placeUnplaced_nextSid {s} : (placeUnplaced s).nextSid = s.nextSid := placeUnplaced_keeps.at .nextSid rfl
@[simp] theorem placeUnplaced_freeCtr {s} : (placeUnplaced s).freeCtr = s.freeCtr := placeUnplaced_keeps.at .freeCtr rfl
@[simp] theorem placeUnplaced_pending {s} : (placeUnplaced s).pending = s.pending := placeUnplaced_keeps.at .pending rfl

@[simp] theorem settleStream_glb {a0 s} : (settleStream a0 s).glb = s.glb := settleStream_keeps.glb_eq rfl
@[simp] theorem settleStream_mem {a0 s} : (settleStream a0 s).mem = s.mem := settleStream_keeps.mem_eq rfl
@[simp] theorem settleStream_getReg {a0 s} {off} : getReg (settleStream a0 s) off = getReg s off := settleStream_keeps.getReg_eq rfl
@[simp] theorem settleStream_clk {a0 s} : (settleStream a0 s).clk = s.clk := settleStream_keeps.at .clk rfl
@[simp] theorem settleStream_frames {a0 s} : (settleStream a0 s).frames = s.frames := settleStream_keeps.at .frames rfl
@[simp] theorem settleStream_plg {a0 s} : (settleStream a0 s).plg = s.plg := settleStream_keeps.at .plg rfl
@[simp] theorem settleStream_tables {a0 s} : (settleStream a0 s).tables = s.tables := settleStream_keeps.at .tables rfl
@[simp] theorem settleStream_tblBad {a0 s} : (settleStream a0 s).tblBad = s.tblBad := settleStream_keeps.at .tblBad rfl
@[simp] theorem settleStream_tiles {a0 s} : (settleStream a0 s).tiles = s.tiles := settleStream_keeps.at .tiles rfl
@[simp] theorem settleStream_switches {a0 s} : (settleStream a0 s).switches = s.switches := settleStream_keeps.at .switches rfl
@[simp] theorem settleStream_sus {a0 s} : (settleStream a0 s).sus = s.sus := settleStream_keeps.at .sus rfl
@[simp] theorem settleStream_fab {a0 s} : (settleStream a0 s).fab = s.fab := settleStream_keeps.at .fab rfl
@[simp] theorem settleStream_answer {a0 s} : (settleStream a0 s).answer = s.answer := settleStream_keeps.at .answer rfl
@[simp] theorem settleStream_ports {a0 s} : (settleStream a0 s).ports = s.ports := settleStream_keeps.at .ports rfl
@[simp] theorem settleStream_fm {a0 s} : (settleStream a0 s).fm = s.fm := settleStream_keeps.at .fm rfl
@[simp] theorem settleStream_bbs {a0 s} : (settleStream a0 s).bbs = s.bbs := settleStream_keeps.at .bbs rfl
@[simp] theorem settleStream_ptp {a0 s} : (settleStream a0 s).ptp = s.ptp := settleStream_keeps.at .ptp rfl
@[simp] theorem settleStream_links {a0 s} : (settleStream a0 s).links = s.links := settleStream_keeps.at .links rfl
@[simp] theorem settleStream_hrw {a0 s} : (settleStream a0 s).hrw = s.hrw := settleStream_keeps.at .hrw rfl
@[simp] theorem settleStream_twp {a0 s} : (settleStream a0 s).twp = s.twp := settleStream_keeps.at .twp rfl
@[simp] theorem settleStream_tap {a0 s} : (settleStream a0 s).tap = s.tap := settleStream_keeps.at .tap rfl
@[simp] theorem settleStream_trc {a0 s} : (settleStream a0 s).trc = s.trc := settleStream_keeps.at .trc rfl
@[simp] theorem settleStream_nextMid {a0 s} : (settleStream a0 s).nextMid = s.nextMid := settleStream_keeps.at .nextMid rfl
@[simp] theorem settleStream_nextFid {a0 s} : (settleStream a0 s).nextFid = s.nextFid := settleStream_keeps.at .nextFid rfl
@[simp] theorem settleStream_freeCtr {a0 s} : (settleStream a0 s).freeCtr = s.freeCtr := settleStream_keeps.at .freeCtr rfl
@[simp] theorem settleStream_pending {a0 s} : (settleStream a0 s).pending = s.pending := settleStream_keeps.at .pending rfl

@[simp] theorem failMsg_glb {a0 a1 s} : (failMsg a0 a1 s).glb = s.glb := failMsg_keeps.glb_eq rfl
@[simp] theorem failMsg_mem {a0 a1 s} : (failMsg a0 a1 s).mem = s.mem := failMsg_keeps.mem_eq rfl
@[simp] theorem failMsg_getReg {a0 a1 s} {off} : getReg (failMsg a0 a1 s) off = getReg s off := failMsg_keeps.getReg_eq rfl
@[simp] theorem failMsg_clk {a0 a1 s} : (failMsg a0 a1 s).clk = s.clk := failMsg_keeps.at .clk rfl
@[simp] theorem failMsg_frames {a0 a1 s} : (failMsg a0 a1 s).frames = s.frames := failMsg_keeps.at .frames rfl
@[simp] theorem failMsg_plg {a0 a1 s} : (failMsg a0 a1 s).plg = s.plg := failMsg_keeps.at .plg rfl
@[simp] theorem failMsg_tables {a0 a1 s} : (failMsg a0 a1 s).tables = s.tables := failMsg_keeps.at .tables rfl
@[simp] theorem failMsg_tblBad {a0 a1 s} : (failMsg a0 a1 s).tblBad = s.tblBad := failMsg_keeps.at .tblBad rfl
@[simp] theorem failMsg_tiles {a0 a1 s} : (failMsg a0 a1 s).tiles = s.tiles := failMsg_keeps.at .tiles rfl
@[simp] theorem failMsg_switches {a0 a1 s} : (failMsg a0 a1 s).switches = s.switches := failMsg_keeps.at .switches rfl
@[simp] theorem failMsg_sus {a0 a1 s} : (failMsg a0 a1 s).sus = s.sus := failMsg_keeps.at .sus rfl
@[simp] theorem failMsg_fab {a0 a1 s} : (failMsg a0 a1 s).fab = s.fab := failMsg_keeps.at .fab rfl
@[simp] theorem failMsg_answer {a0 a1 s} : (failMsg a0 a1 s).answer = s.answer := failMsg_keeps.at .answer rfl
@[simp] theorem failMsg_ports {a0 a1 s} : (failMsg a0 a1 s).ports = s.ports := failMsg_keeps.at .ports rfl
@[simp] theorem failMsg_fm {a0 a1 s} : (failMsg a0 a1 s).fm = s.fm := failMsg_keeps.at .fm rfl
@[simp] theorem failMsg_bbs {a0 a1 s} : (failMsg a0 a1 s).bbs = s.bbs := failMsg_keeps.at .bbs rfl
@[simp] theorem failMsg_ptp {a0 a1 s} : (failMsg a0 a1 s).ptp = s.ptp := failMsg_keeps.at .ptp rfl
@[simp] theorem failMsg_links {a0 a1 s} : (failMsg a0 a1 s).links = s.links := failMsg_keeps.at .links rfl
@[simp] theorem failMsg_hrw {a0 a1 s} : (failMsg a0 a1 s).hrw = s.hrw := failMsg_keeps.at .hrw rfl
@[simp] theorem failMsg_twp {a0 a1 s} : (failMsg a0 a1 s).twp = s.twp := failMsg_keeps.at .twp rfl
@[simp] theorem failMsg_tap {a0 a1 s} : (failMsg a0 a1 s).tap = s.tap := failMsg_keeps.at .tap rfl
@[simp] theorem failMsg_trc {a0 a1 s} : (failMsg a0 a1 s).trc = s.trc := failMsg_keeps.at .trc rfl
@[simp] theorem failMsg_nextMid {a0 a1 s} : (failMsg a0 a1 s).nextMid = s.nextMid := failMsg_keeps.at .nextMid rfl
@[simp] theorem failMsg_nextFid {a0 a1 s} : (failMsg a0 a1 s).nextFid = s.nextFid := failMsg_keeps.at .nextFid rfl
@[simp] theorem failMsg_freeCtr {a0 a1 s} : (failMsg a0 a1 s).freeCtr = s.freeCtr := failMsg_keeps.at .freeCtr rfl
@[simp] theorem failMsg_pending {a0 a1 s} : (failMsg a0 a1 s).pending = s.pending := failMsg_keeps.at .pending rfl

@[simp] theorem leaveSheaf_glb {a0 s} : (leaveSheaf a0 s).glb = s.glb := leaveSheaf_keeps.glb_eq rfl
@[simp] theorem leaveSheaf_mem {a0 s} : (leaveSheaf a0 s).mem = s.mem := leaveSheaf_keeps.mem_eq rfl
@[simp] theorem leaveSheaf_getReg {a0 s} {off} : getReg (leaveSheaf a0 s) off = getReg s off := leaveSheaf_keeps.getReg_eq rfl
@[simp] theorem leaveSheaf_cnt {a0 s} : (leaveSheaf a0 s).cnt = s.cnt := leaveSheaf_keeps.at .cnt rfl
@[simp] theorem leaveSheaf_clk {a0 s} : (leaveSheaf a0 s).clk = s.clk := leaveSheaf_keeps.at .clk rfl
@[simp] theorem leaveSheaf_hif {a0 s} : (leaveSheaf a0 s).hif = s.hif := leaveSheaf_keeps.at .hif rfl
@[simp] theorem leaveSheaf_streams {a0 s} : (leaveSheaf a0 s).streams = s.streams := leaveSheaf_keeps.at .streams rfl
@[simp] theorem leaveSheaf_msgs {a0 s} : (leaveSheaf a0 s).msgs = s.msgs := leaveSheaf_keeps.at .msgs rfl
@[simp] theorem leaveSheaf_frames {a0 s} : (leaveSheaf a0 s).frames = s.frames := leaveSheaf_keeps.at .frames rfl
@[simp] theorem leaveSheaf_plg {a0 s} : (leaveSheaf a0 s).plg = s.plg := leaveSheaf_keeps.at .plg rfl
@[simp] theorem leaveSheaf_tables {a0 s} : (leaveSheaf a0 s).tables = s.tables := leaveSheaf_keeps.at .tables rfl
@[simp] theorem leaveSheaf_tblBad {a0 s} : (leaveSheaf a0 s).tblBad = s.tblBad := leaveSheaf_keeps.at .tblBad rfl
@[simp] theorem leaveSheaf_egress {a0 s} : (leaveSheaf a0 s).egress = s.egress := leaveSheaf_keeps.at .egress rfl
@[simp] theorem leaveSheaf_slots {a0 s} : (leaveSheaf a0 s).slots = s.slots := leaveSheaf_keeps.at .slots rfl
@[simp] theorem leaveSheaf_groups {a0 s} : (leaveSheaf a0 s).groups = s.groups := leaveSheaf_keeps.at .groups rfl
@[simp] theorem leaveSheaf_plots {a0 s} : (leaveSheaf a0 s).plots = s.plots := leaveSheaf_keeps.at .plots rfl
@[simp] theorem leaveSheaf_tiles {a0 s} : (leaveSheaf a0 s).tiles = s.tiles := leaveSheaf_keeps.at .tiles rfl
@[simp] theorem leaveSheaf_switches {a0 s} : (leaveSheaf a0 s).switches = s.switches := leaveSheaf_keeps.at .switches rfl
@[simp] theorem leaveSheaf_sus {a0 s} : (leaveSheaf a0 s).sus = s.sus := leaveSheaf_keeps.at .sus rfl
@[simp] theorem leaveSheaf_fab {a0 s} : (leaveSheaf a0 s).fab = s.fab := leaveSheaf_keeps.at .fab rfl
@[simp] theorem leaveSheaf_answer {a0 s} : (leaveSheaf a0 s).answer = s.answer := leaveSheaf_keeps.at .answer rfl
@[simp] theorem leaveSheaf_ports {a0 s} : (leaveSheaf a0 s).ports = s.ports := leaveSheaf_keeps.at .ports rfl
@[simp] theorem leaveSheaf_fm {a0 s} : (leaveSheaf a0 s).fm = s.fm := leaveSheaf_keeps.at .fm rfl
@[simp] theorem leaveSheaf_bbs {a0 s} : (leaveSheaf a0 s).bbs = s.bbs := leaveSheaf_keeps.at .bbs rfl
@[simp] theorem leaveSheaf_ptp {a0 s} : (leaveSheaf a0 s).ptp = s.ptp := leaveSheaf_keeps.at .ptp rfl
@[simp] theorem leaveSheaf_links {a0 s} : (leaveSheaf a0 s).links = s.links := leaveSheaf_keeps.at .links rfl
@[simp] theorem leaveSheaf_hrw {a0 s} : (leaveSheaf a0 s).hrw = s.hrw := leaveSheaf_keeps.at .hrw rfl
@[simp] theorem leaveSheaf_twp {a0 s} : (leaveSheaf a0 s).twp = s.twp := leaveSheaf_keeps.at .twp rfl
@[simp] theorem leaveSheaf_tap {a0 s} : (leaveSheaf a0 s).tap = s.tap := leaveSheaf_keeps.at .tap rfl
@[simp] theorem leaveSheaf_trc {a0 s} : (leaveSheaf a0 s).trc = s.trc := leaveSheaf_keeps.at .trc rfl
@[simp] theorem leaveSheaf_alert {a0 s} : (leaveSheaf a0 s).alert = s.alert := leaveSheaf_keeps.at .alert rfl
@[simp] theorem leaveSheaf_nextMid {a0 s} : (leaveSheaf a0 s).nextMid = s.nextMid := leaveSheaf_keeps.at .nextMid rfl
@[simp] theorem leaveSheaf_nextFid {a0 s} : (leaveSheaf a0 s).nextFid = s.nextFid := leaveSheaf_keeps.at .nextFid rfl
@[simp] theorem leaveSheaf_nextBuild {a0 s} : (leaveSheaf a0 s).nextBuild = s.nextBuild := leaveSheaf_keeps.at .nextBuild rfl
@[simp] theorem leaveSheaf_nextSid {a0 s} : (leaveSheaf a0 s).nextSid = s.nextSid := leaveSheaf_keeps.at .nextSid rfl
@[simp] theorem leaveSheaf_freeCtr {a0 s} : (leaveSheaf a0 s).freeCtr = s.freeCtr := leaveSheaf_keeps.at .freeCtr rfl
@[simp] theorem leaveSheaf_pending {a0 s} : (leaveSheaf a0 s).pending = s.pending := leaveSheaf_keeps.at .pending rfl

end Sys2Proof.Machine
end

