-- ==== Sys2Proof/Certificates/Slice0/Obligations.lean ====
section
/-! DEFINITION. The statements about the DZ640 for the provers. A clause about a command says what the command's own effect leaves in the
next state, for every state and operands that meet the hypotheses; names of rules are the manual's. -/

open Sys2Proof Sys2Proof.Machine

/-! ### The whole block -/

/-- A step runs the command at the front of the queue on the state with the rest of the queue.
Where the manual leaves a point open it follows the model's own choice: log 13. -/
def Obligations.StepRunsFront : Prop :=
  ∀ (s : State) (c : Instr) (rest : List Instr), s.pending = c :: rest → step s = exec c { s with pending := rest }

/-- The state after reset meets the invariant.
Where the manual leaves a point open it follows the model's own choice: log 1, 6, 14. -/
def Obligations.ResetMeetsInvariant : Prop := Inv State.reset

/-- Every step keeps the invariant: memory, its poison, the registers and the counters stay in canonical form, and bit 0 of the DIESEL
register, the I/O die's, stays 1 (R435).
Where the manual leaves a point open it follows the model's own choice: log 8, 14. -/
def Obligations.StepKeepsInvariant : Prop := ∀ s t : State, Inv s → step s = .next t → Inv t

/-- Every command that goes on changes only the parts that the frame table names for it; of the registers only those of the blocks named,
of HBM nothing unless named; and no command touches the queue of waiting commands.
Where the manual leaves a point open it follows the model's own choice: log 8. -/
def Obligations.FrameOfEveryCommand : Prop :=
  ∀ (c : Instr) (s t : State), exec c s = .next t → ChangesOnly (mayChange c) s t ∧ t.pending = s.pending

/-- Every command goes on: none is refused, and only RUN_SET and REGISTER_WRITE fault, on a part whose IOD_GEN the manual does not cover (R3).
Where the manual leaves a point open it follows the model's own choice: log 9, 89. -/
def Obligations.EveryCommandGoesOn : Prop :=
  ∀ (c : Instr) (s : State),
    (∃ t, exec c s = .next t) ∨
      (exec c s = .fault .partNotCovered ∧ s.glb.otp.iodGen ≠ 2 ∧ s.glb.otp.iodGen ≠ 3 ∧
        (c = .runSet ∨ ∃ off v be, c = .registerWrite off v be))

/-- Once RUN reads 1, only a cold or hard reset clears it, whatever the command (R358). -/
def Obligations.OnlyHardResetClearsRun : Prop :=
  ∀ (c : Instr) (s t : State), hardResets c = false → s.glb.run = true → exec c s = .next t → t.glb.run = true

/-- A device-fatal engine stays so until a hard or cold reset (R399); a latched THERMTRIP_N and a rail fault end only with the power (R302, R459). -/
def Obligations.FatalAndShutdownHold : Prop :=
  ∀ (c : Instr) (s t : State), exec c s = .next t →
    (hardResets c = false → s.glb.deviceFatal = true → t.glb.deviceFatal = true) ∧
    (c ≠ .powerOff → s.glb.powered = true → s.glb.thermtrip = true → t.glb.thermtrip = true) ∧
    (c ≠ .powerOff → s.glb.powered = true → s.glb.railFault = true → t.glb.railFault = true)

/-! ### Power, resets, bring-up (R297 to R313, R358, R459) -/

/-- POWER_ON, POWER_OFF, RAIL_FAULT, DEV_RST_ASSERT, DEV_RST_RELEASE, THERMAL_TRIP, PLL_LOSS and PLL_RELOCK: each reset clears what Table
RST-1 lists, the causes are kept, and bring-up starts at phase OTP when nothing holds the engine.
Where the manual leaves a point open it follows the model's own choice: log 1, 6. -/
def Obligations.HardResetsClear : Prop :=
  (∀ (s : State) (gen rev : Fin 16) (serial : BitVec 64) (fm63 : List Byte) (seed : Fin 16) (smb : Fin 8), s.glb.powered = false →
    ∃ t, exec (.powerOn gen rev serial fm63 seed smb) s = .next t ∧ Cleared t ∧ (∀ off, getReg t off = (regReset off).toNat) ∧
      t.glb.powered = true ∧ t.glb.devRstLow = true ∧ t.glb.thermtrip = false ∧ t.glb.railFault = false ∧ t.glb.otp.iodGen = gen ∧
      t.glb.otp.serial = serial.toNat ∧ t.glb.pinSeed = seed) ∧
  (∀ s : State, ∃ t, exec .powerOff s = .next t ∧ Cleared t ∧ (∀ off, getReg t off = (regReset off).toNat) ∧ t.glb.powered = false ∧
    t.glb.thermtrip = false) ∧
  (∀ s : State, s.glb.powered = true → s.glb.devRstLow = false →
    ∃ t, exec .railFault s = .next t ∧ Cleared t ∧ t.glb.railFault = true ∧ heldInReset t = true ∧ getReg t 0x0440 = getReg s 0x0440) ∧
  (∀ (s : State) (ns : Nat), 10000 ≤ ns →
    ∃ t, exec (.devRstAssert ns) s = .next t ∧ Cleared t ∧ t.glb.devRstLow = true ∧ heldInReset t = true ∧
      (getReg t 0x0440).testBit 1 = true ∧ (∀ off, off ≠ 0x0440 → off ≠ 0x2820 → getReg t off = (regReset off).toNat)) ∧
  (∀ s : State, s.glb.devRstLow = true → s.glb.powered = true → s.glb.thermtrip = false → s.glb.railFault = false → s.glb.pllHold = false →
    ∃ t, exec .devRstRelease s = .next t ∧ t.glb.phase = .otp ∧ t.glb.devRstLow = false ∧ t.glb.strapSeed = s.glb.pinSeed ∧
      t.glb.strapSmb = s.glb.pinSmb ∧ getReg t 0x2820 = s.glb.pinSeed % 2 ^ 32) ∧
  (∀ s : State, s.glb.powered = true →
    ∃ t, exec .thermalTrip s = .next t ∧ Cleared t ∧ t.glb.thermtrip = true ∧ heldInReset t = true ∧ getReg t 0x0440 = getReg s 0x0440) ∧
  (∀ s : State, s.clk.pllLock = true →
    ∃ t, exec .pllLoss s = .next t ∧ Cleared t ∧ t.clk.pllLock = false ∧ t.glb.pllHold = true ∧ (getReg t 0x0440).testBit 2 = true) ∧
  (∀ s : State, s.glb.pllHold = true → s.glb.powered = true → s.glb.devRstLow = false → s.glb.thermtrip = false → s.glb.railFault = false →
    ∃ t, exec .pllRelock s = .next t ∧ t.glb.phase = .otp ∧ t.glb.pllHold = false ∧ t.regs = s.regs)

/-- BRINGUP_OTP_DONE, BRINGUP_CLOCKS_LOCKED, BRINGUP_LINKS_TRAINED, BRINGUP_MEMORY_DONE, STANDBY_REACHED and RUN_SET: the phases of Table
RST-4 in order, FAILED with its cause where R313 names one, and RUN taken at once in STANDBY, or held before it.
Where the manual leaves a point open it follows the model's own choice: log 84. -/
def Obligations.BringUpPhases : Prop :=
  (∀ s : State, s.glb.phase = .otp → ∃ t, exec (.bringupOtpDone true) s = .next t ∧ t.glb.phase = .clocks ∧ t.glb.fail = s.glb.fail) ∧
  (∀ s : State, s.glb.phase = .otp → ∃ t, exec (.bringupOtpDone false) s = .next t ∧ t.glb.phase = .failed ∧ t.glb.fail = 1 ∧ faultLow t = true) ∧
  (∀ (s : State) (dlls : Fin 16), s.glb.phase = .clocks →
    ∃ t, exec (.bringupClocksLocked false dlls) s = .next t ∧ t.glb.phase = .failed ∧ t.glb.fail = 2) ∧
  (∀ (s : State) (dlls : Fin 16), s.glb.phase = .clocks →
    ∃ t, exec (.bringupClocksLocked true dlls) s = .next t ∧ t.clk.pllLock = true ∧ t.clk.devTime = 0 ∧ t.clk.dllLock = dlls ∧
      (t.glb.phase = if t.glb.dieFatal % 16 = 15 then .failed else .links)) ∧
  (∀ (s : State) (quads : List (Fin 16 × Fin 16)), s.glb.phase = .links →
    ∃ t, exec (.bringupLinksTrained quads) s = .next t ∧ (t.glb.phase = if t.glb.dieFatal % 16 = 15 then .failed else .memory)) ∧
  (∀ (s : State) (good : Fin 16), s.glb.phase = .memory → s.glb.memDone = false →
    ∃ t, exec (.bringupMemoryDone good) s = .next t ∧ t.glb.memDone = true ∧ t.mem.hbm = [] ∧ t.mem.poison = [] ∧
      (t.glb.phase = if t.glb.dieFatal % 16 = 15 then .failed else .memory)) ∧
  (∀ (s : State) (pstd : Nat), s.glb.phase = .memory → s.glb.memDone = true → s.glb.run = false → s.glb.runHeld = false → s.yoke.drainReq = false →
    ∃ t, exec (.standbyReached pstd) s = .next t ∧ t.glb.phase = .standby ∧ t.yoke.pstd = pstd ∧ t.yoke.level = pstd ∧ yokState t = 1) ∧
  (∀ s : State, barUp s = true → (s.glb.otp.iodGen = 2 ∨ s.glb.otp.iodGen = 3) → s.glb.phase = .standby → tapBlocks s.tap.ir = false →
    s.yoke.drainReq = false → yokState s = 1 → s.glb.run = false →
    ∃ t, exec .runSet s = .next t ∧ t.glb.run = true ∧ t.glb.runHeld = false ∧ t.glb.phase = .holdoff ∧ yokState t = 2) ∧
  (∀ s : State, barUp s = true → (s.glb.otp.iodGen = 2 ∨ s.glb.otp.iodGen = 3) → s.glb.phase = .memory → s.glb.run = false →
    ∃ t, exec .runSet s = .next t ∧ t.glb.run = false ∧ t.glb.runHeld = true ∧ t.glb.phase = .memory)

/-- SOFT_RST, SOFT_RESET_QUIESCE, SOFT_RESET_CLEAR and SOFT_RESET_RESTORE_DONE: the phases of a soft reset (R303), each with what it
starts or clears (Table RST-2).
Where the manual leaves a point open it follows the model's own choice: log 82, 83. -/
def Obligations.SoftResetPhases : Prop :=
  (∀ (s : State) (imm : Bool), barUp s = true → s.glb.phase = .running → s.glb.soft = .off → s.glb.deviceFatal = false →
    ∃ t, exec (.softRst imm) s = .next t ∧ t.glb.phase = .softReset ∧ t.glb.soft = .ramp ∧ t.glb.softImm = imm ∧ t.glb.softT0 = s.clk.now ∧
      (getReg t 0x0440).testBit 3 = true ∧ getReg t 0x0004 = 4 * b2n imm ∧ (imm = true → t.yoke.level = s.yoke.pstd) ∧ t.msgs = s.msgs) ∧
  (∀ s : State, s.glb.soft = .ramp → s.yoke.level ≤ s.yoke.pstd →
    ∃ t, exec .softResetQuiesce s = .next t ∧ t.glb.soft = .quiesce ∧ t.frames = [] ∧ t.plg.gleans = [] ∧ t.glb.run = s.glb.run) ∧
  (∀ (s : State) (bad : Fin 65536), s.glb.soft = .quiesce → s.msgs = [] → s.bbs.any (fun b => b.2.tx.isSome) = false →
    ∃ t, exec (.softResetClear bad) s = .next t ∧ t.glb.soft = .clear ∧ t.streams = [] ∧ t.sheaves = [] ∧ t.waits = [] ∧ t.tiles = [] ∧
      t.mem.rlc = [] ∧ t.mem.hbm = s.mem.hbm ∧ (∀ k, k < 128 → synVal t k = 0 ∧ synSat t k = false)) ∧
  (∀ s : State, s.glb.soft = .clear → s.glb.run = true → s.yoke.drainReq = false → yokState s = 1 →
    ∃ t, exec .softResetRestoreDone s = .next t ∧ t.glb.soft = .off ∧ t.glb.softImm = false ∧ t.glb.phase = .holdoff ∧ yokState t = 2)

/-- PERST_ASSERT, PERST_RELEASE, FLR, SMB_RST and SMB_RST_RELEASE: before RUN the host interface resets, after RUN it is cut off while the
phase and RUN stay (R305, R306); the two-wire port resets alone (R429).
Where the manual leaves a point open it follows the model's own choice: log 83. -/
def Obligations.HostCutAndPortReset : Prop :=
  (∀ (s : State) (ns : Nat), 1000 ≤ ns → s.glb.perstLow = false → s.glb.powered = true → s.glb.run = false →
    ∃ t, exec (.perstAssert ns) s = .next t ∧ t.glb.perstLow = true ∧ (getReg t 0x0440).testBit 6 = true ∧ HostRegsClear t ∧
      t.glb.iso = s.glb.iso ∧ t.glb.phase = s.glb.phase) ∧
  (∀ (s : State) (ns : Nat), 1000 ≤ ns → s.glb.perstLow = false → s.glb.powered = true → s.glb.run = true → (getReg s 0x0804).testBit 0 = true →
    ∃ t, exec (.perstAssert ns) s = .next t ∧ t.glb.perstLow = true ∧ t.glb.iso = .perst ∧ t.glb.isoT0 = s.clk.now ∧ t.glb.run = true ∧
      t.glb.phase = s.glb.phase ∧ (getReg t 0x0440).testBit 6 = true ∧ HostRegsClear t) ∧
  (∀ s : State, ∃ t, exec .perstRelease s = .next t ∧ t.glb.perstLow = false ∧ t.regs = s.regs) ∧
  (∀ s : State, barUp s = true → ∃ t, exec .flr s = .next t ∧ t.glb.iso = .flr ∧ t.glb.isoT0 = s.clk.now ∧ (getReg t 0x0440).testBit 7 = true ∧
      t.glb.run = s.glb.run ∧ t.glb.phase = s.glb.phase ∧ HostRegsClear t) ∧
  (∀ (s : State) (ns : Nat), 10000 ≤ ns → s.glb.powered = true →
    ∃ t, exec (.smbRst ns) s = .next t ∧ t.glb.smbRstLow = true ∧ t.twp = Twp.init ∧ t.alert.latched = 0 ∧ t.alert.pending = 0 ∧
      (∀ off, 0x3800 ≤ off → off < 0x3820 → getReg t off = (regReset off).toNat)) ∧
  (∀ s : State, s.glb.smbRstLow = true →
    ∃ t, exec .smbRstRelease s = .next t ∧ t.glb.smbRstLow = false ∧ t.glb.strapSmb = s.glb.pinSmb ∧ t.glb.strapSeed = s.glb.strapSeed)

/-- DLL_LOST and STACK_LOSS make a compute die fatal and no other (R298, R396).
Where the manual leaves a point open it follows the model's own choice: log 79. -/
def Obligations.LossOfADie : Prop :=
  (∀ (s : State) (d : Fin 4) (c : Fin 2), s.clk.dllLock.testBit d = true →
    ∃ t, exec (.dllLost d c) s = .next t ∧ t.clk.dllLock.testBit d = false ∧ t.glb.dieFatal.testBit d = true ∧
      (∀ e, e ≠ d.val → t.glb.dieFatal.testBit e = s.glb.dieFatal.testBit e ∧ t.clk.dllLock.testBit e = s.clk.dllLock.testBit e)) ∧
  (∀ (s : State) (d : Fin 4), s.glb.dieOk.testBit d = true → s.glb.dieFatal.testBit d = false →
    ∃ t, exec (.stackLoss d) s = .next t ∧ t.glb.dieFatal.testBit d = true ∧ t.glb.dieOk.testBit d = false ∧ faultLow t = true ∧
      (∀ e, e ≠ d.val → t.glb.dieFatal.testBit e = s.glb.dieFatal.testBit e ∧ t.glb.dieOk.testBit e = s.glb.dieOk.testBit e))

/-! ### Clocks, DEV_TIME, counters and registers (R8, R9, R293, R295, R324, R436, R443 to R452) -/

/-- TDIV_CHANGE_REQUEST, TDIV_SWITCH, DEV_TIME_LOAD, DEV_TIME_LO_READ, COUNTER_LO_READ, COUNTER_HI_READ and COUNTER_CLEAR: a divider
asked for is taken at the switch and no other plot's changes; a read of LO latches the HI half, a read of HI returns what was latched, or
0 when LO has not been read since reset (R8).
Where the manual leaves a point open it follows the model's own choice: log 90. -/
def Obligations.ClocksAndCounters : Prop :=
  (∀ (s : State) (p : Fin 64) (code : Fin 4), plotDiv s p ≤ code → (getTdiv s p ≤ code ∨ windowBottom code ≤ (getPlot s p).mv) →
    ∃ t, exec (.tdivChangeRequest p code) s = .next t ∧ tget 0 p t.clk.tdivReq = code + 1 ∧ t.clk.tdiv = s.clk.tdiv ∧
      (∀ q, q ≠ p.val → tget 0 q t.clk.tdivReq = tget 0 q s.clk.tdivReq)) ∧
  (∀ (s : State) (p : Fin 64), tget 0 p s.clk.tdivReq ≠ 0 → plotsOn s = true →
    ∃ t, exec (.tdivSwitch p) s = .next t ∧ getTdiv t p + 1 = tget 0 p s.clk.tdivReq ∧ tget 0 p t.clk.tdivReq = 0 ∧
      (getPlot t p).mv = min (getPlot s p).mv (windowTop (getTdiv t p)) ∧
      (∀ q, q ≠ p.val → getTdiv t q = getTdiv s q ∧ getPlot t q = getPlot s q)) ∧
  (∀ (s : State) (lo : Word), barUp s = true → s.glb.run = false →
    ∃ t, exec (.devTimeLoad lo) s = .next t ∧ devTime t = getReg s 0x0424 * 2 ^ 32 + lo.toNat ∧ getReg t 0x0420 = lo.toNat) ∧
  (∀ (s : State) (lo : Word), barUp s = true → s.glb.run = true → getReg s 0x0420 ≠ lo.toNat →
    ∃ t, exec (.devTimeLoad lo) s = .next t ∧ devTime t = devTime s ∧ getReg t 0x0420 = getReg s 0x0420 ∧ getReg t 0x000C = 0x0421) ∧
  (∀ s : State, barUp s = true →
    ∃ t, exec .devTimeLoRead s = .next t ∧ t.answer = some { data := leBytes 4 (devTime s % 2 ^ 32), poisoned := false } ∧
      t.clk.latchHi.toNat = devTime s / 2 ^ 32 ∧ devTime t = devTime s) ∧
  (∀ (s : State) (i : Fin 2048), barUp s = true →
    ∃ t, exec (.counterLoRead i) s = .next t ∧
      t.answer = some { data := leBytes 4 (counterValue s (i + 2048 * regF s 0x0018 0 1) % 2 ^ 32), poisoned := false } ∧
      t.clk.cntLatch.toNat = counterValue s (i + 2048 * regF s 0x0018 0 1) / 2 ^ 32 ∧ t.cnt = s.cnt) ∧
  (∀ (s : State) (i : Fin 2048), barUp s = true →
    ∃ t, exec (.counterHiRead i) s = .next t ∧ t.answer = some { data := leBytes 4 s.clk.cntLatch.toNat, poisoned := false } ∧
      t.clk = s.clk ∧ t.cnt = s.cnt) ∧
  State.reset.clk.cntLatch = 0 ∧
  (∀ (s : State) (ns : Nat), 10000 ≤ ns → ∃ t, exec (.devRstAssert ns) s = .next t ∧ t.clk.cntLatch = 0 ∧ t.clk.latchHi = 0) ∧
  (∀ (s : State) (i : Fin 2048), barUp s = true →
    ∃ t, exec (.counterClear i) s = .next t ∧ counterValue t (i + 2048 * regF s 0x0018 0 1) = 0 ∧
      (∀ j, j ≠ i + 2048 * regF s 0x0018 0 1 → counterValue t j = counterValue s j))

/-- REGISTER_WRITE, for every register without an effect of its own, by the access type of each field: RW takes the bits, RW1C clears them, RWL
takes them before RUN and afterwards flags a write of another value in GLB_LOCK_VIOL, RO keeps them, bits of no field read 0, and no other
register changes; a write without all four byte enables is ignored, one to a register with a row of its own is that row; PTP_MASTER_ADOPT takes
the identity together; TST_DATA reads and writes a word and advances, an uncorrectable word reads as ones; after RUN the test space takes no
write and TST_DATA reads as 0.
Where the manual leaves a point open it follows the model's own choice: log 22, 90. -/
def Obligations.RegisterWrites : Prop :=
  (∀ (s : State) (off : BitVec 16) (v : Word) (a k : Nat) (r : RegRow), barUp s = true → a = off.toNat / 4 * 4 →
    a < 0x4000 ∨ (0x8000 ≤ a ∧ s.glb.run = false) → (a < 0x3800 ∨ 0x3C00 ≤ a ∨ s.glb.smbRstLow = false) → regAt a = some (r, k) →
    r.name ∉ ownEffect →
    ∃ t, exec (.registerWrite off v 15) s = .next t ∧ t.glb = s.glb ∧
      (∀ f ∈ r.fields, ∀ i, f.lo ≤ i → i ≤ f.hi →
        FieldTakes s f a ((getReg s a).testBit i) (v.getLsbD i) ((getReg t a).testBit i)) ∧
      (∀ i, (∀ f ∈ r.fields, i < f.lo ∨ f.hi < i) → (getReg t a).testBit i = false) ∧
      (∀ o, o ≠ a → o ≠ 0x000C → getReg t o = getReg s o) ∧
      (a ≠ 0x000C → s.glb.run = true → (∃ f ∈ r.fields, f.acc = .rwl ∧
        bitsOf v.toNat f.lo (f.hi - f.lo + 1) ≠ bitsOf (getReg s a) f.lo (f.hi - f.lo + 1)) → getReg t 0x000C = a + 1) ∧
      (a ≠ 0x000C → (∀ f ∈ r.fields, fieldLocked s f.acc a = true → lockFlags f.acc = true →
        bitsOf v.toNat f.lo (f.hi - f.lo + 1) = bitsOf (getReg s a) f.lo (f.hi - f.lo + 1)) → getReg t 0x000C = getReg s 0x000C)) ∧
  (∀ (s : State) (off : BitVec 16) (v : Word), off.toNat / 4 * 4 < 0x4000 → regAt (off.toNat / 4 * 4) = none →
    exec (.registerWrite off v 15) s = .next s) ∧
  (∀ (s : State) (v : Word),
    exec (.registerWrite 0x0420 v 15) s = exec (.devTimeLoad v) s ∧ exec (.registerWrite 0x0800 v 15) s = exec (.hifEnable (v.getLsbD 0)) s ∧
    exec (.registerWrite 0x2028 v 15) s = exec (.ptpMasterAdopt (v.setWidth 16)) s ∧
    exec (.registerWrite 0x8008 v 15) s = exec (.tstDataWrite v) s) ∧
  (∀ (s : State) (v : Word) (k : Fin 36),
    exec (.registerWrite (BitVec.ofNat 16 (0x090C + 16 * k)) v 15) s = exec (.ringEnable k (v.getLsbD 0)) s) ∧
  (∀ (s : State) (v : Word), barUp s = true →
    ∃ t, exec (.registerWrite 0x0018 v 15) s = .next t ∧ getReg t 0x0018 = v.toNat % 2 ∧ (∀ off, off ≠ 0x0018 → getReg t off = getReg s off)) ∧
  (∀ (s : State) (v : Word) (k : Nat), barUp s = true → k < 8 →
    ∃ t, exec (.registerWrite 0x0440 v 15) s = .next t ∧
      (getReg t 0x0440).testBit k = ((getReg s 0x0440).testBit k && !v.getLsbD k) ∧ (∀ off, off ≠ 0x0440 → getReg t off = getReg s off)) ∧
  (∀ (s : State) (v : Word), barUp s = true → s.glb.run = false →
    ∃ t, exec (.registerWrite 0x0414 v 15) s = .next t ∧ getReg t 0x0414 = v.toNat % 4 ∧ getReg t 0x000C = getReg s 0x000C) ∧
  (∀ (s : State) (v : Word), barUp s = true → s.glb.run = true → getReg s 0x0414 % 4 ≠ v.toNat % 4 →
    ∃ t, exec (.registerWrite 0x0414 v 15) s = .next t ∧ getReg t 0x0414 = getReg s 0x0414 % 4 ∧ getReg t 0x000C = 0x0415) ∧
  (∀ (s : State) (v : Word), barUp s = true →
    ∃ t, exec (.registerWrite 0x0444 v 15) s = .next t ∧ t.glb = s.glb ∧ t.hif = s.hif ∧ (∀ off, off ≠ 0x0444 → getReg t off = getReg s off)) ∧
  (∀ (s : State) (off : BitVec 16) (v : Word) (be : Fin 16), be ≠ 15 → exec (.registerWrite off v be) s = .next s) ∧
  (∀ (s : State) (v : BitVec 16), barUp s = true →
    ∃ t, exec (.ptpMasterAdopt v) s = .next t ∧
      t.ptp.master = getReg s 0x2020 % 2 ^ 32 + 2 ^ 32 * (getReg s 0x2024 % 2 ^ 32) + 2 ^ 64 * v.toNat ∧ getReg t 0x2028 = v.toNat) ∧
  (∀ (s : State) (v : Word) (space unit off : Nat), barUp s = true → s.glb.run = false → testWord s = (space, unit, off) → space ≤ 4 →
    testReach s (testDie space unit) = true →
    ∃ t, exec (.tstDataWrite v) s = .next t ∧ testGet t space unit off = some v.toNat ∧ getReg t 0x8004 = (getReg s 0x8004 + 4) % 2 ^ 32) ∧
  (∀ (s : State) (w space unit off : Nat), barUp s = true → s.glb.run = false → testWord s = (space, unit, off) → space ≤ 4 →
    testReach s (testDie space unit) = true → testGet s space unit off = some w →
    ∃ t, exec (.tstDataRead false) s = .next t ∧ t.answer = some { data := leBytes 4 w, poisoned := false } ∧
      getReg t 0x8004 = (getReg s 0x8004 + 4) % 2 ^ 32) ∧
  (∀ (s : State) (space unit off : Nat), barUp s = true → s.glb.run = false → testWord s = (space, unit, off) → space ≤ 4 →
    testReach s (testDie space unit) = true →
    ∃ t, exec (.tstDataRead true) s = .next t ∧ t.answer = some { data := leBytes 4 0xFFFFFFFF, poisoned := false } ∧
      (getReg t 0x800C).testBit 0 = true ∧ getReg t 0x8004 = (getReg s 0x8004 + 4) % 2 ^ 32) ∧
  (∀ (s : State) (space unit off : Nat) (bad : Bool) (v : Word), barUp s = true → s.glb.run = false → testWord s = (space, unit, off) → 4 < space →
    (∃ t, exec (.tstDataRead bad) s = .next t ∧ t.answer = some { data := leBytes 4 0, poisoned := false }) ∧
    (∃ t, exec (.tstDataWrite v) s = .next t ∧ t.tiles = s.tiles ∧ t.plots = s.plots ∧ t.trc = s.trc ∧
      getReg t 0x8004 = (getReg s 0x8004 + 4) % 2 ^ 32)) ∧
  (∀ (s : State) (bad : Bool) (v : Word), barUp s = true → s.glb.run = true →
    (∃ t, exec (.tstDataRead bad) s = .next t ∧ t.answer = some { data := leBytes 4 0, poisoned := false } ∧ t.regs = s.regs) ∧
    (∃ t, exec (.tstDataWrite v) s = .next t ∧ getReg t 0x000C = 0x8009 ∧ (∀ o, o ≠ 0x000C → getReg t o = getReg s o) ∧ t.tiles = s.tiles ∧
      t.plots = s.plots ∧ t.trc = s.trc ∧ t.hrw = s.hrw))

/-! ### The trunk receiver (R21 to R41, R57, R62, R70 to R77) -/

/-- FIELD_MAP_SEED_LOAD, IMPULSE_FIRE, IMPULSE_RELEASE, CODEWORD_DECODE and BURST_HEADER: the receiver of a slot starts from its owner's
field-map entry, or entry 63, with the scrambler seeded by (1, ADDR, CYC), behind a burst that is still in reception; the impulse detector
freezes it; the symbols of codewords and of the header carry their bytes, which are kept.
Where the manual leaves a point open it follows the model's own choice: log 44, 103. -/
def Obligations.TrunkReceiverHears : Prop :=
  (∀ (s : State) (n : Fin 8) (slot : Nat) (e : SchedEnt), (getPort s n).running = true → (getPort s n).winding = false →
    (getPort s n).iso = false → slot < 40 → (getPort s n).sched[slot]? = some e → e.kind = 0 → rxBusy (getPort s n) false = false →
    ∃ t r, exec (.fieldMapSeedLoad n slot false false) s = .next t ∧ (getPort t n).rx = some r ∧ r.kind = 0 ∧ r.addr = e.addr ∧
      r.idx = e.idx ∧ r.seed = (if e.idx < 32 ∧ fmValid (fmEntry s n e.idx) = true then e.idx else 63) ∧
      r.settings = fmEntry s n r.seed ∧ r.double = decide (4096 ≤ fmAge (fmEntry s n r.seed)) ∧ r.deaf = false ∧
      r.lfsr = 2 ^ 22 + 2 ^ 16 * (e.addr % 64) + (getPort s n).cyc % 2 ^ 16 ∧ r.hit = false ∧ r.hdr = none ∧
      (∀ m, m ≠ n.val → getPort t m = getPort s m)) ∧
  (∀ (s : State) (n : Fin 8) (slot : Nat) (e : SchedEnt), (getPort s n).running = true → (getPort s n).winding = false →
    (getPort s n).iso = false → slot < 40 → (getPort s n).sched[slot]? = some e → e.kind = 0 → rxBusy (getPort s n) true = true →
    ∃ t r, exec (.fieldMapSeedLoad n slot false true) s = .next t ∧ (getPort t n).rx = (getPort s n).rx ∧ (getPort t n).rxNext = some r ∧
      r.addr = e.addr ∧ r.idx = e.idx ∧ r.lfsr = 2 ^ 22 + 2 ^ 16 * (e.addr % 64) + (getPort s n).cyc % 2 ^ 16) ∧
  (∀ (s : State) (n : Fin 8) (r : Rx), (getPort s n).rx = some r →
    ∃ t, exec (.impulseFire n) s = .next t ∧ (getPort t n).rx = some { r with hit := true, frozen := true } ∧ Counted (768 + 20 * n) 1 s t ∧
      (∀ m, m ≠ n.val → getPort t m = getPort s m)) ∧
  (∀ (s : State) (n : Fin 8) (r : Rx), (getPort s n).rx = some r →
    ∃ t, exec (.impulseRelease n) s = .next t ∧ (getPort t n).rx = some { r with frozen := false } ∧ t.cnt = s.cnt ∧
      (∀ m, m ≠ n.val → getPort t m = getPort s m)) ∧
  (∀ b : Byte, symbolsBytes (byteSymbols b) = [b]) ∧
  (∀ (s : State) (n : Fin 8) (r : Rx) (symbols : List Int) (cw d : List Byte) (c : Nat), (getPort s n).rx = some r → r.kind = 1 →
    r.deaf = false → stopped s = false → (symbolsBytes symbols).length ≤ 240 * 2 ^ (getPort s n).ilv →
    deinterleave (scramble r.lfsr (symbolsBytes symbols)).2 = [cw] → decodeCw cw = some (d, c) →
    ∃ t r', exec (.codewordDecode n symbols) s = .next t ∧ (getPort t n).rx = some r' ∧ r'.record = r.record ++ d.map some ∧
      r'.lens = r.lens ++ [cw.length - 16] ∧ r'.oks = r.oks ++ [true] ∧ r'.lfsr = (scramble r.lfsr (symbolsBytes symbols)).1) ∧
  (∀ (s : State) (n : Fin 8) (r : Rx) (symbols : List Int) (cw : List Byte), (getPort s n).rx = some r → r.kind = 1 → r.deaf = false →
    stopped s = false → (symbolsBytes symbols).length ≤ 240 * 2 ^ (getPort s n).ilv →
    deinterleave (scramble r.lfsr (symbolsBytes symbols)).2 = [cw] → decodeCw cw = none →
    ∃ t r', exec (.codewordDecode n symbols) s = .next t ∧ (getPort t n).rx = some r' ∧ r'.oks = r.oks ++ [false] ∧
      r'.record = r.record ++ List.replicate (cw.length - 16) none ∧ Counted (768 + 20 * n + 1) 1 s t) ∧
  (∀ (s : State) (n : Fin 8) (r : Rx) (symbols : List Int) (h : List Byte) (counted : Nat), (getPort s n).rx = some r → r.hdr = none →
    r.deaf = false → symbols.take 8 = endDelimiter → h = padTo 12 (symbolsBytes (symbols.drop 8)) →
    ∃ t r' x, exec (.burstHeader n symbols counted) s = .next t ∧ (getPort t n).rx = some r' ∧ r'.hdr = some x ∧
      x.addr = byteAt h 0 % 64 ∧ x.burstId = byteAt h 1 ∧ (x.crcOk = true ↔ crcMsb 16 0x1021 0xFFFF (h.take 10) = beAt h 10 2) ∧
      (x.ok = true → x.crcOk = true ∧ x.len = counted ∧ leAt h 8 2 = r.cyc % 2 ^ 16) ∧
      (x.ok = false → Counted (768 + 20 * n + 3) 1 s t))

/-- SLOT_MISSED, BURST_CUT_AT_SLOT_END, BURST_END, REPAIR_SEARCH_TIMEOUT and FCS_VERDICT: a station missed too often loses its admission, a
cut burst has a bad header, a good burst writes its settings back, a collision is announced, a repair that found nothing gives the
frame up, and a bad FCS ends what the frame had started.
Where the manual leaves a point open it follows the model's own choice: log 44, 46, 104, 105. -/
def Obligations.TrunkReceiverEnds : Prop :=
  (∀ (s : State) (n : Fin 8) (r : Rx), (getPort s n).rx = some r → r.kind = 0 → (station s n r.idx).st = 2 → (station s n r.idx).miss < 0xFFFF →
    ∃ t, exec (.slotMissed n) s = .next t ∧ (getPort t n).rx = (getPort s n).rxNext ∧ Counted (768 + 20 * n + 4) 1 s t ∧
      (station t n r.idx).st = (if max 1 (regF s (trkReg n 0x3C) 0 8) ≤ (station s n r.idx).miss + 1 then 0 else 2) ∧
      (∀ i, i ≠ r.idx → station t n i = station s n i)) ∧
  (∀ (s : State) (n : Fin 8) (r : Rx) (lost : Nat), (getPort s n).rx = some r → r.kind = 0 → r.hdr = none → rxIgnored s n r = false →
    ∃ t, exec (.burstCutAtSlotEnd n lost) s = .next t ∧ (getPort t n).rx = (getPort s n).rxNext ∧ Counted (768 + 20 * n + 1) 1 s t ∧
      Counted (768 + 20 * n + 3) 1 s t ∧ Counted (768 + 20 * n + 5) 1 s t ∧
      (r.fid = none → ∃ f, findFrame t s.nextFid = some f ∧ f.ended = true)) ∧
  (∀ (s : State) (n : Fin 8) (r : Rx) (h : BurstHdr) (final : List Byte) (offset : Int) (peaks : Bool) (evm : Fin 256) (tEnd : Nat),
    (getPort s n).rx = some r → r.hdr = some h → r.kind = 0 → r.fid = none → rxIgnored s n r = false → h.ok = true → h.addr = r.addr →
    (∀ b ∈ r.oks, b = true) → r.hit = false → r.seed < 63 → (station s n r.idx).st = 2 →
    ∃ t, exec (.burstEnd n final offset peaks evm tEnd) s = .next t ∧ (getPort t n).rx = (getPort s n).rxNext ∧ fmValid (fmEntry t n r.seed) = true ∧
      fmAge (fmEntry t n r.seed) = 0 ∧ (station t n r.idx).st = 2 ∧ (station t n r.idx).miss = 0 ∧
      (∀ i, i < 64 → i ≠ r.seed → fmEntry t n i = fmEntry s n i)) ∧
  (∀ (s : State) (n : Fin 8) (r : Rx) (final : List Byte) (offset : Int) (evm : Fin 256) (tEnd : Nat),
    (getPort s n).rx = some r → r.kind = 1 → r.deaf = false → stopped s = false →
    ∃ t, exec (.burstEnd n final offset true evm tEnd) s = .next t ∧ (getPort t n).rx = (getPort s n).rxNext ∧
      (getPort t n).signon = (getPort s n).signon ∧ Counted (768 + 20 * n + 9) 1 s t ∧ (getPort t n).ctls = (getPort s n).ctls ++ [{ rank := 0, payload := [1, 0] ++ leBytes 4 r.cyc ++ leBytes 2 r.start }]) ∧
  (∀ (s : State) (n : Fin 8) (r : Rx) (rep : Repair) (fid tEnd : Nat), (getPort s n).rx = some r → r.kind = 2 → r.hdr = none →
    r.fid = some fid → (getPort s n).repairs.find? (fun x => x.fid = fid) = some rep → rep.missing ≠ [] → rep.round = 2 →
    ∃ t, exec (.repairSearchTimeout n tEnd) s = .next t ∧ (getPort t n).rx = (getPort s n).rxNext ∧
      (getPort t n).repairs = (getPort s n).repairs.filter (fun x => x.fid ≠ fid) ∧ (∀ f, findFrame t fid = some f → f.ended = true) ∧
      Counted (768 + 20 * n + 14) 1 s t) ∧
  (∀ (s : State) (f : Frame), findFrame s f.fid = some f → f.ingress < 8 → f.ended = true → f.verdict = none → f.gleaned = false →
    63 < f.bytes.length → fcsGood (frameBytes f) = false → f.mid = none → f.frag = none →
    ∃ t, exec (.fcsVerdict f.fid) s = .next t ∧ (∀ g, findFrame t f.fid = some g → g.verdict = some false ∧ g.wantAdmit = false ∧ g.punt = none ∧ g.fwd = none)) ∧
  (∀ (s : State) (f : Frame), findFrame s f.fid = some f → f.ingress < 8 → f.ended = true → f.verdict = none → f.gleaned = false →
    63 < f.bytes.length → f.bytes.all Option.isSome = true → fcsGood (frameBytes f) = true → f.frag = none → f.walk = .queued →
    ∃ t g, exec (.fcsVerdict f.fid) s = .next t ∧ findFrame t f.fid = some g ∧ g.verdict = some true ∧ g.tEnd = f.tEnd)

/-! ### Trunk access (R45 to R69) -/

/-- PORT_ENABLE, PORT_DISABLE, PORT_WIND_DOWN_DONE and CYCLE_START: the life of a port and the step from one cycle to the next, whose
schedule the BEACON of the cycle before published (R45, R46, R67, R68).
Where the manual leaves a point open it follows the model's own choice: log 16, 46. -/
def Obligations.TrunkPortLife : Prop :=
  (∀ (s : State) (n : Fin 8), barUp s = true → trkEn s n = false → (getPort s n).winding = false →
    ∃ t, exec (.portEnable n) s = .next t ∧ trkEn t n = true ∧ (getPort t n).running = false ∧ (getPort t n).cyc = 0 ∧ (getPort t n).sched = [] ∧
      (getPort t n).rx = none ∧ (getPort t n).isoWant = false ∧ (∀ m, m ≠ n.val → getPort t m = getPort s m)) ∧
  (∀ (s : State) (n : Fin 8), barUp s = true → trkEn s n = false → (getPort s n).winding = true →
    ∃ t, exec (.portEnable n) s = .next t ∧ t.regs = s.regs ∧ (getPort t n).reEn = true ∧ (getPort t n).cyc = (getPort s n).cyc) ∧
  (∀ (s : State) (n : Fin 8), barUp s = true → trkEn s n = true →
    ∃ t, exec (.portDisable n) s = .next t ∧ trkEn t n = false ∧ (getPort t n).winding = (getPort s n).running ∧ (getPort t n).rx = none ∧
      (getPort t n).repairs = [] ∧ (getPort t n).signon = none ∧ (getPort t n).ctls = [] ∧ (getPort t n).acks = [] ∧ (getPort t n).isoWait = [] ∧
      (∀ i, i < 32 → (station t n i).st ≠ 2) ∧ (∀ m, m ≠ n.val → getPort t m = getPort s m)) ∧
  (∀ (s : State) (n : Fin 8), (getPort s n).winding = true → (getPort s n).reEn = false →
    s.msgs.any (fun m => begun m && (match m.reply with | some r => decide (r.dest = n) | none => false)) = false →
    ∃ t, exec (.portWindDownDone n) s = .next t ∧ (getPort t n).winding = false ∧ (getPort t n).running = false ∧ (getPort t n).sched = [] ∧
      t.regs = s.regs) ∧
  (∀ (s : State) (n : Fin 8), (getPort s n).winding = true → (getPort s n).reEn = true → trkEn s n = false →
    s.msgs.any (fun m => begun m && (match m.reply with | some r => decide (r.dest = n) | none => false)) = false →
    ∃ t, exec (.portWindDownDone n) s = .next t ∧ trkEn t n = true ∧ (getPort t n).winding = false ∧ (getPort t n).cyc = 0) ∧
  (∀ (s : State) (n : Fin 8) (energy : Bool), trkEn s n = true → (getPort s n).winding = false → (getPort s n).running = true →
    (getPort s n).isoWant = false → stopped s = false →
    ∃ t, exec (.cycleStart n energy) s = .next t ∧ (getPort t n).cyc = ((getPort s n).cyc + 1) % 2 ^ 32 ∧ (getPort t n).sched = (getPort s n).next ∧
      (getPort t n).nonce = (getPort s n).nextNonce ∧ (getPort t n).ilv = (getPort s n).nextIlv ∧ (getPort t n).nextIlv = regF s (trkReg n 0) 1 2 ∧
      (getPort t n).line = cycleSync (cycSync s n) ∧ (getPort t n).rx = (getPort s n).rx ∧ (getPort t n).bpSlot = 0 ∧
      (getPort t n).iso = false ∧ (getPort t n).beacon.isSome = true) ∧
  (∀ (s : State) (n : Fin 8) (energy : Bool), trkEn s n = true → (getPort s n).winding = false → (getPort s n).running = false →
    (getPort s n).isoWant = false → stopped s = false →
    ∃ t, exec (.cycleStart n energy) s = .next t ∧ (getPort t n).running = true ∧ (getPort t n).cyc = 0 ∧ (getPort t n).sched = []) ∧
  (∀ (s : State) (n : Fin 8) (energy : Bool), trkEn s n = true → (getPort s n).winding = false → (getPort s n).isoWant = true →
    ∃ t, exec (.cycleStart n energy) s = .next t ∧ (getPort t n).iso = true ∧
      (getPort t n).sched = (if (getPort s n).running then (getPort s n).next else []) ∧ (getPort t n).next = []) ∧
  (∀ (s : State) (n : Fin 8) (energy : Bool), trkEn s n = true → (getPort s n).winding = false → (getPort s n).running = true → (getPort s n).jamRun = 2 →
    (getPort s n).jammed = false → 16 * schedEnd (getPort s n).sched + 64 ≤ cycSymbols s n →
    ∃ t, exec (.cycleStart n energy) s = .next t ∧ (getPort t n).jammed = energy ∧ (getPort t n).jamRun = (if energy then 3 else 0))

/-- SIGNON and HOLD_EXPIRY: a listed sign-on with the right TAG is admitted where its entry is AUTO and the schedule has room, or held for
the host; a wrong TAG makes a stranger; a quarantined address is ignored; a hold that expires ends (R56, R58, R59, R64, R65).
Where the manual leaves a point open it follows the model's own choice: log 43. -/
def Obligations.SignonDecides : Prop :=
  (∀ (s : State) (n : Fin 8) (g : Signon) (i : Nat), (getPort s n).signon = some g → quarantined s n (byteAt g.record 1 % 64) = false →
    effEntry s n (byteAt g.record 1 % 64) = some i → slice g.record 12 8 = signonTag (staKey s n i) g.nonce n g.record → schedFits s n i = true →
    staAuto s n i = true →
    ∃ t, exec (.signon n) s = .next t ∧ (getPort t n).signon = none ∧ (station t n i).st = 2 ∧ (station t n i).adv = g.adv ∧
      (station t n i).uid = leAt g.record 4 6 ∧ (station t n i).cap = byteAt g.record 2 ∧ (station t n i).held = none ∧
      (∀ j, j ≠ i → station t n j = station s n j)) ∧
  (∀ (s : State) (n : Fin 8) (g : Signon) (i : Nat), (getPort s n).signon = some g → quarantined s n (byteAt g.record 1 % 64) = false →
    effEntry s n (byteAt g.record 1 % 64) = some i → slice g.record 12 8 = signonTag (staKey s n i) g.nonce n g.record → schedFits s n i = true →
    staAuto s n i = false → (station s n i).preadmit = false → (station s n i).st ≠ 2 →
    ∃ t, exec (.signon n) s = .next t ∧ (getPort t n).signon = none ∧ (station t n i).st = 1 ∧ (station t n i).held = some g) ∧
  (∀ (s : State) (n : Fin 8) (g : Signon) (i : Nat), (getPort s n).signon = some g → quarantined s n (byteAt g.record 1 % 64) = false →
    effEntry s n (byteAt g.record 1 % 64) = some i → slice g.record 12 8 ≠ signonTag (staKey s n i) g.nonce n g.record → regF s (trkReg n 0x48) 0 8 = 0 →
    ∃ t, exec (.signon n) s = .next t ∧ (getPort t n).signon = none ∧ station t n i = station s n i ∧
      (getPort t n).strAddr = byteAt g.record 1 % 64 ∧
      (getPort t n).strRun = (if (getPort s n).strAddr = byteAt g.record 1 % 64 then (getPort s n).strRun + 1 else 1)) ∧
  (∀ (s : State) (n : Fin 8) (g : Signon), (getPort s n).signon = some g → quarantined s n (byteAt g.record 1 % 64) = true →
    ∃ t, exec (.signon n) s = .next t ∧ (getPort t n).signon = none ∧ (getPort t n).stations = (getPort s n).stations ∧
      Counted (768 + 20 * n + 11) 1 s t) ∧
  (∀ (s : State) (n : Fin 8) (i : Fin 32), (station s n i).st = 1 →
    ∃ t, exec (.holdExpiry n i) s = .next t ∧ (station t n i).st = 0 ∧ (station t n i).held = none ∧
      (∀ j, j ≠ i.val → station t n j = station s n j))

/-- TRUNK_CTL_ADMIT, TRUNK_CTL_REFUSE, TRUNK_CTL_EXPEL, TRUNK_CTL_QUARANTINE, TRUNK_CTL_ISOLATE, ISOLATE_COMPLETE, TRUNK_CTL_RELEASE,
TRUNK_CTL_SET_ILV and TRUNK_CTL_SET_REPAIR: what each does to the station or the port, and how it completes (R44, R65, R67).
Where the manual leaves a point open it follows the model's own choice: log 45. -/
def Obligations.TrunkControl : Prop :=
  (∀ (s : State) (q : Fin 16) (pos i : Nat) (b : List Byte) (g : Signon), runnable s q pos 0x33 (ctlSub 1) = some b → byteAt b 16 < 8 →
    byteAt b 17 = 1 → byteAt b 18 < 63 → effEntry s (byteAt b 16) (byteAt b 18) = some i → (station s (byteAt b 16) i).st = 1 →
    (station s (byteAt b 16) i).held = some g → schedFits s (byteAt b 16) i = true →
    ∃ t, exec (.trunkCtlAdmit q pos) s = .next t ∧ Completed q pos 0 0 0 0 t ∧ (station t (byteAt b 16) i).st = 2 ∧
      (station t (byteAt b 16) i).adv = g.adv) ∧
  (∀ (s : State) (q : Fin 16) (pos i : Nat) (b : List Byte), runnable s q pos 0x33 (ctlSub 1) = some b → byteAt b 16 < 8 → byteAt b 17 = 1 →
    byteAt b 18 < 63 → effEntry s (byteAt b 16) (byteAt b 18) = some i → (station s (byteAt b 16) i).st ≠ 1 →
    ∃ t, exec (.trunkCtlAdmit q pos) s = .next t ∧ Completed q pos 0 0 0 0 t ∧
      station t (byteAt b 16) i = { station s (byteAt b 16) i with preadmit := true }) ∧
  (∀ (s : State) (q : Fin 16) (pos : Nat) (b : List Byte), runnable s q pos 0x33 (ctlSub 1) = some b → 8 ≤ byteAt b 16 →
    ∃ t, exec (.trunkCtlAdmit q pos) s = .next t ∧ Completed q pos 0x41 0 0 0 t ∧ t.ports = s.ports) ∧
  (∀ (s : State) (q : Fin 16) (pos i : Nat) (b : List Byte), runnable s q pos 0x33 (ctlSub 2) = some b → byteAt b 16 < 8 → byteAt b 17 = 2 →
    byteAt b 18 < 63 → effEntry s (byteAt b 16) (byteAt b 18) = some i → (station s (byteAt b 16) i).st = 1 →
    ∃ t, exec (.trunkCtlRefuse q pos) s = .next t ∧ Completed q pos 0 0 0 0 t ∧ (station t (byteAt b 16) i).st = 0 ∧
      (station t (byteAt b 16) i).held = none) ∧
  (∀ (s : State) (q : Fin 16) (pos i : Nat) (b : List Byte), runnable s q pos 0x33 (ctlSub 3) = some b → byteAt b 16 < 8 → byteAt b 17 = 3 →
    byteAt b 18 < 63 → effEntry s (byteAt b 16) (byteAt b 18) = some i → (station s (byteAt b 16) i).st = 2 →
    ∃ t, exec (.trunkCtlExpel q pos) s = .next t ∧ Completed q pos 0 0 0 0 t ∧ (station t (byteAt b 16) i).st = 0) ∧
  (∀ (s : State) (q : Fin 16) (pos : Nat) (b : List Byte), runnable s q pos 0x33 (ctlSub 4) = some b → byteAt b 16 < 8 → byteAt b 17 = 4 →
    byteAt b 18 < 63 →
    ∃ t, exec (.trunkCtlQuarantine q pos) s = .next t ∧ Completed q pos 0 0 0 0 t ∧ quarantined t (byteAt b 16) (byteAt b 18) = true ∧
      (∀ i, effEntry s (byteAt b 16) (byteAt b 18) = some i → (station t (byteAt b 16) i).st ≠ 2)) ∧
  (∀ (s : State) (q : Fin 16) (pos : Nat) (b : List Byte), runnable s q pos 0x33 (ctlSub 5) = some b → byteAt b 16 < 8 → byteAt b 17 = 5 →
    trkEn s (byteAt b 16) = true →
    ∃ t, exec (.trunkCtlIsolate q pos) s = .next t ∧ Executes q pos t ∧ (getPort t (byteAt b 16)).isoWant = true ∧
      (q.val, pos) ∈ (getPort t (byteAt b 16)).isoWait) ∧
  (∀ (s : State) (n : Fin 8) (q pos : Nat), (getPort s n).iso = true → (getPort s n).sched = [] → s.msgs.any (fun m => m.ingress = n) = false →
    (getPort s n).isoWait = [(q, pos)] → Executes q pos s →
    ∃ t, exec (.isolateComplete n) s = .next t ∧ Completed q pos 0 0 0 0 t ∧ (getPort t n).isoWait = [] ∧ (getPort t n).iso = true) ∧
  (∀ (s : State) (q : Fin 16) (pos : Nat) (b : List Byte), runnable s q pos 0x33 (ctlSub 6) = some b → byteAt b 16 < 8 → byteAt b 17 = 6 →
    trkEn s (byteAt b 16) = true →
    ∃ t, exec (.trunkCtlRelease q pos) s = .next t ∧ Executes q pos t ∧ (getPort t (byteAt b 16)).isoWant = false ∧
      (q.val, pos) ∈ (getPort t (byteAt b 16)).relWait) ∧
  (∀ (s : State) (q : Fin 16) (pos : Nat) (b : List Byte), runnable s q pos 0x33 (ctlSub 7) = some b → byteAt b 16 < 8 → byteAt b 17 = 7 →
    ∃ t, exec (.trunkCtlSetIlv q pos) s = .next t ∧ Completed q pos 0 0 0 0 t ∧
      ((getPort s (byteAt b 16)).iso = true → regF t (trkReg (byteAt b 16) 0) 1 2 = byteAt b 19 % 4) ∧
      ((getPort s (byteAt b 16)).iso = false → t.regs = s.regs)) ∧
  (∀ (s : State) (q : Fin 16) (pos : Nat) (b : List Byte), runnable s q pos 0x33 (ctlSub 8) = some b → byteAt b 16 < 8 → byteAt b 17 = 8 →
    ∃ t, exec (.trunkCtlSetRepair q pos) s = .next t ∧ Completed q pos 0 0 0 0 t ∧
      ((getPort s (byteAt b 16)).iso = true → (getReg t (trkReg (byteAt b 16) 0)).testBit 3 = (byteAt b 19).testBit 0) ∧
      ((getPort s (byteAt b 16)).iso = false → t.regs = s.regs))

/-! ### Backbone ports (R79 to R90) -/

/-- BBP_BYTES_AVAILABLE, BBP_FRAME_END, BBP_LINK_DOWN and BBP_LINK_UP: bytes begin and fill a frame of the interface, its end gives the
verdict, a soft reset takes no frame, and a link's state follows its events (R80, R83, R84, R303).
Where the manual leaves a point open it follows the model's own choice: log 61. -/
def Obligations.BackboneReceives : Prop :=
  (∀ (s : State) (l : Fin 8) (data : List Byte) (uncorr : Bool) (ago : Nat), bbpUp s (8 + l) = true → data ≠ [] → (getBb s l).rx = none →
    (getBb s l).rxDrop = 0 → stopped s = false → bbOcc s l 8 + data.length ≤ 1048576 → data.length ≤ 9600 → findFrame s s.nextFid = none →
    ∃ t f, exec (.bbpBytesAvailable l data uncorr ago) s = .next t ∧ (getBb t l).rx = some s.nextFid ∧ (getBb t l).rxLen = data.length ∧
      (getBb t l).rxBad = uncorr ∧ t.nextFid = s.nextFid + 1 ∧ findFrame t s.nextFid = some f ∧ f.ingress = 8 + l ∧ f.verdict = none ∧
      f.stamp = devTime s - ago ∧ f.bytes = data.map (fun x => if uncorr then none else some x)) ∧
  (∀ (s : State) (l : Fin 8) (data : List Byte) (uncorr : Bool) (ago : Nat), bbpUp s (8 + l) = true → data ≠ [] → (getBb s l).rx = none →
    (getBb s l).rxDrop = 0 → stopped s = true →
    ∃ t, exec (.bbpBytesAvailable l data uncorr ago) s = .next t ∧ (getBb t l).rx = none ∧ (getBb t l).rxDrop = 2 ∧ t.frames = s.frames) ∧
  (∀ (s : State) (l : Fin 8) (data : List Byte) (uncorr : Bool) (ago : Nat), bbpUp s (8 + l) = true → data ≠ [] → (getBb s l).rx = none →
    (getBb s l).rxDrop = 0 → stopped s = false → 1048576 < bbOcc s l 8 + data.length →
    ∃ t, exec (.bbpBytesAvailable l data uncorr ago) s = .next t ∧ (getBb t l).rx = none ∧ (getBb t l).rxDrop = 1 ∧ t.frames = s.frames) ∧
  (∀ (s : State) (l : Fin 8) (f : Frame), (getBb s l).rx = some f.fid → (getBb s l).rxDrop = 0 → 63 < (getBb s l).rxLen →
    (getBb s l).rxCrc = 0xDEBB20E3 → (getBb s l).rxBad = false → findFrame s f.fid = some f → f.verdict = none → f.gleaned = false →
    f.frag = none → f.walk = .queued → f.fwd = none → schedShape s { f with ended := true } = some false →
    ∃ t g, exec (.bbpFrameEnd l) s = .next t ∧ (getBb t l).rx = none ∧ findFrame t f.fid = some g ∧ g.verdict = some true ∧ g.ended = true) ∧
  (∀ (s : State) (l : Fin 8) (f : Frame), (getBb s l).rx = some f.fid → (getBb s l).rxDrop = 0 → findFrame s f.fid = some f →
    f.verdict = none → f.gleaned = false → f.frag = none → f.mid = none → schedShape s { f with ended := true } = some false →
    ((getBb s l).rxLen ≤ 63 ∨ (getBb s l).rxCrc ≠ 0xDEBB20E3 ∨ (getBb s l).rxBad = true) →
    ∃ t, exec (.bbpFrameEnd l) s = .next t ∧ (getBb t l).rx = none ∧
      (∀ g, findFrame t f.fid = some g → g.verdict = some false ∧ g.wantAdmit = false ∧ g.fwd = none)) ∧
  (∀ (s : State) (l : Fin 8), (getReg s (bbpReg (l / 4) 0x40)).testBit (l % 4) = true →
    ∃ t, exec (.bbpLinkDown l) s = .next t ∧ bbpUp t (8 + l) = false ∧ (getBb t l).rx = none ∧ (getBb t l).tx = none ∧ (getBb t l).paused = 0) ∧
  (∀ (s : State) (l : Fin 8), (getReg s (bbpReg (l / 4) 0)).testBit 0 = true → bbExists s l = true →
    (getReg s (bbpReg (l / 4) 0x40)).testBit (l % 4) = false →
    ∃ t, exec (.bbpLinkUp l) s = .next t ∧ bbpUp t (8 + l) = true ∧ t.bbs = s.bbs ∧
      (∀ off, off ≠ bbpReg (l / 4) 0x40 → getReg t off = getReg s off))

/-- PAUSE_RECEIVED, PAUSE_EXPIRY and PAUSE_REFRESH: PAUSE or PFC holds an interface's frames back until its quanta run out, and the
engine repeats a pause that it asserts (R81, R82, R83).
Where the manual leaves a point open it follows the model's own choice: log 61. -/
def Obligations.BackbonePauses : Prop :=
  (∀ (s : State) (l : Fin 8) (quanta : BitVec 16), bbpUp s (8 + l) = true → bbFc s l = 1 →
    ∃ t, exec (.pauseReceived l none quanta) s = .next t ∧ (getBb t l).paused.testBit 8 = decide (quanta.toNat ≠ 0)) ∧
  (∀ (s : State) (l p : Fin 8) (quanta : BitVec 16), bbpUp s (8 + l) = true → bbFc s l = 2 → (getReg s (bbpReg (l / 4) 4)).testBit p = true →
    ∃ t, exec (.pauseReceived l (some p) quanta) s = .next t ∧ (getBb t l).paused.testBit p = decide (quanta.toNat ≠ 0) ∧
      (∀ k, k ≠ p.val → (getBb t l).paused.testBit k = (getBb s l).paused.testBit k)) ∧
  (∀ (s : State) (l p : Fin 8), ∃ t, exec (.pauseExpiry l (some p)) s = .next t ∧ (getBb t l).paused.testBit p = false ∧
    (∀ k, k ≠ p.val → (getBb t l).paused.testBit k = (getBb s l).paused.testBit k)) ∧
  (∀ (s : State) (l : Fin 8), ∃ t, exec (.pauseExpiry l none) s = .next t ∧ (getBb t l).paused.testBit 8 = false) ∧
  (∀ (s : State) (l : Fin 8) (pri : Option (Fin 8)), (flowBits s l).testBit (pauseBit pri) = false → exec (.pauseRefresh l pri) s = .next s) ∧
  (∀ (s : State) (l : Fin 8) (pri : Option (Fin 8)), bbpUp s (8 + l) = true → (getBb s l).xoff.testBit (pauseBit pri) = true →
    (flowBits s l).testBit (pauseBit pri) = true →
    ∃ t, exec (.pauseRefresh l pri) s = .next t ∧
      (getBb t l).flow = (getBb s l).flow ++ [(pauseBit pri, regF s (bbpReg (l / 4) 0x10) 0 16)] ∧ (getBb t l).xoff = (getBb s l).xoff ∧
      (∀ k, k ≠ l.val → getBb t k = getBb s k))

/-- ALIGNED_REPLY_START, ALIGNED_CRC_DECISION and BBP_TX_FRAME_END: an aligned reply begins before its request's verdict, its CRC is
decided by the verdict, and a frame that has left is gone from its queue (R85, R87, R118).
Where the manual leaves a point open it follows the model's own choice: log 63. -/
def Obligations.BackboneSends : Prop :=
  (∀ (s : State) (m : Msg) (r : Reply), findMsg s m.mid = some m → m.reply = some r → isAligned s m r = true → r.begun = false → m.status = none →
    isOldest s m = true → bbpUp s r.dest = true → (getBb s (r.dest - 8)).tx = none → bbPaused s (r.dest - 8) (framePri s (r.dest - 8) r.bytes) = false →
    r.dest < 16 →
    ∃ t x, exec (.alignedReplyStart m.mid) s = .next t ∧ (getBb t (r.dest - 8)).tx = some x ∧ x.mid = some m.mid ∧ x.aligned = true ∧ x.crc = 0 ∧
      x.bytes = r.bytes ∧ findMsg t m.mid = some { m with reply := some { r with begun := true } }) ∧
  (∀ (s : State) (l : Fin 8) (x : BbTx) (m : Msg), (getBb s l).tx = some x → x.mid = some m.mid → findMsg s m.mid = some m → x.aligned = true →
    x.crc = 0 → m.status = none → m.verdict = some true →
    ∃ t, exec (.alignedCrcDecision l) s = .next t ∧ (getBb t l).tx = some { x with crc := 1 } ∧
      ((getStream s m.stream).pcap ≠ 0 → (getStream t m.stream).kvLen =
        min ((getStream s m.stream).kvLen + (getStream s m.stream).newPos) (getStream s m.stream).kvCap)) ∧
  (∀ (s : State) (l : Fin 8) (x : BbTx) (m : Msg), (getBb s l).tx = some x → x.mid = some m.mid → findMsg s m.mid = some m → x.aligned = true →
    x.crc = 0 → (m.status ≠ none ∨ m.verdict = some false) →
    ∃ t, exec (.alignedCrcDecision l) s = .next t ∧ (getBb t l).tx = some { x with crc := 2 } ∧ t.streams = s.streams ∧
      Counted (928 + 16 * (l / 4) + 6) 1 s t) ∧
  (∀ (s : State) (l : Fin 8) (x : BbTx) (m : Msg), (getBb s l).tx = some x → x.mid = some m.mid → findMsg s m.mid = some m → x.aligned = true →
    x.crc = 0 → m.status = none → m.verdict = none →
    ∃ t, exec (.alignedCrcDecision l) s = .next t ∧ (getBb t l).tx = some { x with crc := 3 } ∧ t.streams = s.streams ∧
      Counted (928 + 16 * (l / 4) + 7) 1 s t) ∧
  (∀ (s : State) (l : Fin 8) (x : BbTx), (getBb s l).tx = some x → x.mid = none → x.crc = 1 →
    ∃ t, exec (.bbpTxFrameEnd l) s = .next t ∧ (getBb t l).sent = x.bytes ∧ (∀ y ∈ egressQ t (8 + l), y.order ≠ x.order)) ∧
  (∀ (s : State) (l : Fin 8) (x : BbTx) (m : Msg), (getBb s l).tx = some x → x.mid = some m.mid → findMsg s m.mid = some m → x.aligned = true →
    x.crc = 0 → m.status = none → m.verdict = none →
    ∃ t, exec (.bbpTxFrameEnd l) s = .next t ∧
      (getBb t l).sent = x.bytes.take (x.bytes.length - 4) ++ (x.bytes.drop (x.bytes.length - 4)).map (fun b => ~~~b))

/-- PTP_SYNC_RECEIVED and BBP_PTP_LOST: an offset far behind steps DEV_TIME, one far ahead is slewed in, a small one only moves the trim,
within 200 ppm; a lost Sync leaves clock and trim alone (R89).
Where the manual leaves a point open it follows the model's own choice: log 17, 69. -/
def Obligations.PtpServo : Prop :=
  (∀ (s : State) (l : Fin 8) (domain : BitVec 8) (source : BitVec 80) (t1 t2 : BitVec 64), ptpServo s = true →
    regF s (bbpReg 0 0x1C) 1 3 = l → regF s (bbpReg 0 0x1C) 8 8 = domain.toNat → s.ptp.master = source.toNat →
    (t2.toNat : Int) - t1.toNat - getReg s (bbpReg 0 0x2C) < -(getReg s (bbpReg 0 0x30) : Int) →
    ∃ t, exec (.ptpSyncReceived l domain source t1 t2) s = .next t ∧
      devTime t = (devTime s + t1.toNat + getReg s (bbpReg 0 0x2C) - t2.toNat) % 2 ^ 64 ∧ t.clk.slew = 0 ∧ t.ptp.lost = false) ∧
  (∀ (s : State) (l : Fin 8) (domain : BitVec 8) (source : BitVec 80) (t1 t2 : BitVec 64), ptpServo s = true →
    regF s (bbpReg 0 0x1C) 1 3 = l → regF s (bbpReg 0 0x1C) 8 8 = domain.toNat → s.ptp.master = source.toNat →
    (getReg s (bbpReg 0 0x30) : Int) < (t2.toNat : Int) - t1.toNat - getReg s (bbpReg 0 0x2C) →
    ∃ t, exec (.ptpSyncReceived l domain source t1 t2) s = .next t ∧ devTime t = devTime s ∧ t.clk.trim = s.clk.trim ∧
      t.clk.slew = (t2.toNat : Int) - t1.toNat - getReg s (bbpReg 0 0x2C) - getReg s (bbpReg 0 0x30)) ∧
  (∀ (s : State) (l : Fin 8) (domain : BitVec 8) (source : BitVec 80) (t1 t2 : BitVec 64), ptpServo s = true →
    regF s (bbpReg 0 0x1C) 1 3 = l → regF s (bbpReg 0 0x1C) 8 8 = domain.toNat → s.ptp.master = source.toNat →
    -(getReg s (bbpReg 0 0x30) : Int) ≤ (t2.toNat : Int) - t1.toNat - getReg s (bbpReg 0 0x2C) →
    (t2.toNat : Int) - t1.toNat - getReg s (bbpReg 0 0x2C) ≤ (getReg s (bbpReg 0 0x30) : Int) →
    ∃ t, exec (.ptpSyncReceived l domain source t1 t2) s = .next t ∧ devTime t = devTime s ∧ t.clk.slew = 0 ∧ t.ptp.lost = false ∧
      -858993 ≤ t.clk.trim ∧ t.clk.trim ≤ 858993) ∧
  (∀ (s : State) (l : Fin 8) (domain : BitVec 8) (source : BitVec 80) (t1 t2 : BitVec 64), ptpServo s = false →
    exec (.ptpSyncReceived l domain source t1 t2) s = .next s) ∧
  (∀ s : State, ptpServo s = true → s.ptp.lost = false →
    ∃ t, exec .bbpPtpLost s = .next t ∧ t.ptp.lost = true ∧ t.clk = s.clk ∧ t.ptp.master = s.ptp.master)

/-! ### The Plough (R91 to R119, R482) -/

/-- PLOUGH_ENQUEUE, PARSE_WALK, LATER_FRAGMENT and FRAG_HOLD_EXPIRY: a frame joins the emptiest parse queue or is dropped when that is
full, waits while its walk lacks bytes, is decided by its lookup, and a fragment without its entry is held, then let go (R93, R96, R102).
Where the manual leaves a point open it follows the model's own choice: log 35, 39, 96. -/
def Obligations.PloughClassifies : Prop :=
  (∀ (s : State) (f : Frame), findFrame s f.fid = some f → f.walk = .queued → 4 ≤ f.engine → schedShape s f = some false →
    queueLen s (leastQueue s) < 64 →
    ∃ t, exec (.ploughEnqueue f.fid) s = .next t ∧ findFrame t f.fid = some { f with engine := leastQueue s } ∧ leastQueue s < 4 ∧
      (∀ e, e < 4 → queueLen s (leastQueue s) ≤ queueLen s e) ∧ (∀ g, g ≠ f.fid → findFrame t g = findFrame s g)) ∧
  (∀ (s : State) (f : Frame), findFrame s f.fid = some f → f.walk = .queued → 4 ≤ f.engine → schedShape s f = some false →
    64 ≤ queueLen s (leastQueue s) →
    ∃ t, exec (.ploughEnqueue f.fid) s = .next t ∧ findFrame t f.fid = none ∧ Counted 114 1 s t ∧ (∀ g, g ≠ f.fid → findFrame t g = findFrame s g)) ∧
  (∀ (s : State) (f : Frame) (w : WalkSt) (en : Nat), findFrame s f.fid = some f → (f.walk = .queued ∧ f.engine < 4 ∨ f.walk = .walking) →
    walkFrame (resumeCfg s f) f = (.wait, w, en) →
    ∃ t, exec (.parseWalk f.fid []) s = .next t ∧
      findFrame t f.fid = some { f with walk := .walking, cfg := some { resumeCfg s f with visits := w.visits } }) ∧
  (∀ (s : State) (f : Frame) (w : WalkSt) (en : Nat) (i : FragInfo), findFrame s f.fid = some f →
    (f.walk = .queued ∧ f.engine < 4 ∨ f.walk = .walking) → walkFrame (resumeCfg s f) f = (.later i, w, en) →
    ∃ t g, exec (.parseWalk f.fid []) s = .next t ∧ findFrame t f.fid = some g ∧ g.walk = .later ∧ g.frag = some i ∧ g.endNode = en ∧
      g.wantAdmit = f.wantAdmit ∧ g.punt = f.punt) ∧
  (∀ (s : State) (f : Frame) (w : WalkSt) (en cnt : Nat) (res : Result), findFrame s f.fid = some f →
    (f.walk = .queued ∧ f.engine < 4 ∨ f.walk = .walking) → walkFrame (resumeCfg s f) f = (.done, w, en) →
    lookup s (fvMeta f w en ++ w.fv.drop 8) = some (res, cnt) → res.action = 3 → res.mapBad = false → f.verdict = none →
    ∃ t g, exec (.parseWalk f.fid []) s = .next t ∧ findFrame t f.fid = some g ∧ g.walk = .decided ∧ g.result = some res ∧ g.wantAdmit = true ∧
      g.fields = fvMeta f w en ++ w.fv.drop 8 ∧ g.payload = w.cursor ∧ g.endNode = en ∧ g.frag = w.frag) ∧
  (∀ (s : State) (f : Frame) (i : FragInfo), findFrame s f.fid = some f → f.frag = some i → f.walk = .later → findGlean s i.key = none →
    heldBytes (updFrame f.fid (fun f => { f with walk := .holding }) s) ≤ 65536 →
    ∃ t, exec (.laterFragment f.fid) s = .next t ∧ findFrame t f.fid = some { f with walk := .holding } ∧ t.plg = s.plg) ∧
  (∀ (s : State) (f : Frame) (i : FragInfo) (e : Glean), findFrame s f.fid = some f → f.frag = some i → f.walk = .later →
    findGlean s i.key = some e → f.verdict = none →
    ∃ t g, exec (.laterFragment f.fid) s = .next t ∧ findFrame t f.fid = some g ∧ g.walk = .following ∧ g.frag = some i) ∧
  (∀ (s : State) (f : Frame), findFrame s f.fid = some f → f.walk = .holding →
    ∃ t, exec (.fragHoldExpiry f.fid) s = .next t ∧ t.plg.gleans = s.plg.gleans ∧ (∀ g, findFrame t f.fid = some g → g.walk = .decided))

/-- GLEAN_EXPIRY, PUNT_TOKEN_REFILL and ADMIT_MESSAGE: an entry expires alone and its frame's verdict is bad, every punt bucket gains its
rate, and a message is admitted, held, or turned away without one (R101, R103, R109, R115, R119, R126, R482).
Where the manual leaves a point open it follows the model's own choice: log 38, 39. -/
def Obligations.PloughAdmits : Prop :=
  (∀ (s : State) (g : Glean) (f : Frame), s.plg.gleans.find? (fun x => x.first = g.first) = some g → findFrame s g.first = some f →
    ∃ t, exec (.gleanExpiry g.first) s = .next t ∧ t.plg.gleans = s.plg.gleans.filter (fun x => x.first ≠ g.first) ∧
      (f.gleaned = true → ∀ f', findFrame t g.first = some f' → f'.verdict = some false ∧ f'.wantAdmit = false)) ∧
  (∀ s : State, ∃ t, exec .puntTokenRefill s = .next t ∧
    (∀ k, k < 8 → puntLevel t k = min (1000 * regF s (0x2520 + 4 * k) 0 16) (puntLevel s k + regF s (0x2500 + 4 * k) 0 16)) ∧
    t.plg.gleans = s.plg.gleans ∧ t.plg.passed = s.plg.passed ∧ t.regs = s.regs) ∧
  (∀ (s : State) (f : Frame) (r : Result), findFrame s f.fid = some f → f.result = some r → f.wantAdmit = true → f.giant = false →
    f.verdict ≠ some false → leadReached f r = true → yokState s = 3 → (getStream s r.stream).st = .opened →
    inflightCount (getStream s r.stream) < 4 → (getStream s r.stream).resetWait = none →
    ∃ t, exec (.admitMessage f.fid) s = .next t ∧ t.nextMid = s.nextMid + 1 ∧
      (∀ g, findFrame t f.fid = some g → g.mid = some s.nextMid ∧ g.wantAdmit = false)) ∧
  (∀ (s : State) (f : Frame) (r : Result), findFrame s f.fid = some f → f.result = some r → f.wantAdmit = true → f.giant = false →
    f.verdict ≠ some false → leadReached f r = true → yokState s = 3 → (getStream s r.stream).st = .fenced →
    inflightCount (getStream s r.stream) < 4 → (getStream s r.stream).resetWait = none → findMsg s s.nextMid = none →
    ∃ t m, exec (.admitMessage f.fid) s = .next t ∧ t.msgs = s.msgs ++ [m] ∧ m.mid = s.nextMid ∧ m.stream = r.stream ∧
      m.seq = (getStream s r.stream).nextIn ∧ m.held = true ∧ m.status = none ∧
      (getStream t r.stream).nextIn = ((getStream s r.stream).nextIn + 1) % 65536 ∧
      (getStream t r.stream).lastReq = some (f.ingress, f.station)) ∧
  (∀ (s : State) (f : Frame) (r : Result), findFrame s f.fid = some f → f.result = some r → f.wantAdmit = true → f.giant = false →
    f.verdict ≠ some false → leadReached f r = true → yokState s ≠ 3 → yokState s ≠ 4 → yokState s ≠ 7 →
    ∃ t, exec (.admitMessage f.fid) s = .next t ∧ t.msgs = s.msgs ∧ t.streams = s.streams ∧
      (∀ g, findFrame t f.fid = some g → g.wantAdmit = false)) ∧
  (∀ (s : State) (f : Frame) (r : Result), findFrame s f.fid = some f → f.result = some r → f.wantAdmit = true → f.giant = false →
    f.verdict ≠ some false → leadReached f r = true → yokState s = 3 →
    ((getStream s r.stream).st = .opened ∨ (getStream s r.stream).st = .fenced) → 4 ≤ inflightCount (getStream s r.stream) →
    ∃ t, exec (.admitMessage f.fid) s = .next t ∧ t.msgs = s.msgs ∧ (getStream t r.stream).nextIn = (getStream s r.stream).nextIn ∧
      (getStream t r.stream).overrunSeen = true)

/-- SCHED_FRAME: a site schedule frame leaves the frames before classification; the Yoke takes its payload (R90).
Where the manual leaves a point open it follows the model's own choice: log 62. -/
def Obligations.ScheduleFrameTaken : Prop :=
  ∀ (s : State) (f : Frame), findFrame s f.fid = some f → f.walk = .queued → f.verdict = some true → schedShape s f = some true →
    ∃ t u, exec (.schedFrame f.fid) s = .next t ∧ t = bbSettle (yokSched (schedPayload f) (settlePunts f.ingress u)) ∧
      u.frames = s.frames.filter (fun x => x.fid ≠ f.fid) ∧ Counted (928 + 16 * ((f.ingress - 8) / 4) + 8) 1 s u ∧
      findFrame t f.fid = none ∧ t.msgs.map Msg.mid = s.msgs.map Msg.mid

/-! ### The Sower and the fabric's transitions (R129 to R144, R158 to R170) -/

/-- SHEAF_WINDOW_EXPIRY, PASS_DISPATCH and PASS_COMPLETE: a window's end closes its sheaf; a free group starts the first ready pass in the
order of R135 under the next generation; a pass that ends hands its members on, after the last pass with their outputs (R131, R136, R160).
Where the manual leaves a point open it follows the model's own choice: log 52, 58. -/
def Obligations.SowerPasses : Prop :=
  (∀ (s : State) (x : Sheaf), sowerUp s = true → findSheaf s x.sid = some x → x.forming = true → x.t0 + x.window ≤ s.clk.now →
    ∃ u, exec (.sheafWindowExpiry x.sid) s = .next (readySheaves (gatherAll u)) ∧
      findSheaf u x.sid = some { x with forming := false, closeAt := s.clk.now } ∧ u.msgs = s.msgs) ∧
  (∀ (s : State) (x : Sheaf), sowerUp s = true → findSheaf s x.sid = some x → s.clk.now < x.t0 + x.window →
    exec (.sheafWindowExpiry x.sid) s = .next s) ∧
  (∀ (s u : State) (gid : Fin 64) (g : Group) (x : Sheaf), sowerUp s = true → u = readySheaves s → findGroup u gid = some g → g.run = none →
    g.trans = none → g.plots ≠ [] → g.unfilled = [] →
    (closedSheaves u).find? (fun x => x.granted.isSome && !x.members.isEmpty &&
      (match sheafGroup u x with | some h => decide (h.gid = gid) | none => false)) = some x → findSheaf u x.sid = some x →
    (∀ h ∈ bundleHalves x.slot x.bank ((getBank u x.slot x.bank).passOff + 192 * x.pass) 192 ++
      bundleHalves x.slot x.bank (passRec u x.slot x.bank x.pass 8 8) 4, poisoned u h = false) →
    ∃ v h r tr, exec (.passDispatch gid) s = .next (flowAll v) ∧ findGroup v gid = some h ∧ h.run = some r ∧ r.sid = x.sid ∧ r.pass = x.pass ∧
      r.members = x.members ∧ r.t0 = s.clk.now ∧ h.trans = some tr ∧ tr.gen = (g.gen + 1) % 4 ∧ tr.size = x.members.length ∧
      tr.cfg = passCfg u x.slot x.bank x.pass ∧ tr.turns = turnsNow g ∧ tget [] ((g.gen + 1) % 4) h.tables = x.members ∧
      h.orphans = g.orphans ∧ h.plots = g.plots) ∧
  (∀ (s u : State) (gid : Fin 64), sowerUp s = true → u = readySheaves s →
    (∀ g, findGroup u gid = some g → g.run.isSome = true ∨ g.trans.isSome = true ∨ g.plots = [] ∨ g.unfilled ≠ []) →
    exec (.passDispatch gid) s = .next u) ∧
  (∀ (s : State) (gid : Fin 64) (used : Nat) (outs : List (Nat × List Byte)) (spills : List (Fin 1024 × Fin 16384)) (g : Group) (r : Run)
    (x : Sheaf), sowerUp s = true → findGroup s gid = some g → g.run = some r → g.trans = none → findSheaf s r.sid = some x →
    (getBank s g.slot g.bank).npass ≤ r.pass + 1 →
    ∃ u, exec (.passComplete gid used outs spills) s = .next (readySheaves (gatherAll u)) ∧ findGroup u gid = some { g with run := none } ∧
      findSheaf u r.sid = none ∧
      (∀ m ∈ x.members, ∀ v, findMsg s m = some v → ∃ w, findMsg u m = some w ∧ w.loc = .output ∧ w.pass = r.pass + 1 ∧
        w.outputs = if v.status.isNone && !v.held then some (((outs.find? (fun o => o.1 = m)).map Prod.snd).getD []) else none)) ∧
  (∀ (s : State) (gid : Fin 64) (used : Nat) (outs : List (Nat × List Byte)) (spills : List (Fin 1024 × Fin 16384)) (g : Group) (r : Run)
    (x : Sheaf), sowerUp s = true → findGroup s gid = some g → g.run = some r → g.trans = none → findSheaf s r.sid = some x →
    x.members ≠ [] → r.pass + 1 < (getBank s g.slot g.bank).npass →
    ∃ u y, exec (.passComplete gid used outs spills) s = .next (readySheaves (gatherAll u)) ∧ findGroup u gid = some { g with run := none } ∧
      findSheaf u r.sid = some y ∧ y.pass = r.pass + 1 ∧ y.members = x.members)

/-- SLICE_OVERRUN, CUMIN_SHED, ROTATION_CHECK and HEADLAND_INJECT: a slice past its bound is replanted, a waiting Cumin sheaf is shed,
the hottest eligible group starts a rotation, and a loaded one gets its headland (R138, R141, R142, R144).
Where the manual leaves a point open it follows the model's own choice: log 10, 55, 58. -/
def Obligations.SowerIntervenes : Prop :=
  (∀ (s : State) (gid : Fin 64) (elapsed : Nat) (g : Group) (r : Run), sowerUp s = true → findGroup s gid = some g → g.run = some r →
    sliceBound s g r + regF s 0x2610 0 16 < elapsed - r.paused → gatewayPaused s g = false →
    ∃ u, exec (.sliceOverrun gid elapsed) s = .next (readySheaves u) ∧ (∀ p ∈ g.plots, plotTokens u p = []) ∧
      (∀ t ∈ g.plots.flatMap (fun p => (List.range 16).map (16 * p + ·)), (getTile u t).run = .idle ∧ (getTile u t).gen = (g.gen + 1) % 4)) ∧
  (∀ (s : State) (gid : Fin 64) (elapsed : Nat) (g : Group) (r : Run), sowerUp s = true → findGroup s gid = some g → g.run = some r →
    elapsed - r.paused ≤ sliceBound s g r + regF s 0x2610 0 16 → exec (.sliceOverrun gid elapsed) s = .next s) ∧
  (∀ (s : State) (x : Sheaf) (t0 : Nat), sowerUp s = true → findSheaf s x.sid = some x → x.waitT0 = some t0 →
    s.clk.now - t0 ≤ 1000 * max 100 (regF s 0x260C 0 16) → exec (.cuminShed x.sid) s = .next s) ∧
  (∀ (s : State) (x : Sheaf) (t0 : Nat), sowerUp s = true → findSheaf s x.sid = some x → x.cls = 3 → x.waitT0 = some t0 → x.granted = none →
    1000 * max 100 (regF s 0x260C 0 16) < s.clk.now - t0 →
    ∃ u, exec (.cuminShed x.sid) s =
        .next (raiseOn (sheafDie s x) 0x0501 x.slot x.slot x.members.length (passLayer s x.slot x.bank x.pass) (each x.members (failMsg stShed) u)) ∧
      Counted 11 x.members.length s u ∧
      (∀ m ∈ x.members, ∀ v, findMsg u m = some v → v.loc = .idle ∧ v.outputs = none ∧ v.staged = false) ∧
      (∀ y ∈ u.sheaves, ∀ m ∈ x.members, m ∉ y.members)) ∧
  (∀ (s : State) (p : Fin 64) (r : List (Fin 1024)), sowerUp s = true → (getReg s 0x2614).testBit 0 = false → r ≠ [] →
    ∃ t, exec (.rotationCheck [(p, r)]) s = .next t ∧ (getPlot t p).avg = (r.map Fin.val).sum / r.length ∧ t.groups = s.groups ∧
      (∀ q, q ≠ p.val → getPlot t q = getPlot s q)) ∧
  (∀ s : State, sowerUp s = true → (getReg s 0x2614).testBit 0 = true → (∃ h ∈ s.groups, (rotEligible s h).isSome = true) →
    ∃ t g target, exec (.rotationCheck []) s = .next t ∧ g ∈ s.groups ∧ rotEligible s g = some target ∧
      (∀ h ∈ s.groups, (rotEligible s h).isSome = true → hottest s h.plots ≤ hottest s g.plots) ∧
      t.groups.map Group.gid = s.groups.map Group.gid ∧
      (∀ h ∈ t.groups, h.gid = g.gid → h.rot = some { target := target, loaded := false, t0 := s.clk.now }) ∧
      (∀ p ∈ target, p ∉ g.plots → (getPlot t p).group = some g.gid ∧ (getPlot t p).st = .active)) ∧
  (∀ (s : State) (gid : Fin 64) (g : Group) (r : Rot), sowerUp s = true → findGroup s gid = some g → g.rot = some r → r.loaded = true →
    r.t0 + 1000000 * regF s 0x2620 0 16 ≤ s.clk.now → g.run = none → g.trans = none → (∀ p ∈ g.plots, plotTokens s p = []) →
    ∃ v h, exec (.headlandInject gid) s = .next (flowAll v) ∧ findGroup v gid = some h ∧
      h.trans = some { gen := (g.gen + 1) % 4, cfg := g.cfg, size := g.size, turns := true } ∧ h.orphans = g.orphans ∧ h.gen = g.gen) ∧
  (∀ (s : State) (gid : Fin 64) (g : Group) (r : Rot), sowerUp s = true → findGroup s gid = some g → g.rot = some r →
    s.clk.now < r.t0 + 1000000 * regF s 0x2620 0 16 → exec (.headlandInject gid) s = .next s)

/-- SEED_SHADOW_READY, UNIT_FINISH_OLD_WORK and UNIT_FLIP: a unit's shadow takes the seed while its active bank stays; a unit that saw its
headlands and has no work left finishes, its leftovers discarded; it flips to its shadow, and a wrong seed replants the group (R158 to R166).
Where the manual leaves a point open it follows the model's own choice: log 53. -/
def Obligations.UnitTransitions : Prop :=
  (∀ (s : State) (u : Fin 3072) (cfg : BitVec 16) (mode : Fin 8) (watch : Option (Fin 16)) (words : List Word) (g : Group), sowerUp s = true →
    groupOfPlot s (plotOfUnit u) = some g → u.val < 1024 → g.reload = false →
    ∃ t, exec (.seedShadowReady u cfg mode watch words) s = .next t ∧ (getTile t u).shadowReady = true ∧ (getTile t u).shadow.cfg = cfg.toNat ∧
      (getTile t u).shadow.mode = mode ∧ (∀ x, watch = some x → (getTile t u).shadow.watch = x + 1) ∧ (∀ i, i < 1104 → i < words.length → some (tget 0 i (getTile t u).shadow.words) = words[i]?) ∧
      (getTile t u).active = (getTile s u).active ∧ (∀ v, v ≠ u.val → getTile t v = getTile s v)) ∧
  (∀ (s : State) (u : Fin 3072) (cfg : BitVec 16) (mode : Fin 8) (watch : Option (Fin 16)) (words : List Word) (g : Group), sowerUp s = true →
    groupOfPlot s (plotOfUnit u) = some g → u.val < 1024 → g.reload = true → plotOfUnit u ∈ g.plots → pendingCfg s g.gid = some cfg.toNat →
    ∃ t, exec (.seedShadowReady u cfg mode watch words) s = .next t ∧ (getTile t u).seeded = true ∧ (getTile t u).active.cfg = cfg.toNat ∧
      (getTile t u).cfg = cfg.toNat ∧ (getTile t u).mode = mode ∧ (getTile t u).shadowReady = (getTile s u).shadowReady ∧
      (∀ i, i < 1104 → i < words.length → some (tget 0 i (getTile t u).active.words) = words[i]?) ∧
      (∀ v, v ≠ u.val → getTile t v = getTile s v)) ∧
  (∀ (s : State) (u : Fin 3072) (cfg : BitVec 16) (mode : Fin 8) (watch : Option (Fin 16)) (w : Word) (words : List Word) (g : Group),
    sowerUp s = true → groupOfPlot s (plotOfUnit u) = some g → 1024 ≤ u.val → u.val < 2048 → g.reload = false →
    ∃ t, exec (.seedShadowReady u cfg mode watch (w :: words)) s = .next t ∧ (getSu t (u - 1024)).shadowReady = true ∧
      (getSu t (u - 1024)).shadowCfg = cfg.toNat ∧ (getSu t (u - 1024)).shadow = w.toNat ∧ (getSu t (u - 1024)).active = (getSu s (u - 1024)).active) ∧
  (∀ (s : State) (u : Fin 3072) (cfg : BitVec 16) (mode : Fin 8) (watch : Option (Fin 16)) (a b c : Word) (g : Group), sowerUp s = true →
    groupOfPlot s (plotOfUnit u) = some g → 2048 ≤ u.val → g.reload = false →
    ∃ t, exec (.seedShadowReady u cfg mode watch [a, b, c]) s = .next t ∧ (getSwitch t (u - 2048)).shadowReady = true ∧
      (getSwitch t (u - 2048)).shadowCfg = cfg.toNat ∧ (getSwitch t (u - 2048)).shadow = [a.toNat, b.toNat, c.toNat] ∧
      (getSwitch t (u - 2048)).active = (getSwitch s (u - 2048)).active) ∧
  (∀ (s : State) (u : Fin 3072) (g : Group) (tr : Trans), sowerUp s = true → groupOfPlot s (plotOfUnit u) = some g → g.trans = some tr →
    plotOfUnit u ∈ transPlots g → u.val ∉ s.fab.finished → unitGen s u ≠ tr.gen → (∀ i ∈ usedInputs s u, (u.val, i) ∈ s.fab.seen) →
    quietUnit s u = true → forwardRoom s tr u = true →
    ∃ t, exec (.unitFinishOldWork u) s = .next t ∧ u.val ∈ t.fab.finished ∧ (u.val < 1024 → (getTile t u).ms = []) ∧ unitGen t u = unitGen s u) ∧
  (∀ (s : State) (u : Fin 3072) (g : Group) (tr : Trans), sowerUp s = true → groupOfPlot s (plotOfUnit u) = some g → g.trans = some tr →
    (quietUnit s u = false ∨ forwardRoom s tr u = false ∨ ∃ i ∈ usedInputs s u, (u.val, i) ∉ s.fab.seen) →
    exec (.unitFinishOldWork u) s = .next s) ∧
  (∀ (s : State) (u : Fin 3072) (g : Group) (tr : Trans), sowerUp s = true → groupOfPlot s (plotOfUnit u) = some g → g.trans = some tr →
    vacated g tr (plotOfUnit u) = false → u.val ∈ s.fab.finished → unitGen s u ≠ tr.gen → (unitCfg s u).2.2 = true → (unitCfg s u).1 = tr.cfg →
    ∃ t, exec (.unitFlip u) s = .next t ∧ unitGen t u = tr.gen ∧ (unitCfg t u).2.1 = tr.cfg ∧ (unitCfg t u).2.2 = false ∧
      (u.val < 1024 → (getTile t u).active = (getTile s u).shadow ∧ (getTile t u).size = tr.size ∧ (getTile t u).mode = (getTile s u).shadow.mode ∧
        (∀ r, getA (getTile t u) r = 0 ∧ getP (getTile t u) r = 0) ∧ (getTile t u).s = (getTile s u).s ∧ (getTile t u).v = (getTile s u).v ∧
        (getTile t u).flags = (getTile s u).flags ∧ (getTile t u).ts = (getTile s u).ts)) ∧
  (∀ (s : State) (u : Fin 3072) (g : Group) (tr : Trans), sowerUp s = true → groupOfPlot s (plotOfUnit u) = some g → g.trans = some tr →
    vacated g tr (plotOfUnit u) = false → u.val ∈ s.fab.finished → unitGen s u ≠ tr.gen → (unitCfg s u).2.2 = false → sameSeed s tr.cfg u = true →
    ∃ t, exec (.unitFlip u) s = .next t ∧ unitGen t u = tr.gen ∧ (unitCfg t u).2.1 = tr.cfg ∧
      (u.val < 1024 → (getTile t u).active = (getTile s u).active ∧ (getTile t u).size = tr.size ∧ (getTile t u).mode = (getTile s u).active.mode ∧
        (∀ r, getA (getTile t u) r = 0 ∧ getP (getTile t u) r = 0) ∧ (getTile t u).s = (getTile s u).s ∧ (getTile t u).v = (getTile s u).v ∧
        (getTile t u).flags = (getTile s u).flags ∧ (getTile t u).ts = (getTile s u).ts)) ∧
  (∀ (s : State) (u : Fin 3072) (g : Group) (tr : Trans), sowerUp s = true → groupOfPlot s (plotOfUnit u) = some g → g.trans = some tr →
    vacated g tr (plotOfUnit u) = true → u.val ∈ s.fab.finished → unitGen s u ≠ tr.gen → u.val < 1024 →
    ∃ t, exec (.unitFlip u) s = .next t ∧ unitGen t u = tr.gen ∧ (getTile t u).active = TileBank.init ∧ (getTile t u).seeded = false) ∧
  (∀ (s : State) (u : Fin 3072) (g : Group) (tr : Trans), sowerUp s = true → groupOfPlot s (plotOfUnit u) = some g → g.trans = some tr →
    (u.val ∉ s.fab.finished ∨ ((unitCfg s u).2.2 = false ∧ sameSeed s tr.cfg u = false ∧ vacated g tr (plotOfUnit u) = false)) →
    exec (.unitFlip u) s = .next s) ∧
  (∀ (s : State) (u : Fin 3072) (g : Group) (tr : Trans), sowerUp s = true → groupOfPlot s (plotOfUnit u) = some g → g.trans = some tr →
    vacated g tr (plotOfUnit u) = false → u.val ∈ s.fab.finished → unitGen s u ≠ tr.gen → (unitCfg s u).2.2 = true → (unitCfg s u).1 ≠ tr.cfg →
    ∃ t, exec (.unitFlip u) s = .next t ∧ (∀ p ∈ g.plots, plotTokens t p = []))

/-! ### The tile core and the steering units (R152 to R156, R172 to R199) -/

/-- NOP, ALU, ADDI, ANDI, ORI, XORI, LUI, SHI and MFS: the tile after each, as the 32-bit words of R181 give it; nothing but the tile's
destination, flags and PC differs. -/
def Obligations.TileScalarResults : Prop :=
  ∀ (s : State) (k : Fin 1024) (w : Nat) (T : Tile), getTile s k = T →
    (Issues s k 0x00 w → exec (.nop k) s = .next (setTile k (advance T) s)) ∧
    (Issues s k 0x01 w → exec (.alu k) s = .next (setTile k (advance (orFlags
      (if bitsOf w 0 4 = 15 ∧ addsOverflows (sreg T (fRa w)) (sreg T (fRb w)) = true then flSAT else 0)
      (setS (fRd w) (aluSpec (bitsOf w 0 4) (sreg T (fRa w)) (sreg T (fRb w))).toNat T))) s)) ∧
    (Issues s k 0x02 w → exec (.addi k) s = .next (setTile k (advance (setS (fRd w) (sreg T (fRa w) + simm w).toNat T)) s)) ∧
    (Issues s k 0x03 w → exec (.andi k) s =
      .next (setTile k (advance (setS (fRd w) (sreg T (fRa w) &&& (BitVec.ofNat 16 w).setWidth 32).toNat T)) s)) ∧
    (Issues s k 0x04 w → exec (.ori k) s =
      .next (setTile k (advance (setS (fRd w) (sreg T (fRa w) ||| (BitVec.ofNat 16 w).setWidth 32).toNat T)) s)) ∧
    (Issues s k 0x05 w → exec (.xori k) s =
      .next (setTile k (advance (setS (fRd w) (sreg T (fRa w) ^^^ (BitVec.ofNat 16 w).setWidth 32).toNat T)) s)) ∧
    (Issues s k 0x06 w → exec (.lui k) s =
      .next (setTile k (advance (setS (fRd w) ((BitVec.ofNat 16 w).setWidth 32 <<< 16).toNat T)) s)) ∧
    (Issues s k 0x07 w → exec (.shi k) s =
      .next (setTile k (advance (setS (fRd w) (shiftSpec (bitsOf w 5 2) (sreg T (fRa w)) (bitsOf w 0 5)).toNat T)) s)) ∧
    (Issues s k 0x0B w → exec (.mfs k) s = .next (setTile k (advance (setS (fRd w)
      (match bitsOf w 0 4 with
       | 0 => T.mode | 1 => T.flags | 2 => T.ct | 3 => T.ot | 4 => k | 5 => T.size | 6 => T.gen | 7 => T.cfg | 8 => T.zpa
       | 9 => mirrorTime s (k / 256) % 2 ^ 32 | _ => 0) T)) s))

/-- Writing a scalar register changes what that register reads as and no other; s0 always reads as 0. -/
def Obligations.ScalarRegisters : Prop :=
  ∀ (T : Tile) (rd : Nat) (x : Word), (∀ r, sreg (setS rd x.toNat T) r = if r = 0 then 0 else if r = rd then x else sreg T r) ∧
    (setS rd x.toNat T).v = T.v ∧ (setS rd x.toNat T).a = T.a ∧ (setS rd x.toNat T).p = T.p ∧ (setS rd x.toNat T).flags = T.flags ∧
    (setS rd x.toNat T).ts = T.ts ∧ (setS rd x.toNat T).ms = T.ms

/-- MTS, CMP, CMPI, PLOG, BR, HALT and RESERVED_OPCODE: special registers, predicates and control (R173, R174, R179, R180, R182).
Where the manual leaves a point open it follows the model's own choice: log 49. -/
def Obligations.TileControl : Prop :=
  ∀ (s : State) (k : Fin 1024) (w : Nat) (T : Tile), getTile s k = T →
    (Issues s k 0x0C w → exec (.mts k) s = .next (setTile k (advance
      (match bitsOf w 0 4 with
       | 0 => { T with mode := getS T (fRa w) % 8 }
       | 1 => { T with flags := T.flags ^^^ (T.flags &&& getS T (fRa w)) }
       | 3 => { T with ot := getS T (fRa w) % 2 ^ 13 + 2 ^ 13 * (T.gen % 4) + 2 ^ 15 * (getS T (fRa w) / 2 ^ 15 % 2) }
       | 8 => { T with zpa := getS T (fRa w) % 256 }
       | _ => T)) s)) ∧
    (Issues s k 0x08 w → exec (.cmp k) s = .next (setTile k (advance (setP (fRd w)
      (if cmpSpec (bitsOf w 0 3) (sreg T (fRa w)) (sreg T (fRb w)) then BitVec.allOnes 64 else 0).toNat T)) s)) ∧
    (Issues s k 0x09 w → exec (.cmpi k) s = .next (setTile k (advance (setP (bitsOf w 21 2)
      (if cmpSpec (bitsOf w 23 3) (sreg T (fRa w)) (simm w) then BitVec.allOnes 64 else 0).toNat T)) s)) ∧
    (Issues s k 0x0A w → exec (.plog k) s =
      .next (setTile k (advance (setP (fRd w) (plogSpec (bitsOf w 0 3) (preg T (fRa w)) (preg T (fRb w))).toNat T)) s)) ∧
    (Issues s k 0x3D w → exec (.br k) s = .next (setTile k { T with
      run := .running,
      pc := if (match bitsOf w 24 2 with
          | 0 => true
          | 1 => (preg T (bitsOf w 22 2)).getLsbD 0
          | 2 => !(preg T (bitsOf w 22 2)).getLsbD 0
          | _ => decide (preg T (bitsOf w 22 2) ≠ 0)) then bitsOf w 0 10 else T.pc + 1 } s)) ∧
    (Issues s k 0x3F w → ∃ t, exec (.halt k) s = .next t ∧ (getTile t k).run = .idle ∧ (getTile t k).pc = T.pc + 1 ∧ (getTile t k).s = T.s ∧
      (getTile t k).ms = T.ms ∧ (∀ j, j ≠ k.val → getTile t j = getTile s j)) ∧
    (canExec s k 0x3F = true → T.pc = 1023 → ∃ t, exec (.halt k) s = .next t ∧ getTile t k = { T with run := .fault, cause := 4 }) ∧
    (plotsOn s = true → T.run = .running → opKnown (fOp (tileWord T)) = false → ∃ t, exec (.reservedOpcode k) s = .next t ∧
      getTile t k = { T with run := .fault, cause := 1 } ∧ Counted (960 + 15 * (k / 16) + 9) 1 s t ∧ (∀ j, j ≠ k.val → getTile t j = getTile s j)) ∧
    (canExec s k 0x00 = true → T.pc = 1023 → ∃ t, exec (.nop k) s = .next t ∧ getTile t k = { T with run := .fault, cause := 4 } ∧
      Counted (960 + 15 * (k / 16) + 9) 1 s t)

/-- LDS, VLD and ALD: the bytes of the tile store at the aligned address, wrapping at its end; a corrected error is counted, an
uncorrectable word faults the tile and counts toward its plot's retirement (R175, R176, R183).
Where the manual leaves a point open it follows the model's own choice: log 80. -/
def Obligations.TileLoads : Prop :=
  ∀ (s : State) (k : Fin 1024) (w : Nat) (T : Tile), getTile s k = T →
    (Issues s k 0x0D w → tsBadRead T (tsPlace T w 4) 4 = false →
      exec (.lds k []) s = .next (setTile k (advance (setS (fRd w) (tsBytes T (tsPlace T w 4) 4) T)) s) ∧
      exec (.lds k [(0, false)]) s = exec (.lds k []) (bump (960 + 15 * (k / 16) + 10) 1 s)) ∧
    (Issues s k 0x10 w → tsBadRead T (tsPlace T w 64) 64 = false →
      exec (.vld k []) s = .next (setTile k (advance (setV (fRd w) (tsBytes T (tsPlace T w 64) 64) T)) s) ∧
      (∀ i : Fin 48, i.val < 8 → exec (.vld k [(i, false)]) s = exec (.vld k []) (bump (960 + 15 * (k / 16) + 10) 1 s))) ∧
    (Issues s k 0x12 w → tsBadRead T (tsPlace T w 64) 384 = false →
      exec (.ald k []) s = .next (setTile k (advance (setA (fRd w) (tsBytes T (tsPlace T w 64) 384) T)) s) ∧
      (∀ i : Fin 48, exec (.ald k [(i, false)]) s = exec (.ald k []) (bump (960 + 15 * (k / 16) + 10) 1 s))) ∧
    (Issues s k 0x0D w → tsBadRead T (tsPlace T w 4) 4 = true →
      ∃ t, exec (.lds k []) s = .next t ∧ getTile t k = { T with run := .fault, cause := 3 }) ∧
    (Issues s k 0x10 w → tsBadRead T (tsPlace T w 64) 64 = true →
      ∃ t, exec (.vld k []) s = .next t ∧ getTile t k = { T with run := .fault, cause := 3 }) ∧
    (Issues s k 0x12 w → tsBadRead T (tsPlace T w 64) 384 = true →
      ∃ t, exec (.ald k []) s = .next t ∧ getTile t k = { T with run := .fault, cause := 3 }) ∧
    (Issues s k 0x0D w → ∃ u, exec (.lds k [(0, true)]) s = .next (plotError (k / 16) u) ∧ (getTile u k).run = .fault ∧
      (getTile u k).cause = 3 ∧ (getTile u k).s = T.s ∧ tsPlace T w 4 / 8 ∈ (getTile u k).tsBad) ∧
    (∀ i : Fin 48, Issues s k 0x10 w → i.val < 8 → ∃ u, exec (.vld k [(i, true)]) s = .next (plotError (k / 16) u) ∧
      (getTile u k).run = .fault ∧ (getTile u k).v = T.v ∧ (tsPlace T w 64 / 8 + i) % 16384 ∈ (getTile u k).tsBad) ∧
    (∀ i : Fin 48, Issues s k 0x12 w → ∃ u, exec (.ald k [(i, true)]) s = .next (plotError (k / 16) u) ∧ (getTile u k).run = .fault ∧
      (getTile u k).a = T.a ∧ (tsPlace T w 64 / 8 + i) % 16384 ∈ (getTile u k).tsBad)

/-- STS, VST and AST: the bytes stored are the register's, little-endian from the aligned address and wrapping; every other byte of the
tile store stays (R175, R183). -/
def Obligations.TileStores : Prop :=
  ∀ (s : State) (k : Fin 1024) (w : Nat) (T : Tile), getTile s k = T →
    (Issues s k 0x0E w → ∃ t, exec (.sts k) s = .next t ∧ (getTile t k).pc = T.pc + 1 ∧ tsBytes (getTile t k) (tsPlace T w 4) 4 = getS T (fRd w) ∧
      (∀ a, a < 131072 → 4 ≤ (a + 131072 - tsPlace T w 4) % 131072 → tget 0 a (getTile t k).ts = tget 0 a T.ts) ∧
      (getTile t k).s = T.s ∧ (getTile t k).v = T.v ∧ (getTile t k).a = T.a ∧ (∀ j, j ≠ k.val → getTile t j = getTile s j)) ∧
    (Issues s k 0x11 w → ∃ t, exec (.vst k) s = .next t ∧ (getTile t k).pc = T.pc + 1 ∧ tsBytes (getTile t k) (tsPlace T w 64) 64 = getV T (fRd w) ∧
      (∀ a, a < 131072 → 64 ≤ (a + 131072 - tsPlace T w 64) % 131072 → tget 0 a (getTile t k).ts = tget 0 a T.ts) ∧
      (getTile t k).s = T.s ∧ (getTile t k).v = T.v ∧ (getTile t k).a = T.a ∧ (∀ j, j ≠ k.val → getTile t j = getTile s j)) ∧
    (Issues s k 0x13 w → ∃ t, exec (.ast k) s = .next t ∧ (getTile t k).pc = T.pc + 1 ∧ tsBytes (getTile t k) (tsPlace T w 64) 384 = getA T (fRd w) ∧
      (∀ a, a < 131072 → 384 ≤ (a + 131072 - tsPlace T w 64) % 131072 → tget 0 a (getTile t k).ts = tget 0 a T.ts) ∧
      (getTile t k).s = T.s ∧ (getTile t k).v = T.v ∧ (getTile t k).a = T.a ∧ (∀ j, j ≠ k.val → getTile t j = getTile s j))

/-- VALU, VBCST, VEXT, VINS, VCMP and RCP lane by lane under the lane mask, for every integer and floating-point format (R184, R185, R186, R210).
Where the manual leaves a point open it follows the model's own choice: log 48. -/
def Obligations.TileVectorLanes : Prop :=
  ∀ (s : State) (k : Fin 1024) (w : Nat) (T : Tile), getTile s k = T →
    (∀ n sg, Issues s k 0x18 w → fmtOf (bitsOf w 0 4) = some (.int n sg) → bitsOf w 4 4 < 14 →
      ∃ t fl V, exec (.valu k) s = .next t ∧ t = setTile k (advance (orFlags fl (setV (fRd w) V T))) s ∧
        (∀ i, i < 512 / n → laneOf n V i = if (maskOf T (bitsOf w 8 3)).testBit i then
          (valuInt n sg (bitsOf w 4 4) (laneOf n (getV T (fRa w)) i) (laneOf n (getV T (fRb w)) i)).1 else laneOf n (getV T (fRd w)) i)) ∧
    (∀ n sg, Issues s k 0x18 w → fmtOf (bitsOf w 0 4) = some (.int n sg) → bitsOf w 4 4 = 0 → bitsOf w 8 3 = 0 →
      ∃ t fl V, exec (.valu k) s = .next t ∧ t = setTile k (advance (orFlags fl (setV (fRd w) V T))) s ∧
        (∀ i, i < 512 / n → intVal n sg (laneOf n V i) =
          max (intLo n sg) (min (intHi n sg) (intVal n sg (laneOf n (getV T (fRa w)) i) + intVal n sg (laneOf n (getV T (fRb w)) i)))) ∧
        (fl = 0 ∨ fl = flSAT)) ∧
    (∀ f, Issues s k 0x18 w → fmtOf (bitsOf w 0 4) = some (.fp f) → (bitsOf w 4 4 < 7 ∨ bitsOf w 4 4 = 13) →
      ∃ t fl V, exec (.valu k) s = .next t ∧ t = setTile k (advance (orFlags fl (setV (fRd w) V T))) s ∧
        (∀ i, i < 512 / f.width → laneOf f.width V i = (if (maskOf T (bitsOf w 8 3)).testBit i then
          (valuFp f (tileFp T) (bitsOf w 4 4) (laneOf f.width (getV T (fRa w)) i) (laneOf f.width (getV T (fRb w)) i)).1
          else laneOf f.width (getV T (fRd w)) i) % 2 ^ f.width)) ∧
    (Issues s k 0x18 w → (fmtOf (bitsOf w 0 4) = none ∨ 14 ≤ bitsOf w 4 4 ∨
        ∃ f, fmtOf (bitsOf w 0 4) = some (.fp f) ∧ 7 ≤ bitsOf w 4 4 ∧ bitsOf w 4 4 ≤ 12) →
      ∃ t, exec (.valu k) s = .next t ∧ getTile t k = { T with run := .fault, cause := 2 }) ∧
    (∀ x ∈ [(0x19, Instr.vbcst k), (0x1A, .vext k), (0x1B, .vins k), (0x1C, .vcmp k), (0x2B, .rcp k)], Issues s k x.1 w →
      fmtOf (bitsOf w 0 4) = none → ∃ t, exec x.2 s = .next t ∧ getTile t k = { T with run := .fault, cause := 2 }) ∧
    (∀ n sg, Issues s k 0x2B w → fmtOf (bitsOf w 0 4) = some (.int n sg) →
      ∃ t, exec (.rcp k) s = .next t ∧ getTile t k = { T with run := .fault, cause := 2 }) ∧
    (∀ fm, Issues s k 0x19 w → fmtOf (bitsOf w 0 4) = some fm →
      ∃ t V, exec (.vbcst k) s = .next t ∧ t = setTile k (advance (setV (fRd w) V T)) s ∧
        (∀ i, i < 512 / fm.width → laneOf fm.width V i =
          if (maskOf T (bitsOf w 8 3)).testBit i then getS T (fRa w) % 2 ^ fm.width else laneOf fm.width (getV T (fRd w)) i)) ∧
    (∀ fm, Issues s k 0x1A w → fmtOf (bitsOf w 0 4) = some fm →
      ∃ t x, exec (.vext k) s = .next t ∧ t = setTile k (advance (setS (fRd w) x T)) s ∧ x < 2 ^ 32 ∧
        x % 2 ^ fm.width = laneOf fm.width (getV T (fRa w)) (getS T (fRb w) % (512 / fm.width)) ∧
        (∀ n, fm = .int n true → toSigned 32 x = toSigned n (laneOf n (getV T (fRa w)) (getS T (fRb w) % (512 / n)))) ∧
        ((∀ n, fm ≠ .int n true) → x < 2 ^ fm.width)) ∧
    (∀ fm, Issues s k 0x1B w → fmtOf (bitsOf w 0 4) = some fm →
      ∃ t V, exec (.vins k) s = .next t ∧ t = setTile k (advance (setV (fRd w) V T)) s ∧
        (∀ i, i < 512 / fm.width → laneOf fm.width V i =
          if i = getS T (fRb w) % (512 / fm.width) ∧ (maskOf T (bitsOf w 8 3)).testBit i = true then getS T (fRa w) % 2 ^ fm.width
          else laneOf fm.width (getV T (fRd w)) i)) ∧
    (∀ fm, Issues s k 0x1C w → fmtOf (bitsOf w 0 4) = some fm →
      ∃ t P, exec (.vcmp k) s = .next t ∧ t = setTile k (advance (setP (fRd w) P T)) s ∧
        (∀ i, P.testBit i = (decide (i < 64 ∧ i < 512 / fm.width) &&
          vcmpLane fm (tileFp T) (bitsOf w 4 4) (laneOf fm.width (getV T (fRa w)) i) (laneOf fm.width (getV T (fRb w)) i)))) ∧
    (∀ f, Issues s k 0x2B w → fmtOf (bitsOf w 0 4) = some (.fp f) →
      ∃ t fl V, exec (.rcp k) s = .next t ∧ t = setTile k (advance (orFlags fl (setV (fRd w) V T))) s ∧
        (∀ i, i < 512 / f.width → laneOf f.width V i = (if (maskOf T (bitsOf w 8 3)).testBit i then
          (fpRcp f (tileFp T) (laneOf f.width (getV T (fRa w)) i)).1 else laneOf f.width (getV T (fRd w)) i) % 2 ^ f.width))

/-- VMAC, VMACB, the five AOPs, GRS, REQ and CVT: what each accumulator or vector lane holds afterwards (R187 to R192).
Where the manual leaves a point open it follows the model's own choice: log 49. -/
def Obligations.TileAccumulates : Prop :=
  ∀ (s : State) (k : Fin 1024) (w : Nat) (T : Tile), getTile s k = T →
    (∀ ww sg xw xsg, Issues s k 0x20 w → macOk false (mWfmt w) (mXfmt w) = true → fmtOf (mWfmt w) = some (.int ww sg) →
      fmtOf (mXfmt w) = some (.int xw xsg) →
      ∃ t fl A, exec (.vmac k) s = .next t ∧ getTile t k = advance (orFlags fl (setA (mAd w) A T)) ∧ (∀ j, j ≠ k.val → getTile t j = getTile s j) ∧
        (∀ j, j < 64 → accInt A j = max (-(2 ^ 31)) (min (2 ^ 31 - 1)
          (accInt (getA T (mAd w)) j + macSum T false (mZp w) ww xw xsg (getV T (mWv w)) (getV T (mXv w)) (mLane w) j)))) ∧
    (∀ ww sg xw xsg, Issues s k 0x21 w → macOk true (mWfmt w) (mXfmt w) = true → fmtOf (mWfmt w) = some (.int ww sg) →
      fmtOf (mXfmt w) = some (.int xw xsg) →
      ∃ t fl A, exec (.vmacb k) s = .next t ∧ getTile t k = advance (orFlags fl (setA (mAd w) A T)) ∧ (∀ j, j ≠ k.val → getTile t j = getTile s j) ∧
        (∀ j, j < 64 → accInt A j = max (-(2 ^ 31)) (min (2 ^ 31 - 1)
          (accInt (getA T (mAd w)) j + macSum T true (mZp w) ww xw xsg (getV T (mWv w)) (getV T (mXv w)) (mLane w) j)))) ∧
    (∀ fw fx, Issues s k 0x21 w → macOk true (mWfmt w) (mXfmt w) = true → fmtOf (mWfmt w) = some (.fp fw) → fmtOf (mXfmt w) = some (.fp fx) →
      ∃ t fl A, exec (.vmacb k) s = .next t ∧ getTile t k = advance (orFlags fl (setA (mAd w) A T)) ∧
        (∀ j, j < 64 → accLane A j = if j < 512 / fw.width then
          (fpMac fw fx (tileFp T) (laneOf fw.width (getV T (mWv w)) j) (laneOf fx.width (getV T (mXv w)) (mLane w % (512 / fx.width)))
            (accLane (getA T (mAd w)) j % 2 ^ 32)).1 % 2 ^ 48 else accLane (getA T (mAd w)) j)) ∧
    (∀ fw fx, Issues s k 0x20 w → macOk false (mWfmt w) (mXfmt w) = true → fmtOf (mWfmt w) = some (.fp fw) → fmtOf (mXfmt w) = some (.fp fx) →
      ∃ t fl A, exec (.vmac k) s = .next t ∧ getTile t k = advance (orFlags fl (setA (mAd w) A T)) ∧
        (∀ j, j < 64 → accLane A j = if j < 512 / fw.width then
          (fpMac fw fx (tileFp T) (laneOf fw.width (getV T (mWv w)) j) (laneOf fx.width (getV T (mXv w)) j)
            (accLane (getA T (mAd w)) j % 2 ^ 32)).1 % 2 ^ 48 else accLane (getA T (mAd w)) j)) ∧
    (Issues s k 0x20 w → macOk false (mWfmt w) (mXfmt w) = false →
      ∃ t, exec (.vmac k) s = .next t ∧ getTile t k = { T with run := .fault, cause := 2 }) ∧
    (Issues s k 0x21 w → macOk true (mWfmt w) (mXfmt w) = false →
      ∃ t, exec (.vmacb k) s = .next t ∧ getTile t k = { T with run := .fault, cause := 2 }) ∧
    (Issues s k 0x23 w → bitsOf w 0 3 = 0 → exec (.aopZero k) s = .next (setTile k (advance (setA (fRd w) 0 T)) s)) ∧
    (Issues s k 0x23 w → bitsOf w 0 3 = 1 → exec (.aopCopy k) s = .next (setTile k (advance (setA (fRd w) (getA T (fRa w)) T)) s)) ∧
    (Issues s k 0x23 w → bitsOf w 0 3 = 2 →
      ∃ t fl V, exec (.aopExt k) s = .next t ∧ t = setTile k (advance (orFlags fl (setV (fRd w) V T))) s ∧ (fl = 0 ∨ fl = flSAT) ∧
        (∀ i, i < 16 → toSigned 32 (laneOf 32 V i) =
          max (-(2 ^ 31)) (min (2 ^ 31 - 1) (accInt (getA T (fRa w)) (16 * bitsOf w 4 2 + i))))) ∧
    (Issues s k 0x23 w → bitsOf w 0 3 = 3 →
      ∃ t fl A, exec (.aopAddv k) s = .next t ∧ t = setTile k (advance (orFlags fl (setA (fRd w) A T))) s ∧ (fl = 0 ∨ fl = flSAT) ∧
        (∀ j, j < 64 → accInt A j = if j / 16 = bitsOf w 4 2 then
          max (-(2 ^ 47)) (min (2 ^ 47 - 1) (accInt (getA T (fRd w)) j + toSigned 32 (laneOf 32 (getV T (fRb w)) (j % 16))))
          else accInt (getA T (fRd w)) j)) ∧
    (Issues s k 0x23 w → bitsOf w 0 3 = 4 →
      ∃ t V, exec (.aopExtf k) s = .next t ∧ t = setTile k (advance (setV (fRd w) V T)) s ∧
        (∀ i, i < 16 → laneOf 32 V i = accLane (getA T (fRa w)) (16 * bitsOf w 4 2 + i) % 2 ^ 32)) ∧
    (∀ i ∈ [Instr.aopZero k, .aopCopy k, .aopExt k, .aopAddv k, .aopExtf k], Issues s k 0x23 w → 5 ≤ bitsOf w 0 3 →
      ∃ t, exec i s = .next t ∧ getTile t k = { T with run := .fault, cause := 2 }) ∧
    (Issues s k 0x28 w →
      ∃ t fl A, exec (.grs k) s = .next t ∧ t = setTile k (advance (orFlags fl (setA (fRa w) 0 (setA (fRd w) A T)))) s ∧ (fl = 0 ∨ fl = flSAT) ∧
        (∀ j, j < 64 → accInt A j = max (-(2 ^ 47)) (min (2 ^ 47 - 1) (accInt (getA T (fRd w)) j +
          if 0 ≤ toSigned 8 (getS T (fRb w)) then accInt (getA T (fRa w)) j * (2 ^ (toSigned 8 (getS T (fRb w))).toNat : Nat)
          else roundHalfEven (accInt (getA T (fRa w)) j) (-toSigned 8 (getS T (fRb w))).toNat)))) ∧
    (∀ n sg, Issues s k 0x29 w → fmtOf (bitsOf w 0 4) = some (.int n sg) → n ≤ 8 →
      ∃ t fl V, exec (.req k) s = .next t ∧ t = setTile k (advance (orFlags fl (setV (fRd w) V T))) s ∧ (fl = 0 ∨ fl = flSAT) ∧
        (∀ j, j < 64 → intVal n sg (laneOf n V j) = max (intLo n sg) (min (intHi n sg)
          (roundHalfEven (accInt (getA T (fRa w)) j * toSigned 16 (getS T (fRb w))) (min 47 (bitsOf (getS T (fRb w)) 16 6)) +
            intVal 8 sg (bitsOf (getS T (fRb w)) 24 8))))) ∧
    (Issues s k 0x29 w → 4 ≤ bitsOf w 0 4 →
      ∃ t, exec (.req k) s = .next t ∧ getTile t k = { T with run := .fault, cause := 2 }) ∧
    (Issues s k 0x2A w → (fmtOf (bitsOf w 0 4) = none ∨ fmtOf (bitsOf w 4 4) = none) →
      ∃ t, exec (.cvt k) s = .next t ∧ getTile t k = { T with run := .fault, cause := 2 }) ∧
    (∀ src dst, Issues s k 0x2A w → fmtOf (bitsOf w 0 4) = some src → fmtOf (bitsOf w 4 4) = some dst → src.width = dst.width →
      ∃ t fl V, exec (.cvt k) s = .next t ∧ t = setTile k (advance (orFlags fl (setV (fRd w) V T))) s ∧
        (∀ i, i < 512 / dst.width → laneOf dst.width V i =
          (convert src dst (tileFp T) 0 (laneOf src.width (getV T (fRa w)) i)).1 % 2 ^ dst.width)) ∧
    (∀ src dst h, Issues s k 0x2A w → fmtOf (bitsOf w 0 4) = some src → fmtOf (bitsOf w 4 4) = some dst → src.width < dst.width →
      h = bitsOf w 8 3 % (dst.width / src.width) →
      ∃ t fl V, exec (.cvt k) s = .next t ∧ t = setTile k (advance (orFlags fl (setV (fRd w) V T))) s ∧
        (∀ i, i < 512 / dst.width → laneOf dst.width V i =
          (convert src dst (tileFp T) 0 (laneOf src.width (getV T (fRa w)) (512 / dst.width * h + i))).1 % 2 ^ dst.width)) ∧
    (∀ src dst h, Issues s k 0x2A w → fmtOf (bitsOf w 0 4) = some src → fmtOf (bitsOf w 4 4) = some dst → dst.width < src.width →
      h = bitsOf w 8 3 % (src.width / dst.width) →
      ∃ t fl V, exec (.cvt k) s = .next t ∧ t = setTile k (advance (orFlags fl (setV (fRd w) V T))) s ∧
        (∀ i, i < 512 / dst.width → laneOf dst.width V i =
          if 512 / src.width * h ≤ i ∧ i < 512 / src.width * (h + 1) then
            (convert src dst (tileFp T) 0 (laneOf src.width (getV T (fRa w)) (i - 512 / src.width * h))).1 % 2 ^ dst.width
          else laneOf dst.width (getV T (fRd w)) i))

/-- SEND, RECV, TAG and EVENT: a token to the streamer's drain, a wait for credit, a matched entry consumed or a wait for one, the
outgoing tag, and a traced event (R193, R194, R195, R197).
Where the manual leaves a point open it follows the model's own choice: log 50, 51, 52. -/
def Obligations.TilePorts : Prop :=
  ∀ (s : State) (k : Fin 1024) (w : Nat) (T : Tile), getTile s k = T →
    (Issues s k 0x30 w → bitsOf w 19 2 = 0 → bitsOf w 16 3 = 5 →
      ∃ t, exec (.send k) s = .next t ∧ getTile t k = advance T ∧ t.fab = { s.fab with drain := s.fab.drain ++
        [(k.val, { net := 0, tag := T.ot, data := (sreg T (fRd w)).setWidth 512, headland := false })] }) ∧
    (Issues s k 0x30 w → bitsOf w 19 2 < 3 → hasCredit s k (bitsOf w 19 2) (bitsOf w 16 3) = false →
      exec (.send k) s = .next (setTile k { T with run := .waitSend } s)) ∧
    (Issues s k 0x30 w → bitsOf w 19 2 = 3 → ∃ t, exec (.send k) s = .next t ∧ getTile t k = { T with run := .fault, cause := 2 } ∧ t.fab = s.fab) ∧
    (Issues s k 0x30 w → bitsOf w 19 2 < 3 → bitsOf w 16 3 < 5 → hasCredit s k (bitsOf w 19 2) (bitsOf w 16 3) = true →
      ∃ tok, exec (.send k) s =
          .next (flowAll (pushFifo (fifoKey k (bitsOf w 19 2) (8 + bitsOf w 16 3)) tok (setTile k (advance T) s))) ∧ tok.net = bitsOf w 19 2 ∧ tok.tag = T.ot ∧
        tok.headland = false ∧ tok.data.toNat = if bitsOf w 19 2 = 1 then getV T (fRd w) else
          if bitsOf w 19 2 = 2 then getS T (fRd w) % 256 else getS T (fRd w)) ∧
    (Issues s k 0x30 w → bitsOf w 19 2 < 3 → 6 ≤ bitsOf w 16 3 → exec (.send k) s = .next (orphan k (k / 16) T.ot (setTile k (advance T) s))) ∧
    (∀ e, Issues s k 0x31 w → recvEntry T (bitsOf w 19 2) (bitsOf w 16 3) (w.testBit 15) = some e →
      ∃ t, exec (.recv k) s = .next t ∧ (getTile t k).ms = consume e T.ms ∧
        (bitsOf w 19 2 = 1 → getV (getTile t k) (fRd w) = e.tok.data.toNat ∧ (getTile t k).s = T.s)) ∧
    (∀ e, Issues s k 0x31 w → recvEntry T (bitsOf w 19 2) (bitsOf w 16 3) (w.testBit 15) = some e → bitsOf w 19 2 ≠ 1 →
      ∃ t, exec (.recv k) s = .next t ∧ (getTile t k).pc = T.pc + 1 ∧ (getTile t k).run = .running ∧ (getTile t k).ct = T.ct ∧
        (fRd w ≠ 0 → getS (getTile t k) (fRd w) = e.tok.data.toNat % (if bitsOf w 19 2 = 2 then 256 else 2 ^ 32)) ∧
        (w.testBit 15 = false → ∀ x ∈ (getTile t k).ms, x.seqNo ≠ e.seqNo)) ∧
    (Issues s k 0x31 w → recvEntry T (bitsOf w 19 2) (bitsOf w 16 3) (w.testBit 15) = none →
      exec (.recv k) s = .next (noteStall k (setTile k { T with run := .waitRecv } s))) ∧
    (Issues s k 0x34 w → bitsOf w 0 3 = 0 → exec (.tag k) s = .next (setTile k (advance (setS (fRd w) T.ct T)) s)) ∧
    (∀ x a, Issues s k 0x34 w → bitsOf w 0 3 ≠ 0 → a = getS T (fRa w) → (bitsOf w 0 3 = 3 → T.ot % 256 + a % 256 ≤ 255) →
      (x = match bitsOf w 0 3 with
        | 1 => a
        | 2 => T.ot - T.ot % 256 + a % 256
        | 3 => T.ot + a % 256
        | 4 => T.ot % 256 + 256 * (a % 32)
        | 5 => T.ot % 256 + 2 ^ 15
        | _ => T.ct) →
      exec (.tag k) s = .next (setTile k (advance { T with ot := x % 2 ^ 13 + 2 ^ 13 * (T.gen % 4) + 2 ^ 15 * (x / 2 ^ 15 % 2) }) s)) ∧
    (Issues s k 0x34 w → bitsOf w 0 3 = 3 → 255 < T.ot % 256 + getS T (fRa w) % 256 →
      ∃ u, exec (.tag k) s = .next (taintOwners (k / 16) (getTile u k).ot u) ∧ (getTile u k).ot % 256 = 255 ∧
        Counted (960 + 15 * (k / 16) + 11) 1 s u) ∧
    (Issues s k 0x3C w → T.event = none → (getLink s (k / 256)).train = none →
      ∃ t, exec (.event k) s = .next t ∧ getTile t k = advance T ∧ t.fab = s.fab ∧ Counted (960 + 15 * (k / 16) + 12) 1 s t) ∧
    (Issues s k 0x3C w → T.event = none → (getLink s (k / 256)).train.isSome = true →
      ∃ t e, exec (.event k) s = .next t ∧ getTile t k = { advance T with event := some e } ∧ e.1 = getS T (fRa w) ∧ e.2.1 = getS T (fRb w) ∧
        t.fab = s.fab ∧ Counted (960 + 15 * (k / 16) + 12) 1 s t) ∧
    (Issues s k 0x3C w → T.event.isSome = true → exec (.event k) s = .next (setTile k { T with run := .waitEvent } s))

/-- TOKEN_ARRIVAL, BLOCK_FIRE and SU_FIRE: a token of the tile's generation joins the matching store, another is discarded and counted, a
headland is seen; the lowest fireable block starts and its EXACT entries go; a steering unit takes its pair (R152 to R156, R161, R170, R178).
Where the manual leaves a point open it follows the model's own choice: log 53, 99, 114. -/
def Obligations.TileFires : Prop :=
  (∀ (s : State) (k : Fin 1024) (c : Nat) (tok : Token) (o : Operand), (getTile s k).run ≠ .fault → plotsOn s = true →
    (servedFrom (getTile s k).rr).find? (fun c => (inputHead s k (c / 6) (c % 6)).isSome) = some c → inputHead s k (c / 6) (c % 6) = some tok →
    (getTile s k).ms.length < 64 → bitsOf tok.tag 13 2 = (getTile s k).gen → operandFor (getTile s k).active tok.net (c % 6) = some o →
    ∃ u e, exec (.tokenArrival k none) s = .next (flowAll u) ∧ (getTile u k).ms = (getTile s k).ms ++ [e] ∧ e.tok = tok ∧ e.port = c % 6 ∧
      e.shared = o.shared ∧ e.seqNo = (getTile s k).arrivals ∧ (getTile u k).arrivals = (getTile s k).arrivals + 1 ∧
      e.uses = (if o.shared then (if o.uses = 0 then (getTile s k).size else o.uses) else 1) ∧ (getTile u k).rr = (c + 1) % 18 ∧
      (∀ j, j ≠ k.val → getTile u j = getTile s j)) ∧
  (∀ (s : State) (k : Fin 1024) (c : Nat) (tok : Token), (getTile s k).run ≠ .fault → plotsOn s = true →
    (servedFrom (getTile s k).rr).find? (fun c => (inputHead s k (c / 6) (c % 6)).isSome) = some c → inputHead s k (c / 6) (c % 6) = some tok →
    (getTile s k).ms.length < 64 → bitsOf tok.tag 13 2 ≠ (getTile s k).gen →
    ∃ u, exec (.tokenArrival k none) s = .next (flowAll u) ∧ getTile u k = { getTile s k with rr := (c + 1) % 18 } ∧ u.msgs = s.msgs ∧
      Counted (960 + 15 * (k / 16) + 3) 1 s u) ∧
  (∀ (s : State) (k : Fin 1024), ((getTile s k).run = .fault ∨ plotsOn s = false ∨
      ∀ c, c < 18 → inputHead s k (c / 6) (c % 6) = none) → exec (.tokenArrival k none) s = .next s) ∧
  (∀ (s : State) (k : Fin 1024) (f : Feed), exec (.tokenArrival k (some f)) s = exec (.tokenArrival k none) (feedToken k f s)) ∧
  (∀ (s : State) (k : Fin 1024) (f : Feed) (g : Group) (b : Nat) (m : Fin 32) (mid : Nat) (v : Msg), groupOfPlot s (k / 16) = some g →
    g.trans = none → f.src = .input b → f.member = some m → (tget [] g.gen g.tables)[m.val]? = some mid → findMsg s mid = some v →
    f.net = 1 → f.at64 = 0 →
    ∃ tok, feedToken k f s = setFeed (4 * k + 1) (getFeed s (4 * k + 1) ++ [tok]) s ∧ tok.net = 1 ∧
      tok.tag = 8192 * g.gen + f.iter.toNat + 256 * m.val ∧ tok.data = BitVec.ofNat 512 (leNat (slice v.input (64 * b) 64)) ∧
      tok.headland = false) ∧
  (∀ (s : State) (k : Fin 1024) (b entry tag : Nat) (ops : List Operand) (es : List MsEntry), (getTile s k).run = .idle →
    fireable (getTile s k) = some (b, entry, ops, tag, es) →
    ∃ t, exec (.blockFire k) s = .next t ∧ (getTile t k).run = .running ∧ (getTile t k).blk = b ∧ (getTile t k).pc = entry ∧
      (getTile t k).ct = tag ∧ (getTile t k).ot = tag ∧ (getTile t k).msStall = false ∧
      (∀ x ∈ ops.zip es, (∀ e ∈ (getTile s k).ms, e.seqNo = x.2.seqNo → e.shared = false) →
        ∀ y ∈ (getTile t k).ms, y.seqNo ≠ x.2.seqNo) ∧
      (∀ j, j ≠ k.val → getTile t j = getTile s j) ∧ t.fab = s.fab) ∧
  (∀ (s : State) (k : Fin 512) (a c : Token), suReady (getSu s k) = true → suKind (getSu s k).active = 0 → suPair (getSu s k) = some (a, c) →
    exec (.suFire k) s = .next (flowAll (setSu k { getSu s k with
      inA := (getSu s k).inA.erase a, inC := (getSu s k).inC.erase c, out := [(b2n (c.data.getLsbD 0), a)] } s))) ∧
  (∀ (s : State) (k : Fin 512) (c b : Token) (cs bs : List Token), suReady (getSu s k) = true → suKind (getSu s k).active = 1 →
    (getSu s k).inC = c :: cs → c.data.getLsbD 0 = true → (getSu s k).inB = b :: bs →
    exec (.suFire k) s = .next (flowAll (setSu k { getSu s k with inB := bs, inC := cs, out := [(0, b)] } s))) ∧
  (∀ (s : State) (k : Fin 512) (a c : Token), suReady (getSu s k) = true → suKind (getSu s k).active = 2 → suPair (getSu s k) = some (a, c) →
    exec (.suFire k) s = .next (flowAll (setSu k { getSu s k with
      inA := (getSu s k).inA.erase a, inC := (getSu s k).inC.erase c, out := if c.data.getLsbD 0 then [(0, a)] else [] } s))) ∧
  (∀ (s : State) (k : Fin 512), suReady (getSu s k) = false → exec (.suFire k) s = .next s)

/-! ### Sync objects (R377 to R389) -/

/-- What each operation of Table SYN-2 does to an object at its home, by type: COUNTER and SEMAPHORE add and saturate, subtract to 0, BARRIER
counts arrivals into generations, FLAG is set and cleared; other objects stay (R379, R380, R381). -/
def Obligations.SyncObjectEffects : Prop :=
  ∀ (s : State) (who k v : Nat), k < 128 →
    (synType s k < 2 → ¬(synType s k = 0 ∧ synSat s k = true) → synVal s k + v < 2 ^ 32 →
      synVal (synApply .add who k v s).1 k = synVal s k + v ∧ synSat (synApply .add who k v s).1 k = synSat s k) ∧
    (synType s k < 2 → ¬(synType s k = 0 ∧ synSat s k = true) → 2 ^ 32 ≤ synVal s k + v →
      synVal (synApply .add who k v s).1 k = 2 ^ 32 - 1 ∧ synSat (synApply .add who k v s).1 k = true) ∧
    (synType s k = 0 → synSat s k = true → synVal (synApply .add who k v s).1 k = synVal s k ∧ synVal (synApply .sub who k v s).1 k = synVal s k) ∧
    (synType s k = 2 → synVal (synApply .add who k v s).1 k % 65536 = (synVal s k % 65536 + v) % synThreshold s k ∧
      synVal (synApply .add who k v s).1 k / 65536 = (synVal s k / 65536 + (synVal s k % 65536 + v) / synThreshold s k) % 65536) ∧
    (regF s (0x3C04 + 8 * k) 16 16 ≠ 0 → synThreshold s k = regF s (0x3C04 + 8 * k) 16 16) ∧
    (regF s (0x3C04 + 8 * k) 16 16 = 0 → synThreshold s k = 1) ∧
    (synType s k = 3 → synVal (synApply .add who k v s).1 k = if v = 0 then synVal s k else 1) ∧
    (synType s k < 2 → synSat s k = false → synVal (synApply .sub who k v s).1 k = synVal s k - v) ∧
    (synType s k = 2 → synVal (synApply .sub who k v s).1 k % 65536 = synVal s k % 65536 - v ∧
      synVal (synApply .sub who k v s).1 k / 65536 = synVal s k / 65536) ∧
    (synType s k = 3 → synVal (synApply .sub who k v s).1 k = 0) ∧
    (synType s k = 2 → v < 2 ^ 32 → synVal (synApply .set who k v s).1 k = v) ∧
    (synType s k = 3 → synVal (synApply .set who k v s).1 k = if v = 0 then 0 else 1) ∧
    (synType s k < 2 → v < 2 ^ 32 → synVal (synApply .set who k v s).1 k = v ∧ synSat (synApply .set who k v s).1 k = false) ∧
    (synType s k < 2 → (synApply .trydec who k v s).2 = decide (1 ≤ synVal s k) ∧
      synVal (synApply .trydec who k v s).1 k = synVal s k - 1) ∧
    (synType s k = 2 → (synApply .trydec who k v s).2 = decide (1 ≤ synVal s k % 65536) ∧
      synVal (synApply .trydec who k v s).1 k = if 1 ≤ synVal s k % 65536 then synVal s k - 1 else synVal s k) ∧
    (synType s k = 3 → (synApply .trydec who k v s).2 = decide (synVal s k = 1) ∧
      synVal (synApply .trydec who k v s).1 k = if synVal s k = 1 then 0 else synVal s k) ∧
    (∀ op ∈ [SynOp.waitGe, SynOp.waitEq, SynOp.read], (synApply op who k v s).1 = s) ∧
    (∀ op j, j ≠ k → j < 128 → synVal (synApply op who k v s).1 j = synVal s j ∧ synSat (synApply op who k v s).1 j = synSat s j) ∧
    (∀ op, synType (synApply op who k v s).1 k = synType s k ∧ synThreshold (synApply op who k v s).1 k = synThreshold s k)

/-- SYNC_ADD, SYNC_SUB, SYNC_SET, SYNC_TRYDEC, SYNC_WAIT_GE, SYNC_WAIT_EQ and SYNC_READ of a tile: the object takes the operation, s[rd] or
p[rd] the answer, and a wait goes on at once or joins the waiters (R196, R379, R383).
Where the manual leaves a point open it follows the model's own choice: log 49. -/
def Obligations.SyncOfATile : Prop :=
  ∀ (s : State) (k : Fin 1024) (w so v : Nat) (T : Tile), getTile s k = T → Issues s k 0x38 w → T.run ≠ .waitSync → so = getS T (fRa w) % 128 →
    v = getS T (fRb w) → synDead s so = false →
    (∀ op ∈ [SynOp.add, SynOp.sub, SynOp.set, SynOp.read], bitsOf w 0 3 = op.code →
      ∃ t, exec (match op with
          | .add => .syncAdd (.tile k) | .sub => .syncSub (.tile k) | .set => .syncSet (.tile k) | _ => .syncRead (.tile k)) s = .next t ∧
        getTile t k = advance (setS (fRd w) (synVal s so) T) ∧ synVal t so = synVal (synApply op k so v s).1 so ∧
        synSat t so = synSat (synApply op k so v s).1 so ∧ (∀ x ∈ t.waits, x.obj = so → synCond t so x.eq x.v = false)) ∧
    (bitsOf w 0 3 = 3 → ∃ t, exec (.syncTrydec (.tile k)) s = .next t ∧
      getTile t k = advance (setP (fRd w) (if (synApply .trydec k so v s).2 then 2 ^ 64 - 1 else 0) T) ∧
      synVal t so = synVal (synApply .trydec k so v s).1 so) ∧
    (bitsOf w 0 3 = 4 → synCond s so false v = true →
      ∃ t, exec (.syncWaitGe (.tile k)) s = .next t ∧ getTile t k = advance T ∧ t.waits = s.waits ∧ synVal t so = synVal s so) ∧
    (bitsOf w 0 3 = 4 → synCond s so false v = false →
      ∃ t, exec (.syncWaitGe (.tile k)) s = .next t ∧ getTile t k = { T with run := .waitSync } ∧
        t.waits = s.waits ++ [{ req := k, obj := so, eq := false, v := v, key := 0, t0 := s.clk.now }]) ∧
    (bitsOf w 0 3 = 5 → synCond s so true v = true →
      ∃ t, exec (.syncWaitEq (.tile k)) s = .next t ∧ getTile t k = advance T ∧ t.waits = s.waits ∧ synVal t so = synVal s so) ∧
    (bitsOf w 0 3 = 5 → synCond s so true v = false →
      ∃ t, exec (.syncWaitEq (.tile k)) s = .next t ∧ getTile t k = { T with run := .waitSync } ∧
        t.waits = s.waits ++ [{ req := k, obj := so, eq := true, v := v, key := 0, t0 := s.clk.now }]) ∧
    (bitsOf w 0 3 = 7 → ∀ i ∈ [Instr.syncAdd (.tile k), .syncSub (.tile k), .syncSet (.tile k), .syncTrydec (.tile k), .syncWaitGe (.tile k),
        .syncWaitEq (.tile k), .syncRead (.tile k)],
      ∃ t, exec i s = .next t ∧ getTile t k = { T with run := .fault, cause := 2 } ∧ t.waits = s.waits ∧ synVal t so = synVal s so)

/-- The same operations as SYNC_OP descriptors: the old value and, for TRYDEC, the success go into the completion; a wait holds the
descriptor; its time runs out with TIMEOUT, and a gate's ends its sheaf's messages (R379, R383, R385, R387, R389). -/
def Obligations.SyncOfADescriptor : Prop :=
  (∀ (s : State) (q : Fin 16) (pos : Nat) (b : List Byte) (op : SynOp), op ∈ [SynOp.add, SynOp.sub, SynOp.set, SynOp.trydec, SynOp.read] →
    runnable s q pos 0x28 (syncOp op) = some b → byteAt b 16 < 128 → byteAt b 17 = op.code → synDead s (byteAt b 16) = false →
    s.waits.any (fun w => decide (w.req = 1024 + q.val ∧ w.key = pos)) = false →
    ∃ t, exec (match op with
        | .add => .syncAdd (.desc q pos) | .sub => .syncSub (.desc q pos) | .set => .syncSet (.desc q pos)
        | .trydec => .syncTrydec (.desc q pos) | _ => .syncRead (.desc q pos)) s = .next t ∧
      Completed q pos 0 (synVal s (byteAt b 16)) (b2n (synApply op (1024 + q) (byteAt b 16) (leAt b 20 4) s).2) 0 t ∧
      synVal t (byteAt b 16) = synVal (synApply op (1024 + q) (byteAt b 16) (leAt b 20 4) s).1 (byteAt b 16)) ∧
  (∀ (s : State) (q : Fin 16) (pos : Nat) (b : List Byte), runnable s q pos 0x28 (syncOp .waitGe) = some b → byteAt b 16 < 128 →
    byteAt b 17 = 4 → synDead s (byteAt b 16) = false → s.waits.any (fun w => decide (w.req = 1024 + q.val ∧ w.key = pos)) = false →
    synCond s (byteAt b 16) false (leAt b 20 4) = false →
    ∃ t, exec (.syncWaitGe (.desc q pos)) s = .next t ∧ Executes q pos t ∧ t.waits = s.waits ++
      [{ req := 1024 + q, obj := byteAt b 16, eq := false, v := leAt b 20 4, key := pos, t0 := s.clk.now }]) ∧
  (∀ (s : State) (q : Fin 16) (pos : Nat) (b : List Byte), runnable s q pos 0x28 (syncOp .waitEq) = some b → byteAt b 16 < 128 →
    byteAt b 17 = 5 → synDead s (byteAt b 16) = false → s.waits.any (fun w => decide (w.req = 1024 + q.val ∧ w.key = pos)) = false →
    synCond s (byteAt b 16) true (leAt b 20 4) = true →
    ∃ t, exec (.syncWaitEq (.desc q pos)) s = .next t ∧ Completed q pos 0 (synVal s (byteAt b 16)) 0 0 t ∧ t.waits = s.waits) ∧
  (∀ (s : State) (q : Fin 16) (pos : Nat) (b : List Byte), runnable s q pos 0x28 (syncOp .add) = some b → byteAt b 16 < 128 →
    byteAt b 17 = 0 → synDead s (byteAt b 16) = true →
    ∃ t, exec (.syncAdd (.desc q pos)) s = .next t ∧ Completed q pos 0x4A 0 0 0 t ∧ t.regs = s.regs) ∧
  (∀ (s : State) (q : Fin 16) (w : Waiter) (d : Desc), s.waits.find? (fun w => w.req = 1024 + q.val) = some w → findDesc s q w.key = some d →
    (leAt d.bytes 24 4 ≠ 0 → w.t0 + 1000 * leAt d.bytes 24 4 ≤ s.clk.now →
      ∃ t, exec (.syncOpTimeout q) s = .next t ∧ Completed q w.key 0x48 0 0 0 t ∧ t.waits = s.waits.filter (fun x => x ≠ w) ∧ Counted 85 1 s t) ∧
    (leAt d.bytes 24 4 = 0 ∨ s.clk.now < w.t0 + 1000 * leAt d.bytes 24 4 → exec (.syncOpTimeout q) s = .next s)) ∧
  (∀ (s : State) (w : Waiter) (x : Sheaf), s.waits.find? (fun w => decide (1040 ≤ w.req ∧ w.key = x.sid)) = some w → findSheaf s x.sid = some x →
    (w.t0 + 1000 * max 1 (regF s 0x2624 0 16) ≤ s.clk.now →
      ∃ u, exec (.synWaitTo x.sid) s = .next (each x.members (failMsg stInternal) u) ∧ w ∉ u.waits ∧
        (∀ y ∈ u.sheaves, ∀ m ∈ x.members, m ∉ y.members) ∧ u.msgs = s.msgs) ∧
    (s.clk.now < w.t0 + 1000 * max 1 (regF s 0x2624 0 16) → exec (.synWaitTo x.sid) s = .next s))

/-! ### Replies and the broadcast pair (R22, R30, R31, R53, R227 to R242) -/

/-- REPLY_BUILD and GATE_TIMEOUT: the reply is the template's frame with the message's values, LATE when the verdict was known; an invalid
template or a destination that is down sends nothing; a verdict that does not come within RPL_GATE_MAX becomes bad, and not before (R15, R229,
R232, R234, R241).
Where the manual leaves a point open it follows the model's own choice: log 10, 33, 80. -/
def Obligations.RepliesAreBuilt : Prop :=
  (∀ (s : State) (m : Msg), findMsg s m.mid = some m → m.loc = .output → m.outputs.isSome = true → m.status = none → m.held = false →
    m.rowsOut = [] → m.reply = none → tplValid (tblEntry s 0x40 m.tmpl) = true → tblIsBad s 0x40 m.tmpl = false →
    echoReady s (tblEntry s 0x40 m.tmpl) (buildIn s m false).req = true → destDown s (replyDest (tblEntry s 0x40 m.tmpl) m.ingress) = false →
    replyDest (tblEntry s 0x40 m.tmpl) m.ingress < 16 →
    ∃ t v r, exec (.replyBuild m.mid []) s = .next t ∧ findMsg t m.mid = some v ∧ v.late = m.verdict.isSome ∧ v.reply = some r ∧
      r.dest = replyDest (tblEntry s 0x40 m.tmpl) m.ingress ∧ r.isError = false ∧ r.sent = 0 ∧
      r.bytes = (buildFrame (tblEntry s 0x40 m.tmpl) (buildIn s { m with late := m.verdict.isSome } false)).1) ∧
  (∀ (s : State) (m : Msg), findMsg s m.mid = some m → m.loc = .output → m.outputs.isSome = true → m.status = none → m.held = false →
    m.rowsOut = [] → m.reply = none → (tplValid (tblEntry s 0x40 m.tmpl) = false ∨ tblIsBad s 0x40 m.tmpl = true) →
    ∃ u, exec (.replyBuild m.mid []) s = .next (bbSettle (sendNothing m u)) ∧ Counted 37 1 s u ∧ u.msgs = s.msgs) ∧
  (∀ (s : State) (m : Msg), findMsg s m.mid = some m → m.loc = .output → m.outputs.isSome = true → m.status = none → m.held = false →
    m.rowsOut = [] → m.reply = none → tplValid (tblEntry s 0x40 m.tmpl) = true → tblIsBad s 0x40 m.tmpl = false →
    echoReady s (tblEntry s 0x40 m.tmpl) (buildIn s m false).req = true → destDown s (replyDest (tblEntry s 0x40 m.tmpl) m.ingress) = true →
    ∃ u, exec (.replyBuild m.mid []) s = .next (bbSettle (sendNothing m u)) ∧ Counted 38 1 s u ∧ u.msgs = s.msgs) ∧
  (∀ (s : State) (m : Msg) (t0 : Nat), findMsg s m.mid = some m → m.verdict = none → gateStart s m = some t0 →
    (t0 + gateMax s ≤ s.clk.now →
      ∃ t u v, exec (.gateTimeout m.mid) s = .next t ∧ t = bbSettle (failMsg stDamaged m.mid u) ∧ Counted 36 1 s u ∧
        findMsg u m.mid = some v ∧ v.verdict = some false ∧ v.status = m.status ∧ u.frames = s.frames) ∧
    (s.clk.now < t0 + gateMax s → exec (.gateTimeout m.mid) s = .next (bbSettle s)))

/-- A broadcast codeword has 240 bytes and the next slot is chosen, whatever is sent; the BEACON comes first and resets the scrambler, a COLLIDE
goes before acknowledgements, and an ended reply's FINAL takes its lane with the last piece (BP_SLOT_CHOICE; R22, R31, R53, R237, R239).
Where the manual leaves a point open it follows the model's own choice: log 47. -/
def Obligations.BroadcastSlots : Prop :=
  (∀ (s : State) (n : Fin 8), (getPort s n).running = true → (getPort s n).bpSlot < cycSlots s n →
    ∃ t, exec (.bpSlotChoice n) s = .next t ∧ (getPort t n).bpSlot = (getPort s n).bpSlot + 1 ∧ (getPort t n).chosen.length = 240 ∧
      (getPort t n).sched = (getPort s n).sched ∧ (getPort t n).rx = (getPort s n).rx ∧ (∀ m, m ≠ n.val → getPort t m = getPort s m)) ∧
  (∀ (s : State) (n : Fin 8), ((getPort s n).running = false ∨ cycSlots s n ≤ (getPort s n).bpSlot) →
    ∃ t, exec (.bpSlotChoice n) s = .next t ∧ t = bbSettle s ∧ t.ports = s.ports) ∧
  (∀ (s : State) (n : Fin 8) (b : List Byte), (getPort s n).running = true → (getPort s n).winding = false → (getPort s n).bpSlot = 0 →
    0 < cycSlots s n → (getPort s n).beacon = some b →
    ∃ t, exec (.bpSlotChoice n) s = .next t ∧ (getPort t n).beacon = none ∧
      (getPort t n).chosen = (scramble 0x7FFFFF (bpCodeword (bpData 5 0 false false 0 b))).2 ∧ (getPort t n).ctls = (getPort s n).ctls) ∧
  (∀ (s : State) (n : Fin 8) (c : Ctl), (getPort s n).running = true → (getPort s n).winding = false → 0 < (getPort s n).bpSlot →
    (getPort s n).bpSlot < cycSlots s n → (getPort s n).ctls.find? (fun c => c.rank = 0) = some c →
    ∃ t, exec (.bpSlotChoice n) s = .next t ∧ (getPort t n).ctls = (getPort s n).ctls.erase c ∧ (getPort t n).acks = (getPort s n).acks ∧
      (getPort t n).ctlSeq = (getPort s n).ctlSeq + 1 ∧
      (getPort t n).chosen = (scramble (getPort s n).lfsr (bpCodeword (bpData 6 0 false false (getPort s n).ctlSeq c.payload))).2) ∧
  (∀ (s : State) (n : Fin 8), (getPort s n).running = true → (getPort s n).winding = false → 0 < (getPort s n).bpSlot →
    (getPort s n).bpSlot < cycSlots s n → (∀ c ∈ (getPort s n).ctls, c.rank ≠ 0 ∧ c.rank ≠ 1) → (getPort s n).acks ≠ [] →
    ∃ t, exec (.bpSlotChoice n) s = .next t ∧ (getPort t n).acks = (getPort s n).acks.drop 36 ∧ (getPort t n).ctls = (getPort s n).ctls) ∧
  (∀ (s u : State) (n : Fin 8) (m : Msg) (r : Reply) (lane : Nat), (getPort s n).running = true → 0 < (getPort s n).bpSlot →
    (getPort s n).bpSlot < cycSlots s n → (getPort s n).ctls = [] → (getPort s n).acks = [] → u = markLaneWaits n s →
    u.msgs.findSome? (fun m => (mayEnd u n m).map (fun x => (m, x))) = some (m, r, false) → replyLane u n m r = some lane →
    ∃ t, exec (.bpSlotChoice n) s = .next t ∧
      (getPort t n).chosen = (scramble (getPort s n).lfsr (bpCodeword (bpData 3 lane (decide (r.sent = 0)) true r.sent (pieceOf r.bytes r.sent).1))).2)

/-- Scrambling a second time from the same state gives the bytes back: the receiver's descrambler is the sender's scrambler (R22). -/
def Obligations.ScramblerUndoesItself : Prop :=
  ∀ (st : Nat) (bs : List Byte), (scramble st (scramble st bs).2).2 = bs ∧ (scramble st (scramble st bs).2).1 = (scramble st bs).1 ∧
    (scramble st bs).2.length = bs.length

/-! ### Memory (R245 to R265) -/

/-- HBM_READ: a hit of the remote cache, of a good half or of one that came poisoned, a clean read at home, a corrected half, a half that is or
becomes poisoned, an unmapped address, which gives zeros, and a remote line that its home gives and the cache keeps (R246, R250, R251, R252,
R255).
Where the manual leaves a point open it follows the model's own choice: log 56, 59. -/
def Obligations.HbmReads : Prop :=
  ∀ (s : State) (die : Fin 4) (dpa : BitVec 40) (purpose : Fin 4) (owner : Nat) (e0 e1 : List Byte) (A L n : Nat),
    A = dpa.toNat / 64 * 64 → L = A / 128 → n = stackOf A → issues s n = true →
    let word := fun (h : Nat) (e : List Byte) =>
      if e.all (fun b => decide (b = 0)) then some (memBytes s (32 * h) 32, false)
      else eccDecode (xorBytes (memBytes s (32 * h) 32 ++ eccBytes (memBytes s (32 * h) 32)) (padTo 36 e))
    let clean := fun (h : Nat) (e : List Byte) => poisoned s h = false ∧ ∃ d, word h e = some (d, false)
    (∀ c, reach s A = true → n ≠ die → purpose ≠ 3 → findLine s die L = some c → c.bad.testBit (A / 32 % 4) = false →
      c.bad.testBit ((A / 32 + 1) % 4) = false →
      ∃ t, exec (.hbmRead die dpa purpose owner e0 e1) s = .next t ∧ Counted (2328 + 10 * die + 6) 1 s t ∧
        findLine t die L = some { c with used := s.mem.useCtr + 1 } ∧ t.mem.hbm = s.mem.hbm ∧ t.mem.poison = s.mem.poison ∧
        (c.st ≠ .modified → (tget Delivered.init die t.mem.lines).data = memBytes s A 64)) ∧
    (∀ c, reach s A = true → n ≠ die → purpose ≠ 3 → findLine s die L = some c → c.bad.testBit (A / 32 % 4) = true →
      c.bad.testBit ((A / 32 + 1) % 4) = false →
      ∃ u, exec (.hbmRead die dpa purpose owner e0 e1) s = .next (poisonRead purpose owner u) ∧ Counted (2328 + 10 * die + 6) 1 s u ∧
        Counted (2328 + 10 * n + 1) 1 s u ∧ (getReg u (0x3040 + 16 * n)).testBit 0 = true ∧
        (tget Delivered.init die u.mem.lines).data.take 32 = List.replicate 32 0#8 ∧ (∀ a, getMem u a = getMem s a) ∧ u.msgs = s.msgs) ∧
    (reach s A = true → n = die ∨ purpose = 3 → (getDir s L).held = 0 → (getDir s L).owned = false → clean (A / 32) e0 → clean (A / 32 + 1) e1 →
      ∃ t, exec (.hbmRead die dpa purpose owner e0 e1) s = .next t ∧
        t = { s with mem := { s.mem with lines := tset Delivered.init die ⟨A, purpose, owner, memBytes s A 64⟩ s.mem.lines } }) ∧
    (∀ d, reach s A = true → n = die ∨ purpose = 3 → (getDir s L).held = 0 → (getDir s L).owned = false → poisoned s (A / 32) = false →
      word (A / 32) e0 = some (d, true) → clean (A / 32 + 1) e1 →
      ∃ t, exec (.hbmRead die dpa purpose owner e0 e1) s = .next t ∧ Counted (2328 + 10 * n) 1 s t ∧
        (∀ i, i < 32 → getMem t (A + i) = (d[i]?).getD 0) ∧ (∀ a, a < A ∨ A + 32 ≤ a → getMem t a = getMem s a) ∧ t.msgs = s.msgs) ∧
    (reach s A = true → n = die ∨ purpose = 3 → (getDir s L).held = 0 → (getDir s L).owned = false →
      (poisoned s (A / 32) = true ∨ word (A / 32) e0 = none) → clean (A / 32 + 1) e1 →
      ∃ u, exec (.hbmRead die dpa purpose owner e0 e1) s = .next (poisonRead purpose owner u) ∧ Counted (2328 + 10 * n + 1) 1 s u ∧
        poisoned u (A / 32) = true ∧ (getReg u (0x3040 + 16 * n)).testBit 0 = true ∧ (∀ a, getMem u a = getMem s a) ∧ u.msgs = s.msgs ∧
        (tget Delivered.init die u.mem.lines).data = List.replicate 32 0#8 ++ memBytes s (A + 32) 32) ∧
    (reach s A = false →
      ∃ u, exec (.hbmRead die dpa purpose owner e0 e1) s = .next (poisonRead purpose owner u) ∧ Counted (2328 + 10 * n + 9) 1 s u ∧
        u.mem = { s.mem with lines := u.mem.lines } ∧ (tget Delivered.init die u.mem.lines).data = List.replicate 64 0#8 ∧ u.msgs = s.msgs) ∧
    (reach s A = true → n ≠ die → purpose ≠ 3 → findLine s die L = none → (getDir s L).held = 0 →
      s.mem.fills.any (fun f => decide (f.1 = die.val ∧ f.2.1 = L)) = false → clean (A / 32) e0 → clean (A / 32 + 1) e1 →
      ∃ t c, exec (.hbmRead die dpa purpose owner e0 e1) s = .next t ∧ Counted (2328 + 10 * die + 7) 1 s t ∧ findLine t die L = some c ∧
        c.st = .shared ∧ c.data = memBytes s (128 * L) 128 ∧ (getDir t L).held.testBit die = true ∧ (getDir t L).owned = false ∧
        (tget Delivered.init die t.mem.lines).data = memBytes s A 64)

/-- HBM_WRITE, REFRESH and SCRUB_READ: a line is written at its home with every holder invalidated, or a WORK line in the cache that
owns it; a drain's write to an unmapped address is handled as a poisoned read; a refresh counts the waiting; the scrubber walks on, corrects
and poisons (R246, R249, R251, R253, R255).
Where the manual leaves a point open it follows the model's own choice: log 59, 60. -/
def Obligations.HbmWritesAndScrubs : Prop :=
  (∀ (s : State) (die : Fin 4) (dpa : BitVec 40) (purpose : Fin 3) (owner : Nat) (data : List Byte) (A : Nat), A = dpa.toNat / 64 * 64 →
    issues s (stackOf A) = true →
    (reach s A = true → purpose ≠ 2 ∨ stackOf A = die →
      ∃ t, exec (.hbmWrite die dpa purpose owner data) s = .next t ∧ (∀ i, i < 64 → getMem t (A + i) = ((padTo 64 data)[i]?).getD 0) ∧
        (∀ a, a / 128 ≠ A / 128 → getMem t a = getMem s a) ∧ poisoned t (A / 32) = false ∧ poisoned t (A / 32 + 1) = false ∧
        (∀ d, d < 4 → (getDir s (A / 128)).held.testBit d = true → findLine t d (A / 128) = none) ∧ (getDir t (A / 128)).held = 0) ∧
    (∀ c, reach s A = true → purpose = 2 → stackOf A ≠ die → findLine s die (A / 128) = some c → c.st ≠ .shared →
      ∃ t, exec (.hbmWrite die dpa purpose owner data) s = .next t ∧ t.mem.hbm = s.mem.hbm ∧ t.mem.dir = s.mem.dir ∧
        findLine t die (A / 128) = some ⟨.modified, overlay c.data (A % 128) (padTo 64 data), s.mem.useCtr + 1,
          setBitTo (setBitTo c.bad (A / 32 % 4) false) ((A / 32 + 1) % 4) false⟩) ∧
    (reach s A = true → purpose = 2 → stackOf A ≠ die → (∀ c, findLine s die (A / 128) = some c → c.st = .shared) →
      ∃ t c, exec (.hbmWrite die dpa purpose owner data) s = .next t ∧ findLine t die (A / 128) = some c ∧ c.st = .modified ∧
        slice c.data (A % 128) 64 = padTo 64 data ∧ (getDir t (A / 128)).held = 2 ^ die.val ∧ (getDir t (A / 128)).owned = true ∧
        (∀ d, d < 4 → d ≠ die.val → (getDir s (A / 128)).held.testBit d = true → findLine t d (A / 128) = none)) ∧
    (reach s A = false →
      ∃ t u, exec (.hbmWrite die dpa purpose owner data) s = .next t ∧ t = poisonRead purpose owner u ∧
        Counted (2328 + 10 * stackOf A + 9) 1 s u ∧ t.mem = s.mem ∧ u.msgs = s.msgs)) ∧
  (∀ (s : State) (stack : Fin 4) (pc : Fin 32) (waits : List Nat), issues s stack = true → (∀ w ∈ waits, w ≤ 350) →
    ∃ t, exec (.refresh stack pc waits) s = .next t ∧ Counted (2328 + 10 * stack + 5) (sumOf waits) s t ∧ t.mem = s.mem) ∧
  (∀ (s : State) (stack : Fin 4) (err : List Byte) (raced : Bool) (k h : Nat), issues s stack = true → (getReg s 0x3000).testBit 0 = true →
    s.glb.dieFatal.testBit stack = false → k = tget 0 stack s.mem.scrubPos → k < 24 * 2 ^ 30 / 32 → h = stack * 2 ^ 30 + k → (getDir s (h / 4)).held = 0 →
    let word := if err.all (fun b => decide (b = 0)) then some (memBytes s (32 * h) 32, false)
      else eccDecode (xorBytes (memBytes s (32 * h) 32 ++ eccBytes (memBytes s (32 * h) 32)) (padTo 36 err))
    ∃ t, exec (.scrubRead stack err raced) s = .next t ∧ tget 0 stack t.mem.scrubPos = (if 24 * 2 ^ 30 / 32 ≤ k + 1 then 0 else k + 1) ∧
      (24 * 2 ^ 30 / 32 ≤ k + 1 → Counted (2328 + 10 * stack + 4) 1 s t) ∧
      (k + 1 < 24 * 2 ^ 30 / 32 → tget 0 (2328 + 10 * stack + 4) t.cnt = tget 0 (2328 + 10 * stack + 4) s.cnt) ∧
      (∀ d, poisoned s h = false → word = some (d, false) → t.mem.hbm = s.mem.hbm ∧ t.mem.poison = s.mem.poison) ∧
      (∀ d, poisoned s h = false → word = some (d, true) → Counted (2328 + 10 * stack + 2) 1 s t ∧
        (raced = false → ∀ i, i < 32 → getMem t (32 * h + i) = (d[i]?).getD 0) ∧ (raced = true → t.mem.hbm = s.mem.hbm)) ∧
      (poisoned s h = true ∨ word = none → Counted (2328 + 10 * stack + 3) 1 s t ∧
        (getReg t (0x3040 + 16 * stack)).testBit 0 = true ∧ (raced = false → poisoned t h = true) ∧ t.mem.hbm = s.mem.hbm))

/-- COHERENCE_REQUEST of every kind and INVALIDATION_RECEIVED: reads join the presence vector and make a dirty holder write back, a read for
write leaves one owner, a write and a dropped line reach the home, but for halves that came to the cache poisoned and were never written, and a
line is never held that its directory has invalidated (R251, R255 to R258).
Where the manual leaves a point open it follows the model's own choice: log 107. -/
def Obligations.CoherenceOfLines : Prop :=
  ∀ (s : State) (die : Fin 4) (line : BitVec 33) (L owner : Nat) (data : List Byte), L = line.toNat →
    (∀ kind : Fin 5, issues s (stackOf (128 * L)) = true → reach s (128 * L) = false →
      ∃ t, exec (.coherenceRequest die line kind owner data) s = .next t ∧ Counted (2328 + 10 * stackOf (128 * L) + 9) 1 s t ∧ t.mem = s.mem) ∧
    (issues s (stackOf (128 * L)) = true → reach s (128 * L) = true → stackOf (128 * L) ≠ die →
      ∃ t, exec (.coherenceRequest die line 0 owner data) s = .next t ∧ (getDir t L).held = setBitTo (getDir s L).held die true ∧
        (getDir t L).owned = false ∧ (die.val, L, false) ∈ t.mem.fills ∧
        (∀ h c, h < 4 → (getDir s L).held = 2 ^ h → findLine s h L = some c → c.st = .modified →
          ∀ i, i < 128 → c.bad.testBit (i / 32) = false → getMem t (128 * L + i) = ((padTo 128 c.data)[i]?).getD 0)) ∧
    (issues s (stackOf (128 * L)) = true → reach s (128 * L) = true → stackOf (128 * L) ≠ die →
      ∃ t c, exec (.coherenceRequest die line 1 owner data) s = .next t ∧ (getDir t L).held = 2 ^ die.val ∧ (getDir t L).owned = true ∧
        findLine t die L = some c ∧ c.st = .exclusive ∧
        (∀ h, h < 4 → h ≠ die.val → (getDir s L).held.testBit h = true → findLine t h L = none)) ∧
    (issues s (stackOf (128 * L)) = true → reach s (128 * L) = true →
      ∃ t, exec (.coherenceRequest die line 2 owner data) s = .next t ∧ (∀ i, i < 128 → getMem t (128 * L + i) = ((padTo 128 data)[i]?).getD 0) ∧
        (∀ a, a / 128 ≠ L → getMem t a = getMem s a) ∧ (∀ i, i < 4 → poisoned t (4 * L + i) = false) ∧ (getDir t L).held = 0) ∧
    (∀ c, issues s (stackOf (128 * L)) = true → reach s (128 * L) = true → findLine s die L = some c →
      ∃ t, exec (.coherenceRequest die line 3 owner data) s = .next t ∧ findLine t die L = none ∧
        (getDir t L).held = setBitTo (getDir s L).held die false ∧
        (c.st = .modified → ∀ i, i < 128 → c.bad.testBit (i / 32) = false → getMem t (128 * L + i) = ((padTo 128 c.data)[i]?).getD 0) ∧
        (∀ i, i < 128 → c.bad.testBit (i / 32) = true → getMem t (128 * L + i) = getMem s (128 * L + i)) ∧
        (c.st ≠ .modified → t.mem.hbm = s.mem.hbm)) ∧
    (∀ h c, issues s (stackOf (128 * L)) = true → reach s (128 * L) = true → h < 4 → (getDir s L).held = 2 ^ h → findLine s h L = some c →
      c.st = .modified →
      ∃ t, exec (.coherenceRequest die line 4 owner data) s = .next t ∧
        (∀ i, i < 128 → c.bad.testBit (i / 32) = false → getMem t (128 * L + i) = ((padTo 128 c.data)[i]?).getD 0) ∧
        (∃ c', findLine t h L = some c' ∧ c'.st = .shared) ∧ (getDir t L).owned = false ∧ (getDir t L).held = (getDir s L).held) ∧
    (∀ c, findLine s die L = some c →
      ∃ t, exec (.invalidationReceived die line) s = .next t ∧ findLine t die L = none ∧ (getDir t L).held.testBit die = false ∧
        (c.st = .modified → ∀ i, i < 128 → c.bad.testBit (i / 32) = false → getMem t (128 * L + i) = ((padTo 128 c.data)[i]?).getD 0) ∧
        (∀ f ∈ t.mem.fills, f.1 = die.val → f.2.1 = L → f.2.2 = true) ∧ t.msgs = s.msgs)

/-- KV_ROW_ACK, PLOT_BUFFER_UNCORR, RESIDENT_FILL_DONE, BAR2_READ and BAR2_WRITE: the oldest message's staged row, packed from the drained
tokens of a tile, reaches its place, and no other row does; a bad buffer word is counted and refilled, and the host reads and writes the window
(R120, R122, R246, R260, R262, R263, R264).
Where the manual leaves a point open it follows the model's own choice: log 57, 108, 116. -/
def Obligations.RowsBuffersAndWindow : Prop :=
  (∀ (s : State) (m : Msg) (l : Nat) (tn : Fin 2) (n : Nat) (tile : Fin 1024) (full : Bool) (v : Stream) (a per : Nat) (toks rest : List (Nat × Token)),
    findMsg s m.mid = some m → getStream s m.stream = v → v.kvBase % 64 = 0 → a = kvAddr v l tn ((v.kvHead + n) % max 1 v.pcap) →
    per = (if decide (v.kvFmt = 0) && full then 128 else 64) →
    (v.kvL ≤ l ∨ v.newPos ≤ n ∨ (2 * l + tn) * v.newPos + n ∉ m.rowsOut ∨ isOldest s m = false →
      exec (.kvRowAck m.mid l tn n tile full) s = .next s) ∧
    (l < v.kvL → n < v.newPos → (2 * l + tn) * v.newPos + n ∈ m.rowsOut → isOldest s m = true →
      takeSome (drainedFor s m.mid tile) (ceilDiv (v.kvH * v.kvE) per) s.fab.drain = some (toks, rest) →
      (reach s a = true →
        ∃ t, exec (.kvRowAck m.mid l tn n tile full) s = .next t ∧
          findMsg t m.mid = some { m with rowsOut := m.rowsOut.erase ((2 * l + tn) * v.newPos + n) } ∧
          (∀ i, i < kvRow v → getMem t (a + i) = ((packRow v (toks.flatMap (fun x => rowLanes v.kvFmt full x.2)))[i]?).getD 0)) ∧
      (reach s a = false →
        ∃ t u, exec (.kvRowAck m.mid l tn n tile full) s = .next t ∧ t = poisonRead 1 m.mid u ∧
          Counted (2328 + 10 * stackOf a + 9) 1 s u ∧ t.mem = s.mem ∧ u.msgs = s.msgs))) ∧
  (∀ (s : State) (p : Fin 64) (off : Fin 1048576) (reader : Fin 2) (g : Group), groupOfPlot s p = some g →
    ∃ u, exec (.plotBufferUncorr p off reader) s =
        .next (bbSettle (plotError p (if reader = 0 then markPass stInternal g.gid u else u))) ∧
      Counted (960 + 15 * p + 14) 1 s u ∧ off.val / 8 ∈ (getPlot u p).bufBad ∧
      (∀ g', findGroup u g.gid = some g' → off.val < resBytes s g → (getBank s g.slot g.bank).pin = true → p.val ∈ g'.unfilled) ∧
      u.msgs = s.msgs) ∧
  (∀ (s : State) (p : Fin 64) (g : Group), groupOfPlot s p = some g → p.val ∈ g.unfilled →
    (∀ h ∈ bundleHalves g.slot g.bank (residentAt s g p) (resBytes s g), poisoned s h = false) →
    ∃ t, exec (.residentFillDone p []) s = .next t ∧
      (∀ i, i < resBytes s g → tget 0 i (getPlot t p).buf = bundleByte s g.slot g.bank (residentAt s g p + i)) ∧
      (∀ w ∈ (getPlot t p).bufBad, resBytes s g ≤ 8 * w) ∧ (∀ g', findGroup t g.gid = some g' → p.val ∉ g'.unfilled)) ∧
  (∀ (s : State) (x : Fin 67108864) (n : Fin 1024) (D : Nat), barUp s = true → D = bar2Dpa s (4 * x) → hbmHeld s ≠ some (stackOf D) →
    ((getReg s 0x300C).testBit 0 = false →
      ∃ t, exec (.bar2Read x n []) s = .next t ∧ t.answer = some { data := List.replicate (4 * n) 255#8, poisoned := false }) ∧
    ((getReg s 0x300C).testBit 0 = true → firstDead s D (4 * n) = none → (∀ l ∈ linesOf D (4 * n), (getDir s l).held = 0) →
      ((∀ h ∈ halvesOf D (4 * n), poisoned s h = false) →
        ∃ t, exec (.bar2Read x n []) s = .next t ∧ t.answer = some { data := memBytes s D (4 * n), poisoned := false }) ∧
      (∀ h ∈ halvesOf D (4 * n), poisoned s h = true →
        ∃ t, exec (.bar2Read x n []) s = .next t ∧ t.answer = some { data := List.replicate (4 * n) 255#8, poisoned := true })) ∧
    (∀ h, (getReg s 0x300C).testBit 0 = true → firstDead s D (4 * n) = some h →
      ∃ t, exec (.bar2Read x n []) s = .next t ∧ Counted (2328 + 10 * stackOf h + 9) 1 s t ∧ t.mem = s.mem ∧
        t.answer = some { data := List.replicate (4 * n) 255#8, poisoned := false })) ∧
  (∀ (s : State) (x : Fin 268435456) (bytes : List Byte) (D : Nat), barUp s = true → D = bar2Dpa s x → hbmHeld s ≠ some (stackOf D) →
    ((getReg s 0x300C).testBit 0 = false → ∃ t, exec (.bar2Write x bytes) s = .next t ∧ t = s) ∧
    ((getReg s 0x300C).testBit 0 = true → firstDead s D bytes.length = none → (∀ h ∈ halvesOf D bytes.length, poisoned s h = false) →
      ∃ t, exec (.bar2Write x bytes) s = .next t ∧ (∀ i, i < bytes.length → getMem t (D + i) = (bytes[i]?).getD 0) ∧
        (∀ a, (∀ l ∈ linesOf D bytes.length, a / 128 ≠ l) → getMem t a = getMem s a) ∧
        (∀ l ∈ linesOf D bytes.length, (getDir t l).held = 0)) ∧
    (∀ h, (getReg s 0x300C).testBit 0 = true → firstDead s D bytes.length = some h →
      ∃ t, exec (.bar2Write x bytes) s = .next t ∧ Counted (2328 + 10 * stackOf h + 9) 1 s t ∧ t.mem = s.mem))

/-! ### Die links (R266 to R288) -/

/-- FLIT_RECEIVE, NAK_RENEW, ACK_TIMEOUT, PERSIST_WINDOW, DLK_RETRAIN, RETRAIN_DONE and LOOPBACK_SET: a flit arrives in its order and waits
for its ACK, a damaged one opens an episode, the transmitter replays, and a link retrains to the quads that pass, goes Down with its
die, or loops back (R270 to R287).
Where the manual leaves a point open it follows the model's own choice: log 75, 76, 77, 78, 106, 110. -/
def Obligations.DieLinks : Prop :=
  (∀ (s : State) (l : Fin 10) (d : Fin 2) (c : Fin 8) (op : Byte) (body : List Byte) (x back : LinkDir),
    (getLink s l).st = 2 → x = (getLink s l).dir d → back = (getLink s l).dir (1 - d) → x.queue = [] → x.resend = [] →
    x.replay.length < 64 → x.nextSeq < 256 → x.expect = x.nextSeq → hasCredits s x c = true → back.crdTurn < 8 →
    tget 0 back.crdTurn back.freed < 256 → back.renew = false → x.episode = false →
    ∃ t f, exec (.flitReceive l d [(c, op, body)] [] []) s = .next t ∧ f = { seqNo := x.nextSeq, cls := c, op := op.toNat, body := padTo 128 body } ∧
      ((getLink t l).dir d).buf = x.buf ++ [f] ∧ ((getLink t l).dir d).replay = x.replay ++ [f] ∧
      ((getLink t l).dir d).nextSeq = (x.nextSeq + 1) % 256 ∧ ((getLink t l).dir d).expect = (x.nextSeq + 1) % 256 ∧
      tget 0 c ((getLink t l).dir d).sent = (tget 0 c x.sent + 1) % 256 ∧ Counted (2048 + 28 * l + 20 + c) 1 s t) ∧
  (∀ (s : State) (l : Fin 10) (d : Fin 2) (err : List (BitVec 272)) (x back : LinkDir) (w : Nat),
    (getLink s l).st = 2 → x = (getLink s l).dir d → back = (getLink s l).dir (1 - d) → x.queue = [] → x.resend = [] → x.episode = false →
    w = controlWord none x.nextSeq back (List.replicate 128 0#8) ^^^ errCtl err →
    flitCrc w (xorBytes (List.replicate 128 0#8) (errBody err)) ≠ w % 65536 →
    ∃ t, exec (.flitReceive l d [] [] err) s = .next t ∧ ((getLink t l).dir d).episode = true ∧ ((getLink t l).dir d).badRun = x.badRun + 1 ∧
      ((getLink t l).dir d).expect = x.expect ∧ ((getLink t l).dir d).buf = x.buf ∧ Counted (2048 + 28 * l + 9 * d) 1 s t ∧
      Counted (2048 + 28 * l + 9 * d + 3) 1 s t) ∧
  (∀ (s : State) (l : Fin 10) (d : Fin 2), (getLink s l).st = 2 → ((getLink s l).dir d).episode = true →
    ∃ t, exec (.nakRenew l d) s = .next t ∧ (getLink t l).dir d = { (getLink s l).dir d with renew := true } ∧ t.cnt = s.cnt) ∧
  (∀ (s : State) (l : Fin 10) (d : Fin 2) (x : LinkDir), (getLink s l).st = 2 → (getLink s l).dir d = x → x.replay ≠ [] →
    (x.tries < 8 → (getLink s l).train = none →
      ∃ t, exec (.ackTimeout l d) s = .next t ∧ (getLink t l).dir d = { x with resend := x.replay, tries := x.tries + 1 } ∧
      Counted (2048 + 28 * l + 9 * d + 1) 1 s t ∧ Counted (2048 + 28 * l + 9 * d + 2) 1 s t) ∧
    (8 ≤ x.tries → (getLink s l).train = none → ∃ t τ, exec (.ackTimeout l d) s = .next t ∧ (getLink t l).st = 1 ∧
      (getLink t l).train = some τ ∧ τ.cause = 1 ∧ τ.full = false)) ∧
  (∀ (s : State),
    ∃ t, exec .persistWindow s = .next t ∧ ∀ l, l < 10 → ∀ d, d < 2 → (getLink t l).dir d = { (getLink s l).dir d with qerr := [] }) ∧
  (∀ (s : State) (l : Fin 10) (full : Bool), barUp s = true →
    ((getLink s l).st = 2 → (getLink s l).train = none →
      ∃ t τ, exec (.dlkRetrain l full) s = .next t ∧ (getLink t l).st = 1 ∧ (getLink t l).train = some τ ∧ τ.cause = 3 ∧ τ.full = full ∧
        (∀ k, k ≠ l.val → getLink t k = getLink s k)) ∧
    (∀ τ, (getLink s l).train = some τ →
      ∃ t, exec (.dlkRetrain l full) s = .next t ∧
        (getLink t l).train = some { τ with again := some (full || τ.again.getD false) } ∧ (getLink t l).st = (getLink s l).st)) ∧
  (∀ (s : State) (l : Fin 10) (goodA goodB : Fin 16) (pause : Nat) (τ : Train) (gA gB : Nat), (getLink s l).train = some τ → τ.cause ≠ 2 →
    gA = (if τ.full then goodA.val else goodA.val &&& (15 - (getLink s l).ab.dropped)) →
    gB = (if τ.full then goodB.val else goodB.val &&& (15 - (getLink s l).ba.dropped)) →
    (gA ≠ 0 → gB ≠ 0 → τ.again = none →
      ∃ t, exec (.retrainDone l goodA goodB pause) s = .next t ∧ (getLink t l).st = 2 ∧ (getLink t l).train = none ∧
        (getLink t l).ab.used = useQuads gA ∧ (getLink t l).ba.used = useQuads gB ∧ (getLink t l).ab.good = gA ∧ (getLink t l).ba.good = gB ∧
        ((getLink s l).flushDue = false → (getLink t l).ab.resend = (getLink s l).ab.replay ∧ (getLink t l).ba.resend = (getLink s l).ba.replay) ∧
        Counted (2048 + 28 * l + 18) 1 s t ∧ Counted (2048 + 28 * l + 19) pause s t) ∧
    (gA = 0 ∨ gB = 0 →
      ∃ u, exec (.retrainDone l goodA goodB pause) s = .next (bbSettle (declareDie (linkEnds l).2 2 u)) ∧ (getLink u l).st = 3 ∧
        (getLink u l).train = none ∧ (getLink u l).ab.queue = [] ∧ (getLink u l).ba.queue = [] ∧ u.glb = s.glb)) ∧
  (∀ (s : State) (l : Fin 10) (v : BitVec 32) (errs : List (Fin 1088 × List Bool)) (lock : Fin 16) (w : Nat), barUp s = true → w = v.toNat % 512 →
    (s.glb.run = false → w % 4 = 1 ∨ w % 4 = 2 → (getLink s l).st ≠ 3 →
      ∃ t, exec (.loopbackSet l v errs lock) s = .next t ∧ (getLink t l).st = 4 ∧ getReg t (0x2C48 + 0x40 * l) = w ∧
        (getLink t l).lbLock = lock ∧
        (∀ (i : Fin 1088) (bits : List Bool), errs = [(i, bits)] → w.testBit (4 + i / 272) = true → tget 0 i (getLink t l).lbErr =
          min 65535 ((bits.zip (lbPattern (w / 4 % 4) (getReg s (0x2C4C + 0x40 * l)) i bits.length)).filter (fun y => y.1 != y.2)).length)) ∧
    (s.glb.run = false → w % 4 = 0 → (getLink s l).st = 4 →
      ∃ t τ, exec (.loopbackSet l v errs lock) s = .next t ∧ (getLink t l).st = 1 ∧ (getLink t l).train = some τ ∧ τ.cause = 3 ∧ τ.full = true) ∧
    (s.glb.run = true → getReg s (0x2C48 + 0x40 * l) ≠ w →
      ∃ t, exec (.loopbackSet l v errs lock) s = .next t ∧ getReg t 0x000C = 1 + (0x2C48 + 0x40 * l) ∧ t.links = s.links ∧
        getReg t (0x2C48 + 0x40 * l) = getReg s (0x2C48 + 0x40 * l)))

/-! ### The Yoke (R314 to R336) -/

/-- YOKE_EPOCH, GRANT_RECEIVED and GRANT_MISSING: an epoch adopts the ceilings and the settings that have arrived, the last of each, and completes
their YOKE_SET, reports the envelope and the measured power, moves L no faster than the slews, grants every good die its credit and reserve, sets
the ballast duties, refreshes the I/O die's copies, and ends a ramp at the floor; a die uses its grant and follows DEV_TIME, repeats the last
grant for two epochs, and then takes the safe grant (R296, R315 to R322, R330, R413).
Where the manual leaves a point open it follows the model's own choice: log 70, 71, 74, 92, 122. -/
def Obligations.YokeEpochs : Prop :=
  (∀ (s : State) (imon : List Nat) (duty : List (Fin 256)), yokeUp s = true →
    ∃ t, exec (.yokeEpoch imon duty) s = .next t ∧ t.yoke.imon = imon ∧ t.yoke.ceils = [] ∧ t.yoke.sets = [] ∧ t.yoke.board = [] ∧
      t.yoke.caps = thermalWord s ∧
      t.yoke.hot = (List.range 4).map (fun d => maxOf ((List.range 16).map (fun p => (getPlot s (16 * d + p)).sensor))) ∧
      (yokState s = 0 → yokState t = 0 ∧ t.yoke.level = s.yoke.level) ∧
      (yokState s ≠ 0 → t.yoke.level ≤ s.yoke.level + slewUp t ∧ s.yoke.level ≤ t.yoke.level + slewDn t ∧
        getReg t 0x2884 = t.yoke.pstd / 250 % 2 ^ 32 ∧ getReg t 0x2888 = t.yoke.level / 250 % 2 ^ 32 ∧
        getReg t 0x288C = (match measured t imon with | some m => m / 250 | none => t.yoke.level / 250) % 2 ^ 32 ∧
        getReg t 0x2890 = ceilEff t / 250 % 2 ^ 32 ∧ getReg t 0x2894 = floorEff t / 250 % 2 ^ 32 ∧
        getReg t 0x2898 = reserveEff t / 250 % 2 ^ 32 ∧
        (∀ p : Fin 64, (getPlot t p).duty = if mayBallast t p then ((duty.map Fin.val)[p.val]?).getD 0 else 0)) ∧
      (∀ v, ((s.yoke.ceils.filter (fun c => c.1 = 0)).getLast?).map Prod.snd = some v → v < 2 ^ 32 → getReg t 0x2800 = v) ∧
      (∀ v, ((s.yoke.ceils.filter (fun c => c.1 = 1)).getLast?).map Prod.snd = some v → v < 2 ^ 32 → getReg t 0x289C = v) ∧
      (∀ v, ((s.yoke.ceils.filter (fun c => c.1 = 2)).getLast?).map Prod.snd = some v → v < 2 ^ 32 → getReg t 0x28A0 = v)) ∧
  (∀ (s : State) (imon : List Nat) (duty : List (Fin 256)) (q : Fin 16) (pos v : Nat) (d : Desc), yokeUp s = true →
    s.yoke.sets = [(q.val, pos)] → findDesc s q pos = some d → v = leAt d.bytes 18 2 →
    ∃ t, exec (.yokeEpoch imon duty) s = .next t ∧ Completed q pos 0 0 0 0 t ∧
      (getReg t 0x2804 = if v.testBit 1 then leAt d.bytes 22 2 % 2 ^ 11 else getReg s 0x2804) ∧
      (getReg t 0x2808 = if v.testBit 2 then leAt d.bytes 24 2 % 2 ^ 11 else getReg s 0x2808) ∧
      (getReg t 0x280C = if v.testBit 3 then leAt d.bytes 26 2 % 2 ^ 10 else getReg s 0x280C) ∧
      (getReg t 0x2810 = if v.testBit 4 then leAt d.bytes 28 2 % 2 ^ 10 else getReg s 0x2810) ∧
      (getReg t 0x2814 = if v.testBit 5 then leAt d.bytes 30 1 % 2 ^ 8 else getReg s 0x2814)) ∧
  (∀ (s : State) (imon : List Nat) (duty : List (Fin 256)) (n : Nat), yokeUp s = true → yokState s ≠ 0 → n = max 1 (goodDies s).length →
    ∃ t, exec (.yokeEpoch imon duty) s = .next t ∧
      (∀ (i d : Nat), (goodDies s)[i]? = some d → ∃ g, (getYd t d).sent = some g ∧ g.reserve = 10 * reserveEff t / n ∧
        g.credit = ((divideCredit (10 * (t.yoke.level - t.yoke.pstd - reserveEff t)) (10 * ((ceilEff t - t.yoke.pstd) / n))
          ((goodDies s).map (fun d => 10 * (getYd s d).demand)))[i]?).getD 0 ∧
        t.yoke.pstd / n + g.credit / 10 + reserveEff t / n ≤ g.level)) ∧
  (∀ (s : State) (imon : List Nat) (duty : List (Fin 256)), yokeUp s = true → yokState s = 3 → s.yoke.sets = [] → s.yoke.ceils = [] →
    s.yoke.board = [] → s.plots.any (fun p => p.2.overtemp) = false →
    ∃ t, exec (.yokeEpoch imon duty) s = .next t ∧
      (s.yoke.level < floorEff s → t.yoke.level = min (floorEff s) (s.yoke.level + slewUp s)) ∧
      (floorEff s ≤ s.yoke.level → t.yoke.level = max (floorEff s) (s.yoke.level - slewDn s)) ∧
      (t.yoke.level = floorEff s → yokState t = 4) ∧ (t.yoke.level ≠ floorEff s → yokState t = 3)) ∧
  (∀ (s : State) (d : Fin 4) (g : Grant), (getYd s d).sent = some g → s.glb.dieFatal.testBit d = false →
    ∃ t u, exec (.grantReceived d) s = .next t ∧ t = (if sowerUp u then readySheaves u else u) ∧ (getYd u d).credit = g.credit ∧
      (getYd u d).reserve = g.reserve ∧ (getYd u d).level = g.level ∧ (getYd u d).last = g ∧ (getYd u d).sent = none ∧
      (getYd u d).silent = 0 ∧ (getYd u d).safe = false ∧ (getYd u d).report = none ∧ (∀ e, e ≠ d.val → getYd u e = getYd s e) ∧
      ((tget Mirror.init d s.clk.mirror).time + 4 < devTime s → (tget Mirror.init d u.clk.mirror).time = devTime s) ∧
      (devTime s ≤ (tget Mirror.init d s.clk.mirror).time + 4 →
        (tget Mirror.init d u.clk.mirror).time = (tget Mirror.init d s.clk.mirror).time ∧
        (tget Mirror.init d u.clk.mirror).slew = (devTime s : Int) - (tget Mirror.init d s.clk.mirror).time) ∧
      (tget Mirror.init d u.clk.mirror).trim = s.clk.trim) ∧
  (∀ (s : State) (d : Fin 4), d.val ∈ goodDies s → yokState s ≠ 0 →
    ((getYd s d).silent < 2 →
      ∃ t u, exec (.grantMissing d) s = .next t ∧ t = (if sowerUp u then readySheaves u else u) ∧
        (getYd u d).credit = (getYd s d).last.credit ∧ (getYd u d).reserve = (getYd s d).last.reserve ∧
        (getYd u d).level = (getYd s d).last.level ∧ (getYd u d).silent = (getYd s d).silent + 1 ∧ (getYd u d).safe = (getYd s d).safe ∧
        (∀ e, e ≠ d.val → getYd u e = getYd s e)) ∧
    (2 ≤ (getYd s d).silent →
      ∃ t u, exec (.grantMissing d) s = .next t ∧ t = (if sowerUp u then readySheaves u else u) ∧ (getYd u d).safe = true ∧
        (getYd u d).reserve = 0 ∧ (getYd u d).credit = 10 * ((ceilEff s - s.yoke.pstd) / max 1 (goodDies s).length) / 4 ∧
        (getYd u d).sent = none ∧ (getYd u d).report = some ((getYd s d).silent + 1) ∧ (∀ e, e ≠ d.val → getYd u e = getYd s e) ∧
        ((getYd s d).silent = 2 → Counted 98 1 s u)))

/-- CPM_MARGIN_LOSS, CPM_RETRY, LDO_TARGET_REACHED, THERMAL_CAP_CHANGE and CALIBRATION_REFIT: the points of plots that run (R323 to R326), which a
gated plot does not move, and the check of the energy tables against the measured power (R328).
Where the manual leaves a point open it follows the model's own choice: log 73, 74. -/
def Obligations.YokePlots : Prop :=
  (∀ (s : State) (p : Fin 64) (mv : Nat), plotsOn s = false →
    exec (.cpmMarginLoss p) s = .next s ∧ exec (.ldoTargetReached p mv) s = .next s) ∧
  (∀ (s : State) (p : Fin 64), plotsOn s = true →
    ((getPlot s p).mv + 5 ≤ windowTop (getTdiv s p) →
      ∃ t, exec (.cpmMarginLoss p) s = .next t ∧ (getPlot t p).mv = (getPlot s p).mv + 5 ∧ t.clk = s.clk ∧ t.cnt = s.cnt) ∧
    (windowTop (getTdiv s p) < (getPlot s p).mv + 5 → getTdiv s p < 3 →
      ∃ t, exec (.cpmMarginLoss p) s = .next t ∧ (getPlot t p).cpmSlow = getTdiv s p + 1 ∧ tget 0 p t.clk.tdivReq = getTdiv s p + 2 ∧
        Counted 100 1 s t ∧ getTdiv t p = getTdiv s p)) ∧
  (∀ (s : State) (p : Fin 64) (c : Nat), (getPlot s p).cpmSlow ≠ 0 → c = min 3 (max (regF s 0x0414 0 2) (capCode s (getPlot s p).cap)) →
    ∃ t, exec (.cpmRetry p) s = .next t ∧ (getPlot t p).cpmSlow = 0 ∧
      (plotsOn s = true → c < getTdiv s p → (getPlot s p).want ≠ c → (getPlot t p).want = c ∧ (getPlot t p).ldoOk = false ∧ t.clk = s.clk) ∧
      (plotsOn s = true → getTdiv s p < c → tget 0 p t.clk.tdivReq = c + 1 ∧ (getPlot t p).want = c) ∧
      (plotsOn s = false → (getPlot t p).want = (getPlot s p).want ∧ t.clk = s.clk)) ∧
  (∀ (s : State) (p : Fin 64) (mv : Nat), plotsOn s = true → (getPlot s p).ldoOk = false → (getPlot s p).want < getTdiv s p →
    ∃ t, exec (.ldoTargetReached p mv) s = .next t ∧ (getPlot t p).ldoOk = true ∧ tget 0 p t.clk.tdivReq = (getPlot s p).want + 1 ∧
      windowBottom (getPlot s p).want ≤ (getPlot t p).mv ∧ (getPlot t p).mv ≤ windowTop (getPlot s p).want) ∧
  (∀ (s : State) (p : Fin 64) (sensor : Fin 1024),
    ∃ t, exec (.thermalCapChange p sensor) s = .next t ∧ (getPlot t p).sensor = sensor ∧
      (400 ≤ sensor.val → (getPlot t p).cap = 2) ∧ (380 ≤ sensor.val → sensor.val ≤ 388 → (getPlot t p).cap = 1) ∧
      (388 < sensor.val → sensor.val < 400 → (getPlot t p).cap = (if (getPlot s p).cap = 2 then 2 else 1)) ∧
      (368 < sensor.val → sensor.val < 380 → (getPlot t p).cap = (if (getPlot s p).cap = 0 then 0 else 1)) ∧
      (sensor.val ≤ 368 → (getPlot t p).cap = 0) ∧ (420 ≤ sensor.val → (getPlot t p).overtemp = true) ∧
      (sensor.val < 408 → (getPlot t p).overtemp = false) ∧ (380 ≤ sensor.val → (getPlot t p).duty = 0) ∧
      (∀ q, q ≠ p.val → getPlot t q = getPlot s q)) ∧
  (∀ (s : State) (est codes : List Nat) (d scale im e : Nat), yokeUp s = true → d ∈ goodDies s → scale = regF s (0x2830 + 4 * d) 0 16 →
    scale ≠ 0 → im = scale * (codes[d]?).getD 0 → e = (est[d]?).getD 0 →
    (regF s 0x2828 0 8 * im < 100 * (max e im - min e im) →
      ∃ t, exec (.calibrationRefit est codes) s = .next t ∧ (getYd t d).divMs = (getYd s d).divMs + 1 ∧ (getYd t d).okMs = 0 ∧
        (getYd t d).diverged = ((getYd s d).diverged || decide (10 ≤ (getYd s d).divMs + 1))) ∧
    (100 * (max e im - min e im) ≤ regF s 0x2828 0 8 * im →
      ∃ t, exec (.calibrationRefit est codes) s = .next t ∧ (getYd t d).okMs = (getYd s d).okMs + 1 ∧ (getYd t d).divMs = 0 ∧
        (getYd t d).diverged = ((getYd s d).diverged && decide ((getYd s d).okMs + 1 < 10))))

/-- HOLDOFF_EXPIRY, SCHED_SLOT_TIME, YOK_SCHED_TIMEOUT, YOKE_SET_SET, YOKE_SET_DRAIN, YOKE_SET_RESUME and TELEMETRY_TICK: the Yoke's states as its
timers, when they have run out, its schedule and its descriptors move them (R330 to R335), and the telemetry record (R357).
Where the manual leaves a point open it follows the model's own choice: log 10, 72. -/
def Obligations.YokeStates : Prop :=
  (∀ s : State, yokState s = 2 ∨ (yokState s = 6 ∧ s.yoke.holding = true) → s.yoke.holdSched = false →
    (s.yoke.holdT0 + 1000000 * getReg s 0x28A4 ≤ s.clk.now →
      ∃ t, exec .holdoffExpiry s = .next t ∧ yokState t = 3 ∧ t.yoke.holding = false ∧ t.yoke.startAt = none ∧
        (s.glb.phase = .holdoff → t.glb.phase = .ramp)) ∧
    (s.clk.now < s.yoke.holdT0 + 1000000 * getReg s 0x28A4 → exec .holdoffExpiry s = .next s)) ∧
  (∀ (s : State) (x : Nat), x ≤ devTime s →
    (s.yoke.startAt = some x → s.yoke.drainAt = none → yokState s = 2 ∨ yokState s = 6 →
      ∃ t, exec .schedSlotTime s = .next t ∧ yokState t = 3 ∧ t.yoke.startAt = none) ∧
    (s.yoke.drainAt = some x → s.yoke.startAt = none → yokState s = 3 ∨ yokState s = 4 →
      ∃ t, exec .schedSlotTime s = .next t ∧ yokState t = 5 ∧ t.yoke.drainAt = none) ∧
    (∀ v, s.yoke.ceilAt = some (x, v) → s.yoke.startAt = none → s.yoke.drainAt = none →
      ∃ t, exec .schedSlotTime s = .next t ∧ t.yoke.ceilAt = none ∧ t.yoke.ceils = s.yoke.ceils ++ [(2, v)] ∧ yokState t = yokState s)) ∧
  (∀ s : State, yokState s = 2 ∨ (yokState s = 6 ∧ s.yoke.holding = true) → s.yoke.holdSched = true → s.yoke.startAt = none →
    regF s 0x2824 0 8 ≠ 0 → s.yoke.holdT0 + 1000000000 * regF s 0x2824 0 8 ≤ s.clk.now →
    ∃ t, exec .yokSchedTimeout s = .next t ∧ t.yoke.holdSched = false ∧ t.yoke.holdT0 = s.clk.now ∧ yokState t = yokState s ∧
      getReg t 0x28A4 = hashHoldoff s % 2 ^ 32) ∧
  (∀ (s : State) (q : Fin 16) (pos : Nat) (b : List Byte), runnable s q pos 0x31 (yokeOp 0) = some b → byteAt b 16 = 0 →
    (q.val, pos) ∉ s.yoke.sets →
    ∃ t, exec (.yokeSetSet q pos) s = .next t ∧ Executes q pos t ∧ t.yoke.sets = s.yoke.sets ++ [(q.val, pos)] ∧
      t.yoke.ceils = s.yoke.ceils ++ (if (byteAt b 18).testBit 0 then [(0, leAt b 20 2 % 2048)] else []) ∧ t.regs = s.regs) ∧
  (∀ (s : State) (q : Fin 16) (pos : Nat) (b : List Byte), runnable s q pos 0x31 (yokeOp 0) = some b → 2 < byteAt b 16 →
    ∃ t, exec (.yokeSetSet q pos) s = .next t ∧ Completed q pos 0x41 0 0 0 t ∧ t.yoke = s.yoke) ∧
  (∀ (s : State) (q : Fin 16) (pos : Nat) (b : List Byte), runnable s q pos 0x31 (yokeOp 1) = some b → byteAt b 16 = 1 →
    ∃ t, exec (.yokeSetDrain q pos) s = .next t ∧ Completed q pos 0 0 0 0 t ∧ (yokState s = 3 ∨ yokState s = 4 → yokState t = 5) ∧
      (yokState s = 1 ∨ yokState s = 2 → yokState t = 6 ∧ t.alert.latched.testBit 2 = true) ∧
      (yokState s = 0 ∨ yokState s = 7 → t.yoke.drainReq = true ∧ yokState t = yokState s) ∧
      (yokState s = 5 ∨ yokState s = 6 → yokState t = yokState s)) ∧
  (∀ (s : State) (q : Fin 16) (pos : Nat) (b : List Byte), runnable s q pos 0x31 (yokeOp 2) = some b → byteAt b 16 = 2 →
    ∃ t, exec (.yokeSetResume q pos) s = .next t ∧ Completed q pos 0 0 0 0 t ∧ (yokState s = 5 → yokState t = 3) ∧
      (yokState s = 6 → s.yoke.holding = false → s.yoke.startAt = none → s.glb.run = true → (byteAt b 17).testBit 0 = true → yokState t = 3) ∧
      (yokState s = 6 → s.yoke.holding = false → s.yoke.startAt = none → s.glb.run = true → (byteAt b 17).testBit 0 = false →
        yokState t = 6 ∧ t.yoke.holding = true ∧ t.yoke.holdT0 = s.clk.now)) ∧
  (∀ (s : State) (hbm : List (BitVec 8)), regF s 0x0828 0 16 ≠ 0 → connected s = true → (getRing s 35).en = true →
    s.hif.teleT0 + 1000 * max 10 (regF s 0x0828 0 16) ≤ s.clk.now →
    ((getRing s 35).full = true → ∃ t, exec (.telemetryTick hbm) s = .next t ∧ Counted 74 1 s t ∧ t.hif.tele = s.hif.tele) ∧
    ((getRing s 35).full = false →
      ∃ t rec p, exec (.telemetryTick hbm) s = .next t ∧ t.hif.tele = [] ∧ (getRing t 35).prod = (getRing s 35).prod + 1 ∧ rec.length = 63 ∧
        HostWrite.mem ((getRing s 35).base + 64 * ((getRing s 35).prod % (getRing s 35).size)) (rec ++ [p]) ∈ t.hif.posted ∧
        leAt rec 0 8 = devTime s ∧ leAt rec 8 2 = s.yoke.level / 250 % 2 ^ 16 ∧ leAt rec 10 2 = getReg s 0x288C % 2 ^ 16 ∧
        leAt rec 20 1 = yokState s))

/-! ### The watch table (R222 to R226), the Harrow (R402 to R409) and lost plots (R393, R394) -/

/-- WATCH_SUMMARY, HARROW_PASS_START, HARROW_PASS_DONE, HRW_WATCHDOG, PLOT_LDO_FAULT, PLOT_SENSOR_CHECK and PLACEMENT_RETRY: what each
counts, votes, scrubs, retires or places.
Where the manual leaves a point open it follows the model's own choice: log 10, 80, 81, 117. -/
def Obligations.WatchHarrowAndPlots : Prop :=
  (∀ s : State, s.fab.summaries = [] → exec .watchSummary s = .next s) ∧
  (∀ (s : State) (x : Summary) (rest : List Summary) (i n c m : Nat) (e : List Byte), sowerUp s = true → s.fab.summaries = x :: rest →
    i = x.entry → n = x.sum.lanes → c = x.sum.clipped → m = x.sum.largest → e = padTo 32 (tblEntry s 0x30 i) →
    (activeBank s (i / 16) ≠ some x.bank →
      ∃ t, exec .watchSummary s = .next t ∧ Counted 50 1 s t ∧ t.tables = s.tables ∧ t.fab.summaries = rest) ∧
    (activeBank s (i / 16) = some x.bank → (leAt e 0 4).testBit 0 = false →
      ∃ t, exec .watchSummary s = .next t ∧ t.cnt = s.cnt ∧ t.tables = s.tables ∧ t.fab.summaries = rest) ∧
    (activeBank s (i / 16) = some x.bank → (leAt e 0 4).testBit 0 = true → bitsOf (leAt e 0 4) 2 4 ≤ 3 → tblIsBad s 0x30 i = false →
      ∃ t e', exec .watchSummary s = .next t ∧ Counted 48 1 s t ∧ e' = padTo 32 (tblEntry t 0x30 i) ∧ t.fab.summaries = rest ∧
        e'.take 8 = e.take 8 ∧
        ((leAt e 0 4).testBit 1 = false → leAt e 4 4 ≠ 0 → leAt e 4 4 ≤ min (2 ^ 32 - 1) (leAt e 12 4 + c) → (byteAt e 18).testBit 0 = false →
          Counted 51 1 s t) ∧
        (min (2 ^ 32 - 1) (leAt e 8 4 + n) < 2 ^ clampNat 10 30 (bitsOf (leAt e 0 4) 8 5) →
          leAt e' 8 4 = min (2 ^ 32 - 1) (leAt e 8 4 + n) ∧ leAt e' 12 4 = min (2 ^ 32 - 1) (leAt e 12 4 + c) ∧
          (m < 256 → byteAt e' 16 = max (byteAt e 16) m) ∧ leAt e' 20 12 = leAt e 20 12) ∧
        (2 ^ clampNat 10 30 (bitsOf (leAt e 0 4) 8 5) ≤ min (2 ^ 32 - 1) (leAt e 8 4 + n) →
          leAt e' 8 4 = 0 ∧ leAt e' 12 4 = 0 ∧ leAt e' 20 4 = min (2 ^ 32 - 1) (leAt e 8 4 + n) ∧
          leAt e' 24 4 = min (2 ^ 32 - 1) (leAt e 12 4 + c) ∧ leAt e' 28 4 = min (2 ^ 32 - 1) (leAt e 28 4 + 1)))) ∧
  (∀ (s : State) (h : Fin 5) (K : HrwCfg) (copy : Fin 3) (field : Fin 4) (mask : Nat), hrwUp s h = true → (getHrw s h).running = false →
    (getHrw s h).c0 = K → (getHrw s h).c1 = K → (getHrw s h).c2 = K → (getHrw s h).written = K →
    ∃ t, exec (.harrowPassStart h [(copy, field, mask)]) s = .next t ∧ (getHrw t h).c0 = K ∧ (getHrw t h).c1 = K ∧ (getHrw t h).c2 = K ∧
      (getHrw t h).running = decide (K.en ≠ 0) ∧ (flipCfg field mask K ≠ K → Counted (144 + 6 * h + 3) 1 s t)) ∧
  (∀ (s : State) (h : Fin 5) (upsets : List (Fin 3 × Fin 4 × Nat)), hrwUp s h = true → (getHrw s h).running = false → upsets = [] →
    (getHrw s h).cfg ≠ (getHrw s h).written →
    ∃ t, exec (.harrowPassStart h upsets) s = .next t ∧ (getHrw t h).c0 = HrwCfg.init ∧ (getHrw t h).written = HrwCfg.init ∧
      Counted (144 + 6 * h + 4) 1 s t) ∧
  (∀ (s : State) (h : Fin 5) (corrected : Nat) (found : List HrwWord), (getHrw s h).running = true → hrwUp s h = true →
    ∃ u, exec (.harrowPassDone h corrected found) s = .next (bbSettle (each found (hrwUncorr h) u)) ∧ (getHrw u h).running = false ∧
      (getHrw u h).unscrubbed = false ∧ Counted (144 + 6 * h) 1 s u ∧ (corrected ≠ 0 → Counted (144 + 6 * h + 1) corrected s u) ∧
      u.tables = s.tables) ∧
  (∀ (s : State) (h : Fin 5) (words : Nat), (getHrw s h).running = true → hrwUp s h = true →
    ((getHrw s h).t0 + 1000000 * (getHrw s h).cfg.passMax ≤ s.clk.now →
      ∃ t, exec (.hrwWatchdog h words) s = .next t ∧ (getHrw t h).running = false ∧ (getHrw t h).unscrubbed = true ∧
        Counted (144 + 6 * h + 5) 1 s t) ∧
    (s.clk.now < (getHrw s h).t0 + 1000000 * (getHrw s h).cfg.passMax → exec (.hrwWatchdog h words) s = .next s)) ∧
  (∀ (s : State) (p : Fin 64), agentsUp s p = true → (getPlot s p).st ≠ .retired → s.glb.dieFatal.testBit (p.val / 16) = false →
    (retiredPlots s).length < 4 → (getPlot s p).group = none →
    (plotsOn s = true → ∃ t, exec (.plotLdoFault p) s = .next t ∧ (getPlot t p).st = .retired ∧ (∀ k, k ≠ p.val → getPlot t k = getPlot s k)) ∧
    (∃ t, exec (.plotSensorCheck p false) s = .next t ∧ (getPlot t p).st = .retired ∧ (∀ k, k ≠ p.val → getPlot t k = getPlot s k))) ∧
  (∀ (s : State) (p : Fin 64) (g : Group), agentsUp s p = true → (getPlot s p).st ≠ .retired → s.glb.dieFatal.testBit (p.val / 16) = false →
    (retiredPlots s).length < 4 → groupOfPlot s p = some g →
    ∃ u now n, (plotsOn s = true →
        exec (.plotLdoFault p) s = .next (bbSettle (raiseOn (p / 16) 0x1005 p p now n (readySheaves (placeUnplaced u))))) ∧
      exec (.plotSensorCheck p false) s = .next (bbSettle (raiseOn (p / 16) 0x1005 p p now n (readySheaves (placeUnplaced u)))) ∧
      (getPlot u p).st = .retired ∧ (getPlot u p).group = none ∧ (∀ g', findGroup u g.gid = some g' → g'.plots = [])) ∧
  (∀ (s : State) (p : Fin 64), agentsUp s p = true → (getPlot s p).st ≠ .retired → s.glb.dieFatal.testBit (p.val / 16) = false →
    4 ≤ (retiredPlots s).length →
    ∃ t, exec (.plotSensorCheck p false) s = .next t ∧ t.glb.dieFatal.testBit (p.val / 16) = true) ∧
  (∀ (s : State) (p : Fin 64), ∃ t, exec (.plotSensorCheck p true) s = .next t ∧ t = s) ∧
  (∀ (s : State) (g : Group) (ps : List Nat), sowerUp s = true → s.groups.filter (fun g => g.plots.isEmpty) = [g] →
    findGroup s g.gid = some g → chooseTarget s (some g.gid) (groupShape s g.slot g.bank g.idx) [] = some ps →
    ∃ u, exec .placementRetry s = .next (bbSettle (readySheaves u)) ∧
      findGroup u g.gid = some { g with plots := ps, unfilled := (if (getBank s g.slot g.bank).pin then ps else []), reload := false, dwell := s.clk.now } ∧
      (∀ p ∈ ps, (getPlot u p).st = .active ∧ (getPlot u p).group = some g.gid) ∧ u.msgs = s.msgs)

/-! ### Model slots and installs (R360 to R376) -/

/-- INSTALL_BEGIN, INSTALL_CHUNK, INSTALL_COMMIT, INSTALL_CHECK_DONE and INSTALL_ABORT: a bank becomes LOADING, its bytes reach HBM, the check
decides, a READY bank is placed and becomes ACTIVE in one write, and an abort empties it (R368 to R371).
Where the manual leaves a point open it follows the model's own choice: log 58. -/
def Obligations.Installs : Prop :=
  (∀ (s : State) (q : Fin 16) (pos : Nat) (b : List Byte) (slot bank : Nat), runnable s q pos 0x01 (fun _ => true) = some b → slot = byteAt b 16 →
    bank = byteAt b 17 → slot < 16 → bank < 2 → leAt b 20 8 ≠ 0 → leAt b 20 8 ≤ 2 ^ 31 →
    ((getBank s slot bank).st = .empty ∨ ((getBank s slot bank).st = .ready ∧ boundCount s slot bank = 0) →
      (getBank s slot (1 - bank)).st ≠ .loading →
      ∃ t, exec (.installBegin q pos) s = .next t ∧ Completed q pos 0 0 0 0 t ∧
        getBank t slot bank = { Bank.init with st := .loading, pin := (byteAt b 18).testBit 0, total := leAt b 20 8 } ∧
        getBank t slot (1 - bank) = getBank s slot (1 - bank) ∧ (getSlot t slot).loaded = 0) ∧
    ((getBank s slot bank).st = .active ∨ ((getBank s slot bank).st = .ready ∧ 0 < boundCount s slot bank) →
      ∃ t, exec (.installBegin q pos) s = .next t ∧ Completed q pos 0x42 0 0 0 t ∧ t.slots = s.slots)) ∧
  (∀ (s : State) (q : Fin 16) (pos : Nat) (b d : List Byte) (slot bank off len : Nat), hbmUp s = true →
    runnable s q pos 0x02 (fun b => !descHeld s 0x02 b) = some b → slot = byteAt b 16 → slot < 16 → off = leAt b 20 8 → len = leAt b 28 4 →
    bankIn s slot .loading = some bank → (getSlot s slot).verifying = none → 64 ≤ len → len ≤ 2 ^ 24 → off % 64 = 0 → len % 64 = 0 →
    off < 2 ^ 31 → off / 2 ^ 29 = (off + len - 1) / 2 ^ 29 → s.glb.dieFatal.testBit (off / 2 ^ 29) = false → haddrOk b = true →
    (∃ t, exec (.installChunk q pos (some d)) s = .next t ∧ Completed q pos 0 0 0 0 t ∧
      (∀ i, i < len → getMem t (bundleDpa slot bank (off + i)) = ((padTo len d)[i]?).getD 0) ∧
      (getSlot t slot).loaded = min (2 ^ 32 - 1) ((getSlot s slot).loaded + len)) ∧
    (∃ t, exec (.installChunk q pos none) s = .next t ∧ Completed q pos 0x46 0 0 0 t ∧ t.mem = s.mem ∧ t.slots = s.slots)) ∧
  (∀ (s : State) (q : Fin 16) (pos : Nat) (b : List Byte) (slot bank : Nat), hbmUp s = true →
    runnable s q pos 0x03 (fun b => !descHeld s 0x03 b) = some b → slot = byteAt b 16 → slot < 16 →
    (bankIn s slot .loading = some bank → (getSlot s slot).verifying = none →
      ∃ t, exec (.installCommit q pos) s = .next t ∧ Executes q pos t ∧ (getSlot t slot).verifying = some (q.val, pos) ∧
        (getBank t slot bank).check = leAt b 20 4 ∧ (getBank t slot bank).st = .loading) ∧
    (bankIn s slot .loading = none → readyBank s slot = none →
      ∃ t, exec (.installCommit q pos) s = .next t ∧ Completed q pos 0x42 0 0 0 t ∧ t.slots = s.slots) ∧
    (∀ gs u, bankIn s slot .loading = none → readyBank s slot = some bank →
      placeAll slot bank (getBank s slot bank).ngroup 0 (startDesc q pos s) = .ok (gs, u) →
      ∃ w, exec (.installCommit q pos) s = .next (readySheaves w) ∧ Completed q pos 0 0 0 0 w ∧ (getBank w slot bank).st = .active ∧
        (getBank w slot bank).groups = gs ∧ (getSlot w slot).commitTime = devTime s % 2 ^ 32 ∧ Counted 56 1 s w ∧
        (∀ o, activeBank s slot = some o → (getBank w slot o).st ≠ .active ∧
          (0 < boundCount s slot o → (getBank w slot o).st = .ready ∧ (getBank w slot o).retiring = true)) ∧
        (∀ i, i / 16 = slot → ∀ k, 8 ≤ k → byteAt (tblEntry w 0x30 i) k = 0)) ∧
    (∀ i n, bankIn s slot .loading = none → readyBank s slot = some bank →
      placeAll slot bank (getBank s slot bank).ngroup 0 (startDesc q pos s) = .error (i, n) →
      ∃ t, exec (.installCommit q pos) s = .next t ∧ Completed q pos 0x42 0 0 0 t ∧ t.slots = s.slots ∧ t.groups = s.groups ∧
        t.plots = s.plots)) ∧
  (∀ (s : State) (slot : Fin 16) (q pos bank : Nat) (d : Desc) (errs : List (Nat × List Byte)) (r : State × List Byte),
    hbmUp s = true → (getSlot s slot).verifying = some (q, pos) → bankIn s slot .loading = some bank → findDesc s q pos = some d →
    r = readParts slot bank errs s →
    (crc32c r.2 ≠ (getBank s slot bank).check →
      ∃ t, exec (.installCheckDone slot errs) s = .next t ∧ Completed q pos 0x49 0 0 0 t ∧ (getSlot t slot).verifying = none ∧
        getBank t slot bank = getBank s slot bank) ∧
    (crc32c r.2 = (getBank s slot bank).check → headerOk r.1 slot bank (getBank s slot bank).total (getBank s slot bank).pin = false →
      ∃ t, exec (.installCheckDone slot errs) s = .next t ∧ Completed q pos 0x41 0 0 0 t ∧ (getSlot t slot).verifying = none) ∧
    (crc32c r.2 = (getBank s slot bank).check → headerOk r.1 slot bank (getBank s slot bank).total (getBank s slot bank).pin = true →
      namesFatal r.1 slot bank = true →
      ∃ t, exec (.installCheckDone slot errs) s = .next t ∧ Completed q pos 0x4A 0 0 0 t) ∧
    (crc32c r.2 = (getBank s slot bank).check → headerOk r.1 slot bank (getBank s slot bank).total (getBank s slot bank).pin = true →
      namesFatal r.1 slot bank = false →
      ∃ u, exec (.installCheckDone slot errs) s = .next (placeBank slot bank q pos u) ∧ (getBank u slot bank).st = .ready ∧
        (getSlot u slot).verifying = none ∧ (getBank u slot bank).ngroup = hdr r.1 slot bank 7 1 ∧
        (getBank u slot bank).npass = hdr r.1 slot bank 8 4 ∧ (getBank u slot bank).check = (getBank s slot bank).check)) ∧
  (∀ (s : State) (q : Fin 16) (pos : Nat) (b : List Byte) (slot bank : Nat), runnable s q pos 0x04 (fun _ => true) = some b →
    slot = byteAt b 16 → slot < 16 →
    (bankIn s slot .loading = some bank → (getSlot s slot).verifying = none →
      ∃ t, exec (.installAbort q pos) s = .next t ∧ Completed q pos 0 0 0 0 t ∧ getBank t slot bank = Bank.init) ∧
    (bankIn s slot .loading = none → readyBank s slot = some bank →
      ∃ t, exec (.installAbort q pos) s = .next t ∧ Completed q pos 0 0 0 0 t ∧ getBank t slot bank = Bank.init) ∧
    (bankIn s slot .loading = none → readyBank s slot = none → activeBank s slot = some bank → streamsOn s slot = 0 →
      ∃ t, exec (.installAbort q pos) s = .next t ∧ Completed q pos 0 0 0 0 t ∧
        (boundCount s slot bank = 0 → getBank t slot bank = Bank.init) ∧
        (0 < boundCount s slot bank → (getBank t slot bank).st = .ready ∧ (getBank t slot bank).retiring = true)) ∧
    (bankIn s slot .loading = none → readyBank s slot = none → activeBank s slot = some bank → streamsOn s slot ≠ 0 →
      ∃ t, exec (.installAbort q pos) s = .next t ∧ Completed q pos 0x42 0 0 0 t ∧ t.slots = s.slots))

/-! ### Descriptors of the host (R349 to R353, Table HIF-6) -/

/-- NOP_DESCRIPTOR, BAD_OPCODE, FENCE, TABLE_WRITE, INJECT, MEM_READ, MEM_WRITE, STATS_SNAPSHOT, REPLANT and PUNT_RETURN: what each does, and the
status and results its completion carries (R54, R169, R228, R349, R350, R352, R353).
Where the manual leaves a point open it follows the model's own choice: log 68. -/
def Obligations.HostDescriptors : Prop :=
  (∀ (s : State) (q : Fin 16) (pos : Nat) (b : List Byte), runnable s q pos 0x00 (fun _ => true) = some b →
    ∃ t, exec (.nopDescriptor q pos) s = .next t ∧ Completed q pos 0 0 0 0 t ∧ Counted 78 1 s t) ∧
  (∀ (s : State) (q : Fin 16) (pos : Nat) (b : List Byte), runnable s q pos (byteAt b 0) (fun _ => true) = some b → byteAt b 0 ∉ opcodes →
    ∃ t, exec (.badOpcode q pos) s = .next t ∧ Completed q pos 0x40 0 0 0 t) ∧
  (∀ (s : State) (q : Fin 16) (pos : Nat) (d : Desc), findDesc s q pos = some d → runnable s q pos 0x29 (fun _ => true) = some d.bytes →
    (fenceOpen s q d = true → ∃ t, exec (.fence q pos) s = .next t ∧ Completed q pos 0 0 0 0 t) ∧
    (fenceOpen s q d = false → ∃ t, exec (.fence q pos) s = .next t ∧ Executes q pos t ∧ t.hif.posted = s.hif.posted)) ∧
  (∀ (s : State) (q : Fin 16) (pos : Nat) (b d : List Byte) (tb n idx cnt w first : Nat) (es : List (List Byte)),
    runnable s q pos 0x08 (fun _ => true) = some b → tb = byteAt b 16 → n = byteAt b 17 → idx = leAt b 20 4 → cnt = leAt b 24 4 →
    w = tblWidth tb → first = (if tb = 0x10 then 32 * n + idx else idx) →
    (w ≠ 0 → idx + cnt ≤ tblCount tb → (tb = 0x10 → n < 8) → haddrOk b = true →
      es = (List.range cnt).map (fun k => padTo w (slice d (w * k) w)) → (tb = 0x40 → ∀ e ∈ es, tplOk e = true) →
      ∃ t, exec (.tableWrite q pos (some d)) s = .next t ∧ Completed q pos 0 0 0 0 t ∧
        (∀ k e, es[k]? = some e → padTo w (tblEntry t tb (first + k)) = storedEntry tb e ∧ tblIsBad t tb (first + k) = false) ∧
        (∀ key, (∀ k, k < cnt → key ≠ tblKey tb (first + k)) → tget [] key t.tables = tget [] key s.tables)) ∧
    (w = 0 → ∃ t, exec (.tableWrite q pos (some d)) s = .next t ∧ Completed q pos 0x41 0 0 0 t ∧ t.tables = s.tables) ∧
    (w ≠ 0 → idx + cnt ≤ tblCount tb → (tb = 0x10 → n < 8) → haddrOk b = true →
      ∃ t, exec (.tableWrite q pos none) s = .next t ∧ Completed q pos 0x46 0 0 0 t ∧ t.tables = s.tables)) ∧
  (∀ (s : State) (q : Fin 16) (pos : Nat) (b d : List Byte) (len : Nat), runnable s q pos 0x18 (fun _ => true) = some b → len = leAt b 16 2 →
    s.frames.any (fun f => decide (f.origin = some (q.val, pos))) = false → s.msgs.any (fun m => decide (m.origin = some (q.val, pos))) = false →
    (60 ≤ len → len ≤ 9596 → leAt b 24 8 % 4 = 0 → haddrOk b = true →
      ∃ t f, exec (.inject q pos (some d)) s = .next t ∧ Executes q pos t ∧ t.frames = s.frames ++ [f] ∧ f.origin = some (q.val, pos) ∧
        f.ingress = 16 ∧ f.verdict = some true ∧ f.bytes = (padTo len d ++ fcsBytes (padTo len d)).map some) ∧
    (len < 60 ∨ 9596 < len → ∃ t, exec (.inject q pos (some d)) s = .next t ∧ Completed q pos 0x41 0 0 0 t ∧ t.frames = s.frames)) ∧
  (∀ (s : State) (q : Fin 16) (pos : Nat) (b : List Byte) (dpa len : Nat), hbmUp s = true →
    runnable s q pos 0x20 (fun b => !descHeld s 0x20 b) = some b → dpa = leAt b 16 5 → len = leAt b 24 4 →
    (memCheck b s = 0 → (∀ l ∈ linesOf dpa len, (getDir s l).held = 0) → (∀ h ∈ halvesOf dpa len, poisoned s h = false) →
      ∃ t, exec (.memRead q pos []) s = .next t ∧ Completed q pos 0 0 0 0 t ∧
        HostWrite.mem (leAt b 32 8) (memBytes s dpa len) ∈ t.hif.posted ∧ t.mem.hbm = s.mem.hbm) ∧
    (memCheck b s ≠ 0 → ∃ t, exec (.memRead q pos []) s = .next t ∧ Completed q pos (memCheck b s) 0 0 0 t ∧ t.mem = s.mem)) ∧
  (∀ (s : State) (q : Fin 16) (pos : Nat) (b d : List Byte) (dpa len : Nat), hbmUp s = true →
    runnable s q pos 0x21 (fun b => !descHeld s 0x21 b) = some b → dpa = leAt b 16 5 → len = leAt b 24 4 →
    (memCheck b s = 0 → inBank s dpa len = false → (∀ h ∈ halvesOf dpa len, poisoned s h = false) →
      ∃ t, exec (.memWrite q pos (some d)) s = .next t ∧ Completed q pos 0 0 0 0 t ∧
        (∀ i, i < len → getMem t (dpa + i) = ((padTo len d)[i]?).getD 0) ∧ (∀ l ∈ linesOf dpa len, (getDir t l).held = 0)) ∧
    (memCheck b s = 0 → inBank s dpa len = true →
      ∃ t, exec (.memWrite q pos (some d)) s = .next t ∧ Completed q pos 0x42 0 0 0 t ∧ t.mem = s.mem) ∧
    (memCheck b s ≠ 0 → ∃ t, exec (.memWrite q pos (some d)) s = .next t ∧ Completed q pos (memCheck b s) 0 0 0 t ∧ t.mem = s.mem)) ∧
  (∀ (s : State) (q : Fin 16) (pos : Nat) (b : List Byte) (lo cnt : Nat), runnable s q pos 0x30 (fun _ => true) = some b → byteAt b 16 = 0 →
    leAt b 20 4 = 8 * lo → cnt = leAt b 24 4 → haddrOk b = true →
    (lo + cnt ≤ 4096 → cnt ≠ 0 →
      ∃ t, exec (.statsSnapshot q pos) s = .next t ∧ Completed q pos 0 (8 * cnt) 0 0 t ∧
        HostWrite.mem (leAt b 32 8) ((List.range cnt).flatMap (fun i => leBytes 8 (tget 0 (i + lo) s.cnt).toNat)) ∈ t.hif.posted ∧
        ((byteAt b 17).testBit 0 = true → ∀ k, lo ≤ k → k < lo + cnt → k ≠ 64 → k ≠ 78 → tget 0 k t.cnt = 0)) ∧
    (4096 < lo + cnt → ∃ t, exec (.statsSnapshot q pos) s = .next t ∧ Completed q pos 0x41 0 0 0 t)) ∧
  (∀ (s : State) (q : Fin 16) (pos : Nat) (b : List Byte) (g : Group), hbmUp s = true →
    runnable s q pos 0x32 (fun b => !descHeld s 0x32 b) = some b → byteAt b 16 < 64 →
    (findGroup s (byteAt b 16) = none → ∃ t, exec (.replant q pos) s = .next t ∧ Completed q pos 0x42 0 0 0 t ∧ t.groups = s.groups) ∧
    (findGroup s (byteAt b 16) = some g → s.msgs = [] →
      ∃ t g', exec (.replant q pos) s = .next t ∧ Completed q pos 0 0 0 0 t ∧ findGroup t (byteAt b 16) = some g' ∧ g'.gen = (g.gen + 1) % 4 ∧
        g'.cfg = 0 ∧ g'.run = none ∧ g'.trans = none ∧ g'.reload = true ∧
        (∀ p ∈ g.plots, ∀ k, k < 16 → (getTile t (16 * p + k)).cfg = 0 ∧ (getTile t (16 * p + k)).gen = (g.gen + 1) % 4 ∧
          (getTile t (16 * p + k)).ms = []))) ∧
  (∀ (s : State) (q : Fin 16) (pos : Nat) (b d : List Byte) (e len : Nat), runnable s q pos 0x34 (fun _ => true) = some b → e = byteAt b 16 →
    len = leAt b 18 2 →
    s.egress.any (fun x => x.2.any (fun y => match y.kind with | .puntReturn q' p' _ _ _ _ => decide (q' = q.val ∧ p' = pos) | _ => false)) = false →
    (e < 8 → bitsOf (byteAt b 17) 0 2 = 0 → len + 4 ≤ maxFrame s e → trkEn s e = true → haddrOk b = true →
      ∃ u x, exec (.puntReturn q pos (some d)) s = .next (bbSettle u) ∧ Executes q pos u ∧ egressQ u e = egressQ s e ++ [x] ∧
        x.bytes = padTo len d ++ fcsBytes (padTo len d) ∧ x.kind = .puntReturn q pos 0 (leAt b 20 2) (leAt b 22 2) (devTime s)) ∧
    (15 < e → ∃ u, exec (.puntReturn q pos (some d)) s = .next (bbSettle u) ∧ Completed q pos 0x41 0 0 0 u ∧ u.egress = s.egress) ∧
    (e < 8 → bitsOf (byteAt b 17) 0 2 = 0 → len + 4 ≤ maxFrame s e → trkEn s e = false →
      ∃ u, exec (.puntReturn q pos (some d)) s = .next (bbSettle u) ∧ Completed q pos 0x42 0 0 0 u ∧ u.egress = s.egress))

/-! ### Stream descriptors (R111 to R128, R351) -/

/-- STREAM_OPEN with a home of its own or the one of its model's group, STREAM_CLOSE, STREAM_RESET, STREAM_UNFENCE_RESUME, STREAM_UNFENCE_DISCARD,
KV_READ and KV_WRITE: what each leaves in the stream, in its messages and in memory, and the status it completes with, done or refused.
Where the manual leaves a point open it follows the model's own choice: log 37, 42. -/
def Obligations.StreamDescriptors : Prop :=
  (∀ (s : State) (q : Fin 16) (pos : Nat) (b : List Byte) (k slot ab h home base cap region : Nat) (B : Bank), hbmUp s = true →
    runnable s q pos 0x10 (fun b => !descHeld s 0x10 b) = some b → k = byteAt b 16 → slot = bitsOf (byteAt b 17) 0 4 →
    h = bitsOf (byteAt b 18) 0 3 → base = leAt b 24 5 → cap = leAt b 22 2 →
    home = (if h = 7 then
      (match s.groups.find? (fun g => decide (g.slot = slot ∧ some g.bank = activeBank s slot)) with | some g => groupDie g | none => 0) else h) →
    region = 2 * B.kvL * (cap + B.newPos) * (ceilDiv (ceilDiv (B.kvH * B.kvE * (if B.kvFmt = 0 then 4 else 8)) 8) 64 * 64) →
    ((getStream s k).st ≠ .closed ∨ activeBank s slot = none →
      ∃ t, exec (.streamOpen q pos) s = .next t ∧ Completed q pos 0x42 0 0 0 t ∧ t.streams = s.streams) ∧
    ((getStream s k).st = .closed → activeBank s slot = some ab → getBank s slot ab = B →
      (B.kv = true → (firstHole base region).isSome = true →
        ∃ t, exec (.streamOpen q pos) s = .next t ∧ Completed q pos 0x43 0 0 0 t ∧ t.streams = s.streams) ∧
      ((B.kv = true → firstHole base region = none) →
        ((4 ≤ h ∧ h ≤ 6) ∨ (B.kv = true ∧ (cap = 0 ∨ 4096 < cap ∨ base % 4096 ≠ 0 ∨ stackOf base ≠ home)) →
          ∃ t, exec (.streamOpen q pos) s = .next t ∧ Completed q pos 0x41 0 0 0 t ∧ t.streams = s.streams) ∧
        (h < 4 ∨ h = 7 → (B.kv = true → cap ≠ 0 ∧ cap ≤ 4096 ∧ base % 4096 = 0 ∧ stackOf base = home) →
          (s.glb.dieFatal.testBit home = true →
            ∃ t, exec (.streamOpen q pos) s = .next t ∧ Completed q pos 0x4A 0 0 0 t ∧ t.streams = s.streams) ∧
          (s.glb.dieFatal.testBit home = false →
            ∃ t v, exec (.streamOpen q pos) s = .next t ∧ Completed q pos 0 home 0 0 t ∧ getStream t k = v ∧ v.st = .opened ∧
              v.cls = bitsOf (byteAt b 17) 4 2 ∧ v.slot = slot ∧ v.home = home ∧ v.nextIn = leAt b 20 2 ∧ v.nextOut = leAt b 20 2 ∧
              (bitsOf (byteAt b 18) 4 2 < 3 → v.policy = bitsOf (byteAt b 18) 4 2) ∧ v.kvLen = 0 ∧ v.kvHead = 0 ∧
              v.kvCap = (if B.kv then cap else 0) ∧ v.pcap = (if B.kv then cap + B.newPos else 0) ∧ v.kvBase = (if B.kv then base else 0) ∧
              (∀ j, j ≠ k → getStream t j = getStream s j)))))) ∧
  (∀ (s : State) (q : Fin 16) (pos : Nat) (b : List Byte) (k : Nat), runnable s q pos 0x11 (fun _ => true) = some b → k = byteAt b 16 →
    ((getStream s k).st = .opened ∨ (getStream s k).st = .fenced → inflight s k = [] → (getStream s k).resetWait = none →
      (inflightCount (getStream s k) = 0 →
        ∃ t, exec (.streamClose q pos) s = .next t ∧ Completed q pos 0 0 0 0 t ∧ (getStream t k).st = .closed) ∧
      (inflightCount (getStream s k) ≠ 0 →
        ∃ t, exec (.streamClose q pos) s = .next t ∧ Executes q pos t ∧ (getStream t k).st = .draining ∧
          (getStream t k).closeWait = some (q.val, pos))) ∧
    ((getStream s k).st = .opened ∨ (getStream s k).st = .fenced →
      ∃ t u, exec (.streamClose q pos) s = .next t ∧ t = idleStream k (endHeldAll k u) ∧ (getStream u k).st = .draining ∧
        (getStream u k).closeWait = some (q.val, pos) ∧ u.msgs = s.msgs ∧ (∀ j, j ≠ k → getStream u j = getStream s j)) ∧
    ((getStream s k).st = .closed ∨ (getStream s k).st = .draining → (getStream s k).closeWait ≠ some (q.val, pos) →
      ∃ t, exec (.streamClose q pos) s = .next t ∧ Completed q pos 0x42 0 0 0 t ∧ t.streams = s.streams)) ∧
  (∀ (s : State) (q : Fin 16) (pos : Nat) (b : List Byte) (k : Nat), runnable s q pos 0x12 (fun _ => true) = some b → k = byteAt b 16 →
    ((getStream s k).st ≠ .closed → (getStream s k).resetWait = none → (getStream s k).closeWait = none → inflight s k = [] →
      inflightCount (getStream s k) = 0 →
      ∃ t, exec (.streamReset q pos) s = .next t ∧ Completed q pos 0 0 0 0 t ∧ (getStream t k).st = .opened ∧
        (getStream t k).nextIn = leAt b 20 2 ∧ (getStream t k).nextOut = leAt b 20 2 ∧ (getStream t k).resetWait = none ∧
        (getStream t k).kvLen = (if (byteAt b 17).testBit 0 then (getStream s k).kvLen else 0)) ∧
    ((getStream s k).st ≠ .closed → (getStream s k).resetWait = none →
      ∃ t u, exec (.streamReset q pos) s = .next t ∧ t = idleStream k (settleStream k u) ∧
        (getStream u k).resetWait = some { sq := q, pos := pos, keepKv := (byteAt b 17).testBit 0, seqStart := leAt b 20 2 } ∧
        (getStream u k).closeWait = none ∧
        (∀ m ∈ inflight s k, ∃ m', findMsg u m.mid = some m' ∧ m'.silent = true ∧ m'.held = false ∧ m'.outputs = none ∧ m'.staged = false ∧
          m'.rowsOut = []) ∧
        (∀ m ∈ s.msgs, m.mid ∉ (inflight s k).map Msg.mid → m ∈ u.msgs)) ∧
    ((getStream s k).st = .closed ∨ (∃ r, (getStream s k).resetWait = some r ∧ (r.sq ≠ q.val ∨ r.pos ≠ pos)) →
      ∃ t, exec (.streamReset q pos) s = .next t ∧ Completed q pos 0x42 0 0 0 t ∧ t.streams = s.streams)) ∧
  (∀ (s : State) (q : Fin 16) (pos : Nat) (b : List Byte), runnable s q pos 0x13 (fun b => decide (byteAt b 17 ≠ 1)) = some b → 1 < byteAt b 17 →
    ∃ t, exec (.streamUnfenceResume q pos) s = .next t ∧ Completed q pos 0x41 0 0 0 t ∧ t.streams = s.streams) ∧
  (∀ (s : State) (q : Fin 16) (pos : Nat) (b : List Byte) (k : Nat), runnable s q pos 0x13 (fun b => decide (byteAt b 17 ≠ 1)) = some b →
    k = byteAt b 16 → byteAt b 17 = 0 →
    ((getStream s k).st = .fenced →
      ∃ t u, exec (.streamUnfenceResume q pos) s = .next t ∧ t = complete q pos 0 0 0 0 (resumeHeld k u) ∧ (getStream u k).st = .opened ∧
        u.msgs = s.msgs ∧ (∀ j, j ≠ k → getStream u j = getStream s j)) ∧
    ((getStream s k).st = .fenced → s.msgs = [] → s.sheaves = [] → s.groups = [] →
      ∃ t, exec (.streamUnfenceResume q pos) s = .next t ∧ Completed q pos 0 0 0 0 t ∧ (getStream t k).st = .opened) ∧
    ((getStream s k).st ≠ .fenced →
      ∃ t, exec (.streamUnfenceResume q pos) s = .next t ∧ Completed q pos 0x42 0 0 0 t ∧ t.streams = s.streams)) ∧
  (∀ (s : State) (q : Fin 16) (pos : Nat) (b : List Byte) (k : Nat), runnable s q pos 0x13 (fun b => decide (byteAt b 17 ≠ 0)) = some b →
    k = byteAt b 16 →
    (byteAt b 17 = 1 → (getStream s k).st = .fenced →
      ∃ t u, exec (.streamUnfenceDiscard q pos) s = .next t ∧ t = complete q pos 0 0 0 0 (endHeldAll k u) ∧ (getStream u k).st = .opened ∧
        u.msgs = s.msgs ∧ (∀ j, j ≠ k → getStream u j = getStream s j)) ∧
    (byteAt b 17 = 1 → (getStream s k).st = .fenced → inflight s k = [] →
      ∃ t, exec (.streamUnfenceDiscard q pos) s = .next t ∧ Completed q pos 0 0 0 0 t ∧ (getStream t k).st = .opened) ∧
    (byteAt b 17 = 1 → (getStream s k).st ≠ .fenced →
      ∃ t, exec (.streamUnfenceDiscard q pos) s = .next t ∧ Completed q pos 0x42 0 0 0 t ∧ t.streams = s.streams) ∧
    (1 < byteAt b 17 → ∃ t, exec (.streamUnfenceDiscard q pos) s = .next t ∧ Completed q pos 0x41 0 0 0 t ∧ t.streams = s.streams)) ∧
  (∀ (s : State) (q : Fin 16) (pos : Nat) (b : List Byte) (v : Stream) (first count : Nat), hbmUp s = true →
    runnable s q pos 0x14 (fun b => !descHeld s 0x14 b) = some b → v = getStream s (byteAt b 16) → first = leAt b 20 4 → count = leAt b 24 4 →
    (v.st ≠ .closed → v.pcap ≠ 0 → first + count ≤ v.kvLen → haddrOk b = true → s.glb.dieFatal.testBit v.home = false →
      (∀ l, (getDir s l).held = 0) →
      ((∀ h, poisoned s h = false) → kvRow v ≠ 0 → v.kvL ≠ 0 → count ≠ 0 →
        ∃ t, exec (.kvRead q pos []) s = .next t ∧ Completed q pos 0 0 0 0 t ∧ t.mem.hbm = s.mem.hbm ∧
          HostWrite.mem (leAt b 32 8) ((kvPlanes v).flatMap (fun x => (List.range count).flatMap (fun i =>
            memBytes s (kvAddr v x.1 x.2 ((v.kvHead + v.pcap - v.kvLen + (first + i)) % v.pcap)) (kvRow v)))) ∈ t.hif.posted) ∧
      (∀ x ∈ kvPlanes v, ∀ i h, i < count →
        h ∈ halvesOf (kvAddr v x.1 x.2 ((v.kvHead + v.pcap - v.kvLen + (first + i)) % v.pcap)) (kvRow v) → poisoned s h = true →
        ∃ t, exec (.kvRead q pos []) s = .next t ∧ Completed q pos 0x44 0 0 0 t ∧ t.mem.hbm = s.mem.hbm)) ∧
    (v.st ≠ .closed → v.pcap ≠ 0 → v.kvLen < first + count →
      ∃ t, exec (.kvRead q pos []) s = .next t ∧ Completed q pos 0x41 0 0 0 t ∧ t.mem = s.mem) ∧
    (v.st = .closed ∨ v.pcap = 0 → ∃ t, exec (.kvRead q pos []) s = .next t ∧ Completed q pos 0x42 0 0 0 t ∧ t.mem = s.mem)) ∧
  (∀ (s : State) (q : Fin 16) (pos : Nat) (b d : List Byte) (k count : Nat) (v : Stream), hbmUp s = true →
    runnable s q pos 0x15 (fun b => !descHeld s 0x15 b) = some b → k = byteAt b 16 → v = getStream s k → count = leAt b 24 4 →
    (v.st = .fenced → v.pcap ≠ 0 → streamDispatched s k = false → count ≤ v.kvCap → v.kvCap ≤ v.pcap → v.kvBase % 64 = 0 → haddrOk b = true →
      s.glb.dieFatal.testBit v.home = false →
      ∃ t, exec (.kvWrite q pos (some d)) s = .next t ∧ Completed q pos 0 0 0 0 t ∧ (getStream t k).kvLen = count ∧
        (getStream t k).kvHead = count % v.pcap ∧ (getStream t k).st = .fenced ∧
        (∀ l tn i j, l < v.kvL → tn < 2 → i < count → j < kvRow v →
          getMem t (kvAddr v l tn i + j) = (d[((2 * l + tn) * count + i) * kvRow v + j]?).getD 0)) ∧
    (v.st = .fenced → v.pcap ≠ 0 → streamDispatched s k = false → v.kvCap < count →
      ∃ t, exec (.kvWrite q pos (some d)) s = .next t ∧ Completed q pos 0x41 0 0 0 t ∧ t.streams = s.streams ∧ t.mem = s.mem) ∧
    (v.st = .fenced → v.pcap ≠ 0 → streamDispatched s k = false → count ≤ v.kvCap → haddrOk b = true → s.glb.dieFatal.testBit v.home = false →
      ∃ t, exec (.kvWrite q pos none) s = .next t ∧ Completed q pos 0x46 0 0 0 t ∧ t.streams = s.streams ∧ t.mem = s.mem) ∧
    (v.st ≠ .fenced → ∃ t, exec (.kvWrite q pos (some d)) s = .next t ∧ Completed q pos 0x42 0 0 0 t ∧ t.streams = s.streams ∧ t.mem = s.mem))

/-! ### Host rings (R337 to R348, R354) -/

/-- HIF_ENABLE, RING_ENABLE, DOORBELL_POLL, POLL_RESULT, DESCRIPTOR_FETCH, SHADOW_WRITE, MODERATION_TIMER and MSIX_UNMASK: what the ring engine
takes from its registers, the doorbell page and an SQ, and what it writes to the host (R339, R343, R345, R346, R348, R354).
Where the manual leaves a point open it follows the model's own choice: log 10, 67. -/
def Obligations.HostRings : Prop :=
  (∀ s : State, barUp s = true →
    (s.hif.en = false → ∃ t, exec (.hifEnable true) s = .next t ∧ t.hif.en = true ∧ t.hif.polling = false ∧ t.hif.pollDue = s.clk.now ∧
      t.hif.dbBase = (getReg s 0x0808 + 2 ^ 32 * getReg s 0x080C) / 4096 * 4096 ∧
      t.hif.shBase = (getReg s 0x0810 + 2 ^ 32 * getReg s 0x0814) / 4096 * 4096 ∧ t.hif.rings = s.hif.rings) ∧
    (∃ t, exec (.hifEnable false) s = .next t ∧ t.hif.en = false ∧ t.hif.rings = s.hif.rings ∧ t.hif.sqs = s.hif.sqs)) ∧
  (∀ (s : State) (r : Fin 36), barUp s = true →
    (r.val ≠ 32 → ∃ t, exec (.ringEnable r true) s = .next t ∧
      getRing t r = { Ring.init with en := true, base := (getReg s (0x0900 + 16 * r) + 2 ^ 32 * getReg s (0x0904 + 16 * r)) / 4096 * 4096,
                                     log2 := clampNat 6 16 (regF s (0x0908 + 16 * r) 0 5) } ∧
      (r.val < 16 → getSq t r = Sq.init) ∧ t.hif.shDirty = true ∧ (∀ k, k ≠ r.val → getRing t k = getRing s k)) ∧
    (∃ t, exec (.ringEnable r false) s = .next t ∧ getRing t r = { getRing s r with en := false } ∧ t.hif.posted = s.hif.posted ∧
      (∀ k, k ≠ r.val → getRing t k = getRing s k))) ∧
  (∀ s : State, barUp s = true → s.glb.iso ≠ .on → s.hif.backlog = [] →
    ∃ t e a p, exec (.ringEnable 32 true) s = .next t ∧ t.glb.iso = .on ∧ (getRing t 32).en = true ∧
      HostWrite.mem a (eventBody e ++ [p]) ∈ t.hif.posted ∧ e.code = 0x0B01 ∧ e.a0 = (if s.glb.iso = .perst then 1 else 2) ∧
      e.a1 = (s.clk.now - s.glb.isoT0) / 1000 % 2 ^ 32) ∧
  (∀ s : State, s.hif.en = true → s.hif.polling = false → connected s = true →
    (s.hif.pollDue ≤ s.clk.now → ∃ t, exec .doorbellPoll s = .next t ∧ t.hif.polling = true ∧ Counted 76 1 s t) ∧
    (s.clk.now < s.hif.pollDue → exec .doorbellPoll s = .next s)) ∧
  (∀ (s : State) (page : List Byte) (timedOut : Bool) (bufs : List (BitVec 64)) (q : Fin 16) (w : Nat), s.hif.polling = true → connected s = true →
    w = leAt page (4 * q) 4 → ringRuns s q = true →
    (bitsOf w 0 16 < (getRing s q).size →
      ∃ t, exec (.pollResult (some page) timedOut bufs) s = .next t ∧ t.hif.polling = false ∧
        (getRing t q).prod = (getRing s q).fwd (getRing s q).prod w ∧ (getRing t q).cons = (getRing s q).cons ∧ ringRuns t q = true ∧
        t.hif.pollDue = s.clk.now + t.hif.interval) ∧
    ((getRing s q).size ≤ bitsOf w 0 16 →
      ∃ t, exec (.pollResult (some page) timedOut bufs) s = .next t ∧ ringRuns t q = false ∧ (getRing t q).prod = (getRing s q).prod ∧
        (getReg t (0x0B40 + 4 * q)).testBit 0 = true) ∧
    (∃ t, exec (.pollResult none timedOut bufs) s = .next t ∧ t.hif.polling = false ∧ ringRuns t q = false ∧
      (getReg t (0x0B40 + 4 * q)).testBit 0 = true)) ∧
  (∀ (s : State) (q : Fin 16) (bs : List Byte) (timedOut : Bool) (n : Nat), ringRuns s q = true → s.hif.en = true → connected s = true →
    n = min 8 ((getRing s q).prod - (getRing s q).cons) → n ≠ 0 → (getRing s (cqOf s q)).full = false → fetchNext s = some q.val →
    (∃ t, exec (.descriptorFetch q (some bs) timedOut) s = .next t ∧ (getRing t q).cons = (getRing s q).cons + n ∧ t.hif.shDirty = true ∧
      t.hif.turn = (q + 1) % 16 ∧
      (getSq t q).descs.length = (getSq s q).descs.length + n ∧
      (∀ i, i < n → ∃ d, (getSq t q).descs[(getSq s q).descs.length + i]? = some d ∧ d.pos = (getRing s q).cons + i ∧
        d.bytes = padTo 64 (slice bs (64 * i) 64) ∧ d.st = .waiting)) ∧
    (∃ t, exec (.descriptorFetch q none timedOut) s = .next t ∧ ringRuns t q = false ∧ (getReg t (0x0B40 + 4 * q)).testBit 0 = true ∧
      (getSq t q).descs = (getSq s q).descs)) ∧
  (∀ (s : State) (q : Fin 16) (bs : List Byte) (timedOut : Bool), (getRing s (cqOf s q)).full = true ∨ fetchNext s ≠ some q.val →
    ∃ t, exec (.descriptorFetch q (some bs) timedOut) s = .next t ∧ t = s) ∧
  (∀ s : State, connected s = true → s.hif.en = true → s.hif.shDirty = true → s.clk.now < s.hif.shDue → exec .shadowWrite s = .next s) ∧
  (∀ s : State, connected s = true → s.hif.en = true → s.hif.shDirty = true → s.hif.shDue ≤ s.clk.now →
    ∃ t, exec .shadowWrite s = .next t ∧ t.hif.shDirty = false ∧ t.hif.trig = [] ∧ t.hif.shGen = (s.hif.shGen + 1) % 2 ^ 32 ∧
      t.hif.shDue = s.clk.now + 1000 * max 1 (regF s 0x0820 0 8) ∧
      HostWrite.mem s.hif.shBase (shadowPage s) ∈ t.hif.posted ∧
      (∀ v ∈ s.hif.trig, v < 64 →
        ((getReg s (0x0C0C + 16 * v)).testBit 0 = true → t.hif.pba.testBit v = true) ∧
        ((getReg s (0x0C0C + 16 * v)).testBit 0 = false →
          HostWrite.msix v (getReg s (0x0C00 + 16 * v) + 2 ^ 32 * getReg s (0x0C04 + 16 * v)) (getReg s (0x0C08 + 16 * v)) ∈ t.hif.posted))) ∧
  (∀ (s : State) (r : Fin 36), 16 ≤ r.val → r.val ≠ 34 → regF s (0x0880 + 4 * (r - 16)) 16 16 ≠ 0 → 0 < (getRing s r).pend →
    ((getRing s r).oldest + 1000 * regF s (0x0880 + 4 * (r - 16)) 16 16 ≤ s.clk.now →
      ∃ t, exec (.moderationTimer r) s = .next t ∧ (getRing t r).pend = 0 ∧ regF s (0x0880 + 4 * (r - 16)) 0 6 ∈ t.hif.trig ∧
        t.hif.shDirty = true ∧ t.hif.posted = s.hif.posted) ∧
    (s.clk.now < (getRing s r).oldest + 1000 * regF s (0x0880 + 4 * (r - 16)) 16 16 → exec (.moderationTimer r) s = .next s)) ∧
  (∀ (s : State) (v : Fin 64), barUp s = true →
    (s.hif.pba.testBit v = true → connected s = true →
      ∃ t, exec (.msixUnmask v) s = .next t ∧ t.hif.pba.testBit v = false ∧ getReg t (0x0C0C + 16 * v) = 0 ∧
        HostWrite.msix v (getReg s (0x0C00 + 16 * v) + 2 ^ 32 * getReg s (0x0C04 + 16 * v)) (getReg s (0x0C08 + 16 * v)) ∈ t.hif.posted) ∧
    (s.hif.pba.testBit v = false →
      ∃ t, exec (.msixUnmask v) s = .next t ∧ getReg t (0x0C0C + 16 * v) = 0 ∧ t.hif = s.hif))

/-! ### The two-wire port (R410 to R429) -/

/-- Every read of Table TWP-2: IDENT, STATUS, EVENT_SUMMARY, the temperatures, THERMAL_STATE, PKG_POWER, YOKE_STATE, DRAIN_READ, CEILING_READ,
COUNTER_READ, ADDR_CFG_READ and PORT_STATUS_READ answer their bytes and the PEC and leave every other block alone, what the compute dies' plots
show being as the I/O die's copies hold it; an unknown command is refused (R413, R419 to R421, R423).
Where the manual leaves a point open it follows the model's own choice: log 32, 86, 122. -/
def Obligations.TwoWireReads : Prop :=
  ∀ (s : State) (a : Fin 128),
    (Accepts s a 0x00 → ∃ t bs, exec (.ident a) s = .next t ∧ Answers s t a 0x00 bs ∧ bs.length = 17 ∧ byteAt bs 0 = 16 ∧ leAt bs 1 2 = 0x0640 ∧
      (otpLoaded s = true → byteAt bs 4 = 1 ∧ leAt bs 5 8 = s.glb.otp.serial % 2 ^ 64 ∧ leAt bs 13 2 = s.glb.otp.rev % 2 ^ 16) ∧
      (otpLoaded s = false → leAt bs 3 12 = 0) ∧ byteAt bs 15 = s.glb.strapSmb % 8 ∧ byteAt bs 16 = s.glb.strapSeed % 16 ∧ t.regs = s.regs) ∧
    (Accepts s a 0x01 → ∃ t w, exec (.status a) s = .next t ∧ Answers s t a 0x01 (leBytes 2 w) ∧ w % 16 = phaseNum s.glb.phase ∧
      (∀ d, d < 4 → w.testBit (4 + d) = s.glb.dieOk.testBit d) ∧ w.testBit 8 = faultLow s ∧ w.testBit 9 = s.glb.deviceFatal ∧
      w.testBit 10 = alertLow s ∧ w.testBit 12 = s.glb.run ∧ w.testBit 13 = decide (yokState s = 6) ∧ t.regs = s.regs) ∧
    (Accepts s a 0x02 → ∃ t, exec (.eventSummary a) s = .next t ∧ t.regs = s.regs ∧
      Answers s t a 0x02 (leBytes 1 8 ++ leBytes 1 s.alert.latched ++ leBytes 1 s.alert.pending ++ leBytes 1 (getReg s 0x381C) ++
        leBytes 1 (retiredPlots s).length ++ leBytes 1 (getReg s 0x0440) ++ leBytes 1 (yokState s) ++ leBytes 2 0)) ∧
    (∀ d : Fin 4, Accepts s a (0x10 + d) → ∃ t m, exec (.tempCd a d) s = .next t ∧ Answers s t a (0x10 + d) (leBytes 2 m) ∧ t.yoke = s.yoke ∧
      (s.glb.dieFatal.testBit d = true ∨ s.glb.dieOk.testBit d = false ∨ s.yoke.hot[d.val]? = none → m = 0x8000) ∧
      (s.glb.dieFatal.testBit d = false → s.glb.dieOk.testBit d = true → ∀ x, s.yoke.hot[d.val]? = some x → m = x)) ∧
    (∀ iod : List (BitVec 16), Accepts s a 0x14 → iod ≠ [] → ∃ t m, exec (.tempIod a iod) s = .next t ∧
      Answers s t a 0x14 (leBytes 2 (ofSigned 16 m)) ∧ (∀ x ∈ iod, x.toInt ≤ m) ∧ ∃ x ∈ iod, x.toInt = m) ∧
    (∀ hbm : List (BitVec 16), Accepts s a 0x15 → hbm ≠ [] → ∃ t m, exec (.tempHbm a hbm) s = .next t ∧
      Answers s t a 0x15 (leBytes 2 (ofSigned 16 m)) ∧ (∀ x ∈ hbm, x.toInt ≤ m) ∧ ∃ x ∈ hbm, x.toInt = m) ∧
    (∀ iod hbm : List (BitVec 16), Accepts s a 0x16 → ∃ t m, exec (.tempMax a iod hbm) s = .next t ∧
      Answers s t a 0x16 (leBytes 2 (ofSigned 16 m)) ∧ (∀ x ∈ iod ++ hbm, x.toInt ≤ m) ∧ ∀ d, d < 4 → dieTemp s d ≤ m) ∧
    (Accepts s a 0x17 → ∃ t, exec (.thermalState a) s = .next t ∧ Answers s t a 0x17 (leBytes 2 s.yoke.caps) ∧ t.yoke = s.yoke) ∧
    (∀ w, w = thermalWord s → w < 32 ∧ (∀ d, d < 4 → (w.testBit d = true ↔ ∃ k, k < 16 ∧ (getPlot s (16 * d + k)).cap ≠ 0)) ∧
      (w.testBit 4 = true ↔ ∃ p, p < 64 ∧ 420 ≤ (getPlot s p).sensor)) ∧
    (Accepts s a 0x20 → ∃ t, exec (.pkgPower a) s = .next t ∧ Answers s t a 0x20 (leBytes 2 (getReg s 0x288C) ++ leBytes 2 (getReg s 0x2888)) ∧
      t.yoke = s.yoke) ∧
    (Accepts s a 0x21 → ∃ t, exec (.yokeState a) s = .next t ∧ t.yoke = s.yoke ∧
      Answers s t a 0x21 ([8#8, BitVec.ofNat 8 (yokState s), 0#8] ++ leBytes 2 (getReg s 0x2890) ++ leBytes 2 (getReg s 0x2894) ++
        leBytes 2 (getReg s 0x2898))) ∧
    (Accepts s a 0x30 → ∃ t, exec (.drainRead a) s = .next t ∧ yokState t = yokState s ∧
      Answers s t a 0x30 [if yokState s = 5 ∨ yokState s = 6 then 1#8 else 0#8]) ∧
    (Accepts s a 0x31 → ∃ t, exec (.ceilingRead a) s = .next t ∧ Answers s t a 0x31 (leBytes 2 (getReg s 0x289C)) ∧ t.regs = s.regs) ∧
    (∀ n, Accepts s a 0x41 → n = (if (getReg s 0x3800).testBit 2 then 248 else 32) →
      ∃ t, exec (.counterRead a) s = .next t ∧ t.twp.snap = s.twp.snap.drop n ∧
        Answers s t a 0x41 (leBytes 1 (s.twp.snap.take n).length ++ s.twp.snap.take n)) ∧
    (Accepts s a 0xF0 → ∃ t, exec (.addrCfgRead a) s = .next t ∧ Answers s t a 0xF0 ([4#8] ++ s.twp.addrCfg) ∧ t.regs = s.regs) ∧
    (Accepts s a 0xFE → ∃ t, exec (.portStatusRead a) s = .next t ∧ t.regs = s.regs ∧
      Answers s t a 0xFE [BitVec.ofNat 8 (getReg s 0x3800 % 16 + 16 * (s.glb.strapSmb % 8)), BitVec.ofNat 8 (getReg s 0x381C)]) ∧
    (∀ (code : Byte) (read : Bool), twpUp s = true → addrKind s a ≠ .other →
      (if read then readCodes.contains code.toNat else writeCodes.contains code.toNat) = false →
      ∃ t, exec (.twpUnknownCommand a code read) s = .next t ∧ t.twp.nacked = true ∧ t.twp.reply = [] ∧ Counted 89 1 s t ∧ t.regs = s.regs) ∧
    (twpUp s = true → addrKind s a = .full → codeOffered s 0x20 = false →
      ∃ t, exec (.pkgPower a) s = .next t ∧ t.twp.nacked = true ∧ Counted 89 1 s t)

/-- Every write of Table TWP-2: DRAIN, which the head acts on at its next epoch, CEILING_SET, SOFT_RESET, COUNTER_SNAP, ADDR_CFG, PORT_STATUS and
CLEAR_FAULTS, with a wrong PEC refused; and ALERT_RESPONSE, SMBUS_TIMEOUT and SDA_STUCK (R411, R414, R415, R417, R419, R421, R424 to R428).
Where the manual leaves a point open it follows the model's own choice: log 32, 85. -/
def Obligations.TwoWireWrites : Prop :=
  (∀ (s : State) (a : Fin 128) (data d : List Byte) (v : Nat), Accepts s a 0x30 → Carries s a 0x30 data d → d.length = 1 → v = byteAt d 0 →
    (v ≤ 2 → s.glb.phase ≠ .failed → ∃ t, exec (.drain a data) s = .next t ∧ t.twp.nacked = false ∧ t.yoke.board = s.yoke.board ++ [v] ∧
      yokState t = yokState s) ∧
    (2 < v → ∃ t, exec (.drain a data) s = .next t ∧ (getReg t 0x381C).testBit 4 = true ∧ t.yoke = s.yoke)) ∧
  (∀ (s : State) (imon : List Nat) (duty : List (Fin 256)), yokeUp s = true →
    (s.yoke.board = [1] → ∃ t, exec (.yokeEpoch imon duty) s = .next t ∧ t.yoke.board = [] ∧
      (yokState s = 3 ∨ yokState s = 4 → yokState t = 5 ∨ yokState t = 6) ∧ (yokState s = 1 ∨ yokState s = 2 → yokState t = 6)) ∧
    (s.yoke.board = [2] → ∃ t, exec (.yokeEpoch imon duty) s = .next t ∧ t.yoke.board = [] ∧
      (yokState s = 5 → yokState t = 3 ∨ yokState t = 4) ∧
      (yokState s = 6 → s.yoke.holding = false → s.yoke.startAt = none → s.glb.run = true → yokState t = 3 ∨ yokState t = 4)) ∧
    (s.yoke.board = [0] → ∃ t, exec (.yokeEpoch imon duty) s = .next t ∧ t.yoke.board = [] ∧
      (yokState s = 5 → yokState t = 3 ∨ yokState t = 4) ∧
      (yokState s = 6 → s.yoke.holding = false → s.yoke.startAt = none → s.glb.run = true → yokState t = 6 ∧ t.yoke.holding = true))) ∧
  (∀ (s : State) (a : Fin 128) (data d : List Byte), Accepts s a 0x31 → Carries s a 0x31 data d → d.length = 2 →
    (160 ≤ leAt d 0 2 → s.glb.phase ≠ .failed → ∃ t, exec (.ceilingSet a data) s = .next t ∧
      t.yoke.ceils = s.yoke.ceils ++ [(1, min 1800 (leAt d 0 2))] ∧ Counted 88 1 s t) ∧
    (leAt d 0 2 < 160 → ∃ t, exec (.ceilingSet a data) s = .next t ∧ (getReg t 0x381C).testBit 4 = true ∧ t.yoke = s.yoke)) ∧
  (∀ (s : State) (a : Fin 128) (data d : List Byte), Accepts s a 0x32 → Carries s a 0x32 data d → d.length = 1 →
    (byteAt d 0 = 0xA5 ∨ byteAt d 0 = 0x5A → s.glb.deviceFatal = false → s.glb.phase = .running → s.glb.soft = .off →
      ∃ t, exec (.softReset a data) s = .next t ∧ t.glb.phase = .softReset ∧ t.glb.soft = .ramp ∧
        t.glb.softImm = decide (byteAt d 0 = 0x5A) ∧ (getReg t 0x0440).testBit 4 = true) ∧
    (byteAt d 0 ≠ 0xA5 → byteAt d 0 ≠ 0x5A →
      ∃ t, exec (.softReset a data) s = .next t ∧ (getReg t 0x381C).testBit 4 = true ∧ t.glb = s.glb)) ∧
  (∀ (s : State) (a : Fin 128) (data d : List Byte) (w i n : Nat), Accepts s a 0x40 → Carries s a 0x40 data d → d.length = 4 → w = leAt d 0 4 →
    i = bitsOf w 0 16 → n = bitsOf w 16 8 →
    (1 ≤ n → n ≤ 31 → i + n ≤ 4096 → w < 2 ^ 25 → ∃ t, exec (.counterSnap a data) s = .next t ∧ t.twp.snap.length = 8 * n ∧
      (∀ j, j < n → i + j ≠ 64 → i + j ≠ 88 → leAt t.twp.snap (8 * j) 8 = (tget 0 (i + j) s.cnt).toNat) ∧
      (w.testBit 24 = true → ∀ j, j < n → tget 0 (i + j) t.cnt = 0)) ∧
    (n = 0 ∨ 31 < n → ∃ t, exec (.counterSnap a data) s = .next t ∧ (getReg t 0x381C).testBit 4 = true ∧ t.twp.snap = s.twp.snap)) ∧
  (∀ (s : State) (a : Fin 128) (data d : List Byte), Accepts s a 0xF0 → Carries s a 0xF0 data d → d.length = 5 → byteAt d 0 = 4 →
    byteAt data 0 = 4 →
    (addrCfgOk s (d.drop 1) = true → ∃ t, exec (.addrCfg a data) s = .next t ∧ t.twp.addrCfg = d.drop 1 ∧ twpMode t = byteAt d 1 % 4 ∧
      (byteAt d 1 = 1 → ∀ k, k ∈ [1, 2, 3] → getReg t (0x3804 + 4 * k) = (if 128 ≤ byteAt d (1 + k) then byteAt d (1 + k) else 0)) ∧
      (byteAt d 1 = 2 → getReg t 0x3808 = byteAt d 2 ∧ getReg t 0x380C = byteAt d 3)) ∧
    (addrCfgOk s (d.drop 1) = false → ∃ t, exec (.addrCfg a data) s = .next t ∧ (getReg t 0x381C).testBit 4 = true ∧
      t.twp.addrCfg = s.twp.addrCfg ∧ twpMode t = twpMode s)) ∧
  (∀ (s : State) (a : Fin 128) (data d : List Byte), Accepts s a 0xFE → Carries s a 0xFE data d → d.length = 2 →
    ∃ t, exec (.portStatus a data) s = .next t ∧ getReg t 0x3800 = byteAt d 0 % 16 ∧ t.twp.nacked = false ∧
      (∀ off, off ≠ 0x3800 → getReg t off = getReg s off)) ∧
  (∀ (s : State) (a : Fin 128) (data : List Byte), Accepts s a 0xFE → data.length = 3 →
    byteAt data 2 ≠ pec ([BitVec.ofNat 8 (2 * a), 0xFE#8] ++ data.take 2) →
    ∃ t, exec (.portStatus a data) s = .next t ∧ getReg t 0x3800 = getReg s 0x3800 ∧ t.twp.nacked = true ∧ Counted 90 1 s t ∧
      (getReg t 0x381C).testBit 3 = true) ∧
  (∀ (s : State) (a : Fin 128) (data : List Byte), Accepts s a 0xFF → Carries s a 0xFF data [] →
    ∃ t, exec (.clearFaults a data) s = .next t ∧ getReg t 0x381C = 0 ∧ t.alert.pending = 0 ∧ t.alert.latched = heldSources s) ∧
  (∀ (s : State) (won : Bool) (b : Nat), twpUp s = true → (onesOf 7 s.alert.pending).head? = some b →
    ∃ t, exec (.alertResponse won) s = .next t ∧ t.twp.reply = [BitVec.ofNat 8 (2 * alertAddr s b)] ∧ t.twp.nacked = false ∧
      (won = true → b ≠ 5 ∨ s.hif.dropped = 0 → t.alert.pending.testBit b = false ∧ Counted 92 1 s t) ∧
      (won = false → (getReg t 0x381C).testBit 5 = true)) ∧
  (∀ (s : State) (won : Bool), twpUp s = true → (onesOf 7 s.alert.pending) = [] →
    ∃ t, exec (.alertResponse won) s = .next t ∧ t.twp.nacked = true ∧ t.twp.reply = []) ∧
  (∀ (s : State) (own : Bool), twpUp s = true →
    ((getReg s 0x3800).testBit 0 = false → ∃ t, exec (.smbusTimeout own) s = .next t ∧ t.twp.reply = [] ∧ Counted 91 1 s t ∧
      (getReg t 0x381C).testBit (if own then 0 else 1) = true ∧ t.alert.latched.testBit 6 = true) ∧
    ((getReg s 0x3800).testBit 0 = true → own = true → ∃ t, exec (.smbusTimeout own) s = .next t ∧ t = s) ∧
    ((getReg s 0x3800).testBit 0 = true → own = false → ∃ t, exec (.smbusTimeout own) s = .next t ∧ t.twp = s.twp ∧
      (getReg t 0x381C).testBit 1 = true ∧ t.alert.latched.testBit 6 = true) ∧
    (∃ t, exec (.sdaStuck own) s = .next t ∧ (getReg t 0x381C).testBit 2 = true ∧ t.alert.latched.testBit 6 = true ∧
      (own = true → t.twp.reply = []) ∧ (own = false → t.twp = s.twp)))

/-! ### Test and debug (R430 to R438) -/

/-- JTAG_TRST, TEST_LOGIC_RESET, BYPASS, IDCODE, SAMPLE/PRELOAD, EXTEST, CLAMP, HIGHZ, EXTEST_PULSE, EXTEST_TRAIN, HBM1500, DIESEL and TSTACC: the
instruction each loads and what its data register does; RUN turns the ones that would hold the pins or a stack into BYPASS (R430 to R438).
Where the manual leaves a point open it follows the model's own choice: log 5, 20, 24, 25, 91. -/
def Obligations.TestAccess : Prop :=
  ∀ s : State, s.glb.powered = true →
    (∃ t, exec .jtagTrst s = .next t ∧ t.tap = { s.tap with ir := .idcode, tlr := true, diesel := 1, pulse := 0, tdo := 0 }) ∧
    (∃ t, exec .testLogicReset s = .next t ∧ t.tap = { s.tap with ir := .idcode, tlr := true, diesel := 1, pulse := 0, tdo := 0 }) ∧
    (∃ t, exec .bypass s = .next t ∧ t.tap = { s.tap with ir := .bypass, tlr := false }) ∧
    (∃ t, exec .idcode s = .next t ∧ t.tap.ir = .idcode ∧ t.tap.tlr = false ∧ t.tap.tdo % 2 = 1 ∧
      t.tap.tdo / 2 % 2 ^ 11 = Config.manufacturer.toNat ∧ t.tap.tdo / 2 ^ 12 % 2 ^ 16 = (if s.glb.otp.iodGen = 2 then 0x6402 else 0x6403) ∧
      t.tap.tdo / 2 ^ 28 % 16 = s.glb.otp.rev % 16) ∧
    (∀ (pins cells : List (Nat × Bool)) (c : Nat) (v : Bool),
      ∃ t, exec (.samplePreload (pins ++ [(c, v)]) (cells ++ [(c, v)])) s = .next t ∧ t.tap.ir = .sample ∧ tget false c t.tap.sampled = v ∧
        tget false c t.tap.cells = v ∧ pinDrive t c = .functional) ∧
    (s.glb.run = false →
      (∀ (pins : List (Nat × Bool)) (c : Nat), ∃ t, exec (.extest pins) s = .next t ∧ t.tap.ir = .extest ∧ t.tap.sampled = cellTable pins ∧
        pinDrive t c = .cell (tget false c s.tap.cells) ∧ t.glb.run = false) ∧
      (∀ c : Nat, ∃ t, exec .clamp s = .next t ∧ t.tap = { s.tap with ir := .clamp, tlr := false } ∧
        pinDrive t c = .cell (tget false c s.tap.cells)) ∧
      (∀ c : Nat, ∃ t, exec .highz s = .next t ∧ t.tap = { s.tap with ir := .highz, tlr := false } ∧ pinDrive t c = .floating) ∧
      (∀ seen : BitVec 64, ∃ t, exec (.extestPulse seen) s = .next t ∧ t.tap.ir = .extestPulse ∧ t.tap.pulse = seen.toNat ∧ t.glb.run = false) ∧
      (∀ seen : BitVec 64, ∃ t, exec (.extestTrain seen) s = .next t ∧ t.tap.ir = .extestTrain ∧ t.tap.pulse = seen.toNat ∧ t.glb.run = false) ∧
      (∃ t, exec (.hbm1500 .connect) s = .next t ∧ hbmHeld t = some (regF s 0x8010 0 2) ∧ t.mem = s.mem) ∧
      (∃ t, exec (.hbm1500 .selfTest) s = .next t ∧
        (∀ a, stackOf a = regF s 0x8010 0 2 → getMem t a = Config.afterBist (tget 0 (stackOf a) s.mem.bist + 1) a) ∧
        (∀ a, stackOf a ≠ regF s 0x8010 0 2 → getMem t a = getMem s a) ∧
        (∀ h, stackOf (32 * h) = regF s 0x8010 0 2 → poisoned t h = false)) ∧
      (∀ r, ∃ t, exec (.hbm1500 (.laneTest r)) s = .next t ∧ t.tap.tdo = r) ∧
      (∀ r, ∃ t, exec (.hbm1500 (.temperature r)) s = .next t ∧ t.tap.tdo = r) ∧
      (∀ lane, ∃ t, exec (.hbm1500 (.softRepair lane)) s = .next t ∧ (regF s 0x8010 0 2, lane) ∈ t.mem.softLanes ∧
        (∀ x ∈ s.mem.softLanes, x ∈ t.mem.softLanes)) ∧
      (∀ lane, ∃ t, exec (.hbm1500 (.hardRepair lane)) s = .next t ∧ (regF s 0x8010 0 2, lane) ∈ t.glb.hardLanes ∧
        (∀ x ∈ s.glb.hardLanes, x ∈ t.glb.hardLanes))) ∧
    (s.glb.run = true →
      ∀ i ∈ [Instr.extest [], .clamp, .highz, .extestPulse 0, .extestTrain 0, .hbm1500 .connect],
        ∃ t, exec i s = .next t ∧ t.tap = { s.tap with ir := .bypass, tlr := false } ∧ Counted 176 1 s t ∧ t.mem = s.mem) ∧
    (∀ sel : Fin 32, ∃ t, exec (.diesel sel) s = .next t ∧ t.tap.ir = .diesel ∧ t.tap.diesel.testBit 0 = true ∧ t.tap.tdo = t.tap.diesel ∧
      (∀ d, d < 4 → t.tap.diesel.testBit (d + 1) = (sel.val.testBit (d + 1) && s.clk.dllLock.testBit d))) ∧
    (∀ (off : BitVec 16) (v : Word) (write bad : Bool), off.toNat / 4 * 4 < 0x8000 →
      ∃ t, exec (.tstacc off v write bad) s = .next t ∧ t.tap.ir = .tstacc ∧ t.tap.tdo = 0 ∧ t.tiles = s.tiles) ∧
    (s.glb.run = false → s.glb.runHeld = false → heldInReset s = false →
      (∀ (v : Word), ∃ t, exec (.tstacc 0x8004 v true false) s = .next t ∧ getReg t 0x8004 = v.toNat ∧ t.tap.tdo = v.toNat) ∧
      (∀ bad : Bool, ∃ t, exec (.tstacc 0x8004 0 false bad) s = .next t ∧ t.tap.tdo = readReg s 0x8004 ∧ t.regs = s.regs)) ∧
    (s.glb.run = true → s.glb.runHeld = false → ∀ (off : BitVec 16) (v : Word) (bad : Bool),
      ∃ t, exec (.tstacc off v true bad) s = .next t ∧ t.tap.tdo = 0 ∧ t.regs = s.regs ∧ t.tiles = s.tiles)
end

