-- ==== Sys2Proof/Laws/Completion.lean ====
section
/-! SUPPORT. What the operations on events, counters and completions do, said once: events and counters leave the queues and what is
posted as they were, and a completed descriptor is over with its status. -/
namespace Sys2Proof.Machine

set_option Elab.async false

/-- The submission queues are the same, and what was posted stays posted. -/
structure PostsMore (s t : State) : Prop where
  sqs : t.hif.sqs = s.hif.sqs
  posted : ∀ w ∈ s.hif.posted, w ∈ t.hif.posted

theorem PostsMore.refl (s : State) : PostsMore s s := ⟨rfl, fun _ h => h⟩

theorem PostsMore.trans {s t u : State} (a : PostsMore s t) (b : PostsMore t u) : PostsMore s u :=
  ⟨b.sqs.trans a.sqs, fun w h => b.posted w (a.posted w h)⟩

theorem PostsMore.getSq {s t : State} (h : PostsMore s t) (q : Nat) : getSq t q = getSq s q := by simp [Machine.getSq, h.sqs]

theorem setRing_posts {r g s} : PostsMore s (setRing r g s) := ⟨rfl, fun _ h => h⟩

theorem triggerRing_posts {r s} : PostsMore s (triggerRing r s) := ⟨rfl, fun _ h => h⟩

theorem post_posts {w s} : PostsMore s (post w s) := ⟨rfl, fun _ h => List.mem_append_left _ h⟩

theorem trigger_posted {c : Prop} [Decidable c] {r u} : (if c then triggerRing r u else u).hif.posted = u.hif.posted := by split <;> rfl

theorem trigger_sqs {c : Prop} [Decidable c] {r u} : (if c then triggerRing r u else u).hif.sqs = u.hif.sqs := by split <;> rfl

/-- An entry is posted as its body and its phase. -/
theorem writeEntry_posts {r body s} : PostsMore s (writeEntry r body s) ∧ ∃ a p, HostWrite.mem a (body ++ [p]) ∈ (writeEntry r body s).hif.posted := by
  have hq : (writeEntry r body s).hif.sqs = s.hif.sqs := trigger_sqs
  have hp : (writeEntry r body s).hif.posted = s.hif.posted ++ [HostWrite.mem
      ((getRing s r).base + (body.length + 1) * ((getRing s r).prod % (getRing s r).size))
      (body ++ [if (getRing s r).prod / (getRing s r).size % 2 = 0 then 1#8 else 0#8])] := trigger_posted
  exact ⟨⟨hq, fun w hw => hp ▸ List.mem_append_left _ hw⟩, _, _, hp ▸ List.mem_append_right _ (List.mem_singleton.mpr rfl)⟩

theorem drainEvents_posts : ∀ es s, PostsMore s (drainEvents es s).2
  | [], s => .refl s
  | e :: es, s => by
    unfold drainEvents
    split
    · exact writeEntry_posts.1.trans (drainEvents_posts es _)
    · exact .refl s

theorem flushBacklog_posts {s} : PostsMore s (flushBacklog s) := by
  have h := drainEvents_posts s.hif.backlog s
  exact ⟨h.sqs, h.posted⟩

theorem latchAlert_posts {b s} : PostsMore s (latchAlert b s) := ⟨rfl, fun _ h => h⟩

theorem appendOvf_posts {s} : PostsMore s (appendOvf s) := by
  unfold appendOvf
  simp only
  split
  · exact .refl s
  · exact ⟨rfl, fun _ h => h⟩

theorem pushEvent_posts {e s} : PostsMore s (pushEvent e s) := by
  unfold pushEvent
  split
  · refine .trans (appendOvf_posts (s := s)) (.trans ?_ flushBacklog_posts)
    exact ⟨rfl, fun _ h => h⟩
  · exact ⟨rfl, fun _ h => h⟩

theorem raise_posts {a b c d e s} : PostsMore s (raise a b c d e s) := by
  unfold raise
  refine .trans ?_ pushEvent_posts
  split
  · exact latchAlert_posts
  · exact .refl s

theorem bump_posts {idx n s} : PostsMore s (bump idx n s) := by
  unfold bump
  simp only
  refine .trans (t := countQuiet idx n s) ⟨rfl, fun _ h => h⟩ ?_
  split
  · exact raise_posts
  · exact .refl _

/-! ### Counters -/

theorem countQuiet_other {i j n : Nat} (h : i ≠ j) (s : State) : tget 0 i (countQuiet j n s).cnt = tget 0 i s.cnt := by
  simp [countQuiet, tget_tset_other h]

theorem pushEvent_cnt {e s} {i : Nat} (h : i ≠ 64) : tget 0 i (pushEvent e s).cnt = tget 0 i s.cnt := by
  unfold pushEvent
  split
  · have hd : ∀ es (u : State), (drainEvents es u).2.cnt = u.cnt := by
      intro es
      induction es with
      | nil => intro u; rfl
      | cons e es ih =>
        intro u
        unfold drainEvents
        split
        · rw [ih]; exact writeEntry_keeps.at .cnt rfl
        · rfl
    have hb : ∀ u : State, (flushBacklog u).cnt = u.cnt := fun u => hd u.hif.backlog u
    rw [hb]
    unfold appendOvf
    simp only
    split <;> rfl
  · exact countQuiet_other h _

theorem raise_cnt {a b c d e s} {i : Nat} (h : i ≠ 64) : tget 0 i (raise a b c d e s).cnt = tget 0 i s.cnt := by
  unfold raise
  rw [pushEvent_cnt h]
  split <;> rfl

/-- A counter but RST_BACKLOG_DROP counts what it is bumped by. -/
theorem bump_counted {i n s} (h : i ≠ 64) : Counted i n s (bump i n s) := by
  unfold Counted bump
  simp only
  split
  · exact raise_cnt h
  · rfl

theorem bump_other {i j n : Nat} (h : i ≠ j) (h' : i ≠ 64) (s : State) : tget 0 i (bump j n s).cnt = tget 0 i s.cnt := by
  unfold bump
  simp only
  split
  · exact (raise_cnt h').trans (countQuiet_other h s)
  · exact countQuiet_other h s

/-! ### Descriptors -/

@[simp] theorem getSq_setSq {q v s} : getSq (setSq q v s) q = v := by simp [getSq, setSq]

theorem getSq_setSq_other {q p : Nat} {v s} (h : p ≠ q) : getSq (setSq q v s) p = getSq s p := by simp [getSq, setSq, tget_tset_other h]

theorem findDesc_eq {s q pos} : findDesc s q pos = (getSq s q).descs.find? (openAt pos) := rfl

/-- A finished descriptor at the head of its SQ is posted or still held; those behind it are held. -/
theorem flushDescs_done (q : Nat) : ∀ (ds : List Desc) (s : State),
    PostsMore s (flushDescs q ds s).2 ∧ (∀ x ∈ (flushDescs q ds s).1, x ∈ ds) ∧
    ∀ d ∈ ds, ∀ st r0 r1 r2 time, d.st = .done st r0 r1 r2 time →
      d ∈ (flushDescs q ds s).1 ∨ ∃ idx a p, HostWrite.mem a (completionBody d q idx st r0 r1 r2 time ++ [p]) ∈ (flushDescs q ds s).2.hif.posted
  | [], s => ⟨.refl s, fun _ h => h, by simp⟩
  | d :: ds, s => by
    unfold flushDescs
    split
    · next st r0 r1 r2 time hd =>
      simp only
      split
      · let u := writeEntry (cqOf s q) (completionBody d q ((getRing s q).word d.pos % 0x10000) st r0 r1 r2 time) s
        have hw : PostsMore s u ∧ ∃ a p, HostWrite.mem a (completionBody d q ((getRing s q).word d.pos % 0x10000) st r0 r1 r2 time ++ [p]) ∈ u.hif.posted :=
          writeEntry_posts
        generalize hv : (if ((d.bytes[1]?).getD 0#8).getLsbD 1 = true then triggerRing (cqOf s q) u else u) = v
        have huv : PostsMore u v := by
          subst hv
          split
          · exact triggerRing_posts
          · exact .refl u
        obtain ⟨h1, h2, h3⟩ := flushDescs_done q ds v
        obtain ⟨a, p, hp⟩ := hw.2
        refine ⟨hw.1.trans (huv.trans h1), fun x hx => List.mem_cons_of_mem _ (h2 x hx), ?_⟩
        intro e he st' r0' r1' r2' time' hst
        rcases List.mem_cons.mp he with rfl | he
        · rw [hd] at hst
          cases hst
          exact .inr ⟨_, a, p, h1.posted _ (huv.posted _ hp)⟩
        · exact h3 e he _ _ _ _ _ hst
      · exact ⟨.refl s, fun _ h => h, fun e he _ _ _ _ _ _ => .inl he⟩
    · exact ⟨.refl s, fun _ h => h, fun e he _ _ _ _ _ _ => .inl he⟩

/-- A descriptor that is completed is over with that status and those results. -/
theorem complete_completed {q pos st r0 r1 r2 s d} (h : findDesc s q pos = some d) : Completed q pos st r0 r1 r2 (complete q pos st r0 r1 r2 s) := by
  have hany : (getSq s q).descs.any (openAt pos) = true := by
    rw [findDesc_eq] at h
    rw [List.any_eq_true]
    exact ⟨d, List.mem_of_find?_eq_some h, List.find?_some h⟩
  have hpos : ∃ e ∈ (getSq s q).descs, e.pos = pos := by
    obtain ⟨e, he, ho⟩ := List.any_eq_true.mp hany
    refine ⟨e, he, ?_⟩
    simp only [openAt, Bool.and_eq_true, decide_eq_true_eq] at ho
    exact ho.1
  unfold complete
  simp only
  rw [if_pos hany]
  let ds := (getSq s q).descs.map (fun d => if d.pos = pos then { d with st := DescSt.done st (r0 % 2 ^ 32) (r1 % 2 ^ 32) (r2 % 2 ^ 32) (devTime s % 2 ^ 32) } else d)
  let u := bump 78 1 (setSq q { getSq s q with descs := ds } s)
  change Completed q pos st r0 r1 r2 (flushSq q u)
  have hu : getSq u q = { getSq s q with descs := ds } := by rw [bump_posts.getSq]; exact getSq_setSq
  obtain ⟨h1, h2, h3⟩ := flushDescs_done q (getSq u q).descs u
  have hf : (getSq (flushSq q u) q).descs = (flushDescs q (getSq u q).descs u).1 := by
    unfold flushSq
    simp only
    rw [getSq_setSq]
  have hp : (flushSq q u).hif.posted = (flushDescs q (getSq u q).descs u).2.hif.posted := rfl
  have hdone : ∀ x ∈ ds, x.pos = pos → x.st = DescSt.done st (r0 % 2 ^ 32) (r1 % 2 ^ 32) (r2 % 2 ^ 32) (devTime s % 2 ^ 32) := by
    intro x hx hxp
    obtain ⟨y, hy, rfl⟩ := List.mem_map.mp hx
    split at hxp
    · next h => simp [h]
    · next h => exact absurd hxp h
  have hdu : (getSq u q).descs = ds := by rw [hu]
  constructor
  · rw [findDesc_eq, hf, List.find?_eq_none]
    intro x hx ho
    have hxd := h2 x hx
    rw [hdu] at hxd
    simp only [openAt, Bool.and_eq_true, decide_eq_true_eq] at ho
    simp [isDone, hdone x hxd ho.1] at ho
  · obtain ⟨e, he, hep⟩ := hpos
    have hm : { e with st := DescSt.done st (r0 % 2 ^ 32) (r1 % 2 ^ 32) (r2 % 2 ^ 32) (devTime s % 2 ^ 32) } ∈ (getSq u q).descs := by
      rw [hdu]
      exact List.mem_map.mpr ⟨e, he, by simp [hep]⟩
    rcases h3 _ hm _ _ _ _ _ rfl with h | ⟨idx, a, p, h⟩
    · exact .inl ⟨{ e with st := DescSt.done st (r0 % 2 ^ 32) (r1 % 2 ^ 32) (r2 % 2 ^ 32) (devTime s % 2 ^ 32) }, by rw [hf]; exact h, hep, _, rfl⟩
    · exact .inr ⟨{ e with st := DescSt.done st (r0 % 2 ^ 32) (r1 % 2 ^ 32) (r2 % 2 ^ 32) (devTime s % 2 ^ 32) }, idx, a, p, _, hep, by rw [hp]; exact h⟩

/-- What a descriptor's command runs on: the descriptor has started and is not over. -/
theorem startDesc_executes {q pos op sub s b} (h : runnable s q pos op sub = some b) : Executes q pos (startDesc q pos s) := by
  unfold runnable at h
  split at h
  · cases h
  · next d hd =>
    rw [findDesc_eq] at hd
    unfold Executes
    rw [findDesc_eq]
    simp only [startDesc, getSq_setSq, List.find?_map]
    have hf : (openAt pos ∘ fun d => if d.pos = pos ∧ d.st = DescSt.waiting then { d with st := DescSt.executing } else d) = openAt pos := by
      funext e
      simp only [Function.comp]
      split
      · next he => simp [openAt, isDone, he.1, he.2]
      · rfl
    rw [hf, hd]
    refine ⟨_, rfl, ?_⟩
    have ho := List.find?_some hd
    simp only [openAt, Bool.and_eq_true, decide_eq_true_eq] at ho
    dsimp only
    split
    · rfl
    · next hn =>
      cases hst : d.st with
      | waiting => exact absurd ⟨ho.1, hst⟩ hn
      | executing => rfl
      | done => simp [isDone, hst] at ho

/-- Posts and counters of other operations leave a descriptor executing. -/
theorem Executes.posts {q pos s t} (h : Executes q pos s) (hp : PostsMore s t) : Executes q pos t := by
  unfold Executes findDesc at *
  rw [hp.getSq]
  exact h

/-- A descriptor that executes and is completed is over. -/
theorem Executes.complete {q pos s} (h : Executes q pos s) (st r0 r1 r2 : Nat) : Completed q pos st r0 r1 r2 (complete q pos st r0 r1 r2 s) := by
  obtain ⟨d, hd, -⟩ := h
  exact complete_completed hd

end Sys2Proof.Machine
end

