-- ==== Sys2Proof/Laws/KeepsFaults.lean ====
section
/-! SUPPORT. What each operation and command of Machine/Faults.lean changes, and that it keeps the invariant. -/
namespace Sys2Proof.Machine

set_option Elab.async false

theorem silence_keeps {a0 s} : Keeps [.msgs, .sheaves, .waits, .yoke] s (silence a0 s) := by
  delta silence
  extract_lets -merge -underBinder +onlyGivenNames u0
  have ku0 : Keeps [.msgs, .sheaves, .waits, .yoke] s u0 := by
    refine Keeps.after ?_ (leaveSheaf_keeps ..) rfl
    exact (Keeps.refl s)
  refine Keeps.after ?_ (attach_keeps ..) rfl
  refine Keeps.after ?_ (updMsg_keeps ..) rfl
  exact ku0

theorem silenceAll_keeps {s} :
    Keeps [.cnt, .hif, .streams, .msgs, .egress, .slots, .sheaves, .groups, .plots, .waits, .yoke, .alert, .nextBuild, .nextSid] s (silenceAll s) := by
  delta silenceAll
  extract_lets -merge -underBinder +onlyGivenNames u0
  have ku0 : Keeps [.cnt, .hif, .streams, .msgs, .egress, .slots, .sheaves, .groups, .plots, .waits, .yoke, .alert, .nextBuild, .nextSid] s u0 := by
    refine keeps_each ?_ (fun x1 u2 ku2 => ?_)
    · exact (Keeps.refl s)
    · refine Keeps.after ?_ (silence_keeps ..) rfl
      exact ku2
  refine keeps_each ?_ (fun x3 u4 ku4 => ?_)
  · exact ku0
  · refine Keeps.after ?_ (settleStream_keeps ..) rfl
    exact ku4

theorem dropTraffic_keeps {s} : Keeps [.frames, .plg, .egress, .ports, .bbs] s (dropTraffic s) := by
  delta dropTraffic
  extract_lets -merge -underBinder +onlyGivenNames x0
  refine Keeps.upd_frames_plg_egress_ports_bbs ?_ rfl
  exact (Keeps.refl s)

theorem abortDescs_keeps {a0 s} : Keeps [.cnt, .hif, .alert] s (abortDescs a0 s) := by
  delta abortDescs
  refine keeps_each ?_ (fun x0 u1 ku1 => ?_)
  · exact (Keeps.refl s)
  · refine keeps_each ?_ (fun x2 u3 ku3 => ?_)
    · exact ku1
    · refine Keeps.after ?_ (complete_keeps ..) rfl
      exact ku3

theorem deviceLost_keeps {a0 s} :
    Keeps [.fatal, .regYok, .cnt, .clk, .hif, .streams, .msgs, .frames, .plg, .egress, .slots, .sheaves, .groups, .plots, .waits, .yoke, .ports, .bbs, .alert, .nextBuild, .nextSid] s (deviceLost a0 s) := by
  delta deviceLost
  refine keeps_ite ?_ ?_
  · exact (Keeps.refl s)
  · extract_lets -merge -underBinder +onlyGivenNames u0 u1 u2 u3 u4
    have ku0 : Keeps [.fatal, .regYok, .cnt, .clk, .hif, .streams, .msgs, .frames, .plg, .egress, .slots, .sheaves, .groups, .plots, .waits, .yoke, .ports, .bbs, .alert, .nextBuild, .nextSid] s u0 := by
      refine Keeps.after ?_ (abortDescs_keeps ..) rfl
      exact (Keeps.refl s)
    have ku2 : Keeps [.fatal, .regYok, .cnt, .clk, .hif, .streams, .msgs, .frames, .plg, .egress, .slots, .sheaves, .groups, .plots, .waits, .yoke, .ports, .bbs, .alert, .nextBuild, .nextSid] s u2 := by
      refine Keeps.upd_hif ?_ rfl
      exact ku0
    have ku3 : Keeps [.fatal, .regYok, .cnt, .clk, .hif, .streams, .msgs, .frames, .plg, .egress, .slots, .sheaves, .groups, .plots, .waits, .yoke, .ports, .bbs, .alert, .nextBuild, .nextSid] s u3 := by
      refine Keeps.after ?_ (dropTraffic_keeps ..) rfl
      refine Keeps.after ?_ (silenceAll_keeps ..) rfl
      exact ku2
    extract_lets -merge -underBinder +onlyGivenNames u5 u6
    have ku5 : Keeps [.fatal, .regYok, .cnt, .clk, .hif, .streams, .msgs, .frames, .plg, .egress, .slots, .sheaves, .groups, .plots, .waits, .yoke, .ports, .bbs, .alert, .nextBuild, .nextSid] s u5 := by
      refine Keeps.upd_fatal_waits ?_ rfl
      exact ku3
    have ku6 : Keeps [.fatal, .regYok, .cnt, .clk, .hif, .streams, .msgs, .frames, .plg, .egress, .slots, .sheaves, .groups, .plots, .waits, .yoke, .ports, .bbs, .alert, .nextBuild, .nextSid] s u6 := by
      refine Keeps.after ?_ (raise_keeps ..) rfl
      exact ku5
    refine keeps_ite ?_ ?_
    · refine Keeps.after ?_ (setYok_keeps ..) rfl
      exact ku6
    · refine keeps_ite ?_ ?_
      · refine Keeps.after ?_ (setYok_keeps ..) rfl
        exact ku6
      · refine Keeps.upd_yoke ?_ rfl
        exact ku6

theorem stopGroup_keeps {a0 s} :
    Keeps [.cnt, .hif, .groups, .plots, .tiles, .switches, .sus, .fab, .waits, .yoke, .links, .hrw, .alert] s (stopGroup a0 s).1 := by
  delta stopGroup
  split
  · refine keeps_fst ?_
    exact (Keeps.refl s)
  · extract_lets -merge -underBinder +onlyGivenNames x0 x1 x2 u3 u4 u5 u6
    have ku3 : Keeps [.cnt, .hif, .groups, .plots, .tiles, .switches, .sus, .fab, .waits, .yoke, .links, .hrw, .alert] s u3 := by
      unfold u3
      split
      · refine Keeps.after ?_ (settleRun_keeps ..) rfl
        exact (Keeps.refl s)
      · exact (Keeps.refl s)
    have ku4 : Keeps [.cnt, .hif, .groups, .plots, .tiles, .switches, .sus, .fab, .waits, .yoke, .links, .hrw, .alert] s u4 := by
      refine keeps_each ?_ (fun x7 u8 ku8 => ?_)
      · exact ku3
      · refine Keeps.after ?_ (clearPlot_keeps ..) rfl
        exact ku8
    have ku5 : Keeps [.cnt, .hif, .groups, .plots, .tiles, .switches, .sus, .fab, .waits, .yoke, .links, .hrw, .alert] s u5 := by
      unfold u5
      split
      · refine keeps_each ?_ (fun x9 u10 ku10 => ?_)
        · exact ku4
        · refine Keeps.after ?_ (freePlot_keeps ..) rfl
          exact ku10
      · exact ku4
    have ku6 : Keeps [.cnt, .hif, .groups, .plots, .tiles, .switches, .sus, .fab, .waits, .yoke, .links, .hrw, .alert] s u6 := by
      refine Keeps.after ?_ (updGroup_keeps ..) rfl
      exact ku5
    refine keeps_fst ?_
    exact ku6

theorem forgetDie_keeps {a0 s} : Keeps [.mem] s (forgetDie a0 s) := by
  delta forgetDie
  extract_lets -merge -underBinder +onlyGivenNames x0 x1
  refine Keeps.upd_mem ?_ rfl
  exact (Keeps.refl s)

theorem synDie_keeps {a0 s} : Keeps [.cnt, .hif, .waits, .alert] s (synDie a0 s) := by
  delta synDie
  extract_lets -merge -underBinder +onlyGivenNames x0 u1
  have ku1 : Keeps [.cnt, .hif, .waits, .alert] s u1 := by
    refine Keeps.upd_waits ?_ rfl
    exact (Keeps.refl s)
  refine keeps_each ?_ (fun x2 u3 ku3 => ?_)
  · exact ku1
  · refine Keeps.after ?_ (complete_keeps ..) rfl
    exact ku3

theorem declareDie_keeps {a0 a1 s} :
    Keeps [.fatal, .dies, .regYok, .cnt, .clk, .hif, .streams, .msgs, .frames, .plg, .egress, .slots, .sheaves, .groups, .plots, .tiles, .switches, .sus, .fab, .waits, .yoke, .mem, .ports, .bbs, .links, .hrw, .alert, .nextBuild, .nextSid] s (declareDie a0 a1 s) := by
  delta declareDie
  refine keeps_ite ?_ ?_
  · exact (Keeps.refl s)
  · extract_lets -merge -underBinder +onlyGivenNames u0 x1 x2 x3
    have kx1 : Keeps [.fatal, .dies, .regYok, .cnt, .clk, .hif, .streams, .msgs, .frames, .plg, .egress, .slots, .sheaves, .groups, .plots, .tiles, .switches, .sus, .fab, .waits, .yoke, .mem, .ports, .bbs, .links, .hrw, .alert, .nextBuild, .nextSid] s x1 := by
      refine Keeps.upd_dies ?_ rfl
      exact (Keeps.refl s)
    extract_lets -merge -underBinder +onlyGivenNames x4
    split
    rename_i x5 u6 x7 hq8
    have ku6 : Keeps [.fatal, .dies, .regYok, .cnt, .clk, .hif, .streams, .msgs, .frames, .plg, .egress, .slots, .sheaves, .groups, .plots, .tiles, .switches, .sus, .fab, .waits, .yoke, .mem, .ports, .bbs, .links, .hrw, .alert, .nextBuild, .nextSid] s u6 := by
      have hp : Keeps [.fatal, .dies, .regYok, .cnt, .clk, .hif, .streams, .msgs, .frames, .plg, .egress, .slots, .sheaves, .groups, .plots, .tiles, .switches, .sus, .fab, .waits, .yoke, .mem, .ports, .bbs, .links, .hrw, .alert, .nextBuild, .nextSid] s (Prod.fst (u6, x7)) := by
        rw [← hq8]
        refine keeps_foldl_p (p := Prod.fst) ?_ (fun u10 x9 ku10 => ?_)
        · refine keeps_fst ?_
          exact kx1
        · extract_lets -merge -underBinder +onlyGivenNames x11
          refine keeps_fst ?_
          unfold x11
          refine Keeps.after ?_ (stopGroup_keeps ..) rfl
          exact ku10
      exact hp
    extract_lets -merge -underBinder +onlyGivenNames x12 u13 u14 u15 u16 u17 x18 u19
    have ku13 : Keeps [.fatal, .dies, .regYok, .cnt, .clk, .hif, .streams, .msgs, .frames, .plg, .egress, .slots, .sheaves, .groups, .plots, .tiles, .switches, .sus, .fab, .waits, .yoke, .mem, .ports, .bbs, .links, .hrw, .alert, .nextBuild, .nextSid] s u13 := by
      refine keeps_each ?_ (fun x20 u21 ku21 => ?_)
      · exact ku6
      · refine Keeps.after ?_ (setBank_keeps ..) rfl
        exact ku21
    have ku14 : Keeps [.fatal, .dies, .regYok, .cnt, .clk, .hif, .streams, .msgs, .frames, .plg, .egress, .slots, .sheaves, .groups, .plots, .tiles, .switches, .sus, .fab, .waits, .yoke, .mem, .ports, .bbs, .links, .hrw, .alert, .nextBuild, .nextSid] s u14 := by
      refine keeps_each ?_ (fun x22 u23 ku23 => ?_)
      · exact ku13
      · refine Keeps.after ?_ (leaveSheaf_keeps ..) rfl
        refine Keeps.after ?_ (updMsg_keeps ..) rfl
        exact ku23
    have ku15 : Keeps [.fatal, .dies, .regYok, .cnt, .clk, .hif, .streams, .msgs, .frames, .plg, .egress, .slots, .sheaves, .groups, .plots, .tiles, .switches, .sus, .fab, .waits, .yoke, .mem, .ports, .bbs, .links, .hrw, .alert, .nextBuild, .nextSid] s u15 := by
      refine keeps_each ?_ (fun x24 u25 ku25 => ?_)
      · exact ku14
      · refine Keeps.after ?_ (failMsg_keeps ..) rfl
        exact ku25
    have ku16 : Keeps [.fatal, .dies, .regYok, .cnt, .clk, .hif, .streams, .msgs, .frames, .plg, .egress, .slots, .sheaves, .groups, .plots, .tiles, .switches, .sus, .fab, .waits, .yoke, .mem, .ports, .bbs, .links, .hrw, .alert, .nextBuild, .nextSid] s u16 := by
      refine Keeps.after ?_ (synDie_keeps ..) rfl
      refine Keeps.after ?_ (forgetDie_keeps ..) rfl
      exact ku15
    have kx18 : Keeps [.fatal, .dies, .regYok, .cnt, .clk, .hif, .streams, .msgs, .frames, .plg, .egress, .slots, .sheaves, .groups, .plots, .tiles, .switches, .sus, .fab, .waits, .yoke, .mem, .ports, .bbs, .links, .hrw, .alert, .nextBuild, .nextSid] s x18 := by
      refine Keeps.after ?_ (setYd_keeps ..) rfl
      exact ku16
    extract_lets -merge -underBinder +onlyGivenNames u26
    have ku26 : Keeps [.fatal, .dies, .regYok, .cnt, .clk, .hif, .streams, .msgs, .frames, .plg, .egress, .slots, .sheaves, .groups, .plots, .tiles, .switches, .sus, .fab, .waits, .yoke, .mem, .ports, .bbs, .links, .hrw, .alert, .nextBuild, .nextSid] s u26 := by
      refine Keeps.after ?_ (raise_keeps ..) rfl
      exact kx18
    refine keeps_ite ?_ ?_
    · refine Keeps.after ?_ (deviceLost_keeps ..) rfl
      exact ku26
    · exact ku26

theorem dllLost_keeps {a0 a1 s} :
    Keeps [.fatal, .dies, .regYok, .cnt, .clk, .hif, .streams, .msgs, .frames, .plg, .egress, .slots, .sheaves, .groups, .plots, .tiles, .switches, .sus, .fab, .waits, .yoke, .mem, .ports, .bbs, .links, .hrw, .alert, .nextBuild, .nextSid] s (dllLost a0 a1 s) := by
  delta dllLost
  refine keeps_ite ?_ ?_
  · exact (Keeps.refl s)
  · refine Keeps.after ?_ (declareDie_keeps ..) rfl
    refine Keeps.after ?_ (raise_keeps ..) rfl
    refine Keeps.upd_clk ?_ rfl
    exact (Keeps.refl s)

theorem execDllLost_keeps {a0 a1 s} :
    KeepsOut [.fatal, .dies, .regYok, .cnt, .clk, .hif, .streams, .msgs, .frames, .plg, .egress, .slots, .sheaves, .groups, .plots, .tiles, .switches, .sus, .fab, .waits, .yoke, .mem, .ports, .bbs, .links, .hrw, .alert, .nextBuild, .nextSid] s (execDllLost a0 a1 s) := by
  delta execDllLost
  refine out_next ?_
  refine Keeps.after ?_ (bbSettle_keeps ..) rfl
  refine Keeps.after ?_ (dllLost_keeps ..) rfl
  exact (Keeps.refl s)

theorem execStackLoss_keeps {a0 s} :
    KeepsOut [.fatal, .dies, .regYok, .cnt, .clk, .hif, .streams, .msgs, .frames, .plg, .egress, .slots, .sheaves, .groups, .plots, .tiles, .switches, .sus, .fab, .waits, .yoke, .mem, .ports, .bbs, .links, .hrw, .alert, .nextBuild, .nextSid] s (execStackLoss a0 s) := by
  delta execStackLoss
  refine out_next ?_
  refine keeps_ite ?_ ?_
  · refine Keeps.after ?_ (bbSettle_keeps ..) rfl
    refine Keeps.after ?_ (declareDie_keeps ..) rfl
    exact (Keeps.refl s)
  · exact (Keeps.refl s)

theorem rePlace_keeps {a0 a1 s} :
    Keeps [.cnt, .hif, .streams, .msgs, .egress, .slots, .sheaves, .groups, .plots, .tiles, .switches, .sus, .fab, .waits, .yoke, .links, .hrw, .trc, .alert, .nextBuild, .nextSid] s (rePlace a0 a1 s).1 := by
  delta rePlace
  extract_lets -merge -underBinder +onlyGivenNames u0 u1 u2 u3 u4 x5
  have ku0 : Keeps [.cnt, .hif, .streams, .msgs, .egress, .slots, .sheaves, .groups, .plots, .tiles, .switches, .sus, .fab, .waits, .yoke, .links, .hrw, .trc, .alert, .nextBuild, .nextSid] s u0 := by
    refine Keeps.after ?_ (replant_keeps ..) rfl
    exact (Keeps.refl s)
  have ku1 : Keeps [.cnt, .hif, .streams, .msgs, .egress, .slots, .sheaves, .groups, .plots, .tiles, .switches, .sus, .fab, .waits, .yoke, .links, .hrw, .trc, .alert, .nextBuild, .nextSid] s u1 := by
    refine keeps_each ?_ (fun x6 u7 ku7 => ?_)
    · exact ku0
    · refine Keeps.after ?_ (freePlot_keeps ..) rfl
      exact ku7
  have ku2 : Keeps [.cnt, .hif, .streams, .msgs, .egress, .slots, .sheaves, .groups, .plots, .tiles, .switches, .sus, .fab, .waits, .yoke, .links, .hrw, .trc, .alert, .nextBuild, .nextSid] s u2 := by
    refine Keeps.after ?_ (updPlot_keeps ..) rfl
    exact ku1
  have ku3 : Keeps [.cnt, .hif, .streams, .msgs, .egress, .slots, .sheaves, .groups, .plots, .tiles, .switches, .sus, .fab, .waits, .yoke, .links, .hrw, .trc, .alert, .nextBuild, .nextSid] s u3 := by
    refine Keeps.after ?_ (updGroup_keeps ..) rfl
    exact ku2
  have ku4 : Keeps [.cnt, .hif, .streams, .msgs, .egress, .slots, .sheaves, .groups, .plots, .tiles, .switches, .sus, .fab, .waits, .yoke, .links, .hrw, .trc, .alert, .nextBuild, .nextSid] s u4 := by
    refine Keeps.after ?_ (readySheaves_keeps ..) rfl
    refine Keeps.after ?_ (placeUnplaced_keeps ..) rfl
    exact ku3
  refine keeps_fst ?_
  exact ku4

theorem plotFatal_keeps {a0 s} :
    Keeps [.fatal, .dies, .regYok, .cnt, .clk, .hif, .streams, .msgs, .frames, .plg, .egress, .slots, .sheaves, .groups, .plots, .tiles, .switches, .sus, .fab, .waits, .yoke, .mem, .ports, .bbs, .links, .hrw, .trc, .alert, .nextBuild, .nextSid] s (plotFatal a0 s) := by
  delta plotFatal
  refine keeps_ite ?_ ?_
  · exact (Keeps.refl s)
  · refine keeps_ite ?_ ?_
    · refine Keeps.after ?_ (declareDie_keeps ..) rfl
      exact (Keeps.refl s)
    · split
      rename_i x0 u1 x2 hq3
      have ku1 : Keeps [.fatal, .dies, .regYok, .cnt, .clk, .hif, .streams, .msgs, .frames, .plg, .egress, .slots, .sheaves, .groups, .plots, .tiles, .switches, .sus, .fab, .waits, .yoke, .mem, .ports, .bbs, .links, .hrw, .trc, .alert, .nextBuild, .nextSid] s u1 := by
        have hp : Keeps [.fatal, .dies, .regYok, .cnt, .clk, .hif, .streams, .msgs, .frames, .plg, .egress, .slots, .sheaves, .groups, .plots, .tiles, .switches, .sus, .fab, .waits, .yoke, .mem, .ports, .bbs, .links, .hrw, .trc, .alert, .nextBuild, .nextSid] s (Prod.fst (u1, x2)) := by
          rw [← hq3]
          split
          · refine Keeps.after ?_ (rePlace_keeps ..) rfl
            exact (Keeps.refl s)
          · refine keeps_fst ?_
            refine Keeps.after ?_ (updPlot_keeps ..) rfl
            exact (Keeps.refl s)
        exact hp
      refine Keeps.after ?_ (raiseOn_keeps ..) rfl
      exact ku1

theorem plotError_keeps {a0 s} :
    Keeps [.fatal, .dies, .regYok, .cnt, .clk, .hif, .streams, .msgs, .frames, .plg, .egress, .slots, .sheaves, .groups, .plots, .tiles, .switches, .sus, .fab, .waits, .yoke, .mem, .ports, .bbs, .links, .hrw, .trc, .alert, .nextBuild, .nextSid] s (plotError a0 s) := by
  delta plotError
  extract_lets -merge -underBinder +onlyGivenNames x0 x1 u2
  have ku2 : Keeps [.fatal, .dies, .regYok, .cnt, .clk, .hif, .streams, .msgs, .frames, .plg, .egress, .slots, .sheaves, .groups, .plots, .tiles, .switches, .sus, .fab, .waits, .yoke, .mem, .ports, .bbs, .links, .hrw, .trc, .alert, .nextBuild, .nextSid] s u2 := by
    refine Keeps.after ?_ (updPlot_keeps ..) rfl
    exact (Keeps.refl s)
  refine keeps_ite ?_ ?_
  · refine Keeps.after ?_ (plotFatal_keeps ..) rfl
    exact ku2
  · exact ku2

theorem execPlotLdoFault_keeps {a0 s} :
    KeepsOut [.fatal, .dies, .regYok, .cnt, .clk, .hif, .streams, .msgs, .frames, .plg, .egress, .slots, .sheaves, .groups, .plots, .tiles, .switches, .sus, .fab, .waits, .yoke, .mem, .ports, .bbs, .links, .hrw, .trc, .alert, .nextBuild, .nextSid] s (execPlotLdoFault a0 s) := by
  delta execPlotLdoFault
  refine out_next ?_
  refine keeps_ite ?_ ?_
  · refine Keeps.after ?_ (bbSettle_keeps ..) rfl
    refine Keeps.after ?_ (plotFatal_keeps ..) rfl
    exact (Keeps.refl s)
  · exact (Keeps.refl s)

theorem execPlotSensorCheck_keeps {a0 a1 s} :
    KeepsOut [.fatal, .dies, .regYok, .cnt, .clk, .hif, .streams, .msgs, .frames, .plg, .egress, .slots, .sheaves, .groups, .plots, .tiles, .switches, .sus, .fab, .waits, .yoke, .mem, .ports, .bbs, .links, .hrw, .trc, .alert, .nextBuild, .nextSid] s (execPlotSensorCheck a0 a1 s) := by
  delta execPlotSensorCheck
  refine out_next ?_
  refine keeps_ite ?_ ?_
  · refine Keeps.after ?_ (bbSettle_keeps ..) rfl
    refine Keeps.after ?_ (plotFatal_keeps ..) rfl
    exact (Keeps.refl s)
  · exact (Keeps.refl s)

theorem execPlacementRetry_keeps {s} :
    KeepsOut [.cnt, .hif, .streams, .msgs, .egress, .slots, .sheaves, .groups, .plots, .tiles, .switches, .sus, .fab, .waits, .yoke, .bbs, .links, .hrw, .alert, .nextBuild, .nextSid] s (execPlacementRetry s) := by
  delta execPlacementRetry
  refine out_next ?_
  refine keeps_ite ?_ ?_
  · refine Keeps.after ?_ (bbSettle_keeps ..) rfl
    refine Keeps.after ?_ (readySheaves_keeps ..) rfl
    refine Keeps.after ?_ (placeUnplaced_keeps ..) rfl
    exact (Keeps.refl s)
  · exact (Keeps.refl s)

theorem plotUncorr_keeps {a0 a1 a2 s} :
    Keeps [.fatal, .dies, .regYok, .cnt, .clk, .hif, .streams, .msgs, .frames, .plg, .egress, .slots, .sheaves, .groups, .plots, .tiles, .switches, .sus, .fab, .waits, .yoke, .mem, .ports, .bbs, .links, .hrw, .trc, .alert, .nextBuild, .nextSid] s (plotUncorr a0 a1 a2 s) := by
  delta plotUncorr
  split
  · exact (Keeps.refl s)
  · extract_lets -merge -underBinder +onlyGivenNames x0 u1 u2 u3
    have ku1 : Keeps [.fatal, .dies, .regYok, .cnt, .clk, .hif, .streams, .msgs, .frames, .plg, .egress, .slots, .sheaves, .groups, .plots, .tiles, .switches, .sus, .fab, .waits, .yoke, .mem, .ports, .bbs, .links, .hrw, .trc, .alert, .nextBuild, .nextSid] s u1 := by
      refine Keeps.after ?_ (updPlot_keeps ..) rfl
      exact (Keeps.refl s)
    have ku2 : Keeps [.fatal, .dies, .regYok, .cnt, .clk, .hif, .streams, .msgs, .frames, .plg, .egress, .slots, .sheaves, .groups, .plots, .tiles, .switches, .sus, .fab, .waits, .yoke, .mem, .ports, .bbs, .links, .hrw, .trc, .alert, .nextBuild, .nextSid] s u2 := by
      refine Keeps.after ?_ (raiseOn_keeps ..) rfl
      refine Keeps.after ?_ (bump_keeps ..) rfl
      exact ku1
    have ku3 : Keeps [.fatal, .dies, .regYok, .cnt, .clk, .hif, .streams, .msgs, .frames, .plg, .egress, .slots, .sheaves, .groups, .plots, .tiles, .switches, .sus, .fab, .waits, .yoke, .mem, .ports, .bbs, .links, .hrw, .trc, .alert, .nextBuild, .nextSid] s u3 := by
      refine keeps_ite ?_ ?_
      · refine Keeps.after ?_ (updGroup_keeps ..) rfl
        exact ku2
      · exact ku2
    refine Keeps.after ?_ (plotError_keeps ..) rfl
    refine keeps_ite ?_ ?_
    · refine Keeps.after ?_ (markPass_keeps ..) rfl
      exact ku3
    · exact ku3

theorem execPlotBufferUncorr_keeps {a0 a1 a2 s} :
    KeepsOut [.fatal, .dies, .regYok, .cnt, .clk, .hif, .streams, .msgs, .frames, .plg, .egress, .slots, .sheaves, .groups, .plots, .tiles, .switches, .sus, .fab, .waits, .yoke, .mem, .ports, .bbs, .links, .hrw, .trc, .alert, .nextBuild, .nextSid] s (execPlotBufferUncorr a0 a1 a2 s) := by
  delta execPlotBufferUncorr
  refine out_next ?_
  refine Keeps.after ?_ (bbSettle_keeps ..) rfl
  refine Keeps.after ?_ (plotUncorr_keeps ..) rfl
  exact (Keeps.refl s)

end Sys2Proof.Machine
end

