-- ==== Sys2Proof/Laws/KeepsTileScalar.lean ====
section
/-! SUPPORT. What each operation and command of Machine/TileScalar.lean changes, and that it keeps the invariant. -/
namespace Sys2Proof.Machine

set_option Elab.async false

theorem fireState_keeps {a0 s} : Keeps [.cnt, .hif, .tiles, .alert] s (fireState a0 s) := by
  delta fireState
  extract_lets -merge -underBinder +onlyGivenNames x0
  refine keeps_ite ?_ ?_
  · exact (Keeps.refl s)
  · split
    · refine Keeps.after ?_ (noteStall_keeps ..) rfl
      exact (Keeps.refl s)
    · extract_lets -merge -underBinder +onlyGivenNames x1 x2 x3
      refine Keeps.after ?_ (setTile_keeps ..) rfl
      exact (Keeps.refl s)

theorem sendState_keeps {a0 s} :
    Keeps [.cnt, .hif, .streams, .msgs, .egress, .slots, .sheaves, .groups, .plots, .tiles, .sus, .fab, .waits, .yoke, .links, .trc, .alert, .nextBuild, .nextSid] s (sendState a0 s) := by
  delta sendState
  refine keeps_ite ?_ ?_
  · exact (Keeps.refl s)
  · extract_lets -merge -underBinder +onlyGivenNames x0 x1 x2 x3
    refine keeps_ite ?_ ?_
    · refine Keeps.after ?_ (tileFault_keeps ..) rfl
      exact (Keeps.refl s)
    · refine keeps_ite ?_ ?_
      · refine Keeps.after ?_ (tileFault_keeps ..) rfl
        exact (Keeps.refl s)
      · extract_lets -merge -underBinder +onlyGivenNames x4 x5
        refine keeps_ite ?_ ?_
        · refine Keeps.after ?_ (setTile_keeps ..) rfl
          exact (Keeps.refl s)
        · extract_lets -merge -underBinder +onlyGivenNames u6
          have ku6 : Keeps [.cnt, .hif, .streams, .msgs, .egress, .slots, .sheaves, .groups, .plots, .tiles, .sus, .fab, .waits, .yoke, .links, .trc, .alert, .nextBuild, .nextSid] s u6 := by
            refine Keeps.after ?_ (setTile_keeps ..) rfl
            exact (Keeps.refl s)
          refine keeps_ite ?_ ?_
          · refine Keeps.after ?_ (tapToken_keeps ..) rfl
            refine Keeps.after ?_ (pmuCount_keeps ..) rfl
            refine Keeps.upd_fab ?_ rfl
            exact ku6
          · refine keeps_ite ?_ ?_
            · refine Keeps.after ?_ (orphan_keeps ..) rfl
              exact ku6
            · refine Keeps.after ?_ (flowAll_keeps ..) rfl
              refine Keeps.after ?_ (pushFifo_keeps ..) rfl
              exact ku6

theorem recvState_keeps {a0 s} : Keeps [.cnt, .hif, .tiles, .links, .trc, .alert] s (recvState a0 s) := by
  delta recvState
  refine keeps_ite ?_ ?_
  · exact (Keeps.refl s)
  · extract_lets -merge -underBinder +onlyGivenNames x0 x1 x2
    refine keeps_ite ?_ ?_
    · refine Keeps.after ?_ (tileFault_keeps ..) rfl
      exact (Keeps.refl s)
    · split
      · refine Keeps.after ?_ (noteStall_keeps ..) rfl
        refine Keeps.after ?_ (setTile_keeps ..) rfl
        exact (Keeps.refl s)
      · refine Keeps.after ?_ (setTile_keeps ..) rfl
        exact (Keeps.refl s)

theorem tagState_keeps {a0 s} :
    Keeps [.cnt, .hif, .streams, .msgs, .egress, .slots, .sheaves, .groups, .plots, .tiles, .waits, .yoke, .links, .trc, .alert, .nextBuild, .nextSid] s (tagState a0 s) := by
  delta tagState
  refine keeps_ite ?_ ?_
  · exact (Keeps.refl s)
  · extract_lets -merge -underBinder +onlyGivenNames x0
    refine keeps_ite ?_ ?_
    · refine Keeps.after ?_ (tileFault_keeps ..) rfl
      exact (Keeps.refl s)
    · split
      extract_lets -merge -underBinder +onlyGivenNames u1
      have ku1 : Keeps [.cnt, .hif, .streams, .msgs, .egress, .slots, .sheaves, .groups, .plots, .tiles, .waits, .yoke, .links, .trc, .alert, .nextBuild, .nextSid] s u1 := by
        refine Keeps.after ?_ (setTile_keeps ..) rfl
        exact (Keeps.refl s)
      refine keeps_ite ?_ ?_
      · refine Keeps.after ?_ (taintOwners_keeps ..) rfl
        refine Keeps.after ?_ (bump_keeps ..) rfl
        exact ku1
      · exact ku1

theorem acceptEvent_keeps {a0 s} : Keeps [.cnt, .hif, .tiles, .links, .trc, .alert] s (acceptEvent a0 s) := by
  delta acceptEvent
  split
  · refine keeps_ite ?_ ?_
    · refine Keeps.after ?_ (raiseOn_keeps ..) rfl
      refine Keeps.after ?_ (updTile_keeps ..) rfl
      exact (Keeps.refl s)
    · exact (Keeps.refl s)
  · exact (Keeps.refl s)

theorem acceptEvents_keeps {a0 s} : Keeps [.cnt, .hif, .tiles, .links, .trc, .alert] s (acceptEvents a0 s) := by
  delta acceptEvents
  refine keeps_each ?_ (fun x0 u1 ku1 => ?_)
  · exact (Keeps.refl s)
  · refine Keeps.after ?_ (acceptEvent_keeps ..) rfl
    exact ku1

theorem eventState_keeps {a0 s} : Keeps [.cnt, .hif, .tiles, .links, .trc, .alert] s (eventState a0 s) := by
  delta eventState
  refine keeps_ite ?_ ?_
  · exact (Keeps.refl s)
  · extract_lets -merge -underBinder +onlyGivenNames x0 x1
    refine keeps_ite ?_ ?_
    · refine Keeps.after ?_ (tileFault_keeps ..) rfl
      exact (Keeps.refl s)
    · refine keeps_ite ?_ ?_
      · refine Keeps.after ?_ (setTile_keeps ..) rfl
        exact (Keeps.refl s)
      · extract_lets -merge -underBinder +onlyGivenNames x2 x3 x4 u5
        extract_lets -merge -underBinder +onlyGivenNames u6
        have ku6 : Keeps [.cnt, .hif, .tiles, .links, .trc, .alert] s u6 := by
          refine Keeps.after ?_ (bump_keeps ..) rfl
          refine Keeps.after ?_ (setTile_keeps ..) rfl
          exact (Keeps.refl s)
        refine Keeps.after ?_ (acceptEvent_keeps ..) rfl
        refine Keeps.after ?_ (capture_keeps ..) rfl
        exact ku6

theorem brState_keeps {a0 s} : Keeps [.cnt, .hif, .tiles, .links, .trc, .alert] s (brState a0 s) := by
  delta brState
  refine keeps_ite ?_ ?_
  · exact (Keeps.refl s)
  · extract_lets -merge -underBinder +onlyGivenNames x0 x1
    refine keeps_ite ?_ ?_
    · refine Keeps.after ?_ (setTile_keeps ..) rfl
      exact (Keeps.refl s)
    · refine keeps_ite ?_ ?_
      · refine Keeps.after ?_ (tileFault_keeps ..) rfl
        exact (Keeps.refl s)
      · refine Keeps.after ?_ (setTile_keeps ..) rfl
        exact (Keeps.refl s)

theorem haltState_keeps {a0 s} : Keeps [.cnt, .hif, .tiles, .links, .trc, .alert] s (haltState a0 s) := by
  delta haltState
  refine keeps_ite ?_ ?_
  · exact (Keeps.refl s)
  · refine keeps_ite ?_ ?_
    · refine Keeps.after ?_ (tileFault_keeps ..) rfl
      exact (Keeps.refl s)
    · refine Keeps.after ?_ (noteStall_keeps ..) rfl
      refine Keeps.after ?_ (setTile_keeps ..) rfl
      exact (Keeps.refl s)

theorem takeToken_keeps {a0 a1 a2 s} :
    Keeps [.cnt, .hif, .streams, .msgs, .egress, .slots, .sheaves, .groups, .plots, .tiles, .waits, .yoke, .alert, .nextBuild, .nextSid] s (takeToken a0 a1 a2 s) := by
  delta takeToken
  extract_lets -merge -underBinder +onlyGivenNames x0 x1
  refine keeps_ite ?_ ?_
  · refine Keeps.after ?_ (discardStale_keeps ..) rfl
    exact (Keeps.refl s)
  · split
    · refine Keeps.after ?_ (taintOwners_keeps ..) rfl
      refine Keeps.after ?_ (bump_keeps ..) rfl
      exact (Keeps.refl s)
    · extract_lets -merge -underBinder +onlyGivenNames x2 x3
      refine Keeps.after ?_ (noteStall_keeps ..) rfl
      refine Keeps.after ?_ (setTile_keeps ..) rfl
      exact (Keeps.refl s)

theorem takeHead_keeps {a0 a1 a2 s} : Keeps [.fab] s (takeHead a0 a1 a2 s) := by
  delta takeHead
  refine keeps_ite ?_ ?_
  · refine Keeps.after ?_ (setFeed_keeps ..) rfl
    exact (Keeps.refl s)
  · extract_lets -merge -underBinder +onlyGivenNames x0
    split
    · refine Keeps.after ?_ (settleHead_keeps ..) rfl
      exact (Keeps.refl s)
    · exact (Keeps.refl s)

theorem readBuffer_keeps {a0 a1 a2 s} :
    Keeps [.fatal, .dies, .regYok, .cnt, .clk, .hif, .streams, .msgs, .frames, .plg, .egress, .slots, .sheaves, .groups, .plots, .tiles, .switches, .sus, .fab, .waits, .yoke, .mem, .ports, .bbs, .links, .hrw, .trc, .alert, .nextBuild, .nextSid] s (readBuffer a0 a1 a2 s).1 := by
  delta readBuffer
  extract_lets -merge -underBinder +onlyGivenNames x0 x1
  refine keeps_fst ?_
  refine keeps_each ?_ (fun x2 u3 ku3 => ?_)
  · refine Keeps.after ?_ (bump_keeps ..) rfl
    exact (Keeps.refl s)
  · refine Keeps.after ?_ (plotUncorr_keeps ..) rfl
    exact ku3

theorem feedSource_keeps {a0 a1 a2 a3 s} :
    Keeps [.fatal, .dies, .regYok, .cnt, .clk, .hif, .streams, .msgs, .frames, .plg, .egress, .slots, .sheaves, .groups, .plots, .tiles, .switches, .sus, .fab, .waits, .yoke, .mem, .ports, .bbs, .links, .hrw, .trc, .alert, .nextBuild, .nextSid] s (feedSource a0 a1 a2 a3 s).1 := by
  delta feedSource
  split
  · refine keeps_fst ?_
    exact (Keeps.refl s)
  · refine Keeps.after ?_ (readBuffer_keeps ..) rfl
    exact (Keeps.refl s)
  · refine keeps_fst ?_
    exact (Keeps.refl s)

theorem feedToken_keeps {a0 a1 s} :
    Keeps [.fatal, .dies, .regYok, .cnt, .clk, .hif, .streams, .msgs, .frames, .plg, .egress, .slots, .sheaves, .groups, .plots, .tiles, .switches, .sus, .fab, .waits, .yoke, .mem, .ports, .bbs, .links, .hrw, .trc, .alert, .nextBuild, .nextSid] s (feedToken a0 a1 s) := by
  delta feedToken
  split
  · exact (Keeps.refl s)
  · extract_lets -merge -underBinder +onlyGivenNames x0
    split
    rename_i x1 u2 x3 hq4
    have ku2 : Keeps [.fatal, .dies, .regYok, .cnt, .clk, .hif, .streams, .msgs, .frames, .plg, .egress, .slots, .sheaves, .groups, .plots, .tiles, .switches, .sus, .fab, .waits, .yoke, .mem, .ports, .bbs, .links, .hrw, .trc, .alert, .nextBuild, .nextSid] s u2 := by
      have hp : Keeps [.fatal, .dies, .regYok, .cnt, .clk, .hif, .streams, .msgs, .frames, .plg, .egress, .slots, .sheaves, .groups, .plots, .tiles, .switches, .sus, .fab, .waits, .yoke, .mem, .ports, .bbs, .links, .hrw, .trc, .alert, .nextBuild, .nextSid] s (Prod.fst (u2, x3)) := by
        rw [← hq4]
        refine Keeps.after ?_ (feedSource_keeps ..) rfl
        exact (Keeps.refl s)
      exact hp
    extract_lets -merge -underBinder +onlyGivenNames x5 x6
    refine Keeps.after ?_ (setFeed_keeps ..) rfl
    exact ku2

theorem arrival_keeps {a0 a1 s} :
    Keeps [.fatal, .dies, .regYok, .cnt, .clk, .hif, .streams, .msgs, .frames, .plg, .egress, .slots, .sheaves, .groups, .plots, .tiles, .switches, .sus, .fab, .waits, .yoke, .mem, .ports, .bbs, .links, .hrw, .trc, .alert, .nextBuild, .nextSid] s (arrival a0 a1 s) := by
  delta arrival
  extract_lets -merge -underBinder +onlyGivenNames u0 x1
  have ku0 : Keeps [.fatal, .dies, .regYok, .cnt, .clk, .hif, .streams, .msgs, .frames, .plg, .egress, .slots, .sheaves, .groups, .plots, .tiles, .switches, .sus, .fab, .waits, .yoke, .mem, .ports, .bbs, .links, .hrw, .trc, .alert, .nextBuild, .nextSid] s u0 := by
    unfold u0
    split
    · refine Keeps.after ?_ (feedToken_keeps ..) rfl
      exact (Keeps.refl s)
    · exact (Keeps.refl s)
  refine keeps_ite ?_ ?_
  · exact ku0
  · split
    · exact ku0
    · refine keeps_ite ?_ ?_
      · refine Keeps.after ?_ (noteStall_keeps ..) rfl
        exact ku0
      · split
        · exact ku0
        · extract_lets -merge -underBinder +onlyGivenNames u2 u3
          have ku2 : Keeps [.fatal, .dies, .regYok, .cnt, .clk, .hif, .streams, .msgs, .frames, .plg, .egress, .slots, .sheaves, .groups, .plots, .tiles, .switches, .sus, .fab, .waits, .yoke, .mem, .ports, .bbs, .links, .hrw, .trc, .alert, .nextBuild, .nextSid] s u2 := by
            refine Keeps.after ?_ (takeHead_keeps ..) rfl
            refine Keeps.after ?_ (updTile_keeps ..) rfl
            exact ku0
          have ku3 : Keeps [.fatal, .dies, .regYok, .cnt, .clk, .hif, .streams, .msgs, .frames, .plg, .egress, .slots, .sheaves, .groups, .plots, .tiles, .switches, .sus, .fab, .waits, .yoke, .mem, .ports, .bbs, .links, .hrw, .trc, .alert, .nextBuild, .nextSid] s u3 := by
            refine keeps_ite ?_ ?_
            · refine Keeps.after ?_ (pmuCount_keeps ..) rfl
              exact ku2
            · exact ku2
          refine Keeps.after ?_ (flowAll_keeps ..) rfl
          refine Keeps.after ?_ (takeToken_keeps ..) rfl
          exact ku3

theorem execTokenArrival_keeps {a0 a1 s} :
    KeepsOut [.fatal, .dies, .regYok, .cnt, .clk, .hif, .streams, .msgs, .frames, .plg, .egress, .slots, .sheaves, .groups, .plots, .tiles, .switches, .sus, .fab, .waits, .yoke, .mem, .ports, .bbs, .links, .hrw, .trc, .alert, .nextBuild, .nextSid] s (execTokenArrival a0 a1 s) := by
  delta execTokenArrival
  refine out_next ?_
  refine Keeps.after ?_ (arrival_keeps ..) rfl
  exact (Keeps.refl s)

theorem execBlockFire_keeps {a0 s} : KeepsOut [.cnt, .hif, .tiles, .alert] s (execBlockFire a0 s) := by
  delta execBlockFire
  refine out_next ?_
  refine Keeps.after ?_ (fireState_keeps ..) rfl
  exact (Keeps.refl s)

theorem execSuFire_keeps {a0 s} :
    KeepsOut [.cnt, .hif, .streams, .msgs, .egress, .slots, .sheaves, .groups, .plots, .sus, .fab, .waits, .yoke, .links, .alert, .nextBuild, .nextSid] s (execSuFire a0 s) := by
  delta execSuFire
  refine out_next ?_
  refine Keeps.after ?_ (suFire_keeps ..) rfl
  exact (Keeps.refl s)

theorem execNop_keeps {a0 s} : KeepsOut [.cnt, .hif, .tiles, .links, .trc, .alert] s (execNop a0 s) := by
  delta execNop
  refine out_next ?_
  refine Keeps.after ?_ (tileInstr_keeps ..) rfl
  exact (Keeps.refl s)

theorem execAlu_keeps {a0 s} : KeepsOut [.cnt, .hif, .tiles, .links, .trc, .alert] s (execAlu a0 s) := by
  delta execAlu
  refine out_next ?_
  refine Keeps.after ?_ (tileInstr_keeps ..) rfl
  exact (Keeps.refl s)

theorem execAddi_keeps {a0 s} : KeepsOut [.cnt, .hif, .tiles, .links, .trc, .alert] s (execAddi a0 s) := by
  delta execAddi
  refine out_next ?_
  refine Keeps.after ?_ (tileInstr_keeps ..) rfl
  exact (Keeps.refl s)

theorem execAndi_keeps {a0 s} : KeepsOut [.cnt, .hif, .tiles, .links, .trc, .alert] s (execAndi a0 s) := by
  delta execAndi
  refine out_next ?_
  refine Keeps.after ?_ (tileInstr_keeps ..) rfl
  exact (Keeps.refl s)

theorem execOri_keeps {a0 s} : KeepsOut [.cnt, .hif, .tiles, .links, .trc, .alert] s (execOri a0 s) := by
  delta execOri
  refine out_next ?_
  refine Keeps.after ?_ (tileInstr_keeps ..) rfl
  exact (Keeps.refl s)

theorem execXori_keeps {a0 s} : KeepsOut [.cnt, .hif, .tiles, .links, .trc, .alert] s (execXori a0 s) := by
  delta execXori
  refine out_next ?_
  refine Keeps.after ?_ (tileInstr_keeps ..) rfl
  exact (Keeps.refl s)

theorem execLui_keeps {a0 s} : KeepsOut [.cnt, .hif, .tiles, .links, .trc, .alert] s (execLui a0 s) := by
  delta execLui
  refine out_next ?_
  refine Keeps.after ?_ (tileInstr_keeps ..) rfl
  exact (Keeps.refl s)

theorem execShi_keeps {a0 s} : KeepsOut [.cnt, .hif, .tiles, .links, .trc, .alert] s (execShi a0 s) := by
  delta execShi
  refine out_next ?_
  refine Keeps.after ?_ (tileInstr_keeps ..) rfl
  exact (Keeps.refl s)

theorem execCmp_keeps {a0 s} : KeepsOut [.cnt, .hif, .tiles, .links, .trc, .alert] s (execCmp a0 s) := by
  delta execCmp
  refine out_next ?_
  refine Keeps.after ?_ (tileInstr_keeps ..) rfl
  exact (Keeps.refl s)

theorem execCmpi_keeps {a0 s} : KeepsOut [.cnt, .hif, .tiles, .links, .trc, .alert] s (execCmpi a0 s) := by
  delta execCmpi
  refine out_next ?_
  refine Keeps.after ?_ (tileInstr_keeps ..) rfl
  exact (Keeps.refl s)

theorem execPlog_keeps {a0 s} : KeepsOut [.cnt, .hif, .tiles, .links, .trc, .alert] s (execPlog a0 s) := by
  delta execPlog
  refine out_next ?_
  refine Keeps.after ?_ (tileInstr_keeps ..) rfl
  exact (Keeps.refl s)

theorem execMfs_keeps {a0 s} : KeepsOut [.cnt, .hif, .tiles, .links, .trc, .alert] s (execMfs a0 s) := by
  delta execMfs
  refine out_next ?_
  refine Keeps.after ?_ (tileInstr_keeps ..) rfl
  exact (Keeps.refl s)

theorem execMts_keeps {a0 s} : KeepsOut [.cnt, .hif, .tiles, .links, .trc, .alert] s (execMts a0 s) := by
  delta execMts
  refine out_next ?_
  refine Keeps.after ?_ (tileInstr_keeps ..) rfl
  exact (Keeps.refl s)

theorem loadInstr_keeps {a0 a1 a2 a3 a4 a5 s} :
    Keeps [.fatal, .dies, .regYok, .cnt, .clk, .hif, .streams, .msgs, .frames, .plg, .egress, .slots, .sheaves, .groups, .plots, .tiles, .switches, .sus, .fab, .waits, .yoke, .mem, .ports, .bbs, .links, .hrw, .trc, .alert, .nextBuild, .nextSid] s (loadInstr a0 a1 a2 a3 a4 a5 s) := by
  delta loadInstr
  refine keeps_ite ?_ ?_
  · exact (Keeps.refl s)
  · extract_lets -merge -underBinder +onlyGivenNames x0 x1 x2 x3 x4 u5 u6
    have ku5 : Keeps [.fatal, .dies, .regYok, .cnt, .clk, .hif, .streams, .msgs, .frames, .plg, .egress, .slots, .sheaves, .groups, .plots, .tiles, .switches, .sus, .fab, .waits, .yoke, .mem, .ports, .bbs, .links, .hrw, .trc, .alert, .nextBuild, .nextSid] s u5 := by
      refine keeps_each ?_ (fun x7 u8 ku8 => ?_)
      · exact (Keeps.refl s)
      · refine Keeps.after ?_ (bump_keeps ..) rfl
        exact ku8
    have ku6 : Keeps [.fatal, .dies, .regYok, .cnt, .clk, .hif, .streams, .msgs, .frames, .plg, .egress, .slots, .sheaves, .groups, .plots, .tiles, .switches, .sus, .fab, .waits, .yoke, .mem, .ports, .bbs, .links, .hrw, .trc, .alert, .nextBuild, .nextSid] s u6 := by
      refine keeps_each ?_ (fun x9 u10 ku10 => ?_)
      · exact ku5
      · refine Keeps.after ?_ (updTile_keeps ..) rfl
        exact ku10
    refine keeps_each ?_ (fun x11 u12 ku12 => ?_)
    · refine Keeps.after ?_ (tileInstr_keeps ..) rfl
      exact ku6
    · refine Keeps.after ?_ (plotError_keeps ..) rfl
      exact ku12

theorem execLds_keeps {a0 a1 s} :
    KeepsOut [.fatal, .dies, .regYok, .cnt, .clk, .hif, .streams, .msgs, .frames, .plg, .egress, .slots, .sheaves, .groups, .plots, .tiles, .switches, .sus, .fab, .waits, .yoke, .mem, .ports, .bbs, .links, .hrw, .trc, .alert, .nextBuild, .nextSid] s (execLds a0 a1 s) := by
  delta execLds
  refine out_next ?_
  refine Keeps.after ?_ (loadInstr_keeps ..) rfl
  exact (Keeps.refl s)

theorem execSts_keeps {a0 s} : KeepsOut [.cnt, .hif, .tiles, .links, .trc, .alert] s (execSts a0 s) := by
  delta execSts
  refine out_next ?_
  refine Keeps.after ?_ (tileInstr_keeps ..) rfl
  exact (Keeps.refl s)

theorem execVld_keeps {a0 a1 s} :
    KeepsOut [.fatal, .dies, .regYok, .cnt, .clk, .hif, .streams, .msgs, .frames, .plg, .egress, .slots, .sheaves, .groups, .plots, .tiles, .switches, .sus, .fab, .waits, .yoke, .mem, .ports, .bbs, .links, .hrw, .trc, .alert, .nextBuild, .nextSid] s (execVld a0 a1 s) := by
  delta execVld
  refine out_next ?_
  refine Keeps.after ?_ (loadInstr_keeps ..) rfl
  exact (Keeps.refl s)

theorem execVst_keeps {a0 s} : KeepsOut [.cnt, .hif, .tiles, .links, .trc, .alert] s (execVst a0 s) := by
  delta execVst
  refine out_next ?_
  refine Keeps.after ?_ (tileInstr_keeps ..) rfl
  exact (Keeps.refl s)

theorem execAld_keeps {a0 a1 s} :
    KeepsOut [.fatal, .dies, .regYok, .cnt, .clk, .hif, .streams, .msgs, .frames, .plg, .egress, .slots, .sheaves, .groups, .plots, .tiles, .switches, .sus, .fab, .waits, .yoke, .mem, .ports, .bbs, .links, .hrw, .trc, .alert, .nextBuild, .nextSid] s (execAld a0 a1 s) := by
  delta execAld
  refine out_next ?_
  refine Keeps.after ?_ (loadInstr_keeps ..) rfl
  exact (Keeps.refl s)

theorem execAst_keeps {a0 s} : KeepsOut [.cnt, .hif, .tiles, .links, .trc, .alert] s (execAst a0 s) := by
  delta execAst
  refine out_next ?_
  refine Keeps.after ?_ (tileInstr_keeps ..) rfl
  exact (Keeps.refl s)

theorem execSend_keeps {a0 s} :
    KeepsOut [.cnt, .hif, .streams, .msgs, .egress, .slots, .sheaves, .groups, .plots, .tiles, .sus, .fab, .waits, .yoke, .links, .trc, .alert, .nextBuild, .nextSid] s (execSend a0 s) := by
  delta execSend
  refine out_next ?_
  refine Keeps.after ?_ (sendState_keeps ..) rfl
  exact (Keeps.refl s)

theorem execRecv_keeps {a0 s} : KeepsOut [.cnt, .hif, .tiles, .links, .trc, .alert] s (execRecv a0 s) := by
  delta execRecv
  refine out_next ?_
  refine Keeps.after ?_ (recvState_keeps ..) rfl
  exact (Keeps.refl s)

theorem execTag_keeps {a0 s} :
    KeepsOut [.cnt, .hif, .streams, .msgs, .egress, .slots, .sheaves, .groups, .plots, .tiles, .waits, .yoke, .links, .trc, .alert, .nextBuild, .nextSid] s (execTag a0 s) := by
  delta execTag
  refine out_next ?_
  refine Keeps.after ?_ (tagState_keeps ..) rfl
  exact (Keeps.refl s)

theorem execEvent_keeps {a0 s} : KeepsOut [.cnt, .hif, .tiles, .links, .trc, .alert] s (execEvent a0 s) := by
  delta execEvent
  refine out_next ?_
  refine Keeps.after ?_ (eventState_keeps ..) rfl
  exact (Keeps.refl s)

theorem execBr_keeps {a0 s} : KeepsOut [.cnt, .hif, .tiles, .links, .trc, .alert] s (execBr a0 s) := by
  delta execBr
  refine out_next ?_
  refine Keeps.after ?_ (brState_keeps ..) rfl
  exact (Keeps.refl s)

theorem execHalt_keeps {a0 s} : KeepsOut [.cnt, .hif, .tiles, .links, .trc, .alert] s (execHalt a0 s) := by
  delta execHalt
  refine out_next ?_
  refine Keeps.after ?_ (haltState_keeps ..) rfl
  exact (Keeps.refl s)

theorem execReservedOpcode_keeps {a0 s} : KeepsOut [.cnt, .hif, .tiles, .links, .trc, .alert] s (execReservedOpcode a0 s) := by
  delta execReservedOpcode
  refine out_next ?_
  refine keeps_ite ?_ ?_
  · refine Keeps.after ?_ (tileFault_keeps ..) rfl
    exact (Keeps.refl s)
  · exact (Keeps.refl s)

end Sys2Proof.Machine
end

