-- ==== Sys2Proof/Laws/KeepsDieLink.lean ====
section
/-! SUPPORT. What each operation and command of Machine/DieLink.lean changes, and that it keeps the invariant. -/
namespace Sys2Proof.Machine

set_option Elab.async false

theorem linkCount_keeps {a0 a1 a2 s} : Keeps [.cnt, .hif, .alert] s (linkCount a0 a1 a2 s) := by
  delta linkCount
  refine Keeps.after ?_ (bump_keeps ..) rfl
  exact (Keeps.refl s)

theorem startRetrain_keeps {a0 a1 a2 a3 a4 a5 s} : Keeps [.links] s (startRetrain a0 a1 a2 a3 a4 a5 s) := by
  delta startRetrain
  extract_lets -merge -underBinder +onlyGivenNames x0
  split
  · extract_lets -merge -underBinder +onlyGivenNames x1
    refine Keeps.after ?_ (setLink_keeps ..) rfl
    exact (Keeps.refl s)
  · refine keeps_ite ?_ ?_
    · exact (Keeps.refl s)
    · extract_lets -merge -underBinder +onlyGivenNames x2
      refine Keeps.after ?_ (setLink_keeps ..) rfl
      exact (Keeps.refl s)

theorem replayOrTrain_keeps {a0 a1 a2 s} : Keeps [.cnt, .hif, .links, .alert] s (replayOrTrain a0 a1 a2 s) := by
  delta replayOrTrain
  extract_lets -merge -underBinder +onlyGivenNames x0
  refine keeps_ite ?_ ?_
  · refine Keeps.after ?_ (startRetrain_keeps ..) rfl
    exact (Keeps.refl s)
  · extract_lets -merge -underBinder +onlyGivenNames u1
    have ku1 : Keeps [.cnt, .hif, .links, .alert] s u1 := by
      refine Keeps.after ?_ (linkCount_keeps ..) rfl
      refine Keeps.after ?_ (updDir_keeps ..) rfl
      exact (Keeps.refl s)
    refine keeps_ite ?_ ?_
    · refine Keeps.after ?_ (linkCount_keeps ..) rfl
      exact ku1
    · exact ku1

theorem hearWord_keeps {a0 a1 a2 s} : Keeps [.cnt, .hif, .links, .alert] s (hearWord a0 a1 a2 s) := by
  delta hearWord
  extract_lets -merge -underBinder +onlyGivenNames x0 x1 u2
  have ku2 : Keeps [.cnt, .hif, .links, .alert] s u2 := by
    refine Keeps.after ?_ (updDir_keeps ..) rfl
    exact (Keeps.refl s)
  refine keeps_ite ?_ ?_
  · refine Keeps.after ?_ (replayOrTrain_keeps ..) rfl
    exact ku2
  · exact ku2

theorem quadError_keeps {a0 a1 a2 s} : Keeps [.cnt, .hif, .links, .alert] s (quadError a0 a1 a2 s) := by
  delta quadError
  extract_lets -merge -underBinder +onlyGivenNames x0 u1 x2
  have ku1 : Keeps [.cnt, .hif, .links, .alert] s u1 := by
    refine Keeps.after ?_ (linkCount_keeps ..) rfl
    refine Keeps.after ?_ (updDir_keeps ..) rfl
    exact (Keeps.refl s)
  refine keeps_ite ?_ ?_
  · refine Keeps.after ?_ (startRetrain_keeps ..) rfl
    exact ku1
  · exact ku1

theorem quadErrors_keeps {a0 a1 a2 s} : Keeps [.cnt, .hif, .links, .alert] s (quadErrors a0 a1 a2 s) := by
  delta quadErrors
  refine keeps_each ?_ (fun x0 u1 ku1 => ?_)
  · exact (Keeps.refl s)
  · refine Keeps.after ?_ (quadError_keeps ..) rfl
    exact ku1

theorem openEpisode_keeps {a0 a1 s} : Keeps [.cnt, .hif, .links, .alert] s (openEpisode a0 a1 s) := by
  delta openEpisode
  refine keeps_ite ?_ ?_
  · exact (Keeps.refl s)
  · refine Keeps.after ?_ (linkCount_keeps ..) rfl
    refine Keeps.after ?_ (updDir_keeps ..) rfl
    exact (Keeps.refl s)

theorem discardFlit_keeps {a0 a1 a2 s} : Keeps [.cnt, .hif, .links, .alert] s (discardFlit a0 a1 a2 s) := by
  delta discardFlit
  extract_lets -merge -underBinder +onlyGivenNames x0 u1
  have ku1 : Keeps [.cnt, .hif, .links, .alert] s u1 := by
    refine Keeps.after ?_ (linkCount_keeps ..) rfl
    refine Keeps.after ?_ (updDir_keeps ..) rfl
    exact (Keeps.refl s)
  refine Keeps.after ?_ (quadErrors_keeps ..) rfl
  exact ku1

theorem goodFlit_keeps {a0 a1 a2 a3 a4 s} : Keeps [.cnt, .hif, .links, .alert] s (goodFlit a0 a1 a2 a3 a4 s) := by
  delta goodFlit
  extract_lets -merge -underBinder +onlyGivenNames u0 x1 x2
  have ku0 : Keeps [.cnt, .hif, .links, .alert] s u0 := by
    refine Keeps.after ?_ (hearWord_keeps ..) rfl
    refine Keeps.after ?_ (updDir_keeps ..) rfl
    exact (Keeps.refl s)
  refine keeps_ite ?_ ?_
  · extract_lets -merge -underBinder +onlyGivenNames x3 u4
    have ku4 : Keeps [.cnt, .hif, .links, .alert] s u4 := by
      refine Keeps.after ?_ (updDir_keeps ..) rfl
      exact ku0
    refine Keeps.after ?_ (quadErrors_keeps ..) rfl
    refine Keeps.after ?_ (bump_keeps ..) rfl
    exact ku4
  · refine keeps_ite ?_ ?_
    · extract_lets -merge -underBinder +onlyGivenNames u5
      have ku5 : Keeps [.cnt, .hif, .links, .alert] s u5 := by
        refine Keeps.after ?_ (linkCount_keeps ..) rfl
        exact ku0
      refine keeps_ite ?_ ?_
      · refine Keeps.after ?_ (discardFlit_keeps ..) rfl
        exact ku5
      · refine Keeps.after ?_ (quadErrors_keeps ..) rfl
        exact ku5
    · refine keeps_ite ?_ ?_
      · refine Keeps.after ?_ (discardFlit_keeps ..) rfl
        refine Keeps.after ?_ (openEpisode_keeps ..) rfl
        exact ku0
      · refine Keeps.after ?_ (quadErrors_keeps ..) rfl
        exact ku0

theorem damagedFlit_keeps {a0 a1 a2 s} : Keeps [.cnt, .hif, .links, .alert] s (damagedFlit a0 a1 a2 s) := by
  delta damagedFlit
  extract_lets -merge -underBinder +onlyGivenNames x0 u1
  have ku1 : Keeps [.cnt, .hif, .links, .alert] s u1 := by
    refine Keeps.after ?_ (discardFlit_keeps ..) rfl
    refine Keeps.after ?_ (openEpisode_keeps ..) rfl
    refine Keeps.after ?_ (updDir_keeps ..) rfl
    exact (Keeps.refl s)
  refine keeps_ite ?_ ?_
  · refine Keeps.after ?_ (startRetrain_keeps ..) rfl
    exact ku1
  · exact ku1

theorem takeFlit_keeps {a0 a1 a2 s} :
    Keeps [.cnt, .hif, .streams, .msgs, .egress, .slots, .sheaves, .groups, .plots, .sus, .fab, .waits, .yoke, .links, .alert, .nextBuild, .nextSid] s (takeFlit a0 a1 a2 s) := by
  delta takeFlit
  extract_lets -merge -underBinder +onlyGivenNames x0
  split
  · exact (Keeps.refl s)
  · extract_lets -merge -underBinder +onlyGivenNames x1
    refine keeps_ite ?_ ?_
    · exact (Keeps.refl s)
    · extract_lets -merge -underBinder +onlyGivenNames u2
      have ku2 : Keeps [.cnt, .hif, .streams, .msgs, .egress, .slots, .sheaves, .groups, .plots, .sus, .fab, .waits, .yoke, .links, .alert, .nextBuild, .nextSid] s u2 := by
        refine Keeps.after ?_ (updDir_keeps ..) rfl
        exact (Keeps.refl s)
      refine keeps_ite ?_ ?_
      · refine Keeps.after ?_ (flowAll_keeps ..) rfl
        refine Keeps.after ?_ (pushFifo_keeps ..) rfl
        exact ku2
      · exact ku2

theorem flitReceive_keeps {a0 a1 a2 a3 a4 s} :
    Keeps [.cnt, .hif, .streams, .msgs, .egress, .slots, .sheaves, .groups, .plots, .sus, .fab, .waits, .yoke, .links, .alert, .nextBuild, .nextSid] s (flitReceive a0 a1 a2 a3 a4 s) := by
  delta flitReceive
  refine keeps_ite ?_ ?_
  · exact (Keeps.refl s)
  · extract_lets -merge -underBinder +onlyGivenNames x0 u1 x2 x3
    have ku1 : Keeps [.cnt, .hif, .streams, .msgs, .egress, .slots, .sheaves, .groups, .plots, .sus, .fab, .waits, .yoke, .links, .alert, .nextBuild, .nextSid] s u1 := by
      refine Keeps.after ?_ (updDir_keeps ..) rfl
      exact (Keeps.refl s)
    split
    extract_lets -merge -underBinder +onlyGivenNames x4 x5 u6 u7 u8 x9 x10 x11 u12
    have ku6 : Keeps [.cnt, .hif, .streams, .msgs, .egress, .slots, .sheaves, .groups, .plots, .sus, .fab, .waits, .yoke, .links, .alert, .nextBuild, .nextSid] s u6 := by
      refine Keeps.after ?_ (updDir_keeps ..) rfl
      exact ku1
    have ku7 : Keeps [.cnt, .hif, .streams, .msgs, .egress, .slots, .sheaves, .groups, .plots, .sus, .fab, .waits, .yoke, .links, .alert, .nextBuild, .nextSid] s u7 := by
      refine Keeps.after ?_ (updDir_keeps ..) rfl
      exact ku6
    have ku8 : Keeps [.cnt, .hif, .streams, .msgs, .egress, .slots, .sheaves, .groups, .plots, .sus, .fab, .waits, .yoke, .links, .alert, .nextBuild, .nextSid] s u8 := by
      refine keeps_ite ?_ ?_
      · refine Keeps.after ?_ (openEpisode_keeps ..) rfl
        refine Keeps.after ?_ (updDir_keeps ..) rfl
        exact ku7
      · exact ku7
    have ku12 : Keeps [.cnt, .hif, .streams, .msgs, .egress, .slots, .sheaves, .groups, .plots, .sus, .fab, .waits, .yoke, .links, .alert, .nextBuild, .nextSid] s u12 := by
      refine keeps_ite ?_ ?_
      · refine Keeps.after ?_ (goodFlit_keeps ..) rfl
        exact ku8
      · refine Keeps.after ?_ (damagedFlit_keeps ..) rfl
        exact ku8
    refine keeps_each ?_ (fun x13 u14 ku14 => ?_)
    · exact ku12
    · refine Keeps.after ?_ (takeFlit_keeps ..) rfl
      exact ku14

theorem execFlitReceive_keeps {a0 a1 a2 a3 a4 s} :
    KeepsOut [.cnt, .hif, .streams, .msgs, .egress, .slots, .sheaves, .groups, .plots, .sus, .fab, .waits, .yoke, .links, .alert, .nextBuild, .nextSid] s (execFlitReceive a0 a1 a2 a3 a4 s) := by
  delta execFlitReceive
  refine out_next ?_
  refine Keeps.after ?_ (flitReceive_keeps ..) rfl
  exact (Keeps.refl s)

theorem nakRenew_keeps {a0 a1 s} : Keeps [.links] s (nakRenew a0 a1 s) := by
  delta nakRenew
  refine keeps_ite ?_ ?_
  · refine Keeps.after ?_ (updDir_keeps ..) rfl
    exact (Keeps.refl s)
  · exact (Keeps.refl s)

theorem execNakRenew_keeps {a0 a1 s} : KeepsOut [.links] s (execNakRenew a0 a1 s) := by
  delta execNakRenew
  refine out_next ?_
  refine Keeps.after ?_ (nakRenew_keeps ..) rfl
  exact (Keeps.refl s)

theorem ackTimeout_keeps {a0 a1 s} : Keeps [.cnt, .hif, .links, .alert] s (ackTimeout a0 a1 s) := by
  delta ackTimeout
  refine keeps_ite ?_ ?_
  · refine Keeps.after ?_ (replayOrTrain_keeps ..) rfl
    exact (Keeps.refl s)
  · exact (Keeps.refl s)

theorem execAckTimeout_keeps {a0 a1 s} : KeepsOut [.cnt, .hif, .links, .alert] s (execAckTimeout a0 a1 s) := by
  delta execAckTimeout
  refine out_next ?_
  refine Keeps.after ?_ (ackTimeout_keeps ..) rfl
  exact (Keeps.refl s)

theorem persistWindow_keeps {s} : Keeps [.links] s (persistWindow s) := by
  delta persistWindow
  refine keeps_each ?_ (fun x0 u1 ku1 => ?_)
  · exact (Keeps.refl s)
  · refine Keeps.after ?_ (updDir_keeps ..) rfl
    refine Keeps.after ?_ (updDir_keeps ..) rfl
    exact ku1

theorem execPersistWindow_keeps {s} : KeepsOut [.links] s (execPersistWindow s) := by
  delta execPersistWindow
  refine out_next ?_
  refine Keeps.after ?_ (persistWindow_keeps ..) rfl
  exact (Keeps.refl s)

theorem hostRetrain_keeps {a0 a1 s} : Keeps [.links] s (hostRetrain a0 a1 s) := by
  delta hostRetrain
  split
  · refine Keeps.after ?_ (updLink_keeps ..) rfl
    exact (Keeps.refl s)
  · refine Keeps.after ?_ (startRetrain_keeps ..) rfl
    exact (Keeps.refl s)

theorem execDlkRetrain_keeps {a0 a1 s} : KeepsOut [.links] s (execDlkRetrain a0 a1 s) := by
  delta execDlkRetrain
  refine out_next ?_
  refine keeps_ite ?_ ?_
  · refine Keeps.after ?_ (hostRetrain_keeps ..) rfl
    exact (Keeps.refl s)
  · exact (Keeps.refl s)

theorem degraded_keeps {a0 a1 a2 s} : Keeps [.cnt, .hif, .alert] s (degraded a0 a1 a2 s) := by
  delta degraded
  extract_lets -merge -underBinder +onlyGivenNames x0
  refine Keeps.after ?_ (raise_keeps ..) rfl
  exact (Keeps.refl s)

theorem resumeLink_keeps {a0 a1 s} :
    Keeps [.cnt, .hif, .streams, .msgs, .egress, .slots, .sheaves, .groups, .plots, .tiles, .sus, .fab, .waits, .yoke, .links, .trc, .alert, .nextBuild, .nextSid] s (resumeLink a0 a1 s) := by
  delta resumeLink
  extract_lets -merge -underBinder +onlyGivenNames u0
  have ku0 : Keeps [.cnt, .hif, .streams, .msgs, .egress, .slots, .sheaves, .groups, .plots, .tiles, .sus, .fab, .waits, .yoke, .links, .trc, .alert, .nextBuild, .nextSid] s u0 := by
    refine Keeps.after ?_ (addPause_keeps ..) rfl
    exact (Keeps.refl s)
  refine Keeps.after ?_ (flowAll_keeps ..) rfl
  refine keeps_ite ?_ ?_
  · refine Keeps.after ?_ (acceptEvents_keeps ..) rfl
    exact ku0
  · exact ku0

theorem retrainDone_keeps {a0 a1 a2 a3 s} :
    Keeps [.fatal, .dies, .regYok, .cnt, .clk, .hif, .streams, .msgs, .frames, .plg, .egress, .slots, .sheaves, .groups, .plots, .tiles, .switches, .sus, .fab, .waits, .yoke, .mem, .ports, .bbs, .links, .hrw, .trc, .alert, .nextBuild, .nextSid] s (retrainDone a0 a1 a2 a3 s) := by
  delta retrainDone
  extract_lets -merge -underBinder +onlyGivenNames x0
  split
  · exact (Keeps.refl s)
  · extract_lets -merge -underBinder +onlyGivenNames x1 x2 x3 x4 x5 x6 x7 x8 x9 x10 u11 u12 u13 u14 u15
    have ku11 : Keeps [.fatal, .dies, .regYok, .cnt, .clk, .hif, .streams, .msgs, .frames, .plg, .egress, .slots, .sheaves, .groups, .plots, .tiles, .switches, .sus, .fab, .waits, .yoke, .mem, .ports, .bbs, .links, .hrw, .trc, .alert, .nextBuild, .nextSid] s u11 := by
      refine Keeps.after ?_ (setLink_keeps ..) rfl
      exact (Keeps.refl s)
    have ku12 : Keeps [.fatal, .dies, .regYok, .cnt, .clk, .hif, .streams, .msgs, .frames, .plg, .egress, .slots, .sheaves, .groups, .plots, .tiles, .switches, .sus, .fab, .waits, .yoke, .mem, .ports, .bbs, .links, .hrw, .trc, .alert, .nextBuild, .nextSid] s u12 := by
      refine keeps_ite ?_ ?_
      · refine Keeps.after ?_ (degraded_keeps ..) rfl
        exact ku11
      · exact ku11
    have ku13 : Keeps [.fatal, .dies, .regYok, .cnt, .clk, .hif, .streams, .msgs, .frames, .plg, .egress, .slots, .sheaves, .groups, .plots, .tiles, .switches, .sus, .fab, .waits, .yoke, .mem, .ports, .bbs, .links, .hrw, .trc, .alert, .nextBuild, .nextSid] s u13 := by
      refine Keeps.after ?_ (bump_keeps ..) rfl
      refine Keeps.after ?_ (bump_keeps ..) rfl
      exact ku12
    have ku14 : Keeps [.fatal, .dies, .regYok, .cnt, .clk, .hif, .streams, .msgs, .frames, .plg, .egress, .slots, .sheaves, .groups, .plots, .tiles, .switches, .sus, .fab, .waits, .yoke, .mem, .ports, .bbs, .links, .hrw, .trc, .alert, .nextBuild, .nextSid] s u14 := by
      refine Keeps.after ?_ (raise_keeps ..) rfl
      exact ku13
    have ku15 : Keeps [.fatal, .dies, .regYok, .cnt, .clk, .hif, .streams, .msgs, .frames, .plg, .egress, .slots, .sheaves, .groups, .plots, .tiles, .switches, .sus, .fab, .waits, .yoke, .mem, .ports, .bbs, .links, .hrw, .trc, .alert, .nextBuild, .nextSid] s u15 := by
      refine Keeps.after ?_ (resumeLink_keeps ..) rfl
      exact ku14
    refine keeps_ite ?_ ?_
    · refine Keeps.after ?_ (bbSettle_keeps ..) rfl
      refine Keeps.after ?_ (declareDie_keeps ..) rfl
      refine Keeps.after ?_ (raise_keeps ..) rfl
      exact ku15
    · split
      · refine Keeps.after ?_ (startRetrain_keeps ..) rfl
        exact ku15
      · exact ku15

theorem execRetrainDone_keeps {a0 a1 a2 a3 s} :
    KeepsOut [.fatal, .dies, .regYok, .cnt, .clk, .hif, .streams, .msgs, .frames, .plg, .egress, .slots, .sheaves, .groups, .plots, .tiles, .switches, .sus, .fab, .waits, .yoke, .mem, .ports, .bbs, .links, .hrw, .trc, .alert, .nextBuild, .nextSid] s (execRetrainDone a0 a1 a2 a3 s) := by
  delta execRetrainDone
  refine out_next ?_
  refine Keeps.after ?_ (retrainDone_keeps ..) rfl
  exact (Keeps.refl s)

theorem firstTraining_keeps {a0 a1 a2 a3 s} : Keeps [.cnt, .hif, .links, .alert] s (firstTraining a0 a1 a2 a3 s).1 := by
  delta firstTraining
  extract_lets -merge -underBinder +onlyGivenNames x0 x1 x2 u3 u4
  have ku4 : Keeps [.cnt, .hif, .links, .alert] s u4 := by
    refine Keeps.after ?_ (setLink_keeps ..) rfl
    exact (Keeps.refl s)
  extract_lets -merge -underBinder +onlyGivenNames u5
  have ku5 : Keeps [.cnt, .hif, .links, .alert] s u5 := by
    refine keeps_ite ?_ ?_
    · refine Keeps.after ?_ (degraded_keeps ..) rfl
      exact ku4
    · exact ku4
  refine keeps_fst ?_
  refine keeps_ite ?_ ?_
  · refine Keeps.after ?_ (raise_keeps ..) rfl
    exact ku5
  · exact ku5

theorem flushLinks_keeps {s} : Keeps [.links] s (flushLinks s) := by
  delta flushLinks
  refine keeps_each ?_ (fun x0 u1 ku1 => ?_)
  · exact (Keeps.refl s)
  · refine Keeps.after ?_ (updLink_keeps ..) rfl
    exact ku1

theorem loopbackSet_keeps {a0 a1 a2 a3 s} : Keeps [.regGlb, .regDlk, .links] s (loopbackSet a0 a1 a2 a3 s) := by
  delta loopbackSet
  extract_lets -merge -underBinder +onlyGivenNames x0 x1
  refine keeps_ite ?_ ?_
  · refine keeps_ite ?_ ?_
    · exact (Keeps.refl s)
    · refine Keeps.after ?_ (lockViol_keeps ..) rfl
      exact (Keeps.refl s)
  · extract_lets -merge -underBinder +onlyGivenNames u2 x3 x4
    have ku2 : Keeps [.regGlb, .regDlk, .links] s u2 := by
      refine Keeps.after ?_ (setRegIn_regDlk (by omega)) rfl
      exact (Keeps.refl s)
    refine keeps_ite ?_ ?_
    · exact ku2
    · refine keeps_ite ?_ ?_
      · extract_lets -merge -underBinder +onlyGivenNames x5
        refine Keeps.after ?_ (setLink_keeps ..) rfl
        exact ku2
      · refine keeps_ite ?_ ?_
        · refine Keeps.after ?_ (setLink_keeps ..) rfl
          exact ku2
        · exact ku2

theorem execLoopbackSet_keeps {a0 a1 a2 a3 s} : KeepsOut [.regGlb, .regDlk, .links] s (execLoopbackSet a0 a1 a2 a3 s) := by
  delta execLoopbackSet
  refine out_next ?_
  refine keeps_ite ?_ ?_
  · refine Keeps.after ?_ (loopbackSet_keeps ..) rfl
    exact (Keeps.refl s)
  · exact (Keeps.refl s)

end Sys2Proof.Machine
end

