-- ==== Sys2Proof/Laws/KeepsInstall.lean ====
section
/-! SUPPORT. What each operation and command of Machine/Install.lean changes, and that it keeps the invariant. -/
namespace Sys2Proof.Machine

set_option Elab.async false

theorem stopCheck_keeps {a0 a1 s} : Keeps [.cnt, .hif, .slots, .alert] s (stopCheck a0 a1 s) := by
  delta stopCheck
  extract_lets -merge -underBinder +onlyGivenNames x0
  split
  · exact (Keeps.refl s)
  · refine Keeps.after ?_ (complete_keeps ..) rfl
    refine Keeps.after ?_ (setSlot_keeps ..) rfl
    exact (Keeps.refl s)

theorem installBegin_keeps {a0 a1 a2 s} : Keeps [.cnt, .hif, .slots, .groups, .plots, .alert] s (installBegin a0 a1 a2 s) := by
  delta installBegin
  extract_lets -merge -underBinder +onlyGivenNames x0 x1 x2
  refine keeps_ite ?_ ?_
  · refine Keeps.after ?_ (complete_keeps ..) rfl
    exact (Keeps.refl s)
  · extract_lets -merge -underBinder +onlyGivenNames x3 x4
    refine keeps_ite ?_ ?_
    · refine Keeps.after ?_ (complete_keeps ..) rfl
      exact (Keeps.refl s)
    · extract_lets -merge -underBinder +onlyGivenNames u5 u6 u7
      have ku5 : Keeps [.cnt, .hif, .slots, .groups, .plots, .alert] s u5 := by
        refine keeps_ite ?_ ?_
        · refine Keeps.after ?_ (stopCheck_keeps ..) rfl
          exact (Keeps.refl s)
        · exact (Keeps.refl s)
      have ku6 : Keeps [.cnt, .hif, .slots, .groups, .plots, .alert] s u6 := by
        refine Keeps.after ?_ (emptyBank_keeps ..) rfl
        exact ku5
      extract_lets -merge -underBinder +onlyGivenNames u8
      have ku8 : Keeps [.cnt, .hif, .slots, .groups, .plots, .alert] s u8 := by
        refine Keeps.after ?_ (setBank_keeps ..) rfl
        exact ku6
      refine Keeps.after ?_ (complete_keeps ..) rfl
      refine Keeps.after ?_ (setSlot_keeps ..) rfl
      exact ku8

theorem execInstallBegin_keeps {a0 a1 s} : KeepsOut [.cnt, .hif, .slots, .groups, .plots, .alert] s (execInstallBegin a0 a1 s) := by
  delta execInstallBegin
  refine out_next ?_
  refine descRun_keeps ?_ rfl (fun x0 u1 ku1 => ?_)
  · exact (Keeps.refl s)
  · refine Keeps.after ?_ (installBegin_keeps ..) rfl
    exact ku1

theorem descRunHbm_keeps {ps q pos op f s t} (h : Keeps ps s t) (hq : subParts [.hif] ps = true)
    (hf : ∀ b u, Keeps ps s u → Keeps ps s (f b u)) : Keeps ps s (descRunHbm q pos op f t) :=
  keeps_ite (descRun_keeps h hq hf) h

theorem installChunk_keeps {a0 a1 a2 a3 s} :
    Keeps [.cnt, .hif, .slots, .hbm, .poison, .mem, .links, .alert] s (installChunk a0 a1 a2 a3 s) := by
  delta installChunk
  extract_lets -merge -underBinder +onlyGivenNames x0 x1 x2
  refine keeps_ite ?_ ?_
  · refine Keeps.after ?_ (complete_keeps ..) rfl
    exact (Keeps.refl s)
  · split
    · refine Keeps.after ?_ (complete_keeps ..) rfl
      exact (Keeps.refl s)
    · refine keeps_ite ?_ ?_
      · refine Keeps.after ?_ (complete_keeps ..) rfl
        exact (Keeps.refl s)
      · refine keeps_ite ?_ ?_
        · refine Keeps.after ?_ (complete_keeps ..) rfl
          exact (Keeps.refl s)
        · refine keeps_ite ?_ ?_
          · refine Keeps.after ?_ (complete_keeps ..) rfl
            exact (Keeps.refl s)
          · refine keeps_ite ?_ ?_
            · refine Keeps.after ?_ (complete_keeps ..) rfl
              exact (Keeps.refl s)
            · split
              · refine Keeps.after ?_ (complete_keeps ..) rfl
                exact (Keeps.refl s)
              · split
                rename_i x3 u4 x5 hq6
                have ku4 : Keeps [.cnt, .hif, .slots, .hbm, .poison, .mem, .links, .alert] s u4 := by
                  have hp : Keeps [.cnt, .hif, .slots, .hbm, .poison, .mem, .links, .alert] s (Prod.fst (u4, x5)) := by
                    rw [← hq6]
                    refine Keeps.after ?_ (homeWrite_keeps ..) rfl
                    exact (Keeps.refl s)
                  exact hp
                extract_lets -merge -underBinder +onlyGivenNames x7
                refine Keeps.after ?_ (complete_keeps ..) rfl
                refine Keeps.after ?_ (setSlot_keeps ..) rfl
                exact ku4

theorem execInstallChunk_keeps {a0 a1 a2 s} :
    KeepsOut [.cnt, .hif, .slots, .hbm, .poison, .mem, .links, .alert] s (execInstallChunk a0 a1 a2 s) := by
  delta execInstallChunk
  refine out_next ?_
  refine descRunHbm_keeps ?_ rfl (fun x0 u1 ku1 => ?_)
  · exact (Keeps.refl s)
  · refine Keeps.after ?_ (installChunk_keeps ..) rfl
    exact ku1

theorem placeAll_keeps {slot b n i s gs t} (h : placeAll slot b n i s = .ok (gs, t)) :
    Keeps [.groups, .plots, .tiles, .switches, .sus, .fab, .waits, .links, .hrw] s t := by
  induction n generalizing i s gs t with
  | zero => cases h; exact Keeps.refl s
  | succ n ih =>
    simp only [placeAll] at h
    split at h
    · cases h
    · split at h
      · rename_i hq
        cases h
        exact ((Keeps.upd_groups (ps := [.groups, .plots, .tiles, .switches, .sus, .fab, .waits, .links, .hrw]) (Keeps.refl s) rfl).after takePlots_keeps rfl).after (ih hq) rfl
      · cases h

theorem clearWatch_keeps {a0 s} : Keeps [.tables] s (clearWatch a0 s) := by
  delta clearWatch
  refine keeps_each ?_ (fun x0 u1 ku1 => ?_)
  · exact (Keeps.refl s)
  · refine Keeps.after ?_ (putEntry_keeps ..) rfl
    exact ku1

theorem placeBank_keeps {a0 a1 a2 a3 s} :
    Keeps [.cnt, .hif, .streams, .msgs, .tables, .egress, .slots, .sheaves, .groups, .plots, .tiles, .switches, .sus, .fab, .waits, .yoke, .links, .hrw, .alert, .nextBuild, .nextSid] s (placeBank a0 a1 a2 a3 s) := by
  delta placeBank
  split
  · rename_i x0 x1 x2 hq3
    refine Keeps.after ?_ (complete_keeps ..) rfl
    refine Keeps.after ?_ (raise_keeps ..) rfl
    exact (Keeps.refl s)
  · rename_i x4 x5 u6 hq7
    have ku6 : Keeps [.cnt, .hif, .streams, .msgs, .tables, .egress, .slots, .sheaves, .groups, .plots, .tiles, .switches, .sus, .fab, .waits, .yoke, .links, .hrw, .alert, .nextBuild, .nextSid] s u6 := by
      refine Keeps.after ?_ (placeAll_keeps hq7) rfl
      exact (Keeps.refl s)
    extract_lets -merge -underBinder +onlyGivenNames x8 x9 u10 u11 u12 u13
    have ku10 : Keeps [.cnt, .hif, .streams, .msgs, .tables, .egress, .slots, .sheaves, .groups, .plots, .tiles, .switches, .sus, .fab, .waits, .yoke, .links, .hrw, .alert, .nextBuild, .nextSid] s u10 := by
      refine Keeps.after ?_ (setBank_keeps ..) rfl
      exact ku6
    have ku12 : Keeps [.cnt, .hif, .streams, .msgs, .tables, .egress, .slots, .sheaves, .groups, .plots, .tiles, .switches, .sus, .fab, .waits, .yoke, .links, .hrw, .alert, .nextBuild, .nextSid] s u12 := by
      refine Keeps.after ?_ (setSlot_keeps ..) rfl
      exact ku10
    have ku13 : Keeps [.cnt, .hif, .streams, .msgs, .tables, .egress, .slots, .sheaves, .groups, .plots, .tiles, .switches, .sus, .fab, .waits, .yoke, .links, .hrw, .alert, .nextBuild, .nextSid] s u13 := by
      unfold u13
      clear_value x8
      split
      · refine Keeps.after ?_ (freeIfUnbound_keeps ..) rfl
        refine Keeps.after ?_ (setBank_keeps ..) rfl
        exact ku12
      · exact ku12
    extract_lets -merge -underBinder +onlyGivenNames u14
    have ku14 : Keeps [.cnt, .hif, .streams, .msgs, .tables, .egress, .slots, .sheaves, .groups, .plots, .tiles, .switches, .sus, .fab, .waits, .yoke, .links, .hrw, .alert, .nextBuild, .nextSid] s u14 := by
      refine Keeps.after ?_ (bump_keeps ..) rfl
      refine Keeps.after ?_ (clearWatch_keeps ..) rfl
      exact ku13
    refine Keeps.after ?_ (readySheaves_keeps ..) rfl
    refine Keeps.after ?_ (complete_keeps ..) rfl
    refine Keeps.after ?_ (raise_keeps ..) rfl
    exact ku14

theorem installCommit_keeps {a0 a1 a2 s} :
    Keeps [.cnt, .hif, .streams, .msgs, .tables, .egress, .slots, .sheaves, .groups, .plots, .tiles, .switches, .sus, .fab, .waits, .yoke, .links, .hrw, .alert, .nextBuild, .nextSid] s (installCommit a0 a1 a2 s) := by
  delta installCommit
  extract_lets -merge -underBinder +onlyGivenNames x0
  refine keeps_ite ?_ ?_
  · refine Keeps.after ?_ (complete_keeps ..) rfl
    exact (Keeps.refl s)
  · split
    · refine keeps_ite ?_ ?_
      · refine keeps_ite ?_ ?_
        · exact (Keeps.refl s)
        · refine Keeps.after ?_ (complete_keeps ..) rfl
          exact (Keeps.refl s)
      · extract_lets -merge -underBinder +onlyGivenNames u1
        extract_lets -merge -underBinder +onlyGivenNames u2
        have ku2 : Keeps [.cnt, .hif, .streams, .msgs, .tables, .egress, .slots, .sheaves, .groups, .plots, .tiles, .switches, .sus, .fab, .waits, .yoke, .links, .hrw, .alert, .nextBuild, .nextSid] s u2 := by
          refine Keeps.after ?_ (setBank_keeps ..) rfl
          exact (Keeps.refl s)
        refine Keeps.after ?_ (setSlot_keeps ..) rfl
        exact ku2
    · split
      · refine Keeps.after ?_ (placeBank_keeps ..) rfl
        exact (Keeps.refl s)
      · refine Keeps.after ?_ (complete_keeps ..) rfl
        exact (Keeps.refl s)

theorem execInstallCommit_keeps {a0 a1 s} :
    KeepsOut [.cnt, .hif, .streams, .msgs, .tables, .egress, .slots, .sheaves, .groups, .plots, .tiles, .switches, .sus, .fab, .waits, .yoke, .links, .hrw, .alert, .nextBuild, .nextSid] s (execInstallCommit a0 a1 s) := by
  delta execInstallCommit
  refine out_next ?_
  refine descRunHbm_keeps ?_ rfl (fun x0 u1 ku1 => ?_)
  · exact (Keeps.refl s)
  · refine Keeps.after ?_ (installCommit_keeps ..) rfl
    exact ku1

theorem readParts_keeps {a0 a1 a2 s} :
    Keeps [.regMem, .cnt, .hif, .hbm, .poison, .mem, .links, .trc, .alert] s (readParts a0 a1 a2 s).1 := by
  delta readParts
  refine keeps_foldl_p (p := Prod.fst) ?_ (fun u1 x0 ku1 => ?_)
  · refine keeps_fst ?_
    exact (Keeps.refl s)
  · split
    rename_i x2 u3 x4 x5 hq6
    have ku3 : Keeps [.regMem, .cnt, .hif, .hbm, .poison, .mem, .links, .trc, .alert] s u3 := by
      have hp : Keeps [.regMem, .cnt, .hif, .hbm, .poison, .mem, .links, .trc, .alert] s (Prod.fst (u3, (x4, x5))) := by
        rw [← hq6]
        refine Keeps.after ?_ (homeRead_keeps ..) rfl
        exact ku1
      exact hp
    refine keeps_fst ?_
    exact ku3

theorem installCheckDone_keeps {a0 a1 s} :
    Keeps [.regMem, .cnt, .hif, .streams, .msgs, .tables, .egress, .slots, .sheaves, .groups, .plots, .tiles, .switches, .sus, .fab, .waits, .yoke, .hbm, .poison, .mem, .links, .hrw, .trc, .alert, .nextBuild, .nextSid] s (installCheckDone a0 a1 s) := by
  delta installCheckDone
  split
  · split
    rename_i x0 u1 x2 hq3
    have ku1 : Keeps [.regMem, .cnt, .hif, .streams, .msgs, .tables, .egress, .slots, .sheaves, .groups, .plots, .tiles, .switches, .sus, .fab, .waits, .yoke, .hbm, .poison, .mem, .links, .hrw, .trc, .alert, .nextBuild, .nextSid] s u1 := by
      have hp : Keeps [.regMem, .cnt, .hif, .streams, .msgs, .tables, .egress, .slots, .sheaves, .groups, .plots, .tiles, .switches, .sus, .fab, .waits, .yoke, .hbm, .poison, .mem, .links, .hrw, .trc, .alert, .nextBuild, .nextSid] s (Prod.fst (u1, x2)) := by
        rw [← hq3]
        refine Keeps.after ?_ (readParts_keeps ..) rfl
        exact (Keeps.refl s)
      exact hp
    extract_lets -merge -underBinder +onlyGivenNames x4 u5
    extract_lets -merge -underBinder +onlyGivenNames u6
    have ku6 : Keeps [.regMem, .cnt, .hif, .streams, .msgs, .tables, .egress, .slots, .sheaves, .groups, .plots, .tiles, .switches, .sus, .fab, .waits, .yoke, .hbm, .poison, .mem, .links, .hrw, .trc, .alert, .nextBuild, .nextSid] s u6 := by
      refine Keeps.after ?_ (setSlot_keeps ..) rfl
      exact ku1
    refine keeps_ite ?_ ?_
    · refine Keeps.after ?_ (complete_keeps ..) rfl
      refine Keeps.after ?_ (bump_keeps ..) rfl
      exact ku6
    · refine keeps_ite ?_ ?_
      · refine Keeps.after ?_ (complete_keeps ..) rfl
        exact ku6
      · refine keeps_ite ?_ ?_
        · refine Keeps.after ?_ (complete_keeps ..) rfl
          exact ku6
        · extract_lets -merge -underBinder +onlyGivenNames u7
          extract_lets -merge -underBinder +onlyGivenNames u8
          have ku8 : Keeps [.regMem, .cnt, .hif, .streams, .msgs, .tables, .egress, .slots, .sheaves, .groups, .plots, .tiles, .switches, .sus, .fab, .waits, .yoke, .hbm, .poison, .mem, .links, .hrw, .trc, .alert, .nextBuild, .nextSid] s u8 := by
            refine Keeps.after ?_ (setBank_keeps ..) rfl
            exact ku6
          refine Keeps.after ?_ (placeBank_keeps ..) rfl
          exact ku8
  · exact (Keeps.refl s)

theorem execInstallCheckDone_keeps {a0 a1 s} :
    KeepsOut [.regMem, .cnt, .hif, .streams, .msgs, .tables, .egress, .slots, .sheaves, .groups, .plots, .tiles, .switches, .sus, .fab, .waits, .yoke, .hbm, .poison, .mem, .links, .hrw, .trc, .alert, .nextBuild, .nextSid] s (execInstallCheckDone a0 a1 s) := by
  delta execInstallCheckDone
  refine out_next ?_
  refine keeps_ite ?_ ?_
  · refine Keeps.after ?_ (installCheckDone_keeps ..) rfl
    exact (Keeps.refl s)
  · exact (Keeps.refl s)

theorem installAbort_keeps {a0 a1 a2 s} : Keeps [.cnt, .hif, .slots, .groups, .plots, .alert] s (installAbort a0 a1 a2 s) := by
  delta installAbort
  extract_lets -merge -underBinder +onlyGivenNames x0
  refine keeps_ite ?_ ?_
  · refine Keeps.after ?_ (complete_keeps ..) rfl
    exact (Keeps.refl s)
  · split
    · refine Keeps.after ?_ (complete_keeps ..) rfl
      refine Keeps.after ?_ (emptyBank_keeps ..) rfl
      refine Keeps.after ?_ (stopCheck_keeps ..) rfl
      exact (Keeps.refl s)
    · split
      · refine Keeps.after ?_ (complete_keeps ..) rfl
        refine Keeps.after ?_ (emptyBank_keeps ..) rfl
        exact (Keeps.refl s)
      · split
        · refine keeps_ite ?_ ?_
          · refine Keeps.after ?_ (complete_keeps ..) rfl
            refine Keeps.after ?_ (freeIfUnbound_keeps ..) rfl
            refine Keeps.after ?_ (setBank_keeps ..) rfl
            exact (Keeps.refl s)
          · refine Keeps.after ?_ (complete_keeps ..) rfl
            exact (Keeps.refl s)
        · refine Keeps.after ?_ (complete_keeps ..) rfl
          exact (Keeps.refl s)

theorem execInstallAbort_keeps {a0 a1 s} : KeepsOut [.cnt, .hif, .slots, .groups, .plots, .alert] s (execInstallAbort a0 a1 s) := by
  delta execInstallAbort
  refine out_next ?_
  refine descRun_keeps ?_ rfl (fun x0 u1 ku1 => ?_)
  · exact (Keeps.refl s)
  · refine Keeps.after ?_ (installAbort_keeps ..) rfl
    exact ku1

theorem abandonInstalls_keeps {a0 s} : Keeps [.cnt, .hif, .slots, .groups, .plots, .alert] s (abandonInstalls a0 s) := by
  delta abandonInstalls
  refine keeps_each ?_ (fun x0 u1 ku1 => ?_)
  · exact (Keeps.refl s)
  · extract_lets -merge -underBinder +onlyGivenNames u2
    extract_lets -merge -underBinder +onlyGivenNames u3
    have ku3 : Keeps [.cnt, .hif, .slots, .groups, .plots, .alert] s u3 := by
      refine Keeps.after ?_ (setSlot_keeps ..) rfl
      exact ku1
    refine keeps_each ?_ (fun x4 u5 ku5 => ?_)
    · exact ku3
    · extract_lets -merge -underBinder +onlyGivenNames x6
      refine keeps_ite ?_ ?_
      · refine Keeps.after ?_ (bump_keeps ..) rfl
        refine Keeps.after ?_ (raise_keeps ..) rfl
        refine Keeps.after ?_ (emptyBank_keeps ..) rfl
        exact ku5
      · exact ku5

end Sys2Proof.Machine
end

