-- ==== Sys2Proof/Laws/KeepsReset.lean ====
section
/-! SUPPORT. What each operation and command of Machine/Reset.lean changes, and that it keeps the invariant. -/
namespace Sys2Proof.Machine

set_option Elab.async false

theorem hardReset_keeps {s} : Keeps (withReset []) s (hardReset s) := by
  refine ⟨?_, fun h => ?_⟩
  · intro p hp
    cases p <;> first | rfl | exact ⟨rfl, rfl⟩ | exact absurd (by decide) hp
  · refine ⟨rfl, rfl, twf_tset (twf_tset rfl), rfl, ?_⟩
    show (tapAfterHard s.tap).diesel.testBit 0 = true
    unfold tapAfterHard
    split
    · exact h.diesel
    · exact h.diesel

theorem startBringup_keeps {s} : Keeps [.phase] s (startBringup s) := by
  delta startBringup
  refine keeps_ite ?_ ?_
  · exact (Keeps.refl s)
  · refine Keeps.upd_phase ?_ rfl
    exact (Keeps.refl s)

theorem powerOn_keeps {gen rev serial fm63 seed smb s} :
    Keeps (withReset [.trip, .rail, .fuses]) s (powerOn gen rev serial fm63 seed smb s) := by
  refine keeps_ite (Keeps.refl s) ⟨?_, fun _ => ⟨rfl, rfl, rfl, rfl, (by decide : Tap.init.diesel.testBit 0 = true)⟩⟩
  intro p hp
  cases p <;> first | rfl | exact absurd (by decide) hp

theorem execPowerOn_keeps {a0 a1 a2 a3 a4 a5 s} :
    KeepsOut (withRegs (.run :: .phase :: .fatal :: .trip :: .rail :: .fuses :: .dies :: .glb :: .cnt :: .clk :: .hif :: .streams :: .msgs :: .frames :: .plg :: [.tables, .tblBad, .egress, .slots, .sheaves, .groups, .plots, .tiles, .switches, .sus, .fab, .waits, .yoke, .hbm, .poison, .mem, .answer, .ports, .fm, .bbs, .ptp, .links, .hrw, .twp, .tap, .trc, .alert, .nextMid, .nextFid, .nextBuild, .nextSid])) s (execPowerOn a0 a1 a2 a3 a4 a5 s) := by
  delta execPowerOn
  refine out_next ?_
  refine Keeps.after ?_ (powerOn_keeps ..) rfl
  exact (Keeps.refl s)

theorem powerOff_keeps {s} : Keeps (withReset [.trip, .rail]) s (powerOff s) := by
  refine ⟨?_, fun _ => ⟨rfl, rfl, rfl, rfl, (by decide : Tap.init.diesel.testBit 0 = true)⟩⟩
  intro p hp
  cases p <;> first | rfl | exact ⟨rfl, rfl⟩ | exact absurd (by decide) hp

theorem execPowerOff_keeps {s} :
    KeepsOut (withRegs (.run :: .phase :: .fatal :: .trip :: .rail :: .dies :: .glb :: .cnt :: .clk :: .hif :: .streams :: .msgs :: .frames :: .plg :: [.tables, .tblBad, .egress, .slots, .sheaves, .groups, .plots, .tiles, .switches, .sus, .fab, .waits, .yoke, .hbm, .poison, .mem, .answer, .ports, .fm, .bbs, .ptp, .links, .hrw, .twp, .tap, .trc, .alert, .nextMid, .nextFid, .nextBuild, .nextSid])) s (execPowerOff s) := by
  delta execPowerOff
  refine out_next ?_
  refine Keeps.after ?_ (powerOff_keeps ..) rfl
  exact (Keeps.refl s)

theorem railFault_keeps {s} :
    Keeps (withRegs (.run :: .phase :: .fatal :: .rail :: .dies :: .glb :: .cnt :: .clk :: .hif :: .streams :: .msgs :: .frames :: .plg :: [.tables, .tblBad, .egress, .slots, .sheaves, .groups, .plots, .tiles, .switches, .sus, .fab, .waits, .yoke, .hbm, .poison, .mem, .answer, .ports, .fm, .bbs, .ptp, .links, .hrw, .twp, .tap, .trc, .alert, .nextMid, .nextFid, .nextBuild, .nextSid])) s (railFault s) := by
  delta railFault
  refine keeps_ite ?_ ?_
  · exact (Keeps.refl s)
  · refine Keeps.after ?_ (hardReset_keeps ..) rfl
    refine Keeps.upd_rail ?_ rfl
    exact (Keeps.refl s)

theorem execRailFault_keeps {s} :
    KeepsOut (withRegs (.run :: .phase :: .fatal :: .rail :: .dies :: .glb :: .cnt :: .clk :: .hif :: .streams :: .msgs :: .frames :: .plg :: [.tables, .tblBad, .egress, .slots, .sheaves, .groups, .plots, .tiles, .switches, .sus, .fab, .waits, .yoke, .hbm, .poison, .mem, .answer, .ports, .fm, .bbs, .ptp, .links, .hrw, .twp, .tap, .trc, .alert, .nextMid, .nextFid, .nextBuild, .nextSid])) s (execRailFault s) := by
  delta execRailFault
  refine out_next ?_
  refine Keeps.after ?_ (railFault_keeps ..) rfl
  exact (Keeps.refl s)

theorem devRstAssert_keeps {ns s} : Keeps (withReset [.freeCtr]) s (devRstAssert ns s) := by
  have hd : Keeps (withReset [.freeCtr]) s (if ns < 10000 then drawFree s else (1, s)).2 := by
    split
    · exact drawFree_keeps.weaken rfl
    · exact Keeps.refl s
  refine keeps_ite (Keeps.refl s) ?_
  revert hd
  generalize (if ns < 10000 then drawFree s else (1, s)) = x
  obtain ⟨w, u⟩ := x
  intro hd
  refine keeps_ite (Keeps.after ?_ hardReset_keeps rfl) hd
  exact (Keeps.after (t := u) hd (orReg_in (b := .regRst) rfl) rfl).after (Keeps.upd_glb (ps := [.glb]) (Keeps.refl _) rfl rfl rfl rfl rfl rfl rfl rfl rfl rfl) rfl

theorem execDevRstAssert_keeps {a0 s} :
    KeepsOut (withRegs (.run :: .phase :: .fatal :: .dies :: .glb :: .cnt :: .clk :: .hif :: .streams :: .msgs :: .frames :: .plg :: .tables :: [.tblBad, .egress, .slots, .sheaves, .groups, .plots, .tiles, .switches, .sus, .fab, .waits, .yoke, .hbm, .poison, .mem, .answer, .ports, .fm, .bbs, .ptp, .links, .hrw, .twp, .tap, .trc, .alert, .nextMid, .nextFid, .nextBuild, .nextSid, .freeCtr])) s (execDevRstAssert a0 s) := by
  delta execDevRstAssert
  refine out_next ?_
  refine Keeps.after ?_ (devRstAssert_keeps ..) rfl
  exact (Keeps.refl s)

theorem devRstRelease_keeps {s} : Keeps [.phase, .glb, .regYok] s (devRstRelease s) := by
  delta devRstRelease
  refine keeps_ite ?_ ?_
  · exact (Keeps.refl s)
  · extract_lets -merge -underBinder +onlyGivenNames u0
    extract_lets -merge -underBinder +onlyGivenNames u1
    have ku1 : Keeps [.phase, .glb, .regYok] s u1 := by
      refine Keeps.upd_glb ?_ rfl
      exact (Keeps.refl s)
    refine Keeps.after ?_ (startBringup_keeps ..) rfl
    refine Keeps.after ?_ (setReg_in (b := .regYok) rfl) rfl
    exact ku1

theorem execDevRstRelease_keeps {s} : KeepsOut [.phase, .glb, .regYok] s (execDevRstRelease s) := by
  delta execDevRstRelease
  refine out_next ?_
  refine Keeps.after ?_ (devRstRelease_keeps ..) rfl
  exact (Keeps.refl s)

theorem thermalTrip_keeps {s} :
    Keeps (withRegs (.run :: .phase :: .fatal :: .trip :: .dies :: .glb :: .cnt :: .clk :: .hif :: .streams :: .msgs :: .frames :: .plg :: [.tables, .tblBad, .egress, .slots, .sheaves, .groups, .plots, .tiles, .switches, .sus, .fab, .waits, .yoke, .hbm, .poison, .mem, .answer, .ports, .fm, .bbs, .ptp, .links, .hrw, .twp, .tap, .trc, .alert, .nextMid, .nextFid, .nextBuild, .nextSid])) s (thermalTrip s) := by
  delta thermalTrip
  refine keeps_ite ?_ ?_
  · exact (Keeps.refl s)
  · refine Keeps.after ?_ (hardReset_keeps ..) rfl
    refine Keeps.upd_trip ?_ rfl
    exact (Keeps.refl s)

theorem execThermalTrip_keeps {s} :
    KeepsOut (withRegs (.run :: .phase :: .fatal :: .trip :: .dies :: .glb :: .cnt :: .clk :: .hif :: .streams :: .msgs :: .frames :: .plg :: [.tables, .tblBad, .egress, .slots, .sheaves, .groups, .plots, .tiles, .switches, .sus, .fab, .waits, .yoke, .hbm, .poison, .mem, .answer, .ports, .fm, .bbs, .ptp, .links, .hrw, .twp, .tap, .trc, .alert, .nextMid, .nextFid, .nextBuild, .nextSid])) s (execThermalTrip s) := by
  delta execThermalTrip
  refine out_next ?_
  refine Keeps.after ?_ (thermalTrip_keeps ..) rfl
  exact (Keeps.refl s)

theorem pllLoss_keeps {s} : Keeps (withReset []) s (pllLoss s) := by
  refine keeps_ite (Keeps.refl s) (Keeps.after ?_ hardReset_keeps rfl)
  exact ((orReg_in (b := .regRst) rfl).weaken rfl).after (Keeps.upd_glb (ps := [.glb]) (Keeps.refl _) rfl rfl rfl rfl rfl rfl rfl rfl rfl rfl) rfl

theorem execPllLoss_keeps {s} :
    KeepsOut (withRegs (.run :: .phase :: .fatal :: .dies :: .glb :: .cnt :: .clk :: .hif :: .streams :: .msgs :: .frames :: .plg :: [.tables, .tblBad, .egress, .slots, .sheaves, .groups, .plots, .tiles, .switches, .sus, .fab, .waits, .yoke, .hbm, .poison, .mem, .answer, .ports, .fm, .bbs, .ptp, .links, .hrw, .twp, .tap, .trc, .alert, .nextMid, .nextFid, .nextBuild, .nextSid])) s (execPllLoss s) := by
  delta execPllLoss
  refine out_next ?_
  refine Keeps.after ?_ (pllLoss_keeps ..) rfl
  exact (Keeps.refl s)

theorem pllRelock_keeps {s} : Keeps [.phase, .glb] s (pllRelock s) := by
  delta pllRelock
  refine keeps_ite ?_ ?_
  · exact (Keeps.refl s)
  · refine Keeps.after ?_ (startBringup_keeps ..) rfl
    refine Keeps.upd_glb ?_ rfl
    exact (Keeps.refl s)

theorem execPllRelock_keeps {s} : KeepsOut [.phase, .glb] s (execPllRelock s) := by
  delta execPllRelock
  refine out_next ?_
  refine Keeps.after ?_ (pllRelock_keeps ..) rfl
  exact (Keeps.refl s)

theorem bringupFail_keeps {a0 s} : Keeps [.phase, .glb, .alert] s (bringupFail a0 s) := by
  delta bringupFail
  refine Keeps.after ?_ (latchAlert_keeps ..) rfl
  refine Keeps.upd_phase_glb ?_ rfl
  exact (Keeps.refl s)

theorem bringupDies_keeps {a0 s} :
    Keeps [.phase, .fatal, .dies, .glb, .regYok, .cnt, .clk, .hif, .streams, .msgs, .frames, .plg, .egress, .slots, .sheaves, .groups, .plots, .tiles, .switches, .sus, .fab, .waits, .yoke, .mem, .ports, .bbs, .links, .hrw, .alert, .nextBuild, .nextSid] s (bringupDies a0 s) := by
  delta bringupDies
  extract_lets -merge -underBinder +onlyGivenNames u0
  have ku0 : Keeps [.phase, .fatal, .dies, .glb, .regYok, .cnt, .clk, .hif, .streams, .msgs, .frames, .plg, .egress, .slots, .sheaves, .groups, .plots, .tiles, .switches, .sus, .fab, .waits, .yoke, .mem, .ports, .bbs, .links, .hrw, .alert, .nextBuild, .nextSid] s u0 := by
    refine keeps_each ?_ (fun x1 u2 ku2 => ?_)
    · exact (Keeps.refl s)
    · refine Keeps.after ?_ (declareDie_keeps ..) rfl
      exact ku2
  refine keeps_ite ?_ ?_
  · refine Keeps.after ?_ (bringupFail_keeps ..) rfl
    exact ku0
  · exact ku0

theorem otpDone_keeps {a0 s} : Keeps [.phase, .glb, .alert] s (otpDone a0 s) := by
  delta otpDone
  refine keeps_ite ?_ ?_
  · exact (Keeps.refl s)
  · refine keeps_ite ?_ ?_
    · refine Keeps.upd_phase ?_ rfl
      exact (Keeps.refl s)
    · refine Keeps.after ?_ (bringupFail_keeps ..) rfl
      exact (Keeps.refl s)

theorem execBringupOtpDone_keeps {a0 s} : KeepsOut [.phase, .glb, .alert] s (execBringupOtpDone a0 s) := by
  delta execBringupOtpDone
  refine out_next ?_
  refine Keeps.after ?_ (otpDone_keeps ..) rfl
  exact (Keeps.refl s)

theorem clocksLocked_keeps {a0 a1 s} :
    Keeps [.phase, .fatal, .dies, .glb, .regYok, .cnt, .clk, .hif, .streams, .msgs, .frames, .plg, .egress, .slots, .sheaves, .groups, .plots, .tiles, .switches, .sus, .fab, .waits, .yoke, .mem, .ports, .bbs, .links, .hrw, .alert, .nextBuild, .nextSid] s (clocksLocked a0 a1 s) := by
  delta clocksLocked
  refine keeps_ite ?_ ?_
  · exact (Keeps.refl s)
  · refine keeps_ite ?_ ?_
    · refine Keeps.after ?_ (bringupFail_keeps ..) rfl
      exact (Keeps.refl s)
    · extract_lets -merge -underBinder +onlyGivenNames u0
      extract_lets -merge -underBinder +onlyGivenNames u1
      extract_lets -merge -underBinder +onlyGivenNames u2
      have ku2 : Keeps [.phase, .fatal, .dies, .glb, .regYok, .cnt, .clk, .hif, .streams, .msgs, .frames, .plg, .egress, .slots, .sheaves, .groups, .plots, .tiles, .switches, .sus, .fab, .waits, .yoke, .mem, .ports, .bbs, .links, .hrw, .alert, .nextBuild, .nextSid] s u2 := by
        refine Keeps.upd_phase_dies_clk ?_ rfl
        exact (Keeps.refl s)
      refine Keeps.after ?_ (bringupDies_keeps ..) rfl
      exact ku2

theorem execBringupClocksLocked_keeps {a0 a1 s} :
    KeepsOut [.phase, .fatal, .dies, .glb, .regYok, .cnt, .clk, .hif, .streams, .msgs, .frames, .plg, .egress, .slots, .sheaves, .groups, .plots, .tiles, .switches, .sus, .fab, .waits, .yoke, .mem, .ports, .bbs, .links, .hrw, .alert, .nextBuild, .nextSid] s (execBringupClocksLocked a0 a1 s) := by
  delta execBringupClocksLocked
  refine out_next ?_
  refine Keeps.after ?_ (clocksLocked_keeps ..) rfl
  exact (Keeps.refl s)

theorem linksTrained_keeps {a0 s} :
    Keeps [.phase, .fatal, .dies, .glb, .regYok, .cnt, .clk, .hif, .streams, .msgs, .frames, .plg, .egress, .slots, .sheaves, .groups, .plots, .tiles, .switches, .sus, .fab, .waits, .yoke, .mem, .ports, .bbs, .links, .hrw, .alert, .nextBuild, .nextSid] s (linksTrained a0 s) := by
  delta linksTrained
  refine keeps_ite ?_ ?_
  · exact (Keeps.refl s)
  · split
    rename_i x0 u1 x2 hq3
    have ku1 : Keeps [.phase, .fatal, .dies, .glb, .regYok, .cnt, .clk, .hif, .streams, .msgs, .frames, .plg, .egress, .slots, .sheaves, .groups, .plots, .tiles, .switches, .sus, .fab, .waits, .yoke, .mem, .ports, .bbs, .links, .hrw, .alert, .nextBuild, .nextSid] s u1 := by
      have hp : Keeps [.phase, .fatal, .dies, .glb, .regYok, .cnt, .clk, .hif, .streams, .msgs, .frames, .plg, .egress, .slots, .sheaves, .groups, .plots, .tiles, .switches, .sus, .fab, .waits, .yoke, .mem, .ports, .bbs, .links, .hrw, .alert, .nextBuild, .nextSid] s (Prod.fst (u1, x2)) := by
        rw [← hq3]
        refine keeps_foldl_p (p := Prod.fst) ?_ (fun u5 x4 ku5 => ?_)
        · refine keeps_fst ?_
          exact (Keeps.refl s)
        · extract_lets -merge -underBinder +onlyGivenNames x6
          split
          rename_i x7 u8 x9 hq10
          have ku8 : Keeps [.phase, .fatal, .dies, .glb, .regYok, .cnt, .clk, .hif, .streams, .msgs, .frames, .plg, .egress, .slots, .sheaves, .groups, .plots, .tiles, .switches, .sus, .fab, .waits, .yoke, .mem, .ports, .bbs, .links, .hrw, .alert, .nextBuild, .nextSid] s u8 := by
            have hp : Keeps [.phase, .fatal, .dies, .glb, .regYok, .cnt, .clk, .hif, .streams, .msgs, .frames, .plg, .egress, .slots, .sheaves, .groups, .plots, .tiles, .switches, .sus, .fab, .waits, .yoke, .mem, .ports, .bbs, .links, .hrw, .alert, .nextBuild, .nextSid] s (Prod.fst (u8, x9)) := by
              rw [← hq10]
              refine Keeps.after ?_ (firstTraining_keeps ..) rfl
              exact ku5
            exact hp
          refine keeps_fst ?_
          exact ku8
      exact hp
    extract_lets -merge -underBinder +onlyGivenNames u11
    extract_lets -merge -underBinder +onlyGivenNames u12
    have ku12 : Keeps [.phase, .fatal, .dies, .glb, .regYok, .cnt, .clk, .hif, .streams, .msgs, .frames, .plg, .egress, .slots, .sheaves, .groups, .plots, .tiles, .switches, .sus, .fab, .waits, .yoke, .mem, .ports, .bbs, .links, .hrw, .alert, .nextBuild, .nextSid] s u12 := by
      refine Keeps.upd_phase ?_ rfl
      exact ku1
    refine Keeps.after ?_ (bringupDies_keeps ..) rfl
    exact ku12

theorem execBringupLinksTrained_keeps {a0 s} :
    KeepsOut [.phase, .fatal, .dies, .glb, .regYok, .cnt, .clk, .hif, .streams, .msgs, .frames, .plg, .egress, .slots, .sheaves, .groups, .plots, .tiles, .switches, .sus, .fab, .waits, .yoke, .mem, .ports, .bbs, .links, .hrw, .alert, .nextBuild, .nextSid] s (execBringupLinksTrained a0 s) := by
  delta execBringupLinksTrained
  refine out_next ?_
  refine Keeps.after ?_ (linksTrained_keeps ..) rfl
  exact (Keeps.refl s)

theorem memoryDone_keeps {a0 s} :
    Keeps (.phase :: .fatal :: [.dies, .glb, .regYok, .cnt, .clk, .hif, .streams, .msgs, .frames, .plg, .egress, .slots, .sheaves, .groups, .plots, .tiles, .switches, .sus, .fab, .waits, .yoke, .hbm, .poison, .mem, .ports, .bbs, .links, .hrw, .alert, .nextBuild, .nextSid]) s (memoryDone a0 s) := by
  delta memoryDone
  refine keeps_ite ?_ ?_
  · exact (Keeps.refl s)
  · extract_lets -merge -underBinder +onlyGivenNames u0
    extract_lets -merge -underBinder +onlyGivenNames u1
    extract_lets -merge -underBinder +onlyGivenNames u2
    have ku2 : Keeps (.phase :: .fatal :: [.dies, .glb, .regYok, .cnt, .clk, .hif, .streams, .msgs, .frames, .plg, .egress, .slots, .sheaves, .groups, .plots, .tiles, .switches, .sus, .fab, .waits, .yoke, .hbm, .poison, .mem, .ports, .bbs, .links, .hrw, .alert, .nextBuild, .nextSid]) s u2 := by
      refine Keeps.upd_glb_hbm_poison_mem ?_ (fun _ => rfl) (fun _ => rfl) rfl
      exact (Keeps.refl s)
    refine Keeps.after ?_ (bringupDies_keeps ..) rfl
    exact ku2

theorem execBringupMemoryDone_keeps {a0 s} :
    KeepsOut (.phase :: .fatal :: [.dies, .glb, .regYok, .cnt, .clk, .hif, .streams, .msgs, .frames, .plg, .egress, .slots, .sheaves, .groups, .plots, .tiles, .switches, .sus, .fab, .waits, .yoke, .hbm, .poison, .mem, .ports, .bbs, .links, .hrw, .alert, .nextBuild, .nextSid]) s (execBringupMemoryDone a0 s) := by
  delta execBringupMemoryDone
  refine out_next ?_
  refine Keeps.after ?_ (memoryDone_keeps ..) rfl
  exact (Keeps.refl s)

theorem afterStandby_keeps {s} : Keeps [.phase, .regYok, .cnt, .clk, .hif, .plots, .yoke, .alert] s (afterStandby s) := by
  delta afterStandby
  refine keeps_ite ?_ ?_
  · exact (Keeps.refl s)
  · refine keeps_ite ?_ ?_
    · extract_lets -merge -underBinder +onlyGivenNames u0
      extract_lets -merge -underBinder +onlyGivenNames u1
      have ku1 : Keeps [.phase, .regYok, .cnt, .clk, .hif, .plots, .yoke, .alert] s u1 := by
        refine Keeps.upd_yoke ?_ rfl
        exact (Keeps.refl s)
      refine Keeps.after ?_ (setYok_keeps ..) rfl
      exact ku1
    · refine keeps_ite ?_ ?_
      · refine Keeps.after ?_ (enterHoldoff_keeps ..) rfl
        exact (Keeps.refl s)
      · exact (Keeps.refl s)

theorem applyRun_keeps {s} : Keeps [.run, .phase, .glb, .regYok, .cnt, .clk, .hif, .plots, .yoke, .alert] s (applyRun s) := by
  delta applyRun
  extract_lets -merge -underBinder +onlyGivenNames x0
  refine keeps_ite ?_ ?_
  · exact (Keeps.refl s)
  · refine Keeps.after ?_ (afterStandby_keeps ..) rfl
    refine Keeps.upd_run_glb ?_ rfl
    exact (Keeps.refl s)

theorem standbyReached_keeps {a0 s} :
    Keeps [.run, .phase, .glb, .regYok, .cnt, .clk, .hif, .plots, .yoke, .alert] s (standbyReached a0 s) := by
  delta standbyReached
  refine keeps_ite ?_ ?_
  · exact (Keeps.refl s)
  · extract_lets -merge -underBinder +onlyGivenNames u0
    extract_lets -merge -underBinder +onlyGivenNames u1
    extract_lets -merge -underBinder +onlyGivenNames u2
    have ku2 : Keeps [.run, .phase, .glb, .regYok, .cnt, .clk, .hif, .plots, .yoke, .alert] s u2 := by
      refine Keeps.upd_phase_yoke ?_ rfl
      exact (Keeps.refl s)
    refine Keeps.after ?_ (afterStandby_keeps ..) rfl
    refine Keeps.after ?_ (applyRun_keeps ..) rfl
    refine Keeps.after ?_ (yokReport_keeps ..) rfl
    refine Keeps.after ?_ (setYok_keeps ..) rfl
    exact ku2

theorem execStandbyReached_keeps {a0 s} :
    KeepsOut [.run, .phase, .glb, .regYok, .cnt, .clk, .hif, .plots, .yoke, .alert] s (execStandbyReached a0 s) := by
  delta execStandbyReached
  refine out_next ?_
  refine Keeps.after ?_ (standbyReached_keeps ..) rfl
  exact (Keeps.refl s)

theorem runSet_keeps {s} : Keeps [.run, .phase, .glb, .regYok, .cnt, .clk, .hif, .plots, .yoke, .alert] s (runSet s) := by
  delta runSet
  refine keeps_ite ?_ ?_
  · exact (Keeps.refl s)
  · refine Keeps.after ?_ (applyRun_keeps ..) rfl
    refine Keeps.upd_glb ?_ rfl
    exact (Keeps.refl s)

theorem execRunSet_keeps {s} : KeepsOut [.run, .phase, .glb, .regYok, .cnt, .clk, .hif, .plots, .yoke, .alert] s (execRunSet s) := by
  delta execRunSet
  refine out_ite ?_ ?_
  · trivial
  · refine out_next ?_
    refine keeps_ite ?_ ?_
    · refine Keeps.after ?_ (runSet_keeps ..) rfl
      exact (Keeps.refl s)
    · exact (Keeps.refl s)

theorem dropLevel_keeps {s} : Keeps [.yoke] s (dropLevel s) := by
  delta dropLevel
  refine Keeps.upd_yoke ?_ rfl
  exact (Keeps.refl s)

theorem softRequest_keeps {a0 a1 s} :
    Keeps [.phase, .glb, .regRst, .regYok, .cnt, .clk, .hif, .plots, .yoke, .alert] s (softRequest a0 a1 s) := by
  delta softRequest
  refine keeps_ite ?_ ?_
  · refine Keeps.after ?_ (bump_keeps ..) rfl
    exact (Keeps.refl s)
  · refine keeps_ite ?_ ?_
    · refine keeps_ite ?_ ?_
      · refine Keeps.after ?_ (dropLevel_keeps ..) rfl
        refine Keeps.after ?_ (orReg_in (b := .regRst) rfl) rfl
        refine Keeps.upd_glb ?_ rfl
        exact (Keeps.refl s)
      · refine Keeps.after ?_ (bump_keeps ..) rfl
        exact (Keeps.refl s)
    · refine keeps_ite ?_ ?_
      · refine Keeps.after ?_ (bump_keeps ..) rfl
        exact (Keeps.refl s)
      · extract_lets -merge -underBinder +onlyGivenNames u0 u1 u2
        have ku0 : Keeps [.phase, .glb, .regRst, .regYok, .cnt, .clk, .hif, .plots, .yoke, .alert] s u0 := by
          refine Keeps.after ?_ (orReg_in (b := .regRst) rfl) rfl
          exact (Keeps.refl s)
        extract_lets -merge -underBinder +onlyGivenNames u3 u4
        have ku3 : Keeps [.phase, .glb, .regRst, .regYok, .cnt, .clk, .hif, .plots, .yoke, .alert] s u3 := by
          refine Keeps.upd_phase_glb_yoke ?_ rfl
          exact ku0
        have ku4 : Keeps [.phase, .glb, .regRst, .regYok, .cnt, .clk, .hif, .plots, .yoke, .alert] s u4 := by
          refine keeps_ite ?_ ?_
          · exact ku3
          · refine Keeps.after ?_ (setYok_keeps ..) rfl
            exact ku3
        refine keeps_ite ?_ ?_
        · refine Keeps.after ?_ (dropLevel_keeps ..) rfl
          exact ku4
        · exact ku4

theorem execSoftRst_keeps {a0 s} :
    KeepsOut [.phase, .glb, .regGlb, .regRst, .regYok, .cnt, .clk, .hif, .plots, .yoke, .alert] s (execSoftRst a0 s) := by
  delta execSoftRst
  refine out_next ?_
  refine keeps_ite ?_ ?_
  · refine Keeps.after ?_ (softRequest_keeps ..) rfl
    refine Keeps.after ?_ (setReg_in (b := .regGlb) rfl) rfl
    exact (Keeps.refl s)
  · exact (Keeps.refl s)

theorem softQuiesce_keeps {s} :
    Keeps [.glb, .regYok, .cnt, .clk, .hif, .streams, .msgs, .frames, .plg, .egress, .slots, .sheaves, .groups, .plots, .waits, .yoke, .ports, .bbs, .alert, .nextBuild, .nextSid] s (softQuiesce s) := by
  delta softQuiesce
  refine keeps_ite ?_ ?_
  · exact (Keeps.refl s)
  · extract_lets -merge -underBinder +onlyGivenNames u0 u1 x2 u3
    have ku1 : Keeps [.glb, .regYok, .cnt, .clk, .hif, .streams, .msgs, .frames, .plg, .egress, .slots, .sheaves, .groups, .plots, .waits, .yoke, .ports, .bbs, .alert, .nextBuild, .nextSid] s u1 := by
      refine Keeps.upd_glb ?_ rfl
      exact (Keeps.refl s)
    have kx2 : Keeps [.glb, .regYok, .cnt, .clk, .hif, .streams, .msgs, .frames, .plg, .egress, .slots, .sheaves, .groups, .plots, .waits, .yoke, .ports, .bbs, .alert, .nextBuild, .nextSid] s x2 := by
      refine Keeps.after ?_ (abortDescs_keeps ..) rfl
      refine keeps_ite ?_ ?_
      · exact ku1
      · refine Keeps.after ?_ (setYok_keeps ..) rfl
        exact ku1
    extract_lets -merge -underBinder +onlyGivenNames u4
    have ku4 : Keeps [.glb, .regYok, .cnt, .clk, .hif, .streams, .msgs, .frames, .plg, .egress, .slots, .sheaves, .groups, .plots, .waits, .yoke, .ports, .bbs, .alert, .nextBuild, .nextSid] s u4 := by
      refine Keeps.after ?_ (dropTraffic_keeps ..) rfl
      refine Keeps.after ?_ (silenceAll_keeps ..) rfl
      exact kx2
    refine keeps_ite ?_ ?_
    · exact ku4
    · refine Keeps.after ?_ (bump_keeps ..) rfl
      exact ku4

theorem execSoftResetQuiesce_keeps {s} :
    KeepsOut [.glb, .regYok, .cnt, .clk, .hif, .streams, .msgs, .frames, .plg, .egress, .slots, .sheaves, .groups, .plots, .waits, .yoke, .ports, .bbs, .alert, .nextBuild, .nextSid] s (execSoftResetQuiesce s) := by
  delta execSoftResetQuiesce
  refine out_next ?_
  refine Keeps.after ?_ (bbSettle_keeps ..) rfl
  refine Keeps.after ?_ (softQuiesce_keeps ..) rfl
  exact (Keeps.refl s)

theorem clearPath_keeps {s} :
    Keeps [.regSyn, .streams, .msgs, .frames, .plg, .egress, .sheaves, .groups, .plots, .tiles, .switches, .sus, .fab, .waits, .yoke, .mem, .ports] s (clearPath s) := by
  delta clearPath
  extract_lets -merge -underBinder +onlyGivenNames u0
  have ku0 : Keeps [.regSyn, .streams, .msgs, .frames, .plg, .egress, .sheaves, .groups, .plots, .tiles, .switches, .sus, .fab, .waits, .yoke, .mem, .ports] s u0 := by
    refine keeps_each ?_ (fun x1 u2 ku2 => ?_)
    · exact (Keeps.refl s)
    · refine Keeps.after ?_ (setSynSat_keeps ..) rfl
      refine Keeps.after ?_ (setSyn_keeps ..) rfl
      exact ku2
  refine Keeps.upd_streams_msgs_frames_plg_egress_sheaves_groups_plots_tiles_switches_sus_fab_waits_yoke_mem_ports ?_ rfl
  exact ku0

theorem dropRotations_keeps {s} : Keeps [.plots] s (dropRotations s) := by
  delta dropRotations
  refine keeps_each ?_ (fun x0 u1 ku1 => ?_)
  · exact (Keeps.refl s)
  · split
    · refine keeps_each ?_ (fun x2 u3 ku3 => ?_)
      · exact ku1
      · refine Keeps.after ?_ (freePlot_keeps ..) rfl
        exact ku3
    · exact ku1

theorem slotBad_keeps {a0 s} : Keeps [.cnt, .hif, .slots, .groups, .plots, .alert] s (slotBad a0 s) := by
  delta slotBad
  extract_lets -merge -underBinder +onlyGivenNames x0 x1
  refine Keeps.after ?_ (emptyBank_keeps ..) rfl
  refine Keeps.after ?_ (emptyBank_keeps ..) rfl
  refine Keeps.after ?_ (raise_keeps ..) rfl
  exact (Keeps.refl s)

theorem softClear_keeps {a0 s} :
    Keeps [.glb, .regSyn, .cnt, .hif, .streams, .msgs, .frames, .plg, .tables, .egress, .slots, .sheaves, .groups, .plots, .tiles, .switches, .sus, .fab, .waits, .yoke, .mem, .ports, .links, .alert] s (softClear a0 s) := by
  delta softClear
  refine keeps_ite ?_ ?_
  · exact (Keeps.refl s)
  · extract_lets -merge -underBinder +onlyGivenNames u0 u1 u2
    have ku1 : Keeps [.glb, .regSyn, .cnt, .hif, .streams, .msgs, .frames, .plg, .tables, .egress, .slots, .sheaves, .groups, .plots, .tiles, .switches, .sus, .fab, .waits, .yoke, .mem, .ports, .links, .alert] s u1 := by
      refine Keeps.upd_glb ?_ rfl
      exact (Keeps.refl s)
    have ku2 : Keeps [.glb, .regSyn, .cnt, .hif, .streams, .msgs, .frames, .plg, .tables, .egress, .slots, .sheaves, .groups, .plots, .tiles, .switches, .sus, .fab, .waits, .yoke, .mem, .ports, .links, .alert] s u2 := by
      refine Keeps.after ?_ (flushLinks_keeps ..) rfl
      refine Keeps.after ?_ (clearPath_keeps ..) rfl
      refine Keeps.after ?_ (dropRotations_keeps ..) rfl
      refine Keeps.after ?_ (abandonInstalls_keeps ..) rfl
      exact ku1
    extract_lets -merge -underBinder +onlyGivenNames u3
    have ku3 : Keeps [.glb, .regSyn, .cnt, .hif, .streams, .msgs, .frames, .plg, .tables, .egress, .slots, .sheaves, .groups, .plots, .tiles, .switches, .sus, .fab, .waits, .yoke, .mem, .ports, .links, .alert] s u3 := by
      refine keeps_each ?_ (fun x4 u5 ku5 => ?_)
      · exact ku2
      · refine Keeps.after ?_ (clearWatch_keeps ..) rfl
        exact ku5
    refine keeps_each ?_ (fun x6 u7 ku7 => ?_)
    · exact ku3
    · refine Keeps.after ?_ (slotBad_keeps ..) rfl
      exact ku7

theorem execSoftResetClear_keeps {a0 s} :
    KeepsOut [.glb, .regSyn, .cnt, .hif, .streams, .msgs, .frames, .plg, .tables, .egress, .slots, .sheaves, .groups, .plots, .tiles, .switches, .sus, .fab, .waits, .yoke, .mem, .ports, .links, .alert] s (execSoftResetClear a0 s) := by
  delta execSoftResetClear
  refine out_next ?_
  refine Keeps.after ?_ (softClear_keeps ..) rfl
  exact (Keeps.refl s)

theorem softRestore_keeps {s} :
    Keeps [.phase, .glb, .regYok, .regMem, .cnt, .clk, .hif, .streams, .msgs, .egress, .slots, .sheaves, .groups, .plots, .tiles, .switches, .sus, .fab, .waits, .yoke, .hbm, .poison, .mem, .links, .hrw, .trc, .alert, .nextBuild, .nextSid] s (softRestore s) := by
  delta softRestore
  refine keeps_ite ?_ ?_
  · exact (Keeps.refl s)
  · extract_lets -merge -underBinder +onlyGivenNames u0 x1 u2 u3
    have ku0 : Keeps [.phase, .glb, .regYok, .regMem, .cnt, .clk, .hif, .streams, .msgs, .egress, .slots, .sheaves, .groups, .plots, .tiles, .switches, .sus, .fab, .waits, .yoke, .hbm, .poison, .mem, .links, .hrw, .trc, .alert, .nextBuild, .nextSid] s u0 := by
      refine keeps_each ?_ (fun x4 u5 ku5 => ?_)
      · exact (Keeps.refl s)
      · refine Keeps.after ?_ (residentFill_keeps ..) rfl
        exact ku5
    have ku3 : Keeps [.phase, .glb, .regYok, .regMem, .cnt, .clk, .hif, .streams, .msgs, .egress, .slots, .sheaves, .groups, .plots, .tiles, .switches, .sus, .fab, .waits, .yoke, .hbm, .poison, .mem, .links, .hrw, .trc, .alert, .nextBuild, .nextSid] s u3 := by
      refine Keeps.upd_phase_glb ?_ rfl
      exact ku0
    extract_lets -merge -underBinder +onlyGivenNames u6
    have ku6 : Keeps [.phase, .glb, .regYok, .regMem, .cnt, .clk, .hif, .streams, .msgs, .egress, .slots, .sheaves, .groups, .plots, .tiles, .switches, .sus, .fab, .waits, .yoke, .hbm, .poison, .mem, .links, .hrw, .trc, .alert, .nextBuild, .nextSid] s u6 := by
      refine Keeps.after ?_ (bump_keeps ..) rfl
      refine Keeps.after ?_ (raise_keeps ..) rfl
      exact ku3
    refine Keeps.after ?_ (readySheaves_keeps ..) rfl
    refine Keeps.after ?_ (placeUnplaced_keeps ..) rfl
    refine Keeps.after ?_ (afterStandby_keeps ..) rfl
    exact ku6

theorem execSoftResetRestoreDone_keeps {s} :
    KeepsOut [.phase, .glb, .regYok, .regMem, .cnt, .clk, .hif, .streams, .msgs, .egress, .slots, .sheaves, .groups, .plots, .tiles, .switches, .sus, .fab, .waits, .yoke, .hbm, .poison, .mem, .bbs, .links, .hrw, .trc, .alert, .nextBuild, .nextSid] s (execSoftResetRestoreDone s) := by
  delta execSoftResetRestoreDone
  refine out_next ?_
  refine Keeps.after ?_ (bbSettle_keeps ..) rfl
  refine Keeps.after ?_ (softRestore_keeps ..) rfl
  exact (Keeps.refl s)

theorem clearMsix_keeps {s} : Keeps [.regHif, .hif] s (clearMsix s) := by
  have h := dropRegs_keeps (lo := 0x0C00) (n := 0x400) (b := .regHif) (s := s) (by
    intro o h1 h2
    exact regBlock_eq_regHif (by omega) (by omega))
  exact (h.weaken rfl).after (Keeps.upd_hif (ps := [.hif]) (Keeps.refl _) rfl) rfl

theorem hostReset_keeps {s} : Keeps [.regHif, .hif] s (hostReset s) := by
  delta hostReset
  extract_lets -merge -underBinder +onlyGivenNames u0
  have ku0 : Keeps [.regHif, .hif] s u0 := by
    refine keeps_each ?_ (fun x1 u2 ku2 => ?_)
    · refine Keeps.after ?_ (setReg_in (b := .regHif) rfl) rfl
      exact (Keeps.refl s)
    · refine Keeps.after ?_ (setRegIn_regHif (by omega)) rfl
      refine Keeps.after ?_ (setRegIn_regHif (by omega)) rfl
      exact ku2
  refine Keeps.after ?_ (clearMsix_keeps ..) rfl
  refine Keeps.upd_hif ?_ rfl
  exact ku0

theorem cutHost_keeps {a0 s} :
    Keeps [.regHif, .cnt, .hif, .streams, .msgs, .frames, .egress, .slots, .sheaves, .groups, .plots, .waits, .yoke, .alert, .nextBuild, .nextSid] s (cutHost a0 s) := by
  delta cutHost
  extract_lets -merge -underBinder +onlyGivenNames x0 x1 u2 u3
  have ku2 : Keeps [.regHif, .cnt, .hif, .streams, .msgs, .frames, .egress, .slots, .sheaves, .groups, .plots, .waits, .yoke, .alert, .nextBuild, .nextSid] s u2 := by
    refine Keeps.after ?_ (hostReset_keeps ..) rfl
    refine Keeps.upd_streams_frames_waits ?_ rfl
    exact (Keeps.refl s)
  have ku3 : Keeps [.regHif, .cnt, .hif, .streams, .msgs, .frames, .egress, .slots, .sheaves, .groups, .plots, .waits, .yoke, .alert, .nextBuild, .nextSid] s u3 := by
    refine keeps_each ?_ (fun x4 u5 ku5 => ?_)
    · exact ku2
    · refine Keeps.after ?_ (failMsg_keeps ..) rfl
      refine Keeps.after ?_ (leaveSheaf_keeps ..) rfl
      refine Keeps.after ?_ (updMsg_keeps ..) rfl
      exact ku5
  refine Keeps.after ?_ (abandonInstalls_keeps ..) rfl
  exact ku3

theorem perstAssert_keeps {a0 s} :
    Keeps [.phase, .glb, .regRst, .regHif, .regYok, .cnt, .clk, .hif, .streams, .msgs, .frames, .egress, .slots, .sheaves, .groups, .plots, .waits, .yoke, .alert, .nextBuild, .nextSid] s (perstAssert a0 s) := by
  delta perstAssert
  refine keeps_ite ?_ ?_
  · exact (Keeps.refl s)
  · extract_lets -merge -underBinder +onlyGivenNames u0
    extract_lets -merge -underBinder +onlyGivenNames u1
    have ku1 : Keeps [.phase, .glb, .regRst, .regHif, .regYok, .cnt, .clk, .hif, .streams, .msgs, .frames, .egress, .slots, .sheaves, .groups, .plots, .waits, .yoke, .alert, .nextBuild, .nextSid] s u1 := by
      refine Keeps.after ?_ (orReg_in (b := .regRst) rfl) rfl
      refine Keeps.upd_glb ?_ rfl
      exact (Keeps.refl s)
    refine keeps_ite ?_ ?_
    · refine Keeps.after ?_ (hostReset_keeps ..) rfl
      exact ku1
    · extract_lets -merge -underBinder +onlyGivenNames u2 u3 u4
      have ku2 : Keeps [.phase, .glb, .regRst, .regHif, .regYok, .cnt, .clk, .hif, .streams, .msgs, .frames, .egress, .slots, .sheaves, .groups, .plots, .waits, .yoke, .alert, .nextBuild, .nextSid] s u2 := by
        refine Keeps.after ?_ (latchAlert_keeps ..) rfl
        exact ku1
      have ku4 : Keeps [.phase, .glb, .regRst, .regHif, .regYok, .cnt, .clk, .hif, .streams, .msgs, .frames, .egress, .slots, .sheaves, .groups, .plots, .waits, .yoke, .alert, .nextBuild, .nextSid] s u4 := by
        refine Keeps.upd_glb ?_ rfl
        exact ku2
      extract_lets -merge -underBinder +onlyGivenNames u5
      have ku5 : Keeps [.phase, .glb, .regRst, .regHif, .regYok, .cnt, .clk, .hif, .streams, .msgs, .frames, .egress, .slots, .sheaves, .groups, .plots, .waits, .yoke, .alert, .nextBuild, .nextSid] s u5 := by
        refine Keeps.after ?_ (cutHost_keeps ..) rfl
        exact ku4
      refine keeps_ite ?_ ?_
      · exact ku5
      · refine Keeps.after ?_ (softRequest_keeps ..) rfl
        exact ku5

theorem execPerstAssert_keeps {a0 s} :
    KeepsOut [.phase, .glb, .regRst, .regHif, .regYok, .cnt, .clk, .hif, .streams, .msgs, .frames, .egress, .slots, .sheaves, .groups, .plots, .waits, .yoke, .bbs, .alert, .nextBuild, .nextSid] s (execPerstAssert a0 s) := by
  delta execPerstAssert
  refine out_next ?_
  refine Keeps.after ?_ (bbSettle_keeps ..) rfl
  refine Keeps.after ?_ (perstAssert_keeps ..) rfl
  exact (Keeps.refl s)

theorem execPerstRelease_keeps {s} : KeepsOut [.glb] s (execPerstRelease s) := by
  delta execPerstRelease
  refine out_next ?_
  refine Keeps.upd_glb ?_ rfl
  exact (Keeps.refl s)

theorem flr_keeps {s} :
    Keeps [.glb, .regRst, .regHif, .cnt, .hif, .streams, .msgs, .frames, .egress, .slots, .sheaves, .groups, .plots, .waits, .yoke, .alert, .nextBuild, .nextSid] s (flr s) := by
  delta flr
  refine keeps_ite ?_ ?_
  · exact (Keeps.refl s)
  · extract_lets -merge -underBinder +onlyGivenNames u0
    have ku0 : Keeps [.glb, .regRst, .regHif, .cnt, .hif, .streams, .msgs, .frames, .egress, .slots, .sheaves, .groups, .plots, .waits, .yoke, .alert, .nextBuild, .nextSid] s u0 := by
      refine Keeps.after ?_ (orReg_in (b := .regRst) rfl) rfl
      exact (Keeps.refl s)
    refine Keeps.after ?_ (cutHost_keeps ..) rfl
    refine Keeps.upd_glb ?_ rfl
    exact ku0

theorem execFlr_keeps {s} :
    KeepsOut [.glb, .regRst, .regHif, .cnt, .hif, .streams, .msgs, .frames, .egress, .slots, .sheaves, .groups, .plots, .waits, .yoke, .bbs, .alert, .nextBuild, .nextSid] s (execFlr s) := by
  delta execFlr
  refine out_next ?_
  refine Keeps.after ?_ (bbSettle_keeps ..) rfl
  refine Keeps.after ?_ (flr_keeps ..) rfl
  exact (Keeps.refl s)

theorem twpReset_keeps {s} : Keeps [.regTwp, .twp, .alert] s (twpReset s) := by
  have h := dropRegs_keeps (lo := 0x3800) (n := 0x20) (b := .regTwp) (s := s) (by
    intro o h1 h2
    exact regBlock_eq_regTwp (by omega) (by omega))
  exact ((h.weaken rfl).after (Keeps.upd_twp (ps := [.twp]) (Keeps.refl _) rfl) rfl).after
    (Keeps.upd_alert (ps := [.alert]) (Keeps.refl _) rfl) rfl

theorem smbRst_keeps {a0 s} : Keeps [.glb, .regTwp, .twp, .alert, .freeCtr] s (smbRst a0 s) := by
  delta smbRst
  refine keeps_ite ?_ ?_
  · exact (Keeps.refl s)
  · split
    rename_i x0 x1 u2 hq3
    have ku2 : Keeps [.glb, .regTwp, .twp, .alert, .freeCtr] s u2 := by
      have hp : Keeps [.glb, .regTwp, .twp, .alert, .freeCtr] s (Prod.snd (x1, u2)) := by
        rw [← hq3]
        refine keeps_ite_p (p := Prod.snd) ?_ ?_
        · refine Keeps.after ?_ (drawFree_keeps ..) rfl
          exact (Keeps.refl s)
        · refine keeps_snd ?_
          exact (Keeps.refl s)
      exact hp
    refine keeps_ite ?_ ?_
    · refine Keeps.after ?_ (twpReset_keeps ..) rfl
      refine Keeps.upd_glb ?_ rfl
      exact ku2
    · exact ku2

theorem execSmbRst_keeps {a0 s} : KeepsOut [.glb, .regTwp, .twp, .alert, .freeCtr] s (execSmbRst a0 s) := by
  delta execSmbRst
  refine out_next ?_
  refine Keeps.after ?_ (smbRst_keeps ..) rfl
  exact (Keeps.refl s)

theorem execSmbRstRelease_keeps {s} : KeepsOut [.glb] s (execSmbRstRelease s) := by
  delta execSmbRstRelease
  refine out_next ?_
  refine keeps_ite ?_ ?_
  · refine Keeps.upd_glb ?_ rfl
    exact (Keeps.refl s)
  · exact (Keeps.refl s)

theorem devTimeLoad_keeps {a0 s} : Keeps [.regGlb, .regClk, .clk] s (devTimeLoad a0 s) := by
  delta devTimeLoad
  refine keeps_ite ?_ ?_
  · refine keeps_ite ?_ ?_
    · exact (Keeps.refl s)
    · refine Keeps.after ?_ (lockViol_keeps ..) rfl
      exact (Keeps.refl s)
  · extract_lets -merge -underBinder +onlyGivenNames u0
    have ku0 : Keeps [.regGlb, .regClk, .clk] s u0 := by
      refine Keeps.after ?_ (setReg_in (b := .regClk) rfl) rfl
      exact (Keeps.refl s)
    refine Keeps.upd_clk ?_ rfl
    exact ku0

theorem execDevTimeLoad_keeps {a0 s} : KeepsOut [.regGlb, .regClk, .clk] s (execDevTimeLoad a0 s) := by
  delta execDevTimeLoad
  refine out_next ?_
  refine keeps_ite ?_ ?_
  · refine Keeps.after ?_ (devTimeLoad_keeps ..) rfl
    exact (Keeps.refl s)
  · exact (Keeps.refl s)

theorem answerWord_keeps {a0 s} : Keeps [.answer] s (answerWord a0 s) := by
  delta answerWord
  refine Keeps.upd_answer ?_ rfl
  exact (Keeps.refl s)

theorem devTimeLoRead_keeps {s} : Keeps [.clk, .answer] s (devTimeLoRead s) := by
  delta devTimeLoRead
  refine Keeps.after ?_ (answerWord_keeps ..) rfl
  refine Keeps.upd_clk ?_ rfl
  exact (Keeps.refl s)

theorem execDevTimeLoRead_keeps {s} : KeepsOut [.clk, .answer] s (execDevTimeLoRead s) := by
  delta execDevTimeLoRead
  refine out_next ?_
  refine keeps_ite ?_ ?_
  · refine Keeps.after ?_ (devTimeLoRead_keeps ..) rfl
    exact (Keeps.refl s)
  · exact (Keeps.refl s)

end Sys2Proof.Machine
end

