-- ==== Sys2Proof/Laws/State.lean ====
section
/-! SUPPORT. The named updates of State, field by field: each changes one field, and every other field reads as before. -/
namespace Sys2Proof.Machine

@[simp] theorem setReg_glb (off v : Nat) (s : State) : (setReg off v s).glb = s.glb := rfl
@[simp] theorem setReg_cnt (off v : Nat) (s : State) : (setReg off v s).cnt = s.cnt := rfl
@[simp] theorem setReg_clk (off v : Nat) (s : State) : (setReg off v s).clk = s.clk := rfl
@[simp] theorem setReg_hif (off v : Nat) (s : State) : (setReg off v s).hif = s.hif := rfl
@[simp] theorem setReg_streams (off v : Nat) (s : State) : (setReg off v s).streams = s.streams := rfl
@[simp] theorem setReg_msgs (off v : Nat) (s : State) : (setReg off v s).msgs = s.msgs := rfl
@[simp] theorem setReg_frames (off v : Nat) (s : State) : (setReg off v s).frames = s.frames := rfl
@[simp] theorem setReg_plg (off v : Nat) (s : State) : (setReg off v s).plg = s.plg := rfl
@[simp] theorem setReg_tables (off v : Nat) (s : State) : (setReg off v s).tables = s.tables := rfl
@[simp] theorem setReg_tblBad (off v : Nat) (s : State) : (setReg off v s).tblBad = s.tblBad := rfl
@[simp] theorem setReg_egress (off v : Nat) (s : State) : (setReg off v s).egress = s.egress := rfl
@[simp] theorem setReg_slots (off v : Nat) (s : State) : (setReg off v s).slots = s.slots := rfl
@[simp] theorem setReg_sheaves (off v : Nat) (s : State) : (setReg off v s).sheaves = s.sheaves := rfl
@[simp] theorem setReg_groups (off v : Nat) (s : State) : (setReg off v s).groups = s.groups := rfl
@[simp] theorem setReg_plots (off v : Nat) (s : State) : (setReg off v s).plots = s.plots := rfl
@[simp] theorem setReg_tiles (off v : Nat) (s : State) : (setReg off v s).tiles = s.tiles := rfl
@[simp] theorem setReg_switches (off v : Nat) (s : State) : (setReg off v s).switches = s.switches := rfl
@[simp] theorem setReg_sus (off v : Nat) (s : State) : (setReg off v s).sus = s.sus := rfl
@[simp] theorem setReg_fab (off v : Nat) (s : State) : (setReg off v s).fab = s.fab := rfl
@[simp] theorem setReg_waits (off v : Nat) (s : State) : (setReg off v s).waits = s.waits := rfl
@[simp] theorem setReg_yoke (off v : Nat) (s : State) : (setReg off v s).yoke = s.yoke := rfl
@[simp] theorem setReg_mem (off v : Nat) (s : State) : (setReg off v s).mem = s.mem := rfl
@[simp] theorem setReg_answer (off v : Nat) (s : State) : (setReg off v s).answer = s.answer := rfl
@[simp] theorem setReg_ports (off v : Nat) (s : State) : (setReg off v s).ports = s.ports := rfl
@[simp] theorem setReg_fm (off v : Nat) (s : State) : (setReg off v s).fm = s.fm := rfl
@[simp] theorem setReg_bbs (off v : Nat) (s : State) : (setReg off v s).bbs = s.bbs := rfl
@[simp] theorem setReg_ptp (off v : Nat) (s : State) : (setReg off v s).ptp = s.ptp := rfl
@[simp] theorem setReg_links (off v : Nat) (s : State) : (setReg off v s).links = s.links := rfl
@[simp] theorem setReg_hrw (off v : Nat) (s : State) : (setReg off v s).hrw = s.hrw := rfl
@[simp] theorem setReg_twp (off v : Nat) (s : State) : (setReg off v s).twp = s.twp := rfl
@[simp] theorem setReg_tap (off v : Nat) (s : State) : (setReg off v s).tap = s.tap := rfl
@[simp] theorem setReg_trc (off v : Nat) (s : State) : (setReg off v s).trc = s.trc := rfl
@[simp] theorem setReg_alert (off v : Nat) (s : State) : (setReg off v s).alert = s.alert := rfl
@[simp] theorem setReg_nextMid (off v : Nat) (s : State) : (setReg off v s).nextMid = s.nextMid := rfl
@[simp] theorem setReg_nextFid (off v : Nat) (s : State) : (setReg off v s).nextFid = s.nextFid := rfl
@[simp] theorem setReg_nextBuild (off v : Nat) (s : State) : (setReg off v s).nextBuild = s.nextBuild := rfl
@[simp] theorem setReg_nextSid (off v : Nat) (s : State) : (setReg off v s).nextSid = s.nextSid := rfl
@[simp] theorem setReg_freeCtr (off v : Nat) (s : State) : (setReg off v s).freeCtr = s.freeCtr := rfl
@[simp] theorem setReg_pending (off v : Nat) (s : State) : (setReg off v s).pending = s.pending := rfl

@[simp] theorem setRing_glb (r : Nat) (g : Ring) (s : State) : (setRing r g s).glb = s.glb := rfl
@[simp] theorem setRing_regs (r : Nat) (g : Ring) (s : State) : (setRing r g s).regs = s.regs := rfl
@[simp] theorem setRing_cnt (r : Nat) (g : Ring) (s : State) : (setRing r g s).cnt = s.cnt := rfl
@[simp] theorem setRing_clk (r : Nat) (g : Ring) (s : State) : (setRing r g s).clk = s.clk := rfl
@[simp] theorem setRing_streams (r : Nat) (g : Ring) (s : State) : (setRing r g s).streams = s.streams := rfl
@[simp] theorem setRing_msgs (r : Nat) (g : Ring) (s : State) : (setRing r g s).msgs = s.msgs := rfl
@[simp] theorem setRing_frames (r : Nat) (g : Ring) (s : State) : (setRing r g s).frames = s.frames := rfl
@[simp] theorem setRing_plg (r : Nat) (g : Ring) (s : State) : (setRing r g s).plg = s.plg := rfl
@[simp] theorem setRing_tables (r : Nat) (g : Ring) (s : State) : (setRing r g s).tables = s.tables := rfl
@[simp] theorem setRing_tblBad (r : Nat) (g : Ring) (s : State) : (setRing r g s).tblBad = s.tblBad := rfl
@[simp] theorem setRing_egress (r : Nat) (g : Ring) (s : State) : (setRing r g s).egress = s.egress := rfl
@[simp] theorem setRing_slots (r : Nat) (g : Ring) (s : State) : (setRing r g s).slots = s.slots := rfl
@[simp] theorem setRing_sheaves (r : Nat) (g : Ring) (s : State) : (setRing r g s).sheaves = s.sheaves := rfl
@[simp] theorem setRing_groups (r : Nat) (g : Ring) (s : State) : (setRing r g s).groups = s.groups := rfl
@[simp] theorem setRing_plots (r : Nat) (g : Ring) (s : State) : (setRing r g s).plots = s.plots := rfl
@[simp] theorem setRing_tiles (r : Nat) (g : Ring) (s : State) : (setRing r g s).tiles = s.tiles := rfl
@[simp] theorem setRing_switches (r : Nat) (g : Ring) (s : State) : (setRing r g s).switches = s.switches := rfl
@[simp] theorem setRing_sus (r : Nat) (g : Ring) (s : State) : (setRing r g s).sus = s.sus := rfl
@[simp] theorem setRing_fab (r : Nat) (g : Ring) (s : State) : (setRing r g s).fab = s.fab := rfl
@[simp] theorem setRing_waits (r : Nat) (g : Ring) (s : State) : (setRing r g s).waits = s.waits := rfl
@[simp] theorem setRing_yoke (r : Nat) (g : Ring) (s : State) : (setRing r g s).yoke = s.yoke := rfl
@[simp] theorem setRing_mem (r : Nat) (g : Ring) (s : State) : (setRing r g s).mem = s.mem := rfl
@[simp] theorem setRing_answer (r : Nat) (g : Ring) (s : State) : (setRing r g s).answer = s.answer := rfl
@[simp] theorem setRing_ports (r : Nat) (g : Ring) (s : State) : (setRing r g s).ports = s.ports := rfl
@[simp] theorem setRing_fm (r : Nat) (g : Ring) (s : State) : (setRing r g s).fm = s.fm := rfl
@[simp] theorem setRing_bbs (r : Nat) (g : Ring) (s : State) : (setRing r g s).bbs = s.bbs := rfl
@[simp] theorem setRing_ptp (r : Nat) (g : Ring) (s : State) : (setRing r g s).ptp = s.ptp := rfl
@[simp] theorem setRing_links (r : Nat) (g : Ring) (s : State) : (setRing r g s).links = s.links := rfl
@[simp] theorem setRing_hrw (r : Nat) (g : Ring) (s : State) : (setRing r g s).hrw = s.hrw := rfl
@[simp] theorem setRing_twp (r : Nat) (g : Ring) (s : State) : (setRing r g s).twp = s.twp := rfl
@[simp] theorem setRing_tap (r : Nat) (g : Ring) (s : State) : (setRing r g s).tap = s.tap := rfl
@[simp] theorem setRing_trc (r : Nat) (g : Ring) (s : State) : (setRing r g s).trc = s.trc := rfl
@[simp] theorem setRing_alert (r : Nat) (g : Ring) (s : State) : (setRing r g s).alert = s.alert := rfl
@[simp] theorem setRing_nextMid (r : Nat) (g : Ring) (s : State) : (setRing r g s).nextMid = s.nextMid := rfl
@[simp] theorem setRing_nextFid (r : Nat) (g : Ring) (s : State) : (setRing r g s).nextFid = s.nextFid := rfl
@[simp] theorem setRing_nextBuild (r : Nat) (g : Ring) (s : State) : (setRing r g s).nextBuild = s.nextBuild := rfl
@[simp] theorem setRing_nextSid (r : Nat) (g : Ring) (s : State) : (setRing r g s).nextSid = s.nextSid := rfl
@[simp] theorem setRing_freeCtr (r : Nat) (g : Ring) (s : State) : (setRing r g s).freeCtr = s.freeCtr := rfl
@[simp] theorem setRing_pending (r : Nat) (g : Ring) (s : State) : (setRing r g s).pending = s.pending := rfl

@[simp] theorem post_glb (w : HostWrite) (s : State) : (post w s).glb = s.glb := rfl
@[simp] theorem post_regs (w : HostWrite) (s : State) : (post w s).regs = s.regs := rfl
@[simp] theorem post_cnt (w : HostWrite) (s : State) : (post w s).cnt = s.cnt := rfl
@[simp] theorem post_clk (w : HostWrite) (s : State) : (post w s).clk = s.clk := rfl
@[simp] theorem post_streams (w : HostWrite) (s : State) : (post w s).streams = s.streams := rfl
@[simp] theorem post_msgs (w : HostWrite) (s : State) : (post w s).msgs = s.msgs := rfl
@[simp] theorem post_frames (w : HostWrite) (s : State) : (post w s).frames = s.frames := rfl
@[simp] theorem post_plg (w : HostWrite) (s : State) : (post w s).plg = s.plg := rfl
@[simp] theorem post_tables (w : HostWrite) (s : State) : (post w s).tables = s.tables := rfl
@[simp] theorem post_tblBad (w : HostWrite) (s : State) : (post w s).tblBad = s.tblBad := rfl
@[simp] theorem post_egress (w : HostWrite) (s : State) : (post w s).egress = s.egress := rfl
@[simp] theorem post_slots (w : HostWrite) (s : State) : (post w s).slots = s.slots := rfl
@[simp] theorem post_sheaves (w : HostWrite) (s : State) : (post w s).sheaves = s.sheaves := rfl
@[simp] theorem post_groups (w : HostWrite) (s : State) : (post w s).groups = s.groups := rfl
@[simp] theorem post_plots (w : HostWrite) (s : State) : (post w s).plots = s.plots := rfl
@[simp] theorem post_tiles (w : HostWrite) (s : State) : (post w s).tiles = s.tiles := rfl
@[simp] theorem post_switches (w : HostWrite) (s : State) : (post w s).switches = s.switches := rfl
@[simp] theorem post_sus (w : HostWrite) (s : State) : (post w s).sus = s.sus := rfl
@[simp] theorem post_fab (w : HostWrite) (s : State) : (post w s).fab = s.fab := rfl
@[simp] theorem post_waits (w : HostWrite) (s : State) : (post w s).waits = s.waits := rfl
@[simp] theorem post_yoke (w : HostWrite) (s : State) : (post w s).yoke = s.yoke := rfl
@[simp] theorem post_mem (w : HostWrite) (s : State) : (post w s).mem = s.mem := rfl
@[simp] theorem post_answer (w : HostWrite) (s : State) : (post w s).answer = s.answer := rfl
@[simp] theorem post_ports (w : HostWrite) (s : State) : (post w s).ports = s.ports := rfl
@[simp] theorem post_fm (w : HostWrite) (s : State) : (post w s).fm = s.fm := rfl
@[simp] theorem post_bbs (w : HostWrite) (s : State) : (post w s).bbs = s.bbs := rfl
@[simp] theorem post_ptp (w : HostWrite) (s : State) : (post w s).ptp = s.ptp := rfl
@[simp] theorem post_links (w : HostWrite) (s : State) : (post w s).links = s.links := rfl
@[simp] theorem post_hrw (w : HostWrite) (s : State) : (post w s).hrw = s.hrw := rfl
@[simp] theorem post_twp (w : HostWrite) (s : State) : (post w s).twp = s.twp := rfl
@[simp] theorem post_tap (w : HostWrite) (s : State) : (post w s).tap = s.tap := rfl
@[simp] theorem post_trc (w : HostWrite) (s : State) : (post w s).trc = s.trc := rfl
@[simp] theorem post_alert (w : HostWrite) (s : State) : (post w s).alert = s.alert := rfl
@[simp] theorem post_nextMid (w : HostWrite) (s : State) : (post w s).nextMid = s.nextMid := rfl
@[simp] theorem post_nextFid (w : HostWrite) (s : State) : (post w s).nextFid = s.nextFid := rfl
@[simp] theorem post_nextBuild (w : HostWrite) (s : State) : (post w s).nextBuild = s.nextBuild := rfl
@[simp] theorem post_nextSid (w : HostWrite) (s : State) : (post w s).nextSid = s.nextSid := rfl
@[simp] theorem post_freeCtr (w : HostWrite) (s : State) : (post w s).freeCtr = s.freeCtr := rfl
@[simp] theorem post_pending (w : HostWrite) (s : State) : (post w s).pending = s.pending := rfl

@[simp] theorem setSq_glb (q : Nat) (v : Sq) (s : State) : (setSq q v s).glb = s.glb := rfl
@[simp] theorem setSq_regs (q : Nat) (v : Sq) (s : State) : (setSq q v s).regs = s.regs := rfl
@[simp] theorem setSq_cnt (q : Nat) (v : Sq) (s : State) : (setSq q v s).cnt = s.cnt := rfl
@[simp] theorem setSq_clk (q : Nat) (v : Sq) (s : State) : (setSq q v s).clk = s.clk := rfl
@[simp] theorem setSq_streams (q : Nat) (v : Sq) (s : State) : (setSq q v s).streams = s.streams := rfl
@[simp] theorem setSq_msgs (q : Nat) (v : Sq) (s : State) : (setSq q v s).msgs = s.msgs := rfl
@[simp] theorem setSq_frames (q : Nat) (v : Sq) (s : State) : (setSq q v s).frames = s.frames := rfl
@[simp] theorem setSq_plg (q : Nat) (v : Sq) (s : State) : (setSq q v s).plg = s.plg := rfl
@[simp] theorem setSq_tables (q : Nat) (v : Sq) (s : State) : (setSq q v s).tables = s.tables := rfl
@[simp] theorem setSq_tblBad (q : Nat) (v : Sq) (s : State) : (setSq q v s).tblBad = s.tblBad := rfl
@[simp] theorem setSq_egress (q : Nat) (v : Sq) (s : State) : (setSq q v s).egress = s.egress := rfl
@[simp] theorem setSq_slots (q : Nat) (v : Sq) (s : State) : (setSq q v s).slots = s.slots := rfl
@[simp] theorem setSq_sheaves (q : Nat) (v : Sq) (s : State) : (setSq q v s).sheaves = s.sheaves := rfl
@[simp] theorem setSq_groups (q : Nat) (v : Sq) (s : State) : (setSq q v s).groups = s.groups := rfl
@[simp] theorem setSq_plots (q : Nat) (v : Sq) (s : State) : (setSq q v s).plots = s.plots := rfl
@[simp] theorem setSq_tiles (q : Nat) (v : Sq) (s : State) : (setSq q v s).tiles = s.tiles := rfl
@[simp] theorem setSq_switches (q : Nat) (v : Sq) (s : State) : (setSq q v s).switches = s.switches := rfl
@[simp] theorem setSq_sus (q : Nat) (v : Sq) (s : State) : (setSq q v s).sus = s.sus := rfl
@[simp] theorem setSq_fab (q : Nat) (v : Sq) (s : State) : (setSq q v s).fab = s.fab := rfl
@[simp] theorem setSq_waits (q : Nat) (v : Sq) (s : State) : (setSq q v s).waits = s.waits := rfl
@[simp] theorem setSq_yoke (q : Nat) (v : Sq) (s : State) : (setSq q v s).yoke = s.yoke := rfl
@[simp] theorem setSq_mem (q : Nat) (v : Sq) (s : State) : (setSq q v s).mem = s.mem := rfl
@[simp] theorem setSq_answer (q : Nat) (v : Sq) (s : State) : (setSq q v s).answer = s.answer := rfl
@[simp] theorem setSq_ports (q : Nat) (v : Sq) (s : State) : (setSq q v s).ports = s.ports := rfl
@[simp] theorem setSq_fm (q : Nat) (v : Sq) (s : State) : (setSq q v s).fm = s.fm := rfl
@[simp] theorem setSq_bbs (q : Nat) (v : Sq) (s : State) : (setSq q v s).bbs = s.bbs := rfl
@[simp] theorem setSq_ptp (q : Nat) (v : Sq) (s : State) : (setSq q v s).ptp = s.ptp := rfl
@[simp] theorem setSq_links (q : Nat) (v : Sq) (s : State) : (setSq q v s).links = s.links := rfl
@[simp] theorem setSq_hrw (q : Nat) (v : Sq) (s : State) : (setSq q v s).hrw = s.hrw := rfl
@[simp] theorem setSq_twp (q : Nat) (v : Sq) (s : State) : (setSq q v s).twp = s.twp := rfl
@[simp] theorem setSq_tap (q : Nat) (v : Sq) (s : State) : (setSq q v s).tap = s.tap := rfl
@[simp] theorem setSq_trc (q : Nat) (v : Sq) (s : State) : (setSq q v s).trc = s.trc := rfl
@[simp] theorem setSq_alert (q : Nat) (v : Sq) (s : State) : (setSq q v s).alert = s.alert := rfl
@[simp] theorem setSq_nextMid (q : Nat) (v : Sq) (s : State) : (setSq q v s).nextMid = s.nextMid := rfl
@[simp] theorem setSq_nextFid (q : Nat) (v : Sq) (s : State) : (setSq q v s).nextFid = s.nextFid := rfl
@[simp] theorem setSq_nextBuild (q : Nat) (v : Sq) (s : State) : (setSq q v s).nextBuild = s.nextBuild := rfl
@[simp] theorem setSq_nextSid (q : Nat) (v : Sq) (s : State) : (setSq q v s).nextSid = s.nextSid := rfl
@[simp] theorem setSq_freeCtr (q : Nat) (v : Sq) (s : State) : (setSq q v s).freeCtr = s.freeCtr := rfl
@[simp] theorem setSq_pending (q : Nat) (v : Sq) (s : State) : (setSq q v s).pending = s.pending := rfl

@[simp] theorem appendEvent_glb (e : Event) (s : State) : (appendEvent e s).glb = s.glb := rfl
@[simp] theorem appendEvent_regs (e : Event) (s : State) : (appendEvent e s).regs = s.regs := rfl
@[simp] theorem appendEvent_cnt (e : Event) (s : State) : (appendEvent e s).cnt = s.cnt := rfl
@[simp] theorem appendEvent_clk (e : Event) (s : State) : (appendEvent e s).clk = s.clk := rfl
@[simp] theorem appendEvent_streams (e : Event) (s : State) : (appendEvent e s).streams = s.streams := rfl
@[simp] theorem appendEvent_msgs (e : Event) (s : State) : (appendEvent e s).msgs = s.msgs := rfl
@[simp] theorem appendEvent_frames (e : Event) (s : State) : (appendEvent e s).frames = s.frames := rfl
@[simp] theorem appendEvent_plg (e : Event) (s : State) : (appendEvent e s).plg = s.plg := rfl
@[simp] theorem appendEvent_tables (e : Event) (s : State) : (appendEvent e s).tables = s.tables := rfl
@[simp] theorem appendEvent_tblBad (e : Event) (s : State) : (appendEvent e s).tblBad = s.tblBad := rfl
@[simp] theorem appendEvent_egress (e : Event) (s : State) : (appendEvent e s).egress = s.egress := rfl
@[simp] theorem appendEvent_slots (e : Event) (s : State) : (appendEvent e s).slots = s.slots := rfl
@[simp] theorem appendEvent_sheaves (e : Event) (s : State) : (appendEvent e s).sheaves = s.sheaves := rfl
@[simp] theorem appendEvent_groups (e : Event) (s : State) : (appendEvent e s).groups = s.groups := rfl
@[simp] theorem appendEvent_plots (e : Event) (s : State) : (appendEvent e s).plots = s.plots := rfl
@[simp] theorem appendEvent_tiles (e : Event) (s : State) : (appendEvent e s).tiles = s.tiles := rfl
@[simp] theorem appendEvent_switches (e : Event) (s : State) : (appendEvent e s).switches = s.switches := rfl
@[simp] theorem appendEvent_sus (e : Event) (s : State) : (appendEvent e s).sus = s.sus := rfl
@[simp] theorem appendEvent_fab (e : Event) (s : State) : (appendEvent e s).fab = s.fab := rfl
@[simp] theorem appendEvent_waits (e : Event) (s : State) : (appendEvent e s).waits = s.waits := rfl
@[simp] theorem appendEvent_yoke (e : Event) (s : State) : (appendEvent e s).yoke = s.yoke := rfl
@[simp] theorem appendEvent_mem (e : Event) (s : State) : (appendEvent e s).mem = s.mem := rfl
@[simp] theorem appendEvent_answer (e : Event) (s : State) : (appendEvent e s).answer = s.answer := rfl
@[simp] theorem appendEvent_ports (e : Event) (s : State) : (appendEvent e s).ports = s.ports := rfl
@[simp] theorem appendEvent_fm (e : Event) (s : State) : (appendEvent e s).fm = s.fm := rfl
@[simp] theorem appendEvent_bbs (e : Event) (s : State) : (appendEvent e s).bbs = s.bbs := rfl
@[simp] theorem appendEvent_ptp (e : Event) (s : State) : (appendEvent e s).ptp = s.ptp := rfl
@[simp] theorem appendEvent_links (e : Event) (s : State) : (appendEvent e s).links = s.links := rfl
@[simp] theorem appendEvent_hrw (e : Event) (s : State) : (appendEvent e s).hrw = s.hrw := rfl
@[simp] theorem appendEvent_twp (e : Event) (s : State) : (appendEvent e s).twp = s.twp := rfl
@[simp] theorem appendEvent_tap (e : Event) (s : State) : (appendEvent e s).tap = s.tap := rfl
@[simp] theorem appendEvent_trc (e : Event) (s : State) : (appendEvent e s).trc = s.trc := rfl
@[simp] theorem appendEvent_alert (e : Event) (s : State) : (appendEvent e s).alert = s.alert := rfl
@[simp] theorem appendEvent_nextMid (e : Event) (s : State) : (appendEvent e s).nextMid = s.nextMid := rfl
@[simp] theorem appendEvent_nextFid (e : Event) (s : State) : (appendEvent e s).nextFid = s.nextFid := rfl
@[simp] theorem appendEvent_nextBuild (e : Event) (s : State) : (appendEvent e s).nextBuild = s.nextBuild := rfl
@[simp] theorem appendEvent_nextSid (e : Event) (s : State) : (appendEvent e s).nextSid = s.nextSid := rfl
@[simp] theorem appendEvent_freeCtr (e : Event) (s : State) : (appendEvent e s).freeCtr = s.freeCtr := rfl
@[simp] theorem appendEvent_pending (e : Event) (s : State) : (appendEvent e s).pending = s.pending := rfl

@[simp] theorem countQuiet_glb (idx n : Nat) (s : State) : (countQuiet idx n s).glb = s.glb := rfl
@[simp] theorem countQuiet_regs (idx n : Nat) (s : State) : (countQuiet idx n s).regs = s.regs := rfl
@[simp] theorem countQuiet_clk (idx n : Nat) (s : State) : (countQuiet idx n s).clk = s.clk := rfl
@[simp] theorem countQuiet_hif (idx n : Nat) (s : State) : (countQuiet idx n s).hif = s.hif := rfl
@[simp] theorem countQuiet_streams (idx n : Nat) (s : State) : (countQuiet idx n s).streams = s.streams := rfl
@[simp] theorem countQuiet_msgs (idx n : Nat) (s : State) : (countQuiet idx n s).msgs = s.msgs := rfl
@[simp] theorem countQuiet_frames (idx n : Nat) (s : State) : (countQuiet idx n s).frames = s.frames := rfl
@[simp] theorem countQuiet_plg (idx n : Nat) (s : State) : (countQuiet idx n s).plg = s.plg := rfl
@[simp] theorem countQuiet_tables (idx n : Nat) (s : State) : (countQuiet idx n s).tables = s.tables := rfl
@[simp] theorem countQuiet_tblBad (idx n : Nat) (s : State) : (countQuiet idx n s).tblBad = s.tblBad := rfl
@[simp] theorem countQuiet_egress (idx n : Nat) (s : State) : (countQuiet idx n s).egress = s.egress := rfl
@[simp] theorem countQuiet_slots (idx n : Nat) (s : State) : (countQuiet idx n s).slots = s.slots := rfl
@[simp] theorem countQuiet_sheaves (idx n : Nat) (s : State) : (countQuiet idx n s).sheaves = s.sheaves := rfl
@[simp] theorem countQuiet_groups (idx n : Nat) (s : State) : (countQuiet idx n s).groups = s.groups := rfl
@[simp] theorem countQuiet_plots (idx n : Nat) (s : State) : (countQuiet idx n s).plots = s.plots := rfl
@[simp] theorem countQuiet_tiles (idx n : Nat) (s : State) : (countQuiet idx n s).tiles = s.tiles := rfl
@[simp] theorem countQuiet_switches (idx n : Nat) (s : State) : (countQuiet idx n s).switches = s.switches := rfl
@[simp] theorem countQuiet_sus (idx n : Nat) (s : State) : (countQuiet idx n s).sus = s.sus := rfl
@[simp] theorem countQuiet_fab (idx n : Nat) (s : State) : (countQuiet idx n s).fab = s.fab := rfl
@[simp] theorem countQuiet_waits (idx n : Nat) (s : State) : (countQuiet idx n s).waits = s.waits := rfl
@[simp] theorem countQuiet_yoke (idx n : Nat) (s : State) : (countQuiet idx n s).yoke = s.yoke := rfl
@[simp] theorem countQuiet_mem (idx n : Nat) (s : State) : (countQuiet idx n s).mem = s.mem := rfl
@[simp] theorem countQuiet_answer (idx n : Nat) (s : State) : (countQuiet idx n s).answer = s.answer := rfl
@[simp] theorem countQuiet_ports (idx n : Nat) (s : State) : (countQuiet idx n s).ports = s.ports := rfl
@[simp] theorem countQuiet_fm (idx n : Nat) (s : State) : (countQuiet idx n s).fm = s.fm := rfl
@[simp] theorem countQuiet_bbs (idx n : Nat) (s : State) : (countQuiet idx n s).bbs = s.bbs := rfl
@[simp] theorem countQuiet_ptp (idx n : Nat) (s : State) : (countQuiet idx n s).ptp = s.ptp := rfl
@[simp] theorem countQuiet_links (idx n : Nat) (s : State) : (countQuiet idx n s).links = s.links := rfl
@[simp] theorem countQuiet_hrw (idx n : Nat) (s : State) : (countQuiet idx n s).hrw = s.hrw := rfl
@[simp] theorem countQuiet_twp (idx n : Nat) (s : State) : (countQuiet idx n s).twp = s.twp := rfl
@[simp] theorem countQuiet_tap (idx n : Nat) (s : State) : (countQuiet idx n s).tap = s.tap := rfl
@[simp] theorem countQuiet_trc (idx n : Nat) (s : State) : (countQuiet idx n s).trc = s.trc := rfl
@[simp] theorem countQuiet_alert (idx n : Nat) (s : State) : (countQuiet idx n s).alert = s.alert := rfl
@[simp] theorem countQuiet_nextMid (idx n : Nat) (s : State) : (countQuiet idx n s).nextMid = s.nextMid := rfl
@[simp] theorem countQuiet_nextFid (idx n : Nat) (s : State) : (countQuiet idx n s).nextFid = s.nextFid := rfl
@[simp] theorem countQuiet_nextBuild (idx n : Nat) (s : State) : (countQuiet idx n s).nextBuild = s.nextBuild := rfl
@[simp] theorem countQuiet_nextSid (idx n : Nat) (s : State) : (countQuiet idx n s).nextSid = s.nextSid := rfl
@[simp] theorem countQuiet_freeCtr (idx n : Nat) (s : State) : (countQuiet idx n s).freeCtr = s.freeCtr := rfl
@[simp] theorem countQuiet_pending (idx n : Nat) (s : State) : (countQuiet idx n s).pending = s.pending := rfl

@[simp] theorem clearCounter_glb (idx : Nat) (s : State) : (clearCounter idx s).glb = s.glb := rfl
@[simp] theorem clearCounter_regs (idx : Nat) (s : State) : (clearCounter idx s).regs = s.regs := rfl
@[simp] theorem clearCounter_clk (idx : Nat) (s : State) : (clearCounter idx s).clk = s.clk := rfl
@[simp] theorem clearCounter_hif (idx : Nat) (s : State) : (clearCounter idx s).hif = s.hif := rfl
@[simp] theorem clearCounter_streams (idx : Nat) (s : State) : (clearCounter idx s).streams = s.streams := rfl
@[simp] theorem clearCounter_msgs (idx : Nat) (s : State) : (clearCounter idx s).msgs = s.msgs := rfl
@[simp] theorem clearCounter_frames (idx : Nat) (s : State) : (clearCounter idx s).frames = s.frames := rfl
@[simp] theorem clearCounter_plg (idx : Nat) (s : State) : (clearCounter idx s).plg = s.plg := rfl
@[simp] theorem clearCounter_tables (idx : Nat) (s : State) : (clearCounter idx s).tables = s.tables := rfl
@[simp] theorem clearCounter_tblBad (idx : Nat) (s : State) : (clearCounter idx s).tblBad = s.tblBad := rfl
@[simp] theorem clearCounter_egress (idx : Nat) (s : State) : (clearCounter idx s).egress = s.egress := rfl
@[simp] theorem clearCounter_slots (idx : Nat) (s : State) : (clearCounter idx s).slots = s.slots := rfl
@[simp] theorem clearCounter_sheaves (idx : Nat) (s : State) : (clearCounter idx s).sheaves = s.sheaves := rfl
@[simp] theorem clearCounter_groups (idx : Nat) (s : State) : (clearCounter idx s).groups = s.groups := rfl
@[simp] theorem clearCounter_plots (idx : Nat) (s : State) : (clearCounter idx s).plots = s.plots := rfl
@[simp] theorem clearCounter_tiles (idx : Nat) (s : State) : (clearCounter idx s).tiles = s.tiles := rfl
@[simp] theorem clearCounter_switches (idx : Nat) (s : State) : (clearCounter idx s).switches = s.switches := rfl
@[simp] theorem clearCounter_sus (idx : Nat) (s : State) : (clearCounter idx s).sus = s.sus := rfl
@[simp] theorem clearCounter_fab (idx : Nat) (s : State) : (clearCounter idx s).fab = s.fab := rfl
@[simp] theorem clearCounter_waits (idx : Nat) (s : State) : (clearCounter idx s).waits = s.waits := rfl
@[simp] theorem clearCounter_yoke (idx : Nat) (s : State) : (clearCounter idx s).yoke = s.yoke := rfl
@[simp] theorem clearCounter_mem (idx : Nat) (s : State) : (clearCounter idx s).mem = s.mem := rfl
@[simp] theorem clearCounter_answer (idx : Nat) (s : State) : (clearCounter idx s).answer = s.answer := rfl
@[simp] theorem clearCounter_ports (idx : Nat) (s : State) : (clearCounter idx s).ports = s.ports := rfl
@[simp] theorem clearCounter_fm (idx : Nat) (s : State) : (clearCounter idx s).fm = s.fm := rfl
@[simp] theorem clearCounter_bbs (idx : Nat) (s : State) : (clearCounter idx s).bbs = s.bbs := rfl
@[simp] theorem clearCounter_ptp (idx : Nat) (s : State) : (clearCounter idx s).ptp = s.ptp := rfl
@[simp] theorem clearCounter_links (idx : Nat) (s : State) : (clearCounter idx s).links = s.links := rfl
@[simp] theorem clearCounter_hrw (idx : Nat) (s : State) : (clearCounter idx s).hrw = s.hrw := rfl
@[simp] theorem clearCounter_twp (idx : Nat) (s : State) : (clearCounter idx s).twp = s.twp := rfl
@[simp] theorem clearCounter_tap (idx : Nat) (s : State) : (clearCounter idx s).tap = s.tap := rfl
@[simp] theorem clearCounter_trc (idx : Nat) (s : State) : (clearCounter idx s).trc = s.trc := rfl
@[simp] theorem clearCounter_alert (idx : Nat) (s : State) : (clearCounter idx s).alert = s.alert := rfl
@[simp] theorem clearCounter_nextMid (idx : Nat) (s : State) : (clearCounter idx s).nextMid = s.nextMid := rfl
@[simp] theorem clearCounter_nextFid (idx : Nat) (s : State) : (clearCounter idx s).nextFid = s.nextFid := rfl
@[simp] theorem clearCounter_nextBuild (idx : Nat) (s : State) : (clearCounter idx s).nextBuild = s.nextBuild := rfl
@[simp] theorem clearCounter_nextSid (idx : Nat) (s : State) : (clearCounter idx s).nextSid = s.nextSid := rfl
@[simp] theorem clearCounter_freeCtr (idx : Nat) (s : State) : (clearCounter idx s).freeCtr = s.freeCtr := rfl
@[simp] theorem clearCounter_pending (idx : Nat) (s : State) : (clearCounter idx s).pending = s.pending := rfl

@[simp] theorem latchAlert_glb (b : Nat) (s : State) : (latchAlert b s).glb = s.glb := rfl
@[simp] theorem latchAlert_regs (b : Nat) (s : State) : (latchAlert b s).regs = s.regs := rfl
@[simp] theorem latchAlert_cnt (b : Nat) (s : State) : (latchAlert b s).cnt = s.cnt := rfl
@[simp] theorem latchAlert_clk (b : Nat) (s : State) : (latchAlert b s).clk = s.clk := rfl
@[simp] theorem latchAlert_hif (b : Nat) (s : State) : (latchAlert b s).hif = s.hif := rfl
@[simp] theorem latchAlert_streams (b : Nat) (s : State) : (latchAlert b s).streams = s.streams := rfl
@[simp] theorem latchAlert_msgs (b : Nat) (s : State) : (latchAlert b s).msgs = s.msgs := rfl
@[simp] theorem latchAlert_frames (b : Nat) (s : State) : (latchAlert b s).frames = s.frames := rfl
@[simp] theorem latchAlert_plg (b : Nat) (s : State) : (latchAlert b s).plg = s.plg := rfl
@[simp] theorem latchAlert_tables (b : Nat) (s : State) : (latchAlert b s).tables = s.tables := rfl
@[simp] theorem latchAlert_tblBad (b : Nat) (s : State) : (latchAlert b s).tblBad = s.tblBad := rfl
@[simp] theorem latchAlert_egress (b : Nat) (s : State) : (latchAlert b s).egress = s.egress := rfl
@[simp] theorem latchAlert_slots (b : Nat) (s : State) : (latchAlert b s).slots = s.slots := rfl
@[simp] theorem latchAlert_sheaves (b : Nat) (s : State) : (latchAlert b s).sheaves = s.sheaves := rfl
@[simp] theorem latchAlert_groups (b : Nat) (s : State) : (latchAlert b s).groups = s.groups := rfl
@[simp] theorem latchAlert_plots (b : Nat) (s : State) : (latchAlert b s).plots = s.plots := rfl
@[simp] theorem latchAlert_tiles (b : Nat) (s : State) : (latchAlert b s).tiles = s.tiles := rfl
@[simp] theorem latchAlert_switches (b : Nat) (s : State) : (latchAlert b s).switches = s.switches := rfl
@[simp] theorem latchAlert_sus (b : Nat) (s : State) : (latchAlert b s).sus = s.sus := rfl
@[simp] theorem latchAlert_fab (b : Nat) (s : State) : (latchAlert b s).fab = s.fab := rfl
@[simp] theorem latchAlert_waits (b : Nat) (s : State) : (latchAlert b s).waits = s.waits := rfl
@[simp] theorem latchAlert_yoke (b : Nat) (s : State) : (latchAlert b s).yoke = s.yoke := rfl
@[simp] theorem latchAlert_mem (b : Nat) (s : State) : (latchAlert b s).mem = s.mem := rfl
@[simp] theorem latchAlert_answer (b : Nat) (s : State) : (latchAlert b s).answer = s.answer := rfl
@[simp] theorem latchAlert_ports (b : Nat) (s : State) : (latchAlert b s).ports = s.ports := rfl
@[simp] theorem latchAlert_fm (b : Nat) (s : State) : (latchAlert b s).fm = s.fm := rfl
@[simp] theorem latchAlert_bbs (b : Nat) (s : State) : (latchAlert b s).bbs = s.bbs := rfl
@[simp] theorem latchAlert_ptp (b : Nat) (s : State) : (latchAlert b s).ptp = s.ptp := rfl
@[simp] theorem latchAlert_links (b : Nat) (s : State) : (latchAlert b s).links = s.links := rfl
@[simp] theorem latchAlert_hrw (b : Nat) (s : State) : (latchAlert b s).hrw = s.hrw := rfl
@[simp] theorem latchAlert_twp (b : Nat) (s : State) : (latchAlert b s).twp = s.twp := rfl
@[simp] theorem latchAlert_tap (b : Nat) (s : State) : (latchAlert b s).tap = s.tap := rfl
@[simp] theorem latchAlert_trc (b : Nat) (s : State) : (latchAlert b s).trc = s.trc := rfl
@[simp] theorem latchAlert_nextMid (b : Nat) (s : State) : (latchAlert b s).nextMid = s.nextMid := rfl
@[simp] theorem latchAlert_nextFid (b : Nat) (s : State) : (latchAlert b s).nextFid = s.nextFid := rfl
@[simp] theorem latchAlert_nextBuild (b : Nat) (s : State) : (latchAlert b s).nextBuild = s.nextBuild := rfl
@[simp] theorem latchAlert_nextSid (b : Nat) (s : State) : (latchAlert b s).nextSid = s.nextSid := rfl
@[simp] theorem latchAlert_freeCtr (b : Nat) (s : State) : (latchAlert b s).freeCtr = s.freeCtr := rfl
@[simp] theorem latchAlert_pending (b : Nat) (s : State) : (latchAlert b s).pending = s.pending := rfl

@[simp] theorem teleAdd_glb (k n : Nat) (s : State) : (teleAdd k n s).glb = s.glb := rfl
@[simp] theorem teleAdd_regs (k n : Nat) (s : State) : (teleAdd k n s).regs = s.regs := rfl
@[simp] theorem teleAdd_cnt (k n : Nat) (s : State) : (teleAdd k n s).cnt = s.cnt := rfl
@[simp] theorem teleAdd_clk (k n : Nat) (s : State) : (teleAdd k n s).clk = s.clk := rfl
@[simp] theorem teleAdd_streams (k n : Nat) (s : State) : (teleAdd k n s).streams = s.streams := rfl
@[simp] theorem teleAdd_msgs (k n : Nat) (s : State) : (teleAdd k n s).msgs = s.msgs := rfl
@[simp] theorem teleAdd_frames (k n : Nat) (s : State) : (teleAdd k n s).frames = s.frames := rfl
@[simp] theorem teleAdd_plg (k n : Nat) (s : State) : (teleAdd k n s).plg = s.plg := rfl
@[simp] theorem teleAdd_tables (k n : Nat) (s : State) : (teleAdd k n s).tables = s.tables := rfl
@[simp] theorem teleAdd_tblBad (k n : Nat) (s : State) : (teleAdd k n s).tblBad = s.tblBad := rfl
@[simp] theorem teleAdd_egress (k n : Nat) (s : State) : (teleAdd k n s).egress = s.egress := rfl
@[simp] theorem teleAdd_slots (k n : Nat) (s : State) : (teleAdd k n s).slots = s.slots := rfl
@[simp] theorem teleAdd_sheaves (k n : Nat) (s : State) : (teleAdd k n s).sheaves = s.sheaves := rfl
@[simp] theorem teleAdd_groups (k n : Nat) (s : State) : (teleAdd k n s).groups = s.groups := rfl
@[simp] theorem teleAdd_plots (k n : Nat) (s : State) : (teleAdd k n s).plots = s.plots := rfl
@[simp] theorem teleAdd_tiles (k n : Nat) (s : State) : (teleAdd k n s).tiles = s.tiles := rfl
@[simp] theorem teleAdd_switches (k n : Nat) (s : State) : (teleAdd k n s).switches = s.switches := rfl
@[simp] theorem teleAdd_sus (k n : Nat) (s : State) : (teleAdd k n s).sus = s.sus := rfl
@[simp] theorem teleAdd_fab (k n : Nat) (s : State) : (teleAdd k n s).fab = s.fab := rfl
@[simp] theorem teleAdd_waits (k n : Nat) (s : State) : (teleAdd k n s).waits = s.waits := rfl
@[simp] theorem teleAdd_yoke (k n : Nat) (s : State) : (teleAdd k n s).yoke = s.yoke := rfl
@[simp] theorem teleAdd_mem (k n : Nat) (s : State) : (teleAdd k n s).mem = s.mem := rfl
@[simp] theorem teleAdd_answer (k n : Nat) (s : State) : (teleAdd k n s).answer = s.answer := rfl
@[simp] theorem teleAdd_ports (k n : Nat) (s : State) : (teleAdd k n s).ports = s.ports := rfl
@[simp] theorem teleAdd_fm (k n : Nat) (s : State) : (teleAdd k n s).fm = s.fm := rfl
@[simp] theorem teleAdd_bbs (k n : Nat) (s : State) : (teleAdd k n s).bbs = s.bbs := rfl
@[simp] theorem teleAdd_ptp (k n : Nat) (s : State) : (teleAdd k n s).ptp = s.ptp := rfl
@[simp] theorem teleAdd_links (k n : Nat) (s : State) : (teleAdd k n s).links = s.links := rfl
@[simp] theorem teleAdd_hrw (k n : Nat) (s : State) : (teleAdd k n s).hrw = s.hrw := rfl
@[simp] theorem teleAdd_twp (k n : Nat) (s : State) : (teleAdd k n s).twp = s.twp := rfl
@[simp] theorem teleAdd_tap (k n : Nat) (s : State) : (teleAdd k n s).tap = s.tap := rfl
@[simp] theorem teleAdd_trc (k n : Nat) (s : State) : (teleAdd k n s).trc = s.trc := rfl
@[simp] theorem teleAdd_alert (k n : Nat) (s : State) : (teleAdd k n s).alert = s.alert := rfl
@[simp] theorem teleAdd_nextMid (k n : Nat) (s : State) : (teleAdd k n s).nextMid = s.nextMid := rfl
@[simp] theorem teleAdd_nextFid (k n : Nat) (s : State) : (teleAdd k n s).nextFid = s.nextFid := rfl
@[simp] theorem teleAdd_nextBuild (k n : Nat) (s : State) : (teleAdd k n s).nextBuild = s.nextBuild := rfl
@[simp] theorem teleAdd_nextSid (k n : Nat) (s : State) : (teleAdd k n s).nextSid = s.nextSid := rfl
@[simp] theorem teleAdd_freeCtr (k n : Nat) (s : State) : (teleAdd k n s).freeCtr = s.freeCtr := rfl
@[simp] theorem teleAdd_pending (k n : Nat) (s : State) : (teleAdd k n s).pending = s.pending := rfl

@[simp] theorem setStream_glb (k : Nat) (v : Stream) (s : State) : (setStream k v s).glb = s.glb := rfl
@[simp] theorem setStream_regs (k : Nat) (v : Stream) (s : State) : (setStream k v s).regs = s.regs := rfl
@[simp] theorem setStream_cnt (k : Nat) (v : Stream) (s : State) : (setStream k v s).cnt = s.cnt := rfl
@[simp] theorem setStream_clk (k : Nat) (v : Stream) (s : State) : (setStream k v s).clk = s.clk := rfl
@[simp] theorem setStream_hif (k : Nat) (v : Stream) (s : State) : (setStream k v s).hif = s.hif := rfl
@[simp] theorem setStream_msgs (k : Nat) (v : Stream) (s : State) : (setStream k v s).msgs = s.msgs := rfl
@[simp] theorem setStream_frames (k : Nat) (v : Stream) (s : State) : (setStream k v s).frames = s.frames := rfl
@[simp] theorem setStream_plg (k : Nat) (v : Stream) (s : State) : (setStream k v s).plg = s.plg := rfl
@[simp] theorem setStream_tables (k : Nat) (v : Stream) (s : State) : (setStream k v s).tables = s.tables := rfl
@[simp] theorem setStream_tblBad (k : Nat) (v : Stream) (s : State) : (setStream k v s).tblBad = s.tblBad := rfl
@[simp] theorem setStream_egress (k : Nat) (v : Stream) (s : State) : (setStream k v s).egress = s.egress := rfl
@[simp] theorem setStream_slots (k : Nat) (v : Stream) (s : State) : (setStream k v s).slots = s.slots := rfl
@[simp] theorem setStream_sheaves (k : Nat) (v : Stream) (s : State) : (setStream k v s).sheaves = s.sheaves := rfl
@[simp] theorem setStream_groups (k : Nat) (v : Stream) (s : State) : (setStream k v s).groups = s.groups := rfl
@[simp] theorem setStream_plots (k : Nat) (v : Stream) (s : State) : (setStream k v s).plots = s.plots := rfl
@[simp] theorem setStream_tiles (k : Nat) (v : Stream) (s : State) : (setStream k v s).tiles = s.tiles := rfl
@[simp] theorem setStream_switches (k : Nat) (v : Stream) (s : State) : (setStream k v s).switches = s.switches := rfl
@[simp] theorem setStream_sus (k : Nat) (v : Stream) (s : State) : (setStream k v s).sus = s.sus := rfl
@[simp] theorem setStream_fab (k : Nat) (v : Stream) (s : State) : (setStream k v s).fab = s.fab := rfl
@[simp] theorem setStream_waits (k : Nat) (v : Stream) (s : State) : (setStream k v s).waits = s.waits := rfl
@[simp] theorem setStream_yoke (k : Nat) (v : Stream) (s : State) : (setStream k v s).yoke = s.yoke := rfl
@[simp] theorem setStream_mem (k : Nat) (v : Stream) (s : State) : (setStream k v s).mem = s.mem := rfl
@[simp] theorem setStream_answer (k : Nat) (v : Stream) (s : State) : (setStream k v s).answer = s.answer := rfl
@[simp] theorem setStream_ports (k : Nat) (v : Stream) (s : State) : (setStream k v s).ports = s.ports := rfl
@[simp] theorem setStream_fm (k : Nat) (v : Stream) (s : State) : (setStream k v s).fm = s.fm := rfl
@[simp] theorem setStream_bbs (k : Nat) (v : Stream) (s : State) : (setStream k v s).bbs = s.bbs := rfl
@[simp] theorem setStream_ptp (k : Nat) (v : Stream) (s : State) : (setStream k v s).ptp = s.ptp := rfl
@[simp] theorem setStream_links (k : Nat) (v : Stream) (s : State) : (setStream k v s).links = s.links := rfl
@[simp] theorem setStream_hrw (k : Nat) (v : Stream) (s : State) : (setStream k v s).hrw = s.hrw := rfl
@[simp] theorem setStream_twp (k : Nat) (v : Stream) (s : State) : (setStream k v s).twp = s.twp := rfl
@[simp] theorem setStream_tap (k : Nat) (v : Stream) (s : State) : (setStream k v s).tap = s.tap := rfl
@[simp] theorem setStream_trc (k : Nat) (v : Stream) (s : State) : (setStream k v s).trc = s.trc := rfl
@[simp] theorem setStream_alert (k : Nat) (v : Stream) (s : State) : (setStream k v s).alert = s.alert := rfl
@[simp] theorem setStream_nextMid (k : Nat) (v : Stream) (s : State) : (setStream k v s).nextMid = s.nextMid := rfl
@[simp] theorem setStream_nextFid (k : Nat) (v : Stream) (s : State) : (setStream k v s).nextFid = s.nextFid := rfl
@[simp] theorem setStream_nextBuild (k : Nat) (v : Stream) (s : State) : (setStream k v s).nextBuild = s.nextBuild := rfl
@[simp] theorem setStream_nextSid (k : Nat) (v : Stream) (s : State) : (setStream k v s).nextSid = s.nextSid := rfl
@[simp] theorem setStream_freeCtr (k : Nat) (v : Stream) (s : State) : (setStream k v s).freeCtr = s.freeCtr := rfl
@[simp] theorem setStream_pending (k : Nat) (v : Stream) (s : State) : (setStream k v s).pending = s.pending := rfl

@[simp] theorem updMsg_glb (mid : Nat) (f : Msg → Msg) (s : State) : (updMsg mid f s).glb = s.glb := rfl
@[simp] theorem updMsg_regs (mid : Nat) (f : Msg → Msg) (s : State) : (updMsg mid f s).regs = s.regs := rfl
@[simp] theorem updMsg_cnt (mid : Nat) (f : Msg → Msg) (s : State) : (updMsg mid f s).cnt = s.cnt := rfl
@[simp] theorem updMsg_clk (mid : Nat) (f : Msg → Msg) (s : State) : (updMsg mid f s).clk = s.clk := rfl
@[simp] theorem updMsg_hif (mid : Nat) (f : Msg → Msg) (s : State) : (updMsg mid f s).hif = s.hif := rfl
@[simp] theorem updMsg_streams (mid : Nat) (f : Msg → Msg) (s : State) : (updMsg mid f s).streams = s.streams := rfl
@[simp] theorem updMsg_frames (mid : Nat) (f : Msg → Msg) (s : State) : (updMsg mid f s).frames = s.frames := rfl
@[simp] theorem updMsg_plg (mid : Nat) (f : Msg → Msg) (s : State) : (updMsg mid f s).plg = s.plg := rfl
@[simp] theorem updMsg_tables (mid : Nat) (f : Msg → Msg) (s : State) : (updMsg mid f s).tables = s.tables := rfl
@[simp] theorem updMsg_tblBad (mid : Nat) (f : Msg → Msg) (s : State) : (updMsg mid f s).tblBad = s.tblBad := rfl
@[simp] theorem updMsg_egress (mid : Nat) (f : Msg → Msg) (s : State) : (updMsg mid f s).egress = s.egress := rfl
@[simp] theorem updMsg_slots (mid : Nat) (f : Msg → Msg) (s : State) : (updMsg mid f s).slots = s.slots := rfl
@[simp] theorem updMsg_sheaves (mid : Nat) (f : Msg → Msg) (s : State) : (updMsg mid f s).sheaves = s.sheaves := rfl
@[simp] theorem updMsg_groups (mid : Nat) (f : Msg → Msg) (s : State) : (updMsg mid f s).groups = s.groups := rfl
@[simp] theorem updMsg_plots (mid : Nat) (f : Msg → Msg) (s : State) : (updMsg mid f s).plots = s.plots := rfl
@[simp] theorem updMsg_tiles (mid : Nat) (f : Msg → Msg) (s : State) : (updMsg mid f s).tiles = s.tiles := rfl
@[simp] theorem updMsg_switches (mid : Nat) (f : Msg → Msg) (s : State) : (updMsg mid f s).switches = s.switches := rfl
@[simp] theorem updMsg_sus (mid : Nat) (f : Msg → Msg) (s : State) : (updMsg mid f s).sus = s.sus := rfl
@[simp] theorem updMsg_fab (mid : Nat) (f : Msg → Msg) (s : State) : (updMsg mid f s).fab = s.fab := rfl
@[simp] theorem updMsg_waits (mid : Nat) (f : Msg → Msg) (s : State) : (updMsg mid f s).waits = s.waits := rfl
@[simp] theorem updMsg_yoke (mid : Nat) (f : Msg → Msg) (s : State) : (updMsg mid f s).yoke = s.yoke := rfl
@[simp] theorem updMsg_mem (mid : Nat) (f : Msg → Msg) (s : State) : (updMsg mid f s).mem = s.mem := rfl
@[simp] theorem updMsg_answer (mid : Nat) (f : Msg → Msg) (s : State) : (updMsg mid f s).answer = s.answer := rfl
@[simp] theorem updMsg_ports (mid : Nat) (f : Msg → Msg) (s : State) : (updMsg mid f s).ports = s.ports := rfl
@[simp] theorem updMsg_fm (mid : Nat) (f : Msg → Msg) (s : State) : (updMsg mid f s).fm = s.fm := rfl
@[simp] theorem updMsg_bbs (mid : Nat) (f : Msg → Msg) (s : State) : (updMsg mid f s).bbs = s.bbs := rfl
@[simp] theorem updMsg_ptp (mid : Nat) (f : Msg → Msg) (s : State) : (updMsg mid f s).ptp = s.ptp := rfl
@[simp] theorem updMsg_links (mid : Nat) (f : Msg → Msg) (s : State) : (updMsg mid f s).links = s.links := rfl
@[simp] theorem updMsg_hrw (mid : Nat) (f : Msg → Msg) (s : State) : (updMsg mid f s).hrw = s.hrw := rfl
@[simp] theorem updMsg_twp (mid : Nat) (f : Msg → Msg) (s : State) : (updMsg mid f s).twp = s.twp := rfl
@[simp] theorem updMsg_tap (mid : Nat) (f : Msg → Msg) (s : State) : (updMsg mid f s).tap = s.tap := rfl
@[simp] theorem updMsg_trc (mid : Nat) (f : Msg → Msg) (s : State) : (updMsg mid f s).trc = s.trc := rfl
@[simp] theorem updMsg_alert (mid : Nat) (f : Msg → Msg) (s : State) : (updMsg mid f s).alert = s.alert := rfl
@[simp] theorem updMsg_nextMid (mid : Nat) (f : Msg → Msg) (s : State) : (updMsg mid f s).nextMid = s.nextMid := rfl
@[simp] theorem updMsg_nextFid (mid : Nat) (f : Msg → Msg) (s : State) : (updMsg mid f s).nextFid = s.nextFid := rfl
@[simp] theorem updMsg_nextBuild (mid : Nat) (f : Msg → Msg) (s : State) : (updMsg mid f s).nextBuild = s.nextBuild := rfl
@[simp] theorem updMsg_nextSid (mid : Nat) (f : Msg → Msg) (s : State) : (updMsg mid f s).nextSid = s.nextSid := rfl
@[simp] theorem updMsg_freeCtr (mid : Nat) (f : Msg → Msg) (s : State) : (updMsg mid f s).freeCtr = s.freeCtr := rfl
@[simp] theorem updMsg_pending (mid : Nat) (f : Msg → Msg) (s : State) : (updMsg mid f s).pending = s.pending := rfl

@[simp] theorem dropMsg_glb (mid : Nat) (s : State) : (dropMsg mid s).glb = s.glb := rfl
@[simp] theorem dropMsg_regs (mid : Nat) (s : State) : (dropMsg mid s).regs = s.regs := rfl
@[simp] theorem dropMsg_cnt (mid : Nat) (s : State) : (dropMsg mid s).cnt = s.cnt := rfl
@[simp] theorem dropMsg_clk (mid : Nat) (s : State) : (dropMsg mid s).clk = s.clk := rfl
@[simp] theorem dropMsg_hif (mid : Nat) (s : State) : (dropMsg mid s).hif = s.hif := rfl
@[simp] theorem dropMsg_streams (mid : Nat) (s : State) : (dropMsg mid s).streams = s.streams := rfl
@[simp] theorem dropMsg_frames (mid : Nat) (s : State) : (dropMsg mid s).frames = s.frames := rfl
@[simp] theorem dropMsg_plg (mid : Nat) (s : State) : (dropMsg mid s).plg = s.plg := rfl
@[simp] theorem dropMsg_tables (mid : Nat) (s : State) : (dropMsg mid s).tables = s.tables := rfl
@[simp] theorem dropMsg_tblBad (mid : Nat) (s : State) : (dropMsg mid s).tblBad = s.tblBad := rfl
@[simp] theorem dropMsg_egress (mid : Nat) (s : State) : (dropMsg mid s).egress = s.egress := rfl
@[simp] theorem dropMsg_slots (mid : Nat) (s : State) : (dropMsg mid s).slots = s.slots := rfl
@[simp] theorem dropMsg_sheaves (mid : Nat) (s : State) : (dropMsg mid s).sheaves = s.sheaves := rfl
@[simp] theorem dropMsg_groups (mid : Nat) (s : State) : (dropMsg mid s).groups = s.groups := rfl
@[simp] theorem dropMsg_plots (mid : Nat) (s : State) : (dropMsg mid s).plots = s.plots := rfl
@[simp] theorem dropMsg_tiles (mid : Nat) (s : State) : (dropMsg mid s).tiles = s.tiles := rfl
@[simp] theorem dropMsg_switches (mid : Nat) (s : State) : (dropMsg mid s).switches = s.switches := rfl
@[simp] theorem dropMsg_sus (mid : Nat) (s : State) : (dropMsg mid s).sus = s.sus := rfl
@[simp] theorem dropMsg_fab (mid : Nat) (s : State) : (dropMsg mid s).fab = s.fab := rfl
@[simp] theorem dropMsg_waits (mid : Nat) (s : State) : (dropMsg mid s).waits = s.waits := rfl
@[simp] theorem dropMsg_yoke (mid : Nat) (s : State) : (dropMsg mid s).yoke = s.yoke := rfl
@[simp] theorem dropMsg_mem (mid : Nat) (s : State) : (dropMsg mid s).mem = s.mem := rfl
@[simp] theorem dropMsg_answer (mid : Nat) (s : State) : (dropMsg mid s).answer = s.answer := rfl
@[simp] theorem dropMsg_ports (mid : Nat) (s : State) : (dropMsg mid s).ports = s.ports := rfl
@[simp] theorem dropMsg_fm (mid : Nat) (s : State) : (dropMsg mid s).fm = s.fm := rfl
@[simp] theorem dropMsg_bbs (mid : Nat) (s : State) : (dropMsg mid s).bbs = s.bbs := rfl
@[simp] theorem dropMsg_ptp (mid : Nat) (s : State) : (dropMsg mid s).ptp = s.ptp := rfl
@[simp] theorem dropMsg_links (mid : Nat) (s : State) : (dropMsg mid s).links = s.links := rfl
@[simp] theorem dropMsg_hrw (mid : Nat) (s : State) : (dropMsg mid s).hrw = s.hrw := rfl
@[simp] theorem dropMsg_twp (mid : Nat) (s : State) : (dropMsg mid s).twp = s.twp := rfl
@[simp] theorem dropMsg_tap (mid : Nat) (s : State) : (dropMsg mid s).tap = s.tap := rfl
@[simp] theorem dropMsg_trc (mid : Nat) (s : State) : (dropMsg mid s).trc = s.trc := rfl
@[simp] theorem dropMsg_alert (mid : Nat) (s : State) : (dropMsg mid s).alert = s.alert := rfl
@[simp] theorem dropMsg_nextMid (mid : Nat) (s : State) : (dropMsg mid s).nextMid = s.nextMid := rfl
@[simp] theorem dropMsg_nextFid (mid : Nat) (s : State) : (dropMsg mid s).nextFid = s.nextFid := rfl
@[simp] theorem dropMsg_nextBuild (mid : Nat) (s : State) : (dropMsg mid s).nextBuild = s.nextBuild := rfl
@[simp] theorem dropMsg_nextSid (mid : Nat) (s : State) : (dropMsg mid s).nextSid = s.nextSid := rfl
@[simp] theorem dropMsg_freeCtr (mid : Nat) (s : State) : (dropMsg mid s).freeCtr = s.freeCtr := rfl
@[simp] theorem dropMsg_pending (mid : Nat) (s : State) : (dropMsg mid s).pending = s.pending := rfl

@[simp] theorem updFrame_glb (fid : Nat) (f : Frame → Frame) (s : State) : (updFrame fid f s).glb = s.glb := rfl
@[simp] theorem updFrame_regs (fid : Nat) (f : Frame → Frame) (s : State) : (updFrame fid f s).regs = s.regs := rfl
@[simp] theorem updFrame_cnt (fid : Nat) (f : Frame → Frame) (s : State) : (updFrame fid f s).cnt = s.cnt := rfl
@[simp] theorem updFrame_clk (fid : Nat) (f : Frame → Frame) (s : State) : (updFrame fid f s).clk = s.clk := rfl
@[simp] theorem updFrame_hif (fid : Nat) (f : Frame → Frame) (s : State) : (updFrame fid f s).hif = s.hif := rfl
@[simp] theorem updFrame_streams (fid : Nat) (f : Frame → Frame) (s : State) : (updFrame fid f s).streams = s.streams := rfl
@[simp] theorem updFrame_msgs (fid : Nat) (f : Frame → Frame) (s : State) : (updFrame fid f s).msgs = s.msgs := rfl
@[simp] theorem updFrame_plg (fid : Nat) (f : Frame → Frame) (s : State) : (updFrame fid f s).plg = s.plg := rfl
@[simp] theorem updFrame_tables (fid : Nat) (f : Frame → Frame) (s : State) : (updFrame fid f s).tables = s.tables := rfl
@[simp] theorem updFrame_tblBad (fid : Nat) (f : Frame → Frame) (s : State) : (updFrame fid f s).tblBad = s.tblBad := rfl
@[simp] theorem updFrame_egress (fid : Nat) (f : Frame → Frame) (s : State) : (updFrame fid f s).egress = s.egress := rfl
@[simp] theorem updFrame_slots (fid : Nat) (f : Frame → Frame) (s : State) : (updFrame fid f s).slots = s.slots := rfl
@[simp] theorem updFrame_sheaves (fid : Nat) (f : Frame → Frame) (s : State) : (updFrame fid f s).sheaves = s.sheaves := rfl
@[simp] theorem updFrame_groups (fid : Nat) (f : Frame → Frame) (s : State) : (updFrame fid f s).groups = s.groups := rfl
@[simp] theorem updFrame_plots (fid : Nat) (f : Frame → Frame) (s : State) : (updFrame fid f s).plots = s.plots := rfl
@[simp] theorem updFrame_tiles (fid : Nat) (f : Frame → Frame) (s : State) : (updFrame fid f s).tiles = s.tiles := rfl
@[simp] theorem updFrame_switches (fid : Nat) (f : Frame → Frame) (s : State) : (updFrame fid f s).switches = s.switches := rfl
@[simp] theorem updFrame_sus (fid : Nat) (f : Frame → Frame) (s : State) : (updFrame fid f s).sus = s.sus := rfl
@[simp] theorem updFrame_fab (fid : Nat) (f : Frame → Frame) (s : State) : (updFrame fid f s).fab = s.fab := rfl
@[simp] theorem updFrame_waits (fid : Nat) (f : Frame → Frame) (s : State) : (updFrame fid f s).waits = s.waits := rfl
@[simp] theorem updFrame_yoke (fid : Nat) (f : Frame → Frame) (s : State) : (updFrame fid f s).yoke = s.yoke := rfl
@[simp] theorem updFrame_mem (fid : Nat) (f : Frame → Frame) (s : State) : (updFrame fid f s).mem = s.mem := rfl
@[simp] theorem updFrame_answer (fid : Nat) (f : Frame → Frame) (s : State) : (updFrame fid f s).answer = s.answer := rfl
@[simp] theorem updFrame_ports (fid : Nat) (f : Frame → Frame) (s : State) : (updFrame fid f s).ports = s.ports := rfl
@[simp] theorem updFrame_fm (fid : Nat) (f : Frame → Frame) (s : State) : (updFrame fid f s).fm = s.fm := rfl
@[simp] theorem updFrame_bbs (fid : Nat) (f : Frame → Frame) (s : State) : (updFrame fid f s).bbs = s.bbs := rfl
@[simp] theorem updFrame_ptp (fid : Nat) (f : Frame → Frame) (s : State) : (updFrame fid f s).ptp = s.ptp := rfl
@[simp] theorem updFrame_links (fid : Nat) (f : Frame → Frame) (s : State) : (updFrame fid f s).links = s.links := rfl
@[simp] theorem updFrame_hrw (fid : Nat) (f : Frame → Frame) (s : State) : (updFrame fid f s).hrw = s.hrw := rfl
@[simp] theorem updFrame_twp (fid : Nat) (f : Frame → Frame) (s : State) : (updFrame fid f s).twp = s.twp := rfl
@[simp] theorem updFrame_tap (fid : Nat) (f : Frame → Frame) (s : State) : (updFrame fid f s).tap = s.tap := rfl
@[simp] theorem updFrame_trc (fid : Nat) (f : Frame → Frame) (s : State) : (updFrame fid f s).trc = s.trc := rfl
@[simp] theorem updFrame_alert (fid : Nat) (f : Frame → Frame) (s : State) : (updFrame fid f s).alert = s.alert := rfl
@[simp] theorem updFrame_nextMid (fid : Nat) (f : Frame → Frame) (s : State) : (updFrame fid f s).nextMid = s.nextMid := rfl
@[simp] theorem updFrame_nextFid (fid : Nat) (f : Frame → Frame) (s : State) : (updFrame fid f s).nextFid = s.nextFid := rfl
@[simp] theorem updFrame_nextBuild (fid : Nat) (f : Frame → Frame) (s : State) : (updFrame fid f s).nextBuild = s.nextBuild := rfl
@[simp] theorem updFrame_nextSid (fid : Nat) (f : Frame → Frame) (s : State) : (updFrame fid f s).nextSid = s.nextSid := rfl
@[simp] theorem updFrame_freeCtr (fid : Nat) (f : Frame → Frame) (s : State) : (updFrame fid f s).freeCtr = s.freeCtr := rfl
@[simp] theorem updFrame_pending (fid : Nat) (f : Frame → Frame) (s : State) : (updFrame fid f s).pending = s.pending := rfl

@[simp] theorem dropFrame_glb (fid : Nat) (s : State) : (dropFrame fid s).glb = s.glb := rfl
@[simp] theorem dropFrame_regs (fid : Nat) (s : State) : (dropFrame fid s).regs = s.regs := rfl
@[simp] theorem dropFrame_cnt (fid : Nat) (s : State) : (dropFrame fid s).cnt = s.cnt := rfl
@[simp] theorem dropFrame_clk (fid : Nat) (s : State) : (dropFrame fid s).clk = s.clk := rfl
@[simp] theorem dropFrame_hif (fid : Nat) (s : State) : (dropFrame fid s).hif = s.hif := rfl
@[simp] theorem dropFrame_streams (fid : Nat) (s : State) : (dropFrame fid s).streams = s.streams := rfl
@[simp] theorem dropFrame_msgs (fid : Nat) (s : State) : (dropFrame fid s).msgs = s.msgs := rfl
@[simp] theorem dropFrame_plg (fid : Nat) (s : State) : (dropFrame fid s).plg = s.plg := rfl
@[simp] theorem dropFrame_tables (fid : Nat) (s : State) : (dropFrame fid s).tables = s.tables := rfl
@[simp] theorem dropFrame_tblBad (fid : Nat) (s : State) : (dropFrame fid s).tblBad = s.tblBad := rfl
@[simp] theorem dropFrame_egress (fid : Nat) (s : State) : (dropFrame fid s).egress = s.egress := rfl
@[simp] theorem dropFrame_slots (fid : Nat) (s : State) : (dropFrame fid s).slots = s.slots := rfl
@[simp] theorem dropFrame_sheaves (fid : Nat) (s : State) : (dropFrame fid s).sheaves = s.sheaves := rfl
@[simp] theorem dropFrame_groups (fid : Nat) (s : State) : (dropFrame fid s).groups = s.groups := rfl
@[simp] theorem dropFrame_plots (fid : Nat) (s : State) : (dropFrame fid s).plots = s.plots := rfl
@[simp] theorem dropFrame_tiles (fid : Nat) (s : State) : (dropFrame fid s).tiles = s.tiles := rfl
@[simp] theorem dropFrame_switches (fid : Nat) (s : State) : (dropFrame fid s).switches = s.switches := rfl
@[simp] theorem dropFrame_sus (fid : Nat) (s : State) : (dropFrame fid s).sus = s.sus := rfl
@[simp] theorem dropFrame_fab (fid : Nat) (s : State) : (dropFrame fid s).fab = s.fab := rfl
@[simp] theorem dropFrame_waits (fid : Nat) (s : State) : (dropFrame fid s).waits = s.waits := rfl
@[simp] theorem dropFrame_yoke (fid : Nat) (s : State) : (dropFrame fid s).yoke = s.yoke := rfl
@[simp] theorem dropFrame_mem (fid : Nat) (s : State) : (dropFrame fid s).mem = s.mem := rfl
@[simp] theorem dropFrame_answer (fid : Nat) (s : State) : (dropFrame fid s).answer = s.answer := rfl
@[simp] theorem dropFrame_ports (fid : Nat) (s : State) : (dropFrame fid s).ports = s.ports := rfl
@[simp] theorem dropFrame_fm (fid : Nat) (s : State) : (dropFrame fid s).fm = s.fm := rfl
@[simp] theorem dropFrame_bbs (fid : Nat) (s : State) : (dropFrame fid s).bbs = s.bbs := rfl
@[simp] theorem dropFrame_ptp (fid : Nat) (s : State) : (dropFrame fid s).ptp = s.ptp := rfl
@[simp] theorem dropFrame_links (fid : Nat) (s : State) : (dropFrame fid s).links = s.links := rfl
@[simp] theorem dropFrame_hrw (fid : Nat) (s : State) : (dropFrame fid s).hrw = s.hrw := rfl
@[simp] theorem dropFrame_twp (fid : Nat) (s : State) : (dropFrame fid s).twp = s.twp := rfl
@[simp] theorem dropFrame_tap (fid : Nat) (s : State) : (dropFrame fid s).tap = s.tap := rfl
@[simp] theorem dropFrame_trc (fid : Nat) (s : State) : (dropFrame fid s).trc = s.trc := rfl
@[simp] theorem dropFrame_alert (fid : Nat) (s : State) : (dropFrame fid s).alert = s.alert := rfl
@[simp] theorem dropFrame_nextMid (fid : Nat) (s : State) : (dropFrame fid s).nextMid = s.nextMid := rfl
@[simp] theorem dropFrame_nextFid (fid : Nat) (s : State) : (dropFrame fid s).nextFid = s.nextFid := rfl
@[simp] theorem dropFrame_nextBuild (fid : Nat) (s : State) : (dropFrame fid s).nextBuild = s.nextBuild := rfl
@[simp] theorem dropFrame_nextSid (fid : Nat) (s : State) : (dropFrame fid s).nextSid = s.nextSid := rfl
@[simp] theorem dropFrame_freeCtr (fid : Nat) (s : State) : (dropFrame fid s).freeCtr = s.freeCtr := rfl
@[simp] theorem dropFrame_pending (fid : Nat) (s : State) : (dropFrame fid s).pending = s.pending := rfl

@[simp] theorem setTile_glb (t : Nat) (v : Tile) (s : State) : (setTile t v s).glb = s.glb := rfl
@[simp] theorem setTile_regs (t : Nat) (v : Tile) (s : State) : (setTile t v s).regs = s.regs := rfl
@[simp] theorem setTile_cnt (t : Nat) (v : Tile) (s : State) : (setTile t v s).cnt = s.cnt := rfl
@[simp] theorem setTile_clk (t : Nat) (v : Tile) (s : State) : (setTile t v s).clk = s.clk := rfl
@[simp] theorem setTile_hif (t : Nat) (v : Tile) (s : State) : (setTile t v s).hif = s.hif := rfl
@[simp] theorem setTile_streams (t : Nat) (v : Tile) (s : State) : (setTile t v s).streams = s.streams := rfl
@[simp] theorem setTile_msgs (t : Nat) (v : Tile) (s : State) : (setTile t v s).msgs = s.msgs := rfl
@[simp] theorem setTile_frames (t : Nat) (v : Tile) (s : State) : (setTile t v s).frames = s.frames := rfl
@[simp] theorem setTile_plg (t : Nat) (v : Tile) (s : State) : (setTile t v s).plg = s.plg := rfl
@[simp] theorem setTile_tables (t : Nat) (v : Tile) (s : State) : (setTile t v s).tables = s.tables := rfl
@[simp] theorem setTile_tblBad (t : Nat) (v : Tile) (s : State) : (setTile t v s).tblBad = s.tblBad := rfl
@[simp] theorem setTile_egress (t : Nat) (v : Tile) (s : State) : (setTile t v s).egress = s.egress := rfl
@[simp] theorem setTile_slots (t : Nat) (v : Tile) (s : State) : (setTile t v s).slots = s.slots := rfl
@[simp] theorem setTile_sheaves (t : Nat) (v : Tile) (s : State) : (setTile t v s).sheaves = s.sheaves := rfl
@[simp] theorem setTile_groups (t : Nat) (v : Tile) (s : State) : (setTile t v s).groups = s.groups := rfl
@[simp] theorem setTile_plots (t : Nat) (v : Tile) (s : State) : (setTile t v s).plots = s.plots := rfl
@[simp] theorem setTile_switches (t : Nat) (v : Tile) (s : State) : (setTile t v s).switches = s.switches := rfl
@[simp] theorem setTile_sus (t : Nat) (v : Tile) (s : State) : (setTile t v s).sus = s.sus := rfl
@[simp] theorem setTile_fab (t : Nat) (v : Tile) (s : State) : (setTile t v s).fab = s.fab := rfl
@[simp] theorem setTile_waits (t : Nat) (v : Tile) (s : State) : (setTile t v s).waits = s.waits := rfl
@[simp] theorem setTile_yoke (t : Nat) (v : Tile) (s : State) : (setTile t v s).yoke = s.yoke := rfl
@[simp] theorem setTile_mem (t : Nat) (v : Tile) (s : State) : (setTile t v s).mem = s.mem := rfl
@[simp] theorem setTile_answer (t : Nat) (v : Tile) (s : State) : (setTile t v s).answer = s.answer := rfl
@[simp] theorem setTile_ports (t : Nat) (v : Tile) (s : State) : (setTile t v s).ports = s.ports := rfl
@[simp] theorem setTile_fm (t : Nat) (v : Tile) (s : State) : (setTile t v s).fm = s.fm := rfl
@[simp] theorem setTile_bbs (t : Nat) (v : Tile) (s : State) : (setTile t v s).bbs = s.bbs := rfl
@[simp] theorem setTile_ptp (t : Nat) (v : Tile) (s : State) : (setTile t v s).ptp = s.ptp := rfl
@[simp] theorem setTile_links (t : Nat) (v : Tile) (s : State) : (setTile t v s).links = s.links := rfl
@[simp] theorem setTile_hrw (t : Nat) (v : Tile) (s : State) : (setTile t v s).hrw = s.hrw := rfl
@[simp] theorem setTile_twp (t : Nat) (v : Tile) (s : State) : (setTile t v s).twp = s.twp := rfl
@[simp] theorem setTile_tap (t : Nat) (v : Tile) (s : State) : (setTile t v s).tap = s.tap := rfl
@[simp] theorem setTile_trc (t : Nat) (v : Tile) (s : State) : (setTile t v s).trc = s.trc := rfl
@[simp] theorem setTile_alert (t : Nat) (v : Tile) (s : State) : (setTile t v s).alert = s.alert := rfl
@[simp] theorem setTile_nextMid (t : Nat) (v : Tile) (s : State) : (setTile t v s).nextMid = s.nextMid := rfl
@[simp] theorem setTile_nextFid (t : Nat) (v : Tile) (s : State) : (setTile t v s).nextFid = s.nextFid := rfl
@[simp] theorem setTile_nextBuild (t : Nat) (v : Tile) (s : State) : (setTile t v s).nextBuild = s.nextBuild := rfl
@[simp] theorem setTile_nextSid (t : Nat) (v : Tile) (s : State) : (setTile t v s).nextSid = s.nextSid := rfl
@[simp] theorem setTile_freeCtr (t : Nat) (v : Tile) (s : State) : (setTile t v s).freeCtr = s.freeCtr := rfl
@[simp] theorem setTile_pending (t : Nat) (v : Tile) (s : State) : (setTile t v s).pending = s.pending := rfl

@[simp] theorem setPlot_glb (p : Nat) (v : Plot) (s : State) : (setPlot p v s).glb = s.glb := rfl
@[simp] theorem setPlot_regs (p : Nat) (v : Plot) (s : State) : (setPlot p v s).regs = s.regs := rfl
@[simp] theorem setPlot_cnt (p : Nat) (v : Plot) (s : State) : (setPlot p v s).cnt = s.cnt := rfl
@[simp] theorem setPlot_clk (p : Nat) (v : Plot) (s : State) : (setPlot p v s).clk = s.clk := rfl
@[simp] theorem setPlot_hif (p : Nat) (v : Plot) (s : State) : (setPlot p v s).hif = s.hif := rfl
@[simp] theorem setPlot_streams (p : Nat) (v : Plot) (s : State) : (setPlot p v s).streams = s.streams := rfl
@[simp] theorem setPlot_msgs (p : Nat) (v : Plot) (s : State) : (setPlot p v s).msgs = s.msgs := rfl
@[simp] theorem setPlot_frames (p : Nat) (v : Plot) (s : State) : (setPlot p v s).frames = s.frames := rfl
@[simp] theorem setPlot_plg (p : Nat) (v : Plot) (s : State) : (setPlot p v s).plg = s.plg := rfl
@[simp] theorem setPlot_tables (p : Nat) (v : Plot) (s : State) : (setPlot p v s).tables = s.tables := rfl
@[simp] theorem setPlot_tblBad (p : Nat) (v : Plot) (s : State) : (setPlot p v s).tblBad = s.tblBad := rfl
@[simp] theorem setPlot_egress (p : Nat) (v : Plot) (s : State) : (setPlot p v s).egress = s.egress := rfl
@[simp] theorem setPlot_slots (p : Nat) (v : Plot) (s : State) : (setPlot p v s).slots = s.slots := rfl
@[simp] theorem setPlot_sheaves (p : Nat) (v : Plot) (s : State) : (setPlot p v s).sheaves = s.sheaves := rfl
@[simp] theorem setPlot_groups (p : Nat) (v : Plot) (s : State) : (setPlot p v s).groups = s.groups := rfl
@[simp] theorem setPlot_tiles (p : Nat) (v : Plot) (s : State) : (setPlot p v s).tiles = s.tiles := rfl
@[simp] theorem setPlot_switches (p : Nat) (v : Plot) (s : State) : (setPlot p v s).switches = s.switches := rfl
@[simp] theorem setPlot_sus (p : Nat) (v : Plot) (s : State) : (setPlot p v s).sus = s.sus := rfl
@[simp] theorem setPlot_fab (p : Nat) (v : Plot) (s : State) : (setPlot p v s).fab = s.fab := rfl
@[simp] theorem setPlot_waits (p : Nat) (v : Plot) (s : State) : (setPlot p v s).waits = s.waits := rfl
@[simp] theorem setPlot_yoke (p : Nat) (v : Plot) (s : State) : (setPlot p v s).yoke = s.yoke := rfl
@[simp] theorem setPlot_mem (p : Nat) (v : Plot) (s : State) : (setPlot p v s).mem = s.mem := rfl
@[simp] theorem setPlot_answer (p : Nat) (v : Plot) (s : State) : (setPlot p v s).answer = s.answer := rfl
@[simp] theorem setPlot_ports (p : Nat) (v : Plot) (s : State) : (setPlot p v s).ports = s.ports := rfl
@[simp] theorem setPlot_fm (p : Nat) (v : Plot) (s : State) : (setPlot p v s).fm = s.fm := rfl
@[simp] theorem setPlot_bbs (p : Nat) (v : Plot) (s : State) : (setPlot p v s).bbs = s.bbs := rfl
@[simp] theorem setPlot_ptp (p : Nat) (v : Plot) (s : State) : (setPlot p v s).ptp = s.ptp := rfl
@[simp] theorem setPlot_links (p : Nat) (v : Plot) (s : State) : (setPlot p v s).links = s.links := rfl
@[simp] theorem setPlot_hrw (p : Nat) (v : Plot) (s : State) : (setPlot p v s).hrw = s.hrw := rfl
@[simp] theorem setPlot_twp (p : Nat) (v : Plot) (s : State) : (setPlot p v s).twp = s.twp := rfl
@[simp] theorem setPlot_tap (p : Nat) (v : Plot) (s : State) : (setPlot p v s).tap = s.tap := rfl
@[simp] theorem setPlot_trc (p : Nat) (v : Plot) (s : State) : (setPlot p v s).trc = s.trc := rfl
@[simp] theorem setPlot_alert (p : Nat) (v : Plot) (s : State) : (setPlot p v s).alert = s.alert := rfl
@[simp] theorem setPlot_nextMid (p : Nat) (v : Plot) (s : State) : (setPlot p v s).nextMid = s.nextMid := rfl
@[simp] theorem setPlot_nextFid (p : Nat) (v : Plot) (s : State) : (setPlot p v s).nextFid = s.nextFid := rfl
@[simp] theorem setPlot_nextBuild (p : Nat) (v : Plot) (s : State) : (setPlot p v s).nextBuild = s.nextBuild := rfl
@[simp] theorem setPlot_nextSid (p : Nat) (v : Plot) (s : State) : (setPlot p v s).nextSid = s.nextSid := rfl
@[simp] theorem setPlot_freeCtr (p : Nat) (v : Plot) (s : State) : (setPlot p v s).freeCtr = s.freeCtr := rfl
@[simp] theorem setPlot_pending (p : Nat) (v : Plot) (s : State) : (setPlot p v s).pending = s.pending := rfl

@[simp] theorem setLink_glb (l : Nat) (v : Link) (s : State) : (setLink l v s).glb = s.glb := rfl
@[simp] theorem setLink_regs (l : Nat) (v : Link) (s : State) : (setLink l v s).regs = s.regs := rfl
@[simp] theorem setLink_cnt (l : Nat) (v : Link) (s : State) : (setLink l v s).cnt = s.cnt := rfl
@[simp] theorem setLink_clk (l : Nat) (v : Link) (s : State) : (setLink l v s).clk = s.clk := rfl
@[simp] theorem setLink_hif (l : Nat) (v : Link) (s : State) : (setLink l v s).hif = s.hif := rfl
@[simp] theorem setLink_streams (l : Nat) (v : Link) (s : State) : (setLink l v s).streams = s.streams := rfl
@[simp] theorem setLink_msgs (l : Nat) (v : Link) (s : State) : (setLink l v s).msgs = s.msgs := rfl
@[simp] theorem setLink_frames (l : Nat) (v : Link) (s : State) : (setLink l v s).frames = s.frames := rfl
@[simp] theorem setLink_plg (l : Nat) (v : Link) (s : State) : (setLink l v s).plg = s.plg := rfl
@[simp] theorem setLink_tables (l : Nat) (v : Link) (s : State) : (setLink l v s).tables = s.tables := rfl
@[simp] theorem setLink_tblBad (l : Nat) (v : Link) (s : State) : (setLink l v s).tblBad = s.tblBad := rfl
@[simp] theorem setLink_egress (l : Nat) (v : Link) (s : State) : (setLink l v s).egress = s.egress := rfl
@[simp] theorem setLink_slots (l : Nat) (v : Link) (s : State) : (setLink l v s).slots = s.slots := rfl
@[simp] theorem setLink_sheaves (l : Nat) (v : Link) (s : State) : (setLink l v s).sheaves = s.sheaves := rfl
@[simp] theorem setLink_groups (l : Nat) (v : Link) (s : State) : (setLink l v s).groups = s.groups := rfl
@[simp] theorem setLink_plots (l : Nat) (v : Link) (s : State) : (setLink l v s).plots = s.plots := rfl
@[simp] theorem setLink_tiles (l : Nat) (v : Link) (s : State) : (setLink l v s).tiles = s.tiles := rfl
@[simp] theorem setLink_switches (l : Nat) (v : Link) (s : State) : (setLink l v s).switches = s.switches := rfl
@[simp] theorem setLink_sus (l : Nat) (v : Link) (s : State) : (setLink l v s).sus = s.sus := rfl
@[simp] theorem setLink_fab (l : Nat) (v : Link) (s : State) : (setLink l v s).fab = s.fab := rfl
@[simp] theorem setLink_waits (l : Nat) (v : Link) (s : State) : (setLink l v s).waits = s.waits := rfl
@[simp] theorem setLink_yoke (l : Nat) (v : Link) (s : State) : (setLink l v s).yoke = s.yoke := rfl
@[simp] theorem setLink_mem (l : Nat) (v : Link) (s : State) : (setLink l v s).mem = s.mem := rfl
@[simp] theorem setLink_answer (l : Nat) (v : Link) (s : State) : (setLink l v s).answer = s.answer := rfl
@[simp] theorem setLink_ports (l : Nat) (v : Link) (s : State) : (setLink l v s).ports = s.ports := rfl
@[simp] theorem setLink_fm (l : Nat) (v : Link) (s : State) : (setLink l v s).fm = s.fm := rfl
@[simp] theorem setLink_bbs (l : Nat) (v : Link) (s : State) : (setLink l v s).bbs = s.bbs := rfl
@[simp] theorem setLink_ptp (l : Nat) (v : Link) (s : State) : (setLink l v s).ptp = s.ptp := rfl
@[simp] theorem setLink_hrw (l : Nat) (v : Link) (s : State) : (setLink l v s).hrw = s.hrw := rfl
@[simp] theorem setLink_twp (l : Nat) (v : Link) (s : State) : (setLink l v s).twp = s.twp := rfl
@[simp] theorem setLink_tap (l : Nat) (v : Link) (s : State) : (setLink l v s).tap = s.tap := rfl
@[simp] theorem setLink_trc (l : Nat) (v : Link) (s : State) : (setLink l v s).trc = s.trc := rfl
@[simp] theorem setLink_alert (l : Nat) (v : Link) (s : State) : (setLink l v s).alert = s.alert := rfl
@[simp] theorem setLink_nextMid (l : Nat) (v : Link) (s : State) : (setLink l v s).nextMid = s.nextMid := rfl
@[simp] theorem setLink_nextFid (l : Nat) (v : Link) (s : State) : (setLink l v s).nextFid = s.nextFid := rfl
@[simp] theorem setLink_nextBuild (l : Nat) (v : Link) (s : State) : (setLink l v s).nextBuild = s.nextBuild := rfl
@[simp] theorem setLink_nextSid (l : Nat) (v : Link) (s : State) : (setLink l v s).nextSid = s.nextSid := rfl
@[simp] theorem setLink_freeCtr (l : Nat) (v : Link) (s : State) : (setLink l v s).freeCtr = s.freeCtr := rfl
@[simp] theorem setLink_pending (l : Nat) (v : Link) (s : State) : (setLink l v s).pending = s.pending := rfl

@[simp] theorem setHrw_glb (h : Nat) (v : Hrw) (s : State) : (setHrw h v s).glb = s.glb := rfl
@[simp] theorem setHrw_regs (h : Nat) (v : Hrw) (s : State) : (setHrw h v s).regs = s.regs := rfl
@[simp] theorem setHrw_cnt (h : Nat) (v : Hrw) (s : State) : (setHrw h v s).cnt = s.cnt := rfl
@[simp] theorem setHrw_clk (h : Nat) (v : Hrw) (s : State) : (setHrw h v s).clk = s.clk := rfl
@[simp] theorem setHrw_hif (h : Nat) (v : Hrw) (s : State) : (setHrw h v s).hif = s.hif := rfl
@[simp] theorem setHrw_streams (h : Nat) (v : Hrw) (s : State) : (setHrw h v s).streams = s.streams := rfl
@[simp] theorem setHrw_msgs (h : Nat) (v : Hrw) (s : State) : (setHrw h v s).msgs = s.msgs := rfl
@[simp] theorem setHrw_frames (h : Nat) (v : Hrw) (s : State) : (setHrw h v s).frames = s.frames := rfl
@[simp] theorem setHrw_plg (h : Nat) (v : Hrw) (s : State) : (setHrw h v s).plg = s.plg := rfl
@[simp] theorem setHrw_tables (h : Nat) (v : Hrw) (s : State) : (setHrw h v s).tables = s.tables := rfl
@[simp] theorem setHrw_tblBad (h : Nat) (v : Hrw) (s : State) : (setHrw h v s).tblBad = s.tblBad := rfl
@[simp] theorem setHrw_egress (h : Nat) (v : Hrw) (s : State) : (setHrw h v s).egress = s.egress := rfl
@[simp] theorem setHrw_slots (h : Nat) (v : Hrw) (s : State) : (setHrw h v s).slots = s.slots := rfl
@[simp] theorem setHrw_sheaves (h : Nat) (v : Hrw) (s : State) : (setHrw h v s).sheaves = s.sheaves := rfl
@[simp] theorem setHrw_groups (h : Nat) (v : Hrw) (s : State) : (setHrw h v s).groups = s.groups := rfl
@[simp] theorem setHrw_plots (h : Nat) (v : Hrw) (s : State) : (setHrw h v s).plots = s.plots := rfl
@[simp] theorem setHrw_tiles (h : Nat) (v : Hrw) (s : State) : (setHrw h v s).tiles = s.tiles := rfl
@[simp] theorem setHrw_switches (h : Nat) (v : Hrw) (s : State) : (setHrw h v s).switches = s.switches := rfl
@[simp] theorem setHrw_sus (h : Nat) (v : Hrw) (s : State) : (setHrw h v s).sus = s.sus := rfl
@[simp] theorem setHrw_fab (h : Nat) (v : Hrw) (s : State) : (setHrw h v s).fab = s.fab := rfl
@[simp] theorem setHrw_waits (h : Nat) (v : Hrw) (s : State) : (setHrw h v s).waits = s.waits := rfl
@[simp] theorem setHrw_yoke (h : Nat) (v : Hrw) (s : State) : (setHrw h v s).yoke = s.yoke := rfl
@[simp] theorem setHrw_mem (h : Nat) (v : Hrw) (s : State) : (setHrw h v s).mem = s.mem := rfl
@[simp] theorem setHrw_answer (h : Nat) (v : Hrw) (s : State) : (setHrw h v s).answer = s.answer := rfl
@[simp] theorem setHrw_ports (h : Nat) (v : Hrw) (s : State) : (setHrw h v s).ports = s.ports := rfl
@[simp] theorem setHrw_fm (h : Nat) (v : Hrw) (s : State) : (setHrw h v s).fm = s.fm := rfl
@[simp] theorem setHrw_bbs (h : Nat) (v : Hrw) (s : State) : (setHrw h v s).bbs = s.bbs := rfl
@[simp] theorem setHrw_ptp (h : Nat) (v : Hrw) (s : State) : (setHrw h v s).ptp = s.ptp := rfl
@[simp] theorem setHrw_links (h : Nat) (v : Hrw) (s : State) : (setHrw h v s).links = s.links := rfl
@[simp] theorem setHrw_twp (h : Nat) (v : Hrw) (s : State) : (setHrw h v s).twp = s.twp := rfl
@[simp] theorem setHrw_tap (h : Nat) (v : Hrw) (s : State) : (setHrw h v s).tap = s.tap := rfl
@[simp] theorem setHrw_trc (h : Nat) (v : Hrw) (s : State) : (setHrw h v s).trc = s.trc := rfl
@[simp] theorem setHrw_alert (h : Nat) (v : Hrw) (s : State) : (setHrw h v s).alert = s.alert := rfl
@[simp] theorem setHrw_nextMid (h : Nat) (v : Hrw) (s : State) : (setHrw h v s).nextMid = s.nextMid := rfl
@[simp] theorem setHrw_nextFid (h : Nat) (v : Hrw) (s : State) : (setHrw h v s).nextFid = s.nextFid := rfl
@[simp] theorem setHrw_nextBuild (h : Nat) (v : Hrw) (s : State) : (setHrw h v s).nextBuild = s.nextBuild := rfl
@[simp] theorem setHrw_nextSid (h : Nat) (v : Hrw) (s : State) : (setHrw h v s).nextSid = s.nextSid := rfl
@[simp] theorem setHrw_freeCtr (h : Nat) (v : Hrw) (s : State) : (setHrw h v s).freeCtr = s.freeCtr := rfl
@[simp] theorem setHrw_pending (h : Nat) (v : Hrw) (s : State) : (setHrw h v s).pending = s.pending := rfl

@[simp] theorem setPort_glb (n : Nat) (p : Port) (s : State) : (setPort n p s).glb = s.glb := rfl
@[simp] theorem setPort_regs (n : Nat) (p : Port) (s : State) : (setPort n p s).regs = s.regs := rfl
@[simp] theorem setPort_cnt (n : Nat) (p : Port) (s : State) : (setPort n p s).cnt = s.cnt := rfl
@[simp] theorem setPort_clk (n : Nat) (p : Port) (s : State) : (setPort n p s).clk = s.clk := rfl
@[simp] theorem setPort_hif (n : Nat) (p : Port) (s : State) : (setPort n p s).hif = s.hif := rfl
@[simp] theorem setPort_streams (n : Nat) (p : Port) (s : State) : (setPort n p s).streams = s.streams := rfl
@[simp] theorem setPort_msgs (n : Nat) (p : Port) (s : State) : (setPort n p s).msgs = s.msgs := rfl
@[simp] theorem setPort_frames (n : Nat) (p : Port) (s : State) : (setPort n p s).frames = s.frames := rfl
@[simp] theorem setPort_plg (n : Nat) (p : Port) (s : State) : (setPort n p s).plg = s.plg := rfl
@[simp] theorem setPort_tables (n : Nat) (p : Port) (s : State) : (setPort n p s).tables = s.tables := rfl
@[simp] theorem setPort_tblBad (n : Nat) (p : Port) (s : State) : (setPort n p s).tblBad = s.tblBad := rfl
@[simp] theorem setPort_egress (n : Nat) (p : Port) (s : State) : (setPort n p s).egress = s.egress := rfl
@[simp] theorem setPort_slots (n : Nat) (p : Port) (s : State) : (setPort n p s).slots = s.slots := rfl
@[simp] theorem setPort_sheaves (n : Nat) (p : Port) (s : State) : (setPort n p s).sheaves = s.sheaves := rfl
@[simp] theorem setPort_groups (n : Nat) (p : Port) (s : State) : (setPort n p s).groups = s.groups := rfl
@[simp] theorem setPort_plots (n : Nat) (p : Port) (s : State) : (setPort n p s).plots = s.plots := rfl
@[simp] theorem setPort_tiles (n : Nat) (p : Port) (s : State) : (setPort n p s).tiles = s.tiles := rfl
@[simp] theorem setPort_switches (n : Nat) (p : Port) (s : State) : (setPort n p s).switches = s.switches := rfl
@[simp] theorem setPort_sus (n : Nat) (p : Port) (s : State) : (setPort n p s).sus = s.sus := rfl
@[simp] theorem setPort_fab (n : Nat) (p : Port) (s : State) : (setPort n p s).fab = s.fab := rfl
@[simp] theorem setPort_waits (n : Nat) (p : Port) (s : State) : (setPort n p s).waits = s.waits := rfl
@[simp] theorem setPort_yoke (n : Nat) (p : Port) (s : State) : (setPort n p s).yoke = s.yoke := rfl
@[simp] theorem setPort_mem (n : Nat) (p : Port) (s : State) : (setPort n p s).mem = s.mem := rfl
@[simp] theorem setPort_answer (n : Nat) (p : Port) (s : State) : (setPort n p s).answer = s.answer := rfl
@[simp] theorem setPort_fm (n : Nat) (p : Port) (s : State) : (setPort n p s).fm = s.fm := rfl
@[simp] theorem setPort_bbs (n : Nat) (p : Port) (s : State) : (setPort n p s).bbs = s.bbs := rfl
@[simp] theorem setPort_ptp (n : Nat) (p : Port) (s : State) : (setPort n p s).ptp = s.ptp := rfl
@[simp] theorem setPort_links (n : Nat) (p : Port) (s : State) : (setPort n p s).links = s.links := rfl
@[simp] theorem setPort_hrw (n : Nat) (p : Port) (s : State) : (setPort n p s).hrw = s.hrw := rfl
@[simp] theorem setPort_twp (n : Nat) (p : Port) (s : State) : (setPort n p s).twp = s.twp := rfl
@[simp] theorem setPort_tap (n : Nat) (p : Port) (s : State) : (setPort n p s).tap = s.tap := rfl
@[simp] theorem setPort_trc (n : Nat) (p : Port) (s : State) : (setPort n p s).trc = s.trc := rfl
@[simp] theorem setPort_alert (n : Nat) (p : Port) (s : State) : (setPort n p s).alert = s.alert := rfl
@[simp] theorem setPort_nextMid (n : Nat) (p : Port) (s : State) : (setPort n p s).nextMid = s.nextMid := rfl
@[simp] theorem setPort_nextFid (n : Nat) (p : Port) (s : State) : (setPort n p s).nextFid = s.nextFid := rfl
@[simp] theorem setPort_nextBuild (n : Nat) (p : Port) (s : State) : (setPort n p s).nextBuild = s.nextBuild := rfl
@[simp] theorem setPort_nextSid (n : Nat) (p : Port) (s : State) : (setPort n p s).nextSid = s.nextSid := rfl
@[simp] theorem setPort_freeCtr (n : Nat) (p : Port) (s : State) : (setPort n p s).freeCtr = s.freeCtr := rfl
@[simp] theorem setPort_pending (n : Nat) (p : Port) (s : State) : (setPort n p s).pending = s.pending := rfl

@[simp] theorem setBb_glb (l : Nat) (b : Bb) (s : State) : (setBb l b s).glb = s.glb := rfl
@[simp] theorem setBb_regs (l : Nat) (b : Bb) (s : State) : (setBb l b s).regs = s.regs := rfl
@[simp] theorem setBb_cnt (l : Nat) (b : Bb) (s : State) : (setBb l b s).cnt = s.cnt := rfl
@[simp] theorem setBb_clk (l : Nat) (b : Bb) (s : State) : (setBb l b s).clk = s.clk := rfl
@[simp] theorem setBb_hif (l : Nat) (b : Bb) (s : State) : (setBb l b s).hif = s.hif := rfl
@[simp] theorem setBb_streams (l : Nat) (b : Bb) (s : State) : (setBb l b s).streams = s.streams := rfl
@[simp] theorem setBb_msgs (l : Nat) (b : Bb) (s : State) : (setBb l b s).msgs = s.msgs := rfl
@[simp] theorem setBb_frames (l : Nat) (b : Bb) (s : State) : (setBb l b s).frames = s.frames := rfl
@[simp] theorem setBb_plg (l : Nat) (b : Bb) (s : State) : (setBb l b s).plg = s.plg := rfl
@[simp] theorem setBb_tables (l : Nat) (b : Bb) (s : State) : (setBb l b s).tables = s.tables := rfl
@[simp] theorem setBb_tblBad (l : Nat) (b : Bb) (s : State) : (setBb l b s).tblBad = s.tblBad := rfl
@[simp] theorem setBb_egress (l : Nat) (b : Bb) (s : State) : (setBb l b s).egress = s.egress := rfl
@[simp] theorem setBb_slots (l : Nat) (b : Bb) (s : State) : (setBb l b s).slots = s.slots := rfl
@[simp] theorem setBb_sheaves (l : Nat) (b : Bb) (s : State) : (setBb l b s).sheaves = s.sheaves := rfl
@[simp] theorem setBb_groups (l : Nat) (b : Bb) (s : State) : (setBb l b s).groups = s.groups := rfl
@[simp] theorem setBb_plots (l : Nat) (b : Bb) (s : State) : (setBb l b s).plots = s.plots := rfl
@[simp] theorem setBb_tiles (l : Nat) (b : Bb) (s : State) : (setBb l b s).tiles = s.tiles := rfl
@[simp] theorem setBb_switches (l : Nat) (b : Bb) (s : State) : (setBb l b s).switches = s.switches := rfl
@[simp] theorem setBb_sus (l : Nat) (b : Bb) (s : State) : (setBb l b s).sus = s.sus := rfl
@[simp] theorem setBb_fab (l : Nat) (b : Bb) (s : State) : (setBb l b s).fab = s.fab := rfl
@[simp] theorem setBb_waits (l : Nat) (b : Bb) (s : State) : (setBb l b s).waits = s.waits := rfl
@[simp] theorem setBb_yoke (l : Nat) (b : Bb) (s : State) : (setBb l b s).yoke = s.yoke := rfl
@[simp] theorem setBb_mem (l : Nat) (b : Bb) (s : State) : (setBb l b s).mem = s.mem := rfl
@[simp] theorem setBb_answer (l : Nat) (b : Bb) (s : State) : (setBb l b s).answer = s.answer := rfl
@[simp] theorem setBb_ports (l : Nat) (b : Bb) (s : State) : (setBb l b s).ports = s.ports := rfl
@[simp] theorem setBb_fm (l : Nat) (b : Bb) (s : State) : (setBb l b s).fm = s.fm := rfl
@[simp] theorem setBb_ptp (l : Nat) (b : Bb) (s : State) : (setBb l b s).ptp = s.ptp := rfl
@[simp] theorem setBb_links (l : Nat) (b : Bb) (s : State) : (setBb l b s).links = s.links := rfl
@[simp] theorem setBb_hrw (l : Nat) (b : Bb) (s : State) : (setBb l b s).hrw = s.hrw := rfl
@[simp] theorem setBb_twp (l : Nat) (b : Bb) (s : State) : (setBb l b s).twp = s.twp := rfl
@[simp] theorem setBb_tap (l : Nat) (b : Bb) (s : State) : (setBb l b s).tap = s.tap := rfl
@[simp] theorem setBb_trc (l : Nat) (b : Bb) (s : State) : (setBb l b s).trc = s.trc := rfl
@[simp] theorem setBb_alert (l : Nat) (b : Bb) (s : State) : (setBb l b s).alert = s.alert := rfl
@[simp] theorem setBb_nextMid (l : Nat) (b : Bb) (s : State) : (setBb l b s).nextMid = s.nextMid := rfl
@[simp] theorem setBb_nextFid (l : Nat) (b : Bb) (s : State) : (setBb l b s).nextFid = s.nextFid := rfl
@[simp] theorem setBb_nextBuild (l : Nat) (b : Bb) (s : State) : (setBb l b s).nextBuild = s.nextBuild := rfl
@[simp] theorem setBb_nextSid (l : Nat) (b : Bb) (s : State) : (setBb l b s).nextSid = s.nextSid := rfl
@[simp] theorem setBb_freeCtr (l : Nat) (b : Bb) (s : State) : (setBb l b s).freeCtr = s.freeCtr := rfl
@[simp] theorem setBb_pending (l : Nat) (b : Bb) (s : State) : (setBb l b s).pending = s.pending := rfl

@[simp] theorem setFm_glb (n i : Nat) (e : List Byte) (s : State) : (setFm n i e s).glb = s.glb := rfl
@[simp] theorem setFm_regs (n i : Nat) (e : List Byte) (s : State) : (setFm n i e s).regs = s.regs := rfl
@[simp] theorem setFm_cnt (n i : Nat) (e : List Byte) (s : State) : (setFm n i e s).cnt = s.cnt := rfl
@[simp] theorem setFm_clk (n i : Nat) (e : List Byte) (s : State) : (setFm n i e s).clk = s.clk := rfl
@[simp] theorem setFm_hif (n i : Nat) (e : List Byte) (s : State) : (setFm n i e s).hif = s.hif := rfl
@[simp] theorem setFm_streams (n i : Nat) (e : List Byte) (s : State) : (setFm n i e s).streams = s.streams := rfl
@[simp] theorem setFm_msgs (n i : Nat) (e : List Byte) (s : State) : (setFm n i e s).msgs = s.msgs := rfl
@[simp] theorem setFm_frames (n i : Nat) (e : List Byte) (s : State) : (setFm n i e s).frames = s.frames := rfl
@[simp] theorem setFm_plg (n i : Nat) (e : List Byte) (s : State) : (setFm n i e s).plg = s.plg := rfl
@[simp] theorem setFm_tables (n i : Nat) (e : List Byte) (s : State) : (setFm n i e s).tables = s.tables := rfl
@[simp] theorem setFm_tblBad (n i : Nat) (e : List Byte) (s : State) : (setFm n i e s).tblBad = s.tblBad := rfl
@[simp] theorem setFm_egress (n i : Nat) (e : List Byte) (s : State) : (setFm n i e s).egress = s.egress := rfl
@[simp] theorem setFm_slots (n i : Nat) (e : List Byte) (s : State) : (setFm n i e s).slots = s.slots := rfl
@[simp] theorem setFm_sheaves (n i : Nat) (e : List Byte) (s : State) : (setFm n i e s).sheaves = s.sheaves := rfl
@[simp] theorem setFm_groups (n i : Nat) (e : List Byte) (s : State) : (setFm n i e s).groups = s.groups := rfl
@[simp] theorem setFm_plots (n i : Nat) (e : List Byte) (s : State) : (setFm n i e s).plots = s.plots := rfl
@[simp] theorem setFm_tiles (n i : Nat) (e : List Byte) (s : State) : (setFm n i e s).tiles = s.tiles := rfl
@[simp] theorem setFm_switches (n i : Nat) (e : List Byte) (s : State) : (setFm n i e s).switches = s.switches := rfl
@[simp] theorem setFm_sus (n i : Nat) (e : List Byte) (s : State) : (setFm n i e s).sus = s.sus := rfl
@[simp] theorem setFm_fab (n i : Nat) (e : List Byte) (s : State) : (setFm n i e s).fab = s.fab := rfl
@[simp] theorem setFm_waits (n i : Nat) (e : List Byte) (s : State) : (setFm n i e s).waits = s.waits := rfl
@[simp] theorem setFm_yoke (n i : Nat) (e : List Byte) (s : State) : (setFm n i e s).yoke = s.yoke := rfl
@[simp] theorem setFm_mem (n i : Nat) (e : List Byte) (s : State) : (setFm n i e s).mem = s.mem := rfl
@[simp] theorem setFm_answer (n i : Nat) (e : List Byte) (s : State) : (setFm n i e s).answer = s.answer := rfl
@[simp] theorem setFm_ports (n i : Nat) (e : List Byte) (s : State) : (setFm n i e s).ports = s.ports := rfl
@[simp] theorem setFm_bbs (n i : Nat) (e : List Byte) (s : State) : (setFm n i e s).bbs = s.bbs := rfl
@[simp] theorem setFm_ptp (n i : Nat) (e : List Byte) (s : State) : (setFm n i e s).ptp = s.ptp := rfl
@[simp] theorem setFm_links (n i : Nat) (e : List Byte) (s : State) : (setFm n i e s).links = s.links := rfl
@[simp] theorem setFm_hrw (n i : Nat) (e : List Byte) (s : State) : (setFm n i e s).hrw = s.hrw := rfl
@[simp] theorem setFm_twp (n i : Nat) (e : List Byte) (s : State) : (setFm n i e s).twp = s.twp := rfl
@[simp] theorem setFm_tap (n i : Nat) (e : List Byte) (s : State) : (setFm n i e s).tap = s.tap := rfl
@[simp] theorem setFm_trc (n i : Nat) (e : List Byte) (s : State) : (setFm n i e s).trc = s.trc := rfl
@[simp] theorem setFm_alert (n i : Nat) (e : List Byte) (s : State) : (setFm n i e s).alert = s.alert := rfl
@[simp] theorem setFm_nextMid (n i : Nat) (e : List Byte) (s : State) : (setFm n i e s).nextMid = s.nextMid := rfl
@[simp] theorem setFm_nextFid (n i : Nat) (e : List Byte) (s : State) : (setFm n i e s).nextFid = s.nextFid := rfl
@[simp] theorem setFm_nextBuild (n i : Nat) (e : List Byte) (s : State) : (setFm n i e s).nextBuild = s.nextBuild := rfl
@[simp] theorem setFm_nextSid (n i : Nat) (e : List Byte) (s : State) : (setFm n i e s).nextSid = s.nextSid := rfl
@[simp] theorem setFm_freeCtr (n i : Nat) (e : List Byte) (s : State) : (setFm n i e s).freeCtr = s.freeCtr := rfl
@[simp] theorem setFm_pending (n i : Nat) (e : List Byte) (s : State) : (setFm n i e s).pending = s.pending := rfl

@[simp] theorem putMem_glb (dpa : Nat) (bytes : List Byte) (s : State) : (putMem dpa bytes s).glb = s.glb := rfl
@[simp] theorem putMem_regs (dpa : Nat) (bytes : List Byte) (s : State) : (putMem dpa bytes s).regs = s.regs := rfl
@[simp] theorem putMem_cnt (dpa : Nat) (bytes : List Byte) (s : State) : (putMem dpa bytes s).cnt = s.cnt := rfl
@[simp] theorem putMem_clk (dpa : Nat) (bytes : List Byte) (s : State) : (putMem dpa bytes s).clk = s.clk := rfl
@[simp] theorem putMem_hif (dpa : Nat) (bytes : List Byte) (s : State) : (putMem dpa bytes s).hif = s.hif := rfl
@[simp] theorem putMem_streams (dpa : Nat) (bytes : List Byte) (s : State) : (putMem dpa bytes s).streams = s.streams := rfl
@[simp] theorem putMem_msgs (dpa : Nat) (bytes : List Byte) (s : State) : (putMem dpa bytes s).msgs = s.msgs := rfl
@[simp] theorem putMem_frames (dpa : Nat) (bytes : List Byte) (s : State) : (putMem dpa bytes s).frames = s.frames := rfl
@[simp] theorem putMem_plg (dpa : Nat) (bytes : List Byte) (s : State) : (putMem dpa bytes s).plg = s.plg := rfl
@[simp] theorem putMem_tables (dpa : Nat) (bytes : List Byte) (s : State) : (putMem dpa bytes s).tables = s.tables := rfl
@[simp] theorem putMem_tblBad (dpa : Nat) (bytes : List Byte) (s : State) : (putMem dpa bytes s).tblBad = s.tblBad := rfl
@[simp] theorem putMem_egress (dpa : Nat) (bytes : List Byte) (s : State) : (putMem dpa bytes s).egress = s.egress := rfl
@[simp] theorem putMem_slots (dpa : Nat) (bytes : List Byte) (s : State) : (putMem dpa bytes s).slots = s.slots := rfl
@[simp] theorem putMem_sheaves (dpa : Nat) (bytes : List Byte) (s : State) : (putMem dpa bytes s).sheaves = s.sheaves := rfl
@[simp] theorem putMem_groups (dpa : Nat) (bytes : List Byte) (s : State) : (putMem dpa bytes s).groups = s.groups := rfl
@[simp] theorem putMem_plots (dpa : Nat) (bytes : List Byte) (s : State) : (putMem dpa bytes s).plots = s.plots := rfl
@[simp] theorem putMem_tiles (dpa : Nat) (bytes : List Byte) (s : State) : (putMem dpa bytes s).tiles = s.tiles := rfl
@[simp] theorem putMem_switches (dpa : Nat) (bytes : List Byte) (s : State) : (putMem dpa bytes s).switches = s.switches := rfl
@[simp] theorem putMem_sus (dpa : Nat) (bytes : List Byte) (s : State) : (putMem dpa bytes s).sus = s.sus := rfl
@[simp] theorem putMem_fab (dpa : Nat) (bytes : List Byte) (s : State) : (putMem dpa bytes s).fab = s.fab := rfl
@[simp] theorem putMem_waits (dpa : Nat) (bytes : List Byte) (s : State) : (putMem dpa bytes s).waits = s.waits := rfl
@[simp] theorem putMem_yoke (dpa : Nat) (bytes : List Byte) (s : State) : (putMem dpa bytes s).yoke = s.yoke := rfl
@[simp] theorem putMem_answer (dpa : Nat) (bytes : List Byte) (s : State) : (putMem dpa bytes s).answer = s.answer := rfl
@[simp] theorem putMem_ports (dpa : Nat) (bytes : List Byte) (s : State) : (putMem dpa bytes s).ports = s.ports := rfl
@[simp] theorem putMem_fm (dpa : Nat) (bytes : List Byte) (s : State) : (putMem dpa bytes s).fm = s.fm := rfl
@[simp] theorem putMem_bbs (dpa : Nat) (bytes : List Byte) (s : State) : (putMem dpa bytes s).bbs = s.bbs := rfl
@[simp] theorem putMem_ptp (dpa : Nat) (bytes : List Byte) (s : State) : (putMem dpa bytes s).ptp = s.ptp := rfl
@[simp] theorem putMem_links (dpa : Nat) (bytes : List Byte) (s : State) : (putMem dpa bytes s).links = s.links := rfl
@[simp] theorem putMem_hrw (dpa : Nat) (bytes : List Byte) (s : State) : (putMem dpa bytes s).hrw = s.hrw := rfl
@[simp] theorem putMem_twp (dpa : Nat) (bytes : List Byte) (s : State) : (putMem dpa bytes s).twp = s.twp := rfl
@[simp] theorem putMem_tap (dpa : Nat) (bytes : List Byte) (s : State) : (putMem dpa bytes s).tap = s.tap := rfl
@[simp] theorem putMem_trc (dpa : Nat) (bytes : List Byte) (s : State) : (putMem dpa bytes s).trc = s.trc := rfl
@[simp] theorem putMem_alert (dpa : Nat) (bytes : List Byte) (s : State) : (putMem dpa bytes s).alert = s.alert := rfl
@[simp] theorem putMem_nextMid (dpa : Nat) (bytes : List Byte) (s : State) : (putMem dpa bytes s).nextMid = s.nextMid := rfl
@[simp] theorem putMem_nextFid (dpa : Nat) (bytes : List Byte) (s : State) : (putMem dpa bytes s).nextFid = s.nextFid := rfl
@[simp] theorem putMem_nextBuild (dpa : Nat) (bytes : List Byte) (s : State) : (putMem dpa bytes s).nextBuild = s.nextBuild := rfl
@[simp] theorem putMem_nextSid (dpa : Nat) (bytes : List Byte) (s : State) : (putMem dpa bytes s).nextSid = s.nextSid := rfl
@[simp] theorem putMem_freeCtr (dpa : Nat) (bytes : List Byte) (s : State) : (putMem dpa bytes s).freeCtr = s.freeCtr := rfl
@[simp] theorem putMem_pending (dpa : Nat) (bytes : List Byte) (s : State) : (putMem dpa bytes s).pending = s.pending := rfl

@[simp] theorem setPoison_glb (half : Nat) (b : Bool) (s : State) : (setPoison half b s).glb = s.glb := rfl
@[simp] theorem setPoison_regs (half : Nat) (b : Bool) (s : State) : (setPoison half b s).regs = s.regs := rfl
@[simp] theorem setPoison_cnt (half : Nat) (b : Bool) (s : State) : (setPoison half b s).cnt = s.cnt := rfl
@[simp] theorem setPoison_clk (half : Nat) (b : Bool) (s : State) : (setPoison half b s).clk = s.clk := rfl
@[simp] theorem setPoison_hif (half : Nat) (b : Bool) (s : State) : (setPoison half b s).hif = s.hif := rfl
@[simp] theorem setPoison_streams (half : Nat) (b : Bool) (s : State) : (setPoison half b s).streams = s.streams := rfl
@[simp] theorem setPoison_msgs (half : Nat) (b : Bool) (s : State) : (setPoison half b s).msgs = s.msgs := rfl
@[simp] theorem setPoison_frames (half : Nat) (b : Bool) (s : State) : (setPoison half b s).frames = s.frames := rfl
@[simp] theorem setPoison_plg (half : Nat) (b : Bool) (s : State) : (setPoison half b s).plg = s.plg := rfl
@[simp] theorem setPoison_tables (half : Nat) (b : Bool) (s : State) : (setPoison half b s).tables = s.tables := rfl
@[simp] theorem setPoison_tblBad (half : Nat) (b : Bool) (s : State) : (setPoison half b s).tblBad = s.tblBad := rfl
@[simp] theorem setPoison_egress (half : Nat) (b : Bool) (s : State) : (setPoison half b s).egress = s.egress := rfl
@[simp] theorem setPoison_slots (half : Nat) (b : Bool) (s : State) : (setPoison half b s).slots = s.slots := rfl
@[simp] theorem setPoison_sheaves (half : Nat) (b : Bool) (s : State) : (setPoison half b s).sheaves = s.sheaves := rfl
@[simp] theorem setPoison_groups (half : Nat) (b : Bool) (s : State) : (setPoison half b s).groups = s.groups := rfl
@[simp] theorem setPoison_plots (half : Nat) (b : Bool) (s : State) : (setPoison half b s).plots = s.plots := rfl
@[simp] theorem setPoison_tiles (half : Nat) (b : Bool) (s : State) : (setPoison half b s).tiles = s.tiles := rfl
@[simp] theorem setPoison_switches (half : Nat) (b : Bool) (s : State) : (setPoison half b s).switches = s.switches := rfl
@[simp] theorem setPoison_sus (half : Nat) (b : Bool) (s : State) : (setPoison half b s).sus = s.sus := rfl
@[simp] theorem setPoison_fab (half : Nat) (b : Bool) (s : State) : (setPoison half b s).fab = s.fab := rfl
@[simp] theorem setPoison_waits (half : Nat) (b : Bool) (s : State) : (setPoison half b s).waits = s.waits := rfl
@[simp] theorem setPoison_yoke (half : Nat) (b : Bool) (s : State) : (setPoison half b s).yoke = s.yoke := rfl
@[simp] theorem setPoison_answer (half : Nat) (b : Bool) (s : State) : (setPoison half b s).answer = s.answer := rfl
@[simp] theorem setPoison_ports (half : Nat) (b : Bool) (s : State) : (setPoison half b s).ports = s.ports := rfl
@[simp] theorem setPoison_fm (half : Nat) (b : Bool) (s : State) : (setPoison half b s).fm = s.fm := rfl
@[simp] theorem setPoison_bbs (half : Nat) (b : Bool) (s : State) : (setPoison half b s).bbs = s.bbs := rfl
@[simp] theorem setPoison_ptp (half : Nat) (b : Bool) (s : State) : (setPoison half b s).ptp = s.ptp := rfl
@[simp] theorem setPoison_links (half : Nat) (b : Bool) (s : State) : (setPoison half b s).links = s.links := rfl
@[simp] theorem setPoison_hrw (half : Nat) (b : Bool) (s : State) : (setPoison half b s).hrw = s.hrw := rfl
@[simp] theorem setPoison_twp (half : Nat) (b : Bool) (s : State) : (setPoison half b s).twp = s.twp := rfl
@[simp] theorem setPoison_tap (half : Nat) (b : Bool) (s : State) : (setPoison half b s).tap = s.tap := rfl
@[simp] theorem setPoison_trc (half : Nat) (b : Bool) (s : State) : (setPoison half b s).trc = s.trc := rfl
@[simp] theorem setPoison_alert (half : Nat) (b : Bool) (s : State) : (setPoison half b s).alert = s.alert := rfl
@[simp] theorem setPoison_nextMid (half : Nat) (b : Bool) (s : State) : (setPoison half b s).nextMid = s.nextMid := rfl
@[simp] theorem setPoison_nextFid (half : Nat) (b : Bool) (s : State) : (setPoison half b s).nextFid = s.nextFid := rfl
@[simp] theorem setPoison_nextBuild (half : Nat) (b : Bool) (s : State) : (setPoison half b s).nextBuild = s.nextBuild := rfl
@[simp] theorem setPoison_nextSid (half : Nat) (b : Bool) (s : State) : (setPoison half b s).nextSid = s.nextSid := rfl
@[simp] theorem setPoison_freeCtr (half : Nat) (b : Bool) (s : State) : (setPoison half b s).freeCtr = s.freeCtr := rfl
@[simp] theorem setPoison_pending (half : Nat) (b : Bool) (s : State) : (setPoison half b s).pending = s.pending := rfl

@[simp] theorem putLine_glb (die line : Nat) (c : CacheLine) (s : State) : (putLine die line c s).glb = s.glb := rfl
@[simp] theorem putLine_regs (die line : Nat) (c : CacheLine) (s : State) : (putLine die line c s).regs = s.regs := rfl
@[simp] theorem putLine_cnt (die line : Nat) (c : CacheLine) (s : State) : (putLine die line c s).cnt = s.cnt := rfl
@[simp] theorem putLine_clk (die line : Nat) (c : CacheLine) (s : State) : (putLine die line c s).clk = s.clk := rfl
@[simp] theorem putLine_hif (die line : Nat) (c : CacheLine) (s : State) : (putLine die line c s).hif = s.hif := rfl
@[simp] theorem putLine_streams (die line : Nat) (c : CacheLine) (s : State) : (putLine die line c s).streams = s.streams := rfl
@[simp] theorem putLine_msgs (die line : Nat) (c : CacheLine) (s : State) : (putLine die line c s).msgs = s.msgs := rfl
@[simp] theorem putLine_frames (die line : Nat) (c : CacheLine) (s : State) : (putLine die line c s).frames = s.frames := rfl
@[simp] theorem putLine_plg (die line : Nat) (c : CacheLine) (s : State) : (putLine die line c s).plg = s.plg := rfl
@[simp] theorem putLine_tables (die line : Nat) (c : CacheLine) (s : State) : (putLine die line c s).tables = s.tables := rfl
@[simp] theorem putLine_tblBad (die line : Nat) (c : CacheLine) (s : State) : (putLine die line c s).tblBad = s.tblBad := rfl
@[simp] theorem putLine_egress (die line : Nat) (c : CacheLine) (s : State) : (putLine die line c s).egress = s.egress := rfl
@[simp] theorem putLine_slots (die line : Nat) (c : CacheLine) (s : State) : (putLine die line c s).slots = s.slots := rfl
@[simp] theorem putLine_sheaves (die line : Nat) (c : CacheLine) (s : State) : (putLine die line c s).sheaves = s.sheaves := rfl
@[simp] theorem putLine_groups (die line : Nat) (c : CacheLine) (s : State) : (putLine die line c s).groups = s.groups := rfl
@[simp] theorem putLine_plots (die line : Nat) (c : CacheLine) (s : State) : (putLine die line c s).plots = s.plots := rfl
@[simp] theorem putLine_tiles (die line : Nat) (c : CacheLine) (s : State) : (putLine die line c s).tiles = s.tiles := rfl
@[simp] theorem putLine_switches (die line : Nat) (c : CacheLine) (s : State) : (putLine die line c s).switches = s.switches := rfl
@[simp] theorem putLine_sus (die line : Nat) (c : CacheLine) (s : State) : (putLine die line c s).sus = s.sus := rfl
@[simp] theorem putLine_fab (die line : Nat) (c : CacheLine) (s : State) : (putLine die line c s).fab = s.fab := rfl
@[simp] theorem putLine_waits (die line : Nat) (c : CacheLine) (s : State) : (putLine die line c s).waits = s.waits := rfl
@[simp] theorem putLine_yoke (die line : Nat) (c : CacheLine) (s : State) : (putLine die line c s).yoke = s.yoke := rfl
@[simp] theorem putLine_answer (die line : Nat) (c : CacheLine) (s : State) : (putLine die line c s).answer = s.answer := rfl
@[simp] theorem putLine_ports (die line : Nat) (c : CacheLine) (s : State) : (putLine die line c s).ports = s.ports := rfl
@[simp] theorem putLine_fm (die line : Nat) (c : CacheLine) (s : State) : (putLine die line c s).fm = s.fm := rfl
@[simp] theorem putLine_bbs (die line : Nat) (c : CacheLine) (s : State) : (putLine die line c s).bbs = s.bbs := rfl
@[simp] theorem putLine_ptp (die line : Nat) (c : CacheLine) (s : State) : (putLine die line c s).ptp = s.ptp := rfl
@[simp] theorem putLine_links (die line : Nat) (c : CacheLine) (s : State) : (putLine die line c s).links = s.links := rfl
@[simp] theorem putLine_hrw (die line : Nat) (c : CacheLine) (s : State) : (putLine die line c s).hrw = s.hrw := rfl
@[simp] theorem putLine_twp (die line : Nat) (c : CacheLine) (s : State) : (putLine die line c s).twp = s.twp := rfl
@[simp] theorem putLine_tap (die line : Nat) (c : CacheLine) (s : State) : (putLine die line c s).tap = s.tap := rfl
@[simp] theorem putLine_trc (die line : Nat) (c : CacheLine) (s : State) : (putLine die line c s).trc = s.trc := rfl
@[simp] theorem putLine_alert (die line : Nat) (c : CacheLine) (s : State) : (putLine die line c s).alert = s.alert := rfl
@[simp] theorem putLine_nextMid (die line : Nat) (c : CacheLine) (s : State) : (putLine die line c s).nextMid = s.nextMid := rfl
@[simp] theorem putLine_nextFid (die line : Nat) (c : CacheLine) (s : State) : (putLine die line c s).nextFid = s.nextFid := rfl
@[simp] theorem putLine_nextBuild (die line : Nat) (c : CacheLine) (s : State) : (putLine die line c s).nextBuild = s.nextBuild := rfl
@[simp] theorem putLine_nextSid (die line : Nat) (c : CacheLine) (s : State) : (putLine die line c s).nextSid = s.nextSid := rfl
@[simp] theorem putLine_freeCtr (die line : Nat) (c : CacheLine) (s : State) : (putLine die line c s).freeCtr = s.freeCtr := rfl
@[simp] theorem putLine_pending (die line : Nat) (c : CacheLine) (s : State) : (putLine die line c s).pending = s.pending := rfl

@[simp] theorem setDir_glb (line : Nat) (d : DirEntry) (s : State) : (setDir line d s).glb = s.glb := rfl
@[simp] theorem setDir_regs (line : Nat) (d : DirEntry) (s : State) : (setDir line d s).regs = s.regs := rfl
@[simp] theorem setDir_cnt (line : Nat) (d : DirEntry) (s : State) : (setDir line d s).cnt = s.cnt := rfl
@[simp] theorem setDir_clk (line : Nat) (d : DirEntry) (s : State) : (setDir line d s).clk = s.clk := rfl
@[simp] theorem setDir_hif (line : Nat) (d : DirEntry) (s : State) : (setDir line d s).hif = s.hif := rfl
@[simp] theorem setDir_streams (line : Nat) (d : DirEntry) (s : State) : (setDir line d s).streams = s.streams := rfl
@[simp] theorem setDir_msgs (line : Nat) (d : DirEntry) (s : State) : (setDir line d s).msgs = s.msgs := rfl
@[simp] theorem setDir_frames (line : Nat) (d : DirEntry) (s : State) : (setDir line d s).frames = s.frames := rfl
@[simp] theorem setDir_plg (line : Nat) (d : DirEntry) (s : State) : (setDir line d s).plg = s.plg := rfl
@[simp] theorem setDir_tables (line : Nat) (d : DirEntry) (s : State) : (setDir line d s).tables = s.tables := rfl
@[simp] theorem setDir_tblBad (line : Nat) (d : DirEntry) (s : State) : (setDir line d s).tblBad = s.tblBad := rfl
@[simp] theorem setDir_egress (line : Nat) (d : DirEntry) (s : State) : (setDir line d s).egress = s.egress := rfl
@[simp] theorem setDir_slots (line : Nat) (d : DirEntry) (s : State) : (setDir line d s).slots = s.slots := rfl
@[simp] theorem setDir_sheaves (line : Nat) (d : DirEntry) (s : State) : (setDir line d s).sheaves = s.sheaves := rfl
@[simp] theorem setDir_groups (line : Nat) (d : DirEntry) (s : State) : (setDir line d s).groups = s.groups := rfl
@[simp] theorem setDir_plots (line : Nat) (d : DirEntry) (s : State) : (setDir line d s).plots = s.plots := rfl
@[simp] theorem setDir_tiles (line : Nat) (d : DirEntry) (s : State) : (setDir line d s).tiles = s.tiles := rfl
@[simp] theorem setDir_switches (line : Nat) (d : DirEntry) (s : State) : (setDir line d s).switches = s.switches := rfl
@[simp] theorem setDir_sus (line : Nat) (d : DirEntry) (s : State) : (setDir line d s).sus = s.sus := rfl
@[simp] theorem setDir_fab (line : Nat) (d : DirEntry) (s : State) : (setDir line d s).fab = s.fab := rfl
@[simp] theorem setDir_waits (line : Nat) (d : DirEntry) (s : State) : (setDir line d s).waits = s.waits := rfl
@[simp] theorem setDir_yoke (line : Nat) (d : DirEntry) (s : State) : (setDir line d s).yoke = s.yoke := rfl
@[simp] theorem setDir_answer (line : Nat) (d : DirEntry) (s : State) : (setDir line d s).answer = s.answer := rfl
@[simp] theorem setDir_ports (line : Nat) (d : DirEntry) (s : State) : (setDir line d s).ports = s.ports := rfl
@[simp] theorem setDir_fm (line : Nat) (d : DirEntry) (s : State) : (setDir line d s).fm = s.fm := rfl
@[simp] theorem setDir_bbs (line : Nat) (d : DirEntry) (s : State) : (setDir line d s).bbs = s.bbs := rfl
@[simp] theorem setDir_ptp (line : Nat) (d : DirEntry) (s : State) : (setDir line d s).ptp = s.ptp := rfl
@[simp] theorem setDir_links (line : Nat) (d : DirEntry) (s : State) : (setDir line d s).links = s.links := rfl
@[simp] theorem setDir_hrw (line : Nat) (d : DirEntry) (s : State) : (setDir line d s).hrw = s.hrw := rfl
@[simp] theorem setDir_twp (line : Nat) (d : DirEntry) (s : State) : (setDir line d s).twp = s.twp := rfl
@[simp] theorem setDir_tap (line : Nat) (d : DirEntry) (s : State) : (setDir line d s).tap = s.tap := rfl
@[simp] theorem setDir_trc (line : Nat) (d : DirEntry) (s : State) : (setDir line d s).trc = s.trc := rfl
@[simp] theorem setDir_alert (line : Nat) (d : DirEntry) (s : State) : (setDir line d s).alert = s.alert := rfl
@[simp] theorem setDir_nextMid (line : Nat) (d : DirEntry) (s : State) : (setDir line d s).nextMid = s.nextMid := rfl
@[simp] theorem setDir_nextFid (line : Nat) (d : DirEntry) (s : State) : (setDir line d s).nextFid = s.nextFid := rfl
@[simp] theorem setDir_nextBuild (line : Nat) (d : DirEntry) (s : State) : (setDir line d s).nextBuild = s.nextBuild := rfl
@[simp] theorem setDir_nextSid (line : Nat) (d : DirEntry) (s : State) : (setDir line d s).nextSid = s.nextSid := rfl
@[simp] theorem setDir_freeCtr (line : Nat) (d : DirEntry) (s : State) : (setDir line d s).freeCtr = s.freeCtr := rfl
@[simp] theorem setDir_pending (line : Nat) (d : DirEntry) (s : State) : (setDir line d s).pending = s.pending := rfl

@[simp] theorem setTap_glb (f : Tap → Tap) (s : State) : (setTap f s).glb = s.glb := rfl
@[simp] theorem setTap_regs (f : Tap → Tap) (s : State) : (setTap f s).regs = s.regs := rfl
@[simp] theorem setTap_cnt (f : Tap → Tap) (s : State) : (setTap f s).cnt = s.cnt := rfl
@[simp] theorem setTap_clk (f : Tap → Tap) (s : State) : (setTap f s).clk = s.clk := rfl
@[simp] theorem setTap_hif (f : Tap → Tap) (s : State) : (setTap f s).hif = s.hif := rfl
@[simp] theorem setTap_streams (f : Tap → Tap) (s : State) : (setTap f s).streams = s.streams := rfl
@[simp] theorem setTap_msgs (f : Tap → Tap) (s : State) : (setTap f s).msgs = s.msgs := rfl
@[simp] theorem setTap_frames (f : Tap → Tap) (s : State) : (setTap f s).frames = s.frames := rfl
@[simp] theorem setTap_plg (f : Tap → Tap) (s : State) : (setTap f s).plg = s.plg := rfl
@[simp] theorem setTap_tables (f : Tap → Tap) (s : State) : (setTap f s).tables = s.tables := rfl
@[simp] theorem setTap_tblBad (f : Tap → Tap) (s : State) : (setTap f s).tblBad = s.tblBad := rfl
@[simp] theorem setTap_egress (f : Tap → Tap) (s : State) : (setTap f s).egress = s.egress := rfl
@[simp] theorem setTap_slots (f : Tap → Tap) (s : State) : (setTap f s).slots = s.slots := rfl
@[simp] theorem setTap_sheaves (f : Tap → Tap) (s : State) : (setTap f s).sheaves = s.sheaves := rfl
@[simp] theorem setTap_groups (f : Tap → Tap) (s : State) : (setTap f s).groups = s.groups := rfl
@[simp] theorem setTap_plots (f : Tap → Tap) (s : State) : (setTap f s).plots = s.plots := rfl
@[simp] theorem setTap_tiles (f : Tap → Tap) (s : State) : (setTap f s).tiles = s.tiles := rfl
@[simp] theorem setTap_switches (f : Tap → Tap) (s : State) : (setTap f s).switches = s.switches := rfl
@[simp] theorem setTap_sus (f : Tap → Tap) (s : State) : (setTap f s).sus = s.sus := rfl
@[simp] theorem setTap_fab (f : Tap → Tap) (s : State) : (setTap f s).fab = s.fab := rfl
@[simp] theorem setTap_waits (f : Tap → Tap) (s : State) : (setTap f s).waits = s.waits := rfl
@[simp] theorem setTap_yoke (f : Tap → Tap) (s : State) : (setTap f s).yoke = s.yoke := rfl
@[simp] theorem setTap_mem (f : Tap → Tap) (s : State) : (setTap f s).mem = s.mem := rfl
@[simp] theorem setTap_answer (f : Tap → Tap) (s : State) : (setTap f s).answer = s.answer := rfl
@[simp] theorem setTap_ports (f : Tap → Tap) (s : State) : (setTap f s).ports = s.ports := rfl
@[simp] theorem setTap_fm (f : Tap → Tap) (s : State) : (setTap f s).fm = s.fm := rfl
@[simp] theorem setTap_bbs (f : Tap → Tap) (s : State) : (setTap f s).bbs = s.bbs := rfl
@[simp] theorem setTap_ptp (f : Tap → Tap) (s : State) : (setTap f s).ptp = s.ptp := rfl
@[simp] theorem setTap_links (f : Tap → Tap) (s : State) : (setTap f s).links = s.links := rfl
@[simp] theorem setTap_hrw (f : Tap → Tap) (s : State) : (setTap f s).hrw = s.hrw := rfl
@[simp] theorem setTap_twp (f : Tap → Tap) (s : State) : (setTap f s).twp = s.twp := rfl
@[simp] theorem setTap_trc (f : Tap → Tap) (s : State) : (setTap f s).trc = s.trc := rfl
@[simp] theorem setTap_alert (f : Tap → Tap) (s : State) : (setTap f s).alert = s.alert := rfl
@[simp] theorem setTap_nextMid (f : Tap → Tap) (s : State) : (setTap f s).nextMid = s.nextMid := rfl
@[simp] theorem setTap_nextFid (f : Tap → Tap) (s : State) : (setTap f s).nextFid = s.nextFid := rfl
@[simp] theorem setTap_nextBuild (f : Tap → Tap) (s : State) : (setTap f s).nextBuild = s.nextBuild := rfl
@[simp] theorem setTap_nextSid (f : Tap → Tap) (s : State) : (setTap f s).nextSid = s.nextSid := rfl
@[simp] theorem setTap_freeCtr (f : Tap → Tap) (s : State) : (setTap f s).freeCtr = s.freeCtr := rfl
@[simp] theorem setTap_pending (f : Tap → Tap) (s : State) : (setTap f s).pending = s.pending := rfl

@[simp] theorem setGleans_glb (gs : List Glean) (s : State) : (setGleans gs s).glb = s.glb := rfl
@[simp] theorem setGleans_regs (gs : List Glean) (s : State) : (setGleans gs s).regs = s.regs := rfl
@[simp] theorem setGleans_cnt (gs : List Glean) (s : State) : (setGleans gs s).cnt = s.cnt := rfl
@[simp] theorem setGleans_clk (gs : List Glean) (s : State) : (setGleans gs s).clk = s.clk := rfl
@[simp] theorem setGleans_hif (gs : List Glean) (s : State) : (setGleans gs s).hif = s.hif := rfl
@[simp] theorem setGleans_streams (gs : List Glean) (s : State) : (setGleans gs s).streams = s.streams := rfl
@[simp] theorem setGleans_msgs (gs : List Glean) (s : State) : (setGleans gs s).msgs = s.msgs := rfl
@[simp] theorem setGleans_frames (gs : List Glean) (s : State) : (setGleans gs s).frames = s.frames := rfl
@[simp] theorem setGleans_tables (gs : List Glean) (s : State) : (setGleans gs s).tables = s.tables := rfl
@[simp] theorem setGleans_tblBad (gs : List Glean) (s : State) : (setGleans gs s).tblBad = s.tblBad := rfl
@[simp] theorem setGleans_egress (gs : List Glean) (s : State) : (setGleans gs s).egress = s.egress := rfl
@[simp] theorem setGleans_slots (gs : List Glean) (s : State) : (setGleans gs s).slots = s.slots := rfl
@[simp] theorem setGleans_sheaves (gs : List Glean) (s : State) : (setGleans gs s).sheaves = s.sheaves := rfl
@[simp] theorem setGleans_groups (gs : List Glean) (s : State) : (setGleans gs s).groups = s.groups := rfl
@[simp] theorem setGleans_plots (gs : List Glean) (s : State) : (setGleans gs s).plots = s.plots := rfl
@[simp] theorem setGleans_tiles (gs : List Glean) (s : State) : (setGleans gs s).tiles = s.tiles := rfl
@[simp] theorem setGleans_switches (gs : List Glean) (s : State) : (setGleans gs s).switches = s.switches := rfl
@[simp] theorem setGleans_sus (gs : List Glean) (s : State) : (setGleans gs s).sus = s.sus := rfl
@[simp] theorem setGleans_fab (gs : List Glean) (s : State) : (setGleans gs s).fab = s.fab := rfl
@[simp] theorem setGleans_waits (gs : List Glean) (s : State) : (setGleans gs s).waits = s.waits := rfl
@[simp] theorem setGleans_yoke (gs : List Glean) (s : State) : (setGleans gs s).yoke = s.yoke := rfl
@[simp] theorem setGleans_mem (gs : List Glean) (s : State) : (setGleans gs s).mem = s.mem := rfl
@[simp] theorem setGleans_answer (gs : List Glean) (s : State) : (setGleans gs s).answer = s.answer := rfl
@[simp] theorem setGleans_ports (gs : List Glean) (s : State) : (setGleans gs s).ports = s.ports := rfl
@[simp] theorem setGleans_fm (gs : List Glean) (s : State) : (setGleans gs s).fm = s.fm := rfl
@[simp] theorem setGleans_bbs (gs : List Glean) (s : State) : (setGleans gs s).bbs = s.bbs := rfl
@[simp] theorem setGleans_ptp (gs : List Glean) (s : State) : (setGleans gs s).ptp = s.ptp := rfl
@[simp] theorem setGleans_links (gs : List Glean) (s : State) : (setGleans gs s).links = s.links := rfl
@[simp] theorem setGleans_hrw (gs : List Glean) (s : State) : (setGleans gs s).hrw = s.hrw := rfl
@[simp] theorem setGleans_twp (gs : List Glean) (s : State) : (setGleans gs s).twp = s.twp := rfl
@[simp] theorem setGleans_tap (gs : List Glean) (s : State) : (setGleans gs s).tap = s.tap := rfl
@[simp] theorem setGleans_trc (gs : List Glean) (s : State) : (setGleans gs s).trc = s.trc := rfl
@[simp] theorem setGleans_alert (gs : List Glean) (s : State) : (setGleans gs s).alert = s.alert := rfl
@[simp] theorem setGleans_nextMid (gs : List Glean) (s : State) : (setGleans gs s).nextMid = s.nextMid := rfl
@[simp] theorem setGleans_nextFid (gs : List Glean) (s : State) : (setGleans gs s).nextFid = s.nextFid := rfl
@[simp] theorem setGleans_nextBuild (gs : List Glean) (s : State) : (setGleans gs s).nextBuild = s.nextBuild := rfl
@[simp] theorem setGleans_nextSid (gs : List Glean) (s : State) : (setGleans gs s).nextSid = s.nextSid := rfl
@[simp] theorem setGleans_freeCtr (gs : List Glean) (s : State) : (setGleans gs s).freeCtr = s.freeCtr := rfl
@[simp] theorem setGleans_pending (gs : List Glean) (s : State) : (setGleans gs s).pending = s.pending := rfl

@[simp] theorem setEgressQ_glb (e : Nat) (q : List EgrFrame) (s : State) : (setEgressQ e q s).glb = s.glb := rfl
@[simp] theorem setEgressQ_regs (e : Nat) (q : List EgrFrame) (s : State) : (setEgressQ e q s).regs = s.regs := rfl
@[simp] theorem setEgressQ_cnt (e : Nat) (q : List EgrFrame) (s : State) : (setEgressQ e q s).cnt = s.cnt := rfl
@[simp] theorem setEgressQ_clk (e : Nat) (q : List EgrFrame) (s : State) : (setEgressQ e q s).clk = s.clk := rfl
@[simp] theorem setEgressQ_hif (e : Nat) (q : List EgrFrame) (s : State) : (setEgressQ e q s).hif = s.hif := rfl
@[simp] theorem setEgressQ_streams (e : Nat) (q : List EgrFrame) (s : State) : (setEgressQ e q s).streams = s.streams := rfl
@[simp] theorem setEgressQ_msgs (e : Nat) (q : List EgrFrame) (s : State) : (setEgressQ e q s).msgs = s.msgs := rfl
@[simp] theorem setEgressQ_frames (e : Nat) (q : List EgrFrame) (s : State) : (setEgressQ e q s).frames = s.frames := rfl
@[simp] theorem setEgressQ_plg (e : Nat) (q : List EgrFrame) (s : State) : (setEgressQ e q s).plg = s.plg := rfl
@[simp] theorem setEgressQ_tables (e : Nat) (q : List EgrFrame) (s : State) : (setEgressQ e q s).tables = s.tables := rfl
@[simp] theorem setEgressQ_tblBad (e : Nat) (q : List EgrFrame) (s : State) : (setEgressQ e q s).tblBad = s.tblBad := rfl
@[simp] theorem setEgressQ_slots (e : Nat) (q : List EgrFrame) (s : State) : (setEgressQ e q s).slots = s.slots := rfl
@[simp] theorem setEgressQ_sheaves (e : Nat) (q : List EgrFrame) (s : State) : (setEgressQ e q s).sheaves = s.sheaves := rfl
@[simp] theorem setEgressQ_groups (e : Nat) (q : List EgrFrame) (s : State) : (setEgressQ e q s).groups = s.groups := rfl
@[simp] theorem setEgressQ_plots (e : Nat) (q : List EgrFrame) (s : State) : (setEgressQ e q s).plots = s.plots := rfl
@[simp] theorem setEgressQ_tiles (e : Nat) (q : List EgrFrame) (s : State) : (setEgressQ e q s).tiles = s.tiles := rfl
@[simp] theorem setEgressQ_switches (e : Nat) (q : List EgrFrame) (s : State) : (setEgressQ e q s).switches = s.switches := rfl
@[simp] theorem setEgressQ_sus (e : Nat) (q : List EgrFrame) (s : State) : (setEgressQ e q s).sus = s.sus := rfl
@[simp] theorem setEgressQ_fab (e : Nat) (q : List EgrFrame) (s : State) : (setEgressQ e q s).fab = s.fab := rfl
@[simp] theorem setEgressQ_waits (e : Nat) (q : List EgrFrame) (s : State) : (setEgressQ e q s).waits = s.waits := rfl
@[simp] theorem setEgressQ_yoke (e : Nat) (q : List EgrFrame) (s : State) : (setEgressQ e q s).yoke = s.yoke := rfl
@[simp] theorem setEgressQ_mem (e : Nat) (q : List EgrFrame) (s : State) : (setEgressQ e q s).mem = s.mem := rfl
@[simp] theorem setEgressQ_answer (e : Nat) (q : List EgrFrame) (s : State) : (setEgressQ e q s).answer = s.answer := rfl
@[simp] theorem setEgressQ_ports (e : Nat) (q : List EgrFrame) (s : State) : (setEgressQ e q s).ports = s.ports := rfl
@[simp] theorem setEgressQ_fm (e : Nat) (q : List EgrFrame) (s : State) : (setEgressQ e q s).fm = s.fm := rfl
@[simp] theorem setEgressQ_bbs (e : Nat) (q : List EgrFrame) (s : State) : (setEgressQ e q s).bbs = s.bbs := rfl
@[simp] theorem setEgressQ_ptp (e : Nat) (q : List EgrFrame) (s : State) : (setEgressQ e q s).ptp = s.ptp := rfl
@[simp] theorem setEgressQ_links (e : Nat) (q : List EgrFrame) (s : State) : (setEgressQ e q s).links = s.links := rfl
@[simp] theorem setEgressQ_hrw (e : Nat) (q : List EgrFrame) (s : State) : (setEgressQ e q s).hrw = s.hrw := rfl
@[simp] theorem setEgressQ_twp (e : Nat) (q : List EgrFrame) (s : State) : (setEgressQ e q s).twp = s.twp := rfl
@[simp] theorem setEgressQ_tap (e : Nat) (q : List EgrFrame) (s : State) : (setEgressQ e q s).tap = s.tap := rfl
@[simp] theorem setEgressQ_trc (e : Nat) (q : List EgrFrame) (s : State) : (setEgressQ e q s).trc = s.trc := rfl
@[simp] theorem setEgressQ_alert (e : Nat) (q : List EgrFrame) (s : State) : (setEgressQ e q s).alert = s.alert := rfl
@[simp] theorem setEgressQ_nextMid (e : Nat) (q : List EgrFrame) (s : State) : (setEgressQ e q s).nextMid = s.nextMid := rfl
@[simp] theorem setEgressQ_nextFid (e : Nat) (q : List EgrFrame) (s : State) : (setEgressQ e q s).nextFid = s.nextFid := rfl
@[simp] theorem setEgressQ_nextBuild (e : Nat) (q : List EgrFrame) (s : State) : (setEgressQ e q s).nextBuild = s.nextBuild := rfl
@[simp] theorem setEgressQ_nextSid (e : Nat) (q : List EgrFrame) (s : State) : (setEgressQ e q s).nextSid = s.nextSid := rfl
@[simp] theorem setEgressQ_freeCtr (e : Nat) (q : List EgrFrame) (s : State) : (setEgressQ e q s).freeCtr = s.freeCtr := rfl
@[simp] theorem setEgressQ_pending (e : Nat) (q : List EgrFrame) (s : State) : (setEgressQ e q s).pending = s.pending := rfl

@[simp] theorem setSlot_glb (k : Nat) (v : Slot) (s : State) : (setSlot k v s).glb = s.glb := rfl
@[simp] theorem setSlot_regs (k : Nat) (v : Slot) (s : State) : (setSlot k v s).regs = s.regs := rfl
@[simp] theorem setSlot_cnt (k : Nat) (v : Slot) (s : State) : (setSlot k v s).cnt = s.cnt := rfl
@[simp] theorem setSlot_clk (k : Nat) (v : Slot) (s : State) : (setSlot k v s).clk = s.clk := rfl
@[simp] theorem setSlot_hif (k : Nat) (v : Slot) (s : State) : (setSlot k v s).hif = s.hif := rfl
@[simp] theorem setSlot_streams (k : Nat) (v : Slot) (s : State) : (setSlot k v s).streams = s.streams := rfl
@[simp] theorem setSlot_msgs (k : Nat) (v : Slot) (s : State) : (setSlot k v s).msgs = s.msgs := rfl
@[simp] theorem setSlot_frames (k : Nat) (v : Slot) (s : State) : (setSlot k v s).frames = s.frames := rfl
@[simp] theorem setSlot_plg (k : Nat) (v : Slot) (s : State) : (setSlot k v s).plg = s.plg := rfl
@[simp] theorem setSlot_tables (k : Nat) (v : Slot) (s : State) : (setSlot k v s).tables = s.tables := rfl
@[simp] theorem setSlot_tblBad (k : Nat) (v : Slot) (s : State) : (setSlot k v s).tblBad = s.tblBad := rfl
@[simp] theorem setSlot_egress (k : Nat) (v : Slot) (s : State) : (setSlot k v s).egress = s.egress := rfl
@[simp] theorem setSlot_sheaves (k : Nat) (v : Slot) (s : State) : (setSlot k v s).sheaves = s.sheaves := rfl
@[simp] theorem setSlot_groups (k : Nat) (v : Slot) (s : State) : (setSlot k v s).groups = s.groups := rfl
@[simp] theorem setSlot_plots (k : Nat) (v : Slot) (s : State) : (setSlot k v s).plots = s.plots := rfl
@[simp] theorem setSlot_tiles (k : Nat) (v : Slot) (s : State) : (setSlot k v s).tiles = s.tiles := rfl
@[simp] theorem setSlot_switches (k : Nat) (v : Slot) (s : State) : (setSlot k v s).switches = s.switches := rfl
@[simp] theorem setSlot_sus (k : Nat) (v : Slot) (s : State) : (setSlot k v s).sus = s.sus := rfl
@[simp] theorem setSlot_fab (k : Nat) (v : Slot) (s : State) : (setSlot k v s).fab = s.fab := rfl
@[simp] theorem setSlot_waits (k : Nat) (v : Slot) (s : State) : (setSlot k v s).waits = s.waits := rfl
@[simp] theorem setSlot_yoke (k : Nat) (v : Slot) (s : State) : (setSlot k v s).yoke = s.yoke := rfl
@[simp] theorem setSlot_mem (k : Nat) (v : Slot) (s : State) : (setSlot k v s).mem = s.mem := rfl
@[simp] theorem setSlot_answer (k : Nat) (v : Slot) (s : State) : (setSlot k v s).answer = s.answer := rfl
@[simp] theorem setSlot_ports (k : Nat) (v : Slot) (s : State) : (setSlot k v s).ports = s.ports := rfl
@[simp] theorem setSlot_fm (k : Nat) (v : Slot) (s : State) : (setSlot k v s).fm = s.fm := rfl
@[simp] theorem setSlot_bbs (k : Nat) (v : Slot) (s : State) : (setSlot k v s).bbs = s.bbs := rfl
@[simp] theorem setSlot_ptp (k : Nat) (v : Slot) (s : State) : (setSlot k v s).ptp = s.ptp := rfl
@[simp] theorem setSlot_links (k : Nat) (v : Slot) (s : State) : (setSlot k v s).links = s.links := rfl
@[simp] theorem setSlot_hrw (k : Nat) (v : Slot) (s : State) : (setSlot k v s).hrw = s.hrw := rfl
@[simp] theorem setSlot_twp (k : Nat) (v : Slot) (s : State) : (setSlot k v s).twp = s.twp := rfl
@[simp] theorem setSlot_tap (k : Nat) (v : Slot) (s : State) : (setSlot k v s).tap = s.tap := rfl
@[simp] theorem setSlot_trc (k : Nat) (v : Slot) (s : State) : (setSlot k v s).trc = s.trc := rfl
@[simp] theorem setSlot_alert (k : Nat) (v : Slot) (s : State) : (setSlot k v s).alert = s.alert := rfl
@[simp] theorem setSlot_nextMid (k : Nat) (v : Slot) (s : State) : (setSlot k v s).nextMid = s.nextMid := rfl
@[simp] theorem setSlot_nextFid (k : Nat) (v : Slot) (s : State) : (setSlot k v s).nextFid = s.nextFid := rfl
@[simp] theorem setSlot_nextBuild (k : Nat) (v : Slot) (s : State) : (setSlot k v s).nextBuild = s.nextBuild := rfl
@[simp] theorem setSlot_nextSid (k : Nat) (v : Slot) (s : State) : (setSlot k v s).nextSid = s.nextSid := rfl
@[simp] theorem setSlot_freeCtr (k : Nat) (v : Slot) (s : State) : (setSlot k v s).freeCtr = s.freeCtr := rfl
@[simp] theorem setSlot_pending (k : Nat) (v : Slot) (s : State) : (setSlot k v s).pending = s.pending := rfl

@[simp] theorem setFeed_glb (k : Nat) (v : List Token) (s : State) : (setFeed k v s).glb = s.glb := rfl
@[simp] theorem setFeed_regs (k : Nat) (v : List Token) (s : State) : (setFeed k v s).regs = s.regs := rfl
@[simp] theorem setFeed_cnt (k : Nat) (v : List Token) (s : State) : (setFeed k v s).cnt = s.cnt := rfl
@[simp] theorem setFeed_clk (k : Nat) (v : List Token) (s : State) : (setFeed k v s).clk = s.clk := rfl
@[simp] theorem setFeed_hif (k : Nat) (v : List Token) (s : State) : (setFeed k v s).hif = s.hif := rfl
@[simp] theorem setFeed_streams (k : Nat) (v : List Token) (s : State) : (setFeed k v s).streams = s.streams := rfl
@[simp] theorem setFeed_msgs (k : Nat) (v : List Token) (s : State) : (setFeed k v s).msgs = s.msgs := rfl
@[simp] theorem setFeed_frames (k : Nat) (v : List Token) (s : State) : (setFeed k v s).frames = s.frames := rfl
@[simp] theorem setFeed_plg (k : Nat) (v : List Token) (s : State) : (setFeed k v s).plg = s.plg := rfl
@[simp] theorem setFeed_tables (k : Nat) (v : List Token) (s : State) : (setFeed k v s).tables = s.tables := rfl
@[simp] theorem setFeed_tblBad (k : Nat) (v : List Token) (s : State) : (setFeed k v s).tblBad = s.tblBad := rfl
@[simp] theorem setFeed_egress (k : Nat) (v : List Token) (s : State) : (setFeed k v s).egress = s.egress := rfl
@[simp] theorem setFeed_slots (k : Nat) (v : List Token) (s : State) : (setFeed k v s).slots = s.slots := rfl
@[simp] theorem setFeed_sheaves (k : Nat) (v : List Token) (s : State) : (setFeed k v s).sheaves = s.sheaves := rfl
@[simp] theorem setFeed_groups (k : Nat) (v : List Token) (s : State) : (setFeed k v s).groups = s.groups := rfl
@[simp] theorem setFeed_plots (k : Nat) (v : List Token) (s : State) : (setFeed k v s).plots = s.plots := rfl
@[simp] theorem setFeed_tiles (k : Nat) (v : List Token) (s : State) : (setFeed k v s).tiles = s.tiles := rfl
@[simp] theorem setFeed_switches (k : Nat) (v : List Token) (s : State) : (setFeed k v s).switches = s.switches := rfl
@[simp] theorem setFeed_sus (k : Nat) (v : List Token) (s : State) : (setFeed k v s).sus = s.sus := rfl
@[simp] theorem setFeed_waits (k : Nat) (v : List Token) (s : State) : (setFeed k v s).waits = s.waits := rfl
@[simp] theorem setFeed_yoke (k : Nat) (v : List Token) (s : State) : (setFeed k v s).yoke = s.yoke := rfl
@[simp] theorem setFeed_mem (k : Nat) (v : List Token) (s : State) : (setFeed k v s).mem = s.mem := rfl
@[simp] theorem setFeed_answer (k : Nat) (v : List Token) (s : State) : (setFeed k v s).answer = s.answer := rfl
@[simp] theorem setFeed_ports (k : Nat) (v : List Token) (s : State) : (setFeed k v s).ports = s.ports := rfl
@[simp] theorem setFeed_fm (k : Nat) (v : List Token) (s : State) : (setFeed k v s).fm = s.fm := rfl
@[simp] theorem setFeed_bbs (k : Nat) (v : List Token) (s : State) : (setFeed k v s).bbs = s.bbs := rfl
@[simp] theorem setFeed_ptp (k : Nat) (v : List Token) (s : State) : (setFeed k v s).ptp = s.ptp := rfl
@[simp] theorem setFeed_links (k : Nat) (v : List Token) (s : State) : (setFeed k v s).links = s.links := rfl
@[simp] theorem setFeed_hrw (k : Nat) (v : List Token) (s : State) : (setFeed k v s).hrw = s.hrw := rfl
@[simp] theorem setFeed_twp (k : Nat) (v : List Token) (s : State) : (setFeed k v s).twp = s.twp := rfl
@[simp] theorem setFeed_tap (k : Nat) (v : List Token) (s : State) : (setFeed k v s).tap = s.tap := rfl
@[simp] theorem setFeed_trc (k : Nat) (v : List Token) (s : State) : (setFeed k v s).trc = s.trc := rfl
@[simp] theorem setFeed_alert (k : Nat) (v : List Token) (s : State) : (setFeed k v s).alert = s.alert := rfl
@[simp] theorem setFeed_nextMid (k : Nat) (v : List Token) (s : State) : (setFeed k v s).nextMid = s.nextMid := rfl
@[simp] theorem setFeed_nextFid (k : Nat) (v : List Token) (s : State) : (setFeed k v s).nextFid = s.nextFid := rfl
@[simp] theorem setFeed_nextBuild (k : Nat) (v : List Token) (s : State) : (setFeed k v s).nextBuild = s.nextBuild := rfl
@[simp] theorem setFeed_nextSid (k : Nat) (v : List Token) (s : State) : (setFeed k v s).nextSid = s.nextSid := rfl
@[simp] theorem setFeed_freeCtr (k : Nat) (v : List Token) (s : State) : (setFeed k v s).freeCtr = s.freeCtr := rfl
@[simp] theorem setFeed_pending (k : Nat) (v : List Token) (s : State) : (setFeed k v s).pending = s.pending := rfl

@[simp] theorem setFifo_glb (k : Nat) (v : List Queued) (s : State) : (setFifo k v s).glb = s.glb := rfl
@[simp] theorem setFifo_regs (k : Nat) (v : List Queued) (s : State) : (setFifo k v s).regs = s.regs := rfl
@[simp] theorem setFifo_cnt (k : Nat) (v : List Queued) (s : State) : (setFifo k v s).cnt = s.cnt := rfl
@[simp] theorem setFifo_clk (k : Nat) (v : List Queued) (s : State) : (setFifo k v s).clk = s.clk := rfl
@[simp] theorem setFifo_hif (k : Nat) (v : List Queued) (s : State) : (setFifo k v s).hif = s.hif := rfl
@[simp] theorem setFifo_streams (k : Nat) (v : List Queued) (s : State) : (setFifo k v s).streams = s.streams := rfl
@[simp] theorem setFifo_msgs (k : Nat) (v : List Queued) (s : State) : (setFifo k v s).msgs = s.msgs := rfl
@[simp] theorem setFifo_frames (k : Nat) (v : List Queued) (s : State) : (setFifo k v s).frames = s.frames := rfl
@[simp] theorem setFifo_plg (k : Nat) (v : List Queued) (s : State) : (setFifo k v s).plg = s.plg := rfl
@[simp] theorem setFifo_tables (k : Nat) (v : List Queued) (s : State) : (setFifo k v s).tables = s.tables := rfl
@[simp] theorem setFifo_tblBad (k : Nat) (v : List Queued) (s : State) : (setFifo k v s).tblBad = s.tblBad := rfl
@[simp] theorem setFifo_egress (k : Nat) (v : List Queued) (s : State) : (setFifo k v s).egress = s.egress := rfl
@[simp] theorem setFifo_slots (k : Nat) (v : List Queued) (s : State) : (setFifo k v s).slots = s.slots := rfl
@[simp] theorem setFifo_sheaves (k : Nat) (v : List Queued) (s : State) : (setFifo k v s).sheaves = s.sheaves := rfl
@[simp] theorem setFifo_groups (k : Nat) (v : List Queued) (s : State) : (setFifo k v s).groups = s.groups := rfl
@[simp] theorem setFifo_plots (k : Nat) (v : List Queued) (s : State) : (setFifo k v s).plots = s.plots := rfl
@[simp] theorem setFifo_tiles (k : Nat) (v : List Queued) (s : State) : (setFifo k v s).tiles = s.tiles := rfl
@[simp] theorem setFifo_switches (k : Nat) (v : List Queued) (s : State) : (setFifo k v s).switches = s.switches := rfl
@[simp] theorem setFifo_sus (k : Nat) (v : List Queued) (s : State) : (setFifo k v s).sus = s.sus := rfl
@[simp] theorem setFifo_waits (k : Nat) (v : List Queued) (s : State) : (setFifo k v s).waits = s.waits := rfl
@[simp] theorem setFifo_yoke (k : Nat) (v : List Queued) (s : State) : (setFifo k v s).yoke = s.yoke := rfl
@[simp] theorem setFifo_mem (k : Nat) (v : List Queued) (s : State) : (setFifo k v s).mem = s.mem := rfl
@[simp] theorem setFifo_answer (k : Nat) (v : List Queued) (s : State) : (setFifo k v s).answer = s.answer := rfl
@[simp] theorem setFifo_ports (k : Nat) (v : List Queued) (s : State) : (setFifo k v s).ports = s.ports := rfl
@[simp] theorem setFifo_fm (k : Nat) (v : List Queued) (s : State) : (setFifo k v s).fm = s.fm := rfl
@[simp] theorem setFifo_bbs (k : Nat) (v : List Queued) (s : State) : (setFifo k v s).bbs = s.bbs := rfl
@[simp] theorem setFifo_ptp (k : Nat) (v : List Queued) (s : State) : (setFifo k v s).ptp = s.ptp := rfl
@[simp] theorem setFifo_links (k : Nat) (v : List Queued) (s : State) : (setFifo k v s).links = s.links := rfl
@[simp] theorem setFifo_hrw (k : Nat) (v : List Queued) (s : State) : (setFifo k v s).hrw = s.hrw := rfl
@[simp] theorem setFifo_twp (k : Nat) (v : List Queued) (s : State) : (setFifo k v s).twp = s.twp := rfl
@[simp] theorem setFifo_tap (k : Nat) (v : List Queued) (s : State) : (setFifo k v s).tap = s.tap := rfl
@[simp] theorem setFifo_trc (k : Nat) (v : List Queued) (s : State) : (setFifo k v s).trc = s.trc := rfl
@[simp] theorem setFifo_alert (k : Nat) (v : List Queued) (s : State) : (setFifo k v s).alert = s.alert := rfl
@[simp] theorem setFifo_nextMid (k : Nat) (v : List Queued) (s : State) : (setFifo k v s).nextMid = s.nextMid := rfl
@[simp] theorem setFifo_nextFid (k : Nat) (v : List Queued) (s : State) : (setFifo k v s).nextFid = s.nextFid := rfl
@[simp] theorem setFifo_nextBuild (k : Nat) (v : List Queued) (s : State) : (setFifo k v s).nextBuild = s.nextBuild := rfl
@[simp] theorem setFifo_nextSid (k : Nat) (v : List Queued) (s : State) : (setFifo k v s).nextSid = s.nextSid := rfl
@[simp] theorem setFifo_freeCtr (k : Nat) (v : List Queued) (s : State) : (setFifo k v s).freeCtr = s.freeCtr := rfl
@[simp] theorem setFifo_pending (k : Nat) (v : List Queued) (s : State) : (setFifo k v s).pending = s.pending := rfl

@[simp] theorem setSu_glb (k : Nat) (v : Su) (s : State) : (setSu k v s).glb = s.glb := rfl
@[simp] theorem setSu_regs (k : Nat) (v : Su) (s : State) : (setSu k v s).regs = s.regs := rfl
@[simp] theorem setSu_cnt (k : Nat) (v : Su) (s : State) : (setSu k v s).cnt = s.cnt := rfl
@[simp] theorem setSu_clk (k : Nat) (v : Su) (s : State) : (setSu k v s).clk = s.clk := rfl
@[simp] theorem setSu_hif (k : Nat) (v : Su) (s : State) : (setSu k v s).hif = s.hif := rfl
@[simp] theorem setSu_streams (k : Nat) (v : Su) (s : State) : (setSu k v s).streams = s.streams := rfl
@[simp] theorem setSu_msgs (k : Nat) (v : Su) (s : State) : (setSu k v s).msgs = s.msgs := rfl
@[simp] theorem setSu_frames (k : Nat) (v : Su) (s : State) : (setSu k v s).frames = s.frames := rfl
@[simp] theorem setSu_plg (k : Nat) (v : Su) (s : State) : (setSu k v s).plg = s.plg := rfl
@[simp] theorem setSu_tables (k : Nat) (v : Su) (s : State) : (setSu k v s).tables = s.tables := rfl
@[simp] theorem setSu_tblBad (k : Nat) (v : Su) (s : State) : (setSu k v s).tblBad = s.tblBad := rfl
@[simp] theorem setSu_egress (k : Nat) (v : Su) (s : State) : (setSu k v s).egress = s.egress := rfl
@[simp] theorem setSu_slots (k : Nat) (v : Su) (s : State) : (setSu k v s).slots = s.slots := rfl
@[simp] theorem setSu_sheaves (k : Nat) (v : Su) (s : State) : (setSu k v s).sheaves = s.sheaves := rfl
@[simp] theorem setSu_groups (k : Nat) (v : Su) (s : State) : (setSu k v s).groups = s.groups := rfl
@[simp] theorem setSu_plots (k : Nat) (v : Su) (s : State) : (setSu k v s).plots = s.plots := rfl
@[simp] theorem setSu_tiles (k : Nat) (v : Su) (s : State) : (setSu k v s).tiles = s.tiles := rfl
@[simp] theorem setSu_switches (k : Nat) (v : Su) (s : State) : (setSu k v s).switches = s.switches := rfl
@[simp] theorem setSu_fab (k : Nat) (v : Su) (s : State) : (setSu k v s).fab = s.fab := rfl
@[simp] theorem setSu_waits (k : Nat) (v : Su) (s : State) : (setSu k v s).waits = s.waits := rfl
@[simp] theorem setSu_yoke (k : Nat) (v : Su) (s : State) : (setSu k v s).yoke = s.yoke := rfl
@[simp] theorem setSu_mem (k : Nat) (v : Su) (s : State) : (setSu k v s).mem = s.mem := rfl
@[simp] theorem setSu_answer (k : Nat) (v : Su) (s : State) : (setSu k v s).answer = s.answer := rfl
@[simp] theorem setSu_ports (k : Nat) (v : Su) (s : State) : (setSu k v s).ports = s.ports := rfl
@[simp] theorem setSu_fm (k : Nat) (v : Su) (s : State) : (setSu k v s).fm = s.fm := rfl
@[simp] theorem setSu_bbs (k : Nat) (v : Su) (s : State) : (setSu k v s).bbs = s.bbs := rfl
@[simp] theorem setSu_ptp (k : Nat) (v : Su) (s : State) : (setSu k v s).ptp = s.ptp := rfl
@[simp] theorem setSu_links (k : Nat) (v : Su) (s : State) : (setSu k v s).links = s.links := rfl
@[simp] theorem setSu_hrw (k : Nat) (v : Su) (s : State) : (setSu k v s).hrw = s.hrw := rfl
@[simp] theorem setSu_twp (k : Nat) (v : Su) (s : State) : (setSu k v s).twp = s.twp := rfl
@[simp] theorem setSu_tap (k : Nat) (v : Su) (s : State) : (setSu k v s).tap = s.tap := rfl
@[simp] theorem setSu_trc (k : Nat) (v : Su) (s : State) : (setSu k v s).trc = s.trc := rfl
@[simp] theorem setSu_alert (k : Nat) (v : Su) (s : State) : (setSu k v s).alert = s.alert := rfl
@[simp] theorem setSu_nextMid (k : Nat) (v : Su) (s : State) : (setSu k v s).nextMid = s.nextMid := rfl
@[simp] theorem setSu_nextFid (k : Nat) (v : Su) (s : State) : (setSu k v s).nextFid = s.nextFid := rfl
@[simp] theorem setSu_nextBuild (k : Nat) (v : Su) (s : State) : (setSu k v s).nextBuild = s.nextBuild := rfl
@[simp] theorem setSu_nextSid (k : Nat) (v : Su) (s : State) : (setSu k v s).nextSid = s.nextSid := rfl
@[simp] theorem setSu_freeCtr (k : Nat) (v : Su) (s : State) : (setSu k v s).freeCtr = s.freeCtr := rfl
@[simp] theorem setSu_pending (k : Nat) (v : Su) (s : State) : (setSu k v s).pending = s.pending := rfl

@[simp] theorem setSwitch_glb (t : Nat) (v : Switch) (s : State) : (setSwitch t v s).glb = s.glb := rfl
@[simp] theorem setSwitch_regs (t : Nat) (v : Switch) (s : State) : (setSwitch t v s).regs = s.regs := rfl
@[simp] theorem setSwitch_cnt (t : Nat) (v : Switch) (s : State) : (setSwitch t v s).cnt = s.cnt := rfl
@[simp] theorem setSwitch_clk (t : Nat) (v : Switch) (s : State) : (setSwitch t v s).clk = s.clk := rfl
@[simp] theorem setSwitch_hif (t : Nat) (v : Switch) (s : State) : (setSwitch t v s).hif = s.hif := rfl
@[simp] theorem setSwitch_streams (t : Nat) (v : Switch) (s : State) : (setSwitch t v s).streams = s.streams := rfl
@[simp] theorem setSwitch_msgs (t : Nat) (v : Switch) (s : State) : (setSwitch t v s).msgs = s.msgs := rfl
@[simp] theorem setSwitch_frames (t : Nat) (v : Switch) (s : State) : (setSwitch t v s).frames = s.frames := rfl
@[simp] theorem setSwitch_plg (t : Nat) (v : Switch) (s : State) : (setSwitch t v s).plg = s.plg := rfl
@[simp] theorem setSwitch_tables (t : Nat) (v : Switch) (s : State) : (setSwitch t v s).tables = s.tables := rfl
@[simp] theorem setSwitch_tblBad (t : Nat) (v : Switch) (s : State) : (setSwitch t v s).tblBad = s.tblBad := rfl
@[simp] theorem setSwitch_egress (t : Nat) (v : Switch) (s : State) : (setSwitch t v s).egress = s.egress := rfl
@[simp] theorem setSwitch_slots (t : Nat) (v : Switch) (s : State) : (setSwitch t v s).slots = s.slots := rfl
@[simp] theorem setSwitch_sheaves (t : Nat) (v : Switch) (s : State) : (setSwitch t v s).sheaves = s.sheaves := rfl
@[simp] theorem setSwitch_groups (t : Nat) (v : Switch) (s : State) : (setSwitch t v s).groups = s.groups := rfl
@[simp] theorem setSwitch_plots (t : Nat) (v : Switch) (s : State) : (setSwitch t v s).plots = s.plots := rfl
@[simp] theorem setSwitch_tiles (t : Nat) (v : Switch) (s : State) : (setSwitch t v s).tiles = s.tiles := rfl
@[simp] theorem setSwitch_sus (t : Nat) (v : Switch) (s : State) : (setSwitch t v s).sus = s.sus := rfl
@[simp] theorem setSwitch_fab (t : Nat) (v : Switch) (s : State) : (setSwitch t v s).fab = s.fab := rfl
@[simp] theorem setSwitch_waits (t : Nat) (v : Switch) (s : State) : (setSwitch t v s).waits = s.waits := rfl
@[simp] theorem setSwitch_yoke (t : Nat) (v : Switch) (s : State) : (setSwitch t v s).yoke = s.yoke := rfl
@[simp] theorem setSwitch_mem (t : Nat) (v : Switch) (s : State) : (setSwitch t v s).mem = s.mem := rfl
@[simp] theorem setSwitch_answer (t : Nat) (v : Switch) (s : State) : (setSwitch t v s).answer = s.answer := rfl
@[simp] theorem setSwitch_ports (t : Nat) (v : Switch) (s : State) : (setSwitch t v s).ports = s.ports := rfl
@[simp] theorem setSwitch_fm (t : Nat) (v : Switch) (s : State) : (setSwitch t v s).fm = s.fm := rfl
@[simp] theorem setSwitch_bbs (t : Nat) (v : Switch) (s : State) : (setSwitch t v s).bbs = s.bbs := rfl
@[simp] theorem setSwitch_ptp (t : Nat) (v : Switch) (s : State) : (setSwitch t v s).ptp = s.ptp := rfl
@[simp] theorem setSwitch_links (t : Nat) (v : Switch) (s : State) : (setSwitch t v s).links = s.links := rfl
@[simp] theorem setSwitch_hrw (t : Nat) (v : Switch) (s : State) : (setSwitch t v s).hrw = s.hrw := rfl
@[simp] theorem setSwitch_twp (t : Nat) (v : Switch) (s : State) : (setSwitch t v s).twp = s.twp := rfl
@[simp] theorem setSwitch_tap (t : Nat) (v : Switch) (s : State) : (setSwitch t v s).tap = s.tap := rfl
@[simp] theorem setSwitch_trc (t : Nat) (v : Switch) (s : State) : (setSwitch t v s).trc = s.trc := rfl
@[simp] theorem setSwitch_alert (t : Nat) (v : Switch) (s : State) : (setSwitch t v s).alert = s.alert := rfl
@[simp] theorem setSwitch_nextMid (t : Nat) (v : Switch) (s : State) : (setSwitch t v s).nextMid = s.nextMid := rfl
@[simp] theorem setSwitch_nextFid (t : Nat) (v : Switch) (s : State) : (setSwitch t v s).nextFid = s.nextFid := rfl
@[simp] theorem setSwitch_nextBuild (t : Nat) (v : Switch) (s : State) : (setSwitch t v s).nextBuild = s.nextBuild := rfl
@[simp] theorem setSwitch_nextSid (t : Nat) (v : Switch) (s : State) : (setSwitch t v s).nextSid = s.nextSid := rfl
@[simp] theorem setSwitch_freeCtr (t : Nat) (v : Switch) (s : State) : (setSwitch t v s).freeCtr = s.freeCtr := rfl
@[simp] theorem setSwitch_pending (t : Nat) (v : Switch) (s : State) : (setSwitch t v s).pending = s.pending := rfl

@[simp] theorem setYd_glb (d : Nat) (v : YokeDie) (s : State) : (setYd d v s).glb = s.glb := rfl
@[simp] theorem setYd_regs (d : Nat) (v : YokeDie) (s : State) : (setYd d v s).regs = s.regs := rfl
@[simp] theorem setYd_cnt (d : Nat) (v : YokeDie) (s : State) : (setYd d v s).cnt = s.cnt := rfl
@[simp] theorem setYd_clk (d : Nat) (v : YokeDie) (s : State) : (setYd d v s).clk = s.clk := rfl
@[simp] theorem setYd_hif (d : Nat) (v : YokeDie) (s : State) : (setYd d v s).hif = s.hif := rfl
@[simp] theorem setYd_streams (d : Nat) (v : YokeDie) (s : State) : (setYd d v s).streams = s.streams := rfl
@[simp] theorem setYd_msgs (d : Nat) (v : YokeDie) (s : State) : (setYd d v s).msgs = s.msgs := rfl
@[simp] theorem setYd_frames (d : Nat) (v : YokeDie) (s : State) : (setYd d v s).frames = s.frames := rfl
@[simp] theorem setYd_plg (d : Nat) (v : YokeDie) (s : State) : (setYd d v s).plg = s.plg := rfl
@[simp] theorem setYd_tables (d : Nat) (v : YokeDie) (s : State) : (setYd d v s).tables = s.tables := rfl
@[simp] theorem setYd_tblBad (d : Nat) (v : YokeDie) (s : State) : (setYd d v s).tblBad = s.tblBad := rfl
@[simp] theorem setYd_egress (d : Nat) (v : YokeDie) (s : State) : (setYd d v s).egress = s.egress := rfl
@[simp] theorem setYd_slots (d : Nat) (v : YokeDie) (s : State) : (setYd d v s).slots = s.slots := rfl
@[simp] theorem setYd_sheaves (d : Nat) (v : YokeDie) (s : State) : (setYd d v s).sheaves = s.sheaves := rfl
@[simp] theorem setYd_groups (d : Nat) (v : YokeDie) (s : State) : (setYd d v s).groups = s.groups := rfl
@[simp] theorem setYd_plots (d : Nat) (v : YokeDie) (s : State) : (setYd d v s).plots = s.plots := rfl
@[simp] theorem setYd_tiles (d : Nat) (v : YokeDie) (s : State) : (setYd d v s).tiles = s.tiles := rfl
@[simp] theorem setYd_switches (d : Nat) (v : YokeDie) (s : State) : (setYd d v s).switches = s.switches := rfl
@[simp] theorem setYd_sus (d : Nat) (v : YokeDie) (s : State) : (setYd d v s).sus = s.sus := rfl
@[simp] theorem setYd_fab (d : Nat) (v : YokeDie) (s : State) : (setYd d v s).fab = s.fab := rfl
@[simp] theorem setYd_waits (d : Nat) (v : YokeDie) (s : State) : (setYd d v s).waits = s.waits := rfl
@[simp] theorem setYd_mem (d : Nat) (v : YokeDie) (s : State) : (setYd d v s).mem = s.mem := rfl
@[simp] theorem setYd_answer (d : Nat) (v : YokeDie) (s : State) : (setYd d v s).answer = s.answer := rfl
@[simp] theorem setYd_ports (d : Nat) (v : YokeDie) (s : State) : (setYd d v s).ports = s.ports := rfl
@[simp] theorem setYd_fm (d : Nat) (v : YokeDie) (s : State) : (setYd d v s).fm = s.fm := rfl
@[simp] theorem setYd_bbs (d : Nat) (v : YokeDie) (s : State) : (setYd d v s).bbs = s.bbs := rfl
@[simp] theorem setYd_ptp (d : Nat) (v : YokeDie) (s : State) : (setYd d v s).ptp = s.ptp := rfl
@[simp] theorem setYd_links (d : Nat) (v : YokeDie) (s : State) : (setYd d v s).links = s.links := rfl
@[simp] theorem setYd_hrw (d : Nat) (v : YokeDie) (s : State) : (setYd d v s).hrw = s.hrw := rfl
@[simp] theorem setYd_twp (d : Nat) (v : YokeDie) (s : State) : (setYd d v s).twp = s.twp := rfl
@[simp] theorem setYd_tap (d : Nat) (v : YokeDie) (s : State) : (setYd d v s).tap = s.tap := rfl
@[simp] theorem setYd_trc (d : Nat) (v : YokeDie) (s : State) : (setYd d v s).trc = s.trc := rfl
@[simp] theorem setYd_alert (d : Nat) (v : YokeDie) (s : State) : (setYd d v s).alert = s.alert := rfl
@[simp] theorem setYd_nextMid (d : Nat) (v : YokeDie) (s : State) : (setYd d v s).nextMid = s.nextMid := rfl
@[simp] theorem setYd_nextFid (d : Nat) (v : YokeDie) (s : State) : (setYd d v s).nextFid = s.nextFid := rfl
@[simp] theorem setYd_nextBuild (d : Nat) (v : YokeDie) (s : State) : (setYd d v s).nextBuild = s.nextBuild := rfl
@[simp] theorem setYd_nextSid (d : Nat) (v : YokeDie) (s : State) : (setYd d v s).nextSid = s.nextSid := rfl
@[simp] theorem setYd_freeCtr (d : Nat) (v : YokeDie) (s : State) : (setYd d v s).freeCtr = s.freeCtr := rfl
@[simp] theorem setYd_pending (d : Nat) (v : YokeDie) (s : State) : (setYd d v s).pending = s.pending := rfl

@[simp] theorem updGroup_glb (g : Nat) (f : Group → Group) (s : State) : (updGroup g f s).glb = s.glb := rfl
@[simp] theorem updGroup_regs (g : Nat) (f : Group → Group) (s : State) : (updGroup g f s).regs = s.regs := rfl
@[simp] theorem updGroup_cnt (g : Nat) (f : Group → Group) (s : State) : (updGroup g f s).cnt = s.cnt := rfl
@[simp] theorem updGroup_clk (g : Nat) (f : Group → Group) (s : State) : (updGroup g f s).clk = s.clk := rfl
@[simp] theorem updGroup_hif (g : Nat) (f : Group → Group) (s : State) : (updGroup g f s).hif = s.hif := rfl
@[simp] theorem updGroup_streams (g : Nat) (f : Group → Group) (s : State) : (updGroup g f s).streams = s.streams := rfl
@[simp] theorem updGroup_msgs (g : Nat) (f : Group → Group) (s : State) : (updGroup g f s).msgs = s.msgs := rfl
@[simp] theorem updGroup_frames (g : Nat) (f : Group → Group) (s : State) : (updGroup g f s).frames = s.frames := rfl
@[simp] theorem updGroup_plg (g : Nat) (f : Group → Group) (s : State) : (updGroup g f s).plg = s.plg := rfl
@[simp] theorem updGroup_tables (g : Nat) (f : Group → Group) (s : State) : (updGroup g f s).tables = s.tables := rfl
@[simp] theorem updGroup_tblBad (g : Nat) (f : Group → Group) (s : State) : (updGroup g f s).tblBad = s.tblBad := rfl
@[simp] theorem updGroup_egress (g : Nat) (f : Group → Group) (s : State) : (updGroup g f s).egress = s.egress := rfl
@[simp] theorem updGroup_slots (g : Nat) (f : Group → Group) (s : State) : (updGroup g f s).slots = s.slots := rfl
@[simp] theorem updGroup_sheaves (g : Nat) (f : Group → Group) (s : State) : (updGroup g f s).sheaves = s.sheaves := rfl
@[simp] theorem updGroup_plots (g : Nat) (f : Group → Group) (s : State) : (updGroup g f s).plots = s.plots := rfl
@[simp] theorem updGroup_tiles (g : Nat) (f : Group → Group) (s : State) : (updGroup g f s).tiles = s.tiles := rfl
@[simp] theorem updGroup_switches (g : Nat) (f : Group → Group) (s : State) : (updGroup g f s).switches = s.switches := rfl
@[simp] theorem updGroup_sus (g : Nat) (f : Group → Group) (s : State) : (updGroup g f s).sus = s.sus := rfl
@[simp] theorem updGroup_fab (g : Nat) (f : Group → Group) (s : State) : (updGroup g f s).fab = s.fab := rfl
@[simp] theorem updGroup_waits (g : Nat) (f : Group → Group) (s : State) : (updGroup g f s).waits = s.waits := rfl
@[simp] theorem updGroup_yoke (g : Nat) (f : Group → Group) (s : State) : (updGroup g f s).yoke = s.yoke := rfl
@[simp] theorem updGroup_mem (g : Nat) (f : Group → Group) (s : State) : (updGroup g f s).mem = s.mem := rfl
@[simp] theorem updGroup_answer (g : Nat) (f : Group → Group) (s : State) : (updGroup g f s).answer = s.answer := rfl
@[simp] theorem updGroup_ports (g : Nat) (f : Group → Group) (s : State) : (updGroup g f s).ports = s.ports := rfl
@[simp] theorem updGroup_fm (g : Nat) (f : Group → Group) (s : State) : (updGroup g f s).fm = s.fm := rfl
@[simp] theorem updGroup_bbs (g : Nat) (f : Group → Group) (s : State) : (updGroup g f s).bbs = s.bbs := rfl
@[simp] theorem updGroup_ptp (g : Nat) (f : Group → Group) (s : State) : (updGroup g f s).ptp = s.ptp := rfl
@[simp] theorem updGroup_links (g : Nat) (f : Group → Group) (s : State) : (updGroup g f s).links = s.links := rfl
@[simp] theorem updGroup_hrw (g : Nat) (f : Group → Group) (s : State) : (updGroup g f s).hrw = s.hrw := rfl
@[simp] theorem updGroup_twp (g : Nat) (f : Group → Group) (s : State) : (updGroup g f s).twp = s.twp := rfl
@[simp] theorem updGroup_tap (g : Nat) (f : Group → Group) (s : State) : (updGroup g f s).tap = s.tap := rfl
@[simp] theorem updGroup_trc (g : Nat) (f : Group → Group) (s : State) : (updGroup g f s).trc = s.trc := rfl
@[simp] theorem updGroup_alert (g : Nat) (f : Group → Group) (s : State) : (updGroup g f s).alert = s.alert := rfl
@[simp] theorem updGroup_nextMid (g : Nat) (f : Group → Group) (s : State) : (updGroup g f s).nextMid = s.nextMid := rfl
@[simp] theorem updGroup_nextFid (g : Nat) (f : Group → Group) (s : State) : (updGroup g f s).nextFid = s.nextFid := rfl
@[simp] theorem updGroup_nextBuild (g : Nat) (f : Group → Group) (s : State) : (updGroup g f s).nextBuild = s.nextBuild := rfl
@[simp] theorem updGroup_nextSid (g : Nat) (f : Group → Group) (s : State) : (updGroup g f s).nextSid = s.nextSid := rfl
@[simp] theorem updGroup_freeCtr (g : Nat) (f : Group → Group) (s : State) : (updGroup g f s).freeCtr = s.freeCtr := rfl
@[simp] theorem updGroup_pending (g : Nat) (f : Group → Group) (s : State) : (updGroup g f s).pending = s.pending := rfl

@[simp] theorem updSheaf_glb (sid : Nat) (f : Sheaf → Sheaf) (s : State) : (updSheaf sid f s).glb = s.glb := rfl
@[simp] theorem updSheaf_regs (sid : Nat) (f : Sheaf → Sheaf) (s : State) : (updSheaf sid f s).regs = s.regs := rfl
@[simp] theorem updSheaf_cnt (sid : Nat) (f : Sheaf → Sheaf) (s : State) : (updSheaf sid f s).cnt = s.cnt := rfl
@[simp] theorem updSheaf_clk (sid : Nat) (f : Sheaf → Sheaf) (s : State) : (updSheaf sid f s).clk = s.clk := rfl
@[simp] theorem updSheaf_hif (sid : Nat) (f : Sheaf → Sheaf) (s : State) : (updSheaf sid f s).hif = s.hif := rfl
@[simp] theorem updSheaf_streams (sid : Nat) (f : Sheaf → Sheaf) (s : State) : (updSheaf sid f s).streams = s.streams := rfl
@[simp] theorem updSheaf_msgs (sid : Nat) (f : Sheaf → Sheaf) (s : State) : (updSheaf sid f s).msgs = s.msgs := rfl
@[simp] theorem updSheaf_frames (sid : Nat) (f : Sheaf → Sheaf) (s : State) : (updSheaf sid f s).frames = s.frames := rfl
@[simp] theorem updSheaf_plg (sid : Nat) (f : Sheaf → Sheaf) (s : State) : (updSheaf sid f s).plg = s.plg := rfl
@[simp] theorem updSheaf_tables (sid : Nat) (f : Sheaf → Sheaf) (s : State) : (updSheaf sid f s).tables = s.tables := rfl
@[simp] theorem updSheaf_tblBad (sid : Nat) (f : Sheaf → Sheaf) (s : State) : (updSheaf sid f s).tblBad = s.tblBad := rfl
@[simp] theorem updSheaf_egress (sid : Nat) (f : Sheaf → Sheaf) (s : State) : (updSheaf sid f s).egress = s.egress := rfl
@[simp] theorem updSheaf_slots (sid : Nat) (f : Sheaf → Sheaf) (s : State) : (updSheaf sid f s).slots = s.slots := rfl
@[simp] theorem updSheaf_groups (sid : Nat) (f : Sheaf → Sheaf) (s : State) : (updSheaf sid f s).groups = s.groups := rfl
@[simp] theorem updSheaf_plots (sid : Nat) (f : Sheaf → Sheaf) (s : State) : (updSheaf sid f s).plots = s.plots := rfl
@[simp] theorem updSheaf_tiles (sid : Nat) (f : Sheaf → Sheaf) (s : State) : (updSheaf sid f s).tiles = s.tiles := rfl
@[simp] theorem updSheaf_switches (sid : Nat) (f : Sheaf → Sheaf) (s : State) : (updSheaf sid f s).switches = s.switches := rfl
@[simp] theorem updSheaf_sus (sid : Nat) (f : Sheaf → Sheaf) (s : State) : (updSheaf sid f s).sus = s.sus := rfl
@[simp] theorem updSheaf_fab (sid : Nat) (f : Sheaf → Sheaf) (s : State) : (updSheaf sid f s).fab = s.fab := rfl
@[simp] theorem updSheaf_waits (sid : Nat) (f : Sheaf → Sheaf) (s : State) : (updSheaf sid f s).waits = s.waits := rfl
@[simp] theorem updSheaf_yoke (sid : Nat) (f : Sheaf → Sheaf) (s : State) : (updSheaf sid f s).yoke = s.yoke := rfl
@[simp] theorem updSheaf_mem (sid : Nat) (f : Sheaf → Sheaf) (s : State) : (updSheaf sid f s).mem = s.mem := rfl
@[simp] theorem updSheaf_answer (sid : Nat) (f : Sheaf → Sheaf) (s : State) : (updSheaf sid f s).answer = s.answer := rfl
@[simp] theorem updSheaf_ports (sid : Nat) (f : Sheaf → Sheaf) (s : State) : (updSheaf sid f s).ports = s.ports := rfl
@[simp] theorem updSheaf_fm (sid : Nat) (f : Sheaf → Sheaf) (s : State) : (updSheaf sid f s).fm = s.fm := rfl
@[simp] theorem updSheaf_bbs (sid : Nat) (f : Sheaf → Sheaf) (s : State) : (updSheaf sid f s).bbs = s.bbs := rfl
@[simp] theorem updSheaf_ptp (sid : Nat) (f : Sheaf → Sheaf) (s : State) : (updSheaf sid f s).ptp = s.ptp := rfl
@[simp] theorem updSheaf_links (sid : Nat) (f : Sheaf → Sheaf) (s : State) : (updSheaf sid f s).links = s.links := rfl
@[simp] theorem updSheaf_hrw (sid : Nat) (f : Sheaf → Sheaf) (s : State) : (updSheaf sid f s).hrw = s.hrw := rfl
@[simp] theorem updSheaf_twp (sid : Nat) (f : Sheaf → Sheaf) (s : State) : (updSheaf sid f s).twp = s.twp := rfl
@[simp] theorem updSheaf_tap (sid : Nat) (f : Sheaf → Sheaf) (s : State) : (updSheaf sid f s).tap = s.tap := rfl
@[simp] theorem updSheaf_trc (sid : Nat) (f : Sheaf → Sheaf) (s : State) : (updSheaf sid f s).trc = s.trc := rfl
@[simp] theorem updSheaf_alert (sid : Nat) (f : Sheaf → Sheaf) (s : State) : (updSheaf sid f s).alert = s.alert := rfl
@[simp] theorem updSheaf_nextMid (sid : Nat) (f : Sheaf → Sheaf) (s : State) : (updSheaf sid f s).nextMid = s.nextMid := rfl
@[simp] theorem updSheaf_nextFid (sid : Nat) (f : Sheaf → Sheaf) (s : State) : (updSheaf sid f s).nextFid = s.nextFid := rfl
@[simp] theorem updSheaf_nextBuild (sid : Nat) (f : Sheaf → Sheaf) (s : State) : (updSheaf sid f s).nextBuild = s.nextBuild := rfl
@[simp] theorem updSheaf_nextSid (sid : Nat) (f : Sheaf → Sheaf) (s : State) : (updSheaf sid f s).nextSid = s.nextSid := rfl
@[simp] theorem updSheaf_freeCtr (sid : Nat) (f : Sheaf → Sheaf) (s : State) : (updSheaf sid f s).freeCtr = s.freeCtr := rfl
@[simp] theorem updSheaf_pending (sid : Nat) (f : Sheaf → Sheaf) (s : State) : (updSheaf sid f s).pending = s.pending := rfl

@[simp] theorem putEntry_glb (table index : Nat) (bytes : List Byte) (s : State) : (putEntry table index bytes s).glb = s.glb := rfl
@[simp] theorem putEntry_regs (table index : Nat) (bytes : List Byte) (s : State) : (putEntry table index bytes s).regs = s.regs := rfl
@[simp] theorem putEntry_cnt (table index : Nat) (bytes : List Byte) (s : State) : (putEntry table index bytes s).cnt = s.cnt := rfl
@[simp] theorem putEntry_clk (table index : Nat) (bytes : List Byte) (s : State) : (putEntry table index bytes s).clk = s.clk := rfl
@[simp] theorem putEntry_hif (table index : Nat) (bytes : List Byte) (s : State) : (putEntry table index bytes s).hif = s.hif := rfl
@[simp] theorem putEntry_streams (table index : Nat) (bytes : List Byte) (s : State) : (putEntry table index bytes s).streams = s.streams := rfl
@[simp] theorem putEntry_msgs (table index : Nat) (bytes : List Byte) (s : State) : (putEntry table index bytes s).msgs = s.msgs := rfl
@[simp] theorem putEntry_frames (table index : Nat) (bytes : List Byte) (s : State) : (putEntry table index bytes s).frames = s.frames := rfl
@[simp] theorem putEntry_plg (table index : Nat) (bytes : List Byte) (s : State) : (putEntry table index bytes s).plg = s.plg := rfl
@[simp] theorem putEntry_tblBad (table index : Nat) (bytes : List Byte) (s : State) : (putEntry table index bytes s).tblBad = s.tblBad := rfl
@[simp] theorem putEntry_egress (table index : Nat) (bytes : List Byte) (s : State) : (putEntry table index bytes s).egress = s.egress := rfl
@[simp] theorem putEntry_slots (table index : Nat) (bytes : List Byte) (s : State) : (putEntry table index bytes s).slots = s.slots := rfl
@[simp] theorem putEntry_sheaves (table index : Nat) (bytes : List Byte) (s : State) : (putEntry table index bytes s).sheaves = s.sheaves := rfl
@[simp] theorem putEntry_groups (table index : Nat) (bytes : List Byte) (s : State) : (putEntry table index bytes s).groups = s.groups := rfl
@[simp] theorem putEntry_plots (table index : Nat) (bytes : List Byte) (s : State) : (putEntry table index bytes s).plots = s.plots := rfl
@[simp] theorem putEntry_tiles (table index : Nat) (bytes : List Byte) (s : State) : (putEntry table index bytes s).tiles = s.tiles := rfl
@[simp] theorem putEntry_switches (table index : Nat) (bytes : List Byte) (s : State) : (putEntry table index bytes s).switches = s.switches := rfl
@[simp] theorem putEntry_sus (table index : Nat) (bytes : List Byte) (s : State) : (putEntry table index bytes s).sus = s.sus := rfl
@[simp] theorem putEntry_fab (table index : Nat) (bytes : List Byte) (s : State) : (putEntry table index bytes s).fab = s.fab := rfl
@[simp] theorem putEntry_waits (table index : Nat) (bytes : List Byte) (s : State) : (putEntry table index bytes s).waits = s.waits := rfl
@[simp] theorem putEntry_yoke (table index : Nat) (bytes : List Byte) (s : State) : (putEntry table index bytes s).yoke = s.yoke := rfl
@[simp] theorem putEntry_mem (table index : Nat) (bytes : List Byte) (s : State) : (putEntry table index bytes s).mem = s.mem := rfl
@[simp] theorem putEntry_answer (table index : Nat) (bytes : List Byte) (s : State) : (putEntry table index bytes s).answer = s.answer := rfl
@[simp] theorem putEntry_ports (table index : Nat) (bytes : List Byte) (s : State) : (putEntry table index bytes s).ports = s.ports := rfl
@[simp] theorem putEntry_fm (table index : Nat) (bytes : List Byte) (s : State) : (putEntry table index bytes s).fm = s.fm := rfl
@[simp] theorem putEntry_bbs (table index : Nat) (bytes : List Byte) (s : State) : (putEntry table index bytes s).bbs = s.bbs := rfl
@[simp] theorem putEntry_ptp (table index : Nat) (bytes : List Byte) (s : State) : (putEntry table index bytes s).ptp = s.ptp := rfl
@[simp] theorem putEntry_links (table index : Nat) (bytes : List Byte) (s : State) : (putEntry table index bytes s).links = s.links := rfl
@[simp] theorem putEntry_hrw (table index : Nat) (bytes : List Byte) (s : State) : (putEntry table index bytes s).hrw = s.hrw := rfl
@[simp] theorem putEntry_twp (table index : Nat) (bytes : List Byte) (s : State) : (putEntry table index bytes s).twp = s.twp := rfl
@[simp] theorem putEntry_tap (table index : Nat) (bytes : List Byte) (s : State) : (putEntry table index bytes s).tap = s.tap := rfl
@[simp] theorem putEntry_trc (table index : Nat) (bytes : List Byte) (s : State) : (putEntry table index bytes s).trc = s.trc := rfl
@[simp] theorem putEntry_alert (table index : Nat) (bytes : List Byte) (s : State) : (putEntry table index bytes s).alert = s.alert := rfl
@[simp] theorem putEntry_nextMid (table index : Nat) (bytes : List Byte) (s : State) : (putEntry table index bytes s).nextMid = s.nextMid := rfl
@[simp] theorem putEntry_nextFid (table index : Nat) (bytes : List Byte) (s : State) : (putEntry table index bytes s).nextFid = s.nextFid := rfl
@[simp] theorem putEntry_nextBuild (table index : Nat) (bytes : List Byte) (s : State) : (putEntry table index bytes s).nextBuild = s.nextBuild := rfl
@[simp] theorem putEntry_nextSid (table index : Nat) (bytes : List Byte) (s : State) : (putEntry table index bytes s).nextSid = s.nextSid := rfl
@[simp] theorem putEntry_freeCtr (table index : Nat) (bytes : List Byte) (s : State) : (putEntry table index bytes s).freeCtr = s.freeCtr := rfl
@[simp] theorem putEntry_pending (table index : Nat) (bytes : List Byte) (s : State) : (putEntry table index bytes s).pending = s.pending := rfl

end Sys2Proof.Machine
end

