-- ==== Sys2Proof/Laws/Effects.lean ====
section
/-! SUPPORT. What the shared operations do, said once: resets, bring-up, the Yoke's state. -/
namespace Sys2Proof.Machine

set_option Elab.async false

theorem testBit_orReg (s : State) {off v k : Nat} (hk : k < 32) :
    (getReg (orReg off v s) off).testBit k = ((getReg s off).testBit k || v.testBit k) := by
  rw [getReg_orReg_same, Nat.testBit_mod_two_pow, Nat.testBit_or]; simp [hk]

/-- A bit that is set to a value reads as that value, and the others as before. -/
theorem testBit_setBitTo {w k j : Nat} {b : Bool} : (setBitTo w k b).testBit j = if j = k then b else w.testBit j := by
  unfold setBitTo
  split
  · next h =>
    rw [Nat.testBit_or, Nat.testBit_two_pow]
    by_cases hj : j = k
    · simp [hj, h]
    · simp [hj, Ne.symm hj]
  · next h =>
    have hb : b = false := by simpa using h
    split
    · next hk =>
      rw [Nat.testBit_xor, Nat.testBit_two_pow]
      by_cases hj : j = k
      · simp [hj, hb, hk]
      · simp [hj, Ne.symm hj]
    · next hk =>
      by_cases hj : j = k
      · simp [hj, hb, hk]
      · simp [hj]

/-! ### Resets and bring-up -/

theorem hardReset_cleared (s : State) : Cleared (hardReset s) := by simp [Cleared, hardReset, State.reset]

theorem hardReset_reg (s : State) (off : Nat) (h : off ≠ 0x440) (h' : off ≠ 0x2820) : getReg (hardReset s) off = (regReset off).toNat := by
  simp only [hardReset, State.reset]
  rw [getReg_setReg_other h', getReg_setReg_other h]
  simp [getReg, tget]

theorem hardReset_cause (s : State) : getReg (hardReset s) 0x440 = getReg s 0x440 := by
  simp [hardReset]; exact getReg_lt

theorem declareDie_memDone {d c s} : (declareDie d c s).glb.memDone = s.glb.memDone := by
  have h : restGlb s.glb (declareDie d c s).glb = s.glb := declareDie_keeps.at .glb rfl
  rw [← h]

/-- Bring-up goes on in its phase unless no die is left. -/
theorem bringupDies_phase (bad : List Nat) (s : State) {p : Phase} (h : s.glb.phase = p) :
    (bringupDies bad s).glb.phase = if (bringupDies bad s).glb.dieFatal % 16 = 15 then .failed else p := by
  have hp : (each bad (fun d s => declareDie d 3 s) s).glb.phase = p := by
    subst h
    suffices ∀ (l : List Nat) (t : State), t.glb.phase = s.glb.phase → (each l (fun d s => declareDie d 3 s) t).glb.phase = s.glb.phase from this bad s rfl
    intro l
    induction l with
    | nil => intro t h; exact h
    | cons x l ih => intro t h; exact ih _ ((declareDie_keeps.at .phase rfl).trans h)
  unfold bringupDies
  simp only
  split
  · simp [bringupFail, *]
  · simp [*]

theorem bringupDies_memDone {bad s} : (bringupDies bad s).glb.memDone = s.glb.memDone := by
  have hp : (each bad (fun d s => declareDie d 3 s) s).glb.memDone = s.glb.memDone := by
    suffices ∀ (l : List Nat) (t : State), t.glb.memDone = s.glb.memDone →
        (each l (fun d s => declareDie d 3 s) t).glb.memDone = s.glb.memDone from this bad s rfl
    intro l
    induction l with
    | nil => intro t h; exact h
    | cons x l ih => intro t h; exact ih _ (declareDie_memDone.trans h)
  unfold bringupDies
  simp only
  split
  · simp [bringupFail, hp]
  · exact hp

/-! ### The Yoke's state -/

theorem bitsOf_lt {w lo len : Nat} : bitsOf w lo len < 2 ^ len := Nat.mod_lt _ (Nat.two_pow_pos len)

theorem bitsOf_zero {w len : Nat} (h : w < 2 ^ len) : bitsOf w 0 len = w := by simp [bitsOf, Nat.mod_eq_of_lt h]

theorem yokState_setYok {n s} (h : n < 8) : yokState (setYok n s) = n := by
  unfold setYok
  simp only
  split
  · next h => exact h.symm
  · have h2 : n % 2 ^ 32 = n := Nat.mod_eq_of_lt (by omega)
    split <;> simp only [yokState, regF, raise_getReg, getReg_setReg_same, h2, bitsOf_zero (len := 3) h]

theorem yokState_congr {s t : State} (h : getReg t 0x2880 = getReg s 0x2880) : yokState t = yokState s := by simp [yokState, regF, h]

theorem yokState_report {s} : yokState (yokReport s) = yokState s := by
  apply yokState_congr
  simp [yokReport]

end Sys2Proof.Machine
end

