-- ==== Sys2Proof/Laws/KeepsTrunkAccess.lean ====
section
/-! SUPPORT. What each operation and command of Machine/TrunkAccess.lean changes, and that it keeps the invariant. -/
namespace Sys2Proof.Machine

set_option Elab.async false

theorem setPort_keeps {a0 a1 s} : Keeps [.ports] s (setPort a0 a1 s) := by
  delta setPort
  refine Keeps.upd_ports ?_ rfl
  exact (Keeps.refl s)

theorem updPort_keeps {a0 a1 s} : Keeps [.ports] s (updPort a0 a1 s) := by
  delta updPort
  refine Keeps.after ?_ (setPort_keeps ..) rfl
  exact (Keeps.refl s)

theorem trkCount_keeps {a0 a1 s} : Keeps [.cnt, .hif, .alert] s (trkCount a0 a1 s) := by
  delta trkCount
  refine Keeps.after ?_ (bump_keeps ..) rfl
  exact (Keeps.refl s)

theorem setFm_keeps {a0 a1 a2 s} : Keeps [.fm] s (setFm a0 a1 a2 s) := by
  delta setFm
  refine Keeps.upd_fm ?_ rfl
  exact (Keeps.refl s)

theorem freeFm_keeps {a0 a1 s} : Keeps [.fm] s (freeFm a0 a1 s) := by
  delta freeFm
  refine keeps_ite ?_ ?_
  · refine Keeps.after ?_ (setFm_keeps ..) rfl
    exact (Keeps.refl s)
  · exact (Keeps.refl s)

theorem ageFm_keeps {a0 s} : Keeps [.fm] s (ageFm a0 s) := by
  delta ageFm
  refine keeps_each ?_ (fun x0 u1 ku1 => ?_)
  · exact (Keeps.refl s)
  · extract_lets -merge -underBinder +onlyGivenNames x2
    refine keeps_ite ?_ ?_
    · refine Keeps.after ?_ (setFm_keeps ..) rfl
      exact ku1
    · exact ku1

theorem setStation_keeps {a0 a1 a2 s} : Keeps [.ports] s (setStation a0 a1 a2 s) := by
  delta setStation
  refine Keeps.after ?_ (updPort_keeps ..) rfl
  exact (Keeps.refl s)

theorem queueCtl_keeps {a0 a1 a2 s} : Keeps [.ports] s (queueCtl a0 a1 a2 s) := by
  delta queueCtl
  refine Keeps.after ?_ (updPort_keeps ..) rfl
  exact (Keeps.refl s)

theorem queueAck_keeps {a0 a1 a2 a3 a4 s} : Keeps [.ports] s (queueAck a0 a1 a2 a3 a4 s) := by
  delta queueAck
  refine Keeps.after ?_ (updPort_keeps ..) rfl
  exact (Keeps.refl s)

theorem judgeJam_keeps {a0 a1 s} : Keeps [.cnt, .hif, .ports, .alert] s (judgeJam a0 a1 s) := by
  delta judgeJam
  extract_lets -merge -underBinder +onlyGivenNames x0
  refine keeps_ite ?_ ?_
  · exact (Keeps.refl s)
  · refine keeps_ite ?_ ?_
    · extract_lets -merge -underBinder +onlyGivenNames x1 u2
      have ku2 : Keeps [.cnt, .hif, .ports, .alert] s u2 := by
        refine Keeps.after ?_ (updPort_keeps ..) rfl
        exact (Keeps.refl s)
      refine keeps_ite ?_ ?_
      · refine Keeps.after ?_ (raise_keeps ..) rfl
        exact ku2
      · exact ku2
    · refine Keeps.after ?_ (updPort_keeps ..) rfl
      exact (Keeps.refl s)

theorem cycleStart_keeps {a0 a1 s} : Keeps [.cnt, .hif, .ports, .fm, .alert, .freeCtr] s (cycleStart a0 a1 s) := by
  delta cycleStart
  extract_lets -merge -underBinder +onlyGivenNames x0 x1
  refine keeps_ite ?_ ?_
  · refine Keeps.after ?_ (updPort_keeps ..) rfl
    exact (Keeps.refl s)
  · refine keeps_ite ?_ ?_
    · exact (Keeps.refl s)
    · extract_lets -merge -underBinder +onlyGivenNames u2 x3 x4 x5
      have ku2 : Keeps [.cnt, .hif, .ports, .fm, .alert, .freeCtr] s u2 := by
        refine keeps_ite ?_ ?_
        · refine Keeps.after ?_ (ageFm_keeps ..) rfl
          refine Keeps.after ?_ (judgeJam_keeps ..) rfl
          exact (Keeps.refl s)
        · exact (Keeps.refl s)
      split
      rename_i x6 x7 u8 hq9
      have ku8 : Keeps [.cnt, .hif, .ports, .fm, .alert, .freeCtr] s u8 := by
        have hp : Keeps [.cnt, .hif, .ports, .fm, .alert, .freeCtr] s (Prod.snd (x7, u8)) := by
          rw [← hq9]
          refine Keeps.after ?_ (drawFree_keeps ..) rfl
          exact ku2
        exact hp
      extract_lets -merge -underBinder +onlyGivenNames x10 u11
      have ku11 : Keeps [.cnt, .hif, .ports, .fm, .alert, .freeCtr] s u11 := by
        refine Keeps.after ?_ (setPort_keeps ..) rfl
        exact ku8
      refine keeps_ite ?_ ?_
      · exact ku11
      · refine keeps_each ?_ (fun x12 u13 ku13 => ?_)
        · exact ku11
        · refine Keeps.after ?_ (complete_keeps ..) rfl
          exact ku13

theorem execCycleStart_keeps {a0 a1 s} : KeepsOut [.cnt, .hif, .ports, .fm, .alert, .freeCtr] s (execCycleStart a0 a1 s) := by
  delta execCycleStart
  refine out_next ?_
  refine Keeps.after ?_ (cycleStart_keeps ..) rfl
  exact (Keeps.refl s)

theorem loseStation_keeps {a0 a1 a2 s} : Keeps [.cnt, .hif, .ports, .alert] s (loseStation a0 a1 a2 s) := by
  delta loseStation
  extract_lets -merge -underBinder +onlyGivenNames x0
  refine keeps_ite ?_ ?_
  · refine Keeps.after ?_ (raise_keeps ..) rfl
    refine Keeps.after ?_ (setStation_keeps ..) rfl
    exact (Keeps.refl s)
  · exact (Keeps.refl s)

theorem dropHeld_keeps {a0 a1 a2 s} : Keeps [.fm] s (dropHeld a0 a1 a2 s) := by
  delta dropHeld
  split
  · refine keeps_ite ?_ ?_
    · exact (Keeps.refl s)
    · refine Keeps.after ?_ (freeFm_keeps ..) rfl
      exact (Keeps.refl s)
  · exact (Keeps.refl s)

theorem admitStation_keeps {a0 a1 a2 s} : Keeps [.cnt, .hif, .ports, .fm, .alert] s (admitStation a0 a1 a2 s) := by
  delta admitStation
  extract_lets -merge -underBinder +onlyGivenNames x0 x1 x2 u3 u4 u5 u6
  have ku3 : Keeps [.cnt, .hif, .ports, .fm, .alert] s u3 := by
    refine Keeps.after ?_ (dropHeld_keeps ..) rfl
    exact (Keeps.refl s)
  have ku4 : Keeps [.cnt, .hif, .ports, .fm, .alert] s u4 := by
    refine Keeps.after ?_ (setStation_keeps ..) rfl
    exact ku3
  have ku6 : Keeps [.cnt, .hif, .ports, .fm, .alert] s u6 := by
    refine keeps_ite ?_ ?_
    · refine Keeps.after ?_ (freeFm_keeps ..) rfl
      refine Keeps.after ?_ (setFm_keeps ..) rfl
      exact ku4
    · exact ku4
  extract_lets -merge -underBinder +onlyGivenNames u7
  have ku7 : Keeps [.cnt, .hif, .ports, .fm, .alert] s u7 := by
    refine Keeps.after ?_ (trkCount_keeps ..) rfl
    refine Keeps.after ?_ (queueAck_keeps ..) rfl
    exact ku6
  refine keeps_ite ?_ ?_
  · exact ku7
  · refine Keeps.after ?_ (raise_keeps ..) rfl
    exact ku7

theorem refuseStation_keeps {a0 a1 a2 a3 s} : Keeps [.ports, .fm] s (refuseStation a0 a1 a2 a3 s) := by
  delta refuseStation
  refine Keeps.after ?_ (freeFm_keeps ..) rfl
  refine Keeps.after ?_ (queueAck_keeps ..) rfl
  exact (Keeps.refl s)

theorem listedSignon_keeps {a0 a1 a2 s} : Keeps [.cnt, .hif, .ports, .fm, .alert] s (listedSignon a0 a1 a2 s) := by
  delta listedSignon
  extract_lets -merge -underBinder +onlyGivenNames x0 x1 x2
  refine keeps_ite ?_ ?_
  · refine Keeps.after ?_ (trkCount_keeps ..) rfl
    refine Keeps.after ?_ (refuseStation_keeps ..) rfl
    exact (Keeps.refl s)
  · refine keeps_ite ?_ ?_
    · refine Keeps.after ?_ (admitStation_keeps ..) rfl
      exact (Keeps.refl s)
    · extract_lets -merge -underBinder +onlyGivenNames u3
      have ku3 : Keeps [.cnt, .hif, .ports, .fm, .alert] s u3 := by
        refine Keeps.after ?_ (setStation_keeps ..) rfl
        refine Keeps.after ?_ (dropHeld_keeps ..) rfl
        exact (Keeps.refl s)
      refine Keeps.after ?_ (raise_keeps ..) rfl
      refine Keeps.after ?_ (queueCtl_keeps ..) rfl
      exact ku3

theorem setQuarantine_keeps {a0 a1 a2 s} : Keeps [.regTrk, .cnt, .hif, .ports, .alert] s (setQuarantine a0 a1 a2 s) := by
  delta setQuarantine
  extract_lets -merge -underBinder +onlyGivenNames u0 u1
  have ku0 : Keeps [.regTrk, .cnt, .hif, .ports, .alert] s u0 := by
    refine keeps_ite ?_ ?_
    · refine Keeps.after ?_ (orRegIn_regTrk (by unfold trkReg; omega)) rfl
      exact (Keeps.refl s)
    · refine Keeps.after ?_ (orRegIn_regTrk (by unfold trkReg; omega)) rfl
      exact (Keeps.refl s)
  have ku1 : Keeps [.regTrk, .cnt, .hif, .ports, .alert] s u1 := by
    refine keeps_ite ?_ ?_
    · refine Keeps.after ?_ (raise_keeps ..) rfl
      exact ku0
    · exact ku0
  split
  · refine Keeps.after ?_ (loseStation_keeps ..) rfl
    exact ku1
  · exact ku1

theorem strangerSignon_keeps {a0 a1 a2 s} :
    Keeps [.regTrk, .cnt, .hif, .frames, .plg, .ports, .fm, .alert, .nextFid] s (strangerSignon a0 a1 a2 s) := by
  delta strangerSignon
  extract_lets -merge -underBinder +onlyGivenNames u0 x1 u2 x3 x4 x5 u6
  have ku0 : Keeps [.regTrk, .cnt, .hif, .frames, .plg, .ports, .fm, .alert, .nextFid] s u0 := by
    refine Keeps.after ?_ (freeFm_keeps ..) rfl
    refine Keeps.after ?_ (trkCount_keeps ..) rfl
    exact (Keeps.refl s)
  have kx3 : Keeps [.regTrk, .cnt, .hif, .frames, .plg, .ports, .fm, .alert, .nextFid] s x3 := by
    refine Keeps.after ?_ (settlePunts_keeps ..) rfl
    refine Keeps.after ?_ (addFrame_keeps ..) rfl
    exact ku0
  extract_lets -merge -underBinder +onlyGivenNames u7
  have ku7 : Keeps [.regTrk, .cnt, .hif, .frames, .plg, .ports, .fm, .alert, .nextFid] s u7 := by
    refine Keeps.after ?_ (updPort_keeps ..) rfl
    exact kx3
  refine keeps_ite ?_ ?_
  · refine Keeps.after ?_ (setQuarantine_keeps ..) rfl
    refine Keeps.after ?_ (updPort_keeps ..) rfl
    exact ku7
  · exact ku7

theorem signon_keeps {a0 s} : Keeps [.regTrk, .cnt, .hif, .frames, .plg, .ports, .fm, .alert, .nextFid] s (signon a0 s) := by
  delta signon
  split
  · exact (Keeps.refl s)
  · extract_lets -merge -underBinder +onlyGivenNames u0 x1
    have ku0 : Keeps [.regTrk, .cnt, .hif, .frames, .plg, .ports, .fm, .alert, .nextFid] s u0 := by
      refine Keeps.after ?_ (updPort_keeps ..) rfl
      exact (Keeps.refl s)
    refine keeps_ite ?_ ?_
    · refine Keeps.after ?_ (freeFm_keeps ..) rfl
      refine Keeps.after ?_ (trkCount_keeps ..) rfl
      exact ku0
    · split
      · refine keeps_ite ?_ ?_
        · refine Keeps.after ?_ (listedSignon_keeps ..) rfl
          exact ku0
        · refine Keeps.after ?_ (strangerSignon_keeps ..) rfl
          exact ku0
      · refine Keeps.after ?_ (strangerSignon_keeps ..) rfl
        exact ku0

theorem execSignon_keeps {a0 s} : KeepsOut [.regTrk, .cnt, .hif, .frames, .plg, .ports, .fm, .alert, .nextFid] s (execSignon a0 s) := by
  delta execSignon
  refine out_next ?_
  refine Keeps.after ?_ (signon_keeps ..) rfl
  exact (Keeps.refl s)

theorem holdExpiry_keeps {a0 a1 s} : Keeps [.ports, .fm] s (holdExpiry a0 a1 s) := by
  delta holdExpiry
  extract_lets -merge -underBinder +onlyGivenNames x0
  refine keeps_ite ?_ ?_
  · exact (Keeps.refl s)
  · extract_lets -merge -underBinder +onlyGivenNames u1
    have ku1 : Keeps [.ports, .fm] s u1 := by
      unfold u1
      split
      · refine Keeps.after ?_ (freeFm_keeps ..) rfl
        exact (Keeps.refl s)
      · exact (Keeps.refl s)
    refine Keeps.after ?_ (setStation_keeps ..) rfl
    exact ku1

theorem execHoldExpiry_keeps {a0 a1 s} : KeepsOut [.ports, .fm] s (execHoldExpiry a0 a1 s) := by
  delta execHoldExpiry
  refine out_next ?_
  refine Keeps.after ?_ (holdExpiry_keeps ..) rfl
  exact (Keeps.refl s)

theorem portEnable_keeps {a0 s} : Keeps [.regTrk, .ports] s (portEnable a0 s) := by
  delta portEnable
  refine keeps_ite ?_ ?_
  · exact (Keeps.refl s)
  · refine keeps_ite ?_ ?_
    · refine Keeps.after ?_ (updPort_keeps ..) rfl
      exact (Keeps.refl s)
    · extract_lets -merge -underBinder +onlyGivenNames u0
      have ku0 : Keeps [.regTrk, .ports] s u0 := by
        refine Keeps.after ?_ (updPort_keeps ..) rfl
        exact (Keeps.refl s)
      refine Keeps.after ?_ (orRegIn_regTrk (by unfold trkReg; omega)) rfl
      exact ku0

theorem execPortEnable_keeps {a0 s} : KeepsOut [.regTrk, .ports] s (execPortEnable a0 s) := by
  delta execPortEnable
  refine out_next ?_
  refine keeps_ite ?_ ?_
  · refine Keeps.after ?_ (portEnable_keeps ..) rfl
    exact (Keeps.refl s)
  · exact (Keeps.refl s)

theorem failUnbegun_keeps {a0 s} :
    Keeps [.cnt, .hif, .streams, .msgs, .egress, .slots, .sheaves, .groups, .plots, .waits, .yoke, .alert, .nextBuild, .nextSid] s (failUnbegun a0 s) := by
  delta failUnbegun
  refine keeps_each ?_ (fun x0 u1 ku1 => ?_)
  · exact (Keeps.refl s)
  · refine Keeps.after ?_ (sendNothing_keeps ..) rfl
    refine Keeps.after ?_ (bump_keeps ..) rfl
    refine Keeps.after ?_ (updMsg_keeps ..) rfl
    exact ku1

theorem dropEgress_keeps {a0 s} : Keeps [.cnt, .hif, .egress, .alert] s (dropEgress a0 s) := by
  delta dropEgress
  extract_lets -merge -underBinder +onlyGivenNames x0 u1
  have ku1 : Keeps [.cnt, .hif, .egress, .alert] s u1 := by
    refine Keeps.after ?_ (setEgressQ_keeps ..) rfl
    exact (Keeps.refl s)
  refine keeps_each ?_ (fun x2 u3 ku3 => ?_)
  · exact ku1
  · split
    · exact ku3
    · refine Keeps.after ?_ (complete_keeps ..) rfl
      exact ku3
    · exact ku3

theorem damageIngress_keeps {a0 a1 s} :
    Keeps [.cnt, .hif, .streams, .msgs, .frames, .plg, .egress, .slots, .sheaves, .groups, .plots, .waits, .yoke, .alert, .nextBuild, .nextSid] s (damageIngress a0 a1 s) := by
  delta damageIngress
  extract_lets -merge -underBinder +onlyGivenNames x0
  refine Keeps.after ?_ (settlePunts_keeps ..) rfl
  refine keeps_each ?_ (fun x1 u2 ku2 => ?_)
  · exact (Keeps.refl s)
  · extract_lets -merge -underBinder +onlyGivenNames u3
    have ku3 : Keeps [.cnt, .hif, .streams, .msgs, .frames, .plg, .egress, .slots, .sheaves, .groups, .plots, .waits, .yoke, .alert, .nextBuild, .nextSid] s u3 := by
      refine Keeps.after ?_ (bump_keeps ..) rfl
      refine Keeps.after ?_ (frameBad_keeps ..) rfl
      exact ku2
    refine Keeps.after ?_ (updFrame_keeps ..) rfl
    exact ku3

theorem windDownDone_keeps {a0 s} : Keeps [.regTrk, .ports] s (windDownDone a0 s) := by
  delta windDownDone
  extract_lets -merge -underBinder +onlyGivenNames x0 x1
  refine keeps_ite ?_ ?_
  · exact (Keeps.refl s)
  · extract_lets -merge -underBinder +onlyGivenNames u2
    have ku2 : Keeps [.regTrk, .ports] s u2 := by
      refine Keeps.after ?_ (updPort_keeps ..) rfl
      exact (Keeps.refl s)
    refine keeps_ite ?_ ?_
    · refine Keeps.after ?_ (portEnable_keeps ..) rfl
      exact ku2
    · exact ku2

theorem portDisable_keeps {a0 s} :
    Keeps [.regTrk, .cnt, .hif, .streams, .msgs, .frames, .plg, .egress, .slots, .sheaves, .groups, .plots, .waits, .yoke, .ports, .alert, .nextBuild, .nextSid] s (portDisable a0 s) := by
  delta portDisable
  refine keeps_ite ?_ ?_
  · refine Keeps.after ?_ (updPort_keeps ..) rfl
    exact (Keeps.refl s)
  · extract_lets -merge -underBinder +onlyGivenNames x0 u1 u2 u3 u4 u5 u6 u7 x8 u9 x10 u11
    have ku1 : Keeps [.regTrk, .cnt, .hif, .streams, .msgs, .frames, .plg, .egress, .slots, .sheaves, .groups, .plots, .waits, .yoke, .ports, .alert, .nextBuild, .nextSid] s u1 := by
      refine Keeps.after ?_ (setRegIn_regTrk (by unfold trkReg; omega)) rfl
      exact (Keeps.refl s)
    have ku2 : Keeps [.regTrk, .cnt, .hif, .streams, .msgs, .frames, .plg, .egress, .slots, .sheaves, .groups, .plots, .waits, .yoke, .ports, .alert, .nextBuild, .nextSid] s u2 := by
      refine keeps_each ?_ (fun x12 u13 ku13 => ?_)
      · exact ku1
      · refine Keeps.after ?_ (trkCount_keeps ..) rfl
        exact ku13
    have ku3 : Keeps [.regTrk, .cnt, .hif, .streams, .msgs, .frames, .plg, .egress, .slots, .sheaves, .groups, .plots, .waits, .yoke, .ports, .alert, .nextBuild, .nextSid] s u3 := by
      refine Keeps.after ?_ (updPort_keeps ..) rfl
      exact ku2
    have ku4 : Keeps [.regTrk, .cnt, .hif, .streams, .msgs, .frames, .plg, .egress, .slots, .sheaves, .groups, .plots, .waits, .yoke, .ports, .alert, .nextBuild, .nextSid] s u4 := by
      refine Keeps.after ?_ (damageIngress_keeps ..) rfl
      exact ku3
    have ku5 : Keeps [.regTrk, .cnt, .hif, .streams, .msgs, .frames, .plg, .egress, .slots, .sheaves, .groups, .plots, .waits, .yoke, .ports, .alert, .nextBuild, .nextSid] s u5 := by
      refine keeps_each ?_ (fun x14 u15 ku15 => ?_)
      · exact ku4
      · refine Keeps.after ?_ (loseStation_keeps ..) rfl
        exact ku15
    have ku6 : Keeps [.regTrk, .cnt, .hif, .streams, .msgs, .frames, .plg, .egress, .slots, .sheaves, .groups, .plots, .waits, .yoke, .ports, .alert, .nextBuild, .nextSid] s u6 := by
      refine keeps_each ?_ (fun x16 u17 ku17 => ?_)
      · exact ku5
      · refine Keeps.after ?_ (complete_keeps ..) rfl
        exact ku17
    have ku7 : Keeps [.regTrk, .cnt, .hif, .streams, .msgs, .frames, .plg, .egress, .slots, .sheaves, .groups, .plots, .waits, .yoke, .ports, .alert, .nextBuild, .nextSid] s u7 := by
      refine Keeps.after ?_ (updPort_keeps ..) rfl
      exact ku6
    have ku9 : Keeps [.regTrk, .cnt, .hif, .streams, .msgs, .frames, .plg, .egress, .slots, .sheaves, .groups, .plots, .waits, .yoke, .ports, .alert, .nextBuild, .nextSid] s u9 := by
      refine keeps_each ?_ (fun x18 u19 ku19 => ?_)
      · exact ku7
      · refine Keeps.after ?_ (updStream_keeps ..) rfl
        exact ku19
    have ku11 : Keeps [.regTrk, .cnt, .hif, .streams, .msgs, .frames, .plg, .egress, .slots, .sheaves, .groups, .plots, .waits, .yoke, .ports, .alert, .nextBuild, .nextSid] s u11 := by
      refine keeps_each ?_ (fun x20 u21 ku21 => ?_)
      · exact ku9
      · refine Keeps.after ?_ (attach_keeps ..) rfl
        exact ku21
    refine Keeps.after ?_ (failUnbegun_keeps ..) rfl
    refine Keeps.after ?_ (dropEgress_keeps ..) rfl
    exact ku11

theorem execPortDisable_keeps {a0 s} :
    KeepsOut [.regTrk, .cnt, .hif, .streams, .msgs, .frames, .plg, .egress, .slots, .sheaves, .groups, .plots, .waits, .yoke, .ports, .bbs, .alert, .nextBuild, .nextSid] s (execPortDisable a0 s) := by
  delta execPortDisable
  refine out_next ?_
  refine keeps_ite ?_ ?_
  · refine Keeps.after ?_ (bbSettle_keeps ..) rfl
    refine Keeps.after ?_ (portDisable_keeps ..) rfl
    exact (Keeps.refl s)
  · exact (Keeps.refl s)

theorem execPortWindDownDone_keeps {a0 s} : KeepsOut [.regTrk, .ports] s (execPortWindDownDone a0 s) := by
  delta execPortWindDownDone
  refine out_next ?_
  refine Keeps.after ?_ (windDownDone_keeps ..) rfl
  exact (Keeps.refl s)

theorem trunkCtl_keeps {ps sub q pos f s t} (h : Keeps ps s t) (hq : subParts [.cnt, .hif, .alert] ps = true)
    (hf : ∀ n b u, Keeps ps s u → Keeps ps s (f n b u)) : Keeps ps s (trunkCtl sub q pos f t) := by
  unfold trunkCtl
  refine descRun_keeps h (subParts_trans rfl hq) (fun b u hu => keeps_ite ?_ (hf _ _ _ hu))
  exact hu.after (complete_keeps.weaken rfl) hq

theorem onEntry_keeps {ps q pos n addr f s t} (h : Keeps ps s t) (hq : subParts [.cnt, .hif, .alert] ps = true)
    (hf : ∀ k u, Keeps ps s u → Keeps ps s (f k u)) : Keeps ps s (onEntry q pos n addr f t) := by
  unfold onEntry
  split
  · exact h.after (complete_keeps.weaken rfl) hq
  · exact hf _ _ h

theorem ctlAdmit_keeps {a0 a1 a2 a3 s} : Keeps [.cnt, .hif, .ports, .fm, .alert] s (ctlAdmit a0 a1 a2 a3 s) := by
  delta ctlAdmit
  refine onEntry_keeps ?_ rfl (fun x0 u1 ku1 => ?_)
  · exact (Keeps.refl s)
  · extract_lets -merge -underBinder +onlyGivenNames x2 u3
    have ku3 : Keeps [.cnt, .hif, .ports, .fm, .alert] s u3 := by
      unfold u3
      split
      · refine keeps_ite ?_ ?_
        · refine Keeps.after ?_ (admitStation_keeps ..) rfl
          exact ku1
        · refine Keeps.after ?_ (trkCount_keeps ..) rfl
          refine Keeps.after ?_ (refuseStation_keeps ..) rfl
          refine Keeps.after ?_ (setStation_keeps ..) rfl
          exact ku1
      · refine Keeps.after ?_ (setStation_keeps ..) rfl
        exact ku1
    refine Keeps.after ?_ (complete_keeps ..) rfl
    exact ku3

theorem execTrunkCtlAdmit_keeps {a0 a1 s} : KeepsOut [.cnt, .hif, .ports, .fm, .alert] s (execTrunkCtlAdmit a0 a1 s) := by
  delta execTrunkCtlAdmit
  refine out_next ?_
  refine trunkCtl_keeps ?_ rfl (fun x0 x1 u2 ku2 => ?_)
  · exact (Keeps.refl s)
  · refine Keeps.after ?_ (ctlAdmit_keeps ..) rfl
    exact ku2

theorem ctlRefuse_keeps {a0 a1 a2 a3 s} : Keeps [.cnt, .hif, .ports, .fm, .alert] s (ctlRefuse a0 a1 a2 a3 s) := by
  delta ctlRefuse
  refine onEntry_keeps ?_ rfl (fun x0 u1 ku1 => ?_)
  · exact (Keeps.refl s)
  · extract_lets -merge -underBinder +onlyGivenNames x2
    refine keeps_ite ?_ ?_
    · refine Keeps.after ?_ (complete_keeps ..) rfl
      exact ku1
    · extract_lets -merge -underBinder +onlyGivenNames x3
      refine Keeps.after ?_ (complete_keeps ..) rfl
      refine Keeps.after ?_ (refuseStation_keeps ..) rfl
      refine Keeps.after ?_ (setStation_keeps ..) rfl
      exact ku1

theorem execTrunkCtlRefuse_keeps {a0 a1 s} : KeepsOut [.cnt, .hif, .ports, .fm, .alert] s (execTrunkCtlRefuse a0 a1 s) := by
  delta execTrunkCtlRefuse
  refine out_next ?_
  refine trunkCtl_keeps ?_ rfl (fun x0 x1 u2 ku2 => ?_)
  · exact (Keeps.refl s)
  · refine Keeps.after ?_ (ctlRefuse_keeps ..) rfl
    exact ku2

theorem ctlExpel_keeps {a0 a1 a2 a3 s} : Keeps [.cnt, .hif, .ports, .alert] s (ctlExpel a0 a1 a2 a3 s) := by
  delta ctlExpel
  refine onEntry_keeps ?_ rfl (fun x0 u1 ku1 => ?_)
  · exact (Keeps.refl s)
  · refine keeps_ite ?_ ?_
    · refine Keeps.after ?_ (complete_keeps ..) rfl
      exact ku1
    · refine Keeps.after ?_ (complete_keeps ..) rfl
      refine Keeps.after ?_ (loseStation_keeps ..) rfl
      exact ku1

theorem execTrunkCtlExpel_keeps {a0 a1 s} : KeepsOut [.cnt, .hif, .ports, .alert] s (execTrunkCtlExpel a0 a1 s) := by
  delta execTrunkCtlExpel
  refine out_next ?_
  refine trunkCtl_keeps ?_ rfl (fun x0 x1 u2 ku2 => ?_)
  · exact (Keeps.refl s)
  · refine Keeps.after ?_ (ctlExpel_keeps ..) rfl
    exact ku2

theorem execTrunkCtlQuarantine_keeps {a0 a1 s} : KeepsOut [.regTrk, .cnt, .hif, .ports, .alert] s (execTrunkCtlQuarantine a0 a1 s) := by
  delta execTrunkCtlQuarantine
  refine out_next ?_
  refine trunkCtl_keeps ?_ rfl (fun x0 x1 u2 ku2 => ?_)
  · exact (Keeps.refl s)
  · refine Keeps.after ?_ (complete_keeps ..) rfl
    refine Keeps.after ?_ (setQuarantine_keeps ..) rfl
    exact ku2

theorem ctlIsolate_keeps {a0 a1 a2 s} : Keeps [.cnt, .hif, .ports, .alert] s (ctlIsolate a0 a1 a2 s) := by
  delta ctlIsolate
  refine keeps_ite ?_ ?_
  · refine Keeps.after ?_ (complete_keeps ..) rfl
    exact (Keeps.refl s)
  · refine Keeps.after ?_ (updPort_keeps ..) rfl
    exact (Keeps.refl s)

theorem execTrunkCtlIsolate_keeps {a0 a1 s} : KeepsOut [.cnt, .hif, .ports, .alert] s (execTrunkCtlIsolate a0 a1 s) := by
  delta execTrunkCtlIsolate
  refine out_next ?_
  refine trunkCtl_keeps ?_ rfl (fun x0 x1 u2 ku2 => ?_)
  · exact (Keeps.refl s)
  · refine Keeps.after ?_ (ctlIsolate_keeps ..) rfl
    exact ku2

theorem isolateComplete_keeps {a0 s} : Keeps [.cnt, .hif, .ports, .alert] s (isolateComplete a0 s) := by
  delta isolateComplete
  extract_lets -merge -underBinder +onlyGivenNames x0
  refine keeps_ite ?_ ?_
  · exact (Keeps.refl s)
  · refine keeps_each ?_ (fun x1 u2 ku2 => ?_)
    · refine Keeps.after ?_ (updPort_keeps ..) rfl
      exact (Keeps.refl s)
    · refine Keeps.after ?_ (complete_keeps ..) rfl
      exact ku2

theorem execIsolateComplete_keeps {a0 s} : KeepsOut [.cnt, .hif, .ports, .alert] s (execIsolateComplete a0 s) := by
  delta execIsolateComplete
  refine out_next ?_
  refine Keeps.after ?_ (isolateComplete_keeps ..) rfl
  exact (Keeps.refl s)

theorem ctlRelease_keeps {a0 a1 a2 s} : Keeps [.cnt, .hif, .ports, .alert] s (ctlRelease a0 a1 a2 s) := by
  delta ctlRelease
  refine keeps_ite ?_ ?_
  · refine Keeps.after ?_ (complete_keeps ..) rfl
    exact (Keeps.refl s)
  · refine Keeps.after ?_ (updPort_keeps ..) rfl
    exact (Keeps.refl s)

theorem execTrunkCtlRelease_keeps {a0 a1 s} : KeepsOut [.cnt, .hif, .ports, .alert] s (execTrunkCtlRelease a0 a1 s) := by
  delta execTrunkCtlRelease
  refine out_next ?_
  refine trunkCtl_keeps ?_ rfl (fun x0 x1 u2 ku2 => ?_)
  · exact (Keeps.refl s)
  · refine Keeps.after ?_ (ctlRelease_keeps ..) rfl
    exact ku2

theorem ctlSetIlv_keeps {a0 a1 a2 a3 s} : Keeps [.regTrk, .cnt, .hif, .alert] s (ctlSetIlv a0 a1 a2 a3 s) := by
  delta ctlSetIlv
  extract_lets -merge -underBinder +onlyGivenNames x0
  refine Keeps.after ?_ (complete_keeps ..) rfl
  refine keeps_ite ?_ ?_
  · refine Keeps.after ?_ (setRegIn_regTrk (by unfold trkReg; omega)) rfl
    exact (Keeps.refl s)
  · exact (Keeps.refl s)

theorem execTrunkCtlSetIlv_keeps {a0 a1 s} : KeepsOut [.regTrk, .cnt, .hif, .alert] s (execTrunkCtlSetIlv a0 a1 s) := by
  delta execTrunkCtlSetIlv
  refine out_next ?_
  refine trunkCtl_keeps ?_ rfl (fun x0 x1 u2 ku2 => ?_)
  · exact (Keeps.refl s)
  · refine Keeps.after ?_ (ctlSetIlv_keeps ..) rfl
    exact ku2

theorem ctlSetRepair_keeps {a0 a1 a2 a3 s} : Keeps [.regTrk, .cnt, .hif, .alert] s (ctlSetRepair a0 a1 a2 a3 s) := by
  delta ctlSetRepair
  refine Keeps.after ?_ (complete_keeps ..) rfl
  refine keeps_ite ?_ ?_
  · refine Keeps.after ?_ (setRegIn_regTrk (by unfold trkReg; omega)) rfl
    exact (Keeps.refl s)
  · exact (Keeps.refl s)

theorem execTrunkCtlSetRepair_keeps {a0 a1 s} : KeepsOut [.regTrk, .cnt, .hif, .alert] s (execTrunkCtlSetRepair a0 a1 s) := by
  delta execTrunkCtlSetRepair
  refine out_next ?_
  refine trunkCtl_keeps ?_ rfl (fun x0 x1 u2 ku2 => ?_)
  · exact (Keeps.refl s)
  · refine Keeps.after ?_ (ctlSetRepair_keeps ..) rfl
    exact ku2

end Sys2Proof.Machine
end

