-- ==== Sys2Proof/Laws/KeepsBackboneRx.lean ====
section
/-! SUPPORT. What each operation and command of Machine/BackboneRx.lean changes, and that it keeps the invariant. -/
namespace Sys2Proof.Machine

set_option Elab.async false

theorem bbFrameStart_keeps {a0 a1 a2 s} : Keeps [.cnt, .hif, .frames, .bbs, .alert, .nextFid] s (bbFrameStart a0 a1 a2 s) := by
  delta bbFrameStart
  refine keeps_ite ?_ ?_
  · extract_lets -merge -underBinder +onlyGivenNames u0
    have ku0 : Keeps [.cnt, .hif, .frames, .bbs, .alert, .nextFid] s u0 := by
      refine Keeps.after ?_ (updBb_keeps ..) rfl
      exact (Keeps.refl s)
    refine keeps_ite ?_ ?_
    · refine Keeps.after ?_ (bump_keeps ..) rfl
      exact ku0
    · exact ku0
  · refine keeps_ite ?_ ?_
    · refine Keeps.after ?_ (bbpCount_keeps ..) rfl
      refine Keeps.after ?_ (updBb_keeps ..) rfl
      exact (Keeps.refl s)
    · extract_lets -merge -underBinder +onlyGivenNames x1 x2
      extract_lets -merge -underBinder +onlyGivenNames x3
      refine Keeps.after ?_ (updBb_keeps ..) rfl
      refine Keeps.after ?_ (addFrame_keeps ..) rfl
      exact (Keeps.refl s)

theorem bbAppend_keeps {a0 a1 a2 s} :
    Keeps [.cnt, .hif, .streams, .msgs, .frames, .plg, .egress, .slots, .sheaves, .groups, .plots, .waits, .yoke, .bbs, .alert, .nextBuild, .nextSid] s (bbAppend a0 a1 a2 s) := by
  delta bbAppend
  extract_lets -merge -underBinder +onlyGivenNames x0
  split
  · exact (Keeps.refl s)
  · extract_lets -merge -underBinder +onlyGivenNames x1 u2 x3 u4 u5 u6
    have ku2 : Keeps [.cnt, .hif, .streams, .msgs, .frames, .plg, .egress, .slots, .sheaves, .groups, .plots, .waits, .yoke, .bbs, .alert, .nextBuild, .nextSid] s u2 := by
      refine Keeps.after ?_ (setBb_keeps ..) rfl
      exact (Keeps.refl s)
    have ku4 : Keeps [.cnt, .hif, .streams, .msgs, .frames, .plg, .egress, .slots, .sheaves, .groups, .plots, .waits, .yoke, .bbs, .alert, .nextBuild, .nextSid] s u4 := by
      refine Keeps.after ?_ (updFrame_keeps ..) rfl
      exact ku2
    have ku5 : Keeps [.cnt, .hif, .streams, .msgs, .frames, .plg, .egress, .slots, .sheaves, .groups, .plots, .waits, .yoke, .bbs, .alert, .nextBuild, .nextSid] s u5 := by
      refine Keeps.after ?_ (updFrame_keeps ..) rfl
      exact ku4
    have ku6 : Keeps [.cnt, .hif, .streams, .msgs, .frames, .plg, .egress, .slots, .sheaves, .groups, .plots, .waits, .yoke, .bbs, .alert, .nextBuild, .nextSid] s u6 := by
      refine Keeps.after ?_ (bytesCame_keeps ..) rfl
      exact ku5
    refine keeps_ite ?_ ?_
    · refine Keeps.after ?_ (declareGiant_keeps ..) rfl
      refine Keeps.after ?_ (bbpCount_keeps ..) rfl
      exact ku6
    · exact ku6

theorem bbBytes_keeps {a0 a1 a2 a3 s} :
    Keeps [.cnt, .hif, .streams, .msgs, .frames, .plg, .egress, .slots, .sheaves, .groups, .plots, .waits, .yoke, .bbs, .alert, .nextFid, .nextBuild, .nextSid] s (bbBytes a0 a1 a2 a3 s) := by
  delta bbBytes
  refine keeps_ite ?_ ?_
  · exact (Keeps.refl s)
  · extract_lets -merge -underBinder +onlyGivenNames u0 x1 u2
    have ku0 : Keeps [.cnt, .hif, .streams, .msgs, .frames, .plg, .egress, .slots, .sheaves, .groups, .plots, .waits, .yoke, .bbs, .alert, .nextFid, .nextBuild, .nextSid] s u0 := by
      refine keeps_ite ?_ ?_
      · refine Keeps.after ?_ (bbpCount_keeps ..) rfl
        exact (Keeps.refl s)
      · exact (Keeps.refl s)
    have ku2 : Keeps [.cnt, .hif, .streams, .msgs, .frames, .plg, .egress, .slots, .sheaves, .groups, .plots, .waits, .yoke, .bbs, .alert, .nextFid, .nextBuild, .nextSid] s u2 := by
      refine keeps_ite ?_ ?_
      · refine Keeps.after ?_ (bbFrameStart_keeps ..) rfl
        exact ku0
      · exact ku0
    refine Keeps.after ?_ (bbAppend_keeps ..) rfl
    exact ku2

theorem execBbpBytesAvailable_keeps {a0 a1 a2 a3 s} :
    KeepsOut [.cnt, .hif, .streams, .msgs, .frames, .plg, .egress, .slots, .sheaves, .groups, .plots, .waits, .yoke, .bbs, .alert, .nextFid, .nextBuild, .nextSid] s (execBbpBytesAvailable a0 a1 a2 a3 s) := by
  delta execBbpBytesAvailable
  refine out_next ?_
  refine Keeps.after ?_ (bbSettle_keeps ..) rfl
  refine Keeps.after ?_ (bbBytes_keeps ..) rfl
  exact (Keeps.refl s)

theorem bbFrameEnd_keeps {a0 s} :
    Keeps [.cnt, .hif, .streams, .msgs, .frames, .plg, .egress, .slots, .sheaves, .groups, .plots, .waits, .yoke, .bbs, .alert, .nextBuild, .nextSid] s (bbFrameEnd a0 s) := by
  delta bbFrameEnd
  extract_lets -merge -underBinder +onlyGivenNames x0 u1
  have ku1 : Keeps [.cnt, .hif, .streams, .msgs, .frames, .plg, .egress, .slots, .sheaves, .groups, .plots, .waits, .yoke, .bbs, .alert, .nextBuild, .nextSid] s u1 := by
    refine Keeps.after ?_ (setBb_keeps ..) rfl
    exact (Keeps.refl s)
  split
  · exact ku1
  · refine keeps_ite ?_ ?_
    · refine Keeps.after ?_ (settlePunts_keeps ..) rfl
      refine Keeps.after ?_ (updFrame_keeps ..) rfl
      refine Keeps.after ?_ (frameBad_keeps ..) rfl
      refine Keeps.after ?_ (bbpCount_keeps ..) rfl
      exact ku1
    · extract_lets -merge -underBinder +onlyGivenNames x2 u3 u4
      have ku3 : Keeps [.cnt, .hif, .streams, .msgs, .frames, .plg, .egress, .slots, .sheaves, .groups, .plots, .waits, .yoke, .bbs, .alert, .nextBuild, .nextSid] s u3 := by
        refine keeps_ite ?_ ?_
        · exact ku1
        · refine Keeps.after ?_ (bbpCount_keeps ..) rfl
          exact ku1
      have ku4 : Keeps [.cnt, .hif, .streams, .msgs, .frames, .plg, .egress, .slots, .sheaves, .groups, .plots, .waits, .yoke, .bbs, .alert, .nextBuild, .nextSid] s u4 := by
        refine Keeps.after ?_ (noteEnd_keeps ..) rfl
        refine Keeps.after ?_ (updFrame_keeps ..) rfl
        exact ku3
      split
      · exact ku4
      · refine keeps_ite ?_ ?_
        · refine keeps_ite ?_ ?_
          · refine Keeps.after ?_ (updFrame_keeps ..) rfl
            exact ku4
          · refine Keeps.after ?_ (settlePunts_keeps ..) rfl
            refine Keeps.after ?_ (dropFrame_keeps ..) rfl
            exact ku4
        · refine Keeps.after ?_ (frameVerdict_keeps ..) rfl
          exact ku4

theorem execBbpFrameEnd_keeps {a0 s} :
    KeepsOut [.cnt, .hif, .streams, .msgs, .frames, .plg, .egress, .slots, .sheaves, .groups, .plots, .waits, .yoke, .bbs, .alert, .nextBuild, .nextSid] s (execBbpFrameEnd a0 s) := by
  delta execBbpFrameEnd
  refine out_next ?_
  refine Keeps.after ?_ (bbSettle_keeps ..) rfl
  refine Keeps.after ?_ (bbFrameEnd_keeps ..) rfl
  exact (Keeps.refl s)

theorem bbLinkDown_keeps {a0 s} :
    Keeps [.regBbp, .cnt, .hif, .streams, .msgs, .frames, .plg, .egress, .slots, .sheaves, .groups, .plots, .waits, .yoke, .bbs, .alert, .nextBuild, .nextSid] s (bbLinkDown a0 s) := by
  delta bbLinkDown
  extract_lets -merge -underBinder +onlyGivenNames x0
  refine keeps_ite ?_ ?_
  · exact (Keeps.refl s)
  · extract_lets -merge -underBinder +onlyGivenNames x1 u2 u3 u4 u5 x6 u7
    have ku2 : Keeps [.regBbp, .cnt, .hif, .streams, .msgs, .frames, .plg, .egress, .slots, .sheaves, .groups, .plots, .waits, .yoke, .bbs, .alert, .nextBuild, .nextSid] s u2 := by
      refine Keeps.after ?_ (raise_keeps ..) rfl
      refine Keeps.after ?_ (setRegIn_regBbp (by show _ ≤ bbpReg _ _; unfold bbpReg; omega)) rfl
      exact (Keeps.refl s)
    have ku3 : Keeps [.regBbp, .cnt, .hif, .streams, .msgs, .frames, .plg, .egress, .slots, .sheaves, .groups, .plots, .waits, .yoke, .bbs, .alert, .nextBuild, .nextSid] s u3 := by
      unfold u3
      split
      · refine Keeps.after ?_ (frameVerdict_keeps ..) rfl
        refine Keeps.after ?_ (bbpCount_keeps ..) rfl
        refine Keeps.after ?_ (updFrame_keeps ..) rfl
        exact ku2
      · exact ku2
    have ku4 : Keeps [.regBbp, .cnt, .hif, .streams, .msgs, .frames, .plg, .egress, .slots, .sheaves, .groups, .plots, .waits, .yoke, .bbs, .alert, .nextBuild, .nextSid] s u4 := by
      refine Keeps.after ?_ (updBb_keeps ..) rfl
      exact ku3
    have ku5 : Keeps [.regBbp, .cnt, .hif, .streams, .msgs, .frames, .plg, .egress, .slots, .sheaves, .groups, .plots, .waits, .yoke, .bbs, .alert, .nextBuild, .nextSid] s u5 := by
      refine Keeps.after ?_ (bbDropQueue_keeps ..) rfl
      exact ku4
    have ku7 : Keeps [.regBbp, .cnt, .hif, .streams, .msgs, .frames, .plg, .egress, .slots, .sheaves, .groups, .plots, .waits, .yoke, .bbs, .alert, .nextBuild, .nextSid] s u7 := by
      refine keeps_each ?_ (fun x8 u9 ku9 => ?_)
      · exact ku5
      · extract_lets -merge -underBinder +onlyGivenNames u10
        have ku10 : Keeps [.regBbp, .cnt, .hif, .streams, .msgs, .frames, .plg, .egress, .slots, .sheaves, .groups, .plots, .waits, .yoke, .bbs, .alert, .nextBuild, .nextSid] s u10 := by
          refine Keeps.after ?_ (bbpCount_keeps ..) rfl
          exact ku9
        refine keeps_ite ?_ ?_
        · refine Keeps.after ?_ (endMsg_keeps ..) rfl
          exact ku10
        · refine Keeps.after ?_ (failMsg_keeps ..) rfl
          refine Keeps.after ?_ (updMsg_keeps ..) rfl
          exact ku10
    refine Keeps.after ?_ (failUnbegun_keeps ..) rfl
    exact ku7

theorem execBbpLinkDown_keeps {a0 s} :
    KeepsOut [.regBbp, .cnt, .hif, .streams, .msgs, .frames, .plg, .egress, .slots, .sheaves, .groups, .plots, .waits, .yoke, .bbs, .alert, .nextBuild, .nextSid] s (execBbpLinkDown a0 s) := by
  delta execBbpLinkDown
  refine out_next ?_
  refine Keeps.after ?_ (bbSettle_keeps ..) rfl
  refine Keeps.after ?_ (bbLinkDown_keeps ..) rfl
  exact (Keeps.refl s)

theorem bbLinkUp_keeps {a0 s} : Keeps [.regBbp, .cnt, .hif, .alert] s (bbLinkUp a0 s) := by
  delta bbLinkUp
  extract_lets -merge -underBinder +onlyGivenNames x0
  refine keeps_ite ?_ ?_
  · refine Keeps.after ?_ (raise_keeps ..) rfl
    refine Keeps.after ?_ (setRegIn_regBbp (by show _ ≤ bbpReg _ _; unfold bbpReg; omega)) rfl
    exact (Keeps.refl s)
  · exact (Keeps.refl s)

theorem execBbpLinkUp_keeps {a0 s} : KeepsOut [.regBbp, .cnt, .hif, .alert] s (execBbpLinkUp a0 s) := by
  delta execBbpLinkUp
  refine out_next ?_
  refine Keeps.after ?_ (bbLinkUp_keeps ..) rfl
  exact (Keeps.refl s)

theorem ptpMasterAdopt_keeps {a0 s} : Keeps [.regBbp, .ptp] s (ptpMasterAdopt a0 s) := by
  delta ptpMasterAdopt
  extract_lets -merge -underBinder +onlyGivenNames u0
  have ku0 : Keeps [.regBbp, .ptp] s u0 := by
    refine Keeps.after ?_ (setRegIn_regBbp (by unfold bbpReg; omega)) rfl
    exact (Keeps.refl s)
  refine Keeps.upd_ptp ?_ rfl
  exact ku0

theorem execPtpMasterAdopt_keeps {a0 s} : KeepsOut [.regBbp, .ptp] s (execPtpMasterAdopt a0 s) := by
  delta execPtpMasterAdopt
  refine out_next ?_
  refine keeps_ite ?_ ?_
  · refine Keeps.after ?_ (ptpMasterAdopt_keeps ..) rfl
    exact (Keeps.refl s)
  · exact (Keeps.refl s)

theorem ptpSync_keeps {a0 a1 a2 a3 a4 s} : Keeps [.cnt, .clk, .hif, .ptp, .alert, .freeCtr] s (ptpSync a0 a1 a2 a3 a4 s) := by
  delta ptpSync
  extract_lets -merge -underBinder +onlyGivenNames x0
  refine keeps_ite ?_ ?_
  · extract_lets -merge -underBinder +onlyGivenNames u1 x2 x3
    have kx2 : Keeps [.cnt, .clk, .hif, .ptp, .alert, .freeCtr] s x2 := by
      refine Keeps.upd_ptp ?_ rfl
      exact (Keeps.refl s)
    extract_lets -merge -underBinder +onlyGivenNames x4
    refine keeps_ite ?_ ?_
    · refine Keeps.after ?_ (raise_keeps ..) rfl
      refine Keeps.upd_clk ?_ rfl
      exact kx2
    · refine keeps_ite ?_ ?_
      · refine Keeps.upd_clk ?_ rfl
        exact kx2
      · split
        rename_i x5 x6 u7 hq8
        have ku7 : Keeps [.cnt, .clk, .hif, .ptp, .alert, .freeCtr] s u7 := by
          have hp : Keeps [.cnt, .clk, .hif, .ptp, .alert, .freeCtr] s (Prod.snd (x6, u7)) := by
            rw [← hq8]
            refine Keeps.after ?_ (drawFree_keeps ..) rfl
            exact kx2
          exact hp
        refine Keeps.upd_clk ?_ rfl
        exact ku7
  · exact (Keeps.refl s)

theorem execPtpSyncReceived_keeps {a0 a1 a2 a3 a4 s} :
    KeepsOut [.cnt, .clk, .hif, .ptp, .alert, .freeCtr] s (execPtpSyncReceived a0 a1 a2 a3 a4 s) := by
  delta execPtpSyncReceived
  refine out_next ?_
  refine Keeps.after ?_ (ptpSync_keeps ..) rfl
  exact (Keeps.refl s)

theorem ptpLost_keeps {s} : Keeps [.cnt, .hif, .ptp, .alert] s (ptpLost s) := by
  delta ptpLost
  refine keeps_ite ?_ ?_
  · refine Keeps.after ?_ (raise_keeps ..) rfl
    refine Keeps.upd_ptp ?_ rfl
    exact (Keeps.refl s)
  · exact (Keeps.refl s)

theorem execBbpPtpLost_keeps {s} : KeepsOut [.cnt, .hif, .ptp, .alert] s (execBbpPtpLost s) := by
  delta execBbpPtpLost
  refine out_next ?_
  refine Keeps.after ?_ (ptpLost_keeps ..) rfl
  exact (Keeps.refl s)

end Sys2Proof.Machine
end

