-- ==== Sys2Proof/Laws/KeepsEgress.lean ====
section
/-! SUPPORT. What each operation and command of Machine/Egress.lean changes, and that it keeps the invariant. -/
namespace Sys2Proof.Machine

set_option Elab.async false

theorem replyBuild_keeps {a0 s} :
    Keeps [.cnt, .hif, .streams, .msgs, .egress, .slots, .sheaves, .groups, .plots, .waits, .yoke, .alert, .nextBuild, .nextSid] s (replyBuild a0 s) := by
  delta replyBuild
  split
  · exact (Keeps.refl s)
  · extract_lets -merge -underBinder +onlyGivenNames x0 x1
    refine keeps_ite ?_ ?_
    · exact (Keeps.refl s)
    · refine keeps_ite ?_ ?_
      · refine Keeps.after ?_ (sendNothing_keeps ..) rfl
        refine Keeps.after ?_ (raise_keeps ..) rfl
        refine Keeps.after ?_ (bump_keeps ..) rfl
        exact (Keeps.refl s)
      · refine keeps_ite ?_ ?_
        · exact (Keeps.refl s)
        · extract_lets -merge -underBinder +onlyGivenNames x2 x3
          split
          extract_lets -merge -underBinder +onlyGivenNames u4
          have ku4 : Keeps [.cnt, .hif, .streams, .msgs, .egress, .slots, .sheaves, .groups, .plots, .waits, .yoke, .alert, .nextBuild, .nextSid] s u4 := by
            refine keeps_ite ?_ ?_
            · refine Keeps.after ?_ (bump_keeps ..) rfl
              exact (Keeps.refl s)
            · exact (Keeps.refl s)
          refine keeps_ite ?_ ?_
          · refine Keeps.after ?_ (sendNothing_keeps ..) rfl
            refine Keeps.after ?_ (bump_keeps ..) rfl
            exact ku4
          · extract_lets -merge -underBinder +onlyGivenNames x5 u6
            have ku6 : Keeps [.cnt, .hif, .streams, .msgs, .egress, .slots, .sheaves, .groups, .plots, .waits, .yoke, .alert, .nextBuild, .nextSid] s u6 := by
              refine Keeps.after ?_ (updMsg_keeps ..) rfl
              refine Keeps.upd_nextBuild ?_ rfl
              exact ku4
            refine keeps_ite ?_ ?_
            · refine Keeps.after ?_ (settleStream_keeps ..) rfl
              exact ku6
            · refine keeps_ite ?_ ?_
              · refine Keeps.after ?_ (queueInjectReply_keeps ..) rfl
                exact ku6
              · exact ku6

theorem gateTimeout241_keeps {a0 s} :
    Keeps [.cnt, .hif, .streams, .msgs, .egress, .slots, .sheaves, .groups, .plots, .waits, .yoke, .alert, .nextBuild, .nextSid] s (gateTimeout241 a0 s) := by
  delta gateTimeout241
  split
  · exact (Keeps.refl s)
  · refine keeps_ite ?_ ?_
    · exact (Keeps.refl s)
    · extract_lets -merge -underBinder +onlyGivenNames u0
      have ku0 : Keeps [.cnt, .hif, .streams, .msgs, .egress, .slots, .sheaves, .groups, .plots, .waits, .yoke, .alert, .nextBuild, .nextSid] s u0 := by
        refine Keeps.after ?_ (raise_keeps ..) rfl
        refine Keeps.after ?_ (bump_keeps ..) rfl
        exact (Keeps.refl s)
      refine Keeps.after ?_ (failMsg_keeps ..) rfl
      refine Keeps.after ?_ (dropStomped_keeps ..) rfl
      refine Keeps.after ?_ (updMsg_keeps ..) rfl
      exact ku0

theorem execGateTimeout_keeps {a0 s} :
    KeepsOut [.cnt, .hif, .streams, .msgs, .egress, .slots, .sheaves, .groups, .plots, .waits, .yoke, .bbs, .alert, .nextBuild, .nextSid] s (execGateTimeout a0 s) := by
  delta execGateTimeout
  refine out_next ?_
  refine Keeps.after ?_ (bbSettle_keeps ..) rfl
  refine Keeps.after ?_ (gateTimeout241_keeps ..) rfl
  exact (Keeps.refl s)

theorem sendCw_keeps {a0 a1 a2 s} : Keeps [.ports] s (sendCw a0 a1 a2 s) := by
  delta sendCw
  extract_lets -merge -underBinder +onlyGivenNames x0
  split
  refine Keeps.after ?_ (setPort_keeps ..) rfl
  exact (Keeps.refl s)

theorem markLaneWaits_keeps {a0 s} : Keeps [.msgs] s (markLaneWaits a0 s) := by
  delta markLaneWaits
  refine keeps_ite ?_ ?_
  · exact (Keeps.refl s)
  · refine Keeps.upd_msgs ?_ rfl
    exact (Keeps.refl s)

theorem takeLane_keeps {a0 a1 s} : Keeps [.cnt, .hif, .msgs, .alert] s (takeLane a0 a1 s) := by
  delta takeLane
  refine keeps_ite ?_ ?_
  · refine Keeps.after ?_ (bump_keeps ..) rfl
    refine Keeps.after ?_ (updMsg_keeps ..) rfl
    exact (Keeps.refl s)
  · exact (Keeps.refl s)

theorem sendEnd_keeps {a0 a1 a2 a3 s} :
    Keeps [.cnt, .hif, .streams, .msgs, .egress, .slots, .sheaves, .groups, .plots, .waits, .yoke, .ports, .links, .trc, .alert, .nextBuild, .nextSid] s (sendEnd a0 a1 a2 a3 s) := by
  delta sendEnd
  extract_lets -merge -underBinder +onlyGivenNames x0 u1 x2 x3
  have ku1 : Keeps [.cnt, .hif, .streams, .msgs, .egress, .slots, .sheaves, .groups, .plots, .waits, .yoke, .ports, .links, .trc, .alert, .nextBuild, .nextSid] s u1 := by
    refine Keeps.after ?_ (takeLane_keeps ..) rfl
    exact (Keeps.refl s)
  refine keeps_ite ?_ ?_
  · extract_lets -merge -underBinder +onlyGivenNames u4 u5
    have ku4 : Keeps [.cnt, .hif, .streams, .msgs, .egress, .slots, .sheaves, .groups, .plots, .waits, .yoke, .ports, .links, .trc, .alert, .nextBuild, .nextSid] s u4 := by
      refine Keeps.after ?_ (sendCw_keeps ..) rfl
      exact ku1
    have ku5 : Keeps [.cnt, .hif, .streams, .msgs, .egress, .slots, .sheaves, .groups, .plots, .waits, .yoke, .ports, .links, .trc, .alert, .nextBuild, .nextSid] s u5 := by
      refine Keeps.after ?_ (captureIod_keeps ..) rfl
      refine Keeps.after ?_ (teleAdd_keeps ..) rfl
      refine Keeps.after ?_ (bump_keeps ..) rfl
      exact ku4
    refine Keeps.after ?_ (settleStream_keeps ..) rfl
    refine Keeps.after ?_ (endOne_keeps ..) rfl
    refine Keeps.after ?_ (attach_keeps ..) rfl
    exact ku5
  · extract_lets -merge -underBinder +onlyGivenNames u6 u7 u8 u9
    have ku6 : Keeps [.cnt, .hif, .streams, .msgs, .egress, .slots, .sheaves, .groups, .plots, .waits, .yoke, .ports, .links, .trc, .alert, .nextBuild, .nextSid] s u6 := by
      refine Keeps.after ?_ (sendCw_keeps ..) rfl
      exact ku1
    have ku7 : Keeps [.cnt, .hif, .streams, .msgs, .egress, .slots, .sheaves, .groups, .plots, .waits, .yoke, .ports, .links, .trc, .alert, .nextBuild, .nextSid] s u7 := by
      refine Keeps.after ?_ (captureIod_keeps ..) rfl
      refine Keeps.after ?_ (bump_keeps ..) rfl
      exact ku6
    have ku8 : Keeps [.cnt, .hif, .streams, .msgs, .egress, .slots, .sheaves, .groups, .plots, .waits, .yoke, .ports, .links, .trc, .alert, .nextBuild, .nextSid] s u8 := by
      refine keeps_ite ?_ ?_
      · refine Keeps.after ?_ (countLate_keeps ..) rfl
        exact ku7
      · exact ku7
    have ku9 : Keeps [.cnt, .hif, .streams, .msgs, .egress, .slots, .sheaves, .groups, .plots, .waits, .yoke, .ports, .links, .trc, .alert, .nextBuild, .nextSid] s u9 := by
      refine Keeps.after ?_ (updStream_keeps ..) rfl
      exact ku8
    refine Keeps.after ?_ (settleStream_keeps ..) rfl
    refine Keeps.after ?_ (endOne_keeps ..) rfl
    exact ku9

theorem sendExpress_keeps {a0 a1 a2 s} : Keeps [.cnt, .hif, .msgs, .ports, .alert] s (sendExpress a0 a1 a2 s) := by
  delta sendExpress
  extract_lets -merge -underBinder +onlyGivenNames x0 u1 u2
  have ku1 : Keeps [.cnt, .hif, .msgs, .ports, .alert] s u1 := by
    refine Keeps.after ?_ (takeLane_keeps ..) rfl
    exact (Keeps.refl s)
  have ku2 : Keeps [.cnt, .hif, .msgs, .ports, .alert] s u2 := by
    refine Keeps.after ?_ (sendCw_keeps ..) rfl
    exact ku1
  refine Keeps.after ?_ (updMsg_keeps ..) rfl
  exact ku2

theorem sendEcho_keeps {n s u} (h : sendEcho n s = some u) : Keeps [.ports] s u := by
  simp only [sendEcho] at h
  split at h
  · cases h
  · split at h
    · cases h
    · cases h
      exact (sendCw_keeps.weaken rfl).after updPort_keeps rfl

theorem sendData_keeps {a0 a1 s} :
    Keeps [.cnt, .hif, .streams, .msgs, .egress, .slots, .sheaves, .groups, .plots, .waits, .yoke, .ports, .alert, .nextBuild, .nextSid] s (sendData a0 a1 s) := by
  delta sendData
  extract_lets -merge -underBinder +onlyGivenNames x0
  split
  extract_lets -merge -underBinder +onlyGivenNames u1 x2 u3
  have ku1 : Keeps [.cnt, .hif, .streams, .msgs, .egress, .slots, .sheaves, .groups, .plots, .waits, .yoke, .ports, .alert, .nextBuild, .nextSid] s u1 := by
    refine Keeps.after ?_ (sendCw_keeps ..) rfl
    exact (Keeps.refl s)
  have ku3 : Keeps [.cnt, .hif, .streams, .msgs, .egress, .slots, .sheaves, .groups, .plots, .waits, .yoke, .ports, .alert, .nextBuild, .nextSid] s u3 := by
    refine Keeps.after ?_ (setEgressQ_keeps ..) rfl
    exact ku1
  split
  · exact ku3
  · refine keeps_ite ?_ ?_
    · refine Keeps.after ?_ (complete_keeps ..) rfl
      exact ku3
    · exact ku3
  · refine keeps_ite ?_ ?_
    · exact ku3
    · split
      · refine Keeps.after ?_ (settleStream_keeps ..) rfl
        refine Keeps.after ?_ (endOne_keeps ..) rfl
        refine keeps_ite ?_ ?_
        · refine Keeps.after ?_ (countLate_keeps ..) rfl
          exact ku3
        · exact ku3
      · exact ku3

theorem chooseReply_keeps {a0 s} :
    Keeps [.cnt, .hif, .streams, .msgs, .egress, .slots, .sheaves, .groups, .plots, .waits, .yoke, .ports, .links, .trc, .alert, .nextBuild, .nextSid] s (chooseReply a0 s) := by
  delta chooseReply
  extract_lets -merge -underBinder +onlyGivenNames x0 x1
  split
  · refine Keeps.after ?_ (sendEnd_keeps ..) rfl
    exact (Keeps.refl s)
  · refine keeps_ite ?_ ?_
    · unfold x1
      refine Keeps.after ?_ (sendCw_keeps ..) rfl
      exact (Keeps.refl s)
    · split
      · refine Keeps.after ?_ (sendExpress_keeps ..) rfl
        exact (Keeps.refl s)
      · split
        · rename_i x2 u3 hq4
          have ku3 : Keeps [.cnt, .hif, .streams, .msgs, .egress, .slots, .sheaves, .groups, .plots, .waits, .yoke, .ports, .links, .trc, .alert, .nextBuild, .nextSid] s u3 := by
            refine Keeps.after ?_ (sendEcho_keeps hq4) rfl
            exact (Keeps.refl s)
          exact ku3
        · rename_i x5 hq6
          split
          · refine Keeps.after ?_ (sendData_keeps ..) rfl
            exact (Keeps.refl s)
          · unfold x1
            refine Keeps.after ?_ (sendCw_keeps ..) rfl
            exact (Keeps.refl s)

theorem bpSlotChoice_keeps {a0 s} :
    Keeps [.cnt, .hif, .streams, .msgs, .egress, .slots, .sheaves, .groups, .plots, .waits, .yoke, .ports, .links, .trc, .alert, .nextBuild, .nextSid] s (bpSlotChoice a0 s) := by
  delta bpSlotChoice
  extract_lets -merge -underBinder +onlyGivenNames x0
  refine keeps_ite ?_ ?_
  · exact (Keeps.refl s)
  · extract_lets -merge -underBinder +onlyGivenNames u1 x2
    have ku1 : Keeps [.cnt, .hif, .streams, .msgs, .egress, .slots, .sheaves, .groups, .plots, .waits, .yoke, .ports, .links, .trc, .alert, .nextBuild, .nextSid] s u1 := by
      refine Keeps.after ?_ (markLaneWaits_keeps ..) rfl
      exact (Keeps.refl s)
    refine keeps_ite ?_ ?_
    · refine Keeps.after ?_ (chooseReply_keeps ..) rfl
      exact ku1
    · split
      · refine Keeps.after ?_ (sendCw_keeps ..) rfl
        refine Keeps.after ?_ (setPort_keeps ..) rfl
        exact ku1
      · split
        · refine Keeps.after ?_ (sendCw_keeps ..) rfl
          refine Keeps.after ?_ (setPort_keeps ..) rfl
          exact ku1
        · refine Keeps.after ?_ (chooseReply_keeps ..) rfl
          exact ku1

theorem execBpSlotChoice_keeps {a0 s} :
    KeepsOut [.cnt, .hif, .streams, .msgs, .egress, .slots, .sheaves, .groups, .plots, .waits, .yoke, .ports, .bbs, .links, .trc, .alert, .nextBuild, .nextSid] s (execBpSlotChoice a0 s) := by
  delta execBpSlotChoice
  refine out_next ?_
  refine Keeps.after ?_ (bbSettle_keeps ..) rfl
  refine Keeps.after ?_ (bpSlotChoice_keeps ..) rfl
  exact (Keeps.refl s)

end Sys2Proof.Machine
end

