-- ==== Sys2Proof/Laws/KeepsHarrow.lean ====
section
/-! SUPPORT. What each operation and command of Machine/Harrow.lean changes, and that it keeps the invariant. -/
namespace Sys2Proof.Machine

set_option Elab.async false

theorem poisonSlot_keeps {a0 s} :
    Keeps [.cnt, .hif, .streams, .msgs, .egress, .slots, .sheaves, .groups, .plots, .waits, .yoke, .alert, .nextBuild, .nextSid] s (poisonSlot a0 s) := by
  delta poisonSlot
  extract_lets -merge -underBinder +onlyGivenNames u0 x1
  have ku0 : Keeps [.cnt, .hif, .streams, .msgs, .egress, .slots, .sheaves, .groups, .plots, .waits, .yoke, .alert, .nextBuild, .nextSid] s u0 := by
    refine keeps_each ?_ (fun x2 u3 ku3 => ?_)
    · exact (Keeps.refl s)
    · extract_lets -merge -underBinder +onlyGivenNames x4
      refine keeps_ite ?_ ?_
      · exact ku3
      · refine Keeps.after ?_ (setBank_keeps ..) rfl
        exact ku3
  refine keeps_each ?_ (fun x5 u6 ku6 => ?_)
  · exact ku0
  · refine Keeps.after ?_ (markMsg_keeps ..) rfl
    exact ku6

theorem wordOutcome_keeps {a0 s} :
    Keeps (.fatal :: [.dies, .regYok, .cnt, .clk, .hif, .streams, .msgs, .frames, .plg, .tblBad, .egress, .slots, .sheaves, .groups, .plots, .tiles, .switches, .sus, .fab, .waits, .yoke, .mem, .ports, .fm, .bbs, .links, .hrw, .trc, .alert, .nextBuild, .nextSid]) s (wordOutcome a0 s) := by
  delta wordOutcome
  split
  · extract_lets -merge -underBinder +onlyGivenNames x0 u1
    extract_lets -merge -underBinder +onlyGivenNames u2
    extract_lets -merge -underBinder +onlyGivenNames u3
    have ku3 : Keeps (.fatal :: [.dies, .regYok, .cnt, .clk, .hif, .streams, .msgs, .frames, .plg, .tblBad, .egress, .slots, .sheaves, .groups, .plots, .tiles, .switches, .sus, .fab, .waits, .yoke, .mem, .ports, .fm, .bbs, .links, .hrw, .trc, .alert, .nextBuild, .nextSid]) s u3 := by
      refine keeps_ite ?_ ?_
      · refine keeps_ite ?_ ?_
        · refine Keeps.after ?_ (updTile_keeps ..) rfl
          exact (Keeps.refl s)
        · refine keeps_ite ?_ ?_
          · refine Keeps.after ?_ (setSu_keeps ..) rfl
            exact (Keeps.refl s)
          · refine Keeps.after ?_ (setSwitch_keeps ..) rfl
            exact (Keeps.refl s)
      · split
        · refine Keeps.after ?_ (replant_keeps ..) rfl
          exact (Keeps.refl s)
        · exact (Keeps.refl s)
    refine Keeps.after ?_ (plotError_keeps ..) rfl
    exact ku3
  · exact (Keeps.refl s)
  · extract_lets -merge -underBinder +onlyGivenNames u4
    have ku4 : Keeps (.fatal :: [.dies, .regYok, .cnt, .clk, .hif, .streams, .msgs, .frames, .plg, .tblBad, .egress, .slots, .sheaves, .groups, .plots, .tiles, .switches, .sus, .fab, .waits, .yoke, .mem, .ports, .fm, .bbs, .links, .hrw, .trc, .alert, .nextBuild, .nextSid]) s u4 := by
      refine Keeps.upd_tblBad ?_ rfl
      exact (Keeps.refl s)
    refine keeps_ite ?_ ?_
    · refine Keeps.after ?_ (loseStation_keeps ..) rfl
      exact ku4
    · exact ku4
  · refine keeps_ite ?_ ?_
    · refine Keeps.after ?_ (setFm_keeps ..) rfl
      exact (Keeps.refl s)
    · refine Keeps.after ?_ (setFm_keeps ..) rfl
      exact (Keeps.refl s)
  · refine Keeps.after ?_ (poisonSlot_keeps ..) rfl
    exact (Keeps.refl s)
  · refine Keeps.after ?_ (deviceLost_keeps ..) rfl
    exact (Keeps.refl s)

theorem raiseHrw_keeps {a0 a1 a2 a3 a4 s} : Keeps [.cnt, .hif, .links, .trc, .alert] s (raiseHrw a0 a1 a2 a3 a4 s) := by
  delta raiseHrw
  refine keeps_ite ?_ ?_
  · refine Keeps.after ?_ (raiseOn_keeps ..) rfl
    exact (Keeps.refl s)
  · refine Keeps.after ?_ (raise_keeps ..) rfl
    exact (Keeps.refl s)

theorem refetch_keeps {a0 a1 s} : Keeps [.links] s (refetch a0 a1 s) := by
  delta refetch
  split
  · refine Keeps.after ?_ (sendFlit_keeps ..) rfl
    exact (Keeps.refl s)
  · exact (Keeps.refl s)
  · exact (Keeps.refl s)
  · exact (Keeps.refl s)
  · exact (Keeps.refl s)
  · exact (Keeps.refl s)

theorem hrwUncorr_keeps {a0 a1 s} :
    Keeps (.fatal :: [.dies, .regYok, .cnt, .clk, .hif, .streams, .msgs, .frames, .plg, .tblBad, .egress, .slots, .sheaves, .groups, .plots, .tiles, .switches, .sus, .fab, .waits, .yoke, .mem, .ports, .fm, .bbs, .links, .hrw, .trc, .alert, .nextBuild, .nextSid]) s (hrwUncorr a0 a1 s) := by
  delta hrwUncorr
  refine keeps_ite ?_ ?_
  · exact (Keeps.refl s)
  · refine keeps_ite ?_ ?_
    · exact (Keeps.refl s)
    · split
      extract_lets -merge -underBinder +onlyGivenNames u0
      extract_lets -merge -underBinder +onlyGivenNames u1
      have ku1 : Keeps (.fatal :: [.dies, .regYok, .cnt, .clk, .hif, .streams, .msgs, .frames, .plg, .tblBad, .egress, .slots, .sheaves, .groups, .plots, .tiles, .switches, .sus, .fab, .waits, .yoke, .mem, .ports, .fm, .bbs, .links, .hrw, .trc, .alert, .nextBuild, .nextSid]) s u1 := by
        refine Keeps.after ?_ (setHrw_keeps ..) rfl
        exact (Keeps.refl s)
      refine Keeps.after ?_ (wordOutcome_keeps ..) rfl
      refine Keeps.after ?_ (refetch_keeps ..) rfl
      refine Keeps.after ?_ (raiseHrw_keeps ..) rfl
      refine Keeps.after ?_ (bump_keeps ..) rfl
      exact ku1

theorem hrwVote_keeps {a0 s} : Keeps [.cnt, .hif, .hrw, .alert] s (hrwVote a0 s) := by
  delta hrwVote
  extract_lets -merge -underBinder +onlyGivenNames x0 x1 x2 u3
  have ku3 : Keeps [.cnt, .hif, .hrw, .alert] s u3 := by
    refine Keeps.after ?_ (setHrw_keeps ..) rfl
    exact (Keeps.refl s)
  refine keeps_ite ?_ ?_
  · exact ku3
  · refine Keeps.after ?_ (bump_keeps ..) rfl
    exact ku3

theorem hrwStore_keeps {a0 a1 s} : Keeps [.hrw] s (hrwStore a0 a1 s) := by
  delta hrwStore
  refine Keeps.after ?_ (setHrw_keeps ..) rfl
  exact (Keeps.refl s)

theorem hrwRegs_keeps {s} : Keeps [.regHrw] s (hrwRegs s) := by
  delta hrwRegs
  extract_lets -merge -underBinder +onlyGivenNames x0
  refine Keeps.after ?_ (setReg_in (b := .regHrw) rfl) rfl
  refine Keeps.after ?_ (setReg_in (b := .regHrw) rfl) rfl
  refine Keeps.after ?_ (setReg_in (b := .regHrw) rfl) rfl
  refine Keeps.after ?_ (setReg_in (b := .regHrw) rfl) rfl
  exact (Keeps.refl s)

theorem selfFault_keeps {a0 s} : Keeps [.regHrw, .cnt, .hif, .links, .hrw, .trc, .alert, .freeCtr] s (selfFault a0 s) := by
  delta selfFault
  split
  rename_i x0 x1 u2 hq3
  have ku2 : Keeps [.regHrw, .cnt, .hif, .links, .hrw, .trc, .alert, .freeCtr] s u2 := by
    have hp : Keeps [.regHrw, .cnt, .hif, .links, .hrw, .trc, .alert, .freeCtr] s (Prod.snd (x1, u2)) := by
      rw [← hq3]
      refine Keeps.after ?_ (drawFree_keeps ..) rfl
      exact (Keeps.refl s)
    exact hp
  split
  rename_i x4 x5 u6 hq7
  have ku6 : Keeps [.regHrw, .cnt, .hif, .links, .hrw, .trc, .alert, .freeCtr] s u6 := by
    have hp : Keeps [.regHrw, .cnt, .hif, .links, .hrw, .trc, .alert, .freeCtr] s (Prod.snd (x5, u6)) := by
      rw [← hq7]
      refine Keeps.after ?_ (drawFree_keeps ..) rfl
      exact ku2
    exact hp
  extract_lets -merge -underBinder +onlyGivenNames u8 u9
  have ku8 : Keeps [.regHrw, .cnt, .hif, .links, .hrw, .trc, .alert, .freeCtr] s u8 := by
    refine Keeps.after ?_ (hrwStore_keeps ..) rfl
    exact ku6
  have ku9 : Keeps [.regHrw, .cnt, .hif, .links, .hrw, .trc, .alert, .freeCtr] s u9 := by
    refine keeps_ite ?_ ?_
    · refine Keeps.after ?_ (hrwRegs_keeps ..) rfl
      exact ku8
    · exact ku8
  refine Keeps.after ?_ (raiseHrw_keeps ..) rfl
  refine Keeps.after ?_ (bump_keeps ..) rfl
  exact ku9

theorem passStart_keeps {a0 a1 s} : Keeps [.regHrw, .cnt, .hif, .links, .hrw, .trc, .alert, .freeCtr] s (passStart a0 a1 s) := by
  delta passStart
  refine keeps_ite ?_ ?_
  · exact (Keeps.refl s)
  · extract_lets -merge -underBinder +onlyGivenNames u0 u1 x2
    have ku0 : Keeps [.regHrw, .cnt, .hif, .links, .hrw, .trc, .alert, .freeCtr] s u0 := by
      refine Keeps.after ?_ (setHrw_keeps ..) rfl
      exact (Keeps.refl s)
    have ku1 : Keeps [.regHrw, .cnt, .hif, .links, .hrw, .trc, .alert, .freeCtr] s u1 := by
      refine Keeps.after ?_ (hrwVote_keeps ..) rfl
      exact ku0
    refine keeps_ite ?_ ?_
    · refine Keeps.after ?_ (selfFault_keeps ..) rfl
      exact ku1
    · refine keeps_ite ?_ ?_
      · exact ku1
      · refine Keeps.after ?_ (setHrw_keeps ..) rfl
        exact ku1

theorem execHarrowPassStart_keeps {a0 a1 s} :
    KeepsOut [.regHrw, .cnt, .hif, .links, .hrw, .trc, .alert, .freeCtr] s (execHarrowPassStart a0 a1 s) := by
  delta execHarrowPassStart
  refine out_next ?_
  refine Keeps.after ?_ (passStart_keeps ..) rfl
  exact (Keeps.refl s)

theorem passDone_keeps {a0 a1 a2 s} :
    Keeps (.fatal :: [.dies, .regYok, .cnt, .clk, .hif, .streams, .msgs, .frames, .plg, .tblBad, .egress, .slots, .sheaves, .groups, .plots, .tiles, .switches, .sus, .fab, .waits, .yoke, .mem, .ports, .fm, .bbs, .links, .hrw, .trc, .alert, .nextBuild, .nextSid]) s (passDone a0 a1 a2 s) := by
  delta passDone
  refine keeps_ite ?_ ?_
  · exact (Keeps.refl s)
  · extract_lets -merge -underBinder +onlyGivenNames u0 u1 u2
    have ku1 : Keeps (.fatal :: [.dies, .regYok, .cnt, .clk, .hif, .streams, .msgs, .frames, .plg, .tblBad, .egress, .slots, .sheaves, .groups, .plots, .tiles, .switches, .sus, .fab, .waits, .yoke, .mem, .ports, .fm, .bbs, .links, .hrw, .trc, .alert, .nextBuild, .nextSid]) s u1 := by
      refine Keeps.after ?_ (setHrw_keeps ..) rfl
      exact (Keeps.refl s)
    have ku2 : Keeps (.fatal :: [.dies, .regYok, .cnt, .clk, .hif, .streams, .msgs, .frames, .plg, .tblBad, .egress, .slots, .sheaves, .groups, .plots, .tiles, .switches, .sus, .fab, .waits, .yoke, .mem, .ports, .fm, .bbs, .links, .hrw, .trc, .alert, .nextBuild, .nextSid]) s u2 := by
      refine Keeps.after ?_ (bump_keeps ..) rfl
      exact ku1
    extract_lets -merge -underBinder +onlyGivenNames u3
    have ku3 : Keeps (.fatal :: [.dies, .regYok, .cnt, .clk, .hif, .streams, .msgs, .frames, .plg, .tblBad, .egress, .slots, .sheaves, .groups, .plots, .tiles, .switches, .sus, .fab, .waits, .yoke, .mem, .ports, .fm, .bbs, .links, .hrw, .trc, .alert, .nextBuild, .nextSid]) s u3 := by
      refine keeps_ite ?_ ?_
      · exact ku2
      · refine Keeps.after ?_ (raiseHrw_keeps ..) rfl
        refine Keeps.after ?_ (bump_keeps ..) rfl
        exact ku2
    refine keeps_each ?_ (fun x4 u5 ku5 => ?_)
    · exact ku3
    · refine Keeps.after ?_ (hrwUncorr_keeps ..) rfl
      exact ku5

theorem execHarrowPassDone_keeps {a0 a1 a2 s} :
    KeepsOut (.fatal :: [.dies, .regYok, .cnt, .clk, .hif, .streams, .msgs, .frames, .plg, .tblBad, .egress, .slots, .sheaves, .groups, .plots, .tiles, .switches, .sus, .fab, .waits, .yoke, .mem, .ports, .fm, .bbs, .links, .hrw, .trc, .alert, .nextBuild, .nextSid]) s (execHarrowPassDone a0 a1 a2 s) := by
  delta execHarrowPassDone
  refine out_next ?_
  refine Keeps.after ?_ (bbSettle_keeps ..) rfl
  refine Keeps.after ?_ (passDone_keeps ..) rfl
  exact (Keeps.refl s)

theorem hrwWatchdog_keeps {a0 a1 s} : Keeps [.cnt, .hif, .links, .hrw, .trc, .alert] s (hrwWatchdog a0 a1 s) := by
  delta hrwWatchdog
  refine keeps_ite ?_ ?_
  · exact (Keeps.refl s)
  · extract_lets -merge -underBinder +onlyGivenNames u0
    extract_lets -merge -underBinder +onlyGivenNames u1
    have ku1 : Keeps [.cnt, .hif, .links, .hrw, .trc, .alert] s u1 := by
      refine Keeps.after ?_ (setHrw_keeps ..) rfl
      exact (Keeps.refl s)
    refine Keeps.after ?_ (raiseHrw_keeps ..) rfl
    refine Keeps.after ?_ (bump_keeps ..) rfl
    exact ku1

theorem execHrwWatchdog_keeps {a0 a1 s} : KeepsOut [.cnt, .hif, .links, .hrw, .trc, .alert] s (execHrwWatchdog a0 a1 s) := by
  delta execHrwWatchdog
  refine out_next ?_
  refine Keeps.after ?_ (hrwWatchdog_keeps ..) rfl
  exact (Keeps.refl s)

theorem execParseWalk_keeps {a0 a1 s} :
    KeepsOut (.fatal :: [.dies, .regYok, .cnt, .clk, .hif, .streams, .msgs, .frames, .plg, .tblBad, .egress, .slots, .sheaves, .groups, .plots, .tiles, .switches, .sus, .fab, .waits, .yoke, .mem, .ports, .fm, .bbs, .links, .hrw, .trc, .alert, .nextBuild, .nextSid]) s (execParseWalk a0 a1 s) := by
  delta execParseWalk
  refine out_next ?_
  refine Keeps.after ?_ (bbSettle_keeps ..) rfl
  refine Keeps.after ?_ (parseWalk_keeps ..) rfl
  refine keeps_each ?_ (fun x0 u1 ku1 => ?_)
  · exact (Keeps.refl s)
  · refine Keeps.after ?_ (hrwUncorr_keeps ..) rfl
    exact ku1

theorem execReplyBuild_keeps {a0 a1 s} :
    KeepsOut (.fatal :: [.dies, .regYok, .cnt, .clk, .hif, .streams, .msgs, .frames, .plg, .tblBad, .egress, .slots, .sheaves, .groups, .plots, .tiles, .switches, .sus, .fab, .waits, .yoke, .mem, .ports, .fm, .bbs, .links, .hrw, .trc, .alert, .nextBuild, .nextSid]) s (execReplyBuild a0 a1 s) := by
  delta execReplyBuild
  refine out_next ?_
  refine Keeps.after ?_ (bbSettle_keeps ..) rfl
  refine Keeps.after ?_ (replyBuild_keeps ..) rfl
  refine keeps_each ?_ (fun x0 u1 ku1 => ?_)
  · exact (Keeps.refl s)
  · refine Keeps.after ?_ (hrwUncorr_keeps ..) rfl
    exact ku1

end Sys2Proof.Machine
end

