-- ==== Sys2Proof/Laws/KeepsHostDesc.lean ====
section
/-! SUPPORT. What each operation and command of Machine/HostDesc.lean changes, and that it keeps the invariant. -/
namespace Sys2Proof.Machine

set_option Elab.async false

theorem execNopDescriptor_keeps {a0 a1 s} : KeepsOut [.cnt, .hif, .alert] s (execNopDescriptor a0 a1 s) := by
  delta execNopDescriptor
  refine out_next ?_
  refine descRun_keeps ?_ rfl (fun x0 u1 ku1 => ?_)
  · exact (Keeps.refl s)
  · refine Keeps.after ?_ (complete_keeps ..) rfl
    exact ku1

theorem badOpcode_keeps {a0 a1 s} : Keeps [.cnt, .hif, .alert] s (badOpcode a0 a1 s) := by
  delta badOpcode
  split
  · exact (Keeps.refl s)
  · extract_lets -merge -underBinder +onlyGivenNames x0
    refine keeps_ite ?_ ?_
    · exact (Keeps.refl s)
    · refine descRun_keeps ?_ rfl (fun x1 u2 ku2 => ?_)
      · exact (Keeps.refl s)
      · refine Keeps.after ?_ (complete_keeps ..) rfl
        exact ku2

theorem execBadOpcode_keeps {a0 a1 s} : KeepsOut [.cnt, .hif, .alert] s (execBadOpcode a0 a1 s) := by
  delta execBadOpcode
  refine out_next ?_
  refine Keeps.after ?_ (badOpcode_keeps ..) rfl
  exact (Keeps.refl s)

theorem fence_keeps {a0 a1 s} : Keeps [.cnt, .hif, .alert] s (fence a0 a1 s) := by
  delta fence
  split
  · exact (Keeps.refl s)
  · refine descRun_keeps ?_ rfl (fun x0 u1 ku1 => ?_)
    · exact (Keeps.refl s)
    · refine keeps_ite ?_ ?_
      · refine Keeps.after ?_ (complete_keeps ..) rfl
        exact ku1
      · exact ku1

theorem execFence_keeps {a0 a1 s} : KeepsOut [.cnt, .hif, .alert] s (execFence a0 a1 s) := by
  delta execFence
  refine out_next ?_
  refine Keeps.after ?_ (fence_keeps ..) rfl
  exact (Keeps.refl s)

theorem fenceCheck_keeps {s} : Keeps [.cnt, .hif, .alert] s (fenceCheck s) := by
  delta fenceCheck
  refine keeps_each ?_ (fun x0 u1 ku1 => ?_)
  · exact (Keeps.refl s)
  · refine Keeps.after ?_ (fence_keeps ..) rfl
    exact ku1

theorem endedAdmissions_keeps {a0 a1 s} : Keeps [.cnt, .hif, .ports, .alert] s (endedAdmissions a0 a1 s) := by
  delta endedAdmissions
  refine keeps_each ?_ (fun x0 u1 ku1 => ?_)
  · exact (Keeps.refl s)
  · split
    refine keeps_ite ?_ ?_
    · exact ku1
    · refine Keeps.after ?_ (raise_keeps ..) rfl
      refine Keeps.after ?_ (setStation_keeps ..) rfl
      exact ku1

theorem tableWrite_keeps {a0 a1 a2 a3 s} : Keeps [.cnt, .hif, .tables, .tblBad, .ports, .alert] s (tableWrite a0 a1 a2 a3 s) := by
  delta tableWrite
  extract_lets -merge -underBinder +onlyGivenNames x0 x1 x2 x3
  refine keeps_ite ?_ ?_
  · refine Keeps.after ?_ (complete_keeps ..) rfl
    exact (Keeps.refl s)
  · refine keeps_ite ?_ ?_
    · refine Keeps.after ?_ (complete_keeps ..) rfl
      exact (Keeps.refl s)
    · split
      · refine Keeps.after ?_ (complete_keeps ..) rfl
        exact (Keeps.refl s)
      · extract_lets -merge -underBinder +onlyGivenNames x4 x5
        refine keeps_ite ?_ ?_
        · refine Keeps.after ?_ (complete_keeps ..) rfl
          exact (Keeps.refl s)
        · extract_lets -merge -underBinder +onlyGivenNames x6 x7 u8
          have ku8 : Keeps [.cnt, .hif, .tables, .tblBad, .ports, .alert] s u8 := by
            refine keeps_each ?_ (fun x9 u10 ku10 => ?_)
            · exact (Keeps.refl s)
            · split
              refine Keeps.after ?_ (setEntry_keeps ..) rfl
              exact ku10
          refine Keeps.after ?_ (complete_keeps ..) rfl
          refine Keeps.after ?_ (endedAdmissions_keeps ..) rfl
          exact ku8

theorem execTableWrite_keeps {a0 a1 a2 s} : KeepsOut [.cnt, .hif, .tables, .tblBad, .ports, .alert] s (execTableWrite a0 a1 a2 s) := by
  delta execTableWrite
  refine out_next ?_
  refine descRun_keeps ?_ rfl (fun x0 u1 ku1 => ?_)
  · exact (Keeps.refl s)
  · refine Keeps.after ?_ (tableWrite_keeps ..) rfl
    exact ku1

theorem inject_keeps {a0 a1 a2 a3 s} : Keeps [.cnt, .hif, .frames, .alert, .nextFid] s (inject a0 a1 a2 a3 s) := by
  delta inject
  extract_lets -merge -underBinder +onlyGivenNames x0
  refine keeps_ite ?_ ?_
  · exact (Keeps.refl s)
  · refine keeps_ite ?_ ?_
    · refine Keeps.after ?_ (complete_keeps ..) rfl
      exact (Keeps.refl s)
    · refine keeps_ite ?_ ?_
      · refine Keeps.after ?_ (complete_keeps ..) rfl
        exact (Keeps.refl s)
      · split
        · refine Keeps.after ?_ (complete_keeps ..) rfl
          exact (Keeps.refl s)
        · extract_lets -merge -underBinder +onlyGivenNames x1
          refine Keeps.after ?_ (addFrame_keeps ..) rfl
          exact (Keeps.refl s)

theorem execInject_keeps {a0 a1 a2 s} : KeepsOut [.cnt, .hif, .frames, .alert, .nextFid] s (execInject a0 a1 a2 s) := by
  delta execInject
  refine out_next ?_
  refine descRun_keeps ?_ rfl (fun x0 u1 ku1 => ?_)
  · exact (Keeps.refl s)
  · refine Keeps.after ?_ (inject_keeps ..) rfl
    exact ku1

theorem countRefused_keeps {a0 s} : Keeps [.cnt, .hif, .alert] s (countRefused a0 s) := by
  delta countRefused
  extract_lets -merge -underBinder +onlyGivenNames x0
  refine keeps_ite ?_ ?_
  · exact (Keeps.refl s)
  · split
    · refine Keeps.after ?_ (countHole_keeps ..) rfl
      exact (Keeps.refl s)
    · exact (Keeps.refl s)

theorem memRead_keeps {a0 a1 a2 a3 s} :
    Keeps [.regMem, .cnt, .hif, .hbm, .poison, .mem, .links, .trc, .alert] s (memRead a0 a1 a2 a3 s) := by
  delta memRead
  extract_lets -merge -underBinder +onlyGivenNames x0
  refine keeps_ite ?_ ?_
  · refine Keeps.after ?_ (complete_keeps ..) rfl
    refine Keeps.after ?_ (countRefused_keeps ..) rfl
    exact (Keeps.refl s)
  · split
    rename_i x1 u2 x3 x4 hq5
    have ku2 : Keeps [.regMem, .cnt, .hif, .hbm, .poison, .mem, .links, .trc, .alert] s u2 := by
      have hp : Keeps [.regMem, .cnt, .hif, .hbm, .poison, .mem, .links, .trc, .alert] s (Prod.fst (u2, (x3, x4))) := by
        rw [← hq5]
        refine Keeps.after ?_ (homeRead_keeps ..) rfl
        exact (Keeps.refl s)
      exact hp
    refine Keeps.after ?_ (complete_keeps ..) rfl
    refine Keeps.after ?_ (dmaWrite_keeps ..) rfl
    exact ku2

theorem execMemRead_keeps {a0 a1 a2 s} :
    KeepsOut [.regMem, .cnt, .hif, .hbm, .poison, .mem, .links, .trc, .alert] s (execMemRead a0 a1 a2 s) := by
  delta execMemRead
  refine out_next ?_
  refine descRunHbm_keeps ?_ rfl (fun x0 u1 ku1 => ?_)
  · exact (Keeps.refl s)
  · refine Keeps.after ?_ (memRead_keeps ..) rfl
    exact ku1

theorem memWrite_keeps {a0 a1 a2 a3 s} : Keeps [.cnt, .hif, .hbm, .poison, .mem, .links, .alert] s (memWrite a0 a1 a2 a3 s) := by
  delta memWrite
  extract_lets -merge -underBinder +onlyGivenNames x0 x1 x2
  refine keeps_ite ?_ ?_
  · refine Keeps.after ?_ (complete_keeps ..) rfl
    refine Keeps.after ?_ (countRefused_keeps ..) rfl
    exact (Keeps.refl s)
  · refine keeps_ite ?_ ?_
    · refine Keeps.after ?_ (complete_keeps ..) rfl
      exact (Keeps.refl s)
    · split
      · refine Keeps.after ?_ (complete_keeps ..) rfl
        exact (Keeps.refl s)
      · split
        rename_i x3 u4 x5 hq6
        have ku4 : Keeps [.cnt, .hif, .hbm, .poison, .mem, .links, .alert] s u4 := by
          have hp : Keeps [.cnt, .hif, .hbm, .poison, .mem, .links, .alert] s (Prod.fst (u4, x5)) := by
            rw [← hq6]
            refine Keeps.after ?_ (homeWrite_keeps ..) rfl
            exact (Keeps.refl s)
          exact hp
        refine Keeps.after ?_ (complete_keeps ..) rfl
        exact ku4

theorem execMemWrite_keeps {a0 a1 a2 s} : KeepsOut [.cnt, .hif, .hbm, .poison, .mem, .links, .alert] s (execMemWrite a0 a1 a2 s) := by
  delta execMemWrite
  refine out_next ?_
  refine descRunHbm_keeps ?_ rfl (fun x0 u1 ku1 => ?_)
  · exact (Keeps.refl s)
  · refine Keeps.after ?_ (memWrite_keeps ..) rfl
    exact ku1

theorem statsSnapshot_keeps {a0 a1 a2 s} : Keeps [.cnt, .hif, .alert] s (statsSnapshot a0 a1 a2 s) := by
  delta statsSnapshot
  extract_lets -merge -underBinder +onlyGivenNames x0 x1 x2 x3
  refine keeps_ite ?_ ?_
  · refine Keeps.after ?_ (complete_keeps ..) rfl
    exact (Keeps.refl s)
  · refine keeps_ite ?_ ?_
    · refine Keeps.after ?_ (complete_keeps ..) rfl
      exact (Keeps.refl s)
    · extract_lets -merge -underBinder +onlyGivenNames x4 x5 u6
      have ku6 : Keeps [.cnt, .hif, .alert] s u6 := by
        refine keeps_ite ?_ ?_
        · refine keeps_each ?_ (fun x7 u8 ku8 => ?_)
          · exact (Keeps.refl s)
          · refine Keeps.after ?_ (clearCounter_keeps ..) rfl
            exact ku8
        · exact (Keeps.refl s)
      refine Keeps.after ?_ (complete_keeps ..) rfl
      refine Keeps.after ?_ (dmaWrite_keeps ..) rfl
      exact ku6

theorem execStatsSnapshot_keeps {a0 a1 s} : KeepsOut [.cnt, .hif, .alert] s (execStatsSnapshot a0 a1 s) := by
  delta execStatsSnapshot
  refine out_next ?_
  refine descRun_keeps ?_ rfl (fun x0 u1 ku1 => ?_)
  · exact (Keeps.refl s)
  · refine Keeps.after ?_ (statsSnapshot_keeps ..) rfl
    exact ku1

theorem replantDesc_keeps {a0 a1 a2 s} :
    Keeps [.cnt, .hif, .streams, .msgs, .egress, .slots, .sheaves, .groups, .plots, .tiles, .switches, .sus, .fab, .waits, .yoke, .links, .hrw, .trc, .alert, .nextBuild, .nextSid] s (replantDesc a0 a1 a2 s) := by
  delta replantDesc
  extract_lets -merge -underBinder +onlyGivenNames x0
  refine keeps_ite ?_ ?_
  · refine Keeps.after ?_ (complete_keeps ..) rfl
    refine keeps_each ?_ (fun x1 u2 ku2 => ?_)
    · exact (Keeps.refl s)
    · refine Keeps.after ?_ (replant_keeps ..) rfl
      exact ku2
  · refine keeps_ite ?_ ?_
    · refine Keeps.after ?_ (complete_keeps ..) rfl
      exact (Keeps.refl s)
    · refine keeps_ite ?_ ?_
      · refine Keeps.after ?_ (complete_keeps ..) rfl
        exact (Keeps.refl s)
      · refine Keeps.after ?_ (complete_keeps ..) rfl
        refine Keeps.after ?_ (replant_keeps ..) rfl
        exact (Keeps.refl s)

theorem execReplant_keeps {a0 a1 s} :
    KeepsOut [.cnt, .hif, .streams, .msgs, .egress, .slots, .sheaves, .groups, .plots, .tiles, .switches, .sus, .fab, .waits, .yoke, .links, .hrw, .trc, .alert, .nextBuild, .nextSid] s (execReplant a0 a1 s) := by
  delta execReplant
  refine out_next ?_
  refine descRunHbm_keeps ?_ rfl (fun x0 u1 ku1 => ?_)
  · exact (Keeps.refl s)
  · refine Keeps.after ?_ (replantDesc_keeps ..) rfl
    exact ku1

theorem puntReturn_keeps {a0 a1 a2 a3 s} : Keeps [.cnt, .hif, .egress, .alert, .nextBuild] s (puntReturn a0 a1 a2 a3 s) := by
  delta puntReturn
  extract_lets -merge -underBinder +onlyGivenNames x0 x1 x2 x3 x4
  refine keeps_ite ?_ ?_
  · exact (Keeps.refl s)
  · refine keeps_ite ?_ ?_
    · refine Keeps.after ?_ (complete_keeps ..) rfl
      exact (Keeps.refl s)
    · refine keeps_ite ?_ ?_
      · refine Keeps.after ?_ (complete_keeps ..) rfl
        exact (Keeps.refl s)
      · refine keeps_ite ?_ ?_
        · refine Keeps.after ?_ (complete_keeps ..) rfl
          exact (Keeps.refl s)
        · split
          · refine Keeps.after ?_ (complete_keeps ..) rfl
            exact (Keeps.refl s)
          · extract_lets -merge -underBinder +onlyGivenNames x5
            refine Keeps.after ?_ (enqueueEgress_keeps ..) rfl
            exact (Keeps.refl s)

theorem execPuntReturn_keeps {a0 a1 a2 s} :
    KeepsOut [.cnt, .hif, .msgs, .egress, .bbs, .alert, .nextBuild] s (execPuntReturn a0 a1 a2 s) := by
  delta execPuntReturn
  refine out_next ?_
  refine Keeps.after ?_ (bbSettle_keeps ..) rfl
  refine descRun_keeps ?_ rfl (fun x0 u1 ku1 => ?_)
  · exact (Keeps.refl s)
  · refine Keeps.after ?_ (puntReturn_keeps ..) rfl
    exact ku1

end Sys2Proof.Machine
end

