-- ==== Sys2Proof/Laws/KeepsHostRings.lean ====
section
/-! SUPPORT. What each operation and command of Machine/HostRings.lean changes, and that it keeps the invariant. -/
namespace Sys2Proof.Machine

set_option Elab.async false

theorem hifEnable_keeps {a0 s} : Keeps [.regHif, .hif] s (hifEnable a0 s) := by
  delta hifEnable
  extract_lets -merge -underBinder +onlyGivenNames u0
  have ku0 : Keeps [.regHif, .hif] s u0 := by
    refine Keeps.after ?_ (setReg_in (b := .regHif) rfl) rfl
    exact (Keeps.refl s)
  refine keeps_ite ?_ ?_
  · exact ku0
  · refine keeps_ite ?_ ?_
    · refine Keeps.upd_hif ?_ rfl
      exact ku0
    · refine Keeps.upd_hif ?_ rfl
      exact ku0

theorem execHifEnable_keeps {a0 s} : KeepsOut [.regHif, .hif] s (execHifEnable a0 s) := by
  delta execHifEnable
  refine out_next ?_
  refine keeps_ite ?_ ?_
  · refine Keeps.after ?_ (hifEnable_keeps ..) rfl
    exact (Keeps.refl s)
  · exact (Keeps.refl s)

theorem endIsolation_keeps {s} : Keeps [.glb, .cnt, .hif, .alert] s (endIsolation s) := by
  delta endIsolation
  split
  · refine Keeps.after ?_ (flushBacklog_keeps ..) rfl
    exact (Keeps.refl s)
  · extract_lets -merge -underBinder +onlyGivenNames x0 x1 u2
    extract_lets -merge -underBinder +onlyGivenNames u3
    have ku3 : Keeps [.glb, .cnt, .hif, .alert] s u3 := by
      refine Keeps.upd_glb ?_ rfl
      exact (Keeps.refl s)
    refine Keeps.after ?_ (raise_keeps ..) rfl
    refine Keeps.after ?_ (flushBacklog_keeps ..) rfl
    exact ku3
  · extract_lets -merge -underBinder +onlyGivenNames x4 x5 u6
    extract_lets -merge -underBinder +onlyGivenNames u7
    have ku7 : Keeps [.glb, .cnt, .hif, .alert] s u7 := by
      refine Keeps.upd_glb ?_ rfl
      exact (Keeps.refl s)
    refine Keeps.after ?_ (raise_keeps ..) rfl
    refine Keeps.after ?_ (flushBacklog_keeps ..) rfl
    exact ku7

theorem ringEnable_keeps {a0 a1 s} : Keeps [.glb, .regHif, .cnt, .hif, .alert] s (ringEnable a0 a1 s) := by
  delta ringEnable
  extract_lets -merge -underBinder +onlyGivenNames x0 u1
  have ku1 : Keeps [.glb, .regHif, .cnt, .hif, .alert] s u1 := by
    refine Keeps.after ?_ (setRegIn_regHif (by omega)) rfl
    exact (Keeps.refl s)
  refine keeps_ite ?_ ?_
  · extract_lets -merge -underBinder +onlyGivenNames x2 u3 u4 u5 u6
    have ku4 : Keeps [.glb, .regHif, .cnt, .hif, .alert] s u4 := by
      refine Keeps.after ?_ (setRing_keeps ..) rfl
      exact ku1
    have ku5 : Keeps [.glb, .regHif, .cnt, .hif, .alert] s u5 := by
      refine keeps_ite ?_ ?_
      · refine Keeps.after ?_ (setSq_keeps ..) rfl
        exact ku4
      · exact ku4
    extract_lets -merge -underBinder +onlyGivenNames u7 u8
    have ku7 : Keeps [.glb, .regHif, .cnt, .hif, .alert] s u7 := by
      refine keeps_ite ?_ ?_
      · refine Keeps.upd_hif ?_ rfl
        exact ku5
      · exact ku5
    extract_lets -merge -underBinder +onlyGivenNames u9
    have ku9 : Keeps [.glb, .regHif, .cnt, .hif, .alert] s u9 := by
      refine Keeps.upd_hif ?_ rfl
      exact ku7
    refine keeps_ite ?_ ?_
    · refine Keeps.after ?_ (endIsolation_keeps ..) rfl
      exact ku9
    · exact ku9
  · refine Keeps.after ?_ (setRing_keeps ..) rfl
    exact ku1

theorem execRingEnable_keeps {a0 a1 s} : KeepsOut [.glb, .regHif, .cnt, .hif, .alert] s (execRingEnable a0 a1 s) := by
  delta execRingEnable
  refine out_next ?_
  refine keeps_ite ?_ ?_
  · refine Keeps.after ?_ (ringEnable_keeps ..) rfl
    exact (Keeps.refl s)
  · exact (Keeps.refl s)

theorem doorbellPoll_keeps {s} : Keeps [.cnt, .hif, .alert] s (doorbellPoll s) := by
  delta doorbellPoll
  refine keeps_ite ?_ ?_
  · refine Keeps.after ?_ (bump_keeps ..) rfl
    refine Keeps.upd_hif ?_ rfl
    exact (Keeps.refl s)
  · exact (Keeps.refl s)

theorem execDoorbellPoll_keeps {s} : KeepsOut [.cnt, .hif, .alert] s (execDoorbellPoll s) := by
  delta execDoorbellPoll
  refine out_next ?_
  refine Keeps.after ?_ (doorbellPoll_keeps ..) rfl
  exact (Keeps.refl s)

theorem ringError_keeps {a0 a1 a2 s} : Keeps [.regHif, .cnt, .hif, .alert] s (ringError a0 a1 a2 s) := by
  delta ringError
  refine Keeps.after ?_ (raise_keeps ..) rfl
  refine Keeps.after ?_ (orRegIn_regHif (by omega)) rfl
  refine Keeps.after ?_ (setRing_keeps ..) rfl
  exact (Keeps.refl s)

theorem pollSq_keeps {a0 a1 a2 s} : Keeps [.regHif, .cnt, .hif, .alert] s (pollSq a0 a1 a2 s) := by
  delta pollSq
  extract_lets -merge -underBinder +onlyGivenNames x0 x1
  refine keeps_ite ?_ ?_
  · exact (Keeps.refl s)
  · refine keeps_ite ?_ ?_
    · refine Keeps.after ?_ (ringError_keeps ..) rfl
      exact (Keeps.refl s)
    · extract_lets -merge -underBinder +onlyGivenNames x2
      refine keeps_ite ?_ ?_
      · exact (Keeps.refl s)
      · refine Keeps.after ?_ (setSq_keeps ..) rfl
        refine Keeps.after ?_ (setRing_keeps ..) rfl
        exact (Keeps.refl s)

theorem pollHead_keeps {a0 a1 s} : Keeps [.hif] s (pollHead a0 a1 s) := by
  delta pollHead
  extract_lets -merge -underBinder +onlyGivenNames x0
  refine keeps_ite ?_ ?_
  · exact (Keeps.refl s)
  · refine Keeps.after ?_ (setRing_keeps ..) rfl
    exact (Keeps.refl s)

theorem pollResult_keeps {a0 a1 a2 s} : Keeps [.regHif, .cnt, .hif, .alert] s (pollResult a0 a1 a2 s) := by
  delta pollResult
  refine keeps_ite ?_ ?_
  · exact (Keeps.refl s)
  · extract_lets -merge -underBinder +onlyGivenNames u0
    extract_lets -merge -underBinder +onlyGivenNames u1
    have ku1 : Keeps [.regHif, .cnt, .hif, .alert] s u1 := by
      refine Keeps.upd_hif ?_ rfl
      exact (Keeps.refl s)
    split
    · refine keeps_each ?_ (fun x2 u3 ku3 => ?_)
      · exact ku1
      · refine Keeps.after ?_ (ringError_keeps ..) rfl
        exact ku3
    · extract_lets -merge -underBinder +onlyGivenNames x4 x5 x6 x7 u8 u9 x10 x11 u12 u13 x14 x15 u16 u17
      have ku8 : Keeps [.regHif, .cnt, .hif, .alert] s u8 := by
        refine keeps_each ?_ (fun x18 u19 ku19 => ?_)
        · exact ku1
        · refine Keeps.after ?_ (pollSq_keeps ..) rfl
          exact ku19
      have ku9 : Keeps [.regHif, .cnt, .hif, .alert] s u9 := by
        refine keeps_each ?_ (fun x20 u21 ku21 => ?_)
        · exact ku8
        · refine Keeps.after ?_ (pollHead_keeps ..) rfl
          exact ku21
      have ku12 : Keeps [.regHif, .cnt, .hif, .alert] s u12 := by
        refine Keeps.after ?_ (setRing_keeps ..) rfl
        exact ku9
      have kx14 : Keeps [.regHif, .cnt, .hif, .alert] s x14 := by
        refine Keeps.upd_hif ?_ rfl
        exact ku12
      extract_lets -merge -underBinder +onlyGivenNames u22 u23
      have ku22 : Keeps [.regHif, .cnt, .hif, .alert] s u22 := by
        refine Keeps.upd_hif ?_ rfl
        exact kx14
      have ku23 : Keeps [.regHif, .cnt, .hif, .alert] s u23 := by
        refine keeps_ite ?_ ?_
        · exact ku22
        · refine Keeps.after ?_ (bump_keeps ..) rfl
          exact ku22
      refine Keeps.after ?_ (flushBacklog_keeps ..) rfl
      refine keeps_each ?_ (fun x24 u25 ku25 => ?_)
      · exact ku23
      · refine Keeps.after ?_ (flushSq_keeps ..) rfl
        exact ku25

theorem execPollResult_keeps {a0 a1 a2 s} : KeepsOut [.regHif, .cnt, .hif, .alert] s (execPollResult a0 a1 a2 s) := by
  delta execPollResult
  refine out_next ?_
  refine Keeps.after ?_ (pollResult_keeps ..) rfl
  exact (Keeps.refl s)

theorem descriptorFetch_keeps {a0 a1 a2 s} : Keeps [.regHif, .cnt, .hif, .alert] s (descriptorFetch a0 a1 a2 s) := by
  delta descriptorFetch
  extract_lets -merge -underBinder +onlyGivenNames x0 x1
  refine keeps_ite ?_ ?_
  · exact (Keeps.refl s)
  · extract_lets -merge -underBinder +onlyGivenNames u2
    extract_lets -merge -underBinder +onlyGivenNames u3
    have ku3 : Keeps [.regHif, .cnt, .hif, .alert] s u3 := by
      refine Keeps.upd_hif ?_ rfl
      exact (Keeps.refl s)
    split
    · refine Keeps.after ?_ (ringError_keeps ..) rfl
      exact ku3
    · extract_lets -merge -underBinder +onlyGivenNames x4 x5 u6 u7
      have ku6 : Keeps [.regHif, .cnt, .hif, .alert] s u6 := by
        refine Keeps.after ?_ (setSq_keeps ..) rfl
        exact ku3
      have ku7 : Keeps [.regHif, .cnt, .hif, .alert] s u7 := by
        refine Keeps.after ?_ (setRing_keeps ..) rfl
        exact ku6
      refine Keeps.upd_hif ?_ rfl
      exact ku7

theorem execDescriptorFetch_keeps {a0 a1 a2 s} : KeepsOut [.regHif, .cnt, .hif, .alert] s (execDescriptorFetch a0 a1 a2 s) := by
  delta execDescriptorFetch
  refine out_next ?_
  refine Keeps.after ?_ (descriptorFetch_keeps ..) rfl
  exact (Keeps.refl s)

theorem fireVector_keeps {a0 s} : Keeps [.hif] s (fireVector a0 s) := by
  delta fireVector
  refine keeps_ite ?_ ?_
  · refine Keeps.upd_hif ?_ rfl
    exact (Keeps.refl s)
  · refine Keeps.after ?_ (post_keeps ..) rfl
    exact (Keeps.refl s)

theorem shadowWrite_keeps {s} : Keeps [.hif] s (shadowWrite s) := by
  delta shadowWrite
  refine keeps_ite ?_ ?_
  · extract_lets -merge -underBinder +onlyGivenNames u0 x1 x2
    have ku0 : Keeps [.hif] s u0 := by
      refine Keeps.after ?_ (post_keeps ..) rfl
      exact (Keeps.refl s)
    refine keeps_each ?_ (fun x3 u4 ku4 => ?_)
    · refine Keeps.upd_hif ?_ rfl
      exact ku0
    · refine Keeps.after ?_ (fireVector_keeps ..) rfl
      exact ku4
  · exact (Keeps.refl s)

theorem execShadowWrite_keeps {s} : KeepsOut [.hif] s (execShadowWrite s) := by
  delta execShadowWrite
  refine out_next ?_
  refine Keeps.after ?_ (shadowWrite_keeps ..) rfl
  exact (Keeps.refl s)

theorem moderationTimer_keeps {a0 s} : Keeps [.hif] s (moderationTimer a0 s) := by
  delta moderationTimer
  refine keeps_ite ?_ ?_
  · refine Keeps.after ?_ (triggerRing_keeps ..) rfl
    exact (Keeps.refl s)
  · exact (Keeps.refl s)

theorem execModerationTimer_keeps {a0 s} : KeepsOut [.hif] s (execModerationTimer a0 s) := by
  delta execModerationTimer
  refine out_next ?_
  refine Keeps.after ?_ (moderationTimer_keeps ..) rfl
  exact (Keeps.refl s)

theorem msixUnmask_keeps {a0 s} : Keeps [.regHif, .hif] s (msixUnmask a0 s) := by
  delta msixUnmask
  extract_lets -merge -underBinder +onlyGivenNames u0
  have ku0 : Keeps [.regHif, .hif] s u0 := by
    refine Keeps.after ?_ (setRegIn_regHif (by omega)) rfl
    exact (Keeps.refl s)
  refine keeps_ite ?_ ?_
  · refine Keeps.after ?_ (fireVector_keeps ..) rfl
    refine Keeps.upd_hif ?_ rfl
    exact ku0
  · exact ku0

theorem execMsixUnmask_keeps {a0 s} : KeepsOut [.regHif, .hif] s (execMsixUnmask a0 s) := by
  delta execMsixUnmask
  refine out_next ?_
  refine keeps_ite ?_ ?_
  · refine Keeps.after ?_ (msixUnmask_keeps ..) rfl
    exact (Keeps.refl s)
  · exact (Keeps.refl s)

end Sys2Proof.Machine
end

