-- ==== Sys2Proof/Laws/KeepsRegisters.lean ====
section
/-! SUPPORT. What each operation and command of Machine/Registers.lean changes, and that it keeps the invariant. -/
namespace Sys2Proof.Machine

set_option Elab.async false

theorem testAdvance_keeps {s} : Keeps [.regTst] s (testAdvance s) := by
  delta testAdvance
  refine Keeps.after ?_ (setReg_in (b := .regTst) rfl) rfl
  exact (Keeps.refl s)

theorem testMark_keeps {a0 a1 a2 s} : Keeps [.plots, .tiles] s (testMark a0 a1 a2 s) := by
  delta testMark
  split
  · refine Keeps.after ?_ (setTile_keeps ..) rfl
    exact (Keeps.refl s)
  · refine Keeps.after ?_ (updPlot_keeps ..) rfl
    exact (Keeps.refl s)
  · exact (Keeps.refl s)

theorem testRead_keeps {a0 s} : Keeps [.regTst, .plots, .tiles, .links, .freeCtr] s (testRead a0 s).2 := by
  delta testRead
  split
  refine keeps_ite_p (p := Prod.snd) ?_ ?_
  · refine keeps_snd ?_
    refine Keeps.after ?_ (testAdvance_keeps ..) rfl
    exact (Keeps.refl s)
  · refine keeps_ite_p (p := Prod.snd) ?_ ?_
    · split
      rename_i x0 x1 u2 hq3
      have ku2 : Keeps [.regTst, .plots, .tiles, .links, .freeCtr] s u2 := by
        have hp : Keeps [.regTst, .plots, .tiles, .links, .freeCtr] s (Prod.snd (x1, u2)) := by
          rw [← hq3]
          refine Keeps.after ?_ (drawFree_keeps ..) rfl
          exact (Keeps.refl s)
        exact hp
      refine keeps_snd ?_
      refine Keeps.after ?_ (testAdvance_keeps ..) rfl
      exact ku2
    · extract_lets -merge -underBinder +onlyGivenNames x4 u5 u6
      have ku5 : Keeps [.regTst, .plots, .tiles, .links, .freeCtr] s u5 := by
        refine Keeps.after ?_ (sendFlit_keeps ..) rfl
        exact (Keeps.refl s)
      have ku6 : Keeps [.regTst, .plots, .tiles, .links, .freeCtr] s u6 := by
        refine keeps_ite ?_ ?_
        · refine Keeps.after ?_ (testMark_keeps ..) rfl
          exact ku5
        · exact ku5
      split
      · refine keeps_snd ?_
        refine Keeps.after ?_ (testAdvance_keeps ..) rfl
        refine Keeps.after ?_ (sendFlit_keeps ..) rfl
        exact ku6
      · refine keeps_snd ?_
        refine Keeps.after ?_ (testAdvance_keeps ..) rfl
        refine Keeps.after ?_ (orReg_in (b := .regTst) rfl) rfl
        refine Keeps.after ?_ (sendFlit_keeps ..) rfl
        exact ku6

theorem testPut_keeps {a0 a1 a2 a3 s} : Keeps [.plots, .tiles, .hrw, .trc] s (testPut a0 a1 a2 a3 s) := by
  delta testPut
  extract_lets -merge -underBinder +onlyGivenNames x0 x1
  split
  · refine Keeps.after ?_ (setTile_keeps ..) rfl
    exact (Keeps.refl s)
  · unfold x1
    refine Keeps.after ?_ (setHrw_keeps ..) rfl
    refine Keeps.after ?_ (setTile_keeps ..) rfl
    exact (Keeps.refl s)
  · unfold x1
    refine Keeps.after ?_ (setHrw_keeps ..) rfl
    refine Keeps.after ?_ (setTile_keeps ..) rfl
    exact (Keeps.refl s)
  · refine Keeps.after ?_ (updPlot_keeps ..) rfl
    exact (Keeps.refl s)
  · extract_lets -merge -underBinder +onlyGivenNames x2
    refine Keeps.upd_trc ?_ rfl
    exact (Keeps.refl s)
  · exact (Keeps.refl s)

theorem testWrite_keeps {a0 s} : Keeps [.regTst, .plots, .tiles, .links, .hrw, .trc] s (testWrite a0 s) := by
  delta testWrite
  split
  extract_lets -merge -underBinder +onlyGivenNames x0
  refine Keeps.after ?_ (testAdvance_keeps ..) rfl
  refine keeps_ite ?_ ?_
  · refine Keeps.after ?_ (testPut_keeps ..) rfl
    refine Keeps.after ?_ (sendFlit_keeps ..) rfl
    exact (Keeps.refl s)
  · exact (Keeps.refl s)

theorem plainWrite_keeps {a0 a1 a2 s} : Keeps (withRegs []) s (plainWrite a0 a1 a2 s) := by
  delta plainWrite
  extract_lets -merge -underBinder +onlyGivenNames x0 u1
  have ku1 : Keeps (withRegs []) s u1 := by
    refine Keeps.after ?_ (setReg_from_any ..) rfl
    exact (Keeps.refl s)
  refine keeps_ite ?_ ?_
  · refine Keeps.after ?_ (lockViol_keeps ..) rfl
    exact ku1
  · exact ku1

theorem trkCtlWrite_keeps {a0 a1 a2 a3 s} :
    Keeps (withRegs [.cnt, .hif, .streams, .msgs, .frames, .plg, .egress, .slots, .sheaves, .groups, .plots, .waits, .yoke, .ports, .alert, .nextBuild, .nextSid]) s (trkCtlWrite a0 a1 a2 a3 s) := by
  delta trkCtlWrite
  extract_lets -merge -underBinder +onlyGivenNames x0 u1
  have ku1 : Keeps (withRegs [.cnt, .hif, .streams, .msgs, .frames, .plg, .egress, .slots, .sheaves, .groups, .plots, .waits, .yoke, .ports, .alert, .nextBuild, .nextSid]) s u1 := by
    refine Keeps.after ?_ (plainWrite_keeps ..) rfl
    exact (Keeps.refl s)
  refine keeps_ite ?_ ?_
  · refine Keeps.after ?_ (portEnable_keeps ..) rfl
    exact ku1
  · refine Keeps.after ?_ (portDisable_keeps ..) rfl
    exact ku1

theorem bbpCtlWrite_keeps {a0 a1 a2 a3 s} :
    Keeps (withRegs [.cnt, .hif, .streams, .msgs, .frames, .plg, .egress, .slots, .sheaves, .groups, .plots, .waits, .yoke, .bbs, .alert, .nextBuild, .nextSid]) s (bbpCtlWrite a0 a1 a2 a3 s) := by
  delta bbpCtlWrite
  extract_lets -merge -underBinder +onlyGivenNames x0 x1 u2
  have ku2 : Keeps (withRegs [.cnt, .hif, .streams, .msgs, .frames, .plg, .egress, .slots, .sheaves, .groups, .plots, .waits, .yoke, .bbs, .alert, .nextBuild, .nextSid]) s u2 := by
    refine keeps_ite ?_ ?_
    · refine keeps_each ?_ (fun x3 u4 ku4 => ?_)
      · exact (Keeps.refl s)
      · refine Keeps.after ?_ (bbLinkDown_keeps ..) rfl
        exact ku4
    · exact (Keeps.refl s)
  refine Keeps.after ?_ (bbSettle_keeps ..) rfl
  refine Keeps.after ?_ (plainWrite_keeps ..) rfl
  exact ku2

theorem fmIndexWrite_keeps {a0 a1 s} :
    Keeps [.regTrk, .regBbp, .regPlg, .regSow, .regRpl, .regYok, .regDlk, .regMem, .regHrw, .regTwp, .regSyn, .regTst] s (fmIndexWrite a0 a1 s) := by
  delta fmIndexWrite
  extract_lets -merge -underBinder +onlyGivenNames u0 x1
  have ku0 : Keeps [.regTrk, .regBbp, .regPlg, .regSow, .regRpl, .regYok, .regDlk, .regMem, .regHrw, .regTwp, .regSyn, .regTst] s u0 := by
    refine Keeps.after ?_ (setReg_from_trk (by unfold trkReg; omega)) rfl
    exact (Keeps.refl s)
  refine keeps_each ?_ (fun x2 u3 ku3 => ?_)
  · exact ku0
  · refine Keeps.after ?_ (setReg_from_trk (by unfold trkReg; omega)) rfl
    exact ku3

theorem fmDataWrite_keeps {a0 a1 a2 s} :
    Keeps [.regTrk, .regBbp, .regPlg, .regSow, .regRpl, .regYok, .regDlk, .regMem, .regHrw, .regTwp, .regSyn, .regTst, .cnt, .hif, .fm, .alert] s (fmDataWrite a0 a1 a2 s) := by
  delta fmDataWrite
  extract_lets -merge -underBinder +onlyGivenNames x0
  refine keeps_ite ?_ ?_
  · refine Keeps.after ?_ (trkCount_keeps ..) rfl
    exact (Keeps.refl s)
  · extract_lets -merge -underBinder +onlyGivenNames x1
    refine Keeps.after ?_ (setReg_from_trk (by unfold trkReg; omega)) rfl
    refine Keeps.after ?_ (setFm_keeps ..) rfl
    exact (Keeps.refl s)

theorem hrwWrite_keeps {a0 s} : Keeps [.regHrw, .hrw] s (hrwWrite a0 s) := by
  delta hrwWrite
  refine Keeps.after ?_ (hrwRegs_keeps ..) rfl
  refine keeps_each ?_ (fun x0 u1 ku1 => ?_)
  · exact (Keeps.refl s)
  · refine Keeps.after ?_ (hrwStore_keeps ..) rfl
    exact ku1

theorem glbCtlWrite_keeps {a0 s} :
    Keeps [.run, .phase, .glb, .regGlb, .regRst, .regYok, .cnt, .clk, .hif, .plots, .yoke, .alert] s (glbCtlWrite a0 s) := by
  delta glbCtlWrite
  extract_lets -merge -underBinder +onlyGivenNames u0 u1
  have ku0 : Keeps [.run, .phase, .glb, .regGlb, .regRst, .regYok, .cnt, .clk, .hif, .plots, .yoke, .alert] s u0 := by
    refine Keeps.after ?_ (setReg_in (b := .regGlb) rfl) rfl
    exact (Keeps.refl s)
  have ku1 : Keeps [.run, .phase, .glb, .regGlb, .regRst, .regYok, .cnt, .clk, .hif, .plots, .yoke, .alert] s u1 := by
    refine keeps_ite ?_ ?_
    · refine Keeps.after ?_ (runSet_keeps ..) rfl
      exact ku0
    · refine keeps_ite ?_ ?_
      · refine Keeps.after ?_ (lockViol_keeps ..) rfl
        exact ku0
      · exact ku0
  refine keeps_ite ?_ ?_
  · refine Keeps.after ?_ (softRequest_keeps ..) rfl
    exact ku1
  · exact ku1

theorem loopbackFree_keeps {a0 a1 s} : Keeps [.regGlb, .regDlk, .links, .freeCtr] s (loopbackFree a0 a1 s) := by
  delta loopbackFree
  extract_lets -merge -underBinder +onlyGivenNames x0
  split
  rename_i x1 x2 u3 hq4
  have ku3 : Keeps [.regGlb, .regDlk, .links, .freeCtr] s u3 := by
    have hp : Keeps [.regGlb, .regDlk, .links, .freeCtr] s (Prod.snd (x2, u3)) := by
      rw [← hq4]
      refine Keeps.after ?_ (drawFree_keeps ..) rfl
      exact (Keeps.refl s)
    exact hp
  refine Keeps.after ?_ (loopbackSet_keeps ..) rfl
  refine Keeps.upd_freeCtr ?_ rfl
  exact ku3

theorem regWrite_keeps {a0 a1 a2 a3 s} :
    Keeps (withRegs [.run, .phase, .glb, .cnt, .clk, .hif, .streams, .msgs, .frames, .plg, .egress, .slots, .sheaves, .groups, .plots, .tiles, .waits, .yoke, .ports, .fm, .bbs, .ptp, .links, .hrw, .trc, .alert, .nextBuild, .nextSid, .freeCtr]) s (regWrite a0 a1 a2 a3 s) := by
  delta regWrite
  split
  · refine Keeps.after ?_ (glbCtlWrite_keeps ..) rfl
    exact (Keeps.refl s)
  · refine Keeps.after ?_ (devTimeLoad_keeps ..) rfl
    exact (Keeps.refl s)
  · refine Keeps.after ?_ (hifEnable_keeps ..) rfl
    exact (Keeps.refl s)
  · refine Keeps.after ?_ (ringEnable_keeps ..) rfl
    exact (Keeps.refl s)
  · refine keeps_ite ?_ ?_
    · refine Keeps.after ?_ (setReg_from_any ..) rfl
      exact (Keeps.refl s)
    · refine Keeps.after ?_ (msixUnmask_keeps ..) rfl
      exact (Keeps.refl s)
  · refine Keeps.after ?_ (trkCtlWrite_keeps ..) rfl
    exact (Keeps.refl s)
  · refine Keeps.after ?_ (fmIndexWrite_keeps ..) rfl
    exact (Keeps.refl s)
  · refine Keeps.after ?_ (fmDataWrite_keeps ..) rfl
    exact (Keeps.refl s)
  · refine Keeps.after ?_ (fmDataWrite_keeps ..) rfl
    exact (Keeps.refl s)
  · refine Keeps.after ?_ (fmDataWrite_keeps ..) rfl
    exact (Keeps.refl s)
  · refine Keeps.after ?_ (fmDataWrite_keeps ..) rfl
    exact (Keeps.refl s)
  · refine Keeps.after ?_ (fmDataWrite_keeps ..) rfl
    exact (Keeps.refl s)
  · refine Keeps.after ?_ (fmDataWrite_keeps ..) rfl
    exact (Keeps.refl s)
  · refine Keeps.after ?_ (fmDataWrite_keeps ..) rfl
    exact (Keeps.refl s)
  · refine Keeps.after ?_ (fmDataWrite_keeps ..) rfl
    exact (Keeps.refl s)
  · refine Keeps.after ?_ (bbpCtlWrite_keeps ..) rfl
    exact (Keeps.refl s)
  · refine Keeps.after ?_ (ptpMasterAdopt_keeps ..) rfl
    exact (Keeps.refl s)
  · refine keeps_ite ?_ ?_
    · refine Keeps.after ?_ (hostRetrain_keeps ..) rfl
      exact (Keeps.refl s)
    · exact (Keeps.refl s)
  · refine Keeps.after ?_ (loopbackFree_keeps ..) rfl
    exact (Keeps.refl s)
  · refine Keeps.after ?_ (hrwWrite_keeps ..) rfl
    exact (Keeps.refl s)
  · refine Keeps.after ?_ (hrwWrite_keeps ..) rfl
    exact (Keeps.refl s)
  · refine Keeps.after ?_ (hrwWrite_keeps ..) rfl
    exact (Keeps.refl s)
  · refine Keeps.after ?_ (hrwWrite_keeps ..) rfl
    exact (Keeps.refl s)
  · refine Keeps.after ?_ (testWrite_keeps ..) rfl
    exact (Keeps.refl s)
  · refine Keeps.after ?_ (plainWrite_keeps ..) rfl
    exact (Keeps.refl s)

theorem cfgFlit_keeps {a0 a1 s} : Keeps [.links] s (cfgFlit a0 a1 s) := by
  delta cfgFlit
  split
  · refine Keeps.after ?_ (sendFlit_keeps ..) rfl
    exact (Keeps.refl s)
  · exact (Keeps.refl s)

theorem writeReg_keeps {a0 a1 s} :
    Keeps (withRegs [.run, .phase, .glb, .cnt, .clk, .hif, .streams, .msgs, .frames, .plg, .egress, .slots, .sheaves, .groups, .plots, .tiles, .waits, .yoke, .ports, .fm, .bbs, .ptp, .links, .hrw, .trc, .alert, .nextBuild, .nextSid, .freeCtr]) s (writeReg a0 a1 s) := by
  delta writeReg
  refine keeps_ite ?_ ?_
  · refine Keeps.after ?_ (lockViol_keeps ..) rfl
    exact (Keeps.refl s)
  · refine keeps_ite ?_ ?_
    · refine keeps_ite ?_ ?_
      · refine Keeps.after ?_ (clearCounter_keeps ..) rfl
        exact (Keeps.refl s)
      · exact (Keeps.refl s)
    · refine keeps_ite ?_ ?_
      · exact (Keeps.refl s)
      · split
        · exact (Keeps.refl s)
        · refine Keeps.after ?_ (regWrite_keeps ..) rfl
          refine Keeps.after ?_ (cfgFlit_keeps ..) rfl
          exact (Keeps.refl s)

theorem execRegisterWrite_keeps {a0 a1 a2 s} :
    KeepsOut (withRegs [.run, .phase, .glb, .cnt, .clk, .hif, .streams, .msgs, .frames, .plg, .egress, .slots, .sheaves, .groups, .plots, .tiles, .waits, .yoke, .ports, .fm, .bbs, .ptp, .links, .hrw, .trc, .alert, .nextBuild, .nextSid, .freeCtr]) s (execRegisterWrite a0 a1 a2 s) := by
  delta execRegisterWrite
  extract_lets -merge -underBinder +onlyGivenNames x0
  refine out_ite ?_ ?_
  · refine out_next ?_
    exact (Keeps.refl s)
  · refine out_ite ?_ ?_
    · trivial
    · refine out_next ?_
      refine Keeps.after ?_ (writeReg_keeps ..) rfl
      exact (Keeps.refl s)

theorem counterLoRead_keeps {a0 s} : Keeps [.clk, .answer] s (counterLoRead a0 s) := by
  delta counterLoRead
  extract_lets -merge -underBinder +onlyGivenNames x0
  refine Keeps.after ?_ (answerWord_keeps ..) rfl
  refine Keeps.upd_clk ?_ rfl
  exact (Keeps.refl s)

theorem execCounterLoRead_keeps {a0 s} : KeepsOut [.clk, .answer] s (execCounterLoRead a0 s) := by
  delta execCounterLoRead
  refine out_next ?_
  refine keeps_ite ?_ ?_
  · refine Keeps.after ?_ (counterLoRead_keeps ..) rfl
    exact (Keeps.refl s)
  · exact (Keeps.refl s)

theorem execCounterHiRead_keeps {a0 s} : KeepsOut [.answer] s (execCounterHiRead a0 s) := by
  delta execCounterHiRead
  refine out_next ?_
  refine keeps_ite ?_ ?_
  · refine Keeps.after ?_ (answerWord_keeps ..) rfl
    exact (Keeps.refl s)
  · exact (Keeps.refl s)

theorem execCounterClear_keeps {a0 s} : KeepsOut [.cnt] s (execCounterClear a0 s) := by
  delta execCounterClear
  refine out_next ?_
  refine keeps_ite ?_ ?_
  · refine Keeps.after ?_ (clearCounter_keeps ..) rfl
    exact (Keeps.refl s)
  · exact (Keeps.refl s)

theorem tstDataRead_keeps {a0 s} : Keeps [.regTst, .plots, .tiles, .answer, .links, .freeCtr] s (tstDataRead a0 s) := by
  delta tstDataRead
  refine keeps_ite ?_ ?_
  · refine Keeps.after ?_ (answerWord_keeps ..) rfl
    exact (Keeps.refl s)
  · split
    rename_i x0 x1 u2 hq3
    have ku2 : Keeps [.regTst, .plots, .tiles, .answer, .links, .freeCtr] s u2 := by
      have hp : Keeps [.regTst, .plots, .tiles, .answer, .links, .freeCtr] s (Prod.snd (x1, u2)) := by
        rw [← hq3]
        refine Keeps.after ?_ (testRead_keeps ..) rfl
        exact (Keeps.refl s)
      exact hp
    refine Keeps.after ?_ (answerWord_keeps ..) rfl
    exact ku2

theorem execTstDataRead_keeps {a0 s} : KeepsOut [.regTst, .plots, .tiles, .answer, .links, .freeCtr] s (execTstDataRead a0 s) := by
  delta execTstDataRead
  refine out_next ?_
  refine keeps_ite ?_ ?_
  · refine Keeps.after ?_ (tstDataRead_keeps ..) rfl
    exact (Keeps.refl s)
  · exact (Keeps.refl s)

theorem execTstDataWrite_keeps {a0 s} : KeepsOut [.regGlb, .regTst, .plots, .tiles, .links, .hrw, .trc] s (execTstDataWrite a0 s) := by
  delta execTstDataWrite
  refine out_next ?_
  refine keeps_ite ?_ ?_
  · refine keeps_ite ?_ ?_
    · refine Keeps.after ?_ (lockViol_keeps ..) rfl
      exact (Keeps.refl s)
    · refine Keeps.after ?_ (testWrite_keeps ..) rfl
      exact (Keeps.refl s)
  · exact (Keeps.refl s)

end Sys2Proof.Machine
end

