-- ==== Sys2Proof/Laws/KeepsStep.lean ====
section
/-! SUPPORT. What each operation and command of Machine/Step.lean changes, and that it keeps the invariant. -/
namespace Sys2Proof.Machine

set_option Elab.async false

theorem State.withFetchWord_keeps {s a1 a2} : Keeps [.pending] s (State.withFetchWord s a1 a2) := by
  delta State.withFetchWord
  split
  · exact (Keeps.refl s)
  · refine Keeps.upd_pending ?_ rfl
    exact (Keeps.refl s)

end Sys2Proof.Machine
end

