-- ==== Sys2Proof/Laws/KeepsStreams.lean ====
section
/-! SUPPORT. What each operation and command of Machine/Streams.lean changes, and that it keeps the invariant. -/
namespace Sys2Proof.Machine

set_option Elab.async false

theorem streamOpen_keeps {a0 a1 a2 s} : Keeps [.cnt, .hif, .streams, .alert] s (streamOpen a0 a1 a2 s) := by
  delta streamOpen
  split
  refine keeps_ite ?_ ?_
  · refine Keeps.after ?_ (complete_keeps ..) rfl
    refine Keeps.after ?_ (setStream_keeps ..) rfl
    exact (Keeps.refl s)
  · refine Keeps.after ?_ (complete_keeps ..) rfl
    exact (Keeps.refl s)

theorem execStreamOpen_keeps {a0 a1 s} : KeepsOut [.cnt, .hif, .streams, .alert] s (execStreamOpen a0 a1 s) := by
  delta execStreamOpen
  refine out_next ?_
  refine descRunHbm_keeps ?_ rfl (fun x0 u1 ku1 => ?_)
  · exact (Keeps.refl s)
  · refine Keeps.after ?_ (streamOpen_keeps ..) rfl
    exact ku1

theorem endHeld_keeps {a0 s} : Keeps [.msgs] s (endHeld a0 s) := by
  delta endHeld
  refine Keeps.after ?_ (attach_keeps ..) rfl
  refine Keeps.after ?_ (updMsg_keeps ..) rfl
  exact (Keeps.refl s)

theorem endHeldAll_keeps {a0 s} :
    Keeps [.cnt, .hif, .streams, .msgs, .egress, .slots, .sheaves, .groups, .plots, .waits, .yoke, .alert, .nextBuild, .nextSid] s (endHeldAll a0 s) := by
  delta endHeldAll
  extract_lets -merge -underBinder +onlyGivenNames x0
  refine Keeps.after ?_ (settleStream_keeps ..) rfl
  refine keeps_each ?_ (fun x1 u2 ku2 => ?_)
  · exact (Keeps.refl s)
  · refine keeps_ite ?_ ?_
    · refine Keeps.after ?_ (updMsg_keeps ..) rfl
      exact ku2
    · refine Keeps.after ?_ (endHeld_keeps ..) rfl
      exact ku2

theorem streamClose_keeps {a0 a1 a2 s} :
    Keeps [.cnt, .hif, .streams, .msgs, .egress, .slots, .sheaves, .groups, .plots, .waits, .yoke, .alert, .nextBuild, .nextSid] s (streamClose a0 a1 a2 s) := by
  delta streamClose
  extract_lets -merge -underBinder +onlyGivenNames x0 x1
  refine keeps_ite ?_ ?_
  · extract_lets -merge -underBinder +onlyGivenNames u2
    have ku2 : Keeps [.cnt, .hif, .streams, .msgs, .egress, .slots, .sheaves, .groups, .plots, .waits, .yoke, .alert, .nextBuild, .nextSid] s u2 := by
      refine Keeps.after ?_ (setStream_keeps ..) rfl
      exact (Keeps.refl s)
    refine Keeps.after ?_ (idleStream_keeps ..) rfl
    refine Keeps.after ?_ (endHeldAll_keeps ..) rfl
    exact ku2
  · refine keeps_ite ?_ ?_
    · exact (Keeps.refl s)
    · refine Keeps.after ?_ (complete_keeps ..) rfl
      exact (Keeps.refl s)

theorem execStreamClose_keeps {a0 a1 s} :
    KeepsOut [.cnt, .hif, .streams, .msgs, .egress, .slots, .sheaves, .groups, .plots, .waits, .yoke, .alert, .nextBuild, .nextSid] s (execStreamClose a0 a1 s) := by
  delta execStreamClose
  refine out_next ?_
  refine descRun_keeps ?_ rfl (fun x0 u1 ku1 => ?_)
  · exact (Keeps.refl s)
  · refine Keeps.after ?_ (streamClose_keeps ..) rfl
    exact ku1

theorem streamReset_keeps {a0 a1 a2 s} :
    Keeps [.cnt, .hif, .streams, .msgs, .egress, .slots, .sheaves, .groups, .plots, .waits, .yoke, .alert, .nextBuild, .nextSid] s (streamReset a0 a1 a2 s) := by
  delta streamReset
  extract_lets -merge -underBinder +onlyGivenNames x0 x1
  refine keeps_ite ?_ ?_
  · refine Keeps.after ?_ (complete_keeps ..) rfl
    exact (Keeps.refl s)
  · refine keeps_ite ?_ ?_
    · refine keeps_ite ?_ ?_
      · exact (Keeps.refl s)
      · refine Keeps.after ?_ (complete_keeps ..) rfl
        exact (Keeps.refl s)
    · extract_lets -merge -underBinder +onlyGivenNames x2 u3 u4 u5
      have ku3 : Keeps [.cnt, .hif, .streams, .msgs, .egress, .slots, .sheaves, .groups, .plots, .waits, .yoke, .alert, .nextBuild, .nextSid] s u3 := by
        unfold u3
        split
        · refine Keeps.after ?_ (complete_keeps ..) rfl
          exact (Keeps.refl s)
        · exact (Keeps.refl s)
      have ku4 : Keeps [.cnt, .hif, .streams, .msgs, .egress, .slots, .sheaves, .groups, .plots, .waits, .yoke, .alert, .nextBuild, .nextSid] s u4 := by
        refine Keeps.after ?_ (updStream_keeps ..) rfl
        exact ku3
      have ku5 : Keeps [.cnt, .hif, .streams, .msgs, .egress, .slots, .sheaves, .groups, .plots, .waits, .yoke, .alert, .nextBuild, .nextSid] s u5 := by
        refine keeps_each ?_ (fun x6 u7 ku7 => ?_)
        · exact ku4
        · extract_lets -merge -underBinder +onlyGivenNames u8
          have ku8 : Keeps [.cnt, .hif, .streams, .msgs, .egress, .slots, .sheaves, .groups, .plots, .waits, .yoke, .alert, .nextBuild, .nextSid] s u8 := by
            refine Keeps.after ?_ (leaveSheaf_keeps ..) rfl
            exact ku7
          refine Keeps.after ?_ (updMsg_keeps ..) rfl
          exact ku8
      refine Keeps.after ?_ (idleStream_keeps ..) rfl
      refine Keeps.after ?_ (settleStream_keeps ..) rfl
      exact ku5

theorem execStreamReset_keeps {a0 a1 s} :
    KeepsOut [.cnt, .hif, .streams, .msgs, .egress, .slots, .sheaves, .groups, .plots, .waits, .yoke, .alert, .nextBuild, .nextSid] s (execStreamReset a0 a1 s) := by
  delta execStreamReset
  refine out_next ?_
  refine descRun_keeps ?_ rfl (fun x0 u1 ku1 => ?_)
  · exact (Keeps.refl s)
  · refine Keeps.after ?_ (streamReset_keeps ..) rfl
    exact ku1

theorem unfence_keeps {ps b q pos f s t} (h : Keeps ps s t) (hq : subParts [.cnt, .hif, .streams, .alert] ps = true)
    (hf : ∀ k u, Keeps ps s u → Keeps ps s (f k u)) : Keeps ps s (unfence b q pos f t) := by
  have hc : ∀ {st u}, Keeps ps s u → Keeps ps s (complete q pos st 0 0 0 u) := fun hu =>
    hu.after (complete_keeps.weaken rfl) hq
  exact keeps_ite (hc h) (keeps_ite (hc h) (hc (hf _ _ (h.after (updStream_keeps.weaken rfl) hq))))

theorem resumeHeld_keeps {a0 s} :
    Keeps [.cnt, .hif, .streams, .msgs, .egress, .slots, .sheaves, .groups, .plots, .tiles, .switches, .sus, .fab, .waits, .yoke, .links, .hrw, .alert, .nextBuild, .nextSid] s (resumeHeld a0 s) := by
  delta resumeHeld
  extract_lets -merge -underBinder +onlyGivenNames x0 u1 u2 u3
  have ku1 : Keeps [.cnt, .hif, .streams, .msgs, .egress, .slots, .sheaves, .groups, .plots, .tiles, .switches, .sus, .fab, .waits, .yoke, .links, .hrw, .alert, .nextBuild, .nextSid] s u1 := by
    refine keeps_each ?_ (fun x4 u5 ku5 => ?_)
    · exact (Keeps.refl s)
    · refine Keeps.after ?_ (updMsg_keeps ..) rfl
      exact ku5
  have ku2 : Keeps [.cnt, .hif, .streams, .msgs, .egress, .slots, .sheaves, .groups, .plots, .tiles, .switches, .sus, .fab, .waits, .yoke, .links, .hrw, .alert, .nextBuild, .nextSid] s u2 := by
    refine Keeps.after ?_ (settleStream_keeps ..) rfl
    exact ku1
  have ku3 : Keeps [.cnt, .hif, .streams, .msgs, .egress, .slots, .sheaves, .groups, .plots, .tiles, .switches, .sus, .fab, .waits, .yoke, .links, .hrw, .alert, .nextBuild, .nextSid] s u3 := by
    refine keeps_each ?_ (fun x6 u7 ku7 => ?_)
    · exact ku2
    · split
      · refine keeps_ite ?_ ?_
        · refine Keeps.after ?_ (launch_keeps ..) rfl
          exact ku7
        · exact ku7
      · exact ku7
  refine Keeps.after ?_ (readySheaves_keeps ..) rfl
  refine Keeps.after ?_ (gatherAll_keeps ..) rfl
  exact ku3

theorem execStreamUnfenceResume_keeps {a0 a1 s} :
    KeepsOut [.cnt, .hif, .streams, .msgs, .egress, .slots, .sheaves, .groups, .plots, .tiles, .switches, .sus, .fab, .waits, .yoke, .links, .hrw, .alert, .nextBuild, .nextSid] s (execStreamUnfenceResume a0 a1 s) := by
  delta execStreamUnfenceResume
  refine out_next ?_
  refine descRun_keeps ?_ rfl (fun x0 u1 ku1 => ?_)
  · exact (Keeps.refl s)
  · refine unfence_keeps ?_ rfl (fun x2 u3 ku3 => ?_)
    · exact ku1
    · refine Keeps.after ?_ (resumeHeld_keeps ..) rfl
      exact ku3

theorem execStreamUnfenceDiscard_keeps {a0 a1 s} :
    KeepsOut [.cnt, .hif, .streams, .msgs, .egress, .slots, .sheaves, .groups, .plots, .waits, .yoke, .alert, .nextBuild, .nextSid] s (execStreamUnfenceDiscard a0 a1 s) := by
  delta execStreamUnfenceDiscard
  refine out_next ?_
  refine descRun_keeps ?_ rfl (fun x0 u1 ku1 => ?_)
  · exact (Keeps.refl s)
  · refine unfence_keeps ?_ rfl (fun x2 u3 ku3 => ?_)
    · exact ku1
    · refine Keeps.after ?_ (endHeldAll_keeps ..) rfl
      exact ku3

theorem kvRead_keeps {a0 a1 a2 a3 s} : Keeps [.regMem, .cnt, .hif, .hbm, .poison, .mem, .links, .trc, .alert] s (kvRead a0 a1 a2 a3 s) := by
  delta kvRead
  extract_lets -merge -underBinder +onlyGivenNames x0 x1 x2
  refine keeps_ite ?_ ?_
  · refine Keeps.after ?_ (complete_keeps ..) rfl
    exact (Keeps.refl s)
  · refine keeps_ite ?_ ?_
    · refine Keeps.after ?_ (complete_keeps ..) rfl
      exact (Keeps.refl s)
    · refine keeps_ite ?_ ?_
      · refine Keeps.after ?_ (complete_keeps ..) rfl
        exact (Keeps.refl s)
      · refine keeps_ite ?_ ?_
        · refine Keeps.after ?_ (complete_keeps ..) rfl
          exact (Keeps.refl s)
        · extract_lets -merge -underBinder +onlyGivenNames x3
          split
          rename_i x4 u5 x6 x7 hq8
          have ku5 : Keeps [.regMem, .cnt, .hif, .hbm, .poison, .mem, .links, .trc, .alert] s u5 := by
            have hp : Keeps [.regMem, .cnt, .hif, .hbm, .poison, .mem, .links, .trc, .alert] s (Prod.fst (u5, (x6, x7))) := by
              rw [← hq8]
              refine keeps_foldl_p (p := Prod.fst) ?_ (fun u10 x9 ku10 => ?_)
              · refine keeps_fst ?_
                exact (Keeps.refl s)
              · split
                rename_i x11 u12 x13 x14 hq15
                have ku12 : Keeps [.regMem, .cnt, .hif, .hbm, .poison, .mem, .links, .trc, .alert] s u12 := by
                  have hp : Keeps [.regMem, .cnt, .hif, .hbm, .poison, .mem, .links, .trc, .alert] s (Prod.fst (u12, (x13, x14))) := by
                    rw [← hq15]
                    refine Keeps.after ?_ (homeRead_keeps ..) rfl
                    exact ku10
                  exact hp
                refine keeps_fst ?_
                exact ku12
            exact hp
          refine Keeps.after ?_ (complete_keeps ..) rfl
          refine Keeps.after ?_ (dmaWrite_keeps ..) rfl
          exact ku5

theorem execKvRead_keeps {a0 a1 a2 s} :
    KeepsOut [.regMem, .cnt, .hif, .hbm, .poison, .mem, .links, .trc, .alert] s (execKvRead a0 a1 a2 s) := by
  delta execKvRead
  refine out_next ?_
  refine descRunHbm_keeps ?_ rfl (fun x0 u1 ku1 => ?_)
  · exact (Keeps.refl s)
  · refine Keeps.after ?_ (kvRead_keeps ..) rfl
    exact ku1

theorem kvWrite_keeps {a0 a1 a2 a3 s} : Keeps [.cnt, .hif, .streams, .hbm, .poison, .mem, .links, .alert] s (kvWrite a0 a1 a2 a3 s) := by
  delta kvWrite
  extract_lets -merge -underBinder +onlyGivenNames x0 x1 x2
  refine keeps_ite ?_ ?_
  · refine Keeps.after ?_ (complete_keeps ..) rfl
    exact (Keeps.refl s)
  · refine keeps_ite ?_ ?_
    · refine Keeps.after ?_ (complete_keeps ..) rfl
      exact (Keeps.refl s)
    · refine keeps_ite ?_ ?_
      · refine Keeps.after ?_ (complete_keeps ..) rfl
        exact (Keeps.refl s)
      · refine keeps_ite ?_ ?_
        · refine Keeps.after ?_ (complete_keeps ..) rfl
          exact (Keeps.refl s)
        · split
          · refine Keeps.after ?_ (complete_keeps ..) rfl
            exact (Keeps.refl s)
          · extract_lets -merge -underBinder +onlyGivenNames x3 x4 x5 u6
            have ku6 : Keeps [.cnt, .hif, .streams, .hbm, .poison, .mem, .links, .alert] s u6 := by
              refine keeps_each ?_ (fun x7 u8 ku8 => ?_)
              · exact (Keeps.refl s)
              · refine Keeps.after ?_ (homeWrite_keeps ..) rfl
                exact ku8
            refine Keeps.after ?_ (complete_keeps ..) rfl
            refine Keeps.after ?_ (setStream_keeps ..) rfl
            exact ku6

theorem execKvWrite_keeps {a0 a1 a2 s} :
    KeepsOut [.cnt, .hif, .streams, .hbm, .poison, .mem, .links, .alert] s (execKvWrite a0 a1 a2 s) := by
  delta execKvWrite
  refine out_next ?_
  refine descRunHbm_keeps ?_ rfl (fun x0 u1 ku1 => ?_)
  · exact (Keeps.refl s)
  · refine Keeps.after ?_ (kvWrite_keeps ..) rfl
    exact ku1

end Sys2Proof.Machine
end

