-- ==== Sys2Proof/Laws/KeepsTest.lean ====
section
/-! SUPPORT. What each operation and command of Machine/Test.lean changes, and that it keeps the invariant. -/
namespace Sys2Proof.Machine

set_option Elab.async false

theorem setTap_keeps {ps f s t} (h : Keeps ps s t) (hq : subParts [.tap] ps = true)
    (hf : ∀ x : Tap, x.diesel.testBit 0 = true → (f x).diesel.testBit 0 = true) : Keeps ps s (setTap f t) :=
  Keeps.upd_tap h (hf t.tap) hq

theorem tapReset_keeps {s} : Keeps [.run, .phase, .glb, .regYok, .cnt, .clk, .hif, .plots, .yoke, .tap, .alert] s (tapReset s) :=
  (setTap_keeps (ps := [.run, .phase, .glb, .regYok, .cnt, .clk, .hif, .plots, .yoke, .tap, .alert]) (Keeps.refl s) rfl (fun _ _ => (by decide : Nat.testBit 1 0 = true))).after applyRun_keeps rfl

theorem execJtagTrst_keeps {s} :
    KeepsOut [.run, .phase, .glb, .regYok, .cnt, .clk, .hif, .plots, .yoke, .tap, .alert] s (execJtagTrst s) := by
  delta execJtagTrst
  refine out_next ?_
  refine keeps_ite ?_ ?_
  · refine Keeps.after ?_ (tapReset_keeps ..) rfl
    exact (Keeps.refl s)
  · exact (Keeps.refl s)

theorem execTestLogicReset_keeps {s} :
    KeepsOut [.run, .phase, .glb, .regYok, .cnt, .clk, .hif, .plots, .yoke, .tap, .alert] s (execTestLogicReset s) := by
  delta execTestLogicReset
  refine out_next ?_
  refine keeps_ite ?_ ?_
  · refine Keeps.after ?_ (tapReset_keeps ..) rfl
    exact (Keeps.refl s)
  · exact (Keeps.refl s)

theorem tapLoad_keeps {ps i f s t} (h :
    Keeps ps s t) (hq : subParts [.run, .phase, .glb, .regYok, .cnt, .clk, .hif, .plots, .yoke, .tap, .alert] ps = true)
    (hf : ∀ u, Keeps ps s u → Keeps ps s (f u)) : Keeps ps s (tapLoad i f t) := by
  have ht : ∀ {g : Tap → Tap}, (∀ x, (g x).diesel = x.diesel) → Keeps ps s (setTap g t) := fun hg =>
    setTap_keeps h (subParts_trans rfl hq) (fun x hx => by rw [hg x]; exact hx)
  have eb := ht (g := fun x => { x with ir := .bypass, tlr := false }) (fun _ => rfl)
  have ei := ht (g := fun x => { x with ir := i, tlr := false }) (fun _ => rfl)
  unfold tapLoad
  split
  · exact h
  · split
    · exact eb.after bump_keeps (subParts_trans rfl hq)
    · exact hf _ (ei.after applyRun_keeps (subParts_trans rfl hq))

theorem execBypass_keeps {s} : KeepsOut [.run, .phase, .glb, .regYok, .cnt, .clk, .hif, .plots, .yoke, .tap, .alert] s (execBypass s) := by
  delta execBypass
  refine out_next ?_
  refine tapLoad_keeps ?_ rfl (fun u0 ku0 => ?_)
  · exact (Keeps.refl s)
  · exact ku0

theorem execIdcode_keeps {s} : KeepsOut [.run, .phase, .glb, .regYok, .cnt, .clk, .hif, .plots, .yoke, .tap, .alert] s (execIdcode s) := by
  delta execIdcode
  refine out_next ?_
  refine tapLoad_keeps ?_ rfl (fun u0 ku0 => ?_)
  · exact (Keeps.refl s)
  · refine setTap_keeps ?_ rfl (fun _ h => h)
    exact ku0

theorem execSamplePreload_keeps {a0 a1 s} :
    KeepsOut [.run, .phase, .glb, .regYok, .cnt, .clk, .hif, .plots, .yoke, .tap, .alert] s (execSamplePreload a0 a1 s) := by
  delta execSamplePreload
  refine out_next ?_
  refine tapLoad_keeps ?_ rfl (fun u0 ku0 => ?_)
  · exact (Keeps.refl s)
  · refine setTap_keeps ?_ rfl (fun _ h => h)
    exact ku0

theorem execExtest_keeps {a0 s} :
    KeepsOut [.run, .phase, .glb, .regYok, .cnt, .clk, .hif, .plots, .yoke, .tap, .alert] s (execExtest a0 s) := by
  delta execExtest
  refine out_next ?_
  refine tapLoad_keeps ?_ rfl (fun u0 ku0 => ?_)
  · exact (Keeps.refl s)
  · refine setTap_keeps ?_ rfl (fun _ h => h)
    exact ku0

theorem execClamp_keeps {s} : KeepsOut [.run, .phase, .glb, .regYok, .cnt, .clk, .hif, .plots, .yoke, .tap, .alert] s (execClamp s) := by
  delta execClamp
  refine out_next ?_
  refine tapLoad_keeps ?_ rfl (fun u0 ku0 => ?_)
  · exact (Keeps.refl s)
  · exact ku0

theorem execHighz_keeps {s} : KeepsOut [.run, .phase, .glb, .regYok, .cnt, .clk, .hif, .plots, .yoke, .tap, .alert] s (execHighz s) := by
  delta execHighz
  refine out_next ?_
  refine tapLoad_keeps ?_ rfl (fun u0 ku0 => ?_)
  · exact (Keeps.refl s)
  · exact ku0

theorem execExtestPulse_keeps {a0 s} :
    KeepsOut [.run, .phase, .glb, .regYok, .cnt, .clk, .hif, .plots, .yoke, .tap, .alert] s (execExtestPulse a0 s) := by
  delta execExtestPulse
  refine out_next ?_
  refine tapLoad_keeps ?_ rfl (fun u0 ku0 => ?_)
  · exact (Keeps.refl s)
  · refine setTap_keeps ?_ rfl (fun _ h => h)
    exact ku0

theorem execExtestTrain_keeps {a0 s} :
    KeepsOut [.run, .phase, .glb, .regYok, .cnt, .clk, .hif, .plots, .yoke, .tap, .alert] s (execExtestTrain a0 s) := by
  delta execExtestTrain
  refine out_next ?_
  refine tapLoad_keeps ?_ rfl (fun u0 ku0 => ?_)
  · exact (Keeps.refl s)
  · refine setTap_keeps ?_ rfl (fun _ h => h)
    exact ku0

theorem wrapperOp_keeps {op s} : Keeps [.fuses, .hbm, .poison, .mem, .tap] s (wrapperOp op s) := by
  cases op with
  | connect => exact Keeps.refl s
  | selfTest => exact Keeps.upd_hbm_poison_mem (Keeps.refl s) twf_filter twf_filter rfl
  | laneTest result => exact setTap_keeps (f := fun t => { t with tdo := result }) (ps := [.fuses, .hbm, .poison, .mem, .tap]) (Keeps.refl s) rfl (fun _ h => h)
  | softRepair lane => exact Keeps.upd_mem (Keeps.refl s) rfl
  | hardRepair lane => exact Keeps.upd_fuses (Keeps.refl s) rfl
  | temperature v => exact setTap_keeps (f := fun x => { x with tdo := v }) (ps := [.fuses, .hbm, .poison, .mem, .tap]) (Keeps.refl s) rfl (fun _ h => h)

theorem execHbm1500_keeps {a0 s} :
    KeepsOut [.run, .phase, .fuses, .glb, .regYok, .cnt, .clk, .hif, .plots, .yoke, .hbm, .poison, .mem, .tap, .alert] s (execHbm1500 a0 s) := by
  delta execHbm1500
  refine out_next ?_
  refine tapLoad_keeps ?_ rfl (fun u0 ku0 => ?_)
  · exact (Keeps.refl s)
  · refine Keeps.after ?_ (wrapperOp_keeps ..) rfl
    exact ku0

theorem execDiesel_keeps {sel s} : KeepsOut [.run, .phase, .glb, .regYok, .cnt, .clk, .hif, .plots, .yoke, .tap, .alert] s (execDiesel sel s) := by
  refine out_next (tapLoad_keeps (Keeps.refl s) rfl (fun u hu => setTap_keeps hu rfl (fun _ _ => ?_)))
  simp

theorem tstaccAccess_keeps {a0 a1 a2 a3 s} :
    Keeps (withRegs [.run, .phase, .glb, .cnt, .clk, .hif, .streams, .msgs, .frames, .plg, .egress, .slots, .sheaves, .groups, .plots, .tiles, .waits, .yoke, .ports, .fm, .bbs, .ptp, .links, .hrw, .trc, .alert, .nextBuild, .nextSid, .freeCtr]) s (tstaccAccess a0 a1 a2 a3 s).2 := by
  delta tstaccAccess
  refine keeps_ite_p (p := Prod.snd) ?_ ?_
  · refine keeps_snd ?_
    exact (Keeps.refl s)
  · refine keeps_ite_p (p := Prod.snd) ?_ ?_
    · refine keeps_ite_p (p := Prod.snd) ?_ ?_
      · refine keeps_snd ?_
        exact (Keeps.refl s)
      · refine keeps_ite_p (p := Prod.snd) ?_ ?_
        · refine Keeps.after ?_ (testRead_keeps ..) rfl
          exact (Keeps.refl s)
        · split
          · refine keeps_ite_p (p := Prod.snd) ?_ ?_
            · refine keeps_snd ?_
              exact (Keeps.refl s)
            · refine keeps_snd ?_
              exact (Keeps.refl s)
          · refine keeps_snd ?_
            exact (Keeps.refl s)
    · refine keeps_ite_p (p := Prod.snd) ?_ ?_
      · refine keeps_snd ?_
        refine Keeps.after ?_ (writeReg_keeps ..) rfl
        exact (Keeps.refl s)
      · refine keeps_ite_p (p := Prod.snd) ?_ ?_
        · refine Keeps.after ?_ (testRead_keeps ..) rfl
          exact (Keeps.refl s)
        · refine keeps_snd ?_
          exact (Keeps.refl s)

theorem execTstacc_keeps {a0 a1 a2 a3 s} :
    KeepsOut (withRegs [.run, .phase, .glb, .cnt, .clk, .hif, .streams, .msgs, .frames, .plg, .egress, .slots, .sheaves, .groups, .plots, .tiles, .waits, .yoke, .ports, .fm, .bbs, .ptp, .links, .hrw, .tap, .trc, .alert, .nextBuild, .nextSid, .freeCtr]) s (execTstacc a0 a1 a2 a3 s) := by
  delta execTstacc
  refine out_next ?_
  refine tapLoad_keeps ?_ rfl (fun u0 ku0 => ?_)
  · exact (Keeps.refl s)
  · extract_lets -merge -underBinder +onlyGivenNames x1
    refine setTap_keeps ?_ rfl (fun _ h => h)
    unfold x1
    refine Keeps.after ?_ (tstaccAccess_keeps ..) rfl
    exact ku0

end Sys2Proof.Machine
end

