-- ==== Sys2Proof/Laws/KeepsTick.lean ====
section
/-! SUPPORT. What each operation and command of Machine/Tick.lean changes, and that it keeps the invariant. -/
namespace Sys2Proof.Machine

set_option Elab.async false

theorem tickYoke_keeps {s} : Keeps [.cnt, .hif, .yoke, .alert] s (tickYoke s) := by
  delta tickYoke
  extract_lets -merge -underBinder +onlyGivenNames u0
  extract_lets -merge -underBinder +onlyGivenNames u1
  have ku1 : Keeps [.cnt, .hif, .yoke, .alert] s u1 := by
    refine keeps_ite ?_ ?_
    · exact (Keeps.refl s)
    · refine keeps_each ?_ (fun x2 u3 ku3 => ?_)
      · refine Keeps.upd_yoke ?_ rfl
        exact (Keeps.refl s)
      · refine Keeps.after ?_ (setYd_keeps ..) rfl
        exact ku3
  refine keeps_ite ?_ ?_
  · refine Keeps.after ?_ (bump_keeps ..) rfl
    exact ku1
  · exact ku1

theorem pmuPlot_keeps {a0 s} : Keeps [.cnt, .hif, .alert] s (pmuPlot a0 s) := by
  delta pmuPlot
  extract_lets -merge -underBinder +onlyGivenNames x0 x1 x2 u3 u4
  have ku3 : Keeps [.cnt, .hif, .alert] s u3 := by
    refine Keeps.after ?_ (pmuCount_keeps ..) rfl
    exact (Keeps.refl s)
  have ku4 : Keeps [.cnt, .hif, .alert] s u4 := by
    refine Keeps.after ?_ (pmuCount_keeps ..) rfl
    exact ku3
  refine Keeps.after ?_ (pmuCount_keeps ..) rfl
  exact ku4

theorem tickPmu_keeps {s} : Keeps [.cnt, .hif, .alert] s (tickPmu s) := by
  delta tickPmu
  refine keeps_ite ?_ ?_
  · exact (Keeps.refl s)
  · refine keeps_each ?_ (fun x0 u1 ku1 => ?_)
    · exact (Keeps.refl s)
    · refine keeps_each ?_ (fun x2 u3 ku3 => ?_)
      · exact ku1
      · refine Keeps.after ?_ (pmuPlot_keeps ..) rfl
        exact ku3

theorem tick_keeps {s} : Keeps [.cnt, .clk, .hif, .msgs, .egress, .yoke, .bbs, .alert] s (tick s) := by
  delta tick
  refine keeps_ite ?_ ?_
  · exact (Keeps.refl s)
  · extract_lets -merge -underBinder +onlyGivenNames u0 x1
    have ku0 : Keeps [.cnt, .clk, .hif, .msgs, .egress, .yoke, .bbs, .alert] s u0 := by
      refine Keeps.after ?_ (tickPmu_keeps ..) rfl
      refine Keeps.after ?_ (tickYoke_keeps ..) rfl
      exact (Keeps.refl s)
    refine Keeps.after ?_ (bbSettle_keeps ..) rfl
    refine Keeps.after ?_ (fenceCheck_keeps ..) rfl
    refine Keeps.upd_clk ?_ rfl
    exact ku0

end Sys2Proof.Machine
end

