-- ==== Sys2Proof/Laws/KeepsTileVec.lean ====
section
/-! SUPPORT. What each operation and command of Machine/TileVec.lean changes, and that it keeps the invariant. -/
namespace Sys2Proof.Machine

set_option Elab.async false

theorem execValu_keeps {a0 s} : KeepsOut [.cnt, .hif, .tiles, .links, .trc, .alert] s (execValu a0 s) := by
  delta execValu
  refine out_next ?_
  refine Keeps.after ?_ (tileInstr_keeps ..) rfl
  exact (Keeps.refl s)

theorem execVbcst_keeps {a0 s} : KeepsOut [.cnt, .hif, .tiles, .links, .trc, .alert] s (execVbcst a0 s) := by
  delta execVbcst
  refine out_next ?_
  refine Keeps.after ?_ (tileInstr_keeps ..) rfl
  exact (Keeps.refl s)

theorem execVext_keeps {a0 s} : KeepsOut [.cnt, .hif, .tiles, .links, .trc, .alert] s (execVext a0 s) := by
  delta execVext
  refine out_next ?_
  refine Keeps.after ?_ (tileInstr_keeps ..) rfl
  exact (Keeps.refl s)

theorem execVins_keeps {a0 s} : KeepsOut [.cnt, .hif, .tiles, .links, .trc, .alert] s (execVins a0 s) := by
  delta execVins
  refine out_next ?_
  refine Keeps.after ?_ (tileInstr_keeps ..) rfl
  exact (Keeps.refl s)

theorem execVcmp_keeps {a0 s} : KeepsOut [.cnt, .hif, .tiles, .links, .trc, .alert] s (execVcmp a0 s) := by
  delta execVcmp
  refine out_next ?_
  refine Keeps.after ?_ (tileInstr_keeps ..) rfl
  exact (Keeps.refl s)

theorem macInstr_keeps {a0 a1 a2 s} : Keeps [.cnt, .hif, .tiles, .links, .trc, .alert] s (macInstr a0 a1 a2 s) := by
  delta macInstr
  extract_lets -merge -underBinder +onlyGivenNames x0
  split
  extract_lets -merge -underBinder +onlyGivenNames x1
  refine Keeps.after ?_ (tileInstr_keeps ..) rfl
  refine keeps_ite ?_ ?_
  · refine Keeps.after ?_ (pmuCount_keeps ..) rfl
    exact (Keeps.refl s)
  · exact (Keeps.refl s)

theorem execVmac_keeps {a0 s} : KeepsOut [.cnt, .hif, .tiles, .links, .trc, .alert] s (execVmac a0 s) := by
  delta execVmac
  refine out_next ?_
  refine Keeps.after ?_ (macInstr_keeps ..) rfl
  exact (Keeps.refl s)

theorem execVmacb_keeps {a0 s} : KeepsOut [.cnt, .hif, .tiles, .links, .trc, .alert] s (execVmacb a0 s) := by
  delta execVmacb
  refine out_next ?_
  refine Keeps.after ?_ (macInstr_keeps ..) rfl
  exact (Keeps.refl s)

theorem aopInstr_keeps {a0 a1 a2 s} : Keeps [.cnt, .hif, .tiles, .links, .trc, .alert] s (aopInstr a0 a1 a2 s) := by
  delta aopInstr
  extract_lets -merge -underBinder +onlyGivenNames x0
  refine keeps_ite ?_ ?_
  · refine Keeps.after ?_ (tileInstr_keeps ..) rfl
    exact (Keeps.refl s)
  · refine keeps_ite ?_ ?_
    · refine Keeps.after ?_ (tileInstr_keeps ..) rfl
      exact (Keeps.refl s)
    · exact (Keeps.refl s)

theorem execAopZero_keeps {a0 s} : KeepsOut [.cnt, .hif, .tiles, .links, .trc, .alert] s (execAopZero a0 s) := by
  delta execAopZero
  refine out_next ?_
  refine Keeps.after ?_ (aopInstr_keeps ..) rfl
  exact (Keeps.refl s)

theorem execAopCopy_keeps {a0 s} : KeepsOut [.cnt, .hif, .tiles, .links, .trc, .alert] s (execAopCopy a0 s) := by
  delta execAopCopy
  refine out_next ?_
  refine Keeps.after ?_ (aopInstr_keeps ..) rfl
  exact (Keeps.refl s)

theorem execAopExt_keeps {a0 s} : KeepsOut [.cnt, .hif, .tiles, .links, .trc, .alert] s (execAopExt a0 s) := by
  delta execAopExt
  refine out_next ?_
  refine Keeps.after ?_ (aopInstr_keeps ..) rfl
  exact (Keeps.refl s)

theorem execAopAddv_keeps {a0 s} : KeepsOut [.cnt, .hif, .tiles, .links, .trc, .alert] s (execAopAddv a0 s) := by
  delta execAopAddv
  refine out_next ?_
  refine Keeps.after ?_ (aopInstr_keeps ..) rfl
  exact (Keeps.refl s)

theorem execAopExtf_keeps {a0 s} : KeepsOut [.cnt, .hif, .tiles, .links, .trc, .alert] s (execAopExtf a0 s) := by
  delta execAopExtf
  refine out_next ?_
  refine Keeps.after ?_ (aopInstr_keeps ..) rfl
  exact (Keeps.refl s)

theorem execGrs_keeps {a0 s} : KeepsOut [.cnt, .hif, .tiles, .links, .trc, .alert] s (execGrs a0 s) := by
  delta execGrs
  refine out_next ?_
  refine Keeps.after ?_ (tileInstr_keeps ..) rfl
  exact (Keeps.refl s)

theorem execReq_keeps {a0 s} : KeepsOut [.cnt, .hif, .tiles, .links, .trc, .alert] s (execReq a0 s) := by
  delta execReq
  refine out_next ?_
  refine Keeps.after ?_ (tileInstr_keeps ..) rfl
  exact (Keeps.refl s)

theorem execCvt_keeps {a0 s} : KeepsOut [.cnt, .hif, .tiles, .links, .trc, .alert] s (execCvt a0 s) := by
  delta execCvt
  refine out_next ?_
  refine Keeps.after ?_ (tileInstr_keeps ..) rfl
  exact (Keeps.refl s)

theorem execRcp_keeps {a0 s} : KeepsOut [.cnt, .hif, .tiles, .links, .trc, .alert] s (execRcp a0 s) := by
  delta execRcp
  refine out_next ?_
  refine Keeps.after ?_ (tileInstr_keeps ..) rfl
  exact (Keeps.refl s)

end Sys2Proof.Machine
end

