-- ==== Sys2Proof/Laws/KeepsTrunkPhy.lean ====
section
/-! SUPPORT. What each operation and command of Machine/TrunkPhy.lean changes, and that it keeps the invariant. -/
namespace Sys2Proof.Machine

set_option Elab.async false

theorem updRx_keeps {a0 a1 s} : Keeps [.ports] s (updRx a0 a1 s) := by
  delta updRx
  refine Keeps.after ?_ (updPort_keeps ..) rfl
  exact (Keeps.refl s)

theorem loadRx_keeps {a0 a1 a2 s} : Keeps [.ports] s (loadRx a0 a1 a2 s) := by
  delta loadRx
  refine Keeps.after ?_ (updPort_keeps ..) rfl
  exact (Keeps.refl s)

theorem endRx_keeps {a0 s} : Keeps [.ports] s (endRx a0 s) := by
  delta endRx
  refine Keeps.after ?_ (updPort_keeps ..) rfl
  exact (Keeps.refl s)

theorem seedLoad_keeps {a0 a1 a2 a3 s} : Keeps [.ports] s (seedLoad a0 a1 a2 a3 s) := by
  delta seedLoad
  extract_lets -merge -underBinder +onlyGivenNames x0 x1 x2
  refine keeps_ite ?_ ?_
  · exact (Keeps.refl s)
  · refine keeps_ite ?_ ?_
    · split
      · refine keeps_ite ?_ ?_
        · exact (Keeps.refl s)
        · refine Keeps.after ?_ (loadRx_keeps ..) rfl
          exact (Keeps.refl s)
      · exact (Keeps.refl s)
    · split
      · exact (Keeps.refl s)
      · split
        · exact (Keeps.refl s)
        · refine Keeps.after ?_ (loadRx_keeps ..) rfl
          exact (Keeps.refl s)

theorem execFieldMapSeedLoad_keeps {a0 a1 a2 a3 s} : KeepsOut [.ports] s (execFieldMapSeedLoad a0 a1 a2 a3 s) := by
  delta execFieldMapSeedLoad
  refine out_next ?_
  refine Keeps.after ?_ (seedLoad_keeps ..) rfl
  exact (Keeps.refl s)

theorem impulseFire_keeps {a0 s} : Keeps [.cnt, .hif, .ports, .alert] s (impulseFire a0 s) := by
  delta impulseFire
  split
  · exact (Keeps.refl s)
  · refine Keeps.after ?_ (trkCount_keeps ..) rfl
    refine Keeps.after ?_ (updRx_keeps ..) rfl
    exact (Keeps.refl s)

theorem execImpulseFire_keeps {a0 s} : KeepsOut [.cnt, .hif, .ports, .alert] s (execImpulseFire a0 s) := by
  delta execImpulseFire
  refine out_next ?_
  refine Keeps.after ?_ (impulseFire_keeps ..) rfl
  exact (Keeps.refl s)

theorem execImpulseRelease_keeps {a0 s} : KeepsOut [.ports] s (execImpulseRelease a0 s) := by
  delta execImpulseRelease
  refine out_next ?_
  refine Keeps.after ?_ (updRx_keeps ..) rfl
  exact (Keeps.refl s)

theorem checkGiant_keeps {a0 a1 s} :
    Keeps [.cnt, .hif, .streams, .msgs, .frames, .plg, .egress, .slots, .sheaves, .groups, .plots, .waits, .yoke, .alert, .nextBuild, .nextSid] s (checkGiant a0 a1 s) := by
  delta checkGiant
  split
  · exact (Keeps.refl s)
  · refine keeps_ite ?_ ?_
    · refine Keeps.after ?_ (trkCount_keeps ..) rfl
      refine Keeps.after ?_ (declareGiant_keeps ..) rfl
      exact (Keeps.refl s)
    · exact (Keeps.refl s)

theorem appendFrame_keeps {a0 a1 s} : Keeps [.frames] s (appendFrame a0 a1 s) := by
  delta appendFrame
  refine Keeps.after ?_ (updFrame_keeps ..) rfl
  exact (Keeps.refl s)

theorem addCodeword_keeps {a0 a1 a2 s} :
    Keeps [.cnt, .hif, .streams, .msgs, .frames, .plg, .egress, .slots, .sheaves, .groups, .plots, .waits, .yoke, .ports, .alert, .nextFid, .nextBuild, .nextSid] s (addCodeword a0 a1 a2 s) := by
  delta addCodeword
  split
  · exact (Keeps.refl s)
  · split
    rename_i x0 u1 x2 x3 hq4
    have ku1 : Keeps [.cnt, .hif, .streams, .msgs, .frames, .plg, .egress, .slots, .sheaves, .groups, .plots, .waits, .yoke, .ports, .alert, .nextFid, .nextBuild, .nextSid] s u1 := by
      have hp : Keeps [.cnt, .hif, .streams, .msgs, .frames, .plg, .egress, .slots, .sheaves, .groups, .plots, .waits, .yoke, .ports, .alert, .nextFid, .nextBuild, .nextSid] s (Prod.fst (u1, (x2, x3))) := by
        rw [← hq4]
        split
        · refine keeps_fst ?_
          refine Keeps.after ?_ (bump_keeps ..) rfl
          exact (Keeps.refl s)
        · refine keeps_fst ?_
          refine Keeps.after ?_ (trkCount_keeps ..) rfl
          exact (Keeps.refl s)
      exact hp
    extract_lets -merge -underBinder +onlyGivenNames x5 u6
    have ku6 : Keeps [.cnt, .hif, .streams, .msgs, .frames, .plg, .egress, .slots, .sheaves, .groups, .plots, .waits, .yoke, .ports, .alert, .nextFid, .nextBuild, .nextSid] s u6 := by
      refine Keeps.after ?_ (updRx_keeps ..) rfl
      exact ku1
    refine keeps_ite ?_ ?_
    · refine Keeps.after ?_ (updRx_keeps ..) rfl
      exact ku6
    · refine keeps_ite ?_ ?_
      · split
        · exact ku6
        · split
          · exact ku6
          · refine keeps_ite ?_ ?_
            · extract_lets -merge -underBinder +onlyGivenNames u7 u8
              have ku7 : Keeps [.cnt, .hif, .streams, .msgs, .frames, .plg, .egress, .slots, .sheaves, .groups, .plots, .waits, .yoke, .ports, .alert, .nextFid, .nextBuild, .nextSid] s u7 := by
                refine Keeps.after ?_ (updFrame_keeps ..) rfl
                exact ku6
              have ku8 : Keeps [.cnt, .hif, .streams, .msgs, .frames, .plg, .egress, .slots, .sheaves, .groups, .plots, .waits, .yoke, .ports, .alert, .nextFid, .nextBuild, .nextSid] s u8 := by
                refine Keeps.after ?_ (updPort_keeps ..) rfl
                exact ku7
              refine Keeps.after ?_ (checkGiant_keeps ..) rfl
              refine Keeps.after ?_ (bytesCame_keeps ..) rfl
              exact ku8
            · exact ku6
      · extract_lets -merge -underBinder +onlyGivenNames u9
        have ku9 : Keeps [.cnt, .hif, .streams, .msgs, .frames, .plg, .egress, .slots, .sheaves, .groups, .plots, .waits, .yoke, .ports, .alert, .nextFid, .nextBuild, .nextSid] s u9 := by
          unfold u9
          split
          · refine Keeps.after ?_ (bytesCame_keeps ..) rfl
            refine Keeps.after ?_ (appendFrame_keeps ..) rfl
            exact ku6
          · extract_lets -merge -underBinder +onlyGivenNames x10
            refine Keeps.after ?_ (updRx_keeps ..) rfl
            refine Keeps.after ?_ (addFrame_keeps ..) rfl
            exact ku6
        split
        · refine Keeps.after ?_ (checkGiant_keeps ..) rfl
          exact ku9
        · exact ku9

theorem codewordDecode_keeps {a0 a1 s} :
    Keeps [.cnt, .hif, .streams, .msgs, .frames, .plg, .egress, .slots, .sheaves, .groups, .plots, .waits, .yoke, .ports, .alert, .nextFid, .nextBuild, .nextSid] s (codewordDecode a0 a1 s) := by
  delta codewordDecode
  split
  · exact (Keeps.refl s)
  · extract_lets -merge -underBinder +onlyGivenNames x0 x1
    refine keeps_ite ?_ ?_
    · exact (Keeps.refl s)
    · split
      refine keeps_each ?_ (fun x2 u3 ku3 => ?_)
      · refine Keeps.after ?_ (updRx_keeps ..) rfl
        exact (Keeps.refl s)
      · refine Keeps.after ?_ (addCodeword_keeps ..) rfl
        exact ku3

theorem execCodewordDecode_keeps {a0 a1 s} :
    KeepsOut [.cnt, .hif, .streams, .msgs, .frames, .plg, .egress, .slots, .sheaves, .groups, .plots, .waits, .yoke, .ports, .bbs, .alert, .nextFid, .nextBuild, .nextSid] s (execCodewordDecode a0 a1 s) := by
  delta execCodewordDecode
  refine out_next ?_
  refine Keeps.after ?_ (bbSettle_keeps ..) rfl
  refine Keeps.after ?_ (codewordDecode_keeps ..) rfl
  exact (Keeps.refl s)

theorem slotMissed_keeps {a0 s} : Keeps [.cnt, .hif, .ports, .alert] s (slotMissed a0 s) := by
  delta slotMissed
  split
  · exact (Keeps.refl s)
  · extract_lets -merge -underBinder +onlyGivenNames u0
    have ku0 : Keeps [.cnt, .hif, .ports, .alert] s u0 := by
      refine Keeps.after ?_ (endRx_keeps ..) rfl
      exact (Keeps.refl s)
    refine keeps_ite ?_ ?_
    · exact ku0
    · extract_lets -merge -underBinder +onlyGivenNames u1 x2
      have ku1 : Keeps [.cnt, .hif, .ports, .alert] s u1 := by
        refine Keeps.after ?_ (trkCount_keeps ..) rfl
        exact ku0
      refine keeps_ite ?_ ?_
      · exact ku1
      · extract_lets -merge -underBinder +onlyGivenNames x3 u4
        have ku4 : Keeps [.cnt, .hif, .ports, .alert] s u4 := by
          refine Keeps.after ?_ (setStation_keeps ..) rfl
          exact ku1
        refine keeps_ite ?_ ?_
        · refine Keeps.after ?_ (loseStation_keeps ..) rfl
          exact ku4
        · exact ku4

theorem execSlotMissed_keeps {a0 s} : KeepsOut [.cnt, .hif, .ports, .alert] s (execSlotMissed a0 s) := by
  delta execSlotMissed
  refine out_next ?_
  refine Keeps.after ?_ (slotMissed_keeps ..) rfl
  exact (Keeps.refl s)

theorem repeatRequest_keeps {a0 a1 a2 a3 s} : Keeps [.cnt, .hif, .ports, .alert] s (repeatRequest a0 a1 a2 a3 s) := by
  delta repeatRequest
  extract_lets -merge -underBinder +onlyGivenNames x0
  split
  · refine keeps_ite ?_ ?_
    · refine Keeps.after ?_ (bump_keeps ..) rfl
      refine Keeps.after ?_ (trkCount_keeps ..) rfl
      refine Keeps.after ?_ (updPort_keeps ..) rfl
      exact (Keeps.refl s)
    · refine Keeps.after ?_ (trkCount_keeps ..) rfl
      exact (Keeps.refl s)
  · refine Keeps.after ?_ (trkCount_keeps ..) rfl
    exact (Keeps.refl s)

theorem burstClosed_keeps {a0 s} : Keeps [.frames] s (burstClosed a0 s) := by
  delta burstClosed
  split
  · refine keeps_ite ?_ ?_
    · refine Keeps.after ?_ (noteEnd_keeps ..) rfl
      exact (Keeps.refl s)
    · exact (Keeps.refl s)
  · exact (Keeps.refl s)

theorem burstHeader_keeps {a0 a1 a2 s} : Keeps [.cnt, .hif, .frames, .ports, .alert] s (burstHeader a0 a1 a2 s) := by
  delta burstHeader
  split
  · exact (Keeps.refl s)
  · refine keeps_ite ?_ ?_
    · exact (Keeps.refl s)
    · extract_lets -merge -underBinder +onlyGivenNames x0 x1 u2 u3
      have ku2 : Keeps [.cnt, .hif, .frames, .ports, .alert] s u2 := by
        refine Keeps.after ?_ (burstClosed_keeps ..) rfl
        refine Keeps.after ?_ (updRx_keeps ..) rfl
        exact (Keeps.refl s)
      have ku3 : Keeps [.cnt, .hif, .frames, .ports, .alert] s u3 := by
        refine keeps_ite ?_ ?_
        · exact ku2
        · refine Keeps.after ?_ (trkCount_keeps ..) rfl
          exact ku2
      refine keeps_ite ?_ ?_
      · refine keeps_ite ?_ ?_
        · refine Keeps.after ?_ (repeatRequest_keeps ..) rfl
          exact ku3
        · refine Keeps.after ?_ (trkCount_keeps ..) rfl
          exact ku3
      · exact ku3

theorem execBurstHeader_keeps {a0 a1 a2 s} : KeepsOut [.cnt, .hif, .frames, .ports, .alert] s (execBurstHeader a0 a1 a2 s) := by
  delta execBurstHeader
  refine out_next ?_
  refine Keeps.after ?_ (burstHeader_keeps ..) rfl
  exact (Keeps.refl s)

theorem openRound_keeps {n tc t rep s r u} (h : openRound n tc t rep s = some (r, u)) : Keeps [.cnt, .hif, .ports, .alert] s u := by
  simp only [openRound] at h
  split at h
  · cases h
  · cases h
    exact ((updPort_keeps.weaken rfl).after queueCtl_keeps rfl).after trkCount_keeps rfl

theorem repairFails_keeps {a0 a1 s} : Keeps [.cnt, .hif, .frames, .ports, .alert] s (repairFails a0 a1 s) := by
  delta repairFails
  refine Keeps.after ?_ (trkCount_keeps ..) rfl
  refine Keeps.after ?_ (updFrame_keeps ..) rfl
  refine Keeps.after ?_ (updPort_keeps ..) rfl
  exact (Keeps.refl s)

theorem roundEnd_keeps {a0 a1 a2 a3 a4 s} : Keeps [.cnt, .hif, .frames, .ports, .alert] s (roundEnd a0 a1 a2 a3 a4 s) := by
  delta roundEnd
  split
  · exact (Keeps.refl s)
  · extract_lets -merge -underBinder +onlyGivenNames x0
    refine keeps_ite ?_ ?_
    · extract_lets -merge -underBinder +onlyGivenNames u1
      have ku1 : Keeps [.cnt, .hif, .frames, .ports, .alert] s u1 := by
        refine Keeps.after ?_ (updPort_keeps ..) rfl
        exact (Keeps.refl s)
      refine Keeps.after ?_ (trkCount_keeps ..) rfl
      refine Keeps.after ?_ (queueAck_keeps ..) rfl
      refine Keeps.after ?_ (updFrame_keeps ..) rfl
      exact ku1
    · refine keeps_ite ?_ ?_
      · split
        · rename_i x2 x3 u4 hq5
          have ku4 : Keeps [.cnt, .hif, .frames, .ports, .alert] s u4 := by
            refine Keeps.after ?_ (openRound_keeps hq5) rfl
            exact (Keeps.refl s)
          exact ku4
        · rename_i x6 hq7
          refine Keeps.after ?_ (repairFails_keeps ..) rfl
          exact (Keeps.refl s)
      · refine Keeps.after ?_ (repairFails_keeps ..) rfl
        exact (Keeps.refl s)

theorem repairSearchTimeout_keeps {a0 a1 s} : Keeps [.cnt, .hif, .frames, .ports, .alert] s (repairSearchTimeout a0 a1 s) := by
  delta repairSearchTimeout
  split
  · exact (Keeps.refl s)
  · refine keeps_ite ?_ ?_
    · exact (Keeps.refl s)
    · split
      · exact (Keeps.refl s)
      · refine Keeps.after ?_ (roundEnd_keeps ..) rfl
        refine Keeps.after ?_ (endRx_keeps ..) rfl
        exact (Keeps.refl s)

theorem execRepairSearchTimeout_keeps {a0 a1 s} : KeepsOut [.cnt, .hif, .frames, .ports, .alert] s (execRepairSearchTimeout a0 a1 s) := by
  delta execRepairSearchTimeout
  refine out_next ?_
  refine Keeps.after ?_ (repairSearchTimeout_keeps ..) rfl
  exact (Keeps.refl s)

theorem fmWriteBack_keeps {a0 a1 a2 a3 a4 s} : Keeps [.cnt, .hif, .fm, .alert] s (fmWriteBack a0 a1 a2 a3 a4 s).1 := by
  delta fmWriteBack
  refine keeps_ite_p (p := Prod.fst) ?_ ?_
  · extract_lets -merge -underBinder +onlyGivenNames x0
    refine keeps_fst ?_
    refine Keeps.after ?_ (setFm_keeps ..) rfl
    exact (Keeps.refl s)
  · refine keeps_fst ?_
    refine Keeps.after ?_ (trkCount_keeps ..) rfl
    exact (Keeps.refl s)

theorem contentionEnd_keeps {a0 a1 a2 a3 a4 a5 a6 s} :
    Keeps [.cnt, .hif, .ports, .fm, .alert] s (contentionEnd a0 a1 a2 a3 a4 a5 a6 s) := by
  delta contentionEnd
  refine keeps_ite ?_ ?_
  · refine Keeps.after ?_ (trkCount_keeps ..) rfl
    refine Keeps.after ?_ (queueCtl_keeps ..) rfl
    exact (Keeps.refl s)
  · extract_lets -merge -underBinder +onlyGivenNames x0
    refine keeps_ite ?_ ?_
    · extract_lets -merge -underBinder +onlyGivenNames x1 u2
      have ku2 : Keeps [.cnt, .hif, .ports, .fm, .alert] s u2 := by
        refine keeps_ite ?_ ?_
        · refine Keeps.after ?_ (setFm_keeps ..) rfl
          exact (Keeps.refl s)
        · exact (Keeps.refl s)
      refine Keeps.after ?_ (updPort_keeps ..) rfl
      exact ku2
    · exact (Keeps.refl s)

theorem discardBurst_keeps {a0 a1 s} :
    Keeps [.cnt, .hif, .streams, .msgs, .frames, .plg, .egress, .slots, .sheaves, .groups, .plots, .waits, .yoke, .alert, .nextBuild, .nextSid] s (discardBurst a0 a1 s) := by
  delta discardBurst
  split
  · refine Keeps.after ?_ (settlePunts_keeps ..) rfl
    refine Keeps.after ?_ (updFrame_keeps ..) rfl
    refine Keeps.after ?_ (frameBad_keeps ..) rfl
    exact (Keeps.refl s)
  · exact (Keeps.refl s)

theorem grantedEnd_keeps {a0 a1 a2 a3 a4 a5 s} :
    Keeps [.cnt, .hif, .streams, .msgs, .frames, .plg, .egress, .slots, .sheaves, .groups, .plots, .waits, .yoke, .ports, .alert, .nextBuild, .nextSid] s (grantedEnd a0 a1 a2 a3 a4 a5 s) := by
  delta grantedEnd
  extract_lets -merge -underBinder +onlyGivenNames x0 u1
  have ku1 : Keeps [.cnt, .hif, .streams, .msgs, .frames, .plg, .egress, .slots, .sheaves, .groups, .plots, .waits, .yoke, .ports, .alert, .nextBuild, .nextSid] s u1 := by
    refine keeps_ite ?_ ?_
    · refine Keeps.after ?_ (setStation_keeps ..) rfl
      exact (Keeps.refl s)
    · exact (Keeps.refl s)
  refine keeps_ite ?_ ?_
  · refine Keeps.after ?_ (discardBurst_keeps ..) rfl
    refine Keeps.after ?_ (trkCount_keeps ..) rfl
    exact ku1
  · extract_lets -merge -underBinder +onlyGivenNames x2 u3
    extract_lets -merge -underBinder +onlyGivenNames u4
    have ku4 : Keeps [.cnt, .hif, .streams, .msgs, .frames, .plg, .egress, .slots, .sheaves, .groups, .plots, .waits, .yoke, .ports, .alert, .nextBuild, .nextSid] s u4 := by
      refine keeps_ite ?_ ?_
      · refine Keeps.after ?_ (queueAck_keeps ..) rfl
        refine Keeps.after ?_ (setStation_keeps ..) rfl
        exact ku1
      · exact ku1
    split
    · exact ku4
    · extract_lets -merge -underBinder +onlyGivenNames x5 x6 x7
      refine keeps_ite ?_ ?_
      · refine Keeps.after ?_ (updFrame_keeps ..) rfl
        exact ku4
      · refine keeps_ite ?_ ?_
        · split
          · rename_i x8 x9 u10 hq11
            have ku10 : Keeps [.cnt, .hif, .streams, .msgs, .frames, .plg, .egress, .slots, .sheaves, .groups, .plots, .waits, .yoke, .ports, .alert, .nextBuild, .nextSid] s u10 := by
              refine Keeps.after ?_ (openRound_keeps hq11) rfl
              exact ku4
            exact ku10
          · rename_i x12 hq13
            refine Keeps.after ?_ (trkCount_keeps ..) rfl
            refine Keeps.after ?_ (updFrame_keeps ..) rfl
            exact ku4
        · refine Keeps.after ?_ (updFrame_keeps ..) rfl
          exact ku4

theorem undoResend_keeps {a0 a1 a2 s} : Keeps [.msgs, .frames, .ports] s (undoResend a0 a1 a2 s) := by
  delta undoResend
  refine Keeps.after ?_ (syncInput_keeps ..) rfl
  refine Keeps.after ?_ (updFrame_keeps ..) rfl
  refine Keeps.after ?_ (updPort_keeps ..) rfl
  exact (Keeps.refl s)

theorem ignoredEnd_keeps {a0 a1 a2 s} :
    Keeps [.cnt, .hif, .streams, .msgs, .frames, .plg, .egress, .slots, .sheaves, .groups, .plots, .waits, .yoke, .ports, .alert, .nextBuild, .nextSid] s (ignoredEnd a0 a1 a2 s) := by
  delta ignoredEnd
  extract_lets -merge -underBinder +onlyGivenNames u0
  have ku0 : Keeps [.cnt, .hif, .streams, .msgs, .frames, .plg, .egress, .slots, .sheaves, .groups, .plots, .waits, .yoke, .ports, .alert, .nextBuild, .nextSid] s u0 := by
    refine keeps_ite ?_ ?_
    · refine Keeps.after ?_ (trkCount_keeps ..) rfl
      exact (Keeps.refl s)
    · refine keeps_ite ?_ ?_
      · refine Keeps.after ?_ (bump_keeps ..) rfl
        exact (Keeps.refl s)
      · exact (Keeps.refl s)
  refine keeps_ite ?_ ?_
  · split
    · refine Keeps.after ?_ (roundEnd_keeps ..) rfl
      exact ku0
    · exact ku0
  · refine Keeps.after ?_ (discardBurst_keeps ..) rfl
    exact ku0

theorem windowEnd_keeps {a0 a1 a2 a3 s} : Keeps [.cnt, .hif, .msgs, .frames, .ports, .alert] s (windowEnd a0 a1 a2 a3 s) := by
  delta windowEnd
  split
  · exact (Keeps.refl s)
  · refine Keeps.after ?_ (roundEnd_keeps ..) rfl
    refine keeps_ite ?_ ?_
    · refine Keeps.after ?_ (undoResend_keeps ..) rfl
      refine Keeps.after ?_ (trkCount_keeps ..) rfl
      exact (Keeps.refl s)
    · exact (Keeps.refl s)

theorem burstDone_keeps {a0 a1 a2 a3 a4 a5 a6 a7 s} :
    Keeps [.cnt, .hif, .streams, .msgs, .frames, .plg, .egress, .slots, .sheaves, .groups, .plots, .waits, .yoke, .ports, .fm, .alert, .nextBuild, .nextSid] s (burstDone a0 a1 a2 a3 a4 a5 a6 a7 s) := by
  delta burstDone
  extract_lets -merge -underBinder +onlyGivenNames u0
  have ku0 : Keeps [.cnt, .hif, .streams, .msgs, .frames, .plg, .egress, .slots, .sheaves, .groups, .plots, .waits, .yoke, .ports, .fm, .alert, .nextBuild, .nextSid] s u0 := by
    refine Keeps.after ?_ (burstClosed_keeps ..) rfl
    refine Keeps.after ?_ (endRx_keeps ..) rfl
    exact (Keeps.refl s)
  refine keeps_ite ?_ ?_
  · refine Keeps.after ?_ (ignoredEnd_keeps ..) rfl
    exact ku0
  · extract_lets -merge -underBinder +onlyGivenNames x1
    refine keeps_ite ?_ ?_
    · refine Keeps.after ?_ (contentionEnd_keeps ..) rfl
      unfold x1
      refine Keeps.after ?_ (fmWriteBack_keeps ..) rfl
      exact ku0
    · refine keeps_ite ?_ ?_
      · refine Keeps.after ?_ (grantedEnd_keeps ..) rfl
        unfold x1
        refine Keeps.after ?_ (fmWriteBack_keeps ..) rfl
        exact ku0
      · refine Keeps.after ?_ (windowEnd_keeps ..) rfl
        unfold x1
        refine Keeps.after ?_ (fmWriteBack_keeps ..) rfl
        exact ku0

theorem burstEnd_keeps {a0 a1 a2 a3 a4 a5 s} :
    Keeps [.cnt, .hif, .streams, .msgs, .frames, .plg, .egress, .slots, .sheaves, .groups, .plots, .waits, .yoke, .ports, .fm, .alert, .nextBuild, .nextSid] s (burstEnd a0 a1 a2 a3 a4 a5 s) := by
  delta burstEnd
  split
  · exact (Keeps.refl s)
  · split
    · refine keeps_ite ?_ ?_
      · refine Keeps.after ?_ (burstDone_keeps ..) rfl
        exact (Keeps.refl s)
      · exact (Keeps.refl s)
    · refine Keeps.after ?_ (burstDone_keeps ..) rfl
      exact (Keeps.refl s)

theorem execBurstEnd_keeps {a0 a1 a2 a3 a4 a5 s} :
    KeepsOut [.cnt, .hif, .streams, .msgs, .frames, .plg, .egress, .slots, .sheaves, .groups, .plots, .waits, .yoke, .ports, .fm, .bbs, .alert, .nextBuild, .nextSid] s (execBurstEnd a0 a1 a2 a3 a4 a5 s) := by
  delta execBurstEnd
  refine out_next ?_
  refine Keeps.after ?_ (bbSettle_keeps ..) rfl
  refine Keeps.after ?_ (burstEnd_keeps ..) rfl
  exact (Keeps.refl s)

theorem burstCut_keeps {a0 a1 s} :
    Keeps [.cnt, .hif, .streams, .msgs, .frames, .plg, .egress, .slots, .sheaves, .groups, .plots, .waits, .yoke, .ports, .fm, .alert, .nextFid, .nextBuild, .nextSid] s (burstCut a0 a1 s) := by
  delta burstCut
  split
  · exact (Keeps.refl s)
  · refine keeps_ite ?_ ?_
    · exact (Keeps.refl s)
    · extract_lets -merge -underBinder +onlyGivenNames u0
      have ku0 : Keeps [.cnt, .hif, .streams, .msgs, .frames, .plg, .egress, .slots, .sheaves, .groups, .plots, .waits, .yoke, .ports, .fm, .alert, .nextFid, .nextBuild, .nextSid] s u0 := by
        refine keeps_ite ?_ ?_
        · exact (Keeps.refl s)
        · refine Keeps.after ?_ (trkCount_keeps ..) rfl
          refine Keeps.after ?_ (addCodeword_keeps ..) rfl
          exact (Keeps.refl s)
      split
      · exact ku0
      · refine Keeps.after ?_ (burstDone_keeps ..) rfl
        exact ku0

theorem execBurstCutAtSlotEnd_keeps {a0 a1 s} :
    KeepsOut [.cnt, .hif, .streams, .msgs, .frames, .plg, .egress, .slots, .sheaves, .groups, .plots, .waits, .yoke, .ports, .fm, .bbs, .alert, .nextFid, .nextBuild, .nextSid] s (execBurstCutAtSlotEnd a0 a1 s) := by
  delta execBurstCutAtSlotEnd
  refine out_next ?_
  refine Keeps.after ?_ (bbSettle_keeps ..) rfl
  refine Keeps.after ?_ (burstCut_keeps ..) rfl
  exact (Keeps.refl s)

theorem fcsVerdict_keeps {a0 s} :
    Keeps [.cnt, .hif, .streams, .msgs, .frames, .plg, .egress, .slots, .sheaves, .groups, .plots, .waits, .yoke, .alert, .nextBuild, .nextSid] s (fcsVerdict a0 s) := by
  delta fcsVerdict
  split
  · exact (Keeps.refl s)
  · refine keeps_ite ?_ ?_
    · exact (Keeps.refl s)
    · refine keeps_ite ?_ ?_
      · extract_lets -merge -underBinder +onlyGivenNames u0 u1
        have ku0 : Keeps [.cnt, .hif, .streams, .msgs, .frames, .plg, .egress, .slots, .sheaves, .groups, .plots, .waits, .yoke, .alert, .nextBuild, .nextSid] s u0 := by
          refine Keeps.after ?_ (trkCount_keeps ..) rfl
          exact (Keeps.refl s)
        have ku1 : Keeps [.cnt, .hif, .streams, .msgs, .frames, .plg, .egress, .slots, .sheaves, .groups, .plots, .waits, .yoke, .alert, .nextBuild, .nextSid] s u1 := by
          refine Keeps.after ?_ (updFrame_keeps ..) rfl
          refine Keeps.after ?_ (frameBad_keeps ..) rfl
          exact ku0
        refine Keeps.after ?_ (settlePunts_keeps ..) rfl
        exact ku1
      · extract_lets -merge -underBinder +onlyGivenNames x2
        refine Keeps.after ?_ (frameVerdict_keeps ..) rfl
        refine keeps_ite ?_ ?_
        · exact (Keeps.refl s)
        · refine Keeps.after ?_ (trkCount_keeps ..) rfl
          exact (Keeps.refl s)

theorem execFcsVerdict_keeps {a0 s} :
    KeepsOut [.cnt, .hif, .streams, .msgs, .frames, .plg, .egress, .slots, .sheaves, .groups, .plots, .waits, .yoke, .bbs, .alert, .nextBuild, .nextSid] s (execFcsVerdict a0 s) := by
  delta execFcsVerdict
  refine out_next ?_
  refine Keeps.after ?_ (bbSettle_keeps ..) rfl
  refine Keeps.after ?_ (fcsVerdict_keeps ..) rfl
  exact (Keeps.refl s)

end Sys2Proof.Machine
end

