-- ==== Sys2Proof/Laws/KeepsTwoWire.lean ====
section
/-! SUPPORT. What each operation and command of Machine/TwoWire.lean changes, and that it keeps the invariant. -/
namespace Sys2Proof.Machine

set_option Elab.async false

theorem twpNack_keeps {s} : Keeps [.cnt, .hif, .twp, .alert] s (twpNack s) := by
  delta twpNack
  refine Keeps.after ?_ (bump_keeps ..) rfl
  refine Keeps.upd_twp ?_ rfl
  exact (Keeps.refl s)

theorem twpFlag_keeps {a0 s} : Keeps [.regTwp] s (twpFlag a0 s) := by
  delta twpFlag
  refine Keeps.after ?_ (orReg_in (b := .regTwp) rfl) rfl
  exact (Keeps.refl s)

theorem cmdErr_keeps {s} : Keeps [.regTwp, .alert] s (cmdErr s) := by
  delta cmdErr
  refine Keeps.after ?_ (latchAlert_keeps ..) rfl
  refine Keeps.after ?_ (twpFlag_keeps ..) rfl
  exact (Keeps.refl s)

theorem twpDone_keeps {a0 s} : Keeps [.cnt, .hif, .twp, .alert] s (twpDone a0 s) := by
  delta twpDone
  refine Keeps.after ?_ (bump_keeps ..) rfl
  refine Keeps.upd_twp ?_ rfl
  exact (Keeps.refl s)

theorem twpRead_keeps {a0 a1 a2 s} : Keeps [.cnt, .hif, .twp, .alert] s (twpRead a0 a1 a2 s) := by
  delta twpRead
  refine keeps_ite ?_ ?_
  · exact (Keeps.refl s)
  · split
    · exact (Keeps.refl s)
    · refine Keeps.after ?_ (twpNack_keeps ..) rfl
      exact (Keeps.refl s)
    · refine keeps_ite ?_ ?_
      · refine Keeps.after ?_ (twpNack_keeps ..) rfl
        exact (Keeps.refl s)
      · extract_lets -merge -underBinder +onlyGivenNames x0 x1
        refine Keeps.after ?_ (twpDone_keeps ..) rfl
        exact (Keeps.refl s)

theorem twpWrite_keeps {ps code n a data f s t} (h : Keeps ps s t) (hq : subParts [.regTwp, .cnt, .hif, .twp, .alert] ps = true)
    (hf : ∀ d u, Keeps ps s u → Keeps ps s (f d u)) : Keeps ps s (twpWrite code n a data f t) := by
  have hd : Keeps ps s (twpDone [] t) := h.after (twpDone_keeps.weaken rfl) hq
  have hn : Keeps ps s (twpNack t) := h.after (twpNack_keeps.weaken rfl) hq
  unfold twpWrite
  refine keeps_ite h (keeps_ite h (keeps_ite hn (keeps_ite (keeps_ite (hf _ _ hd) ?_) (keeps_ite (hf _ _ hd) ?_))))
  · refine ((hn.after (twpFlag_keeps.weaken rfl) hq).after (latchAlert_keeps.weaken rfl) hq).after (bump_keeps.weaken rfl) hq
  · exact hd.after (cmdErr_keeps.weaken rfl) hq

theorem boardCmd_keeps {a0 a1 s} : Keeps [.cnt, .hif, .alert] s (boardCmd a0 a1 s) := by
  delta boardCmd
  refine Keeps.after ?_ (raise_keeps ..) rfl
  exact (Keeps.refl s)

theorem execIdent_keeps {a0 s} : KeepsOut [.cnt, .hif, .twp, .alert] s (execIdent a0 s) := by
  delta execIdent
  refine out_next ?_
  refine Keeps.after ?_ (twpRead_keeps ..) rfl
  exact (Keeps.refl s)

theorem execStatus_keeps {a0 s} : KeepsOut [.cnt, .hif, .twp, .alert] s (execStatus a0 s) := by
  delta execStatus
  refine out_next ?_
  refine Keeps.after ?_ (twpRead_keeps ..) rfl
  exact (Keeps.refl s)

theorem execEventSummary_keeps {a0 s} : KeepsOut [.cnt, .hif, .twp, .alert] s (execEventSummary a0 s) := by
  delta execEventSummary
  refine out_next ?_
  refine Keeps.after ?_ (twpRead_keeps ..) rfl
  exact (Keeps.refl s)

theorem execTempCd_keeps {a0 a1 s} : KeepsOut [.cnt, .hif, .twp, .alert] s (execTempCd a0 a1 s) := by
  delta execTempCd
  refine out_next ?_
  refine Keeps.after ?_ (twpRead_keeps ..) rfl
  exact (Keeps.refl s)

theorem execTempIod_keeps {a0 a1 s} : KeepsOut [.cnt, .hif, .twp, .alert] s (execTempIod a0 a1 s) := by
  delta execTempIod
  refine out_next ?_
  refine Keeps.after ?_ (twpRead_keeps ..) rfl
  exact (Keeps.refl s)

theorem execTempHbm_keeps {a0 a1 s} : KeepsOut [.cnt, .hif, .twp, .alert] s (execTempHbm a0 a1 s) := by
  delta execTempHbm
  refine out_next ?_
  refine Keeps.after ?_ (twpRead_keeps ..) rfl
  exact (Keeps.refl s)

theorem execTempMax_keeps {a0 a1 a2 s} : KeepsOut [.cnt, .hif, .twp, .alert] s (execTempMax a0 a1 a2 s) := by
  delta execTempMax
  refine out_next ?_
  refine Keeps.after ?_ (twpRead_keeps ..) rfl
  exact (Keeps.refl s)

theorem execThermalState_keeps {a0 s} : KeepsOut [.cnt, .hif, .twp, .alert] s (execThermalState a0 s) := by
  delta execThermalState
  refine out_next ?_
  refine Keeps.after ?_ (twpRead_keeps ..) rfl
  exact (Keeps.refl s)

theorem execPkgPower_keeps {a0 s} : KeepsOut [.cnt, .hif, .twp, .alert] s (execPkgPower a0 s) := by
  delta execPkgPower
  refine out_next ?_
  refine Keeps.after ?_ (twpRead_keeps ..) rfl
  exact (Keeps.refl s)

theorem execYokeState_keeps {a0 s} : KeepsOut [.cnt, .hif, .twp, .alert] s (execYokeState a0 s) := by
  delta execYokeState
  refine out_next ?_
  refine Keeps.after ?_ (twpRead_keeps ..) rfl
  exact (Keeps.refl s)

theorem drainWrite_keeps {a0 s} : Keeps [.regTwp, .yoke, .alert] s (drainWrite a0 s) := by
  delta drainWrite
  extract_lets -merge -underBinder +onlyGivenNames x0
  refine keeps_ite ?_ ?_
  · refine Keeps.after ?_ (cmdErr_keeps ..) rfl
    exact (Keeps.refl s)
  · refine keeps_ite ?_ ?_
    · exact (Keeps.refl s)
    · refine Keeps.upd_yoke ?_ rfl
      exact (Keeps.refl s)

theorem execDrain_keeps {a0 a1 s} : KeepsOut [.regTwp, .cnt, .hif, .yoke, .twp, .alert] s (execDrain a0 a1 s) := by
  delta execDrain
  refine out_next ?_
  refine twpWrite_keeps ?_ rfl (fun x0 u1 ku1 => ?_)
  · exact (Keeps.refl s)
  · refine Keeps.after ?_ (drainWrite_keeps ..) rfl
    exact ku1

theorem execDrainRead_keeps {a0 s} : KeepsOut [.cnt, .hif, .twp, .alert] s (execDrainRead a0 s) := by
  delta execDrainRead
  refine out_next ?_
  refine Keeps.after ?_ (twpRead_keeps ..) rfl
  exact (Keeps.refl s)

theorem ceilingWrite_keeps {a0 s} : Keeps [.regTwp, .yoke, .alert] s (ceilingWrite a0 s) := by
  delta ceilingWrite
  extract_lets -merge -underBinder +onlyGivenNames x0
  refine keeps_ite ?_ ?_
  · refine Keeps.after ?_ (cmdErr_keeps ..) rfl
    exact (Keeps.refl s)
  · refine keeps_ite ?_ ?_
    · exact (Keeps.refl s)
    · refine Keeps.upd_yoke ?_ rfl
      exact (Keeps.refl s)

theorem execCeilingSet_keeps {a0 a1 s} : KeepsOut [.regTwp, .cnt, .hif, .yoke, .twp, .alert] s (execCeilingSet a0 a1 s) := by
  delta execCeilingSet
  refine out_next ?_
  refine twpWrite_keeps ?_ rfl (fun x0 u1 ku1 => ?_)
  · exact (Keeps.refl s)
  · refine Keeps.after ?_ (ceilingWrite_keeps ..) rfl
    exact ku1

theorem execCeilingRead_keeps {a0 s} : KeepsOut [.cnt, .hif, .twp, .alert] s (execCeilingRead a0 s) := by
  delta execCeilingRead
  refine out_next ?_
  refine Keeps.after ?_ (twpRead_keeps ..) rfl
  exact (Keeps.refl s)

theorem softWrite_keeps {a0 s} :
    Keeps [.phase, .glb, .regRst, .regYok, .regTwp, .cnt, .clk, .hif, .plots, .yoke, .alert] s (softWrite a0 s) := by
  delta softWrite
  extract_lets -merge -underBinder +onlyGivenNames x0
  refine keeps_ite ?_ ?_
  · refine Keeps.after ?_ (cmdErr_keeps ..) rfl
    exact (Keeps.refl s)
  · extract_lets -merge -underBinder +onlyGivenNames x1 x2 u3
    have ku3 : Keeps [.phase, .glb, .regRst, .regYok, .regTwp, .cnt, .clk, .hif, .plots, .yoke, .alert] s u3 := by
      refine Keeps.after ?_ (softRequest_keeps ..) rfl
      exact (Keeps.refl s)
    refine keeps_ite ?_ ?_
    · refine Keeps.after ?_ (boardCmd_keeps ..) rfl
      exact ku3
    · exact ku3

theorem execSoftReset_keeps {a0 a1 s} :
    KeepsOut [.phase, .glb, .regRst, .regYok, .regTwp, .cnt, .clk, .hif, .plots, .yoke, .twp, .alert] s (execSoftReset a0 a1 s) := by
  delta execSoftReset
  refine out_next ?_
  refine twpWrite_keeps ?_ rfl (fun x0 u1 ku1 => ?_)
  · exact (Keeps.refl s)
  · refine Keeps.after ?_ (softWrite_keeps ..) rfl
    exact ku1

theorem snapWrite_keeps {a0 s} : Keeps [.regTwp, .cnt, .twp, .alert] s (snapWrite a0 s) := by
  delta snapWrite
  extract_lets -merge -underBinder +onlyGivenNames x0 x1 x2
  refine keeps_ite ?_ ?_
  · refine Keeps.after ?_ (cmdErr_keeps ..) rfl
    exact (Keeps.refl s)
  · extract_lets -merge -underBinder +onlyGivenNames x3 u4
    extract_lets -merge -underBinder +onlyGivenNames u5
    have ku5 : Keeps [.regTwp, .cnt, .twp, .alert] s u5 := by
      refine Keeps.upd_twp ?_ rfl
      exact (Keeps.refl s)
    refine keeps_ite ?_ ?_
    · refine keeps_each ?_ (fun x6 u7 ku7 => ?_)
      · exact ku5
      · refine Keeps.after ?_ (clearCounter_keeps ..) rfl
        exact ku7
    · exact ku5

theorem execCounterSnap_keeps {a0 a1 s} : KeepsOut [.regTwp, .cnt, .hif, .twp, .alert] s (execCounterSnap a0 a1 s) := by
  delta execCounterSnap
  refine out_next ?_
  refine twpWrite_keeps ?_ rfl (fun x0 u1 ku1 => ?_)
  · exact (Keeps.refl s)
  · refine Keeps.after ?_ (snapWrite_keeps ..) rfl
    exact ku1

theorem counterRead_keeps {a0 s} : Keeps [.cnt, .hif, .twp, .alert] s (counterRead a0 s) := by
  delta counterRead
  extract_lets -merge -underBinder +onlyGivenNames x0 u1
  have ku1 : Keeps [.cnt, .hif, .twp, .alert] s u1 := by
    refine Keeps.after ?_ (twpRead_keeps ..) rfl
    exact (Keeps.refl s)
  refine keeps_ite ?_ ?_
  · refine Keeps.upd_twp ?_ rfl
    exact ku1
  · exact ku1

theorem execCounterRead_keeps {a0 s} : KeepsOut [.cnt, .hif, .twp, .alert] s (execCounterRead a0 s) := by
  delta execCounterRead
  refine out_next ?_
  refine Keeps.after ?_ (counterRead_keeps ..) rfl
  exact (Keeps.refl s)

theorem addrCfg_keeps {a0 s} : Keeps [.regTwp, .cnt, .hif, .twp, .alert] s (addrCfg a0 s) := by
  delta addrCfg
  extract_lets -merge -underBinder +onlyGivenNames x0
  refine keeps_ite ?_ ?_
  · refine Keeps.after ?_ (cmdErr_keeps ..) rfl
    exact (Keeps.refl s)
  · extract_lets -merge -underBinder +onlyGivenNames x1 x2 u3
    have ku3 : Keeps [.regTwp, .cnt, .hif, .twp, .alert] s u3 := by
      refine Keeps.after ?_ (setReg_in (b := .regTwp) rfl) rfl
      refine Keeps.after ?_ (setReg_in (b := .regTwp) rfl) rfl
      refine Keeps.after ?_ (setReg_in (b := .regTwp) rfl) rfl
      refine Keeps.after ?_ (setReg_in (b := .regTwp) rfl) rfl
      exact (Keeps.refl s)
    refine Keeps.after ?_ (boardCmd_keeps ..) rfl
    refine Keeps.upd_twp ?_ rfl
    exact ku3

theorem execAddrCfg_keeps {a0 a1 s} : KeepsOut [.regTwp, .cnt, .hif, .twp, .alert] s (execAddrCfg a0 a1 s) := by
  delta execAddrCfg
  refine out_next ?_
  refine keeps_ite ?_ ?_
  · refine Keeps.after ?_ (twpNack_keeps ..) rfl
    exact (Keeps.refl s)
  · refine twpWrite_keeps ?_ rfl (fun x0 u1 ku1 => ?_)
    · exact (Keeps.refl s)
    · refine Keeps.after ?_ (addrCfg_keeps ..) rfl
      exact ku1

theorem execAddrCfgRead_keeps {a0 s} : KeepsOut [.cnt, .hif, .twp, .alert] s (execAddrCfgRead a0 s) := by
  delta execAddrCfgRead
  refine out_next ?_
  refine Keeps.after ?_ (twpRead_keeps ..) rfl
  exact (Keeps.refl s)

theorem execPortStatus_keeps {a0 a1 s} : KeepsOut [.regTwp, .cnt, .hif, .twp, .alert] s (execPortStatus a0 a1 s) := by
  delta execPortStatus
  refine out_next ?_
  refine twpWrite_keeps ?_ rfl (fun x0 u1 ku1 => ?_)
  · exact (Keeps.refl s)
  · refine Keeps.after ?_ (setReg_in (b := .regTwp) rfl) rfl
    exact ku1

theorem execPortStatusRead_keeps {a0 s} : KeepsOut [.cnt, .hif, .twp, .alert] s (execPortStatusRead a0 s) := by
  delta execPortStatusRead
  refine out_next ?_
  refine Keeps.after ?_ (twpRead_keeps ..) rfl
  exact (Keeps.refl s)

theorem clearFaults_keeps {s} : Keeps [.regTwp, .alert] s (clearFaults s) := by
  delta clearFaults
  refine Keeps.after ?_ (setReg_in (b := .regTwp) rfl) rfl
  refine Keeps.upd_alert ?_ rfl
  exact (Keeps.refl s)

theorem execClearFaults_keeps {a0 a1 s} : KeepsOut [.regTwp, .cnt, .hif, .twp, .alert] s (execClearFaults a0 a1 s) := by
  delta execClearFaults
  refine out_next ?_
  refine twpWrite_keeps ?_ rfl (fun x0 u1 ku1 => ?_)
  · exact (Keeps.refl s)
  · refine Keeps.after ?_ (clearFaults_keeps ..) rfl
    exact ku1

theorem alertResponse_keeps {a0 s} : Keeps [.regTwp, .cnt, .hif, .twp, .alert] s (alertResponse a0 s) := by
  delta alertResponse
  refine keeps_ite ?_ ?_
  · exact (Keeps.refl s)
  · split
    · refine Keeps.after ?_ (twpNack_keeps ..) rfl
      exact (Keeps.refl s)
    · extract_lets -merge -underBinder +onlyGivenNames u0
      have ku0 : Keeps [.regTwp, .cnt, .hif, .twp, .alert] s u0 := by
        refine Keeps.after ?_ (twpDone_keeps ..) rfl
        exact (Keeps.refl s)
      refine keeps_ite ?_ ?_
      · refine Keeps.after ?_ (bump_keeps ..) rfl
        refine Keeps.upd_alert ?_ rfl
        exact ku0
      · refine Keeps.after ?_ (twpFlag_keeps ..) rfl
        exact ku0

theorem execAlertResponse_keeps {a0 s} : KeepsOut [.regTwp, .cnt, .hif, .twp, .alert] s (execAlertResponse a0 s) := by
  delta execAlertResponse
  refine out_next ?_
  refine Keeps.after ?_ (alertResponse_keeps ..) rfl
  exact (Keeps.refl s)

theorem smbusTimeout_keeps {a0 s} : Keeps [.regTwp, .cnt, .hif, .twp, .alert] s (smbusTimeout a0 s) := by
  delta smbusTimeout
  refine keeps_ite ?_ ?_
  · exact (Keeps.refl s)
  · refine keeps_ite ?_ ?_
    · refine keeps_ite ?_ ?_
      · exact (Keeps.refl s)
      · refine Keeps.after ?_ (raise_keeps ..) rfl
        refine Keeps.after ?_ (twpFlag_keeps ..) rfl
        exact (Keeps.refl s)
    · extract_lets -merge -underBinder +onlyGivenNames u0
      extract_lets -merge -underBinder +onlyGivenNames u1
      have ku1 : Keeps [.regTwp, .cnt, .hif, .twp, .alert] s u1 := by
        refine Keeps.after ?_ (bump_keeps ..) rfl
        refine Keeps.after ?_ (twpFlag_keeps ..) rfl
        refine Keeps.upd_twp ?_ rfl
        exact (Keeps.refl s)
      refine Keeps.after ?_ (raise_keeps ..) rfl
      exact ku1

theorem execSmbusTimeout_keeps {a0 s} : KeepsOut [.regTwp, .cnt, .hif, .twp, .alert] s (execSmbusTimeout a0 s) := by
  delta execSmbusTimeout
  refine out_next ?_
  refine Keeps.after ?_ (smbusTimeout_keeps ..) rfl
  exact (Keeps.refl s)

theorem sdaStuck_keeps {a0 s} : Keeps [.regTwp, .cnt, .hif, .twp, .alert] s (sdaStuck a0 s) := by
  delta sdaStuck
  refine keeps_ite ?_ ?_
  · exact (Keeps.refl s)
  · refine Keeps.after ?_ (raise_keeps ..) rfl
    refine Keeps.after ?_ (twpFlag_keeps ..) rfl
    refine keeps_ite ?_ ?_
    · refine Keeps.upd_twp ?_ rfl
      exact (Keeps.refl s)
    · exact (Keeps.refl s)

theorem execSdaStuck_keeps {a0 s} : KeepsOut [.regTwp, .cnt, .hif, .twp, .alert] s (execSdaStuck a0 s) := by
  delta execSdaStuck
  refine out_next ?_
  refine Keeps.after ?_ (sdaStuck_keeps ..) rfl
  exact (Keeps.refl s)

theorem unknownCommand_keeps {a0 a1 a2 s} : Keeps [.cnt, .hif, .twp, .alert] s (unknownCommand a0 a1 a2 s) := by
  delta unknownCommand
  refine keeps_ite ?_ ?_
  · exact (Keeps.refl s)
  · extract_lets -merge -underBinder +onlyGivenNames x0 x1
    refine keeps_ite ?_ ?_
    · exact (Keeps.refl s)
    · refine keeps_ite ?_ ?_
      · refine Keeps.after ?_ (twpNack_keeps ..) rfl
        exact (Keeps.refl s)
      · exact (Keeps.refl s)

theorem execTwpUnknownCommand_keeps {a0 a1 a2 s} : KeepsOut [.cnt, .hif, .twp, .alert] s (execTwpUnknownCommand a0 a1 a2 s) := by
  delta execTwpUnknownCommand
  refine out_next ?_
  refine Keeps.after ?_ (unknownCommand_keeps ..) rfl
  exact (Keeps.refl s)

end Sys2Proof.Machine
end

