-- ==== Sys2Proof/Laws/KeepsWatch.lean ====
section
/-! SUPPORT. What each operation and command of Machine/Watch.lean changes, and that it keeps the invariant. -/
namespace Sys2Proof.Machine

set_option Elab.async false

theorem drift_keeps {a0 a1 a2 a3 a4 s} : Keeps [.cnt, .hif, .alert] s (drift a0 a1 a2 a3 a4 s) := by
  delta drift
  refine Keeps.after ?_ (raise_keeps ..) rfl
  refine Keeps.after ?_ (bump_keeps ..) rfl
  exact (Keeps.refl s)

theorem applySummary_keeps {a0 a1 a2 a3 s} : Keeps [.cnt, .hif, .tables, .alert] s (applySummary a0 a1 a2 a3 s) := by
  delta applySummary
  extract_lets -merge -underBinder +onlyGivenNames x0 x1 x2 x3 x4 x5 x6 x7 x8 u9
  have ku9 : Keeps [.cnt, .hif, .tables, .alert] s u9 := by
    refine keeps_ite ?_ ?_
    · refine Keeps.after ?_ (drift_keeps ..) rfl
      exact (Keeps.refl s)
    · exact (Keeps.refl s)
  refine keeps_ite ?_ ?_
  · refine Keeps.after ?_ (putEntry_keeps ..) rfl
    exact ku9
  · extract_lets -merge -underBinder +onlyGivenNames u10
    have ku10 : Keeps [.cnt, .hif, .tables, .alert] s u10 := by
      refine keeps_ite ?_ ?_
      · refine Keeps.after ?_ (drift_keeps ..) rfl
        exact ku9
      · exact ku9
    refine Keeps.after ?_ (putEntry_keeps ..) rfl
    exact ku10

theorem takeSummary_keeps {a0 s} : Keeps [.cnt, .hif, .tables, .alert] s (takeSummary a0 s) := by
  delta takeSummary
  extract_lets -merge -underBinder +onlyGivenNames x0
  refine keeps_ite ?_ ?_
  · refine Keeps.after ?_ (bump_keeps ..) rfl
    exact (Keeps.refl s)
  · refine keeps_ite ?_ ?_
    · exact (Keeps.refl s)
    · refine Keeps.after ?_ (applySummary_keeps ..) rfl
      refine Keeps.after ?_ (bump_keeps ..) rfl
      exact (Keeps.refl s)

theorem watchSummary_keeps {s} : Keeps [.cnt, .hif, .tables, .fab, .alert] s (watchSummary s) := by
  delta watchSummary
  split
  · exact (Keeps.refl s)
  · refine Keeps.after ?_ (takeSummary_keeps ..) rfl
    refine Keeps.upd_fab ?_ rfl
    exact (Keeps.refl s)

theorem execWatchSummary_keeps {s} : KeepsOut [.cnt, .hif, .tables, .fab, .alert] s (execWatchSummary s) := by
  delta execWatchSummary
  refine out_next ?_
  refine keeps_ite ?_ ?_
  · refine Keeps.after ?_ (watchSummary_keeps ..) rfl
    exact (Keeps.refl s)
  · exact (Keeps.refl s)

end Sys2Proof.Machine
end

