-- ==== Sys2Proof/Machine/Package.lean ====
section
/-! DEFINITION. The package (R453 to R473): its size and ball names, signal and power balls, maximum ratings, the rails' windows and their order, clocks, control pins, two-wire timing, the
current-monitor codes and the thermal figures. No command
reads it but through what a board applies: RAIL_FAULT, the reset pins, the straps and the IMON codes. -/
namespace Sys2Proof.Machine

/-- The letters of R454. -/
def rowLetters : List Char := ['A', 'B', 'C', 'D', 'E', 'F', 'G', 'H', 'J', 'K', 'L', 'M', 'N', 'P', 'T', 'U', 'V', 'W', 'Y']

/-- The name of row index 1 to 69 (R454). -/
def rowName (i : Nat) : List Char :=
  let c := (rowLetters[(i - 1) % 19]?).getD 'A'
  match (i - 1) / 19 with
  | 0 => [c]
  | 1 => ['A', c]
  | 2 => ['B', c]
  | _ => ['C', c]

/-- The signals of Table GLB-22: a name, its members, and the row index and column of member k. -/
structure SignalRow where
  name : String
  members : Nat
  row : Nat
  rowStep : Nat
  col : Nat
  colStep : Nat
  deriving DecidableEq, Repr

/-- Table GLB-22. -/
def signalRows : List SignalRow := [
  ⟨"PE_TX_P", 16, 3, 4, 2, 0⟩, ⟨"PE_TX_N", 16, 4, 4, 2, 0⟩, ⟨"PE_RX_P", 16, 3, 4, 4, 0⟩, ⟨"PE_RX_N", 16, 4, 4, 4, 0⟩,
  ⟨"BB0_TX_P", 4, 3, 4, 68, 0⟩, ⟨"BB0_TX_N", 4, 4, 4, 68, 0⟩, ⟨"BB0_RX_P", 4, 3, 4, 66, 0⟩, ⟨"BB0_RX_N", 4, 4, 4, 66, 0⟩,
  ⟨"BB1_TX_P", 4, 21, 4, 68, 0⟩, ⟨"BB1_TX_N", 4, 22, 4, 68, 0⟩, ⟨"BB1_RX_P", 4, 21, 4, 66, 0⟩, ⟨"BB1_RX_N", 4, 22, 4, 66, 0⟩,
  ⟨"REFCLK_BB", 2, 39, 1, 66, 0⟩,
  ⟨"TRK_GP_P", 8, 2, 0, 8, 6⟩, ⟨"TRK_GP_N", 8, 2, 0, 9, 6⟩, ⟨"TRK_BP_P", 8, 4, 0, 8, 6⟩, ⟨"TRK_BP_N", 8, 4, 0, 9, 6⟩,
  ⟨"REFCLK_ROOT", 2, 68, 0, 10, 1⟩, ⟨"REFCLK_PCIE", 2, 68, 0, 14, 1⟩,
  ⟨"PERST_N", 1, 68, 0, 20, 0⟩, ⟨"DEV_RST_N", 1, 68, 0, 22, 0⟩, ⟨"THERMTRIP_N", 1, 68, 0, 24, 0⟩, ⟨"FAULT_N", 1, 68, 0, 26, 0⟩,
  ⟨"IMON", 6, 68, 0, 30, 1⟩,
  ⟨"SMB_SCL", 1, 68, 0, 40, 0⟩, ⟨"SMB_SDA", 1, 68, 0, 42, 0⟩, ⟨"SMB_ALERT_N", 1, 68, 0, 44, 0⟩, ⟨"SMB_RST_N", 1, 68, 0, 46, 0⟩,
  ⟨"JTAG_TCK", 1, 66, 0, 20, 0⟩, ⟨"JTAG_TMS", 1, 66, 0, 22, 0⟩, ⟨"JTAG_TDI", 1, 66, 0, 24, 0⟩, ⟨"JTAG_TDO", 1, 66, 0, 26, 0⟩,
  ⟨"JTAG_TRST_N", 1, 66, 0, 28, 0⟩,
  ⟨"SMB_ADDR", 3, 66, 0, 40, 2⟩, ⟨"SITE_SEED", 4, 66, 0, 50, 2⟩]

/-- The member of a signal at a ball. -/
def SignalRow.at (r : SignalRow) (row col : Nat) : Option Nat :=
  (List.range r.members).find? (fun k => decide (r.row + r.rowStep * k = row ∧ r.col + r.colStep * k = col))

/-- The signal at a ball (R455). -/
def signalAt (row col : Nat) : Option (String × Nat) := signalRows.findSome? (fun r => (r.at row col).map (fun k => (r.name, k)))

/-- The regions of Table GLB-23: rail, first and last row, first and last column. -/
def railRegions : List (String × Nat × Nat × Nat × Nat) := [
  ("VDD_TRK", 6, 6, 8, 51), ("VDD_IOD", 8, 16, 14, 56), ("VIN_CD0", 20, 34, 10, 32), ("VIN_CD1", 20, 34, 38, 60),
  ("VIN_CD2", 40, 54, 38, 60), ("VIN_CD3", 40, 54, 10, 32), ("HBM VDD", 56, 62, 10, 30), ("HBM VDDQ", 56, 62, 31, 50),
  ("HBM VPP", 56, 62, 51, 60), ("VIO_1V8", 63, 63, 18, 50)]

/-- What a ball carries that no signal has (R456): its region's rail where row plus column is even, else VSS. -/
def powerAt (row col : Nat) : String :=
  match railRegions.find? (fun r => decide (r.2.1 ≤ row ∧ row ≤ r.2.2.1 ∧ r.2.2.2.1 ≤ col ∧ col ≤ r.2.2.2.2)) with
  | some r => if (row + col) % 2 = 0 then r.1 else "VSS"
  | none => "VSS"

/-- A rail of Table GLB-25: its group of R309, nominal mV, operating range and fault window in percent. -/
structure Rail where
  name : String
  group : Nat
  mv : Nat
  oper : Nat
  fault : Nat
  deriving DecidableEq, Repr

/-- Table GLB-25. -/
def rails : List Rail := [
  ⟨"VIO_1V8", 1, 1800, 5, 10⟩, ⟨"VDD_TRK", 1, 1800, 5, 10⟩, ⟨"HBM VPP", 1, 1800, 5, 10⟩, ⟨"VDD_IOD", 2, 850, 3, 8⟩,
  ⟨"HBM VDD", 2, 1100, 3, 8⟩, ⟨"HBM VDDQ", 3, 400, 3, 8⟩, ⟨"VIN_CD", 4, 950, 3, 8⟩]

/-- A level in mV lies within a percentage of nominal. -/
def Rail.within (r : Rail) (percent mv : Nat) : Bool :=
  decide (r.mv * (100 - percent) ≤ 100 * mv ∧ 100 * mv ≤ r.mv * (100 + percent))

/-- R458, R459: every figure of the manual holds; the engine runs on; a rail fault once it has lasted 0.5 µs. -/
inductive RailState where
  | operating | unspecified | faulty
  deriving DecidableEq, Repr

def Rail.judge (r : Rail) (mv : Nat) : RailState :=
  if r.within r.oper mv then .operating else if r.within r.fault mv then .unspecified else .faulty

/-- R469: the ideal 12-bit code of a current monitor's voltage in microvolts; above 1.2 V it reads 4,095. -/
def imonCode (uv : Nat) : Nat := min 4095 (uv * 4096 / 1200000)

/-! ### Ratings, clocks, pins and timing (R453, R457 to R472) -/

/-- Table GLB-21: balls a side, pitch and body edge in µm, height in µm, the greatest static load in N. -/
structure PackageSize where
  side : Nat
  pitch : Nat
  body : Nat
  height : Nat
  load : Nat
  deriving DecidableEq, Repr

def packageSize : PackageSize := { side := 69, pitch := 1000, body := 72500, height := 4900, load := 450 }

/-- Table GLB-24: least and greatest level in mV of pins whose limit no rail sets; beyond it the engine can be damaged (R457). -/
def maxRatings : List (String × Int × Int) := [
  ("VIN_CD", -300, 1100), ("VDD_IOD", -300, 1100), ("HBM VDD", -300, 1500), ("HBM VDDQ", -300, 600), ("VDD_TRK", -300, 2200),
  ("VIO_1V8", -300, 2200), ("HBM VPP", -300, 2200), ("SMB_SCL", -300, 3600), ("SMB_SDA", -300, 3600), ("SMB_ALERT_N", -300, 3600),
  ("SMB_RST_N", -300, 3600), ("PERST_N", -300, 3600), ("THERMTRIP_N", -300, 3600), ("FAULT_N", -300, 3600), ("IMON", -300, 1600)]

/-- Trunk pins and the other 1.8 V pins stay within 0.3 V of VSS and of their rail (R457). -/
def withinRail (rail mv : Int) : Bool := decide (-300 ≤ mv ∧ mv ≤ rail + 300)

/-- A rail rises from 10 % to 90 % of nominal in 0.1 ms to 10 ms (R460). -/
def riseOk (us : Nat) : Bool := decide (100 ≤ us ∧ us ≤ 10000)

/-- Rails come up in group order: (group, µs from power-on), a later group at most 10 ms before an earlier one (R460). -/
def orderOk (up : List (Nat × Nat)) : Bool := up.all (fun a => up.all (fun b => !decide (a.1 < b.1) || decide (a.2 ≤ b.2 + 10000)))

/-- The largest step in A that the engine causes on a rail in operation (R461). -/
def largestStep (rail : String) : Option Nat := if rail = "VIN_CD" then some 8 else if rail = "VDD_IOD" then some 4 else none

/-- Table GLB-26: a reference clock's frequency in kHz, accuracy in ppm, and least and greatest swing in mV. -/
def refClocks : List (String × Nat × Nat × Nat × Nat) := [
  ("REFCLK_ROOT", 100000, 50, 300, 1500), ("REFCLK_PCIE", 100000, 300, 300, 1500), ("REFCLK_BB", 156250, 100, 300, 1600)]

/-- The kinds of control pin of Table GLB-27. -/
inductive PinKind where
  | input18 | output18 | input33 | bus | openDrain
  deriving DecidableEq, Repr

def PinKind.of (name : String) : Option PinKind :=
  if name ∈ ["DEV_RST_N", "SITE_SEED", "SMB_ADDR", "JTAG_TCK", "JTAG_TMS", "JTAG_TDI", "JTAG_TRST_N"] then some .input18
  else if name = "JTAG_TDO" then some .output18
  else if name ∈ ["PERST_N", "SMB_RST_N"] then some .input33
  else if name ∈ ["SMB_SCL", "SMB_SDA"] then some .bus
  else if name ∈ ["SMB_ALERT_N", "THERMTRIP_N", "FAULT_N"] then some .openDrain
  else none

/-- What an input reads at a level in mV; between its two levels the manual does not say (R463). -/
def PinKind.reads (k : PinKind) (mv : Nat) : Option Bool :=
  match k with
  | .input18 | .input33 => if mv ≤ 500 then some false else if 1200 ≤ mv then some true else none
  | .bus => if mv ≤ 800 then some false else if 1350 ≤ mv then some true else none
  | .output18 | .openDrain => none

/-- What an input with nothing on it reads through its bias: high on JTAG_TMS, JTAG_TDI and SMB_RST_N, low on the others (R463, R466). -/
def openReads (name : String) : Bool := decide (name ∈ ["JTAG_TMS", "JTAG_TDI", "SMB_RST_N"])

/-- A shared line of open-drain pins reads high unless a device drives it; without VIO_1V8 the engine drives none (R463, R464). -/
def lineHigh (vio engineLow otherLow : Bool) : Bool := !((vio && engineLow) || otherLow)

/-- A row of Table GLB-28 in ns: what each speed class accepts at least. -/
structure BusTiming where
  sclLow : Nat
  sclHigh : Nat
  setup : Nat
  free : Nat
  deriving DecidableEq, Repr

/-- Table GLB-28 at 100 kHz, 400 kHz and 1 MHz (R467). -/
def busTiming (khz : Nat) : BusTiming :=
  if khz ≤ 100 then { sclLow := 4700, sclHigh := 4000, setup := 250, free := 4700 }
  else if khz ≤ 400 then { sclLow := 1300, sclHigh := 600, setup := 100, free := 1300 }
  else { sclLow := 500, sclHigh := 260, setup := 50, free := 500 }

/-- JTAG: the greatest TCK in MHz; TDI and TMS set up before and held after its rise, TDO valid after its fall, in ns (R468). -/
def jtagTiming : Nat × Nat × Nat × Nat := (50, 4, 2, 8)

/-- A trunk pair is coupled by capacitors of 10 nF to 100 nF, or by a transformer of at least 350 µH and 400 MHz (R470). -/
inductive Coupling where
  | capacitor (nf : Nat)
  | transformer (uh mhz : Nat)
  deriving DecidableEq, Repr

def Coupling.ok : Coupling → Bool
  | .capacitor nf => decide (10 ≤ nf ∧ nf ≤ 100)
  | .transformer uh mhz => decide (350 ≤ uh ∧ 400 ≤ mhz)

/-- Board capacitors in nF of a transmit lane: PCIe 176 to 265, backbone 100 (R471). -/
def laneCap (pcie : Bool) (nf : Nat) : Bool := if pcie then decide (176 ≤ nf ∧ nf ≤ 265) else decide (nf = 100)

/-- Table GLB-29 in °C: throttling, operating maximum, trip, HBM refresh doubled, HBM maximum. -/
def thermalLevels : Nat × Nat × Nat × Nat × Nat := (95, 105, 115, 85, 105)

end Sys2Proof.Machine
end

