-- ==== Sys2Proof/Machine/Timing.lean ====
section
/-! DEFINITION. The latency budget of a Saffron message (R474 to R480), in nanoseconds: what the manual computes from a model's pass
table, a reply's length and the interleave depth. No command reads it; the machine keeps no times of its own beside CLK_N. -/
namespace Sys2Proof.Machine

/-- The fixed terms of Table GLB-30: receive, Plough, classify, admit, slice preemption, remote hop, one retry, refresh wait, build, the
current BP codeword. -/
def fixedTerms : List Nat := [1520, 80, 30, 50, 1000, 250, 200, 350, 50, 1280]

def fixedTotal : Nat := fixedTerms.foldl (· + ·) 0

/-- B of R475: `tModel` is the sum of the passes' bounds at one member, `n` the reply's codewords. -/
def saffronBound (tModel n : Nat) : Nat := fixedTotal + tModel + 40 + 1280 * n

/-- B with the additions of R478: depth D, the interleave block j (from 1) that holds the lead position, displaced slots. -/
def saffronBoundAt (tModel n depth block displaced : Nat) : Nat :=
  saffronBound tModel n + (depth - 1) * 1280 + (block - 1) * depth * 1280 + 1280 * displaced

/-- R476: the response completes no later, the verdict reaching the gate at `tv`. -/
def responseBound (b tv : Nat) : Nat := max b (tv + 2600)

/-- The worst path from the lead position to the start of the build, without the model: Plough, classify, admit, slice preemption,
remote hop, retry and refresh. -/
def leadFixed : Nat := 80 + 30 + 50 + 1000 + 250 + 200 + 350

/-- R480: the lead with which a reply carries OK. Equality is LATE. -/
def leadOk (lead tModel : Nat) : Bool := decide (leadFixed + tModel < lead)

/-- R479: CLK_F cycles (0.75 GHz) to load a seed of `bytes` from the resident area at 64 bytes a cycle. -/
def seedCycles (bytes : Nat) : Nat := (bytes + 63) / 64

end Sys2Proof.Machine
end

