-- ==== Sys2Proof/Tests/Slice0.lean ====
section
/-! SUPPORT. Tests: the manual's worked examples as small checks of one operation each, an ill-formed command for each check of
well-formedness, and, for every statement with hypotheses, a state and operands that meet them, clause by clause. -/
set_option Elab.async false

namespace Sys2Proof.Tests
open Sys2Proof Sys2Proof.Machine

/-! ### States that meet the statements' hypotheses -/

/-- The engine after bring-up, its pins released, clocked and powered, in phase RUNNING. -/
def up : State :=
  { State.reset with
    glb := { State.reset.glb with perstLow := false, devRstLow := false, smbRstLow := false, powered := true, phase := .running, dieOk := 15,
                                  otp := { State.reset.glb.otp with iodGen := 2 } },
    clk := { State.reset.clk with pllLock := true, dllLock := 15 } }

/-- `up` with one descriptor of given bytes waiting at position 0 of SQ 0, its CQ ring enabled. -/
def sqWith (bytes : List Byte) : State :=
  setRing 16 { Ring.init with en := true } (setSq 0 { Sq.init with descs := [{ pos := 0, bytes := padTo 64 bytes, st := .waiting, tails := [] }] } up)

/-- A port's state and registers of `up`. -/
def portWith (f : Port → Port) (s : State) : State := setPort 0 (f Port.init) s

/-- A message of stream 7 from backbone interface 0, and a reply to it. -/
def reply0 : Reply :=
  { bytes := List.replicate 70 7#8, dest := 8, isError := false, asData := false, buildNo := 1, sent := 0, lane := none, begun := false,
    committed := false, stomped := false, readyAt := 0 }
def msg0 : Msg :=
  { mid := 4, stream := 7, seq := 0, slot := 0, bank := 0, cls := 2, tmpl := 0, xmap := 0, fid := 3, ingress := 8, origin := none,
    status := none, statusAt := 0, silent := false, noFence := false, held := false, verdict := none, gateT0 := 0, loc := .output, pass := 0, segs := [], input := [],
    outputs := none, rowsOut := [], staged := false, late := false, reply := none }

/-- Group 5 on plot 2, from slot 0, bank A, and a running pass of sheaf 2. -/
def group0 : Group :=
  { gid := 5, slot := 0, bank := 0, idx := 0, plots := [2], gen := 3, cfg := 9, size := 1, run := none, trans := none, orphans := 0,
    firstUnit := 0, firstTag := 0, tables := [], rot := none, dwell := 0, unfilled := [], reload := false, chans := [], known := true }
def run0 : Run := { sid := 2, pass := 0, members := [4], t0 := 0, energy := 0, resTaken := 0, bound := 100, paused := 0 }
def sheaf0 : Sheaf :=
  { sid := 2, slot := 0, bank := 0, cls := 2, pass := 0, members := [4], forming := false, window := 100, t0 := 0, closeAt := 0,
    granted := none, resTaken := 0, die := 0, waitT0 := none, gateWait := false, gateOpen := false }
/-- `up` with a group on its plot and a sheaf whose member is message 4. -/
def fabUp (g : Group) (x : Sheaf) : State :=
  { setPlot 2 { Plot.init with st := .active, group := some 5, sensor := 300, avg := 300 } up with
    groups := [g]
    sheaves := [x]
    msgs := [{ msg0 with loc := .sheaf 2 }] }

/-- A training after a trigger of both ends. -/
def train0 : Train := { ends := 3, cause := 4, quad := 0, dir := 0, full := false, time := 0, again := none }

/-- A frame from the host interface's side of trunk port 1. -/
def frame1 : Frame := newFrame 3 1 5 (List.replicate 70 (some 1#8)) false

/-- `up` with the Yoke in RUNNING, so that every plot is clocked. -/
def running : State := setReg 0x2880 4 up
/-- Tile 5 runs the word `w` at PC 0. -/
def wTile (w : Word) : Tile := { Tile.init with run := .running, active := { TileBank.init with words := [(0, w)] } }
def wUp (w : Word) : State := setTile 5 (wTile w) running

theorem witness_StepRunsFront :
    (({ up with pending := [.doorbellPoll] }).pending = .doorbellPoll :: []) :=
  by decide +kernel

theorem witness_StepKeepsInvariant :
    (Inv up ∧ (∃ u, step up = .next u)) :=
  ⟨⟨by decide, by decide, by decide, by decide, by decide⟩, _, rfl⟩

theorem witness_FrameOfEveryCommand :
    ((∃ u, exec .powerOff up = .next u)) :=
  ⟨_, rfl⟩

theorem witness_OnlyHardResetClearsRun :
    (hardResets (.flr) = false ∧ ({ up with glb := { up.glb with run := true } }).glb.run = true ∧ (∃ u, exec .flr ({ up with glb := { up.glb with run := true } }) = .next u)) :=
  ⟨by decide, by decide, _, rfl⟩

theorem witness_FatalAndShutdownHold :
    (hardResets .doorbellPoll = false ∧ ({ up with glb := { up.glb with deviceFatal := true } }).glb.deviceFatal = true ∧ (∃ u, exec .doorbellPoll ({ up with glb := { up.glb with deviceFatal := true } }) = .next u)) ∧
    (Instr.devRstRelease ≠ .powerOff ∧ ({ up with glb := { up.glb with thermtrip := true, railFault := true } }).glb.powered = true ∧ ({ up with glb := { up.glb with thermtrip := true, railFault := true } }).glb.thermtrip = true ∧ ({ up with glb := { up.glb with thermtrip := true, railFault := true } }).glb.railFault = true ∧ (∃ u, exec .devRstRelease ({ up with glb := { up.glb with thermtrip := true, railFault := true } }) = .next u)) :=
  ⟨⟨by decide, by decide, _, rfl⟩, ⟨by decide, by decide, by decide, by decide, _, rfl⟩⟩

theorem witness_HardResetsClear :
    (({ up with glb := { up.glb with powered := false } }).glb.powered = false) ∧
    (up.glb.powered = true ∧ up.glb.devRstLow = false) ∧
    (10000 ≤ 10000) ∧
    (({ up with glb := { up.glb with devRstLow := true } }).glb.devRstLow = true ∧ ({ up with glb := { up.glb with devRstLow := true } }).glb.powered = true ∧ ({ up with glb := { up.glb with devRstLow := true } }).glb.thermtrip = false ∧ ({ up with glb := { up.glb with devRstLow := true } }).glb.railFault = false ∧ ({ up with glb := { up.glb with devRstLow := true } }).glb.pllHold = false) ∧
    (up.clk.pllLock = true) ∧
    (({ up with glb := { up.glb with pllHold := true } }).glb.pllHold = true ∧ ({ up with glb := { up.glb with pllHold := true } }).glb.powered = true ∧ ({ up with glb := { up.glb with pllHold := true } }).glb.devRstLow = false ∧ ({ up with glb := { up.glb with pllHold := true } }).glb.thermtrip = false ∧ ({ up with glb := { up.glb with pllHold := true } }).glb.railFault = false) :=
  by refine ⟨?_, ?_, ?_, ?_, ?_, ?_⟩ <;> decide +kernel

/-- `up` in another phase. -/
def inPhase (p : Phase) : State := { up with glb := { up.glb with phase := p } }

theorem witness_BringUpPhases :
    ((inPhase .otp).glb.phase = .otp) ∧
    ((inPhase .clocks).glb.phase = .clocks) ∧
    ((inPhase .links).glb.phase = .links) ∧
    ((inPhase .memory).glb.phase = .memory ∧ (inPhase .memory).glb.memDone = false) ∧
    (({ inPhase .memory with glb := { (inPhase .memory).glb with memDone := true } }).glb.phase = .memory ∧ ({ inPhase .memory with glb := { (inPhase .memory).glb with memDone := true } }).glb.memDone = true ∧ ({ inPhase .memory with glb := { (inPhase .memory).glb with memDone := true } }).glb.run = false ∧ ({ inPhase .memory with glb := { (inPhase .memory).glb with memDone := true } }).glb.runHeld = false ∧ ({ inPhase .memory with glb := { (inPhase .memory).glb with memDone := true } }).yoke.drainReq = false) ∧
    (barUp (setReg 0x2880 1 (inPhase .standby)) = true ∧ ((setReg 0x2880 1 (inPhase .standby)).glb.otp.iodGen = 2 ∨ (setReg 0x2880 1 (inPhase .standby)).glb.otp.iodGen = 3) ∧ (setReg 0x2880 1 (inPhase .standby)).glb.phase = .standby ∧ tapBlocks (setReg 0x2880 1 (inPhase .standby)).tap.ir = false ∧ (setReg 0x2880 1 (inPhase .standby)).yoke.drainReq = false ∧ yokState (setReg 0x2880 1 (inPhase .standby)) = 1 ∧ (setReg 0x2880 1 (inPhase .standby)).glb.run = false) ∧
    (barUp (inPhase .memory) = true ∧ ((inPhase .memory).glb.otp.iodGen = 2 ∨ (inPhase .memory).glb.otp.iodGen = 3) ∧ (inPhase .memory).glb.phase = .memory ∧ (inPhase .memory).glb.run = false) :=
  by refine ⟨?_, ?_, ?_, ?_, ?_, ?_, ?_⟩ <;> decide +kernel

theorem witness_SoftResetPhases :
    (barUp up = true ∧ up.glb.phase = .running ∧ up.glb.soft = .off ∧ up.glb.deviceFatal = false) ∧
    (({ up with glb := { up.glb with soft := .ramp } }).glb.soft = .ramp ∧ ({ up with glb := { up.glb with soft := .ramp } }).yoke.level ≤ ({ up with glb := { up.glb with soft := .ramp } }).yoke.pstd) ∧
    (({ up with glb := { up.glb with soft := .quiesce } }).glb.soft = .quiesce ∧ ({ up with glb := { up.glb with soft := .quiesce } }).msgs = [] ∧ ({ up with glb := { up.glb with soft := .quiesce } }).bbs.any (fun b => b.2.tx.isSome) = false) ∧
    ((setReg 0x2880 1 { up with glb := { up.glb with soft := .clear, run := true } }).glb.soft = .clear ∧ (setReg 0x2880 1 { up with glb := { up.glb with soft := .clear, run := true } }).glb.run = true ∧ (setReg 0x2880 1 { up with glb := { up.glb with soft := .clear, run := true } }).yoke.drainReq = false ∧ yokState (setReg 0x2880 1 { up with glb := { up.glb with soft := .clear, run := true } }) = 1) :=
  by refine ⟨?_, ?_, ?_, ?_⟩ <;> decide +kernel

theorem witness_HostCutAndPortReset :
    (1000 ≤ 1000 ∧ up.glb.perstLow = false ∧ up.glb.powered = true ∧ up.glb.run = false) ∧
    (1000 ≤ 1000 ∧ (setReg 0x0804 1 { up with glb := { up.glb with run := true } }).glb.perstLow = false ∧ (setReg 0x0804 1 { up with glb := { up.glb with run := true } }).glb.powered = true ∧ (setReg 0x0804 1 { up with glb := { up.glb with run := true } }).glb.run = true ∧ (getReg (setReg 0x0804 1 { up with glb := { up.glb with run := true } }) 0x0804).testBit 0 = true) ∧
    (barUp up = true) ∧
    (10000 ≤ 10000 ∧ up.glb.powered = true) ∧
    (({ up with glb := { up.glb with smbRstLow := true } }).glb.smbRstLow = true) :=
  by refine ⟨?_, ?_, ?_, ?_, ?_⟩ <;> decide +kernel

theorem witness_LossOfADie :
    (up.clk.dllLock.testBit 3 = true) ∧
    (up.glb.dieOk.testBit 0 = true ∧ up.glb.dieFatal.testBit 0 = false) :=
  by refine ⟨?_, ?_⟩ <;> decide +kernel

theorem witness_ClocksAndCounters :
    (∃ (s : State) (p : Fin 64) (code : Fin 4), plotDiv s p ≤ code ∧ (getTdiv s p ≤ code ∨ windowBottom code ≤ (getPlot s p).mv)) ∧
    (∃ (s : State) (p : Fin 64), tget 0 p s.clk.tdivReq ≠ 0 ∧ plotsOn s = true) ∧
    (∃ (s : State) (lo : Word), barUp s = true ∧ s.glb.run = false) ∧
    (∃ (s : State) (lo : Word), barUp s = true ∧ s.glb.run = true ∧ getReg s 0x0420 ≠ lo.toNat) ∧
    (∃ (s : State), barUp s = true) ∧
    (∃ (s : State) (i : Fin 2048), barUp s = true) ∧
    (∃ (s : State) (i : Fin 2048), barUp s = true) ∧
    (∃ (s : State) (ns : Nat), 10000 ≤ ns) ∧
    (∃ (s : State) (i : Fin 2048), barUp s = true) :=
  ⟨⟨up, 63, 3, by decide +kernel⟩,
    ⟨{ running with clk := { running.clk with tdivReq := [(63, 4)] } }, 63, by decide +kernel⟩,
    ⟨up, 7, by decide +kernel⟩,
    ⟨{ up with glb := { up.glb with run := true } }, 1, by decide +kernel⟩,
    ⟨up, by decide +kernel⟩,
    ⟨up, 2047, by decide +kernel⟩,
    ⟨up, 2047, by decide +kernel⟩,
    ⟨up, 10000, by decide +kernel⟩,
    ⟨up, 2047, by decide +kernel⟩⟩

/-- `up` in the test space's word 1 of a unit, before RUN. -/
def tstUp (space : Nat) : State := setReg 0x8000 space (setReg 0x8004 4 (setLink 0 { Link.init with st := 2 } up))
/-- `up` once RUN reads 1. -/
def ranUp : State := { up with glb := { up.glb with run := true } }
/-- The row of the register map at an offset. -/
def rowAt (a : Nat) : RegRow := match regAt a with | some r => r.1 | none => ⟨"", 0, 0, 0, []⟩

theorem witness_RegisterWrites :
    (∃ (s : State) (off : BitVec 16) (v : Word) (a : Nat) (k : Nat) (r : RegRow), barUp s = true ∧ a = off.toNat / 4 * 4 ∧
      (a < 0x4000 ∨ (0x8000 ≤ a ∧ s.glb.run = false)) ∧ (a < 0x3800 ∨ 0x3C00 ≤ a ∨ s.glb.smbRstLow = false) ∧ regAt a = some (r, k) ∧
      r.name ∉ ownEffect) ∧
    (∃ (s : State) (off : BitVec 16) (v : Word) (a : Nat) (k : Nat) (r : RegRow), barUp s = true ∧ a = off.toNat / 4 * 4 ∧
      (a < 0x4000 ∨ (0x8000 ≤ a ∧ s.glb.run = false)) ∧ (a < 0x3800 ∨ 0x3C00 ≤ a ∨ s.glb.smbRstLow = false) ∧ regAt a = some (r, k) ∧
      r.name ∉ ownEffect ∧ ranUp.glb.run = true ∧ (∃ f ∈ (rowAt 0x0414).fields, f.acc = .rwl ∧
      bitsOf (2 : Word).toNat f.lo (f.hi - f.lo + 1) ≠ bitsOf (getReg ranUp 0x0414) f.lo (f.hi - f.lo + 1))) ∧
    (∃ (s : State) (off : BitVec 16) (v : Word), off.toNat / 4 * 4 < 0x4000 ∧ regAt (off.toNat / 4 * 4) = none) ∧
    (∃ (s : State) (v : Word), barUp s = true) ∧
    (∃ (s : State) (v : Word) (k : Nat), barUp s = true ∧ k < 8) ∧
    (∃ (s : State) (v : Word), barUp s = true ∧ s.glb.run = false) ∧
    (∃ (s : State) (v : Word), barUp s = true ∧ s.glb.run = true ∧ getReg s 0x0414 % 4 ≠ v.toNat % 4) ∧
    (∃ (s : State) (v : Word), barUp s = true) ∧
    (∃ (s : State) (off : BitVec 16) (v : Word) (be : Fin 16), be ≠ 15) ∧
    (∃ (s : State) (v : BitVec 16), barUp s = true) ∧
    (∃ (s : State) (v : Word) (space : Nat) (unit : Nat) (off : Nat), barUp s = true ∧ s.glb.run = false ∧ testWord s = (space, unit, off) ∧
      space ≤ 4 ∧ testReach s (testDie space unit) = true) ∧
    (∃ (s : State) (w : Nat) (space : Nat) (unit : Nat) (off : Nat), barUp s = true ∧ s.glb.run = false ∧ testWord s = (space, unit, off) ∧
      space ≤ 4 ∧ testReach s (testDie space unit) = true ∧ testGet s space unit off = some w) ∧
    (∃ (s : State) (space : Nat) (unit : Nat) (off : Nat), barUp s = true ∧ s.glb.run = false ∧ testWord s = (space, unit, off) ∧ space ≤ 4 ∧
      testReach s (testDie space unit) = true) ∧
    (∃ (s : State) (space : Nat) (unit : Nat) (off : Nat) (bad : Bool) (v : Word), barUp s = true ∧ s.glb.run = false ∧ testWord s = (space, unit,
      off) ∧ 4 < space) ∧
    (∃ (s : State) (bad : Bool) (v : Word), barUp s = true ∧ s.glb.run = true) :=
  ⟨⟨up, 0x3003, 7, 0x3000, 0, rowAt 0x3000, by decide +kernel⟩,
    ⟨ranUp, 0x0414, 2, 0x0414, 0, rowAt 0x0414, by decide +kernel⟩,
    ⟨up, 0x0020, 5, by decide +kernel⟩,
    ⟨up, 1, by decide +kernel⟩,
    ⟨up, 1, 7, by decide +kernel⟩,
    ⟨up, 7, by decide +kernel⟩,
    ⟨ranUp, 2, by decide +kernel⟩,
    ⟨up, 1, by decide +kernel⟩,
    ⟨up, 0, 5, 14, by decide +kernel⟩,
    ⟨up, 0xFFFF, by decide +kernel⟩,
    ⟨tstUp 4, 9, 4, 0, 4, by decide +kernel⟩,
    ⟨tstUp 0, 0, 0, 0, 4, by decide +kernel⟩,
    ⟨tstUp 0, 0, 0, 4, by decide +kernel⟩,
    ⟨tstUp 5, 5, (testWord (tstUp 5)).2.1, (testWord (tstUp 5)).2.2, false, 1, by decide +kernel⟩,
    ⟨ranUp, true, 1, by decide +kernel⟩⟩

/-- A receiver in a granted slot of station 0, or a contention slot. -/
def rx0 (kind : Nat) : Rx :=
  { kind := kind, idx := 0, addr := 5, cyc := 7, start := 0, seed := 0, settings := [], double := false, deaf := false, hit := false, frozen := false, lfsr := 1, lens := [],
    oks := [], record := [], fid := none, hdr := none }
def hdr0 : BurstHdr := { crcOk := true, ok := true, addr := 5, burstId := 1, len := 0, rrq := false, signon := false, resend := false }
def rxState (r : Rx) : State := portWith (fun p => { p with running := true, rx := some r }) up
/-- What a wire carries that descrambles to 17 zeros, a codeword of one byte. -/
def wire0 : List Byte := (scramble 1 (List.replicate 17 0#8)).2

/-- A port whose last slot is granted to station 0, and its receiver. -/
def slot0 : SchedEnt := { kind := 0, addr := 5, idx := 0, start := 0, len := 4 }
def slotUp (r : Option Rx) : State := portWith (fun p => { p with running := true, sched := List.replicate 40 slot0, rx := r, cyc := 7 }) up
/-- The symbols of a header after the end delimiter. -/
def hdrSyms : List Int := endDelimiter ++ bytesSymbols (List.replicate 12 0x5A#8)

theorem witness_TrunkReceiverHears :
    (∃ (s : State) (n : Fin 8) (slot : Nat) (e : SchedEnt), (getPort s n).running = true ∧ (getPort s n).winding = false ∧
      (getPort s n).iso = false ∧ slot < 40 ∧ (getPort s n).sched[slot]? = some e ∧ e.kind = 0 ∧ rxBusy (getPort s n) false = false) ∧
    (∃ (s : State) (n : Fin 8) (slot : Nat) (e : SchedEnt), (getPort s n).running = true ∧ (getPort s n).winding = false ∧
      (getPort s n).iso = false ∧ slot < 40 ∧ (getPort s n).sched[slot]? = some e ∧ e.kind = 0 ∧ rxBusy (getPort s n) true = true) ∧
    (∃ (s : State) (n : Fin 8) (r : Rx), (getPort s n).rx = some r) ∧
    (∃ (s : State) (n : Fin 8) (r : Rx), (getPort s n).rx = some r) ∧
    (∃ (s : State) (n : Fin 8) (r : Rx) (symbols : List Int) (cw : List Byte) (d : List Byte) (c : Nat), (getPort s n).rx = some r ∧ r.kind = 1 ∧
      r.deaf = false ∧ stopped s = false ∧ (symbolsBytes symbols).length ≤ 240 * 2 ^ (getPort s n).ilv ∧
      deinterleave (scramble r.lfsr (symbolsBytes symbols)).2 = [cw] ∧ decodeCw cw = some (d, c)) ∧
    (∃ (s : State) (n : Fin 8) (r : Rx) (symbols : List Int) (cw : List Byte), (getPort s n).rx = some r ∧ r.kind = 1 ∧ r.deaf = false ∧
      stopped s = false ∧ (symbolsBytes symbols).length ≤ 240 * 2 ^ (getPort s n).ilv ∧
      deinterleave (scramble r.lfsr (symbolsBytes symbols)).2 = [cw] ∧ decodeCw cw = none) ∧
    (∃ (s : State) (n : Fin 8) (r : Rx) (symbols : List Int) (h : List Byte) (counted : Nat), (getPort s n).rx = some r ∧ r.hdr = none ∧
      r.deaf = false ∧ symbols.take 8 = endDelimiter ∧ h = padTo 12 (symbolsBytes (symbols.drop 8))) :=
  ⟨⟨slotUp none, 0, 39, slot0, by decide +kernel⟩,
    ⟨slotUp (some { rx0 0 with lens := [17] }), 0, 39, slot0, by decide +kernel⟩,
    ⟨rxState (rx0 1), 0, rx0 1, by decide +kernel⟩,
    ⟨rxState (rx0 1), 0, rx0 1, by decide +kernel⟩,
    ⟨rxState (rx0 1), 0, rx0 1, bytesSymbols wire0, List.replicate 17 0#8, [0#8], 0, by decide +kernel⟩,
    ⟨rxState (rx0 1), 0, rx0 1, bytesSymbols (wire0.map (· ^^^ 0xA5#8)), List.replicate 17 0xA5#8, by decide +kernel⟩,
    ⟨rxState (rx0 1), 0, rx0 1, hdrSyms, List.replicate 12 0x5A#8, 0, by decide +kernel⟩⟩

/-- 64 bytes whose FCS is right. -/
def good64 : List (Option Byte) := (List.replicate 60 0#8 ++ fcsBytes (List.replicate 60 0#8)).map some

/-- A receiver of station 0 whose header has come and whose codewords were good. -/
def rxGood : Rx := { rx0 0 with hdr := some hdr0, seed := 62, oks := [true] }
/-- A repair of frame 3 in its second round, one codeword still missing. -/
def rep0 : Repair := { fid := 3, idx := 0, addr := 5, burstId := 1, lens := [1], missing := [0], round := 2, named := [], endCyc := 0, endSym := 0 }

theorem witness_TrunkReceiverEnds :
    (∃ (s : State) (n : Fin 8) (r : Rx), (getPort s n).rx = some r ∧ r.kind = 0 ∧ (station s n r.idx).st = 2 ∧ (station s n r.idx).miss < 0xFFFF) ∧
    (∃ (s : State) (n : Fin 8) (r : Rx) (lost : Nat), (getPort s n).rx = some r ∧ r.kind = 0 ∧ r.hdr = none ∧ rxIgnored s n r = false) ∧
    (∃ (s : State) (n : Fin 8) (r : Rx) (h : BurstHdr) (final : List Byte) (offset : Int) (peaks : Bool) (evm : Fin 256) (tEnd : Nat),
      (getPort s n).rx = some r ∧ r.hdr = some h ∧ r.kind = 0 ∧ r.fid = none ∧ rxIgnored s n r = false ∧ h.ok = true ∧ h.addr = r.addr ∧
      (∀ b ∈ r.oks, b = true) ∧ r.hit = false ∧ r.seed < 63 ∧ (station s n r.idx).st = 2) ∧
    (∃ (s : State) (n : Fin 8) (r : Rx) (final : List Byte) (offset : Int) (evm : Fin 256) (tEnd : Nat), (getPort s n).rx = some r ∧ r.kind = 1 ∧
      r.deaf = false ∧ stopped s = false) ∧
    (∃ (s : State) (n : Fin 8) (r : Rx) (rep : Repair) (fid : Nat) (tEnd : Nat), (getPort s n).rx = some r ∧ r.kind = 2 ∧ r.hdr = none ∧
      r.fid = some fid ∧ (getPort s n).repairs.find? (fun x => x.fid = fid) = some rep ∧ rep.missing ≠ [] ∧ rep.round = 2) ∧
    (∃ (s : State) (f : Frame), findFrame s f.fid = some f ∧ f.ingress < 8 ∧ f.ended = true ∧ f.verdict = none ∧ f.gleaned = false ∧
      63 < f.bytes.length ∧ fcsGood (frameBytes f) = false ∧ f.mid = none ∧ f.frag = none) ∧
    (∃ (s : State) (f : Frame), findFrame s f.fid = some f ∧ f.ingress < 8 ∧ f.ended = true ∧ f.verdict = none ∧ f.gleaned = false ∧
      63 < f.bytes.length ∧ f.bytes.all Option.isSome = true ∧ fcsGood (frameBytes f) = true ∧ f.frag = none ∧ f.walk = .queued) :=
  ⟨⟨setStation 0 0 { Station.init with st := 2, miss := 0xFFFE } (rxState (rx0 0)), 0, rx0 0, by decide +kernel⟩,
    ⟨rxState (rx0 0), 0, rx0 0, 1, by decide +kernel⟩,
    ⟨setStation 0 0 { Station.init with st := 2 } (rxState rxGood), 0, rxGood, hdr0, List.replicate 32 0#8, 0, false, 0, 0, by decide +kernel⟩,
    ⟨rxState { rx0 1 with hdr := some hdr0 }, 0, { rx0 1 with hdr := some hdr0 }, List.replicate 32 0#8, 0, 0, 0, by decide +kernel⟩,
    ⟨portWith (fun p => { p with rx := some { rx0 2 with fid := some 3 }, repairs := [rep0] }) up, 0, { rx0 2 with fid := some 3 }, rep0, 3, 0,
    by decide +kernel⟩,
    ⟨{ up with frames := [{ newFrame 3 7 5 (List.replicate 64 (some 1#8)) true with walk := .decided }] },
    { newFrame 3 7 5 (List.replicate 64 (some 1#8)) true with walk := .decided }, by decide +kernel⟩,
    ⟨{ up with frames := [newFrame 3 7 5 good64 true] }, newFrame 3 7 5 good64 true, by decide +kernel⟩⟩

/-- `up` with entry 0 of port 0's station table: address 5, VALID, AUTO as given, and a state of the station. -/
def staUp (auto : Nat) (v : Station) (f : Port → Port) : State :=
  setStation 0 0 v (portWith f { up with tables := [(0x100000, leBytes 4 (5 + 256 + 512 * auto))] })
def rec0 : List Byte := [0#8, 5#8, 3#8, 0#8, 1#8, 2#8, 3#8, 4#8, 5#8, 6#8, 0#8, 0#8]
/-- A sign-on of address 5 whose TAG is right, or wrong. -/
def sig (good : Bool) : Signon :=
  { record := rec0 ++ (if good then signonTag (List.replicate 16 0#8) 9 0 rec0 else List.replicate 8 0#8), adv := 77, nonce := 9, prov := 63 }
/-- A TRUNK_CTL descriptor: port, SUB, address and byte 19. -/
def ctlBytes (port sub addr x : Nat) : List Byte := [0x33#8] ++ List.replicate 15 0#8 ++ [port, sub, addr, x].map (BitVec.ofNat 8)
/-- The descriptor of `sqWith` over the rest of a state. -/
def withDesc (bytes : List Byte) (s : State) : State := { s with hif := (sqWith bytes).hif }
def enPort (f : Port → Port) : State := setReg 0x1000 1 (portWith f up)

theorem witness_TrunkPortLife :
    (∃ (s : State) (n : Fin 8), barUp s = true ∧ trkEn s n = false ∧ (getPort s n).winding = false) ∧
    (∃ (s : State) (n : Fin 8), barUp s = true ∧ trkEn s n = false ∧ (getPort s n).winding = true) ∧
    (∃ (s : State) (n : Fin 8), barUp s = true ∧ trkEn s n = true) ∧
    (∃ (s : State) (n : Fin 8), (getPort s n).winding = true ∧ (getPort s n).reEn = false ∧
      s.msgs.any (fun m => begun m && (match m.reply with | some r => decide (r.dest = n) | none => false)) = false) ∧
    (∃ (s : State) (n : Fin 8), (getPort s n).winding = true ∧ (getPort s n).reEn = true ∧ trkEn s n = false ∧
      s.msgs.any (fun m => begun m && (match m.reply with | some r => decide (r.dest = n) | none => false)) = false) ∧
    (∃ (s : State) (n : Fin 8) (energy : Bool), trkEn s n = true ∧ (getPort s n).winding = false ∧ (getPort s n).running = true ∧
      (getPort s n).isoWant = false ∧ stopped s = false) ∧
    (∃ (s : State) (n : Fin 8) (energy : Bool), trkEn s n = true ∧ (getPort s n).winding = false ∧ (getPort s n).running = false ∧
      (getPort s n).isoWant = false ∧ stopped s = false) ∧
    (∃ (s : State) (n : Fin 8) (energy : Bool), trkEn s n = true ∧ (getPort s n).winding = false ∧ (getPort s n).isoWant = true) ∧
    (∃ (s : State) (n : Fin 8) (energy : Bool), trkEn s n = true ∧ (getPort s n).winding = false ∧ (getPort s n).running = true ∧
      (getPort s n).jamRun = 2 ∧ (getPort s n).jammed = false ∧ 16 * schedEnd (getPort s n).sched + 64 ≤ cycSymbols s n) :=
  ⟨⟨portWith (fun p => { p with isoWant := true, cyc := 9 }) up, 0, by decide +kernel⟩,
    ⟨portWith (fun p => { p with winding := true, cyc := 9 }) up, 0, by decide +kernel⟩,
    ⟨enPort (fun p => { p with running := true, isoWait := [(0, 0)], acks := [[]], stations := [(3, { Station.init with st := 2 })] }), 0,
    by decide +kernel⟩,
    ⟨portWith (fun p => { p with winding := true, running := true }) up, 0, by decide +kernel⟩,
    ⟨portWith (fun p => { p with winding := true, running := true, reEn := true, cyc := 4 }) up, 0, by decide +kernel⟩,
    ⟨setReg 0x1000 3 (enPort (fun p => { p with running := true, cyc := 0xFFFFFFFF, next := [slot0], nextNonce := 7, nextIlv := 2, bpSlot := 3 })),
    0, false, by decide +kernel⟩,
    ⟨enPort (fun p => { p with cyc := 8 }), 0, false, by decide +kernel⟩,
    ⟨enPort (fun p => { p with isoWant := true, next := [slot0] }), 0, false, by decide +kernel⟩,
    ⟨enPort (fun p => { p with running := true, jamRun := 2 }), 0, true, by decide +kernel⟩⟩

theorem witness_SignonDecides :
    ((getPort (staUp 1 Station.init (fun p => { p with signon := some (sig true) })) 0).signon = some (sig true) ∧ quarantined (staUp 1 Station.init (fun p => { p with signon := some (sig true) })) 0 (byteAt (sig true).record 1 % 64) = false ∧ effEntry (staUp 1 Station.init (fun p => { p with signon := some (sig true) })) 0 (byteAt (sig true).record 1 % 64) = some 0 ∧ slice (sig true).record 12 8 = signonTag (staKey (staUp 1 Station.init (fun p => { p with signon := some (sig true) })) 0 0) (sig true).nonce 0 (sig true).record ∧ schedFits (staUp 1 Station.init (fun p => { p with signon := some (sig true) })) 0 0 = true ∧ staAuto (staUp 1 Station.init (fun p => { p with signon := some (sig true) })) 0 0 = true) ∧
    ((getPort (staUp 0 Station.init (fun p => { p with signon := some (sig true) })) 0).signon = some (sig true) ∧ quarantined (staUp 0 Station.init (fun p => { p with signon := some (sig true) })) 0 (byteAt (sig true).record 1 % 64) = false ∧ effEntry (staUp 0 Station.init (fun p => { p with signon := some (sig true) })) 0 (byteAt (sig true).record 1 % 64) = some 0 ∧ slice (sig true).record 12 8 = signonTag (staKey (staUp 0 Station.init (fun p => { p with signon := some (sig true) })) 0 0) (sig true).nonce 0 (sig true).record ∧ schedFits (staUp 0 Station.init (fun p => { p with signon := some (sig true) })) 0 0 = true ∧ staAuto (staUp 0 Station.init (fun p => { p with signon := some (sig true) })) 0 0 = false ∧ (station (staUp 0 Station.init (fun p => { p with signon := some (sig true) })) 0 0).preadmit = false ∧ (station (staUp 0 Station.init (fun p => { p with signon := some (sig true) })) 0 0).st ≠ 2) ∧
    ((getPort (setReg (trkReg 0 0x48) 0 (staUp 1 Station.init (fun p => { p with signon := some (sig false), strAddr := 5, strRun := 4 }))) 0).signon = some (sig false) ∧ quarantined (setReg (trkReg 0 0x48) 0 (staUp 1 Station.init (fun p => { p with signon := some (sig false), strAddr := 5, strRun := 4 }))) 0 (byteAt (sig false).record 1 % 64) = false ∧ effEntry (setReg (trkReg 0 0x48) 0 (staUp 1 Station.init (fun p => { p with signon := some (sig false), strAddr := 5, strRun := 4 }))) 0 (byteAt (sig false).record 1 % 64) = some 0 ∧ slice (sig false).record 12 8 ≠ signonTag (staKey (setReg (trkReg 0 0x48) 0 (staUp 1 Station.init (fun p => { p with signon := some (sig false), strAddr := 5, strRun := 4 }))) 0 0) (sig false).nonce 0 (sig false).record ∧ regF (setReg (trkReg 0 0x48) 0 (staUp 1 Station.init (fun p => { p with signon := some (sig false), strAddr := 5, strRun := 4 }))) (trkReg 0 0x48) 0 8 = 0) ∧
    ((getPort (setReg (trkReg 0 0x4C) 32 (staUp 1 Station.init (fun p => { p with signon := some (sig false) }))) 0).signon = some (sig false) ∧ quarantined (setReg (trkReg 0 0x4C) 32 (staUp 1 Station.init (fun p => { p with signon := some (sig false) }))) 0 (byteAt (sig false).record 1 % 64) = true) ∧
    ((station (staUp 1 { Station.init with st := 1, held := some (sig true) } id) 0 0).st = 1) :=
  by refine ⟨?_, ?_, ?_, ?_, ?_⟩ <;> decide +kernel

theorem witness_TrunkControl :
    (runnable (withDesc (ctlBytes 0 1 5 0) (staUp 0 { Station.init with st := 1, held := some (sig true) } id)) 0 0 0x33 (ctlSub 1) = some (padTo 64 (ctlBytes 0 1 5 0)) ∧ byteAt (padTo 64 (ctlBytes 0 1 5 0)) 16 < 8 ∧ byteAt (padTo 64 (ctlBytes 0 1 5 0)) 17 = 1 ∧ byteAt (padTo 64 (ctlBytes 0 1 5 0)) 18 < 63 ∧ effEntry (withDesc (ctlBytes 0 1 5 0) (staUp 0 { Station.init with st := 1, held := some (sig true) } id)) 0 5 = some 0 ∧ (station (withDesc (ctlBytes 0 1 5 0) (staUp 0 { Station.init with st := 1, held := some (sig true) } id)) 0 0).st = 1 ∧ (station (withDesc (ctlBytes 0 1 5 0) (staUp 0 { Station.init with st := 1, held := some (sig true) } id)) 0 0).held = some (sig true) ∧ schedFits (withDesc (ctlBytes 0 1 5 0) (staUp 0 { Station.init with st := 1, held := some (sig true) } id)) 0 0 = true) ∧
    (runnable (withDesc (ctlBytes 0 1 5 0) (staUp 0 Station.init id)) 0 0 0x33 (ctlSub 1) = some (padTo 64 (ctlBytes 0 1 5 0)) ∧ effEntry (withDesc (ctlBytes 0 1 5 0) (staUp 0 Station.init id)) 0 5 = some 0 ∧ (station (withDesc (ctlBytes 0 1 5 0) (staUp 0 Station.init id)) 0 0).st ≠ 1) ∧
    (runnable (withDesc (ctlBytes 8 1 5 0) up) 0 0 0x33 (ctlSub 1) = some (padTo 64 (ctlBytes 8 1 5 0)) ∧ 8 ≤ byteAt (padTo 64 (ctlBytes 8 1 5 0)) 16) ∧
    (runnable (withDesc (ctlBytes 0 2 5 0) (staUp 0 { Station.init with st := 1 } id)) 0 0 0x33 (ctlSub 2) = some (padTo 64 (ctlBytes 0 2 5 0)) ∧ effEntry (withDesc (ctlBytes 0 2 5 0) (staUp 0 { Station.init with st := 1 } id)) 0 5 = some 0 ∧ (station (withDesc (ctlBytes 0 2 5 0) (staUp 0 { Station.init with st := 1 } id)) 0 0).st = 1) ∧
    (runnable (withDesc (ctlBytes 0 3 5 0) (staUp 0 { Station.init with st := 2 } id)) 0 0 0x33 (ctlSub 3) = some (padTo 64 (ctlBytes 0 3 5 0)) ∧ effEntry (withDesc (ctlBytes 0 3 5 0) (staUp 0 { Station.init with st := 2 } id)) 0 5 = some 0 ∧ (station (withDesc (ctlBytes 0 3 5 0) (staUp 0 { Station.init with st := 2 } id)) 0 0).st = 2) ∧
    (runnable (withDesc (ctlBytes 0 4 62 0) (staUp 0 { Station.init with st := 2 } id)) 0 0 0x33 (ctlSub 4) = some (padTo 64 (ctlBytes 0 4 62 0))) ∧
    (runnable (withDesc (ctlBytes 0 5 0 0) (enPort id)) 0 0 0x33 (ctlSub 5) = some (padTo 64 (ctlBytes 0 5 0 0)) ∧ trkEn (withDesc (ctlBytes 0 5 0 0) (enPort id)) 0 = true) ∧
    ((getPort (setSq 0 { Sq.init with descs := [{ pos := 0, bytes := [], st := .executing, tails := [] }] } (enPort (fun p => { p with iso := true, isoWait := [(0, 0)] }))) 0).iso = true ∧ (getPort (setSq 0 { Sq.init with descs := [{ pos := 0, bytes := [], st := .executing, tails := [] }] } (enPort (fun p => { p with iso := true, isoWait := [(0, 0)] }))) 0).sched = [] ∧ (setSq 0 { Sq.init with descs := [{ pos := 0, bytes := [], st := .executing, tails := [] }] } (enPort (fun p => { p with iso := true, isoWait := [(0, 0)] }))).msgs.any (fun m => m.ingress = 0) = false ∧ (getPort (setSq 0 { Sq.init with descs := [{ pos := 0, bytes := [], st := .executing, tails := [] }] } (enPort (fun p => { p with iso := true, isoWait := [(0, 0)] }))) 0).isoWait = [(0, 0)] ∧ Executes 0 0 (setSq 0 { Sq.init with descs := [{ pos := 0, bytes := [], st := .executing, tails := [] }] } (enPort (fun p => { p with iso := true, isoWait := [(0, 0)] })))) ∧
    (runnable (withDesc (ctlBytes 0 6 0 0) (enPort (fun p => { p with isoWant := true }))) 0 0 0x33 (ctlSub 6) = some (padTo 64 (ctlBytes 0 6 0 0)) ∧ trkEn (withDesc (ctlBytes 0 6 0 0) (enPort (fun p => { p with isoWant := true }))) 0 = true) ∧
    (runnable (withDesc (ctlBytes 0 7 0 6) (enPort (fun p => { p with iso := true }))) 0 0 0x33 (ctlSub 7) = some (padTo 64 (ctlBytes 0 7 0 6)) ∧ (getPort (withDesc (ctlBytes 0 7 0 6) (enPort (fun p => { p with iso := true }))) 0).iso = true) ∧
    (runnable (withDesc (ctlBytes 0 8 0 1) (enPort (fun p => { p with iso := true }))) 0 0 0x33 (ctlSub 8) = some (padTo 64 (ctlBytes 0 8 0 1)) ∧ (getPort (withDesc (ctlBytes 0 8 0 1) (enPort (fun p => { p with iso := true }))) 0).iso = true) ∧
    ((getPort (withDesc (ctlBytes 0 8 0 1) (enPort id)) 0).iso = false) :=
  ⟨by decide +kernel, by decide +kernel, by decide +kernel, by decide +kernel, by decide +kernel, by decide +kernel, by decide +kernel, ⟨by decide +kernel, by decide +kernel, by decide +kernel, by decide +kernel, _, rfl, rfl⟩, by decide +kernel, by decide +kernel, by decide +kernel, by decide +kernel⟩

/-- Backbone interface 0 up, its port's CTL word and its state as given. -/
def bbWith (ctl : Nat) (b : Bb) (s : State) : State := setBb 0 b (setReg 0x2040 1 (setReg 0x2000 ctl s))
/-- Bytes of a frame whose FCS is right. -/
def okBytes : List Byte := List.replicate 60 0#8 ++ fcsBytes (List.replicate 60 0#8)
def okFrame : Frame := newFrame 3 8 0x3F (okBytes.map some) false
def bbRx (bad : Bool) (len : Nat) : Bb := { Bb.init with rx := some 3, rxLen := len, rxCrc := crcRefl 0xEDB88320 0xFFFFFFFF okBytes, rxBad := bad }
/-- An aligned reply ready to begin, of a request whose frame is `okFrame`. -/
def alignedUp (m : Msg) (b : Bb) : State :=
  { bbWith 1 b up with
    frames := [{ okFrame with ipValid := true, lreq := 64 }]
    msgs := [m] }
def txOf (mid : Option Nat) (aligned : Bool) (crc : Nat) : BbTx :=
  { mid := mid, order := 9, aligned := aligned, crc := crc, bytes := reply0.bytes, stamp := 0 }

theorem witness_BackboneReceives :
    (bbpUp (bbWith 1 Bb.init up) 8 = true ∧ okBytes ≠ [] ∧ (getBb (bbWith 1 Bb.init up) 0).rx = none ∧ (getBb (bbWith 1 Bb.init up) 0).rxDrop = 0 ∧ stopped (bbWith 1 Bb.init up) = false ∧ bbOcc (bbWith 1 Bb.init up) 0 8 + okBytes.length ≤ 1048576 ∧ okBytes.length ≤ 9600 ∧ findFrame (bbWith 1 Bb.init up) (bbWith 1 Bb.init up).nextFid = none) ∧
    (bbpUp (bbWith 1 Bb.init { up with glb := { up.glb with soft := .quiesce } }) 8 = true ∧ okBytes ≠ [] ∧ (getBb (bbWith 1 Bb.init { up with glb := { up.glb with soft := .quiesce } }) 0).rx = none ∧ (getBb (bbWith 1 Bb.init { up with glb := { up.glb with soft := .quiesce } }) 0).rxDrop = 0 ∧ stopped (bbWith 1 Bb.init { up with glb := { up.glb with soft := .quiesce } }) = true) ∧
    (bbpUp (bbWith 1 Bb.init { up with frames := (List.range 109).map (fun i => newFrame i 8 0 (List.replicate 9600 none) true) ++ [newFrame 200 8 0 (List.replicate 2176 none) true] }) 8 = true ∧ (getBb (bbWith 1 Bb.init { up with frames := (List.range 109).map (fun i => newFrame i 8 0 (List.replicate 9600 none) true) ++ [newFrame 200 8 0 (List.replicate 2176 none) true] }) 0).rx = none ∧ (getBb (bbWith 1 Bb.init { up with frames := (List.range 109).map (fun i => newFrame i 8 0 (List.replicate 9600 none) true) ++ [newFrame 200 8 0 (List.replicate 2176 none) true] }) 0).rxDrop = 0 ∧ stopped (bbWith 1 Bb.init { up with frames := (List.range 109).map (fun i => newFrame i 8 0 (List.replicate 9600 none) true) ++ [newFrame 200 8 0 (List.replicate 2176 none) true] }) = false ∧ 1048576 < bbOcc (bbWith 1 Bb.init { up with frames := (List.range 109).map (fun i => newFrame i 8 0 (List.replicate 9600 none) true) ++ [newFrame 200 8 0 (List.replicate 2176 none) true] }) 0 8 + [1#8].length) ∧
    ((getBb (bbWith 1 (bbRx false 64) { up with frames := [okFrame] }) 0).rx = some okFrame.fid ∧ (getBb (bbWith 1 (bbRx false 64) { up with frames := [okFrame] }) 0).rxDrop = 0 ∧ 63 < (getBb (bbWith 1 (bbRx false 64) { up with frames := [okFrame] }) 0).rxLen ∧ (getBb (bbWith 1 (bbRx false 64) { up with frames := [okFrame] }) 0).rxCrc = 0xDEBB20E3 ∧ (getBb (bbWith 1 (bbRx false 64) { up with frames := [okFrame] }) 0).rxBad = false ∧ findFrame (bbWith 1 (bbRx false 64) { up with frames := [okFrame] }) okFrame.fid = some okFrame ∧ okFrame.verdict = none ∧ okFrame.gleaned = false ∧ okFrame.frag = none ∧ okFrame.walk = .queued ∧ okFrame.fwd = none ∧ schedShape (bbWith 1 (bbRx false 64) { up with frames := [okFrame] }) { okFrame with ended := true } = some false) ∧
    ((getBb (bbWith 1 (bbRx true 64) { up with frames := [okFrame] }) 0).rx = some okFrame.fid ∧ (getBb (bbWith 1 (bbRx true 64) { up with frames := [okFrame] }) 0).rxDrop = 0 ∧ findFrame (bbWith 1 (bbRx true 64) { up with frames := [okFrame] }) okFrame.fid = some okFrame ∧ okFrame.verdict = none ∧ okFrame.gleaned = false ∧ okFrame.frag = none ∧ okFrame.mid = none ∧ schedShape (bbWith 1 (bbRx true 64) { up with frames := [okFrame] }) { okFrame with ended := true } = some false ∧ ((getBb (bbWith 1 (bbRx true 64) { up with frames := [okFrame] }) 0).rxLen ≤ 63 ∨ (getBb (bbWith 1 (bbRx true 64) { up with frames := [okFrame] }) 0).rxCrc ≠ 0xDEBB20E3 ∨ (getBb (bbWith 1 (bbRx true 64) { up with frames := [okFrame] }) 0).rxBad = true)) ∧
    ((getReg (bbWith 1 { bbRx false 64 with paused := 3, tx := some (txOf none false 1) } { up with frames := [okFrame] }) (bbpReg 0 0x40)).testBit 0 = true) ∧
    ((getReg (setReg 0x2000 1 up) (bbpReg 0 0)).testBit 0 = true ∧ bbExists (setReg 0x2000 1 up) 0 = true ∧ (getReg (setReg 0x2000 1 up) (bbpReg 0 0x40)).testBit 0 = false) :=
  by refine ⟨?_, ?_, ?_, ?_, ?_, ?_, ?_⟩ <;> decide +kernel

theorem witness_BackbonePauses :
    (∃ (s : State) (l : Fin 8) (quanta : BitVec 16), bbpUp s (8 + l) = true ∧ bbFc s l = 1) ∧
    (∃ (s : State) (l : Fin 8) (p : Fin 8) (quanta : BitVec 16), bbpUp s (8 + l) = true ∧ bbFc s l = 2 ∧
      (getReg s (bbpReg (l / 4) 4)).testBit p = true) ∧
    (∃ (s : State) (l : Fin 8) (pri : Option (Fin 8)), (flowBits s l).testBit (pauseBit pri) = false) ∧
    (∃ (s : State) (l : Fin 8) (pri : Option (Fin 8)), bbpUp s (8 + l) = true ∧ (getBb s l).xoff.testBit (pauseBit pri) = true ∧
      (flowBits s l).testBit (pauseBit pri) = true) :=
  ⟨⟨bbWith 17 Bb.init up, 0, 0xFFFF, by decide +kernel⟩,
    ⟨setReg 0x2004 8 (bbWith 33 { Bb.init with paused := 1 } up), 0, 3, 0, by decide +kernel⟩,
    ⟨bbWith 1 { Bb.init with xoff := 256 } up, 0, none, by decide +kernel⟩,
    ⟨setReg 0x2010 0x1234 (bbWith 17 { Bb.init with xoff := 256 } up), 0, none, by decide +kernel⟩⟩

theorem witness_BackboneSends :
    (findMsg (alignedUp { msg0 with reply := some reply0 } Bb.init) 4 = some { msg0 with reply := some reply0 } ∧ isAligned (alignedUp { msg0 with reply := some reply0 } Bb.init) { msg0 with reply := some reply0 } reply0 = true ∧ reply0.begun = false ∧ isOldest (alignedUp { msg0 with reply := some reply0 } Bb.init) { msg0 with reply := some reply0 } = true ∧ bbpUp (alignedUp { msg0 with reply := some reply0 } Bb.init) reply0.dest = true ∧ (getBb (alignedUp { msg0 with reply := some reply0 } Bb.init) (reply0.dest - 8)).tx = none ∧ bbPaused (alignedUp { msg0 with reply := some reply0 } Bb.init) (reply0.dest - 8) (framePri (alignedUp { msg0 with reply := some reply0 } Bb.init) (reply0.dest - 8) reply0.bytes) = false ∧ reply0.dest < 16) ∧
    ((getBb (setStream 7 { Stream.init with pcap := 4, kvLen := 6, newPos := 3, kvCap := 8 } (alignedUp { msg0 with verdict := some true } { Bb.init with tx := some (txOf (some 4) true 0) })) 0).tx = some (txOf (some 4) true 0) ∧ findMsg (setStream 7 { Stream.init with pcap := 4, kvLen := 6, newPos := 3, kvCap := 8 } (alignedUp { msg0 with verdict := some true } { Bb.init with tx := some (txOf (some 4) true 0) })) 4 = some { msg0 with verdict := some true } ∧ (getStream (setStream 7 { Stream.init with pcap := 4, kvLen := 6, newPos := 3, kvCap := 8 } (alignedUp { msg0 with verdict := some true } { Bb.init with tx := some (txOf (some 4) true 0) })) 7).pcap ≠ 0) ∧
    ((getBb (alignedUp { msg0 with verdict := some false } { Bb.init with tx := some (txOf (some 4) true 0) }) 0).tx = some (txOf (some 4) true 0) ∧ findMsg (alignedUp { msg0 with verdict := some false } { Bb.init with tx := some (txOf (some 4) true 0) }) 4 = some { msg0 with verdict := some false }) ∧
    ((getBb (alignedUp msg0 { Bb.init with tx := some (txOf (some 4) true 0) }) 0).tx = some (txOf (some 4) true 0) ∧ findMsg (alignedUp msg0 { Bb.init with tx := some (txOf (some 4) true 0) }) 4 = some msg0) ∧
    ((getBb ({ alignedUp msg0 { Bb.init with tx := some (txOf none false 1) } with egress := [(8, [{ kind := .bridged, bytes := okBytes, pri := 0, sent := 0, lane := some 0, order := 9 }])] }) 0).tx = some (txOf none false 1)) ∧
    ((getBb (alignedUp { msg0 with reply := some { reply0 with begun := true } } { Bb.init with tx := some (txOf (some 4) true 0) }) 0).tx = some (txOf (some 4) true 0) ∧ findMsg (alignedUp { msg0 with reply := some { reply0 with begun := true } } { Bb.init with tx := some (txOf (some 4) true 0) }) 4 = some { msg0 with reply := some { reply0 with begun := true } }) :=
  by refine ⟨?_, ?_, ?_, ?_, ?_, ?_⟩ <;> decide +kernel

/-- The PTP servo on, its step threshold 100, its master 0, interface 0 and domain 0. -/
def ptpUp : State := setReg 0x2030 100 (setReg 0x201C 1 { up with clk := { up.clk with devTime := 1000 } })

theorem witness_PtpServo :
    (ptpServo ptpUp = true ∧ regF ptpUp (bbpReg 0 0x1C) 1 3 = 0 ∧ regF ptpUp (bbpReg 0 0x1C) 8 8 = (0 : BitVec 8).toNat ∧ ptpUp.ptp.master = (0 : BitVec 80).toNat ∧ ((299 : BitVec 64).toNat : Int) - (400 : BitVec 64).toNat - getReg ptpUp (bbpReg 0 0x2C) < -(getReg ptpUp (bbpReg 0 0x30) : Int)) ∧
    (ptpServo ptpUp = true ∧ (getReg ptpUp (bbpReg 0 0x30) : Int) < ((501 : BitVec 64).toNat : Int) - (400 : BitVec 64).toNat - getReg ptpUp (bbpReg 0 0x2C)) ∧
    (ptpServo ptpUp = true ∧ -(getReg ptpUp (bbpReg 0 0x30) : Int) ≤ ((300 : BitVec 64).toNat : Int) - (400 : BitVec 64).toNat - getReg ptpUp (bbpReg 0 0x2C) ∧ ((300 : BitVec 64).toNat : Int) - (400 : BitVec 64).toNat - getReg ptpUp (bbpReg 0 0x2C) ≤ (getReg ptpUp (bbpReg 0 0x30) : Int)) ∧
    (ptpServo up = false) ∧
    (ptpServo ptpUp = true ∧ ptpUp.ptp.lost = false) :=
  by refine ⟨?_, ?_, ?_, ?_, ?_⟩ <;> decide +kernel

/-- A result that admits to stream 7, of class 2. -/
def res0 : Result := decodeResult (leBytes 4 (3 + 32 + 1792) ++ leBytes 4 0)
def fragOf (off : Nat) : FragInfo := { key := [1, 2, 3, 17, 9], off := off, more := false, dataOff := 34, dataLen := 8 }
def glean0 : Glean := { key := [1, 2, 3, 17, 9], result := some res0, first := 3, ingress := 1, ranges := [(0, 8)], total := none }
/-- A state whose Yoke is RUNNING, with stream 7 and one frame as given. -/
def admitUp (v : Stream) (f : Frame) (y : Nat) : State := { setReg 0x2880 y (setStream 7 v up) with frames := [f] }
def wantFrame : Frame := { frame1 with walk := .decided, result := some res0, wantAdmit := true }

/-- Frame 3 at engine 0 with a table as given. -/
def walkUp (f : Frame) (ts : List (Nat × List Byte)) : State := { setReg 0x2408 0 up with frames := [f], tables := ts }
def atEngine : Frame := { frame1 with engine := 0 }
/-- A node that needs bytes not yet there; a ternary entry that admits to stream 7. -/
def waitTab : List (Nat × List Byte) := [(0x220010, leBytes 4 (100 + 2 ^ 19))]
def admitTab : List (Nat × List Byte) := [(0x240000, List.replicate 128 0#8 ++ leBytes 4 (3 + 32 + 1792) ++ leBytes 4 0 ++ [0x80#8])]
def walkOf (f : Frame) (ts : List (Nat × List Byte)) : WalkSt := (walkFrame (resumeCfg (walkUp f ts) f) f).2.1
/-- A frame that is a later fragment of IPv4 from its first byte, what the walk reads of it, and the node that says so. -/
def fragFrame : Frame :=
  { newFrame 3 1 5 (([0x45, 0, 0, 40, 0, 9, 0x20, 1, 64, 17, 0, 0, 1, 2, 3, 4, 5, 6, 7, 8].map (BitVec.ofNat 8) ++ List.replicate 40 0#8).map some) false with engine := 0 }
def fragTab : List (Nat × List Byte) := [(0x200000, leBytes 4 0x100 ++ leBytes 4 0 ++ leBytes 4 (20 * 2 ^ 24))]
def fragInfo0 : FragInfo := { key := [1, 0x01020304, 0x05060708, 17, 9], off := 8, more := true, dataOff := 20, dataLen := 20 }

theorem witness_PloughClassifies :
    (∃ (s : State) (f : Frame), findFrame s f.fid = some f ∧ f.walk = .queued ∧ 4 ≤ f.engine ∧ schedShape s f = some false ∧
      queueLen s (leastQueue s) < 64) ∧
    (∃ (s : State) (f : Frame), findFrame s f.fid = some f ∧ f.walk = .queued ∧ 4 ≤ f.engine ∧ schedShape s f = some false ∧
      64 ≤ queueLen s (leastQueue s)) ∧
    (∃ (s : State) (f : Frame) (w : WalkSt) (en : Nat), findFrame s f.fid = some f ∧ (f.walk = .queued ∧ f.engine < 4 ∨ f.walk = .walking) ∧
      walkFrame (resumeCfg s f) f = (.wait, w, en)) ∧
    (∃ (s : State) (f : Frame) (w : WalkSt) (en : Nat) (cnt : Nat) (res : Result), findFrame s f.fid = some f ∧ (f.walk = .queued ∧
      f.engine < 4 ∨ f.walk = .walking) ∧ walkFrame (resumeCfg s f) f = (.done, w, en) ∧ lookup s (fvMeta f w en ++ w.fv.drop 8) = some (res, cnt) ∧
      res.action = 3 ∧ res.mapBad = false ∧ f.verdict = none) ∧
    (∃ (s : State) (f : Frame) (i : FragInfo), findFrame s f.fid = some f ∧ f.frag = some i ∧ f.walk = .later ∧ findGlean s i.key = none ∧
      heldBytes (updFrame f.fid (fun f => { f with walk := .holding }) s) ≤ 65536) ∧
    (∃ (s : State) (f : Frame) (i : FragInfo) (e : Glean), findFrame s f.fid = some f ∧ f.frag = some i ∧ f.walk = .later ∧
      findGlean s i.key = some e ∧ f.verdict = none) ∧
    (∃ (s : State) (f : Frame), findFrame s f.fid = some f ∧ f.walk = .holding) ∧
    (∃ (s : State) (f : Frame) (w : WalkSt) (en : Nat) (i : FragInfo), findFrame s f.fid = some f ∧ (f.walk = .queued ∧
      f.engine < 4 ∨ f.walk = .walking) ∧ walkFrame (resumeCfg s f) f = (.later i, w, en)) :=
  ⟨⟨{ up with frames := [frame1, { newFrame 4 1 5 [] false with engine := 0 }] }, frame1, by decide +kernel⟩,
    ⟨{ up with frames := frame1 :: (List.range 256).map (fun i => { newFrame (10 + i) 1 5 [] false with engine := i % 4 }) }, frame1,
    by decide +kernel⟩,
    ⟨walkUp atEngine waitTab, atEngine, walkOf atEngine waitTab, (walkFrame (resumeCfg (walkUp atEngine waitTab) atEngine) atEngine).2.2,
    by decide +kernel⟩,
    ⟨walkUp atEngine admitTab, atEngine, walkOf atEngine admitTab, 0xFF, 116, res0, by decide +kernel⟩,
    ⟨{ up with frames := [{ frame1 with walk := .later, frag := some (fragOf 8) }] }, { frame1 with walk := .later, frag := some (fragOf 8) },
    fragOf 8, by decide +kernel⟩,
    ⟨{ up with frames := [{ frame1 with walk := .later, frag := some (fragOf 8) }], plg := { up.plg with gleans := [glean0] } },
    { frame1 with walk := .later, frag := some (fragOf 8) }, fragOf 8, glean0, by decide +kernel⟩,
    ⟨{ up with frames := [{ frame1 with walk := .holding, frag := some (fragOf 8) }] }, { frame1 with walk := .holding, frag := some (fragOf 8) },
    by decide +kernel⟩,
    ⟨setReg 0x2408 1 (walkUp fragFrame fragTab), fragFrame,
    (walkFrame (resumeCfg (setReg 0x2408 1 (walkUp fragFrame fragTab)) fragFrame) fragFrame).2.1, 0, fragInfo0, by decide +kernel⟩⟩

/-- Frame 3 is a first fragment that waits for its set, beside a second entry. -/
def gleanUp : State :=
  { up with
    frames := [{ frame1 with gleaned := true, wantAdmit := true, frag := some (fragOf 0) }]
    plg := { up.plg with gleans := [glean0, { glean0 with first := 4, key := [] }] } }

theorem witness_PloughAdmits :
    (∃ (s : State) (g : Glean) (f : Frame), s.plg.gleans.find? (fun x => x.first = g.first) = some g ∧ findFrame s g.first = some f) ∧
    (∃ (s : State) (f : Frame) (r : Result), findFrame s f.fid = some f ∧ f.result = some r ∧ f.wantAdmit = true ∧ f.giant = false ∧
      f.verdict ≠ some false ∧ leadReached f r = true ∧ yokState s = 3 ∧ (getStream s r.stream).st = .opened ∧
      inflightCount (getStream s r.stream) < 4 ∧ (getStream s r.stream).resetWait = none) ∧
    (∃ (s : State) (f : Frame) (r : Result), findFrame s f.fid = some f ∧ f.result = some r ∧ f.wantAdmit = true ∧ f.giant = false ∧
      f.verdict ≠ some false ∧ leadReached f r = true ∧ yokState s = 3 ∧ (getStream s r.stream).st = .fenced ∧
      inflightCount (getStream s r.stream) < 4 ∧ (getStream s r.stream).resetWait = none ∧ findMsg s s.nextMid = none) ∧
    (∃ (s : State) (f : Frame) (r : Result), findFrame s f.fid = some f ∧ f.result = some r ∧ f.wantAdmit = true ∧ f.giant = false ∧
      f.verdict ≠ some false ∧ leadReached f r = true ∧ yokState s ≠ 3 ∧ yokState s ≠ 4 ∧ yokState s ≠ 7) ∧
    (∃ (s : State) (f : Frame) (r : Result), findFrame s f.fid = some f ∧ f.result = some r ∧ f.wantAdmit = true ∧ f.giant = false ∧
      f.verdict ≠ some false ∧ leadReached f r = true ∧ yokState s = 3 ∧
      ((getStream s r.stream).st = .opened ∨ (getStream s r.stream).st = .fenced) ∧ 4 ≤ inflightCount (getStream s r.stream)) :=
  ⟨⟨gleanUp, glean0, { frame1 with gleaned := true, wantAdmit := true, frag := some (fragOf 0) }, by decide +kernel⟩,
    ⟨admitUp { Stream.init with st := .opened, nextIn := 3 } wantFrame 3, wantFrame, res0, by decide +kernel⟩,
    ⟨admitUp { Stream.init with st := .fenced, nextIn := 65535, nextOut := 65532 } wantFrame 3, wantFrame, res0, by decide +kernel⟩,
    ⟨admitUp { Stream.init with st := .opened } wantFrame 1, wantFrame, res0, by decide +kernel⟩,
    ⟨admitUp { Stream.init with st := .opened, nextIn := 4 } wantFrame 3, wantFrame, res0, by decide +kernel⟩⟩

/-- A UDP frame over IPv4 to port 500, from backbone interface 1. -/
def schedF : Frame :=
  { newFrame 3 9 0x3F ((List.replicate 12 0#8 ++ [8, 0, 0x45, 0, 0, 60, 0, 0, 0, 0, 64, 17, 0, 0, 1, 2, 3, 4, 5, 6, 7, 8, 0, 1, 1, 244, 0, 40, 0, 0].map (BitVec.ofNat 8) ++
      List.replicate 40 0#8).map some) true with verdict := some true }

theorem witness_ScheduleFrameTaken :
    (findFrame ({ setReg 0x203C 500 (setReg 0x2038 1 up) with frames := [schedF, frame1] }) schedF.fid = some schedF ∧ schedF.walk = .queued ∧ schedF.verdict = some true ∧ schedShape ({ setReg 0x203C 500 (setReg 0x2038 1 up) with frames := [schedF, frame1] }) schedF = some true) :=
  by decide +kernel

/-- Group 5 while its pass runs. -/
def runUp : State := fabUp { group0 with run := some run0 } sheaf0
/-- What holds of all of an option holds of what it is. -/
theorem all_of_some {α : Type} (o : Option α) (g : α) (p : α → Bool) (h : o = some g) (e : o.all p = true) : p g = true := by subst h; exact e

theorem witness_SowerPasses :
    (∃ (s : State) (x : Sheaf), sowerUp s = true ∧ findSheaf s x.sid = some x ∧ x.forming = true ∧ x.t0 + x.window ≤ s.clk.now) ∧
    (∃ (s : State) (x : Sheaf), sowerUp s = true ∧ findSheaf s x.sid = some x ∧ s.clk.now < x.t0 + x.window) ∧
    (∃ (s : State) (u : State) (gid : Fin 64) (g : Group) (x : Sheaf), sowerUp s = true ∧ u = readySheaves s ∧ findGroup u gid = some g ∧
      g.run = none ∧ g.trans = none ∧ g.plots ≠ [] ∧ g.unfilled = [] ∧
      (closedSheaves u).find? (fun x => x.granted.isSome && !x.members.isEmpty && (match sheafGroup u x with | some h => decide (h.gid = gid) | none => false)) = some x ∧
      findSheaf u x.sid = some x ∧
      (∀ h ∈ bundleHalves x.slot x.bank ((getBank u x.slot x.bank).passOff + 192 * x.pass) 192 ++ bundleHalves x.slot x.bank (passRec u x.slot x.bank x.pass 8 8) 4,
      poisoned u h = false)) ∧
    (∃ (s : State) (u : State) (gid : Fin 64), sowerUp s = true ∧ u = readySheaves s ∧ (∀ g,
      findGroup u gid = some g → g.run.isSome = true ∨ g.trans.isSome = true ∨ g.plots = [] ∨ g.unfilled ≠ [])) ∧
    (∃ (s : State) (gid : Fin 64) (used : Nat) (outs : List (Nat × List Byte)) (spills : List (Fin 1024 × Fin 16384)) (g : Group) (r : Run) (x : Sheaf),
      sowerUp s = true ∧ findGroup s gid = some g ∧ g.run = some r ∧ g.trans = none ∧ findSheaf s r.sid = some x ∧
      (getBank s g.slot g.bank).npass ≤ r.pass + 1) ∧
    (∃ (s : State) (gid : Fin 64) (used : Nat) (outs : List (Nat × List Byte)) (spills : List (Fin 1024 × Fin 16384)) (g : Group) (r : Run) (x : Sheaf),
      sowerUp s = true ∧ findGroup s gid = some g ∧ g.run = some r ∧ g.trans = none ∧ findSheaf s r.sid = some x ∧ x.members ≠ [] ∧
      r.pass + 1 < (getBank s g.slot g.bank).npass) :=
  ⟨⟨fabUp group0 { sheaf0 with forming := true, window := 0 }, { sheaf0 with forming := true, window := 0 }, by decide +kernel⟩,
    ⟨fabUp group0 { sheaf0 with forming := true }, { sheaf0 with forming := true }, by decide +kernel⟩,
    ⟨fabUp group0 sheaf0, readySheaves (fabUp group0 sheaf0), 5, group0, { sheaf0 with granted := some 0 }, by decide +kernel⟩,
    ⟨runUp, readySheaves runUp, 5, by decide +kernel, rfl, fun g h => Or.inl (all_of_some _ _ (fun x => x.run.isSome) h (by decide +kernel))⟩,
    ⟨runUp, 5, 0, [(4, [1#8])], [], { group0 with run := some run0 }, run0, sheaf0, by decide +kernel⟩,
    ⟨setBank 0 0 { Bank.init with npass := 2 } runUp, 5, 0, [], [], { group0 with run := some run0 }, run0, sheaf0, by decide +kernel⟩⟩

/-- The fabric of `fabUp` with a token held on plot 2. -/
def tokUp (g : Group) (x : Sheaf) : State :=
  setTile 35 { Tile.init with run := .running, ms := [{ tok := { net := 0, tag := 0, data := 0, headland := false }, port := 0, shared := false, uses := 1, seqNo := 0 }] } (fabUp g x)

/-- Group 5 with a rotation whose load has ended; a state in which group 5 is hot enough to rotate. -/
def rot0 : Rot := { target := [0], loaded := true, t0 := 0 }
def rotUp : State := fabUp { group0 with rot := some rot0 } sheaf0
def hotUp : State := { setReg 0x2618 4 (setReg 0x2614 1 (fabUp group0 sheaf0)) with clk := { up.clk with now := 10000000000 } }
/-- A Cumin sheaf that has waited for credit since 5, at a time. -/
def shed0 : Sheaf := { sheaf0 with cls := 3, waitT0 := some 5 }
def shedUp (now : Nat) : State := { fabUp group0 shed0 with clk := { up.clk with now := now } }

theorem witness_SowerIntervenes :
    (∃ (s : State) (gid : Fin 64) (elapsed : Nat) (g : Group) (r : Run), sowerUp s = true ∧ findGroup s gid = some g ∧ g.run = some r ∧
      sliceBound s g r + regF s 0x2610 0 16 < elapsed - r.paused ∧ gatewayPaused s g = false) ∧
    (∃ (s : State) (gid : Fin 64) (elapsed : Nat) (g : Group) (r : Run), sowerUp s = true ∧ findGroup s gid = some g ∧ g.run = some r ∧
      elapsed - r.paused ≤ sliceBound s g r + regF s 0x2610 0 16) ∧
    (∃ (s : State) (x : Sheaf) (t0 : Nat), sowerUp s = true ∧ findSheaf s x.sid = some x ∧ x.waitT0 = some t0 ∧
      s.clk.now - t0 ≤ 1000 * max 100 (regF s 0x260C 0 16)) ∧
    (∃ (s : State) (x : Sheaf) (t0 : Nat), sowerUp s = true ∧ findSheaf s x.sid = some x ∧ x.cls = 3 ∧ x.waitT0 = some t0 ∧ x.granted = none ∧
      1000 * max 100 (regF s 0x260C 0 16) < s.clk.now - t0) ∧
    (∃ (s : State) (p : Fin 64) (r : List (Fin 1024)), sowerUp s = true ∧ (getReg s 0x2614).testBit 0 = false ∧ r ≠ []) ∧
    (∃ (s : State), sowerUp s = true ∧ (getReg s 0x2614).testBit 0 = true ∧ (∃ h ∈ s.groups, (rotEligible s h).isSome = true)) ∧
    (∃ (s : State) (gid : Fin 64) (g : Group) (r : Rot), sowerUp s = true ∧ findGroup s gid = some g ∧ g.rot = some r ∧ r.loaded = true ∧
      r.t0 + 1000000 * regF s 0x2620 0 16 ≤ s.clk.now ∧ g.run = none ∧ g.trans = none ∧ (∀ p ∈ g.plots, plotTokens s p = [])) ∧
    (∃ (s : State) (gid : Fin 64) (g : Group) (r : Rot), sowerUp s = true ∧ findGroup s gid = some g ∧ g.rot = some r ∧
      s.clk.now < r.t0 + 1000000 * regF s 0x2620 0 16) :=
  ⟨⟨tokUp { group0 with run := some run0 } sheaf0, 5, 100000, { group0 with run := some run0 }, run0, by decide +kernel⟩,
    ⟨tokUp { group0 with run := some run0 } sheaf0, 5, 0, { group0 with run := some run0 }, run0, by decide +kernel⟩,
    ⟨shedUp 100005, shed0, 5, by decide +kernel⟩,
    ⟨shedUp 10000006, shed0, 5, by decide +kernel⟩,
    ⟨setReg 0x2614 0 (fabUp group0 sheaf0), 2, [1023, 1], by decide +kernel⟩,
    ⟨hotUp, by decide +kernel, by decide +kernel, group0, by decide +kernel, by decide +kernel⟩,
    ⟨setReg 0x2620 0 rotUp, 5, { group0 with rot := some rot0 }, rot0, by decide +kernel⟩,
    ⟨setReg 0x2620 1 rotUp, 5, { group0 with rot := some rot0 }, rot0, by decide +kernel⟩⟩

/-- Group 5 in a transition to generation 0, its units of generation 3; some have finished. -/
def transUp (fin : List Nat) : State :=
  { setSu 16 { Su.init with gen := 3, shadowReady := true, shadow := 5, shadowCfg := 77 }
      (setTile 35 { Tile.init with gen := 3, shadowReady := true, shadow := { TileBank.init with cfg := 77, mode := 2 }, s := [(1, 6)], a := [(1, 5)], p := [(1, 5)], v := [(1, 6)], flags := 5, ts := [(9, 1)] }
        (fabUp { group0 with trans := some { gen := 0, cfg := 77, size := 4, turns := false } } sheaf0)) with
    fab := { up.fab with finished := fin } }

/-- Tile 35 of `transUp` in another form. -/
def transTile (f : Tile → Tile) (fin : List Nat) : State := setTile 35 (f { Tile.init with gen := 3 }) (transUp fin)
/-- Group 5 turns from plot 2 to plot 0, its tile 35 finished. -/
def turn0 : Trans := { gen := 0, cfg := 77, size := 4, turns := true }
def turnGroup : Group := { group0 with rot := some { target := [0], loaded := true, t0 := 0 }, trans := some turn0 }
def turnUp : State := { setTile 35 { Tile.init with gen := 3 } (fabUp turnGroup sheaf0) with fab := { up.fab with finished := [35] } }

theorem witness_UnitTransitions :
    (∃ (s : State) (u : Fin 3072) (cfg : BitVec 16) (mode : Fin 8) (watch : Option (Fin 16)) (words : List Word) (g : Group), sowerUp s = true ∧
      groupOfPlot s (plotOfUnit u) = some g ∧ u.val < 1024 ∧ g.reload = false) ∧
    (∃ (s : State) (u : Fin 3072) (cfg : BitVec 16) (mode : Fin 8) (watch : Option (Fin 16)) (words : List Word) (g : Group), sowerUp s = true ∧
      groupOfPlot s (plotOfUnit u) = some g ∧ u.val < 1024 ∧ g.reload = true ∧ plotOfUnit u ∈ g.plots ∧ pendingCfg s g.gid = some cfg.toNat) ∧
    (∃ (s : State) (u : Fin 3072) (cfg : BitVec 16) (mode : Fin 8) (watch : Option (Fin 16)) (w : Word) (words : List Word) (g : Group),
      sowerUp s = true ∧ groupOfPlot s (plotOfUnit u) = some g ∧ 1024 ≤ u.val ∧ u.val < 2048 ∧ g.reload = false) ∧
    (∃ (s : State) (u : Fin 3072) (cfg : BitVec 16) (mode : Fin 8) (watch : Option (Fin 16)) (a : Word) (b : Word) (c : Word) (g : Group),
      sowerUp s = true ∧ groupOfPlot s (plotOfUnit u) = some g ∧ 2048 ≤ u.val ∧ g.reload = false) ∧
    (∃ (s : State) (u : Fin 3072) (g : Group) (tr : Trans), sowerUp s = true ∧ groupOfPlot s (plotOfUnit u) = some g ∧ g.trans = some tr ∧
      plotOfUnit u ∈ transPlots g ∧ u.val ∉ s.fab.finished ∧ unitGen s u ≠ tr.gen ∧ (∀ i ∈ usedInputs s u, (u.val, i) ∈ s.fab.seen) ∧
      quietUnit s u = true ∧ forwardRoom s tr u = true) ∧
    (∃ (s : State) (u : Fin 3072) (g : Group) (tr : Trans), sowerUp s = true ∧ groupOfPlot s (plotOfUnit u) = some g ∧ g.trans = some tr ∧
      (quietUnit s u = false ∨ forwardRoom s tr u = false ∨ ∃ i ∈ usedInputs s u, (u.val, i) ∉ s.fab.seen)) ∧
    (∃ (s : State) (u : Fin 3072) (g : Group) (tr : Trans), sowerUp s = true ∧ groupOfPlot s (plotOfUnit u) = some g ∧ g.trans = some tr ∧
      vacated g tr (plotOfUnit u) = false ∧ u.val ∈ s.fab.finished ∧ unitGen s u ≠ tr.gen ∧ (unitCfg s u).2.2 = true ∧ (unitCfg s u).1 = tr.cfg) ∧
    (∃ (s : State) (u : Fin 3072) (g : Group) (tr : Trans), sowerUp s = true ∧ groupOfPlot s (plotOfUnit u) = some g ∧ g.trans = some tr ∧
      vacated g tr (plotOfUnit u) = false ∧ u.val ∈ s.fab.finished ∧ unitGen s u ≠ tr.gen ∧ (unitCfg s u).2.2 = false ∧ sameSeed s tr.cfg u = true) ∧
    (∃ (s : State) (u : Fin 3072) (g : Group) (tr : Trans), sowerUp s = true ∧ groupOfPlot s (plotOfUnit u) = some g ∧ g.trans = some tr ∧
      vacated g tr (plotOfUnit u) = true ∧ u.val ∈ s.fab.finished ∧ unitGen s u ≠ tr.gen ∧ u.val < 1024) ∧
    (∃ (s : State) (u : Fin 3072) (g : Group) (tr : Trans), sowerUp s = true ∧ groupOfPlot s (plotOfUnit u) = some g ∧ g.trans = some tr ∧
      (u.val ∉ s.fab.finished ∨ ((unitCfg s u).2.2 = false ∧ sameSeed s tr.cfg u = false ∧ vacated g tr (plotOfUnit u) = false))) ∧
    (∃ (s : State) (u : Fin 3072) (g : Group) (tr : Trans), sowerUp s = true ∧ groupOfPlot s (plotOfUnit u) = some g ∧ g.trans = some tr ∧
      (u.val ∉ s.fab.finished ∨ ((unitCfg s u).2.2 = false ∧ sameSeed s tr.cfg u = false ∧ vacated g tr (plotOfUnit u) = false))) ∧
    (∃ (s : State) (u : Fin 3072) (g : Group) (tr : Trans), sowerUp s = true ∧ groupOfPlot s (plotOfUnit u) = some g ∧ g.trans = some tr ∧
      vacated g tr (plotOfUnit u) = false ∧ u.val ∈ s.fab.finished ∧ unitGen s u ≠ tr.gen ∧ (unitCfg s u).2.2 = true ∧ (unitCfg s u).1 ≠ tr.cfg) :=
  ⟨⟨fabUp group0 sheaf0, 47, 9, 2, some 15, [1, 2], group0, by decide +kernel⟩,
    ⟨fabUp { group0 with reload := true } sheaf0, 47, BitVec.ofNat 16 ((pendingCfg (fabUp { group0 with reload := true } sheaf0) 5).getD 0), 2,
    none, [1, 2], { group0 with reload := true }, by decide +kernel⟩,
    ⟨fabUp group0 sheaf0, 1040, 9, 2, none, 5, [], group0, by decide +kernel⟩,
    ⟨fabUp group0 sheaf0, 2080, 9, 2, none, 1, 2, 3, group0, by decide +kernel⟩,
    ⟨transUp [], 35, { group0 with trans := some { gen := 0, cfg := 77, size := 4, turns := false } },
    { gen := 0, cfg := 77, size := 4, turns := false }, by decide +kernel⟩,
    ⟨transTile (fun t => { t with run := .running }) [], 35, { group0 with trans := some { gen := 0, cfg := 77, size := 4, turns := false } },
    { gen := 0, cfg := 77, size := 4, turns := false }, by decide +kernel⟩,
    ⟨transUp [35], 35, { group0 with trans := some { gen := 0, cfg := 77, size := 4, turns := false } },
    { gen := 0, cfg := 77, size := 4, turns := false }, by decide +kernel⟩,
    ⟨transTile (fun t => { t with cfg := 77, seeded := true, a := [(1, 5)], p := [(1, 5)], active := { TileBank.init with cfg := 77, mode := 4, words := [(3, 9)] }, v := [(1, 6)], flags := 5 }) [35],
    35, { group0 with trans := some { gen := 0, cfg := 77, size := 4, turns := false } }, { gen := 0, cfg := 77, size := 4, turns := false },
    by decide +kernel⟩,
    ⟨turnUp, 35, turnGroup, turn0, by decide +kernel⟩,
    ⟨transTile (fun t => { t with cfg := 76, seeded := true }) [35], 35,
    { group0 with trans := some { gen := 0, cfg := 77, size := 4, turns := false } }, { gen := 0, cfg := 77, size := 4, turns := false },
    by decide +kernel⟩,
    ⟨transUp [], 35, { group0 with trans := some { gen := 0, cfg := 77, size := 4, turns := false } },
    { gen := 0, cfg := 77, size := 4, turns := false }, by decide +kernel⟩,
    ⟨transTile (fun t => { t with shadowReady := true }) [35], 35, { group0 with trans := some { gen := 0, cfg := 77, size := 4, turns := false } },
    { gen := 0, cfg := 77, size := 4, turns := false }, by decide +kernel⟩⟩


theorem issues_wUp (w : Word) (op : Nat) (h : (canExec (wUp w) 5 op && decide (tileWord (getTile (wUp w) 5) = w.toNat ∧ (getTile (wUp w) 5).pc < 1023)) = true) :
    Issues (wUp w) 5 op w.toNat := by
  simp only [Bool.and_eq_true, decide_eq_true_eq] at h
  exact ⟨h.1, h.2.1, h.2.2⟩

theorem witness_TileScalarResults :
    (Issues (wUp 0x00000000) 5 0x00 (0x00000000 : Word).toNat) ∧
    (Issues (wUp 0x04221803) 5 0x01 (0x04221803 : Word).toNat) ∧
    (Issues (wUp 0x08221803) 5 0x02 (0x08221803 : Word).toNat) ∧
    (Issues (wUp 0x0C221803) 5 0x03 (0x0C221803 : Word).toNat) ∧
    (Issues (wUp 0x10221803) 5 0x04 (0x10221803 : Word).toNat) ∧
    (Issues (wUp 0x14221803) 5 0x05 (0x14221803 : Word).toNat) ∧
    (Issues (wUp 0x18221803) 5 0x06 (0x18221803 : Word).toNat) ∧
    (Issues (wUp 0x1C221803) 5 0x07 (0x1C221803 : Word).toNat) ∧
    (Issues (wUp 0x2C221803) 5 0x0B (0x2C221803 : Word).toNat) :=
  ⟨issues_wUp _ _ (by decide +kernel), issues_wUp _ _ (by decide +kernel), issues_wUp _ _ (by decide +kernel), issues_wUp _ _ (by decide +kernel), issues_wUp _ _ (by decide +kernel), issues_wUp _ _ (by decide +kernel), issues_wUp _ _ (by decide +kernel), issues_wUp _ _ (by decide +kernel), issues_wUp _ _ (by decide +kernel)⟩

theorem witness_TileControl :
    (∃ (s : State) (k : Fin 1024) (w : Nat) (T : Tile), getTile s k = T ∧ Issues s k 0x0C w) ∧
    (∃ (s : State) (k : Fin 1024) (w : Nat) (T : Tile), getTile s k = T ∧ Issues s k 0x08 w) ∧
    (∃ (s : State) (k : Fin 1024) (w : Nat) (T : Tile), getTile s k = T ∧ Issues s k 0x09 w) ∧
    (∃ (s : State) (k : Fin 1024) (w : Nat) (T : Tile), getTile s k = T ∧ Issues s k 0x0A w) ∧
    (∃ (s : State) (k : Fin 1024) (w : Nat) (T : Tile), getTile s k = T ∧ Issues s k 0x3D w) ∧
    (∃ (s : State) (k : Fin 1024) (w : Nat) (T : Tile), getTile s k = T ∧ Issues s k 0x3F w) ∧
    (∃ (s : State) (k : Fin 1024) (w : Nat) (T : Tile), getTile s k = T ∧ canExec s k 0x3F = true ∧ T.pc = 1023) ∧
    (∃ (s : State) (k : Fin 1024) (w : Nat) (T : Tile), getTile s k = T ∧ plotsOn s = true ∧ T.run = .running ∧
      opKnown (fOp (tileWord T)) = false) ∧
    (∃ (s : State) (k : Fin 1024) (w : Nat) (T : Tile), getTile s k = T ∧ canExec s k 0x00 = true ∧ T.pc = 1023) :=
  ⟨⟨wUp 0x30221803, 5, (0x30221803 : Word).toNat, getTile (wUp 0x30221803) 5, by unfold Issues; decide +kernel⟩,
    ⟨wUp 0x20221803, 5, (0x20221803 : Word).toNat, getTile (wUp 0x20221803) 5, by unfold Issues; decide +kernel⟩,
    ⟨wUp 0x24221803, 5, (0x24221803 : Word).toNat, getTile (wUp 0x24221803) 5, by unfold Issues; decide +kernel⟩,
    ⟨wUp 0x28221803, 5, (0x28221803 : Word).toNat, getTile (wUp 0x28221803) 5, by unfold Issues; decide +kernel⟩,
    ⟨wUp 0xF4221803, 5, (0xF4221803 : Word).toNat, getTile (wUp 0xF4221803) 5, by unfold Issues; decide +kernel⟩,
    ⟨wUp 0xFC000000, 5, (0xFC000000 : Word).toNat, getTile (wUp 0xFC000000) 5, by unfold Issues; decide +kernel⟩,
    ⟨setTile 5 { Tile.init with run := .running, pc := 1023, active := { TileBank.init with words := [(1023, 0xFC000000)] } } running, 5,
    (0 : Word).toNat,
    getTile (setTile 5 { Tile.init with run := .running, pc := 1023, active := { TileBank.init with words := [(1023, 0xFC000000)] } } running) 5,
    by decide +kernel⟩,
    ⟨wUp 0x3C000000, 5, (0x3C000000 : Word).toNat, getTile (wUp 0x3C000000) 5, by decide +kernel⟩,
    ⟨setTile 5 { Tile.init with run := .running, pc := 1023 } running, 5, (0 : Word).toNat,
    getTile (setTile 5 { Tile.init with run := .running, pc := 1023 } running) 5, by decide +kernel⟩⟩

def badUp (w : Word) : State := setTile 5 { wTile w with tsBad := [0] } running

theorem issues_badUp (w : Word) (op : Nat) (h : (canExec (badUp w) 5 op && decide (tileWord (getTile (badUp w) 5) = w.toNat ∧ (getTile (badUp w) 5).pc < 1023)) = true) :
    Issues (badUp w) 5 op w.toNat := by
  simp only [Bool.and_eq_true, decide_eq_true_eq] at h
  exact ⟨h.1, h.2.1, h.2.2⟩

theorem witness_TileLoads :
    (∃ (s : State) (k : Fin 1024) (w : Nat) (T : Tile), getTile s k = T ∧ Issues s k 0x0D w ∧ tsBadRead T (tsPlace T w 4) 4 = false) ∧
    (∃ (s : State) (k : Fin 1024) (w : Nat) (T : Tile), getTile s k = T ∧ Issues s k 0x10 w ∧ tsBadRead T (tsPlace T w 64) 64 = false) ∧
    (∃ (s : State) (k : Fin 1024) (w : Nat) (T : Tile) (i : Fin 48), getTile s k = T ∧ Issues s k 0x10 w ∧
      tsBadRead T (tsPlace T w 64) 64 = false ∧ i.val < 8) ∧
    (∃ (s : State) (k : Fin 1024) (w : Nat) (T : Tile), getTile s k = T ∧ Issues s k 0x12 w ∧ tsBadRead T (tsPlace T w 64) 384 = false) ∧
    (∃ (s : State) (k : Fin 1024) (w : Nat) (T : Tile) (i : Fin 48), getTile s k = T ∧ Issues s k 0x12 w ∧
      tsBadRead T (tsPlace T w 64) 384 = false) ∧
    (∃ (s : State) (k : Fin 1024) (w : Nat) (T : Tile), getTile s k = T ∧ Issues s k 0x0D w ∧ tsBadRead T (tsPlace T w 4) 4 = true) ∧
    (∃ (s : State) (k : Fin 1024) (w : Nat) (T : Tile), getTile s k = T ∧ Issues s k 0x10 w ∧ tsBadRead T (tsPlace T w 64) 64 = true) ∧
    (∃ (s : State) (k : Fin 1024) (w : Nat) (T : Tile), getTile s k = T ∧ Issues s k 0x12 w ∧ tsBadRead T (tsPlace T w 64) 384 = true) ∧
    (∃ (s : State) (k : Fin 1024) (w : Nat) (T : Tile), getTile s k = T ∧ Issues s k 0x0D w) ∧
    (∃ (s : State) (k : Fin 1024) (w : Nat) (T : Tile) (i : Fin 48), getTile s k = T ∧ Issues s k 0x10 w ∧ i.val < 8) ∧
    (∃ (s : State) (k : Fin 1024) (w : Nat) (T : Tile) (i : Fin 48), getTile s k = T ∧ Issues s k 0x12 w) :=
  ⟨⟨wUp 0x34200000, 5, (0x34200000 : Word).toNat, getTile (wUp 0x34200000) 5, by unfold Issues; decide +kernel⟩,
    ⟨wUp 0x40200000, 5, (0x40200000 : Word).toNat, getTile (wUp 0x40200000) 5, by unfold Issues; decide +kernel⟩,
    ⟨wUp 0x40200000, 5, (0x40200000 : Word).toNat, getTile (wUp 0x40200000) 5, 7, by unfold Issues; decide +kernel⟩,
    ⟨wUp 0x48200000, 5, (0x48200000 : Word).toNat, getTile (wUp 0x48200000) 5, by unfold Issues; decide +kernel⟩,
    ⟨wUp 0x48200000, 5, (0x48200000 : Word).toNat, getTile (wUp 0x48200000) 5, 47, by unfold Issues; decide +kernel⟩,
    ⟨badUp 0x34200000, 5, (0x34200000 : Word).toNat, getTile (badUp 0x34200000) 5, by unfold Issues; decide +kernel⟩,
    ⟨badUp 0x40200000, 5, (0x40200000 : Word).toNat, getTile (badUp 0x40200000) 5, by unfold Issues; decide +kernel⟩,
    ⟨badUp 0x48200000, 5, (0x48200000 : Word).toNat, getTile (badUp 0x48200000) 5, by unfold Issues; decide +kernel⟩,
    ⟨wUp 0x34200000, 5, (0x34200000 : Word).toNat, getTile (wUp 0x34200000) 5, by unfold Issues; decide +kernel⟩,
    ⟨wUp 0x40200000, 5, (0x40200000 : Word).toNat, getTile (wUp 0x40200000) 5, 7, by unfold Issues; decide +kernel⟩,
    ⟨wUp 0x48200000, 5, (0x48200000 : Word).toNat, getTile (wUp 0x48200000) 5, 47, by unfold Issues; decide +kernel⟩⟩

theorem witness_TileStores :
    (Issues (wUp 0x3820FFFC) 5 0x0E (0x3820FFFC : Word).toNat) ∧
    (Issues (wUp 0x4420FFFC) 5 0x11 (0x4420FFFC : Word).toNat) ∧
    (Issues (wUp 0x4C20FFFC) 5 0x13 (0x4C20FFFC : Word).toNat) :=
  ⟨issues_wUp _ _ (by decide +kernel), issues_wUp _ _ (by decide +kernel), issues_wUp _ _ (by decide +kernel)⟩

theorem witness_TileVectorLanes :
    (Issues (wUp 0x60000020) 5 0x18 (0x60000020 : Word).toNat ∧ fmtOf (bitsOf (0x60000020 : Word).toNat 0 4) = some (.int 4 true) ∧ bitsOf (0x60000020 : Word).toNat 4 4 < 14) ∧
    (Issues (wUp 0x60000000) 5 0x18 (0x60000000 : Word).toNat ∧ fmtOf (bitsOf (0x60000000 : Word).toNat 0 4) = some (.int 4 true) ∧ bitsOf (0x60000000 : Word).toNat 4 4 = 0 ∧ bitsOf (0x60000000 : Word).toNat 8 3 = 0) ∧
    (Issues (wUp 0x60000068) 5 0x18 (0x60000068 : Word).toNat ∧ (match fmtOf (bitsOf (0x60000068 : Word).toNat 0 4) with | some (.fp _) => true | _ => false) = true ∧ bitsOf (0x60000068 : Word).toNat 4 4 < 7) ∧
    (Issues (wUp 0x6000000F) 5 0x18 (0x6000000F : Word).toNat ∧ fmtOf (bitsOf (0x6000000F : Word).toNat 0 4) = none) ∧
    (Issues (wUp 0x600000E0) 5 0x18 (0x600000E0 : Word).toNat ∧ 14 ≤ bitsOf (0x600000E0 : Word).toNat 4 4) ∧
    (Issues (wUp 0x60000078) 5 0x18 (0x60000078 : Word).toNat ∧ (match fmtOf (bitsOf (0x60000078 : Word).toNat 0 4) with | some (.fp _) => true | _ => false) = true ∧ 7 ≤ bitsOf (0x60000078 : Word).toNat 4 4 ∧ bitsOf (0x60000078 : Word).toNat 4 4 ≤ 12) ∧
    (Issues (wUp 0x600000C8) 5 0x18 (0x600000C8 : Word).toNat ∧ (match fmtOf (bitsOf (0x600000C8 : Word).toNat 0 4) with | some (.fp _) => true | _ => false) = true ∧ 7 ≤ bitsOf (0x600000C8 : Word).toNat 4 4 ∧ bitsOf (0x600000C8 : Word).toNat 4 4 ≤ 12) ∧
    (Issues (wUp 0x6400000F) 5 0x19 (0x6400000F : Word).toNat ∧ fmtOf (bitsOf (0x6400000F : Word).toNat 0 4) = none) ∧
    (Issues (wUp 0x6800000F) 5 0x1A (0x6800000F : Word).toNat ∧ fmtOf (bitsOf (0x6800000F : Word).toNat 0 4) = none) ∧
    (Issues (wUp 0x6C00000F) 5 0x1B (0x6C00000F : Word).toNat ∧ fmtOf (bitsOf (0x6C00000F : Word).toNat 0 4) = none) ∧
    (Issues (wUp 0x7000000F) 5 0x1C (0x7000000F : Word).toNat ∧ fmtOf (bitsOf (0x7000000F : Word).toNat 0 4) = none) ∧
    (Issues (wUp 0xAC00000F) 5 0x2B (0xAC00000F : Word).toNat ∧ fmtOf (bitsOf (0xAC00000F : Word).toNat 0 4) = none) ∧
    (Issues (wUp 0xAC000000) 5 0x2B (0xAC000000 : Word).toNat ∧ fmtOf (bitsOf (0xAC000000 : Word).toNat 0 4) = some (.int 4 true)) ∧
    (Issues (wUp 0x64000012) 5 0x19 (0x64000012 : Word).toNat ∧ (fmtOf (bitsOf (0x64000012 : Word).toNat 0 4)).isSome = true) ∧
    (Issues (wUp 0x68000012) 5 0x1A (0x68000012 : Word).toNat ∧ (fmtOf (bitsOf (0x68000012 : Word).toNat 0 4)).isSome = true) ∧
    (Issues (wUp 0x6C000012) 5 0x1B (0x6C000012 : Word).toNat ∧ (fmtOf (bitsOf (0x6C000012 : Word).toNat 0 4)).isSome = true) ∧
    (Issues (wUp 0x70000012) 5 0x1C (0x70000012 : Word).toNat ∧ (fmtOf (bitsOf (0x70000012 : Word).toNat 0 4)).isSome = true) ∧
    (Issues (wUp 0xAC000008) 5 0x2B (0xAC000008 : Word).toNat ∧ (match fmtOf (bitsOf (0xAC000008 : Word).toNat 0 4) with | some (.fp _) => true | _ => false) = true) :=
  ⟨⟨issues_wUp _ _ (by decide +kernel), by decide +kernel, by decide +kernel⟩, ⟨issues_wUp _ _ (by decide +kernel), by decide +kernel, by decide +kernel, by decide +kernel⟩, ⟨issues_wUp _ _ (by decide +kernel), by decide +kernel, by decide +kernel⟩, ⟨issues_wUp _ _ (by decide +kernel), by decide +kernel⟩, ⟨issues_wUp _ _ (by decide +kernel), by decide +kernel⟩, ⟨issues_wUp _ _ (by decide +kernel), by decide +kernel, by decide +kernel⟩, ⟨issues_wUp _ _ (by decide +kernel), by decide +kernel, by decide +kernel⟩, ⟨issues_wUp _ _ (by decide +kernel), by decide +kernel⟩, ⟨issues_wUp _ _ (by decide +kernel), by decide +kernel⟩, ⟨issues_wUp _ _ (by decide +kernel), by decide +kernel⟩, ⟨issues_wUp _ _ (by decide +kernel), by decide +kernel⟩, ⟨issues_wUp _ _ (by decide +kernel), by decide +kernel⟩, ⟨issues_wUp _ _ (by decide +kernel), by decide +kernel⟩, ⟨issues_wUp _ _ (by decide +kernel), by decide +kernel⟩, ⟨issues_wUp _ _ (by decide +kernel), by decide +kernel⟩, ⟨issues_wUp _ _ (by decide +kernel), by decide +kernel⟩, ⟨issues_wUp _ _ (by decide +kernel), by decide +kernel⟩, ⟨issues_wUp _ _ (by decide +kernel), by decide +kernel⟩⟩

theorem witness_TileAccumulates :
    (Issues (wUp 0x8000000C) 5 0x20 (0x8000000C : Word).toNat ∧ macOk false (mWfmt (0x8000000C : Word).toNat) (mXfmt (0x8000000C : Word).toNat) = true ∧ fmtOf (mWfmt (0x8000000C : Word).toNat) = some (.int 4 true) ∧ fmtOf (mXfmt (0x8000000C : Word).toNat) = some (.int 4 false)) ∧
    (Issues (wUp 0x8400000C) 5 0x21 (0x8400000C : Word).toNat ∧ macOk true (mWfmt (0x8400000C : Word).toNat) (mXfmt (0x8400000C : Word).toNat) = true ∧ fmtOf (mWfmt (0x8400000C : Word).toNat) = some (.int 4 true) ∧ fmtOf (mXfmt (0x8400000C : Word).toNat) = some (.int 4 false)) ∧
    (Issues (wUp 0x84000444) 5 0x21 (0x84000444 : Word).toNat ∧ macOk true (mWfmt (0x84000444 : Word).toNat) (mXfmt (0x84000444 : Word).toNat) = true ∧ (match fmtOf (mWfmt (0x84000444 : Word).toNat) with | some (.fp _) => true | _ => false) = true) ∧
    (Issues (wUp 0x80000444) 5 0x20 (0x80000444 : Word).toNat ∧ macOk false (mWfmt (0x80000444 : Word).toNat) (mXfmt (0x80000444 : Word).toNat) = true ∧ (match fmtOf (mWfmt (0x80000444 : Word).toNat) with | some (.fp _) => true | _ => false) = true) ∧
    (Issues (wUp 0x80000014) 5 0x20 (0x80000014 : Word).toNat ∧ macOk false (mWfmt (0x80000014 : Word).toNat) (mXfmt (0x80000014 : Word).toNat) = false) ∧
    (Issues (wUp 0x840007C4) 5 0x21 (0x840007C4 : Word).toNat ∧ macOk true (mWfmt (0x840007C4 : Word).toNat) (mXfmt (0x840007C4 : Word).toNat) = false) ∧
    (Issues (wUp 0x8C200010) 5 0x23 (0x8C200010 : Word).toNat ∧ bitsOf (0x8C200010 : Word).toNat 0 3 = 0) ∧
    (Issues (wUp 0x8C200011) 5 0x23 (0x8C200011 : Word).toNat ∧ bitsOf (0x8C200011 : Word).toNat 0 3 = 1) ∧
    (Issues (wUp 0x8C200012) 5 0x23 (0x8C200012 : Word).toNat ∧ bitsOf (0x8C200012 : Word).toNat 0 3 = 2) ∧
    (Issues (wUp 0x8C200013) 5 0x23 (0x8C200013 : Word).toNat ∧ bitsOf (0x8C200013 : Word).toNat 0 3 = 3) ∧
    (Issues (wUp 0x8C200014) 5 0x23 (0x8C200014 : Word).toNat ∧ bitsOf (0x8C200014 : Word).toNat 0 3 = 4) ∧
    (Issues (wUp 0x8C000005) 5 0x23 (0x8C000005 : Word).toNat ∧ 5 ≤ bitsOf (0x8C000005 : Word).toNat 0 3) ∧
    (Issues (wUp 0x8C000006) 5 0x23 (0x8C000006 : Word).toNat ∧ 5 ≤ bitsOf (0x8C000006 : Word).toNat 0 3) ∧
    (Issues (wUp 0x8C000007) 5 0x23 (0x8C000007 : Word).toNat ∧ 5 ≤ bitsOf (0x8C000007 : Word).toNat 0 3) ∧
    (Issues (wUp 0x8C000005) 5 0x23 (0x8C000005 : Word).toNat ∧ 5 ≤ bitsOf (0x8C000005 : Word).toNat 0 3) ∧
    (Issues (wUp 0x8C000006) 5 0x23 (0x8C000006 : Word).toNat ∧ 5 ≤ bitsOf (0x8C000006 : Word).toNat 0 3) ∧
    (Issues (wUp 0xA0200000) 5 0x28 (0xA0200000 : Word).toNat) ∧
    (Issues (wUp 0xA4000002) 5 0x29 (0xA4000002 : Word).toNat ∧ fmtOf (bitsOf (0xA4000002 : Word).toNat 0 4) = some (.int 8 true)) ∧
    (Issues (wUp 0xA4000004) 5 0x29 (0xA4000004 : Word).toNat ∧ 4 ≤ bitsOf (0xA4000004 : Word).toNat 0 4) ∧
    (Issues (wUp 0xA800002F) 5 0x2A (0xA800002F : Word).toNat ∧ (fmtOf (bitsOf (0xA800002F : Word).toNat 0 4) = none ∨ fmtOf (bitsOf (0xA800002F : Word).toNat 4 4) = none)) ∧
    (Issues (wUp 0xA80000F2) 5 0x2A (0xA80000F2 : Word).toNat ∧ (fmtOf (bitsOf (0xA80000F2 : Word).toNat 0 4) = none ∨ fmtOf (bitsOf (0xA80000F2 : Word).toNat 4 4) = none)) ∧
    (Issues (wUp 0xA8000010) 5 0x2A (0xA8000010 : Word).toNat ∧ ((fmtOf (bitsOf (0xA8000010 : Word).toNat 0 4)).map Fmt.width).getD 0 = ((fmtOf (bitsOf (0xA8000010 : Word).toNat 4 4)).map Fmt.width).getD 0) ∧
    (Issues (wUp 0xA8000020) 5 0x2A (0xA8000020 : Word).toNat ∧ ((fmtOf (bitsOf (0xA8000020 : Word).toNat 0 4)).map Fmt.width).getD 0 < ((fmtOf (bitsOf (0xA8000020 : Word).toNat 4 4)).map Fmt.width).getD 0) ∧
    (Issues (wUp 0xA8000002) 5 0x2A (0xA8000002 : Word).toNat ∧ ((fmtOf (bitsOf (0xA8000002 : Word).toNat 0 4)).map Fmt.width).getD 0 > ((fmtOf (bitsOf (0xA8000002 : Word).toNat 4 4)).map Fmt.width).getD 0) :=
  ⟨⟨issues_wUp _ _ (by decide +kernel), by decide +kernel, by decide +kernel, by decide +kernel⟩, ⟨issues_wUp _ _ (by decide +kernel), by decide +kernel, by decide +kernel, by decide +kernel⟩, ⟨issues_wUp _ _ (by decide +kernel), by decide +kernel, by decide +kernel⟩, ⟨issues_wUp _ _ (by decide +kernel), by decide +kernel, by decide +kernel⟩, ⟨issues_wUp _ _ (by decide +kernel), by decide +kernel⟩, ⟨issues_wUp _ _ (by decide +kernel), by decide +kernel⟩, ⟨issues_wUp _ _ (by decide +kernel), by decide +kernel⟩, ⟨issues_wUp _ _ (by decide +kernel), by decide +kernel⟩, ⟨issues_wUp _ _ (by decide +kernel), by decide +kernel⟩, ⟨issues_wUp _ _ (by decide +kernel), by decide +kernel⟩, ⟨issues_wUp _ _ (by decide +kernel), by decide +kernel⟩, ⟨issues_wUp _ _ (by decide +kernel), by decide +kernel⟩, ⟨issues_wUp _ _ (by decide +kernel), by decide +kernel⟩, ⟨issues_wUp _ _ (by decide +kernel), by decide +kernel⟩, ⟨issues_wUp _ _ (by decide +kernel), by decide +kernel⟩, ⟨issues_wUp _ _ (by decide +kernel), by decide +kernel⟩, issues_wUp _ _ (by decide +kernel), ⟨issues_wUp _ _ (by decide +kernel), by decide +kernel⟩, ⟨issues_wUp _ _ (by decide +kernel), by decide +kernel⟩, ⟨issues_wUp _ _ (by decide +kernel), by decide +kernel⟩, ⟨issues_wUp _ _ (by decide +kernel), by decide +kernel⟩, ⟨issues_wUp _ _ (by decide +kernel), by decide +kernel⟩, ⟨issues_wUp _ _ (by decide +kernel), by decide +kernel⟩, ⟨issues_wUp _ _ (by decide +kernel), by decide +kernel⟩⟩

/-- Tile 5 at a word, with `n` tokens waiting in the first FIFO of its way north. -/
def sendUp (w : Word) (n : Nat) : State := setFifo (fifoKey 5 0 8) (List.replicate n { tok := { net := 0, tag := 0, data := 0, headland := false }, took := [] }) (wUp w)

/-- Tile 5 with a used block whose operand is port S of the scalar network, and an entry there. -/
def recvUp (w : Word) (ct : Nat) : State :=
  setTile 5
    { wTile w with
      active := { TileBank.init with words := [(0, w), (1024, 1024), (1025, 8)] }
      ct := ct
      ms := [{ tok := { net := 0, tag := 3, data := 0x123456789, headland := false }, port := 2, shared := false, uses := 1, seqNo := 7 }] } running

/-- The entry of `recvUp`, and a SHARED one of the vector network. -/
def entry0 : MsEntry := { tok := { net := 0, tag := 3, data := 0x123456789, headland := false }, port := 2, shared := false, uses := 1, seqNo := 7 }
def shared0 : MsEntry := { tok := { net := 1, tag := 3, data := 0x123456789, headland := false }, port := 2, shared := true, uses := 2, seqNo := 7 }
/-- `shared0` at the RECV that takes it. -/
def sharedUp : State := setTile 5 { getTile (recvUp 0xC44A8000 0) 5 with active := { TileBank.init with words := [(0, 0xC44A8000), (1024, 1024), (1025, 41)] }, ct := 0x0103, ms := [shared0] } running
/-- Tile 5 at EVENT, with an event that waits or a link in training. -/
def eventUp (e : Option (Nat × Nat × Nat)) (l : Link) : State := setLink 0 l (setTile 5 { wTile 0xF0030003 with event := e } running)

theorem witness_TilePorts :
    (∃ (s : State) (k : Fin 1024) (w : Nat) (T : Tile), getTile s k = T ∧ Issues s k 0x30 w ∧ bitsOf w 19 2 = 0 ∧ bitsOf w 16 3 = 5) ∧
    (∃ (s : State) (k : Fin 1024) (w : Nat) (T : Tile), getTile s k = T ∧ Issues s k 0x30 w ∧ bitsOf w 19 2 < 3 ∧
      hasCredit s k (bitsOf w 19 2) (bitsOf w 16 3) = false) ∧
    (∃ (s : State) (k : Fin 1024) (w : Nat) (T : Tile), getTile s k = T ∧ Issues s k 0x30 w ∧ bitsOf w 19 2 = 3) ∧
    (∃ (s : State) (k : Fin 1024) (w : Nat) (T : Tile), getTile s k = T ∧ Issues s k 0x30 w ∧ bitsOf w 19 2 < 3 ∧ bitsOf w 16 3 < 5 ∧
      hasCredit s k (bitsOf w 19 2) (bitsOf w 16 3) = true) ∧
    (∃ (s : State) (k : Fin 1024) (w : Nat) (T : Tile), getTile s k = T ∧ Issues s k 0x30 w ∧ bitsOf w 19 2 < 3 ∧ 6 ≤ bitsOf w 16 3) ∧
    (∃ (s : State) (k : Fin 1024) (w : Nat) (T : Tile), getTile s k = T ∧ Issues s k 0x30 w ∧ bitsOf w 19 2 < 3 ∧ 6 ≤ bitsOf w 16 3) ∧
    (∃ (s : State) (k : Fin 1024) (w : Nat) (T : Tile) (e : _), getTile s k = T ∧ Issues s k 0x31 w ∧
      recvEntry T (bitsOf w 19 2) (bitsOf w 16 3) (w.testBit 15) = some e) ∧
    (∃ (s : State) (k : Fin 1024) (w : Nat) (T : Tile) (e : _), getTile s k = T ∧ Issues s k 0x31 w ∧
      recvEntry T (bitsOf w 19 2) (bitsOf w 16 3) (w.testBit 15) = some e ∧ bitsOf w 19 2 ≠ 1) ∧
    (∃ (s : State) (k : Fin 1024) (w : Nat) (T : Tile), getTile s k = T ∧ Issues s k 0x31 w ∧
      recvEntry T (bitsOf w 19 2) (bitsOf w 16 3) (w.testBit 15) = none) ∧
    (∃ (s : State) (k : Fin 1024) (w : Nat) (T : Tile), getTile s k = T ∧ Issues s k 0x34 w ∧ bitsOf w 0 3 = 0) ∧
    (∃ (s : State) (k : Fin 1024) (w : Nat) (T : Tile) (x : _) (a : _), getTile s k = T ∧ Issues s k 0x34 w ∧ bitsOf w 0 3 ≠ 0 ∧
      a = getS T (fRa w) ∧ (bitsOf w 0 3 = 3 → T.ot % 256 + a % 256 ≤ 255) ∧
      (x = match bitsOf w 0 3 with | 1 => a | 2 => T.ot - T.ot % 256 + a % 256 | 3 => T.ot + a % 256 | 4 => T.ot % 256 + 256 * (a % 32) | 5 => T.ot % 256 + 2 ^ 15 | _ => T.ct)) ∧
    (∃ (s : State) (k : Fin 1024) (w : Nat) (T : Tile) (x : _) (a : _), getTile s k = T ∧ Issues s k 0x34 w ∧ bitsOf w 0 3 ≠ 0 ∧
      a = getS T (fRa w) ∧ (bitsOf w 0 3 = 3 → T.ot % 256 + a % 256 ≤ 255) ∧
      (x = match bitsOf w 0 3 with | 1 => a | 2 => T.ot - T.ot % 256 + a % 256 | 3 => T.ot + a % 256 | 4 => T.ot % 256 + 256 * (a % 32) | 5 => T.ot % 256 + 2 ^ 15 | _ => T.ct)) ∧
    (∃ (s : State) (k : Fin 1024) (w : Nat) (T : Tile) (x : _) (a : _), getTile s k = T ∧ Issues s k 0x34 w ∧ bitsOf w 0 3 ≠ 0 ∧
      a = getS T (fRa w) ∧ (bitsOf w 0 3 = 3 → T.ot % 256 + a % 256 ≤ 255) ∧
      (x = match bitsOf w 0 3 with | 1 => a | 2 => T.ot - T.ot % 256 + a % 256 | 3 => T.ot + a % 256 | 4 => T.ot % 256 + 256 * (a % 32) | 5 => T.ot % 256 + 2 ^ 15 | _ => T.ct)) ∧
    (∃ (s : State) (k : Fin 1024) (w : Nat) (T : Tile) (x : _) (a : _), getTile s k = T ∧ Issues s k 0x34 w ∧ bitsOf w 0 3 ≠ 0 ∧
      a = getS T (fRa w) ∧ (bitsOf w 0 3 = 3 → T.ot % 256 + a % 256 ≤ 255) ∧
      (x = match bitsOf w 0 3 with | 1 => a | 2 => T.ot - T.ot % 256 + a % 256 | 3 => T.ot + a % 256 | 4 => T.ot % 256 + 256 * (a % 32) | 5 => T.ot % 256 + 2 ^ 15 | _ => T.ct)) ∧
    (∃ (s : State) (k : Fin 1024) (w : Nat) (T : Tile) (x : _) (a : _), getTile s k = T ∧ Issues s k 0x34 w ∧ bitsOf w 0 3 ≠ 0 ∧
      a = getS T (fRa w) ∧ (bitsOf w 0 3 = 3 → T.ot % 256 + a % 256 ≤ 255) ∧
      (x = match bitsOf w 0 3 with | 1 => a | 2 => T.ot - T.ot % 256 + a % 256 | 3 => T.ot + a % 256 | 4 => T.ot % 256 + 256 * (a % 32) | 5 => T.ot % 256 + 2 ^ 15 | _ => T.ct)) ∧
    (∃ (s : State) (k : Fin 1024) (w : Nat) (T : Tile) (x : _) (a : _), getTile s k = T ∧ Issues s k 0x34 w ∧ bitsOf w 0 3 ≠ 0 ∧
      a = getS T (fRa w) ∧ (bitsOf w 0 3 = 3 → T.ot % 256 + a % 256 ≤ 255) ∧
      (x = match bitsOf w 0 3 with | 1 => a | 2 => T.ot - T.ot % 256 + a % 256 | 3 => T.ot + a % 256 | 4 => T.ot % 256 + 256 * (a % 32) | 5 => T.ot % 256 + 2 ^ 15 | _ => T.ct)) ∧
    (∃ (s : State) (k : Fin 1024) (w : Nat) (T : Tile) (x : _) (a : _), getTile s k = T ∧ Issues s k 0x34 w ∧ bitsOf w 0 3 ≠ 0 ∧
      a = getS T (fRa w) ∧ (bitsOf w 0 3 = 3 → T.ot % 256 + a % 256 ≤ 255) ∧
      (x = match bitsOf w 0 3 with | 1 => a | 2 => T.ot - T.ot % 256 + a % 256 | 3 => T.ot + a % 256 | 4 => T.ot % 256 + 256 * (a % 32) | 5 => T.ot % 256 + 2 ^ 15 | _ => T.ct)) ∧
    (∃ (s : State) (k : Fin 1024) (w : Nat) (T : Tile), getTile s k = T ∧ Issues s k 0x34 w ∧ bitsOf w 0 3 = 3 ∧
      255 < T.ot % 256 + getS T (fRa w) % 256) ∧
    (∃ (s : State) (k : Fin 1024) (w : Nat) (T : Tile), getTile s k = T ∧ Issues s k 0x3C w ∧ T.event = none ∧ (getLink s (k / 256)).train = none) ∧
    (∃ (s : State) (k : Fin 1024) (w : Nat) (T : Tile), getTile s k = T ∧ Issues s k 0x3C w ∧ T.event = none ∧
      (getLink s (k / 256)).train.isSome = true) ∧
    (∃ (s : State) (k : Fin 1024) (w : Nat) (T : Tile), getTile s k = T ∧ Issues s k 0x3C w ∧ T.event.isSome = true) :=
  ⟨⟨wUp 0xC0650000, 5, (0xC0650000 : Word).toNat, getTile (wUp 0xC0650000) 5, by unfold Issues; decide +kernel⟩,
    ⟨sendUp 0xC0000000 4, 5, (0xC0000000 : Word).toNat, getTile (sendUp 0xC0000000 4) 5, by unfold Issues; decide +kernel⟩,
    ⟨wUp 0xC0180000, 5, (0xC0180000 : Word).toNat, getTile (wUp 0xC0180000) 5, by unfold Issues; decide +kernel⟩,
    ⟨sendUp 0xC0000000 3, 5, (0xC0000000 : Word).toNat, getTile (sendUp 0xC0000000 3) 5, by unfold Issues; decide +kernel⟩,
    ⟨wUp 0xC0060000, 5, (0xC0060000 : Word).toNat, getTile (wUp 0xC0060000) 5, by unfold Issues; decide +kernel⟩,
    ⟨wUp 0xC0070000, 5, (0xC0070000 : Word).toNat, getTile (wUp 0xC0070000) 5, by unfold Issues; decide +kernel⟩,
    ⟨sharedUp, 5, (0xC44A8000 : Word).toNat, getTile (sharedUp) 5, shared0, by unfold Issues; decide +kernel⟩,
    ⟨recvUp 0xC4820000 3, 5, (0xC4820000 : Word).toNat, getTile (recvUp 0xC4820000 3) 5, entry0, by unfold Issues; decide +kernel⟩,
    ⟨recvUp 0xC4820000 4, 5, (0xC4820000 : Word).toNat, getTile (recvUp 0xC4820000 4) 5, by unfold Issues; decide +kernel⟩,
    ⟨wUp 0xD0230000, 5, (0xD0230000 : Word).toNat, getTile (wUp 0xD0230000) 5, by unfold Issues; decide +kernel⟩,
    ⟨setTile 5 { wTile 0xD0030001 with ot := 0x8054, ct := 0x1234, s := [(3, 4294967295)] } running, 5, (0xD0030001 : Word).toNat,
    getTile (setTile 5 { wTile 0xD0030001 with ot := 0x8054, ct := 0x1234, s := [(3, 4294967295)] } running) 5, 4294967295, 4294967295,
    by unfold Issues; decide +kernel⟩,
    ⟨setTile 5 { wTile 0xD0030002 with ot := 0x8054, ct := 0x1234, s := [(3, 427)] } running, 5, (0xD0030002 : Word).toNat,
    getTile (setTile 5 { wTile 0xD0030002 with ot := 0x8054, ct := 0x1234, s := [(3, 427)] } running) 5, 32939, 427,
    by unfold Issues; decide +kernel⟩,
    ⟨setTile 5 { wTile 0xD0030003 with ot := 0x8054, ct := 0x1234, s := [(3, 427)] } running, 5, (0xD0030003 : Word).toNat,
    getTile (setTile 5 { wTile 0xD0030003 with ot := 0x8054, ct := 0x1234, s := [(3, 427)] } running) 5, 33023, 427,
    by unfold Issues; decide +kernel⟩,
    ⟨setTile 5 { wTile 0xD0030004 with ot := 0x8054, ct := 0x1234, s := [(3, 99)] } running, 5, (0xD0030004 : Word).toNat,
    getTile (setTile 5 { wTile 0xD0030004 with ot := 0x8054, ct := 0x1234, s := [(3, 99)] } running) 5, 852, 99, by unfold Issues; decide +kernel⟩,
    ⟨setTile 5 { wTile 0xD0030005 with ot := 0x8054, ct := 0x1234, s := [(3, 0)] } running, 5, (0xD0030005 : Word).toNat,
    getTile (setTile 5 { wTile 0xD0030005 with ot := 0x8054, ct := 0x1234, s := [(3, 0)] } running) 5, 32852, 0, by unfold Issues; decide +kernel⟩,
    ⟨setTile 5 { wTile 0xD0030006 with ot := 0x8054, ct := 0x1234, s := [(3, 0)] } running, 5, (0xD0030006 : Word).toNat,
    getTile (setTile 5 { wTile 0xD0030006 with ot := 0x8054, ct := 0x1234, s := [(3, 0)] } running) 5, 4660, 0, by unfold Issues; decide +kernel⟩,
    ⟨setTile 5 { wTile 0xD0030007 with ot := 0x8054, ct := 0x1234, s := [(3, 0)] } running, 5, (0xD0030007 : Word).toNat,
    getTile (setTile 5 { wTile 0xD0030007 with ot := 0x8054, ct := 0x1234, s := [(3, 0)] } running) 5, 4660, 0, by unfold Issues; decide +kernel⟩,
    ⟨setTile 5 { wTile 0xD0030003 with ot := 0x80FF, s := [(3, 1)] } running, 5, (0xD0030003 : Word).toNat,
    getTile (setTile 5 { wTile 0xD0030003 with ot := 0x80FF, s := [(3, 1)] } running) 5, by unfold Issues; decide +kernel⟩,
    ⟨wUp 0xF0030003, 5, (0xF0030003 : Word).toNat, getTile (wUp 0xF0030003) 5, by unfold Issues; decide +kernel⟩,
    ⟨eventUp none { Link.init with train := some train0 }, 5, (0xF0030003 : Word).toNat,
    getTile (eventUp none { Link.init with train := some train0 }) 5, by unfold Issues; decide +kernel⟩,
    ⟨eventUp (some (1, 2, 3)) Link.init, 5, (0xF0030003 : Word).toNat, getTile (eventUp (some (1, 2, 3)) Link.init) 5,
    by unfold Issues; decide +kernel⟩⟩

def tok0 (tag : Nat) (hl : Bool) : Token := { net := 0, tag := tag, data := 9, headland := hl }
/-- `recvUp` idle, with a token in the FIFO of port S, whose switch delivers. -/
def arriveUp (t : Token) : State :=
  setFifo (fifoKey 5 0 2) [{ tok := t, took := [] }]
    (setSwitch 5 { Switch.init with active := [2 ^ 18, 0, 0] } (setTile 5 { getTile (recvUp 0 0) 5 with run := .idle } running))

def suUp (w : Nat) (c : BitVec 512) : State := setSu 7 { Su.init with active := w, inA := [tok0 5 false], inC := [{ tok0 5 false with data := c }] } running

/-- Group 5, whose generation names message 4 as its member 0, and a feed of its input to tile 35. -/
def feedUp : State := fabUp { group0 with tables := [(3, [4])] } sheaf0
def feed0 : Feed := { net := 1, iter := 2, member := some 0, src := .input 0, at64 := 0 }

theorem witness_TileFires :
    (∃ (s : State) (k : Fin 1024) (c : Nat) (tok : Token) (o : Operand), (getTile s k).run ≠ .fault ∧ plotsOn s = true ∧
      (servedFrom (getTile s k).rr).find? (fun c => (inputHead s k (c / 6) (c % 6)).isSome) = some c ∧ inputHead s k (c / 6) (c % 6) = some tok ∧
      (getTile s k).ms.length < 64 ∧ bitsOf tok.tag 13 2 = (getTile s k).gen ∧ operandFor (getTile s k).active tok.net (c % 6) = some o) ∧
    (∃ (s : State) (k : Fin 1024) (c : Nat) (tok : Token), (getTile s k).run ≠ .fault ∧ plotsOn s = true ∧
      (servedFrom (getTile s k).rr).find? (fun c => (inputHead s k (c / 6) (c % 6)).isSome) = some c ∧ inputHead s k (c / 6) (c % 6) = some tok ∧
      (getTile s k).ms.length < 64 ∧ bitsOf tok.tag 13 2 ≠ (getTile s k).gen) ∧
    (∃ (s : State) (k : Fin 1024), ((getTile s k).run = .fault ∨ plotsOn s = false ∨ ∀ c, c < 18 → inputHead s k (c / 6) (c % 6) = none)) ∧
    (∃ (s : State) (k : Fin 1024) (f : Feed) (g : Group) (b : Nat) (m : Fin 32) (mid : Nat) (v : Msg), groupOfPlot s (k / 16) = some g ∧
      g.trans = none ∧ f.src = .input b ∧ f.member = some m ∧ (tget [] g.gen g.tables)[m.val]? = some mid ∧ findMsg s mid = some v ∧ f.net = 1 ∧
      f.at64 = 0) ∧
    (∃ (s : State) (k : Fin 1024) (b : Nat) (entry : Nat) (tag : Nat) (ops : List Operand) (es : List MsEntry), (getTile s k).run = .idle ∧
      fireable (getTile s k) = some (b, entry, ops, tag, es)) ∧
    (∃ (s : State) (k : Fin 512) (a : Token) (c : Token), suReady (getSu s k) = true ∧ suKind (getSu s k).active = 0 ∧
      suPair (getSu s k) = some (a, c)) ∧
    (∃ (s : State) (k : Fin 512) (c : Token) (b : Token) (cs : List Token) (bs : List Token), suReady (getSu s k) = true ∧
      suKind (getSu s k).active = 1 ∧ (getSu s k).inC = c :: cs ∧ c.data.getLsbD 0 = true ∧ (getSu s k).inB = b :: bs) ∧
    (∃ (s : State) (k : Fin 512) (a : Token) (c : Token), suReady (getSu s k) = true ∧ suKind (getSu s k).active = 2 ∧
      suPair (getSu s k) = some (a, c)) ∧
    (∃ (s : State) (k : Fin 512), suReady (getSu s k) = false) :=
  ⟨⟨arriveUp (tok0 5 false), 5, 2, tok0 5 false, decodeOperand 8, by decide +kernel⟩,
    ⟨setFeed 20 [tok0 8197 false] running, 5, 5, tok0 8197 false, by decide +kernel⟩,
    ⟨wUp 0, 6, Or.inr (Or.inr (by decide +kernel))⟩,
    ⟨feedUp, 35, feed0, { group0 with tables := [(3, [4])] }, 0, 0, 4, { msg0 with loc := .sheaf 2 }, by decide +kernel⟩,
    ⟨setTile 5 { getTile (recvUp 0 0) 5 with run := .idle } running, 5, 0, 0, 3, [decodeOperand 8], [entry0], by decide +kernel⟩,
    ⟨suUp 4 1, 7, tok0 5 false, { tok0 5 false with data := 1 }, by decide +kernel⟩,
    ⟨setSu 7 { Su.init with active := 5, inB := [tok0 5 false], inC := [{ tok0 5 false with data := 1 }] } running, 7,
    { tok0 5 false with data := 1 }, tok0 5 false, [], [], by decide +kernel⟩,
    ⟨suUp 6 0, 7, tok0 5 false, { tok0 5 false with data := 0 }, by decide +kernel⟩,
    ⟨suUp 0 0, 7, by decide +kernel⟩⟩

/-- Sync object 3 of a type, SAT, THRESHOLD and VALUE. -/
def synUp (ty sat thr v : Nat) (s : State) : State := setReg 0x3C1C (ty + 4 * sat + 65536 * thr) (setReg 0x3C18 v s)

theorem witness_SyncObjectEffects :
    (synType (synUp 1 0 0 5 running) 3 < 2 ∧ ¬(synType (synUp 1 0 0 5 running) 3 = 0 ∧ synSat (synUp 1 0 0 5 running) 3 = true) ∧ synVal (synUp 1 0 0 5 running) 3 + 7 < 2 ^ 32) ∧
    (synType (synUp 0 0 0 0xFFFFFFFF running) 3 < 2 ∧ ¬(synType (synUp 0 0 0 0xFFFFFFFF running) 3 = 0 ∧ synSat (synUp 0 0 0 0xFFFFFFFF running) 3 = true) ∧ 2 ^ 32 ≤ synVal (synUp 0 0 0 0xFFFFFFFF running) 3 + 1) ∧
    (synType (synUp 0 1 0 5 running) 3 = 0 ∧ synSat (synUp 0 1 0 5 running) 3 = true) ∧
    (synType (synUp 2 0 3 0xFFFF0002 running) 3 = 2) ∧
    (synType (synUp 2 0 0 0xFFFF0000 running) 3 = 2) ∧
    (synType (synUp 3 0 0 0 running) 3 = 3 ∧ 9 ≠ 0) ∧
    (synType (synUp 3 0 0 0 running) 3 = 3) ∧
    (regF (synUp 2 0 0 5 running) (0x3C04 + 8 * 3) 16 16 = 0) ∧
    (regF (synUp 2 0 65535 5 running) (0x3C04 + 8 * 3) 16 16 ≠ 0) ∧
    (synType (synUp 2 0 3 0xFFFF0002 running) 3 = 2) ∧
    (synType (synUp 2 0 3 0xFFFF0002 running) 3 = 2 ∧ 0x12345 < 2 ^ 32) ∧
    (synType (synUp 3 0 0 0 running) 3 = 3) ∧
    (synType (synUp 3 0 0 1 running) 3 = 3) ∧
    (synType (synUp 2 0 3 0xFFFF0002 running) 3 = 2) ∧
    (synType (synUp 2 0 3 0xFFFF0000 running) 3 = 2) ∧
    (synType (synUp 3 0 0 1 running) 3 = 3) ∧
    (synType (synUp 3 0 0 0 running) 3 = 3) ∧
    (synType (synUp 1 0 0 5 running) 3 < 2 ∧ synSat (synUp 1 0 0 5 running) 3 = false) ∧
    (synType (synUp 3 0 0 1 running) 3 = 3) ∧
    (synType (synUp 0 1 0 5 running) 3 < 2 ∧ 0xFFFFFFFF < 2 ^ 32) ∧
    (synType (synUp 1 0 0 1 running) 3 < 2) ∧
    (3 < 128) :=
  by refine ⟨?_, ?_, ?_, ?_, ?_, ?_, ?_, ?_, ?_, ?_, ?_, ?_, ?_, ?_, ?_, ?_, ?_, ?_, ?_, ?_, ?_, ?_⟩ <;> decide +kernel

/-- Tile 5 at a SYNC of object 3 with value 6, rd s1, and object 3 as given; a descriptor waits for it to reach 10. -/
def syncTileUp (fn : Nat) (v : Nat) : State :=
  { synUp 1 0 0 v (setTile 5 { wTile (BitVec.ofNat 32 (0x38 * 2 ^ 26 + 2 ^ 21 + 2 * 2 ^ 16 + 3 * 2 ^ 11 + fn)) with s := [(2, 131), (3, 6)] } running) with
    waits := [{ req := 1026, obj := 3, eq := false, v := 10, key := 4, t0 := 0 }] }

theorem issues_sync (fn v : Nat) (h : (canExec (syncTileUp fn v) 5 0x38 && decide ((getTile (syncTileUp fn v) 5).pc < 1023)) = true) :
    Issues (syncTileUp fn v) 5 0x38 (tileWord (getTile (syncTileUp fn v) 5)) := by
  simp only [Bool.and_eq_true, decide_eq_true_eq] at h
  exact ⟨h.1, rfl, h.2⟩

theorem witness_SyncOfATile :
    (Issues (syncTileUp 0 5) 5 0x38 (tileWord (getTile (syncTileUp 0 5) 5)) ∧ (getTile (syncTileUp 0 5) 5).run ≠ .waitSync ∧ getS (getTile (syncTileUp 0 5) 5) (fRa (tileWord (getTile (syncTileUp 0 5) 5))) % 128 = 3 ∧ getS (getTile (syncTileUp 0 5) 5) (fRb (tileWord (getTile (syncTileUp 0 5) 5))) = 6 ∧ synDead (syncTileUp 0 5) 3 = false ∧ bitsOf (tileWord (getTile (syncTileUp 0 5) 5)) 0 3 = 0) ∧
    (Issues (syncTileUp 1 5) 5 0x38 (tileWord (getTile (syncTileUp 1 5) 5)) ∧ (getTile (syncTileUp 1 5) 5).run ≠ .waitSync ∧ getS (getTile (syncTileUp 1 5) 5) (fRa (tileWord (getTile (syncTileUp 1 5) 5))) % 128 = 3 ∧ getS (getTile (syncTileUp 1 5) 5) (fRb (tileWord (getTile (syncTileUp 1 5) 5))) = 6 ∧ synDead (syncTileUp 1 5) 3 = false ∧ bitsOf (tileWord (getTile (syncTileUp 1 5) 5)) 0 3 = 1) ∧
    (Issues (syncTileUp 2 5) 5 0x38 (tileWord (getTile (syncTileUp 2 5) 5)) ∧ (getTile (syncTileUp 2 5) 5).run ≠ .waitSync ∧ getS (getTile (syncTileUp 2 5) 5) (fRa (tileWord (getTile (syncTileUp 2 5) 5))) % 128 = 3 ∧ getS (getTile (syncTileUp 2 5) 5) (fRb (tileWord (getTile (syncTileUp 2 5) 5))) = 6 ∧ synDead (syncTileUp 2 5) 3 = false ∧ bitsOf (tileWord (getTile (syncTileUp 2 5) 5)) 0 3 = 2) ∧
    (Issues (syncTileUp 6 5) 5 0x38 (tileWord (getTile (syncTileUp 6 5) 5)) ∧ (getTile (syncTileUp 6 5) 5).run ≠ .waitSync ∧ getS (getTile (syncTileUp 6 5) 5) (fRa (tileWord (getTile (syncTileUp 6 5) 5))) % 128 = 3 ∧ getS (getTile (syncTileUp 6 5) 5) (fRb (tileWord (getTile (syncTileUp 6 5) 5))) = 6 ∧ synDead (syncTileUp 6 5) 3 = false ∧ bitsOf (tileWord (getTile (syncTileUp 6 5) 5)) 0 3 = 6) ∧
    (Issues (syncTileUp 3 5) 5 0x38 (tileWord (getTile (syncTileUp 3 5) 5)) ∧ (getTile (syncTileUp 3 5) 5).run ≠ .waitSync ∧ getS (getTile (syncTileUp 3 5) 5) (fRa (tileWord (getTile (syncTileUp 3 5) 5))) % 128 = 3 ∧ getS (getTile (syncTileUp 3 5) 5) (fRb (tileWord (getTile (syncTileUp 3 5) 5))) = 6 ∧ synDead (syncTileUp 3 5) 3 = false ∧ bitsOf (tileWord (getTile (syncTileUp 3 5) 5)) 0 3 = 3) ∧
    (Issues (syncTileUp 4 6) 5 0x38 (tileWord (getTile (syncTileUp 4 6) 5)) ∧ (getTile (syncTileUp 4 6) 5).run ≠ .waitSync ∧ getS (getTile (syncTileUp 4 6) 5) (fRa (tileWord (getTile (syncTileUp 4 6) 5))) % 128 = 3 ∧ getS (getTile (syncTileUp 4 6) 5) (fRb (tileWord (getTile (syncTileUp 4 6) 5))) = 6 ∧ synDead (syncTileUp 4 6) 3 = false ∧ bitsOf (tileWord (getTile (syncTileUp 4 6) 5)) 0 3 = 4 ∧ synCond (syncTileUp 4 6) 3 false 6 = true) ∧
    (Issues (syncTileUp 4 5) 5 0x38 (tileWord (getTile (syncTileUp 4 5) 5)) ∧ (getTile (syncTileUp 4 5) 5).run ≠ .waitSync ∧ getS (getTile (syncTileUp 4 5) 5) (fRa (tileWord (getTile (syncTileUp 4 5) 5))) % 128 = 3 ∧ getS (getTile (syncTileUp 4 5) 5) (fRb (tileWord (getTile (syncTileUp 4 5) 5))) = 6 ∧ synDead (syncTileUp 4 5) 3 = false ∧ bitsOf (tileWord (getTile (syncTileUp 4 5) 5)) 0 3 = 4 ∧ synCond (syncTileUp 4 5) 3 false 6 = false) ∧
    (Issues (syncTileUp 5 6) 5 0x38 (tileWord (getTile (syncTileUp 5 6) 5)) ∧ (getTile (syncTileUp 5 6) 5).run ≠ .waitSync ∧ getS (getTile (syncTileUp 5 6) 5) (fRa (tileWord (getTile (syncTileUp 5 6) 5))) % 128 = 3 ∧ getS (getTile (syncTileUp 5 6) 5) (fRb (tileWord (getTile (syncTileUp 5 6) 5))) = 6 ∧ synDead (syncTileUp 5 6) 3 = false ∧ bitsOf (tileWord (getTile (syncTileUp 5 6) 5)) 0 3 = 5 ∧ synCond (syncTileUp 5 6) 3 true 6 = true) ∧
    (Issues (syncTileUp 5 7) 5 0x38 (tileWord (getTile (syncTileUp 5 7) 5)) ∧ (getTile (syncTileUp 5 7) 5).run ≠ .waitSync ∧ getS (getTile (syncTileUp 5 7) 5) (fRa (tileWord (getTile (syncTileUp 5 7) 5))) % 128 = 3 ∧ getS (getTile (syncTileUp 5 7) 5) (fRb (tileWord (getTile (syncTileUp 5 7) 5))) = 6 ∧ synDead (syncTileUp 5 7) 3 = false ∧ bitsOf (tileWord (getTile (syncTileUp 5 7) 5)) 0 3 = 5 ∧ synCond (syncTileUp 5 7) 3 true 6 = false) ∧
    (Issues (syncTileUp 7 5) 5 0x38 (tileWord (getTile (syncTileUp 7 5) 5)) ∧ (getTile (syncTileUp 7 5) 5).run ≠ .waitSync ∧ getS (getTile (syncTileUp 7 5) 5) (fRa (tileWord (getTile (syncTileUp 7 5) 5))) % 128 = 3 ∧ getS (getTile (syncTileUp 7 5) 5) (fRb (tileWord (getTile (syncTileUp 7 5) 5))) = 6 ∧ synDead (syncTileUp 7 5) 3 = false ∧ bitsOf (tileWord (getTile (syncTileUp 7 5) 5)) 0 3 = 7) ∧
    (Issues (syncTileUp 7 5) 5 0x38 (tileWord (getTile (syncTileUp 7 5) 5)) ∧ (getTile (syncTileUp 7 5) 5).run ≠ .waitSync ∧ getS (getTile (syncTileUp 7 5) 5) (fRa (tileWord (getTile (syncTileUp 7 5) 5))) % 128 = 3 ∧ getS (getTile (syncTileUp 7 5) 5) (fRb (tileWord (getTile (syncTileUp 7 5) 5))) = 6 ∧ synDead (syncTileUp 7 5) 3 = false ∧ bitsOf (tileWord (getTile (syncTileUp 7 5) 5)) 0 3 = 7) ∧
    (Issues (syncTileUp 7 5) 5 0x38 (tileWord (getTile (syncTileUp 7 5) 5)) ∧ (getTile (syncTileUp 7 5) 5).run ≠ .waitSync ∧ getS (getTile (syncTileUp 7 5) 5) (fRa (tileWord (getTile (syncTileUp 7 5) 5))) % 128 = 3 ∧ getS (getTile (syncTileUp 7 5) 5) (fRb (tileWord (getTile (syncTileUp 7 5) 5))) = 6 ∧ synDead (syncTileUp 7 5) 3 = false ∧ bitsOf (tileWord (getTile (syncTileUp 7 5) 5)) 0 3 = 7) ∧
    (Issues (syncTileUp 7 5) 5 0x38 (tileWord (getTile (syncTileUp 7 5) 5)) ∧ (getTile (syncTileUp 7 5) 5).run ≠ .waitSync ∧ getS (getTile (syncTileUp 7 5) 5) (fRa (tileWord (getTile (syncTileUp 7 5) 5))) % 128 = 3 ∧ getS (getTile (syncTileUp 7 5) 5) (fRb (tileWord (getTile (syncTileUp 7 5) 5))) = 6 ∧ synDead (syncTileUp 7 5) 3 = false ∧ bitsOf (tileWord (getTile (syncTileUp 7 5) 5)) 0 3 = 7) ∧
    (Issues (syncTileUp 7 5) 5 0x38 (tileWord (getTile (syncTileUp 7 5) 5)) ∧ (getTile (syncTileUp 7 5) 5).run ≠ .waitSync ∧ getS (getTile (syncTileUp 7 5) 5) (fRa (tileWord (getTile (syncTileUp 7 5) 5))) % 128 = 3 ∧ getS (getTile (syncTileUp 7 5) 5) (fRb (tileWord (getTile (syncTileUp 7 5) 5))) = 6 ∧ synDead (syncTileUp 7 5) 3 = false ∧ bitsOf (tileWord (getTile (syncTileUp 7 5) 5)) 0 3 = 7) ∧
    (Issues (syncTileUp 7 5) 5 0x38 (tileWord (getTile (syncTileUp 7 5) 5)) ∧ (getTile (syncTileUp 7 5) 5).run ≠ .waitSync ∧ getS (getTile (syncTileUp 7 5) 5) (fRa (tileWord (getTile (syncTileUp 7 5) 5))) % 128 = 3 ∧ getS (getTile (syncTileUp 7 5) 5) (fRb (tileWord (getTile (syncTileUp 7 5) 5))) = 6 ∧ synDead (syncTileUp 7 5) 3 = false ∧ bitsOf (tileWord (getTile (syncTileUp 7 5) 5)) 0 3 = 7) ∧
    (Issues (syncTileUp 7 5) 5 0x38 (tileWord (getTile (syncTileUp 7 5) 5)) ∧ (getTile (syncTileUp 7 5) 5).run ≠ .waitSync ∧ getS (getTile (syncTileUp 7 5) 5) (fRa (tileWord (getTile (syncTileUp 7 5) 5))) % 128 = 3 ∧ getS (getTile (syncTileUp 7 5) 5) (fRb (tileWord (getTile (syncTileUp 7 5) 5))) = 6 ∧ synDead (syncTileUp 7 5) 3 = false ∧ bitsOf (tileWord (getTile (syncTileUp 7 5) 5)) 0 3 = 7) :=
  ⟨⟨issues_sync _ _ (by decide +kernel), by decide +kernel, by decide +kernel, by decide +kernel, by decide +kernel, by decide +kernel⟩, ⟨issues_sync _ _ (by decide +kernel), by decide +kernel, by decide +kernel, by decide +kernel, by decide +kernel, by decide +kernel⟩, ⟨issues_sync _ _ (by decide +kernel), by decide +kernel, by decide +kernel, by decide +kernel, by decide +kernel, by decide +kernel⟩, ⟨issues_sync _ _ (by decide +kernel), by decide +kernel, by decide +kernel, by decide +kernel, by decide +kernel, by decide +kernel⟩, ⟨issues_sync _ _ (by decide +kernel), by decide +kernel, by decide +kernel, by decide +kernel, by decide +kernel, by decide +kernel⟩, ⟨issues_sync _ _ (by decide +kernel), by decide +kernel, by decide +kernel, by decide +kernel, by decide +kernel, by decide +kernel, by decide +kernel⟩, ⟨issues_sync _ _ (by decide +kernel), by decide +kernel, by decide +kernel, by decide +kernel, by decide +kernel, by decide +kernel, by decide +kernel⟩, ⟨issues_sync _ _ (by decide +kernel), by decide +kernel, by decide +kernel, by decide +kernel, by decide +kernel, by decide +kernel, by decide +kernel⟩, ⟨issues_sync _ _ (by decide +kernel), by decide +kernel, by decide +kernel, by decide +kernel, by decide +kernel, by decide +kernel, by decide +kernel⟩, ⟨issues_sync _ _ (by decide +kernel), by decide +kernel, by decide +kernel, by decide +kernel, by decide +kernel, by decide +kernel⟩, ⟨issues_sync _ _ (by decide +kernel), by decide +kernel, by decide +kernel, by decide +kernel, by decide +kernel, by decide +kernel⟩, ⟨issues_sync _ _ (by decide +kernel), by decide +kernel, by decide +kernel, by decide +kernel, by decide +kernel, by decide +kernel⟩, ⟨issues_sync _ _ (by decide +kernel), by decide +kernel, by decide +kernel, by decide +kernel, by decide +kernel, by decide +kernel⟩, ⟨issues_sync _ _ (by decide +kernel), by decide +kernel, by decide +kernel, by decide +kernel, by decide +kernel, by decide +kernel⟩, ⟨issues_sync _ _ (by decide +kernel), by decide +kernel, by decide +kernel, by decide +kernel, by decide +kernel, by decide +kernel⟩, ⟨issues_sync _ _ (by decide +kernel), by decide +kernel, by decide +kernel, by decide +kernel, by decide +kernel, by decide +kernel⟩⟩

/-- A SYNC_OP descriptor on object 3 with operand 6 and a TIMEOUT of 9. -/
def synBytes (op : Nat) : List Byte := [0x28#8] ++ List.replicate 15 0#8 ++ [3, op, 0, 0, 6, 0, 0, 0, 9].map (BitVec.ofNat 8)

def wait0 (req key : Nat) : Waiter := { req := req, obj := 3, eq := false, v := 6, key := key, t0 := 0 }
/-- A descriptor, or a sheaf's gate, that has waited since 0, at a time. -/
def waitUp (now : Nat) : State := { sqWith (synBytes 4) with waits := [wait0 5 0, wait0 1024 0], clk := { up.clk with now := now } }
def gateUp (now : Nat) : State :=
  { setReg 0x2624 1 (fabUp group0 { sheaf0 with gateWait := true }) with waits := [wait0 1040 2], clk := { up.clk with now := now } }

theorem witness_SyncOfADescriptor :
    (∃ (s : State) (q : Fin 16) (pos : Nat) (b : List Byte) (op : SynOp), op ∈ [SynOp.add, SynOp.sub, SynOp.set, SynOp.trydec, SynOp.read] ∧
      runnable s q pos 0x28 (syncOp op) = some b ∧ byteAt b 16 < 128 ∧ byteAt b 17 = op.code ∧ synDead s (byteAt b 16) = false ∧
      (s.waits.any (fun w => decide (w.req = 1024 + q.val ∧ w.key = pos)) = false)) ∧
    (∃ (s : State) (q : Fin 16) (pos : Nat) (b : List Byte) (op : SynOp), op ∈ [SynOp.add, SynOp.sub, SynOp.set, SynOp.trydec, SynOp.read] ∧
      runnable s q pos 0x28 (syncOp op) = some b ∧ byteAt b 16 < 128 ∧ byteAt b 17 = op.code ∧ synDead s (byteAt b 16) = false ∧
      (s.waits.any (fun w => decide (w.req = 1024 + q.val ∧ w.key = pos)) = false)) ∧
    (∃ (s : State) (q : Fin 16) (pos : Nat) (b : List Byte) (op : SynOp), op ∈ [SynOp.add, SynOp.sub, SynOp.set, SynOp.trydec, SynOp.read] ∧
      runnable s q pos 0x28 (syncOp op) = some b ∧ byteAt b 16 < 128 ∧ byteAt b 17 = op.code ∧ synDead s (byteAt b 16) = false ∧
      (s.waits.any (fun w => decide (w.req = 1024 + q.val ∧ w.key = pos)) = false)) ∧
    (∃ (s : State) (q : Fin 16) (pos : Nat) (b : List Byte) (op : SynOp), op ∈ [SynOp.add, SynOp.sub, SynOp.set, SynOp.trydec, SynOp.read] ∧
      runnable s q pos 0x28 (syncOp op) = some b ∧ byteAt b 16 < 128 ∧ byteAt b 17 = op.code ∧ synDead s (byteAt b 16) = false ∧
      (s.waits.any (fun w => decide (w.req = 1024 + q.val ∧ w.key = pos)) = false)) ∧
    (∃ (s : State) (q : Fin 16) (pos : Nat) (b : List Byte) (op : SynOp), op ∈ [SynOp.add, SynOp.sub, SynOp.set, SynOp.trydec, SynOp.read] ∧
      runnable s q pos 0x28 (syncOp op) = some b ∧ byteAt b 16 < 128 ∧ byteAt b 17 = op.code ∧ synDead s (byteAt b 16) = false ∧
      (s.waits.any (fun w => decide (w.req = 1024 + q.val ∧ w.key = pos)) = false)) ∧
    (∃ (s : State) (q : Fin 16) (pos : Nat) (b : List Byte), runnable s q pos 0x28 (syncOp .waitGe) = some b ∧ byteAt b 16 < 128 ∧
      byteAt b 17 = 4 ∧ synDead s (byteAt b 16) = false ∧ (s.waits.any (fun w => decide (w.req = 1024 + q.val ∧ w.key = pos)) = false) ∧
      synCond s (byteAt b 16) false (leAt b 20 4) = false) ∧
    (∃ (s : State) (q : Fin 16) (pos : Nat) (b : List Byte), runnable s q pos 0x28 (syncOp .waitEq) = some b ∧ byteAt b 16 < 128 ∧
      byteAt b 17 = 5 ∧ synDead s (byteAt b 16) = false ∧ (s.waits.any (fun w => decide (w.req = 1024 + q.val ∧ w.key = pos)) = false) ∧
      synCond s (byteAt b 16) true (leAt b 20 4) = true) ∧
    (∃ (s : State) (q : Fin 16) (pos : Nat) (b : List Byte), runnable s q pos 0x28 (syncOp .add) = some b ∧ byteAt b 16 < 128 ∧ byteAt b 17 = 0 ∧
      synDead s (byteAt b 16) = true) ∧
    (∃ (s : State) (q : Fin 16) (w : Waiter) (d : Desc), s.waits.find? (fun w => w.req = 1024 + q.val) = some w ∧ findDesc s q w.key = some d ∧
      leAt d.bytes 24 4 ≠ 0 ∧ w.t0 + 1000 * leAt d.bytes 24 4 ≤ s.clk.now) ∧
    (∃ (s : State) (q : Fin 16) (w : Waiter) (d : Desc), s.waits.find? (fun w => w.req = 1024 + q.val) = some w ∧ findDesc s q w.key = some d ∧
      (leAt d.bytes 24 4 = 0 ∨ s.clk.now < w.t0 + 1000 * leAt d.bytes 24 4)) ∧
    (∃ (s : State) (w : Waiter) (x : Sheaf), (s.waits.find? (fun w => decide (1040 ≤ w.req ∧ w.key = x.sid)) = some w) ∧
      findSheaf s x.sid = some x ∧ w.t0 + 1000 * max 1 (regF s 0x2624 0 16) ≤ s.clk.now) ∧
    (∃ (s : State) (w : Waiter) (x : Sheaf), (s.waits.find? (fun w => decide (1040 ≤ w.req ∧ w.key = x.sid)) = some w) ∧
      findSheaf s x.sid = some x ∧ s.clk.now < w.t0 + 1000 * max 1 (regF s 0x2624 0 16)) :=
  ⟨⟨synUp 1 0 0 5 (sqWith (synBytes 0)), 0, 0, padTo 64 (synBytes 0), .add, by decide +kernel⟩,
    ⟨synUp 1 0 0 5 (sqWith (synBytes 1)), 0, 0, padTo 64 (synBytes 1), .sub, by decide +kernel⟩,
    ⟨synUp 1 0 0 5 (sqWith (synBytes 2)), 0, 0, padTo 64 (synBytes 2), .set, by decide +kernel⟩,
    ⟨synUp 1 0 0 5 (sqWith (synBytes 3)), 0, 0, padTo 64 (synBytes 3), .trydec, by decide +kernel⟩,
    ⟨synUp 1 0 0 5 (sqWith (synBytes 6)), 0, 0, padTo 64 (synBytes 6), .read, by decide +kernel⟩,
    ⟨synUp 1 0 0 5 (sqWith (synBytes 4)), 0, 0, padTo 64 (synBytes 4), by decide +kernel⟩,
    ⟨synUp 1 0 0 6 (sqWith (synBytes 5)), 0, 0, padTo 64 (synBytes 5), by decide +kernel⟩,
    ⟨{ synUp 1 0 0 5 (sqWith (synBytes 0)) with glb := { up.glb with dieFatal := 1 } }, 0, 0, padTo 64 (synBytes 0), by decide +kernel⟩,
    ⟨waitUp 9000, 0, wait0 1024 0, { pos := 0, bytes := padTo 64 (synBytes 4), st := .waiting, tails := [] }, by decide +kernel⟩,
    ⟨waitUp 8999, 0, wait0 1024 0, { pos := 0, bytes := padTo 64 (synBytes 4), st := .waiting, tails := [] }, by decide +kernel⟩,
    ⟨gateUp 1000, wait0 1040 2, { sheaf0 with gateWait := true }, by decide +kernel⟩,
    ⟨gateUp 999, wait0 1040 2, { sheaf0 with gateWait := true }, by decide +kernel⟩⟩

/-- A valid template of 60 bytes for trunk port 0, which is enabled, and a message whose outputs have arrived. -/
def buildUp (valid : Nat) (m : Msg) : State :=
  { setReg 0x1000 1 up with tables := [(0x400000, leBytes 2 60 ++ leBytes 2 60 ++ [BitVec.ofNat 8 (128 * valid)])], msgs := [m], frames := [{ frame1 with ended := true }] }
def outMsg : Msg := { msg0 with outputs := some [1#8], verdict := some true }

/-- Message 4, whose request ended at 0, waits for its verdict, at a time. -/
def gateMsg : Msg := { msg0 with loc := .gather }
def verdictUp (now : Nat) : State :=
  { buildUp 1 gateMsg with frames := [{ frame1 with ended := true, tEnd := some 0 }], clk := { up.clk with now := now } }

theorem witness_RepliesAreBuilt :
    (∃ (s : State) (m : Msg), findMsg s m.mid = some m ∧ m.loc = .output ∧ m.outputs.isSome = true ∧ m.status = none ∧ m.held = false ∧
      m.rowsOut = [] ∧ m.reply = none ∧ tplValid (tblEntry s 0x40 m.tmpl) = true ∧ tblIsBad s 0x40 m.tmpl = false ∧
      echoReady s (tblEntry s 0x40 m.tmpl) (buildIn s m false).req = true ∧ destDown s (replyDest (tblEntry s 0x40 m.tmpl) m.ingress) = false ∧
      replyDest (tblEntry s 0x40 m.tmpl) m.ingress < 16) ∧
    (∃ (s : State) (m : Msg), findMsg s m.mid = some m ∧ m.loc = .output ∧ m.outputs.isSome = true ∧ m.status = none ∧ m.held = false ∧
      m.rowsOut = [] ∧ m.reply = none ∧ (tplValid (tblEntry s 0x40 m.tmpl) = false ∨ tblIsBad s 0x40 m.tmpl = true)) ∧
    (∃ (s : State) (m : Msg), findMsg s m.mid = some m ∧ m.loc = .output ∧ m.outputs.isSome = true ∧ m.status = none ∧ m.held = false ∧
      m.rowsOut = [] ∧ m.reply = none ∧ tplValid (tblEntry s 0x40 m.tmpl) = true ∧ tblIsBad s 0x40 m.tmpl = false ∧
      echoReady s (tblEntry s 0x40 m.tmpl) (buildIn s m false).req = true ∧ destDown s (replyDest (tblEntry s 0x40 m.tmpl) m.ingress) = true) ∧
    (∃ (s : State) (m : Msg) (t0 : Nat), findMsg s m.mid = some m ∧ m.verdict = none ∧ gateStart s m = some t0 ∧ t0 + gateMax s ≤ s.clk.now) ∧
    (∃ (s : State) (m : Msg) (t0 : Nat), findMsg s m.mid = some m ∧ m.verdict = none ∧ gateStart s m = some t0 ∧ s.clk.now < t0 + gateMax s) :=
  ⟨⟨buildUp 1 outMsg, outMsg, by decide +kernel⟩,
    ⟨buildUp 0 outMsg, outMsg, by decide +kernel⟩,
    ⟨setReg 0x1000 0 (buildUp 1 outMsg), outMsg, by decide +kernel⟩,
    ⟨verdictUp (gateMax up), gateMsg, 0, by decide +kernel⟩,
    ⟨verdictUp (gateMax up - 1), gateMsg, 0, by decide +kernel⟩⟩

def bpUp (f : Port → Port) (ms : List Msg) : State := { portWith (fun p => f { p with running := true }) up with msgs := ms }
def ctl0 (rank : Nat) : Ctl := { rank := rank, payload := [1#8, 2#8] }

def endMsg0 : Msg := { msg0 with verdict := some true, reply := some { reply0 with dest := 0 } }

theorem witness_BroadcastSlots :
    (∃ (s : State) (n : Fin 8), (getPort s n).running = true ∧ (getPort s n).bpSlot < cycSlots s n) ∧
    (∃ (s : State) (n : Fin 8), ((getPort s n).running = false ∨ cycSlots s n ≤ (getPort s n).bpSlot)) ∧
    (∃ (s : State) (n : Fin 8) (b : List Byte), (getPort s n).running = true ∧ (getPort s n).winding = false ∧ (getPort s n).bpSlot = 0 ∧
      0 < cycSlots s n ∧ (getPort s n).beacon = some b) ∧
    (∃ (s : State) (n : Fin 8) (c : Ctl), (getPort s n).running = true ∧ (getPort s n).winding = false ∧ 0 < (getPort s n).bpSlot ∧
      (getPort s n).bpSlot < cycSlots s n ∧ (getPort s n).ctls.find? (fun c => c.rank = 0) = some c) ∧
    (∃ (s : State) (n : Fin 8), (getPort s n).running = true ∧ (getPort s n).winding = false ∧ 0 < (getPort s n).bpSlot ∧
      (getPort s n).bpSlot < cycSlots s n ∧ (∀ c ∈ (getPort s n).ctls, c.rank ≠ 0 ∧ c.rank ≠ 1) ∧ (getPort s n).acks ≠ []) ∧
    (∃ (s : State) (u : State) (n : Fin 8) (m : Msg) (r : Reply) (lane : Nat), (getPort s n).running = true ∧ 0 < (getPort s n).bpSlot ∧
      (getPort s n).bpSlot < cycSlots s n ∧ (getPort s n).ctls = [] ∧ (getPort s n).acks = [] ∧ u = markLaneWaits n s ∧
      u.msgs.findSome? (fun m => (mayEnd u n m).map (fun x => (m, x))) = some (m, r, false) ∧ replyLane u n m r = some lane) :=
  ⟨⟨bpUp (fun p => { p with bpSlot := 18 }) [], 0, by decide +kernel⟩,
    ⟨bpUp (fun p => { p with bpSlot := 10000 }) [], 0, by decide +kernel⟩,
    ⟨bpUp (fun p => { p with beacon := some [7#8], ctls := [ctl0 0], lfsr := 5 }) [], 0, [7#8], by decide +kernel⟩,
    ⟨bpUp (fun p => { p with bpSlot := 1, beacon := some [7#8], ctls := [ctl0 3, ctl0 0], acks := [[1#8]], ctlSeq := 300, lfsr := 5 }) [], 0,
    ctl0 0, by decide +kernel⟩,
    ⟨bpUp (fun p => { p with bpSlot := 1, ctls := [ctl0 3], acks := List.replicate 37 [1#8] }) [], 0, by decide +kernel⟩,
    ⟨bpUp (fun p => { p with bpSlot := 1, lfsr := 5 }) [endMsg0], markLaneWaits 0 (bpUp (fun p => { p with bpSlot := 1, lfsr := 5 }) [endMsg0]), 0,
    endMsg0, { reply0 with dest := 0 }, 0, by decide +kernel⟩⟩

/-- `up` with a line of a die cache and a directory entry. -/
def memUp (f : Mem → Mem) : State := { up with mem := f up.mem }
def line0 (st : Mesi) : CacheLine := { st := st, data := List.replicate 128 7#8, used := 3, bad := 0 }
def dir0 (held : Nat) (owned : Bool) : DirEntry := { held := held, owned := owned, used := 2 }
/-- One wrong symbol, or many. -/
def oneErr : List Byte := [1#8]
def manyErr : List Byte := (List.range 20).map (fun i => BitVec.ofNat 8 (i + 1))

/-- What a half reads as under bits in error (the statement's `word`). -/
def wordAt (s : State) (h : Nat) (e : List Byte) : Option (List Byte × Bool) :=
  if e.all (fun b => decide (b = 0)) then some (memBytes s (32 * h) 32, false)
  else eccDecode (xorBytes (memBytes s (32 * h) 32 ++ eccBytes (memBytes s (32 * h) 32)) (padTo 36 e))

theorem witness_HbmReads :
    (∃ (s : State) (die : Fin 4) (dpa : BitVec 40) (purpose : Fin 4) (owner : Nat) (e0 : List Byte) (e1 : List Byte) (A : Nat) (L : Nat) (n : Nat) (c : _),
      A = dpa.toNat / 64 * 64 ∧ L = A / 128 ∧ n = stackOf A ∧ issues s n = true ∧ reach s A = true ∧ n ≠ die ∧ purpose ≠ 3 ∧
      findLine s die L = some c ∧ c.bad.testBit (A / 32 % 4) = false ∧ c.bad.testBit ((A / 32 + 1) % 4) = false) ∧
    (∃ (s : State) (die : Fin 4) (dpa : BitVec 40) (purpose : Fin 4) (owner : Nat) (e0 : List Byte) (e1 : List Byte) (A : Nat) (L : Nat) (n : Nat) (c : _),
      A = dpa.toNat / 64 * 64 ∧ L = A / 128 ∧ n = stackOf A ∧ issues s n = true ∧ reach s A = true ∧ n ≠ die ∧ purpose ≠ 3 ∧
      findLine s die L = some c ∧ c.bad.testBit (A / 32 % 4) = true ∧ c.bad.testBit ((A / 32 + 1) % 4) = false) ∧
    (∃ (s : State) (die : Fin 4) (dpa : BitVec 40) (purpose : Fin 4) (owner : Nat) (e0 : List Byte) (e1 : List Byte) (A : Nat) (L : Nat) (n : Nat),
      A = dpa.toNat / 64 * 64 ∧ L = A / 128 ∧ n = stackOf A ∧ issues s n = true ∧ reach s A = true ∧ (n = die ∨ purpose = 3) ∧
      (getDir s L).held = 0 ∧ (getDir s L).owned = false ∧ (poisoned s (A / 32) = false ∧ (wordAt s (A / 32) e0).map Prod.snd = some false) ∧
      (poisoned s (A / 32 + 1) = false ∧ (wordAt s (A / 32 + 1) e1).map Prod.snd = some false)) ∧
    (∃ (s : State) (die : Fin 4) (dpa : BitVec 40) (purpose : Fin 4) (owner : Nat) (e0 : List Byte) (e1 : List Byte) (A : Nat) (L : Nat) (n : Nat) (d : _),
      A = dpa.toNat / 64 * 64 ∧ L = A / 128 ∧ n = stackOf A ∧ issues s n = true ∧ reach s A = true ∧ (n = die ∨ purpose = 3) ∧
      (getDir s L).held = 0 ∧ (getDir s L).owned = false ∧ poisoned s (A / 32) = false ∧ wordAt s (A / 32) e0 = some (d, true) ∧
      (poisoned s (A / 32 + 1) = false ∧ (wordAt s (A / 32 + 1) e1).map Prod.snd = some false)) ∧
    (∃ (s : State) (die : Fin 4) (dpa : BitVec 40) (purpose : Fin 4) (owner : Nat) (e0 : List Byte) (e1 : List Byte) (A : Nat) (L : Nat) (n : Nat),
      A = dpa.toNat / 64 * 64 ∧ L = A / 128 ∧ n = stackOf A ∧ issues s n = true ∧ reach s A = true ∧ (n = die ∨ purpose = 3) ∧
      (getDir s L).held = 0 ∧ (getDir s L).owned = false ∧ (poisoned s (A / 32) = true ∨ wordAt s (A / 32) e0 = none) ∧
      (poisoned s (A / 32 + 1) = false ∧ (wordAt s (A / 32 + 1) e1).map Prod.snd = some false)) ∧
    (∃ (s : State) (die : Fin 4) (dpa : BitVec 40) (purpose : Fin 4) (owner : Nat) (e0 : List Byte) (e1 : List Byte) (A : Nat) (L : Nat) (n : Nat),
      A = dpa.toNat / 64 * 64 ∧ L = A / 128 ∧ n = stackOf A ∧ issues s n = true ∧ reach s A = true ∧ (n = die ∨ purpose = 3) ∧
      (getDir s L).held = 0 ∧ (getDir s L).owned = false ∧ (poisoned s (A / 32) = true ∨ wordAt s (A / 32) e0 = none) ∧
      (poisoned s (A / 32 + 1) = false ∧ (wordAt s (A / 32 + 1) e1).map Prod.snd = some false)) ∧
    (∃ (s : State) (die : Fin 4) (dpa : BitVec 40) (purpose : Fin 4) (owner : Nat) (e0 : List Byte) (e1 : List Byte) (A : Nat) (L : Nat) (n : Nat),
      A = dpa.toNat / 64 * 64 ∧ L = A / 128 ∧ n = stackOf A ∧ issues s n = true ∧ reach s A = false) ∧
    (∃ (s : State) (die : Fin 4) (dpa : BitVec 40) (purpose : Fin 4) (owner : Nat) (e0 : List Byte) (e1 : List Byte) (A : Nat) (L : Nat) (n : Nat),
      A = dpa.toNat / 64 * 64 ∧ L = A / 128 ∧ n = stackOf A ∧ issues s n = true ∧ reach s A = true ∧ n ≠ die ∧ purpose ≠ 3 ∧
      findLine s die L = none ∧ (getDir s L).held = 0 ∧ (s.mem.fills.any (fun f => decide (f.1 = die.val ∧ f.2.1 = L)) = false) ∧
      (poisoned s (A / 32) = false ∧ (wordAt s (A / 32) e0).map Prod.snd = some false) ∧ (poisoned s (A / 32 + 1) = false ∧
      (wordAt s (A / 32 + 1) e1).map Prod.snd = some false)) :=
  ⟨⟨memUp (fun m => { m with rlc := [(cacheKey 1 32, line0 .shared)] }), 1, 0x1007, 0, 4, [], [], 0x1000, 0x1000 / 128, 0, line0 .shared,
    by decide +kernel⟩,
    ⟨memUp (fun m => { m with rlc := [(cacheKey 1 32, { line0 .shared with bad := 1 })] }), 1, 0x1007, 0, 4, [], [], 0x1000, 0x1000 / 128, 0,
    { line0 .shared with bad := 1 }, by decide +kernel⟩,
    ⟨up, 0, 0x1007, 3, 4, [], [], 0x1000, 0x1000 / 128, 0, by decide +kernel⟩,
    ⟨up, 0, 0x1007, 1, 4, oneErr, [], 0x1000, 0x1000 / 128, 0, List.replicate 32 0#8, by decide +kernel⟩,
    ⟨up, 0, 0x1007, 2, 4, manyErr, [], 0x1000, 0x1000 / 128, 0, by decide +kernel⟩,
    ⟨memUp (fun m => { m with poison := [(128, true)] }), 0, 0x1007, 2, 4, [], [], 0x1000, 0x1000 / 128, 0, by decide +kernel⟩,
    ⟨up, 0, (BitVec.ofNat 40 (2 ^ 35 - 1)), 1, 4, [], [], (2 ^ 35 - 64), (2 ^ 35 - 64) / 128, stackOf (2 ^ 35 - 64), by decide +kernel⟩,
    ⟨up, 1, 0x1007, 0, 4, [], [], 0x1000, 0x1000 / 128, 0, by decide +kernel⟩⟩

theorem witness_HbmWritesAndScrubs :
    (∃ (s : State) (die : Fin 4) (dpa : BitVec 40) (purpose : Fin 3) (owner : Nat) (data : List Byte) (A : Nat), A = dpa.toNat / 64 * 64 ∧
      issues s (stackOf A) = true ∧ reach s A = true ∧ (purpose ≠ 2 ∨ stackOf A = die)) ∧
    (∃ (s : State) (die : Fin 4) (dpa : BitVec 40) (purpose : Fin 3) (owner : Nat) (data : List Byte) (A : Nat), A = dpa.toNat / 64 * 64 ∧
      issues s (stackOf A) = true ∧ reach s A = true ∧ (purpose ≠ 2 ∨ stackOf A = die)) ∧
    (∃ (s : State) (die : Fin 4) (dpa : BitVec 40) (purpose : Fin 3) (owner : Nat) (data : List Byte) (A : Nat) (c : _), A = dpa.toNat / 64 * 64 ∧
      issues s (stackOf A) = true ∧ reach s A = true ∧ purpose = 2 ∧ stackOf A ≠ die ∧ findLine s die (A / 128) = some c ∧ c.st ≠ .shared) ∧
    (∃ (s : State) (die : Fin 4) (dpa : BitVec 40) (purpose : Fin 3) (owner : Nat) (data : List Byte) (A : Nat), A = dpa.toNat / 64 * 64 ∧
      issues s (stackOf A) = true ∧ reach s A = true ∧ purpose = 2 ∧ stackOf A ≠ die ∧ (∀ c, findLine s die (A / 128) = some c → c.st = .shared)) ∧
    (∃ (s : State) (die : Fin 4) (dpa : BitVec 40) (purpose : Fin 3) (owner : Nat) (data : List Byte) (A : Nat), A = dpa.toNat / 64 * 64 ∧
      issues s (stackOf A) = true ∧ reach s A = false) ∧
    (∃ (s : State) (stack : Fin 4) (pc : Fin 32) (waits : List Nat), issues s stack = true ∧ (∀ w ∈ waits, w ≤ 350)) ∧
    (∃ (s : State) (stack : Fin 4) (err : List Byte) (raced : Bool) (k : Nat) (h : Nat), issues s stack = true ∧
      (getReg s 0x3000).testBit 0 = true ∧ s.glb.dieFatal.testBit stack = false ∧ k = tget 0 stack s.mem.scrubPos ∧ k < 24 * 2 ^ 30 / 32 ∧
      h = stack * 2 ^ 30 + k ∧ (getDir s (h / 4)).held = 0 ∧ 24 * 2 ^ 30 / 32 ≤ k + 1 ∧ poisoned s h = false ∧
      (wordAt s h err).map Prod.snd = some false) ∧
    (∃ (s : State) (stack : Fin 4) (err : List Byte) (raced : Bool) (k : Nat) (h : Nat), issues s stack = true ∧
      (getReg s 0x3000).testBit 0 = true ∧ s.glb.dieFatal.testBit stack = false ∧ k = tget 0 stack s.mem.scrubPos ∧ k < 24 * 2 ^ 30 / 32 ∧
      h = stack * 2 ^ 30 + k ∧ (getDir s (h / 4)).held = 0 ∧ k + 1 < 24 * 2 ^ 30 / 32 ∧ poisoned s h = false ∧
      (wordAt s h err).map Prod.snd = some true) ∧
    (∃ (s : State) (stack : Fin 4) (err : List Byte) (raced : Bool) (k : Nat) (h : Nat), issues s stack = true ∧
      (getReg s 0x3000).testBit 0 = true ∧ s.glb.dieFatal.testBit stack = false ∧ k = tget 0 stack s.mem.scrubPos ∧ k < 24 * 2 ^ 30 / 32 ∧
      h = stack * 2 ^ 30 + k ∧ (getDir s (h / 4)).held = 0 ∧ wordAt s h err = none) ∧
    (∃ (s : State) (stack : Fin 4) (err : List Byte) (raced : Bool) (k : Nat) (h : Nat), issues s stack = true ∧
      (getReg s 0x3000).testBit 0 = true ∧ s.glb.dieFatal.testBit stack = false ∧ k = tget 0 stack s.mem.scrubPos ∧ k < 24 * 2 ^ 30 / 32 ∧
      h = stack * 2 ^ 30 + k ∧ (getDir s (h / 4)).held = 0 ∧ poisoned s h = true) :=
  ⟨⟨memUp (fun m => { m with rlc := [(cacheKey 1 32, line0 .modified)], dir := [(32, dir0 2 true)], poison := [(128, true)] }), 1, 0x1007, 0, 4,
    [9#8], 0x1000, by decide +kernel⟩,
    ⟨up, 0, 0x1007, 2, 4, [9#8], 0x1000, by decide +kernel⟩,
    ⟨memUp (fun m => { m with rlc := [(cacheKey 1 32, line0 .exclusive)], dir := [(32, dir0 2 true)] }), 1, 0x1007, 2, 4, [9#8], 0x1000,
    line0 .exclusive, by decide +kernel⟩,
    ⟨memUp (fun m => { m with rlc := [(cacheKey 1 32, line0 .shared), (cacheKey 2 32, line0 .shared)], dir := [(32, dir0 6 false)] }), 1, 0x1007, 2,
    4, [9#8], 0x1000, by decide +kernel, by decide +kernel, by decide +kernel, by decide +kernel, by decide +kernel,
    fun _ h => of_decide_eq_true (all_of_some _ _ (fun c => decide (c.st = .shared)) h (by decide +kernel))⟩,
    ⟨up, 0, (BitVec.ofNat 40 (2 ^ 35 - 1)), 1, 4, [9#8], (2 ^ 35 - 64), by decide +kernel⟩,
    ⟨up, 3, 31, [350, 0, 7], by decide +kernel⟩,
    ⟨setReg 0x3000 1 (memUp (fun m => { m with scrubPos := [(2, 805306367)] })), 2, [], false, 805306367, 2 * 2 ^ 30 + 805306367, by decide +kernel⟩,
    ⟨setReg 0x3000 1 (memUp (fun m => { m with scrubPos := [(2, 5)] })), 2, oneErr, false, 5, 2 * 2 ^ 30 + 5, by decide +kernel⟩,
    ⟨setReg 0x3000 1 (memUp (fun m => { m with scrubPos := [(2, 5)] })), 2, manyErr, false, 5, 2 * 2 ^ 30 + 5, by decide +kernel⟩,
    ⟨setReg 0x3000 1 (memUp (fun m => { m with scrubPos := [(2, 5)], poison := [(2147483653, true)] })), 2, [], false, 5, 2 * 2 ^ 30 + 5,
    by decide +kernel⟩⟩

theorem witness_CoherenceOfLines :
    (∃ (s : State) (die : Fin 4) (line : BitVec 33) (L : Nat) (owner : Nat) (data : List Byte) (kind : Fin 5), L = line.toNat ∧
      issues s (stackOf (128 * L)) = true ∧ reach s (128 * L) = false) ∧
    (∃ (s : State) (die : Fin 4) (line : BitVec 33) (L : Nat) (owner : Nat) (data : List Byte), L = line.toNat ∧
      issues s (stackOf (128 * L)) = true ∧ reach s (128 * L) = true ∧ stackOf (128 * L) ≠ die) ∧
    (∃ (s : State) (die : Fin 4) (line : BitVec 33) (L : Nat) (owner : Nat) (data : List Byte), L = line.toNat ∧
      issues s (stackOf (128 * L)) = true ∧ reach s (128 * L) = true ∧ stackOf (128 * L) ≠ die) ∧
    (∃ (s : State) (die : Fin 4) (line : BitVec 33) (L : Nat) (owner : Nat) (data : List Byte), L = line.toNat ∧
      issues s (stackOf (128 * L)) = true ∧ reach s (128 * L) = true) ∧
    (∃ (s : State) (die : Fin 4) (line : BitVec 33) (L : Nat) (owner : Nat) (data : List Byte) (c : _), L = line.toNat ∧
      issues s (stackOf (128 * L)) = true ∧ reach s (128 * L) = true ∧ findLine s die L = some c) ∧
    (∃ (s : State) (die : Fin 4) (line : BitVec 33) (L : Nat) (owner : Nat) (data : List Byte) (c : _), L = line.toNat ∧
      issues s (stackOf (128 * L)) = true ∧ reach s (128 * L) = true ∧ findLine s die L = some c) ∧
    (∃ (s : State) (die : Fin 4) (line : BitVec 33) (L : Nat) (owner : Nat) (data : List Byte) (h : _) (c : _), L = line.toNat ∧
      issues s (stackOf (128 * L)) = true ∧ reach s (128 * L) = true ∧ h < 4 ∧ (getDir s L).held = 2 ^ h ∧ findLine s h L = some c ∧
      c.st = .modified) ∧
    (∃ (s : State) (die : Fin 4) (line : BitVec 33) (L : Nat) (owner : Nat) (data : List Byte) (c : _), L = line.toNat ∧
      findLine s die L = some c) :=
  ⟨⟨up, 1, 268435455, 268435455, 4, [1#8], 4, by decide +kernel⟩,
    ⟨memUp (fun m => { m with rlc := [(cacheKey 2 32, line0 .modified)], dir := [(32, dir0 4 true)] }), 1, 32, 32, 4, [1#8], by decide +kernel⟩,
    ⟨memUp (fun m => { m with rlc := [(cacheKey 2 32, line0 .modified)], dir := [(32, dir0 4 true)] }), 1, 32, 32, 4, [1#8], by decide +kernel⟩,
    ⟨memUp (fun m => { m with rlc := [(cacheKey 2 32, line0 .modified)], dir := [(32, dir0 4 true)] }), 1, 32, 32, 4, [1#8], by decide +kernel⟩,
    ⟨memUp (fun m => { m with rlc := [(cacheKey 2 32, line0 .modified)], dir := [(32, dir0 4 true)] }), 2, 32, 32, 4, [1#8], line0 .modified,
    by decide +kernel⟩,
    ⟨memUp (fun m => { m with rlc := [(cacheKey 2 32, { line0 .modified with bad := 8 })], dir := [(32, dir0 4 true)] }), 2, 32, 32, 4, [1#8],
    { line0 .modified with bad := 8 }, by decide +kernel⟩,
    ⟨memUp (fun m => { m with rlc := [(cacheKey 2 32, { line0 .modified with used := 0 })], dir := [(32, dir0 4 true)] }), 1, 32, 32, 4, [1#8], 2,
    { line0 .modified with used := 0 }, by decide +kernel⟩,
    ⟨memUp (fun m => { m with rlc := [(cacheKey 2 32, line0 .modified)], dir := [(32, dir0 4 true)], fills := [(2, 32, false), (1, 32, false)] }),
    2, 32, 32, 4, [1#8], line0 .modified, by decide +kernel⟩⟩

/-- Message 4 with its last row outstanding, drained into tile 35's channel; its stream's KV at an address. -/
def rowMsg : Msg := { msg0 with rowsOut := [3], staged := true }
def rowStr (base : Nat) : Stream :=
  { Stream.init with kvBase := base, pcap := 4, kvHead := 3, kvL := 1, newPos := 2, kvH := 1, kvE := 64, kvFmt := 1 }
def rowTok : Nat × Token := (35, { net := 1, tag := 24576, data := 0x7F01, headland := false })
def kvUp (base : Nat) : State :=
  setStream 7 (rowStr base)
    { fabUp { group0 with tables := [(3, [4])] } sheaf0 with msgs := [rowMsg], fab := { up.fab with drain := [rowTok] } }

/-- A group whose resident image is one byte 9, at bundle offset 512. -/
def resUp : State :=
  setPlot 2 { Plot.init with st := .active, group := some 5, bufBad := [0, 8] }
    (putMem (bundleDpa 0 0 522) [1#8] (putMem (bundleDpa 0 0 530) [0#8, 2#8] (putMem (bundleDpa 0 0 512) [9#8]
      (setBank 0 0 { Bank.init with groupOff := 512, pin := true } (fabUp { group0 with unfilled := [2] } sheaf0)))))

theorem witness_RowsBuffersAndWindow :
    (∃ (s : State) (m : Msg) (l : Nat) (tn : Fin 2) (n : Nat) (tile : Fin 1024) (full : Bool) (v : Stream) (a : Nat) (per : Nat) (toks : List (Nat × Token)) (rest : List (Nat × Token)),
      findMsg s m.mid = some m ∧ getStream s m.stream = v ∧ v.kvBase % 64 = 0 ∧ a = kvAddr v l tn ((v.kvHead + n) % max 1 v.pcap) ∧
      per = (if decide (v.kvFmt = 0) && full then 128 else 64) ∧
      (v.kvL ≤ l ∨ v.newPos ≤ n ∨ (2 * l + tn) * v.newPos + n ∉ m.rowsOut ∨ isOldest s m = false)) ∧
    (∃ (s : State) (m : Msg) (l : Nat) (tn : Fin 2) (n : Nat) (tile : Fin 1024) (full : Bool) (v : Stream) (a : Nat) (per : Nat) (toks : List (Nat × Token)) (rest : List (Nat × Token)),
      findMsg s m.mid = some m ∧ getStream s m.stream = v ∧ v.kvBase % 64 = 0 ∧ a = kvAddr v l tn ((v.kvHead + n) % max 1 v.pcap) ∧
      per = (if decide (v.kvFmt = 0) && full then 128 else 64) ∧
      (v.kvL ≤ l ∨ v.newPos ≤ n ∨ (2 * l + tn) * v.newPos + n ∉ m.rowsOut ∨ isOldest s m = false)) ∧
    (∃ (s : State) (m : Msg) (l : Nat) (tn : Fin 2) (n : Nat) (tile : Fin 1024) (full : Bool) (v : Stream) (a : Nat) (per : Nat) (toks : List (Nat × Token)) (rest : List (Nat × Token)),
      findMsg s m.mid = some m ∧ getStream s m.stream = v ∧ v.kvBase % 64 = 0 ∧ a = kvAddr v l tn ((v.kvHead + n) % max 1 v.pcap) ∧
      per = (if decide (v.kvFmt = 0) && full then 128 else 64) ∧ l < v.kvL ∧ n < v.newPos ∧ (2 * l + tn) * v.newPos + n ∈ m.rowsOut ∧
      isOldest s m = true ∧ takeSome (drainedFor s m.mid tile) (ceilDiv (v.kvH * v.kvE) per) s.fab.drain = some (toks, rest) ∧ reach s a = true) ∧
    (∃ (s : State) (m : Msg) (l : Nat) (tn : Fin 2) (n : Nat) (tile : Fin 1024) (full : Bool) (v : Stream) (a : Nat) (per : Nat) (toks : List (Nat × Token)) (rest : List (Nat × Token)),
      findMsg s m.mid = some m ∧ getStream s m.stream = v ∧ v.kvBase % 64 = 0 ∧ a = kvAddr v l tn ((v.kvHead + n) % max 1 v.pcap) ∧
      per = (if decide (v.kvFmt = 0) && full then 128 else 64) ∧ l < v.kvL ∧ n < v.newPos ∧ (2 * l + tn) * v.newPos + n ∈ m.rowsOut ∧
      isOldest s m = true ∧ takeSome (drainedFor s m.mid tile) (ceilDiv (v.kvH * v.kvE) per) s.fab.drain = some (toks, rest) ∧ reach s a = false) ∧
    (∃ (s : State) (p : Fin 64) (off : Fin 1048576) (reader : Fin 2) (g : Group), groupOfPlot s p = some g) ∧
    (∃ (s : State) (p : Fin 64) (g : Group), groupOfPlot s p = some g ∧ p.val ∈ g.unfilled ∧
      (∀ h ∈ bundleHalves g.slot g.bank (residentAt s g p) (resBytes s g), poisoned s h = false)) ∧
    (∃ (s : State) (x : Fin 67108864) (n : Fin 1024) (D : Nat), barUp s = true ∧ D = bar2Dpa s (4 * x) ∧ hbmHeld s ≠ some (stackOf D) ∧
      (getReg s 0x300C).testBit 0 = false) ∧
    (∃ (s : State) (x : Fin 67108864) (n : Fin 1024) (D : Nat), barUp s = true ∧ D = bar2Dpa s (4 * x) ∧ hbmHeld s ≠ some (stackOf D) ∧
      (getReg s 0x300C).testBit 0 = true ∧ firstDead s D (4 * n) = none ∧ (∀ l ∈ linesOf D (4 * n), (getDir s l).held = 0) ∧
      (∀ h ∈ halvesOf D (4 * n), poisoned s h = false)) ∧
    (∃ (s : State) (x : Fin 67108864) (n : Fin 1024) (D : Nat) (h : _), h ∈ halvesOf D (4 * n) ∧ barUp s = true ∧ D = bar2Dpa s (4 * x) ∧
      hbmHeld s ≠ some (stackOf D) ∧ (getReg s 0x300C).testBit 0 = true ∧ firstDead s D (4 * n) = none ∧ (∀ l ∈ linesOf D (4 * n),
      (getDir s l).held = 0) ∧ poisoned s h = true) ∧
    (∃ (s : State) (x : Fin 67108864) (n : Fin 1024) (D : Nat) (h : _), barUp s = true ∧ D = bar2Dpa s (4 * x) ∧ hbmHeld s ≠ some (stackOf D) ∧
      (getReg s 0x300C).testBit 0 = true ∧ firstDead s D (4 * n) = some h) ∧
    (∃ (s : State) (x : Fin 268435456) (bytes : List Byte) (D : Nat), barUp s = true ∧ D = bar2Dpa s x ∧ hbmHeld s ≠ some (stackOf D) ∧
      (getReg s 0x300C).testBit 0 = false) ∧
    (∃ (s : State) (x : Fin 268435456) (bytes : List Byte) (D : Nat), barUp s = true ∧ D = bar2Dpa s x ∧ hbmHeld s ≠ some (stackOf D) ∧
      (getReg s 0x300C).testBit 0 = true ∧ firstDead s D bytes.length = none ∧ (∀ h ∈ halvesOf D bytes.length, poisoned s h = false)) ∧
    (∃ (s : State) (x : Fin 268435456) (bytes : List Byte) (D : Nat) (h : _), barUp s = true ∧ D = bar2Dpa s x ∧ hbmHeld s ≠ some (stackOf D) ∧
      (getReg s 0x300C).testBit 0 = true ∧ firstDead s D bytes.length = some h) :=
  ⟨⟨kvUp 0x2000, rowMsg, 0, 1, 2, 35, false, rowStr 0x2000, kvAddr (rowStr 0x2000) 0 1 1, 64, [rowTok], [], by decide +kernel⟩,
    ⟨kvUp 0x2000, rowMsg, 0, 1, 0, 35, false, rowStr 0x2000, kvAddr (rowStr 0x2000) 0 1 3, 64, [rowTok], [], by decide +kernel⟩,
    ⟨kvUp 0x2000, rowMsg, 0, 1, 1, 35, false, rowStr 0x2000, kvAddr (rowStr 0x2000) 0 1 0, 64, [rowTok], [], by decide +kernel⟩,
    ⟨kvUp 0x7FFF00000, rowMsg, 0, 1, 1, 35, false, rowStr 0x7FFF00000, kvAddr (rowStr 0x7FFF00000) 0 1 0, 64, [rowTok], [], by decide +kernel⟩,
    ⟨resUp, 2, 0, 0, { group0 with unfilled := [2] }, by decide +kernel⟩,
    ⟨resUp, 2, { group0 with unfilled := [2] }, by decide +kernel⟩,
    ⟨up, 0, 2, bar2Dpa up 0, by decide +kernel⟩,
    ⟨putMem 8 [3#8] (setReg 0x300C 1 up), 2, 2, 8, by decide +kernel⟩,
    ⟨setReg 0x300C 1 (memUp (fun m => { m with poison := [(0, true)] })), 2, 2, 8, 0, by decide +kernel⟩,
    ⟨setReg 0x300C (1 + 65536 * 0x60) up, 2, 2, bar2Dpa (setReg 0x300C (1 + 65536 * 0x60) up) 8, 25769803784, by decide +kernel⟩,
    ⟨up, 0, [1#8], bar2Dpa up 0, by decide +kernel⟩,
    ⟨setReg 0x300C 1 (memUp (fun m => { m with rlc := [(cacheKey 2 0, line0 .modified)], dir := [(0, dir0 4 true)] })), 30, [1#8, 2#8, 3#8, 4#8],
    30, by decide +kernel⟩,
    ⟨setReg 0x300C (1 + 65536 * 0x60) up, 0, [1#8], bar2Dpa (setReg 0x300C (1 + 65536 * 0x60) up) 0, 25769803776, by decide +kernel⟩⟩

/-- `up` with link 6 Up on full width, its two directions as given. -/
def linkUp (a b : LinkDir) : State := setLink 6 { Link.init with st := 2, ab := { a with good := 15, used := 15 }, ba := { b with good := 15, used := 15 } } up
def flit0 : LinkFlit := { seqNo := 255, cls := 5, op := 3, body := padTo 128 [1#8] }

def trainUp : State := setLink 6 { getLink (linkUp { LinkDir.init with dropped := 8, replay := [flit0] } LinkDir.init) 6 with st := 1, train := some train0 } up

theorem witness_DieLinks :
    (∃ (s : State) (l : Fin 10) (d : Fin 2) (c : Fin 8) (op : Byte) (body : List Byte) (x : LinkDir) (back : LinkDir), (getLink s l).st = 2 ∧
      x = (getLink s l).dir d ∧ back = (getLink s l).dir (1 - d) ∧ x.queue = [] ∧ x.resend = [] ∧ x.replay.length < 64 ∧ x.nextSeq < 256 ∧
      x.expect = x.nextSeq ∧ hasCredits s x c = true ∧ back.crdTurn < 8 ∧ tget 0 back.crdTurn back.freed < 256 ∧ back.renew = false ∧
      x.episode = false) ∧
    (∃ (s : State) (l : Fin 10) (d : Fin 2) (err : List (BitVec 272)) (x : LinkDir) (back : LinkDir) (w : Nat), (getLink s l).st = 2 ∧
      x = (getLink s l).dir d ∧ back = (getLink s l).dir (1 - d) ∧ x.queue = [] ∧ x.resend = [] ∧ x.episode = false ∧
      w = controlWord none x.nextSeq back (List.replicate 128 0#8) ^^^ errCtl err ∧
      flitCrc w (xorBytes (List.replicate 128 0#8) (errBody err)) ≠ w % 65536) ∧
    (∃ (s : State) (l : Fin 10) (d : Fin 2), (getLink s l).st = 2 ∧ ((getLink s l).dir d).episode = true) ∧
    (∃ (s : State) (l : Fin 10) (d : Fin 2) (x : LinkDir), (getLink s l).st = 2 ∧ (getLink s l).dir d = x ∧ x.replay ≠ [] ∧ x.tries < 8 ∧
      (getLink s l).train = none) ∧
    (∃ (s : State) (l : Fin 10) (d : Fin 2) (x : LinkDir), (getLink s l).st = 2 ∧ (getLink s l).dir d = x ∧ x.replay ≠ [] ∧ 8 ≤ x.tries ∧
      (getLink s l).train = none) ∧
    (∃ (s : State) (l : Fin 10) (full : Bool), barUp s = true ∧ (getLink s l).st = 2 ∧ (getLink s l).train = none) ∧
    (∃ (s : State) (l : Fin 10) (full : Bool) (τ : _), barUp s = true ∧ (getLink s l).train = some τ) ∧
    (∃ (s : State) (l : Fin 10) (goodA : Fin 16) (goodB : Fin 16) (pause : Nat) (τ : Train) (gA : Nat) (gB : Nat), (getLink s l).train = some τ ∧
      τ.cause ≠ 2 ∧ gA = (if τ.full then goodA.val else goodA.val &&& (15 - (getLink s l).ab.dropped)) ∧
      gB = (if τ.full then goodB.val else goodB.val &&& (15 - (getLink s l).ba.dropped)) ∧ gA ≠ 0 ∧ gB ≠ 0 ∧ τ.again = none) ∧
    (∃ (s : State) (l : Fin 10) (goodA : Fin 16) (goodB : Fin 16) (pause : Nat) (τ : Train) (gA : Nat) (gB : Nat), (getLink s l).train = some τ ∧
      τ.cause ≠ 2 ∧ gA = (if τ.full then goodA.val else goodA.val &&& (15 - (getLink s l).ab.dropped)) ∧
      gB = (if τ.full then goodB.val else goodB.val &&& (15 - (getLink s l).ba.dropped)) ∧ (gA = 0 ∨ gB = 0)) ∧
    (∃ (s : State) (l : Fin 10) (v : BitVec 32) (errs : List (Fin 1088 × List Bool)) (lock : Fin 16) (w : Nat), barUp s = true ∧
      w = v.toNat % 512 ∧ s.glb.run = false ∧ (w % 4 = 1 ∨ w % 4 = 2) ∧ (getLink s l).st ≠ 3) ∧
    (∃ (s : State) (l : Fin 10) (v : BitVec 32) (errs : List (Fin 1088 × List Bool)) (lock : Fin 16) (w : Nat), barUp s = true ∧
      w = v.toNat % 512 ∧ s.glb.run = false ∧ w % 4 = 0 ∧ (getLink s l).st = 4) ∧
    (∃ (s : State) (l : Fin 10) (v : BitVec 32) (errs : List (Fin 1088 × List Bool)) (lock : Fin 16) (w : Nat), barUp s = true ∧
      w = v.toNat % 512 ∧ s.glb.run = true ∧ getReg s (0x2C48 + 0x40 * l) ≠ w) :=
  ⟨⟨linkUp { LinkDir.init with nextSeq := 255, expect := 255 } LinkDir.init, 6, 0, 5, 3, [1#8],
    (getLink (linkUp { LinkDir.init with nextSeq := 255, expect := 255 } LinkDir.init) 6).dir 0,
    (getLink (linkUp { LinkDir.init with nextSeq := 255, expect := 255 } LinkDir.init) 6).dir 1, by decide +kernel⟩,
    ⟨linkUp LinkDir.init LinkDir.init, 6, 1, [BitVec.ofNat 272 (2 ^ 270 + 3)], (getLink (linkUp LinkDir.init LinkDir.init) 6).dir 1,
    (getLink (linkUp LinkDir.init LinkDir.init) 6).dir 0,
    controlWord none 0 ((getLink (linkUp LinkDir.init LinkDir.init) 6).dir 0) (List.replicate 128 0#8) ^^^ errCtl [BitVec.ofNat 272 (2 ^ 270 + 3)],
    by set_option maxRecDepth 20000 in decide +kernel⟩,
    ⟨linkUp { LinkDir.init with episode := true } LinkDir.init, 6, 0, by decide +kernel⟩,
    ⟨linkUp LinkDir.init { LinkDir.init with replay := [flit0], tries := 7 }, 6, 1,
    (getLink (linkUp LinkDir.init { LinkDir.init with replay := [flit0], tries := 7 }) 6).dir 1, by decide +kernel⟩,
    ⟨linkUp LinkDir.init { LinkDir.init with replay := [flit0], tries := 8 }, 6, 1,
    (getLink (linkUp LinkDir.init { LinkDir.init with replay := [flit0], tries := 8 }) 6).dir 1, by decide +kernel⟩,
    ⟨linkUp LinkDir.init LinkDir.init, 6, true, by decide +kernel⟩,
    ⟨trainUp, 6, false, train0, by decide +kernel⟩,
    ⟨trainUp, 6, 15, 8, 9, train0, 7, 8, by decide +kernel⟩,
    ⟨trainUp, 6, 8, 8, 9, train0, 0, 8, by decide +kernel⟩,
    ⟨linkUp LinkDir.init LinkDir.init, 6, 0x31, [(271, [true, false])], 15, 0x31, by decide +kernel⟩,
    ⟨setLink 6 { Link.init with st := 4 } up, 6, 0, [], 0, 0, by decide +kernel⟩,
    ⟨ranUp, 6, 1, [], 0, 1, by decide +kernel⟩⟩

/-- `up` with the Yoke in a state and its parts as given. -/
def ykUp (st : Nat) (f : Yoke → Yoke) : State := { setReg 0x2880 st up with yoke := f up.yoke }
def ydUp (st : Nat) (f : YokeDie → YokeDie) : State := setYd 1 (f YokeDie.init) (ykUp st id)
def plUp (f : Plot → Plot) (s : State) : State := setPlot 9 (f Plot.init) s
def tdUp (code : Nat) (s : State) : State := { s with clk := { s.clk with tdiv := tset 0 9 code s.clk.tdiv } }

/-- A YOKE_SET that waits for the next epoch, with every value but the ceiling. -/
def yokeSetBytes : List Byte :=
  padTo 64 ([0x31#8] ++ List.replicate 15 0#8 ++ [0, 0, 0x3E, 0, 0, 0, 0x57, 0x05, 0x64, 0, 9, 0, 8, 0, 7].map (BitVec.ofNat 8))
def setWaits : State :=
  setSq 0 { Sq.init with descs := [{ pos := 0, bytes := yokeSetBytes, st := .executing, tails := [] }] }
    (ykUp 4 (fun y => { y with sets := [(0, 0)], pstd := 100000, level := 600000 }))
/-- A grant, a die that has one on its way, and one whose clock runs ahead or behind. -/
def grant0 : Grant := { credit := 5, reserve := 6, level := 7 }
def grantUp (time dev : Nat) : State :=
  let s := ydUp 4 (fun y => { y with sent := some grant0, silent := 2, safe := true, report := some 4 })
  { s with clk := { s.clk with devTime := dev, trim := 3, mirror := [(1, { Mirror.init with time := time })] } }

theorem witness_YokeEpochs :
    (∃ (s : State) (imon : List Nat) (duty : List (Fin 256)), yokeUp s = true ∧ yokState s = 0) ∧
    (∃ (s : State) (imon : List Nat) (duty : List (Fin 256)), yokeUp s = true ∧ yokState s ≠ 0) ∧
    (∃ (s : State) (imon : List Nat) (duty : List (Fin 256)) (q : Fin 16) (pos : Nat) (v : Nat) (d : Desc), yokeUp s = true ∧
      s.yoke.sets = [(q.val, pos)] ∧ findDesc s q pos = some d ∧ v = leAt d.bytes 18 2) ∧
    (∃ (s : State) (imon : List Nat) (duty : List (Fin 256)) (n : Nat), yokeUp s = true ∧ yokState s ≠ 0 ∧ n = max 1 (goodDies s).length) ∧
    (∃ (s : State) (imon : List Nat) (duty : List (Fin 256)), yokeUp s = true ∧ yokState s = 3 ∧ s.yoke.sets = [] ∧ s.yoke.ceils = [] ∧
      s.yoke.board = [] ∧ s.plots.any (fun p => p.2.overtemp) = false ∧ s.yoke.level < floorEff s) ∧
    (∃ (s : State) (imon : List Nat) (duty : List (Fin 256)), yokeUp s = true ∧ yokState s = 3 ∧ s.yoke.sets = [] ∧ s.yoke.ceils = [] ∧
      s.yoke.board = [] ∧ s.plots.any (fun p => p.2.overtemp) = false ∧ s.yoke.level < floorEff s) ∧
    (∃ (s : State) (imon : List Nat) (duty : List (Fin 256)), yokeUp s = true ∧ yokState s = 3 ∧ s.yoke.sets = [] ∧ s.yoke.ceils = [] ∧
      s.yoke.board = [] ∧ s.plots.any (fun p => p.2.overtemp) = false ∧ floorEff s ≤ s.yoke.level) ∧
    (∃ (s : State) (d : Fin 4) (g : Grant), (getYd s d).sent = some g ∧ s.glb.dieFatal.testBit d = false ∧
      (tget Mirror.init d s.clk.mirror).time + 4 < devTime s) ∧
    (∃ (s : State) (d : Fin 4) (g : Grant), (getYd s d).sent = some g ∧ s.glb.dieFatal.testBit d = false ∧
      devTime s ≤ (tget Mirror.init d s.clk.mirror).time + 4) ∧
    (∃ (s : State) (d : Fin 4) (g : Grant), (getYd s d).sent = some g ∧ s.glb.dieFatal.testBit d = false ∧
      devTime s ≤ (tget Mirror.init d s.clk.mirror).time + 4) ∧
    (∃ (s : State) (d : Fin 4), d.val ∈ goodDies s ∧ yokState s ≠ 0 ∧ (getYd s d).silent < 2) ∧
    (∃ (s : State) (d : Fin 4), d.val ∈ goodDies s ∧ yokState s ≠ 0 ∧ 2 ≤ (getYd s d).silent) ∧
    (∃ (s : State) (d : Fin 4), d.val ∈ goodDies s ∧ yokState s ≠ 0 ∧ 2 ≤ (getYd s d).silent) :=
  ⟨⟨ykUp 0 (fun y => { y with level := 600000, pstd := 100000, ceils := [(2, 5)] }), [0, 0, 0, 0, 0, 0], [], by decide +kernel⟩,
    ⟨ykUp 5 (fun y => { y with level := 600000, pstd := 100000, sets := [(1, 2)], ceils := [(0, 1400), (1, 5), (0, 3), (2, 9)] }), [1, 2, 3, 4, 5,
    6], List.replicate 64 255, by decide +kernel⟩,
    ⟨setWaits, [0, 0, 0, 0, 0, 0], [], 0, 0, 0x3E, { pos := 0, bytes := yokeSetBytes, st := .executing, tails := [] }, by decide +kernel⟩,
    ⟨ykUp 4 (fun y => { y with level := 600000, pstd := 100000 }), [0, 0, 0, 0, 0, 0], [], 4, by decide +kernel⟩,
    ⟨setReg 0x280C 100 (setReg 0x2810 200 (ykUp 3 (fun y => { y with level := 100000, pstd := 100000 }))), [0, 0, 0, 0, 0, 0], [],
    by decide +kernel⟩,
    ⟨setReg 0x280C 100 (setReg 0x2810 200 (ykUp 3 (fun y => { y with level := floorEff (ykUp 3 (fun y => { y with pstd := 100000 })) - 50, pstd := 100000 }))),
    [0, 0, 0, 0, 0, 0], [], by decide +kernel⟩,
    ⟨setReg 0x280C 100 (setReg 0x2810 200 (ykUp 3 (fun y => { y with level := 1500000, pstd := 100000 }))), [0, 0, 0, 0, 0, 0], [],
    by decide +kernel⟩,
    ⟨grantUp 90 100, 1, grant0, by decide +kernel⟩,
    ⟨grantUp 96 100, 1, grant0, by decide +kernel⟩,
    ⟨grantUp 104 100, 1, grant0, by decide +kernel⟩,
    ⟨ydUp 4 (fun y => { y with silent := 1, last := grant0 }), 1, by decide +kernel⟩,
    ⟨ydUp 4 (fun y => { y with silent := 2, last := grant0 }), 1, by decide +kernel⟩,
    ⟨ydUp 4 (fun y => { y with silent := 3, last := grant0 }), 1, by decide +kernel⟩⟩

theorem witness_YokePlots :
    (∃ (s : State) (p : Fin 64) (mv : Nat), plotsOn s = false) ∧
    (∃ (s : State) (p : Fin 64), plotsOn s = true ∧ (getPlot s p).mv + 5 ≤ windowTop (getTdiv s p)) ∧
    (∃ (s : State) (p : Fin 64), plotsOn s = true ∧ windowTop (getTdiv s p) < (getPlot s p).mv + 5 ∧ getTdiv s p < 3) ∧
    (∃ (s : State) (p : Fin 64) (c : Nat), (getPlot s p).cpmSlow ≠ 0 ∧ c = min 3 (max (regF s 0x0414 0 2) (capCode s (getPlot s p).cap)) ∧
      plotsOn s = true ∧ c < getTdiv s p ∧ (getPlot s p).want ≠ c) ∧
    (∃ (s : State) (p : Fin 64) (c : Nat), (getPlot s p).cpmSlow ≠ 0 ∧ c = min 3 (max (regF s 0x0414 0 2) (capCode s (getPlot s p).cap)) ∧
      plotsOn s = true ∧ getTdiv s p < c) ∧
    (∃ (s : State) (p : Fin 64) (c : Nat), (getPlot s p).cpmSlow ≠ 0 ∧ c = min 3 (max (regF s 0x0414 0 2) (capCode s (getPlot s p).cap)) ∧
      plotsOn s = false) ∧
    (∃ (s : State) (p : Fin 64) (mv : Nat), plotsOn s = true ∧ (getPlot s p).ldoOk = false ∧ (getPlot s p).want < getTdiv s p) ∧
    (∃ (s : State) (est : List Nat) (codes : List Nat) (d : Nat) (scale : Nat) (im : Nat) (e : Nat), yokeUp s = true ∧ d ∈ goodDies s ∧
      scale = regF s (0x2830 + 4 * d) 0 16 ∧ scale ≠ 0 ∧ im = scale * (codes[d]?).getD 0 ∧ e = (est[d]?).getD 0 ∧
      regF s 0x2828 0 8 * im < 100 * (max e im - min e im)) ∧
    (∃ (s : State) (est : List Nat) (codes : List Nat) (d : Nat) (scale : Nat) (im : Nat) (e : Nat), yokeUp s = true ∧ d ∈ goodDies s ∧
      scale = regF s (0x2830 + 4 * d) 0 16 ∧ scale ≠ 0 ∧ im = scale * (codes[d]?).getD 0 ∧ e = (est[d]?).getD 0 ∧
      100 * (max e im - min e im) ≤ regF s 0x2828 0 8 * im) :=
  ⟨⟨up, 9, 700, by decide +kernel⟩,
    ⟨running, 9, by decide +kernel⟩,
    ⟨plUp (fun v => { v with mv := 846 }) (tdUp 1 running), 9, by decide +kernel⟩,
    ⟨plUp (fun v => { v with cpmSlow := 2, want := 2 }) (tdUp 2 running), 9, 0, by decide +kernel⟩,
    ⟨plUp (fun v => { v with cpmSlow := 1, cap := 2 }) (tdUp 2 running), 9, 3, by decide +kernel⟩,
    ⟨plUp (fun v => { v with cpmSlow := 1 }) up, 9, 0, by decide +kernel⟩,
    ⟨plUp (fun v => { v with ldoOk := false, want := 1 }) (tdUp 2 running), 9, 9999, by decide +kernel⟩,
    ⟨setReg 0x2834 100 (setReg 0x2828 10 (ydUp 4 (fun y => { y with divMs := 9, okMs := 4 }))), [0, 1101], [0, 10], 1, 100, 1000, 1101,
    by decide +kernel⟩,
    ⟨setReg 0x2834 100 (setReg 0x2828 11 (ydUp 4 (fun y => { y with divMs := 3, okMs := 4 }))), [0, 1101], [0, 10], 1, 100, 1000, 1101,
    by decide +kernel⟩⟩

/-- A YOKE_SET descriptor at the head of SQ 0: OP, FLAGS, VALID and bytes from 20 on. -/
def ysUp (op fl val : Nat) (rest : List Nat) (st : Nat) (f : Yoke → Yoke) : State :=
  withDesc ([0x31#8] ++ List.replicate 15 0#8 ++ ([op, fl, val, 0] ++ rest).map (BitVec.ofNat 8)) (ykUp st f)

/-- The bytes of that descriptor, and a state once RUN reads 1. -/
def ysBytes (op fl val : Nat) (rest : List Nat) : List Byte := [0x31#8] ++ List.replicate 15 0#8 ++ ([op, fl, val, 0] ++ rest).map (BitVec.ofNat 8)
def runNow (s : State) : State := { s with glb := { s.glb with run := true } }

theorem witness_YokeStates :
    (∃ (s : State), (yokState s = 2 ∨ (yokState s = 6 ∧ s.yoke.holding = true)) ∧ s.yoke.holdSched = false ∧
      s.yoke.holdT0 + 1000000 * getReg s 0x28A4 ≤ s.clk.now ∧ s.glb.phase = .holdoff) ∧
    (∃ (s : State), (yokState s = 2 ∨ (yokState s = 6 ∧ s.yoke.holding = true)) ∧ s.yoke.holdSched = false ∧
      s.yoke.holdT0 + 1000000 * getReg s 0x28A4 ≤ s.clk.now) ∧
    (∃ (s : State), (yokState s = 2 ∨ (yokState s = 6 ∧ s.yoke.holding = true)) ∧ s.yoke.holdSched = false ∧
      s.clk.now < s.yoke.holdT0 + 1000000 * getReg s 0x28A4) ∧
    (∃ (s : State) (x : Nat), x ≤ devTime s ∧ s.yoke.startAt = some x ∧ s.yoke.drainAt = none ∧ (yokState s = 2 ∨ yokState s = 6)) ∧
    (∃ (s : State) (x : Nat), x ≤ devTime s ∧ s.yoke.drainAt = some x ∧ s.yoke.startAt = none ∧ (yokState s = 3 ∨ yokState s = 4)) ∧
    (∃ (s : State) (x : Nat) (v : _), x ≤ devTime s ∧ s.yoke.ceilAt = some (x, v) ∧ s.yoke.startAt = none ∧ s.yoke.drainAt = none) ∧
    (∃ (s : State), (yokState s = 2 ∨ (yokState s = 6 ∧ s.yoke.holding = true)) ∧ s.yoke.holdSched = true ∧ s.yoke.startAt = none ∧
      regF s 0x2824 0 8 ≠ 0 ∧ s.yoke.holdT0 + 1000000000 * regF s 0x2824 0 8 ≤ s.clk.now) ∧
    (∃ (s : State) (q : Fin 16) (pos : Nat) (b : List Byte), runnable s q pos 0x31 (yokeOp 0) = some b ∧ byteAt b 16 = 0 ∧ (q.val,
      pos) ∉ s.yoke.sets) ∧
    (∃ (s : State) (q : Fin 16) (pos : Nat) (b : List Byte), runnable s q pos 0x31 (yokeOp 0) = some b ∧ byteAt b 16 = 0 ∧ (q.val,
      pos) ∉ s.yoke.sets) ∧
    (∃ (s : State) (q : Fin 16) (pos : Nat) (b : List Byte), runnable s q pos 0x31 (yokeOp 0) = some b ∧ 2 < byteAt b 16) ∧
    (∃ (s : State) (q : Fin 16) (pos : Nat) (b : List Byte), runnable s q pos 0x31 (yokeOp 1) = some b ∧ byteAt b 16 = 1 ∧ yokState s = 3) ∧
    (∃ (s : State) (q : Fin 16) (pos : Nat) (b : List Byte), runnable s q pos 0x31 (yokeOp 1) = some b ∧ byteAt b 16 = 1 ∧ yokState s = 1) ∧
    (∃ (s : State) (q : Fin 16) (pos : Nat) (b : List Byte), runnable s q pos 0x31 (yokeOp 1) = some b ∧ byteAt b 16 = 1 ∧ yokState s = 2) ∧
    (∃ (s : State) (q : Fin 16) (pos : Nat) (b : List Byte), runnable s q pos 0x31 (yokeOp 1) = some b ∧ byteAt b 16 = 1 ∧ yokState s = 0) ∧
    (∃ (s : State) (q : Fin 16) (pos : Nat) (b : List Byte), runnable s q pos 0x31 (yokeOp 1) = some b ∧ byteAt b 16 = 1 ∧ yokState s = 7) ∧
    (∃ (s : State) (q : Fin 16) (pos : Nat) (b : List Byte), runnable s q pos 0x31 (yokeOp 1) = some b ∧ byteAt b 16 = 1 ∧ yokState s = 5) ∧
    (∃ (s : State) (q : Fin 16) (pos : Nat) (b : List Byte), runnable s q pos 0x31 (yokeOp 1) = some b ∧ byteAt b 16 = 1 ∧ yokState s = 6) ∧
    (∃ (s : State) (q : Fin 16) (pos : Nat) (b : List Byte), runnable s q pos 0x31 (yokeOp 2) = some b ∧ byteAt b 16 = 2 ∧ yokState s = 5) ∧
    (∃ (s : State) (q : Fin 16) (pos : Nat) (b : List Byte), runnable s q pos 0x31 (yokeOp 2) = some b ∧ byteAt b 16 = 2 ∧ yokState s = 6 ∧
      s.yoke.holding = false ∧ s.yoke.startAt = none ∧ s.glb.run = true ∧ (byteAt b 17).testBit 0 = true) ∧
    (∃ (s : State) (q : Fin 16) (pos : Nat) (b : List Byte), runnable s q pos 0x31 (yokeOp 2) = some b ∧ byteAt b 16 = 2 ∧ yokState s = 6 ∧
      s.yoke.holding = false ∧ s.yoke.startAt = none ∧ s.glb.run = true ∧ (byteAt b 17).testBit 0 = false) ∧
    (∃ (s : State) (hbm : List (BitVec 8)), regF s 0x0828 0 16 ≠ 0 ∧ connected s = true ∧ (getRing s 35).en = true ∧
      s.hif.teleT0 + 1000 * max 10 (regF s 0x0828 0 16) ≤ s.clk.now ∧ (getRing s 35).full = true) ∧
    (∃ (s : State) (hbm : List (BitVec 8)), regF s 0x0828 0 16 ≠ 0 ∧ connected s = true ∧ (getRing s 35).en = true ∧
      s.hif.teleT0 + 1000 * max 10 (regF s 0x0828 0 16) ≤ s.clk.now ∧ (getRing s 35).full = false) :=
  ⟨⟨{ setReg 0x28A4 5 (ykUp 2 (fun y => { y with startAt := some 3 })) with glb := { up.glb with phase := .holdoff }, clk := { up.clk with now := 5000000 } },
    by decide +kernel⟩,
    ⟨{ setReg 0x28A4 5 (ykUp 6 (fun y => { y with holding := true })) with glb := { up.glb with phase := .holdoff }, clk := { up.clk with now := 5000000 } },
    by decide +kernel⟩,
    ⟨{ setReg 0x28A4 5 (ykUp 2 id) with glb := { up.glb with phase := .holdoff }, clk := { up.clk with now := 4999999 } }, by decide +kernel⟩,
    ⟨ykUp 6 (fun y => { y with startAt := some 0, ceilAt := some (0, 9) }), 0, by decide +kernel⟩,
    ⟨ykUp 4 (fun y => { y with drainAt := some 0 }), 0, by decide +kernel⟩,
    ⟨ykUp 4 (fun y => { y with ceilAt := some (0, 9), ceils := [(1, 2)] }), 0, 9, by decide +kernel⟩,
    ⟨{ setReg 0x2824 1 (ykUp 2 (fun y => { y with holdSched := true })) with clk := { up.clk with now := 1000000000 } }, by decide +kernel⟩,
    ⟨ysUp 0 0 1 [0xFF, 0xFF] 4 id, 0, 0, padTo 64 (ysBytes 0 0 1 [0xFF, 0xFF]), by decide +kernel⟩,
    ⟨ysUp 0 0 2 [0xFF, 0xFF] 4 id, 0, 0, padTo 64 (ysBytes 0 0 2 [0xFF, 0xFF]), by decide +kernel⟩,
    ⟨ysUp 3 0 2 [] 4 id, 0, 0, padTo 64 (ysBytes 3 0 2 []), by decide +kernel⟩,
    ⟨ysUp 1 0 0 [] 3 id, 0, 0, padTo 64 (ysBytes 1 0 0 []), by decide +kernel⟩,
    ⟨ysUp 1 0 0 [] 1 id, 0, 0, padTo 64 (ysBytes 1 0 0 []), by decide +kernel⟩,
    ⟨ysUp 1 0 0 [] 2 id, 0, 0, padTo 64 (ysBytes 1 0 0 []), by decide +kernel⟩,
    ⟨ysUp 1 0 0 [] 0 id, 0, 0, padTo 64 (ysBytes 1 0 0 []), by decide +kernel⟩,
    ⟨ysUp 1 0 0 [] 7 id, 0, 0, padTo 64 (ysBytes 1 0 0 []), by decide +kernel⟩,
    ⟨ysUp 1 0 0 [] 5 id, 0, 0, padTo 64 (ysBytes 1 0 0 []), by decide +kernel⟩,
    ⟨ysUp 1 0 0 [] 6 id, 0, 0, padTo 64 (ysBytes 1 0 0 []), by decide +kernel⟩,
    ⟨ysUp 2 0 0 [] 5 id, 0, 0, padTo 64 (ysBytes 2 0 0 []), by decide +kernel⟩,
    ⟨runNow (ysUp 2 1 0 [] 6 id), 0, 0, padTo 64 (ysBytes 2 1 0 []), by decide +kernel⟩,
    ⟨runNow (ysUp 2 0 0 [] 6 id), 0, 0, padTo 64 (ysBytes 2 0 0 []), by decide +kernel⟩,
    ⟨{ setReg 0x0828 1 (setRing 35 { Ring.init with en := true, cons := 1, prod := 9, base := 4096, log2 := 3 } (ykUp 4 (fun y => { y with level := 600000 }))) with clk := { up.clk with now := 10000 } },
    [40, 41, 42, 43], by decide +kernel⟩,
    ⟨{ setReg 0x0828 1 (setRing 35 { Ring.init with en := true, cons := 2, prod := 9, base := 4096, log2 := 3 } (ykUp 4 (fun y => { y with level := 600000 }))) with clk := { up.clk with now := 10000 } },
    [40, 41, 42, 43], by decide +kernel⟩⟩

/-- Watch entry 2 with its words, its slot 0 with an active bank A, and a waiting summary of a bank for it. -/
def sum0 (bank : Nat) : Summary := { entry := 2, bank := bank, die := 1, sum := { lanes := 64, clipped := 1, largest := 127 } }
def wtUp (bank : Nat) (bytes : List Nat) : State := setBank 0 0 { Bank.init with st := .active } { up with
  tables := [(0x300002, bytes.map (BitVec.ofNat 8))], fab := { Fab.init with summaries := [sum0 bank, sum0 1] } }
def wtLow : List Nat := [0, 0, 0, 1, 0, 0, 0, 10, 0, 0, 0, 3, 0, 0, 0, 7, 0, 0, 0, 1, 0, 0, 0, 2, 0, 0, 0, 3, 0, 0, 0]
def wtFull : List Nat := [0, 0, 0, 200, 0, 0, 0, 192, 3, 0, 0, 3, 0, 0, 0, 7, 0, 0, 0, 1, 0, 0, 0, 2, 0, 0, 0, 255, 255, 255, 255]
def wtEnt (bytes : List Nat) : List Byte := padTo 32 (bytes.map (BitVec.ofNat 8))
def cfgA : HrwCfg := { en := 1, period := 77, passMax := 300, retireN := 6 }
def hrUp (h : Nat) (v : Hrw) : State := setHrw h v up
def hrA : Hrw := { Hrw.init with c0 := cfgA, c1 := cfgA, c2 := cfgA, written := cfgA }
def hrTime (now : Nat) : State := { hrUp 2 { hrA with running := true, t0 := 5 } with clk := { up.clk with now := now } }
def grpRun : Group := { group0 with run := some run0 }
def placeUp (pin : Bool) : State := setBank 0 0 { Bank.init with pin := pin } (putMem (bundleDpa 0 0 0) [1#8, 0#8, 3#8] { up with
  groups := [{ group0 with plots := [] }, { group0 with gid := 6, plots := [0] }], clk := { up.clk with now := 9 } })

theorem witness_WatchHarrowAndPlots :
    (∃ (s : State), s.fab.summaries = []) ∧
    (∃ (s : State) (x : Summary) (rest : List Summary) (i : Nat) (n : Nat) (c : Nat) (m : Nat) (e : List Byte), sowerUp s = true ∧
      s.fab.summaries = x :: rest ∧ i = x.entry ∧ n = x.sum.lanes ∧ c = x.sum.clipped ∧ m = x.sum.largest ∧ e = padTo 32 (tblEntry s 0x30 i) ∧
      activeBank s (i / 16) ≠ some x.bank) ∧
    (∃ (s : State) (x : Summary) (rest : List Summary) (i : Nat) (n : Nat) (c : Nat) (m : Nat) (e : List Byte), sowerUp s = true ∧
      s.fab.summaries = x :: rest ∧ i = x.entry ∧ n = x.sum.lanes ∧ c = x.sum.clipped ∧ m = x.sum.largest ∧ e = padTo 32 (tblEntry s 0x30 i) ∧
      activeBank s (i / 16) = some x.bank ∧ (leAt e 0 4).testBit 0 = false) ∧
    (∃ (s : State) (x : Summary) (rest : List Summary) (i : Nat) (n : Nat) (c : Nat) (m : Nat) (e : List Byte), sowerUp s = true ∧
      s.fab.summaries = x :: rest ∧ i = x.entry ∧ n = x.sum.lanes ∧ c = x.sum.clipped ∧ m = x.sum.largest ∧ e = padTo 32 (tblEntry s 0x30 i) ∧
      activeBank s (i / 16) = some x.bank ∧ (leAt e 0 4).testBit 0 = true ∧ bitsOf (leAt e 0 4) 2 4 ≤ 3 ∧ tblIsBad s 0x30 i = false) ∧
    (∃ (s : State) (x : Summary) (rest : List Summary) (i : Nat) (n : Nat) (c : Nat) (m : Nat) (e : List Byte), sowerUp s = true ∧
      s.fab.summaries = x :: rest ∧ i = x.entry ∧ n = x.sum.lanes ∧ c = x.sum.clipped ∧ m = x.sum.largest ∧ e = padTo 32 (tblEntry s 0x30 i) ∧
      activeBank s (i / 16) = some x.bank ∧ (leAt e 0 4).testBit 0 = true ∧ bitsOf (leAt e 0 4) 2 4 ≤ 3 ∧ tblIsBad s 0x30 i = false) ∧
    (∃ (s : State) (x : Summary) (rest : List Summary) (i : Nat) (n : Nat) (c : Nat) (m : Nat) (e : List Byte), sowerUp s = true ∧
      s.fab.summaries = x :: rest ∧ i = x.entry ∧ n = x.sum.lanes ∧ c = x.sum.clipped ∧ m = x.sum.largest ∧ e = padTo 32 (tblEntry s 0x30 i) ∧
      activeBank s (i / 16) = some x.bank ∧ (leAt e 0 4).testBit 0 = true ∧ bitsOf (leAt e 0 4) 2 4 ≤ 3 ∧ tblIsBad s 0x30 i = false) ∧
    (∃ (s : State) (x : Summary) (rest : List Summary) (i : Nat) (n : Nat) (c : Nat) (m : Nat) (e : List Byte), sowerUp s = true ∧
      s.fab.summaries = x :: rest ∧ i = x.entry ∧ n = x.sum.lanes ∧ c = x.sum.clipped ∧ m = x.sum.largest ∧ e = padTo 32 (tblEntry s 0x30 i) ∧
      activeBank s (i / 16) = some x.bank ∧ (leAt e 0 4).testBit 0 = true ∧ bitsOf (leAt e 0 4) 2 4 ≤ 3 ∧ tblIsBad s 0x30 i = false) ∧
    (∃ (s : State) (h : Fin 5) (K : HrwCfg) (copy : Fin 3) (field : Fin 4) (mask : Nat), hrwUp s h = true ∧ (getHrw s h).running = false ∧
      (getHrw s h).c0 = K ∧ (getHrw s h).c1 = K ∧ (getHrw s h).c2 = K ∧ (getHrw s h).written = K ∧ flipCfg 0 0xFFF cfgA ≠ cfgA) ∧
    (∃ (s : State) (h : Fin 5) (K : HrwCfg) (copy : Fin 3) (field : Fin 4) (mask : Nat), hrwUp s h = true ∧ (getHrw s h).running = false ∧
      (getHrw s h).c0 = K ∧ (getHrw s h).c1 = K ∧ (getHrw s h).c2 = K ∧ (getHrw s h).written = K) ∧
    (∃ (s : State) (h : Fin 5) (upsets : List (Fin 3 × Fin 4 × Nat)), hrwUp s h = true ∧ (getHrw s h).running = false ∧ upsets = [] ∧
      (getHrw s h).cfg ≠ (getHrw s h).written) ∧
    (∃ (s : State) (h : Fin 5) (corrected : Nat) (found : List HrwWord), (getHrw s h).running = true ∧ hrwUp s h = true) ∧
    (∃ (s : State) (h : Fin 5) (words : Nat), (getHrw s h).running = true ∧ hrwUp s h = true ∧
      (getHrw s h).t0 + 1000000 * (getHrw s h).cfg.passMax ≤ s.clk.now) ∧
    (∃ (s : State) (h : Fin 5) (words : Nat), (getHrw s h).running = true ∧ hrwUp s h = true ∧
      s.clk.now < (getHrw s h).t0 + 1000000 * (getHrw s h).cfg.passMax) ∧
    (∃ (s : State) (p : Fin 64), agentsUp s p = true ∧ (getPlot s p).st ≠ .retired ∧ s.glb.dieFatal.testBit (p.val / 16) = false ∧
      (retiredPlots s).length < 4 ∧ (getPlot s p).group = none ∧ plotsOn s = true) ∧
    (∃ (s : State) (p : Fin 64), agentsUp s p = true ∧ (getPlot s p).st ≠ .retired ∧ s.glb.dieFatal.testBit (p.val / 16) = false ∧
      (retiredPlots s).length < 4 ∧ (getPlot s p).group = none) ∧
    (∃ (s : State) (p : Fin 64) (g : Group), agentsUp s p = true ∧ (getPlot s p).st ≠ .retired ∧ s.glb.dieFatal.testBit (p.val / 16) = false ∧
      (retiredPlots s).length < 4 ∧ groupOfPlot s p = some g) ∧
    (∃ (s : State) (p : Fin 64), agentsUp s p = true ∧ (getPlot s p).st ≠ .retired ∧ s.glb.dieFatal.testBit (p.val / 16) = false ∧
      4 ≤ (retiredPlots s).length) ∧
    (∃ (s : State) (p : Fin 64), True) ∧
    (∃ (s : State) (g : Group) (ps : List Nat), sowerUp s = true ∧ s.groups.filter (fun g => g.plots.isEmpty) = [g] ∧ findGroup s g.gid = some g ∧
      chooseTarget s (some g.gid) (groupShape s g.slot g.bank g.idx) [] = some ps) ∧
    (∃ (s : State) (g : Group) (ps : List Nat), sowerUp s = true ∧ s.groups.filter (fun g => g.plots.isEmpty) = [g] ∧ findGroup s g.gid = some g ∧
      chooseTarget s (some g.gid) (groupShape s g.slot g.bank g.idx) [] = some ps) :=
  ⟨⟨up, by decide +kernel⟩,
    ⟨wtUp 1 (9 :: wtLow), sum0 1, [sum0 1], 2, 64, 1, 127, wtEnt (9 :: wtLow), by decide +kernel⟩,
    ⟨wtUp 0 (8 :: wtLow), sum0 0, [sum0 1], 2, 64, 1, 127, wtEnt (8 :: wtLow), by decide +kernel⟩,
    ⟨wtUp 0 (9 :: wtLow), sum0 0, [sum0 1], 2, 64, 1, 127, wtEnt (9 :: wtLow), by decide +kernel⟩,
    ⟨wtUp 0 (9 :: wtFull), sum0 0, [sum0 1], 2, 64, 1, 127, wtEnt (9 :: wtFull), by decide +kernel⟩,
    ⟨wtUp 0 (11 :: wtLow), sum0 0, [sum0 1], 2, 64, 1, 127, wtEnt (11 :: wtLow), by decide +kernel⟩,
    ⟨wtUp 0 (11 :: wtFull), sum0 0, [sum0 1], 2, 64, 1, 127, wtEnt (11 :: wtFull), by decide +kernel⟩,
    ⟨hrUp 4 hrA, 4, cfgA, 1, 0, 0xFFF, by decide +kernel⟩,
    ⟨hrUp 2 hrA, 2, cfgA, 1, 0, 0, by decide +kernel⟩,
    ⟨hrUp 4 { hrA with c1 := HrwCfg.init, c2 := HrwCfg.init }, 4, [], by decide +kernel⟩,
    ⟨hrUp 4 { hrA with running := true }, 4, 3, [], by decide +kernel⟩,
    ⟨hrTime 300000005, 2, 4, by decide +kernel⟩,
    ⟨hrTime 300000004, 2, 4, by decide +kernel⟩,
    ⟨setReg 0x2880 4 up, 2, by decide +kernel⟩,
    ⟨up, 2, by decide +kernel⟩,
    ⟨setReg 0x2880 4 (fabUp grpRun sheaf0), 2, grpRun, by decide +kernel⟩,
    ⟨each [1, 3, 20, 63] (fun p s => setPlot p { Plot.init with st := .retired } s) up, 2, by decide +kernel⟩,
    ⟨up, 2, by decide +kernel⟩,
    ⟨placeUp false, { group0 with plots := [] }, [0, 1], by decide +kernel⟩,
    ⟨placeUp true, { group0 with plots := [] }, [0, 1], by decide +kernel⟩⟩

/-- A bundle of one group and one pass, 512 bytes, in bank A of slot 3: its header, its header CRC, its group record on die 0 with a mask. -/
def bundleUp (crc mask : Nat) (s : State) : State :=
  putMem (bundleDpa 3 0 256) [1#8, 0#8, BitVec.ofNat 8 mask] (putMem (bundleDpa 3 0 248) (leBytes 4 crc)
    (putMem (bundleDpa 3 0 48) ([32, 1, 0, 0, 0, 0, 0, 0, 0, 1].map (BitVec.ofNat 8)) (putMem (bundleDpa 3 0 0) ([66, 90, 68, 81, 1, 0, 0, 1, 1, 0, 0, 0, 0, 0, 0, 0, 0, 2, 0, 0].map (BitVec.ofNat 8)) s)))
/-- The bank of that bundle while it loads, and when it is ready. -/
def loadBank : Bank := { Bank.init with st := .loading, total := 512, check := 0x39C32A6E }
def readyBk : Bank := { loadBank with st := .ready, ngroup := 1, npass := 1, passOff := 288, groupOff := 256 }
/-- The 64 bytes of an INSTALL_* descriptor, and a state with it at the head of SQ 0. -/
def insBytes (op slot bank flags : Nat) (rest : List Nat) : List Byte :=
  padTo 64 ([BitVec.ofNat 8 op] ++ List.replicate 15 0#8 ++ ([slot, bank, flags, 0] ++ rest).map (BitVec.ofNat 8))
def insDesc (op slot bank flags : Nat) (rest : List Nat) (s : State) : State := withDesc (insBytes op slot bank flags rest) s
/-- A commit of slot 3 whose bank A is ready, beside bank B; a commit whose bundle is being checked. -/
def comUp (b : Bank) (s : State) : State :=
  insDesc 3 3 0 0 [9, 0, 0, 0] (bundleUp 0 1 (setBank 3 0 readyBk (setBank 3 1 b { s with tables := [(0x300032, List.replicate 32 7#8)] })))
def allRetired : State := each (List.range 64) (fun p s => setPlot p { Plot.init with st := .retired } s) up
def chkUp (crc check : Nat) (s : State) : State :=
  insDesc 3 3 0 0 [0] (bundleUp crc 1 (setSlot 3 { Slot.init with a := { loadBank with check := check }, verifying := some (0, 0) } s))
def chkDesc (s : State) : Desc := (findDesc s 0 0).getD { pos := 0, bytes := [], st := .waiting, tails := [] }
def len512 : List Nat := [0, 2, 0, 0, 0, 0, 0, 0]
def chunkAt : List Nat := [64, 0, 0, 32, 0, 0, 0, 0, 64, 0, 0, 0, 0, 0, 0, 0]
def actBank : Bank := { readyBk with st := .active }
def bndUp (s : State) : State := { s with msgs := [{ msg0 with slot := 3, bank := 1 }] }
def placedOf (s : State) : List Nat × State :=
  match placeAll 3 0 1 0 (startDesc 0 0 s) with | .ok x => x | .error _ => ([], s)
theorem placed_eq (s : State) (h : (match placeAll 3 0 1 0 (startDesc 0 0 s) with | .ok _ => true | .error _ => false) = true) :
    placeAll 3 0 1 0 (startDesc 0 0 s) = .ok (placedOf s) := by
  unfold placedOf; revert h; cases placeAll 3 0 1 0 (startDesc 0 0 s) <;> simp
theorem placed_no (r : Except (Nat × Nat) (List Nat × State)) (h : (match r with | .ok _ => none | .error e => some e) = some (0, 1)) :
    r = .error (0, 1) := by
  revert h; cases r <;> simp

theorem witness_Installs :
    (∃ (s : State) (q : Fin 16) (pos : Nat) (b : List Byte) (slot : Nat) (bank : Nat), runnable s q pos 0x01 (fun _ => true) = some b ∧
      slot = byteAt b 16 ∧ bank = byteAt b 17 ∧ slot < 16 ∧ bank < 2 ∧ leAt b 20 8 ≠ 0 ∧ leAt b 20 8 ≤ 2 ^ 31 ∧
      ((getBank s slot bank).st = .empty ∨ ((getBank s slot bank).st = .ready ∧ boundCount s slot bank = 0)) ∧
      (getBank s slot (1 - bank)).st ≠ .loading) ∧
    (∃ (s : State) (q : Fin 16) (pos : Nat) (b : List Byte) (slot : Nat) (bank : Nat), runnable s q pos 0x01 (fun _ => true) = some b ∧
      slot = byteAt b 16 ∧ bank = byteAt b 17 ∧ slot < 16 ∧ bank < 2 ∧ leAt b 20 8 ≠ 0 ∧ leAt b 20 8 ≤ 2 ^ 31 ∧
      ((getBank s slot bank).st = .empty ∨ ((getBank s slot bank).st = .ready ∧ boundCount s slot bank = 0)) ∧
      (getBank s slot (1 - bank)).st ≠ .loading) ∧
    (∃ (s : State) (q : Fin 16) (pos : Nat) (b : List Byte) (slot : Nat) (bank : Nat), runnable s q pos 0x01 (fun _ => true) = some b ∧
      slot = byteAt b 16 ∧ bank = byteAt b 17 ∧ slot < 16 ∧ bank < 2 ∧ leAt b 20 8 ≠ 0 ∧ leAt b 20 8 ≤ 2 ^ 31 ∧
      ((getBank s slot bank).st = .active ∨ ((getBank s slot bank).st = .ready ∧ 0 < boundCount s slot bank))) ∧
    (∃ (s : State) (q : Fin 16) (pos : Nat) (b : List Byte) (d : List Byte) (slot : Nat) (bank : Nat) (off : Nat) (len : Nat), hbmUp s = true ∧
      runnable s q pos 0x02 (fun b => !descHeld s 0x02 b) = some b ∧ slot = byteAt b 16 ∧ slot < 16 ∧ off = leAt b 20 8 ∧ len = leAt b 28 4 ∧
      bankIn s slot .loading = some bank ∧ (getSlot s slot).verifying = none ∧ 64 ≤ len ∧ len ≤ 2 ^ 24 ∧ off % 64 = 0 ∧ len % 64 = 0 ∧
      off < 2 ^ 31 ∧ off / 2 ^ 29 = (off + len - 1) / 2 ^ 29 ∧ s.glb.dieFatal.testBit (off / 2 ^ 29) = false ∧ haddrOk b = true) ∧
    (∃ (s : State) (q : Fin 16) (pos : Nat) (b : List Byte) (slot : Nat) (bank : Nat), hbmUp s = true ∧
      runnable s q pos 0x03 (fun b => !descHeld s 0x03 b) = some b ∧ slot = byteAt b 16 ∧ slot < 16 ∧ bankIn s slot .loading = some bank ∧
      (getSlot s slot).verifying = none) ∧
    (∃ (s : State) (q : Fin 16) (pos : Nat) (b : List Byte) (slot : Nat) (bank : Nat), hbmUp s = true ∧
      runnable s q pos 0x03 (fun b => !descHeld s 0x03 b) = some b ∧ slot = byteAt b 16 ∧ slot < 16 ∧ bankIn s slot .loading = none ∧
      readyBank s slot = none) ∧
    (∃ (s : State) (q : Fin 16) (pos : Nat) (b : List Byte) (slot : Nat) (bank : Nat) (gs : _) (u : _), hbmUp s = true ∧
      runnable s q pos 0x03 (fun b => !descHeld s 0x03 b) = some b ∧ slot = byteAt b 16 ∧ slot < 16 ∧ bankIn s slot .loading = none ∧
      readyBank s slot = some bank ∧ placeAll slot bank (getBank s slot bank).ngroup 0 (startDesc q pos s) = .ok (gs, u)) ∧
    (∃ (s : State) (q : Fin 16) (pos : Nat) (b : List Byte) (slot : Nat) (bank : Nat) (gs : _) (u : _), hbmUp s = true ∧
      runnable s q pos 0x03 (fun b => !descHeld s 0x03 b) = some b ∧ slot = byteAt b 16 ∧ slot < 16 ∧ bankIn s slot .loading = none ∧
      readyBank s slot = some bank ∧ placeAll slot bank (getBank s slot bank).ngroup 0 (startDesc q pos s) = .ok (gs, u)) ∧
    (∃ (s : State) (q : Fin 16) (pos : Nat) (b : List Byte) (slot : Nat) (bank : Nat) (gs : _) (u : _), hbmUp s = true ∧
      runnable s q pos 0x03 (fun b => !descHeld s 0x03 b) = some b ∧ slot = byteAt b 16 ∧ slot < 16 ∧ bankIn s slot .loading = none ∧
      readyBank s slot = some bank ∧ placeAll slot bank (getBank s slot bank).ngroup 0 (startDesc q pos s) = .ok (gs, u)) ∧
    (∃ (s : State) (q : Fin 16) (pos : Nat) (b : List Byte) (slot : Nat) (bank : Nat) (i : _) (n : _), hbmUp s = true ∧
      runnable s q pos 0x03 (fun b => !descHeld s 0x03 b) = some b ∧ slot = byteAt b 16 ∧ slot < 16 ∧ bankIn s slot .loading = none ∧
      readyBank s slot = some bank ∧ placeAll slot bank (getBank s slot bank).ngroup 0 (startDesc q pos s) = .error (i, n)) ∧
    (∃ (s : State) (slot : Fin 16) (q : Nat) (pos : Nat) (bank : Nat) (d : Desc) (errs : List (Nat × List Byte)) (r : State × List Byte),
      hbmUp s = true ∧ (getSlot s slot).verifying = some (q, pos) ∧ bankIn s slot .loading = some bank ∧ findDesc s q pos = some d ∧
      r = readParts slot bank errs s ∧ crc32c r.2 ≠ (getBank s slot bank).check) ∧
    (∃ (s : State) (slot : Fin 16) (q : Nat) (pos : Nat) (bank : Nat) (d : Desc) (errs : List (Nat × List Byte)) (r : State × List Byte),
      hbmUp s = true ∧ (getSlot s slot).verifying = some (q, pos) ∧ bankIn s slot .loading = some bank ∧ findDesc s q pos = some d ∧
      r = readParts slot bank errs s ∧ crc32c r.2 = (getBank s slot bank).check ∧
      headerOk r.1 slot bank (getBank s slot bank).total (getBank s slot bank).pin = false) ∧
    (∃ (s : State) (slot : Fin 16) (q : Nat) (pos : Nat) (bank : Nat) (d : Desc) (errs : List (Nat × List Byte)) (r : State × List Byte),
      hbmUp s = true ∧ (getSlot s slot).verifying = some (q, pos) ∧ bankIn s slot .loading = some bank ∧ findDesc s q pos = some d ∧
      r = readParts slot bank errs s ∧ crc32c r.2 = (getBank s slot bank).check ∧
      headerOk r.1 slot bank (getBank s slot bank).total (getBank s slot bank).pin = true ∧ namesFatal r.1 slot bank = true) ∧
    (∃ (s : State) (slot : Fin 16) (q : Nat) (pos : Nat) (bank : Nat) (d : Desc) (errs : List (Nat × List Byte)) (r : State × List Byte),
      hbmUp s = true ∧ (getSlot s slot).verifying = some (q, pos) ∧ bankIn s slot .loading = some bank ∧ findDesc s q pos = some d ∧
      r = readParts slot bank errs s ∧ crc32c r.2 = (getBank s slot bank).check ∧
      headerOk r.1 slot bank (getBank s slot bank).total (getBank s slot bank).pin = true ∧ namesFatal r.1 slot bank = false) ∧
    (∃ (s : State) (q : Fin 16) (pos : Nat) (b : List Byte) (slot : Nat) (bank : Nat), runnable s q pos 0x04 (fun _ => true) = some b ∧
      slot = byteAt b 16 ∧ slot < 16 ∧ bankIn s slot .loading = some bank ∧ (getSlot s slot).verifying = none) ∧
    (∃ (s : State) (q : Fin 16) (pos : Nat) (b : List Byte) (slot : Nat) (bank : Nat), runnable s q pos 0x04 (fun _ => true) = some b ∧
      slot = byteAt b 16 ∧ slot < 16 ∧ bankIn s slot .loading = none ∧ readyBank s slot = some bank) ∧
    (∃ (s : State) (q : Fin 16) (pos : Nat) (b : List Byte) (slot : Nat) (bank : Nat), runnable s q pos 0x04 (fun _ => true) = some b ∧
      slot = byteAt b 16 ∧ slot < 16 ∧ bankIn s slot .loading = none ∧ readyBank s slot = none ∧ activeBank s slot = some bank ∧
      streamsOn s slot = 0) ∧
    (∃ (s : State) (q : Fin 16) (pos : Nat) (b : List Byte) (slot : Nat) (bank : Nat), runnable s q pos 0x04 (fun _ => true) = some b ∧
      slot = byteAt b 16 ∧ slot < 16 ∧ bankIn s slot .loading = none ∧ readyBank s slot = none ∧ activeBank s slot = some bank ∧
      streamsOn s slot = 0) ∧
    (∃ (s : State) (q : Fin 16) (pos : Nat) (b : List Byte) (slot : Nat) (bank : Nat), runnable s q pos 0x04 (fun _ => true) = some b ∧
      slot = byteAt b 16 ∧ slot < 16 ∧ bankIn s slot .loading = none ∧ readyBank s slot = none ∧ activeBank s slot = some bank ∧
      streamsOn s slot ≠ 0) :=
  ⟨⟨insDesc 1 3 0 1 len512 (setBank 3 0 Bank.init (setBank 3 1 actBank up)), 0, 0, insBytes 1 3 0 1 len512, 3, 0, by decide +kernel⟩,
    ⟨insDesc 1 3 0 1 len512 (setBank 3 0 { readyBk with groups := [2] } (setBank 3 1 Bank.init up)), 0, 0, insBytes 1 3 0 1 len512, 3, 0,
    by decide +kernel⟩,
    ⟨insDesc 1 3 0 1 len512 (setBank 3 0 actBank up), 0, 0, insBytes 1 3 0 1 len512, 3, 0, by decide +kernel⟩,
    ⟨insDesc 2 3 0 0 chunkAt (setBank 3 0 loadBank up), 0, 0, insBytes 2 3 0 0 chunkAt, [7#8], 3, 0, 536870976, 64, by decide +kernel⟩,
    ⟨insDesc 3 3 0 0 [9, 0, 0, 0] (setBank 3 0 loadBank up), 0, 0, insBytes 3 3 0 0 [9, 0, 0, 0], 3, 0, by decide +kernel⟩,
    ⟨insDesc 3 3 0 0 [9, 0, 0, 0] up, 0, 0, insBytes 3 3 0 0 [9, 0, 0, 0], 3, 0, by decide +kernel⟩,
    ⟨comUp Bank.init up, 0, 0, insBytes 3 3 0 0 [9, 0, 0, 0], 3, 0, (placedOf (comUp Bank.init up)).1, (placedOf (comUp Bank.init up)).2,
    by decide +kernel, by decide +kernel, by decide +kernel, by decide +kernel, by decide +kernel, by decide +kernel,
    placed_eq _ (by decide +kernel)⟩,
    ⟨comUp actBank up, 0, 0, insBytes 3 3 0 0 [9, 0, 0, 0], 3, 0, (placedOf (comUp actBank up)).1, (placedOf (comUp actBank up)).2,
    by decide +kernel, by decide +kernel, by decide +kernel, by decide +kernel, by decide +kernel, by decide +kernel,
    placed_eq _ (by decide +kernel)⟩,
    ⟨comUp actBank (bndUp up), 0, 0, insBytes 3 3 0 0 [9, 0, 0, 0], 3, 0, (placedOf (comUp actBank (bndUp up))).1,
    (placedOf (comUp actBank (bndUp up))).2, by decide +kernel, by decide +kernel, by decide +kernel, by decide +kernel, by decide +kernel,
    by decide +kernel, placed_eq _ (by decide +kernel)⟩,
    ⟨comUp Bank.init allRetired, 0, 0, insBytes 3 3 0 0 [9, 0, 0, 0], 3, 0, 0, 1, by decide +kernel, by decide +kernel, by decide +kernel,
    by decide +kernel, by decide +kernel, by decide +kernel, placed_no _ (by decide +kernel)⟩,
    ⟨chkUp 4131479392 5 up, 3, 0, 0, 0, chkDesc (chkUp 4131479392 5 up), [], readParts 3 0 [] (chkUp 4131479392 5 up),
    by set_option maxRecDepth 200000 in decide +kernel⟩,
    ⟨chkUp 5 1531945191 up, 3, 0, 0, 0, chkDesc (chkUp 5 1531945191 up), [], readParts 3 0 [] (chkUp 5 1531945191 up),
    by set_option maxRecDepth 200000 in decide +kernel⟩,
    ⟨chkUp 4131479392 969091694 { up with glb := { up.glb with dieFatal := 1 } }, 3, 0, 0, 0,
    chkDesc (chkUp 4131479392 969091694 { up with glb := { up.glb with dieFatal := 1 } }), [],
    readParts 3 0 [] (chkUp 4131479392 969091694 { up with glb := { up.glb with dieFatal := 1 } }),
    by set_option maxRecDepth 200000 in decide +kernel⟩,
    ⟨chkUp 4131479392 969091694 up, 3, 0, 0, 0, chkDesc (chkUp 4131479392 969091694 up), [], readParts 3 0 [] (chkUp 4131479392 969091694 up),
    by set_option maxRecDepth 200000 in decide +kernel⟩,
    ⟨insDesc 4 3 0 0 [0] (setBank 3 1 loadBank up), 0, 0, insBytes 4 3 0 0 [0], 3, 1, by decide +kernel⟩,
    ⟨insDesc 4 3 0 0 [0] (setBank 3 1 readyBk up), 0, 0, insBytes 4 3 0 0 [0], 3, 1, by decide +kernel⟩,
    ⟨insDesc 4 3 0 0 [0] (setBank 3 1 actBank up), 0, 0, insBytes 4 3 0 0 [0], 3, 1, by decide +kernel⟩,
    ⟨insDesc 4 3 0 0 [0] (setBank 3 1 actBank (bndUp up)), 0, 0, insBytes 4 3 0 0 [0], 3, 1, by decide +kernel⟩,
    ⟨insDesc 4 3 0 0 [0] (setBank 3 1 actBank (setStream 9 { Stream.init with st := .opened, slot := 3 } up)), 0, 0, insBytes 4 3 0 0 [0], 3, 1,
    by decide +kernel⟩⟩

/-- A descriptor of an opcode with its bytes 16 and on, and a state with it at the head of SQ 0. -/
def dscB (op : Nat) (rest : List Nat) : List Byte := padTo 64 ([BitVec.ofNat 8 op] ++ List.replicate 15 0#8 ++ rest.map (BitVec.ofNat 8))
def dsc (op : Nat) (rest : List Nat) (s : State) : State := withDesc (dscB op rest) s
def descOf (s : State) : Desc := (findDesc s 0 0).getD { pos := 0, bytes := [], st := .waiting, tails := [] }
/-- A fence behind a waiting descriptor of SQ 1. -/
def fenceShut : State :=
  (fun s : State => setSq 1 { Sq.init with descs := [{ pos := 0, bytes := [], st := .waiting, tails := [] }] }
    { s with hif := { s.hif with sqs := s.hif.sqs.map (fun x => (x.1, { x.2 with descs := x.2.descs.map (fun d => { d with tails := [0, 2] }) })) } })
    (dsc 0x29 [2, 0] up)
/-- TABLE_WRITE operands: table, pipe, first index, count; the state it meets; the entries of some bytes. -/
def twB (tb n idx cnt : Nat) : List Nat := [tb, n, 0, 0, idx % 256, idx / 256, 0, 0, cnt, 0, 0, 0] ++ List.replicate 12 0
def tabUp : State := { up with tables := [(0x200005, [1#8])], tblBad := [0x100045, 0x200003, 0x300001] }
def entsOf (w cnt : Nat) (d : List Byte) : List (List Byte) := (List.range cnt).map (fun k => padTo w (slice d (w * k) w))
/-- MEM_READ and MEM_WRITE operands: DPA and length; memories they meet. -/
def memB (dpa len : Nat) : List Nat :=
  [dpa % 256, dpa / 256 % 256, dpa / 65536 % 256, dpa / 2 ^ 24 % 256, dpa / 2 ^ 32, 0, 0, 0, len % 256, len / 256 % 256, len / 65536 % 256, len / 2 ^ 24, 0, 0, 0, 0, 0, 16, 0, 0, 0, 0, 0, 0]
def memA : State := memUp (fun m => { m with hbm := [(4100, 5#8), (4164, 6#8)], dir := [(50, dir0 1 true)], poison := [(999, true)] })
def memC : State := memUp (fun m => { m with rlc := [(cacheKey 0 32, line0 .modified)], dir := [(32, dir0 1 true)] })
def loadUp : State := setBank 0 1 { Bank.init with st := .loading } up
/-- STATS_SNAPSHOT operands: kind, FLAGS, first byte, count; counters it meets. -/
def stB (fl off cnt : Nat) : List Nat := [0, fl, 0, 0, off % 256, off / 256, 0, 0, cnt, 0, 0, 0, 0, 0, 0, 0, 0, 16, 0, 0, 0, 0, 0, 0]
def cntUp : State := { up with cnt := [(62, 4#64), (63, 5#64), (78, 7#64)] }
/-- A group with a pass and a transition, and a tile of it that holds an operand. -/
def grpBusy : Group := { group0 with run := some run0, trans := some { gen := 0, cfg := 77, size := 4, turns := false } }
def repUp : State := setTile 35 { Tile.init with gen := 2, cfg := 9, run := .running, ms := [{ tok := { net := 0, tag := 0, data := 0, headland := false }, port := 0, shared := false, uses := 1, seqNo := 0 }] }
  { fabUp grpBusy sheaf0 with msgs := [] }
def prB (e : Nat) : List Nat := [e, 4, 60, 0, 3, 0, 4, 0]
def prUp : State := setEgressQ 0 [{ kind := .injectReply 3, bytes := [], pri := 0, sent := 0, lane := none, order := 0 }] (enPort id)

theorem witness_HostDescriptors :
    (∃ (s : State) (q : Fin 16) (pos : Nat) (b : List Byte), runnable s q pos 0x00 (fun _ => true) = some b) ∧
    (∃ (s : State) (q : Fin 16) (pos : Nat) (b : List Byte), runnable s q pos (byteAt b 0) (fun _ => true) = some b ∧ byteAt b 0 ∉ opcodes) ∧
    (∃ (s : State) (q : Fin 16) (pos : Nat) (d : Desc), findDesc s q pos = some d ∧ runnable s q pos 0x29 (fun _ => true) = some d.bytes ∧
      fenceOpen s q d = true) ∧
    (∃ (s : State) (q : Fin 16) (pos : Nat) (d : Desc), findDesc s q pos = some d ∧ runnable s q pos 0x29 (fun _ => true) = some d.bytes ∧
      fenceOpen s q d = true) ∧
    (∃ (s : State) (q : Fin 16) (pos : Nat) (d : Desc), findDesc s q pos = some d ∧ runnable s q pos 0x29 (fun _ => true) = some d.bytes ∧
      fenceOpen s q d = false) ∧
    (∃ (s : State) (q : Fin 16) (pos : Nat) (b : List Byte) (d : List Byte) (tb : Nat) (n : Nat) (idx : Nat) (cnt : Nat) (w : Nat) (first : Nat) (es : List (List Byte)),
      runnable s q pos 0x08 (fun _ => true) = some b ∧ tb = byteAt b 16 ∧ n = byteAt b 17 ∧ idx = leAt b 20 4 ∧ cnt = leAt b 24 4 ∧
      w = tblWidth tb ∧ first = (if tb = 0x10 then 32 * n + idx else idx) ∧ w ≠ 0 ∧ idx + cnt ≤ tblCount tb ∧ (tb = 0x10 → n < 8) ∧
      haddrOk b = true ∧ es = (List.range cnt).map (fun k => padTo w (slice d (w * k) w)) ∧ (tb = 0x40 → ∀ e ∈ es, tplOk e = true)) ∧
    (∃ (s : State) (q : Fin 16) (pos : Nat) (b : List Byte) (d : List Byte) (tb : Nat) (n : Nat) (idx : Nat) (cnt : Nat) (w : Nat) (first : Nat) (es : List (List Byte)),
      runnable s q pos 0x08 (fun _ => true) = some b ∧ tb = byteAt b 16 ∧ n = byteAt b 17 ∧ idx = leAt b 20 4 ∧ cnt = leAt b 24 4 ∧
      w = tblWidth tb ∧ first = (if tb = 0x10 then 32 * n + idx else idx) ∧ w ≠ 0 ∧ idx + cnt ≤ tblCount tb ∧ (tb = 0x10 → n < 8) ∧
      haddrOk b = true ∧ es = (List.range cnt).map (fun k => padTo w (slice d (w * k) w)) ∧ (tb = 0x40 → ∀ e ∈ es, tplOk e = true)) ∧
    (∃ (s : State) (q : Fin 16) (pos : Nat) (b : List Byte) (d : List Byte) (tb : Nat) (n : Nat) (idx : Nat) (cnt : Nat) (w : Nat) (first : Nat) (es : List (List Byte)),
      runnable s q pos 0x08 (fun _ => true) = some b ∧ tb = byteAt b 16 ∧ n = byteAt b 17 ∧ idx = leAt b 20 4 ∧ cnt = leAt b 24 4 ∧
      w = tblWidth tb ∧ first = (if tb = 0x10 then 32 * n + idx else idx) ∧ w ≠ 0 ∧ idx + cnt ≤ tblCount tb ∧ (tb = 0x10 → n < 8) ∧
      haddrOk b = true ∧ es = (List.range cnt).map (fun k => padTo w (slice d (w * k) w)) ∧ (tb = 0x40 → ∀ e ∈ es, tplOk e = true)) ∧
    (∃ (s : State) (q : Fin 16) (pos : Nat) (b : List Byte) (d : List Byte) (tb : Nat) (n : Nat) (idx : Nat) (cnt : Nat) (w : Nat) (first : Nat) (es : List (List Byte)),
      runnable s q pos 0x08 (fun _ => true) = some b ∧ tb = byteAt b 16 ∧ n = byteAt b 17 ∧ idx = leAt b 20 4 ∧ cnt = leAt b 24 4 ∧
      w = tblWidth tb ∧ first = (if tb = 0x10 then 32 * n + idx else idx) ∧ w ≠ 0 ∧ idx + cnt ≤ tblCount tb ∧ (tb = 0x10 → n < 8) ∧
      haddrOk b = true ∧ es = (List.range cnt).map (fun k => padTo w (slice d (w * k) w)) ∧ (tb = 0x40 → ∀ e ∈ es, tplOk e = true)) ∧
    (∃ (s : State) (q : Fin 16) (pos : Nat) (b : List Byte) (d : List Byte) (tb : Nat) (n : Nat) (idx : Nat) (cnt : Nat) (w : Nat) (first : Nat) (es : List (List Byte)),
      runnable s q pos 0x08 (fun _ => true) = some b ∧ tb = byteAt b 16 ∧ n = byteAt b 17 ∧ idx = leAt b 20 4 ∧ cnt = leAt b 24 4 ∧
      w = tblWidth tb ∧ first = (if tb = 0x10 then 32 * n + idx else idx) ∧ w ≠ 0 ∧ idx + cnt ≤ tblCount tb ∧ (tb = 0x10 → n < 8) ∧
      haddrOk b = true ∧ es = (List.range cnt).map (fun k => padTo w (slice d (w * k) w)) ∧ (tb = 0x40 → ∀ e ∈ es, tplOk e = true)) ∧
    (∃ (s : State) (q : Fin 16) (pos : Nat) (b : List Byte) (d : List Byte) (tb : Nat) (n : Nat) (idx : Nat) (cnt : Nat) (w : Nat) (first : Nat) (es : List (List Byte)),
      runnable s q pos 0x08 (fun _ => true) = some b ∧ tb = byteAt b 16 ∧ n = byteAt b 17 ∧ idx = leAt b 20 4 ∧ cnt = leAt b 24 4 ∧
      w = tblWidth tb ∧ first = (if tb = 0x10 then 32 * n + idx else idx) ∧ w ≠ 0 ∧ idx + cnt ≤ tblCount tb ∧ (tb = 0x10 → n < 8) ∧
      haddrOk b = true ∧ es = (List.range cnt).map (fun k => padTo w (slice d (w * k) w)) ∧ (tb = 0x40 → ∀ e ∈ es, tplOk e = true)) ∧
    (∃ (s : State) (q : Fin 16) (pos : Nat) (b : List Byte) (d : List Byte) (tb : Nat) (n : Nat) (idx : Nat) (cnt : Nat) (w : Nat) (first : Nat) (es : List (List Byte)),
      runnable s q pos 0x08 (fun _ => true) = some b ∧ tb = byteAt b 16 ∧ n = byteAt b 17 ∧ idx = leAt b 20 4 ∧ cnt = leAt b 24 4 ∧
      w = tblWidth tb ∧ first = (if tb = 0x10 then 32 * n + idx else idx) ∧ w = 0) ∧
    (∃ (s : State) (q : Fin 16) (pos : Nat) (b : List Byte) (d : List Byte) (tb : Nat) (n : Nat) (idx : Nat) (cnt : Nat) (w : Nat) (first : Nat) (es : List (List Byte)),
      runnable s q pos 0x08 (fun _ => true) = some b ∧ tb = byteAt b 16 ∧ n = byteAt b 17 ∧ idx = leAt b 20 4 ∧ cnt = leAt b 24 4 ∧
      w = tblWidth tb ∧ first = (if tb = 0x10 then 32 * n + idx else idx) ∧ w ≠ 0 ∧ idx + cnt ≤ tblCount tb ∧ (tb = 0x10 → n < 8) ∧
      haddrOk b = true) ∧
    (∃ (s : State) (q : Fin 16) (pos : Nat) (b : List Byte) (d : List Byte) (len : Nat), runnable s q pos 0x18 (fun _ => true) = some b ∧
      len = leAt b 16 2 ∧ s.frames.any (fun f => decide (f.origin = some (q.val, pos))) = false ∧
      s.msgs.any (fun m => decide (m.origin = some (q.val, pos))) = false ∧ 60 ≤ len ∧ len ≤ 9596 ∧ leAt b 24 8 % 4 = 0 ∧ haddrOk b = true) ∧
    (∃ (s : State) (q : Fin 16) (pos : Nat) (b : List Byte) (d : List Byte) (len : Nat), runnable s q pos 0x18 (fun _ => true) = some b ∧
      len = leAt b 16 2 ∧ s.frames.any (fun f => decide (f.origin = some (q.val, pos))) = false ∧
      s.msgs.any (fun m => decide (m.origin = some (q.val, pos))) = false ∧ (len < 60 ∨ 9596 < len)) ∧
    (∃ (s : State) (q : Fin 16) (pos : Nat) (b : List Byte) (d : List Byte) (len : Nat), runnable s q pos 0x18 (fun _ => true) = some b ∧
      len = leAt b 16 2 ∧ s.frames.any (fun f => decide (f.origin = some (q.val, pos))) = false ∧
      s.msgs.any (fun m => decide (m.origin = some (q.val, pos))) = false ∧ (len < 60 ∨ 9596 < len)) ∧
    (∃ (s : State) (q : Fin 16) (pos : Nat) (b : List Byte) (dpa : Nat) (len : Nat), hbmUp s = true ∧
      runnable s q pos 0x20 (fun b => !descHeld s 0x20 b) = some b ∧ dpa = leAt b 16 5 ∧ len = leAt b 24 4 ∧ memCheck b s = 0 ∧
      (∀ l ∈ linesOf dpa len, (getDir s l).held = 0) ∧ (∀ h ∈ halvesOf dpa len, poisoned s h = false)) ∧
    (∃ (s : State) (q : Fin 16) (pos : Nat) (b : List Byte) (dpa : Nat) (len : Nat), hbmUp s = true ∧
      runnable s q pos 0x20 (fun b => !descHeld s 0x20 b) = some b ∧ dpa = leAt b 16 5 ∧ len = leAt b 24 4 ∧ memCheck b s ≠ 0) ∧
    (∃ (s : State) (q : Fin 16) (pos : Nat) (b : List Byte) (dpa : Nat) (len : Nat), hbmUp s = true ∧
      runnable s q pos 0x20 (fun b => !descHeld s 0x20 b) = some b ∧ dpa = leAt b 16 5 ∧ len = leAt b 24 4 ∧ memCheck b s ≠ 0) ∧
    (∃ (s : State) (q : Fin 16) (pos : Nat) (b : List Byte) (dpa : Nat) (len : Nat), hbmUp s = true ∧
      runnable s q pos 0x20 (fun b => !descHeld s 0x20 b) = some b ∧ dpa = leAt b 16 5 ∧ len = leAt b 24 4 ∧ memCheck b s ≠ 0) ∧
    (∃ (s : State) (q : Fin 16) (pos : Nat) (b : List Byte) (d : List Byte) (dpa : Nat) (len : Nat), hbmUp s = true ∧
      runnable s q pos 0x21 (fun b => !descHeld s 0x21 b) = some b ∧ dpa = leAt b 16 5 ∧ len = leAt b 24 4 ∧ memCheck b s = 0 ∧
      inBank s dpa len = false ∧ (∀ h ∈ halvesOf dpa len, poisoned s h = false)) ∧
    (∃ (s : State) (q : Fin 16) (pos : Nat) (b : List Byte) (d : List Byte) (dpa : Nat) (len : Nat), hbmUp s = true ∧
      runnable s q pos 0x21 (fun b => !descHeld s 0x21 b) = some b ∧ dpa = leAt b 16 5 ∧ len = leAt b 24 4 ∧ memCheck b s = 0 ∧
      inBank s dpa len = false ∧ (∀ h ∈ halvesOf dpa len, poisoned s h = false)) ∧
    (∃ (s : State) (q : Fin 16) (pos : Nat) (b : List Byte) (d : List Byte) (dpa : Nat) (len : Nat), hbmUp s = true ∧
      runnable s q pos 0x21 (fun b => !descHeld s 0x21 b) = some b ∧ dpa = leAt b 16 5 ∧ len = leAt b 24 4 ∧ memCheck b s = 0 ∧
      inBank s dpa len = true) ∧
    (∃ (s : State) (q : Fin 16) (pos : Nat) (b : List Byte) (d : List Byte) (dpa : Nat) (len : Nat), hbmUp s = true ∧
      runnable s q pos 0x21 (fun b => !descHeld s 0x21 b) = some b ∧ dpa = leAt b 16 5 ∧ len = leAt b 24 4 ∧ memCheck b s ≠ 0) ∧
    (∃ (s : State) (q : Fin 16) (pos : Nat) (b : List Byte) (lo : Nat) (cnt : Nat), runnable s q pos 0x30 (fun _ => true) = some b ∧
      byteAt b 16 = 0 ∧ leAt b 20 4 = 8 * lo ∧ cnt = leAt b 24 4 ∧ haddrOk b = true ∧ lo + cnt ≤ 4096 ∧ cnt ≠ 0) ∧
    (∃ (s : State) (q : Fin 16) (pos : Nat) (b : List Byte) (lo : Nat) (cnt : Nat), runnable s q pos 0x30 (fun _ => true) = some b ∧
      byteAt b 16 = 0 ∧ leAt b 20 4 = 8 * lo ∧ cnt = leAt b 24 4 ∧ haddrOk b = true ∧ lo + cnt ≤ 4096 ∧ cnt ≠ 0) ∧
    (∃ (s : State) (q : Fin 16) (pos : Nat) (b : List Byte) (lo : Nat) (cnt : Nat), runnable s q pos 0x30 (fun _ => true) = some b ∧
      byteAt b 16 = 0 ∧ leAt b 20 4 = 8 * lo ∧ cnt = leAt b 24 4 ∧ haddrOk b = true ∧ 4096 < lo + cnt) ∧
    (∃ (s : State) (q : Fin 16) (pos : Nat) (b : List Byte) (g : Group), hbmUp s = true ∧
      runnable s q pos 0x32 (fun b => !descHeld s 0x32 b) = some b ∧ byteAt b 16 < 64 ∧ findGroup s (byteAt b 16) = none) ∧
    (∃ (s : State) (q : Fin 16) (pos : Nat) (b : List Byte) (g : Group), hbmUp s = true ∧
      runnable s q pos 0x32 (fun b => !descHeld s 0x32 b) = some b ∧ byteAt b 16 < 64 ∧ findGroup s (byteAt b 16) = some g ∧ s.msgs = []) ∧
    (∃ (s : State) (q : Fin 16) (pos : Nat) (b : List Byte) (d : List Byte) (e : Nat) (len : Nat),
      runnable s q pos 0x34 (fun _ => true) = some b ∧ e = byteAt b 16 ∧ len = leAt b 18 2 ∧
      (s.egress.any (fun x => x.2.any (fun y => match y.kind with | .puntReturn q' p' _ _ _ _ => decide (q' = q.val ∧ p' = pos) | _ => false)) = false) ∧
      e < 8 ∧ bitsOf (byteAt b 17) 0 2 = 0 ∧ len + 4 ≤ maxFrame s e ∧ trkEn s e = true ∧ haddrOk b = true) ∧
    (∃ (s : State) (q : Fin 16) (pos : Nat) (b : List Byte) (d : List Byte) (e : Nat) (len : Nat),
      runnable s q pos 0x34 (fun _ => true) = some b ∧ e = byteAt b 16 ∧ len = leAt b 18 2 ∧
      (s.egress.any (fun x => x.2.any (fun y => match y.kind with | .puntReturn q' p' _ _ _ _ => decide (q' = q.val ∧ p' = pos) | _ => false)) = false) ∧
      15 < e) ∧
    (∃ (s : State) (q : Fin 16) (pos : Nat) (b : List Byte) (d : List Byte) (e : Nat) (len : Nat),
      runnable s q pos 0x34 (fun _ => true) = some b ∧ e = byteAt b 16 ∧ len = leAt b 18 2 ∧
      (s.egress.any (fun x => x.2.any (fun y => match y.kind with | .puntReturn q' p' _ _ _ _ => decide (q' = q.val ∧ p' = pos) | _ => false)) = false) ∧
      e < 8 ∧ bitsOf (byteAt b 17) 0 2 = 0 ∧ len + 4 ≤ maxFrame s e ∧ trkEn s e = false) :=
  ⟨⟨dsc 0 [] up, 0, 0, dscB 0 [], by decide +kernel⟩,
    ⟨dsc 0x77 [] up, 0, 0, dscB 0x77 [], by decide +kernel⟩,
    ⟨dsc 0x29 [1, 0] up, 0, 0, descOf (dsc 0x29 [1, 0] up), by decide +kernel⟩,
    ⟨dsc 0x29 [2, 0] (setRing 1 { Ring.init with cons := 3, prod := 5 } up), 0, 0, descOf (dsc 0x29 [2, 0] up), by decide +kernel⟩,
    ⟨fenceShut, 0, 0, descOf fenceShut, by decide +kernel⟩,
    ⟨dsc 8 (twB 16 2 5 2) tabUp, 0, 0, dscB 8 (twB 16 2 5 2), [7#8], 16, 2, 5, 2, tblWidth 16, 69, entsOf (tblWidth 16) 2 [7#8], by decide +kernel⟩,
    ⟨dsc 8 (twB 32 0 3 2) tabUp, 0, 0, dscB 8 (twB 32 0 3 2), [7#8], 32, 0, 3, 2, tblWidth 32, 3, entsOf (tblWidth 32) 2 [7#8], by decide +kernel⟩,
    ⟨dsc 8 (twB 34 0 270 2) tabUp, 0, 0, dscB 8 (twB 34 0 270 2), [7#8], 34, 0, 270, 2, tblWidth 34, 270, entsOf (tblWidth 34) 2 [7#8],
    by decide +kernel⟩,
    ⟨dsc 8 (twB 48 9 1 1) tabUp, 0, 0, dscB 8 (twB 48 9 1 1), [0xFF#8, 0xFF#8, 0xFF#8], 48, 9, 1, 1, tblWidth 48, 1, entsOf (tblWidth 48) 1 [0xFF#8,
    0xFF#8, 0xFF#8], by decide +kernel⟩,
    ⟨dsc 8 (twB 64 0 127 1) tabUp, 0, 0, dscB 8 (twB 64 0 127 1), [], 64, 0, 127, 1, tblWidth 64, 127, entsOf (tblWidth 64) 1 [], by decide +kernel⟩,
    ⟨dsc 8 (twB 36 0 255 1) tabUp, 0, 0, dscB 8 (twB 36 0 255 1), [7#8], 36, 0, 255, 1, tblWidth 36, 255, entsOf (tblWidth 36) 1 [7#8],
    by decide +kernel⟩,
    ⟨dsc 8 (twB 17 0 3 1) tabUp, 0, 0, dscB 8 (twB 17 0 3 1), [7#8], 17, 0, 3, 1, 0, 3, [], by decide +kernel⟩,
    ⟨dsc 8 (twB 32 0 3 1) tabUp, 0, 0, dscB 8 (twB 32 0 3 1), [], 32, 0, 3, 1, tblWidth 32, 3, [], by decide +kernel⟩,
    ⟨dsc 0x18 [64, 0] { up with frames := [frame1] }, 0, 0, dscB 0x18 [64, 0], [1#8], 64, by decide +kernel⟩,
    ⟨dsc 0x18 [59, 0] { up with frames := [frame1] }, 0, 0, dscB 0x18 [59, 0], [1#8], 59, by decide +kernel⟩,
    ⟨dsc 0x18 [125, 37] { up with frames := [frame1] }, 0, 0, dscB 0x18 [125, 37], [1#8], 9597, by decide +kernel⟩,
    ⟨dsc 0x20 (memB 4100 72) memA, 0, 0, dscB 0x20 (memB 4100 72), 4100, 72, by decide +kernel⟩,
    ⟨dsc 0x20 (memB 4100 0) memA, 0, 0, dscB 0x20 (memB 4100 0), 4100, 0, by decide +kernel⟩,
    ⟨dsc 0x20 (memB 4100 6) memA, 0, 0, dscB 0x20 (memB 4100 6), 4100, 6, by decide +kernel⟩,
    ⟨dsc 0x20 (memB 34359738364 8) up, 0, 0, dscB 0x20 (memB 34359738364 8), 34359738364, 8, by decide +kernel⟩,
    ⟨dsc 0x21 (memB 4100 72) memA, 0, 0, dscB 0x21 (memB 4100 72), [7#8], 4100, 72, by decide +kernel⟩,
    ⟨dsc 0x21 (memB 4100 72) memC, 0, 0, dscB 0x21 (memB 4100 72), [7#8], 4100, 72, by decide +kernel⟩,
    ⟨dsc 0x21 (memB 9126805500 8) loadUp, 0, 0, dscB 0x21 (memB 9126805500 8), [7#8], 9126805500, 8, by decide +kernel⟩,
    ⟨dsc 0x21 (memB 4100 16777220) memA, 0, 0, dscB 0x21 (memB 4100 16777220), [7#8], 4100, 16777220, by decide +kernel⟩,
    ⟨dsc 0x30 (stB 1 496 3) cntUp, 0, 0, dscB 0x30 (stB 1 496 3), 62, 3, by decide +kernel⟩,
    ⟨dsc 0x30 (stB 0 32760 1) cntUp, 0, 0, dscB 0x30 (stB 0 32760 1), 4095, 1, by decide +kernel⟩,
    ⟨dsc 0x30 (stB 0 32760 2) cntUp, 0, 0, dscB 0x30 (stB 0 32760 2), 4095, 2, by decide +kernel⟩,
    ⟨dsc 0x32 [6] (fabUp group0 sheaf0), 0, 0, dscB 0x32 [6], group0, by decide +kernel⟩,
    ⟨dsc 0x32 [5] repUp, 0, 0, dscB 0x32 [5], grpBusy, by decide +kernel⟩,
    ⟨dsc 0x34 (prB 0) prUp, 0, 0, dscB 0x34 (prB 0), [7#8], 0, 60, by decide +kernel⟩,
    ⟨dsc 0x34 (prB 16) (enPort id), 0, 0, dscB 0x34 (prB 16), [7#8], 16, 60, by decide +kernel⟩,
    ⟨dsc 0x34 (prB 1) (enPort id), 0, 0, dscB 0x34 (prB 1), [7#8], 1, 60, by decide +kernel⟩⟩

/-- A bank in service, with KV of 2 layers, or none; a stream with KV rows. -/
def kvBank (kv : Bool) : Bank := { Bank.init with st := .active, kv := kv, newPos := 2, kvL := 2, kvH := 1, kvE := 100, kvFmt := 2 }
def kvStr (st : StrState) : Stream :=
  { Stream.init with st := st, kvLen := 3, kvCap := 4, kvHead := 1, pcap := 6, kvBase := 4096, kvL := 2, kvH := 1, kvE := 100, kvFmt := 2 }
/-- STREAM_OPEN operands of stream 7, slot 3, class 2: HOME and policy, capacity, base; the state they meet. -/
def soB (hp cap base : Nat) : List Nat := [7, 35, hp, 0, 255, 255, cap, 0, base % 256, base / 256 % 256, base / 65536 % 256, base / 2 ^ 24 % 256, base / 2 ^ 32]
def soUp (hp cap base : Nat) (kv : Bool) (s : State) : State := dsc 0x10 (soB hp cap base) (setBank 3 1 (kvBank kv) (setStream 8 (kvStr .opened) s))
def groupS : Group := { group0 with slot := 3, bank := 1 }
/-- A descriptor of stream 7 with a flag byte, the stream as it stands, and messages. -/
def sdB (fl : Nat) : List Nat := [7, fl, 0, 0, 254, 255]
def sdUp (op fl : Nat) (v : Stream) (ms : List Msg) : State := dsc op (sdB fl) (setStream 7 v { up with msgs := ms })
def open7 (st : StrState) (a b : Nat) : Stream := { Stream.init with st := st, nextIn := a, nextOut := b }
def msg7 : Msg := { msg0 with stream := 7, slot := 3, bank := 1 }
/-- KV_READ and KV_WRITE operands of stream 7: first position and count; the memory they meet. -/
def kvB (first cnt : Nat) : List Nat := [7, 0, 0, 0, first, 0, 0, 0, cnt, 0, 0, 0, 0, 0, 0, 0, 0, 16, 0, 0, 0, 0, 0, 0]
def kvMem (poison : List (Nat × Bool)) : State := memUp (fun m => { m with hbm := [(4096, 5#8), (4100, 6#8), (4736, 7#8)], poison := poison })
def kvCached : State := memUp (fun m => { m with rlc := [(cacheKey 0 32, line0 .modified)], dir := [(32, dir0 1 true)], poison := [(128, true)] })
def rdUp (first cnt : Nat) (v : Stream) (s : State) : State := dsc 0x14 (kvB first cnt) (setStream 7 v s)
def wrUp (cnt : Nat) (v : Stream) (s : State) : State := dsc 0x15 (kvB 0 cnt) (setStream 7 v s)
def soReg : Nat := 2 * 2 * (5 + 2) * (ceilDiv (ceilDiv (1 * 100 * (if (kvBank true).kvFmt = 0 then 4 else 8)) 8) 64 * 64)
def soRegC (cap : Nat) : Nat := 2 * 2 * (cap + 2) * (ceilDiv (ceilDiv (1 * 100 * (if (kvBank true).kvFmt = 0 then 4 else 8)) 8) 64 * 64)

theorem witness_StreamDescriptors :
    (∃ (s : State) (q : Fin 16) (pos : Nat) (b : List Byte) (k : Nat) (slot : Nat) (ab : Nat) (h : Nat) (home : Nat) (base : Nat) (cap : Nat) (region : Nat) (B : Bank),
      hbmUp s = true ∧ runnable s q pos 0x10 (fun b => !descHeld s 0x10 b) = some b ∧ k = byteAt b 16 ∧ slot = bitsOf (byteAt b 17) 0 4 ∧
      h = bitsOf (byteAt b 18) 0 3 ∧ base = leAt b 24 5 ∧ cap = leAt b 22 2 ∧
      (home = (if h = 7 then (match s.groups.find? (fun g => decide (g.slot = slot ∧
      some g.bank = activeBank s slot)) with | some g => groupDie g | none => 0) else h)) ∧
      region = 2 * B.kvL * (cap + B.newPos) * (ceilDiv (ceilDiv (B.kvH * B.kvE * (if B.kvFmt = 0 then 4 else 8)) 8) 64 * 64) ∧
      ((getStream s k).st ≠ .closed ∨ activeBank s slot = none)) ∧
    (∃ (s : State) (q : Fin 16) (pos : Nat) (b : List Byte) (k : Nat) (slot : Nat) (ab : Nat) (h : Nat) (home : Nat) (base : Nat) (cap : Nat) (region : Nat) (B : Bank),
      hbmUp s = true ∧ runnable s q pos 0x10 (fun b => !descHeld s 0x10 b) = some b ∧ k = byteAt b 16 ∧ slot = bitsOf (byteAt b 17) 0 4 ∧
      h = bitsOf (byteAt b 18) 0 3 ∧ base = leAt b 24 5 ∧ cap = leAt b 22 2 ∧
      (home = (if h = 7 then (match s.groups.find? (fun g => decide (g.slot = slot ∧
      some g.bank = activeBank s slot)) with | some g => groupDie g | none => 0) else h)) ∧
      region = 2 * B.kvL * (cap + B.newPos) * (ceilDiv (ceilDiv (B.kvH * B.kvE * (if B.kvFmt = 0 then 4 else 8)) 8) 64 * 64) ∧
      ((getStream s k).st ≠ .closed ∨ activeBank s slot = none)) ∧
    (∃ (s : State) (q : Fin 16) (pos : Nat) (b : List Byte) (k : Nat) (slot : Nat) (ab : Nat) (h : Nat) (home : Nat) (base : Nat) (cap : Nat) (region : Nat) (B : Bank),
      hbmUp s = true ∧ runnable s q pos 0x10 (fun b => !descHeld s 0x10 b) = some b ∧ k = byteAt b 16 ∧ slot = bitsOf (byteAt b 17) 0 4 ∧
      h = bitsOf (byteAt b 18) 0 3 ∧ base = leAt b 24 5 ∧ cap = leAt b 22 2 ∧
      (home = (if h = 7 then (match s.groups.find? (fun g => decide (g.slot = slot ∧
      some g.bank = activeBank s slot)) with | some g => groupDie g | none => 0) else h)) ∧
      region = 2 * B.kvL * (cap + B.newPos) * (ceilDiv (ceilDiv (B.kvH * B.kvE * (if B.kvFmt = 0 then 4 else 8)) 8) 64 * 64) ∧
      (getStream s k).st = .closed ∧ activeBank s slot = some ab ∧ getBank s slot ab = B ∧ B.kv = true ∧ (firstHole base region).isSome = true) ∧
    (∃ (s : State) (q : Fin 16) (pos : Nat) (b : List Byte) (k : Nat) (slot : Nat) (ab : Nat) (h : Nat) (home : Nat) (base : Nat) (cap : Nat) (region : Nat) (B : Bank),
      hbmUp s = true ∧ runnable s q pos 0x10 (fun b => !descHeld s 0x10 b) = some b ∧ k = byteAt b 16 ∧ slot = bitsOf (byteAt b 17) 0 4 ∧
      h = bitsOf (byteAt b 18) 0 3 ∧ base = leAt b 24 5 ∧ cap = leAt b 22 2 ∧
      (home = (if h = 7 then (match s.groups.find? (fun g => decide (g.slot = slot ∧
      some g.bank = activeBank s slot)) with | some g => groupDie g | none => 0) else h)) ∧
      region = 2 * B.kvL * (cap + B.newPos) * (ceilDiv (ceilDiv (B.kvH * B.kvE * (if B.kvFmt = 0 then 4 else 8)) 8) 64 * 64) ∧
      (getStream s k).st = .closed ∧ activeBank s slot = some ab ∧ getBank s slot ab = B ∧ (B.kv = true → firstHole base region = none) ∧ ((4 ≤ h ∧
      h ≤ 6) ∨ (B.kv = true ∧ (cap = 0 ∨ 4096 < cap ∨ base % 4096 ≠ 0 ∨ stackOf base ≠ home)))) ∧
    (∃ (s : State) (q : Fin 16) (pos : Nat) (b : List Byte) (k : Nat) (slot : Nat) (ab : Nat) (h : Nat) (home : Nat) (base : Nat) (cap : Nat) (region : Nat) (B : Bank),
      hbmUp s = true ∧ runnable s q pos 0x10 (fun b => !descHeld s 0x10 b) = some b ∧ k = byteAt b 16 ∧ slot = bitsOf (byteAt b 17) 0 4 ∧
      h = bitsOf (byteAt b 18) 0 3 ∧ base = leAt b 24 5 ∧ cap = leAt b 22 2 ∧
      (home = (if h = 7 then (match s.groups.find? (fun g => decide (g.slot = slot ∧
      some g.bank = activeBank s slot)) with | some g => groupDie g | none => 0) else h)) ∧
      region = 2 * B.kvL * (cap + B.newPos) * (ceilDiv (ceilDiv (B.kvH * B.kvE * (if B.kvFmt = 0 then 4 else 8)) 8) 64 * 64) ∧
      (getStream s k).st = .closed ∧ activeBank s slot = some ab ∧ getBank s slot ab = B ∧ (B.kv = true → firstHole base region = none) ∧ ((4 ≤ h ∧
      h ≤ 6) ∨ (B.kv = true ∧ (cap = 0 ∨ 4096 < cap ∨ base % 4096 ≠ 0 ∨ stackOf base ≠ home)))) ∧
    (∃ (s : State) (q : Fin 16) (pos : Nat) (b : List Byte) (k : Nat) (slot : Nat) (ab : Nat) (h : Nat) (home : Nat) (base : Nat) (cap : Nat) (region : Nat) (B : Bank),
      hbmUp s = true ∧ runnable s q pos 0x10 (fun b => !descHeld s 0x10 b) = some b ∧ k = byteAt b 16 ∧ slot = bitsOf (byteAt b 17) 0 4 ∧
      h = bitsOf (byteAt b 18) 0 3 ∧ base = leAt b 24 5 ∧ cap = leAt b 22 2 ∧
      (home = (if h = 7 then (match s.groups.find? (fun g => decide (g.slot = slot ∧
      some g.bank = activeBank s slot)) with | some g => groupDie g | none => 0) else h)) ∧
      region = 2 * B.kvL * (cap + B.newPos) * (ceilDiv (ceilDiv (B.kvH * B.kvE * (if B.kvFmt = 0 then 4 else 8)) 8) 64 * 64) ∧
      (getStream s k).st = .closed ∧ activeBank s slot = some ab ∧ getBank s slot ab = B ∧ (B.kv = true → firstHole base region = none) ∧ ((4 ≤ h ∧
      h ≤ 6) ∨ (B.kv = true ∧ (cap = 0 ∨ 4096 < cap ∨ base % 4096 ≠ 0 ∨ stackOf base ≠ home)))) ∧
    (∃ (s : State) (q : Fin 16) (pos : Nat) (b : List Byte) (k : Nat) (slot : Nat) (ab : Nat) (h : Nat) (home : Nat) (base : Nat) (cap : Nat) (region : Nat) (B : Bank),
      hbmUp s = true ∧ runnable s q pos 0x10 (fun b => !descHeld s 0x10 b) = some b ∧ k = byteAt b 16 ∧ slot = bitsOf (byteAt b 17) 0 4 ∧
      h = bitsOf (byteAt b 18) 0 3 ∧ base = leAt b 24 5 ∧ cap = leAt b 22 2 ∧
      (home = (if h = 7 then (match s.groups.find? (fun g => decide (g.slot = slot ∧
      some g.bank = activeBank s slot)) with | some g => groupDie g | none => 0) else h)) ∧
      region = 2 * B.kvL * (cap + B.newPos) * (ceilDiv (ceilDiv (B.kvH * B.kvE * (if B.kvFmt = 0 then 4 else 8)) 8) 64 * 64) ∧
      (getStream s k).st = .closed ∧ activeBank s slot = some ab ∧ getBank s slot ab = B ∧ (B.kv = true → firstHole base region = none) ∧ ((4 ≤ h ∧
      h ≤ 6) ∨ (B.kv = true ∧ (cap = 0 ∨ 4096 < cap ∨ base % 4096 ≠ 0 ∨ stackOf base ≠ home)))) ∧
    (∃ (s : State) (q : Fin 16) (pos : Nat) (b : List Byte) (k : Nat) (slot : Nat) (ab : Nat) (h : Nat) (home : Nat) (base : Nat) (cap : Nat) (region : Nat) (B : Bank),
      hbmUp s = true ∧ runnable s q pos 0x10 (fun b => !descHeld s 0x10 b) = some b ∧ k = byteAt b 16 ∧ slot = bitsOf (byteAt b 17) 0 4 ∧
      h = bitsOf (byteAt b 18) 0 3 ∧ base = leAt b 24 5 ∧ cap = leAt b 22 2 ∧
      (home = (if h = 7 then (match s.groups.find? (fun g => decide (g.slot = slot ∧
      some g.bank = activeBank s slot)) with | some g => groupDie g | none => 0) else h)) ∧
      region = 2 * B.kvL * (cap + B.newPos) * (ceilDiv (ceilDiv (B.kvH * B.kvE * (if B.kvFmt = 0 then 4 else 8)) 8) 64 * 64) ∧
      (getStream s k).st = .closed ∧ activeBank s slot = some ab ∧ getBank s slot ab = B ∧ (B.kv = true → firstHole base region = none) ∧
      (h < 4 ∨ h = 7) ∧ (B.kv = true → cap ≠ 0 ∧ cap ≤ 4096 ∧ base % 4096 = 0 ∧ stackOf base = home) ∧ s.glb.dieFatal.testBit home = true) ∧
    (∃ (s : State) (q : Fin 16) (pos : Nat) (b : List Byte) (k : Nat) (slot : Nat) (ab : Nat) (h : Nat) (home : Nat) (base : Nat) (cap : Nat) (region : Nat) (B : Bank),
      hbmUp s = true ∧ runnable s q pos 0x10 (fun b => !descHeld s 0x10 b) = some b ∧ k = byteAt b 16 ∧ slot = bitsOf (byteAt b 17) 0 4 ∧
      h = bitsOf (byteAt b 18) 0 3 ∧ base = leAt b 24 5 ∧ cap = leAt b 22 2 ∧
      (home = (if h = 7 then (match s.groups.find? (fun g => decide (g.slot = slot ∧
      some g.bank = activeBank s slot)) with | some g => groupDie g | none => 0) else h)) ∧
      region = 2 * B.kvL * (cap + B.newPos) * (ceilDiv (ceilDiv (B.kvH * B.kvE * (if B.kvFmt = 0 then 4 else 8)) 8) 64 * 64) ∧
      (getStream s k).st = .closed ∧ activeBank s slot = some ab ∧ getBank s slot ab = B ∧ (B.kv = true → firstHole base region = none) ∧
      (h < 4 ∨ h = 7) ∧ (B.kv = true → cap ≠ 0 ∧ cap ≤ 4096 ∧ base % 4096 = 0 ∧ stackOf base = home) ∧ s.glb.dieFatal.testBit home = false) ∧
    (∃ (s : State) (q : Fin 16) (pos : Nat) (b : List Byte) (k : Nat) (slot : Nat) (ab : Nat) (h : Nat) (home : Nat) (base : Nat) (cap : Nat) (region : Nat) (B : Bank),
      hbmUp s = true ∧ runnable s q pos 0x10 (fun b => !descHeld s 0x10 b) = some b ∧ k = byteAt b 16 ∧ slot = bitsOf (byteAt b 17) 0 4 ∧
      h = bitsOf (byteAt b 18) 0 3 ∧ base = leAt b 24 5 ∧ cap = leAt b 22 2 ∧
      (home = (if h = 7 then (match s.groups.find? (fun g => decide (g.slot = slot ∧
      some g.bank = activeBank s slot)) with | some g => groupDie g | none => 0) else h)) ∧
      region = 2 * B.kvL * (cap + B.newPos) * (ceilDiv (ceilDiv (B.kvH * B.kvE * (if B.kvFmt = 0 then 4 else 8)) 8) 64 * 64) ∧
      (getStream s k).st = .closed ∧ activeBank s slot = some ab ∧ getBank s slot ab = B ∧ (B.kv = true → firstHole base region = none) ∧
      (h < 4 ∨ h = 7) ∧ (B.kv = true → cap ≠ 0 ∧ cap ≤ 4096 ∧ base % 4096 = 0 ∧ stackOf base = home) ∧ s.glb.dieFatal.testBit home = false) ∧
    (∃ (s : State) (q : Fin 16) (pos : Nat) (b : List Byte) (k : Nat) (slot : Nat) (ab : Nat) (h : Nat) (home : Nat) (base : Nat) (cap : Nat) (region : Nat) (B : Bank),
      hbmUp s = true ∧ runnable s q pos 0x10 (fun b => !descHeld s 0x10 b) = some b ∧ k = byteAt b 16 ∧ slot = bitsOf (byteAt b 17) 0 4 ∧
      h = bitsOf (byteAt b 18) 0 3 ∧ base = leAt b 24 5 ∧ cap = leAt b 22 2 ∧
      (home = (if h = 7 then (match s.groups.find? (fun g => decide (g.slot = slot ∧
      some g.bank = activeBank s slot)) with | some g => groupDie g | none => 0) else h)) ∧
      region = 2 * B.kvL * (cap + B.newPos) * (ceilDiv (ceilDiv (B.kvH * B.kvE * (if B.kvFmt = 0 then 4 else 8)) 8) 64 * 64) ∧
      (getStream s k).st = .closed ∧ activeBank s slot = some ab ∧ getBank s slot ab = B ∧ (B.kv = true → firstHole base region = none) ∧
      (h < 4 ∨ h = 7) ∧ (B.kv = true → cap ≠ 0 ∧ cap ≤ 4096 ∧ base % 4096 = 0 ∧ stackOf base = home) ∧ s.glb.dieFatal.testBit home = false) ∧
    (∃ (s : State) (q : Fin 16) (pos : Nat) (b : List Byte) (k : Nat), runnable s q pos 0x11 (fun _ => true) = some b ∧ k = byteAt b 16 ∧
      ((getStream s k).st = .opened ∨ (getStream s k).st = .fenced) ∧ inflight s k = [] ∧ (getStream s k).resetWait = none ∧
      inflightCount (getStream s k) = 0) ∧
    (∃ (s : State) (q : Fin 16) (pos : Nat) (b : List Byte) (k : Nat), runnable s q pos 0x11 (fun _ => true) = some b ∧ k = byteAt b 16 ∧
      ((getStream s k).st = .opened ∨ (getStream s k).st = .fenced) ∧ inflight s k = [] ∧ (getStream s k).resetWait = none ∧
      inflightCount (getStream s k) = 0) ∧
    (∃ (s : State) (q : Fin 16) (pos : Nat) (b : List Byte) (k : Nat), runnable s q pos 0x11 (fun _ => true) = some b ∧ k = byteAt b 16 ∧
      ((getStream s k).st = .opened ∨ (getStream s k).st = .fenced) ∧ inflight s k = [] ∧ (getStream s k).resetWait = none ∧
      inflightCount (getStream s k) ≠ 0) ∧
    (∃ (s : State) (q : Fin 16) (pos : Nat) (b : List Byte) (k : Nat), runnable s q pos 0x11 (fun _ => true) = some b ∧ k = byteAt b 16 ∧
      ((getStream s k).st = .opened ∨ (getStream s k).st = .fenced)) ∧
    (∃ (s : State) (q : Fin 16) (pos : Nat) (b : List Byte) (k : Nat), runnable s q pos 0x11 (fun _ => true) = some b ∧ k = byteAt b 16 ∧
      ((getStream s k).st = .closed ∨ (getStream s k).st = .draining) ∧ (getStream s k).closeWait ≠ some (q.val, pos)) ∧
    (∃ (s : State) (q : Fin 16) (pos : Nat) (b : List Byte) (k : Nat), runnable s q pos 0x12 (fun _ => true) = some b ∧ k = byteAt b 16 ∧
      (getStream s k).st ≠ .closed ∧ (getStream s k).resetWait = none ∧ (getStream s k).closeWait = none ∧ inflight s k = [] ∧
      inflightCount (getStream s k) = 0) ∧
    (∃ (s : State) (q : Fin 16) (pos : Nat) (b : List Byte) (k : Nat), runnable s q pos 0x12 (fun _ => true) = some b ∧ k = byteAt b 16 ∧
      (getStream s k).st ≠ .closed ∧ (getStream s k).resetWait = none ∧ (getStream s k).closeWait = none ∧ inflight s k = [] ∧
      inflightCount (getStream s k) = 0) ∧
    (∃ (s : State) (q : Fin 16) (pos : Nat) (b : List Byte) (k : Nat), runnable s q pos 0x12 (fun _ => true) = some b ∧ k = byteAt b 16 ∧
      (getStream s k).st ≠ .closed ∧ (getStream s k).resetWait = none ∧
      inflight (sdUp 0x12 1 { kvStr .draining with nextIn := 1, closeWait := some (3, 4) } [msg7,
      { msg7 with mid := 4096, stream := 6 }]) 7 = [msg7]) ∧
    (∃ (s : State) (q : Fin 16) (pos : Nat) (b : List Byte) (k : Nat), runnable s q pos 0x12 (fun _ => true) = some b ∧ k = byteAt b 16 ∧
      ((getStream s k).st = .closed ∨ (∃ r, (getStream s k).resetWait = some r ∧ (r.sq ≠ q.val ∨ r.pos ≠ pos)))) ∧
    (∃ (s : State) (q : Fin 16) (pos : Nat) (b : List Byte), runnable s q pos 0x13 (fun b => decide (byteAt b 17 ≠ 1)) = some b ∧ 1 < byteAt b 17) ∧
    (∃ (s : State) (q : Fin 16) (pos : Nat) (b : List Byte) (k : Nat), runnable s q pos 0x13 (fun b => decide (byteAt b 17 ≠ 1)) = some b ∧
      k = byteAt b 16 ∧ byteAt b 17 = 0 ∧ (getStream s k).st = .fenced) ∧
    (∃ (s : State) (q : Fin 16) (pos : Nat) (b : List Byte) (k : Nat), runnable s q pos 0x13 (fun b => decide (byteAt b 17 ≠ 1)) = some b ∧
      k = byteAt b 16 ∧ byteAt b 17 = 0 ∧ (getStream s k).st = .fenced ∧ s.msgs = [] ∧ s.sheaves = [] ∧ s.groups = []) ∧
    (∃ (s : State) (q : Fin 16) (pos : Nat) (b : List Byte) (k : Nat), runnable s q pos 0x13 (fun b => decide (byteAt b 17 ≠ 1)) = some b ∧
      k = byteAt b 16 ∧ byteAt b 17 = 0 ∧ (getStream s k).st ≠ .fenced) ∧
    (∃ (s : State) (q : Fin 16) (pos : Nat) (b : List Byte) (k : Nat), runnable s q pos 0x13 (fun b => decide (byteAt b 17 ≠ 0)) = some b ∧
      k = byteAt b 16 ∧ byteAt b 17 = 1 ∧ (getStream s k).st = .fenced) ∧
    (∃ (s : State) (q : Fin 16) (pos : Nat) (b : List Byte) (k : Nat), runnable s q pos 0x13 (fun b => decide (byteAt b 17 ≠ 0)) = some b ∧
      k = byteAt b 16 ∧ byteAt b 17 = 1 ∧ (getStream s k).st = .fenced ∧ inflight s k = []) ∧
    (∃ (s : State) (q : Fin 16) (pos : Nat) (b : List Byte) (k : Nat), runnable s q pos 0x13 (fun b => decide (byteAt b 17 ≠ 0)) = some b ∧
      k = byteAt b 16 ∧ byteAt b 17 = 1 ∧ (getStream s k).st ≠ .fenced) ∧
    (∃ (s : State) (q : Fin 16) (pos : Nat) (b : List Byte) (k : Nat), runnable s q pos 0x13 (fun b => decide (byteAt b 17 ≠ 0)) = some b ∧
      k = byteAt b 16 ∧ 1 < byteAt b 17) ∧
    (∃ (s : State) (q : Fin 16) (pos : Nat) (b : List Byte) (v : Stream) (first : Nat) (count : Nat), hbmUp s = true ∧
      runnable s q pos 0x14 (fun b => !descHeld s 0x14 b) = some b ∧ v = getStream s (byteAt b 16) ∧ first = leAt b 20 4 ∧ count = leAt b 24 4 ∧
      v.st ≠ .closed ∧ v.pcap ≠ 0 ∧ first + count ≤ v.kvLen ∧ haddrOk b = true ∧ s.glb.dieFatal.testBit v.home = false ∧ (∀ l,
      (getDir s l).held = 0) ∧ (∀ h, poisoned s h = false) ∧ kvRow v ≠ 0 ∧ v.kvL ≠ 0 ∧ count ≠ 0) ∧
    (∃ (s : State) (q : Fin 16) (pos : Nat) (b : List Byte) (v : Stream) (first : Nat) (count : Nat) (x : _) (i : _) (h : _), x ∈ kvPlanes v ∧
      hbmUp s = true ∧ runnable s q pos 0x14 (fun b => !descHeld s 0x14 b) = some b ∧ v = getStream s (byteAt b 16) ∧ first = leAt b 20 4 ∧
      count = leAt b 24 4 ∧ v.st ≠ .closed ∧ v.pcap ≠ 0 ∧ first + count ≤ v.kvLen ∧ haddrOk b = true ∧ s.glb.dieFatal.testBit v.home = false ∧ (∀ l,
      (getDir s l).held = 0) ∧ i < count ∧ h ∈ halvesOf (kvAddr v x.1 x.2 ((v.kvHead + v.pcap - v.kvLen + (first + i)) % v.pcap)) (kvRow v) ∧
      poisoned s h = true) ∧
    (∃ (s : State) (q : Fin 16) (pos : Nat) (b : List Byte) (v : Stream) (first : Nat) (count : Nat), hbmUp s = true ∧
      runnable s q pos 0x14 (fun b => !descHeld s 0x14 b) = some b ∧ v = getStream s (byteAt b 16) ∧ first = leAt b 20 4 ∧ count = leAt b 24 4 ∧
      v.st ≠ .closed ∧ v.pcap ≠ 0 ∧ v.kvLen < first + count) ∧
    (∃ (s : State) (q : Fin 16) (pos : Nat) (b : List Byte) (v : Stream) (first : Nat) (count : Nat), hbmUp s = true ∧
      runnable s q pos 0x14 (fun b => !descHeld s 0x14 b) = some b ∧ v = getStream s (byteAt b 16) ∧ first = leAt b 20 4 ∧ count = leAt b 24 4 ∧
      (v.st = .closed ∨ v.pcap = 0)) ∧
    (∃ (s : State) (q : Fin 16) (pos : Nat) (b : List Byte) (d : List Byte) (k : Nat) (count : Nat) (v : Stream), hbmUp s = true ∧
      runnable s q pos 0x15 (fun b => !descHeld s 0x15 b) = some b ∧ k = byteAt b 16 ∧ v = getStream s k ∧ count = leAt b 24 4 ∧ v.st = .fenced ∧
      v.pcap ≠ 0 ∧ streamDispatched s k = false ∧ count ≤ v.kvCap ∧ v.kvCap ≤ v.pcap ∧ v.kvBase % 64 = 0 ∧ haddrOk b = true ∧
      s.glb.dieFatal.testBit v.home = false) ∧
    (∃ (s : State) (q : Fin 16) (pos : Nat) (b : List Byte) (d : List Byte) (k : Nat) (count : Nat) (v : Stream), hbmUp s = true ∧
      runnable s q pos 0x15 (fun b => !descHeld s 0x15 b) = some b ∧ k = byteAt b 16 ∧ v = getStream s k ∧ count = leAt b 24 4 ∧ v.st = .fenced ∧
      v.pcap ≠ 0 ∧ streamDispatched s k = false ∧ count ≤ v.kvCap ∧ v.kvCap ≤ v.pcap ∧ v.kvBase % 64 = 0 ∧ haddrOk b = true ∧
      s.glb.dieFatal.testBit v.home = false) ∧
    (∃ (s : State) (q : Fin 16) (pos : Nat) (b : List Byte) (d : List Byte) (k : Nat) (count : Nat) (v : Stream), hbmUp s = true ∧
      runnable s q pos 0x15 (fun b => !descHeld s 0x15 b) = some b ∧ k = byteAt b 16 ∧ v = getStream s k ∧ count = leAt b 24 4 ∧ v.st = .fenced ∧
      v.pcap ≠ 0 ∧ streamDispatched s k = false ∧ v.kvCap < count) ∧
    (∃ (s : State) (q : Fin 16) (pos : Nat) (b : List Byte) (d : List Byte) (k : Nat) (count : Nat) (v : Stream), hbmUp s = true ∧
      runnable s q pos 0x15 (fun b => !descHeld s 0x15 b) = some b ∧ k = byteAt b 16 ∧ v = getStream s k ∧ count = leAt b 24 4 ∧ v.st = .fenced ∧
      v.pcap ≠ 0 ∧ streamDispatched s k = false ∧ count ≤ v.kvCap ∧ haddrOk b = true ∧ s.glb.dieFatal.testBit v.home = false) ∧
    (∃ (s : State) (q : Fin 16) (pos : Nat) (b : List Byte) (d : List Byte) (k : Nat) (count : Nat) (v : Stream), hbmUp s = true ∧
      runnable s q pos 0x15 (fun b => !descHeld s 0x15 b) = some b ∧ k = byteAt b 16 ∧ v = getStream s k ∧ count = leAt b 24 4 ∧ v.st ≠ .fenced) :=
  ⟨⟨dsc 0x10 (soB 1 5 0) (setStream 7 (open7 .draining 0 0) (setBank 3 1 (kvBank true) up)), 0, 0, dscB 0x10 (soB 1 5 0), 7, 3, 1, 1, 1, 0, 5,
    soReg, kvBank true, by decide +kernel⟩,
    ⟨dsc 0x10 (soB 1 5 0) up, 0, 0, dscB 0x10 (soB 1 5 0), 7, 3, 1, 1, 1, 0, 5, soReg, kvBank true, by decide +kernel⟩,
    ⟨soUp 1 5 25769802752 true up, 0, 0, dscB 0x10 (soB 1 5 25769802752), 7, 3, 1, 1, 1, 25769802752, 5, soReg, kvBank true, by decide +kernel⟩,
    ⟨soUp 4 5 0 false up, 0, 0, dscB 0x10 (soB 4 5 0), 7, 3, 1, 4, 4, 0, 5, soReg, kvBank false, by decide +kernel⟩,
    ⟨soUp 0 0 8192 true up, 0, 0, dscB 0x10 (soB 0 0 8192), 7, 3, 1, 0, 0, 8192, 0, soRegC 0, kvBank true, by decide +kernel⟩,
    ⟨soUp 0 5 8256 true up, 0, 0, dscB 0x10 (soB 0 5 8256), 7, 3, 1, 0, 0, 8256, 5, soReg, kvBank true, by decide +kernel⟩,
    ⟨soUp 1 5 8192 true up, 0, 0, dscB 0x10 (soB 1 5 8192), 7, 3, 1, 1, 1, 8192, 5, soReg, kvBank true, by decide +kernel⟩,
    ⟨soUp 1 5 0 false { up with glb := { up.glb with dieFatal := 2 } }, 0, 0, dscB 0x10 (soB 1 5 0), 7, 3, 1, 1, 1, 0, 5, soReg, kvBank false,
    by decide +kernel⟩,
    ⟨soUp 0x11 5 34359746560 false up, 0, 0, dscB 0x10 (soB 0x11 5 34359746560), 7, 3, 1, 1, 1, 34359746560, 5, soReg, kvBank false,
    by decide +kernel⟩,
    ⟨soUp 1 5 34359746560 true up, 0, 0, dscB 0x10 (soB 1 5 34359746560), 7, 3, 1, 1, 1, 34359746560, 5, soReg, kvBank true, by decide +kernel⟩,
    ⟨soUp 7 5 8192 true { up with groups := [groupS] }, 0, 0, dscB 0x10 (soB 7 5 8192), 7, 3, 1, 7, groupDie groupS, 8192, 5, soReg, kvBank true,
    by decide +kernel⟩,
    ⟨sdUp 0x11 0 (open7 .opened 5 5) [], 0, 0, dscB 0x11 (sdB 0), 7, by decide +kernel⟩,
    ⟨sdUp 0x11 0 (open7 .fenced 5 5) [], 0, 0, dscB 0x11 (sdB 0), 7, by decide +kernel⟩,
    ⟨sdUp 0x11 0 (open7 .opened 0 65535) [], 0, 0, dscB 0x11 (sdB 0), 7, by decide +kernel⟩,
    ⟨sdUp 0x11 0 (open7 .fenced 1 0) [msg7], 0, 0, dscB 0x11 (sdB 0), 7, by decide +kernel⟩,
    ⟨sdUp 0x11 0 Stream.init [], 0, 0, dscB 0x11 (sdB 0), 7, by decide +kernel⟩,
    ⟨sdUp 0x12 0 { kvStr .fenced with nextIn := 3, nextOut := 3 } [], 0, 0, dscB 0x12 (sdB 0), 7, by decide +kernel⟩,
    ⟨sdUp 0x12 1 { kvStr .fenced with nextIn := 3, nextOut := 3 } [], 0, 0, dscB 0x12 (sdB 1), 7, by decide +kernel⟩,
    ⟨sdUp 0x12 1 { kvStr .draining with nextIn := 1, closeWait := some (3, 4) } [msg7, { msg7 with mid := 4096, stream := 6 }], 0, 0,
    dscB 0x12 (sdB 1), 7, by decide +kernel⟩,
    ⟨sdUp 0x12 0 Stream.init [], 0, 0, dscB 0x12 (sdB 0), 7, by decide +kernel, by decide +kernel, Or.inl (by decide +kernel)⟩,
    ⟨sdUp 0x13 2 (open7 .fenced 0 0) [], 0, 0, dscB 0x13 (sdB 2), by decide +kernel⟩,
    ⟨sdUp 0x13 0 (open7 .fenced 1 0) [{ msg7 with held := true }], 0, 0, dscB 0x13 (sdB 0), 7, by decide +kernel⟩,
    ⟨sdUp 0x13 0 (open7 .fenced 0 0) [], 0, 0, dscB 0x13 (sdB 0), 7, by decide +kernel⟩,
    ⟨sdUp 0x13 0 (open7 .opened 0 0) [], 0, 0, dscB 0x13 (sdB 0), 7, by decide +kernel⟩,
    ⟨sdUp 0x13 1 (open7 .fenced 1 0) [{ msg7 with held := true }], 0, 0, dscB 0x13 (sdB 1), 7, by decide +kernel⟩,
    ⟨sdUp 0x13 1 (open7 .fenced 0 0) [], 0, 0, dscB 0x13 (sdB 1), 7, by decide +kernel⟩,
    ⟨sdUp 0x13 1 (open7 .opened 0 0) [], 0, 0, dscB 0x13 (sdB 1), 7, by decide +kernel⟩,
    ⟨sdUp 0x13 2 (open7 .fenced 0 0) [], 0, 0, dscB 0x13 (sdB 2), 7, by decide +kernel⟩,
    ⟨rdUp 1 2 (kvStr .opened) (kvMem []), 0, 0, dscB 0x14 (kvB 1 2), kvStr .opened, 1, 2, by decide +kernel, by decide +kernel, by decide +kernel,
    by decide +kernel, by decide +kernel, by decide +kernel, by decide +kernel, by decide +kernel, by decide +kernel, by decide +kernel,
    fun _ => rfl, fun _ => rfl, by decide +kernel⟩,
    ⟨rdUp 1 2 (kvStr .opened) (kvMem [(128, true)]), 0, 0, dscB 0x14 (kvB 1 2), kvStr .opened, 1, 2, (0, 0), 1, 128, by decide +kernel,
    by decide +kernel, by decide +kernel, by decide +kernel, by decide +kernel, by decide +kernel, by decide +kernel, by decide +kernel,
    by decide +kernel, by decide +kernel, by decide +kernel, fun _ => rfl, by decide +kernel⟩,
    ⟨rdUp 2 2 (kvStr .opened) (kvMem []), 0, 0, dscB 0x14 (kvB 2 2), kvStr .opened, 2, 2, by decide +kernel⟩,
    ⟨rdUp 1 2 { kvStr .opened with pcap := 0 } up, 0, 0, dscB 0x14 (kvB 1 2), { kvStr .opened with pcap := 0 }, 1, 2, by decide +kernel⟩,
    ⟨wrUp 2 (kvStr .fenced) kvCached, 0, 0, dscB 0x15 (kvB 0 2), [1#8, 2#8], 7, 2, kvStr .fenced, by decide +kernel⟩,
    ⟨wrUp 0 (kvStr .fenced) up, 0, 0, dscB 0x15 (kvB 0 0), [], 7, 0, kvStr .fenced, by decide +kernel⟩,
    ⟨wrUp 5 (kvStr .fenced) up, 0, 0, dscB 0x15 (kvB 0 5), [1#8], 7, 5, kvStr .fenced, by decide +kernel⟩,
    ⟨wrUp 2 (kvStr .fenced) up, 0, 0, dscB 0x15 (kvB 0 2), [], 7, 2, kvStr .fenced, by decide +kernel⟩,
    ⟨wrUp 2 (kvStr .opened) up, 0, 0, dscB 0x15 (kvB 0 2), [1#8], 7, 2, kvStr .opened, by decide +kernel⟩⟩

/-- `up` with some ring, and with parts of the host interface set. -/
def rgUp (r : Nat) (f : Ring → Ring) (s : State) : State := setRing r (f Ring.init) s
def hfUp (f : Hif → Hif) (s : State) : State := { s with hif := f s.hif }
/-- A ring's registers set while the ring and ring 7 have run; isolation left at 1000; a poll in progress; rings 2 and 18 running. -/
def rgSet (r : Nat) : State := setReg (0x0900 + 16 * r) 0x5678 (setReg (0x0904 + 16 * r) 2 (setReg (0x0908 + 16 * r) 31
  (rgUp 7 (fun g => { g with prod := 9 }) (rgUp r (fun g => { g with prod := 5, stop := true }) (sqWith [1#8])))))
def isoUp (iso : Iso) (dropped : Nat) : State :=
  hfUp (fun h => { h with dropped := dropped }) { up with glb := { up.glb with iso := iso, isoT0 := 1000 }, clk := { up.clk with now := 9000999 } }
def pollUp : State := hfUp (fun h => { h with polling := true }) (rgUp 2 (fun g => { g with en := true, prod := 62, cons := 60 })
  (rgUp 5 (fun g => { g with en := true, prod := 3 }) (rgUp 16 (fun g => { g with en := true, prod := 3, cons := 2 }) (rgUp 32 (fun g => { g with en := true }) up))))
def pageOf (w : Nat) : List Byte := List.replicate 8 0#8 ++ leBytes 4 w ++ List.replicate 244 0#8
def fetchUp (prod : Nat) (cq : Nat) : State := hfUp (fun h => { h with en := true, turn := 3 }) (rgUp 2 (fun g => { g with en := true, prod := prod, cons := 60 })
  (setSq 2 { Sq.init with descs := [{ pos := 59, bytes := [], st := .executing, tails := [] }] } (rgUp 18 (fun g => { g with en := true, prod := cq }) up)))
def shadowUp (due now : Nat) : State := { setReg 0x0C0C 0 (setReg 0x0C00 0x77 (setReg 0x0C08 0x99
  (hfUp (fun h => { h with en := true, shDirty := true, trig := [0, 63], shBase := 0x5000, shGen := 2 ^ 32 - 1, shDue := due }) up))) with clk := { up.clk with now := now } }
def modUp (now : Nat) : State := { setReg 0x0880 0x50012 (rgUp 16 (fun g => { g with pend := 3, oldest := 7 }) up) with clk := { up.clk with now := now } }
def pbaUp : State := setReg 0x0C10 0x77 (setReg 0x0C18 0x99 (hfUp (fun h => { h with pba := 7 }) up))

theorem witness_HostRings :
    (∃ (s : State), barUp s = true ∧ s.hif.en = false) ∧
    (∃ (s : State), barUp s = true) ∧
    (∃ (s : State) (r : Fin 36), barUp s = true ∧ r.val ≠ 32) ∧
    (∃ (s : State) (r : Fin 36), barUp s = true ∧ r.val ≠ 32) ∧
    (∃ (s : State) (r : Fin 36), barUp s = true ∧ r.val ≠ 32) ∧
    (∃ (s : State) (r : Fin 36), barUp s = true ∧ r.val ≠ 32) ∧
    (∃ (s : State) (r : Fin 36), barUp s = true ∧ r.val ≠ 32) ∧
    (∃ (s : State) (r : Fin 36), barUp s = true) ∧
    (∃ (s : State) (r : Fin 36), barUp s = true) ∧
    (∃ (s : State), barUp s = true ∧ s.glb.iso ≠ .on ∧ s.hif.backlog = []) ∧
    (∃ (s : State), barUp s = true ∧ s.glb.iso ≠ .on ∧ s.hif.backlog = []) ∧
    (∃ (s : State), s.hif.en = true ∧ s.hif.polling = false ∧ connected s = true ∧ s.hif.pollDue ≤ s.clk.now) ∧
    (∃ (s : State), s.hif.en = true ∧ s.hif.polling = false ∧ connected s = true ∧ s.clk.now < s.hif.pollDue) ∧
    (∃ (s : State) (page : List Byte) (timedOut : Bool) (bufs : List (BitVec 64)) (q : Fin 16) (w : Nat), s.hif.polling = true ∧
      connected s = true ∧ w = leAt page (4 * q) 4 ∧ ringRuns s q = true ∧ bitsOf w 0 16 < (getRing s q).size) ∧
    (∃ (s : State) (page : List Byte) (timedOut : Bool) (bufs : List (BitVec 64)) (q : Fin 16) (w : Nat), s.hif.polling = true ∧
      connected s = true ∧ w = leAt page (4 * q) 4 ∧ ringRuns s q = true ∧ bitsOf w 0 16 < (getRing s q).size) ∧
    (∃ (s : State) (page : List Byte) (timedOut : Bool) (bufs : List (BitVec 64)) (q : Fin 16) (w : Nat), s.hif.polling = true ∧
      connected s = true ∧ w = leAt page (4 * q) 4 ∧ ringRuns s q = true ∧ (getRing s q).size ≤ bitsOf w 0 16) ∧
    (∃ (s : State) (page : List Byte) (timedOut : Bool) (bufs : List (BitVec 64)) (q : Fin 16) (w : Nat), s.hif.polling = true ∧
      connected s = true ∧ w = leAt page (4 * q) 4 ∧ ringRuns s q = true) ∧
    (∃ (s : State) (q : Fin 16) (bs : List Byte) (timedOut : Bool) (n : Nat), ringRuns s q = true ∧ s.hif.en = true ∧ connected s = true ∧
      n = min 8 ((getRing s q).prod - (getRing s q).cons) ∧ n ≠ 0 ∧ (getRing s (cqOf s q)).full = false ∧ fetchNext s = some q.val) ∧
    (∃ (s : State) (q : Fin 16) (bs : List Byte) (timedOut : Bool) (n : Nat), ringRuns s q = true ∧ s.hif.en = true ∧ connected s = true ∧
      n = min 8 ((getRing s q).prod - (getRing s q).cons) ∧ n ≠ 0 ∧ (getRing s (cqOf s q)).full = false ∧ fetchNext s = some q.val) ∧
    (∃ (s : State) (q : Fin 16) (bs : List Byte) (timedOut : Bool), ((getRing s (cqOf s q)).full = true ∨ fetchNext s ≠ some q.val)) ∧
    (∃ (s : State) (q : Fin 16) (bs : List Byte) (timedOut : Bool), ((getRing s (cqOf s q)).full = true ∨ fetchNext s ≠ some q.val)) ∧
    (∃ (s : State), connected s = true ∧ s.hif.en = true ∧ s.hif.shDirty = true ∧ s.clk.now < s.hif.shDue) ∧
    (∃ (s : State), connected s = true ∧ s.hif.en = true ∧ s.hif.shDirty = true ∧ s.hif.shDue ≤ s.clk.now) ∧
    (∃ (s : State) (r : Fin 36), 16 ≤ r.val ∧ r.val ≠ 34 ∧ regF s (0x0880 + 4 * (r - 16)) 16 16 ≠ 0 ∧ 0 < (getRing s r).pend ∧
      (getRing s r).oldest + 1000 * regF s (0x0880 + 4 * (r - 16)) 16 16 ≤ s.clk.now) ∧
    (∃ (s : State) (r : Fin 36), 16 ≤ r.val ∧ r.val ≠ 34 ∧ regF s (0x0880 + 4 * (r - 16)) 16 16 ≠ 0 ∧ 0 < (getRing s r).pend ∧
      s.clk.now < (getRing s r).oldest + 1000 * regF s (0x0880 + 4 * (r - 16)) 16 16) ∧
    (∃ (s : State) (v : Fin 64), barUp s = true ∧ s.hif.pba.testBit v = true ∧ connected s = true) ∧
    (∃ (s : State) (v : Fin 64), barUp s = true ∧ s.hif.pba.testBit v = false) :=
  ⟨⟨setReg 0x0808 0x12345 (setReg 0x080C 3 (setReg 0x0810 0xFFFFF (rgUp 3 (fun g => { g with prod := 5 }) up))), by decide +kernel⟩,
    ⟨hfUp (fun h => { h with en := true, polling := true }) up, by decide +kernel⟩,
    ⟨rgSet 0, 0, by decide +kernel⟩,
    ⟨rgSet 15, 15, by decide +kernel⟩,
    ⟨rgSet 16, 16, by decide +kernel⟩,
    ⟨rgSet 34, 34, by decide +kernel⟩,
    ⟨rgSet 35, 35, by decide +kernel⟩,
    ⟨rgUp 3 (fun g => { g with en := true, prod := 5 }) up, 3, by decide +kernel⟩,
    ⟨rgUp 32 (fun g => { g with en := true, prod := 5 }) up, 32, by decide +kernel⟩,
    ⟨isoUp .perst 0, by decide +kernel⟩,
    ⟨isoUp .flr 3, by decide +kernel⟩,
    ⟨hfUp (fun h => { h with en := true, pollDue := 5 }) { up with clk := { up.clk with now := 5 } }, by decide +kernel⟩,
    ⟨hfUp (fun h => { h with en := true, pollDue := 5 }) { up with clk := { up.clk with now := 4 } }, by decide +kernel⟩,
    ⟨pollUp, pageOf 0x10003, false, [], 2, 0x10003, by decide +kernel⟩,
    ⟨pollUp, pageOf 63, false, [], 2, 63, by decide +kernel⟩,
    ⟨pollUp, pageOf 64, false, [], 2, 64, by decide +kernel⟩,
    ⟨pollUp, pageOf 64, true, [], 2, 64, by decide +kernel⟩,
    ⟨fetchUp 62 0, 2, [1#8, 2#8], false, 2, by decide +kernel⟩,
    ⟨fetchUp 124 0, 2, [1#8, 2#8], true, 8, by decide +kernel⟩,
    ⟨fetchUp 62 64, 2, [1#8], false, by decide +kernel⟩,
    ⟨fetchUp 62 0, 3, [1#8], false, by decide +kernel⟩,
    ⟨shadowUp 9 8, by decide +kernel⟩,
    ⟨shadowUp 9 9, by decide +kernel⟩,
    ⟨modUp 5007, 16, by decide +kernel⟩,
    ⟨modUp 5006, 16, by decide +kernel⟩,
    ⟨pbaUp, 1, by decide +kernel⟩,
    ⟨hfUp (fun h => { h with pba := 7 }) up, 63, by decide +kernel⟩⟩

theorem up_accepts (s : State) (a code : Nat) (h : (twpUp s && decide (addrKind s a = .full) && codeOffered s code) = true) : Accepts s a code := by
  simp only [Bool.and_eq_true, decide_eq_true_eq] at h
  exact ⟨h.1.1, h.1.2, h.2⟩
/-- `up` with a register of the two-wire port and a snapshot; with the copies of the dies' heat; with the identity fuses. -/
def twUp (off v : Nat) (s : State) : State := setReg off v { s with twp := { s.twp with snap := (List.range 50).map (BitVec.ofNat 8) } }
def hotCopies : State := setPlot 20 { Plot.init with sensor := 430, cap := 1 } (setPlot 21 { Plot.init with sensor := 200 }
  { up with yoke := { up.yoke with hot := [300, 320, 1, 2], caps := 18 } })
def otpUp : State := { up with glb := { up.glb with otp := { up.glb.otp with serial := 0x1122334455667788, rev := 0xABC, iodGen := 3 }, strapSeed := 5 } }
def evUp : State := setReg 0x0440 0x11 (setReg 0x381C 0x3 { up with alert := { latched := 5, pending := 4 } })
def temps3 : List (BitVec 16) := [0xFFF0#16, 0x8000#16, 0xFFFE#16]

theorem witness_TwoWireReads :
    (∃ (s : State) (a : Fin 128), Accepts s a 0x00) ∧
    (∃ (s : State) (a : Fin 128), Accepts s a 0x00) ∧
    (∃ (s : State) (a : Fin 128), Accepts s a 0x01) ∧
    (∃ (s : State) (a : Fin 128), Accepts s a 0x02) ∧
    (∃ (s : State) (a : Fin 128) (d : Fin 4), Accepts s a (0x10 + d)) ∧
    (∃ (s : State) (a : Fin 128) (d : Fin 4), Accepts s a (0x10 + d)) ∧
    (∃ (s : State) (a : Fin 128) (iod : List (BitVec 16)), Accepts s a 0x14 ∧ iod ≠ []) ∧
    (∃ (s : State) (a : Fin 128) (hbm : List (BitVec 16)), Accepts s a 0x15 ∧ hbm ≠ []) ∧
    (∃ (s : State) (a : Fin 128) (iod : List (BitVec 16)) (hbm : List (BitVec 16)), Accepts s a 0x16) ∧
    (∃ (s : State) (a : Fin 128), Accepts s a 0x17) ∧
    (∃ (s : State) (a : Fin 128) (w : _), w = thermalWord s) ∧
    (∃ (s : State) (a : Fin 128) (w : _) (d : _), w = thermalWord s ∧ d < 4) ∧
    (∃ (s : State) (a : Fin 128) (w : _), w = thermalWord s) ∧
    (∃ (s : State) (a : Fin 128), Accepts s a 0x20) ∧
    (∃ (s : State) (a : Fin 128), Accepts s a 0x21) ∧
    (∃ (s : State) (a : Fin 128), Accepts s a 0x30) ∧
    (∃ (s : State) (a : Fin 128), Accepts s a 0x31) ∧
    (∃ (s : State) (a : Fin 128) (n : _), Accepts s a 0x41 ∧ n = (if (getReg s 0x3800).testBit 2 then 248 else 32)) ∧
    (∃ (s : State) (a : Fin 128) (n : _), Accepts s a 0x41 ∧ n = (if (getReg s 0x3800).testBit 2 then 248 else 32)) ∧
    (∃ (s : State) (a : Fin 128), Accepts s a 0xF0) ∧
    (∃ (s : State) (a : Fin 128), Accepts s a 0xFE) ∧
    (∃ (s : State) (a : Fin 128) (code : Byte) (read : Bool), twpUp s = true ∧ addrKind s a ≠ .other ∧
      (if read then readCodes.contains code.toNat else writeCodes.contains code.toNat) = false) ∧
    (∃ (s : State) (a : Fin 128) (code : Byte) (read : Bool), twpUp s = true ∧ addrKind s a ≠ .other ∧
      (if read then readCodes.contains code.toNat else writeCodes.contains code.toNat) = false) ∧
    (∃ (s : State) (a : Fin 128), twpUp s = true ∧ addrKind s a = .full ∧ codeOffered s 0x20 = false) :=
  ⟨⟨otpUp, 0x58, up_accepts _ _ _ (by decide +kernel)⟩,
    ⟨{ up with glb := { up.glb with phase := .otp } }, 0x58, up_accepts _ _ _ (by decide +kernel)⟩,
    ⟨setReg 0x2880 6 { up with glb := { up.glb with dieFatal := 2, dieOk := 13, run := true } }, 0x58, up_accepts _ _ _ (by decide +kernel)⟩,
    ⟨evUp, 0x58, up_accepts _ _ _ (by decide +kernel)⟩,
    ⟨hotCopies, 0x58, 1, up_accepts _ _ _ (by decide +kernel)⟩,
    ⟨{ hotCopies with glb := { up.glb with dieFatal := 2 } }, 0x58, 1, up_accepts _ _ _ (by decide +kernel)⟩,
    ⟨up, 0x58, temps3, up_accepts _ _ _ (by decide +kernel), by decide +kernel⟩,
    ⟨up, 0x58, temps3, up_accepts _ _ _ (by decide +kernel), by decide +kernel⟩,
    ⟨hotCopies, 0x58, temps3, [], up_accepts _ _ _ (by decide +kernel)⟩,
    ⟨hotCopies, 0x58, up_accepts _ _ _ (by decide +kernel)⟩,
    ⟨hotCopies, 0x58, thermalWord hotCopies, by decide +kernel⟩,
    ⟨hotCopies, 0x58, thermalWord hotCopies, 3, by decide +kernel⟩,
    ⟨hotCopies, 0x58, thermalWord hotCopies, by decide +kernel⟩,
    ⟨setReg 0x2888 2400 up, 0x58, up_accepts _ _ _ (by decide +kernel)⟩,
    ⟨setReg 0x2880 4 (setReg 0x2894 77 up), 0x58, up_accepts _ _ _ (by decide +kernel)⟩,
    ⟨setReg 0x2880 6 up, 0x58, up_accepts _ _ _ (by decide +kernel)⟩,
    ⟨setReg 0x289C 1500 up, 0x58, up_accepts _ _ _ (by decide +kernel)⟩,
    ⟨twUp 0x3800 0 up, 0x58, 32, up_accepts _ _ _ (by decide +kernel), by decide +kernel⟩,
    ⟨twUp 0x3800 4 up, 0x58, 248, up_accepts _ _ _ (by decide +kernel), by decide +kernel⟩,
    ⟨{ up with twp := { up.twp with addrCfg := [1#8, 2#8, 3#8, 4#8] } }, 0x58, up_accepts _ _ _ (by decide +kernel)⟩,
    ⟨setReg 0x3800 6 (setReg 0x381C 0x23 up), 0x58, up_accepts _ _ _ (by decide +kernel)⟩,
    ⟨up, 0x58, 50, true, by decide +kernel⟩,
    ⟨up, 0x58, 65, false, by decide +kernel⟩,
    ⟨{ up with glb := { up.glb with phase := .links } }, 0x58, by decide +kernel⟩⟩

/-- The data bytes of a write with their PEC. -/
def withPec (code : Nat) (d : List Byte) : List Byte := d ++ [BitVec.ofNat 8 (pec ([BitVec.ofNat 8 (2 * 0x58), BitVec.ofNat 8 code] ++ d))]
theorem carries_pec (s : State) (code : Nat) (d : List Byte) : Carries s 0x58 code (withPec code d) d := Or.inl rfl
/-- YOKE in a state with a board request; counters about the ends of a snapshot; faults noted; alerts pending; a half-sent reply. -/
def boardUp (st : Nat) (b : Nat) : State := setReg 0x2880 st { up with glb := { up.glb with run := true }, yoke := { up.yoke with board := [b] } }
def cntUp2 : State := { up with cnt := [(62, 4#64), (63, 5#64), (88, 7#64)] }
def faultUp : State := setReg 0x381C 0x1F { up with glb := { up.glb with dieFatal := 2 }, alert := { latched := 0x7E, pending := 0x7E } }
def alertUp (p : Nat) : State := setReg 0x3818 0x40 (setReg 0x3804 0x100 { up with alert := { latched := 0x7F, pending := p } })
def replyUp (m : Nat) : State := { setReg 0x3800 m up with twp := { up.twp with reply := [1#8] } }

theorem witness_TwoWireWrites :
    (∃ (s : State) (a : Fin 128) (data : List Byte) (d : List Byte) (v : Nat), Accepts s a 0x30 ∧ Carries s a 0x30 data d ∧ d.length = 1 ∧
      v = byteAt d 0 ∧ v ≤ 2 ∧ s.glb.phase ≠ .failed) ∧
    (∃ (s : State) (a : Fin 128) (data : List Byte) (d : List Byte) (v : Nat), Accepts s a 0x30 ∧ Carries s a 0x30 data d ∧ d.length = 1 ∧
      v = byteAt d 0 ∧ v ≤ 2 ∧ s.glb.phase ≠ .failed) ∧
    (∃ (s : State) (a : Fin 128) (data : List Byte) (d : List Byte) (v : Nat), Accepts s a 0x30 ∧ Carries s a 0x30 data d ∧ d.length = 1 ∧
      v = byteAt d 0 ∧ 2 < v) ∧
    (∃ (s : State) (imon : List Nat) (duty : List (Fin 256)), yokeUp s = true ∧ s.yoke.board = [1]) ∧
    (∃ (s : State) (imon : List Nat) (duty : List (Fin 256)), yokeUp s = true ∧ s.yoke.board = [1]) ∧
    (∃ (s : State) (imon : List Nat) (duty : List (Fin 256)), yokeUp s = true ∧ s.yoke.board = [2]) ∧
    (∃ (s : State) (imon : List Nat) (duty : List (Fin 256)), yokeUp s = true ∧ s.yoke.board = [2]) ∧
    (∃ (s : State) (imon : List Nat) (duty : List (Fin 256)), yokeUp s = true ∧ s.yoke.board = [0]) ∧
    (∃ (s : State) (imon : List Nat) (duty : List (Fin 256)), yokeUp s = true ∧ s.yoke.board = [0]) ∧
    (∃ (s : State) (a : Fin 128) (data : List Byte) (d : List Byte), Accepts s a 0x31 ∧ Carries s a 0x31 data d ∧ d.length = 2 ∧
      160 ≤ leAt d 0 2 ∧ s.glb.phase ≠ .failed) ∧
    (∃ (s : State) (a : Fin 128) (data : List Byte) (d : List Byte), Accepts s a 0x31 ∧ Carries s a 0x31 data d ∧ d.length = 2 ∧
      160 ≤ leAt d 0 2 ∧ s.glb.phase ≠ .failed) ∧
    (∃ (s : State) (a : Fin 128) (data : List Byte) (d : List Byte), Accepts s a 0x31 ∧ Carries s a 0x31 data d ∧ d.length = 2 ∧ leAt d 0 2 < 160) ∧
    (∃ (s : State) (a : Fin 128) (data : List Byte) (d : List Byte), Accepts s a 0x32 ∧ Carries s a 0x32 data d ∧ d.length = 1 ∧
      (byteAt d 0 = 0xA5 ∨ byteAt d 0 = 0x5A) ∧ s.glb.deviceFatal = false ∧ s.glb.phase = .running ∧ s.glb.soft = .off) ∧
    (∃ (s : State) (a : Fin 128) (data : List Byte) (d : List Byte), Accepts s a 0x32 ∧ Carries s a 0x32 data d ∧ d.length = 1 ∧
      (byteAt d 0 = 0xA5 ∨ byteAt d 0 = 0x5A) ∧ s.glb.deviceFatal = false ∧ s.glb.phase = .running ∧ s.glb.soft = .off) ∧
    (∃ (s : State) (a : Fin 128) (data : List Byte) (d : List Byte), Accepts s a 0x32 ∧ Carries s a 0x32 data d ∧ d.length = 1 ∧
      byteAt d 0 ≠ 0xA5 ∧ byteAt d 0 ≠ 0x5A) ∧
    (∃ (s : State) (a : Fin 128) (data : List Byte) (d : List Byte) (w : Nat) (i : Nat) (n : Nat), Accepts s a 0x40 ∧ Carries s a 0x40 data d ∧
      d.length = 4 ∧ w = leAt d 0 4 ∧ i = bitsOf w 0 16 ∧ n = bitsOf w 16 8 ∧ 1 ≤ n ∧ n ≤ 31 ∧ i + n ≤ 4096 ∧ w < 2 ^ 25) ∧
    (∃ (s : State) (a : Fin 128) (data : List Byte) (d : List Byte) (w : Nat) (i : Nat) (n : Nat), Accepts s a 0x40 ∧ Carries s a 0x40 data d ∧
      d.length = 4 ∧ w = leAt d 0 4 ∧ i = bitsOf w 0 16 ∧ n = bitsOf w 16 8 ∧ 1 ≤ n ∧ n ≤ 31 ∧ i + n ≤ 4096 ∧ w < 2 ^ 25) ∧
    (∃ (s : State) (a : Fin 128) (data : List Byte) (d : List Byte) (w : Nat) (i : Nat) (n : Nat), Accepts s a 0x40 ∧ Carries s a 0x40 data d ∧
      d.length = 4 ∧ w = leAt d 0 4 ∧ i = bitsOf w 0 16 ∧ n = bitsOf w 16 8 ∧ (n = 0 ∨ 31 < n)) ∧
    (∃ (s : State) (a : Fin 128) (data : List Byte) (d : List Byte) (w : Nat) (i : Nat) (n : Nat), Accepts s a 0x40 ∧ Carries s a 0x40 data d ∧
      d.length = 4 ∧ w = leAt d 0 4 ∧ i = bitsOf w 0 16 ∧ n = bitsOf w 16 8 ∧ (n = 0 ∨ 31 < n)) ∧
    (∃ (s : State) (a : Fin 128) (data : List Byte) (d : List Byte), Accepts s a 0xF0 ∧ Carries s a 0xF0 data d ∧ d.length = 5 ∧ byteAt d 0 = 4 ∧
      byteAt data 0 = 4 ∧ addrCfgOk s (d.drop 1) = true) ∧
    (∃ (s : State) (a : Fin 128) (data : List Byte) (d : List Byte), Accepts s a 0xF0 ∧ Carries s a 0xF0 data d ∧ d.length = 5 ∧ byteAt d 0 = 4 ∧
      byteAt data 0 = 4 ∧ addrCfgOk s (d.drop 1) = true) ∧
    (∃ (s : State) (a : Fin 128) (data : List Byte) (d : List Byte), Accepts s a 0xF0 ∧ Carries s a 0xF0 data d ∧ d.length = 5 ∧ byteAt d 0 = 4 ∧
      byteAt data 0 = 4 ∧ addrCfgOk s (d.drop 1) = true) ∧
    (∃ (s : State) (a : Fin 128) (data : List Byte) (d : List Byte), Accepts s a 0xF0 ∧ Carries s a 0xF0 data d ∧ d.length = 5 ∧ byteAt d 0 = 4 ∧
      byteAt data 0 = 4 ∧ addrCfgOk s (d.drop 1) = false) ∧
    (∃ (s : State) (a : Fin 128) (data : List Byte) (d : List Byte), Accepts s a 0xF0 ∧ Carries s a 0xF0 data d ∧ d.length = 5 ∧ byteAt d 0 = 4 ∧
      byteAt data 0 = 4 ∧ addrCfgOk s (d.drop 1) = false) ∧
    (∃ (s : State) (a : Fin 128) (data : List Byte) (d : List Byte), Accepts s a 0xF0 ∧ Carries s a 0xF0 data d ∧ d.length = 5 ∧ byteAt d 0 = 4 ∧
      byteAt data 0 = 4 ∧ addrCfgOk s (d.drop 1) = false) ∧
    (∃ (s : State) (a : Fin 128) (data : List Byte) (d : List Byte), Accepts s a 0xFE ∧ Carries s a 0xFE data d ∧ d.length = 2) ∧
    (∃ (s : State) (a : Fin 128) (data : List Byte), Accepts s a 0xFE ∧ data.length = 3 ∧ byteAt data 2 ≠ pec ([BitVec.ofNat 8 (2 * a),
      0xFE#8] ++ data.take 2)) ∧
    (∃ (s : State) (a : Fin 128) (data : List Byte), Accepts s a 0xFF ∧ Carries s a 0xFF data []) ∧
    (∃ (s : State) (won : Bool) (b : Nat), twpUp s = true ∧ (onesOf 7 s.alert.pending).head? = some b) ∧
    (∃ (s : State) (won : Bool) (b : Nat), twpUp s = true ∧ (onesOf 7 s.alert.pending).head? = some b) ∧
    (∃ (s : State) (won : Bool) (b : Nat), twpUp s = true ∧ (onesOf 7 s.alert.pending).head? = some b) ∧
    (∃ (s : State) (won : Bool) (b : Nat), twpUp s = true ∧ (onesOf 7 s.alert.pending).head? = some b) ∧
    (∃ (s : State) (won : Bool), twpUp s = true ∧ (onesOf 7 s.alert.pending) = []) ∧
    (∃ (s : State) (own : Bool), twpUp s = true ∧ (getReg s 0x3800).testBit 0 = false) ∧
    (∃ (s : State) (own : Bool), twpUp s = true ∧ (getReg s 0x3800).testBit 0 = false) ∧
    (∃ (s : State) (own : Bool), twpUp s = true ∧ (getReg s 0x3800).testBit 0 = true ∧ own = true) ∧
    (∃ (s : State) (own : Bool), twpUp s = true ∧ (getReg s 0x3800).testBit 0 = true ∧ own = false) ∧
    (∃ (s : State) (own : Bool), twpUp s = true) ∧
    (∃ (s : State) (own : Bool), twpUp s = true) :=
  ⟨⟨setReg 0x2880 3 up, 0x58, withPec 0x30 [1#8], [1#8], 1, up_accepts _ _ _ (by decide +kernel), carries_pec _ _ _, by decide +kernel⟩,
    ⟨boardUp 6 2, 0x58, withPec 0x30 [0#8], [0#8], 0, up_accepts _ _ _ (by decide +kernel), carries_pec _ _ _, by decide +kernel⟩,
    ⟨up, 0x58, withPec 0x30 [3#8], [3#8], 3, up_accepts _ _ _ (by decide +kernel), carries_pec _ _ _, by decide +kernel⟩,
    ⟨boardUp 3 1, [], [], by decide +kernel⟩,
    ⟨boardUp 2 1, [], [], by decide +kernel⟩,
    ⟨boardUp 5 2, [], [], by decide +kernel⟩,
    ⟨boardUp 6 2, [], [], by decide +kernel⟩,
    ⟨boardUp 5 0, [], [], by decide +kernel⟩,
    ⟨boardUp 6 0, [], [], by decide +kernel⟩,
    ⟨up, 0x58, withPec 0x31 [160#8, 0#8], [160#8, 0#8], up_accepts _ _ _ (by decide +kernel), carries_pec _ _ _, by decide +kernel⟩,
    ⟨up, 0x58, withPec 0x31 [255#8, 255#8], [255#8, 255#8], up_accepts _ _ _ (by decide +kernel), carries_pec _ _ _, by decide +kernel⟩,
    ⟨up, 0x58, withPec 0x31 [159#8, 0#8], [159#8, 0#8], up_accepts _ _ _ (by decide +kernel), carries_pec _ _ _, by decide +kernel⟩,
    ⟨setReg 0x2880 4 up, 0x58, withPec 0x32 [165#8], [165#8], up_accepts _ _ _ (by decide +kernel), carries_pec _ _ _, by decide +kernel⟩,
    ⟨setReg 0x2880 4 up, 0x58, withPec 0x32 [90#8], [90#8], up_accepts _ _ _ (by decide +kernel), carries_pec _ _ _, by decide +kernel⟩,
    ⟨up, 0x58, withPec 0x32 [164#8], [164#8], up_accepts _ _ _ (by decide +kernel), carries_pec _ _ _, by decide +kernel⟩,
    ⟨cntUp2, 0x58, withPec 0x40 [62#8, 0#8, 3#8, 1#8], [62#8, 0#8, 3#8, 1#8], 16973886, 62, 3, up_accepts _ _ _ (by decide +kernel),
    carries_pec _ _ _, by decide +kernel⟩,
    ⟨cntUp2, 0x58, withPec 0x40 [225#8, 15#8, 31#8, 1#8], [225#8, 15#8, 31#8, 1#8], 18812897, 4065, 31, up_accepts _ _ _ (by decide +kernel),
    carries_pec _ _ _, by decide +kernel⟩,
    ⟨cntUp2, 0x58, withPec 0x40 [0#8, 0#8, 0#8, 0#8], [0#8, 0#8, 0#8, 0#8], 0, 0, 0, up_accepts _ _ _ (by decide +kernel), carries_pec _ _ _,
    by decide +kernel⟩,
    ⟨cntUp2, 0x58, withPec 0x40 [0#8, 0#8, 32#8, 0#8], [0#8, 0#8, 32#8, 0#8], 2097152, 0, 32, up_accepts _ _ _ (by decide +kernel),
    carries_pec _ _ _, by decide +kernel⟩,
    ⟨up, 0x58, withPec 0xF0 [4#8, 1#8, 160#8, 33#8, 179#8], [4#8, 1#8, 160#8, 33#8, 179#8], up_accepts _ _ _ (by decide +kernel), carries_pec _ _ _,
    by decide +kernel⟩,
    ⟨up, 0x58, withPec 0xF0 [4#8, 2#8, 32#8, 112#8, 0#8], [4#8, 2#8, 32#8, 112#8, 0#8], up_accepts _ _ _ (by decide +kernel), carries_pec _ _ _,
    by decide +kernel⟩,
    ⟨up, 0x58, withPec 0xF0 [4#8, 0#8, 160#8, 112#8, 9#8], [4#8, 0#8, 160#8, 112#8, 9#8], up_accepts _ _ _ (by decide +kernel), carries_pec _ _ _,
    by decide +kernel⟩,
    ⟨twUp 0x3804 0x100 up, 0x58, withPec 0xF0 [4#8, 1#8, 160#8, 160#8, 0#8], [4#8, 1#8, 160#8, 160#8, 0#8], up_accepts _ _ _ (by decide +kernel),
    carries_pec _ _ _, by decide +kernel⟩,
    ⟨twUp 0x3804 0x100 up, 0x58, withPec 0xF0 [4#8, 3#8, 0#8, 0#8, 0#8], [4#8, 3#8, 0#8, 0#8, 0#8], up_accepts _ _ _ (by decide +kernel),
    carries_pec _ _ _, by decide +kernel⟩,
    ⟨twUp 0x3804 0x100 up, 0x58, withPec 0xF0 [4#8, 2#8, 88#8, 112#8, 0#8], [4#8, 2#8, 88#8, 112#8, 0#8], up_accepts _ _ _ (by decide +kernel),
    carries_pec _ _ _, by decide +kernel⟩,
    ⟨up, 0x58, withPec 0xFE [246#8, 9#8], [246#8, 9#8], up_accepts _ _ _ (by decide +kernel), carries_pec _ _ _, by decide +kernel⟩,
    ⟨up, 0x58, [6#8, 9#8, 1#8], up_accepts _ _ _ (by decide +kernel), by decide +kernel⟩,
    ⟨faultUp, 0x58, withPec 0xFF ([] : List Byte), up_accepts _ _ _ (by decide +kernel), carries_pec _ _ _⟩,
    ⟨alertUp 72, true, 3, by decide +kernel⟩,
    ⟨alertUp 72, false, 3, by decide +kernel⟩,
    ⟨alertUp 32, true, 5, by decide +kernel⟩,
    ⟨alertUp 32, false, 5, by decide +kernel⟩,
    ⟨up, true, by decide +kernel⟩,
    ⟨replyUp 0, true, by decide +kernel⟩,
    ⟨replyUp 0, false, by decide +kernel⟩,
    ⟨replyUp 1, true, by decide +kernel⟩,
    ⟨replyUp 1, false, by decide +kernel⟩,
    ⟨replyUp 0, true, by decide +kernel⟩,
    ⟨replyUp 0, false, by decide +kernel⟩⟩

/-- `up` with a TAP instruction current, a RUN held, and some cells. -/
def tapUp (held run : Bool) : State :=
  { up with
    glb := { up.glb with runHeld := held, run := run }
    tap := { up.tap with ir := .bypass, tlr := false, diesel := 0x1F, cells := [(7, true)] } }

theorem witness_TestAccess :
    ((tapUp false false).glb.powered = true) ∧
    ((tapUp false false).glb.powered = true) ∧
    ((tapUp true false).glb.powered = true) ∧
    ((tapUp true false).glb.powered = true) ∧
    ((tapUp false false).glb.powered = true) ∧
    (((fun u : State => { u with glb := { u.glb with otp := { u.glb.otp with rev := 0x25 } } }) (tapUp false false)).glb.powered = true) ∧
    ((tapUp false false).glb.powered = true) ∧
    (((fun u : State => { u with clk := { u.clk with dllLock := 15 } }) (tapUp false false)).glb.powered = true) ∧
    (((fun u : State => { u with clk := { u.clk with dllLock := 5 } }) (tapUp false false)).glb.powered = true) ∧
    ((tapUp false false).glb.powered = true ∧ (0x7FFF#16).toNat / 4 * 4 < 0x8000) ∧
    ((tapUp true false).glb.powered = true) ∧
    (((fun u : State => { u with glb := { u.glb with otp := { u.glb.otp with rev := 0x25 } } }) (tapUp true false)).glb.powered = true) ∧
    ((tapUp true false).glb.powered = true) ∧
    (((fun u : State => { u with clk := { u.clk with dllLock := 15 } }) (tapUp true false)).glb.powered = true) ∧
    (((fun u : State => { u with clk := { u.clk with dllLock := 5 } }) (tapUp true false)).glb.powered = true) ∧
    ((tapUp true false).glb.powered = true ∧ (0x7FFF#16).toNat / 4 * 4 < 0x8000) ∧
    ((tapUp false true).glb.powered = true) ∧
    (((fun u : State => { u with glb := { u.glb with otp := { u.glb.otp with rev := 0x25 } } }) (tapUp false true)).glb.powered = true) ∧
    ((tapUp false true).glb.powered = true) ∧
    (((fun u : State => { u with clk := { u.clk with dllLock := 15 } }) (tapUp false true)).glb.powered = true) ∧
    (((fun u : State => { u with clk := { u.clk with dllLock := 5 } }) (tapUp false true)).glb.powered = true) ∧
    ((tapUp false true).glb.powered = true ∧ (0x7FFF#16).toNat / 4 * 4 < 0x8000) ∧
    ((tapUp false false).glb.powered = true ∧ (tapUp false false).glb.run = false) ∧
    ((tapUp false false).glb.powered = true ∧ (tapUp false false).glb.run = false) ∧
    ((tapUp false false).glb.powered = true ∧ (tapUp false false).glb.run = false) ∧
    ((tapUp false false).glb.powered = true ∧ (tapUp false false).glb.run = false) ∧
    ((tapUp false false).glb.powered = true ∧ (tapUp false false).glb.run = false) ∧
    (((fun u : State => setReg 0x8010 2 { u with mem := { u.mem with hbm := [(5, 7#8), (2 * 2 ^ 35 + 3, 9#8)], poison := [(1, true), (2 ^ 31 + 1, true)], softLanes := [(1, 4)] }, glb := { u.glb with hardLanes := [(1, 5)] } }) (tapUp false false)).glb.powered = true ∧ ((fun u : State => setReg 0x8010 2 { u with mem := { u.mem with hbm := [(5, 7#8), (2 * 2 ^ 35 + 3, 9#8)], poison := [(1, true), (2 ^ 31 + 1, true)], softLanes := [(1, 4)] }, glb := { u.glb with hardLanes := [(1, 5)] } }) (tapUp false false)).glb.run = false) ∧
    (((fun u : State => setReg 0x8010 2 { u with mem := { u.mem with hbm := [(5, 7#8), (2 * 2 ^ 35 + 3, 9#8)], poison := [(1, true), (2 ^ 31 + 1, true)], softLanes := [(1, 4)] }, glb := { u.glb with hardLanes := [(1, 5)] } }) (tapUp false false)).glb.powered = true ∧ ((fun u : State => setReg 0x8010 2 { u with mem := { u.mem with hbm := [(5, 7#8), (2 * 2 ^ 35 + 3, 9#8)], poison := [(1, true), (2 ^ 31 + 1, true)], softLanes := [(1, 4)] }, glb := { u.glb with hardLanes := [(1, 5)] } }) (tapUp false false)).glb.run = false) ∧
    (((fun u : State => setReg 0x8010 2 { u with mem := { u.mem with hbm := [(5, 7#8), (2 * 2 ^ 35 + 3, 9#8)], poison := [(1, true), (2 ^ 31 + 1, true)], softLanes := [(1, 4)] }, glb := { u.glb with hardLanes := [(1, 5)] } }) (tapUp false false)).glb.powered = true ∧ ((fun u : State => setReg 0x8010 2 { u with mem := { u.mem with hbm := [(5, 7#8), (2 * 2 ^ 35 + 3, 9#8)], poison := [(1, true), (2 ^ 31 + 1, true)], softLanes := [(1, 4)] }, glb := { u.glb with hardLanes := [(1, 5)] } }) (tapUp false false)).glb.run = false) ∧
    (((fun u : State => setReg 0x8010 2 { u with mem := { u.mem with hbm := [(5, 7#8), (2 * 2 ^ 35 + 3, 9#8)], poison := [(1, true), (2 ^ 31 + 1, true)], softLanes := [(1, 4)] }, glb := { u.glb with hardLanes := [(1, 5)] } }) (tapUp false false)).glb.powered = true ∧ ((fun u : State => setReg 0x8010 2 { u with mem := { u.mem with hbm := [(5, 7#8), (2 * 2 ^ 35 + 3, 9#8)], poison := [(1, true), (2 ^ 31 + 1, true)], softLanes := [(1, 4)] }, glb := { u.glb with hardLanes := [(1, 5)] } }) (tapUp false false)).glb.run = false) ∧
    (((fun u : State => setReg 0x8010 2 { u with mem := { u.mem with hbm := [(5, 7#8), (2 * 2 ^ 35 + 3, 9#8)], poison := [(1, true), (2 ^ 31 + 1, true)], softLanes := [(1, 4)] }, glb := { u.glb with hardLanes := [(1, 5)] } }) (tapUp false false)).glb.powered = true ∧ ((fun u : State => setReg 0x8010 2 { u with mem := { u.mem with hbm := [(5, 7#8), (2 * 2 ^ 35 + 3, 9#8)], poison := [(1, true), (2 ^ 31 + 1, true)], softLanes := [(1, 4)] }, glb := { u.glb with hardLanes := [(1, 5)] } }) (tapUp false false)).glb.run = false) ∧
    (((fun u : State => setReg 0x8010 2 { u with mem := { u.mem with hbm := [(5, 7#8), (2 * 2 ^ 35 + 3, 9#8)], poison := [(1, true), (2 ^ 31 + 1, true)], softLanes := [(1, 4)] }, glb := { u.glb with hardLanes := [(1, 5)] } }) (tapUp false false)).glb.powered = true ∧ ((fun u : State => setReg 0x8010 2 { u with mem := { u.mem with hbm := [(5, 7#8), (2 * 2 ^ 35 + 3, 9#8)], poison := [(1, true), (2 ^ 31 + 1, true)], softLanes := [(1, 4)] }, glb := { u.glb with hardLanes := [(1, 5)] } }) (tapUp false false)).glb.run = false) ∧
    ((tapUp true false).glb.powered = true ∧ (tapUp true false).glb.run = false) ∧
    ((tapUp true false).glb.powered = true ∧ (tapUp true false).glb.run = false) ∧
    ((tapUp true false).glb.powered = true ∧ (tapUp true false).glb.run = false) ∧
    ((tapUp true false).glb.powered = true ∧ (tapUp true false).glb.run = false) ∧
    ((tapUp true false).glb.powered = true ∧ (tapUp true false).glb.run = false) ∧
    (((fun u : State => setReg 0x8010 2 { u with mem := { u.mem with hbm := [(5, 7#8), (2 * 2 ^ 35 + 3, 9#8)], poison := [(1, true), (2 ^ 31 + 1, true)], softLanes := [(1, 4)] }, glb := { u.glb with hardLanes := [(1, 5)] } }) (tapUp true false)).glb.powered = true ∧ ((fun u : State => setReg 0x8010 2 { u with mem := { u.mem with hbm := [(5, 7#8), (2 * 2 ^ 35 + 3, 9#8)], poison := [(1, true), (2 ^ 31 + 1, true)], softLanes := [(1, 4)] }, glb := { u.glb with hardLanes := [(1, 5)] } }) (tapUp true false)).glb.run = false) ∧
    (((fun u : State => setReg 0x8010 2 { u with mem := { u.mem with hbm := [(5, 7#8), (2 * 2 ^ 35 + 3, 9#8)], poison := [(1, true), (2 ^ 31 + 1, true)], softLanes := [(1, 4)] }, glb := { u.glb with hardLanes := [(1, 5)] } }) (tapUp true false)).glb.powered = true ∧ ((fun u : State => setReg 0x8010 2 { u with mem := { u.mem with hbm := [(5, 7#8), (2 * 2 ^ 35 + 3, 9#8)], poison := [(1, true), (2 ^ 31 + 1, true)], softLanes := [(1, 4)] }, glb := { u.glb with hardLanes := [(1, 5)] } }) (tapUp true false)).glb.run = false) ∧
    (((fun u : State => setReg 0x8010 2 { u with mem := { u.mem with hbm := [(5, 7#8), (2 * 2 ^ 35 + 3, 9#8)], poison := [(1, true), (2 ^ 31 + 1, true)], softLanes := [(1, 4)] }, glb := { u.glb with hardLanes := [(1, 5)] } }) (tapUp true false)).glb.powered = true ∧ ((fun u : State => setReg 0x8010 2 { u with mem := { u.mem with hbm := [(5, 7#8), (2 * 2 ^ 35 + 3, 9#8)], poison := [(1, true), (2 ^ 31 + 1, true)], softLanes := [(1, 4)] }, glb := { u.glb with hardLanes := [(1, 5)] } }) (tapUp true false)).glb.run = false) ∧
    (((fun u : State => setReg 0x8010 2 { u with mem := { u.mem with hbm := [(5, 7#8), (2 * 2 ^ 35 + 3, 9#8)], poison := [(1, true), (2 ^ 31 + 1, true)], softLanes := [(1, 4)] }, glb := { u.glb with hardLanes := [(1, 5)] } }) (tapUp true false)).glb.powered = true ∧ ((fun u : State => setReg 0x8010 2 { u with mem := { u.mem with hbm := [(5, 7#8), (2 * 2 ^ 35 + 3, 9#8)], poison := [(1, true), (2 ^ 31 + 1, true)], softLanes := [(1, 4)] }, glb := { u.glb with hardLanes := [(1, 5)] } }) (tapUp true false)).glb.run = false) ∧
    (((fun u : State => setReg 0x8010 2 { u with mem := { u.mem with hbm := [(5, 7#8), (2 * 2 ^ 35 + 3, 9#8)], poison := [(1, true), (2 ^ 31 + 1, true)], softLanes := [(1, 4)] }, glb := { u.glb with hardLanes := [(1, 5)] } }) (tapUp true false)).glb.powered = true ∧ ((fun u : State => setReg 0x8010 2 { u with mem := { u.mem with hbm := [(5, 7#8), (2 * 2 ^ 35 + 3, 9#8)], poison := [(1, true), (2 ^ 31 + 1, true)], softLanes := [(1, 4)] }, glb := { u.glb with hardLanes := [(1, 5)] } }) (tapUp true false)).glb.run = false) ∧
    (((fun u : State => setReg 0x8010 2 { u with mem := { u.mem with hbm := [(5, 7#8), (2 * 2 ^ 35 + 3, 9#8)], poison := [(1, true), (2 ^ 31 + 1, true)], softLanes := [(1, 4)] }, glb := { u.glb with hardLanes := [(1, 5)] } }) (tapUp true false)).glb.powered = true ∧ ((fun u : State => setReg 0x8010 2 { u with mem := { u.mem with hbm := [(5, 7#8), (2 * 2 ^ 35 + 3, 9#8)], poison := [(1, true), (2 ^ 31 + 1, true)], softLanes := [(1, 4)] }, glb := { u.glb with hardLanes := [(1, 5)] } }) (tapUp true false)).glb.run = false) ∧
    ((tapUp false true).glb.powered = true ∧ (tapUp false true).glb.run = true) ∧
    ((tapUp false true).glb.powered = true ∧ (tapUp false true).glb.run = true) ∧
    ((tapUp false true).glb.powered = true ∧ (tapUp false true).glb.run = true) ∧
    ((tapUp false true).glb.powered = true ∧ (tapUp false true).glb.run = true) ∧
    ((tapUp false true).glb.powered = true ∧ (tapUp false true).glb.run = true) ∧
    ((tapUp false true).glb.powered = true ∧ (tapUp false true).glb.run = true) ∧
    ((tapUp false false).glb.powered = true ∧ (tapUp false false).glb.run = false ∧ (tapUp false false).glb.runHeld = false ∧ heldInReset (tapUp false false) = false) ∧
    ((setReg 0x8004 77 (tapUp false false)).glb.powered = true ∧ (setReg 0x8004 77 (tapUp false false)).glb.run = false ∧ (setReg 0x8004 77 (tapUp false false)).glb.runHeld = false ∧ heldInReset (setReg 0x8004 77 (tapUp false false)) = false) ∧
    ((setReg 0x8004 77 (tapUp false false)).glb.powered = true ∧ (setReg 0x8004 77 (tapUp false false)).glb.run = false ∧ (setReg 0x8004 77 (tapUp false false)).glb.runHeld = false ∧ heldInReset (setReg 0x8004 77 (tapUp false false)) = false) ∧
    ((tapUp false true).glb.powered = true ∧ (tapUp false true).glb.run = true ∧ (tapUp false true).glb.runHeld = false) ∧
    ((tapUp false true).glb.powered = true ∧ (tapUp false true).glb.run = true ∧ (tapUp false true).glb.runHeld = false) ∧
    ((tapUp false true).glb.powered = true ∧ (tapUp false true).glb.run = true ∧ (tapUp false true).glb.runHeld = false) ∧
    ((tapUp false true).glb.powered = true ∧ (tapUp false true).glb.run = true ∧ (tapUp false true).glb.runHeld = false) :=
  by refine ⟨?_, ?_, ?_, ?_, ?_, ?_, ?_, ?_, ?_, ?_, ?_, ?_, ?_, ?_, ?_, ?_, ?_, ?_, ?_, ?_, ?_, ?_, ?_, ?_, ?_, ?_, ?_, ?_, ?_, ?_, ?_, ?_, ?_, ?_, ?_, ?_, ?_, ?_, ?_, ?_, ?_, ?_, ?_, ?_, ?_, ?_, ?_, ?_, ?_, ?_, ?_, ?_, ?_, ?_, ?_, ?_, ?_⟩ <;> decide +kernel

/-! ### Helpers -/

/-- The state that a command goes on to. -/
def nextOf (o : Out) : Option State := match o with | .next t => some t | _ => none

/-! ### The manual's worked examples -/

/-- Table TWP-5: the PEC over 0xB0, 0x31, 0xE8, 0x03 after each byte. -/
theorem test_pec : pec [0xB0#8] = 0x19 ∧ pec [0xB0#8, 0x31#8] = 0xD8 ∧ pec [0xB0#8, 0x31#8, 0xE8#8] = 0x90 ∧
    pec [0xB0#8, 0x31#8, 0xE8#8, 0x03#8] = 0xF0 := by decide +kernel

/-- The example before Table TWP-5: CEILING_SET with 250 W and its PEC reaches the Yoke as the board's ceiling of 1,000 units. -/
theorem test_ceilingSet : (nextOf (execCeilingSet 0x58 [0xE8#8, 0x03#8, 0xF0#8] up)).map (fun t => t.yoke.ceils) = some [(1, 1000)] := by
  decide +kernel

/-- The same write with a wrong PEC is refused (R423). -/
theorem test_ceilingSet_bad_pec : (nextOf (execCeilingSet 0x58 [0xE8#8, 0x03#8, 0xF1#8] up)).map (fun t => (t.yoke.ceils, t.twp.nacked)) =
    some ([], true) := by decide +kernel

/-- Tile 5 at the FP16 product of Table FMT-3, in a mode. -/
def mulUp (mode : Nat) : State := setTile 5 { wTile 0x60611028 with v := [(1, 0x3C01), (2, 0x03FF)], mode := mode } running

/-- Table FMT-3: lane 0 of v3 and the flags by RTZ and FTZ; UF is flag 3 and IX flag 4 of Table TIL-3. -/
theorem test_valu_tininess :
    (nextOf (execValu 5 (mulUp 0))).map (fun t => (getV (getTile t 5) 3 % 65536, (getTile t 5).flags)) = some (0x0400, 16) ∧
    (nextOf (execValu 5 (mulUp 1))).map (fun t => (getV (getTile t 5) 3 % 65536, (getTile t 5).flags)) = some (0x03FF, 24) ∧
    (nextOf (execValu 5 (mulUp 2))).map (fun t => (getV (getTile t 5) 3 % 65536, (getTile t 5).flags)) = some (0, 0) ∧
    (nextOf (execValu 5 (mulUp 3))).map (fun t => (getV (getTile t 5) 3 % 65536, (getTile t 5).flags)) = some (0, 0) := by decide +kernel

/-- The tile of the example of Table TIL-10 at a word, with the accumulators that the step before left. -/
def macUp (w : Word) (a1 a2 s6 : Nat) : State :=
  setTile 5 { wTile w with
    zpa := 0x80
    v := [(2, 0xE5), (3, BitVec.ofNat 512 (125 * 2 ^ 80 + 135 * 2 ^ 88))]
    a := [(1, BitVec.ofNat 3072 a1), (2, BitVec.ofNat 3072 a2)]
    s := [(5, 0xFFFFFFFE), (6, BitVec.ofNat 32 s6)] } running

/-- Table TIL-10, VMACB: a1[0] = 971. -/
theorem test_vmacb : (nextOf (execVmacb 5 (macUp 0x854C501C 1000 10000 0))).map (fun t => getA (getTile t 5) 1 % 2 ^ 48) = some 971 := by
  decide +kernel

/-- Table TIL-10, GRS: a2[0] = 10,243 and a1[0] = 0. -/
theorem test_grs : (nextOf (execGrs 5 (macUp 0xA0412800 971 10000 0))).map (fun t => (getA (getTile t 5) 2 % 2 ^ 48, getA (getTile t 5) 1 % 2 ^ 48)) =
    some (10243, 0) := by decide +kernel

/-- Table TIL-10, REQ: lane 0 of v4 is 98 with N = 21; with N = 20 it saturates to 127 and sets SAT. -/
theorem test_req : (nextOf (execReq 5 (macUp 0xA4823002 0 10243 0x00154E20))).map (fun t => (getV (getTile t 5) 4 % 256, (getTile t 5).flags)) =
      some (98, 0) ∧
    (nextOf (execReq 5 (macUp 0xA4823002 0 10243 0x00144E20))).map (fun t => (getV (getTile t 5) 4 % 256, (getTile t 5).flags)) = some (127, 32) := by
  decide +kernel

/-- Table QNT-3: a tie at d = −1 rounds to even, and the requantised sum is 13. -/
theorem test_grs_tie : (nextOf (execGrs 5 (setTile 5 { getTile (macUp 0xA0412800 1237 0 0) 5 with s := [(5, 0xFFFFFFFF)] } running))).map
      (fun t => getA (getTile t 5) 2 % 2 ^ 48) = some 618 ∧
    (nextOf (execReq 5 (macUp 0xA4823002 0 212 (1 + 4 * 65536)))).map (fun t => getV (getTile t 5) 4 % 256) = some 13 := by decide +kernel

/-- The stream of the example after R121. -/
def kvExample : Stream :=
  { Stream.init with st := .opened, kvCap := 4096, pcap := 4100, newPos := 4, kvBase := 0x1040000000, kvL := 12, kvH := 2, kvE := 64,
                     kvLen := 4094, kvHead := 4097 }

/-- The rows' size and the DPA of layer 5, V, slot 4,099 (example after R121), its stack and die (example after R248). -/
theorem test_kvAddr : kvRow kvExample = 64 ∧ kvAddr kvExample 5 1 4099 = 0x1040300BC0 ∧ stackOf 0x1040300BC0 = 2 := by decide

/-- The example after R123: KV_HEAD becomes 1 and KV_LEN 4,096. -/
theorem test_commitKv : getStream (commitKv msg0 (setStream 7 kvExample running)) 7 = { kvExample with kvHead := 1, kvLen := 4096 } := by decide +kernel

/-- Table SYN-4: SO40, a barrier of three at generation 7; each ADD 1 and the values it leaves. -/
def barUp40 (v : Nat) : State := setReg 0x3D44 (2 + 3 * 65536) (setReg 0x3D40 v up)
theorem test_barrier : synVal (synApply .add 300 40 1 (barUp40 0x00070000)).1 40 = 0x00070001 ∧
    synVal (synApply .add 10 40 1 (barUp40 0x00070001)).1 40 = 0x00070002 ∧
    synVal (synApply .add 700 40 1 (barUp40 0x00070002)).1 40 = 0x00080000 := by decide +kernel

/-- Watch entry 53 of Table QNT-5 before its eighth summary: CLIP mode, INT8, WIN 16, threshold 655. -/
def watch53 : State :=
  setBank 3 0 { Bank.init with st := .active }
    { up with tables := [(0x300035, leBytes 4 (1 + 8 + 16 * 256) ++ leBytes 4 655 ++ leBytes 4 57344 ++ leBytes 4 630 ++ leBytes 4 128)] }

/-- Table QNT-5: the eighth summary, 8,192 counted and 90 clipped, closes the window; QNT_DRIFT carries 720 and 65,536. -/
theorem test_watch : leAt (tblEntry (applySummary 53 8192 90 128 watch53) 0x30 53) 20 4 = 65536 ∧
    leAt (tblEntry (applySummary 53 8192 90 128 watch53) 0x30 53) 24 4 = 720 ∧
    leAt (tblEntry (applySummary 53 8192 90 128 watch53) 0x30 53) 28 4 = 1 ∧
    byteAt (tblEntry (applySummary 53 8192 90 128 watch53) 0x30 53) 17 = 128 ∧
    (applySummary 53 8192 90 128 watch53).hif.backlog.map (fun e => (e.code, e.src, e.a0, e.a1, e.a2)) = [(0x0701, 53, 720, 65536, 0)] := by
  decide +kernel

/-- The example of two counters: TRK_CW_UNCORR of TRK4 at BAR0 0x5A88 on page 0, DLK_RETRAIN_CNT of link 5 at 0x44F0 on page 1. -/
theorem test_counterAt : counterAt (setReg 0x0018 0 up) 0x5A88 = 849 ∧ counterAt (setReg 0x0018 1 up) 0x44F0 = 2206 := by decide +kernel

/-- The encoding of slot 8 of Table RPL-7, alone in a template; the output code 98 becomes FP16 0x3E20. -/
theorem test_outputSlot :
    decodeSlot (List.replicate 288 0#8 ++ leBytes 4 0x00360011 ++ leBytes 4 0x03A82040) 0 =
      { kind := 1, be := true, doff := 54, len := 64, sfmt := 2, dfmt := 8, oshift := -6, src := 0, sbase := 0, l4off := 0 } ∧
    (fmtOf 2).bind (fun a => (fmtOf 8).map (fun b => (convert a b FpMode.plain (-6) 98).1)) = some 0x3E20 := by decide +kernel

/-- The schedule of the sign-on example on TRK3: 20 stations of 160 units, repair every 8, two contention slots. -/
def trk3Up : State :=
  setReg 0x1600 9 (setReg 0x1630 8 (setReg 0x1634 288 (setReg 0x1624 2
    { up with tables := (List.range 20).map (fun i => (0x100060 + i, leBytes 4 (i + 256 + 160 * 65536))) })))
theorem test_schedule : (scheduleOf trk3Up 3 (List.range 20) 2).map (fun e => (e.kind, e.start, e.len)) =
    (List.range 8).map (fun i => (0, 160 * i, 160)) ++ [(2, 1280, 288)] ++ (List.range 8).map (fun i => (0, 1568 + 160 * i, 160)) ++
    [(2, 2848, 288)] ++ (List.range 4).map (fun i => (0, 3136 + 160 * i, 160)) ++ [(2, 3776, 288), (1, 4064, 112), (1, 4176, 112)] := by
  decide +kernel

/-! ### Published check values: CRC-32, CRC-32C, the CRC-8 of SMBus, and AES-128 -/

/-- The nine bytes '1' to '9'. -/
def digits : List Byte := (List.range 9).map (fun i => BitVec.ofNat 8 (0x31 + i))

/-- The catalogue's check values for CRC-32, CRC-32C and CRC-8. -/
theorem test_crcs : crc32 digits = 0xCBF43926 ∧ crc32c digits = 0xE3069283 ∧ pec digits = 0xF4 := by decide +kernel

/-! ### An ill-formed command for each check of well-formedness -/

theorem test_wf_fm63 : Instr.wf (.powerOn 2 0 0 (List.replicate 33 0#8) 0 0) = false := by decide +kernel
theorem test_wf_quads : Instr.wf (.bringupLinksTrained []) = false := by decide +kernel
theorem test_wf_wire_short : Instr.wf (.codewordDecode 0 (List.replicate 64 1)) = false := by decide +kernel
theorem test_wf_wire_level : Instr.wf (.codewordDecode 0 (List.replicate 68 0)) = false := by decide +kernel
theorem test_wf_header : Instr.wf (.burstHeader 0 (List.replicate 52 3) 0) = false := by decide +kernel
theorem test_wf_final : Instr.wf (.burstEnd 0 (List.replicate 33 0#8) 0 false 0 0) = false := by decide +kernel
theorem test_wf_bbpBytes : Instr.wf (.bbpBytesAvailable 0 [] false 0) = false := by decide +kernel
theorem test_wf_outs : Instr.wf (.passComplete 0 0 (List.replicate 33 (0, [])) []) = false := by decide +kernel
theorem test_wf_hbmRead : Instr.wf (.hbmRead 0 0 0 0 (List.replicate 37 0#8) []) = false := by decide +kernel
theorem test_wf_hbmWrite : Instr.wf (.hbmWrite 0 0 0 0 []) = false := by decide +kernel
theorem test_wf_scrubRead : Instr.wf (.scrubRead 0 (List.replicate 37 0#8) false) = false := by decide +kernel
theorem test_wf_coherence : Instr.wf (.coherenceRequest 0 0 2 0 []) = false := by decide +kernel
theorem test_wf_bar2 : Instr.wf (.bar2Write 0 []) = false := by decide +kernel
theorem test_wf_flitErr : Instr.wf (.flitReceive 0 0 [] [] (List.replicate 5 0)) = false := by decide +kernel
theorem test_wf_flitBody : Instr.wf (.flitReceive 0 0 [(0, 0#8, [])] [] []) = false := by decide +kernel
theorem test_wf_bar2Read : Instr.wf (.bar2Read 0 0 [(0, List.replicate 37 0#8)]) = false := by decide +kernel
theorem test_wf_imon : Instr.wf (.yokeEpoch [0, 0, 0, 0, 0, 0] []) = false := by decide +kernel
theorem test_wf_refit : Instr.wf (.calibrationRefit [] [0, 0, 0, 0]) = false := by decide +kernel
theorem test_wf_hbmTemps : Instr.wf (.telemetryTick []) = false := by decide +kernel
theorem test_wf_drain : Instr.wf (.drain 0 (List.replicate 256 0#8)) = false := by decide +kernel
theorem test_wf_ceilingSet : Instr.wf (.ceilingSet 0 (List.replicate 256 0#8)) = false := by decide +kernel
theorem test_wf_softReset : Instr.wf (.softReset 0 (List.replicate 256 0#8)) = false := by decide +kernel
theorem test_wf_counterSnap : Instr.wf (.counterSnap 0 (List.replicate 256 0#8)) = false := by decide +kernel
theorem test_wf_addrCfg : Instr.wf (.addrCfg 0 (List.replicate 256 0#8)) = false := by decide +kernel
theorem test_wf_portStatus : Instr.wf (.portStatus 0 (List.replicate 256 0#8)) = false := by decide +kernel
theorem test_wf_clearFaults : Instr.wf (.clearFaults 0 (List.replicate 256 0#8)) = false := by decide +kernel

/-- Commands whose list operands have their lengths are well-formed. -/
theorem test_wf_good : Instr.wf (.bringupLinksTrained (List.replicate 10 (15, 15))) = true ∧ Instr.wf (.yokeEpoch [0, 0, 0, 0, 0, 0] (List.replicate 64 0)) = true := by
  decide +kernel

/-! ### The queue -/

/-- On an empty queue one CLK_N cycle passes; a command at the front leaves the queue and runs; no word spells a command. -/
theorem test_step_tick : (nextOf (step up)).map (fun t => (t.clk.now, devTime t)) = some (up.clk.now + 1, devTime up + 1) := by decide +kernel
theorem test_step_front : (nextOf (step { up with pending := [.nakRenew 0 0, .tdivSwitch 3] })).map (fun t => t.pending) = some [.tdivSwitch 3] := by
  decide +kernel
theorem test_decodeTableWord : decodeTableWord 32 0x60611028 = none := by decide

end Sys2Proof.Tests
end

section
/-! PROOF. The plots' dividers, DEV_TIME and the 64-bit counters (R8, R293, R295, R324, R451): what a read returns after each command,
and O13 from these facts. -/
namespace Sys2Proof.Machine

variable {s : State} {p q code ns i j : Nat} {f : Plot → Plot} {lo : Word}

/-! ### Dividers asked for and taken -/

@[simp] theorem getPlot_updPlot_same : getPlot (updPlot p f s) p = f (getPlot s p) := by
  simp [updPlot, getPlot, setPlot]

@[simp] theorem getPlot_updPlot_other (h : q ≠ p) : getPlot (updPlot p f s) q = getPlot s q := by
  simp [updPlot, getPlot, setPlot, tget_tset_other h]

@[simp] theorem updPlot_clk : (updPlot p f s).clk = s.clk := rfl

@[simp] theorem askTdiv_tdiv : (askTdiv p code s).clk.tdiv = s.clk.tdiv := rfl

@[simp] theorem tdivReq_askTdiv_same : tget 0 p (askTdiv p code s).clk.tdivReq = code + 1 := by simp [askTdiv]

@[simp] theorem tdivReq_askTdiv_other (h : q ≠ p) : tget 0 q (askTdiv p code s).clk.tdivReq = tget 0 q s.clk.tdivReq := by
  simp [askTdiv, tget_tset_other h]

/-- A divider within the plot's limits is asked for, gated or not, if it is no faster than the present one or the voltage is in its window. -/
theorem tdivChangeRequest_allowed (hc : plotDiv s p ≤ code) (hv : getTdiv s p ≤ code ∨ windowBottom code ≤ (getPlot s p).mv) :
    tdivChangeRequest p code s = askTdiv p code s :=
  if_neg (by omega)

/-- `tdivSwitch` as one update, where a request waits and CLK_T runs. -/
theorem tdivSwitch_taken (hr : tget 0 p s.clk.tdivReq ≠ 0) (hon : plotsOn s = true) :
    tdivSwitch p s = updPlot p (fun v => { v with mv := min v.mv (windowTop (tget 0 p s.clk.tdivReq - 1)) })
      { s with clk := { s.clk with tdiv := tset 0 p (tget 0 p s.clk.tdivReq - 1) s.clk.tdiv, tdivReq := tset 0 p 0 s.clk.tdivReq } } :=
  if_neg (by simp [hr, hon])

theorem getTdiv_tdivSwitch_same (hr : tget 0 p s.clk.tdivReq ≠ 0) (hon : plotsOn s = true) :
    getTdiv (tdivSwitch p s) p = tget 0 p s.clk.tdivReq - 1 := by
  simp [tdivSwitch_taken hr hon, getTdiv]

theorem tdivReq_tdivSwitch_same (hr : tget 0 p s.clk.tdivReq ≠ 0) (hon : plotsOn s = true) :
    tget 0 p (tdivSwitch p s).clk.tdivReq = 0 := by
  simp [tdivSwitch_taken hr hon]

/-- The voltage is lowered into the window of the divider that the plot now has. -/
theorem mv_tdivSwitch_same (hr : tget 0 p s.clk.tdivReq ≠ 0) (hon : plotsOn s = true) :
    (getPlot (tdivSwitch p s) p).mv = min (getPlot s p).mv (windowTop (getTdiv (tdivSwitch p s) p)) := by
  rw [getTdiv_tdivSwitch_same hr hon, tdivSwitch_taken hr hon, getPlot_updPlot_same]
  rfl

theorem tdivSwitch_other (hr : tget 0 p s.clk.tdivReq ≠ 0) (hon : plotsOn s = true) (h : q ≠ p) :
    getTdiv (tdivSwitch p s) q = getTdiv s q ∧ getPlot (tdivSwitch p s) q = getPlot s q := by
  rw [tdivSwitch_taken hr hon, getPlot_updPlot_other h]
  exact ⟨tget_tset_other h _, rfl⟩

/-! ### DEV_TIME -/

theorem exec_devTimeLoad (hb : barUp s = true) : exec (.devTimeLoad lo) s = .next (devTimeLoad lo s) :=
  congrArg Host.Outcome.next (if_pos hb)

theorem exec_devTimeLoRead (hb : barUp s = true) : exec .devTimeLoRead s = .next (devTimeLoRead s) :=
  congrArg Host.Outcome.next (if_pos hb)

/-- Two 32-bit halves fit the 64 bits of DEV_TIME, so that the load keeps every bit. -/
theorem devTime_devTimeLoad (hrun : s.glb.run = false) : devTime (devTimeLoad lo s) = getReg s 0x0424 * 2 ^ 32 + lo.toNat := by
  have hhi : getReg s 0x0424 < 2 ^ 32 := getReg_lt
  have hlo := lo.isLt
  simp only [devTimeLoad, hrun, devTime, Bool.false_eq_true, if_false, BitVec.toNat_ofNat]
  rw [getReg_setReg_other (by decide), Nat.mod_eq_of_lt (by omega)]

theorem timeSetLo_devTimeLoad (hrun : s.glb.run = false) : getReg (devTimeLoad lo s) 0x0420 = lo.toNat := by
  have h : getReg (devTimeLoad lo s) 0x0420 = getReg (setReg 0x0420 lo.toNat s) 0x0420 := by simp [devTimeLoad, hrun, getReg]
  rw [h, getReg_setReg_same, Nat.mod_eq_of_lt lo.isLt]

/-- After RUN a load of another value is a refused write (R5). -/
theorem devTimeLoad_refused (hrun : s.glb.run = true) (hne : getReg s 0x0420 ≠ lo.toNat) :
    devTimeLoad lo s = lockViol 0x0420 s := by
  simp [devTimeLoad, hrun, hne]

/-- DEV_TIME has 64 bits, so that the latch of 32 holds its whole HI half. -/
theorem latchHi_devTimeLoRead : (devTimeLoRead s).clk.latchHi.toNat = devTime s / 2 ^ 32 := by
  have h : devTime s < 2 ^ 64 := s.clk.devTime.isLt
  simp only [devTimeLoRead, answerWord, BitVec.toNat_ofNat]
  omega

/-! ### Counters and their latch -/

theorem exec_counterLoRead (i : Fin 2048) (hb : barUp s = true) : exec (.counterLoRead i) s = .next (counterLoRead i s) :=
  congrArg Host.Outcome.next (if_pos hb)

theorem exec_counterHiRead (i : Fin 2048) (hb : barUp s = true) :
    exec (.counterHiRead i) s = .next (answerWord s.clk.cntLatch.toNat s) :=
  congrArg Host.Outcome.next (if_pos hb)

theorem exec_counterClear (i : Fin 2048) (hb : barUp s = true) :
    exec (.counterClear i) s = .next (clearCounter (i + 2048 * regF s 0x0018 0 1) s) :=
  congrArg Host.Outcome.next (if_pos hb)

/-- A counter has 64 bits, so that the one latch of 32 holds its whole HI half. -/
theorem cntLatch_counterLoRead :
    (counterLoRead i s).clk.cntLatch.toNat = counterValue s (i + 2048 * regF s 0x0018 0 1) / 2 ^ 32 := by
  have h : counterValue s (i + 2048 * regF s 0x0018 0 1) < 2 ^ 64 := (tget 0 _ s.cnt).isLt
  simp only [counterLoRead, answerWord, BitVec.toNat_ofNat]
  omega

@[simp] theorem counterValue_clearCounter_same : counterValue (clearCounter i s) i = 0 := by
  simp [counterValue, clearCounter]

@[simp] theorem counterValue_clearCounter_other (h : j ≠ i) : counterValue (clearCounter i s) j = counterValue s j := by
  simp [counterValue, clearCounter, tget_tset_other h]

/-! ### Hard reset -/

/-- Of the clocks' state a hard reset keeps DEV_TIME alone. -/
theorem hardReset_clk : (hardReset s).clk = { State.reset.clk with devTime := s.clk.devTime } := rfl

/-- From 10 µs on DEV_RST_N resets the part whatever the free values are (R465). -/
theorem devRstAssert_long (h : 10000 ≤ ns) :
    devRstAssert ns s = hardReset { orReg 0x0440 2 s with glb := { s.glb with devRstLow := true } } := by
  simp [devRstAssert, show ¬ns < 1000 by omega, show ¬ns < 10000 by omega]

/-! ### O13 -/

/-- Settles O13, clause by clause from the facts above. The clauses on TDIV_CHANGE_REQUEST and TDIV_SWITCH rest on R293, R324 and, for the
voltage after the switch, on the model's choice of log 73; those on DEV_TIME on R295 and R449; those on the counters on R8 and R451. -/
theorem clocksAndCounters : Obligations.ClocksAndCounters := by
  unfold Obligations.ClocksAndCounters
  refine ⟨?request, ?switch, ?load, ?refused, ?timeRead, ?loRead, ?hiRead, ?fresh, ?reset, ?clear⟩
  case request =>
    intro s p code hc hv
    exact ⟨askTdiv p code s, congrArg Host.Outcome.next (tdivChangeRequest_allowed hc hv), tdivReq_askTdiv_same, askTdiv_tdiv,
      fun q hq => tdivReq_askTdiv_other hq⟩
  case switch =>
    intro s p hr hon
    have htdiv := getTdiv_tdivSwitch_same hr hon
    exact ⟨tdivSwitch p s, rfl, by omega, tdivReq_tdivSwitch_same hr hon, mv_tdivSwitch_same hr hon,
      fun q hq => tdivSwitch_other hr hon hq⟩
  case load =>
    intro s lo hb hrun
    exact ⟨devTimeLoad lo s, exec_devTimeLoad hb, devTime_devTimeLoad hrun, timeSetLo_devTimeLoad hrun⟩
  case refused =>
    intro s lo hb hrun hne
    refine ⟨lockViol 0x0420 s, ?_, rfl, getReg_setReg_other (by decide), getReg_setReg_same⟩
    rw [exec_devTimeLoad hb, devTimeLoad_refused hrun hne]
  case timeRead =>
    intro s hb
    exact ⟨devTimeLoRead s, exec_devTimeLoRead hb, rfl, latchHi_devTimeLoRead, rfl⟩
  case loRead =>
    intro s i hb
    exact ⟨counterLoRead i s, exec_counterLoRead i hb, rfl, cntLatch_counterLoRead, rfl⟩
  case hiRead =>
    intro s i hb
    exact ⟨_, exec_counterHiRead i hb, rfl, rfl, rfl⟩
  case fresh => rfl
  case reset =>
    intro s ns hns
    refine ⟨devRstAssert ns s, rfl, ?_⟩
    rw [devRstAssert_long hns, hardReset_clk]
    exact ⟨rfl, rfl⟩
  case clear =>
    intro s i hb
    exact ⟨_, exec_counterClear i hb, counterValue_clearCounter_same, fun j hj => counterValue_clearCounter_other hj⟩

end Sys2Proof.Machine
end

section
/-! PROOF. The units of a plot through a transition (R158 to R169): what moving tokens leaves of a unit, what a seed, the end of old work and
a flip make of it, what a replant discards, and O29 from these facts. -/
namespace Sys2Proof.Machine

variable {s t : State} {u p q k l d i j gid gen cfg mode watch net : Nat} {ps : List Piece} {g : Group} {tr : Trans} {words : List Word}

/-! ### Folds over the state -/

section
variable {α : Type} {as : List α} {f : α → State → State}

theorem each_preserves {P : State → Prop} (h : P s) (hf : ∀ a v, P v → P (f a v)) : P (each as f s) := by
  induction as generalizing s with
  | nil => exact h
  | cons a as ih => exact ih (hf a s h)

/-- A step that brings about its own element's fact and undoes no other's brings about the facts of all. -/
theorem each_establishes {P : α → State → Prop} (hself : ∀ a v, P a (f a v)) (hkeep : ∀ a b v, P b v → P b (f a v)) :
    ∀ a ∈ as, P a (each as f s) := by
  induction as generalizing s with
  | nil => simp
  | cons b as ih =>
    intro a ha
    rcases List.mem_cons.mp ha with rfl | ha
    · exact each_preserves (as := as) (hself a s) (fun b v => hkeep b a v)
    · exact ih a ha

end

/-! ### Reads of units -/

theorem getTile_congr (h : t.tiles = s.tiles) : getTile t k = getTile s k := congrArg (tget Tile.init k) h

theorem getSu_congr (h : t.sus = s.sus) : getSu t k = getSu s k := congrArg (tget Su.init k) h

theorem getSwitch_congr (h : t.switches = s.switches) : getSwitch t k = getSwitch s k := congrArg (tget Switch.init k) h

@[simp] theorem getTile_updTile_same {f : Tile → Tile} : getTile (updTile k f s) k = f (getTile s k) := tget_tset_same _

theorem getTile_updTile_other {f : Tile → Tile} (h : j ≠ k) : getTile (updTile k f s) j = getTile s j := tget_tset_other h _

@[simp] theorem getSu_setSu_same {v : Su} : getSu (setSu k v s) k = v := tget_tset_same _

theorem getSu_setSu_other {v : Su} (h : j ≠ k) : getSu (setSu k v s) j = getSu s j := tget_tset_other h _

@[simp] theorem getSwitch_setSwitch_same {v : Switch} : getSwitch (setSwitch k v s) k = v := tget_tset_same _

@[simp] theorem getTile_rewritten {gone : Nat → Bool → Bool} : getTile (rewritten p gone s) k = getTile s k := rfl

@[simp] theorem getSu_rewritten {gone : Nat → Bool → Bool} : getSu (rewritten p gone s) k = getSu s k := rfl

@[simp] theorem getSwitch_rewritten {gone : Nat → Bool → Bool} : getSwitch (rewritten p gone s) k = getSwitch s k := rfl

/-! ### What moving tokens leaves of the units -/

/-- A steering unit without the tokens that it holds. -/
def suSetup (v : Su) : Su := { v with inA := [], inB := [], inC := [], out := [] }

/-- Tiles and switches are the same, and steering units but for the tokens that they hold. -/
structure SameUnits (s t : State) : Prop where
  tiles : t.tiles = s.tiles
  switches : t.switches = s.switches
  setup : ∀ k, suSetup (getSu t k) = suSetup (getSu s k)

/-- Tokens have moved: the units are the same, and those that have finished old work. -/
structure OnlyMoves (s t : State) : Prop extends SameUnits s t where
  finished : t.fab.finished = s.fab.finished

theorem SameUnits.after {v : State} (h : SameUnits s t) (k : SameUnits t v) : SameUnits s v :=
  ⟨k.tiles.trans h.tiles, k.switches.trans h.switches, fun i => (k.setup i).trans (h.setup i)⟩

theorem Keeps.sameUnits (k : Keeps ps s t) (h : (pieceBits [.tiles, .switches, .sus] &&& pieceBits ps == 0) = true) : SameUnits s t :=
  ⟨k.of_apart h (p := .tiles) (by decide), k.of_apart h (p := .switches) (by decide),
    fun _ => congrArg suSetup (getSu_congr (k.of_apart h (p := .sus) (by decide)))⟩

theorem OnlyMoves.refl (s : State) : OnlyMoves s s := ⟨⟨rfl, rfl, fun _ => rfl⟩, rfl⟩

theorem OnlyMoves.after {v : State} (h : OnlyMoves s t) (k : OnlyMoves t v) : OnlyMoves s v :=
  ⟨h.toSameUnits.after k.toSameUnits, k.finished.trans h.finished⟩

theorem OnlyMoves.each {α : Type} {as : List α} {f : α → State → State} (hf : ∀ a v, OnlyMoves v (f a v)) : OnlyMoves s (each as f s) :=
  each_preserves (OnlyMoves.refl s) (fun a v h => h.after (hf a v))

theorem Keeps.onlyMoves (k : Keeps ps s t) (h : (pieceBits [.tiles, .switches, .sus, .fab] &&& pieceBits ps == 0) = true) : OnlyMoves s t :=
  ⟨⟨k.of_apart h (p := .tiles) (by decide), k.of_apart h (p := .switches) (by decide),
    fun _ => congrArg suSetup (getSu_congr (k.of_apart h (p := .sus) (by decide)))⟩,
    congrArg Fab.finished (k.of_apart h (p := .fab) (by decide))⟩

theorem onlyMoves_fab {x : Fab} (h : x.finished = s.fab.finished) : OnlyMoves s { s with fab := x } := ⟨⟨rfl, rfl, fun _ => rfl⟩, h⟩

theorem onlyMoves_setFifo {v : List Queued} : OnlyMoves s (setFifo k v s) := onlyMoves_fab rfl

theorem onlyMoves_pushFifo {tok : Token} : OnlyMoves s (pushFifo k tok s) := onlyMoves_setFifo

theorem onlyMoves_setSu {v : Su} (h : suSetup v = suSetup (getSu s k)) : OnlyMoves s (setSu k v s) := by
  refine ⟨⟨rfl, rfl, fun i => ?_⟩, rfl⟩
  by_cases hi : i = k
  · rw [hi, getSu_setSu_same, h]
  · rw [getSu_setSu_other hi]

theorem suSetup_suPut {v : Su} {tok : Token} : suSetup (suPut v i tok) = suSetup v := by
  unfold suPut
  split <;> rfl

theorem onlyMoves_discardStale : OnlyMoves s (discardStale p s) := discardStale_keeps.onlyMoves rfl

theorem onlyMoves_orphan {tag : Nat} : OnlyMoves s (orphan u p tag s) := orphan_keeps.onlyMoves rfl

theorem onlyMoves_meetHeadland {used : Bool} : OnlyMoves s (meetHeadland u p gen i used s) := by
  unfold meetHeadland
  split
  · exact .refl s
  split
  · split
    · exact onlyMoves_fab rfl
    · exact .refl s
  · exact onlyMoves_discardStale

theorem onlyMoves_suTake {tok : Token} : OnlyMoves s (suTake k i tok s) := by
  unfold suTake
  extract_lets v
  split
  · exact onlyMoves_meetHeadland
  split
  · exact onlyMoves_discardStale
  · exact onlyMoves_setSu suSetup_suPut

theorem onlyMoves_hopPut {o : Nat} {tok : Token} : OnlyMoves s (hopPut k net o tok s) := by
  unfold hopPut
  split
  · exact onlyMoves_setFifo
  · exact offerFlit_keeps.onlyMoves rfl
  · exact onlyMoves_suTake
  · split
    · exact .refl s
    · exact onlyMoves_orphan

theorem onlyMoves_giveCopies {tok : Token} {os took : List Nat} : OnlyMoves s (giveCopies k net tok os took s).2 := by
  induction os generalizing took s with
  | nil => exact .refl s
  | cons o os ih =>
    unfold giveCopies
    split
    · exact ih
    split
    · exact onlyMoves_hopPut.after ih
    · exact ih

theorem onlyMoves_settleHead {dests took : List Nat} {x : Queued} {rest : List Queued} : OnlyMoves s (settleHead k dests took x rest s) := by
  unfold settleHead
  split <;> exact onlyMoves_setFifo

theorem onlyMoves_stepFifo : OnlyMoves s (stepFifo k s) := by
  unfold stepFifo
  extract_lets -merge -underBinder +onlyGivenNames c net i p sw w
  split
  case h_1 => exact .refl s
  case h_2 x rest _ =>
    extract_lets -merge -underBinder +onlyGivenNames gen
    split
    · extract_lets -merge -underBinder +onlyGivenNames dlv
      split
      · exact .refl s
      · refine OnlyMoves.after ?_ (onlyMoves_meetHeadland.after onlyMoves_setFifo)
        split
        · exact onlyMoves_meetHeadland
        · exact .refl s
    split
    · exact .refl s
    · split
      · exact onlyMoves_setFifo.after onlyMoves_orphan
      · exact onlyMoves_setFifo.after onlyMoves_discardStale
    · split
      · split
        · exact onlyMoves_setFifo.after onlyMoves_orphan
        split
        · exact onlyMoves_setFifo.after onlyMoves_hopPut
        · exact .refl s
      · exact onlyMoves_giveCopies.after onlyMoves_settleHead

theorem onlyMoves_stepFeed : OnlyMoves s (stepFeed k s) := by
  unfold stepFeed
  split
  · exact .refl s
  split
  · exact onlyMoves_meetHeadland.after (onlyMoves_fab rfl)
  · exact .refl s

theorem onlyMoves_stepOut : OnlyMoves s (stepOut k s) := by
  unfold stepOut
  extract_lets v
  split
  · exact .refl s
  · extract_lets key
    split
    · exact onlyMoves_setFifo.after (onlyMoves_setSu rfl)
    · exact .refl s

theorem onlyMoves_flowOnce : OnlyMoves s (flowOnce s) := by
  unfold flowOnce
  extract_lets v w
  have hfifos : OnlyMoves s v := OnlyMoves.each fun _ _ => onlyMoves_stepFifo
  have hfeeds : OnlyMoves v w := OnlyMoves.each fun _ _ => onlyMoves_stepFeed
  exact (hfifos.after hfeeds).after (OnlyMoves.each fun _ _ => onlyMoves_stepOut)

theorem onlyMoves_flow {n : Nat} : OnlyMoves s (flow n s) := by
  induction n generalizing s with
  | zero => exact .refl s
  | succ n ih =>
    unfold flow
    extract_lets v
    split
    · exact onlyMoves_flowOnce
    · exact onlyMoves_flowOnce.after ih

theorem onlyMoves_flowAll : OnlyMoves s (flowAll s) := by
  delta flowAll
  exact onlyMoves_flow (n := 256)

theorem onlyMoves_noteWait : OnlyMoves s (noteWait p s) := noteWait_keeps.onlyMoves rfl

theorem onlyMoves_forwardHeadland : OnlyMoves s (forwardHeadland tr u s) := by
  unfold forwardHeadland
  split
  · extract_lets v
    have hpush : OnlyMoves s v := OnlyMoves.each fun _ _ => OnlyMoves.each fun _ _ => onlyMoves_pushFifo
    clear_value v
    exact hpush.after (onlyMoves_fab (by rfl))
  split
  · extract_lets v
    split
    · exact .refl s
    · exact onlyMoves_setSu rfl
  · exact OnlyMoves.each fun _ _ => onlyMoves_hopPut

theorem SameUnits.getTile_eq (h : SameUnits s t) : getTile t k = getTile s k := getTile_congr h.tiles

theorem SameUnits.unitGen_eq (h : SameUnits s t) : unitGen t u = unitGen s u := by
  have hsu : ∀ i, (getSu t i).gen = (getSu s i).gen := fun i => (congrArg Su.gen (h.setup i) :)
  simp only [unitGen, h.getTile_eq, getSwitch_congr h.switches, hsu]

theorem SameUnits.unitCfg_eq (h : SameUnits s t) : unitCfg t u = unitCfg s u := by
  have hshadow : ∀ i, (getSu t i).shadowCfg = (getSu s i).shadowCfg := fun i => (congrArg Su.shadowCfg (h.setup i) :)
  have hcfg : ∀ i, (getSu t i).cfg = (getSu s i).cfg := fun i => (congrArg Su.cfg (h.setup i) :)
  have hready : ∀ i, (getSu t i).shadowReady = (getSu s i).shadowReady := fun i => (congrArg Su.shadowReady (h.setup i) :)
  simp only [unitCfg, h.getTile_eq, getSwitch_congr h.switches, hshadow, hcfg, hready]

/-! ### SEED_SHADOW_READY -/

/-- A key before the first that is written reads as before. -/
theorem tget_tsetList_before {α : Type} [DecidableEq α] {x : α} : ∀ {vs : List α} {k : Nat} {m : List (Nat × α)}, j < k →
    tget x j (tsetList x k vs m) = tget x j m
  | [], _, _, _ => rfl
  | v :: vs, k, m, h => by
    rw [tsetList, tget_tsetList_before (by omega), tget_tset_other (by omega)]

/-- Consecutive writes are read back in order. -/
theorem tget_tsetList {α : Type} [DecidableEq α] {x : α} : ∀ {vs : List α} {i k : Nat} {m : List (Nat × α)}, i < vs.length →
    some (tget x (k + i) (tsetList x k vs m)) = vs[i]?
  | v :: vs, 0, k, m, _ => by simp [tsetList, tget_tsetList_before (Nat.lt_succ_self k)]
  | v :: vs, i + 1, k, m, h => by
    have ih := tget_tsetList (x := x) (k := k + 1) (m := tset x k v m) (Nat.lt_of_succ_lt_succ h)
    rwa [Nat.add_assoc, Nat.add_comm 1 i] at ih

theorem tileBankOf_words (h : i < 1104) (hi : i < words.length) : some (tget 0 i (tileBankOf cfg mode watch words).words) = words[i]? := by
  have key := tget_tsetList (x := (0 : Word)) (vs := words.take 1104) (i := i) (k := 0) (m := []) (by rw [List.length_take]; omega)
  rw [Nat.zero_add, List.getElem?_take_of_lt h] at key
  exact key

/-- Both are the same group as a sheaf's pass sees it: its number, its place in the model's tables, and the pass that it runs. -/
structure SameToPasses (g h : Group) : Prop where
  gid : h.gid = g.gid
  slot : h.slot = g.slot
  bank : h.bank = g.bank
  idx : h.idx = g.idx
  run : h.run = g.run

/-- What no sheaf's pass sees of a group decides no pending pass. -/
theorem pendingCfg_updGroup {f : Group → Group} (hf : ∀ h, SameToPasses h (f h)) : pendingCfg (updGroup gid f s) j = pendingCfg s j := by
  have hif : ∀ h, SameToPasses h (if h.gid = gid then f h else h) := fun h => by
    split
    · exact hf h
    · exact ⟨rfl, rfl, rfl, rfl, rfl⟩
  have hruns : ∀ sid, sheafRuns (updGroup gid f s) sid = sheafRuns s sid := fun sid => by
    have hrun := fun h => (hif h).run
    simp only [sheafRuns, updGroup, List.any_map, Function.comp_def, hrun]
  have hgroup : ∀ x, (sheafGroup (updGroup gid f s) x).map Group.gid = (sheafGroup s x).map Group.gid := fun x => by
    have hrec : ∀ o n, passRec (updGroup gid f s) x.slot x.bank x.pass o n = passRec s x.slot x.bank x.pass o n := fun _ _ => rfl
    simp only [sheafGroup, hrec]
    have hgid := fun h => (hif h).gid
    have hslot := fun h => (hif h).slot
    have hbank := fun h => (hif h).bank
    have hidx := fun h => (hif h).idx
    simp only [updGroup, List.find?_map, Option.map_map, Function.comp_def, hgid, hslot, hbank, hidx]
  simp only [pendingCfg, closedSheaves, hruns, hgroup]
  rfl

/-- What the engine learns of a group's channels decides no pending pass. -/
theorem pendingCfg_noteChans : pendingCfg (noteChans gid u words s) j = pendingCfg s j :=
  pendingCfg_updGroup fun _ => ⟨rfl, rfl, rfl, rfl, rfl⟩

/-- The seed's watch index as `seedReady` takes it: 0 for none (R223). -/
theorem exec_seedShadowReady {v : Fin 3072} {c : BitVec 16} {m : Fin 8} {w : Option (Fin 16)} (hup : sowerUp s = true) :
    ∃ n : Nat, (∀ x : Fin 16, w = some x → n = x + 1) ∧
      exec (.seedShadowReady v c m w words) s = .next (seedReady v c.toNat m n words s) := by
  have harm : exec (.seedShadowReady v c m w words) s = execSeedShadowReady v c m w words s := rfl
  simp only [harm, execSeedShadowReady, if_pos hup]
  refine ⟨_, ?_, rfl⟩
  rintro x rfl
  rfl

/-- Without a reload the seed goes into the shadow bank; what follows touches no unit. -/
theorem seedReady_shadow (hg : groupOfPlot s (plotOfUnit u) = some g) (hr : g.reload = false) :
    Keeps [.cnt, .hif, .groups, .plots, .alert] (loadShadow u cfg mode watch words (noteChans g.gid u words s))
      (seedReady u cfg mode watch words s) := by
  simp only [seedReady, hg, hr, Bool.false_and, Bool.false_eq_true, if_false]
  exact (rotLoaded_keeps.weaken rfl).after noteWait_keeps rfl

/-- At a reload with the pending pass's CFG_ID the seed goes into the active bank (R169; log 53); what follows touches no unit. -/
theorem seedReady_active (hg : groupOfPlot s (plotOfUnit u) = some g) (hr : g.reload = true) (hp : plotOfUnit u ∈ g.plots)
    (hpend : pendingCfg s g.gid = some cfg) :
    Keeps [.groups] (loadActive u cfg mode watch words (noteChans g.gid u words s)) (seedReady u cfg mode watch words s) := by
  simp only [seedReady, hg, hr, pendingCfg_noteChans, hp, hpend, and_self, decide_true, Bool.and_true, if_true]
  exact keeps_ite updGroup_keeps (.refl _)

theorem loadShadow_tile (h : u < 1024) : loadShadow u cfg mode watch words s =
    updTile u (fun v => { v with shadow := tileBankOf cfg mode watch words, shadowReady := true })
      (rewritten (plotOfUnit u) (fun v b => decide (v = u) && b) s) := if_pos h

theorem loadActive_tile (h : u < 1024) : loadActive u cfg mode watch words s =
    updTile u (fun v => { v with active := tileBankOf cfg mode watch words, mode := mode % 8, cfg := cfg, seeded := true })
      (rewritten (plotOfUnit u) (fun v b => decide (v = u) && !b) s) := if_pos h

theorem getSu_loadShadow (h : 1024 ≤ u) (h' : u < 2048) : getSu (loadShadow u cfg mode watch words s) (u - 1024) =
    { getSu s (u - 1024) with shadow := ((words[0]?).getD 0).toNat, shadowReady := true, shadowCfg := cfg } := by
  simp [loadShadow, show ¬u < 1024 by omega, h']

theorem getSwitch_loadShadow (h : 2048 ≤ u) : getSwitch (loadShadow u cfg mode watch words s) (u - 2048) =
    { getSwitch s (u - 2048) with shadow := switchWords words, shadowReady := true, shadowCfg := cfg } := by
  simp [loadShadow, show ¬u < 1024 by omega, show ¬u < 2048 by omega]

@[simp] theorem getTile_noteChans : getTile (noteChans gid u words s) k = getTile s k := rfl

@[simp] theorem getSu_noteChans : getSu (noteChans gid u words s) k = getSu s k := rfl

@[simp] theorem getSwitch_noteChans : getSwitch (noteChans gid u words s) k = getSwitch s k := rfl

/-- The tile that a seed came to, and the others, where no reload is due. -/
theorem getTile_seedReady_shadow (hg : groupOfPlot s (plotOfUnit u) = some g) (hr : g.reload = false) (h : u < 1024) :
    getTile (seedReady u cfg mode watch words s) u =
      { getTile s u with shadow := tileBankOf cfg mode watch words, shadowReady := true } ∧
    ∀ v, v ≠ u → getTile (seedReady u cfg mode watch words s) v = getTile s v := by
  have hseed : ∀ v, getTile (seedReady u cfg mode watch words s) v = getTile (loadShadow u cfg mode watch words (noteChans g.gid u words s)) v :=
    fun _ => getTile_congr ((seedReady_shadow hg hr).at .tiles rfl)
  simp only [hseed, loadShadow_tile h]
  exact ⟨by simp, fun v hv => by simp [getTile_updTile_other hv]⟩

/-- The tile that a seed came to, and the others, at a reload. -/
theorem getTile_seedReady_active (hg : groupOfPlot s (plotOfUnit u) = some g) (hr : g.reload = true) (hp : plotOfUnit u ∈ g.plots)
    (hpend : pendingCfg s g.gid = some cfg) (h : u < 1024) :
    getTile (seedReady u cfg mode watch words s) u =
      { getTile s u with active := tileBankOf cfg mode watch words, mode := mode % 8, cfg := cfg, seeded := true } ∧
    ∀ v, v ≠ u → getTile (seedReady u cfg mode watch words s) v = getTile s v := by
  have hseed : ∀ v, getTile (seedReady u cfg mode watch words s) v = getTile (loadActive u cfg mode watch words (noteChans g.gid u words s)) v :=
    fun _ => getTile_congr ((seedReady_active hg hr hp hpend).at .tiles rfl)
  simp only [hseed, loadActive_tile h]
  exact ⟨by simp, fun v hv => by simp [getTile_updTile_other hv]⟩

theorem getSu_seedReady_shadow (hg : groupOfPlot s (plotOfUnit u) = some g) (hr : g.reload = false) (h : 1024 ≤ u) (h' : u < 2048) :
    getSu (seedReady u cfg mode watch words s) (u - 1024) =
      { getSu s (u - 1024) with shadow := ((words[0]?).getD 0).toNat, shadowReady := true, shadowCfg := cfg } := by
  rw [getSu_congr ((seedReady_shadow hg hr).at .sus rfl), getSu_loadShadow h h', getSu_noteChans]

theorem getSwitch_seedReady_shadow (hg : groupOfPlot s (plotOfUnit u) = some g) (hr : g.reload = false) (h : 2048 ≤ u) :
    getSwitch (seedReady u cfg mode watch words s) (u - 2048) =
      { getSwitch s (u - 2048) with shadow := switchWords words, shadowReady := true, shadowCfg := cfg } := by
  rw [getSwitch_congr ((seedReady_shadow hg hr).at .switches rfl), getSwitch_loadShadow h, getSwitch_noteChans]

/-! ### UNIT_FINISH_OLD_WORK -/

theorem exec_unitFinishOldWork {v : Fin 3072} (hup : sowerUp s = true) : exec (.unitFinishOldWork v) s = .next (unitFinish v s) :=
  congrArg Host.Outcome.next (if_pos hup)

/-- A tile's leftovers are discarded: its matching store is empty and no longer stalls. -/
theorem dropLeftovers_tile (h : u < 1024) : OnlyMoves (updTile u (fun v => { v with ms := [], msStall := false }) s) (dropLeftovers u s) := by
  simp only [dropLeftovers, if_pos h]
  exact OnlyMoves.each fun _ _ => onlyMoves_orphan

theorem dropLeftovers_not_tile (h : ¬u < 1024) : OnlyMoves s (dropLeftovers u s) := by
  simp only [dropLeftovers, if_neg h]
  split
  · refine OnlyMoves.after (onlyMoves_setSu ?_) (OnlyMoves.each fun _ _ => onlyMoves_orphan)
    rfl
  · exact .refl s

theorem unitGen_dropLeftovers : unitGen (dropLeftovers u s) u = unitGen s u := by
  by_cases h : u < 1024
  · rw [(dropLeftovers_tile h).unitGen_eq]
    simp [unitGen, h]
  · exact (dropLeftovers_not_tile h).unitGen_eq

theorem finished_dropLeftovers : (dropLeftovers u s).fab.finished = s.fab.finished := by
  by_cases h : u < 1024
  · exact (dropLeftovers_tile h).finished
  · exact (dropLeftovers_not_tile h).finished

/-- The unit finishes: its leftovers are discarded and headlands go out; the rest is the movement of tokens. -/
theorem unitFinish_finishes (hg : groupOfPlot s (plotOfUnit u) = some g) (ht : g.trans = some tr) (hp : plotOfUnit u ∈ transPlots g)
    (hfin : u ∉ s.fab.finished) (hgen : unitGen s u ≠ tr.gen) (hseen : ∀ i ∈ usedInputs s u, (u, i) ∈ s.fab.seen)
    (hquiet : quietUnit s u = true) (hroom : forwardRoom s tr u = true) :
    OnlyMoves (dropLeftovers u { s with fab := { s.fab with finished := s.fab.finished ++ [u] } }) (unitFinish u s) := by
  have hall : (usedInputs s u).all (fun i => decide ((u, i) ∈ s.fab.seen)) = true := by simpa using hseen
  simp only [unitFinish, hg, ht, hp, hfin, hgen, not_true_eq_false, or_self, if_false, hall, hquiet, hroom, Bool.and_self, if_true]
  exact (onlyMoves_forwardHeadland.after onlyMoves_flowAll).after onlyMoves_noteWait

/-- A unit with work left, without room for its headland or without one on every used input does not finish (R161). -/
theorem unitFinish_waits (hg : groupOfPlot s (plotOfUnit u) = some g) (ht : g.trans = some tr)
    (h : quietUnit s u = false ∨ forwardRoom s tr u = false ∨ ∃ i ∈ usedInputs s u, (u, i) ∉ s.fab.seen) : unitFinish u s = s := by
  have hcond : ((usedInputs s u).all (fun i => decide ((u, i) ∈ s.fab.seen)) && quietUnit s u && forwardRoom s tr u) = false := by
    rcases h with hquiet | hroom | ⟨i, hi, hseen⟩
    · simp [hquiet]
    · simp [hroom]
    · have hall : (usedInputs s u).all (fun i => decide ((u, i) ∈ s.fab.seen)) = false :=
        List.all_eq_false.mpr ⟨i, hi, by simpa using hseen⟩
      simp [hall]
  simp only [unitFinish, hg, ht, hcond, Bool.false_eq_true, if_false, ite_self]

/-! ### What a replant discards (R169) -/

/-- The step that a direction's queues take adds no token: no MSG flit waits to be sent, nor stands received, that did not before. -/
def AddsNoMsg (f : LinkDir → LinkDir) : Prop :=
  ∀ x, (∀ y ∈ (f x).queue, y ∈ x.queue ∨ y.cls ≠ 2) ∧ ∀ y ∈ (f x).buf, y ∈ x.buf

/-- No MSG flit of plot `p` stands in a direction of a link. -/
def DirClear (p l d : Nat) (x : LinkDir) : Prop :=
  (∀ y ∈ x.queue, msgOf (sendDie l d) p false y = false) ∧ ∀ y ∈ x.buf, msgOf (sendDie l d) p true y = false

/-- The gateway channels of plot `p` hold no token. -/
def GatewayClear (p : Nat) (s : State) : Prop :=
  ∀ l ∈ [4, 5, 6, 7, 8, 9], ∀ d ∈ [0, 1], DirClear p l d ((getLink s l).dir d)

/-- Nowhere on plot `p` is a token held. -/
structure NoTokens (p : Nat) (s : State) : Prop where
  fifos : ∀ x ∈ s.fab.fifos, x.1 / 1024 ≠ p
  feeds : ∀ x ∈ s.fab.feeds, x.1 / 64 ≠ p
  drain : ∀ x ∈ s.fab.drain, plotOfTile x.1 ≠ p
  tiles : ∀ k ∈ List.range 16, (getTile s (16 * p + k)).ms = []
  sus : ∀ k ∈ List.range 8, getSu s (8 * p + k) = suSetup (getSu s (8 * p + k))
  gateway : GatewayClear p s

theorem GatewayClear.gatewayFlits_eq (h : GatewayClear p s) : gatewayFlits s p = [] := by
  simp only [gatewayFlits, List.flatMap_eq_nil_iff, List.append_eq_nil_iff, List.filter_eq_nil_iff, Bool.not_eq_true]
  exact h

theorem NoTokens.plotTokens_eq (h : NoTokens p s) : plotTokens s p = [] := by
  have hfifos : s.fab.fifos.filter (fun x => decide (x.1 / 1024 = p)) = [] := List.filter_eq_nil_iff.mpr (by simpa using h.fifos)
  have hfeeds : s.fab.feeds.filter (fun x => decide (x.1 / 64 = p)) = [] := List.filter_eq_nil_iff.mpr (by simpa using h.feeds)
  have hdrain : s.fab.drain.filter (fun x => decide (plotOfTile x.1 = p)) = [] := List.filter_eq_nil_iff.mpr (by simpa using h.drain)
  have htiles : (List.range 16).flatMap (fun k => (getTile s (16 * p + k)).ms.map MsEntry.tok) = [] :=
    List.flatMap_eq_nil_iff.mpr fun k hk => by rw [h.tiles k hk]; rfl
  have hsus : (List.range 8).flatMap (fun k => let v := getSu s (8 * p + k); v.inA ++ v.inB ++ v.inC ++ v.out.map Prod.snd) = [] :=
    List.flatMap_eq_nil_iff.mpr fun k hk => by rw [h.sus k hk]; rfl
  simp only [plotTokens, hfifos, hfeeds, hdrain, htiles, hsus, h.gateway.gatewayFlits_eq]
  rfl

theorem GatewayClear.of_links (h : GatewayClear p s) (hl : t.links = s.links) : GatewayClear p t := by
  have hlink : ∀ l, getLink t l = getLink s l := fun l => congrArg (tget Link.init l) hl
  simpa only [GatewayClear, hlink] using h

/-- What touches no place that holds tokens leaves a plot without any. -/
theorem NoTokens.keeps (h : NoTokens p s) (k : Keeps ps s t) (hk : (pieceBits [.fab, .tiles, .sus, .links] &&& pieceBits ps == 0) = true) :
    NoTokens p t := by
  have hfab : t.fab = s.fab := k.of_apart hk (p := .fab) (by decide)
  have htile : ∀ j, getTile t j = getTile s j := fun _ => getTile_congr (k.of_apart hk (p := .tiles) (by decide))
  have hsu : ∀ j, getSu t j = getSu s j := fun _ => getSu_congr (k.of_apart hk (p := .sus) (by decide))
  refine ⟨?_, ?_, ?_, ?_, ?_, h.gateway.of_links (k.of_apart hk (p := .links) (by decide))⟩
  · rw [hfab]; exact h.fifos
  · rw [hfab]; exact h.feeds
  · rw [hfab]; exact h.drain
  · simpa only [htile] using h.tiles
  · simpa only [hsu] using h.sus

/-- The directions of the links after one of them is updated. -/
theorem dir_updDir {f : LinkDir → LinkDir} {m e : Nat} : (getLink (updDir l d f s) m).dir e =
    if m = l ∧ (e = 0 ↔ d = 0) then f ((getLink s m).dir e) else (getLink s m).dir e := by
  have hlink : getLink (updDir l d f s) m = if m = l then (getLink s l).setDir d (f ((getLink s l).dir d)) else getLink s m := tget_tset _
  rw [hlink]
  by_cases hm : m = l
  · subst hm
    by_cases hd : d = 0 <;> by_cases he : e = 0 <;> simp [Link.setDir, Link.dir, hd, he]
  · simp [hm]

theorem AddsNoMsg.dirClear {f : LinkDir → LinkDir} {x : LinkDir} (hf : AddsNoMsg f) (h : DirClear p l d x) : DirClear p l d (f x) := by
  refine ⟨fun y hy => ?_, fun y hy => h.2 y ((hf x).2 y hy)⟩
  rcases (hf x).1 y hy with hold | hcls
  · exact h.1 y hold
  · simp [msgOf, hcls]

theorem GatewayClear.updDir {f : LinkDir → LinkDir} (h : GatewayClear p s) (hf : AddsNoMsg f) : GatewayClear p (updDir l d f s) := by
  intro m hm e he
  rw [dir_updDir]
  split
  · exact hf.dirClear (h m hm e he)
  · exact h m hm e he

/-- A flit of another class than MSG carries no token. -/
theorem GatewayClear.sendFlit {a b cls op : Nat} {body : List Byte} (h : GatewayClear p s) (hc : cls ≠ 2) :
    GatewayClear p (sendFlit a b cls op body s) := by
  unfold Machine.sendFlit
  split
  · split
    · refine h.updDir fun x => ⟨fun y hy => ?_, fun y hy => hy⟩
      rcases List.mem_append.mp hy with hold | hnew
      · exact .inl hold
      · rw [List.mem_singleton.mp hnew]
        exact .inr hc
    · exact h
  · exact h

/-- An event's record goes to the I/O die in class DBG. -/
theorem NoTokens.raiseOn {code src a0 a1 a2 : Nat} (h : NoTokens p s) : NoTokens p (raiseOn d code src a0 a1 a2 s) := by
  have hgate : GatewayClear p (Machine.raiseOn d code src a0 a1 a2 s) := by
    unfold Machine.raiseOn
    extract_lets payload trig isTrig enabled v
    have hv : GatewayClear p v := h.gateway.of_links (by unfold v; split <;> simp)
    exact (hv.sendFlit (by decide)).of_links raise_links
  refine ⟨?_, ?_, ?_, ?_, ?_, hgate⟩
  · rw [raiseOn_fab]; exact h.fifos
  · rw [raiseOn_fab]; exact h.feeds
  · rw [raiseOn_fab]; exact h.drain
  · simpa only [getTile_congr raiseOn_tiles] using h.tiles
  · simpa only [getSu_congr raiseOn_sus] using h.sus

/-- A direction without the MSG flits of plot `p`. -/
def clearDir (p l d : Nat) (x : LinkDir) : LinkDir :=
  let n := (x.buf.filter (msgOf (sendDie l d) p true)).length
  { x with queue := x.queue.filter (fun f => !msgOf (sendDie l d) p false f), buf := x.buf.filter (fun f => !msgOf (sendDie l d) p true f),
           freed := tset 0 2 ((tget 0 2 x.freed + n) % 256) x.freed }

theorem dropGateway_eq : dropGateway p s = each [4, 5, 6, 7, 8, 9] (fun l => each [0, 1] (fun d => updDir l d (clearDir p l d))) s := rfl

theorem addsNoMsg_clearDir : AddsNoMsg (clearDir p l d) :=
  fun _ => ⟨fun _ hy => .inl (List.mem_of_mem_filter hy), fun _ hy => List.mem_of_mem_filter hy⟩

theorem dirClear_clearDir {x : LinkDir} : DirClear p l d (clearDir p l d x) :=
  ⟨fun _ hy => by simpa using (List.mem_filter.mp hy).2, fun _ hy => by simpa using (List.mem_filter.mp hy).2⟩

theorem DirClear.updDir {f : LinkDir → LinkDir} {m e : Nat} (h : DirClear p l d ((getLink s l).dir d)) (hf : AddsNoMsg f) :
    DirClear p l d ((getLink (updDir m e f s) l).dir d) := by
  rw [dir_updDir]
  split
  · exact hf.dirClear h
  · exact h

theorem GatewayClear.dropGateway (h : GatewayClear q s) : GatewayClear q (dropGateway p s) := by
  rw [dropGateway_eq]
  exact each_preserves h fun _ _ hv => each_preserves hv fun _ _ hw => hw.updDir addsNoMsg_clearDir

theorem gatewayClear_dropGateway : GatewayClear p (dropGateway p s) := by
  rw [dropGateway_eq]
  refine each_establishes (P := fun l v => ∀ d ∈ [0, 1], DirClear p l d ((getLink v l).dir d)) (fun l v => ?_) (fun m l v hv d hd => ?_)
  · refine each_establishes (P := fun d v => DirClear p l d ((getLink v l).dir d)) (fun d v => ?_) (fun _ _ _ hw => hw.updDir addsNoMsg_clearDir)
    simp only [dir_updDir, and_self, if_true]
    exact dirClear_clearDir
  · exact each_preserves (P := fun v => DirClear p l d ((getLink v l).dir d)) (hv d hd) fun _ _ hw => hw.updDir addsNoMsg_clearDir

theorem ms_updTile {f : Tile → Tile} (hf : ∀ v, (f v).ms = []) (h : (getTile s j).ms = []) : (getTile (updTile k f s) j).ms = [] := by
  by_cases hj : j = k
  · rw [hj, getTile_updTile_same, hf]
  · rw [getTile_updTile_other hj, h]

theorem eq_suSetup_setSu {v : Su} (hv : v = suSetup v) (h : getSu s j = suSetup (getSu s j)) :
    getSu (setSu k v s) j = suSetup (getSu (setSu k v s) j) := by
  by_cases hj : j = k
  · rw [hj, getSu_setSu_same, ← hv]
  · rw [getSu_setSu_other hj, ← h]

/-- Where the entries of plot `p` are dropped, none of plot `q` is left if `q` is `p` or had none. -/
theorem key_ne_of_mem_filter {α : Type} {key : α → Nat} {as : List α} (h : q = p ∨ ∀ x ∈ as, key x ≠ q) :
    ∀ x ∈ as.filter (fun x => decide (key x ≠ p)), key x ≠ q := by
  intro x hx
  obtain ⟨hmem, hp⟩ := List.mem_filter.mp hx
  rcases h with rfl | h
  · exact of_decide_eq_true hp
  · exact h x hmem

/-- A cleared plot holds no token, and a plot without any gains none when another is cleared. -/
theorem noTokens_clearPlot (h : q = p ∨ NoTokens q s) : NoTokens q (clearPlot gen p s) := by
  unfold clearPlot
  extract_lets -merge -underBinder +onlyGivenNames s1 s2 s3 s4 s5 s6
  have k12 : Keeps [.hrw, .tiles] s s2 := keeps_each (rewritten_keeps.weaken rfl) fun _ _ hv => hv.after updTile_keeps rfl
  have k23 : Keeps [.switches] s2 s3 := keeps_each (.refl _) fun _ _ hv => hv.after setSwitch_keeps rfl
  have k34 : Keeps [.sus] s3 s4 := keeps_each (.refl _) fun _ _ hv => hv.after setSu_keeps rfl
  have k46 : Keeps [.plots, .waits, .links] s4 s6 :=
    (Keeps.upd_waits (updPlot_keeps.weaken rfl) rfl).after dropGateway_keeps rfl
  have k26 : Keeps [.switches, .sus, .plots, .waits, .links] s2 s6 := ((k23.weaken rfl).after k34 rfl).after k46 rfl
  have hfab : s6.fab = s.fab := (k26.at .fab rfl).trans (k12.at .fab rfl)
  have htiles : ∀ k ∈ List.range 16, (getTile s2 (16 * q + k)).ms = [] := by
    rcases h with rfl | h
    · exact each_establishes (P := fun k v => (getTile v (16 * q + k)).ms = []) (fun _ _ => by rw [getTile_updTile_same]; rfl)
        (fun _ _ _ hv => ms_updTile (fun _ => rfl) hv)
    · exact fun k hk => each_preserves (P := fun v => (getTile v (16 * q + k)).ms = []) (h.tiles k hk)
        fun _ _ hv => ms_updTile (fun _ => rfl) hv
  have hsus : ∀ k ∈ List.range 8, getSu s4 (8 * q + k) = suSetup (getSu s4 (8 * q + k)) := by
    rcases h with rfl | h
    · exact each_establishes (P := fun k v => getSu v (8 * q + k) = suSetup (getSu v (8 * q + k))) (fun _ _ => by rw [getSu_setSu_same]; rfl)
        (fun _ _ _ hv => eq_suSetup_setSu rfl hv)
    · refine fun k hk => each_preserves (P := fun v => getSu v (8 * q + k) = suSetup (getSu v (8 * q + k))) ?_ fun _ _ hv => eq_suSetup_setSu rfl hv
      rw [getSu_congr (k23.at .sus rfl), getSu_congr (k12.at .sus rfl)]
      exact h.sus k hk
  have hgate : GatewayClear q s6 := by
    rcases h with rfl | h
    · exact gatewayClear_dropGateway
    · have klinks : Keeps [.hrw, .tiles, .switches, .sus, .plots] s s5 := (((k12.weaken rfl).after k23 rfl).after k34 rfl).after updPlot_keeps rfl
      exact GatewayClear.dropGateway (h.gateway.of_links (klinks.at .links rfl))
  clear_value s6 s4 s2
  refine ⟨?_, ?_, ?_, fun k hk => ?_, fun k hk => ?_, hgate⟩
  · exact key_ne_of_mem_filter (h.imp_right fun h => by rw [hfab]; exact h.fifos)
  · exact key_ne_of_mem_filter (h.imp_right fun h => by rw [hfab]; exact h.feeds)
  · exact key_ne_of_mem_filter (h.imp_right fun h => by rw [hfab]; exact h.drain)
  · exact (congrArg Tile.ms (getTile_congr (k26.at .tiles rfl))).trans (htiles k hk)
  · have hsu : getSu s6 (8 * q + k) = getSu s4 (8 * q + k) := getSu_congr (k46.at .sus rfl)
    exact hsu ▸ hsus k hk

theorem noTokens_clearPlots {as : List Nat} (h : p ∈ as) : NoTokens p (each as (clearPlot gen) s) :=
  each_establishes (P := NoTokens) (fun _ _ => noTokens_clearPlot (.inl rfl)) (fun _ _ _ hv => noTokens_clearPlot (.inr hv)) p h

/-- After the flush no plot of the group holds a token; what follows the clearing touches no place that holds any. -/
theorem noTokens_flushGroup {status : Nat} (hg : findGroup s gid = some g) (h : p ∈ transPlots g) :
    NoTokens p (flushGroup gid status s).1 := by
  simp only [flushGroup, hg]
  refine each_preserves (P := NoTokens p) ?_ fun _ _ hv => hv.keeps failMsg_keeps rfl
  refine each_preserves (P := NoTokens p) ?_ fun _ _ hv => (hv.keeps updMsg_keeps rfl).keeps leaveSheaf_keeps rfl
  refine each_preserves (P := NoTokens p) ?_ fun _ _ hv => hv.keeps noteWait_keeps rfl
  exact (noTokens_clearPlots h).keeps updGroup_keeps rfl

theorem noTokens_replant {cause status : Nat} (hg : findGroup s gid = some g) (h : p ∈ transPlots g) :
    NoTokens p (replant cause status gid s) := by
  simp only [replant, hg]
  exact (noTokens_flushGroup hg h).raiseOn

/-! ### UNIT_FLIP -/

theorem exec_unitFlip {v : Fin 3072} (hup : sowerUp s = true) : exec (.unitFlip v) s = .next (unitFlip v s) :=
  congrArg Host.Outcome.next (if_pos hup)

/-- The number by which a plot's group is found is its own. -/
theorem findGroup_of_groupOfPlot (hg : groupOfPlot s p = some g) : findGroup s g.gid = some g := by
  unfold groupOfPlot at hg
  split at hg
  · next gid _ =>
    have hgid := List.find?_some (p := fun x : Group => decide (x.gid = gid)) hg
    rwa [of_decide_eq_true hgid]
  · cases hg

/-- UNIT_FLIP on a plot in transition: what it waits for, the wrong seed, and the flip. -/
theorem unitFlip_eq (hg : groupOfPlot s (plotOfUnit u) = some g) (ht : g.trans = some tr) : unitFlip u s =
    if u ∉ s.fab.finished ∨ unitGen s u = tr.gen then s
    else if (unitCfg s u).2.2 && decide ((unitCfg s u).1 ≠ tr.cfg) && !vacated g tr (plotOfUnit u) then
      replant 1 stTainted g.gid (raiseOn (dieOfPlot (plotOfUnit u)) 0x0602 (if u < 2048 then u else u - 2048) (unitCfg s u).1 tr.cfg 0
        (bump (960 + 15 * plotOfUnit u + 5) 1 s))
    else if unitReady s g tr u then
      headlandComplete g.gid tr (flowAll (noteWait (plotOfUnit u) (flipUnit tr (vacated g tr (plotOfUnit u)) u s)))
    else s := by
  simp only [unitFlip, hg, ht]

/-- A finished unit that is ready flips; what follows is the movement of tokens and the group's own headland. -/
theorem unitFlip_flips (hg : groupOfPlot s (plotOfUnit u) = some g) (ht : g.trans = some tr) (hfin : u ∈ s.fab.finished)
    (hgen : unitGen s u ≠ tr.gen) (hready : unitReady s g tr u = true)
    (hright : (unitCfg s u).2.2 = true → (unitCfg s u).1 = tr.cfg ∨ vacated g tr (plotOfUnit u) = true) :
    SameUnits (flipUnit tr (vacated g tr (plotOfUnit u)) u s) (unitFlip u s) := by
  have hnot : ¬((unitCfg s u).2.2 && decide ((unitCfg s u).1 ≠ tr.cfg) && !vacated g tr (plotOfUnit u)) = true := by
    simp only [Bool.and_eq_true, decide_eq_true_eq, Bool.not_eq_true', not_and, Bool.not_eq_false, and_imp]
    exact fun hr hne => (hright hr).resolve_left hne
  rw [unitFlip_eq hg ht, if_neg (by simp [hfin, hgen]), if_neg hnot, if_pos hready]
  exact (onlyMoves_noteWait.after onlyMoves_flowAll).toSameUnits.after (headlandComplete_keeps.sameUnits rfl)

/-- A unit that has not finished, or one that stays and is not ready, does not flip (R162). -/
theorem unitFlip_waits (hg : groupOfPlot s (plotOfUnit u) = some g) (ht : g.trans = some tr)
    (h : u ∉ s.fab.finished ∨ ((unitCfg s u).2.2 = false ∧ sameSeed s tr.cfg u = false ∧ vacated g tr (plotOfUnit u) = false)) :
    unitFlip u s = s := by
  rw [unitFlip_eq hg ht]
  rcases h with hfin | ⟨hshadow, hseed, hstays⟩
  · exact if_pos (.inl hfin)
  · simp [unitReady, hshadow, hseed, hstays]

/-- A shadow bank with another seed than the transition's: the group is replanted, and none of its plots holds a token (R165). -/
theorem noTokens_unitFlip (hg : groupOfPlot s (plotOfUnit u) = some g) (ht : g.trans = some tr) (hfin : u ∈ s.fab.finished)
    (hgen : unitGen s u ≠ tr.gen) (hready : (unitCfg s u).2.2 = true) (hwrong : (unitCfg s u).1 ≠ tr.cfg)
    (hstays : vacated g tr (plotOfUnit u) = false) (hp : p ∈ g.plots) : NoTokens p (unitFlip u s) := by
  rw [unitFlip_eq hg ht, if_neg (by simp [hfin, hgen]), if_pos (by simp [hready, hwrong, hstays])]
  refine noTokens_replant (g := g) ?_ (List.mem_append_left _ hp)
  have hgroups : ∀ v : State, v.groups = s.groups → findGroup v g.gid = some g := fun v hv => by
    rw [← findGroup_of_groupOfPlot hg]
    exact congrArg (List.find? _) hv
  exact hgroups _ (by simp)

/-- A tile with another active bank, and with the generation, CFG_ID and S of a transition: accumulators and predicates read 0 (R159, R162). -/
def flipTile (tr : Trans) (bank : TileBank) (seeded : Bool) (v : Tile) : Tile :=
  setGen tr.gen { v with active := bank, shadow := TileBank.init, shadowReady := false, seeded := seeded, a := [], p := [],
                         mode := bank.mode, cfg := tr.cfg, size := tr.size }

theorem getTile_flipUnit {gone : Bool} (h : u < 1024) : getTile (flipUnit tr gone u s) u =
    flipTile tr (if gone then TileBank.init else if (getTile s u).shadowReady then (getTile s u).shadow else (getTile s u).active) (!gone)
      (getTile s u) := by
  have hflip : flipUnit tr gone u s = updTile u (fun v => _) (rewritten (plotOfUnit u) (fun v _ => decide (v = u)) s) := if_pos h
  exact (congrArg (getTile · u) hflip).trans getTile_updTile_same

theorem getSu_flipUnit {gone : Bool} (h : ¬u < 1024) (h' : u < 2048) :
    (getSu (flipUnit tr gone u s) (u - 1024)).gen = tr.gen ∧ (getSu (flipUnit tr gone u s) (u - 1024)).cfg = tr.cfg ∧
      (getSu (flipUnit tr gone u s) (u - 1024)).shadowReady = false := by
  simp [flipUnit, h, h']

theorem getSwitch_flipUnit {gone : Bool} (h : ¬u < 2048) :
    (getSwitch (flipUnit tr gone u s) (u - 2048)).gen = tr.gen ∧ (getSwitch (flipUnit tr gone u s) (u - 2048)).cfg = tr.cfg ∧
      (getSwitch (flipUnit tr gone u s) (u - 2048)).shadowReady = false := by
  simp [flipUnit, h, show ¬u < 1024 by omega]

/-- Every kind of unit adopts GEN and CFG_ID at its flip, and its shadow is no longer ready (R162). -/
theorem adopted_flipUnit {gone : Bool} : unitGen (flipUnit tr gone u s) u = tr.gen ∧ (unitCfg (flipUnit tr gone u s) u).2 = (tr.cfg, false) := by
  unfold unitGen unitCfg
  split
  · next h => rw [getTile_flipUnit h]; exact ⟨rfl, rfl⟩
  split
  · next h h' =>
    obtain ⟨hgen, hcfg, hready⟩ := getSu_flipUnit (tr := tr) (gone := gone) (s := s) h h'
    exact ⟨hgen, Prod.ext hcfg hready⟩
  · next h h' =>
    obtain ⟨hgen, hcfg, hready⟩ := getSwitch_flipUnit (tr := tr) (gone := gone) (s := s) h'
    exact ⟨hgen, Prod.ext hcfg hready⟩

theorem getA_of_nil {v : Tile} (h : v.a = []) : getA v k = 0 := by
  rw [getA, h, tget_nil]
  exact BitVec.toNat_zero

theorem getP_of_nil {v : Tile} (h : v.p = []) : getP v k = 0 := by
  rw [getP, h, tget_nil]
  exact BitVec.toNat_zero

/-- What R159 says of a tile at its flip: scalar and vector registers, TILE_FLAGS and tile store keep their contents, accumulators and
predicates read 0, and MODE is its active bank's. -/
theorem flipTile_keeps_contents {bank : TileBank} {seeded : Bool} {v w : Tile} (h : w = flipTile tr bank seeded v) :
    w.active = bank ∧ w.size = tr.size ∧ w.mode = bank.mode ∧ (∀ r, getA w r = 0 ∧ getP w r = 0) ∧ w.s = v.s ∧ w.v = v.v ∧
      w.flags = v.flags ∧ w.ts = v.ts := by
  subst h
  exact ⟨rfl, rfl, rfl, fun _ => ⟨getA_of_nil rfl, getP_of_nil rfl⟩, rfl, rfl, rfl, rfl⟩

/-- A unit that flips is in the new generation with the transition's CFG_ID, its shadow is not ready, and a tile is what `flipUnit` makes of
it. -/
theorem unitFlip_unit (h : SameUnits (flipUnit tr (vacated g tr (plotOfUnit u)) u s) (unitFlip u s)) :
    unitGen (unitFlip u s) u = tr.gen ∧ (unitCfg (unitFlip u s) u).2 = (tr.cfg, false) ∧
      (u < 1024 → getTile (unitFlip u s) u = flipTile tr
        (if vacated g tr (plotOfUnit u) then TileBank.init
          else if (getTile s u).shadowReady then (getTile s u).shadow else (getTile s u).active)
        (!vacated g tr (plotOfUnit u)) (getTile s u)) := by
  rw [h.unitGen_eq, h.unitCfg_eq, h.getTile_eq]
  exact ⟨adopted_flipUnit.1, adopted_flipUnit.2, getTile_flipUnit⟩

/-- The tile of a plot that stays takes its shadow bank, or keeps its active one where the shadow holds no seed (R158). -/
theorem getTile_unitFlip_stays (hstays : vacated g tr (plotOfUnit u) = false)
    (h : SameUnits (flipUnit tr (vacated g tr (plotOfUnit u)) u s) (unitFlip u s)) (hu : u < 1024) : getTile (unitFlip u s) u =
      flipTile tr (if (unitCfg s u).2.2 then (getTile s u).shadow else (getTile s u).active) true (getTile s u) := by
  have hready : (unitCfg s u).2.2 = (getTile s u).shadowReady := by simp [unitCfg, hu]
  obtain ⟨-, -, htile⟩ := unitFlip_unit h
  rw [htile hu, hstays, hready]
  rfl

/-! ### O29 -/

/-- Settles O29, clause by clause from the facts above: seeds (R158; a reload fills the active bank by the model's choice of log 53), the end
of old work (R161), flips (R159, R162), and the replant that a wrong seed brings about (R165, R169). -/
theorem unitTransitions : Obligations.UnitTransitions := by
  unfold Obligations.UnitTransitions
  refine ⟨?tileSeed, ?tileReload, ?suSeed, ?switchSeed, ?finish, ?finishWaits, ?flip, ?flipSame, ?flipVacated, ?flipWaits, ?wrongSeed⟩
  case tileSeed =>
    intro s u cfg mode watch words g hup hg hu hr
    obtain ⟨n, hn, hexec⟩ := exec_seedShadowReady (words := words) (v := u) (c := cfg) (m := mode) (w := watch) hup
    obtain ⟨htile, hother⟩ := getTile_seedReady_shadow (cfg := cfg.toNat) (mode := mode) (watch := n) (words := words) hg hr hu
    refine ⟨_, hexec, ?_⟩
    rw [htile]
    exact ⟨rfl, rfl, Nat.mod_eq_of_lt mode.isLt, hn, fun i hi hw => tileBankOf_words hi hw, rfl, hother⟩
  case tileReload =>
    intro s u cfg mode watch words g hup hg hu hr hp hpend
    obtain ⟨n, -, hexec⟩ := exec_seedShadowReady (words := words) (v := u) (c := cfg) (m := mode) (w := watch) hup
    obtain ⟨htile, hother⟩ := getTile_seedReady_active (mode := mode) (watch := n) (words := words) hg hr hp hpend hu
    refine ⟨_, hexec, ?_⟩
    rw [htile]
    exact ⟨rfl, rfl, rfl, Nat.mod_eq_of_lt mode.isLt, rfl, fun i hi hw => tileBankOf_words hi hw, hother⟩
  case suSeed =>
    intro s u cfg mode watch w words g hup hg hlo hhi hr
    obtain ⟨n, -, hexec⟩ := exec_seedShadowReady (words := w :: words) (v := u) (c := cfg) (m := mode) (w := watch) hup
    refine ⟨_, hexec, ?_⟩
    rw [getSu_seedReady_shadow hg hr hlo hhi]
    exact ⟨rfl, rfl, rfl, rfl⟩
  case switchSeed =>
    intro s u cfg mode watch a b c g hup hg hlo hr
    obtain ⟨n, -, hexec⟩ := exec_seedShadowReady (words := [a, b, c]) (v := u) (c := cfg) (m := mode) (w := watch) hup
    refine ⟨_, hexec, ?_⟩
    rw [getSwitch_seedReady_shadow hg hr hlo]
    exact ⟨rfl, rfl, rfl, rfl⟩
  case finish =>
    intro s u g tr hup hg ht hp hfin hgen hseen hquiet hroom
    have hmoves := unitFinish_finishes hg ht hp hfin hgen hseen hquiet hroom
    refine ⟨_, exec_unitFinishOldWork hup, ?_, fun hu => ?_, ?_⟩
    · rw [hmoves.finished, finished_dropLeftovers]
      exact List.mem_append_right _ (List.mem_singleton_self _)
    · rw [hmoves.getTile_eq, (dropLeftovers_tile hu).getTile_eq, getTile_updTile_same]
    · rw [hmoves.unitGen_eq, unitGen_dropLeftovers]
      rfl
  case finishWaits =>
    intro s u g tr hup hg ht h
    rw [exec_unitFinishOldWork hup, unitFinish_waits hg ht h]
  case flip =>
    intro s u g tr hup hg ht hstays hfin hgen hready hcfg
    have hflip := unitFlip_flips hg ht hfin hgen (by simp [unitReady, hready]) (fun _ => .inl hcfg)
    obtain ⟨hnew, hadopted, -⟩ := unitFlip_unit hflip
    refine ⟨_, exec_unitFlip hup, hnew, congrArg Prod.fst hadopted, congrArg Prod.snd hadopted, fun hu => ?_⟩
    have htile := getTile_unitFlip_stays hstays hflip hu
    rw [hready] at htile
    exact flipTile_keeps_contents htile
  case flipSame =>
    intro s u g tr hup hg ht hstays hfin hgen hready hseed
    have hflip := unitFlip_flips hg ht hfin hgen (by simp [unitReady, hseed]) (fun h => by rw [hready] at h; cases h)
    obtain ⟨hnew, hadopted, -⟩ := unitFlip_unit hflip
    refine ⟨_, exec_unitFlip hup, hnew, congrArg Prod.fst hadopted, fun hu => ?_⟩
    have htile := getTile_unitFlip_stays hstays hflip hu
    rw [hready] at htile
    exact flipTile_keeps_contents htile
  case flipVacated =>
    intro s u g tr hup hg ht hgone hfin hgen hu
    have hflip := unitFlip_flips hg ht hfin hgen (by simp [unitReady, hgone]) (fun _ => .inr hgone)
    obtain ⟨hnew, -, htile⟩ := unitFlip_unit hflip
    refine ⟨_, exec_unitFlip hup, hnew, ?_⟩
    rw [htile hu, hgone]
    exact ⟨rfl, rfl⟩
  case flipWaits =>
    intro s u g tr hup hg ht h
    rw [exec_unitFlip hup, unitFlip_waits hg ht h]
  case wrongSeed =>
    intro s u g tr hup hg ht hstays hfin hgen hready hwrong
    exact ⟨_, exec_unitFlip hup, fun p hp => (noTokens_unitFlip hg ht hfin hgen hready hwrong hstays hp).plotTokens_eq⟩

end Sys2Proof.Machine
end

section
/-! PROOF. A tile's scalar operands as words: what the model computes on numbers is what the words of R181 and R182 give. -/
namespace Sys2Proof.Machine

variable {n op c kind r w : Nat} {T : Tile} {x y : Word}

/-! ### Registers and immediates -/

theorem toSigned_toNat (x : BitVec n) : toSigned n x.toNat = x.toInt := by
  unfold toSigned
  rw [Nat.mod_eq_of_lt x.isLt, BitVec.toInt_eq_toNat_cond]
  cases n with
  | zero => simp [BitVec.of_length_zero]
  | succ n => exact if_congr (by rw [Nat.add_sub_cancel]; omega) rfl rfl

theorem ofSigned_eq_toNat (i : Int) : ofSigned n i = (BitVec.ofInt n i).toNat := (BitVec.toNat_ofInt i).symm

theorem getS_eq_toNat : getS T r = (sreg T r).toNat := by
  refine (Nat.mod_eq_of_lt ?_).symm
  unfold getS
  split
  · decide
  · exact BitVec.isLt _

theorem getP_eq_toNat : getP T r = (preg T r).toNat := (Nat.mod_eq_of_lt (BitVec.isLt _)).symm

theorem fImm_eq_toNat : fImm w = (BitVec.ofNat 16 w).toNat := by simp [fImm, bitsOf]

theorem fImm_eq_toNat_setWidth : fImm w = ((BitVec.ofNat 16 w).setWidth 32).toNat := by
  rw [fImm_eq_toNat, BitVec.toNat_setWidth_of_le (by decide)]

theorem fSimm_eq_toNat : fSimm w = (simm w).toNat := by
  rw [fSimm, fImm_eq_toNat, toSigned_toNat, ofSigned_eq_toNat]
  rfl

/-! ### Shifts -/

/-- The two parts of a rotation share no bit, so that their sum is their union. -/
theorem rotateRight_eq_add (h : n < 32) : x.rotateRight n = x >>> n + x <<< (32 - n) := by
  have hdisjoint : x >>> n &&& x <<< (32 - n) = 0#32 := by
    refine BitVec.eq_of_getLsbD_eq fun i hi => ?_
    rw [BitVec.getLsbD_and, BitVec.getLsbD_ushiftRight, BitVec.getLsbD_shiftLeft, BitVec.getLsbD_zero]
    by_cases hlow : i < 32 - n
    · simp [hlow]
    · rw [BitVec.getLsbD_of_ge x (n + i) (by omega), Bool.false_and]
  rw [BitVec.rotateRight_def, Nat.mod_eq_of_lt h, BitVec.add_eq_or_of_and_eq_zero _ _ hdisjoint]

theorem shift32_toNat (h : n < 32) : shift32 kind x.toNat n = (shiftSpec kind x n).toNat := by
  match kind with
  | 0 => exact (BitVec.toNat_shiftLeft ..).symm
  | 1 => exact (BitVec.toNat_ushiftRight ..).symm
  | 2 =>
    change ofSigned 32 (toSigned 32 x.toNat / (2 ^ n : Nat)) = (x.sshiftRight n).toNat
    rw [toSigned_toNat, ofSigned_eq_toNat, BitVec.sshiftRight, Int.shiftRight_eq_div_pow]
  | _ + 3 =>
    change (x.toNat >>> n + x.toNat <<< (32 - n)) % 2 ^ 32 = (x.rotateRight n).toNat
    rw [rotateRight_eq_add h, BitVec.toNat_add, BitVec.toNat_ushiftRight, BitVec.toNat_shiftLeft, Nat.add_mod_mod]

/-! ### The operations of ALU (R181) -/

theorem sub_toNat : (x.toNat + 2 ^ 32 - y.toNat) % 2 ^ 32 = (x - y).toNat := by
  rw [BitVec.toNat_sub]
  omega

/-- MULH: the upper half of the signed product. -/
theorem mulHigh_signed :
    ofSigned 32 (x.toInt * y.toInt / (2 ^ 32 : Nat)) = ((x.signExtend 64 * y.signExtend 64).extractLsb' 32 32).toNat := by
  have hprod : x.signExtend 64 * y.signExtend 64 = BitVec.ofInt 64 (x.toInt * y.toInt) := (BitVec.ofInt_mul ..).symm
  rw [hprod, BitVec.extractLsb'_toNat, BitVec.toNat_ofInt, ofSigned, Nat.shiftRight_eq_div_pow]
  omega

/-- MULHU: the upper half of the unsigned product, which 64 bits hold. -/
theorem mulHigh_unsigned : x.toNat * y.toNat / 2 ^ 32 = ((x.setWidth 64 * y.setWidth 64).extractLsb' 32 32).toNat := by
  have hprod : x.toNat * y.toNat < 2 ^ 32 * 2 ^ 32 := Nat.mul_lt_mul'' x.isLt y.isLt
  rw [BitVec.extractLsb'_toNat, BitVec.toNat_mul, BitVec.toNat_setWidth_of_le (by decide), BitVec.toNat_setWidth_of_le (by decide),
    Nat.shiftRight_eq_div_pow]
  omega

/-- ADDS: a result held in the range of a signed word, flagged where it was outside. -/
theorem satInt_word (v : Int) : satInt 32 true v = ((BitVec.ofInt 32 (max (-(2 ^ 31)) (min (2 ^ 31 - 1) v))).toNat,
    if v < -(2 ^ 31) ∨ 2 ^ 31 ≤ v then flSAT else 0) := by
  have hclamp : clampInt (intLo 32 true) (intHi 32 true) v = max (-(2 ^ 31)) (min (2 ^ 31 - 1) v) := by
    simp only [clampInt, intLo, intHi, if_true]
    omega
  unfold satInt
  rw [hclamp, ofSigned_eq_toNat]
  exact congrArg _ (if_congr (by simp only [intLo, intHi, if_true]; omega) rfl rfl)

theorem aluOp_fst : (aluOp op x.toNat y.toNat).1 = (aluSpec op x y).toNat := by
  have hamount : y.toNat % 32 < 32 := Nat.mod_lt _ (by decide)
  match op with
  | 0 => exact (BitVec.toNat_add ..).symm
  | 1 => exact sub_toNat
  | 2 => exact (BitVec.toNat_and ..).symm
  | 3 => exact (BitVec.toNat_or ..).symm
  | 4 => exact (BitVec.toNat_xor ..).symm
  | 5 => exact shift32_toNat (kind := 0) hamount
  | 6 => exact shift32_toNat (kind := 1) hamount
  | 7 => exact shift32_toNat (kind := 2) hamount
  | 8 => exact (BitVec.toNat_mul ..).symm
  | 9 => simpa only [aluOp, aluSpec, toSigned_toNat] using mulHigh_signed
  | 10 => exact mulHigh_unsigned
  | 11 => simp only [aluOp, aluSpec, toSigned_toNat, BitVec.sle_iff_toInt_le, apply_ite BitVec.toNat]
  | 12 => simp only [aluOp, aluSpec, toSigned_toNat, BitVec.sle_iff_toInt_le, apply_ite BitVec.toNat]
  | 13 => simp only [aluOp, aluSpec, BitVec.ule_iff_toNat_le, apply_ite BitVec.toNat, min_def]
  | 14 => simp only [aluOp, aluSpec, BitVec.ule_iff_toNat_le, apply_ite BitVec.toNat, max_def]
  | _ + 15 =>
    change (satInt 32 true (toSigned 32 x.toNat + toSigned 32 y.toNat)).1 = _
    rw [toSigned_toNat, toSigned_toNat, satInt_word]
    rfl

/-- Of the sixteen operations ADDS alone raises a flag. -/
theorem aluOp_snd (h : op < 16) : (aluOp op x.toNat y.toNat).2 = if op = 15 ∧ addsOverflows x y = true then flSAT else 0 := by
  rcases Nat.lt_or_eq_of_le (Nat.le_of_lt_succ h) with hop | rfl
  · rw [if_neg (by omega)]
    interval_cases op <;> rfl
  · simp only [aluOp, toSigned_toNat, satInt_word, addsOverflows, decide_eq_true_eq, true_and]

/-! ### Conditions and predicates (R182) -/

theorem cmpCond_toNat : cmpCond c x.toNat y.toNat = cmpSpec c x y := by
  match c with
  | 0 => simp only [cmpCond, cmpSpec, BitVec.toNat_inj]
  | 1 => simp only [cmpCond, cmpSpec, BitVec.toNat_ne_iff_ne]
  | 2 => simp only [cmpCond, cmpSpec, toSigned_toNat, BitVec.slt]
  | 3 => simp only [cmpCond, cmpSpec, toSigned_toNat, BitVec.slt, ← decide_not, not_lt]
  | 4 => simp only [cmpCond, cmpSpec, BitVec.ult]
  | 5 => simp only [cmpCond, cmpSpec, BitVec.ult, ← decide_not, not_lt]
  | _ + 6 => simp only [cmpCond, cmpSpec, BitVec.toNat_inj]

theorem allBits_eq_toNat (b : Bool) : allBits b = (if b then BitVec.allOnes 64 else 0).toNat := by
  cases b <;> rfl

/-- Exclusive or with all ones is the complement. -/
theorem ones_xor_toNat (x : BitVec 64) : (2 ^ 64 - 1) ^^^ x.toNat = (~~~x).toNat := by
  rw [BitVec.not_def, BitVec.toNat_xor, BitVec.toNat_allOnes]

/-! ### The tile that each instruction computes -/

theorem aluTile_eq : aluTile w T = orFlags
    (if bitsOf w 0 4 = 15 ∧ addsOverflows (sreg T (fRa w)) (sreg T (fRb w)) = true then flSAT else 0)
    (setS (fRd w) (aluSpec (bitsOf w 0 4) (sreg T (fRa w)) (sreg T (fRb w))).toNat T) := by
  rw [← aluOp_snd bitsOf_lt, ← aluOp_fst, ← getS_eq_toNat, ← getS_eq_toNat]
  rfl

theorem addiTile_eq : addiTile w T = setS (fRd w) (sreg T (fRa w) + simm w).toNat T := by
  rw [BitVec.toNat_add, ← getS_eq_toNat, ← fSimm_eq_toNat]
  rfl

theorem andiTile_eq : andiTile w T = setS (fRd w) (sreg T (fRa w) &&& (BitVec.ofNat 16 w).setWidth 32).toNat T := by
  rw [BitVec.toNat_and, ← getS_eq_toNat, ← fImm_eq_toNat_setWidth]
  rfl

theorem oriTile_eq : oriTile w T = setS (fRd w) (sreg T (fRa w) ||| (BitVec.ofNat 16 w).setWidth 32).toNat T := by
  rw [BitVec.toNat_or, ← getS_eq_toNat, ← fImm_eq_toNat_setWidth]
  rfl

theorem xoriTile_eq : xoriTile w T = setS (fRd w) (sreg T (fRa w) ^^^ (BitVec.ofNat 16 w).setWidth 32).toNat T := by
  rw [BitVec.toNat_xor, ← getS_eq_toNat, ← fImm_eq_toNat_setWidth]
  rfl

/-- The 16 bits of IMM lose none in the upper half of a word. -/
theorem luiTile_eq : luiTile w T = setS (fRd w) ((BitVec.ofNat 16 w).setWidth 32 <<< 16).toNat T := by
  have himm : fImm w < 2 ^ 16 := bitsOf_lt
  rw [BitVec.toNat_shiftLeft, ← fImm_eq_toNat_setWidth, Nat.shiftLeft_eq, Nat.mod_eq_of_lt (by omega)]
  rfl

theorem shiTile_eq : shiTile w T = setS (fRd w) (shiftSpec (bitsOf w 5 2) (sreg T (fRa w)) (bitsOf w 0 5)).toNat T := by
  rw [← shift32_toNat bitsOf_lt, ← getS_eq_toNat]
  rfl

theorem cmpTile_eq : cmpTile w T = setP (fRd w)
    (if cmpSpec (bitsOf w 0 3) (sreg T (fRa w)) (sreg T (fRb w)) then BitVec.allOnes 64 else 0).toNat T := by
  rw [← allBits_eq_toNat, ← cmpCond_toNat, ← getS_eq_toNat, ← getS_eq_toNat]
  rfl

theorem cmpiTile_eq : cmpiTile w T = setP (bitsOf w 21 2)
    (if cmpSpec (bitsOf w 23 3) (sreg T (fRa w)) (simm w) then BitVec.allOnes 64 else 0).toNat T := by
  rw [← allBits_eq_toNat, ← cmpCond_toNat, ← getS_eq_toNat, ← fSimm_eq_toNat]
  rfl

theorem plogTile_eq :
    plogTile w T = setP (fRd w) (plogSpec (bitsOf w 0 3) (preg T (fRa w)) (preg T (fRb w))).toNat T := by
  simp only [plogTile, getP_eq_toNat, ones_xor_toNat]
  refine congrArg (setP (fRd w) · T) ?_
  generalize bitsOf w 0 3 = c
  match c with
  | 0 => exact (BitVec.toNat_and ..).symm
  | 1 => exact (BitVec.toNat_or ..).symm
  | 2 => exact (BitVec.toNat_xor ..).symm
  | 3 => exact (BitVec.toNat_and ..).symm
  | 4 => rfl
  | 5 => rfl
  | 6 => rfl
  | _ + 7 => exact (BitVec.toNat_and ..).symm

end Sys2Proof.Machine
end

section
/-! PROOF. How an instruction leaves its tile when it issues, branches, ends the block or faults (R179, R180, R182, R199), and O30 and O32
from these facts. -/
namespace Sys2Proof.Machine

variable {s : State} {j k op w cause i : Nat} {T : Tile}

@[simp] theorem getTile_setTile_same : getTile (setTile k T s) k = T := tget_tset_same _

theorem getTile_setTile_other (h : j ≠ k) : getTile (setTile k T s) j = getTile s j := tget_tset_other h _

/-! ### Faults (R199) -/

theorem getTile_tileFault_same : getTile (tileFault k cause s) k = { getTile s k with run := .fault, cause := cause } := by
  simp [tileFault, getTile, setTile]

theorem getTile_tileFault_other (h : j ≠ k) : getTile (tileFault k cause s) j = getTile s j := by
  simp [tileFault, getTile, setTile, tget_tset_other h]

/-- An event changes no counter but RST_BACKLOG_DROP. -/
theorem raiseOn_cnt {d code src a0 a1 a2 : Nat} (h : i ≠ 64) : tget 0 i (raiseOn d code src a0 a1 a2 s).cnt = tget 0 i s.cnt := by
  unfold raiseOn
  rw [raise_cnt h, sendFlit_keeps.at .cnt rfl]
  split
  · rw [traceWrite_keeps.at .cnt rfl]
  · rfl

/-- A fault counts once in the counter of the tile's plot. -/
theorem tileFault_counted : Counted (960 + 15 * plotOfTile k + 9) 1 s (tileFault k cause s) := by
  have hidx : 960 + 15 * plotOfTile k + 9 ≠ 64 := by omega
  exact (raiseOn_cnt hidx).trans (bump_counted hidx)

/-! ### Instructions that change only their own tile -/

section
variable {f : Nat → Tile → Tile}

theorem tileInstr_issues (h : Issues s k op w) (hf : f w (getTile s k) = T) :
    tileInstr k op (fun w t => .ok (f w t)) s = setTile k (advance T) s := by
  obtain ⟨hexec, hword, hpc⟩ := h
  simp only [tileInstr, if_pos hexec, hword, hf, if_neg (Nat.not_le_of_lt hpc)]

theorem tileInstr_lastPc (h : canExec s k op = true) (hpc : (getTile s k).pc = 1023) :
    tileInstr k op (fun w t => .ok (f w t)) s = tileFault k 4 s := by
  simp only [tileInstr, if_pos h, hpc, le_refl, if_true]

end

/-! ### BR and HALT -/

theorem brTaken_eq : brTaken w T =
    match bitsOf w 24 2 with
    | 0 => true
    | 1 => (preg T (bitsOf w 22 2)).getLsbD 0
    | 2 => !(preg T (bitsOf w 22 2)).getLsbD 0
    | _ => decide (preg T (bitsOf w 22 2) ≠ 0) := by
  unfold brTaken
  rw [getP_eq_toNat]
  generalize bitsOf w 24 2 = c
  match c with
  | 0 => rfl
  | 1 => exact BitVec.testBit_toNat ..
  | 2 => exact congrArg not (BitVec.testBit_toNat ..)
  | _ + 3 => exact decide_eq_decide.mpr (BitVec.toNat_ne_iff_ne (y := 0))

/-- BR takes its target or goes on at PC + 1. -/
theorem brState_issues (h : Issues s k 0x3D w) : brState k s =
    setTile k { getTile s k with run := .running, pc := if brTaken w (getTile s k) then bitsOf w 0 10 else (getTile s k).pc + 1 } s := by
  obtain ⟨hexec, hword, hpc⟩ := h
  simp only [brState, hexec, hword, Bool.not_true, Bool.false_eq_true, if_false, if_neg (Nat.not_le_of_lt hpc)]
  split <;> rfl

theorem haltState_issues (h : Issues s k 0x3F w) : haltState k s = noteStall k (setTile k { advance (getTile s k) with run := .idle } s) := by
  obtain ⟨hexec, -, hpc⟩ := h
  simp only [haltState, hexec, Bool.not_true, Bool.false_eq_true, if_false, if_neg (Nat.not_le_of_lt hpc)]

theorem haltState_lastPc (h : canExec s k 0x3F = true) (hpc : (getTile s k).pc = 1023) : haltState k s = tileFault k 4 s := by
  simp only [haltState, h, hpc, Bool.not_true, Bool.false_eq_true, if_false, le_refl, if_true]

/-- Of a tile whose stall is noted only the mark of the stall differs. -/
theorem getTile_noteStall_same : ∃ b, getTile (noteStall k s) k = { getTile s k with msStall := b } := by
  unfold noteStall
  extract_lets t stall s'
  refine ⟨stall, ?_⟩
  split
  · exact (getTile_congr bump_tiles).trans getTile_setTile_same
  · exact getTile_setTile_same

theorem getTile_noteStall_other (h : j ≠ k) : getTile (noteStall k s) j = getTile s j := by
  unfold noteStall
  extract_lets t stall s'
  split
  · exact (getTile_congr bump_tiles).trans (getTile_setTile_other h)
  · exact getTile_setTile_other h

/-! ### Special registers (R173) -/

/-- OT takes every bit but GEN from the register (R195). -/
theorem mtsTile_eq : mtsTile w T =
    match bitsOf w 0 4 with
    | 0 => { T with mode := getS T (fRa w) % 8 }
    | 1 => { T with flags := T.flags ^^^ (T.flags &&& getS T (fRa w)) }
    | 3 => { T with ot := getS T (fRa w) % 2 ^ 13 + 2 ^ 13 * (T.gen % 4) + 2 ^ 15 * (getS T (fRa w) / 2 ^ 15 % 2) }
    | 8 => { T with zpa := getS T (fRa w) % 256 }
    | _ => T := by
  have hot (v : Nat) : otWrite v T = { T with ot := v % 2 ^ 13 + 2 ^ 13 * (T.gen % 4) + 2 ^ 15 * (v / 2 ^ 15 % 2) } := by
    simp [otWrite, setGen, bitsOf, Nat.shiftRight_eq_div_pow]
  simp only [mtsTile, hot] <;> rfl

/-! ### RESERVED_OPCODE (R180) -/

theorem exec_reservedOpcode {t : Fin 1024} (hon : plotsOn s = true) (hrun : (getTile s t).run = .running)
    (hop : opKnown (fOp (tileWord (getTile s t))) = false) : exec (.reservedOpcode t) s = .next (tileFault t 1 s) :=
  congrArg Host.Outcome.next (if_pos (by simp [hon, hrun, hop]))

/-! ### O30 and O32 -/

/-- Settles O30: each instruction writes the word that R181 gives (MFS the special register, R173) and advances the PC. -/
theorem tileScalarResults : Obligations.TileScalarResults := by
  unfold Obligations.TileScalarResults
  rintro s k w _ rfl
  refine ⟨fun h => ?nop, fun h => ?alu, fun h => ?addi, fun h => ?andi, fun h => ?ori, fun h => ?xori, fun h => ?lui, fun h => ?shi,
    fun h => ?mfs⟩ <;> refine congrArg Host.Outcome.next (tileInstr_issues h ?_)
  case nop => rfl
  case alu => exact aluTile_eq
  case addi => exact addiTile_eq
  case andi => exact andiTile_eq
  case ori => exact oriTile_eq
  case xori => exact xoriTile_eq
  case lui => exact luiTile_eq
  case shi => exact shiTile_eq
  case mfs => rfl

/-- Settles O32, clause by clause from the facts above (R173, R174, R179, R180, R182, R195, R199); that the last PC faults with cause 4 before
any other effect is the model's choice of log 49. -/
theorem tileControl : Obligations.TileControl := by
  unfold Obligations.TileControl
  rintro s k w _ rfl
  refine ⟨fun h => ?mts, fun h => ?cmp, fun h => ?cmpi, fun h => ?plog, fun h => ?br, fun h => ?halt, fun h hpc => ?haltLast,
    fun hon hrun hop => ?reserved, fun h hpc => ?nopLast⟩
  case mts => exact congrArg Host.Outcome.next (tileInstr_issues h mtsTile_eq)
  case cmp => exact congrArg Host.Outcome.next (tileInstr_issues h cmpTile_eq)
  case cmpi => exact congrArg Host.Outcome.next (tileInstr_issues h cmpiTile_eq)
  case plog => exact congrArg Host.Outcome.next (tileInstr_issues h plogTile_eq)
  case br =>
    have hbr := brState_issues h
    rw [brTaken_eq] at hbr
    exact congrArg Host.Outcome.next hbr
  case halt =>
    have hhalt : exec (.halt k) s = .next _ := congrArg Host.Outcome.next (haltState_issues h)
    obtain ⟨b, htile⟩ := getTile_noteStall_same (k := k) (s := setTile k { advance (getTile s k) with run := .idle } s)
    rw [getTile_setTile_same] at htile
    refine ⟨_, hhalt, ?_⟩
    rw [htile]
    exact ⟨rfl, rfl, rfl, rfl, fun j hj => (getTile_noteStall_other hj).trans (getTile_setTile_other hj)⟩
  case haltLast => exact ⟨_, congrArg Host.Outcome.next (haltState_lastPc h hpc), getTile_tileFault_same⟩
  case reserved =>
    exact ⟨_, exec_reservedOpcode hon hrun hop, getTile_tileFault_same, tileFault_counted, fun j hj => getTile_tileFault_other hj⟩
  case nopLast => exact ⟨_, congrArg Host.Outcome.next (tileInstr_lastPc h hpc), getTile_tileFault_same, tileFault_counted⟩

end Sys2Proof.Machine
end

section
/-! PROOF. Sync objects at their home (R379 to R381): what a read of an object returns after its value or its SAT is set, what each operation of
Table SYN-2 makes of a state, and O39 from these facts. -/
namespace Sys2Proof.Machine

variable {s t : State} {who j k v : Nat} {b : Bool} {op : SynOp}

/-! ### Reads of an object after a write to one -/

theorem synVal_lt : synVal s k < 2 ^ 32 := getReg_lt

theorem synVal_setSyn_same (hk : k < 128) (hv : v < 2 ^ 32) : synVal (setSyn k v s) k = v := by
  unfold synVal setSyn setRegIn
  rw [if_pos (by omega), getReg_setReg_same, Nat.mod_eq_of_lt hv]

theorem synVal_setSyn_other (hj : j ≠ k) : synVal (setSyn k v s) j = synVal s j := by
  unfold synVal setSyn setRegIn
  split
  · exact getReg_setReg_other (by omega)
  · rfl

/-- SYN_CFG of every object lies apart from every value. -/
theorem synCfg_setSyn : getReg (setSyn k v s) (0x3C04 + 8 * j) = getReg s (0x3C04 + 8 * j) := by
  unfold setSyn setRegIn
  split
  · exact getReg_setReg_other (by omega)
  · rfl

@[simp] theorem synSat_setSyn : synSat (setSyn k v s) j = synSat s j := by simp only [synSat, synCfg_setSyn]

@[simp] theorem synType_setSyn : synType (setSyn k v s) j = synType s j := by simp only [synType, regF, synCfg_setSyn]

@[simp] theorem synThreshold_setSyn : synThreshold (setSyn k v s) j = synThreshold s j := by
  simp only [synThreshold, regF, synCfg_setSyn]

@[simp] theorem synVal_setSynSat : synVal (setSynSat k b s) j = synVal s j := by
  unfold synVal setSynSat setRegIn
  split
  · exact getReg_setReg_other (by omega)
  · rfl

theorem synCfg_setSynSat_other (hj : j ≠ k) : getReg (setSynSat k b s) (0x3C04 + 8 * j) = getReg s (0x3C04 + 8 * j) := by
  unfold setSynSat setRegIn
  split
  · exact getReg_setReg_other (by omega)
  · rfl

/-- Of an object's own SYN_CFG, setting SAT changes bit 2 alone. -/
theorem testBit_synCfg_setSynSat (hk : k < 128) {i : Nat} :
    (getReg (setSynSat k b s) (0x3C04 + 8 * k)).testBit i = if i = 2 then b else (getReg s (0x3C04 + 8 * k)).testBit i := by
  unfold setSynSat setRegIn
  rw [if_pos (by omega), getReg_setReg_same, Nat.testBit_mod_two_pow, testBit_setBitTo]
  by_cases hi : i < 32
  · simp [hi]
  · have hout : (getReg s (0x3C04 + 8 * k)).testBit i = false :=
      Nat.testBit_lt_two_pow (getReg_lt.trans_le (Nat.pow_le_pow_right (by decide) (by omega)))
    simp [hi, hout, show i ≠ 2 by omega]

theorem synSat_setSynSat_same (hk : k < 128) : synSat (setSynSat k b s) k = b :=
  (testBit_synCfg_setSynSat hk).trans (if_pos rfl)

theorem synSat_setSynSat_other (hj : j ≠ k) : synSat (setSynSat k b s) j = synSat s j := by
  simp only [synSat, synCfg_setSynSat_other hj]

/-- A field of SYN_CFG that does not hold SAT reads as before. -/
theorem regF_setSynSat (hk : k < 128) {lo len : Nat} (hout : ∀ i < len, lo + i ≠ 2) :
    regF (setSynSat k b s) (0x3C04 + 8 * k) lo len = regF s (0x3C04 + 8 * k) lo len := by
  refine Nat.eq_of_testBit_eq fun i => ?_
  simp only [regF, bitsOf, Nat.testBit_mod_two_pow, Nat.testBit_shiftRight, testBit_synCfg_setSynSat hk]
  by_cases hi : i < len
  · simp [hi, hout i hi]
  · simp [hi]

theorem synType_setSynSat_same (hk : k < 128) : synType (setSynSat k b s) k = synType s k :=
  regF_setSynSat hk fun i hi => by omega

theorem synThreshold_setSynSat_same (hk : k < 128) : synThreshold (setSynSat k b s) k = synThreshold s k :=
  congrArg (max 1) (regF_setSynSat hk fun i hi => by omega)

/-! ### THRESHOLD -/

theorem synThreshold_pos : 0 < synThreshold s k := Nat.lt_of_lt_of_le Nat.one_pos (Nat.le_max_left ..)

theorem synThreshold_lt : synThreshold s k < 2 ^ 16 := Nat.max_lt.mpr ⟨by decide, bitsOf_lt⟩

/-! ### Operations by type (Table SYN-2) -/

theorem synApply_add_count (h : synType s k < 2) : (synApply .add who k v s).1 = synAdd who k v s := by
  simp [synApply, show synType s k ≠ 2 by omega, show synType s k ≠ 3 by omega]

theorem synApply_add_barrier (h : synType s k = 2) : (synApply .add who k v s).1 = synArrive k v s := by simp [synApply, h]

theorem synApply_add_flag (h : synType s k = 3) : (synApply .add who k v s).1 = if v = 0 then s else setSyn k 1 s := by
  simp [synApply, h]

/-- Only a COUNTER is stuck by SAT. -/
theorem synApply_sub_count (h : synType s k < 2) (hn : ¬(synType s k = 0 ∧ synSat s k = true)) :
    (synApply .sub who k v s).1 = setSyn k (synVal s k - v) s := by
  simp [synApply, show synType s k ≠ 2 by omega, show synType s k ≠ 3 by omega, hn]

theorem synApply_sub_stuck (h : synType s k = 0) (hs : synSat s k = true) : (synApply .sub who k v s).1 = s := by
  simp [synApply, h, hs]

theorem synApply_sub_barrier (h : synType s k = 2) :
    (synApply .sub who k v s).1 = setSyn k (synVal s k - synVal s k % 65536 + (synVal s k % 65536 - v)) s := by
  simp [synApply, h]

theorem synApply_sub_flag (h : synType s k = 3) : (synApply .sub who k v s).1 = setSyn k 0 s := by simp [synApply, h]

theorem synApply_set_count (h : synType s k < 2) : (synApply .set who k v s).1 = setSynSat k false (setSyn k v s) := by
  simp [synApply, show synType s k ≠ 2 by omega, show synType s k ≠ 3 by omega]

theorem synApply_set_barrier (h : synType s k = 2) : (synApply .set who k v s).1 = setSyn k v s := by simp [synApply, h]

theorem synApply_set_flag (h : synType s k = 3) : (synApply .set who k v s).1 = setSyn k (if v = 0 then 0 else 1) s := by
  simp [synApply, h]

theorem synApply_trydec_count (h : synType s k < 2) :
    synApply .trydec who k v s = if 1 ≤ synVal s k then (setSyn k (synVal s k - 1) s, true) else (s, false) := by
  simp [synApply, show synType s k ≠ 2 by omega, show synType s k ≠ 3 by omega]

theorem synApply_trydec_barrier (h : synType s k = 2) :
    synApply .trydec who k v s = if 1 ≤ synVal s k % 65536 then (setSyn k (synVal s k - 1) s, true) else (s, false) := by
  simp [synApply, h]

theorem synApply_trydec_flag (h : synType s k = 3) :
    synApply .trydec who k v s = if synVal s k = 1 then (setSyn k 0 s, true) else (s, false) := by
  simp [synApply, h]

theorem synApply_wait_or_read (h : op ∈ [SynOp.waitGe, SynOp.waitEq, SynOp.read]) : synApply op who k v s = (s, false) := by
  simp only [List.mem_cons, List.not_mem_nil, or_false] at h
  rcases h with rfl | rfl | rfl <;> rfl

/-! ### ADD of a COUNTER or SEMAPHORE (R381) -/

theorem synAdd_stuck (h : synType s k = 0) (hs : synSat s k = true) : synAdd who k v s = s := if_pos ⟨h, hs⟩

theorem synAdd_fits (hn : ¬(synType s k = 0 ∧ synSat s k = true)) (h : synVal s k + v < 2 ^ 32) :
    synAdd who k v s = setSyn k (synVal s k + v) s :=
  (if_neg hn).trans (if_neg (Nat.not_le.mpr h))

/-- The counter SYN_SAT_CNT and the event SYN_SAT are no registers, so that only the object's value and SAT are written. -/
theorem getReg_synAdd_saturates (hn : ¬(synType s k = 0 ∧ synSat s k = true)) (h : 2 ^ 32 ≤ synVal s k + v) (off : Nat) :
    getReg (synAdd who k v s) off = getReg (setSynSat k true (setSyn k (2 ^ 32 - 1) s)) off := by
  unfold synAdd
  rw [if_neg hn, if_pos h]
  dsimp only
  split
  · exact bump_getReg
  · rw [raiseOn_getReg, bump_getReg]

/-! ### ADD of a BARRIER (R380) -/

/-- The two fields fit the 32 bits of a value: the threshold has 16 bits, so that what is left of the arrivals is below 2^16. -/
theorem synVal_synArrive (hk : k < 128) :
    synVal (synArrive k v s) k = 65536 * ((synVal s k / 65536 + (synVal s k % 65536 + v) / synThreshold s k) % 65536) +
      (synVal s k % 65536 + v) % synThreshold s k := by
  have hleft : (synVal s k % 65536 + v) % synThreshold s k < synThreshold s k := Nat.mod_lt _ synThreshold_pos
  have ht : synThreshold s k < 2 ^ 16 := synThreshold_lt
  exact synVal_setSyn_same hk (by omega)

/-- The arrivals are counted modulo the threshold, and each full round is a generation. -/
theorem synArrive_fields (hk : k < 128) :
    synVal (synArrive k v s) k % 65536 = (synVal s k % 65536 + v) % synThreshold s k ∧
    synVal (synArrive k v s) k / 65536 = (synVal s k / 65536 + (synVal s k % 65536 + v) / synThreshold s k) % 65536 := by
  have hleft : (synVal s k % 65536 + v) % synThreshold s k < synThreshold s k := Nat.mod_lt _ synThreshold_pos
  have ht : synThreshold s k < 2 ^ 16 := synThreshold_lt
  rw [synVal_synArrive hk]
  omega

/-! ### TRYDEC (R379) -/

/-- The success and the value of a TRYDEC of any type, from its condition `c` and the value `x` that it would leave. -/
theorem decrementIf_effect {c : Prop} [Decidable c] {x : Nat} {r : State × Bool} (hk : k < 128) (hx : x < 2 ^ 32)
    (hr : r = if c then (setSyn k x s, true) else (s, false)) : r.2 = decide c ∧ synVal r.1 k = if c then x else synVal s k := by
  subst hr
  split
  · next hc => exact ⟨(decide_eq_true hc).symm, synVal_setSyn_same hk hx⟩
  · next hc => exact ⟨(decide_eq_false hc).symm, rfl⟩

/-! ### What every operation leaves unchanged -/

/-- From one state to another, objects other than `k` keep their value and SAT, and `k` keeps its type and threshold. -/
structure ChangesOnlySyn (k : Nat) (s t : State) : Prop where
  val_other : ∀ j, j ≠ k → synVal t j = synVal s j
  sat_other : ∀ j, j ≠ k → synSat t j = synSat s j
  type : synType t k = synType s k
  threshold : synThreshold t k = synThreshold s k

namespace ChangesOnlySyn

theorem refl : ChangesOnlySyn k s s := ⟨fun _ _ => rfl, fun _ _ => rfl, rfl, rfl⟩

theorem of_setSyn : ChangesOnlySyn k s (setSyn k v s) :=
  ⟨fun _ => synVal_setSyn_other, fun _ _ => synSat_setSyn, synType_setSyn, synThreshold_setSyn⟩

theorem of_setSynSat_setSyn (hk : k < 128) : ChangesOnlySyn k s (setSynSat k b (setSyn k v s)) where
  val_other _ hj := synVal_setSynSat.trans (synVal_setSyn_other hj)
  sat_other _ hj := (synSat_setSynSat_other hj).trans synSat_setSyn
  type := (synType_setSynSat_same hk).trans synType_setSyn
  threshold := (synThreshold_setSynSat_same hk).trans synThreshold_setSyn

theorem of_decrementIf {c : Prop} [Decidable c] {x : Nat} {r : State × Bool}
    (hr : r = if c then (setSyn k x s, true) else (s, false)) : ChangesOnlySyn k s r.1 := by
  subst hr
  split
  · exact of_setSyn
  · exact refl

theorem of_getReg_eq {u : State} (h : ChangesOnlySyn k s t) (hreg : ∀ off, getReg u off = getReg t off) : ChangesOnlySyn k s u where
  val_other j hj := (hreg _).trans (h.val_other j hj)
  sat_other j hj := (congrArg (Nat.testBit · 2) (hreg _)).trans (h.sat_other j hj)
  type := (congrArg (bitsOf · 0 2) (hreg _)).trans h.type
  threshold := (congrArg (fun x => max 1 (bitsOf x 16 16)) (hreg _)).trans h.threshold

end ChangesOnlySyn

theorem synAdd_changesOnlySyn (hk : k < 128) : ChangesOnlySyn k s (synAdd who k v s) := by
  by_cases hstuck : synType s k = 0 ∧ synSat s k = true
  · obtain ⟨hcounter, hs⟩ := hstuck
    rw [synAdd_stuck hcounter hs]
    exact .refl
  · rcases Nat.lt_or_ge (synVal s k + v) (2 ^ 32) with hfits | hover
    · rw [synAdd_fits hstuck hfits]
      exact .of_setSyn
    · exact (ChangesOnlySyn.of_setSynSat_setSyn hk).of_getReg_eq (getReg_synAdd_saturates hstuck hover)

theorem synApply_changesOnlySyn (hk : k < 128) : ChangesOnlySyn k s (synApply op who k v s).1 := by
  have htype : synType s k < 4 := bitsOf_lt
  have hcases : synType s k < 2 ∨ synType s k = 2 ∨ synType s k = 3 := by omega
  cases op with
  | add =>
    rcases hcases with h | h | h
    · rw [synApply_add_count h]
      exact synAdd_changesOnlySyn hk
    · rw [synApply_add_barrier h]
      exact .of_setSyn
    · rw [synApply_add_flag h]
      split
      · exact .refl
      · exact .of_setSyn
  | sub =>
    rcases hcases with h | h | h
    · by_cases hstuck : synType s k = 0 ∧ synSat s k = true
      · obtain ⟨hcounter, hs⟩ := hstuck
        rw [synApply_sub_stuck hcounter hs]
        exact .refl
      · rw [synApply_sub_count h hstuck]
        exact .of_setSyn
    · rw [synApply_sub_barrier h]
      exact .of_setSyn
    · rw [synApply_sub_flag h]
      exact .of_setSyn
  | set =>
    rcases hcases with h | h | h
    · rw [synApply_set_count h]
      exact .of_setSynSat_setSyn hk
    · rw [synApply_set_barrier h]
      exact .of_setSyn
    · rw [synApply_set_flag h]
      exact .of_setSyn
  | trydec =>
    rcases hcases with h | h | h
    · exact .of_decrementIf (synApply_trydec_count h)
    · exact .of_decrementIf (synApply_trydec_barrier h)
    · exact .of_decrementIf (synApply_trydec_flag h)
  | waitGe | waitEq | read => exact .refl

/-! ### O39 -/

/-- Settles O39, clause by clause from the facts above (Table SYN-2, R379, R380, R381). -/
theorem syncObjectEffects : Obligations.SyncObjectEffects := by
  unfold Obligations.SyncObjectEffects
  intro s who k v hk
  have hx : synVal s k < 2 ^ 32 := synVal_lt
  refine ⟨?addFits, ?addSaturates, ?counterStuck, ?addBarrier, ?threshold, ?thresholdZero, ?addFlag, ?subCount, ?subBarrier, ?subFlag,
    ?setBarrier, ?setFlag, ?setCount, ?trydecCount, ?trydecBarrier, ?trydecFlag, ?noEffect, ?others, ?config⟩
  case addFits =>
    intro h hn hfits
    rw [synApply_add_count h, synAdd_fits hn hfits]
    exact ⟨synVal_setSyn_same hk hfits, synSat_setSyn⟩
  case addSaturates =>
    intro h hn hover
    have hreg := getReg_synAdd_saturates (who := who) hn hover
    rw [synApply_add_count h]
    exact ⟨(hreg _).trans (synVal_setSynSat.trans (synVal_setSyn_same hk (by decide))),
      (congrArg (Nat.testBit · 2) (hreg _)).trans (synSat_setSynSat_same hk)⟩
  case counterStuck =>
    intro h hs
    rw [synApply_add_count (by omega), synAdd_stuck h hs, synApply_sub_stuck h hs]
    exact ⟨rfl, rfl⟩
  case addBarrier =>
    intro h
    rw [synApply_add_barrier h]
    exact synArrive_fields hk
  case threshold => exact fun h => Nat.max_eq_right (Nat.pos_of_ne_zero h)
  case thresholdZero => exact fun h => congrArg (max 1) h
  case addFlag =>
    intro h
    rw [synApply_add_flag h]
    split
    · rfl
    · exact synVal_setSyn_same hk (by decide)
  case subCount =>
    intro h hs
    rw [synApply_sub_count h (by simp [hs])]
    exact synVal_setSyn_same hk (by omega)
  case subBarrier =>
    intro h
    rw [synApply_sub_barrier h, synVal_setSyn_same hk (by omega)]
    omega
  case subFlag =>
    intro h
    rw [synApply_sub_flag h]
    exact synVal_setSyn_same hk (by decide)
  case setBarrier =>
    intro h hv
    rw [synApply_set_barrier h]
    exact synVal_setSyn_same hk hv
  case setFlag =>
    intro h
    rw [synApply_set_flag h]
    exact synVal_setSyn_same hk (by split <;> decide)
  case setCount =>
    intro h hv
    rw [synApply_set_count h, synVal_setSynSat]
    exact ⟨synVal_setSyn_same hk hv, synSat_setSynSat_same hk⟩
  case trydecCount =>
    intro h
    obtain ⟨hok, hval⟩ := decrementIf_effect hk (by omega) (synApply_trydec_count (who := who) (v := v) h)
    exact ⟨hok, hval.trans (by split <;> omega)⟩
  case trydecBarrier => exact fun h => decrementIf_effect hk (by omega) (synApply_trydec_barrier h)
  case trydecFlag => exact fun h => decrementIf_effect hk (by decide) (synApply_trydec_flag h)
  case noEffect => exact fun op hop => congrArg Prod.fst (synApply_wait_or_read hop)
  case others =>
    intro op j hj _
    have h := synApply_changesOnlySyn (op := op) (who := who) (v := v) (s := s) hk
    exact ⟨h.val_other j hj, h.sat_other j hj⟩
  case config =>
    intro op
    have h := synApply_changesOnlySyn (op := op) (who := who) (v := v) (s := s) hk
    exact ⟨h.type, h.threshold⟩

end Sys2Proof.Machine
end

section
/-! PROOF. The whole block: what one step keeps (O1 to O3), the frame of every command (O4), that every command goes on (O5), and what holds
until a reset or the power ends it (O6, O7). -/
namespace Sys2Proof.Machine

variable {s t u : State} {c : Instr} {ps : List Piece}

/-! ### One step -/

/-- Settles O1: the queue's front is the command that `step` matches. -/
theorem stepRunsFront : Obligations.StepRunsFront := by
  unfold Obligations.StepRunsFront
  intro s c rest hq
  simp only [step, hq]

/-- Settles O2: the tables of the state after reset are empty, and an empty table is in canonical form. -/
theorem resetMeetsInvariant : Obligations.ResetMeetsInvariant := by
  unfold Obligations.ResetMeetsInvariant
  exact ⟨rfl, rfl, rfl, rfl, rfl⟩

/-! ### The frame -/

/-- Every command changes only what the table `mayChange` names, and keeps the invariant. -/
theorem exec_keeps (c : Instr) (s : State) : KeepsOut (mayChange c) s (exec c s) :=
  match c with
  | .powerOn .. => out_after (ps := withReset [.trip, .rail, .fuses]) (Keeps.refl s) execPowerOn_keeps rfl
  | .railFault => out_after (Keeps.refl s) execRailFault_keeps rfl
  | .devRstAssert .. => out_after (ps := withReset [.freeCtr]) (Keeps.refl s) execDevRstAssert_keeps rfl
  | .devRstRelease => execDevRstRelease_keeps
  | .bringupOtpDone .. => execBringupOtpDone_keeps
  | .bringupClocksLocked .. => execBringupClocksLocked_keeps
  | .bringupLinksTrained .. => execBringupLinksTrained_keeps
  | .bringupMemoryDone .. => execBringupMemoryDone_keeps
  | .standbyReached .. => execStandbyReached_keeps
  | .thermalTrip => out_after (Keeps.refl s) execThermalTrip_keeps rfl
  | .pllLoss => execPllLoss_keeps
  | .pllRelock => execPllRelock_keeps
  | .dllLost .. => execDllLost_keeps
  | .stackLoss .. => execStackLoss_keeps
  | .runSet => execRunSet_keeps
  | .softRst .. => execSoftRst_keeps
  | .softResetQuiesce => execSoftResetQuiesce_keeps
  | .softResetClear .. => execSoftResetClear_keeps
  | .softResetRestoreDone => execSoftResetRestoreDone_keeps
  | .perstAssert .. => execPerstAssert_keeps
  | .flr => execFlr_keeps
  | .smbRst .. => execSmbRst_keeps
  | .tdivChangeRequest .. => execTdivChangeRequest_keeps
  | .tdivSwitch .. => execTdivSwitch_keeps
  | .devTimeLoad .. => execDevTimeLoad_keeps
  | .devTimeLoRead => execDevTimeLoRead_keeps
  | .counterLoRead .. => execCounterLoRead_keeps
  | .counterHiRead i => execCounterHiRead_keeps (a0 := i)
  | .counterClear .. => execCounterClear_keeps
  | .registerWrite .. => execRegisterWrite_keeps
  | .ptpMasterAdopt .. => execPtpMasterAdopt_keeps
  | .portEnable .. => execPortEnable_keeps
  | .portDisable .. => execPortDisable_keeps
  | .portWindDownDone .. => execPortWindDownDone_keeps
  | .cycleStart .. => execCycleStart_keeps
  | .fieldMapSeedLoad .. => execFieldMapSeedLoad_keeps
  | .codewordDecode .. => execCodewordDecode_keeps
  | .impulseFire .. => execImpulseFire_keeps
  | .impulseRelease .. => execImpulseRelease_keeps
  | .slotMissed .. => execSlotMissed_keeps
  | .burstCutAtSlotEnd .. => execBurstCutAtSlotEnd_keeps
  | .burstHeader .. => execBurstHeader_keeps
  | .burstEnd .. => execBurstEnd_keeps
  | .repairSearchTimeout .. => execRepairSearchTimeout_keeps
  | .signon .. => execSignon_keeps
  | .holdExpiry .. => execHoldExpiry_keeps
  | .fcsVerdict .. => execFcsVerdict_keeps
  | .puntTokenRefill => execPuntTokenRefill_keeps
  | .bbpBytesAvailable .. => execBbpBytesAvailable_keeps
  | .bbpFrameEnd .. => execBbpFrameEnd_keeps
  | .pauseRefresh .. => execPauseRefresh_keeps
  | .pauseReceived .. => execPauseReceived_keeps
  | .bbpLinkDown .. => execBbpLinkDown_keeps
  | .bbpLinkUp .. => execBbpLinkUp_keeps
  | .alignedReplyStart .. => execAlignedReplyStart_keeps
  | .alignedCrcDecision .. => execAlignedCrcDecision_keeps
  | .ptpSyncReceived .. => execPtpSyncReceived_keeps
  | .bbpPtpLost => execBbpPtpLost_keeps
  | .schedFrame .. => execSchedFrame_keeps
  | .ploughEnqueue .. => execPloughEnqueue_keeps
  | .parseWalk .. => execParseWalk_keeps
  | .laterFragment .. => execLaterFragment_keeps
  | .fragHoldExpiry .. => execFragHoldExpiry_keeps
  | .gleanExpiry .. => execGleanExpiry_keeps
  | .admitMessage .. => execAdmitMessage_keeps
  | .sheafWindowExpiry .. => execSheafWindowExpiry_keeps
  | .passDispatch .. => execPassDispatch_keeps
  | .passComplete .. => execPassComplete_keeps
  | .sliceOverrun .. => execSliceOverrun_keeps
  | .cuminShed .. => execCuminShed_keeps
  | .rotationCheck .. => execRotationCheck_keeps
  | .headlandInject .. => execHeadlandInject_keeps
  | .seedShadowReady .. => execSeedShadowReady_keeps
  | .unitFinishOldWork .. => execUnitFinishOldWork_keeps
  | .unitFlip .. => execUnitFlip_keeps
  | .tokenArrival .. => execTokenArrival_keeps
  | .blockFire .. => execBlockFire_keeps
  | .suFire .. => execSuFire_keeps
  | .nop .. => execNop_keeps
  | .alu .. => execAlu_keeps
  | .addi .. => execAddi_keeps
  | .andi .. => execAndi_keeps
  | .ori .. => execOri_keeps
  | .xori .. => execXori_keeps
  | .lui .. => execLui_keeps
  | .shi .. => execShi_keeps
  | .cmp .. => execCmp_keeps
  | .cmpi .. => execCmpi_keeps
  | .plog .. => execPlog_keeps
  | .mfs .. => execMfs_keeps
  | .mts .. => execMts_keeps
  | .lds .. => execLds_keeps
  | .sts .. => execSts_keeps
  | .vld .. => execVld_keeps
  | .vst .. => execVst_keeps
  | .ald .. => execAld_keeps
  | .ast .. => execAst_keeps
  | .valu .. => execValu_keeps
  | .vbcst .. => execVbcst_keeps
  | .vext .. => execVext_keeps
  | .vins .. => execVins_keeps
  | .vcmp .. => execVcmp_keeps
  | .vmac .. => execVmac_keeps
  | .vmacb .. => execVmacb_keeps
  | .aopZero .. => execAopZero_keeps
  | .aopCopy .. => execAopCopy_keeps
  | .aopExt .. => execAopExt_keeps
  | .aopAddv .. => execAopAddv_keeps
  | .aopExtf .. => execAopExtf_keeps
  | .grs .. => execGrs_keeps
  | .req .. => execReq_keeps
  | .cvt .. => execCvt_keeps
  | .rcp .. => execRcp_keeps
  | .send .. => execSend_keeps
  | .recv .. => execRecv_keeps
  | .tag .. => execTag_keeps
  | .event .. => execEvent_keeps
  | .br .. => execBr_keeps
  | .halt .. => execHalt_keeps
  | .syncAdd .. => execSyncAdd_keeps
  | .syncSub .. => execSyncSub_keeps
  | .syncSet .. => execSyncSet_keeps
  | .syncTrydec .. => execSyncTrydec_keeps
  | .syncWaitGe .. => execSyncWaitGe_keeps
  | .syncWaitEq .. => execSyncWaitEq_keeps
  | .syncRead .. => execSyncRead_keeps
  | .syncOpTimeout .. => execSyncOpTimeout_keeps
  | .synWaitTo .. => execSynWaitTo_keeps
  | .replyBuild .. => execReplyBuild_keeps
  | .bpSlotChoice .. => execBpSlotChoice_keeps
  | .gateTimeout .. => execGateTimeout_keeps
  | .hbmRead .. => execHbmRead_keeps
  | .hbmWrite .. => execHbmWrite_keeps
  | .refresh _ pc _ => execRefresh_keeps (a1 := pc)
  | .scrubRead .. => execScrubRead_keeps
  | .coherenceRequest .. => execCoherenceRequest_keeps
  | .invalidationReceived .. => execInvalidationReceived_keeps
  | .kvRowAck .. => execKvRowAck_keeps
  | .plotBufferUncorr .. => execPlotBufferUncorr_keeps
  | .residentFillDone .. => execResidentFillDone_keeps
  | .bar2Read .. => execBar2Read_keeps
  | .bar2Write .. => execBar2Write_keeps
  | .flitReceive .. => execFlitReceive_keeps
  | .nakRenew .. => execNakRenew_keeps
  | .ackTimeout .. => execAckTimeout_keeps
  | .persistWindow => execPersistWindow_keeps
  | .dlkRetrain .. => execDlkRetrain_keeps
  | .retrainDone .. => execRetrainDone_keeps
  | .loopbackSet .. => execLoopbackSet_keeps
  | .yokeEpoch .. => execYokeEpoch_keeps
  | .grantReceived .. => execGrantReceived_keeps
  | .grantMissing .. => execGrantMissing_keeps
  | .cpmMarginLoss .. => execCpmMarginLoss_keeps
  | .cpmRetry .. => execCpmRetry_keeps
  | .ldoTargetReached .. => execLdoTargetReached_keeps
  | .thermalCapChange .. => execThermalCapChange_keeps
  | .calibrationRefit .. => execCalibrationRefit_keeps
  | .holdoffExpiry => execHoldoffExpiry_keeps
  | .schedSlotTime => execSchedSlotTime_keeps
  | .yokSchedTimeout => execYokSchedTimeout_keeps
  | .nopDescriptor .. => execNopDescriptor_keeps
  | .installBegin .. => execInstallBegin_keeps
  | .installChunk .. => execInstallChunk_keeps
  | .installCommit .. => execInstallCommit_keeps
  | .installCheckDone .. => execInstallCheckDone_keeps
  | .installAbort .. => execInstallAbort_keeps
  | .tableWrite .. => execTableWrite_keeps
  | .streamOpen .. => execStreamOpen_keeps
  | .streamClose .. => execStreamClose_keeps
  | .streamReset .. => execStreamReset_keeps
  | .streamUnfenceResume .. => execStreamUnfenceResume_keeps
  | .streamUnfenceDiscard .. => execStreamUnfenceDiscard_keeps
  | .kvRead .. => execKvRead_keeps
  | .kvWrite .. => execKvWrite_keeps
  | .inject .. => execInject_keeps
  | .memRead .. => execMemRead_keeps
  | .memWrite .. => execMemWrite_keeps
  | .fence .. => execFence_keeps
  | .statsSnapshot .. => execStatsSnapshot_keeps
  | .yokeSetSet .. => execYokeSetSet_keeps
  | .yokeSetDrain .. => execYokeSetDrain_keeps
  | .yokeSetResume .. => execYokeSetResume_keeps
  | .replant .. => execReplant_keeps
  | .trunkCtlAdmit .. => execTrunkCtlAdmit_keeps
  | .trunkCtlRefuse .. => execTrunkCtlRefuse_keeps
  | .trunkCtlExpel .. => execTrunkCtlExpel_keeps
  | .trunkCtlQuarantine .. => execTrunkCtlQuarantine_keeps
  | .trunkCtlIsolate .. => execTrunkCtlIsolate_keeps
  | .isolateComplete .. => execIsolateComplete_keeps
  | .trunkCtlRelease .. => execTrunkCtlRelease_keeps
  | .trunkCtlSetIlv .. => execTrunkCtlSetIlv_keeps
  | .trunkCtlSetRepair .. => execTrunkCtlSetRepair_keeps
  | .puntReturn .. => execPuntReturn_keeps
  | .hifEnable .. => execHifEnable_keeps
  | .ringEnable .. => execRingEnable_keeps
  | .doorbellPoll => execDoorbellPoll_keeps
  | .pollResult .. => execPollResult_keeps
  | .descriptorFetch .. => execDescriptorFetch_keeps
  | .shadowWrite => execShadowWrite_keeps
  | .moderationTimer .. => execModerationTimer_keeps
  | .msixUnmask .. => execMsixUnmask_keeps
  | .telemetryTick .. => execTelemetryTick_keeps
  | .watchSummary => execWatchSummary_keeps
  | .harrowPassStart .. => execHarrowPassStart_keeps
  | .harrowPassDone .. => execHarrowPassDone_keeps
  | .hrwWatchdog .. => execHrwWatchdog_keeps
  | .plotLdoFault .. => execPlotLdoFault_keeps
  | .plotSensorCheck .. => execPlotSensorCheck_keeps
  | .placementRetry => execPlacementRetry_keeps
  | .ident .. => execIdent_keeps
  | .status .. => execStatus_keeps
  | .eventSummary .. => execEventSummary_keeps
  | .tempCd .. => execTempCd_keeps
  | .tempIod .. => execTempIod_keeps
  | .tempHbm .. => execTempHbm_keeps
  | .tempMax .. => execTempMax_keeps
  | .thermalState .. => execThermalState_keeps
  | .pkgPower .. => execPkgPower_keeps
  | .yokeState .. => execYokeState_keeps
  | .drain .. => execDrain_keeps
  | .drainRead .. => execDrainRead_keeps
  | .ceilingSet .. => execCeilingSet_keeps
  | .ceilingRead .. => execCeilingRead_keeps
  | .softReset .. => execSoftReset_keeps
  | .counterSnap .. => execCounterSnap_keeps
  | .counterRead .. => execCounterRead_keeps
  | .addrCfg .. => execAddrCfg_keeps
  | .addrCfgRead .. => execAddrCfgRead_keeps
  | .portStatus .. => execPortStatus_keeps
  | .portStatusRead .. => execPortStatusRead_keeps
  | .clearFaults .. => execClearFaults_keeps
  | .alertResponse .. => execAlertResponse_keeps
  | .smbusTimeout .. => execSmbusTimeout_keeps
  | .sdaStuck .. => execSdaStuck_keeps
  | .jtagTrst => execJtagTrst_keeps
  | .bypass => execBypass_keeps
  | .idcode => execIdcode_keeps
  | .samplePreload .. => execSamplePreload_keeps
  | .extest .. => execExtest_keeps
  | .clamp => execClamp_keeps
  | .highz => execHighz_keeps
  | .extestPulse .. => execExtestPulse_keeps
  | .extestTrain .. => execExtestTrain_keeps
  | .hbm1500 .. => execHbm1500_keeps
  | .diesel .. => execDiesel_keeps
  | .tstacc .. => execTstacc_keeps
  | .tstDataRead .. => execTstDataRead_keeps
  | .tstDataWrite .. => execTstDataWrite_keeps
  | .powerOff => out_after (Keeps.refl s) execPowerOff_keeps rfl
  | .perstRelease => execPerstRelease_keeps
  | .smbRstRelease => execSmbRstRelease_keeps
  | .bbpTxFrameEnd .. => execBbpTxFrameEnd_keeps
  | .pauseExpiry .. => execPauseExpiry_keeps
  | .testLogicReset => execTestLogicReset_keeps
  | .reservedOpcode .. => execReservedOpcode_keeps
  | .badOpcode .. => execBadOpcode_keeps
  | .twpUnknownCommand .. => execTwpUnknownCommand_keeps

theorem keeps_of_exec (h : exec c s = .next t) : Keeps (mayChange c) s t := by
  have hk := exec_keeps c s
  rwa [h] at hk

/-- No command names the queue of waiting commands as a part that it may change. -/
theorem pending_notMem_mayChange (c : Instr) : Piece.pending ∉ mayChange c := by
  have hnone : subParts [.pending] (mayChange c) = false := by cases c <;> dsimp only [mayChange] <;> rfl
  exact fun hp => absurd (subParts_single hp) (by simp [hnone])

theorem pending_of_exec (h : exec c s = .next t) : t.pending = s.pending :=
  (keeps_of_exec h).only .pending (pending_notMem_mayChange c)

/-- Settles O4: the frame of each command is the frame of its meaning (`exec_keeps`), and no frame names the queue. -/
theorem frameOfEveryCommand : Obligations.FrameOfEveryCommand := by
  unfold Obligations.FrameOfEveryCommand
  exact fun c s t h => ⟨(keeps_of_exec h).only, pending_of_exec h⟩

/-- Settles O3: with a command waiting the step is that command's, with none it is the cycle that passes; both keep the invariant. -/
theorem stepKeepsInvariant : Obligations.StepKeepsInvariant := by
  unfold Obligations.StepKeepsInvariant
  intro s t hi hstep
  unfold step at hstep
  split at hstep
  next =>
    cases hstep
    exact tick_keeps.inv hi
  next c rest _ =>
    have hrest : Inv { s with pending := rest } := ⟨hi.hbm, hi.poison, hi.regs, hi.cnt, hi.diesel⟩
    exact (keeps_of_exec hstep).inv hrest

/-! ### Every command goes on -/

/-- What an outcome of a command can be: it goes on, or it stops on a part that the manual does not cover. -/
def GoesOn (c : Instr) (s : State) : Prop :=
  (∃ t, exec c s = .next t) ∨
    (exec c s = .fault .partNotCovered ∧ s.glb.otp.iodGen ≠ 2 ∧ s.glb.otp.iodGen ≠ 3 ∧ (c = .runSet ∨ ∃ off v be, c = .registerWrite off v be))

theorem goesOn_runSet : GoesOn .runSet s := by
  by_cases h : (barUp s && decide (s.glb.otp.iodGen ≠ 2 ∧ s.glb.otp.iodGen ≠ 3)) = true
  · have hgen : s.glb.otp.iodGen ≠ 2 ∧ s.glb.otp.iodGen ≠ 3 := by simpa using (Bool.and_eq_true_iff.mp h).2
    exact .inr ⟨if_pos h, hgen.1, hgen.2, .inl rfl⟩
  · exact .inl ⟨_, if_neg h⟩

theorem goesOn_registerWrite {off : BitVec 16} {v : Word} {be : Fin 16} : GoesOn (.registerWrite off v be) s := by
  have hexec : exec (.registerWrite off v be) s = execRegisterWrite off v be s := rfl
  unfold GoesOn
  rw [hexec]
  unfold execRegisterWrite
  extract_lets a
  by_cases hoff : (!barUp s || decide (be.val ≠ 15)) = true
  · exact .inl ⟨_, if_pos hoff⟩
  rw [if_neg hoff]
  by_cases hrun : a = 4 ∧ v.getLsbD 0 = true ∧ s.glb.otp.iodGen ≠ 2 ∧ s.glb.otp.iodGen ≠ 3
  · exact .inr ⟨if_pos hrun, hrun.2.2.1, hrun.2.2.2, .inr ⟨_, _, _, rfl⟩⟩
  · exact .inl ⟨_, if_neg hrun⟩

/-- Settles O5: RUN_SET and REGISTER_WRITE alone test the part; every other command's meaning is a next state. -/
theorem everyCommandGoesOn : Obligations.EveryCommandGoesOn := by
  unfold Obligations.EveryCommandGoesOn
  intro c s
  cases c
  case runSet => exact goesOn_runSet
  case registerWrite => exact goesOn_registerWrite
  all_goals exact .inl ⟨_, rfl⟩

/-! ### What no command but a reset undoes -/

/-- A fact about the state that does not end from `s` to `t`. -/
def Stays (f : State → Bool) (s t : State) : Prop := f s = true → f t = true

section
variable {f : State → Bool}

theorem Stays.refl (s : State) : Stays f s s := id

theorem Stays.trans (h : Stays f s t) (k : Stays f t u) : Stays f s u := k ∘ h

theorem stays_of_eq (h : f t = f s) : Stays f s t := fun hs => h.trans hs

theorem stays_ite {p : Prop} [Decidable p] {a b : State} (ha : Stays f s a) (hb : Stays f s b) : Stays f s (if p then a else b) := by
  split <;> assumption

theorem stays_each {α : Type} {l : List α} {g : α → State → State} (h : Stays f s t) (hg : ∀ a v, Stays f v (g a v)) : Stays f s (each l g t) :=
  each_preserves (P := Stays f s) h (fun a v hv => hv.trans (hg a v))

theorem stays_foldl_fst {α β : Type} {l : List α} {a : State × β} {g : State × β → α → State × β} (h : Stays f s a.1)
    (hg : ∀ b x, Stays f b.1 (g b x).1) : Stays f s (l.foldl g a).1 := by
  induction l generalizing a with
  | nil => exact h
  | cons x l ih => exact ih (h.trans (hg a x))

end

/-! ### RUN (R358) -/

/-- GLB_CTL.RUN. -/
def runOn (s : State) : Bool := s.glb.run

theorem Keeps.run_stays (k : Keeps ps s t) (h : subParts [.run] ps = false) : Stays runOn s t := stays_of_eq (k.at .run h)

theorem afterStandby_run_stays : Stays runOn s (afterStandby s) := afterStandby_keeps.run_stays rfl

theorem applyRun_run_stays : Stays runOn s (applyRun s) := by
  unfold applyRun
  extract_lets early
  refine stays_ite (.refl s) ?_
  exact fun _ => afterStandby_run_stays rfl

theorem runSet_run_stays : Stays runOn s (runSet s) := stays_ite (.refl s) (fun h => applyRun_run_stays h)

theorem standbyReached_run_stays {p : Nat} : Stays runOn s (standbyReached p s) := by
  unfold standbyReached
  refine stays_ite (.refl s) (fun h => ?_)
  exact afterStandby_run_stays (applyRun_run_stays (yokReport_keeps.run_stays rfl (setYok_keeps.run_stays rfl h)))

theorem tapReset_run_stays : Stays runOn s (tapReset s) := applyRun_run_stays (s := setTap _ s)

/-- What a TAP instruction does to RUN is what its data register does. -/
theorem tapLoad_run_stays {i : TapIr} {g : State → State} (hg : ∀ v, Stays runOn v (g v)) : Stays runOn s (tapLoad i g s) := by
  unfold tapLoad
  refine stays_ite (.refl s) (stays_ite ?_ ?_)
  · exact bump_keeps.run_stays (s := setTap _ s) rfl
  · exact Stays.trans (applyRun_run_stays (s := setTap _ s)) (hg _)

theorem setTap_run_stays {g : Tap → Tap} : Stays runOn s (setTap g s) := .refl s

theorem glbCtlWrite_run_stays {v : Nat} : Stays runOn s (glbCtlWrite v s) := by
  unfold glbCtlWrite
  extract_lets a b
  have ha : Stays runOn s a := .refl s
  have hb : Stays runOn a b := stays_ite runSet_run_stays (stays_ite (lockViol_keeps.run_stays rfl) (.refl a))
  exact (ha.trans hb).trans (stays_ite (softRequest_keeps.run_stays rfl) (.refl b))

/-- Of the registers with an effect of their own only GLB_CTL has to do with RUN. -/
theorem regWrite_run_stays {r : RegRow} {k off v : Nat} : Stays runOn s (regWrite r k off v s) := by
  unfold regWrite
  split
  · exact glbCtlWrite_run_stays
  · exact devTimeLoad_keeps.run_stays rfl
  · exact hifEnable_keeps.run_stays rfl
  · exact ringEnable_keeps.run_stays rfl
  · exact stays_ite (.refl s) (msixUnmask_keeps.run_stays rfl)
  · exact trkCtlWrite_keeps.run_stays rfl
  · exact fmIndexWrite_keeps.run_stays rfl
  iterate 8 exact fmDataWrite_keeps.run_stays rfl
  · exact bbpCtlWrite_keeps.run_stays rfl
  · exact ptpMasterAdopt_keeps.run_stays rfl
  · exact stays_ite (hostRetrain_keeps.run_stays rfl) (.refl s)
  · exact loopbackFree_keeps.run_stays rfl
  iterate 4 exact hrwWrite_keeps.run_stays rfl
  · exact testWrite_keeps.run_stays rfl
  · exact plainWrite_keeps.run_stays rfl

theorem writeReg_run_stays {off v : Nat} : Stays runOn s (writeReg off v s) := by
  unfold writeReg
  refine stays_ite (lockViol_keeps.run_stays rfl) (stays_ite (stays_ite (.refl s) (.refl s)) (stays_ite (.refl s) ?_))
  split
  · exact .refl s
  · exact Stays.trans (cfgFlit_keeps.run_stays rfl) regWrite_run_stays

theorem tstaccAccess_run_stays {off v : Nat} {write bad : Bool} : Stays runOn s (tstaccAccess off v write bad s).2 := by
  by_cases hrun : s.glb.run = true
  · intro _
    have hkeeps : (tstaccAccess off v write bad s).2.glb.run = s.glb.run := by
      unfold tstaccAccess
      rw [if_pos hrun]
      repeat' split
      all_goals first | rfl | exact testRead_keeps.at .run rfl
    exact hkeeps.trans hrun
  · exact fun h => absurd h hrun

/-- A command whose table does not name RUN leaves it as it is. -/
theorem run_of_notMem (h : exec c s = .next t) (hc : subParts [.run] (mayChange c) = false) : t.glb.run = s.glb.run :=
  (keeps_of_exec h).at .run hc

theorem stays_of_next {f : State → Bool} (hu : exec c s = .next u) (k : Stays f s u) (h : exec c s = .next t) : Stays f s t := by
  rw [hu] at h
  cases h
  exact k

theorem registerWrite_run_stays {off : BitVec 16} {v : Word} {be : Fin 16} (h : exec (.registerWrite off v be) s = .next t) : Stays runOn s t := by
  have hexec : execRegisterWrite off v be s = .next t := h
  unfold execRegisterWrite at hexec
  extract_lets a at hexec
  split at hexec
  · cases hexec
    exact .refl s
  split at hexec
  · cases hexec
  · cases hexec
    exact writeReg_run_stays

/-- Settles O6: a command whose frame names RUN, and which is no hard or cold reset, can only set it. -/
theorem onlyHardResetClearsRun : Obligations.OnlyHardResetClearsRun := by
  unfold Obligations.OnlyHardResetClearsRun
  intro c s t hreset hrun h
  suffices Stays runOn s t from this hrun
  cases c
  case powerOn | powerOff | railFault | devRstAssert | thermalTrip | pllLoss => cases hreset
  case standbyReached => exact stays_of_next rfl standbyReached_run_stays h
  case runSet =>
    have hexec : execRunSet s = .next t := h
    unfold execRunSet at hexec
    split at hexec
    · cases hexec
    · cases hexec
      exact stays_ite runSet_run_stays (.refl s)
  case registerWrite => exact registerWrite_run_stays h
  case jtagTrst | testLogicReset => exact stays_of_next rfl (stays_ite tapReset_run_stays (.refl s)) h
  case bypass | clamp | highz => exact stays_of_next rfl (tapLoad_run_stays fun v => .refl v) h
  case idcode | samplePreload | extest | extestPulse | extestTrain | diesel =>
    exact stays_of_next rfl (tapLoad_run_stays fun _ => setTap_run_stays) h
  case hbm1500 => exact stays_of_next rfl (tapLoad_run_stays fun _ => wrapperOp_keeps.run_stays rfl) h
  case tstacc => exact stays_of_next rfl (tapLoad_run_stays fun _ => tstaccAccess_run_stays.trans setTap_run_stays) h
  all_goals exact stays_of_eq (run_of_notMem h (by dsimp only [mayChange]; rfl))

/-! ### A device-fatal engine (R399) -/

/-- The engine is device-fatal. -/
def engineFatal (s : State) : Bool := s.glb.deviceFatal

theorem Keeps.fatal_stays (k : Keeps ps s t) (h : subParts [.fatal] ps = false) : Stays engineFatal s t := stays_of_eq (k.at .fatal h)

/-- A device-fatal engine is not lost again. -/
theorem deviceLost_fatal_stays {k : Nat} : Stays engineFatal s (deviceLost k s) := by
  intro h
  have hsame : deviceLost k s = s := if_pos h
  rw [hsame]
  exact h

theorem declareDie_fatal_stays {d k : Nat} : Stays engineFatal s (declareDie d k s) := by
  unfold declareDie
  refine stays_ite (.refl s) ?_
  extract_lets -merge -underBinder +onlyGivenNames glb s0 on banks kv
  have h0 : Stays engineFatal s s0 := .refl s
  split
  next s1 owners hstop =>
    have h1 : Stays engineFatal s (s1, owners).1 := by
      rw [← hstop]
      exact stays_foldl_fst h0 fun a g => stopGroup_keeps.fatal_stays rfl
    extract_lets -merge -underBinder +onlyGivenNames ended s2 s3 s4 s5 yd s6 fenced s7
    have h2 : Stays engineFatal s s2 := stays_each h1 fun _ _ => setBank_keeps.fatal_stays rfl
    have h3 : Stays engineFatal s s3 := stays_each h2 fun _ _ => Stays.trans (updMsg_keeps.fatal_stays rfl) (leaveSheaf_keeps.fatal_stays rfl)
    have h4 : Stays engineFatal s s4 := stays_each h3 fun _ _ => failMsg_keeps.fatal_stays rfl
    have h5 : Stays engineFatal s s5 := (h4.trans (forgetDie_keeps.fatal_stays rfl)).trans (synDie_keeps.fatal_stays rfl)
    have h6 : Stays engineFatal s s6 := h5.trans (setYd_keeps.fatal_stays rfl)
    have h7 : Stays engineFatal s s7 := h6.trans (raise_keeps.fatal_stays rfl)
    exact stays_ite (h7.trans deviceLost_fatal_stays) h7

theorem bringupDies_fatal_stays {bad : List Nat} : Stays engineFatal s (bringupDies bad s) := by
  unfold bringupDies
  extract_lets -merge -underBinder +onlyGivenNames s1
  have h1 : Stays engineFatal s s1 := stays_each (.refl s) fun _ _ => declareDie_fatal_stays
  exact stays_ite (h1.trans (bringupFail_keeps.fatal_stays rfl)) h1

theorem clocksLocked_fatal_stays {pll : Bool} {dlls : Nat} : Stays engineFatal s (clocksLocked pll dlls s) := by
  unfold clocksLocked
  exact stays_ite (.refl s) (stays_ite (bringupFail_keeps.fatal_stays rfl) fun h => bringupDies_fatal_stays h)

theorem linksTrained_fatal_stays {quads : List (Nat × Nat)} : Stays engineFatal s (linksTrained quads s) := by
  unfold linksTrained
  refine stays_ite (.refl s) ?_
  extract_lets -merge -underBinder +onlyGivenNames
  split
  next s1 lost hfold =>
    have h1 : Stays engineFatal s (s1, lost).1 := by
      rw [← hfold]
      exact stays_foldl_fst (.refl s) fun a l => firstTraining_keeps.fatal_stays rfl
    exact fun h => bringupDies_fatal_stays (h1 h)

theorem memoryDone_fatal_stays {good : Nat} : Stays engineFatal s (memoryDone good s) := by
  unfold memoryDone
  exact stays_ite (.refl s) fun h => bringupDies_fatal_stays h

theorem dllLost_fatal_stays {d k : Nat} : Stays engineFatal s (dllLost d k s) := by
  unfold dllLost
  exact stays_ite (.refl s) fun h => declareDie_fatal_stays (raise_keeps.fatal_stays rfl h)

theorem plotFatal_fatal_stays {p : Nat} : Stays engineFatal s (plotFatal p s) := by
  unfold plotFatal
  refine stays_ite (.refl s) (stays_ite declareDie_fatal_stays ?_)
  split
  next s1 now hplace =>
    have h1 : Stays engineFatal s s1 := by
      split at hplace
      · have hfst : s1 = (s1, now).1 := rfl
        rw [hfst, ← hplace]
        exact rePlace_keeps.fatal_stays rfl
      · cases hplace
        exact updPlot_keeps.fatal_stays rfl
    exact h1.trans (raiseOn_keeps.fatal_stays rfl)

theorem plotError_fatal_stays {p : Nat} : Stays engineFatal s (plotError p s) := by
  unfold plotError
  extract_lets -merge -underBinder +onlyGivenNames now errs s1
  have h1 : Stays engineFatal s s1 := updPlot_keeps.fatal_stays rfl
  exact stays_ite (h1.trans plotFatal_fatal_stays) h1

theorem plotUncorr_fatal_stays {p off reader : Nat} : Stays engineFatal s (plotUncorr p off reader s) := by
  unfold plotUncorr
  split
  · exact .refl s
  extract_lets -merge -underBinder +onlyGivenNames res s1 s2 s3
  have h1 : Stays engineFatal s s1 := updPlot_keeps.fatal_stays rfl
  have h2 : Stays engineFatal s s2 := (h1.trans (bump_keeps.fatal_stays rfl)).trans (raiseOn_keeps.fatal_stays rfl)
  have h3 : Stays engineFatal s s3 := stays_ite (h2.trans (updGroup_keeps.fatal_stays rfl)) h2
  exact Stays.trans (stays_ite (h3.trans (markPass_keeps.fatal_stays rfl)) h3) plotError_fatal_stays

theorem wordOutcome_fatal_stays {w : HrwWord} : Stays engineFatal s (wordOutcome w s) := by
  unfold wordOutcome
  split
  next u _ shadow =>
    extract_lets -merge -underBinder +onlyGivenNames p su sw s1
    refine Stays.trans (t := s1) ?_ plotError_fatal_stays
    refine stays_ite (stays_ite (updTile_keeps.fatal_stays rfl) (stays_ite (setSu_keeps.fatal_stays rfl) (setSwitch_keeps.fatal_stays rfl))) ?_
    split
    · exact replant_keeps.fatal_stays rfl
    · exact .refl s
  next => exact .refl s
  next => exact stays_ite (fun h => loseStation_keeps.fatal_stays rfl h) (.refl s)
  next => exact stays_ite (setFm_keeps.fatal_stays rfl) (setFm_keeps.fatal_stays rfl)
  next => exact poisonSlot_keeps.fatal_stays rfl
  next => exact deviceLost_fatal_stays

theorem hrwUncorr_fatal_stays {h : Nat} {w : HrwWord} : Stays engineFatal s (hrwUncorr h w s) := by
  unfold hrwUncorr
  refine stays_ite (.refl s) (stays_ite (.refl s) ?_)
  refine Stays.trans ?_ wordOutcome_fatal_stays
  refine Stays.trans ?_ (refetch_keeps.fatal_stays rfl)
  refine Stays.trans ?_ (raiseHrw_keeps.fatal_stays rfl)
  exact Stays.trans (setHrw_keeps.fatal_stays rfl) (bump_keeps.fatal_stays rfl)

theorem passDone_fatal_stays {h corrected : Nat} {found : List HrwWord} : Stays engineFatal s (passDone h corrected found s) := by
  unfold passDone
  refine stays_ite (.refl s) ?_
  extract_lets -merge -underBinder +onlyGivenNames hrw s1 s2 s3
  have h2 : Stays engineFatal s s2 := Stays.trans (t := s1) (setHrw_keeps.fatal_stays rfl) (bump_keeps.fatal_stays rfl)
  have h3 : Stays engineFatal s s3 := stays_ite h2 ((h2.trans (bump_keeps.fatal_stays rfl)).trans (raiseHrw_keeps.fatal_stays rfl))
  exact stays_each h3 fun _ _ => hrwUncorr_fatal_stays

theorem feedSource_fatal_stays {k gen : Nat} {g : Group} {f : Feed} : Stays engineFatal s (feedSource k gen g f s).1 := by
  unfold feedSource
  split
  · exact .refl s
  · unfold readBuffer
    exact stays_each (bump_keeps.fatal_stays rfl) fun _ _ => plotUncorr_fatal_stays
  · exact .refl s

theorem feedToken_fatal_stays {k : Nat} {f : Feed} : Stays engineFatal s (feedToken k f s) := by
  unfold feedToken
  split
  · exact .refl s
  extract_lets -merge -underBinder +onlyGivenNames gen
  exact Stays.trans feedSource_fatal_stays (setFeed_keeps.fatal_stays rfl)

theorem arrival_fatal_stays {k : Nat} {feed : Option Feed} : Stays engineFatal s (arrival k feed s) := by
  unfold arrival
  extract_lets -merge -underBinder +onlyGivenNames s0 t
  have h0 : Stays engineFatal s s0 := by
    unfold s0
    split
    · exact feedToken_fatal_stays
    · exact .refl s
  refine h0.trans (stays_ite (.refl s0) ?_)
  split
  · exact .refl s0
  refine stays_ite (noteStall_keeps.fatal_stays rfl) ?_
  split
  · exact .refl s0
  extract_lets -merge -underBinder +onlyGivenNames s1 s2
  have h1 : Stays engineFatal s0 s1 := Stays.trans (updTile_keeps.fatal_stays rfl) (takeHead_keeps.fatal_stays rfl)
  have h2 : Stays engineFatal s0 s2 := stays_ite (h1.trans (pmuCount_keeps.fatal_stays rfl)) h1
  exact (h2.trans (takeToken_keeps.fatal_stays rfl)).trans (flowAll_keeps.fatal_stays rfl)

theorem loadInstr_fatal_stays {k op size align : Nat} {put : Nat → Nat → Tile → Tile} {ecc : List (Nat × Bool)} :
    Stays engineFatal s (loadInstr k op size put align ecc s) := by
  unfold loadInstr
  refine stays_ite (.refl s) ?_
  extract_lets -merge -underBinder +onlyGivenNames t w p mine bad s1 s2
  have h1 : Stays engineFatal s s1 := stays_each (.refl s) fun _ _ => bump_keeps.fatal_stays rfl
  have h2 : Stays engineFatal s s2 := stays_each h1 fun _ _ => updTile_keeps.fatal_stays rfl
  exact stays_each (h2.trans (tileInstr_keeps.fatal_stays rfl)) fun _ _ => plotError_fatal_stays

theorem retrainDone_fatal_stays {l goodA goodB pause : Nat} : Stays engineFatal s (retrainDone l goodA goodB pause s) := by
  unfold retrainDone
  extract_lets -merge -underBinder +onlyGivenNames v
  split
  · exact .refl s
  extract_lets -merge -underBinder +onlyGivenNames key last strike strikes a b fell down resume v' s1 s2 s3 s4 s5
  have h1 : Stays engineFatal s s1 := setLink_keeps.fatal_stays rfl
  have h2 : Stays engineFatal s s2 := stays_ite (h1.trans (degraded_keeps.fatal_stays rfl)) h1
  have h3 : Stays engineFatal s s3 := (h2.trans (bump_keeps.fatal_stays rfl)).trans (bump_keeps.fatal_stays rfl)
  have h4 : Stays engineFatal s s4 := h3.trans (raise_keeps.fatal_stays rfl)
  have h5 : Stays engineFatal s s5 := h4.trans (resumeLink_keeps.fatal_stays rfl)
  refine h5.trans (stays_ite ?_ ?_)
  · exact Stays.trans (Stays.trans (raise_keeps.fatal_stays rfl) declareDie_fatal_stays) (bbSettle_keeps.fatal_stays rfl)
  · split
    · exact startRetrain_keeps.fatal_stays rfl
    · exact .refl s5

theorem settled_fatal_stays (h : Stays engineFatal s t) : Stays engineFatal s (bbSettle t) := h.trans (bbSettle_keeps.fatal_stays rfl)

/-- A command that is no hard or cold reset leaves a device-fatal engine so: those whose frame names it can only set it. -/
theorem exec_fatal_stays (hreset : hardResets c = false) (h : exec c s = .next t) : Stays engineFatal s t := by
  cases c
  case powerOn | powerOff | railFault | devRstAssert | thermalTrip | pllLoss => cases hreset
  case bringupClocksLocked => exact stays_of_next rfl clocksLocked_fatal_stays h
  case bringupLinksTrained => exact stays_of_next rfl linksTrained_fatal_stays h
  case bringupMemoryDone => exact stays_of_next rfl memoryDone_fatal_stays h
  case dllLost => exact stays_of_next rfl (settled_fatal_stays dllLost_fatal_stays) h
  case stackLoss => exact stays_of_next rfl (stays_ite (settled_fatal_stays declareDie_fatal_stays) (.refl s)) h
  case parseWalk =>
    have hmet : ∀ met, Stays engineFatal s (each met (hrwUncorr 4) s) := fun _ => stays_each (.refl s) fun _ _ => hrwUncorr_fatal_stays
    exact stays_of_next rfl (settled_fatal_stays ((hmet _).trans (parseWalk_keeps.fatal_stays rfl))) h
  case replyBuild =>
    have hmet : ∀ met, Stays engineFatal s (each met (hrwUncorr 4) s) := fun _ => stays_each (.refl s) fun _ _ => hrwUncorr_fatal_stays
    exact stays_of_next rfl (settled_fatal_stays ((hmet _).trans (replyBuild_keeps.fatal_stays rfl))) h
  case harrowPassDone => exact stays_of_next rfl (settled_fatal_stays passDone_fatal_stays) h
  case tokenArrival => exact stays_of_next rfl arrival_fatal_stays h
  case lds | vld | ald => exact stays_of_next rfl loadInstr_fatal_stays h
  case plotBufferUncorr => exact stays_of_next rfl (settled_fatal_stays plotUncorr_fatal_stays) h
  case retrainDone => exact stays_of_next rfl retrainDone_fatal_stays h
  case plotLdoFault | plotSensorCheck => exact stays_of_next rfl (stays_ite (settled_fatal_stays plotFatal_fatal_stays) (.refl s)) h
  all_goals exact stays_of_eq ((keeps_of_exec h).at .fatal (by dsimp only [mayChange]; rfl))

/-! ### The two latched shutdowns (R302, R459) -/

theorem hardReset_trip : (hardReset s).glb.thermtrip = s.glb.thermtrip := rfl

theorem hardReset_rail : (hardReset s).glb.railFault = s.glb.railFault := rfl

/-- With the power on, only POWER_OFF ends a latched THERMTRIP_N: a thermal trip sets it, and POWER_ON does nothing. -/
theorem exec_trip_stays (hoff : c ≠ .powerOff) (hon : s.glb.powered = true) (htrip : s.glb.thermtrip = true) (h : exec c s = .next t) :
    t.glb.thermtrip = true := by
  cases c
  case powerOff => exact absurd rfl hoff
  case powerOn =>
    have ht : .next s = Host.Outcome.next t := (congrArg Host.Outcome.next (if_pos hon)).symm.trans h
    cases ht
    exact htrip
  case thermalTrip =>
    have ht : Host.Outcome.next (hardReset { s with glb := { s.glb with thermtrip := true } }) = .next t :=
      (congrArg Host.Outcome.next (if_neg (by simp [hon]))).symm.trans h
    cases ht
    exact hardReset_trip
  all_goals exact ((keeps_of_exec h).at .trip (by dsimp only [mayChange]; rfl)).trans htrip

/-- With the power on, only POWER_OFF ends a rail fault: a further one sets it again, and POWER_ON does nothing. -/
theorem exec_rail_stays (hoff : c ≠ .powerOff) (hon : s.glb.powered = true) (hrail : s.glb.railFault = true) (h : exec c s = .next t) :
    t.glb.railFault = true := by
  cases c
  case powerOff => exact absurd rfl hoff
  case powerOn =>
    have ht : .next s = Host.Outcome.next t := (congrArg Host.Outcome.next (if_pos hon)).symm.trans h
    cases ht
    exact hrail
  case railFault =>
    have ht : Host.Outcome.next (railFault s) = .next t := h
    cases ht
    unfold railFault
    split
    · exact hrail
    · exact hardReset_rail
  all_goals exact ((keeps_of_exec h).at .rail (by dsimp only [mayChange]; rfl)).trans hrail

/-- Settles O7 from the three facts above. -/
theorem fatalAndShutdownHold : Obligations.FatalAndShutdownHold := by
  unfold Obligations.FatalAndShutdownHold
  intro c s t h
  exact ⟨fun hreset hfatal => exec_fatal_stays hreset h hfatal, fun hoff hon htrip => exec_trip_stays hoff hon htrip h,
    fun hoff hon hrail => exec_rail_stays hoff hon hrail h⟩

end Sys2Proof.Machine
end

section
/-! PROOF. Power, resets and bring-up (R297 to R313, R331, R358, R396, R429, R459): what each reset clears and keeps, the phases of bring-up and
of a soft reset, and O8 to O12 from these facts. -/
namespace Sys2Proof.Machine

variable {s t : State} {off k ns pstd : Nat} {imm : Bool}

/-! ### Hard and cold resets -/

theorem getReg_of_noRegs (h : t.regs = []) : getReg t off = (regReset off).toNat := by simp [getReg, h, tget]

theorem powerOn_cold {gen rev serial seed smb : Nat} {fm63 : List Byte} (h : s.glb.powered = false) :
    powerOn gen rev serial fm63 seed smb s =
      { State.reset with
        pending := s.pending, freeCtr := s.freeCtr,
        glb := { State.reset.glb with
          pinSeed := seed, pinSmb := smb, perstLow := s.glb.perstLow, smbRstLow := s.glb.smbRstLow, hardLanes := s.glb.hardLanes,
          otp := { iodGen := gen, rev := rev, serial := serial, fm63 := trimZeros (fm63.take 32) } } } :=
  if_neg (by simp [h])

theorem heldInReset_hardReset (s : State) : heldInReset (hardReset s) = heldInReset s := rfl

/-- A bit of RST_CAUSE set before a hard reset is still set after it. -/
theorem hardReset_setCause {b : Nat} {s' : State} (hb : b < 32) (h : getReg s' 0x0440 = getReg (orReg 0x0440 (2 ^ b) s) 0x0440) :
    (getReg (hardReset s') 0x0440).testBit b = true := by
  rw [hardReset_cause, h, testBit_orReg s hb]
  simp

theorem startBringup_free (h : heldInReset s = false) : startBringup s = { s with glb := { s.glb with phase := .otp } } :=
  if_neg (by simp [h])

/-- Settles O8: a hard reset clears the engine and keeps RST_CAUSE, a cold one leaves every register at its reset value, and bring-up starts
when nothing holds the engine. -/
theorem hardResetsClear : Obligations.HardResetsClear := by
  unfold Obligations.HardResetsClear
  refine ⟨?powerOn, ?powerOff, ?railFault, ?assert, ?release, ?trip, ?pllLoss, ?relock⟩
  case powerOn =>
    intro s gen rev serial fm63 seed smb hoff
    refine ⟨_, congrArg Host.Outcome.next (powerOn_cold hoff), ?_, fun off => getReg_of_noRegs rfl, rfl, rfl, rfl, rfl, rfl, rfl, rfl⟩
    simp [Cleared, State.reset]
  case powerOff =>
    intro s
    refine ⟨powerOff s, rfl, ?_, fun off => getReg_of_noRegs rfl, rfl, rfl⟩
    simp [Cleared, powerOff, State.reset]
  case railFault =>
    intro s hon hrst
    refine ⟨_, congrArg Host.Outcome.next (if_neg (by simp [hon, hrst])), hardReset_cleared _, rfl, ?_, hardReset_cause _⟩
    rw [heldInReset_hardReset]
    simp [heldInReset]
  case assert =>
    intro s ns hns
    refine ⟨_, congrArg Host.Outcome.next (devRstAssert_long hns), hardReset_cleared _, rfl, ?_, hardReset_setCause (s := s) (b := 1) (by decide) rfl,
      fun off h1 h2 => hardReset_reg _ off h1 h2⟩
    rw [heldInReset_hardReset]
    simp [heldInReset]
  case release =>
    intro s hlow hon htrip hrail hpll
    refine ⟨_, congrArg Host.Outcome.next ((if_neg (by simp [hlow])).trans (startBringup_free ?_)), rfl, rfl, rfl, rfl, getReg_setReg_same⟩
    simp [heldInReset, hon, htrip, hrail, hpll]
  case trip =>
    intro s hon
    refine ⟨_, congrArg Host.Outcome.next (if_neg (by simp [hon])), hardReset_cleared _, rfl, ?_, hardReset_cause _⟩
    rw [heldInReset_hardReset]
    simp [heldInReset]
  case pllLoss =>
    intro s hlock
    exact ⟨_, congrArg Host.Outcome.next (if_neg (by simp [hlock])), hardReset_cleared _, rfl, rfl, hardReset_setCause (s := s) (b := 2) (by decide) rfl⟩
  case relock =>
    intro s hpll hon hrst htrip hrail
    refine ⟨_, congrArg Host.Outcome.next ((if_neg (by simp [hpll])).trans (startBringup_free ?_)), rfl, rfl, rfl⟩
    simp [heldInReset, hon, hrst, htrip, hrail]

/-! ### Bring-up -/

theorem otpDone_good (h : s.glb.phase = .otp) : otpDone true s = { s with glb := { s.glb with phase := .clocks } } := by simp [otpDone, h]

theorem otpDone_bad (h : s.glb.phase = .otp) : otpDone false s = bringupFail 1 s := by simp [otpDone, h]

theorem faultLow_bringupFail {c : Nat} (h : c ≠ 0) : faultLow (bringupFail c s) = true := by simp [faultLow, bringupFail, h]

theorem clocksLocked_noPll {dlls : Nat} (h : s.glb.phase = .clocks) : clocksLocked false dlls s = bringupFail 2 s := by simp [clocksLocked, h]

/-- The clocks as phase LINKS finds them. -/
def clocksStarted (dlls : Nat) (s : State) : State :=
  { s with
    clk := { s.clk with pllLock := true, refOk := true, dllLock := dlls, devTime := 0, mirror := [], trim := 0, frac := 0, slew := 0 },
    glb := { s.glb with phase := .links, dieOk := 15 } }

theorem clocksLocked_pll {dlls : Nat} (h : s.glb.phase = .clocks) :
    clocksLocked true dlls s = bringupDies ((List.range 4).filter (fun d => !dlls.testBit d)) (clocksStarted dlls s) := by
  simp [clocksLocked, h, clocksStarted]

/-- The links trained, one after the other, and the dies lost with those that trained Down. -/
theorem linksTrained_phase {quads : List (Nat × Nat)} (h : s.glb.phase = .links) :
    (linksTrained quads s).glb.phase = if (linksTrained quads s).glb.dieFatal % 16 = 15 then .failed else .memory := by
  unfold linksTrained
  rw [if_neg (by simp [h])]
  exact bringupDies_phase _ _ rfl

/-- The memory of the stacks that trained: every mapped half holds zeros (R311). -/
def memoryCleared (s : State) : State :=
  { s with glb := { s.glb with memDone := true }, mem := { s.mem with hbm := [], poison := [], bist := [] } }

theorem memoryDone_first {good : Nat} (h : s.glb.phase = .memory) (hm : s.glb.memDone = false) :
    memoryDone good s = bringupDies ((List.range 4).filter (fun d => !good.testBit d)) (memoryCleared s) := by
  simp [memoryDone, h, hm, memoryCleared]

theorem applyRun_notHeld (h : s.glb.runHeld = false) : applyRun s = s := by simp [applyRun, h]

theorem applyRun_inMemory (h : s.glb.phase = .memory) : applyRun s = s := by simp [applyRun, h]

theorem applyRun_standby (hheld : s.glb.runHeld = true) (hphase : s.glb.phase = .standby) (htap : tapBlocks s.tap.ir = false) :
    applyRun s = afterStandby { s with glb := { s.glb with run := true, runHeld := false } } := by
  simp [applyRun, hheld, hphase, htap]

theorem afterStandby_waits (hdrain : s.yoke.drainReq = false) (hrun : s.glb.run = false) : afterStandby s = s := by
  simp [afterStandby, hdrain, hrun]

theorem afterStandby_holdoff (hphase : s.glb.phase = .standby) (hdrain : s.yoke.drainReq = false) (hrun : s.glb.run = true) (hyok : yokState s = 1) :
    afterStandby s = enterHoldoff s := by
  simp [afterStandby, hphase, hdrain, hrun, hyok]

theorem yokState_enterHoldoff : yokState (enterHoldoff s) = 2 := yokState_setYok (by decide)

theorem glb_enterHoldoff : (enterHoldoff s).glb = { s.glb with phase := .holdoff } := by simp [enterHoldoff, beginHold]

theorem phase_enterHoldoff : (enterHoldoff s).glb.phase = .holdoff := by simp [enterHoldoff, beginHold]

/-! ### What a chain of operations leaves as it was -/

/-- A reading of the state is the same before and after. -/
def Same {α : Type} (f : State → α) (s t : State) : Prop := f t = f s

section
variable {α β : Type} {f : State → α} {u : State}

theorem Same.refl (s : State) : Same f s s := Eq.refl (f s)

theorem Same.trans (h : Same f s t) (k : Same f t u) : Same f s u := Eq.trans k h

theorem same_ite {p : Prop} [Decidable p] {a b : State} (ha : Same f s a) (hb : Same f s b) : Same f s (if p then a else b) := by
  split <;> assumption

theorem same_fst {p : State × β} {b : β} (hp : p = (u, b)) (h : Same f s p.1) : Same f s u := by
  subst hp
  exact h

theorem same_snd {p : β × State} {b : β} (hp : p = (b, u)) (h : Same f s p.2) : Same f s u := by
  subst hp
  exact h

theorem same_each {l : List β} {g : β → State → State} (h : Same f s t) (hg : ∀ b v, Same f v (g b v)) : Same f s (each l g t) :=
  each_preserves (P := Same f s) h fun b v hv => hv.trans (hg b v)

end

/-! ### The plots' dividers move alone among the clocks -/

def withoutDividers (c : Clk) : Clk := { c with tdiv := [], tdivReq := [] }

/-- The clocks without the plots' dividers. -/
def mainClk (s : State) : Clk := withoutDividers s.clk

theorem Keeps.same_mainClk {ps : List Piece} (k : Keeps ps s t) (h : subParts [.clk] ps = false) : Same mainClk s t :=
  congrArg withoutDividers (k.at .clk h)

theorem Same.dllLock_eq (h : Same mainClk s t) : t.clk.dllLock = s.clk.dllLock := by
  have hlock : (mainClk t).dllLock = (mainClk s).dllLock := congrArg Clk.dllLock h
  exact hlock

theorem setYok_mainClk {n : Nat} : Same mainClk s (setYok n s) := by
  unfold setYok
  extract_lets old s1 s2
  refine same_ite (.refl s) ?_
  have h1 : Same mainClk s s1 := same_ite (latchAlert_keeps.same_mainClk rfl) (.refl s)
  have h2 : Same mainClk s s2 := same_ite (same_each h1 fun _ _ => .refl _) h1
  exact h2.trans (raise_keeps.same_mainClk (s := setReg 0x2880 n s2) rfl)

/-- A lost engine: what ends before the Yoke drains, and the state that the Yoke then takes. -/
theorem deviceLost_cases (c : Nat) (h : s.glb.deviceFatal = false) :
    ∃ u, Keeps [.fatal, .cnt, .hif, .streams, .msgs, .frames, .plg, .egress, .slots, .sheaves, .groups, .plots, .waits, .yoke, .ports, .bbs,
        .alert, .nextBuild, .nextSid] s u ∧
      deviceLost c s = if yokState u ∈ [3, 4] then setYok 5 u else if yokState u ∈ [1, 2] then setYok 6 u
        else { u with yoke := { u.yoke with drainReq := true } } := by
  unfold deviceLost
  rw [if_neg (by simp [h])]
  refine ⟨_, ?_, rfl⟩
  refine Keeps.after (Keeps.upd_fatal_waits (Keeps.after (Keeps.after ?_ silenceAll_keeps rfl) dropTraffic_keeps rfl) rfl) raise_keeps rfl
  exact Keeps.upd_hif (Keeps.after (Keeps.refl s) abortDescs_keeps rfl) rfl

theorem deviceLost_mainClk {c : Nat} : Same mainClk s (deviceLost c s) := by
  by_cases h : s.glb.deviceFatal = true
  · exact congrArg mainClk (if_pos h)
  · obtain ⟨u, hu, heq⟩ := deviceLost_cases (s := s) c (by simpa using h)
    rw [heq]
    exact (hu.same_mainClk rfl).trans (same_ite setYok_mainClk (same_ite setYok_mainClk (Same.refl (f := mainClk) u)))

/-! ### A die declared fatal (R396, R397) -/

/-- The die is marked fatal, with no other effect. -/
def dieMarked (d : Nat) (s : State) : State :=
  { s with glb := { s.glb with dieFatal := setBitTo s.glb.dieFatal d true, dieOk := setBitTo s.glb.dieOk d false } }

theorem keeps_foldl_fst {α β : Type} {ps : List Piece} {l : List α} {a : State × β} {g : State × β → α → State × β} (h : Keeps ps s a.1)
    (hg : ∀ b x, Keeps ps b.1 (g b x).1) (hq : subParts ps ps = true) : Keeps ps s (l.foldl g a).1 := by
  induction l generalizing a with
  | nil => exact h
  | cons x l ih => exact ih (h.after (hg a x) hq)

/-- A die is marked fatal; what ran on it ends; with the last die the engine is lost. -/
theorem declareDie_cases (d c : Nat) (h : s.glb.dieFatal.testBit d = false) :
    ∃ u, Keeps [.cnt, .hif, .streams, .msgs, .egress, .slots, .sheaves, .groups, .plots, .tiles, .switches, .sus, .fab, .waits, .yoke, .mem,
        .links, .hrw, .alert, .nextBuild, .nextSid] (dieMarked d s) u ∧
      declareDie d c s = if u.glb.dieFatal % 16 = 15 then deviceLost 1 u else u := by
  generalize hend : declareDie d c s = t
  unfold declareDie at hend
  rw [if_neg (by simp [h])] at hend
  extract_lets -merge -underBinder +onlyGivenNames glb s0 on banks kv at hend
  split at hend
  next s1 owners hstop =>
    have h1 : Keeps [.cnt, .hif, .groups, .plots, .tiles, .switches, .sus, .fab, .waits, .yoke, .links, .hrw, .alert] s0 (s1, owners).1 := by
      rw [← hstop]
      exact keeps_foldl_fst (Keeps.refl s0) (fun _ _ => stopGroup_keeps) rfl
    refine ⟨_, ?_, hend.symm⟩
    refine Keeps.after (Keeps.after (Keeps.after (Keeps.after ?_ forgetDie_keeps rfl) synDie_keeps rfl) setYd_keeps rfl) raise_keeps rfl
    refine keeps_each (keeps_each (keeps_each (h1.weaken rfl) fun _ _ k => k.after setBank_keeps rfl) fun _ _ k => ?_) fun _ _ k => k.after failMsg_keeps rfl
    exact (k.after updMsg_keeps rfl).after leaveSheaf_keeps rfl

theorem declareDie_again {d c : Nat} (h : s.glb.dieFatal.testBit d = true) : declareDie d c s = s := if_pos h

theorem declareDie_mainClk {d c : Nat} : Same mainClk s (declareDie d c s) := by
  by_cases h : s.glb.dieFatal.testBit d = true
  · exact congrArg mainClk (declareDie_again h)
  · obtain ⟨u, hu, heq⟩ := declareDie_cases (s := s) d c (by simpa using h)
    have hmark : Same mainClk s (dieMarked d s) := rfl
    rw [heq]
    exact (hmark.trans (hu.same_mainClk rfl)).trans (same_ite deviceLost_mainClk (.refl u))

/-- Both masks of dies differ in the die's bit alone. -/
theorem declareDie_dies {d c : Nat} (h : s.glb.dieFatal.testBit d = false) :
    (declareDie d c s).glb.dieFatal = setBitTo s.glb.dieFatal d true ∧ (declareDie d c s).glb.dieOk = setBitTo s.glb.dieOk d false := by
  obtain ⟨u, hu, heq⟩ := declareDie_cases (s := s) d c h
  obtain ⟨hok, hfatal⟩ : Piece.dies.same (dieMarked d s) u := hu.at .dies rfl
  obtain ⟨hok', hfatal'⟩ : Piece.dies.same u (declareDie d c s) := by
    rw [heq]
    split
    · exact deviceLost_keeps.at .dies rfl
    · exact ⟨rfl, rfl⟩
  exact ⟨hfatal'.trans hfatal, hok'.trans hok⟩

theorem declareDie_fatalBit {d c e : Nat} : (declareDie d c s).glb.dieFatal.testBit e = (decide (e = d) || s.glb.dieFatal.testBit e) := by
  by_cases h : s.glb.dieFatal.testBit d = true
  · rw [declareDie_again h]
    by_cases he : e = d
    · simp [he, h]
    · simp [he]
  · rw [(declareDie_dies (by simpa using h)).1, testBit_setBitTo]
    by_cases he : e = d <;> simp [he]

theorem bringupDies_mainClk {bad : List Nat} : Same mainClk s (bringupDies bad s) := by
  have h : Same mainClk s (each bad (fun d s => declareDie d 3 s) s) := same_each (.refl s) fun _ _ => declareDie_mainClk
  exact same_ite (h.trans (bringupFail_keeps.same_mainClk rfl)) h

theorem bringupDies_hbm {bad : List Nat} : (bringupDies bad s).mem.hbm = s.mem.hbm ∧ (bringupDies bad s).mem.poison = s.mem.poison :=
  ⟨bringupDies_keeps.at .hbm rfl, bringupDies_keeps.at .poison rfl⟩

/-! ### STANDBY and RUN -/

/-- STANDBY, with the standby power measured. -/
def inStandby (pstd : Nat) (s : State) : State :=
  { s with glb := { s.glb with phase := .standby }, yoke := { s.yoke with pstd := pstd, level := pstd } }

theorem standbyReached_quiet (hphase : s.glb.phase = .memory) (hmem : s.glb.memDone = true) (hrun : s.glb.run = false) (hheld : s.glb.runHeld = false)
    (hdrain : s.yoke.drainReq = false) : standbyReached pstd s = yokReport (setYok 1 (inStandby pstd s)) := by
  have hk : Keeps [.regYok, .cnt, .clk, .hif, .plots, .alert] (inStandby pstd s) (yokReport (setYok 1 (inStandby pstd s))) :=
    ((Keeps.refl _).after setYok_keeps rfl).after yokReport_keeps rfl
  have hglb : (yokReport (setYok 1 (inStandby pstd s))).glb = (inStandby pstd s).glb := hk.glb_eq rfl
  have hyoke : (yokReport (setYok 1 (inStandby pstd s))).yoke = (inStandby pstd s).yoke := hk.at .yoke rfl
  have h : standbyReached pstd s = afterStandby (applyRun (yokReport (setYok 1 (inStandby pstd s)))) := if_neg (by simp [hphase, hmem])
  rw [h, applyRun_notHeld (by rw [hglb]; exact hheld), afterStandby_waits (by rw [hyoke]; exact hdrain) (by rw [hglb]; exact hrun)]

theorem exec_runSet (hb : barUp s = true) (hgen : s.glb.otp.iodGen = 2 ∨ s.glb.otp.iodGen = 3) : exec .runSet s = .next (runSet s) := by
  have hcov : ¬(barUp s && decide (s.glb.otp.iodGen ≠ 2 ∧ s.glb.otp.iodGen ≠ 3)) = true := by rcases hgen with h | h <;> simp [h]
  exact (if_neg hcov).trans (congrArg Host.Outcome.next (if_pos hb))

theorem runSet_first (h : s.glb.run = false) : runSet s = applyRun { s with glb := { s.glb with runHeld := true } } := if_neg (by simp [h])

/-- Settles O9: each phase from the equation of its command above. -/
theorem bringUpPhases : Obligations.BringUpPhases := by
  unfold Obligations.BringUpPhases
  refine ⟨?otpGood, ?otpBad, ?noPll, ?clocks, ?links, ?memory, ?standby, ?runNow, ?runHeld⟩
  case otpGood =>
    intro s h
    exact ⟨_, congrArg Host.Outcome.next (otpDone_good h), rfl, rfl⟩
  case otpBad =>
    intro s h
    exact ⟨_, congrArg Host.Outcome.next (otpDone_bad h), rfl, rfl, faultLow_bringupFail (by decide)⟩
  case noPll =>
    intro s dlls h
    exact ⟨_, congrArg Host.Outcome.next (clocksLocked_noPll h), rfl, rfl⟩
  case clocks =>
    intro s dlls h
    have hclk := bringupDies_mainClk (s := clocksStarted dlls s) (bad := (List.range 4).filter (fun d => !dlls.val.testBit d))
    exact ⟨_, congrArg Host.Outcome.next (clocksLocked_pll h), congrArg Clk.pllLock hclk, congrArg Clk.devTime hclk, congrArg Clk.dllLock hclk,
      bringupDies_phase _ _ rfl⟩
  case links =>
    intro s quads h
    exact ⟨_, rfl, linksTrained_phase h⟩
  case memory =>
    intro s good h hm
    obtain ⟨hhbm, hpoison⟩ := bringupDies_hbm (s := memoryCleared s) (bad := (List.range 4).filter (fun d => !good.val.testBit d))
    exact ⟨_, congrArg Host.Outcome.next (memoryDone_first h hm), bringupDies_memDone, hhbm, hpoison, bringupDies_phase _ _ h⟩
  case standby =>
    intro s pstd hphase hmem hrun hheld hdrain
    refine ⟨_, congrArg Host.Outcome.next (standbyReached_quiet hphase hmem hrun hheld hdrain), ?_, ?_, ?_, ?_⟩
    · simp [inStandby, yokReport]
    · simp [inStandby, yokReport]
    · simp [inStandby, yokReport]
    · rw [yokState_report, yokState_setYok (by decide)]
  case runNow =>
    intro s hb hgen hphase htap hdrain hyok hrun
    have hset : runSet s = enterHoldoff { s with glb := { s.glb with run := true, runHeld := false } } :=
      ((runSet_first hrun).trans (applyRun_standby (s := { s with glb := { s.glb with runHeld := true } }) rfl hphase htap)).trans
        (afterStandby_holdoff hphase hdrain rfl hyok)
    refine ⟨_, exec_runSet hb hgen, ?_⟩
    rw [hset]
    exact ⟨enterHoldoff_keeps.at .run rfl, by simp [enterHoldoff, beginHold], phase_enterHoldoff, yokState_enterHoldoff⟩
  case runHeld =>
    intro s hb hgen hphase hrun
    refine ⟨_, exec_runSet hb hgen, ?_⟩
    have hset : runSet s = { s with glb := { s.glb with runHeld := true } } :=
      (runSet_first hrun).trans (applyRun_inMemory (s := { s with glb := { s.glb with runHeld := true } }) hphase)
    rw [hset]
    exact ⟨hrun, rfl, hphase⟩

/-! ### Loss of a die -/

/-- A DLL of a compute die is no longer in lock. -/
def dllDropped (d : Nat) (s : State) : State :=
  { s with clk := { s.clk with dllLock := setBitTo s.clk.dllLock d false } }

theorem dllLost_locked {d c : Nat} (h : s.clk.dllLock.testBit d = true) :
    dllLost d c s = declareDie d 1 (raise 0x0B04 d c 0 0 (dllDropped d s)) :=
  if_neg (by simp [h])

/-- Settles O12: a die's bit alone changes in the masks of dies (`declareDie_dies`), whatever else its loss ends. -/
theorem lossOfADie : Obligations.LossOfADie := by
  unfold Obligations.LossOfADie
  refine ⟨?dll, ?stack⟩
  case dll =>
    intro s d c hlock
    have hex : exec (.dllLost d c) s = .next (bbSettle (dllLost d c s)) := rfl
    rw [hex, dllLost_locked hlock]
    generalize hu : raise 0x0B04 d.val c.val 0 0 (dllDropped d s) = u
    refine ⟨_, rfl, ?_⟩
    have hk : Keeps [.cnt, .hif, .alert] (dllDropped d s) u := hu ▸ raise_keeps
    have hfatal : u.glb.dieFatal = s.glb.dieFatal := congrArg Glb.dieFatal (hk.glb_eq rfl)
    have hclk : Same mainClk (dllDropped d s) (bbSettle (declareDie d 1 u)) :=
      ((hk.same_mainClk rfl).trans declareDie_mainClk).trans (bbSettle_keeps.same_mainClk rfl)
    have hdll : (bbSettle (declareDie d 1 u)).clk.dllLock = setBitTo s.clk.dllLock d false := hclk.dllLock_eq
    have hdie : ∀ e, (bbSettle (declareDie d 1 u)).glb.dieFatal.testBit e = (decide (e = d.val) || s.glb.dieFatal.testBit e) := fun e => by
      rw [bbSettle_keeps.glb_eq rfl, declareDie_fatalBit, hfatal]
    refine ⟨?_, ?_, fun e he => ⟨?_, ?_⟩⟩
    · rw [hdll, testBit_setBitTo, if_pos rfl]
    · rw [hdie, decide_eq_true rfl, Bool.true_or]
    · rw [hdie, decide_eq_false he, Bool.false_or]
    · rw [hdll, testBit_setBitTo, if_neg he]
  case stack =>
    intro s d hok hnot
    obtain ⟨hfatal, hnotOk⟩ := declareDie_dies (c := 5) hnot
    have hglb : (bbSettle (declareDie d 5 s)).glb = (declareDie d 5 s).glb := bbSettle_keeps.glb_eq rfl
    have hbit : (declareDie d 5 s).glb.dieFatal.testBit d = true := by simp [declareDie_fatalBit]
    refine ⟨_, congrArg Host.Outcome.next (if_pos hok), ?_, ?_, ?_, fun e he => ⟨?_, ?_⟩⟩
    · rw [hglb, hbit]
    · rw [hglb, hnotOk, testBit_setBitTo]
      simp
    · have hne : (declareDie d 5 s).glb.dieFatal ≠ 0 := fun h0 => by simp [h0] at hbit
      simp [faultLow, hne]
    · rw [hglb, hfatal, testBit_setBitTo, if_neg he]
    · rw [hglb, hnotOk, testBit_setBitTo, if_neg he]

/-! ### A credit given back leaves the rest of the Yoke as it was -/

/-- The Yoke without what it holds of each die. -/
def yokeBody (s : State) : Yoke := { s.yoke with dies := [] }

theorem Keeps.same_yoke {ps : List Piece} (k : Keeps ps s t) (h : subParts [.yoke] ps = false) : Same yokeBody s t := by
  have hyoke : t.yoke = s.yoke := k.at .yoke h
  exact congrArg (fun y : Yoke => { y with dies := [] }) hyoke

theorem Same.drainReq_eq (h : Same yokeBody s t) : t.yoke.drainReq = s.yoke.drainReq := by
  have hreq : (yokeBody t).drainReq = (yokeBody s).drainReq := congrArg Yoke.drainReq h
  exact hreq

theorem refund_yokeBody {d amount work : Nat} : Same yokeBody s (refund d amount work s) := rfl

theorem leaveSheaf_yokeBody {mid : Nat} : Same yokeBody s (leaveSheaf mid s) := by
  unfold leaveSheaf
  extract_lets s1 gone s2 dead
  have h2 : Same yokeBody s1 s2 := same_each (.refl s1) fun x u => by
    split
    · exact refund_yokeBody
    · exact .refl u
  exact h2

theorem holdMsg_yokeBody {mid : Nat} : Same yokeBody s (holdMsg mid s) :=
  leaveSheaf_yokeBody.trans (((dropInject_keeps.weaken rfl).after updMsg_keeps rfl |>.after bump_keeps rfl : Keeps [.cnt, .hif, .msgs, .egress, .alert] _ _).same_yoke rfl)

theorem fenceStream_yokeBody {k st seq : Nat} : Same yokeBody s (fenceStream k st seq s) :=
  same_each ((updStream_keeps.same_yoke rfl).trans (raise_keeps.same_yoke rfl)) fun _ _ => holdMsg_yokeBody

theorem endOne_yokeBody {mid : Nat} : Same yokeBody s (endOne mid s) := by
  unfold endOne
  split
  · exact .refl s
  next m _ =>
    extract_lets -merge -underBinder +onlyGivenNames final isErr s1 s2 s3 s4 s5 s6 s7 v s8 s9 s10
    have h1 : Same yokeBody s s1 := (bump_keeps.same_yoke rfl).trans (teleAdd_keeps.same_yoke rfl)
    have h2 : Same yokeBody s s2 := same_ite (h1.trans (bump_keeps.same_yoke rfl)) h1
    have h3 : Same yokeBody s s3 := same_ite (h2.trans (teleAdd_keeps.same_yoke rfl)) h2
    have h4 : Same yokeBody s s4 := same_ite h3 (h3.trans (commitKv_keeps.same_yoke rfl))
    have h6 : Same yokeBody s s6 :=
      ((h4.trans (updStream_keeps.same_yoke rfl)).trans leaveSheaf_yokeBody).trans (dropMsg_keeps.same_yoke rfl)
    have h7 : Same yokeBody s s7 := by
      unfold s7
      split
      · exact h6.trans (complete_keeps.same_yoke rfl)
      · exact h6
    have h8 : Same yokeBody s s8 := same_ite (h7.trans fenceStream_yokeBody) h7
    have h10 : Same yokeBody s s10 := (h8.trans (freeIfUnbound_keeps.same_yoke rfl)).trans (idleStream_keeps.same_yoke rfl)
    exact h10.trans (wakeDetached_keeps.same_yoke rfl)

theorem settle_yokeBody {k fuel : Nat} : Same yokeBody s (settle k fuel s) := by
  induction fuel generalizing s with
  | zero => exact .refl s
  | succ fuel ih =>
    have hend : ∀ {u mid}, Same yokeBody s u → Same yokeBody s (settle k fuel (endOne mid u)) := fun hu => (hu.trans endOne_yokeBody).trans ih
    have hdrop : ∀ {mid}, Same yokeBody s (dropInject mid s) := dropInject_keeps.same_yoke rfl
    simp only [settle]
    split
    · exact .refl s
    · refine same_ite (.refl s) ?_
      split
      · split
        · exact same_ite (hend ((writeHostReply_keeps.same_yoke rfl).trans (countLate_keeps.same_yoke rfl))) (.refl s)
        · exact .refl s
      · refine same_ite (.refl s) (same_ite (hend (.refl s)) (same_ite (.refl s) (same_ite hdrop ?_)))
        split
        next u hq =>
          have hu : Same yokeBody s u := same_snd hq (hdrop.trans (errorReply_keeps.same_yoke rfl))
          exact hend hu
        next r u hq =>
          have hu : Same yokeBody s u := same_snd hq (hdrop.trans (errorReply_keeps.same_yoke rfl))
          have hv : ∀ {mid f}, Same yokeBody s (updMsg mid f u) := hu.trans (updMsg_keeps.same_yoke rfl)
          exact same_ite (hend (hv.trans (writeHostReply_keeps.same_yoke rfl))) (same_ite (hv.trans (queueInjectReply_keeps.same_yoke rfl)) hv)

theorem failMsg_yokeBody {st mid : Nat} : Same yokeBody s (failMsg st mid s) := by
  unfold failMsg
  split
  · exact .refl s
  · exact (attach_keeps.same_yoke rfl).trans settle_yokeBody

theorem markMsg_yokeBody {st mid : Nat} : Same yokeBody s (markMsg st mid s) := (updMsg_keeps.same_yoke rfl).trans failMsg_yokeBody

theorem poisonBank_yokeBody {gid : Nat} : Same yokeBody s (poisonBank gid s) := by
  unfold poisonBank
  split
  · exact .refl s
  · have hpass : Same yokeBody s (markPass stPoison gid s) := same_each (.refl s) fun _ _ => markMsg_yokeBody
    exact same_each (hpass.trans (setBank_keeps.same_yoke rfl)) fun _ _ => markMsg_yokeBody

theorem residentFill_yokeBody {p : Nat} {errs : List (Nat × List Byte)} : Same yokeBody s (residentFill p errs s) := by
  unfold residentFill
  split
  · exact .refl s
  · refine same_ite (.refl s) ?_
    extract_lets -merge -underBinder +onlyGivenNames n o
    split
    next u bad hdec =>
      have hu : Same yokeBody s u := same_fst hdec (decodeHalves_keeps.same_yoke rfl)
      extract_lets -merge -underBinder +onlyGivenNames img u1 u2
      have hfill : Same yokeBody s u2 := (hu.trans (updPlot_keeps.same_yoke rfl)).trans (updGroup_keeps.same_yoke rfl)
      exact same_ite hfill (hfill.trans poisonBank_yokeBody)

/-! ### The phases of a soft reset -/

/-- A soft reset begins: PHASE and the reset's own state, and the Yoke's requests. -/
def softBegun (imm : Bool) (s : State) : State :=
  { s with glb := { s.glb with phase := .softReset, soft := .ramp, softImm := imm, softT0 := s.clk.now },
           yoke := { s.yoke with drainReq := s.yoke.drainReq || decide (yokState s = 5), holding := false, holdSched := false, startAt := none } }

theorem softRequest_running {src : Nat} {imm : Bool} (hphase : s.glb.phase = .running) (hsoft : s.glb.soft = .off) (hfatal : s.glb.deviceFatal = false) :
    Keeps [.regYok, .cnt, .clk, .hif, .plots, .yoke, .alert] (softBegun imm (orReg 0x0440 (2 ^ src) s)) (softRequest src imm s) ∧
      (imm = true → (softRequest src imm s).yoke.level = s.yoke.pstd) := by
  unfold softRequest
  rw [if_neg (by simp [hfatal]), if_neg (by simp [hsoft]), if_neg (by simp [hphase])]
  extract_lets s1 glb yoke s2 s3
  have h3 : Keeps [.regYok, .cnt, .clk, .hif, .plots, .alert] (softBegun imm (orReg 0x0440 (2 ^ src) s)) s3 :=
    keeps_ite (.refl _) (setYok_keeps.weaken rfl)
  have hyoke : s3.yoke = (softBegun imm (orReg 0x0440 (2 ^ src) s)).yoke := h3.at .yoke rfl
  cases imm with
  | false => exact ⟨h3.weaken rfl, nofun⟩
  | true =>
    refine ⟨(h3.weaken rfl).upd_yoke rfl, fun _ => ?_⟩
    show s3.yoke.pstd = s.yoke.pstd
    rw [hyoke]
    rfl

theorem softQuiesce_ramp (hsoft : s.glb.soft = .ramp) (hlevel : s.yoke.level ≤ s.yoke.pstd) :
    ∃ u n, Keeps [.regYok, .cnt, .clk, .hif, .streams, .msgs, .egress, .slots, .sheaves, .groups, .plots, .waits, .yoke, .alert, .nextBuild, .nextSid]
        { s with glb := { s.glb with soft := .quiesce } } u ∧
      softQuiesce s = if n = 0 then dropTraffic u else bump 66 n (dropTraffic u) := by
  refine ⟨_, _, ?_, if_neg (by simp [hsoft, hlevel])⟩
  exact ((keeps_ite (.refl _) (setYok_keeps.weaken rfl)).after abortDescs_keeps rfl).after silenceAll_keeps rfl

/-- What a soft reset ends before it clears the path. -/
def softHalted (s : State) : State :=
  dropRotations (abandonInstalls 1 { s with glb := { s.glb with soft := .clear } })

theorem softClear_quiet {bad : Nat} (hsoft : s.glb.soft = .quiesce) (hmsgs : s.msgs = []) (hbbs : s.bbs.any (fun b => b.2.tx.isSome) = false) :
    Keeps [.cnt, .hif, .tables, .slots, .groups, .plots, .links, .alert] (clearPath (softHalted s)) (softClear bad s) := by
  unfold softClear
  rw [if_neg (by simp [hsoft, hmsgs, hbbs])]
  refine keeps_each (keeps_each ?_ fun _ _ k => k.after clearWatch_keeps rfl) fun _ _ k => k.after slotBad_keeps rfl
  exact flushLinks_keeps.weaken rfl

/-- An object that is 0 and not saturated. -/
def SynClear (k : Nat) (s : State) : Prop := synVal s k = 0 ∧ synSat s k = false

theorem synClear_zero {k : Nat} (hk : k < 128) : SynClear k (setSynSat k false (setSyn k 0 s)) :=
  ⟨by rw [synVal_setSynSat, synVal_setSyn_same hk (by decide)], synSat_setSynSat_same hk⟩

theorem SynClear.zero_other {j k : Nat} (h : SynClear j s) (hjk : j ≠ k) : SynClear j (setSynSat k false (setSyn k 0 s)) :=
  ⟨by rw [synVal_setSynSat, synVal_setSyn_other hjk]; exact h.1, by rw [synSat_setSynSat_other hjk, synSat_setSyn]; exact h.2⟩

theorem clearPath_synClear {k : Nat} (hk : k < 128) : SynClear k (clearPath s) := by
  let zero := fun k s => setSynSat k false (setSyn k 0 s)
  let used := (List.range 128).filter (fun k => decide (synVal s k ≠ 0) || synSat s k)
  have hother : ∀ a b v, (b < 128 → SynClear b v) → (b < 128 → SynClear b (zero a v)) := fun a b v h hb => by
    by_cases hab : b = a
    · exact hab ▸ synClear_zero (hab ▸ hb)
    · exact (h hb).zero_other hab
  have heach : SynClear k (each used zero s) := by
    by_cases hused : k ∈ used
    · exact each_establishes (P := fun k s => k < 128 → SynClear k s) (fun a v ha => synClear_zero ha) hother k hused hk
    · have hclear : SynClear k s := by simpa [used, hk, SynClear] using hused
      exact each_preserves (P := fun v => k < 128 → SynClear k v) (fun _ => hclear) (fun a v => hother a k v) hk
  exact heach

/-- A soft reset is over, with its event and counter. -/
def softOver (s : State) : State :=
  bump 67 1 (raise 0x0B01 0 0 ((s.clk.now - s.glb.softT0) / 1000) 0
    { s with glb := { s.glb with soft := .off, softImm := false, phase := .standby } })

/-- The resident areas are filled again. -/
def refilled (s : State) : State := each (s.groups.flatMap Group.unfilled) (fun p s => residentFill p [] s) s

theorem softRestore_clear (h : s.glb.soft = .clear) : softRestore s = readySheaves (placeUnplaced (afterStandby (softOver (refilled s)))) :=
  if_neg (by simp [h])

theorem refilled_keeps : Keeps [.regMem, .cnt, .hif, .streams, .msgs, .egress, .slots, .sheaves, .groups, .plots, .waits, .yoke, .hbm, .poison, .mem,
    .links, .trc, .alert, .nextBuild, .nextSid] s (refilled s) :=
  keeps_each (.refl s) fun _ _ k => k.after residentFill_keeps rfl

theorem refilled_yokeBody : Same yokeBody s (refilled s) := same_each (.refl s) fun _ _ => residentFill_yokeBody

/-- Settles O10: each phase from what its operation leaves; the restored state enters the hold-off step. -/
theorem softResetPhases : Obligations.SoftResetPhases := by
  unfold Obligations.SoftResetPhases
  refine ⟨?request, ?quiesce, ?clear, ?restore⟩
  case request =>
    intro s imm hb hphase hsoft hfatal
    obtain ⟨hk, himm⟩ := softRequest_running (s := setReg 0x0004 (4 * b2n imm) s) (src := 3) (imm := imm) hphase hsoft hfatal
    refine ⟨_, congrArg Host.Outcome.next (if_pos hb), ?_⟩
    generalize softRequest 3 imm (setReg 0x0004 (4 * b2n imm) s) = t at hk himm ⊢
    have hglb : t.glb = (softBegun imm s).glb := hk.glb_eq rfl
    have hcause : (getReg t 0x0440).testBit 3 = true := by
      rw [hk.getReg_at (by decide)]
      exact (testBit_orReg _ (by decide)).trans (Bool.or_true _)
    have hctl : getReg t 0x0004 = 4 * b2n imm := by
      rw [hk.getReg_at (by decide)]
      exact (getReg_orReg_other (by decide)).trans (getReg_setReg_same.trans (by cases imm <;> rfl))
    rw [hglb]
    exact ⟨rfl, rfl, rfl, rfl, hcause, hctl, himm, hk.at .msgs rfl⟩
  case quiesce =>
    intro s hsoft hlevel
    obtain ⟨u, n, hu, heq⟩ := softQuiesce_ramp hsoft hlevel
    refine ⟨_, rfl, ?_⟩
    have hk : Keeps [.cnt, .hif, .alert, .msgs, .egress, .bbs] (dropTraffic u) (bbSettle (softQuiesce s)) := by
      rw [heq]
      exact (keeps_ite (.refl _) (bump_keeps.weaken rfl)).after bbSettle_keeps rfl
    have hglb : (bbSettle (softQuiesce s)).glb = { s.glb with soft := .quiesce } := (hk.glb_eq rfl).trans (hu.glb_eq rfl)
    rw [hglb, (hk.at .frames rfl : _ = _), (hk.at .plg rfl : _ = _)]
    exact ⟨rfl, rfl, rfl, rfl⟩
  case clear =>
    intro s bad hsoft hmsgs hbbs
    have hk := softClear_quiet (bad := bad) hsoft hmsgs hbbs
    have hsyn : ∀ k, k < 128 → SynClear k (softClear bad s) := fun k hkk => by
      have hreg : ∀ off, getReg (softClear bad s) off = getReg (clearPath (softHalted s)) off := fun off => hk.getReg_eq rfl
      obtain ⟨hval, hsat⟩ := clearPath_synClear (s := softHalted s) hkk
      exact ⟨(hreg _).trans hval, (congrArg (Nat.testBit · 2) (hreg _)).trans hsat⟩
    have hglb : (softClear bad s).glb = (softHalted s).glb := (hk.glb_eq rfl).trans (clearPath_keeps.glb_eq rfl)
    have hhalt : (softHalted s).glb = { s.glb with soft := .clear } :=
      ((abandonInstalls_keeps.weaken rfl).after dropRotations_keeps rfl : Keeps [.cnt, .hif, .slots, .groups, .plots, .alert] _ _).glb_eq rfl
    refine ⟨_, rfl, ?_, hk.at .streams rfl, hk.at .sheaves rfl, hk.at .waits rfl, hk.at .tiles rfl, ?_, softClear_keeps.at .hbm rfl, hsyn⟩
    · rw [hglb, hhalt]
    · rw [hk.mem_eq rfl]
      rfl
  case restore =>
    intro s hsoft hrun hdrain hyok
    have hfill : Keeps _ s (refilled s) := refilled_keeps
    have hover : Keeps [.cnt, .hif, .alert] { refilled s with glb := { (refilled s).glb with soft := .off, softImm := false, phase := .standby } }
        (softOver (refilled s)) := (raise_keeps.weaken rfl).after bump_keeps rfl
    have hglb : (softOver (refilled s)).glb = { s.glb with soft := .off, softImm := false, phase := .standby } := by
      rw [hover.glb_eq rfl, hfill.glb_eq rfl]
    have hreq : (softOver (refilled s)).yoke.drainReq = false := by
      rw [(hover.at .yoke rfl : _ = _)]
      exact refilled_yokeBody.drainReq_eq.trans hdrain
    have hstate : yokState (softOver (refilled s)) = 1 := by
      rw [yokState_congr (hover.getReg_eq rfl), ← hyok]
      exact yokState_congr (hfill.getReg_at (by decide))
    have heq : afterStandby (softOver (refilled s)) = enterHoldoff (softOver (refilled s)) :=
      afterStandby_holdoff (by rw [hglb]) hreq (by rw [hglb]; exact hrun) hstate
    generalize hw : enterHoldoff (softOver (refilled s)) = w at heq
    have hk : Keeps [.cnt, .hif, .streams, .msgs, .egress, .slots, .sheaves, .groups, .plots, .tiles, .switches, .sus, .fab, .waits, .yoke, .links, .hrw,
        .alert, .bbs, .nextBuild, .nextSid] w (bbSettle (readySheaves (placeUnplaced w))) :=
      ((placeUnplaced_keeps.weaken rfl).after readySheaves_keeps rfl).after bbSettle_keeps rfl
    refine ⟨_, congrArg (Host.Outcome.next ∘ bbSettle) (softRestore_clear hsoft), ?_⟩
    rw [heq]
    have hend : (bbSettle (readySheaves (placeUnplaced w))).glb = { s.glb with soft := .off, softImm := false, phase := .holdoff } := by
      rw [hk.glb_eq rfl, ← hw, glb_enterHoldoff, hglb]
    rw [hend]
    refine ⟨rfl, rfl, rfl, ?_⟩
    rw [yokState_congr (hk.getReg_eq rfl), ← hw, yokState_enterHoldoff]

/-! ### The host interface and the two-wire port -/

theorem HostRegsClear.of_keeps {ps : List Piece} (h : HostRegsClear s) (k : Keeps ps s t) (hq : (pieceBits regParts &&& pieceBits ps == 0) = true) :
    HostRegsClear t := by
  have hreg : ∀ off, getReg t off = getReg s off := fun off => k.getReg_eq hq
  obtain ⟨hctl, hring, hmsix⟩ := h
  exact ⟨(hreg _).trans hctl, fun r hr => (hreg _).trans (hring r hr), fun off h1 h2 => (hreg _).trans (hmsix off h1 h2)⟩

theorem tget_tclear_within {α : Type} {x : α} {j k n : Nat} (h1 : k ≤ j) (h2 : j < k + n) (m : List (Nat × α)) : tget x j (tclear k n m) = x := by
  induction m with
  | nil => rfl
  | cons e m ih =>
    simp only [tclear, List.filter_cons] at ih ⊢
    split
    next hout =>
      have hne : e.1 ≠ j := by
        simp only [Bool.or_eq_true, decide_eq_true_eq] at hout
        omega
      rw [tget, if_neg hne, ih]
    · exact ih

/-- A ring's tail and EN are 0. -/
def ringOff (r : Nat) (s : State) : State := setRegIn 0x1000 (0x090C + 16 * r) 0 (setRegIn 0x1000 (0x0B40 + 4 * r) 0 s)

theorem getReg_setRegIn_other {hi off j v : Nat} (h : j ≠ off) : getReg (setRegIn hi off v s) j = getReg s j := by
  unfold setRegIn
  split
  · exact getReg_setReg_other h
  · rfl

theorem getReg_ringOff_other {r off : Nat} (h1 : off ≠ 0x090C + 16 * r) (h2 : off ≠ 0x0B40 + 4 * r) : getReg (ringOff r s) off = getReg s off :=
  (getReg_setRegIn_other h1).trans (getReg_setRegIn_other h2)

theorem getReg_ringOff_same {r : Nat} (hr : r < 36) : getReg (ringOff r s) (0x090C + 16 * r) = 0 := by
  rw [ringOff, setRegIn, if_pos (by omega), getReg_setReg_same, Nat.zero_mod]

/-- Every ring off, and HIF_CTL at 0. -/
def ringsOff (s : State) : State := each (List.range 36) ringOff (setReg 0x0800 0 s)

/-- The offset of no ring's tail or EN. -/
def NotRing (off : Nat) : Prop := ∀ r, off ≠ 0x090C + 16 * r ∧ off ≠ 0x0B40 + 4 * r

theorem getReg_ringsOff_other {off : Nat} (h : NotRing off) : getReg (ringsOff s) off = getReg (setReg 0x0800 0 s) off :=
  each_preserves (P := fun v => getReg v off = getReg (setReg 0x0800 0 s) off) rfl fun r _ hv =>
    (getReg_ringOff_other (h r).1 (h r).2).trans hv

theorem getReg_ringsOff_en {r : Nat} (hr : r < 36) : getReg (ringsOff s) (0x090C + 16 * r) = 0 := by
  refine each_establishes (P := fun r v => r < 36 → getReg v (0x090C + 16 * r) = 0) (fun _ _ h => getReg_ringOff_same h) ?_ r (List.mem_range.mpr hr) hr
  intro a b v hv hb
  by_cases hab : b = a
  · exact hab ▸ getReg_ringOff_same hb
  · exact (getReg_ringOff_other (by omega) (by omega)).trans (hv hb)

theorem regs_hostReset : (hostReset s).regs = tclear 0x0C00 0x400 (ringsOff s).regs := by
  unfold hostReset ringsOff ringOff clearMsix
  dsimp only

theorem getReg_hostReset_below {off : Nat} (h : off < 0x0C00) : getReg (hostReset s) off = getReg (ringsOff s) off := by
  rw [getReg, regs_hostReset, tget_tclear_other (.inl h), ← getReg]

theorem getReg_hostReset_msix {off : Nat} (h1 : 0x0C00 ≤ off) (h2 : off < 0x1000) : getReg (hostReset s) off = (regReset off).toNat := by
  rw [getReg, regs_hostReset, tget_tclear_within h1 (by omega)]

theorem hostReset_regsClear : HostRegsClear (hostReset s) := by
  refine ⟨?_, fun r hr => ?_, fun off h1 h2 => getReg_hostReset_msix h1 h2⟩
  · rw [getReg_hostReset_below (by decide), getReg_ringsOff_other fun r => by omega, getReg_setReg_same, Nat.zero_mod]
  · rw [getReg_hostReset_below (by omega), getReg_ringsOff_en hr]

theorem getReg_hostReset_hostCfg : getReg (hostReset s) 0x0804 = getReg s 0x0804 := by
  rw [getReg_hostReset_below (by decide), getReg_ringsOff_other fun r => by omega, getReg_setReg_other (by decide)]

/-- The waiting host descriptors, closes and frames not yet admitted go. -/
def hostForgotten (s : State) : State :=
  { s with waits := s.waits.filter (fun w => !decide (1024 ≤ w.req ∧ w.req < 1040)),
           streams := s.streams.map (fun (k, v) => (k, { v with closeWait := none })),
           frames := s.frames.filter (fun f => f.origin.isNone || f.mid.isSome) }

theorem cutHost_afterReset {cause : Nat} :
    Keeps [.cnt, .hif, .streams, .msgs, .egress, .slots, .sheaves, .groups, .plots, .waits, .yoke, .alert, .nextBuild, .nextSid]
      (hostReset (hostForgotten s)) (cutHost cause s) := by
  refine Keeps.after (keeps_each (.refl _) fun _ _ k => ?_) abandonInstalls_keeps rfl
  exact ((k.after updMsg_keeps rfl).after leaveSheaf_keeps rfl).after failMsg_keeps rfl

theorem cutHost_regsClear {cause : Nat} : HostRegsClear (cutHost cause s) := hostReset_regsClear.of_keeps cutHost_afterReset rfl

theorem cutHost_hostCfg {cause : Nat} : getReg (cutHost cause s) 0x0804 = getReg s 0x0804 :=
  (cutHost_afterReset.getReg_eq rfl).trans getReg_hostReset_hostCfg

/-- The pin PERST_N is low, with its cause. -/
def perstNoted (s : State) : State := orReg 0x0440 64 { s with glb := { s.glb with perstLow := true } }

theorem perstAssert_before {ns : Nat} (hns : 1000 ≤ ns) (hlow : s.glb.perstLow = false) (hpow : s.glb.powered = true) (hrun : s.glb.run = false) :
    perstAssert ns s = hostReset (perstNoted s) := by
  have hnone : ¬(ns < 1000 ∨ s.glb.perstLow = true ∨ s.glb.powered = false) := by simp [hlow, hpow]; omega
  exact (if_neg hnone).trans (if_pos (show (!s.glb.run) = true by rw [hrun]; rfl))

/-- The host is isolated from now on. -/
def isolated (why : Iso) (s : State) : State := { s with glb := { s.glb with iso := why, isoT0 := s.clk.now } }

theorem perstAssert_after {ns : Nat} (hns : 1000 ≤ ns) (hlow : s.glb.perstLow = false) (hpow : s.glb.powered = true) (hrun : s.glb.run = true)
    (hcfg : (getReg s 0x0804).testBit 0 = true) : perstAssert ns s = cutHost 2 (isolated .perst (latchAlert 5 (perstNoted s))) := by
  have hnone : ¬(ns < 1000 ∨ s.glb.perstLow = true ∨ s.glb.powered = false) := by simp [hlow, hpow]; omega
  have hread : getReg (isolated .perst (latchAlert 5 (perstNoted s))) 0x0804 = getReg s 0x0804 :=
    (latchAlert_keeps (a0 := 5) (s := perstNoted s) |>.getReg_eq rfl).trans (getReg_orReg_other (by decide))
  refine ((if_neg hnone).trans (if_neg (show ¬(!s.glb.run) = true by rw [hrun]; decide))).trans (if_pos ?_)
  exact (congrArg (Nat.testBit · 0) (cutHost_hostCfg.trans hread)).trans hcfg

/-- Settles O11: the host interface's reset from its registers' clearing, the cut from what it leaves after that reset. -/
theorem hostCutAndPortReset : Obligations.HostCutAndPortReset := by
  unfold Obligations.HostCutAndPortReset
  refine ⟨?perstBefore, ?perstAfter, ?release, ?flr, ?smb, ?smbRelease⟩
  case perstBefore =>
    intro s ns hns hlow hpow hrun
    have hk : Keeps [.regHif, .cnt, .hif, .msgs, .egress, .bbs, .alert] (perstNoted s) (bbSettle (hostReset (perstNoted s))) :=
      (hostReset_keeps.weaken rfl).after bbSettle_keeps rfl
    refine ⟨_, congrArg (Host.Outcome.next ∘ bbSettle) (perstAssert_before hns hlow hpow hrun), ?_, ?_, hostReset_regsClear.of_keeps bbSettle_keeps rfl, ?_⟩
    · rw [hk.glb_eq rfl]; rfl
    · rw [hk.getReg_at (by decide)]
      exact (testBit_orReg _ (by decide)).trans (Bool.or_true _)
    · rw [hk.glb_eq rfl]; exact ⟨rfl, rfl⟩
  case perstAfter =>
    intro s ns hns hlow hpow hrun hcfg
    generalize hu : isolated .perst (latchAlert 5 (perstNoted s)) = u
    have hglb : u.glb = { s.glb with perstLow := true, iso := .perst, isoT0 := s.clk.now } := by subst hu; rfl
    have hk : Keeps [.regHif, .cnt, .hif, .streams, .msgs, .frames, .egress, .slots, .sheaves, .groups, .plots, .waits, .yoke, .bbs, .alert, .nextBuild, .nextSid]
        u (bbSettle (cutHost 2 u)) := (cutHost_keeps.weaken rfl).after bbSettle_keeps rfl
    have hcause : (getReg (bbSettle (cutHost 2 u)) 0x0440).testBit 6 = true := by
      rw [hk.getReg_at (by decide), ← hu]
      exact (congrArg (Nat.testBit · 6) (latchAlert_keeps (a0 := 5) (s := perstNoted s) |>.getReg_eq rfl)).trans ((testBit_orReg _ (by decide)).trans (Bool.or_true _))
    refine ⟨_, congrArg (Host.Outcome.next ∘ bbSettle) ((perstAssert_after hns hlow hpow hrun hcfg).trans (congrArg (cutHost 2) hu)), ?_⟩
    rw [hk.glb_eq rfl, hglb]
    exact ⟨rfl, rfl, rfl, hrun, rfl, hcause, cutHost_regsClear.of_keeps bbSettle_keeps rfl⟩
  case release =>
    intro s
    exact ⟨_, rfl, rfl, rfl⟩
  case flr =>
    intro s hb
    have hk : Keeps [.regHif, .cnt, .hif, .streams, .msgs, .frames, .egress, .slots, .sheaves, .groups, .plots, .waits, .yoke, .bbs, .alert, .nextBuild, .nextSid]
        (isolated .flr (orReg 0x0440 128 s)) (bbSettle (cutHost 3 (isolated .flr (orReg 0x0440 128 s)))) :=
      (cutHost_keeps.weaken rfl).after bbSettle_keeps rfl
    have hflr : flr s = cutHost 3 (isolated .flr (orReg 0x0440 128 s)) := if_neg (by simp [hb])
    have hcause : (getReg (bbSettle (cutHost 3 (isolated .flr (orReg 0x0440 128 s)))) 0x0440).testBit 7 = true := by
      rw [hk.getReg_at (by decide)]
      exact (testBit_orReg _ (by decide)).trans (Bool.or_true _)
    refine ⟨_, congrArg (Host.Outcome.next ∘ bbSettle) hflr, ?_⟩
    rw [hk.glb_eq rfl]
    exact ⟨rfl, rfl, hcause, rfl, rfl, cutHost_regsClear.of_keeps bbSettle_keeps rfl⟩
  case smb =>
    intro s ns hns hpow
    have hsmb : smbRst ns s = twpReset { s with glb := { s.glb with smbRstLow := true } } := by
      unfold smbRst
      rw [if_neg (by simp [hpow]; omega), if_neg (by omega)]
      rfl
    exact ⟨_, congrArg Host.Outcome.next hsmb, rfl, rfl, rfl, rfl, fun off h1 h2 => congrArg BitVec.toNat (tget_tclear_within h1 h2 _)⟩
  case smbRelease =>
    intro s hlow
    exact ⟨_, congrArg Host.Outcome.next (if_pos hlow), rfl, rfl, rfl⟩

end Sys2Proof.Machine
end

section
/-! PROOF. Lanes of a number: what a lane of a register built from lanes reads as, what a write under a mask leaves, and the values and flags of
a result that is held within its format. -/
namespace Sys2Proof.Machine

variable {w n c i mask old : Nat} {sg : Bool} {v : Int}

/-! ### Lanes -/

theorem laneOf_lt {v : Nat} : laneOf w v i < 2 ^ w := bitsOf_lt

theorem laneOf_eq_div {v : Nat} : laneOf w v i = v / 2 ^ (w * i) % 2 ^ w := by rw [laneOf, bitsOf, Nat.shiftRight_eq_div_pow]

/-- A lane of a register built from its lanes; the lanes past the last read as 0. -/
theorem laneOf_ofLanes {xs : List Nat} : laneOf w (ofLanes w xs) i = (xs[i]?.getD 0) % 2 ^ w := by
  induction xs generalizing i with
  | nil => simp [ofLanes, laneOf_eq_div]
  | cons x xs ih =>
    have hpos : 0 < 2 ^ w := Nat.two_pow_pos w
    cases i with
    | zero => simp [ofLanes, laneOf_eq_div]
    | succ i =>
      have hstep : (x % 2 ^ w + 2 ^ w * ofLanes w xs) / 2 ^ (w * (i + 1)) = ofLanes w xs / 2 ^ (w * i) := by
        rw [Nat.mul_succ, Nat.add_comm (w * i), Nat.pow_add, ← Nat.div_div_eq_div_mul, Nat.add_mul_div_left _ _ hpos,
          Nat.div_eq_of_lt (Nat.mod_lt _ hpos), Nat.zero_add]
      rw [ofLanes, laneOf_eq_div, hstep, ← laneOf_eq_div, ih, List.getElem?_cons_succ]

theorem laneOf_ofLanes_map {α : Type} {f : α → Nat} {xs : List α} (h : i < xs.length) : laneOf w (ofLanes w (xs.map f)) i = f xs[i] % 2 ^ w := by
  simp [laneOf_ofLanes, h]

theorem laneOf_ofLanes_range {f : Nat → Nat} (h : i < n) : laneOf w (ofLanes w ((List.range n).map f)) i = f i % 2 ^ w := by
  rw [laneOf_ofLanes_map (by simpa using h), List.getElem_range]

/-- A write under a mask: the lanes that the mask has take their result, the others stay. -/
theorem laneOf_writeLanes {res : List (Nat × Nat)} (h : i < res.length) :
    laneOf w (writeLanes w mask old res).1 i = (if mask.testBit i then res[i].1 else laneOf w old i) % 2 ^ w := by
  unfold writeLanes
  dsimp only
  rw [List.map_map, laneOf_ofLanes_range h]
  simp only [Function.comp_apply, List.getElem?_eq_getElem h]
  split <;> rfl

/-! ### Flags -/

theorem foldl_flags {α : Type} {f : α → Nat} {xs : List α} {acc : Nat} (hacc : acc = 0 ∨ acc = flSAT) (h : ∀ x ∈ xs, f x = 0 ∨ f x = flSAT) :
    xs.foldl (fun a x => a ||| f x) acc = 0 ∨ xs.foldl (fun a x => a ||| f x) acc = flSAT := by
  induction xs generalizing acc with
  | nil => exact hacc
  | cons x xs ih =>
    refine ih ?_ fun y hy => h y (List.mem_cons_of_mem x hy)
    rcases hacc with rfl | rfl <;> rcases h x List.mem_cons_self with hx | hx <;> simp [hx]

/-- Every lane of a map raises no flag but SAT: nor does the whole. -/
theorem foldl_flags_map {α : Type} {g : α → Nat × Nat} {xs : List α} (h : ∀ x, (g x).2 = 0 ∨ (g x).2 = flSAT) :
    (xs.map g).foldl (fun a x => a ||| x.2) 0 = 0 ∨ (xs.map g).foldl (fun a x => a ||| x.2) 0 = flSAT := by
  refine foldl_flags (.inl rfl) fun x hx => ?_
  obtain ⟨a, -, rfl⟩ := List.mem_map.mp hx
  exact h a

/-! ### Signed numbers of a width -/

theorem ofSigned_lt {v : Int} : ofSigned n v < 2 ^ n := by
  rw [ofSigned_eq_toNat]
  exact BitVec.isLt _

theorem toSigned_mod {x : Nat} : toSigned n (x % 2 ^ n) = toSigned n x := by simp [toSigned]

theorem toSigned_ofSigned (hn : 0 < n) (hlo : -(2 ^ (n - 1) : Nat) ≤ v) (hhi : v < (2 ^ (n - 1) : Nat)) : toSigned n (ofSigned n v) = v := by
  rw [ofSigned_eq_toNat, toSigned_toNat]
  refine BitVec.toInt_ofInt_eq_self hn ?_ ?_
  · exact_mod_cast hlo
  · exact_mod_cast hhi

theorem toSigned_bounds {x : Nat} (hn : 0 < n) : -(2 ^ (n - 1) : Nat) ≤ toSigned n x ∧ toSigned n x < (2 ^ (n - 1) : Nat) := by
  have hlt : x % 2 ^ n < 2 ^ n := Nat.mod_lt _ (Nat.two_pow_pos n)
  have hpow : 2 ^ n = 2 * 2 ^ (n - 1) := by rw [← Nat.pow_succ', Nat.succ_eq_add_one, Nat.sub_add_cancel hn]
  unfold toSigned
  generalize 2 ^ (n - 1) = half at *
  split <;> omega

theorem ofSigned_cast : (ofSigned n v : Int) = v % (2 ^ n : Nat) := Int.toNat_of_nonneg (Int.emod_nonneg v (by positivity))

theorem ofSigned_mod {m : Nat} (h : n ≤ m) : ofSigned m v % 2 ^ n = ofSigned n v := by
  have hdvd : ((2 ^ n : Nat) : Int) ∣ (2 ^ m : Nat) := Int.natCast_dvd_natCast.mpr (Nat.pow_dvd_pow 2 h)
  refine Int.ofNat.inj ?_
  change ((ofSigned m v % 2 ^ n : Nat) : Int) = ofSigned n v
  rw [Int.natCast_emod, ofSigned_cast, ofSigned_cast, Int.emod_emod_of_dvd v hdvd]

theorem ofSigned_toSigned {x : Nat} : ofSigned n (toSigned n x) = x % 2 ^ n := by
  rw [← toSigned_mod, ofSigned_eq_toNat]
  have hlt : x % 2 ^ n < 2 ^ n := Nat.mod_lt _ (Nat.two_pow_pos n)
  have hword : toSigned n (x % 2 ^ n) = (BitVec.ofNat n (x % 2 ^ n)).toInt := by
    rw [← toSigned_toNat, BitVec.toNat_ofNat, Nat.mod_eq_of_lt hlt]
  rw [hword, BitVec.ofInt_toInt, BitVec.toNat_ofNat, Nat.mod_eq_of_lt hlt]

/-! ### Results held within a format -/

theorem satInt_snd : (satInt n sg v).2 = 0 ∨ (satInt n sg v).2 = flSAT := by
  unfold satInt
  split
  · exact .inr rfl
  · exact .inl rfl

theorem satInt_lt : (satInt n sg v).1 < 2 ^ n := ofSigned_lt

theorem intLo_le_intHi : intLo n sg ≤ intHi n sg := by
  have hhalf : 0 < 2 ^ (n - 1) := Nat.two_pow_pos _
  have hpos : 0 < 2 ^ n := Nat.two_pow_pos n
  unfold intLo intHi
  split <;> omega

theorem clampInt_eq : clampInt (intLo n sg) (intHi n sg) v = max (intLo n sg) (min (intHi n sg) v) := by
  have hle := intLo_le_intHi (n := n) (sg := sg)
  unfold clampInt
  split
  · omega
  · split <;> omega

/-- A result is held within the range of its format. -/
theorem intVal_satInt (hn : 0 < n) : intVal n sg (satInt n sg v).1 = max (intLo n sg) (min (intHi n sg) v) := by
  have hle := intLo_le_intHi (n := n) (sg := sg)
  rw [satInt, clampInt_eq]
  generalize hx : max (intLo n sg) (min (intHi n sg) v) = x
  have hlo : intLo n sg ≤ x := by omega
  have hhi : x ≤ intHi n sg := by omega
  cases sg with
  | true =>
    simp only [intLo, intHi, if_true] at hlo hhi
    exact toSigned_ofSigned hn hlo (by omega)
  | false =>
    simp only [intLo, intHi, Bool.false_eq_true, if_false] at hlo hhi
    have hmod : x % (2 ^ n : Nat) = x := Int.emod_eq_of_lt hlo (by omega)
    simp only [intVal, Bool.false_eq_true, if_false, ofSigned, hmod]
    rw [Nat.mod_eq_of_lt (by omega)]
    omega

/-! ### Formats -/

/-- The widths of Table NUM-1. -/
theorem fmtOf_width {fm : Fmt} (h : fmtOf c = some fm) : fm.width = 4 ∨ fm.width = 8 ∨ fm.width = 16 ∨ fm.width = 32 := by
  unfold fmtOf at h
  split at h <;> simp only [Option.some.injEq, reduceCtorEq] at h <;> subst h <;> decide

end Sys2Proof.Machine
end

section
/-! PROOF. Scalar registers (O31) and the scrambler (O44). -/
namespace Sys2Proof.Machine

/-- Settles O31: a write of register 0 leaves the tile, and a write of another is read back. -/
theorem scalarRegisters : Obligations.ScalarRegisters := by
  intro T rd x
  by_cases hrd : rd = 0
  · subst hrd
    refine ⟨fun r => ?_, rfl, rfl, rfl, rfl, rfl, rfl⟩
    by_cases hr : r = 0
    · rw [if_pos hr, hr]
      rfl
    · rw [if_neg hr, if_neg hr]
      rfl
  · have hset : setS rd x.toNat T = { T with s := tset 0 rd x T.s } := by simp [setS, hrd]
    rw [hset]
    refine ⟨fun r => ?_, rfl, rfl, rfl, rfl, rfl, rfl⟩
    by_cases hr : r = 0
    · rw [if_pos hr, hr]
      rfl
    · rw [if_neg hr]
      by_cases hsame : r = rd
      · subst hsame
        simp [sreg, getS, hr]
      · simp [sreg, getS, hr, hsame, tget_tset_other]

theorem scramble_cons {st : Nat} {x : Byte} {xs : List Byte} : scramble st (x :: xs) =
    ((scramble (lfsrByte 8 st 1).2 xs).1, (x ^^^ BitVec.ofNat 8 (lfsrByte 8 st 1).1) :: (scramble (lfsrByte 8 st 1).2 xs).2) := rfl

/-- Settles O44: the scrambler's state does not depend on the bytes, and a byte twice exclusive-ored is itself. -/
theorem scramblerUndoesItself : Obligations.ScramblerUndoesItself := by
  intro st bs
  induction bs generalizing st with
  | nil => exact ⟨rfl, rfl, rfl⟩
  | cons x xs ih =>
    obtain ⟨hbytes, hstate, hlen⟩ := ih (lfsrByte 8 st 1).2
    simp only [scramble_cons, hbytes, hstate, List.length_cons, hlen, BitVec.xor_assoc, BitVec.xor_self, BitVec.xor_zero, and_self]

end Sys2Proof.Machine
end

section
/-! PROOF. An instruction of one tile: what it computes, or the fault that it takes; VALU, VBCST, VEXT, VINS, VCMP and RCP (O35). -/
namespace Sys2Proof.Machine

variable {s : State} {k op w c i : Nat} {T T' : Tile} {f : Nat → Tile → Except Nat Tile}

theorem tileInstr_ok (h : Issues s k op w) (hf : f w (getTile s k) = .ok T') : tileInstr k op f s = setTile k (advance T') s := by
  obtain ⟨hexec, hword, hpc⟩ := h
  simp only [tileInstr, if_pos hexec, hword, hf, if_neg (Nat.not_le_of_lt hpc)]

theorem tileInstr_error (h : Issues s k op w) (hf : f w (getTile s k) = .error c) : tileInstr k op f s = tileFault k c s := by
  obtain ⟨hexec, hword, -⟩ := h
  simp only [tileInstr, if_pos hexec, hword, hf]

/-! ### VALU -/

theorem zipWith_lanes {α : Type} {g : Nat → Nat → α} {wd n x y : Nat} (h : i < n) :
    (List.zipWith g (lanesOf wd n x) (lanesOf wd n y))[i]? = some (g (laneOf wd x i) (laneOf wd y i)) := by
  simp [lanesOf, h]

theorem valuTile_int {n : Nat} {sg : Bool} (hfmt : fmtOf (bitsOf w 0 4) = some (.int n sg)) (hop : bitsOf w 4 4 < 14) : valuTile w T =
    .ok (orFlags (writeLanes n (maskOf T (bitsOf w 8 3)) (getV T (fRd w)) (List.zipWith (valuInt n sg (bitsOf w 4 4))
        (lanesOf n (laneCount n) (getV T (fRa w))) (lanesOf n (laneCount n) (getV T (fRb w))))).2
      (setV (fRd w) (writeLanes n (maskOf T (bitsOf w 8 3)) (getV T (fRd w)) (List.zipWith (valuInt n sg (bitsOf w 4 4))
        (lanesOf n (laneCount n) (getV T (fRa w))) (lanesOf n (laneCount n) (getV T (fRb w))))).1 T)) := by
  unfold valuTile
  rw [hfmt]
  exact if_neg (by omega)

theorem valuTile_fp {g : FpFmt} (hfmt : fmtOf (bitsOf w 0 4) = some (.fp g)) (hop : bitsOf w 4 4 < 7 ∨ bitsOf w 4 4 = 13) : valuTile w T =
    .ok (orFlags (writeLanes g.width (maskOf T (bitsOf w 8 3)) (getV T (fRd w)) (List.zipWith (valuFp g (tileFp T) (bitsOf w 4 4))
        (lanesOf g.width (laneCount g.width) (getV T (fRa w))) (lanesOf g.width (laneCount g.width) (getV T (fRb w))))).2
      (setV (fRd w) (writeLanes g.width (maskOf T (bitsOf w 8 3)) (getV T (fRd w)) (List.zipWith (valuFp g (tileFp T) (bitsOf w 4 4))
        (lanesOf g.width (laneCount g.width) (getV T (fRa w))) (lanesOf g.width (laneCount g.width) (getV T (fRb w))))).1 T)) := by
  unfold valuTile
  rw [hfmt]
  exact (if_neg (by omega)).trans (if_neg (by omega))

theorem valuTile_reserved (h : fmtOf (bitsOf w 0 4) = none ∨ 14 ≤ bitsOf w 4 4 ∨
    ∃ g, fmtOf (bitsOf w 0 4) = some (.fp g) ∧ 7 ≤ bitsOf w 4 4 ∧ bitsOf w 4 4 ≤ 12) : valuTile w T = .error 2 := by
  unfold valuTile
  rcases h with hnone | hop | ⟨g, hfmt, hop⟩
  · rw [hnone]
  · cases hfmt : fmtOf (bitsOf w 0 4) with
    | none => rfl
    | some fm => exact if_pos hop
  · rw [hfmt]
    exact (if_neg (by omega)).trans (if_pos hop)

/-- A lane of an integer VALU is within its width. -/
theorem valuInt_lt {n x y : Nat} {sg : Bool} (hx : x < 2 ^ n) (hy : y < 2 ^ n) : (valuInt n sg op x y).1 < 2 ^ n := by
  match op with
  | 0 => exact satInt_lt
  | 1 => exact satInt_lt
  | 2 => exact satInt_lt
  | 3 => simp only [valuInt]; split <;> assumption
  | 4 => simp only [valuInt]; split <;> assumption
  | 5 => exact satInt_lt
  | 6 => exact satInt_lt
  | 7 => exact Nat.and_lt_two_pow x hy
  | 8 => exact Nat.or_lt_two_pow hx hy
  | 9 => exact Nat.xor_lt_two_pow hx hy
  | 10 =>
    simp only [valuInt]
    split
    · exact Nat.two_pow_pos n
    · exact Nat.mod_lt _ (Nat.two_pow_pos n)
  | 11 => exact ofSigned_lt
  | 12 => exact Nat.lt_of_le_of_lt (Nat.shiftRight_le x y) hx
  | _ + 13 => exact hx

/-- What lane `i` of a vector holds after VALU. -/
theorem laneOf_zipWith {g : Nat → Nat → Nat × Nat} {wd mask old x y : Nat} (h : i < 512 / wd) :
    laneOf wd (writeLanes wd mask old (List.zipWith g (lanesOf wd (laneCount wd) x) (lanesOf wd (laneCount wd) y))).1 i =
      (if mask.testBit i then (g (laneOf wd x i) (laneOf wd y i)).1 else laneOf wd old i) % 2 ^ wd := by
  have hlen : i < (List.zipWith g (lanesOf wd (laneCount wd) x) (lanesOf wd (laneCount wd) y)).length := by simpa [lanesOf, laneCount] using h
  have hlane : (List.zipWith g (lanesOf wd (laneCount wd) x) (lanesOf wd (laneCount wd) y))[i] = g (laneOf wd x i) (laneOf wd y i) := by
    simp [lanesOf]
  rw [laneOf_writeLanes hlen, hlane]

theorem maskOf_none : maskOf T 0 = 2 ^ 128 - 1 := rfl

theorem testBit_noMask (h : i < 128) : (2 ^ 128 - 1).testBit i = true := by
  rw [Nat.testBit_two_pow_sub_one, decide_eq_true h]

/-- The flags of a write of saturating results. -/
theorem writeLanes_flags {wd mask old : Nat} {res : List (Nat × Nat)} (h : ∀ x ∈ res, x.2 = 0 ∨ x.2 = flSAT) :
    (writeLanes wd mask old res).2 = 0 ∨ (writeLanes wd mask old res).2 = flSAT := by
  unfold writeLanes
  refine foldl_flags_map fun j => ?_
  split
  next v fl hj =>
    split
    · exact h (v, fl) (List.mem_of_getElem? hj)
    · exact .inl rfl
  · exact .inl rfl

/-! ### VBCST, VEXT, VINS, VCMP and RCP -/

theorem vbcstTile_fmt {fm : Fmt} (hfmt : fmtOf (bitsOf w 0 4) = some fm) : vbcstTile w T =
    .ok (setV (fRd w) (writeLanes fm.width (maskOf T (bitsOf w 8 3)) (getV T (fRd w))
      (List.replicate (laneCount fm.width) (getS T (fRa w) % 2 ^ fm.width, 0))).1 T) := by
  unfold vbcstTile
  rw [hfmt]

theorem vinsTile_fmt {fm : Fmt} (hfmt : fmtOf (bitsOf w 0 4) = some fm) : vinsTile w T =
    .ok (setV (fRd w) (writeLanes fm.width (maskOf T (bitsOf w 8 3)) (getV T (fRd w))
      ((List.range (laneCount fm.width)).map (fun j =>
        (if j = getS T (fRb w) % laneCount fm.width then getS T (fRa w) else laneOf fm.width (getV T (fRd w)) j, 0)))).1 T) := by
  unfold vinsTile
  rw [hfmt]

/-- The scalar that VEXT makes of a lane: sign-extended from a signed integer format. -/
def vextWord (fm : Fmt) (x : Nat) : Nat :=
  match fm with
  | .int n true => ofSigned 32 (toSigned n x)
  | _ => x

theorem vextTile_fmt {fm : Fmt} (hfmt : fmtOf (bitsOf w 0 4) = some fm) : vextTile w T =
    .ok (setS (fRd w) (vextWord fm (laneOf fm.width (getV T (fRa w)) (getS T (fRb w) % laneCount fm.width))) T) := by
  unfold vextTile
  rw [hfmt]
  rfl

theorem vcmpTile_fmt {fm : Fmt} (hfmt : fmtOf (bitsOf w 0 4) = some fm) : vcmpTile w T =
    .ok (setP (fRd w) (natOfBits (List.zipWith (vcmpLane fm (tileFp T) (bitsOf w 4 4))
      (lanesOf fm.width (min 64 (laneCount fm.width)) (getV T (fRa w)))
      (lanesOf fm.width (min 64 (laneCount fm.width)) (getV T (fRb w))))) T) := by
  unfold vcmpTile
  rw [hfmt]

theorem rcpTile_fp {g : FpFmt} (hfmt : fmtOf (bitsOf w 0 4) = some (.fp g)) : rcpTile w T =
    .ok (orFlags (writeLanes g.width (maskOf T (bitsOf w 8 3)) (getV T (fRd w))
        ((lanesOf g.width (laneCount g.width) (getV T (fRa w))).map (fpRcp g (tileFp T)))).2
      (setV (fRd w) (writeLanes g.width (maskOf T (bitsOf w 8 3)) (getV T (fRd w))
        ((lanesOf g.width (laneCount g.width) (getV T (fRa w))).map (fpRcp g (tileFp T)))).1 T)) := by
  unfold rcpTile
  rw [hfmt]

theorem testBit_natOfBits {bs : List Bool} : (natOfBits bs).testBit i = bs[i]?.getD false := by
  induction bs generalizing i with
  | nil => simp [natOfBits]
  | cons b bs ih =>
    have hbit : b2n b < 2 := by cases b <;> decide
    cases i with
    | zero => cases b <;> simp [natOfBits, b2n, Nat.testBit_zero]
    | succ i =>
      rw [natOfBits, Nat.testBit_succ, Nat.add_mul_div_left _ _ (by decide), Nat.div_eq_of_lt hbit, Nat.zero_add, ih, List.getElem?_cons_succ]

/-- A lane fits the word that VEXT makes of it, and keeps its value as a signed or unsigned number. -/
theorem vextWord_lane {fm : Fmt} (hfmt : fmtOf c = some fm) {x : Nat} (hx : x < 2 ^ fm.width) :
    vextWord fm x < 2 ^ 32 ∧ vextWord fm x % 2 ^ fm.width = x ∧ (∀ n, fm = .int n true → toSigned 32 (vextWord fm x) = toSigned n x) ∧
      ((∀ n, fm ≠ .int n true) → vextWord fm x < 2 ^ fm.width) := by
  have hwidth : fm.width ≤ 32 := by rcases fmtOf_width hfmt with h | h | h | h <;> omega
  have hpos : 0 < fm.width := by rcases fmtOf_width hfmt with h | h | h | h <;> omega
  have hsmall : x < 2 ^ 32 := Nat.lt_of_lt_of_le hx (Nat.pow_le_pow_right (by decide) hwidth)
  match fm, hx with
  | .int n true, hx =>
    obtain ⟨hlo, hhi⟩ := toSigned_bounds (x := x) hpos
    change n ≤ 32 at hwidth
    change 0 < n at hpos
    have hhalf : 2 ^ (n - 1) ≤ 2 ^ 31 := Nat.pow_le_pow_right (by decide) (by omega)
    have hback : toSigned 32 (ofSigned 32 (toSigned n x)) = toSigned n x := by
      refine toSigned_ofSigned (by decide) ?_ ?_ <;> simp only [Fmt.width] at hlo hhi <;> omega
    refine ⟨ofSigned_lt, ?_, ?_, fun h => absurd rfl (h n)⟩
    · exact (ofSigned_mod hwidth).trans (ofSigned_toSigned.trans (Nat.mod_eq_of_lt hx))
    · rintro m ⟨⟩
      exact hback
  | .int n false, hx => exact ⟨hsmall, Nat.mod_eq_of_lt hx, nofun, fun _ => hx⟩
  | .fp g, hx => exact ⟨hsmall, Nat.mod_eq_of_lt hx, nofun, fun _ => hx⟩

theorem laneTiles_reserved (h : fmtOf (bitsOf w 0 4) = none) : vbcstTile w T = .error 2 ∧ vextTile w T = .error 2 ∧ vinsTile w T = .error 2 ∧
    vcmpTile w T = .error 2 ∧ rcpTile w T = .error 2 := by
  simp only [vbcstTile, vextTile, vinsTile, vcmpTile, rcpTile, h, and_self]

theorem rcpTile_int {n : Nat} {sg : Bool} (h : fmtOf (bitsOf w 0 4) = some (.int n sg)) : rcpTile w T = .error 2 := by
  simp only [rcpTile, h]

/-- Settles O35: each instruction by what its tile function computes, lane by lane. -/
theorem tileVectorLanes : Obligations.TileVectorLanes := by
  unfold Obligations.TileVectorLanes
  rintro s k w _ rfl
  refine ⟨fun n sg h hfmt hop => ?valuInt, fun n sg h hfmt hop hmask => ?valuAdd, fun g h hfmt hop => ?valuFp, fun h hres => ?valuReserved,
    fun x hx h hfmt => ?reserved, fun n sg h hfmt => ?rcpInt, fun fm h hfmt => ?vbcst, fun fm h hfmt => ?vext, fun fm h hfmt => ?vins,
    fun fm h hfmt => ?vcmp, fun g h hfmt => ?rcp⟩
  case valuInt =>
    refine ⟨_, _, _, congrArg Host.Outcome.next (tileInstr_ok h (valuTile_int hfmt hop)), rfl, fun i hi => ?_⟩
    rw [laneOf_zipWith hi, Nat.mod_eq_of_lt]
    split
    · exact valuInt_lt laneOf_lt laneOf_lt
    · exact laneOf_lt
  case valuAdd =>
    have hn : 0 < n ∧ 512 / n ≤ 128 := by rcases fmtOf_width hfmt with hw | hw | hw | hw <;> simp only [Fmt.width] at hw <;> subst hw <;> decide
    refine ⟨_, _, _, congrArg Host.Outcome.next (tileInstr_ok h (valuTile_int hfmt (by omega))), rfl, fun i hi => ?_, ?_⟩
    · rw [laneOf_zipWith hi, hmask, maskOf_none, if_pos (testBit_noMask (by omega)), hop]
      exact (congrArg (intVal n sg) (Nat.mod_eq_of_lt satInt_lt)).trans (intVal_satInt hn.1)
    · rw [hop]
      refine writeLanes_flags fun x hx => ?_
      obtain ⟨j, hj, rfl⟩ := List.getElem_of_mem hx
      rw [List.getElem_zipWith]
      exact satInt_snd
  case valuFp =>
    exact ⟨_, _, _, congrArg Host.Outcome.next (tileInstr_ok h (valuTile_fp hfmt hop)), rfl, fun i hi => laneOf_zipWith hi⟩
  case valuReserved => exact ⟨_, congrArg Host.Outcome.next (tileInstr_error h (valuTile_reserved hres)), getTile_tileFault_same⟩
  case reserved =>
    obtain ⟨hvbcst, hvext, hvins, hvcmp, hrcp⟩ := laneTiles_reserved (T := getTile s k) hfmt
    simp only [List.mem_cons, List.not_mem_nil, or_false] at hx
    rcases hx with rfl | rfl | rfl | rfl | rfl
    · exact ⟨_, congrArg Host.Outcome.next (tileInstr_error h hvbcst), getTile_tileFault_same⟩
    · exact ⟨_, congrArg Host.Outcome.next (tileInstr_error h hvext), getTile_tileFault_same⟩
    · exact ⟨_, congrArg Host.Outcome.next (tileInstr_error h hvins), getTile_tileFault_same⟩
    · exact ⟨_, congrArg Host.Outcome.next (tileInstr_error h hvcmp), getTile_tileFault_same⟩
    · exact ⟨_, congrArg Host.Outcome.next (tileInstr_error h hrcp), getTile_tileFault_same⟩
  case rcpInt => exact ⟨_, congrArg Host.Outcome.next (tileInstr_error h (rcpTile_int hfmt)), getTile_tileFault_same⟩
  case vbcst =>
    refine ⟨_, _, congrArg Host.Outcome.next (tileInstr_ok h (vbcstTile_fmt hfmt)), rfl, fun i hi => ?_⟩
    rw [laneOf_writeLanes (by simpa [laneCount] using hi), List.getElem_replicate, Nat.mod_eq_of_lt]
    split
    · exact Nat.mod_lt _ (Nat.two_pow_pos _)
    · exact laneOf_lt
  case vext =>
    obtain ⟨hword, hmod, hsigned, hunsigned⟩ := vextWord_lane hfmt (laneOf_lt (w := fm.width) (v := getV (getTile s k) (fRa w))
      (i := getS (getTile s k) (fRb w) % laneCount fm.width))
    refine ⟨_, _, congrArg Host.Outcome.next (tileInstr_ok h (vextTile_fmt hfmt)), rfl, hword, hmod, fun n hn => ?_, hunsigned⟩
    subst hn
    exact hsigned n rfl
  case vins =>
    refine ⟨_, _, congrArg Host.Outcome.next (tileInstr_ok h (vinsTile_fmt hfmt)), rfl, fun i hi => ?_⟩
    rw [laneOf_writeLanes (by simpa [laneCount] using hi), List.getElem_map, List.getElem_range]
    have hold : laneOf fm.width (getV (getTile s k) (fRd w)) i % 2 ^ fm.width = laneOf fm.width (getV (getTile s k) (fRd w)) i :=
      Nat.mod_eq_of_lt laneOf_lt
    change (if (maskOf (getTile s k) (bitsOf w 8 3)).testBit i = true then if i = getS (getTile s k) (fRb w) % (512 / fm.width) then _ else _
      else _) % _ = _
    by_cases hbit : (maskOf (getTile s k) (bitsOf w 8 3)).testBit i = true
    · simp only [hbit, if_true, and_true, apply_ite (· % 2 ^ fm.width), hold]
    · simp only [hbit, and_false, if_false, Bool.false_eq_true, hold]
  case vcmp =>
    refine ⟨_, _, congrArg Host.Outcome.next (tileInstr_ok h (vcmpTile_fmt hfmt)), rfl, fun i => ?_⟩
    rw [testBit_natOfBits]
    by_cases hi : i < 64 ∧ i < 512 / fm.width
    · rw [zipWith_lanes (by simpa [laneCount] using hi), decide_eq_true hi, Bool.true_and, Option.getD_some]
    · rw [decide_eq_false hi, Bool.false_and, List.getElem?_eq_none, Option.getD_none]
      simp only [lanesOf, laneCount, List.length_zipWith, List.length_map, List.length_range]
      omega
  case rcp =>
    refine ⟨_, _, _, congrArg Host.Outcome.next (tileInstr_ok h (rcpTile_fp hfmt)), rfl, fun i hi => ?_⟩
    have hlane : i < ((lanesOf g.width (laneCount g.width) (getV (getTile s k) (fRa w))).map (fpRcp g (tileFp (getTile s k)))).length := by
      simpa [lanesOf, laneCount] using hi
    rw [laneOf_writeLanes hlane]
    simp only [lanesOf, List.getElem_map, List.getElem_range]

end Sys2Proof.Machine
end

section
/-! PROOF. The tile store: where an access goes, what a store leaves and what a load takes (O33 and O34). -/
namespace Sys2Proof.Machine

variable {s : State} {k op w a n v i x align size : Nat} {T : Tile} {put : Nat → Nat → Tile → Tile} {get : Tile → Nat → Nat}

/-! ### Little-endian bytes -/

theorem length_leBytes : (leBytes n v).length = n := by
  induction n generalizing v with
  | zero => rfl
  | succ n ih => rw [leBytes, List.length_cons, ih]

theorem leNat_leBytes : leNat (leBytes n v) = v % 2 ^ (8 * n) := by
  induction n generalizing v with
  | zero => simp [leBytes, leNat, Nat.mod_one]
  | succ n ih =>
    have hsplit : v % 2 ^ (8 * (n + 1)) = v % 2 ^ 8 + 2 ^ 8 * (v / 2 ^ 8 % 2 ^ (8 * n)) := by
      rw [Nat.mul_succ, Nat.add_comm, Nat.pow_add, Nat.mod_mul]
    rw [leBytes, leNat, ih, BitVec.toNat_ofNat, hsplit]
    rfl

theorem map_getElem?_range {l : List Byte} (h : l.length = n) : (List.range n).map (fun i => (l[i]?).getD 0) = l := by
  subst h
  refine List.ext_getElem (by simp) fun i hi hi' => ?_
  simp [hi']

/-! ### Where an access goes -/

theorem tsAddr_eq_tsPlace : tsAddr T (fRa w) (fImm w) align = tsPlace T w align := by
  have himm : ofSigned 17 (toSigned 16 (fImm w)) = ((BitVec.ofNat 16 w).signExtend 17).toNat := by
    rw [fImm_eq_toNat, toSigned_toNat, ofSigned_eq_toNat]
    rfl
  rw [tsAddr, himm, tsPlace]
  exact (Nat.div_mul_self_eq_mod_sub_self).symm

theorem tsPlace_lt : tsPlace T w align < 131072 :=
  Nat.lt_of_le_of_lt (Nat.div_mul_le_self _ _) (Nat.mod_lt _ (by decide))

theorem tsPlace_aligned : tsPlace T w align % align = 0 := Nat.mul_mod_left _ _

/-! ### Stores -/

/-- Each of `n` different keys reads as what was stored under it. -/
theorem tget_foldl_tset {key : Nat → Nat} {val : Nat → Byte} {m : List (Nat × Byte)} (hkey : ∀ i < n, ∀ j < n, key i = key j → i = j) (h : i < n) :
    tget 0 (key i) ((List.range n).foldl (fun m i => tset 0 (key i) (val i) m) m) = val i := by
  induction n with
  | zero => omega
  | succ n ih =>
    rw [List.range_succ, List.foldl_append, List.foldl_cons, List.foldl_nil]
    by_cases hi : i = n
    · rw [hi, tget_tset_same]
    · rw [tget_tset_other fun heq => hi (hkey i h n (by omega) heq)]
      exact ih (fun i hi j hj => hkey i (by omega) j (by omega)) (by omega)

theorem tget_foldl_tset_other {key : Nat → Nat} {val : Nat → Byte} {m : List (Nat × Byte)} (h : ∀ i < n, a ≠ key i) :
    tget 0 a ((List.range n).foldl (fun m i => tset 0 (key i) (val i) m) m) = tget 0 a m := by
  induction n with
  | zero => rfl
  | succ n ih =>
    rw [List.range_succ, List.foldl_append, List.foldl_cons, List.foldl_nil, tget_tset_other (h n (by omega)), ih fun i hi => h i (by omega)]

/-- What is stored reads back. -/
theorem tsBytes_tsWrite (hn : n ≤ 131072) : tsBytes (tsWrite a n v T) a n = v % 2 ^ (8 * n) := by
  have hbytes : (List.range n).map (fun i => tget 0 ((a + i) % 131072) (tsWrite a n v T).ts) =
      (List.range n).map (fun i => ((leBytes n v)[i]?).getD 0) :=
    List.map_congr_left fun i hi =>
      tget_foldl_tset (key := fun i => (a + i) % 131072) (fun i hi j hj heq => by omega) (List.mem_range.mp hi)
  rw [tsBytes, hbytes, map_getElem?_range length_leBytes, leNat_leBytes]

/-- Every other byte of the store stays. -/
theorem tsWrite_other {b : Nat} (h : n ≤ (b + 131072 - a) % 131072) :
    tget 0 b (tsWrite a n v T).ts = tget 0 b T.ts :=
  tget_foldl_tset_other (key := fun i => (a + i) % 131072) fun i hi => by omega

/-- A store that issues: its bytes, and what it leaves. -/
theorem store_issues (h : Issues s k op w) (hsize : size ≤ 131072) (hget : get (getTile s k) (fRd w) < 2 ^ (8 * size)) :
    ∃ T', tileInstr k op (fun w t => .ok (storeTile size get align w t)) s = setTile k (advance T') s ∧ T'.pc = (getTile s k).pc ∧
      tsBytes T' (tsPlace (getTile s k) w align) size = get (getTile s k) (fRd w) ∧
      (∀ a, a < 131072 → size ≤ (a + 131072 - tsPlace (getTile s k) w align) % 131072 → tget 0 a T'.ts = tget 0 a (getTile s k).ts) ∧
      T'.s = (getTile s k).s ∧ T'.v = (getTile s k).v ∧ T'.a = (getTile s k).a := by
  refine ⟨_, tileInstr_issues h rfl, rfl, ?_, fun a _ hout => ?_, rfl, rfl, rfl⟩
  · rw [storeTile, tsAddr_eq_tsPlace, tsBytes_tsWrite hsize, Nat.mod_eq_of_lt hget]
  · rw [storeTile, tsAddr_eq_tsPlace, tsWrite_other hout]

/-- Settles O34: the three stores are one, of 4, 64 and 384 bytes. -/
theorem tileStores : Obligations.TileStores := by
  unfold Obligations.TileStores
  rintro s k w _ rfl
  have hS : getS (getTile s k) (fRd w) < 2 ^ (8 * 4) := by
    rw [getS_eq_toNat]
    exact BitVec.isLt _
  refine ⟨fun h => ?sts, fun h => ?vst, fun h => ?ast⟩
  case sts =>
    obtain ⟨T', heq, hpc, hbytes, hout, hs, hv, ha⟩ := store_issues (align := 4) (size := 4) (get := getS) h (by decide) hS
    refine ⟨_, congrArg Host.Outcome.next heq, ?_⟩
    rw [getTile_setTile_same]
    exact ⟨congrArg (· + 1) hpc, hbytes, hout, hs, hv, ha, fun j hj => getTile_setTile_other hj⟩
  case vst =>
    obtain ⟨T', heq, hpc, hbytes, hout, hs, hv, ha⟩ := store_issues (align := 64) (size := 64) (get := getV) h (by decide) (BitVec.isLt _)
    refine ⟨_, congrArg Host.Outcome.next heq, ?_⟩
    rw [getTile_setTile_same]
    exact ⟨congrArg (· + 1) hpc, hbytes, hout, hs, hv, ha, fun j hj => getTile_setTile_other hj⟩
  case ast =>
    obtain ⟨T', heq, hpc, hbytes, hout, hs, hv, ha⟩ := store_issues (align := 64) (size := 384) (get := getA) h (by decide) (BitVec.isLt _)
    refine ⟨_, congrArg Host.Outcome.next heq, ?_⟩
    rw [getTile_setTile_same]
    exact ⟨congrArg (· + 1) hpc, hbytes, hout, hs, hv, ha, fun j hj => getTile_setTile_other hj⟩

/-! ### Loads -/

theorem loadTile_good (h : tsBadRead T (tsPlace T w align) size = false) :
    loadTile size put align w T = .ok (put (fRd w) (tsBytes T (tsPlace T w align) size) T) := by
  rw [loadTile, tsAddr_eq_tsPlace]
  exact if_neg (by simp [h])

theorem loadTile_bad (h : tsBadRead T (tsPlace T w align) size = true) : loadTile size put align w T = .error 3 := by
  rw [loadTile, tsAddr_eq_tsPlace]
  exact if_pos h

theorem loadInstr_clean (h : canExec s k op = true) : loadInstr k op size put align [] s = tileInstr k op (loadTile size put align) s :=
  if_neg (by simp [h])

/-- A corrected error counts, and the load is the load without it. -/
theorem loadInstr_corrected (h : canExec s k op = true) (hx : 8 * x < size) :
    loadInstr k op size put align [(x, false)] s = loadInstr k op size put align [] (bump (960 + 15 * (k / 16) + 10) 1 s) := by
  have hexec : canExec (bump (960 + 15 * (k / 16) + 10) 1 s) k op = true := by
    rw [← h, canExec, canExec, getTile_congr bump_tiles, plotsOn, yokState_congr (bump_keeps.getReg_eq rfl)]
    rfl
  have hmine : [(x, false)].filter (fun y => decide (8 * y.1 < size)) = [(x, false)] := by simp [hx]
  rw [loadInstr_clean hexec]
  unfold loadInstr
  rw [if_neg (by simp [h]), hmine]
  rfl

/-- A 64-bit word of a tile's store is bad from now on. -/
def markWord (b k : Nat) (s : State) : State := updTile k (fun t => { t with tsBad := insertNew b t.tsBad }) s

theorem mem_insertNew {α : Type} [DecidableEq α] {y : α} {l : List α} : y ∈ insertNew y l := by
  unfold insertNew
  split
  · assumption
  · exact List.mem_append_right l (List.mem_singleton.mpr rfl)

/-- A word within a load's range is bad: the load meets it. -/
theorem tsBadRead_of_mem (h : 8 * i < n) (hmem : (a / 8 + i) % 16384 ∈ T.tsBad) (ha : a % 8 = 0) : tsBadRead T a n = true := by
  refine List.any_eq_true.mpr ⟨8 * i, List.mem_range.mpr h, decide_eq_true ?_⟩
  have hword : (a + 8 * i) % 131072 / 8 = (a / 8 + i) % 16384 := by omega
  rw [hword]
  exact hmem

/-- The bad word that a load meets in its first or only word when it is smaller than a word. -/
theorem tsBadRead_first (hn : 0 < n) (ha : a < 131072) (hmem : a / 8 ∈ T.tsBad) : tsBadRead T a n = true := by
  refine List.any_eq_true.mpr ⟨0, List.mem_range.mpr hn, decide_eq_true ?_⟩
  rw [Nat.add_zero, Nat.mod_eq_of_lt ha]
  exact hmem

/-- An uncorrectable word: it is bad from then on, the tile faults, and the error counts toward the plot's retirement. -/
theorem loadInstr_uncorrectable (h : Issues s k op w) (hx : 8 * x < size) {b : Nat} (hb : (tsPlace (getTile s k) w align / 8 + x) % 16384 = b)
    (hbad : tsBadRead (getTile (markWord b k s) k) (tsPlace (getTile s k) w align) size = true) :
    loadInstr k op size put align [(x, true)] s = plotError (k / 16) (tileFault k 3 (markWord b k s)) := by
  obtain ⟨hexec, hword, hpc⟩ := h
  have hmine : [(x, true)].filter (fun y => decide (8 * y.1 < size)) = [(x, true)] := by simp [hx]
  have htile : getTile (markWord b k s) k = { getTile s k with tsBad := insertNew b (getTile s k).tsBad } := getTile_setTile_same
  have hissue : Issues (markWord b k s) k op w := by
    refine ⟨?_, ?_, ?_⟩
    · rw [← hexec, canExec, canExec, htile]
      rfl
    · rw [htile]
      exact hword
    · rw [htile]
      exact hpc
  have hplace : tsPlace (getTile (markWord b k s) k) w align = tsPlace (getTile s k) w align := by
    rw [htile]
    rfl
  have hload : tileInstr k op (loadTile size put align) (markWord b k s) = tileFault k 3 (markWord b k s) :=
    tileInstr_error hissue (loadTile_bad (by rw [hplace]; exact hbad))
  rw [← hload, ← hb, ← tsAddr_eq_tsPlace, ← hword]
  unfold loadInstr
  rw [if_neg (by simp [hexec]), hmine]
  rfl

theorem getTile_fault_markWord {b : Nat} : getTile (tileFault k 3 (markWord b k s)) k =
    { getTile s k with tsBad := insertNew b (getTile s k).tsBad, run := .fault, cause := 3 } := by
  rw [getTile_tileFault_same]
  exact congrArg (fun t : Tile => { t with run := .fault, cause := 3 }) getTile_setTile_same

/-- Settles O33: the three loads are one, of 4, 64 and 384 bytes, with a clean, a corrected or a bad word. -/
theorem tileLoads : Obligations.TileLoads := by
  unfold Obligations.TileLoads
  rintro s k w _ rfl
  have halign : tsPlace (getTile s k) w 64 % 8 = 0 := by
    have h64 := tsPlace_aligned (T := getTile s k) (w := w) (align := 64)
    omega
  have hwide {size : Nat} (i : Nat) (hi : 8 * i < size) : tsBadRead (getTile (markWord ((tsPlace (getTile s k) w 64 / 8 + i) % 16384) k s) k)
      (tsPlace (getTile s k) w 64) size = true := by
    refine tsBadRead_of_mem hi ?_ halign
    rw [markWord, updTile, getTile_setTile_same]
    exact mem_insertNew
  refine ⟨fun h hgood => ⟨?_, ?_⟩, fun h hgood => ⟨?_, fun i hi => ?_⟩, fun h hgood => ⟨?_, fun i => ?_⟩, fun h hbad => ?_, fun h hbad => ?_, fun h hbad => ?_,
    fun h => ?lds, fun i h hi => ?vld, fun i h => ?ald⟩
  · exact congrArg Host.Outcome.next ((loadInstr_clean h.1).trans (tileInstr_ok h (loadTile_good hgood)))
  · exact congrArg Host.Outcome.next (loadInstr_corrected h.1 (by decide))
  · exact congrArg Host.Outcome.next ((loadInstr_clean h.1).trans (tileInstr_ok h (loadTile_good hgood)))
  · exact congrArg Host.Outcome.next (loadInstr_corrected (x := i.val) h.1 (by omega))
  · exact congrArg Host.Outcome.next ((loadInstr_clean h.1).trans (tileInstr_ok h (loadTile_good hgood)))
  · exact congrArg Host.Outcome.next (loadInstr_corrected (x := i.val) h.1 (by omega))
  · exact ⟨_, congrArg Host.Outcome.next ((loadInstr_clean h.1).trans (tileInstr_error h (loadTile_bad hbad))), getTile_tileFault_same⟩
  · exact ⟨_, congrArg Host.Outcome.next ((loadInstr_clean h.1).trans (tileInstr_error h (loadTile_bad hbad))), getTile_tileFault_same⟩
  · exact ⟨_, congrArg Host.Outcome.next ((loadInstr_clean h.1).trans (tileInstr_error h (loadTile_bad hbad))), getTile_tileFault_same⟩
  case lds =>
    have hplace := tsPlace_lt (T := getTile s k) (w := w) (align := 4)
    have hbad : tsBadRead (getTile (markWord (tsPlace (getTile s k) w 4 / 8) k s) k) (tsPlace (getTile s k) w 4) 4 = true := by
      refine tsBadRead_first (by decide) hplace ?_
      rw [markWord, updTile, getTile_setTile_same]
      exact mem_insertNew
    refine ⟨_, congrArg Host.Outcome.next (loadInstr_uncorrectable (x := 0) h (by decide) (by omega) hbad), ?_⟩
    rw [getTile_fault_markWord]
    exact ⟨rfl, rfl, rfl, mem_insertNew⟩
  case vld =>
    refine ⟨_, congrArg Host.Outcome.next (loadInstr_uncorrectable (x := i.val) h (by omega) rfl (hwide i (by omega))), ?_⟩
    rw [getTile_fault_markWord]
    exact ⟨rfl, rfl, mem_insertNew⟩
  case ald =>
    refine ⟨_, congrArg Host.Outcome.next (loadInstr_uncorrectable (x := i.val) h (by omega) rfl (hwide i (by omega))), ?_⟩
    rw [getTile_fault_markWord]
    exact ⟨rfl, rfl, mem_insertNew⟩

end Sys2Proof.Machine
end

section
/-! PROOF. VMAC, VMACB, AOP, GRS, REQ and CVT (O36): the lanes of an accumulator as signed numbers, and what each instruction makes of them. -/
namespace Sys2Proof.Machine

variable {s u : State} {k op w c i j : Nat} {T T' : Tile} {bcast : Bool}

/-! ### Lanes of an accumulator -/

theorem toSigned32_satInt {v : Int} : toSigned 32 (satInt 32 true v).1 = max (-(2 ^ 31)) (min (2 ^ 31 - 1) v) :=
  intVal_satInt (n := 32) (sg := true) (by decide)

theorem toSigned48_sat48 {v : Int} : toSigned 48 (sat48 v).1 = max (-(2 ^ 47)) (min (2 ^ 47 - 1) v) :=
  intVal_satInt (n := 48) (sg := true) (by decide)

theorem accInt_ofLanes {xs : List Nat} : accInt (ofLanes 48 xs) j = toSigned 48 (xs[j]?.getD 0) := by
  rw [accInt, accLane, laneOf_ofLanes, toSigned_mod]

theorem accInt_ofLanes_range {n : Nat} {g : Nat → Nat × Nat} (h : j < n) :
    accInt (ofLanes 48 (((List.range n).map g).map Prod.fst)) j = toSigned 48 (g j).1 := by
  simp [accInt_ofLanes, h]

theorem toSigned_accLane {acc : Nat} : toSigned 48 (accLane acc j) = accInt acc j := rfl

/-! ### VMAC and VMACB -/

theorem macIntLane_eq {zp xsg : Bool} {ww xw wv xv lane acc : Nat} :
    toSigned 48 (macIntLane T bcast zp ww xw xsg wv xv lane acc j).1 =
      max (-(2 ^ 31)) (min (2 ^ 31 - 1) (accInt acc j + macSum T bcast zp ww xw xsg wv xv lane j)) := by
  have hsum : macSum T bcast zp ww xw xsg wv xv lane j = (List.range (if ww = 4 then 2 else 1)).foldl (fun a m =>
      a + intVal ww true (laneOf ww wv ((if ww = 4 then 2 else 1) * j + m)) *
        macX T zp xw xsg (laneOf xw xv ((if bcast then lane + m else (if ww = 4 then 2 else 1) * j + m) % laneCount xw))) 0 := by
    by_cases hww : ww = 4
    · subst hww
      simp [macSum, macX, intVal, List.range_succ]
    · simp [macSum, macX, intVal, hww, List.range_succ]
  have hlane : (macIntLane T bcast zp ww xw xsg wv xv lane acc j).1 =
      ofSigned 48 (toSigned 32 (satInt 32 true (accInt acc j + macSum T bcast zp ww xw xsg wv xv lane j)).1) := by
    rw [hsum]
    rfl
  rw [hlane, toSigned32_satInt, toSigned_ofSigned (by decide)]
  · exact Int.le_trans (by decide) (Int.le_max_left _ _)
  · refine Int.lt_of_le_of_lt (Int.max_le.mpr ⟨by decide, Int.min_le_left _ _⟩) (by decide)

theorem macTile_int {ww xw : Nat} {sg xsg : Bool} (hok : macOk bcast (mWfmt w) (mXfmt w) = true) (hw : fmtOf (mWfmt w) = some (.int ww sg))
    (hx : fmtOf (mXfmt w) = some (.int xw xsg)) : ∃ fl A, macTile bcast w T = .ok (orFlags fl (setA (mAd w) A T)) ∧
      ∀ j, j < 64 → accInt A j = max (-(2 ^ 31)) (min (2 ^ 31 - 1)
        (accInt (getA T (mAd w)) j + macSum T bcast (mZp w) ww xw xsg (getV T (mWv w)) (getV T (mXv w)) (mLane w) j)) := by
  unfold macTile
  rw [hok, hw, hx]
  exact ⟨_, _, rfl, fun j hj => (accInt_ofLanes_range hj).trans macIntLane_eq⟩

theorem macTile_fp {fw fx : FpFmt} (hok : macOk bcast (mWfmt w) (mXfmt w) = true) (hw : fmtOf (mWfmt w) = some (.fp fw))
    (hx : fmtOf (mXfmt w) = some (.fp fx)) : ∃ fl A, macTile bcast w T = .ok (orFlags fl (setA (mAd w) A T)) ∧
      ∀ j, j < 64 → accLane A j = if j < 512 / fw.width then
        (macFpLane T bcast fw fx (getV T (mWv w)) (getV T (mXv w)) (mLane w) (getA T (mAd w)) j).1 % 2 ^ 48 else accLane (getA T (mAd w)) j := by
  unfold macTile
  rw [hok, hw, hx]
  refine ⟨_, _, rfl, fun j hj => ?_⟩
  rw [accLane, laneOf_ofLanes]
  split
  next hlow =>
    rw [List.getElem?_append_left (by simpa [laneCount] using hlow)]
    simp [laneCount, hlow]
  next hhigh =>
    rw [List.getElem?_append_right (by simpa [laneCount] using hhigh)]
    have hin : j - 512 / fw.width < 64 - 512 / fw.width := by omega
    have hsum : 512 / fw.width + (j - 512 / fw.width) = j := by omega
    have hlt : accLane (getA T (mAd w)) j < 2 ^ 48 := laneOf_lt
    simpa [laneCount, hin, hsum] using hlt

theorem macTile_reserved (hok : macOk bcast (mWfmt w) (mXfmt w) = false) : macTile bcast w T = .error 2 := by
  unfold macTile
  exact if_pos (by simp [hok])

theorem canExec_congr (htiles : u.tiles = s.tiles) (hyok : getReg u 0x2880 = getReg s 0x2880) : canExec u k op = canExec s k op := by
  rw [canExec, canExec, getTile_congr htiles, plotsOn, plotsOn, yokState_congr hyok]

theorem Issues.congr (h : Issues s k op w) (htiles : u.tiles = s.tiles) (hyok : getReg u 0x2880 = getReg s 0x2880) : Issues u k op w := by
  rw [Issues, canExec_congr htiles hyok, getTile_congr htiles]
  exact h

/-- A MAC instruction counts its MACs and then is an instruction of its tile alone. -/
theorem macInstr_ok (h : Issues s k op w) (hf : macTile bcast w (getTile s k) = .ok T') :
    getTile (macInstr k op bcast s) k = advance T' ∧ ∀ j, j ≠ k → getTile (macInstr k op bcast s) j = getTile s j := by
  have hcount : ∃ u, Keeps [.cnt, .hif, .alert] s u ∧ macInstr k op bcast s = tileInstr k op (macTile bcast) u := by
    refine ⟨_, ?_, rfl⟩
    exact keeps_ite pmuCount_keeps (.refl s)
  obtain ⟨u, hu, heq⟩ := hcount
  have htiles : u.tiles = s.tiles := hu.at .tiles rfl
  rw [heq, tileInstr_ok (h.congr htiles (hu.getReg_eq rfl)) (by rw [getTile_congr htiles]; exact hf)]
  exact ⟨getTile_setTile_same, fun j hj => (getTile_setTile_other hj).trans (getTile_congr htiles)⟩

theorem macInstr_reserved (h : Issues s k op w) (hok : macOk bcast (mWfmt w) (mXfmt w) = false) : macInstr k op bcast s = tileFault k 2 s := by
  have hstep : macInstr k op bcast s = tileInstr k op (macTile bcast) s :=
    congrArg (tileInstr k op (macTile bcast)) (if_neg (by simp [h.2.1, hok]))
  rw [hstep, tileInstr_error h (macTile_reserved hok)]

/-! ### AOP -/

theorem aopInstr_issues {fn : Nat} {f : Nat → Tile → Tile} (h : Issues s k 0x23 w) (hfn : bitsOf w 0 3 = fn) :
    aopInstr k fn f s = setTile k (advance (f w (getTile s k))) s := by
  have hif : aopInstr k fn f s = tileInstr k 0x23 (fun w t => .ok (f w t)) s := if_pos (by rw [h.2.1, hfn])
  rw [hif, tileInstr_issues h rfl]

theorem aopInstr_reserved {fn : Nat} {f : Nat → Tile → Tile} (h : Issues s k 0x23 w) (hfn : 5 ≤ bitsOf w 0 3) (hne : fn < 5) :
    aopInstr k fn f s = tileFault k 2 s := by
  have hif : aopInstr k fn f s = tileInstr k 0x23 (fun _ _ => .error 2) s := by
    unfold aopInstr
    rw [h.2.1]
    exact (if_neg (by omega)).trans (if_pos hfn)
  rw [hif, tileInstr_error h rfl]

theorem aopPart_map {α : Type} {g : Nat → α} (hi : i < 16) : ((aopPart w).map g)[i]? = some (g (16 * bitsOf w 4 2 + i)) := by
  simp [aopPart, hi]

theorem aopExtTile_lanes : ∃ fl V, aopExtTile w T = orFlags fl (setV (fRd w) V T) ∧ (fl = 0 ∨ fl = flSAT) ∧
    ∀ i, i < 16 → toSigned 32 (laneOf 32 V i) = max (-(2 ^ 31)) (min (2 ^ 31 - 1) (accInt (getA T (fRa w)) (16 * bitsOf w 4 2 + i))) := by
  refine ⟨_, _, rfl, foldl_flags_map fun _ => satInt_snd, fun i hi => ?_⟩
  rw [laneOf_ofLanes, toSigned_mod, List.getElem?_map, aopPart_map hi]
  exact toSigned32_satInt

theorem aopAddvTile_lanes : ∃ fl A, aopAddvTile w T = orFlags fl (setA (fRd w) A T) ∧ (fl = 0 ∨ fl = flSAT) ∧
    ∀ j, j < 64 → accInt A j = if j / 16 = bitsOf w 4 2 then
      max (-(2 ^ 47)) (min (2 ^ 47 - 1) (accInt (getA T (fRd w)) j + toSigned 32 (laneOf 32 (getV T (fRb w)) (j % 16))))
      else accInt (getA T (fRd w)) j := by
  refine ⟨_, _, rfl, foldl_flags_map fun j => ?_, fun j hj => ?_⟩
  · split
    · exact satInt_snd
    · exact .inl rfl
  · rw [accInt_ofLanes_range hj]
    split
    · exact toSigned48_sat48
    · rfl

/-! ### GRS and REQ -/

theorem grsTile_lanes : ∃ fl A, grsTile w T = orFlags fl (setA (fRa w) 0 (setA (fRd w) A T)) ∧ (fl = 0 ∨ fl = flSAT) ∧
    ∀ j, j < 64 → accInt A j = max (-(2 ^ 47)) (min (2 ^ 47 - 1) (accInt (getA T (fRd w)) j +
      if 0 ≤ toSigned 8 (getS T (fRb w)) then accInt (getA T (fRa w)) j * (2 ^ (toSigned 8 (getS T (fRb w))).toNat : Nat)
      else roundHalfEven (accInt (getA T (fRa w)) j) (-toSigned 8 (getS T (fRb w))).toNat)) := by
  refine ⟨_, _, rfl, foldl_flags_map fun _ => satInt_snd, fun j hj => ?_⟩
  rw [accInt_ofLanes_range hj]
  exact toSigned48_sat48

theorem reqTile_int {n : Nat} {sg : Bool} (hfmt : fmtOf (bitsOf w 0 4) = some (.int n sg)) (hn : n ≤ 8) :
    ∃ fl V, reqTile w T = .ok (orFlags fl (setV (fRd w) V T)) ∧ (fl = 0 ∨ fl = flSAT) ∧
      ∀ j, j < 64 → intVal n sg (laneOf n V j) = max (intLo n sg) (min (intHi n sg)
        (roundHalfEven (accInt (getA T (fRa w)) j * toSigned 16 (getS T (fRb w))) (min 47 (bitsOf (getS T (fRb w)) 16 6)) +
          intVal 8 sg (bitsOf (getS T (fRb w)) 24 8))) := by
  have hpos : 0 < n := by rcases fmtOf_width hfmt with h | h | h | h <;> simp only [Fmt.width] at h <;> omega
  unfold reqTile
  rw [hfmt]
  refine ⟨_, _, if_neg (by omega), foldl_flags_map fun _ => satInt_snd, fun j hj => ?_⟩
  rw [List.map_map, laneOf_ofLanes_range hj, Nat.mod_eq_of_lt (by exact satInt_lt)]
  exact intVal_satInt hpos

theorem reqTile_reserved (h : 4 ≤ bitsOf w 0 4) : reqTile w T = .error 2 := by
  unfold reqTile
  split
  next wd sg hfmt =>
    refine if_pos ?_
    generalize bitsOf w 0 4 = c at h hfmt
    match c, h with
    | 4, _ => cases hfmt; decide
    | 5, _ => cases hfmt; decide
    | 6, _ | 7, _ | 8, _ | 9, _ | 10, _ | _ + 11, _ => cases hfmt
  · rfl

/-! ### CVT -/

theorem cvtTile_reserved (h : fmtOf (bitsOf w 0 4) = none ∨ fmtOf (bitsOf w 4 4) = none) : cvtTile w T = .error 2 := by
  unfold cvtTile
  rcases h with h | h
  · rw [h]
  · rw [h]
    cases fmtOf (bitsOf w 0 4) <;> rfl

/-- The lanes of CVT: `n` lanes from lane `so` of the source go to the lanes from `dofs` of the destination. -/
theorem cvtTile_lanes {src dst : Fmt} {n so dofs : Nat} (hsrc : fmtOf (bitsOf w 0 4) = some src) (hdst : fmtOf (bitsOf w 4 4) = some dst)
    (hn : min (laneCount src.width) (laneCount dst.width) = n)
    (hso : (if laneCount dst.width < laneCount src.width then
      bitsOf w 8 3 % (max (laneCount src.width) (laneCount dst.width) / n) * n else 0) = so)
    (hdofs : (if laneCount src.width < laneCount dst.width then
      bitsOf w 8 3 % (max (laneCount src.width) (laneCount dst.width) / n) * n else 0) = dofs) :
    ∃ fl V, cvtTile w T = .ok (orFlags fl (setV (fRd w) V T)) ∧ ∀ i, i < laneCount dst.width → laneOf dst.width V i =
      if dofs ≤ i ∧ i < dofs + n then (convert src dst (tileFp T) 0 (laneOf src.width (getV T (fRa w)) (so + (i - dofs)))).1 % 2 ^ dst.width
      else laneOf dst.width (getV T (fRd w)) i := by
  subst hn hso hdofs
  unfold cvtTile
  rw [hsrc, hdst]
  refine ⟨_, _, rfl, fun i hi => ?_⟩
  rw [laneOf_ofLanes_range hi]
  generalize (if laneCount src.width < laneCount dst.width then _ else 0) = dofs
  generalize (if laneCount dst.width < laneCount src.width then _ else 0) = so
  generalize min (laneCount src.width) (laneCount dst.width) = n
  by_cases hin : dofs ≤ i ∧ i < dofs + n
  · have hlt : i - dofs < n := by omega
    simp [hin, hlt]
  · rw [if_neg hin, if_neg hin]
    exact Nat.mod_eq_of_lt laneOf_lt

/-- Of two widths the wider has the fewer lanes, in the ratio of the widths. -/
theorem laneCount_wider {a b : Nat} (ha : a = 4 ∨ a = 8 ∨ a = 16 ∨ a = 32) (hb : b = 4 ∨ b = 8 ∨ b = 16 ∨ b = 32) (h : a < b) :
    laneCount b < laneCount a ∧ 0 < laneCount b ∧ laneCount a / laneCount b = b / a := by
  rcases ha with rfl | rfl | rfl | rfl <;> rcases hb with rfl | rfl | rfl | rfl <;> simp [laneCount] at h ⊢

/-- Settles O36: each instruction from what its tile function makes of each lane. -/
theorem tileAccumulates : Obligations.TileAccumulates := by
  unfold Obligations.TileAccumulates
  rintro s k w _ rfl
  refine ⟨fun ww sg xw xsg h hok hw hx => ?vmac, fun ww sg xw xsg h hok hw hx => ?vmacb, fun fw fx h hok hw hx => ?vmacbFp,
    fun fw fx h hok hw hx => ?vmacFp, fun h hok => ?vmacReserved, fun h hok => ?vmacbReserved, fun h hc => ?zero, fun h hc => ?copy,
    fun h hc => ?ext, fun h hc => ?addv, fun h hc => ?extf, fun i hi h hc => ?aopReserved, fun h => ?grs, fun n sg h hfmt hn => ?req,
    fun h hc => ?reqReserved, fun h hnone => ?cvtReserved, fun src dst h hsrc hdst heq => ?cvtSame, fun src dst part h hsrc hdst hlt hpart => ?cvtWider,
    fun src dst part h hsrc hdst hlt hpart => ?cvtNarrower⟩
  case vmac =>
    obtain ⟨fl, A, htile, hlanes⟩ := macTile_int hok hw hx
    obtain ⟨hmine, hothers⟩ := macInstr_ok h htile
    exact ⟨_, fl, A, rfl, hmine, hothers, hlanes⟩
  case vmacb =>
    obtain ⟨fl, A, htile, hlanes⟩ := macTile_int hok hw hx
    obtain ⟨hmine, hothers⟩ := macInstr_ok h htile
    exact ⟨_, fl, A, rfl, hmine, hothers, hlanes⟩
  case vmacbFp =>
    obtain ⟨fl, A, htile, hlanes⟩ := macTile_fp hok hw hx
    exact ⟨_, fl, A, rfl, (macInstr_ok h htile).1, hlanes⟩
  case vmacFp =>
    obtain ⟨fl, A, htile, hlanes⟩ := macTile_fp hok hw hx
    have hwidth : (Fmt.fp fw).width = (Fmt.fp fx).width := by
      simpa only [hw, hx, Bool.false_or, decide_eq_true_eq] using (Bool.and_eq_true_iff.mp hok).2
    refine ⟨_, fl, A, rfl, (macInstr_ok h htile).1, fun j hj => (hlanes j hj).trans ?_⟩
    refine ite_congr rfl (fun hlane => ?_) fun _ => rfl
    have hin : j % laneCount fx.width = j := Nat.mod_eq_of_lt (hlane.trans_eq (congrArg (512 / ·) hwidth))
    rw [macFpLane, if_neg (by decide), hin]
    rfl
  case vmacReserved => exact ⟨_, congrArg Host.Outcome.next (macInstr_reserved h hok), getTile_tileFault_same⟩
  case vmacbReserved => exact ⟨_, congrArg Host.Outcome.next (macInstr_reserved h hok), getTile_tileFault_same⟩
  case zero => exact congrArg Host.Outcome.next (aopInstr_issues h hc)
  case copy => exact congrArg Host.Outcome.next (aopInstr_issues h hc)
  case ext =>
    obtain ⟨fl, V, htile, hfl, hlanes⟩ := aopExtTile_lanes (w := w) (T := getTile s k)
    exact ⟨_, fl, V, congrArg Host.Outcome.next (aopInstr_issues h hc), by rw [htile], hfl, hlanes⟩
  case addv =>
    obtain ⟨fl, A, htile, hfl, hlanes⟩ := aopAddvTile_lanes (w := w) (T := getTile s k)
    exact ⟨_, fl, A, congrArg Host.Outcome.next (aopInstr_issues h hc), by rw [htile], hfl, hlanes⟩
  case extf =>
    refine ⟨_, _, congrArg Host.Outcome.next (aopInstr_issues h hc), rfl, fun i hi => ?_⟩
    rw [laneOf_ofLanes, aopPart_map hi]
    rfl
  case aopReserved =>
    simp only [List.mem_cons, List.not_mem_nil, or_false] at hi
    rcases hi with rfl | rfl | rfl | rfl | rfl
    all_goals exact ⟨_, congrArg Host.Outcome.next (aopInstr_reserved h hc (by decide)), getTile_tileFault_same⟩
  case grs =>
    obtain ⟨fl, A, htile, hfl, hlanes⟩ := grsTile_lanes (w := w) (T := getTile s k)
    exact ⟨_, fl, A, congrArg Host.Outcome.next (tileInstr_issues h htile), rfl, hfl, hlanes⟩
  case req =>
    obtain ⟨fl, V, htile, hfl, hlanes⟩ := reqTile_int (T := getTile s k) hfmt hn
    exact ⟨_, fl, V, congrArg Host.Outcome.next (tileInstr_ok h htile), rfl, hfl, hlanes⟩
  case reqReserved => exact ⟨_, congrArg Host.Outcome.next (tileInstr_error h (reqTile_reserved hc)), getTile_tileFault_same⟩
  case cvtReserved => exact ⟨_, congrArg Host.Outcome.next (tileInstr_error h (cvtTile_reserved hnone)), getTile_tileFault_same⟩
  case cvtSame =>
    obtain ⟨fl, V, htile, hlanes⟩ := cvtTile_lanes (T := getTile s k) (n := 512 / dst.width) (so := 0) (dofs := 0) hsrc hdst
      (by simp [laneCount, heq]) (if_neg (by simp [laneCount, heq])) (if_neg (by simp [laneCount, heq]))
    refine ⟨_, fl, V, congrArg Host.Outcome.next (tileInstr_ok h htile), rfl, fun i hi => (hlanes i hi).trans ?_⟩
    rw [if_pos ⟨Nat.zero_le i, by omega⟩, Nat.zero_add, Nat.sub_zero]
  case cvtWider =>
    obtain ⟨hns, hnd, hratio⟩ := laneCount_wider (fmtOf_width hsrc) (fmtOf_width hdst) hlt
    obtain ⟨fl, V, htile, hlanes⟩ := cvtTile_lanes (T := getTile s k) (n := 512 / dst.width) (so := 512 / dst.width * part) (dofs := 0) hsrc hdst
      (Nat.min_eq_right (Nat.le_of_lt hns)) (by rw [if_pos hns, hpart, ← hratio, Nat.max_eq_left (Nat.le_of_lt hns), Nat.mul_comm]; rfl)
      (if_neg (Nat.not_lt_of_lt hns))
    refine ⟨_, fl, V, congrArg Host.Outcome.next (tileInstr_ok h htile), rfl, fun i hi => (hlanes i hi).trans ?_⟩
    rw [if_pos ⟨Nat.zero_le i, by omega⟩, Nat.sub_zero]
  case cvtNarrower =>
    obtain ⟨hns, hnd, hratio⟩ := laneCount_wider (fmtOf_width hdst) (fmtOf_width hsrc) hlt
    obtain ⟨fl, V, htile, hlanes⟩ := cvtTile_lanes (T := getTile s k) (n := 512 / src.width) (so := 0) (dofs := 512 / src.width * part) hsrc hdst
      (Nat.min_eq_left (Nat.le_of_lt hns)) (if_neg (Nat.not_lt_of_lt hns))
      (by rw [if_pos hns, hpart, ← hratio, Nat.max_eq_right (Nat.le_of_lt hns), Nat.mul_comm]; rfl)
    refine ⟨_, fl, V, congrArg Host.Outcome.next (tileInstr_ok h htile), rfl, fun i hi => (hlanes i hi).trans ?_⟩
    rw [Nat.zero_add, Nat.mul_succ]

end Sys2Proof.Machine
end

section
/-! PROOF. How often a counter has counted: what operations leave of it. -/
namespace Sys2Proof.Machine

variable {s t u : State} {i j n : Nat}

/-- A counter's value. -/
def count (i : Nat) (s : State) : BitVec 64 := tget 0 i s.cnt

theorem Keeps.same_count {ps : List Piece} (k : Keeps ps s t) (h : subParts [.cnt] ps = false) : Same (count i) s t := by
  have hcnt : t.cnt = s.cnt := k.at .cnt h
  exact congrArg (tget 0 i) hcnt

theorem raise_count {code src a0 a1 a2 : Nat} (h : i ≠ 64) : Same (count i) s (raise code src a0 a1 a2 s) := raise_cnt h

theorem bump_count (hj : i ≠ j) (h : i ≠ 64) : Same (count i) s (bump j n s) := bump_other hj h s

theorem Counted.after (h : Counted i n s u) (k : Same (count i) u t) : Counted i n s t := Eq.trans k h

theorem Counted.before (k : Same (count i) s u) (h : Counted i n u t) : Counted i n s t := by
  have hval : tget 0 i u.cnt = tget 0 i s.cnt := k
  unfold Counted at h ⊢
  rw [h]
  simp only [countQuiet, tget_tset_same, hval]

/-- What a die counts of its events moves no other counter. -/
theorem pmuCount_count {p code n : Nat} (h : i ≠ 64) (hpmu : ∀ k, k < 8 → i ≠ 2368 + 8 * (p / 16) + k) : Same (count i) s (pmuCount p code n s) := by
  have hfold : ∀ (l : List Nat) (t : State), (∀ k ∈ l, k < 8) → Same (count i) s t → Same (count i) s (l.foldl (fun s k =>
      if bitsOf (getReg s (0x8120 + 0x40 * (p / 16) + 4 * k)) 0 5 = code ∧
        (bitsOf (getReg s (0x8120 + 0x40 * (p / 16) + 4 * k)) 16 16).testBit (p % 16) then bump (2368 + 8 * (p / 16) + k) n s else s) t) := by
    intro l
    induction l with
    | nil => exact fun t _ ht => ht
    | cons k l ih =>
      intro t hl ht
      refine ih _ (fun j hj => hl j (List.mem_cons_of_mem k hj)) (same_ite (ht.trans (bump_count (hpmu k (hl k List.mem_cons_self)) h)) ht)
  exact hfold (List.range 8) s (fun k hk => List.mem_range.mp hk) (.refl s)

end Sys2Proof.Machine
end

section
/-! PROOF. SEND, RECV, TAG and EVENT (O37). -/
namespace Sys2Proof.Machine

variable {s : State} {k w : Nat} {T : Tile} {e : MsEntry}

/-! ### SEND -/

/-- The token that a SEND makes of its register. -/
def sendToken (w : Nat) (T : Tile) : Token :=
  { net := bitsOf w 19 2, tag := T.ot, headland := false,
    data := BitVec.ofNat 512 (if bitsOf w 19 2 = 1 then getV T (fRd w) else if bitsOf w 19 2 = 2 then getS T (fRd w) % 256 else getS T (fRd w)) }

theorem sendState_badNet (h : Issues s k 0x30 w) (hnet : bitsOf w 19 2 = 3) : sendState k s = tileFault k 2 s := by
  obtain ⟨hexec, rfl, hpc⟩ := h
  unfold sendState
  rw [if_neg (by simp [hexec])]
  exact if_pos hnet

theorem sendState_waits (h : Issues s k 0x30 w) (hnet : bitsOf w 19 2 < 3) (hno : hasCredit s k (bitsOf w 19 2) (bitsOf w 16 3) = false) :
    sendState k s = setTile k { getTile s k with run := .waitSend } s := by
  obtain ⟨hexec, rfl, hpc⟩ := h
  unfold sendState
  rw [if_neg (by simp [hexec])]
  exact ((if_neg (by omega)).trans (if_neg (by omega))).trans (if_pos (by simp [hno]))

/-- A SEND with credit: the tile goes on, and its token takes the direction of the word. -/
theorem sendState_credit (h : Issues s k 0x30 w) (hnet : bitsOf w 19 2 < 3) (hcredit : hasCredit s k (bitsOf w 19 2) (bitsOf w 16 3) = true) :
    sendState k s =
      if bitsOf w 16 3 = 5 then tapToken k (sendToken w (getTile s k)) (pmuCount (plotOfTile k) 7 1
        { setTile k (advance (getTile s k)) s with fab := { s.fab with drain := s.fab.drain ++ [(k, sendToken w (getTile s k))] } })
      else if 6 ≤ bitsOf w 16 3 then orphan k (plotOfTile k) (getTile s k).ot (setTile k (advance (getTile s k)) s)
      else flowAll (pushFifo (fifoKey k (bitsOf w 19 2) (8 + bitsOf w 16 3)) (sendToken w (getTile s k)) (setTile k (advance (getTile s k)) s)) := by
  obtain ⟨hexec, rfl, hpc⟩ := h
  unfold sendState
  rw [if_neg (by simp [hexec])]
  exact ((if_neg (by omega)).trans (if_neg (by omega))).trans (if_neg (by simp [hcredit]))

theorem hasCredit_far {net dir : Nat} (h : 5 ≤ dir) : hasCredit s k net dir = true := by simp [hasCredit, h]

theorem getV_lt {r : Nat} : getV T r < 2 ^ 512 := (tget 0 (r % 8) T.v).isLt

theorem sendToken_data : (sendToken w T).data.toNat =
    if bitsOf w 19 2 = 1 then getV T (fRd w) else if bitsOf w 19 2 = 2 then getS T (fRd w) % 256 else getS T (fRd w) := by
  have hS : getS T (fRd w) < 2 ^ 512 := by
    rw [getS_eq_toNat]
    exact Nat.lt_of_lt_of_le (BitVec.isLt _) (Nat.pow_le_pow_right (by decide) (by decide))
  have hmod : getS T (fRd w) % 256 ≤ getS T (fRd w) := Nat.mod_le _ _
  refine (BitVec.toNat_ofNat ..).trans (Nat.mod_eq_of_lt ?_)
  split
  · exact getV_lt
  · split
    · exact Nat.lt_of_le_of_lt hmod hS
    · exact hS

/-! ### RECV -/

theorem recvState_none (h : Issues s k 0x31 w) (hno : recvEntry (getTile s k) (bitsOf w 19 2) (bitsOf w 16 3) (w.testBit 15) = none) :
    recvState k s = noteStall k (setTile k { getTile s k with run := .waitRecv } s) := by
  obtain ⟨hexec, rfl, hpc⟩ := h
  unfold recvState
  rw [if_neg (by simp [hexec])]
  refine (if_neg (by omega)).trans ?_
  rw [hno]

theorem recvState_some (h : Issues s k 0x31 w) (he : recvEntry (getTile s k) (bitsOf w 19 2) (bitsOf w 16 3) (w.testBit 15) = some e) :
    recvState k s = setTile k
      (advance (deliverTo (bitsOf w 19 2) (fRd w) e.tok.data { getTile s k with ms := consume e (getTile s k).ms })) s := by
  obtain ⟨hexec, rfl, hpc⟩ := h
  unfold recvState
  rw [if_neg (by simp [hexec])]
  refine (if_neg (by omega)).trans ?_
  rw [he]

theorem setS_ms {r v : Nat} : (setS r v T).ms = T.ms ∧ (setS r v T).pc = T.pc ∧ (setS r v T).ct = T.ct := by
  unfold setS
  split <;> exact ⟨rfl, rfl, rfl⟩

theorem getS_setS_same {r v : Nat} (hr : r ≠ 0) (hv : v < 2 ^ 32) : getS (setS r v T) r = v := by
  simp only [getS, setS, if_neg hr, tget_tset_same, BitVec.toNat_ofNat, Nat.mod_eq_of_lt hv]

theorem getV_setV_same {r v : Nat} (hv : v < 2 ^ 512) : getV (setV r v T) r = v := by
  simp only [getV, setV, tget_tset_same, BitVec.toNat_ofNat, Nat.mod_eq_of_lt hv]

/-- A delivery writes its register alone. -/
theorem deliverTo_kept {net dst : Nat} {data : BitVec 512} :
    (deliverTo net dst data T).ms = T.ms ∧ (deliverTo net dst data T).pc = T.pc ∧ (deliverTo net dst data T).ct = T.ct := by
  unfold deliverTo
  split
  · exact ⟨rfl, rfl, rfl⟩
  · split <;> exact setS_ms

theorem deliverTo_vector {dst : Nat} {data : BitVec 512} : getV (deliverTo 1 dst data T) dst = data.toNat ∧ (deliverTo 1 dst data T).s = T.s :=
  ⟨getV_setV_same data.isLt, rfl⟩

theorem deliverTo_scalar {net dst : Nat} {data : BitVec 512} (hnet : net ≠ 1) (hdst : dst ≠ 0) :
    getS (deliverTo net dst data T) dst = data.toNat % (if net = 2 then 256 else 2 ^ 32) := by
  unfold deliverTo
  rw [if_neg hnet]
  split
  · exact getS_setS_same hdst (by omega)
  · exact getS_setS_same hdst (Nat.mod_lt _ (by decide))

/-- An EXACT entry that is consumed goes. -/
theorem consume_exact {ms : List MsEntry} (h : e.shared = false) : ∀ x ∈ consume e ms, x.seqNo ≠ e.seqNo := by
  intro x hx
  have hms : consume e ms = ms.filter (fun x => x.seqNo ≠ e.seqNo) := if_neg (by simp [h])
  rw [hms] at hx
  exact of_decide_eq_true (List.mem_filter.mp hx).2

theorem recvEntry_shared {net port : Nat} {sh : Bool} (h : recvEntry T net port sh = some e) : e.shared = sh := by
  have hp := List.find?_some h
  simp only [Bool.and_eq_true, decide_eq_true_eq] at hp
  exact hp.1.2.2

/-! ### TAG -/

theorem tagState_issues (h : Issues s k 0x34 w) : tagState k s =
    if (tagTile w (getTile s k)).2 then
      taintOwners (plotOfTile k) (tagTile w (getTile s k)).1.ot
        (bump (960 + 15 * plotOfTile k + 11) 1 (setTile k (advance (tagTile w (getTile s k)).1) s))
    else setTile k (advance (tagTile w (getTile s k)).1) s := by
  obtain ⟨hexec, rfl, hpc⟩ := h
  unfold tagState
  rw [if_neg (by simp [hexec])]
  exact if_neg (by omega)

theorem otWrite_eq {v : Nat} : otWrite v T = { T with ot := v % 2 ^ 13 + 2 ^ 13 * (T.gen % 4) + 2 ^ 15 * (v / 2 ^ 15 % 2) } := by
  simp [otWrite, setGen, bitsOf, Nat.shiftRight_eq_div_pow]

/-- The value that TAG writes to OT, and whether ITER was clipped. -/
theorem tagTile_write (h0 : bitsOf w 0 3 ≠ 0) (hfit : bitsOf w 0 3 = 3 → T.ot % 256 + getS T (fRa w) % 256 ≤ 255) :
    tagTile w T = (otWrite (match bitsOf w 0 3 with
      | 1 => getS T (fRa w)
      | 2 => T.ot - T.ot % 256 + getS T (fRa w) % 256
      | 3 => T.ot + getS T (fRa w) % 256
      | 4 => T.ot % 256 + 256 * (getS T (fRa w) % 32)
      | 5 => T.ot % 256 + 2 ^ 15
      | _ => T.ct) T, false) := by
  have hiter : bitsOf T.ot 0 8 = T.ot % 256 := rfl
  unfold tagTile
  rw [hiter]
  generalize bitsOf w 0 3 = c at h0 hfit
  match c with
  | 0 => exact absurd rfl h0
  | 1 => rfl
  | 2 => rfl
  | 3 =>
    have hle := hfit rfl
    have hot : T.ot - T.ot % 256 + min 255 (T.ot % 256 + getS T (fRa w) % 256) = T.ot + getS T (fRa w) % 256 := by omega
    exact Prod.ext (congrArg (otWrite · T) hot) (decide_eq_false (by omega))
  | 4 => rfl
  | 5 => rfl
  | _ + 6 => rfl

theorem tagTile_clipped (h3 : bitsOf w 0 3 = 3) (hclip : 255 < T.ot % 256 + getS T (fRa w) % 256) :
    (tagTile w T).2 = true ∧ (tagTile w T).1.ot % 256 = 255 := by
  unfold tagTile
  rw [h3]
  refine ⟨decide_eq_true hclip, ?_⟩
  change (otWrite (T.ot - T.ot % 256 + min 255 (T.ot % 256 + getS T (fRa w) % 256)) T).ot % 256 = 255
  rw [otWrite_eq]
  change (_ % 2 ^ 13 + _ + _) % 256 = 255
  omega

/-! ### EVENT -/

theorem eventState_waits (h : Issues s k 0x3C w) (he : (getTile s k).event.isSome = true) :
    eventState k s = setTile k { getTile s k with run := .waitEvent } s := by
  obtain ⟨hexec, rfl, hpc⟩ := h
  unfold eventState
  rw [if_neg (by simp [hexec])]
  exact (if_neg (by omega)).trans (if_pos he)

/-- The tile after an EVENT that does not wait: its event is the two arguments, and CT, TILE_FLAGS and FN. -/
def eventTile (w : Nat) (T : Tile) : Tile :=
  { advance T with event := some (getS T (fRa w), getS T (fRb w), T.ct + 65536 * (T.flags % 64) + 16777216 * bitsOf w 0 8) }

/-- EVENT goes on with the event in the tile, counted and captured; the I/O die may accept it at once. -/
theorem eventState_raises (h : Issues s k 0x3C w) (he : (getTile s k).event = none) : ∃ u, eventState k s = acceptEvent k u ∧
    Counted (960 + 15 * plotOfTile k + 12) 1 s u ∧ Keeps [.cnt, .hif, .tiles, .trc, .alert] s u ∧ getTile u k = eventTile w (getTile s k) := by
  obtain ⟨hexec, rfl, hpc⟩ := h
  have hidx : 960 + 15 * plotOfTile k + 12 ≠ 64 := by omega
  unfold eventState
  rw [if_neg (by simp [hexec])]
  refine ⟨_, (if_neg (by omega)).trans (if_neg (by simp [he])), ?_, ?_, ?_⟩
  · exact Counted.after (Counted.before (setTile_keeps.same_count rfl) (bump_counted hidx)) (capture_keeps.same_count rfl)
  · exact ((setTile_keeps.weaken rfl).after bump_keeps rfl).after capture_keeps rfl
  · exact (getTile_congr (capture_keeps.at .tiles rfl)).trans ((getTile_congr bump_tiles).trans getTile_setTile_same)

theorem getLink_congr {u : State} {l : Nat} (h : u.links = s.links) : getLink u l = getLink s l := congrArg (tget Link.init l) h

theorem acceptEvent_held {u : State} {e : Nat × Nat × Nat} (he : (getTile u k).event = some e) (hlink : (getLink u (dieOfTile k)).train.isSome = true) :
    acceptEvent k u = u := by
  unfold acceptEvent
  rw [he]
  exact if_neg (by simp [eventAccepted, Option.isSome_iff_ne_none.mp hlink])

theorem acceptEvent_taken {u : State} {e : Nat × Nat × Nat} (he : (getTile u k).event = some e) (hlink : (getLink u (dieOfTile k)).train = none) :
    acceptEvent k u = raiseOn (dieOfTile k) 0x0605 k e.1 e.2.1 e.2.2 (updTile k (fun t => { t with event := none }) u) := by
  unfold acceptEvent
  rw [he]
  exact if_pos (by simp [eventAccepted, hlink])

/-- Settles O37, clause by clause from what each of the four instructions does when it issues. -/
theorem tilePorts : Obligations.TilePorts := by
  unfold Obligations.TilePorts
  rintro s k w _ rfl
  refine ⟨fun h hnet hdir => ?feed, fun h hnet hno => ?waits, fun h hnet => ?badNet, fun h hnet hdir hcredit => ?switch, fun h hnet hdir => ?nowhere,
    fun e h he => ?recv, fun e h he hnet => ?recvScalar, fun h hno => ?recvWaits, fun h h0 => ?tagRead, fun x a h h0 ha hfit hx => ?tagWrite,
    fun h h3 hclip => ?tagClip, fun h he hlink => ?eventTaken, fun h he hlink => ?eventHeld, fun h he => ?eventWaits⟩
  case feed =>
    refine ⟨_, congrArg Host.Outcome.next ((sendState_credit h (by omega) (hasCredit_far (by omega))).trans (if_pos hdir)), ?_, ?_⟩
    · rw [getTile_congr (tapToken_keeps.at .tiles rfl), getTile_congr pmuCount_tiles]
      exact getTile_setTile_same (s := s) (k := k) (T := advance (getTile s k))
    · rw [(tapToken_keeps.at .fab rfl : _ = _), pmuCount_fab]
      have hdata : (sendToken w (getTile s k)).data = (sreg (getTile s k) (fRd w)).setWidth 512 := by
        refine BitVec.eq_of_toNat_eq ?_
        rw [sendToken_data, hnet, if_neg (by decide), if_neg (by decide), getS_eq_toNat, BitVec.toNat_setWidth_of_le (by decide)]
      have htok : sendToken w (getTile s k) =
          { net := bitsOf w 19 2, tag := (getTile s k).ot, data := (sendToken w (getTile s k)).data, headland := false } := rfl
      rw [htok, hnet, hdata]
  case waits => exact congrArg Host.Outcome.next (sendState_waits h hnet hno)
  case badNet => exact ⟨_, congrArg Host.Outcome.next (sendState_badNet h hnet), getTile_tileFault_same, tileFault_keeps.at .fab rfl⟩
  case switch =>
    exact ⟨sendToken w (getTile s k), congrArg Host.Outcome.next ((sendState_credit h hnet hcredit).trans ((if_neg (by omega)).trans (if_neg (by omega)))),
      rfl, rfl, rfl, sendToken_data⟩
  case nowhere =>
    exact congrArg Host.Outcome.next ((sendState_credit h hnet (hasCredit_far (by omega))).trans ((if_neg (by omega)).trans (if_pos hdir)))
  case recv =>
    refine ⟨_, congrArg Host.Outcome.next (recvState_some h he), ?_⟩
    rw [getTile_setTile_same]
    refine ⟨deliverTo_kept.1, fun hnet => ?_⟩
    rw [hnet]
    exact deliverTo_vector
  case recvScalar =>
    obtain ⟨hms, hpc, hct⟩ := deliverTo_kept (T := { getTile s k with ms := consume e (getTile s k).ms }) (net := bitsOf w 19 2) (dst := fRd w)
      (data := e.tok.data)
    refine ⟨_, congrArg Host.Outcome.next (recvState_some h he), ?_⟩
    rw [getTile_setTile_same]
    refine ⟨congrArg (· + 1) hpc, rfl, hct, fun hrd => deliverTo_scalar hnet hrd, fun hexact x hx => ?_⟩
    exact consume_exact (ms := (getTile s k).ms) ((recvEntry_shared he).trans hexact) x (Eq.subst (motive := fun l => x ∈ l) hms hx)
  case recvWaits => exact congrArg Host.Outcome.next (recvState_none h hno)
  case tagRead =>
    have htile : tagTile w (getTile s k) = (setS (fRd w) (getTile s k).ct (getTile s k), false) := by
      unfold tagTile
      rw [h0]
      rfl
    refine congrArg Host.Outcome.next ((tagState_issues h).trans ?_)
    rw [htile]
    rfl
  case tagWrite =>
    subst ha
    refine congrArg Host.Outcome.next ((tagState_issues h).trans ?_)
    rw [tagTile_write h0 hfit, hx, ← otWrite_eq]
    rfl
  case tagClip =>
    obtain ⟨hflag, hiter⟩ := tagTile_clipped h3 hclip
    have htile : getTile (bump (960 + 15 * plotOfTile k + 11) 1 (setTile k (advance (tagTile w (getTile s k)).1) s)) k =
        advance (tagTile w (getTile s k)).1 := (getTile_congr bump_tiles).trans getTile_setTile_same
    refine ⟨bump (960 + 15 * plotOfTile k + 11) 1 (setTile k (advance (tagTile w (getTile s k)).1) s), ?_, ?_, ?_⟩
    · refine congrArg Host.Outcome.next ((tagState_issues h).trans ?_)
      rw [if_pos hflag, htile]
      rfl
    · rw [htile]
      exact hiter
    · exact Counted.before (setTile_keeps.same_count rfl) (bump_counted (by omega))
  case eventTaken =>
    obtain ⟨u, heq, hcount, hkeeps, htile⟩ := eventState_raises h he
    have hidx : 960 + 15 * plotOfTile k + 12 ≠ 64 := by omega
    have hu : (getTile u k).event = some _ := congrArg Tile.event htile
    have hacc := acceptEvent_taken hu ((congrArg Link.train (getLink_congr (hkeeps.at .links rfl))).trans hlink)
    refine ⟨_, congrArg Host.Outcome.next (heq.trans hacc), ?_, ?_, ?_⟩
    · rw [getTile_congr (raiseOn_keeps.at .tiles rfl), updTile, getTile_setTile_same, htile]
      exact congrArg (fun e => { advance (getTile s k) with event := e }) he.symm
    · rw [(raiseOn_keeps.at .fab rfl : _ = _)]
      exact hkeeps.at .fab rfl
    · exact hcount.after ((setTile_keeps.same_count rfl).trans (raiseOn_cnt hidx))
  case eventHeld =>
    obtain ⟨u, heq, hcount, hkeeps, htile⟩ := eventState_raises h he
    have hu : (getTile u k).event = some _ := congrArg Tile.event htile
    have hacc := acceptEvent_held hu ((congrArg (fun l => l.train.isSome) (getLink_congr (hkeeps.at .links rfl))).trans hlink)
    exact ⟨_, _, congrArg Host.Outcome.next (heq.trans hacc), htile, rfl, rfl, hkeeps.at .fab rfl, hcount⟩
  case eventWaits => exact congrArg Host.Outcome.next (eventState_waits h he)

end Sys2Proof.Machine
end

section
/-! PROOF. Tokens that arrive, blocks that fire and steering units (O38). -/
namespace Sys2Proof.Machine

variable {s : State} {k c : Nat} {tok : Token}

/-! ### TOKEN_ARRIVAL -/

/-- The tile has taken the head of its input `c`, and serves the next input first. -/
def headTaken (k c : Nat) (s : State) : State :=
  let u := takeHead k (c / 6) (c % 6) (updTile k (fun t => { t with rr := (c + 1) % 18 }) s)
  if c % 6 = 5 then pmuCount (plotOfTile k) 6 1 u else u

theorem headTaken_keeps : Keeps [.cnt, .hif, .alert, .fab] (setTile k { getTile s k with rr := (c + 1) % 18 } s) (headTaken k c s) :=
  keeps_ite ((takeHead_keeps.weaken rfl).after pmuCount_keeps rfl) (takeHead_keeps.weaken rfl)

theorem getTile_headTaken_same : getTile (headTaken k c s) k = { getTile s k with rr := (c + 1) % 18 } :=
  (getTile_congr (headTaken_keeps.at .tiles rfl)).trans getTile_setTile_same

theorem getTile_headTaken_other {j : Nat} (h : j ≠ k) : getTile (headTaken k c s) j = getTile s j :=
  (getTile_congr (headTaken_keeps.at .tiles rfl)).trans (getTile_setTile_other h)

theorem headTaken_count {i : Nat} (hi : i < 2368) (h : i ≠ 64) : Same (count i) s (headTaken k c s) := by
  have htake : Same (count i) s (takeHead k (c / 6) (c % 6) (updTile k (fun t => { t with rr := (c + 1) % 18 }) s)) :=
    (setTile_keeps.same_count rfl).trans (takeHead_keeps.same_count rfl)
  exact same_ite (htake.trans (pmuCount_count h fun j hj => by omega)) htake

theorem arrival_takes (hrun : (getTile s k).run ≠ .fault) (hon : plotsOn s = true)
    (hc : (servedFrom (getTile s k).rr).find? (fun c => (inputHead s k (c / 6) (c % 6)).isSome) = some c)
    (hhead : inputHead s k (c / 6) (c % 6) = some tok) (hroom : (getTile s k).ms.length < 64) :
    arrival k none s = flowAll (takeToken k (c % 6) tok (headTaken k c s)) := by
  unfold arrival
  dsimp only
  rw [if_neg (by simp [hrun, hon]), hc]
  dsimp only
  rw [if_neg (by omega), hhead]
  rfl

theorem arrival_nothing (h : (getTile s k).run = .fault ∨ plotsOn s = false ∨ ∀ c, c < 18 → inputHead s k (c / 6) (c % 6) = none) :
    arrival k none s = s := by
  unfold arrival
  dsimp only
  split
  · rfl
  next hgo =>
    have hnone : (servedFrom (getTile s k).rr).find? (fun c => (inputHead s k (c / 6) (c % 6)).isSome) = none := by
      refine List.find?_eq_none.mpr fun c hc => ?_
      obtain ⟨i, -, rfl⟩ := List.mem_map.mp hc
      have hinput : inputHead s k (((getTile s k).rr + i) % 18 / 6) (((getTile s k).rr + i) % 18 % 6) = none := by
        rcases h with hfault | hoff | hempty
        · exact absurd (.inl hfault) hgo
        · exact absurd (.inr hoff) hgo
        · exact hempty _ (Nat.mod_lt _ (by decide))
      change ¬(inputHead s k (((getTile s k).rr + i) % 18 / 6) (((getTile s k).rr + i) % 18 % 6)).isSome = true
      rw [hinput]
      exact Bool.false_ne_true
    rw [hnone]

/-- The entry that a token becomes in the matching store of a tile. -/
def entryOf (T : Tile) (port : Nat) (tok : Token) (o : Operand) : MsEntry :=
  { tok := tok, port := port, shared := o.shared, uses := if o.shared then (if o.uses = 0 then T.size else o.uses) else 1, seqNo := T.arrivals }

theorem takeToken_joins {port : Nat} {o : Operand} (hgen : bitsOf tok.tag 13 2 = (getTile s k).gen) (ho : operandFor (getTile s k).active tok.net port = some o) :
    takeToken k port tok s = noteStall k (setTile k
      { getTile s k with ms := (getTile s k).ms ++ [entryOf (getTile s k) port tok o], arrivals := (getTile s k).arrivals + 1 } s) := by
  unfold takeToken
  rw [if_neg (show ¬tagGen tok.tag ≠ (getTile s k).gen from not_not.mpr hgen), ho]
  rfl

/-- A token of the tile's generation that leaves its input for the matching store. -/
theorem takeToken_headTaken {o : Operand} (hgen : bitsOf tok.tag 13 2 = (getTile s k).gen)
    (ho : operandFor (getTile s k).active tok.net (c % 6) = some o) : ∃ u, takeToken k (c % 6) tok (headTaken k c s) = noteStall k u ∧
      getTile u k = { getTile s k with rr := (c + 1) % 18, ms := (getTile s k).ms ++ [entryOf (getTile s k) (c % 6) tok o],
                                       arrivals := (getTile s k).arrivals + 1 } ∧
      ∀ j, j ≠ k → getTile u j = getTile s j := by
  have htile := getTile_headTaken_same (k := k) (c := c) (s := s)
  refine ⟨_, takeToken_joins (o := o) (by rw [htile]; exact hgen) (by rw [htile]; exact ho), ?_, fun j hj => ?_⟩
  · rw [getTile_setTile_same, htile]
    rfl
  · exact (getTile_setTile_other hj).trans (getTile_headTaken_other hj)

theorem takeToken_stale {port : Nat} (hgen : bitsOf tok.tag 13 2 ≠ (getTile s k).gen) : takeToken k port tok s = discardStale (plotOfTile k) s :=
  if_pos hgen

/-! ### What the streamer feeds -/

theorem feedToken_input {f : Feed} {g : Group} {b mid : Nat} {m : Fin 32} {v : Msg} (hg : groupOfPlot s (plotOfTile k) = some g) (ht : g.trans = none)
    (hsrc : f.src = .input b) (hm : f.member = some m) (htab : (tget [] g.gen g.tables)[m.val]? = some mid) (hv : findMsg s mid = some v)
    (hnet : f.net = 1) (hat : f.at64 = 0) : feedToken k f s = setFeed (4 * k + 1) (getFeed s (4 * k + 1) ++
      [{ net := 1, tag := 8192 * g.gen + f.iter.toNat + 256 * m.val, data := BitVec.ofNat 512 (leNat (slice v.input (64 * b) 64)), headland := false }]) s := by
  simp only [feedToken, hg, feedSource, hsrc, hm, ht, Option.bind_some, htab, hv, feedTag, hnet, hat]
  have hslice : slice (slice v.input (64 * b) 64) 0 64 = slice v.input (64 * b) 64 := by simp [slice]
  exact congrArg (fun bs => setFeed (4 * k + 1) (getFeed s (4 * k + 1) ++
    [{ net := 1, tag := 8192 * g.gen + f.iter.toNat + 256 * m.val, data := BitVec.ofNat 512 (leNat bs), headland := false }]) s) hslice

/-! ### BLOCK_FIRE -/

theorem mem_consume {e x : MsEntry} {ms : List MsEntry} (h : x ∈ consume e ms) : ∃ y ∈ ms, y.seqNo = x.seqNo ∧ y.shared = x.shared := by
  unfold consume at h
  split at h
  · obtain ⟨y, hy, rfl⟩ := List.mem_map.mp h
    refine ⟨y, hy, ?_⟩
    split <;> exact ⟨rfl, rfl⟩
  · exact ⟨x, (List.mem_filter.mp h).1, rfl, rfl⟩

/-- The store after a block's entries are consumed. -/
def consumePairs (pairs : List (Operand × MsEntry)) (ms : List MsEntry) : List MsEntry :=
  pairs.foldl (fun ms x => match ms.find? (fun e => e.seqNo = x.2.seqNo) with | some e => consume e ms | none => ms) ms

/-- The store after one operand's entry is consumed. -/
def consumeSeq (n : Nat) (ms : List MsEntry) : List MsEntry :=
  match ms.find? (fun e => e.seqNo = n) with | some e => consume e ms | none => ms

theorem mem_consumeSeq {n : Nat} {x : MsEntry} {ms : List MsEntry} (h : x ∈ consumeSeq n ms) : ∃ y ∈ ms, y.seqNo = x.seqNo ∧ y.shared = x.shared := by
  unfold consumeSeq at h
  split at h
  · exact mem_consume h
  · exact ⟨x, h, rfl, rfl⟩

/-- An EXACT entry that an operand takes goes. -/
theorem consumeSeq_exact {n : Nat} {ms : List MsEntry} (h : ∀ e ∈ ms, e.seqNo = n → e.shared = false) : ∀ x ∈ consumeSeq n ms, x.seqNo ≠ n := by
  intro x hx
  unfold consumeSeq at hx
  split at hx
  next e he =>
    have hseq : e.seqNo = n := by simpa using List.find?_some he
    rw [← hseq]
    exact consume_exact (h e (List.mem_of_find?_eq_some he) hseq) x hx
  next hnone => exact fun heq => List.find?_eq_none.mp hnone x hx (decide_eq_true heq)

theorem consumePairs_cons {x : Operand × MsEntry} {xs : List (Operand × MsEntry)} {ms : List MsEntry} :
    consumePairs (x :: xs) ms = consumePairs xs (consumeSeq x.2.seqNo ms) := rfl

theorem mem_consumePairs {pairs : List (Operand × MsEntry)} {x : MsEntry} {ms : List MsEntry} (h : x ∈ consumePairs pairs ms) :
    ∃ y ∈ ms, y.seqNo = x.seqNo ∧ y.shared = x.shared := by
  induction pairs generalizing ms with
  | nil => exact ⟨x, h, rfl, rfl⟩
  | cons p pairs ih =>
    obtain ⟨y, hy, hseq, hshared⟩ := ih h
    obtain ⟨z, hz, hseq', hshared'⟩ := mem_consumeSeq hy
    exact ⟨z, hz, hseq'.trans hseq, hshared'.trans hshared⟩

theorem consumePairs_exact {pairs : List (Operand × MsEntry)} {ms : List MsEntry} {p : Operand × MsEntry} (hp : p ∈ pairs)
    (h : ∀ e ∈ ms, e.seqNo = p.2.seqNo → e.shared = false) : ∀ y ∈ consumePairs pairs ms, y.seqNo ≠ p.2.seqNo := by
  induction pairs generalizing ms with
  | nil => cases hp
  | cons q pairs ih =>
    rw [consumePairs_cons]
    rcases List.mem_cons.mp hp with rfl | hp
    · intro y hy
      obtain ⟨z, hz, hseq, -⟩ := mem_consumePairs hy
      exact hseq ▸ consumeSeq_exact h z hz
    · refine ih hp fun e he hseq => ?_
      obtain ⟨z, hz, hzseq, hshared⟩ := mem_consumeSeq he
      exact hshared ▸ h z hz (hzseq.trans hseq)

/-- The tile after its block's operands are delivered keeps its matching store. -/
theorem foldl_deliverTo_ms {pairs : List (Operand × MsEntry)} {T : Tile} :
    (pairs.foldl (fun t x => deliverTo x.1.net x.1.dst x.2.tok.data t) T).ms = T.ms := by
  induction pairs generalizing T with
  | nil => rfl
  | cons p pairs ih => exact ih.trans deliverTo_kept.1

theorem fireState_fires {b entry tag : Nat} {ops : List Operand} {es : List MsEntry} (hidle : (getTile s k).run = .idle)
    (hfire : fireable (getTile s k) = some (b, entry, ops, tag, es)) :
    ∃ T, fireState k s = setTile k T s ∧ T.run = .running ∧ T.blk = b ∧ T.pc = entry ∧ T.ct = tag ∧ T.ot = tag ∧ T.msStall = false ∧
      T.ms = consumePairs (ops.zip es) (getTile s k).ms := by
  unfold fireState
  dsimp only
  rw [if_neg (by simp [hidle]), hfire]
  exact ⟨_, rfl, rfl, rfl, rfl, rfl, rfl, rfl, foldl_deliverTo_ms⟩

/-! ### SU_FIRE -/

theorem suFire_split {a c : Token} (hready : suReady (getSu s k) = true) (hkind : suKind (getSu s k).active = 0) (hpair : suPair (getSu s k) = some (a, c)) :
    suFire k s = flowAll (setSu k { getSu s k with
      inA := (getSu s k).inA.erase a, inC := (getSu s k).inC.erase c, out := [(b2n (c.data.getLsbD 0), a)] } s) := by
  unfold suFire
  dsimp only
  rw [if_neg (by simp [hready]), hkind, hpair]
  rfl

theorem suFire_merge {c b : Token} {cs bs : List Token} (hready : suReady (getSu s k) = true) (hkind : suKind (getSu s k).active = 1)
    (hc : (getSu s k).inC = c :: cs) (hbit : c.data.getLsbD 0 = true) (hb : (getSu s k).inB = b :: bs) :
    suFire k s = flowAll (setSu k { getSu s k with inB := bs, inC := cs, out := [(0, b)] } s) := by
  unfold suFire
  dsimp only
  rw [if_neg (by simp [hready]), hkind, hc, hb]
  exact if_pos hbit

theorem suFire_gate {a c : Token} (hready : suReady (getSu s k) = true) (hkind : suKind (getSu s k).active = 2) (hpair : suPair (getSu s k) = some (a, c)) :
    suFire k s = flowAll (setSu k { getSu s k with
      inA := (getSu s k).inA.erase a, inC := (getSu s k).inC.erase c, out := if c.data.getLsbD 0 then [(0, a)] else [] } s) := by
  unfold suFire
  dsimp only
  rw [if_neg (by simp [hready]), hkind, hpair]
  rfl

/-- Settles O38: arrivals from what the tile makes of the token it takes, firing from what its operands consume, steering by the unit's kind. -/
theorem tileFires : Obligations.TileFires := by
  unfold Obligations.TileFires
  refine ⟨?joins, ?stale, ?nothing, fun s k f => rfl, ?fed, ?fire, ?split, ?merge, ?gate, ?suIdle⟩
  case joins =>
    intro s k c tok o hrun hon hc hhead hroom hgen ho
    obtain ⟨u, hjoin, htile, hothers⟩ := takeToken_headTaken (c := c) hgen ho
    obtain ⟨b, hstall⟩ := getTile_noteStall_same (k := k.val) (s := u)
    refine ⟨_, entryOf (getTile s k) (c % 6) tok o,
      congrArg Host.Outcome.next ((arrival_takes hrun hon hc hhead hroom).trans (congrArg flowAll hjoin)), ?_⟩
    rw [hstall, htile]
    exact ⟨rfl, rfl, rfl, rfl, rfl, rfl, rfl, rfl, fun j hj => (getTile_noteStall_other hj).trans (hothers j hj)⟩
  case stale =>
    intro s k c tok hrun hon hc hhead hroom hgen
    have htile := getTile_headTaken_same (k := k.val) (c := c) (s := s)
    have hstale := takeToken_stale (s := headTaken k c s) (k := k) (port := c % 6) (tok := tok) (by rw [htile]; exact hgen)
    refine ⟨_, congrArg Host.Outcome.next ((arrival_takes hrun hon hc hhead hroom).trans (congrArg flowAll hstale)), ?_, ?_, ?_⟩
    · exact (getTile_congr bump_tiles).trans htile
    · exact bump_msgs.trans (headTaken_keeps.at .msgs rfl)
    · exact Counted.before (headTaken_count (by omega) (by omega)) (bump_counted (by omega))
  case nothing => exact fun s k h => congrArg Host.Outcome.next (arrival_nothing h)
  case fed =>
    intro s k f g b m mid v hg ht hsrc hm htab hv hnet hat
    exact ⟨_, feedToken_input hg ht hsrc hm htab hv hnet hat, rfl, rfl, rfl, rfl⟩
  case fire =>
    intro s k b entry tag ops es hidle hfire
    obtain ⟨T, heq, hrun, hblk, hpc, hct, hot, hstall, hms⟩ := fireState_fires hidle hfire
    refine ⟨_, congrArg Host.Outcome.next heq, ?_⟩
    rw [getTile_setTile_same]
    refine ⟨hrun, hblk, hpc, hct, hot, hstall, fun x hx hexact => ?_, fun j hj => getTile_setTile_other hj, rfl⟩
    rw [hms]
    exact consumePairs_exact hx hexact
  case split =>
    intro s k a c hready hkind hpair
    exact congrArg Host.Outcome.next (suFire_split hready hkind hpair)
  case merge =>
    intro s k c b cs bs hready hkind hc hbit hb
    exact congrArg Host.Outcome.next (suFire_merge hready hkind hc hbit hb)
  case gate =>
    intro s k a c hready hkind hpair
    exact congrArg Host.Outcome.next (suFire_gate hready hkind hpair)
  case suIdle =>
    intro s k hready
    exact congrArg Host.Outcome.next (if_pos (by simp [hready]))

end Sys2Proof.Machine
end

section
/-! PROOF. Events, counters and completions change the host interface, the counters and the alerts alone; a descriptor that executes stays so
until its own completion. -/
namespace Sys2Proof.Machine

variable {s t u : State} {i n q pos : Nat}

/-! ### What events and completions change -/

/-- A state without what events, counters and completions change: the counters, the host interface, the alerts, and what carries an event of a
compute die, its link and its trace. -/
def beyondHost (s : State) : State :=
  { s with cnt := [], hif := State.reset.hif, alert := State.reset.alert, links := [], trc := [] }

theorem Same.regs_eq (h : Same beyondHost s t) : t.regs = s.regs := by
  have hregs : (beyondHost t).regs = (beyondHost s).regs := congrArg State.regs h
  exact hregs

theorem triggerRing_host {r : Nat} : Same beyondHost s (triggerRing r s) := rfl

theorem writeEntry_host {r : Nat} {body : List Byte} : Same beyondHost s (writeEntry r body s) := by
  unfold writeEntry
  extract_lets -merge -underBinder +onlyGivenNames g phase n s1 s2 hif s3 count
  have h3 : Same beyondHost s s3 := rfl
  exact same_ite (h3.trans triggerRing_host) h3

theorem drainEvents_host {es : List Event} : Same beyondHost s (drainEvents es s).2 := by
  induction es generalizing s with
  | nil => exact .refl s
  | cons e es ih =>
    unfold drainEvents
    split
    · exact writeEntry_host.trans ih
    · exact .refl s

theorem pushEvent_host {e : Event} : Same beyondHost s (pushEvent e s) := by
  have hovf : Same beyondHost s (appendOvf s) := same_ite (.refl s) rfl
  have hflush : ∀ u, Same beyondHost u (flushBacklog u) := fun u => (drainEvents_host (s := u) (es := u.hif.backlog)).trans rfl
  exact same_ite ((hovf.trans (t := appendEvent e (appendOvf s)) rfl).trans (hflush _)) rfl

theorem raise_host {code src a0 a1 a2 : Nat} : Same beyondHost s (raise code src a0 a1 a2 s) := by
  unfold raise
  split
  · exact (show Same beyondHost s (latchAlert _ s) from rfl).trans pushEvent_host
  · exact pushEvent_host

theorem bump_host : Same beyondHost s (bump i n s) := by
  have hquiet : Same beyondHost s (countQuiet i n s) := rfl
  exact same_ite (hquiet.trans raise_host) hquiet

theorem flushDescs_host {ds : List Desc} : Same beyondHost s (flushDescs q ds s).2 := by
  induction ds generalizing s with
  | nil => exact .refl s
  | cons d ds ih =>
    unfold flushDescs
    split
    · dsimp only
      split
      · refine Same.trans ?_ ih
        exact same_ite (writeEntry_host.trans triggerRing_host) writeEntry_host
      · exact .refl s
    · exact .refl s

theorem complete_host {st r0 r1 r2 : Nat} : Same beyondHost s (complete q pos st r0 r1 r2 s) := by
  have hflush : ∀ u, Same beyondHost u (flushSq q u) := fun u => (flushDescs_host (q := q) (ds := (getSq u q).descs)).trans rfl
  unfold complete
  refine same_ite ?_ (.refl s)
  exact ((show Same beyondHost s (setSq q _ s) from rfl).trans bump_host).trans (hflush _)

theorem startDesc_host : Same beyondHost s (startDesc q pos s) := rfl

/-- A completion counts in counter 78 alone. -/
theorem complete_count {c st r0 r1 r2 : Nat} (h78 : c ≠ 78) (h64 : c ≠ 64) : Same (count c) s (complete q pos st r0 r1 r2 s) := by
  have hflush : ∀ u, Same (count c) u (flushSq q u) := fun u => flushSq_keeps.same_count rfl
  unfold complete
  refine same_ite ?_ (.refl s)
  exact ((show Same (count c) s (setSq q _ s) from rfl).trans (bump_count h78 h64)).trans (hflush _)

/-! ### Descriptors that execute -/

theorem Keeps.posts {ps : List Piece} (k : Keeps ps s t) (h : subParts [.hif] ps = false) : PostsMore s t := by
  have hhif : t.hif = s.hif := k.at .hif h
  exact ⟨congrArg Hif.sqs hhif, fun w hw => hhif ▸ hw⟩

theorem posts_ite {p : Prop} [Decidable p] {a b : State} (ha : PostsMore s a) (hb : PostsMore s b) : PostsMore s (if p then a else b) := by
  split <;> assumption

theorem posts_each {α : Type} {l : List α} {g : α → State → State} (h : PostsMore s t) (hg : ∀ a v, PostsMore v (g a v)) :
    PostsMore s (each l g t) :=
  each_preserves (P := PostsMore s) h fun a v hv => hv.trans (hg a v)

theorem raiseOn_posts {d code src a0 a1 a2 : Nat} : PostsMore s (raiseOn d code src a0 a1 a2 s) := by
  unfold raiseOn
  dsimp only
  refine PostsMore.trans ?_ raise_posts
  exact (posts_ite (traceWrite_keeps.posts rfl) (.refl s)).trans (sendFlit_keeps.posts rfl)

theorem descRun_runs {op : Nat} {sub : List Byte → Bool} {f : List Byte → State → State} {b : List Byte} (h : runnable s q pos op sub = some b) :
    descRun q pos op sub f s = f b (startDesc q pos s) := by
  unfold descRun
  rw [h]

theorem openAt_find_flushDescs {ds : List Desc} : (flushDescs q ds s).1.find? (openAt pos) = ds.find? (openAt pos) := by
  induction ds generalizing s with
  | nil => rfl
  | cons d ds ih =>
    unfold flushDescs
    split
    next hdone =>
      dsimp only
      split
      · have hover : openAt pos d = false := by simp [openAt, isDone, hdone]
        rw [ih, List.find?_cons, hover]
      · rfl
    · rfl

theorem findDesc_flushSq {p : Nat} : findDesc (flushSq p s) q pos = findDesc s q pos := by
  have hpost : ∀ x, getSq (flushDescs p (getSq s p).descs s).2 x = getSq s x := fun x => (flushDescs_done p _ s).1.getSq x
  have hsq : flushSq p s = setSq p { getSq s p with descs := (flushDescs p (getSq s p).descs s).1 } (flushDescs p (getSq s p).descs s).2 := rfl
  rw [findDesc, findDesc, hsq]
  by_cases hq : q = p
  · subst hq
    rw [getSq_setSq, openAt_find_flushDescs]
  · rw [getSq_setSq_other hq, hpost]

/-- A descriptor that is over at another position is none of this one's. -/
theorem find_map_other {pos' : Nat} {st : DescSt} {ds : List Desc} (h : pos' ≠ pos) :
    (ds.map (fun d => if d.pos = pos' then { d with st := st } else d)).find? (openAt pos) = ds.find? (openAt pos) := by
  induction ds with
  | nil => rfl
  | cons d ds ih =>
    rw [List.map_cons, List.find?_cons, List.find?_cons, ih]
    by_cases hd : d.pos = pos'
    · simp [hd, openAt, h]
    · rw [if_neg hd]

/-- The completion of one descriptor leaves every other one as it was. -/
theorem findDesc_complete_other {p pos' st r0 r1 r2 : Nat} (h : p ≠ q ∨ pos' ≠ pos) :
    findDesc (complete p pos' st r0 r1 r2 s) q pos = findDesc s q pos := by
  unfold complete
  dsimp only
  split
  · rw [findDesc_flushSq, findDesc, findDesc, bump_posts.getSq]
    by_cases hp : q = p
    · subst hp
      have hpos : pos' ≠ pos := h.resolve_left fun hne => hne rfl
      rw [getSq_setSq]
      exact find_map_other hpos
    · rw [getSq_setSq_other hp]
  · rfl

theorem Executes.after_other {p pos' st r0 r1 r2 : Nat} (h : Executes q pos s) (hne : p ≠ q ∨ pos' ≠ pos) :
    Executes q pos (Machine.complete p pos' st r0 r1 r2 s) := by
  unfold Executes
  rw [findDesc_complete_other hne]
  exact h

end Sys2Proof.Machine
end

section
/-! PROOF. SYNC of tiles and SYNC_OP of descriptors (O40 and O41): a request carries its operation to the home, waiters are released, and the
requester has its answer. -/
namespace Sys2Proof.Machine

variable {s t u : State} {who k v : Nat} {op : SynOp}

/-! ### Objects of states that read the same -/

section
variable (hreg : ∀ off, getReg t off = getReg s off)
include hreg

theorem synVal_eq_of_regs : synVal t k = synVal s k := hreg _

theorem synSat_eq_of_regs : synSat t k = synSat s k := congrArg (Nat.testBit · 2) (hreg _)

theorem synType_eq_of_regs : synType t k = synType s k := congrArg (bitsOf · 0 2) (hreg _)

theorem synThreshold_eq_of_regs : synThreshold t k = synThreshold s k := congrArg (fun x => max 1 (bitsOf x 16 16)) (hreg _)

theorem synCond_eq_of_regs {eq : Bool} : synCond t k eq v = synCond s k eq v := by
  simp only [synCond, synVal_eq_of_regs hreg, synType_eq_of_regs hreg]

theorem getReg_setReg_eq {j w off : Nat} : getReg (setReg j w t) off = getReg (setReg j w s) off := by
  rw [getReg_setReg, getReg_setReg, hreg]

theorem getReg_setSyn_eq {off : Nat} : getReg (setSyn k v t) off = getReg (setSyn k v s) off := by
  unfold setSyn setRegIn
  split
  · exact getReg_setReg_eq hreg
  · exact hreg off

theorem getReg_setSynSat_eq {b : Bool} {off : Nat} : getReg (setSynSat k b t) off = getReg (setSynSat k b s) off := by
  unfold setSynSat setRegIn
  rw [hreg]
  split
  · exact getReg_setReg_eq hreg
  · exact hreg off

theorem getReg_synAdd_eq {off : Nat} : getReg (synAdd who k v t) off = getReg (synAdd who k v s) off := by
  by_cases hstuck : synType s k = 0 ∧ synSat s k = true
  · obtain ⟨hty, hsat⟩ := hstuck
    rw [synAdd_stuck hty hsat, synAdd_stuck ((synType_eq_of_regs hreg).trans hty) ((synSat_eq_of_regs hreg).trans hsat), hreg]
  · have hstuck' : ¬(synType t k = 0 ∧ synSat t k = true) := by rwa [synType_eq_of_regs hreg, synSat_eq_of_regs hreg]
    have hval := synVal_eq_of_regs (k := k) hreg
    rcases Nat.lt_or_ge (synVal s k + v) (2 ^ 32) with hfits | hover
    · rw [synAdd_fits hstuck hfits, synAdd_fits hstuck' (by rwa [hval]), hval, getReg_setSyn_eq hreg]
    · rw [getReg_synAdd_saturates hstuck hover, getReg_synAdd_saturates hstuck' (by rwa [hval])]
      exact getReg_setSynSat_eq fun off => getReg_setSyn_eq hreg

/-- An operation reads nothing but the registers: of two states that read the same it makes two that read the same. -/
theorem synApply_eq_of_regs : (∀ off, getReg (synApply op who k v t).1 off = getReg (synApply op who k v s).1 off) ∧
    (synApply op who k v t).2 = (synApply op who k v s).2 := by
  have hval := synVal_eq_of_regs (k := k) hreg
  have hty := synType_eq_of_regs (k := k) hreg
  have hsat := synSat_eq_of_regs (k := k) hreg
  have hset : ∀ x off, getReg (setSyn k x t) off = getReg (setSyn k x s) off := fun x off => getReg_setSyn_eq hreg
  cases op with
  | add =>
    simp only [synApply, hval, hty, synArrive, synThreshold_eq_of_regs hreg]
    split_ifs
    · exact ⟨hset _, rfl⟩
    · exact ⟨hset _, rfl⟩
    · exact ⟨hreg, rfl⟩
    · exact ⟨fun off => getReg_synAdd_eq hreg, rfl⟩
  | sub =>
    simp only [synApply, hval, hty, hsat]
    split_ifs
    · exact ⟨hset _, rfl⟩
    · exact ⟨hset _, rfl⟩
    · exact ⟨hreg, rfl⟩
    · exact ⟨hset _, rfl⟩
  | set =>
    simp only [synApply, hty]
    split_ifs
    · exact ⟨hset _, rfl⟩
    · exact ⟨hset _, rfl⟩
    · exact ⟨hset _, rfl⟩
    · exact ⟨fun off => getReg_setSynSat_eq (hset v), rfl⟩
  | trydec =>
    simp only [synApply, hval, hty]
    split_ifs
    · exact ⟨hset _, rfl⟩
    · exact ⟨hreg, rfl⟩
    · exact ⟨hset _, rfl⟩
    · exact ⟨hreg, rfl⟩
    · exact ⟨hset _, rfl⟩
    · exact ⟨hreg, rfl⟩
  | waitGe | waitEq | read => exact ⟨hreg, rfl⟩

end

/-! ### Waiters -/

variable {w : Waiter}

theorem resumeWaiter_tile_other {j : Nat} (h : (getTile s j).run ≠ .waitSync) : getTile (resumeWaiter w s) j = getTile s j := by
  unfold resumeWaiter
  split
  · by_cases hj : j = w.req
    · subst hj
      rw [getTile_updTile_same, if_neg h]
    · exact getTile_updTile_other hj
  · split
    · exact getTile_congr (complete_keeps.at .tiles rfl)
    · rfl

theorem resumeWaiter_tile_same {c : Nat} {T : Tile} (hreq : w.req = c) (hc : c < 1024) (hT : getTile s c = { T with run := .waitSync }) :
    getTile (resumeWaiter w s) c = advance T := by
  subst hreq
  unfold resumeWaiter
  rw [if_pos hc, getTile_updTile_same, hT]
  rfl

theorem resumeWaiter_completes {q pos x : Nat} (hreq : w.req = 1024 + q) (hq : q < 16) (hkey : w.key = pos) (h : Executes q pos s)
    (hx : synVal s w.obj = x) : Completed q pos 0 x 0 0 (resumeWaiter w s) := by
  unfold resumeWaiter
  rw [if_neg (by omega), if_pos (by omega), hreq, Nat.add_sub_cancel_left, hkey, hx]
  exact h.complete ..

theorem releaseWaiters_tile_other {j : Nat} (h : (getTile s j).run ≠ .waitSync) : getTile (releaseWaiters k s) j = getTile s j := by
  unfold releaseWaiters
  split
  · rfl
  · refine each_preserves (P := fun u => getTile u j = getTile s j) rfl fun a u hu => ?_
    have hj : getTile (synAnswer a.req k (synVal u k) u) j = getTile s j := (getTile_congr (synAnswer_keeps.at .tiles rfl)).trans hu
    rw [resumeWaiter_tile_other (hj ▸ h), hj]

theorem releaseWaiters_waits (h : synDead s k = false) :
    (releaseWaiters k s).waits = s.waits.filter (fun w => !(decide (w.obj = k) && synCond s k w.eq w.v)) := by
  unfold releaseWaiters
  rw [if_neg (by simp [h])]
  refine each_preserves (P := fun u => u.waits = s.waits.filter (fun w => !(decide (w.obj = k) && synCond s k w.eq w.v))) rfl fun a u hu => ?_
  have hsame : (resumeWaiter a (synAnswer a.req k (synVal u k) u)).waits = u.waits :=
    (resumeWaiter_keeps.at .waits rfl).trans (synAnswer_keeps.at .waits rfl)
  exact hsame.trans hu

/-- An object that waits on nothing more: every waiter left has its condition still to come. -/
theorem releaseWaiters_cond (h : synDead s k = false) :
    ∀ x ∈ (releaseWaiters k s).waits, x.obj = k → synCond (releaseWaiters k s) k x.eq x.v = false := by
  intro x hx hobj
  rw [releaseWaiters_waits h, List.mem_filter] at hx
  rw [synCond_eq_of_regs fun off => releaseWaiters_keeps.getReg_eq rfl]
  simpa [hobj] using hx.2

/-! ### An operation at the home -/

/-- The state in which an operation reaches its object. -/
def requested (op : SynOp) (who k v : Nat) (s : State) : State := synCount k (synFlit op who k v s)

theorem requested_keeps : Keeps [.cnt, .hif, .links, .alert] s (requested op who k v s) :=
  Keeps.after (synFlit_keeps.weaken rfl) synCount_keeps rfl

theorem requested_reg {off : Nat} : getReg (requested op who k v s) off = getReg s off := requested_keeps.getReg_eq rfl

/-- The state in which the object's operation is done and answered, and its waiters go on. -/
def performed (op : SynOp) (who k v : Nat) (s : State) : State :=
  synAnswer who k (synVal s k) (synApply op who k v (requested op who k v s)).1

theorem performed_keeps : Keeps [.regSyn, .cnt, .hif, .links, .trc, .alert] s (performed op who k v s) :=
  (Keeps.after (requested_keeps.weaken rfl) synApply_keeps rfl).after synAnswer_keeps rfl

theorem performed_reg {off : Nat} : getReg (performed op who k v s) off = getReg (synApply op who k v s).1 off :=
  (synAnswer_keeps.getReg_eq rfl).trans ((synApply_eq_of_regs fun _ => requested_reg).1 off)

theorem synPerform_eq : synPerform op who k v s = (releaseWaiters k (performed op who k v s), (synApply op who k v s).2) := by
  have hok : (synApply op who k v (requested op who k v s)).2 = (synApply op who k v s).2 := (synApply_eq_of_regs fun _ => requested_reg).2
  rw [← hok]
  rfl

theorem synPerform_reg {off : Nat} : getReg (synPerform op who k v s).1 off = getReg (synApply op who k v s).1 off := by
  rw [synPerform_eq]
  exact (releaseWaiters_keeps.getReg_eq rfl).trans performed_reg

theorem synPerform_cond (h : synDead s k = false) :
    ∀ x ∈ (synPerform op who k v s).1.waits, x.obj = k → synCond (synPerform op who k v s).1 k x.eq x.v = false := by
  rw [synPerform_eq]
  have hglb : (performed op who k v s).glb = s.glb := performed_keeps.glb_eq rfl
  exact releaseWaiters_cond (by rw [synDead, hglb]; exact h)

theorem synPerform_tile {j : Nat} (h : (getTile s j).run ≠ .waitSync) : getTile (synPerform op who k v s).1 j = getTile s j := by
  rw [synPerform_eq]
  have hj : getTile (performed op who k v s) j = getTile s j := getTile_congr (performed_keeps.at .tiles rfl)
  exact (releaseWaiters_tile_other (hj ▸ h)).trans hj

/-! ### A wait -/

theorem joinWait_met {eq : Bool} (hd : synDead s w.obj = false) (heq : w.eq = eq) (hc : synCond s w.obj eq w.v = true) :
    joinWait w s = resumeWaiter w (synAnswer w.req w.obj (synVal s w.obj) (requested (if eq then .waitEq else .waitGe) w.req w.obj w.v s)) := by
  subst heq
  unfold joinWait
  rw [if_neg (by simp [hd])]
  have hmet : synCond (requested (if w.eq then .waitEq else .waitGe) w.req w.obj w.v s) w.obj w.eq w.v = true :=
    (synCond_eq_of_regs fun _ => requested_reg).trans hc
  refine (if_pos hmet).trans ?_
  have hval : synVal (requested (if w.eq then .waitEq else .waitGe) w.req w.obj w.v s) w.obj = synVal s w.obj := requested_reg
  rw [← hval]
  rfl

/-- The state in which a wait finds its condition met, answered. -/
theorem joinWait_answered_keeps {x : Nat} : Keeps [.cnt, .hif, .links, .alert] s (synAnswer who k x (requested op who k v s)) :=
  requested_keeps.after synAnswer_keeps rfl

theorem joinWait_met_keeps {eq : Bool} (hd : synDead s w.obj = false) (heq : w.eq = eq) (hc : synCond s w.obj eq w.v = true) :
    (joinWait w s).waits = s.waits ∧ ∀ off, getReg (joinWait w s) off = getReg s off := by
  rw [joinWait_met hd heq hc]
  exact ⟨(resumeWaiter_keeps.at .waits rfl).trans (joinWait_answered_keeps.at .waits rfl),
    fun off => (resumeWaiter_keeps.getReg_eq rfl).trans (joinWait_answered_keeps.getReg_eq rfl)⟩

theorem joinWait_waits {eq : Bool} (hd : synDead s w.obj = false) (heq : w.eq = eq) (hc : synCond s w.obj eq w.v = false) :
    joinWait w s = { requested (if eq then .waitEq else .waitGe) w.req w.obj w.v s with waits := s.waits ++ [w] } := by
  subst heq
  unfold joinWait
  rw [if_neg (by simp [hd])]
  have hno : synCond (requested (if w.eq then .waitEq else .waitGe) w.req w.obj w.v s) w.obj w.eq w.v = false :=
    (synCond_eq_of_regs fun _ => requested_reg).trans hc
  refine (if_neg (by rw [Bool.not_eq_true]; exact hno)).trans ?_
  have hwaits : (requested (if w.eq then .waitEq else .waitGe) w.req w.obj w.v s).waits = s.waits := requested_keeps.at .waits rfl
  rw [← hwaits]
  rfl

/-! ### SYNC of a tile (O40) -/

variable {c word so : Nat} {T : Tile}

/-- The request of a wait. -/
def waitOf (s : State) (req obj : Nat) (eq : Bool) (v key : Nat) : Waiter := { req := req, obj := obj, eq := eq, v := v, key := key, t0 := s.clk.now }

/-- What a SYNC of a tile does with the object and the value of its registers. -/
def tileRequest (op : SynOp) (c so v rd : Nat) (s : State) : State :=
  match op with
  | .waitGe | .waitEq =>
    joinWait (waitOf s c so (decide (op = .waitEq)) v 0) (setTile c { getTile s c with run := .waitSync } s)
  | .trydec => updTile c (fun t => advance (setP rd (if (synApply .trydec c so v s).2 then 2 ^ 64 - 1 else 0) t)) (synPerform .trydec c so v s).1
  | _ => updTile c (fun t => advance (setS rd (synVal s so) t)) (synPerform op c so v s).1

theorem syncTile_issues (h : Issues s c 0x38 word) (hrun : (getTile s c).run ≠ .waitSync) (hfn : bitsOf word 0 3 = op.code)
    (hd : synDead s (getS (getTile s c) (fRa word) % 128) = false) :
    syncTile op c s = tileRequest op c (getS (getTile s c) (fRa word) % 128) (getS (getTile s c) (fRb word)) (fRd word) s := by
  obtain ⟨hexec, rfl, hpc⟩ := h
  have hcode : op.code ≠ 7 := by cases op <;> decide
  unfold syncTile
  dsimp only
  rw [if_neg (by simp [hexec, hrun]), if_neg (hfn ▸ hcode), if_neg (not_not.mpr hfn), if_neg (by omega)]
  simp only [hd, Bool.false_eq_true, if_false]
  cases op
  case trydec =>
    dsimp only
    rw [tileRequest, synPerform_eq]
  all_goals rfl

theorem syncTile_faults (h : Issues s c 0x38 word) (hrun : (getTile s c).run ≠ .waitSync) (hfn : bitsOf word 0 3 = 7) :
    syncTile op c s = tileFault c 2 s := by
  obtain ⟨hexec, rfl, hpc⟩ := h
  unfold syncTile
  dsimp only
  rw [if_neg (by simp [hexec, hrun]), if_pos hfn]

theorem tileRequest_met {eq : Bool} (hop : op = if eq then .waitEq else .waitGe) (hd : synDead s so = false) (hc : synCond s so eq v = true)
    {rd : Nat} (hcl : c < 1024) : getTile (tileRequest op c so v rd s) c = advance (getTile s c) ∧ (tileRequest op c so v rd s).waits = s.waits ∧
      synVal (tileRequest op c so v rd s) so = synVal s so := by
  let w := waitOf s c so eq v 0
  let u := setTile c { getTile s c with run := .waitSync } s
  have heq : tileRequest op c so v rd s = joinWait w u := by
    subst hop
    cases eq <;> rfl
  obtain ⟨hwaits, hreg⟩ := joinWait_met_keeps (w := w) (s := u) hd rfl hc
  refine ⟨?_, heq ▸ hwaits, heq ▸ hreg _⟩
  rw [heq, joinWait_met (w := w) (s := u) hd rfl hc]
  exact resumeWaiter_tile_same rfl hcl ((getTile_congr (joinWait_answered_keeps.at .tiles rfl)).trans getTile_setTile_same)

theorem tileRequest_waits {eq : Bool} (hop : op = if eq then .waitEq else .waitGe) (hd : synDead s so = false) (hc : synCond s so eq v = false)
    {rd : Nat} : getTile (tileRequest op c so v rd s) c = { getTile s c with run := .waitSync } ∧
      (tileRequest op c so v rd s).waits = s.waits ++ [waitOf s c so eq v 0] := by
  let w := waitOf s c so eq v 0
  let u := setTile c { getTile s c with run := .waitSync } s
  have heq : tileRequest op c so v rd s = joinWait w u := by
    subst hop
    cases eq <;> rfl
  rw [heq, joinWait_waits (w := w) (s := u) hd rfl hc]
  refine ⟨?_, rfl⟩
  have htile : getTile u c = { getTile s c with run := .waitSync } := getTile_setTile_same
  exact (getTile_congr (requested_keeps.at .tiles rfl)).trans htile

/-- An operation that answers `s[rd]`. -/
theorem tileRequest_answers {rd : Nat} (hop : op ∈ [SynOp.add, SynOp.sub, SynOp.set, SynOp.read]) (hrun : (getTile s c).run ≠ .waitSync)
    (hd : synDead s so = false) :
    getTile (tileRequest op c so v rd s) c = advance (setS rd (synVal s so) (getTile s c)) ∧
      (∀ off, getReg (tileRequest op c so v rd s) off = getReg (synApply op c so v s).1 off) ∧
      ∀ x ∈ (tileRequest op c so v rd s).waits, x.obj = so → synCond (tileRequest op c so v rd s) so x.eq x.v = false := by
  have heq : tileRequest op c so v rd s = updTile c (fun t => advance (setS rd (synVal s so) t)) (synPerform op c so v s).1 := by
    fin_cases hop <;> rfl
  rw [heq]
  refine ⟨?_, fun off => synPerform_reg, synPerform_cond hd⟩
  rw [getTile_updTile_same, synPerform_tile hrun]

theorem tileRequest_trydec {rd : Nat} (hrun : (getTile s c).run ≠ .waitSync) :
    getTile (tileRequest .trydec c so v rd s) c =
        advance (setP rd (if (synApply .trydec c so v s).2 then 2 ^ 64 - 1 else 0) (getTile s c)) ∧
      ∀ off, getReg (tileRequest .trydec c so v rd s) off = getReg (synApply .trydec c so v s).1 off := by
  constructor
  · rw [tileRequest, getTile_updTile_same, synPerform_tile hrun]
  · exact fun off => (updTile_keeps.getReg_eq rfl).trans synPerform_reg

/-- Settles O40: SYNC carries its registers to the object (`syncTile_issues`), and the tile goes on with the answer or waits (R196, R379, R383). -/
theorem syncOfATile : Obligations.SyncOfATile := by
  unfold Obligations.SyncOfATile
  rintro s c word _ _ T rfl hissue hrun rfl rfl hd
  have hrequest : ∀ op : SynOp, bitsOf word 0 3 = op.code → syncTile op c s =
      tileRequest op c (getS (getTile s c) (fRa word) % 128) (getS (getTile s c) (fRb word)) (fRd word) s :=
    fun op hfn => syncTile_issues hissue hrun hfn hd
  refine ⟨?answers, ?trydec, ?geMet, ?geWaits, ?eqMet, ?eqWaits, ?faults⟩
  case answers =>
    intro op hop hfn
    obtain ⟨htile, hreg, hwaits⟩ := tileRequest_answers (v := getS (getTile s c) (fRb word)) (rd := fRd word) hop hrun hd
    refine ⟨_, ?_, htile, hreg _, congrArg (Nat.testBit · 2) (hreg _), hwaits⟩
    rw [← hrequest op hfn]
    fin_cases hop <;> rfl
  case trydec =>
    intro hfn
    obtain ⟨htile, hreg⟩ := tileRequest_trydec (v := getS (getTile s c) (fRb word)) (rd := fRd word) hrun
    exact ⟨_, congrArg Host.Outcome.next (hrequest .trydec hfn), htile, hreg _⟩
  case geMet =>
    intro hfn hc
    have h := tileRequest_met (c := c) (op := .waitGe) (eq := false) (rd := fRd word) rfl hd hc c.isLt
    exact ⟨_, congrArg Host.Outcome.next (hrequest .waitGe hfn), h⟩
  case geWaits =>
    intro hfn hc
    have h := tileRequest_waits (c := c) (op := .waitGe) (eq := false) (rd := fRd word) rfl hd hc
    exact ⟨_, congrArg Host.Outcome.next (hrequest .waitGe hfn), h⟩
  case eqMet =>
    intro hfn hc
    have h := tileRequest_met (c := c) (op := .waitEq) (eq := true) (rd := fRd word) rfl hd hc c.isLt
    exact ⟨_, congrArg Host.Outcome.next (hrequest .waitEq hfn), h⟩
  case eqWaits =>
    intro hfn hc
    have h := tileRequest_waits (c := c) (op := .waitEq) (eq := true) (rd := fRd word) rfl hd hc
    exact ⟨_, congrArg Host.Outcome.next (hrequest .waitEq hfn), h⟩
  case faults =>
    intro hfn i hi
    refine ⟨tileFault c 2 s, ?_, getTile_tileFault_same, tileFault_keeps.at .waits rfl, tileFault_keeps.getReg_eq rfl⟩
    fin_cases hi <;> exact congrArg Host.Outcome.next (syncTile_faults hissue hrun hfn)

/-! ### What a descriptor's SYNC leaves of it -/

variable {q pos : Nat} {b : List Byte}

theorem setRegIn_posts {base off x : Nat} : PostsMore s (setRegIn base off x s) := by
  unfold setRegIn
  exact posts_ite ⟨rfl, fun _ h => h⟩ (.refl s)

theorem synAdd_posts : PostsMore s (synAdd who k v s) := by
  have hfull : PostsMore s (bump 84 1 (setSynSat k true (setSyn k (2 ^ 32 - 1) s))) := (setRegIn_posts.trans setRegIn_posts).trans bump_posts
  unfold synAdd
  exact posts_ite (.refl s) (posts_ite (posts_ite hfull (hfull.trans raiseOn_posts)) setRegIn_posts)

theorem synApply_posts : PostsMore s (synApply op who k v s).1 := by
  cases op with
  | add =>
    simp only [synApply]
    split_ifs
    · exact setRegIn_posts
    · exact setRegIn_posts
    · exact .refl s
    · exact synAdd_posts
  | sub =>
    simp only [synApply]
    split_ifs
    · exact setRegIn_posts
    · exact setRegIn_posts
    · exact .refl s
    · exact setRegIn_posts
  | set =>
    simp only [synApply]
    split_ifs
    · exact setRegIn_posts
    · exact setRegIn_posts
    · exact setRegIn_posts
    · exact setRegIn_posts.trans setRegIn_posts
  | trydec =>
    simp only [synApply]
    split_ifs
    · exact setRegIn_posts
    · exact .refl s
    · exact setRegIn_posts
    · exact .refl s
    · exact setRegIn_posts
    · exact .refl s
  | waitGe | waitEq | read => exact .refl s

theorem requested_posts : PostsMore s (requested op who k v s) := (synFlit_keeps.posts rfl).trans bump_posts

theorem performed_posts : PostsMore s (performed op who k v s) :=
  (requested_posts.trans synApply_posts).trans (synAnswer_keeps.posts rfl)

theorem each_preserves_mem {α : Type} {as : List α} {f : α → State → State} {P : State → Prop} (h : P s) (hf : ∀ a ∈ as, ∀ v, P v → P (f a v)) :
    P (each as f s) := by
  induction as generalizing s with
  | nil => exact h
  | cons a as ih =>
    exact ih (hf a List.mem_cons_self s h) fun b hb => hf b (List.mem_cons_of_mem a hb)

theorem Executes.resumeWaiter (h : Executes q pos s) (hw : ¬(w.req = 1024 + q ∧ w.key = pos)) : Executes q pos (Machine.resumeWaiter w s) := by
  unfold Machine.resumeWaiter
  split
  · exact h.posts (updTile_keeps.posts rfl)
  · split
    · exact h.after_other (by omega)
    · exact h.posts (updSheaf_keeps.posts rfl)

theorem Executes.releaseWaiters (h : Executes q pos s) (hw : ∀ w ∈ s.waits, ¬(w.req = 1024 + q ∧ w.key = pos)) :
    Executes q pos (Machine.releaseWaiters k s) := by
  unfold Machine.releaseWaiters
  split
  · exact h
  · refine each_preserves_mem h fun a ha u hu => ?_
    exact (hu.posts (synAnswer_keeps.posts rfl)).resumeWaiter (hw a (List.mem_filter.mp ha).1)

theorem Executes.synPerform (h : Executes q pos s) (hw : ∀ w ∈ s.waits, ¬(w.req = 1024 + q ∧ w.key = pos)) :
    Executes q pos (Machine.synPerform op who k v s).1 := by
  rw [synPerform_eq]
  have hwaits : (performed op who k v s).waits = s.waits := performed_keeps.at .waits rfl
  exact (h.posts performed_posts).releaseWaiters (hwaits ▸ hw)

/-! ### SYNC_OP (O41) -/

/-- What a descriptor's SYNC does with its object and value. -/
def descRequest (op : SynOp) (q pos so v : Nat) (u : State) : State :=
  match op with
  | .waitGe | .waitEq => joinWait (waitOf u (1024 + q) so (decide (op = .waitEq)) v pos) u
  | _ => complete q pos 0 (synVal u so) (b2n (synApply op (1024 + q) so v u).2) 0 (synPerform op (1024 + q) so v u).1

theorem syncDesc_request (h : runnable s q pos 0x28 (syncOp op) = some b) (hso : byteAt b 16 < 128) (hop : byteAt b 17 = op.code)
    (hd : synDead s (byteAt b 16) = false) (hw : s.waits.any (fun w => decide (w.req = 1024 + q ∧ w.key = pos)) = false) :
    syncDesc op q pos s = descRequest op q pos (byteAt b 16) (leAt b 20 4) (startDesc q pos s) := by
  have hcode : op.code < 7 := by cases op <;> decide
  have hd' : synDead (startDesc q pos s) (byteAt b 16) = false := hd
  have hw' : (startDesc q pos s).waits.any (fun w => decide (w.req = 1024 + q ∧ w.key = pos)) = false := hw
  unfold syncDesc
  rw [descRun_runs h]
  dsimp only
  rw [if_neg (by omega), if_neg (by simp [hd']), if_neg (by simp only [hw', Bool.false_eq_true, not_false_iff])]
  cases op
  case waitGe | waitEq => rfl
  all_goals
    dsimp only [descRequest]
    rw [synPerform_eq]

theorem syncDesc_dead (h : runnable s q pos 0x28 (syncOp op) = some b) (hso : byteAt b 16 < 128) (hop : byteAt b 17 = op.code)
    (hd : synDead s (byteAt b 16) = true) : syncDesc op q pos s = complete q pos 0x4A 0 0 0 (startDesc q pos s) := by
  have hcode : op.code < 7 := by cases op <;> decide
  have hd' : synDead (startDesc q pos s) (byteAt b 16) = true := hd
  unfold syncDesc
  rw [descRun_runs h]
  dsimp only
  rw [if_neg (by omega), if_pos hd']

/-- No SYNC_OP of the descriptor waits. -/
theorem noWaiter_of_any (h : s.waits.any (fun w => decide (w.req = 1024 + q ∧ w.key = pos)) = false) :
    ∀ w ∈ s.waits, ¬(w.req = 1024 + q ∧ w.key = pos) := by
  simpa using h

theorem descRequest_completes (h : Executes q pos u) (hw : ∀ w ∈ u.waits, ¬(w.req = 1024 + q ∧ w.key = pos))
    (hop : op ∈ [SynOp.add, SynOp.sub, SynOp.set, SynOp.trydec, SynOp.read]) {so : Nat} :
    Completed q pos 0 (synVal u so) (b2n (synApply op (1024 + q) so v u).2) 0 (descRequest op q pos so v u) ∧
      synVal (descRequest op q pos so v u) so = synVal (synApply op (1024 + q) so v u).1 so := by
  have heq : descRequest op q pos so v u =
      complete q pos 0 (synVal u so) (b2n (synApply op (1024 + q) so v u).2) 0 (synPerform op (1024 + q) so v u).1 := by
    fin_cases hop <;> rfl
  rw [heq]
  exact ⟨(h.synPerform hw).complete .., (complete_keeps.getReg_eq rfl).trans synPerform_reg⟩

theorem waitEq_completes {so : Nat} (h : Executes q pos u) (hq : q < 16) (hd : synDead u so = false) (hc : synCond u so true v = true) :
    Completed q pos 0 (synVal u so) 0 0 (descRequest .waitEq q pos so v u) ∧ (descRequest .waitEq q pos so v u).waits = u.waits := by
  let w := waitOf u (1024 + q) so true v pos
  have heq : descRequest .waitEq q pos so v u = joinWait w u := rfl
  refine ⟨?_, heq ▸ (joinWait_met_keeps (w := w) hd rfl hc).1⟩
  rw [heq, joinWait_met (w := w) hd rfl hc]
  exact resumeWaiter_completes rfl hq rfl ((h.posts requested_posts).posts (synAnswer_keeps.posts rfl)) (joinWait_answered_keeps.getReg_eq rfl)

theorem syncTimeout_waits {d : Desc} (hw : s.waits.find? (fun w => w.req = 1024 + q) = some w) (hd : findDesc s q w.key = some d)
    (h : leAt d.bytes 24 4 = 0 ∨ s.clk.now < w.t0 + 1000 * leAt d.bytes 24 4) : syncTimeout q s = s := by
  unfold syncTimeout
  rw [hw]
  dsimp only
  rw [hd]
  exact if_pos h

theorem syncTimeout_ends {d : Desc} (hw : s.waits.find? (fun w => w.req = 1024 + q) = some w) (hd : findDesc s q w.key = some d)
    (h0 : leAt d.bytes 24 4 ≠ 0) (h : w.t0 + 1000 * leAt d.bytes 24 4 ≤ s.clk.now) :
    syncTimeout q s = bump 85 1 (complete q w.key 0x48 0 0 0 { s with waits := s.waits.filter (fun x => x ≠ w) }) := by
  unfold syncTimeout
  rw [hw]
  dsimp only
  rw [hd]
  exact if_neg (by omega)

/-! ### A gate's time-out (R387) -/

theorem leaveSheaf_waits {mid : Nat} : ∀ y ∈ (leaveSheaf mid s).waits, y ∈ s.waits := by
  intro y hy
  unfold leaveSheaf at hy
  extract_lets s1 gone s2 dead at hy
  have hwaits : s2.waits = s.waits :=
    each_preserves (P := fun u => u.waits = s.waits) rfl fun a u hu => by
      split
      · exact (refund_keeps.at .waits rfl).trans hu
      · exact hu
  rw [← hwaits]
  exact (List.mem_filter.mp hy).1

/-- Every sheaf after a message has left is one of before without it. -/
theorem leaveSheaf_sheaves {mid : Nat} : ∀ y ∈ (leaveSheaf mid s).sheaves, ∃ x ∈ s.sheaves, y.members = without mid x.members := by
  intro y hy
  unfold leaveSheaf at hy
  extract_lets s1 gone s2 dead at hy
  have hsheaves : s2.sheaves = s1.sheaves :=
    each_preserves (P := fun u => u.sheaves = s1.sheaves) rfl fun a u hu => by
      split
      · exact (refund_keeps.at .sheaves rfl).trans hu
      · exact hu
  have hy1 : y ∈ s1.sheaves := hsheaves ▸ (List.mem_filter.mp hy).1
  obtain ⟨x, hx, rfl⟩ := List.mem_map.mp hy1
  exact ⟨x, hx, rfl⟩

theorem not_mem_without {α : Type} [DecidableEq α] {a : α} {l : List α} : a ∉ without a l := by simp [without]

/-- The messages that have left are members of no sheaf. -/
theorem each_leaveSheaf_members {ms : List Nat} : ∀ m ∈ ms, ∀ y ∈ (each ms leaveSheaf s).sheaves, m ∉ y.members := by
  refine each_establishes (P := fun m u => ∀ y ∈ u.sheaves, m ∉ y.members) ?_ ?_
  · intro m u y hy
    obtain ⟨x, -, hmem⟩ := leaveSheaf_sheaves y hy
    rw [hmem]
    exact not_mem_without
  · intro m m' u hu y hy
    obtain ⟨x, hx, hmem⟩ := leaveSheaf_sheaves y hy
    rw [hmem]
    exact fun hin => hu x hx (List.mem_filter.mp hin).1

/-- The gate of a sheaf is given up: its wait is gone and the event says so. -/
def gateGone (w : Waiter) (x : Sheaf) (s : State) : State :=
  raiseOn (w.req - 1040) 0x0F02 w.obj (w.req - 1040) x.slot (w.obj + 128 + 256 * b2n w.eq + 65536 * (w.v % 65536))
    { s with waits := s.waits.filter (fun y => y ≠ w) }

theorem gateTimeout_ends {x : Sheaf} {sid : Nat} (hw : s.waits.find? (fun w => decide (1040 ≤ w.req ∧ w.key = sid)) = some w)
    (hx : findSheaf s sid = some x) (h : w.t0 + 1000 * max 1 (regF s 0x2624 0 16) ≤ s.clk.now) :
    gateTimeout sid s = each x.members (failMsg stInternal) (each x.members leaveSheaf (gateGone w x s)) := by
  unfold gateTimeout
  rw [hw, hx]
  exact if_neg (Nat.not_lt.mpr h)

theorem gateTimeout_waits {x : Sheaf} {sid : Nat} (hw : s.waits.find? (fun w => decide (1040 ≤ w.req ∧ w.key = sid)) = some w)
    (hx : findSheaf s sid = some x) (h : s.clk.now < w.t0 + 1000 * max 1 (regF s 0x2624 0 16)) : gateTimeout sid s = s := by
  unfold gateTimeout
  rw [hw, hx]
  exact if_pos h

theorem gateGone_waits {x : Sheaf} : (gateGone w x s).waits = s.waits.filter (fun y => y ≠ w) := raiseOn_keeps.at .waits rfl

theorem Completed.posts {st r0 r1 r2 : Nat} (h : Completed q pos st r0 r1 r2 s) (hp : PostsMore s t) : Completed q pos st r0 r1 r2 t := by
  obtain ⟨hover, hdone⟩ := h
  have hsq : getSq t q = getSq s q := hp.getSq q
  refine ⟨by rw [findDesc, hsq]; exact hover, ?_⟩
  rcases hdone with ⟨d, hd, hpos⟩ | ⟨d, idx, addr, phase, time, hpos, hmem⟩
  · exact .inl ⟨d, hsq ▸ hd, hpos⟩
  · exact .inr ⟨d, idx, addr, phase, time, hpos, hp.posted _ hmem⟩

/-- Settles O41: a SYNC_OP reaches its object once (`syncDesc_request`), completes unless it waits, and ends by its time-out (R379, R383, R385,
R387, R389). -/
theorem syncOfADescriptor : Obligations.SyncOfADescriptor := by
  unfold Obligations.SyncOfADescriptor
  refine ⟨?operation, ?waits, ?met, ?dead, ?timeout, ?gate⟩
  case operation =>
    intro s q pos b op hop hrun hso hcode hd hw
    obtain ⟨hdone, hval⟩ := descRequest_completes (v := leAt b 20 4) (so := byteAt b 16) (startDesc_executes hrun) (noWaiter_of_any hw) hop
    have happly := synApply_eq_of_regs (op := op) (who := 1024 + q) (k := byteAt b 16) (v := leAt b 20 4)
      (fun off => (startDesc_keeps.getReg_eq rfl : getReg (startDesc q pos s) off = getReg s off))
    refine ⟨_, ?_, happly.2 ▸ hdone, hval.trans (happly.1 _)⟩
    rw [← syncDesc_request hrun hso hcode hd hw]
    fin_cases hop <;> rfl
  case waits =>
    intro s q pos b hrun hso hcode hd hw hc
    let w := waitOf (startDesc q pos s) (1024 + q) (byteAt b 16) false (leAt b 20 4) pos
    have heq : syncDesc .waitGe q pos s = _ := (syncDesc_request hrun hso hcode hd hw).trans
      (joinWait_waits (w := w) (s := startDesc q pos s) hd rfl hc)
    refine ⟨_, congrArg Host.Outcome.next heq, ?_, rfl⟩
    exact (startDesc_executes hrun).posts (requested_posts.trans ⟨rfl, fun _ h => h⟩)
  case met =>
    intro s q pos b hrun hso hcode hd hw hc
    obtain ⟨hdone, hwaits⟩ := waitEq_completes (v := leAt b 20 4) (startDesc_executes hrun) q.isLt
      (show synDead (startDesc q pos s) (byteAt b 16) = false from hd) hc
    exact ⟨_, congrArg Host.Outcome.next (syncDesc_request hrun hso hcode hd hw), hdone, hwaits⟩
  case dead =>
    intro s q pos b hrun hso hcode hd
    have hregs : (complete q pos 0x4A 0 0 0 (startDesc q pos s)).regs = (startDesc q pos s).regs := complete_host.regs_eq
    exact ⟨_, congrArg Host.Outcome.next (syncDesc_dead hrun hso hcode hd), (startDesc_executes hrun).complete .., hregs⟩
  case timeout =>
    intro s q w d hw hd
    refine ⟨fun h0 h => ?_, fun h => congrArg Host.Outcome.next (syncTimeout_waits hw hd h)⟩
    let u := { s with waits := s.waits.filter (fun x => x ≠ w) }
    have hopen : findDesc u q w.key = some d := hd
    refine ⟨_, congrArg Host.Outcome.next (syncTimeout_ends hw hd h0 h), (complete_completed hopen).posts bump_posts, ?_, ?_⟩
    · have hwaits : (complete q w.key 0x48 0 0 0 u).waits = u.waits := complete_keeps.at .waits rfl
      exact (bump_keeps.at .waits rfl : _ = _).trans hwaits
    · have hcount : Same (count 85) u (complete q w.key 0x48 0 0 0 u) := complete_count (by decide) (by decide)
      exact Counted.before ((show Same (count 85) s u from rfl).trans hcount) (bump_counted (by decide))
  case gate =>
    intro s w x hw hx
    refine ⟨fun h => ?_, fun h => congrArg Host.Outcome.next (gateTimeout_waits hw hx h)⟩
    refine ⟨_, congrArg Host.Outcome.next (gateTimeout_ends hw hx h), ?_, ?_, ?_⟩
    · refine each_preserves (P := fun u => w ∉ u.waits) ?_ fun m u hu hin => hu (leaveSheaf_waits w hin)
      rw [gateGone_waits]
      simp
    · exact fun y hy m hm => each_leaveSheaf_members m hm y hy
    · have hgone : (gateGone w x s).msgs = s.msgs := raiseOn_keeps.at .msgs rfl
      exact each_preserves (P := fun u => u.msgs = s.msgs) hgone fun m u hu => (leaveSheaf_keeps.at .msgs rfl).trans hu

end Sys2Proof.Machine
end

section
/-! PROOF. Messages, frames and backbone interfaces: what a read returns after an update, what bringing the interfaces up to date leaves, and the
backbone's pauses, sending side and servo (O21, O22, O23 and O26). -/
namespace Sys2Proof.Machine

variable {s t u : State} {l k mid fid : Nat}

/-! ### Reads after updates -/

section
variable {α : Type} {p : α → Bool} {f : α → α} {a : α} {as : List α}

/-- A pointwise update of the elements of a kind updates the first of that kind. -/
theorem find?_map_if (hf : ∀ x, p x = true → p (f x) = true) : (as.map (fun x => if p x = true then f x else x)).find? p = (as.find? p).map f := by
  induction as with
  | nil => rfl
  | cons x xs ih =>
    rw [List.map_cons, List.find?_cons, List.find?_cons, ih]
    by_cases hx : p x = true
    · rw [if_pos hx, hf x hx, hx]
      rfl
    · rw [if_neg hx]
      simp [hx]

/-- A pointwise update of the elements of another kind changes nothing. -/
theorem find?_map_if_other {q : α → Bool} (hq : ∀ x, q x = true → p x = false) (hf : ∀ x, q x = true → p (f x) = false) :
    (as.map (fun x => if q x = true then f x else x)).find? p = as.find? p := by
  induction as with
  | nil => rfl
  | cons x xs ih =>
    rw [List.map_cons, List.find?_cons, List.find?_cons, ih]
    by_cases hx : q x = true
    · rw [if_pos hx, hf x hx, hq x hx]
    · rw [if_neg hx]

/-- The first element of a kind is found again where a filter keeps it. -/
theorem find?_filter_of_keeps {q : α → Bool} (h : as.find? p = some a) (ha : q a = true) : (as.filter q).find? p = some a := by
  induction as with
  | nil => simp at h
  | cons x xs ih =>
    rw [List.find?_cons] at h
    by_cases hx : p x = true
    · simp only [hx, Option.some.injEq] at h
      subst h
      rw [List.filter_cons_of_pos ha, List.find?_cons, hx]
    · simp only [hx] at h
      by_cases hq : q x = true
      · rw [List.filter_cons_of_pos hq, List.find?_cons]
        simp [hx, ih h]
      · rw [List.filter_cons_of_neg hq, ih h]

end

theorem findMsg_updMsg_same {f : Msg → Msg} (hf : ∀ m : Msg, m.mid = mid → (f m).mid = mid) :
    findMsg (updMsg mid f s) mid = (findMsg s mid).map f := by
  have h := find?_map_if (p := fun m : Msg => decide (m.mid = mid)) (f := f) (as := s.msgs) (by simpa using hf)
  simpa [findMsg, updMsg] using h

theorem findMsg_updMsg_other {f : Msg → Msg} (hk : k ≠ mid) (hf : ∀ m : Msg, m.mid = mid → (f m).mid = mid) :
    findMsg (updMsg mid f s) k = findMsg s k := by
  have h := find?_map_if_other (p := fun m : Msg => decide (m.mid = k)) (q := fun m : Msg => decide (m.mid = mid)) (f := f) (as := s.msgs)
    (by simp; omega) (by intro m hm; have := hf m (by simpa using hm); simp; omega)
  simpa [findMsg, updMsg] using h

theorem findFrame_updFrame_same {f : Frame → Frame} (hf : ∀ x : Frame, x.fid = fid → (f x).fid = fid) :
    findFrame (updFrame fid f s) fid = (findFrame s fid).map f := by
  have h := find?_map_if (p := fun x : Frame => decide (x.fid = fid)) (f := f) (as := s.frames) (by simpa using hf)
  simpa [findFrame, updFrame] using h

theorem findFrame_updFrame_other {f : Frame → Frame} (hk : k ≠ fid) (hf : ∀ x : Frame, x.fid = fid → (f x).fid = fid) :
    findFrame (updFrame fid f s) k = findFrame s k := by
  have h := find?_map_if_other (p := fun x : Frame => decide (x.fid = k)) (q := fun x : Frame => decide (x.fid = fid)) (f := f) (as := s.frames)
    (by simp; omega) (by intro x hx; have := hf x (by simpa using hx); simp; omega)
  simpa [findFrame, updFrame] using h

theorem findFrame_congr (h : t.frames = s.frames) : findFrame t fid = findFrame s fid := by rw [findFrame, findFrame, h]

theorem findMsg_congr (h : t.msgs = s.msgs) : findMsg t mid = findMsg s mid := by rw [findMsg, findMsg, h]

theorem findFrame_dropFrame_same : findFrame (dropFrame fid s) fid = none := by
  simp [findFrame, dropFrame, List.find?_eq_none]

theorem findFrame_dropFrame_other (hk : k ≠ fid) : findFrame (dropFrame fid s) k = findFrame s k := by
  unfold findFrame dropFrame
  induction s.frames with
  | nil => rfl
  | cons x xs ih =>
    by_cases hx : x.fid = fid
    · rw [List.filter_cons_of_neg (by simpa using hx), ih, List.find?_cons]
      simp [hx, Ne.symm hk]
    · rw [List.filter_cons_of_pos (by simpa using hx), List.find?_cons, List.find?_cons, ih]

@[simp] theorem getBb_setBb_same {b : Bb} : getBb (setBb l b s) l = b := tget_tset_same _

theorem getBb_setBb_other {b : Bb} (hk : k ≠ l) : getBb (setBb l b s) k = getBb s k := tget_tset_other hk _

@[simp] theorem getBb_updBb_same {f : Bb → Bb} : getBb (updBb l f s) l = f (getBb s l) := tget_tset_same _

theorem getBb_updBb_other {f : Bb → Bb} (hk : k ≠ l) : getBb (updBb l f s) k = getBb s k := tget_tset_other hk _

theorem getBb_congr (h : t.bbs = s.bbs) : getBb t k = getBb s k := congrArg (tget Bb.init k) h

@[simp] theorem egressQ_setEgressQ_same {q : List EgrFrame} : egressQ (setEgressQ k q s) k = q := tget_tset_same _

theorem egressQ_setEgressQ_other {q : List EgrFrame} {e : Nat} (he : e ≠ k) : egressQ (setEgressQ k q s) e = egressQ s e := tget_tset_other he _

theorem egressQ_congr {e : Nat} (h : t.egress = s.egress) : egressQ t e = egressQ s e := congrArg (tget [] e) h

@[simp] theorem getStream_setStream_same {v : Stream} : getStream (setStream k v s) k = v := tget_tset_same _

@[simp] theorem getStream_updStream_same {f : Stream → Stream} : getStream (updStream k f s) k = f (getStream s k) := tget_tset_same _

theorem getStream_updStream_other {f : Stream → Stream} (hl : l ≠ k) : getStream (updStream k f s) l = getStream s l := tget_tset_other hl _

theorem getStream_congr (h : t.streams = s.streams) : getStream t k = getStream s k := congrArg (tget Stream.init k) h

/-! ### Bringing the interfaces up to date -/

/-- An interface without its frame on the wire and the pauses it asserts. -/
def inbound (b : Bb) : Bb := { b with tx := none, xoff := 0, flow := [] }

/-- Every interface is the same but for its frame on the wire and the pauses it asserts. -/
def SameIn (s t : State) : Prop := ∀ l, inbound (getBb t l) = inbound (getBb s l)

theorem SameIn.refl (s : State) : SameIn s s := fun _ => rfl

theorem SameIn.trans (a : SameIn s t) (b : SameIn t u) : SameIn s u := fun l => (b l).trans (a l)

theorem Keeps.sameIn {ps : List Piece} (h : Keeps ps s t) (hb : subParts [.bbs] ps = false) : SameIn s t :=
  fun _ => congrArg inbound (getBb_congr (h.at .bbs hb))

theorem setBb_sameIn {b : Bb} (h : inbound b = inbound (getBb s l)) : SameIn s (setBb l b s) := by
  intro k
  by_cases hk : k = l
  · subst hk
    rw [getBb_setBb_same, h]
  · rw [getBb_setBb_other hk]

theorem flowOne_sameIn {bit : Nat} : SameIn s (flowOne l bit s) := by
  unfold flowOne
  dsimp only
  split
  · exact setBb_sameIn rfl
  · split
    · exact setBb_sameIn rfl
    · exact .refl s

theorem flowCheck_sameIn : SameIn s (flowCheck l s) := by
  unfold flowCheck
  split
  · exact .refl s
  · split
    · exact setBb_sameIn rfl
    · split
      · exact .refl s
      · split
        · exact flowOne_sameIn
        · split
          · exact each_preserves (P := SameIn s) (.refl s) fun _ _ h => h.trans flowOne_sameIn
          · exact .refl s

theorem startReply_sameIn {m : Msg} {r : Reply} {a : Bool} : SameIn s (startReply l m r a s) :=
  (updMsg_keeps.sameIn rfl).trans (setBb_sameIn rfl)

theorem startEgr_sameIn {x : EgrFrame} : SameIn s (startEgr l x s) := (setEgressQ_keeps.sameIn rfl).trans (setBb_sameIn rfl)

theorem bbKick_sameIn : SameIn s (bbKick l s) := by
  unfold bbKick
  split
  · exact .refl s
  · split
    · split
      · exact .refl s
      · exact bbDropQueue_keeps.sameIn rfl
    · split
      · exact .refl s
      · dsimp only
        split
        · split
          · exact startReply_sameIn
          · exact startEgr_sameIn
        · exact startReply_sameIn
        · exact startEgr_sameIn
        · exact .refl s

theorem bbSettle_sameIn : SameIn s (bbSettle s) :=
  each_preserves (P := SameIn s) (.refl s) fun _ _ h => (h.trans flowCheck_sameIn).trans bbKick_sameIn

theorem SameIn.paused (h : SameIn s t) : (getBb t l).paused = (getBb s l).paused := by
  have hl : (inbound (getBb t l)).paused = (inbound (getBb s l)).paused := congrArg Bb.paused (h l)
  exact hl

theorem SameIn.sent (h : SameIn s t) : (getBb t l).sent = (getBb s l).sent := by
  have hl : (inbound (getBb t l)).sent = (inbound (getBb s l)).sent := congrArg Bb.sent (h l)
  exact hl

theorem SameIn.rx (h : SameIn s t) : (getBb t l).rx = (getBb s l).rx := by
  have hl : (inbound (getBb t l)).rx = (inbound (getBb s l)).rx := congrArg Bb.rx (h l)
  exact hl

/-! ### Pauses (O21) -/

theorem pauseReceived_eq {pri : Option (Fin 8)} {quanta : Nat} (hup : bbpUp s (8 + l) = true)
    (h : match pri with
      | none => bbFc s l = 1
      | some p => bbFc s l = 2 ∧ (getReg s (bbpReg (l / 4) 4)).testBit p.val = true) :
    pauseReceived l pri quanta s =
      bbSettle (updBb l (fun b => { b with paused := setBitTo b.paused (pauseBit pri) (decide (quanta ≠ 0)) }) s) := by
  unfold pauseReceived
  cases pri with
  | none => exact if_pos (by simp [hup, h])
  | some p => exact if_pos (by simp [hup, h])

theorem paused_settled {bit : Nat} {b : Bool} : (getBb (bbSettle (updBb l (fun b' => { b' with paused := setBitTo b'.paused bit b }) s)) l).paused =
    setBitTo (getBb s l).paused bit b := by
  rw [bbSettle_sameIn.paused, getBb_updBb_same]

/-- Settles O21: a pause sets or clears its own bit, and a pause that the engine asserts is repeated with its quanta (R81 to R83). -/
theorem backbonePauses : Obligations.BackbonePauses := by
  unfold Obligations.BackbonePauses
  refine ⟨?pause, ?pfc, ?expiryPfc, ?expiry, ?notDue, ?refresh⟩
  case pause =>
    intro s l quanta hup hfc
    refine ⟨_, congrArg Host.Outcome.next (pauseReceived_eq (pri := none) hup hfc), ?_⟩
    rw [paused_settled, testBit_setBitTo]
    exact if_pos rfl
  case pfc =>
    intro s l p quanta hup hfc hon
    refine ⟨_, congrArg Host.Outcome.next (pauseReceived_eq (pri := some p) hup ⟨hfc, hon⟩), ?_, fun k hk => ?_⟩
    · rw [paused_settled, testBit_setBitTo]
      exact if_pos rfl
    · rw [paused_settled, testBit_setBitTo]
      exact if_neg hk
  case expiryPfc =>
    intro s l p
    refine ⟨_, rfl, ?_, fun k hk => ?_⟩
    · rw [paused_settled, testBit_setBitTo]
      exact if_pos rfl
    · rw [paused_settled, testBit_setBitTo]
      exact if_neg hk
  case expiry =>
    intro s l
    refine ⟨_, rfl, ?_⟩
    rw [paused_settled, testBit_setBitTo]
    exact if_pos rfl
  case notDue =>
    intro s l pri hoff
    exact congrArg Host.Outcome.next (if_neg (by simp [hoff]))
  case refresh =>
    intro s l pri hup hx hf
    refine ⟨_, congrArg Host.Outcome.next (if_pos (by simp [hup, hx, hf])), ?_, ?_, fun k hk => getBb_setBb_other hk⟩
    · rw [getBb_setBb_same]
    · rw [getBb_setBb_same]

/-! ### The servo (O23) -/

variable {l domain source t1 t2 : Nat}

/-- The Sync is the configured master's. -/
def OfMaster (s : State) (l domain source : Nat) : Prop :=
  ptpServo s = true ∧ regF s (bbpReg 0 0x1C) 1 3 = l ∧ regF s (bbpReg 0 0x1C) 8 8 = domain ∧ s.ptp.master = source

/-- The offset of the engine's clock behind the path delay (R89). -/
def ptpOffset (s : State) (t1 t2 : Nat) : Int := (t2 : Int) - t1 - getReg s (bbpReg 0 0x2C)

/-- The servo follows its master again. -/
def found (s : State) : State := { s with ptp := { s.ptp with lost := false } }

/-- DEV_TIME has made up what it was behind. -/
def caughtUp (t1 t2 : Nat) (s : State) : State :=
  { found s with clk := { s.clk with devTime := s.clk.devTime + BitVec.ofInt 64 (-ptpOffset s t1 t2), slew := 0 } }

theorem ptpSync_steps (h : OfMaster s l domain source) (hoff : ptpOffset s t1 t2 < -(getReg s (bbpReg 0 0x30) : Int)) :
    ptpSync l domain source t1 t2 s = raise 0x0203 l (-ptpOffset s t1 t2).toNat 0 0 (caughtUp t1 t2 s) := by
  obtain ⟨hon, hl, hd, hm⟩ := h
  unfold ptpSync
  refine (if_pos (by simp only [hon, hm, Bool.true_and, decide_eq_true_eq]; exact ⟨hl, hd, trivial⟩)).trans ?_
  exact if_pos hoff

theorem ptpSync_slews (h : OfMaster s l domain source) (hoff : (getReg s (bbpReg 0 0x30) : Int) < ptpOffset s t1 t2) :
    ptpSync l domain source t1 t2 s =
      { found s with clk := { s.clk with slew := ptpOffset s t1 t2 - getReg s (bbpReg 0 0x30) } } := by
  obtain ⟨hon, hl, hd, hm⟩ := h
  unfold ptpSync
  refine (if_pos (by simp only [hon, hm, Bool.true_and, decide_eq_true_eq]; exact ⟨hl, hd, trivial⟩)).trans ?_
  exact (if_neg (show ¬ptpOffset s t1 t2 < -(getReg s (bbpReg 0 0x30) : Int) by omega)).trans (if_pos hoff)

theorem ptpSync_trims (h : OfMaster s l domain source) (hlo : -(getReg s (bbpReg 0 0x30) : Int) ≤ ptpOffset s t1 t2)
    (hhi : ptpOffset s t1 t2 ≤ (getReg s (bbpReg 0 0x30) : Int)) :
    ptpSync l domain source t1 t2 s =
      { found s with clk := { s.clk with trim := clampInt (-trimMax) trimMax (drawFree s).1.toInt, slew := 0 }, freeCtr := s.freeCtr + 1 } := by
  obtain ⟨hon, hl, hd, hm⟩ := h
  unfold ptpSync
  refine (if_pos (by simp only [hon, hm, Bool.true_and, decide_eq_true_eq]; exact ⟨hl, hd, trivial⟩)).trans ?_
  exact (if_neg (show ¬ptpOffset s t1 t2 < -(getReg s (bbpReg 0 0x30) : Int) by omega)).trans
    (if_neg (show ¬(getReg s (bbpReg 0 0x30) : Int) < ptpOffset s t1 t2 by omega))

/-- The Sync is lost. -/
def syncLost (s : State) : State := { s with ptp := { s.ptp with lost := true } }

theorem ptpLost_raises (hon : ptpServo s = true) (hno : s.ptp.lost = false) :
    ptpLost s = raise 0x0204 (regF s (bbpReg 0 0x1C) 1 3) 0 0 0 (syncLost s) :=
  if_pos (by simp [hon, hno])

theorem clampInt_bounds {lo hi i : Int} (h : lo ≤ hi) : lo ≤ clampInt lo hi i ∧ clampInt lo hi i ≤ hi := by
  unfold clampInt
  split_ifs <;> omega

/-- A step adds to DEV_TIME what the clock was behind. -/
theorem toNat_add_behind {x : BitVec 64} {a d : Nat} (h : d ≤ a) : (x + BitVec.ofInt 64 ((a : Int) - d)).toNat = (x.toNat + a - d) % 2 ^ 64 := by
  have hdiff : (a : Int) - d = ((a - d : Nat) : Int) := by omega
  rw [hdiff, BitVec.ofInt_natCast, BitVec.toNat_add, BitVec.toNat_ofNat, Nat.add_mod_mod, Nat.add_sub_assoc h]

/-- Settles O23: the offset lies behind, ahead of or within the threshold (R89). -/
theorem ptpServoObligation : Obligations.PtpServo := by
  unfold Obligations.PtpServo
  refine ⟨?steps, ?slews, ?trims, ?off, ?lost⟩
  case steps =>
    intro s l domain source t1 t2 hon hl hd hm hoff
    have hk := raise_keeps (a0 := 0x0203) (a1 := l.val) (a2 := (-ptpOffset s t1.toNat t2.toNat).toNat) (a3 := 0) (a4 := 0)
      (s := caughtUp t1.toNat t2.toNat s)
    refine ⟨_, congrArg Host.Outcome.next (ptpSync_steps ⟨hon, hl, hd, hm⟩ hoff), ?_, congrArg Clk.slew (hk.at .clk rfl),
      congrArg Ptp.lost (hk.at .ptp rfl)⟩
    have hneg : -ptpOffset s t1.toNat t2.toNat = ((t1.toNat + getReg s (bbpReg 0 0x2C) : Nat) : Int) - t2.toNat := by
      unfold ptpOffset
      omega
    have htime : devTime (caughtUp t1.toNat t2.toNat s) = (devTime s + (t1.toNat + getReg s (bbpReg 0 0x2C)) - t2.toNat) % 2 ^ 64 := by
      unfold devTime caughtUp
      dsimp only
      rw [hneg, toNat_add_behind (by omega)]
    rw [Nat.add_assoc, ← htime]
    exact congrArg (fun c : Clk => c.devTime.toNat) (hk.at .clk rfl)
  case slews =>
    intro s l domain source t1 t2 hon hl hd hm hoff
    exact ⟨_, congrArg Host.Outcome.next (ptpSync_slews ⟨hon, hl, hd, hm⟩ hoff), rfl, rfl, rfl⟩
  case trims =>
    intro s l domain source t1 t2 hon hl hd hm hlo hhi
    have hbounds := clampInt_bounds (lo := -trimMax) (hi := trimMax) (i := (drawFree s).1.toInt) (by decide)
    exact ⟨_, congrArg Host.Outcome.next (ptpSync_trims ⟨hon, hl, hd, hm⟩ hlo hhi), rfl, rfl, rfl, hbounds⟩
  case off =>
    intro s l domain source t1 t2 hoff
    exact congrArg Host.Outcome.next (if_neg (by simp [hoff]))
  case lost =>
    intro s hon hno
    have hk := raise_keeps (a0 := 0x0204) (a1 := regF s (bbpReg 0 0x1C) 1 3) (a2 := 0) (a3 := 0) (a4 := 0) (s := syncLost s)
    have hptp : (raise 0x0204 (regF s (bbpReg 0 0x1C) 1 3) 0 0 0 (syncLost s)).ptp = { s.ptp with lost := true } := hk.at .ptp rfl
    exact ⟨_, congrArg Host.Outcome.next (ptpLost_raises hon hno), by rw [hptp], hk.at .clk rfl, by rw [hptp]⟩

/-! ### Punts and the frames that are done with -/

/-- A frame but for its punt. -/
def unpunted (f : Frame) : Frame := { f with punt := none, paid := false }

/-- The frames are the same but for their punts. -/
def SamePunted (s t : State) : Prop := t.frames.map unpunted = s.frames.map unpunted

theorem SamePunted.trans (a : SamePunted s t) (b : SamePunted t u) : SamePunted s u := Eq.trans b a

theorem Keeps.samePunted {ps : List Piece} (h : Keeps ps s t) (hf : subParts [.frames] ps = false) : SamePunted s t :=
  congrArg (List.map unpunted) (h.at .frames hf : t.frames = s.frames)

theorem updFrame_samePunted {f : Frame → Frame} (hf : ∀ x, unpunted (f x) = unpunted x) : SamePunted s (updFrame fid f s) := by
  unfold SamePunted updFrame
  rw [List.map_map]
  refine List.map_congr_left fun x _ => ?_
  simp only [Function.comp]
  split
  · exact hf x
  · rfl

theorem payPunt_samePunted {f : Frame} : SamePunted s (payPunt f s) := by
  unfold payPunt
  split
  · rfl
  next r hr =>
    split
    · rfl
    · have htake : SamePunted s (takePunt r s).2 := takePunt_keeps.samePunted rfl
      revert htake
      generalize takePunt r s = p
      obtain ⟨ok, u⟩ := p
      intro ht
      cases ok
      · exact ht.trans (by exact updFrame_samePunted fun _ => rfl)
      · exact ht.trans (by exact updFrame_samePunted fun _ => rfl)

theorem flushPunts_samePunted {i : Nat} {fs : List Frame} : SamePunted s (flushPunts i fs s) := by
  induction fs generalizing s with
  | nil => rfl
  | cons f fs ih =>
    unfold flushPunts
    split
    · exact ih
    · split
      · rfl
      · split
        next r _ =>
          have hpunt : SamePunted s (puntFrame f r s) := puntFrame_keeps.samePunted rfl
          refine SamePunted.trans (hpunt.trans ?_) ih
          exact updFrame_samePunted fun _ => rfl
        · exact ih

/-- The punts of an ingress are settled and no frame is dropped yet. -/
def punted (i : Nat) (s : State) : State :=
  flushPunts i (each (s.frames.filter (fun f => f.ingress = i)) payPunt s).frames (each (s.frames.filter (fun f => f.ingress = i)) payPunt s)

theorem settlePunts_eq {i : Nat} : settlePunts i s = sweepFrames (punted i s) := rfl

theorem punted_samePunted {i : Nat} : SamePunted s (punted i s) :=
  SamePunted.trans (each_preserves (P := SamePunted s) rfl fun _ _ h => h.trans payPunt_samePunted) flushPunts_samePunted

theorem mem_of_samePunted (h : SamePunted s t) : ∀ x ∈ t.frames, ∃ y ∈ s.frames, unpunted y = unpunted x := by
  intro x hx
  have hmem : unpunted x ∈ s.frames.map unpunted := h ▸ List.mem_map_of_mem hx
  obtain ⟨y, hy, heq⟩ := List.mem_map.mp hmem
  exact ⟨y, hy, heq⟩

/-- Every frame after punts are settled is one of before but for its punt. -/
theorem settlePunts_mem {i : Nat} : ∀ x ∈ (settlePunts i s).frames, ∃ y ∈ s.frames, unpunted y = unpunted x := by
  intro x hx
  exact mem_of_samePunted punted_samePunted x (List.mem_filter.mp hx).1

theorem findFrame_settlePunts_none {i : Nat} (h : findFrame s fid = none) : findFrame (settlePunts i s) fid = none := by
  rw [findFrame, List.find?_eq_none] at h ⊢
  intro x hx
  obtain ⟨y, hy, heq⟩ := settlePunts_mem x hx
  have hfid : y.fid = x.fid := by
    have hf : (unpunted y).fid = (unpunted x).fid := congrArg Frame.fid heq
    exact hf
  exact hfid ▸ h y hy

theorem findFrame_samePunted (h : SamePunted s t) : (findFrame t fid).map unpunted = (findFrame s fid).map unpunted := by
  have hfind : ∀ u : State, (findFrame u fid).map unpunted = (u.frames.map unpunted).find? (fun f => f.fid = fid) := by
    intro u
    rw [findFrame, List.find?_map]
    rfl
  rw [hfind, hfind, h]

/-- A frame that still has something to wait for, whatever its punt. -/
def waitsOn (f : Frame) : Prop := f.walk ≠ .decided ∨ f.verdict = none ∨ f.wantAdmit = true

theorem waitsOn_not_spent {f : Frame} (h : waitsOn f) : spentFrame s f = false := by
  rcases h with h | h | h <;> simp [spentFrame, h]

/-- A frame that waits on stays found when punts are settled. -/
theorem findFrame_settlePunts {f : Frame} {i : Nat} (h : findFrame s fid = some f) (hw : waitsOn f) :
    ∃ g, findFrame (settlePunts i s) fid = some g ∧ unpunted g = unpunted f := by
  have hpunted := findFrame_samePunted (fid := fid) (punted_samePunted (i := i) (s := s))
  rw [h, Option.map_some, Option.map_eq_some_iff] at hpunted
  obtain ⟨g, hg, heq⟩ := hpunted
  have hwg : waitsOn g := by
    have hf : waitsOn (unpunted g) := heq ▸ hw
    exact hf
  have hspent : spentFrame (punted i s) g = false := waitsOn_not_spent hwg
  exact ⟨g, find?_filter_of_keeps hg (congrArg not hspent), heq⟩

/-! ### A site schedule frame (O26) -/

/-- The messages held are the same, whatever has become of each. -/
def heldMids (s : State) : List Nat := s.msgs.map Msg.mid

theorem updMsg_heldMids {f : Msg → Msg} (hf : ∀ m : Msg, (f m).mid = m.mid) : Same heldMids s (updMsg mid f s) := by
  unfold Same heldMids updMsg
  rw [List.map_map]
  refine List.map_congr_left fun m _ => ?_
  simp only [Function.comp]
  split
  · exact hf m
  · rfl

theorem Keeps.same_heldMids {ps : List Piece} (h : Keeps ps s t) (hm : subParts [.msgs] ps = false) : Same heldMids s t :=
  congrArg (List.map Msg.mid) (h.at .msgs hm : t.msgs = s.msgs)

theorem startReply_heldMids {l : Nat} {m : Msg} {r : Reply} {a : Bool} : Same heldMids s (startReply l m r a s) :=
  Same.trans (by exact updMsg_heldMids fun _ => rfl) (updBb_keeps.same_heldMids rfl)

theorem bbKick_heldMids {l : Nat} : Same heldMids s (bbKick l s) := by
  have hegr : ∀ x, Same heldMids s (startEgr l x s) := fun x => startEgr_keeps.same_heldMids rfl
  unfold bbKick
  refine same_ite (.refl s) (same_ite (same_ite (.refl s) (bbDropQueue_keeps.same_heldMids rfl)) (same_ite (.refl s) ?_))
  dsimp only
  split
  · exact same_ite startReply_heldMids (hegr _)
  · exact startReply_heldMids
  · exact hegr _
  · exact .refl s

theorem bbSettle_heldMids : Same heldMids s (bbSettle s) :=
  each_preserves (P := Same heldMids s) (.refl s) fun _ _ h => (h.trans (flowCheck_keeps.same_heldMids rfl)).trans bbKick_heldMids

/-- The frame has left the engine's frames and is counted. -/
def schedTaken (f : Frame) (s : State) : State := dropFrame f.fid (bbpCount (f.ingress - 8) 8 s)

theorem schedTaken_counted {f : Frame} : Counted (928 + 16 * ((f.ingress - 8) / 4) + 8) 1 s (schedTaken f s) := by
  have hcount : Counted (928 + 16 * ((f.ingress - 8) / 4) + 8) 1 s (bbpCount (f.ingress - 8) 8 s) := bump_counted (by omega)
  exact hcount.after rfl

theorem schedFrame_taken {f : Frame} (hf : findFrame s f.fid = some f) (hwalk : f.walk = .queued) (hv : f.verdict = some true)
    (hs : schedShape s f = some true) :
    schedFrame f.fid s = yokSched (schedPayload f) (settlePunts f.ingress (schedTaken f s)) := by
  unfold schedFrame
  rw [hf]
  exact if_pos ⟨hwalk, hv, hs⟩

/-- Settles O26: the frame leaves the engine's frames, is counted, and the Yoke takes its payload (R90). -/
theorem scheduleFrameTaken : Obligations.ScheduleFrameTaken := by
  unfold Obligations.ScheduleFrameTaken
  intro s f hf hwalk hv hs
  have hgone : findFrame (settlePunts f.ingress (schedTaken f s)) f.fid = none := findFrame_settlePunts_none findFrame_dropFrame_same
  refine ⟨_, schedTaken f s, congrArg (Host.Outcome.next ∘ bbSettle) (schedFrame_taken hf hwalk hv hs), rfl, ?_, ?_, ?_, ?_⟩
  · have hframes : (bbpCount (f.ingress - 8) 8 s).frames = s.frames := bbpCount_keeps.at .frames rfl
    unfold schedTaken dropFrame
    dsimp only
    rw [hframes]
  · exact schedTaken_counted
  · rw [findFrame_congr (bbSettle_keeps.at .frames rfl), findFrame_congr (yokSched_keeps.at .frames rfl), hgone]
  · rw [← schedFrame_taken hf hwalk hv hs]
    have hmids : Same heldMids s (schedFrame f.fid s) := schedFrame_keeps.same_heldMids rfl
    have hsettled : Same heldMids s (bbSettle (schedFrame f.fid s)) := hmids.trans bbSettle_heldMids
    exact hsettled

/-! ### Frames sent (O22) -/

theorem alignedReplyStart_starts {m : Msg} {r : Reply} (hm : findMsg s m.mid = some m) (hr : m.reply = some r) (ha : isAligned s m r = true)
    (hb : r.begun = false) (hst : m.status = none) (ho : isOldest s m = true) (hup : bbpUp s r.dest = true) (htx : (getBb s (r.dest - 8)).tx = none)
    (hp : bbPaused s (r.dest - 8) (framePri s (r.dest - 8) r.bytes) = false) (hd : r.dest < 16) :
    alignedReplyStart m.mid s = startReply (r.dest - 8) m r true s := by
  unfold alignedReplyStart
  rw [hm]
  dsimp only
  rw [hr]
  dsimp only
  split
  · rfl
  next hno => exact absurd (by simp [ha, hb, hst, ho, hup, htx, hp, hd]) hno

theorem startReply_tx {l : Nat} {m : Msg} {r : Reply} {a : Bool} : (getBb (startReply l m r a s) l).tx =
    some { mid := some m.mid, order := r.buildNo, aligned := a, crc := 0, bytes := r.bytes, stamp := txStamp s l } := by
  unfold startReply
  rw [getBb_updBb_same]

theorem startReply_msg {l : Nat} {m : Msg} {r : Reply} {a : Bool} (hm : findMsg s m.mid = some m) :
    findMsg (startReply l m r a s) m.mid = some { m with reply := some { r with begun := true } } := by
  unfold startReply
  have h : findMsg (updMsg m.mid (fun m => { m with reply := some { r with begun := true } }) s) m.mid =
      (findMsg s m.mid).map (fun m => { m with reply := some { r with begun := true } }) := findMsg_updMsg_same fun _ h => h
  rw [findMsg_congr (updBb_keeps.at .msgs rfl), h, hm]
  rfl

/-- The CRC of the frame on an interface's wire is decided. -/
def decided (l : Nat) (x : BbTx) (c : Nat) (s : State) : State := updBb l (fun b => { b with tx := some { x with crc := c } }) s

section
variable {l : Nat} {x : BbTx} {m : Msg}

theorem crcDecision_reply (htx : (getBb s l).tx = some x) (hmid : x.mid = some m.mid) (hm : findMsg s m.mid = some m) (ha : x.aligned = true)
    (hc : x.crc = 0) : crcDecision l s =
      if m.status.isSome ∨ m.verdict = some false then bbpCount l 6 (decided l x 2 s)
      else if m.verdict = some true then commitKv m (decided l x 1 (updMsg m.mid (fun m => { m with reply := m.reply.map (fun r => { r with committed := true }) }) s))
      else raise 0x0205 l m.stream 0 0 (bbpCount l 7 (decided l x 3 s)) := by
  obtain ⟨_, order, aligned, crc, bytes, stamp⟩ := x
  subst hmid ha hc
  unfold crcDecision
  rw [htx]
  dsimp only
  rw [hm]
  rfl

theorem decided_tx {c : Nat} : (getBb (decided l x c s) l).tx = some { x with crc := c } := by rw [decided, getBb_updBb_same]

theorem decided_keeps {c : Nat} : Keeps [.bbs] s (decided l x c s) := updBb_keeps

theorem commitKv_kvLen (hp : (getStream s m.stream).pcap ≠ 0) : (getStream (commitKv m s) m.stream).kvLen =
    min ((getStream s m.stream).kvLen + (getStream s m.stream).newPos) (getStream s m.stream).kvCap := by
  unfold commitKv
  rw [getStream_updStream_same, if_neg hp]

theorem bbpCount_counted {c : Nat} (hc : c < 64) : Counted (928 + 16 * (l / 4) + c) 1 s (bbpCount l c s) := bump_counted (by omega)

theorem late_counted : Counted (928 + 16 * (l / 4) + 7) 1 s (raise 0x0205 l m.stream 0 0 (bbpCount l 7 (decided l x 3 s))) := by
  have hcount : Counted (928 + 16 * (l / 4) + 7) 1 (decided l x 3 s) (bbpCount l 7 (decided l x 3 s)) := bbpCount_counted (by decide)
  have hraise : Same (count (928 + 16 * (l / 4) + 7)) (bbpCount l 7 (decided l x 3 s))
      (raise 0x0205 l m.stream 0 0 (bbpCount l 7 (decided l x 3 s))) := raise_count (by omega)
  exact (Counted.before (decided_keeps.same_count rfl) hcount).after hraise

theorem crcDecision_late (htx : (getBb s l).tx = some x) (hmid : x.mid = some m.mid) (hm : findMsg s m.mid = some m) (ha : x.aligned = true)
    (hc : x.crc = 0) (hst : m.status = none) (hv : m.verdict = none) :
    crcDecision l s = raise 0x0205 l m.stream 0 0 (bbpCount l 7 (decided l x 3 s)) := by
  rw [crcDecision_reply htx hmid hm ha hc, if_neg (by simp [hst, hv]), if_neg (by simp [hv])]

/-- An event and a count leave the interfaces. -/
theorem late_bb : getBb (raise 0x0205 l m.stream 0 0 (bbpCount l 7 (decided l x 3 s))) l = getBb (decided l x 3 s) l :=
  (getBb_congr (raise_keeps.at .bbs rfl)).trans (getBb_congr (bbpCount_keeps.at .bbs rfl))

/-! #### The end of a frame on the wire -/

/-- The frame has left the interface. -/
def left (l : Nat) (x : BbTx) (s : State) : State := updBb l (fun b => { b with tx := none, sent := txBytes x }) s

/-- A PUNT_RETURN completes, with its time-stamp where it asks for one. -/
def puntSent (l : Nat) (x : BbTx) (sq pos ptp p : Nat) (s : State) : State :=
  let s := if ptp = 2 then
      raise 0x0201 l x.stamp (x.stamp / 2 ^ 32) (beAt x.bytes (p + 30) 2 + 65536 * (byteAt x.bytes p % 16) + 2 ^ 20 * (l / 4)) s
    else s
  if ptp = 0 then complete sq pos 0 0 0 0 s else complete sq pos 0 x.stamp (x.stamp / 2 ^ 32) 0 s

theorem puntSent_keeps {sq pos ptp p : Nat} : Keeps [.cnt, .hif, .alert] s (puntSent l x sq pos ptp p s) := by
  unfold puntSent
  refine Keeps.after ?_ (keeps_ite complete_keeps complete_keeps) rfl
  exact keeps_ite raise_keeps (.refl s)

/-- An ordinary frame's place in its queue is free, and a PUNT_RETURN completes. -/
def egrDone (l : Nat) (x : BbTx) (s : State) : State :=
  match (egressQ s (8 + l)).find? (fun y => y.order = x.order) with
  | none => s
  | some y =>
    let s := setEgressQ (8 + l) ((egressQ s (8 + l)).filter (fun y => y.order ≠ x.order)) s
    match y.kind with
    | .puntReturn sq pos ptp p _ _ => puntSent l x sq pos ptp p s
    | _ => s

theorem crcDecision_egr (htx : (getBb s l).tx = some x) (hmid : x.mid = none) : crcDecision l s = s := by
  unfold crcDecision
  rw [htx]
  dsimp only
  rw [hmid]

theorem bbTxEnd_egr (htx : (getBb s l).tx = some x) (hmid : x.mid = none) : bbTxEnd l s = bbSettle (egrDone l x (left l x s)) := by
  unfold bbTxEnd
  rw [crcDecision_egr htx hmid]
  dsimp only
  rw [htx]
  dsimp only
  rw [hmid]
  rfl

theorem bbTxEnd_reply {y : BbTx} {mid : Nat} (htx : (getBb (crcDecision l s) l).tx = some y) (hmid : y.mid = some mid) :
    bbTxEnd l s = bbSettle (replySent l y mid (left l y (crcDecision l s))) := by
  unfold bbTxEnd
  dsimp only
  rw [htx]
  dsimp only
  rw [hmid]
  rfl

/-- From one state to another, the frames queued for an egress are of those that were, in the orders they had. -/
def FewerOrders (e : Nat) (s t : State) : Prop := ∀ y ∈ egressQ t e, ∃ z ∈ egressQ s e, z.order = y.order

theorem FewerOrders.refl {e : Nat} (s : State) : FewerOrders e s s := fun y hy => ⟨y, hy, rfl⟩

theorem FewerOrders.trans {e : Nat} (a : FewerOrders e s t) (b : FewerOrders e t u) : FewerOrders e s u := fun y hy => by
  obtain ⟨z, hz, hzy⟩ := b y hy
  obtain ⟨w, hw, hwz⟩ := a z hz
  exact ⟨w, hw, hwz.trans hzy⟩

theorem Keeps.fewerOrders {ps : List Piece} {e : Nat} (h : Keeps ps s t) (he : subParts [.egress] ps = false) : FewerOrders e s t := fun y hy =>
  ⟨y, egressQ_congr (h.at .egress he) ▸ hy, rfl⟩

theorem setEgressQ_fewerOrders {e k : Nat} {q : List EgrFrame} (h : ∀ y ∈ q, ∃ z ∈ egressQ s k, z.order = y.order) :
    FewerOrders e s (setEgressQ k q s) := fun y hy => by
  by_cases he : e = k
  · subst he
    rw [egressQ_setEgressQ_same] at hy
    exact h y hy
  · rw [egressQ_setEgressQ_other he] at hy
    exact ⟨y, hy, rfl⟩

theorem startEgr_fewerOrders {e : Nat} {y : EgrFrame} : FewerOrders e s (startEgr l y s) := by
  have hqueue : FewerOrders e s (setEgressQ (8 + l) ((egressQ s (8 + l)).map (fun z => if z.order = y.order then { z with lane := some 0 } else z)) s) := by
    refine setEgressQ_fewerOrders fun z hz => ?_
    obtain ⟨w, hw, rfl⟩ := List.mem_map.mp hz
    exact ⟨w, hw, by split <;> rfl⟩
  exact hqueue.trans (updBb_keeps.fewerOrders rfl)

theorem bbDropQueue_fewerOrders {e : Nat} : FewerOrders e s (bbDropQueue l s) := by
  unfold bbDropQueue
  refine each_preserves (P := FewerOrders e s) (setEgressQ_fewerOrders fun y hy => by simp at hy) fun y u hu => hu.trans ?_
  split
  · exact FewerOrders.trans (complete_keeps.fewerOrders rfl) (bbpCount_keeps.fewerOrders rfl)
  · exact bbpCount_keeps.fewerOrders rfl

theorem bbKick_fewerOrders {e : Nat} : FewerOrders e s (bbKick l s) := by
  have hreply : ∀ m r, FewerOrders e s (startReply l m r false s) := fun m r => startReply_keeps.fewerOrders rfl
  unfold bbKick
  split
  · exact .refl s
  · split
    · split
      · exact .refl s
      · exact bbDropQueue_fewerOrders
    · split
      · exact .refl s
      · dsimp only
        split
        · split
          · exact hreply _ _
          · exact startEgr_fewerOrders
        · exact hreply _ _
        · exact startEgr_fewerOrders
        · exact .refl s

theorem bbSettle_fewerOrders {e : Nat} : FewerOrders e s (bbSettle s) :=
  each_preserves (P := FewerOrders e s) (.refl s) fun _ _ h => (h.trans (flowCheck_keeps.fewerOrders rfl)).trans bbKick_fewerOrders

theorem egrDone_sameIn : SameIn s (egrDone l x s) := by
  have hqueue : ∀ q, SameIn s (setEgressQ (8 + l) q s) := fun q => setEgressQ_keeps.sameIn rfl
  unfold egrDone
  split
  · exact .refl s
  · dsimp only
    split
    · exact (hqueue _).trans (puntSent_keeps.sameIn rfl)
    · exact hqueue _

/-- A frame that has left its wire is gone from its queue. -/
theorem egrDone_gone : ∀ y ∈ egressQ (egrDone l x s) (8 + l), y.order ≠ x.order := by
  unfold egrDone
  split
  next hnone =>
    intro y hy
    simpa using List.find?_eq_none.mp hnone y hy
  next y hy =>
    dsimp only
    generalize hu : setEgressQ (8 + l) ((egressQ s (8 + l)).filter (fun y => y.order ≠ x.order)) s = u
    have hgone : ∀ y ∈ egressQ u (8 + l), y.order ≠ x.order := by
      intro y hy
      rw [← hu, egressQ_setEgressQ_same] at hy
      simpa using (List.mem_filter.mp hy).2
    split
    · rw [egressQ_congr (puntSent_keeps.at .egress rfl)]
      exact hgone
    · exact hgone

end

/-- Settles O22: the decision of an aligned reply's CRC by its verdict, and the end of a frame (R85, R87, R118). -/
theorem backboneSends : Obligations.BackboneSends := by
  unfold Obligations.BackboneSends
  refine ⟨?aligned, ?correct, ?bad, ?late, ?egr, ?stomped⟩
  case aligned =>
    intro s m r hm hr ha hb hst ho hup htx hp hd
    exact ⟨_, _, congrArg Host.Outcome.next (alignedReplyStart_starts hm hr ha hb hst ho hup htx hp hd), startReply_tx, rfl, rfl, rfl, rfl,
      startReply_msg hm⟩
  case correct =>
    intro s l x m htx hmid hm ha hc hst hv
    let v := updMsg m.mid (fun m => { m with reply := m.reply.map (fun r => { r with committed := true }) }) s
    have heq : crcDecision l s = commitKv m (decided l x 1 v) := by
      rw [crcDecision_reply htx hmid hm ha hc, if_neg (by simp [hst, hv]), if_pos hv]
    refine ⟨_, congrArg Host.Outcome.next heq, ?_, fun hp => commitKv_kvLen (s := decided l x 1 v) hp⟩
    rw [getBb_congr (commitKv_keeps.at .bbs rfl)]
    exact decided_tx
  case bad =>
    intro s l x m htx hmid hm ha hc hbad
    have heq : crcDecision l s = bbpCount l 6 (decided l x 2 s) := by
      rw [crcDecision_reply htx hmid hm ha hc, if_pos (by rwa [← Option.isSome_iff_ne_none] at hbad)]
    have hcount : Counted (928 + 16 * (l / 4) + 6) 1 (decided l x 2 s) (bbpCount l 6 (decided l x 2 s)) := bbpCount_counted (by decide)
    refine ⟨_, congrArg Host.Outcome.next heq, ?_, bbpCount_keeps.at .streams rfl, Counted.before (decided_keeps.same_count rfl) hcount⟩
    rw [getBb_congr (bbpCount_keeps.at .bbs rfl)]
    exact decided_tx
  case late =>
    intro s l x m htx hmid hm ha hc hst hv
    refine ⟨_, congrArg Host.Outcome.next (crcDecision_late htx hmid hm ha hc hst hv), ?_, ?_, late_counted⟩
    · rw [late_bb]
      exact decided_tx
    · have hstreams : (bbpCount l 7 (decided l x 3 s)).streams = s.streams := bbpCount_keeps.at .streams rfl
      exact (raise_keeps.at .streams rfl : _ = _).trans hstreams
  case egr =>
    intro s l x htx hmid hc
    refine ⟨_, congrArg Host.Outcome.next (bbTxEnd_egr htx hmid), ?_, ?_⟩
    · rw [bbSettle_sameIn.sent, egrDone_sameIn.sent, left, getBb_updBb_same]
      exact if_neg (by omega)
    · intro y hy
      obtain ⟨z, hz, horder⟩ := bbSettle_fewerOrders y hy
      exact horder ▸ egrDone_gone z hz
  case stomped =>
    intro s l x m htx hmid hm ha hc hst hv
    have heq := crcDecision_late htx hmid hm ha hc hst hv
    have hwire : (getBb (crcDecision l s) l).tx = some { x with crc := 3 } := by rw [heq, late_bb, decided_tx]
    refine ⟨_, congrArg Host.Outcome.next (bbTxEnd_reply hwire hmid), ?_⟩
    rw [bbSettle_sameIn.sent]
    have hmsg : findMsg (left l { x with crc := 3 } (crcDecision l s)) m.mid = some m := by
      have hmsgs : (left l { x with crc := 3 } (crcDecision l s)).msgs = s.msgs := by
        rw [heq]
        have hcnt : (bbpCount l 7 (decided l x 3 s)).msgs = s.msgs := bbpCount_keeps.at .msgs rfl
        exact (raise_keeps.at .msgs rfl : _ = _).trans hcnt
      rw [findMsg_congr hmsgs, hm]
    have hsent : replySent l { x with crc := 3 } m.mid (left l { x with crc := 3 } (crcDecision l s)) =
        settleStream m.stream (updMsg m.mid (fun m => { m with reply := m.reply.map (fun r => { r with begun := false, stomped := true }) })
          (left l { x with crc := 3 } (crcDecision l s))) := by
      unfold replySent
      rw [hmsg]
      rfl
    rw [hsent, getBb_congr (settleStream_keeps.at .bbs rfl), getBb_congr (updMsg_keeps.at .bbs rfl), left, getBb_updBb_same]
    rfl

end Sys2Proof.Machine
end

section
/-! PROOF. Frames of the backbone interfaces (O20): what reaches a frame and what its end makes of it, and the link. -/
namespace Sys2Proof.Machine

variable {s t u : State} {l k mid fid : Nat} {f g : Frame}

theorem SameIn.rxLen (h : SameIn s t) : (getBb t l).rxLen = (getBb s l).rxLen := by
  have hl : (inbound (getBb t l)).rxLen = (inbound (getBb s l)).rxLen := congrArg Bb.rxLen (h l)
  exact hl

theorem SameIn.rxBad (h : SameIn s t) : (getBb t l).rxBad = (getBb s l).rxBad := by
  have hl : (inbound (getBb t l)).rxBad = (inbound (getBb s l)).rxBad := congrArg Bb.rxBad (h l)
  exact hl

theorem SameIn.rxDrop (h : SameIn s t) : (getBb t l).rxDrop = (getBb s l).rxDrop := by
  have hl : (inbound (getBb t l)).rxDrop = (inbound (getBb s l)).rxDrop := congrArg Bb.rxDrop (h l)
  exact hl

/-! ### The shape of a schedule frame -/

section
variable {e : Option Nat}

theorem rdBe_tEnd {i n : Nat} : rdBe { f with tEnd := e } i n = rdBe f i n := by
  induction n generalizing i with
  | zero => rfl
  | succ n ih =>
    have hbyte : rdByte { f with tEnd := e } i = rdByte f i := rfl
    rw [rdBe, rdBe, hbyte, ih]

theorem etherAt_tEnd {o n : Nat} : etherAt { f with tEnd := e } o n = etherAt f o n := by
  induction n generalizing o with
  | zero => rfl
  | succ n ih => simp only [etherAt, rdBe_tEnd, ih]

theorem v6Udp_tEnd {n nh off : Nat} : v6Udp { f with tEnd := e } n nh off = v6Udp f n nh off := by
  have hbyte : ∀ i, rdByte { f with tEnd := e } i = rdByte f i := fun _ => rfl
  induction n generalizing nh off with
  | zero => rfl
  | succ n ih => simp only [v6Udp, rdBe_tEnd, hbyte, ih]

theorem udpAt_tEnd : udpAt { f with tEnd := e } = udpAt f := by
  have hbyte : ∀ i, rdByte { f with tEnd := e } i = rdByte f i := fun _ => rfl
  unfold udpAt
  rw [etherAt_tEnd]
  split
  · rfl
  · simp only [rdBe_tEnd, hbyte, v6Udp_tEnd]

/-- When a frame ended says nothing of its shape. -/
theorem schedShape_tEnd : schedShape s { f with tEnd := e } = schedShape s f := by
  unfold schedShape
  rw [udpAt_tEnd]
  simp only [rdBe_tEnd]

theorem schedShape_congr (hreg : ∀ off, getReg t off = getReg s off) : schedShape t f = schedShape s f := by
  simp only [schedShape, regF, hreg]
  rfl

end

/-! ### Verdicts -/

/-- A frame that is held is found as it was updated. -/
theorem findFrame_updated {up : Frame → Frame} (h : findFrame s fid = some f) (hfid : ∀ x, (up x).fid = x.fid := by exact fun _ => rfl) :
    findFrame (updFrame fid up s) fid = some (up f) := by
  rw [findFrame_updFrame_same fun x hx => (hfid x).trans hx, h]
  rfl

/-- The frame's request is bad: it starts nothing. -/
def spoiled (f : Frame) : Frame := { f with verdict := some false, wantAdmit := false, punt := none, fwd := none }

theorem frameBad_unadmitted {st : Nat} (hf : findFrame s fid = some f) (hm : f.mid = none) : frameBad fid st s = updFrame fid spoiled s := by
  unfold frameBad
  rw [hf]
  dsimp only
  rw [hm]
  rfl

/-- Every frame held under a number has started nothing and is bad. -/
def Spoiled (fid : Nat) (s : State) : Prop := ∀ x ∈ s.frames, x.fid = fid → x.verdict = some false ∧ x.wantAdmit = false ∧ x.fwd = none

theorem spoiled_updFrame : Spoiled fid (updFrame fid spoiled s) := by
  intro x hx hfid
  obtain ⟨y, hy, rfl⟩ := List.mem_map.mp hx
  by_cases h : y.fid = fid
  · rw [if_pos h]
    exact ⟨rfl, rfl, rfl⟩
  · rw [if_neg h] at hfid
    exact absurd hfid h

theorem Spoiled.updFrame {f : Frame → Frame} (h : Spoiled fid s)
    (hf : ∀ x, (f x).fid = x.fid ∧ (f x).verdict = x.verdict ∧ (f x).wantAdmit = x.wantAdmit ∧ (f x).fwd = x.fwd :=
      by exact fun _ => ⟨rfl, rfl, rfl, rfl⟩) :
    Spoiled fid (Machine.updFrame k f s) := by
  intro x hx hfid
  obtain ⟨y, hy, rfl⟩ := List.mem_map.mp hx
  by_cases hk : y.fid = k
  · rw [if_pos hk] at hfid ⊢
    obtain ⟨hid, hv, hw, hfw⟩ := hf y
    rw [hv, hw, hfw]
    exact h y hy (hid ▸ hfid)
  · rw [if_neg hk] at hfid ⊢
    exact h y hy hfid

theorem Spoiled.of_frames (h : Spoiled fid s) (hfr : t.frames = s.frames) : Spoiled fid t := by
  unfold Spoiled
  rw [hfr]
  exact h

theorem Spoiled.settlePunts {i : Nat} (h : Spoiled fid s) : Spoiled fid (Machine.settlePunts i s) := by
  intro x hx hfid
  obtain ⟨y, hy, heq⟩ := settlePunts_mem x hx
  have hsame : (unpunted y).fid = (unpunted x).fid ∧ (unpunted y).verdict = (unpunted x).verdict ∧
      (unpunted y).wantAdmit = (unpunted x).wantAdmit ∧ (unpunted y).fwd = (unpunted x).fwd := by rw [heq]; exact ⟨rfl, rfl, rfl, rfl⟩
  obtain ⟨hid, hv, hw, hfw⟩ := hsame
  have hy' := h y hy (Eq.trans hid hfid)
  exact ⟨hv ▸ hy'.1, hw ▸ hy'.2.1, hfw ▸ hy'.2.2⟩

theorem Spoiled.find (h : Spoiled fid s) : ∀ g, findFrame s fid = some g → g.verdict = some false ∧ g.wantAdmit = false ∧ g.fwd = none := by
  intro g hg
  exact h g (List.mem_of_find?_eq_some hg) (by simpa using List.find?_some hg)

/-- A frame not yet admitted and of no fragment is damaged: it starts nothing and its walk is over. -/
theorem frameVerdict_bad (hf : findFrame s fid = some f) (hv : f.verdict = none) (hgl : f.gleaned = false) (hfr : f.frag = none) (hm : f.mid = none) :
    frameVerdict fid false s = settlePunts f.ingress (updFrame fid (fun f => { f with walk := .decided })
      (updFrame fid spoiled (updFrame fid (fun f => { f with ended := true }) s))) := by
  have hended : findFrame (updFrame fid (fun f => { f with ended := true }) s) fid = some { f with ended := true } :=
    findFrame_updated hf
  unfold frameVerdict
  rw [hf]
  dsimp only
  rw [if_neg (by simp [hv, hgl]), if_neg (by decide), hfr, frameBad_unadmitted hended hm]

/-- A frame that still waits for its walk, of no fragment and with no copy to send, checks good. -/
theorem frameVerdict_good (hf : findFrame s fid = some f) (hv : f.verdict = none) (hgl : f.gleaned = false) (hfr : f.frag = none)
    (hw : f.walk ≠ .decided) (hfwd : f.fwd = none) :
    ∃ g, findFrame (frameVerdict fid true s) fid = some g ∧ g.verdict = some true ∧ g.ended = true := by
  let g : Frame := { f with ended := true, verdict := some true }
  let v := updFrame fid (fun f => { f with verdict := some true }) (updFrame fid (fun f => { f with ended := true }) s)
  have hg : findFrame v fid = some g := findFrame_updated (findFrame_updated hf)
  have heq : frameVerdict fid true s = settleGood fid (msgGood f v) := by
    unfold frameVerdict
    rw [hf]
    dsimp only
    rw [if_neg (by simp [hv, hgl]), if_pos rfl, if_pos (by simp [hfr])]
  have hgood : findFrame (msgGood f v) fid = some g := (findFrame_congr (msgGood_keeps.at .frames rfl)).trans hg
  have hsettle : settleGood fid (msgGood f v) = settlePunts g.ingress (msgGood f v) := by
    have hcopy : forwardCopy fid (msgGood f v) = msgGood f v := by
      unfold forwardCopy
      rw [hgood]
      dsimp only
      rw [show g.fwd = none from hfwd]
    unfold settleGood
    rw [hgood]
    dsimp only
    rw [if_neg (by simp [g]), show g.frag = none from hfr]
    dsimp only
    rw [if_neg (show ¬g.walk = .decided from hw), hcopy]
  obtain ⟨x, hx, hsame⟩ := findFrame_settlePunts (i := g.ingress) hgood (.inl hw)
  rw [heq, hsettle]
  have hverdict : (unpunted x).verdict = (unpunted g).verdict ∧ (unpunted x).ended = (unpunted g).ended := by rw [hsame]; exact ⟨rfl, rfl⟩
  exact ⟨x, hx, hverdict.1, hverdict.2⟩

/-! ### Bytes (O20) -/

variable {n ago : Nat} {data : List Byte} {uncorr : Bool}

/-- A codeword that could not be corrected is counted. -/
def fecNoted (l : Nat) (uncorr : Bool) (s : State) : State := if uncorr then bbpCount l 3 s else s

theorem fecNoted_keeps : Keeps [.cnt, .hif, .alert] s (fecNoted l uncorr s) := keeps_ite bbpCount_keeps (.refl s)

theorem fecNoted_bb : getBb (fecNoted l uncorr s) k = getBb s k := getBb_congr (fecNoted_keeps.at .bbs rfl)

theorem stopped_fecNoted : stopped (fecNoted l uncorr s) = stopped s := by
  have hglb : (fecNoted l uncorr s).glb = s.glb := fecNoted_keeps.glb_eq rfl
  rw [stopped, quiesced, hglb]
  rfl

theorem bbOcc_fecNoted : bbOcc (fecNoted l uncorr s) l k = bbOcc s l k := by
  have hframes : (fecNoted l uncorr s).frames = s.frames := fecNoted_keeps.at .frames rfl
  rw [bbOcc, hframes]
  rfl

theorem bbBytes_begins (hup : bbpUp s (8 + l) = true) (hdata : data ≠ []) (hrx : (getBb s l).rx = none) (hdrop : (getBb s l).rxDrop = 0) :
    bbBytes l data uncorr ago s = bbAppend l data uncorr (bbFrameStart l data.length ago (fecNoted l uncorr s)) := by
  unfold bbBytes
  rw [if_neg (by simp [hup, hdata])]
  have hfree : ((getBb (fecNoted l uncorr s) l).rx.isNone && decide ((getBb (fecNoted l uncorr s) l).rxDrop = 0)) = true := by
    rw [fecNoted_bb, hrx, hdrop]
    rfl
  exact congrArg (bbAppend l data uncorr) (if_pos hfree)

theorem bbAppend_idle (h : (getBb s l).rx = none) : bbAppend l data uncorr s = s := by
  unfold bbAppend
  dsimp only
  rw [h]

/-- What arrives is dropped. -/
def rxDropped (l why : Nat) (s : State) : State := updBb l (fun b => { b with rxDrop := why }) s

theorem bbFrameStart_stopped (h : stopped s = true) :
    bbFrameStart l n ago s = if quiesced (rxDropped l 2 s) then bump 66 1 (rxDropped l 2 s) else rxDropped l 2 s := if_pos h

theorem bbFrameStart_full (h : stopped s = false) (hfull : 1048576 < bbOcc s l 8 + n) :
    bbFrameStart l n ago s = bbpCount l 4 (rxDropped l 1 s) :=
  (if_neg (by simp [h])).trans (if_pos hfull)

/-- The frame that begins. -/
def firstFrame (s : State) (l ago : Nat) : Frame :=
  { newFrame s.nextFid (8 + l) 0x3F [] false with stamp := devTime s - ago, hasStamp := true, pri := regF s (bbpReg (l / 4) 0x14) 0 3 }

/-- The frame begins. -/
def rxBegun (l ago : Nat) (s : State) : State :=
  updBb l (fun b => { b with rx := some s.nextFid, rxLen := 0, rxCrc := 0xFFFFFFFF, rxBad := false }) (addFrame (firstFrame s l ago) s)

theorem bbFrameStart_begins (h : stopped s = false) (hroom : bbOcc s l 8 + n ≤ 1048576) : bbFrameStart l n ago s = rxBegun l ago s :=
  (if_neg (by simp [h])).trans (if_neg (by omega))

theorem rxBegun_frame (h : findFrame s s.nextFid = none) : findFrame (rxBegun l ago s) s.nextFid = some (firstFrame s l ago) := by
  have happ : findFrame (rxBegun l ago s) s.nextFid = (s.frames ++ [{ firstFrame s l ago with fid := s.nextFid }]).find? (fun x => x.fid = s.nextFid) := rfl
  rw [happ, List.find?_append]
  rw [findFrame] at h
  rw [h]
  simp [firstFrame, newFrame]

/-- The bytes that reach the frame. -/
def received (data : List Byte) (uncorr : Bool) : List (Option Byte) := data.map (fun x => if uncorr then none else some x)

/-- The interface has taken the bytes. -/
def rxTaken (l : Nat) (data : List Byte) (uncorr : Bool) (s : State) : State :=
  setBb l { getBb s l with rxLen := (getBb s l).rxLen + data.length, rxCrc := crcRefl 0xEDB88320 (getBb s l).rxCrc data,
                           rxBad := (getBb s l).rxBad || uncorr } s

/-- The frame has taken the bytes; its priority follows them. -/
def filled (l fid : Nat) (add : List (Option Byte)) (s : State) : State :=
  updFrame fid (fun f => { f with pri := framePri s l (f.bytes.map (fun x => x.getD 0#8)) })
    (updFrame fid (fun f => if f.giant then f else { f with bytes := f.bytes ++ add }) s)

theorem framePri_congr {bs : List Byte} (h : ∀ off, getReg t off = getReg s off) : framePri t l bs = framePri s l bs := by
  simp only [framePri, regF, h]

theorem filled_frame {add : List (Option Byte)} (h : findFrame s fid = some f) (hg : f.giant = false) :
    findFrame (filled l fid add s) fid =
      some { f with bytes := f.bytes ++ add, pri := framePri s l ((f.bytes ++ add).map (fun x => x.getD 0#8)) } := by
  have hadd : findFrame (updFrame fid (fun f => if f.giant then f else { f with bytes := f.bytes ++ add }) s) fid =
      some { f with bytes := f.bytes ++ add } := by
    rw [findFrame_updated h fun x => by split <;> rfl, if_neg (by simp [hg])]
  exact findFrame_updated hadd

theorem bbAppend_first (hrx : (getBb s l).rx = some fid) (hlen : (getBb s l).rxLen = 0) (hmax : data.length ≤ 9600) :
    bbAppend l data uncorr s = bytesCame fid (filled l fid (received data uncorr) (rxTaken l data uncorr s)) := by
  have htake : data.take (9600 - (getBb s l).rxLen) = data := List.take_of_length_le (by omega)
  unfold bbAppend
  dsimp only
  split
  next hnone => rw [hrx] at hnone; cases hnone
  next x hx =>
    obtain rfl : fid = x := Option.some.inj (hrx.symm.trans hx)
    rw [htake, if_neg (by omega)]
    rfl

/-- A frame that is not held in the holding buffer stays when bytes of it come. -/
theorem bytesCame_frames (h : findFrame s fid = some f) (hw : f.walk ≠ .holding) : (bytesCame fid s).frames = s.frames := by
  have hsync : findFrame (syncInput fid s) fid = some f := (findFrame_congr (syncInput_keeps.at .frames rfl)).trans h
  have hcheck : checkHold fid (syncInput fid s) = syncInput fid s := by
    unfold checkHold
    rw [hsync]
    exact if_neg fun hc => hw hc.1
  have hframes : (syncInput fid s).frames = s.frames := syncInput_keeps.at .frames rfl
  unfold bytesCame
  rw [hcheck]
  dsimp only
  split
  · split
    · exact (settleStream_keeps.at .frames rfl : _ = _).trans hframes
    · exact hframes
  · exact hframes

/-- A good link's first bytes begin a frame. -/
theorem bbBytes_first (hup : bbpUp s (8 + l) = true) (hdata : data ≠ []) (hrx : (getBb s l).rx = none) (hdrop : (getBb s l).rxDrop = 0)
    (hst : stopped s = false) (hroom : bbOcc s l 8 + data.length ≤ 1048576) (hmax : data.length ≤ 9600) :
    bbBytes l data uncorr ago s = bytesCame s.nextFid (filled l s.nextFid (received data uncorr)
      (rxTaken l data uncorr (rxBegun l ago (fecNoted l uncorr s)))) := by
  have hfid : (fecNoted l uncorr s).nextFid = s.nextFid := fecNoted_keeps.at .nextFid rfl
  rw [bbBytes_begins hup hdata hrx hdrop, bbFrameStart_begins (stopped_fecNoted.trans hst) (by rw [bbOcc_fecNoted]; exact hroom)]
  refine bbAppend_first ?_ ?_ hmax
  · rw [rxBegun, getBb_updBb_same, hfid]
  · rw [rxBegun, getBb_updBb_same]

/-! ### The end of a frame and the link (O20) -/

/-- The interface has no frame in reception. -/
def rxFreed (l : Nat) (s : State) : State := setBb l { getBb s l with rx := none, rxDrop := 0 } s

/-- The frame has its last byte. -/
def rxEnded (fid : Nat) (s : State) : State := noteEnd fid (updFrame fid (fun f => { f with ended := true }) s)

theorem rxEnded_frame (h : findFrame s fid = some f) : findFrame (rxEnded fid s) fid =
    some { f with ended := true, tEnd := some (f.tEnd.getD s.clk.now) } := by
  have hended : findFrame (updFrame fid (fun f => { f with ended := true }) s) fid = some { f with ended := true } := findFrame_updated h
  exact findFrame_updated hended

theorem bbFrameEnd_verdict (hrx : (getBb s l).rx = some fid) (hlen : 63 < (getBb s l).rxLen) (hf : findFrame s fid = some f)
    (hs : schedShape s { f with ended := true } = some false) : ∃ u, bbFrameEnd l s =
      frameVerdict fid (decide ((getBb s l).rxCrc = 0xDEBB20E3) && !(getBb s l).rxBad) (rxEnded fid u) ∧
      (getBb u l).rx = none ∧ findFrame u fid = some f := by
  let good := decide ((getBb s l).rxCrc = 0xDEBB20E3) && !(getBb s l).rxBad
  let u := if good then rxFreed l s else bbpCount l 2 (rxFreed l s)
  have hkeep : Keeps [.cnt, .hif, .alert] (rxFreed l s) u := keeps_ite (.refl _) bbpCount_keeps
  have hfu : findFrame u fid = some f := (findFrame_congr (hkeep.at .frames rfl)).trans hf
  have hend := rxEnded_frame hfu
  have hregs : ∀ off, getReg (rxEnded fid u) off = getReg s off := fun off => (hkeep.getReg_eq rfl : getReg u off = getReg (rxFreed l s) off)
  have hshape : schedShape (rxEnded fid u) { f with ended := true, tEnd := some (f.tEnd.getD u.clk.now) } = some false := by
    rw [schedShape_congr hregs]
    exact schedShape_tEnd.trans hs
  refine ⟨u, ?_, ?_, hfu⟩
  · have heq : bbFrameEnd l s = match findFrame (rxEnded fid u) fid with
        | none => rxEnded fid u
        | some f =>
          if f.verdict.isNone && decide (schedShape (rxEnded fid u) f = some true) then
            if good then updFrame fid (fun f => { f with verdict := some true }) (rxEnded fid u) else settlePunts (8 + l) (dropFrame fid (rxEnded fid u))
          else frameVerdict fid good (rxEnded fid u) := by
      unfold bbFrameEnd
      dsimp only
      rw [hrx]
      dsimp only
      rw [if_neg (by omega)]
      rfl
    rw [heq, hend]
    exact if_neg (by rw [hshape]; simp)
  · rw [getBb_congr (hkeep.at .bbs rfl), rxFreed, getBb_setBb_same]

theorem bbFrameEnd_runt (hrx : (getBb s l).rx = some fid) (hlen : (getBb s l).rxLen ≤ 63) : bbFrameEnd l s =
    settlePunts (8 + l) (updFrame fid (fun f => { f with walk := .decided, ended := true }) (frameBad fid stDamaged (bbpCount l 0 (rxFreed l s)))) := by
  unfold bbFrameEnd
  dsimp only
  rw [hrx]
  exact if_pos hlen

/-- A frame that ended damaged has started nothing. -/
theorem bbFrameEnd_spoiled (hrx : (getBb s l).rx = some fid) (hf : findFrame s fid = some f) (hv : f.verdict = none) (hgl : f.gleaned = false)
    (hfr : f.frag = none) (hm : f.mid = none) (hs : schedShape s { f with ended := true } = some false)
    (hbad : (getBb s l).rxLen ≤ 63 ∨ (getBb s l).rxCrc ≠ 0xDEBB20E3 ∨ (getBb s l).rxBad = true) : Spoiled fid (bbFrameEnd l s) := by
  rcases Nat.lt_or_ge 63 (getBb s l).rxLen with hlong | hrunt
  · obtain ⟨u, heq, -, hfu⟩ := bbFrameEnd_verdict hrx hlong hf hs
    have hno : (decide ((getBb s l).rxCrc = 0xDEBB20E3) && !(getBb s l).rxBad) = false := by
      rcases hbad with h | h | h
      · omega
      · simp [h]
      · simp [h]
    rw [heq, hno, frameVerdict_bad (rxEnded_frame hfu) hv hgl hfr hm]
    exact spoiled_updFrame.updFrame.settlePunts
  · have hfc : findFrame (bbpCount l 0 (rxFreed l s)) fid = some f := (findFrame_congr (bbpCount_keeps.at .frames rfl)).trans hf
    rw [bbFrameEnd_runt hrx hrunt, frameBad_unadmitted hfc hm]
    exact spoiled_updFrame.updFrame.settlePunts

/-- What the end of a frame may change, beyond the interfaces. -/
abbrev endPieces : List Piece :=
  [.cnt, .hif, .streams, .msgs, .frames, .plg, .egress, .slots, .sheaves, .groups, .plots, .waits, .yoke, .alert, .nextBuild, .nextSid]

theorem bbFrameEnd_freed : Keeps endPieces (rxFreed l s) (bbFrameEnd l s) := by
  unfold bbFrameEnd
  extract_lets -merge -underBinder +onlyGivenNames b v
  split
  · exact .refl v
  · refine keeps_ite ?_ ?_
    · exact Keeps.after (Keeps.after (Keeps.after (bbpCount_keeps.weaken rfl) frameBad_keeps rfl) updFrame_keeps rfl) settlePunts_keeps rfl
    · extract_lets -merge -underBinder +onlyGivenNames good w x
      have hw : Keeps endPieces v w := keeps_ite (.refl v) (bbpCount_keeps.weaken rfl)
      have hx : Keeps endPieces v x := Keeps.after (Keeps.after hw updFrame_keeps rfl) noteEnd_keeps rfl
      split
      · exact hx
      · refine keeps_ite (keeps_ite (hx.after updFrame_keeps rfl) ?_) (hx.after frameVerdict_keeps rfl)
        exact (hx.after dropFrame_keeps rfl).after settlePunts_keeps rfl

theorem bbFrameEnd_rx : (getBb (bbFrameEnd l s) l).rx = none := by
  rw [getBb_congr (bbFrameEnd_freed.at .bbs rfl), rxFreed, getBb_setBb_same]

/-! #### The link -/

/-- The status bit of an interface. -/
def linkSet (l : Nat) (b : Bool) (s : State) : State :=
  setRegIn 0x2400 (bbpReg (l / 4) 0x40) (setBitTo (getReg s (bbpReg (l / 4) 0x40)) (l % 4) b) s

theorem getReg_linkSet (hl : l < 8) {b : Bool} :
    (getReg (linkSet l b s) (bbpReg (l / 4) 0x40)).testBit (l % 4) = b := by
  unfold linkSet setRegIn
  rw [if_pos (by unfold bbpReg; omega), getReg_setReg_same, Nat.testBit_mod_two_pow, testBit_setBitTo, if_pos rfl]
  simp
  omega

theorem getReg_linkSet_other {b : Bool} {off : Nat} (h : off ≠ bbpReg (l / 4) 0x40) : getReg (linkSet l b s) off = getReg s off :=
  getReg_setRegIn_other h

theorem linkSet_bbs {b : Bool} : (linkSet l b s).bbs = s.bbs := by
  unfold linkSet setRegIn
  split <;> rfl

theorem bbpUp_eq : bbpUp s (8 + l) = ((getReg s (bbpReg (l / 4) 0)).testBit 0 && (getReg s (bbpReg (l / 4) 0x40)).testBit (l % 4)) := by
  rw [bbpUp, Nat.add_sub_cancel_left]

/-- An interface that is down starts no frame. -/
theorem bbKick_tx_down (h : bbpUp s (8 + l) = false) : (getBb (bbKick k s) l).tx = (getBb s l).tx := by
  have hreply : k ≠ l → ∀ m r, (getBb (startReply k m r false s) l).tx = (getBb s l).tx := fun hk m r => by
    rw [startReply, getBb_updBb_other (Ne.symm hk), getBb_congr (updMsg_keeps.at .bbs rfl)]
  have hegr : k ≠ l → ∀ x, (getBb (startEgr k x s) l).tx = (getBb s l).tx := fun hk x => by
    unfold startEgr
    dsimp only
    rw [getBb_updBb_other (Ne.symm hk), getBb_congr (setEgressQ_keeps.at .bbs rfl)]
  unfold bbKick
  split
  · rfl
  · split
    · split
      · rfl
      · rw [getBb_congr (bbDropQueue_keeps.at .bbs rfl)]
    next hup =>
      have hk : k ≠ l := fun hk => hup (by simp [hk, h])
      split
      · rfl
      · dsimp only
        split
        · split
          · exact hreply hk _ _
          · exact hegr hk _
        · exact hreply hk _ _
        · exact hegr hk _
        · rfl

/-- Comparing occupancy with the thresholds starts no frame. -/
theorem flowOne_tx {bit : Nat} : (getBb (flowOne k bit s) l).tx = (getBb s l).tx := by
  have hset : ∀ b : Bb, b.tx = (getBb s k).tx → (getBb (setBb k b s) l).tx = (getBb s l).tx := fun b hb => by
    by_cases hk : l = k
    · subst hk
      rw [getBb_setBb_same, hb]
    · rw [getBb_setBb_other hk]
  unfold flowOne
  dsimp only
  split
  · exact hset _ rfl
  · split
    · exact hset _ rfl
    · rfl

theorem flowCheck_tx : (getBb (flowCheck k s) l).tx = (getBb s l).tx := by
  unfold flowCheck
  split
  · rfl
  · split
    · by_cases hk : l = k
      · subst hk
        rw [getBb_updBb_same]
      · rw [getBb_updBb_other hk]
    · split
      · rfl
      · split
        · exact flowOne_tx
        · split
          · exact each_preserves (P := fun u => (getBb u l).tx = (getBb s l).tx) rfl fun _ _ h => flowOne_tx.trans h
          · rfl

theorem bbSettle_tx_down (h : bbpUp s (8 + l) = false) : (getBb (bbSettle s) l).tx = (getBb s l).tx := by
  have hboth : bbpUp (bbSettle s) (8 + l) = false ∧ (getBb (bbSettle s) l).tx = (getBb s l).tx := by
    refine each_preserves (P := fun u => bbpUp u (8 + l) = false ∧ (getBb u l).tx = (getBb s l).tx) ⟨h, rfl⟩ fun k u ⟨hu, htx⟩ => ?_
    have hflow : bbpUp (flowCheck k u) (8 + l) = false := by
      rw [bbpUp_eq, flowCheck_keeps.getReg_eq rfl, flowCheck_keeps.getReg_eq rfl, ← bbpUp_eq, hu]
    refine ⟨?_, ((bbKick_tx_down hflow).trans flowCheck_tx).trans htx⟩
    rw [bbpUp_eq, bbKick_keeps.getReg_eq rfl, bbKick_keeps.getReg_eq rfl, ← bbpUp_eq, hflow]
  exact hboth.2

/-- The interface carries nothing. -/
def silenced (l : Nat) (s : State) : State := updBb l (fun b => { b with rx := none, rxDrop := 0, tx := none, paused := 0, xoff := 0 }) s

/-- The link is down and the frame in reception is damaged. -/
def rxCut (l : Nat) (s : State) : State :=
  match (getBb s l).rx with
  | some fid => frameVerdict fid false (bbpCount l 2 (updFrame fid (fun f => { f with ended := true }) (raise 0x0202 l 0 0 0 (linkSet l false s))))
  | none => raise 0x0202 l 0 0 0 (linkSet l false s)

theorem rxCut_keeps : Keeps endPieces (linkSet l false s) (rxCut l s) := by
  have hraise : Keeps endPieces (linkSet l false s) (raise 0x0202 l 0 0 0 (linkSet l false s)) := raise_keeps.weaken rfl
  unfold rxCut
  split
  · exact ((hraise.after updFrame_keeps rfl).after bbpCount_keeps rfl).after frameVerdict_keeps rfl
  · exact hraise

/-- A link that goes down silences its interface; what it carried is ended without it. -/
theorem bbLinkDown_silenced (h : (getReg s (bbpReg (l / 4) 0x40)).testBit (l % 4) = true) :
    Keeps endPieces (silenced l (rxCut l s)) (bbLinkDown l s) := by
  unfold bbLinkDown
  extract_lets -merge -underBinder +onlyGivenNames st
  rw [if_neg (by simp [st, h])]
  extract_lets -merge -underBinder +onlyGivenNames b v w x y begunHere z
  have hy : Keeps endPieces (silenced l (rxCut l s)) y := bbDropQueue_keeps.weaken rfl
  refine Keeps.after (keeps_each hy fun m q hq => ?_) failUnbegun_keeps rfl
  have hcount : Keeps endPieces (silenced l (rxCut l s)) (bbpCount l 5 q) := hq.after bbpCount_keeps rfl
  exact keeps_ite (hcount.after endMsg_keeps rfl) ((hcount.after updMsg_keeps rfl).after failMsg_keeps rfl)

/-- A frame whose bytes are dropped leaves the frames as they were. -/
theorem dropped_frame {l : Fin 8} {why : Nat} (hup : bbpUp s (8 + l) = true) (hdata : data ≠ []) (hrx : (getBb s l).rx = none)
    (hdrop : (getBb s l).rxDrop = 0)
    (hk : Keeps [.cnt, .hif, .alert] (rxDropped l why (fecNoted l uncorr s)) (bbFrameStart l data.length ago (fecNoted l uncorr s))) :
    ∃ t, exec (.bbpBytesAvailable l data uncorr ago) s = .next t ∧ (getBb t l).rx = none ∧ (getBb t l).rxDrop = why ∧ t.frames = s.frames := by
  have hbb : getBb (bbFrameStart l data.length ago (fecNoted l uncorr s)) l = { getBb s l with rxDrop := why } := by
    rw [getBb_congr (hk.at .bbs rfl), rxDropped, getBb_updBb_same, fecNoted_bb]
  have heq : bbBytes l data uncorr ago s = bbFrameStart l data.length ago (fecNoted l uncorr s) := by
    rw [bbBytes_begins hup hdata hrx hdrop, bbAppend_idle (by rw [hbb]; exact hrx)]
  have hfirst : (fecNoted l uncorr s).frames = s.frames := fecNoted_keeps.at .frames rfl
  have hframes : (bbFrameStart l data.length ago (fecNoted l uncorr s)).frames = s.frames := Eq.trans (hk.at .frames rfl) hfirst
  refine ⟨_, congrArg (Host.Outcome.next ∘ bbSettle) heq, ?_, ?_, Eq.trans (bbSettle_keeps.at .frames rfl) hframes⟩
  · rw [bbSettle_sameIn.rx, hbb]
    exact hrx
  · rw [bbSettle_sameIn.rxDrop, hbb]

/-- Settles O20: bytes begin and fill a frame, its end gives the verdict, and a link follows its events (R79, R80, R83, R84, R303). -/
theorem backboneReceives : Obligations.BackboneReceives := by
  unfold Obligations.BackboneReceives
  refine ⟨?begins, ?stopped, ?full, ?good, ?bad, ?down, ?up⟩
  case begins =>
    intro s l data uncorr ago hup hdata hrx hdrop hst hroom hmax hnone
    have hfid : (fecNoted l uncorr s).nextFid = s.nextFid := fecNoted_keeps.at .nextFid rfl
    have hnone' : findFrame (fecNoted l uncorr s) (fecNoted l uncorr s).nextFid = none := by
      rw [hfid, findFrame_congr (fecNoted_keeps.at .frames rfl), hnone]
    have hfirst : findFrame (rxTaken l data uncorr (rxBegun l ago (fecNoted l uncorr s))) s.nextFid =
        some (firstFrame (fecNoted l uncorr s) l ago) := hfid ▸ rxBegun_frame hnone'
    have hfilled := filled_frame (l := l) (add := received data uncorr) hfirst rfl
    have hframes := bytesCame_frames hfilled (by simp [firstFrame, newFrame])
    have hclk : (fecNoted l uncorr s).clk = s.clk := fecNoted_keeps.at .clk rfl
    have hbb : getBb (bytesCame s.nextFid (filled l s.nextFid (received data uncorr) (rxTaken l data uncorr (rxBegun l ago (fecNoted l uncorr s))))) l =
        getBb (rxTaken l data uncorr (rxBegun l ago (fecNoted l uncorr s))) l := getBb_congr (bytesCame_keeps.at .bbs rfl)
    refine ⟨_, _, congrArg (Host.Outcome.next ∘ bbSettle) (bbBytes_first hup hdata hrx hdrop hst hroom hmax), ?_, ?_, ?_, ?_,
      (findFrame_congr ((bbSettle_keeps.at .frames rfl).trans hframes)).trans hfilled, rfl, rfl, ?_, ?_⟩
    · rw [bbSettle_sameIn.rx, hbb, rxTaken, getBb_setBb_same, rxBegun, getBb_updBb_same, hfid]
    · rw [bbSettle_sameIn.rxLen, hbb, rxTaken, getBb_setBb_same, rxBegun, getBb_updBb_same]
      exact Nat.zero_add _
    · rw [bbSettle_sameIn.rxBad, hbb, rxTaken, getBb_setBb_same, rxBegun, getBb_updBb_same]
      exact Bool.false_or _
    · have hnext : (bbSettle (bytesCame s.nextFid (filled l s.nextFid (received data uncorr) (rxTaken l data uncorr (rxBegun l ago (fecNoted l uncorr s)))))).nextFid =
          (rxBegun l ago (fecNoted l uncorr s)).nextFid := (bbSettle_keeps.at .nextFid rfl : _ = _).trans (bytesCame_keeps.at .nextFid rfl)
      exact hnext.trans (congrArg (· + 1) hfid)
    · exact congrArg (fun c : Clk => c.devTime.toNat - ago) hclk
    · exact List.nil_append _
  case stopped =>
    intro s l data uncorr ago hup hdata hrx hdrop hst
    have hst' : stopped (fecNoted l uncorr s) = true := stopped_fecNoted.trans hst
    have heq : bbFrameStart l data.length ago (fecNoted l uncorr s) = _ := bbFrameStart_stopped hst'
    have hk : Keeps [.cnt, .hif, .alert] (rxDropped l 2 (fecNoted l uncorr s)) (bbFrameStart l data.length ago (fecNoted l uncorr s)) :=
      heq ▸ keeps_ite bump_keeps (.refl _)
    exact dropped_frame hup hdata hrx hdrop hk
  case full =>
    intro s l data uncorr ago hup hdata hrx hdrop hst hfull
    have heq : bbFrameStart l data.length ago (fecNoted l uncorr s) = _ :=
      bbFrameStart_full (stopped_fecNoted.trans hst) (by rw [bbOcc_fecNoted]; exact hfull)
    have hk : Keeps [.cnt, .hif, .alert] (rxDropped l 1 (fecNoted l uncorr s)) (bbFrameStart l data.length ago (fecNoted l uncorr s)) :=
      heq ▸ bbpCount_keeps
    exact dropped_frame hup hdata hrx hdrop hk
  case good =>
    intro s l f hrx hdrop hlen hcrc hok hf hv hgl hfr hw hfwd hs
    obtain ⟨u, heq, -, hfu⟩ := bbFrameEnd_verdict hrx hlen hf hs
    rw [hcrc, hok] at heq
    obtain ⟨g, hg, hgv, hge⟩ := frameVerdict_good (rxEnded_frame hfu) hv hgl hfr (by simp [hw]) hfwd
    refine ⟨_, g, rfl, bbSettle_sameIn.rx.trans bbFrameEnd_rx, ?_, hgv, hge⟩
    rw [findFrame_congr (bbSettle_keeps.at .frames rfl), heq]
    exact hg
  case bad =>
    intro s l f hrx hdrop hf hv hgl hfr hm hs hbad
    have hspoiled := bbFrameEnd_spoiled hrx hf hv hgl hfr hm hs hbad
    exact ⟨_, rfl, bbSettle_sameIn.rx.trans bbFrameEnd_rx, (hspoiled.of_frames (bbSettle_keeps.at .frames rfl)).find⟩
  case down =>
    intro s l h
    have ht := bbLinkDown_silenced h
    have hdown : bbpUp (bbLinkDown l s) (8 + l) = false := by
      rw [bbpUp_eq, ht.getReg_eq (off := bbpReg (l.val / 4) 0x40) rfl]
      have hbit : (getReg (silenced l (rxCut l s)) (bbpReg (l.val / 4) 0x40)).testBit (l.val % 4) = false :=
        (congrArg (Nat.testBit · (l.val % 4)) (rxCut_keeps.getReg_eq rfl)).trans (getReg_linkSet l.isLt)
      rw [hbit, Bool.and_false]
    have hbb : getBb (bbLinkDown l s) l = { getBb (rxCut l s) l with rx := none, rxDrop := 0, tx := none, paused := 0, xoff := 0 } := by
      rw [getBb_congr (ht.at .bbs rfl), silenced, getBb_updBb_same]
    refine ⟨_, rfl, ?_, ?_, ?_, ?_⟩
    · rw [bbpUp_eq, bbSettle_keeps.getReg_eq rfl, bbSettle_keeps.getReg_eq rfl, ← bbpUp_eq, hdown]
    · rw [bbSettle_sameIn.rx, hbb]
    · rw [bbSettle_tx_down hdown, hbb]
    · rw [bbSettle_sameIn.paused, hbb]
  case up =>
    intro s l hen hex hoff
    have heq : bbLinkUp l s = raise 0x0202 l 1 0 0 (linkSet l true s) := if_pos (by simp [hen, hex, hoff])
    have hbbs : (raise 0x0202 l 1 0 0 (linkSet l true s)).bbs = (linkSet l true s).bbs := raise_keeps.at .bbs rfl
    refine ⟨_, congrArg Host.Outcome.next heq, ?_, hbbs.trans linkSet_bbs, fun off hoff => ?_⟩
    · rw [bbpUp_eq, raise_keeps.getReg_eq rfl, raise_keeps.getReg_eq rfl, getReg_linkSet l.isLt, getReg_linkSet_other (by unfold bbpReg; omega), hen]
      rfl
    · rw [raise_keeps.getReg_eq rfl, getReg_linkSet_other hoff]

end Sys2Proof.Machine
end

section
/-! PROOF. The Plough (O24 and O25): the parse queues, the walk's outcomes, held fragments, the gleaning table, the punt buckets and admission. -/
namespace Sys2Proof.Machine

variable {s t u : State} {fid k mid : Nat} {f g : Frame} {r : Result}

/-! ### The parse queues (R93) -/

theorem leastQueue_spec : leastQueue s < 4 ∧ ∀ e, e < 4 → queueLen s (leastQueue s) ≤ queueLen s e := by
  have hcases : ∀ e, e < 4 → e = 0 ∨ e = 1 ∨ e = 2 ∨ e = 3 := by omega
  simp only [leastQueue, List.foldl_cons, List.foldl_nil]
  split_ifs <;> refine ⟨by omega, fun e he => ?_⟩ <;> rcases hcases e he with rfl | rfl | rfl | rfl <;> omega

theorem ploughEnqueue_queues (hf : findFrame s fid = some f) (hw : f.walk = .queued) (he : 4 ≤ f.engine) (hs : schedShape s f = some false)
    (hroom : queueLen s (leastQueue s) < 64) : ploughEnqueue fid s = updFrame fid (fun f => { f with engine := leastQueue s }) s := by
  unfold ploughEnqueue
  rw [hf]
  exact (if_neg (by simp [hw, hs]; omega)).trans (if_pos hroom)

theorem ploughEnqueue_drops (hf : findFrame s fid = some f) (hw : f.walk = .queued) (he : 4 ≤ f.engine) (hs : schedShape s f = some false)
    (hfull : 64 ≤ queueLen s (leastQueue s)) : ploughEnqueue fid s = notAdmitted f 0 0 (dropFrame fid (bump 114 1 s)) := by
  unfold ploughEnqueue
  rw [hf]
  exact (if_neg (by simp [hw, hs]; omega)).trans (if_neg (by omega))

/-- An INJECT's refusal counts in no counter but that of completions. -/
theorem notAdmitted_count {a b c : Nat} (h78 : c ≠ 78) (h64 : c ≠ 64) : Same (count c) s (notAdmitted f a b s) := by
  unfold notAdmitted
  split
  · exact complete_count h78 h64
  · exact .refl s

/-! ### The outcomes of a walk (R96, R105, R106) -/

section
variable {w : WalkSt} {en : Nat}

/-- The walk runs from where the frame stands. -/
abbrev walks (f : Frame) : Prop := (f.walk = .queued ∧ f.engine < 4) ∨ f.walk = .walking

theorem parseWalk_waits (hf : findFrame s fid = some f) (hw : walks f) (hwalk : walkFrame (resumeCfg s f) f = (.wait, w, en)) :
    parseWalk fid s = updFrame fid (fun x => { x with walk := .walking, cfg := some { resumeCfg s f with visits := w.visits } }) s := by
  unfold parseWalk
  rw [hf]
  dsimp only
  rw [if_pos hw, hwalk]

theorem parseWalk_later {i : FragInfo} (hf : findFrame s fid = some f) (hw : walks f) (hwalk : walkFrame (resumeCfg s f) f = (.later i, w, en)) :
    parseWalk fid s = updFrame fid (fun x => { x with walk := .later, cfg := none, frag := some i, endNode := en, htype := w.htype }) s := by
  unfold parseWalk
  rw [hf]
  dsimp only
  rw [if_pos hw, hwalk]

/-- The frame with what its walk found. -/
def walked (f : Frame) (w : WalkSt) (en : Nat) (x : Frame) : Frame :=
  { x with walk := .decided, cfg := none, endNode := en, htype := w.htype, fields := fvMeta f w en ++ w.fv.drop 8, payload := w.cursor,
           lreq := w.lreq, ipValid := w.ipValid, frag := w.frag }

theorem parseWalk_done (hf : findFrame s fid = some f) (hw : walks f) (hwalk : walkFrame (resumeCfg s f) f = (.done, w, en)) :
    parseWalk fid s = classify fid (fvMeta f w en ++ w.fv.drop 8) (updFrame fid (walked f w en) s) := by
  unfold parseWalk
  rw [hf]
  dsimp only
  rw [if_pos hw, hwalk]
  rfl

/-- A frame that an inference is to take is decided: it waits for its admission. -/
theorem decideFrame_infers {res : Result} {cnt reason : Nat} (hf : findFrame s fid = some f) (hact : res.action = 3) (hv : f.verdict = none) :
    ∃ u, decideFrame fid (some (res, cnt)) reason s = settlePunts f.ingress u ∧
      findFrame u fid = some { f with result := some res, wantAdmit := true } := by
  let v := updFrame fid (fun f => { f with result := some res }) (bump cnt 1 s)
  let u := updFrame fid (fun f => { f with wantAdmit := true }) v
  have hv1 : findFrame v fid = some { f with result := some res } :=
    findFrame_updated ((findFrame_congr (bump_keeps.at .frames rfl)).trans hf)
  have hu : findFrame u fid = some { f with result := some res, wantAdmit := true } := findFrame_updated hv1
  have happly : applyResult fid res v = u := by
    unfold applyResult
    rw [hact]
    rfl
  refine ⟨u, ?_, hu⟩
  have hgood : settleGood fid u = u := by
    unfold settleGood
    rw [hu]
    exact if_pos (by simp [hv])
  have happly' : applyResult fid res (updFrame fid (fun f => { f with result := some res }) (bump cnt 1 s)) = u := happly
  unfold decideFrame
  rw [hf]
  dsimp only
  rw [happly', hu]
  dsimp only
  rw [if_pos rfl, hgood]

theorem classify_found {fv : List Byte} {res : Result} {cnt : Nat} (h : lookup s fv = some (res, cnt)) (hbad : res.mapBad = false) :
    classify fid fv s = decideFrame fid (some (res, cnt)) 0x01 s := by
  unfold classify
  rw [h]
  exact if_neg (by simp [mapFails, hbad])

end

/-! ### Fragments (R101, R102) -/

theorem laterFragment_holds {i : FragInfo} (hf : findFrame s fid = some f) (hi : f.frag = some i) (hw : f.walk = .later)
    (hno : findGlean s i.key = none) (hfit : heldBytes (updFrame fid (fun f => { f with walk := .holding }) s) ≤ 65536) :
    laterFragment fid s = updFrame fid (fun f => { f with walk := .holding }) s := by
  unfold laterFragment
  rw [hf]
  dsimp only
  rw [hi]
  dsimp only
  rw [if_neg (by simp [hw]), if_neg (by simp [hno])]
  exact if_pos hfit

theorem laterFragment_follows {i : FragInfo} {e : Glean} (hf : findFrame s fid = some f) (hi : f.frag = some i) (hw : f.walk = .later)
    (he : findGlean s i.key = some e) (hv : f.verdict = none) : laterFragment fid s = settlePunts f.ingress (followEntry fid s) := by
  have hfollow : findFrame (followEntry fid s) fid = some { f with walk := .following } := findFrame_updated hf
  have hwait : applyFollower fid (followEntry fid s) = followEntry fid s := by
    unfold applyFollower
    rw [hfollow]
    exact if_neg (by simp [hv])
  unfold laterFragment
  rw [hf]
  dsimp only
  rw [hi]
  dsimp only
  rw [if_neg (by simp [hw]), if_pos (by simp [he]), hwait]

/-- The entries of the gleaning table. -/
def gleans (s : State) : List Glean := s.plg.gleans

theorem Keeps.same_gleans {ps : List Piece} (h : Keeps ps s t) (hp : subParts [.plg] ps = false) : Same gleans s t := by
  have hplg : t.plg = s.plg := h.at .plg hp
  unfold Same gleans
  rw [hplg]

theorem takePunt_gleans {reason : Nat} : Same gleans s (takePunt reason s).2 := by
  have hraise : ∀ {v : State} {a b c d e : Nat}, Same gleans v (raise a b c d e v) := raise_keeps.same_gleans rfl
  have hbump : ∀ {v : State} {i n : Nat}, Same gleans v (bump i n v) := bump_keeps.same_gleans rfl
  unfold takePunt
  dsimp only
  split
  · have hdrop : Same gleans s (teleAdd 4 1 (bump (136 + puntReg reason) 1 s)) := hbump.trans (teleAdd_keeps.same_gleans rfl)
    split
    · exact (hdrop.trans rfl).trans hraise
    · exact hdrop
  · exact (show Same gleans s _ from rfl).trans hbump

theorem payPunt_gleans : Same gleans s (payPunt f s) := by
  unfold payPunt
  split
  · exact .refl s
  next r _ =>
    refine same_ite (.refl s) ?_
    have htake := takePunt_gleans (s := s) (reason := r)
    revert htake
    generalize takePunt r s = p
    obtain ⟨ok, v⟩ := p
    intro htake
    cases ok
    · exact htake.trans (updFrame_keeps.same_gleans rfl)
    · exact htake.trans (updFrame_keeps.same_gleans rfl)

theorem settlePunts_gleans {i : Nat} : Same gleans s (settlePunts i s) := by
  have hpay : Same gleans s (each (s.frames.filter (fun f => f.ingress = i)) payPunt s) :=
    each_preserves (P := Same gleans s) (.refl s) fun _ _ h => h.trans payPunt_gleans
  exact (hpay.trans (flushPunts_keeps.same_gleans rfl)).trans (sweepFrames_keeps.same_gleans rfl)

/-- Every frame held under a number has its walk behind it. -/
def WalkOver (fid : Nat) (s : State) : Prop := ∀ x ∈ s.frames, x.fid = fid → x.walk = .decided

theorem WalkOver.settlePunts {i : Nat} (h : WalkOver fid s) : WalkOver fid (Machine.settlePunts i s) := by
  intro x hx hfid
  obtain ⟨y, hy, heq⟩ := settlePunts_mem x hx
  have hsame : (unpunted y).fid = (unpunted x).fid ∧ (unpunted y).walk = (unpunted x).walk := by rw [heq]; exact ⟨rfl, rfl⟩
  exact hsame.2 ▸ h y hy (Eq.trans hsame.1 hfid)

theorem WalkOver.of_frames (h : WalkOver fid s) (hfr : t.frames = s.frames) : WalkOver fid t := by
  unfold WalkOver
  rw [hfr]
  exact h

theorem WalkOver.find (h : WalkOver fid s) : ∀ g, findFrame s fid = some g → g.walk = .decided := by
  intro g hg
  exact h g (List.mem_of_find?_eq_some hg) (by simpa using List.find?_some hg)

theorem walkOver_updFrame {up : Frame → Frame} (hup : ∀ x, (up x).walk = .decided) : WalkOver fid (updFrame fid up s) := by
  intro x hx hfid
  obtain ⟨y, hy, rfl⟩ := List.mem_map.mp hx
  by_cases h : y.fid = fid
  · rw [if_pos h]
    exact hup y
  · rw [if_neg h] at hfid
    exact absurd hfid h

/-- The fragment is punted, arriving now. -/
def orphaned (fid : Nat) (s : State) : State :=
  updFrame fid (fun f => { f with walk := .decided, punt := if f.verdict = some false then none else some 0x04 }) (arriveNow fid s)

theorem orphanFragment_eq (hf : findFrame s fid = some f) :
    orphanFragment fid s = settlePunts f.ingress (notAdmitted f 2 0x04 (bump 123 1 (orphaned fid s))) := by
  unfold orphanFragment
  rw [hf]
  rfl

/-- What two frames share that differ in their punts at most. -/
theorem of_unpunted_eq (h : unpunted g = unpunted f) : g.walk = f.walk ∧ g.frag = f.frag ∧ g.result = f.result ∧ g.wantAdmit = f.wantAdmit ∧
    g.fields = f.fields ∧ g.payload = f.payload ∧ g.endNode = f.endNode := by
  have hw : (unpunted g).walk = (unpunted f).walk := congrArg Frame.walk h
  have hf : (unpunted g).frag = (unpunted f).frag := congrArg Frame.frag h
  have hr : (unpunted g).result = (unpunted f).result := congrArg Frame.result h
  have ha : (unpunted g).wantAdmit = (unpunted f).wantAdmit := congrArg Frame.wantAdmit h
  have hv : (unpunted g).fields = (unpunted f).fields := congrArg Frame.fields h
  have hp : (unpunted g).payload = (unpunted f).payload := congrArg Frame.payload h
  have he : (unpunted g).endNode = (unpunted f).endNode := congrArg Frame.endNode h
  exact ⟨hw, hf, hr, ha, hv, hp, he⟩

/-- Settles O24: a queue takes the frame or drops it, each outcome of a walk, and fragments held or following (R93, R96, R102). -/
theorem ploughClassifies : Obligations.PloughClassifies := by
  unfold Obligations.PloughClassifies
  refine ⟨?queued, ?dropped, ?waits, ?later, ?decided, ?held, ?follows, ?expires⟩
  case queued =>
    intro s f hf hw he hs hroom
    obtain ⟨hlt, hleast⟩ := leastQueue_spec (s := s)
    exact ⟨_, congrArg Host.Outcome.next (ploughEnqueue_queues hf hw he hs hroom), findFrame_updated hf, hlt, hleast,
      fun g hg => findFrame_updFrame_other hg fun _ h => h⟩
  case dropped =>
    intro s f hf hw he hs hfull
    have hkeep : Keeps [.cnt, .hif, .alert] (dropFrame f.fid (bump 114 1 s)) (notAdmitted f 0 0 (dropFrame f.fid (bump 114 1 s))) := notAdmitted_keeps
    have hcount : Counted 114 1 s (bump 114 1 s) := bump_counted (by decide)
    have hframes : (bump 114 1 s).frames = s.frames := bump_keeps.at .frames rfl
    refine ⟨_, congrArg Host.Outcome.next (ploughEnqueue_drops hf hw he hs hfull), ?_, ?_, fun g hg => ?_⟩
    · rw [findFrame_congr (hkeep.at .frames rfl), findFrame_dropFrame_same]
    · exact (hcount.after (dropFrame_keeps.same_count rfl)).after (notAdmitted_count (by decide) (by decide))
    · rw [findFrame_congr (hkeep.at .frames rfl), findFrame_dropFrame_other hg, findFrame_congr hframes]
  case waits =>
    intro s f w en hf hw hwalk
    refine ⟨_, congrArg (Host.Outcome.next ∘ bbSettle) (parseWalk_waits hf hw hwalk), ?_⟩
    rw [findFrame_congr (bbSettle_keeps.at .frames rfl)]
    exact findFrame_updated hf
  case later =>
    intro s f w en i hf hw hwalk
    exact ⟨_, _, congrArg (Host.Outcome.next ∘ bbSettle) (parseWalk_later hf hw hwalk),
      (findFrame_congr (bbSettle_keeps.at .frames rfl)).trans (findFrame_updated hf), rfl, rfl, rfl, rfl, rfl⟩
  case decided =>
    intro s f w en cnt res hf hw hwalk hlook hact hbad hv
    have hwalked : findFrame (updFrame f.fid (walked f w en) s) f.fid = some (walked f w en f) := findFrame_updated hf
    have hlook' : lookup (updFrame f.fid (walked f w en) s) (fvMeta f w en ++ w.fv.drop 8) = some (res, cnt) := hlook
    obtain ⟨u, hdecide, hu⟩ := decideFrame_infers (cnt := cnt) (reason := 0x01) hwalked hact hv
    obtain ⟨g, hg, hsame⟩ := findFrame_settlePunts (i := f.ingress) hu (.inr (.inr rfl))
    have hparse := ((parseWalk_done hf hw hwalk).trans (classify_found hlook' hbad)).trans hdecide
    refine ⟨_, g, congrArg (Host.Outcome.next ∘ bbSettle) hparse, (findFrame_congr (bbSettle_keeps.at .frames rfl)).trans hg, ?_⟩
    obtain ⟨hgw, hgf, hgr, hga, hgv, hgp, hge⟩ := of_unpunted_eq hsame
    exact ⟨hgw, hgr, hga, hgv, hgp, hge, hgf⟩
  case held =>
    intro s f i hf hi hw hno hfit
    refine ⟨_, congrArg (Host.Outcome.next ∘ bbSettle) (laterFragment_holds hf hi hw hno hfit), ?_, bbSettle_keeps.at .plg rfl⟩
    rw [findFrame_congr (bbSettle_keeps.at .frames rfl)]
    exact findFrame_updated hf
  case follows =>
    intro s f i e hf hi hw he hv
    have hfollow : findFrame (followEntry f.fid s) f.fid = some { f with walk := .following } := findFrame_updated hf
    obtain ⟨g, hg, hsame⟩ := findFrame_settlePunts (i := f.ingress) hfollow (.inl (by simp))
    obtain ⟨hgw, hgf, -⟩ := of_unpunted_eq hsame
    exact ⟨_, g, congrArg (Host.Outcome.next ∘ bbSettle) (laterFragment_follows hf hi hw he hv),
      (findFrame_congr (bbSettle_keeps.at .frames rfl)).trans hg, hgw, hgf.trans hi⟩
  case expires =>
    intro s f hf hw
    have heq : fragHoldExpiry f.fid s = settlePunts f.ingress (notAdmitted f 2 0x04 (bump 123 1 (orphaned f.fid s))) := by
      unfold fragHoldExpiry
      rw [hf]
      exact (if_pos hw).trans (orphanFragment_eq hf)
    have hkeep : Keeps [.cnt, .hif, .alert] (orphaned f.fid s) (notAdmitted f 2 0x04 (bump 123 1 (orphaned f.fid s))) :=
      Keeps.after bump_keeps notAdmitted_keeps rfl
    have hgleans : Same gleans s (orphaned f.fid s) := (arriveNow_keeps.same_gleans rfl).trans (updFrame_keeps.same_gleans rfl)
    have hpunted : Same gleans s (settlePunts f.ingress (notAdmitted f 2 0x04 (bump 123 1 (orphaned f.fid s)))) :=
      (hgleans.trans (hkeep.same_gleans rfl)).trans settlePunts_gleans
    have hsettled : Same gleans s (bbSettle (settlePunts f.ingress (notAdmitted f 2 0x04 (bump 123 1 (orphaned f.fid s))))) :=
      hpunted.trans (bbSettle_keeps.same_gleans rfl)
    have hover : WalkOver f.fid (orphaned f.fid s) := walkOver_updFrame fun _ => rfl
    have hrefused : WalkOver f.fid (notAdmitted f 2 0x04 (bump 123 1 (orphaned f.fid s))) := hover.of_frames (hkeep.at .frames rfl)
    have hframes : (bbSettle (settlePunts f.ingress (notAdmitted f 2 0x04 (bump 123 1 (orphaned f.fid s))))).frames = _ :=
      bbSettle_keeps.at .frames rfl
    exact ⟨bbSettle (settlePunts f.ingress (notAdmitted f 2 0x04 (bump 123 1 (orphaned f.fid s)))),
      congrArg (Host.Outcome.next ∘ bbSettle) heq, hsettled, ((hrefused.settlePunts (i := f.ingress)).of_frames hframes).find⟩

/-! ### The gleaning table and the punt buckets (O25) -/

/-- The entry of a first fragment is gone. -/
def expired (first : Nat) (s : State) : State := bump 124 1 (setGleans (s.plg.gleans.filter (fun x => x.first ≠ first)) s)

theorem gleanExpiry_eq {g : Glean} (h : s.plg.gleans.find? (fun x => x.first = g.first) = some g) :
    gleanExpiry g.first s = settlePunts g.ingress (gleanBad g (expired g.first s)) := by
  unfold gleanExpiry
  rw [h]
  rfl

theorem expired_gleans : gleans (expired k s) = s.plg.gleans.filter (fun x => x.first ≠ k) := by
  have hbump : Same gleans (setGleans (s.plg.gleans.filter (fun x => x.first ≠ k)) s) (expired k s) := bump_keeps.same_gleans rfl
  exact hbump

theorem frameBad_frames {st : Nat} (hf : findFrame s fid = some f) : (frameBad fid st s).frames = (updFrame fid spoiled s).frames := by
  unfold frameBad
  rw [hf]
  dsimp only
  split
  · have hdrop : ∀ {v : State} {m : Nat}, (failMsg st m (dropStomped m v)).frames = v.frames := fun {v m} =>
      (failMsg_keeps.at .frames rfl : _ = _).trans (dropStomped_keeps.at .frames rfl)
    exact hdrop
  · rfl

theorem gleanBad_spoiled {g : Glean} (hf : findFrame s g.first = some f) (hgl : f.gleaned = true) : Spoiled g.first (gleanBad g s) := by
  unfold gleanBad
  rw [hf]
  dsimp only
  rw [if_pos hgl]
  exact spoiled_updFrame.of_frames (frameBad_frames hf)

/-- What a bucket holds after a refill (R109). -/
def bucketFilled (s : State) (k : Nat) : Nat := min (1000 * regF s (0x2520 + 4 * k) 0 16) (puntLevel s k + regF s (0x2500 + 4 * k) 0 16)

/-- One bucket gains its rate. -/
def refillOne (k : Nat) (s : State) : State := setPuntLevel k (bucketFilled s k) s

theorem puntRefill_eq : puntRefill s = each (List.range 8) refillOne s := rfl

theorem puntLevel_refillOne_same : puntLevel (refillOne k s) k = bucketFilled s k := by
  have hcap : bucketFilled s k ≤ 1000 * regF s (0x2520 + 4 * k) 0 16 := Nat.min_le_left ..
  have htok : tget 0 k (refillOne k s).plg.tokens = bucketFilled s k + 1 := by
    show tget 0 k (tset 0 k (bucketFilled s k + 1) s.plg.tokens) = _
    exact tget_tset_same _
  have hreg : regF (refillOne k s) (0x2520 + 4 * k) 0 16 = regF s (0x2520 + 4 * k) 0 16 := rfl
  unfold puntLevel
  rw [htok]
  dsimp only
  rw [hreg]
  exact Nat.min_eq_right hcap

theorem puntLevel_refillOne_other {j : Nat} (h : j ≠ k) : puntLevel (refillOne k s) j = puntLevel s j := by
  have htok : tget 0 j (refillOne k s).plg.tokens = tget 0 j s.plg.tokens := by
    show tget 0 j (tset 0 k (bucketFilled s k + 1) s.plg.tokens) = _
    exact tget_tset_other h _
  have hreg : regF (refillOne k s) (0x2520 + 4 * j) 0 16 = regF s (0x2520 + 4 * j) 0 16 := rfl
  unfold puntLevel
  rw [htok]
  dsimp only
  rw [hreg]

/-- Each bucket of a list without repetition is bucketFilled once. -/
theorem puntLevel_each_refillOne {ks : List Nat} (hnd : ks.Nodup) {j : Nat} :
    puntLevel (each ks refillOne s) j = if j ∈ ks then bucketFilled s j else puntLevel s j := by
  induction ks generalizing s with
  | nil => rfl
  | cons k ks ih =>
    obtain ⟨hk, hnd⟩ := List.nodup_cons.mp hnd
    have hstep : puntLevel (each (k :: ks) refillOne s) j = puntLevel (each ks refillOne (refillOne k s)) j := rfl
    rw [hstep, ih hnd]
    by_cases hj : j = k
    · subst hj
      rw [if_neg hk, if_pos List.mem_cons_self, puntLevel_refillOne_same]
    · have hlevel := puntLevel_refillOne_other (s := s) hj
      have hfill : bucketFilled (refillOne k s) j = bucketFilled s j := by
        unfold bucketFilled
        rw [hlevel]
        rfl
      simp only [List.mem_cons, hj, false_or, hlevel, hfill]

/-- What a refill leaves: the entries, the buckets' events and the registers. -/
theorem each_refillOne_keeps {ks : List Nat} : (each ks refillOne s).plg.gleans = s.plg.gleans ∧ (each ks refillOne s).plg.passed = s.plg.passed ∧
    (each ks refillOne s).regs = s.regs :=
  each_preserves (P := fun u => u.plg.gleans = s.plg.gleans ∧ u.plg.passed = s.plg.passed ∧ u.regs = s.regs) ⟨rfl, rfl, rfl⟩ fun _ _ h => h

/-! ### Admission (R11, R115, R119) -/

/-- The message that a frame becomes. -/
def admittedMsg (f : Frame) (r : Result) (s : State) : Msg :=
  { mid := s.nextMid, stream := r.stream, seq := (getStream s r.stream).nextIn, slot := (getStream s r.stream).slot,
    bank := (activeBank s (getStream s r.stream).slot).getD 2, cls := (getStream s r.stream).cls, tmpl := r.tmpl, xmap := r.xmap, fid := f.fid,
    ingress := f.ingress, origin := f.origin, status := none, statusAt := 0, silent := false, noFence := false, held := false,
    verdict := f.verdict, gateT0 := s.clk.now, loc := .gather, pass := 0, segs := r.segs, input := modelInput f r.segs, outputs := none,
    rowsOut := [], staged := false, late := false, reply := none }

/-- The message stands in its stream and its frame waits no more. -/
def admitted (f : Frame) (r : Result) (s : State) : State :=
  updFrame f.fid (fun f => { f with wantAdmit := false, mid := some s.nextMid })
    (updStream r.stream (fun v => { v with nextIn := (v.nextIn + 1) % 65536, overrunSeen := false, lastReq := some (f.ingress, f.station) })
      { s with msgs := s.msgs ++ [admittedMsg f r s], nextMid := s.nextMid + 1 })

/-- What a stream's binding that does not fit the result raises. -/
def mismatchNoted (r : Result) (v : Stream) (s : State) : State :=
  if r.slot ≠ v.slot ∨ r.cls ≠ v.cls then
    let s := bump 1 1 s
    if v.mismatchSeen then s else raise 0x0404 r.stream r.slot r.cls 0 (updStream r.stream (fun v => { v with mismatchSeen := true }) s)
  else s

/-- What an URGENT stream without its group raises. -/
def unboundNoted (r : Result) (v : Stream) (bank : Nat) (s : State) : State :=
  if v.cls = 0 ∧ !((getBank s v.slot bank).urgent && (getBank s v.slot bank).pin) ∧ v.unboundSeen = false then
    raise 0x0504 v.slot r.stream v.slot 0 (updStream r.stream (fun v => { v with unboundSeen := true }) s)
  else s

/-- Everything of an admission but the message's start. -/
def admitNoted (f : Frame) (r : Result) (s : State) : State :=
  captureIod 4 (leBytes 4 r.stream ++ leBytes 4 (getStream s r.stream).nextIn ++ leBytes 4 (getStream s r.stream).cls)
    (unboundNoted r (getStream s r.stream) ((activeBank s (getStream s r.stream).slot).getD 2)
      (mismatchNoted r (getStream s r.stream) (admitted f r s)))

theorem admitNow_eq : admitNow f r s =
    if (getStream s r.stream).resetWait.isSome then
      settleStream r.stream (attach s.nextMid stFenced (updMsg s.nextMid (fun m => { m with silent := true, noFence := true, loc := .idle }) (admitNoted f r s)))
    else if (getStream s r.stream).st = .fenced then bump 2 1 (updMsg s.nextMid (fun m => { m with held := true, loc := .idle }) (admitNoted f r s))
    else readySheaves (gatherAll (launch s.nextMid (admitNoted f r s))) := rfl

/-- What an admission notes besides. -/
abbrev notePieces : List Piece := [.cnt, .hif, .streams, .links, .trc, .alert]

theorem mismatchNoted_keeps {v : Stream} : Keeps notePieces s (mismatchNoted r v s) := by
  have hbump : Keeps notePieces s (bump 1 1 s) := bump_keeps.weaken rfl
  exact keeps_ite (keeps_ite hbump ((hbump.after updStream_keeps rfl).after raise_keeps rfl)) (.refl s)

theorem unboundNoted_keeps {v : Stream} {bank : Nat} : Keeps notePieces s (unboundNoted r v bank s) :=
  keeps_ite (Keeps.after (updStream_keeps.weaken rfl) raise_keeps rfl) (.refl s)

theorem admitNoted_keeps : Keeps notePieces (admitted f r s) (admitNoted f r s) :=
  (mismatchNoted_keeps.after unboundNoted_keeps rfl).after captureIod_keeps rfl

/-- The next sequence number and the last requester of a stream. -/
def streamSeq (k : Nat) (s : State) : Nat × Option (Nat × Nat) := ((getStream s k).nextIn, (getStream s k).lastReq)

theorem Keeps.same_streamSeq {ps : List Piece} (h : Keeps ps s t) (hp : subParts [.streams] ps = false) : Same (streamSeq k) s t := by
  have hk : getStream t k = getStream s k := getStream_congr (h.at .streams hp)
  unfold Same streamSeq
  rw [hk]

theorem updStream_same_streamSeq {j : Nat} {up : Stream → Stream} (h : ∀ v, (up v).nextIn = v.nextIn ∧ (up v).lastReq = v.lastReq := by exact fun _ => ⟨rfl, rfl⟩) :
    Same (streamSeq k) s (updStream j up s) := by
  unfold Same streamSeq
  by_cases hk : k = j
  · subst hk
    rw [getStream_updStream_same, (h _).1, (h _).2]
  · rw [getStream_updStream_other hk]

theorem mismatchNoted_streamSeq {v : Stream} : Same (streamSeq k) s (mismatchNoted r v s) := by
  have hbump : Same (streamSeq k) s (bump 1 1 s) := bump_keeps.same_streamSeq rfl
  refine same_ite (same_ite hbump ?_) (.refl s)
  exact Same.trans (Same.trans hbump updStream_same_streamSeq) (raise_keeps.same_streamSeq rfl)

theorem unboundNoted_streamSeq {v : Stream} {bank : Nat} : Same (streamSeq k) s (unboundNoted r v bank s) :=
  same_ite (Same.trans updStream_same_streamSeq (raise_keeps.same_streamSeq rfl)) (.refl s)

theorem admitNoted_streamSeq : Same (streamSeq k) (admitted f r s) (admitNoted f r s) :=
  (mismatchNoted_streamSeq.trans unboundNoted_streamSeq).trans (captureIod_keeps.same_streamSeq rfl)

/-- What the start of a message may change. -/
abbrev startPieces : List Piece :=
  [.cnt, .hif, .streams, .msgs, .egress, .slots, .sheaves, .groups, .plots, .tiles, .switches, .sus, .fab, .waits, .yoke, .links, .hrw, .alert,
    .nextBuild, .nextSid]

/-- The frames that an admission leaves are those of before, the frame with its message. -/
theorem admitNow_frames : (admitNow f r s).frames = (admitted f r s).frames ∧ (admitNow f r s).nextMid = s.nextMid + 1 := by
  have hnoted : (admitNoted f r s).frames = (admitted f r s).frames := admitNoted_keeps.at .frames rfl
  have hmid : (admitNoted f r s).nextMid = s.nextMid + 1 := admitNoted_keeps.at .nextMid rfl
  have hafter : ∀ {v : State}, Keeps startPieces (admitNoted f r s) v → v.frames = (admitted f r s).frames ∧ v.nextMid = s.nextMid + 1 :=
    fun h => ⟨Eq.trans (h.at .frames rfl) hnoted, Eq.trans (h.at .nextMid rfl) hmid⟩
  rw [admitNow_eq]
  split
  · exact hafter (Keeps.after (Keeps.after (updMsg_keeps.weaken rfl) attach_keeps rfl) settleStream_keeps rfl)
  · split
    · exact hafter (Keeps.after (updMsg_keeps.weaken rfl) bump_keeps rfl)
    · exact hafter (Keeps.after (Keeps.after (launch_keeps.weaken rfl) gatherAll_keeps rfl) readySheaves_keeps rfl)

/-- What must hold of a frame before its admission is looked at. -/
structure Admissible (s : State) (f : Frame) (r : Result) : Prop where
  found : findFrame s f.fid = some f
  result : f.result = some r
  want : f.wantAdmit = true
  giant : f.giant = false
  verdict : f.verdict ≠ some false
  lead : leadReached f r = true

/-- A message that its stream has no room for is counted, and the first of a kind raises its event. -/
def overrunNoted (r : Result) (s : State) : State :=
  if (getStream s r.stream).overrunSeen then bump 0 1 s
  else raise 0x0402 r.stream (getStream s r.stream).nextOut 0 0 (updStream r.stream (fun v => { v with overrunSeen := true }) (bump 0 1 s))

theorem overrunNoted_keeps : Keeps [.cnt, .hif, .streams, .alert] s (overrunNoted r s) :=
  keeps_ite (bump_keeps.weaken rfl) (Keeps.after (Keeps.after (bump_keeps.weaken rfl) updStream_keeps rfl) raise_keeps rfl)

theorem overrunNoted_stream : getStream (overrunNoted r s) r.stream = { getStream s r.stream with overrunSeen := true } := by
  have hbump : getStream (bump 0 1 s) r.stream = getStream s r.stream := getStream_congr (bump_keeps.at .streams rfl)
  unfold overrunNoted
  split
  next hseen =>
    rw [hbump]
    generalize getStream s r.stream = v at hseen
    cases v
    simp_all
  · rw [getStream_congr (raise_keeps.at .streams rfl), getStream_updStream_same, hbump]

theorem admitMessage_eq (h : Admissible s f r) : admitMessage f.fid s =
    if yokState s ≠ 3 ∧ yokState s ≠ 4 ∧ yokState s ≠ 7 then refuse f.fid 0 (bump 104 1 s)
    else if (getStream s r.stream).st = .closed ∨ (getStream s r.stream).st = .draining then refuse f.fid 0x07 s
    else if 4 ≤ inflightCount (getStream s r.stream) then
      refuse f.fid 0 (overrunNoted r s)
    else settlePunts f.ingress (admitNow f r s) := by
  obtain ⟨hf, hr, hw, hg, hv, hl⟩ := h
  unfold admitMessage
  rw [hf]
  dsimp only
  rw [hr]
  exact if_neg (by simp [hw, hg, hv, hl])

/-- Every frame held under a number waits for no admission. -/
def NotWanted (fid : Nat) (s : State) : Prop := ∀ x ∈ s.frames, x.fid = fid → x.wantAdmit = false

theorem NotWanted.settlePunts {i : Nat} (h : NotWanted fid s) : NotWanted fid (Machine.settlePunts i s) := by
  intro x hx hfid
  obtain ⟨y, hy, heq⟩ := settlePunts_mem x hx
  have hsame : (unpunted y).fid = (unpunted x).fid ∧ (unpunted y).wantAdmit = (unpunted x).wantAdmit := by rw [heq]; exact ⟨rfl, rfl⟩
  exact hsame.2 ▸ h y hy (Eq.trans hsame.1 hfid)

theorem NotWanted.find (h : NotWanted fid s) : ∀ g, findFrame s fid = some g → g.wantAdmit = false := by
  intro g hg
  exact h g (List.mem_of_find?_eq_some hg) (by simpa using List.find?_some hg)

theorem notWanted_updFrame {up : Frame → Frame} (hup : ∀ x, (up x).wantAdmit = false := by exact fun _ => rfl) : NotWanted fid (updFrame fid up s) := by
  intro x hx hfid
  obtain ⟨y, hy, rfl⟩ := List.mem_map.mp hx
  by_cases h : y.fid = fid
  · rw [if_pos h]
    exact hup y
  · rw [if_neg h] at hfid
    exact absurd hfid h

/-- A frame that is turned away waits for its admission no more. -/
theorem refuse_notWanted {reason : Nat} (hf : findFrame s fid = some f) : NotWanted fid (refuse fid reason s) := by
  unfold refuse
  rw [hf]
  refine NotWanted.settlePunts ?_
  have hkeep : ∀ {v : State} {a b : Nat}, (notAdmitted f a b v).frames = v.frames := notAdmitted_keeps.at .frames rfl
  unfold NotWanted
  rw [hkeep]
  exact notWanted_updFrame

/-- Every frame held under a number has its message. -/
def HasMessage (fid mid : Nat) (s : State) : Prop := ∀ x ∈ s.frames, x.fid = fid → x.mid = some mid ∧ x.wantAdmit = false

theorem HasMessage.settlePunts {i : Nat} (h : HasMessage fid mid s) : HasMessage fid mid (Machine.settlePunts i s) := by
  intro x hx hfid
  obtain ⟨y, hy, heq⟩ := settlePunts_mem x hx
  have hsame : (unpunted y).fid = (unpunted x).fid ∧ (unpunted y).mid = (unpunted x).mid ∧ (unpunted y).wantAdmit = (unpunted x).wantAdmit := by
    rw [heq]; exact ⟨rfl, rfl, rfl⟩
  obtain ⟨hid, hm, hw⟩ := hsame
  have hy' := h y hy (Eq.trans hid hfid)
  exact ⟨hm ▸ hy'.1, hw ▸ hy'.2⟩

theorem admitted_hasMessage : HasMessage f.fid s.nextMid (admitted f r s) := by
  intro x hx hfid
  obtain ⟨y, hy, rfl⟩ := List.mem_map.mp hx
  by_cases h : y.fid = f.fid
  · rw [if_pos h]
    exact ⟨rfl, rfl⟩
  · rw [if_neg h] at hfid
    exact absurd hfid h

/-- The message of a fenced stream is held. -/
theorem admitNow_fenced (hreset : (getStream s r.stream).resetWait = none) (hst : (getStream s r.stream).st = .fenced)
    (hnew : findMsg s s.nextMid = none) : (admitNow f r s).msgs = s.msgs ++ [{ admittedMsg f r s with held := true, loc := .idle }] ∧
      Same (streamSeq r.stream) (admitted f r s) (admitNow f r s) := by
  have hmsgs : (admitNoted f r s).msgs = s.msgs ++ [admittedMsg f r s] := admitNoted_keeps.at .msgs rfl
  rw [admitNow_eq, if_neg (by simp [hreset]), if_pos hst]
  constructor
  · have hbump : ∀ v, (bump 2 1 v).msgs = v.msgs := fun v => bump_keeps.at .msgs rfl
    rw [hbump]
    unfold updMsg
    dsimp only
    rw [hmsgs, List.map_append]
    refine congrArg₂ (· ++ ·) ?_ (by simp [admittedMsg])
    rw [findMsg, List.find?_eq_none] at hnew
    refine (List.map_congr_left (g := id) fun m hm => ?_).trans (List.map_id _)
    exact if_neg (by simpa using hnew m hm)
  · exact (admitNoted_streamSeq.trans (updMsg_keeps.same_streamSeq rfl)).trans (bump_keeps.same_streamSeq rfl)

theorem admitted_streamSeq : streamSeq r.stream (admitted f r s) =
    (((getStream s r.stream).nextIn + 1) % 65536, some (f.ingress, f.station)) := by
  have hk : getStream (admitted f r s) r.stream = _ := tget_tset_same _
  unfold streamSeq
  rw [hk]
  rfl

/-- Settles O25: an entry expires alone, the buckets are refilled, and a message is admitted, held or turned away (R101, R103, R109, R115, R119). -/
theorem ploughAdmits : Obligations.PloughAdmits := by
  unfold Obligations.PloughAdmits
  refine ⟨?expiry, ?refill, ?opened, ?fenced, ?yoke, ?overrun⟩
  case expiry =>
    intro s g f hg hf
    have hgleans : Same gleans (expired g.first s) (settlePunts g.ingress (gleanBad g (expired g.first s))) :=
      (gleanBad_keeps.same_gleans rfl).trans settlePunts_gleans
    have hsettled : Same gleans (expired g.first s) (bbSettle (settlePunts g.ingress (gleanBad g (expired g.first s)))) :=
      hgleans.trans (bbSettle_keeps.same_gleans rfl)
    have hfound : findFrame (expired g.first s) g.first = some f :=
      (findFrame_congr (bump_keeps.at .frames rfl)).trans hf
    have hframes : (bbSettle (settlePunts g.ingress (gleanBad g (expired g.first s)))).frames = _ := bbSettle_keeps.at .frames rfl
    refine ⟨bbSettle (settlePunts g.ingress (gleanBad g (expired g.first s))), congrArg (Host.Outcome.next ∘ bbSettle) (gleanExpiry_eq hg),
      Eq.trans hsettled expired_gleans, fun hgl f' hf' => ?_⟩
    obtain ⟨hv, hw, -⟩ := ((gleanBad_spoiled hfound hgl).settlePunts.of_frames hframes).find f' hf'
    exact ⟨hv, hw⟩
  case refill =>
    intro s
    obtain ⟨hgleans, hpassed, hregs⟩ := each_refillOne_keeps (s := s) (ks := List.range 8)
    refine ⟨_, congrArg Host.Outcome.next puntRefill_eq, fun k hk => ?_, hgleans, hpassed, hregs⟩
    rw [puntLevel_each_refillOne List.nodup_range, if_pos (List.mem_range.mpr hk)]
    rfl
  case opened =>
    intro s f r hf hr hw hg hv hl hyok hst hroom hreset
    have heq := admitMessage_eq ⟨hf, hr, hw, hg, hv, hl⟩
    rw [if_neg (by omega), if_neg (by simp [hst]), if_neg (by omega)] at heq
    obtain ⟨hframes, hmid⟩ := admitNow_frames (f := f) (r := r) (s := s)
    refine ⟨_, congrArg Host.Outcome.next heq, Eq.trans (settlePunts_keeps.at .nextMid rfl) hmid, fun g hg => ?_⟩
    have hnow : HasMessage f.fid s.nextMid (admitNow f r s) := by
      unfold HasMessage
      rw [hframes]
      exact admitted_hasMessage
    exact hnow.settlePunts g (List.mem_of_find?_eq_some hg) (by simpa using List.find?_some hg)
  case fenced =>
    intro s f r hf hr hw hg hv hl hyok hst hroom hreset hnew
    have heq := admitMessage_eq ⟨hf, hr, hw, hg, hv, hl⟩
    rw [if_neg (by omega), if_neg (by simp [hst]), if_neg (by omega)] at heq
    obtain ⟨hmsgs, hseq⟩ := admitNow_fenced (f := f) hreset hst hnew
    have hpunts : (settlePunts f.ingress (admitNow f r s)).msgs = (admitNow f r s).msgs := settlePunts_keeps.at .msgs rfl
    have hseq' : streamSeq r.stream (settlePunts f.ingress (admitNow f r s)) =
        (((getStream s r.stream).nextIn + 1) % 65536, some (f.ingress, f.station)) :=
      (Eq.trans (settlePunts_keeps.same_streamSeq rfl) hseq).trans admitted_streamSeq
    exact ⟨_, { admittedMsg f r s with held := true, loc := .idle }, congrArg Host.Outcome.next heq, hpunts.trans hmsgs, rfl, rfl, rfl, rfl, rfl,
      congrArg Prod.fst hseq', congrArg Prod.snd hseq'⟩
  case yoke =>
    intro s f r hf hr hw hg hv hl h3 h4 h7
    have heq := admitMessage_eq ⟨hf, hr, hw, hg, hv, hl⟩
    rw [if_pos ⟨h3, h4, h7⟩] at heq
    have hk : Keeps [.cnt, .hif, .frames, .plg, .alert] s (refuse f.fid 0 (bump 104 1 s)) := Keeps.after (bump_keeps.weaken rfl) refuse_keeps rfl
    have hfound : findFrame (bump 104 1 s) f.fid = some f := (findFrame_congr (bump_keeps.at .frames rfl)).trans hf
    exact ⟨_, congrArg Host.Outcome.next heq, hk.at .msgs rfl, hk.at .streams rfl, (refuse_notWanted hfound).find⟩
  case overrun =>
    intro s f r hf hr hw hg hv hl hyok hst hfull
    have heq := admitMessage_eq ⟨hf, hr, hw, hg, hv, hl⟩
    rw [if_neg (by omega), if_neg (by rcases hst with h | h <;> simp [h]), if_pos hfull] at heq
    have hk : Keeps [.cnt, .hif, .frames, .plg, .alert] (overrunNoted r s) (refuse f.fid 0 (overrunNoted r s)) := refuse_keeps
    have hmsgs : (overrunNoted r s).msgs = s.msgs := overrunNoted_keeps.at .msgs rfl
    have hstream : getStream (refuse f.fid 0 (overrunNoted r s)) r.stream = { getStream s r.stream with overrunSeen := true } :=
      (getStream_congr (hk.at .streams rfl)).trans overrunNoted_stream
    exact ⟨_, congrArg Host.Outcome.next heq, Eq.trans (hk.at .msgs rfl) hmsgs, by rw [hstream], by rw [hstream]⟩

end Sys2Proof.Machine
end

section
/-! PROOF. The trunk receiver hears (O15): reads of ports, the receiver of a slot, codewords and headers. -/
namespace Sys2Proof.Machine

variable {s t u : State} {n m k i : Nat} {r : Rx} {p : Port}

/-! ### Reads of ports -/

@[simp] theorem getPort_setPort_same : getPort (setPort n p s) n = p := tget_tset_same _

theorem getPort_setPort_other (h : m ≠ n) : getPort (setPort n p s) m = getPort s m := tget_tset_other h _

@[simp] theorem getPort_updPort_same {f : Port → Port} : getPort (updPort n f s) n = f (getPort s n) := tget_tset_same _

theorem getPort_updPort_other {f : Port → Port} (h : m ≠ n) : getPort (updPort n f s) m = getPort s m := tget_tset_other h _

theorem getPort_congr (h : t.ports = s.ports) : getPort t m = getPort s m := congrArg (tget Port.init m) h

theorem station_congr (h : t.ports = s.ports) : station t n i = station s n i := by rw [station, station, getPort_congr h]

theorem station_updPort {f : Port → Port} (h : ∀ p, (f p).stations = p.stations := by exact fun _ => rfl) :
    station (updPort n f s) m i = station s m i := by
  by_cases hm : m = n
  · subst hm
    rw [station, station, getPort_updPort_same, h]
  · rw [station, station, getPort_updPort_other hm]

@[simp] theorem station_setStation_same {v : Station} : station (setStation n i v s) n i = v := by
  rw [station, setStation, getPort_updPort_same]
  exact tget_tset_same _

theorem station_setStation_other {v : Station} {j : Nat} (h : j ≠ i) : station (setStation n i v s) m j = station s m j := by
  by_cases hm : m = n
  · subst hm
    rw [station, setStation, getPort_updPort_same]
    exact tget_tset_other h _
  · rw [station, setStation, getPort_updPort_other hm, station]

theorem trkCount_port : getPort (trkCount n k s) m = getPort s m := getPort_congr (bump_keeps.at .ports rfl)

theorem trkCount_counted (hk : k < 1024) : Counted (768 + 20 * n + k) 1 s (trkCount n k s) := bump_counted (by omega)

theorem trkCount_other {j : Nat} (h : j ≠ 768 + 20 * n + k) (h64 : j ≠ 64) : Same (count j) s (trkCount n k s) := bump_count h h64

/-! ### What the interfaces count -/

theorem bbDropQueue_count {l : Nat} (h : i < 928) (h78 : i ≠ 78) (h64 : i ≠ 64) : Same (count i) s (bbDropQueue l s) := by
  have hdrop : ∀ v, Same (count i) v (bbpCount l 5 v) := fun v => bump_count (by omega) h64
  unfold bbDropQueue
  refine each_preserves (P := Same (count i) s) (setEgressQ_keeps.same_count rfl) fun x v hv => hv.trans ?_
  split
  · exact (complete_count h78 h64).trans (hdrop _)
  · exact hdrop _

theorem bbKick_count {l : Nat} (h : i < 928) (h78 : i ≠ 78) (h64 : i ≠ 64) : Same (count i) s (bbKick l s) := by
  have hegr : ∀ x, Same (count i) s (startEgr l x s) := fun x => startEgr_keeps.same_count rfl
  have hreply : ∀ m r, Same (count i) s (startReply l m r false s) := fun m r => startReply_keeps.same_count rfl
  unfold bbKick
  refine same_ite (.refl s) (same_ite (same_ite (.refl s) (bbDropQueue_count h h78 h64)) (same_ite (.refl s) ?_))
  dsimp only
  split
  · exact same_ite (hreply _ _) (hegr _)
  · exact hreply _ _
  · exact hegr _
  · exact .refl s

theorem bbSettle_count (h : i < 928) (h78 : i ≠ 78) (h64 : i ≠ 64) : Same (count i) s (bbSettle s) :=
  each_preserves (P := Same (count i) s) (.refl s) fun _ _ hv => (hv.trans (flowCheck_keeps.same_count rfl)).trans (bbKick_count h h78 h64)

/-- Bringing the backbone up to date counts in no trunk counter. -/
theorem bbSettle_trkCount (hn : n < 8) (hk : k < 20) : Same (count (768 + 20 * n + k)) s (bbSettle s) :=
  bbSettle_count (by omega) (by omega) (by omega)

/-! ### The slot's receiver (R33) -/

/-- The receiver of an entry of the schedule. -/
def entryRx (s : State) (n : Nat) (e : SchedEnt) : Rx :=
  openRx s n e.kind (if e.kind = 0 then e.idx else 32) e.addr (getPort s n).cyc e.start false none

theorem seedLoad_entry {slot : Nat} {busy : Bool} {e : SchedEnt} (hrun : (getPort s n).running = true) (hwind : (getPort s n).winding = false)
    (hiso : (getPort s n).iso = false) (hslot : slot < 40) (he : (getPort s n).sched[slot]? = some e) (hk : e.kind = 0) :
    seedLoad n slot false busy s = loadRx n busy (entryRx s n e) s := by
  unfold seedLoad
  dsimp only
  rw [if_neg (by simp [hrun, hwind]), if_pos hslot, if_neg (by decide), he]
  dsimp only
  rw [if_neg (by simp [hiso, hk])]
  rfl

theorem entryRx_granted {e : SchedEnt} (hk : e.kind = 0) : entryRx s n e = openRx s n 0 e.idx e.addr (getPort s n).cyc e.start false none := by
  rw [entryRx, hk, if_pos rfl]

/-! ### Impulses (R36, R37) -/

theorem updRx_rx {f : Rx → Rx} : (getPort (updRx n f s) n).rx = (getPort s n).rx.map f := by rw [updRx, getPort_updPort_same]

theorem updRx_other {f : Rx → Rx} (h : m ≠ n) : getPort (updRx n f s) m = getPort s m := getPort_updPort_other h

theorem impulseFire_hit (h : (getPort s n).rx = some r) :
    impulseFire n s = trkCount n 0 (updRx n (fun r => { r with hit := true, frozen := true }) s) := by
  unfold impulseFire
  rw [h]

/-! ### Symbols (R21) -/

theorem levelPair_pairLevel {b : Nat} (h : b < 4) : levelPair (pairLevel b) = b := by
  have hcases : b = 0 ∨ b = 1 ∨ b = 2 ∨ b = 3 := by omega
  rcases hcases with rfl | rfl | rfl | rfl <;> rfl

theorem symbolsBytes_byteSymbols {b : Byte} : symbolsBytes (byteSymbols b) = [b] := by
  have hpair : ∀ k, levelPair (pairLevel (bitsOf b.toNat k 2)) = bitsOf b.toNat k 2 := fun k => levelPair_pairLevel bitsOf_lt
  have hb : b.toNat < 256 := b.isLt
  have hbits : ∀ k, bitsOf b.toNat k 2 = b.toNat / 2 ^ k % 4 := fun k => by
    rw [bitsOf, Nat.shiftRight_eq_div_pow]
    rfl
  have hsym : byteSymbols b = [pairLevel (bitsOf b.toNat 0 2), pairLevel (bitsOf b.toNat 2 2), pairLevel (bitsOf b.toNat 4 2),
    pairLevel (bitsOf b.toNat 6 2)] := rfl
  rw [hsym]
  simp only [symbolsBytes, hpair]
  simp only [hbits]
  refine congrArg (· :: []) (BitVec.eq_of_toNat_eq ?_)
  rw [BitVec.toNat_ofNat]
  omega

/-! ### Codewords of a contention burst (R29) -/

/-- The receiver has the data of one more codeword. -/
def heard (dl : Nat) (data : List (Option Byte)) (ok : Bool) (r : Rx) : Rx :=
  { r with lens := r.lens ++ [dl], oks := r.oks ++ [ok], record := r.record ++ data }

theorem contention_heard {dl : Nat} {data : List (Option Byte)} {ok : Bool} (h : (getPort s n).rx = some r) :
    (getPort (updRx n (fun r => { r with record := r.record ++ data })
      (updRx n (fun r => { r with lens := r.lens ++ [dl], oks := r.oks ++ [ok] }) s)) n).rx = some (heard dl data ok r) := by
  rw [updRx_rx, updRx_rx, h]
  rfl

theorem addCodeword_good {dl c : Nat} {d : List Byte} (h : (getPort s n).rx = some r) (hk : r.kind = 1) :
    (getPort (addCodeword n dl (some (d, c)) s) n).rx = some (heard dl (d.map some) true r) := by
  have hrx : (getPort (bump (768 + 20 * n + 2) c s) n).rx = some r := by rw [getPort_congr (bump_keeps.at .ports rfl), h]
  unfold addCodeword
  rw [h]
  dsimp only
  rw [if_pos hk]
  exact contention_heard hrx

theorem addCodeword_failed {dl : Nat} (h : (getPort s n).rx = some r) (hk : r.kind = 1) :
    (getPort (addCodeword n dl none s) n).rx = some (heard dl (List.replicate dl none) false r) ∧
      Counted (768 + 20 * n + 1) 1 s (addCodeword n dl none s) := by
  have hrx : (getPort (trkCount n 1 s) n).rx = some r := by rw [trkCount_port, h]
  have heq : addCodeword n dl none s = updRx n (fun r => { r with record := r.record ++ List.replicate dl none })
      (updRx n (fun r => { r with lens := r.lens ++ [dl], oks := r.oks ++ [false] }) (trkCount n 1 s)) := by
    unfold addCodeword
    rw [h]
    dsimp only
    rw [if_pos hk]
  have hcount : Counted (768 + 20 * n + 1) 1 s (trkCount n 1 s) := trkCount_counted (by decide)
  rw [heq]
  exact ⟨contention_heard hrx, (hcount.after (updRx_keeps.same_count rfl)).after (updRx_keeps.same_count rfl)⟩

theorem contention_not_ignored (hk : r.kind = 1) (hd : r.deaf = false) (hst : stopped s = false) : rxIgnored s n r = false := by
  simp [rxIgnored, rxQuarantined, hk, hd, hst]

/-- The receiver has descrambled so far. -/
def descrambled (n st : Nat) (s : State) : State := updRx n (fun r => { r with lfsr := st }) s

theorem codewordDecode_one {symbols : List Int} {cw : List Byte} (h : (getPort s n).rx = some r) (hk : r.kind = 1) (hd : r.deaf = false)
    (hst : stopped s = false) (hlen : (symbolsBytes symbols).length ≤ 240 * 2 ^ (getPort s n).ilv)
    (hcw : deinterleave (scramble r.lfsr (symbolsBytes symbols)).2 = [cw]) :
    codewordDecode n symbols s =
      addCodeword n (cw.length - 16) (decodeCw cw) (descrambled n (scramble r.lfsr (symbolsBytes symbols)).1 s) := by
  unfold codewordDecode
  rw [h]
  dsimp only
  rw [if_neg (show ¬r.kind = 2 by omega), if_neg (by simp [contention_not_ignored hk hd hst]; omega), hcw]
  rfl

theorem descrambled_rx {st : Nat} (h : (getPort s n).rx = some r) : (getPort (descrambled n st s) n).rx = some { r with lfsr := st } := by
  rw [descrambled, updRx_rx, h]
  rfl

/-! ### Headers (R24, R25) -/

/-- The header is noted. -/
def headed (n : Nat) (r : Rx) (x : BurstHdr) (s : State) : State := burstClosed r (updRx n (fun r => { r with hdr := some x }) s)

theorem headed_rx {x : BurstHdr} (h : (getPort s n).rx = some r) : (getPort (headed n r x s) n).rx = some { r with hdr := some x } := by
  rw [headed, getPort_congr (burstClosed_keeps.at .ports rfl), updRx_rx, h]
  rfl

/-- A repeat request leaves the receiver and counts in other counters than that of bad headers. -/
theorem repeatRequest_rx {a b c : Nat} : (getPort (repeatRequest n a b c s) n).rx = (getPort s n).rx := by
  unfold repeatRequest
  dsimp only
  split
  · split
    · rw [getPort_congr (bump_keeps.at .ports rfl), trkCount_port, getPort_updPort_same]
    · rw [trkCount_port]
  · rw [trkCount_port]

/-- A header that is not good is counted. -/
def headerJudged (n : Nat) (x : BurstHdr) (s : State) : State := if x.ok then s else trkCount n 3 s

theorem headerJudged_port {x : BurstHdr} : getPort (headerJudged n x s) m = getPort s m := by
  unfold headerJudged
  split
  · rfl
  · exact trkCount_port

/-- What a header with its repeat request asks for. -/
def repeatAsked (n : Nat) (r : Rx) (x : BurstHdr) (h : List Byte) (s : State) : State :=
  if x.rrq && x.crcOk && !rxIgnored s n { r with hdr := some x } then
    if x.ok && !strangeBurst r x then repeatRequest n x.addr (byteAt h 5) (leAt h 6 2) s else trkCount n 18 s
  else s

theorem repeatAsked_rx {x : BurstHdr} {h : List Byte} : (getPort (repeatAsked n r x h s) n).rx = (getPort s n).rx := by
  unfold repeatAsked
  split
  · split
    · exact repeatRequest_rx
    · rw [trkCount_port]
  · rfl

/-- A header that is not good honours no repeat request. -/
theorem repeatAsked_count {x : BurstHdr} {h : List Byte} (hok : x.ok = false) :
    Same (count (768 + 20 * n + 3)) s (repeatAsked n r x h s) := by
  unfold repeatAsked
  refine same_ite ?_ (.refl s)
  rw [if_neg (by simp [hok])]
  exact trkCount_other (by omega) (by omega)

theorem burstHeader_eq {symbols : List Int} {counted : Nat} (h : (getPort s n).rx = some r) (hh : r.hdr = none) (hd : r.deaf = false)
    (hs : symbols.take 8 = endDelimiter) : burstHeader n symbols counted s =
      repeatAsked n r (parseHdr (padTo 12 (symbolsBytes (symbols.drop 8))) counted r.cyc) (padTo 12 (symbolsBytes (symbols.drop 8)))
        (headerJudged n (parseHdr (padTo 12 (symbolsBytes (symbols.drop 8))) counted r.cyc)
          (headed n r (parseHdr (padTo 12 (symbolsBytes (symbols.drop 8))) counted r.cyc) s)) := by
  unfold burstHeader
  rw [h]
  dsimp only
  rw [if_neg (by simp [hh, hd, hs])]
  rfl

theorem parseHdr_spec {h : List Byte} {counted cyc : Nat} : (parseHdr h counted cyc).addr = byteAt h 0 % 64 ∧ (parseHdr h counted cyc).burstId = byteAt h 1 ∧
    ((parseHdr h counted cyc).crcOk = true ↔ crcMsb 16 0x1021 0xFFFF (h.take 10) = beAt h 10 2) ∧
    ((parseHdr h counted cyc).ok = true → (parseHdr h counted cyc).crcOk = true ∧ (parseHdr h counted cyc).len = counted ∧
      leAt h 8 2 = cyc % 2 ^ 16) := by
  refine ⟨rfl, rfl, decide_eq_true_iff, fun hok => ?_⟩
  have hboth : (decide (crcMsb 16 0x1021 0xFFFF (h.take 10) = beAt h 10 2) &&
      decide (bitsOf (byteAt h 0) 6 2 = 1 ∧ bitsOf (leAt h 2 2) 0 14 = counted ∧ leAt h 8 2 = cyc % 65536)) = true := hok
  rw [Bool.and_eq_true, decide_eq_true_iff, decide_eq_true_iff] at hboth
  obtain ⟨hcrc, -, hlen, hcyc⟩ := hboth
  exact ⟨decide_eq_true hcrc, hlen, hcyc⟩

/-- Settles O15: a slot's receiver starts from its entry, impulses freeze it, and codewords and headers are kept (R21, R22, R25, R33, R36, R37). -/
theorem trunkReceiverHears : Obligations.TrunkReceiverHears := by
  unfold Obligations.TrunkReceiverHears
  refine ⟨?starts, ?behind, ?fires, ?releases, fun b => symbolsBytes_byteSymbols, ?decodes, ?fails, ?header⟩
  case starts =>
    intro s n slot e hrun hwind hiso hslot he hk hbusy
    have heq := seedLoad_entry (busy := false) hrun hwind hiso hslot he hk
    rw [entryRx_granted hk] at heq
    refine ⟨_, openRx s n 0 e.idx e.addr (getPort s n).cyc e.start false none, congrArg Host.Outcome.next heq, ?_, rfl, rfl, rfl, rfl, rfl, rfl, rfl,
      rfl, rfl, rfl, fun m hm => ?_⟩
    · rw [loadRx, getPort_updPort_same, if_neg (by simp [hbusy])]
    · exact getPort_updPort_other hm
  case behind =>
    intro s n slot e hrun hwind hiso hslot he hk hbusy
    have heq := seedLoad_entry (busy := true) hrun hwind hiso hslot he hk
    rw [entryRx_granted hk] at heq
    refine ⟨_, openRx s n 0 e.idx e.addr (getPort s n).cyc e.start false none, congrArg Host.Outcome.next heq, ?_, ?_, rfl, rfl, rfl⟩
    · rw [loadRx, getPort_updPort_same, if_pos hbusy]
    · rw [loadRx, getPort_updPort_same, if_pos hbusy]
  case fires =>
    intro s n r h
    refine ⟨_, congrArg Host.Outcome.next (impulseFire_hit h), ?_, ?_, fun m hm => ?_⟩
    · rw [trkCount_port, updRx_rx, h]
      rfl
    · exact Counted.before (updRx_keeps.same_count rfl) (trkCount_counted (n := n.val) (k := 0) (by decide))
    · rw [trkCount_port, updRx_other hm]
  case releases =>
    intro s n r h
    refine ⟨_, rfl, ?_, rfl, fun m hm => updRx_other hm⟩
    rw [updRx_rx, h]
    rfl
  case decodes =>
    intro s n r symbols cw d c h hk hd hst hlen hcw hdec
    have heq := codewordDecode_one h hk hd hst hlen hcw
    rw [hdec] at heq
    refine ⟨_, heard (cw.length - 16) (d.map some) true { r with lfsr := (scramble r.lfsr (symbolsBytes symbols)).1 },
      congrArg (Host.Outcome.next ∘ bbSettle) heq, ?_, rfl, rfl, rfl, rfl⟩
    rw [getPort_congr (bbSettle_keeps.at .ports rfl)]
    exact addCodeword_good (descrambled_rx h) hk
  case fails =>
    intro s n r symbols cw h hk hd hst hlen hcw hdec
    have heq := codewordDecode_one h hk hd hst hlen hcw
    rw [hdec] at heq
    obtain ⟨hrx, hcount⟩ := addCodeword_failed (dl := cw.length - 16) (descrambled_rx (st := (scramble r.lfsr (symbolsBytes symbols)).1) h) hk
    refine ⟨_, heard (cw.length - 16) (List.replicate (cw.length - 16) none) false { r with lfsr := (scramble r.lfsr (symbolsBytes symbols)).1 },
      congrArg (Host.Outcome.next ∘ bbSettle) heq, ?_, rfl, rfl, ?_⟩
    · rw [getPort_congr (bbSettle_keeps.at .ports rfl)]
      exact hrx
    · exact (Counted.before (updRx_keeps.same_count rfl) hcount).after (bbSettle_trkCount n.isLt (by decide))
  case header =>
    intro s n r symbols h counted hrx hh hd hs hpad
    subst hpad
    obtain ⟨haddr, hid, hcrc, hok⟩ := parseHdr_spec (h := padTo 12 (symbolsBytes (symbols.drop 8))) (counted := counted) (cyc := r.cyc)
    refine ⟨_, { r with hdr := some (parseHdr (padTo 12 (symbolsBytes (symbols.drop 8))) counted r.cyc) }, _,
      congrArg Host.Outcome.next (burstHeader_eq hrx hh hd hs), ?_, rfl, haddr, hid, hcrc, hok, fun hbad => ?_⟩
    · rw [repeatAsked_rx, headerJudged_port, headed_rx hrx]
    · refine Counted.after ?_ (repeatAsked_count hbad)
      rw [headerJudged, if_neg (by simp [hbad])]
      have hheaded : ∀ x, Same (count (768 + 20 * n.val + 3)) s (headed n r x s) := fun x =>
        (updRx_keeps.same_count rfl).trans (burstClosed_keeps.same_count rfl)
      exact Counted.before (hheaded _) (trkCount_counted (by decide))

end Sys2Proof.Machine
end

section

/-!
PROOF. O16: the ends of bursts. The obligation fails: a burst cut at its slot's end also
ends the message of its frame, and the message's end counts on the counter of its stream. In a
state whose message names stream 257 that is the port's own counter of cut bursts.
-/

namespace Sys2Proof.Machine

/-- A frame in reception whose message, 3, has been admitted. -/
def cutFrame : Frame := { (newFrame 7 0 1 [] false) with mid := some 3 }

/-- A message of stream 257 that has ended silently; the counter of its stream's ends is 512 + 257 = 769. -/
def strayMessage : Msg :=
  { mid := 3, stream := 257, seq := 0, slot := 0, bank := 0, cls := 1, tmpl := 0, xmap := 0, fid := 7, ingress := 0,
    origin := none, status := some 1, statusAt := 0, silent := true, noFence := true, held := false, verdict := none,
    gateT0 := 0, loc := .idle, pass := 0, segs := [], input := [], outputs := none, rowsOut := [], staged := false,
    late := false, reply := none }

/-- The slot in which the frame is received: no header yet. -/
def cutRx : Rx :=
  { kind := 0, idx := 0, addr := 0, cyc := 0, start := 0, seed := 63, settings := [], double := false, deaf := false,
    hit := false, frozen := false, lfsr := 0, lens := [], oks := [], record := [], fid := some 7, hdr := none }

/-- Port 0 receives the frame of the stray message. -/
def cutState : State :=
  { State.reset with ports := [(0, { Port.init with rx := some cutRx })], frames := [cutFrame], msgs := [strayMessage] }

theorem exec_burstCut (n : Fin 8) (lost : Nat) (s : State) :
    exec (.burstCutAtSlotEnd n lost) s = .next (bbSettle (burstCut n lost s)) := rfl

/-- Cutting the burst raises counter 769 by two: one for the bad header, one for the message's end. -/
theorem burstCut_cutState_counts_twice :
    ¬ Counted (768 + 20 * 0 + 1) 1 cutState (bbSettle (burstCut 0 1 cutState)) := by
  unfold Counted
  decide +kernel

/-- Refutes O16: in `cutState` a cut burst raises the port's counter of bad headers by two, not by one. -/
theorem not_trunkReceiverEnds : ¬ Obligations.TrunkReceiverEnds := by
  unfold Obligations.TrunkReceiverEnds
  rintro ⟨-, hcut, -⟩
  obtain ⟨t, hexec, -, hcount, -⟩ := hcut cutState 0 cutRx 1 (by decide +kernel) rfl rfl (by decide +kernel)
  rw [exec_burstCut] at hexec
  exact burstCut_cutState_counts_twice (Host.Outcome.next.inj hexec ▸ hcount)

end Sys2Proof.Machine

end

section

/-!
PROOF. O58: the reads of the two-wire port. Every read is `twpRead` of its code with its image, so one lemma says
what an accepted read answers and what it leaves alone; each read adds what its image holds.
-/

namespace Sys2Proof.Machine

variable {s t : State} {a code : Nat} {img : State → List Byte}

/-! ### Transfers in general -/

theorem twpRead_accepted (h : Accepts s a code) :
    twpRead code a img s = twpDone (img s ++ [BitVec.ofNat 8 (pec
      ([BitVec.ofNat 8 (2 * a), BitVec.ofNat 8 code, BitVec.ofNat 8 (2 * a + 1)] ++ img s))]) s := by
  obtain ⟨hup, hkind, hoff⟩ := h
  simp [twpRead, hup, hkind, hoff]

theorem twpDone_reply {bs : List Byte} : (twpDone bs s).twp = { s.twp with reply := bs, nacked := false } := by simp [twpDone]

theorem twpDone_regs {bs : List Byte} : (twpDone bs s).regs = s.regs :=
  (bump_host (s := { s with twp := { s.twp with reply := bs, nacked := false } })).regs_eq

theorem twpNack_regs : (twpNack s).regs = s.regs :=
  (bump_host (s := { s with twp := { s.twp with reply := [], nacked := true } })).regs_eq

theorem twpDone_counted {bs : List Byte} : Counted 88 1 s (twpDone bs s) := bump_counted (by decide)

theorem twpNack_counted : Counted 89 1 s (twpNack s) := bump_counted (by decide)

/-- An accepted read answers its image of the state it found. -/
theorem twpRead_answers (h : Accepts s a code) : Answers s (twpRead code a img s) a code (img s) := by
  rw [twpRead_accepted h]
  exact ⟨by rw [twpDone_reply], twpDone_counted, by rw [twpDone_reply]⟩

theorem twpRead_regs (h : Accepts s a code) : (twpRead code a img s).regs = s.regs := by
  rw [twpRead_accepted h]
  exact twpDone_regs

theorem twpRead_yoke : (twpRead code a img s).yoke = s.yoke := twpRead_keeps.at .yoke rfl

/-- What a read that is a bare `twpRead` of one code owes: its answer, and the registers as they were. -/
theorem exec_twpRead {i : Instr} (he : exec i s = .next (twpRead code a img s)) (h : Accepts s a code) :
    ∃ t, exec i s = .next t ∧ Answers s t a code (img s) ∧ t.regs = s.regs ∧ t.yoke = s.yoke :=
  ⟨_, he, twpRead_answers h, twpRead_regs h, twpRead_yoke⟩

/-! ### IDENT and STATUS -/

theorem identBytes_length : (identBytes s).length = 17 := by simp [identBytes, length_leBytes]

theorem identBytes_head : byteAt (identBytes s) 0 = 16 ∧ leAt (identBytes s) 1 2 = 0x0640 := ⟨rfl, rfl⟩

theorem identBytes_straps :
    byteAt (identBytes s) 15 = s.glb.strapSmb % 8 ∧ byteAt (identBytes s) 16 = s.glb.strapSeed % 16 := by
  have h15 : byteAt (identBytes s) 15 = (BitVec.ofNat 8 (s.glb.strapSmb % 8)).toNat := rfl
  have h16 : byteAt (identBytes s) 16 = (BitVec.ofNat 8 (s.glb.strapSeed % 16)).toNat := rfl
  rw [h15, h16, BitVec.toNat_ofNat, BitVec.toNat_ofNat]
  omega

theorem identBytes_fuses (h : otpLoaded s = true) : byteAt (identBytes s) 4 = 1 ∧
    leAt (identBytes s) 5 8 = s.glb.otp.serial % 2 ^ 64 ∧ leAt (identBytes s) 13 2 = s.glb.otp.rev % 2 ^ 16 := by
  have hvalid : byteAt (identBytes s) 4 = (BitVec.ofNat 8 (b2n (otpLoaded s))).toNat := rfl
  have hserial : slice (identBytes s) 5 8 = leBytes 8 (if otpLoaded s then s.glb.otp.serial else 0) := rfl
  have hrev : slice (identBytes s) 13 2 = leBytes 2 (if otpLoaded s then s.glb.otp.rev else 0) := rfl
  rw [leAt, leAt, hvalid, hserial, hrev, h, leNat_leBytes, leNat_leBytes]
  exact ⟨rfl, rfl, rfl⟩

theorem identBytes_blank (h : otpLoaded s = false) : leAt (identBytes s) 3 12 = 0 := by
  have hbytes : slice (identBytes s) 3 12 = leBytes 1 (if otpLoaded s then s.glb.otp.iodGen else 0) ++
      leBytes 1 (b2n (otpLoaded s)) ++ leBytes 8 (if otpLoaded s then s.glb.otp.serial else 0) ++
      leBytes 2 (if otpLoaded s then s.glb.otp.rev else 0) := rfl
  rw [leAt, hbytes, h]
  simp only [Bool.false_eq_true, if_false]
  decide

theorem b2n_le (b : Bool) : b2n b ≤ 1 := by cases b <;> decide

theorem phaseNum_lt (p : Phase) : phaseNum p < 16 := by cases p <;> decide

/-- A bit of a word in which the bit's weight carries `b2n b`. -/
theorem testBit_of_div {w k : Nat} {b : Bool} (h : w / 2 ^ k % 2 = b2n b) : w.testBit k = b := by
  rw [Nat.testBit_eq_decide_div_mod_eq, h]
  cases b <;> rfl

theorem statusWord_phase : statusWord s % 16 = phaseNum s.glb.phase := by
  have hphase := phaseNum_lt s.glb.phase
  unfold statusWord
  omega

theorem statusWord_die {d : Nat} (hd : d < 4) : (statusWord s).testBit (4 + d) = s.glb.dieOk.testBit d := by
  have hphase := phaseNum_lt s.glb.phase
  have hdie : s.glb.dieOk.testBit d = (s.glb.dieOk % 2 ^ 4).testBit d := by rw [Nat.testBit_mod_two_pow]; simp [hd]
  have hword : statusWord s / 2 ^ 4 % 2 ^ 4 = s.glb.dieOk % 2 ^ 4 := by unfold statusWord; omega
  rw [hdie, ← hword, Nat.testBit_mod_two_pow, Nat.testBit_div_two_pow]
  simp [hd, Nat.add_comm]

theorem statusWord_flags : (statusWord s).testBit 8 = faultLow s ∧ (statusWord s).testBit 9 = s.glb.deviceFatal ∧
    (statusWord s).testBit 10 = alertLow s ∧ (statusWord s).testBit 12 = s.glb.run ∧
    (statusWord s).testBit 13 = decide (yokState s = 6) := by
  have hphase := phaseNum_lt s.glb.phase
  have h1 := b2n_le (faultLow s)
  have h2 := b2n_le s.glb.deviceFatal
  have h3 := b2n_le (alertLow s)
  have h4 := b2n_le (s.glb.perstLow || !connected s)
  have h5 := b2n_le s.glb.run
  have h6 := b2n_le (decide (yokState s = 6))
  refine ⟨testBit_of_div ?_, testBit_of_div ?_, testBit_of_div ?_, testBit_of_div ?_, testBit_of_div ?_⟩ <;>
    (unfold statusWord; omega)

/-! ### Temperatures -/

theorem tempBytes_ofNat (x : Nat) : tempBytes x = leBytes 2 x := by
  simp only [tempBytes, leBytes, ofSigned]
  congr 1
  · apply BitVec.eq_of_toNat_eq; simp; omega
  · congr 1; apply BitVec.eq_of_toNat_eq; simp; omega

theorem le_foldl_max (l : List Int) (x : Int) : x ≤ l.foldl max x ∧ (∀ y ∈ l, y ≤ l.foldl max x) := by
  induction l generalizing x with
  | nil => simp
  | cons z zs ih =>
    obtain ⟨hstart, hmem⟩ := ih (max x z)
    exact ⟨le_trans (le_max_left x z) hstart, List.forall_mem_cons.mpr ⟨le_trans (le_max_right x z) hstart, hmem⟩⟩

theorem foldl_max_mem (l : List Int) (x : Int) : l.foldl max x = x ∨ l.foldl max x ∈ l := by
  induction l generalizing x with
  | nil => simp
  | cons z zs ih =>
    rcases ih (max x z) with h | h
    · rcases max_choice x z with hx | hz
      · exact .inl (h.trans hx)
      · exact .inr (List.mem_cons.mpr (.inl (h.trans hz)))
    · exact .inr (List.mem_cons_of_mem _ h)

theorem readings_eq (l : List (BitVec 16)) : readings l = l.map BitVec.toInt :=
  List.map_congr_left fun x _ => toSigned_toNat x

/-- The hottest of a non-empty list of readings is one of them. -/
theorem hotter_readings {l : List (BitVec 16)} (h : l ≠ []) :
    (∀ x ∈ l, x.toInt ≤ hotter (readings l)) ∧ ∃ x ∈ l, x.toInt = hotter (readings l) := by
  rw [readings_eq]
  have hle : ∀ x ∈ l, x.toInt ≤ hotter (l.map BitVec.toInt) := fun x hx => (le_foldl_max _ noTemp).2 _ (List.mem_map_of_mem hx)
  refine ⟨hle, ?_⟩
  rcases foldl_max_mem (l.map BitVec.toInt) noTemp with hnone | hsome
  · obtain ⟨x, hx⟩ := List.exists_mem_of_ne_nil l h
    have hlow : noTemp ≤ x.toInt := by have := x.le_toInt; simpa [noTemp] using this
    exact ⟨x, hx, le_antisymm (hle x hx) (hnone.trans_le hlow)⟩
  · exact List.mem_map.mp hsome

theorem le_hotter {l : List Int} {x : Int} (h : x ∈ l) : x ≤ hotter l := (le_foldl_max l noTemp).2 x h

/-- A die without a reading answers 0x8000, any other its copy. -/
theorem tempBytes_dieTemp {d : Nat} : ∃ m, tempBytes (dieTemp s d) = leBytes 2 m ∧
    (s.glb.dieFatal.testBit d = true ∨ s.glb.dieOk.testBit d = false ∨ s.yoke.hot[d]? = none → m = 0x8000) ∧
    (s.glb.dieFatal.testBit d = false → s.glb.dieOk.testBit d = true → ∀ x, s.yoke.hot[d]? = some x → m = x) := by
  have hnone : tempBytes noTemp = leBytes 2 0x8000 := by decide
  unfold dieTemp
  split
  next hdead =>
    refine ⟨0x8000, hnone, fun _ => rfl, fun hf ho => ?_⟩
    simp [hf, ho] at hdead
  next hlive =>
    simp only [Bool.or_eq_true, Bool.not_eq_true', not_or, Bool.not_eq_true, Bool.not_eq_false] at hlive
    cases hx : s.yoke.hot[d]? with
    | some x => exact ⟨x, tempBytes_ofNat x, by simp [hlive], fun _ _ y hy => Option.some.inj hy⟩
    | none => exact ⟨0x8000, hnone, fun _ => rfl, fun _ _ _ hy => by simp at hy⟩

/-! ### The thermal word -/

/-- The copies of the four dies' capped plots, one bit each. -/
def cappedDie (s : State) (d : Nat) : Bool := (List.range 16).any (fun p => decide ((getPlot s (16 * d + p)).cap ≠ 0))

theorem thermalWord_eq : thermalWord s = b2n (cappedDie s 0) + 2 * b2n (cappedDie s 1) + 4 * b2n (cappedDie s 2) +
    8 * b2n (cappedDie s 3) + 16 * b2n ((List.range 64).any (fun p => decide (420 ≤ (getPlot s p).sensor))) := by
  have h : thermalWord s = 0 + 2 ^ 0 * b2n (cappedDie s 0) + 2 ^ 1 * b2n (cappedDie s 1) + 2 ^ 2 * b2n (cappedDie s 2) +
    2 ^ 3 * b2n (cappedDie s 3) + 16 * b2n ((List.range 64).any (fun p => decide (420 ≤ (getPlot s p).sensor))) := rfl
  omega

theorem cappedDie_iff {d : Nat} : cappedDie s d = true ↔ ∃ k, k < 16 ∧ (getPlot s (16 * d + k)).cap ≠ 0 := by simp [cappedDie]

theorem thermalWord_spec : thermalWord s < 32 ∧
    (∀ d, d < 4 → ((thermalWord s).testBit d = true ↔ ∃ k, k < 16 ∧ (getPlot s (16 * d + k)).cap ≠ 0)) ∧
    ((thermalWord s).testBit 4 = true ↔ ∃ p, p < 64 ∧ 420 ≤ (getPlot s p).sensor) := by
  have h0 := b2n_le (cappedDie s 0)
  have h1 := b2n_le (cappedDie s 1)
  have h2 := b2n_le (cappedDie s 2)
  have h3 := b2n_le (cappedDie s 3)
  have h4 := b2n_le ((List.range 64).any (fun p => decide (420 ≤ (getPlot s p).sensor)))
  rw [thermalWord_eq]
  refine ⟨by omega, fun d hd => ?_, ?_⟩
  · rw [← cappedDie_iff, Bool.coe_iff_coe]
    interval_cases d <;> exact testBit_of_div (by omega)
  · rw [testBit_of_div (b := (List.range 64).any (fun p => decide (420 ≤ (getPlot s p).sensor))) (by omega)]
    simp

/-! ### COUNTER_READ, DRAIN_READ, PORT_STATUS_READ and codes the port does not take -/

theorem take_drop_snap (l : List Byte) (n : Nat) : l.drop (l.take n).length = l.drop n := by
  rw [List.length_take]
  rcases le_total n l.length with h | h
  · rw [min_eq_left h]
  · rw [min_eq_right h, List.drop_length, List.drop_of_length_le h]

theorem counterRead_accepted (h : Accepts s a 0x41) : ∃ u, counterRead a s = u ∧
    u.twp.snap = s.twp.snap.drop (if (getReg s 0x3800).testBit 2 then 248 else 32) ∧
    Answers s u a 0x41 (leBytes 1 (snapNext s).length ++ snapNext s) := by
  have hread := twpRead_answers (img := fun s => leBytes 1 (snapNext s).length ++ snapNext s) h
  have hsnap : (twpRead 0x41 a (fun s => leBytes 1 (snapNext s).length ++ snapNext s) s).twp.snap = s.twp.snap := by
    rw [twpRead_accepted h, twpDone_reply]
  obtain ⟨hnack, hcount, hreply⟩ := hread
  obtain ⟨hup, hkind, hoff⟩ := h
  refine ⟨_, rfl, ?_, ?_⟩ <;> simp only [counterRead, hup, hkind, hoff, Bool.and_self, decide_true, if_true]
  · rw [hsnap, snapNext, take_drop_snap]
  · exact ⟨hnack, hcount, hreply⟩

theorem portStatusBytes (x y z : Nat) : leBytes 2 (x % 16 + 16 * (y % 8) + 256 * (z % 256)) =
    [BitVec.ofNat 8 (x % 16 + 16 * (y % 8)), BitVec.ofNat 8 z] := by
  have hlow : BitVec.ofNat 8 (x % 16 + 16 * (y % 8) + 256 * (z % 256)) = BitVec.ofNat 8 (x % 16 + 16 * (y % 8)) := by
    apply BitVec.eq_of_toNat_eq; simp
  have hhigh : (x % 16 + 16 * (y % 8) + 256 * (z % 256)) / 256 = z % 256 := by omega
  have hmod : BitVec.ofNat 8 (z % 256) = BitVec.ofNat 8 z := by apply BitVec.eq_of_toNat_eq; simp
  rw [leBytes, leBytes, leBytes, hlow, hhigh, hmod]

theorem twpNack_spec : (twpNack s).twp.nacked = true ∧ (twpNack s).twp.reply = [] := by simp [twpNack]

theorem unknownCommand_nacks {read : Bool} (hup : twpUp s = true) (hkind : addrKind s a ≠ .other)
    (hcode : (if read then readCodes.contains code else writeCodes.contains code) = false) :
    unknownCommand a code read s = twpNack s := by
  simp only [unknownCommand, hup, hkind, hcode]
  simp

theorem twpRead_unoffered (hup : twpUp s = true) (hkind : addrKind s a = .full) (hoff : codeOffered s code = false) :
    twpRead code a img s = twpNack s := by
  simp [twpRead, hup, hkind, hoff]

/-- Settles O58: each read answers the image its code names. -/
theorem twoWireReads : Obligations.TwoWireReads := by
  unfold Obligations.TwoWireReads
  intro s a
  refine ⟨fun h => ?_, fun h => ?_, fun h => ?_, fun d h => ?_, fun iod h hne => ?_, fun hbm h hne => ?_, fun iod hbm h => ?_,
    fun h => ?_, fun w hw => hw ▸ thermalWord_spec, fun h => ?_, fun h => ?_, fun h => ?_, fun h => ?_, fun n h hn => ?_,
    fun h => ?_, fun h => ?_, fun code read hup hkind hcode => ?_, fun hup hkind hoff => ?_⟩
  case refine_1 =>
    obtain ⟨t, he, hans, hregs, -⟩ := exec_twpRead (i := .ident a) rfl h
    exact ⟨t, _, he, hans, identBytes_length, identBytes_head.1, identBytes_head.2, identBytes_fuses, identBytes_blank,
      identBytes_straps.1, identBytes_straps.2, hregs⟩
  case refine_2 =>
    obtain ⟨t, he, hans, hregs, -⟩ := exec_twpRead (i := .status a) rfl h
    obtain ⟨h8, h9, h10, h12, h13⟩ := statusWord_flags (s := s)
    exact ⟨t, _, he, hans, statusWord_phase, fun d hd => statusWord_die hd, h8, h9, h10, h12, h13, hregs⟩
  case refine_3 =>
    obtain ⟨t, he, hans, hregs, -⟩ := exec_twpRead (i := .eventSummary a) rfl h
    exact ⟨t, he, hregs, hans⟩
  case refine_4 =>
    obtain ⟨t, he, hans, -, hyoke⟩ := exec_twpRead (i := .tempCd a d) rfl h
    obtain ⟨m, hbytes, hnone, hsome⟩ := tempBytes_dieTemp (s := s) (d := d)
    exact ⟨t, m, he, hbytes ▸ hans, hyoke, hnone, hsome⟩
  case refine_5 =>
    obtain ⟨t, he, hans, -, -⟩ := exec_twpRead (i := .tempIod a iod) rfl h
    exact ⟨t, _, he, hans, hotter_readings hne⟩
  case refine_6 =>
    obtain ⟨t, he, hans, -, -⟩ := exec_twpRead (i := .tempHbm a hbm) rfl h
    exact ⟨t, _, he, hans, hotter_readings hne⟩
  case refine_7 =>
    obtain ⟨t, he, hans, -, -⟩ := exec_twpRead (i := .tempMax a iod hbm) rfl h
    refine ⟨t, _, he, hans, fun x hx => le_hotter ?_, fun d hd => le_hotter ?_⟩
    · rw [readings_eq]
      exact List.mem_append_left _ (List.mem_map_of_mem hx)
    · exact List.mem_append_right _ (List.mem_map_of_mem (List.mem_range.mpr hd))
  case refine_8 =>
    obtain ⟨t, he, hans, -, hyoke⟩ := exec_twpRead (i := .thermalState a) rfl h
    exact ⟨t, he, hans, hyoke⟩
  case refine_9 =>
    obtain ⟨t, he, hans, -, hyoke⟩ := exec_twpRead (i := .pkgPower a) rfl h
    exact ⟨t, he, hans, hyoke⟩
  case refine_10 =>
    obtain ⟨t, he, hans, -, hyoke⟩ := exec_twpRead (i := .yokeState a) rfl h
    exact ⟨t, he, hyoke, hans⟩
  case refine_11 =>
    obtain ⟨t, he, hans, hregs, -⟩ := exec_twpRead (i := .drainRead a) rfl h
    have hbyte : leBytes 1 (b2n (decide (yokState s = 5 ∨ yokState s = 6))) =
        [if yokState s = 5 ∨ yokState s = 6 then 1#8 else 0#8] := by
      by_cases hst : yokState s = 5 ∨ yokState s = 6 <;> simp [hst, b2n, leBytes]
    exact ⟨t, he, yokState_congr (by rw [getReg, getReg, hregs]), hbyte ▸ hans⟩
  case refine_12 =>
    obtain ⟨t, he, hans, hregs, -⟩ := exec_twpRead (i := .ceilingRead a) rfl h
    exact ⟨t, he, hans, hregs⟩
  case refine_13 =>
    obtain ⟨u, hu, hsnap, hans⟩ := counterRead_accepted h
    exact ⟨u, congrArg Host.Outcome.next hu, hn ▸ hsnap, hn ▸ hans⟩
  case refine_14 =>
    obtain ⟨t, he, hans, hregs, -⟩ := exec_twpRead (i := .addrCfgRead a) rfl h
    exact ⟨t, he, hans, hregs⟩
  case refine_15 =>
    obtain ⟨t, he, hans, hregs, -⟩ := exec_twpRead (i := .portStatusRead a) rfl h
    rw [portStatusBytes] at hans
    exact ⟨t, he, hregs, hans⟩
  case refine_16 =>
    exact ⟨_, congrArg Host.Outcome.next (unknownCommand_nacks hup hkind hcode), twpNack_spec.1, twpNack_spec.2,
      twpNack_counted, twpNack_regs⟩
  case refine_17 =>
    exact ⟨_, congrArg Host.Outcome.next (twpRead_unoffered hup hkind hoff), twpNack_spec.1, twpNack_counted⟩

end Sys2Proof.Machine

end

section

/-!
PROOF. The parts of an epoch of the Yoke (O50, O52, O59): what the head adopts, how it moves the level and the state,
what it grants and reports, and which registers and which fields of the head each part leaves as they were.
-/

namespace Sys2Proof.Machine

variable {s t u : State} {n d : Nat}

/-! ### Registers outside a list read as before -/

def RegsBut (offs : List Nat) (s t : State) : Prop := ∀ off, off ∉ offs → getReg t off = getReg s off

section
variable {offs : List Nat}

theorem RegsBut.refl (s : State) : RegsBut offs s s := fun _ _ => rfl

theorem RegsBut.trans (h : RegsBut offs s t) (k : RegsBut offs t u) : RegsBut offs s u := fun off ho => (k off ho).trans (h off ho)

theorem Keeps.regsBut {ps : List Piece} (k : Keeps ps s t) (h : (pieceBits regParts &&& pieceBits ps == 0) = true) : RegsBut offs s t :=
  fun _ _ => k.getReg_eq h

theorem regsBut_setReg {off v : Nat} (h : off ∈ offs) : RegsBut offs s (setReg off v s) := fun _ ho =>
  getReg_setReg_other fun e => ho (e ▸ h)

theorem regsBut_ite {p : Prop} [Decidable p] {a b : State} (ha : RegsBut offs s a) (hb : RegsBut offs s b) :
    RegsBut offs s (if p then a else b) := by
  split <;> assumption

theorem regsBut_each {α : Type} {l : List α} {f : α → State → State} (hf : ∀ a v, RegsBut offs v (f a v)) : RegsBut offs s (each l f s) :=
  each_preserves (P := RegsBut offs s) (.refl s) fun a v h => h.trans (hf a v)

theorem RegsBut.regF_eq (h : RegsBut offs s t) {off lo len : Nat} (ho : off ∉ offs) : regF t off lo len = regF s off lo len := by
  rw [regF, regF, h off ho]

end

/-! ### States, ramps and hold-offs -/

theorem regsBut_setYok {offs : List Nat} (h : 0x2880 ∈ offs) : RegsBut offs s (setYok n s) := by
  unfold setYok
  extract_lets old s1 s2
  have h1 : RegsBut offs s s1 := regsBut_ite (latchAlert_keeps.regsBut rfl) (.refl s)
  have h2 : RegsBut offs s s2 := regsBut_ite (h1.trans (regsBut_each fun _ _ => startPlot_keeps.regsBut rfl)) h1
  exact regsBut_ite (.refl s) ((h2.trans (regsBut_setReg h)).trans (raise_keeps.regsBut rfl))

/-- The registers that a drain or a resume may write: YOK_STATE and YOK_HOLDOFF_MS. -/
abbrev stateRegs : List Nat := [0x2880, 0x28A4]

theorem beginRamp_regs : RegsBut stateRegs s (beginRamp s) := by
  unfold beginRamp
  exact RegsBut.trans (t := { s with yoke := _, glb := _ }) (fun _ _ => rfl) (regsBut_setYok (by decide))

theorem beginHold_regs : RegsBut stateRegs s (beginHold s) := by
  unfold beginHold
  exact RegsBut.trans (t := { s with yoke := _ }) (fun _ _ => rfl) (regsBut_setReg (by decide))

theorem drainRequest_regs : RegsBut stateRegs s (drainRequest s) := by
  unfold drainRequest
  split
  · exact fun _ _ => rfl
  · exact fun _ _ => rfl
  · exact RegsBut.trans (t := { s with yoke := _ }) (fun _ _ => rfl) (regsBut_setYok (by decide))
  · exact RegsBut.trans (t := { s with yoke := _ }) (fun _ _ => rfl) (regsBut_setYok (by decide))
  · exact regsBut_setYok (by decide)
  · exact regsBut_setYok (by decide)
  · exact .refl s

theorem resumeRequest_regs {now : Bool} : RegsBut stateRegs s (resumeRequest now s) := by
  unfold resumeRequest
  split
  · exact beginRamp_regs
  · refine regsBut_ite (.refl s) (regsBut_ite beginRamp_regs ?_)
    exact RegsBut.trans (t := { s with yoke := _ }) (fun _ _ => rfl) beginHold_regs
  · exact .refl s

/-- The head without what a drain or a resume changes. -/
def steadyHead (s : State) : Yoke :=
  { s.yoke with holdT0 := 0, holdSched := false, holding := false, startAt := none, drainReq := false }

theorem Keeps.same_steadyHead {ps : List Piece} (k : Keeps ps s t) (h : subParts [.yoke] ps = false) : Same steadyHead s t := by
  have hyoke : t.yoke = s.yoke := k.at .yoke h
  exact (show steadyHead t = steadyHead s by unfold steadyHead; rw [hyoke])

theorem beginRamp_head : Same steadyHead s (beginRamp s) := by
  unfold beginRamp
  exact Same.trans (t := { s with yoke := _, glb := _ }) rfl (setYok_keeps.same_steadyHead rfl)

theorem beginHold_head : Same steadyHead s (beginHold s) := rfl

theorem drainRequest_head : Same steadyHead s (drainRequest s) := by
  unfold drainRequest
  split
  · exact rfl
  · exact rfl
  · exact Same.trans (t := { s with yoke := _ }) rfl (setYok_keeps.same_steadyHead rfl)
  · exact Same.trans (t := { s with yoke := _ }) rfl (setYok_keeps.same_steadyHead rfl)
  · exact setYok_keeps.same_steadyHead rfl
  · exact setYok_keeps.same_steadyHead rfl
  · exact .refl s

theorem resumeRequest_head {now : Bool} : Same steadyHead s (resumeRequest now s) := by
  unfold resumeRequest
  split
  · exact beginRamp_head
  · refine same_ite (.refl s) (same_ite beginRamp_head ?_)
    exact Same.trans (t := { s with yoke := _ }) rfl beginHold_head
  · exact .refl s

theorem yokState_beginRamp : yokState (beginRamp s) = 3 := yokState_setYok (by decide)

theorem yokState_beginHold : yokState (beginHold s) = yokState s := by
  apply yokState_congr
  rw [beginHold, getReg_setReg_other (by decide)]
  rfl

theorem beginRamp_yoke : (beginRamp s).yoke = { s.yoke with holding := false, holdSched := false, startAt := none } := by simp [beginRamp]

theorem beginHold_yoke : (beginHold s).yoke =
    { s.yoke with holdT0 := s.clk.now, holdSched := (getReg s 0x2818).testBit 0, startAt := none } := rfl

/-! ### What each state does with a drain or a resume -/

theorem drainRequest_running (h : yokState s = 3 ∨ yokState s = 4) : drainRequest s = setYok 5 s := by
  rcases h with h | h <;> simp [drainRequest, h]

theorem drainRequest_waiting (h : yokState s = 1 ∨ yokState s = 2) :
    drainRequest s = setYok 6 { s with yoke := { s.yoke with startAt := none, holdSched := false } } := by
  rcases h with h | h <;> simp [drainRequest, h]

theorem drainRequest_down (h : yokState s = 0 ∨ yokState s = 7) : drainRequest s = { s with yoke := { s.yoke with drainReq := true } } := by
  rcases h with h | h <;> simp [drainRequest, h]

theorem drainRequest_drained (h : yokState s = 5 ∨ yokState s = 6) : drainRequest s = s := by
  rcases h with h | h <;> simp [drainRequest, h]

theorem resumeRequest_draining {now : Bool} (h : yokState s = 5) : resumeRequest now s = beginRamp s := by simp [resumeRequest, h]

theorem resumeRequest_now (h : yokState s = 6) (hhold : s.yoke.holding = false) (hstart : s.yoke.startAt = none) (hrun : s.glb.run = true) :
    resumeRequest true s = beginRamp s := by
  simp [resumeRequest, h, hhold, hstart, hrun]

theorem resumeRequest_holds (h : yokState s = 6) (hhold : s.yoke.holding = false) (hstart : s.yoke.startAt = none) (hrun : s.glb.run = true) :
    resumeRequest false s = beginHold { s with yoke := { s.yoke with holding := true } } := by
  simp [resumeRequest, h, hhold, hstart, hrun]

/-- A drain or a resume leaves OFF, and does not enter it. -/
theorem drainRequest_off : yokState (drainRequest s) = 0 ↔ yokState s = 0 := by
  unfold drainRequest
  split
  case h_1 h => exact Iff.rfl
  case h_2 h => exact Iff.rfl
  case h_3 h => rw [yokState_setYok (by decide), h]; decide
  case h_4 h => rw [yokState_setYok (by decide), h]; decide
  case h_5 h => rw [yokState_setYok (by decide), h]; decide
  case h_6 h => rw [yokState_setYok (by decide), h]; decide
  case h_7 => exact Iff.rfl

theorem resumeRequest_off {now : Bool} : yokState (resumeRequest now s) = 0 ↔ yokState s = 0 := by
  unfold resumeRequest
  split
  case h_1 h => rw [yokState_beginRamp, h]; decide
  case h_2 h =>
    split
    · exact Iff.rfl
    · split
      · rw [yokState_beginRamp, h]; decide
      · rw [yokState_beginHold]; exact Iff.rfl
  case h_3 => exact Iff.rfl

/-! ### The stages of an epoch -/

/-- The copies refreshed, the measurement noted. -/
def copied (imon : List Nat) (s : State) : State := refreshCopies { s with yoke := { s.yoke with imon := imon } }

/-- The board's requests have acted and the ceilings are adopted. -/
def ceiled (imon : List Nat) (s : State) : State := adoptCeils (adoptBoard (copied imon s))

/-- The YOKE_SETs that waited are adopted too. -/
def adopted (imon : List Nat) (s : State) : State :=
  each (ceiled imon s).yoke.sets (fun x s => adoptSet x.1 x.2 s)
    { ceiled imon s with yoke := { (ceiled imon s).yoke with sets := [] } }

def leveled (s : State) : State := levelStates (moveLevel s)

def granted (s : State) : State := reportDemand (sendGrants (descendLost (leveled s)))

/-- The measured power is shown and checked against the band. -/
def metered (imon : List Nat) (s : State) : State :=
  match measured s imon with
  | some m => bandCheck m (setReg 0x288C (m / 250) s)
  | none => setReg 0x288C (s.yoke.level / 250) { s with yoke := { s.yoke with bandOut := 0 } }

def steered (s : State) : State := if plotsOn s then each (livePlots s) steerPlot s else s

/-- What the head does in every state but OFF, once it has adopted what waited. -/
def governed (imon duty : List Nat) (s : State) : State :=
  yokReport (setDuties duty (steered (metered imon (countBallast (granted s)))))

theorem yokeEpoch_eq {imon duty : List Nat} (h : yokeUp s = true) :
    yokeEpoch imon duty s = if yokState (adopted imon s) = 0 then adopted imon s else governed imon duty (adopted imon s) := by
  unfold yokeEpoch
  rw [if_neg (by simp [h])]
  rfl

/-! ### Adoption: the board's requests -/

/-- What the head does with one byte of DRAIN. -/
def boardStep (v : Nat) (s : State) : State :=
  raise 0x1102 0 0x30 v 0 (if v = 1 then drainRequest s else resumeRequest (decide (v = 2)) s)

theorem adoptBoard_eq : adoptBoard s = each s.yoke.board boardStep { s with yoke := { s.yoke with board := [] } } := rfl

theorem boardStep_regs {v : Nat} : RegsBut stateRegs s (boardStep v s) :=
  (regsBut_ite drainRequest_regs resumeRequest_regs).trans (raise_keeps.regsBut rfl)

theorem boardStep_head {v : Nat} : Same steadyHead s (boardStep v s) :=
  (same_ite drainRequest_head resumeRequest_head).trans (raise_keeps.same_steadyHead rfl)

theorem boardStep_off {v : Nat} : yokState (boardStep v s) = 0 ↔ yokState s = 0 := by
  rw [boardStep, yokState_congr (raise_keeps.getReg_eq rfl)]
  split
  · exact drainRequest_off
  · exact resumeRequest_off

theorem adoptBoard_regs : RegsBut stateRegs s (adoptBoard s) := by
  rw [adoptBoard_eq]
  exact RegsBut.trans (t := { s with yoke := { s.yoke with board := [] } }) (fun _ _ => rfl) (regsBut_each fun _ _ => boardStep_regs)

theorem adoptBoard_head : Same steadyHead { s with yoke := { s.yoke with board := [] } } (adoptBoard s) := by
  rw [adoptBoard_eq]
  exact same_each (.refl _) fun _ _ => boardStep_head

theorem adoptBoard_off : yokState (adoptBoard s) = 0 ↔ yokState s = 0 := by
  rw [adoptBoard_eq]
  exact each_preserves (P := fun t => yokState t = 0 ↔ yokState s = 0) Iff.rfl fun _ _ h => boardStep_off.trans h

/-! ### Adoption: the ceilings -/

/-- A step over a list brings about its own element's fact, if no element of the list undoes another's. -/
theorem each_establishes_mem {α : Type} {as : List α} {f : α → State → State} {P : α → State → Prop} (hself : ∀ a ∈ as, ∀ v, P a (f a v))
    (hkeep : ∀ a ∈ as, ∀ b ∈ as, ∀ v, P b v → P b (f a v)) : ∀ a ∈ as, P a (each as f s) := by
  intro a ha
  obtain ⟨front, back, rfl⟩ := List.append_of_mem ha
  have hsplit : each (front ++ a :: back) f s = each back f (f a (each front f s)) := by simp [each]
  rw [hsplit]
  exact each_preserves_mem (P := P a) (hself a ha _) fun b hb v hv => hkeep b (by simp [hb]) a ha v hv

/-- The register of a source's ceiling: host, board, site. -/
def ceilReg (k : Nat) : Nat := if k = 0 then 0x2800 else if k = 1 then 0x289C else 0x28A0

/-- The last ceiling that a source has left for the epoch. -/
def newCeil (cs : List (Nat × Nat)) (k : Nat) : Option Nat := ((cs.filter (fun c => c.1 = k)).getLast?).map Prod.snd

abbrev ceilRegs : List Nat := [0x2800, 0x289C, 0x28A0]

theorem ceilReg_mem (k : Nat) : ceilReg k ∈ ceilRegs := by
  unfold ceilReg
  split
  · decide
  · split <;> decide

theorem ceilReg_inj {j k : Nat} (hj : j < 3) (hk : k < 3) (h : ceilReg j = ceilReg k) : j = k := by
  revert h
  interval_cases j <;> interval_cases k <;> decide

/-- The sources whose ceiling changes. -/
def changedCeils (s : State) : List Nat :=
  (List.range 3).filter (fun k => match newCeil s.yoke.ceils k with | some v => decide (v ≠ getReg s (ceilReg k)) | none => false)

def putCeil (cs : List (Nat × Nat)) (k : Nat) (s : State) : State := setReg (ceilReg k) ((newCeil cs k).getD 0) s

theorem adoptCeils_eq : adoptCeils s =
    each (changedCeils s) (fun k s => raise 0x0C07 0 (ceilEff s / 250) k 0 s)
      (each (changedCeils s) (putCeil s.yoke.ceils) { s with yoke := { s.yoke with ceils := [] } }) := rfl

theorem adoptCeils_regs : RegsBut ceilRegs s (adoptCeils s) := by
  rw [adoptCeils_eq]
  refine RegsBut.trans ?_ (regsBut_each fun _ _ => raise_keeps.regsBut rfl)
  exact RegsBut.trans (t := { s with yoke := { s.yoke with ceils := [] } }) (fun _ _ => rfl)
    (regsBut_each fun k _ => regsBut_setReg (ceilReg_mem k))

def yokeOf (s : State) : Yoke := s.yoke

theorem adoptCeils_yoke : (adoptCeils s).yoke = { s.yoke with ceils := [] } := by
  rw [adoptCeils_eq]
  have h : Same yokeOf { s with yoke := { s.yoke with ceils := [] } } (adoptCeils s) := by
    rw [adoptCeils_eq]
    exact same_each (same_each (.refl _) fun _ _ => rfl) fun _ _ => raise_keeps.at .yoke rfl
  exact h

theorem changedCeils_lt {k : Nat} (h : k ∈ changedCeils s) : k < 3 := List.mem_range.mp (List.mem_filter.mp h).1

/-- The last ceiling of each source that has left one is the source's register afterwards. -/
theorem adoptCeils_adopts {k v : Nat} (hk : k < 3) (hnew : newCeil s.yoke.ceils k = some v) (hv : v < 2 ^ 32) :
    getReg (adoptCeils s) (ceilReg k) = v := by
  have hput : ∀ a u, getReg (putCeil s.yoke.ceils a u) (ceilReg a) = (newCeil s.yoke.ceils a).getD 0 % 2 ^ 32 := fun _ _ => getReg_setReg_same
  have hother : ∀ a ∈ changedCeils s, ∀ b, b < 3 → a ≠ b → ∀ u, getReg (putCeil s.yoke.ceils a u) (ceilReg b) = getReg u (ceilReg b) :=
    fun a ha b hb hab u => getReg_setReg_other fun h => hab (ceilReg_inj hb (changedCeils_lt ha) h).symm
  have hraise : ∀ u, getReg (each (changedCeils s) (fun k s => raise 0x0C07 0 (ceilEff s / 250) k 0 s) u) (ceilReg k) = getReg u (ceilReg k) :=
    fun u => regsBut_each (offs := []) (fun _ _ => raise_keeps.regsBut rfl) _ (by simp)
  have hval : (newCeil s.yoke.ceils k).getD 0 % 2 ^ 32 = v := by rw [hnew, Option.getD_some, Nat.mod_eq_of_lt hv]
  rw [adoptCeils_eq, hraise, ← hval]
  by_cases hmem : k ∈ changedCeils s
  · refine each_establishes_mem (P := fun a u => getReg u (ceilReg a) = (newCeil s.yoke.ceils a).getD 0 % 2 ^ 32)
      (fun a _ u => hput a u) (fun a ha b hb u hu => ?_) k hmem
    by_cases hab : a = b
    · exact hab ▸ hput a u
    · rw [hother a ha b (changedCeils_lt hb) hab, hu]
  · have hold : getReg s (ceilReg k) = v := by
      by_contra hne
      exact hmem (List.mem_filter.mpr ⟨List.mem_range.mpr hk, by simp [hnew, Ne.symm hne]⟩)
    refine each_preserves_mem (P := fun u => getReg u (ceilReg k) = _) (hold.trans hval.symm) fun a ha u hu => ?_
    rw [hother a ha k hk (fun e => hmem (e ▸ ha)), hu]

/-! ### Adoption: the settings -/

/-- A setting that is taken where its VALID bit says so. -/
def takeReg (c : Bool) (off v : Nat) (s : State) : State := if c then setReg off v s else s

theorem getReg_takeReg {c : Bool} {off j v : Nat} : getReg (takeReg c off v s) j = if c ∧ j = off then v % 2 ^ 32 else getReg s j := by
  unfold takeReg
  cases c <;> simp [getReg_setReg]

/-- The registers as a YOKE_SET with these bytes leaves them. -/
def settings (b : List Byte) (s : State) : State :=
  takeReg ((leAt b 18 2).testBit 1) 0x2804 (leAt b 22 2 % 2 ^ 11) (takeReg ((leAt b 18 2).testBit 2) 0x2808 (leAt b 24 2 % 2 ^ 11)
    (takeReg ((leAt b 18 2).testBit 3) 0x280C (leAt b 26 2 % 2 ^ 10) (takeReg ((leAt b 18 2).testBit 4) 0x2810 (leAt b 28 2 % 2 ^ 10)
      (takeReg ((leAt b 18 2).testBit 5) 0x2814 (leAt b 30 1 % 2 ^ 8) s))))

abbrev setRegs : List Nat := [0x2804, 0x2808, 0x280C, 0x2810, 0x2814]

theorem adoptSet_some {q pos : Nat} {e : Desc} (h : findDesc s q pos = some e) : adoptSet q pos s = complete q pos 0 0 0 0 (settings e.bytes s) := by
  simp only [adoptSet, h]
  rfl

theorem adoptSet_none {q pos : Nat} (h : findDesc s q pos = none) : adoptSet q pos s = s := by simp only [adoptSet, h]

theorem settings_regs {b : List Byte} : RegsBut setRegs s (settings b s) := by
  intro off ho
  simp only [List.mem_cons, List.not_mem_nil, or_false, not_or] at ho
  simp [settings, getReg_takeReg, ho]

theorem adoptSet_regs {q pos : Nat} : RegsBut setRegs s (adoptSet q pos s) := by
  cases h : findDesc s q pos with
  | none => rw [adoptSet_none h]; exact .refl s
  | some e => rw [adoptSet_some h]; exact settings_regs.trans (complete_keeps.regsBut rfl)

theorem settings_hif {b : List Byte} : (settings b s).hif = s.hif := by
  have h : ∀ (c : Bool) (off v : Nat) (u : State), (takeReg c off v u).hif = u.hif := fun c off v u => by cases c <;> rfl
  simp [settings, h]

/-! ### What adoption leaves -/

abbrev adoptedRegs : List Nat := stateRegs ++ ceilRegs ++ setRegs

theorem RegsBut.weaken {offs more : List Nat} (h : RegsBut offs s t) (hsub : ∀ off ∈ offs, off ∈ more) : RegsBut more s t :=
  fun off ho => h off fun hin => ho (hsub off hin)

theorem ceiled_regs {imon : List Nat} : RegsBut (stateRegs ++ ceilRegs) s (ceiled imon s) := by
  refine RegsBut.trans (t := copied imon s) (fun _ _ => rfl) ?_
  exact (adoptBoard_regs.weaken (by decide)).trans (adoptCeils_regs.weaken (by decide))

theorem adopted_regs {imon : List Nat} : RegsBut adoptedRegs s (adopted imon s) := by
  have hceil : RegsBut adoptedRegs s (ceiled imon s) := ceiled_regs.weaken (by decide)
  have hcleared : RegsBut adoptedRegs s { ceiled imon s with yoke := { (ceiled imon s).yoke with sets := [] } } := fun off ho => hceil off ho
  exact hcleared.trans (regsBut_each fun _ _ => adoptSet_regs.weaken (by decide))

theorem copied_yoke {imon : List Nat} : (copied imon s).yoke = { s.yoke with
    imon := imon, hot := (List.range 4).map (fun d => maxOf ((List.range 16).map (fun p => (getPlot s (16 * d + p)).sensor))),
    caps := thermalWord s } := rfl

/-- The head after adoption, but for what a drain or a resume changes. -/
theorem adopted_head {imon : List Nat} : steadyHead (adopted imon s) = steadyHead { s with yoke := { (copied imon s).yoke with
    board := [], ceils := [], sets := [] } } := by
  have hboard : steadyHead (adoptBoard (copied imon s)) = steadyHead { s with yoke := { (copied imon s).yoke with board := [] } } :=
    adoptBoard_head
  have hsets : Same yokeOf { ceiled imon s with yoke := { (ceiled imon s).yoke with sets := [] } } (adopted imon s) :=
    same_each (.refl _) fun _ _ => adoptSet_keeps.at .yoke rfl
  have hyoke : (adopted imon s).yoke = { (adoptBoard (copied imon s)).yoke with ceils := [], sets := [] } := by
    have h : (adopted imon s).yoke = { (ceiled imon s).yoke with sets := [] } := hsets
    rw [h, ceiled, adoptCeils_yoke]
  have hlift : steadyHead (adopted imon s) = { steadyHead (adoptBoard (copied imon s)) with ceils := [], sets := [] } := by
    rw [steadyHead, hyoke]
    rfl
  rw [hlift, hboard]
  rfl

theorem ceiled_off {imon : List Nat} : yokState (ceiled imon s) = 0 ↔ yokState s = 0 := by
  have hceils : yokState (adoptCeils (adoptBoard (copied imon s))) = yokState (adoptBoard (copied imon s)) :=
    yokState_congr (adoptCeils_regs _ (by decide))
  rw [ceiled, hceils, adoptBoard_off]
  exact Iff.rfl

theorem adopted_state {imon : List Nat} : yokState (adopted imon s) = yokState (ceiled imon s) := by
  have h : RegsBut setRegs { ceiled imon s with yoke := { (ceiled imon s).yoke with sets := [] } } (adopted imon s) :=
    regsBut_each fun _ _ => adoptSet_regs
  exact yokState_congr (h _ (by decide))

theorem adopted_off {imon : List Nat} : yokState (adopted imon s) = 0 ↔ yokState s = 0 := by
  rw [adopted_state]
  exact ceiled_off

/-! ### The level and the states that it brings -/

def yokeDies (s : State) : List (Nat × YokeDie) := s.yoke.dies

/-- The head without the accounts of the dies, of ballast and of the band. -/
def accounts (s : State) : Yoke := { s.yoke with dies := [], span := 0, ballNj := 0, bandOut := 0, bandT0 := none }

/-- The registers that the head shows its state in. -/
abbrev reportRegs : List Nat := [0x2880, 0x2884, 0x2888, 0x288C, 0x2890, 0x2894, 0x2898]

/-- Where L moves to. -/
def movedLevel (s : State) : Nat :=
  let l := s.yoke.level
  let d := if yokState s = 5 then min (demandLevel s) l else demandLevel s
  if l < d then l + min (d - l) (slewUp s) else l - min (l - d) (slewDn s)

theorem moveLevel_eq : moveLevel s = { s with yoke := { s.yoke with level := movedLevel s } } := rfl

theorem movedLevel_bounds : movedLevel s ≤ s.yoke.level + slewUp s ∧ s.yoke.level ≤ movedLevel s + slewDn s := by
  unfold movedLevel
  extract_lets l d
  split <;> omega

theorem levelStates_yoke : (levelStates s).yoke = s.yoke := levelStates_keeps.at .yoke rfl

theorem levelStates_regs : RegsBut [0x2880] s (levelStates s) := by
  unfold levelStates
  split
  · refine regsBut_ite ?_ (.refl s)
    exact RegsBut.trans (t := { s with glb := _ }) (fun _ _ => rfl) (regsBut_setYok (by decide))
  · exact regsBut_ite (regsBut_setYok (by decide)) (.refl s)
  · exact .refl s

theorem leveled_yoke : (leveled s).yoke = { s.yoke with level := movedLevel s } := by rw [leveled, levelStates_yoke, moveLevel_eq]

theorem leveled_regs : RegsBut [0x2880] s (leveled s) := by
  rw [leveled, moveLevel_eq]
  exact RegsBut.trans (t := { s with yoke := _ }) (fun _ _ => rfl) levelStates_regs

theorem leveled_keeps : Keeps [.phase, .regYok, .cnt, .clk, .hif, .plots, .yoke, .alert] s (leveled s) :=
  (moveLevel_keeps.weaken rfl).after levelStates_keeps rfl

/-! ### Grants and reports of the dies -/

theorem Keeps.same_accounts {ps : List Piece} (k : Keeps ps s t) (h : subParts [.yoke] ps = false) : Same accounts s t := by
  have hyoke : t.yoke = s.yoke := k.at .yoke h
  exact (show accounts t = accounts s by unfold accounts; rw [hyoke])

theorem descendLost_accounts : Same accounts s (descendLost s) := same_each (.refl s) fun _ _ => rfl

theorem sendFlit_accounts {a b cls op : Nat} {body : List Byte} : Same accounts s (sendFlit a b cls op body s) :=
  sendFlit_keeps.same_accounts rfl

theorem sendGrants_accounts : Same accounts s (sendGrants s) :=
  same_each (.refl s) fun x v => (show Same accounts v (setYd x.1 _ v) from rfl).trans sendFlit_accounts

/-- The demand that each agent reports is noted, and the next epoch's account begins. -/
def noted (s : State) : State :=
  each (List.range 4) (fun d v => setYd d { getYd v d with demand := (((List.range 4).map (demandOf s))[d]?).getD 0, acc := 0 } v) s

theorem reportDemand_eq : reportDemand s = each (goodDies (noted s))
    (fun d v => sendFlit d 4 4 2 (leBytes 4 ((((List.range 4).map (demandOf s))[d]?).getD 0)) v)
    { noted s with yoke := { (noted s).yoke with span := 0 } } := rfl

theorem reportDemand_accounts : Same accounts s (reportDemand s) := by
  have hnoted : Same accounts s (noted s) := same_each (.refl s) fun _ _ => rfl
  have hspan : Same accounts (noted s) { noted s with yoke := { (noted s).yoke with span := 0 } } := rfl
  rw [reportDemand_eq]
  exact same_each (hnoted.trans hspan) fun _ _ => sendFlit_accounts

theorem granted_accounts : Same accounts (leveled s) (granted s) :=
  (descendLost_accounts.trans sendGrants_accounts).trans reportDemand_accounts

theorem granted_keeps : Keeps [.yoke, .links] (leveled s) (granted s) :=
  ((descendLost_keeps.weaken rfl).after sendGrants_keeps rfl).after reportDemand_keeps rfl

/-! ### Ballast, measurement and duties -/

/-- The head without its accounts of ballast and of the band. -/
def ledger (s : State) : Yoke := { s.yoke with ballNj := 0, bandOut := 0, bandT0 := none }

theorem Keeps.same_ledger {ps : List Piece} (k : Keeps ps s t) (h : subParts [.yoke] ps = false) : Same ledger s t := by
  have hyoke : t.yoke = s.yoke := k.at .yoke h
  exact (show ledger t = ledger s by unfold ledger; rw [hyoke])

theorem Same.accounts_of_ledger (h : Same ledger s t) : Same accounts s t := by
  have hacc : ∀ v, accounts v = { ledger v with dies := [], span := 0 } := fun _ => rfl
  have heq : ledger t = ledger s := h
  exact (show accounts t = accounts s by rw [hacc, hacc, heq])

theorem Same.dies_of_ledger (h : Same ledger s t) : t.yoke.dies = s.yoke.dies := by
  have hdies : (ledger t).dies = (ledger s).dies := congrArg Yoke.dies h
  exact hdies

theorem countBallast_ledger : Same ledger s (countBallast s) := by
  unfold countBallast
  extract_lets -merge -underBinder +onlyGivenNames w n head s1
  have h1 : Same ledger s s1 := rfl
  exact same_ite h1 (h1.trans ((bump_keeps.same_ledger rfl).trans (teleAdd_keeps.same_ledger rfl)))

theorem bandCheck_ledger {mean : Nat} : Same ledger s (bandCheck mean s) := by
  unfold bandCheck
  extract_lets -merge -underBinder +onlyGivenNames l out
  refine same_ite rfl ?_
  extract_lets -merge -underBinder +onlyGivenNames n head s1
  have h1 : Same ledger s s1 := rfl
  refine same_ite h1 ?_
  extract_lets -merge -underBinder +onlyGivenNames s2 due
  have h2 : Same ledger s s2 := h1.trans (bump_keeps.same_ledger rfl)
  have h3 : Same ledger s2 { s2 with yoke := { s2.yoke with bandT0 := some s2.clk.now } } := rfl
  exact same_ite (h2.trans (h3.trans (raise_keeps.same_ledger rfl))) h2

theorem metered_ledger {imon : List Nat} : Same ledger s (metered imon s) := by
  unfold metered
  split
  · exact Same.trans (t := setReg 0x288C _ s) rfl bandCheck_ledger
  · exact rfl

theorem bandCheck_regs {mean : Nat} : RegsBut [] s (bandCheck mean s) := bandCheck_keeps.regsBut rfl

theorem metered_regs {imon : List Nat} : RegsBut [0x288C] s (metered imon s) := by
  unfold metered
  split
  · exact (regsBut_setReg (by decide)).trans (bandCheck_regs.weaken (by simp))
  · exact RegsBut.trans (t := { s with yoke := _ }) (fun _ _ => rfl) (regsBut_setReg (by decide))

theorem metered_shows {imon : List Nat} :
    getReg (metered imon s) 0x288C = (match measured s imon with | some m => m / 250 | none => s.yoke.level / 250) % 2 ^ 32 := by
  unfold metered
  split
  next m hm => rw [bandCheck_regs _ (by simp), getReg_setReg_same]
  next hm => rw [getReg_setReg_same]

theorem steered_keeps : Keeps [.clk, .plots] s (steered s) :=
  keeps_ite (keeps_each (.refl s) fun _ _ hu => hu.after steerPlot_keeps rfl) (.refl s)

theorem governed_ledger {imon duty : List Nat} : Same ledger (granted s) (governed imon duty s) :=
  (((countBallast_ledger.trans metered_ledger).trans (steered_keeps.same_ledger rfl)).trans (setDuties_keeps.same_ledger rfl)).trans
    (yokReport_keeps.same_ledger rfl)

/-- From the move of the level on, the head changes its accounts alone. -/
theorem governed_accounts {imon duty : List Nat} : Same accounts (leveled s) (governed imon duty s) :=
  granted_accounts.trans governed_ledger.accounts_of_ledger

theorem governed_dies {imon duty : List Nat} : (governed imon duty s).yoke.dies = (granted s).yoke.dies := governed_ledger.dies_of_ledger

theorem yokReport_regs : RegsBut [0x2884, 0x2888, 0x2890, 0x2894, 0x2898] s (yokReport s) := by
  intro off ho
  simp only [List.mem_cons, List.not_mem_nil, or_false, not_or] at ho
  simp [yokReport, ho]

/-- From the grants on, the registers that show the head's state are the only ones written. -/
theorem governed_report {imon duty : List Nat} : RegsBut [0x2884, 0x2888, 0x288C, 0x2890, 0x2894, 0x2898] (leveled s) (governed imon duty s) := by
  have hgrant : RegsBut [0x2884, 0x2888, 0x288C, 0x2890, 0x2894, 0x2898] (leveled s) (countBallast (granted s)) :=
    (granted_keeps.regsBut rfl).trans (countBallast_keeps.regsBut rfl)
  have hmeter : RegsBut [0x2884, 0x2888, 0x288C, 0x2890, 0x2894, 0x2898] (leveled s) (metered imon (countBallast (granted s))) :=
    hgrant.trans (metered_regs.weaken (by decide))
  exact ((hmeter.trans (steered_keeps.regsBut rfl)).trans (setDuties_keeps.regsBut rfl)).trans (yokReport_regs.weaken (by decide))

theorem governed_regs {imon duty : List Nat} : RegsBut reportRegs s (governed imon duty s) :=
  (leveled_regs.weaken (by decide)).trans (governed_report.weaken (by decide))

theorem governed_state {imon duty : List Nat} : yokState (governed imon duty s) = yokState (leveled s) :=
  yokState_congr (governed_report _ (by decide))

/-- Only a ramp that has reached the floor and a drain that has reached standby change the state. -/
theorem leveled_state : yokState (leveled s) =
    if yokState s = 3 then (if movedLevel s = floorEff (moveLevel s) then 4 else 3)
    else if yokState s = 5 then (if movedLevel s = s.yoke.pstd ∧ allEnded s = true then 6 else 5) else yokState s := by
  have hst : yokState (moveLevel s) = yokState s := rfl
  have hlevel : (moveLevel s).yoke.level = movedLevel s := rfl
  unfold leveled levelStates
  split
  next h3 =>
    have h3' : yokState s = 3 := h3
    rw [if_pos h3', hlevel]
    split
    · exact yokState_setYok (by decide)
    · exact h3
  next h5 =>
    have h5' : yokState s = 5 := h5
    have hcond : ((moveLevel s).yoke.level = (moveLevel s).yoke.pstd ∧ allEnded (moveLevel s) = true) =
      (movedLevel s = s.yoke.pstd ∧ allEnded s = true) := rfl
    simp only [hcond, h5', if_neg (show ¬ (5 = 3) by decide), if_true]
    split
    · exact yokState_setYok (by decide)
    · exact h5
  next hn3 hn5 =>
    have h3' : yokState s ≠ 3 := hn3
    have h5' : yokState s ≠ 5 := hn5
    simp only [h3', h5', if_false, hst]

/-! ### What the head reports -/

theorem ceilEff_congr (h : ∀ off ∈ [0x2800, 0x2808, 0x289C, 0x28A0], getReg t off = getReg s off) (hp : t.yoke.pstd = s.yoke.pstd) :
    ceilEff t = ceilEff s := by
  simp only [List.forall_mem_cons] at h
  obtain ⟨h1, h2, h3, h4, -⟩ := h
  simp only [ceilEff, yokReserve, regF, h1, h2, h3, h4, hp]

theorem floorEff_congr (h : ∀ off ∈ [0x2800, 0x2804, 0x2808, 0x289C, 0x28A0], getReg t off = getReg s off) (hp : t.yoke.pstd = s.yoke.pstd) :
    floorEff t = floorEff s := by
  have hceil : ceilEff t = ceilEff s := ceilEff_congr (fun off ho => h off (by revert off; decide)) hp
  simp only [floorEff, regF, hceil, hp, h 0x2804 (by decide)]

theorem reserveEff_congr (h : getReg t 0x2808 = getReg s 0x2808) (hp : t.yoke.pstd = s.yoke.pstd) (hl : t.yoke.level = s.yoke.level) :
    reserveEff t = reserveEff s := by
  simp only [reserveEff, yokReserve, regF, h, hp, hl]

theorem measured_congr {imon : List Nat} (h : ∀ off ∈ [0x2830, 0x2834, 0x2838, 0x283C, 0x2840, 0x2844, 0x2848], getReg t off = getReg s off) :
    measured t imon = measured s imon := by
  have hscale : ∀ k ∈ List.range 6, regF t (0x2830 + 4 * k) 0 16 = regF s (0x2830 + 4 * k) 0 16 := fun k hk => by
    rw [List.mem_range] at hk
    rw [regF, regF, h]
    interval_cases k <;> decide
  have hall : (List.range 6).all (fun k => regF t (0x2830 + 4 * k) 0 16 = 0) = (List.range 6).all (fun k => regF s (0x2830 + 4 * k) 0 16 = 0) := by
    rw [Bool.eq_iff_iff, List.all_eq_true, List.all_eq_true]
    exact forall₂_congr fun k hk => by rw [hscale k hk]
  have hsum : (List.range 6).map (fun k => regF t (0x2830 + 4 * k) 0 16 * (imon[k]?).getD 0) =
      (List.range 6).map (fun k => regF s (0x2830 + 4 * k) 0 16 * (imon[k]?).getD 0) :=
    List.map_congr_left fun k hk => by rw [hscale k hk]
  have hbase : regF t 0x2848 0 11 = regF s 0x2848 0 11 := by rw [regF, regF, h 0x2848 (by decide)]
  simp only [measured, hall, hsum, hbase]

theorem yokReport_shows : getReg (yokReport s) 0x2884 = s.yoke.pstd / 250 % 2 ^ 32 ∧ getReg (yokReport s) 0x2888 = s.yoke.level / 250 % 2 ^ 32 ∧
    getReg (yokReport s) 0x2890 = ceilEff s / 250 % 2 ^ 32 ∧ getReg (yokReport s) 0x2894 = floorEff s / 250 % 2 ^ 32 ∧
    getReg (yokReport s) 0x2898 = reserveEff s / 250 % 2 ^ 32 := by
  simp [yokReport]

theorem RegsBut.at {offs : List Nat} (h : RegsBut offs s t) (l : List Nat) (hd : ∀ off ∈ l, off ∉ offs) :
    ∀ off ∈ l, getReg t off = getReg s off := fun off ho => h off (hd off ho)

/-- The head's words show the head as the epoch leaves it. -/
theorem governed_shows {imon duty : List Nat} (ht : governed imon duty s = t) :
    getReg t 0x2884 = t.yoke.pstd / 250 % 2 ^ 32 ∧ getReg t 0x2888 = t.yoke.level / 250 % 2 ^ 32 ∧
    getReg t 0x288C = (match measured t imon with | some m => m / 250 | none => t.yoke.level / 250) % 2 ^ 32 ∧
    getReg t 0x2890 = ceilEff t / 250 % 2 ^ 32 ∧ getReg t 0x2894 = floorEff t / 250 % 2 ^ 32 ∧
    getReg t 0x2898 = reserveEff t / 250 % 2 ^ 32 := by
  obtain ⟨v, hv⟩ : ∃ v, setDuties duty (steered (metered imon (countBallast (granted s)))) = v := ⟨_, rfl⟩
  have htv : yokReport v = t := by rw [← ht, governed, hv]
  have hyoke : t.yoke = v.yoke := htv ▸ yokReport_keeps.at .yoke rfl
  have hregs : RegsBut [0x2884, 0x2888, 0x2890, 0x2894, 0x2898] v t := htv ▸ yokReport_regs
  obtain ⟨h84, h88, h90, h94, h98⟩ := yokReport_shows (s := v)
  rw [htv] at h84 h88 h90 h94 h98
  have hceil : ceilEff t = ceilEff v := ceilEff_congr (hregs.at _ (by decide)) (by rw [hyoke])
  have hfloor : floorEff t = floorEff v := floorEff_congr (hregs.at _ (by decide)) (by rw [hyoke])
  have hreserve : reserveEff t = reserveEff v := reserveEff_congr (hregs _ (by decide)) (by rw [hyoke]) (by rw [hyoke])
  refine ⟨by rw [h84, hyoke], by rw [h88, hyoke], ?_, by rw [h90, hceil], by rw [h94, hfloor], by rw [h98, hreserve]⟩
  obtain ⟨w, hw⟩ : ∃ w, countBallast (granted s) = w := ⟨_, rfl⟩
  rw [hw] at hv
  have hvm : RegsBut [] (metered imon w) v := hv ▸ (steered_keeps.regsBut rfl).trans (setDuties_keeps.regsBut rfl)
  have hyv : v.yoke = (metered imon w).yoke := hv ▸ (setDuties_keeps.at .yoke rfl).trans (steered_keeps.at .yoke rfl)
  have hlevel : t.yoke.level = w.yoke.level := by
    have hmeter : (ledger (metered imon w)).level = (ledger w).level := congrArg Yoke.level metered_ledger
    rw [hyoke, hyv]
    exact hmeter
  have hmeasured : measured t imon = measured w imon := measured_congr
    (((((metered_regs (s := w) (imon := imon)).weaken (by decide)).trans (hvm.weaken (by simp))).trans (hregs.weaken (by decide))).at
      (offs := [0x288C, 0x2884, 0x2888, 0x2890, 0x2894, 0x2898]) _ (by decide))
  rw [hregs _ (by decide), hvm _ (by simp), metered_shows, hmeasured, hlevel]

/-! ### Duties -/

theorem getPlot_setPlot_same {p : Nat} {v : Plot} : getPlot (setPlot p v s) p = v := tget_tset_same _

theorem getPlot_setPlot_other {p q : Nat} {v : Plot} (h : q ≠ p) : getPlot (setPlot p v s) q = getPlot s q := tget_tset_other h _

/-- The duty of one plot for the epoch. -/
def setDuty (duty : List Nat) (p : Nat) (s : State) : State :=
  updPlot p (fun v => { v with duty := if mayBallast s p then (duty[p]?).getD 0 else 0 }) s

theorem setDuties_eq {duty : List Nat} : setDuties duty s = each (List.range 64) (setDuty duty) s := rfl

theorem mayBallast_setDuty {duty : List Nat} {p q : Nat} : mayBallast (setDuty duty p s) q = mayBallast s q := by
  have hon : plotsOn (setDuty duty p s) = plotsOn s := rfl
  have hplot : (getPlot (setDuty duty p s) q).st = (getPlot s q).st ∧ (getPlot (setDuty duty p s) q).sensor = (getPlot s q).sensor := by
    by_cases h : q = p
    · subst h
      rw [setDuty, getPlot_updPlot_same]
      exact ⟨rfl, rfl⟩
    · rw [setDuty, getPlot_updPlot_other h]
      exact ⟨rfl, rfl⟩
  rw [mayBallast, mayBallast, hon, hplot.1, hplot.2]

theorem setDuties_duty {duty : List Nat} {p : Nat} (hp : p < 64) : (getPlot (setDuties duty s) p).duty =
    if mayBallast (setDuties duty s) p then (duty[p]?).getD 0 else 0 := by
  rw [setDuties_eq]
  refine each_establishes (P := fun q u => (getPlot u q).duty = if mayBallast u q then (duty[q]?).getD 0 else 0) ?_ ?_ p (List.mem_range.mpr hp)
  · intro q v
    rw [mayBallast_setDuty, setDuty, getPlot_updPlot_same]
  · intro a b v hb
    by_cases h : b = a
    · subst h
      rw [mayBallast_setDuty, setDuty, getPlot_updPlot_same]
    · rw [mayBallast_setDuty, setDuty, getPlot_updPlot_other h, hb]

theorem governed_duty {imon duty : List Nat} {p : Nat} (hp : p < 64) (ht : governed imon duty s = t) :
    (getPlot t p).duty = if mayBallast t p then (duty[p]?).getD 0 else 0 := by
  subst ht
  have hplots : ∀ v q, getPlot (yokReport v) q = getPlot v q := fun v q => rfl
  have hmay : ∀ v q, mayBallast (yokReport v) q = mayBallast v q := fun v q => by
    rw [mayBallast, mayBallast, plotsOn, plotsOn, yokState_report, hplots]
  rw [governed, hplots, hmay]
  exact setDuties_duty hp

/-! ### Grants -/

theorem getYd_setYd_same {v : YokeDie} : getYd (setYd d v s) d = v := tget_tset_same _

theorem getYd_setYd_other {e : Nat} {v : YokeDie} (h : e ≠ d) : getYd (setYd d v s) e = getYd s e := tget_tset_other h _

theorem getYd_congr (h : t.yoke.dies = s.yoke.dies) : getYd t d = getYd s d := by rw [getYd, getYd, h]

theorem sendFlit_dies {a b cls op : Nat} {body : List Byte} : (sendFlit a b cls op body s).yoke.dies = s.yoke.dies := by
  rw [show (sendFlit a b cls op body s).yoke = s.yoke from sendFlit_keeps.at .yoke rfl]

theorem goodDies_congr (h : t.glb.dieOk = s.glb.dieOk ∧ t.glb.dieFatal = s.glb.dieFatal) : goodDies t = goodDies s := by
  rw [goodDies, goodDies, h.1, h.2]

theorem goodDies_nodup : (goodDies s).Nodup := List.nodup_range.filter _

/-- The work credit of each good die. -/
def creditsOf (s : State) : List Nat :=
  divideCredit (10 * (s.yoke.level - s.yoke.pstd - reserveEff s)) (10 * ((ceilEff s - s.yoke.pstd) / max 1 (goodDies s).length))
    ((goodDies s).map (fun d => 10 * (getYd s d).demand))

/-- Each good die with its credit and the power that credit, reserve and standby take. -/
def grantBase (s : State) : List (Nat × Nat × Nat) :=
  ((goodDies s).zip (creditsOf s)).map
    (fun x => (x.1, x.2, s.yoke.pstd / max 1 (goodDies s).length + x.2 / 10 + reserveEff s / max 1 (goodDies s).length))

/-- What fills L beyond that on each die that follows its grants. -/
def grantFill (s : State) : List (Nat × Nat) :=
  let own := (List.range 4).filter (fun d => s.glb.dieFatal.testBit d || (getYd s d).safe)
  let live := (grantBase s).filter (fun x => x.1 ∉ own)
  let gone := sumOf (own.map (fun d => (getYd s d).level))
  let parts := live.map (fun x => x.2.2)
  live.map Prod.fst |>.zip (fillOut (s.yoke.level - gone - sumOf parts)
    (s.yoke.pstd / max 1 (goodDies s).length + (ceilEff s - s.yoke.pstd) / max 1 (goodDies s).length) parts)

def grantOf (s : State) (x : Nat × Nat × Nat) : Grant :=
  { credit := x.2.1, reserve := 10 * reserveEff s / max 1 (goodDies s).length,
    level := x.2.2 + (((grantFill s).find? (fun y => y.1 = x.1)).map Prod.snd).getD 0 }

/-- A grant goes out to its die. -/
def sendGrant (s : State) (x : Nat × Nat × Nat) (v : State) : State :=
  sendFlit 4 x.1 4 1 (grantBody v (grantOf s x)) (setYd x.1 { getYd v x.1 with sent := some (grantOf s x) } v)

theorem sendGrants_eq : sendGrants s = each (grantBase s) (sendGrant s) s := rfl

theorem grantBase_inj {x y : Nat × Nat × Nat} (hx : x ∈ grantBase s) (hy : y ∈ grantBase s) (h : x.1 = y.1) : x = y := by
  obtain ⟨a, ha, rfl⟩ := List.mem_map.mp hx
  obtain ⟨b, hb, rfl⟩ := List.mem_map.mp hy
  obtain ⟨i, hi⟩ := List.mem_iff_getElem?.mp ha
  obtain ⟨j, hj⟩ := List.mem_iff_getElem?.mp hb
  obtain ⟨hia, hia'⟩ := List.getElem?_zip_eq_some.mp hi
  obtain ⟨hjb, hjb'⟩ := List.getElem?_zip_eq_some.mp hj
  have hij : i = j := by
    obtain ⟨hlt, -⟩ := List.getElem?_eq_some_iff.mp hia
    exact (List.getElem?_inj hlt goodDies_nodup).mp (hia.trans (hjb.trans (congrArg some h).symm).symm)
  subst hij
  rw [hi] at hj
  rw [Option.some.inj hj]

theorem sendGrants_sent {x : Nat × Nat × Nat} (hx : x ∈ grantBase s) : (getYd (sendGrants s) x.1).sent = some (grantOf s x) := by
  have hself : ∀ y v, (getYd (sendGrant s y v) y.1).sent = some (grantOf s y) := fun y v => by
    rw [sendGrant, getYd_congr sendFlit_dies, getYd_setYd_same]
  rw [sendGrants_eq]
  refine each_establishes_mem (P := fun y u => (getYd u y.1).sent = some (grantOf s y)) (fun y _ v => hself y v) (fun a ha b hb v hv => ?_) x hx
  by_cases h : b.1 = a.1
  · rw [grantBase_inj hb ha h]
    exact hself a v
  · rw [sendGrant, getYd_congr sendFlit_dies, getYd_setYd_other h, hv]

theorem reportDemand_sent : (getYd (reportDemand s) d).sent = (getYd s d).sent := by
  have hset : ∀ e v x, (getYd (setYd e { getYd v e with demand := x, acc := 0 } v) d).sent = (getYd v d).sent := fun e v x => by
    by_cases h : d = e
    · subst h
      rw [getYd_setYd_same]
    · rw [getYd_setYd_other h]
  have hnoted : (getYd (noted s) d).sent = (getYd s d).sent :=
    each_preserves (P := fun v => (getYd v d).sent = (getYd s d).sent) rfl fun e v hv => (hset e v _).trans hv
  rw [reportDemand_eq]
  refine each_preserves (P := fun v => (getYd v d).sent = (getYd s d).sent) hnoted fun e v hv => ?_
  rw [getYd_congr sendFlit_dies, hv]

theorem descendLost_demand : (getYd (descendLost s) d).demand = (getYd s d).demand := by
  refine each_preserves (P := fun v => (getYd v d).demand = (getYd s d).demand) rfl fun e v hv => ?_
  by_cases h : d = e
  · subst h
    rw [getYd_setYd_same]
    exact hv
  · rw [getYd_setYd_other h, hv]

/-! ### The division leaves no die out -/

theorem length_shareOut {pool : Nat} {need w : List Nat} (h : need.length = w.length) : (shareOut pool need w).length = w.length := by
  simp [shareOut, h]

theorem length_shareRounds {w : List Nat} : ∀ {k pool : Nat} {need got : List Nat}, need.length = w.length → got.length = w.length →
    (shareRounds w k pool need got).2.length = w.length
  | 0, _, _, _, _, hg => hg
  | k + 1, pool, need, got, hn, hg => by
    unfold shareRounds
    dsimp only
    split
    · exact hg
    · exact length_shareRounds (by simp [hn, length_shareOut hn]) (by simp [hg, length_shareOut hn])

theorem length_divideCredit {pool cap : Nat} {demand : List Nat} : (divideCredit pool cap demand).length = demand.length := by
  have hfirst : (shareRounds demand 4 pool (demand.map (min cap)) (demand.map (fun _ => 0))).2.length = demand.length :=
    length_shareRounds (by simp) (by simp)
  have hones : (demand.map (fun _ => 1)).length = demand.length := List.length_map _
  unfold divideCredit
  dsimp only
  rw [length_shareRounds (by rw [List.length_map, hfirst, hones]) (by rw [hfirst, hones]), hones]

theorem length_creditsOf : (creditsOf s).length = (goodDies s).length := by rw [creditsOf, length_divideCredit, List.length_map]

theorem mem_zip_getD {α : Type} {l : List α} {cs : List Nat} {i : Nat} {x : α} (h : l[i]? = some x) (hlen : cs.length = l.length) :
    (x, (cs[i]?).getD 0) ∈ l.zip cs := by
  obtain ⟨hlt, -⟩ := List.getElem?_eq_some_iff.mp h
  have hc : cs[i]? = some ((cs[i]?).getD 0) := by rw [List.getElem?_eq_getElem (hlen ▸ hlt), Option.getD_some]
  exact List.mem_of_getElem? (List.getElem?_zip_eq_some.mpr ⟨h, hc⟩)

theorem grantBase_of_good {i : Nat} (h : (goodDies s)[i]? = some d) : ∃ x ∈ grantBase s, x.1 = d ∧ x.2.1 = ((creditsOf s)[i]?).getD 0 ∧
    x.2.2 = s.yoke.pstd / max 1 (goodDies s).length + x.2.1 / 10 + reserveEff s / max 1 (goodDies s).length := by
  have hmem := mem_zip_getD h length_creditsOf
  generalize ((creditsOf s)[i]?).getD 0 = c at hmem
  exact ⟨_, List.mem_map_of_mem hmem, rfl, rfl, rfl⟩

end Sys2Proof.Machine

end

section

/-!
PROOF. O50: the epoch of the Yoke, and the grants that a die receives or misses.
-/

namespace Sys2Proof.Machine

variable {s t u : State} {d : Nat} {imon duty : List Nat}

/-! ### What an epoch leaves posted -/

theorem PostsMore.from {v : State} (k : PostsMore v t) (h : v.hif = s.hif) : PostsMore s t :=
  ⟨k.sqs.trans (congrArg Hif.sqs h), fun w hw => k.posted w (h ▸ hw)⟩

theorem setYok_posts {n : Nat} : PostsMore s (setYok n s) := by
  unfold setYok
  extract_lets old s1 s2
  have h1 : PostsMore s s1 := posts_ite latchAlert_posts (.refl s)
  have h2 : PostsMore s s2 := posts_ite (posts_each h1 fun _ _ => startPlot_keeps.posts rfl) h1
  exact posts_ite (.refl s) (h2.trans (raise_posts.from rfl))

theorem levelStates_posts : PostsMore s (levelStates s) := by
  unfold levelStates
  split
  · exact posts_ite (setYok_posts.from rfl) (.refl s)
  · exact posts_ite setYok_posts (.refl s)
  · exact .refl s

theorem countBallast_posts : PostsMore s (countBallast s) := by
  have htele : ∀ k n v, PostsMore v (teleAdd k n v) := fun _ _ _ => ⟨rfl, fun _ h => h⟩
  unfold countBallast
  extract_lets -merge -underBinder +onlyGivenNames w n head s1
  have h1 : PostsMore s s1 := ⟨rfl, fun _ h => h⟩
  exact posts_ite h1 (h1.trans (bump_posts.trans (htele _ _ _)))

theorem bandCheck_posts {mean : Nat} : PostsMore s (bandCheck mean s) := by
  unfold bandCheck
  extract_lets -merge -underBinder +onlyGivenNames l out
  refine posts_ite ⟨rfl, fun _ h => h⟩ ?_
  extract_lets -merge -underBinder +onlyGivenNames n head s1
  have h1 : PostsMore s s1 := ⟨rfl, fun _ h => h⟩
  refine posts_ite h1 ?_
  extract_lets -merge -underBinder +onlyGivenNames s2 due
  have h2 : PostsMore s s2 := h1.trans bump_posts
  have h3 : PostsMore s2 { s2 with yoke := { s2.yoke with bandT0 := some s2.clk.now } } := ⟨rfl, fun _ h => h⟩
  exact posts_ite (h2.trans (h3.trans raise_posts)) h2

theorem metered_posts : PostsMore s (metered imon s) := by
  unfold metered
  split
  · exact bandCheck_posts.from rfl
  · exact ⟨rfl, fun _ h => h⟩

theorem governed_posts : PostsMore s (governed imon duty s) := by
  have hlevel : PostsMore s (leveled s) := (moveLevel_keeps.posts rfl).trans levelStates_posts
  have hmeter : PostsMore s (metered imon (countBallast (granted s))) :=
    ((hlevel.trans (granted_keeps.posts rfl)).trans countBallast_posts).trans metered_posts
  exact ((hmeter.trans (steered_keeps.posts rfl)).trans (setDuties_keeps.posts rfl)).trans (yokReport_keeps.posts rfl)

theorem drainRequest_posts : PostsMore s (drainRequest s) := by
  unfold drainRequest
  split
  · exact ⟨rfl, fun _ h => h⟩
  · exact ⟨rfl, fun _ h => h⟩
  · exact setYok_posts.from rfl
  · exact setYok_posts.from rfl
  · exact setYok_posts
  · exact setYok_posts
  · exact .refl s

theorem beginRamp_posts : PostsMore s (beginRamp s) := by
  unfold beginRamp
  exact setYok_posts.from rfl

theorem resumeRequest_posts {now : Bool} : PostsMore s (resumeRequest now s) := by
  unfold resumeRequest
  split
  · exact beginRamp_posts
  · exact posts_ite (.refl s) (posts_ite beginRamp_posts ⟨rfl, fun _ h => h⟩)
  · exact .refl s

theorem ceiled_posts : PostsMore s (ceiled imon s) := by
  have hcopy : PostsMore s (copied imon s) := ⟨rfl, fun _ h => h⟩
  have hboard : PostsMore (copied imon s) (adoptBoard (copied imon s)) := by
    rw [adoptBoard_eq]
    refine posts_each ⟨rfl, fun _ h => h⟩ fun v u => ?_
    exact (posts_ite drainRequest_posts resumeRequest_posts).trans raise_posts
  have hceil : ∀ v, PostsMore v (adoptCeils v) := fun v => by
    rw [adoptCeils_eq]
    exact posts_each (posts_each ⟨rfl, fun _ h => h⟩ fun _ _ => ⟨rfl, fun _ h => h⟩) fun _ _ => raise_posts
  exact (hcopy.trans hboard).trans (hceil _)

/-! ### The head after an epoch -/

theorem epoch_cases (h : yokeUp s = true) : (yokState s = 0 ∧ yokeEpoch imon duty s = adopted imon s) ∨
    (yokState s ≠ 0 ∧ yokeEpoch imon duty s = governed imon duty (adopted imon s)) := by
  rw [yokeEpoch_eq h]
  by_cases h0 : yokState s = 0
  · exact .inl ⟨h0, if_pos (adopted_off.mpr h0)⟩
  · exact .inr ⟨h0, if_neg fun ha => h0 (adopted_off.mp ha)⟩

/-- The head without what an epoch computes: its level, its accounts, and what the board's requests change. -/
def waitsFor (s : State) : Yoke :=
  { accounts s with level := 0, holdT0 := 0, holdSched := false, holding := false, startAt := none, drainReq := false }

/-- The head once every change that waited is adopted. -/
def emptied (imon : List Nat) (s : State) : State := { s with yoke := { (copied imon s).yoke with board := [], ceils := [], sets := [] } }

theorem waitsFor_of_accounts (h : accounts t = accounts s) : waitsFor t = waitsFor s := by unfold waitsFor; rw [h]

theorem adopted_waits : waitsFor (adopted imon s) = waitsFor (emptied imon s) := by
  have hw : ∀ v, waitsFor v = { steadyHead v with dies := [], span := 0, ballNj := 0, bandOut := 0, bandT0 := none, level := 0 } := fun _ => rfl
  have hhead : steadyHead (adopted imon s) = steadyHead (emptied imon s) := adopted_head
  rw [hw, hw, hhead]

theorem leveled_waits : waitsFor (leveled s) = waitsFor s := by
  have h : accounts (leveled s) = { accounts s with level := movedLevel s } := by rw [accounts, leveled_yoke]; rfl
  rw [waitsFor, h]
  rfl

theorem governed_waits : waitsFor (governed imon duty s) = waitsFor s :=
  (waitsFor_of_accounts governed_accounts).trans leveled_waits

theorem epoch_waits (h : yokeUp s = true) : waitsFor (yokeEpoch imon duty s) = waitsFor (emptied imon s) := by
  rcases epoch_cases (imon := imon) (duty := duty) h with ⟨-, he⟩ | ⟨-, he⟩
  · rw [he, adopted_waits]
  · rw [he, governed_waits, adopted_waits]

theorem fields_of_steadyHead (h : steadyHead t = steadyHead s) : t.yoke.level = s.yoke.level ∧ t.yoke.pstd = s.yoke.pstd ∧
    t.yoke.dies = s.yoke.dies ∧ t.yoke.ceils = s.yoke.ceils ∧ t.yoke.sets = s.yoke.sets := by
  have hlevel : (steadyHead t).level = (steadyHead s).level := congrArg Yoke.level h
  have hpstd : (steadyHead t).pstd = (steadyHead s).pstd := congrArg Yoke.pstd h
  have hdies : (steadyHead t).dies = (steadyHead s).dies := congrArg Yoke.dies h
  have hceils : (steadyHead t).ceils = (steadyHead s).ceils := congrArg Yoke.ceils h
  have hsets : (steadyHead t).sets = (steadyHead s).sets := congrArg Yoke.sets h
  exact ⟨hlevel, hpstd, hdies, hceils, hsets⟩

theorem fields_of_accounts (h : accounts t = accounts s) : t.yoke.level = s.yoke.level ∧ t.yoke.pstd = s.yoke.pstd := by
  have hlevel : (accounts t).level = (accounts s).level := congrArg Yoke.level h
  have hpstd : (accounts t).pstd = (accounts s).pstd := congrArg Yoke.pstd h
  exact ⟨hlevel, hpstd⟩

theorem adopted_level : (adopted imon s).yoke.level = s.yoke.level ∧ (adopted imon s).yoke.pstd = s.yoke.pstd ∧
    (adopted imon s).yoke.dies = s.yoke.dies := by
  have hhead : steadyHead (adopted imon s) = steadyHead (emptied imon s) := adopted_head
  obtain ⟨hlevel, hpstd, hdies, -, -⟩ := fields_of_steadyHead hhead
  exact ⟨hlevel, hpstd, hdies⟩

theorem governed_level : (governed imon duty s).yoke.level = movedLevel s ∧ (governed imon duty s).yoke.pstd = s.yoke.pstd := by
  obtain ⟨hlevel, hpstd⟩ := fields_of_accounts (governed_accounts (imon := imon) (duty := duty) (s := s))
  rw [hlevel, hpstd, leveled_yoke]
  exact ⟨rfl, rfl⟩

/-- A register that neither adoption nor the head's reports write reads as before. -/
theorem epoch_regs (h : yokeUp s = true) : RegsBut (adoptedRegs ++ reportRegs) s (yokeEpoch imon duty s) := by
  rcases epoch_cases (imon := imon) (duty := duty) h with ⟨-, he⟩ | ⟨-, he⟩
  · rw [he]
    exact adopted_regs.weaken (by decide)
  · rw [he]
    exact (adopted_regs.weaken (by decide)).trans (governed_regs.weaken (by decide))

/-- After adoption the epoch writes only the registers that report. -/
theorem epoch_after_adoption (h : yokeUp s = true) : RegsBut reportRegs (adopted imon s) (yokeEpoch imon duty s) := by
  rcases epoch_cases (imon := imon) (duty := duty) h with ⟨-, he⟩ | ⟨-, he⟩
  · rw [he]
    exact .refl _
  · rw [he]
    exact governed_regs

theorem slews_congr (h : ∀ off ∈ [0x280C, 0x2810], getReg t off = getReg s off) : slewUp t = slewUp s ∧ slewDn t = slewDn s := by
  simp only [List.forall_mem_cons] at h
  obtain ⟨hup, hdn, -⟩ := h
  simp only [slewUp, slewDn, regF, hup, hdn, and_self]

theorem epoch_level (h : yokeUp s = true) (h0 : yokState s ≠ 0) (ht : yokeEpoch imon duty s = t) :
    t.yoke.level ≤ s.yoke.level + slewUp t ∧ s.yoke.level ≤ t.yoke.level + slewDn t := by
  have hregs := epoch_after_adoption (imon := imon) (duty := duty) h
  obtain ⟨hup, hdn⟩ := slews_congr (hregs.at _ (by decide))
  rcases epoch_cases (imon := imon) (duty := duty) h with ⟨hz, -⟩ | ⟨-, he⟩
  · exact absurd hz h0
  have hbounds := movedLevel_bounds (s := adopted imon s)
  rw [adopted_level.1] at hbounds
  rw [← ht, hup, hdn, he, governed_level.1]
  exact hbounds

theorem adopted_ceil {k v : Nat} (hk : k < 3) (hnew : newCeil s.yoke.ceils k = some v) (hv : v < 2 ^ 32) :
    getReg (adopted imon s) (ceilReg k) = v := by
  have hboard : (adoptBoard (copied imon s)).yoke.ceils = s.yoke.ceils := by
    have h : steadyHead (adoptBoard (copied imon s)) = steadyHead { copied imon s with yoke := { (copied imon s).yoke with board := [] } } :=
      adoptBoard_head
    obtain ⟨-, -, -, hceils, -⟩ := fields_of_steadyHead h
    exact hceils
  have hceiled : getReg (ceiled imon s) (ceilReg k) = v := adoptCeils_adopts hk (hboard ▸ hnew) hv
  have hsets : RegsBut setRegs { ceiled imon s with yoke := { (ceiled imon s).yoke with sets := [] } } (adopted imon s) :=
    regsBut_each fun _ _ => adoptSet_regs
  have hapart : ceilReg k ∉ setRegs := by interval_cases k <;> decide
  exact (hsets _ hapart).trans hceiled

theorem epoch_ceil {k v : Nat} (h : yokeUp s = true) (hk : k < 3) (hnew : newCeil s.yoke.ceils k = some v) (hv : v < 2 ^ 32) :
    getReg (yokeEpoch imon duty s) (ceilReg k) = v := by
  have hapart : ceilReg k ∉ reportRegs := by interval_cases k <;> decide
  rw [epoch_after_adoption h _ hapart, adopted_ceil hk hnew hv]

/-- The first clause of O50: what every epoch adopts, copies, shows and grants as duties. -/
theorem yokeEpoch_adopts (h : yokeUp s = true) (ht : yokeEpoch imon duty s = t) :
    t.yoke.imon = imon ∧ t.yoke.ceils = [] ∧ t.yoke.sets = [] ∧ t.yoke.board = [] ∧ t.yoke.caps = thermalWord s ∧
    t.yoke.hot = (List.range 4).map (fun d => maxOf ((List.range 16).map (fun p => (getPlot s (16 * d + p)).sensor))) := by
  have hw := epoch_waits (imon := imon) (duty := duty) h
  rw [ht] at hw
  have himon : (waitsFor t).imon = (waitsFor (emptied imon s)).imon := congrArg Yoke.imon hw
  have hceils : (waitsFor t).ceils = (waitsFor (emptied imon s)).ceils := congrArg Yoke.ceils hw
  have hsets : (waitsFor t).sets = (waitsFor (emptied imon s)).sets := congrArg Yoke.sets hw
  have hboard : (waitsFor t).board = (waitsFor (emptied imon s)).board := congrArg Yoke.board hw
  have hcaps : (waitsFor t).caps = (waitsFor (emptied imon s)).caps := congrArg Yoke.caps hw
  have hhot : (waitsFor t).hot = (waitsFor (emptied imon s)).hot := congrArg Yoke.hot hw
  exact ⟨himon, hceils, hsets, hboard, hcaps, hhot⟩

/-! ### The settings of a YOKE_SET -/

theorem adopted_one {q pos : Nat} {e : Desc} (hsets : s.yoke.sets = [(q, pos)]) (hd : findDesc s q pos = some e) :
    ∃ v, PostsMore s v ∧ RegsBut (stateRegs ++ ceilRegs) s v ∧ adopted imon s = complete q pos 0 0 0 0 (settings e.bytes v) ∧
      findDesc (settings e.bytes v) q pos = some e := by
  have hceil : (ceiled imon s).yoke.sets = [(q, pos)] := by
    have hboard : steadyHead (adoptBoard (copied imon s)) = steadyHead { copied imon s with yoke := { (copied imon s).yoke with board := [] } } :=
      adoptBoard_head
    rw [ceiled, adoptCeils_yoke]
    obtain ⟨-, -, -, -, hkept⟩ := fields_of_steadyHead hboard
    exact hkept.trans hsets
  have hposts : PostsMore s { ceiled imon s with yoke := { (ceiled imon s).yoke with sets := [] } } := ceiled_posts.trans ⟨rfl, fun _ h => h⟩
  have hfind : findDesc { ceiled imon s with yoke := { (ceiled imon s).yoke with sets := [] } } q pos = some e := by
    rw [findDesc_eq, hposts.getSq, ← findDesc_eq, hd]
  refine ⟨_, hposts, ?_, ?_, ?_⟩
  · exact fun off ho => ceiled_regs (imon := imon) off ho
  · rw [adopted, hceil]
    exact adoptSet_some hfind
  · rw [findDesc_eq, getSq, settings_hif]
    exact hfind

theorem settings_read {b : List Byte} {v : Nat} (hv : v = leAt b 18 2) :
    (getReg (settings b s) 0x2804 = if v.testBit 1 then leAt b 22 2 % 2 ^ 11 else getReg s 0x2804) ∧
    (getReg (settings b s) 0x2808 = if v.testBit 2 then leAt b 24 2 % 2 ^ 11 else getReg s 0x2808) ∧
    (getReg (settings b s) 0x280C = if v.testBit 3 then leAt b 26 2 % 2 ^ 10 else getReg s 0x280C) ∧
    (getReg (settings b s) 0x2810 = if v.testBit 4 then leAt b 28 2 % 2 ^ 10 else getReg s 0x2810) ∧
    (getReg (settings b s) 0x2814 = if v.testBit 5 then leAt b 30 1 % 2 ^ 8 else getReg s 0x2814) := by
  subst hv
  refine ⟨?_, ?_, ?_, ?_, ?_⟩ <;> simp [settings, getReg_takeReg, Nat.mod_mod_of_dvd']

/-! ### Grants -/

theorem adopted_dies : (adopted imon s).glb.dieOk = s.glb.dieOk ∧ (adopted imon s).glb.dieFatal = s.glb.dieFatal := by
  have hcopied : Keeps [.phase, .regYok, .cnt, .clk, .hif, .plots, .yoke, .alert] s (copied imon s) := by
    refine Keeps.after ?_ refreshCopies_keeps rfl
    exact Keeps.upd_yoke (Keeps.refl s) rfl
  have hceiled : Keeps [.phase, .regYok, .cnt, .clk, .hif, .plots, .yoke, .alert] s (ceiled imon s) :=
    (hcopied.after adoptBoard_keeps rfl).after adoptCeils_keeps rfl
  have hcleared : Keeps [.phase, .regYok, .cnt, .clk, .hif, .plots, .yoke, .alert] s
      { ceiled imon s with yoke := { (ceiled imon s).yoke with sets := [] } } := Keeps.upd_yoke hceiled rfl
  have hall : Keeps [.phase, .regYok, .cnt, .clk, .hif, .plots, .yoke, .alert] s (adopted imon s) :=
    keeps_each hcleared fun _ _ hu => hu.after adoptSet_keeps rfl
  exact hall.at .dies rfl

/-- The head's grants in terms of the state that the epoch leaves. -/
theorem governed_grants {i : Nat} (hd : (goodDies s)[i]? = some d) (ht : governed imon duty s = t) :
    ∃ g, (getYd t d).sent = some g ∧ g.reserve = 10 * reserveEff t / max 1 (goodDies s).length ∧
      g.credit = ((divideCredit (10 * (t.yoke.level - t.yoke.pstd - reserveEff t))
        (10 * ((ceilEff t - t.yoke.pstd) / max 1 (goodDies s).length)) ((goodDies s).map (fun d => 10 * (getYd s d).demand)))[i]?).getD 0 ∧
      t.yoke.pstd / max 1 (goodDies s).length + g.credit / 10 + reserveEff t / max 1 (goodDies s).length ≤ g.level := by
  obtain ⟨v, hv⟩ : ∃ v, descendLost (leveled s) = v := ⟨_, rfl⟩
  have hvs : Keeps [.phase, .regYok, .cnt, .clk, .hif, .plots, .yoke, .alert] s v := hv ▸ leveled_keeps.after descendLost_keeps rfl
  have hgood : goodDies v = goodDies s := goodDies_congr (hvs.at .dies rfl)
  have hacc : accounts v = accounts (leveled s) := hv ▸ descendLost_accounts
  obtain ⟨hvl, hvp⟩ := fields_of_accounts hacc
  obtain ⟨htl, htp⟩ := fields_of_accounts (governed_accounts (imon := imon) (duty := duty) (s := s))
  rw [ht] at htl htp
  have hregs : RegsBut [0x2884, 0x2888, 0x288C, 0x2890, 0x2894, 0x2898] v t := by
    have hlv : RegsBut [] (leveled s) v := hv ▸ descendLost_keeps.regsBut rfl
    exact fun off ho => (ht ▸ governed_report (s := s) (imon := imon) (duty := duty)) off ho |>.trans (hlv off (by simp)).symm
  have hreserve : reserveEff v = reserveEff t :=
    (reserveEff_congr (hregs _ (by decide)) (htp.trans hvp.symm) (htl.trans hvl.symm)).symm
  have hceil : ceilEff v = ceilEff t := (ceilEff_congr (hregs.at _ (by decide)) (htp.trans hvp.symm)).symm
  have hdemand : ∀ e, (getYd v e).demand = (getYd s e).demand := fun e => by
    have hdies : (leveled s).yoke.dies = s.yoke.dies := by rw [leveled_yoke]
    rw [← hv, descendLost_demand, getYd_congr hdies]
  obtain ⟨x, hx, rfl, hcredit, hlevel⟩ := grantBase_of_good (s := v) (hgood.symm ▸ hd)
  have hsent : (getYd t x.1).sent = some (grantOf v x) := by
    rw [← ht, getYd_congr governed_dies, granted, reportDemand_sent, hv, sendGrants_sent hx]
  have hcredits : creditsOf v = divideCredit (10 * (t.yoke.level - t.yoke.pstd - reserveEff t))
      (10 * ((ceilEff t - t.yoke.pstd) / max 1 (goodDies s).length)) ((goodDies s).map (fun d => 10 * (getYd s d).demand)) := by
    rw [creditsOf, hgood, hreserve, hceil, htl, htp, hvl, hvp]
    simp only [hdemand]
  rw [← hcredits, htp, ← hvp, ← hreserve, ← hgood]
  exact ⟨grantOf v x, hsent, rfl, hcredit, hlevel ▸ Nat.le_add_right x.2.2 _⟩

/-! ### A ramp -/

theorem adopted_nothing (hsets : s.yoke.sets = []) (hceils : s.yoke.ceils = []) (hboard : s.yoke.board = []) :
    adopted imon s = emptied imon s := by
  have hb : adoptBoard (copied imon s) = { s with yoke := { (copied imon s).yoke with board := [] } } := by
    rw [adoptBoard_eq, show (copied imon s).yoke.board = [] from hboard]
    rfl
  have hnone : changedCeils (adoptBoard (copied imon s)) = [] := by
    have hc : (adoptBoard (copied imon s)).yoke.ceils = [] := by rw [hb]; exact hceils
    rw [changedCeils, hc]
    rfl
  have hceiled : ceiled imon s = { s with yoke := { (copied imon s).yoke with board := [], ceils := [] } } := by
    rw [ceiled, adoptCeils_eq, hnone, hb]
    rfl
  rw [adopted, hceiled, show ({ s with yoke := { (copied imon s).yoke with board := [], ceils := [] } } : State).yoke.sets = [] from hsets]
  rfl

theorem demandLevel_ramp (h3 : yokState s = 3) (hcool : s.plots.any (fun p => p.2.overtemp) = false) : demandLevel s = floorEff s := by
  unfold demandLevel
  simp [h3, hcool]

theorem epoch_ramp (h : yokeUp s = true) (h3 : yokState s = 3) (hsets : s.yoke.sets = []) (hceils : s.yoke.ceils = []) (hboard : s.yoke.board = [])
    (hcool : s.plots.any (fun p => p.2.overtemp) = false) (ht : yokeEpoch imon duty s = t) :
    (s.yoke.level < floorEff s → t.yoke.level = min (floorEff s) (s.yoke.level + slewUp s)) ∧
    (floorEff s ≤ s.yoke.level → t.yoke.level = max (floorEff s) (s.yoke.level - slewDn s)) ∧
    (t.yoke.level = floorEff s → yokState t = 4) ∧ (t.yoke.level ≠ floorEff s → yokState t = 3) := by
  have he : yokeEpoch imon duty s = governed imon duty (emptied imon s) := by
    rcases epoch_cases (imon := imon) (duty := duty) h with ⟨h0, -⟩ | ⟨-, he⟩
    · omega
    · rw [he, adopted_nothing hsets hceils hboard]
  have h3' : yokState (emptied imon s) = 3 := h3
  have hfloor : floorEff (moveLevel (emptied imon s)) = floorEff s := rfl
  have hdemand : demandLevel (emptied imon s) = floorEff s := demandLevel_ramp h3' hcool
  have hlevel : t.yoke.level = movedLevel (emptied imon s) := by rw [← ht, he, governed_level.1]
  have hmoved : movedLevel (emptied imon s) = if s.yoke.level < floorEff s then s.yoke.level + min (floorEff s - s.yoke.level) (slewUp s)
      else s.yoke.level - min (s.yoke.level - floorEff s) (slewDn s) := by
    unfold movedLevel
    simp only [h3', hdemand, if_neg (show ¬ (3 = 5) by decide)]
    rfl
  have hstate : yokState t = if t.yoke.level = floorEff s then 4 else 3 := by
    rw [← ht, he, governed_state, leveled_state, if_pos h3', hfloor, ← hlevel, ← ht, he]
  refine ⟨fun hlt => ?_, fun hge => ?_, fun heq => by rw [hstate, if_pos heq], fun hne => by rw [hstate, if_neg hne]⟩
  · rw [hlevel, hmoved, if_pos hlt]
    omega
  · rw [hlevel, hmoved, if_neg (by omega)]
    omega

/-! ### A die receives its grant, or misses it -/

theorem syncMirror_mirror : tget Mirror.init d (syncMirror d s).clk.mirror = (tget Mirror.init d s.clk.mirror).adopt (devTime s) s.clk.trim :=
  tget_tset_same _

theorem adopt_behind {m : Mirror} {x : Nat} {trim : Int} (h : m.time + 4 < x) : (m.adopt x trim).time = x ∧ (m.adopt x trim).trim = trim := by
  simp [Mirror.adopt, h]

theorem adopt_near {m : Mirror} {x : Nat} {trim : Int} (h : x ≤ m.time + 4) :
    (m.adopt x trim).time = m.time ∧ (m.adopt x trim).slew = (x : Int) - m.time ∧ (m.adopt x trim).trim = trim := by
  simp [Mirror.adopt, Nat.not_lt.mpr h]

/-- A die as it uses a grant. -/
def withGrant (g : Grant) (y : YokeDie) : YokeDie :=
  { y with credit := g.credit, reserve := g.reserve, level := g.level, last := g, sent := none, silent := 0, safe := false, report := none }

/-- A die on its safe grant reports that it no longer is. -/
def reported (d : Nat) (r : Option Nat) (s : State) : State :=
  match r with
  | some n => raiseOn d 0x0C03 d n 0 0 s
  | none => s

theorem reported_keeps {r : Option Nat} : Keeps [.cnt, .hif, .links, .trc, .alert] s (reported d r s) := by
  cases r with
  | none => exact .refl s
  | some n => exact (raiseOn_keeps : Keeps _ s (raiseOn d 0x0C03 d n 0 0 s))

/-- The state in which the die uses its grant. -/
def grantUsed (d : Nat) (g : Grant) (s : State) : State :=
  syncMirror d (reported d (getYd s d).report (setYd d (withGrant g (getYd s d)) s))

theorem grantReceived_eq {g : Grant} (hsent : (getYd s d).sent = some g) (hfatal : s.glb.dieFatal.testBit d = false) :
    grantReceived d s = if sowerUp (grantUsed d g s) then readySheaves (grantUsed d g s) else grantUsed d g s := by
  simp only [grantReceived, hsent, hfatal]
  rfl

theorem grantUsed_dies {g : Grant} : (grantUsed d g s).yoke.dies = (setYd d (withGrant g (getYd s d)) s).yoke.dies := by
  have h : (grantUsed d g s).yoke = (setYd d (withGrant g (getYd s d)) s).yoke :=
    (syncMirror_keeps.at .yoke rfl).trans (reported_keeps.at .yoke rfl)
  rw [h]

theorem grantUsed_mirror {g : Grant} : tget Mirror.init d (grantUsed d g s).clk.mirror =
    (tget Mirror.init d s.clk.mirror).adopt (devTime s) s.clk.trim := by
  have hclk : (reported d (getYd s d).report (setYd d (withGrant g (getYd s d)) s)).clk = s.clk := reported_keeps.at .clk rfl
  rw [grantUsed, syncMirror_mirror, devTime, hclk]
  rfl

theorem grantReceived_spec {g : Grant} (hsent : (getYd s d).sent = some g) (hfatal : s.glb.dieFatal.testBit d = false) :
    ∃ u, grantReceived d s = (if sowerUp u then readySheaves u else u) ∧ getYd u d = withGrant g (getYd s d) ∧
      (∀ e, e ≠ d → getYd u e = getYd s e) ∧
      tget Mirror.init d u.clk.mirror = (tget Mirror.init d s.clk.mirror).adopt (devTime s) s.clk.trim :=
  ⟨_, grantReceived_eq hsent hfatal, by rw [getYd_congr grantUsed_dies, getYd_setYd_same],
    fun e he => by rw [getYd_congr grantUsed_dies, getYd_setYd_other he], grantUsed_mirror⟩

/-- A die that misses a grant in the first two epochs goes on with its last. -/
def repeated (y : YokeDie) : YokeDie :=
  { y with sent := none, silent := y.silent + 1, credit := y.last.credit, reserve := y.last.reserve, level := y.last.level }

/-- A die on its safe grant: what a share of the ceiling gives, descending at its share of the slew. -/
def safeDie (s : State) (d : Nat) : YokeDie :=
  let y := getYd s d
  let n := max 1 (goodDies s).length
  let share := (ceilEff s - s.yoke.pstd) / n
  let low := s.yoke.pstd / n + share / 4
  { y with sent := none, silent := y.silent + 1, safe := true, report := some (y.silent + 1), credit := 10 * share / 4, reserve := 0,
           level := if low < y.level then max low (y.level - max 1 (slewDn s / n)) else low }

theorem grantMissing_repeats (hgood : d ∈ goodDies s) (hon : yokState s ≠ 0) (h : (getYd s d).silent < 2) :
    grantMissing d s = if sowerUp (setYd d (repeated (getYd s d)) s) then readySheaves (setYd d (repeated (getYd s d)) s)
      else setYd d (repeated (getYd s d)) s := by
  unfold grantMissing
  simp only [hgood, hon, not_true_eq_false, or_self, if_false, if_pos (show (getYd s d).silent + 1 < 3 by omega)]
  rfl

/-- The third silent epoch is counted. -/
def thirdCounted (d : Nat) (s : State) : State := if (getYd s d).silent = 2 then bump 98 1 s else s

theorem thirdCounted_keeps : Keeps [.cnt, .hif, .alert] s (thirdCounted d s) := keeps_ite bump_keeps (.refl s)

theorem grantMissing_safe (hgood : d ∈ goodDies s) (hon : yokState s ≠ 0) (h : 2 ≤ (getYd s d).silent) :
    grantMissing d s = if sowerUp (setYd d (safeDie s d) (thirdCounted d s)) then readySheaves (setYd d (safeDie s d) (thirdCounted d s))
      else setYd d (safeDie s d) (thirdCounted d s) := by
  have hcond : ((getYd s d).silent + 1 = 3) = ((getYd s d).silent = 2) := by rw [eq_iff_iff]; omega
  have hceil : ceilEff (thirdCounted d s) = ceilEff s := ceilEff_congr (thirdCounted_keeps.regsBut rfl |>.at (offs := []) _ (by simp))
    (by rw [show (thirdCounted d s).yoke = s.yoke from thirdCounted_keeps.at .yoke rfl])
  have hpstd : (thirdCounted d s).yoke = s.yoke := thirdCounted_keeps.at .yoke rfl
  have hslew : slewDn (thirdCounted d s) = slewDn s := (slews_congr (thirdCounted_keeps.regsBut rfl |>.at (offs := []) _ (by simp))).2
  unfold grantMissing
  simp only [hgood, hon, not_true_eq_false, or_self, if_false, if_neg (show ¬ (getYd s d).silent + 1 < 3 by omega), hcond]
  rw [← thirdCounted, hceil, hpstd, hslew]
  rfl

/-- Settles O50: an epoch by its stages, a grant received or missed by the state that the die is left in. -/
theorem yokeEpochs : Obligations.YokeEpochs := by
  unfold Obligations.YokeEpochs
  refine ⟨fun s imon duty hup => ?_, fun s imon duty q pos v e hup hsets hd hv => ?_, fun s imon duty n hup hon hn => ?_,
    fun s imon duty hup h3 hsets hceils hboard hcool => ?_, fun s d g hsent hfatal => ?_, fun s d hgood hon => ⟨fun h => ?_, fun h => ?_⟩⟩
  case refine_1 =>
    obtain ⟨t, ht⟩ : ∃ t, yokeEpoch imon (duty.map Fin.val) s = t := ⟨_, rfl⟩
    obtain ⟨himon, hceils, hsets, hboard, hcaps, hhot⟩ := yokeEpoch_adopts hup ht
    have hceil : ∀ {k v}, k < 3 → newCeil s.yoke.ceils k = some v → v < 2 ^ 32 → getReg t (ceilReg k) = v := fun hk hnew hv =>
      ht ▸ epoch_ceil hup hk hnew hv
    refine ⟨t, congrArg Host.Outcome.next ht, himon, hceils, hsets, hboard, hcaps, hhot, fun h0 => ?_, fun h0 => ?_,
      fun v hnew hv => hceil (k := 0) (by decide) hnew hv, fun v hnew hv => hceil (k := 1) (by decide) hnew hv,
      fun v hnew hv => hceil (k := 2) (by decide) hnew hv⟩
    · rcases epoch_cases (imon := imon) (duty := duty.map Fin.val) hup with ⟨-, he⟩ | ⟨hne, -⟩
      · rw [← ht, he]
        exact ⟨adopted_off.mpr h0, adopted_level.1⟩
      · exact absurd h0 hne
    · obtain ⟨hlo, hhi⟩ := epoch_level hup h0 ht
      rcases epoch_cases (imon := imon) (duty := duty.map Fin.val) hup with ⟨hz, -⟩ | ⟨-, he⟩
      · exact absurd hz h0
      · obtain ⟨h84, h88, h8c, h90, h94, h98⟩ := governed_shows (he ▸ ht)
        exact ⟨hlo, hhi, h84, h88, h8c, h90, h94, h98, fun p => governed_duty p.isLt (he ▸ ht)⟩
  case refine_2 =>
    obtain ⟨w, -, hregs, had, hfind⟩ := adopted_one (imon := imon) hsets hd
    have hdone : Completed q pos 0 0 0 0 (adopted imon s) := had ▸ complete_completed hfind
    have hposts : PostsMore (adopted imon s) (yokeEpoch imon (duty.map Fin.val) s) := by
      rcases epoch_cases (imon := imon) (duty := duty.map Fin.val) hup with ⟨-, he⟩ | ⟨-, he⟩
      · rw [he]; exact .refl _
      · rw [he]; exact governed_posts
    have hread : ∀ off ∈ setRegs, getReg (yokeEpoch imon (duty.map Fin.val) s) off = getReg (settings e.bytes w) off := fun off ho => by
      rw [epoch_after_adoption hup off (by revert off; decide), had, complete_keeps.getReg_eq rfl]
    have hold : ∀ off ∈ setRegs, getReg w off = getReg s off := fun off ho => hregs off (by revert off; decide)
    obtain ⟨h1, h2, h3, h4, h5⟩ := settings_read (s := w) hv
    rw [hold _ (by decide), ← hread _ (by decide)] at h1 h2 h3 h4 h5
    exact ⟨_, rfl, hdone.posts hposts, h1, h2, h3, h4, h5⟩
  case refine_3 =>
    subst hn
    refine ⟨_, rfl, fun i d hd => ?_⟩
    rcases epoch_cases (imon := imon) (duty := duty.map Fin.val) hup with ⟨hz, -⟩ | ⟨-, he⟩
    · exact absurd hz hon
    have hgood : goodDies (adopted imon s) = goodDies s := goodDies_congr adopted_dies
    have hyd : ∀ e, getYd (adopted imon s) e = getYd s e := fun e => getYd_congr adopted_level.2.2
    have hgrant := governed_grants (imon := imon) (hgood.symm ▸ hd) he.symm
    simp only [hgood, hyd] at hgrant
    exact hgrant
  case refine_4 => exact ⟨_, rfl, epoch_ramp hup h3 hsets hceils hboard hcool rfl⟩
  case refine_5 =>
    obtain ⟨u, he, hdie, hother, hmirror⟩ := grantReceived_spec hsent hfatal
    refine ⟨_, u, congrArg Host.Outcome.next he, rfl, by rw [hdie]; rfl, by rw [hdie]; rfl, by rw [hdie]; rfl, by rw [hdie]; rfl,
      by rw [hdie]; rfl, by rw [hdie]; rfl, by rw [hdie]; rfl, by rw [hdie]; rfl, hother, fun hlag => ?_, fun hnear => ?_, ?_⟩
    · rw [hmirror, (adopt_behind hlag).1]
    · rw [hmirror]
      exact ⟨(adopt_near hnear).1, (adopt_near hnear).2.1⟩
    · rw [hmirror, Mirror.adopt]
      split <;> rfl
  case refine_6 =>
    refine ⟨_, _, congrArg Host.Outcome.next (grantMissing_repeats hgood hon h), rfl, ?_⟩
    rw [getYd_setYd_same]
    exact ⟨rfl, rfl, rfl, rfl, rfl, fun e he => getYd_setYd_other he⟩
  case refine_7 =>
    refine ⟨_, _, congrArg Host.Outcome.next (grantMissing_safe hgood hon h), rfl, ?_⟩
    rw [getYd_setYd_same]
    refine ⟨rfl, rfl, rfl, rfl, rfl, fun e he => ?_, fun h2 => ?_⟩
    · have hyoke : (thirdCounted d s).yoke = s.yoke := thirdCounted_keeps.at .yoke rfl
      rw [getYd_setYd_other he]
      exact getYd_congr (congrArg Yoke.dies hyoke)
    · rw [thirdCounted, if_pos h2]
      exact (bump_counted (by decide)).after (t := bump 98 1 s) rfl

end Sys2Proof.Machine

end

section

/-!
PROOF. O59: the writes of the two-wire port. An accepted write is its effect on the state that has acknowledged it;
the alerts that the effects latch are followed through events and counters.
-/

namespace Sys2Proof.Machine

variable {s t u : State} {a code n : Nat} {data d : List Byte} {f : List Byte → State → State}

/-! ### The PEC -/

theorem crcMsbShift_lt {w poly : Nat} (hpoly : poly < 2 ^ w) : ∀ {k r : Nat}, r < 2 ^ w → crcMsbShift w poly k r < 2 ^ w
  | 0, _, h => h
  | k + 1, r, _ => by
    have hmod : 2 * r % 2 ^ w < 2 ^ w := Nat.mod_lt _ (Nat.two_pow_pos w)
    refine crcMsbShift_lt hpoly (k := k) ?_
    split
    · exact Nat.xor_lt_two_pow hmod hpoly
    · exact hmod

theorem pec_lt (bs : List Byte) : pec bs < 256 := by
  have hfold : ∀ (l : List Byte) (r : Nat), r < 2 ^ 8 → crcMsb 8 7 r l < 2 ^ 8 := by
    intro l
    induction l with
    | nil => exact fun r h => h
    | cons b l ih =>
      intro r h
      refine ih _ (crcMsbShift_lt (by decide) (Nat.xor_lt_two_pow h ?_))
      simpa using b.isLt
  exact hfold bs 0 (by decide)

/-! ### Accepted writes -/

theorem byteAt_append (d : List Byte) (b : Byte) : byteAt (d ++ [b]) d.length = b.toNat := by simp [byteAt]

/-- A write whose data and PEC are as they must be is its effect on the state that has acknowledged it. -/
theorem twpWrite_carries (h : Accepts s a code) (hc : Carries s a code data d) (hd : d.length = n) :
    twpWrite code n a data f s = f d (twpDone [] s) := by
  obtain ⟨hup, hkind, hoff⟩ := h
  rcases hc with hpec | ⟨rfl, hctl⟩
  · have hlen : data.length = n + 1 := by rw [hpec, List.length_append, hd]; rfl
    have htake : data.take n = d := by rw [hpec, ← hd, List.take_left']; rfl
    have hbyte : byteAt data n = pec ([BitVec.ofNat 8 (2 * a), BitVec.ofNat 8 code] ++ d) := by
      rw [hpec, ← hd, byteAt_append, BitVec.toNat_ofNat, Nat.mod_eq_of_lt (pec_lt _)]
    unfold twpWrite
    simp [hup, hkind, hoff, hlen, htake, hbyte]
  · unfold twpWrite
    simp [hup, hkind, hoff, hd, hctl]

/-- A write with a wrong PEC. -/
theorem twpWrite_wrongPec (h : Accepts s a code) (hlen : data.length = n + 1)
    (hpec : byteAt data n ≠ pec ([BitVec.ofNat 8 (2 * a), BitVec.ofNat 8 code] ++ data.take n)) :
    twpWrite code n a data f s = bump 90 1 (latchAlert 6 (twpFlag 3 (twpNack s))) := by
  obtain ⟨hup, hkind, hoff⟩ := h
  unfold twpWrite
  simp only [hup, hkind, hoff, hlen, Bool.not_true, Bool.false_eq_true, if_false, if_true, reduceCtorEq, decide_false, Bool.false_and, Bool.or_self]
  rw [if_neg fun h => hpec h.symm]

/-! ### What acknowledging and flagging leave -/

theorem twpDone_getReg {bs : List Byte} {off : Nat} : getReg (twpDone bs s) off = getReg s off := twpDone_keeps.getReg_eq rfl

theorem twpDone_yoke {bs : List Byte} : (twpDone bs s).yoke = s.yoke := twpDone_keeps.at .yoke rfl

theorem twpDone_glb {bs : List Byte} : (twpDone bs s).glb = s.glb := twpDone_keeps.glb_eq rfl

theorem twpDone_state {bs : List Byte} : yokState (twpDone bs s) = yokState s := yokState_congr twpDone_getReg

theorem testBit_or_two_pow_mod (w : Nat) {k : Nat} (hk : k < 32) : ((w ||| 2 ^ k) % 2 ^ 32).testBit k = true := by
  rw [Nat.testBit_mod_two_pow]
  simp [hk]

theorem twpFlag_sets {k : Nat} (hk : k < 32) : (getReg (twpFlag k s) 0x381C).testBit k = true := by
  rw [twpFlag, getReg_orReg_same]
  exact testBit_or_two_pow_mod _ hk

theorem cmdErr_sets : (getReg (cmdErr s) 0x381C).testBit 4 = true := twpFlag_sets (by decide)

theorem cmdErr_yoke : (cmdErr s).yoke = s.yoke := rfl

/-! ### Alerts through events and counters -/

theorem latchAlert_latches {b k : Nat} : (latchAlert b s).alert.latched.testBit k = if k = b then true else s.alert.latched.testBit k := by
  have hset : (latchAlert b s).alert.latched = setBitTo s.alert.latched b true := rfl
  rw [hset, testBit_setBitTo]

theorem drainEvents_alert : ∀ (es : List Event) (s : State), (drainEvents es s).2.alert = s.alert
  | [], s => rfl
  | e :: es, s => by
    unfold drainEvents
    split
    · rw [drainEvents_alert es, show (writeEntry 32 (eventBody e) s).alert = s.alert from writeEntry_keeps.at .alert rfl]
    · rfl

theorem flushBacklog_alert : (flushBacklog s).alert = s.alert := drainEvents_alert s.hif.backlog s

/-- An event that enters the backlog behind dropped ones latches the backlog's source; no other event touches the alerts. -/
theorem pushEvent_alert {e : Event} : (pushEvent e s).alert =
    if s.hif.backlog.length < 4096 ∧ s.hif.dropped ≠ 0 then (latchAlert 5 s).alert else s.alert := by
  have hpush : (appendEvent e (appendOvf s)).alert = if s.hif.dropped ≠ 0 then (latchAlert 5 s).alert else s.alert := by
    unfold appendOvf
    dsimp only
    by_cases h : s.hif.dropped = 0
    · rw [if_pos h, if_neg (not_not.mpr h)]
      rfl
    · rw [if_neg h, if_pos h]
      rfl
  unfold pushEvent
  by_cases hroom : s.hif.backlog.length < 4096
  · rw [if_pos hroom, flushBacklog_alert, hpush]
    simp [hroom]
  · rw [if_neg hroom, if_neg fun h => hroom h.1]
    rfl

theorem pushEvent_latched {e : Event} {k : Nat} (h : s.alert.latched.testBit k = true) : (pushEvent e s).alert.latched.testBit k = true := by
  rw [pushEvent_alert]
  split
  · rw [latchAlert_latches]
    split
    · rfl
    · exact h
  · exact h

theorem raise_latches {b ev src a0 a1 a2 : Nat} (h : alertOf ev = some b) : (raise ev src a0 a1 a2 s).alert.latched.testBit b = true := by
  unfold raise
  simp only [h]
  exact pushEvent_latched (by rw [latchAlert_latches, if_pos rfl])

/-- The backlog owes no RST_BACKLOG_OVF that the next event would bring. -/
def OwesNone (s : State) : Prop := s.hif.dropped = 0 ∨ 4096 ≤ s.hif.backlog.length

theorem pushEvent_quiet {e : Event} (h : OwesNone s) : (pushEvent e s).alert = s.alert := by
  rw [pushEvent_alert, if_neg]
  rintro ⟨hroom, hdrop⟩
  rcases h with h | h
  · exact hdrop h
  · omega

theorem bump_quiet {i k : Nat} (h : OwesNone s) : (bump i k s).alert = s.alert := by
  have hquiet : OwesNone (countQuiet i k s) := h
  unfold bump
  dsimp only
  split
  · exact pushEvent_quiet hquiet
  · rfl

def droppedOf (s : State) : Nat := s.hif.dropped

theorem writeEntry_dropped {r : Nat} {body : List Byte} : Same droppedOf s (writeEntry r body s) := by
  unfold writeEntry
  extract_lets -merge -underBinder +onlyGivenNames g phase n s1 s2 hif s3 count
  have h3 : Same droppedOf s s3 := rfl
  have htrigger : Same droppedOf s3 (triggerRing r s3) := rfl
  exact same_ite (h3.trans htrigger) h3

theorem drainEvents_dropped : ∀ (es : List Event) (s : State), (drainEvents es s).2.hif.dropped = s.hif.dropped
  | [], s => rfl
  | e :: es, s => by
    have hwrite : (writeEntry 32 (eventBody e) s).hif.dropped = s.hif.dropped := writeEntry_dropped
    unfold drainEvents
    split
    · rw [drainEvents_dropped es, hwrite]
    · rfl

theorem bump_owesNone {i k : Nat} (h : s.hif.dropped = 0) : OwesNone (bump i k s) := by
  have hpush : ∀ e v, v.hif.dropped = 0 → OwesNone (pushEvent e v) := fun e v hv => by
    unfold pushEvent
    split
    · refine .inl ?_
      have hovf : appendOvf v = v := by simp [appendOvf, hv]
      rw [flushBacklog, hovf]
      exact (drainEvents_dropped _ _).trans hv
    · next hfull => exact .inr (Nat.not_lt.mp hfull)
  unfold bump
  dsimp only
  split
  · exact hpush _ _ h
  · exact .inl h

/-! ### CLEAR_FAULTS and ALERT_RESPONSE -/

theorem heldSources_congr (hglb : t.glb = s.glb) (hplots : t.plots = s.plots) (hlinks : t.links = s.links) (hhrw : t.hrw = s.hrw)
    (hyoke : t.yoke = s.yoke) (hst : yokState t = yokState s) : heldSources t = heldSources s := by
  have hfault : faultLow t = faultLow s := by rw [faultLow, faultLow, hglb]
  have hconnected : connected t = connected s := by rw [connected, connected, hglb]
  have hlink : getLink t = getLink s := funext fun l => by rw [getLink, getLink, hlinks]
  rw [heldSources, heldSources, hfault, hconnected, hlink, hplots, hhrw, hyoke, hst]

theorem heldSources_done {bs : List Byte} : heldSources (twpDone bs s) = heldSources s :=
  heldSources_congr twpDone_glb (twpDone_keeps.at .plots rfl) (twpDone_keeps.at .links rfl) (twpDone_keeps.at .hrw rfl) twpDone_yoke twpDone_state

theorem alertResponse_some {won : Bool} {b : Nat} (hup : twpUp s = true) (hb : (onesOf 7 s.alert.pending).head? = some b) :
    alertResponse won s = if won then bump 92 1 { twpDone [BitVec.ofNat 8 (2 * alertAddr s b)] s with
        alert := { (twpDone [BitVec.ofNat 8 (2 * alertAddr s b)] s).alert with
          pending := setBitTo (twpDone [BitVec.ofNat 8 (2 * alertAddr s b)] s).alert.pending b false } }
      else twpFlag 5 (twpDone [BitVec.ofNat 8 (2 * alertAddr s b)] s) := by
  simp only [alertResponse, hup, hb]
  rfl

theorem pending_bump92 {b : Nat} (h : b ≠ 5 ∨ OwesNone s) (hclear : s.alert.pending.testBit b = false) :
    (bump 92 1 s).alert.pending.testBit b = false := by
  rcases h with hb | hq
  · have hlatch : ∀ v : State, v.alert.pending.testBit b = false → (latchAlert 5 v).alert.pending.testBit b = false := fun v hv => by
      unfold latchAlert
      dsimp only
      split
      · rw [testBit_setBitTo, if_neg hb, hv]
      · exact hv
    have hpush : ∀ e (v : State), v.alert.pending.testBit b = false → (pushEvent e v).alert.pending.testBit b = false := fun e v hv => by
      rw [pushEvent_alert]
      split
      · exact hlatch v hv
      · exact hv
    have hquiet : (countQuiet 92 1 s).alert.pending.testBit b = false := hclear
    unfold bump
    dsimp only
    split
    · exact hpush _ _ hquiet
    · exact hquiet
  · rw [bump_quiet hq, hclear]

/-! ### The board's requests at the next epoch -/

theorem epoch_state_off {imon duty : List Nat} (h : yokeUp s = true) (h0 : yokState s ≠ 0) :
    yokState (yokeEpoch imon duty s) = yokState (leveled (adopted imon s)) := by
  rcases epoch_cases (imon := imon) (duty := duty) h with ⟨hz, -⟩ | ⟨-, he⟩
  · exact absurd hz h0
  · rw [he, governed_state]

/-- The only changes that the level brings: a ramp that ends, and a drain that ends. -/
theorem leveled_state_of {k : Nat} (h : yokState s = k) :
    yokState (leveled s) = k ∨ (k = 3 ∧ yokState (leveled s) = 4) ∨ (k = 5 ∧ yokState (leveled s) = 6) := by
  rw [leveled_state, h]
  by_cases h3 : k = 3
  · subst h3
    rw [if_pos rfl]
    split
    · exact .inr (.inl ⟨rfl, rfl⟩)
    · exact .inl rfl
  · rw [if_neg h3]
    by_cases h5 : k = 5
    · subst h5
      rw [if_pos rfl]
      split
      · exact .inr (.inr ⟨rfl, rfl⟩)
      · exact .inl rfl
    · exact .inl (if_neg h5)

/-- One request of the board, taken by the head. -/
def boardTaken (v : Nat) (s : State) : State := if v = 1 then drainRequest s else resumeRequest (decide (v = 2)) s

theorem adoptBoard_one {v : Nat} (h : s.yoke.board = [v]) :
    adoptBoard s = raise 0x1102 0 0x30 v 0 (boardTaken v { s with yoke := { s.yoke with board := [] } }) := by
  rw [adoptBoard_eq, h]
  rfl

theorem adopted_one_state {imon : List Nat} {v : Nat} (h : s.yoke.board = [v]) : yokState (adopted imon s) =
    yokState (boardTaken v { s with yoke := { (copied imon s).yoke with board := [] } }) := by
  rw [adopted_state, ceiled, yokState_congr (adoptCeils_regs _ (by decide)), adoptBoard_one (s := copied imon s) h,
    yokState_congr (raise_keeps.getReg_eq rfl)]
  rfl

theorem adopted_holding {imon : List Nat} {v : Nat} (h : s.yoke.board = [v]) : (adopted imon s).yoke.holding =
    (boardTaken v { s with yoke := { (copied imon s).yoke with board := [] } }).yoke.holding := by
  have hsets : Same yokeOf { ceiled imon s with yoke := { (ceiled imon s).yoke with sets := [] } } (adopted imon s) :=
    same_each (.refl _) fun _ _ => adoptSet_keeps.at .yoke rfl
  have hyoke : (adopted imon s).yoke = { (ceiled imon s).yoke with sets := [] } := hsets
  have hboard := adoptBoard_one (s := copied imon s) h
  have hraise : ∀ u, (raise 0x1102 0 0x30 v 0 u).yoke = u.yoke := fun u => raise_keeps.at .yoke rfl
  rw [hyoke, ceiled, adoptCeils_yoke, hboard, hraise]
  rfl

theorem leveled_holding : (leveled s).yoke.holding = s.yoke.holding := by rw [leveled_yoke]

theorem epoch_holding {imon duty : List Nat} (h : yokeUp s = true) : (yokeEpoch imon duty s).yoke.holding = (adopted imon s).yoke.holding := by
  rcases epoch_cases (imon := imon) (duty := duty) h with ⟨-, he⟩ | ⟨-, he⟩
  · rw [he]
  · have hacc : accounts (governed imon duty (adopted imon s)) = accounts (leveled (adopted imon s)) := governed_accounts
    have hhold : ∀ v w : State, accounts v = accounts w → v.yoke.holding = w.yoke.holding := fun v w hvw => by
      have hf : (accounts v).holding = (accounts w).holding := congrArg Yoke.holding hvw
      exact hf
    rw [he, hhold _ _ hacc, leveled_holding]

/-- The second clause of O59: a drain, a resume at once and a resume with a hold-off, at the next epoch. -/
theorem epoch_drains {imon duty : List Nat} (hup : yokeUp s = true) (hb : s.yoke.board = [1]) :
    (yokState s = 3 ∨ yokState s = 4 → yokState (yokeEpoch imon duty s) = 5 ∨ yokState (yokeEpoch imon duty s) = 6) ∧
    (yokState s = 1 ∨ yokState s = 2 → yokState (yokeEpoch imon duty s) = 6) := by
  have hst : ∀ v, yokState { s with yoke := v } = yokState s := fun _ => rfl
  constructor <;> intro h
  · have hadopt : yokState (adopted imon s) = 5 := by
      rw [adopted_one_state hb, boardTaken, if_pos rfl, drainRequest_running ((hst _).symm ▸ h), yokState_setYok (by decide)]
    rw [epoch_state_off hup (by omega)]
    rcases leveled_state_of hadopt with h5 | ⟨h3, -⟩ | ⟨-, h6⟩
    · exact .inl h5
    · omega
    · exact .inr h6
  · have hadopt : yokState (adopted imon s) = 6 := by
      rw [adopted_one_state hb, boardTaken, if_pos rfl, drainRequest_waiting ((hst _).symm ▸ h), yokState_setYok (by decide)]
    rw [epoch_state_off hup (by omega)]
    rcases leveled_state_of hadopt with h6 | ⟨h3, -⟩ | ⟨h5, -⟩
    · exact h6
    · omega
    · omega

theorem ramped_state {imon duty : List Nat} (hup : yokeUp s = true) (h0 : yokState s ≠ 0) (hadopt : yokState (adopted imon s) = 3) :
    yokState (yokeEpoch imon duty s) = 3 ∨ yokState (yokeEpoch imon duty s) = 4 := by
  rw [epoch_state_off hup h0]
  rcases leveled_state_of hadopt with h3 | ⟨-, h4⟩ | ⟨h5, -⟩
  · exact .inl h3
  · exact .inr h4
  · omega

theorem epoch_resumes {imon duty : List Nat} {v : Nat} (hup : yokeUp s = true) (hb : s.yoke.board = [v]) (hv : v ≠ 1) (h5 : yokState s = 5) :
    yokState (yokeEpoch imon duty s) = 3 ∨ yokState (yokeEpoch imon duty s) = 4 := by
  refine ramped_state hup (by omega) ?_
  have h5' : yokState { s with yoke := { (copied imon s).yoke with board := [] } } = 5 := h5
  rw [adopted_one_state hb, boardTaken, if_neg hv, resumeRequest_draining h5', yokState_beginRamp]

theorem epoch_resumes_now {imon duty : List Nat} (hup : yokeUp s = true) (hb : s.yoke.board = [2]) (h6 : yokState s = 6)
    (hhold : s.yoke.holding = false) (hstart : s.yoke.startAt = none) (hrun : s.glb.run = true) :
    yokState (yokeEpoch imon duty s) = 3 ∨ yokState (yokeEpoch imon duty s) = 4 := by
  refine ramped_state hup (by omega) ?_
  have hnow : resumeRequest true { s with yoke := { (copied imon s).yoke with board := [] } } =
    beginRamp { s with yoke := { (copied imon s).yoke with board := [] } } := resumeRequest_now h6 hhold hstart hrun
  rw [adopted_one_state hb, boardTaken, if_neg (by decide), decide_eq_true rfl, hnow, yokState_beginRamp]

theorem epoch_holds {imon duty : List Nat} (hup : yokeUp s = true) (hb : s.yoke.board = [0]) (h6 : yokState s = 6)
    (hhold : s.yoke.holding = false) (hstart : s.yoke.startAt = none) (hrun : s.glb.run = true) :
    yokState (yokeEpoch imon duty s) = 6 ∧ (yokeEpoch imon duty s).yoke.holding = true := by
  have hheld : resumeRequest false { s with yoke := { (copied imon s).yoke with board := [] } } =
    beginHold { s with yoke := { (copied imon s).yoke with board := [], holding := true } } := resumeRequest_holds h6 hhold hstart hrun
  have hadopt : yokState (adopted imon s) = 6 := by
    rw [adopted_one_state hb, boardTaken, if_neg (by decide), decide_eq_false (by decide), hheld, yokState_beginHold]
    exact h6
  refine ⟨?_, ?_⟩
  · rw [epoch_state_off hup (by omega)]
    rcases leveled_state_of hadopt with h | ⟨h3, -⟩ | ⟨h5, -⟩
    · exact h
    · omega
    · omega
  · rw [epoch_holding hup, adopted_holding hb, boardTaken, if_neg (by decide), decide_eq_false (by decide), hheld, beginHold_yoke]

/-! ### Counter snapshots -/

/-- The bytes of the `n` counters from index `i`. -/
def snapBytes (s : State) (i n : Nat) : List Byte := ((List.range n).map (· + i)).flatMap (fun k => leBytes 8 (tget 0 k s.cnt).toNat)

theorem flatMap_slice {g : Nat → List Byte} (hg : ∀ k, (g k).length = 8) : ∀ (l : List Nat) (j : Nat) {k : Nat}, l[j]? = some k →
    slice (l.flatMap g) (8 * j) 8 = g k
  | [], _, _, h => by simp at h
  | x :: l, 0, k, h => by
    obtain rfl : x = k := by simpa using h
    rw [slice, List.flatMap_cons, Nat.mul_zero, List.drop_zero, ← hg x, List.take_left']
    rfl
  | x :: l, j + 1, k, h => by
    have hk : l[j]? = some k := by simpa using h
    have hdrop : (g x ++ l.flatMap g).drop (8 * (j + 1)) = (l.flatMap g).drop (8 * j) := by
      rw [Nat.mul_add, Nat.add_comm, ← List.drop_drop, Nat.mul_one, ← hg x, List.drop_left' rfl, hg x]
    rw [slice, List.flatMap_cons, hdrop]
    exact flatMap_slice hg l j hk

theorem snapBytes_at {i n j : Nat} (hj : j < n) : leAt (snapBytes s i n) (8 * j) 8 = (tget 0 (i + j) s.cnt).toNat := by
  have hget : ((List.range n).map (· + i))[j]? = some (j + i) := by simp [hj]
  rw [leAt, snapBytes, flatMap_slice (fun _ => length_leBytes) _ _ hget, leNat_leBytes, Nat.add_comm]
  exact Nat.mod_eq_of_lt (tget 0 (i + j) s.cnt).isLt

theorem length_snapBytes {i n : Nat} : (snapBytes s i n).length = 8 * n := by
  simp [snapBytes, List.length_flatMap, length_leBytes, Function.comp_def, Nat.mul_comm]

/-- A snapshot, and the counters cleared where its word says so. -/
theorem snapWrite_taken {w i n : Nat} (hw : w = leAt d 0 4) (hi : i = bitsOf w 0 16) (hn : n = bitsOf w 16 8) (h1 : 1 ≤ n) (h31 : n ≤ 31)
    (hin : i + n ≤ 4096) (hw25 : w < 2 ^ 25) : snapWrite d s =
      if w.testBit 24 then each ((List.range n).map (· + i)) clearCounter { s with twp := { s.twp with snap := snapBytes s i n } }
      else { s with twp := { s.twp with snap := snapBytes s i n } } := by
  subst hw
  subst hi
  subst hn
  unfold snapWrite
  dsimp only
  rw [if_neg (by omega)]
  rfl

theorem snapWrite_refused {w n : Nat} (hw : w = leAt d 0 4) (hn : n = bitsOf w 16 8) (h : n = 0 ∨ 31 < n) : snapWrite d s = cmdErr s := by
  subst hw
  subst hn
  exact if_pos (by omega)

theorem tget_clearCounter {i k : Nat} : tget 0 i (clearCounter k s).cnt = if i = k then (0 : BitVec 64) else tget 0 i s.cnt := by
  rw [clearCounter, tget_tset]

theorem clearCounters_clear {l : List Nat} {k : Nat} (hk : k ∈ l) : tget 0 k (each l clearCounter s).cnt = 0 := by
  refine each_establishes (P := fun k v => tget 0 k v.cnt = 0) (fun a v => by rw [tget_clearCounter, if_pos rfl]) (fun a b v hb => ?_) k hk
  rw [tget_clearCounter]
  split
  · rfl
  · exact hb

theorem clearCounters_twp {l : List Nat} : (each l clearCounter s).twp = s.twp :=
  each_preserves (P := fun v => v.twp = s.twp) rfl fun _ _ h => h

theorem snapWrite_spec {w i n : Nat} (hw : w = leAt d 0 4) (hi : i = bitsOf w 0 16) (hn : n = bitsOf w 16 8) (h1 : 1 ≤ n) (h31 : n ≤ 31)
    (hin : i + n ≤ 4096) (hw25 : w < 2 ^ 25) : (snapWrite d s).twp.snap = snapBytes s i n ∧
      (w.testBit 24 = true → ∀ j, j < n → tget 0 (i + j) (snapWrite d s).cnt = 0) := by
  rw [snapWrite_taken hw hi hn h1 h31 hin hw25]
  by_cases hclear : w.testBit 24 = true
  · rw [if_pos hclear, clearCounters_twp]
    refine ⟨rfl, fun _ j hj => clearCounters_clear (List.mem_map.mpr ⟨j, List.mem_range.mpr hj, Nat.add_comm j i⟩)⟩
  · rw [if_neg hclear]
    exact ⟨rfl, fun h => absurd h hclear⟩

/-! ### ADDR_CFG -/

/-- The registers of an accepted ADDR_CFG in mode `mode`, with the three address bytes as they are stored. -/
def addressed (mode : Nat) (v : Nat → Nat) (s : State) : State :=
  setReg 0x3810 (v 3) (setReg 0x380C (v 2) (setReg 0x3808 (v 1) (setReg 0x3804 (256 * mode) s)))

/-- How the byte of address `k` is stored. -/
def storedAddr (b : List Byte) (k : Nat) : Nat :=
  if byteAt b 0 = 0 then 0 else if byteAt b 0 = 1 then (if 128 ≤ byteAt b k then byteAt b k else 0) else if k = 3 then 0 else byteAt b k

theorem addrCfg_taken (h : addrCfgOk s (d.drop 1) = true) : addrCfg d s =
    boardCmd 0xF0 (byteAt (d.drop 1) 0) { addressed (byteAt (d.drop 1) 0) (storedAddr (d.drop 1)) s with
      twp := { (addressed (byteAt (d.drop 1) 0) (storedAddr (d.drop 1)) s).twp with addrCfg := d.drop 1 } } := by
  simp only [addrCfg, h]
  rfl

theorem addrCfgOk_congr (hstrap : t.glb.strapSmb = s.glb.strapSmb) {b : List Byte} : addrCfgOk t b = addrCfgOk s b := by
  have hexcluded : twpExcluded t = twpExcluded s := funext fun a => by rw [twpExcluded, twpExcluded, twpPrimary, twpPrimary, hstrap]
  rw [addrCfgOk, addrCfgOk, hexcluded]

theorem addrCfgOk_mode {b : List Byte} (h : addrCfgOk s b = true) : byteAt b 0 ≤ 2 := by
  unfold addrCfgOk at h
  dsimp only at h
  by_contra hmode
  rw [if_neg (by omega), if_neg (by omega), Bool.and_eq_true, decide_eq_true_eq] at h
  omega

theorem byteAt_lt (b : List Byte) (k : Nat) : byteAt b k < 256 := ((b[k]?).getD 0#8).isLt

theorem byteAt_drop_one (d : List Byte) (k : Nat) : byteAt (d.drop 1) k = byteAt d (1 + k) := by rw [byteAt, byteAt, List.getElem?_drop]

theorem storedAddr_lt {b : List Byte} {k : Nat} : storedAddr b k < 256 := by
  have := byteAt_lt b k
  unfold storedAddr
  split
  · decide
  · split
    · split
      · assumption
      · decide
    · split
      · decide
      · assumption

theorem addressed_reads {mode : Nat} {b : List Byte} {k : Nat} (hk : k ∈ [1, 2, 3]) :
    getReg (addressed mode (storedAddr b) s) (0x3804 + 4 * k) = storedAddr b k := by
  have h1 := storedAddr_lt (b := b) (k := 1)
  have h2 := storedAddr_lt (b := b) (k := 2)
  have h3 := storedAddr_lt (b := b) (k := 3)
  fin_cases hk
  · simp [addressed]
    omega
  · simp [addressed]
    omega
  · simp [addressed]
    omega

theorem addressed_mode {mode : Nat} {v : Nat → Nat} (h : mode ≤ 2) : twpMode (addressed mode v s) = mode := by
  have hreg : getReg (addressed mode v s) 0x3804 = 256 * mode := by
    simp [addressed]
    omega
  rw [twpMode, regF, hreg, bitsOf, Nat.shiftRight_eq_div_pow]
  omega

theorem addrCfg_reads (h : addrCfgOk s (d.drop 1) = true) (off : Nat) :
    getReg (addrCfg d s) off = getReg (addressed (byteAt (d.drop 1) 0) (storedAddr (d.drop 1)) s) off := by
  rw [addrCfg_taken h, boardCmd_keeps.getReg_eq rfl]
  rfl

theorem addrCfg_spec (h : addrCfgOk s (d.drop 1) = true) : (addrCfg d s).twp.addrCfg = d.drop 1 ∧ twpMode (addrCfg d s) = byteAt d 1 % 4 ∧
    (byteAt d 1 = 1 → ∀ k, k ∈ [1, 2, 3] → getReg (addrCfg d s) (0x3804 + 4 * k) = (if 128 ≤ byteAt d (1 + k) then byteAt d (1 + k) else 0)) ∧
    (byteAt d 1 = 2 → getReg (addrCfg d s) 0x3808 = byteAt d 2 ∧ getReg (addrCfg d s) 0x380C = byteAt d 3) := by
  have hmode := addrCfgOk_mode h
  have hmode0 : byteAt (d.drop 1) 0 = byteAt d 1 := byteAt_drop_one d 0
  have hread : ∀ k, k ∈ [1, 2, 3] → getReg (addrCfg d s) (0x3804 + 4 * k) = storedAddr (d.drop 1) k := fun k hk => by
    rw [addrCfg_reads h, addressed_reads hk]
  refine ⟨?_, ?_, fun h1 k hk => ?_, fun h2 => ⟨?_, ?_⟩⟩
  · rw [addrCfg_taken h, show ∀ c v u, (boardCmd c v u).twp = u.twp from fun c v u => boardCmd_keeps.at .twp rfl]
  · rw [twpMode, regF, addrCfg_reads h, ← regF, ← twpMode, addressed_mode hmode]
    omega
  · rw [hread k hk, storedAddr, hmode0, h1, byteAt_drop_one]
    rfl
  · rw [hread 1 (by decide), storedAddr, hmode0, h2, byteAt_drop_one]
    rfl
  · rw [hread 2 (by decide), storedAddr, hmode0, h2, byteAt_drop_one]
    rfl

/-! ### SOFT_RESET -/

theorem softWrite_begins {imm : Bool} (hv : byteAt d 0 = if imm then 0x5A else 0xA5) (hfatal : s.glb.deviceFatal = false)
    (hphase : s.glb.phase = .running) (hsoft : s.glb.soft = .off) :
    softWrite d s = boardCmd 0x32 (byteAt d 0) (softRequest 4 imm s) := by
  have himm : decide (byteAt d 0 = 0x5A) = imm := by cases imm <;> simp [hv]
  have hok : softAccepts imm s = true := by simp [softAccepts, hfatal, hphase, hsoft]
  have hcode : ¬ (byteAt d 0 ≠ 0xA5 ∧ byteAt d 0 ≠ 0x5A) := by cases imm <;> simp [hv]
  simp only [softWrite, if_neg hcode, himm, hok, if_true]

theorem softWrite_spec (hv : byteAt d 0 = 0xA5 ∨ byteAt d 0 = 0x5A) (hfatal : s.glb.deviceFatal = false)
    (hphase : s.glb.phase = .running) (hsoft : s.glb.soft = .off) : (softWrite d s).glb.phase = .softReset ∧ (softWrite d s).glb.soft = .ramp ∧
      (softWrite d s).glb.softImm = decide (byteAt d 0 = 0x5A) ∧ (getReg (softWrite d s) 0x0440).testBit 4 = true := by
  have hcode : byteAt d 0 = if decide (byteAt d 0 = 0x5A) then 0x5A else 0xA5 := by rcases hv with h | h <;> simp [h]
  rw [softWrite_begins hcode hfatal hphase hsoft]
  obtain ⟨hk, -⟩ := softRequest_running (s := s) (src := 4) (imm := decide (byteAt d 0 = 0x5A)) hphase hsoft hfatal
  have hboard := hk.after (boardCmd_keeps (a0 := 0x32) (a1 := byteAt d 0)) rfl
  have hcause : getReg (softBegun (decide (byteAt d 0 = 0x5A)) (orReg 0x0440 (2 ^ 4) s)) 0x0440 = (getReg s 0x0440 ||| 2 ^ 4) % 2 ^ 32 :=
    getReg_orReg_same
  rw [hboard.glb_eq rfl, hboard.getReg_at (by decide), hcause]
  exact ⟨rfl, rfl, rfl, testBit_or_two_pow_mod _ (by decide)⟩

/-! ### Timeouts of the bus -/

theorem twpFlag_twp {k : Nat} : (twpFlag k s).twp = s.twp := rfl

theorem raise1101 {a0 : Nat} : (raise 0x1101 0 a0 0 0 s).alert.latched.testBit 6 = true := raise_latches rfl

theorem timedOut_spec {own : Bool} (hup : twpUp s = true) (hsmb : (getReg s 0x3800).testBit 0 = false) :
    (smbusTimeout own s).twp.reply = [] ∧ Counted 91 1 s (smbusTimeout own s) ∧
      (getReg (smbusTimeout own s) 0x381C).testBit (if own then 0 else 1) = true ∧
      (smbusTimeout own s).alert.latched.testBit 6 = true := by
  obtain ⟨u, hu⟩ : ∃ u, twpFlag (if own then 0 else 1) { s with twp := { s.twp with reply := [], nacked := false } } = u := ⟨_, rfl⟩
  have heq : smbusTimeout own s = raise 0x1101 0 (if own then 1 else 2) 0 0 (bump 91 1 u) := by
    simp only [smbusTimeout, hup, hsmb, ← hu]
    rfl
  have hcount : Same (count 91) s u := hu ▸ rfl
  have hflag : (getReg u 0x381C).testBit (if own then 0 else 1) = true := hu ▸ twpFlag_sets (by cases own <;> decide)
  have htwp : u.twp.reply = [] := hu ▸ rfl
  rw [heq]
  refine ⟨?_, ?_, ?_, raise1101⟩
  · rw [raise_twp, bump_twp, htwp]
  · exact Counted.before hcount ((bump_counted (by decide)).after (raise_count (by decide)))
  · rw [raise_getReg, bump_getReg, hflag]

theorem timedOut_i2c (hup : twpUp s = true) (hi2c : (getReg s 0x3800).testBit 0 = true) :
    smbusTimeout true s = s ∧ (smbusTimeout false s).twp = s.twp ∧ (getReg (smbusTimeout false s) 0x381C).testBit 1 = true ∧
      (smbusTimeout false s).alert.latched.testBit 6 = true := by
  have hown : smbusTimeout true s = s := by simp only [smbusTimeout, hup, hi2c]; rfl
  have hother : smbusTimeout false s = raise 0x1101 0 2 0 0 (twpFlag 1 s) := by simp only [smbusTimeout, hup, hi2c]; rfl
  rw [hother]
  exact ⟨hown, by rw [raise_twp, twpFlag_twp], by rw [raise_getReg, twpFlag_sets (by decide)], raise1101⟩

theorem sdaStuck_spec {own : Bool} (hup : twpUp s = true) : (getReg (sdaStuck own s) 0x381C).testBit 2 = true ∧
    (sdaStuck own s).alert.latched.testBit 6 = true ∧ (own = true → (sdaStuck own s).twp.reply = []) ∧
    (own = false → (sdaStuck own s).twp = s.twp) := by
  have heq : sdaStuck own s =
      raise 0x1101 0 3 0 0 (twpFlag 2 (if own then { s with twp := { s.twp with reply := [], nacked := false } } else s)) := by
    simp only [sdaStuck, hup]
    rfl
  rw [heq, raise_getReg, raise_twp, twpFlag_sets (by decide), twpFlag_twp]
  refine ⟨rfl, raise1101, fun h => ?_, fun h => ?_⟩
  · rw [if_pos h]
  · rw [if_neg (by simp [h])]

/-- The alert response that wins clears the source it answers for; one that loses sets ARB_LOST. -/
theorem alertResponse_spec {won : Bool} {b : Nat} (hup : twpUp s = true) (hb : (onesOf 7 s.alert.pending).head? = some b) :
    (alertResponse won s).twp.reply = [BitVec.ofNat 8 (2 * alertAddr s b)] ∧ (alertResponse won s).twp.nacked = false ∧
      (won = true → b ≠ 5 ∨ s.hif.dropped = 0 → (alertResponse won s).alert.pending.testBit b = false ∧ Counted 92 1 s (alertResponse won s)) ∧
      (won = false → (getReg (alertResponse won s) 0x381C).testBit 5 = true) := by
  rw [alertResponse_some hup hb]
  have hdone := twpDone_reply (s := s) (bs := [BitVec.ofNat 8 (2 * alertAddr s b)])
  have hcount : Same (count 92) s (twpDone [BitVec.ofNat 8 (2 * alertAddr s b)] s) := bump_count (by decide) (by decide)
  have howes : s.hif.dropped = 0 → OwesNone (twpDone [BitVec.ofNat 8 (2 * alertAddr s b)] s) := fun h => bump_owesNone h
  generalize twpDone [BitVec.ofNat 8 (2 * alertAddr s b)] s = u at hdone hcount howes ⊢
  cases won with
  | true =>
    rw [if_pos rfl, bump_twp]
    refine ⟨by rw [hdone], by rw [hdone], fun _ h => ⟨pending_bump92 (h.imp_right howes) ?_, ?_⟩, fun h => absurd h (by decide)⟩
    · have hset : (setBitTo u.alert.pending b false).testBit b = false := testBit_setBitTo.trans (if_pos rfl)
      exact hset
    · exact Counted.before hcount (bump_counted (s := { u with alert := _ }) (by decide))
  | false =>
    rw [if_neg (by decide), twpFlag_twp]
    exact ⟨by rw [hdone], by rw [hdone], fun h => absurd h (by decide), fun _ => twpFlag_sets (by decide)⟩

/-- Settles O59: each write is its effect on the state that has acknowledged it, and the board's requests act at the next epoch. -/
theorem twoWireWrites : Obligations.TwoWireWrites := by
  unfold Obligations.TwoWireWrites
  refine ⟨fun s a data d v h hc hd hv => ⟨fun h2 hphase => ?_, fun h2 => ?_⟩, fun s imon duty hup => ⟨fun hb => ?_, fun hb => ?_, fun hb => ?_⟩,
    fun s a data d h hc hd => ⟨fun hv hphase => ?_, fun hv => ?_⟩, fun s a data d h hc hd => ⟨fun hv hfatal hphase hsoft => ?_, fun h1 h2 => ?_⟩,
    fun s a data d w i n h hc hd hw hi hn => ⟨fun h1 h31 hin hw25 => ?_, fun hout => ?_⟩,
    fun s a data d h hc hd h4 h4' => ⟨fun hok => ?_, fun hok => ?_⟩, fun s a data d h hc hd => ?_, fun s a data h hlen hpec => ?_,
    fun s a data h hc => ?_, fun s won b hup hb => ?_, fun s won hup hb => ?_, fun s own hup => ?_⟩
  case refine_1 =>
    subst hv
    have he : twpWrite 0x30 1 a data drainWrite s = drainWrite d (twpDone [] s) := twpWrite_carries h hc hd
    have hdrain : drainWrite d (twpDone [] s) =
        { twpDone [] s with yoke := { (twpDone [] s).yoke with board := (twpDone [] s).yoke.board ++ [byteAt d 0] } } := by
      simp only [drainWrite]
      rw [if_neg (by omega), if_neg (by rw [twpDone_glb]; exact hphase)]
    refine ⟨_, congrArg Host.Outcome.next (he.trans hdrain), by rw [twpDone_reply], by rw [twpDone_yoke], ?_⟩
    exact (show yokState _ = yokState (twpDone [] s) from rfl).trans twpDone_state
  case refine_2 =>
    subst hv
    have he : twpWrite 0x30 1 a data drainWrite s = drainWrite d (twpDone [] s) := twpWrite_carries h hc hd
    exact ⟨_, congrArg Host.Outcome.next (he.trans (if_pos h2)), cmdErr_sets, by rw [cmdErr_yoke, twpDone_yoke]⟩
  case refine_3 =>
    obtain ⟨-, -, -, hboard, -⟩ := yokeEpoch_adopts hup (imon := imon) (duty := duty.map Fin.val) rfl
    exact ⟨_, rfl, hboard, epoch_drains hup hb⟩
  case refine_4 =>
    obtain ⟨-, -, -, hboard, -⟩ := yokeEpoch_adopts hup (imon := imon) (duty := duty.map Fin.val) rfl
    exact ⟨_, rfl, hboard, epoch_resumes hup hb (by decide), epoch_resumes_now hup hb⟩
  case refine_5 =>
    obtain ⟨-, -, -, hboard, -⟩ := yokeEpoch_adopts hup (imon := imon) (duty := duty.map Fin.val) rfl
    exact ⟨_, rfl, hboard, epoch_resumes hup hb (by decide), epoch_holds hup hb⟩
  case refine_6 =>
    have he : twpWrite 0x31 2 a data ceilingWrite s = ceilingWrite d (twpDone [] s) := twpWrite_carries h hc hd
    have hceil : ceilingWrite d (twpDone [] s) =
        { twpDone [] s with yoke := { (twpDone [] s).yoke with ceils := (twpDone [] s).yoke.ceils ++ [(1, min 1800 (leAt d 0 2))] } } := by
      simp only [ceilingWrite]
      rw [if_neg (by omega), if_neg (by rw [twpDone_glb]; exact hphase)]
    exact ⟨_, congrArg Host.Outcome.next (he.trans hceil), by rw [twpDone_yoke], twpDone_counted⟩
  case refine_7 =>
    have he : twpWrite 0x31 2 a data ceilingWrite s = ceilingWrite d (twpDone [] s) := twpWrite_carries h hc hd
    exact ⟨_, congrArg Host.Outcome.next (he.trans (if_pos hv)), cmdErr_sets, by rw [cmdErr_yoke, twpDone_yoke]⟩
  case refine_8 =>
    have he : twpWrite 0x32 1 a data softWrite s = softWrite d (twpDone [] s) := twpWrite_carries h hc hd
    have hglb : (twpDone [] s).glb = s.glb := twpDone_glb
    exact ⟨_, congrArg Host.Outcome.next he, softWrite_spec hv (by rw [hglb, hfatal]) (by rw [hglb, hphase]) (by rw [hglb, hsoft])⟩
  case refine_9 =>
    have he : twpWrite 0x32 1 a data softWrite s = softWrite d (twpDone [] s) := twpWrite_carries h hc hd
    have herr : softWrite d (twpDone [] s) = cmdErr (twpDone [] s) := if_pos ⟨h1, h2⟩
    exact ⟨_, congrArg Host.Outcome.next (he.trans herr), cmdErr_sets, (cmdErr_keeps.glb_eq rfl).trans twpDone_glb⟩
  case refine_10 =>
    have he : twpWrite 0x40 4 a data snapWrite s = snapWrite d (twpDone [] s) := twpWrite_carries h hc hd
    obtain ⟨hsnap, hclear⟩ := snapWrite_spec (s := twpDone [] s) hw hi hn h1 h31 hin hw25
    refine ⟨_, congrArg Host.Outcome.next he, by rw [hsnap, length_snapBytes], fun j hj h64 h88 => ?_, hclear⟩
    have hcount : tget 0 (i + j) (twpDone [] s).cnt = tget 0 (i + j) s.cnt := bump_other h88 h64 _
    rw [hsnap, snapBytes_at hj, hcount]
  case refine_11 =>
    have he : twpWrite 0x40 4 a data snapWrite s = snapWrite d (twpDone [] s) := twpWrite_carries h hc hd
    refine ⟨_, congrArg Host.Outcome.next (he.trans (snapWrite_refused hw hn hout)), cmdErr_sets, ?_⟩
    rw [show (cmdErr (twpDone [] s)).twp = (twpDone [] s).twp from rfl, twpDone_reply]
  case refine_12 =>
    have he : twpWrite 0xF0 5 a data addrCfg s = addrCfg d (twpDone [] s) := twpWrite_carries h hc hd
    have hexec : exec (.addrCfg a data) s = .next (addrCfg d (twpDone [] s)) := by
      refine (congrArg Host.Outcome.next (if_neg ?_)).trans (congrArg Host.Outcome.next he)
      simp [h4']
    exact ⟨_, hexec, addrCfg_spec ((addrCfgOk_congr (by rw [twpDone_glb])).trans hok)⟩
  case refine_13 =>
    have he : twpWrite 0xF0 5 a data addrCfg s = addrCfg d (twpDone [] s) := twpWrite_carries h hc hd
    have hbad : addrCfgOk (twpDone [] s) (d.drop 1) = false := (addrCfgOk_congr (by rw [twpDone_glb])).trans hok
    have herr : addrCfg d (twpDone [] s) = cmdErr (twpDone [] s) := by simp only [addrCfg, hbad]; rfl
    have hexec : exec (.addrCfg a data) s = .next (cmdErr (twpDone [] s)) := by
      refine (congrArg Host.Outcome.next (if_neg ?_)).trans (congrArg Host.Outcome.next (he.trans herr))
      simp [h4']
    have hmode : getReg (cmdErr (twpDone [] s)) 0x3804 = getReg s 0x3804 :=
      (getReg_orReg_other (by decide)).trans twpDone_getReg
    refine ⟨_, hexec, cmdErr_sets, ?_, by rw [twpMode, regF, hmode]; rfl⟩
    rw [show (cmdErr (twpDone [] s)).twp = (twpDone [] s).twp from rfl, twpDone_reply]
  case refine_14 =>
    have he : twpWrite 0xFE 2 a data (fun d s => setReg 0x3800 (byteAt d 0 % 16) s) s = setReg 0x3800 (byteAt d 0 % 16) (twpDone [] s) :=
      twpWrite_carries h hc hd
    refine ⟨_, congrArg Host.Outcome.next he, ?_, by rw [setReg_twp, twpDone_reply], fun off ho => ?_⟩
    · rw [getReg_setReg_same]
      omega
    · rw [getReg_setReg_other ho, twpDone_getReg]
  case refine_15 =>
    have he : twpWrite 0xFE 2 a data (fun d s => setReg 0x3800 (byteAt d 0 % 16) s) s =
      bump 90 1 (latchAlert 6 (twpFlag 3 (twpNack s))) := twpWrite_wrongPec h hlen hpec
    have hflag : (getReg (twpFlag 3 (twpNack s)) 0x381C).testBit 3 = true := twpFlag_sets (by decide)
    have hreg : getReg (twpFlag 3 (twpNack s)) 0x3800 = getReg s 0x3800 :=
      (getReg_orReg_other (by decide)).trans (twpNack_keeps.getReg_eq rfl)
    have hnack : (twpFlag 3 (twpNack s)).twp.nacked = true := twpNack_spec.1
    have hcount : Same (count 90) s (latchAlert 6 (twpFlag 3 (twpNack s))) :=
      Same.trans (t := twpNack s) (bump_count (by decide) (by decide)) rfl
    refine ⟨_, congrArg Host.Outcome.next he, ?_, ?_, Counted.before hcount (bump_counted (by decide)), ?_⟩
    · rw [bump_getReg]
      exact hreg
    · rw [bump_twp]
      exact hnack
    · rw [bump_getReg]
      exact hflag
  case refine_16 =>
    have he : twpWrite 0xFF 0 a data (fun _ s => clearFaults s) s = clearFaults (twpDone [] s) := twpWrite_carries h hc rfl
    refine ⟨_, congrArg Host.Outcome.next he, ?_, rfl, heldSources_done⟩
    rw [clearFaults, getReg_setReg_same]
    rfl
  case refine_17 => exact ⟨_, rfl, alertResponse_spec hup hb⟩
  case refine_18 =>
    have he : alertResponse won s = twpNack s := by simp only [alertResponse, hup, hb]; rfl
    exact ⟨_, congrArg Host.Outcome.next he, twpNack_spec⟩
  case refine_19 =>
    refine ⟨fun hsmb => ⟨_, rfl, timedOut_spec hup hsmb⟩, fun hi2c hown => ?_, fun hi2c hown => ?_, ⟨_, rfl, sdaStuck_spec hup⟩⟩
    · subst hown
      exact ⟨_, congrArg Host.Outcome.next (timedOut_i2c hup hi2c).1, rfl⟩
    · subst hown
      exact ⟨_, rfl, (timedOut_i2c hup hi2c).2⟩

end Sys2Proof.Machine

end

section

/-!
PROOF. O60: the instructions of the package TAP, before and after RUN.
-/

namespace Sys2Proof.Machine

variable {s t : State} {i : TapIr} {f : State → State}

/-! ### A held RUN that applies leaves the TAP and the lock of the DLLs -/

theorem applyRun_tap : (applyRun s).tap = s.tap := applyRun_keeps.at .tap rfl

theorem applyRun_blocked (h : tapBlocks s.tap.ir = true) : applyRun s = s := by
  unfold applyRun
  rw [h]
  exact if_pos (by simp)

/-! ### Loading an instruction -/

/-- The TAP with an instruction loaded. -/
def loaded (i : TapIr) (s : State) : State := setTap (fun t => { t with ir := i, tlr := false }) s

theorem tapLoad_refused (hpow : s.glb.powered = true) (hrun : s.glb.run = true) (hi : tapBlocks i = true) :
    tapLoad i f s = bump 176 1 (loaded .bypass s) := by
  simp only [tapLoad, hpow, hrun, hi]
  rfl

theorem tapLoad_taken (hpow : s.glb.powered = true) (h : (s.glb.run && tapBlocks i) = false) :
    tapLoad i f s = f (applyRun (loaded i s)) := by
  simp only [tapLoad, hpow, h]
  rfl

/-- Before RUN, an instruction that RUN would refuse is loaded, and RUN stays as it is. -/
theorem tapLoad_before (hpow : s.glb.powered = true) (hrun : s.glb.run = false) (hi : tapBlocks i = true) :
    tapLoad i f s = f (loaded i s) := by
  rw [tapLoad_taken hpow (by simp [hrun]), applyRun_blocked hi]

theorem tapLoad_safe (hpow : s.glb.powered = true) (hi : tapBlocks i = false) : tapLoad i f s = f (applyRun (loaded i s)) :=
  tapLoad_taken hpow (by simp [hi])

theorem tapLoad_idle (hpow : s.glb.powered = true) (hi : tapBlocks i = false) (hheld : s.glb.runHeld = false) :
    tapLoad i f s = f (loaded i s) := by
  rw [tapLoad_safe hpow hi, applyRun_notHeld (s := loaded i s) hheld]

theorem loaded_tap : (loaded i s).tap = { s.tap with ir := i, tlr := false } := rfl

theorem tapReset_tap : (tapReset s).tap = { s.tap with ir := .idcode, tlr := true, diesel := 1, pulse := 0, tdo := 0 } := by
  rw [tapReset, applyRun_tap]
  rfl

/-! ### Cells -/

theorem cellTable_last {l : List (Nat × Bool)} {c : Nat} {v : Bool} : tget false c (cellTable (l ++ [(c, v)])) = v := by
  rw [cellTable, List.foldl_append]
  exact tget_tset_same _

/-! ### IDCODE -/

/-- The I/O die's identity code (R433). -/
def iodCode (s : State) : Nat :=
  2 ^ 28 * (s.glb.otp.rev % 16) + 2 ^ 12 * (if s.glb.otp.iodGen = 2 then 0x6402 else 0x6403) + (2 * Config.manufacturer.toNat + 1)

theorem idcodes_low : ∃ k, idcodes s = k * 2 ^ 32 + iodCode s := ⟨_, rfl⟩

theorem idcodes_fields : idcodes s % 2 = 1 ∧ idcodes s / 2 % 2 ^ 11 = Config.manufacturer.toNat ∧
    idcodes s / 2 ^ 12 % 2 ^ 16 = (if s.glb.otp.iodGen = 2 then 0x6402 else 0x6403) ∧ idcodes s / 2 ^ 28 % 16 = s.glb.otp.rev % 16 := by
  obtain ⟨k, hk⟩ := idcodes_low (s := s)
  have hm : Config.manufacturer.toNat < 2 ^ 11 := Config.manufacturer.isLt
  rw [hk, iodCode]
  split <;> omega

/-! ### The HBM wrapper -/

theorem tget_filter {α : Type} {x : α} {p : Nat → Prop} [DecidablePred p] (k : Nat) : ∀ m : List (Nat × α),
    tget x k (m.filter (fun e => p e.1)) = if p k then tget x k m else x
  | [] => by simp [tget]
  | (j, v) :: m => by
    have ih := tget_filter (x := x) (p := p) k m
    by_cases hj : p j
    · rw [List.filter_cons_of_pos (by simpa using hj), tget, tget, ih]
      by_cases hk : j = k
      · subst hk
        simp [hj]
      · simp [hk]
    · rw [List.filter_cons_of_neg (by simpa using hj), ih, tget]
      by_cases hk : j = k
      · subst hk
        simp [hj]
      · simp [hk]

/-- After a built-in self-test of a stack its bytes are free values without poison, and the other stacks are as before. -/
theorem selfTest_mem {k : Nat} (hk : k = regF s 0x8010 0 2) (ht : wrapperOp .selfTest s = t) :
    (∀ a, stackOf a = k → getMem t a = Config.afterBist (tget 0 (stackOf a) s.mem.bist + 1) a) ∧
    (∀ a, stackOf a ≠ k → getMem t a = getMem s a) ∧ (∀ h, stackOf (32 * h) = k → poisoned t h = false) := by
  subst ht
  have hbist : ∀ j, tget 0 j (wrapperOp .selfTest s).mem.bist = if j = k then tget 0 k s.mem.bist + 1 else tget 0 j s.mem.bist := fun j => by
    have hset : (wrapperOp .selfTest s).mem.bist = tset 0 k (tget 0 k s.mem.bist + 1) s.mem.bist := by rw [hk]; rfl
    rw [hset, tget_tset]
  have hbytes : ∀ a, tget 0 a (wrapperOp .selfTest s).mem.hbm = if stackOf a ≠ k then tget 0 a s.mem.hbm else 0 := fun a => by
    rw [hk]
    exact tget_filter (p := fun e => stackOf e ≠ regF s 0x8010 0 2) a s.mem.hbm
  refine ⟨fun a ha => ?_, fun a ha => ?_, fun h hh => ?_⟩
  · rw [getMem, memBase, hbytes, hbist, ha]
    simp
  · rw [getMem, memBase, hbytes, hbist, if_pos ha, if_neg ha]
    rfl
  · have hfilter := tget_filter (x := false) (p := fun e => stackOf (32 * e) ≠ regF s 0x8010 0 2) h s.mem.poison
    exact hfilter.trans (if_neg (by rw [hh, hk]; exact not_not.mpr rfl))

theorem mem_insertNew_of_mem {α : Type} [DecidableEq α] {x y : α} {l : List α} (h : y ∈ l) : y ∈ insertNew x l := by
  unfold insertNew
  split
  · exact h
  · exact List.mem_append_left _ h

/-! ### DIESEL -/

theorem applyRun_dllLock : (applyRun s).clk.dllLock = s.clk.dllLock := by
  have hhold : ∀ v : State, Same mainClk v (enterHoldoff v) := fun v => by
    unfold enterHoldoff
    exact Same.trans (t := beginHold { v with glb := { v.glb with phase := .holdoff } }) rfl setYok_mainClk
  have hstandby : ∀ v : State, Same mainClk v (afterStandby v) := fun v => by
    unfold afterStandby
    have hdrain : Same mainClk v (setYok 6 { v with yoke := { v.yoke with drainReq := false } }) :=
      Same.trans (t := { v with yoke := { v.yoke with drainReq := false } }) rfl setYok_mainClk
    exact same_ite (.refl v) (same_ite hdrain (same_ite (hhold v) (.refl v)))
  refine Same.dllLock_eq ?_
  unfold applyRun
  exact same_ite (.refl s) (Same.trans (t := { s with glb := { s.glb with run := true, runHeld := false } }) rfl (hstandby _))

theorem dieselWord_bits (sel lock : Nat) : (1 + 2 * ((sel / 2) &&& (lock % 16))).testBit 0 = true ∧
    ∀ d, d < 4 → (1 + 2 * ((sel / 2) &&& (lock % 16))).testBit (d + 1) = (sel.testBit (d + 1) && lock.testBit d) := by
  refine ⟨by simp [Nat.testBit_zero], fun d hd => ?_⟩
  have hhalf : (1 + 2 * ((sel / 2) &&& (lock % 16))) / 2 = (sel / 2) &&& (lock % 16) := by omega
  have hlock : (lock % 2 ^ 4).testBit d = lock.testBit d := by rw [Nat.testBit_mod_two_pow]; simp [hd]
  rw [Nat.testBit_succ, hhalf, Nat.testBit_and, Nat.testBit_div_two]
  exact congrArg _ hlock

/-! ### TSTACC -/

theorem tstaccAccess_outside {off v : Nat} {write bad : Bool} (h : off < 0x8000) : tstaccAccess off v write bad s = (0, s) := by
  simp [tstaccAccess, h]

theorem tstaccAccess_afterRun {off v : Nat} {bad : Bool} (h : s.glb.run = true) : tstaccAccess off v true bad s = (0, s) := by
  simp [tstaccAccess, h]

/-- TST_OFF (Table TST-2) is one plain field of 32 bits. -/
def offRow : RegRow := ⟨"TST_OFF", 0x8004, 0, 1, [⟨31, 0, .rw, 0, false⟩]⟩

theorem regAt_testOff : regAt 0x8004 = some (offRow, 0) := by decide +kernel

theorem readReg_testOff (hrun : s.glb.run = false) : readReg s 0x8004 = getReg s 0x8004 := by
  unfold readReg
  rw [if_neg (by simp [hrun]), if_neg (by decide), regAt_testOff]
  rfl

theorem writeReg_testOff {v : Nat} (hv : v < 2 ^ 32) (hrun : s.glb.run = false) : getReg (writeReg 0x8004 v s) 0x8004 = v := by
  have hplain : writeReg 0x8004 v s = plainWrite offRow 0x8004 v s := by
    unfold writeReg
    rw [if_neg (by simp [hrun]), if_neg (by decide), if_neg (by simp), regAt_testOff]
    rfl
  have hfields : writeFields s 0x8004 (getReg s 0x8004) v offRow.fields = (v, false) := by
    simp [writeFields, offRow, writeField, fieldLocked, bitsOf]
    exact hv
  rw [hplain, plainWrite, hfields]
  simp only [Bool.false_eq_true, if_false, getReg_setReg_same, Nat.mod_eq_of_lt hv]

/-- What the instructions that would hold the pins or a stack do before RUN. -/
theorem loaded_runs {g : Tap → Tap} (hpow : s.glb.powered = true) (hrun : s.glb.run = false) (hi : tapBlocks i = true) :
    tapLoad i (setTap g) s = setTap g (loaded i s) := tapLoad_before hpow hrun hi

theorem refused_spec {e : Instr} (he : exec e s = .next (tapLoad i f s)) (hpow : s.glb.powered = true) (hrun : s.glb.run = true)
    (hi : tapBlocks i = true) : ∃ t, exec e s = .next t ∧ t.tap = { s.tap with ir := .bypass, tlr := false } ∧ Counted 176 1 s t ∧ t.mem = s.mem := by
  rw [tapLoad_refused hpow hrun hi] at he
  refine ⟨_, he, ?_, (bump_counted (s := loaded .bypass s) (by decide)), ?_⟩
  · rw [bump_tap, loaded_tap]
  · rw [bump_mem]
    rfl

/-- Settles O60: each instruction by what it loads and what its data register does. -/
theorem testAccess : Obligations.TestAccess := by
  unfold Obligations.TestAccess
  intro s hpow
  refine ⟨?_, ?_, ?_, ?_, fun pins cells c v => ?_, fun hrun => ⟨fun pins c => ?_, fun c => ?_, fun c => ?_, fun seen => ?_, fun seen => ?_,
    ?_, ?_, fun r => ?_, fun r => ?_, fun lane => ?_, fun lane => ?_⟩, fun hrun i hi => ?_, fun sel => ?_, fun off v write bad hoff => ?_,
    fun hrun hheld hup => ⟨fun v => ?_, fun bad => ?_⟩, fun hrun hheld off v bad => ?_⟩
  case refine_1 => exact ⟨_, congrArg Host.Outcome.next (if_pos hpow), tapReset_tap⟩
  case refine_2 => exact ⟨_, congrArg Host.Outcome.next (if_pos hpow), tapReset_tap⟩
  case refine_3 => exact ⟨_, congrArg Host.Outcome.next (tapLoad_safe hpow rfl), applyRun_tap.trans loaded_tap⟩
  case refine_4 =>
    obtain ⟨h0, hm, hpart, hrev⟩ := idcodes_fields (s := applyRun (loaded .idcode s))
    have hotp : (applyRun (loaded .idcode s)).glb.otp = s.glb.otp := (applyRun_keeps.at .fuses rfl).1
    rw [hotp] at hpart hrev
    have htap : (applyRun (loaded .idcode s)).tap = { s.tap with ir := .idcode, tlr := false } := applyRun_tap.trans loaded_tap
    refine ⟨_, congrArg Host.Outcome.next (tapLoad_safe hpow rfl), ?_, ?_, h0, hm, hpart, hrev⟩
    · exact congrArg Tap.ir htap
    · exact congrArg Tap.tlr htap
  case refine_5 =>
    have htap : (applyRun (loaded .sample s)).tap = { s.tap with ir := .sample, tlr := false } := applyRun_tap.trans loaded_tap
    have hir : (applyRun (loaded .sample s)).tap.ir = .sample := by rw [htap]
    refine ⟨_, congrArg Host.Outcome.next (tapLoad_safe hpow rfl), hir, cellTable_last, cellTable_last, ?_⟩
    have hfun : ∀ u : State, u.tap.ir = .sample → pinDrive u c = .functional := fun u hu => by rw [pinDrive, hu]
    exact hfun _ hir
  case refine_6 => exact ⟨_, congrArg Host.Outcome.next (loaded_runs hpow hrun rfl), rfl, rfl, rfl, hrun⟩
  case refine_7 => exact ⟨_, congrArg Host.Outcome.next (tapLoad_before hpow hrun rfl), rfl, rfl⟩
  case refine_8 => exact ⟨_, congrArg Host.Outcome.next (tapLoad_before hpow hrun rfl), rfl, rfl⟩
  case refine_9 => exact ⟨_, congrArg Host.Outcome.next (loaded_runs hpow hrun rfl), rfl, rfl, hrun⟩
  case refine_10 => exact ⟨_, congrArg Host.Outcome.next (loaded_runs hpow hrun rfl), rfl, rfl, hrun⟩
  case refine_11 => exact ⟨_, congrArg Host.Outcome.next (tapLoad_before hpow hrun rfl), rfl, rfl⟩
  case refine_12 =>
    exact ⟨_, congrArg Host.Outcome.next (tapLoad_before hpow hrun rfl), selfTest_mem (s := loaded .hbm1500 s) rfl rfl⟩
  case refine_13 => exact ⟨_, congrArg Host.Outcome.next (tapLoad_before hpow hrun rfl), rfl⟩
  case refine_14 => exact ⟨_, congrArg Host.Outcome.next (tapLoad_before hpow hrun rfl), rfl⟩
  case refine_15 =>
    refine ⟨_, congrArg Host.Outcome.next (tapLoad_before hpow hrun rfl), ?_, fun x hx => ?_⟩
    · exact mem_insertNew (l := s.mem.softLanes)
    · exact mem_insertNew_of_mem (l := s.mem.softLanes) hx
  case refine_16 =>
    refine ⟨_, congrArg Host.Outcome.next (tapLoad_before hpow hrun rfl), ?_, fun x hx => ?_⟩
    · exact mem_insertNew (l := s.glb.hardLanes)
    · exact mem_insertNew_of_mem (l := s.glb.hardLanes) hx
  case refine_17 =>
    simp only [List.mem_cons, List.not_mem_nil, or_false] at hi
    rcases hi with rfl | rfl | rfl | rfl | rfl | rfl <;> exact refused_spec rfl hpow hrun rfl
  case refine_18 =>
    have htap : (applyRun (loaded .diesel s)).tap = { s.tap with ir := .diesel, tlr := false } := applyRun_tap.trans loaded_tap
    have hlock : (applyRun (loaded .diesel s)).clk.dllLock = s.clk.dllLock := applyRun_dllLock
    obtain ⟨h0, hd⟩ := dieselWord_bits sel.val (applyRun (loaded .diesel s)).clk.dllLock
    refine ⟨_, congrArg Host.Outcome.next (tapLoad_safe hpow rfl), ?_, h0, rfl, fun d hlt => ?_⟩
    · exact congrArg Tap.ir htap
    · rw [← hlock]
      exact hd d hlt
  case refine_19 =>
    have htap : (applyRun (loaded .tstacc s)).tap = { s.tap with ir := .tstacc, tlr := false } := applyRun_tap.trans loaded_tap
    have htiles : (applyRun (loaded .tstacc s)).tiles = s.tiles := applyRun_keeps.at .tiles rfl
    refine ⟨_, congrArg Host.Outcome.next (tapLoad_safe hpow rfl), ?_, ?_, ?_⟩
    · rw [tstaccAccess_outside hoff]
      exact congrArg Tap.ir htap
    · rw [tstaccAccess_outside hoff]
      rfl
    · rw [tstaccAccess_outside hoff]
      exact htiles
  case refine_20 =>
    have haccess : tstaccAccess 0x8004 v.toNat true false (loaded .tstacc s) = (v.toNat, writeReg 0x8004 v.toNat (loaded .tstacc s)) := by
      have hup' : heldInReset (loaded .tstacc s) = false := hup
      have hrun' : (loaded .tstacc s).glb.run = false := hrun
      simp [tstaccAccess, hup', hrun']
    refine ⟨_, congrArg Host.Outcome.next (tapLoad_idle hpow rfl hheld), ?_, ?_⟩
    · exact (congrArg (fun x => getReg x.2 0x8004) haccess).trans (writeReg_testOff (s := loaded .tstacc s) v.isLt hrun)
    · exact congrArg Prod.fst haccess
  case refine_21 =>
    have haccess : tstaccAccess 0x8004 0 false bad (loaded .tstacc s) = (readReg (loaded .tstacc s) 0x8004, loaded .tstacc s) := by
      have hup' : heldInReset (loaded .tstacc s) = false := hup
      have hrun' : (loaded .tstacc s).glb.run = false := hrun
      simp [tstaccAccess, hup', hrun']
    refine ⟨_, congrArg Host.Outcome.next (tapLoad_idle hpow rfl hheld), ?_, ?_⟩
    · refine (congrArg Prod.fst haccess).trans ?_
      exact (readReg_testOff (s := loaded .tstacc s) hrun).trans (readReg_testOff hrun).symm
    · exact congrArg (fun x => x.2.regs) haccess
  case refine_22 =>
    have haccess : tstaccAccess (off.toNat / 4 * 4) v.toNat true bad (loaded .tstacc s) = (0, loaded .tstacc s) := tstaccAccess_afterRun hrun
    refine ⟨_, congrArg Host.Outcome.next (tapLoad_idle hpow rfl hheld), ?_, ?_, ?_⟩
    · exact congrArg Prod.fst haccess
    · exact congrArg (fun x => x.2.regs) haccess
    · exact congrArg (fun x => x.2.tiles) haccess

end Sys2Proof.Machine

end

section

/-!
PROOF. O51: the voltage points of the plots, their thermal caps, and the check of the energy tables.
-/

namespace Sys2Proof.Machine

variable {s t u : State} {p d : Nat}

theorem tdivReq_askTdiv {c : Nat} : tget 0 p (askTdiv p c s).clk.tdivReq = c + 1 := by rw [askTdiv, tget_tset_same]

theorem getPlot_askTdiv {c q : Nat} : getPlot (askTdiv p c s) q = getPlot s q := rfl

/-! ### Critical-path margin -/

theorem cpmMarginLoss_rises (hon : plotsOn s = true) (h : (getPlot s p).mv + 5 ≤ windowTop (getTdiv s p)) :
    cpmMarginLoss p s = setPlot p { getPlot s p with mv := (getPlot s p).mv + 5 } s := by
  simp only [cpmMarginLoss, hon, h]
  rfl

theorem cpmMarginLoss_slows (hon : plotsOn s = true) (h : windowTop (getTdiv s p) < (getPlot s p).mv + 5) (hc : getTdiv s p < 3) :
    cpmMarginLoss p s = bump 100 1 (askTdiv p (getTdiv s p + 1)
      (setPlot p { getPlot s p with cpmSlow := getTdiv s p + 1, want := getTdiv s p + 1 } s)) := by
  simp only [cpmMarginLoss, hon, if_neg (Nat.not_le.mpr h), hc]
  rfl

/-! ### Steering a plot to the divider that its limits allow -/

theorem steerPlot_slower (h : getTdiv s p < plotDiv s p) :
    steerPlot p s = askTdiv p (plotDiv s p) (setPlot p { getPlot s p with want := plotDiv s p, ldoOk := true } s) := if_pos h

theorem steerPlot_faster (h : plotDiv s p < getTdiv s p) (hw : (getPlot s p).want ≠ plotDiv s p) :
    steerPlot p s = setPlot p { getPlot s p with want := plotDiv s p, ldoOk := false } s :=
  (if_neg (by omega)).trans (if_pos ⟨h, hw⟩)

/-- What steering leaves of a plot: all but the divider wanted and its voltage's readiness. -/
def unsteered (v : Plot) : Plot := { v with want := 0, ldoOk := false }

theorem steerPlot_rest {q : Nat} : unsteered (getPlot (steerPlot p s) q) = unsteered (getPlot s q) ∧
    (q ≠ p → getPlot (steerPlot p s) q = getPlot s q) := by
  have hset : ∀ v, unsteered v = unsteered (getPlot s p) → unsteered (getPlot (setPlot p v s) q) = unsteered (getPlot s q) ∧
      (q ≠ p → getPlot (setPlot p v s) q = getPlot s q) := fun v hv => by
    refine ⟨?_, fun hq => getPlot_setPlot_other hq⟩
    by_cases hq : q = p
    · subst hq
      rw [getPlot_setPlot_same, hv]
    · rw [getPlot_setPlot_other hq]
  unfold steerPlot
  dsimp only
  split
  · rw [getPlot_askTdiv]
    exact hset _ rfl
  · split
    · exact hset _ rfl
    · exact ⟨rfl, fun _ => rfl⟩

/-- The plot without its CPM step. -/
def retried (p : Nat) (s : State) : State := setPlot p { getPlot s p with cpmSlow := 0 } s

theorem cpmRetry_eq (h : (getPlot s p).cpmSlow ≠ 0) : cpmRetry p s = if plotsOn s then steerPlot p (retried p s) else retried p s := by
  simp only [cpmRetry, if_neg h]
  rfl

theorem plotDiv_retried : plotDiv (retried p s) p = min 3 (max (regF s 0x0414 0 2) (capCode s (getPlot s p).cap)) := by
  have hcap : ∀ k, capCode (retried p s) k = capCode s k := fun _ => rfl
  rw [plotDiv, retried, getPlot_setPlot_same, ← retried, hcap]
  simp only [Nat.max_zero]
  rfl

theorem unsteered_fields {v w : Plot} (h : unsteered v = unsteered w) : v.cpmSlow = w.cpmSlow ∧ v.sensor = w.sensor ∧ v.cap = w.cap ∧
    v.overtemp = w.overtemp ∧ v.duty = w.duty := by
  have h1 : (unsteered v).cpmSlow = (unsteered w).cpmSlow := congrArg Plot.cpmSlow h
  have h2 : (unsteered v).sensor = (unsteered w).sensor := congrArg Plot.sensor h
  have h3 : (unsteered v).cap = (unsteered w).cap := congrArg Plot.cap h
  have h4 : (unsteered v).overtemp = (unsteered w).overtemp := congrArg Plot.overtemp h
  have h5 : (unsteered v).duty = (unsteered w).duty := congrArg Plot.duty h
  exact ⟨h1, h2, h3, h4, h5⟩

/-! ### The voltage of a faster point -/

theorem window_bounds (k : Nat) : windowBottom k ≤ windowTop k := by
  unfold windowBottom windowTop
  split <;> decide

theorem clampNat_bounds {lo hi n : Nat} (h : lo ≤ hi) : lo ≤ clampNat lo hi n ∧ clampNat lo hi n ≤ hi := by
  unfold clampNat
  split
  · omega
  · split <;> omega

theorem ldoTargetReached_asks {mv : Nat} (hon : plotsOn s = true) (hldo : (getPlot s p).ldoOk = false) (hw : (getPlot s p).want < getTdiv s p) :
    ldoTargetReached p mv s = askTdiv p (getPlot s p).want (setPlot p { getPlot s p with
      mv := clampNat (windowBottom (getPlot s p).want) (windowTop (getPlot s p).want) mv, ldoOk := true } s) := by
  have hw' : ∀ v, (getPlot s p).want < getTdiv (setPlot p v s) p := fun _ => hw
  simp only [ldoTargetReached, hon, hldo, hw']
  rfl

/-! ### Thermal caps -/

theorem capLevel_bands (old sensor : Nat) : (400 ≤ sensor → capLevel old sensor = 2) ∧
    (380 ≤ sensor → sensor ≤ 388 → capLevel old sensor = 1) ∧
    (388 < sensor → sensor < 400 → capLevel old sensor = if old = 2 then 2 else 1) ∧
    (368 < sensor → sensor < 380 → capLevel old sensor = if old = 0 then 0 else 1) ∧ (sensor ≤ 368 → capLevel old sensor = 0) := by
  unfold capLevel
  refine ⟨fun h => ?_, fun h1 h2 => ?_, fun h1 h2 => ?_, fun h1 h2 => ?_, fun h => ?_⟩
  · rw [if_pos h]
  · rw [if_neg (by omega), if_neg (by omega), if_pos h1]
  · rw [if_neg (by omega), if_pos (show 380 ≤ sensor by omega)]
    exact if_congr (by omega) rfl rfl
  · rw [if_neg (by omega), if_neg (by omega), if_neg (by omega)]
    split <;> split <;> omega
  · rw [if_neg (by omega), if_neg (by omega), if_neg (by omega), if_neg (by omega)]

/-- The plot with a sensor's reading and what it brings (Table YOK-3). -/
def sensed (sensor : Nat) (v : Plot) : Plot :=
  { v with sensor := sensor, cap := capLevel v.cap sensor,
           overtemp := if 420 ≤ sensor then true else v.overtemp && decide (408 ≤ sensor), duty := if sensor < 380 then v.duty else 0 }

/-- The reading is stored, what it brings is reported, and a plot that runs is steered. -/
theorem thermalCap_eq {sensor : Nat} : ∃ u, Keeps [.cnt, .hif, .links, .trc, .alert] (setPlot p (sensed sensor (getPlot s p)) s) u ∧
    thermalCap p sensor s = if plotsOn u then steerPlot p u else u :=
  ⟨_, keeps_ite (Keeps.after (keeps_ite (.refl _) raiseOn_keeps) raiseOn_keeps rfl) (keeps_ite (.refl _) raiseOn_keeps), rfl⟩

theorem thermalCap_plots {sensor : Nat} {q : Nat} : unsteered (getPlot (thermalCap p sensor s) q) =
    unsteered (getPlot (setPlot p (sensed sensor (getPlot s p)) s) q) ∧
    (q ≠ p → getPlot (thermalCap p sensor s) q = getPlot s q) := by
  obtain ⟨u, hu, heq⟩ := thermalCap_eq (p := p) (s := s) (sensor := sensor)
  have hplots : getPlot u q = getPlot (setPlot p (sensed sensor (getPlot s p)) s) q := by
    rw [getPlot, getPlot, show u.plots = _ from hu.at .plots rfl]
  have hother : q ≠ p → getPlot u q = getPlot s q := fun hq => hplots.trans (getPlot_setPlot_other hq)
  obtain ⟨hrest, hq⟩ := steerPlot_rest (p := p) (s := u) (q := q)
  rw [heq, ← hplots]
  split
  · exact ⟨hrest, fun hne => (hq hne).trans (hother hne)⟩
  · exact ⟨rfl, hother⟩

theorem thermalCap_plot {sensor : Nat} : (getPlot (thermalCap p sensor s) p).sensor = sensor ∧
    (getPlot (thermalCap p sensor s) p).cap = capLevel (getPlot s p).cap sensor ∧
    (getPlot (thermalCap p sensor s) p).overtemp = (if 420 ≤ sensor then true else (getPlot s p).overtemp && decide (408 ≤ sensor)) ∧
    (getPlot (thermalCap p sensor s) p).duty = (if sensor < 380 then (getPlot s p).duty else 0) := by
  have h := (thermalCap_plots (p := p) (s := s) (sensor := sensor) (q := p)).1
  rw [getPlot_setPlot_same] at h
  obtain ⟨-, h1, h2, h3, h4⟩ := unsteered_fields h
  exact ⟨h1, h2, h3, h4⟩

/-! ### The check of the energy tables -/

/-- What the check makes of a die, by its estimate and what its channel measures. -/
def checked (band est im : Nat) (y : YokeDie) : YokeDie :=
  if band * im < 100 * (if est < im then im - est else est - im) then
    { y with divMs := y.divMs + 1, okMs := 0, diverged := y.diverged || decide (10 ≤ y.divMs + 1) }
  else { y with divMs := 0, okMs := y.okMs + 1, diverged := y.diverged && decide (y.okMs + 1 < 10) }

theorem calDie_dies {est code : Nat} (hscale : regF s (0x2830 + 4 * d) 0 16 ≠ 0) : (calDie d est code s).yoke =
    (setYd d (checked (regF s 0x2828 0 8) est (regF s (0x2830 + 4 * d) 0 16 * code) (getYd s d)) s).yoke := by
  unfold calDie checked
  extract_lets -merge -underBinder +onlyGivenNames scale y
  rw [if_neg hscale]
  extract_lets -merge -underBinder +onlyGivenNames im differs
  by_cases h : regF s 0x2828 0 8 * im < 100 * (if est < im then im - est else est - im)
  · rw [if_pos h, if_pos (show differs = true from decide_eq_true h)]
    extract_lets -merge -underBinder +onlyGivenNames n s1
    split
    · rw [raiseOn_yoke, bump_yoke]
    · rfl
  · rw [if_neg h, if_neg (show ¬ differs = true from fun hd => h (of_decide_eq_true hd))]

theorem calDie_regs {est code : Nat} : RegsBut [] s (calDie d est code s) := calDie_keeps.regsBut rfl

theorem calDie_other {e est code : Nat} (h : e ≠ d) : getYd (calDie d est code s) e = getYd s e := by
  by_cases hscale : regF s (0x2830 + 4 * d) 0 16 = 0
  · rw [show calDie d est code s = s from if_pos hscale]
  · exact (getYd_congr (congrArg Yoke.dies (calDie_dies hscale))).trans (getYd_setYd_other h)

/-- A die of the check is judged by its own estimate and channel. -/
theorem calibrationRefit_die {est codes : List Nat} (hd : d ∈ goodDies s) (hscale : regF s (0x2830 + 4 * d) 0 16 ≠ 0) :
    getYd (calibrationRefit est codes s) d =
      checked (regF s 0x2828 0 8) ((est[d]?).getD 0) (regF s (0x2830 + 4 * d) 0 16 * (codes[d]?).getD 0) (getYd s d) := by
  unfold calibrationRefit
  obtain ⟨front, back, hsplit⟩ := List.append_of_mem hd
  have hnodup := hsplit ▸ goodDies_nodup (s := s)
  have hfront : ∀ e ∈ front, d ≠ e := fun e he heq => by
    have := (List.nodup_append.mp hnodup).2.2 e he d (by simp)
    exact this heq.symm
  have hback : ∀ e ∈ back, d ≠ e := fun e he heq => by
    have := (List.nodup_cons.mp (List.nodup_append.mp hnodup).2.1).1
    exact this (heq ▸ he)
  rw [hsplit]
  have heach : ∀ f : Nat → State → State, each (front ++ d :: back) f s = each back f (f d (each front f s)) := fun f => by simp [each]
  rw [heach]
  obtain ⟨hyd, hregs⟩ := each_preserves_mem (as := front)
    (f := fun d s => calDie d ((est[d]?).getD 0) ((codes[d]?).getD 0) s) (P := fun u => getYd u d = getYd s d ∧ RegsBut [] s u) (s := s)
    ⟨rfl, .refl s⟩ fun e he v hv => ⟨(calDie_other (hfront e he)).trans hv.1, hv.2.trans calDie_regs⟩
  generalize each front (fun d s => calDie d ((est[d]?).getD 0) ((codes[d]?).getD 0) s) s = u at hyd hregs ⊢
  have hself : getYd (calDie d ((est[d]?).getD 0) ((codes[d]?).getD 0) u) d =
      checked (regF s 0x2828 0 8) ((est[d]?).getD 0) (regF s (0x2830 + 4 * d) 0 16 * (codes[d]?).getD 0) (getYd s d) := by
    have hscale' : regF u (0x2830 + 4 * d) 0 16 ≠ 0 := by rw [hregs.regF_eq (by simp)]; exact hscale
    rw [getYd_congr (congrArg Yoke.dies (calDie_dies hscale')), getYd_setYd_same, hregs.regF_eq (by simp), hregs.regF_eq (by simp), hyd]
  exact each_preserves_mem (P := fun v => getYd v d = _) hself fun e he v hv => (calDie_other (hback e he)).trans hv

theorem distance_eq (e im : Nat) : (if e < im then im - e else e - im) = max e im - min e im := by split <;> omega

/-- Settles O51: the points that move, and the energy tables' check. -/
theorem yokePlots : Obligations.YokePlots := by
  unfold Obligations.YokePlots
  refine ⟨fun s p mv hoff => ⟨?_, ?_⟩, fun s p hon => ⟨fun h => ?_, fun h hc => ?_⟩, fun s p c hslow hc => ?_, fun s p mv hon hldo hw => ?_,
    fun s p sensor => ?_, fun s est codes d scale im e hup hd hs hscale him he => ?_⟩
  case refine_1 => exact congrArg Host.Outcome.next (by simp only [cpmMarginLoss, hoff]; rfl)
  case refine_2 => exact congrArg Host.Outcome.next (by simp only [ldoTargetReached, hoff]; rfl)
  case refine_3 =>
    exact ⟨_, congrArg Host.Outcome.next (cpmMarginLoss_rises hon h), by rw [getPlot_setPlot_same], rfl, rfl⟩
  case refine_4 =>
    refine ⟨_, congrArg Host.Outcome.next (cpmMarginLoss_slows hon h hc), ?_, ?_, ?_, ?_⟩
    · rw [getPlot, bump_plots, ← getPlot, getPlot_askTdiv, getPlot_setPlot_same]
    · rw [bump_clk, tdivReq_askTdiv]
    · exact bump_counted (s := askTdiv _ _ _) (by decide)
    · rw [getTdiv, bump_clk]
      rfl
  case refine_5 =>
    have hdiv : plotDiv (retried p s) p = c := plotDiv_retried.trans hc.symm
    have hret : getPlot (retried p s) p = { getPlot s p with cpmSlow := 0 } := getPlot_setPlot_same
    have hcpm : (getPlot (cpmRetry p s) p).cpmSlow = 0 := by
      rw [cpmRetry_eq hslow]
      split
      · rw [(unsteered_fields (steerPlot_rest (q := p)).1).1, hret]
      · rw [hret]
    refine ⟨_, rfl, hcpm, fun hon hlt hw => ?_, fun hon hlt => ?_, fun hoff => ?_⟩
    · rw [cpmRetry_eq hslow, if_pos hon, steerPlot_faster (s := retried p s) (by rw [hdiv]; exact hlt) (by rw [hdiv, hret]; exact hw),
        getPlot_setPlot_same, hdiv]
      exact ⟨rfl, rfl, rfl⟩
    · rw [cpmRetry_eq hslow, if_pos hon, steerPlot_slower (s := retried p s) (by rw [hdiv]; exact hlt), tdivReq_askTdiv, getPlot_askTdiv,
        getPlot_setPlot_same, hdiv]
      exact ⟨rfl, rfl⟩
    · rw [cpmRetry_eq hslow, if_neg (by simp [hoff]), hret]
      exact ⟨rfl, rfl⟩
  case refine_6 =>
    refine ⟨_, congrArg Host.Outcome.next (ldoTargetReached_asks hon hldo hw), ?_⟩
    rw [getPlot_askTdiv, getPlot_setPlot_same, tdivReq_askTdiv]
    exact ⟨rfl, rfl, clampNat_bounds (window_bounds _)⟩
  case refine_7 =>
    obtain ⟨hsensor, hcap, hhot, hduty⟩ := thermalCap_plot (p := p) (s := s) (sensor := sensor)
    obtain ⟨h400, h380, h388, h368, hlow⟩ := capLevel_bands (getPlot s p).cap sensor
    rw [← hcap] at h400 h380 h388 h368 hlow
    refine ⟨_, rfl, hsensor, h400, h380, h388, h368, hlow, fun h => ?_, fun h => ?_, fun h => ?_, fun q hq => thermalCap_plots.2 hq⟩
    · rw [hhot, if_pos h]
    · rw [hhot, if_neg (by omega), decide_eq_false (by omega), Bool.and_false]
    · rw [hduty, if_neg (by omega)]
  case refine_8 =>
    have hdie := calibrationRefit_die (est := est) (codes := codes) hd (hs ▸ hscale)
    rw [← hs, ← him, ← he, checked, distance_eq] at hdie
    have hexec : exec (.calibrationRefit est codes) s = .next (calibrationRefit est codes s) := congrArg Host.Outcome.next (if_pos hup)
    refine ⟨fun h => ⟨_, hexec, ?_⟩, fun h => ⟨_, hexec, ?_⟩⟩
    · rw [hdie, if_pos h]
      exact ⟨rfl, rfl, rfl⟩
    · rw [hdie, if_neg (Nat.not_lt.mpr h)]
      exact ⟨rfl, rfl, rfl⟩

end Sys2Proof.Machine

end

section

/-!
PROOF. O52: the Yoke's timers, its schedule, its descriptors and the telemetry record.
-/

namespace Sys2Proof.Machine

variable {s t u : State} {q pos op : Nat} {b : List Byte}

/-! ### Timers and schedule -/

theorem holdoffExpiry_due (hhold : inHold s = true) (hsched : s.yoke.holdSched = false)
    (hdue : s.yoke.holdT0 + 1000000 * getReg s 0x28A4 ≤ s.clk.now) : holdoffExpiry s = beginRamp s := if_pos (by simp [hhold, hsched, hdue])

theorem holdoffExpiry_early (h : s.clk.now < s.yoke.holdT0 + 1000000 * getReg s 0x28A4) : holdoffExpiry s = s := if_neg (by simp; omega)

theorem inHold_of (h : yokState s = 2 ∨ (yokState s = 6 ∧ s.yoke.holding = true)) : inHold s = true := by
  rcases h with h | ⟨h, hh⟩
  · simp [inHold, h]
  · simp [inHold, h, hh]

theorem beginRamp_phase (h : s.glb.phase = .holdoff) : (beginRamp s).glb.phase = .ramp := by simp [beginRamp, h]

/-- What a schedule frame's START does when its time has come. -/
def startDue (s : State) : State :=
  if (match s.yoke.startAt with | some x => decide (x ≤ devTime s) | none => false) then
    (if yokState s = 2 ∨ yokState s = 6 then beginRamp { s with yoke := { s.yoke with startAt := none } }
     else { s with yoke := { s.yoke with startAt := none } })
  else s

/-- What a DRAIN does when its time has come. -/
def drainDue (now : Nat) (s : State) : State :=
  if (match s.yoke.drainAt with | some x => decide (x ≤ now) | none => false) then
    (if yokState s = 3 ∨ yokState s = 4 then drainRequest { s with yoke := { s.yoke with drainAt := none } }
     else { s with yoke := { s.yoke with drainAt := none } })
  else s

/-- What a CEILING does when its time has come. -/
def ceilDue (now : Nat) (s : State) : State :=
  match s.yoke.ceilAt with
  | some (t, v) => if t ≤ now then { s with yoke := { s.yoke with ceilAt := none, ceils := s.yoke.ceils ++ [(2, v)] } } else s
  | none => s

theorem schedSlotTime_eq : schedSlotTime s = ceilDue (devTime s) (drainDue (devTime s) (startDue s)) := rfl

theorem startDue_none (h : s.yoke.startAt = none) : startDue s = s := by simp [startDue, h]

theorem drainDue_none {now : Nat} (h : s.yoke.drainAt = none) : drainDue now s = s := by simp [drainDue, h]

theorem ceilDue_rest {now : Nat} : yokState (ceilDue now s) = yokState s ∧ (ceilDue now s).yoke.startAt = s.yoke.startAt ∧
    (ceilDue now s).yoke.drainAt = s.yoke.drainAt := by
  unfold ceilDue
  split
  · split
    · exact ⟨rfl, rfl, rfl⟩
    · exact ⟨rfl, rfl, rfl⟩
  · exact ⟨rfl, rfl, rfl⟩

theorem schedSlotTime_start {x : Nat} (hx : x ≤ devTime s) (hstart : s.yoke.startAt = some x) (hdrain : s.yoke.drainAt = none)
    (hst : yokState s = 2 ∨ yokState s = 6) : yokState (schedSlotTime s) = 3 ∧ (schedSlotTime s).yoke.startAt = none := by
  have hdue : startDue s = beginRamp { s with yoke := { s.yoke with startAt := none } } := by
    unfold startDue
    rw [hstart]
    simp [hx, hst]
  have hnone : (beginRamp { s with yoke := { s.yoke with startAt := none } }).yoke.drainAt = none := by
    rw [beginRamp_yoke]
    exact hdrain
  obtain ⟨h1, h2, -⟩ := ceilDue_rest (s := beginRamp { s with yoke := { s.yoke with startAt := none } }) (now := devTime s)
  rw [schedSlotTime_eq, hdue, drainDue_none hnone, h1, h2, yokState_beginRamp, beginRamp_yoke]
  exact ⟨rfl, rfl⟩

theorem schedSlotTime_drain {x : Nat} (hx : x ≤ devTime s) (hdrain : s.yoke.drainAt = some x) (hstart : s.yoke.startAt = none)
    (hst : yokState s = 3 ∨ yokState s = 4) : yokState (schedSlotTime s) = 5 ∧ (schedSlotTime s).yoke.drainAt = none := by
  have hdue : drainDue (devTime s) s = setYok 5 { s with yoke := { s.yoke with drainAt := none } } := by
    have hst' : yokState { s with yoke := { s.yoke with drainAt := none } } = 3 ∨
      yokState { s with yoke := { s.yoke with drainAt := none } } = 4 := hst
    rw [← drainRequest_running hst']
    unfold drainDue
    rw [hdrain]
    simp [hx, hst]
  obtain ⟨h1, -, h3⟩ := ceilDue_rest (s := setYok 5 { s with yoke := { s.yoke with drainAt := none } }) (now := devTime s)
  rw [schedSlotTime_eq, startDue_none hstart, hdue, h1, h3, yokState_setYok (by decide), setYok_yoke]
  exact ⟨rfl, rfl⟩

theorem schedSlotTime_ceil {x v : Nat} (hx : x ≤ devTime s) (hceil : s.yoke.ceilAt = some (x, v)) (hstart : s.yoke.startAt = none)
    (hdrain : s.yoke.drainAt = none) :
    schedSlotTime s = { s with yoke := { s.yoke with ceilAt := none, ceils := s.yoke.ceils ++ [(2, v)] } } := by
  rw [schedSlotTime_eq, startDue_none hstart, drainDue_none hdrain, ceilDue, hceil]
  exact if_pos hx

theorem schedTimeout_due (hhold : inHold s = true) (hsched : s.yoke.holdSched = true) (hstart : s.yoke.startAt = none)
    (hwait : regF s 0x2824 0 8 ≠ 0) (hdue : s.yoke.holdT0 + 1000000000 * regF s 0x2824 0 8 ≤ s.clk.now) :
    schedTimeout s = raise 0x0C09 0 (hashHoldoff s) 0 0
      (setReg 0x28A4 (hashHoldoff s) { s with yoke := { s.yoke with holdSched := false, holdT0 := s.clk.now } }) :=
  if_pos (by simp [hhold, hsched, hstart, hwait, hdue])

/-! ### Descriptors -/

theorem yokeSet_runs {f : List Byte → State → State} (h : runnable s q pos 0x31 (yokeOp op) = some b) :
    yokeSet op q pos f s = if 2 < byteAt b 16 then complete q pos 0x41 0 0 0 (startDesc q pos s) else f b (startDesc q pos s) :=
  descRun_runs h

theorem startDesc_state : yokState (startDesc q pos s) = yokState s := rfl

theorem complete_state {st r0 r1 r2 : Nat} : yokState (complete q pos st r0 r1 r2 s) = yokState s :=
  yokState_congr (complete_keeps.getReg_eq rfl)

theorem bump_latched {i n k : Nat} (h : s.alert.latched.testBit k = true) : (bump i n s).alert.latched.testBit k = true := by
  have hquiet : (countQuiet i n s).alert.latched.testBit k = true := h
  unfold bump
  dsimp only
  split
  · exact pushEvent_latched hquiet
  · exact hquiet

theorem flushDescs_alert : ∀ (ds : List Desc) (s : State), (flushDescs q ds s).2.alert = s.alert
  | [], s => rfl
  | d :: ds, s => by
    have hwrite : ∀ r body v, (writeEntry r body v).alert = v.alert := fun r body v => writeEntry_keeps.at .alert rfl
    have htrigger : ∀ r v, (triggerRing r v).alert = v.alert := fun r v => rfl
    unfold flushDescs
    split
    · dsimp only
      split
      · rw [flushDescs_alert ds]
        split
        · rw [htrigger, hwrite]
        · rw [hwrite]
      · rfl
    · rfl

theorem complete_latched {st r0 r1 r2 k : Nat} (h : s.alert.latched.testBit k = true) :
    (complete q pos st r0 r1 r2 s).alert.latched.testBit k = true := by
  have hflush : ∀ v, (flushSq q v).alert = v.alert := fun v => flushDescs_alert (q := q) (getSq v q).descs v
  unfold complete
  dsimp only
  split
  · rw [hflush]
    exact bump_latched h
  · exact h

theorem setYok6_latches (h : yokState s ≠ 6) : (setYok 6 s).alert.latched.testBit 2 = true := by
  have hlatch : (latchAlert 2 s).alert.latched.testBit 2 = true := by rw [latchAlert_latches, if_pos rfl]
  unfold setYok
  dsimp only
  rw [if_neg (Ne.symm h)]
  refine pushEvent_latched ?_
  exact hlatch

/-- A YOKE_SET that waits for the next epoch, with the host's ceiling if it has one. -/
def setNoted (q pos : Nat) (b : List Byte) (s : State) : State :=
  if (q, pos) ∈ s.yoke.sets then s
  else
    { s with yoke := { s.yoke with
        sets := s.yoke.sets ++ [(q, pos)]
        ceils := s.yoke.ceils ++ (if (byteAt b 18).testBit 0 then [(0, leAt b 20 2 % 2048)] else []) } }

theorem drain_completes (h : runnable s q pos 0x31 (yokeOp 1) = some b) (hop : byteAt b 16 = 1) : ∃ t,
    yokeSet 1 q pos (fun _ s => complete q pos 0 0 0 0 (drainRequest s)) s = t ∧ Completed q pos 0 0 0 0 t ∧
    yokState t = yokState (drainRequest (startDesc q pos s)) ∧ t.yoke = (drainRequest (startDesc q pos s)).yoke ∧
    (∀ k, (drainRequest (startDesc q pos s)).alert.latched.testBit k = true → t.alert.latched.testBit k = true) := by
  have hrun : yokeSet 1 q pos (fun _ s => complete q pos 0 0 0 0 (drainRequest s)) s =
      complete q pos 0 0 0 0 (drainRequest (startDesc q pos s)) := (yokeSet_runs h).trans (if_neg (by omega))
  exact ⟨_, hrun, ((startDesc_executes h).posts drainRequest_posts).complete 0 0 0 0, complete_state, complete_yoke, fun _ => complete_latched⟩

theorem resume_completes (h : runnable s q pos 0x31 (yokeOp 2) = some b) (hop : byteAt b 16 = 2) : ∃ t,
    yokeSet 2 q pos (fun b s => complete q pos 0 0 0 0 (resumeRequest ((byteAt b 17).testBit 0) s)) s = t ∧ Completed q pos 0 0 0 0 t ∧
    yokState t = yokState (resumeRequest ((byteAt b 17).testBit 0) (startDesc q pos s)) ∧
    t.yoke = (resumeRequest ((byteAt b 17).testBit 0) (startDesc q pos s)).yoke := by
  have hrun : yokeSet 2 q pos (fun b s => complete q pos 0 0 0 0 (resumeRequest ((byteAt b 17).testBit 0) s)) s =
      complete q pos 0 0 0 0 (resumeRequest ((byteAt b 17).testBit 0) (startDesc q pos s)) := (yokeSet_runs h).trans (if_neg (by omega))
  exact ⟨_, hrun, ((startDesc_executes h).posts resumeRequest_posts).complete 0 0 0 0, complete_state, complete_yoke⟩

/-! ### Telemetry -/

def teleOf (s : State) : List Nat := s.hif.tele

theorem writeEntry_tele {r : Nat} {body : List Byte} : Same teleOf s (writeEntry r body s) := by
  unfold writeEntry
  extract_lets -merge -underBinder +onlyGivenNames g phase n s1 s2 hif s3 count
  have h3 : Same teleOf s s3 := rfl
  have htrigger : Same teleOf s3 (triggerRing r s3) := rfl
  exact same_ite (h3.trans htrigger) h3

theorem drainEvents_tele : ∀ (es : List Event) (s : State), Same teleOf s (drainEvents es s).2
  | [], s => .refl s
  | e :: es, s => by
    unfold drainEvents
    split
    · exact writeEntry_tele.trans (drainEvents_tele es _)
    · exact .refl s

theorem bump_tele {i n : Nat} : Same teleOf s (bump i n s) := by
  have hovf : ∀ v, Same teleOf v (appendOvf v) := fun v => same_ite (.refl v) rfl
  have hpush : ∀ e v, Same teleOf v (pushEvent e v) := fun e v => by
    have hroom : Same teleOf v (flushBacklog (appendEvent e (appendOvf v))) :=
      ((hovf v).trans (t := appendEvent e (appendOvf v)) rfl).trans ((drainEvents_tele _ _).trans (t := (drainEvents _ _).2) rfl)
    exact same_ite hroom rfl
  have hquiet : Same teleOf s (countQuiet i n s) := rfl
  unfold bump
  dsimp only
  exact same_ite (hquiet.trans (hpush _ _)) hquiet

/-- The record that a tick writes, and the ring it is written to. -/
theorem telemetryTick_due {hbm : List (BitVec 8)} (hon : regF s 0x0828 0 16 ≠ 0) (hconn : connected s = true) (hen : (getRing s 35).en = true)
    (hdue : s.hif.teleT0 + 1000 * max 10 (regF s 0x0828 0 16) ≤ s.clk.now) : telemetryTick hbm s =
      if (getRing s 35).full then bump 74 1 { s with hif := { s.hif with teleT0 := s.clk.now } }
      else { writeEntry 35 (teleRecord s hbm) { s with hif := { s.hif with teleT0 := s.clk.now } } with
        hif := { (writeEntry 35 (teleRecord s hbm) { s with hif := { s.hif with teleT0 := s.clk.now } }).hif with tele := [] } } := by
  unfold telemetryTick
  rw [if_neg (by simp [hon, hconn, hen, Nat.not_lt.mpr hdue])]
  rfl

theorem teleRecord_length {hbm : List (BitVec 8)} : (teleRecord s hbm).length = 63 := by
  have hpad : (padTo 4 hbm).length = 4 := by
    rw [padTo, List.length_append, List.length_take, List.length_replicate]
    omega
  have hhot : ∀ f : Nat → Nat, ((List.range 4).flatMap (fun d => leBytes 1 (f d))).length = 4 := fun f => rfl
  simp [teleRecord, length_leBytes, hpad, hhot]

theorem writeEntry_posts_at {r : Nat} {body : List Byte} : ∃ p, HostWrite.mem
    ((getRing s r).base + (body.length + 1) * ((getRing s r).prod % (getRing s r).size)) (body ++ [p]) ∈ (writeEntry r body s).hif.posted := by
  have hposted : (writeEntry r body s).hif.posted = s.hif.posted ++ [HostWrite.mem
      ((getRing s r).base + (body.length + 1) * ((getRing s r).prod % (getRing s r).size))
      (body ++ [if (getRing s r).prod / (getRing s r).size % 2 = 0 then 1#8 else 0#8])] := trigger_posted
  exact ⟨_, hposted ▸ List.mem_append_right _ (List.mem_singleton.mpr rfl)⟩

theorem writeEntry_prod {r : Nat} {body : List Byte} : (getRing (writeEntry r body s) r).prod = (getRing s r).prod + 1 := by
  unfold writeEntry
  extract_lets -merge -underBinder +onlyGivenNames g phase n s1 s2 hif s3 count
  have hring : getRing s3 r = { g with prod := g.prod + 1, pend := g.pend + 1, oldest := if g.pend = 0 then s1.clk.now else g.oldest } :=
    tget_tset_same _
  have htrigger : (getRing (triggerRing r s3) r).prod = (getRing s3 r).prod := by
    have h : getRing (triggerRing r s3) r = { getRing s3 r with pend := 0 } := tget_tset_same _
    rw [h]
  split
  · rw [htrigger, hring]
  · rw [hring]

theorem leAt_middle {before mid rest : List Byte} {off len : Nat} (hoff : before.length = off) (hlen : mid.length = len) :
    leAt (before ++ mid ++ rest) off len = leNat mid := by
  rw [leAt, slice, List.append_assoc, List.drop_left' hoff, List.take_left' hlen]

/-- A die's hottest plot in °C, 0xFF for a fatal die. -/
def hotByte (s : State) (d : Nat) : Nat :=
  if s.glb.dieFatal.testBit d then 0xFF else maxOf ((List.range 16).map (fun p => (getPlot s (16 * d + p)).sensor)) / 4

def teleCount (s : State) (k : Nat) : List Byte := leBytes 4 ((s.hif.tele[k]?).getD 0)

/-- The record's bytes behind the Yoke's state. -/
def teleRest (s : State) : List Byte :=
  leBytes 1 s.glb.dieOk ++ (leBytes 2 0 ++ (teleCount s 0 ++ (teleCount s 1 ++ (teleCount s 2 ++ (teleCount s 3 ++ (teleCount s 4 ++
    (teleCount s 5 ++ (teleCount s 6 ++ List.replicate 11 0))))))))

/-- The record's bytes from PKG_POWER on. -/
def teleTail (s : State) (hbm : List (BitVec 8)) : List Byte :=
  (List.range 4).flatMap (fun d => leBytes 1 (hotByte s d)) ++ (padTo 4 hbm ++ (leBytes 1 (yokState s) ++ teleRest s))

theorem teleRecord_eq {hbm : List (BitVec 8)} : teleRecord s hbm = leBytes 8 (devTime s) ++
    (leBytes 2 (s.yoke.level / 250) ++ (leBytes 2 (getReg s 0x288C) ++ teleTail s hbm)) := by
  unfold teleRecord
  simp only [List.append_assoc]
  rfl

theorem teleRecord_reads {hbm : List (BitVec 8)} : leAt (teleRecord s hbm) 0 8 = devTime s ∧
    leAt (teleRecord s hbm) 8 2 = s.yoke.level / 250 % 2 ^ 16 ∧ leAt (teleRecord s hbm) 10 2 = getReg s 0x288C % 2 ^ 16 ∧
    leAt (teleRecord s hbm) 20 1 = yokState s := by
  have hst : yokState s < 2 ^ 3 := bitsOf_lt
  have hdev : devTime s < 2 ^ 64 := s.clk.devTime.isLt
  have hpad : (padTo 4 hbm).length = 4 := by
    rw [padTo, List.length_append, List.length_take, List.length_replicate]
    omega
  have h := teleRecord_eq (s := s) (hbm := hbm)
  have hhots : ((List.range 4).flatMap (fun d => leBytes 1 (hotByte s d))).length = 4 := rfl
  have hat : ∀ before mid tail off len, teleRecord s hbm = before ++ mid ++ tail → before.length = off → mid.length = len →
      leAt (teleRecord s hbm) off len = leNat mid := fun _ _ _ _ _ he hoff hlen => he ▸ leAt_middle hoff hlen
  refine ⟨?_, ?_, ?_, ?_⟩
  · rw [hat [] (leBytes 8 (devTime s)) _ 0 8 h rfl length_leBytes, leNat_leBytes, Nat.mod_eq_of_lt hdev]
  · rw [hat (leBytes 8 (devTime s)) (leBytes 2 (s.yoke.level / 250))
      (leBytes 2 (getReg s 0x288C) ++ teleTail s hbm) 8 2 (by rw [h, List.append_assoc]) length_leBytes length_leBytes,
      leNat_leBytes]
  · rw [hat (leBytes 8 (devTime s) ++ leBytes 2 (s.yoke.level / 250)) (leBytes 2 (getReg s 0x288C)) (teleTail s hbm) 10 2
      (by rw [h]; simp only [List.append_assoc]) (by simp [length_leBytes]) length_leBytes, leNat_leBytes]
  · rw [hat (leBytes 8 (devTime s) ++ leBytes 2 (s.yoke.level / 250) ++ leBytes 2 (getReg s 0x288C) ++
      (List.range 4).flatMap (fun d => leBytes 1 (hotByte s d)) ++ padTo 4 hbm) (leBytes 1 (yokState s)) (teleRest s) 20 1
      (by rw [h, teleTail]; simp only [List.append_assoc]) (by simp [length_leBytes, hpad, hhots]) length_leBytes,
      leNat_leBytes]
    omega

/-- Settles O52: the timers, the schedule, the descriptors and the record. -/
theorem yokeStates : Obligations.YokeStates := by
  unfold Obligations.YokeStates
  refine ⟨fun s hst hsched => ⟨fun hdue => ?_, fun hearly => ?_⟩, fun s x hx => ⟨fun hstart hdrain hst => ?_, fun hdrain hstart hst => ?_,
    fun v hceil hstart hdrain => ?_⟩, fun s hst hsched hstart hwait hdue => ?_, fun s q pos b h hop hnew => ?_, fun s q pos b h hop => ?_,
    fun s q pos b h hop => ?_, fun s q pos b h hop => ?_, fun s hbm hon hconn hen hdue => ⟨fun hfull => ?_, fun hfull => ?_⟩⟩
  case refine_1 =>
    refine ⟨_, congrArg Host.Outcome.next (holdoffExpiry_due (inHold_of hst) hsched hdue), yokState_beginRamp, ?_, ?_, beginRamp_phase⟩
    · rw [beginRamp_yoke]
    · rw [beginRamp_yoke]
  case refine_2 => exact congrArg Host.Outcome.next (holdoffExpiry_early hearly)
  case refine_3 => exact ⟨_, rfl, schedSlotTime_start hx hstart hdrain hst⟩
  case refine_4 => exact ⟨_, rfl, schedSlotTime_drain hx hdrain hstart hst⟩
  case refine_5 => exact ⟨_, congrArg Host.Outcome.next (schedSlotTime_ceil hx hceil hstart hdrain), rfl, rfl, rfl⟩
  case refine_6 =>
    have hraise : ∀ v, (raise 0x0C09 0 (hashHoldoff s) 0 0 v).yoke = v.yoke := fun v => raise_keeps.at .yoke rfl
    refine ⟨_, congrArg Host.Outcome.next (schedTimeout_due (inHold_of hst) hsched hstart hwait hdue), by rw [hraise]; rfl, by rw [hraise]; rfl,
      ?_, ?_⟩
    · rw [yokState_congr (raise_keeps.getReg_eq rfl)]
      exact yokState_congr (getReg_setReg_other (by decide))
    · rw [raise_getReg, getReg_setReg_same]
  case refine_7 =>
    have hrun := (yokeSet_runs (f := setNoted q pos) h).trans ((if_neg (by omega)).trans (if_neg (by rw [startDesc_yoke]; exact hnew)))
    exact ⟨_, congrArg Host.Outcome.next hrun, (startDesc_executes h).posts ⟨rfl, fun _ hw => hw⟩, rfl, rfl, rfl⟩
  case refine_8 =>
    refine ⟨_, congrArg Host.Outcome.next ((yokeSet_runs h).trans (if_pos hop)), (startDesc_executes h).complete _ _ _ _, ?_⟩
    rw [complete_yoke, startDesc_yoke]
  case refine_9 =>
    obtain ⟨t, ht, hdone, hstate, hyoke, hlatch⟩ := drain_completes h hop
    refine ⟨t, congrArg Host.Outcome.next ht, hdone, fun hst => ?_, fun hst => ⟨?_, hlatch 2 ?_⟩, fun hst => ⟨?_, ?_⟩, fun hst => ?_⟩
    · rw [hstate, drainRequest_running (s := startDesc q pos s) hst, yokState_setYok (by decide)]
    · rw [hstate, drainRequest_waiting (s := startDesc q pos s) hst, yokState_setYok (by decide)]
    · rw [drainRequest_waiting (s := startDesc q pos s) hst]
      exact setYok6_latches (by rw [show ∀ v, yokState { startDesc q pos s with yoke := v } = yokState s from fun _ => rfl]; omega)
    · rw [hyoke, drainRequest_down (s := startDesc q pos s) hst]
    · rw [hstate, drainRequest_down (s := startDesc q pos s) hst]
      rfl
    · rw [hstate, drainRequest_drained (s := startDesc q pos s) hst, startDesc_state]
  case refine_10 =>
    obtain ⟨t, ht, hdone, hstate, hyoke⟩ := resume_completes h hop
    refine ⟨t, congrArg Host.Outcome.next ht, hdone, fun h5 => ?_, fun h6 hhold hstart hrun hnow => ?_, fun h6 hhold hstart hrun hnow => ?_⟩
    · rw [hstate, resumeRequest_draining (s := startDesc q pos s) h5, yokState_beginRamp]
    · rw [hstate, hnow, resumeRequest_now (s := startDesc q pos s) h6 hhold hstart hrun, yokState_beginRamp]
    · rw [hstate, hyoke, hnow, resumeRequest_holds (s := startDesc q pos s) h6 hhold hstart hrun, yokState_beginHold, beginHold_yoke]
      exact ⟨h6, rfl, rfl⟩
  case refine_11 =>
    have htick := (telemetryTick_due (hbm := hbm) hon hconn hen hdue).trans (if_pos hfull)
    have hcount : Counted 74 1 { s with hif := { s.hif with teleT0 := s.clk.now } }
      (bump 74 1 { s with hif := { s.hif with teleT0 := s.clk.now } }) := bump_counted (by decide)
    have htele : Same teleOf { s with hif := { s.hif with teleT0 := s.clk.now } }
      (bump 74 1 { s with hif := { s.hif with teleT0 := s.clk.now } }) := bump_tele
    exact ⟨_, congrArg Host.Outcome.next htick, hcount, htele⟩
  case refine_12 =>
    have htick := (telemetryTick_due (hbm := hbm) hon hconn hen hdue).trans (if_neg (by simp [hfull]))
    obtain ⟨p, hposted⟩ := writeEntry_posts_at (s := { s with hif := { s.hif with teleT0 := s.clk.now } }) (r := 35) (body := teleRecord s hbm)
    have hprod := writeEntry_prod (s := { s with hif := { s.hif with teleT0 := s.clk.now } }) (r := 35) (body := teleRecord s hbm)
    rw [teleRecord_length] at hposted
    generalize writeEntry 35 (teleRecord s hbm) { s with hif := { s.hif with teleT0 := s.clk.now } } = w at htick hposted hprod
    exact ⟨{ w with hif := { w.hif with tele := [] } }, teleRecord s hbm, p, congrArg Host.Outcome.next htick, rfl, hprod,
      teleRecord_length, hposted, teleRecord_reads⟩

end Sys2Proof.Machine

end

section

/-!
PROOF. O17: the life of a trunk port, from its enable through its cycles to its wind-down.
-/

namespace Sys2Proof.Machine

variable {s t u : State} {n m k i : Nat}

/-! ### TRK_CTL -/

theorem getReg_setRegIn_same {hi off v : Nat} (h : off < hi) : getReg (setRegIn hi off v s) off = v % 2 ^ 32 := by
  rw [setRegIn, if_pos h, getReg_setReg_same]

theorem trkReg_lt (hn : n < 8) (hk : k < 0x200) : trkReg n k < 0x2000 := by
  unfold trkReg
  omega

theorem getReg_setTrk (hn : n < 8) {v : Nat} : getReg (setRegIn 0x2000 (trkReg n 0) v s) (trkReg n 0) = v % 2 ^ 32 :=
  getReg_setRegIn_same (trkReg_lt hn (by decide))

theorem trkEn_congr (h : getReg t (trkReg n 0) = getReg s (trkReg n 0)) : trkEn t n = trkEn s n := congrArg (Nat.testBit · 0) h

theorem trkEn_enabled (hn : n < 8) : trkEn (orRegIn 0x2000 (trkReg n 0) 1 s) n = true := by
  rw [trkEn, orRegIn, getReg_setTrk hn, Nat.testBit_mod_two_pow, Nat.testBit_or]
  simp

theorem trkEn_disabled (hn : n < 8) : trkEn (setRegIn 0x2000 (trkReg n 0) (setBitTo (getReg s (trkReg n 0)) 0 false) s) n = false := by
  rw [trkEn, getReg_setTrk hn, Nat.testBit_mod_two_pow, testBit_setBitTo]
  simp

theorem getPort_setRegIn {hi off v : Nat} : getPort (setRegIn hi off v s) m = getPort s m := by
  unfold setRegIn
  split
  · rfl
  · rfl

/-! ### Enable and wind-down (R45, R68) -/

theorem portEnable_winding (hen : trkEn s n = false) (hw : (getPort s n).winding = true) :
    portEnable n s = updPort n (fun p => { p with reEn := true }) s := by
  rw [portEnable, if_neg (by simp [hen]), if_pos hw]

/-- A port that an enable has reset. -/
def openedPort (p : Port) : Port :=
  { p with
    running := false, cyc := 0, sched := [], next := [], ctlSeq := 0, ctls := [], acks := [], beacon := none, bpSlot := 0,
    iso := false, isoWant := false, jamRun := 0, jammed := false, rx := none, rxNext := none, repairs := [], windows := [],
    signon := none }

theorem portEnable_opens (hn : n < 8) (hen : trkEn s n = false) (hw : (getPort s n).winding = false) :
    trkEn (portEnable n s) n = true ∧ getPort (portEnable n s) n = openedPort (getPort s n) ∧
      ∀ m, m ≠ n → getPort (portEnable n s) m = getPort s m := by
  have heq : portEnable n s = orRegIn 0x2000 (trkReg n 0) 1 (updPort n openedPort s) := by
    rw [portEnable, if_neg (by simp [hen]), if_neg (by simp [hw])]
    rfl
  rw [heq]
  refine ⟨trkEn_enabled hn, ?_, fun m hm => ?_⟩
  · rw [orRegIn, getPort_setRegIn, getPort_updPort_same]
  · rw [orRegIn, getPort_setRegIn, getPort_updPort_other hm]

/-- A reply to a port has begun and not ended. -/
def replyOpen (s : State) (n : Nat) : Bool :=
  s.msgs.any fun m => begun m && (match m.reply with | some r => decide (r.dest = n) | none => false)

/-- The port's broadcast goes silent. -/
def broadcastSilenced (n : Nat) (s : State) : State :=
  updPort n (fun p => { p with winding := false, running := false, iso := false, isoWant := false, reEn := false, sched := [], next := [], windows := [], line := [] }) s

theorem windDownDone_eq (hw : (getPort s n).winding = true) (hopen : replyOpen s n = false) :
    windDownDone n s = if (getPort s n).reEn then portEnable n (broadcastSilenced n s) else broadcastSilenced n s := by
  change (if !(getPort s n).winding || replyOpen s n then s else _) = _
  rw [if_neg (by simp [hw, hopen])]
  rfl

/-! ### Disable (R68) -/

/-- The reception of a disabled port ends: its frames are damaged and its open repairs counted. -/
def receptionEnded (n : Nat) (s : State) : State :=
  damageIngress n (768 + 20 * n + 19)
    (updPort n (fun p => { p with rx := none, rxNext := none, repairs := [], windows := [], signon := none, winding := p.running })
      (each (getPort s n).repairs (fun _ => trkCount n 14)
        (setRegIn 0x2000 (trkReg n 0) (setBitTo (getReg s (trkReg n 0)) 0 false) s)))

/-- Every station of a disabled port loses its admission. -/
def stationsLost (n : Nat) (s : State) : State := each (List.range 32) (fun i s => loseStation n i 5 s) s

/-- The descriptors that wait for a disabled port complete with BAD_STATE, and what it queued is dropped. -/
def queuesDropped (n : Nat) (waits : List (Nat × Nat)) (s : State) : State :=
  updPort n (fun p => { p with ctls := [], acks := [], beacon := none, echoes := [], isoWait := [], relWait := [] })
    (each waits (fun d s => complete d.1 d.2 0x42 0 0 0 s) s)

/-- The replies to a disabled port fail: the streams of `held` owe it no echo, and the messages of `open_` have begun to reply to it. -/
def repliesFailed (n : Nat) (held open_ : List Nat) (s : State) : State :=
  failUnbegun n (dropEgress n (each open_ (attach · stInternal) (each held (fun k => updStream k (fun v => { v with echo := none })) s)))

theorem portDisable_eq (h : trkEn s n = true) : ∃ held open_, portDisable n s = repliesFailed n held open_
    (queuesDropped n ((getPort s n).isoWait ++ (getPort s n).relWait) (stationsLost n (receptionEnded n s))) := by
  rw [portDisable, if_neg (by simp [h])]
  exact ⟨_, _, rfl⟩

theorem damageIngress_port {c : Nat} : getPort (damageIngress n c s) m = getPort s m := getPort_congr (damageIngress_keeps.at .ports rfl)

theorem countRepairs_keeps {α : Type} {l : List α} : Keeps [.cnt, .hif, .alert] s (each l (fun _ => trkCount n k) s) :=
  keeps_each (Keeps.refl s) fun _ _ hu => hu.after trkCount_keeps rfl

theorem completeAll_keeps {l : List (Nat × Nat)} {st : Nat} : Keeps [.cnt, .hif, .alert] s (each l (fun d s => complete d.1 d.2 st 0 0 0 s) s) :=
  keeps_each (Keeps.refl s) fun _ _ hu => hu.after complete_keeps rfl

theorem receptionEnded_port : getPort (receptionEnded n s) n =
    { getPort s n with rx := none, rxNext := none, repairs := [], windows := [], signon := none, winding := (getPort s n).running } := by
  rw [receptionEnded, damageIngress_port, getPort_updPort_same, getPort_congr (countRepairs_keeps.at .ports rfl), getPort_setRegIn]

theorem receptionEnded_other (h : m ≠ n) : getPort (receptionEnded n s) m = getPort s m := by
  rw [receptionEnded, damageIngress_port, getPort_updPort_other h, getPort_congr (countRepairs_keeps.at .ports rfl), getPort_setRegIn]

theorem updPort_keeps_regs {f : Port → Port} {off : Nat} : getReg (updPort n f s) off = getReg s off := rfl

theorem receptionEnded_en (hn : n < 8) : trkEn (receptionEnded n s) n = false := by
  rw [receptionEnded, trkEn_congr (damageIngress_keeps.getReg_eq rfl), trkEn_congr updPort_keeps_regs, trkEn_congr (countRepairs_keeps.getReg_eq rfl)]
  exact trkEn_disabled hn

theorem loseStation_other (h : m ≠ n) {c : Nat} : getPort (loseStation n i c s) m = getPort s m := by
  unfold loseStation
  dsimp only
  split
  · rw [getPort_congr (raise_keeps.at .ports rfl), setStation, getPort_updPort_other h]
  · rfl

/-- Only the station table of the port changes. -/
theorem loseStation_port {c : Nat} : ∃ l, getPort (loseStation n i c s) n = { getPort s n with stations := l } := by
  unfold loseStation
  dsimp only
  split
  · rw [getPort_congr (raise_keeps.at .ports rfl), setStation, getPort_updPort_same]
    exact ⟨_, rfl⟩
  · exact ⟨_, rfl⟩

theorem loseStation_lost {c : Nat} : (station (loseStation n i c s) n i).st ≠ 2 := by
  unfold loseStation
  dsimp only
  split
  · rw [station_congr (raise_keeps.at .ports rfl), station_setStation_same]
    simp
  · assumption

theorem loseStation_station_other {c j : Nat} (h : j ≠ i) : station (loseStation n i c s) m j = station s m j := by
  unfold loseStation
  dsimp only
  split
  · rw [station_congr (raise_keeps.at .ports rfl), station_setStation_other h]
  · rfl

theorem stationsLost_keeps : Keeps [.cnt, .hif, .ports, .alert] s (stationsLost n s) :=
  keeps_each (Keeps.refl s) fun _ _ hu => hu.after loseStation_keeps rfl

theorem stationsLost_other (h : m ≠ n) : getPort (stationsLost n s) m = getPort s m :=
  each_preserves (P := fun v => getPort v m = getPort s m) rfl fun _ _ hv => (loseStation_other h).trans hv

theorem stationsLost_port : ∃ l, getPort (stationsLost n s) n = { getPort s n with stations := l } := by
  refine each_preserves (P := fun v => ∃ l, getPort v n = { getPort s n with stations := l }) ⟨_, rfl⟩ fun i v hv => ?_
  obtain ⟨l, hl⟩ := hv
  obtain ⟨l', hl'⟩ := loseStation_port (s := v) (n := n) (i := i) (c := 5)
  exact ⟨l', by rw [hl', hl]⟩

theorem stationsLost_lost (hi : i < 32) : (station (stationsLost n s) n i).st ≠ 2 := by
  refine each_establishes (P := fun i v => (station v n i).st ≠ 2) (fun _ _ => loseStation_lost) (fun a b v hb => ?_) i (List.mem_range.mpr hi)
  by_cases hab : b = a
  · subst hab
    exact loseStation_lost
  · rwa [loseStation_station_other hab]

theorem queuesDropped_port {l : List (Nat × Nat)} : getPort (queuesDropped n l s) n =
    { getPort s n with ctls := [], acks := [], beacon := none, echoes := [], isoWait := [], relWait := [] } := by
  rw [queuesDropped, getPort_updPort_same, getPort_congr (completeAll_keeps.at .ports rfl)]

theorem queuesDropped_station {l : List (Nat × Nat)} : station (queuesDropped n l s) n i = station s n i := by
  have hst : (getPort (queuesDropped n l s) n).stations = (getPort s n).stations := by rw [queuesDropped_port]
  rw [station, station, hst]

theorem queuesDropped_other {l : List (Nat × Nat)} (h : m ≠ n) : getPort (queuesDropped n l s) m = getPort s m := by
  rw [queuesDropped, getPort_updPort_other h, getPort_congr (completeAll_keeps.at .ports rfl)]

theorem queuesDropped_en {l : List (Nat × Nat)} : trkEn (queuesDropped n l s) n = trkEn s n :=
  trkEn_congr (completeAll_keeps.getReg_eq rfl : getReg (each l (fun d s => complete d.1 d.2 0x42 0 0 0 s) s) (trkReg n 0) = _)

theorem repliesFailed_keeps {held open_ : List Nat} : Keeps [.cnt, .hif, .streams, .msgs, .egress, .slots, .sheaves, .groups, .plots, .waits, .yoke, .alert, .nextBuild, .nextSid] s
    (repliesFailed n held open_ s) :=
  (((keeps_each (Keeps.refl s) fun _ _ hu => hu.after updStream_keeps rfl).after
    (keeps_each (Keeps.refl _) fun _ _ hu => hu.after attach_keeps rfl : Keeps [.msgs] _ _) rfl).after dropEgress_keeps rfl).after failUnbegun_keeps rfl

/-- What a disabled port reads. -/
structure PortClosed (n : Nat) (p : Port) (t : State) : Prop where
  en : trkEn t n = false
  port : ∃ l, getPort t n = { p with
    rx := none, rxNext := none, repairs := [], windows := [], signon := none, winding := p.running, stations := l,
    ctls := [], acks := [], beacon := none, echoes := [], isoWait := [], relWait := [] }
  lost : ∀ i, i < 32 → (station t n i).st ≠ 2

theorem portDisable_closes (hn : n < 8) (hen : trkEn s n = true) :
    PortClosed n (getPort s n) (bbSettle (portDisable n s)) ∧ ∀ m, m ≠ n → getPort (bbSettle (portDisable n s)) m = getPort s m := by
  obtain ⟨held, open_, heq⟩ := portDisable_eq hen
  have hports : (bbSettle (portDisable n s)).ports = (queuesDropped n ((getPort s n).isoWait ++ (getPort s n).relWait) (stationsLost n (receptionEnded n s))).ports := by
    rw [bbSettle_keeps.at .ports rfl, heq, repliesFailed_keeps.at .ports rfl]
  obtain ⟨l, hl⟩ := stationsLost_port (s := receptionEnded n s) (n := n)
  refine ⟨⟨?_, ⟨l, ?_⟩, fun i hi => ?_⟩, fun m hm => ?_⟩
  · rw [trkEn_congr (bbSettle_keeps.getReg_eq rfl), heq, trkEn_congr (repliesFailed_keeps.getReg_eq rfl), queuesDropped_en,
      trkEn_congr (stationsLost_keeps.getReg_eq rfl), receptionEnded_en hn]
  · rw [getPort_congr hports, queuesDropped_port, hl, receptionEnded_port]
  · rw [station_congr hports, queuesDropped_station]
    exact stationsLost_lost hi
  · rw [getPort_congr hports, queuesDropped_other hm, stationsLost_other hm, receptionEnded_other hm]

/-! ### The next cycle (R45 to R47, R66, R67) -/

/-- What precedes the next cycle of a port: it judges its jam and ages its field map if it runs. -/
def cycleJudged (n : Nat) (energy : Bool) (s : State) : State := if (getPort s n).running then ageFm n (judgeJam n energy s) else s

/-- The port in the cycle that begins, from its state before, the new nonce, isolation and the schedule that its BEACON publishes. -/
def cycledPort (n : Nat) (nonce : Nat) (iso : Bool) (next : List SchedEnt) (line : List Int) (p : Port) (s : State) : Port :=
  let cyc := if p.running then (p.cyc + 1) % 2 ^ 32 else 0
  { p with
    running := true, cyc := cyc, iso := iso, sched := if p.running then p.next else [], next := next, nonce := p.nextNonce,
    nextNonce := nonce, ilv := p.nextIlv, nextIlv := regF s (trkReg n 0) 1 2, line := line,
    windows := p.windows.filter (fun w => decide (w.cyc = cyc ∨ w.cyc = (cyc + 1) % 2 ^ 32)),
    beacon := some (beaconPayload s n cyc nonce iso next), bpSlot := 0, relWait := if iso then p.relWait else [] }

/-- The next cycle of a port, whose BEACON publishes the schedule of the cycle after; a release of its isolation completes. -/
def cycleBegun (n : Nat) (line : List Int) (iso : Bool) (s : State) : State :=
  let p := getPort s n
  let v := (drawFree s).2
  let next := if iso then [] else buildSchedule v n
  let w := setPort n (cycledPort n (drawFree s).1.toNat iso next line p v) v
  if iso then w else each p.relWait (fun d s => complete d.1 d.2 0 0 0 0 s) w

theorem cycleStart_eq {energy : Bool} (hen : trkEn s n = true) (hw : (getPort s n).winding = false) :
    cycleStart n energy s = cycleBegun n (cycleSync (cycSync s n))
      ((getPort (cycleJudged n energy s) n).isoWant || stopped (cycleJudged n energy s)) (cycleJudged n energy s) := by
  rw [cycleStart]
  dsimp only
  rw [if_neg (by simp [hw]), if_neg (by simp [hen])]
  rfl

theorem cycleBegun_port {line : List Int} {iso : Bool} : getPort (cycleBegun n line iso s) n =
    cycledPort n (drawFree s).1.toNat iso (if iso then [] else buildSchedule (drawFree s).2 n) line (getPort s n) (drawFree s).2 := by
  unfold cycleBegun
  dsimp only
  split
  · exact getPort_setPort_same
  · rw [getPort_congr (completeAll_keeps.at .ports rfl), getPort_setPort_same]

theorem cycleJudged_keeps {energy : Bool} : Keeps [.cnt, .hif, .ports, .fm, .alert] s (cycleJudged n energy s) :=
  keeps_ite ((judgeJam_keeps.weaken rfl).after ageFm_keeps rfl) (Keeps.refl s)

/-- The judge of a jam changes no more of the port than its run and its verdict. -/
theorem judgeJam_port {energy : Bool} : ∃ run jam, getPort (judgeJam n energy s) n = { getPort s n with jamRun := run, jammed := jam } := by
  unfold judgeJam
  dsimp only
  split
  · exact ⟨_, _, rfl⟩
  split
  · split
    · rw [getPort_congr (raise_keeps.at .ports rfl), getPort_updPort_same]
      exact ⟨_, _, rfl⟩
    · rw [getPort_updPort_same]
      exact ⟨_, _, rfl⟩
  · rw [getPort_updPort_same]
    exact ⟨_, _, rfl⟩

theorem cycleJudged_port {energy : Bool} : ∃ run jam, getPort (cycleJudged n energy s) n = { getPort s n with jamRun := run, jammed := jam } := by
  unfold cycleJudged
  split
  · rw [getPort_congr (ageFm_keeps.at .ports rfl)]
    exact judgeJam_port
  · exact ⟨_, _, rfl⟩

theorem cycleJudged_stopped {energy : Bool} : stopped (cycleJudged n energy s) = stopped s := by
  rw [stopped, stopped, quiesced, quiesced, cycleJudged_keeps.glb_eq rfl]

/-- The port in its next cycle, up to what the judge of a jam decides. -/
theorem cycleStart_port {energy : Bool} (hen : trkEn s n = true) (hw : (getPort s n).winding = false) : ∃ run jam nonce next v,
    getPort (cycleStart n energy s) n = cycledPort n nonce ((getPort s n).isoWant || stopped s) next (cycleSync (cycSync s n))
      { getPort s n with jamRun := run, jammed := jam } v ∧
    regF v (trkReg n 0) 1 2 = regF s (trkReg n 0) 1 2 ∧
    (((getPort s n).isoWant || stopped s) = true → next = []) := by
  obtain ⟨run, jam, hport⟩ := cycleJudged_port (s := s) (n := n) (energy := energy)
  rw [cycleStart_eq hen hw, cycleBegun_port, cycleJudged_stopped, hport]
  exact ⟨run, jam, _, _, _, rfl, congrArg (bitsOf · 1 2) (((cycleJudged_keeps.weaken rfl).after drawFree_keeps rfl :
    Keeps [.cnt, .hif, .ports, .fm, .alert, .freeCtr] s _).getReg_eq rfl), fun h => if_pos h⟩

theorem judgeJam_third {energy : Bool} (hrun : (getPort s n).jamRun = 2) (hroom : 16 * schedEnd (getPort s n).sched + 64 ≤ cycSymbols s n) :
    (getPort (judgeJam n energy s) n).jammed = energy ∧ (getPort (judgeJam n energy s) n).jamRun = (if energy then 3 else 0) := by
  unfold judgeJam
  dsimp only
  rw [if_neg (by omega), hrun]
  cases energy
  · simp
  · rw [if_pos rfl, if_pos rfl]
    split
    · rw [getPort_congr (raise_keeps.at .ports rfl), getPort_updPort_same]
      exact ⟨rfl, rfl⟩
    · rw [getPort_updPort_same]
      exact ⟨rfl, rfl⟩

theorem cycleStart_jam {energy : Bool} (hen : trkEn s n = true) (hw : (getPort s n).winding = false) (hrun : (getPort s n).running = true) :
    (getPort (cycleStart n energy s) n).jammed = (getPort (judgeJam n energy s) n).jammed ∧
    (getPort (cycleStart n energy s) n).jamRun = (getPort (judgeJam n energy s) n).jamRun := by
  have hjudged : getPort (cycleJudged n energy s) n = getPort (judgeJam n energy s) n := by
    rw [cycleJudged, if_pos hrun, getPort_congr (ageFm_keeps.at .ports rfl)]
  rw [cycleStart_eq hen hw, cycleBegun_port, hjudged]
  exact ⟨rfl, rfl⟩

/-- Settles O17, from what an enable, a disable, a wind-down and a cycle start leave in the port. -/
theorem trunkPortLife : Obligations.TrunkPortLife := by
  unfold Obligations.TrunkPortLife
  refine ⟨fun s n hup hen hw => ?_, fun s n hup hen hw => ?_, fun s n hup hen => ?_, fun s n hw hre hopen => ?_, fun s n hw hre hen hopen => ?_,
    fun s n energy hen hw hrun hiso hstop => ?_, fun s n energy hen hw hrun hiso hstop => ?_, fun s n energy hen hw hiso => ?_,
    fun s n energy hen hw hrun hjam _ hroom => ?_⟩
  · obtain ⟨hon, hport, hother⟩ := portEnable_opens n.isLt hen hw
    refine ⟨portEnable n s, congrArg Host.Outcome.next (if_pos hup), hon, ?_⟩
    rw [hport]
    exact ⟨rfl, rfl, rfl, rfl, rfl, hother⟩
  · refine ⟨_, congrArg Host.Outcome.next ((if_pos hup).trans (portEnable_winding hen hw)), rfl, ?_⟩
    rw [getPort_updPort_same]
    exact ⟨rfl, rfl⟩
  · obtain ⟨⟨hoff, ⟨l, hport⟩, hlost⟩, hother⟩ := portDisable_closes n.isLt hen
    refine ⟨_, congrArg Host.Outcome.next (if_pos hup), hoff, ?_⟩
    rw [hport]
    exact ⟨rfl, rfl, rfl, rfl, rfl, rfl, rfl, hlost, hother⟩
  · refine ⟨broadcastSilenced n s, congrArg Host.Outcome.next ((windDownDone_eq hw hopen).trans (if_neg (by simp [hre]))), ?_⟩
    rw [broadcastSilenced, getPort_updPort_same]
    exact ⟨rfl, rfl, rfl, rfl⟩
  · have hquiet : (getPort (broadcastSilenced n s) n).winding = false := by rw [broadcastSilenced, getPort_updPort_same]
    obtain ⟨hon, hport, -⟩ := portEnable_opens (s := broadcastSilenced n s) n.isLt hen hquiet
    refine ⟨portEnable n (broadcastSilenced n s), congrArg Host.Outcome.next ((windDownDone_eq hw hopen).trans (if_pos hre)), hon, ?_⟩
    rw [hport]
    exact ⟨hquiet, rfl⟩
  · obtain ⟨run, jam, nonce, next, v, hport, hilv, -⟩ := cycleStart_port (energy := energy) hen hw
    refine ⟨cycleStart n energy s, rfl, ?_⟩
    rw [hport]
    simp [cycledPort, hrun, hiso, hstop, hilv]
  · obtain ⟨run, jam, nonce, next, v, hport, -, -⟩ := cycleStart_port (energy := energy) hen hw
    refine ⟨cycleStart n energy s, rfl, ?_⟩
    rw [hport]
    simp [cycledPort, hrun]
  · obtain ⟨run, jam, nonce, next, v, hport, -, hnext⟩ := cycleStart_port (energy := energy) hen hw
    refine ⟨cycleStart n energy s, rfl, ?_⟩
    rw [hport, hnext (by simp [hiso])]
    simp [cycledPort, hiso]
  · obtain ⟨hjammed, hcount⟩ := cycleStart_jam (energy := energy) hen hw hrun
    obtain ⟨hj, hc⟩ := judgeJam_third (energy := energy) hjam hroom
    exact ⟨cycleStart n energy s, rfl, hjammed.trans hj, hcount.trans hc⟩

end Sys2Proof.Machine
end

section

/-!
PROOF. O18 and O19: what a sign-on decides, and the trunk control descriptors.
-/

namespace Sys2Proof.Machine

variable {s t u : State} {n m i j : Nat} {g : Signon}

/-! ### Reads of a port through the rules of sign-on -/

theorem signon_updPort {f : Port → Port} (h : ∀ p, (f p).signon = p.signon := by exact fun _ => rfl) :
    (getPort (updPort n f s) m).signon = (getPort s m).signon := by
  by_cases hm : m = n
  · subst hm
    rw [getPort_updPort_same, h]
  · rw [getPort_updPort_other hm]

theorem freeFm_port {k : Nat} : getPort (freeFm n k s) m = getPort s m := getPort_congr (freeFm_keeps.at .ports rfl)

theorem dropHeld_port {k : Nat} : getPort (dropHeld n i k s) m = getPort s m := getPort_congr (dropHeld_keeps.at .ports rfl)

theorem freeFm_station {k : Nat} : station (freeFm n k s) m j = station s m j := station_congr (freeFm_keeps.at .ports rfl)

theorem dropHeld_station {k : Nat} : station (dropHeld n i k s) m j = station s m j := station_congr (dropHeld_keeps.at .ports rfl)

theorem trkCount_station {k : Nat} : station (trkCount n k s) m j = station s m j := station_congr (bump_keeps.at .ports rfl)

theorem queueAck_station {a b c d : Nat} : station (queueAck n a b c d s) m j = station s m j := station_updPort

theorem queueCtl_station {a : Nat} {l : List Byte} : station (queueCtl n a l s) m j = station s m j := station_updPort

/-! ### Admission, refusal and loss (R58 to R60) -/

/-- A station that its sign-on admits. -/
def admittedStation (g : Signon) : Station :=
  { st := 2, preadmit := false, adv := g.adv, miss := 0, uid := leAt g.record 4 6, cap := byteAt g.record 2, held := none }

/-- The provisional field-map entry of an admission becomes the station's own. -/
def entryTaken (n i : Nat) (g : Signon) (s : State) : State :=
  if 32 ≤ g.prov ∧ g.prov < 63 then freeFm n g.prov (setFm n i (overlay (fmEntry s n g.prov) 3 (leBytes 1 1)) s) else s

theorem entryTaken_keeps : Keeps [.fm] s (entryTaken n i g s) := keeps_ite (setFm_keeps.after freeFm_keeps rfl) (Keeps.refl s)

/-- An admission, before TRK_ADMIT is raised. -/
def admission (n i : Nat) (g : Signon) (s : State) : State :=
  let u := entryTaken n i g (setStation n i (admittedStation g) (dropHeld n i g.prov s))
  trkCount n 7 (queueAck n (staAddr u n i) 1 i g.adv u)

theorem admitStation_eq : admitStation n i g s =
    if (station s n i).st = 2 then admission n i g s else raise 0x0102 n (staAddr (admission n i g s) n i) i 0 (admission n i g s) := by
  unfold admitStation
  dsimp only
  simp only [decide_eq_true_eq]
  rfl

theorem admitStation_ports : (admitStation n i g s).ports = (admission n i g s).ports := by
  rw [admitStation_eq]
  split
  · rfl
  · exact raise_keeps.at .ports rfl

theorem admission_station : station (admission n i g s) m j = station (setStation n i (admittedStation g) (dropHeld n i g.prov s)) m j := by
  unfold admission
  dsimp only
  rw [trkCount_station, queueAck_station, station_congr (entryTaken_keeps.at .ports rfl)]

theorem admitStation_same : station (admitStation n i g s) n i = admittedStation g := by
  rw [station_congr admitStation_ports, admission_station, station_setStation_same]

theorem admitStation_other (h : j ≠ i) : station (admitStation n i g s) m j = station s m j := by
  rw [station_congr admitStation_ports, admission_station, station_setStation_other h, dropHeld_station]

theorem admitStation_signon : (getPort (admitStation n i g s) m).signon = (getPort s m).signon := by
  rw [getPort_congr admitStation_ports]
  unfold admission
  dsimp only
  rw [trkCount_port, queueAck, signon_updPort, getPort_congr (entryTaken_keeps.at .ports rfl), setStation, signon_updPort, dropHeld_port]

theorem refuseStation_station {addr prov retry : Nat} : station (refuseStation n addr prov retry s) m j = station s m j := by
  rw [refuseStation, freeFm_station, queueAck_station]

/-! ### Sign-on (R55 to R60, R64, R65) -/

/-- The sign-on is taken from the port. -/
def signonTaken (n : Nat) (s : State) : State := updPort n (fun p => { p with signon := none }) s

theorem signonTaken_signon : (getPort (signonTaken n s) n).signon = none := by rw [signonTaken, getPort_updPort_same]

theorem signonTaken_station : station (signonTaken n s) m j = station s m j := station_updPort

theorem isAdmitted_signonTaken : isAdmitted (signonTaken n s) m = isAdmitted s m := by
  funext k
  rw [isAdmitted, isAdmitted, signonTaken_station]
  rfl

theorem schedFits_signonTaken : schedFits (signonTaken n s) m i = schedFits s m i := by
  rw [schedFits, schedFits, isAdmitted_signonTaken]
  rfl

theorem bitsOf_six {w : Nat} : bitsOf w 0 6 = w % 64 := by simp [bitsOf]

theorem signon_quarantined (hg : (getPort s n).signon = some g) (hq : quarantined s n (byteAt g.record 1 % 64) = true) :
    signon n s = freeFm n g.prov (trkCount n 11 (signonTaken n s)) := by
  unfold signon
  rw [hg]
  dsimp only
  rw [bitsOf_six]
  exact if_pos hq

theorem signon_entry (hg : (getPort s n).signon = some g) (hq : quarantined s n (byteAt g.record 1 % 64) = false)
    (hi : effEntry s n (byteAt g.record 1 % 64) = some i) :
    signon n s = if slice g.record 12 8 = signonTag (staKey s n i) g.nonce n g.record then listedSignon n i g (signonTaken n s)
      else strangerSignon n (byteAt g.record 1 % 64) g (signonTaken n s) := by
  have hq' : ¬quarantined (signonTaken n s) n (byteAt g.record 1 % 64) = true := by
    rw [show quarantined (signonTaken n s) n (byteAt g.record 1 % 64) = quarantined s n (byteAt g.record 1 % 64) from rfl, hq]
    simp
  have hi' : effEntry (signonTaken n s) n (byteAt g.record 1 % 64) = some i := hi
  unfold signon
  rw [hg]
  dsimp only
  rw [bitsOf_six, ← signonTaken, if_neg hq', hi']
  rfl

theorem listedSignon_admits (hfit : schedFits s n i = true) (hauto : staAuto s n i = true) : listedSignon n i g s = admitStation n i g s := by
  unfold listedSignon
  dsimp only
  rw [if_neg (by simp [hfit]), if_pos (by simp [hauto])]

theorem listedSignon_holds (hfit : schedFits s n i = true) (hauto : staAuto s n i = false) (hpre : (station s n i).preadmit = false)
    (hst : (station s n i).st ≠ 2) :
    (station (listedSignon n i g s) n i).st = 1 ∧ (station (listedSignon n i g s) n i).held = some g ∧
      (getPort (listedSignon n i g s) n).signon = (getPort s n).signon := by
  unfold listedSignon
  dsimp only
  rw [if_neg (by simp [hfit]), if_neg (by simp [hauto, hpre, hst]), station_congr (raise_keeps.at .ports rfl), queueCtl_station, station_setStation_same,
    getPort_congr (raise_keeps.at .ports rfl), queueCtl, signon_updPort, setStation, signon_updPort, dropHeld_port]
  exact ⟨rfl, rfl, rfl⟩

/-- A stranger's record is punted. -/
def strangerPunted (n addr : Nat) (g : Signon) (s : State) : State :=
  settlePunts n (addFrame
    { newFrame (freeFm n g.prov (trkCount n 10 s)).nextFid n addr (g.record.map some) true with
      verdict := some true, walk := .decided, punt := some 0x06 }
    (freeFm n g.prov (trkCount n 10 s)))

theorem strangerPunted_keeps {addr : Nat} : Keeps [.cnt, .hif, .frames, .plg, .fm, .alert, .nextFid] s (strangerPunted n addr g s) :=
  (((trkCount_keeps.weaken rfl).after freeFm_keeps rfl).after addFrame_keeps rfl).after settlePunts_keeps rfl

theorem strangerSignon_counts {addr : Nat} (hauto : regF s (trkReg n 0x48) 0 8 = 0) : strangerSignon n addr g s =
    updPort n (fun p => { p with strAddr := addr, strRun := if (getPort s n).strAddr = addr then (getPort s n).strRun + 1 else 1 })
      (strangerPunted n addr g s) := by
  have hport : getPort (strangerPunted n addr g s) n = getPort s n := getPort_congr (strangerPunted_keeps.at .ports rfl)
  have hreg : regF (strangerPunted n addr g s) (trkReg n 0x48) 0 8 = 0 := by
    rw [regF, strangerPunted_keeps.getReg_eq rfl]
    exact hauto
  rw [← hport]
  exact if_neg fun h => h.1 hreg

theorem holdExpiry_pending (h : (station s n i).st = 1) : ∃ u, u.ports = s.ports ∧
    holdExpiry n i s = setStation n i { station s n i with st := 0, held := none } u := by
  unfold holdExpiry
  dsimp only
  rw [if_neg (by simp [h])]
  split
  · exact ⟨_, freeFm_keeps.at .ports rfl, rfl⟩
  · exact ⟨s, rfl, rfl⟩

/-- Settles O18, case by case: quarantined, listed with the right TAG, or a stranger. -/
theorem signonDecides : Obligations.SignonDecides := by
  unfold Obligations.SignonDecides
  refine ⟨fun s n g i hg hq hi htag hfit hauto => ?_, fun s n g i hg hq hi htag hfit hauto hpre hst => ?_, fun s n g i hg hq hi htag hrun => ?_,
    fun s n g hg hq => ?_, fun s n i hst => ?_⟩
  · have heq : signon n s = admitStation n i g (signonTaken n s) := by
      rw [signon_entry hg hq hi, if_pos htag]
      exact listedSignon_admits (schedFits_signonTaken.trans hfit) hauto
    refine ⟨_, congrArg Host.Outcome.next heq, ?_⟩
    rw [admitStation_signon, signonTaken_signon, admitStation_same]
    exact ⟨rfl, rfl, rfl, rfl, rfl, rfl, fun j hj => (admitStation_other hj).trans signonTaken_station⟩
  · have heq : signon n s = listedSignon n i g (signonTaken n s) := by rw [signon_entry hg hq hi, if_pos htag]
    have hsta := signonTaken_station (s := s) (n := n) (m := n) (j := i)
    obtain ⟨h1, h2, h3⟩ := listedSignon_holds (g := g) (schedFits_signonTaken.trans hfit) hauto (hsta ▸ hpre) (hsta ▸ hst)
    exact ⟨_, congrArg Host.Outcome.next heq, h3.trans signonTaken_signon, h1, h2⟩
  · have heq := signon_entry hg hq hi
    rw [if_neg htag, strangerSignon_counts (s := signonTaken n s) hrun] at heq
    refine ⟨_, congrArg Host.Outcome.next heq, ?_⟩
    have hport := getPort_congr (m := n.val) ((strangerPunted_keeps (s := signonTaken n s) (n := n) (g := g) (addr := byteAt g.record 1 % 64)).at .ports rfl)
    rw [signon_updPort, station_updPort, getPort_updPort_same, station, hport, signonTaken_signon, signonTaken, getPort_updPort_same]
    exact ⟨rfl, rfl, rfl, rfl⟩
  · refine ⟨_, congrArg Host.Outcome.next (signon_quarantined hg hq), ?_⟩
    rw [freeFm_port, trkCount_port, signonTaken_signon, signonTaken, getPort_updPort_same]
    refine ⟨rfl, rfl, ?_⟩
    have hcount : Counted (768 + 20 * n + 11) 1 s (trkCount n 11 (signonTaken n s)) := trkCount_counted (s := signonTaken n s) (by decide)
    exact hcount.after (freeFm_keeps.same_count rfl)
  · obtain ⟨u, hports, heq⟩ := holdExpiry_pending hst
    refine ⟨_, congrArg Host.Outcome.next heq, ?_⟩
    rw [station_setStation_same]
    exact ⟨rfl, rfl, fun j hj => (station_setStation_other hj).trans (station_congr hports)⟩

/-! ### The descriptors of trunk control (Table TRK-20) -/

section
variable {q pos sub : Nat} {b : List Byte}

theorem trunkCtl_runs {f : Nat → List Byte → State → State} (h : runnable s q pos 0x33 (ctlSub sub) = some b) (hn : byteAt b 16 < 8)
    (hlo : 1 ≤ byteAt b 17) (hhi : byteAt b 17 ≤ 8) (haddr : byteAt b 17 ≤ 4 → byteAt b 18 < 63) :
    trunkCtl sub q pos f s = f (byteAt b 16) b (startDesc q pos s) := by
  unfold trunkCtl
  rw [descRun_runs h]
  exact if_neg (by omega)

theorem trunkCtl_noPort {f : Nat → List Byte → State → State} (h : runnable s q pos 0x33 (ctlSub sub) = some b) (hn : 8 ≤ byteAt b 16) :
    trunkCtl sub q pos f s = complete q pos 0x41 0 0 0 (startDesc q pos s) := by
  unfold trunkCtl
  rw [descRun_runs h]
  exact if_pos (by omega)

theorem complete_station {st r0 r1 r2 : Nat} : station (complete q pos st r0 r1 r2 s) m j = station s m j := station_congr complete_ports

theorem updPort_posts {f : Port → Port} : PostsMore s (updPort n f s) := ⟨rfl, fun _ h => h⟩

theorem setStation_posts {v : Station} : PostsMore s (setStation n i v s) := updPort_posts

theorem trkCount_posts {k : Nat} : PostsMore s (trkCount n k s) := bump_posts

theorem admitStation_posts : PostsMore s (admitStation n i g s) := by
  have hdrop : PostsMore s (setStation n i (admittedStation g) (dropHeld n i g.prov s)) :=
    PostsMore.trans (dropHeld_keeps.posts rfl) ⟨rfl, fun _ h => h⟩
  have hack : PostsMore s (queueAck n (staAddr (entryTaken n i g (setStation n i (admittedStation g) (dropHeld n i g.prov s))) n i) 1 i g.adv
      (entryTaken n i g (setStation n i (admittedStation g) (dropHeld n i g.prov s)))) :=
    (hdrop.trans (entryTaken_keeps.posts rfl)).trans ⟨rfl, fun _ h => h⟩
  have hadm : PostsMore s (admission n i g s) := hack.trans trkCount_posts
  rw [admitStation_eq]
  exact posts_ite hadm (hadm.trans raise_posts)

theorem loseStation_posts {c : Nat} : PostsMore s (loseStation n i c s) := by
  unfold loseStation
  exact posts_ite ((show PostsMore s (setStation n i _ s) from ⟨rfl, fun _ h => h⟩).trans raise_posts) (.refl s)

theorem onEntry_found {addr : Nat} {f : Nat → State → State} (h : effEntry s n addr = some i) : onEntry q pos n addr f s = f i s := by
  rw [onEntry, h]

theorem ctlAdmit_pending (hi : effEntry s n (byteAt b 18) = some i) (hst : (station s n i).st = 1) (hheld : (station s n i).held = some g)
    (hfit : schedFits s n i = true) : ctlAdmit q pos n b s = complete q pos 0 0 0 0 (admitStation n i g s) := by
  rw [ctlAdmit, onEntry_found hi]
  dsimp only
  rw [hst, hheld]
  exact congrArg (complete q pos 0 0 0 0) (if_pos hfit)

theorem ctlAdmit_other (hi : effEntry s n (byteAt b 18) = some i) (hst : (station s n i).st ≠ 1) :
    ctlAdmit q pos n b s = complete q pos 0 0 0 0 (setStation n i { station s n i with preadmit := true } s) := by
  rw [ctlAdmit, onEntry_found hi]
  dsimp only
  split
  · next h _ => exact absurd h hst
  · rfl

theorem ctlRefuse_pending (hi : effEntry s n (byteAt b 18) = some i) (hst : (station s n i).st = 1) : ∃ prov, ctlRefuse q pos n b s =
    complete q pos 0 0 0 0 (refuseStation n (byteAt b 18) prov (leAt b 20 2) (setStation n i { station s n i with st := 0, held := none } s)) := by
  rw [ctlRefuse, onEntry_found hi]
  dsimp only
  rw [if_neg (by simp [hst])]
  exact ⟨_, rfl⟩

theorem ctlExpel_admitted (hi : effEntry s n (byteAt b 18) = some i) (hst : (station s n i).st = 2) :
    ctlExpel q pos n b s = complete q pos 0 0 0 0 (loseStation n i 2 s) := by
  rw [ctlExpel, onEntry_found hi]
  exact if_neg (by simp [hst])

theorem loseStation_st {c : Nat} (h : (station s n i).st = 2) : (station (loseStation n i c s) n i).st = 0 := by
  unfold loseStation
  dsimp only
  rw [if_pos h, station_congr (raise_keeps.at .ports rfl), station_setStation_same]

/-- The bit of an address is set in its quarantine word. -/
def quarantineSet (n addr : Nat) (s : State) : State :=
  if addr < 32 then orRegIn 0x2000 (trkReg n 0x4C) (2 ^ addr) s else orRegIn 0x2000 (trkReg n 0x50) (2 ^ (addr - 32)) s

theorem getReg_orTrk {k v : Nat} (hn : n < 8) (hk : k < 0x200) : getReg (orRegIn 0x2000 (trkReg n k) v s) (trkReg n k) = (getReg s (trkReg n k) ||| v) % 2 ^ 32 :=
  getReg_setRegIn_same (trkReg_lt hn hk)

theorem testBit_or_two_pow {w k : Nat} (hk : k < 32) : ((w ||| 2 ^ k) % 2 ^ 32).testBit k = true := by
  rw [Nat.testBit_mod_two_pow, Nat.testBit_or, Nat.testBit_two_pow_self]
  simp [hk]

theorem quarantineSet_reads {addr : Nat} (hn : n < 8) (ha : addr < 63) : quarantined (quarantineSet n addr s) n addr = true := by
  unfold quarantined quarantineSet
  split
  · rw [getReg_orTrk hn (by decide)]
    exact testBit_or_two_pow (by omega)
  · rw [getReg_orTrk hn (by decide)]
    exact testBit_or_two_pow (by omega)

theorem quarantined_congr {addr : Nat} (h : ∀ off, getReg t off = getReg s off) : quarantined t n addr = quarantined s n addr := by
  rw [quarantined, quarantined, h, h]

theorem setQuarantine_eq {addr : Nat} : setQuarantine n addr false s =
    match effEntry s n addr with | some i => loseStation n i 3 (quarantineSet n addr s) | none => quarantineSet n addr s := by
  have heff : effEntry (quarantineSet n addr s) n addr = effEntry s n addr := by
    unfold quarantineSet orRegIn setRegIn
    split
    · split
      · rfl
      · rfl
    · split
      · rfl
      · rfl
  rw [← heff]
  rfl

theorem quarantineSet_posts {addr : Nat} : PostsMore s (quarantineSet n addr s) := posts_ite setRegIn_posts setRegIn_posts

/-- What QUARANTINE leaves: the address's bit set, and its station without admission. -/
theorem setQuarantine_sets {addr : Nat} (hn : n < 8) (ha : addr < 63) : PostsMore s (setQuarantine n addr false s) ∧
    quarantined (setQuarantine n addr false s) n addr = true ∧
    ∀ i, effEntry s n addr = some i → (station (setQuarantine n addr false s) n i).st ≠ 2 := by
  rw [setQuarantine_eq]
  split
  · next i hi =>
    refine ⟨quarantineSet_posts.trans loseStation_posts, ?_, fun j hj => ?_⟩
    · rw [quarantined_congr fun _ => loseStation_keeps.getReg_eq rfl, quarantineSet_reads hn ha]
    · obtain rfl : i = j := Option.some.inj (hi.symm.trans hj)
      exact loseStation_lost
  · next hi => exact ⟨quarantineSet_posts, quarantineSet_reads hn ha, fun j hj => by simp [hi] at hj⟩

theorem isolateComplete_done {d : Nat × Nat} (hiso : (getPort s n).iso = true) (hs : (getPort s n).sched = [])
    (hm : s.msgs.any (fun m => m.ingress = n) = false) (hw : (getPort s n).isoWait = [d]) :
    isolateComplete n s = complete d.1 d.2 0 0 0 0 (updPort n (fun p => { p with isoWait := [] }) s) := by
  unfold isolateComplete
  dsimp only
  rw [if_neg (by simp [hiso, hs, hm]), hw]
  rfl

/-- A setting's bits [2:1] replaced. -/
theorem bitsOf_replaced {w x : Nat} : bitsOf ((w - 2 * bitsOf w 1 2 + 2 * bitsOf x 0 2) % 2 ^ 32) 1 2 = x % 4 := by
  simp only [bitsOf, Nat.shiftRight_eq_div_pow]
  omega

theorem regs_of_complete {st r0 r1 r2 : Nat} : (complete q pos st r0 r1 r2 (startDesc q pos s)).regs = s.regs :=
  (complete_host (s := startDesc q pos s)).regs_eq.trans startDesc_host.regs_eq

end

theorem startDesc_port {q pos : Nat} : getPort (startDesc q pos s) m = getPort s m := rfl

theorem startDesc_station {q pos : Nat} : station (startDesc q pos s) m j = station s m j := rfl

theorem startDesc_effEntry {q pos a : Nat} : effEntry (startDesc q pos s) n a = effEntry s n a := rfl

theorem startDesc_schedFits {q pos : Nat} : schedFits (startDesc q pos s) n i = schedFits s n i := rfl

theorem startDesc_trkEn {q pos : Nat} : trkEn (startDesc q pos s) n = trkEn s n := rfl

/-- Settles O19: each sub-operation's effect on the station or the port, and its completion. -/
theorem trunkControl : Obligations.TrunkControl := by
  unfold Obligations.TrunkControl
  refine ⟨fun s q pos i b g h hn hsub ha hi hst hheld hfit => ?_, fun s q pos i b h hn hsub ha hi hst => ?_, fun s q pos b h hn => ?_,
    fun s q pos i b h hn hsub ha hi hst => ?_, fun s q pos i b h hn hsub ha hi hst => ?_, fun s q pos b h hn hsub ha => ?_,
    fun s q pos b h hn hsub hen => ?_, fun s n q pos hiso hs hm hw hx => ?_, fun s q pos b h hn hsub hen => ?_, fun s q pos b h hn hsub => ?_,
    fun s q pos b h hn hsub => ?_⟩
  · have heq := (trunkCtl_runs (f := fun n b s => ctlAdmit q pos n b s) h hn (by omega) (by omega) fun _ => ha).trans
      (ctlAdmit_pending (startDesc_effEntry.trans hi) ((congrArg Station.st startDesc_station).trans hst) ((congrArg Station.held startDesc_station).trans hheld) (startDesc_schedFits.trans hfit))
    refine ⟨_, congrArg Host.Outcome.next heq, ((startDesc_executes h).posts admitStation_posts).complete _ _ _ _, ?_⟩
    rw [complete_station, admitStation_same]
    exact ⟨rfl, rfl⟩
  · have heq := (trunkCtl_runs (f := fun n b s => ctlAdmit q pos n b s) h hn (by omega) (by omega) fun _ => ha).trans
      (ctlAdmit_other (startDesc_effEntry.trans hi) ((congrArg Station.st startDesc_station).trans_ne hst))
    refine ⟨_, congrArg Host.Outcome.next heq, ((startDesc_executes h).posts setStation_posts).complete _ _ _ _, ?_⟩
    rw [complete_station, station_setStation_same]
    rfl
  · exact ⟨_, congrArg Host.Outcome.next (trunkCtl_noPort h hn), (startDesc_executes h).complete _ _ _ _, complete_ports⟩
  · obtain ⟨prov, hrefuse⟩ := ctlRefuse_pending (q := q) (pos := pos) (s := startDesc q pos s) hi ((congrArg Station.st startDesc_station).trans hst)
    have heq := (trunkCtl_runs (f := fun n b s => ctlRefuse q pos n b s) h hn (by omega) (by omega) fun _ => ha).trans hrefuse
    have hposts : PostsMore (startDesc q pos s) (refuseStation (byteAt b 16) (byteAt b 18) prov (leAt b 20 2)
      (setStation (byteAt b 16) i { station (startDesc q pos s) (byteAt b 16) i with st := 0, held := none } (startDesc q pos s))) :=
      setStation_posts.trans (refuseStation_keeps.posts rfl)
    refine ⟨_, congrArg Host.Outcome.next heq, ((startDesc_executes h).posts hposts).complete _ _ _ _, ?_⟩
    rw [complete_station, refuseStation_station, station_setStation_same]
    exact ⟨rfl, rfl⟩
  · have heq := (trunkCtl_runs (f := fun n b s => ctlExpel q pos n b s) h hn (by omega) (by omega) fun _ => ha).trans
      (ctlExpel_admitted (startDesc_effEntry.trans hi) ((congrArg Station.st startDesc_station).trans hst))
    refine ⟨_, congrArg Host.Outcome.next heq, ((startDesc_executes h).posts loseStation_posts).complete _ _ _ _, ?_⟩
    rw [complete_station]
    exact loseStation_st hst
  · have heq := trunkCtl_runs (f := fun n b s => complete q pos 0 0 0 0 (setQuarantine n (byteAt b 18) false s)) h hn (by omega) (by omega) fun _ => ha
    obtain ⟨hposts, hset, hlost⟩ := setQuarantine_sets (s := startDesc q pos s) hn ha
    refine ⟨_, congrArg Host.Outcome.next heq, ((startDesc_executes h).posts hposts).complete _ _ _ _, ?_, fun i hi => ?_⟩
    · rw [quarantined_congr fun _ => complete_keeps.getReg_eq rfl, hset]
    · rw [complete_station]
      exact hlost i hi
  · have heq := (trunkCtl_runs (f := fun n _ s => ctlIsolate q pos n s) h hn (by omega) (by omega) fun hle => by omega).trans
      (if_neg (c := (!trkEn (startDesc q pos s) (byteAt b 16)) = true)
        (by rw [show trkEn (startDesc q pos s) (byteAt b 16) = true from hen]; simp))
    refine ⟨_, congrArg Host.Outcome.next heq, (startDesc_executes h).posts updPort_posts, ?_⟩
    rw [getPort_updPort_same]
    exact ⟨rfl, mem_insertNew⟩
  · have heq := isolateComplete_done hiso hs hm hw
    refine ⟨_, congrArg Host.Outcome.next heq, (hx.posts updPort_posts).complete _ _ _ _, ?_⟩
    rw [getPort_congr complete_ports, getPort_updPort_same]
    exact ⟨rfl, hiso⟩
  · have heq := (trunkCtl_runs (f := fun n _ s => ctlRelease q pos n s) h hn (by omega) (by omega) fun hle => by omega).trans
      (if_neg (c := (!trkEn (startDesc q pos s) (byteAt b 16)) = true)
        (by rw [show trkEn (startDesc q pos s) (byteAt b 16) = true from hen]; simp))
    refine ⟨_, congrArg Host.Outcome.next heq, (startDesc_executes h).posts updPort_posts, ?_⟩
    rw [getPort_updPort_same]
    exact ⟨rfl, mem_insertNew⟩
  · have heq := trunkCtl_runs (f := fun n b s => ctlSetIlv q pos n b s) h hn (by omega) (by omega) fun hle => by omega
    refine ⟨_, congrArg Host.Outcome.next heq,
      ((startDesc_executes h).posts (posts_ite setRegIn_posts (.refl _))).complete _ _ _ _, fun hiso => ?_, fun hiso => ?_⟩
    · rw [ctlSetIlv, if_pos (show (getPort (startDesc q pos s) (byteAt b 16)).iso = true from hiso), regF, complete_keeps.getReg_eq rfl,
        getReg_setTrk hn, bitsOf_replaced]
    · rw [ctlSetIlv, if_neg (by rw [show (getPort (startDesc q pos s) (byteAt b 16)).iso = false from hiso]; simp), regs_of_complete]
  · have heq := trunkCtl_runs (f := fun n b s => ctlSetRepair q pos n b s) h hn (by omega) (by omega) fun hle => by omega
    refine ⟨_, congrArg Host.Outcome.next heq,
      ((startDesc_executes h).posts (posts_ite setRegIn_posts (.refl _))).complete _ _ _ _, fun hiso => ?_, fun hiso => ?_⟩
    · rw [ctlSetRepair, if_pos (show (getPort (startDesc q pos s) (byteAt b 16)).iso = true from hiso), complete_keeps.getReg_eq rfl,
        getReg_setTrk hn, Nat.testBit_mod_two_pow, testBit_setBitTo]
      simp
    · rw [ctlSetRepair, if_neg (by rw [show (getPort (startDesc q pos s) (byteAt b 16)).iso = false from hiso]; simp), regs_of_complete]

end Sys2Proof.Machine
end

section

/-!
PROOF. O42: the reply that a template and its message give, and the gate's time.
-/

namespace Sys2Proof.Machine

variable {s t u : State} {m : Msg} {mid l : Nat} {r : Reply}

/-! ### A built reply keeps what it carries while the backbone starts it -/

/-- A message carries this reply, whether or not its preamble has begun. -/
def CarriesReply (late : Bool) (r : Reply) (x : Msg) : Prop := x.late = late ∧ ∃ b, x.reply = some { r with begun := b }

/-- Every message of this number carries the reply. -/
def AllCarry (mid : Nat) (late : Bool) (r : Reply) (s : State) : Prop := ∀ x ∈ s.msgs, x.mid = mid → CarriesReply late r x

theorem AllCarry.congr {late : Bool} (h : AllCarry mid late r s) (hm : t.msgs = s.msgs) : AllCarry mid late r t := by
  unfold AllCarry
  rwa [hm]

/-- A fold that takes an element or keeps what it has picks an element of its list. -/
theorem foldl_pick_mem {α : Type} {f : Option α → α → Option α} (hf : ∀ b a, f b a = some a ∨ f b a = b) {as : List α} {b : Option α} {x : α}
    (h : as.foldl f b = some x) : x ∈ as ∨ b = some x := by
  induction as generalizing b with
  | nil => exact .inr h
  | cons a as ih =>
    rcases ih h with hx | hx
    · exact .inl (List.mem_cons_of_mem a hx)
    · rcases hf b a with hfa | hfa
      · exact .inl (Option.some.inj (hfa.symm.trans hx) ▸ List.mem_cons_self)
      · exact .inr (hfa.symm.trans hx)

theorem bbReplyReady_reply (h : bbReplyReady s l m = some r) : m.reply = some r := by
  unfold bbReplyReady at h
  split at h
  · simp at h
  · next r' hr =>
    rw [Option.ite_none_right_eq_some] at h
    rw [hr, h.2]

theorem startReply_carries {late : Bool} {x : Msg} {r' : Reply} {a : Bool} (h : AllCarry mid late r s) (hx : x ∈ s.msgs) (hr : x.reply = some r') :
    AllCarry mid late r (startReply l x r' a s) := by
  intro y hy hmid
  have hy' : y ∈ (updMsg x.mid (fun m => { m with reply := some { r' with begun := true } }) s).msgs := hy
  obtain ⟨z, hz, hzy⟩ := List.mem_map.mp hy'
  split at hzy
  · next hzx =>
    subst hzy
    have hmid' : x.mid = mid := hzx.symm.trans hmid
    obtain ⟨hl, -⟩ := h z hz hmid
    obtain ⟨-, b, hb⟩ := h x hx hmid'
    obtain rfl : r' = { r with begun := b } := Option.some.inj (hr.symm.trans hb)
    exact ⟨hl, true, rfl⟩
  · exact hzy ▸ h z hz (hzy ▸ hmid)

theorem bbKick_carries {late : Bool} (h : AllCarry mid late r s) : AllCarry mid late r (bbKick l s) := by
  have hegr : ∀ x, AllCarry mid late r (startEgr l x s) := fun x => h.congr (startEgr_keeps.at .msgs rfl)
  have hpick : ∀ x ∈ s.msgs.filterMap (fun m => (bbReplyReady s l m).map (fun r => (m, r))), x.1 ∈ s.msgs ∧ x.1.reply = some x.2 := by
    intro x hx
    obtain ⟨y, hy, hyx⟩ := List.mem_filterMap.mp hx
    obtain ⟨r', hr', rfl⟩ := Option.map_eq_some_iff.mp hyx
    exact ⟨hy, bbReplyReady_reply hr'⟩
  have hfold : ∀ (b : Option (Msg × Reply)) (x : Msg × Reply),
      (match b with | some y => if x.2.buildNo < y.2.buildNo then some x else b | none => some x) = some x ∨
      (match b with | some y => if x.2.buildNo < y.2.buildNo then some x else b | none => some x) = b := by
    intro b x
    split
    · split
      · exact .inl rfl
      · exact .inr rfl
    · exact .inl rfl
  unfold bbKick
  split
  · exact h
  split
  · split
    · exact h
    · exact h.congr (bbDropQueue_keeps.at .msgs rfl)
  split
  · exact h
  dsimp only
  split
  · next hm _ =>
    obtain ⟨hx, hr⟩ := hpick _ ((foldl_pick_mem hfold hm).resolve_right (by simp))
    split
    · exact startReply_carries h hx hr
    · exact hegr _
  · next hm _ =>
    obtain ⟨hx, hr⟩ := hpick _ ((foldl_pick_mem hfold hm).resolve_right (by simp))
    exact startReply_carries h hx hr
  · exact hegr _
  · exact h

theorem bbSettle_carries {late : Bool} (h : AllCarry mid late r s) : AllCarry mid late r (bbSettle s) :=
  each_preserves (P := AllCarry mid late r) h fun _ _ hv => bbKick_carries (hv.congr (flowCheck_keeps.at .msgs rfl))

/-- A message that was found is found after the backbone has settled, with the reply it carried. -/
theorem findMsg_bbSettle_carries {late : Bool} (hf : findMsg s mid = some m) (h : AllCarry mid late r s) :
    ∃ v b, findMsg (bbSettle s) mid = some v ∧ v.late = late ∧ v.reply = some { r with begun := b } := by
  have hmid : mid ∈ heldMids (bbSettle s) := by
    rw [(bbSettle_heldMids : heldMids (bbSettle s) = heldMids s)]
    exact List.mem_map.mpr ⟨m, List.mem_of_find?_eq_some hf, by simpa using List.find?_some hf⟩
  obtain ⟨x, hx, hxm⟩ := List.mem_map.mp hmid
  obtain ⟨v, hv⟩ := Option.isSome_iff_exists.mp (List.find?_isSome.mpr ⟨x, hx, by simpa using hxm⟩ : (findMsg (bbSettle s) mid).isSome = true)
  obtain ⟨hl, b, hb⟩ := bbSettle_carries h v (List.mem_of_find?_eq_some hv) (by simpa using List.find?_some hv)
  exact ⟨v, b, hv, hl, hb⟩

/-! ### REPLY_BUILD (R229, R232 to R235) -/

/-- The outputs of a message have arrived and nothing holds its reply back. -/
structure OutputReady (s : State) (m : Msg) : Prop where
  found : findMsg s m.mid = some m
  loc : m.loc = .output
  outputs : m.outputs.isSome = true
  status : m.status = none
  held : m.held = false
  rows : m.rowsOut = []
  reply : m.reply = none

/-- A message with what its reply says of its verdict. -/
def markedLate (m : Msg) : Msg := { m with late := m.verdict.isSome }

/-- A template that names a reserved format counts in RPL_TPL_INVALID. -/
def formatCounted (m : Msg) (s : State) : State :=
  if (buildFrame (tblEntry s 0x40 m.tmpl) (buildIn s (markedLate m) false)).2 then bump 37 1 s else s

/-- The reply of a message. -/
def outputReply (m : Msg) (s : State) : Reply :=
  mkReply (formatCounted m s) (markedLate m) (buildFrame (tblEntry s 0x40 m.tmpl) (buildIn s (markedLate m) false)).1
    (replyDest (tblEntry s 0x40 m.tmpl) m.ingress) false

/-- The message with its reply. -/
def repliedMsg (m : Msg) (s : State) : Msg := { markedLate m with reply := some (outputReply m s) }

/-- The message holds its reply, which is the next build. -/
def replyHeld (m : Msg) (s : State) : State :=
  updMsg m.mid (fun _ => repliedMsg m s)
    { formatCounted m s with nextBuild := (formatCounted m s).nextBuild + 1 }

theorem OutputReady.invalid (h : OutputReady s m) (hv : tplValid (tblEntry s 0x40 m.tmpl) = false ∨ tblIsBad s 0x40 m.tmpl = true) :
    replyBuild m.mid s = sendNothing m (raise 0x0802 m.tmpl m.stream m.seq 0 (bump 37 1 s)) := by
  unfold replyBuild
  rw [h.found]
  dsimp only
  rw [if_neg (by simp [h.loc, Option.isSome_iff_ne_none.mp h.outputs, h.status, h.held, h.rows, h.reply])]
  exact if_pos (by rcases hv with hv | hv <;> simp [hv])

theorem OutputReady.built (h : OutputReady s m) (hv : tplValid (tblEntry s 0x40 m.tmpl) = true) (hb : tblIsBad s 0x40 m.tmpl = false)
    (he : echoReady s (tblEntry s 0x40 m.tmpl) (buildIn s m false).req = true) :
    replyBuild m.mid s =
      if destDown (formatCounted m s) (replyDest (tblEntry s 0x40 m.tmpl) m.ingress) then sendNothing m (bump 38 1 (formatCounted m s))
      else if replyDest (tblEntry s 0x40 m.tmpl) m.ingress = 16 then settleStream m.stream (replyHeld m s)
      else if (outputReply m s).asData then queueInjectReply (markedLate m) (outputReply m s).bytes (replyDest (tblEntry s 0x40 m.tmpl) m.ingress) (replyHeld m s)
      else replyHeld m s := by
  unfold replyBuild
  rw [h.found]
  dsimp only
  rw [if_neg (by simp [h.loc, Option.isSome_iff_ne_none.mp h.outputs, h.status, h.held, h.rows, h.reply]), if_neg (by simp [hv, hb]), if_neg (by simp [he])]
  rfl

theorem destDown_formatCounted {d : Nat} : destDown (formatCounted m s) d = destDown s d := by
  have hk : Keeps [.cnt, .hif, .alert] s (formatCounted m s) := keeps_ite bump_keeps (Keeps.refl s)
  have hreg : ∀ off, getReg (formatCounted m s) off = getReg s off := fun off => hk.getReg_eq rfl
  simp only [destDown, bbpUp, hreg]

theorem formatCounted_msgs : (formatCounted m s).msgs = s.msgs :=
  (keeps_ite bump_keeps (Keeps.refl s) : Keeps [.cnt, .hif, .alert] s (formatCounted m s)).at .msgs rfl

theorem formatCounted_38 : Same (count 38) s (formatCounted m s) := same_ite (bump_count (by decide) (by decide)) (.refl s)

theorem replyHeld_carries : AllCarry m.mid m.verdict.isSome (outputReply m s) (replyHeld m s) := by
  intro x hx hmid
  obtain ⟨z, hz, hzx⟩ := List.mem_map.mp (show x ∈ (replyHeld m s).msgs from hx)
  split at hzx
  · exact hzx ▸ ⟨rfl, false, rfl⟩
  · next hne => exact absurd (hzx ▸ hmid) hne

theorem replyHeld_found (h : findMsg s m.mid = some m) : ∃ v, findMsg (replyHeld m s) m.mid = some v := by
  have hf : findMsg { formatCounted m s with nextBuild := (formatCounted m s).nextBuild + 1 } m.mid = some m :=
    (findMsg_congr formatCounted_msgs).trans h
  rw [replyHeld, findMsg_updMsg_same (mid := m.mid) (f := fun _ => repliedMsg m s) (fun _ _ => rfl), hf]
  exact ⟨_, rfl⟩

/-! ### GATE_TIMEOUT (R241) -/

/-- The gate's time of a message has run out: its verdict is bad. -/
def gateClosed (m : Msg) (s : State) : State :=
  dropStomped m.mid (updMsg m.mid (fun m => { m with verdict := some false }) (raise 0x0801 m.stream m.seq m.ingress 0 (bump 36 1 s)))

theorem gateTimeout241_due {t0 : Nat} (hf : findMsg s m.mid = some m) (hv : m.verdict = none) (hg : gateStart s m = some t0)
    (hdue : t0 + gateMax s ≤ s.clk.now) : gateTimeout241 m.mid s = failMsg stDamaged m.mid (gateClosed m s) := by
  unfold gateTimeout241
  rw [hf]
  dsimp only
  exact if_neg (by simp [hv, hg, hdue])

theorem gateTimeout241_early {t0 : Nat} (hf : findMsg s m.mid = some m) (hg : gateStart s m = some t0)
    (hdue : s.clk.now < t0 + gateMax s) : gateTimeout241 m.mid s = s := by
  unfold gateTimeout241
  rw [hf]
  dsimp only
  exact if_pos (by simp [hg]; omega)

/-- A stomped reply that is dropped changes neither the verdict nor the status of its message. -/
theorem findMsg_dropStomped (hf : findMsg s mid = some m) :
    ∃ v, findMsg (dropStomped mid s) mid = some v ∧ v.verdict = m.verdict ∧ v.status = m.status := by
  unfold dropStomped
  rw [findMsg_updMsg_same, hf]
  · refine ⟨_, rfl, ?_, ?_⟩
    all_goals
      dsimp only
      split
      · split
        · rfl
        · rfl
      · rfl
  · intro x hx
    split
    · split
      · exact hx
      · exact hx
    · exact hx

theorem gateClosed_msg (hf : findMsg s m.mid = some m) : ∃ v, findMsg (gateClosed m s) m.mid = some v ∧ v.verdict = some false ∧ v.status = m.status := by
  have hf' : findMsg (raise 0x0801 m.stream m.seq m.ingress 0 (bump 36 1 s)) m.mid = some m := by
    rw [findMsg_congr (raise_keeps.at .msgs rfl), findMsg_congr (bump_keeps.at .msgs rfl), hf]
  have hbad : findMsg (updMsg m.mid (fun m => { m with verdict := some false }) (raise 0x0801 m.stream m.seq m.ingress 0 (bump 36 1 s))) m.mid =
      some { m with verdict := some false } := by
    rw [findMsg_updMsg_same (f := fun m : Msg => { m with verdict := some false }) fun _ hx => hx, hf']
    rfl
  obtain ⟨v, hv, hverdict, hstatus⟩ := findMsg_dropStomped hbad
  exact ⟨v, hv, hverdict, hstatus⟩

theorem gateClosed_counted : Counted 36 1 s (gateClosed m s) :=
  ((bump_counted (by decide)).after (raise_count (by decide))).after
    (((updMsg_keeps.weaken rfl).after dropStomped_keeps rfl : Keeps [.msgs] _ _).same_count rfl)

theorem gateClosed_frames : (gateClosed m s).frames = s.frames :=
  ((((bump_keeps.weaken rfl).after raise_keeps rfl).after updMsg_keeps rfl).after dropStomped_keeps rfl :
    Keeps [.cnt, .hif, .alert, .msgs] s (gateClosed m s)).at .frames rfl

/-- Settles O42: built and held for its destination, invalid, for a destination that is down, and the gate's time. -/
theorem repliesAreBuilt : Obligations.RepliesAreBuilt := by
  unfold Obligations.RepliesAreBuilt
  refine ⟨fun s m hf hloc hout hst hheld hrows hrep hv hb he hup hd => ?_, fun s m hf hloc hout hst hheld hrows hrep hv => ?_,
    fun s m hf hloc hout hst hheld hrows hrep hv hb he hdown => ?_, fun s m t0 hf hv hg => ⟨fun hdue => ?_, fun hdue => ?_⟩⟩
  · have hready : OutputReady s m := ⟨hf, hloc, hout, hst, hheld, hrows, hrep⟩
    have hbuilt := hready.built hv hb he
    rw [destDown_formatCounted, if_neg (by simp [hup]), if_neg (by omega)] at hbuilt
    obtain ⟨v, hv'⟩ := replyHeld_found (m := m) hf
    have hmsgs : (replyBuild m.mid s).msgs = (replyHeld m s).msgs := by
      rw [hbuilt]
      split
      · exact queueInjectReply_keeps.at .msgs rfl
      · rfl
    obtain ⟨v, b, hfound, hlate, hreply⟩ := findMsg_bbSettle_carries ((findMsg_congr hmsgs).trans hv') (replyHeld_carries.congr hmsgs)
    exact ⟨_, v, _, rfl, hfound, hlate, hreply, rfl, rfl, rfl, rfl⟩
  · have hready : OutputReady s m := ⟨hf, hloc, hout, hst, hheld, hrows, hrep⟩
    exact ⟨_, congrArg (Host.Outcome.next ∘ bbSettle) (hready.invalid hv), (bump_counted (by decide)).after (raise_count (by decide)),
      ((bump_keeps.weaken rfl).after raise_keeps rfl : Keeps [.cnt, .hif, .alert] s _).at .msgs rfl⟩
  · have hready : OutputReady s m := ⟨hf, hloc, hout, hst, hheld, hrows, hrep⟩
    have hbuilt := hready.built hv hb he
    rw [destDown_formatCounted, if_pos hdown] at hbuilt
    exact ⟨_, congrArg (Host.Outcome.next ∘ bbSettle) hbuilt, Counted.before formatCounted_38 (bump_counted (by decide)),
      (bump_keeps.at .msgs rfl).trans formatCounted_msgs⟩
  · obtain ⟨v, hv', hverdict, hstatus⟩ := gateClosed_msg hf
    exact ⟨_, gateClosed m s, v, rfl, congrArg bbSettle (gateTimeout241_due hf hv hg hdue), gateClosed_counted, hv', hverdict, hstatus, gateClosed_frames⟩
  · exact congrArg (Host.Outcome.next ∘ bbSettle) (gateTimeout241_early hf hg hdue)

end Sys2Proof.Machine
end

section

/-!
PROOF. O47: coherence requests. The obligation fails: a read for write at an unmapped address is handled as a read of poisoned data, which
ends the messages of its group's pass, and a message's end counts on the counter of its stream. In a state whose message names stream 2081
that is the counter of the stack's accesses to unmapped memory.
-/

namespace Sys2Proof.Machine

/-- The first line above every stack's window. -/
def unmappedLine : BitVec 33 := BitVec.ofNat 33 (2 ^ 30)

/-- A message of stream 2081, to end silently; the counter of its stream's ends is 256 + 2081 = 2337. -/
def strayMember : Msg :=
  { mid := 3, stream := 2081, seq := 0, slot := 0, bank := 0, cls := 1, tmpl := 0, xmap := 0, fid := 7, ingress := 0,
    origin := none, status := none, statusAt := 0, silent := true, noFence := true, held := false, verdict := none,
    gateT0 := 0, loc := .idle, pass := 0, segs := [], input := [], outputs := none, rowsOut := [], staged := false,
    late := false, reply := none }

/-- A pass whose one member is that message. -/
def strayRun : Run := { sid := 0, pass := 0, members := [3], t0 := 0, energy := 0, resTaken := 0, bound := 0, paused := 0 }

/-- The group that runs it. -/
def strayGroup : Group :=
  { gid := 0, slot := 0, bank := 0, idx := 0, plots := [], gen := 0, cfg := 0, size := 0, run := some strayRun, trans := none, orphans := 0,
    firstUnit := 0, firstTag := 0, tables := [], rot := none, dwell := 0, unfilled := [], reload := false, chans := [], known := false }

/-- The engine in STANDBY with that group. -/
def strayState : State :=
  { State.reset with glb := { State.reset.glb with phase := .standby }, groups := [strayGroup], msgs := [strayMember] }

theorem exec_coherenceRequest_stray : exec (.coherenceRequest 0 unmappedLine 1 0 []) strayState =
    .next (coherence 0 unmappedLine.toNat 1 0 [] strayState) :=
  congrArg Host.Outcome.next (if_pos (by decide +kernel))

/-- The request raises counter 2337 by two: one for the access, one for the message's end. -/
theorem coherence_strayState_counts_twice :
    ¬ Counted (2328 + 10 * stackOf (128 * unmappedLine.toNat) + 9) 1 strayState (coherence 0 unmappedLine.toNat 1 0 [] strayState) := by
  unfold Counted
  decide +kernel

/-- Refutes O47: in `strayState` a read for write at an unmapped address raises the counter of such accesses by two, not by one. -/
theorem not_coherenceOfLines : ¬ Obligations.CoherenceOfLines := by
  unfold Obligations.CoherenceOfLines
  intro h
  obtain ⟨hunmapped, -⟩ := h strayState 0 unmappedLine unmappedLine.toNat 0 [] rfl
  obtain ⟨t, hexec, hcount, -⟩ := hunmapped 1 (by decide +kernel) (by decide +kernel)
  rw [exec_coherenceRequest_stray] at hexec
  exact coherence_strayState_counts_twice (Host.Outcome.next.inj hexec ▸ hcount)

end Sys2Proof.Machine
end

section

/-!
PROOF. Rules of the memory: bytes, poison, cache lines and directories after each operation, what an operation on one line leaves of every
other, a write at the home, and the decoding of a half.
-/

namespace Sys2Proof.Machine

variable {s t u v : State} {a i h k n d die line dpa : Nat} {bs : List Byte}

/-! ### Bytes and poison -/

/-- A key outside the range of consecutive writes reads as before. -/
theorem tget_tsetList_outside {α : Type} [DecidableEq α] {x : α} {j : Nat} : ∀ {vs : List α} {k : Nat} {m : List (Nat × α)},
    j < k ∨ k + vs.length ≤ j → tget x j (tsetList x k vs m) = tget x j m
  | [], _, _, _ => rfl
  | v :: vs, k, m, hj => by
    rw [List.length_cons] at hj
    rw [tsetList, tget_tsetList_outside (by omega), tget_tset_other (by omega)]

/-- What a read of bytes and of poison rests on. -/
def stores (s : State) : List (Nat × Byte) × List (Nat × Bool) × List (Nat × Nat) := (s.mem.hbm, s.mem.poison, s.mem.bist)

theorem memBase_congr (h : t.mem.bist = s.mem.bist) : memBase t a = memBase s a := by rw [memBase, memBase, h]

theorem Same.getMem_eq (h : Same stores s t) : getMem t a = getMem s a := by
  have heq : stores t = stores s := h
  simp only [stores, Prod.mk.injEq] at heq
  obtain ⟨hhbm, -, hbist⟩ := heq
  rw [getMem, getMem, hhbm, memBase_congr hbist]

theorem Same.poisoned_eq (h : Same stores s t) : poisoned t k = poisoned s k := by
  have heq : stores t = stores s := h
  simp only [stores, Prod.mk.injEq] at heq
  rw [poisoned, poisoned, heq.2.1]

theorem Same.memBytes_eq (h : Same stores s t) : memBytes t dpa n = memBytes s dpa n := by
  simp only [memBytes, h.getMem_eq]

theorem same_stores_of_mem (h : t.mem = s.mem) : Same stores s t := by
  unfold Same stores
  rw [h]

theorem getMem_putMem : getMem (putMem dpa bs s) a = if dpa ≤ a ∧ a < dpa + bs.length then (bs[a - dpa]?).getD 0 else getMem s a := by
  have hbase : memBase (putMem dpa bs s) a = memBase s a := memBase_congr rfl
  rw [getMem, hbase]
  have hlen : ((List.range bs.length).zipWith (fun i b => b ^^^ memBase s (dpa + i)) bs).length = bs.length := by simp
  split
  · next hin =>
    have hi : a - dpa < bs.length := by omega
    have hread := tget_tsetList (x := (0 : Byte)) (k := dpa) (m := s.mem.hbm) (hlen ▸ hi)
    have hval : ((List.range bs.length).zipWith (fun i b => b ^^^ memBase s (dpa + i)) bs)[a - dpa]? = some (bs[a - dpa] ^^^ memBase s a) := by
      rw [List.getElem?_zipWith, List.getElem?_eq_getElem hi, List.getElem?_range hi]
      simp only [show dpa + (a - dpa) = a by omega]
    rw [hval, Option.some.injEq, show dpa + (a - dpa) = a by omega] at hread
    have hput : tget 0 a (putMem dpa bs s).mem.hbm = bs[a - dpa] ^^^ memBase s a := hread
    rw [hput, BitVec.xor_assoc, BitVec.xor_self, BitVec.xor_zero, List.getElem?_eq_getElem hi, Option.getD_some]
  · next hout =>
    have hput : tget 0 a (putMem dpa bs s).mem.hbm = tget 0 a s.mem.hbm := by
      refine tget_tsetList_outside ?_
      rw [hlen]
      omega
    rw [hput, getMem]

theorem getMem_setPoison {b : Bool} : getMem (setPoison h b s) a = getMem s a := rfl

theorem poisoned_putMem : poisoned (putMem dpa bs s) k = poisoned s k := rfl

theorem poisoned_setPoison {b : Bool} : poisoned (setPoison h b s) k = if k = h then b else poisoned s k := tget_tset _

theorem length_memBytes : (memBytes s dpa n).length = n := by simp [memBytes]

theorem getElem?_memBytes (hi : i < n) : (memBytes s dpa n)[i]? = some (getMem s (dpa + i)) := by
  simp [memBytes, hi]

theorem memBytes_congr (h : ∀ i, i < n → getMem t (dpa + i) = getMem s (dpa + i)) : memBytes t dpa n = memBytes s dpa n :=
  List.map_congr_left fun i hi => h i (List.mem_range.mp hi)

/-! ### Ranges -/

theorem mem_halvesOf : h ∈ halvesOf dpa n ↔ n ≠ 0 ∧ dpa / 32 ≤ h ∧ h ≤ (dpa + n - 1) / 32 := by
  unfold halvesOf
  split
  · simp [*]
  · simp only [List.mem_map, List.mem_range]
    constructor
    · rintro ⟨j, hj, rfl⟩
      omega
    · rintro ⟨-, hlo, hhi⟩
      exact ⟨h - dpa / 32, by omega, by omega⟩

theorem mem_linesOf : k ∈ linesOf dpa n ↔ n ≠ 0 ∧ dpa / 128 ≤ k ∧ k ≤ (dpa + n - 1) / 128 := by
  unfold linesOf
  split
  · simp [*]
  · simp only [List.mem_map, List.mem_range]
    constructor
    · rintro ⟨j, hj, rfl⟩
      omega
    · rintro ⟨-, hlo, hhi⟩
      exact ⟨k - dpa / 128, by omega, by omega⟩

/-! ### Cache lines and directories -/

/-- The entry of a key in the remote caches. -/
def cached (s : State) (k : Nat) : Option CacheLine := (s.mem.rlc.find? (fun x => decide (x.1 = k))).map Prod.snd

theorem findLine_eq : findLine s die line = cached s (cacheKey die line) := rfl

theorem find?_tdel {α : Type} {j k : Nat} {m : List (Nat × α)} :
    (tdel k m).find? (fun x => decide (x.1 = j)) = if j = k then none else m.find? (fun x => decide (x.1 = j)) := by
  induction m with
  | nil => simp [tdel]
  | cons e m ih =>
    unfold tdel at ih ⊢
    by_cases he : e.1 = k
    · rw [List.filter_cons_of_neg (by simpa using he), ih, List.find?_cons]
      split
      · rfl
      · next hj => simp [show e.1 ≠ j by omega]
    · rw [List.filter_cons_of_pos (by simpa using he), List.find?_cons, ih, List.find?_cons]
      by_cases hj : e.1 = j
      · simp [hj, show j ≠ k by omega]
      · simp [hj]

theorem find?_tins {α : Type} {j k : Nat} {c : α} {m : List (Nat × α)} (hk : m.find? (fun x => decide (x.1 = k)) = none) :
    (tins k c m).find? (fun x => decide (x.1 = j)) = if j = k then some (k, c) else m.find? (fun x => decide (x.1 = j)) := by
  induction m with
  | nil =>
    by_cases hj : j = k
    · simp [tins, hj]
    · simp [tins, hj, Ne.symm hj]
  | cons e m ih =>
    unfold tins
    split
    · by_cases hj : j = k
      · simp [hj]
      · simp [hj, Ne.symm hj]
    · have he : e.1 ≠ k := by
        intro he
        rw [List.find?_cons, he] at hk
        simp at hk
      have htail : m.find? (fun x => decide (x.1 = k)) = none := by
        rw [List.find?_cons] at hk
        simpa [he] using hk
      rw [List.find?_cons, ih htail, List.find?_cons]
      by_cases hj : e.1 = j
      · simp [hj, show j ≠ k by omega]
      · simp [hj]

theorem cached_tset {c : CacheLine} (hc : c ≠ noLine) (hm : t.mem.rlc = tset noLine k c s.mem.rlc) {j : Nat} :
    cached t j = if j = k then some c else cached s j := by
  unfold cached
  rw [hm, tset, if_neg hc, find?_tins (by rw [find?_tdel, if_pos rfl]), find?_tdel]
  split
  · rfl
  · rfl

theorem cached_putLine {c : CacheLine} (hc : c ≠ noLine) {j : Nat} :
    cached (putLine die line c s) j = if j = cacheKey die line then some c else cached s j := cached_tset hc rfl

theorem findLine_putLine_same {c : CacheLine} (hc : c ≠ noLine) : findLine (putLine die line c s) die line = some c := by
  rw [findLine_eq, cached_tset hc rfl, if_pos rfl]

theorem cached_dropLine {j : Nat} : cached (dropLine die line s) j = if j = cacheKey die line then none else cached s j := by
  unfold cached
  have hfind : (dropLine die line s).mem.rlc.find? (fun x => decide (x.1 = j)) =
      if j = cacheKey die line then none else s.mem.rlc.find? (fun x => decide (x.1 = j)) := find?_tdel
  rw [hfind]
  split
  · rfl
  · rfl

theorem findLine_dropLine_same : findLine (dropLine die line s) die line = none := by rw [findLine_eq, cached_dropLine, if_pos rfl]

theorem cacheKey_inj {die' line' : Nat} (hl : line < 2 ^ 33) (hl' : line' < 2 ^ 33) (h : cacheKey die line = cacheKey die' line') :
    die = die' ∧ line = line' := by
  unfold cacheKey at h
  omega

theorem getDir_setDir {e : DirEntry} {l : Nat} : getDir (setDir line e s) l = if l = line then e else getDir s l := tget_tset _

/-! ### What an operation on some lines leaves of the others -/

/-- The fills in flight, whatever an invalidation has made of them. -/
def fillKeys (s : State) : List (Nat × Nat) := s.mem.fills.map fun f => (f.1, f.2.1)

/-- An operation on the lines of `ls`: bytes, poison and directories of every other line stay, no good half becomes bad, no cache takes a line in,
and the same fills are in flight. -/
structure LineWork (ls : Nat → Prop) (s t : State) : Prop where
  bist : t.mem.bist = s.mem.bist
  bytes : ∀ a, ¬ls (a / 128) → getMem t a = getMem s a
  poison : ∀ h, ¬ls (h / 4) → poisoned t h = poisoned s h
  good : ∀ h, poisoned s h = false → poisoned t h = false
  dir : ∀ l, ¬ls l → getDir t l = getDir s l
  drops : ∀ k, cached s k = none → cached t k = none
  fills : fillKeys t = fillKeys s

section
variable {ls : Nat → Prop}

theorem LineWork.of_mem (h : t.mem = s.mem) : LineWork ls s t :=
  { bist := by rw [h]
    bytes := fun _ _ => (same_stores_of_mem h).getMem_eq
    poison := fun _ _ => (same_stores_of_mem h).poisoned_eq
    good := fun _ hg => (same_stores_of_mem h).poisoned_eq.trans hg
    dir := fun _ _ => by rw [getDir, getDir, h]
    drops := fun _ hk => by
      rw [cached, h]
      exact hk
    fills := by rw [fillKeys, fillKeys, h] }

theorem LineWork.refl (s : State) : LineWork ls s s := .of_mem rfl

theorem LineWork.trans (h : LineWork ls s t) (k : LineWork ls t u) : LineWork ls s u :=
  { bist := k.bist.trans h.bist
    bytes := fun a ha => (k.bytes a ha).trans (h.bytes a ha)
    poison := fun p hp => (k.poison p hp).trans (h.poison p hp)
    good := fun p hp => k.good p (h.good p hp)
    dir := fun l hl => (k.dir l hl).trans (h.dir l hl)
    drops := fun c hc => k.drops c (h.drops c hc)
    fills := k.fills.trans h.fills }

theorem LineWork.weaken {ms : Nat → Prop} (h : LineWork ls s t) (hsub : ∀ l, ls l → ms l) : LineWork ms s t :=
  { bist := h.bist
    bytes := fun a ha => h.bytes a fun hl => ha (hsub _ hl)
    poison := fun p hp => h.poison p fun hl => hp (hsub _ hl)
    good := h.good
    dir := fun l hl => h.dir l fun hl' => hl (hsub _ hl')
    drops := h.drops
    fills := h.fills }

theorem LineWork.dropped (h : LineWork ls s t) (hd : findLine s die line = none) : findLine t die line = none := h.drops _ hd

theorem LineWork.memBytes_eq (h : LineWork ls s t) (hout : ∀ i, i < n → ¬ls ((dpa + i) / 128)) : memBytes t dpa n = memBytes s dpa n :=
  memBytes_congr fun i hi => h.bytes _ (hout i hi)

theorem Keeps.lineWork {ps : List Piece} (k : Keeps ps s t) (h : (pieceBits [.hbm, .poison, .mem] &&& pieceBits ps == 0) = true) : LineWork ls s t :=
  .of_mem (k.mem_eq h)

theorem lineWork_ite {p : Prop} [Decidable p] (ht : LineWork ls s t) (hu : LineWork ls s u) : LineWork ls s (if p then t else u) := by
  split <;> assumption

theorem lineWork_each {α : Type} {as : List α} {f : α → State → State} (h : ∀ x v, LineWork ls v (f x v)) : LineWork ls s (each as f s) :=
  each_preserves (P := LineWork ls s) (.refl s) fun x v hv => hv.trans (h x v)

theorem setDir_lineWork {e : DirEntry} (h : ls line) : LineWork ls s (setDir line e s) :=
  { bist := rfl
    bytes := fun _ _ => rfl
    poison := fun _ _ => rfl
    good := fun _ hg => hg
    dir := fun l hl => by rw [getDir_setDir, if_neg fun (he : l = line) => hl (he ▸ h)]
    drops := fun _ hk => hk
    fills := rfl }

theorem dropLine_lineWork : LineWork ls s (dropLine die line s) :=
  { bist := rfl
    bytes := fun _ _ => rfl
    poison := fun _ _ => rfl
    good := fun _ hg => hg
    dir := fun _ _ => rfl
    drops := fun k hk => by
      rw [cached_dropLine, hk]
      simp
    fills := rfl }

/-- A line that a cache holds is replaced there. -/
theorem putLine_lineWork {c c' : CacheLine} (hc : c ≠ noLine) (h : findLine s die line = some c') : LineWork ls s (putLine die line c s) :=
  { bist := rfl
    bytes := fun _ _ => rfl
    poison := fun _ _ => rfl
    good := fun _ hg => hg
    dir := fun _ _ => rfl
    drops := fun k hk => by
      rw [cached_tset hc rfl, if_neg, hk]
      rintro rfl
      rw [findLine_eq, hk] at h
      simp at h
    fills := rfl }

theorem writeBack_lineWork {c : CacheLine} (h : ls line) : LineWork ls s (writeBack line c s) := by
  refine each_preserves_mem (P := LineWork ls s) (.refl s) fun i hi v hv => hv.trans ?_
  have hi4 : i < 4 := by
    simp only [List.mem_cons, List.not_mem_nil, or_false] at hi
    omega
  refine lineWork_ite (.refl v) ?_
  exact
    { bist := rfl
      bytes := fun a ha => by
        have hlen : (padTo 32 (slice c.data (32 * i) 32)).length = 32 := by
          rw [padTo, List.length_append, List.length_take, List.length_replicate]
          omega
        rw [getMem_setPoison, getMem_putMem, if_neg]
        rintro ⟨hlo, hhi⟩
        exact ha ((show a / 128 = line by omega) ▸ h)
      poison := fun p hp => by
        rw [poisoned_setPoison, if_neg, poisoned_putMem]
        intro hpe
        exact hp ((show p / 4 = line by omega) ▸ h)
      good := fun p hp => by
        rw [poisoned_setPoison]
        split
        · rfl
        · exact hp
      dir := fun _ _ => rfl
      drops := fun _ hk => hk
      fills := rfl }

/-- A modified line comes back to its home, whatever its state. -/
theorem returned_lineWork {c : CacheLine} (h : ls line) :
    LineWork ls s (if c.st = .modified then writeBack line c (noticeFlits die line c.data s) else s) :=
  lineWork_ite ((noticeFlits_keeps.lineWork rfl).trans (writeBack_lineWork h)) (.refl s)

end

/-! ### Invalidations, recalls and evictions (R255 to R258) -/

/-- One holder of a line is invalidated and acknowledges. -/
def holderInvalidated (line die : Nat) (s : State) : State :=
  let v := cohFlit die (lineHome line) 5 line (cohFlit (lineHome line) die 4 line s)
  match findLine v die line with
  | some c => dropLine die line (if c.st = .modified then writeBack line c (noticeFlits die line c.data v) else v)
  | none => v

/-- The holders of a line that an invalidation reaches. -/
def reached (held : Nat) (keep : Option Nat) : List Nat := (onesOf 4 held).filter (fun die => decide (some die ≠ keep))

/-- A fill in flight of an invalidated line is not installed. -/
def fillsMarked (line : Nat) (keep : Option Nat) (s : State) : State :=
  { s with mem := { s.mem with fills := s.mem.fills.map (fun f => if f.2.1 = line ∧ some f.1 ≠ keep then (f.1, f.2.1, true) else f) } }

theorem invalidate_eq {keep : Option Nat} : invalidate line keep s =
    match keep with
    | some k => setDir line { getDir s line with
        held := if (getDir s line).held.testBit k then 2 ^ k else 0, owned := (getDir s line).owned && (getDir s line).held.testBit k }
        (fillsMarked line keep (each (reached (getDir s line).held keep) (holderInvalidated line) s))
    | none => setDir line noDir (fillsMarked line keep (each (reached (getDir s line).held keep) (holderInvalidated line) s)) := by
  cases keep
  · rfl
  · rfl

theorem cohFlit_lineWork {ls : Nat → Prop} {a b op l : Nat} : LineWork ls s (cohFlit a b op l s) := cohFlit_keeps.lineWork rfl

theorem holderInvalidated_lineWork : LineWork (· = line) s (holderInvalidated line die s) := by
  unfold holderInvalidated
  dsimp only
  have hflits : LineWork (· = line) s (cohFlit die (lineHome line) 5 line (cohFlit (lineHome line) die 4 line s)) :=
    cohFlit_lineWork.trans cohFlit_lineWork
  split
  · exact (hflits.trans (returned_lineWork rfl)).trans dropLine_lineWork
  · exact hflits

theorem holderInvalidated_drops : findLine (holderInvalidated line die s) die line = none := by
  unfold holderInvalidated
  dsimp only
  split
  · exact findLine_dropLine_same
  · assumption

theorem fillsMarked_lineWork {ls : Nat → Prop} {keep : Option Nat} : LineWork ls s (fillsMarked line keep s) :=
  { bist := rfl
    bytes := fun _ _ => rfl
    poison := fun _ _ => rfl
    good := fun _ hg => hg
    dir := fun _ _ => rfl
    drops := fun _ hk => hk
    fills := by
      unfold fillKeys fillsMarked
      rw [List.map_map]
      refine List.map_congr_left fun f _ => ?_
      simp only [Function.comp]
      split
      · rfl
      · rfl }

/-- What an invalidation does before it sets the directory. -/
theorem invalidated_lineWork {keep : Option Nat} {ds : List Nat} : LineWork (· = line) s (fillsMarked line keep (each ds (holderInvalidated line) s)) :=
  (lineWork_each fun _ _ => holderInvalidated_lineWork).trans fillsMarked_lineWork

theorem invalidate_lineWork {keep : Option Nat} : LineWork (· = line) s (invalidate line keep s) := by
  rw [invalidate_eq]
  split
  · exact invalidated_lineWork.trans (setDir_lineWork rfl)
  · exact invalidated_lineWork.trans (setDir_lineWork rfl)

theorem mem_reached {held : Nat} {keep : Option Nat} : d ∈ reached held keep ↔ d < 4 ∧ held.testBit d = true ∧ some d ≠ keep := by
  simp only [reached, onesOf, List.mem_filter, List.mem_range, decide_eq_true_eq, and_assoc]

/-- An invalidation takes the line out of every holder but the one it keeps. -/
theorem invalidate_drops {keep : Option Nat} (hd : d < 4) (hheld : (getDir s line).held.testBit d = true) (hk : some d ≠ keep) :
    findLine (invalidate line keep s) d line = none := by
  have hall := each_establishes (as := reached (getDir s line).held keep) (s := s) (P := fun d v => findLine v d line = none)
    (f := holderInvalidated line) (fun _ _ => holderInvalidated_drops) (fun _ _ _ hb => holderInvalidated_lineWork.dropped hb) d
    (mem_reached.mpr ⟨hd, hheld, hk⟩)
  rw [invalidate_eq]
  split
  · exact hall
  · exact hall

theorem getDir_invalidate_none : getDir (invalidate line none s) line = noDir := by
  rw [invalidate_eq]
  exact (getDir_setDir).trans (if_pos rfl)

/-- A line that no cache holds is invalidated without a write. -/
theorem invalidate_unheld (h : (getDir s line).held = 0) {keep : Option Nat} : Same stores s (invalidate line keep s) := by
  have hnone : reached (getDir s line).held keep = [] := by
    rw [h]
    rfl
  rw [invalidate_eq, hnone]
  split
  · rfl
  · rfl

theorem recallLine_unheld (h : (getDir s line).held = 0) :
    recallLine line s = if (getDir s line).owned then setDir line { getDir s line with owned := false } s else s := by
  unfold recallLine
  dsimp only
  rw [h]
  rfl

theorem recallLine_idle (h : (getDir s line).held = 0) (ho : (getDir s line).owned = false) : recallLine line s = s := by
  rw [recallLine_unheld h, ho]
  rfl

/-! ### Directories, installed lines and what a home serves -/

theorem evictLine_lineWork : LineWork (· = line) s (evictLine die line s) := by
  unfold evictLine
  split
  · exact .refl s
  · next c _ =>
    dsimp only
    have hgone : LineWork (· = line) s (dropLine die line
        (if c.st = .modified then writeBack line c (noticeFlits die line c.data s) else cohFlit die (lineHome line) 6 line s)) :=
      LineWork.trans (lineWork_ite ((noticeFlits_keeps.lineWork rfl).trans (writeBack_lineWork (ls := (· = line)) rfl)) cohFlit_lineWork)
        dropLine_lineWork
    exact hgone.trans (setDir_lineWork rfl)

/-- Making room in a directory touches other lines only. -/
theorem allocDir_lineWork : LineWork (· ≠ line) s (allocDir line s) := by
  unfold allocDir
  split
  · exact .refl s
  · next hnone =>
    dsimp only
    split
    · exact .refl s
    · split
      · next v hv =>
        have hmem := (foldl_pick_mem (fun b a => by
          cases b with
          | none => exact .inl rfl
          | some y =>
            dsimp only
            split
            · exact .inl rfl
            · exact .inr rfl) hv).resolve_right (by simp)
        have hv1 : v.1 ≠ line := by
          intro he
          exact hnone (List.any_eq_true.mpr ⟨v, (List.mem_filter.mp hmem).1, by simpa using he⟩)
        exact (invalidate_lineWork.weaken fun l hl => by simpa [hl] using hv1).trans (bump_keeps.lineWork rfl)
      · exact .refl s

/-- A line is installed from its home's bytes once room is made in its set, where other lines leave. -/
theorem installLine_eq {st : Mesi} : ∃ v, LineWork (· ≠ line) s v ∧ installLine die line st s =
    putLine die line { st := st, data := memBytes v (128 * line) 128, used := s.mem.useCtr + 1, bad := badHalves v line } v := by
  have hcount : LineWork (· ≠ line) s (nextUse s).2 :=
    { bist := rfl
      bytes := fun _ _ => rfl
      poison := fun _ _ => rfl
      good := fun _ hg => hg
      dir := fun _ _ => rfl
      drops := fun _ hk => hk
      fills := rfl }
  unfold installLine
  dsimp only
  split
  · exact ⟨_, hcount, rfl⟩
  · split
    · next v hv =>
      have hmem := (foldl_pick_mem (fun b a => by
        cases b with
        | none => exact .inl rfl
        | some y =>
          dsimp only
          split
          · exact .inl rfl
          · exact .inr rfl) hv).resolve_right (by simp)
      have hset := (List.mem_filter.mp hmem).2
      simp only [decide_eq_true_eq] at hset
      obtain ⟨hdie, -, hkey⟩ := hset
      have hne : v.1 % 2 ^ 33 ≠ line := by
        unfold cacheKey at hkey
        omega
      exact ⟨_, hcount.trans (evictLine_lineWork.weaken fun l hl => by simpa [hl] using hne), rfl⟩
    · exact ⟨_, hcount, rfl⟩

theorem nextUse_lineWork {ls : Nat → Prop} : LineWork ls s (nextUse s).2 :=
  { bist := rfl
    bytes := fun _ _ => rfl
    poison := fun _ _ => rfl
    good := fun _ hg => hg
    dir := fun _ _ => rfl
    drops := fun _ hk => hk
    fills := rfl }

/-- What a read served by the home of a line that no cache holds leaves. -/
structure ReadServed (die line : Nat) (s t : State) : Prop where
  bytes : ∀ a, a / 128 = line → getMem t a = getMem s a
  poison : ∀ h, h / 4 = line → poisoned t h = poisoned s h
  held : (getDir t line).held.testBit die = true
  owned : (getDir t line).owned = false
  fill : s.mem.fills.any (fun f => decide (f.1 = die ∧ f.2.1 = line)) = false →
    t.mem.fills.find? (fun f => decide (f.1 = die ∧ f.2.1 = line)) = some (die, line, false)

theorem fills_find?_none (h : s.mem.fills.any (fun f => decide (f.1 = die ∧ f.2.1 = line)) = false) (hk : fillKeys t = fillKeys s) :
    t.mem.fills.find? (fun f => decide (f.1 = die ∧ f.2.1 = line)) = none := by
  rw [List.find?_eq_none]
  intro f hf hmatch
  simp only [decide_eq_true_eq] at hmatch
  have hkey : (die, line) ∈ fillKeys s := hk ▸ List.mem_map.mpr ⟨f, hf, by rw [hmatch.1, hmatch.2]⟩
  obtain ⟨g, hg, hgk⟩ := List.mem_map.mp hkey
  rw [Prod.mk.injEq] at hgk
  have hany := List.any_eq_false.mp h g hg
  simp [hgk.1, hgk.2] at hany

/-- The home has sent a line that no cache held to its reader, and has room for its directory entry. -/
def readSent (die line : Nat) (s : State) : State :=
  (nextUse (allocDir line (memFlits (lineHome line) die 2 (128 * line) 128
    (memBytes (recallLine line (cohFlit die (lineHome line) 1 line s)) (128 * line) 128) (recallLine line (cohFlit die (lineHome line) 1 line s))))).2

theorem serveRead_eq : ∃ used, serveRead die line s =
    { setDir line { held := setBitTo (getDir (readSent die line s) line).held die true, owned := false, used := used } (readSent die line s) with
      mem := { (setDir line { held := setBitTo (getDir (readSent die line s) line).held die true, owned := false, used := used }
        (readSent die line s)).mem with fills := (readSent die line s).mem.fills ++ [(die, line, false)] } } := ⟨_, rfl⟩

/-- Recalling a line that no cache holds changes its directory entry at most. -/
theorem recallLine_unheld_stores (h : (getDir s line).held = 0) : Same stores s (recallLine line s) := by
  rw [recallLine_unheld h]
  split
  · rfl
  · rfl

theorem recallLine_unheld_fills (h : (getDir s line).held = 0) : (recallLine line s).mem.fills = s.mem.fills := by
  rw [recallLine_unheld h]
  split
  · rfl
  · rfl

theorem cohFlit_mem {a b op l : Nat} : (cohFlit a b op l s).mem = s.mem := cohFlit_keeps.mem_eq rfl

theorem memFlits_mem {a b op l n : Nat} : (memFlits a b op l n bs s).mem = s.mem := memFlits_keeps.mem_eq rfl

theorem getDir_congr {l : Nat} (h : t.mem = s.mem) : getDir t l = getDir s l := by rw [getDir, getDir, h]

theorem serveRead_served (h : (getDir s line).held = 0) : ReadServed die line s (serveRead die line s) := by
  have hcoh : (getDir (cohFlit die (lineHome line) 1 line s) line).held = 0 := by rwa [getDir_congr cohFlit_mem]
  have hrecall : Same stores s (recallLine line (cohFlit die (lineHome line) 1 line s)) :=
    (same_stores_of_mem cohFlit_mem).trans (recallLine_unheld_stores hcoh)
  have hroom : LineWork (· ≠ line) (recallLine line (cohFlit die (lineHome line) 1 line s)) (readSent die line s) :=
    ((memFlits_keeps.lineWork rfl).trans allocDir_lineWork).trans nextUse_lineWork
  obtain ⟨used, heq⟩ := serveRead_eq (die := die) (line := line) (s := s)
  rw [heq]
  generalize readSent die line s = v at hroom heq
  have hdir : getDir { setDir line { held := setBitTo (getDir v line).held die true, owned := false, used := used } v with
      mem := { (setDir line { held := setBitTo (getDir v line).held die true, owned := false, used := used } v).mem with
        fills := v.mem.fills ++ [(die, line, false)] } } line = { held := setBitTo (getDir v line).held die true, owned := false, used := used } :=
    getDir_setDir.trans (if_pos rfl)
  exact
    { bytes := fun a ha => (hroom.bytes a fun hne => hne ha).trans hrecall.getMem_eq
      poison := fun p hp => (hroom.poison p fun hne => hne hp).trans hrecall.poisoned_eq
      held := by
        rw [hdir, testBit_setBitTo, if_pos rfl]
      owned := by rw [hdir]
      fill := fun hnone => by
        have hkeys : fillKeys v = fillKeys s := by
          rw [hroom.fills, fillKeys, fillKeys, recallLine_unheld_fills hcoh, cohFlit_mem]
        have hfind := fills_find?_none hnone hkeys
        exact (List.find?_append).trans (by rw [hfind]; simp) }

/-- The home has granted a line for write and has room for its directory entry. -/
def ownGranted (die line : Nat) (s : State) : State :=
  (nextUse (allocDir line (memFlits (lineHome line) die 2 (128 * line) 128
    (memBytes (invalidate line (some die) (cohFlit die (lineHome line) 2 line s)) (128 * line) 128)
    (invalidate line (some die) (cohFlit die (lineHome line) 2 line s))))).2

theorem serveOwn_eq : ∃ used, serveOwn die line s =
    installLine die line .exclusive (setDir line { held := 2 ^ die, owned := true, used := used } (ownGranted die line s)) := ⟨_, rfl⟩

/-- What a line granted for write leaves: its new owner alone. -/
structure OwnServed (die line : Nat) (s t : State) : Prop where
  owner : ∃ c, findLine t die line = some c ∧ c.st = .exclusive ∧ c.data.length = 128
  held : (getDir t line).held = 2 ^ die
  owned : (getDir t line).owned = true
  others : ∀ d, d < 4 → d ≠ die → (getDir s line).held.testBit d = true → findLine t d line = none

theorem exclusive_ne_noLine {c : CacheLine} (h : c.st = .exclusive) : c ≠ noLine := by
  rintro rfl
  exact absurd h (by decide)

theorem serveOwn_served (hl : line < 2 ^ 33) : OwnServed die line s (serveOwn die line s) := by
  obtain ⟨used, heq⟩ := serveOwn_eq (die := die) (line := line) (s := s)
  obtain ⟨v, hv, hinst⟩ := installLine_eq (die := die) (line := line) (st := .exclusive)
    (s := setDir line { held := 2 ^ die, owned := true, used := used } (ownGranted die line s))
  rw [heq, hinst]
  have hdir : getDir v line = { held := 2 ^ die, owned := true, used := used } :=
    (hv.dir line fun hne => hne rfl).trans (getDir_setDir.trans (if_pos rfl))
  refine ⟨⟨_, findLine_putLine_same (exclusive_ne_noLine rfl), rfl, length_memBytes⟩, congrArg DirEntry.held hdir, congrArg DirEntry.owned hdir,
    fun d hd hne hheld => ?_⟩
  have hinv : findLine (invalidate line (some die) (cohFlit die (lineHome line) 2 line s)) d line = none :=
    invalidate_drops hd (by rwa [getDir_congr cohFlit_mem]) (by simpa using hne)
  have hgrant : LineWork (· ≠ line) (invalidate line (some die) (cohFlit die (lineHome line) 2 line s)) (ownGranted die line s) :=
    ((memFlits_keeps.lineWork rfl).trans allocDir_lineWork).trans nextUse_lineWork
  have hnone : findLine v d line = none := hv.dropped (hgrant.dropped hinv)
  rw [findLine_eq, cached_putLine (exclusive_ne_noLine rfl), if_neg fun hk => hne (cacheKey_inj hl hl hk).1]
  exact hnone

/-! ### Writes at the home (R251, R255) -/

/-- Every holder of the lines is invalidated. -/
def linesCleared (ls : List Nat) (s : State) : State := each ls (fun l => invalidate l none) s

/-- A half is covered whole by a range. -/
def covers (dpa n h : Nat) : Prop := dpa ≤ 32 * h ∧ 32 * h + 32 ≤ dpa + n

/-- The part of a range of bytes that lies in a half. -/
def partOf (dpa : Nat) (bs : List Byte) (h : Nat) : List Byte :=
  slice bs (max dpa (32 * h) - dpa) (min (dpa + bs.length) (32 * h + 32) - max dpa (32 * h))

/-- The step of a home's write at one half. -/
def halfStep (dpa : Nat) (bs : List Byte) (acc : State × Bool) (h : Nat) : State × Bool :=
  if min (dpa + bs.length) (32 * h + 32) - max dpa (32 * h) = 32 then
    (putMem (max dpa (32 * h)) (partOf dpa bs h) (setPoison h false acc.1), acc.2)
  else if poisoned acc.1 h then (acc.1, true)
  else (putMem (max dpa (32 * h)) (partOf dpa bs h) acc.1, acc.2)

theorem homeWrite_eq {src : Nat} : homeWrite src dpa bs s = (halvesOf dpa bs.length).foldl (halfStep dpa bs)
    (linesCleared (linesOf dpa bs.length) (memFlits src (stackOf dpa) 1 dpa bs.length bs s), false) := rfl

/-- The halves of a list that a range of bytes meets hold its bytes. -/
structure HalvesPut (hs : List Nat) (dpa : Nat) (bs : List Byte) (s t : State) : Prop where
  within : ∀ a, dpa ≤ a → a < dpa + bs.length → a / 32 ∈ hs → getMem t a = (bs[a - dpa]?).getD 0
  outside : ∀ a, a < dpa ∨ dpa + bs.length ≤ a ∨ a / 32 ∉ hs → getMem t a = getMem s a
  clean : ∀ h, h ∈ hs → covers dpa bs.length h → poisoned t h = false
  poison : ∀ h, poisoned t h = poisoned s h ∨ (h ∈ hs ∧ covers dpa bs.length h ∧ poisoned t h = false)
  rest : t.mem = { s.mem with hbm := t.mem.hbm, poison := t.mem.poison }

theorem length_partOf : (partOf dpa bs h).length = min (dpa + bs.length) (32 * h + 32) - max dpa (32 * h) := by
  rw [partOf, slice, List.length_take, List.length_drop]
  omega

theorem getElem?_partOf (hlo : max dpa (32 * h) ≤ a) (hhi : a < min (dpa + bs.length) (32 * h + 32)) :
    (partOf dpa bs h)[a - max dpa (32 * h)]? = bs[a - dpa]? := by
  rw [partOf, slice, List.getElem?_take_of_lt (by omega), List.getElem?_drop]
  congr 1
  omega

/-- A half that its bytes reach: read afterwards. -/
theorem getMem_putPart (hu : ∀ a, getMem u a = getMem s a) : getMem (putMem (max dpa (32 * h)) (partOf dpa bs h) u) a =
    if dpa ≤ a ∧ a < dpa + bs.length ∧ a / 32 = h then (bs[a - dpa]?).getD 0 else getMem s a := by
  rw [getMem_putMem, length_partOf]
  by_cases hin : dpa ≤ a ∧ a < dpa + bs.length ∧ a / 32 = h
  · rw [if_pos hin, if_pos (by omega), getElem?_partOf (by omega) (by omega)]
  · rw [if_neg hin, if_neg (by omega), hu]

theorem halfStep_put {acc : State × Bool} (hgood : covers dpa bs.length h ∨ poisoned acc.1 h = false) :
    HalvesPut [h] dpa bs acc.1 (halfStep dpa bs acc h).1 ∧ (halfStep dpa bs acc h).2 = acc.2 := by
  have hread : ∀ u, (∀ a, getMem u a = getMem acc.1 a) → ∀ a, getMem (putMem (max dpa (32 * h)) (partOf dpa bs h) u) a =
      if dpa ≤ a ∧ a < dpa + bs.length ∧ a / 32 = h then (bs[a - dpa]?).getD 0 else getMem acc.1 a := fun u hu a => getMem_putPart hu
  have hcover : covers dpa bs.length h ↔ min (dpa + bs.length) (32 * h + 32) - max dpa (32 * h) = 32 := by
    unfold covers
    omega
  unfold halfStep
  by_cases hfull : covers dpa bs.length h
  · rw [if_pos (hcover.mp hfull)]
    have hpoison : ∀ k, poisoned (putMem (max dpa (32 * h)) (partOf dpa bs h) (setPoison h false acc.1)) k =
        if k = h then false else poisoned acc.1 k := fun _ => poisoned_putMem.trans poisoned_setPoison
    refine ⟨⟨fun a hlo hhi ha => ?_, fun a ha => ?_, fun k hk _ => ?_, fun k => ?_, rfl⟩, rfl⟩
    · exact (hread (setPoison h false acc.1) (fun _ => rfl) a).trans (if_pos ⟨hlo, hhi, by simpa using ha⟩)
    · refine (hread (setPoison h false acc.1) (fun _ => rfl) a).trans (if_neg ?_)
      rw [List.mem_singleton] at ha
      omega
    · rw [hpoison, if_pos (by simpa using hk)]
    · rw [hpoison]
      by_cases hk : k = h
      · exact .inr ⟨by simpa using hk, hk ▸ hfull, if_pos hk⟩
      · exact .inl (if_neg hk)
  · have hgood' : poisoned acc.1 h = false := hgood.resolve_left hfull
    rw [if_neg fun he => hfull (hcover.mpr he), if_neg (by simp [hgood'])]
    refine ⟨⟨fun a hlo hhi ha => ?_, fun a ha => ?_, fun k hk hc => ?_, fun k => .inl poisoned_putMem, rfl⟩, rfl⟩
    · exact (hread acc.1 (fun _ => rfl) a).trans (if_pos ⟨hlo, hhi, by simpa using ha⟩)
    · refine (hread acc.1 (fun _ => rfl) a).trans (if_neg ?_)
      rw [List.mem_singleton] at ha
      omega
    · rw [List.mem_singleton] at hk
      exact absurd (hk ▸ hc) hfull

theorem HalvesPut.cons {hs : List Nat} (a : HalvesPut [h] dpa bs s t) (b : HalvesPut hs dpa bs t u) : HalvesPut (h :: hs) dpa bs s u where
  within x hlo hhi hx := by
    by_cases hmem : x / 32 ∈ hs
    · exact b.within x hlo hhi hmem
    · rw [b.outside x (.inr (.inr hmem))]
      refine a.within x hlo hhi ?_
      simpa [hmem] using hx
  outside x hx := by
    rw [b.outside x (by simp only [List.mem_cons, not_or] at hx; tauto), a.outside x (by simp only [List.mem_cons, not_or] at hx ⊢; tauto)]
  clean k hk hc := by
    rcases b.poison k with he | ⟨-, -, he⟩
    · by_cases hmem : k ∈ hs
      · exact b.clean k hmem hc
      · rw [he]
        exact a.clean k (by simpa [hmem] using hk) hc
    · exact he
  poison k := by
    rcases b.poison k with he | ⟨hk, hc, he⟩
    · rcases a.poison k with he' | ⟨hk, hc, he'⟩
      · exact .inl (he.trans he')
      · exact .inr ⟨by simp only [List.mem_singleton] at hk; simp [hk], hc, he.trans he'⟩
    · exact .inr ⟨List.mem_cons_of_mem h hk, hc, he⟩
  rest := by rw [b.rest, a.rest]

theorem halves_put {hs : List Nat} {b : Bool} (hgood : ∀ h ∈ hs, covers dpa bs.length h ∨ poisoned s h = false) :
    HalvesPut hs dpa bs s (hs.foldl (halfStep dpa bs) (s, b)).1 ∧ (hs.foldl (halfStep dpa bs) (s, b)).2 = b := by
  induction hs generalizing s b with
  | nil => exact ⟨⟨fun _ _ _ h => by simp at h, fun _ _ => rfl, fun _ h => by simp at h, fun _ => .inl rfl, rfl⟩, rfl⟩
  | cons h hs ih =>
    obtain ⟨hput, hflag⟩ := halfStep_put (acc := (s, b)) (hgood h List.mem_cons_self)
    have hgood' : ∀ k ∈ hs, covers dpa bs.length k ∨ poisoned (halfStep dpa bs (s, b) h).1 k = false := by
      intro k hk
      rcases hgood k (List.mem_cons_of_mem h hk) with hc | hp
      · exact .inl hc
      · rcases hput.poison k with he | ⟨-, hc, -⟩
        · exact .inr (he.trans hp)
        · exact .inl hc
    obtain ⟨hrest, hflag'⟩ := ih (s := (halfStep dpa bs (s, b) h).1) (b := (halfStep dpa bs (s, b) h).2) hgood'
    exact ⟨hput.cons hrest, hflag'.trans hflag⟩

theorem linesCleared_lineWork {ls : List Nat} : LineWork (· ∈ ls) s (linesCleared ls s) :=
  each_preserves_mem (P := LineWork (· ∈ ls) s) (.refl s) fun _ hl _ hv => hv.trans (invalidate_lineWork.weaken fun _ he => he ▸ hl)

/-- Clearing a line that no cache holds, among others, moves none of its bytes. -/
theorem linesCleared_unheld {ls : List Nat} (h : (getDir s (a / 128)).held = 0) : getMem (linesCleared ls s) a = getMem s a := by
  have hinv : (getDir (linesCleared ls s) (a / 128)).held = 0 ∧ getMem (linesCleared ls s) a = getMem s a := by
    refine each_preserves (P := fun v => (getDir v (a / 128)).held = 0 ∧ getMem v a = getMem s a) ⟨h, rfl⟩ fun l v hv => ?_
    by_cases hl : a / 128 = l
    · subst hl
      exact ⟨by rw [getDir_invalidate_none]; rfl, (invalidate_unheld hv.1).getMem_eq.trans hv.2⟩
    · exact ⟨by rw [invalidate_lineWork.dir _ hl, hv.1], (invalidate_lineWork.bytes _ hl).trans hv.2⟩
  exact hinv.2

theorem linesCleared_dir {ls : List Nat} : ∀ l ∈ ls, getDir (linesCleared ls s) l = noDir := by
  refine each_establishes (P := fun l v => getDir v l = noDir) (fun _ _ => getDir_invalidate_none) fun l k v hk => ?_
  by_cases hlk : k = l
  · subst hlk
    exact getDir_invalidate_none
  · rwa [invalidate_lineWork.dir k hlk]

/-- What a write at the home of a range of bytes leaves. -/
structure RangeWritten (dpa : Nat) (bs : List Byte) (s t : State) : Prop where
  within : ∀ i, i < bs.length → getMem t (dpa + i) = (bs[i]?).getD 0
  outside : ∀ a, a < dpa ∨ dpa + bs.length ≤ a → a / 128 ∉ linesOf dpa bs.length ∨ (getDir s (a / 128)).held = 0 → getMem t a = getMem s a
  clean : ∀ h ∈ halvesOf dpa bs.length, covers dpa bs.length h → poisoned t h = false
  good : ∀ h, poisoned s h = false → poisoned t h = false
  dir : ∀ l, getDir t l = if l ∈ linesOf dpa bs.length then noDir else getDir s l
  drops : ∀ k, cached s k = none → cached t k = none

theorem HalvesPut.dir {hs : List Nat} (h : HalvesPut hs dpa bs s t) {l : Nat} : getDir t l = getDir s l := by
  rw [getDir, getDir, h.rest]

theorem HalvesPut.cached_eq {hs : List Nat} (h : HalvesPut hs dpa bs s t) : cached t k = cached s k := by
  rw [cached, cached, h.rest]

/-- A write at the home whose partial halves are good. -/
theorem homeWrite_written {src : Nat} (hgood : ∀ h ∈ halvesOf dpa bs.length, covers dpa bs.length h ∨ poisoned s h = false) :
    RangeWritten dpa bs s (homeWrite src dpa bs s).1 ∧ (homeWrite src dpa bs s).2 = false := by
  have hmem : (memFlits src (stackOf dpa) 1 dpa bs.length bs s).mem = s.mem := memFlits_mem
  rw [homeWrite_eq]
  have hstores := same_stores_of_mem hmem
  have hclear := linesCleared_lineWork (s := memFlits src (stackOf dpa) 1 dpa bs.length bs s) (ls := linesOf dpa bs.length)
  have hdir := linesCleared_dir (s := memFlits src (stackOf dpa) 1 dpa bs.length bs s) (ls := linesOf dpa bs.length)
  have hunheld := fun a => linesCleared_unheld (a := a) (s := memFlits src (stackOf dpa) 1 dpa bs.length bs s) (ls := linesOf dpa bs.length)
  generalize linesCleared (linesOf dpa bs.length) (memFlits src (stackOf dpa) 1 dpa bs.length bs s) = v at hclear hdir hunheld
  have hgood' : ∀ h, poisoned s h = false → poisoned v h = false := fun h hp => hclear.good h (hstores.poisoned_eq.trans hp)
  obtain ⟨hput, hflag⟩ := halves_put (s := v) (b := false) fun h hh => (hgood h hh).imp_right (hgood' h)
  refine ⟨⟨fun i hi => ?_, fun a ha hl => ?_, fun h hh hc => hput.clean h hh hc, fun h hp => ?_, fun l => ?_, fun k hk => ?_⟩, hflag⟩
  · rw [hput.within (dpa + i) (by omega) (by omega) (mem_halvesOf.mpr ⟨by omega, by omega, by omega⟩), Nat.add_sub_cancel_left]
  · rw [hput.outside a (ha.imp_right .inl)]
    rcases hl with hl | hl
    · exact (hclear.bytes a hl).trans hstores.getMem_eq
    · exact (hunheld a (by rwa [getDir_congr hmem])).trans hstores.getMem_eq
  · rcases hput.poison h with he | ⟨-, -, he⟩
    · exact he.trans (hgood' h hp)
    · exact he
  · rw [hput.dir]
    split
    · next hl => exact hdir l hl
    · next hl => rw [hclear.dir l hl, getDir_congr hmem]
  · rw [hput.cached_eq]
    refine hclear.drops k ?_
    rw [cached, hmem]
    exact hk

/-! ### Decoding (R250, R251) -/

/-- What the controller finds in a half whose 36 bytes came out different by `e`. -/
def halfWord (s : State) (h : Nat) (e : List Byte) : Option (List Byte × Bool) :=
  if e.all (fun b => decide (b = 0)) then some (memBytes s (32 * h) 32, false)
  else eccDecode (xorBytes (memBytes s (32 * h) 32 ++ eccBytes (memBytes s (32 * h) 32)) (padTo 36 e))

theorem Same.halfWord_eq {e : List Byte} (hs : Same stores s t) : halfWord t h e = halfWord s h e := by
  rw [halfWord, halfWord, hs.memBytes_eq]

theorem halfWord_nil : halfWord s h [] = some (memBytes s (32 * h) 32, false) := rfl

theorem length_updAt {α : Type} {l : List α} {f : α → α} : (updAt l k f).length = l.length := by
  unfold updAt
  split
  · rfl
  · exact List.length_set

theorem length_rsDecode {m : Nat} {word fixed : List Nat} (h : rsDecode m word = some (fixed, n)) : fixed.length = word.length := by
  have hfold : ∀ (errs : List (Nat × Nat)) (w : List Nat),
      (errs.foldl (fun w x => updAt w x.1 (fun y => y ^^^ x.2)) w).length = w.length := fun errs w => by
    induction errs generalizing w with
    | nil => rfl
    | cons e errs ih => rw [List.foldl_cons, ih, length_updAt]
  unfold rsDecode at h
  dsimp only at h
  split at h
  · rw [Option.some.injEq, Prod.mk.injEq] at h
    rw [← h.1]
  · split at h
    · simp at h
    · split at h
      · split at h
        · rw [Option.some.injEq, Prod.mk.injEq] at h
          rw [← h.1, hfold]
        · simp at h
      · simp at h

theorem length_eccBytes {bs : List Byte} : (eccBytes bs).length = 4 := by
  have hstep : ∀ gen reg : List Nat, ∀ d, gen.length = 4 → reg.length = 4 → (rsStep gen reg d).length = 4 := by
    intro gen reg d hg hr
    unfold rsStep
    split
    · exact hr
    · rw [List.length_zipWith, List.length_append, hg]
      simp only [List.length_cons, List.length_nil] at hr ⊢
      omega
  have hfold : ∀ (data : List Nat) (reg gen : List Nat), gen.length = 4 → reg.length = 4 → (data.foldl (rsStep gen) reg).length = 4 := by
    intro data
    induction data with
    | nil => intro reg gen _ hr; exact hr
    | cons d data ih => intro reg gen hg hr; exact ih _ gen hg (hstep gen reg d hg hr)
  rw [eccBytes, natBytes, List.length_map, rsParity]
  exact hfold _ _ _ (by decide) (by decide)

/-- A corrected half has its 32 bytes. -/
theorem length_corrected {e d : List Byte} (hw : halfWord s h e = some (d, true)) : d.length = 32 := by
  unfold halfWord at hw
  split at hw
  · simp at hw
  · unfold eccDecode at hw
    split at hw
    · next w n hdec =>
      have hlen := length_rsDecode hdec
      rw [bytesNat, List.length_map, xorBytes, List.length_zipWith, List.length_append, length_memBytes, length_eccBytes, padTo,
        List.length_append, List.length_take, List.length_replicate] at hlen
      split at hw
      · rw [Option.some.injEq, Prod.mk.injEq] at hw
        rw [← hw.1, natBytes, List.length_map, List.length_take]
        omega
      · simp at hw
    · simp at hw

section
variable {purpose who : Nat} {scrub raced : Bool} {e : List Byte}

theorem decodeHalf_clean {d : List Byte} (hp : poisoned s h = false) (hw : halfWord s h e = some (d, false)) :
    decodeHalf h purpose die who scrub raced e s = (s, false) := by
  unfold decodeHalf
  rw [hp]
  unfold halfWord at hw
  split at hw
  · next hall => rw [if_neg Bool.false_ne_true, if_pos hall]
  · next hall =>
    simp only [hall, hw]
    rfl

theorem decodeHalf_corrected {d : List Byte} (hp : poisoned s h = false) (hw : halfWord s h e = some (d, true)) :
    decodeHalf h purpose die who scrub raced e s = (memCorr (32 * h) scrub (if raced then s else putMem (32 * h) d s), false) := by
  unfold decodeHalf
  rw [hp]
  unfold halfWord at hw
  split at hw
  · simp at hw
  · next hall =>
    simp only [hall, hw]
    rfl

/-- A half that is poisoned, or becomes so. -/
theorem decodeHalf_bad (hbad : poisoned s h = true ∨ halfWord s h e = none) : ∃ u, (u = s ∨ u = setPoison h true s) ∧
    (raced = false → poisoned u h = true) ∧ decodeHalf h purpose die who scrub raced e s = (memUncorr (32 * h) purpose die who scrub u, true) := by
  unfold decodeHalf
  by_cases hp : poisoned s h = true
  · exact ⟨s, .inl rfl, fun _ => hp, by rw [if_pos hp]⟩
  · have hw := hbad.resolve_left hp
    rw [if_neg hp]
    unfold halfWord at hw
    split at hw
    · simp at hw
    · next hall =>
      refine ⟨if raced then s else setPoison h true s, ?_, fun hr => ?_, ?_⟩
      · cases raced
        · exact .inr rfl
        · exact .inl rfl
      · subst hr
        exact poisoned_setPoison.trans (if_pos rfl)
      · simp only [hall, hw]
        rfl

end

/-! ### Reports of corrected and uncorrectable halves (R251 to R254) -/

theorem stackOf_lt : stackOf a < 4 := by
  unfold stackOf
  split <;> omega

theorem logMem_bit {purpose : Nat} {scrub : Bool} : (getReg (logMem a purpose die scrub s) (0x3040 + 16 * stackOf a)).testBit 0 = true := by
  unfold logMem
  dsimp only
  split
  · next hbit =>
    rw [getReg_orReg_same, Nat.testBit_mod_two_pow, Nat.testBit_or, hbit]
    rfl
  · rw [getReg_setReg_other (by omega), getReg_setReg_other (by omega), getReg_setReg_same, Nat.testBit_mod_two_pow, Nat.testBit_zero]
    have heven : (getReg s (0x3040 + 16 * stackOf a) &&& 2).testBit 0 = false := by simp
    rw [Nat.testBit_zero, decide_eq_false_iff_not] at heven
    simp only [decide_true, Nat.zero_lt_succ, Bool.true_and, decide_eq_true_eq]
    omega

theorem memUncorr_counted {purpose who : Nat} {scrub : Bool} :
    Counted (2328 + 10 * stackOf a + (if scrub then 3 else 1)) 1 s (memUncorr a purpose die who scrub s) := by
  have hidx : 2328 + 10 * stackOf a + (if scrub then 3 else 1) ≠ 64 := by omega
  exact (raiseOn_cnt hidx).trans ((congrArg _ (logMem_keeps.at .cnt rfl)).trans (bump_counted hidx))

theorem memUncorr_bit {purpose who : Nat} {scrub : Bool} :
    (getReg (memUncorr a purpose die who scrub s) (0x3040 + 16 * stackOf a)).testBit 0 = true := by
  have hreg := fun u => (raiseOn_keeps (a0 := stackOf a) (a1 := 0x0901) (a2 := stackOf a) (a3 := a)
    (a4 := a / 2 ^ 32 % 256 + 256 * purpose + 4096 * (if purpose = 3 then 0 else die) + 65536 * b2n scrub) (a5 := who) (s := u)).getReg_eq
    (off := 0x3040 + 16 * stackOf a) rfl
  exact (congrArg (fun r => Nat.testBit r 0) (hreg _)).trans logMem_bit

theorem memUncorr_mem {purpose who : Nat} {scrub : Bool} : (memUncorr a purpose die who scrub s).mem = s.mem := memUncorr_keeps.mem_eq rfl

theorem memUncorr_other {purpose who : Nat} {scrub : Bool} (h : i ≠ 64) (hi : i ≠ 2328 + 10 * stackOf a + (if scrub then 3 else 1)) :
    tget 0 i (memUncorr a purpose die who scrub s).cnt = tget 0 i s.cnt :=
  (raiseOn_cnt h).trans ((congrArg _ (logMem_keeps.at .cnt rfl)).trans (bump_other hi h s))

theorem counted_ite {p : Prop} [Decidable p] (ht : Counted i n s t) (hu : Counted i n s u) : Counted i n s (if p then t else u) := by
  split <;> assumption

/-- A corrected half is counted; memory and its poison stay. -/
theorem memCorr_counted {scrub : Bool} : Counted (2328 + 10 * stackOf a + (if scrub then 2 else 0)) 1 s (memCorr a scrub s) := by
  have hidx : 2328 + 10 * stackOf a + (if scrub then 2 else 0) ≠ 64 := by omega
  exact counted_ite ((raiseOn_cnt hidx).trans (bump_counted hidx)) (bump_counted hidx)

theorem memCorr_stores {scrub : Bool} : Same stores s (memCorr a scrub s) := by
  have hbump : Same stores s (bump (2328 + 10 * stackOf a + (if scrub then 2 else 0)) 1 s) := same_stores_of_mem (bump_keeps.mem_eq rfl)
  refine same_ite (Same.trans ?_ (same_stores_of_mem (raiseOn_keeps.mem_eq rfl))) ?_
  · exact hbump
  · exact hbump

/-! ### Reads at the home (R252, R255) -/

theorem decodeHalves_cons {purpose who : Nat} {hs bad : List Nat} {errs : List (Nat × List Byte)} {b : Bool}
    (hhalf : decodeHalf h purpose die who false false (((errs.find? (fun e => e.1 = h)).map Prod.snd).getD []) s = (v, b))
    (hrest : decodeHalves purpose die who errs hs v = (u, bad)) :
    decodeHalves purpose die who errs (h :: hs) s = (u, if b then h :: bad else bad) := by
  rw [decodeHalves, hhalf]
  dsimp only
  rw [hrest]

/-- A half that comes out as it was stored is bad where it is poisoned, and only a report follows. -/
theorem decodeHalf_reports {purpose who : Nat} : ∃ u, decodeHalf h purpose die who false false [] s = (u, poisoned s h) ∧ u.mem = s.mem := by
  by_cases hp : poisoned s h = true
  · exact ⟨_, by rw [decodeHalf, if_pos hp, hp], memUncorr_mem⟩
  · rw [Bool.not_eq_true] at hp
    exact ⟨s, by rw [decodeHalf_clean hp halfWord_nil, hp], rfl⟩

/-- Halves that come out as they were stored: the poisoned ones are bad, and only reports follow. -/
theorem decodeHalves_reports {purpose who : Nat} {hs : List Nat} :
    ∃ u, decodeHalves purpose die who [] hs s = (u, hs.filter (fun h => poisoned s h)) ∧ u.mem = s.mem := by
  induction hs generalizing s with
  | nil => exact ⟨s, rfl, rfl⟩
  | cons h hs ih =>
    obtain ⟨v, hhalf, hv⟩ := decodeHalf_reports (h := h) (s := s) (purpose := purpose) (die := die) (who := who)
    obtain ⟨u, hrest, hu⟩ := ih (s := v)
    have hsame : hs.filter (fun k => poisoned v k) = hs.filter (fun k => poisoned s k) :=
      List.filter_congr fun k _ => (same_stores_of_mem hv).poisoned_eq
    rw [hsame] at hrest
    exact ⟨u, by rw [decodeHalves_cons hhalf hrest, List.filter_cons], hu.trans hv⟩

theorem recallLine_unheld_held (h : (getDir s line).held = 0) {l : Nat} : (getDir (recallLine line s) l).held = (getDir s l).held := by
  rw [recallLine_unheld h]
  split
  · rw [getDir_setDir]
    split
    · next hl => rw [hl]
    · rfl
  · rfl

/-- What a read at the home answers, where nothing comes out different: zeros in the poisoned halves. -/
def homeBytes (s : State) (dpa n : Nat) : List Byte :=
  (List.range n).map fun i => if poisoned s ((dpa + i) / 32) then 0 else getMem s (dpa + i)

theorem homeRead_read (hheld : ∀ l ∈ linesOf dpa n, (getDir s l).held = 0) :
    ∃ u, homeRead dpa n [] s = (u, homeBytes s dpa n, (halvesOf dpa n).any (fun h => poisoned s h)) ∧ Same stores s u := by
  have hrecall : Same stores s (each (linesOf dpa n) recallLine (memFlits 4 (stackOf dpa) 0 dpa n [] s)) ∧
      ∀ l, (getDir (each (linesOf dpa n) recallLine (memFlits 4 (stackOf dpa) 0 dpa n [] s)) l).held = (getDir s l).held := by
    refine each_preserves_mem (P := fun v => Same stores s v ∧ ∀ l, (getDir v l).held = (getDir s l).held)
      ⟨same_stores_of_mem memFlits_mem, fun l => by rw [getDir_congr memFlits_mem]⟩ fun l hl v hv => ?_
    have hv0 : (getDir v l).held = 0 := (hv.2 l).trans (hheld l hl)
    exact ⟨hv.1.trans (recallLine_unheld_stores hv0), fun k => (recallLine_unheld_held hv0).trans (hv.2 k)⟩
  obtain ⟨u, hdec, hu⟩ := decodeHalves_reports (purpose := 3) (die := 0) (who := 0) (hs := halvesOf dpa n)
    (s := each (linesOf dpa n) recallLine (memFlits 4 (stackOf dpa) 0 dpa n [] s))
  have heq : homeRead dpa n [] s =
      (memFlits (stackOf dpa) 4 2 dpa n ((List.range n).map (fun i =>
          if (dpa + i) / 32 ∈ (decodeHalves 3 0 0 [] (halvesOf dpa n) (each (linesOf dpa n) recallLine (memFlits 4 (stackOf dpa) 0 dpa n [] s))).2
          then 0 else getMem (decodeHalves 3 0 0 [] (halvesOf dpa n) (each (linesOf dpa n) recallLine (memFlits 4 (stackOf dpa) 0 dpa n [] s))).1
            (dpa + i)))
          (decodeHalves 3 0 0 [] (halvesOf dpa n) (each (linesOf dpa n) recallLine (memFlits 4 (stackOf dpa) 0 dpa n [] s))).1,
        (List.range n).map (fun i =>
          if (dpa + i) / 32 ∈ (decodeHalves 3 0 0 [] (halvesOf dpa n) (each (linesOf dpa n) recallLine (memFlits 4 (stackOf dpa) 0 dpa n [] s))).2
          then 0 else getMem (decodeHalves 3 0 0 [] (halvesOf dpa n) (each (linesOf dpa n) recallLine (memFlits 4 (stackOf dpa) 0 dpa n [] s))).1
            (dpa + i)),
        !(decodeHalves 3 0 0 [] (halvesOf dpa n) (each (linesOf dpa n) recallLine (memFlits 4 (stackOf dpa) 0 dpa n [] s))).2.isEmpty) := rfl
  have hsu : Same stores s u := hrecall.1.trans (same_stores_of_mem hu)
  have hbad : (halvesOf dpa n).filter (fun h => poisoned (each (linesOf dpa n) recallLine (memFlits 4 (stackOf dpa) 0 dpa n [] s)) h) =
      (halvesOf dpa n).filter (fun h => poisoned s h) := List.filter_congr fun k _ => hrecall.1.poisoned_eq
  rw [hbad] at hdec
  rw [heq, hdec]
  have hbytes : ((List.range n).map fun i => if (dpa + i) / 32 ∈ (halvesOf dpa n).filter (fun h => poisoned s h) then 0 else getMem u (dpa + i)) =
      homeBytes s dpa n := by
    refine List.map_congr_left fun i hi => ?_
    have hmem : (dpa + i) / 32 ∈ halvesOf dpa n := by
      rw [List.mem_range] at hi
      exact mem_halvesOf.mpr ⟨by omega, by omega, by omega⟩
    simp only [List.mem_filter, hmem, true_and, hsu.getMem_eq]
  refine ⟨_, Prod.ext rfl (Prod.ext hbytes ?_), hsu.trans (same_stores_of_mem memFlits_mem)⟩
  dsimp only
  rw [Bool.eq_iff_iff]
  simp

theorem homeBytes_clean (h : ∀ k ∈ halvesOf dpa n, poisoned s k = false) : homeBytes s dpa n = memBytes s dpa n := by
  refine List.map_congr_left fun i hi => ?_
  rw [List.mem_range] at hi
  rw [h _ (mem_halvesOf.mpr ⟨by omega, by omega, by omega⟩), if_neg Bool.false_ne_true]

end Sys2Proof.Machine
end

section

/-!
PROOF. HBM_READ: a hit of the remote cache, a read at home, an unmapped address and a fill (O45).
-/

namespace Sys2Proof.Machine

variable {s t u v : State} {A n die dpa purpose owner : Nat} {e0 e1 bs : List Byte} {bad : List Nat}

/-! ### Delivered lines -/

/-- The data of a delivered line: zeros in its bad halves. -/
def lineData (A : Nat) (bad : List Nat) (bs : List Byte) : List Byte :=
  (if A / 32 + 0 ∈ bad then List.replicate 32 0#8 else padTo 32 (slice bs (32 * 0) 32)) ++
    (if A / 32 + 1 ∈ bad then List.replicate 32 0#8 else padTo 32 (slice bs (32 * 1) 32))

theorem deliverLine_eq : deliverLine die A purpose owner bad bs s =
    { s with mem := { s.mem with lines := tset Delivered.init die ⟨A, purpose, owner, lineData A bad bs⟩ s.mem.lines } } := rfl

theorem deliverLine_lines : (deliverLine die A purpose owner bad bs s).mem.lines =
    tset Delivered.init die { dpa := A, purpose := purpose, owner := owner, data := lineData A bad bs } s.mem.lines := rfl

theorem deliverLine_data : (tget Delivered.init die (deliverLine die A purpose owner bad bs s).mem.lines).data = lineData A bad bs := by
  rw [deliverLine_lines, tget_tset, if_pos rfl]

theorem padTo_of_length (h : bs.length = n) : padTo n bs = bs := by
  rw [padTo, h, Nat.sub_self, List.replicate_zero, List.append_nil, List.take_of_length_le (by omega)]

theorem length_slice {off len : Nat} (h : off + len ≤ bs.length) : (slice bs off len).length = len := by
  rw [slice, List.length_take, List.length_drop]
  omega

theorem slice_halves (h : bs.length = 64) : slice bs 0 32 ++ slice bs 32 32 = bs := by
  have htail : slice bs 32 32 = bs.drop 32 := List.take_of_length_le (by rw [List.length_drop]; omega)
  rw [htail, slice, List.drop_zero, List.take_append_drop]

/-- A line without bad halves is delivered as it is. -/
theorem lineData_good (h : bs.length = 64) : lineData A [] bs = bs := by
  unfold lineData
  rw [if_neg List.not_mem_nil, if_neg List.not_mem_nil, padTo_of_length (length_slice (by omega)), padTo_of_length (length_slice (by omega))]
  exact slice_halves h

theorem lineData_bad_first : lineData A [A / 32] bs = List.replicate 32 0#8 ++ padTo 32 (slice bs 32 32) := by
  unfold lineData
  rw [if_pos (by simp), if_neg (by simp)]

theorem lineData_bad_both : lineData A [A / 32, A / 32 + 1] bs = List.replicate 64 0#8 := by
  unfold lineData
  rw [if_pos (by simp), if_pos (by simp)]
  rfl

theorem slice_memBytes {off len : Nat} (h : off + len ≤ n) : slice (memBytes s dpa n) off len = memBytes s (dpa + off) len := by
  refine List.ext_getElem? fun i => ?_
  rw [slice, List.getElem?_take, List.getElem?_drop]
  split
  · next hi => rw [getElem?_memBytes (by omega), getElem?_memBytes hi, Nat.add_assoc]
  · next hi => rw [List.getElem?_eq_none (by rw [length_memBytes]; omega)]

theorem handleBad_nil : handleBad purpose owner [] s = s := rfl

theorem handleBad_cons {h : Nat} : handleBad purpose owner (h :: bad) s = poisonRead purpose owner s := rfl

/-! ### A read's cases -/

theorem hbmRead_unmapped (hA : A = dpa / 64 * 64) (h : reach s A = false) : hbmRead die dpa purpose owner e0 e1 s =
    poisonRead purpose owner (deliverLine die A purpose owner [A / 32, A / 32 + 1] [] (countHole A s)) := by
  subst hA
  unfold hbmRead
  dsimp only
  rw [h]
  rfl

theorem hbmRead_hit {c : CacheLine} (hA : A = dpa / 64 * 64) (h : reach s A = true) (hd : stackOf A ≠ die) (hp : purpose ≠ 3)
    (hc : findLine s die (A / 128) = some c) : hbmRead die dpa purpose owner e0 e1 s = cacheHit die A purpose owner c s := by
  subst hA
  unfold hbmRead
  dsimp only
  rw [if_neg (by simp [h]), decide_eq_true ⟨hd, hp⟩, if_pos rfl, hc]

/-- The decoding of a line's two halves. -/
def decodeLine (die A purpose : Nat) (e0 e1 : List Byte) (s : State) (who : Nat) : State × List Nat :=
  decodeHalves purpose die who [(A / 32, e0), (A / 32 + 1, e1)] [A / 32, A / 32 + 1] s

theorem decodeLine_eq {who : Nat} {b0 b1 : Bool} (h0 : decodeHalf (A / 32) purpose die who false false e0 s = (v, b0))
    (h1 : decodeHalf (A / 32 + 1) purpose die who false false e1 v = (u, b1)) : decodeLine die A purpose e0 e1 s who =
      (u, (if b0 then [A / 32] else []) ++ if b1 then [A / 32 + 1] else []) := by
  have hfst : ((([(A / 32, e0), (A / 32 + 1, e1)] : List (Nat × List Byte)).find? (fun e => e.1 = A / 32)).map Prod.snd).getD [] = e0 := by simp
  have hsnd : ((([(A / 32, e0), (A / 32 + 1, e1)] : List (Nat × List Byte)).find? (fun e => e.1 = A / 32 + 1)).map Prod.snd).getD [] = e1 := by simp
  have hlast : decodeHalves purpose die who [(A / 32, e0), (A / 32 + 1, e1)] [A / 32 + 1] v = (u, if b1 then [A / 32 + 1] else []) :=
    decodeHalves_cons (by rw [hsnd]; exact h1) rfl
  rw [decodeLine, decodeHalves_cons (by rw [hfst]; exact h0) hlast]
  cases b0
  · rfl
  · rfl

/-- A line read at home that no cache holds. -/
theorem hbmRead_home (hA : A = dpa / 64 * 64) (h : reach s A = true) (hd : stackOf A = die ∨ purpose = 3) (hheld : (getDir s (A / 128)).held = 0)
    (howned : (getDir s (A / 128)).owned = false) (hdec : decodeLine die A purpose e0 e1 s (uncorrWho s purpose owner) = (u, bad)) :
    hbmRead die dpa purpose owner e0 e1 s = handleBad purpose owner bad (deliverLine die A purpose owner bad (memBytes u A 64) u) := by
  subst hA
  unfold hbmRead
  dsimp only
  have hremote : decide (stackOf (dpa / 64 * 64) ≠ die ∧ purpose ≠ 3) = false := decide_eq_false (by tauto)
  rw [if_neg (by simp [h]), hremote]
  simp only [Bool.false_eq_true, if_false]
  rw [recallLine_idle hheld howned]
  rw [decodeLine] at hdec
  rw [hdec]

/-- A remote read of a line that its home has not sent yet. -/
theorem hbmRead_fill (hA : A = dpa / 64 * 64) (h : reach s A = true) (hd : stackOf A ≠ die) (hp : purpose ≠ 3)
    (hmiss : findLine s die (A / 128) = none) (hfills : s.mem.fills.any (fun f => decide (f.1 = die ∧ f.2.1 = A / 128)) = false)
    (hdec : ∀ w, decodeLine die A purpose e0 e1 (serveRead die (A / 128) (pmuDie die 9 1 (bump (2328 + 10 * die + 7) 1 s))) w =
      (serveRead die (A / 128) (pmuDie die 9 1 (bump (2328 + 10 * die + 7) 1 s)), []))
    (hfind : (serveRead die (A / 128) (pmuDie die 9 1 (bump (2328 + 10 * die + 7) 1 s))).mem.fills.find?
      (fun f => decide (f.1 = die ∧ f.2.1 = A / 128)) = some (die, A / 128, false))
    (hu : u = serveRead die (A / 128) (pmuDie die 9 1 (bump (2328 + 10 * die + 7) 1 s)))
    (hv : v = installLine die (A / 128) .shared { u with mem := { u.mem with fills := u.mem.fills.erase (die, A / 128, false) } }) :
    hbmRead die dpa purpose owner e0 e1 s = deliverLine die A purpose owner [] (memBytes v A 64) v := by
  subst hA
  unfold hbmRead
  dsimp only
  rw [if_neg (by simp [h]), decide_eq_true ⟨hd, hp⟩, if_pos rfl, hmiss]
  dsimp only
  rw [if_pos rfl, if_neg (by rw [hfills]; exact Bool.false_ne_true)]
  unfold decodeLine at hdec
  rw [hdec]
  dsimp only
  rw [if_pos rfl, hfind, hv, hu]
  rfl

/-! ### What each case leaves -/

/-- A line's use is recorded. -/
def lineTouched (die A : Nat) (c : CacheLine) (s : State) : State := putLine die (A / 128) { c with used := s.mem.useCtr + 1 } (nextUse s).2

/-- The line that serves a hit has been used, and the hit is counted. -/
def lineUsed (die A : Nat) (c : CacheLine) (s : State) : State := bump (2328 + 10 * die + 6) 1 (lineTouched die A c s)

theorem cacheHit_good {c : CacheLine} (h0 : c.bad.testBit (A / 32 % 4) = false) (h1 : c.bad.testBit ((A / 32 + 1) % 4) = false) :
    cacheHit die A purpose owner c s = deliverLine die A purpose owner []
      (if c.st = .modified then slice c.data (A % 128) 64 else memBytes (lineUsed die A c s) A 64) (lineUsed die A c s) := by
  have hbad : [A / 32, A / 32 + 1].filter (fun h => c.bad.testBit (h % 4)) = [] := by simp [h0, h1]
  unfold cacheHit
  rw [hbad]
  rfl

theorem cacheHit_bad {c : CacheLine} (h0 : c.bad.testBit (A / 32 % 4) = true) (h1 : c.bad.testBit ((A / 32 + 1) % 4) = false) :
    ∃ ds w, cacheHit die A purpose owner c s = poisonRead purpose owner (deliverLine die A purpose owner [A / 32] ds
      (memUncorr (32 * (A / 32)) purpose die w false (lineUsed die A c s))) := by
  have hbad : [A / 32, A / 32 + 1].filter (fun h => c.bad.testBit (h % 4)) = [A / 32] := by simp [h0, h1]
  unfold cacheHit
  rw [hbad]
  exact ⟨_, _, rfl⟩

theorem lineUsed_mem {c : CacheLine} : (lineUsed die A c s).mem = (lineTouched die A c s).mem := bump_keeps.mem_eq rfl

theorem lineTouched_stores {c : CacheLine} : Same stores s (lineTouched die A c s) := rfl

theorem lineTouched_cnt {c : CacheLine} : (lineTouched die A c s).cnt = s.cnt := rfl

theorem lineUsed_stores {c : CacheLine} : Same stores s (lineUsed die A c s) := lineTouched_stores.trans (same_stores_of_mem lineUsed_mem)

theorem lineUsed_counted {c : CacheLine} : Counted (2328 + 10 * die + 6) 1 s (lineUsed die A c s) :=
  .before (congrArg (tget 0 (2328 + 10 * die + 6)) lineTouched_cnt) (bump_counted (by omega))

theorem lineUsed_other {c : CacheLine} {i : Nat} (h : i ≠ 64) (hi : i ≠ 2328 + 10 * die + 6) :
    Same (count i) s (lineUsed die A c s) :=
  (bump_other hi h _).trans (congrArg (tget 0 i) lineTouched_cnt)

/-- The used line is not the value no line is ever put as: its use number is not 0. -/
theorem findLine_lineUsed {c : CacheLine} : findLine (lineUsed die A c s) die (A / 128) = some { c with used := s.mem.useCtr + 1 } := by
  have hput : findLine (lineTouched die A c s) die (A / 128) = some { c with used := s.mem.useCtr + 1 } := by
    refine findLine_putLine_same fun h => ?_
    have hused : s.mem.useCtr + 1 = 0 := congrArg CacheLine.used h
    omega
  rwa [findLine_eq, cached, lineUsed_mem]

/-! ### What each case leaves -/

theorem deliverLine_stores : Same stores s (deliverLine die A purpose owner bad bs s) := rfl

theorem countHole_counted : Counted (2328 + 10 * stackOf A + 9) 1 s (countHole A s) := bump_counted (by omega)

/-- A hit whose halves are good. -/
theorem hit_served {c : CacheLine} (h0 : c.bad.testBit (A / 32 % 4) = false) (h1 : c.bad.testBit ((A / 32 + 1) % 4) = false) :
    ∃ t, cacheHit die A purpose owner c s = t ∧ Counted (2328 + 10 * die + 6) 1 s t ∧
      findLine t die (A / 128) = some { c with used := s.mem.useCtr + 1 } ∧ Same stores s t ∧
      (c.st ≠ .modified → (tget Delivered.init die t.mem.lines).data = memBytes s A 64) := by
  refine ⟨_, cacheHit_good h0 h1, ?_, ?_, ?_, fun hm => ?_⟩
  · exact lineUsed_counted
  · exact findLine_lineUsed
  · exact lineUsed_stores.trans deliverLine_stores
  · rw [deliverLine_data, if_neg hm, lineUsed_stores.memBytes_eq, lineData_good length_memBytes]

theorem stackOf_half (hA : A % 32 = 0) : stackOf (32 * (A / 32)) = stackOf A := by
  rw [show 32 * (A / 32) = A by omega]

/-- A hit whose first half came poisoned. -/
theorem hit_poisoned {c : CacheLine} (hA : A % 32 = 0) (h0 : c.bad.testBit (A / 32 % 4) = true)
    (h1 : c.bad.testBit ((A / 32 + 1) % 4) = false) :
    ∃ u, cacheHit die A purpose owner c s = poisonRead purpose owner u ∧ Counted (2328 + 10 * die + 6) 1 s u ∧
      Counted (2328 + 10 * stackOf A + 1) 1 s u ∧ (getReg u (0x3040 + 16 * stackOf A)).testBit 0 = true ∧
      (tget Delivered.init die u.mem.lines).data.take 32 = List.replicate 32 0#8 ∧ (∀ a, getMem u a = getMem s a) ∧ u.msgs = s.msgs := by
  obtain ⟨ds, w, heq⟩ := cacheHit_bad (die := die) (purpose := purpose) (owner := owner) (s := s) h0 h1
  have hcnt := memUncorr_counted (a := 32 * (A / 32)) (purpose := purpose) (die := die) (who := w) (scrub := false) (s := lineUsed die A c s)
  have hbit := memUncorr_bit (a := 32 * (A / 32)) (purpose := purpose) (die := die) (who := w) (scrub := false) (s := lineUsed die A c s)
  have hother := memUncorr_other (a := 32 * (A / 32)) (purpose := purpose) (die := die) (who := w) (scrub := false) (s := lineUsed die A c s)
    (i := 2328 + 10 * die + 6) (by omega)
  rw [stackOf_half hA] at hcnt hbit hother
  rw [if_neg Bool.false_ne_true] at hcnt hother
  have hstores : Same stores s (memUncorr (32 * (A / 32)) purpose die w false (lineUsed die A c s)) :=
    lineUsed_stores.trans (same_stores_of_mem memUncorr_mem)
  have hmsgs : (memUncorr (32 * (A / 32)) purpose die w false (lineUsed die A c s)).msgs = s.msgs :=
    (memUncorr_keeps.at .msgs rfl).trans (bump_keeps.at .msgs rfl)
  refine ⟨_, heq, ?_, ?_, hbit, ?_, fun a => (hstores.trans deliverLine_stores).getMem_eq, hmsgs⟩
  · exact (hother (by omega)).trans lineUsed_counted
  · exact .before (lineUsed_other (by omega) (by omega)) hcnt
  · rw [deliverLine_data, lineData_bad_first, List.take_left' (by simp)]

/-- A good half of a read. -/
def cleanHalf (s : State) (h : Nat) (e : List Byte) : Prop := poisoned s h = false ∧ ∃ d, halfWord s h e = some (d, false)

theorem cleanHalf.decodes {h who : Nat} {e : List Byte} (hc : cleanHalf s h e) : decodeHalf h purpose die who false false e s = (s, false) := by
  obtain ⟨hp, d, hw⟩ := hc
  exact decodeHalf_clean hp hw

/-- A half is as good as before where its bytes and its poison are. -/
theorem cleanHalf.congr {h : Nat} {e : List Byte} (hc : cleanHalf s h e) (hp : poisoned t h = poisoned s h)
    (hb : ∀ i, i < 32 → getMem t (32 * h + i) = getMem s (32 * h + i)) : cleanHalf t h e := by
  obtain ⟨hgood, d, hw⟩ := hc
  exact ⟨hp.trans hgood, d, by rwa [halfWord, memBytes_congr hb]⟩

theorem decodeLine_clean {who : Nat} (h0 : cleanHalf s (A / 32) e0) (h1 : cleanHalf s (A / 32 + 1) e1) :
    decodeLine die A purpose e0 e1 s who = (s, []) := decodeLine_eq h0.decodes h1.decodes

/-- The first half of a line comes out corrected. -/
theorem corrected_served {d : List Byte} {who : Nat} (hA : A % 64 = 0) (hp : poisoned s (A / 32) = false)
    (hw : halfWord s (A / 32) e0 = some (d, true)) (h1 : cleanHalf s (A / 32 + 1) e1) :
    ∃ u, decodeLine die A purpose e0 e1 s who = (u, []) ∧ Counted (2328 + 10 * stackOf A) 1 s u ∧
      (∀ i, i < 32 → getMem u (A + i) = (d[i]?).getD 0) ∧ (∀ a, a < A ∨ A + 32 ≤ a → getMem u a = getMem s a) ∧ u.msgs = s.msgs := by
  have hhome : 32 * (A / 32) = A := by omega
  have hlen : d.length = 32 := length_corrected hw
  have hstores : Same stores (putMem A d s) (memCorr A false (putMem A d s)) := memCorr_stores
  have hread : ∀ a, getMem (memCorr A false (putMem A d s)) a = if A ≤ a ∧ a < A + 32 then (d[a - A]?).getD 0 else getMem s a := fun a => by
    rw [hstores.getMem_eq, getMem_putMem, hlen]
  have h0 : decodeHalf (A / 32) purpose die who false false e0 s = (memCorr A false (putMem A d s), false) := by
    rw [decodeHalf_corrected hp hw, hhome]
    rfl
  have h1' : cleanHalf (memCorr A false (putMem A d s)) (A / 32 + 1) e1 :=
    h1.congr (hstores.poisoned_eq.trans poisoned_putMem) fun i _ => (hread _).trans (if_neg (by omega))
  refine ⟨_, decodeLine_eq h0 h1'.decodes, ?_, fun i hi => ?_, fun a ha => ?_, ?_⟩
  · exact memCorr_counted (s := putMem A d s) (scrub := false)
  · rw [hread, if_pos (by omega), Nat.add_sub_cancel_left]
  · rw [hread, if_neg (by omega)]
  · exact memCorr_keeps.at .msgs rfl

/-- The first half of a line is poisoned, or becomes so. -/
theorem bad_served {who : Nat} (hA : A % 64 = 0) (hbad : poisoned s (A / 32) = true ∨ halfWord s (A / 32) e0 = none)
    (h1 : cleanHalf s (A / 32 + 1) e1) :
    ∃ u, decodeLine die A purpose e0 e1 s who = (u, [A / 32]) ∧ Counted (2328 + 10 * stackOf A + 1) 1 s u ∧ poisoned u (A / 32) = true ∧
      (getReg u (0x3040 + 16 * stackOf A)).testBit 0 = true ∧ (∀ a, getMem u a = getMem s a) ∧ u.msgs = s.msgs := by
  obtain ⟨v, hv, hpv, h0⟩ := decodeHalf_bad (purpose := purpose) (die := die) (who := who) (scrub := false) (raced := false) hbad
  rw [show 32 * (A / 32) = A by omega] at h0
  have hmem : ∀ a, getMem v a = getMem s a := fun a => by
    rcases hv with rfl | rfl
    · rfl
    · exact getMem_setPoison
  have hother : poisoned v (A / 32 + 1) = poisoned s (A / 32 + 1) := by
    rcases hv with rfl | rfl
    · rfl
    · exact poisoned_setPoison.trans (if_neg (by omega))
  have hcnt : v.cnt = s.cnt ∧ v.msgs = s.msgs := by
    rcases hv with rfl | rfl
    · exact ⟨rfl, rfl⟩
    · exact ⟨rfl, rfl⟩
  have hstores : Same stores v (memUncorr A purpose die who false v) := same_stores_of_mem memUncorr_mem
  have h1' : cleanHalf (memUncorr A purpose die who false v) (A / 32 + 1) e1 :=
    h1.congr (hstores.poisoned_eq.trans hother) fun i _ => hstores.getMem_eq.trans (hmem _)
  refine ⟨_, decodeLine_eq h0 h1'.decodes, ?_, ?_, memUncorr_bit, fun a => hstores.getMem_eq.trans (hmem a), ?_⟩
  · exact .before (congrArg (tget 0 _) hcnt.1) (memUncorr_counted (scrub := false))
  · exact hstores.poisoned_eq.trans (hpv rfl)
  · exact (memUncorr_keeps.at .msgs rfl).trans hcnt.2

/-- Performance counters are counters 2,368 and above. -/
theorem pmuDie_count {d code i : Nat} (h : i ≠ 64) (hi : i < 2368) : Same (count i) s (pmuDie d code n s) := by
  have hfold : ∀ ks : List Nat, ∀ w, Same (count i) w (ks.foldl (fun s k =>
      if bitsOf (getReg s (0x8120 + 0x40 * d + 4 * k)) 0 5 = code ∧ bitsOf (getReg s (0x8120 + 0x40 * d + 4 * k)) 16 16 ≠ 0 then
        bump (2368 + 8 * d + k) n s else s) w) := by
    intro ks
    induction ks with
    | nil => intro w; rfl
    | cons k ks ih =>
      intro w
      have hbump : Same (count i) w (bump (2368 + 8 * d + k) n w) := bump_other (by omega) h w
      exact (same_ite hbump rfl).trans (ih _)
  exact hfold _ s

theorem serveRead_cnt {i line : Nat} (h : i ≠ 64) (hi : i ≠ 2328 + 10 * stackOf (128 * line) + 8) :
    Same (count i) s (serveRead die line s) := by
  have halloc : ∀ w, Same (count i) w (allocDir line w) := fun w => by
    unfold allocDir
    split
    · rfl
    · dsimp only
      split
      · rfl
      · split
        · exact Same.trans (invalidate_keeps.same_count rfl) (bump_other hi h _)
        · rfl
  have hroom : Keeps [.hbm, .poison, .mem, .links] s (recallLine line (cohFlit die (lineHome line) 1 line s)) :=
    (cohFlit_keeps.weaken rfl).after recallLine_keeps rfl
  have hsent : Same (count i) s (allocDir line (memFlits (lineHome line) die 2 (128 * line) 128
      (memBytes (recallLine line (cohFlit die (lineHome line) 1 line s)) (128 * line) 128)
      (recallLine line (cohFlit die (lineHome line) 1 line s)))) :=
    ((hroom.after memFlits_keeps rfl).same_count rfl).trans (halloc _)
  exact hsent

/-- A fill of a line that no cache holds, once the home has sent it. -/
theorem fill_installed {line : Nat} (hread : ReadServed die line s u)
    (hv : v = installLine die line .shared { u with mem := { u.mem with fills := u.mem.fills.erase (die, line, false) } }) :
    ∃ c, findLine v die line = some c ∧ c.st = .shared ∧ c.data = memBytes s (128 * line) 128 ∧ (getDir v line).held.testBit die = true ∧
      (getDir v line).owned = false ∧ (∀ a, a / 128 = line → getMem v a = getMem s a) := by
  obtain ⟨w, hw, heq⟩ := installLine_eq (die := die) (line := line) (st := .shared)
    (s := { u with mem := { u.mem with fills := u.mem.fills.erase (die, line, false) } })
  have hbytes : ∀ a, a / 128 = line → getMem w a = getMem s a := fun a ha => (hw.bytes a fun hne => hne ha).trans (hread.bytes a ha)
  have hdir : getDir w line = getDir u line := hw.dir line fun hne => hne rfl
  have hne : ∀ used, ({ st := .shared, data := memBytes w (128 * line) 128, used := used, bad := badHalves w line } : CacheLine) ≠ noLine :=
    fun used h => absurd (congrArg CacheLine.st h) (by decide : Mesi.shared ≠ Mesi.modified)
  rw [hv, heq]
  refine ⟨_, findLine_putLine_same (hne _), rfl, ?_, ?_, ?_, hbytes⟩
  · exact memBytes_congr fun i hi => hbytes _ (by omega)
  · exact (congrArg (fun d => d.held.testBit die) hdir).trans hread.held
  · exact (congrArg DirEntry.owned hdir).trans hread.owned

/-! ### HBM_READ -/

theorem execHbmRead_issued {d : Fin 4} {x : BitVec 40} {p : Fin 4} (h : issues s (stackOf (x.toNat / 64 * 64)) = true) :
    exec (.hbmRead d x p owner e0 e1) s = .next (hbmRead d x.toNat p owner e0 e1 s) := by
  have hstack : stackOf x.toNat = stackOf (x.toNat / 64 * 64) := by
    unfold stackOf
    split <;> split <;> omega
  have hexec : exec (.hbmRead d x p owner e0 e1) s =
      .next (if issues s (stackOf x.toNat) then hbmRead d x.toNat p owner e0 e1 s else s) := rfl
  rw [hexec, hstack, if_pos h]

theorem clean_delivers (hA : A = dpa / 64 * 64) (h : reach s A = true) (hd : stackOf A = die ∨ purpose = 3) (hheld : (getDir s (A / 128)).held = 0)
    (howned : (getDir s (A / 128)).owned = false) (h0 : cleanHalf s (A / 32) e0) (h1 : cleanHalf s (A / 32 + 1) e1) :
    hbmRead die dpa purpose owner e0 e1 s =
      { s with mem := { s.mem with lines := tset Delivered.init die ⟨A, purpose, owner, memBytes s A 64⟩ s.mem.lines } } := by
  rw [hbmRead_home hA h hd hheld howned (decodeLine_clean h0 h1), handleBad_nil, deliverLine_eq,
    lineData_good length_memBytes]

theorem fill_delivers (hA : A = dpa / 64 * 64) (h : reach s A = true) (hd : stackOf A ≠ die) (hp : purpose ≠ 3) (hdie : die < 4)
    (hmiss : findLine s die (A / 128) = none) (hheld : (getDir s (A / 128)).held = 0)
    (hfills : s.mem.fills.any (fun f => decide (f.1 = die ∧ f.2.1 = A / 128)) = false)
    (h0 : cleanHalf s (A / 32) e0) (h1 : cleanHalf s (A / 32 + 1) e1) :
    ∃ t c, hbmRead die dpa purpose owner e0 e1 s = t ∧ Counted (2328 + 10 * die + 7) 1 s t ∧ findLine t die (A / 128) = some c ∧
      c.st = .shared ∧ c.data = memBytes s (128 * (A / 128)) 128 ∧ (getDir t (A / 128)).held.testBit die = true ∧
      (getDir t (A / 128)).owned = false ∧ (tget Delivered.init die t.mem.lines).data = memBytes s A 64 := by
  have hmem : (pmuDie die 9 1 (bump (2328 + 10 * die + 7) 1 s)).mem = s.mem := (pmuDie_keeps.mem_eq rfl).trans (bump_keeps.mem_eq rfl)
  have hcount : Counted (2328 + 10 * die + 7) 1 s (pmuDie die 9 1 (bump (2328 + 10 * die + 7) 1 s)) :=
    .after (bump_counted (by omega)) (pmuDie_count (by omega) (by omega))
  have hread : ReadServed die (A / 128) _ _ := serveRead_served (s := pmuDie die 9 1 (bump (2328 + 10 * die + 7) 1 s)) (die := die)
    ((congrArg DirEntry.held (getDir_congr hmem)).trans hheld)
  have hserve : Same (count (2328 + 10 * die + 7)) (pmuDie die 9 1 (bump (2328 + 10 * die + 7) 1 s))
    (serveRead die (A / 128) (pmuDie die 9 1 (bump (2328 + 10 * die + 7) 1 s))) := serveRead_cnt (by omega) (by omega)
  have hclean : ∀ k e, k / 4 = A / 128 → cleanHalf s k e →
      cleanHalf (serveRead die (A / 128) (pmuDie die 9 1 (bump (2328 + 10 * die + 7) 1 s))) k e := fun k e hk hc =>
    hc.congr ((hread.poison k hk).trans (same_stores_of_mem hmem).poisoned_eq)
      fun i hi => (hread.bytes _ (by omega)).trans (same_stores_of_mem hmem).getMem_eq
  have hinst := fill_installed hread rfl
  have heq := hbmRead_fill (purpose := purpose) (owner := owner) (s := s) hA h hd hp hmiss hfills
    (fun _ => decodeLine_clean (hclean _ e0 (by omega) h0) (hclean _ e1 (by omega) h1)) (hread.fill (by rw [hmem]; exact hfills)) rfl rfl
  have hcnt : Same (count (2328 + 10 * die + 7)) (serveRead die (A / 128) (pmuDie die 9 1 (bump (2328 + 10 * die + 7) 1 s)))
    (installLine die (A / 128) .shared { serveRead die (A / 128) (pmuDie die 9 1 (bump (2328 + 10 * die + 7) 1 s)) with
      mem := { (serveRead die (A / 128) (pmuDie die 9 1 (bump (2328 + 10 * die + 7) 1 s))).mem with
        fills := (serveRead die (A / 128) (pmuDie die 9 1 (bump (2328 + 10 * die + 7) 1 s))).mem.fills.erase (die, A / 128, false) } }) :=
    Same.trans rfl (installLine_keeps.same_count rfl)
  have htotal := (hcount.after hserve).after hcnt
  generalize installLine die (A / 128) .shared _ = v at heq hinst htotal
  obtain ⟨c, hc, hst, hdata, hheld', howned', hbytes⟩ := hinst
  have hsame : ∀ a, a / 128 = A / 128 → getMem v a = getMem s a := fun a ha => (hbytes a ha).trans (same_stores_of_mem hmem).getMem_eq
  refine ⟨_, c, heq, htotal, hc, hst, ?_, hheld', howned', ?_⟩
  · exact hdata.trans (same_stores_of_mem hmem).memBytes_eq
  · rw [deliverLine_data, lineData_good length_memBytes]
    exact memBytes_congr fun i hi => hsame _ (by omega)

/-- Settles O45: each case of a read through the equation of its case, its halves decoded in turn. -/
theorem hbmReads : Obligations.HbmReads := by
  unfold Obligations.HbmReads
  intro s die dpa purpose owner e0 e1 A L n hA hL hn hissue
  subst hL hn
  have hexec : exec (.hbmRead die dpa purpose owner e0 e1) s = .next (hbmRead die dpa.toNat purpose owner e0 e1 s) :=
    execHbmRead_issued (hA ▸ hissue)
  have hp3 : purpose ≠ 3 → purpose.val ≠ 3 := fun hp h => hp (Fin.ext h)
  have hhome : stackOf A = die ∨ purpose = 3 → stackOf A = die.val ∨ purpose.val = 3 := fun h => h.imp_right fun hp => congrArg Fin.val hp
  have hA64 : A % 64 = 0 := by omega
  refine ⟨fun c hr hd hp hc h0 h1 => ?_, fun c hr hd hp hc h0 h1 => ?_, fun hr hd hheld ho h0 h1 => ?_, fun d hr hd hheld ho hp0 hw h1 => ?_,
    fun hr hd hheld ho hbad h1 => ?_, fun hr => ?_, fun hr hd hp hmiss hheld hfills h0 h1 => ?_⟩
  · obtain ⟨t, heq, hcnt, hline, hstores, hdata⟩ := hit_served (die := die) (A := A) (purpose := purpose) (owner := owner) (s := s) h0 h1
    have hsame : stores t = stores s := hstores
    simp only [stores, Prod.mk.injEq] at hsame
    exact ⟨t, hexec.trans (congrArg _ ((hbmRead_hit hA hr hd (hp3 hp) hc).trans heq)), hcnt, hline, hsame.1, hsame.2.1, hdata⟩
  · obtain ⟨u, heq, hrest⟩ := hit_poisoned (die := die) (A := A) (purpose := purpose) (owner := owner) (s := s) (by omega) h0 h1
    exact ⟨u, hexec.trans (congrArg _ ((hbmRead_hit hA hr hd (hp3 hp) hc).trans heq)), hrest⟩
  · exact ⟨_, hexec.trans (congrArg _ (clean_delivers hA hr (hhome hd) hheld ho h0 h1)), rfl⟩
  · obtain ⟨u, hdec, hcnt, hin, hout, hmsgs⟩ := corrected_served (die := die) (purpose := purpose) (who := uncorrWho s purpose owner) hA64 hp0 hw h1
    exact ⟨_, hexec.trans (congrArg _ ((hbmRead_home hA hr (hhome hd) hheld ho hdec).trans handleBad_nil)), hcnt, hin, hout, hmsgs⟩
  · obtain ⟨u, hdec, hcnt, hpu, hbit, hmem, hmsgs⟩ :=
      bad_served (die := die) (purpose := purpose) (who := uncorrWho s purpose owner) hA64 hbad h1
    refine ⟨_, hexec.trans (congrArg _ ((hbmRead_home hA hr (hhome hd) hheld ho hdec).trans handleBad_cons)), hcnt, hpu, hbit, hmem, hmsgs, ?_⟩
    rw [deliverLine_data, lineData_bad_first, slice_memBytes (by omega), padTo_of_length length_memBytes]
    exact congrArg _ (memBytes_congr fun i _ => hmem _)
  · refine ⟨_, hexec.trans (congrArg _ (hbmRead_unmapped hA hr)), ?_, ?_, ?_, ?_⟩
    · exact countHole_counted
    · rw [deliverLine, countHole_keeps.mem_eq rfl]
    · rw [deliverLine_data, lineData_bad_both]
    · exact countHole_keeps.at .msgs rfl
  · obtain ⟨t, c, heq, hrest⟩ := fill_delivers (owner := owner) hA hr hd (hp3 hp) die.isLt hmiss hheld hfills h0 h1
    exact ⟨t, c, hexec.trans (congrArg _ heq), hrest⟩

end Sys2Proof.Machine
end

section

/-!
PROOF. HBM_WRITE at home and in the cache of an owner, REFRESH and SCRUB_READ (O46).
-/

namespace Sys2Proof.Machine

variable {s t u v : State} {A a n die dpa line purpose owner : Nat} {data : List Byte}

theorem length_padTo {bs : List Byte} : (padTo n bs).length = n := by
  rw [padTo, List.length_append, List.length_take, List.length_replicate]
  omega

theorem linesOf_line (hA : A % 64 = 0) : linesOf A 64 = [A / 128] := by
  rw [linesOf, if_neg (by decide), show (A + 64 - 1) / 128 - A / 128 + 1 = 1 by omega]
  simp

/-- What a write of a 64-byte line at its home leaves. -/
structure LineWritten (A : Nat) (bs : List Byte) (s t : State) : Prop where
  within : ∀ i, i < 64 → getMem t (A + i) = (bs[i]?).getD 0
  outside : ∀ a, a / 128 ≠ A / 128 → getMem t a = getMem s a
  clean : poisoned t (A / 32) = false ∧ poisoned t (A / 32 + 1) = false
  holders : ∀ d, d < 4 → (getDir s (A / 128)).held.testBit d = true → findLine t d (A / 128) = none
  dir : (getDir t (A / 128)).held = 0

/-- A write of one line takes it out of every cache. -/
theorem homeWrite_drops {src d : Nat} {bs : List Byte} (hl : linesOf dpa bs.length = [line])
    (hgood : ∀ h ∈ halvesOf dpa bs.length, covers dpa bs.length h) (hd : d < 4) (hheld : (getDir s line).held.testBit d = true) :
    findLine (homeWrite src dpa bs s).1 d line = none := by
  rw [homeWrite_eq, hl]
  obtain ⟨hput, -⟩ := halves_put (s := linesCleared [line] (memFlits src (stackOf dpa) 1 dpa bs.length bs s)) (b := false)
    fun h hh => .inl (hgood h hh)
  rw [findLine_eq, hput.cached_eq]
  have hheld' : (getDir (memFlits src (stackOf dpa) 1 dpa bs.length bs s) line).held.testBit d = true := by rwa [getDir_congr memFlits_mem]
  exact invalidate_drops (keep := none) hd hheld' (by simp)

theorem homeWrite_line {src : Nat} {bs : List Byte} (hA : A % 64 = 0) (hlen : bs.length = 64) : LineWritten A bs s (homeWrite src A bs s).1 := by
  have hcovers : ∀ h ∈ halvesOf A bs.length, covers A bs.length h := fun h hh => by
    rw [mem_halvesOf] at hh
    unfold covers
    omega
  have hl : linesOf A bs.length = [A / 128] := by rw [hlen, linesOf_line hA]
  obtain ⟨hw, -⟩ := homeWrite_written (src := src) (s := s) fun h hh => .inl (hcovers h hh)
  have hclean : ∀ h, A / 32 ≤ h → h ≤ A / 32 + 1 → poisoned (homeWrite src A bs s).1 h = false := fun h hlo hhi => by
    have hin : h ∈ halvesOf A bs.length := mem_halvesOf.mpr (by omega)
    exact hw.clean h hin (hcovers h hin)
  exact
    { within := fun i hi => hw.within i (by omega)
      outside := fun a ha => hw.outside a (by omega) (.inl (by rw [hl]; simpa using ha))
      clean := ⟨hclean _ (by omega) (by omega), hclean _ (by omega) (by omega)⟩
      holders := fun d hd hheld => homeWrite_drops hl hcovers hd hheld
      dir := by
        rw [hw.dir, hl, if_pos (by simp)]
        rfl }

/-! ### HBM_WRITE by its cases -/

theorem hbmWrite_unmapped (hA : A = dpa / 64 * 64) (h : reach s A = false) :
    hbmWrite die dpa purpose owner data s = poisonRead purpose owner (countHole A s) := by
  subst hA
  unfold hbmWrite
  dsimp only
  rw [h]
  rfl

theorem hbmWrite_home (hA : A = dpa / 64 * 64) (h : reach s A = true) (hp : ¬(purpose = 2 ∧ stackOf A ≠ die)) :
    hbmWrite die dpa purpose owner data s = (homeWrite die A (padTo 64 data) s).1 := by
  subst hA
  unfold hbmWrite
  dsimp only
  rw [if_neg (by simp [h]), if_neg hp]

/-- A WORK line that its die's cache holds is written there. -/
def cacheWritten (die A : Nat) (data : List Byte) (c : CacheLine) (s : State) : State :=
  putLine die (A / 128) ⟨.modified, overlay c.data (A % 128) (padTo 64 data), s.mem.useCtr + 1,
    setBitTo (setBitTo c.bad (A / 32 % 4) false) ((A / 32 + 1) % 4) false⟩ (nextUse s).2

theorem hbmWrite_cached {c : CacheLine} (hA : A = dpa / 64 * 64) (h : reach s A = true) (hp : purpose = 2 ∧ stackOf A ≠ die)
    (hu : u = if notOwned s die (A / 128) then ownLine die (A / 128) owner [A / 32, A / 32 + 1] s else s)
    (hc : findLine u die (A / 128) = some c) : hbmWrite die dpa purpose owner data s = cacheWritten die A data c u := by
  subst hA
  unfold hbmWrite
  dsimp only
  rw [if_neg (by simp [h]), if_pos hp, ← hu, hc]
  rfl

theorem findLine_cacheWritten {c : CacheLine} : findLine (cacheWritten die A data c s) die (A / 128) =
    some ⟨.modified, overlay c.data (A % 128) (padTo 64 data), s.mem.useCtr + 1,
      setBitTo (setBitTo c.bad (A / 32 % 4) false) ((A / 32 + 1) % 4) false⟩ := by
  refine findLine_putLine_same fun h => ?_
  have hused : s.mem.useCtr + 1 = 0 := congrArg CacheLine.used h
  omega

theorem getDir_cacheWritten {c : CacheLine} {l : Nat} : getDir (cacheWritten die A data c s) l = getDir s l := rfl

theorem cacheWritten_other {c : CacheLine} {d : Nat} (hline : A / 128 < 2 ^ 33) (hd : d ≠ die) (hnone : findLine s d (A / 128) = none) :
    findLine (cacheWritten die A data c s) d (A / 128) = none := by
  have hput : findLine (cacheWritten die A data c s) d (A / 128) = if cacheKey d (A / 128) = cacheKey die (A / 128) then _ else _ :=
    cached_putLine fun h => absurd (congrArg CacheLine.used h) (Nat.succ_ne_zero _)
  rw [hput, if_neg fun hk => hd (cacheKey_inj hline hline hk).1]
  exact hnone

theorem ownLine_mem {cover : List Nat} : (ownLine die line owner cover s).mem = (serveOwn die line s).mem := by
  have hreport : ∀ bad u, (reportHalves 2 die 0 bad u).mem = u.mem := fun _ _ => reportHalves_keeps.mem_eq rfl
  have hhandle : ∀ bad u, (handleBad 2 owner bad u).mem = u.mem := fun _ _ => handleBad_keeps.mem_eq rfl
  exact (hhandle _ _).trans (hreport _ _)

/-- The written part of a cached line holds its data. -/
theorem slice_overlay {bs new : List Byte} {off : Nat} (h : off + new.length ≤ bs.length) : slice (overlay bs off new) off new.length = new := by
  rw [slice, overlay, List.append_assoc, List.drop_left' (by rw [List.length_take]; omega), List.take_of_length_le (l := new) (by omega),
    List.take_left]

/-! ### SCRUB_READ -/

theorem memCorr_other {scrub : Bool} {i : Nat} (h : i ≠ 64) (hi : i ≠ 2328 + 10 * stackOf a + (if scrub then 2 else 0)) :
    Same (count i) s (memCorr a scrub s) := by
  have hbump : Same (count i) s (bump (2328 + 10 * stackOf a + (if scrub then 2 else 0)) 1 s) := bump_other hi h s
  have hraise : ∀ {d c r x y z v}, Same (count i) v (raiseOn d c r x y z v) := fun {_ _ _ _ _ _ _} => raiseOn_cnt h
  refine same_ite (Same.trans ?_ hraise) ?_
  · exact hbump
  · exact hbump

/-- The scrubber's position in a stack. -/
def scrubAt (stack p : Nat) (s : State) : State := { s with mem := { s.mem with scrubPos := tset 0 stack p s.mem.scrubPos } }

/-- The scrubber goes on to the next half, or begins again after the last. -/
def scrubOn (stack k : Nat) (s : State) : State :=
  if halvesPerStack ≤ k + 1 then bump (2328 + 10 * stack + 4) 1 (scrubAt stack (if halvesPerStack ≤ k + 1 then 0 else k + 1) s)
  else scrubAt stack (if halvesPerStack ≤ k + 1 then 0 else k + 1) s

theorem scrubAt_pos {stack p : Nat} : tget 0 stack (scrubAt stack p s).mem.scrubPos = p := (tget_tset _).trans (if_pos rfl)

theorem scrubAt_count {stack p i : Nat} : Same (count i) s (scrubAt stack p s) := rfl

theorem scrubAt_stores {stack p : Nat} : Same stores s (scrubAt stack p s) := rfl

theorem scrubRead_eq {stack k h : Nat} {err : List Byte} {raced : Bool} (hon : (getReg s 0x3000).testBit 0 = true)
    (hgood : s.glb.dieFatal.testBit stack = false) (hk : k = tget 0 stack s.mem.scrubPos) (hh : h = stack * 2 ^ 30 + k) :
    scrubRead stack err raced s = scrubOn stack k (decodeHalf h 4 stack 0 true raced err (recallLine (h / 4) s)).1 := by
  subst hh hk
  unfold scrubRead
  rw [if_neg (by rw [hon, hgood]; decide)]
  dsimp only
  simp only [decide_eq_true_eq]
  rfl

/-- What the scrubber's walk leaves behind the half it has read. -/
theorem scrubOn_walked {stack k : Nat} : tget 0 stack (scrubOn stack k s).mem.scrubPos = (if halvesPerStack ≤ k + 1 then 0 else k + 1) ∧
    (halvesPerStack ≤ k + 1 → Counted (2328 + 10 * stack + 4) 1 s (scrubOn stack k s)) ∧
    (∀ i, i ≠ 64 → i ≠ 2328 + 10 * stack + 4 ∨ k + 1 < halvesPerStack → Same (count i) s (scrubOn stack k s)) ∧
    Same stores s (scrubOn stack k s) ∧ (scrubOn stack k s).mem.hbm = s.mem.hbm ∧ (∀ off, getReg (scrubOn stack k s) off = getReg s off) := by
  have hpos := scrubAt_pos (s := s) (stack := stack) (p := if halvesPerStack ≤ k + 1 then 0 else k + 1)
  have hbump : (bump (2328 + 10 * stack + 4) 1 (scrubAt stack (if halvesPerStack ≤ k + 1 then 0 else k + 1) s)).mem =
    (scrubAt stack (if halvesPerStack ≤ k + 1 then 0 else k + 1) s).mem := bump_keeps.mem_eq rfl
  unfold scrubOn
  by_cases hlast : halvesPerStack ≤ k + 1
  · rw [if_pos hlast]
    refine ⟨by rw [hbump, hpos], fun _ => ?_, fun i hi hk => ?_, ?_, ?_, fun off => ?_⟩
    · exact .before scrubAt_count (bump_counted (by omega))
    · exact scrubAt_count.trans (bump_other (hk.resolve_right (by omega)) hi _)
    · exact scrubAt_stores.trans (same_stores_of_mem hbump)
    · rw [hbump]
      rfl
    · exact bump_keeps.getReg_eq rfl
  · rw [if_neg hlast]
    exact ⟨hpos, fun h => absurd h hlast, fun _ _ _ => scrubAt_count, scrubAt_stores, rfl, fun _ => rfl⟩

theorem hbm_of_stores (h : Same stores s t) : t.mem.hbm = s.mem.hbm := congrArg Prod.fst (show stores t = stores s from h)

theorem poison_of_stores (h : Same stores s t) : t.mem.poison = s.mem.poison := congrArg (fun x => x.2.1) (show stores t = stores s from h)

section
variable {stack k h : Nat} {err : List Byte} {raced : Bool}

theorem scrub_clean {d : List Byte} (hp : poisoned s h = false) (hw : halfWord s h err = some (d, false)) :
    Same stores s (scrubOn stack k (decodeHalf h 4 stack 0 true raced err s).1) := by
  rw [decodeHalf_clean hp hw]
  exact scrubOn_walked.2.2.2.1

theorem scrub_corrected {d : List Byte} (hs : stackOf (32 * h) = stack) (hp : poisoned s h = false) (hw : halfWord s h err = some (d, true)) :
    Counted (2328 + 10 * stack + 2) 1 s (scrubOn stack k (decodeHalf h 4 stack 0 true raced err s).1) ∧
      (raced = false → ∀ i, i < 32 → getMem (scrubOn stack k (decodeHalf h 4 stack 0 true raced err s).1) (32 * h + i) = (d[i]?).getD 0) ∧
      (raced = true → (scrubOn stack k (decodeHalf h 4 stack 0 true raced err s).1).mem.hbm = s.mem.hbm) := by
  have hlen : d.length = 32 := length_corrected hw
  rw [decodeHalf_corrected hp hw]
  dsimp only
  obtain ⟨-, -, hcount, hstores, -, -⟩ := scrubOn_walked (stack := stack) (k := k)
    (s := memCorr (32 * h) true (if raced then s else putMem (32 * h) d s))
  have hcorr : Same stores _ _ := (memCorr_stores (a := 32 * h) (scrub := true) (s := if raced then s else putMem (32 * h) d s)).trans hstores
  refine ⟨.after ?_ (hcount _ (by omega) (.inl (by omega))), fun hr i hi => ?_, fun hr => ?_⟩
  · have hcorrected := memCorr_counted (a := 32 * h) (scrub := true) (s := if raced then s else putMem (32 * h) d s)
    rw [hs, if_pos rfl] at hcorrected
    refine .before ?_ hcorrected
    cases raced
    · rfl
    · rfl
  · rw [hcorr.getMem_eq, if_neg (by simp [hr]), getMem_putMem, if_pos (by omega), Nat.add_sub_cancel_left]
  · rw [hbm_of_stores hcorr, if_pos hr]

theorem scrub_bad (hs : stackOf (32 * h) = stack) (hbad : poisoned s h = true ∨ halfWord s h err = none) :
    Counted (2328 + 10 * stack + 3) 1 s (scrubOn stack k (decodeHalf h 4 stack 0 true raced err s).1) ∧
      (getReg (scrubOn stack k (decodeHalf h 4 stack 0 true raced err s).1) (0x3040 + 16 * stack)).testBit 0 = true ∧
      (raced = false → poisoned (scrubOn stack k (decodeHalf h 4 stack 0 true raced err s).1) h = true) ∧
      (scrubOn stack k (decodeHalf h 4 stack 0 true raced err s).1).mem.hbm = s.mem.hbm := by
  obtain ⟨u, hu, hpu, hhalf⟩ := decodeHalf_bad (purpose := 4) (die := stack) (who := 0) (scrub := true) (raced := raced) hbad
  have hsame : u.cnt = s.cnt ∧ u.mem.hbm = s.mem.hbm := by
    rcases hu with rfl | rfl
    · exact ⟨rfl, rfl⟩
    · exact ⟨rfl, rfl⟩
  rw [hhalf]
  dsimp only
  obtain ⟨-, -, hcount, hstores, -, hreg⟩ := scrubOn_walked (stack := stack) (k := k) (s := memUncorr (32 * h) 4 stack 0 true u)
  have hcorr : Same stores u _ := (same_stores_of_mem memUncorr_mem).trans hstores
  have hcnt := memUncorr_counted (a := 32 * h) (purpose := 4) (die := stack) (who := 0) (scrub := true) (s := u)
  have hbit := memUncorr_bit (a := 32 * h) (purpose := 4) (die := stack) (who := 0) (scrub := true) (s := u)
  rw [hs] at hcnt hbit
  rw [if_pos rfl] at hcnt
  refine ⟨.after (.before (congrArg (tget 0 _) hsame.1) hcnt) (hcount _ (by omega) (.inl (by omega))), ?_, fun hr => ?_, ?_⟩
  · rw [hreg]
    exact hbit
  · exact hcorr.poisoned_eq.trans (hpu hr)
  · exact (hbm_of_stores hcorr).trans hsame.2

theorem decodeHalf_lapCount {purpose who : Nat} (hs : stackOf (32 * h) = stack) :
    Same (count (2328 + 10 * stack + 4)) s (decodeHalf h purpose die who true raced err s).1 := by
  by_cases hbad : poisoned s h = true ∨ halfWord s h err = none
  · obtain ⟨u, hu, -, hhalf⟩ := decodeHalf_bad (purpose := purpose) (die := die) (who := who) (scrub := true) (raced := raced) hbad
    have hcnt : u.cnt = s.cnt := by
      rcases hu with rfl | rfl
      · rfl
      · rfl
    rw [hhalf]
    have hother := memUncorr_other (a := 32 * h) (purpose := purpose) (die := die) (who := who) (scrub := true) (s := u)
      (i := 2328 + 10 * stack + 4) (by omega) (by rw [hs, if_pos rfl]; omega)
    exact hother.trans (congrArg (tget 0 _) hcnt)
  · rw [not_or, Bool.not_eq_true] at hbad
    obtain ⟨hp, hw⟩ := hbad
    obtain ⟨⟨d, b⟩, hd⟩ := Option.ne_none_iff_exists'.mp hw
    cases b
    case false =>
      rw [decodeHalf_clean hp hd]
      rfl
    case true =>
      rw [decodeHalf_corrected hp hd]
      dsimp only
      refine Same.trans (f := count (2328 + 10 * stack + 4)) (t := if raced then s else putMem (32 * h) d s) ?_ (memCorr_other (i := 2328 + 10 * stack + 4) (by omega) ?_)
      · cases raced
        · rfl
        · rfl
      · rw [hs, if_pos rfl]
        omega

end

/-! ### HBM_WRITE, REFRESH and SCRUB_READ -/

theorem stackOf_line (hA : A = dpa / 64 * 64) : stackOf dpa = stackOf A := by
  subst hA
  unfold stackOf
  split <;> split <;> omega

theorem notOwned_cached {c : CacheLine} (h : findLine s die line = some c) (hc : c.st ≠ .shared) : notOwned s die line = false := by
  rw [notOwned, h]
  exact decide_eq_false hc

theorem notOwned_shared (h : ∀ c, findLine s die line = some c → c.st = .shared) : notOwned s die line = true := by
  unfold notOwned
  split
  · next c hc => exact decide_eq_true (h c hc)
  · rfl

/-- A WORK line that its die owns by reading it for write first. -/
theorem own_written (hA : A = dpa / 64 * 64) (hline : A / 128 < 2 ^ 33) (h : reach s A = true) (hp : purpose = 2 ∧ stackOf A ≠ die)
    (hshared : ∀ c, findLine s die (A / 128) = some c → c.st = .shared) :
    ∃ t c, hbmWrite die dpa purpose owner data s = t ∧ findLine t die (A / 128) = some c ∧ c.st = .modified ∧
      slice c.data (A % 128) 64 = padTo 64 data ∧ (getDir t (A / 128)).held = 2 ^ die ∧ (getDir t (A / 128)).owned = true ∧
      (∀ d, d < 4 → d ≠ die → (getDir s (A / 128)).held.testBit d = true → findLine t d (A / 128) = none) := by
  have hserved := serveOwn_served (die := die) (s := s) hline
  have hmem : (ownLine die (A / 128) owner [A / 32, A / 32 + 1] s).mem = (serveOwn die (A / 128) s).mem := ownLine_mem
  have hfind : ∀ d, findLine (ownLine die (A / 128) owner [A / 32, A / 32 + 1] s) d (A / 128) = findLine (serveOwn die (A / 128) s) d (A / 128) :=
    fun d => by rw [findLine, hmem, findLine]
  obtain ⟨c, hc, -, hlen⟩ := hserved.owner
  have heq := hbmWrite_cached (u := ownLine die (A / 128) owner [A / 32, A / 32 + 1] s) (data := data) hA h hp
    (by rw [notOwned_shared hshared, if_pos rfl]) ((hfind die).trans hc)
  refine ⟨_, _, heq, findLine_cacheWritten, rfl, ?_, ?_, ?_, fun d hd hne hheld => cacheWritten_other hline hne ?_⟩
  · have hslice := slice_overlay (bs := c.data) (new := padTo 64 data) (off := A % 128) (by rw [length_padTo, hlen]; omega)
    rwa [length_padTo] at hslice
  · rw [getDir_cacheWritten, getDir_congr hmem, hserved.held]
  · rw [getDir_cacheWritten, getDir_congr hmem, hserved.owned]
  · exact (hfind d).trans (hserved.others d hd hne hheld)

theorem map_min_350 {waits : List Nat} (h : ∀ w ∈ waits, w ≤ 350) : waits.map (min 350) = waits :=
  (List.map_congr_left fun w hw => Nat.min_eq_right (h w hw)).trans (List.map_id waits)

/-- Settles O46: a write by its three cases and the unmapped one, a refresh, and a scrubbing read by what its half comes out as. -/
theorem hbmWritesAndScrubs : Obligations.HbmWritesAndScrubs := by
  unfold Obligations.HbmWritesAndScrubs
  refine ⟨fun s die dpa purpose owner data A hA hissue => ?_, fun s stack pc waits hissue hwaits => ?_,
    fun s stack err raced k h hissue hon hgood hk hlast hh hheld => ?_⟩
  · have hexec : exec (.hbmWrite die dpa purpose owner data) s = .next (hbmWrite die dpa.toNat purpose owner data s) := by
      have hcmd : exec (.hbmWrite die dpa purpose owner data) s =
          .next (if issues s (stackOf dpa.toNat) then hbmWrite die dpa.toNat purpose owner data s else s) := rfl
      rw [hcmd, stackOf_line hA, if_pos hissue]
    have hline : A / 128 < 2 ^ 33 := by omega
    refine ⟨fun hr hp => ?_, fun c hr hp hd hc hst => ?_, fun hr hp hd hshared => ?_, fun hr => ?_⟩
    · have hhome : ¬(purpose.val = 2 ∧ stackOf A ≠ die) := by
        rintro ⟨hpv, hd⟩
        exact hp.elim (fun hne => hne (Fin.ext hpv)) hd
      have hw := homeWrite_line (src := die) (s := s) (bs := padTo 64 data) (A := A) (by omega) length_padTo
      exact ⟨_, hexec.trans (congrArg _ (hbmWrite_home hA hr hhome)), hw.within, hw.outside, hw.clean.1, hw.clean.2, hw.holders, hw.dir⟩
    · have heq := hbmWrite_cached (u := s) (owner := owner) (data := data) hA hr ⟨congrArg Fin.val hp, hd⟩
        (by rw [notOwned_cached hc hst, if_neg Bool.false_ne_true]) hc
      exact ⟨_, hexec.trans (congrArg _ heq), rfl, rfl, findLine_cacheWritten⟩
    · obtain ⟨t, c, heq, hrest⟩ := own_written (owner := owner) (data := data) hA hline hr ⟨congrArg Fin.val hp, hd⟩ hshared
      exact ⟨t, c, hexec.trans (congrArg _ heq), hrest⟩
    · refine ⟨_, _, hexec.trans (congrArg _ (hbmWrite_unmapped hA hr)), rfl, countHole_counted, ?_, countHole_keeps.at .msgs rfl⟩
      exact (poisonRead_keeps.mem_eq rfl).trans (countHole_keeps.mem_eq rfl)
  · have hcmd : exec (.refresh stack pc waits) s = .next (if issues s stack then refresh stack waits s else s) := rfl
    rw [if_pos hissue] at hcmd
    refine ⟨_, hcmd, ?_, bump_keeps.mem_eq rfl⟩
    rw [refresh, map_min_350 hwaits]
    exact bump_counted (by omega)
  · have hcmd : exec (.scrubRead stack err raced) s = .next (if issues s stack then scrubRead stack err raced s else s) := rfl
    rw [if_pos hissue, scrubRead_eq hon hgood hk hh] at hcmd
    have hs : stackOf (32 * h) = stack := by
      have hfin := stack.isLt
      unfold stackOf
      split <;> omega
    have hrecall : Same stores s (recallLine (h / 4) s) := recallLine_unheld_stores hheld
    have hcount : ∀ i, Same (count i) s (recallLine (h / 4) s) := fun i => recallLine_keeps.same_count rfl
    have hword : halfWord (recallLine (h / 4) s) h err = halfWord s h err := hrecall.halfWord_eq
    have hpois : poisoned (recallLine (h / 4) s) h = poisoned s h := hrecall.poisoned_eq
    generalize recallLine (h / 4) s = v at hcmd hrecall hcount hword hpois
    obtain ⟨hpos, hlap, hwalk, -, -, -⟩ := scrubOn_walked (stack := stack) (k := k) (s := (decodeHalf h 4 stack 0 true raced err v).1)
    have hdec : Same (count (2328 + 10 * stack.val + 4)) v (decodeHalf h 4 stack 0 true raced err v).1 := decodeHalf_lapCount hs
    refine ⟨_, hcmd, hpos, fun hk1 => ?_, fun hk1 => ?_, fun d hp hw => ?_, fun d hp hw => ?_, fun hbad => ?_⟩
    · exact .before ((hcount _).trans hdec) (hlap hk1)
    · exact ((hcount _).trans hdec).trans (hwalk _ (by omega) (.inr hk1))
    · have hsame := hrecall.trans (scrub_clean (stack := stack) (k := k) (raced := raced) (hpois.trans hp) (hword.trans hw))
      exact ⟨hbm_of_stores hsame, poison_of_stores hsame⟩
    · obtain ⟨hcnt, hfixed, hraced⟩ := scrub_corrected (k := k) (raced := raced) hs (hpois.trans hp) (hword.trans hw)
      exact ⟨.before (hcount _) hcnt, hfixed, fun hr => (hraced hr).trans (hbm_of_stores hrecall)⟩
    · obtain ⟨hcnt, hbit, hpoison, hhbm⟩ := scrub_bad (k := k) (raced := raced) (err := err) hs (hbad.imp hpois.trans hword.trans)
      exact ⟨.before (hcount _) hcnt, hbit, hpoison, hhbm.trans (hbm_of_stores hrecall)⟩

end Sys2Proof.Machine
end

section

/-!
PROOF. Staged rows of the drain, plot buffers and the host's window (O48).
-/

namespace Sys2Proof.Machine

variable {s t u v : State} {mid l tn n tile off p dpa : Nat} {full : Bool} {m : Msg}

/-! ### Staged rows (R120, R122, R260) -/

theorem kvRow_aligned {w : Stream} : kvRow w % 64 = 0 := Nat.mul_mod_left _ 64

theorem length_packRow {w : Stream} {elems : List Nat} : (packRow w elems).length = kvRow w := length_padTo

theorem kvAddr_aligned {w : Stream} (h : w.kvBase % 64 = 0) : kvAddr w l tn n % 64 = 0 := by
  have hrow : (((2 * l + tn) * w.pcap + n) * kvRow w) % 64 = 0 := by rw [Nat.mul_mod, kvRow_aligned, Nat.mul_zero, Nat.zero_mod]
  unfold kvAddr
  omega

/-- The halves of an aligned range are covered whole. -/
theorem covers_aligned {h : Nat} (hd : dpa % 32 = 0) (hn : n % 32 = 0) (hh : h ∈ halvesOf dpa n) : covers dpa n h := by
  rw [mem_halvesOf] at hh
  unfold covers
  omega

/-- The number of a row of a message: its layer, its tensor and its new position. -/
def rowCode (w : Stream) (l tn n : Nat) : Nat := (2 * l + tn) * w.newPos + n

/-- Where the row of a new position lies. -/
def rowAddr (w : Stream) (l tn n : Nat) : Nat := kvAddr w l tn ((w.kvHead + n) % max 1 w.pcap)

/-- The codes that one drained token carries. -/
def codesPerToken (w : Stream) (full : Bool) : Nat := if decide (w.kvFmt = 0) && full then 128 else 64

/-- A row that is not the oldest message's, or is none of its outstanding rows. -/
def rowAbsent (s : State) (m : Msg) (l tn n : Nat) : Prop :=
  (getStream s m.stream).kvL ≤ l ∨ (getStream s m.stream).newPos ≤ n ∨ rowCode (getStream s m.stream) l tn n ∉ m.rowsOut ∨ isOldest s m = false

theorem kvRowAck_absent (hm : findMsg s mid = some m) (h : rowAbsent s m l tn n) : kvRowAck mid l tn n tile full s = s := by
  unfold kvRowAck
  rw [hm]
  dsimp only
  refine if_pos ?_
  unfold rowAbsent rowCode at h
  simpa using h

/-- The tokens of a row have left the drain. -/
def drained (rest : List (Nat × Token)) (s : State) : State := { s with fab := { s.fab with drain := rest } }

theorem kvRowAck_drained {toks rest : List (Nat × Token)} (hm : findMsg s mid = some m) (h : ¬rowAbsent s m l tn n)
    (htake : takeSome (drainedFor s mid tile) (ceilDiv ((getStream s m.stream).kvH * (getStream s m.stream).kvE)
      (codesPerToken (getStream s m.stream) full)) s.fab.drain = some (toks, rest)) :
    kvRowAck mid l tn n tile full s =
      if !reach s (rowAddr (getStream s m.stream) l tn n) then
        poisonRead 1 mid (countHole (rowAddr (getStream s m.stream) l tn n) (drained rest s))
      else clearDrain mid (updMsg mid (fun x => { x with rowsOut := x.rowsOut.erase (rowCode (getStream s m.stream) l tn n) })
        (homeWrite (tile / 256) (rowAddr (getStream s m.stream) l tn n)
          (packRow (getStream s m.stream) (toks.flatMap (fun x => rowLanes (getStream s m.stream).kvFmt full x.2))) (drained rest s)).1) := by
  unfold codesPerToken at htake
  unfold kvRowAck
  rw [hm]
  dsimp only
  rw [if_neg (by unfold rowAbsent rowCode at h; simpa using h), htake]
  rfl

/-- An aligned range written at its home holds its bytes. -/
theorem homeWrite_aligned {src i : Nat} {bs : List Byte} (hd : dpa % 32 = 0) (hn : bs.length % 32 = 0) (hi : i < bs.length) :
    getMem (homeWrite src dpa bs s).1 (dpa + i) = (bs[i]?).getD 0 :=
  (homeWrite_written fun _ hh => .inl (covers_aligned hd hn hh)).1.within i hi

/-- A staged row of the oldest message reaches its place and is outstanding no more. -/
theorem kvRowAck_written {toks rest : List (Nat × Token)} (hm : findMsg s mid = some m) (h : ¬rowAbsent s m l tn n)
    (hbase : (getStream s m.stream).kvBase % 64 = 0) (hreach : reach s (rowAddr (getStream s m.stream) l tn n) = true)
    (htake : takeSome (drainedFor s mid tile) (ceilDiv ((getStream s m.stream).kvH * (getStream s m.stream).kvE)
      (codesPerToken (getStream s m.stream) full)) s.fab.drain = some (toks, rest)) :
    ∃ t, kvRowAck mid l tn n tile full s = t ∧
      findMsg t mid = some { m with rowsOut := m.rowsOut.erase (rowCode (getStream s m.stream) l tn n) } ∧
      (∀ i, i < kvRow (getStream s m.stream) → getMem t (rowAddr (getStream s m.stream) l tn n + i) =
        ((packRow (getStream s m.stream) (toks.flatMap (fun x => rowLanes (getStream s m.stream).kvFmt full x.2)))[i]?).getD 0) := by
  have heq := kvRowAck_drained hm h htake
  rw [hreach] at heq
  have hbytes : ∀ i, i < kvRow (getStream s m.stream) → getMem (homeWrite (tile / 256) (rowAddr (getStream s m.stream) l tn n)
      (packRow (getStream s m.stream) (toks.flatMap (fun x => rowLanes (getStream s m.stream).kvFmt full x.2))) (drained rest s)).1
      (rowAddr (getStream s m.stream) l tn n + i) =
        ((packRow (getStream s m.stream) (toks.flatMap (fun x => rowLanes (getStream s m.stream).kvFmt full x.2)))[i]?).getD 0 := by
    intro i hi
    have haligned := kvAddr_aligned (w := getStream s m.stream) (l := l) (tn := tn)
      (n := ((getStream s m.stream).kvHead + n) % max 1 (getStream s m.stream).pcap) hbase
    refine homeWrite_aligned ?_ ?_ ?_
    · unfold rowAddr
      omega
    · rw [length_packRow]
      have := kvRow_aligned (w := getStream s m.stream)
      omega
    · rwa [length_packRow]
  have hmsgs : (homeWrite (tile / 256) (rowAddr (getStream s m.stream) l tn n)
      (packRow (getStream s m.stream) (toks.flatMap (fun x => rowLanes (getStream s m.stream).kvFmt full x.2))) (drained rest s)).1.msgs = s.msgs :=
    homeWrite_keeps.at .msgs rfl
  generalize (homeWrite (tile / 256) (rowAddr (getStream s m.stream) l tn n)
    (packRow (getStream s m.stream) (toks.flatMap (fun x => rowLanes (getStream s m.stream).kvFmt full x.2))) (drained rest s)).1 = w
    at heq hbytes hmsgs
  refine ⟨_, heq, ?_, fun i hi => ?_⟩
  · have hfind : findMsg w mid = some m := (findMsg_congr hmsgs).trans hm
    have hclear := findMsg_congr (mid := mid) (clearDrain_keeps.at .msgs rfl :
      (clearDrain mid (updMsg mid (fun x => { x with rowsOut := x.rowsOut.erase (rowCode (getStream s m.stream) l tn n) }) w)).msgs = _)
    refine hclear.trans ((findMsg_updMsg_same (f := fun x => { x with rowsOut := x.rowsOut.erase (rowCode (getStream s m.stream) l tn n) })
      fun _ h => h).trans ?_)
    rw [hfind]
    rfl
  · have hmem : (clearDrain mid (updMsg mid (fun x => { x with rowsOut := x.rowsOut.erase (rowCode (getStream s m.stream) l tn n) }) w)).mem =
        w.mem := (clearDrain_keeps.mem_eq rfl).trans (updMsg_keeps.mem_eq rfl)
    exact (same_stores_of_mem hmem).getMem_eq.trans (hbytes i hi)

/-! ### Plot buffers (R261 to R263) -/

/-- The plot's bad word is noted, raised and counted, and a pinned resident word waits for its refill. -/
def wordNoted (p off reader : Nat) (g : Group) (s : State) : State :=
  let noted := raiseOn (dieOfPlot p) 0x0903 p off (b2n (!(decide (off < resBytes s g) && (getBank s g.slot g.bank).pin))) reader
    (bump (960 + 15 * p + 14) 1 (updPlot p (fun v => { v with bufBad := insertNew (off / 8) v.bufBad }) s))
  if decide (off < resBytes s g) && (getBank s g.slot g.bank).pin then updGroup g.gid (fun g => { g with unfilled := insertNew p g.unfilled }) noted
  else noted

theorem plotUncorr_eq {reader : Nat} {g : Group} (hg : groupOfPlot s p = some g) : plotUncorr p off reader s =
    plotError p (if reader = 0 then markPass stInternal g.gid (wordNoted p off reader g s) else wordNoted p off reader g s) := by
  unfold plotUncorr
  rw [hg]
  rfl

theorem findGroup_updGroup {gid : Nat} {f : Group → Group} {g' : Group} (hf : ∀ g : Group, (f g).gid = g.gid)
    (h : findGroup (updGroup gid f s) gid = some g') : ∃ g, findGroup s gid = some g ∧ g' = f g := by
  have hmap := find?_map_if (p := fun g : Group => decide (g.gid = gid)) (f := f) (as := s.groups) (by simp [hf])
  have hfind : findGroup (updGroup gid f s) gid = (findGroup s gid).map f := by simpa [findGroup, updGroup] using hmap
  rw [hfind, Option.map_eq_some_iff] at h
  obtain ⟨g, hg, he⟩ := h
  exact ⟨g, hg, he.symm⟩

theorem wordNoted_facts {reader : Nat} {g : Group} : Counted (960 + 15 * p + 14) 1 s (wordNoted p off reader g s) ∧
    off / 8 ∈ (getPlot (wordNoted p off reader g s) p).bufBad ∧
    (∀ g', findGroup (wordNoted p off reader g s) g.gid = some g' → off < resBytes s g → (getBank s g.slot g.bank).pin = true → p ∈ g'.unfilled) ∧
    (wordNoted p off reader g s).msgs = s.msgs := by
  unfold wordNoted
  dsimp only
  have hcount : Counted (960 + 15 * p + 14) 1 s (raiseOn (dieOfPlot p) 0x0903 p off
      (b2n (!(decide (off < resBytes s g) && (getBank s g.slot g.bank).pin))) reader
      (bump (960 + 15 * p + 14) 1 (updPlot p (fun v => { v with bufBad := insertNew (off / 8) v.bufBad }) s))) :=
    .after (.before (updPlot_keeps.same_count rfl) (bump_counted (by omega))) (raiseOn_cnt (by omega))
  have hkeeps : Keeps [.cnt, .hif, .links, .trc, .alert] (updPlot p (fun v => { v with bufBad := insertNew (off / 8) v.bufBad }) s)
      (raiseOn (dieOfPlot p) 0x0903 p off (b2n (!(decide (off < resBytes s g) && (getBank s g.slot g.bank).pin))) reader
        (bump (960 + 15 * p + 14) 1 (updPlot p (fun v => { v with bufBad := insertNew (off / 8) v.bufBad }) s))) :=
    (bump_keeps.weaken rfl).after raiseOn_keeps rfl
  generalize raiseOn (dieOfPlot p) 0x0903 p off _ reader _ = w at hcount hkeeps
  have hplot : off / 8 ∈ (getPlot w p).bufBad := by
    rw [getPlot, hkeeps.at .plots rfl]
    have hset : getPlot (updPlot p (fun v => { v with bufBad := insertNew (off / 8) v.bufBad }) s) p =
      { getPlot s p with bufBad := insertNew (off / 8) (getPlot s p).bufBad } := getPlot_setPlot_same
    exact (congrArg Plot.bufBad hset) ▸ mem_insertNew
  have hmsgs : w.msgs = s.msgs := (hkeeps.at .msgs rfl).trans (updPlot_keeps.at .msgs rfl)
  split
  · refine ⟨.after hcount (updGroup_keeps.same_count rfl), hplot, fun g' hg' _ _ => ?_, (updGroup_keeps.at .msgs rfl).trans hmsgs⟩
    obtain ⟨x, -, rfl⟩ := findGroup_updGroup (f := fun g => { g with unfilled := insertNew p g.unfilled }) (fun _ => rfl) hg'
    exact mem_insertNew
  · next hres =>
    exact ⟨hcount, hplot, fun _ _ hoff hpin => absurd (by rw [decide_eq_true hoff, hpin]; rfl) hres, hmsgs⟩

/-- Halves that are good come out as they were stored. -/
theorem decodeHalves_good {purpose die who : Nat} {hs : List Nat} (h : ∀ k ∈ hs, poisoned s k = false) :
    decodeHalves purpose die who [] hs s = (s, []) := by
  induction hs with
  | nil => rfl
  | cons k hs ih =>
    exact decodeHalves_cons (decodeHalf_clean (h k List.mem_cons_self) halfWord_nil) (ih fun j hj => h j (List.mem_cons_of_mem k hj))

/-- The plot's resident area is rewritten from the bank's image. -/
def plotRefilled (p : Nat) (g : Group) (s : State) : State :=
  updGroup g.gid (fun x => { x with unfilled := without p x.unfilled })
    (updPlot p (fun v => { v with
      buf := tsetList 0 0 ((List.range (resBytes s g)).map (fun k => bundleByte s g.slot g.bank (residentAt s g p + k))) v.buf
      bufBad := v.bufBad.filter (fun w => resBytes s g ≤ 8 * w) }) s)

theorem residentFill_good {g : Group} (hg : groupOfPlot s p = some g) (hp : p ∈ g.unfilled)
    (hgood : ∀ h ∈ bundleHalves g.slot g.bank (residentAt s g p) (resBytes s g), poisoned s h = false) :
    residentFill p [] s = plotRefilled p g s := by
  unfold residentFill
  rw [hg]
  dsimp only
  rw [if_neg (not_not_intro hp), decodeHalves_good hgood]
  rfl

theorem plotRefilled_facts {g : Group} :
    (∀ i, i < resBytes s g → tget 0 i (getPlot (plotRefilled p g s) p).buf = bundleByte s g.slot g.bank (residentAt s g p + i)) ∧
      (∀ w ∈ (getPlot (plotRefilled p g s) p).bufBad, resBytes s g ≤ 8 * w) ∧
      (∀ g', findGroup (plotRefilled p g s) g.gid = some g' → p ∉ g'.unfilled) := by
  have hplot : getPlot (plotRefilled p g s) p = { getPlot s p with
      buf := tsetList 0 0 ((List.range (resBytes s g)).map (fun k => bundleByte s g.slot g.bank (residentAt s g p + k))) (getPlot s p).buf
      bufBad := (getPlot s p).bufBad.filter (fun w => resBytes s g ≤ 8 * w) } := getPlot_setPlot_same
  refine ⟨fun i hi => ?_, fun w hw => ?_, fun g' hg' hmem => ?_⟩
  · have hread := tget_tsetList (x := (0 : Byte)) (k := 0) (m := (getPlot s p).buf) (i := i)
      (vs := (List.range (resBytes s g)).map (fun k => bundleByte s g.slot g.bank (residentAt s g p + k))) (by simpa using hi)
    rw [List.getElem?_map, List.getElem?_range hi, Option.map_some, Option.some.injEq, Nat.zero_add] at hread
    exact (congrArg (fun v => tget 0 i v.buf) hplot).trans hread
  · rw [hplot] at hw
    exact of_decide_eq_true (List.mem_filter.mp hw).2
  · obtain ⟨x, -, rfl⟩ := findGroup_updGroup (f := fun x => { x with unfilled := without p x.unfilled }) (fun _ => rfl) hg'
    have hne := (List.mem_filter.mp hmem).2
    simp at hne

theorem rotLoaded_unfilled {gid : Nat} {g' : Group} (h : findGroup (rotLoaded gid s) gid = some g') :
    ∃ g, findGroup s gid = some g ∧ g'.unfilled = g.unfilled := by
  unfold rotLoaded at h
  split at h
  · exact ⟨g', h, rfl⟩
  · split at h
    · exact ⟨g', h, rfl⟩
    · next r _ =>
      split at h
      · obtain ⟨x, hx, rfl⟩ := findGroup_updGroup (f := fun g => { g with rot := some { r with loaded := true, t0 := s.clk.now } }) (fun _ => rfl) h
        exact ⟨x, hx, rfl⟩
      · exact ⟨g', h, rfl⟩

theorem residentFillDone_eq {g : Group} {errs : List (Nat × List Byte)} (hg : groupOfPlot s p = some g) :
    residentFillDone p errs s = rotLoaded g.gid (residentFill p errs s) := by
  unfold residentFillDone
  rw [hg]

/-! ### The host's window (R264) -/

/-- What the host reads where it gets no data. -/
def allOnes (n : Nat) : List Byte := List.replicate (4 * n) 255#8

theorem bar2Read_off {x : Nat} {errs : List (Nat × List Byte)} (h : (getReg s 0x300C).testBit 0 = false) :
    bar2Read x n errs s = { s with answer := some { data := allOnes n, poisoned := false } } := by
  unfold bar2Read
  dsimp only
  rw [h]
  rfl

theorem bar2Read_dead {x h : Nat} {errs : List (Nat × List Byte)} (hon : (getReg s 0x300C).testBit 0 = true)
    (hdead : firstDead s (bar2Dpa s (4 * x)) (4 * n) = some h) :
    bar2Read x n errs s = { countHole h s with answer := some { data := allOnes n, poisoned := false } } := by
  unfold bar2Read
  dsimp only
  rw [hon, hdead]
  rfl

theorem bar2Read_live {x : Nat} (hon : (getReg s 0x300C).testBit 0 = true) (hlive : firstDead s (bar2Dpa s (4 * x)) (4 * n) = none)
    (hheld : ∀ l ∈ linesOf (bar2Dpa s (4 * x)) (4 * n), (getDir s l).held = 0) :
    (bar2Read x n [] s).answer = some
      { data := if (halvesOf (bar2Dpa s (4 * x)) (4 * n)).any (fun h => poisoned s h) then allOnes n else homeBytes s (bar2Dpa s (4 * x)) (4 * n)
        poisoned := (halvesOf (bar2Dpa s (4 * x)) (4 * n)).any (fun h => poisoned s h) } := by
  obtain ⟨u, hread, -⟩ := homeRead_read hheld
  unfold bar2Read
  dsimp only
  rw [hon, hlive]
  dsimp only
  rw [hread]
  rfl

theorem bar2Write_off {x : Nat} {bs : List Byte} (h : (getReg s 0x300C).testBit 0 = false) : bar2Write x bs s = s := by
  unfold bar2Write
  rw [h]
  rfl

theorem bar2Write_dead {x h : Nat} {bs : List Byte} (hon : (getReg s 0x300C).testBit 0 = true)
    (hdead : firstDead s (bar2Dpa s x) bs.length = some h) : bar2Write x bs s = countHole h s := by
  unfold bar2Write
  rw [hon, hdead]
  rfl

theorem bar2Write_live {x : Nat} {bs : List Byte} (hon : (getReg s 0x300C).testBit 0 = true)
    (hlive : firstDead s (bar2Dpa s x) bs.length = none) : bar2Write x bs s = (homeWrite 4 (bar2Dpa s x) bs s).1 := by
  unfold bar2Write
  rw [hon, hlive]
  rfl

theorem mem_linesOf_within {a : Nat} (hlo : dpa ≤ a) (hhi : a < dpa + n) : a / 128 ∈ linesOf dpa n :=
  mem_linesOf.mpr ⟨by omega, by omega, by omega⟩

/-- Settles O48: a staged row through the write at its home, a bad word and a refill through what each notes of the plot and its group, and the
window through the reads and writes of a home. -/
theorem rowsBuffersAndWindow : Obligations.RowsBuffersAndWindow := by
  unfold Obligations.RowsBuffersAndWindow
  refine ⟨?_, ?_, ?_, ?_, ?_⟩
  · intro s m l tn n tile full w a per toks rest hm hw hbase ha hper
    subst hw ha hper
    refine ⟨fun h => congrArg Host.Outcome.next (kvRowAck_absent hm h), fun hl hn hcode hold htake => ⟨fun hr => ?_, fun hr => ?_⟩⟩
    all_goals
      have hpresent : ¬rowAbsent s m l tn n := by
        unfold rowAbsent rowCode
        rw [hold]
        simp only [Bool.true_eq_false, or_false, not_or, Nat.not_le]
        exact ⟨hl, hn, not_not_intro hcode⟩
    · obtain ⟨t, heq, hrest⟩ := kvRowAck_written hm hpresent hbase hr htake
      exact ⟨t, congrArg Host.Outcome.next heq, hrest⟩
    · have heq := kvRowAck_drained hm hpresent htake
      unfold rowAddr at heq
      rw [hr, if_pos (show (!false) = true from rfl)] at heq
      refine ⟨_, _, congrArg Host.Outcome.next heq, rfl, ?_, ?_, ?_⟩
      · exact .before rfl countHole_counted
      · exact (poisonRead_keeps.mem_eq rfl).trans (countHole_keeps.mem_eq rfl)
      · exact countHole_keeps.at .msgs rfl
  · intro s p off reader g hg
    have hreader : (if reader.val = 0 then markPass stInternal g.gid (wordNoted p off reader g s) else wordNoted p off reader g s) =
        if reader = 0 then markPass stInternal g.gid (wordNoted p off reader g s) else wordNoted p off reader g s :=
      if_congr ⟨fun h => Fin.ext h, congrArg Fin.val⟩ rfl rfl
    have heq := plotUncorr_eq (off := off.val) (reader := reader.val) hg
    rw [hreader] at heq
    exact ⟨_, congrArg (Host.Outcome.next ∘ bbSettle) heq, wordNoted_facts⟩
  · intro s p g hg hp hgood
    obtain ⟨hbuf, hbad, hfilled⟩ := plotRefilled_facts (p := p) (g := g) (s := s)
    have hplot : getPlot (rotLoaded g.gid (plotRefilled p g s)) p = getPlot (plotRefilled p g s) p := by
      rw [getPlot, rotLoaded_keeps.at .plots rfl, getPlot]
    have heq : exec (.residentFillDone p []) s = .next (rotLoaded g.gid (plotRefilled p g s)) :=
      congrArg Host.Outcome.next ((residentFillDone_eq hg).trans (congrArg _ (residentFill_good hg hp hgood)))
    refine ⟨_, heq, by rwa [hplot], by rwa [hplot], fun g' hg' hmem => ?_⟩
    obtain ⟨x, hx, hunfilled⟩ := rotLoaded_unfilled hg'
    exact hfilled x hx (hunfilled ▸ hmem)
  · intro s x n D hup hD hheld
    subst hD
    have hexec : exec (.bar2Read x n []) s = .next (bar2Read x n [] s) := by
      have hcmd : exec (.bar2Read x n []) s =
          .next (if barUp s && decide (hbmHeld s ≠ some (stackOf (bar2Dpa s (4 * x)))) then bar2Read x n [] s else s) := rfl
      rw [hcmd, hup, decide_eq_true hheld]
      rfl
    refine ⟨fun hoff => ?_, fun hon hlive hlines => ⟨fun hgood => ?_, fun h hh hp => ?_⟩, fun h hon hdead => ?_⟩
    · exact ⟨_, hexec.trans (congrArg _ (bar2Read_off hoff)), rfl⟩
    · refine ⟨_, hexec, (bar2Read_live hon hlive hlines).trans ?_⟩
      have hany : (halvesOf (bar2Dpa s (4 * x)) (4 * n)).any (fun h => poisoned s h) = false := by simpa using hgood
      rw [hany, if_neg Bool.false_ne_true, homeBytes_clean hgood]
    · refine ⟨_, hexec, (bar2Read_live hon hlive hlines).trans ?_⟩
      have hany : (halvesOf (bar2Dpa s (4 * x)) (4 * n)).any (fun h => poisoned s h) = true := List.any_eq_true.mpr ⟨h, hh, hp⟩
      rw [hany, if_pos rfl]
      rfl
    · exact ⟨_, hexec.trans (congrArg _ (bar2Read_dead hon hdead)), countHole_counted, countHole_keeps.mem_eq rfl, rfl⟩
  · intro s x bs D hup hD hheld
    subst hD
    have hexec : exec (.bar2Write x bs) s = .next (bar2Write x bs s) := by
      have hcmd : exec (.bar2Write x bs) s =
          .next (if barUp s && decide (hbmHeld s ≠ some (stackOf (bar2Dpa s x))) then bar2Write x bs s else s) := rfl
      rw [hcmd, hup, decide_eq_true hheld]
      rfl
    refine ⟨fun hoff => ⟨_, hexec.trans (congrArg _ (bar2Write_off hoff)), rfl⟩, fun hon hlive hgood => ?_, fun h hon hdead => ?_⟩
    · obtain ⟨hw, -⟩ := homeWrite_written (src := 4) (s := s) (dpa := bar2Dpa s x) (bs := bs) fun h hh => .inr (hgood h hh)
      refine ⟨_, hexec.trans (congrArg _ (bar2Write_live hon hlive)), hw.within, fun a ha => ?_, fun l hl => ?_⟩
      · have hnot : a / 128 ∉ linesOf (bar2Dpa s x) bs.length := fun hmem => ha _ hmem rfl
        refine hw.outside a ?_ (.inl hnot)
        by_contra hin
        exact hnot (mem_linesOf_within (by omega) (by omega))
      · rw [hw.dir, if_pos hl]
        rfl
    · exact ⟨_, hexec.trans (congrArg _ (bar2Write_dead hon hdead)), countHole_counted, countHole_keeps.mem_eq rfl⟩

end Sys2Proof.Machine
end

section

/-!
PROOF. Rules of slots, banks and table entries, and the install descriptors (O54).
-/

namespace Sys2Proof.Machine

variable {s t u v : State} {slot bank q pos n i k b' : Nat} {b : List Byte} {x : Bank}

/-! ### Slots and banks -/

theorem getSlot_congr (h : t.slots = s.slots) : getSlot t slot = getSlot s slot := by rw [getSlot, getSlot, h]

theorem getBank_congr (h : t.slots = s.slots) : getBank t slot bank = getBank s slot bank := by rw [getBank, getBank, getSlot_congr h]

theorem getSlot_setSlot_same {w : Slot} : getSlot (setSlot slot w s) slot = w := tget_tset_same _

theorem getBank_setSlot_same {w : Slot} : getBank (setSlot slot w s) slot bank = w.bank bank := congrArg (Slot.bank · bank) getSlot_setSlot_same

theorem bank_setBank_same {w : Slot} (h : bank < 2) : (w.setBank bank x).bank bank = x := by
  obtain rfl | rfl : bank = 0 ∨ bank = 1 := by omega
  · rfl
  · rfl

theorem bank_setBank_other {w : Slot} (h : b' ≠ bank) : (w.setBank bank x).bank b' = w.bank b' := by
  unfold Slot.setBank Slot.bank
  by_cases h0 : bank = 0
  · subst h0
    simp [h]
  · by_cases h1 : bank = 1
    · rw [if_neg h0, if_pos h1]
      simp [show b' ≠ 1 by omega]
    · rw [if_neg h0, if_neg h1]

theorem getSlot_setBank : getSlot (setBank slot bank x s) slot = (getSlot s slot).setBank bank x := getSlot_setSlot_same

theorem getBank_setBank_same (h : bank < 2) : getBank (setBank slot bank x s) slot bank = x :=
  (congrArg (Slot.bank · bank) getSlot_setBank).trans (bank_setBank_same h)

theorem getBank_setBank_other (h : b' ≠ bank) : getBank (setBank slot bank x s) slot b' = getBank s slot b' :=
  (congrArg (Slot.bank · b') getSlot_setBank).trans (bank_setBank_other h)

theorem setBank_fields {w : Slot} : (w.setBank bank x).verifying = w.verifying ∧ (w.setBank bank x).loaded = w.loaded ∧
    (w.setBank bank x).commitTime = w.commitTime := by
  unfold Slot.setBank
  split
  · exact ⟨rfl, rfl, rfl⟩
  · split
    · exact ⟨rfl, rfl, rfl⟩
    · exact ⟨rfl, rfl, rfl⟩

theorem bankIn_lt {st : BankSt} (h : bankIn s slot st = some bank) : bank < 2 ∧ (getBank s slot bank).st = st := by
  unfold bankIn at h
  split at h
  · next hst =>
    rw [Option.some.injEq] at h
    subst h
    exact ⟨by omega, hst⟩
  · split at h
    · next hst =>
      rw [Option.some.injEq] at h
      subst h
      exact ⟨by omega, hst⟩
    · simp at h

theorem readyBank_lt (h : readyBank s slot = some bank) : bank < 2 ∧ (getBank s slot bank).st = .ready ∧ (getBank s slot bank).retiring = false := by
  have hmem := List.mem_of_find?_eq_some h
  have hready := List.find?_some h
  simp only [Bool.and_eq_true, decide_eq_true_eq, Bool.not_eq_true'] at hready
  simp only [List.mem_cons, List.not_mem_nil, or_false] at hmem
  exact ⟨by omega, hready⟩

theorem activeBank_lt (h : activeBank s slot = some bank) : bank < 2 ∧ (getBank s slot bank).st = .active := by
  unfold activeBank at h
  dsimp only at h
  split at h
  · next hst =>
    rw [Option.some.injEq] at h
    subst h
    exact ⟨by omega, hst⟩
  · split at h
    · next hst =>
      rw [Option.some.injEq] at h
      subst h
      exact ⟨by omega, hst⟩
    · simp at h

theorem getBank_emptyBank_same (h : bank < 2) : getBank (emptyBank slot bank s) slot bank = Bank.init := getBank_setBank_same h

theorem getBank_emptyBank_other (h : b' ≠ bank) : getBank (emptyBank slot bank s) slot b' = getBank s slot b' :=
  (getBank_setBank_other h).trans (getBank_congr (dropGroups_keeps.at .slots rfl))

/-- A bank that nothing more will bind to, until its last message has ended (R373). -/
def retired (slot bank : Nat) (s : State) : State :=
  freeIfUnbound slot bank (setBank slot bank { getBank s slot bank with st := .ready, retiring := true } s)

theorem retired_eq (h : bank < 2) : retired slot bank s =
    if boundCount s slot bank = 0 then
      raise 0x0E02 slot bank 0 0 (emptyBank slot bank (setBank slot bank { getBank s slot bank with st := .ready, retiring := true } s))
    else setBank slot bank { getBank s slot bank with st := .ready, retiring := true } s := by
  have hbound : boundCount (setBank slot bank { getBank s slot bank with st := .ready, retiring := true } s) slot bank = boundCount s slot bank := rfl
  unfold retired freeIfUnbound
  dsimp only
  rw [getBank_setBank_same h, hbound]
  simp

theorem getBank_retired (h : bank < 2) : (boundCount s slot bank = 0 → getBank (retired slot bank s) slot bank = Bank.init) ∧
    (0 < boundCount s slot bank →
      (getBank (retired slot bank s) slot bank).st = .ready ∧ (getBank (retired slot bank s) slot bank).retiring = true) ∧
    (getBank (retired slot bank s) slot bank).st ≠ .active := by
  rw [retired_eq h]
  by_cases hb : boundCount s slot bank = 0
  · rw [if_pos hb]
    have hempty : ∀ w, getBank (raise 0x0E02 slot bank 0 0 (emptyBank slot bank w)) slot bank = Bank.init := fun w =>
      (getBank_congr (raise_keeps.at .slots rfl)).trans (getBank_emptyBank_same h)
    rw [hempty]
    exact ⟨fun _ => rfl, fun h => absurd hb (by omega), by decide⟩
  · rw [if_neg hb, getBank_setBank_same h]
    exact ⟨fun h => absurd h hb, fun _ => ⟨rfl, rfl⟩, by simp⟩

theorem getBank_retired_other (h : bank < 2) (hb : b' ≠ bank) : getBank (retired slot bank s) slot b' = getBank s slot b' := by
  rw [retired_eq h]
  split
  · exact (getBank_congr (raise_keeps.at .slots rfl)).trans ((getBank_emptyBank_other hb).trans (getBank_setBank_other hb))
  · exact getBank_setBank_other hb

theorem retired_posts : PostsMore s (retired slot bank s) :=
  PostsMore.trans (setBank_keeps.posts rfl) (posts_ite ((emptyBank_keeps.posts rfl).trans raise_posts) (.refl _))

theorem retired_commitTime (h : bank < 2) : (getSlot (retired slot bank s) slot).commitTime = (getSlot s slot).commitTime := by
  have hset : ∀ {y : Bank} {w : State}, (getSlot (setBank slot bank y w) slot).commitTime = (getSlot w slot).commitTime := fun {_ _} =>
    (congrArg Slot.commitTime getSlot_setBank).trans setBank_fields.2.2
  rw [retired_eq h]
  split
  · rw [getSlot_congr (raise_keeps.at .slots rfl), emptyBank, hset, getSlot_congr (dropGroups_keeps.at .slots rfl), hset]
  · exact hset

/-! ### Table entries -/

theorem byteAt_trimZeros {bs : List Byte} : byteAt (trimZeros bs) k = byteAt bs k := by
  have hback : ∀ (l : List Byte) (k : Nat), ((l.dropWhile (fun b => b == 0#8)).reverse[k]?).getD 0#8 = (l.reverse[k]?).getD 0#8 := by
    intro l
    induction l with
    | nil => intro k; rfl
    | cons a l ih =>
      intro k
      by_cases ha : a = 0#8
      · rw [List.dropWhile_cons_of_pos (by simp [ha]), ih, List.reverse_cons, List.getElem?_append]
        split
        · rfl
        · next hlen =>
          rw [List.getElem?_eq_none (by omega), ha]
          rcases hj : k - l.reverse.length with - | j
          · rfl
          · rfl
      · rw [List.dropWhile_cons_of_neg (by simp [ha])]
  unfold byteAt trimZeros
  have h := hback bs.reverse k
  rw [List.reverse_reverse] at h
  rw [h]

theorem tblEntry_putEntry {tb j : Nat} {bs : List Byte} (hi : i < 0x10000) (hj : j < 0x10000) {tb' : Nat} :
    tblEntry (putEntry tb i bs s) tb' j = if tb' = tb ∧ j = i then trimZeros bs else tblEntry s tb' j := by
  have hread : tblEntry (putEntry tb i bs s) tb' j = if tblKey tb' j = tblKey tb i then trimZeros bs else tblEntry s tb' j := tget_tset _
  rw [hread]
  refine if_congr ?_ rfl rfl
  unfold tblKey
  omega

/-- An entry whose words 2 to 7 read 0. -/
def headOnly (s : State) (i : Nat) : Prop := ∀ k, 8 ≤ k → byteAt (tblEntry s 0x30 i) k = 0

theorem headOnly_cleared (hi : i < 0x10000) {bs : List Byte} : headOnly (putEntry 0x30 i (bs.take 8 ++ List.replicate 24 0) s) i := by
  intro k hk
  rw [tblEntry_putEntry hi hi, if_pos ⟨rfl, rfl⟩, byteAt_trimZeros, byteAt, List.getElem?_append_right (by rw [List.length_take]; omega),
    List.getElem?_replicate]
  split
  · rfl
  · rfl

theorem clearWatch_cleared (hs : slot < 16) (hi : i / 16 = slot) : headOnly (clearWatch slot s) i := by
  have hlt : ∀ j ∈ (List.range 16).map (· + 16 * slot), j < 0x10000 := fun j hj => by
    rw [List.mem_map] at hj
    obtain ⟨r, hr, rfl⟩ := hj
    rw [List.mem_range] at hr
    omega
  have hmem : i ∈ (List.range 16).map (· + 16 * slot) := List.mem_map.mpr ⟨i % 16, List.mem_range.mpr (by omega), by omega⟩
  refine each_establishes_mem (P := fun j v => headOnly v j) (fun j hj v => headOnly_cleared (hlt j hj)) (fun j hj r hr v hv => ?_) i hmem
  by_cases hjr : r = j
  · subst hjr
    exact headOnly_cleared (hlt r hr)
  · intro k hk
    rw [tblEntry_putEntry (hlt j hj) (hlt r hr), if_neg (by omega)]
    exact hv k hk

/-! ### Placing a bank (R370) -/

/-- The slot table names the bank ACTIVE, and the bank it replaces retires. -/
def activated (slot bank : Nat) (gs : List Nat) (s : State) : State :=
  let w := setBank slot bank { getBank s slot bank with st := .active, groups := gs } s
  let w := setSlot slot { getSlot w slot with commitTime := devTime w % 2 ^ 32 } w
  match activeBank s slot with
  | some o => retired slot o w
  | none => w

/-- A bank is in use: its slot's watch entries begin anew, and the install is counted and reported. -/
def placed (slot bank q pos : Nat) (gs : List Nat) (s : State) : State :=
  complete q pos 0 0 0 0 (raise 0x0E01 slot bank (getBank s slot bank).check gs.length (bump 56 1 (clearWatch slot (activated slot bank gs s))))

theorem placeBank_ok {gs : List Nat} (h : placeAll slot bank (getBank s slot bank).ngroup 0 s = .ok (gs, u)) :
    placeBank slot bank q pos s = readySheaves (placed slot bank q pos gs u) := by
  unfold placeBank
  rw [h]
  rfl

theorem placeBank_error {e : Nat × Nat} (h : placeAll slot bank (getBank s slot bank).ngroup 0 s = .error e) :
    placeBank slot bank q pos s = complete q pos 0x42 0 0 0 (raise 0x0E04 slot e.1 e.2 0 s) := by
  unfold placeBank
  rw [h]

/-- What a bank's activation leaves of its slot. -/
structure Activated (slot bank : Nat) (gs : List Nat) (s t : State) : Prop where
  st : (getBank t slot bank).st = .active
  groups : (getBank t slot bank).groups = gs
  time : (getSlot t slot).commitTime = devTime s % 2 ^ 32
  old : ∀ o, activeBank s slot = some o → (getBank t slot o).st ≠ .active ∧
    (0 < boundCount s slot o → (getBank t slot o).st = .ready ∧ (getBank t slot o).retiring = true)
  posts : PostsMore s t
  count : Same (count 56) s t

theorem activated_activated {gs : List Nat} (hb : bank < 2) (hready : (getBank s slot bank).st = .ready) :
    Activated slot bank gs s (activated slot bank gs s) := by
  have hw : ∀ w : State, w = setBank slot bank { getBank s slot bank with st := .active, groups := gs } s →
      getBank (setSlot slot { getSlot w slot with commitTime := devTime w % 2 ^ 32 } w) slot bank =
        { getBank s slot bank with st := .active, groups := gs } := by
    rintro w rfl
    exact getBank_setSlot_same.trans (getBank_setBank_same hb)
  have hbound : ∀ w : State, w = setBank slot bank { getBank s slot bank with st := .active, groups := gs } s → ∀ o,
      boundCount (setSlot slot { getSlot w slot with commitTime := devTime w % 2 ^ 32 } w) slot o = boundCount s slot o := by
    rintro w rfl o
    rfl
  have htime : ∀ w : State, w = setBank slot bank { getBank s slot bank with st := .active, groups := gs } s →
      (getSlot (setSlot slot { getSlot w slot with commitTime := devTime w % 2 ^ 32 } w) slot).commitTime = devTime s % 2 ^ 32 := by
    rintro w rfl
    exact congrArg Slot.commitTime getSlot_setSlot_same
  have hposts : ∀ w : State, w = setBank slot bank { getBank s slot bank with st := .active, groups := gs } s →
      Keeps [.slots] s (setSlot slot { getSlot w slot with commitTime := devTime w % 2 ^ 32 } w) := by
    rintro w rfl
    exact setBank_keeps.after setSlot_keeps rfl
  unfold activated
  dsimp only
  generalize hdef : setBank slot bank { getBank s slot bank with st := .active, groups := gs } s = w at *
  replace hw := hw w rfl
  replace hbound := hbound w rfl
  replace htime := htime w rfl
  replace hposts := hposts w rfl
  generalize setSlot slot { getSlot w slot with commitTime := devTime w % 2 ^ 32 } w = y at *
  split
  · next o ho =>
    obtain ⟨ho2, host⟩ := activeBank_lt ho
    have hne : bank ≠ o := by
      rintro rfl
      rw [hready] at host
      exact absurd host (by decide)
    have hbank : getBank (retired slot o y) slot bank = { getBank s slot bank with st := .active, groups := gs } :=
      (getBank_retired_other ho2 hne).trans hw
    obtain ⟨-, hkept, hnot⟩ := getBank_retired (s := y) (slot := slot) ho2
    refine ⟨by rw [hbank], by rw [hbank], (retired_commitTime ho2).trans htime, fun o' ho' => ?_, (hposts.posts rfl).trans retired_posts, ?_⟩
    · obtain rfl : o = o' := by simpa [ho] using ho'
      exact ⟨hnot, fun hpos => hkept (by rwa [hbound])⟩
    · refine (hposts.same_count rfl).trans ?_
      rw [retired_eq ho2]
      refine same_ite (Same.trans ?_ (raise_count (by decide))) (setBank_keeps.same_count rfl)
      exact (setBank_keeps.same_count rfl).trans (emptyBank_keeps.same_count rfl)
  · next hnone =>
    exact ⟨by rw [hw], by rw [hw], htime, fun o ho => by rw [hnone] at ho; simp at ho, hposts.posts rfl, hposts.same_count rfl⟩

end Sys2Proof.Machine
end

section

/-!
PROOF. The install descriptors, from the first chunk to a bank in use (O54).
-/

namespace Sys2Proof.Machine

variable {s t u v : State} {slot bank q pos n i : Nat} {b : List Byte}

/-! ### INSTALL_BEGIN -/

theorem length_limits (hs : slot < 16) (hb : bank < 2) {total : Nat} (h0 : total ≠ 0) (h1 : total ≤ 2 ^ 31) :
    ¬(15 < slot ∨ 1 < bank ∨ total = 0 ∨ 2 ^ 31 < total) := by omega

/-- The bank that INSTALL_BEGIN leaves. -/
def loadingBank (b : List Byte) : Bank := { Bank.init with st := .loading, pin := (byteAt b 18).testBit 0, total := leAt b 20 8 }

/-- A bank that holds nothing begins to load. -/
def loadBegun (b : List Byte) (slot bank q pos : Nat) (s : State) : State :=
  let w := setBank slot bank (loadingBank b) (emptyBank slot bank s)
  complete q pos 0 0 0 0 (setSlot slot { getSlot w slot with loaded := 0 } w)

theorem installBegin_free (hslot : slot = byteAt b 16) (hbank : bank = byteAt b 17) (hs : slot < 16) (hb : bank < 2) (h0 : leAt b 20 8 ≠ 0)
    (h1 : leAt b 20 8 ≤ 2 ^ 31) (hfree : (getBank s slot bank).st = .empty ∨ ((getBank s slot bank).st = .ready ∧ boundCount s slot bank = 0))
    (hother : (getBank s slot (1 - bank)).st ≠ .loading) : installBegin b q pos s = loadBegun b slot bank q pos s := by
  have hinactive : (getBank s slot bank).st ≠ .active := by
    rcases hfree with h | ⟨h, -⟩
    · rw [h]; decide
    · rw [h]; decide
  have hidle : (getBank s slot bank).st ≠ .loading := by
    rcases hfree with h | ⟨h, -⟩
    · rw [h]; decide
    · rw [h]; decide
  have hbound : ¬((getBank s slot bank).st = .ready ∧ 0 < boundCount s slot bank) := by
    rintro ⟨hr, hpos⟩
    rcases hfree with h | ⟨-, h⟩
    · rw [h] at hr
      exact absurd hr (by decide)
    · omega
  unfold installBegin
  dsimp only
  rw [← hslot, ← hbank, if_neg (length_limits hs hb h0 h1), if_neg (by tauto), if_neg hidle]
  rfl

theorem installBegin_used (hslot : slot = byteAt b 16) (hbank : bank = byteAt b 17) (hs : slot < 16) (hb : bank < 2) (h0 : leAt b 20 8 ≠ 0)
    (h1 : leAt b 20 8 ≤ 2 ^ 31) (hused : (getBank s slot bank).st = .active ∨ ((getBank s slot bank).st = .ready ∧ 0 < boundCount s slot bank)) :
    installBegin b q pos s = complete q pos 0x42 0 0 0 s := by
  unfold installBegin
  dsimp only
  rw [← hslot, ← hbank, if_neg (length_limits hs hb h0 h1), if_pos (by tauto)]

theorem loadBegun_facts (hb : bank < 2) (hrun : Executes q pos s) : Completed q pos 0 0 0 0 (loadBegun b slot bank q pos s) ∧
    getBank (loadBegun b slot bank q pos s) slot bank = loadingBank b ∧
    getBank (loadBegun b slot bank q pos s) slot (1 - bank) = getBank s slot (1 - bank) ∧ (getSlot (loadBegun b slot bank q pos s) slot).loaded = 0 := by
  unfold loadBegun
  dsimp only
  have hsame : getBank (setBank slot bank (loadingBank b) (emptyBank slot bank s)) slot bank = loadingBank b := getBank_setBank_same hb
  have hother : getBank (setBank slot bank (loadingBank b) (emptyBank slot bank s)) slot (1 - bank) = getBank s slot (1 - bank) :=
    (getBank_setBank_other (by omega)).trans (getBank_emptyBank_other (by omega))
  have hposts : PostsMore s (setBank slot bank (loadingBank b) (emptyBank slot bank s)) :=
    (emptyBank_keeps.posts rfl).trans (setBank_keeps.posts rfl)
  generalize setBank slot bank (loadingBank b) (emptyBank slot bank s) = w at *
  have hslots : (complete q pos 0 0 0 0 (setSlot slot { getSlot w slot with loaded := 0 } w)).slots =
    (setSlot slot { getSlot w slot with loaded := 0 } w).slots := complete_keeps.at .slots rfl
  refine ⟨(hrun.posts (hposts.trans (setSlot_keeps.posts rfl))).complete .., ?_, ?_, ?_⟩
  · exact (getBank_congr hslots).trans (getBank_setSlot_same.trans hsame)
  · exact (getBank_congr hslots).trans (getBank_setSlot_same.trans hother)
  · exact (congrArg Slot.loaded (getSlot_congr hslots)).trans (congrArg Slot.loaded getSlot_setSlot_same)

/-! ### INSTALL_CHUNK -/

/-- A chunk within one stack's part of the bundle. -/
structure ChunkOk (off len : Nat) : Prop where
  low : 64 ≤ len
  high : len ≤ 2 ^ 24
  offAligned : off % 64 = 0
  lenAligned : len % 64 = 0
  bound : off < 2 ^ 31
  part : off / 2 ^ 29 = (off + len - 1) / 2 ^ 29

theorem bundleDpa_add {off len : Nat} (hc : ChunkOk off len) (hi : i < len) : bundleDpa slot bank (off + i) = bundleDpa slot bank off + i := by
  have hpart := hc.part
  unfold bundleDpa
  omega

theorem bundleDpa_aligned {off : Nat} (h : off % 64 = 0) : bundleDpa slot bank off % 32 = 0 := by
  unfold bundleDpa
  omega

theorem installChunk_ready {off len : Nat} {data : Option (List Byte)} (hslot : slot = byteAt b 16) (hs : slot < 16) (hoff : off = leAt b 20 8)
    (hlen : len = leAt b 28 4) (hbank : bankIn s slot .loading = some bank) (hver : (getSlot s slot).verifying = none) (hc : ChunkOk off len)
    (hdie : s.glb.dieFatal.testBit (off / 2 ^ 29) = false) (haddr : haddrOk b = true) :
    installChunk b q pos data s =
      match data with
      | none => complete q pos 0x46 0 0 0 s
      | some d => complete q pos 0 0 0 0 (setSlot slot
          { getSlot (homeWrite 4 (bundleDpa slot bank off) (padTo len d) s).1 slot with
            loaded := min (2 ^ 32 - 1) ((getSlot (homeWrite 4 (bundleDpa slot bank off) (padTo len d) s).1 slot).loaded + len) }
          (homeWrite 4 (bundleDpa slot bank off) (padTo len d) s).1) := by
  have hrange : ¬(len < 64 ∨ 2 ^ 24 < len ∨ off % 64 ≠ 0 ∨ len % 64 ≠ 0 ∨ 2 ^ 31 ≤ off ∨ off / 2 ^ 29 ≠ (off + len - 1) / 2 ^ 29) := by
    obtain ⟨h1, h2, h3, h4, h5, h6⟩ := hc
    omega
  unfold installChunk
  dsimp only
  rw [← hslot, ← hoff, ← hlen, if_neg (by omega), hbank]
  dsimp only
  rw [hver, if_neg (by simp), if_neg hrange, hdie, if_neg Bool.false_ne_true, haddr]
  exact if_neg (by simp)

/-- What a chunk that arrives leaves. -/
theorem chunk_written {off len : Nat} {d : List Byte} (hc : ChunkOk off len) (hrun : Executes q pos s)
    (hu : u = (homeWrite 4 (bundleDpa slot bank off) (padTo len d) s).1)
    (ht : t = complete q pos 0 0 0 0 (setSlot slot { getSlot u slot with loaded := min (2 ^ 32 - 1) ((getSlot u slot).loaded + len) } u)) :
    Completed q pos 0 0 0 0 t ∧ (∀ i, i < len → getMem t (bundleDpa slot bank (off + i)) = ((padTo len d)[i]?).getD 0) ∧
      (getSlot t slot).loaded = min (2 ^ 32 - 1) ((getSlot s slot).loaded + len) := by
  have hpad : (padTo len d).length = len := length_padTo
  have hbytes : ∀ i, i < len → getMem u (bundleDpa slot bank off + i) = ((padTo len d)[i]?).getD 0 := fun i hi => by
    rw [hu]
    refine homeWrite_aligned (bundleDpa_aligned hc.offAligned) ?_ (by rwa [hpad])
    have := hc.lenAligned
    omega
  have hslot : getSlot u slot = getSlot s slot := by
    rw [hu]
    exact getSlot_congr (homeWrite_keeps.at .slots rfl)
  have hposts : PostsMore s u := by
    rw [hu]
    exact homeWrite_keeps.posts rfl
  subst ht
  refine ⟨(hrun.posts (hposts.trans (setSlot_keeps.posts rfl))).complete .., fun i hi => ?_, ?_⟩
  · rw [bundleDpa_add hc hi]
    have hmem : ∀ w, (complete q pos 0 0 0 0 (setSlot slot w u)).mem = u.mem := fun w =>
      (complete_keeps.mem_eq rfl).trans (setSlot_keeps.mem_eq rfl)
    exact (same_stores_of_mem (hmem _)).getMem_eq.trans (hbytes i hi)
  · have hslots : ∀ w, getSlot (complete q pos 0 0 0 0 (setSlot slot w u)) slot = w := fun w =>
      (getSlot_congr (complete_keeps.at .slots rfl)).trans getSlot_setSlot_same
    rw [hslots, hslot]

/-! ### INSTALL_COMMIT -/

theorem getBank_verifying {x : Option (Nat × Nat)} :
    getBank (setSlot slot { getSlot s slot with verifying := x } s) slot bank = getBank s slot bank := getBank_setSlot_same

theorem installCommit_loading (hslot : slot = byteAt b 16) (hs : slot < 16) (hbank : bankIn s slot .loading = some bank)
    (hver : (getSlot s slot).verifying = none) : ∃ w, w = setBank slot bank { getBank s slot bank with check := leAt b 20 4 } s ∧
      installCommit b q pos s = setSlot slot { getSlot w slot with verifying := some (q, pos) } w := by
  refine ⟨_, rfl, ?_⟩
  unfold installCommit
  dsimp only
  rw [← hslot, if_neg (by omega), hbank]
  dsimp only
  rw [hver, if_neg (by simp)]

theorem installCommit_none (hslot : slot = byteAt b 16) (hs : slot < 16) (hbank : bankIn s slot .loading = none) (hready : readyBank s slot = none) :
    installCommit b q pos s = complete q pos 0x42 0 0 0 s := by
  unfold installCommit
  dsimp only
  rw [← hslot, if_neg (by omega), hbank]
  dsimp only
  rw [hready]

theorem installCommit_ready (hslot : slot = byteAt b 16) (hs : slot < 16) (hbank : bankIn s slot .loading = none)
    (hready : readyBank s slot = some bank) : installCommit b q pos s = placeBank slot bank q pos s := by
  unfold installCommit
  dsimp only
  rw [← hslot, if_neg (by omega), hbank]
  dsimp only
  rw [hready]

/-- What the placement of a READY bank leaves. -/
theorem placed_facts {gs : List Nat} (hs : slot < 16) (hb : bank < 2) (hready : (getBank s slot bank).st = .ready) (hrun : Executes q pos s)
    (hplace : Keeps [.groups, .plots, .tiles, .switches, .sus, .fab, .waits, .links, .hrw] s u) :
    Completed q pos 0 0 0 0 (placed slot bank q pos gs u) ∧ (getBank (placed slot bank q pos gs u) slot bank).st = .active ∧
      (getBank (placed slot bank q pos gs u) slot bank).groups = gs ∧
      (getSlot (placed slot bank q pos gs u) slot).commitTime = devTime s % 2 ^ 32 ∧ Counted 56 1 s (placed slot bank q pos gs u) ∧
      (∀ o, activeBank s slot = some o → (getBank (placed slot bank q pos gs u) slot o).st ≠ .active ∧
        (0 < boundCount s slot o → (getBank (placed slot bank q pos gs u) slot o).st = .ready ∧
          (getBank (placed slot bank q pos gs u) slot o).retiring = true)) ∧
      (∀ i, i / 16 = slot → ∀ k, 8 ≤ k → byteAt (tblEntry (placed slot bank q pos gs u) 0x30 i) k = 0) := by
  have hslots : u.slots = s.slots := hplace.at .slots rfl
  have hact := activated_activated (gs := gs) hb ((congrArg Bank.st (getBank_congr hslots)).trans hready)
  have hbound : ∀ o, boundCount u slot o = boundCount s slot o := fun o => by rw [boundCount, hplace.at .msgs rfl, boundCount]
  have hactive : activeBank u slot = activeBank s slot := by rw [activeBank, getSlot_congr hslots, activeBank]
  have htime : devTime u = devTime s := by rw [devTime, hplace.at .clk rfl, devTime]
  unfold placed
  generalize activated slot bank gs u = w at *
  have hcleared : Keeps [.tables] w (clearWatch slot w) := clearWatch_keeps
  have hwatch : ∀ i, i / 16 = slot → headOnly (clearWatch slot w) i := fun i hi => clearWatch_cleared hs hi
  generalize clearWatch slot w = y at *
  have hdone : Keeps [.cnt, .hif, .alert] y (complete q pos 0 0 0 0 (raise 0x0E01 slot bank (getBank u slot bank).check gs.length (bump 56 1 y))) :=
    (bump_keeps.after raise_keeps rfl).after complete_keeps rfl
  have hfinal : (complete q pos 0 0 0 0 (raise 0x0E01 slot bank (getBank u slot bank).check gs.length (bump 56 1 y))).slots = w.slots :=
    (hdone.at .slots rfl).trans (hcleared.at .slots rfl)
  have hcount : Counted 56 1 y (complete q pos 0 0 0 0 (raise 0x0E01 slot bank (getBank u slot bank).check gs.length (bump 56 1 y))) :=
    .after (.after (bump_counted (by decide)) (raise_count (by decide))) (complete_count (by decide) (by decide))
  have hover : Completed q pos 0 0 0 0 (complete q pos 0 0 0 0 (raise 0x0E01 slot bank (getBank u slot bank).check gs.length (bump 56 1 y))) :=
    (((hrun.posts ((hplace.posts rfl).trans hact.posts)).posts (hcleared.posts rfl)).posts (bump_posts.trans raise_posts)).complete ..
  have htables := hdone.at .tables rfl
  generalize complete q pos 0 0 0 0 _ = z at *
  refine ⟨hover, ?_, ?_, ?_, ?_, fun o ho => ?_, fun i hi k hk => ?_⟩
  · rw [getBank_congr hfinal, hact.st]
  · rw [getBank_congr hfinal, hact.groups]
  · rw [getSlot_congr hfinal, hact.time, htime]
  · exact .before (((hplace.same_count rfl).trans hact.count).trans (hcleared.same_count rfl)) hcount
  · obtain ⟨hnot, hkept⟩ := hact.old o (hactive.trans ho)
    rw [getBank_congr hfinal]
    exact ⟨hnot, fun hpos => hkept (by rwa [hbound])⟩
  · rw [tblEntry, htables]
    exact hwatch i hi k hk

/-! ### What the reads of a home post -/

theorem memUncorr_posts {a purpose die who : Nat} {scrub : Bool} : PostsMore s (memUncorr a purpose die who scrub s) := by
  unfold memUncorr
  exact (bump_posts.trans (logMem_keeps.posts rfl)).trans raiseOn_posts

theorem memCorr_posts {a : Nat} {scrub : Bool} : PostsMore s (memCorr a scrub s) := by
  have hbump : PostsMore s (bump (2328 + 10 * stackOf a + (if scrub then 2 else 0)) 1 s) := bump_posts
  refine posts_ite (PostsMore.trans ?_ raiseOn_posts) ?_
  · exact ⟨hbump.1, hbump.2⟩
  · exact ⟨hbump.1, hbump.2⟩

theorem decodeHalf_posts {h purpose die who : Nat} {scrub raced : Bool} {e : List Byte} :
    PostsMore s (decodeHalf h purpose die who scrub raced e s).1 := by
  unfold decodeHalf
  split
  · exact memUncorr_posts
  · split
    · exact .refl s
    · dsimp only
      split
      · exact .refl s
      · exact (posts_ite (.refl s) (putMem_keeps.posts rfl)).trans memCorr_posts
      · exact (posts_ite (.refl s) (setPoison_keeps.posts rfl)).trans memUncorr_posts

theorem decodeHalves_posts {purpose die who : Nat} {errs : List (Nat × List Byte)} {hs : List Nat} :
    PostsMore s (decodeHalves purpose die who errs hs s).1 := by
  induction hs generalizing s with
  | nil => exact .refl s
  | cons h hs ih => exact decodeHalf_posts.trans ih

theorem homeRead_posts {a : Nat} {errs : List (Nat × List Byte)} : PostsMore s (homeRead a n errs s).1 := by
  have hrecall : PostsMore s (each (linesOf a n) recallLine (memFlits 4 (stackOf a) 0 a n [] s)) :=
    posts_each (memFlits_keeps.posts rfl) fun _ _ => recallLine_keeps.posts rfl
  exact (hrecall.trans decodeHalves_posts).trans (memFlits_keeps.posts rfl)

theorem posts_foldl {α β : Type} {f : State × β → α → State × β} {as : List α} (hf : ∀ acc a, PostsMore acc.1 (f acc a).1) (acc : State × β) :
    PostsMore acc.1 (as.foldl f acc).1 := by
  induction as generalizing acc with
  | nil => exact .refl acc.1
  | cons a as ih => exact (hf acc a).trans (ih (f acc a))

theorem readParts_posts {errs : List (Nat × List Byte)} : PostsMore s (readParts slot bank errs s).1 := by
  unfold readParts
  refine posts_foldl (fun acc n => ?_) (s, [])
  have hread : PostsMore acc.1 (homeRead (bundleDpa slot bank (n * 2 ^ 29)) (min (2 ^ 29) (plen acc.1 slot bank n)) errs acc.1).1 := homeRead_posts
  split
  next hq =>
    rw [hq] at hread
    exact hread

/-! ### INSTALL_CHECK_DONE -/

/-- The check has read the bank and is over. -/
def checkOver (slot bank : Nat) (errs : List (Nat × List Byte)) (s : State) : State :=
  setSlot slot { getSlot (readParts slot bank errs s).1 slot with verifying := none } (readParts slot bank errs s).1

theorem installCheckDone_eq {errs : List (Nat × List Byte)} (hver : (getSlot s slot).verifying = some (q, pos))
    (hbank : bankIn s slot .loading = some bank) : installCheckDone slot errs s =
      if crc32c (readParts slot bank errs s).2 ≠ (getBank (readParts slot bank errs s).1 slot bank).check then
        complete q pos 0x49 0 0 0 (bump 57 1 (checkOver slot bank errs s))
      else if !headerOk (checkOver slot bank errs s) slot bank (getBank (readParts slot bank errs s).1 slot bank).total
          (getBank (readParts slot bank errs s).1 slot bank).pin then complete q pos 0x41 0 0 0 (checkOver slot bank errs s)
      else if namesFatal (checkOver slot bank errs s) slot bank then complete q pos 0x4A 0 0 0 (checkOver slot bank errs s)
      else placeBank slot bank q pos (setBank slot bank
        { readHeader (checkOver slot bank errs s) slot bank (getBank (readParts slot bank errs s).1 slot bank) with st := .ready }
        (checkOver slot bank errs s)) := by
  unfold installCheckDone checkOver
  rw [hver, hbank]

theorem checkOver_facts {errs : List (Nat × List Byte)} : PostsMore s (checkOver slot bank errs s) ∧
    (getSlot (checkOver slot bank errs s) slot).verifying = none ∧ getBank (checkOver slot bank errs s) slot bank = getBank s slot bank := by
  have hslot : getSlot (readParts slot bank errs s).1 slot = getSlot s slot := getSlot_congr (readParts_keeps.at .slots rfl)
  have hsame : getSlot (checkOver slot bank errs s) slot = { getSlot (readParts slot bank errs s).1 slot with verifying := none } :=
    getSlot_setSlot_same
  refine ⟨readParts_posts.trans (setSlot_keeps.posts rfl), congrArg Slot.verifying hsame, ?_⟩
  refine (congrArg (Slot.bank · bank) hsame).trans ?_
  rw [hslot]
  rfl

theorem bundleNat_congr (h : t.mem = s.mem) : bundleNat t = bundleNat s := by
  funext slot bank o n
  simp only [bundleNat, bundleByte, (same_stores_of_mem h).getMem_eq, (same_stores_of_mem h).poisoned_eq]

theorem headerOk_congr (h : t.mem = s.mem) {total : Nat} {pin : Bool} : headerOk t slot bank total pin = headerOk s slot bank total pin := by
  have hhdr : hdr t = hdr s := bundleNat_congr h
  have hplen : plen t = plen s := by
    funext slot b n
    rw [plen, hhdr, plen]
  have hbytes : bundleBytes t = bundleBytes s := by
    funext slot b o n
    simp only [bundleBytes, (same_stores_of_mem h).getMem_eq]
  unfold headerOk
  rw [hhdr, hplen, hbytes, bundleNat_congr h]

section
variable {errs : List (Nat × List Byte)} {d : Desc}

theorem checkOver_mem : (checkOver slot bank errs s).mem = (readParts slot bank errs s).1.mem := setSlot_keeps.mem_eq rfl

/-- The check's outcome, by what the bank was read as. -/
theorem installCheckDone_read (hver : (getSlot s slot).verifying = some (q, pos)) (hbank : bankIn s slot .loading = some bank) :
    installCheckDone slot errs s =
      if crc32c (readParts slot bank errs s).2 ≠ (getBank s slot bank).check then complete q pos 0x49 0 0 0 (bump 57 1 (checkOver slot bank errs s))
      else if !headerOk (readParts slot bank errs s).1 slot bank (getBank s slot bank).total (getBank s slot bank).pin then
        complete q pos 0x41 0 0 0 (checkOver slot bank errs s)
      else if namesFatal (readParts slot bank errs s).1 slot bank then complete q pos 0x4A 0 0 0 (checkOver slot bank errs s)
      else placeBank slot bank q pos (setBank slot bank
        { readHeader (checkOver slot bank errs s) slot bank (getBank s slot bank) with st := .ready } (checkOver slot bank errs s)) := by
  have hread : getBank (readParts slot bank errs s).1 slot bank = getBank s slot bank := getBank_congr (readParts_keeps.at .slots rfl)
  have hglb : (checkOver slot bank errs s).glb = (readParts slot bank errs s).1.glb := setSlot_keeps.glb_eq rfl
  have hfatal : namesFatal (checkOver slot bank errs s) slot bank = namesFatal (readParts slot bank errs s).1 slot bank := by
    unfold namesFatal hdr
    rw [bundleNat_congr checkOver_mem, hglb]
  rw [installCheckDone_eq hver hbank, hread, headerOk_congr checkOver_mem, hfatal]

theorem findDesc_posts (hp : PostsMore s t) (hd : findDesc s q pos = some d) : findDesc t q pos = some d := by
  rw [findDesc, hp.getSq, ← findDesc, hd]

theorem check_wrongValue (hver : (getSlot s slot).verifying = some (q, pos)) (hbank : bankIn s slot .loading = some bank)
    (hd : findDesc s q pos = some d) (hcrc : crc32c (readParts slot bank errs s).2 ≠ (getBank s slot bank).check) :
    ∃ t, installCheckDone slot errs s = t ∧ Completed q pos 0x49 0 0 0 t ∧ (getSlot t slot).verifying = none ∧
      getBank t slot bank = getBank s slot bank := by
  obtain ⟨hposts, hover, hsame⟩ := checkOver_facts (slot := slot) (bank := bank) (errs := errs) (s := s)
  have hslots : (complete q pos 0x49 0 0 0 (bump 57 1 (checkOver slot bank errs s))).slots = (checkOver slot bank errs s).slots :=
    (complete_keeps.at .slots rfl).trans (bump_keeps.at .slots rfl)
  exact ⟨_, (installCheckDone_read hver hbank).trans (if_pos hcrc), complete_completed (findDesc_posts (hposts.trans bump_posts) hd),
    (congrArg Slot.verifying (getSlot_congr hslots)).trans hover, (getBank_congr hslots).trans hsame⟩

theorem check_badHeader (hver : (getSlot s slot).verifying = some (q, pos)) (hbank : bankIn s slot .loading = some bank)
    (hd : findDesc s q pos = some d) (hcrc : crc32c (readParts slot bank errs s).2 = (getBank s slot bank).check)
    (hok : headerOk (readParts slot bank errs s).1 slot bank (getBank s slot bank).total (getBank s slot bank).pin = false) :
    ∃ t, installCheckDone slot errs s = t ∧ Completed q pos 0x41 0 0 0 t ∧ (getSlot t slot).verifying = none := by
  obtain ⟨hposts, hover, -⟩ := checkOver_facts (slot := slot) (bank := bank) (errs := errs) (s := s)
  have heq := installCheckDone_read (errs := errs) hver hbank
  rw [if_neg (not_not_intro hcrc), hok, if_pos (by rfl)] at heq
  exact ⟨_, heq, complete_completed (findDesc_posts hposts hd), (congrArg Slot.verifying (getSlot_congr (complete_keeps.at .slots rfl))).trans hover⟩

theorem check_fatalDie (hver : (getSlot s slot).verifying = some (q, pos)) (hbank : bankIn s slot .loading = some bank)
    (hd : findDesc s q pos = some d) (hcrc : crc32c (readParts slot bank errs s).2 = (getBank s slot bank).check)
    (hok : headerOk (readParts slot bank errs s).1 slot bank (getBank s slot bank).total (getBank s slot bank).pin = true)
    (hf : namesFatal (readParts slot bank errs s).1 slot bank = true) :
    ∃ t, installCheckDone slot errs s = t ∧ Completed q pos 0x4A 0 0 0 t := by
  obtain ⟨hposts, -, -⟩ := checkOver_facts (slot := slot) (bank := bank) (errs := errs) (s := s)
  have heq := installCheckDone_read (errs := errs) hver hbank
  rw [if_neg (not_not_intro hcrc), hok, if_neg (by simp), hf, if_pos rfl] at heq
  exact ⟨_, heq, complete_completed (findDesc_posts hposts hd)⟩

theorem check_passed (hver : (getSlot s slot).verifying = some (q, pos)) (hbank : bankIn s slot .loading = some bank)
    (hcrc : crc32c (readParts slot bank errs s).2 = (getBank s slot bank).check)
    (hok : headerOk (readParts slot bank errs s).1 slot bank (getBank s slot bank).total (getBank s slot bank).pin = true)
    (hf : namesFatal (readParts slot bank errs s).1 slot bank = false) :
    ∃ u, installCheckDone slot errs s = placeBank slot bank q pos u ∧ (getBank u slot bank).st = .ready ∧ (getSlot u slot).verifying = none ∧
      (getBank u slot bank).ngroup = hdr (readParts slot bank errs s).1 slot bank 7 1 ∧
      (getBank u slot bank).npass = hdr (readParts slot bank errs s).1 slot bank 8 4 ∧ (getBank u slot bank).check = (getBank s slot bank).check := by
  obtain ⟨-, hover, -⟩ := checkOver_facts (slot := slot) (bank := bank) (errs := errs) (s := s)
  have heq := installCheckDone_read (errs := errs) hver hbank
  rw [if_neg (not_not_intro hcrc), hok, if_neg (by simp), hf, if_neg (by simp)] at heq
  have hhdr : hdr (checkOver slot bank errs s) = hdr (readParts slot bank errs s).1 := bundleNat_congr checkOver_mem
  have hset := getBank_setBank_same (s := checkOver slot bank errs s) (slot := slot)
    (x := { readHeader (checkOver slot bank errs s) slot bank (getBank s slot bank) with st := .ready }) (bankIn_lt hbank).1
  refine ⟨_, heq, congrArg Bank.st hset, (congrArg Slot.verifying getSlot_setBank).trans (setBank_fields.1.trans hover),
    (congrArg Bank.ngroup hset).trans ?_, (congrArg Bank.npass hset).trans ?_, (congrArg Bank.check hset).trans rfl⟩
  · exact congrFun (congrFun (congrFun (congrFun hhdr slot) bank) 7) 1
  · exact congrFun (congrFun (congrFun (congrFun hhdr slot) bank) 8) 4

end

/-! ### INSTALL_ABORT -/

theorem stopCheck_idle {st : Nat} (h : (getSlot s slot).verifying = none) : stopCheck slot st s = s := by
  unfold stopCheck
  dsimp only
  rw [h]

theorem installAbort_loading (hslot : slot = byteAt b 16) (hs : slot < 16) (hbank : bankIn s slot .loading = some bank)
    (hver : (getSlot s slot).verifying = none) : installAbort b q pos s = complete q pos 0 0 0 0 (emptyBank slot bank s) := by
  unfold installAbort
  dsimp only
  rw [← hslot, if_neg (by omega), hbank]
  dsimp only
  rw [stopCheck_idle hver]

theorem installAbort_ready (hslot : slot = byteAt b 16) (hs : slot < 16) (hbank : bankIn s slot .loading = none)
    (hready : readyBank s slot = some bank) : installAbort b q pos s = complete q pos 0 0 0 0 (emptyBank slot bank s) := by
  unfold installAbort
  dsimp only
  rw [← hslot, if_neg (by omega), hbank]
  dsimp only
  rw [hready]

theorem installAbort_active (hslot : slot = byteAt b 16) (hs : slot < 16) (hbank : bankIn s slot .loading = none)
    (hready : readyBank s slot = none) (hactive : activeBank s slot = some bank) : installAbort b q pos s =
      if streamsOn s slot = 0 then complete q pos 0 0 0 0 (retired slot bank s) else complete q pos 0x42 0 0 0 s := by
  unfold installAbort
  dsimp only
  rw [← hslot, if_neg (by omega), hbank]
  dsimp only
  rw [hready]
  dsimp only
  rw [hactive]
  rfl

/-! ### The install descriptors -/

theorem descRunHbm_runs {op : Nat} {f : List Byte → State → State} (hup : hbmUp s = true)
    (h : runnable s q pos op (fun b => !descHeld s op b) = some b) : descRunHbm q pos op f s = f b (startDesc q pos s) := by
  unfold descRunHbm
  rw [if_pos hup, descRun_runs h]

theorem complete_startDesc_slots {st : Nat} : (complete q pos st 0 0 0 (startDesc q pos s)).slots = s.slots :=
  (complete_keeps.at .slots rfl).trans (startDesc_keeps.at .slots rfl)

/-- Settles O54: each install descriptor through the equation of its case and what it leaves of its bank. -/
theorem installs : Obligations.Installs := by
  unfold Obligations.Installs
  refine ⟨?_, ?_, ?_, ?_, ?_⟩
  · intro s q pos b slot bank hrun hslot hbank hs hb h0 h1
    have hexec : exec (.installBegin q pos) s = .next (installBegin b q pos (startDesc q pos s)) :=
      congrArg Host.Outcome.next (descRun_runs (f := fun b => installBegin b q pos) hrun)
    have hstart : Executes q pos (startDesc q pos s) := startDesc_executes hrun
    refine ⟨fun hfree hother => ?_, fun hused => ?_⟩
    · exact ⟨_, hexec.trans (congrArg _ (installBegin_free hslot hbank hs hb h0 h1 hfree hother)), loadBegun_facts hb hstart⟩
    · exact ⟨_, hexec.trans (congrArg _ (installBegin_used hslot hbank hs hb h0 h1 hused)), hstart.complete .., complete_startDesc_slots⟩
  · intro s q pos b d slot bank off len hup hrun hslot hs hoff hlen hbank hver hl1 hl2 ho1 hl3 ho2 hpart hdie haddr
    have hc : ChunkOk off len := ⟨hl1, hl2, ho1, hl3, ho2, hpart⟩
    have hstart : Executes q pos (startDesc q pos s) := startDesc_executes hrun
    have hexec : ∀ data, exec (.installChunk q pos data) s = .next (installChunk b q pos data (startDesc q pos s)) := fun data =>
      congrArg Host.Outcome.next (descRunHbm_runs (f := fun b => installChunk b q pos data) hup hrun)
    have hready := fun data => installChunk_ready (s := startDesc q pos s) (q := q) (pos := pos) (data := data) hslot hs hoff hlen hbank hver hc hdie haddr
    refine ⟨⟨_, (hexec _).trans (congrArg _ (hready (some d))), chunk_written (s := startDesc q pos s) hc hstart rfl rfl⟩,
      ⟨_, (hexec _).trans (congrArg _ (hready none)), hstart.complete .., ?_, complete_startDesc_slots⟩⟩
    exact (complete_keeps.mem_eq rfl).trans (startDesc_keeps.mem_eq rfl)
  · intro s q pos b slot bank hup hrun hslot hs
    have hstart : Executes q pos (startDesc q pos s) := startDesc_executes hrun
    have hexec : exec (.installCommit q pos) s = .next (installCommit b q pos (startDesc q pos s)) :=
      congrArg Host.Outcome.next (descRunHbm_runs (f := fun b => installCommit b q pos) hup hrun)
    refine ⟨fun hbank hver => ?_, fun hbank hready => ?_, fun gs u hbank hready hplace => ?_, fun i n hbank hready hplace => ?_⟩
    · obtain ⟨w, hw, heq⟩ := installCommit_loading (s := startDesc q pos s) (q := q) (pos := pos) hslot hs hbank hver
      obtain ⟨hb2, hst⟩ := bankIn_lt hbank
      have hbankw : getBank w slot bank = { getBank s slot bank with check := leAt b 20 4 } := by
        rw [hw]
        exact getBank_setBank_same hb2
      have hposts : PostsMore (startDesc q pos s) w := by
        rw [hw]
        exact setBank_keeps.posts rfl
      refine ⟨_, hexec.trans (congrArg _ heq), hstart.posts (hposts.trans (setSlot_keeps.posts rfl)), ?_, ?_, ?_⟩
      · exact congrArg Slot.verifying getSlot_setSlot_same
      · exact (congrArg Bank.check (getBank_verifying.trans hbankw)).trans rfl
      · exact (congrArg Bank.st (getBank_verifying.trans hbankw)).trans hst
    · exact ⟨_, hexec.trans (congrArg _ (installCommit_none hslot hs hbank hready)), hstart.complete .., complete_startDesc_slots⟩
    · obtain ⟨hb2, hst, -⟩ := readyBank_lt hready
      have heq := (installCommit_ready (s := startDesc q pos s) (q := q) (pos := pos) hslot hs hbank hready).trans (placeBank_ok hplace)
      exact ⟨_, hexec.trans (congrArg _ heq), placed_facts (s := startDesc q pos s) hs hb2 hst hstart (placeAll_keeps hplace)⟩
    · have heq := (installCommit_ready (s := startDesc q pos s) (q := q) (pos := pos) hslot hs hbank hready).trans (placeBank_error hplace)
      have hkeeps : ∀ r a b c, Keeps [.cnt, .hif, .alert] s (complete q pos 0x42 0 0 0 (raise r a b c 0 (startDesc q pos s))) := fun _ _ _ _ =>
        ((startDesc_keeps.weaken rfl).after raise_keeps rfl).after complete_keeps rfl
      exact ⟨_, hexec.trans (congrArg _ heq), (hstart.posts raise_posts).complete .., (hkeeps ..).at .slots rfl, (hkeeps ..).at .groups rfl,
        (hkeeps ..).at .plots rfl⟩
  · intro s slot q pos bank d errs r hup hver hbank hd hr
    have hexec : exec (.installCheckDone slot errs) s = .next (installCheckDone slot errs s) := by
      have hcmd : exec (.installCheckDone slot errs) s = .next (if hbmUp s then installCheckDone slot errs s else s) := rfl
      rw [hcmd, if_pos hup]
    rw [hr]
    refine ⟨fun hcrc => ?_, fun hcrc hok => ?_, fun hcrc hok hf => ?_, fun hcrc hok hf => ?_⟩
    · obtain ⟨t, heq, hrest⟩ := check_wrongValue hver hbank hd hcrc
      exact ⟨t, hexec.trans (congrArg _ heq), hrest⟩
    · obtain ⟨t, heq, hrest⟩ := check_badHeader hver hbank hd hcrc hok
      exact ⟨t, hexec.trans (congrArg _ heq), hrest⟩
    · obtain ⟨t, heq, hrest⟩ := check_fatalDie hver hbank hd hcrc hok hf
      exact ⟨t, hexec.trans (congrArg _ heq), hrest⟩
    · obtain ⟨u, heq, hrest⟩ := check_passed hver hbank hcrc hok hf
      exact ⟨u, hexec.trans (congrArg _ heq), hrest⟩
  · intro s q pos b slot bank hrun hslot hs
    have hexec : exec (.installAbort q pos) s = .next (installAbort b q pos (startDesc q pos s)) :=
      congrArg Host.Outcome.next (descRun_runs (f := fun b => installAbort b q pos) hrun)
    have hstart : Executes q pos (startDesc q pos s) := startDesc_executes hrun
    have hempty : ∀ w, bank < 2 → getBank (complete q pos 0 0 0 0 (emptyBank slot bank w)) slot bank = Bank.init := fun w hb =>
      (getBank_congr (complete_keeps.at .slots rfl)).trans (getBank_emptyBank_same hb)
    have hdone : Completed q pos 0 0 0 0 (complete q pos 0 0 0 0 (emptyBank slot bank (startDesc q pos s))) :=
      (hstart.posts (emptyBank_keeps.posts rfl)).complete ..
    refine ⟨fun hbank hver => ?_, fun hbank hready => ?_, fun hbank hready hactive hon => ?_, fun hbank hready hactive hon => ?_⟩
    · exact ⟨_, hexec.trans (congrArg _ (installAbort_loading hslot hs hbank hver)), hdone, hempty _ (bankIn_lt hbank).1⟩
    · exact ⟨_, hexec.trans (congrArg _ (installAbort_ready hslot hs hbank hready)), hdone, hempty _ (readyBank_lt hready).1⟩
    · have hb2 := (activeBank_lt hactive).1
      obtain ⟨hfreed, hkept, -⟩ := getBank_retired (s := startDesc q pos s) (slot := slot) hb2
      have heq := installAbort_active (s := startDesc q pos s) (q := q) (pos := pos) hslot hs hbank hready hactive
      replace heq := heq.trans (if_pos hon)
      have hslots := getBank_congr (slot := slot) (bank := bank) (complete_keeps.at .slots rfl :
        (complete q pos 0 0 0 0 (retired slot bank (startDesc q pos s))).slots = _)
      refine ⟨_, hexec.trans (congrArg _ heq), (hstart.posts retired_posts).complete .., fun h0 => hslots.trans (hfreed h0), fun hpos => ?_⟩
      rw [hslots]
      exact hkept hpos
    · have heq := installAbort_active (s := startDesc q pos s) (q := q) (pos := pos) hslot hs hbank hready hactive
      replace heq := heq.trans (if_neg hon)
      exact ⟨_, hexec.trans (congrArg _ heq), hstart.complete .., complete_startDesc_slots⟩

end Sys2Proof.Machine
end

section

/-!
PROOF. What the host's descriptors do: fences, table writes, injected frames, memory, snapshots, replants and returned punts (O55).
-/

namespace Sys2Proof.Machine

variable {s t u v : State} {q pos n i k : Nat} {b bs : List Byte} {d : Desc}

/-! ### Completions -/

theorem complete_open {st r0 r1 r2 : Nat} (h : findDesc s q pos = some d) : ∃ x, Same (fun s => s.hif.posted) s (setSq q x s) ∧
    complete q pos st r0 r1 r2 s = flushSq q (bump 78 1 (setSq q x s)) := by
  have hany : (getSq s q).descs.any (openAt pos) = true :=
    List.any_eq_true.mpr ⟨d, List.mem_of_find?_eq_some (findDesc_eq ▸ h), List.find?_some (findDesc_eq ▸ h)⟩
  unfold complete
  dsimp only
  rw [if_pos hany]
  exact ⟨_, rfl, rfl⟩

/-- A completion is counted once. -/
theorem complete_counted {st r0 r1 r2 : Nat} (h : findDesc s q pos = some d) : Counted 78 1 s (complete q pos st r0 r1 r2 s) := by
  obtain ⟨x, -, heq⟩ := complete_open (st := st) (r0 := r0) (r1 := r1) (r2 := r2) h
  rw [heq]
  exact .before (setSq_keeps.same_count rfl) (.after (bump_counted (by decide)) (flushSq_keeps.same_count rfl))

/-- What has been posted stays posted behind a completion. -/
theorem complete_posted {st r0 r1 r2 : Nat} {w : HostWrite} (h : w ∈ s.hif.posted) : w ∈ (complete q pos st r0 r1 r2 s).hif.posted := by
  unfold complete
  dsimp only
  split
  · have hbump := fun x => (bump_posts (idx := 78) (n := 1) (s := setSq q x s)).posted w h
    exact (flushDescs_done q _ _).1.posted w (hbump _)
  · exact h

/-! ### FENCE (R349) -/

/-- Starting a descriptor ends none: what has completed is the same. -/
theorem all_done_startDesc {m : Nat} {f : Desc → Bool} (hf : ∀ x st, f { x with st := st } = f x) :
    (getSq (startDesc q pos s) m).descs.all (fun d => f d || isDone d) = (getSq s m).descs.all (fun d => f d || isDone d) := by
  have hread : getSq (startDesc q pos s) m = if m = q then
      { getSq s q with descs := (getSq s q).descs.map (fun d => if d.pos = pos ∧ d.st = .waiting then { d with st := .executing } else d) }
      else getSq s m := tget_tset _
  rw [hread]
  split
  · next hm =>
    subst hm
    dsimp only
    rw [List.all_map]
    congr 1
    funext x
    simp only [Function.comp]
    split
    · next hx =>
      have hwait : isDone x = false := by
        unfold isDone
        rw [hx.2]
      rw [hf, hwait]
      rfl
    · rfl
  · rfl

theorem doneBelow_startDesc {m tail : Nat} : doneBelow (startDesc q pos s) m tail = doneBelow s m tail := by
  have hring : getRing (startDesc q pos s) m = getRing s m := rfl
  unfold doneBelow
  rw [hring, all_done_startDesc (f := fun d => decide (tail ≤ d.pos)) fun _ _ => rfl]

theorem fenceOpen_startDesc {m : Nat} : fenceOpen (startDesc q pos s) m d = fenceOpen s m d := by
  simp only [fenceOpen, doneBelow_startDesc]

theorem fence_runs (hd : findDesc s q pos = some d) (hrun : runnable s q pos 0x29 (fun _ => true) = some d.bytes) :
    fence q pos s = if fenceOpen s q d then complete q pos 0 0 0 0 (startDesc q pos s) else startDesc q pos s := by
  unfold fence
  rw [hd]
  dsimp only
  rw [descRun_runs hrun, fenceOpen_startDesc]

/-! ### TABLE_WRITE (R54, R98, R222, R228) -/

theorem length_trimZeros : (trimZeros bs).length ≤ bs.length := by
  rw [trimZeros, List.length_reverse, ← List.length_reverse (as := bs)]
  exact (List.dropWhile_suffix _).length_le

/-- An entry without its trailing zeros, padded again. -/
theorem padTo_trimZeros (h : bs.length = n) : padTo n (trimZeros bs) = bs := by
  have hle := length_trimZeros (bs := bs)
  refine List.ext_getElem (by rw [length_padTo, h]) fun k hk1 hk2 => ?_
  have hbyte : byteAt (padTo n (trimZeros bs)) k = byteAt bs k := by
    rw [← byteAt_trimZeros (bs := bs)]
    unfold byteAt padTo
    rw [List.take_of_length_le (by omega), List.getElem?_append]
    split
    · rfl
    · next hlen =>
      rw [List.getElem?_eq_none (l := trimZeros bs) (by omega), List.getElem?_replicate]
      split
      · rfl
      · rfl
  unfold byteAt at hbyte
  rw [List.getElem?_eq_getElem hk1, List.getElem?_eq_getElem hk2] at hbyte
  exact BitVec.eq_of_toNat_eq hbyte

theorem length_storedEntry {tb : Nat} (hw : tblWidth tb ≠ 0) (h : bs.length = tblWidth tb) : (storedEntry tb bs).length = tblWidth tb := by
  unfold storedEntry
  split
  · next htb =>
    subst htb
    have hlen : bs.length = 48 := h
    rw [List.length_append, List.length_append, List.length_take, List.length_replicate, length_slice (by omega), hlen]
    rfl
  · split
    · next htb =>
      subst htb
      rw [List.length_append, List.length_append, List.length_replicate, length_leBytes, length_slice (by rw [length_padTo]), ← h]
      exact h.symm
    · exact h

theorem tblKey_inj {tb j : Nat} (h : tblKey tb i = tblKey tb j) : i = j := by
  unfold tblKey at h
  omega

/-- The entries of a TABLE_WRITE, in order. -/
def entriesWritten (tb first : Nat) (xs : List (Nat × List Byte)) (s : State) : State :=
  each xs (fun x s => setEntry tb (first + x.1) (storedEntry tb x.2) s) s

theorem tget_tables_setEntry {tb key : Nat} : tget [] key (setEntry tb i bs s).tables = if key = tblKey tb i then trimZeros bs else tget [] key s.tables :=
  tget_tset _

theorem mem_tblBad_setEntry {tb key : Nat} : key ∈ (setEntry tb i bs s).tblBad ↔ key ∈ s.tblBad ∧ key ≠ tblKey tb i := by
  have hbad : (setEntry tb i bs s).tblBad = without (tblKey tb i) s.tblBad := rfl
  rw [hbad, without, List.mem_filter, decide_eq_true_eq]

/-- Keys that no entry has read as before. -/
theorem entriesWritten_outside {tb first key : Nat} {xs : List (Nat × List Byte)} (h : ∀ x ∈ xs, key ≠ tblKey tb (first + x.1)) :
    tget [] key (entriesWritten tb first xs s).tables = tget [] key s.tables :=
  each_preserves_mem (P := fun v => tget [] key v.tables = tget [] key s.tables) rfl fun x hx v hv => by
    rw [tget_tables_setEntry, if_neg (h x hx), hv]

/-- Each entry holds its bytes, and no mark. -/
theorem entriesWritten_within {tb first : Nat} {xs : List (Nat × List Byte)} (hdistinct : ∀ x ∈ xs, ∀ y ∈ xs, x.1 = y.1 → x = y) :
    ∀ x ∈ xs, tblEntry (entriesWritten tb first xs s) tb (first + x.1) = trimZeros (storedEntry tb x.2) ∧
      tblKey tb (first + x.1) ∉ (entriesWritten tb first xs s).tblBad := by
  refine each_establishes_mem (P := fun (x : Nat × List Byte) v => tblEntry v tb (first + x.1) = trimZeros (storedEntry tb x.2) ∧ tblKey tb (first + x.1) ∉ v.tblBad)
    (fun x _ v => ⟨tget_tables_setEntry.trans (if_pos rfl), fun h => (mem_tblBad_setEntry.mp h).2 rfl⟩) fun x hx y hy v hv => ?_
  by_cases hxy : y = x
  · subst hxy
    exact ⟨tget_tables_setEntry.trans (if_pos rfl), fun h => (mem_tblBad_setEntry.mp h).2 rfl⟩
  · have hkey : tblKey tb (first + y.1) ≠ tblKey tb (first + x.1) := fun h => hxy (hdistinct y hy x hx (by have := tblKey_inj h; omega))
    exact ⟨tget_tables_setEntry.trans ((if_neg hkey).trans hv.1), fun h => hv.2 (mem_tblBad_setEntry.mp h).1⟩

theorem entriesWritten_posts {tb first : Nat} {xs : List (Nat × List Byte)} : PostsMore s (entriesWritten tb first xs s) :=
  posts_each (.refl s) fun _ _ => ⟨rfl, fun _ h => h⟩

theorem endedAdmissions_posts {old : List (Nat × Nat)} : PostsMore s (endedAdmissions n old s) := by
  unfold endedAdmissions
  refine posts_each (.refl s) fun x v => ?_
  dsimp only
  exact posts_ite (.refl v) ((setStation_keeps.posts rfl).trans raise_posts)

/-- The first entry that a TABLE_WRITE names. -/
def firstEntry (b : List Byte) : Nat := if byteAt b 16 = 0x10 then 32 * byteAt b 17 + leAt b 20 4 else leAt b 20 4

/-- The entries that a TABLE_WRITE brings. -/
def broughtEntries (b ds : List Byte) : List (List Byte) :=
  (List.range (leAt b 24 4)).map (fun k => padTo (tblWidth (byteAt b 16)) (slice ds (tblWidth (byteAt b 16) * k) (tblWidth (byteAt b 16))))

/-- A TABLE_WRITE within its table. -/
structure TableNamed (b : List Byte) : Prop where
  width : tblWidth (byteAt b 16) ≠ 0
  count : leAt b 20 4 + leAt b 24 4 ≤ tblCount (byteAt b 16)
  port : byteAt b 16 = 0x10 → byteAt b 17 < 8

theorem TableNamed.passes (h : TableNamed b) :
    ¬(tblWidth (byteAt b 16) = 0 ∨ tblCount (byteAt b 16) < leAt b 20 4 + leAt b 24 4 ∨ (byteAt b 16 = 0x10 ∧ 7 < byteAt b 17)) := by
  obtain ⟨hw, hc, hp⟩ := h
  rintro (h | h | ⟨h, h7⟩)
  · exact hw h
  · omega
  · have := hp h
    omega

theorem tableWrite_noTable {data : Option (List Byte)} (h : tblWidth (byteAt b 16) = 0) : tableWrite b q pos data s = complete q pos 0x41 0 0 0 s :=
  if_pos (.inl h)

theorem tableWrite_noData (h : TableNamed b) (haddr : haddrOk b = true) : tableWrite b q pos none s = complete q pos 0x46 0 0 0 s := by
  unfold tableWrite
  dsimp only
  rw [if_neg h.passes, haddr]
  rfl

theorem tableWrite_entries {ds : List Byte} (h : TableNamed b) (haddr : haddrOk b = true)
    (htpl : byteAt b 16 = 0x40 → ∀ e ∈ broughtEntries b ds, tplOk e = true) : ∃ old, tableWrite b q pos (some ds) s =
      complete q pos 0 0 0 0 (endedAdmissions (byteAt b 17) old
        (entriesWritten (byteAt b 16) (firstEntry b) ((List.range (leAt b 24 4)).zip (broughtEntries b ds)) s)) := by
  have hok : ¬(byteAt b 16 = 0x40 ∧ (broughtEntries b ds).all tplOk = false) := by
    rintro ⟨h40, hall⟩
    rw [List.all_eq_true.mpr (htpl h40)] at hall
    simp at hall
  unfold tableWrite
  dsimp only
  unfold broughtEntries at hok ⊢
  rw [if_neg h.passes, haddr, if_neg (by simp), if_neg hok]
  exact ⟨_, rfl⟩

/-- What a TABLE_WRITE leaves of the tables. -/
theorem tableWrite_written {ds : List Byte} (h : TableNamed b) (haddr : haddrOk b = true)
    (htpl : byteAt b 16 = 0x40 → ∀ e ∈ broughtEntries b ds, tplOk e = true) (hrun : Executes q pos s) :
    ∃ t, tableWrite b q pos (some ds) s = t ∧ Completed q pos 0 0 0 0 t ∧
      (∀ k e, (broughtEntries b ds)[k]? = some e → padTo (tblWidth (byteAt b 16)) (tblEntry t (byteAt b 16) (firstEntry b + k)) =
        storedEntry (byteAt b 16) e ∧ tblIsBad t (byteAt b 16) (firstEntry b + k) = false) ∧
      (∀ key, (∀ k, k < leAt b 24 4 → key ≠ tblKey (byteAt b 16) (firstEntry b + k)) → tget [] key t.tables = tget [] key s.tables) := by
  obtain ⟨old, heq⟩ := tableWrite_entries (q := q) (pos := pos) (s := s) h haddr htpl
  have hlen : (broughtEntries b ds).length = leAt b 24 4 := by simp [broughtEntries]
  have hzip : ∀ x ∈ (List.range (leAt b 24 4)).zip (broughtEntries b ds), x.1 < leAt b 24 4 ∧ (broughtEntries b ds)[x.1]? = some x.2 := by
    intro x hx
    obtain ⟨k, hk, rfl⟩ := List.mem_iff_getElem.mp hx
    rw [List.length_zip, List.length_range, hlen] at hk
    rw [List.getElem_zip, List.getElem_range]
    exact ⟨by omega, List.getElem?_eq_getElem _⟩
  have hdistinct : ∀ x ∈ (List.range (leAt b 24 4)).zip (broughtEntries b ds), ∀ y ∈ (List.range (leAt b 24 4)).zip (broughtEntries b ds),
      x.1 = y.1 → x = y := fun x hx y hy hxy =>
    Prod.ext hxy (Option.some.inj ((hzip x hx).2.symm.trans ((congrArg _ hxy).trans (hzip y hy).2)))
  have hwithin := entriesWritten_within (s := s) (tb := byteAt b 16) (first := firstEntry b) hdistinct
  have houtside := fun key => entriesWritten_outside (s := s) (tb := byteAt b 16) (first := firstEntry b) (key := key)
    (xs := (List.range (leAt b 24 4)).zip (broughtEntries b ds))
  have hposts := entriesWritten_posts (s := s) (tb := byteAt b 16) (first := firstEntry b) (xs := (List.range (leAt b 24 4)).zip (broughtEntries b ds))
  generalize entriesWritten _ _ _ s = w at *
  have hended : Keeps [.cnt, .hif, .ports, .alert] w (endedAdmissions (byteAt b 17) old w) := endedAdmissions_keeps
  have htables : (complete q pos 0 0 0 0 (endedAdmissions (byteAt b 17) old w)).tables = w.tables :=
    (complete_keeps.at .tables rfl).trans (hended.at .tables rfl)
  have hbad : (complete q pos 0 0 0 0 (endedAdmissions (byteAt b 17) old w)).tblBad = w.tblBad :=
    (complete_keeps.at .tblBad rfl).trans (hended.at .tblBad rfl)
  refine ⟨_, heq, (hrun.posts (hposts.trans endedAdmissions_posts)).complete .., fun k e he => ?_, fun key hkey => ?_⟩
  · have hk : k < leAt b 24 4 := by
      have := (List.getElem?_eq_some_iff.mp he).1
      omega
    have hmem : (k, e) ∈ (List.range (leAt b 24 4)).zip (broughtEntries b ds) := by
      refine List.mem_iff_getElem?.mpr ⟨k, ?_⟩
      rw [List.getElem?_zip_eq_some]
      exact ⟨List.getElem?_range hk, he⟩
    obtain ⟨hentry, hmark⟩ := hwithin (k, e) hmem
    have hwidth : e.length = tblWidth (byteAt b 16) := by
      unfold broughtEntries at he
      rw [List.getElem?_map, List.getElem?_range hk, Option.map_some, Option.some.injEq] at he
      rw [← he, length_padTo]
    refine ⟨?_, ?_⟩
    · rw [tblEntry, htables, ← tblEntry, hentry, padTo_trimZeros (length_storedEntry h.width hwidth)]
    · rw [tblIsBad, hbad]
      exact decide_eq_false hmark
  · rw [htables]
    exact houtside key fun x hx => hkey x.1 (hzip x hx).1

/-! ### INJECT (R352) -/

/-- The frame of an INJECT. -/
def injectedFrame (q pos : Nat) (bs : List Byte) (s : State) : Frame :=
  { newFrame s.nextFid 16 0x3F ((bs ++ fcsBytes bs).map some) true with verdict := some true, origin := some (q, pos), tEnd := some s.clk.now }

theorem inject_new {data : Option (List Byte)} (hf : s.frames.any (fun f => decide (f.origin = some (q, pos))) = false)
    (hm : s.msgs.any (fun m => decide (m.origin = some (q, pos))) = false) : inject b q pos data s =
      if leAt b 16 2 < 60 ∨ 9596 < leAt b 16 2 then complete q pos 0x41 0 0 0 s
      else if leAt b 24 8 % 4 ≠ 0 ∨ haddrOk b = false then complete q pos 0x43 0 0 0 s
      else match data with
        | none => complete q pos 0x46 0 0 0 s
        | some ds => addFrame (injectedFrame q pos (padTo (leAt b 16 2) ds) s) s := by
  unfold inject
  dsimp only
  rw [hf, hm]
  cases data
  · rfl
  · rfl

/-! ### MEM_READ and MEM_WRITE -/

theorem memRead_refused {errs : List (Nat × List Byte)} (h : memCheck b s ≠ 0) :
    memRead b q pos errs s = complete q pos (memCheck b s) 0 0 0 (countRefused b s) := if_pos h

theorem memWrite_refused {data : Option (List Byte)} (h : memCheck b s ≠ 0) :
    memWrite b q pos data s = complete q pos (memCheck b s) 0 0 0 (countRefused b s) := if_pos h

theorem memRead_passes {errs : List (Nat × List Byte)} (h : memCheck b s = 0) : memRead b q pos errs s =
    complete q pos (if (homeRead (leAt b 16 5) (leAt b 24 4) errs s).2.2 then 0x44 else 0) 0 0 0
      (dmaWrite (leAt b 32 8) (homeRead (leAt b 16 5) (leAt b 24 4) errs s).2.1 (homeRead (leAt b 16 5) (leAt b 24 4) errs s).1) := by
  unfold memRead
  dsimp only
  rw [if_neg (not_not_intro h)]

theorem memWrite_inBank {data : Option (List Byte)} (h : memCheck b s = 0) (hb : inBank s (leAt b 16 5) (leAt b 24 4) = true) :
    memWrite b q pos data s = complete q pos 0x42 0 0 0 s := by
  unfold memWrite
  dsimp only
  rw [if_neg (not_not_intro h), if_pos hb]

theorem memWrite_passes {ds : List Byte} (h : memCheck b s = 0) (hb : inBank s (leAt b 16 5) (leAt b 24 4) = false) :
    memWrite b q pos (some ds) s = complete q pos (if (homeWrite 4 (leAt b 16 5) (padTo (leAt b 24 4) ds) s).2 then 0x44 else 0) 0 0 0
      (homeWrite 4 (leAt b 16 5) (padTo (leAt b 24 4) ds) s).1 := by
  unfold memWrite
  dsimp only
  rw [if_neg (not_not_intro h), hb]
  rfl

theorem countRefused_posts : PostsMore s (countRefused b s) := by
  unfold countRefused
  dsimp only
  split
  · exact .refl s
  · split
    · exact bump_posts
    · exact .refl s

theorem dmaWrite_posts {a : Nat} : PostsMore s (dmaWrite a bs s) := posts_ite (.refl s) post_posts

theorem mem_dmaWrite {a : Nat} (h : bs ≠ []) : HostWrite.mem a bs ∈ (dmaWrite a bs s).hif.posted := by
  unfold dmaWrite
  rw [if_neg (by simpa using h)]
  exact List.mem_append_right _ (by simp)

theorem memCheck_length (h : memCheck b s = 0) : leAt b 24 4 ≠ 0 := by
  intro h0
  have hrefuse : memCheck b s = 0x41 := if_pos (.inl h0)
  omega

/-- What a MEM_READ leaves where nothing on its way is bad. -/
theorem memRead_done (h : memCheck b s = 0) (hheld : ∀ l ∈ linesOf (leAt b 16 5) (leAt b 24 4), (getDir s l).held = 0)
    (hgood : ∀ h ∈ halvesOf (leAt b 16 5) (leAt b 24 4), poisoned s h = false) (hrun : Executes q pos s) :
    ∃ t, memRead b q pos [] s = t ∧ Completed q pos 0 0 0 0 t ∧
      HostWrite.mem (leAt b 32 8) (memBytes s (leAt b 16 5) (leAt b 24 4)) ∈ t.hif.posted ∧ t.mem.hbm = s.mem.hbm := by
  obtain ⟨u, hread, hstores⟩ := homeRead_read hheld
  have hposts : PostsMore s (homeRead (leAt b 16 5) (leAt b 24 4) [] s).1 := homeRead_posts
  have hany : (halvesOf (leAt b 16 5) (leAt b 24 4)).any (fun h => poisoned s h) = false := by simpa using hgood
  have heq := memRead_passes (q := q) (pos := pos) (errs := []) h
  rw [hread] at heq hposts
  dsimp only at heq hposts
  rw [hany, if_neg Bool.false_ne_true, homeBytes_clean hgood] at heq
  have hne : memBytes s (leAt b 16 5) (leAt b 24 4) ≠ [] := fun hnil => by
    have hlen := length_memBytes (s := s) (dpa := leAt b 16 5) (n := leAt b 24 4)
    rw [hnil] at hlen
    exact memCheck_length h hlen.symm
  have hdone := (hrun.posts (hposts.trans (dmaWrite_posts (a := leAt b 32 8) (bs := memBytes s (leAt b 16 5) (leAt b 24 4))))).complete 0 0 0 0
  refine ⟨_, heq, hdone, complete_posted (mem_dmaWrite hne), ?_⟩
  rw [complete_keeps.mem_eq rfl, dmaWrite_keeps.mem_eq rfl]
  exact hbm_of_stores hstores

/-- What a MEM_WRITE leaves where no half that it meets is poisoned. -/
theorem memWrite_done {ds : List Byte} (h : memCheck b s = 0) (hb : inBank s (leAt b 16 5) (leAt b 24 4) = false)
    (hgood : ∀ h ∈ halvesOf (leAt b 16 5) (leAt b 24 4), poisoned s h = false) (hrun : Executes q pos s) :
    ∃ t, memWrite b q pos (some ds) s = t ∧ Completed q pos 0 0 0 0 t ∧
      (∀ i, i < leAt b 24 4 → getMem t (leAt b 16 5 + i) = ((padTo (leAt b 24 4) ds)[i]?).getD 0) ∧
      (∀ l ∈ linesOf (leAt b 16 5) (leAt b 24 4), (getDir t l).held = 0) := by
  have hlen : (padTo (leAt b 24 4) ds).length = leAt b 24 4 := length_padTo
  obtain ⟨hw, hflag⟩ := homeWrite_written (src := 4) (s := s) (dpa := leAt b 16 5) (bs := padTo (leAt b 24 4) ds) fun h hh =>
    .inr (hgood h (hlen ▸ hh))
  have heq := memWrite_passes (q := q) (pos := pos) (ds := ds) h hb
  rw [hflag, if_neg Bool.false_ne_true] at heq
  have hmem := fun w => complete_keeps.mem_eq (s := w) (t := complete q pos 0 0 0 0 w) rfl
  refine ⟨_, heq, (hrun.posts (homeWrite_keeps.posts rfl)).complete .., fun i hi => ?_, fun l hl => ?_⟩
  · exact (same_stores_of_mem (hmem _)).getMem_eq.trans (hw.within i (by omega))
  · rw [getDir_congr (hmem _), hw.dir, if_pos (by rwa [hlen])]
    rfl

/-! ### STATS_SNAPSHOT -/

/-- The counters of a snapshot. -/
def snapshotBytes (s : State) (lo cnt : Nat) : List Byte := (List.range cnt).flatMap (fun i => leBytes 8 (tget 0 (i + lo) s.cnt).toNat)

theorem length_snapshotBytes {lo cnt : Nat} : (snapshotBytes s lo cnt).length = 8 * cnt := by
  rw [snapshotBytes, List.length_flatMap]
  simp only [length_leBytes, List.map_const', List.length_range, List.sum_replicate, smul_eq_mul]
  omega

theorem statsSnapshot_refused {lo : Nat} (hkind : byteAt b 16 = 0) (hlo : leAt b 20 4 = 8 * lo) (h : 4096 < lo + leAt b 24 4) :
    statsSnapshot b q pos s = complete q pos 0x41 0 0 0 s := by
  unfold statsSnapshot
  dsimp only
  rw [hkind, if_pos rfl, hlo, if_pos]
  refine .inr (.inr ?_)
  rw [Nat.mul_div_cancel_left lo (by omega)]
  exact h

theorem statsSnapshot_counters {lo : Nat} (hkind : byteAt b 16 = 0) (hlo : leAt b 20 4 = 8 * lo) (haddr : haddrOk b = true)
    (h : lo + leAt b 24 4 ≤ 4096) : statsSnapshot b q pos s =
      complete q pos 0 (8 * leAt b 24 4) 0 0 (dmaWrite (leAt b 32 8) (snapshotBytes s lo (leAt b 24 4))
        (if (byteAt b 17).testBit 0 = true then each ((List.range (leAt b 24 4)).map (· + lo)) clearCounter s else s)) := by
  have hcount : ¬((5 < 0) ∨ ((0 = 0) ∧ 8 * lo % 8 ≠ 0) ∨ statCount 0 < lo + leAt b 24 4) := by
    have hstat : statCount 0 = 4096 := rfl
    omega
  have hbytes : ((List.range (leAt b 24 4)).map (· + lo)).flatMap (statRecord s 0) = snapshotBytes s lo (leAt b 24 4) := List.flatMap_map ..
  unfold statsSnapshot
  dsimp only
  rw [hkind, if_pos rfl, hlo, Nat.mul_div_cancel_left lo (by omega), if_neg hcount, haddr, hbytes, length_snapshotBytes]
  simp only [true_and, Bool.not_true, Bool.false_eq_true, if_false]

theorem clearCounter_cnt {a : Nat} : tget 0 k (clearCounter a s).cnt = if k = a then 0 else tget 0 k s.cnt := by
  have hcnt : (clearCounter a s).cnt = tset 0 a 0 s.cnt := rfl
  rw [hcnt, tget_tset]

theorem cleared_counters {ks : List Nat} : ∀ k ∈ ks, tget 0 k (each ks clearCounter s).cnt = 0 :=
  each_establishes (P := fun k v => tget 0 k v.cnt = 0) (fun _ _ => clearCounter_cnt.trans (if_pos rfl)) fun _ _ _ hk => by
    rw [clearCounter_cnt, hk, ite_self]

/-- What a snapshot of counters leaves. -/
theorem statsSnapshot_done {lo : Nat} (hkind : byteAt b 16 = 0) (hlo : leAt b 20 4 = 8 * lo) (haddr : haddrOk b = true)
    (h : lo + leAt b 24 4 ≤ 4096) (hcnt : leAt b 24 4 ≠ 0) (hrun : Executes q pos s) :
    ∃ t, statsSnapshot b q pos s = t ∧ Completed q pos 0 (8 * leAt b 24 4) 0 0 t ∧
      HostWrite.mem (leAt b 32 8) (snapshotBytes s lo (leAt b 24 4)) ∈ t.hif.posted ∧
      ((byteAt b 17).testBit 0 = true → ∀ k, lo ≤ k → k < lo + leAt b 24 4 → k ≠ 64 → k ≠ 78 → tget 0 k t.cnt = 0) := by
  have hne : snapshotBytes s lo (leAt b 24 4) ≠ [] := fun hnil => by
    have hlen := length_snapshotBytes (s := s) (lo := lo) (cnt := leAt b 24 4)
    rw [hnil] at hlen
    exact hcnt (by simpa using hlen)
  have hclear : PostsMore s (if (byteAt b 17).testBit 0 = true then each ((List.range (leAt b 24 4)).map (· + lo)) clearCounter s else s) :=
    posts_ite (posts_each (.refl s) fun _ _ => clearCounter_keeps.posts rfl) (.refl s)
  refine ⟨_, statsSnapshot_counters hkind hlo haddr h, (hrun.posts (hclear.trans dmaWrite_posts)).complete .., complete_posted (mem_dmaWrite hne),
    fun hbit k hk1 hk2 h64 h78 => ?_⟩
  rw [if_pos hbit]
  have hcleared : tget 0 k (each ((List.range (leAt b 24 4)).map (· + lo)) clearCounter s).cnt = 0 :=
    cleared_counters k (List.mem_map.mpr ⟨k - lo, List.mem_range.mpr (by omega), by omega⟩)
  have hsame : Same (count k) (each ((List.range (leAt b 24 4)).map (· + lo)) clearCounter s) (complete q pos 0 (8 * leAt b 24 4) 0 0
      (dmaWrite (leAt b 32 8) (snapshotBytes s lo (leAt b 24 4)) (each ((List.range (leAt b 24 4)).map (· + lo)) clearCounter s))) :=
    (dmaWrite_keeps.same_count rfl).trans (complete_count h78 h64)
  exact Eq.trans hsame hcleared

end Sys2Proof.Machine
end

section

/-!
PROOF. A replant that no message hears of, a punt that returns, and the host's descriptors (O55).
-/

namespace Sys2Proof.Machine

variable {s t u v : State} {q pos n i k p gid gen st : Nat} {b bs : List Byte} {d : Desc} {g : Group}

/-! ### REPLANT (R169) -/

/-- A tile that holds nothing, under a generation. -/
def tileCleared (gen k : Nat) (s : State) : Prop := (getTile s k).cfg = 0 ∧ (getTile s k).gen = gen ∧ (getTile s k).ms = []

theorem tileCleared_congr (h : t.tiles = s.tiles) (hk : tileCleared gen k s) : tileCleared gen k t := by
  unfold tileCleared
  rw [getTile, h]
  exact hk

/-- The tiles of a plot return to the empty configuration. -/
def tilesEmptied (gen p : Nat) (s : State) : State :=
  each (List.range 16) (fun k s => updTile (16 * p + k) (fun t => setGen gen
    { t with run := .idle, ms := [], msStall := false, active := TileBank.init, shadow := TileBank.init, shadowReady := false,
             seeded := false, event := none, cfg := 0 }) s) s

theorem tilesEmptied_cleared : ∀ k ∈ List.range 16, tileCleared gen (16 * p + k) (tilesEmptied gen p s) := by
  refine each_establishes (P := fun k v => tileCleared gen (16 * p + k) v) (fun k v => ?_) fun j k v hk => ?_
  · unfold tileCleared
    rw [getTile_updTile_same]
    exact ⟨rfl, rfl, rfl⟩
  · by_cases hjk : k = j
    · subst hjk
      unfold tileCleared
      rw [getTile_updTile_same]
      exact ⟨rfl, rfl, rfl⟩
    · unfold tileCleared
      rw [getTile_updTile_other (by omega)]
      exact hk

theorem tilesEmptied_other {j : Nat} (h : ∀ k, k < 16 → j ≠ 16 * p + k) : getTile (tilesEmptied gen p s) j = getTile s j :=
  each_preserves_mem (P := fun v => getTile v j = getTile s j) rfl fun k hk _ hv =>
    (getTile_updTile_other (h k (List.mem_range.mp hk))).trans hv

/-- The plot's units all hold the empty configuration. -/
def unitsEmptied (gen p : Nat) (s : State) : State :=
  updPlot p (fun v => { v with sums := [] }) (each (List.range 8) (fun k s => setSu (8 * p + k) { Su.init with gen := gen } s)
    (each (List.range 16) (fun k s => setSwitch (16 * p + k) { Switch.init with gen := gen } s) (tilesEmptied gen p s)))

theorem unitsEmptied_tiles : (unitsEmptied gen p s).tiles = (tilesEmptied gen p s).tiles := by
  have hunits : Keeps [.plots, .sus, .switches] (tilesEmptied gen p s) (unitsEmptied gen p s) := by
    refine Keeps.after (keeps_each (keeps_each (.refl _) fun _ _ h => ?_) fun _ _ h => ?_) updPlot_keeps rfl
    · exact h.after setSwitch_keeps rfl
    · exact h.after setSu_keeps rfl
  exact hunits.at .tiles rfl

/-- The plot holds no token, and nobody waits there. -/
def tokensDropped (p : Nat) (s : State) : State :=
  let s := dropGateway p { s with waits := s.waits.filter (fun w => !decide (w.req < 1024 ∧ plotOfTile w.req = p)) }
  { s with fab :=
      { s.fab with
        fifos := s.fab.fifos.filter (fun x => decide (x.1 / 1024 ≠ p)),
        feeds := s.fab.feeds.filter (fun x => decide (x.1 / 64 ≠ p)),
        seen := s.fab.seen.filter (fun x => plotOfUnit x.1 ≠ p),
        finished := s.fab.finished.filter (fun u => plotOfUnit u ≠ p),
        drain := s.fab.drain.filter (fun d => plotOfTile d.1 ≠ p) } }

theorem tokensDropped_tiles : (tokensDropped p s).tiles = s.tiles := by
  unfold tokensDropped
  dsimp only
  exact dropGateway_keeps.at .tiles rfl

theorem clearPlot_eq : clearPlot gen p s = tokensDropped p (unitsEmptied gen p (rewritten p (fun v _ => decide (plotOfUnit v = p)) s)) := rfl

theorem clearPlot_tiles : ∃ u, Keeps [.hrw] s u ∧ (clearPlot gen p s).tiles = (tilesEmptied gen p u).tiles :=
  ⟨_, rewritten_keeps, by rw [clearPlot_eq, tokensDropped_tiles, unitsEmptied_tiles]⟩

theorem clearPlot_cleared (hk : k < 16) : tileCleared gen (16 * p + k) (clearPlot gen p s) := by
  obtain ⟨u, -, htiles⟩ := clearPlot_tiles (gen := gen) (p := p) (s := s)
  exact tileCleared_congr htiles (tilesEmptied_cleared k (List.mem_range.mpr hk))

theorem clearPlot_other {j : Nat} (h : ∀ k, k < 16 → j ≠ 16 * p + k) : getTile (clearPlot gen p s) j = getTile s j := by
  obtain ⟨u, hu, htiles⟩ := clearPlot_tiles (gen := gen) (p := p) (s := s)
  rw [getTile, htiles, ← getTile, tilesEmptied_other h, getTile, hu.at .tiles rfl, ← getTile]

/-- Every tile of a group's plots is empty once each plot is. -/
theorem plotsCleared {ps : List Nat} (hk : k < 16) : ∀ p ∈ ps, tileCleared gen (16 * p + k) (each ps (clearPlot gen) s) := by
  refine each_establishes (P := fun p v => tileCleared gen (16 * p + k) v) (fun p v => clearPlot_cleared hk) fun p' p v hp => ?_
  by_cases hpp : p = p'
  · subst hpp
    exact clearPlot_cleared hk
  · unfold tileCleared
    rw [clearPlot_other fun j hj => by omega]
    exact hp

/-- The group stands under its next generation, with nothing configured. -/
def groupEmptied (gen : Nat) (g : Group) : Group := { g with gen := gen, cfg := 0, run := none, trans := none, orphans := 0, reload := true }

theorem findGroup_map {f : Group → Group} (hf : ∀ g : Group, (f g).gid = g.gid) : findGroup (updGroup gid f s) gid = (findGroup s gid).map f := by
  have hmap := find?_map_if (p := fun g : Group => decide (g.gid = gid)) (f := f) (as := s.groups) (by simp [hf])
  simpa [findGroup, updGroup] using hmap

theorem findGroup_updGroup_some {f : Group → Group} (hf : ∀ g : Group, (f g).gid = g.gid) (h : findGroup s gid = some g) :
    findGroup (updGroup gid f s) gid = some (f g) := by
  rw [findGroup_map hf, h]
  rfl

theorem findGroup_congr (h : t.groups = s.groups) : findGroup t gid = findGroup s gid := by rw [findGroup, findGroup, h]

theorem findGroup_cancelRotation (h : findGroup s gid = some g) : ∃ g', findGroup (cancelRotation gid s) gid = some g' := by
  unfold cancelRotation
  rw [h]
  dsimp only
  split
  · exact ⟨g, h⟩
  · next r _ =>
    have hfreed : ∀ ps, findGroup (each ps freePlot s) gid = some g := fun ps =>
      (findGroup_congr ((keeps_each (ps := [.plots]) (.refl s) fun _ _ hu => hu.after freePlot_keeps rfl).at .groups rfl)).trans h
    exact ⟨_, findGroup_updGroup_some (fun _ => rfl) (hfreed _)⟩

theorem countWork_posts {nj : Nat} : PostsMore s (countWork nj s) := by
  unfold countWork
  dsimp only
  exact .from bump_posts rfl

theorem refund_posts {d a w : Nat} : PostsMore s (refund d a w s) := refund_keeps.posts rfl

theorem settleRun_posts {r : Run} {used : Nat} : PostsMore s (settleRun g r used s) := countWork_posts.trans refund_posts

theorem noteWait_posts : PostsMore s (noteWait p s) := by
  unfold noteWait
  dsimp only
  split
  · exact posts_ite (updPlot_keeps.posts rfl) (.refl s)
  · exact posts_ite (.refl s) ((updPlot_keeps.posts rfl).trans bump_posts)

theorem liveMsg_none (h : s.msgs = []) : liveMsg s = fun _ => false := by
  funext mid
  rw [liveMsg, findMsg, h]
  rfl

/-- What a flush counts and returns before it empties the plots. -/
def flushCounted (g : Group) (lost : List (Nat × List Token)) (late : List (Nat × Nat)) (sums : Nat) (s : State) : State :=
  let s := cancelRotation g.gid (each lost (fun x s => bump (960 + 15 * x.1 + 3) x.2.length s) s)
  let s := bump 49 sums (each late (fun x s => bump (960 + 15 * x.1 + 7) 1 s) s)
  match g.run with
  | some r => settleRun g r (chargedSoFar s r) s
  | none => s

theorem flushCounted_facts {lost : List (Nat × List Token)} {late : List (Nat × Nat)} {sums : Nat} (h : findGroup s g.gid = some g) :
    PostsMore s (flushCounted g lost late sums s) ∧ ∃ g', findGroup (flushCounted g lost late sums s) g.gid = some g' := by
  have hlost : Keeps [.cnt, .hif, .alert] s (each lost (fun x s => bump (960 + 15 * x.1 + 3) x.2.length s) s) :=
    keeps_each (.refl s) fun _ _ hu => hu.after bump_keeps rfl
  have hlostPosts : PostsMore s (each lost (fun x s => bump (960 + 15 * x.1 + 3) x.2.length s) s) := posts_each (.refl s) fun _ _ => bump_posts
  obtain ⟨g', hg'⟩ := findGroup_cancelRotation ((findGroup_congr (hlost.at .groups rfl)).trans h)
  have hrot : PostsMore _ (cancelRotation g.gid (each lost (fun x s => bump (960 + 15 * x.1 + 3) x.2.length s) s)) := cancelRotation_keeps.posts rfl
  unfold flushCounted
  dsimp only
  generalize cancelRotation g.gid _ = w at *
  have hlate : Keeps [.cnt, .hif, .alert] w (bump 49 sums (each late (fun x s => bump (960 + 15 * x.1 + 7) 1 s) w)) :=
    (keeps_each (.refl w) fun _ _ hu => hu.after bump_keeps rfl).after bump_keeps rfl
  have hlatePosts : PostsMore w (bump 49 sums (each late (fun x s => bump (960 + 15 * x.1 + 7) 1 s) w)) :=
    (posts_each (.refl w) fun _ _ => bump_posts).trans bump_posts
  generalize bump 49 sums _ = y at *
  have hy : findGroup y g.gid = some g' := (findGroup_congr (hlate.at .groups rfl)).trans hg'
  have hposts : PostsMore s y := (hlostPosts.trans hrot).trans hlatePosts
  split
  · exact ⟨hposts.trans settleRun_posts, g', (findGroup_congr (settleRun_keeps.at .groups rfl)).trans hy⟩
  · exact ⟨hposts, g', hy⟩

theorem findGroup_gid (h : findGroup s gid = some g) : g.gid = gid := by
  have hgid := List.find?_some h
  simpa using hgid

/-- A flush that no message hears of. -/
theorem flushGroup_quiet (h : findGroup s gid = some g) (hm : s.msgs = []) : ∃ lost late sums total,
    flushGroup gid st s = (each (transPlots g) noteWait (updGroup gid (groupEmptied ((g.gen + 1) % 4))
      (each (transPlots g) (clearPlot ((g.gen + 1) % 4)) (flushCounted g lost late sums s))), total, 0) := by
  have hgid := findGroup_gid h
  subst hgid
  unfold flushGroup
  rw [h]
  dsimp only
  rw [liveMsg_none hm]
  simp only [List.filter_false]
  exact ⟨_, _, _, _, rfl⟩

/-- What a replant leaves of a group, where no message is in the engine. -/
theorem replant_quiet {cause : Nat} (h : findGroup s gid = some g) (hm : s.msgs = []) : PostsMore s (replant cause st gid s) ∧
    (∃ g', findGroup (replant cause st gid s) gid = some (groupEmptied ((g.gen + 1) % 4) g')) ∧
    (∀ p ∈ g.plots, ∀ k, k < 16 → tileCleared ((g.gen + 1) % 4) (16 * p + k) (replant cause st gid s)) := by
  obtain ⟨lost, late, sums, total, heq⟩ := flushGroup_quiet (st := st) h hm
  have hgid := findGroup_gid h
  obtain ⟨hcounted, g', hg'⟩ := flushCounted_facts (lost := lost) (late := late) (sums := sums) (hgid ▸ h)
  rw [hgid] at hg'
  have hreplant : ∃ n c x y z, replant cause st gid s = raiseOn n c x y z cause (each (transPlots g) noteWait
      (updGroup gid (groupEmptied ((g.gen + 1) % 4)) (each (transPlots g) (clearPlot ((g.gen + 1) % 4)) (flushCounted g lost late sums s)))) := by
    unfold replant
    rw [h]
    dsimp only
    rw [heq]
    exact ⟨_, _, _, _, _, rfl⟩
  obtain ⟨n, c, x, y, z, hreplant⟩ := hreplant
  rw [hreplant]
  have hcleared : ∀ p ∈ g.plots, ∀ k, k < 16 →
      tileCleared ((g.gen + 1) % 4) (16 * p + k) (each (transPlots g) (clearPlot ((g.gen + 1) % 4)) (flushCounted g lost late sums s)) :=
    fun p hp k hk => plotsCleared hk p (List.mem_append_left _ hp)
  have hkeeps : Keeps [.plots, .tiles, .switches, .sus, .fab, .waits, .links, .hrw] (flushCounted g lost late sums s)
      (each (transPlots g) (clearPlot ((g.gen + 1) % 4)) (flushCounted g lost late sums s)) :=
    keeps_each (.refl _) fun _ _ hu => hu.after clearPlot_keeps rfl
  generalize each (transPlots g) (clearPlot ((g.gen + 1) % 4)) (flushCounted g lost late sums s) = w at *
  have hw : findGroup w gid = some g' := (findGroup_congr (hkeeps.at .groups rfl)).trans hg'
  have hset : findGroup (updGroup gid (groupEmptied ((g.gen + 1) % 4)) w) gid = some (groupEmptied ((g.gen + 1) % 4) g') :=
    findGroup_updGroup_some (fun _ => rfl) hw
  have hgroup : Keeps [.groups] w (updGroup gid (groupEmptied ((g.gen + 1) % 4)) w) := updGroup_keeps
  generalize updGroup gid (groupEmptied ((g.gen + 1) % 4)) w = e at *
  have hwait : Keeps [.cnt, .hif, .plots, .alert] e (each (transPlots g) noteWait e) := keeps_each (.refl e) fun _ _ hu => hu.after noteWait_keeps rfl
  have hwaitPosts : PostsMore e (each (transPlots g) noteWait e) := posts_each (.refl e) fun _ _ => noteWait_posts
  generalize each (transPlots g) noteWait e = f at *
  refine ⟨?_, ⟨g', ?_⟩, fun p hp k hk => ?_⟩
  · exact (((hcounted.trans (hkeeps.posts rfl)).trans (hgroup.posts rfl)).trans hwaitPosts).trans raiseOn_posts
  · exact (findGroup_congr (raiseOn_keeps.at .groups rfl)).trans ((findGroup_congr (hwait.at .groups rfl)).trans hset)
  · exact tileCleared_congr (raiseOn_keeps.at .tiles rfl) (tileCleared_congr (hwait.at .tiles rfl)
      (tileCleared_congr (hgroup.at .tiles rfl) (hcleared p hp k hk)))

theorem replantDesc_missing (hid : byteAt b 16 < 64) (h : findGroup s (byteAt b 16) = none) : replantDesc b q pos s = complete q pos 0x42 0 0 0 s := by
  unfold replantDesc
  dsimp only
  rw [if_neg (by omega), if_neg (by omega), h]
  rfl

theorem replantDesc_found (hid : byteAt b 16 < 64) (h : findGroup s (byteAt b 16) = some g) :
    replantDesc b q pos s = complete q pos 0 0 0 0 (replant 0 stTainted (byteAt b 16) s) := by
  unfold replantDesc
  dsimp only
  rw [if_neg (by omega), if_neg (by omega), h]
  rfl

/-! ### PUNT_RETURN (R353) -/

/-- An egress frame is the returned punt of a descriptor. -/
def puntHeld (q pos : Nat) (x : EgrFrame) : Bool :=
  match x.kind with
  | .puntReturn q' p' _ _ _ _ => decide (q' = q ∧ p' = pos)
  | _ => false

/-- The frame that a returned punt sends on a trunk. -/
def returnedPunt (b ds : List Byte) (q pos : Nat) (s : State) : EgrFrame :=
  { kind := .puntReturn q pos 0 (leAt b 20 2) (leAt b 22 2) (devTime s)
    bytes := padTo (leAt b 18 2) ds ++ fcsBytes (padTo (leAt b 18 2) ds)
    pri := 0, sent := 0, lane := none, order := 0 }

/-- A returned punt that a trunk can carry. -/
structure PuntFits (b : List Byte) (s : State) : Prop where
  port : byteAt b 16 < 8
  plain : bitsOf (byteAt b 17) 0 2 = 0
  room : leAt b 18 2 + 4 ≤ maxFrame s (byteAt b 16)

theorem PuntFits.passes (h : PuntFits b s) : ¬(15 < byteAt b 16 ∨ bitsOf (byteAt b 17) 0 2 = 3 ∨
    (byteAt b 16 < 8 ∧ (bitsOf (byteAt b 17) 0 2 ≠ 0 ∨ maxFrame s (byteAt b 16) < leAt b 18 2 + 4)) ∨ (8 ≤ byteAt b 16 ∧ 9600 < leAt b 18 2 + 4) ∨
    (bitsOf (byteAt b 17) 0 2 ≠ 0 ∧ leAt b 18 2 < leAt b 20 2 + 44) ∨
      (bitsOf (byteAt b 17) 0 2 ≠ 0 ∧ leAt b 22 2 ≠ 0 ∧ leAt b 18 2 < leAt b 22 2 + 8)) := by
  obtain ⟨hport, hplain, hroom⟩ := h
  omega

theorem puntReturn_new {data : Option (List Byte)} (hnew : s.egress.any (fun x => x.2.any (puntHeld q pos)) = false) : puntReturn b q pos data s =
    if 15 < byteAt b 16 ∨ bitsOf (byteAt b 17) 0 2 = 3 ∨
        (byteAt b 16 < 8 ∧ (bitsOf (byteAt b 17) 0 2 ≠ 0 ∨ maxFrame s (byteAt b 16) < leAt b 18 2 + 4)) ∨ (8 ≤ byteAt b 16 ∧ 9600 < leAt b 18 2 + 4) ∨
        (bitsOf (byteAt b 17) 0 2 ≠ 0 ∧ leAt b 18 2 < leAt b 20 2 + 44) ∨
          (bitsOf (byteAt b 17) 0 2 ≠ 0 ∧ leAt b 22 2 ≠ 0 ∧ leAt b 18 2 < leAt b 22 2 + 8) then complete q pos 0x41 0 0 0 s
    else if (if byteAt b 16 < 8 then !trkEn s (byteAt b 16) else !bbpUp s (byteAt b 16)) then complete q pos 0x42 0 0 0 s
    else if !haddrOk b then complete q pos 0x43 0 0 0 s
    else match data with
      | none => complete q pos 0x46 0 0 0 s
      | some ds => enqueueEgress (byteAt b 16)
          { kind := .puntReturn q pos (bitsOf (byteAt b 17) 0 2) (leAt b 20 2) (leAt b 22 2) (devTime s)
            bytes := padTo (leAt b 18 2) ds ++ fcsBytes (padTo (leAt b 18 2) ds)
            pri := 0, sent := 0, lane := none, order := 0 } s :=
  if_neg (by
    have hsame : s.egress.any (fun x => x.2.any (puntHeld q pos)) = true → False := by rw [hnew]; exact Bool.false_ne_true
    exact hsame)

theorem puntReturn_sent {ds : List Byte} (hnew : s.egress.any (fun x => x.2.any (puntHeld q pos)) = false) (hfits : PuntFits b s)
    (hen : trkEn s (byteAt b 16) = true) (haddr : haddrOk b = true) :
    puntReturn b q pos (some ds) s = enqueueEgress (byteAt b 16) (returnedPunt b ds q pos s) s := by
  rw [puntReturn_new hnew, if_neg hfits.passes, if_pos hfits.port, hen, haddr, hfits.plain]
  rfl

theorem puntReturn_noEgress {data : Option (List Byte)} (hnew : s.egress.any (fun x => x.2.any (puntHeld q pos)) = false) (h : 15 < byteAt b 16) :
    puntReturn b q pos data s = complete q pos 0x41 0 0 0 s := by
  rw [puntReturn_new hnew, if_pos (.inl h)]

theorem puntReturn_disabled {data : Option (List Byte)} (hnew : s.egress.any (fun x => x.2.any (puntHeld q pos)) = false) (hfits : PuntFits b s)
    (hen : trkEn s (byteAt b 16) = false) : puntReturn b q pos data s = complete q pos 0x42 0 0 0 s := by
  rw [puntReturn_new hnew, if_neg hfits.passes, if_pos hfits.port, hen]
  rfl

/-! ### The host's descriptors -/

theorem runnable_desc {op : Nat} {sub : List Byte → Bool} (h : runnable s q pos op sub = some b) : ∃ d, findDesc s q pos = some d ∧ d.bytes = b := by
  unfold runnable at h
  split at h
  · simp at h
  · next d hd =>
    split at h
    · exact ⟨d, hd, Option.some.inj h⟩
    · simp at h

theorem badOpcode_runs (hrun : runnable s q pos (byteAt b 0) (fun _ => true) = some b) (hop : byteAt b 0 ∉ opcodes) :
    badOpcode q pos s = complete q pos 0x40 0 0 0 (startDesc q pos s) := by
  obtain ⟨d, hd, rfl⟩ := runnable_desc hrun
  unfold badOpcode
  rw [hd]
  dsimp only
  rw [if_neg hop, descRun_runs hrun]

/-- Settles O55: each descriptor by the equation of its case, what it leaves by what its parts leave. -/
theorem hostDescriptors : Obligations.HostDescriptors := by
  unfold Obligations.HostDescriptors
  refine ⟨?_, ?_, ?_, ?_, ?_, ?_, ?_, ?_, ?_, ?_⟩
  · intro s q pos b hrun
    obtain ⟨d, hd, -⟩ := startDesc_executes hrun
    have hexec : exec (.nopDescriptor q pos) s = .next (complete q pos 0 0 0 0 (startDesc q pos s)) :=
      congrArg Host.Outcome.next (descRun_runs (f := fun _ => complete q pos 0 0 0 0) hrun)
    exact ⟨_, hexec, complete_completed hd, .before rfl (complete_counted hd)⟩
  · intro s q pos b hrun hop
    exact ⟨_, congrArg Host.Outcome.next (badOpcode_runs hrun hop), (startDesc_executes hrun).complete ..⟩
  · intro s q pos d hd hrun
    have hstart : Executes q pos (startDesc q pos s) := startDesc_executes hrun
    refine ⟨fun hopen => ?_, fun hopen => ?_⟩
    · exact ⟨_, congrArg Host.Outcome.next ((fence_runs hd hrun).trans (if_pos hopen)), hstart.complete ..⟩
    · exact ⟨_, congrArg Host.Outcome.next ((fence_runs hd hrun).trans (if_neg (by simp [hopen]))), hstart, rfl⟩
  · intro s q pos b ds tb n idx cnt w first es hrun htb hn hidx hcnt hw hfirst
    subst htb hn hidx hcnt hw hfirst
    have hstart : Executes q pos (startDesc q pos s) := startDesc_executes hrun
    have hexec : ∀ data, exec (.tableWrite q pos data) s = .next (tableWrite b q pos data (startDesc q pos s)) := fun data =>
      congrArg Host.Outcome.next (descRun_runs (f := fun b => tableWrite b q pos data) hrun)
    have htables : ∀ st, (complete q pos st 0 0 0 (startDesc q pos s)).tables = s.tables := fun _ => complete_keeps.at .tables rfl
    refine ⟨fun hw hc hp haddr hes htpl => ?_, fun hw => ?_, fun hw hc hp haddr => ?_⟩
    · subst hes
      obtain ⟨t, heq, hrest⟩ := tableWrite_written (ds := ds) ⟨hw, hc, hp⟩ haddr htpl hstart
      exact ⟨t, (hexec _).trans (congrArg _ heq), hrest⟩
    · exact ⟨_, (hexec _).trans (congrArg _ (tableWrite_noTable hw)), hstart.complete .., htables _⟩
    · exact ⟨_, (hexec _).trans (congrArg _ (tableWrite_noData ⟨hw, hc, hp⟩ haddr)), hstart.complete .., htables _⟩
  · intro s q pos b ds len hrun hlen hf hm
    subst hlen
    have hstart : Executes q pos (startDesc q pos s) := startDesc_executes hrun
    have hexec : exec (.inject q pos (some ds)) s = .next (inject b q pos (some ds) (startDesc q pos s)) :=
      congrArg Host.Outcome.next (descRun_runs (f := fun b => inject b q pos (some ds)) hrun)
    have heq := inject_new (b := b) (data := some ds) (s := startDesc q pos s) hf hm
    refine ⟨fun hlo hhi halign haddr => ?_, fun hrange => ?_⟩
    · rw [if_neg (by omega), if_neg (by simp [halign, haddr])] at heq
      exact ⟨_, _, hexec.trans (congrArg _ heq), hstart.posts (addFrame_keeps.posts rfl), rfl, rfl, rfl, rfl, rfl⟩
    · rw [if_pos hrange] at heq
      exact ⟨_, hexec.trans (congrArg _ heq), hstart.complete .., complete_keeps.at .frames rfl⟩
  · intro s q pos b dpa len hup hrun hdpa hlen
    subst hdpa hlen
    have hstart : Executes q pos (startDesc q pos s) := startDesc_executes hrun
    have hexec : exec (.memRead q pos []) s = .next (memRead b q pos [] (startDesc q pos s)) :=
      congrArg Host.Outcome.next (descRunHbm_runs (f := fun b => memRead b q pos []) hup hrun)
    refine ⟨fun hcheck hheld hgood => ?_, fun hcheck => ?_⟩
    · obtain ⟨t, heq, hrest⟩ := memRead_done (b := b) (s := startDesc q pos s) hcheck hheld hgood hstart
      exact ⟨t, hexec.trans (congrArg _ heq), hrest⟩
    · exact ⟨_, hexec.trans (congrArg _ (memRead_refused (b := b) (s := startDesc q pos s) hcheck)), (hstart.posts countRefused_posts).complete ..,
        (complete_keeps.mem_eq rfl).trans (countRefused_keeps.mem_eq rfl)⟩
  · intro s q pos b ds dpa len hup hrun hdpa hlen
    subst hdpa hlen
    have hstart : Executes q pos (startDesc q pos s) := startDesc_executes hrun
    have hexec : exec (.memWrite q pos (some ds)) s = .next (memWrite b q pos (some ds) (startDesc q pos s)) :=
      congrArg Host.Outcome.next (descRunHbm_runs (f := fun b => memWrite b q pos (some ds)) hup hrun)
    refine ⟨fun hcheck hbank hgood => ?_, fun hcheck hbank => ?_, fun hcheck => ?_⟩
    · obtain ⟨t, heq, hrest⟩ := memWrite_done (b := b) (s := startDesc q pos s) (ds := ds) hcheck hbank hgood hstart
      exact ⟨t, hexec.trans (congrArg _ heq), hrest⟩
    · exact ⟨_, hexec.trans (congrArg _ (memWrite_inBank (b := b) (s := startDesc q pos s) hcheck hbank)), hstart.complete ..,
        complete_keeps.mem_eq rfl⟩
    · exact ⟨_, hexec.trans (congrArg _ (memWrite_refused (b := b) (s := startDesc q pos s) hcheck)), (hstart.posts countRefused_posts).complete ..,
        (complete_keeps.mem_eq rfl).trans (countRefused_keeps.mem_eq rfl)⟩
  · intro s q pos b lo cnt hrun hkind hlo hcnt haddr
    subst hcnt
    have hstart : Executes q pos (startDesc q pos s) := startDesc_executes hrun
    have hexec : exec (.statsSnapshot q pos) s = .next (statsSnapshot b q pos (startDesc q pos s)) :=
      congrArg Host.Outcome.next (descRun_runs (f := fun b => statsSnapshot b q pos) hrun)
    refine ⟨fun hrange hne => ?_, fun hrange => ?_⟩
    · obtain ⟨t, heq, hrest⟩ := statsSnapshot_done (s := startDesc q pos s) hkind hlo haddr hrange hne hstart
      exact ⟨t, hexec.trans (congrArg _ heq), hrest⟩
    · exact ⟨_, hexec.trans (congrArg _ (statsSnapshot_refused hkind hlo hrange)), hstart.complete ..⟩
  · intro s q pos b g hup hrun hid
    have hstart : Executes q pos (startDesc q pos s) := startDesc_executes hrun
    have hexec : exec (.replant q pos) s = .next (replantDesc b q pos (startDesc q pos s)) :=
      congrArg Host.Outcome.next (descRunHbm_runs (f := fun b => replantDesc b q pos) hup hrun)
    refine ⟨fun hnone => ?_, fun hg hm => ?_⟩
    · exact ⟨_, hexec.trans (congrArg _ (replantDesc_missing (s := startDesc q pos s) hid hnone)), hstart.complete .., complete_keeps.at .groups rfl⟩
    · obtain ⟨hposts, ⟨g', hg'⟩, htiles⟩ := replant_quiet (s := startDesc q pos s) (cause := 0) (st := stTainted) hg hm
      have heq := replantDesc_found (q := q) (pos := pos) (s := startDesc q pos s) hid hg
      generalize replant 0 stTainted (byteAt b 16) (startDesc q pos s) = w at *
      refine ⟨_, groupEmptied ((g.gen + 1) % 4) g', hexec.trans (congrArg _ heq), (hstart.posts hposts).complete ..,
        (findGroup_congr (complete_keeps.at .groups rfl)).trans hg', rfl, rfl, rfl, rfl, rfl, fun p hp k hk => ?_⟩
      exact tileCleared_congr (complete_keeps.at .tiles rfl) (htiles p hp k hk)
  · intro s q pos b ds e len hrun he hlen hnew
    subst he hlen
    have hstart : Executes q pos (startDesc q pos s) := startDesc_executes hrun
    have hexec : exec (.puntReturn q pos (some ds)) s = .next (bbSettle (puntReturn b q pos (some ds) (startDesc q pos s))) :=
      congrArg (Host.Outcome.next ∘ bbSettle) (descRun_runs (f := fun b => puntReturn b q pos (some ds)) hrun)
    have hnew' : (startDesc q pos s).egress.any (fun x => x.2.any (puntHeld q pos)) = false := hnew
    have hegress : ∀ st, (complete q pos st 0 0 0 (startDesc q pos s)).egress = s.egress := fun _ => complete_keeps.at .egress rfl
    refine ⟨fun hport hplain hroom hen haddr => ?_, fun hport => ?_, fun hport hplain hroom hen => ?_⟩
    · have heq := puntReturn_sent (ds := ds) hnew' ⟨hport, hplain, hroom⟩ hen haddr
      refine ⟨_, _, hexec.trans (congrArg (Host.Outcome.next ∘ bbSettle) heq), hstart.posts (enqueueEgress_keeps.posts rfl), tget_tset_same _, rfl, rfl⟩
    · exact ⟨_, hexec.trans (congrArg (Host.Outcome.next ∘ bbSettle) (puntReturn_noEgress hnew' hport)), hstart.complete .., hegress _⟩
    · exact ⟨_, hexec.trans (congrArg (Host.Outcome.next ∘ bbSettle) (puntReturn_disabled hnew' ⟨hport, hplain, hroom⟩ hen)), hstart.complete ..,
        hegress _⟩

end Sys2Proof.Machine
end

section

/-!
PROOF. The stream descriptors: what a stream without a message in flight does at once, and the rows that KV_READ and KV_WRITE move (O56).
-/

namespace Sys2Proof.Machine

variable {s t u v : State} {q pos n i j k l p a st tn count mid : Nat} {b d bs : List Byte} {w : Stream} {m : Msg}

/-! ### A stream without a message in flight (R113, R119) -/

theorem inflight_congr (h : t.msgs = s.msgs) : inflight t k = inflight s k := by rw [inflight, inflight, h]

theorem oldest_none (h : inflight s k = []) : oldest s k = none := by
  refine List.find?_eq_none.mpr fun m hm => ?_
  have hother : m.stream ≠ k := by simpa using List.filter_eq_nil_iff.mp h m hm
  simp [hother]

theorem settleStream_idle (h : inflight s k = []) : settleStream k s = s := by
  rw [settleStream, settle, oldest_none h]

theorem endHeldAll_idle (h : inflight s k = []) : endHeldAll k s = s := by
  unfold endHeldAll
  rw [h]
  exact settleStream_idle h

theorem idleStream_busy (h : inflightCount (getStream s k) ≠ 0) : idleStream k s = s := if_neg h

theorem idleStream_draining (h : inflightCount (getStream s k) = 0) (hr : (getStream s k).resetWait = none)
    (hd : (getStream s k).st = .draining) : idleStream k s = closeStream k s := by
  unfold idleStream
  rw [if_pos h, hr]
  exact if_pos hd

theorem idleStream_resets {r : ResetReq} (h : inflightCount (getStream s k) = 0) (hr : (getStream s k).resetWait = some r) :
    idleStream k s = finishReset k r s := by
  unfold idleStream
  rw [if_pos h, hr]

/-- With no message, sheaf or group there is nothing to gather, trim, place or offer. -/
theorem readySheaves_empty (hx : s.sheaves = []) (hg : s.groups = []) : readySheaves s = s := by
  have hplace : placeUnplaced s = s := by rw [placeUnplaced, hg]; rfl
  have hclosed : closedSheaves s = [] := by rw [closedSheaves, hx]; rfl
  have hjoin : joinGates s = s := by rw [joinGates, hclosed]; rfl
  unfold readySheaves
  dsimp only
  rw [hplace, hclosed]
  change offerCredit (joinGates s) = s
  rw [hjoin, offerCredit, hclosed]
  rfl

theorem resumeHeld_empty (hm : s.msgs = []) (hx : s.sheaves = []) (hg : s.groups = []) : resumeHeld k s = s := by
  have hnone : inflight s k = [] := by rw [inflight, hm]; rfl
  unfold resumeHeld
  rw [hnone]
  change readySheaves (gatherAll (settleStream k s)) = s
  rw [settleStream_idle hnone, gatherAll, hm]
  exact readySheaves_empty hx hg

/-! ### STREAM_OPEN (R113, R114) -/

/-- The context that a STREAM_OPEN writes. -/
def opened (b : List Byte) (s : State) : Stream := (openCheck b s).2

theorem streamOpen_eq : streamOpen b q pos s =
    if (openCheck b s).1 = 0 then complete q pos 0 (opened b s).home 0 0 (setStream (byteAt b 16) (opened b s) s)
    else complete q pos (openCheck b s).1 0 0 0 s := rfl

theorem streamOpen_done (h : (openCheck b s).1 = 0) :
    streamOpen b q pos s = complete q pos 0 (opened b s).home 0 0 (setStream (byteAt b 16) (opened b s) s) :=
  streamOpen_eq.trans (if_pos h)

theorem streamOpen_refused (h : (openCheck b s).1 = st) (hst : st ≠ 0) : streamOpen b q pos s = complete q pos st 0 0 0 s := by
  rw [streamOpen_eq, h, if_neg hst]

/-- The bank that a STREAM_OPEN binds to. -/
def openBank (b : List Byte) (s : State) : Bank :=
  getBank s (bitsOf (byteAt b 17) 0 4) ((activeBank s (bitsOf (byteAt b 17) 0 4)).getD 2)

/-- The stream is in use, or its slot has no active bank. -/
def openBlocked (b : List Byte) (s : State) : Prop :=
  (getStream s (byteAt b 16)).st ≠ .closed ∨ (activeBank s (bitsOf (byteAt b 17) 0 4)).isNone = true

/-- The rows of the stream would meet an address that no stack has. -/
def openHole (b : List Byte) (s : State) : Prop :=
  (openBank b s).kv = true ∧ (firstHole (opened b s).kvBase (2 * (opened b s).kvL * (opened b s).pcap * kvRow (opened b s))).isSome = true

/-- A home or a row area outside its limits. -/
def openOutside (b : List Byte) (s : State) : Prop :=
  (4 ≤ bitsOf (byteAt b 18) 0 3 ∧ bitsOf (byteAt b 18) 0 3 ≤ 6) ∨
    ((openBank b s).kv = true ∧ ((opened b s).kvCap = 0 ∨ 4096 < (opened b s).kvCap ∨ (opened b s).kvBase % 4096 ≠ 0 ∨
      stackOf (opened b s).kvBase ≠ (opened b s).home))

theorem openCheck_blocked (h : openBlocked b s) : (openCheck b s).1 = 0x42 := if_pos h

theorem openCheck_hole (h : ¬openBlocked b s) (hh : openHole b s) : (openCheck b s).1 = 0x43 := (if_neg h).trans (if_pos hh)

theorem openCheck_outside (h : ¬openBlocked b s) (hh : ¬openHole b s) (ho : openOutside b s) : (openCheck b s).1 = 0x41 :=
  ((if_neg h).trans (if_neg hh)).trans (if_pos ho)

theorem openCheck_fatal (h : ¬openBlocked b s) (hh : ¬openHole b s) (ho : ¬openOutside b s)
    (hf : s.glb.dieFatal.testBit (opened b s).home = true) : (openCheck b s).1 = 0x4A :=
  (((if_neg h).trans (if_neg hh)).trans (if_neg ho)).trans (if_pos hf)

theorem openCheck_done (h : ¬openBlocked b s) (hh : ¬openHole b s) (ho : ¬openOutside b s)
    (hf : s.glb.dieFatal.testBit (opened b s).home = false) : (openCheck b s).1 = 0 :=
  (((if_neg h).trans (if_neg hh)).trans (if_neg ho)).trans (if_neg (Bool.eq_false_iff.mp hf))

theorem openHole_iff {B : Bank} (hB : openBank b s = B) : openHole b s ↔ B.kv = true ∧ (firstHole (leAt b 24 5) (2 * B.kvL * (leAt b 22 2 + B.newPos) *
    (ceilDiv (ceilDiv (B.kvH * B.kvE * (if B.kvFmt = 0 then 4 else 8)) 8) 64 * 64))).isSome = true := by
  subst hB
  refine and_congr_right fun hkv => ?_
  have hbase : (opened b s).kvBase = leAt b 24 5 := if_pos hkv
  have hpcap : (opened b s).pcap = leAt b 22 2 + (openBank b s).newPos := (if_pos hkv).trans (congrArg (· + _) (if_pos hkv))
  rw [hbase, hpcap]
  rfl

/-- The home that a STREAM_OPEN asks for. -/
def openHome (b : List Byte) (s : State) : Nat :=
  if bitsOf (byteAt b 18) 0 3 = 7 then
    (match s.groups.find? (fun g => decide (g.slot = bitsOf (byteAt b 17) 0 4 ∧ some g.bank = activeBank s (bitsOf (byteAt b 17) 0 4))) with
      | some g => groupDie g
      | none => 0)
  else bitsOf (byteAt b 18) 0 3

theorem opened_home : (opened b s).home = openHome b s := rfl

theorem openOutside_iff {B : Bank} (hB : openBank b s = B) : openOutside b s ↔ (4 ≤ bitsOf (byteAt b 18) 0 3 ∧ bitsOf (byteAt b 18) 0 3 ≤ 6) ∨
    (B.kv = true ∧ (leAt b 22 2 = 0 ∨ 4096 < leAt b 22 2 ∨ leAt b 24 5 % 4096 ≠ 0 ∨ stackOf (leAt b 24 5) ≠ openHome b s)) := by
  subst hB
  refine or_congr_right (and_congr_right fun hkv => ?_)
  have hbase : (opened b s).kvBase = leAt b 24 5 := if_pos hkv
  have hcap : (opened b s).kvCap = leAt b 22 2 := if_pos hkv
  rw [hbase, hcap, opened_home]

theorem getStream_setStream_other {x : Stream} (hj : j ≠ k) : getStream (setStream k x s) j = getStream s j := tget_tset_other hj _

/-! ### STREAM_CLOSE (R113) -/

/-- A stream that drains, and the descriptor that waits for its end. -/
def drainBegun (q pos k : Nat) (s : State) : State :=
  setStream k { getStream s k with st := .draining, closeWait := some (q, pos) } s

theorem getStream_drainBegun :
    getStream (drainBegun q pos k s) k = { getStream s k with st := .draining, closeWait := some (q, pos) } := getStream_setStream_same

theorem streamClose_drains (h : (getStream s (byteAt b 16)).st = .opened ∨ (getStream s (byteAt b 16)).st = .fenced) :
    streamClose b q pos s = idleStream (byteAt b 16) (endHeldAll (byteAt b 16) (drainBegun q pos (byteAt b 16) s)) := if_pos h

theorem streamClose_refused (h : (getStream s (byteAt b 16)).st = .closed ∨ (getStream s (byteAt b 16)).st = .draining)
    (hw : (getStream s (byteAt b 16)).closeWait ≠ some (q, pos)) : streamClose b q pos s = complete q pos 0x42 0 0 0 s := by
  have hst : ¬((getStream s (byteAt b 16)).st = .opened ∨ (getStream s (byteAt b 16)).st = .fenced) := by
    rcases h with h | h <;> simp [h]
  exact (if_neg hst).trans (if_neg hw)

theorem drainBegun_idle (hin : inflight s k = []) (hc : inflightCount (getStream s k) = 0) (hr : (getStream s k).resetWait = none) :
    idleStream k (endHeldAll k (drainBegun q pos k s)) = closeStream k (drainBegun q pos k s) := by
  rw [endHeldAll_idle (s := drainBegun q pos k s) hin]
  apply idleStream_draining <;> rw [getStream_drainBegun]
  · exact hc
  · exact hr

theorem drainBegun_busy (hin : inflight s k = []) (hc : inflightCount (getStream s k) ≠ 0) :
    idleStream k (endHeldAll k (drainBegun q pos k s)) = drainBegun q pos k s := by
  rw [endHeldAll_idle (s := drainBegun q pos k s) hin]
  apply idleStream_busy
  rw [getStream_drainBegun]
  exact hc

/-- The end of a stream that a STREAM_CLOSE waits for. -/
theorem closeStream_closes (hw : (getStream s k).closeWait = some (q, pos)) (hrun : Executes q pos s) :
    Completed q pos 0 0 0 0 (closeStream k s) ∧ (getStream (closeStream k s) k).st = .closed := by
  have heq : closeStream k s =
      complete q pos 0 0 0 0 (raise 0x0403 k 0 0 0 (setStream k { getStream s k with st := .closed, closeWait := none, echo := none } s)) := by
    unfold closeStream
    dsimp only
    rw [hw]
  rw [heq]
  refine ⟨((hrun.posts (setStream_keeps.posts rfl)).posts raise_posts).complete .., ?_⟩
  rw [getStream_congr (complete_keeps.at .streams rfl), getStream_congr (raise_keeps.at .streams rfl), getStream_setStream_same]

/-! ### STREAM_RESET (R127) -/

/-- A descriptor that waited for its stream's end completes, for a reset came. -/
def closeRefused (k : Nat) (s : State) : State :=
  match (getStream s k).closeWait with
  | some (cq, cp) => complete cq cp 0x42 0 0 0 s
  | none => s

theorem closeRefused_keeps : Keeps [.cnt, .hif, .alert] s (closeRefused k s) := by
  unfold closeRefused
  split
  · exact complete_keeps
  · exact .refl _

/-- A message of a stream that resets: it sends nothing more and waits for nothing. -/
def silencedMsg (now : Nat) (m : Msg) : Msg :=
  { (if released m then m else withStatus now stFenced m) with
    silent := true, noFence := true, held := false, staged := false, rowsOut := [], outputs := none, loc := .idle }

theorem withStatus_mid {now : Nat} : (withStatus now st m).mid = m.mid := by
  unfold withStatus
  split
  · rfl
  · split <;> rfl

theorem silencedMsg_mid {now : Nat} : (silencedMsg now m).mid = m.mid := by
  change (if released m then m else withStatus now stFenced m).mid = m.mid
  split
  · rfl
  · exact withStatus_mid

/-- One message of a stream that resets leaves its sheaf and is silenced. -/
def silenceMsg (mid : Nat) (s : State) : State := updMsg mid (silencedMsg (leaveSheaf mid s).clk.now) (leaveSheaf mid s)

/-- A reset that waits for the begun replies of its stream. -/
def resetBegun (r : ResetReq) (k : Nat) (s : State) : State :=
  each ((inflight s k).map Msg.mid) silenceMsg (updStream k (fun v => { v with resetWait := some r, closeWait := none }) (closeRefused k s))

theorem silenceMsg_keeps : Keeps [.msgs, .sheaves, .waits, .yoke] s (silenceMsg mid s) := by
  have hleave : Keeps [.sheaves, .waits, .yoke] s (leaveSheaf mid s) := leaveSheaf_keeps
  exact (hleave.weaken rfl).after updMsg_keeps rfl

theorem findMsg_leaveSheaf : findMsg (leaveSheaf mid s) k = findMsg s k := findMsg_congr (leaveSheaf_keeps.at .msgs rfl)

theorem findMsg_silenceMsg_same : ∃ now, findMsg (silenceMsg mid s) mid = (findMsg s mid).map (silencedMsg now) :=
  ⟨_, (findMsg_updMsg_same fun _ h => silencedMsg_mid.trans h).trans (congrArg _ findMsg_leaveSheaf)⟩

theorem findMsg_silenceMsg_other (hk : k ≠ mid) : findMsg (silenceMsg mid s) k = findMsg s k :=
  (findMsg_updMsg_other hk fun _ h => silencedMsg_mid.trans h).trans findMsg_leaveSheaf

/-- A message that sends nothing more. -/
structure Quiet (m : Msg) : Prop where
  silent : m.silent = true
  held : m.held = false
  outputs : m.outputs = none
  staged : m.staged = false
  rowsOut : m.rowsOut = []

theorem silencedMsg_quiet {now : Nat} : Quiet (silencedMsg now m) := ⟨rfl, rfl, rfl, rfl, rfl⟩

theorem silenced_found {mids : List Nat} (h : (findMsg s k).isSome = true) : (findMsg (each mids silenceMsg s) k).isSome = true := by
  refine each_preserves (P := fun v => (findMsg v k).isSome = true) h fun mid v hv => ?_
  by_cases hk : k = mid
  · subst hk
    obtain ⟨now, hf⟩ := findMsg_silenceMsg_same (mid := k) (s := v)
    rw [hf, Option.isSome_map]
    exact hv
  · rw [findMsg_silenceMsg_other hk]
    exact hv

theorem silenced_quiet {mids : List Nat} : ∀ mid ∈ mids, ∀ x, findMsg (each mids silenceMsg s) mid = some x → Quiet x := by
  refine each_establishes (P := fun mid v => ∀ x, findMsg v mid = some x → Quiet x) (fun mid v x hx => ?_) fun mid k v hk => ?_
  · obtain ⟨now, hf⟩ := findMsg_silenceMsg_same (mid := mid) (s := v)
    rw [hf, Option.map_eq_some_iff] at hx
    obtain ⟨y, -, rfl⟩ := hx
    exact silencedMsg_quiet
  · by_cases h : k = mid
    · subst h
      intro x hx
      obtain ⟨now, hf⟩ := findMsg_silenceMsg_same (mid := k) (s := v)
      rw [hf, Option.map_eq_some_iff] at hx
      obtain ⟨y, -, rfl⟩ := hx
      exact silencedMsg_quiet
    · rw [findMsg_silenceMsg_other h]
      exact hk

theorem mem_silenceMsg (h : m.mid ≠ mid) (hm : m ∈ s.msgs) : m ∈ (silenceMsg mid s).msgs := by
  have hmsgs : (leaveSheaf mid s).msgs = s.msgs := leaveSheaf_keeps.at .msgs rfl
  change m ∈ (leaveSheaf mid s).msgs.map _
  rw [hmsgs]
  exact List.mem_map.mpr ⟨m, hm, if_neg h⟩

theorem mem_silenced {mids : List Nat} (h : m.mid ∉ mids) (hm : m ∈ s.msgs) : m ∈ (each mids silenceMsg s).msgs :=
  each_preserves_mem (P := fun v => m ∈ v.msgs) hm fun _ hmid _ hv => mem_silenceMsg (fun heq => h (heq ▸ hmid)) hv

theorem silenced_streams {mids : List Nat} : (each mids silenceMsg s).streams = s.streams :=
  each_preserves (P := fun v => v.streams = s.streams) rfl fun _ _ hv => (silenceMsg_keeps.at .streams rfl).trans hv

/-- The reset that a STREAM_RESET asks for. -/
def resetAsked (b : List Byte) (q pos : Nat) : ResetReq :=
  { sq := q, pos := pos, keepKv := (byteAt b 17).testBit 0, seqStart := leAt b 20 2 }

theorem closeRefused_msgs : (closeRefused k s).msgs = s.msgs := closeRefused_keeps.at .msgs rfl

theorem streamReset_begins (h : (getStream s (byteAt b 16)).st ≠ .closed) (hr : (getStream s (byteAt b 16)).resetWait = none) :
    streamReset b q pos s = idleStream (byteAt b 16) (settleStream (byteAt b 16) (resetBegun (resetAsked b q pos) (byteAt b 16) s)) := by
  have hin : ∀ f : Stream → Stream, inflight (updStream (byteAt b 16) f (closeRefused (byteAt b 16) s)) (byteAt b 16) = inflight s (byteAt b 16) :=
    fun _ => inflight_congr closeRefused_msgs
  rw [resetBegun, ← hin]
  unfold streamReset
  dsimp only
  rw [if_neg h, hr]
  unfold closeRefused
  cases (getStream s (byteAt b 16)).closeWait
  · exact if_neg Bool.false_ne_true
  · exact if_neg Bool.false_ne_true

theorem streamReset_refused (h : (getStream s (byteAt b 16)).st = .closed ∨
    ∃ r, (getStream s (byteAt b 16)).resetWait = some r ∧ (r.sq ≠ q ∨ r.pos ≠ pos)) : streamReset b q pos s = complete q pos 0x42 0 0 0 s := by
  unfold streamReset
  dsimp only
  by_cases hc : (getStream s (byteAt b 16)).st = .closed
  · rw [if_pos hc]
  · obtain ⟨r, hr, hne⟩ := h.resolve_left hc
    rw [if_neg hc, hr]
    exact (if_pos rfl).trans (if_neg (by simp only [decide_eq_true_eq]; omega))

theorem getStream_resetBegun {r : ResetReq} : (getStream (resetBegun r k s) k).resetWait = some r ∧ (getStream (resetBegun r k s) k).closeWait = none := by
  have hst : getStream (resetBegun r k s) k = { getStream (closeRefused k s) k with resetWait := some r, closeWait := none } :=
    (getStream_congr silenced_streams).trans getStream_updStream_same
  exact ⟨congrArg Stream.resetWait hst, congrArg Stream.closeWait hst⟩

theorem resetBegun_quiet {r : ResetReq} (hm : m ∈ inflight s k) : ∃ x, findMsg (resetBegun r k s) m.mid = some x ∧ Quiet x := by
  have hmem : m.mid ∈ (inflight s k).map Msg.mid := List.mem_map_of_mem hm
  have hfound : (findMsg s m.mid).isSome = true := List.find?_isSome.mpr ⟨m, List.mem_of_mem_filter hm, by simp⟩
  have hstart : ∀ f : Stream → Stream, (findMsg (updStream k f (closeRefused k s)) m.mid).isSome = true := fun _ =>
    (congrArg Option.isSome (findMsg_congr closeRefused_msgs)).trans hfound
  obtain ⟨x, hx⟩ := Option.isSome_iff_exists.mp (silenced_found (mids := (inflight s k).map Msg.mid) (hstart _))
  exact ⟨x, hx, silenced_quiet _ hmem x hx⟩

theorem mem_resetBegun {r : ResetReq} (hm : m ∈ s.msgs) (h : m.mid ∉ (inflight s k).map Msg.mid) : m ∈ (resetBegun r k s).msgs :=
  mem_silenced h (closeRefused_msgs.symm ▸ hm)

/-- What a finished reset leaves. -/
theorem finishReset_done {r : ResetReq} (hw : (getStream s k).closeWait = none) (hrun : Executes r.sq r.pos s) :
    Completed r.sq r.pos 0 0 0 0 (finishReset k r s) ∧ (getStream (finishReset k r s) k).st = .opened ∧
      (getStream (finishReset k r s) k).nextIn = r.seqStart ∧ (getStream (finishReset k r s) k).nextOut = r.seqStart ∧
      (getStream (finishReset k r s) k).resetWait = none ∧
      (getStream (finishReset k r s) k).kvLen = (if r.keepKv then (getStream s k).kvLen else 0) := by
  unfold finishReset
  rw [hw]
  dsimp only
  rw [getStream_congr (complete_keeps.at .streams rfl), getStream_updStream_same]
  exact ⟨(hrun.posts (updStream_keeps.posts rfl)).complete .., rfl, rfl, rfl, rfl, rfl⟩

/-- A reset of a stream that no message waits for. -/
theorem resetBegun_idle {r : ResetReq} (hin : inflight s k = []) (hw : (getStream s k).closeWait = none) :
    resetBegun r k s = updStream k (fun v => { v with resetWait := some r, closeWait := none }) s := by
  unfold resetBegun closeRefused
  rw [hin, hw]
  rfl

/-! ### STREAM_UNFENCE (R113) -/

theorem unfence_mode {f : Nat → State → State} (h : 1 < byteAt b 17) : unfence b q pos f s = complete q pos 0x41 0 0 0 s := if_pos h

theorem unfence_state {f : Nat → State → State} (h : ¬1 < byteAt b 17) (hs : (getStream s (byteAt b 16)).st ≠ .fenced) :
    unfence b q pos f s = complete q pos 0x42 0 0 0 s := (if_neg h).trans (if_pos hs)

/-- A fenced stream that opens again. -/
def unfenced (k : Nat) (s : State) : State := updStream k (fun v => { v with st := .opened }) s

theorem unfence_opens {f : Nat → State → State} (h : ¬1 < byteAt b 17) (hs : (getStream s (byteAt b 16)).st = .fenced) :
    unfence b q pos f s = complete q pos 0 0 0 0 (f (byteAt b 16) (unfenced (byteAt b 16) s)) := (if_neg h).trans (if_neg (not_not_intro hs))

theorem unfenced_st : (getStream (unfenced k s) k).st = .opened := by rw [unfenced, getStream_updStream_same]

theorem unfenced_done (hrun : Executes q pos s) : Completed q pos 0 0 0 0 (complete q pos 0 0 0 0 (unfenced k s)) ∧
    (getStream (complete q pos 0 0 0 0 (unfenced k s)) k).st = .opened := by
  refine ⟨(hrun.posts (updStream_keeps.posts rfl)).complete .., ?_⟩
  rw [getStream_congr (complete_keeps.at .streams rfl)]
  exact unfenced_st

/-! ### KV_READ (R351) -/

theorem homeRead_held (hheld : ∀ l ∈ linesOf p n, (getDir s l).held = 0) : (getDir (homeRead p n [] s).1 l).held = (getDir s l).held := by
  have hrecall : ∀ l, (getDir (each (linesOf p n) recallLine (memFlits 4 (stackOf p) 0 p n [] s)) l).held = (getDir s l).held := by
    refine each_preserves_mem (P := fun v => ∀ l, (getDir v l).held = (getDir s l).held)
      (fun l => by rw [getDir_congr memFlits_mem]) fun l hl v hv => fun k => ?_
    exact (recallLine_unheld_held ((hv l).trans (hheld l hl))).trans (hv k)
  obtain ⟨u, hdec, hu⟩ := decodeHalves_reports (purpose := 3) (die := 0) (who := 0) (hs := halvesOf p n)
    (s := each (linesOf p n) recallLine (memFlits 4 (stackOf p) 0 p n [] s))
  have hmem : (homeRead p n [] s).1.mem = u.mem := by
    unfold homeRead
    dsimp only
    rw [hdec]
    exact memFlits_mem
  rw [getDir_congr (hmem.trans hu)]
  exact hrecall l

/-- One row that a KV_READ reads, behind the rows before it. -/
def readRow (n : Nat) (acc : State × List Byte × Bool) (a : Nat) : State × List Byte × Bool :=
  ((homeRead a n [] acc.1).1, acc.2.1 ++ (homeRead a n [] acc.1).2.1, acc.2.2 || (homeRead a n [] acc.1).2.2)

/-- The rows that a KV_READ reads, where no line is held: what memory gives, and whether a half of some row is poisoned. -/
theorem readRows_read {rows : List Nat} {e : Bool} (hheld : ∀ l, (getDir s l).held = 0) :
    ∃ u, rows.foldl (readRow n) (s, d, e) =
        (u, d ++ rows.flatMap (fun a => homeBytes s a n), e || rows.any (fun a => (halvesOf a n).any (fun h => poisoned s h))) ∧
      Same stores s u ∧ PostsMore s u := by
  induction rows generalizing s d e with
  | nil => exact ⟨s, by simp, .refl s, .refl s⟩
  | cons a rows ih =>
    obtain ⟨v, hread, hv⟩ := homeRead_read (s := s) (dpa := a) (n := n) fun l _ => hheld l
    have hposts : PostsMore s (homeRead a n [] s).1 := homeRead_posts
    have hkept : ∀ l, (getDir (homeRead a n [] s).1 l).held = 0 := fun l => (homeRead_held fun l _ => hheld l).trans (hheld l)
    have hrow : readRow n (s, d, e) a = (v, d ++ homeBytes s a n, e || (halvesOf a n).any (fun h => poisoned s h)) := by rw [readRow, hread]
    rw [hread] at hposts hkept
    obtain ⟨u, heq, hu, hup⟩ := ih (s := v) (d := d ++ homeBytes s a n) (e := e || (halvesOf a n).any (fun h => poisoned s h)) hkept
    have hbytes : ∀ a, homeBytes v a n = homeBytes s a n := fun a => by
      unfold homeBytes
      exact List.map_congr_left fun i _ => by rw [hv.poisoned_eq, hv.getMem_eq]
    have hpois : ∀ h, poisoned v h = poisoned s h := fun h => hv.poisoned_eq
    refine ⟨u, ?_, hv.trans hu, hposts.trans hup⟩
    rw [List.foldl_cons, hrow, heq]
    simp only [hbytes, hpois, List.flatMap_cons, List.any_cons, List.append_assoc, Bool.or_assoc]

/-- The rows of a KV_READ, in the order of the host layout. -/
def readAddrs (w : Stream) (first count : Nat) : List Nat :=
  (kvPlanes w).flatMap (fun x => (List.range count).map (fun i => kvAddr w x.1 x.2 (windowSlot w (first + i))))

/-- What a KV_READ asks of its stream and its descriptor. -/
structure ReadAllowed (b : List Byte) (s : State) (w : Stream) : Prop where
  stream : w = getStream s (byteAt b 16)
  open_ : w.st ≠ .closed
  area : w.pcap ≠ 0
  window : leAt b 20 4 + leAt b 24 4 ≤ w.kvLen
  addr : haddrOk b = true
  home : s.glb.dieFatal.testBit w.home = false

theorem kvRead_reads (h : ReadAllowed b s w) : kvRead b q pos [] s =
    complete q pos (if ((readAddrs w (leAt b 20 4) (leAt b 24 4)).foldl (readRow (kvRow w)) (s, [], false)).2.2 then 0x44 else 0) 0 0 0
      (dmaWrite (leAt b 32 8) ((readAddrs w (leAt b 20 4) (leAt b 24 4)).foldl (readRow (kvRow w)) (s, [], false)).2.1
        ((readAddrs w (leAt b 20 4) (leAt b 24 4)).foldl (readRow (kvRow w)) (s, [], false)).1) := by
  obtain ⟨rfl, hopen, harea, hwin, haddr, hhome⟩ := h
  unfold kvRead
  dsimp only
  rw [if_neg (by simp [hopen, harea]), if_neg (by omega), if_neg (by simp [haddr]), if_neg (by simp [hhome])]
  rfl

theorem kvRead_closed (h : (getStream s (byteAt b 16)).st = .closed ∨ (getStream s (byteAt b 16)).pcap = 0) :
    kvRead b q pos [] s = complete q pos 0x42 0 0 0 s := if_pos h

theorem kvRead_outside (h : ¬((getStream s (byteAt b 16)).st = .closed ∨ (getStream s (byteAt b 16)).pcap = 0))
    (hlen : (getStream s (byteAt b 16)).kvLen < leAt b 20 4 + leAt b 24 4) : kvRead b q pos [] s = complete q pos 0x41 0 0 0 s :=
  (if_neg h).trans (if_pos hlen)

theorem windowSlot_eq (h : w.pcap ≠ 0) : windowSlot w i = (w.kvHead + w.pcap - w.kvLen + i) % w.pcap := by
  rw [windowSlot, Nat.max_eq_right (Nat.one_le_iff_ne_zero.mpr h)]

/-- What a KV_READ leaves where no line is held: the rows as memory gives them, and POISON where a half of some row is poisoned. -/
theorem kvRead_done (h : ReadAllowed b s w) (hheld : ∀ l, (getDir s l).held = 0) (hrun : Executes q pos s) :
    ∃ t, kvRead b q pos [] s = t ∧
      Completed q pos (if (readAddrs w (leAt b 20 4) (leAt b 24 4)).any (fun a => (halvesOf a (kvRow w)).any (fun h => poisoned s h)) then 0x44 else 0)
        0 0 0 t ∧ t.mem.hbm = s.mem.hbm ∧
      ((readAddrs w (leAt b 20 4) (leAt b 24 4)).flatMap (fun a => homeBytes s a (kvRow w)) ≠ [] →
        HostWrite.mem (leAt b 32 8) ((readAddrs w (leAt b 20 4) (leAt b 24 4)).flatMap (fun a => homeBytes s a (kvRow w))) ∈ t.hif.posted) := by
  obtain ⟨u, hread, hstores, hposts⟩ := readRows_read (rows := readAddrs w (leAt b 20 4) (leAt b 24 4)) (n := kvRow w) (d := []) (e := false) hheld
  have heq := kvRead_reads (q := q) (pos := pos) h
  rw [hread] at heq
  dsimp only [List.nil_append, Bool.false_or] at heq
  refine ⟨_, heq, (hrun.posts (hposts.trans dmaWrite_posts)).complete .., ?_, fun hne => complete_posted (mem_dmaWrite hne)⟩
  rw [complete_keeps.mem_eq rfl, dmaWrite_keeps.mem_eq rfl]
  exact hbm_of_stores hstores

theorem mem_readAddrs {first : Nat} {x : Nat × Nat} (hx : x ∈ kvPlanes w) (hi : i < count) :
    kvAddr w x.1 x.2 (windowSlot w (first + i)) ∈ readAddrs w first count :=
  List.mem_flatMap.mpr ⟨x, hx, List.mem_map.mpr ⟨i, List.mem_range.mpr hi, rfl⟩⟩

/-- The rows as the host layout orders them. -/
theorem readAddrs_bytes {first : Nat} {f : Nat → List Byte} (hp : w.pcap ≠ 0) : (readAddrs w first count).flatMap f =
    (kvPlanes w).flatMap (fun x => (List.range count).flatMap (fun i =>
      f (kvAddr w x.1 x.2 ((w.kvHead + w.pcap - w.kvLen + (first + i)) % w.pcap)))) := by
  simp only [readAddrs, List.flatMap_assoc, List.flatMap_map, windowSlot_eq hp]

theorem readAddrs_nonempty {first : Nat} (hr : kvRow w ≠ 0) (hl : w.kvL ≠ 0) (hc : count ≠ 0) :
    (readAddrs w first count).flatMap (fun a => memBytes s a (kvRow w)) ≠ [] := fun hnil => by
  have hplane : (0, 0) ∈ kvPlanes w := List.mem_flatMap.mpr ⟨0, List.mem_range.mpr (by omega), by simp⟩
  have hrow := List.flatMap_eq_nil_iff.mp hnil _ (mem_readAddrs (first := first) hplane (Nat.pos_of_ne_zero hc))
  have hlen := congrArg List.length hrow
  rw [length_memBytes] at hlen
  exact hr hlen

/-! ### KV_WRITE (R128, R351) -/

/-- A row of a KV_WRITE: its layer, tensor and slot. -/
abbrev Cell := (Nat × Nat) × Nat

def cells (w : Stream) (count : Nat) : List Cell := (kvPlanes w).flatMap (fun x => (List.range count).map (fun i => (x, i)))

/-- The row of a KV_WRITE reaches its ring slot. -/
def writeCell (w : Stream) (count : Nat) (d : List Byte) (c : Cell) (s : State) : State :=
  (homeWrite 4 (kvAddr w c.1.1 c.1.2 c.2) (slice d (((2 * c.1.1 + c.1.2) * count + c.2) * kvRow w) (kvRow w)) s).1

/-- What a KV_WRITE asks of its stream and its descriptor. -/
structure WriteAllowed (b : List Byte) (s : State) (w : Stream) : Prop where
  stream : w = getStream s (byteAt b 16)
  fenced : w.st = .fenced
  area : w.pcap ≠ 0
  idle : streamDispatched s (byteAt b 16) = false

theorem WriteAllowed.passes (h : WriteAllowed b s w) : ¬((getStream s (byteAt b 16)).st ≠ .fenced ∨ (getStream s (byteAt b 16)).pcap = 0 ∨
    streamDispatched s (byteAt b 16) = true) := by
  obtain ⟨rfl, hf, ha, hi⟩ := h
  simp [hf, ha, hi]

/-- The window of a stream after a KV_WRITE of `count` rows. -/
def windowSet (k : Nat) (w : Stream) (count : Nat) (s : State) : State := setStream k { w with kvHead := count % w.pcap, kvLen := count } s

theorem kvWrite_writes (h : WriteAllowed b s w) (hcap : leAt b 24 4 ≤ w.kvCap) (haddr : haddrOk b = true)
    (hhome : s.glb.dieFatal.testBit w.home = false) : kvWrite b q pos (some d) s =
      complete q pos 0 0 0 0 (windowSet (byteAt b 16) w (leAt b 24 4)
        (each (cells w (leAt b 24 4)) (writeCell w (leAt b 24 4) (padTo (2 * w.kvL * leAt b 24 4 * kvRow w) d)) s)) := by
  have hpass := h.passes
  obtain ⟨rfl, -, -, -⟩ := h
  unfold kvWrite
  dsimp only
  rw [if_neg hpass, if_neg (by omega), if_neg (by simp [haddr]), if_neg (by simp [hhome])]
  simp only [each, cells, List.foldl_flatMap, List.foldl_map]
  rfl

theorem kvWrite_noData (h : WriteAllowed b s w) (hcap : leAt b 24 4 ≤ w.kvCap) (haddr : haddrOk b = true)
    (hhome : s.glb.dieFatal.testBit w.home = false) : kvWrite b q pos none s = complete q pos 0x46 0 0 0 s := by
  have hpass := h.passes
  obtain ⟨rfl, -, -, -⟩ := h
  unfold kvWrite
  dsimp only
  rw [if_neg hpass, if_neg (by omega), if_neg (by simp [haddr]), if_neg (by simp [hhome])]

theorem kvWrite_tooMany {data : Option (List Byte)} (h : WriteAllowed b s w) (hcap : w.kvCap < leAt b 24 4) :
    kvWrite b q pos data s = complete q pos 0x41 0 0 0 s := by
  have hpass := h.passes
  obtain ⟨rfl, -, -, -⟩ := h
  exact (if_neg hpass).trans (if_pos hcap)

theorem kvWrite_unfenced {data : Option (List Byte)} (h : (getStream s (byteAt b 16)).st ≠ .fenced) :
    kvWrite b q pos data s = complete q pos 0x42 0 0 0 s := if_pos (.inl h)

theorem mem_cells {c : Cell} : c ∈ cells w count ↔ c.1.1 < w.kvL ∧ c.1.2 < 2 ∧ c.2 < count := by
  obtain ⟨⟨l, tn⟩, i⟩ := c
  simp only [cells, kvPlanes, List.mem_flatMap, List.mem_map, List.mem_range, List.mem_cons, List.not_mem_nil, or_false]
  constructor
  · rintro ⟨x, ⟨l', hl, hx⟩, i', hi, heq⟩
    obtain ⟨rfl, rfl⟩ := Prod.mk.inj heq
    rcases hx with hx | hx <;> obtain ⟨rfl, rfl⟩ := Prod.mk.inj hx <;> omega
  · rintro ⟨hl, ht, hi⟩
    refine ⟨(l, tn), ⟨l, hl, ?_⟩, i, hi, rfl⟩
    have : tn = 0 ∨ tn = 1 := by omega
    rcases this with rfl | rfl <;> simp

/-- The ring slot of a row, counted over all layers and tensors. -/
def cellSlot (w : Stream) (c : Cell) : Nat := (2 * c.1.1 + c.1.2) * w.pcap + c.2

theorem cellSlot_inj {c c' : Cell} (hcap : count ≤ w.pcap) (hc : c ∈ cells w count) (hc' : c' ∈ cells w count)
    (h : cellSlot w c = cellSlot w c') : c = c' := by
  obtain ⟨⟨l, tn⟩, i⟩ := c
  obtain ⟨⟨l', tn'⟩, i'⟩ := c'
  obtain ⟨-, ht, hi⟩ := mem_cells.mp hc
  obtain ⟨-, ht', hi'⟩ := mem_cells.mp hc'
  dsimp only at ht hi ht' hi'
  unfold cellSlot at h
  dsimp only at h
  have hdiv : ∀ x y, y < w.pcap → (x * w.pcap + y) / w.pcap = x := fun x y hy => by
    rw [Nat.add_comm, Nat.add_mul_div_right _ _ (by omega), Nat.div_eq_of_lt hy, Nat.zero_add]
  have hplane : 2 * l + tn = 2 * l' + tn' := by
    rw [← hdiv (2 * l + tn) i (by omega), h, hdiv _ _ (by omega)]
  rw [hplane] at h
  have hslot : i = i' := Nat.add_left_cancel h
  have hl : l = l' := by omega
  have htn : tn = tn' := by omega
  rw [hslot, hl, htn]

/-- Two rows do not meet. -/
theorem cells_apart {c c' : Cell} (hcap : count ≤ w.pcap) (hc : c ∈ cells w count) (hc' : c' ∈ cells w count) (hne : c' ≠ c) (hj : j < kvRow w) :
    kvAddr w c'.1.1 c'.1.2 c'.2 + j < kvAddr w c.1.1 c.1.2 c.2 ∨ kvAddr w c.1.1 c.1.2 c.2 + kvRow w ≤ kvAddr w c'.1.1 c'.1.2 c'.2 + j := by
  change w.kvBase + cellSlot w c' * kvRow w + j < w.kvBase + cellSlot w c * kvRow w ∨
    w.kvBase + cellSlot w c * kvRow w + kvRow w ≤ w.kvBase + cellSlot w c' * kvRow w + j
  have hslot : cellSlot w c' ≠ cellSlot w c := fun h => hne (cellSlot_inj hcap hc' hc h)
  rcases Nat.lt_or_gt_of_ne hslot with h | h
  · have := Nat.mul_le_mul_right (kvRow w) h
    rw [Nat.succ_mul] at this
    omega
  · have := Nat.mul_le_mul_right (kvRow w) h
    rw [Nat.succ_mul] at this
    omega

theorem cell_within {c : Cell} (hc : c ∈ cells w count) :
    ((2 * c.1.1 + c.1.2) * count + c.2) * kvRow w + kvRow w ≤ 2 * w.kvL * count * kvRow w := by
  obtain ⟨hl, ht, hi⟩ := mem_cells.mp hc
  have hplane : (2 * c.1.1 + c.1.2 + 1) * count ≤ 2 * w.kvL * count := Nat.mul_le_mul_right _ (by omega)
  rw [Nat.succ_mul] at hplane
  have hrow := Nat.mul_le_mul_right (kvRow w) (show (2 * c.1.1 + c.1.2) * count + c.2 + 1 ≤ 2 * w.kvL * count by omega)
  rw [Nat.succ_mul] at hrow
  exact hrow

/-- A row stands in memory, and no cache holds a line of it. -/
structure CellWritten (w : Stream) (count : Nat) (d : List Byte) (c : Cell) (s : State) : Prop where
  bytes : ∀ j, j < kvRow w → getMem s (kvAddr w c.1.1 c.1.2 c.2 + j) =
    ((slice d (((2 * c.1.1 + c.1.2) * count + c.2) * kvRow w) (kvRow w))[j]?).getD 0
  unheld : ∀ j, j < kvRow w → (getDir s ((kvAddr w c.1.1 c.1.2 c.2 + j) / 128)).held = 0

theorem cells_written (hbase : w.kvBase % 64 = 0) (hcap : count ≤ w.pcap) (hd : d.length = 2 * w.kvL * count * kvRow w) :
    ∀ c ∈ cells w count, CellWritten w count d c (each (cells w count) (writeCell w count d) s) := by
  have hlen : ∀ c ∈ cells w count, (slice d (((2 * c.1.1 + c.1.2) * count + c.2) * kvRow w) (kvRow w)).length = kvRow w := fun c hc =>
    length_slice (hd ▸ cell_within hc)
  have hrow : kvRow w % 64 = 0 := kvRow_aligned
  have hwrite : ∀ c ∈ cells w count, ∀ v, RangeWritten (kvAddr w c.1.1 c.1.2 c.2)
      (slice d (((2 * c.1.1 + c.1.2) * count + c.2) * kvRow w) (kvRow w)) v (writeCell w count d c v) := fun c hc v => by
    have haddr : kvAddr w c.1.1 c.1.2 c.2 % 64 = 0 := kvAddr_aligned hbase
    have hl := hlen c hc
    exact (homeWrite_written fun _ hh => .inl (covers_aligned (by omega) (by omega) hh)).1
  have hself : ∀ c ∈ cells w count, ∀ v, CellWritten w count d c (writeCell w count d c v) := fun c hc v => by
    have hl := hlen c hc
    refine ⟨fun j hj => (hwrite c hc v).within j (hl.symm ▸ hj), fun j hj => ?_⟩
    rw [(hwrite c hc v).dir, if_pos (by rw [hl]; exact mem_linesOf.mpr ⟨by omega, by omega, by omega⟩)]
    rfl
  refine each_establishes_mem hself fun c hc c' hc' v hv => ?_
  by_cases hne : c' = c
  · exact hne ▸ hself c hc v
  · have hl := hlen c hc
    refine ⟨fun j hj => ?_, fun j hj => ?_⟩
    · rw [(hwrite c hc v).outside _ (hl.symm ▸ cells_apart hcap hc hc' hne hj) (.inr (hv.unheld j hj))]
      exact hv.bytes j hj
    · rw [(hwrite c hc v).dir]
      split
      · rfl
      · exact hv.unheld j hj

theorem getElem?_padTo (h : i < n) : ((padTo n bs)[i]?).getD 0#8 = (bs[i]?).getD 0#8 := by
  unfold padTo
  rw [List.getElem?_append, List.length_take]
  split
  · rw [List.getElem?_take, if_pos h]
  · rw [List.getElem?_replicate, List.getElem?_eq_none (by omega)]
    split <;> rfl

theorem getElem?_slice {off len : Nat} (h : j < len) : (slice bs off len)[j]? = bs[off + j]? := by
  rw [slice, List.getElem?_take, if_pos h, List.getElem?_drop]

/-- What a KV_WRITE leaves in memory and in its stream. -/
theorem kvWrite_done (h : WriteAllowed b s w) (hcap : leAt b 24 4 ≤ w.kvCap) (hp : w.kvCap ≤ w.pcap) (hbase : w.kvBase % 64 = 0)
    (haddr : haddrOk b = true) (hhome : s.glb.dieFatal.testBit w.home = false) (hrun : Executes q pos s) :
    ∃ t, kvWrite b q pos (some d) s = t ∧ Completed q pos 0 0 0 0 t ∧
      getStream t (byteAt b 16) = { w with kvHead := leAt b 24 4 % w.pcap, kvLen := leAt b 24 4 } ∧
      (∀ l tn i j, l < w.kvL → tn < 2 → i < leAt b 24 4 → j < kvRow w →
        getMem t (kvAddr w l tn i + j) = (d[((2 * l + tn) * leAt b 24 4 + i) * kvRow w + j]?).getD 0) := by
  have hwritten := cells_written (s := s) (d := padTo (2 * w.kvL * leAt b 24 4 * kvRow w) d) hbase (hcap.trans hp) length_padTo
  have hposts : PostsMore s (each (cells w (leAt b 24 4)) (writeCell w (leAt b 24 4) (padTo (2 * w.kvL * leAt b 24 4 * kvRow w) d)) s) :=
    posts_each (.refl s) fun _ _ => homeWrite_keeps.posts rfl
  refine ⟨_, kvWrite_writes h hcap haddr hhome, ((hrun.posts hposts).posts (setStream_keeps.posts rfl)).complete .., ?_, fun l tn i j hl ht hi hj => ?_⟩
  · rw [getStream_congr (complete_keeps.at .streams rfl)]
    exact getStream_setStream_same
  · have hc : ((l, tn), i) ∈ cells w (leAt b 24 4) := mem_cells.mpr ⟨hl, ht, hi⟩
    have hwithin := cell_within hc
    rw [(same_stores_of_mem (complete_keeps.mem_eq rfl)).getMem_eq]
    refine ((hwritten _ hc).bytes j hj).trans ?_
    rw [getElem?_slice hj]
    dsimp only at hwithin
    exact getElem?_padTo (lt_of_lt_of_le (Nat.add_lt_add_left hj _) hwithin)

/-- Settles O56: each stream descriptor by the equation of its case, what it leaves by what its parts leave. -/
theorem streamDescriptors : Obligations.StreamDescriptors := by
  unfold Obligations.StreamDescriptors
  refine ⟨?_, ?_, ?_, ?_, ?_, ?_, ?_, ?_⟩
  · intro s q pos b k slot ab h home base cap region B hup hrun hk hslot hh hbase hcap hhome hregion
    subst hk hslot hh hbase hcap hhome hregion
    have hstart : Executes q pos (startDesc q pos s) := startDesc_executes hrun
    have hexec : exec (.streamOpen q pos) s = .next (streamOpen b q pos (startDesc q pos s)) :=
      congrArg Host.Outcome.next (descRunHbm_runs (f := fun b => streamOpen b q pos) hup hrun)
    have hrefused : ∀ {st : Nat}, (openCheck b (startDesc q pos s)).1 = st → st ≠ 0 →
        ∃ t, exec (.streamOpen q pos) s = .next t ∧ Completed q pos st 0 0 0 t ∧ t.streams = s.streams := fun hst hne =>
      ⟨_, hexec.trans (congrArg _ (streamOpen_refused hst hne)), hstart.complete .., complete_keeps.at .streams rfl⟩
    refine ⟨fun hblock => ?_, fun hclosed hactive hB => ?_⟩
    · exact hrefused (openCheck_blocked (hblock.imp_right Option.isNone_iff_eq_none.mpr)) (by decide)
    · have hfree : ¬openBlocked b (startDesc q pos s) := not_or.mpr ⟨not_not_intro hclosed, fun hnone => by
        rw [show activeBank (startDesc q pos s) (bitsOf (byteAt b 17) 0 4) = some ab from hactive] at hnone
        cases hnone⟩
      have hbank : openBank b (startDesc q pos s) = B := by
        change getBank s _ ((activeBank s _).getD 2) = B
        rw [hactive]
        exact hB
      have hnohole : (B.kv = true → firstHole (leAt b 24 5) (2 * B.kvL * (leAt b 22 2 + B.newPos) *
          (ceilDiv (ceilDiv (B.kvH * B.kvE * (if B.kvFmt = 0 then 4 else 8)) 8) 64 * 64)) = none) → ¬openHole b (startDesc q pos s) := fun hnone hh => by
        obtain ⟨hkv, hsome⟩ := (openHole_iff hbank).mp hh
        rw [hnone hkv] at hsome
        cases hsome
      have hinside : (bitsOf (byteAt b 18) 0 3 < 4 ∨ bitsOf (byteAt b 18) 0 3 = 7) →
          (B.kv = true → leAt b 22 2 ≠ 0 ∧ leAt b 22 2 ≤ 4096 ∧ leAt b 24 5 % 4096 = 0 ∧ stackOf (leAt b 24 5) = openHome b s) →
          ¬openOutside b (startDesc q pos s) := fun hh hin hout => by
        rcases (openOutside_iff hbank).mp hout with hres | ⟨hkv, hbad⟩
        · omega
        · obtain ⟨h0, h1, h2, h3⟩ := hin hkv
          exact hbad.elim h0 fun hbad => hbad.elim (by omega) fun hbad => hbad.elim (· h2) (· h3)
      refine ⟨fun hkv hhole => ?_, fun hhole => ⟨fun hout => ?_, fun hh hin => ⟨fun hfatal => ?_, fun hgood => ?_⟩⟩⟩
      · exact hrefused (openCheck_hole hfree ((openHole_iff hbank).mpr ⟨hkv, hhole⟩)) (by decide)
      · exact hrefused (openCheck_outside hfree (hnohole hhole) ((openOutside_iff hbank).mpr hout)) (by decide)
      · exact hrefused (openCheck_fatal hfree (hnohole hhole) (hinside hh hin) hfatal) (by decide)
      · have heq := streamOpen_done (q := q) (pos := pos) (openCheck_done hfree (hnohole hhole) (hinside hh hin) hgood)
        have hposts : PostsMore (startDesc q pos s) (setStream (byteAt b 16) (opened b (startDesc q pos s)) (startDesc q pos s)) :=
          setStream_keeps.posts rfl
        have hstream : ∀ j, getStream (complete q pos 0 (opened b (startDesc q pos s)).home 0 0
            (setStream (byteAt b 16) (opened b (startDesc q pos s)) (startDesc q pos s))) j =
            getStream (setStream (byteAt b 16) (opened b (startDesc q pos s)) (startDesc q pos s)) j := fun _ =>
          getStream_congr (complete_keeps.at .streams rfl)
        have hcap : (opened b (startDesc q pos s)).kvCap = if (openBank b (startDesc q pos s)).kv then leAt b 22 2 else 0 := rfl
        have hbase : (opened b (startDesc q pos s)).kvBase = if (openBank b (startDesc q pos s)).kv then leAt b 24 5 else 0 := rfl
        have hpcap : (opened b (startDesc q pos s)).pcap = if (openBank b (startDesc q pos s)).kv then
            (opened b (startDesc q pos s)).kvCap + (openBank b (startDesc q pos s)).newPos else 0 := rfl
        rw [hbank] at hcap hbase hpcap
        refine ⟨_, opened b (startDesc q pos s), hexec.trans (congrArg _ heq), (hstart.posts hposts).complete ..,
          (hstream _).trans getStream_setStream_same, rfl, rfl, rfl, rfl, rfl, rfl, fun hpol => if_neg (by omega), rfl, rfl, hcap, ?_, hbase,
          fun j hj => (hstream j).trans (getStream_setStream_other hj)⟩
        rw [hpcap, hcap]
        split <;> rfl
  · intro s q pos b k hrun hk
    subst hk
    have hstart : Executes q pos (startDesc q pos s) := startDesc_executes hrun
    have hexec : exec (.streamClose q pos) s = .next (streamClose b q pos (startDesc q pos s)) :=
      congrArg Host.Outcome.next (descRun_runs (f := fun b => streamClose b q pos) hrun)
    have hdrain : Executes q pos (drainBegun q pos (byteAt b 16) (startDesc q pos s)) := hstart.posts (setStream_keeps.posts rfl)
    refine ⟨fun hst hin hr => ⟨fun hcount => ?_, fun hcount => ?_⟩, fun hst => ?_, fun hst hw => ?_⟩
    · obtain ⟨hdone, hclosed⟩ := closeStream_closes (k := byteAt b 16) (congrArg Stream.closeWait getStream_drainBegun) hdrain
      have heq := (streamClose_drains (b := b) (q := q) (pos := pos) (s := startDesc q pos s) hst).trans (drainBegun_idle hin hcount hr)
      exact ⟨_, hexec.trans (congrArg _ heq), hdone, hclosed⟩
    · have heq := (streamClose_drains (b := b) (q := q) (pos := pos) (s := startDesc q pos s) hst).trans (drainBegun_busy hin hcount)
      exact ⟨_, hexec.trans (congrArg _ heq), hdrain, congrArg Stream.st getStream_drainBegun, congrArg Stream.closeWait getStream_drainBegun⟩
    · exact ⟨_, _, hexec.trans (congrArg _ (streamClose_drains hst)), rfl, congrArg Stream.st getStream_drainBegun,
        congrArg Stream.closeWait getStream_drainBegun, rfl, fun j hj => getStream_setStream_other hj⟩
    · exact ⟨_, hexec.trans (congrArg _ (streamClose_refused hst hw)), hstart.complete .., complete_keeps.at .streams rfl⟩
  · intro s q pos b k hrun hk
    subst hk
    have hstart : Executes q pos (startDesc q pos s) := startDesc_executes hrun
    have hexec : exec (.streamReset q pos) s = .next (streamReset b q pos (startDesc q pos s)) :=
      congrArg Host.Outcome.next (descRun_runs (f := fun b => streamReset b q pos) hrun)
    refine ⟨fun hst hr hw hin hcount => ?_, fun hst hr => ?_, fun hst => ?_⟩
    · have hbegun := resetBegun_idle (r := resetAsked b q pos) (s := startDesc q pos s) hin hw
      obtain ⟨hreset, hclose⟩ := getStream_resetBegun (r := resetAsked b q pos) (k := byteAt b 16) (s := startDesc q pos s)
      have hidle : inflight (resetBegun (resetAsked b q pos) (byteAt b 16) (startDesc q pos s)) (byteAt b 16) = [] := by
        rw [hbegun]
        exact hin
      have hempty : inflightCount (getStream (resetBegun (resetAsked b q pos) (byteAt b 16) (startDesc q pos s)) (byteAt b 16)) = 0 := by
        rw [hbegun, getStream_updStream_same]
        exact hcount
      have hkv : (getStream (resetBegun (resetAsked b q pos) (byteAt b 16) (startDesc q pos s)) (byteAt b 16)).kvLen =
          (getStream s (byteAt b 16)).kvLen := by
        rw [hbegun, getStream_updStream_same]
        rfl
      have hposts : PostsMore (startDesc q pos s) (resetBegun (resetAsked b q pos) (byteAt b 16) (startDesc q pos s)) := by
        rw [hbegun]
        exact updStream_keeps.posts rfl
      have heq := streamReset_begins (b := b) (q := q) (pos := pos) (s := startDesc q pos s) hst hr
      rw [settleStream_idle hidle, idleStream_resets hempty hreset] at heq
      obtain ⟨hdone, hopen, hnext, hout, hwait, hlen⟩ := finishReset_done (r := resetAsked b q pos) hclose (hstart.posts hposts)
      exact ⟨_, hexec.trans (congrArg _ heq), hdone, hopen, hnext, hout, hwait, hlen.trans (by rw [hkv]; rfl)⟩
    · obtain ⟨hreset, hclose⟩ := getStream_resetBegun (r := resetAsked b q pos) (k := byteAt b 16) (s := startDesc q pos s)
      refine ⟨_, _, hexec.trans (congrArg _ (streamReset_begins hst hr)), rfl, hreset, hclose, fun m hm => ?_, fun m hm hout => mem_resetBegun hm hout⟩
      obtain ⟨x, hx, hquiet⟩ := resetBegun_quiet (s := startDesc q pos s) (r := resetAsked b q pos) hm
      exact ⟨x, hx, hquiet.silent, hquiet.held, hquiet.outputs, hquiet.staged, hquiet.rowsOut⟩
    · exact ⟨_, hexec.trans (congrArg _ (streamReset_refused hst)), hstart.complete .., complete_keeps.at .streams rfl⟩
  · intro s q pos b hrun hmode
    have hstart : Executes q pos (startDesc q pos s) := startDesc_executes hrun
    have hexec : exec (.streamUnfenceResume q pos) s = .next (unfence b q pos resumeHeld (startDesc q pos s)) :=
      congrArg Host.Outcome.next (descRun_runs (f := fun b => unfence b q pos resumeHeld) hrun)
    exact ⟨_, hexec.trans (congrArg _ (unfence_mode hmode)), hstart.complete .., complete_keeps.at .streams rfl⟩
  · intro s q pos b k hrun hk hmode
    subst hk
    have hstart : Executes q pos (startDesc q pos s) := startDesc_executes hrun
    have hexec : exec (.streamUnfenceResume q pos) s = .next (unfence b q pos resumeHeld (startDesc q pos s)) :=
      congrArg Host.Outcome.next (descRun_runs (f := fun b => unfence b q pos resumeHeld) hrun)
    have hlow : ¬1 < byteAt b 17 := by omega
    refine ⟨fun hst => ?_, fun hst hm hx hg => ?_, fun hst => ?_⟩
    · exact ⟨_, _, hexec.trans (congrArg _ (unfence_opens hlow hst)), rfl, unfenced_st, rfl, fun j hj => getStream_updStream_other hj⟩
    · have heq := unfence_opens (b := b) (q := q) (pos := pos) (f := resumeHeld) (s := startDesc q pos s) hlow hst
      rw [resumeHeld_empty (s := unfenced (byteAt b 16) (startDesc q pos s)) hm hx hg] at heq
      exact ⟨_, hexec.trans (congrArg _ heq), unfenced_done hstart⟩
    · exact ⟨_, hexec.trans (congrArg _ (unfence_state hlow hst)), hstart.complete .., complete_keeps.at .streams rfl⟩
  · intro s q pos b k hrun hk
    subst hk
    have hstart : Executes q pos (startDesc q pos s) := startDesc_executes hrun
    have hexec : exec (.streamUnfenceDiscard q pos) s = .next (unfence b q pos endHeldAll (startDesc q pos s)) :=
      congrArg Host.Outcome.next (descRun_runs (f := fun b => unfence b q pos endHeldAll) hrun)
    refine ⟨fun hmode hst => ?_, fun hmode hst hin => ?_, fun hmode hst => ?_, fun hmode => ?_⟩
    · exact ⟨_, _, hexec.trans (congrArg _ (unfence_opens (by omega) hst)), rfl, unfenced_st, rfl, fun j hj => getStream_updStream_other hj⟩
    · have heq := unfence_opens (b := b) (q := q) (pos := pos) (f := endHeldAll) (s := startDesc q pos s) (by omega) hst
      rw [endHeldAll_idle (s := unfenced (byteAt b 16) (startDesc q pos s)) hin] at heq
      exact ⟨_, hexec.trans (congrArg _ heq), unfenced_done hstart⟩
    · exact ⟨_, hexec.trans (congrArg _ (unfence_state (by omega) hst)), hstart.complete .., complete_keeps.at .streams rfl⟩
    · exact ⟨_, hexec.trans (congrArg _ (unfence_mode hmode)), hstart.complete .., complete_keeps.at .streams rfl⟩
  · intro s q pos b w first count hup hrun hw hfirst hcount
    subst hfirst hcount
    have hstart : Executes q pos (startDesc q pos s) := startDesc_executes hrun
    have hexec : exec (.kvRead q pos []) s = .next (kvRead b q pos [] (startDesc q pos s)) :=
      congrArg Host.Outcome.next (descRunHbm_runs (f := fun b => kvRead b q pos []) hup hrun)
    refine ⟨fun hopen harea hwin haddr hhome hheld => ?_, fun hopen harea hlen => ?_, fun hst => ?_⟩
    · obtain ⟨t, heq, hdone, hhbm, hposted⟩ := kvRead_done (b := b) (s := startDesc q pos s) (w := w)
        ⟨hw, hopen, harea, hwin, haddr, hhome⟩ hheld hstart
      refine ⟨fun hgood hrow hl hc => ?_, fun x hx i h hi hh hpois => ?_⟩
      · have hbytes : ∀ a, homeBytes (startDesc q pos s) a (kvRow w) = memBytes s a (kvRow w) := fun a => homeBytes_clean fun k _ => hgood k
        have hany : (readAddrs w (leAt b 20 4) (leAt b 24 4)).any
            (fun a => (halvesOf a (kvRow w)).any (fun h => poisoned (startDesc q pos s) h)) = false :=
          List.any_eq_false.mpr fun a _ => by
            rw [Bool.not_eq_true]
            exact List.any_eq_false.mpr fun h _ => Bool.eq_false_iff.mp (hgood h)
        rw [hany] at hdone
        simp only [hbytes] at hposted
        have hmem := hposted (readAddrs_nonempty hrow hl hc)
        rw [readAddrs_bytes harea] at hmem
        exact ⟨t, hexec.trans (congrArg _ heq), hdone, hhbm, hmem⟩
      · have hany : (readAddrs w (leAt b 20 4) (leAt b 24 4)).any
            (fun a => (halvesOf a (kvRow w)).any (fun h => poisoned (startDesc q pos s) h)) = true := by
          rw [← windowSlot_eq harea] at hh
          exact List.any_eq_true.mpr ⟨_, mem_readAddrs hx hi, List.any_eq_true.mpr ⟨h, hh, hpois⟩⟩
        rw [hany] at hdone
        exact ⟨t, hexec.trans (congrArg _ heq), hdone, hhbm⟩
    · subst hw
      exact ⟨_, hexec.trans (congrArg _ (kvRead_outside (not_or.mpr ⟨hopen, harea⟩) hlen)), hstart.complete .., complete_keeps.mem_eq rfl⟩
    · subst hw
      exact ⟨_, hexec.trans (congrArg _ (kvRead_closed hst)), hstart.complete .., complete_keeps.mem_eq rfl⟩
  · intro s q pos b d k count w hup hrun hk hw hcount
    subst hk hcount
    have hstart : Executes q pos (startDesc q pos s) := startDesc_executes hrun
    have hexec : ∀ data, exec (.kvWrite q pos data) s = .next (kvWrite b q pos data (startDesc q pos s)) := fun data =>
      congrArg Host.Outcome.next (descRunHbm_runs (f := fun b => kvWrite b q pos data) hup hrun)
    have hallowed : w.st = .fenced → w.pcap ≠ 0 → streamDispatched s (byteAt b 16) = false → WriteAllowed b (startDesc q pos s) w :=
      fun hst hp hi => ⟨hw, hst, hp, hi⟩
    have hkept : ∀ st, (complete q pos st 0 0 0 (startDesc q pos s)).streams = s.streams ∧
        (complete q pos st 0 0 0 (startDesc q pos s)).mem = s.mem := fun _ => ⟨complete_keeps.at .streams rfl, complete_keeps.mem_eq rfl⟩
    refine ⟨fun hst hp hi hcap hpcap hbase haddr hhome => ?_, fun hst hp hi hcap => ?_, fun hst hp hi hcap haddr hhome => ?_, fun hst => ?_⟩
    · obtain ⟨t, heq, hdone, hstream, hbytes⟩ := kvWrite_done (d := d) (hallowed hst hp hi) hcap hpcap hbase haddr hhome hstart
      exact ⟨t, (hexec _).trans (congrArg _ heq), hdone, congrArg Stream.kvLen hstream, congrArg Stream.kvHead hstream,
        (congrArg Stream.st hstream).trans hst, hbytes⟩
    · exact ⟨_, (hexec _).trans (congrArg _ (kvWrite_tooMany (hallowed hst hp hi) hcap)), hstart.complete .., hkept _⟩
    · exact ⟨_, (hexec _).trans (congrArg _ (kvWrite_noData (hallowed hst hp hi) hcap haddr hhome)), hstart.complete .., hkept _⟩
    · subst hw
      exact ⟨_, (hexec _).trans (congrArg _ (kvWrite_unfenced hst)), hstart.complete .., hkept _⟩

end Sys2Proof.Machine
end

section

/-!
PROOF. The ring engine: what events and completions leave of the rings and of the host interface beside them, and the commands of O57.
-/

namespace Sys2Proof.Machine

variable {s t u v : State} {q k r n w : Nat} {body bs page : List Byte} {e : Event} {es : List Event}

/-! ### What an entry of another ring leaves of a ring -/

/-- The host interface without its rings and queues and without what entries of rings change. -/
def hifCore (s : State) : Hif :=
  { s.hif with rings := [], sqs := [], shDirty := false, trig := [], backlog := [], dropped := 0, bufs := [], posted := [] }

/-- A ring, its status register, and what of the host interface the entries of other rings leave. -/
def ringView (r : Nat) (s : State) : Hif × Ring × Nat × Nat := (hifCore s, getRing s r, getReg s (0x0B40 + 4 * r), s.clk.now)

theorem Same.hifCore_eq (h : Same (ringView r) s t) : hifCore t = hifCore s := congrArg Prod.fst h
theorem Same.getRing_eq (h : Same (ringView r) s t) : getRing t r = getRing s r := congrArg (fun x => x.2.1) h
theorem Same.status_eq (h : Same (ringView r) s t) : getReg t (0x0B40 + 4 * r) = getReg s (0x0B40 + 4 * r) := congrArg (fun x => x.2.2.1) h
theorem Same.now_eq (h : Same (ringView r) s t) : t.clk.now = s.clk.now := congrArg (fun x => x.2.2.2) h
theorem Same.ringRuns_eq (h : Same (ringView r) s t) : ringRuns t r = ringRuns s r := by rw [ringRuns, ringRuns, h.getRing_eq]

theorem polling_of_core (h : hifCore t = hifCore s) : t.hif.polling = s.hif.polling := show (hifCore t).polling = (hifCore s).polling by rw [h]
theorem interval_of_core (h : hifCore t = hifCore s) : t.hif.interval = s.hif.interval := show (hifCore t).interval = (hifCore s).interval by rw [h]
theorem pollDue_of_core (h : hifCore t = hifCore s) : t.hif.pollDue = s.hif.pollDue := show (hifCore t).pollDue = (hifCore s).pollDue by rw [h]

theorem getRing_setRing_same {g : Ring} : getRing (setRing r g s) r = g := tget_tset_same _
theorem getRing_setRing_other {g : Ring} (h : k ≠ r) : getRing (setRing r g s) k = getRing s k := tget_tset_other h _

theorem same_ringView (hcore : hifCore t = hifCore s) (hring : getRing t r = getRing s r)
    (hreg : getReg t (0x0B40 + 4 * r) = getReg s (0x0B40 + 4 * r)) (hnow : t.clk.now = s.clk.now) : Same (ringView r) s t := by
  unfold Same ringView
  rw [hcore, hring, hreg, hnow]

theorem setRing_view {g : Ring} (h : r ≠ k) : Same (ringView r) s (setRing k g s) :=
  same_ringView rfl (getRing_setRing_other h) rfl rfl

theorem setSq_view {x : Sq} : Same (ringView r) s (setSq q x s) := rfl

theorem triggerRing_view (h : r ≠ k) : Same (ringView r) s (triggerRing k s) :=
  (setRing_view h (g := { getRing s k with pend := 0 })).trans (t := setRing k { getRing s k with pend := 0 } s) rfl

theorem writeEntry_view (h : r ≠ k) : Same (ringView r) s (writeEntry k body s) := by
  unfold writeEntry
  extract_lets -merge -underBinder +onlyGivenNames g phase n s1 s2 hif s3 count
  have h2 : Same (ringView r) s s2 := (show Same (ringView r) s s1 from rfl).trans (setRing_view h)
  have h3 : Same (ringView r) s s3 := h2.trans rfl
  exact same_ite (h3.trans (triggerRing_view h)) h3

theorem drainEvents_view (h : r ≠ 32) : Same (ringView r) s (drainEvents es s).2 := by
  induction es generalizing s with
  | nil => exact .refl s
  | cons e es ih =>
    unfold drainEvents
    split
    · exact (writeEntry_view h).trans ih
    · exact .refl s

theorem flushBacklog_view (h : r ≠ 32) : Same (ringView r) s (flushBacklog s) :=
  (drainEvents_view h (s := s) (es := s.hif.backlog)).trans rfl

theorem pushEvent_view (h : r ≠ 32) : Same (ringView r) s (pushEvent e s) := by
  have hovf : Same (ringView r) s (appendOvf s) := same_ite (.refl s) rfl
  exact same_ite ((hovf.trans (t := appendEvent e (appendOvf s)) rfl).trans (flushBacklog_view h)) rfl

theorem raise_view {code src a0 a1 a2 : Nat} (h : r ≠ 32) : Same (ringView r) s (raise code src a0 a1 a2 s) := by
  unfold raise
  split
  · exact (show Same (ringView r) s (latchAlert _ s) from rfl).trans (pushEvent_view h)
  · exact pushEvent_view h

theorem bump_view {i : Nat} (h : r ≠ 32) : Same (ringView r) s (bump i n s) := by
  have hquiet : Same (ringView r) s (countQuiet i n s) := rfl
  exact same_ite (hquiet.trans (raise_view h)) hquiet

theorem cqOf_ne (h : r < 16) : r ≠ cqOf s q := by
  unfold cqOf
  omega

theorem flushDescs_view {ds : List Desc} (h : r < 16) : Same (ringView r) s (flushDescs q ds s).2 := by
  induction ds generalizing s with
  | nil => exact .refl s
  | cons d ds ih =>
    unfold flushDescs
    split
    · dsimp only
      split
      · refine Same.trans ?_ ih
        have hwrite : ∀ body, Same (ringView r) s (writeEntry (cqOf s q) body s) := fun _ => writeEntry_view (cqOf_ne h)
        exact same_ite ((hwrite _).trans (triggerRing_view (cqOf_ne h))) (hwrite _)
      · exact .refl s
    · exact .refl s

theorem flushSq_view (h : r < 16) : Same (ringView r) s (flushSq q s) :=
  (flushDescs_view h (s := s) (q := q) (ds := (getSq s q).descs)).trans rfl

/-! ### A ring that stops -/

theorem getRing_congr (h : t.hif = s.hif) : getRing t r = getRing s r := by rw [getRing, getRing, h]

theorem hifCore_congr (h : t.hif = s.hif) : hifCore t = hifCore s := by rw [hifCore, hifCore, h]

/-- A ring's error bit is set. -/
def ringFlagged (k : Nat) (s : State) : State := orRegIn 0x1000 (0x0B40 + 4 * k) 1 s

theorem ringFlagged_hif : (ringFlagged k s).hif = s.hif := setRegIn_hif

theorem ringError_eq {cause : Nat} : ringError k cause w s = raise 0x0D01 k cause w 0 (ringFlagged k (setRing k { getRing s k with stop := true } s)) := rfl

theorem ringError_view {cause : Nat} (h : r ≠ 32) (hk : r ≠ k) : Same (ringView r) s (ringError k cause w s) := by
  rw [ringError_eq]
  refine Same.trans ?_ (raise_view h)
  exact (setRing_view hk).trans (same_ringView (hifCore_congr ringFlagged_hif) (getRing_congr ringFlagged_hif)
    (getReg_setRegIn_other (by omega)) (congrArg Clk.now setRegIn_clk))

/-- A ring that an error has stopped. -/
structure Stopped (r : Nat) (s t : State) : Prop where
  ring : getRing t r = { getRing s r with stop := true }
  core : hifCore t = hifCore s
  flag : (getReg t (0x0B40 + 4 * r)).testBit 0 = true
  now : t.clk.now = s.clk.now

theorem Stopped.halts (h : Stopped r s t) : ringRuns t r = false := by
  rw [ringRuns, h.ring]
  exact Bool.and_false _

theorem Stopped.before (hv : Same (ringView r) s u) (h : Stopped r u t) : Stopped r s t :=
  ⟨hv.getRing_eq ▸ h.ring, h.core.trans hv.hifCore_eq, h.flag, h.now.trans hv.now_eq⟩

theorem Stopped.after (h : Stopped r s t) (hv : Same (ringView r) t u) : Stopped r s u :=
  ⟨hv.getRing_eq.trans h.ring, hv.hifCore_eq.trans h.core, hv.status_eq.symm ▸ h.flag, hv.now_eq.trans h.now⟩

theorem ringError_stops {cause : Nat} (h : q < 16) : Stopped q s (ringError q cause w s) := by
  rw [ringError_eq]
  have hq32 : q ≠ 32 := by omega
  refine Stopped.after (t := ringFlagged q (setRing q { getRing s q with stop := true } s))
    ⟨?_, (hifCore_congr ringFlagged_hif).trans rfl, ?_, congrArg Clk.now setRegIn_clk⟩ (raise_view hq32)
  · rw [getRing_congr ringFlagged_hif]
    exact getRing_setRing_same
  · rw [ringFlagged, orRegIn, getReg_setRegIn_same (by omega)]
    simp

theorem orRegIn_posts {hi off v : Nat} : PostsMore s (orRegIn hi off v s) := setRegIn_posts

theorem ringError_posts {cause : Nat} : PostsMore s (ringError k cause w s) :=
  (setRing_posts.trans orRegIn_posts).trans raise_posts

/-! ### POLL_RESULT (R345) -/

/-- One element of a list without repeats: what its own step finds and what the later steps leave of it. -/
theorem each_once {α β : Type} {f : State → β} {as : List α} {a : α} {g : α → State → State} (hnd : as.Nodup) (ha : a ∈ as)
    (hg : ∀ b, b ≠ a → ∀ v, Same f v (g b v)) : ∃ v, Same f s v ∧ Same f (g a v) (each as g s) := by
  obtain ⟨front, back, rfl⟩ := List.append_of_mem ha
  have hfront : a ∉ front := fun h => (List.nodup_append.mp hnd).2.2 a h a List.mem_cons_self rfl
  have hback : a ∉ back := (List.nodup_cons.mp (List.nodup_append.mp hnd).2.1).1
  refine ⟨each front g s, each_preserves_mem (P := Same f s) (.refl s) fun b hb v hv => hv.trans (hg b (fun h => hfront (h ▸ hb)) v), ?_⟩
  have hsplit : each (front ++ a :: back) g s = each back g (g a (each front g s)) := by simp [each]
  rw [hsplit]
  exact each_preserves_mem (P := Same f _) (.refl _) fun b hb v hv => hv.trans (hg b (fun h => hback (h ▸ hb)) v)

theorem pollSq_view {tails : List Nat} (h : r < 16) (hk : r ≠ k) : Same (ringView r) s (pollSq page tails k s) := by
  unfold pollSq
  dsimp only
  refine same_ite (.refl s) (same_ite (ringError_view (by omega) hk) (same_ite (.refl s) ?_))
  exact (setRing_view hk).trans setSq_view

theorem pollHead_view (hk : r ≠ k) : Same (ringView r) s (pollHead page k s) := by
  unfold pollHead
  exact same_ite (.refl s) (setRing_view hk)

/-- What a poll whose tail is good leaves of an SQ. -/
structure TailTaken (page : List Byte) (r : Nat) (s t : State) : Prop where
  ring : getRing t r = { getRing s r with prod := (getRing s r).fwd (getRing s r).prod (leAt page (4 * r) 4) }
  core : hifCore t = hifCore s
  now : t.clk.now = s.clk.now

theorem TailTaken.before (hv : Same (ringView r) s u) (h : TailTaken page r u t) : TailTaken page r s t :=
  ⟨hv.getRing_eq ▸ h.ring, h.core.trans hv.hifCore_eq, h.now.trans hv.now_eq⟩

theorem TailTaken.after (h : TailTaken page r s t) (hv : Same (ringView r) t u) : TailTaken page r s u :=
  ⟨hv.getRing_eq.trans h.ring, hv.hifCore_eq.trans h.core, hv.now_eq.trans h.now⟩

theorem pollSq_takes {tails : List Nat} (hrun : ringRuns s q = true) (hw : bitsOf (leAt page (4 * q) 4) 0 16 < (getRing s q).size) :
    TailTaken page q s (pollSq page tails q s) := by
  unfold pollSq
  dsimp only
  rw [hrun, if_neg (by simp), if_neg (by omega)]
  split
  · next hsame => exact ⟨by rw [hsame], rfl, rfl⟩
  · exact ⟨getRing_setRing_same, rfl, rfl⟩

theorem pollSq_stops {tails : List Nat} (hq : q < 16) (hrun : ringRuns s q = true) (hw : (getRing s q).size ≤ bitsOf (leAt page (4 * q) 4) 0 16) :
    Stopped q s (pollSq page tails q s) := by
  unfold pollSq
  dsimp only
  rw [hrun, if_neg (by simp), if_pos hw]
  exact ringError_stops hq

/-- A poll that has come back, and when the next would be due without a change of the interval. -/
def polled (s : State) : State := { s with hif := { s.hif with polling := false, pollDue := s.clk.now + s.hif.interval } }

theorem getRing_polled : getRing (polled s) r = getRing s r := rfl

/-- The SQs of a poll's page are served. -/
def sqsServed (page : List Byte) (s : State) : State := each (List.range 16) (pollSq page (pageTails s page)) s

/-- The rings whose heads the host moves. -/
def headRings : List Nat := (List.range 16).map (· + 16) ++ [32, 33, 35]

theorem headRings_ge (hr : r < 16) (hk : k ∈ headRings) : r ≠ k := by
  simp only [headRings, List.mem_append, List.mem_map, List.mem_range, List.mem_cons, List.not_mem_nil, or_false] at hk
  rcases hk with ⟨i, -, rfl⟩ | rfl | rfl | rfl <;> omega

/-- The heads of a poll's page are taken. -/
def headsTaken (page : List Byte) (s : State) : State := each headRings (pollHead page) s

/-- The tail of the BQ in a poll's page. -/
def bufferTail (page : List Byte) (s : State) : Nat :=
  if ringRuns s 34 then (getRing s 34).fwd (getRing s 34).prod (leAt page 136 4) else (getRing s 34).prod

/-- The buffers that the BQ's new tail exposes are taken. -/
def buffersTaken (page : List Byte) (bufs : List (BitVec 64)) (s : State) : State :=
  { setRing 34 { getRing s 34 with prod := bufferTail page s } s with
    hif := { (setRing 34 { getRing s 34 with prod := bufferTail page s } s).hif with
      bufs := (setRing 34 { getRing s 34 with prod := bufferTail page s } s).hif.bufs ++ (bufs.take (bufferTail page s - (getRing s 34).prod)).map (fun a => a.toNat / 64 * 64) } }

/-- The interval of the polls is set. -/
def intervalSet (ns : Nat) (s : State) : State := { s with hif := { s.hif with interval := ns, pollDue := s.clk.now + ns } }

/-- The state of a poll once its page is taken. -/
def pageTaken (page : List Byte) (bufs : List (BitVec 64)) (s : State) : State := buffersTaken page bufs (headsTaken page (sqsServed page (polled s)))

/-- A poll has brought work: a descriptor to fetch, room that something waits for, or a buffer. -/
def pollWork (page : List Byte) (bufs : List (BitVec 64)) (s : State) : Bool :=
  (List.range 16).any (fun q => ringRuns (pageTaken page bufs s) q &&
      decide ((getRing (pageTaken page bufs s) q).prod ≠ (getRing (pageTaken page bufs s) q).cons)) ||
    headRings.any (fun r => awaits (polled s) r &&
      decide ((getRing (polled s) r).cons ≠ (getRing (polled s) r).fwd (getRing (polled s) r).cons (leAt page (doorbellOff r) 4))) ||
    ((polled s).hif.bufs.isEmpty && decide (bufferTail page (headsTaken page (sqsServed page (polled s))) ≠
      (getRing (headsTaken page (sqsServed page (polled s))) 34).prod))

/-- The interval after a poll. -/
def nextInterval (page : List Byte) (bufs : List (BitVec 64)) (s : State) : Nat :=
  if pollWork page bufs s then pollMin (pageTaken page bufs s)
  else min (2 * (pageTaken page bufs s).hif.interval) (pollMax (pageTaken page bufs s))

theorem pollResult_page {timedOut : Bool} {bufs : List (BitVec 64)} (hp : s.hif.polling = true) (hc : connected s = true) :
    pollResult (some page) timedOut bufs s = flushBacklog (each (List.range 16) flushSq
      (if pollWork page bufs s then intervalSet (nextInterval page bufs s) (pageTaken page bufs s)
      else bump 77 1 (intervalSet (nextInterval page bufs s) (pageTaken page bufs s)))) := by
  have hopen : ¬(!s.hif.polling || !connected s) = true := by simp [hp, hc]
  unfold pollResult
  rewrite [if_neg hopen]
  dsimp only
  unfold nextInterval pollWork pageTaken buffersTaken bufferTail headsTaken sqsServed intervalSet headRings polled
  congr 2

theorem buffersTaken_view {bufs : List (BitVec 64)} (hr : r < 16) : Same (ringView r) s (buffersTaken page bufs s) :=
  (setRing_view (k := 34) (g := { getRing s 34 with prod := bufferTail page s }) (by omega)).trans rfl

/-- What the page of a poll leaves of an SQ once it is served: the interval alone is set anew. -/
theorem served_view {timedOut : Bool} {bufs : List (BitVec 64)} (hp : s.hif.polling = true) (hc : connected s = true) (hr : r < 16) :
    ∃ ns u, Same (ringView r) (sqsServed page (polled s)) u ∧ Same (ringView r) (intervalSet ns u) (pollResult (some page) timedOut bufs s) := by
  have hheads : ∀ v, Same (ringView r) v (headsTaken page v) := fun v =>
    each_preserves_mem (P := Same (ringView r) v) (.refl v) fun k hk u hu => hu.trans (pollHead_view (headRings_ge hr hk))
  refine ⟨nextInterval page bufs s, pageTaken page bufs s, (hheads _).trans (buffersTaken_view hr), ?_⟩
  rw [pollResult_page hp hc]
  have hne : r ≠ 32 := by omega
  exact (same_each (same_ite (.refl _) (bump_view hne)) fun _ _ => flushSq_view hr).trans (flushBacklog_view hne)

/-- What a poll that has failed leaves of an SQ that runs. -/
theorem pollResult_failed {timedOut : Bool} {bufs : List (BitVec 64)} (hp : s.hif.polling = true) (hc : connected s = true) (hq : q < 16)
    (hrun : ringRuns s q = true) : Stopped q (polled s) (pollResult none timedOut bufs s) := by
  unfold pollResult
  rw [if_neg (by simp [hp, hc])]
  dsimp only
  obtain ⟨v, hv, hafter⟩ := each_once (f := ringView q) (s := polled s) (as := (List.range 16).filter (ringRuns (polled s)))
    (g := fun q s => ringError q (if timedOut then 3 else 1) ((getRing s q).word (getRing s q).cons) s) (List.nodup_range.filter _)
    (List.mem_filter.mpr ⟨List.mem_range.mpr hq, hrun⟩) fun k hk v => ringError_view (by omega) (Ne.symm hk)
  exact ((ringError_stops hq).before hv).after hafter

theorem pollSqs_once {tails : List Nat} (hq : q < 16) : ∃ v, Same (ringView q) s v ∧
    Same (ringView q) (pollSq page tails q v) (each (List.range 16) (pollSq page tails) s) :=
  each_once List.nodup_range (List.mem_range.mpr hq) fun _ hk _ => pollSq_view hq (Ne.symm hk)

/-! ### RING_ENABLE (R307, R339) -/

/-- The EVQ can take `n` entries. -/
structure Room (n : Nat) (s : State) : Prop where
  conn : connected s = true
  en : (getRing s 32).en = true
  space : (getRing s 32).prod - (getRing s 32).cons + n ≤ (getRing s 32).size

theorem Room.ready (h : Room (n + 1) s) : evqReady s = true := by
  have hfull : (getRing s 32).full = false := decide_eq_false (fun hle => by
    have := h.space
    unfold Ring.level at hle
    omega)
  rw [evqReady, h.conn, h.en, hfull]
  rfl

theorem triggered_ring {c : Prop} [Decidable c] : ∃ pend, getRing (if c then triggerRing k u else u) k = { getRing u k with pend := pend } := by
  split
  · exact ⟨0, getRing_setRing_same⟩
  · exact ⟨_, rfl⟩

/-- A ring's pointers with one entry more. -/
def ringAdded (k : Nat) (s : State) : Ring :=
  { getRing s k with
    prod := (getRing s k).prod + 1, pend := (getRing s k).pend + 1, oldest := if (getRing s k).pend = 0 then s.clk.now else (getRing s k).oldest }

/-- The shadow page has a change to write. -/
def dirtied (s : State) : State := { s with hif := { s.hif with shDirty := true } }

/-- A ring with one entry more. -/
def entryAdded (k : Nat) (body : List Byte) (s : State) : State :=
  dirtied (setRing k (ringAdded k s) (post (.mem ((getRing s k).base + (body.length + 1) * ((getRing s k).prod % (getRing s k).size))
    (body ++ [if (getRing s k).prod / (getRing s k).size % 2 = 0 then 1#8 else 0#8])) s))

theorem writeEntry_ring : ∃ pend oldest, getRing (writeEntry k body s) k =
    { getRing s k with prod := (getRing s k).prod + 1, pend := pend, oldest := oldest } := by
  have hadded : getRing (entryAdded k body s) k = ringAdded k s := getRing_setRing_same
  have heq : writeEntry k body s =
      if regF (entryAdded k body s) (modReg k) 8 8 ≠ 0 ∧ regF (entryAdded k body s) (modReg k) 8 8 ≤ (getRing s k).pend + 1 then
        triggerRing k (entryAdded k body s)
      else entryAdded k body s := rfl
  obtain ⟨pend, hring⟩ := triggered_ring (k := k) (u := entryAdded k body s)
    (c := regF (entryAdded k body s) (modReg k) 8 8 ≠ 0 ∧ regF (entryAdded k body s) (modReg k) 8 8 ≤ (getRing s k).pend + 1)
  rw [heq, hring, hadded]
  exact ⟨pend, _, rfl⟩

theorem writeEntry_connected : connected (writeEntry k body s) = connected s := by
  rw [connected, connected, writeEntry_keeps.glb_eq rfl]

theorem Room.write (h : Room (n + 1) s) : Room n (writeEntry 32 body s) := by
  obtain ⟨pend, oldest, hring⟩ := writeEntry_ring (k := 32) (body := body) (s := s)
  refine ⟨writeEntry_connected.trans h.conn, by rw [hring]; exact h.en, ?_⟩
  rw [hring]
  have := h.space
  change (getRing s 32).prod + 1 - (getRing s 32).cons + n ≤ (getRing s 32).size
  omega

/-- Where the EVQ has room for all that waits, each event is written. -/
theorem drainEvents_room (h : Room es.length s) : ∃ v, drainEvents es s = ([], v) ∧ Room 0 v ∧ PostsMore s v ∧
    ∀ e ∈ es, ∃ a p, HostWrite.mem a (eventBody e ++ [p]) ∈ v.hif.posted := by
  induction es generalizing s with
  | nil => exact ⟨s, rfl, h, .refl s, by simp⟩
  | cons e es ih =>
    obtain ⟨v, heq, hroom, hposts, hall⟩ := ih (h.write (body := eventBody e))
    obtain ⟨hfirst, a, p, hmem⟩ := writeEntry_posts (r := 32) (body := eventBody e) (s := s)
    refine ⟨v, ?_, hroom, hfirst.trans hposts, fun x hx => ?_⟩
    · unfold drainEvents
      rw [if_pos h.ready]
      exact heq
    · rcases List.mem_cons.mp hx with rfl | hx
      · exact ⟨a, p, hposts.posted _ hmem⟩
      · exact hall x hx

theorem drainEvents_flushed (h : Room s.hif.backlog.length s) : ∀ e ∈ s.hif.backlog, ∃ a p, HostWrite.mem a (eventBody e ++ [p]) ∈ (flushBacklog s).hif.posted := by
  obtain ⟨v, heq, -, -, hall⟩ := drainEvents_room h
  intro e he
  have hflush : flushBacklog s = { v with hif := { v.hif with backlog := [] } } := by rw [flushBacklog, heq]
  rw [hflush]
  exact hall e he

theorem flushBacklog_room (h : Room s.hif.backlog.length s) : (getRing (flushBacklog s) 32).en = true := by
  obtain ⟨v, heq, hroom, -, -⟩ := drainEvents_room h
  have hflush : flushBacklog s = { v with hif := { v.hif with backlog := [] } } := by rw [flushBacklog, heq]
  rw [hflush]
  exact hroom.en

theorem appendOvf_backlog : (appendOvf s).hif.backlog.length ≤ s.hif.backlog.length + 1 ∧ getRing (appendOvf s) 32 = getRing s 32 ∧
    (appendOvf s).glb = s.glb := by
  unfold appendOvf
  dsimp only
  split
  · exact ⟨by omega, rfl, rfl⟩
  · exact ⟨Nat.le_of_eq (List.length_append.trans rfl), rfl, rfl⟩

/-- An event that finds no other waiting, and room, is written. -/
theorem pushEvent_room (hb : s.hif.backlog = []) (h : Room 2 s) : (getRing (pushEvent e s) 32).en = true ∧
    ∃ a p, HostWrite.mem a (eventBody e ++ [p]) ∈ (pushEvent e s).hif.posted := by
  obtain ⟨hlen, hring, hglb⟩ := appendOvf_backlog (s := s)
  have hback : (appendEvent e (appendOvf s)).hif.backlog.length ≤ 2 := by
    change ((appendOvf s).hif.backlog ++ [e]).length ≤ 2
    rw [hb] at hlen
    rw [List.length_append]
    exact Nat.succ_le_succ hlen
  have hring' : getRing (appendEvent e (appendOvf s)) 32 = getRing s 32 := hring
  have hroom : Room (appendEvent e (appendOvf s)).hif.backlog.length (appendEvent e (appendOvf s)) := by
    refine ⟨?_, hring' ▸ h.en, ?_⟩
    · change connected (appendOvf s) = true
      rw [connected, hglb]
      exact h.conn
    · rw [hring']
      have := h.space
      omega
  have heq : pushEvent e s = flushBacklog (appendEvent e (appendOvf s)) := if_pos (by rw [hb]; decide)
  rw [heq]
  exact ⟨flushBacklog_room hroom, drainEvents_flushed hroom e (List.mem_append_right _ List.mem_cons_self)⟩

/-- A ring that is enabled anew. -/
def ringReset (r : Nat) (s : State) : Ring :=
  { Ring.init with en := true, base := base64 s (0x0900 + 16 * r), log2 := clampNat 6 16 (regF s (0x0908 + 16 * r) 0 5) }

/-- A ring's enable bit, and its pointers anew. -/
def ringEnabled (r : Nat) (s : State) : State := setRing r (ringReset r s) (setRegIn 0x1000 (0x090C + 16 * r) 1 s)

/-- What else an enable of a ring starts anew: the copies of an SQ's descriptors, or the free buffers of the BQ. -/
def queueReset (r : Nat) (s : State) : State :=
  if r = 34 then { (if r < 16 then setSq r Sq.init s else s) with hif := { (if r < 16 then setSq r Sq.init s else s).hif with bufs := [] } }
  else if r < 16 then setSq r Sq.init s else s

theorem ringReset_flag : ringReset r (setRegIn 0x1000 (0x090C + 16 * r) n s) = ringReset r s := by
  unfold ringReset base64 regF
  rw [getReg_setRegIn_other (by omega), getReg_setRegIn_other (by omega), getReg_setRegIn_other (by omega)]

theorem ringReset_eq : ringReset r s =
    { Ring.init with en := true, base := (getReg s (0x0900 + 16 * r) + 2 ^ 32 * getReg s (0x0904 + 16 * r)) / 4096 * 4096,
                     log2 := clampNat 6 16 (regF s (0x0908 + 16 * r) 0 5) } := by
  rw [ringReset, base64, show 0x0900 + 16 * r + 4 = 0x0904 + 16 * r by omega]

theorem ringEnable_on : ringEnable r true s =
    if r = 32 then endIsolation (dirtied (queueReset r (ringEnabled r s))) else dirtied (queueReset r (ringEnabled r s)) := by
  rw [ringEnabled, ← ringReset_flag (n := 1)]
  rfl

theorem ringEnable_off : ringEnable r false s = setRing r { getRing s r with en := false } (setRegIn 0x1000 (0x090C + 16 * r) 0 s) := rfl

theorem getRing_queueReset : getRing (queueReset r s) k = getRing s k := by
  unfold queueReset
  split
  · split <;> rfl
  · split <;> rfl

theorem getSq_queueReset (h : r < 16) : getSq (queueReset r s) r = Sq.init := by
  unfold queueReset
  rw [if_neg (by omega), if_pos h]
  exact getSq_setSq

theorem getRing_ringEnabled_other (h : k ≠ r) : getRing (ringEnabled r s) k = getRing s k :=
  (getRing_setRing_other h).trans (getRing_congr setRegIn_hif)

/-- The isolation ends. -/
def reconnected (s : State) : State := { s with glb := { s.glb with iso := .on } }

theorem endIsolation_ends (hiso : s.glb.iso ≠ .on) (hb : s.hif.backlog = []) : endIsolation s =
    raise 0x0B01 0 (if s.glb.iso = .perst then 1 else 2) ((s.clk.now - s.glb.isoT0) / 1000) 0 (reconnected s) := by
  have hflush : flushBacklog (reconnected s) = reconnected s := by
    have hb' : (reconnected s).hif.backlog = [] := hb
    rw [flushBacklog, hb']
    change { reconnected s with hif := { (reconnected s).hif with backlog := [] } } = reconnected s
    rw [← hb']
  unfold endIsolation
  split
  · next h => exact absurd h hiso
  · exact congrArg (raise 0x0B01 0 (if s.glb.iso = .perst then 1 else 2) ((s.clk.now - s.glb.isoT0) / 1000) 0) hflush
  · exact congrArg (raise 0x0B01 0 (if s.glb.iso = .perst then 1 else 2) ((s.clk.now - s.glb.isoT0) / 1000) 0) hflush

theorem raise_ends {code src a0 a1 a2 : Nat} (hb : s.hif.backlog = []) (h : Room 2 s) : (getRing (raise code src a0 a1 a2 s) 32).en = true ∧
    ∃ e a p, HostWrite.mem a (eventBody e ++ [p]) ∈ (raise code src a0 a1 a2 s).hif.posted ∧ e.code = code ∧ e.a0 = a0 % 2 ^ 32 ∧
      e.a1 = a1 % 2 ^ 32 := by
  unfold raise
  dsimp only
  split
  · next k _ =>
    have hroom : Room 2 (latchAlert k s) := ⟨h.conn, h.en, h.space⟩
    obtain ⟨hen, a, p, hmem⟩ := pushEvent_room (e := ⟨code, src, devTime s, a0 % 2 ^ 32, a1 % 2 ^ 32, a2 % 2 ^ 32⟩) (s := latchAlert k s) hb hroom
    exact ⟨hen, _, a, p, hmem, rfl, rfl, rfl⟩
  · obtain ⟨hen, a, p, hmem⟩ := pushEvent_room (e := ⟨code, src, devTime s, a0 % 2 ^ 32, a1 % 2 ^ 32, a2 % 2 ^ 32⟩) hb h
    exact ⟨hen, _, a, p, hmem, rfl, rfl, rfl⟩

/-- The EVQ enabled anew has room. -/
theorem evqReset_room : Room 2 (reconnected (dirtied (queueReset 32 (ringEnabled 32 s)))) := by
  have hring : getRing (reconnected (dirtied (queueReset 32 (ringEnabled 32 s)))) 32 = ringReset 32 s :=
    (getRing_queueReset (s := ringEnabled 32 s)).trans getRing_setRing_same
  refine ⟨rfl, by rw [hring]; rfl, ?_⟩
  rw [hring]
  have hlog : 1 ≤ (ringReset 32 s).log2 := by
    change 1 ≤ clampNat 6 16 (regF s (0x0908 + 16 * 32) 0 5)
    unfold clampNat
    split
    · decide
    · split <;> omega
  exact Nat.pow_le_pow_right (show 0 < 2 by decide) hlog

/-! ### DESCRIPTOR_FETCH (R348) -/

theorem fetchNext_full (h : (getRing s (cqOf s q)).full = true ∨ fetchNext s ≠ some q) : fetchNext s ≠ some q := fun hnext => by
  rcases h with hfull | hne
  · have hcan : canFetch s q = true := List.find?_some hnext
    rw [canFetch, hfull, Bool.not_true, Bool.and_false] at hcan
    cases hcan
  · exact hne hnext

theorem descriptorFetch_waits {data : Option (List Byte)} {timedOut : Bool} (h : fetchNext s ≠ some q) : descriptorFetch q data timedOut s = s :=
  if_pos (by simp [h])

/-- The turn of the fetch moves on. -/
def turned (q : Nat) (s : State) : State := { s with hif := { s.hif with turn := (q + 1) % 16 } }

/-- The descriptors that a fetch copies. -/
def fetched (q n : Nat) (bs : List Byte) (s : State) : List Desc :=
  (List.range n).map (fun i => { pos := (getRing s q).cons + i, bytes := padTo 64 (slice bs (64 * i) 64), st := .waiting,
                                 tails := exposing (getSq s q).polls ((getRing s q).cons + i) })

/-- An SQ whose descriptors a fetch has copied. -/
def sqFetched (q n : Nat) (bs : List Byte) (s : State) : State :=
  dirtied (setRing q { getRing s q with cons := (getRing s q).cons + n }
    (setSq q { descs := (getSq s q).descs ++ fetched q n bs s, polls := (getSq s q).polls.filter (fun x => (getRing s q).cons + n < x.1) } s))

theorem descriptorFetch_serves {data : Option (List Byte)} {timedOut : Bool} (hen : s.hif.en = true) (hc : connected s = true)
    (h : fetchNext s = some q) : descriptorFetch q data timedOut s =
      match data with
      | none => ringError q (if timedOut then 3 else 1) ((getRing s q).word (getRing s q).cons) (turned q s)
      | some bs => sqFetched q (min 8 ((getRing s q).prod - (getRing s q).cons)) bs (turned q s) := by
  cases data with
  | none => exact if_neg (by simp [hen, hc, h])
  | some bs => exact if_neg (by simp [hen, hc, h])

/-! ### SHADOW_WRITE and MSIX_UNMASK (R346, R354) -/

/-- A vector that has fired: its message is posted, or its bit is pending where it is masked. -/
def Fired (s : State) (k : Nat) (t : State) : Prop :=
  ((getReg s (0x0C0C + 16 * k)).testBit 0 = true → t.hif.pba.testBit k = true) ∧
    ((getReg s (0x0C0C + 16 * k)).testBit 0 = false →
      HostWrite.msix k (getReg s (0x0C00 + 16 * k) + 2 ^ 32 * getReg s (0x0C04 + 16 * k)) (getReg s (0x0C08 + 16 * k)) ∈ t.hif.posted)

theorem fireVector_masked (h : (getReg s (0x0C0C + 16 * k)).testBit 0 = true) :
    fireVector k s = { s with hif := { s.hif with pba := setBitTo s.hif.pba k true } } := if_pos h

theorem fireVector_posts (h : (getReg s (0x0C0C + 16 * k)).testBit 0 = false) : fireVector k s =
    post (.msix k (getReg s (0x0C00 + 16 * k) + 2 ^ 32 * getReg s (0x0C04 + 16 * k)) (getReg s (0x0C08 + 16 * k))) s :=
  if_neg (Bool.eq_false_iff.mp h)

/-- What a vector that fires keeps: the registers, the posted writes and the pending bits, and all else of the interface that is named. -/
structure FireKeeps (s t : State) : Prop where
  regs : t.regs = s.regs
  posted : ∀ x ∈ s.hif.posted, x ∈ t.hif.posted
  pba : ∀ j, s.hif.pba.testBit j = true → t.hif.pba.testBit j = true
  dirty : t.hif.shDirty = s.hif.shDirty
  trig : t.hif.trig = s.hif.trig
  gen : t.hif.shGen = s.hif.shGen
  due : t.hif.shDue = s.hif.shDue

theorem FireKeeps.trans (h : FireKeeps s t) (k : FireKeeps t u) : FireKeeps s u where
  regs := k.regs.trans h.regs
  posted x hx := k.posted x (h.posted x hx)
  pba j hj := k.pba j (h.pba j hj)
  dirty := k.dirty.trans h.dirty
  trig := k.trig.trans h.trig
  gen := k.gen.trans h.gen
  due := k.due.trans h.due

theorem fireVector_fireKeeps : FireKeeps s (fireVector k s) := by
  unfold fireVector
  split
  · refine ⟨rfl, fun _ h => h, fun j hj => ?_, rfl, rfl, rfl, rfl⟩
    change (setBitTo s.hif.pba k true).testBit j = true
    rw [testBit_setBitTo, hj]
    split <;> rfl
  · exact ⟨rfl, fun _ h => List.mem_append_left _ h, fun _ h => h, rfl, rfl, rfl, rfl⟩

theorem Fired.congr (hr : t.regs = s.regs) : Fired t k u ↔ Fired s k u := by
  unfold Fired getReg
  rw [hr]

theorem fireVector_fired : Fired s k (fireVector k s) := by
  refine ⟨fun h => ?_, fun h => ?_⟩
  · rw [fireVector_masked h]
    change (setBitTo s.hif.pba k true).testBit k = true
    rw [testBit_setBitTo, if_pos rfl]
  · rw [fireVector_posts h]
    exact List.mem_append_right _ List.mem_cons_self

theorem Fired.after (h : Fired s k t) (hk : FireKeeps t u) : Fired s k u := ⟨fun hm => hk.pba _ (h.1 hm), fun hm => hk.posted _ (h.2 hm)⟩

/-- All vectors that were triggered fire. -/
theorem vectors_fire {vs : List Nat} : FireKeeps s (each vs fireVector s) ∧ ∀ k ∈ vs, Fired s k (each vs fireVector s) := by
  induction vs generalizing s with
  | nil => exact ⟨⟨rfl, fun _ h => h, fun _ h => h, rfl, rfl, rfl, rfl⟩, by simp⟩
  | cons k vs ih =>
    obtain ⟨hkeeps, hfired⟩ := ih (s := fireVector k s)
    refine ⟨fireVector_fireKeeps.trans hkeeps, fun j hj => ?_⟩
    rcases List.mem_cons.mp hj with rfl | hj
    · exact fireVector_fired.after hkeeps
    · exact (Fired.congr fireVector_fireKeeps.regs).mp (hfired j hj)

/-- The shadow page goes out, and its hold-off begins. -/
def shadowSent (s : State) : State :=
  { post (.mem s.hif.shBase (shadowPage s)) s with
    hif := { (post (.mem s.hif.shBase (shadowPage s)) s).hif with
      shDirty := false, shDue := s.clk.now + 1000 * max 1 (regF s 0x0820 0 8), trig := [], shGen := (s.hif.shGen + 1) % 2 ^ 32 } }

theorem shadowWrite_due (hc : connected s = true) (hen : s.hif.en = true) (hd : s.hif.shDirty = true) (h : s.hif.shDue ≤ s.clk.now) :
    shadowWrite s = each s.hif.trig fireVector (shadowSent s) := if_pos (by simp [hc, hen, hd, h])

theorem shadowWrite_early (h : s.clk.now < s.hif.shDue) : shadowWrite s = s := if_neg (by simp [Nat.not_le.mpr h])

/-- A vector's mask is cleared. -/
def unmasked (k : Nat) (s : State) : State := setRegIn 0x1000 (0x0C0C + 16 * k) 0 s

theorem getReg_unmasked (hk : k < 64) : getReg (unmasked k s) (0x0C0C + 16 * k) = 0 := getReg_setRegIn_same (by omega)

theorem msixUnmask_quiet (h : s.hif.pba.testBit k = false) : msixUnmask k s = unmasked k s := by
  have hpba : (unmasked k s).hif.pba.testBit k = false := by rw [unmasked, setRegIn_hif, h]
  exact if_neg (by rw [show (setRegIn 0x1000 (0x0C0C + 16 * k) 0 s).hif.pba.testBit k = false from hpba]; simp)

/-- A vector's bit is pending no more. -/
def bitCleared (k : Nat) (s : State) : State := { s with hif := { s.hif with pba := setBitTo s.hif.pba k false } }

theorem msixUnmask_fires (h : s.hif.pba.testBit k = true) (hc : connected s = true) : msixUnmask k s = fireVector k (bitCleared k (unmasked k s)) := by
  have hpba : (setRegIn 0x1000 (0x0C0C + 16 * k) 0 s).hif.pba.testBit k = true := by rw [setRegIn_hif, h]
  have hconn : connected (setRegIn 0x1000 (0x0C0C + 16 * k) 0 s) = true := by rw [connected, setRegIn_glb]; exact hc
  exact if_pos (by rw [hpba, hconn]; rfl)

/-- Settles O57: each command by the equation of its case; what events and completions leave of the rings carries the polls. -/
theorem hostRings : Obligations.HostRings := by
  unfold Obligations.HostRings
  refine ⟨?_, ?_, ?_, ?_, ?_, ?_, ?_, ?_, ?_, ?_, ?_⟩
  · intro s hbar
    have hexec : ∀ en, exec (.hifEnable en) s = .next (hifEnable en s) := fun en => congrArg Host.Outcome.next (if_pos hbar)
    refine ⟨fun hoff => ?_, ?_⟩
    · have heq : hifEnable true s = { setReg 0x0800 1 s with hif := { s.hif with
          en := true, dbBase := base64 (setReg 0x0800 1 s) 0x0808, shBase := base64 (setReg 0x0800 1 s) 0x0810, polling := false,
          interval := pollMin (setReg 0x0800 1 s), pollDue := s.clk.now } } :=
        (if_neg (show ¬true = s.hif.en by simp [hoff])).trans (if_pos rfl)
      have hbase : ∀ lo, lo ≠ 0x0800 → lo + 4 ≠ 0x0800 → base64 (setReg 0x0800 1 s) lo =
          (getReg s lo + 2 ^ 32 * getReg s (lo + 4)) / 4096 * 4096 := fun lo hlo hhi => by
        rw [base64, getReg_setReg_other hlo, getReg_setReg_other hhi]
      exact ⟨_, (hexec true).trans (congrArg _ heq), rfl, rfl, rfl, hbase 0x0808 (by decide) (by decide), hbase 0x0810 (by decide) (by decide), rfl⟩
    · cases hen : s.hif.en with
      | false =>
        have heq : hifEnable false s = setReg 0x0800 0 s := if_pos hen.symm
        exact ⟨_, (hexec false).trans (congrArg _ heq), hen, rfl, rfl⟩
      | true =>
        have heq : hifEnable false s = { setReg 0x0800 0 s with hif := { s.hif with en := false, polling := false } } :=
          (if_neg (show ¬false = s.hif.en by simp [hen])).trans (if_neg Bool.false_ne_true)
        exact ⟨_, (hexec false).trans (congrArg _ heq), rfl, rfl, rfl⟩
  · intro s r hbar
    have hexec : ∀ en, exec (.ringEnable r en) s = .next (ringEnable r en s) := fun en => congrArg Host.Outcome.next (if_pos hbar)
    refine ⟨fun h32 => ?_, ?_⟩
    · have heq := (ringEnable_on (r := r) (s := s)).trans (if_neg h32)
      have hring : ∀ k, getRing (dirtied (queueReset r (ringEnabled r s))) k = getRing (ringEnabled r s) k := fun k => getRing_queueReset
      have hreset : getRing (ringEnabled r s) r = ringReset r s := getRing_setRing_same
      exact ⟨_, (hexec true).trans (congrArg _ heq), (hring r).trans (hreset.trans ringReset_eq), fun hr => getSq_queueReset hr, rfl,
        fun k hk => (hring k).trans (getRing_ringEnabled_other hk)⟩
    · have hposted : (setRegIn 0x1000 (0x090C + 16 * r) 0 s).hif.posted = s.hif.posted := congrArg Hif.posted setRegIn_hif
      exact ⟨_, (hexec false).trans (congrArg _ ringEnable_off), getRing_setRing_same, hposted,
        fun k hk => (getRing_setRing_other hk).trans (getRing_congr setRegIn_hif)⟩
  · intro s hbar hiso hback
    have hexec : exec (.ringEnable 32 true) s = .next (ringEnable 32 true s) := congrArg Host.Outcome.next (if_pos hbar)
    have hglb : (dirtied (queueReset 32 (ringEnabled 32 s))).glb = s.glb := setRegIn_glb
    have hclk : (dirtied (queueReset 32 (ringEnabled 32 s))).clk = s.clk := setRegIn_clk
    have hb : (dirtied (queueReset 32 (ringEnabled 32 s))).hif.backlog = [] := (congrArg Hif.backlog setRegIn_hif).trans hback
    have heq := ((ringEnable_on (r := 32) (s := s)).trans (if_pos rfl)).trans (endIsolation_ends (by rw [hglb]; exact hiso) hb)
    rw [hglb, hclk] at heq
    obtain ⟨hen, e, a, p, hmem, hcode, ha0, ha1⟩ := raise_ends (s := reconnected (dirtied (queueReset 32 (ringEnabled 32 s)))) (code := 0x0B01) (src := 0) (a0 := if s.glb.iso = .perst then 1 else 2)
      (a1 := (s.clk.now - s.glb.isoT0) / 1000) (a2 := 0) hb (evqReset_room (s := s))
    refine ⟨_, e, a, p, hexec.trans (congrArg _ heq), congrArg Glb.iso (raise_keeps.glb_eq rfl), hen, hmem, hcode, ha0.trans ?_, ha1⟩
    split <;> rfl
  · intro s hen hpoll hconn
    refine ⟨fun hdue => ?_, fun hdue => ?_⟩
    · have heq : doorbellPoll s = bump 76 1 { s with hif := { s.hif with polling := true } } := if_pos (by simp [hen, hpoll, hconn, hdue])
      exact ⟨_, congrArg Host.Outcome.next heq, polling_of_core (bump_view (r := 0) (by decide)).hifCore_eq, .before rfl (bump_counted (by decide) ..)⟩
    · exact congrArg Host.Outcome.next (if_neg (by simp [Nat.not_le.mpr hdue]))
  · intro s page timedOut bufs q w hpoll hconn hw hrun
    subst hw
    have hrun' : ringRuns (polled s) q = true := hrun
    obtain ⟨ns, u, hu, ht⟩ := served_view (page := page) (timedOut := timedOut) (bufs := bufs) hpoll hconn q.isLt
    obtain ⟨v, hv, hafter⟩ := pollSqs_once (page := page) (tails := pageTails (polled s) page) (s := polled s) q.isLt
    refine ⟨fun hsize => ?_, fun hsize => ?_, ?_⟩
    · have htake : TailTaken page q (polled s) u :=
        (((pollSq_takes (hv.ringRuns_eq.trans hrun') (by rw [hv.getRing_eq]; exact hsize)).before hv).after hafter).after hu
      have hring : getRing (pollResult (some page) timedOut bufs s) q =
          { getRing s q with prod := (getRing s q).fwd (getRing s q).prod (leAt page (4 * q) 4) } := ht.getRing_eq.trans htake.ring
      refine ⟨_, rfl, ?_, by rw [hring], by rw [hring], ?_, ?_⟩
      · exact (polling_of_core ht.hifCore_eq).trans (polling_of_core (t := u) htake.core)
      · rw [ringRuns, hring]
        exact hrun
      · rw [pollDue_of_core ht.hifCore_eq, interval_of_core ht.hifCore_eq]
        exact congrArg (· + ns) htake.now
    · have hstop : Stopped q (polled s) u :=
        (((pollSq_stops q.isLt (hv.ringRuns_eq.trans hrun') (by rw [hv.getRing_eq]; exact hsize)).before hv).after hafter).after hu
      have hring : getRing (pollResult (some page) timedOut bufs s) q = { getRing s q with stop := true } := ht.getRing_eq.trans hstop.ring
      refine ⟨_, rfl, ?_, by rw [hring], ?_⟩
      · rw [ringRuns, hring]
        exact Bool.and_false _
      · rw [ht.status_eq]
        exact hstop.flag
    · have hstop := pollResult_failed (timedOut := timedOut) (bufs := bufs) hpoll hconn q.isLt hrun
      exact ⟨_, rfl, polling_of_core hstop.core, hstop.halts, hstop.flag⟩
  · intro s q bs timedOut n hrun hen hconn hn _ _ hnext
    subst hn
    have hserve := fun data => descriptorFetch_serves (data := data) (timedOut := timedOut) hen hconn hnext
    refine ⟨?_, ?_⟩
    · have hdescs : (getSq (sqFetched q (min 8 ((getRing s q).prod - (getRing s q).cons)) bs (turned q s)) q).descs =
          (getSq s q).descs ++ fetched q (min 8 ((getRing s q).prod - (getRing s q).cons)) bs (turned q s) :=
        congrArg Sq.descs getSq_setSq
      have hlen : (fetched q (min 8 ((getRing s q).prod - (getRing s q).cons)) bs (turned q s)).length =
          min 8 ((getRing s q).prod - (getRing s q).cons) := by rw [fetched, List.length_map, List.length_range]
      refine ⟨_, congrArg Host.Outcome.next (hserve (some bs)), congrArg Ring.cons getRing_setRing_same, rfl, rfl, ?_, fun i hi => ?_⟩
      · exact (congrArg List.length hdescs).trans (List.length_append.trans (congrArg _ hlen))
      · refine ⟨{ pos := (getRing s q).cons + i, bytes := padTo 64 (slice bs (64 * i) 64), st := .waiting,
                  tails := exposing (getSq s q).polls ((getRing s q).cons + i) },
          (congrArg (fun ds => ds[(getSq s q).descs.length + i]?) hdescs).trans ?_, rfl, rfl, rfl⟩
        rw [List.getElem?_append_right (by omega), Nat.add_sub_cancel_left, fetched, List.getElem?_map, List.getElem?_range hi]
        rfl
    · have hstop : Stopped q (turned q s) (ringError q (if timedOut then 3 else 1) ((getRing s q).word (getRing s q).cons) (turned q s)) :=
        ringError_stops q.isLt
      exact ⟨_, congrArg Host.Outcome.next (hserve none), hstop.halts, hstop.flag, congrArg Sq.descs (ringError_posts.getSq q.val)⟩
  · intro s q bs timedOut h
    exact ⟨_, congrArg Host.Outcome.next (descriptorFetch_waits (fetchNext_full h)), rfl⟩
  · intro s _ _ _ hdue
    exact congrArg Host.Outcome.next (shadowWrite_early hdue)
  · intro s hconn hen hdirty hdue
    obtain ⟨hkeeps, hfired⟩ := vectors_fire (vs := s.hif.trig) (s := shadowSent s)
    refine ⟨_, congrArg Host.Outcome.next (shadowWrite_due hconn hen hdirty hdue), hkeeps.dirty, hkeeps.trig, hkeeps.gen, hkeeps.due,
      hkeeps.posted _ (List.mem_append_right _ List.mem_cons_self), fun k hk _ => (Fired.congr (s := s) rfl).mp (hfired k hk)⟩
  · intro s r hr16 hr34 hon hpend
    refine ⟨fun hdue => ?_, fun hdue => ?_⟩
    · have heq : moderationTimer r s = triggerRing r s := if_pos (decide_eq_true ⟨hr16, r.isLt, hr34, hon, hpend, hdue⟩)
      exact ⟨_, congrArg Host.Outcome.next heq, congrArg Ring.pend getRing_setRing_same, mem_insertNew, rfl, rfl⟩
    · refine congrArg Host.Outcome.next (if_neg fun h => ?_)
      obtain ⟨-, -, -, -, -, hle⟩ := of_decide_eq_true h
      exact absurd hle (Nat.not_le.mpr hdue)
  · intro s k hbar
    have hexec : exec (.msixUnmask k) s = .next (msixUnmask k s) := congrArg Host.Outcome.next (if_pos hbar)
    refine ⟨fun hpend hconn => ?_, fun hpend => ?_⟩
    · have hzero : getReg (bitCleared k (unmasked k s)) (0x0C0C + 16 * k) = 0 := getReg_unmasked k.isLt
      have hother : ∀ off, off ≠ 0x0C0C + 16 * k.val → getReg (bitCleared k (unmasked k s)) off = getReg s off := fun off hoff =>
        getReg_setRegIn_other hoff
      have heq := (msixUnmask_fires hpend hconn).trans (fireVector_posts (by rw [hzero]; rfl))
      refine ⟨_, hexec.trans (congrArg _ heq), ?_, hzero, ?_⟩
      · change (setBitTo (unmasked k s).hif.pba k false).testBit k = false
        rw [testBit_setBitTo, if_pos rfl]
      · rw [hother _ (by omega), hother _ (by omega), hother _ (by omega)]
        exact List.mem_append_right _ List.mem_cons_self
    · exact ⟨_, hexec.trans (congrArg _ (msixUnmask_quiet hpend)), getReg_unmasked k.isLt, setRegIn_hif⟩

end Sys2Proof.Machine
end

section

/-!
PROOF. The watch table, the Harrow, lost plots and their groups' placement (O53).
-/

namespace Sys2Proof.Machine

variable {s t u v : State} {h i k n c m p gid gen : Nat} {e bs : List Byte} {K : HrwCfg} {g : Group} {x : Summary}

/-! ### Little-endian fields -/

theorem leBytes_leNat : ∀ {n : Nat} {bs : List Byte}, bs.length = n → leBytes n (leNat bs) = bs
  | 0, [], _ => rfl
  | n + 1, b :: bs, h => by
    have hlow : BitVec.ofNat 8 (b.toNat + 256 * leNat bs) = b := BitVec.eq_of_toNat_eq (by
      have := b.isLt
      rw [BitVec.toNat_ofNat]
      omega)
    have hhigh : (b.toNat + 256 * leNat bs) / 256 = leNat bs := by
      have := b.isLt
      omega
    rw [leNat, leBytes, hlow, hhigh, leBytes_leNat (Nat.succ.inj h)]

theorem slice_add {a : Nat} : slice bs a m ++ slice bs (a + m) n = slice bs a (m + n) := by
  rw [slice, slice, slice, List.take_add, List.drop_drop]

theorem drop_cons (hk : k < bs.length) : bs.drop k = BitVec.ofNat 8 (byteAt bs k) :: bs.drop (k + 1) := by
  rw [List.drop_eq_getElem_cons hk, byteAt, List.getElem?_eq_getElem hk]
  simp

theorem leAt_four (hk : k + 4 ≤ bs.length) :
    leAt bs k 4 = byteAt bs k + 256 * (byteAt bs (k + 1) + 256 * (byteAt bs (k + 2) + 256 * byteAt bs (k + 3))) := by
  have h0 := byteAt_lt bs k
  have h1 := byteAt_lt bs (k + 1)
  have h2 := byteAt_lt bs (k + 2)
  have h3 := byteAt_lt bs (k + 3)
  rw [leAt, slice, drop_cons (by omega), drop_cons (by omega), drop_cons (by omega), drop_cons (by omega)]
  simp only [List.take_succ_cons, List.take_zero, leNat, BitVec.toNat_ofNat, Nat.add_assoc, Nat.reduceAdd]
  omega

theorem byteAt_take (hk : k < n) : byteAt (bs.take n) k = byteAt bs k := by rw [byteAt, byteAt, List.getElem?_take, if_pos hk]

/-! ### The watch table (R222 to R226) -/

/-- An entry's words behind its first two, as a list of numbers. -/
def watchWords (ws : List Nat) : List Byte := ws.flatMap (leBytes 4)

theorem watchEntry_eq {a b d f l w : Nat} : watchEntry e a b d f l w = e.take 8 ++ watchWords [a, b, d, f, l, w] := by
  simp only [watchEntry, watchWords, List.flatMap_cons, List.flatMap_nil, List.append_nil, List.append_assoc]

theorem length_watchWords {ws : List Nat} : (watchWords ws).length = 4 * ws.length := by
  induction ws with
  | nil => rfl
  | cons w ws ih =>
    rw [watchWords, List.flatMap_cons, List.length_append, length_leBytes, ← watchWords, ih, List.length_cons]
    omega

theorem length_watchEntry {a b d f l w : Nat} (he : e.length = 32) : (watchEntry e a b d f l w).length = 32 := by
  rw [watchEntry_eq, List.length_append, length_watchWords, List.length_take, he]
  rfl

theorem watchWords_word {front back : List Nat} {w : Nat} (hpre : e.length = 8) (hk : k = 8 + 4 * front.length) :
    leAt (e ++ watchWords (front ++ w :: back)) k 4 = w % 2 ^ 32 := by
  have hsplit : e ++ watchWords (front ++ w :: back) = (e ++ watchWords front) ++ leBytes 4 w ++ watchWords back := by
    simp [watchWords]
  rw [hsplit, leAt_middle (by rw [List.length_append, length_watchWords, hpre, hk]) length_leBytes, leNat_leBytes]

/-- The words that an entry is stored with. -/
structure WatchRead (e' : List Byte) (a b d f l w : Nat) : Prop where
  total : leAt e' 8 4 = a % 2 ^ 32
  clipped : leAt e' 12 4 = b % 2 ^ 32
  state : leAt e' 16 4 = d % 2 ^ 32
  lastTotal : leAt e' 20 4 = f % 2 ^ 32
  lastClipped : leAt e' 24 4 = l % 2 ^ 32
  windows : leAt e' 28 4 = w % 2 ^ 32

theorem watchEntry_read {a b d f l w : Nat} (he : e.length = 32) : WatchRead (watchEntry e a b d f l w) a b d f l w := by
  have hpre : (e.take 8).length = 8 := by rw [List.length_take, he]; rfl
  rw [watchEntry_eq]
  exact ⟨watchWords_word (front := []) hpre rfl, watchWords_word (front := [a]) hpre rfl, watchWords_word (front := [a, b]) hpre rfl,
    watchWords_word (front := [a, b, d]) hpre rfl, watchWords_word (front := [a, b, d, f]) hpre rfl, watchWords_word (front := [a, b, d, f, l]) hpre rfl⟩

theorem watchEntry_head {a b d f l w : Nat} (he : e.length = 32) : (watchEntry e a b d f l w).take 8 = e.take 8 := by
  rw [watchEntry_eq, List.take_left' (by rw [List.length_take, he]; rfl)]

/-- The words of the last window stand as they were. -/
theorem watchEntry_last {a b d : Nat} (he : e.length = 32) :
    leAt (watchEntry e a b d (leAt e 20 4) (leAt e 24 4) (leAt e 28 4)) 20 12 = leAt e 20 12 := by
  have hword : ∀ k, k + 4 ≤ 32 → leBytes 4 (leAt e k 4) = slice e k 4 := fun k hk => leBytes_leNat (length_slice (by omega))
  have hsplit : watchEntry e a b d (leAt e 20 4) (leAt e 24 4) (leAt e 28 4) = (e.take 8 ++ watchWords [a, b, d]) ++ slice e 20 12 := by
    rw [watchEntry_eq]
    simp only [watchWords, List.flatMap_cons, List.flatMap_nil, List.append_nil, List.append_assoc, hword 20 (by decide), hword 24 (by decide),
      hword 28 (by decide)]
    rw [slice_add (m := 4) (n := 4), slice_add (m := 4) (n := 8)]
  have hlen : (e.take 8 ++ watchWords [a, b, d]).length = 20 := by
    rw [List.length_append, length_watchWords, List.length_take, he]
    rfl
  have hslice : slice (watchEntry e a b d (leAt e 20 4) (leAt e 24 4) (leAt e 28 4)) 20 12 = slice e 20 12 := by
    rw [hsplit, slice, List.drop_left' hlen, List.take_of_length_le (by rw [length_slice (by omega)])]
  rw [leAt, hslice, leAt]

theorem entry_stored (hb : bs.length = 32) (ht : t.tables = (putEntry 0x30 i bs s).tables) : padTo 32 (tblEntry t 0x30 i) = bs := by
  have hread : tblEntry t 0x30 i = trimZeros bs := by
    rw [tblEntry, ht]
    exact tget_tset_same _
  rw [hread, padTo_trimZeros hb]

/-- An entry before a summary reaches it. -/
def watchOf (i : Nat) (s : State) : List Byte := padTo 32 (tblEntry s 0x30 i)

theorem length_watchOf : (watchOf i s).length = 32 := length_padTo

/-- The alarm of mode 0: the threshold is met, and this window has not yet raised it. -/
def driftDue (e : List Byte) (clip : Nat) : Bool :=
  decide (bitsOf (leAt e 0 4) 1 1 = 0 ∧ leAt e 4 4 ≠ 0 ∧ leAt e 4 4 ≤ addSat32 (leAt e 12 4) clip) && !(leAt e 16 4).testBit 16

/-- An entry's totals once a summary is added. -/
def watchTotal (e : List Byte) (lanes : Nat) : Nat := addSat32 (leAt e 8 4) lanes

def watchBig (e : List Byte) (mx : Nat) : Nat := max (bitsOf (leAt e 16 4) 0 8) mx

theorem drift_tables {a0 total mode windows : Nat} : (drift i a0 total mode windows s).tables = s.tables :=
  (raise_keeps.at .tables rfl).trans (bump_keeps.at .tables rfl)

theorem drift_fab {a0 total mode windows : Nat} : (drift i a0 total mode windows s).fab = s.fab :=
  (raise_keeps.at .fab rfl).trans (bump_keeps.at .fab rfl)

theorem drift_counted {a0 total mode windows : Nat} : Counted 51 1 s (drift i a0 total mode windows s) :=
  (bump_counted (by decide)).after (raise_count (by decide))

theorem drift_count {a0 total mode windows : Nat} (hk : k ≠ 51) (h64 : k ≠ 64) : Same (count k) s (drift i a0 total mode windows s) :=
  (bump_count hk h64).trans (raise_count h64)

/-- What the alarms of a summary leave: the tables and the other summaries, and one alarm where that of mode 0 is due. -/
structure Alarmed (due : Bool) (s u : State) : Prop where
  tables : u.tables = s.tables
  fab : u.fab = s.fab
  summaries : Same (count 48) s u
  alarm : due = true → Counted 51 1 s u

theorem Alarmed.drift {due : Bool} {i a0 total mode windows : Nat} : Alarmed due s (drift i a0 total mode windows s) :=
  ⟨drift_tables, drift_fab, drift_count (by decide) (by decide), fun _ => drift_counted⟩

theorem Alarmed.quiet : Alarmed false s s := ⟨rfl, rfl, .refl s, fun h => absurd h Bool.false_ne_true⟩

theorem Alarmed.then {due : Bool} (h : Alarmed due s u) (k : Alarmed false u v) (hdue : due = true → v = u) : Alarmed due s v :=
  ⟨k.tables.trans h.tables, k.fab.trans h.fab, h.summaries.trans k.summaries, fun hd => hdue hd ▸ h.alarm hd⟩

/-- The alarm of mode 0 is raised where it is due. -/
def clipAlarm (i n c : Nat) (e : List Byte) (s : State) : State :=
  if driftDue e c then drift i (addSat32 (leAt e 12 4) c) (watchTotal e n) (bitsOf (leAt e 0 4) 1 1) (leAt e 28 4) s else s

/-- The alarm of mode 1 at the end of a window: the largest code stayed below the threshold. -/
def lowAlarm (i n m : Nat) (e : List Byte) (s : State) : State :=
  if bitsOf (leAt e 0 4) 1 1 = 1 ∧ leAt e 4 4 ≠ 0 ∧ watchBig e m < leAt e 4 4 then
    drift i (watchBig e m) (watchTotal e n) (bitsOf (leAt e 0 4) 1 1) (leAt e 28 4) s
  else s

theorem clipAlarm_alarmed : Alarmed (driftDue e c) s (clipAlarm i n c e s) := by
  unfold clipAlarm
  cases driftDue e c
  · exact .quiet
  · exact .drift

theorem lowAlarm_alarmed : Alarmed false s (lowAlarm i n m e s) := by
  unfold lowAlarm
  split
  · exact .drift
  · exact .quiet

theorem lowAlarm_clip (h : driftDue e c = true) : lowAlarm i n m e s = s := if_neg fun hmode => by
  rw [driftDue, Bool.and_eq_true] at h
  have hzero : bitsOf (leAt e 0 4) 1 1 = 0 := (of_decide_eq_true h.1).1
  have hone : bitsOf (leAt e 0 4) 1 1 = 1 := hmode.1
  omega

/-- A summary that leaves its window open. -/
theorem applySummary_open (h : watchTotal (watchOf i s) n < 2 ^ clampNat 10 30 (bitsOf (leAt (watchOf i s) 0 4) 8 5)) :
    ∃ u w4, applySummary i n c m s = putEntry 0x30 i (watchEntry (watchOf i s) (watchTotal (watchOf i s) n) (addSat32 (leAt (watchOf i s) 12 4) c)
        (watchBig (watchOf i s) m + 256 * w4) (leAt (watchOf i s) 20 4) (leAt (watchOf i s) 24 4) (leAt (watchOf i s) 28 4)) u ∧
      Alarmed (driftDue (watchOf i s) c) s u := by
  refine ⟨clipAlarm i n c (watchOf i s) s,
    bitsOf (leAt (watchOf i s) 16 4) 8 8 + 256 * b2n ((leAt (watchOf i s) 16 4).testBit 16 || driftDue (watchOf i s) c), ?_, clipAlarm_alarmed⟩
  rw [Nat.mul_add, ← Nat.mul_assoc, ← Nat.add_assoc]
  exact if_pos h

/-- A summary that ends its window. -/
theorem applySummary_closed (h : 2 ^ clampNat 10 30 (bitsOf (leAt (watchOf i s) 0 4) 8 5) ≤ watchTotal (watchOf i s) n) :
    ∃ u, applySummary i n c m s = putEntry 0x30 i (watchEntry (watchOf i s) 0 0 (256 * watchBig (watchOf i s) m) (watchTotal (watchOf i s) n)
        (addSat32 (leAt (watchOf i s) 12 4) c) (addSat32 (leAt (watchOf i s) 28 4) 1)) u ∧
      Alarmed (driftDue (watchOf i s) c) s u := by
  exact ⟨lowAlarm i n m (watchOf i s) (clipAlarm i n c (watchOf i s) s), if_neg (Nat.not_lt.mpr h), clipAlarm_alarmed.then lowAlarm_alarmed lowAlarm_clip⟩

/-! ### WATCH_SUMMARY (R224) -/

/-- The oldest summary has left the streamers. -/
def summaryTaken (rest : List Summary) (s : State) : State := { s with fab := { s.fab with summaries := rest } }

theorem watchSummary_takes {rest : List Summary} (hs : s.fab.summaries = x :: rest) : watchSummary s = takeSummary x (summaryTaken rest s) := by
  unfold watchSummary
  rw [hs]
  rfl

theorem takeSummary_stale (h : activeBank s (x.entry / 16) ≠ some x.bank) : takeSummary x s = bump 50 1 s := if_pos h

theorem takeSummary_off (h : activeBank s (x.entry / 16) = some x.bank) (hen : (leAt (watchOf x.entry s) 0 4).testBit 0 = false) :
    takeSummary x s = s :=
  (if_neg (not_not_intro h)).trans (if_pos (by
    rw [show (leAt (padTo 32 (tblEntry s 0x30 x.entry)) 0 4).testBit 0 = false from hen]
    rfl))

theorem takeSummary_applies (h : activeBank s (x.entry / 16) = some x.bank) (hen : (leAt (watchOf x.entry s) 0 4).testBit 0 = true)
    (hfmt : bitsOf (leAt (watchOf x.entry s) 0 4) 2 4 ≤ 3) (hbad : tblIsBad s 0x30 x.entry = false) :
    takeSummary x s = applySummary x.entry x.sum.lanes x.sum.clipped x.sum.largest (bump 48 1 s) := by
  have hpass : ¬(!(leAt (padTo 32 (tblEntry s 0x30 x.entry)) 0 4).testBit 0 || decide (3 < bitsOf (leAt (padTo 32 (tblEntry s 0x30 x.entry)) 0 4) 2 4) ||
      tblIsBad s 0x30 x.entry) = true := by
    rw [show (leAt (padTo 32 (tblEntry s 0x30 x.entry)) 0 4).testBit 0 = true from hen, hbad,
      decide_eq_false (p := 3 < bitsOf (leAt (padTo 32 (tblEntry s 0x30 x.entry)) 0 4) 2 4) (Nat.not_lt.mpr hfmt)]
    exact Bool.false_ne_true
  exact (if_neg (not_not_intro h)).trans (if_neg hpass)

theorem watchOf_congr (h : t.tables = s.tables) : watchOf i t = watchOf i s := by rw [watchOf, watchOf, tblEntry, tblEntry, h]

/-- The lowest byte of an entry's word 4 holds the largest code. -/
theorem watchState_low {e' : List Byte} {w4 : Nat} (he : e.length = 32) (he' : e'.length = 32) (hm : m < 256)
    (hstate : leAt e' 16 4 = (watchBig e m + 256 * w4) % 2 ^ 32) : byteAt e' 16 = max (byteAt e 16) m := by
  have h16 := byteAt_lt e 16
  have h16' := byteAt_lt e' 16
  have hbig : bitsOf (leAt e 16 4) 0 8 = byteAt e 16 := by
    rw [leAt_four (by rw [he]; decide)]
    simp only [bitsOf, Nat.shiftRight_zero]
    omega
  rw [leAt_four (by rw [he']; decide), watchBig, hbig] at hstate
  omega

/-- What a summary leaves of its entry. -/
theorem applySummary_entry (hb : u.tables = s.tables) (hf : u.fab = s.fab) (hc : Counted 48 1 s u) (hd : Same (count 51) s u) :
    ∃ t e', applySummary i n c m u = t ∧ Counted 48 1 s t ∧ e' = watchOf i t ∧ t.fab = s.fab ∧ e'.take 8 = (watchOf i s).take 8 ∧
      (driftDue (watchOf i s) c = true → Counted 51 1 s t) ∧
      (watchTotal (watchOf i s) n < 2 ^ clampNat 10 30 (bitsOf (leAt (watchOf i s) 0 4) 8 5) →
        leAt e' 8 4 = watchTotal (watchOf i s) n ∧ leAt e' 12 4 = addSat32 (leAt (watchOf i s) 12 4) c ∧
        (m < 256 → byteAt e' 16 = max (byteAt (watchOf i s) 16) m) ∧ leAt e' 20 12 = leAt (watchOf i s) 20 12) ∧
      (2 ^ clampNat 10 30 (bitsOf (leAt (watchOf i s) 0 4) 8 5) ≤ watchTotal (watchOf i s) n →
        leAt e' 8 4 = 0 ∧ leAt e' 12 4 = 0 ∧ leAt e' 20 4 = watchTotal (watchOf i s) n ∧ leAt e' 24 4 = addSat32 (leAt (watchOf i s) 12 4) c ∧
        leAt e' 28 4 = addSat32 (leAt (watchOf i s) 28 4) 1) := by
  have he : watchOf i u = watchOf i s := watchOf_congr hb
  have hlen : (watchOf i s).length = 32 := length_watchOf
  have hsat : ∀ a b, addSat32 a b % 2 ^ 32 = addSat32 a b := fun a b => Nat.mod_eq_of_lt (by unfold addSat32; omega)
  by_cases h : watchTotal (watchOf i s) n < 2 ^ clampNat 10 30 (bitsOf (leAt (watchOf i s) 0 4) 8 5)
  · obtain ⟨w, w4, heq, hal⟩ := applySummary_open (s := u) (c := c) (m := m) (he.symm ▸ h)
    rw [he] at heq hal
    have hentry := entry_stored (t := applySummary i n c m u) (s := w) (i := i) (length_watchEntry hlen) (by rw [heq])
    have hread := watchEntry_read (a := watchTotal (watchOf i s) n) (b := addSat32 (leAt (watchOf i s) 12 4) c)
      (d := watchBig (watchOf i s) m + 256 * w4) (f := leAt (watchOf i s) 20 4) (l := leAt (watchOf i s) 24 4) (w := leAt (watchOf i s) 28 4) hlen
    have hhead := watchEntry_head (a := watchTotal (watchOf i s) n) (b := addSat32 (leAt (watchOf i s) 12 4) c)
      (d := watchBig (watchOf i s) m + 256 * w4) (f := leAt (watchOf i s) 20 4) (l := leAt (watchOf i s) 24 4) (w := leAt (watchOf i s) 28 4) hlen
    have hlast := watchEntry_last (a := watchTotal (watchOf i s) n) (b := addSat32 (leAt (watchOf i s) 12 4) c)
      (d := watchBig (watchOf i s) m + 256 * w4) hlen
    have hlen' := length_watchEntry (a := watchTotal (watchOf i s) n) (b := addSat32 (leAt (watchOf i s) 12 4) c)
      (d := watchBig (watchOf i s) m + 256 * w4) (f := leAt (watchOf i s) 20 4) (l := leAt (watchOf i s) 24 4) (w := leAt (watchOf i s) 28 4) hlen
    generalize watchEntry (watchOf i s) (watchTotal (watchOf i s) n) (addSat32 (leAt (watchOf i s) 12 4) c) (watchBig (watchOf i s) m + 256 * w4)
      (leAt (watchOf i s) 20 4) (leAt (watchOf i s) 24 4) (leAt (watchOf i s) 28 4) = e' at heq hentry hread hhead hlast hlen'
    refine ⟨_, e', heq, hc.after hal.summaries, (heq ▸ hentry).symm, hal.fab.trans hf, hhead, fun hdue => .before hd (hal.alarm hdue),
      fun _ => ⟨?_, ?_, fun hm => ?_, hlast⟩, fun h' => absurd h (Nat.not_lt.mpr h')⟩
    · exact hread.total.trans (hsat _ _)
    · exact hread.clipped.trans (hsat _ _)
    · exact watchState_low hlen hlen' hm hread.state
  · have hle : 2 ^ clampNat 10 30 (bitsOf (leAt (watchOf i s) 0 4) 8 5) ≤ watchTotal (watchOf i s) n := Nat.not_lt.mp h
    obtain ⟨w, heq, hal⟩ := applySummary_closed (s := u) (c := c) (m := m) (he.symm ▸ hle)
    rw [he] at heq hal
    have hentry := entry_stored (t := applySummary i n c m u) (s := w) (i := i) (length_watchEntry hlen) (by rw [heq])
    have hread := watchEntry_read (a := 0) (b := 0) (d := 256 * watchBig (watchOf i s) m) (f := watchTotal (watchOf i s) n)
      (l := addSat32 (leAt (watchOf i s) 12 4) c) (w := addSat32 (leAt (watchOf i s) 28 4) 1) hlen
    have hhead := watchEntry_head (a := 0) (b := 0) (d := 256 * watchBig (watchOf i s) m) (f := watchTotal (watchOf i s) n)
      (l := addSat32 (leAt (watchOf i s) 12 4) c) (w := addSat32 (leAt (watchOf i s) 28 4) 1) hlen
    generalize watchEntry (watchOf i s) 0 0 (256 * watchBig (watchOf i s) m) (watchTotal (watchOf i s) n) (addSat32 (leAt (watchOf i s) 12 4) c)
      (addSat32 (leAt (watchOf i s) 28 4) 1) = e' at heq hentry hread hhead
    refine ⟨_, e', heq, hc.after hal.summaries, (heq ▸ hentry).symm, hal.fab.trans hf, hhead, fun hdue => .before hd (hal.alarm hdue),
      fun h' => absurd h' h, fun _ => ⟨hread.total, hread.clipped, ?_, ?_, ?_⟩⟩
    · exact hread.lastTotal.trans (hsat _ _)
    · exact hread.lastClipped.trans (hsat _ _)
    · exact hread.windows.trans (hsat _ _)

/-! ### The Harrow (R402 to R409) -/

theorem vote3_first {a b : Nat} : vote3 a a b = a := by
  refine Nat.eq_of_testBit_eq fun k => ?_
  simp only [vote3, Nat.testBit_or, Nat.testBit_and]
  cases a.testBit k <;> simp

theorem vote3_outer {a b : Nat} : vote3 a b a = a := by
  refine Nat.eq_of_testBit_eq fun k => ?_
  simp only [vote3, Nat.testBit_or, Nat.testBit_and]
  cases a.testBit k <;> simp

theorem vote3_last {a b : Nat} : vote3 b a a = a := by
  refine Nat.eq_of_testBit_eq fun k => ?_
  simp only [vote3, Nat.testBit_or, Nat.testBit_and]
  cases a.testBit k <;> simp

/-- An instance's copies that agree but for one. -/
theorem cfg_majority {w : Hrw} (h : (w.c1 = K ∧ w.c2 = K) ∨ (w.c0 = K ∧ w.c2 = K) ∨ (w.c0 = K ∧ w.c1 = K)) : w.cfg = K := by
  unfold Hrw.cfg
  rcases h with ⟨h1, h2⟩ | ⟨h0, h2⟩ | ⟨h0, h1⟩
  · rw [h1, h2, vote3_last, vote3_last, vote3_last, vote3_last]
  · rw [h0, h2, vote3_outer, vote3_outer, vote3_outer, vote3_outer]
  · rw [h0, h1, vote3_first, vote3_first, vote3_first, vote3_first]

theorem getHrw_setHrw_same {w : Hrw} : getHrw (setHrw h w s) h = w := tget_tset_same _

theorem getHrw_congr (ht : t.hrw = s.hrw) : getHrw t h = getHrw s h := by rw [getHrw, getHrw, ht]

/-- An instance whose copies are rewritten with the voted settings. -/
def votedHrw (w : Hrw) : Hrw := { w with c0 := w.cfg, c1 := w.cfg, c2 := w.cfg }

/-- How many copies disagree with the majority. -/
def disagreeing (w : Hrw) : Nat := b2n (decide (w.c0 ≠ w.cfg)) + b2n (decide (w.c1 ≠ w.cfg)) + b2n (decide (w.c2 ≠ w.cfg))

theorem hrwVote_eq : hrwVote h s = if disagreeing (getHrw s h) = 0 then setHrw h (votedHrw (getHrw s h)) s
    else bump (144 + 6 * h + 3) (disagreeing (getHrw s h)) (setHrw h (votedHrw (getHrw s h)) s) := rfl

theorem getHrw_hrwVote : getHrw (hrwVote h s) h = votedHrw (getHrw s h) := by
  rw [hrwVote_eq]
  split
  · exact getHrw_setHrw_same
  · exact (getHrw_congr (bump_keeps.at .hrw rfl)).trans getHrw_setHrw_same

theorem hrwVote_counted (hd : disagreeing (getHrw s h) = 1) : Counted (144 + 6 * h + 3) 1 s (hrwVote h s) := by
  rw [hrwVote_eq, hd, if_neg (by decide)]
  exact .before rfl (bump_counted (by omega))

theorem hrwVote_count (hk : k ≠ 144 + 6 * h + 3) (h64 : k ≠ 64) : Same (count k) s (hrwVote h s) := by
  rw [hrwVote_eq]
  have hset : Same (count k) s (setHrw h (votedHrw (getHrw s h)) s) := rfl
  exact same_ite hset (hset.trans (bump_count hk h64))

theorem votedHrw_cfg {w : Hrw} : (votedHrw w).cfg = w.cfg := cfg_majority (.inl ⟨rfl, rfl⟩)

/-- The upsets of an instance since its last use. -/
def upset (ups : List (Nat × Nat × Nat)) (w : Hrw) : Hrw := ups.foldl (fun v u => flipCopy u.1 u.2.1 u.2.2 v) w

/-- The settings are used after the upsets. -/
def hrwUsed (h : Nat) (ups : List (Nat × Nat × Nat)) (s : State) : State := hrwVote h (setHrw h (upset ups (getHrw s h)) s)

theorem getHrw_hrwUsed {ups : List (Nat × Nat × Nat)} : getHrw (hrwUsed h ups s) h = votedHrw (upset ups (getHrw s h)) := by
  rw [hrwUsed, getHrw_hrwVote, getHrw_setHrw_same]

theorem passStart_eq {ups : List (Nat × Nat × Nat)} (hup : hrwUp s h = true) (hr : (getHrw s h).running = false) : passStart h ups s =
    if (getHrw (hrwUsed h ups s) h).cfg ≠ (getHrw (hrwUsed h ups s) h).written then selfFault h (hrwUsed h ups s)
    else if (getHrw (hrwUsed h ups s) h).cfg.en = 0 then hrwUsed h ups s
    else setHrw h { getHrw (hrwUsed h ups s) h with running := true, t0 := (hrwUsed h ups s).clk.now } (hrwUsed h ups s) :=
  if_neg (by simp [hup, hr])

/-- An upset of one copy among three that agree. -/
theorem flipCopy_facts {w : Hrw} {copy field mask : Nat} (h0 : w.c0 = K) (h1 : w.c1 = K) (h2 : w.c2 = K) :
    (flipCopy copy field mask w).cfg = K ∧ (flipCopy copy field mask w).written = w.written ∧ (flipCopy copy field mask w).running = w.running ∧
      (flipCfg field mask K ≠ K → disagreeing (flipCopy copy field mask w) = 1) := by
  have hcfg : (flipCopy copy field mask w).cfg = K := by
    unfold flipCopy
    split
    · exact cfg_majority (.inl ⟨h1, h2⟩)
    · exact cfg_majority (.inr (.inl ⟨h0, h2⟩))
    · exact cfg_majority (.inr (.inr ⟨h0, h1⟩))
  refine ⟨hcfg, ?_, ?_, fun hne => ?_⟩
  · unfold flipCopy
    split <;> rfl
  · unfold flipCopy
    split <;> rfl
  · rw [disagreeing, hcfg]
    unfold flipCopy
    split <;> simp [h0, h1, h2, hne, b2n]

/-- The settings return to their defaults. -/
def faultStored (h : Nat) (s : State) : State :=
  if h = 4 then hrwRegs (hrwStore h HrwCfg.init { s with freeCtr := s.freeCtr + 2 }) else hrwStore h HrwCfg.init { s with freeCtr := s.freeCtr + 2 }

theorem selfFault_eq : ∃ a b, selfFault h s = raiseHrw h 0x1003 a b 0 (bump (144 + 6 * h + 4) 1 (faultStored h s)) := ⟨_, _, rfl⟩

theorem getHrw_faultStored : (getHrw (faultStored h s) h).c0 = HrwCfg.init ∧ (getHrw (faultStored h s) h).written = HrwCfg.init := by
  have hrw : (faultStored h s).hrw = (hrwStore h HrwCfg.init { s with freeCtr := s.freeCtr + 2 }).hrw := by
    unfold faultStored
    split <;> rfl
  rw [getHrw_congr hrw, hrwStore, getHrw_setHrw_same]
  exact ⟨rfl, rfl⟩

theorem faultStored_count : Same (count k) s (faultStored h s) := by
  unfold faultStored
  exact same_ite rfl rfl

theorem raiseHrw_count {code a0 a1 a2 : Nat} (h64 : k ≠ 64) : Same (count k) s (raiseHrw h code a0 a1 a2 s) := by
  unfold raiseHrw
  exact same_ite (raiseOn_cnt h64) (raise_cnt h64)

theorem selfFault_facts : (getHrw (selfFault h s) h).c0 = HrwCfg.init ∧ (getHrw (selfFault h s) h).written = HrwCfg.init ∧
    Counted (144 + 6 * h + 4) 1 s (selfFault h s) := by
  obtain ⟨a, b, heq⟩ := selfFault_eq (h := h) (s := s)
  have hhrw : (selfFault h s).hrw = (faultStored h s).hrw := by
    rw [heq]
    exact (raiseHrw_keeps.at .hrw rfl).trans (bump_keeps.at .hrw rfl)
  obtain ⟨h0, hw⟩ := getHrw_faultStored (h := h) (s := s)
  rw [getHrw_congr hhrw]
  refine ⟨h0, hw, ?_⟩
  rw [heq]
  exact (Counted.before faultStored_count (bump_counted (by omega))).after (raiseHrw_count (by omega))

/-- A pass that has ended. -/
def passEnded (h : Nat) (bad : Bool) (s : State) : State := setHrw h { getHrw s h with running := false, unscrubbed := bad } s

theorem passEnded_counted {bad : Bool} {i : Nat} (h64 : i ≠ 64) : Counted i 1 s (bump i 1 (passEnded h bad s)) :=
  .before (u := passEnded h bad s) rfl (bump_counted h64)

/-- The words that a pass has corrected are counted and reported. -/
def correctedCounted (h n : Nat) (s : State) : State :=
  if n = 0 then s else raiseHrw h 0x1001 n 0 0 (bump (144 + 6 * h + 1) n s)

theorem passDone_eq {found : List HrwWord} (hr : (getHrw s h).running = true) (hup : hrwUp s h = true) :
    passDone h n found s = each found (hrwUncorr h) (correctedCounted h n (bump (144 + 6 * h) 1 (passEnded h false s))) :=
  if_neg (by simp [hr, hup])

theorem correctedCounted_keeps : Keeps [.cnt, .hif, .links, .trc, .alert] s (correctedCounted h n s) := by
  unfold correctedCounted
  have hbump : Keeps [.cnt, .hif, .alert] s (bump (144 + 6 * h + 1) n s) := bump_keeps
  exact keeps_ite (.refl s) ((hbump.weaken rfl).after raiseHrw_keeps rfl)

theorem correctedCounted_count (hk : k ≠ 144 + 6 * h + 1) (h64 : k ≠ 64) : Same (count k) s (correctedCounted h n s) := by
  unfold correctedCounted
  exact same_ite (.refl s) ((bump_count hk h64).trans (raiseHrw_count h64))

theorem correctedCounted_counted (hn : n ≠ 0) : Counted (144 + 6 * h + 1) n s (correctedCounted h n s) := by
  unfold correctedCounted
  rw [if_neg hn]
  exact (bump_counted (by omega)).after (raiseHrw_count (by omega))

theorem hrwWatchdog_due (hr : (getHrw s h).running = true) (hup : hrwUp s h = true)
    (ht : (getHrw s h).t0 + 1000000 * (getHrw s h).cfg.passMax ≤ s.clk.now) :
    hrwWatchdog h n s = raiseHrw h 0x1004 n 0 0 (bump (144 + 6 * h + 5) 1 (passEnded h true s)) :=
  if_neg (by simp [hr, hup, Nat.not_lt.mpr ht])

theorem hrwWatchdog_early (ht : s.clk.now < (getHrw s h).t0 + 1000000 * (getHrw s h).cfg.passMax) : hrwWatchdog h n s = s :=
  if_pos (by simp [ht])

/-! ### Lost plots (R393, R394) -/

/-- A plot that is retired. -/
def plotRetired (p : Nat) (s : State) : State := updPlot p (fun v => { v with st := .retired, group := none }) s

theorem getPlot_plotRetired : (getPlot (plotRetired p s) p).st = .retired ∧ (getPlot (plotRetired p s) p).group = none := by
  rw [plotRetired, updPlot, getPlot_setPlot_same]
  exact ⟨rfl, rfl⟩

theorem getPlot_plotRetired_other (hk : k ≠ p) : getPlot (plotRetired p s) k = getPlot s k := getPlot_updPlot_other hk

theorem getPlot_congr (ht : t.plots = s.plots) : getPlot t p = getPlot s p := by rw [getPlot, getPlot, ht]

/-- A plot that can retire: it has not, its die is good, and fewer than four have. -/
structure Retirable (p : Nat) (s : State) : Prop where
  live : (getPlot s p).st ≠ .retired
  good : s.glb.dieFatal.testBit (p / 16) = false
  few : (retiredPlots s).length < 4

theorem Retirable.passes (h : Retirable p s) : ¬((getPlot s p).st = .retired ∨ s.glb.dieFatal.testBit (dieOfPlot p) = true) :=
  not_or.mpr ⟨h.live, Bool.eq_false_iff.mp h.good⟩

theorem plotFatal_lone (h : Retirable p s) (hg : groupOfPlot s p = none) : plotFatal p s =
    raiseOn (p / 16) 0x1005 p p 0xFFFFFFFF (retiredPlots (plotRetired p s)).length (plotRetired p s) := by
  refine ((if_neg h.passes).trans (if_neg (Nat.not_le.mpr h.few))).trans ?_
  rw [hg]
  rfl

/-- The group of a retiring plot has let go of its plots. -/
def unplaced (p : Nat) (g : Group) (s : State) : State :=
  updGroup g.gid (fun g => { g with plots := [], unfilled := [] }) (plotRetired p (each g.plots freePlot (replant 4 stTainted g.gid s)))

theorem rePlace_fst : (rePlace p g s).1 = readySheaves (placeUnplaced (unplaced p g s)) := by
  unfold rePlace unplaced plotRetired
  dsimp only

theorem plotFatal_grouped (h : Retirable p s) (hg : groupOfPlot s p = some g) : plotFatal p s =
    raiseOn (p / 16) 0x1005 p p (rePlace p g s).2 (retiredPlots (readySheaves (placeUnplaced (unplaced p g s)))).length
      (readySheaves (placeUnplaced (unplaced p g s))) := by
  rw [← rePlace_fst]
  unfold plotFatal
  rw [if_neg h.passes, if_neg (Nat.not_le.mpr h.few), hg]
  dsimp only
  generalize rePlace p g s = r
  obtain ⟨w, now⟩ := r
  rw [dieOfPlot]

theorem plotFatal_dieLost (hl : (getPlot s p).st ≠ .retired) (hd : s.glb.dieFatal.testBit (p / 16) = false) (h4 : 4 ≤ (retiredPlots s).length) :
    plotFatal p s = declareDie (p / 16) 4 s :=
  (if_neg (not_or.mpr ⟨hl, Bool.eq_false_iff.mp hd⟩)).trans (if_pos h4)

theorem getPlot_unplaced : getPlot (unplaced p g s) p = getPlot (plotRetired p (each g.plots freePlot (replant 4 stTainted g.gid s))) p := rfl

theorem unplaced_group {g' : Group} (hg : findGroup (unplaced p g s) g.gid = some g') : g'.plots = [] := by
  obtain ⟨x, -, rfl⟩ := findGroup_updGroup (f := fun g => { g with plots := [], unfilled := [] }) (fun _ => rfl) hg
  rfl

/-! ### PLACEMENT_RETRY (R394) -/

/-- A group that has taken plots. -/
def groupPlaced (ps : List Nat) (pin : Bool) (now : Nat) (g : Group) : Group :=
  { g with plots := ps, unfilled := if pin then ps else [], reload := false, dwell := now }

theorem placeUnplaced_one {ps : List Nat} (hone : s.groups.filter (fun g => g.plots.isEmpty) = [g]) (hg : findGroup s g.gid = some g)
    (ht : chooseTarget s (some g.gid) (groupShape s g.slot g.bank g.idx) [] = some ps) : placeUnplaced s =
      updGroup g.gid (groupPlaced ps (getBank s g.slot g.bank).pin s.clk.now) (takePlots g.gid g.gen ps s) := by
  unfold placeUnplaced
  rw [hone]
  simp only [List.map_cons, List.map_nil, each, List.foldl_cons, List.foldl_nil, hg, ht]
  rfl

theorem tokensDropped_plots : (tokensDropped p s).plots = s.plots := by
  unfold tokensDropped
  dsimp only
  exact dropGateway_keeps.at .plots rfl

theorem clearPlot_plots : ∃ v : State, v.plots = s.plots ∧ (clearPlot gen p s).plots = (updPlot p (fun v => { v with sums := [] }) v).plots := by
  refine ⟨each (List.range 8) (fun k s => setSu (8 * p + k) { Su.init with gen := gen } s)
    (each (List.range 16) (fun k s => setSwitch (16 * p + k) { Switch.init with gen := gen } s)
      (tilesEmptied gen p (rewritten p (fun v _ => decide (plotOfUnit v = p)) s))), ?_, ?_⟩
  · have hrew : Keeps [.hrw] s (rewritten p (fun v _ => decide (plotOfUnit v = p)) s) := rewritten_keeps
    have htiles : Keeps [.hrw, .tiles] s (tilesEmptied gen p (rewritten p (fun v _ => decide (plotOfUnit v = p)) s)) :=
      keeps_each (hrew.weaken rfl) fun _ _ h => h.after updTile_keeps rfl
    have hunits : Keeps [.hrw, .tiles, .switches, .sus] s (each (List.range 8) (fun k s => setSu (8 * p + k) { Su.init with gen := gen } s)
        (each (List.range 16) (fun k s => setSwitch (16 * p + k) { Switch.init with gen := gen } s)
          (tilesEmptied gen p (rewritten p (fun v _ => decide (plotOfUnit v = p)) s)))) :=
      keeps_each (keeps_each (htiles.weaken rfl) fun _ _ h => h.after setSwitch_keeps rfl) fun _ _ h => h.after setSu_keeps rfl
    exact hunits.at .plots rfl
  · rw [clearPlot_eq, tokensDropped_plots, unitsEmptied]

theorem getPlot_clearPlot_other {q : Nat} (hq : q ≠ p) : getPlot (clearPlot gen p s) q = getPlot s q := by
  obtain ⟨v, hv, heq⟩ := clearPlot_plots (gen := gen) (p := p) (s := s)
  rw [getPlot_congr heq, getPlot_updPlot_other hq, getPlot_congr hv]

theorem takePlots_active {ps : List Nat} : ∀ p ∈ ps, (getPlot (takePlots gid gen ps s) p).st = .active ∧
    (getPlot (takePlots gid gen ps s) p).group = some gid := by
  refine each_establishes (P := fun p v => (getPlot v p).st = .active ∧ (getPlot v p).group = some gid) (fun p v => ?_) fun q p v hv => ?_
  · rw [getPlot_updPlot_same]
    exact ⟨rfl, rfl⟩
  · by_cases hp : p = q
    · subst hp
      rw [getPlot_updPlot_same]
      exact ⟨rfl, rfl⟩
    · rw [getPlot_updPlot_other hp, getPlot_clearPlot_other hp]
      exact hv

/-- Settles O53: each command by the equation of its case, what it counts, rewrites or places by what its parts leave. -/
theorem watchHarrowAndPlots : Obligations.WatchHarrowAndPlots := by
  unfold Obligations.WatchHarrowAndPlots
  refine ⟨?_, ?_, ?_, ?_, ?_, ?_, ?_, ?_, ?_, ?_, ?_⟩
  · intro s hnone
    have hidle : watchSummary s = s := by
      unfold watchSummary
      rw [hnone]
    exact congrArg Host.Outcome.next (by rw [hidle, ite_self])
  · intro s x rest i n c m e hup hsum hi hn hc hm he
    subst hi hn hc hm he
    have hexec : exec .watchSummary s = .next (takeSummary x (summaryTaken rest s)) :=
      congrArg Host.Outcome.next ((if_pos hup).trans (watchSummary_takes hsum))
    refine ⟨fun hold => ?_, fun hact hen => ?_, fun hact hen hfmt hbad => ?_⟩
    · exact ⟨_, hexec.trans (congrArg _ (takeSummary_stale (s := summaryTaken rest s) hold)), .before rfl (bump_counted (by decide)),
        bump_keeps.at .tables rfl, congrArg Fab.summaries (bump_keeps.at .fab rfl)⟩
    · exact ⟨_, hexec.trans (congrArg _ (takeSummary_off (s := summaryTaken rest s) hact hen)), rfl, rfl, rfl⟩
    · have hfab : (bump 48 1 (summaryTaken rest s)).fab = (summaryTaken rest s).fab := bump_keeps.at .fab rfl
      obtain ⟨t, e', heq, hcount, hentry, hf, hhead, halarm, hopen, hclosed⟩ := applySummary_entry (s := summaryTaken rest s)
        (u := bump 48 1 (summaryTaken rest s)) (i := x.entry) (n := x.sum.lanes) (c := x.sum.clipped) (m := x.sum.largest)
        (bump_keeps.at .tables rfl) hfab (bump_counted (by decide)) (bump_count (by decide) (by decide))
      refine ⟨t, e', hexec.trans (congrArg _ ((takeSummary_applies (s := summaryTaken rest s) hact hen hfmt hbad).trans heq)), .before rfl hcount, hentry,
        congrArg Fab.summaries hf, hhead, fun hmode hne hle hfired => .before rfl (halarm ?_), hopen, hclosed⟩
      have hlow : bitsOf (leAt (watchOf x.entry (summaryTaken rest s)) 0 4) 1 1 = 0 := by
        have hbit : (leAt (watchOf x.entry (summaryTaken rest s)) 0 4).testBit 1 = false := hmode
        rw [Nat.testBit_eq_decide_div_mod_eq] at hbit
        have hmod := of_decide_eq_false hbit
        simp only [bitsOf, Nat.shiftRight_eq_div_pow]
        omega
      have hbit16 : (leAt (watchOf x.entry (summaryTaken rest s)) 16 4).testBit 16 = false := by
        have hbit : (byteAt (watchOf x.entry (summaryTaken rest s)) 18).testBit 0 = false := hfired
        rw [Nat.testBit_eq_decide_div_mod_eq] at hbit ⊢
        have hmod := of_decide_eq_false hbit
        have h16 := byteAt_lt (watchOf x.entry (summaryTaken rest s)) 16
        have h17 := byteAt_lt (watchOf x.entry (summaryTaken rest s)) 17
        refine decide_eq_false ?_
        rw [leAt_four (by rw [length_watchOf]; decide)]
        simp only [Nat.reduceAdd]
        omega
      rw [driftDue, hbit16, decide_eq_true ⟨hlow, hne, hle⟩]
      rfl
  · intro s h K copy field mask hup hr h0 h1 h2 hw
    obtain ⟨hcfg, hwritten, hrun, hone⟩ := flipCopy_facts (copy := copy) (field := field) (mask := mask) h0 h1 h2
    have hused : getHrw (hrwUsed h [(copy.val, field.val, mask)] s) h = votedHrw (flipCopy copy field mask (getHrw s h)) := getHrw_hrwUsed
    have hvcfg : (getHrw (hrwUsed h [(copy.val, field.val, mask)] s) h).cfg = K := by rw [hused, votedHrw_cfg, hcfg]
    have hvw : (getHrw (hrwUsed h [(copy.val, field.val, mask)] s) h).written = K := by rw [hused]; exact hwritten.trans hw
    have hv0 : (getHrw (hrwUsed h [(copy.val, field.val, mask)] s) h).c0 = K := by rw [hused]; exact hcfg
    have hv1 : (getHrw (hrwUsed h [(copy.val, field.val, mask)] s) h).c1 = K := by rw [hused]; exact hcfg
    have hv2 : (getHrw (hrwUsed h [(copy.val, field.val, mask)] s) h).c2 = K := by rw [hused]; exact hcfg
    have hvr : (getHrw (hrwUsed h [(copy.val, field.val, mask)] s) h).running = false := by rw [hused]; exact hrun.trans hr
    have hcount : flipCfg field mask K ≠ K → Counted (144 + 6 * h + 3) 1 s (hrwUsed h [(copy.val, field.val, mask)] s) := fun hne =>
      .before rfl (hrwVote_counted (by rw [getHrw_setHrw_same]; exact hone hne))
    have heq := (passStart_eq (ups := [(copy.val, field.val, mask)]) hup hr).trans (if_neg (by rw [hvcfg, hvw]; exact not_not_intro rfl))
    rw [hvcfg] at heq
    generalize hrwUsed h [(copy.val, field.val, mask)] s = w at *
    by_cases hen : K.en = 0
    · exact ⟨_, congrArg Host.Outcome.next (heq.trans (if_pos hen)), hv0, hv1, hv2, by rw [hvr, hen]; rfl, hcount⟩
    · have hget : getHrw (setHrw h { getHrw w h with running := true, t0 := w.clk.now } w) h =
          { getHrw w h with running := true, t0 := w.clk.now } := getHrw_setHrw_same
      exact ⟨_, congrArg Host.Outcome.next (heq.trans (if_neg hen)), by rw [hget]; exact hv0, by rw [hget]; exact hv1, by rw [hget]; exact hv2,
        by rw [hget, decide_eq_true hen], fun hne => (hcount hne).after rfl⟩
  · intro s h ups hup hr hnone hne
    subst hnone
    have hused : getHrw (hrwUsed h [] s) h = votedHrw (getHrw s h) := getHrw_hrwUsed
    have heq := (passStart_eq (ups := []) hup hr).trans (if_pos (by rw [hused, votedHrw_cfg]; exact hne))
    obtain ⟨h0, hw, hcount⟩ := selfFault_facts (h := h) (s := hrwUsed h [] s)
    have hbefore : Same (count (144 + 6 * h + 4)) s (hrwUsed h [] s) :=
      (show Same (count (144 + 6 * h + 4)) s (setHrw h (upset [] (getHrw s h)) s) from rfl).trans (hrwVote_count (by omega) (by omega))
    exact ⟨_, congrArg Host.Outcome.next heq, h0, hw, .before hbefore hcount⟩
  · intro s h corrected found hr hup
    have hhrw : (correctedCounted h corrected (bump (144 + 6 * h) 1 (passEnded h false s))).hrw = (passEnded h false s).hrw :=
      (correctedCounted_keeps.at .hrw rfl).trans (bump_keeps.at .hrw rfl)
    have hget : getHrw (correctedCounted h corrected (bump (144 + 6 * h) 1 (passEnded h false s))) h =
        { getHrw s h with running := false, unscrubbed := false } := (getHrw_congr hhrw).trans getHrw_setHrw_same
    refine ⟨correctedCounted h corrected (bump (144 + 6 * h) 1 (passEnded h false s)), congrArg (Host.Outcome.next ∘ bbSettle) (passDone_eq hr hup),
      by rw [hget], by rw [hget], ?_, fun hne => ?_, ?_⟩
    · exact (passEnded_counted (by omega)).after (correctedCounted_count (k := 144 + 6 * h.val) (by omega) (by omega))
    · have hbump : Same (count (144 + 6 * h + 1)) s (bump (144 + 6 * h) 1 (passEnded h false s)) :=
        (show Same (count (144 + 6 * h + 1)) s (passEnded h false s) from rfl).trans (bump_count (by omega) (by omega))
      exact .before hbump (correctedCounted_counted hne)
    · exact (correctedCounted_keeps.at .tables rfl).trans (bump_keeps.at .tables rfl)
  · intro s h words hr hup
    refine ⟨fun hdue => ?_, fun hearly => congrArg Host.Outcome.next (hrwWatchdog_early hearly)⟩
    have hhrw : (raiseHrw h 0x1004 words 0 0 (bump (144 + 6 * h + 5) 1 (passEnded h true s))).hrw = (passEnded h true s).hrw :=
      (raiseHrw_keeps.at .hrw rfl).trans (bump_keeps.at .hrw rfl)
    have hget : getHrw (raiseHrw h 0x1004 words 0 0 (bump (144 + 6 * h + 5) 1 (passEnded h true s))) h =
        { getHrw s h with running := false, unscrubbed := true } := (getHrw_congr hhrw).trans getHrw_setHrw_same
    exact ⟨_, congrArg Host.Outcome.next (hrwWatchdog_due hr hup hdue), by rw [hget], by rw [hget],
      (passEnded_counted (i := 144 + 6 * h.val + 5) (by omega)).after (raiseHrw_count (by omega))⟩
  · intro s p hup hlive hgood hfew hlone
    have hg : groupOfPlot s p = none := by rw [groupOfPlot, hlone]
    have heq := plotFatal_lone (p := p) ⟨hlive, hgood, hfew⟩ hg
    have hsettle : (bbSettle (plotFatal p s)).plots = (plotFatal p s).plots := bbSettle_keeps.at .plots rfl
    have hplots : (bbSettle (plotFatal p s)).plots = (plotRetired p s).plots :=
      (hsettle.trans (congrArg State.plots heq)).trans raiseOn_plots
    have hretired : (getPlot (bbSettle (plotFatal p s)) p).st = .retired ∧ ∀ k, k ≠ p.val → getPlot (bbSettle (plotFatal p s)) k = getPlot s k :=
      ⟨by rw [getPlot_congr hplots]; exact getPlot_plotRetired.1, fun k hk => (getPlot_congr hplots).trans (getPlot_plotRetired_other hk)⟩
    exact ⟨fun hon => ⟨_, congrArg Host.Outcome.next (if_pos (by rw [hup, hon]; rfl)), hretired⟩,
      ⟨_, congrArg Host.Outcome.next (if_pos (by rw [hup]; rfl)), hretired⟩⟩
  · intro s p g hup hlive hgood hfew hg
    have heq := plotFatal_grouped (p := p) ⟨hlive, hgood, hfew⟩ hg
    exact ⟨unplaced p g s, _, _, fun hon => congrArg Host.Outcome.next ((if_pos (by rw [hup, hon]; rfl)).trans (congrArg bbSettle heq)),
      congrArg Host.Outcome.next ((if_pos (by rw [hup]; rfl)).trans (congrArg bbSettle heq)),
      by rw [getPlot_unplaced]; exact getPlot_plotRetired.1, by rw [getPlot_unplaced]; exact getPlot_plotRetired.2, fun _ h => unplaced_group h⟩
  · intro s p hup hlive hgood h4
    refine ⟨_, congrArg Host.Outcome.next (if_pos (by rw [hup]; rfl)), ?_⟩
    rw [plotFatal_dieLost hlive hgood h4, bbSettle_keeps.glb_eq rfl, declareDie_fatalBit, decide_eq_true rfl, Bool.true_or]
  · intro s p
    exact ⟨s, congrArg Host.Outcome.next (if_neg (by simp)), rfl⟩
  · intro s g ps hup hone hg ht
    have heq := placeUnplaced_one hone hg ht
    have hgroup : findGroup (takePlots g.gid g.gen ps s) g.gid = some g := (findGroup_congr (takePlots_keeps.at .groups rfl)).trans hg
    refine ⟨updGroup g.gid (groupPlaced ps (getBank s g.slot g.bank).pin s.clk.now) (takePlots g.gid g.gen ps s),
      congrArg Host.Outcome.next ((if_pos hup).trans (congrArg (fun u => bbSettle (readySheaves u)) heq)),
      findGroup_updGroup_some (fun _ => rfl) hgroup, fun p hp => takePlots_active p hp, takePlots_keeps.at .msgs rfl⟩

end Sys2Proof.Machine
end

section

/-!
PROOF. The broadcast slots of a trunk port (O43).
-/

namespace Sys2Proof.Machine

variable {s t u v : State} {n m : Nat} {reset : Bool} {data bs : List Byte} {p p' q : Port} {x : EgrFrame}

/-! ### The bytes of a codeword -/

theorem length_rsStep {gen reg : List Nat} {d : Nat} (hg : gen.length = n) (hr : reg.length = n) : (rsStep gen reg d).length = n := by
  unfold rsStep
  split
  · exact hr
  · rw [List.length_zipWith, List.length_append, hg]
    simp only [List.length_cons, List.length_nil] at hr ⊢
    omega

theorem length_rsParity (hg : ((rsGen n).take n).length = n) {ds : List Nat} : (rsParity n ds).length = n := by
  have hfold : ∀ (ds reg : List Nat), reg.length = n → (ds.foldl (rsStep ((rsGen n).take n).reverse) reg).length = n := by
    intro ds
    induction ds with
    | nil => exact fun reg hr => hr
    | cons d ds ih => exact fun reg hr => ih _ (length_rsStep (List.length_reverse.trans hg) hr)
  exact hfold ds _ List.length_replicate

theorem length_bpCodeword : (bpCodeword data).length = data.length + 16 := by
  rw [bpCodeword, List.length_append, natBytes, List.length_map, length_rsParity (by decide)]

theorem length_bpData {type lane seq : Nat} {first last : Bool} : (bpData type lane first last seq bs).length = 224 := by
  rw [bpData, List.length_append, length_leBytes, length_padTo]

/-! ### One codeword -/

/-- What one codeword leaves of a port `q`: the slot and its bytes are the codeword's, the rest of the port and every other port stay. -/
structure Transmits (n : Nat) (q : Port) (reset : Bool) (data : List Byte) (s t : State) : Prop where
  slot : (getPort t n).bpSlot = q.bpSlot + 1
  chosen : (getPort t n).chosen = (scramble (if reset then 0x7FFFFF else q.lfsr) (bpCodeword data)).2
  ctls : (getPort t n).ctls = q.ctls
  acks : (getPort t n).acks = q.acks
  ctlSeq : (getPort t n).ctlSeq = q.ctlSeq
  beacon : (getPort t n).beacon = q.beacon
  sched : (getPort t n).sched = q.sched
  rx : (getPort t n).rx = q.rx
  others : ∀ m, m ≠ n → getPort t m = getPort s m

theorem sendCw_transmits : Transmits n (getPort s n) reset data s (sendCw n reset data s) := by
  have hport : ∀ q, getPort (setPort n q s) n = q := fun _ => getPort_setPort_same
  constructor <;> (unfold sendCw; dsimp only)
  case others => exact fun m hm => getPort_setPort_other hm
  all_goals rw [hport]

/-- The port may have taken what the codeword carries. -/
theorem sendCw_taken : Transmits n q reset data s (sendCw n reset data (setPort n q s)) := by
  have hsent := sendCw_transmits (n := n) (reset := reset) (data := data) (s := setPort n q s)
  rw [getPort_setPort_same] at hsent
  exact { hsent with others := fun m hm => (hsent.others m hm).trans (getPort_setPort_other hm) }

/-- Only the ports after it matter. -/
theorem Transmits.after (hx : Transmits n q reset data s u) (hv : t.ports = u.ports) : Transmits n q reset data s t := by
  have ht : ∀ m, getPort t m = getPort u m := fun m => getPort_congr hv
  obtain ⟨h1, h2, h3, h4, h5, h6, h7, h8, h9⟩ := hx
  constructor <;> simp only [ht] <;> assumption

/-- Only the ports before it matter. -/
theorem Transmits.before (hx : Transmits n (getPort u n) reset data u t) (hu : u.ports = s.ports) : Transmits n (getPort s n) reset data s t := by
  rw [getPort_congr hu] at hx
  exact { hx with others := fun m hm => (hx.others m hm).trans (getPort_congr hu) }

theorem Transmits.of_keeps {l : List Piece} (hx : Transmits n q reset data s u) (hk : Keeps l u t) (hp : subParts [.ports] l = false) :
    Transmits n q reset data s t := hx.after (hk.at .ports hp)

/-! ### The choice of a codeword -/

theorem takeLane_ports {M : Msg} {r : Reply} : (takeLane M r s).ports = s.ports := takeLane_keeps.at .ports rfl

/-- The codeword of a FINAL. -/
theorem sendEnd_final {M : Msg} {r : Reply} :
    Transmits n (getPort s n) false (bpData 3 ((replyLane s n M r).getD 0) (decide (r.sent = 0)) true r.sent (pieceOf r.bytes r.sent).1) s (sendEnd n M r false s) := by
  have hsent := (sendCw_transmits (n := n) (reset := false) (s := takeLane M r s)
    (data := bpData 3 ((replyLane s n M r).getD 0) (decide (r.sent = 0)) true r.sent (pieceOf r.bytes r.sent).1)).before takeLane_ports
  exact (hsent.of_keeps bump_keeps rfl).of_keeps captureIod_keeps rfl |>.of_keeps (keeps_ite countLate_keeps (Keeps.refl _)) rfl
    |>.of_keeps updStream_keeps rfl |>.of_keeps endOne_keeps rfl |>.of_keeps settleStream_keeps rfl

/-- The codeword of a RETRACT. -/
theorem sendEnd_retract {M : Msg} {r : Reply} :
    Transmits n (getPort s n) false (bpData 4 ((replyLane s n M r).getD 0) false true r.sent (lastPayload (retractRecord M (M.status.getD stInternal) r.sent)))
      s (sendEnd n M r true s) := by
  have hsent := (sendCw_transmits (n := n) (reset := false) (s := takeLane M r s) (data := bpData 4 ((replyLane s n M r).getD 0) false true r.sent
    (lastPayload (retractRecord M (M.status.getD stInternal) r.sent)))).before takeLane_ports
  exact (hsent.of_keeps bump_keeps rfl).of_keeps teleAdd_keeps rfl |>.of_keeps captureIod_keeps rfl |>.of_keeps attach_keeps rfl
    |>.of_keeps endOne_keeps rfl |>.of_keeps settleStream_keeps rfl

/-- A codeword of 224 data bytes goes out. -/
def SomeCodeword (n : Nat) (s t : State) : Prop := ∃ reset, ∃ data : List Byte, data.length = 224 ∧ Transmits n (getPort s n) reset data s t

theorem sendEnd_codeword {M : Msg} {r : Reply} {retract : Bool} : SomeCodeword n s (sendEnd n M r retract s) := by
  cases retract with
  | false => exact ⟨_, _, length_bpData, sendEnd_final⟩
  | true => exact ⟨_, _, length_bpData, sendEnd_retract⟩

theorem sendExpress_codeword {M : Msg} {r : Reply} : SomeCodeword n s (sendExpress n M r s) :=
  ⟨_, _, length_bpData, (sendCw_transmits.before takeLane_ports).of_keeps updMsg_keeps rfl⟩

theorem Transmits.echoes {es : List EchoCopy} (hx : Transmits n q reset data s u) :
    Transmits n q reset data s (updPort n (fun p => { p with echoes := es }) u) := by
  obtain ⟨h1, h2, h3, h4, h5, h6, h7, h8, h9⟩ := hx
  have hport := getPort_updPort_same (n := n) (s := u) (f := fun p => { p with echoes := es })
  constructor
  case others => exact fun m hm => (getPort_updPort_other hm).trans (h9 m hm)
  all_goals (rw [hport]; assumption)

theorem sendEcho_codeword (h : sendEcho n s = some t) : SomeCodeword n s t := by
  unfold sendEcho at h
  split at h
  · simp at h
  · split at h
    · simp at h
    · rw [← Option.some.inj h]
      exact ⟨_, _, length_bpData, sendCw_transmits.echoes⟩

theorem sendData_codeword : SomeCodeword n s (sendData n x s) := by
  refine ⟨false, bpData 1 ((otherLane s n x.lane).getD 0) (decide (x.sent = 0)) (pieceOf x.bytes x.sent).2 x.sent (pieceOf x.bytes x.sent).1,
    length_bpData, ?_⟩
  have hsent := fun q : List EgrFrame => (sendCw_transmits (n := n) (reset := false) (s := s) (data := bpData 1 ((otherLane s n x.lane).getD 0)
    (decide (x.sent = 0)) (pieceOf x.bytes x.sent).2 x.sent (pieceOf x.bytes x.sent).1)).of_keeps (setEgressQ_keeps (a0 := n) (a1 := q)) rfl
  unfold sendData
  dsimp only
  split
  · exact hsent _
  · split
    · exact (hsent _).of_keeps complete_keeps rfl
    · exact hsent _
  · split
    · exact hsent _
    · split
      · exact (hsent _).of_keeps (keeps_ite countLate_keeps (Keeps.refl _)) rfl |>.of_keeps endOne_keeps rfl |>.of_keeps settleStream_keeps rfl
      · exact hsent _

theorem chooseReply_codeword : SomeCodeword n s (chooseReply n s) := by
  have hidle : SomeCodeword n s (sendCw n false (bpData 0 0 false false 0 []) s) := ⟨_, _, length_bpData, sendCw_transmits⟩
  unfold chooseReply
  dsimp only
  split
  · exact sendEnd_codeword
  · split
    · exact hidle
    · split
      · exact sendExpress_codeword
      · split
        · next h => exact sendEcho_codeword h
        · split
          · exact sendData_codeword
          · exact hidle

/-! ### Control codewords -/

/-- What the choice of a CONTROL codeword takes from a port: only what waits to be announced. -/
def takes (p : Port) (cs : List Ctl) (as : List (List Byte)) : Port := { p with ctls := cs, acks := as }

theorem nextCtl_takes {payload : List Byte} (h : nextCtl p = some (payload, p')) : ∃ cs as, p' = takes p cs as := by
  unfold nextCtl at h
  dsimp only at h
  split at h
  · exact ⟨_, _, (Prod.mk.inj (Option.some.inj h)).2.symm⟩
  · split at h
    · exact ⟨_, _, (Prod.mk.inj (Option.some.inj h)).2.symm⟩
    · split at h
      · exact ⟨_, _, (Prod.mk.inj (Option.some.inj h)).2.symm⟩
      · split at h
        · exact ⟨_, _, (Prod.mk.inj (Option.some.inj h)).2.symm⟩
        · simp at h

theorem nextCtl_collide {c : Ctl} (h : p.ctls.find? (fun c => c.rank = 0) = some c) :
    nextCtl p = some (c.payload, takes p (p.ctls.erase c) p.acks) := by
  unfold nextCtl
  simp only [h]
  rfl

theorem find?_rank_none {cs : List Ctl} {k : Nat} (h : ∀ c ∈ cs, c.rank ≠ k) : cs.find? (fun c => decide (c.rank = k)) = none :=
  List.find?_eq_none.mpr fun c hc => by simpa using h c hc

theorem nextCtl_acks (h : ∀ c ∈ p.ctls, c.rank ≠ 0 ∧ c.rank ≠ 1) (hacks : p.acks ≠ []) :
    ∃ payload, nextCtl p = some (payload, takes p p.ctls (p.acks.drop (min 36 p.acks.length))) := by
  refine ⟨leBytes 1 3 ++ leBytes 1 (min 36 p.acks.length) ++ (p.acks.take (min 36 p.acks.length)).flatten, ?_⟩
  unfold nextCtl
  have hsome : (!p.acks.isEmpty) = true := by simpa using hacks
  simp only [find?_rank_none fun c hc => (h c hc).1, find?_rank_none fun c hc => (h c hc).2, hsome]
  rfl

theorem nextCtl_none (hctls : p.ctls = []) (hacks : p.acks = []) : nextCtl p = none := by
  unfold nextCtl
  simp [hctls, hacks]

/-! ### The slot -/

theorem runs_slot (hrun : (getPort s n).running = true) (hslot : (getPort s n).bpSlot < cycSlots s n) :
    ¬ (!(getPort s n).running || decide (cycSlots s n ≤ (getPort s n).bpSlot)) = true := by
  rw [hrun]
  simpa using hslot

theorem marked_port : getPort (markLaneWaits n s) m = getPort s m := getPort_congr (markLaneWaits_keeps.at .ports rfl)

/-- A BEACON comes first, in slot 0. -/
theorem bpSlotChoice_beacon (hrun : (getPort s n).running = true) (hslot : (getPort s n).bpSlot < cycSlots s n)
    (hwind : (getPort s n).winding = false) (h0 : (getPort s n).bpSlot = 0) (hb : (getPort s n).beacon = some bs) :
    bpSlotChoice n s = sendCw n true (bpData 5 0 false false 0 bs) (setPort n { getPort s n with beacon := none } (markLaneWaits n s)) := by
  unfold bpSlotChoice
  dsimp only
  rw [if_neg (runs_slot hrun hslot), marked_port, hwind, if_neg Bool.false_ne_true, if_pos h0, hb]

/-- Without a BEACON what waits to be announced comes next. -/
theorem bpSlotChoice_control {payload : List Byte} (hrun : (getPort s n).running = true) (hslot : (getPort s n).bpSlot < cycSlots s n)
    (hwind : (getPort s n).winding = false) (hb : (if (getPort s n).bpSlot = 0 then (getPort s n).beacon else none) = none)
    (hctl : nextCtl (getPort s n) = some (payload, p')) :
    bpSlotChoice n s = sendCw n false (bpData 6 0 false false (getPort s n).ctlSeq payload)
      (setPort n { p' with ctlSeq := (getPort s n).ctlSeq + 1 } (markLaneWaits n s)) := by
  unfold bpSlotChoice
  dsimp only
  rw [if_neg (runs_slot hrun hslot), marked_port, hwind, if_neg Bool.false_ne_true, hb, hctl]

/-- A port that winds down, or that has nothing to announce, sends replies. -/
theorem bpSlotChoice_reply (hrun : (getPort s n).running = true) (hslot : (getPort s n).bpSlot < cycSlots s n)
    (h : (getPort s n).winding = true ∨
      (if (getPort s n).bpSlot = 0 then (getPort s n).beacon else none) = none ∧ nextCtl (getPort s n) = none) :
    bpSlotChoice n s = chooseReply n (markLaneWaits n s) := by
  unfold bpSlotChoice
  dsimp only
  rw [if_neg (runs_slot hrun hslot), marked_port]
  split
  · rfl
  · next hw =>
    obtain ⟨hb, hctl⟩ := h.resolve_left hw
    rw [hb, hctl]

theorem Transmits.of_marked (hx : Transmits n q reset data (markLaneWaits n s) t) : Transmits n q reset data s t :=
  { hx with others := fun m hm => (hx.others m hm).trans marked_port }

/-- What a slot leaves whatever is sent. -/
structure SlotTaken (n : Nat) (s t : State) : Prop where
  slot : (getPort t n).bpSlot = (getPort s n).bpSlot + 1
  length : (getPort t n).chosen.length = 240
  sched : (getPort t n).sched = (getPort s n).sched
  rx : (getPort t n).rx = (getPort s n).rx
  others : ∀ m, m ≠ n → getPort t m = getPort s m

theorem Transmits.taken (hx : Transmits n q reset data s t) (hdata : data.length = 224) (hslot : q.bpSlot = (getPort s n).bpSlot)
    (hsched : q.sched = (getPort s n).sched) (hrx : q.rx = (getPort s n).rx) : SlotTaken n s t where
  slot := hslot ▸ hx.slot
  length := by rw [hx.chosen, (scramblerUndoesItself _ _).2.2, length_bpCodeword, hdata]
  sched := hx.sched.trans hsched
  rx := hx.rx.trans hrx
  others := hx.others

theorem bpSlotChoice_taken (hrun : (getPort s n).running = true) (hslot : (getPort s n).bpSlot < cycSlots s n) : SlotTaken n s (bpSlotChoice n s) := by
  have hreply : SlotTaken n s (chooseReply n (markLaneWaits n s)) := by
    obtain ⟨reset, data, hdata, hsent⟩ := chooseReply_codeword (n := n) (s := markLaneWaits n s)
    exact (hsent.before (markLaneWaits_keeps.at .ports rfl)).taken hdata rfl rfl rfl
  cases hwind : (getPort s n).winding with
  | true => exact bpSlotChoice_reply hrun hslot (.inl hwind) ▸ hreply
  | false =>
    cases hb : (if (getPort s n).bpSlot = 0 then (getPort s n).beacon else none) with
    | some b =>
      obtain ⟨h0, hbeacon⟩ : (getPort s n).bpSlot = 0 ∧ (getPort s n).beacon = some b := by
        split at hb
        · next h0 => exact ⟨h0, hb⟩
        · simp at hb
      rw [bpSlotChoice_beacon hrun hslot hwind h0 hbeacon]
      exact sendCw_taken.of_marked.taken length_bpData rfl rfl rfl
    | none =>
      cases hctl : nextCtl (getPort s n) with
      | none => exact bpSlotChoice_reply hrun hslot (.inr ⟨hb, hctl⟩) ▸ hreply
      | some c =>
        obtain ⟨payload, p'⟩ := c
        rw [bpSlotChoice_control hrun hslot hwind hb hctl]
        obtain ⟨cs, as, htakes⟩ := nextCtl_takes hctl
        refine sendCw_taken.of_marked.taken length_bpData ?_ ?_ ?_ <;> rw [htakes, takes]

theorem settled_port : getPort (bbSettle s) m = getPort s m := getPort_congr bbSettle_ports

/-- Settles O43: every choice sends one codeword, and Reed–Solomon parity and the scrambler fix its length. -/
theorem broadcastSlots : Obligations.BroadcastSlots := by
  unfold Obligations.BroadcastSlots
  refine ⟨fun s n hrun hslot => ⟨_, rfl, ?_⟩, fun s n h => ⟨_, rfl, ?_⟩, fun s n b hrun hwind h0 hcyc hb => ⟨_, rfl, ?_⟩,
    fun s n c hrun hwind h0 hslot hc => ⟨_, rfl, ?_⟩, fun s n hrun hwind h0 hslot hrank hacks => ⟨_, rfl, ?_⟩,
    fun s u n m r lane hrun h0 hslot hctls hacks hu hend hlane => ⟨_, rfl, ?_⟩⟩
  · obtain ⟨hs, hl, hsched, hrx, hothers⟩ := bpSlotChoice_taken hrun hslot
    simp only [settled_port]
    exact ⟨hs, hl, hsched, hrx, hothers⟩
  · have hkept : bpSlotChoice n s = s := by
      unfold bpSlotChoice
      dsimp only
      rw [if_pos]
      simpa using h
    rw [hkept]
    exact ⟨rfl, bbSettle_ports⟩
  · simp only [settled_port]
    rw [bpSlotChoice_beacon hrun (h0 ▸ hcyc) hwind h0 hb]
    have hsent := sendCw_taken (n := n) (s := markLaneWaits n s) (reset := true) (q := { getPort s n with beacon := none })
      (data := bpData 5 0 false false 0 b)
    exact ⟨hsent.beacon, hsent.chosen, hsent.ctls⟩
  · simp only [settled_port]
    rw [bpSlotChoice_control hrun hslot hwind (if_neg h0.ne') (nextCtl_collide hc)]
    have hsent := sendCw_taken (n := n) (s := markLaneWaits n s) (reset := false)
      (q := { takes (getPort s n) ((getPort s n).ctls.erase c) (getPort s n).acks with ctlSeq := (getPort s n).ctlSeq + 1 })
      (data := bpData 6 0 false false (getPort s n).ctlSeq c.payload)
    exact ⟨hsent.ctls, hsent.acks, hsent.ctlSeq, hsent.chosen⟩
  · obtain ⟨payload, hctl⟩ := nextCtl_acks hrank hacks
    simp only [settled_port]
    rw [bpSlotChoice_control hrun hslot hwind (if_neg h0.ne') hctl]
    have hsent := sendCw_taken (n := n) (s := markLaneWaits n s) (reset := false) (data := bpData 6 0 false false (getPort s n).ctlSeq payload)
      (q := { takes (getPort s n) (getPort s n).ctls ((getPort s n).acks.drop (min 36 (getPort s n).acks.length)) with
        ctlSeq := (getPort s n).ctlSeq + 1 })
    refine ⟨hsent.acks.trans ?_, hsent.ctls⟩
    rcases Nat.le_total 36 (getPort s n).acks.length with hle | hle
    · exact congrArg (List.drop · _) (Nat.min_eq_left hle)
    · exact (congrArg (List.drop · _) (Nat.min_eq_right hle)).trans (List.drop_length.trans (List.drop_eq_nil_of_le hle).symm)
  · subst hu
    simp only [settled_port]
    rw [bpSlotChoice_reply hrun hslot (.inr ⟨if_neg h0.ne', nextCtl_none hctls hacks⟩)]
    have hsent := sendEnd_final (n := n) (s := markLaneWaits n s) (M := m) (r := r)
    rw [hlane, Option.getD_some] at hsent
    have hchoice : chooseReply n (markLaneWaits n s) = sendEnd n m r false (markLaneWaits n s) := by
      unfold chooseReply
      rw [hend]
    rw [hchoice]
    exact (hsent.before (markLaneWaits_keeps.at .ports rfl)).chosen

end Sys2Proof.Machine
end

section

/-!
PROOF. O49: the die links. The obligation fails: when a link resumes, the tokens of the fabric move on, and a token of a
generation that is over is discarded and counted for its plot. In a state whose fabric holds such a token on plot 81 that is the
link's own counter of retrains.
-/

namespace Sys2Proof.Machine

/-- A token of generation 1 at input N of tile 1,296, which is on plot 81; the switch there is of generation 0. The counter of the plot's
discarded tokens is 960 + 15 × 81 + 3 = 2,178, which is also 2,048 + 28 × 4 + 18, link 4's counter of retrains. -/
def strayFifo : Nat × List Queued := (fifoKey 1296 0 0, [{ tok := { net := 0, tag := 0x2000, data := 0, headland := false }, took := [] }])

/-- A retrain of every quad that both ends have joined after the eighth replay. -/
def fullTrain : Train := { ends := 3, cause := 1, quad := 0, dir := 0, full := true, time := 0, again := none }

/-- Link 4 retrains while the stray token waits. -/
def strayTokenState : State :=
  { State.reset with
    links := [(4, { Link.init with st := 1, train := some fullTrain })], fab := { State.reset.fab with fifos := [strayFifo] } }

theorem exec_retrainDone (l : Fin 10) (goodA goodB : Fin 16) (pause : Nat) (s : State) :
    exec (.retrainDone l goodA goodB pause) s = .next (retrainDone l goodA goodB pause s) := rfl

/-- The end of the retrain raises counter 2,178 by two: one for the retrain, one for the discarded token. -/
theorem retrainDone_strayTokenState_counts_twice :
    ¬ Counted (2048 + 28 * 4 + 18) 1 strayTokenState (retrainDone 4 15 15 0 strayTokenState) := by
  unfold Counted
  decide +kernel

/-- Refutes O49: in `strayTokenState` a retrain that succeeds raises the link's counter of retrains by two, not by one. -/
theorem not_dieLinks : ¬ Obligations.DieLinks := by
  unfold Obligations.DieLinks
  rintro ⟨-, -, -, -, -, -, hretrain, -⟩
  obtain ⟨t, hexec, -, -, -, -, -, -, -, hcount, -⟩ := (hretrain strayTokenState 4 15 15 0 fullTrain 15 15 (by decide +kernel) (by decide)
    rfl rfl).1 (by decide) (by decide) rfl
  rw [exec_retrainDone] at hexec
  exact retrainDone_strayTokenState_counts_twice (Host.Outcome.next.inj hexec ▸ hcount)

end Sys2Proof.Machine

end

section

/-!
PROOF. What the Sower does on its own: overrun, shedding, rotation and headland injection (O28).
-/

namespace Sys2Proof.Machine

variable {s t u v : State} {n k p q gid gen status cause sid : Nat} {g h : Group} {r : Run} {x : Sheaf} {ms ps : List Nat}

/-! ### A slice past its bound (R138, R169) -/

/-- A tile that runs nothing, under a generation. -/
def Rested (gen k : Nat) (s : State) : Prop := (getTile s k).run = .idle ∧ (getTile s k).gen = gen

theorem Rested.congr (hk : Rested gen k s) (ht : t.tiles = s.tiles) : Rested gen k t := by
  unfold Rested
  rw [getTile_congr ht]
  exact hk

theorem tilesEmptied_rested : ∀ k ∈ List.range 16, Rested gen (16 * p + k) (tilesEmptied gen p s) := by
  refine each_establishes (P := fun k v => Rested gen (16 * p + k) v) (fun k v => ?_) fun j k v hk => ?_
  · unfold Rested
    rw [getTile_updTile_same]
    exact ⟨rfl, rfl⟩
  · unfold Rested
    by_cases hjk : k = j
    · subst hjk
      rw [getTile_updTile_same]
      exact ⟨rfl, rfl⟩
    · rw [getTile_updTile_other (by omega)]
      exact hk

theorem clearPlot_rested (hk : k < 16) : Rested gen (16 * p + k) (clearPlot gen p s) := by
  obtain ⟨u, -, htiles⟩ := clearPlot_tiles (gen := gen) (p := p) (s := s)
  exact (tilesEmptied_rested k (List.mem_range.mpr hk)).congr htiles

theorem plotsCleared_rested (hk : k < 16) : ∀ p ∈ ps, Rested gen (16 * p + k) (each ps (clearPlot gen) s) := by
  refine each_establishes (P := fun p v => Rested gen (16 * p + k) v) (fun p v => clearPlot_rested hk) fun q p v hp => ?_
  by_cases hpq : p = q
  · exact hpq ▸ clearPlot_rested hk
  · unfold Rested
    rw [clearPlot_other fun j hj => by omega]
    exact hp

/-- What follows the clearing of a flush touches no tile. -/
theorem flushGroup_rested (hg : findGroup s gid = some g) (hp : p ∈ transPlots g) (hk : k < 16) :
    Rested ((g.gen + 1) % 4) (16 * p + k) (flushGroup gid status s).1 := by
  simp only [flushGroup, hg]
  refine each_preserves (P := Rested ((g.gen + 1) % 4) (16 * p + k)) ?_ fun _ _ hv => hv.congr (failMsg_keeps.at .tiles rfl)
  refine each_preserves (P := Rested ((g.gen + 1) % 4) (16 * p + k)) ?_ fun _ _ hv =>
    (hv.congr (updMsg_keeps.at .tiles rfl)).congr (leaveSheaf_keeps.at .tiles rfl)
  refine each_preserves (P := Rested ((g.gen + 1) % 4) (16 * p + k)) ?_ fun _ _ hv => hv.congr (noteWait_keeps.at .tiles rfl)
  exact (plotsCleared_rested hk p hp).congr (updGroup_keeps.at .tiles rfl)

theorem replant_rested (hg : findGroup s gid = some g) (hp : p ∈ transPlots g) (hk : k < 16) :
    Rested ((g.gen + 1) % 4) (16 * p + k) (replant cause status gid s) := by
  simp only [replant, hg]
  exact (flushGroup_rested hg hp hk).congr (raiseOn_keeps.at .tiles rfl)

/-- A slice past its bound: its group is replanted, and the event says so. -/
def overrun (g : Group) (r : Run) (gid elapsed : Nat) (s : State) : State :=
  raiseOn (groupDie g) 0x0503 g.slot g.slot (passLayer s g.slot g.bank r.pass) (elapsed - r.paused) (bump 13 1 (replant 2 stOverrun gid s))

theorem sliceOverrun_late {elapsed : Nat} (hg : findGroup s gid = some g) (hr : g.run = some r)
    (hlate : sliceBound s g r + regF s 0x2610 0 16 < elapsed - r.paused) (hgate : gatewayPaused s g = false) :
    sliceOverrun gid elapsed s = readySheaves (overrun g r gid elapsed s) := by
  unfold sliceOverrun
  rw [hg]
  dsimp only
  rw [hr]
  exact if_neg (by rw [hgate, Bool.or_false, decide_eq_true_eq]; exact Nat.not_le.mpr hlate)

theorem sliceOverrun_early {elapsed : Nat} (hg : findGroup s gid = some g) (hr : g.run = some r)
    (hearly : elapsed - r.paused ≤ sliceBound s g r + regF s 0x2610 0 16) : sliceOverrun gid elapsed s = s := by
  unfold sliceOverrun
  rw [hg]
  dsimp only
  rw [hr]
  exact if_pos (by simp [hearly])

theorem mem_transPlots (hp : p ∈ g.plots) : p ∈ transPlots g := List.mem_append_left _ hp

theorem overrun_noTokens {elapsed : Nat} (hg : findGroup s gid = some g) (hp : p ∈ g.plots) : NoTokens p (overrun g r gid elapsed s) :=
  ((noTokens_replant hg (mem_transPlots hp)).keeps bump_keeps rfl).raiseOn

theorem overrun_rested {elapsed : Nat} (hg : findGroup s gid = some g) (hp : p ∈ g.plots) (hk : k < 16) :
    Rested ((g.gen + 1) % 4) (16 * p + k) (overrun g r gid elapsed s) :=
  ((replant_rested hg (mem_transPlots hp) hk).congr (bump_keeps.at .tiles rfl)).congr (raiseOn_keeps.at .tiles rfl)

/-! ### Shedding (R141) -/

/-- A message that is shed keeps nothing of its passes. -/
def shedMsg (m : Msg) : Msg := { m with staged := false, rowsOut := [], outputs := none, loc := .idle }

/-- The members have left their sheaves and are counted as shed. -/
def membersShed (ms : List Nat) (s : State) : State := bump 11 ms.length (each ms (fun m => updMsg m shedMsg) (each ms leaveSheaf s))

theorem cuminShed_due {t0 : Nat} (hx : findSheaf s sid = some x) (hcls : x.cls = 3) (hgrant : x.granted = none) (hwait : x.waitT0 = some t0)
    (hdue : 1000 * max 100 (regF s 0x260C 0 16) < s.clk.now - t0) : cuminShed sid s =
      raiseOn (sheafDie s x) 0x0501 x.slot x.slot x.members.length (passLayer s x.slot x.bank x.pass)
        (each x.members (failMsg stShed) (membersShed x.members s)) := by
  unfold cuminShed
  rw [hx]
  exact if_neg (by simp [hcls, hgrant, shedDue, hwait, shedAfter, hdue])

theorem cuminShed_early {t0 : Nat} (hx : findSheaf s sid = some x) (hwait : x.waitT0 = some t0)
    (hearly : s.clk.now - t0 ≤ 1000 * max 100 (regF s 0x260C 0 16)) : cuminShed sid s = s := by
  unfold cuminShed
  rw [hx]
  refine if_pos (.inr (.inr ?_))
  simp only [shedDue, hwait, shedAfter, Bool.not_eq_true']
  exact decide_eq_false (Nat.not_lt.mpr hearly)

theorem each_updMsg_keeps {f : Msg → Msg} : Keeps [.msgs] s (each ms (fun m => updMsg m f) s) :=
  keeps_each (.refl s) fun _ _ hu => hu.after updMsg_keeps rfl

theorem membersShed_counted : Counted 11 ms.length s (membersShed ms s) := by
  have hbefore : (each ms (fun m => updMsg m shedMsg) (each ms leaveSheaf s)).cnt = s.cnt :=
    (each_updMsg_keeps.at .cnt rfl).trans
      ((keeps_each (ps := [.sheaves, .waits, .yoke]) (.refl s) fun _ _ hu => hu.after leaveSheaf_keeps rfl).at .cnt rfl)
  exact .before (congrArg (tget 0 11) hbefore) (bump_counted (by decide))

/-- Every message named has been changed, however often it is named. -/
theorem each_updMsg_changed {f : Msg → Msg} {P : Msg → Prop} (hf : ∀ m : Msg, (f m).mid = m.mid) (hP : ∀ m, P (f m)) :
    ∀ m ∈ ms, ∀ w, findMsg (each ms (fun m => updMsg m f) s) m = some w → P w := by
  refine each_establishes (P := fun m v => ∀ w, findMsg v m = some w → P w) (fun m v w hw => ?_) fun j m v hm w hw => ?_
  · rw [findMsg_updMsg_same fun y hy => (hf y).trans hy] at hw
    obtain ⟨y, -, rfl⟩ := Option.map_eq_some_iff.mp hw
    exact hP y
  · by_cases hmj : m = j
    · subst hmj
      rw [findMsg_updMsg_same fun y hy => (hf y).trans hy] at hw
      obtain ⟨y, -, rfl⟩ := Option.map_eq_some_iff.mp hw
      exact hP y
    · rw [findMsg_updMsg_other hmj fun y hy => (hf y).trans hy] at hw
      exact hm w hw

theorem membersShed_idle : ∀ m ∈ ms, ∀ w, findMsg (membersShed ms s) m = some w → w.loc = .idle ∧ w.outputs = none ∧ w.staged = false := by
  intro m hm w hw
  rw [membersShed, findMsg_congr (bump_keeps.at .msgs rfl)] at hw
  exact each_updMsg_changed (f := shedMsg) (P := fun w => w.loc = .idle ∧ w.outputs = none ∧ w.staged = false) (fun _ => rfl)
    (fun _ => ⟨rfl, rfl, rfl⟩) m hm w hw

theorem membersShed_sheaves : (membersShed ms s).sheaves = (each ms leaveSheaf s).sheaves :=
  (bump_keeps.at .sheaves rfl).trans (each_updMsg_keeps.at .sheaves rfl)

/-! ### Rotation (R142 to R144) -/

/-- One sensor's readings become the plot's average. -/
theorem rotationCheck_reading {l : List Nat} (hoff : (getReg s 0x2614).testBit 0 = false) (hl : l ≠ []) :
    rotationCheck [(p, l)] s = updPlot p (fun v => { v with avg := sumOf l / l.length }) s := by
  unfold rotationCheck
  simp only [each, List.foldl_cons, List.foldl_nil, List.isEmpty_eq_false_iff.mpr hl, Bool.false_eq_true, if_false]
  exact if_pos (by rw [updPlot_keeps.getReg_eq rfl, hoff]; rfl)

/-- What the choice of a rotation reads is the same. -/
structure SameHeat (s t : State) : Prop where
  plots : t.plots = s.plots
  groups : t.groups = s.groups
  dies : t.glb.dieFatal = s.glb.dieFatal
  now : t.clk.now = s.clk.now
  reg : ∀ o, getReg t o = getReg s o

theorem SameHeat.hottest_eq (hs : SameHeat s t) : hottest t = hottest s := by
  funext ps
  simp only [hottest, getPlot, hs.plots]

theorem SameHeat.chooseTarget_eq (hs : SameHeat s t) {o : Option Nat} {shape cur : List Nat} :
    chooseTarget t o shape cur = chooseTarget s o shape cur := by
  have hplot : getPlot t = getPlot s := by funext p; rw [getPlot, getPlot, hs.plots]
  have hgroup : findGroup t = findGroup s := by funext p; rw [findGroup, findGroup, hs.groups]
  have hcooler : cooler t = cooler s := by funext a b; rw [cooler, cooler, hs.hottest_eq]
  unfold chooseTarget
  rw [hplot, hgroup, hcooler, hs.dies]

theorem SameHeat.rotEligible_eq (hs : SameHeat s t) : rotEligible t = rotEligible s := by
  funext g
  have hreg : ∀ o i n, regF t o i n = regF s o i n := fun o i n => by rw [regF, regF, hs.reg]
  have htarget : rotTarget t g = rotTarget s g := by
    unfold rotTarget
    rw [hs.chooseTarget_eq, hs.groups, hs.now, hreg]
  unfold rotEligible
  rw [htarget, hs.hottest_eq, hreg]

theorem bump_heat {i : Nat} : SameHeat s (bump i n s) :=
  ⟨bump_keeps.at .plots rfl, bump_keeps.at .groups rfl, congrArg Glb.dieFatal (bump_keeps.glb_eq rfl), congrArg Clk.now (bump_keeps.at .clk rfl),
    fun _ => bump_keeps.getReg_eq rfl⟩

/-- The hotter of two groups, of which the second may not be eligible. -/
def warmer (s : State) (b : Option Group) (g : Group) : Option Group :=
  if (rotEligible s g).isNone then b
  else match b with
    | none => some g
    | some h => if hottest s h.plots < hottest s g.plots then some g else some h

/-- A group that can be chosen from a list, with every eligible one no hotter. -/
structure Hottest (s : State) (gs : List Group) (g : Group) : Prop where
  eligible : (rotEligible s g).isSome = true
  all : ∀ h ∈ gs, (rotEligible s h).isSome = true → hottest s h.plots ≤ hottest s g.plots

theorem foldl_warmer_some {gs : List Group} (hb : (rotEligible s h).isSome = true) :
    ∃ g, gs.foldl (warmer s) (some h) = some g ∧ Hottest s gs g ∧ (g ∈ gs ∨ g = h) ∧ hottest s h.plots ≤ hottest s g.plots := by
  induction gs generalizing h with
  | nil => exact ⟨h, rfl, ⟨hb, by simp⟩, .inr rfl, Nat.le_refl _⟩
  | cons a gs ih =>
    rw [List.foldl_cons]
    by_cases ha : (rotEligible s a).isNone = true
    · have hstep : warmer s (some h) a = some h := if_pos ha
      obtain ⟨g, hg, ⟨hel, hall⟩, hmem, hle⟩ := ih hb
      rw [hstep]
      refine ⟨g, hg, ⟨hel, List.forall_mem_cons.mpr ⟨fun hsome => ?_, hall⟩⟩, hmem.imp_left (List.mem_cons_of_mem a), hle⟩
      rw [Option.isNone_iff_eq_none] at ha
      simp [ha] at hsome
    · have hsome : (rotEligible s a).isSome = true := by simpa [Option.isSome_iff_ne_none] using ha
      by_cases hlt : hottest s h.plots < hottest s a.plots
      · have hstep : warmer s (some h) a = some a := (if_neg ha).trans (if_pos hlt)
        obtain ⟨g, hg, ⟨hel, hall⟩, hmem, hle⟩ := ih hsome
        rw [hstep]
        exact ⟨g, hg, ⟨hel, List.forall_mem_cons.mpr ⟨fun _ => hle, hall⟩⟩, .inl (hmem.elim (List.mem_cons_of_mem a) (· ▸ List.mem_cons_self)),
          hlt.le.trans hle⟩
      · have hstep : warmer s (some h) a = some h := (if_neg ha).trans (if_neg hlt)
        obtain ⟨g, hg, ⟨hel, hall⟩, hmem, hle⟩ := ih hb
        rw [hstep]
        exact ⟨g, hg, ⟨hel, List.forall_mem_cons.mpr ⟨fun _ => (Nat.not_lt.mp hlt).trans hle, hall⟩⟩, hmem.imp_left (List.mem_cons_of_mem a), hle⟩

theorem foldl_warmer {gs : List Group} (hex : ∃ h ∈ gs, (rotEligible s h).isSome = true) :
    ∃ g ∈ gs, gs.foldl (warmer s) none = some g ∧ Hottest s gs g := by
  induction gs with
  | nil => simp at hex
  | cons a gs ih =>
    rw [List.foldl_cons]
    by_cases ha : (rotEligible s a).isNone = true
    · have hnone : ¬(rotEligible s a).isSome = true := by simpa [Option.isSome_iff_ne_none] using ha
      have hstep : warmer s none a = none := if_pos ha
      obtain ⟨h, hh, hsome⟩ := hex
      obtain ⟨g, hmem, hg, hel, hall⟩ := ih ⟨h, (List.mem_cons.mp hh).resolve_left fun he => hnone (he ▸ hsome), hsome⟩
      rw [hstep]
      exact ⟨g, List.mem_cons_of_mem a hmem, hg, hel, List.forall_mem_cons.mpr ⟨fun h => absurd h hnone, hall⟩⟩
    · have hsome : (rotEligible s a).isSome = true := by simpa [Option.isSome_iff_ne_none] using ha
      have hstep : warmer s none a = some a := if_neg ha
      obtain ⟨g, hg, ⟨hel, hall⟩, hmem, hle⟩ := foldl_warmer_some (gs := gs) hsome
      rw [hstep]
      exact ⟨g, hmem.elim (List.mem_cons_of_mem a) (· ▸ List.mem_cons_self), hg, hel, List.forall_mem_cons.mpr ⟨fun _ => hle, hall⟩⟩

/-- A group that begins to rotate to its target. -/
def rotBegun (target : List Nat) (now : Nat) (pin : Bool) (fresh : List Nat) (g : Group) : Group :=
  { g with rot := some { target := target, loaded := false, t0 := now }, unfilled := if pin then g.unfilled ++ fresh else g.unfilled }

/-- The target's plots are the group's, and it begins to rotate. -/
def rotationBegun (g : Group) (target : List Nat) (s : State) : State :=
  updGroup g.gid (rotBegun target s.clk.now (getBank s g.slot g.bank).pin (target.filter (fun p => p ∉ g.plots)))
    (takePlots g.gid g.gen (target.filter (fun p => p ∉ g.plots)) s)

/-- The hottest eligible group begins a rotation. -/
theorem rotationCheck_begins (hon : (getReg s 0x2614).testBit 0 = true) (hex : ∃ h ∈ s.groups, (rotEligible s h).isSome = true) :
    ∃ g ∈ s.groups, ∃ target, rotEligible s g = some target ∧ Hottest s s.groups g ∧
      rotationCheck [] s = rotationBegun g target (bump 15 (s.groups.filter (rotNoSpace s)).length s) := by
  obtain ⟨g, hmem, hbest, hg⟩ := foldl_warmer hex
  obtain ⟨target, htarget⟩ := Option.isSome_iff_exists.mp hg.eligible
  refine ⟨g, hmem, target, htarget, hg, ?_⟩
  have hheat : SameHeat s (bump 15 (s.groups.filter (rotNoSpace s)).length s) := bump_heat
  generalize hv : bump 15 (s.groups.filter (rotNoSpace s)).length s = v at hheat
  have hwarmer : warmer v = warmer s := by
    funext b g
    unfold warmer
    rw [hheat.rotEligible_eq, hheat.hottest_eq]
  have hbest' : v.groups.foldl (warmer v) none = some g := by rw [hwarmer, hheat.groups, hbest]
  unfold rotationCheck
  dsimp only [each, List.foldl_nil]
  refine (if_neg ?_).trans ?_
  · rw [hon]
    decide
  rw [hv]
  split
  · next hnone => exact absurd (hbest'.symm.trans hnone) (by simp)
  · next g' hsome =>
    obtain rfl : g = g' := Option.some.inj (hbest'.symm.trans hsome)
    rw [hheat.rotEligible_eq, htarget]
    have hclk : (takePlots g.gid g.gen (target.filter (fun p => p ∉ g.plots)) v).clk = v.clk := takePlots_keeps.at .clk rfl
    unfold rotationBegun rotBegun
    dsimp only
    rw [hclk]

theorem rotationBegun_gids {target : List Nat} : (rotationBegun g target s).groups.map Group.gid = s.groups.map Group.gid := by
  have hgroups : (takePlots g.gid g.gen (target.filter (fun p => p ∉ g.plots)) s).groups = s.groups := takePlots_keeps.at .groups rfl
  rw [rotationBegun, updGroup, hgroups, List.map_map]
  refine List.map_congr_left fun h _ => ?_
  rw [Function.comp]
  split <;> rfl

theorem rotationBegun_rot {target : List Nat} (hh : h ∈ (rotationBegun g target s).groups) (hgid : h.gid = g.gid) :
    h.rot = some { target := target, loaded := false, t0 := s.clk.now } := by
  obtain ⟨x, -, hx⟩ := List.mem_map.mp hh
  by_cases hxg : x.gid = g.gid
  · rw [if_pos hxg] at hx
    rw [← hx, rotBegun]
  · rw [if_neg hxg] at hx
    exact absurd (hx ▸ hgid) hxg

/-! ### Headland injection (R144, R160) -/

/-- The headland of a transition is placed on a tile's FEED channels. -/
def feedHeadlands (tr : Trans) (t : Nat) (s : State) : State :=
  each (((usedInputs s t).filter (fun i => i % 8 = 5)).eraseDups) (fun i s =>
    setFeed (4 * t + i / 8) (getFeed s (4 * t + i / 8) ++ [headTok tr (i / 8)]) s) s

/-- A group that announces a transition. -/
def announcing (tr : Trans) (g : Group) : Group := { g with trans := some tr, reload := false }

/-- The transition is announced, before any token moves. -/
def announced (g : Group) (tr : Trans) (s : State) : State :=
  each ((match findGroup (updGroup g.gid (announcing tr) s) g.gid with | some g => groupUnits g | none => []).filter (fun u => u < 1024))
    (feedHeadlands tr) (updGroup g.gid (announcing tr) s)

theorem announce_eq {tr : Trans} : announce g tr s = flowAll (announced g tr s) := rfl

theorem announced_groups {tr : Trans} : (announced g tr s).groups = (updGroup g.gid (announcing tr) s).groups := by
  have hfeed : ∀ t v, Keeps [.fab] v (feedHeadlands tr t v) := fun _ v => keeps_each (.refl v) fun _ _ hu => hu.after setFeed_keeps rfl
  exact (keeps_each (ps := [.fab]) (.refl _) fun t u hu => hu.after (hfeed t u) rfl).at .groups rfl

theorem findGroup_announced {tr : Trans} (hg : findGroup s g.gid = some h) : findGroup (announced g tr s) g.gid = some (announcing tr h) :=
  (findGroup_congr announced_groups).trans (findGroup_updGroup_some (fun _ => rfl) hg)

theorem headlandInject_due {R : Rot} (hg : findGroup s gid = some g) (hr : g.rot = some R) (hl : R.loaded = true)
    (ht : R.t0 + 1000000 * regF s 0x2620 0 16 ≤ s.clk.now) (hrun : g.run = none) (htr : g.trans = none) (hno : ∀ p ∈ g.plots, plotTokens s p = []) :
    headlandInject gid s = flowAll (announced g { gen := (g.gen + 1) % 4, cfg := g.cfg, size := g.size, turns := true } s) := by
  have hall : g.plots.all (fun p => (plotTokens s p).isEmpty) = true := by simpa using hno
  unfold headlandInject
  rw [hg]
  dsimp only
  rw [hr]
  dsimp only
  rw [if_neg, announce_eq]
  rw [hl, hrun, htr, hall, decide_eq_false (Nat.not_lt.mpr ht)]
  decide

theorem headlandInject_early {R : Rot} (hg : findGroup s gid = some g) (hr : g.rot = some R) (ht : s.clk.now < R.t0 + 1000000 * regF s 0x2620 0 16) :
    headlandInject gid s = s := by
  unfold headlandInject
  rw [hg]
  dsimp only
  rw [hr]
  exact if_pos (by simp [ht])

/-- Settles O28: an overrun by the replant's rules, a shed by what leaving and ending leave, a rotation by the choice of the hottest group, and a
headland by its announcement. -/
theorem sowerIntervenes : Obligations.SowerIntervenes := by
  unfold Obligations.SowerIntervenes
  refine ⟨?overrun, ?early, ?shedEarly, ?shed, ?reading, ?rotation, ?headland, ?headlandEarly⟩
  case overrun =>
    intro s gid elapsed g r hup hg hr hlate hgate
    have hexec : exec (.sliceOverrun gid elapsed) s = .next (readySheaves (overrun g r gid elapsed s)) :=
      (congrArg Host.Outcome.next (if_pos hup)).trans (congrArg Host.Outcome.next (sliceOverrun_late hg hr hlate hgate))
    refine ⟨_, hexec, fun p hp => (overrun_noTokens hg hp).plotTokens_eq, fun t ht => ?_⟩
    obtain ⟨p, hp, htile⟩ := List.mem_flatMap.mp ht
    obtain ⟨k, hk, rfl⟩ := List.mem_map.mp htile
    exact overrun_rested hg hp (List.mem_range.mp hk)
  case early =>
    intro s gid elapsed g r hup hg hr hearly
    exact (congrArg Host.Outcome.next (if_pos hup)).trans (congrArg Host.Outcome.next (sliceOverrun_early hg hr hearly))
  case shedEarly =>
    intro s x t0 hup hx hwait hearly
    exact (congrArg Host.Outcome.next (if_pos hup)).trans (congrArg Host.Outcome.next (cuminShed_early hx hwait hearly))
  case shed =>
    intro s x t0 hup hx hcls hwait hgrant hdue
    refine ⟨_, (congrArg Host.Outcome.next (if_pos hup)).trans (congrArg Host.Outcome.next (cuminShed_due hx hcls hgrant hwait hdue)),
      membersShed_counted, membersShed_idle, fun y hy m hm => ?_⟩
    rw [membersShed_sheaves] at hy
    exact each_leaveSheaf_members m hm y hy
  case reading =>
    intro s p r hup hoff hr
    have hread := rotationCheck_reading (p := p.val) hoff (l := r.map Fin.val) (by simpa using hr)
    refine ⟨_, (congrArg Host.Outcome.next (if_pos hup)).trans (congrArg Host.Outcome.next hread), ?_, updPlot_keeps.at .groups rfl,
      fun q hq => getPlot_updPlot_other hq⟩
    rw [getPlot_updPlot_same, sumOf, ← List.sum_eq_foldl, List.length_map]
  case rotation =>
    intro s hup hon hex
    obtain ⟨g, hmem, target, htarget, ⟨-, hall⟩, hbegin⟩ := rotationCheck_begins hon hex
    refine ⟨_, g, target, (congrArg Host.Outcome.next (if_pos hup)).trans (congrArg Host.Outcome.next hbegin), hmem, htarget, hall, ?_,
      fun h hh hgid => ?_, fun p hp hpg => ?_⟩
    · exact rotationBegun_gids.trans (congrArg (List.map Group.gid) (bump_keeps.at .groups rfl))
    · rw [rotationBegun_rot hh hgid, bump_keeps.at .clk rfl]
    · have hfresh : p ∈ target.filter (fun p => p ∉ g.plots) := List.mem_filter.mpr ⟨hp, decide_eq_true hpg⟩
      obtain ⟨hst, hgroup⟩ := takePlots_active (gid := g.gid) (gen := g.gen) (s := bump 15 (s.groups.filter (rotNoSpace s)).length s) p hfresh
      exact ⟨hgroup, hst⟩
  case headland =>
    intro s gid g r hup hg hr hl ht hrun htr hno
    have hself : findGroup s g.gid = some g := (findGroup_gid hg).symm ▸ hg
    have hfound := findGroup_announced (tr := { gen := (g.gen + 1) % 4, cfg := g.cfg, size := g.size, turns := true }) hself
    rw [findGroup_gid hg] at hfound
    exact ⟨_, _, (congrArg Host.Outcome.next (if_pos hup)).trans (congrArg Host.Outcome.next (headlandInject_due hg hr hl ht hrun htr hno)),
      hfound, rfl, rfl, rfl⟩
  case headlandEarly =>
    intro s gid g r hup hg hr ht
    exact (congrArg Host.Outcome.next (if_pos hup)).trans (congrArg Host.Outcome.next (headlandInject_early hg hr ht))

end Sys2Proof.Machine
end

section

/-!
PROOF. The Sower's passes: windows, dispatch and completion (O27).
-/

namespace Sys2Proof.Machine

variable {s t u v : State} {n k p gid sid m pass used : Nat} {g h : Group} {r : Run} {x y : Sheaf} {ms : List Nat} {f : Sheaf → Sheaf} {run : Run}

/-! ### Sheaves -/

theorem findSheaf_congr (h : t.sheaves = s.sheaves) : findSheaf t sid = findSheaf s sid := by rw [findSheaf, findSheaf, h]

theorem findSheaf_updSheaf_same (hf : ∀ x : Sheaf, (f x).sid = x.sid) : findSheaf (updSheaf sid f s) sid = (findSheaf s sid).map f := by
  have hmap := find?_map_if (p := fun x : Sheaf => decide (x.sid = sid)) (f := f) (as := s.sheaves) (by simp [hf])
  simpa [findSheaf, updSheaf] using hmap

theorem findSheaf_updSheaf_other (hf : ∀ x : Sheaf, (f x).sid = x.sid) (hk : k ≠ sid) : findSheaf (updSheaf sid f s) k = findSheaf s k := by
  have hmap := find?_map_if_other (p := fun x : Sheaf => decide (x.sid = k)) (q := fun x : Sheaf => decide (x.sid = sid)) (f := f)
    (as := s.sheaves) (by simp; omega) (by simp [hf]; omega)
  simpa [findSheaf, updSheaf] using hmap

/-- A sheaf with these members. -/
def HasMembers (sid : Nat) (ms : List Nat) (s : State) : Prop := ∃ x, findSheaf s sid = some x ∧ x.members = ms

theorem HasMembers.congr (h : HasMembers sid ms s) (ht : t.sheaves = s.sheaves) : HasMembers sid ms t := by
  unfold HasMembers
  rw [findSheaf_congr ht]
  exact h

theorem HasMembers.updSheaf (h : HasMembers sid ms s) (hf : ∀ x : Sheaf, (f x).sid = x.sid ∧ (f x).members = x.members) :
    HasMembers sid ms (updSheaf k f s) := by
  obtain ⟨x, hx, hms⟩ := h
  by_cases hk : sid = k
  · subst hk
    exact ⟨f x, by rw [findSheaf_updSheaf_same fun x => (hf x).1, hx]; rfl, (hf x).2.trans hms⟩
  · exact ⟨x, (findSheaf_updSheaf_other (fun x => (hf x).1) hk).trans hx, hms⟩

/-! ### SHEAF_WINDOW_EXPIRY (R131) -/

theorem windowExpiry_due (hx : findSheaf s sid = some x) (hforming : x.forming = true) (hdue : x.t0 + x.window ≤ s.clk.now) :
    windowExpiry sid s = readySheaves (gatherAll (closeSheaf sid s)) := by
  unfold windowExpiry
  rw [hx]
  exact if_pos (by rw [hforming, decide_eq_true hdue]; rfl)

theorem windowExpiry_early (hx : findSheaf s sid = some x) (hearly : s.clk.now < x.t0 + x.window) : windowExpiry sid s = s := by
  unfold windowExpiry
  rw [hx]
  exact if_neg (by rw [decide_eq_false (Nat.not_le.mpr hearly), Bool.and_false]; decide)

/-- A sheaf that has closed. -/
def closedAt (now : Nat) (x : Sheaf) : Sheaf := { x with forming := false, closeAt := now }

theorem findSheaf_closeSheaf (hx : findSheaf s sid = some x) (hforming : x.forming = true) :
    findSheaf (closeSheaf sid s) sid = some (closedAt s.clk.now x) := by
  unfold closeSheaf
  rw [hx]
  dsimp only
  rw [if_pos hforming]
  refine (findSheaf_congr ((bump_keeps.at .sheaves rfl).trans (bump_keeps.at .sheaves rfl))).trans
    ((findSheaf_updSheaf_same (f := closedAt s.clk.now) fun _ => rfl).trans ?_)
  rw [hx]
  rfl

/-! ### PASS_DISPATCH (R133, R135, R160) -/

theorem passRec_congr (hm : t.mem = s.mem) (hs : t.slots = s.slots) {slot b i o n : Nat} : passRec t slot b i o n = passRec s slot b i o n := by
  rw [passRec, passRec, bundleNat_congr hm, getBank_congr hs]

/-- The energy that a pass of a sheaf needs. -/
def passNeeds (x : Sheaf) (s : State) : Nat := passEnergy s x.slot x.bank x.pass (if x.cls = 0 then 1 else x.members.length)

/-- What a pass was granted beyond its need goes back. -/
def overgrantBack (x : Sheaf) (s : State) : State :=
  if passNeeds x s < x.granted.getD 0 then refund x.die (x.granted.getD 0 - passNeeds x s) (x.granted.getD 0 - x.resTaken) s else s

/-- The run that a pass begins. -/
def runBegun (x : Sheaf) (e : Nat) (s : State) : Run :=
  { sid := x.sid, pass := x.pass, members := x.members, t0 := s.clk.now, energy := min e (x.granted.getD 0),
    resTaken := min x.resTaken (min e (x.granted.getD 0)), bound := passBound s x.slot x.bank x.pass x.members.length, paused := 0 }

/-- A group that runs a pass under a generation. -/
def running (run : Run) (gen : Nat) (g : Group) : Group := { g with run := some run, tables := tset [] gen run.members g.tables }

/-- The group runs the pass and the sheaf's grant is spent. -/
def passGiven (gid gen : Nat) (x : Sheaf) (run : Run) (s : State) : State :=
  updSheaf x.sid (fun x => { x with granted := none, resTaken := 0, gateOpen := false, gateWait := false }) (updGroup gid (running run gen) s)

/-- The members of a message's first pass have rows to stage. -/
def rowsDue (x : Sheaf) (bank : Bank) (s : State) : State :=
  if x.pass = 0 ∧ bank.kv = true then
    each x.members (fun m => updMsg m (fun m => { m with staged := true, rowsOut := List.range (2 * bank.kvL * bank.newPos) })) s
  else s

/-- A pass is given to its group, before its record is checked. -/
def passSet (gid gen : Nat) (x : Sheaf) (s : State) : State :=
  rowsDue x (getBank (overgrantBack x s) x.slot x.bank)
    (passGiven gid gen x (runBegun x (passNeeds x s) (overgrantBack x s)) (overgrantBack x s))

theorem overgrantBack_keeps : Keeps [.yoke] s (overgrantBack x s) := keeps_ite refund_keeps (.refl s)

theorem passGiven_keeps {gen : Nat} : Keeps [.groups, .sheaves] s (passGiven gid gen x run s) := by
  have hgroup : Keeps [.groups] s (updGroup gid (running run gen) s) := updGroup_keeps
  exact (hgroup.weaken rfl).after updSheaf_keeps rfl

theorem rowsDue_keeps {bank : Bank} : Keeps [.msgs] s (rowsDue x bank s) :=
  keeps_ite (keeps_each (.refl s) fun _ _ hu => hu.after updMsg_keeps rfl) (.refl s)

theorem passSet_keeps {gen : Nat} : Keeps [.yoke, .groups, .sheaves, .msgs] s (passSet gid gen x s) := by
  have hback : Keeps [.yoke] s (overgrantBack x s) := overgrantBack_keeps
  exact ((hback.weaken rfl).after passGiven_keeps rfl).after rowsDue_keeps rfl

theorem findGroup_passSet {gen : Nat} (hg : findGroup s gid = some g) :
    findGroup (passSet gid gen x s) gid = some (running (runBegun x (passNeeds x s) (overgrantBack x s)) gen g) := by
  have hback : findGroup (overgrantBack x s) gid = some g := (findGroup_congr (overgrantBack_keeps.at .groups rfl)).trans hg
  rw [passSet, findGroup_congr (rowsDue_keeps.at .groups rfl), passGiven, findGroup_congr (updSheaf_keeps.at .groups rfl)]
  exact findGroup_updGroup_some (fun _ => rfl) hback

/-- No half of a pass's record, nor of its gate word, is poisoned. -/
def RecordClean (x : Sheaf) (s : State) : Prop :=
  ∀ h ∈ bundleHalves x.slot x.bank ((getBank s x.slot x.bank).passOff + 192 * x.pass) 192 ++
    bundleHalves x.slot x.bank (passRec s x.slot x.bank x.pass 8 8) 4, poisoned s h = false

theorem RecordClean.congr (h : RecordClean x s) (hm : t.mem = s.mem) (hs : t.slots = s.slots) : RecordClean x t := by
  unfold RecordClean
  rw [getBank_congr hs, passRec_congr hm hs]
  simp only [poisoned, hm]
  exact h

theorem checkRecord_clean (h : RecordClean x s) : checkRecord gid x s = s := by
  have hbad : (bundleHalves x.slot x.bank ((getBank s x.slot x.bank).passOff + 192 * x.pass) 192 ++
      bundleHalves x.slot x.bank (passRec s x.slot x.bank x.pass 8 8) 4).filter (poisoned s) = [] :=
    List.filter_eq_nil_iff.mpr fun a ha => by rw [h a ha]; decide
  unfold checkRecord
  dsimp only
  rw [hbad]
  rfl

/-- The trace record of a pass's start. -/
def passTraced (g : Group) (x : Sheaf) (gen : Nat) (s : State) : State :=
  capture (groupDie g) 3 (1040 + groupDie g)
    (leBytes 4 x.slot ++ leBytes 4 (passLayer s x.slot x.bank x.pass) ++ leBytes 4 x.members.length ++ leBytes 4 gen) s

/-- The transition that a pass announces. -/
def passTrans (g : Group) (x : Sheaf) (s : State) : Trans where
  gen := (g.gen + 1) % 4
  cfg := passCfg s x.slot x.bank x.pass
  size := x.members.length
  turns := turnsNow g

/-- The end of a pass's start: its record traced, the group announces it. -/
def passAnnounced (gid gen : Nat) (g : Group) (x : Sheaf) (s : State) : State :=
  match findGroup (passTraced g x gen s) gid with
  | some h => announce h { gen := gen, cfg := passCfg (passTraced g x gen s) x.slot x.bank x.pass, size := x.members.length, turns := turnsNow h }
      (passTraced g x gen s)
  | none => passTraced g x gen s

theorem startPass_eq (hg : findGroup s gid = some g) (hx : findSheaf s x.sid = some x) : startPass gid x.sid s =
    passAnnounced gid ((g.gen + 1) % 4) g x (checkRecord gid x (passSet gid ((g.gen + 1) % 4) x s)) := by
  unfold startPass
  rw [hg, hx]
  rfl

/-- A pass whose record is clean starts with the headland of its generation. -/
theorem startPass_clean (hg : findGroup s gid = some g) (hx : findSheaf s x.sid = some x) (hclean : RecordClean x s) :
    ∃ v run, startPass gid x.sid s = flowAll (announced (running run ((g.gen + 1) % 4) g) (passTrans g x s) v) ∧
      findGroup v gid = some (running run ((g.gen + 1) % 4) g) ∧ run.sid = x.sid ∧ run.pass = x.pass ∧ run.members = x.members ∧
      run.t0 = s.clk.now := by
  refine ⟨passTraced g x ((g.gen + 1) % 4) (passSet gid ((g.gen + 1) % 4) x s), runBegun x (passNeeds x s) (overgrantBack x s), ?_, ?_, rfl, rfl, rfl, ?_⟩
  · have hkept := passSet_keeps (gid := gid) (gen := (g.gen + 1) % 4) (x := x) (s := s)
    have hrec : checkRecord gid x (passSet gid ((g.gen + 1) % 4) x s) = passSet gid ((g.gen + 1) % 4) x s :=
      checkRecord_clean (hclean.congr (hkept.mem_eq rfl) (hkept.at .slots rfl))
    have hgroup := findGroup_passSet (x := x) (gen := (g.gen + 1) % 4) hg
    have htraced : Keeps [.trc] (passSet gid ((g.gen + 1) % 4) x s) (passTraced g x ((g.gen + 1) % 4) (passSet gid ((g.gen + 1) % 4) x s)) :=
      capture_keeps
    have hcfg : passCfg (passTraced g x ((g.gen + 1) % 4) (passSet gid ((g.gen + 1) % 4) x s)) x.slot x.bank x.pass = passCfg s x.slot x.bank x.pass :=
      passRec_congr ((htraced.mem_eq rfl).trans (hkept.mem_eq rfl)) ((htraced.at .slots rfl).trans (hkept.at .slots rfl))
    rw [startPass_eq hg hx, hrec, passAnnounced, (findGroup_congr (htraced.at .groups rfl)).trans hgroup]
    dsimp only
    rw [hcfg, announce_eq]
    rfl
  · exact (findGroup_congr (capture_keeps.at .groups rfl)).trans (findGroup_passSet hg)
  · exact congrArg Clk.now (overgrantBack_keeps.at .clk rfl)

/-- A free group with plots that need no filling takes the first granted sheaf of its own. -/
theorem passDispatch_starts (hg : findGroup (readySheaves s) gid = some g) (hrun : g.run = none) (htrans : g.trans = none) (hplots : g.plots ≠ [])
    (hfilled : g.unfilled = []) (hx : (closedSheaves (readySheaves s)).find? (fun x => x.granted.isSome && !x.members.isEmpty &&
      (match sheafGroup (readySheaves s) x with | some h => decide (h.gid = gid) | none => false)) = some x) :
    passDispatch gid s = startPass gid x.sid (readySheaves s) := by
  unfold passDispatch
  dsimp only
  generalize readySheaves s = u at hg hx ⊢
  rw [hg]
  refine (if_neg (by simp [hrun, htrans, hplots, hfilled])).trans ?_
  split
  · next hnone => exact absurd (hx.symm.trans hnone) (by simp)
  · next y hsome => rw [Option.some.inj (hx.symm.trans hsome)]

theorem passDispatch_busy (h : ∀ g, findGroup (readySheaves s) gid = some g → g.run.isSome = true ∨ g.trans.isSome = true ∨ g.plots = [] ∨ g.unfilled ≠ []) :
    passDispatch gid s = readySheaves s := by
  unfold passDispatch
  dsimp only
  generalize readySheaves s = u at h ⊢
  split
  · rfl
  · next g hg =>
    refine if_pos ?_
    rcases h g hg with hrun | htrans | hplots | hfill
    · simp [hrun]
    · simp [htrans]
    · simp [hplots]
    · simp [hfill]

/-! ### PASS_COMPLETE (R136) -/

theorem releaseWaiters_members (h : HasMembers sid ms s) : HasMembers sid ms (releaseWaiters k s) := by
  unfold releaseWaiters
  split
  · exact h
  · refine each_preserves (P := HasMembers sid ms) (h.congr rfl) fun w u hu => ?_
    have hanswered : HasMembers sid ms (synAnswer w.req k (synVal u k) u) := hu.congr (synAnswer_keeps.at .sheaves rfl)
    unfold resumeWaiter
    split
    · exact hanswered.congr (updTile_keeps.at .sheaves rfl)
    · split
      · exact hanswered.congr (complete_keeps.at .sheaves rfl)
      · exact hanswered.updSheaf fun _ => ⟨rfl, rfl⟩

/-- The post of a gate word opens gates, but no sheaf loses a member. -/
theorem applyPost_members {d slot b : Nat} (h : HasMembers sid ms s) : HasMembers sid ms (applyPost d slot b pass s) := by
  unfold applyPost
  split
  · dsimp only
    split
    · rw [synPerform_eq]
      exact releaseWaiters_members (h.congr (performed_keeps.at .sheaves rfl))
    · exact h
  · exact h

/-- What the group of an ended pass no longer drains. -/
def drainsDropped (g : Group) (s : State) : State :=
  { s with fab := { s.fab with drain := s.fab.drain.filter (fun x => decide (plotOfTile x.1 ∉ g.plots) || stagedToken s g x) } }

/-- A group that runs nothing. -/
def idled (g : Group) : Group := { g with run := none }

/-- A pass is over, before its sheaf goes on. -/
def passOver (gid used : Nat) (g : Group) (r : Run) (spills : List (Nat × Nat)) (s : State) : State :=
  applyPost (groupDie g) g.slot g.bank r.pass
    (drainsDropped g (each spills (fun x s => spill g x.1 x.2 s) (updGroup gid idled (settleRun g r used s))))

theorem passOver_keeps {spills : List (Nat × Nat)} :
    Keeps [.regSyn, .cnt, .hif, .groups, .plots, .tiles, .fab, .waits, .yoke, .sheaves, .links, .trc, .alert] s (passOver gid used g r spills s) := by
  have hsettled : Keeps [.cnt, .hif, .yoke, .alert] s (settleRun g r used s) := settleRun_keeps
  have hidled : Keeps [.cnt, .hif, .groups, .plots, .fab, .yoke, .alert] s (updGroup gid idled (settleRun g r used s)) :=
    (hsettled.weaken rfl).after updGroup_keeps rfl
  have hdropped : Keeps [.cnt, .hif, .groups, .plots, .fab, .yoke, .alert] s
      (drainsDropped g (each spills (fun x s => spill g x.1 x.2 s) (updGroup gid idled (settleRun g r used s)))) :=
    Keeps.upd_fab (keeps_each hidled fun _ _ hu => hu.after spill_keeps rfl) rfl
  exact (hdropped.weaken rfl).after applyPost_keeps rfl

theorem findGroup_passOver {spills : List (Nat × Nat)} (hg : findGroup s gid = some g) :
    findGroup (passOver gid used g r spills s) gid = some (idled g) := by
  have hspilled : Keeps [.plots, .fab] (updGroup gid idled (settleRun g r used s))
      (each spills (fun x s => spill g x.1 x.2 s) (updGroup gid idled (settleRun g r used s))) :=
    keeps_each (.refl _) fun _ _ hu => hu.after spill_keeps rfl
  have hover := applyPost_keeps (a0 := groupDie g) (a1 := g.slot) (a2 := g.bank) (a3 := r.pass)
    (s := drainsDropped g (each spills (fun x s => spill g x.1 x.2 s) (updGroup gid idled (settleRun g r used s))))
  have hgroups : (passOver gid used g r spills s).groups = (updGroup gid idled (settleRun g r used s)).groups :=
    (hover.at .groups rfl).trans (hspilled.at .groups rfl)
  rw [findGroup_congr hgroups]
  exact findGroup_updGroup_some (fun _ => rfl) ((findGroup_congr (settleRun_keeps.at .groups rfl)).trans hg)

theorem passOver_members {spills : List (Nat × Nat)} (h : HasMembers sid ms s) : HasMembers sid ms (passOver gid used g r spills s) := by
  have hspilled : Keeps [.plots, .fab] (updGroup gid idled (settleRun g r used s))
      (each spills (fun x s => spill g x.1 x.2 s) (updGroup gid idled (settleRun g r used s))) :=
    keeps_each (.refl _) fun _ _ hu => hu.after spill_keeps rfl
  have hsettled : (settleRun g r used s).sheaves = s.sheaves := settleRun_keeps.at .sheaves rfl
  exact applyPost_members (h.congr ((hspilled.at .sheaves rfl).trans hsettled))

/-- A message after its last pass: its output goes to the reply builder unless it is marked (R167). -/
def outMsg (pass : Nat) (out : List Byte) (m : Msg) : Msg :=
  { m with loc := .output, pass := pass, outputs := if m.status.isNone && !m.held then some out else none }

/-- The output of a message among a pass's. -/
def outOf (outs : List (Nat × List Byte)) (m : Nat) : List Byte := ((outs.find? (fun o => o.1 = m)).map Prod.snd).getD []

/-- The members' outputs are handed to the reply builder, and their sheaf is gone. -/
def handedOut (sid pass : Nat) (outs : List (Nat × List Byte)) (ms : List Nat) (s : State) : State :=
  let s := each ms (fun m => updMsg m (outMsg pass (outOf outs m))) s
  { s with sheaves := s.sheaves.filter (fun y => y.sid ≠ sid) }

/-- The sheaf goes on to its next pass with its members. -/
def movedOn (sid pass : Nat) (ms : List Nat) (s : State) : State :=
  updSheaf sid (fun x => { x with pass := pass }) (each ms (fun m => updMsg m (fun m => { m with pass := pass })) s)

theorem handedOut_groups {outs : List (Nat × List Byte)} : (handedOut sid pass outs ms s).groups = s.groups :=
  (keeps_each (ps := [.msgs]) (.refl s) fun _ _ hu => hu.after updMsg_keeps rfl).at .groups rfl

theorem movedOn_groups : (movedOn sid pass ms s).groups = s.groups :=
  (keeps_each (ps := [.msgs]) (.refl s) fun _ _ hu => hu.after updMsg_keeps rfl).at .groups rfl

theorem findSheaf_handedOut {outs : List (Nat × List Byte)} : findSheaf (handedOut sid pass outs ms s) sid = none := by
  rw [findSheaf, handedOut]
  exact List.find?_eq_none.mpr fun x hx => by simpa using (List.mem_filter.mp hx).2

/-- Messages that are each changed by a change of their own which is done once for all. -/
theorem findMsg_each_updMsg {f : Nat → Msg → Msg} (hf : ∀ k m, (f k m).mid = m.mid) (honce : ∀ k m, f k (f k m) = f k m) :
    findMsg (each ms (fun m => updMsg m (f m)) s) k = if k ∈ ms then (findMsg s k).map (f k) else findMsg s k := by
  induction ms generalizing s with
  | nil => rfl
  | cons a ms ih =>
    have hstep : each (a :: ms) (fun m => updMsg m (f m)) s = each ms (fun m => updMsg m (f m)) (updMsg a (f a) s) := rfl
    rw [hstep, ih]
    by_cases hk : k = a
    · subst hk
      rw [findMsg_updMsg_same fun m hm => (hf k m).trans hm, if_pos List.mem_cons_self, Option.map_map]
      have hcomp : f k ∘ f k = f k := funext (honce k)
      rw [hcomp, ite_self]
    · rw [findMsg_updMsg_other hk fun m hm => (hf a m).trans hm]
      exact if_congr (by simp [hk]) rfl rfl

theorem findMsg_handedOut {outs : List (Nat × List Byte)} (hk : k ∈ ms) :
    findMsg (handedOut sid pass outs ms s) k = (findMsg s k).map (outMsg pass (outOf outs k)) := by
  have heach := findMsg_each_updMsg (s := s) (ms := ms) (k := k) (f := fun m => outMsg pass (outOf outs m)) (fun _ _ => rfl) fun _ _ => rfl
  rw [if_pos hk] at heach
  exact heach

/-- Where the sheaf of an ended pass goes. -/
def sheafWent (g : Group) (r : Run) (outs : List (Nat × List Byte)) (s : State) : State :=
  match findSheaf s r.sid with
  | none => s
  | some x =>
    if x.members.isEmpty then { s with sheaves := s.sheaves.filter (fun y => y.sid ≠ r.sid) }
    else if (getBank s g.slot g.bank).npass ≤ r.pass + 1 then handedOut r.sid (r.pass + 1) outs x.members s
    else movedOn r.sid (r.pass + 1) x.members s

section
variable {outs : List (Nat × List Byte)} {spills : List (Nat × Nat)}

theorem passComplete_eq (hg : findGroup s gid = some g) (hr : g.run = some r) (ht : g.trans = none) :
    passComplete gid used outs spills s = readySheaves (gatherAll (sheafWent g r outs (passOver gid used g r spills s))) := by
  unfold passComplete
  rw [hg]
  dsimp only
  rw [hr]
  exact if_neg (by simp [ht])

theorem sheafWent_last (hx : HasMembers r.sid ms s) (hlast : (getBank s g.slot g.bank).npass ≤ r.pass + 1) :
    sheafWent g r outs s = handedOut r.sid (r.pass + 1) outs ms s := by
  obtain ⟨x, hx, rfl⟩ := hx
  unfold sheafWent
  rw [hx]
  dsimp only
  by_cases hempty : x.members.isEmpty = true
  · rw [if_pos hempty, List.isEmpty_iff.mp hempty]
    congr
  · exact (if_neg hempty).trans (if_pos hlast)

theorem sheafWent_next (hx : HasMembers r.sid ms s) (hms : ms ≠ []) (hnext : r.pass + 1 < (getBank s g.slot g.bank).npass) :
    sheafWent g r outs s = movedOn r.sid (r.pass + 1) ms s := by
  obtain ⟨x, hx, rfl⟩ := hx
  unfold sheafWent
  rw [hx]
  exact (if_neg (by simpa using hms)).trans (if_neg (Nat.not_le.mpr hnext))

/-- The last pass of a sheaf ends. -/
theorem passComplete_last (hg : findGroup s gid = some g) (hr : g.run = some r) (ht : g.trans = none) (hx : HasMembers r.sid ms s)
    (hlast : (getBank s g.slot g.bank).npass ≤ r.pass + 1) : passComplete gid used outs spills s =
      readySheaves (gatherAll (handedOut r.sid (r.pass + 1) outs ms (passOver gid used g r spills s))) := by
  rw [passComplete_eq hg hr ht, sheafWent_last (passOver_members hx)]
  rwa [getBank_congr (passOver_keeps.at .slots rfl)]

/-- A pass of a sheaf ends that is not its last. -/
theorem passComplete_next (hg : findGroup s gid = some g) (hr : g.run = some r) (ht : g.trans = none) (hx : HasMembers r.sid ms s)
    (hms : ms ≠ []) (hnext : r.pass + 1 < (getBank s g.slot g.bank).npass) : passComplete gid used outs spills s =
      readySheaves (gatherAll (movedOn r.sid (r.pass + 1) ms (passOver gid used g r spills s))) := by
  rw [passComplete_eq hg hr ht, sheafWent_next (passOver_members hx) hms]
  rwa [getBank_congr (passOver_keeps.at .slots rfl)]

end

theorem findSheaf_movedOn (hx : HasMembers sid ms s) : ∃ y, findSheaf (movedOn sid pass ms s) sid = some y ∧ y.pass = pass ∧ y.members = ms := by
  obtain ⟨x, hx, hms⟩ := hx
  refine ⟨{ x with pass := pass }, ?_, rfl, hms⟩
  have hsame : findSheaf (each ms (fun m => updMsg m (fun m => { m with pass := pass })) s) sid = some x :=
    (findSheaf_congr ((keeps_each (ps := [.msgs]) (.refl s) fun _ _ hu => hu.after updMsg_keeps rfl).at .sheaves rfl)).trans hx
  exact (findSheaf_updSheaf_same (f := fun x => { x with pass := pass }) fun _ => rfl).trans (by rw [hsame]; rfl)

/-- Settles O27: a window by what closing leaves, a dispatch by what a pass's start gives its group before tokens move, and a completion by
where the sheaf of an ended pass goes. -/
theorem sowerPasses : Obligations.SowerPasses := by
  unfold Obligations.SowerPasses
  refine ⟨?due, ?early, ?starts, ?busy, ?last, ?next⟩
  case due =>
    intro s x hup hx hforming hdue
    exact ⟨_, (congrArg Host.Outcome.next (if_pos hup)).trans (congrArg Host.Outcome.next (windowExpiry_due hx hforming hdue)),
      findSheaf_closeSheaf hx hforming, closeSheaf_keeps.at .msgs rfl⟩
  case early =>
    intro s x hup hx hearly
    exact (congrArg Host.Outcome.next (if_pos hup)).trans (congrArg Host.Outcome.next (windowExpiry_early hx hearly))
  case starts =>
    intro s u gid g x hup hu hg hrun htrans hplots hfilled hfirst hx hclean
    have hclk : u.clk.now = s.clk.now := by rw [hu, readySheaves_clk]
    have hdispatch : passDispatch gid s = startPass gid x.sid u := by
      subst hu
      exact passDispatch_starts hg hrun htrans hplots hfilled hfirst
    obtain ⟨v, run, hstart, hfound, hsid, hpass, hmembers, ht0⟩ := startPass_clean hg hx hclean
    have hgid : (running run ((g.gen + 1) % 4) g).gid = gid := findGroup_gid hfound
    have hself : findGroup v (running run ((g.gen + 1) % 4) g).gid = some (running run ((g.gen + 1) % 4) g) := by rw [hgid]; exact hfound
    have hann := findGroup_announced (tr := passTrans g x u) hself
    rw [hgid] at hann
    refine ⟨_, _, run, passTrans g x u, (congrArg Host.Outcome.next (if_pos hup)).trans (congrArg Host.Outcome.next (hdispatch.trans hstart)),
      hann, rfl, hsid, hpass, hmembers, ht0.trans hclk, rfl, rfl, rfl, rfl, rfl, ?_, rfl, rfl⟩
    exact (tget_tset_same _).trans hmembers
  case busy =>
    intro s u gid hup hu h
    subst hu
    exact (congrArg Host.Outcome.next (if_pos hup)).trans (congrArg Host.Outcome.next (passDispatch_busy h))
  case last =>
    intro s gid used outs spills g r x hup hg hr ht hx hlast
    refine ⟨_, (congrArg Host.Outcome.next (if_pos hup)).trans (congrArg Host.Outcome.next (passComplete_last hg hr ht ⟨x, hx, rfl⟩ hlast)),
      (findGroup_congr handedOut_groups).trans (findGroup_passOver hg), findSheaf_handedOut, fun m hm w hw => ?_⟩
    refine ⟨outMsg (r.pass + 1) (outOf outs m) w, ?_, rfl, rfl, rfl⟩
    rw [findMsg_handedOut hm, findMsg_congr (passOver_keeps.at .msgs rfl), hw]
    rfl
  case next =>
    intro s gid used outs spills g r x hup hg hr ht hx hms hnext
    obtain ⟨y, hy, hpass, hmembers⟩ := findSheaf_movedOn (pass := r.pass + 1) (passOver_members (gid := gid) (used := used) (g := g) (r := r)
      (spills := spills.map (fun x => (x.1.val, x.2.val))) (show HasMembers r.sid x.members s from ⟨x, hx, rfl⟩))
    exact ⟨_, y, (congrArg Host.Outcome.next (if_pos hup)).trans (congrArg Host.Outcome.next (passComplete_next hg hr ht ⟨x, hx, rfl⟩ hms hnext)),
      (findGroup_congr movedOn_groups).trans (findGroup_passOver hg), hy, hpass, hmembers⟩

end Sys2Proof.Machine
end

section

/-!
PROOF. Register writes by the fields' access types, and the words of TST_DATA (O14).
-/

namespace Sys2Proof.Machine

variable {s t : State} {n m i off old v k a : Nat} {f : RegField} {fs : List RegField} {r : RegRow} {c : Acc}

/-! ### Bits -/

theorem add_eq_or (h : n &&& m = 0) : n + m = n ||| m := by
  have hn : n < 2 ^ (n + m) := (Nat.le_add_right n m).trans_lt Nat.lt_two_pow_self
  have hm : m < 2 ^ (n + m) := (Nat.le_add_left m n).trans_lt Nat.lt_two_pow_self
  have hsum : n + m < 2 ^ (n + m) := Nat.lt_two_pow_self
  have hand : BitVec.ofNat (n + m) n &&& BitVec.ofNat (n + m) m = 0#(n + m) :=
    BitVec.eq_of_toNat_eq (by simp [Nat.mod_eq_of_lt hn, Nat.mod_eq_of_lt hm, h])
  have hadd := congrArg BitVec.toNat (BitVec.add_eq_or_of_and_eq_zero _ _ hand)
  simpa [Nat.mod_eq_of_lt hn, Nat.mod_eq_of_lt hm, Nat.mod_eq_of_lt hsum] using hadd

/-- Two numbers without a bit in common. -/
theorem testBit_add (h : ∀ i, n.testBit i = true → m.testBit i = false) : (n + m).testBit i = (n.testBit i || m.testBit i) := by
  have hand : n &&& m = 0 := Nat.eq_of_testBit_eq fun j => by
    rw [Nat.testBit_and, Nat.zero_testBit]
    cases hj : n.testBit j with
    | false => rfl
    | true => exact h j hj
  rw [add_eq_or hand, Nat.testBit_or]

theorem testBit_sub_and : (n - (n &&& m)).testBit i = (n.testBit i && !m.testBit i) := by
  have hsum : (n &&& m) + Nat.ldiff n m = n := by
    refine Nat.eq_of_testBit_eq fun j => ?_
    rw [testBit_add fun j hj => ?_, Nat.testBit_and, Nat.testBit_ldiff]
    · cases n.testBit j <;> cases m.testBit j <;> rfl
    · rw [Nat.testBit_and, Bool.and_eq_true] at hj
      rw [Nat.testBit_ldiff, hj.2, Bool.not_true, Bool.and_false]
  rw [← Nat.testBit_ldiff]
  congr
  omega

theorem testBit_bitsOf {w lo len : Nat} : (bitsOf w lo len).testBit i = (decide (i < len) && w.testBit (lo + i)) := by
  rw [bitsOf, Nat.testBit_mod_two_pow, Nat.testBit_shiftRight]

/-! ### One field (R5, R444) -/

/-- A bit of a field that takes a write. -/
def accBit (c : Acc) (old new : Bool) : Bool :=
  match c with
  | .rw1c => old && !new
  | .wo => false
  | .ro | .rw | .rwl | .rw1s | .rwPage | .rwRing | .rwSq | .rwBq | .rwField | .rwTest => new

/-- A bit of a field after a write. -/
def fieldBit (s : State) (off old v : Nat) (f : RegField) (i : Nat) : Bool :=
  if fieldLocked s f.acc off then old.testBit i else accBit f.acc (old.testBit i) (v.testBit i)

/-- A field that starts no higher than it ends. -/
theorem testBit_writeField (hf : f.lo ≤ f.hi) :
    (writeField s off old v f).1.testBit i = (decide (f.lo ≤ i) && decide (i ≤ f.hi) && fieldBit s off old v f i) := by
  have hplace : ∀ x : Nat, ∀ b : Bool, (f.lo ≤ i → x.testBit (i - f.lo) = (decide (i ≤ f.hi) && b)) →
      (x * 2 ^ f.lo).testBit i = (decide (f.lo ≤ i) && decide (i ≤ f.hi) && b) := by
    intro x b hx
    rw [Nat.testBit_mul_two_pow, Bool.and_assoc]
    by_cases hlo : f.lo ≤ i
    · rw [hx hlo]
    · rw [decide_eq_false hlo, Bool.false_and, Bool.false_and]
  have hbits : ∀ w : Nat, f.lo ≤ i → (bitsOf w f.lo (f.hi - f.lo + 1)).testBit (i - f.lo) = (decide (i ≤ f.hi) && w.testBit i) := by
    intro w hlo
    rw [testBit_bitsOf, Nat.add_sub_cancel' hlo]
    congr 1
    exact decide_eq_decide.mpr (by omega)
  unfold writeField fieldBit
  dsimp only
  split
  · exact hplace _ _ fun hlo => hbits _ hlo
  · generalize f.acc = c
    cases c
    case rw1c =>
      refine hplace _ _ fun hlo => ?_
      rw [testBit_sub_and, hbits _ hlo, hbits _ hlo, accBit]
      cases decide (i ≤ f.hi) <;> simp
    case wo => simp [accBit]
    all_goals exact hplace _ _ fun hlo => hbits _ hlo

theorem fieldBit_takes (s : State) (f : RegField) (off old v i : Nat) :
    FieldTakes s f off (old.testBit i) (v.testBit i) (fieldBit s off old v f i) := by
  unfold FieldTakes fieldBit
  generalize f.acc = c
  cases c <;> rfl

/-! ### The fields of a register -/

/-- Fields of a 32-bit word that share no bit. -/
def WordFields (fs : List RegField) : Prop :=
  (∀ f ∈ fs, f.lo ≤ f.hi ∧ f.hi < 32) ∧ fs.Pairwise (fun f g => f.hi < g.lo ∨ g.hi < f.lo)

/-- The bits of a write, field by field. -/
theorem testBit_foldl_writeField (hw : WordFields fs) {b : Nat} {fl : Bool} (hb : ∀ f ∈ fs, ∀ i, f.lo ≤ i → i ≤ f.hi → b.testBit i = false) :
    (fs.foldl (fun a f => let x := writeField s off old v f; (a.1 + x.1, a.2 || x.2)) (b, fl)).1.testBit i =
      (b.testBit i || fs.any (fun f => (writeField s off old v f).1.testBit i)) := by
  induction fs generalizing b fl with
  | nil => simp
  | cons f fs ih =>
    obtain ⟨hword, happart⟩ := hw
    obtain ⟨hf, hword⟩ := List.forall_mem_cons.mp hword
    obtain ⟨hfs, happart⟩ := List.pairwise_cons.mp happart
    have hbit : ∀ j, (b + (writeField s off old v f).1).testBit j = (b.testBit j || (writeField s off old v f).1.testBit j) := by
      intro j
      refine testBit_add fun j hj => ?_
      rw [testBit_writeField hf.1]
      by_cases hin : f.lo ≤ j ∧ j ≤ f.hi
      · rw [hb f List.mem_cons_self j hin.1 hin.2] at hj
        exact absurd hj (by decide)
      · rcases not_and_or.mp hin with hlo | hhi
        · simp [hlo]
        · simp [hhi]
    rw [List.foldl_cons]
    dsimp only
    rw [ih ⟨hword, happart⟩, hbit, List.any_cons, Bool.or_assoc]
    intro g hg j hlo hhi
    rw [hbit, hb g (List.mem_cons_of_mem f hg) j hlo hhi, testBit_writeField hf.1, Bool.false_or]
    have hout : ¬(f.lo ≤ j ∧ j ≤ f.hi) := by
      rcases hfs g hg with h | h <;> omega
    rcases not_and_or.mp hout with h | h
    · simp [h]
    · simp [h]

theorem flag_foldl_writeField {b : Nat} {fl : Bool} :
    (fs.foldl (fun a f => let x := writeField s off old v f; (a.1 + x.1, a.2 || x.2)) (b, fl)).2 =
      (fl || fs.any (fun f => (writeField s off old v f).2)) := by
  induction fs generalizing b fl with
  | nil => simp
  | cons f fs ih =>
    rw [List.foldl_cons]
    dsimp only
    rw [ih, List.any_cons, Bool.or_assoc]

/-- Every register of the map is a word of fields that share no bit. -/
theorem regRows_wordFields : ∀ r ∈ regRows,
    (∀ f ∈ r.fields, f.lo ≤ f.hi ∧ f.hi < 32) ∧ r.fields.Pairwise (fun f g => f.hi < g.lo ∨ g.hi < f.lo) := by
  decide +kernel

theorem mem_of_findReg {rs : List RegRow} (h : findReg rs off = some (r, k)) : r ∈ rs := by
  induction rs with
  | nil => simp [findReg] at h
  | cons x rs ih =>
    unfold findReg at h
    split at h
    · obtain ⟨rfl, -⟩ := Prod.mk.inj (Option.some.inj h)
      exact List.mem_cons_self
    · exact List.mem_cons_of_mem x (ih h)

theorem wordFields_of_regAt (h : regAt off = some (r, k)) : WordFields r.fields := regRows_wordFields r (mem_of_findReg h)

theorem testBit_writeFields (hw : WordFields fs) : (writeFields s off old v fs).1.testBit i =
    fs.any (fun f => decide (f.lo ≤ i) && decide (i ≤ f.hi) && fieldBit s off old v f i) := by
  have hbits := testBit_foldl_writeField (s := s) (off := off) (old := old) (v := v) (i := i) hw (b := 0) (fl := false) fun _ _ j _ _ => Nat.zero_testBit j
  rw [Nat.zero_testBit, Bool.false_or] at hbits
  refine hbits.trans (Bool.eq_iff_iff.mpr ?_)
  rw [List.any_eq_true, List.any_eq_true]
  exact exists_congr fun f => and_congr_right fun hf => by rw [testBit_writeField (hw.1 f hf).1]

/-- The fields keep below bit 32. -/
theorem writeFields_lt (hw : WordFields fs) : (writeFields s off old v fs).1 < 2 ^ 32 := by
  refine Nat.lt_pow_two_of_testBit _ fun i hi => ?_
  rw [testBit_writeFields hw, List.any_eq_false]
  intro f hf
  have hhi := (hw.1 f hf).2
  simp [show ¬i ≤ f.hi by omega]

/-- A bit of a field is that field's. -/
theorem testBit_writeFields_mem (hw : WordFields fs) (hf : f ∈ fs) (hlo : f.lo ≤ i) (hhi : i ≤ f.hi) :
    (writeFields s off old v fs).1.testBit i = fieldBit s off old v f i := by
  rw [testBit_writeFields hw]
  cases hbit : fieldBit s off old v f i with
  | true => exact List.any_eq_true.mpr ⟨f, hf, by simp [hlo, hhi, hbit]⟩
  | false =>
    refine List.any_eq_false.mpr fun g hg => ?_
    by_cases hfg : g = f
    · simp [hfg, hbit]
    · have hsym : Std.Symm (fun f g : RegField => f.hi < g.lo ∨ g.hi < f.lo) := ⟨fun _ _ h => h.symm⟩
      rcases hw.2.forall hg hf hfg with h | h
      · simp [show ¬i ≤ g.hi by omega]
      · simp [show ¬g.lo ≤ i by omega]

theorem testBit_writeFields_none (hw : WordFields fs) (hi : ∀ f ∈ fs, i < f.lo ∨ f.hi < i) : (writeFields s off old v fs).1.testBit i = false := by
  rw [testBit_writeFields hw, List.any_eq_false]
  intro f hf
  rcases hi f hf with h | h
  · simp [show ¬f.lo ≤ i by omega]
  · simp [show ¬i ≤ f.hi by omega]

/-- A write is flagged for a field that does not take another value. -/
theorem flagged_iff : (writeFields s off old v fs).2 = true ↔ ∃ f ∈ fs, fieldLocked s f.acc off = true ∧ lockFlags f.acc = true ∧
    bitsOf v f.lo (f.hi - f.lo + 1) ≠ bitsOf old f.lo (f.hi - f.lo + 1) := by
  have hflag := flag_foldl_writeField (fs := fs) (s := s) (off := off) (old := old) (v := v) (b := 0) (fl := false)
  have hone : ∀ f, (writeField s off old v f).2 = true ↔ fieldLocked s f.acc off = true ∧ lockFlags f.acc = true ∧
      bitsOf v f.lo (f.hi - f.lo + 1) ≠ bitsOf old f.lo (f.hi - f.lo + 1) := by
    intro f
    unfold writeField
    dsimp only
    split
    · next hl => simp [hl]
    · next hl =>
      refine ⟨fun h => ?_, fun h => absurd h.1 hl⟩
      split at h <;> simp at h
  rw [writeFields, hflag, Bool.false_or, List.any_eq_true]
  exact ⟨fun ⟨f, hf, h⟩ => ⟨f, hf, (hone f).mp h⟩, fun ⟨f, hf, h⟩ => ⟨f, hf, (hone f).mpr h⟩⟩

/-- What a flagged write leaves in GLB_LOCK_VIOL. -/
theorem violWord (h4 : a % 4 = 0) (h16 : a < 2 ^ 16) : (1 ||| (a &&& 0xFFFC)) % 2 ^ 32 = a + 1 := by
  have hmask : a &&& 0xFFFC = a := by
    refine Nat.eq_of_testBit_eq fun j => ?_
    have hconst : (0xFFFC : Nat) = (2 ^ 14 - 1) * 2 ^ 2 := rfl
    rw [Nat.testBit_and, hconst, Nat.testBit_mul_two_pow, Nat.testBit_two_pow_sub_one]
    cases hj : a.testBit j with
    | false => rfl
    | true =>
      have hlo : 2 ≤ j := by
        by_contra hlt
        have hmod : (a % 2 ^ 2).testBit j = true := by rw [Nat.testBit_mod_two_pow, hj, decide_eq_true (by omega)]; rfl
        rw [show a % 2 ^ 2 = 0 from h4, Nat.zero_testBit] at hmod
        exact absurd hmod (by decide)
      have hhi : j < 16 := by
        by_contra hge
        rw [Nat.testBit_lt_two_pow (h16.trans_le (Nat.pow_le_pow_right (by decide) (Nat.not_lt.mp hge)))] at hj
        exact absurd hj (by decide)
      simp [hlo, show j - 2 < 14 by omega]
  have hone : 1 &&& a = 0 := by rw [Nat.one_and_eq_mod_two]; omega
  rw [hmask, ← add_eq_or hone]
  omega

/-! ### A register without an effect of its own -/

/-- A write of `v` to the register of the row `r` at `a`, as its fields take it. -/
structure Written (r : RegRow) (a v : Nat) (s t : State) : Prop where
  glb : t.glb = s.glb
  hif : t.hif = s.hif
  same : ∀ o, o ≠ a → o ≠ 0x000C → getReg t o = getReg s o
  field : ∀ f ∈ r.fields, ∀ i, f.lo ≤ i → i ≤ f.hi → FieldTakes s f a ((getReg s a).testBit i) (v.testBit i) ((getReg t a).testBit i)
  reserved : ∀ i, (∀ f ∈ r.fields, i < f.lo ∨ f.hi < i) → (getReg t a).testBit i = false
  flagged : a ≠ 0x000C → (∃ f ∈ r.fields, fieldLocked s f.acc a = true ∧ lockFlags f.acc = true ∧
    bitsOf v f.lo (f.hi - f.lo + 1) ≠ bitsOf (getReg s a) f.lo (f.hi - f.lo + 1)) → getReg t 0x000C = a + 1
  clean : a ≠ 0x000C → (∀ f ∈ r.fields, fieldLocked s f.acc a = true → lockFlags f.acc = true →
    bitsOf v f.lo (f.hi - f.lo + 1) = bitsOf (getReg s a) f.lo (f.hi - f.lo + 1)) → getReg t 0x000C = getReg s 0x000C

/-- GLB_LOCK_VIOL's own fields flag no write. -/
theorem lockFlags_violation (h : regAt 0x000C = some (r, k)) : ∀ f ∈ r.fields, lockFlags f.acc = false := by
  have hrow : ∀ x ∈ regAt 0x000C, ∀ f ∈ x.1.fields, lockFlags f.acc = false := by decide +kernel
  exact hrow _ h

theorem plainWrite_written (hrow : regAt a = some (r, k)) (h4 : a % 4 = 0) (h16 : a < 2 ^ 16) : Written r a v s (plainWrite r a v s) := by
  have hw := wordFields_of_regAt hrow
  have hfl := flagged_iff (s := s) (off := a) (old := getReg s a) (v := v) (fs := r.fields)
  have hlt := writeFields_lt (s := s) (off := a) (old := getReg s a) (v := v) hw
  have hset : ∀ i, (getReg (setReg a (writeFields s a (getReg s a) v r.fields).1 s) a).testBit i =
      (writeFields s a (getReg s a) v r.fields).1.testBit i := fun i => by rw [getReg_setReg_same, Nat.mod_eq_of_lt hlt]
  have hreg : ∀ i, (getReg (plainWrite r a v s) a).testBit i = (writeFields s a (getReg s a) v r.fields).1.testBit i := by
    intro i
    unfold plainWrite
    dsimp only
    split
    · next hflag =>
      obtain ⟨f, hf, -, hflags, -⟩ := hfl.mp hflag
      have ha : a ≠ 0x000C := by
        rintro rfl
        rw [lockFlags_violation hrow f hf] at hflags
        exact absurd hflags (by decide)
      rw [lockViol, getReg_setReg_other ha, hset]
    · exact hset i
  refine ⟨?_, ?_, fun o ho hviol => ?_, fun f hf i hlo hhi => ?_, fun i hi => ?_, fun ha hex => ?_, fun ha hall => ?_⟩
  · unfold plainWrite
    dsimp only
    split <;> rfl
  · unfold plainWrite
    dsimp only
    split <;> rfl
  · unfold plainWrite
    dsimp only
    split
    · rw [lockViol, getReg_setReg_other hviol, getReg_setReg_other ho]
    · exact getReg_setReg_other ho
  · rw [hreg, testBit_writeFields_mem hw hf hlo hhi]
    exact fieldBit_takes s f a (getReg s a) v i
  · rw [hreg, testBit_writeFields_none hw hi]
  · unfold plainWrite
    dsimp only
    rw [if_pos (hfl.mpr hex), lockViol, getReg_setReg_same, violWord h4 h16]
  · unfold plainWrite
    dsimp only
    rw [if_neg, getReg_setReg_other (Ne.symm ha)]
    intro hflag
    obtain ⟨f, hf, hl, hflags, hne⟩ := hfl.mp hflag
    exact hne (hall f hf hl hflags)

/-- What decides whether a field takes a write stays. -/
theorem fieldLocked_congr (hg : t.glb = s.glb) (hr : ∀ o, getReg t o = getReg s o) : fieldLocked t c off = fieldLocked s c off := by
  unfold fieldLocked
  rw [hg, hr, hr, hr, hr]

theorem FieldTakes.congr {old new now : Bool} (h : FieldTakes s f off old new now) (hg : t.glb = s.glb) (hr : ∀ o, getReg t o = getReg s o) :
    FieldTakes t f off old new now := by
  unfold FieldTakes
  rw [fieldLocked_congr hg hr, hg]
  exact h

/-- Registers and engine before the write are all that matter. -/
theorem Written.before {u : State} (h : Written r a v u t) (hg : u.glb = s.glb) (hh : u.hif = s.hif) (hr : ∀ o, getReg u o = getReg s o) : Written r a v s t := by
  obtain ⟨h1, h2, h3, h4, h5, h6, h7⟩ := h
  refine ⟨h1.trans hg, h2.trans hh, fun o ho hv => (h3 o ho hv).trans (hr o), fun f hf i hlo hhi => ?_, h5, fun ha hex => h6 ha ?_, fun ha hall => ?_⟩
  · rw [← hr a]
    exact (h4 f hf i hlo hhi).congr hg.symm fun o => (hr o).symm
  · simpa only [fieldLocked_congr hg hr, hr a] using hex
  · rw [← hr 0x000C]
    exact h7 ha (by simpa only [fieldLocked_congr hg hr, hr a] using hall)

theorem regWrite_plain (hname : r.name ∉ ownEffect) : regWrite r k a v s = plainWrite r a v s := by
  unfold regWrite
  split
  case h_25 => rfl
  all_goals
    next h =>
    rw [h] at hname
    exact absurd (by decide) hname

/-- BAR0 takes a write of this register: no test space after RUN, no counter, no two-wire register under SMB_RST_N. -/
structure Writable (a : Nat) (s : State) : Prop where
  bar : barUp s = true
  space : a < 0x4000 ∨ (0x8000 ≤ a ∧ s.glb.run = false)
  twp : a < 0x3800 ∨ 0x3C00 ≤ a ∨ s.glb.smbRstLow = false

theorem writeReg_row (h : Writable a s) (hrow : regAt a = some (r, k)) : writeReg a v s = regWrite r k a v (cfgFlit a v s) := by
  obtain ⟨-, hspace, htwp⟩ := h
  unfold writeReg
  rw [if_neg, if_neg, if_neg, hrow]
  · rintro ⟨hlo, hhi, hlow⟩
    rcases htwp with h | h | h
    · omega
    · omega
    · rw [h] at hlow
      exact absurd hlow (by decide)
  · rcases hspace with h | ⟨h, -⟩ <;> omega
  · rintro ⟨hlo, hrun⟩
    rcases hspace with h | ⟨-, h⟩
    · omega
    · rw [h] at hrun
      exact absurd hrun (by decide)

/-- A full-dword write on a part that the manual covers, or of no RUN. -/
theorem exec_registerWrite {off : BitVec 16} {w : Word} (hbar : barUp s = true) (ha : a = off.toNat / 4 * 4)
    (hrun : a ≠ 4 ∨ w.getLsbD 0 = false ∨ s.glb.otp.iodGen = 2 ∨ s.glb.otp.iodGen = 3) :
    exec (.registerWrite off w 15) s = .next (writeReg a w.toNat s) := by
  subst ha
  refine (if_neg (by simp [hbar])).trans (if_neg ?_)
  rintro ⟨h4, hset, h2, h3⟩
  rcases hrun with h | h | h | h
  · exact h h4
  · rw [h] at hset
    exact absurd hset (by decide)
  · exact h2 h
  · exact h3 h

theorem regAt_ctl : (regAt 4).map (fun x => x.1.name) = some "GLB_CTL" := by decide +kernel

/-- A register without an effect of its own takes a write by its fields alone. -/
theorem registerWrite_plain {off : BitVec 16} {w : Word} (h : Writable a s) (ha : a = off.toNat / 4 * 4) (hrow : regAt a = some (r, k))
    (hname : r.name ∉ ownEffect) : ∃ t, exec (.registerWrite off w 15) s = .next t ∧ Written r a w.toNat s t := by
  have h4 : a ≠ 4 := by
    rintro rfl
    have hctl := regAt_ctl
    rw [hrow, Option.map_some, Option.some.injEq] at hctl
    rw [hctl] at hname
    exact absurd (by decide) hname
  refine ⟨_, exec_registerWrite h.bar ha (.inl h4), ?_⟩
  rw [writeReg_row h hrow, regWrite_plain hname]
  have hflit : Keeps [.links] s (cfgFlit a w.toNat s) := cfgFlit_keeps
  exact (plainWrite_written hrow (by omega) (by have := off.isLt; omega)).before (hflit.glb_eq rfl) (hflit.at .hif rfl) fun _ => hflit.getReg_eq rfl

/-! ### The words of TST_DATA (R436, R437) -/

theorem testWord_aligned {space unit : Nat} (h : testWord s = (space, unit, off)) : off % 4 = 0 := by
  have hoff : (testWord s).2.2 % 4 = 0 := by
    unfold testWord
    dsimp only
    split <;> dsimp only <;> omega
  rwa [h] at hoff

theorem tgetList_tsetList {bs : List Byte} {m : List (Nat × Byte)} : tgetList 0 k bs.length (tsetList 0 k bs m) = bs := by
  refine List.ext_getElem (by simp [tgetList]) fun i hi hi' => ?_
  have hget := tget_tsetList (x := (0 : Byte)) (vs := bs) (i := i) (k := k) (m := m) hi'
  rw [List.getElem?_eq_getElem hi', Option.some.injEq] at hget
  simpa [tgetList] using hget

/-- A word of a trace buffer after a write reads as written. -/
theorem traceBytes_written {bs : List Byte} {x : Trace} (hbs : bs.length = 4) (h4 : off % 4 = 0) :
    traceBytes { x with recs := tupd [] (off / 32) (fun r => overlay (padTo 32 r) (off % 32) bs) x.recs } off = bs := by
  have hin : off % 32 + bs.length ≤ (padTo 32 (tget [] (off / 32) x.recs)).length := by
    rw [length_padTo]
    omega
  have hslice := slice_overlay hin
  refine (List.map_congr_left fun i hi => ?_).trans (map_getElem?_range hbs)
  have hi4 := List.mem_range.mp hi
  rw [show (off + i) / 32 = off / 32 by omega, show (off + i) % 32 = off % 32 + i by omega, tupd, tget_tset_same,
    ← getElem?_slice (len := bs.length) (by omega), hslice]

/-- What a word of the test space is read from. -/
structure SameSpace (s t : State) : Prop where
  tiles : t.tiles = s.tiles
  plots : t.plots = s.plots
  trc : t.trc = s.trc
  hrw : t.hrw = s.hrw

theorem SameSpace.testGet_eq (h : SameSpace s t) {space unit : Nat} : testGet t space unit off = testGet s space unit off := by
  have htile : getTile t unit = getTile s unit := getTile_congr h.tiles
  have hplot : getPlot t unit = getPlot s unit := getPlot_congr h.plots
  have htrc : getTrc t unit = getTrc s unit := by rw [getTrc, getTrc, h.trc]
  have hhrw : getHrw t (unit / 256) = getHrw s (unit / 256) := getHrw_congr h.hrw
  unfold testGet testGet.knownBad
  rw [htile, hplot, htrc, hhrw]

theorem sendFlit_space {p q cls op : Nat} {body : List Byte} : SameSpace s (sendFlit p q cls op body s) :=
  ⟨sendFlit_keeps.at .tiles rfl, sendFlit_keeps.at .plots rfl, sendFlit_keeps.at .trc rfl, sendFlit_keeps.at .hrw rfl⟩

theorem testAdvance_space : SameSpace s (testAdvance s) := ⟨rfl, rfl, rfl, rfl⟩

/-- A configuration word is no longer among those known to be bad. -/
def configGood (unit word : Nat) (sh : Bool) (s : State) : State :=
  setHrw (unit / 256) { getHrw s (unit / 256) with known := (getHrw s (unit / 256)).known.filter (fun w => match w with
    | .config u k b => !decide (u.val = unit ∧ k = word ∧ b = sh)
    | .regCopy .. | .table .. | .fieldMap .. | .slot .. | .master .. => true) } s

/-- A word of a tile's store, of its active or shadow bank, of a plot's buffer and of a trace buffer as written. -/
def tsPut (off v : Nat) (T : Tile) : Tile := { tsWrite off 4 v T with tsBad := without (off / 8) T.tsBad }
def activePut (off v : Nat) (T : Tile) : Tile := { T with active := { T.active with words := tset 0 (off / 4) (BitVec.ofNat 32 v) T.active.words } }
def shadowPut (off v : Nat) (T : Tile) : Tile := { T with shadow := { T.shadow with words := tset 0 (off / 4) (BitVec.ofNat 32 v) T.shadow.words } }
def bufPut (off v : Nat) (p : Plot) : Plot := { p with buf := tsetList 0 off (leBytes 4 v) p.buf, bufBad := without (off / 8) p.bufBad }
def recPut (off v : Nat) (x : Trace) : Trace :=
  { x with recs := tupd [] (off / 32) (fun r => overlay (padTo 32 r) (off % 32) (leBytes 4 v)) x.recs }

section
variable {unit : Nat}

theorem tsBytes_tsPut {T : Tile} : tsBytes (tsPut off v T) off 4 = v % 2 ^ 32 := by
  have hts : (tsPut off v T).ts = (tsWrite off 4 v T).ts := rfl
  rw [tsBytes, hts, ← tsBytes, tsBytes_tsWrite (by decide)]

theorem testPut_store : testPut 0 unit off v s = setTile unit (tsPut off v (getTile s unit)) s := rfl
theorem testPut_active : testPut 1 unit off v s = configGood unit (off / 4) false (setTile unit (activePut off v (getTile s unit)) s) := rfl
theorem testPut_shadow : testPut 2 unit off v s = configGood unit (off / 4) true (setTile unit (shadowPut off v (getTile s unit)) s) := rfl
theorem testPut_buf : testPut 3 unit off v s = updPlot unit (bufPut off v) s := rfl
theorem testPut_trace : testPut 4 unit off v s = { s with trc := tset Trace.init unit (recPut off v (getTrc s unit)) s.trc } := rfl

theorem testGet_store : testGet s 0 unit off =
    if off / 8 ∈ (getTile s unit).tsBad then none else some (tsBytes (getTile s unit) off 4) := rfl
theorem testGet_active : testGet s 1 unit off =
    if testGet.knownBad unit (off / 4) false s then none else some (bankWord (getTile s unit).active (off / 4)) := rfl
theorem testGet_shadow : testGet s 2 unit off =
    if testGet.knownBad unit (off / 4) true s then none else some (bankWord (getTile s unit).shadow (off / 4)) := rfl
theorem testGet_buf : testGet s 3 unit off =
    if off / 8 ∈ (getPlot s unit).bufBad then none else some (leNat (tgetList 0 off 4 (getPlot s unit).buf)) := rfl
theorem testGet_trace : testGet s 4 unit off = some (leNat (traceBytes (getTrc s unit) off)) := rfl

theorem knownBad_configGood {word : Nat} {sh : Bool} : testGet.knownBad unit word sh (configGood unit word sh s) = false := by
  unfold testGet.knownBad configGood
  rw [getHrw_setHrw_same]
  refine List.any_eq_false.mpr fun w hw => ?_
  have hkept := (List.mem_filter.mp hw).2
  cases w with
  | config u k b => simpa only [Bool.not_eq_true', decide_eq_false_iff_not, decide_eq_true_eq] using hkept
  | _ => simp

theorem getTile_configGood {word : Nat} {sh : Bool} {T : Tile} : getTile (configGood unit word sh (setTile unit T s)) unit = T := getTile_setTile_same

/-- A word of the test space reads as it was written. -/
theorem testGet_testPut {space : Nat} (hspace : space ≤ 4) (h4 : off % 4 = 0) (hv : v < 2 ^ 32) :
    testGet (testPut space unit off v s) space unit off = some v := by
  have hword : leNat (leBytes 4 v) = v := leNat_leBytes.trans (Nat.mod_eq_of_lt hv)
  have hof : (BitVec.ofNat 32 v).toNat = v := (BitVec.toNat_ofNat v 32).trans (Nat.mod_eq_of_lt hv)
  have hcases : space = 0 ∨ space = 1 ∨ space = 2 ∨ space = 3 ∨ space = 4 := by omega
  rcases hcases with rfl | rfl | rfl | rfl | rfl
  · rw [testPut_store, testGet_store, getTile_setTile_same]
    refine (if_neg not_mem_without).trans (congrArg some ?_)
    rw [tsBytes_tsPut]
    exact Nat.mod_eq_of_lt hv
  · rw [testPut_active, testGet_active, knownBad_configGood, getTile_configGood, if_neg Bool.false_ne_true]
    exact congrArg some ((congrArg BitVec.toNat (tget_tset_same _)).trans hof)
  · rw [testPut_shadow, testGet_shadow, knownBad_configGood, getTile_configGood, if_neg Bool.false_ne_true]
    exact congrArg some ((congrArg BitVec.toNat (tget_tset_same _)).trans hof)
  · rw [testPut_buf, testGet_buf, getPlot_updPlot_same]
    refine (if_neg not_mem_without).trans (congrArg some ?_)
    exact (congrArg leNat (tgetList_tsetList (bs := leBytes 4 v))).trans hword
  · rw [testPut_trace, testGet_trace, getTrc, tget_tset_same, recPut, traceBytes_written length_leBytes h4]
    exact congrArg some hword

/-! ### TST_DATA -/

variable {space : Nat}

theorem getReg_testAdvance (h : getReg t 0x8004 = getReg s 0x8004) : getReg (testAdvance t) 0x8004 = (getReg s 0x8004 + 4) % 2 ^ 32 := by
  rw [testAdvance, getReg_setReg_same, h]

/-- The request of a test write to the unit's die. -/
def testWriteSent (space unit v : Nat) (s : State) : State :=
  sendFlit 4 (testDie space unit) 7 3 (leBytes 4 (getReg s 0x8000) ++ leBytes 4 (getReg s 0x8004) ++ leBytes 4 v) s

/-- The request of a test read, met with an error or not. -/
def testReadSent (bad : Bool) (space unit off : Nat) (s : State) : State :=
  let u := sendFlit 4 (testDie space unit) 7 2 (leBytes 4 (getReg s 0x8000) ++ leBytes 4 (getReg s 0x8004)) s
  if bad then testMark space unit off u else u

/-- The answer of the die to a test read. -/
def testReadDone (space unit : Nat) (w : Option Nat) (s : State) : Nat × State :=
  match w with
  | some v => (v, testAdvance (sendFlit (testDie space unit) 4 7 4 (leBytes 4 v ++ leBytes 1 0) s))
  | none => (0xFFFFFFFF, testAdvance (orReg 0x800C 1 (sendFlit (testDie space unit) 4 7 4 (leBytes 4 0xFFFFFFFF ++ leBytes 1 1) s)))

theorem testWrite_reached (hw : testWord s = (space, unit, off)) (hspace : space ≤ 4) (hreach : testReach s (testDie space unit) = true) :
    testWrite v s = testAdvance (testPut space unit off v (testWriteSent space unit v s)) := by
  unfold testWrite
  rw [hw]
  exact congrArg testAdvance (if_pos (by rw [hreach, decide_eq_true hspace]; rfl))

theorem testWrite_reserved (hw : testWord s = (space, unit, off)) (hspace : 4 < space) : testWrite v s = testAdvance s := by
  unfold testWrite
  rw [hw]
  exact congrArg testAdvance (if_neg (by rw [decide_eq_false (Nat.not_le.mpr hspace), Bool.false_and]; decide))

theorem testRead_reached {bad : Bool} (hw : testWord s = (space, unit, off)) (hspace : space ≤ 4) (hreach : testReach s (testDie space unit) = true) :
    testRead bad s = testReadDone space unit (if bad then none else testGet (testReadSent bad space unit off s) space unit off)
      (testReadSent bad space unit off s) := by
  unfold testRead
  rw [hw]
  exact (if_neg (Nat.not_lt.mpr hspace)).trans (if_neg (by rw [hreach]; decide))

theorem testRead_reserved {bad : Bool} (hw : testWord s = (space, unit, off)) (hspace : 4 < space) : testRead bad s = (0, testAdvance s) := by
  unfold testRead
  rw [hw]
  exact if_pos hspace

theorem testReadSent_keeps {bad : Bool} : Keeps [.links, .tiles, .plots] s (testReadSent bad space unit off s) := by
  have hflit : Keeps [.links] s (sendFlit 4 (testDie space unit) 7 2 (leBytes 4 (getReg s 0x8000) ++ leBytes 4 (getReg s 0x8004)) s) := sendFlit_keeps
  exact keeps_ite ((hflit.weaken rfl).after testMark_keeps rfl) (hflit.weaken rfl)

/-- A word that is read is answered, and TST_OFF goes on. -/
theorem testReadDone_some {w : Nat} {u : State} (h : getReg u 0x8004 = getReg s 0x8004) : (testReadDone space unit (some w) u).1 = w ∧
    getReg (testReadDone space unit (some w) u).2 0x8004 = (getReg s 0x8004 + 4) % 2 ^ 32 :=
  ⟨rfl, getReg_testAdvance ((sendFlit_keeps.getReg_eq rfl).trans h)⟩

/-- A word that is met with an error is answered by ones, and the error is flagged. -/
theorem testReadDone_none {u : State} (h : getReg u 0x8004 = getReg s 0x8004) : (testReadDone space unit none u).1 = 0xFFFFFFFF ∧
    (getReg (testReadDone space unit none u).2 0x800C).testBit 0 = true ∧
    getReg (testReadDone space unit none u).2 0x8004 = (getReg s 0x8004 + 4) % 2 ^ 32 := by
  refine ⟨rfl, ?_, getReg_testAdvance ?_⟩
  · unfold testReadDone testAdvance
    dsimp only
    rw [getReg_setReg_other (by decide), getReg_orReg_same, Nat.testBit_mod_two_pow, Nat.testBit_or]
    simp
  · rw [orReg, getReg_setReg_other (by decide)]
    exact (sendFlit_keeps.getReg_eq rfl).trans h

theorem answerWord_data {w x : Nat} (h : w = x) : (answerWord w s).answer = some { data := leBytes 4 x, poisoned := false } := by
  subst h
  rfl

theorem answerWord_reg {w o : Nat} : getReg (answerWord w s) o = getReg s o := answerWord_keeps.getReg_eq rfl

theorem exec_tstDataRead {bad : Bool} (hbar : barUp s = true) (hrun : s.glb.run = false) :
    exec (.tstDataRead bad) s = .next (answerWord (testRead bad s).1 (testRead bad s).2) := by
  refine (congrArg Host.Outcome.next (if_pos hbar)).trans (congrArg Host.Outcome.next ?_)
  unfold tstDataRead
  rw [hrun]
  rfl

theorem exec_tstDataWrite {w : Word} (hbar : barUp s = true) (hrun : s.glb.run = false) : exec (.tstDataWrite w) s = .next (testWrite w.toNat s) :=
  (congrArg Host.Outcome.next (if_pos hbar)).trans (congrArg Host.Outcome.next (if_neg (by rw [hrun]; decide)))

end

/-! ### Registers with a row of their own -/

/-- A register of a block outside the compute dies, whose write sets off what its row says. -/
theorem registerWrite_own {o : BitVec 16} {w : Word} (ha : a = o.toNat / 4 * 4) (h4 : a ≠ 4) (hlo : a < 0x3800) (hrow : regAt a = some (r, k))
    {u : State} (hown : regWrite r k a w.toNat s = u) : exec (.registerWrite o w 15) s = .next (if barUp s then u else s) := by
  cases hbar : barUp s with
  | false => exact if_pos (by rw [hbar]; rfl)
  | true =>
    rw [exec_registerWrite hbar ha (.inl h4), if_pos rfl,
      writeReg_row ⟨hbar, .inl (hlo.trans (by decide)), .inl hlo⟩ hrow, ← hown]
    have hflit : cfgFlit a w.toNat s = s := by
      unfold cfgFlit blockDie
      rw [if_neg (by omega), if_neg (by omega)]
    rw [hflit]

/-- A register of one field from bit 0 up takes the bits that the field's access says. -/
theorem Written.single {x : Nat} (h : Written r a v s t) (hfields : r.fields = [f]) (hlo : f.lo = 0)
    (hbit : ∀ i now, FieldTakes s f a ((getReg s a).testBit i) (v.testBit i) now → now = x.testBit i) : getReg t a = x % 2 ^ (f.hi + 1) := by
  refine Nat.eq_of_testBit_eq fun i => ?_
  rw [Nat.testBit_mod_two_pow]
  by_cases hi : i ≤ f.hi
  · rw [decide_eq_true (Nat.lt_succ_of_le hi), Bool.true_and]
    exact hbit i _ (h.field f (hfields ▸ List.mem_singleton_self f) i (hlo ▸ Nat.zero_le i) hi)
  · rw [decide_eq_false (by omega), Bool.false_and]
    refine h.reserved i fun g hg => .inr ?_
    rw [hfields, List.mem_singleton] at hg
    rw [hg]
    exact Nat.not_le.mp hi

/-- A write that no field refuses leaves every other register. -/
theorem Written.others (h : Written r a v s t) (ha : a ≠ 0x000C) (hflags : ∀ f ∈ r.fields, lockFlags f.acc = false) {o : Nat} (ho : o ≠ a) :
    getReg t o = getReg s o := by
  by_cases hviol : o = 0x000C
  · rw [hviol]
    refine h.clean ha fun f hf _ hl => ?_
    rw [hflags f hf] at hl
    exact absurd hl (by decide)
  · exact h.same o ho hviol

def cntPageRow : RegRow := ⟨"GLB_CNT_PAGE", 0x0018, 0, 1, [⟨0, 0, .rw, 0, false⟩]⟩
def causeRow : RegRow := ⟨"RST_CAUSE", 0x0440, 0, 1, [⟨7, 0, .rw1c, 1, false⟩]⟩
def tmaxRow : RegRow := ⟨"CLK_TMAX", 0x0414, 0, 1, [⟨1, 0, .rwl, 0, false⟩]⟩
def levelRow : RegRow := ⟨"RST_BACKLOG_LEVEL", 0x0444, 0, 1, [⟨12, 0, .ro, 0, false⟩]⟩
def timeSetRow : RegRow := ⟨"CLK_TIME_SET_LO", 0x0420, 0, 1, [⟨31, 0, .rwl, 0, false⟩]⟩
def hifRow : RegRow := ⟨"HIF_CTL", 0x0800, 0, 1, [⟨0, 0, .rw, 0, false⟩]⟩
def masterRow : RegRow := ⟨"BBP_PTP_MASTER2", 0x2028, 0, 1, [⟨15, 0, .rw, 0, false⟩]⟩
def testRow : RegRow := ⟨"TST_DATA", 0x8008, 0, 1, [⟨31, 0, .rwTest, 0, false⟩]⟩
def ringRow : RegRow := ⟨"HIF_RING_CTL", 0x090C, 16, 36, [⟨0, 0, .rw, 0, false⟩]⟩

theorem regAt_cntPage : regAt 0x0018 = some (cntPageRow, 0) := by decide +kernel
theorem regAt_cause : regAt 0x0440 = some (causeRow, 0) := by decide +kernel
theorem regAt_tmax : regAt 0x0414 = some (tmaxRow, 0) := by decide +kernel
theorem regAt_level : regAt 0x0444 = some (levelRow, 0) := by decide +kernel
theorem regAt_timeSet : regAt 0x0420 = some (timeSetRow, 0) := by decide +kernel
theorem regAt_hif : regAt 0x0800 = some (hifRow, 0) := by decide +kernel
theorem regAt_master : regAt 0x2028 = some (masterRow, 0) := by decide +kernel
theorem regAt_test : regAt 0x8008 = some (testRow, 0) := by decide +kernel
theorem regAt_ring : ∀ k : Fin 36, regAt (0x090C + 16 * k) = some (ringRow, k.val) := by decide +kernel

/-- TST_DATA written through its register. -/
theorem registerWrite_tstData {w : Word} : exec (.registerWrite 0x8008 w 15) s = exec (.tstDataWrite w) s := by
  cases hbar : barUp s with
  | false => exact (if_pos (by rw [hbar]; rfl)).trans (congrArg Host.Outcome.next (if_neg (by rw [hbar]; decide))).symm
  | true =>
    rw [exec_registerWrite (a := 0x8008) hbar rfl (.inl (by decide))]
    cases hrun : s.glb.run with
    | true =>
      refine (congrArg Host.Outcome.next (if_pos ⟨by decide, hrun⟩)).trans (congrArg Host.Outcome.next ?_).symm
      rw [if_pos hbar, if_pos hrun]
    | false =>
      rw [exec_tstDataWrite hbar hrun, writeReg_row ⟨hbar, .inr ⟨by decide, hrun⟩, .inr (.inl (by decide))⟩ regAt_test]
      rfl

theorem getReg_adopted {w : Nat} : getReg (ptpMasterAdopt w s) 0x2028 = w % 65536 ∧ (ptpMasterAdopt w s).ptp.master =
    getReg s 0x2020 % 2 ^ 32 + 2 ^ 32 * (getReg s 0x2024 % 2 ^ 32) + 2 ^ 64 * (w % 65536) := by
  have hlt : w % 65536 < 2 ^ 32 := (Nat.mod_lt _ (by decide)).trans (by decide)
  rw [Nat.mod_eq_of_lt (getReg_lt (off := 0x2020)), Nat.mod_eq_of_lt (getReg_lt (off := 0x2024))]
  refine ⟨(getReg_setRegIn_same (hi := 0x2400) (off := 0x2028) (by decide)).trans (Nat.mod_eq_of_lt hlt), ?_⟩
  have hkeep : ∀ o, o ≠ 0x2028 → getReg (setRegIn 0x2400 0x2028 (w % 65536) s) o = getReg s o := fun o ho => getReg_setRegIn_other ho
  unfold ptpMasterAdopt
  dsimp only
  exact congrArg₂ (fun x y => x + 2 ^ 32 * y + 2 ^ 64 * (w % 65536)) (hkeep 0x2020 (by decide)) (hkeep 0x2024 (by decide))

/-- A register outside the counters, the two-wire block and the test space is always writable. -/
theorem writable_low (hbar : barUp s = true) (ha : a < 0x3800) : Writable a s := ⟨hbar, .inl (ha.trans (by decide)), .inl ha⟩

/-- Settles O14: a plain write field by field (`plainWrite_written`), a register with a row of its own by that row, and the test space by what a
word reads as after it is written. -/
theorem registerWrites : Obligations.RegisterWrites := by
  unfold Obligations.RegisterWrites
  refine ⟨?plain, ?nothing, ?rows, ?rings, ?page, ?cause, ?tmax, ?tmaxLocked, ?level, ?enables, ?master, ?testWrite, ?testRead, ?testBad, ?reserved,
    ?afterRun⟩
  case plain =>
    intro s off v a k r hbar ha hspace htwp hrow hname
    obtain ⟨t, hexec, h⟩ := registerWrite_plain (w := v) ⟨hbar, hspace, htwp⟩ ha hrow hname
    refine ⟨t, hexec, h.glb, h.field, h.reserved, h.same, fun hviol hrun hex => ?_, h.clean⟩
    obtain ⟨f, hf, hacc, hne⟩ := hex
    exact h.flagged hviol ⟨f, hf, by rw [hacc]; exact hrun, by rw [hacc]; rfl, hne⟩
  case nothing =>
    intro s off v hlo hrow
    have h4 : off.toNat / 4 * 4 ≠ 4 := by
      intro h4
      have hctl := regAt_ctl
      rw [← h4, hrow] at hctl
      exact absurd hctl (by decide)
    cases hbar : barUp s with
    | false => exact if_pos (by rw [hbar]; rfl)
    | true =>
      rw [exec_registerWrite hbar rfl (.inl h4)]
      refine congrArg Host.Outcome.next ?_
      unfold writeReg
      rw [if_neg (by omega), if_neg (by omega), hrow]
      exact ite_self s
  case rows =>
    intro s v
    refine ⟨?_, ?_, ?_, registerWrite_tstData⟩
    · exact registerWrite_own (a := 0x0420) (u := devTimeLoad v s) rfl (by decide) (by decide) regAt_timeSet
        (congrArg (devTimeLoad · s) ((BitVec.ofNat_toNat 32 v).trans (BitVec.setWidth_eq v)))
    · exact registerWrite_own (a := 0x0800) (u := hifEnable (v.getLsbD 0) s) rfl (by decide) (by decide) regAt_hif rfl
    · refine registerWrite_own (a := 0x2028) (u := ptpMasterAdopt (v.setWidth 16).toNat s) rfl (by decide) (by decide) regAt_master ?_
      have hmod : (v.setWidth 16).toNat % 65536 = v.toNat % 65536 := by rw [BitVec.toNat_setWidth, Nat.mod_mod]
      show ptpMasterAdopt v.toNat s = ptpMasterAdopt (v.setWidth 16).toNat s
      unfold ptpMasterAdopt
      rw [hmod]
  case rings =>
    intro s v k
    refine registerWrite_own (a := 0x090C + 16 * k) (u := ringEnable k (v.getLsbD 0) s) ?_ (by omega) (by omega) (regAt_ring k) rfl
    rw [BitVec.toNat_ofNat]
    omega
  case page =>
    intro s v hbar
    obtain ⟨t, hexec, h⟩ := registerWrite_plain (off := 0x0018) (w := v) (writable_low hbar (by decide)) rfl regAt_cntPage (by decide)
    exact ⟨t, hexec, h.single rfl rfl fun i now hnow => hnow, fun o ho => h.others (by decide) (by decide) ho⟩
  case cause =>
    intro s v k hbar hk
    obtain ⟨t, hexec, h⟩ := registerWrite_plain (off := 0x0440) (w := v) (writable_low hbar (by decide)) rfl regAt_cause (by decide)
    exact ⟨t, hexec, h.field _ (List.mem_singleton_self _) k (Nat.zero_le k) (Nat.le_of_lt_succ hk), fun o ho => h.others (by decide) (by decide) ho⟩
  case tmax =>
    intro s v hbar hrun
    obtain ⟨t, hexec, h⟩ := registerWrite_plain (off := 0x0414) (w := v) (writable_low hbar (by decide)) rfl regAt_tmax (by decide)
    refine ⟨t, hexec, h.single rfl rfl fun i now hnow => ?_, h.clean (by decide) fun f hf hl _ => ?_⟩
    · exact hnow.trans (if_neg (by rw [hrun]; decide))
    · rw [List.mem_singleton.mp hf] at hl
      exact absurd (hrun.symm.trans hl) (by decide)
  case tmaxLocked =>
    intro s v hbar hrun hne
    obtain ⟨t, hexec, h⟩ := registerWrite_plain (off := 0x0414) (w := v) (writable_low hbar (by decide)) rfl regAt_tmax (by decide)
    exact ⟨t, hexec, h.single rfl rfl fun i now hnow => hnow.trans (if_pos hrun),
      h.flagged (by decide) ⟨_, List.mem_singleton_self _, hrun, rfl, hne.symm⟩⟩
  case level =>
    intro s v hbar
    obtain ⟨t, hexec, h⟩ := registerWrite_plain (off := 0x0444) (w := v) (writable_low hbar (by decide)) rfl regAt_level (by decide)
    exact ⟨t, hexec, h.glb, h.hif, fun o ho => h.others (by decide) (by decide) ho⟩
  case enables =>
    intro s off v be hbe
    refine if_pos ?_
    have hval : be.val ≠ 15 := fun h => hbe (Fin.ext h)
    rw [decide_eq_true hval, Bool.or_true]
  case master =>
    intro s v hbar
    obtain ⟨hreg, hmaster⟩ := getReg_adopted (s := s) (w := v.toNat)
    rw [Nat.mod_eq_of_lt v.isLt] at hreg hmaster
    exact ⟨_, congrArg Host.Outcome.next (if_pos hbar), hmaster, hreg⟩
  case testWrite =>
    intro s v space unit off hbar hrun hword hspace hreach
    refine ⟨_, exec_tstDataWrite hbar hrun, ?_, ?_⟩
    · rw [testWrite_reached hword hspace hreach, testAdvance_space.testGet_eq]
      exact testGet_testPut hspace (testWord_aligned hword) v.isLt
    · rw [testWrite_reached hword hspace hreach]
      have hput : getReg (testPut space unit off v.toNat (testWriteSent space unit v.toNat s)) 0x8004 = getReg s 0x8004 :=
        (testPut_keeps.getReg_eq rfl).trans (sendFlit_keeps.getReg_eq rfl)
      exact getReg_testAdvance hput
  case testRead =>
    intro s w space unit off hbar hrun hword hspace hreach hget
    have hread := testRead_reached (bad := false) hword hspace hreach
    have hsame : testGet (testReadSent false space unit off s) space unit off = some w := sendFlit_space.testGet_eq.trans hget
    rw [if_neg Bool.false_ne_true, hsame] at hread
    obtain ⟨hdata, hoff⟩ := testReadDone_some (space := space) (unit := unit) (w := w) (testReadSent_keeps.getReg_eq rfl :
      getReg (testReadSent false space unit off s) 0x8004 = getReg s 0x8004)
    rw [← hread] at hdata hoff
    exact ⟨_, exec_tstDataRead hbar hrun, answerWord_data hdata, answerWord_reg.trans hoff⟩
  case testBad =>
    intro s space unit off hbar hrun hword hspace hreach
    have hread := testRead_reached (bad := true) hword hspace hreach
    rw [if_pos rfl] at hread
    obtain ⟨hdata, hflag, hoff⟩ := testReadDone_none (space := space) (unit := unit) (testReadSent_keeps.getReg_eq rfl :
      getReg (testReadSent true space unit off s) 0x8004 = getReg s 0x8004)
    rw [← hread] at hdata hflag hoff
    exact ⟨_, exec_tstDataRead hbar hrun, answerWord_data hdata,
      (congrArg (Nat.testBit · 0) answerWord_reg).trans hflag, answerWord_reg.trans hoff⟩
  case reserved =>
    intro s space unit off bad v hbar hrun hword hspace
    refine ⟨⟨_, exec_tstDataRead hbar hrun, ?_⟩, ⟨_, exec_tstDataWrite hbar hrun, ?_⟩⟩
    · rw [testRead_reserved hword hspace]
      rfl
    · rw [testWrite_reserved hword hspace]
      exact ⟨rfl, rfl, rfl, getReg_testAdvance rfl⟩
  case afterRun =>
    intro s bad v hbar hrun
    refine ⟨⟨_, (congrArg Host.Outcome.next (if_pos hbar)).trans (congrArg Host.Outcome.next (if_pos hrun)), rfl, rfl⟩,
      ⟨_, (congrArg Host.Outcome.next (if_pos hbar)).trans (congrArg Host.Outcome.next (if_pos hrun)), ?_, fun o ho => getReg_setReg_other ho, rfl,
        rfl, rfl, rfl⟩⟩
    exact getReg_setReg_same

end Sys2Proof.Machine
end
